-- ==== Sys2Proof/Word.lean ====
section
/-! DEFINITION. The word types. A dictionary value is held as the natural number its bits spell, cut to the width of
the object's type wherever it is written; a byte of an addressed memory is a bit vector. -/
namespace Sys2Proof

/-- A byte of an addressed memory. -/
abbrev Byte := BitVec 8

/-- A place in a word: lowest bit and width. -/
structure Fld where
  lo : Nat
  w : Nat
  deriving DecidableEq, Repr

end Sys2Proof
end

