-- ==== Sys2Proof/Payload.lean ====
section
/-! DEFINITION. The types of the commands' operands: the path and view of an access, ring cells, head messages,
network frames. -/
namespace Sys2Proof

/-- A path to the dictionary (chapter 16): the PCIe host, DMA channel c, or the field network. -/
inductive Path where
  | host
  | dma (c : Nat)
  | net
  deriving DecidableEq, Repr

/-- The number under which a path's own copies of subindices 0x02 to 0x07 of index 0x2010 are held (R419, R423). -/
def Path.slot : Path → Nat
  | .host => 0
  | .dma c => 1 + c
  | .net => 33

/-- The four views of BAR0 (R11), with the code of MD_ABORT_WHERE [1:0] (Table 16.13). -/
inductive View where
  | primary | set | clr | tgl
  deriving DecidableEq, Repr

/-- The view's code in MD_ABORT_WHERE. -/
def View.code : View → Nat
  | .primary => 0
  | .set => 1
  | .clr => 2
  | .tgl => 3

/-- How a read is made: through a view, with all byte enables or not (R11, R422). -/
structure ReadForm where
  view : View
  full : Bool
  deriving DecidableEq, Repr

/-- An input that has stood since uptime `e`, as it is at uptime `t`. -/
structure Since where
  e : Nat
  t : Nat
  deriving DecidableEq, Repr

/-- A pulse on pair `pair` of a position interface, from uptime `e` to uptime `t` (R88). -/
structure Pulse where
  pair : Nat
  e : Nat
  t : Nat
  deriving DecidableEq, Repr

/-- A change of Z at uptime `e`, and the levels of A and B since uptime `eab` (R90). -/
structure ZChange where
  e : Nat
  ab : Nat
  eab : Nat
  deriving DecidableEq, Repr

/-- `uv` µV at a comparator at uptime `t` (R394). -/
structure Tripping where
  uv : Nat
  t : Nat
  deriving DecidableEq, Repr

/-- Accesses of the host to BAR4: double words written, by offset, and offsets read (R35). -/
structure Bar4 where
  writes : List (Nat × Nat)
  reads : List Nat
  deriving DecidableEq, Repr

/-- Fuse readings that a command brings: cell, and its reading at the normal, the high and the low margin (R501). -/
abbrev FuseReads := List (Nat × Nat × Nat × Nat)

end Sys2Proof
end

