-- ==== Sys2Proof/Syntax.lean ====
section
/-! DEFINITION. The commands: one constructor for each row of spec/opcode_table.json, with the row's operands. A
write row carries the path it arrives on; an event row carries what the outside world brings (a reading, a cell, a
level) and, where the rule depends on time, `t`, the uptime in fu at which the event happens. -/
namespace Sys2Proof

inductive Instr where
  /-- R420: A write to a dictionary object that has no row of its own, checked against access code, range and state rules. -/
  | dictWrite (p : Path) (full : Bool) (index sub w : Nat)
  /-- R425: A primary-view read of an rc object returns its value and clears the bits returned as one. -/
  | rcReadClear (p : Path) (form : ReadForm) (index sub : Nat)
  /-- R420: A write through the SET, CLR or TGL view sets, clears or toggles the bits written as one. -/
  | clrViewWrite (p : Path) (view : View) (full : Bool) (index sub w : Nat)
  /-- R419: A read of a 64-bit object returns bits 31:0 and latches bits 63:32 into the path's MD_DICT_HI. -/
  | dictRead64 (p : Path) (full : Bool) (index sub : Nat)
  /-- R419: A write of a 64-bit object takes its high word from MD_DICT_HI_STAGE, stores all 64 bits and zeroes the stage. -/
  | dictWrite64 (p : Path) (full : Bool) (index sub w : Nat)
  /-- R37: The root PLL locks, divided clocks start and press time starts at zero after RESET. -/
  | pllLock (straps t : Nat)
  /-- R42: A write of 1 loads CK_PT_SET into press time at the next FIRE tick, unless refused. -/
  | ckPtLoad (p : Path) (v : Nat)
  /-- R43: A write of 1 latches press time and RTC values and increments CK_SNAP_SEQ. -/
  | ckSnapshot (p : Path) (v : Nat)
  /-- R54: A write of 1 to CK_CONTROL.CLR_INHIBIT clears CLOCK_INHIBIT when clocks are good. -/
  | clrInhibit (p : Path)
  /-- R50: A write of CK_CONTROL.DL_FREEZE holds or releases all live delay maps and trims. -/
  | dlFreeze (p : Path) (on : Bool)
  /-- R52: The reference monitor finds REFCLK lost and enters holdover or acts as loss of lock. -/
  | refLoss (t : Nat)
  /-- R52: REFCLK passes two windows again and the PLL leaves holdover without a phase step. -/
  | refReturn (t : Nat)
  /-- R52: Holdover outlasts CK_HOLDOVER_LIMIT and the clock inhibit applies with decelerating stops. -/
  | holdoverExpired (t : Nat)
  /-- R53: The lock monitor finds phase error and the OSC50 gates force fire and motor outputs off. -/
  | pllUnlock (t : Nat)
  /-- R53: A divided clock leaves its window and the clock inhibit applies. -/
  | divFault (t : Nat)
  /-- R53: Lock is not regained within 200 µs after a clock fault and a reset with cause CK_PLL follows. -/
  | lockLossTimeout (t : Nat)
  /-- R55: The PCIe reference is lost and the PCIe link goes down while printing continues. -/
  | pcieRefLoss (t : Nat)
  /-- R56: The RTC crystal stops for 4 ms and the RTC runs from its RC oscillator. -/
  | rtcXtalLoss (t : Nat)
  /-- R64: A ring input comes up after 1,024 error-free cells. -/
  | ringInputUp (t : Nat)
  /-- R64: A ring input goes down on loss of comma, clock or too many bad cells, and a ring break is sent. -/
  | ringInputDown (t : Nat)
  /-- R64: No TIME cell arrives 100 µs after input up and the node sends its ELECT cell. -/
  | electionStart (t : Nat)
  /-- R84: A write of 1 to FJ_CONTROL.REFORM starts an election at once. -/
  | reform (p : Path)
  /-- R65: An ELECT cell is forwarded if it outranks the node, removed otherwise, or makes its originator master. -/
  | electCellRx (src hops seq uid priority flags t : Nat)
  /-- R66: An ENUM cell numbers the node or makes it passive, or returns to the master. -/
  | enumCellRx (src hops seq master next passive t : Nat)
  /-- R66: A ROSTER cell gives every node the ring size and FORMED_AT. -/
  | rosterCellRx (src hops seq master size passive formedAt loop t : Nat)
  /-- R69: The master launches a TIME cell every FJ_TIME_PERIOD. -/
  | timeCellLaunch (t : Nat)
  /-- R70: A follower forms its offset from a TIME cell, updates its steering and forwards the cell. -/
  | timeCellRx (src hops seq origin corr tseq flags size arr launch t : Nat)
  /-- R73: No TIME cell for 2 × FJ_TIME_PERIOD + 10 µs puts the follower in ring holdover. -/
  | ringHoldoverEnter (t : Nat)
  /-- R73: Ring holdover lasts FJ_TIME_HOLDOVER and TIME_VALID is cleared. -/
  | ringHoldoverExpiry (t : Nat)
  /-- R82: The master's TIME cell does not return within LOOP_DELAY + 2 µs and a ring break FAULT is sent. -/
  | ringBreakDetect (t : Nat)
  /-- R68: The upstream node launches an ECHO cell on its output hop every echo period. -/
  | echoLaunch (t : Nat)
  /-- R68: The downstream node timestamps an ECHO cell and drives the return mark upstream. -/
  | echoCellRx (t : Nat)
  /-- R68: The return mark arrives and a single hop delay is computed into FJ_HOP_DELAY. -/
  | echoMarkRx (t2 t : Nat)
  /-- R68: An echo mark does not arrive by t0 + 800 ns and the echo is not counted. -/
  | echoTimeout (t : Nat)
  /-- R61: A cell with a code, disparity or CRC error is discarded and counted. -/
  | cellRxError (t : Nat)
  /-- R74: An ACTION cell proposes, commits, aborts or withdraws a ring-wide action entry. -/
  | actionCellRx (src hops seq phase ticket accept refuse cause kind trigger when' arg t : Nat)
  /-- R81: A SLOW cell sets or clears the sender's bit in FJ_SLOW_RX. -/
  | slowCellRx (src hops seq : Nat) (assert : Bool) (source unit raised t : Nat)
  /-- R81: A standing slow request repeats its SLOW cell every 100 µs. -/
  | slowCellRepeat (t : Nat)
  /-- R81: A FJ_SLOW_RX bit clears 500 µs after its last repeat. -/
  | slowRxExpiry (k t : Nat)
  /-- R82: A FAULT cell sets FAULT_RX and applies FJ_FAULT_ACTION for its class. -/
  | faultCellRx (src hops seq ev cls raised detail t : Nat)
  /-- R74: A write to subindex 0x02 to 0x07 of a free, done or suspended entry puts it in DRAFT. -/
  | actionFieldWrite (p : Path) (e sub v : Nat)
  /-- R75: COMMAND 1 arms a DRAFT entry locally after local checks. -/
  | actionEnterLocal (p : Path) (e : Nat)
  /-- R75: COMMAND 2 proposes a DRAFT entry to the ring with a new ticket. -/
  | actionEnterRing (p : Path) (e : Nat)
  /-- R76: COMMAND 3 cancels a local or draft entry or withdraws a ring-wide entry from its proposer. -/
  | actionCancel (p : Path) (e : Nat)
  /-- R74: A proposal not returned within 100 µs returns its entry to DRAFT and sends ABORT. -/
  | proposeTimeout (e t : Nat)
  /-- R80: A RESERVED entry with no COMMIT 1 ms after a ring forms is freed. -/
  | reservedExpiry (e t : Nat)
  /-- R78: An armed entry reaches its press time or position and executes or is suspended. -/
  | actionTrigger (e t : Nat)
  /-- R89: An accepted quadrature state change counts one edge with its timestamp. -/
  | piEdgeCounted (i ab e t : Nat)
  /-- R91: An accepted Hall code change counts ±1 or a count error. -/
  | piHallChange (i code e t : Nat)
  /-- R88: An input level that reverts within PI_GLITCH + 1 ticks is rejected and counted. -/
  | piGlitch (i : Nat) (x : Pulse)
  /-- R90: An accepted Z edge latches count and time and homes the interface when Z_HOME is set. -/
  | piZEdge (i : Nat) (level : Bool) (z : ZChange) (t : Nat)
  /-- R87: Both wires of a pair read the same level for PI_WIRE_TIME ticks. -/
  | piWireDisagree (i pair : Nat) (x : Since)
  /-- R91: An invalid Hall code held more than 1 µs is counted. -/
  | piInvalidHall (i t : Nat)
  /-- R94: PI_SPEED is recomputed every 64 FIRE ticks. -/
  | piSpeedUpdate (i t : Nat)
  /-- R94: No edge for PI_STOP_TIME sets PI_SPEED to 0 and STOPPED. -/
  | piStopped (i t : Nat)
  /-- R93: A write of PI_COUNT on an unbound interface loads the counter at the next tick. -/
  | piCountWrite (p : Path) (i v : Nat)
  /-- R93: A write of PI_CONFIG sets mode and options, refused for mode, invert or homing changes while bound. -/
  | piConfigWrite (p : Path) (i v : Nat)
  /-- R96: A write of 1 to PI_CONFIG.CLR_FAULT clears the interface fault when no permanent condition persists. -/
  | clrFault (p : Path) (i : Nat)
  /-- R96: A write of 1 to PI_CONFIG.CLR_UNCERTAIN clears POS_UNCERTAIN. -/
  | clrUncertain (p : Path) (i : Nat)
  /-- R100: A write setting ENABLE claims a milestone for the host and skips already passed compares. -/
  | msEnable (p : Path) (m v : Nat)
  /-- R100: A write clearing ENABLE releases the milestone's owner. -/
  | msDisable (p : Path) (m v : Nat)
  /-- R102: The width of a relay PULSE runs out and the pair is driven low. -/
  | relayPulseEnd (a pair t : Nat)
  /-- R106: A doorbell write of IN_TAIL hands waybill slots to intake. -/
  | inTailWrite (p : Path) (v : Nat)
  /-- R107: A write of IN_CONTROL.RUN starts or stops intake taking waybills. -/
  | inRun (p : Path) (v : Nat)
  /-- R107: Intake's read of the slot at IN_HEAD completes and its OWN bit and kind are checked. -/
  | waybillSlotRead (bytes : List Byte)
  /-- R118: A read of a waybill slot fails and the queue halts. -/
  | slotFetchError (addr cause : Nat)
  /-- R110: A JOB_OPEN waybill copies and checks a job table into a job slot. -/
  | jobOpen
  /-- R110: The job table read completes and the job slot becomes OPEN or the waybill is refused. -/
  | jobTableReadDone (bytes : List Byte)
  /-- R112: A BAND waybill allocates pages and starts copying a band into the band store. -/
  | band
  /-- R114: All planes of a band are in the band store and checked, and the band is committed or refused. -/
  | bandCopyDone (bytes : List Byte)
  /-- R118: A read of band data or a job table fails and is retried or refuses the waybill. -/
  | intakeReadFail (addr cause : Nat)
  /-- R116: A JOB_CLOSE waybill marks a job closed. -/
  | jobClose
  /-- R120: A REPEAT waybill sets the repetitions of a KEEP job. -/
  | repeatJob
  /-- R109: A NOP waybill completes at once. -/
  | nop
  /-- R116: A RELEASE waybill marks a KEEP job released or frees its slot. -/
  | release
  /-- R110: A job slot becomes free and a stalled JOB_OPEN proceeds. -/
  | waitJobEnd
  /-- R115: Enough pages are freed and a stalled BAND waybill proceeds. -/
  | waitSpaceEnd
  /-- R117: A write of 1 to IN_CONTROL.RESUME rereads the halted slot. -/
  | resume (p : Path)
  /-- R117: A write of 1 to IN_CONTROL.SKIP completes the halted waybill with its code. -/
  | skip (p : Path)
  /-- R121: A write of a JOB_ID aborts that job to DRAINING. -/
  | inJobAbort (p : Path) (v : Nat)
  /-- R119: The earliest eligible job enters RUNNING when no job is RUNNING. -/
  | jobEnterRunning
  /-- R136: At the end of each IN_PAUSE_STEP the pause level rises or falls with die temperature. -/
  | pauseStep (t : Nat)
  /-- R125: Band store training ends, locking BS_CONFIG and setting ONLINE or TRAIN_FAIL. -/
  | bsTrainDone (ok : Bool) (channels : Nat)
  /-- R128: A BAR2 access reaches the band store or a domain object through the window. -/
  | bar2Access (write : Bool) (x : Nat) (bytes : List Byte) (n ecc : Nat)
  /-- R135: A decode lane delivers the next line of its stripe to the screener lane. -/
  | unpackerLine (n ecc addr : Nat)
  /-- R139: A screener lane screens one line into drop codes. -/
  | screenLine (n : Nat)
  /-- R167: A write of 1 to SCR_COMMIT checks the shadow bank and commits at the next line. -/
  | scrCommitLine (p : Path) (n : Nat)
  /-- R167: A write of 2 to SCR_COMMIT checks the shadow bank and commits at the next band. -/
  | scrCommitBand (p : Path) (n : Nat)
  /-- R169: The copy of the live bank into the shadow bank ends and COPYING clears. -/
  | scrCopyDone (n : Nat)
  /-- R165: A write with bit 31 set masks a nozzle and takes a compensation entry if free. -/
  | scrMaskCmdMask (p : Path) (n v : Nat)
  /-- R165: A write with bit 31 clear unmasks a nozzle and frees its entry. -/
  | scrMaskCmdUnmask (p : Path) (n v : Nat)
  /-- R161: A write of a compensation entry masks, moves or frees its nozzle. -/
  | scrCompWrite (p : Path) (n e v : Nat)
  /-- R191: The stitcher stitches a screened line and lodges it when Lodging has room. -/
  | lodgeLine (n : Nat)
  /-- R212: A QUEUED line's fire time comes within TT_SEND_LEAD and Lodging hands it on, blanks or skips it. -/
  | lineRelease (n t ecc : Nat)
  /-- R196: The fill stays at or above LG_SLOW_OFF for LG_SLOW_HOLD and the slow request is released. -/
  | slowHoldExpiry (n t : Nat)
  /-- R197: A write of LG_SLOW_HOST asserts or releases the host slow source. -/
  | lgSlowHost (p : Path) (v : Nat)
  /-- R198: A write of 1 to LG_CONTROL bit 0 sets LG_MIN_FILL to LG_FILL. -/
  | lgControl (p : Path) (n v : Nat)
  /-- R214: A RELEASED line reaches T − TT_FIX_LEAD within extrapolation and its fire time becomes final. -/
  | lineFix (n t : Nat)
  /-- R205: No edge for TT_STALL_TIME stalls the predictor and holds released lines. -/
  | predStall (i t : Nat)
  /-- R217: A FIXED line's first group slot fires and the mark of its direction advances. -/
  | rotationStart (n t : Nat)
  /-- R269: A rotation's last pulse falls and the line is DONE. -/
  | rotationEnd (n t : Nat)
  /-- R227: A write of 1 to TT_ARM arms a port after the arming checks. -/
  | arm (p : Path) (n : Nat)
  /-- R232: A write of 0 to TT_ARM disarms a port and drops its lines. -/
  | disarm (p : Path) (n : Nat)
  /-- R236: A write of 1 to TT_CONTROL bit 0 clears TT_MAX_LAG. -/
  | ttControl (p : Path) (n v : Nat)
  /-- R233: A write of TT_OFFSET_FWD or REV sets the written offset that the live offset slews toward. -/
  | offsetWrite (p : Path) (n : Nat) (rev : Bool) (v : Nat)
  /-- R261: A write of 1 to HP_CONTROL.BRINGUP starts bring-up of a link. -/
  | bringup (p : Path) (n v : Nat)
  /-- R266: A write of 1 to HP_CONTROL.RETIRE retires the port. -/
  | retire (p : Path) (n v : Nat)
  /-- R261: A write of 1 to HP_CONTROL.CLR_RETIRE returns a retired link to OFF outside PRINT. -/
  | clrRetire (p : Path) (n v : Nat)
  /-- R241: The head port sends a line frame on its lanes when the lanes are free. -/
  | lineFrameSend (n t : Nat)
  /-- R265: An ACK from the head ends a frame's outstanding state. -/
  | ackRx (n epoch lseq t : Nat)
  /-- R265: A NAK refuses a frame, which is resent or fired blank. -/
  | nakRx (n epoch lseq reason t : Nat)
  /-- R265: No answer within HP_ACK_TIMEOUT refuses a frame. -/
  | ackTimeout (n lseq t : Nat)
  /-- R258: A READ_DATA reply delivers a report card word. -/
  | readDataRx (n epoch tag data t : Nat)
  /-- R259: A WRITE_DONE reply ends a report card write. -/
  | writeDoneRx (n epoch tag result t : Nat)
  /-- R254: A STATUS message updates HP_HEAD_FLAGS and may signal lock loss or head faults. -/
  | statusRx (n epoch flags t : Nat)
  /-- R262: A TRAIN_RESULT judges one trim step of lane training. -/
  | trainResultRx (n epoch tag e0 e1 t : Nat)
  /-- R256: A CMD_DONE reply ends a MAP, SET_EPOCH or other command. -/
  | cmdDoneRx (n epoch tag result t : Nat)
  /-- R252: A malformed return message is discarded and counted. -/
  | retError (n t : Nat)
  /-- R256: A command reply is missing by its time-out and the command is resent or fails. -/
  | cmdTimeout (n t : Nat)
  /-- R266: No valid message from the head for 2 ms retires the port. -/
  | headSilent (n t : Nat)
  /-- R267: A write of 1 to HP_RC_CMD reads a report card word. -/
  | hpRcRead (p : Path) (n : Nat)
  /-- R267: A write of 2 to HP_RC_CMD writes a report card word. -/
  | hpRcWrite (p : Path) (n : Nat)
  /-- R280: The head port latches a line's widths and blank decision and queues its ROT_RESET. -/
  | lineLatch (n t : Nat)
  /-- R277: A write of 1 to HP_PT_COMMIT checks the shadow pulse train and commits at the next rotation. -/
  | hpPtCommitLine (p : Path) (n : Nat)
  /-- R277: A write of 2 to HP_PT_COMMIT checks the shadow pulse train and commits at the next band. -/
  | hpPtCommitBand (p : Path) (n : Nat)
  /-- R282: Every HP_PG_PERIOD a power group requests a voltage conversion. -/
  | pgConversionDue (g t : Nat)
  /-- R287: The newest group conversion grows older than HP_PG_V_AGE. -/
  | pgVStale (g t : Nat)
  /-- R288: CLAMP or V_STALE stands for HP_PG_CLAMP_TIME and the group enters FAULT. -/
  | pgClampTimeout (g t : Nat)
  /-- R290: A group stays in RAMP for HP_PG_RAMP_LIMIT and enters FAULT. -/
  | pgRampTimeout (g t : Nat)
  /-- R291: HPENg falls 1 µs after the group's last FI falling edge. -/
  | hpenOff (g t : Nat)
  /-- R291: A write of HP_PG_CONTROL.ENABLE lets the group power its heads or turns it off. -/
  | pgEnable (p : Path) (g : Nat) (on : Bool)
  /-- R290: A write of 1 to CLR_FAULT takes a group out of FAULT outside PRINT. -/
  | pgClrFault (p : Path) (g v : Nat)
  /-- R297: A write of 1 to CLR_STATS resets HP_PG_V_MIN and HP_PG_PEAK. -/
  | pgClrStats (p : Path) (g v : Nat)
  /-- R292: A warming pulse falls due every HP_WARM_PERIOD and fires or is skipped. -/
  | warmPulseDue (n t : Nat)
  /-- R300: An idle roll call reading falls due every HP_ROLL_IDLE_PERIOD. -/
  | rollIdleDue (n t : Nat)
  /-- R308: A head temperature reading falls due every HP_TEMP_PERIOD. -/
  | tempReadingDue (n t : Nat)
  /-- R310: No plausible reading for HP_TEMP_AGE makes HP_TEMP stale and the port HOT. -/
  | tempAgeExpiry (n t : Nat)
  /-- R310: A write of 1 to CLR_BROKEN takes a plausible reading and leaves BROKEN. -/
  | clrBroken (p : Path) (n v : Nat) (u : Option Nat)
  /-- R305: A write of 1 to CLR_SNS_FAULT takes a REF reading and clears SNS_FAULT if it passes. -/
  | clrSnsFault (p : Path) (n v : Nat) (u : Option Nat)
  /-- R314: A host write sets HP_RANK outside PRINT. -/
  | hpRankSet (p : Path) (n v : Nat)
  /-- R316: A write of 1 to HP_REC_CMD makes a record write pending. -/
  | recWriteRequest (p : Path) (n : Nat)
  /-- R316: A write of 2 to HP_REC_CMD cancels a pending record write. -/
  | recWriteCancel (p : Path) (n : Nat)
  /-- R316: A pending health record write starts once its conditions hold. -/
  | recWriteStart (n t : Nat)
  /-- R319: A write of HP_TWIN names a port's twin. -/
  | hpTwinWrite (p : Path) (n v : Nat)
  /-- R322: A write of 1 to HP_TWIN_CMD takes over or assigns a stripe. -/
  | twinTakeOver (p : Path) (n : Nat)
  /-- R322: A write of 2 to HP_TWIN_CMD hands a stripe back to the primary. -/
  | twinHandBack (p : Path) (n : Nat)
  /-- R332: A converter completes a conversion and delivers its corrected result. -/
  | senseConversionDone (c code t : Nat)
  /-- R337: A timed sense request not granted by its deadline is withdrawn. -/
  | senseDeadline (t : Nat)
  /-- R338: A grant reaching its hold limit is cut off and its result invalid. -/
  | senseHoldCut (c t : Nat)
  /-- R351: A conversion not done 1 µs after its due end is invalid and counted. -/
  | senseConvTimeout (c t : Nat)
  /-- R341: The reference stays out of range for 10 µs and all results become invalid. -/
  | refFault (t : Nat)
  /-- R341: The reference stays in range for 1 ms and REF_FAULT clears. -/
  | refFaultClear (t : Nat)
  /-- R575: A die temperature request falls due every SB_DIE_PERIOD. -/
  | dieReadingDue (t : Nat)
  /-- R343: A write of 1 to SB_CONTROL.CAL_START starts a full calibration. -/
  | calStart (p : Path)
  /-- R347: A delay line's 16 launches complete, for each ROOT phase the sum of the taps passed, and its target map is written or rejected. -/
  | delayLineCalDone (k : Nat) (sums : List Nat) (t : Nat)
  /-- R349: A write of 1 to SB_STORE_CMD saves the calibration store to flash. -/
  | sbStoreSave (p : Path)
  /-- R350: A write of 2 to SB_STORE_CMD loads the slot in force. -/
  | sbStoreLoad (p : Path)
  /-- R353: A write of SB_HOST_CMD enters a host conversion sequence. -/
  | sbHostCmd (p : Path) (v : Nat)
  /-- R351: A write of 1 to CLR_RETIRED returns retired converters and starts calibration. -/
  | clrRetired (p : Path)
  /-- R351: A write of 1 to SB_CONTROL.CLR_STATS clears CUT_STORM and wait maxima. -/
  | sbClrStats (p : Path)
  /-- R354: A write of 1 to MT_CMD starts a maintenance activity after its checks. -/
  | mtStart (p : Path) (k : Nat)
  /-- R362: A write of 2 to MT_CMD stops a running activity. -/
  | mtAbort (p : Path) (k : Nat)
  /-- R355: A spit rotation falls due every MT_PERIOD. -/
  | spitRotationDue (k n t : Nat)
  /-- R354: An activity's dwell, pump or settle time runs out and its body proceeds. -/
  | mtDwellExpiry (k t : Nat)
  /-- R357: A write of a port to MT_CAPPED_CLR clears its capped state outside PRINT. -/
  | mtCappedClr (p : Path) (v : Nat)
  /-- R368: A write of 1 to AX_CMD enables an axis. -/
  | axEnable (p : Path) (a : Nat) (flt : Bool)
  /-- R368: A write of 2 to AX_CMD makes a decelerating stop and disables the axis. -/
  | axStopDisable (p : Path) (a : Nat)
  /-- R380: A write of 3 to AX_CMD makes a decelerating stop. -/
  | axDecelStop (p : Path) (a : Nat)
  /-- R381: A write of 4 to AX_CMD makes an immediate halt. -/
  | axHalt (p : Path) (a : Nat)
  /-- R381: A write of 5 to AX_CMD returns a halted or faulted axis to IDLE. -/
  | axClearHalt (p : Path) (a : Nat) (flt : Bool)
  /-- R393: A write of 6 to AX_CMD clears POS_UNCERTAIN. -/
  | axClearUncertain (p : Path) (a : Nat)
  /-- R371: A write of 1 to AX_MV_PUSH appends the staged move to the axis queue. -/
  | axMvPush (p : Path) (a : Nat)
  /-- R367: A write of AX_POS sets the axis position offset. -/
  | axPosWrite (p : Path) (a v : Nat)
  /-- R370: The profile of each axis advances every 10 µs and moves complete. -/
  | profileStep (t : Nat)
  /-- R383: A brushless axis closes its speed and position loop every 50 µs. -/
  | bdLoopCycle (t : Nat)
  /-- R384: A following error beyond the limit for 1 ms halts the axis with cause 5. -/
  | followErrorTimeout (a t : Nat)
  /-- R389: A write of 1 to AX_IG_CMD makes the group owner of its members. -/
  | axIgEnable (p : Path) (g : Nat)
  /-- R389: A write of 2 to AX_IG_CMD releases the members to the host. -/
  | axIgRelease (p : Path) (g : Nat)
  /-- R391: A write of 3 to AX_IG_CMD stops every member along the line. -/
  | axIgStop (p : Path) (g : Nat)
  /-- R391: A write of 4 to AX_IG_CMD halts every member. -/
  | axIgHalt (p : Path) (g : Nat)
  /-- R390: A write of 1 to AX_IG_PUSH appends a group move. -/
  | axIgPush (p : Path) (g : Nat)
  /-- R399: A chop comparator trips after blanking and ends a phase on-time. -/
  | chopTrip (a ph : Nat) (x : Tripping)
  /-- R399: A stepper phase off-time of DS_TOFF cycles ends and the next on-time starts. -/
  | chopOfftimeEnd (a ph t : Nat)
  /-- R406: A brushless PWM period starts with its current threshold. -/
  | pwmPeriodStart (a t : Nat)
  /-- R401: A stepper microstep unchanged for DS_HOLD_DELAY moves toward standstill current. -/
  | holdDelayExpiry (a t : Nat)
  /-- R409: A fault input low for 200 ns forces outputs off and faults the stage. -/
  | bridgeFault (a : Nat) (x : Since)
  /-- R409: A fault input low pulse under 200 ns is counted as a glitch. -/
  | fltGlitch (a : Nat) (x : Since)
  /-- R410: An over-current comparator trips and ends the on-time or period. -/
  | ocTrip (a ph : Nat) (x : Tripping)
  /-- R411: A phase at rest with no chop trip for 1 ms is found open and faults the stage. -/
  | openPhase (a ph t : Nat)
  /-- R403: Step-input lag beyond DS_STEP_LAG for 1 ms faults the stage. -/
  | stepLagTimeout (a t : Nat)
  /-- R412: Current monitoring requests conversions every DS_MON_PERIOD. -/
  | monConversionDue (a t : Nat)
  /-- R431: The NMT start command puts the node in operational. -/
  | nmtStart (t : Nat)
  /-- R431: The NMT stop command puts the node in stopped. -/
  | nmtStop (t : Nat)
  /-- R431: The NMT command puts the node in pre-operational. -/
  | nmtEnterPreOperational (t : Nat)
  /-- R431: The NMT reset node command performs reset communication. -/
  | nmtResetNode (t : Nat)
  /-- R431: Communication objects reset, pending node-ID applies and boot-up is sent. -/
  | nmtResetCommunication (t : Nat)
  /-- R432: The node sends its heartbeat every 0x1017 ms. -/
  | heartbeatProduce (t : Nat)
  /-- R432: A consumed heartbeat arrives and ends any loss. -/
  | heartbeatRx (node t : Nat)
  /-- R432: A consumed heartbeat does not arrive in time. -/
  | heartbeatLoss (k t : Nat)
  /-- R435: A client opens a USDO download to an object. -/
  | usdoDownloadInit (client svc index sub : Nat) (sized : Bool) (size : Nat) (data : List Byte) (last : Bool) (t : Nat)
  /-- R435: A download segment arrives and is written or stored. -/
  | usdoDownloadSegment (client : Nat) (toggle : Bool) (data : List Byte) (last : Bool) (t : Nat)
  /-- R435: A client opens a USDO upload of an object. -/
  | usdoUploadInit (client svc index sub : Nat) (memErr : Bool) (t : Nat)
  /-- R433: A client requests the next upload segment. -/
  | usdoUploadSegment (client : Nat) (toggle memErr : Bool) (t : Nat)
  /-- R434: A session idle for MD_USDO_TIMEOUT is ended with an abort. -/
  | usdoTimeout (k t : Nat)
  /-- R441: A received RPDO writes its mapped objects. -/
  | rpdoRx (p : Nat) (bytes : List Byte) (t : Nat)
  /-- R441: An RPDO event timer expires between receptions. -/
  | rpdoTimeout (p t : Nat)
  /-- R440: A TPDO made ready by a change or SYNC is sampled and sent after its inhibit time. -/
  | tpdoTransmit (p : Nat) (full : Bool) (t : Nat)
  /-- R439: A TPDO event timer expires and the TPDO is sent. -/
  | tpdoEventTimer (p : Nat) (full : Bool) (t : Nat)
  /-- R442: A SYNC is received, latched and drives synchronous PDOs. -/
  | syncRx (counter t : Nat)
  /-- R442: SYNC is absent for 1.5 × the cycle period. -/
  | syncTimeout (t : Nat)
  /-- R443: A TIME message is stored and may set the RTC. -/
  | timeRx (ms days t : Nat)
  /-- R444: A waiting EMCY is sent once its inhibit time has passed. -/
  | emcySend (t : Nat)
  /-- R445: A write of 0 to 0x1003 sub 0 empties the error history and sends an error reset. -/
  | emcyHistoryClear (p : Path)
  /-- R429: A controller enters bus-off and may become locked off. -/
  | canBusOff (c tec rec' t : Nat)
  /-- R429: A controller rejoins the bus after bus-off recovery. -/
  | canBusRecovered (c t : Nat)
  /-- R446: A received frame is lost from the full receive queue. -/
  | canRxOverrun (c t : Nat)
  /-- R546: A write of MD_CAN_CONFIG ENABLE starts or stops a controller and claims or releases its balls. -/
  | canEnableWrite (p : Path) (c v : Nat)
  /-- R546: A write of EV_IRQ_VEC claims or releases a shared IRQ ball. -/
  | irqVecWrite (p : Path) (k v : Nat)
  /-- R453: The router takes an occurrence from the event buffer to MSI-X, queue, EMCY and ring. -/
  | eventRoute (t : Nat)
  /-- R455: A due vector sends its MSI-X message after moderation or when unmasked. -/
  | msixSend (acc : Bar4) (on : Bool) (t : Nat)
  /-- R456: A write of EV_CONTROL.Q_EN enables the event queue and resets its pointers. -/
  | qEnWrite (p : Path) (v : Nat)
  /-- R466: A write of 1 to DM_CH_CMD starts a channel and claims its trigger. -/
  | dmaStart (p : Path) (c : Nat)
  /-- R466: A write of 2 to DM_CH_CMD stops a channel after its burst. -/
  | dmaStop (p : Path) (c : Nat)
  /-- R466: A write of 3 to DM_CH_CMD resumes a halted channel. -/
  | dmaResume (p : Path) (c : Nat)
  /-- R466: A write of 4 to DM_CH_CMD skips the failing descriptor. -/
  | dmaSkip (p : Path) (c : Nat)
  /-- R459: A descriptor fetch completes and it is checked and run or refused. -/
  | dmaDescLoaded (c : Nat) (bytes : List Byte) (t : Nat)
  /-- R460: A descriptor's data are moved and its RESULT written. -/
  | dmaDescDone (c : Nat) (data : List Byte) (t : Nat)
  /-- R466: A channel access fails and the channel halts. -/
  | dmaAccessFail (c n code : Nat) (write : Bool) (data : List Byte) (t : Nat)
  /-- R472: PERST_N or hot reset resets only the PCIe function. -/
  | pcieReset (t : Nat)
  /-- R455: The PCIe link trains up again and due vectors send. -/
  | pcieLinkUp (t : Nat)
  /-- R469: A mode command to BOOT is refused as not allowed. -/
  | modeCmdBoot (p : Path)
  /-- R468: A mode command to CONFIGURE starts that change. -/
  | modeCmdConfigure (p : Path)
  /-- R468: A mode command to STANDBY starts that change. -/
  | modeCmdStandby (p : Path)
  /-- R468: A mode command to READY starts that change. -/
  | modeCmdReady (p : Path)
  /-- R468: A mode command to PRINT starts that change. -/
  | modeCmdPrint (p : Path)
  /-- R468: A mode command to SERVICE starts that change. -/
  | modeCmdService (p : Path)
  /-- R470: A mode command to SAFE is accepted even during another change. -/
  | modeCmdSafe (p : Path)
  /-- R470: A mode command to RESET raises a reset event with cause HOST. -/
  | modeCmdReset (p : Path)
  /-- R468: A mode change's actions complete and MODE_BUSY clears. -/
  | modeChangeDone (t : Nat)
  /-- R556: A rail falls below its threshold or all rails rise, holding or releasing POWER_ON reset. -/
  | powerOn (up : Bool) (t : Nat)
  /-- R567: RESET_N held low for 1 µs raises a reset event with cause PIN. -/
  | resetPin (t : Nat)
  /-- R471: The reset cause ends and the device moves from RESET toward BOOT. -/
  | resetRelease (cause t : Nat)
  /-- R474: A write of MD_INHIBIT_SET.FIRE inhibits firing of every group. -/
  | inhibitSetFire (p : Path)
  /-- R474: A write of MD_INHIBIT_SET.MOTION_STOP applies a STOP motion inhibit. -/
  | inhibitSetMotionStop (p : Path)
  /-- R474: A write of MD_INHIBIT_SET.MOTION_OFF applies an OFF motion inhibit. -/
  | inhibitSetMotionOff (p : Path)
  /-- R474: A write of MD_INHIBIT_CLR.HOST lifts the host inhibits. -/
  | inhibitClrHost (p : Path)
  /-- R475: A write of MD_INHIBIT_CLR.PIN lifts a latched interlock inhibit after its release time. -/
  | inhibitClrPin (p : Path)
  /-- R474: A write of MD_INHIBIT_CLR.RING lifts the ring fault inhibit. -/
  | inhibitClrRing (p : Path)
  /-- R475: FIRE_INHIBIT_N goes low, FI is forced low and the interlock inhibit applies. -/
  | fireInhibitAssert (t : Nat)
  /-- FIRE_INHIBIT_N, high since `x.e`, stays high for MD_PIN_RELEASE and the interlock inhibit is lifted or awaits its clear. -/
  | pinReleaseExpiry (x : Since)
  /-- R477: The bus falls below VWARN for 1 µs, a dip begins and curfew stands. -/
  | busWarnTrip (t : Nat)
  /-- R481: The bus rises above VWARN + SU_HYST and the dip ends. -/
  | busWarnRelease (t : Nat)
  /-- R477: The bus stays below VRESET for 2 µs and resets the device with cause SUPPLY. -/
  | busResetTrip (t : Nat)
  /-- R478: Each supply input requests a conversion every SU_PERIOD. -/
  | supplyConversionDue (i t : Nat)
  /-- R479: The curfew hold of SU_CURFEW_HOLD ends and curfew is lifted. -/
  | curfewHoldExpiry (t : Nat)
  /-- R481: A dip lasting SU_SAG_TIME becomes a sag. -/
  | sagTimeout (t : Nat)
  /-- R484: The supply-high inhibit lifts 10 ms after the last high condition. -/
  | supplyHighRelease (t : Nat)
  /-- R498: A write of SU_CONTROL.CLR_STATS resets bus minimum and maximum. -/
  | suClrStats (p : Path) (v : Nat)
  /-- R485: A write of SU_CONTROL.CLR_PG_OV lifts group over-voltage outside PRINT. -/
  | clrPgOv (p : Path) (v : Nat)
  /-- R487: A write of TH_CONTROL.CLR_SHUTDOWN lifts die shutdown when cool. -/
  | clrShutdown (p : Path) (v : Nat)
  /-- R498: A write of TH_CONTROL.CLR_DIE_MAX resets TH_DIE_MAX. -/
  | clrDieMax (p : Path) (v : Nat)
  /-- R488: A die sensor reaches 125 °C and resets the device with cause THERMAL_TRIP. -/
  | dieTrip (t : Nat)
  /-- R489: VDDIO falls and the backup domain switches to VBAT. -/
  | mainPowerLost (t : Nat)
  /-- R489: VDDIO returns and the backup domain switches back. -/
  | mainPowerBack (t : Nat)
  /-- R489: The backup domain starts from no power and restores its defaults. -/
  | backupPor (t : Nat)
  /-- R490: A write of BK_CONTROL.RTC_LOAD sets the RTC at the next RTC edge. -/
  | rtcLoad (p : Path)
  /-- R490: A read of BK_RTC_SEC latches the sub-second count. -/
  | rtcSecRead (p : Path)
  /-- R491: BK_RTC_SEC reaches BK_ALARM_SEC and the alarm latches. -/
  | rtcAlarm (t : Nat)
  /-- R491: A write of BK_CONTROL.WAKE_CLR releases the WAKE ball. -/
  | wakeClr (p : Path)
  /-- R496: A periodic VBAT reading updates BK_VBAT and the LOW and EMPTY alarms. -/
  | vbatMeasure (mv ua t : Nat)
  /-- R494: The charge current stays low and the cell is FULL. -/
  | chargeFull (t : Nat)
  /-- R494: A charge not FULL within BK_CHG_TIMEOUT stops with CHG_FAULT. -/
  | chargeTimeout (t : Nat)
  /-- R495: A voltage step while charging shows the cell removed and stops the charger. -/
  | cellRemoved (t : Nat)
  /-- R494: A write of BK_CONTROL.CHG_RESTART restarts the charger. -/
  | chgRestart (p : Path)
  /-- R492: A write of BK_CONTROL.JNL_CLEAR empties the journal. -/
  | jnlClear (p : Path)
  /-- R492: A write of an entry number copies that journal entry into BK_JNL_WORD. -/
  | bkJnlSelect (p : Path) (v : Nat)
  /-- R492: A write of BK_JNL_HOST writes a HOST journal entry. -/
  | bkJnlHost (p : Path) (v : Nat)
  /-- R496: A write of BK_GAUGE_SET loads the gauge. -/
  | bkGaugeSet (p : Path) (v : Nat)
  /-- R500: The boot ROM scans OTP, chooses and checks an image and starts firmware. -/
  | bootSequence (l : FuseReads) (silent : Bool) (t : Nat)
  /-- R505: A write of an image length checks and runs a recovery image. -/
  | btRecoveryCmd (p : Path) (v : Nat)
  /-- R508: A write of 1 to BT_CONTROL.SOFT_RESET resets the device with cause SOFT. -/
  | softReset (p : Path)
  /-- R509: A write to BT_WDT_KICK restarts the watchdog. -/
  | btWdtKick (p : Path)
  /-- R509: No kick for BT_WDT_PERIOD resets the device with cause WATCHDOG. -/
  | watchdogExpiry (t : Nat)
  /-- R510: A write of 1 to BT_QSPI_CMD reads flash into BT_QSPI_DATA. -/
  | qspiRead (p : Path)
  /-- R510: A write of 2 to BT_QSPI_CMD programs a flash page. -/
  | qspiProgram (p : Path)
  /-- R510: A write of 3 to BT_QSPI_CMD erases a 4 KiB sector. -/
  | qspiErase4k (p : Path)
  /-- R510: A write of 4 to BT_QSPI_CMD erases a 64 KiB block. -/
  | qspiErase64k (p : Path)
  /-- R510: A flash command completes, is verified or times out. -/
  | qspiOpDone (res t : Nat)
  /-- R516: A write of 1 to OT_ROW_CMD reads a row at three margins. -/
  | otRowRead (p : Path) (l : FuseReads)
  /-- R516: A write of 2 to OT_ROW_CMD burns a row, using a spare if needed. -/
  | otRowBurn (p : Path)
  /-- R520: A write of 3 to OT_ROW_CMD rescans every row for weak rows. -/
  | otRescan (p : Path) (l : FuseReads)
  /-- R514: A write of 4 to OT_ROW_CMD burns lock bits and region CRC rows. -/
  | otLock (p : Path)
  /-- R516: An OTP burn finishes its checks and completes or fails. -/
  | otpBurnDone (l : FuseReads) (t : Nat)
  /-- R522: OT_LC_CMD target 1 moves BLANK to VENDOR_TEST. -/
  | lcToVendorTest (p : Path)
  /-- R522: OT_LC_CMD target 2 moves VENDOR_TEST to PROVISION. -/
  | lcToProvision (p : Path)
  /-- R522: OT_LC_CMD target 3 moves PROVISION to FIELD. -/
  | lcToField (p : Path)
  /-- R522: OT_LC_CMD target 4 moves FIELD to RETURN with a valid token. -/
  | lcToReturn (p : Path)
  /-- R522: OT_LC_CMD target 5 scraps the device. -/
  | lcToScrapped (p : Path)
  /-- R534: A write of the key value to FI_KEY unlocks fault injection. -/
  | fiKey (p : Path) (v : Nat)
  /-- R535: A write of 1 to FI_CMD arms an injection point. -/
  | fiArm (p : Path)
  /-- R535: A write of 2 to FI_CMD cancels the armed injection. -/
  | fiCancel (p : Path)
  /-- R533: An armed injection forces one occurrence of its detector at its time or spacing. -/
  | fiInject (a b : Nat) (real : Bool) (t : Nat)
  /-- R53: The root PLL regains lock within 200 µs of a clock fault, and clocks run on with the inhibit still in force. -/
  | rootLockRegained (divOk : Bool) (t : Nat)
  /-- R56: The RTC crystal runs again, the RTC leaves its RC oscillator, RTC_RC clears, and a CLOCK journal entry records the restoration. -/
  | rtcXtalRestored (t : Nat)
  /-- R261: No STATUS shows LOCK0, LOCK1 and ALIGNED within 2 ms of CK start, so the link goes from TRAINING to FAILED with TRAIN_FAIL. -/
  | trainingTimeout (n t : Nat)
  /-- R96: Wire disagreement on a pair stands for 10 µs, which is the permanent condition that puts the interface in fault. -/
  | wireDisagreementHeld (i pair t : Nat)
  /-- R96: An invalid Hall code held for 100 µs is the permanent condition that puts the interface in fault. -/
  | invalidHallHeld (i t : Nat)
  /-- R87: The two wires of a pair read opposite levels for PI_WIRE_TIME, which ends the disagreement episode and clears WIRE_BAD. -/
  | wireAgreementRestored (i pair : Nat) (x : Since)
  /-- R306: Each HP_DEEP_SPACING interval starts the deep test of the next nozzle of the range with its cold reading. -/
  | deepSpacingDue (k n t : Nat)
  deriving DecidableEq, Repr

end Sys2Proof
end

