-- ==== Sys2Proof/Decode.lean ====
section
/-! DEFINITION. The commands a table word spells. The opcode table gives its rows no bits: commands reach the block as
accesses and events, never as words, so no word spells one. -/
namespace Sys2Proof

/-- The command a word of the opcode table spells: the table gives no row an encoding. -/
def decodeTableWord (_nbits _w : Nat) : Option Instr := none

end Sys2Proof
end

