-- ==== Sys2Proof/Config.lean ====
section
/-! DEFINITION. What the spec leaves to an implementation, and the values it leaves open. Every constant here is
opaque: nothing in Lean can see its value, so a statement about the machine holds for every value. A constant named
`free…` is applied to the state's counter of free values or to the operands the value depends on. -/
namespace Sys2Proof.Config

/-- A value the spec leaves open, by the number of free values drawn before it. -/
opaque freeNat : Nat → Nat

/-- Whether a check that the spec does not fix the outcome of (a signature, a key, a token) passes, by the bytes
it is made over (DESIGN CHOICE, log 10). -/
opaque freeCheck : List Byte → Bool

/-- A number derived from bytes by a function the spec names and does not define (a digest, an identity)
(DESIGN CHOICE, log 10). -/
opaque freeDigest : List Byte → Nat

/-- The turnaround correction of the ring's echo in fu (R68), which production test measures and the device holds
(DESIGN CHOICE, log 10). -/
opaque turn : Nat

/-- The temperature of die sensor `i` for a corrected code (R575): the device's own relation, as a 16-bit word in
1/16 °C (DESIGN CHOICE, log 10; DEDUCED, log 85). -/
opaque dieTemp : Nat → Nat → Nat

/-- The mask of a region 3 row (R515), which the device forms from the row number and a constant in the silicon
(DESIGN CHOICE, log 10). -/
opaque secretMask : Nat → Nat

/-- The hardware version string of 0x1009, from the silicon revision (Table 16.12), and the software version string of
0x100A, from BT_FW_VERSION (DESIGN CHOICE, log 10). -/
opaque hwVersion : Nat → List Byte
/-- The software version string of 0x100A, from BT_FW_VERSION (DESIGN CHOICE, log 10). -/
opaque swVersion : Nat → List Byte

/-- The bytes of data that the first and a further frame of a segmented USDO upload carry beyond one (R433), which the
CANopen FD protocol leaves to its own specification (PRESUMED, log 49). -/
opaque usdoFirst : Nat
/-- As `usdoFirst`, for a further frame (PRESUMED, log 49). -/
opaque usdoNext : Nat

end Sys2Proof.Config
end

