-- ==== Sys2Proof/Machine/Sine.lean ====
section
/-! DEFINITION. The default sine table (R397): entry i is round(4,095 × sin(90° × (i + 0.5) / 256)), computed once from that
formula and written out. -/
namespace Sys2Proof.Machine

def sinePart0 : List Nat := [13, 38, 63, 88, 113, 138, 163, 188, 213, 239, 264, 289, 314, 339, 364, 389]
def sinePart1 : List Nat := [414, 439, 464, 489, 514, 539, 564, 588, 613, 638, 663, 688, 712, 737, 762, 787]
def sinePart2 : List Nat := [811, 836, 860, 885, 909, 934, 958, 983, 1007, 1032, 1056, 1080, 1104, 1128, 1153, 1177]
def sinePart3 : List Nat := [1201, 1225, 1249, 1273, 1296, 1320, 1344, 1368, 1391, 1415, 1439, 1462, 1485, 1509, 1532, 1555]
def sinePart4 : List Nat := [1579, 1602, 1625, 1648, 1671, 1694, 1717, 1739, 1762, 1785, 1807, 1830, 1852, 1875, 1897, 1919]
def sinePart5 : List Nat := [1941, 1964, 1986, 2007, 2029, 2051, 2073, 2094, 2116, 2137, 2159, 2180, 2201, 2223, 2244, 2265]
def sinePart6 : List Nat := [2285, 2306, 2327, 2348, 2368, 2389, 2409, 2429, 2449, 2470, 2490, 2509, 2529, 2549, 2569, 2588]
def sinePart7 : List Nat := [2608, 2627, 2646, 2665, 2684, 2703, 2722, 2741, 2759, 2778, 2796, 2815, 2833, 2851, 2869, 2887]
def sinePart8 : List Nat := [2904, 2922, 2940, 2957, 2974, 2992, 3009, 3026, 3043, 3059, 3076, 3093, 3109, 3125, 3141, 3157]
def sinePart9 : List Nat := [3173, 3189, 3205, 3221, 3236, 3251, 3267, 3282, 3297, 3311, 3326, 3341, 3355, 3370, 3384, 3398]
def sinePart10 : List Nat := [3412, 3426, 3439, 3453, 3466, 3480, 3493, 3506, 3519, 3532, 3544, 3557, 3569, 3581, 3594, 3606]
def sinePart11 : List Nat := [3617, 3629, 3641, 3652, 3663, 3675, 3686, 3696, 3707, 3718, 3728, 3739, 3749, 3759, 3769, 3778]
def sinePart12 : List Nat := [3788, 3798, 3807, 3816, 3825, 3834, 3843, 3851, 3860, 3868, 3876, 3884, 3892, 3900, 3908, 3915]
def sinePart13 : List Nat := [3922, 3929, 3936, 3943, 3950, 3957, 3963, 3969, 3975, 3981, 3987, 3993, 3998, 4004, 4009, 4014]
def sinePart14 : List Nat := [4019, 4023, 4028, 4033, 4037, 4041, 4045, 4049, 4053, 4056, 4059, 4063, 4066, 4069, 4071, 4074]
def sinePart15 : List Nat := [4076, 4079, 4081, 4083, 4085, 4087, 4088, 4089, 4091, 4092, 4093, 4093, 4094, 4095, 4095, 4095]

/-- The quarter wave of table 0 after RESET (R397). -/
def sineDefault : List Nat :=
  sinePart0 ++ sinePart1 ++ sinePart2 ++ sinePart3 ++ sinePart4 ++ sinePart5 ++ sinePart6 ++ sinePart7 ++
  sinePart8 ++ sinePart9 ++ sinePart10 ++ sinePart11 ++ sinePart12 ++ sinePart13 ++ sinePart14 ++ sinePart15

/-- Byte `a` of sine table 0 after RESET (Table 15.4). -/
def sineByte (a : Nat) : Nat :=
  if a = 0 then 0x54 else if a = 1 then 0x53 else if a = 3 then 1
  else if a < 16 ∨ 528 ≤ a then 0
  else
    let t := sineDefault.getD ((a - 16) / 2) 0
    if a % 2 = 0 then t % 256 else t / 256

end Sys2Proof.Machine
end

