-- ==== Sys2Proof/Machine/Bits.lean ====
section
/-! DEFINITION. Bit fields, signed values, rounding and byte order over words held as natural numbers. -/
namespace Sys2Proof.Machine

/-- The value cut to `w` bits: counters "wrap" and stores keep the type's width (R418). -/
def trunc (w v : Nat) : Nat := v % 2 ^ w

/-- Bit `i` of a word. -/
def bitOf (v i : Nat) : Bool := v / 2 ^ i % 2 = 1

/-- A field of a word. -/
def fieldOf (v : Nat) (f : Fld) : Nat := v / 2 ^ f.lo % 2 ^ f.w

/-- A word with one field replaced. -/
def putField (v : Nat) (f : Fld) (x : Nat) : Nat :=
  v - fieldOf v f * 2 ^ f.lo + (x % 2 ^ f.w) * 2 ^ f.lo

/-- A word with bit `i` replaced. -/
def putBit (v i : Nat) (b : Bool) : Nat := putField v ⟨i, 1⟩ b.toNat

/-- Two's complement reading of `w` bits. -/
def toSigned (w v : Nat) : Int :=
  if v % 2 ^ w < 2 ^ (w - 1) then (v % 2 ^ w : Nat) else (v % 2 ^ w : Nat) - (2 ^ w : Nat)

/-- Two's complement word of `w` bits for an integer. -/
def ofSigned (w : Nat) (i : Int) : Nat := (i % (2 ^ w : Nat)).toNat

/-- An integer held to a range. -/
def clampI (lo hi i : Int) : Int := if i < lo then lo else if hi < i then hi else i

/-- A natural number held to a range. -/
def clampN (lo hi n : Nat) : Nat := if n < lo then lo else if hi < n then hi else n

/-- Division rounded to the nearest whole number, ties to even (R6); `d` is positive. -/
def divRound (n : Int) (d : Nat) : Int :=
  let q := Int.fdiv n d
  let r := Int.fmod n d
  if 2 * r < d then q else if (d : Int) < 2 * r then q + 1 else if q % 2 = 0 then q else q + 1

/-- Truth of the low byte order: `n` bytes of a word, least significant first (little-endian fields). -/
def bytesLE : Nat → Nat → List Byte
  | 0, _ => []
  | n + 1, v => BitVec.ofNat 8 v :: bytesLE n (v / 256)

/-- The word little-endian bytes spell. -/
def ofBytesLE : List Byte → Nat
  | [] => 0
  | b :: bs => b.toNat + 256 * ofBytesLE bs

/-- Bitwise and, or, exclusive or and complement within `w` bits. -/
def andW (a b : Nat) : Nat := a &&& b
def orW (a b : Nat) : Nat := a ||| b
def xorW (a b : Nat) : Nat := a ^^^ b
def notW (w a : Nat) : Nat := 2 ^ w - 1 - a % 2 ^ w

/-- The word whose set bits are the listed ones. -/
def maskOf (l : List Nat) : Nat := l.foldl (fun m i => m ||| 2 ^ i) 0

/-- The bits set in the low `n` bits of a word, in rising order. -/
def bitsOf (n v : Nat) : List Nat := (List.range n).filter (fun i => bitOf v i)

/-- Integer square root by bisection on `fuel` bits. -/
def isqrtAux : Nat → Nat → Nat → Nat
  | 0, _, r => r
  | k + 1, n, r => let t := r + 2 ^ k; isqrtAux k n (if t * t ≤ n then t else r)

/-- Integer square root of a number below 2^256. -/
def isqrt (n : Nat) : Nat := isqrtAux 128 n 0

end Sys2Proof.Machine
end

