-- ==== Sys2Proof/Machine/Objects.lean ====
section
/-! DEFINITION. The object dictionary as the spec tabulates it: the index map of Tables 16.1 and 16.2 (R415, R416),
the types of Table 16.3 (R418), and one row per object with its type, access code, default, field masks and range.
Every row is read from the object tables named in the comment before its group. -/
namespace Sys2Proof.Machine

/-- The groups of indices of Tables 16.1 and 16.2; each is one object table of a chapter. -/
inductive Grp where
  | com | md | pin | net | can | ck | fj | act | pi | rl | ms | intake | bs | un | scrsh | job | stsh | lgsh | ttsh | pred | pg | hhsh | ev | dm | sb | su | bt | fi | mtsh | mt | link | rcard | pt | fire | health | twin | scr | comp | comp2 | st | lg | tt | ax | ig | ds
  deriving DecidableEq, Repr

/-- One object: its group, the instance within the group (port, axis, slot, entry, path …) and its subindex. -/
structure Obj where
  grp  : Grp
  inst : Nat
  sub  : Nat
  deriving DecidableEq, Repr

/-- The types of Table 16.3 that hold a number (R418). -/
inductive Ty where
  | u8 | u16 | u32 | u64 | i8 | i16 | i32 | i64
  deriving DecidableEq, Repr

/-- Width in bits of a type (Table 16.3). -/
def Ty.bits : Ty → Nat
  | .u8 | .i8 => 8
  | .u16 | .i16 => 16
  | .u32 | .i32 => 32
  | .u64 | .i64 => 64

/-- Whether a type is one of the INTEGER types (Table 16.3). -/
def Ty.signed : Ty → Bool
  | .i8 | .i16 | .i32 | .i64 => true
  | _ => false

/-- The access codes of Table 0.5 (R8, R420). -/
inductive Acc where
  | rw | ro | rc | w1c | wo | rwl | const
  deriving DecidableEq, Repr

/-- A field's legal values: width `w` bits at `lo`, from `mn` to `mx`, or the one value `alt` (R574). -/
structure FldRule where
  lo : Nat
  w : Nat
  mn : Nat
  mx : Nat
  alt : Nat
  deriving DecidableEq, Repr

/-- The range an object's meaning states (R574 and the range sentence of each object rule). -/
inductive Rng where
  /-- every value of the type -/
  | any
  /-- from lo to hi -/
  | r (lo hi : Int)
  /-- 0, or from lo to hi -/
  | z (lo hi : Int)
  /-- from lo to hi, or the one value alt -/
  | rOr (lo hi alt : Int)
  /-- the listed values (R574) -/
  | vals (l : List Int)
  /-- a power of two from lo to hi -/
  | p2 (lo hi : Nat)
  /-- a multiple of k -/
  | mul (k : Nat)
  /-- a multiple of k, at most hi -/
  | mulR (k hi : Nat)
  /-- not zero -/
  | nz
  /-- fields with stated values -/
  | flds (l : List FldRule)
  deriving DecidableEq, Repr

/-- One row of an object table. `ro`, `mbz` and `wo` are the masks of the fields that ignore writes, that must be
written 0, and that act on a written 1 (R421). -/
structure Row where
  lo : Nat
  hi : Nat
  ty : Ty
  acc : Acc
  dflt : Nat
  ro : Nat
  mbz : Nat
  wo : Nat
  rng : Rng
  deriving DecidableEq, Repr

/-- Base index, stride and number of instances of each group (Tables 16.1, 16.2). -/
def Grp.base : Grp → Nat × Nat × Nat
  | .com => (0x1000, 1, 4096)
  | .md => (0x2000, 0x1, 1)
  | .pin => (0x2001, 0x1, 1)
  | .net => (0x2010, 0x1, 1)
  | .can => (0x2011, 0x1, 2)
  | .ck => (0x2100, 0x1, 1)
  | .fj => (0x2200, 0x1, 1)
  | .act => (0x2300, 0x1, 256)
  | .pi => (0x2400, 0x1, 12)
  | .rl => (0x2410, 0x1, 4)
  | .ms => (0x2420, 0x1, 64)
  | .intake => (0x2500, 0x1, 1)
  | .bs => (0x2501, 0x1, 1)
  | .un => (0x2502, 0x1, 1)
  | .scrsh => (0x2503, 0x1, 1)
  | .job => (0x2504, 0x1, 4)
  | .stsh => (0x2508, 0x1, 1)
  | .lgsh => (0x2509, 0x1, 1)
  | .ttsh => (0x250A, 0x1, 1)
  | .pred => (0x2510, 0x1, 12)
  | .pg => (0x2520, 0x1, 8)
  | .hhsh => (0x2530, 0x1, 1)
  | .ev => (0x2600, 0x1, 1)
  | .dm => (0x2700, 0x1, 1)
  | .sb => (0x2800, 0x1, 1)
  | .su => (0x2900, 0x1, 1)
  | .bt => (0x2A00, 0x1, 1)
  | .fi => (0x2B00, 0x1, 1)
  | .mtsh => (0x2C00, 0x1, 1)
  | .mt => (0x2C10, 0x1, 8)
  | .link => (0x3000, 0x20, 96)
  | .rcard => (0x3001, 0x20, 96)
  | .pt => (0x3002, 0x20, 96)
  | .fire => (0x3003, 0x20, 96)
  | .health => (0x3004, 0x20, 96)
  | .twin => (0x3005, 0x20, 96)
  | .scr => (0x300C, 0x20, 96)
  | .comp => (0x300D, 0x20, 96)
  | .comp2 => (0x300E, 0x20, 96)
  | .st => (0x300F, 0x20, 96)
  | .lg => (0x3010, 0x20, 96)
  | .tt => (0x3011, 0x20, 96)
  | .ax => (0x4000, 0x10, 20)
  | .ig => (0x4180, 0x1, 4)
  | .ds => (0x4200, 0x1, 20)

/-- Table 18.11. -/
def rows_md : List Row := [
  ⟨0, 0, .u8, .const, 0xD, 0, 0, 0, .any⟩,  -- Count
  ⟨1, 1, .u8, .ro, 1, 0, 0, 0, .any⟩,  -- MD_MODE
  ⟨2, 2, .u8, .wo, 0, 0, 0, 0, .any⟩,  -- MD_MODE_CMD
  ⟨3, 3, .u32, .ro, 0, 0, 0, 0, .any⟩,  -- MD_STATUS
  ⟨4, 4, .u32, .rc, 0, 0, 0, 0, .any⟩,  -- MD_EVENTS
  ⟨5, 5, .u8, .ro, 0, 0, 0, 0, .any⟩,  -- MD_MODE_RESULT
  ⟨6, 6, .u8, .ro, 1, 0, 0, 0, .any⟩,  -- MD_RESET_CAUSE
  ⟨7, 7, .u8, .rw, 0, 0, 0xFC, 0, .any⟩,  -- MD_POWER
  ⟨8, 8, .u32, .ro, 0x301, 0, 0, 0, .any⟩,  -- MD_INHIBIT_STATUS
  ⟨9, 9, .u8, .wo, 0, 0, 0xF8, 0, .any⟩,  -- MD_INHIBIT_SET
  ⟨0xA, 0xA, .u8, .wo, 0, 0, 0xF8, 0, .any⟩,  -- MD_INHIBIT_CLR
  ⟨0xB, 0xB, .u8, .rw, 5, 0, 0, 0, (.flds [⟨0, 2, 0, 2, 2⟩, ⟨3, 5, 0, 0, 0⟩])⟩,  -- MD_INHIBIT_CONFIG
  ⟨0xC, 0xC, .u16, .rw, 0xA, 0, 0, 0, (.r 1 10000)⟩,  -- MD_PIN_RELEASE
  ⟨0xD, 0xD, .u32, .ro, 0, 0, 0, 0, .any⟩]  -- MD_CHANGES

/-- Table 21.8. -/
def rows_pin : List Row := [
  ⟨0, 0, .u8, .const, 3, 0, 0, 0, .any⟩,  -- Count
  ⟨1, 1, .u8, .ro, 0, 0, 0, 0, .any⟩,  -- MD_PIN_OWNER
  ⟨2, 2, .u32, .rc, 0, 0, 0, 0, .any⟩,  -- MD_PIN_EVENTS
  ⟨3, 3, .u32, .ro, 0, 0, 0, 0, .any⟩]  -- MD_PIN_CONFLICTS

/-- Table 16.13. -/
def rows_net : List Row := [
  ⟨0, 0, .u8, .const, 0x18, 0, 0, 0, .any⟩,  -- Count
  ⟨1, 1, .u32, .rc, 0, 0, 0, 0, .any⟩,  -- MD_DICT_EVENTS
  ⟨2, 2, .u32, .ro, 0, 0, 0, 0, .any⟩,  -- MD_DICT_HI
  ⟨3, 3, .u32, .rw, 0, 0, 0, 0, .any⟩,  -- MD_DICT_HI_STAGE
  ⟨4, 4, .u32, .ro, 0, 0, 0, 0, .any⟩,  -- MD_ABORT_CODE
  ⟨5, 5, .u32, .ro, 0, 0, 0, 0, .any⟩,  -- MD_ABORT_WHERE
  ⟨6, 6, .u32, .ro, 0, 0, 0, 0, .any⟩,  -- MD_ABORT_COUNT
  ⟨7, 7, .u32, .ro, 0, 0, 0, 0, .any⟩,  -- MD_PARTIAL_WRITES
  ⟨8, 8, .u8, .rw, 0x7F, 0, 0, 0, (.r 1 127)⟩,  -- MD_NODE_ID
  ⟨9, 9, .u32, .rw, 0, 0, 0xFFFFFFFC, 0, .any⟩,  -- MD_NET_CONFIG
  ⟨0xA, 0xA, .u8, .ro, 0, 0, 0, 0, .any⟩,  -- MD_NMT_STATE
  ⟨0xB, 0xB, .u16, .rw, 0x3E8, 0, 0, 0, (.r 10 60000)⟩,  -- MD_USDO_TIMEOUT
  ⟨0xC, 0xC, .u8, .ro, 0, 0, 0, 0, .any⟩,  -- MD_USDO_USE
  ⟨0xD, 0x10, .u8, .ro, 0xFF, 0, 0, 0, .any⟩,  -- MD_USDO_CLIENT[s], s = 0…3
  ⟨0x11, 0x11, .u32, .ro, 0, 0, 0, 0, .any⟩,  -- MD_USDO_REFUSED
  ⟨0x12, 0x12, .u32, .ro, 0, 0, 0, 0, .any⟩,  -- MD_TIME_MS
  ⟨0x13, 0x13, .u16, .ro, 0, 0, 0, 0, .any⟩,  -- MD_TIME_DAYS
  ⟨0x14, 0x14, .u64, .ro, 0, 0, 0, 0, .any⟩,  -- MD_TIME_AT
  ⟨0x15, 0x15, .u64, .ro, 0, 0, 0, 0, .any⟩,  -- MD_SYNC_AT
  ⟨0x16, 0x16, .u32, .ro, 0, 0, 0, 0, .any⟩,  -- MD_SYNC_COUNT
  ⟨0x17, 0x17, .u32, .ro, 0, 0, 0, 0, .any⟩,  -- MD_EMCY_LOST
  ⟨0x18, 0x18, .u32, .ro, 0, 0, 0, 0, .any⟩]  -- MD_RPDO_REFUSED

/-- Table 16.15. -/
def rows_can : List Row := [
  ⟨0, 0, .u8, .const, 0xA, 0, 0, 0, .any⟩,  -- Count
  ⟨1, 1, .u32, .ro, 0, 0, 0, 0, .any⟩,  -- MD_CAN_STATUS
  ⟨2, 2, .u32, .rc, 0, 0, 0, 0, .any⟩,  -- MD_CAN_EVENTS
  ⟨3, 3, .u32, .rw, 0x7120, 0xFFFF88CE, 0, 0, (.flds [⟨8, 3, 0, 4, 4⟩])⟩,  -- MD_CAN_CONFIG
  ⟨4, 4, .u8, .ro, 0, 0, 0, 0, .any⟩,  -- MD_CAN_TEC
  ⟨5, 5, .u8, .ro, 0, 0, 0, 0, .any⟩,  -- MD_CAN_REC
  ⟨6, 6, .u32, .ro, 0, 0, 0, 0, .any⟩,  -- MD_CAN_BUS_OFFS
  ⟨7, 7, .u32, .ro, 0, 0, 0, 0, .any⟩,  -- MD_CAN_RX_FRAMES
  ⟨8, 8, .u32, .ro, 0, 0, 0, 0, .any⟩,  -- MD_CAN_TX_FRAMES
  ⟨9, 9, .u32, .ro, 0, 0, 0, 0, .any⟩,  -- MD_CAN_RX_LOST
  ⟨0xA, 0xA, .u32, .ro, 0, 0, 0, 0, .any⟩]  -- MD_CAN_TX_DROPPED

/-- Table 2.4. -/
def rows_ck : List Row := [
  ⟨0, 0, .u8, .const, 0x9F, 0, 0, 0, .any⟩,  -- Count
  ⟨1, 1, .u32, .ro, 0x4F, 0, 0, 0, .any⟩,  -- CK_STATUS
  ⟨2, 2, .u32, .rc, 0, 0, 0, 0, .any⟩,  -- CK_EVENTS
  ⟨3, 3, .u32, .rw, 2, 0xFFFFFFF8, 0, 1, .any⟩,  -- CK_CONTROL
  ⟨4, 4, .u32, .ro, 0, 0, 0, 0, .any⟩,  -- CK_PT_LO
  ⟨5, 5, .u32, .ro, 0, 0, 0, 0, .any⟩,  -- CK_PT_HI
  ⟨6, 6, .u32, .rw, 0, 0, 0, 0, .any⟩,  -- CK_PT_SET_LO
  ⟨7, 7, .u32, .rw, 0, 0, 0, 0, .any⟩,  -- CK_PT_SET_HI
  ⟨8, 8, .u8, .wo, 0, 0, 0, 0, (.vals [0, 1])⟩,  -- CK_PT_LOAD
  ⟨9, 9, .u8, .wo, 0, 0, 0, 0, (.vals [1])⟩,  -- CK_SNAPSHOT
  ⟨0xA, 0xA, .u32, .ro, 0, 0, 0, 0, .any⟩,  -- CK_SNAP_LO
  ⟨0xB, 0xB, .u32, .ro, 0, 0, 0, 0, .any⟩,  -- CK_SNAP_HI
  ⟨0xC, 0xC, .u32, .ro, 0, 0, 0, 0, .any⟩,  -- CK_SNAP_RTC
  ⟨0xD, 0xD, .u16, .ro, 0, 0, 0, 0, .any⟩,  -- CK_SNAP_RTC_SUB
  ⟨0xE, 0xE, .u32, .ro, 0, 0, 0, 0, .any⟩,  -- CK_SNAP_SEQ
  ⟨0xF, 0xF, .i32, .ro, 0, 0, 0, 0, .any⟩,  -- CK_RATE_ADJ
  ⟨0x10, 0x10, .u32, .rw, 0x2710, 0, 0, 0, (.r 0 100000)⟩,  -- CK_HOLDOVER_LIMIT
  ⟨0x11, 0x11, .i16, .ro, 0x8000, 0, 0, 0, .any⟩,  -- CK_CAL_DIE_TEMP
  ⟨0x12, 0x12, .u16, .ro, 0x8FC, 0, 0, 0, .any⟩,  -- CK_DL_TAP
  ⟨0x13, 0x13, .u8, .ro, 0, 0, 0, 0, .any⟩,  -- CK_DL_SLEWING
  ⟨0x20, 0x2B, .i16, .rw, 0, 0, 0, 0, (.r (-2048) (2047))⟩,  -- CK_CAPTURE_SKEW[i], i = 0…11
  ⟨0x40, 0x9F, .i16, .rw, 0, 0, 0, 0, (.r (-2048) (2047))⟩]  -- CK_FIRE_SKEW[n], n = 0…95

/-- Table 3.14. -/
def rows_fj : List Row := [
  ⟨0, 0, .u8, .const, 0x1A, 0, 0, 0, .any⟩,  -- Count
  ⟨1, 1, .u32, .ro, 0, 0, 0, 0, .any⟩,  -- FJ_STATUS
  ⟨2, 2, .u32, .rc, 0, 0, 0, 0, .any⟩,  -- FJ_EVENTS
  ⟨3, 3, .u32, .rw, 0x33, 0xFFFFFF88, 0, 4, .any⟩,  -- FJ_CONTROL
  ⟨4, 4, .u8, .rw, 0x80, 0, 0, 0, .any⟩,  -- FJ_PRIORITY
  ⟨5, 5, .u64, .const, 0, 0, 0, 0, .any⟩,  -- FJ_UID
  ⟨6, 6, .u8, .ro, 0xFF, 0, 0, 0, .any⟩,  -- FJ_NODE
  ⟨7, 7, .u8, .ro, 0, 0, 0, 0, .any⟩,  -- FJ_RING_SIZE
  ⟨8, 8, .u8, .ro, 0, 0, 0, 0, .any⟩,  -- FJ_PASSIVE_COUNT
  ⟨9, 9, .u64, .ro, 0, 0, 0, 0, .any⟩,  -- FJ_MASTER_UID
  ⟨0xA, 0xA, .u64, .ro, 0, 0, 0, 0, .any⟩,  -- FJ_FORMED_AT
  ⟨0xB, 0xB, .u32, .ro, 0, 0, 0, 0, .any⟩,  -- FJ_LOOP_DELAY
  ⟨0xC, 0xC, .u32, .ro, 0, 0, 0, 0, .any⟩,  -- FJ_HOP_DELAY
  ⟨0xD, 0xD, .i32, .ro, 0, 0, 0, 0, .any⟩,  -- FJ_OFFSET
  ⟨0xE, 0xE, .u16, .rw, 0xA, 0, 0, 0, (.r 2 100)⟩,  -- FJ_TIME_PERIOD
  ⟨0xF, 0xF, .u32, .rw, 0x7D0, 0, 0, 0, (.r 0 100000)⟩,  -- FJ_TIME_HOLDOVER
  ⟨0x10, 0x10, .u32, .rw, 0x400, 0, 0, 0, (.r 16 65536)⟩,  -- FJ_STEP_LIMIT
  ⟨0x11, 0x11, .u16, .rw, 0x320, 0, 0, 0, (.r 0 20000)⟩,  -- FJ_KP
  ⟨0x12, 0x12, .u16, .rw, 0x28, 0, 0, 0, (.r 0 2000)⟩,  -- FJ_KI
  ⟨0x13, 0x13, .u16, .rw, 0x3E8, 0, 0, 0, (.r 100 10000)⟩,  -- FJ_ECHO_PERIOD
  ⟨0x14, 0x14, .u32, .rw, 0x64, 0, 0, 0, (.r 50 10000000)⟩,  -- FJ_ACTION_LEAD
  ⟨0x15, 0x15, .u32, .rw, 0x55, 0, 0, 0, .any⟩,  -- FJ_FAULT_ACTION
  ⟨0x16, 0x16, .u16, .ro, 0, 0, 0, 0, .any⟩,  -- FJ_SLOW_RX
  ⟨0x17, 0x17, .u32, .ro, 0, 0, 0, 0, .any⟩,  -- FJ_CRC_ERRORS
  ⟨0x18, 0x18, .u32, .ro, 0, 0, 0, 0, .any⟩,  -- FJ_CELLS_DROPPED
  ⟨0x19, 0x19, .u16, .ro, 0x100, 0, 0, 0, .any⟩,  -- FJ_ACT_FREE
  ⟨0x1A, 0x1A, .u16, .ro, 0x2300, 0, 0, 0, .any⟩]  -- FJ_ACT_NEXT_FREE

/-- Table 3.18. -/
def rows_act : List Row := [
  ⟨0, 0, .u8, .const, 0xA, 0, 0, 0, .any⟩,  -- Count
  ⟨1, 1, .u8, .ro, 0, 0, 0, 0, .any⟩,  -- STATE
  ⟨2, 2, .u8, .rw, 0, 0, 0, 0, .any⟩,  -- KIND
  ⟨3, 3, .u8, .rw, 0, 0, 0, 0, .any⟩,  -- TRIGGER
  ⟨4, 4, .u32, .rw, 0, 0, 0, 0, .any⟩,  -- WHEN_LO
  ⟨5, 5, .u32, .rw, 0, 0, 0, 0, .any⟩,  -- WHEN_HI
  ⟨6, 6, .u32, .rw, 0, 0, 0, 0, .any⟩,  -- ARG_LO
  ⟨7, 7, .u32, .rw, 0, 0, 0, 0, .any⟩,  -- ARG_HI
  ⟨8, 8, .u8, .wo, 0, 0, 0, 0, (.vals [1, 2, 3])⟩,  -- COMMAND
  ⟨9, 9, .u8, .ro, 0, 0, 0, 0, .any⟩,  -- RESULT
  ⟨0xA, 0xA, .u16, .ro, 0xFFFF, 0, 0, 0, .any⟩]  -- TICKET

/-- Table 4.6. -/
def rows_pi : List Row := [
  ⟨0, 0, .u8, .const, 0x15, 0, 0, 0, .any⟩,  -- Count
  ⟨1, 1, .u32, .ro, 0x60, 0, 0, 0, .any⟩,  -- PI_STATUS
  ⟨2, 2, .u32, .rc, 0, 0, 0, 0, .any⟩,  -- PI_EVENTS
  ⟨3, 3, .u32, .rw, 0x800, 0xFFFE7088, 0, 0x18000, (.flds [⟨0, 2, 0, 2, 2⟩])⟩,  -- PI_CONFIG
  ⟨4, 4, .u32, .rw, 0, 0, 0, 0, .any⟩,  -- PI_COUNT
  ⟨5, 5, .u32, .ro, 0, 0, 0, 0, .any⟩,  -- PI_LAST_EDGE_LO
  ⟨6, 6, .u32, .ro, 0, 0, 0, 0, .any⟩,  -- PI_LAST_EDGE_HI
  ⟨7, 7, .i32, .ro, 0, 0, 0, 0, .any⟩,  -- PI_SPEED
  ⟨8, 8, .u16, .rw, 0x10, 0, 0, 0, (.r 1 256)⟩,  -- PI_SPEED_EDGES
  ⟨9, 9, .u8, .rw, 2, 0, 0, 0, (.r 0 15)⟩,  -- PI_GLITCH
  ⟨0xA, 0xA, .u16, .rw, 0x10, 0, 0, 0, (.r 4 65535)⟩,  -- PI_MIN_INTERVAL
  ⟨0xB, 0xB, .u16, .rw, 0x50, 0, 0, 0, (.r 8 65535)⟩,  -- PI_WIRE_TIME
  ⟨0xC, 0xC, .u32, .ro, 0, 0, 0, 0, .any⟩,  -- PI_Z_POS
  ⟨0xD, 0xD, .u32, .ro, 0, 0, 0, 0, .any⟩,  -- PI_Z_TIME_LO
  ⟨0xE, 0xE, .u32, .ro, 0, 0, 0, 0, .any⟩,  -- PI_Z_TIME_HI
  ⟨0xF, 0xF, .u32, .rw, 0, 0, 0, 0, .any⟩,  -- PI_Z_LOAD
  ⟨0x10, 0x10, .u16, .rw, 0x2710, 0, 0, 0, (.r 100 65535)⟩,  -- PI_STOP_TIME
  ⟨0x11, 0x11, .u32, .ro, 0, 0, 0, 0, .any⟩,  -- PI_GLITCHES
  ⟨0x12, 0x12, .u32, .ro, 0, 0, 0, 0, .any⟩,  -- PI_FAST_EDGES
  ⟨0x13, 0x13, .u32, .ro, 0, 0, 0, 0, .any⟩,  -- PI_COUNT_ERRORS
  ⟨0x14, 0x14, .u32, .ro, 0, 0, 0, 0, .any⟩,  -- PI_WIRE_FAULTS
  ⟨0x15, 0x15, .u32, .ro, 0, 0, 0, 0, .any⟩]  -- PI_INVALID_HALL

/-- Table 4.10. -/
def rows_rl : List Row := [
  ⟨0, 0, .u8, .const, 3, 0, 0, 0, .any⟩,  -- Count
  ⟨1, 1, .u32, .rw, 0, 0xFFFFF00C, 0, 0, (.flds [⟨4, 4, 0, 11, 11⟩])⟩,  -- RL_CONFIG
  ⟨2, 2, .u8, .ro, 0, 0, 0, 0, .any⟩,  -- RL_STATUS
  ⟨3, 3, .u8, .rc, 0, 0, 0, 0, .any⟩]  -- RL_EVENTS

/-- Table 4.12. -/
def rows_ms : List Row := [
  ⟨0, 0, .u8, .const, 0xC, 0, 0, 0, .any⟩,  -- Count
  ⟨1, 1, .u32, .rw, 0, 0xFFFF0880, 0, 0, (.flds [⟨12, 2, 0, 2, 2⟩, ⟨8, 3, 0, 4, 4⟩, ⟨0, 4, 0, 11, 11⟩])⟩,  -- MS_CONTROL
  ⟨2, 2, .u8, .ro, 0, 0, 0, 0, .any⟩,  -- MS_STATUS
  ⟨3, 3, .u8, .ro, 0, 0, 0, 0, .any⟩,  -- MS_OWNER
  ⟨4, 4, .u32, .rw, 0, 0, 0, 0, .any⟩,  -- MS_COMPARE_LO
  ⟨5, 5, .u16, .rw, 0, 0, 0, 0, .any⟩,  -- MS_COMPARE_HI
  ⟨6, 6, .u32, .rw, 0x10000, 0, 0, 0, (.r 65536 4294967295)⟩,  -- MS_SPACING
  ⟨7, 7, .u32, .rw, 0, 0, 0, 0, .any⟩,  -- MS_REMAIN
  ⟨8, 8, .u32, .ro, 0, 0, 0, 0, .any⟩,  -- MS_HITS
  ⟨9, 9, .u32, .ro, 0, 0, 0, 0, .any⟩,  -- MS_MISSED
  ⟨0xA, 0xA, .u32, .ro, 0, 0, 0, 0, .any⟩,  -- MS_HIT_TIME_LO
  ⟨0xB, 0xB, .u32, .ro, 0, 0, 0, 0, .any⟩,  -- MS_HIT_TIME_HI
  ⟨0xC, 0xC, .u16, .rw, 0x190, 0, 0, 0, (.r 1 65535)⟩]  -- MS_PULSE

/-- Table 5.15. -/
def rows_intake : List Row := [
  ⟨0, 0, .u8, .const, 0x12, 0, 0, 0, .any⟩,  -- Count
  ⟨1, 1, .u32, .ro, 0x10, 0, 0, 0, .any⟩,  -- IN_STATUS
  ⟨2, 2, .u32, .rc, 0, 0, 0, 0, .any⟩,  -- IN_EVENTS
  ⟨3, 3, .u32, .rw, 2, 0xFFFFFFF0, 0, 0xC, .any⟩,  -- IN_CONTROL
  ⟨4, 4, .u32, .rw, 0, 0, 0, 0, (.mul 128)⟩,  -- IN_Q_BASE_LO
  ⟨5, 5, .u32, .rw, 0, 0, 0, 0, .any⟩,  -- IN_Q_BASE_HI
  ⟨6, 6, .u16, .rw, 0x100, 0, 0, 0, (.p2 16 4096)⟩,  -- IN_Q_SLOTS
  ⟨7, 7, .u16, .ro, 0, 0, 0, 0, .any⟩,  -- IN_HEAD
  ⟨8, 8, .u16, .rw, 0, 0, 0, 0, .any⟩,  -- IN_TAIL
  ⟨9, 9, .u32, .ro, 0, 0, 0, 0, .any⟩,  -- IN_ERR_ADDR_LO
  ⟨0xA, 0xA, .u32, .ro, 0, 0, 0, 0, .any⟩,  -- IN_ERR_ADDR_HI
  ⟨0xB, 0xB, .u16, .ro, 0, 0, 0, 0, .any⟩,  -- IN_ERR_SLOT
  ⟨0xC, 0xC, .u8, .ro, 0, 0, 0, 0, .any⟩,  -- IN_ERR_CODE
  ⟨0xD, 0xD, .u16, .wo, 0, 0, 0, 0, .any⟩,  -- IN_JOB_ABORT
  ⟨0xE, 0xE, .u16, .rw, 0x32, 0, 0, 0, (.r 10 1000)⟩,  -- IN_PAUSE_STEP
  ⟨0xF, 0xF, .u32, .ro, 0, 0, 0, 0, .any⟩,  -- IN_LAST_SEQ
  ⟨0x10, 0x10, .u32, .ro, 0, 0, 0, 0, .any⟩,  -- IN_WAYBILLS
  ⟨0x11, 0x11, .u32, .ro, 0, 0, 0, 0, .any⟩,  -- IN_KIB
  ⟨0x12, 0x12, .u32, .ro, 0, 0, 0, 0, .any⟩]  -- IN_RETRIES

/-- Table 5.19. -/
def rows_bs : List Row := [
  ⟨0, 0, .u8, .const, 0xD, 0, 0, 0, .any⟩,  -- Count
  ⟨1, 1, .u32, .ro, 0, 0, 0, 0, .any⟩,  -- BS_STATUS
  ⟨2, 2, .u32, .rc, 0, 0, 0, 0, .any⟩,  -- BS_EVENTS
  ⟨3, 3, .u32, .rwl, 0x240, 0xFFFFEC8E, 0, 0, (.flds [⟨8, 2, 0, 2, 2⟩, ⟨4, 3, 0, 4, 4⟩])⟩,  -- BS_CONFIG
  ⟨4, 4, .u32, .ro, 0, 0, 0, 0, .any⟩,  -- BS_CAPACITY
  ⟨5, 5, .u32, .ro, 0, 0, 0, 0, .any⟩,  -- BS_FREE_PAGES
  ⟨6, 6, .u32, .rw, 0, 0, 0, 0, .any⟩,  -- BS_HOST_SIZE
  ⟨7, 7, .u32, .rw, 0, 0, 0, 0, (.mul 1048576)⟩,  -- BS_WIN_BASE_LO
  ⟨8, 8, .u32, .rw, 0, 0, 0, 0, .any⟩,  -- BS_WIN_BASE_HI
  ⟨9, 9, .u8, .rw, 0, 0, 0, 0, (.vals [0, 1])⟩,  -- BS_WIN_TARGET
  ⟨0xA, 0xA, .u16, .rw, 0x5000, 0, 0, 0, (.r 20480 24575)⟩,  -- BS_WIN_OBJECT
  ⟨0xB, 0xB, .u32, .ro, 0, 0, 0, 0, .any⟩,  -- BS_ECC_CORRECTED
  ⟨0xC, 0xC, .u32, .ro, 0, 0, 0, 0, .any⟩,  -- BS_ECC_UNCORR
  ⟨0xD, 0xD, .u64, .ro, 0, 0, 0, 0, .any⟩]  -- BS_ERR_ADDR

/-- Table 5.23. -/
def rows_un : List Row := [
  ⟨0, 0, .u8, .const, 6, 0, 0, 0, .any⟩,  -- Count
  ⟨1, 1, .u32, .ro, 0, 0, 0, 0, .any⟩,  -- UP_STATUS
  ⟨2, 2, .u32, .rc, 0, 0, 0, 0, .any⟩,  -- UP_EVENTS
  ⟨3, 3, .u32, .ro, 0, 0, 0, 0, .any⟩,  -- UP_ERR_INFO
  ⟨4, 4, .u32, .ro, 0, 0, 0, 0, .any⟩,  -- UP_ERR_BAND
  ⟨5, 5, .u32, .ro, 0, 0, 0, 0, .any⟩,  -- UP_FORMAT_ERRORS
  ⟨6, 6, .u32, .ro, 0, 0, 0, 0, .any⟩]  -- UP_BLANK_LINES

/-- R175, R268 or R329. -/
def rows_scrsh : List Row := [
  ⟨0, 0, .u8, .const, 1, 0, 0, 0, .any⟩,  -- Count
  ⟨1, 1, .u32, .ro, 0, 0, 0, 0, .any⟩]  -- SCR_SLOT_USE

/-- Table 5.24. -/
def rows_job : List Row := [
  ⟨0, 0, .u8, .const, 7, 0, 0, 0, .any⟩,  -- Count
  ⟨1, 1, .u8, .ro, 0, 0, 0, 0, .any⟩,  -- STATE
  ⟨2, 2, .u16, .ro, 0, 0, 0, 0, .any⟩,  -- JOB_ID
  ⟨3, 3, .u16, .ro, 0, 0, 0, 0, .any⟩,  -- FLAGS
  ⟨4, 4, .u32, .ro, 0, 0, 0, 0, .any⟩,  -- BANDS
  ⟨5, 5, .u32, .ro, 0, 0, 0, 0, .any⟩,  -- LINE
  ⟨6, 6, .u32, .ro, 0, 0, 0, 0, .any⟩,  -- REPEAT_LEFT
  ⟨7, 7, .u32, .ro, 0, 0, 0, 0, .any⟩]  -- PAGES

/-- Table 7.11. -/
def rows_stsh : List Row := [
  ⟨0, 0, .u8, .const, 6, 0, 0, 0, .any⟩,  -- Count
  ⟨1, 1, .u32, .rw, 0, 0xFFFFF808, 0, 0, .any⟩,  -- ST_SHUTTLE
  ⟨2, 2, .u16, .rw, 0, 0, 0, 0, .any⟩,  -- ST_FEED
  ⟨3, 3, .u16, .rw, 1, 0, 0, 0, (.r 1 256)⟩,  -- ST_PASS_BANDS
  ⟨4, 4, .u8, .rw, 1, 0, 0, 0, (.r 1 32)⟩,  -- ST_BAND_READY
  ⟨5, 5, .u16, .ro, 0, 0, 0, 0, .any⟩,  -- ST_TILE_USE
  ⟨6, 6, .u32, .ro, 0, 0, 0, 0, .any⟩]  -- ST_LATE_COUNT

/-- Table 7.16. -/
def rows_lgsh : List Row := [
  ⟨0, 0, .u8, .const, 5, 0, 0, 0, .any⟩,  -- Count
  ⟨1, 1, .u32, .ro, 0, 0, 0, 0, .any⟩,  -- LG_SLOW_STATE
  ⟨2, 2, .u8, .rw, 0, 0, 0, 0, (.vals [0, 1])⟩,  -- LG_SLOW_HOST
  ⟨3, 3, .u32, .ro, 0, 0, 0, 0, .any⟩,  -- LG_SLOW_COUNT
  ⟨4, 4, .u32, .ro, 0, 0, 0, 0, .any⟩,  -- LG_SLOW_TIME
  ⟨5, 5, .u16, .ro, 0, 0, 0, 0, .any⟩]  -- LG_ALLOC_FREE

/-- Table 8.12. -/
def rows_ttsh : List Row := [
  ⟨0, 0, .u8, .const, 6, 0, 0, 0, .any⟩,  -- Count
  ⟨1, 1, .u32, .ro, 0, 0, 0, 0, .any⟩,  -- TT_ARMED_0
  ⟨2, 2, .u32, .ro, 0, 0, 0, 0, .any⟩,  -- TT_ARMED_1
  ⟨3, 3, .u32, .ro, 0, 0, 0, 0, .any⟩,  -- TT_ARMED_2
  ⟨4, 4, .u32, .ro, 0, 0, 0, 0, .any⟩,  -- TT_OVERSPEED_0
  ⟨5, 5, .u32, .ro, 0, 0, 0, 0, .any⟩,  -- TT_OVERSPEED_1
  ⟨6, 6, .u32, .ro, 0, 0, 0, 0, .any⟩]  -- TT_OVERSPEED_2

/-- Table 8.4. -/
def rows_pred : List Row := [
  ⟨0, 0, .u8, .const, 0x12, 0, 0, 0, .any⟩,  -- Count
  ⟨1, 1, .u32, .ro, 0, 0, 0, 0, .any⟩,  -- TT_PRED_STATUS
  ⟨2, 2, .u32, .rc, 0, 0, 0, 0, .any⟩,  -- TT_PRED_EVENTS
  ⟨3, 3, .u32, .rw, 0, 0xFFFFFFF8, 0, 0, (.flds [⟨0, 2, 0, 2, 2⟩])⟩,  -- TT_PRED_CONFIG
  ⟨4, 4, .u32, .rw, 0x10000, 0, 0, 0, (.r 1 4294967295)⟩,  -- TT_PITCH
  ⟨5, 5, .u8, .rw, 8, 0, 0, 0, (.r 1 64)⟩,  -- TT_FIT_EDGES
  ⟨6, 6, .u16, .rw, 0x7D0, 0, 0, 0, (.r 100 65535)⟩,  -- TT_STALL_TIME
  ⟨7, 7, .u32, .rw, 0x40, 0, 0, 0, (.r 1 65536)⟩,  -- TT_MIN_SPEED
  ⟨8, 8, .u32, .rw, 0x20000, 0, 0, 0, (.r 16384 16777216)⟩,  -- TT_EXTRAP
  ⟨9, 9, .u32, .rw, 0x989680, 0, 0, 0, (.r 1000 4000000000)⟩,  -- TT_ACC_LIMIT
  ⟨0xA, 0xA, .u64, .rw, 0, 0, 0, 0, (.r 0 281474976710655)⟩,  -- TT_START_POS
  ⟨0xB, 0xB, .u64, .ro, 0, 0, 0, 0, .any⟩,  -- TT_ORIGIN
  ⟨0xC, 0xC, .u32, .rw, 0, 0, 0, 0, .any⟩,  -- TT_FIXED_PERIOD
  ⟨0xD, 0xD, .u64, .rw, 0, 0, 0, 0, .any⟩,  -- TT_FIXED_START
  ⟨0xE, 0xE, .u64, .ro, 0, 0, 0, 0, .any⟩,  -- TT_PRED_POS
  ⟨0xF, 0xF, .i32, .ro, 0, 0, 0, 0, .any⟩,  -- TT_PRED_VEL
  ⟨0x10, 0x10, .i32, .ro, 0, 0, 0, 0, .any⟩,  -- TT_PRED_ACC
  ⟨0x11, 0x11, .u64, .ro, 0, 0, 0, 0, .any⟩,  -- TT_PRED_TIME
  ⟨0x12, 0x12, .u32, .ro, 0, 0, 0, 0, .any⟩]  -- TT_STALLS

/-- Table 10.12. -/
def rows_pg : List Row := [
  ⟨0, 0, .u8, .const, 0x12, 0, 0, 0, .any⟩,  -- Count
  ⟨1, 1, .u32, .ro, 0, 0, 0, 0, .any⟩,  -- HP_PG_STATUS
  ⟨2, 2, .u32, .rc, 0, 0, 0, 0, .any⟩,  -- HP_PG_EVENTS
  ⟨3, 3, .u32, .rw, 0, 0xFFFFFFF8, 0, 6, .any⟩,  -- HP_PG_CONTROL
  ⟨4, 4, .u16, .rw, 0, 0, 0, 0, (.r 1000 60000)⟩,  -- HP_PG_V_NOM
  ⟨5, 5, .u32, .rw, 0x100000, 0, 0, 0, (.r 65536 4194304)⟩,  -- HP_PG_GAIN
  ⟨6, 6, .u16, .rw, 0xFA0, 0, 0, 0, (.r 400 40000)⟩,  -- HP_PG_PERIOD
  ⟨7, 7, .u16, .rw, 0x64, 0, 0, 0, (.r 10 10000)⟩,  -- HP_PG_V_AGE
  ⟨8, 8, .u16, .rw, 4, 0, 0, 0, (.r 0 16384)⟩,  -- HP_PG_RHO_SLEW
  ⟨9, 9, .u16, .rw, 0x32, 0, 0, 0, (.r 1 1000)⟩,  -- HP_PG_RAMP_LIMIT
  ⟨0xA, 0xA, .u16, .rw, 0x3E8, 0, 0, 0, .any⟩,  -- HP_PG_CLAMP_TIME
  ⟨0xB, 0xB, .i16, .ro, 0x8000, 0, 0, 0, .any⟩,  -- HP_PG_VOLTAGE
  ⟨0xC, 0xC, .u16, .ro, 0x4000, 0, 0, 0, .any⟩,  -- HP_PG_RHO
  ⟨0xD, 0xD, .u16, .ro, 0x4000, 0, 0, 0, .any⟩,  -- HP_PG_RHO_TARGET
  ⟨0xE, 0xE, .u16, .ro, 0, 0, 0, 0, .any⟩,  -- HP_PG_K
  ⟨0xF, 0xF, .i16, .ro, 0x7FFF, 0, 0, 0, .any⟩,  -- HP_PG_V_MIN
  ⟨0x10, 0x10, .u32, .ro, 0, 0, 0, 0, .any⟩,  -- HP_PG_CLAMPS
  ⟨0x11, 0x11, .u8, .ro, 0, 0, 0, 0, .any⟩,  -- HP_PG_PEAK
  ⟨0x12, 0x12, .u8, .rw, 0xC, 0, 0, 0, (.r 1 12)⟩]  -- HP_PG_PEAK_WARN

/-- R175, R268 or R329. -/
def rows_hhsh : List Row := [
  ⟨0, 0, .u8, .const, 4, 0, 0, 0, .any⟩,  -- Count
  ⟨1, 1, .u32, .ro, 0, 0, 0, 0, .any⟩,  -- HP_ASSIGN_COUNT
  ⟨2, 4, .u32, .ro, 0, 0, 0, 0, .any⟩]  -- HP_TWIN_ACTIVE[w]

/-- Table 17.8. -/
def rows_ev : List Row := [
  ⟨0, 0, .u8, .const, 0xFF, 0, 0, 0, .any⟩,  -- Count
  ⟨1, 1, .u32, .ro, 4, 0, 0, 0, .any⟩,  -- EV_STATUS
  ⟨2, 2, .u32, .rc, 0, 0, 0, 0, .any⟩,  -- EV_EVENTS
  ⟨3, 3, .u32, .rw, 0, 0xFFFFFFFE, 0, 0, .any⟩,  -- EV_CONTROL
  ⟨4, 4, .u64, .rw, 0, 0, 0, 0, (.mul 64)⟩,  -- EV_Q_BASE
  ⟨5, 5, .u32, .rw, 0x400, 0, 0, 0, (.p2 64 65536)⟩,  -- EV_Q_SIZE
  ⟨6, 6, .u32, .rw, 0, 0, 0, 0, .any⟩,  -- EV_Q_HEAD
  ⟨7, 7, .u32, .ro, 0, 0, 0, 0, .any⟩,  -- EV_Q_TAIL
  ⟨8, 8, .u32, .ro, 0, 0, 0, 0, .any⟩,  -- EV_Q_LOST
  ⟨9, 9, .u16, .rw, 0, 0, 0, 0, (.r 0 1000)⟩,  -- EV_MODERATION
  ⟨0xA, 0xA, .u32, .ro, 0, 0, 0, 0, .any⟩,  -- EV_LOST
  ⟨0xB, 0xB, .u32, .ro, 0, 0, 0, 0, .any⟩,  -- EV_TOTAL
  ⟨0xC, 0xC, .u32, .ro, 0, 0, 0, 0, .any⟩,  -- EV_RING_MERGED
  ⟨0x10, 0x17, .u32, .rw, 0, 0, 0, 0, .any⟩,  -- EV_IRQ_VEC[k], k = 0…3
  ⟨0x18, 0x18, .u8, .rw, 0, 0, 0, 0, (.r 0 15)⟩,  -- EV_IRQ_CONFIG
  ⟨0x20, 0x33, .u32, .rc, 0, 0, 0, 0, .any⟩,  -- EV_PENDING[w], w = 0…19
  ⟨0x40, 0x53, .u32, .rw, 0, 0, 0, 0, .any⟩,  -- EV_ENABLE[w], w = 0…19
  ⟨0x60, 0xFF, .u32, .rw, 0, 0, 0, 0, .any⟩]  -- EV_ROUTE[w], w = 0…159

/-- Table 17.12. -/
def rows_dm : List Row := [
  ⟨0, 0, .u8, .const, 0xEF, 0, 0, 0, .any⟩,  -- Count
  ⟨1, 1, .u32, .ro, 0, 0, 0, 0, .any⟩,  -- DM_BUSY
  ⟨2, 2, .u32, .rc, 0, 0, 0, 0, .any⟩,  -- DM_DONE
  ⟨3, 3, .u32, .rc, 0, 0, 0, 0, .any⟩,  -- DM_ERROR
  ⟨0x10, 0x2F, .u32, .rw, 0, 0x203FF, 0, 0, (.flds [⟨22, 10, 0, 639, 639⟩])⟩,  -- DM_CH_CONFIG[c]
  ⟨0x30, 0x4F, .u32, .ro, 0, 0, 0, 0, .any⟩,  -- DM_CH_STATUS[c]
  ⟨0x50, 0x6F, .u64, .rw, 0, 0, 0, 0, (.mul 64)⟩,  -- DM_CH_DESC[c]
  ⟨0x70, 0x8F, .u8, .wo, 0, 0, 0, 0, (.vals [1, 2, 3, 4])⟩,  -- DM_CH_CMD[c]
  ⟨0x90, 0xAF, .u64, .ro, 0, 0, 0, 0, .any⟩,  -- DM_CH_ERR_ADDR[c]
  ⟨0xB0, 0xCF, .u32, .ro, 0, 0, 0, 0, .any⟩,  -- DM_CH_BYTES[c]
  ⟨0xD0, 0xEF, .u32, .ro, 0, 0, 0, 0, .any⟩]  -- DM_CH_DESCS[c]

/-- Table 12.6. -/
def rows_sb : List Row := [
  ⟨0, 0, .u8, .const, 0xBF, 0, 0, 0, .any⟩,  -- Count
  ⟨1, 1, .u32, .ro, 2, 0, 0, 0, .any⟩,  -- SB_STATUS
  ⟨2, 2, .u32, .rc, 0, 0, 0, 0, .any⟩,  -- SB_EVENTS
  ⟨3, 3, .u32, .rw, 3, 0xFFFFFFE0, 0, 0x1C, .any⟩,  -- SB_CONTROL
  ⟨4, 4, .u16, .rw, 0x9C4, 0, 0, 0, (.r 2048 4096)⟩,  -- SB_VREF_MV
  ⟨5, 5, .u16, .rw, 0x14, 0, 0, 0, (.r 5 100)⟩,  -- SB_VREF_TOL
  ⟨6, 6, .u8, .rw, 0x20, 0, 0, 0, .any⟩,  -- SB_EARLY
  ⟨7, 7, .u16, .rw, 0x80, 0, 0, 0, (.r 16 640)⟩,  -- SB_CAL_DELTA_T
  ⟨8, 8, .i16, .ro, 0x8000, 0, 0, 0, .any⟩,  -- SB_CAL_DIE_TEMP
  ⟨9, 9, .i16, .ro, 0x8000, 0, 0, 0, .any⟩,  -- SB_DIE_TEMP
  ⟨0xA, 0xA, .u16, .rw, 0x3E8, 0, 0, 0, (.r 100 10000)⟩,  -- SB_DIE_PERIOD
  ⟨0xB, 0xB, .u32, .rw, 0xFFE000, 0, 0, 0, (.mul 8192)⟩,  -- SB_STORE_ADDR
  ⟨0xC, 0xC, .u8, .wo, 0, 0, 0, 0, (.vals [1, 2])⟩,  -- SB_STORE_CMD
  ⟨0xD, 0xD, .u8, .ro, 0, 0, 0, 0, .any⟩,  -- SB_STORE_RESULT
  ⟨0xE, 0xE, .u32, .ro, 0, 0, 0, 0, .any⟩,  -- SB_STORE_SEQ
  ⟨0xF, 0xF, .i16, .ro, 0x8000, 0, 0, 0, .any⟩,  -- SB_BANDGAP_MV
  ⟨0x10, 0x10, .u32, .wo, 0, 0, 0, 0, .any⟩,  -- SB_HOST_CMD
  ⟨0x11, 0x11, .u16, .ro, 0, 0, 0, 0, .any⟩,  -- SB_HOST_STATUS
  ⟨0x12, 0x12, .u16, .ro, 0, 0, 0, 0, .any⟩,  -- SB_CONV_RETIRED
  ⟨0x13, 0x13, .u32, .ro, 0, 0, 0, 0, .any⟩,  -- SB_CUTS
  ⟨0x14, 0x14, .u32, .ro, 0, 0, 0, 0, .any⟩,  -- SB_CAL_COUNT
  ⟨0x16, 0x19, .u8, .rw, 0xC, 0, 0, 0, (.r 4 255)⟩,  -- SB_ACQ[j], j = 0…4
  ⟨0x1A, 0x1A, .u8, .rw, 4, 0, 0, 0, (.r 4 255)⟩,  -- SB_ACQ[j], j = 0…4
  ⟨0x20, 0x20, .u8, .rw, 0xF, 0, 0, 0, (.r 0 15)⟩,  -- SB_RANK[k], k = 0…9
  ⟨0x21, 0x21, .u8, .rw, 0xD, 0, 0, 0, (.r 0 15)⟩,  -- SB_RANK[k], k = 0…9
  ⟨0x22, 0x22, .u8, .rw, 0xB, 0, 0, 0, (.r 0 15)⟩,  -- SB_RANK[k], k = 0…9
  ⟨0x23, 0x23, .u8, .rw, 0xA, 0, 0, 0, (.r 0 15)⟩,  -- SB_RANK[k], k = 0…9
  ⟨0x24, 0x24, .u8, .rw, 9, 0, 0, 0, (.r 0 15)⟩,  -- SB_RANK[k], k = 0…9
  ⟨0x25, 0x25, .u8, .rw, 8, 0, 0, 0, (.r 0 15)⟩,  -- SB_RANK[k], k = 0…9
  ⟨0x26, 0x26, .u8, .rw, 7, 0, 0, 0, (.r 0 15)⟩,  -- SB_RANK[k], k = 0…9
  ⟨0x27, 0x27, .u8, .rw, 6, 0, 0, 0, (.r 0 15)⟩,  -- SB_RANK[k], k = 0…9
  ⟨0x28, 0x28, .u8, .rw, 4, 0, 0, 0, (.r 0 15)⟩,  -- SB_RANK[k], k = 0…9
  ⟨0x29, 0x29, .u8, .rw, 2, 0, 0, 0, (.r 0 15)⟩,  -- SB_RANK[k], k = 0…9
  ⟨0x30, 0x39, .u16, .rw, 0x32, 0, 0, 0, (.r 1 1000)⟩,  -- SB_HOLD_LIMIT[k], k = 0…9
  ⟨0x40, 0x41, .u8, .rw, 0xD, 0, 0, 0, (.r 0 15)⟩,  -- SB_FLOOR[c], c = 0…15
  ⟨0x42, 0x4F, .u8, .rw, 0, 0, 0, 0, (.r 0 15)⟩,  -- SB_FLOOR[c], c = 0…15
  ⟨0x50, 0x5F, .i16, .ro, 0, 0, 0, 0, .any⟩,  -- SB_CONV_OFFSET[c]
  ⟨0x60, 0x6F, .u16, .ro, 0x8000, 0, 0, 0, .any⟩,  -- SB_CONV_GAIN[c]
  ⟨0x70, 0x79, .u32, .ro, 0, 0, 0, 0, .any⟩,  -- SB_WAIT_MAX[k]
  ⟨0x80, 0xBF, .u16, .ro, 0, 0, 0, 0, .any⟩]  -- SB_HOST_RESULT[i], i = 0…63

/-- Table 18.13. -/
def rows_su : List Row := [
  ⟨0, 0, .u8, .const, 0x7B, 0, 0, 0, .any⟩,  -- Count
  ⟨1, 1, .u32, .ro, 3, 0, 0, 0, .any⟩,  -- SU_STATUS
  ⟨2, 2, .u32, .rc, 0, 0, 0, 0, .any⟩,  -- SU_EVENTS
  ⟨3, 3, .u8, .rw, 0, 0xFC, 0, 3, .any⟩,  -- SU_CONTROL
  ⟨4, 4, .i16, .rw, 0x5DC0, 0, 0, 0, .any⟩,  -- SU_BUS_NOM
  ⟨5, 5, .i16, .rw, 0x4B00, 0, 0, 0, .any⟩,  -- SU_VRESET
  ⟨6, 6, .u16, .rw, 0x190, 0, 0, 0, (.r 50 4000)⟩,  -- SU_HYST
  ⟨7, 7, .u16, .rw, 0xA, 0, 0, 0, (.r 5 1000)⟩,  -- SU_PERIOD
  ⟨8, 0xF, .u32, .rw, 0xC0000, 0, 0, 0, (.r 65536 4194304)⟩,  -- SU_GAIN[i]
  ⟨0x10, 0x10, .i16, .rw, 0x5460, 0, 0, 0, .any⟩,  -- SU_LOW[i]
  ⟨0x11, 0x17, .i16, .rw, 0, 0, 0, 0, .any⟩,  -- SU_LOW[i]
  ⟨0x18, 0x18, .i16, .rw, 0x7080, 0, 0, 0, .any⟩,  -- SU_HIGH[i]
  ⟨0x19, 0x1F, .i16, .rw, 0x7FFF, 0, 0, 0, .any⟩,  -- SU_HIGH[i]
  ⟨0x20, 0x27, .i16, .ro, 0x8000, 0, 0, 0, .any⟩,  -- SU_V[i]
  ⟨0x28, 0x28, .u8, .rw, 3, 0xFB, 0, 0, .any⟩,  -- SU_CONFIG[i]
  ⟨0x29, 0x2F, .u8, .rw, 0, 0xF8, 0, 0, .any⟩,  -- SU_CONFIG[i]
  ⟨0x30, 0x30, .u16, .rw, 0xA, 0, 0, 0, (.r 0 10000)⟩,  -- SU_CURFEW_HOLD
  ⟨0x31, 0x31, .u16, .rw, 0x64, 0, 0, 0, (.r 1 10000)⟩,  -- SU_SAG_TIME
  ⟨0x32, 0x32, .u16, .rw, 0x4B0, 0, 0, 0, (.r 100 10000)⟩,  -- SU_DRIFT_LIMIT
  ⟨0x33, 0x33, .i16, .ro, 0x8000, 0, 0, 0, .any⟩,  -- SU_BUS_MEAN
  ⟨0x34, 0x34, .i16, .ro, 0x7FFF, 0, 0, 0, .any⟩,  -- SU_BUS_MIN
  ⟨0x35, 0x35, .i16, .ro, 0x8000, 0, 0, 0, .any⟩,  -- SU_BUS_MAX
  ⟨0x36, 0x36, .i16, .ro, 0x8000, 0, 0, 0, .any⟩,  -- SU_DIP_DEPTH
  ⟨0x37, 0x37, .u32, .ro, 0, 0, 0, 0, .any⟩,  -- SU_DIP_TIME
  ⟨0x38, 0x38, .u32, .ro, 0, 0, 0, 0, .any⟩,  -- SU_DIPS
  ⟨0x39, 0x39, .u32, .ro, 0, 0, 0, 0, .any⟩,  -- SU_SAGS
  ⟨0x3A, 0x3A, .u32, .ro, 0, 0, 0, 0, .any⟩,  -- SU_SURGES
  ⟨0x3B, 0x3B, .u32, .ro, 0, 0, 0, 0, .any⟩,  -- SU_DEFERRED
  ⟨0x40, 0x47, .u16, .rw, 0, 0, 0, 0, (.z 1000 65000)⟩,  -- SU_PG_VHIGH[g]
  ⟨0x50, 0x50, .u32, .ro, 0, 0, 0, 0, .any⟩,  -- TH_STATUS
  ⟨0x51, 0x51, .u32, .rc, 0, 0, 0, 0, .any⟩,  -- TH_EVENTS
  ⟨0x52, 0x52, .u8, .rw, 0, 0xFC, 0, 3, .any⟩,  -- TH_CONTROL
  ⟨0x53, 0x53, .i16, .rw, 0x640, 0, 0, 0, (.r 1120 1760)⟩,  -- TH_THROTTLE
  ⟨0x54, 0x54, .i16, .rw, 0x730, 0, 0, 0, (.r 1680 1920)⟩,  -- TH_SHUTDOWN
  ⟨0x55, 0x55, .i16, .ro, 0x8000, 0, 0, 0, .any⟩,  -- TH_DIE_MAX
  ⟨0x56, 0x56, .u32, .ro, 0, 0, 0, 0, .any⟩,  -- TH_SHUTDOWNS
  ⟨0x57, 0x57, .u32, .ro, 0, 0, 0, 0, .any⟩,  -- TH_TRIPS
  ⟨0x60, 0x60, .u32, .ro, 0x80, 0, 0, 0, .any⟩,  -- BK_STATUS
  ⟨0x61, 0x61, .u32, .rc, 0x100, 0, 0, 0, .any⟩,  -- BK_EVENTS
  ⟨0x62, 0x62, .u32, .rw, 0, 0, 0xFFFFF8E0, 0xF, .any⟩,  -- BK_CONTROL
  ⟨0x63, 0x63, .u32, .ro, 0, 0, 0, 0, .any⟩,  -- BK_RTC_SEC
  ⟨0x64, 0x64, .u16, .ro, 0, 0, 0, 0, .any⟩,  -- BK_RTC_SUB
  ⟨0x65, 0x65, .u32, .rw, 0, 0, 0, 0, .any⟩,  -- BK_RTC_SET
  ⟨0x66, 0x66, .i16, .rw, 0, 0, 0, 0, (.r (-2000) (2000))⟩,  -- BK_RTC_TRIM
  ⟨0x67, 0x67, .u32, .rw, 0, 0, 0, 0, .any⟩,  -- BK_ALARM_SEC
  ⟨0x68, 0x68, .i16, .ro, 0x8000, 0, 0, 0, .any⟩,  -- BK_VBAT
  ⟨0x69, 0x69, .i16, .rw, 0x960, 0, 0, 0, (.r 2000 3600)⟩,  -- BK_V_LOW
  ⟨0x6A, 0x6A, .i16, .rw, 0x834, 0, 0, 0, (.r 2000 3600)⟩,  -- BK_V_EMPTY
  ⟨0x6B, 0x6B, .u8, .rw, 0, 0, 0, 0, (.flds [⟨0, 2, 0, 2, 2⟩, ⟨2, 6, 0, 0, 0⟩])⟩,  -- BK_CHG_CONFIG
  ⟨0x6C, 0x6C, .u16, .rw, 0x64, 0, 0, 0, (.r 10 2000)⟩,  -- BK_CHG_I
  ⟨0x6D, 0x6D, .i16, .rw, 0xC1C, 0, 0, 0, (.r 2500 3600)⟩,  -- BK_CHG_V
  ⟨0x6E, 0x6E, .u16, .rw, 0x18, 0, 0, 0, (.r 1 240)⟩,  -- BK_CHG_TIMEOUT
  ⟨0x6F, 0x6F, .u32, .rw, 0, 0, 0, 0, .any⟩,  -- BK_CAP
  ⟨0x70, 0x70, .i32, .ro, 0, 0, 0, 0, .any⟩,  -- BK_GAUGE
  ⟨0x71, 0x71, .u32, .wo, 0, 0, 0, 0, .any⟩,  -- BK_GAUGE_SET
  ⟨0x72, 0x72, .u16, .rw, 0x7D0, 0, 0, 0, .any⟩,  -- BK_DRAIN
  ⟨0x73, 0x73, .u32, .ro, 0, 0, 0, 0, .any⟩,  -- BK_JNL_COUNT
  ⟨0x74, 0x74, .u32, .rw, 0, 0, 0, 0, .any⟩,  -- BK_JNL_SELECT
  ⟨0x75, 0x78, .u32, .ro, 0, 0, 0, 0, .any⟩,  -- BK_JNL_WORD[k]
  ⟨0x79, 0x79, .u64, .wo, 0, 0, 0, 0, .any⟩,  -- BK_JNL_HOST
  ⟨0x7A, 0x7A, .u32, .ro, 0, 0, 0, 0, .any⟩,  -- BK_MAIN_LOSSES
  ⟨0x7B, 0x7B, .u32, .ro, 0, 0, 0, 0, .any⟩]  -- BK_BATTERY_SEC

/-- Table 19.9. -/
def rows_bt : List Row := [
  ⟨0, 0, .u8, .const, 0x8F, 0, 0, 0, .any⟩,  -- Count
  ⟨1, 1, .u32, .ro, 0, 0, 0, 0, .any⟩,  -- BT_STATUS
  ⟨2, 2, .u32, .rc, 0, 0, 0, 0, .any⟩,  -- BT_EVENTS
  ⟨3, 3, .u32, .rw, 0, 0, 0xFFFFFFFE, 1, .any⟩,  -- BT_CONTROL
  ⟨4, 4, .u8, .ro, 0, 0, 0, 0, .any⟩,  -- BT_STRAPS
  ⟨5, 5, .u8, .ro, 1, 0, 0, 0, .any⟩,  -- BT_RESULT
  ⟨6, 6, .u8, .ro, 0, 0, 0, 0, .any⟩,  -- BT_REJECT
  ⟨7, 7, .u8, .ro, 0, 0, 0, 0, .any⟩,  -- BT_SOURCE
  ⟨8, 8, .u32, .ro, 0, 0, 0, 0, .any⟩,  -- BT_FW_SEQ
  ⟨9, 9, .u32, .ro, 0, 0, 0, 0, .any⟩,  -- BT_FW_VERSION
  ⟨0xA, 0xA, .u8, .ro, 0xFF, 0, 0, 0, .any⟩,  -- BT_KEY_SLOT
  ⟨0xB, 0xB, .u32, .ro, 0, 0, 0, 0, .any⟩,  -- BT_BOOT_TIME
  ⟨0xC, 0xC, .u32, .wo, 0, 0, 0, 0, .any⟩,  -- BT_RECOVERY_CMD
  ⟨0xD, 0xD, .u16, .rwl, 0, 0, 0, 0, (.z 10 60000)⟩,  -- BT_WDT_PERIOD
  ⟨0xE, 0xE, .u8, .wo, 0, 0, 0, 0, .any⟩,  -- BT_WDT_KICK
  ⟨0x10, 0x10, .u32, .ro, 0, 0, 0, 0, .any⟩,  -- OT_STATUS
  ⟨0x11, 0x11, .u32, .rc, 0, 0, 0, 0, .any⟩,  -- OT_EVENTS
  ⟨0x12, 0x12, .u8, .ro, 0, 0, 0, 0, .any⟩,  -- OT_LC_STATE
  ⟨0x13, 0x13, .u8, .wo, 0, 0, 0, 0, (.r 1 5)⟩,  -- OT_LC_CMD
  ⟨0x14, 0x14, .u8, .ro, 0, 0, 0, 0, .any⟩,  -- OT_LC_RESULT
  ⟨0x15, 0x15, .u16, .rw, 0, 0, 0, 0, (.r 0 511)⟩,  -- OT_ROW_ADDR
  ⟨0x16, 0x16, .u32, .rw, 0, 0, 0, 0, .any⟩,  -- OT_ROW_DATA
  ⟨0x17, 0x17, .u8, .wo, 0, 0, 0, 0, (.r 1 4)⟩,  -- OT_ROW_CMD
  ⟨0x18, 0x18, .u8, .ro, 0, 0, 0, 0, .any⟩,  -- OT_ROW_RESULT
  ⟨0x19, 0x1B, .u32, .ro, 0, 0, 0, 0, .any⟩,  -- OT_MARGIN_NORM, OT_MARGIN_HIGH, OT_MARGIN_LOW
  ⟨0x1C, 0x1C, .u16, .ro, 0, 0, 0, 0, .any⟩,  -- OT_WEAK_COUNT
  ⟨0x1D, 0x1D, .u8, .ro, 0x10, 0, 0, 0, .any⟩,  -- OT_SPARES_FREE
  ⟨0x1E, 0x1E, .u16, .ro, 0, 0, 0, 0, .any⟩,  -- OT_LOCKS
  ⟨0x1F, 0x1F, .u8, .ro, 0, 0, 0, 0, .any⟩,  -- OT_SEC_VERSION
  ⟨0x20, 0x2F, .u32, .ro, 0, 0, 0, 0, .any⟩,  -- OT_WEAK_MAP[w], w = 0…15
  ⟨0x30, 0x37, .u32, .wo, 0, 0, 0, 0, .any⟩,  -- OT_TOKEN[k], k = 0…7
  ⟨0x38, 0x38, .u8, .ro, 0, 0, 0, 0, .any⟩,  -- OT_TOKEN_FAILS
  ⟨0x40, 0x40, .u32, .rw, 0, 0, 0, 0, (.r 0 16777215)⟩,  -- BT_QSPI_ADDR
  ⟨0x41, 0x41, .u16, .rw, 0x100, 0, 0, 0, (.r 1 256)⟩,  -- BT_QSPI_LEN
  ⟨0x42, 0x42, .u8, .wo, 0, 0, 0, 0, (.r 1 4)⟩,  -- BT_QSPI_CMD
  ⟨0x43, 0x43, .u8, .ro, 0, 0, 0, 0, .any⟩,  -- BT_QSPI_RESULT
  ⟨0x50, 0x8F, .u32, .rw, 0, 0, 0, 0, .any⟩]  -- BT_QSPI_DATA[i], i = 0…63

/-- Table 20.3. -/
def rows_fi : List Row := [
  ⟨0, 0, .u8, .const, 0xD, 0, 0, 0, .any⟩,  -- Count
  ⟨1, 1, .u32, .ro, 0, 0, 0, 0, .any⟩,  -- FI_STATUS
  ⟨2, 2, .u32, .rc, 0, 0, 0, 0, .any⟩,  -- FI_EVENTS
  ⟨3, 3, .u32, .rw, 0, 0xFFFFFFFE, 0, 0, .any⟩,  -- FI_CONTROL
  ⟨4, 4, .u32, .wo, 0, 0, 0, 0, .any⟩,  -- FI_KEY
  ⟨5, 5, .u8, .rw, 0, 0, 0, 0, (.r 0 79)⟩,  -- FI_POINT
  ⟨6, 6, .u16, .rw, 0, 0, 0, 0, .any⟩,  -- FI_UNIT
  ⟨7, 7, .u8, .rw, 1, 0, 0, 0, (.vals [1, 2, 3])⟩,  -- FI_MODE
  ⟨8, 8, .u16, .rw, 1, 0, 0, 0, (.r 1 65535)⟩,  -- FI_COUNT
  ⟨9, 9, .u32, .rw, 0, 0, 0, 0, .any⟩,  -- FI_SPACING
  ⟨0xA, 0xA, .u8, .wo, 0, 0, 0, 0, (.vals [1, 2])⟩,  -- FI_CMD
  ⟨0xB, 0xB, .u32, .ro, 0, 0, 0, 0, .any⟩,  -- FI_HITS
  ⟨0xC, 0xC, .u32, .ro, 0, 0, 0, 0, .any⟩,  -- FI_COLLIDED
  ⟨0xD, 0xD, .u64, .rw, 0, 0, 0, 0, .any⟩]  -- FI_AT

/-- Table 13.6. -/
def rows_mtsh : List Row := [
  ⟨0, 0, .u8, .const, 0xC, 0, 0, 0, .any⟩,  -- Count
  ⟨1, 1, .u32, .ro, 0, 0, 0, 0, .any⟩,  -- MT_STATUS
  ⟨2, 2, .u32, .rc, 0, 0, 0, 0, .any⟩,  -- MT_EVENTS
  ⟨3, 5, .u32, .ro, 0, 0, 0, 0, .any⟩,  -- MT_CAPPED_0 to MT_CAPPED_2
  ⟨6, 8, .u32, .ro, 0, 0, 0, 0, .any⟩,  -- MT_CLAIMED_0 to MT_CLAIMED_2
  ⟨9, 9, .u32, .ro, 0, 0, 0, 0, .any⟩,  -- MT_AXES_CLAIMED
  ⟨0xA, 0xA, .u16, .ro, 0, 0, 0, 0, .any⟩,  -- MT_CONV_CLAIMED
  ⟨0xB, 0xB, .u8, .rw, 8, 0, 0, 0, (.r 0 14)⟩,  -- MT_CONV_LIMIT
  ⟨0xC, 0xC, .u8, .wo, 0, 0, 0, 0, (.r 0 95)⟩]  -- MT_CAPPED_CLR

/-- Table 13.8. -/
def rows_mt : List Row := [
  ⟨0, 0, .u8, .const, 0x1A, 0, 0, 0, .any⟩,  -- Count
  ⟨1, 1, .u8, .ro, 0, 0, 0, 0, .any⟩,  -- MT_STATE
  ⟨2, 2, .u8, .ro, 0, 0, 0, 0, .any⟩,  -- MT_RESULT
  ⟨3, 3, .u8, .rw, 0, 0, 0, 0, .any⟩,  -- MT_KIND
  ⟨4, 4, .u8, .wo, 0, 0, 0, 0, (.vals [1, 2])⟩,  -- MT_CMD
  ⟨5, 5, .u32, .ro, 0, 0, 0, 0, .any⟩,  -- MT_PROGRESS
  ⟨6, 8, .u32, .rw, 0, 0, 0, 0, .any⟩,  -- MT_PORTS_0 to MT_PORTS_2
  ⟨9, 9, .u16, .rw, 0, 0, 0, 0, .any⟩,  -- MT_CONV
  ⟨0xA, 0xA, .u16, .rw, 0x1F, 0xFEE0, 0, 0, (.flds [⟨0, 5, 0, 19, 31⟩])⟩,  -- MT_STATION
  ⟨0xB, 0xB, .i64, .rw, 0, 0, 0, 0, .any⟩,  -- MT_STATION_POS
  ⟨0xC, 0xC, .u8, .rw, 0xFF, 0, 0, 0, (.rOr 0 19 255)⟩,  -- MT_AUX_AXIS
  ⟨0xD, 0xD, .i64, .rw, 0, 0, 0, 0, .any⟩,  -- MT_AUX_POS_A
  ⟨0xE, 0xE, .i64, .rw, 0, 0, 0, 0, .any⟩,  -- MT_AUX_POS_B
  ⟨0xF, 0xF, .u8, .rw, 0, 0, 0, 0, (.flds [⟨4, 3, 0, 0, 0⟩, ⟨2, 2, 0, 2, 2⟩])⟩,  -- MT_RELAY
  ⟨0x10, 0x10, .u8, .rw, 1, 0, 0, 0, (.r 1 7)⟩,  -- MT_CODE
  ⟨0x11, 0x11, .u32, .rw, 1, 0, 0, 0, (.r 1 1000000)⟩,  -- MT_COUNT
  ⟨0x12, 0x12, .u32, .rw, 0x411AAB, 0, 0, 0, (.r 10240 4000000000)⟩,  -- MT_PERIOD
  ⟨0x13, 0x13, .u16, .rw, 0, 0, 0, 0, (.r 0 16383)⟩,  -- MT_FIRST
  ⟨0x14, 0x14, .u16, .rw, 0, 0, 0, 0, .any⟩,  -- MT_NOZZLES
  ⟨0x15, 0x15, .u32, .rw, 0, 0, 0, 0, (.r 0 60000000)⟩,  -- MT_TIME_A
  ⟨0x16, 0x16, .u32, .rw, 0, 0, 0, 0, (.r 0 60000000)⟩,  -- MT_TIME_B
  ⟨0x17, 0x17, .u8, .rw, 0xFF, 0, 0, 0, (.rOr 0 7 255)⟩,  -- MT_NEXT
  ⟨0x18, 0x18, .u8, .ro, 0, 0, 0, 0, .any⟩,  -- MT_LOST
  ⟨0x19, 0x19, .u64, .ro, 0, 0, 0, 0, .any⟩,  -- MT_STARTED_AT
  ⟨0x1A, 0x1A, .u64, .ro, 0, 0, 0, 0, .any⟩]  -- MT_ENDED_AT

/-- Table 9.16. -/
def rows_link : List Row := [
  ⟨0, 0, .u8, .const, 0x14, 0, 0, 0, .any⟩,  -- Count
  ⟨1, 1, .u32, .ro, 0, 0, 0, 0, .any⟩,  -- HP_STATE
  ⟨2, 2, .u32, .rw, 0, 0xFFFFFFF0, 0, 7, .any⟩,  -- HP_CONTROL
  ⟨3, 3, .u32, .ro, 0, 0, 0, 0, .any⟩,  -- HP_EPOCH
  ⟨4, 4, .u16, .ro, 0, 0, 0, 0, .any⟩,  -- HP_LANE_TRIM
  ⟨5, 5, .u32, .rc, 0, 0, 0, 0, .any⟩,  -- HP_LINK_STATUS
  ⟨6, 6, .u16, .rw, 0x96, 0, 0, 0, (.r 110 1000)⟩,  -- HP_ACK_TIMEOUT
  ⟨7, 7, .u32, .ro, 0, 0, 0, 0, .any⟩,  -- HP_LEAST_LEAD
  ⟨8, 8, .u32, .ro, 0, 0, 0, 0, .any⟩,  -- HP_FRAMES
  ⟨9, 9, .u32, .ro, 0, 0, 0, 0, .any⟩,  -- HP_RESENDS
  ⟨0xA, 0xA, .u32, .ro, 0, 0, 0, 0, .any⟩,  -- HP_NAKS
  ⟨0xB, 0xB, .u32, .ro, 0, 0, 0, 0, .any⟩,  -- HP_ACK_TIMEOUTS
  ⟨0xC, 0xC, .u32, .ro, 0, 0, 0, 0, .any⟩,  -- HP_HEAD_BLANKS
  ⟨0xD, 0xD, .u32, .ro, 0, 0, 0, 0, .any⟩,  -- HP_RET_ERRORS
  ⟨0xE, 0xE, .u32, .ro, 0, 0, 0, 0, .any⟩,  -- HP_STALE_MSGS
  ⟨0xF, 0xF, .u32, .ro, 0, 0, 0, 0, .any⟩,  -- HP_ROT_ERRORS
  ⟨0x10, 0x10, .u16, .ro, 0, 0, 0, 0, .any⟩,  -- HP_HEAD_FLAGS
  ⟨0x11, 0x11, .u16, .rw, 0, 0, 0, 0, (.mulR 4 0x5FC)⟩,  -- HP_RC_ADDR
  ⟨0x12, 0x12, .u32, .rw, 0, 0, 0, 0, .any⟩,  -- HP_RC_DATA
  ⟨0x13, 0x13, .u8, .wo, 0, 0, 0, 0, (.vals [1, 2])⟩,  -- HP_RC_CMD
  ⟨0x14, 0x14, .u8, .ro, 0, 0, 0, 0, .any⟩]  -- HP_RC_RESULT

/-- R175, R268 or R329. -/
def rows_rcard : List Row := [
  ⟨0, 0, .u8, .const, 0x18, 0, 0, 0, .any⟩,  -- Count
  ⟨1, 0x18, .u32, .ro, 0, 0, 0, 0, .any⟩]  -- RC_WORD[i], i = 0…23

/-- Table 10.2. -/
def rows_pt : List Row := [
  ⟨0, 0, .u8, .const, 0x1A, 0, 0, 0, .any⟩,  -- Count
  ⟨1, 1, .u8, .rw, 1, 0, 0, 0, (.r 1 3)⟩,  -- HP_PT_PULSES
  ⟨2, 2, .u32, .rw, 0, 0, 0, 0, (.z 1024 262144)⟩,  -- HP_PT_SLOT
  ⟨3, 3, .u32, .rw, 0, 0, 0, 0, (.r 0 262143)⟩,  -- HP_PT_START[1]
  ⟨4, 4, .u32, .rw, 0, 0, 0, 0, (.r 0 262143)⟩,  -- HP_PT_START[2]
  ⟨5, 7, .u32, .rw, 0, 0, 0, 0, (.r 0 102400)⟩,  -- HP_PT_WIDTH[i], i = 0…2
  ⟨8, 8, .u32, .rw, 0x249248, 0, 0, 0, (.r 0 16777215)⟩,  -- HP_PT_MAP
  ⟨9, 9, .u16, .rw, 0, 0, 0, 0, (.r 0 60000)⟩,  -- HP_PT_V_NOM
  ⟨0xA, 0xA, .u32, .rw, 0, 0, 0, 0, (.r 0 102400)⟩,  -- HP_PT_WARM
  ⟨0xB, 0xB, .u8, .wo, 0, 0, 0, 0, (.vals [1, 2])⟩,  -- HP_PT_COMMIT
  ⟨0xC, 0xC, .u8, .ro, 0, 0, 0, 0, .any⟩,  -- HP_PT_RESULT
  ⟨0xD, 0xD, .u32, .ro, 0, 0, 0, 0, .any⟩,  -- HP_PT_MIN_PERIOD
  ⟨0xE, 0xE, .u32, .ro, 0, 0, 0, 0, .any⟩,  -- HP_PT_STATUS
  ⟨0x11, 0x11, .u8, .ro, 1, 0, 0, 0, .any⟩,  -- HP_PT_PULSES_LIVE
  ⟨0x12, 0x12, .u32, .ro, 0, 0, 0, 0, .any⟩,  -- HP_PT_SLOT_LIVE
  ⟨0x13, 0x13, .u32, .ro, 0, 0, 0, 0, .any⟩,  -- HP_PT_START_LIVE
  ⟨0x14, 0x14, .u32, .ro, 0, 0, 0, 0, .any⟩,  -- HP_PT_START_LIVE
  ⟨0x15, 0x15, .u32, .ro, 0, 0, 0, 0, .any⟩,  -- HP_PT_WIDTH[i], i = 0…2_LIVE
  ⟨0x16, 0x16, .u32, .ro, 0, 0, 0, 0, .any⟩,  -- HP_PT_WIDTH[i], i = 0…2_LIVE
  ⟨0x17, 0x17, .u32, .ro, 0, 0, 0, 0, .any⟩,  -- HP_PT_WIDTH[i], i = 0…2_LIVE
  ⟨0x18, 0x18, .u32, .ro, 0x249248, 0, 0, 0, .any⟩,  -- HP_PT_MAP_LIVE
  ⟨0x19, 0x19, .u16, .ro, 0, 0, 0, 0, .any⟩,  -- HP_PT_V_NOM_LIVE
  ⟨0x1A, 0x1A, .u32, .ro, 0, 0, 0, 0, .any⟩]  -- HP_PT_WARM_LIVE

/-- Table 10.8. -/
def rows_fire : List Row := [
  ⟨0, 0, .u8, .const, 0xA, 0, 0, 0, .any⟩,  -- Count
  ⟨1, 1, .u32, .ro, 0, 0, 0, 0, .any⟩,  -- HP_FIRE_STATUS
  ⟨2, 2, .u32, .rc, 0, 0, 0, 0, .any⟩,  -- HP_FIRE_EVENTS
  ⟨3, 3, .u32, .rw, 1, 0xFFFFFFFE, 0, 0, .any⟩,  -- HP_FIRE_CONTROL
  ⟨4, 4, .u32, .rw, 0, 0, 0, 0, (.z 160 4000000)⟩,  -- HP_WARM_PERIOD
  ⟨5, 5, .u16, .ro, 0, 0, 0, 0, .any⟩,  -- HP_K_LAST
  ⟨6, 6, .u32, .ro, 0, 0, 0, 0, .any⟩,  -- HP_ROTATIONS
  ⟨7, 7, .u32, .ro, 0, 0, 0, 0, .any⟩,  -- HP_CLAMP_BLANKS
  ⟨8, 8, .u32, .ro, 0, 0, 0, 0, .any⟩,  -- HP_STALE_BLANKS
  ⟨9, 9, .u32, .ro, 0, 0, 0, 0, .any⟩,  -- HP_WARM_PULSES
  ⟨0xA, 0xA, .u32, .ro, 0, 0, 0, 0, .any⟩]  -- HP_WARM_SKIPPED

/-- Table 11.8. -/
def rows_health : List Row := [
  ⟨0, 0, .u8, .const, 0x25, 0, 0, 0, .any⟩,  -- Count
  ⟨1, 1, .u32, .ro, 0, 0, 0, 0, .any⟩,  -- HP_HEALTH_STATUS
  ⟨2, 2, .u32, .rc, 0, 0, 0, 0, .any⟩,  -- HP_HEALTH_EVENTS
  ⟨3, 3, .u32, .rw, 5, 0xFFFFFF80, 0, 0x60, .any⟩,  -- HP_HEALTH_CONTROL
  ⟨4, 4, .u16, .ro, 0, 0, 0, 0, .any⟩,  -- HP_ROLL_NEXT
  ⟨5, 5, .u16, .rw, 0xC8, 0, 0, 0, (.r 25 65535)⟩,  -- HP_ROLL_IDLE_PERIOD
  ⟨6, 6, .u16, .rw, 0x200, 0, 0, 0, (.r 257 4096)⟩,  -- HP_ROLL_OPEN
  ⟨7, 7, .u16, .rw, 0x40, 0, 0, 0, (.r 1 255)⟩,  -- HP_ROLL_SHORT
  ⟨8, 8, .u16, .rw, 0x1A, 0, 0, 0, (.r 1 255)⟩,  -- HP_ROLL_DRIFT
  ⟨9, 9, .u16, .ro, 0, 0, 0, 0, .any⟩,  -- HP_R_MEAN
  ⟨0xA, 0xA, .u32, .ro, 0, 0, 0, 0, .any⟩,  -- HP_ROLL_READINGS
  ⟨0xB, 0xB, .u32, .ro, 0, 0, 0, 0, .any⟩,  -- HP_ROLL_MISSED
  ⟨0xC, 0xC, .u32, .ro, 0, 0, 0, 0, .any⟩,  -- HP_ROLL_TRANSIENTS
  ⟨0xD, 0xD, .u32, .ro, 0, 0, 0, 0, .any⟩,  -- HP_ROLL_CONFIRMED
  ⟨0xE, 0xE, .u32, .ro, 0, 0, 0, 0, .any⟩,  -- HP_ROLL_DRIFTED
  ⟨0xF, 0xF, .i16, .ro, 0x8000, 0, 0, 0, .any⟩,  -- HP_TEMP
  ⟨0x10, 0x10, .i16, .ro, 0x8000, 0, 0, 0, .any⟩,  -- HP_TEMP_HIGHEST
  ⟨0x11, 0x11, .u16, .rw, 0x3E8, 0, 0, 0, (.r 100 10000)⟩,  -- HP_TEMP_PERIOD
  ⟨0x12, 0x12, .u16, .rw, 0x14, 0, 0, 0, (.r 2 1000)⟩,  -- HP_TEMP_AGE
  ⟨0x13, 0x13, .u16, .rw, 0x20, 0, 0, 0, (.r 0 320)⟩,  -- HP_TEMP_HYST
  ⟨0x14, 0x14, .i16, .rw, 0x280, 0, 0, 0, (.r (-640) (2400))⟩,  -- HP_TEMP_TARGET
  ⟨0x15, 0x15, .u16, .rw, 0x14, 0, 0, 0, (.r 1 1000)⟩,  -- HP_TEMP_KP
  ⟨0x16, 0x16, .u16, .rw, 0x64, 0, 0, 0, (.r 1 2500)⟩,  -- HP_TEMP_RATE_MAX
  ⟨0x17, 0x17, .u32, .ro, 0, 0, 0, 0, .any⟩,  -- HP_TEMP_BAD
  ⟨0x18, 0x18, .u32, .ro, 0, 0, 0, 0, .any⟩,  -- HP_TEMP_PAUSES
  ⟨0x19, 0x19, .u8, .ro, 0, 0, 0, 0, .any⟩,  -- HP_RANK
  ⟨0x1A, 0x1A, .u8, .wo, 0, 0, 0, 0, (.r 0 7)⟩,  -- HP_RANK_SET
  ⟨0x1B, 0x1B, .u8, .wo, 0, 0, 0, 0, (.vals [1, 2])⟩,  -- HP_REC_CMD
  ⟨0x1C, 0x1C, .u16, .rw, 0x3C, 0, 0, 0, (.r 1 65535)⟩,  -- HP_REC_MIN_GAP
  ⟨0x1D, 0x1D, .u32, .ro, 0, 0, 0, 0, .any⟩,  -- HP_REC_SEQ
  ⟨0x1E, 0x1E, .u32, .ro, 0, 0, 0, 0, .any⟩,  -- HP_REC_WRITES
  ⟨0x1F, 0x1F, .u32, .ro, 0, 0, 0, 0, .any⟩,  -- HP_REC_FAILS
  ⟨0x20, 0x20, .u32, .ro, 0, 0, 0, 0, .any⟩,  -- HP_STALE_RESULTS
  ⟨0x21, 0x21, .u8, .rw, 1, 0, 0, 0, (.r 1 7)⟩,  -- HP_DEEP_CODE
  ⟨0x22, 0x22, .u16, .rw, 0x1F4, 0, 0, 0, (.r 400 65535)⟩,  -- HP_DEEP_SPACING
  ⟨0x23, 0x23, .u16, .rw, 0x180, 0, 0, 0, (.r 257 1024)⟩,  -- HP_DEEP_DRY
  ⟨0x24, 0x24, .u16, .rw, 0x80, 0, 0, 0, (.r 1 255)⟩,  -- HP_DEEP_COLD
  ⟨0x25, 0x25, .u32, .ro, 0, 0, 0, 0, .any⟩]  -- HP_DEEP_COUNTS

/-- Table 11.12. -/
def rows_twin : List Row := [
  ⟨0, 0, .u8, .const, 9, 0, 0, 0, .any⟩,  -- Count
  ⟨1, 1, .u32, .ro, 0xFF00, 0, 0, 0, .any⟩,  -- HP_TWIN_STATUS
  ⟨2, 2, .u8, .rw, 0xFF, 0, 0, 0, (.rOr 0 95 255)⟩,  -- HP_TWIN
  ⟨3, 3, .u8, .wo, 0, 0, 0, 0, (.vals [1, 2])⟩,  -- HP_TWIN_CMD
  ⟨4, 4, .u32, .ro, 0, 0, 0, 0, .any⟩,  -- HP_TWIN_TAKEOVERS
  ⟨5, 5, .u32, .ro, 0, 0, 0, 0, .any⟩,  -- HP_TWIN_LOST
  ⟨6, 6, .u32, .ro, 0, 0, 0, 0, .any⟩,  -- HP_TWIN_LAST_J
  ⟨7, 7, .u64, .ro, 0, 0, 0, 0, .any⟩,  -- HP_TWIN_LAST_T
  ⟨8, 8, .u32, .ro, 0, 0, 0, 0, .any⟩,  -- HP_TWIN_FAILS
  ⟨9, 9, .u8, .ro, 0, 0, 0, 0, .any⟩]  -- HP_TWIN_CAUSE

/-- Table 6.5. -/
def rows_scr : List Row := [
  ⟨0, 0, .u8, .const, 0x18, 0, 0, 0, .any⟩,  -- Count
  ⟨1, 1, .u32, .ro, 0, 0, 0, 0, .any⟩,  -- SCR_STATUS
  ⟨2, 2, .u32, .rc, 0, 0, 0, 0, .any⟩,  -- SCR_EVENTS
  ⟨3, 3, .u32, .rw, 0x800, 0x70333FC, 0, 0, (.flds [⟨14, 2, 0, 2, 2⟩, ⟨10, 2, 1, 3, 3⟩])⟩,  -- SCR_CONFIG
  ⟨4, 4, .u32, .ro, 0x800, 0, 0, 0, .any⟩,  -- SCR_CONFIG_LIVE
  ⟨5, 5, .u32, .rw, 0, 0, 0, 0, .any⟩,  -- SCR_MATRIX_SHIFT
  ⟨6, 6, .u8, .rw, 2, 0, 0, 0, (.r 2 8)⟩,  -- SCR_LEVELS
  ⟨7, 7, .u16, .rw, 0, 0, 0, 0, (.r 0 1023)⟩,  -- SCR_LEVEL[k], k = 0…7
  ⟨8, 8, .u16, .rw, 0x3FF, 0, 0, 0, (.r 0 1023)⟩,  -- SCR_LEVEL[k], k = 0…7
  ⟨9, 0xE, .u16, .rw, 0, 0, 0, 0, (.r 0 1023)⟩,  -- SCR_LEVEL[k], k = 0…7
  ⟨0xF, 0xF, .u8, .wo, 0, 0, 0, 0, (.vals [1, 2])⟩,  -- SCR_COMMIT
  ⟨0x10, 0x10, .u8, .ro, 0, 0, 0, 0, .any⟩,  -- SCR_COMMIT_RESULT
  ⟨0x11, 0x11, .u32, .rw, 0x48998000, 0, 0x80003FFF, 0, .any⟩,  -- SCR_COMP_DEFAULT
  ⟨0x12, 0x12, .u32, .wo, 0, 0, 0, 0, .any⟩,  -- SCR_MASK_CMD
  ⟨0x13, 0x13, .u16, .ro, 0, 0, 0, 0, .any⟩,  -- SCR_COMP_USED
  ⟨0x14, 0x14, .u16, .ro, 0, 0, 0, 0, .any⟩,  -- SCR_MASKED
  ⟨0x15, 0x15, .u16, .ro, 0, 0, 0, 0, .any⟩,  -- SCR_UNCOMPENSATED
  ⟨0x16, 0x16, .u32, .ro, 0, 0, 0, 0, .any⟩,  -- SCR_CLAMPS
  ⟨0x17, 0x17, .u32, .ro, 0, 0, 0, 0, .any⟩,  -- SCR_COMP_LOST
  ⟨0x18, 0x18, .u32, .ro, 0, 0, 0, 0, .any⟩]  -- SCR_LINES

/-- Table 6.9. -/
def rows_comp : List Row := [
  ⟨0, 0, .u8, .const, 0x80, 0, 0, 0, .any⟩,  -- Count
  ⟨1, 0x80, .u32, .rw, 0, 0, 0, 0, .any⟩]  -- SCR_COMP[e], e = 0…127

/-- R175, R268 or R329. -/
def rows_comp2 : List Row := [
  ⟨0, 0, .u8, .const, 0x80, 0, 0, 0, .any⟩,  -- Count
  ⟨1, 0x80, .u32, .rw, 0, 0, 0, 0, .any⟩]  -- SCR_COMP2[e], e = 128…255

/-- Table 7.7. -/
def rows_st : List Row := [
  ⟨0, 0, .u8, .const, 0xB, 0, 0, 0, .any⟩,  -- Count
  ⟨1, 1, .u32, .ro, 0, 0, 0, 0, .any⟩,  -- ST_STATUS
  ⟨2, 2, .u32, .rc, 0, 0, 0, 0, .any⟩,  -- ST_EVENTS
  ⟨3, 3, .u32, .rw, 0, 0xFFFFFF80, 0, 0, (.flds [⟨2, 2, 0, 2, 2⟩, ⟨0, 2, 0, 2, 2⟩])⟩,  -- ST_CONFIG
  ⟨4, 4, .u32, .ro, 0, 0, 0, 0, .any⟩,  -- ST_CONFIG_LIVE
  ⟨5, 5, .u16, .rw, 0, 0, 0, 0, (.r 0 1024)⟩,  -- ST_LEFT_ZONE
  ⟨6, 6, .u16, .rw, 0, 0, 0, 0, (.r 0 1024)⟩,  -- ST_RIGHT_ZONE
  ⟨7, 7, .u32, .ro, 0, 0, 0, 0, .any⟩,  -- ST_ZONES_LIVE
  ⟨8, 8, .u16, .rw, 0, 0, 0, 0, .any⟩,  -- ST_FEED_ORIGIN
  ⟨9, 9, .u32, .ro, 0, 0, 0, 0, .any⟩,  -- ST_LATE_BAND
  ⟨0xA, 0xA, .u32, .ro, 0, 0, 0, 0, .any⟩,  -- ST_LATE_BANDS
  ⟨0xB, 0xB, .u32, .ro, 0, 0, 0, 0, .any⟩]  -- ST_DISCARDED

/-- Table 7.13. -/
def rows_lg : List Row := [
  ⟨0, 0, .u8, .const, 0x10, 0, 0, 0, .any⟩,  -- Count
  ⟨1, 1, .u32, .ro, 8, 0, 0, 0, .any⟩,  -- LG_STATUS
  ⟨2, 2, .u32, .rc, 0, 0, 0, 0, .any⟩,  -- LG_EVENTS
  ⟨3, 3, .u8, .rw, 8, 0, 0, 0, (.r 0 32)⟩,  -- LG_ALLOC
  ⟨4, 4, .u8, .rw, 0x20, 0, 0, 0, (.r 8 64)⟩,  -- LG_DEPTH
  ⟨5, 5, .u8, .ro, 0x20, 0, 0, 0, .any⟩,  -- LG_DEPTH_EFF
  ⟨6, 6, .u16, .ro, 0x1000, 0, 0, 0, .any⟩,  -- LG_LINE_BYTES
  ⟨7, 7, .u8, .ro, 0, 0, 0, 0, .any⟩,  -- LG_FILL
  ⟨8, 8, .u8, .ro, 0, 0, 0, 0, .any⟩,  -- LG_MIN_FILL
  ⟨9, 9, .u8, .rw, 8, 0, 0, 0, (.r 1 63)⟩,  -- LG_SLOW_ON
  ⟨0xA, 0xA, .u8, .rw, 0x10, 0, 0, 0, (.r 2 64)⟩,  -- LG_SLOW_OFF
  ⟨0xB, 0xB, .u16, .rw, 0x3E8, 0, 0, 0, .any⟩,  -- LG_SLOW_HOLD
  ⟨0xC, 0xC, .u32, .ro, 0, 0, 0, 0, .any⟩,  -- LG_BLANKS
  ⟨0xD, 0xD, .u32, .ro, 0, 0, 0, 0, .any⟩,  -- LG_STALE
  ⟨0xE, 0xE, .u32, .ro, 0, 0, 0, 0, .any⟩,  -- LG_ECC_CORRECTED
  ⟨0xF, 0xF, .u32, .ro, 0, 0, 0, 0, .any⟩,  -- LG_ECC_UNCORR
  ⟨0x10, 0x10, .u8, .wo, 0, 0, 0, 0, (.vals [0, 1])⟩]  -- LG_CONTROL

/-- Table 8.8. -/
def rows_tt : List Row := [
  ⟨0, 0, .u8, .const, 0x1C, 0, 0, 0, .any⟩,  -- Count
  ⟨1, 1, .u32, .ro, 0, 0, 0, 0, .any⟩,  -- TT_STATUS
  ⟨2, 2, .u32, .rc, 0, 0, 0, 0, .any⟩,  -- TT_EVENTS
  ⟨3, 3, .u32, .rw, 0x1000, 0xFFFFE0F0, 0, 0, (.flds [⟨8, 4, 0, 11, 11⟩, ⟨0, 4, 0, 11, 11⟩])⟩,  -- TT_CONFIG
  ⟨4, 4, .u8, .rw, 0, 0, 0, 0, (.vals [0, 1])⟩,  -- TT_ARM
  ⟨5, 5, .i64, .rw, 0, 0, 0, 0, (.r (-140737488355328) (140737488355327))⟩,  -- TT_OFFSET_FWD
  ⟨6, 6, .i64, .rw, 0, 0, 0, 0, (.r (-140737488355328) (140737488355327))⟩,  -- TT_OFFSET_REV
  ⟨7, 7, .i64, .ro, 0, 0, 0, 0, .any⟩,  -- TT_OFFSET_FWD_LIVE
  ⟨8, 8, .i64, .ro, 0, 0, 0, 0, .any⟩,  -- TT_OFFSET_REV_LIVE
  ⟨9, 9, .u32, .rw, 0x1000, 0, 0, 0, (.r 0 16777215)⟩,  -- TT_OFFSET_SLEW
  ⟨0xA, 0xA, .u8, .rw, 0x80, 0, 0, 0, .any⟩,  -- TT_LAG_LIMIT
  ⟨0xB, 0xB, .u16, .rw, 0x1F40, 0, 0, 0, (.r 400 40000)⟩,  -- TT_SEND_LEAD
  ⟨0xC, 0xC, .u16, .rw, 0x190, 0, 0, 0, (.r 40 4000)⟩,  -- TT_FIX_LEAD
  ⟨0xD, 0xD, .u32, .ro, 0, 0, 0, 0, .any⟩,  -- TT_MIN_PERIOD
  ⟨0xE, 0xE, .u32, .ro, 0, 0, 0, 0, .any⟩,  -- TT_STAGGER_DELAY
  ⟨0xF, 0xF, .u32, .ro, 0, 0, 0, 0, .any⟩,  -- TT_NEXT
  ⟨0x10, 0x10, .u32, .ro, 0xFFFFFFFF, 0, 0, 0, .any⟩,  -- TT_HWM_FWD
  ⟨0x11, 0x11, .u32, .ro, 0xFFFFFFFF, 0, 0, 0, .any⟩,  -- TT_HWM_REV
  ⟨0x12, 0x12, .u32, .ro, 0, 0, 0, 0, .any⟩,  -- TT_HWM_PASSES
  ⟨0x13, 0x13, .u64, .ro, 0, 0, 0, 0, .any⟩,  -- TT_LAST_FIRE
  ⟨0x14, 0x14, .i32, .ro, 0, 0, 0, 0, .any⟩,  -- TT_LAST_LAG
  ⟨0x15, 0x15, .u32, .ro, 0, 0, 0, 0, .any⟩,  -- TT_MAX_LAG
  ⟨0x16, 0x16, .u32, .ro, 0, 0, 0, 0, .any⟩,  -- TT_LINES
  ⟨0x17, 0x17, .u32, .ro, 0, 0, 0, 0, .any⟩,  -- TT_LATE_PLACED
  ⟨0x18, 0x18, .u32, .ro, 0, 0, 0, 0, .any⟩,  -- TT_SKIPS
  ⟨0x19, 0x19, .u32, .ro, 0, 0, 0, 0, .any⟩,  -- TT_START_SKIPS
  ⟨0x1A, 0x1A, .u16, .rw, 0x10, 0, 0, 0, (.r 1 4096)⟩,  -- TT_SKIP_FAULT
  ⟨0x1B, 0x1B, .u16, .rw, 0x400, 0, 0, 0, (.r 1 65535)⟩,  -- TT_SKIP_RELEASE
  ⟨0x1C, 0x1C, .u8, .wo, 0, 0, 0, 0, (.vals [0, 1])⟩]  -- TT_CONTROL

/-- Table 14.6. -/
def rows_ax : List Row := [
  ⟨0, 0, .u8, .const, 0x26, 0, 0, 0, .any⟩,  -- Count
  ⟨1, 1, .u32, .ro, 0x40, 0, 0, 0, .any⟩,  -- AX_STATUS
  ⟨2, 2, .u32, .rc, 0, 0, 0, 0, .any⟩,  -- AX_EVENTS
  ⟨3, 3, .u32, .rw, 0x1F1F00, 0xF1E0E00C, 0, 0, (.flds [⟨16, 5, 0, 11, 31⟩, ⟨8, 5, 0, 11, 31⟩, ⟨4, 4, 0, 11, 11⟩, ⟨0, 2, 0, 2, 2⟩])⟩,  -- AX_CONFIG
  ⟨4, 4, .u8, .wo, 0, 0, 0, 0, (.vals [1, 2, 3, 4, 5, 6])⟩,  -- AX_CMD
  ⟨5, 5, .u8, .ro, 0, 0, 0, 0, .any⟩,  -- AX_STATE
  ⟨6, 6, .u8, .ro, 0, 0, 0, 0, .any⟩,  -- AX_OWNER
  ⟨7, 7, .i64, .rw, 0, 0, 0, 0, .any⟩,  -- AX_POS
  ⟨8, 8, .i32, .ro, 0, 0, 0, 0, .any⟩,  -- AX_VEL
  ⟨9, 9, .i32, .ro, 0, 0, 0, 0, .any⟩,  -- AX_VEL_MEAS
  ⟨0xA, 0xA, .i32, .ro, 0, 0, 0, 0, .any⟩,  -- AX_FOLLOW
  ⟨0xB, 0xB, .i64, .rw, 0x8000000000000000, 0, 0, 0, .any⟩,  -- AX_LIMIT_LO
  ⟨0xC, 0xC, .i64, .rw, 0x7FFFFFFFFFFFFFFF, 0, 0, 0, .any⟩,  -- AX_LIMIT_HI
  ⟨0xD, 0xD, .u32, .rw, 0xF4240, 0, 0, 0, .any⟩,  -- AX_VEL_MAX
  ⟨0xE, 0xE, .u32, .rw, 0x989680, 0, 0, 0, (.r 1 4000000000)⟩,  -- AX_ACC_MAX
  ⟨0xF, 0xF, .u32, .rw, 0x989680, 0, 0, 0, (.r 1 4000000000)⟩,  -- AX_STOP_DEC
  ⟨0x10, 0x10, .u32, .rw, 0, 0, 0, 0, .any⟩,  -- AX_STOP_JERK
  ⟨0x11, 0x11, .u8, .rw, 1, 0, 0, 0, .any⟩,  -- AX_MV_KIND
  ⟨0x12, 0x12, .i64, .rw, 0, 0, 0, 0, .any⟩,  -- AX_MV_TARGET
  ⟨0x13, 0x13, .u32, .rw, 0, 0, 0, 0, .any⟩,  -- AX_MV_VEL
  ⟨0x14, 0x14, .u32, .rw, 0, 0, 0, 0, .any⟩,  -- AX_MV_ACC
  ⟨0x15, 0x15, .u32, .rw, 0, 0, 0, 0, .any⟩,  -- AX_MV_DEC
  ⟨0x16, 0x16, .u32, .rw, 0, 0, 0, 0, .any⟩,  -- AX_MV_JERK
  ⟨0x17, 0x17, .u8, .rw, 0, 0, 0xE0, 0, .any⟩,  -- AX_MV_FLAGS
  ⟨0x18, 0x18, .u8, .wo, 0, 0, 0, 0, (.vals [1])⟩,  -- AX_MV_PUSH
  ⟨0x19, 0x19, .u8, .ro, 0, 0, 0, 0, .any⟩,  -- AX_Q_COUNT
  ⟨0x1A, 0x1A, .u32, .ro, 0, 0, 0, 0, .any⟩,  -- AX_MOVES_DONE
  ⟨0x1B, 0x1B, .i32, .rw, 0x10000, 0, 0, 0, .nz⟩,  -- AX_ENC_RATIO
  ⟨0x1C, 0x1C, .u32, .rw, 0, 0, 0, 0, .any⟩,  -- AX_FOLLOW_LIMIT
  ⟨0x1D, 0x1D, .u32, .rw, 0x3E8, 0, 0, 0, .any⟩,  -- AX_STILL_SPEED
  ⟨0x1E, 0x1E, .u16, .rw, 0xE666, 0, 0, 0, (.r 1 65535)⟩,  -- AX_SLOW_FACTOR
  ⟨0x1F, 0x1F, .u32, .rw, 0x4C4B40, 0, 0, 0, (.r 1 4000000000)⟩,  -- AX_SLOW_DEC
  ⟨0x20, 0x20, .i64, .rw, 0, 0, 0, 0, .any⟩,  -- AX_HOME_POS
  ⟨0x21, 0x21, .u8, .rw, 0xFF, 0, 0, 0, (.rOr 0 63 255)⟩,  -- AX_TRIG_MS
  ⟨0x22, 0x22, .u16, .rw, 0x100, 0, 0, 0, .any⟩,  -- AX_KP
  ⟨0x23, 0x23, .u16, .rw, 0x40, 0, 0, 0, .any⟩,  -- AX_KI
  ⟨0x24, 0x24, .u16, .rw, 0x1400, 0, 0, 0, .any⟩,  -- AX_KPOS
  ⟨0x25, 0x25, .u8, .ro, 0, 0, 0, 0, .any⟩,  -- AX_HALT_CAUSE
  ⟨0x26, 0x26, .u32, .ro, 0, 0, 0, 0, .any⟩]  -- AX_FOLLOW_EXCURSIONS

/-- Table 14.11. -/
def rows_ig : List Row := [
  ⟨0, 0, .u8, .const, 0xE, 0, 0, 0, .any⟩,  -- Count
  ⟨1, 1, .u32, .ro, 0, 0, 0, 0, .any⟩,  -- AX_IG_STATUS
  ⟨2, 2, .u32, .rw, 0, 0, 0, 0, (.r 0 1048575)⟩,  -- AX_IG_MEMBERS
  ⟨3, 3, .u8, .wo, 0, 0, 0, 0, (.vals [1, 2, 3, 4])⟩,  -- AX_IG_CMD
  ⟨4, 4, .u32, .rw, 0, 0, 0, 0, .any⟩,  -- AX_IG_VEL
  ⟨5, 5, .u32, .rw, 0, 0, 0, 0, .any⟩,  -- AX_IG_ACC
  ⟨6, 6, .u32, .rw, 0, 0, 0, 0, .any⟩,  -- AX_IG_DEC
  ⟨7, 7, .u32, .rw, 0, 0, 0, 0, .any⟩,  -- AX_IG_JERK
  ⟨8, 0xB, .i64, .rw, 0, 0, 0, 0, .any⟩,  -- AX_IG_TARGET[i], i = 0…3
  ⟨0xC, 0xC, .u8, .wo, 0, 0, 0, 0, (.vals [1])⟩,  -- AX_IG_PUSH
  ⟨0xD, 0xD, .u8, .ro, 0, 0, 0, 0, .any⟩,  -- AX_IG_Q_COUNT
  ⟨0xE, 0xE, .u8, .ro, 0xFF, 0, 0, 0, .any⟩]  -- AX_IG_LEAD

/-- Table 15.7. -/
def rows_ds : List Row := [
  ⟨0, 0, .u8, .const, 0x1B, 0, 0, 0, .any⟩,  -- Count
  ⟨1, 1, .u32, .ro, 4, 0, 0, 0, .any⟩,  -- DS_STATUS
  ⟨2, 2, .u32, .rc, 0, 0, 0, 0, .any⟩,  -- DS_EVENTS
  ⟨3, 3, .u32, .rw, 0xF00108, 0xFF00F007, 0, 0, (.flds [⟨20, 4, 0, 11, 15⟩, ⟨16, 3, 0, 5, 5⟩, ⟨6, 2, 0, 2, 2⟩])⟩,  -- DS_CONFIG
  ⟨4, 4, .u16, .rw, 0, 0, 0, 0, (.r 0 10000)⟩,  -- DS_RSENSE
  ⟨5, 5, .u16, .rw, 0, 0, 0, 0, .any⟩,  -- DS_I_RUN
  ⟨6, 6, .u16, .rw, 0, 0, 0, 0, .any⟩,  -- DS_I_HOLD
  ⟨7, 7, .u16, .rw, 0xC8, 0, 0, 0, .any⟩,  -- DS_HOLD_DELAY
  ⟨8, 8, .u16, .rw, 0x64, 0, 0, 0, (.r 0 10000)⟩,  -- DS_HOLD_RAMP
  ⟨9, 9, .u16, .rw, 0x7D0, 0, 0, 0, (.r 50 4000)⟩,  -- DS_TOFF
  ⟨0xA, 0xA, .u16, .rw, 0x1F4, 0, 0, 0, (.r 0 4000)⟩,  -- DS_FAST
  ⟨0xB, 0xB, .u8, .rw, 0x64, 0, 0, 0, (.r 10 255)⟩,  -- DS_BLANK
  ⟨0xC, 0xC, .u16, .rw, 0, 0, 0, 0, .any⟩,  -- DS_OC_LIMIT
  ⟨0xD, 0xD, .u8, .rw, 4, 0, 0, 0, (.r 1 255)⟩,  -- DS_OC_COUNT
  ⟨0xE, 0xE, .u16, .rw, 0x1388, 0, 0, 0, (.r 1000 20000)⟩,  -- DS_PWM_PERIOD
  ⟨0xF, 0xF, .u8, .rw, 0x14, 0, 0, 0, (.r 5 255)⟩,  -- DS_DEAD
  ⟨0x10, 0x10, .u16, .rw, 0, 0, 0, 0, .any⟩,  -- DS_I_LIMIT
  ⟨0x11, 0x11, .i32, .rw, 0x10000, 0, 0, 0, .nz⟩,  -- DS_STEP_RATIO
  ⟨0x12, 0x12, .u32, .rw, 0x6400, 0, 0, 0, (.r 256 2147483647)⟩,  -- DS_STEP_LAG
  ⟨0x13, 0x13, .u16, .rw, 0x64, 0, 0, 0, (.z 10 10000)⟩,  -- DS_MON_PERIOD
  ⟨0x14, 0x16, .i16, .ro, 0, 0, 0, 0, .any⟩,  -- DS_I_MEAS[p], p = 0…2
  ⟨0x17, 0x17, .u32, .ro, 0, 0, 0, 0, .any⟩,  -- DS_DAC
  ⟨0x18, 0x18, .u32, .ro, 0, 0, 0, 0, .any⟩,  -- DS_OC_TRIPS
  ⟨0x19, 0x19, .u32, .ro, 0, 0, 0, 0, .any⟩,  -- DS_FLT_GLITCHES
  ⟨0x1A, 0x1A, .u32, .ro, 0, 0, 0, 0, .any⟩,  -- DS_MON_MISSED
  ⟨0x1B, 0x1B, .u32, .ro, 0, 0, 0, 0, .any⟩]  -- DS_LAG_EXCURSIONS

/-- The rows of a group; the communication profile has its own function `comRow`. -/
def Grp.rows : Grp → List Row
  | .com => []
  | .md => rows_md
  | .pin => rows_pin
  | .net => rows_net
  | .can => rows_can
  | .ck => rows_ck
  | .fj => rows_fj
  | .act => rows_act
  | .pi => rows_pi
  | .rl => rows_rl
  | .ms => rows_ms
  | .intake => rows_intake
  | .bs => rows_bs
  | .un => rows_un
  | .scrsh => rows_scrsh
  | .job => rows_job
  | .stsh => rows_stsh
  | .lgsh => rows_lgsh
  | .ttsh => rows_ttsh
  | .pred => rows_pred
  | .pg => rows_pg
  | .hhsh => rows_hhsh
  | .ev => rows_ev
  | .dm => rows_dm
  | .sb => rows_sb
  | .su => rows_su
  | .bt => rows_bt
  | .fi => rows_fi
  | .mtsh => rows_mtsh
  | .mt => rows_mt
  | .link => rows_link
  | .rcard => rows_rcard
  | .pt => rows_pt
  | .fire => rows_fire
  | .health => rows_health
  | .twin => rows_twin
  | .scr => rows_scr
  | .comp => rows_comp
  | .comp2 => rows_comp2
  | .st => rows_st
  | .lg => rows_lg
  | .tt => rows_tt
  | .ax => rows_ax
  | .ig => rows_ig
  | .ds => rows_ds

/-- The communication profile objects (R448, Table 16.12): the row of index 0x1000 + `i`, subindex `sub`.
The default of an object that depends on the node-ID is the one for MD_NODE_ID's own default, 127. -/
def comRow (i sub : Nat) : Option Row :=
  if i = 0x00 then (if sub = 0 then some ⟨0, 0, .u32, .const, 0, 0, 0, 0, .any⟩ else none)
  else if i = 0x01 then (if sub = 0 then some ⟨0, 0, .u8, .ro, 0, 0, 0, 0, .any⟩ else none)
  else if i = 0x03 then
    (if sub = 0 then some ⟨0, 0, .u32, .rw, 0, 0, 0, 0, .vals [0]⟩
     else if sub ≤ 0x10 then some ⟨1, 0x10, .u32, .ro, 0, 0, 0, 0, .any⟩ else none)
  else if i = 0x05 then (if sub = 0 then some ⟨0, 0, .u32, .rw, 0x80, 0, 0, 0, .any⟩ else none)
  else if i = 0x06 then (if sub = 0 then some ⟨0, 0, .u32, .rw, 0, 0, 0, 0, .any⟩ else none)
  else if i = 0x12 then (if sub = 0 then some ⟨0, 0, .u32, .rw, 0x100, 0, 0, 0, .any⟩ else none)
  else if i = 0x14 then (if sub = 0 then some ⟨0, 0, .u32, .rw, 0x80 + 127, 0, 0, 0, .any⟩ else none)
  else if i = 0x15 then (if sub = 0 then some ⟨0, 0, .u16, .rw, 0, 0, 0, 0, .any⟩ else none)
  else if i = 0x16 then
    (if sub = 0 then some ⟨0, 0, .u8, .const, 4, 0, 0, 0, .any⟩
     else if sub ≤ 4 then some ⟨1, 4, .u32, .rw, 0, 0, 0, 0, .any⟩ else none)
  else if i = 0x17 then (if sub = 0 then some ⟨0, 0, .u16, .rw, 0, 0, 0, 0, .any⟩ else none)
  else if i = 0x18 then
    (if sub = 0 then some ⟨0, 0, .u8, .const, 4, 0, 0, 0, .any⟩
     else if sub = 2 then some ⟨2, 2, .u32, .const, 0x9624, 0, 0, 0, .any⟩
     else if sub ≤ 4 then some ⟨1, 4, .u32, .const, 0, 0, 0, 0, .any⟩ else none)
  else if i = 0x19 then (if sub = 0 then some ⟨0, 0, .u8, .rw, 0, 0, 0, 0, .z 2 240⟩ else none)
  else if 0x200 ≤ i ∧ i ≤ 0x203 then
    (if sub = 0 then some ⟨0, 0, .u8, .const, 3, 0, 0, 0, .any⟩
     else if sub = 1 then some ⟨1, 1, .u32, if i = 0x200 then .ro else .rw,
       if i = 0x200 then 0x600 + 127 else 0x80000000, 0, 0, 0, .any⟩
     else if sub = 2 then some ⟨2, 2, .u32, if i = 0x200 then .ro else .rw,
       if i = 0x200 then 0x580 + 127 else 0x80000000, 0, 0, 0, .any⟩
     else if sub = 3 then some ⟨3, 3, .u8, if i = 0x200 then .ro else .rw, 0, 0, 0, 0, .any⟩
     else none)
  else if 0x400 ≤ i ∧ i ≤ 0x40F then
    (if sub = 0 then some ⟨0, 0, .u8, .const, 5, 0, 0, 0, .any⟩
     else if sub = 1 then
       some ⟨1, 1, .u32, .rw, if i < 0x404 then 0x80000000 + 0x200 + 0x100 * (i - 0x400) + 127 else 0x80000000, 0, 0, 0, .any⟩
     else if sub = 2 then some ⟨2, 2, .u8, .rw, 255, 0, 0, 0, .any⟩
     else if sub = 5 then some ⟨5, 5, .u16, .rw, 0, 0, 0, 0, .any⟩ else none)
  else if 0x600 ≤ i ∧ i ≤ 0x60F then
    (if sub = 0 then some ⟨0, 0, .u8, .rw, 0, 0, 0, 0, .r 0 32⟩
     else if sub ≤ 0x20 then some ⟨1, 0x20, .u32, .rw, 0, 0, 0, 0, .any⟩ else none)
  else if 0x800 ≤ i ∧ i ≤ 0x80F then
    (if sub = 0 then some ⟨0, 0, .u8, .const, 6, 0, 0, 0, .any⟩
     else if sub = 1 then
       some ⟨1, 1, .u32, .rw, if i < 0x804 then 0x80000000 + 0x180 + 0x100 * (i - 0x800) + 127 else 0x80000000, 0, 0, 0, .any⟩
     else if sub = 2 then some ⟨2, 2, .u8, .rw, 255, 0, 0, 0, .any⟩
     else if sub = 3 then some ⟨3, 3, .u16, .rw, 0, 0, 0, 0, .any⟩
     else if sub = 5 then some ⟨5, 5, .u16, .rw, 0, 0, 0, 0, .any⟩
     else if sub = 6 then some ⟨6, 6, .u8, .rw, 0, 0, 0, 0, .any⟩ else none)
  else if 0xA00 ≤ i ∧ i ≤ 0xA0F then
    (if sub = 0 then some ⟨0, 0, .u8, .rw, 0, 0, 0, 0, .r 0 32⟩
     else if sub ≤ 0x20 then some ⟨1, 0x20, .u32, .rw, 0, 0, 0, 0, .any⟩ else none)
  else none

/-- The row of an object (R415 to R418); `none` where no row lists the subindex. -/
def Obj.row (o : Obj) : Option Row :=
  match o.grp with
  | .com => comRow o.inst o.sub
  | g => g.rows.find? (fun r => r.lo ≤ o.sub && o.sub ≤ r.hi)

/-- Width in bits of an object's value. -/
def Obj.width (o : Obj) : Nat :=
  match o.row with
  | some r => r.ty.bits
  | none => 32

/-- The index of an object in the dictionary (R415, R416). -/
def Obj.index (o : Obj) : Nat :=
  if o.grp = .net then o.grp.base.1 else o.grp.base.1 + o.grp.base.2.1 * o.inst

/-- The order in which cells are listed: by base index of the group, then instance, then subindex. -/
def Obj.key (o : Obj) : Nat := o.grp.base.1 * 2 ^ 24 + o.inst * 2 ^ 8 + o.sub

/-- The value after RESET (the Default column; R236 gives TT_CONFIG its stagger phase n mod 12 in Table 8.8,
R450 gives CAN0 ENABLE 1) (DESIGN CHOICE, log 3; DEDUCED, log 14). -/
def Obj.dflt (o : Obj) : Nat :=
  if o.grp = .tt ∧ o.sub = 3 then 0x1000 + 0x100 * (o.inst % 12)
  else if o.grp = .can ∧ o.sub = 3 then (if o.inst = 0 then 0x7121 else 0x7120)
  else match o.row with
    | some r => r.dflt
    | none => 0

/-- The groups an index may lie in, in the order they are searched. -/
def allGrps : List Grp :=
  [.md, .pin, .net, .can, .ck, .fj, .act, .pi, .rl, .ms, .intake, .bs, .un, .scrsh, .job, .stsh, .lgsh, .ttsh, .pred,
   .pg, .hhsh, .ev, .dm, .sb, .su, .bt, .fi, .mtsh, .mt, .link, .rcard, .pt, .fire, .health, .twin, .scr, .comp,
   .comp2, .st, .lg, .tt, .ax, .ig, .ds, .com]

/-- Whether an index lies in a group, and at which instance. -/
def Grp.instOf (g : Grp) (index : Nat) : Option Nat :=
  let b := g.base
  if b.1 ≤ index ∧ (index - b.1) % b.2.1 = 0 ∧ (index - b.1) / b.2.1 < b.2.2 then some ((index - b.1) / b.2.1) else none

/-- The group and instance an index names (R415, R416). -/
def grpOfIndex (index : Nat) : Option (Grp × Nat) :=
  allGrps.findSome? (fun g => (g.instOf index).map (fun i => (g, i)))

/-- The object at an index and subindex: the group and instance the index map names. -/
def objAt (index sub : Nat) : Option Obj :=
  (grpOfIndex index).map (fun p => ⟨p.1, p.2, sub⟩)

namespace O

abbrev MD_MODE : Obj := ⟨.md, 0, 1⟩
abbrev MD_MODE_CMD : Obj := ⟨.md, 0, 2⟩
abbrev MD_STATUS : Obj := ⟨.md, 0, 3⟩
abbrev MD_EVENTS : Obj := ⟨.md, 0, 4⟩
abbrev MD_MODE_RESULT : Obj := ⟨.md, 0, 5⟩
abbrev MD_RESET_CAUSE : Obj := ⟨.md, 0, 6⟩
abbrev MD_POWER : Obj := ⟨.md, 0, 7⟩
abbrev MD_INHIBIT_STATUS : Obj := ⟨.md, 0, 8⟩
abbrev MD_INHIBIT_SET : Obj := ⟨.md, 0, 9⟩
abbrev MD_INHIBIT_CLR : Obj := ⟨.md, 0, 0xA⟩
abbrev MD_INHIBIT_CONFIG : Obj := ⟨.md, 0, 0xB⟩
abbrev MD_PIN_RELEASE : Obj := ⟨.md, 0, 0xC⟩
abbrev MD_CHANGES : Obj := ⟨.md, 0, 0xD⟩
abbrev MD_PIN_OWNER : Obj := ⟨.pin, 0, 1⟩
abbrev MD_PIN_EVENTS : Obj := ⟨.pin, 0, 2⟩
abbrev MD_PIN_CONFLICTS : Obj := ⟨.pin, 0, 3⟩
abbrev MD_DICT_EVENTS : Obj := ⟨.net, 0, 1⟩
abbrev MD_DICT_HI (n : Nat) : Obj := ⟨.net, n, 2⟩
abbrev MD_DICT_HI_STAGE (n : Nat) : Obj := ⟨.net, n, 3⟩
abbrev MD_ABORT_CODE (n : Nat) : Obj := ⟨.net, n, 4⟩
abbrev MD_ABORT_WHERE (n : Nat) : Obj := ⟨.net, n, 5⟩
abbrev MD_ABORT_COUNT (n : Nat) : Obj := ⟨.net, n, 6⟩
abbrev MD_PARTIAL_WRITES (n : Nat) : Obj := ⟨.net, n, 7⟩
abbrev MD_NODE_ID : Obj := ⟨.net, 0, 8⟩
abbrev MD_NET_CONFIG : Obj := ⟨.net, 0, 9⟩
abbrev MD_NMT_STATE : Obj := ⟨.net, 0, 0xA⟩
abbrev MD_USDO_TIMEOUT : Obj := ⟨.net, 0, 0xB⟩
abbrev MD_USDO_USE : Obj := ⟨.net, 0, 0xC⟩
abbrev MD_USDO_CLIENT (k : Nat) : Obj := ⟨.net, 0, 0xD + k⟩
abbrev MD_USDO_REFUSED : Obj := ⟨.net, 0, 0x11⟩
abbrev MD_TIME_MS : Obj := ⟨.net, 0, 0x12⟩
abbrev MD_TIME_DAYS : Obj := ⟨.net, 0, 0x13⟩
abbrev MD_TIME_AT : Obj := ⟨.net, 0, 0x14⟩
abbrev MD_SYNC_AT : Obj := ⟨.net, 0, 0x15⟩
abbrev MD_SYNC_COUNT : Obj := ⟨.net, 0, 0x16⟩
abbrev MD_EMCY_LOST : Obj := ⟨.net, 0, 0x17⟩
abbrev MD_RPDO_REFUSED : Obj := ⟨.net, 0, 0x18⟩
abbrev MD_CAN_STATUS (n : Nat) : Obj := ⟨.can, n, 1⟩
abbrev MD_CAN_EVENTS (n : Nat) : Obj := ⟨.can, n, 2⟩
abbrev MD_CAN_CONFIG (n : Nat) : Obj := ⟨.can, n, 3⟩
abbrev MD_CAN_TEC (n : Nat) : Obj := ⟨.can, n, 4⟩
abbrev MD_CAN_REC (n : Nat) : Obj := ⟨.can, n, 5⟩
abbrev MD_CAN_BUS_OFFS (n : Nat) : Obj := ⟨.can, n, 6⟩
abbrev MD_CAN_RX_FRAMES (n : Nat) : Obj := ⟨.can, n, 7⟩
abbrev MD_CAN_TX_FRAMES (n : Nat) : Obj := ⟨.can, n, 8⟩
abbrev MD_CAN_RX_LOST (n : Nat) : Obj := ⟨.can, n, 9⟩
abbrev MD_CAN_TX_DROPPED (n : Nat) : Obj := ⟨.can, n, 0xA⟩
abbrev CK_STATUS : Obj := ⟨.ck, 0, 1⟩
abbrev CK_EVENTS : Obj := ⟨.ck, 0, 2⟩
abbrev CK_CONTROL : Obj := ⟨.ck, 0, 3⟩
abbrev CK_PT_LO : Obj := ⟨.ck, 0, 4⟩
abbrev CK_PT_HI : Obj := ⟨.ck, 0, 5⟩
abbrev CK_PT_SET_LO : Obj := ⟨.ck, 0, 6⟩
abbrev CK_PT_SET_HI : Obj := ⟨.ck, 0, 7⟩
abbrev CK_PT_LOAD : Obj := ⟨.ck, 0, 8⟩
abbrev CK_SNAPSHOT : Obj := ⟨.ck, 0, 9⟩
abbrev CK_SNAP_LO : Obj := ⟨.ck, 0, 0xA⟩
abbrev CK_SNAP_HI : Obj := ⟨.ck, 0, 0xB⟩
abbrev CK_SNAP_RTC : Obj := ⟨.ck, 0, 0xC⟩
abbrev CK_SNAP_RTC_SUB : Obj := ⟨.ck, 0, 0xD⟩
abbrev CK_SNAP_SEQ : Obj := ⟨.ck, 0, 0xE⟩
abbrev CK_RATE_ADJ : Obj := ⟨.ck, 0, 0xF⟩
abbrev CK_HOLDOVER_LIMIT : Obj := ⟨.ck, 0, 0x10⟩
abbrev CK_CAL_DIE_TEMP : Obj := ⟨.ck, 0, 0x11⟩
abbrev CK_DL_TAP : Obj := ⟨.ck, 0, 0x12⟩
abbrev CK_DL_SLEWING : Obj := ⟨.ck, 0, 0x13⟩
abbrev CK_CAPTURE_SKEW (k : Nat) : Obj := ⟨.ck, 0, 0x20 + k⟩
abbrev CK_FIRE_SKEW (k : Nat) : Obj := ⟨.ck, 0, 0x40 + k⟩
abbrev FJ_STATUS : Obj := ⟨.fj, 0, 1⟩
abbrev FJ_EVENTS : Obj := ⟨.fj, 0, 2⟩
abbrev FJ_CONTROL : Obj := ⟨.fj, 0, 3⟩
abbrev FJ_PRIORITY : Obj := ⟨.fj, 0, 4⟩
abbrev FJ_UID : Obj := ⟨.fj, 0, 5⟩
abbrev FJ_NODE : Obj := ⟨.fj, 0, 6⟩
abbrev FJ_RING_SIZE : Obj := ⟨.fj, 0, 7⟩
abbrev FJ_PASSIVE_COUNT : Obj := ⟨.fj, 0, 8⟩
abbrev FJ_MASTER_UID : Obj := ⟨.fj, 0, 9⟩
abbrev FJ_FORMED_AT : Obj := ⟨.fj, 0, 0xA⟩
abbrev FJ_LOOP_DELAY : Obj := ⟨.fj, 0, 0xB⟩
abbrev FJ_HOP_DELAY : Obj := ⟨.fj, 0, 0xC⟩
abbrev FJ_OFFSET : Obj := ⟨.fj, 0, 0xD⟩
abbrev FJ_TIME_PERIOD : Obj := ⟨.fj, 0, 0xE⟩
abbrev FJ_TIME_HOLDOVER : Obj := ⟨.fj, 0, 0xF⟩
abbrev FJ_STEP_LIMIT : Obj := ⟨.fj, 0, 0x10⟩
abbrev FJ_KP : Obj := ⟨.fj, 0, 0x11⟩
abbrev FJ_KI : Obj := ⟨.fj, 0, 0x12⟩
abbrev FJ_ECHO_PERIOD : Obj := ⟨.fj, 0, 0x13⟩
abbrev FJ_ACTION_LEAD : Obj := ⟨.fj, 0, 0x14⟩
abbrev FJ_FAULT_ACTION : Obj := ⟨.fj, 0, 0x15⟩
abbrev FJ_SLOW_RX : Obj := ⟨.fj, 0, 0x16⟩
abbrev FJ_CRC_ERRORS : Obj := ⟨.fj, 0, 0x17⟩
abbrev FJ_CELLS_DROPPED : Obj := ⟨.fj, 0, 0x18⟩
abbrev FJ_ACT_FREE : Obj := ⟨.fj, 0, 0x19⟩
abbrev FJ_ACT_NEXT_FREE : Obj := ⟨.fj, 0, 0x1A⟩
abbrev ACT_STATE (n : Nat) : Obj := ⟨.act, n, 1⟩
abbrev ACT_KIND (n : Nat) : Obj := ⟨.act, n, 2⟩
abbrev ACT_TRIGGER (n : Nat) : Obj := ⟨.act, n, 3⟩
abbrev ACT_WHEN_LO (n : Nat) : Obj := ⟨.act, n, 4⟩
abbrev ACT_WHEN_HI (n : Nat) : Obj := ⟨.act, n, 5⟩
abbrev ACT_ARG_LO (n : Nat) : Obj := ⟨.act, n, 6⟩
abbrev ACT_ARG_HI (n : Nat) : Obj := ⟨.act, n, 7⟩
abbrev ACT_COMMAND (n : Nat) : Obj := ⟨.act, n, 8⟩
abbrev ACT_RESULT (n : Nat) : Obj := ⟨.act, n, 9⟩
abbrev ACT_TICKET (n : Nat) : Obj := ⟨.act, n, 0xA⟩
abbrev PI_STATUS (n : Nat) : Obj := ⟨.pi, n, 1⟩
abbrev PI_EVENTS (n : Nat) : Obj := ⟨.pi, n, 2⟩
abbrev PI_CONFIG (n : Nat) : Obj := ⟨.pi, n, 3⟩
abbrev PI_COUNT (n : Nat) : Obj := ⟨.pi, n, 4⟩
abbrev PI_LAST_EDGE_LO (n : Nat) : Obj := ⟨.pi, n, 5⟩
abbrev PI_LAST_EDGE_HI (n : Nat) : Obj := ⟨.pi, n, 6⟩
abbrev PI_SPEED (n : Nat) : Obj := ⟨.pi, n, 7⟩
abbrev PI_SPEED_EDGES (n : Nat) : Obj := ⟨.pi, n, 8⟩
abbrev PI_GLITCH (n : Nat) : Obj := ⟨.pi, n, 9⟩
abbrev PI_MIN_INTERVAL (n : Nat) : Obj := ⟨.pi, n, 0xA⟩
abbrev PI_WIRE_TIME (n : Nat) : Obj := ⟨.pi, n, 0xB⟩
abbrev PI_Z_POS (n : Nat) : Obj := ⟨.pi, n, 0xC⟩
abbrev PI_Z_TIME_LO (n : Nat) : Obj := ⟨.pi, n, 0xD⟩
abbrev PI_Z_TIME_HI (n : Nat) : Obj := ⟨.pi, n, 0xE⟩
abbrev PI_Z_LOAD (n : Nat) : Obj := ⟨.pi, n, 0xF⟩
abbrev PI_STOP_TIME (n : Nat) : Obj := ⟨.pi, n, 0x10⟩
abbrev PI_GLITCHES (n : Nat) : Obj := ⟨.pi, n, 0x11⟩
abbrev PI_FAST_EDGES (n : Nat) : Obj := ⟨.pi, n, 0x12⟩
abbrev PI_COUNT_ERRORS (n : Nat) : Obj := ⟨.pi, n, 0x13⟩
abbrev PI_WIRE_FAULTS (n : Nat) : Obj := ⟨.pi, n, 0x14⟩
abbrev PI_INVALID_HALL (n : Nat) : Obj := ⟨.pi, n, 0x15⟩
abbrev RL_CONFIG (n : Nat) : Obj := ⟨.rl, n, 1⟩
abbrev RL_STATUS (n : Nat) : Obj := ⟨.rl, n, 2⟩
abbrev RL_EVENTS (n : Nat) : Obj := ⟨.rl, n, 3⟩
abbrev MS_CONTROL (n : Nat) : Obj := ⟨.ms, n, 1⟩
abbrev MS_STATUS (n : Nat) : Obj := ⟨.ms, n, 2⟩
abbrev MS_OWNER (n : Nat) : Obj := ⟨.ms, n, 3⟩
abbrev MS_COMPARE_LO (n : Nat) : Obj := ⟨.ms, n, 4⟩
abbrev MS_COMPARE_HI (n : Nat) : Obj := ⟨.ms, n, 5⟩
abbrev MS_SPACING (n : Nat) : Obj := ⟨.ms, n, 6⟩
abbrev MS_REMAIN (n : Nat) : Obj := ⟨.ms, n, 7⟩
abbrev MS_HITS (n : Nat) : Obj := ⟨.ms, n, 8⟩
abbrev MS_MISSED (n : Nat) : Obj := ⟨.ms, n, 9⟩
abbrev MS_HIT_TIME_LO (n : Nat) : Obj := ⟨.ms, n, 0xA⟩
abbrev MS_HIT_TIME_HI (n : Nat) : Obj := ⟨.ms, n, 0xB⟩
abbrev MS_PULSE (n : Nat) : Obj := ⟨.ms, n, 0xC⟩
abbrev IN_STATUS : Obj := ⟨.intake, 0, 1⟩
abbrev IN_EVENTS : Obj := ⟨.intake, 0, 2⟩
abbrev IN_CONTROL : Obj := ⟨.intake, 0, 3⟩
abbrev IN_Q_BASE_LO : Obj := ⟨.intake, 0, 4⟩
abbrev IN_Q_BASE_HI : Obj := ⟨.intake, 0, 5⟩
abbrev IN_Q_SLOTS : Obj := ⟨.intake, 0, 6⟩
abbrev IN_HEAD : Obj := ⟨.intake, 0, 7⟩
abbrev IN_TAIL : Obj := ⟨.intake, 0, 8⟩
abbrev IN_ERR_ADDR_LO : Obj := ⟨.intake, 0, 9⟩
abbrev IN_ERR_ADDR_HI : Obj := ⟨.intake, 0, 0xA⟩
abbrev IN_ERR_SLOT : Obj := ⟨.intake, 0, 0xB⟩
abbrev IN_ERR_CODE : Obj := ⟨.intake, 0, 0xC⟩
abbrev IN_JOB_ABORT : Obj := ⟨.intake, 0, 0xD⟩
abbrev IN_PAUSE_STEP : Obj := ⟨.intake, 0, 0xE⟩
abbrev IN_LAST_SEQ : Obj := ⟨.intake, 0, 0xF⟩
abbrev IN_WAYBILLS : Obj := ⟨.intake, 0, 0x10⟩
abbrev IN_KIB : Obj := ⟨.intake, 0, 0x11⟩
abbrev IN_RETRIES : Obj := ⟨.intake, 0, 0x12⟩
abbrev BS_STATUS : Obj := ⟨.bs, 0, 1⟩
abbrev BS_EVENTS : Obj := ⟨.bs, 0, 2⟩
abbrev BS_CONFIG : Obj := ⟨.bs, 0, 3⟩
abbrev BS_CAPACITY : Obj := ⟨.bs, 0, 4⟩
abbrev BS_FREE_PAGES : Obj := ⟨.bs, 0, 5⟩
abbrev BS_HOST_SIZE : Obj := ⟨.bs, 0, 6⟩
abbrev BS_WIN_BASE_LO : Obj := ⟨.bs, 0, 7⟩
abbrev BS_WIN_BASE_HI : Obj := ⟨.bs, 0, 8⟩
abbrev BS_WIN_TARGET : Obj := ⟨.bs, 0, 9⟩
abbrev BS_WIN_OBJECT : Obj := ⟨.bs, 0, 0xA⟩
abbrev BS_ECC_CORRECTED : Obj := ⟨.bs, 0, 0xB⟩
abbrev BS_ECC_UNCORR : Obj := ⟨.bs, 0, 0xC⟩
abbrev BS_ERR_ADDR : Obj := ⟨.bs, 0, 0xD⟩
abbrev UP_STATUS : Obj := ⟨.un, 0, 1⟩
abbrev UP_EVENTS : Obj := ⟨.un, 0, 2⟩
abbrev UP_ERR_INFO : Obj := ⟨.un, 0, 3⟩
abbrev UP_ERR_BAND : Obj := ⟨.un, 0, 4⟩
abbrev UP_FORMAT_ERRORS : Obj := ⟨.un, 0, 5⟩
abbrev UP_BLANK_LINES : Obj := ⟨.un, 0, 6⟩
abbrev SCR_SLOT_USE : Obj := ⟨.scrsh, 0, 1⟩
abbrev JOB_STATE (n : Nat) : Obj := ⟨.job, n, 1⟩
abbrev JOB_JOB_ID (n : Nat) : Obj := ⟨.job, n, 2⟩
abbrev JOB_FLAGS (n : Nat) : Obj := ⟨.job, n, 3⟩
abbrev JOB_BANDS (n : Nat) : Obj := ⟨.job, n, 4⟩
abbrev JOB_LINE (n : Nat) : Obj := ⟨.job, n, 5⟩
abbrev JOB_REPEAT_LEFT (n : Nat) : Obj := ⟨.job, n, 6⟩
abbrev JOB_PAGES (n : Nat) : Obj := ⟨.job, n, 7⟩
abbrev ST_SHUTTLE : Obj := ⟨.stsh, 0, 1⟩
abbrev ST_FEED : Obj := ⟨.stsh, 0, 2⟩
abbrev ST_PASS_BANDS : Obj := ⟨.stsh, 0, 3⟩
abbrev ST_BAND_READY : Obj := ⟨.stsh, 0, 4⟩
abbrev ST_TILE_USE : Obj := ⟨.stsh, 0, 5⟩
abbrev ST_LATE_COUNT : Obj := ⟨.stsh, 0, 6⟩
abbrev LG_SLOW_STATE : Obj := ⟨.lgsh, 0, 1⟩
abbrev LG_SLOW_HOST : Obj := ⟨.lgsh, 0, 2⟩
abbrev LG_SLOW_COUNT : Obj := ⟨.lgsh, 0, 3⟩
abbrev LG_SLOW_TIME : Obj := ⟨.lgsh, 0, 4⟩
abbrev LG_ALLOC_FREE : Obj := ⟨.lgsh, 0, 5⟩
abbrev TT_ARMED_0 : Obj := ⟨.ttsh, 0, 1⟩
abbrev TT_ARMED_1 : Obj := ⟨.ttsh, 0, 2⟩
abbrev TT_ARMED_2 : Obj := ⟨.ttsh, 0, 3⟩
abbrev TT_OVERSPEED_0 : Obj := ⟨.ttsh, 0, 4⟩
abbrev TT_OVERSPEED_1 : Obj := ⟨.ttsh, 0, 5⟩
abbrev TT_OVERSPEED_2 : Obj := ⟨.ttsh, 0, 6⟩
abbrev TT_PRED_STATUS (n : Nat) : Obj := ⟨.pred, n, 1⟩
abbrev TT_PRED_EVENTS (n : Nat) : Obj := ⟨.pred, n, 2⟩
abbrev TT_PRED_CONFIG (n : Nat) : Obj := ⟨.pred, n, 3⟩
abbrev TT_PITCH (n : Nat) : Obj := ⟨.pred, n, 4⟩
abbrev TT_FIT_EDGES (n : Nat) : Obj := ⟨.pred, n, 5⟩
abbrev TT_STALL_TIME (n : Nat) : Obj := ⟨.pred, n, 6⟩
abbrev TT_MIN_SPEED (n : Nat) : Obj := ⟨.pred, n, 7⟩
abbrev TT_EXTRAP (n : Nat) : Obj := ⟨.pred, n, 8⟩
abbrev TT_ACC_LIMIT (n : Nat) : Obj := ⟨.pred, n, 9⟩
abbrev TT_START_POS (n : Nat) : Obj := ⟨.pred, n, 0xA⟩
abbrev TT_ORIGIN (n : Nat) : Obj := ⟨.pred, n, 0xB⟩
abbrev TT_FIXED_PERIOD (n : Nat) : Obj := ⟨.pred, n, 0xC⟩
abbrev TT_FIXED_START (n : Nat) : Obj := ⟨.pred, n, 0xD⟩
abbrev TT_PRED_POS (n : Nat) : Obj := ⟨.pred, n, 0xE⟩
abbrev TT_PRED_VEL (n : Nat) : Obj := ⟨.pred, n, 0xF⟩
abbrev TT_PRED_ACC (n : Nat) : Obj := ⟨.pred, n, 0x10⟩
abbrev TT_PRED_TIME (n : Nat) : Obj := ⟨.pred, n, 0x11⟩
abbrev TT_STALLS (n : Nat) : Obj := ⟨.pred, n, 0x12⟩
abbrev HP_PG_STATUS (n : Nat) : Obj := ⟨.pg, n, 1⟩
abbrev HP_PG_EVENTS (n : Nat) : Obj := ⟨.pg, n, 2⟩
abbrev HP_PG_CONTROL (n : Nat) : Obj := ⟨.pg, n, 3⟩
abbrev HP_PG_V_NOM (n : Nat) : Obj := ⟨.pg, n, 4⟩
abbrev HP_PG_GAIN (n : Nat) : Obj := ⟨.pg, n, 5⟩
abbrev HP_PG_PERIOD (n : Nat) : Obj := ⟨.pg, n, 6⟩
abbrev HP_PG_V_AGE (n : Nat) : Obj := ⟨.pg, n, 7⟩
abbrev HP_PG_RHO_SLEW (n : Nat) : Obj := ⟨.pg, n, 8⟩
abbrev HP_PG_RAMP_LIMIT (n : Nat) : Obj := ⟨.pg, n, 9⟩
abbrev HP_PG_CLAMP_TIME (n : Nat) : Obj := ⟨.pg, n, 0xA⟩
abbrev HP_PG_VOLTAGE (n : Nat) : Obj := ⟨.pg, n, 0xB⟩
abbrev HP_PG_RHO (n : Nat) : Obj := ⟨.pg, n, 0xC⟩
abbrev HP_PG_RHO_TARGET (n : Nat) : Obj := ⟨.pg, n, 0xD⟩
abbrev HP_PG_K (n : Nat) : Obj := ⟨.pg, n, 0xE⟩
abbrev HP_PG_V_MIN (n : Nat) : Obj := ⟨.pg, n, 0xF⟩
abbrev HP_PG_CLAMPS (n : Nat) : Obj := ⟨.pg, n, 0x10⟩
abbrev HP_PG_PEAK (n : Nat) : Obj := ⟨.pg, n, 0x11⟩
abbrev HP_PG_PEAK_WARN (n : Nat) : Obj := ⟨.pg, n, 0x12⟩
abbrev HP_ASSIGN_COUNT : Obj := ⟨.hhsh, 0, 1⟩
abbrev HP_TWIN_ACTIVE (k : Nat) : Obj := ⟨.hhsh, 0, 2 + k⟩
abbrev EV_STATUS : Obj := ⟨.ev, 0, 1⟩
abbrev EV_EVENTS : Obj := ⟨.ev, 0, 2⟩
abbrev EV_CONTROL : Obj := ⟨.ev, 0, 3⟩
abbrev EV_Q_BASE : Obj := ⟨.ev, 0, 4⟩
abbrev EV_Q_SIZE : Obj := ⟨.ev, 0, 5⟩
abbrev EV_Q_HEAD : Obj := ⟨.ev, 0, 6⟩
abbrev EV_Q_TAIL : Obj := ⟨.ev, 0, 7⟩
abbrev EV_Q_LOST : Obj := ⟨.ev, 0, 8⟩
abbrev EV_MODERATION : Obj := ⟨.ev, 0, 9⟩
abbrev EV_LOST : Obj := ⟨.ev, 0, 0xA⟩
abbrev EV_TOTAL : Obj := ⟨.ev, 0, 0xB⟩
abbrev EV_RING_MERGED : Obj := ⟨.ev, 0, 0xC⟩
abbrev EV_IRQ_VEC (k : Nat) : Obj := ⟨.ev, 0, 0x10 + k⟩
abbrev EV_IRQ_CONFIG : Obj := ⟨.ev, 0, 0x18⟩
abbrev EV_PENDING (k : Nat) : Obj := ⟨.ev, 0, 0x20 + k⟩
abbrev EV_ENABLE (k : Nat) : Obj := ⟨.ev, 0, 0x40 + k⟩
abbrev EV_ROUTE (k : Nat) : Obj := ⟨.ev, 0, 0x60 + k⟩
abbrev DM_BUSY : Obj := ⟨.dm, 0, 1⟩
abbrev DM_DONE : Obj := ⟨.dm, 0, 2⟩
abbrev DM_ERROR : Obj := ⟨.dm, 0, 3⟩
abbrev DM_CH_CONFIG (k : Nat) : Obj := ⟨.dm, 0, 0x10 + k⟩
abbrev DM_CH_STATUS (k : Nat) : Obj := ⟨.dm, 0, 0x30 + k⟩
abbrev DM_CH_DESC (k : Nat) : Obj := ⟨.dm, 0, 0x50 + k⟩
abbrev DM_CH_CMD (k : Nat) : Obj := ⟨.dm, 0, 0x70 + k⟩
abbrev DM_CH_ERR_ADDR (k : Nat) : Obj := ⟨.dm, 0, 0x90 + k⟩
abbrev DM_CH_BYTES (k : Nat) : Obj := ⟨.dm, 0, 0xB0 + k⟩
abbrev DM_CH_DESCS (k : Nat) : Obj := ⟨.dm, 0, 0xD0 + k⟩
abbrev SB_STATUS : Obj := ⟨.sb, 0, 1⟩
abbrev SB_EVENTS : Obj := ⟨.sb, 0, 2⟩
abbrev SB_CONTROL : Obj := ⟨.sb, 0, 3⟩
abbrev SB_VREF_MV : Obj := ⟨.sb, 0, 4⟩
abbrev SB_VREF_TOL : Obj := ⟨.sb, 0, 5⟩
abbrev SB_EARLY : Obj := ⟨.sb, 0, 6⟩
abbrev SB_CAL_DELTA_T : Obj := ⟨.sb, 0, 7⟩
abbrev SB_CAL_DIE_TEMP : Obj := ⟨.sb, 0, 8⟩
abbrev SB_DIE_TEMP : Obj := ⟨.sb, 0, 9⟩
abbrev SB_DIE_PERIOD : Obj := ⟨.sb, 0, 0xA⟩
abbrev SB_STORE_ADDR : Obj := ⟨.sb, 0, 0xB⟩
abbrev SB_STORE_CMD : Obj := ⟨.sb, 0, 0xC⟩
abbrev SB_STORE_RESULT : Obj := ⟨.sb, 0, 0xD⟩
abbrev SB_STORE_SEQ : Obj := ⟨.sb, 0, 0xE⟩
abbrev SB_BANDGAP_MV : Obj := ⟨.sb, 0, 0xF⟩
abbrev SB_HOST_CMD : Obj := ⟨.sb, 0, 0x10⟩
abbrev SB_HOST_STATUS : Obj := ⟨.sb, 0, 0x11⟩
abbrev SB_CONV_RETIRED : Obj := ⟨.sb, 0, 0x12⟩
abbrev SB_CUTS : Obj := ⟨.sb, 0, 0x13⟩
abbrev SB_CAL_COUNT : Obj := ⟨.sb, 0, 0x14⟩
abbrev SB_ACQ (k : Nat) : Obj := ⟨.sb, 0, 0x16 + k⟩
abbrev SB_RANK (k : Nat) : Obj := ⟨.sb, 0, 0x20 + k⟩
abbrev SB_HOLD_LIMIT (k : Nat) : Obj := ⟨.sb, 0, 0x30 + k⟩
abbrev SB_FLOOR (k : Nat) : Obj := ⟨.sb, 0, 0x40 + k⟩
abbrev SB_CONV_OFFSET (k : Nat) : Obj := ⟨.sb, 0, 0x50 + k⟩
abbrev SB_CONV_GAIN (k : Nat) : Obj := ⟨.sb, 0, 0x60 + k⟩
abbrev SB_WAIT_MAX (k : Nat) : Obj := ⟨.sb, 0, 0x70 + k⟩
abbrev SB_HOST_RESULT (k : Nat) : Obj := ⟨.sb, 0, 0x80 + k⟩
abbrev SU_STATUS : Obj := ⟨.su, 0, 1⟩
abbrev SU_EVENTS : Obj := ⟨.su, 0, 2⟩
abbrev SU_CONTROL : Obj := ⟨.su, 0, 3⟩
abbrev SU_BUS_NOM : Obj := ⟨.su, 0, 4⟩
abbrev SU_VRESET : Obj := ⟨.su, 0, 5⟩
abbrev SU_HYST : Obj := ⟨.su, 0, 6⟩
abbrev SU_PERIOD : Obj := ⟨.su, 0, 7⟩
abbrev SU_GAIN (k : Nat) : Obj := ⟨.su, 0, 8 + k⟩
abbrev SU_LOW (k : Nat) : Obj := ⟨.su, 0, 0x10 + k⟩
abbrev SU_HIGH (k : Nat) : Obj := ⟨.su, 0, 0x18 + k⟩
abbrev SU_V (k : Nat) : Obj := ⟨.su, 0, 0x20 + k⟩
abbrev SU_CONFIG (k : Nat) : Obj := ⟨.su, 0, 0x28 + k⟩
abbrev SU_CURFEW_HOLD : Obj := ⟨.su, 0, 0x30⟩
abbrev SU_SAG_TIME : Obj := ⟨.su, 0, 0x31⟩
abbrev SU_DRIFT_LIMIT : Obj := ⟨.su, 0, 0x32⟩
abbrev SU_BUS_MEAN : Obj := ⟨.su, 0, 0x33⟩
abbrev SU_BUS_MIN : Obj := ⟨.su, 0, 0x34⟩
abbrev SU_BUS_MAX : Obj := ⟨.su, 0, 0x35⟩
abbrev SU_DIP_DEPTH : Obj := ⟨.su, 0, 0x36⟩
abbrev SU_DIP_TIME : Obj := ⟨.su, 0, 0x37⟩
abbrev SU_DIPS : Obj := ⟨.su, 0, 0x38⟩
abbrev SU_SAGS : Obj := ⟨.su, 0, 0x39⟩
abbrev SU_SURGES : Obj := ⟨.su, 0, 0x3A⟩
abbrev SU_DEFERRED : Obj := ⟨.su, 0, 0x3B⟩
abbrev SU_PG_VHIGH (k : Nat) : Obj := ⟨.su, 0, 0x40 + k⟩
abbrev TH_STATUS : Obj := ⟨.su, 0, 0x50⟩
abbrev TH_EVENTS : Obj := ⟨.su, 0, 0x51⟩
abbrev TH_CONTROL : Obj := ⟨.su, 0, 0x52⟩
abbrev TH_THROTTLE : Obj := ⟨.su, 0, 0x53⟩
abbrev TH_SHUTDOWN : Obj := ⟨.su, 0, 0x54⟩
abbrev TH_DIE_MAX : Obj := ⟨.su, 0, 0x55⟩
abbrev TH_SHUTDOWNS : Obj := ⟨.su, 0, 0x56⟩
abbrev TH_TRIPS : Obj := ⟨.su, 0, 0x57⟩
abbrev BK_STATUS : Obj := ⟨.su, 0, 0x60⟩
abbrev BK_EVENTS : Obj := ⟨.su, 0, 0x61⟩
abbrev BK_CONTROL : Obj := ⟨.su, 0, 0x62⟩
abbrev BK_RTC_SEC : Obj := ⟨.su, 0, 0x63⟩
abbrev BK_RTC_SUB : Obj := ⟨.su, 0, 0x64⟩
abbrev BK_RTC_SET : Obj := ⟨.su, 0, 0x65⟩
abbrev BK_RTC_TRIM : Obj := ⟨.su, 0, 0x66⟩
abbrev BK_ALARM_SEC : Obj := ⟨.su, 0, 0x67⟩
abbrev BK_VBAT : Obj := ⟨.su, 0, 0x68⟩
abbrev BK_V_LOW : Obj := ⟨.su, 0, 0x69⟩
abbrev BK_V_EMPTY : Obj := ⟨.su, 0, 0x6A⟩
abbrev BK_CHG_CONFIG : Obj := ⟨.su, 0, 0x6B⟩
abbrev BK_CHG_I : Obj := ⟨.su, 0, 0x6C⟩
abbrev BK_CHG_V : Obj := ⟨.su, 0, 0x6D⟩
abbrev BK_CHG_TIMEOUT : Obj := ⟨.su, 0, 0x6E⟩
abbrev BK_CAP : Obj := ⟨.su, 0, 0x6F⟩
abbrev BK_GAUGE : Obj := ⟨.su, 0, 0x70⟩
abbrev BK_GAUGE_SET : Obj := ⟨.su, 0, 0x71⟩
abbrev BK_DRAIN : Obj := ⟨.su, 0, 0x72⟩
abbrev BK_JNL_COUNT : Obj := ⟨.su, 0, 0x73⟩
abbrev BK_JNL_SELECT : Obj := ⟨.su, 0, 0x74⟩
abbrev BK_JNL_WORD (k : Nat) : Obj := ⟨.su, 0, 0x75 + k⟩
abbrev BK_JNL_HOST : Obj := ⟨.su, 0, 0x79⟩
abbrev BK_MAIN_LOSSES : Obj := ⟨.su, 0, 0x7A⟩
abbrev BK_BATTERY_SEC : Obj := ⟨.su, 0, 0x7B⟩
abbrev BT_STATUS : Obj := ⟨.bt, 0, 1⟩
abbrev BT_EVENTS : Obj := ⟨.bt, 0, 2⟩
abbrev BT_CONTROL : Obj := ⟨.bt, 0, 3⟩
abbrev BT_STRAPS : Obj := ⟨.bt, 0, 4⟩
abbrev BT_RESULT : Obj := ⟨.bt, 0, 5⟩
abbrev BT_REJECT : Obj := ⟨.bt, 0, 6⟩
abbrev BT_SOURCE : Obj := ⟨.bt, 0, 7⟩
abbrev BT_FW_SEQ : Obj := ⟨.bt, 0, 8⟩
abbrev BT_FW_VERSION : Obj := ⟨.bt, 0, 9⟩
abbrev BT_KEY_SLOT : Obj := ⟨.bt, 0, 0xA⟩
abbrev BT_BOOT_TIME : Obj := ⟨.bt, 0, 0xB⟩
abbrev BT_RECOVERY_CMD : Obj := ⟨.bt, 0, 0xC⟩
abbrev BT_WDT_PERIOD : Obj := ⟨.bt, 0, 0xD⟩
abbrev BT_WDT_KICK : Obj := ⟨.bt, 0, 0xE⟩
abbrev OT_STATUS : Obj := ⟨.bt, 0, 0x10⟩
abbrev OT_EVENTS : Obj := ⟨.bt, 0, 0x11⟩
abbrev OT_LC_STATE : Obj := ⟨.bt, 0, 0x12⟩
abbrev OT_LC_CMD : Obj := ⟨.bt, 0, 0x13⟩
abbrev OT_LC_RESULT : Obj := ⟨.bt, 0, 0x14⟩
abbrev OT_ROW_ADDR : Obj := ⟨.bt, 0, 0x15⟩
abbrev OT_ROW_DATA : Obj := ⟨.bt, 0, 0x16⟩
abbrev OT_ROW_CMD : Obj := ⟨.bt, 0, 0x17⟩
abbrev OT_ROW_RESULT : Obj := ⟨.bt, 0, 0x18⟩
abbrev OT_MARGIN_NORM : Obj := ⟨.bt, 0, 0x19⟩
abbrev OT_MARGIN_HIGH : Obj := ⟨.bt, 0, 0x1A⟩
abbrev OT_MARGIN_LOW : Obj := ⟨.bt, 0, 0x1B⟩
abbrev OT_WEAK_COUNT : Obj := ⟨.bt, 0, 0x1C⟩
abbrev OT_SPARES_FREE : Obj := ⟨.bt, 0, 0x1D⟩
abbrev OT_LOCKS : Obj := ⟨.bt, 0, 0x1E⟩
abbrev OT_SEC_VERSION : Obj := ⟨.bt, 0, 0x1F⟩
abbrev OT_WEAK_MAP (k : Nat) : Obj := ⟨.bt, 0, 0x20 + k⟩
abbrev OT_TOKEN (k : Nat) : Obj := ⟨.bt, 0, 0x30 + k⟩
abbrev OT_TOKEN_FAILS : Obj := ⟨.bt, 0, 0x38⟩
abbrev BT_QSPI_ADDR : Obj := ⟨.bt, 0, 0x40⟩
abbrev BT_QSPI_LEN : Obj := ⟨.bt, 0, 0x41⟩
abbrev BT_QSPI_CMD : Obj := ⟨.bt, 0, 0x42⟩
abbrev BT_QSPI_RESULT : Obj := ⟨.bt, 0, 0x43⟩
abbrev BT_QSPI_DATA (k : Nat) : Obj := ⟨.bt, 0, 0x50 + k⟩
abbrev FI_STATUS : Obj := ⟨.fi, 0, 1⟩
abbrev FI_EVENTS : Obj := ⟨.fi, 0, 2⟩
abbrev FI_CONTROL : Obj := ⟨.fi, 0, 3⟩
abbrev FI_KEY : Obj := ⟨.fi, 0, 4⟩
abbrev FI_POINT : Obj := ⟨.fi, 0, 5⟩
abbrev FI_UNIT : Obj := ⟨.fi, 0, 6⟩
abbrev FI_MODE : Obj := ⟨.fi, 0, 7⟩
abbrev FI_COUNT : Obj := ⟨.fi, 0, 8⟩
abbrev FI_SPACING : Obj := ⟨.fi, 0, 9⟩
abbrev FI_CMD : Obj := ⟨.fi, 0, 0xA⟩
abbrev FI_HITS : Obj := ⟨.fi, 0, 0xB⟩
abbrev FI_COLLIDED : Obj := ⟨.fi, 0, 0xC⟩
abbrev FI_AT : Obj := ⟨.fi, 0, 0xD⟩
abbrev MT_STATUS : Obj := ⟨.mtsh, 0, 1⟩
abbrev MT_EVENTS : Obj := ⟨.mtsh, 0, 2⟩
abbrev MT_CAPPED (k : Nat) : Obj := ⟨.mtsh, 0, 3 + k⟩
abbrev MT_CLAIMED (k : Nat) : Obj := ⟨.mtsh, 0, 6 + k⟩
abbrev MT_AXES_CLAIMED : Obj := ⟨.mtsh, 0, 9⟩
abbrev MT_CONV_CLAIMED : Obj := ⟨.mtsh, 0, 0xA⟩
abbrev MT_CONV_LIMIT : Obj := ⟨.mtsh, 0, 0xB⟩
abbrev MT_CAPPED_CLR : Obj := ⟨.mtsh, 0, 0xC⟩
abbrev MT_STATE (n : Nat) : Obj := ⟨.mt, n, 1⟩
abbrev MT_RESULT (n : Nat) : Obj := ⟨.mt, n, 2⟩
abbrev MT_KIND (n : Nat) : Obj := ⟨.mt, n, 3⟩
abbrev MT_CMD (n : Nat) : Obj := ⟨.mt, n, 4⟩
abbrev MT_PROGRESS (n : Nat) : Obj := ⟨.mt, n, 5⟩
abbrev MT_PORTS (n : Nat) (k : Nat) : Obj := ⟨.mt, n, 6 + k⟩
abbrev MT_CONV (n : Nat) : Obj := ⟨.mt, n, 9⟩
abbrev MT_STATION (n : Nat) : Obj := ⟨.mt, n, 0xA⟩
abbrev MT_STATION_POS (n : Nat) : Obj := ⟨.mt, n, 0xB⟩
abbrev MT_AUX_AXIS (n : Nat) : Obj := ⟨.mt, n, 0xC⟩
abbrev MT_AUX_POS_A (n : Nat) : Obj := ⟨.mt, n, 0xD⟩
abbrev MT_AUX_POS_B (n : Nat) : Obj := ⟨.mt, n, 0xE⟩
abbrev MT_RELAY (n : Nat) : Obj := ⟨.mt, n, 0xF⟩
abbrev MT_CODE (n : Nat) : Obj := ⟨.mt, n, 0x10⟩
abbrev MT_COUNT (n : Nat) : Obj := ⟨.mt, n, 0x11⟩
abbrev MT_PERIOD (n : Nat) : Obj := ⟨.mt, n, 0x12⟩
abbrev MT_FIRST (n : Nat) : Obj := ⟨.mt, n, 0x13⟩
abbrev MT_NOZZLES (n : Nat) : Obj := ⟨.mt, n, 0x14⟩
abbrev MT_TIME_A (n : Nat) : Obj := ⟨.mt, n, 0x15⟩
abbrev MT_TIME_B (n : Nat) : Obj := ⟨.mt, n, 0x16⟩
abbrev MT_NEXT (n : Nat) : Obj := ⟨.mt, n, 0x17⟩
abbrev MT_LOST (n : Nat) : Obj := ⟨.mt, n, 0x18⟩
abbrev MT_STARTED_AT (n : Nat) : Obj := ⟨.mt, n, 0x19⟩
abbrev MT_ENDED_AT (n : Nat) : Obj := ⟨.mt, n, 0x1A⟩
abbrev HP_STATE (n : Nat) : Obj := ⟨.link, n, 1⟩
abbrev HP_CONTROL (n : Nat) : Obj := ⟨.link, n, 2⟩
abbrev HP_EPOCH (n : Nat) : Obj := ⟨.link, n, 3⟩
abbrev HP_LANE_TRIM (n : Nat) : Obj := ⟨.link, n, 4⟩
abbrev HP_LINK_STATUS (n : Nat) : Obj := ⟨.link, n, 5⟩
abbrev HP_ACK_TIMEOUT (n : Nat) : Obj := ⟨.link, n, 6⟩
abbrev HP_LEAST_LEAD (n : Nat) : Obj := ⟨.link, n, 7⟩
abbrev HP_FRAMES (n : Nat) : Obj := ⟨.link, n, 8⟩
abbrev HP_RESENDS (n : Nat) : Obj := ⟨.link, n, 9⟩
abbrev HP_NAKS (n : Nat) : Obj := ⟨.link, n, 0xA⟩
abbrev HP_ACK_TIMEOUTS (n : Nat) : Obj := ⟨.link, n, 0xB⟩
abbrev HP_HEAD_BLANKS (n : Nat) : Obj := ⟨.link, n, 0xC⟩
abbrev HP_RET_ERRORS (n : Nat) : Obj := ⟨.link, n, 0xD⟩
abbrev HP_STALE_MSGS (n : Nat) : Obj := ⟨.link, n, 0xE⟩
abbrev HP_ROT_ERRORS (n : Nat) : Obj := ⟨.link, n, 0xF⟩
abbrev HP_HEAD_FLAGS (n : Nat) : Obj := ⟨.link, n, 0x10⟩
abbrev HP_RC_ADDR (n : Nat) : Obj := ⟨.link, n, 0x11⟩
abbrev HP_RC_DATA (n : Nat) : Obj := ⟨.link, n, 0x12⟩
abbrev HP_RC_CMD (n : Nat) : Obj := ⟨.link, n, 0x13⟩
abbrev HP_RC_RESULT (n : Nat) : Obj := ⟨.link, n, 0x14⟩
abbrev RC_WORD (n : Nat) (k : Nat) : Obj := ⟨.rcard, n, 1 + k⟩
abbrev HP_PT_PULSES (n : Nat) : Obj := ⟨.pt, n, 1⟩
abbrev HP_PT_SLOT (n : Nat) : Obj := ⟨.pt, n, 2⟩
abbrev HP_PT_START1 (n : Nat) : Obj := ⟨.pt, n, 3⟩
abbrev HP_PT_START2 (n : Nat) : Obj := ⟨.pt, n, 4⟩
abbrev HP_PT_WIDTH (n : Nat) (k : Nat) : Obj := ⟨.pt, n, 5 + k⟩
abbrev HP_PT_MAP (n : Nat) : Obj := ⟨.pt, n, 8⟩
abbrev HP_PT_V_NOM (n : Nat) : Obj := ⟨.pt, n, 9⟩
abbrev HP_PT_WARM (n : Nat) : Obj := ⟨.pt, n, 0xA⟩
abbrev HP_PT_COMMIT (n : Nat) : Obj := ⟨.pt, n, 0xB⟩
abbrev HP_PT_RESULT (n : Nat) : Obj := ⟨.pt, n, 0xC⟩
abbrev HP_PT_MIN_PERIOD (n : Nat) : Obj := ⟨.pt, n, 0xD⟩
abbrev HP_PT_STATUS (n : Nat) : Obj := ⟨.pt, n, 0xE⟩
abbrev HP_PT_PULSES_LIVE (n : Nat) : Obj := ⟨.pt, n, 0x11⟩
abbrev HP_PT_SLOT_LIVE (n : Nat) : Obj := ⟨.pt, n, 0x12⟩
abbrev HP_PT_START1_LIVE (n : Nat) : Obj := ⟨.pt, n, 0x13⟩
abbrev HP_PT_START2_LIVE (n : Nat) : Obj := ⟨.pt, n, 0x14⟩
abbrev HP_PT_WIDTH_LIVE (n : Nat) (k : Nat) : Obj := ⟨.pt, n, 0x15 + k⟩
abbrev HP_PT_MAP_LIVE (n : Nat) : Obj := ⟨.pt, n, 0x18⟩
abbrev HP_PT_V_NOM_LIVE (n : Nat) : Obj := ⟨.pt, n, 0x19⟩
abbrev HP_PT_WARM_LIVE (n : Nat) : Obj := ⟨.pt, n, 0x1A⟩
abbrev HP_FIRE_STATUS (n : Nat) : Obj := ⟨.fire, n, 1⟩
abbrev HP_FIRE_EVENTS (n : Nat) : Obj := ⟨.fire, n, 2⟩
abbrev HP_FIRE_CONTROL (n : Nat) : Obj := ⟨.fire, n, 3⟩
abbrev HP_WARM_PERIOD (n : Nat) : Obj := ⟨.fire, n, 4⟩
abbrev HP_K_LAST (n : Nat) : Obj := ⟨.fire, n, 5⟩
abbrev HP_ROTATIONS (n : Nat) : Obj := ⟨.fire, n, 6⟩
abbrev HP_CLAMP_BLANKS (n : Nat) : Obj := ⟨.fire, n, 7⟩
abbrev HP_STALE_BLANKS (n : Nat) : Obj := ⟨.fire, n, 8⟩
abbrev HP_WARM_PULSES (n : Nat) : Obj := ⟨.fire, n, 9⟩
abbrev HP_WARM_SKIPPED (n : Nat) : Obj := ⟨.fire, n, 0xA⟩
abbrev HP_HEALTH_STATUS (n : Nat) : Obj := ⟨.health, n, 1⟩
abbrev HP_HEALTH_EVENTS (n : Nat) : Obj := ⟨.health, n, 2⟩
abbrev HP_HEALTH_CONTROL (n : Nat) : Obj := ⟨.health, n, 3⟩
abbrev HP_ROLL_NEXT (n : Nat) : Obj := ⟨.health, n, 4⟩
abbrev HP_ROLL_IDLE_PERIOD (n : Nat) : Obj := ⟨.health, n, 5⟩
abbrev HP_ROLL_OPEN (n : Nat) : Obj := ⟨.health, n, 6⟩
abbrev HP_ROLL_SHORT (n : Nat) : Obj := ⟨.health, n, 7⟩
abbrev HP_ROLL_DRIFT (n : Nat) : Obj := ⟨.health, n, 8⟩
abbrev HP_R_MEAN (n : Nat) : Obj := ⟨.health, n, 9⟩
abbrev HP_ROLL_READINGS (n : Nat) : Obj := ⟨.health, n, 0xA⟩
abbrev HP_ROLL_MISSED (n : Nat) : Obj := ⟨.health, n, 0xB⟩
abbrev HP_ROLL_TRANSIENTS (n : Nat) : Obj := ⟨.health, n, 0xC⟩
abbrev HP_ROLL_CONFIRMED (n : Nat) : Obj := ⟨.health, n, 0xD⟩
abbrev HP_ROLL_DRIFTED (n : Nat) : Obj := ⟨.health, n, 0xE⟩
abbrev HP_TEMP (n : Nat) : Obj := ⟨.health, n, 0xF⟩
abbrev HP_TEMP_HIGHEST (n : Nat) : Obj := ⟨.health, n, 0x10⟩
abbrev HP_TEMP_PERIOD (n : Nat) : Obj := ⟨.health, n, 0x11⟩
abbrev HP_TEMP_AGE (n : Nat) : Obj := ⟨.health, n, 0x12⟩
abbrev HP_TEMP_HYST (n : Nat) : Obj := ⟨.health, n, 0x13⟩
abbrev HP_TEMP_TARGET (n : Nat) : Obj := ⟨.health, n, 0x14⟩
abbrev HP_TEMP_KP (n : Nat) : Obj := ⟨.health, n, 0x15⟩
abbrev HP_TEMP_RATE_MAX (n : Nat) : Obj := ⟨.health, n, 0x16⟩
abbrev HP_TEMP_BAD (n : Nat) : Obj := ⟨.health, n, 0x17⟩
abbrev HP_TEMP_PAUSES (n : Nat) : Obj := ⟨.health, n, 0x18⟩
abbrev HP_RANK (n : Nat) : Obj := ⟨.health, n, 0x19⟩
abbrev HP_RANK_SET (n : Nat) : Obj := ⟨.health, n, 0x1A⟩
abbrev HP_REC_CMD (n : Nat) : Obj := ⟨.health, n, 0x1B⟩
abbrev HP_REC_MIN_GAP (n : Nat) : Obj := ⟨.health, n, 0x1C⟩
abbrev HP_REC_SEQ (n : Nat) : Obj := ⟨.health, n, 0x1D⟩
abbrev HP_REC_WRITES (n : Nat) : Obj := ⟨.health, n, 0x1E⟩
abbrev HP_REC_FAILS (n : Nat) : Obj := ⟨.health, n, 0x1F⟩
abbrev HP_STALE_RESULTS (n : Nat) : Obj := ⟨.health, n, 0x20⟩
abbrev HP_DEEP_CODE (n : Nat) : Obj := ⟨.health, n, 0x21⟩
abbrev HP_DEEP_SPACING (n : Nat) : Obj := ⟨.health, n, 0x22⟩
abbrev HP_DEEP_DRY (n : Nat) : Obj := ⟨.health, n, 0x23⟩
abbrev HP_DEEP_COLD (n : Nat) : Obj := ⟨.health, n, 0x24⟩
abbrev HP_DEEP_COUNTS (n : Nat) : Obj := ⟨.health, n, 0x25⟩
abbrev HP_TWIN_STATUS (n : Nat) : Obj := ⟨.twin, n, 1⟩
abbrev HP_TWIN (n : Nat) : Obj := ⟨.twin, n, 2⟩
abbrev HP_TWIN_CMD (n : Nat) : Obj := ⟨.twin, n, 3⟩
abbrev HP_TWIN_TAKEOVERS (n : Nat) : Obj := ⟨.twin, n, 4⟩
abbrev HP_TWIN_LOST (n : Nat) : Obj := ⟨.twin, n, 5⟩
abbrev HP_TWIN_LAST_J (n : Nat) : Obj := ⟨.twin, n, 6⟩
abbrev HP_TWIN_LAST_T (n : Nat) : Obj := ⟨.twin, n, 7⟩
abbrev HP_TWIN_FAILS (n : Nat) : Obj := ⟨.twin, n, 8⟩
abbrev HP_TWIN_CAUSE (n : Nat) : Obj := ⟨.twin, n, 9⟩
abbrev SCR_STATUS (n : Nat) : Obj := ⟨.scr, n, 1⟩
abbrev SCR_EVENTS (n : Nat) : Obj := ⟨.scr, n, 2⟩
abbrev SCR_CONFIG (n : Nat) : Obj := ⟨.scr, n, 3⟩
abbrev SCR_CONFIG_LIVE (n : Nat) : Obj := ⟨.scr, n, 4⟩
abbrev SCR_MATRIX_SHIFT (n : Nat) : Obj := ⟨.scr, n, 5⟩
abbrev SCR_LEVELS (n : Nat) : Obj := ⟨.scr, n, 6⟩
abbrev SCR_LEVEL (n : Nat) (k : Nat) : Obj := ⟨.scr, n, 7 + k⟩
abbrev SCR_COMMIT (n : Nat) : Obj := ⟨.scr, n, 0xF⟩
abbrev SCR_COMMIT_RESULT (n : Nat) : Obj := ⟨.scr, n, 0x10⟩
abbrev SCR_COMP_DEFAULT (n : Nat) : Obj := ⟨.scr, n, 0x11⟩
abbrev SCR_MASK_CMD (n : Nat) : Obj := ⟨.scr, n, 0x12⟩
abbrev SCR_COMP_USED (n : Nat) : Obj := ⟨.scr, n, 0x13⟩
abbrev SCR_MASKED (n : Nat) : Obj := ⟨.scr, n, 0x14⟩
abbrev SCR_UNCOMPENSATED (n : Nat) : Obj := ⟨.scr, n, 0x15⟩
abbrev SCR_CLAMPS (n : Nat) : Obj := ⟨.scr, n, 0x16⟩
abbrev SCR_COMP_LOST (n : Nat) : Obj := ⟨.scr, n, 0x17⟩
abbrev SCR_LINES (n : Nat) : Obj := ⟨.scr, n, 0x18⟩
abbrev SCR_COMP (n : Nat) (k : Nat) : Obj := ⟨.comp, n, 1 + k⟩
abbrev SCR_COMP2 (n : Nat) (k : Nat) : Obj := ⟨.comp2, n, 1 + k⟩
abbrev ST_STATUS (n : Nat) : Obj := ⟨.st, n, 1⟩
abbrev ST_EVENTS (n : Nat) : Obj := ⟨.st, n, 2⟩
abbrev ST_CONFIG (n : Nat) : Obj := ⟨.st, n, 3⟩
abbrev ST_CONFIG_LIVE (n : Nat) : Obj := ⟨.st, n, 4⟩
abbrev ST_LEFT_ZONE (n : Nat) : Obj := ⟨.st, n, 5⟩
abbrev ST_RIGHT_ZONE (n : Nat) : Obj := ⟨.st, n, 6⟩
abbrev ST_ZONES_LIVE (n : Nat) : Obj := ⟨.st, n, 7⟩
abbrev ST_FEED_ORIGIN (n : Nat) : Obj := ⟨.st, n, 8⟩
abbrev ST_LATE_BAND (n : Nat) : Obj := ⟨.st, n, 9⟩
abbrev ST_LATE_BANDS (n : Nat) : Obj := ⟨.st, n, 0xA⟩
abbrev ST_DISCARDED (n : Nat) : Obj := ⟨.st, n, 0xB⟩
abbrev LG_STATUS (n : Nat) : Obj := ⟨.lg, n, 1⟩
abbrev LG_EVENTS (n : Nat) : Obj := ⟨.lg, n, 2⟩
abbrev LG_ALLOC (n : Nat) : Obj := ⟨.lg, n, 3⟩
abbrev LG_DEPTH (n : Nat) : Obj := ⟨.lg, n, 4⟩
abbrev LG_DEPTH_EFF (n : Nat) : Obj := ⟨.lg, n, 5⟩
abbrev LG_LINE_BYTES (n : Nat) : Obj := ⟨.lg, n, 6⟩
abbrev LG_FILL (n : Nat) : Obj := ⟨.lg, n, 7⟩
abbrev LG_MIN_FILL (n : Nat) : Obj := ⟨.lg, n, 8⟩
abbrev LG_SLOW_ON (n : Nat) : Obj := ⟨.lg, n, 9⟩
abbrev LG_SLOW_OFF (n : Nat) : Obj := ⟨.lg, n, 0xA⟩
abbrev LG_SLOW_HOLD (n : Nat) : Obj := ⟨.lg, n, 0xB⟩
abbrev LG_BLANKS (n : Nat) : Obj := ⟨.lg, n, 0xC⟩
abbrev LG_STALE (n : Nat) : Obj := ⟨.lg, n, 0xD⟩
abbrev LG_ECC_CORRECTED (n : Nat) : Obj := ⟨.lg, n, 0xE⟩
abbrev LG_ECC_UNCORR (n : Nat) : Obj := ⟨.lg, n, 0xF⟩
abbrev LG_CONTROL (n : Nat) : Obj := ⟨.lg, n, 0x10⟩
abbrev TT_STATUS (n : Nat) : Obj := ⟨.tt, n, 1⟩
abbrev TT_EVENTS (n : Nat) : Obj := ⟨.tt, n, 2⟩
abbrev TT_CONFIG (n : Nat) : Obj := ⟨.tt, n, 3⟩
abbrev TT_ARM (n : Nat) : Obj := ⟨.tt, n, 4⟩
abbrev TT_OFFSET_FWD (n : Nat) : Obj := ⟨.tt, n, 5⟩
abbrev TT_OFFSET_REV (n : Nat) : Obj := ⟨.tt, n, 6⟩
abbrev TT_OFFSET_FWD_LIVE (n : Nat) : Obj := ⟨.tt, n, 7⟩
abbrev TT_OFFSET_REV_LIVE (n : Nat) : Obj := ⟨.tt, n, 8⟩
abbrev TT_OFFSET_SLEW (n : Nat) : Obj := ⟨.tt, n, 9⟩
abbrev TT_LAG_LIMIT (n : Nat) : Obj := ⟨.tt, n, 0xA⟩
abbrev TT_SEND_LEAD (n : Nat) : Obj := ⟨.tt, n, 0xB⟩
abbrev TT_FIX_LEAD (n : Nat) : Obj := ⟨.tt, n, 0xC⟩
abbrev TT_MIN_PERIOD (n : Nat) : Obj := ⟨.tt, n, 0xD⟩
abbrev TT_STAGGER_DELAY (n : Nat) : Obj := ⟨.tt, n, 0xE⟩
abbrev TT_NEXT (n : Nat) : Obj := ⟨.tt, n, 0xF⟩
abbrev TT_HWM_FWD (n : Nat) : Obj := ⟨.tt, n, 0x10⟩
abbrev TT_HWM_REV (n : Nat) : Obj := ⟨.tt, n, 0x11⟩
abbrev TT_HWM_PASSES (n : Nat) : Obj := ⟨.tt, n, 0x12⟩
abbrev TT_LAST_FIRE (n : Nat) : Obj := ⟨.tt, n, 0x13⟩
abbrev TT_LAST_LAG (n : Nat) : Obj := ⟨.tt, n, 0x14⟩
abbrev TT_MAX_LAG (n : Nat) : Obj := ⟨.tt, n, 0x15⟩
abbrev TT_LINES (n : Nat) : Obj := ⟨.tt, n, 0x16⟩
abbrev TT_LATE_PLACED (n : Nat) : Obj := ⟨.tt, n, 0x17⟩
abbrev TT_SKIPS (n : Nat) : Obj := ⟨.tt, n, 0x18⟩
abbrev TT_START_SKIPS (n : Nat) : Obj := ⟨.tt, n, 0x19⟩
abbrev TT_SKIP_FAULT (n : Nat) : Obj := ⟨.tt, n, 0x1A⟩
abbrev TT_SKIP_RELEASE (n : Nat) : Obj := ⟨.tt, n, 0x1B⟩
abbrev TT_CONTROL (n : Nat) : Obj := ⟨.tt, n, 0x1C⟩
abbrev AX_STATUS (n : Nat) : Obj := ⟨.ax, n, 1⟩
abbrev AX_EVENTS (n : Nat) : Obj := ⟨.ax, n, 2⟩
abbrev AX_CONFIG (n : Nat) : Obj := ⟨.ax, n, 3⟩
abbrev AX_CMD (n : Nat) : Obj := ⟨.ax, n, 4⟩
abbrev AX_STATE (n : Nat) : Obj := ⟨.ax, n, 5⟩
abbrev AX_OWNER (n : Nat) : Obj := ⟨.ax, n, 6⟩
abbrev AX_POS (n : Nat) : Obj := ⟨.ax, n, 7⟩
abbrev AX_VEL (n : Nat) : Obj := ⟨.ax, n, 8⟩
abbrev AX_VEL_MEAS (n : Nat) : Obj := ⟨.ax, n, 9⟩
abbrev AX_FOLLOW (n : Nat) : Obj := ⟨.ax, n, 0xA⟩
abbrev AX_LIMIT_LO (n : Nat) : Obj := ⟨.ax, n, 0xB⟩
abbrev AX_LIMIT_HI (n : Nat) : Obj := ⟨.ax, n, 0xC⟩
abbrev AX_VEL_MAX (n : Nat) : Obj := ⟨.ax, n, 0xD⟩
abbrev AX_ACC_MAX (n : Nat) : Obj := ⟨.ax, n, 0xE⟩
abbrev AX_STOP_DEC (n : Nat) : Obj := ⟨.ax, n, 0xF⟩
abbrev AX_STOP_JERK (n : Nat) : Obj := ⟨.ax, n, 0x10⟩
abbrev AX_MV_KIND (n : Nat) : Obj := ⟨.ax, n, 0x11⟩
abbrev AX_MV_TARGET (n : Nat) : Obj := ⟨.ax, n, 0x12⟩
abbrev AX_MV_VEL (n : Nat) : Obj := ⟨.ax, n, 0x13⟩
abbrev AX_MV_ACC (n : Nat) : Obj := ⟨.ax, n, 0x14⟩
abbrev AX_MV_DEC (n : Nat) : Obj := ⟨.ax, n, 0x15⟩
abbrev AX_MV_JERK (n : Nat) : Obj := ⟨.ax, n, 0x16⟩
abbrev AX_MV_FLAGS (n : Nat) : Obj := ⟨.ax, n, 0x17⟩
abbrev AX_MV_PUSH (n : Nat) : Obj := ⟨.ax, n, 0x18⟩
abbrev AX_Q_COUNT (n : Nat) : Obj := ⟨.ax, n, 0x19⟩
abbrev AX_MOVES_DONE (n : Nat) : Obj := ⟨.ax, n, 0x1A⟩
abbrev AX_ENC_RATIO (n : Nat) : Obj := ⟨.ax, n, 0x1B⟩
abbrev AX_FOLLOW_LIMIT (n : Nat) : Obj := ⟨.ax, n, 0x1C⟩
abbrev AX_STILL_SPEED (n : Nat) : Obj := ⟨.ax, n, 0x1D⟩
abbrev AX_SLOW_FACTOR (n : Nat) : Obj := ⟨.ax, n, 0x1E⟩
abbrev AX_SLOW_DEC (n : Nat) : Obj := ⟨.ax, n, 0x1F⟩
abbrev AX_HOME_POS (n : Nat) : Obj := ⟨.ax, n, 0x20⟩
abbrev AX_TRIG_MS (n : Nat) : Obj := ⟨.ax, n, 0x21⟩
abbrev AX_KP (n : Nat) : Obj := ⟨.ax, n, 0x22⟩
abbrev AX_KI (n : Nat) : Obj := ⟨.ax, n, 0x23⟩
abbrev AX_KPOS (n : Nat) : Obj := ⟨.ax, n, 0x24⟩
abbrev AX_HALT_CAUSE (n : Nat) : Obj := ⟨.ax, n, 0x25⟩
abbrev AX_FOLLOW_EXCURSIONS (n : Nat) : Obj := ⟨.ax, n, 0x26⟩
abbrev AX_IG_STATUS (n : Nat) : Obj := ⟨.ig, n, 1⟩
abbrev AX_IG_MEMBERS (n : Nat) : Obj := ⟨.ig, n, 2⟩
abbrev AX_IG_CMD (n : Nat) : Obj := ⟨.ig, n, 3⟩
abbrev AX_IG_VEL (n : Nat) : Obj := ⟨.ig, n, 4⟩
abbrev AX_IG_ACC (n : Nat) : Obj := ⟨.ig, n, 5⟩
abbrev AX_IG_DEC (n : Nat) : Obj := ⟨.ig, n, 6⟩
abbrev AX_IG_JERK (n : Nat) : Obj := ⟨.ig, n, 7⟩
abbrev AX_IG_TARGET (n : Nat) (k : Nat) : Obj := ⟨.ig, n, 8 + k⟩
abbrev AX_IG_PUSH (n : Nat) : Obj := ⟨.ig, n, 0xC⟩
abbrev AX_IG_Q_COUNT (n : Nat) : Obj := ⟨.ig, n, 0xD⟩
abbrev AX_IG_LEAD (n : Nat) : Obj := ⟨.ig, n, 0xE⟩
abbrev DS_STATUS (n : Nat) : Obj := ⟨.ds, n, 1⟩
abbrev DS_EVENTS (n : Nat) : Obj := ⟨.ds, n, 2⟩
abbrev DS_CONFIG (n : Nat) : Obj := ⟨.ds, n, 3⟩
abbrev DS_RSENSE (n : Nat) : Obj := ⟨.ds, n, 4⟩
abbrev DS_I_RUN (n : Nat) : Obj := ⟨.ds, n, 5⟩
abbrev DS_I_HOLD (n : Nat) : Obj := ⟨.ds, n, 6⟩
abbrev DS_HOLD_DELAY (n : Nat) : Obj := ⟨.ds, n, 7⟩
abbrev DS_HOLD_RAMP (n : Nat) : Obj := ⟨.ds, n, 8⟩
abbrev DS_TOFF (n : Nat) : Obj := ⟨.ds, n, 9⟩
abbrev DS_FAST (n : Nat) : Obj := ⟨.ds, n, 0xA⟩
abbrev DS_BLANK (n : Nat) : Obj := ⟨.ds, n, 0xB⟩
abbrev DS_OC_LIMIT (n : Nat) : Obj := ⟨.ds, n, 0xC⟩
abbrev DS_OC_COUNT (n : Nat) : Obj := ⟨.ds, n, 0xD⟩
abbrev DS_PWM_PERIOD (n : Nat) : Obj := ⟨.ds, n, 0xE⟩
abbrev DS_DEAD (n : Nat) : Obj := ⟨.ds, n, 0xF⟩
abbrev DS_I_LIMIT (n : Nat) : Obj := ⟨.ds, n, 0x10⟩
abbrev DS_STEP_RATIO (n : Nat) : Obj := ⟨.ds, n, 0x11⟩
abbrev DS_STEP_LAG (n : Nat) : Obj := ⟨.ds, n, 0x12⟩
abbrev DS_MON_PERIOD (n : Nat) : Obj := ⟨.ds, n, 0x13⟩
abbrev DS_I_MEAS (n : Nat) (k : Nat) : Obj := ⟨.ds, n, 0x14 + k⟩
abbrev DS_DAC (n : Nat) : Obj := ⟨.ds, n, 0x17⟩
abbrev DS_OC_TRIPS (n : Nat) : Obj := ⟨.ds, n, 0x18⟩
abbrev DS_FLT_GLITCHES (n : Nat) : Obj := ⟨.ds, n, 0x19⟩
abbrev DS_MON_MISSED (n : Nat) : Obj := ⟨.ds, n, 0x1A⟩
abbrev DS_LAG_EXCURSIONS (n : Nat) : Obj := ⟨.ds, n, 0x1B⟩

/-- SCR_COMP[e] of port n: entries 0 to 127 at index 0x300D + 0x20·n, 128 to 255 at 0x300E + 0x20·n (Table 6.9). -/
def SCR_COMPE (n e : Nat) : Obj := if e < 128 then ⟨.comp, n, e + 1⟩ else ⟨.comp2, n, e - 127⟩

end O

/-! Names of bits (a number) and fields (`Fld`: lowest bit and width) of the status, event and control objects. -/
namespace B

abbrev CK_STATUS_CLOCK_INHIBIT : Nat := 7
abbrev CK_STATUS_TIME_VALID : Nat := 6
abbrev CK_STATUS_TIME_STEERED : Nat := 5
abbrev CK_STATUS_HOLDOVER : Nat := 4
abbrev CK_STATUS_PCIE_REF_OK : Nat := 3
abbrev CK_STATUS_RTC_XTAL_OK : Nat := 2
abbrev CK_STATUS_REF_OK : Nat := 1
abbrev CK_STATUS_ROOT_LOCKED : Nat := 0
abbrev CK_EVENTS_DL_CAL_FAIL : Nat := 6
abbrev CK_EVENTS_DIV_FAULT : Nat := 5
abbrev CK_EVENTS_PLL_UNLOCK : Nat := 4
abbrev CK_EVENTS_HOLDOVER_EXPIRED : Nat := 3
abbrev CK_EVENTS_REF_LOSS : Nat := 2
abbrev CK_EVENTS_PCIE_REF_LOSS : Nat := 1
abbrev CK_EVENTS_RTC_XTAL_LOSS : Nat := 0
abbrev CK_CONTROL_DL_FREEZE : Nat := 2
abbrev CK_CONTROL_HOLDOVER_EN : Nat := 1
abbrev CK_CONTROL_CLR_INHIBIT : Nat := 0
abbrev FJ_STATUS_NO_MASTER : Nat := 9
abbrev FJ_STATUS_SLOW_RING : Nat := 8
abbrev FJ_STATUS_STEP_DEFERRED : Nat := 7
abbrev FJ_STATUS_NODE_EXCESS : Nat := 6
abbrev FJ_STATUS_PASSIVE : Nat := 5
abbrev FJ_STATUS_RING_HOLDOVER : Nat := 4
abbrev FJ_STATUS_TIME_LOCKED : Nat := 3
abbrev FJ_STATUS_MASTER : Nat := 2
abbrev FJ_STATUS_RING_INTACT : Nat := 1
abbrev FJ_STATUS_IN_LINK_UP : Nat := 0
abbrev FJ_EVENTS_HOP_DELAY_RANGE : Nat := 14
abbrev FJ_EVENTS_FAULT_RX : Nat := 13
abbrev FJ_EVENTS_ACTION_SUSPENDED : Nat := 12
abbrev FJ_EVENTS_ACTION_REFUSED : Nat := 11
abbrev FJ_EVENTS_TIME_STEP : Nat := 10
abbrev FJ_EVENTS_TIME_LOCKED : Nat := 9
abbrev FJ_EVENTS_TIME_LOCK_LOST : Nat := 8
abbrev FJ_EVENTS_NODE_EXCESS : Nat := 7
abbrev FJ_EVENTS_ROSTER_CHANGED : Nat := 6
abbrev FJ_EVENTS_MASTER_CHANGED : Nat := 5
abbrev FJ_EVENTS_RING_HEALED : Nat := 4
abbrev FJ_EVENTS_RING_BREAK : Nat := 3
abbrev FJ_EVENTS_LINK_UP : Nat := 2
abbrev FJ_EVENTS_LINK_DOWN : Nat := 1
abbrev FJ_EVENTS_STEP_DEFERRED : Nat := 0
abbrev FJ_CONTROL_NO_STEP : Nat := 6
abbrev FJ_CONTROL_SLOW_TX_EN : Nat := 5
abbrev FJ_CONTROL_FAULT_TX_EN : Nat := 4
abbrev FJ_CONTROL_REFORM : Nat := 2
abbrev FJ_CONTROL_ECHO_EN : Nat := 1
abbrev FJ_CONTROL_ENABLE : Nat := 0
abbrev TOGGLE_ARG_WIDTH : Fld := ⟨16, 16⟩
abbrev TOGGLE_ARG_OP : Fld := ⟨4, 3⟩
abbrev TOGGLE_ARG_PAIR : Fld := ⟨2, 2⟩
abbrev TOGGLE_ARG_RELAY : Fld := ⟨0, 2⟩
abbrev PI_STATUS_INPUT : Fld := ⟨16, 3⟩
abbrev PI_STATUS_WIRE_BAD : Fld := ⟨8, 3⟩
abbrev PI_STATUS_FAULT : Nat := 7
abbrev PI_STATUS_POS_UNCERTAIN : Nat := 6
abbrev PI_STATUS_STOPPED : Nat := 5
abbrev PI_STATUS_DIR : Nat := 4
abbrev PI_STATUS_Z_SEEN : Nat := 3
abbrev PI_STATUS_HOMED : Nat := 2
abbrev PI_STATUS_BOUND : Nat := 1
abbrev PI_STATUS_ENABLED : Nat := 0
abbrev PI_EVENTS_FAULT : Nat := 7
abbrev PI_EVENTS_COUNT_ERROR : Nat := 6
abbrev PI_EVENTS_WIRE : Nat := 5
abbrev PI_EVENTS_FAST_EDGE : Nat := 4
abbrev PI_EVENTS_INVALID_HALL : Nat := 3
abbrev PI_EVENTS_Z : Nat := 2
abbrev PI_EVENTS_WRAP : Nat := 1
abbrev PI_EVENTS_STOPPED : Nat := 0
abbrev PI_CONFIG_CLR_UNCERTAIN : Nat := 16
abbrev PI_CONFIG_CLR_FAULT : Nat := 15
abbrev PI_CONFIG_WIRE_CHECK_EN : Nat := 11
abbrev PI_CONFIG_SE : Fld := ⟨8, 3⟩
abbrev PI_CONFIG_Z_POL : Nat := 6
abbrev PI_CONFIG_Z_HOME : Nat := 5
abbrev PI_CONFIG_Z_EN : Nat := 4
abbrev PI_CONFIG_INVERT : Nat := 2
abbrev PI_CONFIG_MODE : Fld := ⟨0, 2⟩
abbrev RL_CONFIG_HOLD_ON_FAULT : Nat := 11
abbrev RL_CONFIG_INVERT : Fld := ⟨8, 3⟩
abbrev RL_CONFIG_SOURCE : Fld := ⟨4, 4⟩
abbrev RL_CONFIG_MODE : Fld := ⟨0, 2⟩
abbrev MS_CONTROL_RELAY : Fld := ⟨14, 2⟩
abbrev MS_CONTROL_PAIR : Fld := ⟨12, 2⟩
abbrev MS_CONTROL_OP : Fld := ⟨8, 3⟩
abbrev MS_CONTROL_EVENT_EN : Nat := 6
abbrev MS_CONTROL_ENABLE : Nat := 5
abbrev MS_CONTROL_DIR : Nat := 4
abbrev MS_CONTROL_PI : Fld := ⟨0, 4⟩
abbrev IN_STATUS_PAUSE_LEVEL : Fld := ⟨8, 2⟩
abbrev IN_STATUS_EMPTY : Nat := 4
abbrev IN_STATUS_WAIT_JOB : Nat := 3
abbrev IN_STATUS_WAIT_SPACE : Nat := 2
abbrev IN_STATUS_HALTED : Nat := 1
abbrev IN_STATUS_RUNNING : Nat := 0
abbrev IN_EVENTS_PAUSE_CHANGED : Nat := 8
abbrev IN_EVENTS_SWITCH_LATE : Nat := 7
abbrev IN_EVENTS_JOB_ACTION_VOID : Nat := 6
abbrev IN_EVENTS_JOB_ENDED : Nat := 5
abbrev IN_EVENTS_READ_RETRY : Nat := 4
abbrev IN_EVENTS_OWN_ERROR : Nat := 3
abbrev IN_EVENTS_FETCH_ERROR : Nat := 2
abbrev IN_EVENTS_WAYBILL_ERROR : Nat := 1
abbrev IN_EVENTS_WAYBILL_DONE : Nat := 0
abbrev IN_CONTROL_SKIP : Nat := 3
abbrev IN_CONTROL_RESUME : Nat := 2
abbrev IN_CONTROL_HALT_ON_ERROR : Nat := 1
abbrev IN_CONTROL_RUN : Nat := 0
abbrev BS_STATUS_CH_OK : Fld := ⟨4, 4⟩
abbrev BS_STATUS_SELF_REFRESH : Nat := 2
abbrev BS_STATUS_TRAIN_FAIL : Nat := 1
abbrev BS_STATUS_ONLINE : Nat := 0
abbrev BS_EVENTS_WINDOW_FAULT : Nat := 3
abbrev BS_EVENTS_TRAIN_FAIL : Nat := 2
abbrev BS_EVENTS_ECC_UNCORR : Nat := 1
abbrev BS_EVENTS_ECC_CORRECTED : Nat := 0
abbrev BS_CONFIG_RANKS : Nat := 12
abbrev BS_CONFIG_RATE : Fld := ⟨8, 2⟩
abbrev BS_CONFIG_DENSITY : Fld := ⟨4, 3⟩
abbrev BS_CONFIG_CHANNELS : Nat := 0
abbrev COMP_VALID : Nat := 31
abbrev COMP_ROW : Nat := 30
abbrev COMP_R2 : Fld := ⟨26, 4⟩
abbrev COMP_L2 : Fld := ⟨22, 4⟩
abbrev COMP_R1 : Fld := ⟨18, 4⟩
abbrev COMP_L1 : Fld := ⟨14, 4⟩
abbrev COMP_NOZZLE : Fld := ⟨0, 14⟩
abbrev SCR_STATUS_GEOMETRY_BAD : Nat := 6
abbrev SCR_STATUS_UNCOMP : Nat := 5
abbrev SCR_STATUS_COMP_FULL : Nat := 4
abbrev SCR_STATUS_COPYING : Nat := 3
abbrev SCR_STATUS_COMMIT_PENDING : Nat := 2
abbrev SCR_STATUS_TWIN : Nat := 1
abbrev SCR_STATUS_ACTIVE : Nat := 0
abbrev SCR_EVENTS_PROMOTED : Nat := 6
abbrev SCR_EVENTS_WRITE_DISCARDED : Nat := 5
abbrev SCR_EVENTS_COMP_LOST : Nat := 4
abbrev SCR_EVENTS_GEOMETRY : Nat := 3
abbrev SCR_EVENTS_COMP_OVERFLOW : Nat := 2
abbrev SCR_EVENTS_COMMIT_REFUSED : Nat := 1
abbrev SCR_EVENTS_COMMIT_APPLIED : Nat := 0
abbrev SCR_CONFIG_TONE : Fld := ⟨28, 4⟩
abbrev SCR_CONFIG_TONE_EN : Nat := 27
abbrev SCR_CONFIG_MATRIX : Fld := ⟨20, 4⟩
abbrev SCR_CONFIG_MATRIX_EN : Nat := 19
abbrev SCR_CONFIG_SERPENTINE : Nat := 18
abbrev SCR_CONFIG_COVER : Fld := ⟨14, 2⟩
abbrev SCR_CONFIG_OUT_BITS : Fld := ⟨10, 2⟩
abbrev SCR_CONFIG_MODE : Fld := ⟨0, 2⟩
abbrev ST_CONFIG_BLEND : Fld := ⟨4, 3⟩
abbrev ST_CONFIG_RIGHT_MODE : Fld := ⟨2, 2⟩
abbrev ST_CONFIG_LEFT_MODE : Fld := ⟨0, 2⟩
abbrev ST_STATUS_ZONE_MISMATCH : Nat := 4
abbrev ST_STATUS_REVERSE : Nat := 3
abbrev ST_STATUS_LATE : Nat := 2
abbrev ST_STATUS_PENDING : Nat := 1
abbrev ST_STATUS_ACTIVE : Nat := 0
abbrev ST_EVENTS_WRITE_DISCARDED : Nat := 5
abbrev ST_EVENTS_TILE_INVALID : Nat := 4
abbrev ST_EVENTS_ZONE_MISMATCH : Nat := 3
abbrev ST_EVENTS_APPLIED : Nat := 2
abbrev ST_EVENTS_COUPLED_BLANK : Nat := 1
abbrev ST_EVENTS_PLANE_LATE : Nat := 0
abbrev ST_SHUTTLE_PASS_TILE : Fld := ⟨8, 3⟩
abbrev ST_SHUTTLE_PASSES : Fld := ⟨4, 4⟩
abbrev ST_SHUTTLE_FIRST_REV : Nat := 2
abbrev ST_SHUTTLE_BIDI : Nat := 1
abbrev ST_SHUTTLE_ENABLE : Nat := 0
abbrev LG_STATUS_SRAM_FAIL : Nat := 4
abbrev LG_STATUS_EMPTY : Nat := 3
abbrev LG_STATUS_FULL : Nat := 2
abbrev LG_STATUS_SLOW : Nat := 1
abbrev LG_STATUS_CHECKING : Nat := 0
abbrev LG_EVENTS_SRAM_FAIL : Nat := 6
abbrev LG_EVENTS_ECC_UNCORR : Nat := 5
abbrev LG_EVENTS_ECC_CORRECTED : Nat := 4
abbrev LG_EVENTS_STALE : Nat := 3
abbrev LG_EVENTS_BLANK_LINE : Nat := 2
abbrev LG_EVENTS_SLOW_RELEASED : Nat := 1
abbrev LG_EVENTS_SLOW_RAISED : Nat := 0
abbrev LG_SLOW_STATE_UNIT : Fld := ⟨16, 16⟩
abbrev LG_SLOW_STATE_SOURCE : Fld := ⟨8, 4⟩
abbrev LG_SLOW_STATE_RING : Nat := 5
abbrev LG_SLOW_STATE_HOST : Nat := 4
abbrev LG_SLOW_STATE_THERMAL : Nat := 3
abbrev LG_SLOW_STATE_SKIP : Nat := 2
abbrev LG_SLOW_STATE_LODGING : Nat := 1
abbrev LG_SLOW_STATE_ASSERT : Nat := 0
abbrev TT_PRED_STATUS_PI_FAULT : Nat := 7
abbrev TT_PRED_STATUS_ACC_CLAMPED : Nat := 6
abbrev TT_PRED_STATUS_BOUND : Nat := 5
abbrev TT_PRED_STATUS_REVERSE : Nat := 4
abbrev TT_PRED_STATUS_STALLED : Nat := 3
abbrev TT_PRED_STATUS_LINEAR : Nat := 2
abbrev TT_PRED_STATUS_VALID : Nat := 1
abbrev TT_PRED_STATUS_ENABLED : Nat := 0
abbrev TT_PRED_EVENTS_PI_FAULT : Nat := 4
abbrev TT_PRED_EVENTS_ACC_CLAMP : Nat := 3
abbrev TT_PRED_EVENTS_REVERSAL : Nat := 2
abbrev TT_PRED_EVENTS_STALL_END : Nat := 1
abbrev TT_PRED_EVENTS_STALL : Nat := 0
abbrev TT_PRED_CONFIG_PRINT_DIR : Nat := 2
abbrev TT_PRED_CONFIG_MODE : Fld := ⟨0, 2⟩
abbrev TT_STATUS_OFFSET_SLEWING : Nat := 11
abbrev TT_STATUS_OVERSPEED : Nat := 10
abbrev TT_STATUS_SKIP_SLOW : Nat := 9
abbrev TT_STATUS_LAGGING : Nat := 8
abbrev TT_STATUS_GATE_CLOSED : Nat := 7
abbrev TT_STATUS_HELD : Nat := 6
abbrev TT_STATUS_REVERSE_PASS : Nat := 5
abbrev TT_STATUS_PLACING : Nat := 4
abbrev TT_STATUS_WAIT_JOB : Nat := 3
abbrev TT_STATUS_FIXED_MODE : Nat := 1
abbrev TT_STATUS_ARMED : Nat := 0
abbrev TT_EVENTS_TURN_OPENED : Nat := 11
abbrev TT_EVENTS_OFFSET_DONE : Nat := 10
abbrev TT_EVENTS_SKIP_SLOW_RELEASED : Nat := 9
abbrev TT_EVENTS_OVERSPEED_CLEARED : Nat := 8
abbrev TT_EVENTS_OVERSPEED : Nat := 7
abbrev TT_EVENTS_START_SKIP : Nat := 6
abbrev TT_EVENTS_SKIP : Nat := 5
abbrev TT_EVENTS_RESUME : Nat := 4
abbrev TT_EVENTS_HOLD : Nat := 3
abbrev TT_EVENTS_FIRST_LINE : Nat := 2
abbrev TT_EVENTS_DISARMED : Nat := 1
abbrev TT_EVENTS_ARMED : Nat := 0
abbrev TT_CONFIG_STAGGER_EN : Nat := 12
abbrev TT_CONFIG_STAGGER_PHASE : Fld := ⟨8, 4⟩
abbrev TT_CONFIG_PRED : Fld := ⟨0, 4⟩
abbrev HEAD_UNIT_ERR : Nat := 9
abbrev HEAD_ROT_ERR : Nat := 8
abbrev HEAD_MISSING : Nat := 7
abbrev HEAD_HEAD_HOT : Nat := 6
abbrev HEAD_SUPPLY_LOW : Nat := 5
abbrev HEAD_HEAD_FAULT : Nat := 4
abbrev HEAD_WRITE_BUSY : Nat := 3
abbrev HEAD_ALIGNED : Nat := 2
abbrev HEAD_LOCK1 : Nat := 1
abbrev HEAD_LOCK0 : Nat := 0
abbrev HP_STATE_CMD_BUSY : Nat := 11
abbrev HP_STATE_INHIBITED : Nat := 10
abbrev HP_STATE_RET_LINK : Nat := 9
abbrev HP_STATE_CALIB_SLOT : Nat := 8
abbrev HP_STATE_CALIB_VALID : Nat := 7
abbrev HP_STATE_RC_VALID : Nat := 6
abbrev HP_STATE_HEAD_PRESENT : Nat := 5
abbrev HP_STATE_LINK : Fld := ⟨0, 3⟩
abbrev HP_CONTROL_RETRY_EN : Nat := 3
abbrev HP_CONTROL_RETIRE : Nat := 2
abbrev HP_CONTROL_CLR_RETIRE : Nat := 1
abbrev HP_CONTROL_BRINGUP : Nat := 0
abbrev HP_LINK_STATUS_CMD_FAIL : Nat := 14
abbrev HP_LINK_STATUS_SILENT : Nat := 13
abbrev HP_LINK_STATUS_LOCK_LOST : Nat := 12
abbrev HP_LINK_STATUS_ROT_ERR : Nat := 11
abbrev HP_LINK_STATUS_HEAD_FAULT : Nat := 10
abbrev HP_LINK_STATUS_RETIRED : Nat := 9
abbrev HP_LINK_STATUS_STALE : Nat := 8
abbrev HP_LINK_STATUS_RET_ERROR : Nat := 7
abbrev HP_LINK_STATUS_ACK_TIMEOUT : Nat := 6
abbrev HP_LINK_STATUS_HEAD_BLANK : Nat := 5
abbrev HP_LINK_STATUS_NAK : Nat := 4
abbrev HP_LINK_STATUS_RC_INVALID : Nat := 3
abbrev HP_LINK_STATUS_TRAIN_FAIL : Nat := 2
abbrev HP_LINK_STATUS_LINK_DOWN : Nat := 1
abbrev HP_LINK_STATUS_LINK_UP : Nat := 0
abbrev HP_PT_STATUS_MAP_WAIT : Nat := 3
abbrev HP_PT_STATUS_PENDING : Nat := 2
abbrev HP_PT_STATUS_SHADOW_VALID : Nat := 1
abbrev HP_PT_STATUS_VALID : Nat := 0
abbrev HP_FIRE_STATUS_CLAMPED : Nat := 4
abbrev HP_FIRE_STATUS_WARMING : Nat := 3
abbrev HP_FIRE_STATUS_ROTATING : Nat := 2
abbrev HP_FIRE_STATUS_GROUP_ON : Nat := 1
abbrev HP_FIRE_STATUS_TRAIN_VALID : Nat := 0
abbrev HP_FIRE_EVENTS_TRAIN_REFUSED : Nat := 3
abbrev HP_FIRE_EVENTS_TRAIN_APPLIED : Nat := 2
abbrev HP_FIRE_EVENTS_STALE_BLANK : Nat := 1
abbrev HP_FIRE_EVENTS_CLAMP_BLANK : Nat := 0
abbrev HP_FIRE_CONTROL_WARM_BETWEEN : Nat := 0
abbrev HP_PG_STATUS_FAULT_CAUSE : Nat := 7
abbrev HP_PG_STATUS_INHIBITED : Nat := 6
abbrev HP_PG_STATUS_V_STALE : Nat := 5
abbrev HP_PG_STATUS_CLAMP : Nat := 4
abbrev HP_PG_STATUS_HPEN : Nat := 3
abbrev HP_PG_STATUS_STATE : Fld := ⟨0, 3⟩
abbrev HP_PG_EVENTS_PEAK_OVER : Nat := 5
abbrev HP_PG_EVENTS_ON : Nat := 4
abbrev HP_PG_EVENTS_FAULT : Nat := 3
abbrev HP_PG_EVENTS_V_STALE : Nat := 2
abbrev HP_PG_EVENTS_CLAMP_EXIT : Nat := 1
abbrev HP_PG_EVENTS_CLAMP_ENTER : Nat := 0
abbrev HP_PG_CONTROL_CLR_STATS : Nat := 2
abbrev HP_PG_CONTROL_CLR_FAULT : Nat := 1
abbrev HP_PG_CONTROL_ENABLE : Nat := 0
abbrev DEEP_RESULT_CLASS : Fld := ⟨28, 2⟩
abbrev DEEP_RESULT_D : Fld := ⟨16, 12⟩
abbrev DEEP_RESULT_S : Fld := ⟨0, 16⟩
abbrev HP_HEALTH_STATUS_REC_DISABLED : Nat := 16
abbrev HP_HEALTH_STATUS_REC_BUSY : Nat := 15
abbrev HP_HEALTH_STATUS_REC_PENDING : Nat := 14
abbrev HP_HEALTH_STATUS_RANK_OVER : Nat := 13
abbrev HP_HEALTH_STATUS_DEEP_RUNNING : Nat := 12
abbrev HP_HEALTH_STATUS_R_VALID : Nat := 11
abbrev HP_HEALTH_STATUS_SNS_FAULT : Nat := 10
abbrev HP_HEALTH_STATUS_SUSPECT : Nat := 9
abbrev HP_HEALTH_STATUS_ROLL_ACTIVE : Nat := 8
abbrev HP_HEALTH_STATUS_REG_ACTIVE : Nat := 7
abbrev HP_HEALTH_STATUS_THERMAL_SLOW : Nat := 6
abbrev HP_HEALTH_STATUS_PAUSE : Nat := 5
abbrev HP_HEALTH_STATUS_INHIBITED : Nat := 4
abbrev HP_HEALTH_STATUS_TEMP_STALE : Nat := 3
abbrev HP_HEALTH_STATUS_THERMAL : Fld := ⟨0, 3⟩
abbrev HP_HEALTH_EVENTS_TWIN_FAIL : Nat := 14
abbrev HP_HEALTH_EVENTS_TWIN_TOOK : Nat := 13
abbrev HP_HEALTH_EVENTS_PAUSE_STARTED : Nat := 12
abbrev HP_HEALTH_EVENTS_STALE_RESULT : Nat := 11
abbrev HP_HEALTH_EVENTS_DEEP_DONE : Nat := 10
abbrev HP_HEALTH_EVENTS_REC_FAIL : Nat := 9
abbrev HP_HEALTH_EVENTS_REC_WRITTEN : Nat := 8
abbrev HP_HEALTH_EVENTS_RANK_CHANGED : Nat := 7
abbrev HP_HEALTH_EVENTS_COOLED : Nat := 6
abbrev HP_HEALTH_EVENTS_BROKEN : Nat := 5
abbrev HP_HEALTH_EVENTS_HOT : Nat := 4
abbrev HP_HEALTH_EVENTS_WARM : Nat := 3
abbrev HP_HEALTH_EVENTS_SNS_FAULT : Nat := 2
abbrev HP_HEALTH_EVENTS_TRANSIENT : Nat := 1
abbrev HP_HEALTH_EVENTS_CONFIRMED : Nat := 0
abbrev HP_HEALTH_CONTROL_CLR_BROKEN : Nat := 6
abbrev HP_HEALTH_CONTROL_CLR_SNS_FAULT : Nat := 5
abbrev HP_HEALTH_CONTROL_DEEP_MASK : Nat := 4
abbrev HP_HEALTH_CONTROL_REC_ON_MASK : Nat := 3
abbrev HP_HEALTH_CONTROL_RESTORE_MASK : Nat := 2
abbrev HP_HEALTH_CONTROL_REG_EN : Nat := 1
abbrev HP_HEALTH_CONTROL_ROLL_EN : Nat := 0
abbrev HP_TWIN_STATUS_SERVER : Fld := ⟨8, 8⟩
abbrev HP_TWIN_STATUS_UNSERVED : Nat := 4
abbrev HP_TWIN_STATUS_ELIGIBLE : Nat := 3
abbrev HP_TWIN_STATUS_STANDBY : Nat := 2
abbrev HP_TWIN_STATUS_AS_TWIN : Nat := 1
abbrev HP_TWIN_STATUS_SERVING : Nat := 0
abbrev SB_STATUS_STORE_BUSY : Nat := 9
abbrev SB_STATUS_CUT_STORM : Nat := 8
abbrev SB_STATUS_VREF_SUSPECT : Nat := 7
abbrev SB_STATUS_REF_FAULT : Nat := 6
abbrev SB_STATUS_RAMPING : Nat := 5
abbrev SB_STATUS_CAL_AGAIN : Nat := 4
abbrev SB_STATUS_CAL_RUNNING : Nat := 3
abbrev SB_STATUS_STORE_LOADED : Nat := 2
abbrev SB_STATUS_UNCALIBRATED : Nat := 1
abbrev SB_STATUS_ENABLED : Nat := 0
abbrev SB_EVENTS_HOST_DONE : Nat := 9
abbrev SB_EVENTS_STORE_FAIL : Nat := 8
abbrev SB_EVENTS_STORE_DONE : Nat := 7
abbrev SB_EVENTS_CONV_RETIRED : Nat := 6
abbrev SB_EVENTS_CONV_TIMEOUT : Nat := 5
abbrev SB_EVENTS_CAL_FAIL : Nat := 4
abbrev SB_EVENTS_CAL_DONE : Nat := 3
abbrev SB_EVENTS_VREF_SUSPECT : Nat := 2
abbrev SB_EVENTS_REF_FAULT : Nat := 1
abbrev SB_EVENTS_HOLD_CUT : Nat := 0
abbrev SB_CONTROL_CLR_RETIRED : Nat := 4
abbrev SB_CONTROL_CLR_STATS : Nat := 3
abbrev SB_CONTROL_CAL_START : Nat := 2
abbrev SB_CONTROL_TEMP_CAL_EN : Nat := 1
abbrev SB_CONTROL_AUTO_LOAD : Nat := 0
abbrev SB_HOST_CMD_ACQ : Fld := ⟨16, 8⟩
abbrev SB_HOST_CMD_COUNT : Fld := ⟨8, 6⟩
abbrev SB_HOST_CMD_INPUT : Fld := ⟨0, 8⟩
abbrev MT_EVENTS_CAP_CHANGED : Nat := 6
abbrev MT_EVENTS_ACTION_REFUSED : Nat := 5
abbrev MT_EVENTS_REFUSED : Nat := 4
abbrev MT_EVENTS_PARTIAL : Nat := 3
abbrev MT_EVENTS_ABORTED : Nat := 2
abbrev MT_EVENTS_FAILED : Nat := 1
abbrev MT_EVENTS_DONE : Nat := 0
abbrev MT_STATION_RETURN : Nat := 8
abbrev MT_STATION_AXIS : Fld := ⟨0, 5⟩
abbrev AX_STATUS_SLOWED : Nat := 11
abbrev AX_STATUS_TURN_HOLD : Nat := 10
abbrev AX_STATUS_TRIG_WAIT : Nat := 9
abbrev AX_STATUS_AT_LIMIT : Nat := 8
abbrev AX_STATUS_ENC_LOST : Nat := 7
abbrev AX_STATUS_POS_UNCERTAIN : Nat := 6
abbrev AX_STATUS_HOMED : Nat := 5
abbrev AX_STATUS_IN_GROUP : Nat := 4
abbrev AX_STATUS_QUEUE_FULL : Nat := 3
abbrev AX_STATUS_OUTPUTS_OFF : Nat := 2
abbrev AX_STATUS_IN_POSITION : Nat := 1
abbrev AX_STATUS_ENABLED : Nat := 0
abbrev AX_EVENTS_NOT_STILL : Nat := 11
abbrev AX_EVENTS_RESOURCE_CONFLICT : Nat := 10
abbrev AX_EVENTS_LIMIT_OVER : Nat := 9
abbrev AX_EVENTS_LIMIT_STOP : Nat := 8
abbrev AX_EVENTS_HOMED : Nat := 7
abbrev AX_EVENTS_FOLLOW : Nat := 6
abbrev AX_EVENTS_FAULT : Nat := 5
abbrev AX_EVENTS_HALTED : Nat := 4
abbrev AX_EVENTS_STOPPED : Nat := 3
abbrev AX_EVENTS_QUEUE_FULL : Nat := 2
abbrev AX_EVENTS_QUEUE_EMPTY : Nat := 1
abbrev AX_EVENTS_MOVE_DONE : Nat := 0
abbrev AX_CONFIG_LIMIT_EN : Nat := 27
abbrev AX_CONFIG_POS_LOOP : Nat := 26
abbrev AX_CONFIG_TRIG_EN : Nat := 25
abbrev AX_CONFIG_HALL_PI : Fld := ⟨16, 5⟩
abbrev AX_CONFIG_ENC_PI : Fld := ⟨8, 5⟩
abbrev AX_CONFIG_PRED : Fld := ⟨4, 4⟩
abbrev AX_CONFIG_ROLE : Fld := ⟨0, 2⟩
abbrev AX_MV_FLAGS_HOME : Nat := 4
abbrev AX_MV_FLAGS_TRIG : Nat := 3
abbrev AX_MV_FLAGS_WAIT_TURN : Nat := 2
abbrev AX_MV_FLAGS_BLEND : Nat := 1
abbrev AX_MV_FLAGS_REPLACE : Nat := 0
abbrev DS_STATUS_FLT_IN : Nat := 6
abbrev DS_STATUS_STEP_FOLLOW : Nat := 5
abbrev DS_STATUS_HOLD : Nat := 4
abbrev DS_STATUS_FAULT : Nat := 3
abbrev DS_STATUS_OUTPUTS_OFF : Nat := 2
abbrev DS_STATUS_TABLE_VALID : Nat := 1
abbrev DS_STATUS_CONFIGURED : Nat := 0
abbrev DS_EVENTS_WRITE_DISCARDED : Nat := 8
abbrev DS_EVENTS_HALL_INVALID : Nat := 7
abbrev DS_EVENTS_STEP_LAG : Nat := 6
abbrev DS_EVENTS_OPEN_PHASE : Nat := 5
abbrev DS_EVENTS_OC_FAULT : Nat := 4
abbrev DS_EVENTS_OC_TRIP : Nat := 3
abbrev DS_EVENTS_BRIDGE_FAULT : Nat := 2
abbrev DS_EVENTS_FLT_GLITCH : Nat := 1
abbrev DS_EVENTS_HOLD_ENTERED : Nat := 0
abbrev DS_CONFIG_STEP_PI : Fld := ⟨20, 4⟩
abbrev DS_CONFIG_STEP_MODE : Nat := 19
abbrev DS_CONFIG_HALL_SHIFT : Fld := ⟨16, 3⟩
abbrev DS_CONFIG_SINE : Fld := ⟨10, 2⟩
abbrev DS_CONFIG_DECAY : Fld := ⟨8, 2⟩
abbrev DS_CONFIG_PWM_MODE : Fld := ⟨6, 2⟩
abbrev DS_CONFIG_POL_L : Nat := 5
abbrev DS_CONFIG_POL_H : Nat := 4
abbrev DS_CONFIG_FLT_EN : Nat := 3
abbrev MD_DICT_EVENTS_HB_LOST : Nat := 8
abbrev MD_DICT_EVENTS_SYNC_TIMEOUT : Nat := 7
abbrev MD_DICT_EVENTS_RPDO_TIMEOUT : Nat := 6
abbrev MD_DICT_EVENTS_RPDO_LENGTH : Nat := 5
abbrev MD_DICT_EVENTS_RPDO_REFUSED : Nat := 4
abbrev MD_DICT_EVENTS_USDO_TIMEOUT : Nat := 3
abbrev MD_DICT_EVENTS_USDO_REFUSED : Nat := 2
abbrev MD_DICT_EVENTS_PARTIAL : Nat := 1
abbrev MD_DICT_EVENTS_ABORT : Nat := 0
abbrev MD_CAN_STATUS_LOCKED_OFF : Nat := 6
abbrev MD_CAN_STATUS_TDC_ACTIVE : Nat := 5
abbrev MD_CAN_STATUS_ACTIVE_LINE : Nat := 4
abbrev MD_CAN_STATUS_ERROR_STATE : Fld := ⟨2, 2⟩
abbrev MD_CAN_STATUS_ON_BUS : Nat := 1
abbrev MD_CAN_STATUS_ENABLED : Nat := 0
abbrev MD_CAN_EVENTS_LOCKED_OFF : Nat := 6
abbrev MD_CAN_EVENTS_TX_DROPPED : Nat := 5
abbrev MD_CAN_EVENTS_RX_OVERRUN : Nat := 4
abbrev MD_CAN_EVENTS_LINE_SWITCH : Nat := 3
abbrev MD_CAN_EVENTS_RECOVERED : Nat := 2
abbrev MD_CAN_EVENTS_ERROR_PASSIVE : Nat := 1
abbrev MD_CAN_EVENTS_BUS_OFF : Nat := 0
abbrev MD_CAN_CONFIG_AUTO_RECOVER : Nat := 14
abbrev MD_CAN_CONFIG_TDC_EN : Nat := 13
abbrev MD_CAN_CONFIG_BRS_EN : Nat := 12
abbrev MD_CAN_CONFIG_DATA_RATE : Fld := ⟨8, 3⟩
abbrev MD_CAN_CONFIG_NOM_RATE : Fld := ⟨4, 2⟩
abbrev MD_CAN_CONFIG_ENABLE : Nat := 0
abbrev EV_STATUS_BUF_FILL : Fld := ⟨16, 10⟩
abbrev EV_STATUS_PHASE : Nat := 2
abbrev EV_STATUS_Q_FULL : Nat := 1
abbrev EV_STATUS_Q_ACTIVE : Nat := 0
abbrev EV_EVENTS_Q_LOST : Nat := 1
abbrev EV_EVENTS_BUF_OVERFLOW : Nat := 0
abbrev EV_CONTROL_Q_EN : Nat := 0
abbrev DM_CH_CONFIG_TRIGGER : Fld := ⟨22, 10⟩
abbrev DM_CH_CONFIG_TRIG_EN : Nat := 21
abbrev DM_CH_CONFIG_PACE_ROW : Nat := 20
abbrev DM_CH_CONFIG_PRIO : Fld := ⟨18, 2⟩
abbrev DM_CH_CONFIG_DESC_SPACE : Nat := 16
abbrev DM_CH_CONFIG_LINK : Fld := ⟨11, 5⟩
abbrev DM_CH_CONFIG_LINK_EN : Nat := 10
abbrev DM_CH_STATUS_CREDITS : Fld := ⟨16, 16⟩
abbrev DM_CH_STATUS_ERR_CODE : Fld := ⟨8, 8⟩
abbrev DM_CH_STATUS_ERR_DIR : Nat := 7
abbrev DM_CH_STATUS_RESOURCE : Nat := 6
abbrev DM_CH_STATUS_LINK_MISSED : Nat := 5
abbrev DM_CH_STATUS_OVERRUN : Nat := 4
abbrev DM_CH_STATUS_STATE : Fld := ⟨0, 3⟩
abbrev MD_INHIBIT_STATUS_MOTION_OFF : Nat := 10
abbrev MD_INHIBIT_STATUS_MOTION_STOP : Nat := 9
abbrev MD_INHIBIT_STATUS_FIRE : Nat := 8
abbrev MD_INHIBIT_STATUS_CLOCK : Nat := 7
abbrev MD_INHIBIT_STATUS_SUPPLY_HIGH : Nat := 6
abbrev MD_INHIBIT_STATUS_RING_MOTION : Nat := 5
abbrev MD_INHIBIT_STATUS_RING_FIRE : Nat := 4
abbrev MD_INHIBIT_STATUS_THERMAL : Nat := 3
abbrev MD_INHIBIT_STATUS_HOST_MOTION : Nat := 2
abbrev MD_INHIBIT_STATUS_HOST_FIRE : Nat := 1
abbrev MD_INHIBIT_STATUS_PIN : Nat := 0
abbrev SU_STATUS_PG_OV : Fld := ⟨24, 8⟩
abbrev SU_STATUS_HIGH : Fld := ⟨16, 8⟩
abbrev SU_STATUS_LOW : Fld := ⟨8, 8⟩
abbrev SU_STATUS_DRIFT : Nat := 4
abbrev SU_STATUS_SAG : Nat := 3
abbrev SU_STATUS_DIP : Nat := 2
abbrev SU_STATUS_CURFEW_HOLD : Nat := 1
abbrev SU_STATUS_CURFEW : Nat := 0
abbrev SU_EVENTS_DEFERRED : Nat := 8
abbrev SU_EVENTS_PG_OV : Nat := 7
abbrev SU_EVENTS_RAIL : Nat := 6
abbrev SU_EVENTS_DRIFT : Nat := 5
abbrev SU_EVENTS_SURGE : Nat := 4
abbrev SU_EVENTS_SAG : Nat := 3
abbrev SU_EVENTS_DIP_END : Nat := 2
abbrev SU_EVENTS_CURFEW_END : Nat := 1
abbrev SU_EVENTS_CURFEW : Nat := 0
abbrev BK_STATUS_RTC_SET : Nat := 9
abbrev BK_STATUS_RTC_RC : Nat := 8
abbrev BK_STATUS_UNLEARNED : Nat := 7
abbrev BK_STATUS_CELL_ABSENT : Nat := 6
abbrev BK_STATUS_CHARGER : Fld := ⟨4, 2⟩
abbrev BK_STATUS_EMPTY : Nat := 3
abbrev BK_STATUS_LOW : Nat := 2
abbrev BK_STATUS_WAKE : Nat := 1
abbrev BK_STATUS_ALARM : Nat := 0
abbrev BK_EVENTS_BACKUP_POR : Nat := 8
abbrev BK_EVENTS_GAUGE_UNLEARNED : Nat := 7
abbrev BK_EVENTS_CHG_FAULT : Nat := 6
abbrev BK_EVENTS_CELL_REMOVED : Nat := 5
abbrev BK_EVENTS_CHG_FULL : Nat := 4
abbrev BK_EVENTS_MAIN_RETURNED : Nat := 3
abbrev BK_EVENTS_EMPTY : Nat := 2
abbrev BK_EVENTS_LOW : Nat := 1
abbrev BK_EVENTS_RTC_ALARM : Nat := 0
abbrev BT_STATUS_QSPI_BUSY : Nat := 5
abbrev BT_STATUS_RECOVERY_ALLOWED : Nat := 4
abbrev BT_STATUS_RECOVERY_WAIT : Nat := 3
abbrev BT_STATUS_FALLBACK : Nat := 2
abbrev BT_STATUS_UNSIGNED : Nat := 1
abbrev BT_STATUS_BOOT_DONE : Nat := 0
abbrev BT_EVENTS_QSPI_FAIL : Nat := 4
abbrev BT_EVENTS_QSPI_DONE : Nat := 3
abbrev BT_EVENTS_RECOVERY_DONE : Nat := 2
abbrev BT_EVENTS_FALLBACK : Nat := 1
abbrev BT_EVENTS_IMAGE_REJECTED : Nat := 0
abbrev OT_STATUS_CRC_BAD : Fld := ⟨8, 8⟩
abbrev OT_STATUS_BURN_BUSY : Nat := 5
abbrev OT_STATUS_LC_PARTIAL : Nat := 4
abbrev OT_STATUS_WEAK_PERM : Nat := 2
abbrev OT_STATUS_WEAK : Nat := 1
abbrev OT_STATUS_SCAN_DONE : Nat := 0
abbrev OT_EVENTS_SPARE_USED : Nat := 6
abbrev OT_EVENTS_LC_REFUSED : Nat := 5
abbrev OT_EVENTS_BURN_FAIL : Nat := 4
abbrev OT_EVENTS_BURN_DONE : Nat := 3
abbrev OT_EVENTS_CRC_BAD : Nat := 2
abbrev OT_EVENTS_OTP_WEAK_PERM : Nat := 1
abbrev OT_EVENTS_OTP_WEAK : Nat := 0
abbrev FI_STATUS_HOLDING : Nat := 3
abbrev FI_STATUS_ACTIVE : Nat := 2
abbrev FI_STATUS_ARMED : Nat := 1
abbrev FI_STATUS_UNLOCKED : Nat := 0
abbrev FI_EVENTS_COLLIDED : Nat := 3
abbrev FI_EVENTS_CANCELLED : Nat := 2
abbrev FI_EVENTS_REFUSED : Nat := 1
abbrev FI_EVENTS_DONE : Nat := 0
abbrev FI_CONTROL_TO_RING : Nat := 0
abbrev MD_PIN_OWNER_MX1 : Fld := ⟨2, 2⟩
abbrev MD_PIN_OWNER_MX0 : Fld := ⟨0, 2⟩
abbrev MD_PIN_EVENTS_PIN_CONFLICT : Nat := 0

end B

end Sys2Proof.Machine
end

