-- ==== Sys2Proof/Machine/Units.lean ====
section
/-! DEFINITION. The state of each unit that no dictionary object shows: lines in flight, time marks, windows,
positions in a sequence. Every structure is plain data; each carries its reset value as the field default. -/
namespace Sys2Proof.Machine

/-! ### Jobs, bands and lines (chapters 5 to 8) -/

/-- A plane of a job table (Table 5.5). -/
structure Plane where
  code : Nat := 0
  res : Bool := false
  ink : Nat := 0
  width : Nat := 0
  deriving DecidableEq, Repr

/-- A stripe of a job table (Table 5.5). -/
structure Stripe where
  plane : Nat := 0
  port : Nat := 0
  cols : Nat := 0
  first : Nat := 0
  deriving DecidableEq, Repr

/-- A band directory entry (Table 5.7). -/
structure BandEnt where
  tiled : Bool := false
  size : Nat := 0
  offset : Nat := 0
  deriving DecidableEq, Repr

/-- A committed band: its index and lines, its pages in the band area in block order, its directory, the ports that have
not yet done with its last line (R14), and whether a line of it has been handed to Lodging (R121). -/
structure Band where
  idx : Nat := 0
  lines : Nat := 0
  pages : List Nat := []
  ents : List BandEnt := []
  left : List Nat := []
  handed : Bool := false
  deriving DecidableEq, Repr

/-- What a job slot holds beside its dictionary objects (R105, R110, R119, R120, R134, R230). -/
structure Job where
  planes : List Plane := []
  stripes : List Stripe := []
  bands : List Band := []
  /-- order in which the job became eligible; 0 while it is not (R119) -/
  elig : Nat := 0
  /-- repetitions set by a REPEAT accepted in DRAINING (Table 5.9) -/
  repSet : Bool := false
  gap : Nat := 0
  /-- sequence number of line 0 of each repetition begun in the present run (R207, R231), and the gap before it -/
  bases : List (Nat × Nat) := []
  /-- number of the present run, which orders its lines after those of earlier runs (R221) -/
  run : Nat := 0
  /-- origin taken by each predictor at the job's release (R230) -/
  origins : List (Nat × Nat) := []
  /-- band after which the job is switched away, and the slot of the new job (R123) -/
  switchAt : Option (Nat × Nat) := none
  /-- planes abandoned: plane, band and repetition (R133) -/
  bad : List (Nat × Nat × Nat) := []
  /-- planes marked failed (R134) -/
  failed : List Nat := []
  aborted : Bool := false
  /-- server and epoch of each stripe, by stripe; server 0xFF for none (R320) -/
  srv : List (Nat × Nat × Nat) := []
  deriving DecidableEq, Repr

/-- A line in the pipeline with its tag (R18, R189). `run`, `pass`, `place` order it (R221); `num` is q or x. -/
structure Line where
  job : Nat := 0
  jid : Nat := 0
  stripe : Nat := 0
  rep : Nat := 0
  run : Nat := 0
  pass : Nat := 0
  place : Nat := 0
  num : Nat := 0
  /-- line index in the present repetition (R156) -/
  idx : Nat := 0
  band : Nat := 0
  /-- a blank line between repetitions, which belongs to no band (R119, R188) -/
  gap : Bool := false
  /-- first and last line of its band, and last of its pass, in lane order -/
  first : Bool := false
  last : Bool := false
  passEnd : Bool := false
  /-- first line of a repetition or of a job in this lane (R160) -/
  startsRun : Bool := false
  rev : Bool := false
  epoch : Nat := 0
  blank : Bool := false
  skip : Bool := false
  data : List Nat := []
  deriving DecidableEq, Repr

/-- A decode lane, screener lane and stitcher of one port (chapters 5 to 7). -/
structure Lane where
  /-- the job slot and the stripe served, if any -/
  serves : Option (Nat × Nat) := none
  /-- the stripe that follows once the present one has ended (R123) -/
  next : Option (Nat × Nat) := none
  /-- the present stripe, and the one that follows, did not fit at their job's entry (R144) -/
  geoBad : Bool := false
  nextBad : Bool := false
  twin : Bool := false
  rep : Nat := 0
  gapLeft : Nat := 0
  /-- bands of the repetition begun before the present one, in the lane's order (R182) -/
  ord : Nat := 0
  /-- lines of the band already handed on -/
  li : Nat := 0
  /-- the lane's next line is its first of a repetition, of a job or as twin (R160) -/
  fresh : Bool := true
  /-- lines from the unpacker that wait for the screener lane -/
  raw : List Line := []
  /-- screened lines that wait for the stitcher -/
  coded : List Line := []
  /-- diffusion errors D of the line above (R159) -/
  diff : List Int := []
  /-- value of the pending SCR_COMMIT, 0 for none (R167) -/
  commit : Nat := 0
  /-- band and repetition the stitcher has begun -/
  stBand : Option (Nat × Nat) := none
  /-- bands blanked as late at this port, newest first: band and repetition (R186, R187) -/
  lateDone : List (Nat × Nat) := []
  deriving DecidableEq, Repr

/-- The screener's live level table and shift of one port; the shadow bank is the dictionary objects (R166, R169). -/
structure ScrLive where
  shift : Nat := 0
  nlev : Nat := 2
  levels : List Nat := [0, 1023, 0, 0, 0, 0, 0, 0]
  deriving DecidableEq, Repr

/-- Masked nozzles of a port and who holds each beside its compensation entry (R147, R161). -/
structure Masks where
  byRoll : List Nat := []
  byHost : List Nat := []
  /-- all masked nozzles, in rising order -/
  all : List Nat := []
  deriving DecidableEq, Repr

/-- A health record write in progress (R316, R317): the slot (0 A, 1 B) and SEQ written, the words of LIFE_COUNT read so
far, and the WRITEs still to send. -/
structure RecWrite where
  slot : Nat := 0
  seq : Nat := 0
  /-- the body as it stands at the start, before and behind LIFE -/
  pre : List Nat := []
  post : List Nat := []
  life : List Nat := []
  todo : List (Nat × Nat) := []
  deriving DecidableEq, Repr

/-- A reading of a head's sense wire that a UNIT_ERR can still void (R257, R301): the press time it began, the nozzle of a deep
test it completed, the place of a FAST_ROLL activity, and what roll call held before it. -/
structure Reading where
  began : Nat := 0
  deep : Option Nat := none
  fast : Option (Nat × Nat) := none
  next : Nat := 0
  suspect : Option Nat := none
  sinceRef : Nat := 0
  refFails : Nat := 0
  refDue : Bool := false
  confirms : List Bool := []
  rs : List Nat := []
  rCount : Nat := 0
  mean : Nat := 0
  meanOk : Bool := false
  badRow : Nat := 0
  tempDue : Bool := false
  temp : Nat := 0
  tempAt : Option Nat := none
  deriving DecidableEq, Repr

/-- Head health of a port, beside its objects (R298 to R318). -/
structure Health where
  suspect : Option Nat := none
  /-- readings since the last REF reading, and failed REF readings in a row (R305) -/
  sinceRef : Nat := 0
  refFails : Nat := 0
  refDue : Bool := false
  /-- the newest 64 readings, newest first: whether each confirmed a fault -/
  confirms : List Bool := []
  /-- the newest 1,024 GOOD and DRIFT readings in 0.01 Ω, newest first, and how many since the link came up -/
  rs : List Nat := []
  rCount : Nat := 0
  /-- consecutive implausible temperature readings, and the press time of the newest plausible one -/
  badRow : Nat := 0
  tempAt : Option Nat := none
  /-- press time at which the link came up, from which the age counts before the first reading -/
  upAt : Nat := 0
  /-- HEAD_HOT of the last STATUS (R310) -/
  hot : Bool := false
  /-- a temperature reading is due (R308) -/
  tempDue : Bool := false
  /-- uptimes at which an idle reading and a temperature reading last fell due -/
  idleAt : Option Nat := none
  tempRdAt : Option Nat := none
  /-- readings completed in the last 20 µs, newest first -/
  past : List Reading := []
  /-- cause of the pending record, whether only a mask asks for it, uptime of the last start, failures in a row -/
  recCause : Nat := 0
  recByMask : Bool := false
  recAt : Option Nat := none
  recHold : Option Nat := none
  recFailRow : Nat := 0
  recWrite : Option RecWrite := none
  /-- SEQ of the calibration slot in force -/
  calSeq : Nat := 0
  /-- nozzles roll call confirmed or the deep test masked: 0 OPEN or DRY, 1 SHORT or COLD -/
  found : List (Nat × Nat) := []
  deriving DecidableEq, Repr

/-- Lodging of a port (R189 to R196). -/
structure Lodge where
  lines : List Line := []
  /-- the fill has reached LG_SLOW_OFF or LG_DEPTH_EFF lines were taken since the stripe began (R195) -/
  primed : Bool := false
  taken : Nat := 0
  /-- uptime at which the fill last rose to LG_SLOW_OFF while SLOW stands (R196) -/
  holdSince : Option Nat := none
  /-- uncorrectable lines among the newest lines handed on (R194) -/
  handed : Nat := 0
  badAt : List Nat := []
  deriving DecidableEq, Repr

/-- States of a line at the Timetable (Table 8.2), QUEUED apart. -/
inductive TSt where
  | released | held | fixed | firing
  deriving DecidableEq, Repr

/-- A place in a port's printing order (R221). -/
structure TKey where
  run : Nat := 0
  pass : Nat := 0
  place : Nat := 0
  deriving DecidableEq, Repr

/-- A line the Timetable has released and not yet done with (Table 8.2). -/
structure TLine where
  line : Line := {}
  st : TSt := .released
  /-- position in pu, with the offset in force at release (R233) -/
  pos : Nat := 0
  time : Nat := 0
  lag : Nat := 0
  lseq : Nat := 0
  /-- first FI edge of a maintenance rotation, given beforehand (R355, R306) -/
  edge : Option Nat := none
  /-- frame: 0 none, 1 outstanding, 2 acknowledged, 3 refused for good, 4 refused and to be sent again -/
  frame : Nat := 0
  latched : Bool := false
  /-- widths latched for the rotation (R280), and whether energy regulation blanked it -/
  widths : List Nat := []
  noDrive : Bool := false
  /-- flags of the ROT_RESET sent -/
  flags : Nat := 0
  /-- the frame sent carries a code for a nozzle masked since (R148) -/
  stale : Bool := false
  /-- evaluated while start skips are allowed (R224) -/
  start : Bool := false
  deriving DecidableEq, Repr

/-- The scheduler TT_HEAD[n] (chapter 8). -/
structure Sched where
  lines : List TLine := []
  /-- job slot whose lines are placed, and the place of the QUEUED line -/
  job : Option Nat := none
  key : TKey := {}
  markFwd : Option TKey := none
  markRev : Option TKey := none
  /-- T of the last line that fired or fires, without φ (R215) -/
  lastT : Option Nat := none
  /-- the next evaluated line may be a start skip (R224) -/
  start : Bool := false
  newRun : Bool := false
  /-- the gate of the present pass is open (R225) -/
  gateOpen : Bool := false
  /-- lines fired or skipped since arming, and the numbers of the skips among the last 4,096 (R220) -/
  count : Nat := 0
  skipsAt : List Nat := []
  sinceSkip : Nat := 0
  /-- job slot that has taken its origin, of which the port has placed no line yet (R224, R230, R249) -/
  begin' : Option Nat := none
  /-- bands whose readiness has been checked: band and repetition (R185) -/
  checked : Option (Nat × Nat) := none
  /-- repetition whose first placement has been made -/
  repSeen : Option Nat := none
  lseq : Nat := 0
  /-- the next rotation of a maintenance activity on the port, whose frame is sent (R355, R306) -/
  maint : Option TLine := none
  deriving DecidableEq, Repr

/-- A CMD for a head (Table 9.9): opcode, arguments, what it serves (0 bring-up, 1 host access, 2 trim report, 3 pulse
train map, 4 epoch, 5 record write), its TAG, the uptime at which it has left, once it has, and whether it is the resend. -/
structure Cmd where
  op : Nat := 0
  a0 : Nat := 0
  a1 : Nat := 0
  use : Nat := 0
  tag : Nat := 0
  sentAt : Option Nat := none
  again : Bool := false
  deriving DecidableEq, Repr

/-- What waits for the lanes of a head link (R263): a DROP of a line, a resend of its frame, a SENSE for the grant of a converter,
the outstanding CMD. -/
inductive LKind where
  | drop (q : Nat)
  | resend (q : Nat)
  | sense (c : Nat)
  | cmd
  deriving DecidableEq, Repr

/-- A unit or frame that waits for the lanes, and the uptime since which it waits. -/
structure LWait where
  kind : LKind := .cmd
  since : Nat := 0
  deriving DecidableEq, Repr

/-- A unit on the lanes (R238): control or data, its 16 bytes, and the 66-bit blocks of lanes 0 and 1, bit 0 first. -/
structure HUnit where
  ctl : Bool := true
  bytes : List Nat := []
  d0 : Nat := 0
  d1 : Nat := 0
  deriving DecidableEq, Repr

/-- The link of a head port, beside its objects (R243, R252, R256, R261 to R266). -/
structure Link where
  tag : Nat := 0
  cmd : Option Cmd := none
  waiting : List Cmd := []
  /-- words read so far in bring-up, READs of address 0 tried, trim steps done with their passes on lanes 0 and 1 -/
  card : List Nat := []
  tries : Nat := 0
  locked : Bool := false
  trims : List (Bool × Bool) := []
  ckAt : Nat := 0
  /-- uptime of the newest valid message, and uptimes of rejected ones in the last 1 ms -/
  lastMsg : Nat := 0
  badAt : List Nat := []
  /-- refusals in a row; numbers of the lines placed so far and of the refused ones among the last 4,096 -/
  refusedRow : Nat := 0
  placed : Nat := 0
  refusedAt : List Nat := []
  /-- rotations started, and the numbers at which STATUS showed ROT_ERR among the last 4,096 -/
  rots : Nat := 0
  rotErrAt : List Nat := []
  /-- frames outstanding: LSEQ and the uptime at which the LINE_END of the last sending leaves (R265) -/
  outs : List (Nat × Nat) := []
  /-- lines whose next answer is absorbed, and lines with a sending that has timed out (R265) -/
  absorb : List Nat := []
  late : List Nat := []
  /-- frames at the head that no line of the port will name: LSEQ, and whether a DROP has named it (R245, R248) -/
  astray : List (Nat × Bool) := []
  /-- the lanes: uptime from which they are free, what waits for them, the part of a frame that has not left yet with the uptime
  at which it goes on and the frame's LSEQ, the scramblers and the uptime at which they stand so -/
  laneAt : Nat := 0
  lq : List LWait := []
  leaving : Option (Nat × List (Bool × List Nat)) := none
  leavingQ : Nat := 0
  scr : Nat × Nat := (0, 0)
  scrAt : Option Nat := none
  /-- uptime before which no request leaves in basic mode (R253) -/
  retAt : Nat := 0
  /-- SERIAL at the previous bring-up (R318) -/
  serial : Option Nat := none
  deriving DecidableEq, Repr

/-- Firing of a port, beside its objects (chapter 10). -/
structure Fire where
  /-- pending commit of the pulse train: 1 at the next line, 2 at the next band, 0 none; whether it changes MAP or P -/
  commit : Nat := 0
  mapNew : Bool := false
  /-- the next ROT_RESET carries APPLY_MAP (R278) -/
  applyMap : Bool := false
  /-- job, repetition and band of the line last latched -/
  band : Option (Nat × Nat × Nat) := none
  /-- the last rotation or warming pulse: start, slots, slot width, starts and widths of its pulses, end (press time) -/
  start : Nat := 0
  slots : Nat := 0
  slot : Nat := 0
  starts : List Nat := []
  widths : List Nat := []
  endAt : Option Nat := none
  /-- maintenance slot whose rotation is in progress (R355) -/
  spit : Option Nat := none
  /-- uptime at which the last warming pulse fell due -/
  warmAt : Option Nat := none
  /-- HP_PG_V_NOM has been written since the live train was committed (R291) -/
  old : Bool := false
  deriving DecidableEq, Repr

/-- A power group, beside its objects (R282 to R291). -/
structure PGroup where
  /-- V of the newest valid conversion in mV and its k_q, neither saturated, and the press time it completed -/
  v : Nat := 0
  k : Nat := 0
  convAt : Option Nat := none
  /-- consecutive conversions in range since RAMP was entered, and whether there was one -/
  good : Nat := 0
  seenIn : Bool := false
  rampAt : Nat := 0
  /-- uptime since which CLAMP and V_STALE stand -/
  clampAt : Option Nat := none
  staleAt : Option Nat := none
  /-- consecutive conversions above SU_PG_VHIGH (R485) -/
  beyond : Nat := 0
  /-- uptime at which a conversion last fell due (R282); PEAK_OVER has been set since the last clear (R296) -/
  dueAt : Option Nat := none
  peaked : Bool := false
  /-- HPENg is still to fall (R291) -/
  falling : Bool := false
  deriving DecidableEq, Repr

/-- What a sense request measures. -/
inductive Sensed where
  | group | supply | motor | heater | temp | ref | die | deep | cal | host
  deriving DecidableEq, Repr

/-- A request to the sense bank (R334 to R337). -/
structure Req where
  cls : Nat := 0
  inst : Nat := 0
  what : Sensed := .host
  input : Nat := 0
  /-- conversions asked for, and the acquisition of each in SENSE cycles that a host sequence brings -/
  count : Nat := 1
  acq : Nat := 4
  /-- SENSE cycle of entry into the contest, and the deadline of a timed request -/
  entered : Nat := 0
  deadline : Option Nat := none
  /-- uptime at which the gap of a gap reading begins (R300), 0 of any other -/
  gapAt : Nat := 0
  nozzle : Nat := 0
  epoch : Nat := 0
  /-- maintenance slot whose activity reads (R360) -/
  slot : Option Nat := none
  /-- converter that a calibration request names -/
  conv : Option Nat := none
  deriving DecidableEq, Repr

/-- A grant: when it was made, when its present conversion begins and the one before it began, whether its SENSE has still to
leave, the results made, and whether a reading is spoilt. -/
structure Grant where
  req : Req := {}
  at' : Nat := 0
  start : Nat := 0
  begun : Option Nat := none
  waits : Bool := false
  made : Nat := 0
  /-- sums of the raw codes of the present calibration point and of the bandgap -/
  sum : Nat := 0
  sumB : Nat := 0
  bad : Bool := false
  deriving DecidableEq, Repr

/-- A converter, beside its objects (R332, R344 to R346, R351). -/
structure SConv where
  grant : Option Grant := none
  offT : Int := 0
  gainT : Nat := 32768
  offOld : Int := 0
  gainOld : Nat := 32768
  /-- conversions since the target was written, 256 once it is reached -/
  m : Nat := 256
  /-- corrected bandgap mean of the last calibration -/
  band : Nat := 0
  failRow : Nat := 0
  mism : Bool := false
  /-- press times of time-outs in the last 1 ms (R526) -/
  lateAt : List Nat := []
  deriving DecidableEq, Repr

/-- The sense bank, beside its objects (chapter 12). -/
structure Bank where
  reqs : List Req := []
  /-- instance granted last in each class -/
  turn : List (Nat × Nat) := []
  /-- press times of the cuts of each class in the last 10 ms (R526) -/
  cutsAt : List (Nat × List Nat) := []
  /-- calibration: converters and delay lines still to do, the present converter's point, its means z and h -/
  convLeft : List Nat := []
  dlLeft : List Nat := []
  point : Nat := 0
  z : Nat := 0
  h : Nat := 0
  /-- a full calibration has completed with no failed converter since RESET; a converter failed in the present one -/
  calOk : Bool := false
  calBad : Bool := false
  first : Bool := false
  /-- full calibrations in a row with a mismatch on every converter in service -/
  mismRow : Nat := 0
  /-- a save waits for the end of curfew (R349), and the attempts of the present save that failed -/
  storeWait : Bool := false
  storeFails : Nat := 0
  /-- the save in progress: step (0 erase, 1 to 16 pages, 17 COMMIT), slot base, SEQ and image -/
  storeStep : Option Nat := none
  storeBase : Nat := 0
  storeSeq : Nat := 0
  storeImg : List Byte := []
  /-- die readings of the present grant: whether any was valid, and the highest -/
  dieBest : Option Int := none
  /-- the input of the last host conversion completed, and the press time it began -/
  hostLast : Option (Nat × Nat) := none
  /-- uptime of the last die reading asked for (R575), and since when REF_FAULT stands (R341) -/
  dieAt : Option Nat := none
  refAt : Nat := 0
  deriving DecidableEq, Repr

/-- A maintenance slot, beside its objects (chapter 13). -/
structure Mt where
  /-- ports, axes, converters and relay pair (4 × pair + relay) still claimed -/
  ports : List Nat := []
  axes : List Nat := []
  convs : List Nat := []
  relay : Option Nat := none
  /-- station position before the start -/
  home : Int := 0
  /-- part of the body: 0 the first move or pumping, 1 a stroke or settling, 2 a dwell, 3 rotations or readings -/
  part : Nat := 0
  /-- uptime at which the dwell, pump or settle time runs out -/
  until' : Nat := 0
  /-- press time of rotation 0 without stagger, and rotations fired, by port -/
  bodyAt : Nat := 0
  fired : List (Nat × Nat) := []
  /-- next nozzle of the range, by port -/
  next : List (Nat × Nat) := []
  /-- the axis that the present phase moves -/
  moving : Option Nat := none
  /-- readings of the deep test of the present nozzle, R_c first, by port; uptime of its start, by port -/
  deep : List (Nat × List Nat) := []
  deepAt : List (Nat × Nat) := []
  deriving DecidableEq, Repr

/-! ### Motion (chapters 14 and 15) -/

/-- A queued move (Table 14.3). -/
structure Move where
  kind : Nat := 1
  target : Int := 0
  vel : Nat := 0
  acc : Nat := 0
  dec : Nat := 0
  jerk : Nat := 0
  flags : Nat := 0
  /-- a RELATIVE move whose base is the position at which it starts (R372) -/
  fromStart : Bool := false
  deriving DecidableEq, Repr

/-- A stretch of a profile: its duration in 2^-40 fu, the acceleration at its start and the jerk, in 2^-32 au/s² and
2^-32 au/s³. -/
structure Seg where
  dur : Nat := 0
  acc : Int := 0
  jerk : Int := 0
  deriving DecidableEq, Repr

/-- A profile as planned (R369): position and velocity at its start in 2^-32 au and 2^-32 au/s, its stretches, the end
point that is taken exactly with the velocity there, the elapsed 2^-40 fu at which a VELOCITY target is reached and at
which the last deceleration begins, and the 10 µs steps run. -/
structure Plan where
  p : Int := 0
  v : Int := 0
  segs : List Seg := []
  goal : Option Int := none
  endV : Int := 0
  reached : Option Nat := none
  brake : Nat := 0
  k : Nat := 0
  deriving DecidableEq, Repr

/-- A motion axis, beside its objects (chapter 14). -/
structure Axis where
  queue : List Move := []
  /-- the head entry has started; the move whose profile runs, which a completed VELOCITY entry outlives -/
  started : Bool := false
  run : Option Move := none
  plan : Option Plan := none
  /-- profile position, velocity and acceleration in 2^-32 units -/
  p : Int := 0
  v : Int := 0
  a : Int := 0
  /-- offset of the position source: au on a brushless axis, 2^-32 au on a stepper's ENC_PI (R367, R384) -/
  off : Int := 0
  /-- a stepper's position less its microstep, in 2^-32 au -/
  mOff : Int := 0
  /-- travel of the present 10 µs step, which ends at `p` (R370) -/
  step : Int := 0
  /-- count of the position source extended beyond 32 bits, and PI_COUNT when it was last taken over -/
  ext : Int := 0
  last : Nat := 0
  /-- the decelerating stop ends in DISABLED -/
  offAfter : Bool := false
  /-- AX_TRIG_MS has hit since the entry reached the head (R378) -/
  trig : Bool := false
  /-- homing has found its Z (R378) -/
  zSeen : Bool := false
  /-- the slow request's cap in au/s (R387) -/
  cap : Option Nat := none
  beyond : Bool := false
  /-- integrator and torque demand (R383) -/
  i : Int := 0
  tau : Int := 0
  /-- uptime since which the following error is beyond AX_FOLLOW_LIMIT -/
  followAt : Option Nat := none
  deriving DecidableEq, Repr

/-- A queued group move (R390). -/
structure GMove where
  targets : List Int := []
  vel : Nat := 0
  acc : Nat := 0
  dec : Nat := 0
  jerk : Nat := 0
  deriving DecidableEq, Repr

/-- An interpolation group, beside its objects (R389 to R391): the running move, its plan along the lead axis, and each
member's start and travel in 2^-32 au. -/
structure Group where
  queue : List GMove := []
  plan : Option Plan := none
  starts : List (Nat × Int × Int) := []
  v : Int := 0
  a : Int := 0
  /-- DEC and JERK of the running move, as scaled -/
  dec : Nat := 0
  jerk : Nat := 0
  deriving DecidableEq, Repr

/-- What a stepper phase does (R399, Table 15.2): held in SLOW without an on-time, in an on-time, or in an off-time. -/
inductive PhaseSt where
  | slow | on | off
  deriving DecidableEq, Repr

/-- A phase of a stepper stage (R396 to R400). -/
structure Phase where
  st : PhaseSt := .slow
  /-- drive sign of the last on-time: negative -/
  neg : Bool := false
  /-- target sign in force: negative -/
  want : Bool := false
  /-- uptime of the last change, and the fast cycles of the off-time -/
  at' : Nat := 0
  fast : Nat := 0
  /-- the on-time began by turning round from the opposite drive state, through OFF -/
  dead : Bool := false
  code : Nat := 0
  codeOn : Nat := 0
  trip : Nat := 0
  deriving DecidableEq, Repr

/-- A drive stage, beside its objects (chapter 15). -/
structure Drive where
  phases : List (Nat × Phase) := []
  /-- uptime of the last change of the microstep, and the microstep -/
  restAt : Nat := 0
  m : Int := 0
  /-- steps of the ramp to the standstill current done -/
  hold : Nat := 0
  /-- press times of over-current trips in the last 1 ms (R526) -/
  trips : List Nat := []
  /-- step input (R402): c_0, p_0, newest goal, goal before it, time and direction of the newest edge, speed in au/s -/
  c0 : Nat := 0
  p0 : Int := 0
  goal : Int := 0
  edge : Option (Nat × Bool) := none
  speed : Nat := 0
  lagAt : Option Nat := none
  /-- brushless: the period's on-time runs, its start and threshold code, and the period was ended by over-current -/
  on : Bool := false
  onAt : Option Nat := none
  code : Nat := 0
  cut : Bool := false
  /-- uptime of the last monitoring request (R412) -/
  monAt : Option Nat := none
  /-- an invalid Hall code is present (R405) -/
  badHall : Bool := false
  /-- brushless: outputs asked for (bits UH, UL, VH, VL, WH, WL), and the uptime at which each last fell (R407) -/
  want : Nat := 0
  fell : List (Nat × Nat) := []
  deriving DecidableEq, Repr

/-- A predictor TT_PRED[i] (R199 to R206). -/
structure Pred where
  /-- newest edges of the present run: (press time, count position), newest first, at most 129 -/
  edges : List (Nat × Nat) := []
  /-- consecutive counted edges in the present direction since the run began -/
  e : Nat := 0
  up : Bool := true
  seen : Bool := false
  /-- v in 2^-80 counts per fu and a in 2^-160 counts per fu² (R201) -/
  v : Int := 0
  a : Int := 0
  /-- uptime of the newest edge, for the stall test -/
  lastUp : Nat := 0
  deriving DecidableEq, Repr

/-- What intake is doing (R106 to R118). -/
inductive InStage where
  | idle | taken | tableRead | waitJob | waitSpace | copying
  deriving DecidableEq, Repr

/-- Intake (chapter 5). -/
structure Intake where
  stage : InStage := .idle
  /-- bytes 0 to 111 of the slot taken -/
  slot : List Byte := []
  /-- job slot and pages reserved for the waybill in progress -/
  jobSlot : Nat := 0
  pages : List Nat := []
  tries : Nat := 0
  /-- the read of the job table or of the band has still to be issued (R118, R136) -/
  ask : Bool := false
  /-- side of TH_THROTTLE on which the die stands (0 neither, 1 hot, 2 cool), and the uptime from which the present
  IN_PAUSE_STEP runs (R136) -/
  pauseDir : Nat := 0
  pauseAt : Nat := 0
  /-- bytes read from the host beyond the last whole KiB -/
  kibRem : Nat := 0
  /-- code and detail of the refusal the queue is halted at -/
  refused : Option (Nat × Nat) := none
  eligNext : Nat := 1
  runNext : Nat := 1
  /-- pages of the band area in use -/
  used : List Nat := []
  /-- BS_CONFIG is locked (R125), and channel training runs -/
  locked : Bool := false
  training : Bool := false
  deriving DecidableEq, Repr

/-! ### Events and DMA (chapter 17) -/

/-- One occurrence of an event (R452). -/
structure Occ where
  ev : Nat := 0
  cls : Nat := 0
  detail : Nat := 0
  time : Nat := 0
  /-- raised by an injected occurrence (R537) -/
  inj : Bool := false
  deriving DecidableEq, Repr

/-- The router and its outlets (R453 to R458) (PRESUMED, log 6). -/
structure EvUnit where
  /-- the event buffer, oldest first -/
  buf : List Occ := []
  /-- vectors due and not sent -/
  due : List Nat := []
  /-- uptime of each vector's last message -/
  sentAt : List (Nat × Nat) := []
  /-- the MSI-X table at BAR4 (R35): double words by offset from 0x0000, those that differ from their reset value; and the
  function's MSI-X enable -/
  msix : List (Nat × Nat) := []
  msixOn : Bool := false
  linkUp : Bool := true
  phase : Bool := true
  /-- uptime of each event's last FAULT cell (R458) -/
  ringAt : List (Nat × Nat) := []
  /-- the DMA channel that was served last (R465) -/
  dmTurn : Nat := 0
  deriving DecidableEq, Repr

/-- A descriptor as loaded (Table 17.5). -/
structure Desc where
  src : Nat := 0
  dst : Nat := 0
  rowBytes : Nat := 0
  rows : Nat := 0
  srcPitch : Int := 0
  dstPitch : Int := 0
  /-- bytes 32 to 35: CHAIN, IRQ, SWAP, DST_SPACE, SRC_SPACE -/
  ctl : Nat := 0
  next : Nat := 0
  deriving DecidableEq, Repr

/-- A DMA channel, beside its objects (R459 to R466): the address of the descriptor in progress, the descriptor once it has
been read, the code it was refused with, the order of its moves where the sides overlap (R461), the units moved, and
whether the present row or descriptor has had its credit. -/
structure DmaCh where
  at' : Nat := 0
  desc : Option Desc := none
  bad : Nat := 0
  rowBack : Bool := false
  colBack : Bool := false
  moved : Nat := 0
  paid : Bool := false
  deriving DecidableEq, Repr

/-! ### The field network (chapter 16) -/

/-- An EMCY that waits (Table 16.10). -/
structure Emcy where
  code : Nat := 0
  reg : Nat := 0
  ev : Nat := 0
  time : Nat := 0
  deriving DecidableEq, Repr

/-- A USDO session (R434, R435): its client, the object and the announced length, the bytes collected or to be sent, how
many have passed, the toggle expected next, and the uptime of the client's last frame. -/
structure Sess where
  client : Nat := 0
  index : Nat := 0
  sub : Nat := 0
  /-- whether the download announced its length -/
  sized : Bool := false
  size : Nat := 0
  upload : Bool := false
  data : List Byte := []
  off : Nat := 0
  toggle : Bool := false
  lastAt : Nat := 0
  deriving DecidableEq, Repr

/-- The CANopen node, beside its objects (R426 to R445). -/
structure Net where
  /-- node-ID and protocol in force (R426) -/
  nodeId : Nat := 127
  classic : Bool := false
  /-- sessions by number -/
  sess : List (Nat × Sess) := []
  /-- EMCYs that wait, oldest first, and the uptime of the last one sent -/
  emcy : List Emcy := []
  emcyAt : Option Nat := none
  /-- uptime of the node's last heartbeat; of each consumed one, by entry; entries whose heartbeat is lost -/
  hbSent : Nat := 0
  hbRx : List (Nat × Nat) := []
  hbLost : List Nat := []
  /-- RPDOs that wait for a SYNC, and the uptime from which each deadline runs -/
  rpdoWait : List (Nat × List Byte) := []
  rpdoAt : List (Nat × Nat) := []
  /-- TPDOs due by a SYNC or an event timer, uptime of each TPDO's last sending, and SYNCs counted toward the next -/
  tpdoDue : List Nat := []
  tpdoAt : List (Nat × Nat) := []
  tpdoCnt : List (Nat × Nat) := []
  /-- what each valid TPDO last sampled, by which a change of a formed object shows -/
  tpdoLast : List (Nat × List Nat) := []
  /-- uptime of the last SYNC, and whether its absence has been reported -/
  syncAt : Nat := 0
  syncLost : Bool := false
  /-- press times of the entries to bus-off in the last 10 s, by controller (R526), and the uptime of the last one -/
  offAt : List (Nat × List Nat) := []
  offUp : List (Nat × Nat) := []
  /-- uptime at which a controller that left the bus for new timing is integrated again, by controller (R428) -/
  joinAt : List (Nat × Nat) := []
  deriving DecidableEq, Repr

/-! ### Fault injection (chapter 20) -/

/-- The armed injection, beside its objects (R533 to R538): occurrences forced so far, and the uptime of the last. -/
structure Inject where
  forced : Nat := 0
  lastAt : Nat := 0
  deriving DecidableEq, Repr

/-! ### Clocks (chapter 2) -/

/-- The maps of one delay line: entry d is the tap for a delay of d fu (R47, R48). -/
structure DMap where
  target : List Nat := []
  live : List Nat := []
  trim : Int := 0
  good : Bool := false
  deriving DecidableEq, Repr

/-- Press time as it was before a change of its offset (R44): from uptime `since` until `till` the offset was `off`, and
the steering then moved it by `rate` at each FIRE tick, with `acc` in the accumulator (R70). -/
structure PtMark where
  since : Nat := 0
  till : Nat := 0
  off : Nat := 0
  acc : Int := 0
  rate : Int := 0
  deriving DecidableEq, Repr

/-- The clock unit (R37 to R56). -/
structure Clk where
  /-- in RESET: a cause stands, or the root PLL has not locked since (R471) -/
  inReset : Bool := false
  /-- uptime since which holdover stands (R52) -/
  holdSince : Option Nat := none
  /-- uptime of the present clock fault, whose 200 µs test runs (R53), and whether a divider is out of its window -/
  lostAt : Option Nat := none
  divBad : Bool := false
  /-- FIRE tick of the newest snapshot (R43) -/
  snapTick : Option Nat := none
  /-- delay lines by number: 0 to 95 place, 96 to 119 capture -/
  dl : List (Nat × DMap) := []
  /-- the offsets that press time had in the last millisecond, newest first (R44) -/
  ptLog : List PtMark := []
  /-- uptimes of the last 10 µs step of the profiles (R370) and of the last loop cycle (R383) -/
  profAt : Option Nat := none
  loopAt : Option Nat := none
  deriving DecidableEq, Repr

/-! ### Position interfaces (chapter 4) -/

/-- A relay pair in OUTPUT mode (R102): the uptime at which its pulse ends, and the operations of the newest FIRE tick that
had one, with the level and the pulse as they were before it: (place in the tick's order, operation, width). -/
structure RelPair where
  pulse : Option Nat := none
  tick : Option Nat := none
  base : Bool := false
  baseEnd : Option Nat := none
  ops : List (Nat × Nat × Nat) := []
  deriving DecidableEq, Repr

/-- A position interface, beside its objects (R88 to R97). -/
structure PosIf where
  /-- which of its two capture lines serves (R347) -/
  cap : Nat := 0
  /-- timestamps of the counted edges of the present run, newest first, at most 257 -/
  edges : List Nat := []
  /-- timestamp of the last counted edge, and its uptime -/
  last : Option Nat := none
  lastUp : Nat := 0
  /-- last valid Hall code, and the uptime since which an invalid one stands -/
  hall : Option Nat := none
  badAt : Option Nat := none
  /-- the invalid code that stands has been counted (R91) -/
  badSeen : Bool := false
  /-- permanent conditions that stand: an invalid Hall code held 100 µs, and the pairs in disagreement for 10 µs -/
  hallPerm : Bool := false
  wirePerm : List Nat := []
  /-- uptime since which the wires of each pair in disagreement have read the same level -/
  wireAt : List (Nat × Nat) := []
  /-- press times in the last 1 ms of glitches, fast edges, count errors and wire episodes (R526) -/
  glitches : List Nat := []
  fasts : List Nat := []
  errors : List Nat := []
  wires : List Nat := []
  deriving DecidableEq, Repr

/-! ### The ring (chapter 3) -/

/-- A cell that waits for a slot of the output (R63): its place in the order of service, the uptime from which it is ready, the
slots it takes, its TYPE and fields. -/
structure RCell where
  prio : Nat := 0
  at' : Nat := 0
  slots : Nat := 1
  type : Nat := 0
  fields : List Nat := []
  deriving DecidableEq, Repr

/-- Fjozlink, beside its objects (R58 to R85). -/
structure Ring where
  /-- SEQ of the next cell, and the next ticket -/
  seq : Nat := 0
  ticket : Nat := 0
  /-- uptime at which the output's next cell slot is free, and the cells that wait, in arrival order (R63) -/
  slotAt : Nat := 0
  fq : List RCell := []
  /-- uptimes of cells discarded in the last 1 ms -/
  badAt : List Nat := []
  /-- uptime at which the input came up, and the uptime of the last TIME cell -/
  upAt : Nat := 0
  timeAt : Option Nat := none
  /-- an election runs; the ring broke since its last form; this node was its master; TIME_LOCKED as it was when the
  input last went down -/
  electing : Bool := false
  /-- the input has come up and the ring has not begun to form since (R64); uptime at which the election began; another
  candidate's cell has come since (R65) -/
  formDue : Bool := false
  electAt : Nat := 0
  heardElect : Bool := false
  broken : Bool := false
  incumbent : Bool := false
  lockedWas : Option Bool := none
  /-- a node number taken in the present form differs from the one before -/
  renumbered : Bool := false
  /-- uptime of the ENUM cell's launch, and of the ring's present form -/
  enumAt : Nat := 0
  formedUp : Nat := 0
  /-- the ENUM cell is on its way (R66); uptime of the last TIME cell launched -/
  enumOut : Bool := false
  timeSent : Nat := 0
  /-- the servo: integral, tick accumulator, consecutive cells within 8 fu (R70) -/
  i : Int := 0
  acc : Int := 0
  row : Nat := 0
  /-- TIME_SEQ, TIME cells out (TIME_SEQ, uptime), and whether the master has sent one in the present form -/
  timeSeq : Nat := 0
  timeOut : List (Nat × Nat) := []
  sentTime : Bool := false
  holdAt : Nat := 0
  /-- single hop delays, newest first, at most 256, in 1/256 fu; press time and uptime of the echo under way; uptime of
  the last echo; marks missed in a row; echoes since TIME_LOCKED -/
  hops : List Nat := []
  echoAt : Option (Nat × Nat) := none
  echoLast : Option Nat := none
  echoMiss : Nat := 0
  echoes : Nat := 0
  /-- uptime of the last SLOW cell of each node, and of this node's own -/
  slowAt : List (Nat × Nat) := []
  slowSent : Nat := 0
  /-- uptime of each entry's PROPOSE -/
  proposed : List (Nat × Nat) := []
  /-- uptime at which each RESERVED entry was taken -/
  reserved : List (Nat × Nat) := []
  deriving DecidableEq, Repr

/-! ### Modes and supply (chapter 18) -/

/-- Modes and inhibits, beside their objects (R468 to R475). -/
structure Modes where
  hostStop : Bool := false
  hostOff : Bool := false
  /-- motion kind of the interlock inhibit (0 none, 1 STOP, 2 OFF), the uptime from which its release time counts, and
  whether that time has run and the inhibit waits for MD_INHIBIT_CLR.PIN -/
  pinKind : Nat := 1
  pinAt : Nat := 0
  pinWait : Bool := false
  /-- reset causes that stand, and the uptime of the reset event -/
  causes : List Nat := []
  resetAt : Nat := 0
  /-- uptime at which the last reset cause ended -/
  relAt : Nat := 0
  /-- uptime at which a rail last fell below its threshold (R556) -/
  railAt : Nat := 0
  deriving DecidableEq, Repr

/-- Counts of an input SUSi toward LOW, from LOW, toward HIGH and from HIGH (R486). -/
structure Rail where
  low : Nat := 0
  lowOff : Nat := 0
  high : Nat := 0
  highOff : Nat := 0
  deriving DecidableEq, Repr

/-- Supply monitors, beside their objects (R476 to R486). -/
structure Supply where
  /-- the warn comparator is tripped -/
  warn : Bool := false
  /-- uptime from which the curfew hold runs -/
  holdFrom : Option Nat := some 0
  dipAt : Nat := 0
  /-- consecutive conversions above VHIGH; start and highest value of the present surge -/
  beyond : Nat := 0
  surgeAt : Nat := 0
  surgeMax : Int := 0
  rails : List (Nat × Rail) := []
  /-- the mean in 1/65,536 mV, none before the first conversion -/
  mean : Option Int := none
  /-- uptime at which the last high condition ended (R484) -/
  highEnd : Nat := 0
  /-- uptime at which the warn comparator last released (R471) -/
  relAt : Nat := 0
  /-- uptime of each input's last request of a conversion (R478) -/
  dueAt : List (Nat × Nat) := []
  deriving DecidableEq, Repr

/-! ### Slow request sources (Table 7.6) -/

/-- Standing sources in the order they rose: (SOURCE, UNIT). -/
structure Slow where
  standing : List (Nat × Nat) := []
  /-- press time at which each of them rose, in the same order (R81) -/
  raised : List Nat := []
  since : Option Nat := none
  /-- fu with the request asserted, up to the last release -/
  total : Nat := 0
  deriving DecidableEq, Repr

/-! ### The backup domain (chapter 18) -/

/-- A journal entry (Table 18.8): seconds, sub-seconds, kind, flags, and the eight DATA bytes as one number. -/
structure JEntry where
  sec : Nat := 0
  sub : Nat := 0
  kind : Nat := 0
  flags : Nat := 0
  data : Nat := 0
  deriving DecidableEq, Repr

/-- The backup domain, beside its objects (R489 to R496). -/
structure Backup where
  /-- journal slots (entry number mod 256) that hold an entry -/
  journal : List (Nat × JEntry) := []
  rtcSub : Nat := 0
  /-- loads of the clock whose value before the load a snapshot may still take (R43), newest first: cycles counted before
  the load, and after it -/
  rtcWas : List (Nat × Nat) := []
  /-- part of an RTC cycle run, in 1/10^7 fu -/
  rtcRem : Nat := 0
  /-- rate of the RC oscillator in 1/10^7 of the crystal's, 0 while the crystal runs (R56) -/
  rcRate : Nat := 0
  onBattery : Bool := false
  /-- BK_RTC_SEC at the switch to VBAT -/
  batterySec : Nat := 0
  /-- consecutive VBAT readings below BK_V_LOW and BK_V_EMPTY -/
  belowLow : Nat := 0
  belowEmpty : Nat := 0
  /-- uptime at which the present charge began; the charger stopped for removal or time-out -/
  chgStartAt : Nat := 0
  chgStopped : Bool := false
  /-- charge gauged beyond BK_GAUGE in nA times fu, the uptime up to which it is counted, and the charger's measured
  current in µA -/
  gaugeRem : Int := 0
  gaugeAt : Nat := 0
  chgI : Nat := 0
  /-- bits of BK_EVENTS latched while the core had no power, with their CLASS (R491) -/
  latched : List (Nat × Nat) := []
  /-- value of BK_RTC_SEC at which the RTC alarm was last taken (R491) -/
  alarmAt : Option Nat := none
  /-- uptime of the newest reading of VBAT (R493), and since when the measured current of the voltage hold has stayed below a
  tenth of BK_CHG_I (R494) -/
  vbatAt : Option Nat := none
  lowSince : Option Nat := none
  /-- a die trip whose TRIPPED is still to be shown (R488) -/
  tripped : Bool := false
  deriving DecidableEq, Repr

/-! ### Flash, fuses and boot (chapter 19) -/

/-- A flash command (R510): a host command or a step of a store save; 1 read, 2 program, 3 erase 4 KiB, 4 erase 64 KiB. -/
structure FlashCmd where
  host : Bool := true
  op : Nat := 1
  addr : Nat := 0
  len : Nat := 0
  data : List Byte := []
  deriving DecidableEq, Repr

/-- The flash serves one command at a time, in order of arrival (R510). -/
structure Flash where
  cur : Option FlashCmd := none
  waiting : List FlashCmd := []
  deriving DecidableEq, Repr

/-- A cell of the OTP at normal, high and low margin (R501) (DESIGN CHOICE, log 8). -/
structure Fuse where
  norm : Nat := 0
  high : Nat := 0
  low : Nat := 0
  deriving DecidableEq, Repr

/-- A burn, a lock command or a life-cycle transition in progress: cells still to burn with their data (R514, R516,
R522). -/
structure Burn where
  /-- 2 a row burn, 4 a lock command, 5 a transition -/
  kind : Nat := 2
  todo : List (Nat × Nat) := []
  old : Nat := 0
  target : Nat := 0
  deriving DecidableEq, Repr

/-- The OTP: cells 0 to 511 are the rows, 512 to 527 the spare rows, 528 to 543 the redirection entries; those not listed
read 0 at every margin. The shadow is the normal reading of each row at the boot scan. -/
structure Otp where
  cells : List (Nat × Fuse) := []
  shadow : List (Nat × Nat) := []
  burn : Option Burn := none
  deriving DecidableEq, Repr

/-- Boot (R507, R509): details of boot and OTP events set while the mode is BOOT with their CLASS, and the watchdog's last start. -/
structure Boot where
  latched : List (Nat × Nat) := []
  wdtAt : Nat := 0
  deriving DecidableEq, Repr

/-- What the block sends to the outside world (DESIGN CHOICE, log 13). -/
inductive Emit where
  /-- a ring cell: TYPE and payload words (Table 3.3) -/
  | cell (type : Nat) (payload : List Nat)
  /-- an MSI-X message: its vector, the address it is written to, and the data -/
  | msix (vector addr data : Nat)
  /-- a posted write to host memory -/
  | hostWrite (addr : Nat) (bytes : List Byte)
  /-- a read of host memory asked for -/
  | hostRead (addr len : Nat)
  /-- the data of a dictionary or BAR2 read -/
  | read (p : Path) (v : Nat)
  /-- bytes read through BAR2 or from the flash -/
  | readBytes (bytes : List Byte)
  /-- a CAN frame: identifier and data -/
  | can (id : Nat) (data : List Nat)
  /-- units on the lanes of a head link, one after the other: port, uptime of the first, taps of the lanes' delay lines -/
  | units (port at' : Nat) (taps : Nat × Nat) (us : List HUnit)
  /-- a request on the return wire in basic mode: port, uptime, characters -/
  | ret (port at' : Nat) (bytes : List Nat)
  /-- edges on the fire pair, rising and falling in turn: port, and for each edge the counter value of its FIRE tick and its tap -/
  | fire (port : Nat) (edges : List (Nat × Nat))
  /-- a wake or reset of another part, by name -/
  | note (what : String) (args : List Nat)
  deriving DecidableEq, Repr

end Sys2Proof.Machine
end

