-- ==== Sys2Proof/Machine/State.lean ====
section
/-! DEFINITION. The state of the block, what it sends out, the reasons a step can stop, and the state after reset.
Plain data throughout. -/
namespace Sys2Proof.Machine

/-- Why the block could stop. No command of this block stops it by a fault: what the spec calls a refusal is a next
state that records the abort (R423). -/
inductive Fault where
  /-- Raised by no meaning; kept so that the type is inhabited. Safe: a claim that no fault happens is not weakened. -/
  | none
  deriving DecidableEq, Repr

/-- Why a command has no meaning. -/
inductive Refusal where
  /-- A command of the table whose meaning is not written; raised by `exec` alone. Safe: nothing is claimed of it. -/
  | notModelled (mnemonic : String)
  deriving DecidableEq, Repr

/-- The block's state: every dictionary object in `objs` (a cell per object whose value differs from its reset
value), the addressed memories in `mem`, and beside them what no object shows (DESIGN CHOICE, log 1). -/
structure State where
  /-- cells of the dictionary, in rising key order, none at its object's reset value -/
  objs : List (Obj × Nat)
  /-- bytes of the band store, the domain objects, the live density tables, the flash and the boot RAM -/
  mem : List Host.Cell
  /-- fu since the state `State.reset`; it never steps and never runs back, through resets too -/
  up : Nat
  /-- press time is `up + ptOff` modulo 2^64 (R39, R42, R72) -/
  ptOff : Nat
  /-- counter of free values drawn (the model's own field) -/
  free : Nat
  /-- event buffer, vectors, event queue (chapter 17) -/
  evs : EvUnit
  /-- DMA channels, by number (chapter 17) -/
  dmas : List (Nat × DmaCh)
  /-- clocks and delay lines (chapter 2) -/
  clk : Clk
  /-- job slots, by number (chapter 5) -/
  jobs : List (Nat × Job)
  /-- intake (chapter 5) -/
  intake : Intake
  /-- unpacker, screener and stitcher lanes, by port (chapters 5 to 7) -/
  lanes : List (Nat × Lane)
  /-- live screener banks, by port (chapter 6) -/
  scrLive : List (Nat × ScrLive)
  /-- nozzle masks, by port (chapter 6) -/
  masks : List (Nat × Masks)
  /-- Lodging, by port (chapter 7) -/
  lodges : List (Nat × Lodge)
  /-- Timetable schedulers, by port (chapter 8) -/
  scheds : List (Nat × Sched)
  /-- predictors, by number (chapter 8) -/
  preds : List (Nat × Pred)
  /-- standing slow request sources (Table 7.6) -/
  slow : Slow
  /-- backup domain (chapter 18) -/
  bk : Backup
  /-- objects mapped into valid TPDOs, with the TPDO (R438, R440) -/
  tpdoMap : List (Obj × Nat)
  /-- TPDOs made ready by a change of a mapped object (R440) -/
  tpdoReady : List Nat
  /-- head health, by port (chapter 11) -/
  healths : List (Nat × Health)
  /-- head links, by port (chapter 9) -/
  links : List (Nat × Link)
  /-- maintenance slots, by number (chapter 13) -/
  mts : List (Nat × Mt)
  /-- firing, by port (chapter 10) -/
  fires : List (Nat × Fire)
  /-- power groups, by number (chapter 10) -/
  pgs : List (Nat × PGroup)
  /-- converters, by number (chapter 12) -/
  convs : List (Nat × SConv)
  /-- sense bank (chapter 12) -/
  bank : Bank
  /-- motion axes, by number (chapter 14) -/
  axs : List (Nat × Axis)
  /-- interpolation groups, by number (chapter 14) -/
  igs : List (Nat × Group)
  /-- drive stages, by axis (chapter 15) -/
  drives : List (Nat × Drive)
  /-- relay pairs in OUTPUT mode, by 4 × relay + pair (R102) -/
  pulses : List (Nat × RelPair)
  /-- modes and inhibits (chapter 18) -/
  modes : Modes
  /-- supply monitors (chapter 18) -/
  supply : Supply
  /-- position interfaces, by number (chapter 4) -/
  pifs : List (Nat × PosIf)
  /-- Fjozlink (chapter 3) -/
  ring : Ring
  /-- the QSPI flash's commands (chapter 19) -/
  flash : Flash
  /-- the fuses (chapter 19) -/
  otp : Otp
  /-- boot (chapter 19) -/
  boot : Boot
  /-- the CANopen node (chapter 16) -/
  net : Net
  /-- fault injection (chapter 20) -/
  fi : Inject
  /-- what the block has sent out, newest first (the model's own field) -/
  out : List Emit
  /-- commands that wait, first in first out -/
  pending : List Instr
  deriving DecidableEq, Repr

/-- The block after its first RESET, in BOOT with the root PLL locked (R471): every object at its reset value, but for the
journal, which holds the entry of the power-on reset (R489, R492); every unit at rest, no command waiting
(DESIGN CHOICE, log 3, 4, 5). -/
def State.reset : State where
  objs := [(O.BK_JNL_COUNT, 1)]
  mem := []
  up := 0
  ptOff := 0
  free := 0
  evs := {}
  dmas := []
  clk := {}
  jobs := []
  intake := {}
  lanes := []
  scrLive := []
  masks := []
  lodges := []
  scheds := []
  preds := []
  slow := {}
  bk := { latched := [(B.BK_EVENTS_BACKUP_POR, 0)], journal := [(0, { kind := 1, flags := 4, data := 0x80000001 })] }
  tpdoMap := []
  tpdoReady := []
  healths := []
  links := []
  mts := []
  fires := []
  pgs := []
  convs := []
  bank := {}
  axs := []
  igs := []
  drives := []
  pulses := []
  modes := {}
  supply := {}
  pifs := []
  ring := {}
  flash := {}
  otp := {}
  boot := {}
  net := {}
  fi := {}
  out := []
  pending := []

end Sys2Proof.Machine
end

