-- ==== Sys2Proof/Machine/Ops.lean ====
section
/-! DEFINITION. The named operations over the dictionary cells, the addressed memories, the tables of hidden unit
state and time. Every reader and writer of the state goes through them. -/
namespace Sys2Proof.Machine

/-! ### Dictionary cells -/

/-- The value listed for an object, if any. -/
def cellFind : List (Obj × Nat) → Obj → Option Nat
  | [], _ => none
  | p :: l, o => if p.1 = o then some p.2 else cellFind l o

/-- The cells without the one for `o`. -/
def cellErase : List (Obj × Nat) → Obj → List (Obj × Nat)
  | [], _ => []
  | p :: l, o => if p.1 = o then cellErase l o else p :: cellErase l o

/-- The cells with `o` listed at `v`, in key order. -/
def cellPut : List (Obj × Nat) → Obj → Nat → List (Obj × Nat)
  | [], o, v => [(o, v)]
  | p :: l, o, v => if p.1 = o then (o, v) :: l else if o.key < p.1.key then (o, v) :: p :: l else p :: cellPut l o v

/-- The value of an object: the one listed, or its value after RESET. -/
def State.get (s : State) (o : Obj) : Nat := (cellFind s.objs o).getD o.dflt

/-- The cells after a store of `v` in `o`: a value that is the object's reset value is not listed. -/
def cellStore (l : List (Obj × Nat)) (o : Obj) (v : Nat) : List (Obj × Nat) :=
  if v = o.dflt then cellErase l o else cellPut (cellErase l o) o v

/-- TPDOs made ready by a change of `o` (R440): those whose valid mapping names it. -/
def tpdoTouched (m : List (Obj × Nat)) (o : Obj) : List Nat := (m.filter (fun p => p.1 = o)).map (·.2)

/-- Store the value cut to the object's type (R418). A change is latched at its source for each TPDO that maps the
object (R440). -/
def State.set (s : State) (o : Obj) (v : Nat) : State :=
  { s with
    objs := cellStore s.objs o (trunc o.width v)
    tpdoReady := if s.tpdoMap = [] ∨ s.get o = trunc o.width v then s.tpdoReady
      else (tpdoTouched s.tpdoMap o).foldl (fun l p => if l.contains p then l else l ++ [p]) s.tpdoReady }

/-- The signed reading of an object of an INTEGER type. -/
def State.getI (s : State) (o : Obj) : Int := toSigned o.width (s.get o)

/-- Store a signed value, held to two's complement of the object's width. -/
def State.setI (s : State) (o : Obj) (i : Int) : State := s.set o (ofSigned o.width i)

/-- Store a signed value saturated to the range of the object's INTEGER type. -/
def State.setSat (s : State) (o : Obj) (i : Int) : State :=
  s.setI o (clampI (-(2 ^ (o.width - 1) : Nat)) ((2 ^ (o.width - 1) : Nat) - 1) i)

def State.bit (s : State) (o : Obj) (i : Nat) : Bool := bitOf (s.get o) i
def State.setB (s : State) (o : Obj) (i : Nat) (b : Bool) : State := s.set o (putBit (s.get o) i b)
def State.fld (s : State) (o : Obj) (f : Fld) : Nat := fieldOf (s.get o) f
def State.setF (s : State) (o : Obj) (f : Fld) (v : Nat) : State := s.set o (putField (s.get o) f v)

/-- Add to a counter, which wraps at its type's width. -/
def State.addC (s : State) (o : Obj) (n : Nat) : State := s.set o (s.get o + n)

/-- Count one. -/
def State.inc (s : State) (o : Obj) : State := s.addC o 1

/-- Raise an object to a value when the value is higher. -/
def State.rise (s : State) (o : Obj) (n : Nat) : State := if s.get o < n then s.set o n else s

/-- Apply an operation for each number of a list, in order. -/
def State.forAll (s : State) (l : List Nat) (f : State → Nat → State) : State := l.foldl f s

/-! ### Tables of unit state -/

/-- The record of unit `k`, or the unit's record at rest (DESIGN CHOICE, log 4). -/
def tget {α : Type} (d : α) : List (Nat × α) → Nat → α
  | [], _ => d
  | p :: l, k => if p.1 = k then p.2 else tget d l k

/-- The table with unit `k`'s record replaced, in rising order. -/
def tput {α : Type} : List (Nat × α) → Nat → α → List (Nat × α)
  | [], k, v => [(k, v)]
  | p :: l, k, v => if p.1 = k then (k, v) :: l else if k < p.1 then (k, v) :: p :: l else p :: tput l k v

/-- The table without unit `k`. -/
def tdel {α : Type} (l : List (Nat × α)) (k : Nat) : List (Nat × α) := l.filter (fun p => p.1 ≠ k)

/-- A list of distinct numbers with one put in, in rising order. -/
def setIns : List Nat → Nat → List Nat
  | [], k => [k]
  | a :: l, k => if a = k then a :: l else if k < a then k :: a :: l else a :: setIns l k

def setDel (l : List Nat) (k : Nat) : List Nat := l.filter (fun a => a ≠ k)

/-! ### Unit records held once -/

def State.setRing (s : State) (x : Ring) : State := { s with ring := x }
def State.setNet (s : State) (x : Net) : State := { s with net := x }
def State.setIntake (s : State) (x : Intake) : State := { s with intake := x }
def State.setEvs (s : State) (x : EvUnit) : State := { s with evs := x }
def State.setClk (s : State) (x : Clk) : State := { s with clk := x }
def State.setBk (s : State) (x : Backup) : State := { s with bk := x }
def State.setModes (s : State) (x : Modes) : State := { s with modes := x }
def State.setBank (s : State) (x : Bank) : State := { s with bank := x }
def State.setSlow (s : State) (x : Slow) : State := { s with slow := x }
def State.setBoot (s : State) (x : Boot) : State := { s with boot := x }
def State.setSupply (s : State) (x : Supply) : State := { s with supply := x }
def State.setFi (s : State) (x : Inject) : State := { s with fi := x }
def State.setFlash (s : State) (x : Flash) : State := { s with flash := x }
def State.setOtp (s : State) (x : Otp) : State := { s with otp := x }

/-! ### Addressed memories -/

/-- Model address of byte `a` of the band store (DESIGN CHOICE, log 7). -/
def bandAddr (a : Nat) : Nat := a
/-- Model address of byte `a` of the domain object at `index` (0x5000 to 0x5FFF) (DESIGN CHOICE, log 7). -/
def domAddr (index a : Nat) : Nat := 2 ^ 40 + (index - 0x5000) * 2 ^ 20 + a
/-- Model address of byte `a` of port `n`'s live density table (R170) (DESIGN CHOICE, log 7). -/
def densAddr (n a : Nat) : Nat := 2 ^ 41 + n * 2 ^ 20 + a
/-- Model address of byte `a` of the QSPI flash (DESIGN CHOICE, log 7). -/
def flashAddr (a : Nat) : Nat := 2 ^ 42 + a
/-- Model address of byte `a` of the boot RAM (R505) (DESIGN CHOICE, log 7). -/
def bootAddr (a : Nat) : Nat := 2 ^ 43 + a

/-- Byte `a` of the domain object at `index` after RESET (R171, R307, R397): the shadow density entries are 0x8000, tone
slot entry i is i, sine table 0 holds the quarter wave, deep test results are NOT_MEASURED, everything else reads 0
(DESIGN CHOICE, log 7). -/
def memDefaultDomain (index a : Nat) : Nat :=
  if 0x5100 ≤ index ∧ index ≤ 0x515F then (if a % 2 = 1 then 0x80 else 0)
  else if 0x5010 ≤ index ∧ index ≤ 0x501F then (if a % 2 = 0 then a / 2 % 256 else a / 512)
  else if index = 0x5300 then sineByte a
  else if 0x5280 ≤ index ∧ index ≤ 0x52DF then (if a % 4 = 3 then 0x30 else 0)
  else 0

/-- What a byte that nothing has written reads as (DESIGN CHOICE, log 7). -/
def memDefault (a : Nat) : Byte :=
  if 2 ^ 43 ≤ a then 0
  else if 2 ^ 42 ≤ a then 0xFF
  else if 2 ^ 41 ≤ a then (if a % 2 = 1 then 0x80 else 0)
  else if 2 ^ 40 ≤ a then BitVec.ofNat 8 (memDefaultDomain (0x5000 + (a - 2 ^ 40) / 2 ^ 20) ((a - 2 ^ 40) % 2 ^ 20))
  else 0

/-- The byte listed at an address, or what an unlisted address reads as. -/
def memGet : List Host.Cell → Nat → Byte
  | [], a => memDefault a
  | c :: l, a => if c.1 = a then c.2 else if a < c.1 then memDefault a else memGet l a

/-- The cells with one byte stored: addresses rise, and no cell equals what its address reads as unlisted. -/
def memPut : List Host.Cell → Nat → Byte → List Host.Cell
  | [], a, b => if b = memDefault a then [] else [(a, b)]
  | c :: l, a, b =>
    if c.1 = a then (if b = memDefault a then l else (a, b) :: l)
    else if a < c.1 then (if b = memDefault a then c :: l else (a, b) :: c :: l)
    else c :: memPut l a b

/-- The canonical form of the memory: addresses strictly rising from `lo`, no cell at its unlisted value. -/
def memWfFrom : Nat → List Host.Cell → Bool
  | _, [] => true
  | lo, c :: l => decide (lo ≤ c.1) && decide (c.2 ≠ memDefault c.1) && memWfFrom (c.1 + 1) l

/-- The memory is in its canonical form. -/
def Memory.wf (m : List Host.Cell) : Bool := memWfFrom 0 m

def State.mget (s : State) (a : Nat) : Byte := memGet s.mem a
def State.mput (s : State) (a : Nat) (b : Byte) : State := { s with mem := memPut s.mem a b }

/-- Store bytes from an address upward. -/
def State.mputs (s : State) (a : Nat) : List Byte → State
  | [] => s
  | b :: bs => (s.mput a b).mputs (a + 1) bs

/-- Read `n` bytes from an address upward. -/
def State.mgets (s : State) (a n : Nat) : List Byte := (List.range n).map (fun i => s.mget (a + i))

/-- Copy `len` bytes within the memory: the listed cells of the source move, the rest of the destination returns to its
unlisted value. Used between ranges whose unlisted values agree. -/
def State.mcopy (s : State) (src dst len : Nat) : State :=
  let keep := s.mem.filter (fun c => decide (c.1 < dst ∨ dst + len ≤ c.1))
  let mv := s.mem.filter (fun c => decide (src ≤ c.1 ∧ c.1 < src + len))
  { s with mem := mv.foldl (fun m c => memPut m (c.1 - src + dst) c.2) keep }

/-- Read a little-endian number of `n` bytes. -/
def State.mgetLE (s : State) (a n : Nat) : Nat := ofBytesLE (s.mgets a n)

/-! ### Time (R2, R39) -/

/-- Press time: fu modulo 2^64 (DESIGN CHOICE, log 11). -/
def State.pt (s : State) : Nat := (s.up + s.ptOff) % 2 ^ 64

/-- The counter of press time: its value at the FIRE tick before (R39, R45) (DESIGN CHOICE, log 11). -/
def State.tick (s : State) : Nat := (s.up / 64 * 64 + s.ptOff) % 2 ^ 64

/-- fu in one µs and in one ms (R2: 25.6 fu per ns). -/
def fuUs : Nat := 25600
def fuMs : Nat := 25600000
def fuS : Nat := 25600000000

/-- The signed difference of two press times, `a` less `b`, modulo 2^64 (R40). -/
def ptDiff (a b : Nat) : Int := toSigned 64 (a % 2 ^ 64 + 2 ^ 64 - b % 2 ^ 64)
/-- Press time `a` is not after `b` (R40). -/
def ptLe (a b : Nat) : Bool := decide (0 ≤ ptDiff b a)
/-- Press time `a` is before `b` (R40). -/
def ptLt (a b : Nat) : Bool := decide (0 < ptDiff b a)
/-- The later of two press times (R40). -/
def ptMax (a b : Nat) : Nat := if ptLe a b then b else a

/-- The occurrences within a span of press time up to now, `l` the press times of the earlier ones, newest first (R526). -/
def State.span (s : State) (len : Nat) (l : List Nat) : List Nat := s.pt :: l.filter (fun a => decide (ptDiff s.pt a ≤ len))

/-- Put down the offset that press time had until now; what is older than a millisecond is dropped. -/
def State.ptNote (s : State) (m : PtMark) : State :=
  s.setClk { s.clk with ptLog := m :: s.clk.ptLog.filter (fun x => decide (s.up < x.till + fuMs)) }

/-- Press time takes a new offset at once (R42, R72). -/
def State.ptSet (s : State) (off : Nat) : State :=
  { s.ptNote ⟨s.up, s.up, s.ptOff, 0, 0⟩ with ptOff := off }

/-- Press time moves by `d` fu against uptime. -/
def State.ptMove (s : State) (d : Int) : State := s.ptSet (ofSigned 64 (s.ptOff + d))

/-- The mark that held at uptime `e`: the oldest that ended after it. -/
def markAt (e : Nat) : List PtMark → Option PtMark
  | [] => none
  | m :: l => match markAt e l with
    | some x => some x
    | none => if e < m.till then some m else none

/-- The offset of press time as it was at uptime `e`, not more than a millisecond ago (R44). -/
def offAt (s : State) (e : Nat) : Nat :=
  match markAt e s.clk.ptLog with
  | none => s.ptOff
  | some m => ofSigned 64 (m.off + Int.tdiv (m.acc + (e / 64 - m.since / 64 : Nat) * m.rate) 15625000)

/-- fu in one RTC cycle of 1/32,768 s. -/
def fuRtc : Nat := 781250

/-- The real-time clock after `dt` fu (R490): cycles of 1/32,768 s, each lengthened or shortened by BK_RTC_TRIM in
0.1 ppm. -/
def State.rtcRun (s : State) (dt : Nat) : State :=
  let base := if s.bk.rcRate = 0 then 10 ^ 7 else s.bk.rcRate
  let rate := ((base : Int) + s.getI O.BK_RTC_TRIM).toNat
  let rem := s.bk.rtcRem + dt * rate
  let cyc := rem / (fuRtc * 10 ^ 7)
  let sub := s.bk.rtcSub + cyc
  let s := s.setBk { s.bk with rtcRem := rem % (fuRtc * 10 ^ 7), rtcSub := sub % 32768 }
  if sub / 32768 = 0 then s else s.addC O.BK_RTC_SEC (sub / 32768)

/-- `n` FIRE ticks of steering (R70): 63 or 65 fu in place of 64 each time the accumulator passes a whole fu. -/
def State.steerRun (s : State) (n : Nat) : State :=
  let x := s.ring.acc + n * s.getI O.CK_RATE_ADJ
  { s.setRing { s.ring with acc := Int.tmod x 15625000 } with ptOff := ofSigned 64 (s.ptOff + Int.tdiv x 15625000) }

/-! ### FI of the ports (R246, R269, R296) -/

/-- Press times of the rising edges of a port's last rotation or warming pulse. -/
def fireRises (f : Fire) : List Nat :=
  (List.range f.slots).flatMap (fun g => f.starts.map (fun b => (f.start + g * f.slot + b) % 2 ^ 64))

/-- FI is high at a press time. -/
def fiHigh (f : Fire) (t : Nat) : Bool :=
  match f.endAt with
  | none => false
  | some e => ptLe f.start t && ptLt t e && (
      let d := (ptDiff t f.start).toNat
      let r := if f.slot = 0 then d else d - min (d / f.slot) (f.slots - 1) * f.slot
      f.starts.zip f.widths |>.any (fun p => decide (p.1 ≤ r ∧ r < p.1 + p.2)))

/-- Uptime of the first FIRE tick at or after a press time. -/
def tickAt (s : State) (t : Nat) : Nat := ((s.up : Int) + ptDiff t s.pt + 63).toNat / 64 * 64

/-- The FIRE ticks after uptime `a`, and not after `b`, at which FI of a port is high for the first time. -/
def riseTicks (s : State) (f : Fire) (a b : Nat) : List Nat :=
  match f.endAt with
  | none => []
  | some e =>
    if tickAt s e ≤ a then []
    else ((a / 64 + 1) * 64 :: (fireRises f).map (tickAt s)).filter (fun u => decide (a < u ∧ u ≤ b))

/-- The count of a group's ports with FI high, on the FIRE ticks of a span of uptime (R296). -/
def State.peakGroup (s : State) (g a b : Nat) : State :=
  let fs := (List.range 12).map (fun k => tget {} s.fires (12 * g + k))
  let press := fun (u : Nat) => ofSigned 64 ((s.pt : Int) + u - s.up)
  let n := (fs.flatMap (fun f => riseTicks s f a b)).foldl (fun m u => max m (fs.filter (fun f => fiHigh f (press u))).length) 0
  let s := s.rise (O.HP_PG_PEAK g) n
  let p := tget {} s.pgs g
  if s.get (O.HP_PG_PEAK_WARN g) < n ∧ !p.peaked then
    { s.setB (O.HP_PG_EVENTS g) B.HP_PG_EVENTS_PEAK_OVER true with pgs := tput s.pgs g { p with peaked := true } }
  else s

/-- The count over every group, from uptime `a` to `b`. -/
def State.peakRun (s : State) (a b : Nat) : State :=
  if s.fires.all (fun p => (riseTicks s p.2 a b).isEmpty) then s
  else s.forAll (List.range 8) (fun s g => s.peakGroup g a b)

/-- Time runs on to uptime `t`; it never runs back (DESIGN CHOICE, log 11 and 12; DEDUCED, log 85). -/
def State.adv (s : State) (t : Nat) : State :=
  if t ≤ s.up then s
  else
    let s := s.peakRun s.up t
    let s' := { s with up := t }.rtcRun (t - s.up)
    if s.get O.CK_RATE_ADJ = 0 then s'
    else (s'.ptNote ⟨s.up, t, s.ptOff, s.ring.acc, s.getI O.CK_RATE_ADJ⟩).steerRun (t / 64 - s.up / 64)

/-- Draw a free value (the model's own counter advances) (DESIGN CHOICE, log 9). -/
def State.draw (s : State) : Nat × State := (Config.freeNat s.free, { s with free := s.free + 1 })

/-- Record what the block sends out (DESIGN CHOICE, log 13). -/
def State.emit (s : State) (e : Emit) : State := { s with out := e :: s.out }

/-! ### Unit records -/

def State.job (s : State) (j : Nat) : Job := tget {} s.jobs j
def State.setJob (s : State) (j : Nat) (x : Job) : State := { s with jobs := tput s.jobs j x }
def State.lane (s : State) (n : Nat) : Lane := tget {} s.lanes n
def State.setLane (s : State) (n : Nat) (x : Lane) : State := { s with lanes := tput s.lanes n x }
def State.live (s : State) (n : Nat) : ScrLive := tget {} s.scrLive n
def State.setLive (s : State) (n : Nat) (x : ScrLive) : State := { s with scrLive := tput s.scrLive n x }
def State.mask (s : State) (n : Nat) : Masks := tget {} s.masks n
def State.setMask (s : State) (n : Nat) (x : Masks) : State := { s with masks := tput s.masks n x }
def State.lodge (s : State) (n : Nat) : Lodge := tget {} s.lodges n
def State.setLodge (s : State) (n : Nat) (x : Lodge) : State := { s with lodges := tput s.lodges n x }
def State.sched (s : State) (n : Nat) : Sched := tget {} s.scheds n
def State.setSched (s : State) (n : Nat) (x : Sched) : State := { s with scheds := tput s.scheds n x }
def State.pred (s : State) (i : Nat) : Pred := tget {} s.preds i
def State.setPred (s : State) (i : Nat) (x : Pred) : State := { s with preds := tput s.preds i x }
def State.dmaCh (s : State) (c : Nat) : DmaCh := tget {} s.dmas c
def State.setDmaCh (s : State) (c : Nat) (x : DmaCh) : State := { s with dmas := tput s.dmas c x }

def State.health (s : State) (n : Nat) : Health := tget {} s.healths n
def State.setHealth (s : State) (n : Nat) (x : Health) : State := { s with healths := tput s.healths n x }

def State.link (s : State) (n : Nat) : Link := tget {} s.links n
def State.setLink (s : State) (n : Nat) (x : Link) : State := { s with links := tput s.links n x }

def State.fire (s : State) (n : Nat) : Fire := tget {} s.fires n
def State.setFire (s : State) (n : Nat) (x : Fire) : State := { s with fires := tput s.fires n x }

def State.pg (s : State) (n : Nat) : PGroup := tget {} s.pgs n
def State.setPg (s : State) (n : Nat) (x : PGroup) : State := { s with pgs := tput s.pgs n x }

def State.sconv (s : State) (n : Nat) : SConv := tget {} s.convs n
def State.setSconv (s : State) (n : Nat) (x : SConv) : State := { s with convs := tput s.convs n x }

def State.mt (s : State) (k : Nat) : Mt := tget {} s.mts k
def State.setMt (s : State) (k : Nat) (x : Mt) : State := { s with mts := tput s.mts k x }

def State.ax (s : State) (a : Nat) : Axis := tget {} s.axs a
def State.setAx (s : State) (a : Nat) (x : Axis) : State := { s with axs := tput s.axs a x }

def State.ig (s : State) (g : Nat) : Group := tget {} s.igs g
def State.setIg (s : State) (g : Nat) (x : Group) : State := { s with igs := tput s.igs g x }

def State.ds (s : State) (a : Nat) : Drive := tget {} s.drives a
def State.setDs (s : State) (a : Nat) (x : Drive) : State := { s with drives := tput s.drives a x }

def State.relPair (s : State) (k : Nat) : RelPair := tget {} s.pulses k
def State.setRelPair (s : State) (k : Nat) (x : RelPair) : State := { s with pulses := tput s.pulses k x }

def State.pif (s : State) (i : Nat) : PosIf := tget {} s.pifs i
def State.setPif (s : State) (i : Nat) (x : PosIf) : State := { s with pifs := tput s.pifs i x }

/-- The ports, power groups, axes and job slots (R7). -/
def ports : List Nat := List.range 96
def groups : List Nat := List.range 8
def axes : List Nat := List.range 20
def slots : List Nat := List.range 4

/-- The power group of a port (R7). -/
def groupOf (n : Nat) : Nat := n / 12

end Sys2Proof.Machine
end

