-- ==== Sys2Proof/Machine/Flags.lean ====
section
/-! DEFINITION. Status and event bits: raising an event (R451 to R453), recording an occurrence in its event bit, and
writing the fault journal (R492). -/
namespace Sys2Proof.Machine

/-- Index, subindex and bit of a DETAIL (R452). -/
def detailOf (o : Obj) (bit : Nat) : Nat := o.index * 2 ^ 16 + o.sub * 2 ^ 8 + bit

/-- Give channel `c` its credit when it is paced by event `ev` (R462, R463): a channel that waits takes it at once
(DEDUCED, log 64). -/
def State.credit (s : State) (ev c : Nat) : State :=
  let cfg := s.get (O.DM_CH_CONFIG c)
  let st := O.DM_CH_STATUS c
  let x := s.fld st B.DM_CH_STATUS_STATE
  if bitOf cfg B.DM_CH_CONFIG_TRIG_EN ∧ fieldOf cfg B.DM_CH_CONFIG_TRIGGER = ev ∧ x ≠ 0 then
    if x = 3 then (s.setDmaCh c { s.dmaCh c with paid := true }).setF st B.DM_CH_STATUS_STATE 2
    else if s.fld st B.DM_CH_STATUS_CREDITS = 65535 then s.setB st B.DM_CH_STATUS_OVERRUN true
    else s.setF st B.DM_CH_STATUS_CREDITS (s.fld st B.DM_CH_STATUS_CREDITS + 1)
  else s

/-- Put an occurrence in the event buffer, or count it lost (R453). -/
def State.buffer (s : State) (x : Occ) : State :=
  if s.evs.buf.length < 512 then
    (s.setEvs { s.evs with buf := s.evs.buf ++ [x] }).setF O.EV_STATUS B.EV_STATUS_BUF_FILL (s.evs.buf.length + 1)
  else (s.inc O.EV_LOST).setB O.EV_EVENTS B.EV_EVENTS_BUF_OVERFLOW true

/-- An occurrence of event `ev` (R451 to R453): its pending bit, its DMA credits, and its place in the buffer. -/
def State.raise (s : State) (ev cls detail : Nat) : State :=
  let s := (s.setB (O.EV_PENDING (ev / 32)) (ev % 32) true).inc O.EV_TOTAL
  let s := s.forAll (bitsOf 32 (s.get O.DM_BUSY)) (fun s c => s.credit ev c)
  s.buffer ⟨ev, cls, detail, s.tick, false⟩

/-- Set an event bit and raise its event; each occurrence raises, whether or not the bit was left set (R451). -/
def State.hit (s : State) (o : Obj) (bit ev : Nat) (cls : Nat := 0) : State :=
  (s.setB o bit true).raise ev cls (detailOf o bit)

/-- Raise an event that no bit records: DETAIL names the counter that counts it (R452). -/
def State.raiseAt (s : State) (o : Obj) (ev : Nat) (cls : Nat := 0) : State := s.raise ev cls (detailOf o 0xFF)

/-- The events of port `n` (R12). -/
def evRetry (n : Nat) : Nat := 5 * n
def evRetire (n : Nat) : Nat := 5 * n + 1
def evNozzle (n : Nat) : Nat := 5 * n + 2
def evThermal (n : Nat) : Nat := 5 * n + 3
def evLine (n : Nat) : Nat := 5 * n + 4

/-- Curfew stands (R479). -/
def curfew (s : State) : Bool := s.bit O.SU_STATUS B.SU_STATUS_CURFEW

/-- A non-volatile write is refused or deferred under curfew (R480). -/
def State.deferred (s : State) : State := (s.inc O.SU_DEFERRED).hit O.SU_EVENTS B.SU_EVENTS_DEFERRED 571

/-- Put journal entry number `k` in its slot (R492): an entry of the same RTC cycle and a higher KIND moves up behind it. -/
def jnlPut (j : List (Nat × JEntry)) (k : Nat) (e : JEntry) : Nat → List (Nat × JEntry)
  | 0 => tput j (k % 256) e
  | fuel + 1 =>
    let p := tget {} j ((k - 1) % 256)
    if 0 < k ∧ p.sec = e.sec ∧ p.sub = e.sub ∧ e.kind < p.kind then jnlPut (tput j (k % 256) p) (k - 1) e fuel
    else tput j (k % 256) e

/-- Write a journal entry of a kind with its DATA bytes as one little-endian number (R492, Table 18.8)
(DEDUCED, log 74). -/
def State.journal (s : State) (kind data : Nat) : State :=
  let st := s.get O.BK_STATUS
  let flags := s.bk.onBattery.toNat + 2 * (bitOf st B.BK_STATUS_RTC_RC).toNat + 4 * (!bitOf st B.BK_STATUS_RTC_SET).toNat
  let e : JEntry := ⟨s.get O.BK_RTC_SEC, s.bk.rtcSub, kind % 256, flags, data % 2 ^ 64⟩
  let k := s.get O.BK_JNL_COUNT
  (s.setBk { s.bk with journal := jnlPut s.bk.journal k e 256 }).inc O.BK_JNL_COUNT

/-- Journal DATA with values at byte places counted from byte 8 of the entry (DEDUCED, log 74). -/
def jdata (l : List (Nat × Nat)) : Nat := l.foldl (fun d p => d + p.2 * 256 ^ p.1) 0

/-- An event of boot or the OTP (R507): while the mode is BOOT the bit alone is set, and EV575 follows when the mode first
leaves BOOT, once for a bit with the highest CLASS of its occurrences. -/
def State.btHit (s : State) (o : Obj) (bit : Nat) (cls : Nat := 0) : State :=
  if s.get O.MD_MODE = 1 then
    let d := detailOf o bit
    (s.setBoot { s.boot with latched := tput s.boot.latched d (max cls (tget 0 s.boot.latched d)) }).setB o bit true
  else s.hit o bit 575 cls

end Sys2Proof.Machine
end

