-- ==== Sys2Proof/Machine/Operands.lean ====
section
/-! DEFINITION. The operand forms of the dictionary: type extension (R418), ranges and listed values (R574), field
access (R421), what a write answers, and how a refusal is recorded (R423). -/
namespace Sys2Proof.Machine

/-- The abort codes of Table 16.8 (R436). -/
def abToggle : Nat := 0x05030000
def abTimeout : Nat := 0x05040000
def abCommand : Nat := 0x05040001
def abMemory : Nat := 0x05040005
def abAccess : Nat := 0x06010000
def abReadWo : Nat := 0x06010001
def abWriteRo : Nat := 0x06010002
def abNoObject : Nat := 0x06020000
def abNoMap : Nat := 0x06040041
def abPdoLength : Nat := 0x06040042
def abParam : Nat := 0x06040043
def abHardware : Nat := 0x06060000
def abLength : Nat := 0x06070010
def abTooLong : Nat := 0x06070012
def abNoSub : Nat := 0x06090011
def abRange : Nat := 0x06090030
def abLocal : Nat := 0x08000021
def abState : Nat := 0x08000022

/-- What an access answers: done, or refused with an abort code. A refusal carries the state too, for what it counts or
raises; the object itself keeps its value. -/
inductive WRes where
  | ok (s : State)
  | no (s : State) (code : Nat)

/-- Continue after a success. -/
def WRes.bind : WRes → (State → WRes) → WRes
  | .ok s, f => f s
  | .no s c, _ => .no s c

/-- The state an access leaves, whatever it answers. -/
def WRes.state : WRes → State
  | .ok s => s
  | .no s _ => s

/-- Whether the access was accepted. -/
def WRes.accepted : WRes → Bool
  | .ok _ => true
  | .no _ _ => false

/-- Refuse unless a condition holds (DEDUCED, log 43). -/
def need (s : State) (c : Bool) (code : Nat) (k : WRes) : WRes := if c then k else .no s code

/-- Whether the 32-bit word of a BAR0 write carries the extension of the object's type (R418). -/
def Ty.wordOk (ty : Ty) (w : Nat) : Bool :=
  if ty.bits ≥ 32 then true
  else if ty.signed then decide (w % 2 ^ 32 = ofSigned 32 (toSigned ty.bits w))
  else decide (w % 2 ^ 32 < 2 ^ ty.bits)

/-- The 32-bit word a BAR0 read returns: extended with zeros or with the sign (R418); the low word of a 64-bit type. -/
def Ty.word (ty : Ty) (v : Nat) : Nat :=
  if ty.signed ∧ ty.bits < 32 then ofSigned 32 (toSigned ty.bits v) else trunc 32 v

/-- The number a value of a type stands for. -/
def Ty.num (ty : Ty) (v : Nat) : Int := if ty.signed then toSigned ty.bits v else (trunc ty.bits v : Nat)

/-- Whether a field rule holds of a word. -/
def FldRule.ok (r : FldRule) (v : Nat) : Bool :=
  let x := fieldOf v ⟨r.lo, r.w⟩
  decide (r.mn ≤ x ∧ x ≤ r.mx) || decide (x = r.alt)

/-- Whether a value is legal for a range (R574 and the range sentences of the object rules). -/
def Rng.ok (g : Rng) (ty : Ty) (v : Nat) : Bool :=
  let i := ty.num v
  match g with
  | .any => true
  | .r lo hi => decide (lo ≤ i ∧ i ≤ hi)
  | .z lo hi => decide (i = 0 ∨ lo ≤ i ∧ i ≤ hi)
  | .rOr lo hi alt => decide (lo ≤ i ∧ i ≤ hi ∨ i = alt)
  | .vals l => decide (i ∈ l)
  | .p2 lo hi => decide (lo ≤ v ∧ v ≤ hi ∧ 2 ^ Nat.log2 v = v)
  | .mul k => decide (v % k = 0)
  | .mulR k hi => decide (v % k = 0 ∧ v ≤ hi)
  | .nz => decide (v ≠ 0)
  | .flds l => l.all (fun r => r.ok v)

/-- The value a write leaves, with the fields that ignore writes kept (R421); wo fields read zero afterwards. -/
def Row.merge (r : Row) (old v : Nat) : Nat :=
  orW (andW old (andW r.ro (notW 64 r.wo))) (andW v (notW 64 (orW r.ro r.wo)))

/-- A stored value checked by its row: reserved fields that must be 0, then the range (R421, R574). -/
def Row.check (r : Row) (old v : Nat) : Option Nat :=
  if andW v r.mbz ≠ 0 then some abRange
  else if r.rng.ok r.ty (r.merge old v) then none
  else some abRange

/-- A value is checked by its object's row, and the word that is stored of it passed on (R421, R574)
(DEDUCED, log 43). -/
def checked (o : Obj) (v : Nat) (f : Nat → State → WRes) (s : State) : WRes :=
  match o.row with
  | none => .ok s
  | some r => match r.check (s.get o) v with
    | some c => .no s c
    | none => f (r.merge (s.get o) v) s

/-- Whether the dictionary serves an index in the mode in force (R506; in RESET nothing is served)
(DEDUCED, log 15). -/
def served (s : State) (index : Nat) : Bool :=
  if s.clk.inReset then false
  else if s.get O.MD_MODE = 1 then
    decide (index = 0x2000 ∨ index = 0x2010 ∨ index = 0x2A00)
      || (decide (index = 0x2501) && s.bit O.BT_STATUS B.BT_STATUS_BOOT_DONE)
  else true

/-- Record a refused BAR0 access in the path's copies, set ABORT and raise EV561 (R423). A refusal of an access from
the field network goes back to the client as its abort and is recorded nowhere. -/
def State.abort (s : State) (p : Path) (index sub : Nat) (view : View) (code : Nat) : State :=
  match p with
  | .net => s.emit (.note "abort" [index, sub, code])
  | p =>
    let k := p.slot
    let s := (s.set (O.MD_ABORT_CODE k) code).set (O.MD_ABORT_WHERE k) (index * 2 ^ 16 + sub * 2 ^ 8 + view.code)
    (s.inc (O.MD_ABORT_COUNT k)).hit O.MD_DICT_EVENTS B.MD_DICT_EVENTS_ABORT 561

/-- The outcome of an access: its state, with the refusal recorded. -/
def WRes.finish (r : WRes) (p : Path) (o : Obj) (view : View := .primary) : Host.Outcome State Fault Refusal :=
  match r with
  | .ok s => .next s
  | .no s c => .next (s.abort p o.index o.sub view c)

/-- No path reaches the dictionary in RESET (Table 18.1); the host reaches it while the PCIe link is up (R55), and the
field network while the node serves USDO (R426, R431) (DEDUCED, log 15). -/
def reaches (s : State) (p : Path) : Bool :=
  !s.clk.inReset && (match p with
    | .host => s.evs.linkUp
    | .dma _ => true
    | .net => decide (s.get O.MD_MODE ≠ 1 ∧ (s.get O.MD_NMT_STATE = 5 ∨ s.get O.MD_NMT_STATE = 127)))

/-- A primary write of one object by a command of its own: discarded where the path cannot reach the dictionary (R55),
refused where the mode does not serve the object (R506), else the object's write (DEDUCED, log 15 and 86). -/
def access (p : Path) (o : Obj) (s : State) (f : State → WRes) : Host.Outcome State Fault Refusal :=
  if reaches s p then (if served s o.index then f s else .no s abState).finish p o else .next s

/-- The mode in force (Table 18.1). -/
def State.mode (s : State) : Nat := s.get O.MD_MODE
def mdReset : Nat := 0
def mdBoot : Nat := 1
def mdConfigure : Nat := 2
def mdStandby : Nat := 3
def mdReady : Nat := 4
def mdPrint : Nat := 5
def mdService : Nat := 6
def mdSafe : Nat := 7

/-- Raise the resource conflict event for a refusal of another owner's resource (EV541). -/
def State.conflict (s : State) (o : Obj) (bit : Nat) : State := s.hit o bit 541

end Sys2Proof.Machine
end

