-- ==== Sys2Proof/Machine/Chain.lean ====
section
/-! DEFINITION. DMA channels up to the moving of data (R459, R461 to R466): commands, descriptors, credits, chaining. -/
namespace Sys2Proof.Machine

def dmState (s : State) (c : Nat) : Nat := s.fld (O.DM_CH_STATUS c) B.DM_CH_STATUS_STATE
def dmIdle : Nat := 0
def dmLoading : Nat := 1
def dmRunning : Nat := 2
def dmWaiting : Nat := 3
def dmHalted : Nat := 4
def dmCfg (s : State) (c : Nat) : Nat := s.get (O.DM_CH_CONFIG c)
def dmPaced (s : State) (c : Nat) : Bool := bitOf (dmCfg s c) B.DM_CH_CONFIG_TRIG_EN
def dmTrigger (s : State) (c : Nat) : Nat := fieldOf (dmCfg s c) B.DM_CH_CONFIG_TRIGGER
def dmPerRow (s : State) (c : Nat) : Bool := bitOf (dmCfg s c) B.DM_CH_CONFIG_PACE_ROW
def dmInBand (s : State) (c : Nat) : Bool := bitOf (dmCfg s c) B.DM_CH_CONFIG_DESC_SPACE
def dmLink (s : State) (c : Nat) : Nat := fieldOf (dmCfg s c) B.DM_CH_CONFIG_LINK
def dmLinks (s : State) (c : Nat) : Bool := bitOf (dmCfg s c) B.DM_CH_CONFIG_LINK_EN

/-- A channel's state changes; DM_BUSY follows. -/
def State.dmTo (s : State) (c st : Nat) : State :=
  (s.setF (O.DM_CH_STATUS c) B.DM_CH_STATUS_STATE st).setB O.DM_BUSY c (decide (st ≠ dmIdle))

/-- The trigger a start needs is claimed by another channel (R462). -/
def dmClaimed (s : State) (c : Nat) : Bool :=
  dmPaced s c && (List.range 32).any (fun d =>
    decide (d ≠ c ∧ dmState s d ≠ dmIdle ∧ dmTrigger s d = dmTrigger s c) && dmPaced s d)

/-- A start of channel `c` (R462, R466) (DEDUCED, log 64). -/
def dmStart (c : Nat) (s : State) : WRes :=
  need s (decide (dmState s c = dmIdle) && !(dmLinks s c && decide (dmLink s c = c))) abState <|
  if dmClaimed s c then .no (s.conflict (O.DM_CH_STATUS c) B.DM_CH_STATUS_RESOURCE) abLocal
  else
    let s := s.set (O.DM_CH_STATUS c) (s.get (O.DM_CH_STATUS c) / 128 % 512 * 128)
    .ok ((s.setDmaCh c { at' := s.get (O.DM_CH_DESC c) }).dmTo c dmLoading)

/-- The channel returns to IDLE and its claim ends (DEDUCED, log 64). -/
def State.dmStop (s : State) (c : Nat) : State := (s.setDmaCh c {}).dmTo c dmIdle

/-- RESULT of the descriptor in progress (Table 17.5), in the channel's DESC_SPACE. -/
def State.dmResult (s : State) (c v : Nat) : State :=
  let a := (s.dmaCh c).at' + 60
  if dmInBand s c then s.mputs (bandAddr a) (bytesLE 4 v)
  else if s.evs.linkUp then s.emit (.hostWrite a (bytesLE 4 v)) else s

/-- The descriptor in progress is over: the chain goes on, or ends and starts the linked channel (R464)
(DEDUCED, log 64 and 65). -/
def State.dmNext (s : State) (c : Nat) : State :=
  match (s.dmaCh c).desc with
  | some d =>
    if bitOf d.ctl 7 then (s.setDmaCh c { at' := d.next }).dmTo c dmLoading
    else
      let s := s.dmStop c
      if dmLinks s c then (match dmStart (dmLink s c) s with
        | .ok s => s
        | .no s _ => s.setB (O.DM_CH_STATUS c) B.DM_CH_STATUS_LINK_MISSED true)
      else s
  | none => s.dmStop c

/-- A channel halts (R466). -/
def State.dmHalt (s : State) (c addr code : Nat) (write : Bool) : State :=
  let st := O.DM_CH_STATUS c
  let s := (s.set (O.DM_CH_ERR_ADDR c) addr).setF st B.DM_CH_STATUS_ERR_CODE code
  ((s.setB st B.DM_CH_STATUS_ERR_DIR write).dmTo c dmHalted).hit O.DM_ERROR c 568

/-- The channel needs a credit before its next unit: it takes one, or waits (R463). -/
def State.dmPay (s : State) (c : Nat) : State :=
  let st := O.DM_CH_STATUS c
  if !dmPaced s c ∨ (s.dmaCh c).paid then s.dmTo c dmRunning
  else if s.fld st B.DM_CH_STATUS_CREDITS = 0 then s.dmTo c dmWaiting
  else ((s.setF st B.DM_CH_STATUS_CREDITS (s.fld st B.DM_CH_STATUS_CREDITS - 1)).setDmaCh c { s.dmaCh c with paid := true }).dmTo c dmRunning

/-- A write of DM_CH_CMD (Table 17.6) (DEDUCED, log 65). -/
def wrDmCmd (c v : Nat) (s : State) : WRes :=
  match v % 256 with
  | 1 => dmStart c s
  | 2 => .ok (if dmState s c = dmIdle then s else s.dmStop c)
  | 3 => need s (decide (dmState s c = dmHalted)) abState <|
      .ok (if (s.dmaCh c).bad = 0 then s.dmTo c dmRunning
        else (s.setDmaCh c { at' := (s.dmaCh c).at' }).dmTo c dmLoading)
  | 4 => need s (decide (dmState s c = dmHalted)) abState <|
      .ok ((s.dmResult c (0x40000000 + s.fld (O.DM_CH_STATUS c) B.DM_CH_STATUS_ERR_CODE)).dmNext c)
  | _ => .no s abRange

def dmCmd (p : Path) (c v : Nat) (s : State) : Host.Outcome State Fault Refusal :=
  if c < 32 then access p (O.DM_CH_CMD c) s (wrDmCmd c v) else .next s

/-- DMA_START. -/
def execDmaStart (p : Path) (c : Nat) (s : State) : Host.Outcome State Fault Refusal := dmCmd p c 1 s
/-- DMA_STOP. -/
def execDmaStop (p : Path) (c : Nat) (s : State) : Host.Outcome State Fault Refusal := dmCmd p c 2 s
/-- DMA_RESUME. -/
def execDmaResume (p : Path) (c : Nat) (s : State) : Host.Outcome State Fault Refusal := dmCmd p c 3 s
/-- DMA_SKIP. -/
def execDmaSkip (p : Path) (c : Nat) (s : State) : Host.Outcome State Fault Refusal := dmCmd p c 4 s

/-! ### Descriptors -/

def Desc.srcSpace (d : Desc) : Nat := d.ctl % 4
def Desc.dstSpace (d : Desc) : Nat := d.ctl / 4 % 4
def Desc.swap (d : Desc) : Nat := d.ctl / 16 % 4
def Desc.irq (d : Desc) : Bool := bitOf d.ctl 6
/-- Bytes of a unit: 1, 2 or 4 (R460). -/
def Desc.unit (d : Desc) : Nat := if d.swap = 0 then 1 else if d.swap = 1 then 2 else 4
def Desc.dict (d : Desc) : Bool := decide (d.srcSpace = 2 ∨ d.dstSpace = 2)
/-- Bytes moved at a time: a unit, or the word of a dictionary access. -/
def Desc.grain (d : Desc) : Nat := if d.dict then 4 else d.unit

def descField (b : List Byte) (a n : Nat) : Nat := ofBytesLE ((b.drop a).take n)

/-- The descriptor that 64 bytes spell (Table 17.5). -/
def descOf (b : List Byte) : Desc :=
  { src := descField b 0 8, dst := descField b 8 8, rowBytes := descField b 16 4, rows := descField b 20 2, srcPitch := toSigned 32 (descField b 24 4), dstPitch := toSigned 32 (descField b 28 4), ctl := descField b 32 1, next := descField b 40 8 }

/-- A side's address is out of rule for its space (Table 17.4) (DEDUCED, log 62). -/
def sideBad (space a : Nat) : Bool :=
  if space = 2 then decide (2 ^ 27 ≤ a)
  else if space = 3 then decide (2 ^ 48 ≤ a ∨ a / 2 ^ 32 < 0x5000 ∨ 0x5FFF < a / 2 ^ 32)
  else false

/-- The checks of R459 (DEDUCED, log 62). -/
def descBad (b : List Byte) : Bool :=
  let d := descOf b
  let many := decide (1 < d.rows)
  let off := fun (k a : Nat) (pitch : Int) =>
    decide (a % k ≠ 0 ∨ d.rowBytes % k ≠ 0) || (many && decide (pitch % (k : Int) ≠ 0))
  decide (descField b 22 2 ≠ 0 ∨ descField b 33 7 ≠ 0 ∨ descField b 48 8 ≠ 0)
    || sideBad d.srcSpace d.src || sideBad d.dstSpace d.dst
    || decide (d.rowBytes = 0 ∨ 16777216 < d.rowBytes ∨ d.rows = 0)
    || (decide (d.swap ≠ 0) && (off d.unit d.src d.srcPitch || off d.unit d.dst d.dstPitch))
    || (decide (d.srcSpace = 2) && off 4 d.src d.srcPitch)
    || (decide (d.dstSpace = 2) && off 4 d.dst d.dstPitch)
    || (many && decide (d.dstPitch.natAbs < d.rowBytes))

/-- A side's span (R461). -/
def span (a rowBytes rows : Nat) (pitch : Int) : Int × Int :=
  let e := (a : Int) + (if rows ≤ 1 then 0 else ((rows : Int) - 1) * pitch)
  (min (a : Int) e, max (a : Int) e + rowBytes)

/-- The sides overlap (R461); DICT sides are not checked. -/
def descOverlap (d : Desc) : Bool :=
  let a := span d.src d.rowBytes d.rows d.srcPitch
  let b := span d.dst d.rowBytes d.rows d.dstPitch
  decide (d.srcSpace = d.dstSpace ∧ d.srcSpace ≠ 2) && (decide (d.srcSpace ≠ 3) || decide (d.src / 2 ^ 32 = d.dst / 2 ^ 32))
    && decide (a.1 < b.2 ∧ b.1 < a.2)

/-- A descriptor has been read: it is refused with code 1 or 2, or it runs in the order R461 gives. -/
def State.dmLoaded (s : State) (c : Nat) (b : List Byte) : State :=
  let d := descOf b
  let x := s.dmaCh c
  let refuse := fun (code : Nat) => (s.setDmaCh c { x with desc := some d, bad := code }).dmHalt c x.at' code false
  if descBad b then refuse 1
  else
    let lap := descOverlap d
    if lap && decide (1 < d.rows ∧ d.srcPitch ≠ d.dstPitch) then refuse 2
    else
      let down := lap && decide (d.src < d.dst)
      let neg := decide (1 < d.rows ∧ d.srcPitch < 0)
      let s := s.setDmaCh c { at' := x.at', desc := some d, colBack := down, rowBack := lap && (down != neg) }
      s.dmPay c

/-- DMA_DESC_LOADED: the 64 bytes as the host holds them, or as the band store does. -/
def execDmaDescLoaded (c : Nat) (bytes : List Byte) (t : Nat) (s : State) : Host.Outcome State Fault Refusal :=
  let s := s.adv t
  let a := (s.dmaCh c).at'
  if 32 ≤ c ∨ dmState s c ≠ dmLoading then .next s
  else if dmInBand s c then
    if s.get O.BS_CAPACITY * 1048576 < a + 64 then .next ((s.setDmaCh c { at' := a, bad := 10 }).dmHalt c a 10 false)
    else .next (s.dmLoaded c (s.mgets (bandAddr a) 64))
  else if s.evs.linkUp then .next (s.dmLoaded c ((bytes ++ List.replicate 64 0).take 64)) else .next s

end Sys2Proof.Machine
end

