-- ==== Sys2Proof/Machine/Port.lean ====
section
/-! DEFINITION. What every block reads of a head port: its report card copy (Table 9.11), its columns (R141), its pulse
train (R271 to R273), its line record (R189), and whether it may fire. -/
namespace Sys2Proof.Machine

/-! ### The report card copy (R268, Table 9.11) -/

def rcByte (s : State) (n a : Nat) : Nat := s.get (O.RC_WORD n (a / 4)) / 256 ^ (a % 4) % 256
def rc16 (s : State) (n a : Nat) : Nat := rcByte s n a + 256 * rcByte s n (a + 1)
/-- N (R141). -/
def nozzles (s : State) (n : Nat) : Nat := rc16 s n 0x10
def rcRows (s : State) (n : Nat) : Nat := rcByte s n 0x12
/-- G (R269). -/
def rcGroups (s : State) (n : Nat) : Nat := rcByte s n 0x13
def rcPulsesMax (s : State) (n : Nat) : Nat := rcByte s n 0x14
def rcFrameDepth (s : State) (n : Nat) : Nat := rcByte s n 0x15
/-- Maximum line rate in 10 Hz units. -/
def rcMaxRate (s : State) (n : Nat) : Nat := rc16 s n 0x16
def rcRNom (s : State) (n : Nat) : Nat := rc16 s n 0x18
def rcBitsMax (s : State) (n : Nat) : Nat := rcByte s n 0x1E
def rcSnsCurrent (s : State) (n : Nat) : Nat := rc16 s n 0x38
def rcTempV25 (s : State) (n : Nat) : Nat := rc16 s n 0x3A
def rcTempSlope (s : State) (n : Nat) : Int := toSigned 16 (rc16 s n 6)
def rcRankBin (s : State) (n k : Nat) : Nat := rc16 s n (0x40 + 2 * k)
def rcFactoryRank (s : State) (n : Nat) : Nat := rcByte s n 0x50
def rcTempWarn (s : State) (n : Nat) : Int := toSigned 16 (rc16 s n 0x52)
def rcTempMax (s : State) (n : Nat) : Int := toSigned 16 (rc16 s n 0x54)
def rcValid (s : State) (n : Nat) : Bool := s.bit (O.HP_STATE n) B.HP_STATE_RC_VALID

/-! ### Lane settings -/

/-- COVER of an SCR_CONFIG word: 1, 2 or 4. -/
def coverOf (cfg : Nat) : Nat := 2 ^ fieldOf cfg B.SCR_CONFIG_COVER
/-- OUT_BITS of the live bank (Table 6.8). -/
def outBits (s : State) (n : Nat) : Nat := s.fld (O.SCR_CONFIG_LIVE n) B.SCR_CONFIG_OUT_BITS
def liveCover (s : State) (n : Nat) : Nat := coverOf (s.get (O.SCR_CONFIG_LIVE n))
/-- M, the columns of the port (R141). -/
def columns (s : State) (n : Nat) : Nat := nozzles s n / liveCover s n
/-- LG_LINE_BYTES (R189). -/
def lineBytes (s : State) (n : Nat) : Nat := (nozzles s n * outBits s n + 511) / 512 * 64
/-- LG_DEPTH_EFF (R189). -/
def depthEff (s : State) (n : Nat) : Nat :=
  let b := lineBytes s n
  if b = 0 then s.get (O.LG_DEPTH n) else min (s.get (O.LG_DEPTH n)) (s.get (O.LG_ALLOC n) * 16384 / b)

/-! ### States of a port -/

def armed (s : State) (n : Nat) : Bool := decide (s.get (O.TT_ARM n) = 1)
def linkState (s : State) (n : Nat) : Nat := s.fld (O.HP_STATE n) B.HP_STATE_LINK
def linkUp (s : State) (n : Nat) : Bool := decide (linkState s n = 3)
def retired (s : State) (n : Nat) : Bool := decide (linkState s n = 5)
def groupState (s : State) (g : Nat) : Nat := s.fld (O.HP_PG_STATUS g) B.HP_PG_STATUS_STATE
def groupOn (s : State) (g : Nat) : Bool := decide (groupState s g = 2)
def thermalState (s : State) (n : Nat) : Nat := s.fld (O.HP_HEALTH_STATUS n) B.HP_HEALTH_STATUS_THERMAL
/-- HOT or BROKEN (Table 11.3). -/
def thermalInhibited (s : State) (n : Nat) : Bool := decide (2 ≤ thermalState s n)
def capped (s : State) (n : Nat) : Bool := s.bit (O.MT_CAPPED (n / 32)) (n % 32)
def clockInhibit (s : State) : Bool := s.bit O.CK_STATUS B.CK_STATUS_CLOCK_INHIBIT
/-- Firing of the port inhibited by its thermal state, its group, capping, the clock or a device-wide inhibit (R22,
R290, R357, R53, R474). -/
def portInhibited (s : State) (n : Nat) : Bool :=
  thermalInhibited s n || !groupOn s (groupOf n) || capped s n || clockInhibit s
    || s.bit O.MD_INHIBIT_STATUS B.MD_INHIBIT_STATUS_FIRE

/-- The predictor a port names. -/
def predOf (s : State) (n : Nat) : Nat := s.fld (O.TT_CONFIG n) B.TT_CONFIG_PRED
def predMode (s : State) (i : Nat) : Nat := s.fld (O.TT_PRED_CONFIG i) B.TT_PRED_CONFIG_MODE
/-- An armed port names the predictor (R210). -/
def predBound (s : State) (i : Nat) : Bool := ports.any (fun n => armed s n && decide (predOf s n = i))
def anyArmed (s : State) : Bool := ports.any (fun n => armed s n)
def shuttle (s : State) : Bool := s.bit O.ST_SHUTTLE B.ST_SHUTTLE_ENABLE

/-! ### Pulse trains (R271 to R273) -/

/-- A pulse train: P, W, the starts and widths of its pulses, map, V_NOM and warming width. -/
structure Train where
  pulses : Nat
  slot : Nat
  start : List Nat
  width : List Nat
  map : Nat
  vnom : Nat
  warm : Nat
  deriving DecidableEq, Repr

/-- The shadow bank. -/
def shadowTrain (s : State) (n : Nat) : Train :=
  ⟨s.get (O.HP_PT_PULSES n), s.get (O.HP_PT_SLOT n), [0, s.get (O.HP_PT_START1 n), s.get (O.HP_PT_START2 n)],
   [s.get (O.HP_PT_WIDTH n 0), s.get (O.HP_PT_WIDTH n 1), s.get (O.HP_PT_WIDTH n 2)],
   s.get (O.HP_PT_MAP n), s.get (O.HP_PT_V_NOM n), s.get (O.HP_PT_WARM n)⟩

/-- The live bank. -/
def liveTrain (s : State) (n : Nat) : Train :=
  ⟨s.get (O.HP_PT_PULSES_LIVE n), s.get (O.HP_PT_SLOT_LIVE n),
   [0, s.get (O.HP_PT_START1_LIVE n), s.get (O.HP_PT_START2_LIVE n)],
   [s.get (O.HP_PT_WIDTH_LIVE n 0), s.get (O.HP_PT_WIDTH_LIVE n 1), s.get (O.HP_PT_WIDTH_LIVE n 2)],
   s.get (O.HP_PT_MAP_LIVE n), s.get (O.HP_PT_V_NOM_LIVE n), s.get (O.HP_PT_WARM_LIVE n)⟩

/-- The stretched and shrunk bounds of a width (R272). -/
def wMax (w : Nat) : Nat := (13 * w + 9) / 10
def wMin (w : Nat) : Nat := 4 * w / 5

/-- The cause in Table 10.3 for which a train is not valid on a port (R272), 0 when it is valid. -/
def trainCause (s : State) (n : Nat) (t : Train) : Nat :=
  let w := fun i => t.width.getD i 0
  let st := fun i => t.start.getD i 0
  let mapAt := fun c => t.map / 2 ^ (3 * c) % 8
  if !rcValid s n then 7
  else if t.pulses < 1 ∨ rcPulsesMax s n < t.pulses ∨ rcBitsMax s n < outBits s n ∨ mapAt 0 ≠ 0
      ∨ (List.range 8).any (fun c => decide (2 ^ t.pulses ≤ mapAt c)) then 2
  else if (List.range t.pulses).any (fun i => decide (wMin (w i) < 512 ∨ 102400 < wMax (w i)))
      ∨ (List.range (t.pulses - 1)).any (fun i => decide (st (i + 1) < st i + wMax (w i) + 512))
      ∨ t.slot < st (t.pulses - 1) + wMax (w (t.pulses - 1)) + 512
      ∨ (List.range 3).any (fun i => decide (t.pulses ≤ i ∧ (st i ≠ 0 ∨ w i ≠ 0)))
      ∨ (t.warm ≠ 0 ∧ (wMin t.warm < 512 ∨ 102400 < wMax t.warm)) then 3
  else if t.vnom = 0 ∨ t.vnom ≠ s.get (O.HP_PG_V_NOM (groupOf n)) then 4
  else 0

/-- L_min (R273): 0 when the train is not valid. -/
def minPeriodOf (s : State) (n : Nat) (t : Train) : Nat :=
  if trainCause s n t ≠ 0 then 0
  else (rcGroups s n - 1) * t.slot + t.start.getD (t.pulses - 1) 0 + wMax (t.width.getD (t.pulses - 1) 0) + 10240

/-- The live train is valid: a write of HP_PG_V_NOM makes it not so until it is committed again (R272, R291). -/
def liveTrainValid (s : State) (n : Nat) : Bool := decide (trainCause s n (liveTrain s n) = 0) && !(s.fire n).old
/-- L_min of the live bank (R273). -/
def liveMinPeriod (s : State) (n : Nat) : Nat := if liveTrainValid s n then minPeriodOf s n (liveTrain s n) else 0

/-- Inverse of the report card's maximum line rate in fu, rounded up (R228): 25.6 × 10⁹ fu/s over 10 × MAX_RATE. -/
def ratePeriod (s : State) (n : Nat) : Nat :=
  let r := rcMaxRate s n
  if r = 0 then 0 else (2560000000 + r - 1) / r

/-- TT_MIN_PERIOD (R228). -/
def minLinePeriod (s : State) (n : Nat) : Nat :=
  max (liveMinPeriod s n) (max (ratePeriod s n) 266667)

/-- Data units of a line frame (R241). -/
def frameUnits (s : State) (n : Nat) : Nat := (nozzles s n * outBits s n + 127) / 128

/-- RD_MAX: the greatest ROW_DELAY of the port's head (R245). -/
def rdMax (s : State) (n : Nat) : Nat := (List.range (min 8 (rcRows s n))).foldl (fun m r => max m (rcByte s n (0x20 + r))) 0

/-- The least send lead in FIRE ticks, rounded up (R264): a unit takes 41.25 ns, a tick 2.5 ns. -/
def leastLead (s : State) (n : Nat) : Nat := ((frameUnits s n + 3) * 4125 + 200000 + 249) / 250

/-- The lane time of one line in fu (R139): ⌈N / 2⌉ + 32 CORE cycles of 1.25 ns, 32 fu each. -/
def laneTime (s : State) (n : Nat) : Nat := ((nozzles s n + 1) / 2 + 32) * 32

/-! ### Slow requests (R197, Table 7.6) -/

/-- Whether the node is numbered on the ring. -/
def numbered (s : State) : Bool :=
  decide (s.get O.FJ_NODE < 16) && !s.bit O.FJ_STATUS B.FJ_STATUS_PASSIVE

/-- The node forwards as a passive node (R64, R67, Table 3.17). -/
def ringPassive (s : State) : Bool :=
  decide (s.mode = mdBoot) || !s.bit O.FJ_CONTROL B.FJ_CONTROL_ENABLE || s.bit O.FJ_STATUS B.FJ_STATUS_PASSIVE
/-- A numbered node that takes part. -/
def ringNode (s : State) : Bool := numbered s && !ringPassive s

/-- fu of a cell on a hop. -/
def fuCell : Nat := 5120

/-- Place of a cell of this node in the order of service (R63): TIME, FAULT, ECHO, then, behind forwarded cells, SLOW, ACTION,
ENUM, ROSTER, ELECT. A forwarded TIME or FAULT cell takes the place of its type, any other 3. -/
def cellPrio (type : Nat) : Nat :=
  match type with
  | 1 => 0
  | 7 => 1
  | 8 => 2
  | 6 => 4
  | 5 => 5
  | 3 => 6
  | 4 => 7
  | _ => 8

/-- Of the cells ready at `slot`, the one sent first. -/
def cellNext (slot : Nat) (q : List RCell) : Option RCell :=
  match q.filter (fun c => decide (c.at' ≤ slot)) with
  | [] => none
  | c :: l => some (l.foldl (fun a b => if b.prio < a.prio then b else a) c)

/-- The output sends the cells whose slot has come, at most `k` (R63). IDLE cells fill the slots in which nothing is ready, and
are not recorded. -/
def State.ringOut (s : State) : Nat → State
  | 0 => s
  | k + 1 =>
    let r := s.ring
    match r.fq with
    | [] => s
    | c :: l =>
      let slot := max r.slotAt (l.foldl (fun a b => min a b.at') c.at')
      if s.up < slot then s
      else match cellNext slot r.fq with
        | none => s
        | some x =>
          (({ s with ring := { r with slotAt := slot + x.slots * fuCell, fq := r.fq.erase x } }).emit
            (.cell x.type x.fields)).ringOut k

/-- A cell joins those that wait, and leaves at once where the output is free. -/
def State.cellPut (s : State) (c : RCell) : State :=
  let s := { s with ring := { s.ring with fq := s.ring.fq ++ [c] } }
  s.ringOut s.ring.fq.length

/-- Time runs on for a command of the ring: the cells that wait have their slots (R63). -/
def State.ringAdv (s : State) (t : Nat) : State :=
  let s := s.adv t
  s.ringOut s.ring.fq.length

/-- Send a cell of this node with SRC `src` (R61, R63): HOPS 0 and the next SEQ, then its fields. A passive node originates none
but the echoes of its hop (R67) (DEDUCED, log 96). -/
def State.sendFor (s : State) (src type : Nat) (fields : List Nat) (slots : Nat := 1) : State :=
  if type ≠ 8 ∧ ringPassive s then s
  else
    ({ s with ring := { s.ring with seq := (s.ring.seq + 1) % 16 } }).cellPut
      ⟨cellPrio type, s.up, slots, type, [src, 0, s.ring.seq] ++ fields⟩

/-- Originate a cell (R61). -/
def State.sendCell (s : State) (type : Nat) (fields : List Nat) (slots : Nat := 1) : State :=
  s.sendFor (if s.get O.FJ_NODE < 16 then s.get O.FJ_NODE else 0) type fields slots

/-- The press time at which a standing source rose (R81). -/
def raisedAt (s : State) (src : Nat × Nat) : Nat :=
  (((s.slow.standing.zip s.slow.raised).find? (fun p => p.1 = src)).map (·.2)).getD s.tick

/-- Send a SLOW cell for a source (R81, R197, Table 3.12): it carries the press time at which the source rose, or, with
ASSERT = 0, that of the release. -/
def State.slowCell (s : State) (on : Bool) (src : Nat × Nat) : State :=
  if s.bit O.FJ_CONTROL B.FJ_CONTROL_SLOW_TX_EN ∧ ringNode s then
    (s.setRing { s.ring with slowSent := s.up }).sendCell 6 [on.toNat, src.1, src.2, raisedAt s src] else s

/-- LG_SLOW_STATE as the standing sources make it (Table 7.17). -/
def slowWord (s : State) : Nat :=
  let l := s.slow.standing
  let has := fun c => l.any (fun p => decide (p.1 = c))
  let ring := decide (s.get O.FJ_SLOW_RX ≠ 0)
  let bits := (has 0).toNat * 2 + (has 1).toNat * 4 + (has 2).toNat * 8 + (has 3).toNat * 16 + ring.toNat * 32
  let old := l.head?.getD (0, 0)
  (decide (bits ≠ 0)).toNat + bits + 256 * old.1 + 65536 * old.2

/-- Take over the standing sources into LG_SLOW_STATE: its count, its time and EV553 at each change of ASSERT. -/
def State.slowSync (s : State) : State :=
  let was := s.bit O.LG_SLOW_STATE B.LG_SLOW_STATE_ASSERT
  let w := slowWord s
  let s := s.set O.LG_SLOW_STATE w
  if bitOf w 0 ∧ !was then
    let s := (s.setSlow { s.slow with since := some s.up }).inc O.LG_SLOW_COUNT
    s.raise 553 0 (detailOf O.LG_SLOW_STATE 0)
  else if was ∧ !bitOf w 0 then
    let total := s.slow.total + (s.up - s.slow.since.getD s.up)
    let s := (s.setSlow { s.slow with since := none, total := total }).set O.LG_SLOW_TIME (divRound (total : Nat) fuMs).toNat
    s.raise 553 0 (detailOf O.LG_SLOW_STATE 0)
  else s

/-- Assert a source of the device's slow request. -/
def State.slowOn (s : State) (src unit : Nat) : State :=
  if s.slow.standing.contains (src, unit) then s
  else
    let first := s.slow.standing.isEmpty
    let s := (s.setSlow { s.slow with standing := s.slow.standing ++ [(src, unit)], raised := s.slow.raised ++ [s.tick] }).slowSync
    if first then s.slowCell true (src, unit) else s

/-- Release a source: with others standing the next cell carries the next oldest, else ASSERT = 0 is sent. -/
def State.slowOff (s : State) (src unit : Nat) : State :=
  if !s.slow.standing.contains (src, unit) then s
  else
    let old := s.slow.standing.head?
    let z := (s.slow.standing.zip s.slow.raised).filter (fun p => p.1 ≠ (src, unit))
    let l := z.map (·.1)
    let s := (s.setSlow { s.slow with standing := l, raised := z.map (·.2) }).slowSync
    match l with
    | [] => s.slowCell false (src, unit)
    | p :: _ => if old = some (src, unit) then s.slowCell true p else s

/-- The device's slow request (R23, R197). -/
def slowAsserted (s : State) : Bool := s.bit O.LG_SLOW_STATE B.LG_SLOW_STATE_ASSERT

end Sys2Proof.Machine
end

