-- ==== Sys2Proof/Machine/Delay.lean ====
section
/-! DEFINITION. Delay lines: their maps and trims (R44, R46 to R50). Lines 0 to 95 place the edges of ports; lines 96 and
up capture edges, two for each interface (R347). -/
namespace Sys2Proof.Machine

/-- The map before the first good calibration: 23 ps per tap (R49); a fu is 39.0625 ps. -/
def defaultMap : List Nat := (List.range 65).map (fun d => (divRound ((d * 390625 : Nat) : Int) 230000).toNat)
/-- A map as held: an empty list stands for the default map. -/
def mapOf (l : List Nat) : List Nat := if l = [] then defaultMap else l

def dline (s : State) (k : Nat) : DMap := tget {} s.clk.dl k
def State.setDline (s : State) (k : Nat) (x : DMap) : State := (s.setClk { s.clk with dl := tput s.clk.dl k x })

/-- The written trim of a delay line. -/
def writtenTrim (s : State) (k : Nat) : Int :=
  if k < 96 then s.getI (O.CK_FIRE_SKEW k) else s.getI (O.CK_CAPTURE_SKEW ((k - 96) / 2))

def frozen (s : State) : Bool := s.bit O.CK_CONTROL B.CK_CONTROL_DL_FREEZE

/-- A number one step nearer to another. -/
def nearer (a b : Nat) : Nat := if a < b then a + 1 else if b < a then a - 1 else a
def nearerI (a b : Int) : Int := if a < b then a + 1 else if b < a then a - 1 else a

/-- A line that the port fires, blanks or skips in PRINT: live map and trim step once (R48). -/
def State.dlSlew (s : State) (n : Nat) : State :=
  if frozen s ∨ s.get O.MD_MODE ≠ 5 then s
  else
    let x := dline s n
    s.setDline n { x with
      live := if x.live = x.target then x.live else ((mapOf x.live).zip (mapOf x.target)).map (fun p => nearer p.1 p.2)
      trim := nearerI x.trim (writtenTrim s n) }

/-- Outside PRINT, and on a capture line in every mode, the live map and trim take their target values (R48). -/
def State.dlSettle (s : State) (k : Nat) : State :=
  if frozen s ∨ (s.get O.MD_MODE = 5 ∧ k < 96) then s
  else
    let x := dline s k
    if x.live = x.target ∧ x.trim = writtenTrim s k then s
    else s.setDline k { x with live := x.target, trim := writtenTrim s k }

/-- Delay lines whose live map or trim differs from its target (CK_DL_SLEWING). -/
def slewingLines (s : State) : Nat :=
  ((List.range 120).filter (fun k => let x := dline s k
    decide (mapOf x.live ≠ mapOf x.target ∨ x.trim ≠ writtenTrim s k))).length

/-- Every line settles, as at an exit from PRINT or when the freeze ends. -/
def State.dlSettleAll (s : State) : State := s.forAll (List.range 120) (fun s k => s.dlSettle k)

end Sys2Proof.Machine
end

