-- ==== Sys2Proof/Machine/Tile.lean ====
section
/-! DEFINITION. The sample codes and the Vyina tile code (R113, R129 to R132): pure decoding of stored lines. -/
namespace Sys2Proof.Machine

/-- Bits of a sample code (Table 5.6). -/
def codeBits (code : Nat) : Nat := if code = 3 then 8 else if code = 4 then 10 else code + 1

/-- One bit of the reflected CRC-32 of IEEE 802.3 (R61). -/
def crcBit (r : Nat) : Nat := if r % 2 = 1 then xorW (r / 2) 0xEDB88320 else r / 2
def crcByte (r : Nat) (b : Byte) : Nat :=
  let x := xorW r b.toNat
  crcBit (crcBit (crcBit (crcBit (crcBit (crcBit (crcBit (crcBit x)))))))
/-- The CRC-32 of a byte string (R61, R131). -/
def crc32 (bs : List Byte) : Nat := xorW (bs.foldl crcByte 0xFFFFFFFF) 0xFFFFFFFF

/-- `n` samples of `b` bits packed upward from bit 0 (R113). -/
def unpack (b n : Nat) (bs : List Byte) : List Nat :=
  let v := ofBytesLE bs
  (List.range n).map (fun k => v / 2 ^ (k * b) % 2 ^ b)

/-- A decode step fails with an error number of Table 5.14. -/
abbrev Dec (α : Type) := Except Nat α

/-- Tokens that cover exactly 256 samples (R132); `got` samples are decoded, and the rest of the tile follows. -/
def tokens (b : Nat) : Nat → Nat → List Byte → List Nat → Dec (List Nat × List Byte)
  | 0, _, _, _ => .error 2
  | fuel + 1, got, bs, acc =>
    if got = 256 then .ok (acc, bs)
    else match bs with
      | [] => .error 4
      | h :: rest =>
        let n := h.toNat % 128 + 1
        if 256 < got + n then .error 2
        else if h.toNat < 128 then
          let w := if b ≤ 8 then 1 else 2
          if rest.length < w then .error 4
          else
            let v := ofBytesLE (rest.take w)
            if 2 ^ b ≤ v then .error 3
            else tokens b fuel (got + n) (rest.drop w) (acc ++ List.replicate n v)
        else
          let w := (n * b + 7) / 8
          if rest.length < w then .error 4
          else if 2 ^ (n * b) ≤ ofBytesLE (rest.take w) then .error 3
          else tokens b fuel (got + n) (rest.drop w) (acc ++ unpack b n (rest.take w))

/-- One line record (Table 5.13) after the line `prev`. -/
def record (b : Nat) (prev : List Nat) : List Byte → Dec (List Nat × List Byte)
  | [] => .error 4
  | op :: rest =>
    if op = 0 then .ok (List.replicate 256 0, rest)
    else if op = 1 then .ok (prev, rest)
    else if op = 2 then
      if rest.length < 32 * b then .error 4 else .ok (unpack b 256 (rest.take (32 * b)), rest.drop (32 * b))
    else if op = 3 then tokens b 257 0 rest []
    else if op = 4 then
      match tokens b 257 0 rest [] with
      | .ok (t, r) => .ok ((prev.zip t).map (fun p => xorW p.1 p.2), r)
      | .error e => .error e
    else .error 1

/-- The records of a tile in order, `n` of them. -/
def records (b : Nat) : Nat → List Nat → List Byte → List (List Nat) → Dec (List (List Nat))
  | 0, _, rest, acc => if rest = [] then .ok acc else .error 4
  | n + 1, prev, bs, acc =>
    match record b prev bs with
    | .ok (l, r) => records b n l r (acc ++ [l])
    | .error e => .error e

/-- A tile: sixteen records and the CRC over them (R131). -/
def tile (b : Nat) (bs : List Byte) : Dec (List (List Nat)) :=
  let body := bs.take (bs.length - 4)
  match records b 16 (List.replicate 256 0) body [] with
  | .error e => .error e
  | .ok ls => if crc32 body = ofBytesLE (bs.drop (bs.length - 4)) then .ok ls else .error 5

end Sys2Proof.Machine
end

