-- ==== Sys2Proof/Machine/Wire.lean ====
section
/-! DEFINITION. The wires of a head link: units, sync headers and scramblers (R238, R240), line frames (R241), requests in basic
mode (R253), the lanes' occupation (R242, R263), and the placement of FI edges (R46, R270). -/
namespace Sys2Proof.Machine

/-- fu of a unit on the lanes: 41.25 ns. -/
def fuUnit : Nat := 1056

/-- Little-endian bytes of a number. -/
def le (n v : Nat) : List Nat := (bytesLE n v).map (·.toNat)

/-! ### Scramblers (R238) -/

/-- `k` payload bits, bit 0 first, through a lane's scrambler 1 + x^39 + x^58: the bits sent, and the scrambler after them.
The scrambler holds the last 58 bits sent, the newest in bit 0. -/
def scramble : Nat → Nat → Nat → Nat × Nat
  | 0, st, _ => (0, st)
  | k + 1, st, x =>
    let b := decide (x % 2 = 1) != (st.testBit 38 != st.testBit 57)
    let r := scramble k ((2 * st + b.toNat) % 2 ^ 58) (x / 2)
    (b.toNat + 2 * r.1, r.2)

/-- Sync header of a unit (R238). -/
def syncOf (ctl : Bool) : Nat := if ctl then 2 else 1

/-- The number that little-endian bytes spell. -/
def numLE (l : List Nat) : Nat := l.foldr (fun b a => b % 256 + 256 * a) 0

/-- Units as the lanes carry them: bytes 0 to 7 on lane 0, 8 to 15 on lane 1, each behind its header. -/
def onLanes : Nat × Nat → List (Bool × List Nat) → List HUnit × (Nat × Nat)
  | st, [] => ([], st)
  | st, u :: l =>
    let a := scramble 64 st.1 (numLE (u.2.take 8))
    let b := scramble 64 st.2 (numLE (u.2.drop 8))
    let r := onLanes (a.2, b.2) l
    (⟨u.1, u.2, syncOf u.1 + 4 * a.1, syncOf u.1 + 4 * b.1⟩ :: r.1, r.2)

/-! ### Units and frames (R240, R241, Table 9.3) -/

/-- The first twelve bytes of a control unit. -/
def ctlHead (type : Nat) (fields : List Nat) : List Nat := type :: (fields ++ List.replicate (11 - fields.length) 0)
def crcOf (l : List Nat) : Nat := crc32 (l.map (BitVec.ofNat 8))
/-- A control unit with its CRC-32 (R240). -/
def ctlUnit (type : Nat) (fields : List Nat) : Bool × List Nat :=
  let h := ctlHead type fields
  (true, h ++ le 4 (crcOf h))

def dropUnit (q : Nat) : Bool × List Nat := ctlUnit 0x55 (le 2 q)
def rotUnit (q flags : Nat) : Bool × List Nat := ctlUnit 0x4B (le 2 q ++ [flags])
def senseUnit (source nozzle : Nat) : Bool × List Nat := ctlUnit 0x78 (source :: le 2 nozzle)
/-- Bytes 1 to 11 of a CMD unit. -/
def cmdFields (c : Cmd) : List Nat := [c.op, c.tag, 0] ++ le 4 c.a0 ++ le 4 c.a1
def cmdUnit (c : Cmd) : Bool × List Nat := ctlUnit 0x66 (cmdFields c)
/-- The k-th TRAIN unit of a step: COUNT in bytes 1 and 9 (DESIGN CHOICE, log 108). -/
def trainUnit (k : Nat) : Bool × List Nat := ctlUnit 0x87 ([k % 256, 0, 0, 0, 0, 0, 0, 0, k % 256])

/-- Codes packed upward from bit 0 (R189, R241). -/
def packCodes (bits : Nat) (codes : List Nat) : Nat := codes.foldr (fun c a => c % 2 ^ bits + 2 ^ bits * a) 0

/-- The units of a line frame (R241). -/
def frameOf (s : State) (n q : Nat) (codes : List Nat) : List (Bool × List Nat) :=
  let d := frameUnits s n
  let start := ctlUnit 0x2D (le 2 q ++ [s.get (O.HP_EPOCH n) % 16] ++ le 2 d ++ le 2 (nozzles s n) ++ [outBits s n])
  let v := packCodes (outBits s n) (codes.take (nozzles s n))
  let data := (List.range d).map (fun u => le 16 (v / 2 ^ (128 * u) % 2 ^ 128))
  let crc := crcOf (start.2.take 12 ++ data.flatten)
  start :: (data.map (fun b => (false, b)) ++ [ctlUnit 0x33 (le 2 q ++ [0] ++ le 4 crc)])

/-! ### The return wire in basic mode (R253) -/

def crc8Bit (r : Nat) : Nat := if 128 ≤ r then xorW (2 * r % 256) 7 else 2 * r
/-- The CRC-8 of a return message. -/
def crc8 (l : List Nat) : Nat :=
  l.foldl (fun r b => crc8Bit (crc8Bit (crc8Bit (crc8Bit (crc8Bit (crc8Bit (crc8Bit (crc8Bit (xorW r b))))))))) 0
/-- The thirteen characters of a request. -/
def retBytes (c : Cmd) : List Nat :=
  let h := ctlHead 0x66 (cmdFields c)
  h ++ [crc8 h]
/-- fu of a request: thirteen characters of ten bits at 80 ns. -/
def fuRequest : Nat := 266240

/-! ### The lanes (R242, R262, R263) -/

/-- First unit boundary at or after an uptime. -/
def unitAt (s : State) (n t : Nat) : Nat :=
  let a := (s.link n).ckAt
  if t ≤ a then a else a + (t - a + (fuUnit - 1)) / fuUnit * fuUnit

/-- Launch trims of the lanes: the step under training, else HP_LANE_TRIM (R262). -/
def laneTrim (s : State) (n : Nat) : Nat × Nat :=
  let k := (s.link n).trims.length
  let v := s.get (O.HP_LANE_TRIM n)
  if linkState s n = 2 ∧ k < 48 then (k, k) else (v % 64, v / 256 % 64)

/-- Taps of the lanes' delay lines, which follow the port's live map (R262, R48) (DESIGN CHOICE, log 108). -/
def laneTaps (s : State) (n : Nat) : Nat × Nat :=
  let m := mapOf (dline s n).live
  (m.getD (laneTrim s n).1 0, m.getD (laneTrim s n).2 0)

/-- The scramblers at an uptime: they run on behind the unit sent just before, and after a stretch of IDLE they stand anywhere
(DESIGN CHOICE, log 9 and 108). -/
def State.scrSeed (s : State) (n at' : Nat) : (Nat × Nat) × State :=
  let k := s.link n
  if k.scrAt = some at' then (k.scr, s)
  else
    let a := s.draw
    let b := a.2.draw
    ((a.1 % 2 ^ 58, b.1 % 2 ^ 58), b.2)

/-- Units leave one after the other from an uptime on. -/
def State.sendUnits (s : State) (n at' : Nat) (us : List (Bool × List Nat)) : State :=
  if us = [] then s
  else
    let r := s.scrSeed n at'
    let w := onLanes r.1 us
    let s := r.2.setLink n { r.2.link n with scr := w.2, scrAt := some (at' + us.length * fuUnit) }
    s.emit (.units n at' (laneTaps s n) w.1)

/-- The units of a frame that begin before an uptime have left. -/
def State.laneFlush (s : State) (n t : Nat) : State :=
  match (s.link n).leaving with
  | none => s
  | some (a, us) =>
    let k := (t - a + (fuUnit - 1)) / fuUnit
    let s := s.sendUnits n a (us.take k)
    s.setLink n { s.link n with leaving := if us.length ≤ k then none else some (a + k * fuUnit, us.drop k) }

/-- A single unit leaves when the lanes are free. -/
def State.unitOut (s : State) (n at' : Nat) (u : Bool × List Nat) : State :=
  let s := (s.laneFlush n at').sendUnits n at' [u]
  s.setLink n { s.link n with laneAt := at' + fuUnit }

/-- A ROT_RESET leaves at the first unit boundary after uptime `u`, even inside a frame, which goes on behind it (R242, R263). -/
def State.rotOut (s : State) (n u : Nat) (x : Bool × List Nat) : State :=
  let b := unitAt s n u
  let s := s.laneFlush n b
  let k := s.link n
  match k.leaving with
  | none => s.unitOut n (max b k.laneAt) x
  | some (_, us) =>
    let s := s.sendUnits n b [x]
    s.setLink n { s.link n with
      leaving := some (b + fuUnit, us)
      laneAt := k.laneAt + fuUnit
      outs := k.outs.map (fun o => if o.1 = k.leavingQ then (o.1, o.2 + fuUnit) else o) }

/-- A frame begins to leave; it is outstanding from its LINE_END on (R265). -/
def State.frameOut (s : State) (n q at' : Nat) (codes : List Nat) : State :=
  let all := (s.mask n).all
  let us := frameOf s n q (codes.zipIdx.map (fun p => if all.contains p.2 then 0 else p.1))
  let done := at' + us.length * fuUnit
  let s := (s.laneFlush n at').inc (O.HP_FRAMES n)
  let k := s.link n
  s.setLink n { k with laneAt := done, leaving := some (at', us), leavingQ := q, outs := (q, done) :: k.outs.filter (fun o => o.1 ≠ q) }

/-- Uptime at which a frame could begin now, behind the DROPs that wait. -/
def laneFree (s : State) (n : Nat) : Nat :=
  let k := s.link n
  max k.laneAt (unitAt s n s.up) + (k.lq.filter (fun w => match w.kind with
    | .drop _ => true
    | _ => false)).length * fuUnit

/-- The press time of an uptime near now. -/
def pressAt (s : State) (u : Nat) : Nat := ofSigned 64 ((s.pt : Int) + u - s.up)
/-- The uptime of a press time near now. -/
def upAtPress (s : State) (t : Nat) : Nat := ((s.up : Int) + ptDiff t s.pt).toNat

/-! ### FI edges (R46, R269, R270) -/

/-- T_f of a line: its fire time, the stagger delay, and the live trim of the port's placement line (R46, R216, R269). -/
def firstEdge (s : State) (n : Nat) (x : TLine) : Nat :=
  ofSigned 64 ((x.edge.getD (x.time + s.get (O.TT_STAGGER_DELAY n)) : Nat) + (dline s n).trim)

/-- FI of the port has been low for `gap` fu. -/
def fiQuiet (s : State) (n gap : Nat) : Bool :=
  match (s.fire n).endAt with
  | none => true
  | some e => ptLe (e + gap) s.pt

/-- The counter `k` FIRE ticks after the present one, as an offset from it, steered at the present rate
(DESIGN CHOICE, log 109). -/
def tickAhead (s : State) (k : Int) : Int := 64 * k + Int.tdiv (s.ring.acc + k * s.getI O.CK_RATE_ADJ) 15625000

/-- An edge at press time `e` is placed (R46): the counter at the last FIRE tick not after it, and the tap of the live map for the
rest (DESIGN CHOICE, log 109). -/
def placeEdge (s : State) (n e : Nat) : Nat × Nat :=
  let d := ptDiff e s.tick
  let k := Int.fdiv (d * 15625000 - s.ring.acc) (64 * 15625000 + s.getI O.CK_RATE_ADJ)
  let k := if d < tickAhead s k then k - 1 else k
  (ofSigned 64 (s.tick + tickAhead s k), (mapOf (dline s n).live).getD (min 64 (d - tickAhead s k).toNat) 0)

/-- Times of the edges of a rotation or warming pulse, rising and falling in turn (Table 10.1). -/
def fireEdges (f : Fire) : List Nat :=
  (List.range f.slots).flatMap (fun g => (f.starts.zip f.widths).flatMap (fun p =>
    [(f.start + g * f.slot + p.1) % 2 ^ 64, (f.start + g * f.slot + p.1 + p.2) % 2 ^ 64]))

/-- FI carries a rotation or a warming pulse, its first edge at press time `t`: each edge is placed (R269, R270), and the ticks that
it has already met are counted (R296). -/
def State.drive (s : State) (n t slots slot : Nat) (starts widths : List Nat) : State :=
  let ends := (t + (slots - 1) * slot + starts.getLastD 0 + widths.getLastD 0) % 2 ^ 64
  let s := s.setFire n { s.fire n with start := t % 2 ^ 64, slots := slots, slot := slot, starts := starts, widths := widths, endAt := some ends }
  let s := s.emit (.fire n ((fireEdges (s.fire n)).map (placeEdge s n)))
  s.peakRun (upAtPress s t - 1) s.up

end Sys2Proof.Machine
end

