-- ==== Sys2Proof/Machine/Bank.lean ====
section
/-! DEFINITION. The sense bank's arbiter (R334 to R339) and what a converter delivers (R331 to R333, R346). -/
namespace Sys2Proof.Machine

/-- The SENSE cycle of an uptime: 64 MHz, 400 fu. -/
def senseCycle (s : State) : Nat := s.up / 400

/-- The acquisition class of an input (Table 12.1). -/
def acqClass (i : Nat) : Nat :=
  if i < 0x60 then 0 else if i < 0x70 then 1 else if i < 0x9C then 2 else if i < 0xA0 then 3 else 4

/-- fu of a conversion: its acquisition and 12 SENSE cycles (R331). -/
def convTime (acq : Nat) : Nat := (acq + 12) * 400
def headConv (s : State) : Nat := convTime (s.get (O.SB_ACQ 0))

/-- The acquisition of a request's conversions in SENSE cycles: a host sequence brings its own, the others take SB_ACQ of their
input's class as it stands (R331, R353). -/
def acqOf (s : State) (r : Req) : Nat := if r.what = .host then r.acq else s.get (O.SB_ACQ (acqClass r.input))

/-- fu of the settling of SNS, and the margin before the next FI edge (R299). -/
def fuSettle : Nat := 2 * fuUs
def fuMargin : Nat := 2560

/-- The readings of a head's sense wire, which select a source first (R257, R298, R306, R308). -/
def Sensed.ofHead : Sensed → Bool
  | .heater | .temp | .ref | .deep => true
  | _ => false

/-- SOURCE of Table 9.10. -/
def Sensed.source : Sensed → Nat
  | .temp => 1
  | .ref => 3
  | _ => 2

/-- Every input a request converts. -/
def Req.inputs (r : Req) : List Nat :=
  match r.what with
  | .die => [0xA4, 0xA5, 0xA6, 0xA7]
  | .cal => if r.input = 0xA2 then [0xA2, 0xA3] else [r.input]
  | _ => [r.input]

def converters : List Nat := List.range 16
def convRetired (s : State) (c : Nat) : Bool := s.bit O.SB_CONV_RETIRED c
/-- The maintenance slot that claims a converter (R358). -/
def claimant (s : State) (c : Nat) : Option Nat := (List.range 8).find? (fun k => (s.mt k).convs.contains c)

/-- An input is held by a grant (R330). -/
def inputHeld (s : State) (i : Nat) : Bool :=
  converters.any (fun c => match (s.sconv c).grant with
    | some g => g.req.inputs.contains i
    | none => false)

/-- A request may use a free converter (R335, R360). -/
def mayUse (s : State) (r : Req) (c : Nat) : Bool :=
  (s.sconv c).grant.isNone && !convRetired s c && decide (claimant s c = r.slot)
    && (match r.conv with
      | some x => decide (x = c)
      | none => decide (s.get (O.SB_FLOOR c) ≤ s.get (O.SB_RANK r.cls)))

/-- The converter granted: the lowest floor, then the lowest number (R335). -/
def pickConv (s : State) (r : Req) : Option Nat :=
  (converters.filter (mayUse s r)).foldl (fun b c => match b with
    | none => some c
    | some x => if s.get (O.SB_FLOOR c) < s.get (O.SB_FLOOR x) then some c else b) none

/-- The next warming pulse falls due within the window of a reading that starts at uptime `from'` (R299, R300). -/
def warmSoon (s : State) (n from' : Nat) : Bool :=
  let per := s.get (O.HP_WARM_PERIOD n)
  match (s.fire n).warmAt with
  | none => false
  | some a => decide (per ≠ 0) && decide (a + per * 64 ≤ max (laneFree s n) (unitAt s n from') + fuUnit + fuSettle + headConv s + fuMargin)

/-- An idle reading of a head's sense wire, which keeps clear of warming pulses (R300). -/
def Req.idle (r : Req) : Bool := r.what.ofHead && r.slot.isNone && r.deadline.isNone

/-- A request that may be granted in this SENSE cycle: it has entered the contest, and its deadline cycle has not passed (R335,
R337). -/
def grantable (s : State) (r : Req) : Bool :=
  decide (r.entered ≤ senseCycle s) && r.deadline.all (fun d => decide (senseCycle s ≤ d / 400))
    && (pickConv s r).isSome && !r.inputs.any (inputHeld s) && !(r.idle && warmSoon s r.inst s.up)

/-- Turns an instance still has to wait in its class (R334). -/
def turnOf (s : State) (r : Req) : Nat := (r.inst + 4096 - tget 4095 s.bank.turn r.cls - 1) % 4096

/-- The order in which waiting requests are served (R334). -/
def servedFirst (s : State) (a b : Req) : Bool :=
  let ra := s.get (O.SB_RANK a.cls)
  let rb := s.get (O.SB_RANK b.cls)
  decide (rb < ra) || (decide (ra = rb) && (decide (a.entered < b.entered) || (decide (a.entered = b.entered)
    && (decide (a.cls < b.cls) || (decide (a.cls = b.cls) && decide (turnOf s a < turnOf s b))))))

/-- The next request to be granted. -/
def nextReq (s : State) : Option Req :=
  (s.bank.reqs.filter (grantable s)).foldl (fun b r => match b with
    | none => some r
    | some x => if servedFirst s r x then some r else b) none

/-! ### What waits for the lanes (R242, R245, R263) -/

/-- A line of the port's, or the maintenance rotation to come, by its LSEQ. -/
def lineOf (s : State) (n q : Nat) : Option TLine :=
  ((s.sched n).lines ++ (s.sched n).maint.toList).find? (fun x => decide (x.lseq = q))
def State.lineMap (s : State) (n q : Nat) (f : TLine → TLine) : State :=
  let c := s.sched n
  let g := fun (x : TLine) => if x.lseq = q then f x else x
  s.setSched n { c with lines := c.lines.map g, maint := c.maint.map g }

/-- Frames at the head that no ROT_RESET has named yet (R245). -/
def framesAtHead (s : State) (n : Nat) : Nat :=
  (((s.sched n).lines ++ (s.sched n).maint.toList).filter (fun x => !x.latched && decide (x.frame = 1 ∨ x.frame = 2))).length
    + (s.link n).astray.length

/-- A frame that starts at uptime `at'` leaves its last unit at least 300 ns before the line's first FI edge; a HELD line has
none yet (R263, R265). -/
def frameInTime (s : State) (n : Nat) (x : TLine) (at' : Nat) : Bool :=
  decide (x.st = .held) || ptLe (pressAt s (at' + (frameUnits s n + 2) * fuUnit) + 7680) (firstEdge s n x)

/-- The new frame that could leave now: of the first line without one, or of one whose frame carries a nozzle masked since, which
the head replaces (R148, R244, R245). -/
def nextFrame (s : State) (n : Nat) : Option TLine :=
  if !linkUp s n then none
  else ((s.sched n).lines.find? (fun x => (decide (x.frame = 0) || (x.stale && decide (x.frame ≤ 2))) && !x.line.blank && !x.line.skip && !x.latched)).filter
    (fun x => (x.stale || decide (framesAtHead s n < rcFrameDepth s n)) && frameInTime s n x (laneFree s n))

/-- A line loses its frame: it fires blank (R263, R265). -/
def State.headBlank (s : State) (n : Nat) : State :=
  (s.inc (O.HP_HEAD_BLANKS n)).hit (O.HP_LINK_STATUS n) B.HP_LINK_STATUS_HEAD_BLANK (evRetry n)

/-- The order of precedence (R263): a new frame stands third. -/
def LKind.prio : LKind → Nat
  | .drop _ => 1
  | .resend _ => 2
  | .sense _ => 4
  | .cmd => 5

/-- What leaves first of what waits; a new frame goes before a SENSE or CMD, and a SENSE of a gap reading not before the gap. -/
def laneFirst (s : State) (n : Nat) : Option LWait :=
  match (s.link n).lq.filter (fun w => decide (w.since ≤ s.up)) with
  | [] => none
  | w :: l =>
    let b := l.foldl (fun a x => if x.kind.prio < a.kind.prio then x else a) w
    if 4 ≤ b.kind.prio ∧ (nextFrame s n).isSome then none else some b

/-- A SENSE leaves for the grant of converter `c`: SNS settles behind it and behind the last FI edge (R257, R299). A gap reading
that no longer fits is passed over (R300). -/
def State.senseOut (s : State) (n c at' : Nat) : State :=
  match (s.sconv c).grant.filter (fun g => g.waits && decide (g.req.inst = n)) with
  | none => s
  | some g =>
    let late : Bool := match g.req.deadline with
      | some d => decide (d < at') && decide (g.req.cls = 3)
      | none => false
    if late then (s.setSconv c { s.sconv c with grant := none }).inc (O.HP_ROLL_MISSED n)
    else
      let s := s.unitOut n at' (senseUnit g.req.what.source (if g.req.what = .temp ∨ g.req.what = .ref then 0 else g.req.nozzle))
      let e := pressAt s (at' + fuUnit)
      let e := match (s.fire n).endAt with
        | some f => ptMax e f
        | none => e
      s.setSconv c { s.sconv c with grant := some { g with waits := false, start := (e + fuSettle) % 2 ^ 64 } }

/-- What waited leaves. -/
def State.laneOut (s : State) (n : Nat) (w : LWait) : State :=
  let k := s.link n
  let at' := max k.laneAt (unitAt s n w.since)
  let s := s.setLink n { k with lq := k.lq.erase w }
  match w.kind with
  | .drop q => s.unitOut n at' (dropUnit q)
  | .sense c => s.senseOut n c at'
  | .cmd => match k.cmd with
    | none => s
    | some c =>
      let s := s.unitOut n at' (cmdUnit c)
      s.setLink n { s.link n with cmd := some { c with sentAt := some (at' + fuUnit) } }
  | .resend q => match (lineOf s n q).filter (fun x => decide (x.frame = 4) && !x.latched) with
    | none => s
    | some x =>
      if frameInTime s n x at' then (s.frameOut n q at' x.line.data).lineMap n q (fun x => { x with frame := 1, stale := false })
      else (s.lineMap n q (fun x => { x with frame := 3 })).headBlank n

/-- What waits leaves while the lanes are free, at most `fuel` units and frames. -/
def State.laneRun (s : State) (n : Nat) : Nat → State
  | 0 => s
  | fuel + 1 =>
    if s.up < (s.link n).laneAt then s
    else match laneFirst s n with
      | none => s.setLink n { s.link n with lq := (s.link n).lq.map (fun w => { w with since := max w.since s.up }) }
      | some w => (s.laneOut n w).laneRun n fuel

/-- Something is put on the lanes, to leave at uptime `from'` or later: at once where they are free then
(DESIGN CHOICE, log 108). -/
def State.lanePutAt (s : State) (n : Nat) (kind : LKind) (from' : Nat) : State :=
  let k := s.link n
  (s.setLink n { k with lq := k.lq ++ [{ kind := kind, since := max s.up from' }] }).laneRun n (k.lq.length + 1)
def State.lanePut (s : State) (n : Nat) (kind : LKind) : State := s.lanePutAt n kind s.up

/-- Grant a request converter `c`: a head's reading selects its source first (R257, R299), a gap reading not before the gap, until
which the converter is held idle (R337). -/
def State.grantTo (s : State) (r : Req) (c : Nat) : State :=
  let b := s.bank
  let s := s.setBank { b with reqs := b.reqs.erase r, turn := tput b.turn r.cls r.inst }
  let s := s.rise (O.SB_WAIT_MAX r.cls) (senseCycle s - r.entered)
  let s := s.setSconv c { s.sconv c with grant := some { req := r, at' := s.up, start := s.pt, waits := r.what.ofHead } }
  if r.what.ofHead then s.lanePutAt r.inst (.sense c) r.gapAt else s

/-- Grant waiting requests until none can be granted (R334). -/
def State.senseGrantN (s : State) : Nat → State
  | 0 => s
  | fuel + 1 =>
    match nextReq s with
    | none => s
    | some r => match pickConv s r with
      | none => s
      | some c => (s.grantTo r c).senseGrantN fuel

/-- The arbiter decides; the bank runs in every mode but RESET and BOOT. -/
def State.senseGrant (s : State) : State :=
  if s.mode = mdReset ∨ s.mode = mdBoot then s else s.senseGrantN 16

/-- Time runs on for a command of a head port: what waits for its lanes leaves as they become free. -/
def State.advPort (s : State) (n t : Nat) : State :=
  let s := s.adv t
  (s.laneRun n (s.link n).lq.length).senseGrant

/-- Enter a request. -/
def State.senseAsk (s : State) (r : Req) : State :=
  (s.setBank { s.bank with reqs := s.bank.reqs ++ [r] }).senseGrant

/-- Withdraw waiting requests. -/
def State.senseWithdraw (s : State) (f : Req → Bool) : State :=
  s.setBank { s.bank with reqs := s.bank.reqs.filter (fun r => !f r) }

/-- Free converter `c` (R336). -/
def State.senseRelease (s : State) (c : Nat) : State :=
  (s.setSconv c { s.sconv c with grant := none }).senseGrant

/-- Requests and grants of a kind. -/
def asking (s : State) (f : Req → Bool) : Bool :=
  s.bank.reqs.any f || converters.any (fun c => match (s.sconv c).grant with
    | some g => f g.req
    | none => false)

/-- Drop requests and grants alike. -/
def State.senseDrop (s : State) (f : Req → Bool) : State :=
  let s := s.senseWithdraw f
  let s := s.forAll converters (fun s c => match (s.sconv c).grant with
    | some g => if f g.req then s.setSconv c { s.sconv c with grant := none } else s
    | none => s)
  s.senseGrant

/-- The readings of a head's sense wire by roll call and temperature sensing. -/
def ofPort (n : Nat) (r : Req) : Bool := r.what.ofHead && decide (r.inst = n)

/-- RAMPING (R346). -/
def State.rampSync (s : State) : State :=
  s.setB O.SB_STATUS B.SB_STATUS_RAMPING (converters.any (fun c => let x := s.sconv c
    decide (s.getI (O.SB_CONV_OFFSET c) ≠ x.offT ∨ s.get (O.SB_CONV_GAIN c) ≠ x.gainT)))

/-- One conversion of converter `c` since its target was written: the live coefficients step (R346). -/
def State.rampStep (s : State) (c : Nat) : State :=
  let x := s.sconv c
  if 256 ≤ x.m then s
  else
    let m := x.m + 1
    let s := s.setSconv c { x with m := m }
    let off := x.offOld + Int.tdiv ((x.offT - x.offOld) * m) 256
    let gain := (x.gainOld : Int) + Int.tdiv (((x.gainT : Int) - x.gainOld) * m) 256
    ((s.setI (O.SB_CONV_OFFSET c) off).set (O.SB_CONV_GAIN c) gain.toNat).rampSync

/-- The corrected code for coefficients (R332). -/
def correct (off : Int) (gain : Nat) (code : Nat) : Nat :=
  (clampI 0 65535 (Int.fdiv ((16 * (code : Int) - off) * gain + 2 ^ 18) (2 ^ 19))).toNat

/-- A code corrected with the live coefficients of converter `c`. -/
def corrected (s : State) (c code : Nat) : Nat := correct (s.getI (O.SB_CONV_OFFSET c)) (s.get (O.SB_CONV_GAIN c)) code

/-- The voltage of a corrected code in 1/16 mV (R332). -/
def sixteenths (s : State) (code : Nat) : Nat := (divRound (code * s.get O.SB_VREF_MV * 16) 65536).toNat

/-- An input in 1/16 mV is at or above 0.95 × VREF, or at or below 5 mV. -/
def nearVref (s : State) (u : Nat) : Bool := decide (95 * s.get O.SB_VREF_MV * 16 ≤ 100 * u)
def nearZero (u : Nat) : Bool := decide (u ≤ 80)

end Sys2Proof.Machine
end

