-- ==== Sys2Proof/Machine/Mask.lean ====
section
/-! DEFINITION. The nozzle mask, the compensation table and the head's rank (R147, R161 to R165, R314). -/
namespace Sys2Proof.Machine

/-- Entry `e` of port `n`'s compensation table (Table 6.9). -/
def compObj (n e : Nat) : Obj := if e < 128 then O.SCR_COMP n e else O.SCR_COMP2 n (e - 128)
def compNozzle (v : Nat) : Nat := v % 2 ^ 14
def compValid (v : Nat) : Bool := bitOf v 31
/-- The valid entries of a port, with their numbers. -/
def compEntries (s : State) (n : Nat) : List (Nat × Nat) :=
  ((List.range 256).map (fun e => (e, s.get (compObj n e)))).filter (fun p => compValid p.2)
/-- The valid entry that names a nozzle. -/
def compOf (s : State) (n k : Nat) : Option (Nat × Nat) := (compEntries s n).find? (fun p => compNozzle p.2 = k)
/-- The lowest-numbered free entry. -/
def compFree (s : State) (n : Nat) : Option Nat := (List.range 256).find? (fun e => !compValid (s.get (compObj n e)))

/-- Make a record write pending (R314, R316). -/
def State.recPend (s : State) (n cause : Nat) (byMask : Bool) : State :=
  let h := s.health n
  let was := s.bit (O.HP_HEALTH_STATUS n) B.HP_HEALTH_STATUS_REC_PENDING
  (s.setHealth n { h with recCause := cause, recByMask := byMask && (h.recByMask || !was) }).setB
    (O.HP_HEALTH_STATUS n) B.HP_HEALTH_STATUS_REC_PENDING true

/-- Set HP_RANK; each change sets RANK_CHANGED, raises HP_NOZZLE and makes a record write pending (R314). -/
def State.rankTo (s : State) (n r cause : Nat) : State :=
  if s.get (O.HP_RANK n) = r then s
  else ((s.set (O.HP_RANK n) r).hit (O.HP_HEALTH_EVENTS n) B.HP_HEALTH_EVENTS_RANK_CHANGED (evNozzle n)).recPend n cause false

/-- The count rank: the least k with SCR_MASKED at most RANK_BIN[k] (R314). -/
def countRank (s : State) (n : Nat) : Option Nat :=
  (List.range 8).find? (fun k => s.get (O.SCR_MASKED n) ≤ rcRankBin s n k)

/-- RANK_OVER follows SCR_MASKED and the report card (R314). -/
def State.rankOver (s : State) (n : Nat) : State :=
  s.setB (O.HP_HEALTH_STATUS n) B.HP_HEALTH_STATUS_RANK_OVER (countRank s n).isNone

/-- At each change of SCR_MASKED, HP_RANK becomes the worse of itself and the count rank (R314). -/
def State.rankCount (s : State) (n : Nat) : State :=
  if !rcValid s n then s
  else
    let s := s.rankOver n
    s.rankTo n (max (s.get (O.HP_RANK n)) ((countRank s n).getD 7)) 1

/-- Masked nozzles: those of valid entries and those held by roll call or SCR_MASK_CMD (R147). -/
def maskedNow (s : State) (n : Nat) : List Nat :=
  let m := s.mask n
  ((compEntries s n).map (fun p => compNozzle p.2) ++ m.byRoll ++ m.byHost).foldl setIns []

/-- Masked nozzles without an entry. -/
def uncompensated (s : State) (n : Nat) : List Nat :=
  let named := (compEntries s n).map (fun p => compNozzle p.2)
  (maskedNow s n).filter (fun k => !named.contains k)

/-- Write a default entry for a nozzle (R162). -/
def State.compTake (s : State) (n e k : Nat) : State :=
  s.set (compObj n e) (2 ^ 31 + s.get (O.SCR_COMP_DEFAULT n) % 2 ^ 31 / 2 ^ 14 * 2 ^ 14 + k)

/-- Freed entries take the lowest masked nozzles without an entry (R164). -/
def State.promote (s : State) (n : Nat) : Nat → State
  | 0 => s
  | fuel + 1 =>
    match uncompensated s n, compFree s n with
    | k :: _, some e =>
      ((s.compTake n e k).setB (O.SCR_EVENTS n) B.SCR_EVENTS_PROMOTED true).promote n fuel
    | _, _ => s

/-- Codes of a line that a set of nozzles would fire. -/
def firesAny (l : Line) (ks : List Nat) : Bool := ks.any (fun k => decide (l.data.getD k 0 ≠ 0))

/-- Nozzles have become masked: a frame already sent for the second line from now on, or a later one, must not fire them
(R148). -/
def State.staleFrames (s : State) (n : Nat) (ks : List Nat) : State :=
  let c := s.sched n
  let ahead := c.lines.filter (fun x => x.st ≠ .firing)
  s.setSched n { c with lines := c.lines.filter (fun x => x.st = .firing) ++ ahead.zipIdx.map (fun p =>
    if 1 ≤ p.2 ∧ (p.1.frame = 1 ∨ p.1.frame = 2) ∧ firesAny p.1.line ks then { p.1 with stale := true } else p.1) }

/-- Take over entries and holders into the counts, the status bits and the rank (R162, R163, R314). `raised` says
whether uncompensated nozzles arrived, whose first lowers the rank by one step (R163). -/
def State.maskSync (s : State) (n : Nat) : State :=
  let all := maskedNow s n
  let unc := (uncompensated s n).length
  let used := (compEntries s n).length
  let was := s.get (O.SCR_UNCOMPENSATED n)
  let wasMasked := s.get (O.SCR_MASKED n)
  let new := all.filter (fun k => !(s.mask n).all.contains k)
  let s := s.setMask n { s.mask n with all := all }
  let s := if new = [] then s else s.staleFrames n new
  let s := ((s.set (O.SCR_COMP_USED n) used).set (O.SCR_MASKED n) all.length).set (O.SCR_UNCOMPENSATED n) unc
  let s := (s.setB (O.SCR_STATUS n) B.SCR_STATUS_COMP_FULL (decide (used = 256))).setB
    (O.SCR_STATUS n) B.SCR_STATUS_UNCOMP (decide (unc ≠ 0))
  let s := if wasMasked = all.length then s else s.rankCount n
  if was = 0 ∧ unc ≠ 0 then s.rankTo n (min 7 (s.get (O.HP_RANK n) + 1)) 2 else s

/-- A nozzle has been masked and compensated: HP_NOZZLE, counted in SCR_COMP_USED (R16, R452) (DEDUCED, log 105). -/
def State.maskRaise (s : State) (n : Nat) : State := s.raise (evNozzle n) 0 (detailOf (O.SCR_COMP_USED n) 0xFF)

/-- Mask a nozzle for roll call or for SCR_MASK_CMD: it takes the lowest free entry, or is masked uncompensated, which
raises HP_NOZZLE (R162). A nozzle masked and compensated raises it too (Table 1.3); not one restored at a bring-up. -/
def State.maskNozzle (s : State) (n k : Nat) (roll : Bool) (quiet : Bool := false) : State :=
  let m := s.mask n
  let had := m.all.contains k
  let s := s.setMask n (if roll then { m with byRoll := setIns m.byRoll k } else { m with byHost := setIns m.byHost k })
  if had then s
  else match compFree s n with
    | some e =>
      let s := if quiet then s else s.maskRaise n
      (s.compTake n e k).maskSync n
    | none =>
      let s := s.setB (O.SCR_EVENTS n) B.SCR_EVENTS_COMP_OVERFLOW true
      let s := if quiet then s else s.raise (evNozzle n) 0 (detailOf (O.SCR_EVENTS n) B.SCR_EVENTS_COMP_OVERFLOW)
      s.maskSync n

/-- A write of SCR_MASK_CMD (R165). -/
def wrMaskCmd (n v : Nat) (s : State) : WRes :=
  let k := v % 2 ^ 14
  if nozzles s n ≤ k then .no s abRange
  else if bitOf v 31 then .ok (s.maskNozzle n k false)
  else if !(s.mask n).all.contains k then .ok s
  else
    let m := s.mask n
    let s := s.setMask n { m with byRoll := setDel m.byRoll k, byHost := setDel m.byHost k }
    let s := match compOf s n k with
      | some p => s.set (compObj n p.1) (p.2 % 2 ^ 31)
      | none => s
    .ok ((s.promote n 256).maskSync n)

/-- A write of compensation entry `e` (R161). -/
def wrComp (n e v : Nat) (s : State) : WRes :=
  let w := fun lo => fieldOf v ⟨lo, 4⟩
  let k := compNozzle v
  if compValid v then
    if nozzles s n ≤ k ∨ 24 < w 14 + w 18 + w 22 + w 26
        ∨ (compEntries s n).any (fun p => decide (p.1 ≠ e ∧ compNozzle p.2 = k)) then .no s abRange
    else
      let s := if (s.mask n).all.contains k then s else s.maskRaise n
      .ok (((s.set (compObj n e) v).promote n 256).maskSync n)
  else .ok (((s.set (compObj n e) v).promote n 256).maskSync n)

/-- SCR_MASK_CMD_MASK (R165): a write of SCR_MASK_CMD with bit 31 set. -/
def execScrMaskCmdMask (p : Path) (n v : Nat) (s : State) : Host.Outcome State Fault Refusal :=
  access p (O.SCR_MASK_CMD n) s (wrMaskCmd n (v % 2 ^ 31 + 2 ^ 31))

/-- SCR_MASK_CMD_UNMASK (R165): a write of SCR_MASK_CMD with bit 31 clear. -/
def execScrMaskCmdUnmask (p : Path) (n v : Nat) (s : State) : Host.Outcome State Fault Refusal :=
  access p (O.SCR_MASK_CMD n) s (wrMaskCmd n (v % 2 ^ 31))

/-- SCR_COMP_WRITE (R161). -/
def execScrCompWrite (p : Path) (n e v : Nat) (s : State) : Host.Outcome State Fault Refusal :=
  access p (compObj n e) s (wrComp n e v)

end Sys2Proof.Machine
end

