-- ==== Sys2Proof/Machine/Screen.lean ====
section
/-! DEFINITION. Screening (chapter 6): the geometry of a stripe (R141 to R144), the six steps of a lane (R145 to R160),
and the commit of a lane's shadow bank (R166 to R169). -/
namespace Sys2Proof.Machine

/-! ### Jobs as the lanes see them -/

/-- State of a job slot (Table 5.24): 0 FREE, 1 OPEN, 2 RUNNING, 3 DRAINING, 4 HELD. -/
def jobState (s : State) (j : Nat) : Nat := s.get (O.JOB_STATE j) % 128
def jobEligible (s : State) (j : Nat) : Bool := bitOf (s.get (O.JOB_STATE j)) 7
/-- The RUNNING job; while a switch takes place, the new one (R123). -/
def runningJob (s : State) : Option Nat :=
  slots.find? (fun j => decide (jobState s j = 2) && (s.job j).switchAt.isNone)
/-- The stripe of a job whose primary is port `n` (R105). -/
def stripeIdx (s : State) (j n : Nat) : Option Nat := (s.job j).stripes.findIdx? (fun t => decide (t.port = n))
def stripeAt (s : State) (j i : Nat) : Stripe := (s.job j).stripes.getD i {}
def planeAt (s : State) (j p : Nat) : Plane := (s.job j).planes.getD p {}
/-- The eligible job that has been eligible longest, among those that satisfy `f` (R119). -/
def earliestEligible (s : State) (f : Nat → Bool) : Option Nat :=
  (slots.filter (fun j => jobEligible s j && f j)).foldl
    (fun b j => match b with
      | none => some j
      | some i => if (s.job j).elig < (s.job i).elig then some j else some i) none
/-- The job the arming checks of a port are applied to (R227). -/
def armJob (s : State) (n : Nat) : Option Nat :=
  match runningJob s with
  | some j => if (stripeIdx s j n).isSome then some j else none
  | none => earliestEligible s (fun j => (stripeIdx s j n).isSome)

/-- Whether a stripe fits a port under a lane configuration (R143). -/
def fitsCfg (s : State) (n cfg j i : Nat) : Bool :=
  let t := stripeAt s j i
  let p := planeAt s j t.plane
  let m := nozzles s n / coverOf cfg
  let mode := fieldOf cfg B.SCR_CONFIG_MODE
  (if p.res then decide (2 * t.cols = m ∨ 2 * t.cols = m + 1) else decide (t.cols = m))
    && decide (mode ≠ 0)
    && (if mode = 1 then decide (p.code ≤ 2 ∧ codeBits p.code ≤ fieldOf cfg B.SCR_CONFIG_OUT_BITS)
        else decide (p.code = 3 ∨ p.code = 4))

def fits (s : State) (n j i : Nat) : Bool := fitsCfg s n (s.get (O.SCR_CONFIG_LIVE n)) j i

/-- Absolute column of column 0 of a stripe (R142). -/
def firstColumn (s : State) (j i : Nat) : Nat :=
  let t := stripeAt s j i
  if (planeAt s j t.plane).res then 2 * t.first else t.first

/-! ### Level table (R154, R155) -/

def levelAt (l : List Nat) (k : Nat) : Nat := l.getD k 0

/-- Whether a level table is valid (R154). -/
def levelsValid (nlev bits : Nat) (l : List Nat) : Bool :=
  decide (2 ≤ nlev ∧ nlev ≤ 2 ^ bits ∧ levelAt l 0 = 0 ∧ levelAt l (nlev - 1) ≤ 1023)
    && (List.range (nlev - 1)).all (fun k => decide (levelAt l k < levelAt l (k + 1)))

/-- Base code and fraction of a value (R155). -/
def levelOf (b : ScrLive) (x : Nat) : Nat × Nat :=
  if levelAt b.levels (b.nlev - 1) ≤ x then (b.nlev - 1, 0)
  else
    let k := (List.range b.nlev).foldl (fun k i => if levelAt b.levels i ≤ x then i else k) 0
    let lo := levelAt b.levels k
    (k, (x - lo) * 1024 / (levelAt b.levels (k + 1) - lo))

/-! ### Steps 1 and 2: input and tone (R145, R146) -/

/-- The working value of one stored sample, and whether the code was clamped (R145). -/
def workingValue (b : ScrLive) (mode code v : Nat) : Nat × Bool :=
  if mode = 1 then
    if v < b.nlev then (levelAt b.levels v, false) else (levelAt b.levels (b.nlev - 1), true)
  else if code = 3 then (4 * v + v / 64, false)
  else (v, false)

/-- Entry of a tone slot (Table 6.10). -/
def toneEntry (s : State) (slot x : Nat) : Nat := s.mgetLE (domAddr (0x5010 + slot) (2 * x)) 2 % 1024

/-! ### Step 3: compensation (R150 to R152) -/

/-- The nozzle that fires column `c` on line `j`: the firing copy, or with ROW the next copy not masked (R141, R152);
none where the column is a masked column. -/
def firingNozzle (s : State) (n cover m j c : Nat) : Option Nat :=
  let masked := (s.mask n).all
  let cp := j % cover
  let k := cp * m + c
  if !masked.contains k then some k
  else match compOf s n k with
    | some e =>
      if cover > 1 ∧ bitOf e.2 30 then
        ((List.range cover).map (fun i => (cp + i) % cover * m + c)).find? (fun k => !masked.contains k)
      else none
    | none => none

/-- The shares of a masked column: value, target column or none where it is lost (R150, R151). -/
def sharesOf (maskedCols : List Nat) (m c x e : Nat) : List (Nat × Option Nat) :=
  [((14 : Nat), (-1 : Int)), (18, 1), (22, -2), (26, 2)].filterMap (fun p =>
    let w := fieldOf e ⟨p.1, 4⟩
    if w = 0 then none
    else
      let dir : Int := if p.2 < 0 then -1 else 1
      let ok := fun t : Int => decide (0 ≤ t ∧ t < (m : Int)) && !maskedCols.contains t.toNat
      let t0 : Int := c + p.2
      let t := if 0 ≤ t0 ∧ maskedCols.contains t0.toNat then t0 + dir else t0
      some ((x * w + 8) / 16, if ok t then some t.toNat else none))

/-- Step 3 over the line: the values, the clamps and the lost shares (R150, R151). -/
def compensate (s : State) (n m j cover : Nat) (xs : List Nat) : List Nat × Nat × Nat :=
  let bad := (List.range m).filter (fun c => (firingNozzle s n cover m j c).isNone)
  if bad = [] then (xs, 0, 0)
  else
    let sh := bad.flatMap (fun c =>
      match compOf s n (j % cover * m + c) with
      | some e => sharesOf bad m c (xs.getD c 0) e.2
      | none => [])
    let ys := xs.zipIdx.map (fun p =>
      (if bad.contains p.2 then 0 else p.1) + ((sh.filter (fun q => q.2 = some p.2)).map (·.1)).sum)
    (ys.map (fun y => min y 1023), (ys.filter (fun y => 1023 < y)).length, (sh.filter (fun q => q.2.isNone)).length)

/-! ### Step 4: density (R153) -/

/-- A value under a density entry. -/
def densityApply (e x : Nat) : Nat :=
  (clampI 0 1023 (((x * (512 + e / 64) + 512) / 1024 : Nat) + toSigned 6 (e % 64))).toNat

/-! ### Step 5: screening (R156 to R159) -/

/-- Threshold of a matrix slot (Table 6.2). -/
def matrixEntry (s : State) (slot row col : Nat) : Nat :=
  let a := domAddr (0x5000 + slot)
  let w := s.mgetLE (a 2) 2
  let h := s.mgetLE (a 4) 2
  s.mgetLE (a (16 + 2 * ((if h = 0 then 0 else row % h) * w + (if w = 0 then 0 else col % w)))) 2 % 1024

/-- The dimensions a matrix or tile may have (Tables 6.2, 7.3, 7.4). -/
def dimOk (d : Nat) : Bool := [8, 16, 32, 64, 128, 256].contains d

/-- Whether a domain object holds a table of a kind: magic, dimensions, reserved bytes, and its entries' limit. -/
def tableValid (s : State) (index magic entryBytes limit : Nat) : Bool :=
  let a := domAddr index
  let w := s.mgetLE (a 2) 2
  let h := s.mgetLE (a 4) 2
  decide (s.mgetLE (a 0) 2 = magic) && dimOk w && dimOk h && decide (s.mgetLE (a 6) 10 = 0)
    && (List.range (w * h)).all (fun i => decide (s.mgetLE (a (16 + entryBytes * i)) entryBytes < limit))

/-- A valid matrix slot (R157). -/
def matrixValid (s : State) (slot : Nat) : Bool := tableValid s (0x5000 + slot) 0x4D54 2 1024

/-- The quantizer of DIFFUSE mode (R158). -/
def quantize (b : ScrLive) (a : Int) : Nat :=
  if a < 0 then 0
  else
    let kf := levelOf b a.toNat
    if 512 ≤ kf.2 then kf.1 + 1 else kf.1

def satErr (i : Int) : Int := clampI (-2048) 2047 i
def floorDiv16 (i : Int) : Int := Int.fdiv (i + 8) 16

/-- Add a part to a pair's error for the next line; a part outside the stripe is lost (R159). -/
def diffAdd (dn : List Int) (p : Int) (v : Int) : List Int :=
  if p < 0 then dn else dn.zipIdx.map (fun q => if q.2 = p.toNat then satErr (q.1 + v) else q.1)

/-- One pair of R159: the codes of its columns, the carry and the errors of the next line. -/
def diffPair (b : ScrLive) (xs : List Nat) (masked : List Nat) (m : Nat) (rev : Bool) (d : List Int)
    (acc : List (Nat × Nat) × Int × List Int) (p : Nat) : List (Nat × Nat) × Int × List Int :=
  let one := decide (2 * p + 1 ≥ m)
  let first := if rev ∧ !one then 2 * p + 1 else 2 * p
  let second := if rev ∧ !one then 2 * p else 2 * p + 1
  let code := fun c a => if masked.contains c then 0 else quantize b a
  let lv := fun k => ((levelAt b.levels k : Nat) : Int)
  let a0 : Int := (xs.getD first 0 : Nat) + acc.2.1 + d.getD p 0
  let d0 := code first a0
  let e0 := a0 - lv d0
  let a1 : Int := (xs.getD second 0 : Nat) + e0
  let d1 := code second a1
  let e := if one then e0 else a1 - lv d1
  let p1 := floorDiv16 e
  let p3 := floorDiv16 (3 * e)
  let p5 := floorDiv16 (5 * e)
  let p7 := e - p1 - p3 - p5
  let ahead : Int := if rev then (p : Int) - 1 else p + 1
  let behind : Int := if rev then p + 1 else (p : Int) - 1
  let codes := if one then [(first, d0)] else [(first, d0), (second, d1)]
  (acc.1 ++ codes, satErr p7, diffAdd (diffAdd (diffAdd acc.2.2 behind p3) p p5) ahead p1)

/-- A line in DIFFUSE mode: codes by column and the errors of the next line (R159). -/
def diffuseLine (b : ScrLive) (xs masked : List Nat) (m : Nat) (rev : Bool) (d : List Int) : List Nat × List Int :=
  let np := (m + 1) / 2
  let order := if rev then (List.range np).reverse else List.range np
  let r := order.foldl (diffPair b xs masked m rev d) ([], 0, List.replicate np 0)
  ((List.range m).map (fun c => ((r.1.find? (fun q => q.1 = c)).map (·.2)).getD 0), r.2.2)

/-! ### One line through a lane (R139 to R160) -/

/-- What screening one line gives: the codes by nozzle, the errors for the next line, clamps and lost shares. -/
structure Screened where
  codes : List Nat
  diff : List Int
  clamps : Nat
  lost : Nat

/-- The six steps of Table 6.1 on a line with data. -/
def screenData (s : State) (n : Nat) (lane : Lane) (l : Line) (j i : Nat) : Screened :=
  let cfg := s.get (O.SCR_CONFIG_LIVE n)
  let b := s.live n
  let mode := fieldOf cfg B.SCR_CONFIG_MODE
  let cover := coverOf cfg
  let m := nozzles s n / cover
  let t := stripeAt s j i
  let p := planeAt s j t.plane
  let a0 := firstColumn s j i
  let inp := (List.range m).map (fun c => workingValue b mode p.code (l.data.getD (if p.res then c / 2 else c) 0))
  let clamps1 := (inp.filter (fun q => q.2)).length
  let x1 := inp.map (·.1)
  let x2 := if (mode = 2 ∨ mode = 3) ∧ bitOf cfg B.SCR_CONFIG_TONE_EN
    then x1.map (toneEntry s (fieldOf cfg B.SCR_CONFIG_TONE)) else x1
  let r3 := compensate s n m l.idx cover x2
  let fire := (List.range m).map (firingNozzle s n cover m l.idx)
  let x4 := (r3.1.zip fire).map (fun q =>
    match q.2 with
    | some k => densityApply (s.mgetLE (densAddr n (2 * k)) 2) q.1
    | none => 0)
  let masked := (List.range m).filter (fun c => (fire.getD c none).isNone)
  let thr := fun c =>
    if bitOf cfg B.SCR_CONFIG_MATRIX_EN then
      matrixEntry s (fieldOf cfg B.SCR_CONFIG_MATRIX) (l.idx + b.shift / 65536) (a0 + c + b.shift % 65536)
    else 511
  let r5 := if mode = 3 then
      diffuseLine b x4 masked m (bitOf cfg B.SCR_CONFIG_SERPENTINE && decide (l.idx % 2 = 1))
        (if lane.diff = [] then List.replicate ((m + 1) / 2) 0 else lane.diff)
    else (x4.zipIdx.map (fun q => let kf := levelOf b q.1; if thr q.2 < kf.2 then kf.1 + 1 else kf.1), [])
  let codes := (List.range (nozzles s n)).map (fun k =>
    let c := if m = 0 then 0 else k % m
    if fire.getD c none = some k then r5.1.getD c 0 else 0)
  ⟨codes, r5.2, clamps1 + r3.2.1, r3.2.2⟩

/-- The lane's settings that clear its diffusion state when a commit changes them (R160). -/
def diffKey (s : State) (n : Nat) : List Nat :=
  let cfg := s.get (O.SCR_CONFIG_LIVE n)
  let b := s.live n
  [fieldOf cfg B.SCR_CONFIG_MODE, fieldOf cfg B.SCR_CONFIG_OUT_BITS, fieldOf cfg B.SCR_CONFIG_COVER, b.nlev]
    ++ b.levels.take b.nlev

/-- A pending commit enters service: the shadow bank becomes the live one and is copied back (R167, R169). -/
def State.commitApply (s : State) (n : Nat) : State :=
  let key := diffKey s n
  let s := s.set (O.SCR_CONFIG_LIVE n) (s.get (O.SCR_CONFIG n))
  let s := s.setLive n ⟨s.get (O.SCR_MATRIX_SHIFT n), s.get (O.SCR_LEVELS n),
    (List.range 8).map (fun k => s.get (O.SCR_LEVEL n k))⟩
  let s := s.mcopy (domAddr (0x5100 + n) 0) (densAddr n 0) 32768
  let s := s.setLane n { s.lane n with commit := 0, diff := if diffKey s n = key then (s.lane n).diff else [] }
  let s := (s.setB (O.SCR_STATUS n) B.SCR_STATUS_COMMIT_PENDING false).setB (O.SCR_STATUS n) B.SCR_STATUS_COPYING true
  (s.set (O.SCR_COMMIT_RESULT n) 0).setB (O.SCR_EVENTS n) B.SCR_EVENTS_COMMIT_APPLIED true

/-- Why a commit is refused, as a code of Table 6.4; 0 when it is accepted (R166). -/
def commitCause (s : State) (n : Nat) : Nat :=
  let cfg := s.get (O.SCR_CONFIG n)
  let live := s.get (O.SCR_CONFIG_LIVE n)
  let bits := fieldOf cfg B.SCR_CONFIG_OUT_BITS
  let mxEn := bitOf cfg B.SCR_CONFIG_MATRIX_EN
  if mxEn ∧ !matrixValid s (fieldOf cfg B.SCR_CONFIG_MATRIX) then 2
  else if !levelsValid (s.get (O.SCR_LEVELS n)) bits ((List.range 8).map (fun k => s.get (O.SCR_LEVEL n k))) then 3
  else if nozzles s n % coverOf cfg ≠ 0 then 4
  else if fieldOf cfg B.SCR_CONFIG_MODE = 2 ∧ !mxEn then 5
  else if armed s n ∧ (bits ≠ fieldOf live B.SCR_CONFIG_OUT_BITS
      ∨ fieldOf cfg B.SCR_CONFIG_COVER ≠ fieldOf live B.SCR_CONFIG_COVER) then 6
  else if armed s n && (match armJob s n with
      | some j => (match stripeIdx s j n with
        | some i => !fitsCfg s n cfg j i
        | none => false)
      | none => false) then 7
  else 0

/-- A write of SCR_COMMIT with 1 or 2 (R166 to R168). A lane that has no stripe applies it at once. -/
def wrCommit (n v : Nat) (s : State) : WRes :=
  if s.bit (O.SCR_STATUS n) B.SCR_STATUS_COMMIT_PENDING then .no s abState
  else
    let c := commitCause s n
    if c ≠ 0 then
      .no ((s.set (O.SCR_COMMIT_RESULT n) c).setB (O.SCR_EVENTS n) B.SCR_EVENTS_COMMIT_REFUSED true) abRange
    else
      let s := (s.set (O.SCR_COMMIT_RESULT n) 1).setB (O.SCR_STATUS n) B.SCR_STATUS_COMMIT_PENDING true
      let s := s.setLane n { s.lane n with commit := v }
      .ok (if (s.lane n).serves.isNone then s.commitApply n else s)

/-- SCR_COMMIT_LINE (R167): a write of 1 to SCR_COMMIT. -/
def execScrCommitLine (p : Path) (n : Nat) (s : State) : Host.Outcome State Fault Refusal :=
  access p (O.SCR_COMMIT n) s (wrCommit n 1)

/-- SCR_COMMIT_BAND (R167): a write of 2 to SCR_COMMIT. -/
def execScrCommitBand (p : Path) (n : Nat) (s : State) : Host.Outcome State Fault Refusal :=
  access p (O.SCR_COMMIT n) s (wrCommit n 2)

/-- SCR_COPY_DONE (R169): the copy of the density table into the shadow bank ends. -/
def execScrCopyDone (n : Nat) (s : State) : Host.Outcome State Fault Refusal :=
  .next (s.setB (O.SCR_STATUS n) B.SCR_STATUS_COPYING false)

/-- A lane screens the line it begins (R139, R140): a pending commit applies first, a BLANK line keeps every code 0 and
clears the diffusion state (R160, R173), a stripe that does not fit goes on blank (R144). -/
def State.screenLine (s : State) (n : Nat) (l : Line) : State :=
  let c := (s.lane n).commit
  let s := if c = 1 ∨ (c = 2 ∧ l.first) then s.commitApply n else s
  let lane := s.lane n
  let zeros := List.replicate (nozzles s n) 0
  let s := s.inc (O.SCR_LINES n)
  match lane.serves with
  | none => s
  | some (j, i) =>
    if l.blank ∨ lane.geoBad then
      s.setLane n { lane with diff := [], coded := lane.coded ++ [{ l with blank := true, data := zeros }] }
    else
      let lane := if l.startsRun then { lane with diff := [] } else lane
      let r := screenData s n lane l j i
      let s := s.setLane n { lane with diff := r.diff, coded := lane.coded ++ [{ l with data := r.codes }] }
      let s := (s.addC (O.SCR_CLAMPS n) r.clamps).addC (O.SCR_COMP_LOST n) r.lost
      if r.lost = 0 then s else s.setB (O.SCR_EVENTS n) B.SCR_EVENTS_COMP_LOST true

/-- SCREEN_LINE (R139): the lane takes the next line from the unpacker, unless the stitcher behind it holds a line that
waits for room in Lodging (R191) (DESIGN CHOICE, log 24). -/
def execScreenLine (n : Nat) (s : State) : Host.Outcome State Fault Refusal :=
  match (s.lane n).raw with
  | [] => .next s
  | l :: rest =>
    if (s.lane n).coded ≠ [] then .next s
    else .next ((s.setLane n { s.lane n with raw := rest }).screenLine n l)

/-- Matrix and tone slots in use (R170): named by the live or the shadow bank of a lane. -/
def slotUse (s : State) : Nat :=
  let word := fun cfg => (if bitOf cfg B.SCR_CONFIG_MATRIX_EN then 2 ^ fieldOf cfg B.SCR_CONFIG_MATRIX else 0)
    ||| (if bitOf cfg B.SCR_CONFIG_TONE_EN then 2 ^ (16 + fieldOf cfg B.SCR_CONFIG_TONE) else 0)
  ports.foldl (fun u n => u ||| word (s.get (O.SCR_CONFIG n)) ||| word (s.get (O.SCR_CONFIG_LIVE n))) 0

end Sys2Proof.Machine
end

