-- ==== Sys2Proof/Machine/Lane.lean ====
section
/-! DEFINITION. The order of a job's lines (R119, R181, R182, R207, R208) and the decode lanes (R113, R123, R129 to
R135). -/
namespace Sys2Proof.Machine

/-! ### The order of a job's bands and lines -/

def jobBands (s : State) (j : Nat) : List Band := (s.job j).bands
def bandLines (s : State) (j b : Nat) : Nat := ((jobBands s j).getD b {}).lines
/-- Line index of the first line of band `b` in a repetition. -/
def bandStart (s : State) (j b : Nat) : Nat := (((jobBands s j).take b).map (·.lines)).sum
def totalLines (s : State) (j : Nat) : Nat := bandStart s j (jobBands s j).length
def jobFlag (s : State) (j i : Nat) : Bool := bitOf (s.get (O.JOB_FLAGS j)) i
/-- Flags of a job slot (Table 5.24). -/
def jobClosed (s : State) (j : Nat) : Bool := jobFlag s j 8
def jobToTimetable (s : State) (j : Nat) : Bool := jobFlag s j 9
def jobEndless (s : State) (j : Nat) : Bool := jobFlag s j 10
def jobReleased (s : State) (j : Nat) : Bool := jobFlag s j 11
def jobKeep (s : State) (j : Nat) : Bool := jobFlag s j 0
def jobByAction (s : State) (j : Nat) : Bool := jobFlag s j 2
def jobCoupling (s : State) (j : Nat) : Bool := jobFlag s j 1
def jobId (s : State) (j : Nat) : Nat := s.get (O.JOB_JOB_ID j)
/-- A repetition is left to print (R119, R120); none is once the job has been switched away (R123). -/
def repsLeft (s : State) (j : Nat) : Bool :=
  !jobReleased s j && !(s.job j).aborted && (s.job j).switchAt.isNone && (jobEndless s j || decide (s.get (O.JOB_REPEAT_LEFT j) ≠ 0))

/-- ST_PASS_BANDS. -/
def passBands (s : State) : Nat := max 1 (s.get O.ST_PASS_BANDS)
/-- A reverse pass (R182). -/
def passRev (s : State) (p : Nat) : Bool :=
  shuttle s && s.bit O.ST_SHUTTLE B.ST_SHUTTLE_BIDI && (decide (p % 2 = 1) != s.bit O.ST_SHUTTLE B.ST_SHUTTLE_FIRST_REV)
/-- One past the last band of pass `p`, as far as bands are committed. -/
def passStop (s : State) (j p : Nat) : Nat := min ((p + 1) * passBands s) (jobBands s j).length
/-- Every band of pass `p` is committed. -/
def passWhole (s : State) (j p : Nat) : Bool :=
  jobClosed s j || decide ((p + 1) * passBands s ≤ (jobBands s j).length)
def passLines (s : State) (j p : Nat) : Nat := bandStart s j (passStop s j p) - bandStart s j (p * passBands s)

/-- Pass of a band: 0 in single-pass printing (R181). -/
def passOfBand (s : State) (b : Nat) : Nat := if shuttle s then b / passBands s else 0

/-- The band that comes `k`-th in a repetition, once it may be started: committed, and in a reverse pass only when the
whole pass is committed (R182). -/
def bandAt (s : State) (j k : Nat) : Option Nat :=
  if (jobBands s j).length ≤ k then none
  else if !shuttle s then some k
  else
    let p := k / passBands s
    if passRev s p then
      (if passWhole s j p then some (p * passBands s + passStop s j p - 1 - k) else none)
    else some k

/-- Sequence number of line 0 of a repetition (R207, R231). -/
def repBase (s : State) (j rep : Nat) : Nat := ((s.job j).bases.getD rep (0, 0)).1

/-- The tag of line `k` of band `b` in repetition `rep` of stripe `i` (R189, R221). -/
def tagAt (s : State) (j i rep b k : Nat) : Line :=
  let idx := bandStart s j b + k
  let n := bandLines s j b
  let p := passOfBand s b
  let rev := passRev s p
  let x := idx - bandStart s j (p * passBands s)
  let lastLine := decide (k + 1 = n)
  { job := j
    jid := jobId s j
    stripe := i
    rep := rep
    run := (s.job j).run
    pass := if shuttle s then rep * 2 ^ 20 + p else 0
    place := if shuttle s then (if rev then passLines s j p - 1 - x else x) else repBase s j rep + idx
    num := if shuttle s then x else repBase s j rep + idx
    idx := idx
    band := b
    first := if rev then lastLine else decide (k = 0)
    last := if rev then decide (k = 0) else lastLine
    passEnd := shuttle s && passWhole s j p && (if rev then decide (x = 0) else decide (x + 1 = passLines s j p))
    startsRun := false
    rev := rev }

/-- The tag of blank line `k` of the gap before repetition `rep` (R119, R188). -/
def gapAt (s : State) (j i rep k : Nat) : Line :=
  let g := (s.job j).bases.getD rep (0, 0)
  { job := j
    jid := jobId s j
    stripe := i
    rep := rep
    run := (s.job j).run
    place := g.1 - g.2 + k
    num := g.1 - g.2 + k
    gap := true
    blank := true }

/-! ### Reading the band store -/

/-- Bytes of the page list at the start of a band's first page: a 32-bit little-endian page number for each page, filled up
with zeros to a multiple of 64 (R126) (DESIGN CHOICE, log 101). -/
def listBytes (pages : Nat) : Nat := (4 * pages + 63) / 64 * 64

/-- Bytes `a` to `a + n − 1` of a band block, which lies in its pages in order, behind their list (R126). -/
def blockBytes (s : State) (b : Band) (a n : Nat) : List Byte :=
  let a := listBytes b.pages.length + a
  (List.range n).map (fun i => s.mget (bandAddr (b.pages.getD ((a + i) / 262144) 0 * 262144 + (a + i) % 262144)))

/-- The place in a band's block of a band store address, if it lies in the block. -/
def blockOffset (b : Band) (addr : Nat) : Option Nat :=
  match b.pages.findIdx? (fun p => decide (p = addr / 262144)) with
  | none => none
  | some k =>
    let x := k * 262144 + addr % 262144
    if x < listBytes b.pages.length then none else some (x - listBytes b.pages.length)

/-- Stored line `st` of a packed plane, from the stripe's first stored column on (R113). -/
def packedLine (s : State) (b : Band) (e : BandEnt) (p : Plane) (t : Stripe) (st : Nat) : List Nat :=
  let w := codeBits p.code
  let stride := (p.width * w + 511) / 512 * 64
  (unpack w (t.first + t.cols) (blockBytes s b (e.offset + stride * st) stride)).drop t.first

/-- Stored line `st` of a tile-coded plane over the stripe's columns, or the error and the tile it stands in (R129,
R131). The lane reads every tile column that its stripe touches (R135). -/
def tiledLine (s : State) (b : Band) (e : BandEnt) (p : Plane) (t : Stripe) (st : Nat) : Except (Nat × Nat) (List Nat) :=
  let c := (p.width + 255) / 256
  let c0 := t.first / 256
  let c1 := (t.first + t.cols - 1) / 256
  let off := fun k => ofBytesLE (blockBytes s b (e.offset + 16 + 4 * k) 4)
  let one := fun tc =>
    let k := st / 16 * c + tc
    match tile (codeBits p.code) (blockBytes s b (e.offset + off k) (off (k + 1) - off k)) with
    | .ok ls => Except.ok (ls.getD (st % 16) [])
    | .error x => Except.error (x, k)
  let r := (List.range (c1 + 1 - c0)).foldl (fun (acc : Except (Nat × Nat) (List Nat)) i =>
    match acc with
    | .error x => .error x
    | .ok l => match one (c0 + i) with
      | .ok m => .ok (l ++ m)
      | .error x => .error x) (.ok [])
  match r with
  | .ok l => .ok ((l.drop (t.first % 256)).take t.cols)
  | .error x => .error x

/-! ### Decode lanes -/

/-- The band at whose end the unpacker waits: the lowest LAST_BAND of the armed JOB_SWITCH entries that name the job as
old job (R123). -/
def switchBarrier (s : State) (j : Nat) : Option Nat :=
  ((List.range 256).filter (fun e => (s.get (O.ACT_STATE e) = 4 ∨ s.get (O.ACT_STATE e) = 5)
      ∧ s.get (O.ACT_KIND e) = 2 ∧ s.get (O.ACT_ARG_LO e) / 65536 = jobId s j)).foldl
    (fun m e => match m with
      | none => some (s.get (O.ACT_ARG_HI e))
      | some x => some (min x (s.get (O.ACT_ARG_HI e)))) none

/-- A plane marked failed for the job (R134). -/
def planeFailed (s : State) (j p : Nat) : Bool := (s.job j).failed.contains p

/-- UP_STATUS shows the marks of the RUNNING job; while a switch takes place, of the new one (Table 5.23). -/
def State.upSync (s : State) : State :=
  let j := match runningJob s with
    | some j => some j
    | none => slots.find? (fun j => decide (jobState s j = 2))
  s.set O.UP_STATUS (match j with
    | some j => ((s.job j).failed.map (2 ^ ·)).sum
    | none => 0)

/-- Count a band store error that a read met (R127): 1 corrected, 2 uncorrectable at address `addr`. -/
def State.bsEcc (s : State) (ecc addr : Nat) : State :=
  if ecc = 1 then (s.inc O.BS_ECC_CORRECTED).hit O.BS_EVENTS B.BS_EVENTS_ECC_CORRECTED 551
  else if ecc = 2 then
    ((s.inc O.BS_ECC_UNCORR).set O.BS_ERR_ADDR addr).hit O.BS_EVENTS B.BS_EVENTS_ECC_UNCORR 551
  else s

/-- Format errors in eight consecutive bands of a plane, band `b` of repetition `rep` among them (R134). -/
def eightBad (s : State) (j p b rep : Nat) : Bool :=
  let n := (jobBands s j).length
  let g := rep * n + b
  let bad := ((s.job j).bad.filter (fun q => q.1 = p)).map (fun q => q.2.2 * n + q.2.1)
  (List.range 8).any (fun o => decide (7 ≤ g + o) && (List.range 8).all (fun k => bad.contains (g + o - k)))

/-- A format error in plane `p` of band `b` (R133), the eighth in a row marks the plane failed (R134). -/
def State.formatError (s : State) (j p b rep err t : Nat) : State :=
  let x := s.job j
  let s := s.setJob j { x with bad := (p, b, rep) :: x.bad }
  let s := (s.set O.UP_ERR_INFO (err * 2 ^ 28 + p * 2 ^ 24 + t % 2 ^ 24)).set O.UP_ERR_BAND b
  let s := (s.inc O.UP_FORMAT_ERRORS).hit O.UP_EVENTS 0 550
  if !eightBad s j p b rep ∨ planeFailed s j p then s
  else ((s.setJob j { s.job j with failed := p :: (s.job j).failed }).upSync).hit O.UP_EVENTS 1 550 1

/-- The tile of a tile-coded plane that an uncorrectable error at `addr` strikes: the one whose bytes or whose index entry
stand there, else tile `t0` (R133) (DEDUCED, log 102). -/
def tileAt (s : State) (b : Band) (e : BandEnt) (tiles t0 addr : Nat) : Nat :=
  match blockOffset b addr with
  | none => t0
  | some x =>
    if x < e.offset ∨ e.offset + e.size ≤ x then t0
    else
      let r := x - e.offset
      let off := fun k => ofBytesLE (blockBytes s b (e.offset + 16 + 4 * k) 4)
      if r < 16 then t0
      else if r < 20 + 4 * tiles then min ((r - 16) / 4) (tiles - 1)
      else ((List.range tiles).find? (fun k => decide (off k ≤ r ∧ r < off (k + 1)))).getD t0

/-- Samples of a line, or blank: a plane of size 0 is blank on purpose (R114), a plane abandoned or failed is blank
under R133 and R134. -/
def State.decodeLine (s : State) (j i rep b k ecc addr : Nat) : State × Option (List Nat) :=
  let t := stripeAt s j i
  let p := planeAt s j t.plane
  let bd := (jobBands s j).getD b {}
  let e := bd.ents.getD t.plane {}
  let st := if p.res then k / 2 else k
  if e.size = 0 then (s, none)
  else if planeFailed s j t.plane ∨ (s.job j).bad.contains (t.plane, b, rep) then (s.inc O.UP_BLANK_LINES, none)
  else
    let s := s.bsEcc ecc addr
    let cols := (p.width + 255) / 256
    let stored := if p.res then (bd.lines + 1) / 2 else bd.lines
    let tile0 := tileAt s bd e (cols * ((stored + 15) / 16)) (st / 16 * cols + t.first / 256) addr
    if ecc = 2 then
      let d := s.draw
      if e.tiled then ((s.formatError j t.plane b rep 6 tile0).inc O.UP_BLANK_LINES, none)
      else ((d.2.formatError j t.plane b rep 6 d.1).inc O.UP_BLANK_LINES, none)
    else if !e.tiled then (s, some (packedLine s bd e p t st))
    else match tiledLine s bd e p t st with
      | .ok l => (s, some l)
      | .error x => ((s.formatError j t.plane b rep x.1 x.2).inc O.UP_BLANK_LINES, none)

/-- The lane is in the job's newest repetition. -/
def newestRep (s : State) (j : Nat) (lane : Lane) : Bool := decide ((s.job j).bases.length ≤ lane.rep + 1)

/-- The lane has handed on the last line of its stripe in job `j`: the last band of a closed job with no repetition left, or
the job's switch band (R119, R123). -/
def laneDone (s : State) (n j : Nat) : Bool :=
  let lane := s.lane n
  let done := jobClosed s j && decide (lane.ord = (jobBands s j).length)
  lane.serves.any (fun p => p.1 = j) && decide (lane.li = 0 ∧ lane.gapLeft = 0) && newestRep s j lane
    && (match (s.job j).switchAt with
      | some w => done || (match bandAt s j lane.ord with
        | some b => decide (w.1 < b)
        | none => decide (w.1 < lane.ord))
      | none => done && !repsLeft s j)

/-- The first line of a job that has been switched to has its place once the last band of the old job before the switch is
committed (R123, R231) (DEDUCED, log 103). -/
def placeOpen (s : State) (j : Nat) : Bool :=
  !shuttle s && slots.any (fun o => match (s.job o).switchAt with
    | some w => decide (w.2 = j ∧ jobState s o ≠ 0) && !jobClosed s o && !(s.job o).aborted
        && decide ((jobBands s o).length ≤ w.1)
    | none => false)

/-- The lane begins its next repetition, if one is left: the first lane to reach it takes it from REPEAT_LEFT (R119,
R120). It waits at the end of the repetition where that is the end of a switch barrier (R123). -/
def State.nextRep (s : State) (n j : Nat) : State :=
  let lane := s.lane n
  let x := s.job j
  let start := fun (s : State) =>
    let g := ((s.job j).bases.getD (lane.rep + 1) (0, 0)).2
    s.setLane n { lane with rep := lane.rep + 1, gapLeft := g, ord := 0, li := 0, fresh := true }
  if lane.rep + 1 < x.bases.length then start s
  else if (switchBarrier s j).any (fun w => w < (jobBands s j).length) then s
  else if repsLeft s j then
    let gap := if shuttle s then 0 else x.gap
    let base := repBase s j lane.rep + totalLines s j + gap
    let s := s.setJob j { x with bases := x.bases ++ [(base, gap)] }
    let s := if jobEndless s j then s else s.set (O.JOB_REPEAT_LEFT j) (s.get (O.JOB_REPEAT_LEFT j) - 1)
    start (s.set (O.JOB_LINE j) 0)
  else s

/-- At pause level L the unpacker and intake start no read in the first L µs of each 4 µs window of press time (R136)
(DEDUCED, log 104). -/
def pauseHeld (s : State) : Bool :=
  decide (s.pt % (4 * fuUs) < s.fld O.IN_STATUS B.IN_STATUS_PAUSE_LEVEL * fuUs)

/-- A line of band `b` needs a read of the band store. -/
def lineReads (s : State) (j i b rep : Nat) : Bool :=
  let p := (stripeAt s j i).plane
  decide ((((jobBands s j).getD b {}).ents.getD p {}).size ≠ 0) && !planeFailed s j p && !(s.job j).bad.contains (p, b, rep)

/-- Lines handed on in the present repetition (Table 5.24): the furthest lane of the job shows. -/
def State.jobLine (s : State) (j : Nat) (l : Line) : State :=
  if l.rep + 1 = (s.job j).bases.length then
    let before := if shuttle s then bandStart s j (l.pass % 2 ^ 20 * passBands s) + l.place else l.idx
    s.rise (O.JOB_LINE j) (before + 1)
  else s

/-- The lane delivers its next line to the screener lane, where it can (R135): it waits for a band that is not
committed, at a switch barrier of its job's newest repetition (R123), during a thermal pause (R136), and while the
screener lane has not taken the last line. -/
def State.unpackLine (s : State) (n ecc addr : Nat) : State :=
  let lane := s.lane n
  match lane.serves with
  | none => s
  | some (j, i) =>
    if lane.raw ≠ [] ∨ !s.bit O.BS_STATUS B.BS_STATUS_ONLINE ∨ laneDone s n j ∨ placeOpen s j then s
    else if lane.gapLeft ≠ 0 then
      let g := ((s.job j).bases.getD lane.rep (0, 0)).2
      s.setLane n { lane with gapLeft := lane.gapLeft - 1, raw := [gapAt s j i lane.rep (g - lane.gapLeft)] }
    else match bandAt s j lane.ord with
      | none => if jobClosed s j && decide (lane.ord = (jobBands s j).length) then s.nextRep n j else s
      | some b =>
        let late := lane.lateDone.contains (b, lane.rep)
        if lane.li = 0 && newestRep s j lane && (switchBarrier s j).any (fun w => w < b) then s
        else if !late && lineReads s j i b lane.rep && pauseHeld s then s
        else
          let rev := passRev s (passOfBand s b)
          let lines := bandLines s j b
          let k := if rev then lines - 1 - lane.li else lane.li
          let r := if late then (s, none) else s.decodeLine j i lane.rep b k ecc addr
          let s := r.1
          let tag := tagAt s j i lane.rep b k
          let endOfBand := decide (lane.li + 1 = lines)
          let l := { tag with startsRun := lane.fresh, blank := r.2.isNone, data := r.2.getD [] }
          let lane := { lane with
            fresh := false
            raw := [l]
            li := if endOfBand then 0 else lane.li + 1
            ord := if endOfBand then lane.ord + 1 else lane.ord }
          (s.setLane n lane).jobLine j tag

end Sys2Proof.Machine
end

