-- ==== Sys2Proof/Machine/Lodge.lean ====
section
/-! DEFINITION. The stitcher and Lodging (chapter 7). -/
namespace Sys2Proof.Machine

/-! ### Tiles (R177, R178, R184) -/

def blendIndex (t : Nat) : Nat := 0x5200 + t
def passIndex (t : Nat) : Nat := 0x5208 + t
/-- Whether a tile's header and reserved bytes are those of Table 7.3 or 7.4. -/
def tileValid (s : State) (index magic : Nat) : Bool :=
  let a := domAddr index
  decide (s.mgetLE (a 0) 2 = magic) && dimOk (s.mgetLE (a 2) 2) && dimOk (s.mgetLE (a 4) 2)
    && decide (s.mgetLE (a 6) 10 = 0)
def blendValid (s : State) (t : Nat) : Bool := tileValid s (blendIndex t) 0x424C
def passTileValid (s : State) (t : Nat) : Bool := tileValid s (passIndex t) 0x5054
/-- Entry of a tile at a row and a column, taken modulo its dimensions. -/
def tileEntry (s : State) (index row col : Nat) : Nat :=
  let a := domAddr index
  let w := s.mgetLE (a 2) 2
  let h := s.mgetLE (a 4) 2
  (s.mget (a (16 + (if h = 0 then 0 else row % h) * w + (if w = 0 then 0 else col % w)))).toNat
/-- PASSES. -/
def passes (s : State) : Nat := s.fld O.ST_SHUTTLE B.ST_SHUTTLE_PASSES + 1

/-! ### Stitching a line (R176, R177, R181) -/

/-- ⌊256 × (i + 1) / (Z + 1)⌋. -/
def rampValue (i z : Nat) : Nat := 256 * (i + 1) / (z + 1)

/-- Whether the zones keep column `c` of a line (Table 7.2). -/
def zoneKeeps (s : State) (n m a0 : Nat) (l : Line) (c : Nat) : Bool :=
  let cfg := s.get (O.ST_CONFIG_LIVE n)
  let zl := s.get (O.ST_ZONES_LIVE n) % 65536
  let zr := s.get (O.ST_ZONES_LIVE n) / 65536
  let t := tileEntry s (blendIndex (fieldOf cfg B.ST_CONFIG_BLEND)) l.idx (a0 + c)
  let left := match fieldOf cfg B.ST_CONFIG_LEFT_MODE with
    | 1 => false
    | 2 => decide (t < rampValue c zl)
    | _ => true
  let right := match fieldOf cfg B.ST_CONFIG_RIGHT_MODE with
    | 1 => false
    | 2 => decide (rampValue (c + zr - m) zr ≤ t)
    | _ => true
  (!decide (c < zl) || left) && (!decide (m ≤ c + zr ∧ c < m) || right)

/-- Whether the pass mask keeps column `c` of a line (R181). -/
def passKeeps (s : State) (n : Nat) (l : Line) (c : Nat) : Bool :=
  if !shuttle s then true
  else
    let p := l.pass % 2 ^ 20
    let y := s.get (O.ST_FEED_ORIGIN n) + c + s.get O.ST_FEED * p
    decide (tileEntry s (passIndex (s.fld O.ST_SHUTTLE B.ST_SHUTTLE_PASS_TILE)) l.num y = p % passes s)

/-- Steps 2 and 3 of Table 7.1 on the codes of a line that is not blank (R176). -/
def stitch (s : State) (n : Nat) (l : Line) : List Nat :=
  let m := columns s n
  let a0 := firstColumn s l.job l.stripe
  let keep := (List.range m).map (fun c => zoneKeeps s n m a0 l c && passKeeps s n l c)
  l.data.zipIdx.map (fun p => if keep.getD (if m = 0 then 0 else p.2 % m) true then p.1 else 0)

/-! ### The zone check (R180) -/

/-- Server of a stripe, or its primary while it has none. -/
def stripePort (s : State) (j i : Nat) : Nat :=
  let r := tget (0xFF, 0) (s.job j).srv i
  if r.1 < 96 then r.1 else (stripeAt s j i).port

/-- The BLEND zones of a port with absolute columns: side (0 left), width, tile, first column. -/
def blendZones (s : State) (n j i : Nat) : List (Nat × Nat × Nat × Int) :=
  let cfg := s.get (O.ST_CONFIG_LIVE n)
  let zl := s.get (O.ST_ZONES_LIVE n) % 65536
  let zr := s.get (O.ST_ZONES_LIVE n) / 65536
  let a0 := firstColumn s j i
  let t := fieldOf cfg B.ST_CONFIG_BLEND
  (if fieldOf cfg B.ST_CONFIG_LEFT_MODE = 2 then [(0, zl, t, (a0 : Int))] else [])
    ++ (if fieldOf cfg B.ST_CONFIG_RIGHT_MODE = 2 then [(1, zr, t, (a0 : Int) + columns s n - zr)] else [])

/-- Check the zones of stripe `i` of a job (R180). -/
def State.zoneCheck1 (s : State) (j i : Nat) : State :=
  let n := stripePort s j i
  let others := (List.range (s.job j).stripes.length).filter
    (fun k => k ≠ i && decide ((stripeAt s j k).plane = (stripeAt s j i).plane))
  let ok := (blendZones s n j i).all (fun z =>
    others.any (fun k => (blendZones s (stripePort s j k) j k).contains (1 - z.1, z.2)))
  let s := s.setB (O.ST_STATUS n) B.ST_STATUS_ZONE_MISMATCH (!ok)
  if ok then s else s.setB (O.ST_EVENTS n) 3 true

def State.zoneCheck (s : State) (j : Nat) : State :=
  s.forAll (List.range (s.job j).stripes.length) (fun s i => s.zoneCheck1 j i)

/-! ### The pending configuration (R179) -/

/-- The pending configuration enters service, unless it names a blend tile that is not valid. -/
def State.stApply (s : State) (n : Nat) : State :=
  let cfg := s.get (O.ST_CONFIG n)
  if (fieldOf cfg B.ST_CONFIG_LEFT_MODE = 2 ∨ fieldOf cfg B.ST_CONFIG_RIGHT_MODE = 2)
      ∧ !blendValid s (fieldOf cfg B.ST_CONFIG_BLEND) then s.setB (O.ST_EVENTS n) 4 true
  else
    let s := (s.set (O.ST_CONFIG_LIVE n) cfg).set (O.ST_ZONES_LIVE n)
      (s.get (O.ST_RIGHT_ZONE n) * 65536 + s.get (O.ST_LEFT_ZONE n))
    let s := (s.setB (O.ST_STATUS n) B.ST_STATUS_PENDING false).setB (O.ST_EVENTS n) 2 true
    s.forAll (slots.filter (fun j => decide (jobState s j = 2))) (fun s j => s.zoneCheck j)

/-- A write of the pending configuration: it waits for a band start while the port is armed (R179). -/
def State.stPending (s : State) (n : Nat) : State :=
  let s := s.setB (O.ST_STATUS n) B.ST_STATUS_PENDING true
  if armed s n then s else s.stApply n

/-! ### Fill and slow request (R195, R196) -/

/-- Every line of the lane's stripe in its job has left the lane for Lodging (R119, R195). -/
def laneEmpty (s : State) (n j : Nat) : Bool :=
  laneDone s n j && (s.lane n).raw.isEmpty && (s.lane n).coded.isEmpty

/-- The fill check of a port is active (R195). -/
def fillChecked (s : State) (n : Nat) : Bool :=
  let lane := s.lane n
  decide (s.mode = mdPrint) && armed s n && (s.lodge n).primed
    && (match lane.serves with
      | some (j, _) => (decide (jobState s j = 2) || lane.twin) && !laneEmpty s n j
      | none => false)

def State.slowRaise (s : State) (n : Nat) : State :=
  let s := s.setLodge n { s.lodge n with holdSince := none }
  ((s.setB (O.LG_STATUS n) B.LG_STATUS_SLOW true).setB (O.LG_EVENTS n) B.LG_EVENTS_SLOW_RAISED true).slowOn 0 n

def State.slowRelease (s : State) (n : Nat) : State :=
  let s := s.setLodge n { s.lodge n with holdSince := none }
  ((s.setB (O.LG_STATUS n) B.LG_STATUS_SLOW false).setB (O.LG_EVENTS n) B.LG_EVENTS_SLOW_RELEASED true).slowOff 0 n

/-- Take over Lodging's fill into its objects, the fill check and the slow request. -/
def State.lgSync (s : State) (n : Nat) : State :=
  let lg := s.lodge n
  let fill := lg.lines.length
  let off := s.get (O.LG_SLOW_OFF n)
  let s := s.setLodge n { lg with primed := lg.primed || decide (off ≤ fill) || decide (s.get (O.LG_DEPTH_EFF n) ≤ lg.taken) }
  let s := s.set (O.LG_FILL n) fill
  let s := s.setB (O.LG_STATUS n) B.LG_STATUS_EMPTY (decide (fill = 0))
  let s := s.setB (O.LG_STATUS n) B.LG_STATUS_FULL (decide (fill = s.get (O.LG_DEPTH_EFF n)))
  let was := s.bit (O.LG_STATUS n) B.LG_STATUS_CHECKING
  let act := fillChecked s n
  let s := s.setB (O.LG_STATUS n) B.LG_STATUS_CHECKING act
  let s := if act then s.set (O.LG_MIN_FILL n) (if was then min (s.get (O.LG_MIN_FILL n)) fill else fill) else s
  if !s.bit (O.LG_STATUS n) B.LG_STATUS_SLOW then
    (if act ∧ fill < s.get (O.LG_SLOW_ON n) then s.slowRaise n else s)
  else if !act then s.slowRelease n
  else if fill < off then s.setLodge n { s.lodge n with holdSince := none }
  else if s.get (O.LG_SLOW_HOLD n) = 0 then s.slowRelease n
  else if (s.lodge n).holdSince.isNone then s.setLodge n { s.lodge n with holdSince := some s.up }
  else s

/-- Lodging emptied (R193): every line counts in LG_STALE. -/
def State.lodgeEmpty (s : State) (n : Nat) : State :=
  let lg := s.lodge n
  ((s.addC (O.LG_STALE n) lg.lines.length).setLodge n { lg with lines := [] }).lgSync n

/-! ### Lodging a line (R191) -/

/-- Lodging has room for a line. -/
def hasRoom (s : State) (n : Nat) : Bool := decide ((s.lodge n).lines.length < s.get (O.LG_DEPTH_EFF n))

/-- Epoch of a stripe (R320). -/
def stripeEpoch (s : State) (j i : Nat) : Nat := (tget (0xFF, 0) (s.job j).srv i).2

/-- The stitcher begins a band: its pending configuration applies, and its status shows the band (R179, Table 7.9). -/
def State.stitchBegin (s : State) (n : Nat) (l : Line) : State :=
  let s := s.setLane n { s.lane n with stBand := some (l.band, l.rep) }
  let s := s.setB (O.ST_STATUS n) B.ST_STATUS_REVERSE l.rev
  let s := s.setB (O.ST_STATUS n) B.ST_STATUS_LATE ((s.lane n).lateDone.contains (l.band, l.rep))
  if s.bit (O.ST_STATUS n) B.ST_STATUS_PENDING then s.stApply n else s

/-- A line of a band has been handed to Lodging (R121). -/
def State.handedOn (s : State) (l : Line) : State :=
  if l.gap then s
  else
    let x := s.job l.job
    s.setJob l.job { x with bands := x.bands.zipIdx.map (fun p => if p.2 = l.band then { p.1 with handed := true } else p.1) }

/-- The stitcher stitches a line and lodges it with the stripe's epoch (R176, R191). -/
def State.lodgeLine (s : State) (n : Nat) (l : Line) : State :=
  let s := if !l.gap ∧ (s.lane n).stBand ≠ some (l.band, l.rep) then s.stitchBegin n l else s
  let l := { l with epoch := stripeEpoch s l.job l.stripe, data := if l.blank then l.data else stitch s n l }
  let lg := s.lodge n
  ((s.setLodge n { lg with lines := lg.lines ++ [l] }).handedOn l).lgSync n

/-! ### Late bands (R185 to R188) -/

/-- The band check of band `b` passes at the port (R185): enough lines of it are lodged, or handed on blank. No late-plane
decision is taken for a plane of size 0 of a committed band (R114). -/
def bandReady (s : State) (n j i b rep : Nat) : Bool :=
  let own := fun (l : Line) => decide (l.job = j ∧ l.band = b ∧ l.rep = rep) && !l.gap
  let lane := s.lane n
  let held := ((s.lodge n).lines.filter own).length
    + ((lane.raw ++ lane.coded).filter (fun l => own l && l.blank)).length
  let want := s.get O.ST_BAND_READY
  lane.lateDone.contains (b, rep)
    || (decide (b < (jobBands s j).length)
      && decide ((((jobBands s j).getD b {}).ents.getD (stripeAt s j i).plane {}).size = 0))
    || decide (want ≤ held ∨ (b < (jobBands s j).length ∧ bandLines s j b ≤ held))

/-- Lines of a late band go to Lodging blank as room allows (R186). -/
def State.lateFill (s : State) (n b rep : Nat) : Nat → State
  | 0 => s
  | fuel + 1 =>
    let lane := s.lane n
    if !hasRoom s n then s
    else match lane.coded, lane.raw with
      | l :: rest, _ => ((s.setLane n { lane with coded := rest }).lodgeLine n l).lateFill n b rep fuel
      | [], l :: rest => ((s.setLane n { lane with raw := rest }).screenLine n l).lateFill n b rep fuel
      | [], [] =>
        match lane.serves with
        | none => s
        | some (j, _) =>
          if bandAt s j lane.ord = some b ∧ lane.rep = rep ∧ lane.gapLeft = 0 then
            let s := s.unpackLine n 0 0
            if (s.lane n).raw = [] then s else s.lateFill n b rep fuel
          else s

/-- Band `b` is late at the port, or blanked for a coupled stripe (R186, R187). -/
def State.lateBand (s : State) (n j b rep : Nat) (coupled : Bool) : State :=
  let lane := s.lane n
  let own := fun (l : Line) => decide (l.job = j ∧ l.band = b ∧ l.rep = rep) && !l.gap
  let mark := fun (l : Line) => if own l then { l with blank := true } else l
  let dropped := ((lane.raw ++ lane.coded).filter (fun l => own l && !l.blank)).length
  let lane := { lane with
    raw := lane.raw.map mark
    coded := lane.coded.map mark
    lateDone := ((b, rep) :: lane.lateDone).take 8 }
  let s := (s.setLane n lane).addC (O.ST_DISCARDED n) dropped
  let s := if coupled then s.setLodge n { s.lodge n with lines := (s.lodge n).lines.map mark } else s
  let s := if lane.stBand = some (b, rep) then s.setB (O.ST_STATUS n) B.ST_STATUS_LATE true else s
  let s := ((s.set (O.ST_LATE_BAND n) b).inc (O.ST_LATE_BANDS n)).inc O.ST_LATE_COUNT
  let s := s.hit (O.ST_EVENTS n) (if coupled then 1 else 0) 552
  s.lateFill n b rep 200

/-- Two stripes of different planes whose absolute column ranges overlap (R187). -/
def stripesCoupled (s : State) (j i k : Nat) : Bool :=
  let a := firstColumn s j i
  let b := firstColumn s j k
  decide ((stripeAt s j i).plane ≠ (stripeAt s j k).plane) && decide (a < b + columns s (stripePort s j k))
    && decide (b < a + columns s (stripePort s j i))

/-- A band is late at a port (R186), and with it at the ports coupled to it (R187). -/
def State.bandLate (s : State) (n j i b rep : Nat) : State :=
  let s := s.lateBand n j b rep false
  if !jobCoupling s j then s
  else s.forAll ((List.range (s.job j).stripes.length).filter (fun k => stripesCoupled s j i k)) (fun s k =>
    let m := (tget (0xFF, 0) (s.job j).srv k).1
    if m < 96 ∧ !(s.lane m).lateDone.contains (b, rep) then s.lateBand m j b rep true else s)

/-- The band check of band `b` at the port (R185 to R187). -/
def State.bandCheck (s : State) (n j i b rep : Nat) : State :=
  if bandReady s n j i b rep then s else s.bandLate n j i b rep

/-! ### Commands of Lodging -/

/-- SLOW_HOLD_EXPIRY (R196): the fill has stayed at or above LG_SLOW_OFF for LG_SLOW_HOLD µs. -/
def execSlowHoldExpiry (n t : Nat) (s : State) : Host.Outcome State Fault Refusal :=
  let s := s.adv t
  match (s.lodge n).holdSince with
  | some t0 =>
    if s.bit (O.LG_STATUS n) B.LG_STATUS_SLOW ∧ t0 + s.get (O.LG_SLOW_HOLD n) * fuUs ≤ s.up then .next (s.slowRelease n)
    else .next s
  | none => .next s

/-- A write of LG_SLOW_HOST (R197, Table 7.6). -/
def wrSlowHost (v : Nat) (s : State) : WRes :=
  if 1 < v then .no s abRange
  else
    let s := s.set O.LG_SLOW_HOST v
    .ok (if v = 1 then s.slowOn 3 0xFF else s.slowOff 3 0xFF)

/-- LG_SLOW_HOST (R197). -/
def execLgSlowHost (p : Path) (v : Nat) (s : State) : Host.Outcome State Fault Refusal :=
  access p O.LG_SLOW_HOST s (wrSlowHost (v % 256))

/-- A write of LG_CONTROL (Table 7.13): bit 0 sets LG_MIN_FILL to LG_FILL. -/
def wrLgControl (n v : Nat) (s : State) : WRes :=
  if 1 < v then .no s abRange
  else .ok (if v = 1 then s.set (O.LG_MIN_FILL n) (s.get (O.LG_FILL n)) else s)

/-- LG_CONTROL (R198). -/
def execLgControl (p : Path) (n v : Nat) (s : State) : Host.Outcome State Fault Refusal :=
  access p (O.LG_CONTROL n) s (wrLgControl n (v % 256))

end Sys2Proof.Machine
end

