-- ==== Sys2Proof/Machine/Place.lean ====
section
/-! DEFINITION. Predictors (R199 to R206, R211), line positions and fire times (R207 to R218), printing order and marks
(R221), gates (R225). -/
namespace Sys2Proof.Machine

/-! ### Positions and times -/

/-- The difference of two positions in pu under R3: signed, modulo 2^48. -/
def posDiff (a b : Nat) : Int := toSigned 48 (ofSigned 48 ((a : Int) - b))
def posAdd (a : Nat) (d : Int) : Nat := ofSigned 48 ((a : Int) + d)

/-- PIi is in fault or the clock inhibit stands (R206). -/
def predFaulty (s : State) (i : Nat) : Bool := s.bit (O.PI_STATUS i) B.PI_STATUS_FAULT || clockInhibit s
/-- The predictor predicts (R202, R211). -/
def predValid (s : State) (i : Nat) : Bool :=
  match predMode s i with
  | 1 => s.bit (O.TT_PRED_STATUS i) B.TT_PRED_STATUS_VALID
  | 2 => true
  | _ => false
/-- Increasing travel is the print direction. -/
def printUp (s : State) (i : Nat) : Bool := !s.bit (O.TT_PRED_CONFIG i) B.TT_PRED_CONFIG_PRINT_DIR
/-- The direction of travel (R200, R211). -/
def travelUp (s : State) (i : Nat) : Bool := if predMode s i = 2 then printUp s i else (s.pred i).up
/-- The direction in which a line prints (R207, R208). -/
def lineUp (s : State) (i : Nat) (rev : Bool) : Bool := printUp s i != rev
def signed (up : Bool) (d : Int) : Int := if up then d else -d

/-- The synthetic position of a FIXED predictor, as an offset from TT_START_POS in pu (R211). -/
def fixedOffset (s : State) (i t : Nat) : Int :=
  let per := s.get (O.TT_FIXED_PERIOD i)
  let d : Int := ptDiff t (s.get (O.TT_FIXED_START i)) * s.get (O.TT_PITCH i)
  signed (printUp s i) (if per = 0 then 0 else divRound d per)

/-- The modelled position of a predictor at press time `t` (R203, R211) (DEDUCED, log 28). -/
def modelPos (s : State) (i t : Nat) : Nat :=
  if predMode s i = 2 then posAdd (s.get (O.TT_START_POS i)) (fixedOffset s i t)
  else
    let p := s.pred i
    let tau : Int := max 0 (ptDiff t (s.get (O.TT_PRED_TIME i)))
    let d : Int :=
      if p.a < 0 ∧ p.v * 2 ^ 80 < tau * (-p.a) then divRound (p.v * p.v * 65536) (2 * (-p.a)).toNat
      else divRound (p.v * tau * 2 ^ 81 + p.a * tau * tau) (2 ^ 145)
    posAdd (s.get (O.TT_PRED_POS i)) (signed p.up d)

/-- What a predictor says of a position (Table 8.1). -/
inductive Predicted where
  | passed
  | at (t : Nat)
  | unreachable

/-- The predicted time of a position of a predictor that is VALID (R203, R211) (DEDUCED, log 28). -/
def predTime (s : State) (i pos now : Nat) : Predicted :=
  if predMode s i = 2 then
    let off := fixedOffset s i now
    let here := posAdd (s.get (O.TT_START_POS i)) off
    let d := signed (printUp s i) (off + posDiff pos here)
    .at (ofSigned 64 ((s.get (O.TT_FIXED_START i) : Int) + divRound (d * s.get (O.TT_FIXED_PERIOD i)) (s.get (O.TT_PITCH i))))
  else
    let p := s.pred i
    let d := signed p.up (posDiff pos (s.get (O.TT_PRED_POS i)))
    let tk := s.get (O.TT_PRED_TIME i)
    if d ≤ 0 then .passed
    else if p.a = 0 then (if p.v ≤ 0 then .unreachable else .at ((tk + (divRound (d * 2 ^ 64) p.v.toNat).toNat) % 2 ^ 64))
    else
      let x := p.v * p.v * 2 ^ 16 + 2 * p.a * d
      if x < 0 then .unreachable
      else
        let den := 256 * p.v.toNat + isqrt x.toNat
        if den = 0 then .unreachable else .at ((tk + (divRound (d * 2 ^ 73) den).toNat) % 2 ^ 64)

/-! ### Predictors -/

/-- Take over the conditions of Table 8.5 that follow from the configuration and the interface. -/
def State.predSync (s : State) (i : Nat) : State :=
  let st := O.TT_PRED_STATUS i
  let tracked := decide (predMode s i = 1)
  let s := s.setB st B.TT_PRED_STATUS_ENABLED (decide (predMode s i ≠ 0))
  let s := s.setB st B.TT_PRED_STATUS_BOUND (predBound s i)
  let s := s.setB st B.TT_PRED_STATUS_REVERSE (decide (predMode s i ≠ 0) && (travelUp s i != printUp s i) && !shuttle s)
  let bad := tracked && predFaulty s i
  let was := s.bit st B.TT_PRED_STATUS_PI_FAULT
  let s := s.setB st B.TT_PRED_STATUS_PI_FAULT bad
  let s := if predMode s i = 2 then (s.setB st B.TT_PRED_STATUS_VALID true).setB st B.TT_PRED_STATUS_LINEAR false
    else if predMode s i = 0 ∨ bad then (s.setB st B.TT_PRED_STATUS_VALID false).setB st B.TT_PRED_STATUS_LINEAR false
    else s
  if bad ∧ !was then
    let s := s.setPred i { s.pred i with edges := [], e := 0 }
    s.hit (O.TT_PRED_EVENTS i) B.TT_PRED_EVENTS_PI_FAULT (492 + i)
  else if was ∧ !bad ∧ tracked ∧ s.bit (O.PI_STATUS i) B.PI_STATUS_POS_UNCERTAIN then
    s.hit (O.TT_PRED_EVENTS i) B.TT_PRED_EVENTS_PI_FAULT (492 + i)
  else s

/-- v and a after an edge (R201), and whether the clamp acted and whether it fell back to v1; none while E is below
N + 1 (DEDUCED, log 28). -/
def predFit (p : Pred) (n accLim : Nat) : Option (Int × Int × Bool × Bool) :=
  let at' := fun k => (p.edges.getD k (0, 0)).1
  let d1 := max 1 (at' 0 - at' n)
  let v1 : Int := divRound ((n : Int) * 2 ^ 80) d1
  if p.e < n + 1 then none
  else if p.e < 2 * n + 1 then some (v1, 0, false, false)
  else
    let d2 := max 1 (at' n - at' (2 * n))
    let a : Int := divRound (2 * n * ((d2 : Int) - d1) * 2 ^ 160) (d1 * d2 * (d1 + d2))
    let lim : Int := divRound ((accLim : Int) * 2 ^ 160) (fuS * fuS)
    let ac := clampI (-lim) lim a
    let v := v1 + divRound (ac * d1) (2 ^ 81)
    if v ≤ 0 then some (v1, 0, ac ≠ a, true) else some (v, ac, ac ≠ a, false)

/-- Speed in pu per µs (16.16) for TT_PRED_VEL, and acceleration in counts/s² for TT_PRED_ACC. -/
def velPu (v : Int) : Int := divRound (v * 65536 * 25600) (2 ^ 80)
def accCounts (a : Int) : Int := divRound (a * fuS * fuS) (2 ^ 160)

/-- The predictor stalls (R205). -/
def State.predStallNow (s : State) (i : Nat) : State :=
  let st := O.TT_PRED_STATUS i
  let s := s.setPred i { s.pred i with edges := [], e := 0 }
  let s := ((s.setB st B.TT_PRED_STATUS_VALID false).setB st B.TT_PRED_STATUS_LINEAR false).setB st B.TT_PRED_STATUS_STALLED true
  (s.inc (O.TT_STALLS i)).hit (O.TT_PRED_EVENTS i) B.TT_PRED_EVENTS_STALL (492 + i)

/-- One counted edge at predictor `i`: direction, count after it, timestamp (R200 to R202, R205). -/
def State.predEdge (s : State) (i : Nat) (up : Bool) (count t : Nat) : State :=
  if predMode s i ≠ 1 ∨ predFaulty s i then s
  else
    let st := O.TT_PRED_STATUS i
    let p := s.pred i
    let turn := p.seen && (p.up != up)
    let pos := (if up then count else count + 1) % 2 ^ 32
    let again := turn || decide (p.e = 0)
    let p := { p with
      edges := if again then [(t, pos)] else ((t, pos) :: p.edges).take 129
      e := if again then 1 else p.e + 1
      up := up
      seen := true
      lastUp := s.up }
    let n := s.get (O.TT_FIT_EDGES i)
    let fit := predFit p n (s.get (O.TT_ACC_LIMIT i))
    let p := match fit with
      | some f => { p with v := f.1, a := f.2.1 }
      | none => p
    let s := s.setPred i p
    let s := (s.set (O.TT_PRED_POS i) (pos * 65536)).set (O.TT_PRED_TIME i) t
    let s := (s.setSat (O.TT_PRED_VEL i) (signed p.up (velPu p.v))).setSat (O.TT_PRED_ACC i) (signed p.up (accCounts p.a))
    let s := if turn then s.hit (O.TT_PRED_EVENTS i) B.TT_PRED_EVENTS_REVERSAL (492 + i) else s
    let clamped := match fit with
      | some f => f.2.2.1
      | none => false
    let s := s.setB st B.TT_PRED_STATUS_ACC_CLAMPED clamped
    let s := if clamped then s.hit (O.TT_PRED_EVENTS i) B.TT_PRED_EVENTS_ACC_CLAMP (492 + i) else s
    let full := decide (n + 1 ≤ p.e)
    let s := if full ∧ s.bit st B.TT_PRED_STATUS_STALLED then
        (s.setB st B.TT_PRED_STATUS_STALLED false).hit (O.TT_PRED_EVENTS i) B.TT_PRED_EVENTS_STALL_END (492 + i)
      else s
    let fast := decide ((s.get (O.TT_MIN_SPEED i) : Int) * 2 ^ 80 ≤ p.v * 65536 * 25600)
    let s := s.setB st B.TT_PRED_STATUS_VALID (full && fast && !s.bit st B.TT_PRED_STATUS_STALLED)
    let s := s.setB st B.TT_PRED_STATUS_LINEAR (full && fast && !s.bit st B.TT_PRED_STATUS_STALLED
      && (decide (p.e ≤ 2 * n) || (match fit with
        | some f => f.2.2.2
        | none => false)))
    let s := if full ∧ !fast ∧ !s.bit st B.TT_PRED_STATUS_STALLED then s.predStallNow i else s
    s.predSync i

/-! ### The printing order (R221) -/

/-- Whether place `a` comes before place `b`. -/
def TKey.before (a b : TKey) : Bool :=
  decide (a.run < b.run) || (decide (a.run = b.run) && (decide (a.pass < b.pass)
    || (decide (a.pass = b.pass) && decide (a.place < b.place))))
def Line.key (l : Line) : TKey := ⟨l.run, l.pass, l.place⟩
/-- A place is at or behind a mark. -/
def behind (m : Option TKey) (k : TKey) : Bool :=
  match m with
  | none => false
  | some x => !x.before k
/-- The mark of a line's direction. -/
def markOf (c : Sched) (rev : Bool) : Option TKey := if rev then c.markRev else c.markFwd

/-- The stripe of job `j` that port `n` serves, if any. -/
def servedStripe (s : State) (j n : Nat) : Option Nat :=
  ((s.job j).srv.find? (fun p => decide (p.2.1 = n))).map (·.1)

/-- The origins of a job's repetitions with the one that would come next, as far as one is left. -/
def basesAhead (s : State) (j : Nat) : List (Nat × Nat) :=
  let x := s.job j
  let k := x.bases.length
  if jobClosed s j && repsLeft s j then
    x.bases ++ [(repBase s j (k - 1) + totalLines s j + x.gap, x.gap)] else x.bases

/-- The band that holds line index `idx`, and the line within it; one past the last committed band when none does. -/
def bandOfIdx (s : State) (j idx : Nat) : Nat × Nat :=
  (List.range (jobBands s j).length).foldl (fun r b =>
    if bandStart s j b ≤ idx then (if idx < bandStart s j (b + 1) then (b, idx - bandStart s j b) else (b + 1, 0)) else r) (0, 0)

/-- The line of job `j` (stripe `i`) at a place, if the job has or will have one there (R207, R208, R231). A line whose
band is not committed yet carries the place alone. -/
def lineAt (s : State) (j i : Nat) (k : TKey) : Option Line :=
  let x := s.job j
  if k.run ≠ x.run then none
  else if !shuttle s then
    let bs := basesAhead s j
    let rep := (List.range bs.length).foldl (fun r c =>
      if (bs.getD c (0, 0)).1 - (bs.getD c (0, 0)).2 ≤ k.place then c else r) 0
    let base := bs.getD rep (0, 0)
    if k.place < base.1 then
      (if base.1 - base.2 ≤ k.place then
        let g := gapAt s j i rep 0
        some { g with place := k.place, num := k.place } else none)
    else
      let idx := k.place - base.1
      let bk := bandOfIdx s j idx
      let beyond : Bool := match x.switchAt with
        | some w => decide (bandStart s j (w.1 + 1) ≤ idx)
        | none => false
      if beyond ∨ (jobClosed s j ∧ totalLines s j ≤ idx) then none
      else
        let t := tagAt s j i rep bk.1 bk.2
        some { t with
          place := k.place
          num := k.place
          idx := idx
          last := t.last && decide (bk.1 < (jobBands s j).length)
          first := decide (bk.2 = 0) }
  else
    let rep := k.pass / 2 ^ 20
    let p := k.pass % 2 ^ 20
    let b0 := p * passBands s
    if jobClosed s j && decide ((jobBands s j).length ≤ b0) then none
    else if passWhole s j p then
      (if k.place < passLines s j p then
        let xx := if passRev s p then passLines s j p - 1 - k.place else k.place
        let bk := bandOfIdx s j (bandStart s j b0 + xx)
        let beyond : Bool := match x.switchAt with
          | some w => decide (w.1 < bk.1)
          | none => false
        if beyond then none else some (tagAt s j i rep bk.1 bk.2)
      else none)
    else if passRev s p then none
    else
      let idx := bandStart s j b0 + k.place
      let bk := bandOfIdx s j idx
      let t := tagAt s j i rep bk.1 bk.2
      some { t with
        pass := k.pass
        place := k.place
        num := k.place
        idx := idx
        last := t.last && decide (bk.1 < (jobBands s j).length)
        first := decide (bk.2 = 0) }

/-- The place at which the port goes on when place `k` holds no line: the next pass, the next repetition (R221), or
none. -/
def placeOn (s : State) (j : Nat) (k : TKey) : TKey :=
  if !shuttle s ∨ k.run ≠ (s.job j).run then k
  else
    let p := k.pass % 2 ^ 20
    let rep := k.pass / 2 ^ 20
    if passWhole s j p ∧ passLines s j p ≤ k.place then
      if (p + 1) * passBands s < (jobBands s j).length ∨ !jobClosed s j then ⟨k.run, k.pass + 1, 0⟩
      else if rep + 1 < (s.job j).bases.length ∨ repsLeft s j then ⟨k.run, (rep + 1) * 2 ^ 20, 0⟩
      else k
    else k

/-- The line the port prints next of job `j`: of an aborted job only lines already lodged print (R119, R121). -/
def nextLineOf (s : State) (n j : Nat) (k : TKey) : Option Line :=
  match servedStripe s j n with
  | none => none
  | some i =>
    let k := placeOn s j k
    match lineAt s j i k with
    | none => none
    | some l =>
      if (s.job j).aborted ∧ !(s.lodge n).lines.any (fun x => decide (x.job = j) && !x.key.before k) then none
      else some l

/-- The QUEUED line of a port (Table 8.2). -/
def nextLine (s : State) (n : Nat) : Option Line :=
  match (s.sched n).job with
  | none => none
  | some j => nextLineOf s n j (s.sched n).key

/-- First place of a job's present run. -/
def firstKey (s : State) (j : Nat) : TKey :=
  ⟨(s.job j).run, 0, if shuttle s then 0 else (((s.job j).bases.head?).getD (0, 0)).1⟩

/-- The scheduler goes on to the next released job it serves when its present one has no line left for it (R231). -/
def State.schedPick (s : State) (n : Nat) : State :=
  let c := s.sched n
  if (nextLine s n).isSome then s
  else
    let more := fun j => jobToTimetable s j && decide (jobState s j = 2 ∨ jobState s j = 3)
      && (servedStripe s j n).isSome && !(firstKey s j).before c.key
      && decide (some j ≠ c.job) && (nextLineOf s n j (firstKey s j)).isSome
    let best := (slots.filter more).foldl (fun b j => match b with
      | none => some j
      | some i => if (firstKey s j).before (firstKey s i) then some j else b) none
    match best with
    | none => s
    | some j =>
      let new := decide (c.begin' = some j)
      s.setSched n { c with job := some j, key := firstKey s j, checked := none, repSeen := none, gateOpen := false, start := c.start || new, newRun := c.newRun || new, begin' := if new then none else c.begin' }

/-! ### Fire times (R212 to R218) -/

/-- Position of a line with an offset (R207, R208): the origin is the one its job took (R230). -/
def linePos (s : State) (n : Nat) (l : Line) (off : Int) : Nat :=
  let i := predOf s n
  let org := match (s.job l.job).origins.find? (fun p => decide (p.1 = i)) with
    | some p => p.2
    | none => s.get (O.TT_ORIGIN i)
  posAdd org ((l.num * s.get (O.TT_PITCH i) : Nat) + off)

/-- Live offset of a line's direction. -/
def liveOffset (s : State) (n : Nat) (rev : Bool) : Int :=
  if rev then s.getI (O.TT_OFFSET_REV_LIVE n) else s.getI (O.TT_OFFSET_FWD_LIVE n)

/-- Fire time and lag of a line at `pos` evaluated now, after a line with time `prev`; none while it has no time (R213,
R215, R218). -/
def evalLine (s : State) (n pos : Nat) (rev : Bool) (prev : Option Nat) : Option (Nat × Nat) :=
  let i := predOf s n
  let now := s.pt
  if !predValid s i ∨ travelUp s i ≠ lineUp s i rev then none
  else
    let least := (now + s.get (O.TT_FIX_LEAD n) * 64) % 2 ^ 64
    let te := match prev with
      | some t => ptMax ((t + s.get (O.TT_MIN_PERIOD n)) % 2 ^ 64) least
      | none => least
    let lag := fun t => (max 0 (signed (lineUp s i rev) (posDiff (modelPos s i t) pos))).toNat
    match predTime s i pos now with
    | .unreachable => none
    | .passed => some (te, lag te)
    | .at tp => if ptLe te tp then some (tp, 0) else some (te, lag te)

/-- The lag limit in pu (R218). -/
def lagLimit (s : State) (n : Nat) : Nat := s.get (O.TT_PITCH (predOf s n)) * s.get (O.TT_LAG_LIMIT n) / 256

/-- T of the last line of the port that fired or will fire before the QUEUED line (R215). -/
def lastTime (c : Sched) : Option Nat :=
  c.lines.foldl (fun t x => if x.st = .held then t else some x.time) c.lastT

/-- OFFSET_SLEWING follows the offsets, and OFFSET_DONE is set when they meet (R233). -/
def State.offsetSync (s : State) (n : Nat) : State :=
  let st := O.TT_STATUS n
  let was := s.bit st B.TT_STATUS_OFFSET_SLEWING
  let now := s.get (O.TT_OFFSET_FWD n) ≠ s.get (O.TT_OFFSET_FWD_LIVE n)
    || s.get (O.TT_OFFSET_REV n) ≠ s.get (O.TT_OFFSET_REV_LIVE n)
  let s := s.setB st B.TT_STATUS_OFFSET_SLEWING now
  if was && !now then s.setB (O.TT_EVENTS n) B.TT_EVENTS_OFFSET_DONE true else s

/-- Take over the scheduler's state into TT_STATUS and TT_NEXT (Table 8.9). -/
def State.ttSync (s : State) (n : Nat) : State :=
  let s := s.schedPick n
  let st := O.TT_STATUS n
  let nx := nextLine s n
  let rev := match nx with
    | some l => l.rev
    | none => false
  let c := s.sched n
  let s := s.setB st B.TT_STATUS_PLACING (armed s n && nx.isSome)
  let s := s.setB st B.TT_STATUS_REVERSE_PASS rev
  let s := s.setB st B.TT_STATUS_HELD (c.lines.any (fun x => decide (x.st = .held)))
  let s := s.setB st B.TT_STATUS_GATE_CLOSED (shuttle s && !c.gateOpen && (match nx with
    | some l => decide (l.place = 0)
    | none => false))
  let s := (s.setB st B.TT_STATUS_FIXED_MODE (decide (predMode s (predOf s n) = 2))).offsetSync n
  match nx with
  | some l => s.set (O.TT_NEXT n) l.num
  | none => s

/-- Revise the RELEASED and HELD lines of a port at an update of its predictor (R213, R222, R223). -/
def reviseLines (s : State) (n : Nat) : Option Nat → List TLine → List TLine × Bool × Bool
  | _, [] => ([], false, false)
  | prev, x :: rest =>
    if x.st = .released ∨ x.st = .held then
      match evalLine s n x.pos x.line.rev prev with
      | none =>
        let r := reviseLines s n prev rest
        ({ x with st := .held } :: r.1, r.2.1 || decide (x.st = .released), r.2.2)
      | some v =>
        let r := reviseLines s n (some v.1) rest
        ({ x with st := .released, time := v.1, lag := v.2 } :: r.1, r.2.1, r.2.2 || decide (x.st = .held))
    else
      let r := reviseLines s n (some x.time) rest
      (x :: r.1, r.2.1, r.2.2)

def State.revisePort (s : State) (n : Nat) : State :=
  let c := s.sched n
  let r := reviseLines s n c.lastT c.lines
  let s := s.setSched n { c with lines := r.1 }
  let s := if r.2.1 then s.setB (O.TT_EVENTS n) B.TT_EVENTS_HOLD true else s
  let s := if r.2.2 then s.setB (O.TT_EVENTS n) B.TT_EVENTS_RESUME true else s
  s.ttSync n

/-! ### Turnaround gates (R225, R226) -/

/-- Try to open the gate of a port whose next line is the first of a pass, the medium standing at `pos`. -/
def State.gateTry (s : State) (n pos : Nat) : State :=
  let c := s.sched n
  let i := predOf s n
  match nextLine s n with
  | none => s
  | some l =>
    let p := linePos s n l (liveOffset s n l.rev)
    if shuttle s ∧ armed s n ∧ s.mode = mdPrint ∧ l.place = 0 ∧ !c.gateOpen ∧ c.lines = [] ∧ predValid s i
        ∧ travelUp s i = lineUp s i l.rev ∧ 0 < signed (lineUp s i l.rev) (posDiff p pos)
        ∧ !s.bit (O.HP_HEALTH_STATUS n) B.HP_HEALTH_STATUS_PAUSE then
      ((s.setSched n { c with gateOpen := true, start := true, newRun := true }).setB (O.TT_EVENTS n) B.TT_EVENTS_TURN_OPENED true).ttSync n
    else s

/-- Ports armed on a predictor. -/
def portsOn (s : State) (i : Nat) : List Nat := ports.filter (fun n => armed s n && decide (predOf s n = i))

/-- An update of predictor `i`: its ports revise their lines, and their gates may open. -/
def State.predUpdate (s : State) (i : Nat) : State :=
  s.forAll (portsOn s i) (fun s n => (s.revisePort n).gateTry n (s.get (O.TT_PRED_POS i)))

/-- PRED_STALL (R205): no edge for TT_STALL_TIME on a TRACKED predictor. -/
def execPredStall (i t : Nat) (s : State) : Host.Outcome State Fault Refusal :=
  let s := s.adv t
  if predMode s i = 1 ∧ !s.bit (O.TT_PRED_STATUS i) B.TT_PRED_STATUS_STALLED
      ∧ (s.pred i).lastUp + s.get (O.TT_STALL_TIME i) * fuUs ≤ s.up then
    .next ((s.predStallNow i).predUpdate i)
  else .next s

end Sys2Proof.Machine
end

