-- ==== Sys2Proof/Machine/HeadCmd.lean ====
section
/-! DEFINITION. Commands to a head: one outstanding per port, the others wait (R255, R256, Table 9.9). -/
namespace Sys2Proof.Machine

/-- Send a command: it takes the port's next TAG. In basic mode it is a request on the return wire, not sooner than 1 µs after
the reply before it (R253); else it waits for the lanes. -/
def State.cmdSend (s : State) (n : Nat) (c : Cmd) : State :=
  let k := s.link n
  let at' := max s.up k.retAt
  let basic := decide (linkState s n = 1)
  let c := { c with tag := k.tag, sentAt := if basic then some (at' + fuRequest) else none }
  let s := (s.setLink n { k with tag := (k.tag + 1) % 256, cmd := some c }).setB (O.HP_STATE n) B.HP_STATE_CMD_BUSY true
  if basic then s.emit (.ret n at' (retBytes c)) else s.lanePut n .cmd

/-- Send a command, or let it wait while one is outstanding. -/
def State.cmdQueue (s : State) (n : Nat) (c : Cmd) : State :=
  let k := s.link n
  if k.cmd.isSome then s.setLink n { k with waiting := k.waiting ++ [c] } else s.cmdSend n c

/-- The outstanding command is over; the next one waiting leaves. -/
def State.cmdOver (s : State) (n : Nat) : State :=
  let k := s.link n
  match k.waiting with
  | [] => (s.setLink n { k with cmd := none }).setB (O.HP_STATE n) B.HP_STATE_CMD_BUSY false
  | c :: rest => (s.setLink n { k with cmd := none, waiting := rest }).cmdSend n c

/-- The port takes an epoch; while the link is UP its head is told (R255, R320, Table 11.6). -/
def State.epochTo (s : State) (n e : Nat) : State :=
  let s := s.set (O.HP_EPOCH n) e
  if linkUp s n then s.cmdQueue n { op := 4, a0 := e % 16, use := 4 } else s

/-- The port's warning action stands while it is WARM, or HOT and still serves a stripe, in single-pass printing (R311). -/
def State.warnSync (s : State) (n : Nat) : State :=
  let t := thermalState s n
  let want := !shuttle s && (decide (t = 1 ∨ t = 2)) && s.bit (O.HP_TWIN_STATUS n) B.HP_TWIN_STATUS_SERVING
  let s := s.setB (O.HP_HEALTH_STATUS n) B.HP_HEALTH_STATUS_THERMAL_SLOW want
  if want then s.slowOn 2 n else s.slowOff 2 n

/-! ### The target ratio of a group (R284, R285) -/

def groupPorts (g : Nat) : List Nat := (List.range 12).map (fun k => 12 * g + k)

/-- The target ratio of a group in 1/16,384 (R284): the mean of R_n / R_NOM as one fraction. A nominal resistance of 0
gives no ratio: the value is free (DESIGN CHOICE, log 9 and 34). -/
def State.rhoTarget (s : State) (g : Nat) : Nat × State :=
  let ps := (groupPorts g).filter (fun n => linkUp s n && s.bit (O.HP_HEALTH_STATUS n) B.HP_HEALTH_STATUS_R_VALID)
  let f := ps.foldl (fun (a : Nat × Nat) n => (a.1 * rcRNom s n + s.get (O.HP_R_MEAN n) * a.2, a.2 * rcRNom s n)) (0, 1)
  if ps = [] then (16384, s)
  else if f.2 = 0 then s.draw
  else ((divRound ((f.1 * 16384 : Nat) : Int) (f.2 * ps.length)).toNat, s)

/-- k_q for ρ and V (R285); a V of 0 gives it without bound (DESIGN CHOICE, log 34). -/
def kOf (rho vnom v : Nat) : Nat := if v = 0 then 2 ^ 64 else (divRound ((rho * vnom * vnom : Nat) : Int) (v * v)).toNat

/-- Store k_q, saturated in HP_PG_K. -/
def State.pgK (s : State) (g k : Nat) : State :=
  (s.setPg g { s.pg g with k := k }).set (O.HP_PG_K g) (min k 65535)

/-- ρ takes a value, and k_q follows it (R285). -/
def State.rhoTo (s : State) (g rho : Nat) : State :=
  if s.get (O.HP_PG_RHO g) = rho then s
  else
    let s := s.set (O.HP_PG_RHO g) rho
    if (s.pg g).convAt.isSome then s.pgK g (kOf rho (s.get (O.HP_PG_V_NOM g)) (s.pg g).v) else s

/-- ρ_t follows the means of the group's ports; with a slew of 0 so does ρ, at once (R284). -/
def State.rhoSync (s : State) (g : Nat) : State :=
  let r := s.rhoTarget g
  let s := r.2.set (O.HP_PG_RHO_TARGET g) r.1
  if s.get (O.HP_PG_RHO_SLEW g) = 0 then s.rhoTo g (s.get (O.HP_PG_RHO_TARGET g)) else s

/-! ### The pulse train's commit (R278) -/

def trainPending (s : State) (n : Nat) : Bool := s.bit (O.HP_PT_STATUS n) B.HP_PT_STATUS_PENDING
def mapWait (s : State) (n : Nat) : Bool := s.bit (O.HP_PT_STATUS n) B.HP_PT_STATUS_MAP_WAIT

/-- A pending commit is over, with a result. -/
def State.ptOver (s : State) (n result : Nat) : State :=
  let s := s.setFire n { s.fire n with commit := 0, mapNew := false }
  let s := (s.setB (O.HP_PT_STATUS n) B.HP_PT_STATUS_PENDING false).setB (O.HP_PT_STATUS n) B.HP_PT_STATUS_MAP_WAIT false
  s.set (O.HP_PT_RESULT n) result

/-- A commit enters service: the shadow bank is copied into the live bank whole (R278). -/
def State.ptApply (s : State) (n : Nat) : State :=
  let t := shadowTrain s n
  let s := (s.set (O.HP_PT_PULSES_LIVE n) t.pulses).set (O.HP_PT_SLOT_LIVE n) t.slot
  let s := (s.set (O.HP_PT_START1_LIVE n) (t.start.getD 1 0)).set (O.HP_PT_START2_LIVE n) (t.start.getD 2 0)
  let s := s.forAll [0, 1, 2] (fun s i => s.set (O.HP_PT_WIDTH_LIVE n i) (t.width.getD i 0))
  let s := ((s.set (O.HP_PT_MAP_LIVE n) t.map).set (O.HP_PT_V_NOM_LIVE n) t.vnom).set (O.HP_PT_WARM_LIVE n) t.warm
  let s := s.setFire n { s.fire n with applyMap := (s.fire n).applyMap || (s.fire n).mapNew, old := false }
  (s.ptOver n 0).setB (O.HP_FIRE_EVENTS n) B.HP_FIRE_EVENTS_TRAIN_APPLIED true

/-- A commit is withdrawn: the head refused the map or did not reply (R278). -/
def State.ptRefuse (s : State) (n : Nat) : State :=
  (s.ptOver n 6).setB (O.HP_FIRE_EVENTS n) B.HP_FIRE_EVENTS_TRAIN_REFUSED true

/-- A commit that nothing holds back applies at once on a port that is not armed, or whose link is not UP (R278). -/
def State.ptCheck (s : State) (n : Nat) : State :=
  if trainPending s n ∧ (!linkUp s n ∨ (!mapWait s n ∧ !armed s n)) then s.ptApply n else s

/-! ### The record write (R317) -/

/-- A record write in progress stops and stays pending (R317). -/
def State.recStop (s : State) (n : Nat) : State :=
  if (s.health n).recWrite.isSome then
    let s := s.setHealth n { s.health n with recWrite := none }
    let s := s.setLink n { s.link n with waiting := (s.link n).waiting.filter (fun c => c.use ≠ 5) }
    (s.setB (O.HP_HEALTH_STATUS n) B.HP_HEALTH_STATUS_REC_BUSY false).setB (O.HP_HEALTH_STATUS n) B.HP_HEALTH_STATUS_REC_PENDING true
  else s

/-- The link leaves UP: a record write stops, a commit that waits for its MAP reply applies, and readings of the head's
sense wire end, and the group's target ratio no longer counts the port (R278, R284, R298, R317). -/
def State.linkLost (s : State) (n : Nat) : State :=
  (((s.recStop n).ptCheck n).senseDrop (ofPort n)).rhoSync (groupOf n)

end Sys2Proof.Machine
end

