-- ==== Sys2Proof/Machine/Jobs.lean ====
section
/-! DEFINITION. Jobs in their slots (R119 to R123), the servers of stripes, takeovers (R320 to R326), release to the
Timetable (R230), and what drops a port's lines (R193, R232). -/
namespace Sys2Proof.Machine

/-! ### Slots, flags and pages -/

def State.setJobState (s : State) (j st : Nat) (elig : Bool) : State := s.set (O.JOB_STATE j) (st + 128 * elig.toNat)
def State.setJobFlag (s : State) (j i : Nat) (b : Bool) : State := s.setB (O.JOB_FLAGS j) i b

/-- Give pages back to the band area (R14). -/
def State.freePages (s : State) (l : List Nat) : State :=
  let s := s.setIntake { s.intake with used := l.foldl setDel s.intake.used }
  s.addC O.BS_FREE_PAGES l.length

/-- Free band `b` of a job: its pages return, its lines stay counted. -/
def State.freeBand (s : State) (j b : Nat) : State :=
  let x := s.job j
  let bd := x.bands.getD b {}
  if bd.pages = [] then s
  else
    let bs := x.bands.zipIdx.map (fun p => if p.2 = b then { p.1 with pages := [], ents := [], left := [] } else p.1)
    let s := s.setJob j { x with bands := bs }
    (s.set (O.JOB_PAGES j) (s.get (O.JOB_PAGES j) - bd.pages.length)).freePages bd.pages

/-- Bands that every port they serve has done with are freed; those of a KEEP job stay until the job ends (R14). -/
def State.bandSweep (s : State) (j : Nat) : State :=
  if jobKeep s j then s
  else s.forAll ((List.range (jobBands s j).length).filter (fun b => ((jobBands s j).getD b {}).left = []))
    (fun s b => s.freeBand j b)

/-- Stripe `i` is done with band `b` (R14). -/
def State.bandDone (s : State) (j i b : Nat) : State :=
  let x := s.job j
  let bs := x.bands.zipIdx.map (fun p => if p.2 = b then { p.1 with left := setDel p.1.left i } else p.1)
  (s.setJob j { x with bands := bs }).bandSweep j

/-- Bands of an aborted job with no line on any port are freed; of a KEEP job those of which no line was ever handed on
(R14, R121). -/
def State.abortSweep (s : State) (j : Nat) : State :=
    let held := fun b => if jobKeep s j then ((jobBands s j).getD b {}).handed else ports.any (fun n =>
      (s.lodge n).lines.any (fun l => decide (l.job = j ∧ l.band = b))
        || (s.sched n).lines.any (fun x => decide (x.line.job = j ∧ x.line.band = b)))
    s.forAll ((List.range (jobBands s j).length).filter (fun b => !held b)) (fun s b => s.freeBand j b)

/-- A line has fired, been blanked or skipped: with a band's last line the stripe is done with the band (R14). -/
def State.lineDone (s : State) (l : Line) : State :=
  if jobId s l.job ≠ l.jid then s
  else
    let s := if l.last ∧ !l.gap then s.bandDone l.job l.stripe l.band else s
    if (s.job l.job).aborted then s.abortSweep l.job else s

/-- The words of TT_ARMED and TT_OVERSPEED that hold port `n` (Table 8.12). -/
def armedWord (n : Nat) : Obj := if n < 32 then O.TT_ARMED_0 else if n < 64 then O.TT_ARMED_1 else O.TT_ARMED_2
def overspeedWord (n : Nat) : Obj :=
  if n < 32 then O.TT_OVERSPEED_0 else if n < 64 then O.TT_OVERSPEED_1 else O.TT_OVERSPEED_2

/-! ### The server of a stripe -/

/-- The stripe a port serves: of the RUNNING job before one that drains. -/
def servedBy (s : State) (n : Nat) : Option (Nat × Nat) :=
  let f := fun st => (slots.filter (fun j => decide (jobState s j = st))).findSome?
    (fun j => (servedStripe s j n).map (fun i => (j, i)))
  match f 2 with
  | some r => some r
  | none => f 3

/-- What a lane does, as its status bits show it (Tables 6.6, 7.9, R144). -/
def State.laneShow (s : State) (n : Nat) : State :=
  let l := s.lane n
  let s := s.setB (O.SCR_STATUS n) B.SCR_STATUS_ACTIVE l.serves.isSome
  let s := s.setB (O.SCR_STATUS n) B.SCR_STATUS_TWIN (l.serves.isSome && l.twin)
  let s := s.setB (O.SCR_STATUS n) B.SCR_STATUS_GEOMETRY_BAD (l.geoBad || l.nextBad)
  s.setB (O.ST_STATUS n) B.ST_STATUS_ACTIVE l.serves.isSome

/-- Take over a port's service into its status (Tables 7.9, 11.13, R329) and its warning action (R311). -/
def State.servingSync (s : State) (n : Nat) : State :=
  let sv := servedBy s n
  let twin := match sv with
    | some (j, i) => decide ((stripeAt s j i).port ≠ n)
    | none => false
  let s := s.setB (O.HP_TWIN_STATUS n) B.HP_TWIN_STATUS_SERVING sv.isSome
  let s := s.setB (O.HP_TWIN_STATUS n) B.HP_TWIN_STATUS_AS_TWIN twin
  let s := s.setB (O.HP_TWIN_ACTIVE (n / 32)) (n % 32) twin
  (s.laneShow n).warnSync n

/-- Table 11.5 for port `n` and a stripe apart from its fit; a port that only drains an earlier job serves no other stripe of
the job entering (R231). -/
def mayServe (s : State) (n j i : Nat) (entry : Bool) : Bool :=
  linkUp s n && armed s n && !portInhibited s n && liveTrainValid s n
    && slots.all (fun k => (match servedStripe s k n with
      | none => true
      | some x => decide ((k, x) = (j, i)) || (entry && decide (k ≠ j)) || decide (jobState s k ≠ 2 ∧ jobState s k ≠ 3)))

/-- Table 11.5 for port `n` and a stripe (DEDUCED, log 25). -/
def eligible (s : State) (n j i : Nat) (entry : Bool) : Bool := mayServe s n j i entry && fits s n j i

/-- Table 11.5 apart from the stripe, as HP_TWIN_STATUS.ELIGIBLE shows it. -/
def eligibleAlone (s : State) (n : Nat) : Bool :=
  linkUp s n && armed s n && !portInhibited s n && liveTrainValid s n && (servedBy s n).isNone

/-- Lines go that no rotation will fire: their frames stay at the head, and what the ROT_RESET of a latched one carried for the
port's next rotation passes on to the one after it (R245, R249, R278). -/
def State.linesGone (s : State) (n : Nat) (gone : List TLine) : State :=
  let flags := gone.foldl (fun a x => if x.latched then orW a x.flags else a) 0
  let s := s.setSched n { s.sched n with newRun := (s.sched n).newRun || bitOf flags 1 }
  let s := s.setFire n { s.fire n with applyMap := (s.fire n).applyMap || bitOf flags 3 }
  let k := s.link n
  s.setLink n { k with astray := k.astray ++ (gone.filter (fun x => !x.latched && decide (x.frame = 1 ∨ x.frame = 2))).map (fun x => (x.lseq, false)) }

/-- The maintenance rotation to come on a port is given up. -/
def State.maintGone (s : State) (n : Nat) : State :=
  match (s.sched n).maint with
  | none => s
  | some x => (s.setSched n { s.sched n with maint := none }).linesGone n [x]

/-- Claims of maintenance activities on a port end (R356, R363). -/
def State.mtDrop (s : State) (n : Nat) : State :=
  s.forAll (List.range 8) (fun s k =>
    let m := s.mt k
    if m.ports.contains n then
      let s := ((s.setMt k { m with ports := setDel m.ports n }).inc (O.MT_LOST k)).setB (O.MT_CLAIMED (n / 32)) (n % 32) false
      (s.maintGone n).setB (O.HP_HEALTH_STATUS n) B.HP_HEALTH_STATUS_DEEP_RUNNING false
    else s)

/-- Assign a stripe to a port (R320); a maintenance activity loses it (DESIGN CHOICE, log 120). -/
def State.assign (s : State) (j i n : Nat) : State :=
  let s := s.inc O.HP_ASSIGN_COUNT
  let e := s.get O.HP_ASSIGN_COUNT
  let x := s.job j
  let s := s.setJob j { x with srv := tput x.srv i (n, e) }
  let p := (stripeAt s j i).port
  let s := s.setF (O.HP_TWIN_STATUS p) B.HP_TWIN_STATUS_SERVER n
  ((s.setB (O.HP_TWIN_STATUS p) B.HP_TWIN_STATUS_UNSERVED false).epochTo n e).mtDrop n

/-- A port's lane begins a stripe: it starts at band `ord` of repetition `rep`, line `li` of it, after `gap` blank lines
(R160, R172, R195). -/
def State.laneStart (s : State) (n j i rep ord li gap : Nat) (bad : Bool) : State :=
  let l := s.lane n
  let s := s.setLane n { serves := some (j, i), twin := decide ((stripeAt s j i).port ≠ n), geoBad := bad, rep := rep, ord := ord,
                         li := li, gapLeft := gap, commit := l.commit, fresh := true }
  ((s.setLodge n { s.lodge n with primed := false, taken := 0 }).laneShow n).lgSync n

/-- A lane stops: what it holds is discarded with its diffusion state (R172); a pending commit then applies. -/
def State.laneStop (s : State) (n : Nat) : State :=
  let l := s.lane n
  let s := s.setLane n { commit := l.commit }
  let s := (s.laneShow n).setB (O.ST_STATUS n) B.ST_STATUS_LATE false
  if l.commit ≠ 0 then s.commitApply n else s

/-- A lane goes on to the stripe that follows, or stops. -/
def State.laneOn (s : State) (n : Nat) : State :=
  let l := s.lane n
  match l.next with
  | some (k, i) => s.laneStart n k i 0 0 0 0 l.nextBad
  | none => s.laneStop n

/-- A lane that has handed over all of its stripe goes on to the next one (R123); of a job that drains, it stops. -/
def State.laneNext (s : State) (n : Nat) : State :=
  let l := s.lane n
  match l.serves with
  | none => s
  | some (j, _) => if (l.next.isSome || decide (jobState s j = 3)) && laneEmpty s n j then s.laneOn n else s

/-- A lane gives up the stripes of job `j` that `f` names, whether it works at them or they follow. -/
def State.laneLeave (s : State) (n j : Nat) (f : Nat → Bool) : State :=
  let l := s.lane n
  let l := if l.next.any (fun p => decide (p.1 = j) && f p.2) then { l with next := none, nextBad := false } else l
  let s := (s.setLane n l).laneShow n
  if l.serves.any (fun p => decide (p.1 = j) && f p.2) then s.laneOn n else s

/-- A port drops its QUEUED, RELEASED, HELD and FIXED lines, and Lodging is emptied (R193, R232). -/
def State.dropLines (s : State) (n : Nat) : State :=
  let c := s.sched n
  let s := s.setSched n { c with lines := c.lines.filter (fun x => x.st = .firing), job := none, gateOpen := false, begin' := none }
  (s.linesGone n (c.lines.filter (fun x => x.st ≠ .firing))).lodgeEmpty n

/-! ### RUNNING to DRAINING to its end (Table 5.9) -/

/-- Lanes that still have lines of the job to hand to Lodging. -/
def laneBusy (s : State) (j n : Nat) : Bool :=
  let l := s.lane n
  (l.serves.any (fun p => p.1 = j) && !laneDone s n j)
  || l.next.any (fun p => p.1 = j)
  || (l.raw ++ l.coded).any (fun x => decide (x.job = j))

/-- Lines of the job that have not fired, been blanked or skipped, and those that a lane which took a stripe of it still has to
hand on. -/
def linesLeft (s : State) (j n : Nat) : Bool :=
  ((s.lane n).serves.any (fun p => p.1 = j) && !laneDone s n j)
    || (s.lodge n).lines.any (fun x => decide (x.job = j)) || (s.sched n).lines.any (fun x => decide (x.line.job = j))
    || (s.lane n).raw.any (fun x => decide (x.job = j)) || (s.lane n).coded.any (fun x => decide (x.job = j))

/-- The job leaves RUNNING for DRAINING: its lanes end, and marks that last while it runs clear (R134, R144, R180). -/
def State.leaveRunning (s : State) (j : Nat) : State :=
  let s := ((s.setJobState j 3 false).setJob j { s.job j with failed := [] }).upSync
  let s := s.forAll ports (fun s n => s.laneLeave n j (fun _ => true))
  let s := s.forAll ((s.job j).srv.map (·.2.1)) (fun s n => if n < 96 then (s.servingSync n).lgSync n else s)
  let still := (slots.filter (fun k => decide (jobState s k = 2))).flatMap (fun k =>
    (List.range (s.job k).stripes.length).map (stripePort s k))
  s.forAll (ports.filter (fun n => !still.contains n)) (fun s n => s.setB (O.ST_STATUS n) B.ST_STATUS_ZONE_MISMATCH false)

/-- The job's slot becomes FREE: its bands are freed, and its stripes have no server. -/
def State.jobFree (s : State) (j : Nat) : State :=
  let srv := (s.job j).srv
  let prim := (s.job j).stripes.map (·.port)
  let s := s.freePages ((jobBands s j).flatMap (·.pages))
  let s := s.setJob j {}
  let s := [O.JOB_STATE j, O.JOB_JOB_ID j, O.JOB_FLAGS j, O.JOB_BANDS j, O.JOB_LINE j, O.JOB_REPEAT_LEFT j,
    O.JOB_PAGES j].foldl (fun s o => s.set o 0) s
  let s := s.forAll (prim.filter (fun n => slots.all (fun k => (stripeIdx s k n).isNone)))
    (fun s n => s.setF (O.HP_TWIN_STATUS n) B.HP_TWIN_STATUS_SERVER 0xFF)
  s.forAll ((srv.map (·.2.1)).filter (fun n => n < 96)) (fun s n => s.servingSync n)

/-- DRAINING ends once no line of the job is left on any port (Table 5.9). -/
def State.drainCheck (s : State) (j : Nat) : State :=
  if jobState s j ≠ 3 ∨ ports.any (linesLeft s j) then s
  else
    let s := s.forAll (ports.filter (fun n => (s.sched n).job = some j)) (fun s n =>
      s.setSched n { s.sched n with job := none })
    let s := s.hit O.IN_EVENTS B.IN_EVENTS_JOB_ENDED 548
    let x := s.job j
    let s :=
      if jobKeep s j ∧ !jobReleased s j then
        let e := s.intake.eligNext
        let s := (s.setJobState j 4 x.repSet).setJob j
          { x with aborted := false, bases := [], switchAt := none, elig := if x.repSet then e else 0, repSet := false,
                   bad := [] }
        let s := s.setIntake { s.intake with eligNext := if x.repSet then e + 1 else e }
        s.forAll ((x.srv.map (·.2.1)).filter (fun n => n < 96)) (fun s n => s.servingSync n)
      else s.jobFree j
    s.forAll (ports.filter (armed s)) (fun s n => s.ttSync n)

/-- A RUNNING job whose lines are all in Lodging leaves RUNNING, and a DRAINING one whose lines are all done ends. -/
def State.jobCheck (s : State) (j : Nat) : State :=
  let beyond := (s.job j).switchAt.isSome || (jobClosed s j && !repsLeft s j)
  let s := if jobState s j = 2 ∧ beyond ∧ !ports.any (laneBusy s j) then s.leaveRunning j else s
  s.drainCheck j

/-- A job's last line has moved: its lanes that have handed on all of it go on, and the fill checks follow (R119, R195). -/
def State.lanesSync (s : State) (j : Nat) : State :=
  s.forAll (ports.filter (fun n => (s.lane n).serves.any (fun p => p.1 = j))) (fun s n => (s.laneNext n).lgSync n)

/-! ### Release to the Timetable (R230) -/

/-- Marks of a port are cleared, and its objects show none. -/
def State.clearMarks (s : State) (n : Nat) : State :=
  let s := s.setSched n { s.sched n with markFwd := none, markRev := none }
  ((s.set (O.TT_HWM_FWD n) 0xFFFFFFFF).set (O.TT_HWM_REV n) 0xFFFFFFFF).set (O.TT_HWM_PASSES n) 0

/-- Armed ports that serve stripes of a job. -/
def jobPorts (s : State) (j : Nat) : List Nat :=
  ports.filter (fun n => armed s n && (servedStripe s j n).isSome)

/-- Armed ports of a job at its release: those that serve its stripes, or, before it has entered RUNNING, their primaries
(DEDUCED, log 107). -/
def releasePorts (s : State) (j : Nat) : List Nat :=
  if jobState s j = 1 then ports.filter (fun n => armed s n && (stripeIdx s j n).isSome) else jobPorts s j

/-- The job is released with a new origin for each predictor its armed ports name (R230). -/
def State.toTimetable (s : State) (j : Nat) (origin : State → Nat → Nat) : State :=
  let ps := releasePorts s j
  let is := (List.range 12).filter (fun i => ps.any (fun n => decide (predOf s n = i)))
  let s := s.forAll is (fun s i =>
    let o := origin s i
    (s.set (O.TT_ORIGIN i) o).setJob j { s.job j with origins := (i, o) :: (s.job j).origins.filter (fun p => p.1 ≠ i) })
  let s := s.setJobFlag j 9 true
  let s := s.forAll ps (fun s n =>
    let s := s.clearMarks n
    let s := s.setSched n { s.sched n with begin' := some j }
    s.setB (O.TT_EVENTS n) B.TT_EVENTS_FIRST_LINE true)
  s.forAll ps (fun s n => (s.ttSync n))

/-! ### Stripes without a server (R321) -/

/-- The stripe is unserved: nothing prints it, and its bands do not wait for it (DESIGN CHOICE, log 117). -/
def State.unserve (s : State) (j i : Nat) : State :=
  let x := s.job j
  let p := (stripeAt s j i).port
  let bs := x.bands.map (fun b => { b with left := setDel b.left i })
  let s := s.setJob j { x with srv := tput x.srv i (0xFF, 0), bands := bs }
  let s := s.setF (O.HP_TWIN_STATUS p) B.HP_TWIN_STATUS_SERVER 0xFF
  let s := (s.setB (O.HP_TWIN_STATUS p) B.HP_TWIN_STATUS_UNSERVED true).inc (O.HP_TWIN_FAILS p)
  let s := s.hit (O.HP_HEALTH_EVENTS p) B.HP_HEALTH_EVENTS_TWIN_FAIL 556 1
  s.bandSweep j

/-- A port stops serving a stripe: its lane stops and its lines are dropped (Table 11.6, steps 1 and 2). -/
def State.stopServing (s : State) (j i n : Nat) : State :=
  let x := s.job j
  let s := s.setJob j { x with srv := tput x.srv i (0xFF, 0) }
  let s := s.laneLeave n j (fun k => k = i)
  (s.dropLines n).servingSync n

/-! ### Takeover (R322 to R326) -/

/-- A mark advances to a line and is shown (R221, Tables 8.8, 8.9); it never falls behind the line it stands at. -/
def State.setMark (s : State) (n : Nat) (rev : Bool) (k : TKey) (num : Nat) : State :=
  let c := s.sched n
  if behind (markOf c rev) k then s
  else if rev then
    let s := (s.setSched n { c with markRev := some k }).set (O.TT_HWM_REV n) num
    s.set (O.TT_HWM_PASSES n) (s.get (O.TT_HWM_PASSES n) % 65536 + k.pass % 65536 * 65536)
  else
    let s := (s.setSched n { c with markFwd := some k }).set (O.TT_HWM_FWD n) num
    s.set (O.TT_HWM_PASSES n) (s.get (O.TT_HWM_PASSES n) / 65536 * 65536 + k.pass % 65536)

/-- The later of two marks. -/
def laterMark (a b : Option TKey) : Option TKey :=
  match a, b with
  | none, m => m
  | m, none => m
  | some x, some y => if x.before y then some y else some x

/-- The first place after a port's final marks, or the first of the present repetition where it has none. -/
def placeAfter (s : State) (j : Nat) (c : Sched) : TKey :=
  let run := (s.job j).run
  match laterMark c.markFwd c.markRev with
  | some m => if m.run = run then ⟨m.run, m.pass, m.place + 1⟩ else firstKey s j
  | none =>
    let rep := (s.job j).bases.length - 1
    let b := (s.job j).bases.getD rep (0, 0)
    if shuttle s then ⟨run, rep * 2 ^ 20, 0⟩ else ⟨run, 0, b.1 - b.2⟩

/-- The lines from a place on that the new server cannot lodge in time, and the join line (R323). At most `fuel` lines
are passed over (DEDUCED, log 26). -/
def joinFrom (s : State) (new j i ts : Nat) : Nat → TKey → List Line → List Line × Option Line
  | 0, k, skipped => (skipped, lineAt s j i (placeOn s j k))
  | fuel + 1, k, skipped =>
    match lineAt s j i (placeOn s j k) with
    | none => (skipped, none)
    | some l =>
      let p := predOf s new
      let pos := linePos s new l (liveOffset s new l.rev)
      let res := (planeAt s j (stripeAt s j i).plane).res
      let r := (l.idx - bandStart s j l.band) % (16 * (if res then 2 else 1))
      let lodged := ts + (r + 1) * laneTime s new
      let late : Bool := match predTime s p pos s.pt with
        | .passed => ptLt s.pt (lodged + s.get (O.TT_SEND_LEAD new) * 64)
        | .at t => ptLt t (lodged + s.get (O.TT_SEND_LEAD new) * 64)
        | .unreachable => false
      if predValid s p ∧ late then joinFrom s new j i ts fuel ⟨l.run, l.pass, l.place + 1⟩ (l :: skipped)
      else (skipped, some l)

/-- Where a lane begins to hand on line `l` and those after it: repetition, band ordinal, line, blank lines. -/
def laneAt (s : State) (j : Nat) (l : Line) : Nat × Nat × Nat × Nat :=
  if l.gap then
    (if l.rep < (s.job j).bases.length then (l.rep, 0, 0, repBase s j l.rep - l.place)
    else (l.rep - 1, (jobBands s j).length, 0, 0))
  else
    let p := passOfBand s l.band
    let k := l.idx - bandStart s j l.band
    if l.rev then (l.rep, p * passBands s + passStop s j p - 1 - l.band, bandLines s j l.band - 1 - k, 0)
    else (l.rep, l.band, if l.band < (jobBands s j).length then k else 0, 0)

/-! ### Skips (R218 to R220, R224) -/

/-- A turnaround pause begins when the last line of a pass is done while the head is warm (R311). -/
def State.passDone (s : State) (n : Nat) (l : Line) : State :=
  let t := thermalState s n
  if shuttle s ∧ l.passEnd ∧ (t = 1 ∨ t = 2) ∧ !s.bit (O.HP_HEALTH_STATUS n) B.HP_HEALTH_STATUS_PAUSE then
    (((s.setB (O.HP_HEALTH_STATUS n) B.HP_HEALTH_STATUS_PAUSE true).setB (O.HP_HEALTH_EVENTS n) B.HP_HEALTH_EVENTS_PAUSE_STARTED true).inc (O.HP_TEMP_PAUSES n))
  else s

/-- Count a line fired or skipped: the numbers of the skips among the last 4,096 lines are kept (R220). -/
def Sched.counted (c : Sched) (skip : Bool) : Sched :=
  let k := c.count + 1
  let at' := if skip then k :: c.skipsAt else c.skipsAt
  { c with count := k, skipsAt := at'.filter (fun x => k < x + 4096) }

/-- A line is skipped: it advances the mark and is lost (R218 to R220, R224). -/
def State.skipLine (s : State) (n : Nat) (l : Line) (start : Bool) : State :=
  let s := (s.setMark n l.rev l.key l.num).dlSlew n
  let s := s.setSched n { (s.sched n).counted (!start) with sinceSkip := 0 }
  let s :=
    if start then (s.inc (O.TT_START_SKIPS n)).hit (O.TT_EVENTS n) B.TT_EVENTS_START_SKIP (evLine n)
    else
      let s := (s.inc (O.TT_SKIPS n)).hit (O.TT_EVENTS n) B.TT_EVENTS_SKIP (evLine n)
      let s := (s.setB (O.TT_STATUS n) B.TT_STATUS_SKIP_SLOW true).slowOn 1 n
      if s.get (O.TT_SKIP_FAULT n) < (s.sched n).skipsAt.length ∧ !s.bit (O.TT_STATUS n) B.TT_STATUS_OVERSPEED then
        let s := (s.setB (O.TT_STATUS n) B.TT_STATUS_OVERSPEED true).setB (overspeedWord n) (n % 32) true
        s.hit (O.TT_EVENTS n) B.TT_EVENTS_OVERSPEED (evLine n) 1
      else s
  (s.lineDone l).passDone n l

/-- The number a mark shows: q or x of its line (Table 8.8). -/
def markNum (s : State) (j : Nat) (rev : Bool) (k : TKey) : Nat :=
  if shuttle s ∧ rev then passLines s j (k.pass % 2 ^ 20) - 1 - k.place else k.place

/-- A stripe passes to the port `new`, after the marks `c` of its last server (Table 11.6, R323, R324). Of a job that is not
released yet, nothing has been placed: the port holds its stripe from the first line on
(DEDUCED, log 26 and 115). -/
def State.takeStripe (s : State) (j i new : Nat) (c : Sched) (cause t0 : Nat) : State :=
  let s := s.assign j i new
  let out := jobToTimetable s j
  let k0 := placeAfter s j c
  let r := if (s.job j).aborted then ([], none)
    else if out then joinFrom s new j i (t0 + 10 * fuUs) 65536 k0 []
    else ([], lineAt s j i (placeOn s j k0))
  let lost := r.1.length
  let k := s.link new
  let s := (s.setLink new { k with placed := k.placed + lost }).clearMarks new
  let d := s.sched new
  let joined := r.2.filter (fun l => !l.gap)
  let s := s.setSched new { d with job := if out then some j else none, key := (r.2.map Line.key).getD k0, start := true, newRun := true, gateOpen := !shuttle s || r.2.any (fun l => l.place ≠ 0), lseq := (d.lseq + lost) % 65536, checked := joined.map (fun l => (l.band, l.rep)), repSeen := joined.map (·.rep), begin' := none }
  let s := match c.markFwd with
    | some k => s.setMark new false k (markNum s j false k)
    | none => s
  let s := match c.markRev with
    | some k => s.setMark new true k (markNum s j true k)
    | none => s
  let s := r.1.reverse.foldl (fun s l => s.skipLine new { l with skip := true } true) s
  let s := match r.2 with
    | some l =>
      let a := laneAt s j l
      let s := s.laneStart new j i a.1 a.2.1 a.2.2.1 a.2.2.2 false
      s.set (O.HP_TWIN_LAST_J new) l.num
    | none => s
  let s := ((s.inc (O.HP_TWIN_TAKEOVERS new)).addC (O.HP_TWIN_LOST new) lost).set (O.HP_TWIN_LAST_T new) t0
  let s := s.set (O.HP_TWIN_CAUSE new) cause
  let s := s.hit (O.HP_HEALTH_EVENTS new) B.HP_HEALTH_EVENTS_TWIN_TOOK 555
  (s.servingSync new).ttSync new

/-- The stripe leaves its server `old` for `new`, or is unserved where that port is not eligible (R321, R322)
(DEDUCED, log 115). -/
def State.takeover (s : State) (j i old new cause : Nat) : State :=
  let c := s.sched old
  let t0 := s.pt
  let s := s.stopServing j i old
  let s := if new < 96 ∧ new ≠ old ∧ eligible s new j i false then
      let s := s.takeStripe j i new c cause t0
      let s := s.inc O.HP_ASSIGN_COUNT
      s.epochTo old (s.get O.HP_ASSIGN_COUNT)
    else s.unserve j i
  s.jobCheck j

/-- Every stripe a port serves leaves it (R322, R326): in PRINT to its twin; outside PRINT none takes it
(DESIGN CHOICE, log 117). -/
def State.loseStripes (s : State) (n cause : Nat) : State :=
  s.forAll (slots.filter (fun j => decide (jobState s j = 2 ∨ jobState s j = 3))) (fun s j =>
    match servedStripe s j n with
    | none => s
    | some i =>
      if s.mode = mdPrint then s.takeover j i n (s.get (O.HP_TWIN n)) cause
      else ((s.stopServing j i n).unserve j i).jobCheck j)

/-- The live offsets of a port that is not armed are the written ones (R233). -/
def State.offsetsNow (s : State) (n : Nat) : State :=
  ((s.set (O.TT_OFFSET_FWD_LIVE n) (s.get (O.TT_OFFSET_FWD n))).set (O.TT_OFFSET_REV_LIVE n) (s.get (O.TT_OFFSET_REV n))).offsetSync n

/-- Disarm a port: its stripes are unserved, and its lines are dropped (R193, R232). -/
def State.disarm (s : State) (n : Nat) : State :=
  let s := s.forAll slots (fun s j =>
    match servedStripe s j n with
    | none => s
    | some i =>
      if jobState s j = 2 ∨ jobState s j = 3 then ((s.stopServing j i n).unserve j i).jobCheck j
      else s.setJob j { s.job j with srv := tput (s.job j).srv i (0xFF, 0) })
  let s := s.dropLines n
  let s := (s.set (O.TT_ARM n) 0).setB (O.TT_STATUS n) B.TT_STATUS_ARMED false
  let s := (s.setB (O.TT_STATUS n) B.TT_STATUS_WAIT_JOB false).setB (armedWord n) (n % 32) false
  let s := (s.setB (O.TT_EVENTS n) B.TT_EVENTS_DISARMED true).offsetsNow n
  let s := if s.bit (O.ST_STATUS n) B.ST_STATUS_PENDING then s.stApply n else s
  ((((s.ptCheck n).predSync (predOf s n)).lgSync n).servingSync n).ttSync n

/-- A permanent condition, or the host, retires a port (R266, Table 9.13). -/
def State.retirePort (s : State) (n : Nat) : State :=
  if retired s n then s
  else
    let k := s.link n
    let was := linkState s n
    let s := s.setLink n { k with cmd := none, waiting := [], card := [], trims := [], absorb := [], late := [], lq := [], leaving := none }
    let s := (s.setF (O.HP_STATE n) B.HP_STATE_LINK 5).setB (O.HP_STATE n) B.HP_STATE_CMD_BUSY false
    let s := if was = 3 then s else (s.setB (O.HP_STATE n) B.HP_STATE_RET_LINK false).emit (.note "CK" [n, 0])
    let s := if s.get (O.HP_RC_RESULT n) = 1 then s.set (O.HP_RC_RESULT n) 2 else s
    let s := s.linkLost n
    let s := s.hit (O.HP_LINK_STATUS n) B.HP_LINK_STATUS_RETIRED (evRetire n) 1
    let s := (s.mtDrop n).loseStripes n 1
    (s.dropLines n).ttSync n

/-! ### Entry to RUNNING (R119, R320) -/

/-- The servers of a job's stripes at an entry that is no repetition: primaries first, then twins (R320). A primary whose stripe
does not fit, and that has no eligible twin, serves it blank (R144) (DEDUCED, log 25). -/
def State.serveAll (s : State) (j : Nat) : State :=
  let is := List.range (s.job j).stripes.length
  let s := s.setJob j { s.job j with srv := [] }
  let s := s.forAll is (fun s i =>
    let p := (stripeAt s j i).port
    if eligible s p j i true then s.assign j i p else s)
  s.forAll (is.filter (fun i => (tget (0xFF, 0) (s.job j).srv i).1 = 0xFF)) (fun s i =>
    let p := (stripeAt s j i).port
    let t := s.get (O.HP_TWIN p)
    if t < 96 ∧ eligible s t j i true then s.assign j i t
    else if mayServe s p j i true then s.assign j i p
    else s.unserve j i)

/-- Lanes of a job's servers begin it; a lane still at work for another job goes on to it afterwards (R123). Each lane checks its
stripe at the entry (R144). -/
def State.startLanes (s : State) (j : Nat) : State :=
  s.forAll ((s.job j).srv.map (·.1)) (fun s i =>
    let n := (tget (0xFF, 0) (s.job j).srv i).1
    if 96 ≤ n then s
    else
      let bad := !fits s n j i
      let s := if (s.lane n).serves.isSome then s.setLane n { s.lane n with next := some (j, i), nextBad := bad }
        else s.laneStart n j i 0 0 0 0 bad
      let s := if bad then s.hit (O.SCR_EVENTS n) B.SCR_EVENTS_GEOMETRY 554 else s
      s.servingSync n)

/-- The job enters RUNNING (Table 5.9); a held job's repetition keeps its servers (R320), `base` is the place of its
first line and `run` the run it belongs to. -/
def State.enterRunning (s : State) (j base run : Nat) : State :=
  let held := decide (jobState s j = 4)
  let s := s.setJobState j 2 false
  let x := s.job j
  let s := s.setJob j { x with elig := 0, bases := [(base, 0)], run := run, bad := [], failed := [], switchAt := none }
  let s := if held ∧ !jobEndless s j then s.set (O.JOB_REPEAT_LEFT j) (s.get (O.JOB_REPEAT_LEFT j) - 1) else s
  let s := s.set (O.JOB_LINE j) 0
  let s := if held then s.setJobFlag j 9 false else s
  let s := if held ∧ x.srv ≠ [] then
      s.forAll ((x.srv.filter (fun p => p.2.1 = 0xFF
          && !s.bit (O.HP_TWIN_STATUS (stripeAt s j p.1).port) B.HP_TWIN_STATUS_UNSERVED)).map (·.1)) (fun s i => s.unserve j i)
    else s.serveAll j
  let un := ((s.job j).srv.filter (fun p => p.2.1 = 0xFF)).map (·.1)
  let s := s.setJob j { s.job j with bands := (jobBands s j).map (fun b => { b with left := un.foldl setDel b.left }) }
  let s := s.forAll ((s.job j).stripes.map (·.port)) (fun s n => s.setB (O.TT_STATUS n) B.TT_STATUS_WAIT_JOB false)
  ((s.startLanes j).upSync).zoneCheck j

/-- The origin at a release without START_BY_ACTION (R230). -/
def startOrigin (s : State) (i : Nat) : Nat := s.get (O.TT_START_POS i) % 2 ^ 48

/-- JOB_ENTER_RUNNING (R119): the earliest eligible job enters RUNNING when no job is RUNNING. -/
def State.enterNext (s : State) : State :=
  if slots.any (fun j => decide (jobState s j = 2)) then s
  else match earliestEligible s (fun _ => true) with
    | none => s
    | some j =>
      let run := s.intake.runNext
      let s := s.setIntake { s.intake with runNext := run + 1 }
      let s := s.enterRunning j 0 run
      let s := if !jobByAction s j then s.toTimetable j startOrigin
        else if jobToTimetable s j then
          s.forAll (jobPorts s j) (fun s n => (s.setSched n { s.sched n with begin' := some j }).ttSync n)
        else s
      s.jobCheck j

/-! ### Job actions (R122, R123) -/

/-- An action that finds no job in the state it needs (R122). -/
def State.jobVoid (s : State) : State := s.hit O.IN_EVENTS B.IN_EVENTS_JOB_ACTION_VOID 548

/-- The slot that holds a job. -/
def slotOf (s : State) (id : Nat) : Option Nat :=
  slots.find? (fun j => decide (jobState s j ≠ 0 ∧ jobId s j = id))

/-- JOB_START (R122, R230): `here` is the trigger's interface and position, when it has a position trigger. -/
def State.jobStart (s : State) (id : Nat) (here : Option (Nat × Nat)) : State :=
  match slotOf s id with
  | none => s.jobVoid
  | some j =>
    if !(jobState s j = 1 ∨ jobState s j = 2) ∨ !jobByAction s j ∨ jobToTimetable s j then s.jobVoid
    else
      let origin := fun (s : State) i =>
        match here with
        | some (k, w) => if k = i ∧ predMode s i = 1 then w % 2 ^ 48
          else if predMode s i = 1 ∧ !predValid s i then s.get (O.TT_PRED_POS i) else modelPos s i s.tick
        | none => if predMode s i = 1 ∧ !predValid s i then s.get (O.TT_PRED_POS i) else modelPos s i s.tick
      s.toTimetable j origin

/-- JOB_SWITCH (R123): the old job ends at the end of the band at which the unpacker waits, or of the one being decoded
when that is later; the new job enters RUNNING at once and continues its lines (R231). -/
def State.jobSwitch (s : State) (newId oldId lastBand : Nat) : State :=
  match slotOf s newId, slotOf s oldId with
  | some j, some o =>
    if jobState s o ≠ 2 ∨ (s.job o).switchAt.isSome ∨ !(jobState s j = 1 ∨ (jobState s j = 4 ∧ jobEligible s j)) ∨ j = o then s.jobVoid
    else
      let wait := match switchBarrier s o with
        | some b => min b lastBand
        | none => lastBand
      let begun := ports.foldl (fun m n => match (s.lane n).serves with
        | some (k, _) =>
          let l := s.lane n
          if k = o ∧ newestRep s o l ∧ (l.li ≠ 0 ∨ l.ord ≠ 0) then
            match bandAt s o (if l.li = 0 then l.ord - 1 else l.ord) with
            | some b => max m b
            | none => m
          else m
        | none => m) 0
      let at' := max wait begun
      let x := s.job o
      let s := if wait < begun then
          (s.hit O.IN_EVENTS B.IN_EVENTS_SWITCH_LATE 548).emit (.note "SWITCH_LATE" [begun]) else s
      let s := s.setJob o { x with switchAt := some (at', j) }
      let rep := x.bases.length - 1
      let toTT := jobToTimetable s o
      let run := s.intake.runNext
      let s := if shuttle s then
          (s.setIntake { s.intake with runNext := run + 1 }).enterRunning j 0 run
        else s.enterRunning j (repBase s o rep + bandStart s o (at' + 1)) x.run
      let s := s.setJob j { s.job j with origins := x.origins }
      let s := s.setJobFlag j 9 toTT
      let s := s.forAll (jobPorts s j) (fun s n => s.ttSync n)
      (s.lanesSync o).jobCheck o
  | _, _ => s.jobVoid

end Sys2Proof.Machine
end

