-- ==== Sys2Proof/Machine/Timetable.lean ====
section
/-! DEFINITION. The Timetable's commands (R207 to R233) and Lodging's handing on (R192, R194), with the lane commands that
end a job's stripe. -/
namespace Sys2Proof.Machine

/-! ### Lanes and Lodging -/

/-- UNPACKER_LINE (R135): `ecc` and `addr` are the band store's report on the read (R127) (DESIGN CHOICE, log 24). -/
def execUnpackerLine (n ecc addr : Nat) (s : State) : Host.Outcome State Fault Refusal :=
  match (s.lane n).serves with
  | none => .next s
  | some (j, _) => .next (((s.unpackLine n ecc addr).laneNext n).jobCheck j)

/-- LODGE_LINE (R191): the stitcher takes the screened line when Lodging has room (DESIGN CHOICE, log 24). -/
def execLodgeLine (n : Nat) (s : State) : Host.Outcome State Fault Refusal :=
  match (s.lane n).coded with
  | [] => .next s
  | l :: rest =>
    if hasRoom s n then
      .next ((((s.setLane n { s.lane n with coded := rest }).lodgeLine n l).laneNext n).jobCheck l.job)
    else .next s

/-! ### Handing on (R192, R194) -/

/-- Discard lodged lines that cannot be printed any more when the line at place `k` is placed (R192). -/
def State.dropStale (s : State) (n : Nat) (k : TKey) : List Line → State
  | [] => s
  | l :: rest =>
    if l.epoch ≠ stripeEpoch s l.job l.stripe ∨ behind (markOf (s.sched n) l.rev) l.key ∨ l.key.before k then
      let s := s.setLodge n { s.lodge n with lines := rest }
      let s := (s.inc (O.LG_STALE n)).setB (O.LG_EVENTS n) B.LG_EVENTS_STALE true
      (s.lineDone l).dropStale n k rest
    else s

/-- Lodging hands on the line at a place, or a blank line for it (R192, R194): `ecc` is 1 for a corrected and 2 for an
uncorrectable record. The flag says that the port's Lodging has failed for good. -/
def State.handOn (s : State) (n : Nat) (l : Line) (ecc : Nat) : State × Line × Bool :=
  let s := s.dropStale n l.key (s.lodge n).lines
  let lg := s.lodge n
  let k := lg.handed + 1
  let recent := lg.badAt.filter (fun b => k < b + 4096)
  match lg.lines.head?.filter (fun x => decide (x.key = l.key)) with
  | some x =>
    let bad := if ecc = 2 then k :: recent else recent
    let s := s.setLodge n { lg with lines := lg.lines.drop 1, handed := k, taken := lg.taken + 1, badAt := bad }
    if ecc = 1 then
      (((s.inc (O.LG_ECC_CORRECTED n)).setB (O.LG_EVENTS n) B.LG_EVENTS_ECC_CORRECTED true).lgSync n, x, false)
    else if ecc = 2 then
      let s := ((s.inc (O.LG_ECC_UNCORR n)).hit (O.LG_EVENTS n) B.LG_EVENTS_ECC_UNCORR (evLine n)).lgSync n
      (s, { x with blank := true }, decide (8 < bad.length))
    else (s.lgSync n, x, false)
  | none =>
    let s := s.setLodge n { lg with handed := k, badAt := recent }
    ((((s.inc (O.LG_BLANKS n)).hit (O.LG_EVENTS n) B.LG_EVENTS_BLANK_LINE (evLine n))).lgSync n, { l with blank := true, data := [] }, false)

/-! ### Offsets (R233) -/

/-- A live offset one step nearer to its written value. -/
def slewStep (slew : Nat) (live want : Int) : Int :=
  if slew = 0 then want
  else if live < want then min want (live + slew) else max want (live - slew)

/-- The live offsets at a released or skipped line (R233). -/
def State.slewOffsets (s : State) (n : Nat) : State :=
  let sl := s.get (O.TT_OFFSET_SLEW n)
  let s := s.setI (O.TT_OFFSET_FWD_LIVE n) (slewStep sl (s.getI (O.TT_OFFSET_FWD_LIVE n)) (s.getI (O.TT_OFFSET_FWD n)))
  let s := s.setI (O.TT_OFFSET_REV_LIVE n) (slewStep sl (s.getI (O.TT_OFFSET_REV_LIVE n)) (s.getI (O.TT_OFFSET_REV n)))
  s.offsetSync n

/-- A write of an offset (R233). -/
def wrOffset (n : Nat) (rev : Bool) (v : Nat) (s : State) : WRes :=
  let i := toSigned 64 v
  if i < -(2 ^ 47 : Nat) ∨ (2 ^ 47 : Nat) ≤ i then .no s abRange
  else
    let s := s.set (if rev then O.TT_OFFSET_REV n else O.TT_OFFSET_FWD n) v
    .ok ((if armed s n then s else s.set (if rev then O.TT_OFFSET_REV_LIVE n else O.TT_OFFSET_FWD_LIVE n) v).ttSync n)

/-- OFFSET_WRITE (R233). -/
def execOffsetWrite (p : Path) (n : Nat) (rev : Bool) (v : Nat) (s : State) : Host.Outcome State Fault Refusal :=
  access p (if rev then O.TT_OFFSET_REV n else O.TT_OFFSET_FWD n) s (wrOffset n rev (v % 2 ^ 64))

/-! ### Release (R212, R218, R185) -/

/-- The check of the first band of a job or repetition, at the port's first placement in it (R185). -/
def State.firstCheck (s : State) (n : Nat) (l : Line) : State :=
  let c := s.sched n
  if l.gap ∨ c.repSeen = some l.rep then s
  else
    let s := s.setSched n { c with repSeen := some l.rep, checked := some (l.band, l.rep) }
    if c.checked = some (l.band, l.rep) then s else s.bandCheck n l.job l.stripe l.band l.rep

/-- The band that comes first in the pass the port prints next, while that pass is a reverse one and not wholly committed, and
its repetition (R182, R185) (DEDUCED, log 106). -/
def revPending (s : State) (n : Nat) : Option (Nat × Nat) :=
  match (s.sched n).job with
  | none => none
  | some j =>
    let k := placeOn s j (s.sched n).key
    let p := k.pass % 2 ^ 20
    if shuttle s ∧ k.place = 0 ∧ k.run = (s.job j).run ∧ passRev s p ∧ !passWhole s j p then
      some ((p + 1) * passBands s - 1, k.pass / 2 ^ 20)
    else none

/-- The check of the band that follows, when the last line of a band is taken (R185). -/
def State.nextCheck (s : State) (n : Nat) (l : Line) : State :=
  match nextLine s n with
  | none =>
    match revPending s n with
    | none => s
    | some (b, rep) =>
      if l.gap ∨ (s.sched n).checked = some (b, rep) then s
      else (s.setSched n { s.sched n with checked := some (b, rep) }).bandCheck n l.job l.stripe b rep
  | some x =>
    let c := s.sched n
    if l.gap ∨ x.gap ∨ x.job ≠ l.job ∨ x.rep ≠ l.rep ∨ x.band = l.band ∨ c.checked = some (x.band, x.rep) then s
    else (s.setSched n { c with checked := some (x.band, x.rep) }).bandCheck n x.job x.stripe x.band x.rep

/-- The scheduler's next place after line `l`; a gate stands before the first line of a pass. -/
def State.advanceKey (s : State) (n : Nat) (l : Line) : State :=
  let c := s.sched n
  let s := s.setSched n { c with key := ⟨l.run, l.pass, l.place + 1⟩ }
  let open' := match nextLine s n with
    | some x => decide (x.place ≠ 0)
    | none => false
  s.setSched n { s.sched n with gateOpen := if shuttle s then open' else true }

/-- The QUEUED line `l0`, placed at `pos` for the time and with the lag of `v`, leaves for the head port, or is skipped. -/
def State.placeLine (s : State) (n : Nat) (l0 : Line) (pos : Nat) (v : Nat × Nat) (ecc : Nat) (skip : Bool) : State :=
  let s := s.firstCheck n l0
  let h := s.handOn n l0 ecc
  let s := h.1
  let l := { l0 with blank := h.2.1.blank, data := h.2.1.data }
  let c := s.sched n
  let k := s.link n
  let s := s.setLink n { k with placed := k.placed + 1 }
  let s := s.setSched n { c with lseq := (c.lseq + 1) % 65536 }
  let s :=
    if skip || decide (lagLimit s n < v.2) then s.skipLine n { l with skip := true } c.start
    else
      let x : TLine := { line := l, pos := pos, time := v.1, lag := v.2, lseq := c.lseq, start := c.start }
      s.setSched n { s.sched n with lines := (s.sched n).lines ++ [x], start := false }
  let s := (s.advanceKey n l).nextCheck n l
  let s := if h.2.2 then
      ((s.setB (O.LG_STATUS n) B.LG_STATUS_SRAM_FAIL true).hit (O.LG_EVENTS n) B.LG_EVENTS_SRAM_FAIL (evLine n) 1).retirePort n
    else s
  (s.ttSync n).jobCheck l.job

/-- The QUEUED line leaves for the head port, or is skipped (R212, R218). -/
def State.releaseLine (s : State) (n ecc : Nat) (skip : Bool := false) : State :=
  let s0 := s
  if !armed s n ∨ s.mode ≠ mdPrint then s
  else match nextLine s n with
  | none => s
  | some l0 =>
    let s := if shuttle s ∧ l0.place = 0 ∧ !(s.sched n).gateOpen ∧ predMode s (predOf s n) = 2 then
        s.gateTry n (modelPos s (predOf s n) s.pt) else s
    if shuttle s ∧ l0.place = 0 ∧ !(s.sched n).gateOpen then s
    else
      let s := s.slewOffsets n
      let pos := linePos s n l0 (liveOffset s n l0.rev)
      let c := s.sched n
      match evalLine s n pos l0.rev (lastTime c) with
      | none => s0
      | some v =>
        if ptLt (s.pt + s.get (O.TT_SEND_LEAD n) * 64) v.1 then s0
        else
          s.placeLine n l0 pos v ecc skip

/-! ### Fix (R214, R218) -/

/-- The first RELEASED line of a port with no HELD line before it, and the time of the line before it. -/
def firstReleased : Option Nat → List TLine → Option (Option Nat × TLine)
  | _, [] => none
  | prev, x :: rest =>
    match x.st with
    | .released => some (prev, x)
    | .held => none
    | _ => firstReleased (some x.time) rest

/-- The predicted position at T lies no more than TT_EXTRAP beyond the newest edge (R214). -/
def extrapOk (s : State) (n t : Nat) (rev : Bool) : Bool :=
  let i := predOf s n
  predMode s i = 2 || decide (signed (lineUp s i rev) (posDiff (modelPos s i t) (s.get (O.TT_PRED_POS i))) ≤ s.get (O.TT_EXTRAP i))

/-- Replace one line of a scheduler, found by its LSEQ; none removes it. -/
def putLine (ls : List TLine) (q : Nat) (y : Option TLine) : List TLine :=
  ls.flatMap (fun x => if x.lseq = q then y.toList else [x])

/-- The first line after a start skip may be one too (R224); the flag says that no such line is placed yet. -/
def startOn : List TLine → List TLine × Bool
  | [] => ([], true)
  | x :: rest =>
    if x.st = .released ∨ x.st = .held then ({ x with start := true } :: rest, false)
    else ((x :: (startOn rest).1), (startOn rest).2)

/-- A RELEASED line becomes FIXED, or is skipped (R214, R218). -/
def State.fixLine (s : State) (n : Nat) : State :=
  let c := s.sched n
  match firstReleased c.lastT c.lines with
  | none => s
  | some (prev, x) =>
    if ptLt (s.pt + s.get (O.TT_FIX_LEAD n) * 64) x.time then s
    else match evalLine s n x.pos x.line.rev prev with
    | none => s
    | some v =>
      if !extrapOk s n v.1 x.line.rev then s
      else if lagLimit s n < v.2 then
        let ls := putLine c.lines x.lseq none
        let on := if x.start then startOn ls else (ls, false)
        let s := s.setSched n { c with lines := on.1, start := c.start || on.2 }
        let k := s.link n
        let s := if x.frame = 0 ∨ !linkUp s n then s
          else (s.setLink n { k with astray := if x.frame = 1 ∨ x.frame = 2 then k.astray ++ [(x.lseq, true)] else k.astray }).lanePut n (.drop x.lseq)
        ((s.skipLine n { x.line with skip := true } x.start).ttSync n).jobCheck x.line.job
      else
        let s := s.setSched n { c with lines := putLine c.lines x.lseq (some { x with st := .fixed, time := v.1, lag := v.2 }) }
        let s := (s.set (O.TT_LAST_FIRE n) (v.1 + s.get (O.TT_STAGGER_DELAY n))).setSat (O.TT_LAST_LAG n) v.2
        let s := (s.rise (O.TT_MAX_LAG n) (min v.2 0xFFFFFFFF)).setB (O.TT_STATUS n) B.TT_STATUS_LAGGING (decide (v.2 ≠ 0))
        (if v.2 = 0 then s else s.inc (O.TT_LATE_PLACED n)).ttSync n

/-- LINE_FIX (R214). -/
def execLineFix (n t : Nat) (s : State) : Host.Outcome State Fault Refusal :=
  .next ((s.advPort n t).fixLine n)

/-! ### Arming (R227 to R229, R184) -/

/-- The products of R31 exceed their ceilings. -/
def overCeiling (s : State) (n : Nat) : Bool :=
  let r := min 96000 (rcMaxRate s n * 10)
  decide (3000000000 < nozzles s n * outBits s n * r ∨ 1600000000 < nozzles s n * r)

/-- A case of R184 holds for the port. -/
def armGeometryBad (s : State) (n : Nat) : Bool :=
  let m := columns s n
  let cfg := s.get (O.ST_CONFIG_LIVE n)
  let z := s.get (O.ST_ZONES_LIVE n)
  let pt := s.fld O.ST_SHUTTLE B.ST_SHUTTLE_PASS_TILE
  let a := domAddr (passIndex pt)
  decide (m < z % 65536 + z / 65536)
    || (decide (fieldOf cfg B.ST_CONFIG_LEFT_MODE = 2 ∨ fieldOf cfg B.ST_CONFIG_RIGHT_MODE = 2)
      && !blendValid s (fieldOf cfg B.ST_CONFIG_BLEND))
    || (shuttle s && (!passTileValid s pt
      || (List.range (s.mgetLE (a 2) 2 * s.mgetLE (a 4) 2)).any (fun k => decide (passes s ≤ (s.mget (a (16 + k))).toNat))
      || decide (s.get O.ST_FEED = 0 ∨ passes s * s.get O.ST_FEED < s.get (O.ST_FEED_ORIGIN n) + m)))
    || decide (depthEff s n < 8 ∨ depthEff s n < s.get (O.LG_SLOW_OFF n))

/-- Stagger delay φ (R235). -/
def staggerDelay (s : State) (n : Nat) : Nat :=
  if s.bit (O.TT_CONFIG n) B.TT_CONFIG_STAGGER_EN then
    s.fld (O.TT_CONFIG n) B.TT_CONFIG_STAGGER_PHASE * ((liveTrain s n).slot / 12) else 0

/-- Why arming is refused, as an abort of Table 8.3 or R274; none when it is accepted. -/
def armRefusal (s : State) (n : Nat) : Option Nat :=
  let i := predOf s n
  let mode := predMode s i
  if s.mode ≠ mdReady ∧ s.mode ≠ mdPrint then some abState
  else if !s.bit O.CK_STATUS B.CK_STATUS_TIME_VALID then some abState
  else if retired s n ∨ portInhibited s n then some abState
  else if !liveTrainValid s n then some abState
  else if mode = 0 ∨ (mode = 1 ∧ (s.fld (O.PI_CONFIG i) B.PI_CONFIG_MODE = 0 ∨ s.bit (O.PI_STATUS i) B.PI_STATUS_FAULT)) then some abState
  else if overCeiling s n then some abRange
  else if (match armJob s n with
    | some j => (match stripeIdx s j n with
      | some k => !fits s n j k
      | none => false)
    | none => false) then some abRange
  else if armGeometryBad s n then some abRange
  else if mode = 2 ∧ s.get (O.TT_FIXED_PERIOD i) < minLinePeriod s n then some abRange
  else if s.get (O.TT_SEND_LEAD n) ≤ s.get (O.TT_FIX_LEAD n) then some abRange
  else if s.get (O.TT_SEND_LEAD n) < leastLead s n then some abRange
  else if s.get (O.TT_FIX_LEAD n) < 200 then some abRange
  else none

/-- Arm a port: what arming computes (R189, R227, R228, R235, R264). -/
def State.arm (s : State) (n : Nat) : State :=
  let s := (s.set (O.TT_MIN_PERIOD n) (minLinePeriod s n)).set (O.TT_STAGGER_DELAY n) (staggerDelay s n)
  let s := (s.set (O.HP_LEAST_LEAD n) (leastLead s n)).set (O.LG_LINE_BYTES n) (lineBytes s n)
  let s := s.set (O.LG_DEPTH_EFF n) (depthEff s n)
  let s := s.setSched n { s.sched n with count := 0, skipsAt := [], sinceSkip := 0 }
  let s := (s.set (O.TT_MAX_LAG n) 0).set (O.TT_ARM n) 1
  let s := s.setB (O.TT_STATUS n) B.TT_STATUS_ARMED true
  let s := s.setB (O.TT_STATUS n) B.TT_STATUS_WAIT_JOB (armJob s n).isNone
  let s := (s.setB (armedWord n) (n % 32) true).setB (O.TT_EVENTS n) B.TT_EVENTS_ARMED true
  ((s.predSync (predOf s n)).lgSync n).ttSync n

/-- A write of TT_ARM (R227, R229). -/
def wrArm (n v : Nat) (s : State) : WRes :=
  if 1 < v then .no s abRange
  else if v = 0 then .ok (if armed s n then s.disarm n else s)
  else if armed s n then .ok s
  else match armRefusal s n with
    | some a => .no s a
    | none => .ok (s.arm n)

/-- ARM (R227): a write of 1 to TT_ARM. -/
def execArm (p : Path) (n : Nat) (s : State) : Host.Outcome State Fault Refusal :=
  access p (O.TT_ARM n) s (wrArm n 1)

/-- DISARM (R232): a write of 0 to TT_ARM. -/
def execDisarm (p : Path) (n : Nat) (s : State) : Host.Outcome State Fault Refusal :=
  access p (O.TT_ARM n) s (wrArm n 0)

/-- A write of TT_CONTROL (Table 8.8): bit 0 clears TT_MAX_LAG. -/
def wrTtControl (n v : Nat) (s : State) : WRes :=
  if 1 < v then .no s abRange else .ok (if v = 1 then s.set (O.TT_MAX_LAG n) 0 else s)

/-- TT_CONTROL (R236). -/
def execTtControl (p : Path) (n v : Nat) (s : State) : Host.Outcome State Fault Refusal :=
  access p (O.TT_CONTROL n) s (wrTtControl n (v % 256))

end Sys2Proof.Machine
end

