-- ==== Sys2Proof/Machine/Intake.lean ====
section
/-! DEFINITION. Intake: the waybill queue, the waybill kinds and the band store (chapter 5). -/
namespace Sys2Proof.Machine

def mib : Nat := 1048576
def pageBytes : Nat := 262144

/-! ### The band area (R126) -/

/-- Capacity in MiB that BS_CONFIG states (Tables 5.11, 5.22). -/
def configMib (s : State) : Nat :=
  let d := s.fld O.BS_CONFIG B.BS_CONFIG_DENSITY
  let gib := [2, 4, 8, 12, 16].getD d 0
  gib * 1024 * (if s.bit O.BS_CONFIG B.BS_CONFIG_CHANNELS then 2 else 4)
/-- Pages of the band area. -/
def areaPages (s : State) : Nat := (s.get O.BS_CAPACITY - s.get O.BS_HOST_SIZE) * 4
def State.pagesSync (s : State) : State := s.set O.BS_FREE_PAGES (areaPages s - s.intake.used.length)
/-- The lowest `n` free pages from page `p` on, `fuel` pages looked at. -/
def freePagesFrom (used : List Nat) : Nat → Nat → Nat → List Nat
  | 0, _, _ => []
  | _ + 1, _, 0 => []
  | fuel + 1, p, n + 1 =>
    if used.contains p then freePagesFrom used fuel (p + 1) (n + 1) else p :: freePagesFrom used fuel (p + 1) n
/-- Pages held by HELD and KEEP jobs (R115). -/
def keptPages (s : State) : Nat :=
  ((slots.filter (fun j => jobState s j ≠ 0 && (decide (jobState s j = 4) || jobKeep s j))).map
    (fun j => s.get (O.JOB_PAGES j))).sum

/-! ### The queue (R106 to R108, R117) -/

def queueBase (s : State) : Nat := s.get O.IN_Q_BASE_LO + 2 ^ 32 * s.get O.IN_Q_BASE_HI
def slotAddr (s : State) : Nat := queueBase s + 128 * s.get O.IN_HEAD
/-- A little-endian field of the slot taken. -/
def slotField (s : State) (a n : Nat) : Nat := ofBytesLE ((s.intake.slot.drop a).take n)
def slotKind (s : State) : Nat := slotField s 2 1
def slotJob (s : State) : Nat := slotField s 0 2

def State.setStage (s : State) (g : InStage) : State := (s.setIntake { s.intake with stage := g })
/-- EMPTY and RUNNING as they follow (Table 5.16). -/
def State.inSync (s : State) : State :=
  let s := s.setB O.IN_STATUS B.IN_STATUS_EMPTY (decide (s.get O.IN_HEAD = s.get O.IN_TAIL))
  s.setB O.IN_STATUS B.IN_STATUS_RUNNING (s.bit O.IN_CONTROL B.IN_CONTROL_RUN && !s.bit O.IN_STATUS B.IN_STATUS_HALTED)
/-- Count bytes read from the host. -/
def State.inBytes (s : State) (n : Nat) : State :=
  let r := s.intake.kibRem + n
  (s.setIntake { s.intake with kibRem := r % 1024 }).addC O.IN_KIB (r / 1024)

/-- Complete the waybill taken (R108): bytes 112 to 127, then bytes 0 to 3 with OWN cleared, then IN_HEAD. -/
def State.complete (s : State) (code detail : Nat) : State :=
  let a := slotAddr s
  let w0 := slotField s 0 4
  let s := s.emit (.hostWrite (a + 112) (bytesLE 8 (code + detail % 65536 * 65536) ++ bytesLE 8 s.pt))
  let s := s.emit (.hostWrite a (bytesLE 4 (w0 % 2 ^ 31)))
  let s := (s.set O.IN_HEAD ((s.get O.IN_HEAD + 1) % s.get O.IN_Q_SLOTS)).set O.IN_LAST_SEQ (slotField s 4 4)
  let s := s.inc O.IN_WAYBILLS
  let s := if bitOf w0 30 then s.hit O.IN_EVENTS B.IN_EVENTS_WAYBILL_DONE 546 else s
  (s.setIntake { s.intake with stage := .idle, refused := none, tries := 0 }).inSync

/-- Halt the queue at the present slot. -/
def State.halt (s : State) : State :=
  let s := (s.set O.IN_ERR_SLOT (s.get O.IN_HEAD)).setB O.IN_STATUS B.IN_STATUS_HALTED true
  s.inSync

/-- Refuse the waybill taken (R117). -/
def State.refuse (s : State) (code detail : Nat) : State :=
  let s := (s.set O.IN_ERR_SLOT (s.get O.IN_HEAD)).set O.IN_ERR_CODE code
  let s := s.hit O.IN_EVENTS B.IN_EVENTS_WAYBILL_ERROR 547
  if s.bit O.IN_CONTROL B.IN_CONTROL_HALT_ON_ERROR then
    (s.setIntake { s.intake with refused := some (code, detail) }).halt
  else s.complete code detail

/-- A write of IN_TAIL (R106). -/
def wrInTail (v : Nat) (s : State) : WRes :=
  if s.get O.IN_Q_SLOTS ≤ v then .no s abRange else .ok ((s.set O.IN_TAIL v).inSync)

/-- IN_TAIL_WRITE (R106). -/
def execInTailWrite (p : Path) (v : Nat) (s : State) : Host.Outcome State Fault Refusal :=
  access p O.IN_TAIL s (wrInTail (v % 65536))

/-- A write of IN_CONTROL (Table 5.18, R117): RESUME reads the halted slot again, SKIP completes the refused waybill. -/
def wrInControl (v : Nat) (s : State) : WRes :=
  let s := s.set O.IN_CONTROL (v % 4)
  let halted := s.bit O.IN_STATUS B.IN_STATUS_HALTED
  let s :=
    if bitOf v B.IN_CONTROL_SKIP ∧ halted then
      match s.intake.refused with
      | some r => (s.setB O.IN_STATUS B.IN_STATUS_HALTED false).complete 10 r.1
      | none => s
    else if bitOf v B.IN_CONTROL_RESUME ∧ halted then
      let s := s.setB O.IN_STATUS B.IN_STATUS_HALTED false
      s.setIntake { s.intake with stage := .idle, refused := none, tries := 0 }
    else s
  .ok s.inSync

/-- IN_RUN (R107): a write of RUN and HALT_ON_ERROR. -/
def execInRun (p : Path) (v : Nat) (s : State) : Host.Outcome State Fault Refusal :=
  access p O.IN_CONTROL s (wrInControl (v % 4))

/-- RESUME (R117). -/
def execResume (p : Path) (s : State) : Host.Outcome State Fault Refusal :=
  access p O.IN_CONTROL s (fun s => wrInControl (s.get O.IN_CONTROL % 4 + 4) s)

/-- SKIP (R117). -/
def execSkip (p : Path) (s : State) : Host.Outcome State Fault Refusal :=
  access p O.IN_CONTROL s (fun s => wrInControl (s.get O.IN_CONTROL % 4 + 8) s)

/-- First byte from `a` on that a waybill of its kind does not use and that is not 0 (DEDUCED, log 27). -/
def strayByte (s : State) (a : Nat) : Option Nat :=
  (List.range (112 - a)).findSome? (fun i => if slotField s (a + i) 1 = 0 then none else some (a + i))

/-- WAYBILL_SLOT_READ (R107, R109), while the PCIe link is up (R55) and no thermal pause holds the read (R136): the slot at IN_HEAD as the host memory holds it, bytes 0 to 111. -/
def execWaybillSlotRead (bytes : List Byte) (s : State) : Host.Outcome State Fault Refusal :=
  if s.intake.stage ≠ .idle ∨ !s.evs.linkUp ∨ pauseHeld s ∨ !s.bit O.IN_STATUS B.IN_STATUS_RUNNING ∨ s.bit O.IN_STATUS B.IN_STATUS_EMPTY then .next s
  else
    let s := (s.setIntake { s.intake with slot := bytes.take 112, tries := 0 }).inBytes 128
    if !bitOf (slotField s 0 4) 31 then .next (s.hit O.IN_EVENTS B.IN_EVENTS_OWN_ERROR 547).halt
    else
      let s := s.setStage .taken
      let k := slotKind s
      if k = 0 ∨ 6 < k then .next (s.refuse 1 k)
      else if slotField s 3 1 % 64 ≠ 0 then .next (s.refuse 3 3)
      else
        let used := [24, 26, 12, 14, 8, 8].getD (k - 1) 8
        match strayByte s used with
        | some b => .next (s.refuse 3 b)
        | none => .next s

/-- SLOT_FETCH_ERROR (R118): a failed read of a slot is never completed; the queue halts. -/
def execSlotFetchError (addr cause : Nat) (s : State) : Host.Outcome State Fault Refusal :=
  if s.intake.stage ≠ .idle ∨ !s.evs.linkUp ∨ !s.bit O.IN_STATUS B.IN_STATUS_RUNNING ∨ s.bit O.IN_STATUS B.IN_STATUS_EMPTY then .next s
  else
    let s := (s.set O.IN_ERR_ADDR_LO addr).set O.IN_ERR_ADDR_HI (addr / 2 ^ 32)
    .next ((s.hit O.IN_EVENTS B.IN_EVENTS_FETCH_ERROR 547).emit (.note "slot read failed" [cause])).halt

/-- The read that the waybill in progress needs is issued while the PCIe link is up, and not during a thermal pause (R55, R118,
R136). -/
def State.issue (s : State) : State :=
  if s.intake.ask ∧ s.evs.linkUp ∧ !pauseHeld s then
    (s.setIntake { s.intake with ask := false }).emit (.hostRead (slotField s 8 8) (slotField s 16 4))
  else s

/-- Act on the waybill taken when it is of kind `k`, while the PCIe link is up (R55) (DEDUCED, log 104). -/
def onKind (s : State) (k : Nat) (f : State → State) : Host.Outcome State Fault Refusal :=
  if s.evs.linkUp ∧ s.intake.stage = .taken ∧ s.intake.refused = none ∧ slotKind s = k then .next (f s) else .next s

/-! ### JOB_OPEN (R110) -/

/-- Ask for the job table, or wait for a job slot. -/
def State.openJob (s : State) : State :=
  match slots.find? (fun j => decide (jobState s j = 0)) with
  | none => (s.setB O.IN_STATUS B.IN_STATUS_WAIT_JOB true).setStage .waitJob
  | some j =>
    let s := s.setB O.IN_STATUS B.IN_STATUS_WAIT_JOB false
    (s.setIntake { s.intake with jobSlot := j, stage := .tableRead, tries := 0, ask := true }).issue

/-- JOB_OPEN (R110); where the read of its job table has still to be issued, that is done. -/
def execJobOpen (s : State) : Host.Outcome State Fault Refusal :=
  if s.intake.stage = .tableRead then .next s.issue
  else onKind s 1 (fun s =>
    let planes := slotField s 22 1
    let stripes := slotField s 23 1
    if slotField s 8 8 % 16 ≠ 0 then s.refuse 3 8
    else if slotField s 20 2 / 8 ≠ 0 then s.refuse 3 20
    else if planes < 1 ∨ 16 < planes then s.refuse 3 22
    else if stripes < 1 ∨ 96 < stripes then s.refuse 3 23
    else if !s.bit O.BS_STATUS B.BS_STATUS_ONLINE then s.refuse 9 0
    else if slotJob s = 0 ∨ (slotOf s (slotJob s)).isSome then s.refuse 2 (slotJob s)
    else if slotField s 16 4 ≠ 16 + 16 * planes + 8 * stripes then s.refuse 8 0
    else s.openJob)

/-- WAIT_JOB_END (R110): a job slot has become FREE. -/
def execWaitJobEnd (s : State) : Host.Outcome State Fault Refusal :=
  if s.evs.linkUp ∧ s.intake.stage = .waitJob then .next s.openJob else .next s

/-- Planes and stripes of a job table (Table 5.5). -/
def tablePlanes (b : List Byte) (n : Nat) : List Plane :=
  (List.range n).map (fun p =>
    let f := fun a k => ofBytesLE ((b.drop (16 + 16 * p + a)).take k)
    ⟨f 0 1 % 16, bitOf (f 0 1) 4, f 1 1, f 4 4⟩)
def tableStripes (b : List Byte) (n m : Nat) : List Stripe :=
  (List.range m).map (fun i =>
    let f := fun a k => ofBytesLE ((b.drop (16 + 16 * n + 8 * i + a)).take k)
    ⟨f 0 1, f 1 1, f 2 2, f 4 4⟩)

/-- Offset in the job table of the first thing wrong with it (R110), none when it is valid. -/
def tableError (b : List Byte) (id n m : Nat) : Option Nat :=
  let ps := tablePlanes b n
  let ss := tableStripes b n m
  let so := fun i => 16 + 16 * n + 8 * i
  if ofBytesLE (b.take 2) ≠ id then some 0
  else if ofBytesLE ((b.drop 2).take 1) ≠ n then some 2
  else if ofBytesLE ((b.drop 3).take 1) ≠ m then some 3
  else
    let badPlane := ps.zipIdx.findSome? (fun q =>
      if 4 < q.1.code ∨ (q.1.res ∧ q.1.code ≠ 3 ∧ q.1.code ≠ 4) then some (16 + 16 * q.2)
      else if q.1.width < 1 ∨ 2097152 < q.1.width then some (20 + 16 * q.2)
      else none)
    match badPlane with
    | some o => some o
    | none =>
      let badStripe := ss.zipIdx.findSome? (fun q =>
        if n ≤ q.1.plane then some (so q.2)
        else if 95 < q.1.port ∨ ((ss.take q.2).any (fun x => decide (x.port = q.1.port))) then some (so q.2 + 1)
        else if q.1.cols < 1 ∨ 16384 < q.1.cols then some (so q.2 + 2)
        else if (ps.getD q.1.plane {}).width < q.1.first + q.1.cols then some (so q.2 + 4)
        else none)
      match badStripe with
      | some o => some o
      | none => (List.range n).findSome? (fun p =>
          if ss.any (fun x => decide (x.plane = p)) then none else some (16 + 16 * p))

/-- JOB_TABLE_READ_DONE (R105, R110): the table as read from the host (DESIGN CHOICE, log 24). -/
def execJobTableReadDone (bytes : List Byte) (s : State) : Host.Outcome State Fault Refusal :=
  if s.intake.stage ≠ .tableRead ∨ s.intake.ask ∨ !s.evs.linkUp ∨ s.intake.refused ≠ none then .next s
  else
    let j := s.intake.jobSlot
    let n := slotField s 22 1
    let m := slotField s 23 1
    let s := s.inBytes (slotField s 16 4)
    match tableError bytes (slotJob s) n m with
    | some o => .next (s.refuse 8 o)
    | none =>
      let e := s.intake.eligNext
      let s := s.setIntake { s.intake with eligNext := e + 1 }
      let s := s.setJob j { planes := tablePlanes bytes n, stripes := tableStripes bytes n m, elig := e }
      let s := (s.setJobState j 1 true).set (O.JOB_JOB_ID j) (slotJob s)
      let s := s.set (O.JOB_FLAGS j) (slotField s 20 2 % 8)
      .next (s.complete 0 0)

/-- INTAKE_READ_FAIL (R118): a read of a job table or of band data fails; two retries, then code 5. -/
def execIntakeReadFail (addr cause : Nat) (s : State) : Host.Outcome State Fault Refusal :=
  if (s.intake.stage ≠ .tableRead ∧ s.intake.stage ≠ .copying) ∨ s.intake.ask ∨ !s.evs.linkUp ∨ s.intake.refused ≠ none then .next s
  else if s.intake.tries < 2 then
    let s := s.setIntake { s.intake with tries := s.intake.tries + 1, ask := true }
    .next ((s.inc O.IN_RETRIES).hit O.IN_EVENTS B.IN_EVENTS_READ_RETRY 548).issue
  else
    let s := (s.set O.IN_ERR_ADDR_LO addr).set O.IN_ERR_ADDR_HI (addr / 2 ^ 32)
    let s := if s.intake.stage = .copying then s.freePages s.intake.pages else s
    .next (s.refuse 5 cause)

/-! ### BAND (R112 to R115, R130) -/

/-- Pages that a block of `len` bytes and the list of its pages take (R126). -/
def pagesFor (len : Nat) : Nat :=
  let p := (len + pageBytes - 1) / pageBytes
  if len + listBytes p ≤ p * pageBytes then p else p + 1

/-- Allocate the band's pages and start the copy, or wait for space (R115). -/
def State.startCopy (s : State) : State :=
  let need := pagesFor (slotField s 16 4)
  if areaPages s - keptPages s < need then
    (s.setB O.IN_STATUS B.IN_STATUS_WAIT_SPACE false).refuse 6 (min 65535 (need / 16))
  else if s.get O.BS_FREE_PAGES < need then (s.setB O.IN_STATUS B.IN_STATUS_WAIT_SPACE true).setStage .waitSpace
  else
    let pages := freePagesFrom s.intake.used (areaPages s) 0 need
    let s := s.setB O.IN_STATUS B.IN_STATUS_WAIT_SPACE false
    let s := s.setIntake { s.intake with stage := .copying, tries := 0, ask := true, pages := pages, used := pages.foldl setIns s.intake.used }
    s.pagesSync.issue

/-- BAND (R112, R115, R116); where the read of its block has still to be issued, that is done. -/
def execBand (s : State) : Host.Outcome State Fault Refusal :=
  if s.intake.stage = .copying then .next s.issue
  else onKind s 2 (fun s =>
    let len := slotField s 16 4
    let lines := slotField s 24 2
    if slotField s 8 8 % 64 ≠ 0 then s.refuse 3 8
    else if len % 64 ≠ 0 ∨ len < 64 ∨ 268435456 < len then s.refuse 3 16
    else if lines < 1 ∨ 4096 < lines then s.refuse 3 24
    else match slotOf s (slotJob s) with
      | none => if !s.bit O.BS_STATUS B.BS_STATUS_ONLINE then s.refuse 9 0 else s.refuse 2 (slotJob s)
      | some j =>
        if !s.bit O.BS_STATUS B.BS_STATUS_ONLINE ∨ jobClosed s j ∨ (s.job j).aborted then s.refuse 9 (jobState s j)
        else if slotField s 20 4 ≠ s.get (O.JOB_BANDS j) then s.refuse 4 (s.get (O.JOB_BANDS j))
        else (s.setIntake { s.intake with jobSlot := j }).startCopy)

/-- WAIT_SPACE_END (R115): pages have become free. -/
def execWaitSpaceEnd (s : State) : Host.Outcome State Fault Refusal :=
  if s.evs.linkUp ∧ s.intake.stage = .waitSpace ∧ s.intake.refused = none then .next s.startCopy else .next s

/-- A band directory entry (Table 5.7). -/
def dirEntry (b : List Byte) (p : Nat) : BandEnt :=
  let v := ofBytesLE ((b.drop (8 * p)).take 8)
  ⟨bitOf v 63, v / 2 ^ 32 % 2 ^ 31, v % 2 ^ 32⟩

/-- Whether plane `p` of a band block passes its checks (R112, R113, R130). -/
def planeOk (b : List Byte) (len lines dir : Nat) (pl : Plane) (e : BandEnt) : Bool :=
  let stored := if pl.res then (lines + 1) / 2 else lines
  let w := codeBits pl.code
  let g := fun a k => ofBytesLE ((b.drop (e.offset + a)).take k)
  if e.size = 0 then true
  else if e.offset % 64 ≠ 0 ∨ e.offset < dir ∨ len < e.offset + e.size then false
  else if !e.tiled then decide (e.size = (pl.width * w + 511) / 512 * 64 * stored)
  else
    let c := (pl.width + 255) / 256
    let t := (stored + 15) / 16
    let idx := fun k => g (16 + 4 * k) 4
    decide (g 0 2 = 0x5456 ∧ g 2 1 = 1 ∧ g 3 1 = pl.code + 16 * pl.res.toNat ∧ g 4 4 = pl.width ∧ g 8 2 = stored
        ∧ g 10 2 = c ∧ g 12 2 = t ∧ g 14 2 = 0)
      && decide (idx 0 = 20 + 4 * c * t ∧ idx (c * t) = e.size)
      && (List.range (c * t)).all (fun k => decide (idx k + 20 ≤ idx (k + 1) ∧ idx (k + 1) ≤ idx k + 16384))

/-- Store bytes in pages, in order (R126). -/
def State.storeBlock (s : State) : List Nat → List Byte → State
  | [], _ => s
  | p :: ps, b => (s.mputs (bandAddr (p * pageBytes)) (b.take pageBytes)).storeBlock ps (b.drop pageBytes)

/-- A job that has been switched to goes on after the last band of the old job before the switch (R123, R231): its lines move up
by those of a band committed since (DEDUCED, log 103). -/
def State.basesUp (s : State) (o b lines : Nat) : State :=
  match (s.job o).switchAt with
  | some w =>
    if b ≤ w.1 ∧ !shuttle s then
      s.setJob w.2 { s.job w.2 with bases := (s.job w.2).bases.map (fun p => (p.1 + lines, p.2)) }
    else s
  | none => s

/-- A block is stored in its pages, behind the list of them, and becomes the last band of its job, to be served by every lane
the job has (R114, R126). -/
def State.addBand (s : State) (j : Nat) (b : List Byte) (lines : Nat) (ents : List BandEnt) : State :=
  let pages := s.intake.pages
  let x := s.job j
  let list := pages.flatMap (bytesLE 4)
  let s := s.storeBlock pages (list ++ List.replicate (listBytes pages.length - list.length) 0 ++ b)
  let left := (List.range x.stripes.length).filter (fun i => x.srv = [] || decide ((tget (0xFF, 0) x.srv i).1 ≠ 0xFF))
  let s := s.setJob j { x with bands := x.bands ++ [⟨x.bands.length, lines, pages, ents, left, false⟩] }
  let s := s.basesUp j x.bands.length lines
  (s.inc (O.JOB_BANDS j)).addC (O.JOB_PAGES j) pages.length

/-- BAND_COPY_DONE (R114, R130): the block as read from the host (DESIGN CHOICE, log 24). -/
def execBandCopyDone (bytes : List Byte) (s : State) : Host.Outcome State Fault Refusal :=
  if s.intake.stage ≠ .copying ∨ s.intake.ask ∨ !s.evs.linkUp ∨ s.intake.refused ≠ none then .next s
  else
    let j := s.intake.jobSlot
    let len := slotField s 16 4
    let lines := slotField s 24 2
    let x := s.job j
    let b := bytes.take len
    let dir := (8 * x.planes.length + 63) / 64 * 64
    let s := s.inBytes len
    if jobId s j ≠ slotJob s ∨ jobState s j = 0 ∨ x.aborted then
      .next ((s.freePages s.intake.pages).refuse 2 (slotJob s))
    else
      let ents := (List.range x.planes.length).map (dirEntry b)
      match (x.planes.zip ents).zipIdx.find? (fun q => !planeOk b len lines dir q.1.1 q.1.2) with
      | some q => .next ((s.freePages s.intake.pages).refuse 7 q.2)
      | none =>
        let s := (s.addBand j b lines ents).complete 0 0
        .next (s.forAll (jobPorts s j) (fun s n => s.ttSync n))

/-! ### JOB_CLOSE, REPEAT, RELEASE, NOP (R116, R120) -/

/-- JOB_CLOSE (R116). -/
def execJobClose (s : State) : Host.Outcome State Fault Refusal :=
  onKind s 3 (fun s =>
    match slotOf s (slotJob s) with
    | none => s.refuse 2 (slotJob s)
    | some j =>
      let bands := s.get (O.JOB_BANDS j)
      if jobClosed s j ∨ (s.job j).aborted then s.refuse 9 (jobState s j)
      else if slotField s 8 4 + 1 ≠ bands then s.refuse 4 ((bands + 65535) % 65536)
      else ((((s.setJobFlag j 8 true).complete 0 0).lanesSync j).jobCheck j))

/-- REPEAT (R116, R120). -/
def execRepeatJob (s : State) : Host.Outcome State Fault Refusal :=
  onKind s 4 (fun s =>
    match slotOf s (slotJob s) with
    | none => s.refuse 2 (slotJob s)
    | some j =>
      if !jobKeep s j ∨ !jobClosed s j ∨ jobReleased s j then s.refuse 9 (jobState s j)
      else
        let count := slotField s 8 4
        let s := (s.set (O.JOB_REPEAT_LEFT j) count).setJobFlag j 10 (decide (count = 0))
        let s := s.setJob j { s.job j with gap := slotField s 12 2 }
        let s :=
          if jobState s j = 2 then s.lanesSync j
          else if jobState s j = 3 then s.setJob j { s.job j with repSet := true }
          else if jobState s j = 4 ∧ !jobEligible s j then
            let e := s.intake.eligNext
            let s := s.setIntake { s.intake with eligNext := e + 1 }
            (s.setJob j { s.job j with elig := e }).setJobState j 4 true
          else s
        s.complete 0 0)

/-- RELEASE (R116). -/
def execRelease (s : State) : Host.Outcome State Fault Refusal :=
  onKind s 6 (fun s =>
    match slotOf s (slotJob s) with
    | none => s.refuse 2 (slotJob s)
    | some j =>
      if !jobKeep s j ∨ jobState s j = 1 then s.refuse 9 (jobState s j)
      else if jobReleased s j then s.complete 0 0
      else
        let s := (s.setJobFlag j 11 true).complete 0 0
        if jobState s j = 4 then s.jobFree j else (s.lanesSync j).jobCheck j)

/-- NOP (Table 5.3): a JOB_ID other than 0 is out of range (DEDUCED, log 27). -/
def execNop (s : State) : Host.Outcome State Fault Refusal :=
  onKind s 5 (fun s => if slotJob s ≠ 0 then s.refuse 3 0 else s.complete 0 0)

/-! ### IN_JOB_ABORT (R121) -/

/-- A write of IN_JOB_ABORT (R121, Table 5.9). -/
def wrJobAbort (v : Nat) (s : State) : WRes :=
  match slotOf s v with
  | none => .no s abRange
  | some j =>
    let s := s.setJob j { s.job j with aborted := true, repSet := false }
    let s := (s.set (O.JOB_REPEAT_LEFT j) 0).setJobFlag j 10 false
    let s := if jobState s j = 2 then s.leaveRunning j else s.setJobState j 3 false
    let s := (s.abortSweep j).forAll (jobPorts s j) (fun s n => s.ttSync n)
    .ok (s.jobCheck j)

/-- IN_JOB_ABORT (R121). -/
def execInJobAbort (p : Path) (v : Nat) (s : State) : Host.Outcome State Fault Refusal :=
  access p O.IN_JOB_ABORT s (wrJobAbort (v % 65536))

/-! ### Thermal pauses (R136) -/

/-- The die temperature counts as at or above TH_THROTTLE: 0x8000 does so once a valid reading has been taken. -/
def dieHot (s : State) : Bool :=
  let t := s.get O.SB_DIE_TEMP
  if t = 0x8000 then s.bit O.TH_STATUS 2 else decide (s.getI O.TH_THROTTLE ≤ s.getI O.SB_DIE_TEMP)
/-- It stands at or below TH_THROTTLE − 3 °C. -/
def dieCool (s : State) : Bool :=
  decide (s.get O.SB_DIE_TEMP ≠ 0x8000 ∧ s.getI O.SB_DIE_TEMP ≤ s.getI O.TH_THROTTLE - 48)

/-- The die has come to another side of TH_THROTTLE: a new IN_PAUSE_STEP begins (R136). -/
def State.pauseSync (s : State) : State :=
  let d := if dieHot s then 1 else if dieCool s then 2 else 0
  if d = s.intake.pauseDir then s else s.setIntake { s.intake with pauseDir := d, pauseAt := s.up }

/-- PAUSE_STEP (R136): one IN_PAUSE_STEP during which the die stayed on its side of TH_THROTTLE is over. -/
def execPauseStep (t : Nat) (s : State) : Host.Outcome State Fault Refusal :=
  let s := (s.adv t).pauseSync
  let k := s.intake
  let stop := k.pauseAt + s.get O.IN_PAUSE_STEP * fuMs
  if k.pauseDir = 0 ∨ s.up < stop then .next s
  else
    let s := s.setIntake { k with pauseAt := stop }
    let l := s.fld O.IN_STATUS B.IN_STATUS_PAUSE_LEVEL
    let l' := if k.pauseDir = 1 then min 3 (l + 1) else l - 1
    if l' = l then .next s
    else .next ((s.setF O.IN_STATUS B.IN_STATUS_PAUSE_LEVEL l').hit O.IN_EVENTS B.IN_EVENTS_PAUSE_CHANGED 549)

/-! ### Channel training (R125) -/

/-- BS_TRAIN_DONE (R125): the training that the entry to CONFIGURE began has ended; `channels` are those that trained. -/
def execBsTrainDone (ok : Bool) (channels : Nat) (s : State) : Host.Outcome State Fault Refusal :=
  if !s.intake.training then .next s
  else
    let want := if s.bit O.BS_CONFIG B.BS_CONFIG_CHANNELS then 3 else 15
    let s := s.setIntake { s.intake with training := false }
    let s := s.setF O.BS_STATUS B.BS_STATUS_CH_OK (andW channels want)
    if ok then
      let s := (s.setB O.BS_STATUS B.BS_STATUS_ONLINE true).setB O.BS_STATUS B.BS_STATUS_TRAIN_FAIL false
      .next (s.set O.BS_CAPACITY (configMib s)).pagesSync
    else
      let s := (s.setB O.BS_STATUS B.BS_STATUS_ONLINE false).setB O.BS_STATUS B.BS_STATUS_TRAIN_FAIL true
      .next (s.hit O.BS_EVENTS B.BS_EVENTS_TRAIN_FAIL 551 1)

end Sys2Proof.Machine
end

