-- ==== Sys2Proof/Machine/Firing.lean ====
section
/-! DEFINITION. Firing: power groups and energy regulation (R282 to R291), the latch (R280, R281), rotations (R217,
R269, R296) and warming pulses (R292 to R294). -/
namespace Sys2Proof.Machine

/-! ### Power groups (R282 to R291) -/

/-- A firing inhibit of the group from outside (R474). -/
def groupInhibited (s : State) (g : Nat) : Bool :=
  s.bit O.MD_INHIBIT_STATUS B.MD_INHIBIT_STATUS_FIRE || clockInhibit s || s.bit O.SU_STATUS (24 + g)

/-- k_q within the clamp (R285). -/
def kIn (k : Nat) : Bool := decide (13108 ≤ k ∧ k ≤ 21299)

/-- The mode lets groups power their heads (Table 10.6). -/
def firingMode (s : State) : Bool := decide (s.mode = mdReady ∨ s.mode = mdPrint ∨ s.mode = mdService)

/-- A group leaves ON or RAMP (R291): its ports' stripes pass on, and HPENg falls once FI is quiet
(DEDUCED, log 32). -/
def State.pgLeave (s : State) (g st : Nat) : State :=
  let was := groupState s g
  let s := s.setF (O.HP_PG_STATUS g) B.HP_PG_STATUS_STATE st
  let s := s.setPg g { s.pg g with falling := true }
  let s := s.senseWithdraw (fun r => decide (r.what = .group ∧ r.inst = g))
  if was = 2 then s.forAll (groupPorts g) (fun s n => ((s.mtDrop n).loseStripes n 3)) else s

/-- The transitions of Table 10.6 that follow from mode, ENABLE and inhibits, and INHIBITED (R290). -/
def State.pgSync (s : State) (g : Nat) : State :=
  let may := firingMode s && s.bit (O.HP_PG_CONTROL g) B.HP_PG_CONTROL_ENABLE && !groupInhibited s g
  let st := groupState s g
  let s :=
    if st = 0 ∧ may then
      let s := s.rhoSync g
      let s := s.rhoTo g (s.get (O.HP_PG_RHO_TARGET g))
      let s := s.setF (O.HP_PG_STATUS g) B.HP_PG_STATUS_STATE 1
      let s := s.setPg g { s.pg g with good := 0, seenIn := false, rampAt := s.up, falling := false, dueAt := none }
      s.setB (O.HP_PG_STATUS g) B.HP_PG_STATUS_HPEN true
    else if (st = 1 ∨ st = 2) ∧ !may then s.pgLeave g 0
    else s
  s.setB (O.HP_PG_STATUS g) B.HP_PG_STATUS_INHIBITED (groupState s g ≠ 2)

/-- Every group takes over the mode and the inhibits. -/
def State.pgSyncAll (s : State) : State := s.forAll groups (fun s g => s.pgSync g)

/-- A group enters FAULT (Table 10.6). -/
def State.pgFault (s : State) (g cause : Nat) : State :=
  let was := groupState s g
  let s := s.pgLeave g 3
  let s := s.setB (O.HP_PG_STATUS g) B.HP_PG_STATUS_FAULT_CAUSE (decide (cause = 1))
  let s := if was = 1 then (s.setB (O.HP_PG_STATUS g) B.HP_PG_STATUS_HPEN false).setPg g { s.pg g with falling := false } else s
  let s := s.setB (O.HP_PG_STATUS g) B.HP_PG_STATUS_INHIBITED true
  s.hit (O.HP_PG_EVENTS g) B.HP_PG_EVENTS_FAULT (512 + g) 1

/-- Group over-voltage (R485): two conversions in a row above SU_PG_VHIGH. -/
def State.pgOver (s : State) (g v : Nat) : State :=
  let lim := s.get (O.SU_PG_VHIGH g)
  let n := if lim ≠ 0 ∧ lim < v then (s.pg g).beyond + 1 else 0
  let s := s.setPg g { s.pg g with beyond := n }
  if 2 ≤ n ∧ !s.bit O.SU_STATUS (24 + g) then
    let s := (s.setB O.SU_STATUS (24 + g) true).hit O.SU_EVENTS B.SU_EVENTS_PG_OV 571 1
    (s.journal 6 (jdata [(0, g), (2, min v 32767)])).pgSync g
  else s

/-- A valid conversion of a group's voltage, in 1/16 mV at the input (R282, R284 to R287). -/
def State.pgResult (s : State) (g u : Nat) : State :=
  if groupState s g ≠ 1 ∧ groupState s g ≠ 2 then s
  else
    let v := min 262143 (divRound ((u * s.get (O.HP_PG_GAIN g) : Nat) : Int) (16 * 65536)).toNat
    let s := s.set (O.HP_PG_VOLTAGE g) (min v 32767)
    let s := if (v : Int) < s.getI (O.HP_PG_V_MIN g) then s.set (O.HP_PG_V_MIN g) v else s
    let s := s.rhoSync g
    let slew := s.get (O.HP_PG_RHO_SLEW g)
    let rho := s.get (O.HP_PG_RHO g)
    let t := s.get (O.HP_PG_RHO_TARGET g)
    let rho := if slew = 0 then t else if rho < t then min t (rho + slew) else max t (rho - slew)
    let s := s.set (O.HP_PG_RHO g) rho
    let k := kOf rho (s.get (O.HP_PG_V_NOM g)) v
    let s := (s.setPg g { s.pg g with v := v, convAt := some s.pt, staleAt := none }).pgK g k
    let s := s.setB (O.HP_PG_STATUS g) B.HP_PG_STATUS_V_STALE false
    let p := s.pg g
    let clamped := s.bit (O.HP_PG_STATUS g) B.HP_PG_STATUS_CLAMP
    let s :=
      if kIn k then
        let s := s.setPg g { p with good := p.good + 1, seenIn := true, clampAt := none }
        let s := if clamped then
            (s.setB (O.HP_PG_STATUS g) B.HP_PG_STATUS_CLAMP false).setB (O.HP_PG_EVENTS g) B.HP_PG_EVENTS_CLAMP_EXIT true
          else s
        if groupState s g = 1 ∧ 16 ≤ p.good + 1 then
          let s := (s.setF (O.HP_PG_STATUS g) B.HP_PG_STATUS_STATE 2).setB (O.HP_PG_STATUS g) B.HP_PG_STATUS_INHIBITED false
          s.hit (O.HP_PG_EVENTS g) B.HP_PG_EVENTS_ON (512 + g)
        else s
      else
        let s := s.setPg g { p with good := 0 }
        if p.seenIn ∧ !clamped then
          let s := s.setPg g { s.pg g with clampAt := some s.up }
          let s := (s.setB (O.HP_PG_STATUS g) B.HP_PG_STATUS_CLAMP true).inc (O.HP_PG_CLAMPS g)
          s.hit (O.HP_PG_EVENTS g) B.HP_PG_EVENTS_CLAMP_ENTER (504 + g)
        else s
    s.pgOver g v

/-- PG_CONVERSION_DUE (R282): HP_PG_PERIOD FIRE ticks after the one before, or at once after the entry to RAMP; a request not yet
granted makes way for the new one. -/
def execPgConversionDue (g t : Nat) (s : State) : Host.Outcome State Fault Refusal :=
  let s := s.adv t
  let early : Bool := match (s.pg g).dueAt with
    | some a => decide (s.up < a + s.get (O.HP_PG_PERIOD g) * 64)
    | none => false
  if (groupState s g = 1 ∨ groupState s g = 2) ∧ !early then
    let s := s.setPg g { s.pg g with dueAt := some s.up }
    let s := s.senseWithdraw (fun r => decide (r.what = .group ∧ r.inst = g))
    .next (s.senseAsk { cls := 0, inst := g, what := .group, input := 0x60 + g, entered := senseCycle s })
  else .next s

/-- The newest valid conversion of a group is too old, or there is none (R287). -/
def voltageStale (s : State) (g : Nat) : Bool :=
  match (s.pg g).convAt with
  | none => true
  | some a => ptLt (a + s.get (O.HP_PG_V_AGE g) * fuUs) s.pt

/-- A group's voltage reading has become too old (R287). -/
def State.pgStale (s : State) (g : Nat) : State :=
  if (groupState s g = 1 ∨ groupState s g = 2) ∧ !s.bit (O.HP_PG_STATUS g) B.HP_PG_STATUS_V_STALE then
    (s.setB (O.HP_PG_STATUS g) B.HP_PG_STATUS_V_STALE true).setPg g { s.pg g with staleAt := some s.up }
  else s

/-- PG_V_STALE (R287): the group's status shows it. -/
def execPgVStale (g t : Nat) (s : State) : Host.Outcome State Fault Refusal :=
  let s := s.adv t
  if voltageStale s g then .next (s.pgStale g) else .next s

/-- HPEN_OFF (R291): HPENg falls 1 µs after the last FI falling edge of the group's ports. -/
def execHpenOff (g t : Nat) (s : State) : Host.Outcome State Fault Refusal :=
  let s := s.adv t
  let quiet := (groupPorts g).all (fun n => !s.bit (O.HP_FIRE_STATUS n) B.HP_FIRE_STATUS_ROTATING
    && fiQuiet s n fuUs)
  if (s.pg g).falling ∧ quiet then
    .next ((s.setB (O.HP_PG_STATUS g) B.HP_PG_STATUS_HPEN false).setPg g { s.pg g with falling := false })
  else .next s

/-- A write of HP_PG_CONTROL (R290, R291, Table 10.15). -/
def wrPgControl (g v : Nat) (s : State) : WRes :=
  let en := bitOf v B.HP_PG_CONTROL_ENABLE
  let inFault := decide (groupState s g = 3)
  if s.bit (O.HP_PG_CONTROL g) B.HP_PG_CONTROL_ENABLE ∧ !en ∧ (groupPorts g).any (armed s) then .no s abState
  else if bitOf v B.HP_PG_CONTROL_CLR_FAULT ∧ inFault ∧ s.mode = mdPrint then .no s abState
  else
    let s := s.setB (O.HP_PG_CONTROL g) B.HP_PG_CONTROL_ENABLE en
    let s := if bitOf v B.HP_PG_CONTROL_CLR_FAULT ∧ inFault then
        (s.setF (O.HP_PG_STATUS g) B.HP_PG_STATUS_STATE 0).setB (O.HP_PG_STATUS g) B.HP_PG_STATUS_FAULT_CAUSE false
      else s
    let s := if bitOf v B.HP_PG_CONTROL_CLR_STATS then ((s.set (O.HP_PG_V_MIN g) 32767).set (O.HP_PG_PEAK g) 0).setPg g { s.pg g with peaked := false } else s
    .ok (s.pgSync g)

/-! ### Pulse train commits (R277, R278) -/

/-- A write of HP_PT_COMMIT (R277, R279). -/
def wrPtCommit (n v : Nat) (s : State) : WRes :=
  let sh := shadowTrain s n
  let lv := liveTrain s n
  let c := trainCause s n sh
  if trainPending s n then .no s abState
  else if v ≠ 1 ∧ v ≠ 2 then .no s abRange
  else if c ≠ 0 then .no (s.set (O.HP_PT_RESULT n) c) abRange
  else if armed s n ∧ (sh.slot ≠ lv.slot ∨ sh.vnom ≠ lv.vnom ∨ s.get (O.TT_MIN_PERIOD n) < minPeriodOf s n sh) then
    .no (s.set (O.HP_PT_RESULT n) 5) abRange
  else
    let new := decide (sh.map ≠ lv.map ∨ sh.pulses ≠ lv.pulses)
    let s := (s.set (O.HP_PT_RESULT n) 1).setB (O.HP_PT_STATUS n) B.HP_PT_STATUS_PENDING true
    let s := s.setFire n { s.fire n with commit := v, mapNew := new }
    let s := if new ∧ linkUp s n then
        (s.setB (O.HP_PT_STATUS n) B.HP_PT_STATUS_MAP_WAIT true).cmdQueue n
          { op := 3, a0 := sh.map, a1 := sh.pulses + 256 * rcGroups s n, use := 3 }
      else s
    .ok (s.ptCheck n)

/-- HP_PT_COMMIT_LINE (R277): a write of 1. -/
def execHpPtCommitLine (p : Path) (n : Nat) (s : State) : Host.Outcome State Fault Refusal :=
  access p (O.HP_PT_COMMIT n) s (wrPtCommit n 1)

/-- HP_PT_COMMIT_BAND (R277): a write of 2. -/
def execHpPtCommitBand (p : Path) (n : Nat) (s : State) : Host.Outcome State Fault Refusal :=
  access p (O.HP_PT_COMMIT n) s (wrPtCommit n 2)

/-! ### The latch (R280, R281, R285 to R287) -/

/-- A regulated width (R285, R294). -/
def regulated (w k : Nat) : Nat := (w * k + 8192) / 16384

/-- Energy regulation at a latch (R283, R285 to R287): the widths of the rotation, and whether it is blanked. -/
def State.regulate (s : State) (n : Nat) : State × List Nat × Bool :=
  let g := groupOf n
  let t := liveTrain s n
  let w := t.width.take t.pulses
  let k := (s.pg g).k
  let s := s.set (O.HP_K_LAST n) (min k 65535)
  if voltageStale s g then
    let s := ((s.inc (O.HP_STALE_BLANKS n)).setB (O.HP_FIRE_EVENTS n) B.HP_FIRE_EVENTS_STALE_BLANK true).setB (O.HP_PG_EVENTS g) B.HP_PG_EVENTS_V_STALE true
    let s := if s.bit (O.HP_PG_STATUS g) B.HP_PG_STATUS_V_STALE then s
      else (s.setB (O.HP_PG_STATUS g) B.HP_PG_STATUS_V_STALE true).setPg g { s.pg g with staleAt := some s.up }
    (s.setB (O.HP_FIRE_STATUS n) B.HP_FIRE_STATUS_CLAMPED true, w, true)
  else if kIn k then
    (s.setB (O.HP_FIRE_STATUS n) B.HP_FIRE_STATUS_CLAMPED false, w.map (fun x => regulated x k), false)
  else
    let s := (s.inc (O.HP_CLAMP_BLANKS n)).setB (O.HP_FIRE_EVENTS n) B.HP_FIRE_EVENTS_CLAMP_BLANK true
    (s.setB (O.HP_FIRE_STATUS n) B.HP_FIRE_STATUS_CLAMPED true, w, true)

/-- A commit applies at a latch: with value 1 at any, with value 2 at the first line of another band (R278). -/
def State.ptLatch (s : State) (n : Nat) (band : Option (Nat × Nat × Nat)) : State :=
  let f := s.fire n
  let s := if trainPending s n ∧ !mapWait s n ∧ (f.commit = 1 ∨ (f.commit = 2 ∧ band.isSome ∧ band ≠ f.band)) then s.ptApply n else s
  if band.isSome then s.setFire n { s.fire n with band := band } else s

/-- The flags of the next ROT_RESET (R248, R249, R278): BLANK, NEW_RUN, REVERSE, APPLY_MAP, NO_DRIVE. -/
def rotFlags (s : State) (n : Nat) (blank newRun rev noDrive : Bool) : Nat :=
  blank.toNat + 2 * newRun.toNat + 4 * rev.toNat + 8 * (s.fire n).applyMap.toNat + 16 * noDrive.toNat

/-- The ROT_RESET of LSEQ `q` leaves at uptime `u`: the head discards what R248 names of the frames that went astray. -/
def State.rotReset (s : State) (n q u flags : Nat) : State :=
  let s := s.setFire n { s.fire n with applyMap := false }
  let behind' := fun (p : Nat × Bool) =>
    let d := toSigned 16 (ofSigned 16 ((p.1 : Int) - q))
    decide (d < 0) && (p.2 || bitOf flags 1 || decide (d < -(rdMax s n : Int)))
  let s := s.setLink n { s.link n with astray := (s.link n).astray.filter (fun p => !behind' p) }
  s.rotOut n u (rotUnit q flags)

/-- LINE_LATCH (R280): the next line of the port is FIXED, and its latch has come. A line whose frame is missing, or still
carries a nozzle masked since, fires blank (R148, R263). -/
def execLineLatch (n t : Nat) (s : State) : Host.Outcome State Fault Refusal :=
  let s := s.advPort n t
  let c := s.sched n
  match c.lines with
  | [] => .next s
  | x :: rest =>
    if x.st ≠ .fixed ∨ x.latched ∨ ptLt (s.pt + 12800) (firstEdge s n x) ∨ !fiQuiet s n 0 then .next s
    else
      let l := x.line
      let s := s.ptLatch n (if l.gap then none else some (l.jid, l.rep, l.band))
      let r := s.regulate n
      let s := r.1
      let want := !l.blank && (decide (x.frame = 0 ∨ x.frame = 4) || x.stale && decide (x.frame ≤ 2))
      let noFrame := want || !l.blank && decide (x.frame = 3)
      let s := if want then s.headBlank n else s
      let flags := rotFlags s n (l.blank || noFrame || r.2.2) c.newRun l.rev r.2.2
      let s := s.rotReset n x.lseq s.up flags
      let x := { x with latched := true, widths := r.2.1, noDrive := r.2.2, flags := flags, frame := if noFrame then 3 else x.frame }
      .next (s.setSched n { s.sched n with lines := x :: rest, newRun := false })

/-! ### Rotations (R217, R269, R270) -/

/-- A rotation begins: it is counted, and FI carries its edges (R269). -/
def State.rotate (s : State) (n t : Nat) (widths : List Nat) : State :=
  let tr := liveTrain s n
  let s := (s.inc (O.HP_ROTATIONS n)).setB (O.HP_FIRE_STATUS n) B.HP_FIRE_STATUS_ROTATING true
  let s := s.setLink n { s.link n with rots := (s.link n).rots + 1 }
  s.drive n t (rcGroups s n) tr.slot (tr.start.take tr.pulses) widths

/-- A line fires: the counts of R219 and R220. -/
def State.countFired (s : State) (n : Nat) : State :=
  let c := (s.sched n).counted false
  let c := { c with sinceSkip := c.sinceSkip + 1 }
  let s := (s.setSched n c).inc (O.TT_LINES n)
  let s := if s.bit (O.TT_STATUS n) B.TT_STATUS_SKIP_SLOW ∧ s.get (O.TT_SKIP_RELEASE n) ≤ c.sinceSkip then
      ((s.setB (O.TT_STATUS n) B.TT_STATUS_SKIP_SLOW false).setB (O.TT_EVENTS n) B.TT_EVENTS_SKIP_SLOW_RELEASED true).slowOff 1 n
    else s
  if s.bit (O.TT_STATUS n) B.TT_STATUS_OVERSPEED ∧ 4096 ≤ c.sinceSkip then
    ((s.setB (O.TT_STATUS n) B.TT_STATUS_OVERSPEED false).setB (overspeedWord n) (n % 32) false).setB (O.TT_EVENTS n) B.TT_EVENTS_OVERSPEED_CLEARED true
  else s

/-! ### Warming pulses (R292 to R294) -/

/-- A conversion of the port's heater is under way. -/
def heaterBusy (s : State) (n : Nat) : Bool :=
  converters.any (fun c => match (s.sconv c).grant with
    | some g => decide (g.req.inst = n) && (decide (g.req.what = .heater) || decide (g.req.what = .deep))
    | none => false)

/-- A warming pulse of width `w` may fire now (R292, R293); a retired port fires nothing (R22, R266). -/
def warmMay (s : State) (n w : Nat) : Bool :=
  let fixed := (s.sched n).lines.filter (fun x => decide (x.st = .fixed))
  let prints := armed s n && decide (s.mode = mdPrint)
  groupOn s (groupOf n) && decide ((liveTrain s n).warm ≠ 0) && liveTrainValid s n && !retired s n
    && !s.bit (O.HP_FIRE_STATUS n) B.HP_FIRE_STATUS_ROTATING
    && !s.bit (O.MT_CLAIMED (n / 32)) (n % 32) && !heaterBusy s n && !thermalInhibited s n
    && !s.bit (O.HP_PG_STATUS (groupOf n)) B.HP_PG_STATUS_CLAMP && !s.bit (O.HP_PG_STATUS (groupOf n)) B.HP_PG_STATUS_V_STALE
    && fiQuiet s n 512
    && fixed.all (fun x => ptLe (s.pt + w + 10240) (firstEdge s n x))
    && (!prints || (s.bit (O.HP_FIRE_CONTROL n) B.HP_FIRE_CONTROL_WARM_BETWEEN
      && decide (w + 10240 ≤ s.get (O.TT_FIX_LEAD n) * 64)))

/-- Warming pulses of the port go on (Table 10.9) (DEDUCED, log 111). -/
def warmRuns (s : State) (n : Nat) : Bool :=
  decide (s.get (O.HP_WARM_PERIOD n) ≠ 0) && firingMode s && groupOn s (groupOf n) && !retired s n

/-- WARM_PULSE_DUE (R292, R294): HP_WARM_PERIOD FIRE ticks after the one before, the pulse fires, or is skipped and not made up;
readings that waited for it go on (R300). -/
def execWarmPulseDue (n t : Nat) (s : State) : Host.Outcome State Fault Refusal :=
  let s := s.advPort n t
  let per := s.get (O.HP_WARM_PERIOD n)
  let early : Bool := match (s.fire n).warmAt with
    | some a => decide (s.up < a + per * 64)
    | none => false
  if per = 0 ∨ !firingMode s ∨ early then .next s
  else
    let s := s.setFire n { s.fire n with warmAt := some s.up }
    let w := regulated (liveTrain s n).warm (s.pg (groupOf n)).k
    if warmMay s n w then
      let s := (s.inc (O.HP_WARM_PULSES n)).setB (O.HP_FIRE_STATUS n) B.HP_FIRE_STATUS_WARMING true
      .next (s.drive n (ofSigned 64 ((s.pt : Int) + (dline s n).trim)) 1 0 [0] [w]).senseGrant
    else .next ((s.inc (O.HP_WARM_SKIPPED n)).setB (O.HP_FIRE_STATUS n) B.HP_FIRE_STATUS_WARMING false).senseGrant

end Sys2Proof.Machine
end

