-- ==== Sys2Proof/Machine/Health.lean ====
section
/-! DEFINITION. Head health: thermal states and regulation (R308 to R312), roll call and the sense wire (R298 to R305),
rank and the health record (R313 to R318), and the end of a rotation with the reading in its gap (R300). -/
namespace Sys2Proof.Machine

/-! ### Thermal states (R309 to R312) -/

/-- HP_TEMP, none while it reads 0x8000. -/
def headTemp (s : State) (n : Nat) : Option Int :=
  if s.get (O.HP_TEMP n) = 0x8000 then none else some (s.getI (O.HP_TEMP n))

/-- Set HP_WARM_PERIOD; WARMING ends with a period of 0. -/
def State.warmPeriod (s : State) (n v : Nat) : State :=
  let s := s.set (O.HP_WARM_PERIOD n) v
  if v = 0 then s.setB (O.HP_FIRE_STATUS n) B.HP_FIRE_STATUS_WARMING false else s

/-- Temperature regulation (R312). -/
def State.regulateTemp (s : State) (n : Nat) : State :=
  if !s.bit (O.HP_HEALTH_CONTROL n) B.HP_HEALTH_CONTROL_REG_EN then s.setB (O.HP_HEALTH_STATUS n) B.HP_HEALTH_STATUS_REG_ACTIVE false
  else
    let per : Nat := match headTemp s n with
      | none => 0
      | some t =>
        let err := s.getI (O.HP_TEMP_TARGET n) - t
        let r := min (s.get (O.HP_TEMP_RATE_MAX n)) (Int.fdiv (err * s.get (O.HP_TEMP_KP n)) 16).toNat
        if err ≤ 0 ∨ r = 0 ∨ thermalInhibited s n then 0 else max 160 (400000 / r)
    (s.warmPeriod n per).setB (O.HP_HEALTH_STATUS n) B.HP_HEALTH_STATUS_REG_ACTIVE (decide (per ≠ 0))

/-- Enter a thermal state of Table 11.3. -/
def State.thermalTo (s : State) (n st : Nat) : State :=
  let s := s.setF (O.HP_HEALTH_STATUS n) B.HP_HEALTH_STATUS_THERMAL st
  let s := s.setB (O.HP_HEALTH_STATUS n) B.HP_HEALTH_STATUS_INHIBITED (decide (2 ≤ st))
  let s := match st with
    | 0 => (s.setB (O.HP_HEALTH_EVENTS n) B.HP_HEALTH_EVENTS_COOLED true).setB (O.HP_HEALTH_STATUS n) B.HP_HEALTH_STATUS_PAUSE false
    | 1 => s.hit (O.HP_HEALTH_EVENTS n) B.HP_HEALTH_EVENTS_WARM (evThermal n)
    | 2 => s.hit (O.HP_HEALTH_EVENTS n) B.HP_HEALTH_EVENTS_HOT (evThermal n) 1
    | _ => (s.set (O.HP_TEMP n) 0x8000).hit (O.HP_HEALTH_EVENTS n) B.HP_HEALTH_EVENTS_BROKEN (evThermal n) 1
  let s := if 2 ≤ st then (s.mtDrop n).loseStripes n 2 else s
  ((s.regulateTemp n).warnSync n).ttSync n

/-- Test the thermal state against HP_TEMP and HEAD_HOT (Table 11.3); an HP_TEMP of 0x8000 lies above every threshold (R5). -/
def State.thermalEval (s : State) (n : Nat) : State :=
  let warn := rcTempWarn s n
  let low := warn - s.get (O.HP_TEMP_HYST n)
  let t := headTemp s n
  let above := fun (lim : Int) => match t with
    | some x => decide (lim ≤ x)
    | none => true
  let below : Bool := match t with
    | some x => decide (x ≤ low)
    | none => false
  let hot := (s.health n).hot
  match thermalState s n with
  | 0 => if hot || above (rcTempMax s n) then s.thermalTo n 2 else if above warn then s.thermalTo n 1 else s
  | 1 => if hot || above (rcTempMax s n) then s.thermalTo n 2 else if below then s.thermalTo n 0 else s
  | 2 => if below && !hot then s.thermalTo n 0 else s
  | _ => s

/-- The temperature of a reading in 1/16 mV (R308); a slope of 0 gives none: the value is free
(DESIGN CHOICE, log 9 and 34). -/
def State.tempOf (s : State) (n u : Nat) : Int × State :=
  let slope := rcTempSlope s n
  let d := ((u : Int) - 16 * rcTempV25 s n) * 1000
  if slope = 0 then let r := s.draw; ((r.1 : Int), r.2)
  else (400 + (if slope < 0 then divRound (-d) (-slope).toNat else divRound d slope.toNat), s)

/-- A temperature is plausible (R309). -/
def plausible (s : State) (u : Nat) (t : Int) : Bool :=
  !nearVref s u && !nearZero u && decide (-640 ≤ t ∧ t ≤ 2400)

/-- A plausible reading becomes HP_TEMP (R310). -/
def State.tempTake (s : State) (n : Nat) (t : Int) : State :=
  let s := s.setHealth n { s.health n with badRow := 0, tempAt := some s.pt }
  let s := if s.get (O.HP_TEMP_HIGHEST n) = 0x8000 ∨ s.getI (O.HP_TEMP_HIGHEST n) < t then s.setI (O.HP_TEMP_HIGHEST n) t else s
  let s := s.setB (O.HP_HEALTH_STATUS n) B.HP_HEALTH_STATUS_TEMP_STALE false
  if thermalState s n = 3 then s else ((s.setI (O.HP_TEMP n) t).thermalEval n).regulateTemp n

/-- A temperature reading of port `n` in 1/16 mV (R308 to R310). -/
def State.tempResult (s : State) (n u : Nat) : State :=
  let r := s.tempOf n u
  let s := r.2
  if plausible s u r.1 then s.tempTake n r.1
  else
    let h := s.health n
    let s := (s.setHealth n { h with badRow := h.badRow + 1 }).inc (O.HP_TEMP_BAD n)
    if 3 ≤ h.badRow + 1 ∧ thermalState s n ≠ 3 then s.thermalTo n 3 else s

/-- A port's temperature has become too old. -/
def State.tempStale (s : State) (n : Nat) : State :=
  if !s.bit (O.HP_HEALTH_STATUS n) B.HP_HEALTH_STATUS_TEMP_STALE then
    let s := (s.setB (O.HP_HEALTH_STATUS n) B.HP_HEALTH_STATUS_TEMP_STALE true).set (O.HP_TEMP n) 0x8000
    (s.thermalEval n).regulateTemp n
  else s

/-! ### Which reading comes next (R298, R300, R303, R305, R308) -/

def snsFault (s : State) (n : Nat) : Bool := s.bit (O.HP_HEALTH_STATUS n) B.HP_HEALTH_STATUS_SNS_FAULT
def claimed (s : State) (n : Nat) : Bool := s.bit (O.MT_CLAIMED (n / 32)) (n % 32)

/-- Roll call of the port may run (R298, R360). -/
def rollRuns (s : State) (n : Nat) : Bool :=
  s.bit (O.HP_HEALTH_CONTROL n) B.HP_HEALTH_CONTROL_ROLL_EN && linkUp s n && !snsFault s n && !claimed s n
    && !s.bit (O.HP_HEALTH_STATUS n) B.HP_HEALTH_STATUS_DEEP_RUNNING
    && decide (s.mode = mdConfigure ∨ s.mode = mdReady ∨ s.mode = mdPrint ∨ s.mode = mdService)

/-- The port has a rotation RELEASED, FIXED or FIRING (R300). -/
def printing (s : State) (n : Nat) : Bool := (s.sched n).lines.any (fun x => decide (x.st ≠ .held))

/-- The reading roll call makes next: REF when due, a suspect again, else the next nozzle (R298, R303, R305)
(DEDUCED, log 91). -/
def rollNext (s : State) (n : Nat) : Sensed × Nat :=
  let h := s.health n
  if h.refDue then (.ref, 0) else (.heater, h.suspect.getD (s.get (O.HP_ROLL_NEXT n)))

/-- A request for a reading of the port's sense wire. -/
def headReq (s : State) (n cls : Nat) (what : Sensed) (nozzle : Nat) (slot : Option Nat := none) : Req :=
  { cls := cls, inst := n, what := what, input := n, entered := senseCycle s, nozzle := nozzle, epoch := s.get (O.HP_EPOCH n), slot := slot }

/-- A period in fu has not run yet since the uptime noted. -/
def tooEarly (s : State) (last : Option Nat) (period : Nat) : Bool :=
  match last with
  | some a => decide (s.up < a + period)
  | none => false

/-- ROLL_IDLE_DUE (R300): every HP_ROLL_IDLE_PERIOD, a port with no rotation takes one reading; it waits while a warming pulse falls
due within its window. -/
def execRollIdleDue (n t : Nat) (s : State) : Host.Outcome State Fault Refusal :=
  let s := s.advPort n t
  if tooEarly s (s.health n).idleAt (s.get (O.HP_ROLL_IDLE_PERIOD n) * 2560) then .next s
  else
    let s := s.setHealth n { s.health n with idleAt := some s.up }
    if !rollRuns s n ∨ printing s n ∨ asking s (fun r => ofPort n r && r.what != .temp) then .next s
    else
      let w := rollNext s n
      .next (s.senseAsk (headReq s n 7 w.1 w.2))

/-- A temperature reading that falls due takes the place of the gap's heater reading not granted yet (R308). -/
def State.gapTemp (s : State) (n : Nat) : State :=
  s.setBank { s.bank with reqs := s.bank.reqs.map (fun r =>
    if ofPort n r && decide (r.cls = 3) && !claimed s n then { r with what := .temp, nozzle := 0 } else r) }

/-- TEMP_READING_DUE (R308): every HP_TEMP_PERIOD, in a gap while the port prints, else as an idle reading. -/
def execTempReadingDue (n t : Nat) (s : State) : Host.Outcome State Fault Refusal :=
  let s := s.advPort n t
  if tooEarly s (s.health n).tempRdAt (s.get (O.HP_TEMP_PERIOD n) * fuUs) then .next s
  else
    let s := s.setHealth n { s.health n with tempRdAt := some s.up }
    if !linkUp s n ∨ snsFault s n then .next s
    else
      let s := s.setHealth n { s.health n with tempDue := true }
      if printing s n then .next (s.gapTemp n)
      else if asking s (fun r => ofPort n r && r.what == .temp) ∨ (List.range 8).any (fun k => (s.mt k).ports.contains n && decide (6 ≤ s.get (O.MT_KIND k))) then .next s
      else .next (s.senseAsk (headReq s n 4 .temp 0))

/-- The reading in the gap that begins at uptime `e`, after a rotation of a line with fire time `tj` (R299, R300, R337): the request
enters the contest SB_EARLY before the gap, its SENSE leaves at or after the gap's start once no frame is in progress, and its
conversion ends 100 ns before the next line can fire and before a warming pulse that falls due. A gap reading that still waits is
passed over. -/
def State.gapReading (s : State) (n tj e : Nat) : State :=
  let temp := linkUp s n && (s.health n).tempDue && !snsFault s n && !claimed s n
  let missed := (s.bank.reqs.filter (fun r => ofPort n r && decide (r.cls = 3))).length
  let s := (s.senseWithdraw (ofPort n)).addC (O.HP_ROLL_MISSED n) missed
  if !temp && !rollRuns s n then s
  else
    let last := upAtPress s (tj + s.get (O.TT_MIN_PERIOD n))
    let need := fuMargin + headConv s + fuSettle + fuUnit
    if last < max (laneFree s n) (unitAt s n e) + need ∨ warmSoon s n e then s.inc (O.HP_ROLL_MISSED n)
    else
      let w := if temp then (Sensed.temp, 0) else rollNext s n
      let r := headReq s n 3 w.1 w.2
      s.senseAsk { r with entered := e / 400 - s.get O.SB_EARLY, gapAt := e, deadline := some (last - need) }

/-! ### The start and the end of a rotation (R217, R269, R300) -/

/-- ROTATION_START (R217): the latched line's first group slot fires, and the reading of the gap after it is asked for (R300, R337). -/
def execRotationStart (n t : Nat) (s : State) : Host.Outcome State Fault Refusal :=
  let s := s.advPort n t
  let c := s.sched n
  match c.lines with
  | [] => .next s
  | x :: rest =>
    let at' := firstEdge s n x
    if x.st ≠ .fixed ∨ !x.latched ∨ ptLt s.pt at' ∨ !groupOn s (groupOf n) then .next s
    else
      let s := s.setSched n { c with lines := { x with st := .firing } :: rest }
      let s := s.rotate n at' x.widths
      let s := ((s.setMark n x.line.rev x.line.key x.line.num).dlSlew n).countFired n
      .next ((s.gapReading n at' (upAtPress s ((s.fire n).endAt.getD s.pt))).ttSync n)

/-- A rotation's last pulse has fallen; the line is DONE (R269). -/
def State.rotationEnd (s : State) (n : Nat) : State :=
  let f := s.fire n
  if !s.bit (O.HP_FIRE_STATUS n) B.HP_FIRE_STATUS_ROTATING ∨ !fiQuiet s n 0 then s
  else
    let s := s.setB (O.HP_FIRE_STATUS n) B.HP_FIRE_STATUS_ROTATING false
    if f.spit.isSome then s.setFire n { f with spit := none }
    else
      let c := s.sched n
      match c.lines.find? (fun x => decide (x.st = .firing)) with
      | none => s
      | some x =>
        let s := s.setSched n { c with lines := c.lines.filter (fun y => y.st ≠ .firing), lastT := some x.time }
        (((s.lineDone x.line).passDone n x.line).jobCheck x.line.job).ttSync n

/-! ### Reading heaters (R301 to R305) -/

/-- The sense wire is at fault (R305): roll call and temperature sensing of the port stop. -/
def State.snsFail (s : State) (n : Nat) : State :=
  let s := s.setB (O.HP_HEALTH_STATUS n) B.HP_HEALTH_STATUS_SNS_FAULT true
  let s := (s.setB (O.HP_HEALTH_STATUS n) B.HP_HEALTH_STATUS_SUSPECT false).setHealth n { s.health n with suspect := none, refDue := false, tempDue := false }
  (s.hit (O.HP_HEALTH_EVENTS n) B.HP_HEALTH_EVENTS_SNS_FAULT (evNozzle n) 1).senseDrop (ofPort n)

/-- A REF reading passes (R305). -/
def refPasses (u : Nat) : Bool := decide (980 * 16 ≤ u ∧ u ≤ 1020 * 16)

/-- A REF reading in 1/16 mV. -/
def State.refResult (s : State) (n u : Nat) : State :=
  let h := s.health n
  let fails := if refPasses u then 0 else h.refFails + 1
  let s := s.setHealth n { h with refDue := false, refFails := fails, sinceRef := 0 }
  if 2 ≤ fails then s.snsFail n else s

/-- Classes of Table 11.1. -/
inductive Heater where
  | open' | short | drift | good
  deriving DecidableEq, Repr

/-- Classify V (1/16 mV) and R (0.01 Ω) by the first row that matches (R302). -/
def classify (s : State) (n u r : Nat) : Heater :=
  let nom := rcRNom s n
  let d := if r < nom then nom - r else r - nom
  if nearVref s u ∨ nom * s.get (O.HP_ROLL_OPEN n) < r * 256 then .open'
  else if nearZero u ∨ r * 256 < nom * s.get (O.HP_ROLL_SHORT n) then .short
  else if nom * s.get (O.HP_ROLL_DRIFT n) < d * 256 then .drift
  else .good

/-- R of a reading (R302); a sense current of 0 gives none: the value is free (DESIGN CHOICE, log 9 and 34). -/
def State.resistance (s : State) (n u : Nat) : Nat × State :=
  let i := rcSnsCurrent s n
  if i = 0 then s.draw else ((divRound ((u * 100000 : Nat) : Int) (16 * i)).toNat, s)

/-- Count a reading toward the next REF reading, and whether it confirmed a fault toward R305. -/
def State.countReading (s : State) (n : Nat) (confirmed : Bool) : State :=
  let h := s.health n
  let k := h.sinceRef + 1
  (s.setHealth n { h with sinceRef := if 256 ≤ k then 0 else k, refDue := h.refDue || confirmed || decide (256 ≤ k), confirms := (confirmed :: h.confirms).take 64 }).inc (O.HP_ROLL_READINGS n)

/-- A GOOD or DRIFT reading enters the mean (R304). -/
def State.countMean (s : State) (n r : Nat) : State :=
  let h := s.health n
  let rs := (r :: h.rs).take 1024
  let s := s.setHealth n { h with rs := rs, rCount := h.rCount + 1 }
  if (h.rCount + 1) % 256 = 0 then
    ((s.set (O.HP_R_MEAN n) (min 65535 (divRound ((rs.foldl (· + ·) 0 : Nat) : Int) rs.length).toNat)).setB
      (O.HP_HEALTH_STATUS n) B.HP_HEALTH_STATUS_R_VALID true).rhoSync (groupOf n)
  else s

/-- The visit order goes on after nozzle `k`. -/
def State.rollPast (s : State) (n k : Nat) : State :=
  s.set (O.HP_ROLL_NEXT n) (if nozzles s n = 0 then 0 else (k + 1) % nozzles s n)

/-- A fault is confirmed (R303): the nozzle is masked; one that is masked already changes nothing further. -/
def State.confirmFault (s : State) (n k : Nat) (short : Bool) : State :=
  if (s.mask n).all.contains k then s.countReading n false
  else
    let s := s.countReading n true
    let s := s.setHealth n { s.health n with found := tput (s.health n).found k short.toNat }
    let s := s.maskNozzle n k true
    let s := (s.inc (O.HP_ROLL_CONFIRMED n)).hit (O.HP_HEALTH_EVENTS n) B.HP_HEALTH_EVENTS_CONFIRMED (evNozzle n) 1
    let s := if s.bit (O.HP_HEALTH_CONTROL n) B.HP_HEALTH_CONTROL_REC_ON_MASK then s.recPend n (s.health n).recCause true else s
    if 4 < ((s.health n).confirms.filter id).length then s.snsFail n else s

/-- A heater reading of nozzle `k` in 1/16 mV (R302 to R304). `visit` says that roll call's order takes it in. -/
def State.heaterResult (s : State) (n k u : Nat) (visit : Bool) : State :=
  let r := s.resistance n u
  let s := r.2
  let c := classify s n u r.1
  let bad := decide (c = .open' ∨ c = .short)
  let again := decide ((s.health n).suspect = some k)
  let s := if visit then s.rollPast n k else s
  if bad then
    if again then
      let s := (s.setHealth n { s.health n with suspect := none }).setB (O.HP_HEALTH_STATUS n) B.HP_HEALTH_STATUS_SUSPECT false
      s.confirmFault n k (decide (c = .short))
    else
      ((s.countReading n false).setHealth n { (s.countReading n false).health n with suspect := some k }).setB
        (O.HP_HEALTH_STATUS n) B.HP_HEALTH_STATUS_SUSPECT true
  else
    let s := (s.countReading n false).countMean n r.1
    let s := if c = .drift then s.inc (O.HP_ROLL_DRIFTED n) else s
    if again then
      let s := (s.setHealth n { s.health n with suspect := none }).setB (O.HP_HEALTH_STATUS n) B.HP_HEALTH_STATUS_SUSPECT false
      (s.inc (O.HP_ROLL_TRANSIENTS n)).setB (O.HP_HEALTH_EVENTS n) B.HP_HEALTH_EVENTS_TRANSIENT true
    else s

/-- An FI rising edge of the port fell within a window of press time (R301). -/
def roseIn (f : Fire) (a b : Nat) : Bool :=
  match f.endAt with
  | none => false
  | some e => (fireRises f).any (fun r => ptLe a r && ptLe r b && ptLt r e)

/-- Why a reading of a head's sense wire is discarded (R301, R325): spoilt or cut through by an edge, or of an older
epoch. -/
def spoilt (s : State) (g : Grant) : Bool := g.bad || roseIn (s.fire g.req.inst) g.start s.pt
def otherEpoch (s : State) (g : Grant) : Bool := decide (g.req.epoch ≠ s.get (O.HP_EPOCH g.req.inst))

/-! ### Readings that a UNIT_ERR voids (R257, R301, R306) -/

def deepAddr (n z : Nat) : Nat := domAddr (0x5280 + n) (4 * z)
def deepWord (s : State) (n z : Nat) : Nat := s.mgetLE (deepAddr n z) 4

/-- Store a nozzle's result of the deep test. -/
def State.deepStore (s : State) (n z cls d sig : Nat) : State :=
  s.mputs (deepAddr n z) (bytesLE 4 (cls * 2 ^ 28 + d * 65536 + sig))

/-- A reading that began at press time `began` is being taken: what roll call holds now is put down. -/
def State.readingNote (s : State) (n began : Nat) (deep : Option Nat) (fast : Option (Nat × Nat)) : State :=
  let h := s.health n
  let r : Reading := { began := began, deep := deep, fast := fast, next := s.get (O.HP_ROLL_NEXT n), suspect := h.suspect, sinceRef := h.sinceRef, refFails := h.refFails, refDue := h.refDue, confirms := h.confirms, rs := h.rs, rCount := h.rCount, mean := s.get (O.HP_R_MEAN n), meanOk := s.bit (O.HP_HEALTH_STATUS n) B.HP_HEALTH_STATUS_R_VALID, badRow := h.badRow, tempDue := h.tempDue, temp := s.get (O.HP_TEMP n), tempAt := h.tempAt }
  s.setHealth n { h with past := r :: h.past.filter (fun x => ptLe s.pt (x.began + 20 * fuUs)) }

/-- A completed reading is discarded: roll call stands where it stood before it, and a nozzle of a deep test is NOT_MEASURED. Masks,
events and thermal states that it has brought about stand (DEDUCED, log 113). -/
def State.readingVoid (s : State) (n : Nat) (r : Reading) : State :=
  let s := s.inc (O.HP_STALE_RESULTS n)
  match r.deep with
  | some z => s.deepStore n z 3 0 0
  | none =>
    let h := s.health n
    let s := s.setHealth n { h with suspect := r.suspect, sinceRef := r.sinceRef, refFails := r.refFails, refDue := r.refDue, confirms := r.confirms, rs := r.rs, rCount := r.rCount, badRow := r.badRow, tempDue := r.tempDue, tempAt := r.tempAt }
    let s := (s.set (O.HP_ROLL_NEXT n) r.next).setB (O.HP_HEALTH_STATUS n) B.HP_HEALTH_STATUS_SUSPECT r.suspect.isSome
    let s := (s.set (O.HP_R_MEAN n) r.mean).setB (O.HP_HEALTH_STATUS n) B.HP_HEALTH_STATUS_R_VALID r.meanOk
    let s := if thermalState s n = 3 then s else s.set (O.HP_TEMP n) r.temp
    let s := match r.fast with
      | some (k, z) => s.setMt k { s.mt k with next := tput (s.mt k).next n (min z (tget z (s.mt k).next n)) }
      | none => s
    s.rhoSync (groupOf n)

/-- The readings of a port completed that began in the 20 µs before now are discarded, the newest first. -/
def State.readingsVoid (s : State) (n : Nat) : State :=
  let l := (s.health n).past.filter (fun x => ptLe s.pt (x.began + 20 * fuUs))
  let s := l.foldl (fun s r => s.readingVoid n r) s
  s.setHealth n { s.health n with past := [] }

/-- Count a discarded reading. -/
def State.staleReading (s : State) (n : Nat) (epoch : Bool) : State :=
  let s := s.inc (O.HP_STALE_RESULTS n)
  if epoch then s.setB (O.HP_HEALTH_EVENTS n) B.HP_HEALTH_EVENTS_STALE_RESULT true else s

/-! ### Host clears (R305, Table 11.3) -/

/-- A write of HP_HEALTH_CONTROL (Table 11.11) with the REF and TEMP readings taken on it, in 1/16 mV, none where none
was made. -/
def wrHealthControl (n v : Nat) (ref temp : Option Nat) (s : State) : WRes :=
  let clrSns := bitOf v B.HP_HEALTH_CONTROL_CLR_SNS_FAULT
  let clrBrk := bitOf v B.HP_HEALTH_CONTROL_CLR_BROKEN
  let outside := decide (s.mode ≠ mdPrint) && linkUp s n
  let refOk : Bool := match ref with
    | some u => refPasses u
    | none => false
  let t := match temp with
    | some u => s.tempOf n u
    | none => (0, s)
  let tempOk : Bool := match temp with
    | some u => plausible s u t.1
    | none => false
  if clrSns ∧ !(outside && refOk) ∨ clrBrk ∧ !(outside && tempOk) then .no s abState
  else
    let s := s.set (O.HP_HEALTH_CONTROL n) (v % 32)
    let s := if clrSns then
        (s.setB (O.HP_HEALTH_STATUS n) B.HP_HEALTH_STATUS_SNS_FAULT false).setHealth n
          { s.health n with refFails := 0, sinceRef := 0, confirms := [] }
      else s
    let s := if clrBrk then
        let s := t.2.set (O.HP_HEALTH_CONTROL n) (v % 32)
        let s := if thermalState s n = 3 then
            let s := (s.setF (O.HP_HEALTH_STATUS n) B.HP_HEALTH_STATUS_THERMAL 0).setB (O.HP_HEALTH_STATUS n) B.HP_HEALTH_STATUS_INHIBITED false
            ((s.setB (O.HP_HEALTH_STATUS n) B.HP_HEALTH_STATUS_PAUSE false).warnSync n).ttSync n
          else s
        s.tempTake n t.1
      else s
    .ok ((if bitOf v B.HP_HEALTH_CONTROL_ROLL_EN then s else s.senseDrop (fun r => ofPort n r && r.what != .temp && r.slot.isNone)).regulateTemp n)

/-! ### Rank and the health record (R313 to R318) -/

/-- A write of HP_RANK_SET (R314). -/
def wrRankSet (n v : Nat) (s : State) : WRes :=
  if 7 < v then .no s abRange else if s.mode = mdPrint then .no s abState else .ok (s.rankTo n v 3)

/-- HP_RANK_SET (R314). -/
def execHpRankSet (p : Path) (n v : Nat) (s : State) : Host.Outcome State Fault Refusal :=
  access p (O.HP_RANK_SET n) s (wrRankSet n v)

/-- A write of HP_REC_CMD (R316): 1 asks for a record write, 2 cancels one that has not started. -/
def wrRecCmd (n v : Nat) (s : State) : WRes :=
  if v = 1 then .ok (s.recPend n (s.health n).recCause false)
  else if v = 2 then .ok (s.setB (O.HP_HEALTH_STATUS n) B.HP_HEALTH_STATUS_REC_PENDING false)
  else .no s abRange

/-- REC_WRITE_REQUEST (R316): a write of 1 to HP_REC_CMD. -/
def execRecWriteRequest (p : Path) (n : Nat) (s : State) : Host.Outcome State Fault Refusal :=
  access p (O.HP_REC_CMD n) s (wrRecCmd n 1)

/-- REC_WRITE_CANCEL (R316): a write of 2 to HP_REC_CMD; a write that has started goes on. -/
def execRecWriteCancel (p : Path) (n : Nat) (s : State) : Host.Outcome State Fault Refusal :=
  access p (O.HP_REC_CMD n) s (wrRecCmd n 2)

/-- The words little-endian bytes spell. -/
def wordsLE : List Nat → List Nat
  | a :: b :: c :: d :: rest => (a + 256 * b + 65536 * c + 16777216 * d) :: wordsLE rest
  | _ => []

/-- The nozzles a record lists (R315): those roll call confirmed or the deep test masked, and masked still. -/
def recListed (s : State) (n : Nat) : List (Nat × Nat) :=
  ((s.health n).found.filter (fun p => (s.mask n).all.contains p.1)).take 232

/-- The body of the health record before LIFE (Table 11.4). -/
def recPre (s : State) (n : Nat) : List Nat :=
  [s.get (O.HP_RANK n), (s.health n).recCause] ++ le 2 (s.get (O.SCR_MASKED n)) ++ le 2 (s.get (O.SCR_UNCOMPENSATED n))
    ++ le 2 (s.get (O.HP_R_MEAN n)) ++ le 2 (recListed s n).length ++ [0, 0] ++ le 4 (s.get O.BK_RTC_SEC)

/-- Its LIST: bit 14 set for SHORT and COLD. -/
def recPost (s : State) (n : Nat) : List Nat := (recListed s n).flatMap (fun p => le 2 (p.2 % 2 * 16384 + p.1))

/-- The image of a health record in its slot (Table 9.12), as 128 words. -/
def recImage (seq : Nat) (body : List Nat) : List Nat :=
  let head := le 4 seq ++ le 2 body.length ++ le 2 1 ++ body ++ List.replicate (488 - body.length) 0
  let crc := crc32 (head.map (BitVec.ofNat 8))
  wordsLE (head ++ le 4 crc ++ List.replicate 8 0 ++ le 4 0xA5C35A3C)

/-- The 129 WRITEs of R259 in order: COMMIT 0; body, length and format, SEQ; SLOT_CRC; COMMIT. -/
def recWrites (base : Nat) (image : List Nat) : List (Nat × Nat) :=
  let w := fun i => (base + 4 * i, image.getD i 0)
  [(base + 0x1FC, 0)] ++ ((List.range 122).map (fun i => w (i + 2))) ++ [w 1, w 0, w 125, w 126, w 124, w 127]

/-- The next READ or WRITE of a record write leaves, or the write is complete (R316, R317). -/
def State.recNext (s : State) (n : Nat) : State :=
  match (s.health n).recWrite with
  | none => s
  | some w =>
    if curfew s then (s.recStop n).deferred
    else if w.life.length < 3 then
      s.cmdQueue n { op := 1, a0 := if w.life.length = 1 then 0x84 else 0x80, use := 5 }
    else match w.todo with
      | x :: _ => s.cmdQueue n { op := 2, a0 := x.1, a1 := x.2, use := 5 }
      | [] =>
        let s := s.setHealth n { s.health n with recWrite := none, recFailRow := 0, calSeq := w.seq }
        let s := (s.setB (O.HP_HEALTH_STATUS n) B.HP_HEALTH_STATUS_REC_BUSY false).setB (O.HP_HEALTH_EVENTS n) B.HP_HEALTH_EVENTS_REC_WRITTEN true
        let s := (s.setB (O.HP_STATE n) B.HP_STATE_CALIB_VALID true).setB (O.HP_STATE n) B.HP_STATE_CALIB_SLOT (decide (w.slot = 1))
        (s.inc (O.HP_REC_WRITES n)).set (O.HP_REC_SEQ n) w.seq

/-- A word of LIFE_COUNT arrives: low, high, low again; a pair whose low words differ is read again (R260). -/
def State.recRead (s : State) (n v : Nat) : State :=
  match (s.health n).recWrite with
  | none => s
  | some w =>
    let life := w.life ++ [v]
    let w :=
      if life.length < 3 then { w with life := life }
      else if life.getD 0 0 ≠ life.getD 2 0 then { w with life := [v] }
      else { w with
        life := life
        todo := recWrites (0x200 + 0x200 * w.slot) (recImage w.seq (w.pre ++ le 4 (life.getD 0 0) ++ le 4 (life.getD 1 0) ++ w.post)) }
    (s.setHealth n { s.health n with recWrite := some w }).recNext n

/-- A WRITE of the record was done (R259). -/
def State.recWrote (s : State) (n : Nat) : State :=
  match (s.health n).recWrite with
  | none => s
  | some w => (s.setHealth n { s.health n with recWrite := some { w with todo := w.todo.drop 1 } }).recNext n

/-- A WRITE of the record was refused, or got no reply (R317). -/
def State.recFail (s : State) (n : Nat) : State :=
  let s := s.recStop n
  let h := s.health n
  let s := s.setHealth n { h with recFailRow := h.recFailRow + 1, recHold := some (s.up + s.get (O.HP_REC_MIN_GAP n) * fuS) }
  let s := (s.inc (O.HP_REC_FAILS n)).setB (O.HP_HEALTH_EVENTS n) B.HP_HEALTH_EVENTS_REC_FAIL true
  if 3 ≤ h.recFailRow + 1 then s.setB (O.HP_HEALTH_STATUS n) B.HP_HEALTH_STATUS_REC_DISABLED true else s

/-- REC_WRITE_START (R316): a pending record write starts once its conditions hold; under curfew it is deferred. -/
def execRecWriteStart (n t : Nat) (s : State) : Host.Outcome State Fault Refusal :=
  let s := s.adv t
  let h := s.health n
  let st := s.get (O.HP_HEALTH_STATUS n)
  let gap : Bool := match h.recAt with
    | some a => h.recByMask && decide (s.up < a + s.get (O.HP_REC_MIN_GAP n) * fuS)
    | none => false
  let held : Bool := match h.recHold with
    | some a => decide (s.up < a)
    | none => false
  if !bitOf st B.HP_HEALTH_STATUS_REC_PENDING ∨ bitOf st B.HP_HEALTH_STATUS_REC_BUSY ∨ bitOf st B.HP_HEALTH_STATUS_REC_DISABLED
      ∨ !linkUp s n ∨ s.get (O.HP_RC_RESULT n) = 1 ∨ gap ∨ held then .next s
  else if curfew s then .next s.deferred
  else
    let slot := if s.bit (O.HP_STATE n) B.HP_STATE_CALIB_VALID ∧ !s.bit (O.HP_STATE n) B.HP_STATE_CALIB_SLOT then 1 else 0
    let seq := (if s.bit (O.HP_STATE n) B.HP_STATE_CALIB_VALID then h.calSeq + 1 else 1) % 2 ^ 32
    let s := s.setHealth n { h with recAt := some s.up, recHold := none, recByMask := false, recWrite := some { slot := slot, seq := seq, pre := recPre s n, post := recPost s n } }
    let s := (s.setB (O.HP_HEALTH_STATUS n) B.HP_HEALTH_STATUS_REC_BUSY true).setB (O.HP_HEALTH_STATUS n) B.HP_HEALTH_STATUS_REC_PENDING false
    .next (s.recNext n)

/-! ### Twins (R319 to R322) -/

/-- A write of HP_TWIN (R319). -/
def wrTwin (n v : Nat) (s : State) : WRes :=
  if v = n ∨ (95 < v ∧ v ≠ 0xFF) then .no s abRange
  else if v ≠ 0xFF ∧ ports.any (fun k => decide (k ≠ n) && decide (s.get (O.HP_TWIN k) = v)) then .no s abLocal
  else if (servedBy s n).isSome then .no s abState
  else .ok (s.set (O.HP_TWIN n) v)

/-- HP_TWIN_WRITE (R319). -/
def execHpTwinWrite (p : Path) (n v : Nat) (s : State) : Host.Outcome State Fault Refusal :=
  access p (O.HP_TWIN n) s (wrTwin n v)

/-- Assign the unserved stripe of primary `n` in job `j` to the primary or its twin when one has become eligible (R321);
it prints on after the marks its last server left (DEDUCED, log 116). -/
def State.assignUnserved (s : State) (j i n : Nat) : State :=
  let t := s.get (O.HP_TWIN n)
  let new := if eligible s n j i false then some n else if t < 96 ∧ eligible s t j i false then some t else none
  match new with
  | none => s
  | some k =>
    let run := fun (c : Sched) => (laterMark c.markFwd c.markRev).filter (fun m => m.run = (s.job j).run)
    let a := s.sched n
    let b := s.sched t
    let c := if t < 96 ∧ (run b).isSome ∧ laterMark (run a) (run b) = run b ∧ run a ≠ run b then b else a
    let from' := (lineAt s j i (placeOn s j (placeAfter s j c))).map (·.band)
    let x := s.job j
    let bs := x.bands.zipIdx.map (fun p => match from' with
      | some f => if f ≤ p.2 ∧ p.1.pages ≠ [] then { p.1 with left := setIns p.1.left i } else p.1
      | none => p.1)
    (s.setJob j { x with bands := bs }).takeStripe j i k c 4 s.pt

/-- Take over or assign (R321, R322): a write of 1 to HP_TWIN_CMD (DEDUCED, log 116). -/
def State.twinTake (s : State) (n : Nat) : State :=
  match (slots.filter (fun j => decide (jobState s j = 2 ∨ jobState s j = 3))).findSome? (fun j => (stripeIdx s j n).bind (fun i =>
      if (tget (0, 0) (s.job j).srv i).1 = 0xFF then some (j, i) else none)) with
  | some (j, i) => s.assignUnserved j i n
  | none => if s.mode = mdPrint then s.loseStripes n 4 else s

/-- Hand back (R322): a write of 2 to HP_TWIN_CMD of a twin that serves a stripe. -/
def State.twinGive (s : State) (n : Nat) : State :=
  if s.mode ≠ mdPrint then s
  else s.forAll (slots.filter (fun j => decide (jobState s j = 2 ∨ jobState s j = 3))) (fun s j =>
    match servedStripe s j n with
    | none => s
    | some i =>
      let q := (stripeAt s j i).port
      if q = n then s else s.takeover j i n q 5)

/-- A write of HP_TWIN_CMD. -/
def wrTwinCmd (n v : Nat) (s : State) : WRes :=
  if v = 1 then .ok (s.twinTake n) else if v = 2 then .ok (s.twinGive n) else .no s abRange

end Sys2Proof.Machine
end

