-- ==== Sys2Proof/Machine/Head.lean ====
section
/-! DEFINITION. The head link (chapter 9): bring-up, frames and their answers, commands and their replies, retirement. -/
namespace Sys2Proof.Machine

/-! ### The report card (R258 to R260) -/

/-- Byte `a` of the words read so far. -/
def cardByte (ws : List Nat) (a : Nat) : Nat := ws.getD (a / 4) 0 / 256 ^ (a % 4) % 256
def cardHalf (ws : List Nat) (a : Nat) : Nat := cardByte ws a + 256 * cardByte ws (a + 1)
def cardBytes (ws : List Nat) (a n : Nat) : List Byte := (List.range n).map (fun k => BitVec.ofNat 8 (cardByte ws (a + k)))

/-- Address of the k-th word read at bring-up: 0x0000 to 0x005F, then both slots. -/
def cardAddr (k : Nat) : Nat := if k < 24 then 4 * k else 0x200 + 4 * (k - 24)

/-- The checks of R260 on 0x0000 to 0x005F. -/
def cardGood (ws : List Nat) : Bool :=
  let b := cardByte ws
  let h := cardHalf ws
  let rows := b 0x12
  decide (h 0 = 0x5243) && decide (b 2 = 1)
    && decide (crc32 (cardBytes ws 0 0x3C) = ws.getD 15 0) && decide (crc32 (cardBytes ws 0x40 0x1C) = ws.getD 23 0)
    && decide (16 ≤ h 0x10 ∧ h 0x10 ≤ 16384) && decide (1 ≤ rows ∧ rows ≤ 8) && decide (4 ≤ b 0x13 ∧ b 0x13 ≤ 32)
    && decide (1 ≤ b 0x14 ∧ b 0x14 ≤ 3) && decide (4 ≤ b 0x15 ∧ b 0x15 ≤ 16) && decide (1 ≤ h 0x16 ∧ h 0x16 ≤ 9600)
    && decide (1 ≤ b 0x1E ∧ b 0x1E ≤ 3) && decide (b 0x20 = 0) && (List.range rows).all (fun r => decide (b (0x20 + r) ≤ 63))
    && decide (h 0x28 = 0) && (List.range (rows - 1)).all (fun r => decide (h (0x28 + 2 * r) < h (0x2A + 2 * r)))
    && decide (h (0x28 + 2 * (rows - 1)) < h 0x10)
    && (List.range 7).all (fun k => decide (h (0x40 + 2 * k) ≤ h (0x42 + 2 * k))) && decide (b 0x50 ≤ 7)

/-- Words of slot `i` (0 A, 1 B) among those read. -/
def slotWords (ws : List Nat) (i : Nat) : List Nat := (ws.drop (24 + 128 * i)).take 128
/-- A slot is valid (R259). -/
def slotValid (w : List Nat) : Bool :=
  decide (w.getD 127 0 = 0xA5C35A3C) && decide (crc32 (cardBytes w 0 0x1F0) = w.getD 124 0)
/-- The slot in force, if any (R259). -/
def slotInForce (ws : List Nat) : Option Nat :=
  let a := slotWords ws 0
  let b := slotWords ws 1
  match slotValid a, slotValid b with
  | true, true => if toSigned 32 (ofSigned 32 ((b.getD 0 0 : Int) - a.getD 0 0)) > 0 then some 1 else some 0
  | true, false => some 0
  | false, true => some 1
  | false, false => none

/-! ### States of the link (Table 9.13) -/

def State.linkTo (s : State) (n st : Nat) : State := s.setF (O.HP_STATE n) B.HP_STATE_LINK st

/-- Drop what the link has under way. -/
def State.linkIdle (s : State) (n : Nat) : State :=
  let k := s.link n
  let s := s.setLink n { k with cmd := none, waiting := [], card := [], tries := 0, locked := false, trims := [], lq := [], leaving := none }
  let s := s.setB (O.HP_STATE n) B.HP_STATE_CMD_BUSY false
  if s.get (O.HP_RC_RESULT n) = 1 then s.set (O.HP_RC_RESULT n) 2 else s

/-- Bring-up fails. -/
def State.linkFail (s : State) (n bit : Nat) : State :=
  ((s.linkIdle n).linkTo n 4).setB (O.HP_LINK_STATUS n) bit true

/-- The copy of the report card reads 0 while RC_VALID is 0 (R268). -/
def State.cardClear (s : State) (n : Nat) : State :=
  (s.setB (O.HP_STATE n) B.HP_STATE_RC_VALID false).forAll (List.range 24) (fun s i => s.set (O.RC_WORD n i) 0)

/-- CK stops, D is idle low (Table 9.13). -/
def State.ckStop (s : State) (n : Nat) : State :=
  (s.setB (O.HP_STATE n) B.HP_STATE_RET_LINK false).emit (.note "CK" [n, 0])

/-- Bring-up starts (R261): CK stopped, RET in basic mode, the first READ of 0x0000. -/
def State.bringUp (s : State) (n : Nat) : State :=
  let s := ((s.linkIdle n).linkTo n 1).ckStop n
  let s := (s.setB (O.HP_STATE n) B.HP_STATE_HEAD_PRESENT false).cardClear n
  s.cmdQueue n { op := 1, a0 := 0, use := 0 }

/-- The port's rank, masks, record and twin record at a bring-up (R313, R317, R318). -/
def State.cardHealth (s : State) (n : Nat) (ws : List Nat) : State :=
  let force := slotInForce ws
  let w := match force with
    | some i => slotWords ws i
    | none => []
  let rec' := force.isSome && decide (cardHalf w 6 = 1)
  let k := s.link n
  let serial := ws.getD 2 0 + 2 ^ 32 * ws.getD 3 0
  let same := decide (k.serial = some serial)
  let s := s.setLink n { k with serial := some serial }
  let s := (s.setB (O.HP_STATE n) B.HP_STATE_CALIB_VALID force.isSome).setB (O.HP_STATE n) B.HP_STATE_CALIB_SLOT (decide (force = some 1))
  let s := s.set (O.HP_REC_SEQ n) (if rec' then w.getD 0 0 else 0)
  let h := s.health n
  let s := s.setHealth n { h with calSeq := w.getD 0 0, recFailRow := 0, recHold := none }
  let s := (s.setB (O.HP_HEALTH_STATUS n) B.HP_HEALTH_STATUS_REC_DISABLED false).setB (O.HP_HEALTH_STATUS n) B.HP_HEALTH_STATUS_REC_PENDING
    (same && s.bit (O.HP_HEALTH_STATUS n) B.HP_HEALTH_STATUS_REC_PENDING)
  let s := (s.rankOver n).rankTo n (if rec' then cardByte w 8 % 8 else rcFactoryRank s n) 0
  if rec' ∧ s.bit (O.HP_HEALTH_CONTROL n) B.HP_HEALTH_CONTROL_RESTORE_MASK then
    let list := (List.range (min 232 (cardHalf w 16))).map (fun i => cardHalf w (32 + 2 * i))
    let list := list.filter (fun v => decide (v % 16384 < nozzles s n))
    let s := list.foldl (fun s v => s.maskNozzle n (v % 16384) true true) s
    s.setHealth n { s.health n with found := list.foldl (fun l v => tput l (v % 16384) (v / 16384 % 2)) (s.health n).found }
  else s

/-- The report card and both slots are read: the checks, and on to TRAINING (R260). -/
def State.cardRead (s : State) (n : Nat) : State :=
  let ws := (s.link n).card
  if !cardGood ws then s.linkFail n B.HP_LINK_STATUS_RC_INVALID
  else
    let s := s.forAll (List.range 24) (fun s i => s.set (O.RC_WORD n i) (ws.getD i 0))
    let s := (s.setB (O.HP_STATE n) B.HP_STATE_RC_VALID true).cardHealth n ws
    let s := s.linkTo n 2
    (s.setLink n { s.link n with card := [], trims := [], locked := false, ckAt := s.up, laneAt := s.up, scrAt := none }).emit (.note "CK" [n, 1])

/-- One trim step: 512 TRAIN units, and a TRAIN_REPORT behind them (R262). -/
def State.trimStep (s : State) (n : Nat) : State :=
  let at' := laneFree s n
  let s := s.sendUnits n at' ((List.range 512).map trainUnit)
  (s.setLink n { s.link n with laneAt := at' + 512 * fuUnit }).cmdQueue n { op := 6, use := 2 }

/-- The longest run of passing steps of a lane: its first step and its length; the first of equal runs. -/
def longestRun (l : List Bool) : Nat × Nat :=
  let r := l.zipIdx.foldl (fun (a : (Nat × Nat) × Nat) p =>
    let len := if p.1 then a.2 + 1 else 0
    (if a.1.2 < len then (p.2 + 1 - len, len) else a.1, len)) ((0, 0), 0)
  r.1

/-- The map a head is sent at bring-up (R276). -/
def bringUpMap (s : State) (n : Nat) : Nat × Nat :=
  if liveTrainValid s n then ((liveTrain s n).map, (liveTrain s n).pulses) else (0x249248, 1)

/-- A trim step is judged; after the last, each lane takes the middle of its longest run (R262). -/
def State.trimJudge (s : State) (n : Nat) (ok0 ok1 : Bool) : State :=
  let k := s.link n
  let trims := k.trims ++ [(ok0, ok1)]
  let s := s.setLink n { k with trims := trims }
  if trims.length < 48 then s.trimStep n
  else
    let a := longestRun (trims.map (·.1))
    let b := longestRun (trims.map (·.2))
    if a.2 < 8 ∨ b.2 < 8 then s.linkFail n B.HP_LINK_STATUS_TRAIN_FAIL
    else
      let mid := fun (r : Nat × Nat) => r.1 + (r.2 - 1) / 2
      let s := s.set (O.HP_LANE_TRIM n) (mid a + 256 * mid b)
      let m := bringUpMap s n
      s.cmdQueue n { op := 3, a0 := m.1, a1 := m.2 + 256 * rcGroups s n, use := 3 }

/-- The link enters UP (Table 9.13): the head's readings start afresh, and the first rotation carries NEW_RUN and, so
that the map sent goes live, APPLY_MAP (R249, R275, R276, R304). -/
def State.linkUpNow (s : State) (n : Nat) : State :=
  let s := (s.linkTo n 3).setB (O.HP_LINK_STATUS n) B.HP_LINK_STATUS_LINK_UP true
  let k := s.link n
  let s := s.setLink n { k with lastMsg := s.up, badAt := [], refusedRow := 0, outs := [], absorb := [], late := [], astray := [], trims := [] }
  let s := (s.setSched n { s.sched n with newRun := true }).setFire n { s.fire n with applyMap := true }
  let h := s.health n
  let s := s.setHealth n { h with suspect := none, sinceRef := 0, confirms := [], rs := [], rCount := 0, badRow := 0, tempAt := none, upAt := s.pt, hot := false, tempDue := false, refDue := false, idleAt := none, tempRdAt := none, past := [] }
  let s := (s.setB (O.HP_HEALTH_STATUS n) B.HP_HEALTH_STATUS_R_VALID false).setB (O.HP_HEALTH_STATUS n) B.HP_HEALTH_STATUS_SUSPECT false
  let s := (s.setB (O.HP_HEALTH_STATUS n) B.HP_HEALTH_STATUS_TEMP_STALE false).set (O.HP_R_MEAN n) 0
  ((s.set (O.HP_TEMP n) 0x8000).set (O.HP_TEMP_HIGHEST n) 0x8000).rhoSync (groupOf n)

/-- The link goes to OFF, CK stopped (Table 9.13). -/
def State.linkOff (s : State) (n : Nat) (down : Bool) : State :=
  let was := linkState s n
  let s := ((s.linkIdle n).linkTo n 0).ckStop n
  let s := s.setLink n { s.link n with outs := [], absorb := [], late := [], astray := [] }
  let s := if down then s.setB (O.HP_LINK_STATUS n) B.HP_LINK_STATUS_LINK_DOWN true else s
  if was = 3 then (s.linkLost n).mtDrop n else s

/-- A write of HP_CONTROL (Table 9.18). -/
def wrHpControl (n v : Nat) (s : State) : WRes :=
  let up := bitOf v B.HP_CONTROL_BRINGUP
  let clr := bitOf v B.HP_CONTROL_CLR_RETIRE
  let st := linkState s n
  let may := decide (s.mode = mdConfigure ∨ s.mode = mdReady ∨ s.mode = mdService) && decide (st = 0 ∨ st = 4)
  if up ∧ !may ∨ clr ∧ s.mode = mdPrint then .no s abState
  else
    let s := s.set (O.HP_CONTROL n) (andW v 8)
    let s := if clr ∧ retired s n then
        (s.linkOff n false).setLink n { (s.linkOff n false).link n with badAt := [], refusedRow := 0, refusedAt := [], rotErrAt := [] }
      else s
    let s := if up then s.bringUp n else s
    .ok (if bitOf v B.HP_CONTROL_RETIRE then s.retirePort n else s)

/-- TRAINING_TIMEOUT (Table 9.13): no lock within 2 ms of CK start. -/
def execTrainingTimeout (n t : Nat) (s : State) : Host.Outcome State Fault Refusal :=
  let s := s.adv t
  let k := s.link n
  if linkState s n = 2 ∧ !k.locked ∧ k.ckAt + 2 * fuMs ≤ s.up then .next (s.linkFail n B.HP_LINK_STATUS_TRAIN_FAIL) else .next s

/-! ### Frames (R241 to R245, R263, R265) -/

/-- LINE_FRAME_SEND (R241): the new frame whose turn it is leaves, when the lanes are free (R242, R263). -/
def execLineFrameSend (n t : Nat) (s : State) : Host.Outcome State Fault Refusal :=
  let s := s.advPort n t
  match nextFrame s n with
  | none => .next s
  | some x =>
    if s.up < (s.link n).laneAt then .next s
    else
      let k := s.link n
      let s := s.setLink n { k with absorb := k.absorb.filter (fun q => q ≠ x.lseq), late := k.late.filter (fun q => q ≠ x.lseq) }
      .next ((s.frameOut n x.lseq (laneFree s n) x.line.data).lineMap n x.lseq (fun x => { x with frame := 1, stale := false }))

/-- A message discarded under R255. -/
def State.staleMsg (s : State) (n : Nat) : State :=
  (s.inc (O.HP_STALE_MSGS n)).setB (O.HP_LINK_STATUS n) B.HP_LINK_STATUS_STALE true

/-- Take in a valid message, or discard it under R255, as when it answers nothing. A link that is OFF or FAILED takes in none. In basic mode the next request leaves 1 µs after it (R253)
(DEDUCED, log 31). -/
def State.message (s : State) (n epoch : Nat) (answers : Bool) (f : State → State) : State :=
  let st := linkState s n
  if st = 5 ∨ (st = 3 ∧ epoch % 16 ≠ s.get (O.HP_EPOCH n) % 16) ∨ !answers then s.staleMsg n
  else if st = 0 ∨ st = 4 then s
  else f (s.setLink n { s.link n with lastMsg := s.up, retAt := if st = 1 then s.up + fuUs else (s.link n).retAt })

def outstanding (s : State) (n q : Nat) : Option (Nat × Nat) := (s.link n).outs.find? (fun o => decide (o.1 = q))

/-- An ACK or NAK names a frame that is outstanding, or answers a resend whose answer is absorbed (R255). -/
def answersFrame (s : State) (n q : Nat) : Bool := (outstanding s n q).isSome || (s.link n).absorb.contains q

/-- ACK_RX (R265): the frame is no longer outstanding; an ACK that arrives while a resend leaves, or that may answer a sending
which has timed out, lets the resend's answer be absorbed. -/
def execAckRx (n epoch lseq t : Nat) (s : State) : Host.Outcome State Fault Refusal :=
  let s := s.advPort n t
  .next (s.message n epoch (answersFrame s n lseq) (fun s =>
    let k := s.link n
    match outstanding s n lseq with
    | some o =>
      let absorbs := decide (s.up < o.2) || k.late.contains lseq
      let s := s.setLink n { k with outs := k.outs.erase o, refusedRow := 0, late := k.late.filter (fun q => q ≠ lseq), absorb := if absorbs then lseq :: k.absorb else k.absorb }
      s.lineMap n lseq (fun x => { x with frame := 2 })
    | none => s.setLink n { k with absorb := k.absorb.erase lseq }))

/-- A refusal of a frame, by a NAK or a time-out (R265, R266, Table 9.15). -/
def State.refuseFrame (s : State) (n q bit : Nat) : State :=
  let k := s.link n
  let at' := (k.placed :: k.refusedAt).filter (fun a => k.placed < a + 4096)
  let s := s.setLink n { k with outs := k.outs.filter (fun o => o.1 ≠ q), refusedRow := k.refusedRow + 1, refusedAt := at' }
  let s := (s.inc (O.HP_NAKS n)).setB (O.HP_LINK_STATUS n) bit true
  let forGood := decide (3 ≤ k.refusedRow + 1) || decide (8 < at'.length)
  let retry := fun (s : State) => s.raise (evRetry n) 0 (detailOf (O.HP_LINK_STATUS n) bit)
  if forGood then (retry s).retirePort n
  else match (lineOf s n q).filter (fun x => !x.latched) with
    | none => retry s
    | some x =>
      if !s.bit (O.HP_CONTROL n) B.HP_CONTROL_RETRY_EN ∧ frameInTime s n x (laneFree s n) then
        (retry ((s.lineMap n q (fun x => { x with frame := 4 })).inc (O.HP_RESENDS n))).lanePut n (.resend q)
      else (s.lineMap n q (fun x => { x with frame := 3 })).headBlank n

/-! ### Commands and their replies (R255, R256) -/

/-- A command has failed: no reply twice, or no reply to the three READs of 0x0000 (R256, Table 9.13); a record write in progress
fails with it (R317). -/
def State.cmdFail (s : State) (n : Nat) (c : Cmd) : State :=
  let up := linkUp s n
  let s := if c.use ≠ 5 ∧ (s.health n).recWrite.isSome then s.recFail n else s
  match c.use with
  | 0 => s.linkFail n B.HP_LINK_STATUS_TRAIN_FAIL
  | 1 => (s.set (O.HP_RC_RESULT n) 2).cmdOver n
  | 2 => (s.cmdOver n).trimJudge n false false
  | 3 => if up then (s.cmdOver n).ptRefuse n else s.linkFail n B.HP_LINK_STATUS_TRAIN_FAIL
  | 4 => if up then s.cmdOver n else s.linkFail n B.HP_LINK_STATUS_TRAIN_FAIL
  | _ => (s.cmdOver n).recFail n

/-- fu from a command's end to its time-out (Table 9.9, R256): the reply's limit and the longest return message. -/
def cmdLimit (c : Cmd) : Nat := (if c.op = 2 then 10 * fuMs else 20 * fuUs) + 143360

/-- CMD_TIMEOUT (R256): a missing reply is asked for once more with a new TAG. -/
def execCmdTimeout (n t : Nat) (s : State) : Host.Outcome State Fault Refusal :=
  let s := s.advPort n t
  let k := s.link n
  match k.cmd with
  | none => .next s
  | some c =>
    if !c.sentAt.any (fun a => decide (a + cmdLimit c ≤ s.up)) then .next s
    else if c.use = 0 ∧ k.card = [] then
      if k.tries < 2 then .next ((s.setLink n { k with tries := k.tries + 1 }).cmdSend n { c with again := false })
      else .next ((s.setB (O.HP_STATE n) B.HP_STATE_HEAD_PRESENT false).cmdFail n c)
    else if !c.again then .next (s.cmdSend n { c with again := true })
    else .next ((s.setB (O.HP_LINK_STATUS n) B.HP_LINK_STATUS_CMD_FAIL true).cmdFail n c)

/-- A reply to the outstanding command, told by its TAG; any other is discarded as stale (R255, R256)
(DEDUCED, log 31). -/
def State.reply (s : State) (n epoch tag : Nat) (ops : List Nat) (f : State → Cmd → State) : State :=
  s.message n epoch ((s.link n).cmd.any (fun c => decide (c.tag = tag) && ops.contains c.op)) (fun s => match (s.link n).cmd with
    | some c => f s c
    | none => s)

/-- READ_DATA_RX (R258, R260). -/
def execReadDataRx (n epoch tag data t : Nat) (s : State) : Host.Outcome State Fault Refusal :=
  .next ((s.advPort n t).reply n epoch tag [1] (fun s c =>
    let data := data % 2 ^ 32
    match c.use with
    | 0 =>
      let k := s.link n
      let s := (s.setLink n { k with card := k.card ++ [data] }).setB (O.HP_STATE n) B.HP_STATE_HEAD_PRESENT true
      let s := s.cmdOver n
      if (s.link n).card.length = 280 then s.cardRead n
      else s.cmdQueue n { op := 1, a0 := cardAddr (s.link n).card.length, use := 0 }
    | 1 => ((s.set (O.HP_RC_DATA n) data).set (O.HP_RC_RESULT n) 0).cmdOver n
    | _ => (s.cmdOver n).recRead n data))

/-- WRITE_DONE_RX (R259): RESULT of Table 9.7. -/
def execWriteDoneRx (n epoch tag result t : Nat) (s : State) : Host.Outcome State Fault Refusal :=
  .next ((s.advPort n t).reply n epoch tag [2] (fun s c =>
    match c.use with
    | 1 => (s.set (O.HP_RC_RESULT n) (if result = 0 then 0 else result + 2)).cmdOver n
    | _ => if result = 0 then (s.cmdOver n).recWrote n else (s.cmdOver n).recFail n))

/-- CMD_DONE_RX (R256): it also answers a READ or WRITE that the head could not serve. -/
def execCmdDoneRx (n epoch tag result t : Nat) (s : State) : Host.Outcome State Fault Refusal :=
  .next ((s.advPort n t).reply n epoch tag [1, 2, 3, 4, 5, 6] (fun s c =>
    match c.use with
    | 0 => s.linkFail n B.HP_LINK_STATUS_TRAIN_FAIL
    | 1 => (s.set (O.HP_RC_RESULT n) (if result = 0 then 0 else result + 2)).cmdOver n
    | 2 => (s.cmdOver n).trimJudge n false false
    | 3 =>
      if linkUp s n then
        let s := s.cmdOver n
        if result ≠ 0 then s.ptRefuse n
        else (s.setB (O.HP_PT_STATUS n) B.HP_PT_STATUS_MAP_WAIT false).ptCheck n
      else if result ≠ 0 then s.linkFail n B.HP_LINK_STATUS_TRAIN_FAIL
      else (s.cmdOver n).cmdQueue n { op := 4, a0 := s.get (O.HP_EPOCH n) % 16, use := 4 }
    | 4 => if linkUp s n then s.cmdOver n else (s.cmdOver n).linkUpNow n
    | _ => (s.cmdOver n).recFail n))

/-- TRAIN_RESULT_RX (R262): a step passes on a lane with 0 errors. -/
def execTrainResultRx (n epoch tag e0 e1 t : Nat) (s : State) : Host.Outcome State Fault Refusal :=
  .next ((s.advPort n t).reply n epoch tag [6] (fun s _ => (s.cmdOver n).trimJudge n (decide (e0 = 0)) (decide (e1 = 0))))

/-- Spoil the conversions of a port's sense wire that began in the 20 µs before now (R257): those under way for roll call, the deep
test or the host, and the readings completed. -/
def State.spoilSense (s : State) (n : Nat) : State :=
  let recent := fun (a : Nat) => ptLe a s.pt && ptLe s.pt (a + 20 * fuUs)
  let s := s.forAll converters (fun s c => match (s.sconv c).grant with
    | some g =>
      let mine := ofPort n g.req || decide (g.req.what = .host ∧ g.req.input = n)
      if mine && (!g.waits && recent g.start || g.begun.any recent) then
        s.setSconv c { s.sconv c with grant := some { g with bad := true } } else s
    | none => s)
  let s := if s.bank.hostLast.any (fun p => decide (p.1 = n) && recent p.2) then s.setB O.SB_HOST_STATUS 3 true else s
  s.readingsVoid n

/-- A head has fallen silent: its port is retired. -/
def State.headSilent (s : State) (n : Nat) : State :=
  if linkUp s n then (s.setB (O.HP_LINK_STATUS n) B.HP_LINK_STATUS_SILENT true).retirePort n else s

/-! ### Host access to the report card (R267) -/

/-- A write of HP_RC_CMD (R267, R316). -/
def wrRcCmd (n v : Nat) (s : State) : WRes :=
  let st := linkState s n
  if v ≠ 1 ∧ v ≠ 2 then .no s abRange
  else if (s.link n).cmd.isSome ∨ (st ≠ 3 ∧ st ≠ 1) ∨ s.bit (O.HP_HEALTH_STATUS n) B.HP_HEALTH_STATUS_REC_BUSY then .no s abState
  else if v = 2 ∧ curfew s then .no s.deferred abState
  else
    let s := s.set (O.HP_RC_RESULT n) 1
    .ok (s.cmdQueue n { op := v, a0 := s.get (O.HP_RC_ADDR n), a1 := if v = 2 then s.get (O.HP_RC_DATA n) else 0, use := 1 })

/-- HP_RC_READ (R267): a write of 1 to HP_RC_CMD. -/
def execHpRcRead (p : Path) (n : Nat) (s : State) : Host.Outcome State Fault Refusal := access p (O.HP_RC_CMD n) s (wrRcCmd n 1)

/-- HP_RC_WRITE (R267): a write of 2 to HP_RC_CMD. -/
def execHpRcWrite (p : Path) (n : Nat) (s : State) : Host.Outcome State Fault Refusal := access p (O.HP_RC_CMD n) s (wrRcCmd n 2)

end Sys2Proof.Machine
end

