-- ==== Sys2Proof/Machine/Stone.lean ====
section
/-! DEFINITION. What every block reads of a position interface, milestones and their owners (R98 to R100), and relay
outputs (R101, R102). -/
namespace Sys2Proof.Machine

/-! ### Position interfaces -/

def pis : List Nat := List.range 12
def piMode (s : State) (i : Nat) : Nat := s.fld (O.PI_CONFIG i) B.PI_CONFIG_MODE
def piFault (s : State) (i : Nat) : Bool := s.bit (O.PI_STATUS i) B.PI_STATUS_FAULT
/-- The interface's position in pu (R92). -/
def piPos (s : State) (i : Nat) : Nat := s.get (O.PI_COUNT i) * 65536
/-- PI_SPEED in counts per second, rounded (R383). -/
def piRate (s : State) (i : Nat) : Int := divRound (s.getI (O.PI_SPEED i) * 1000000) 65536

def axisEnc (s : State) (a : Nat) : Option Nat :=
  let i := s.fld (O.AX_CONFIG a) B.AX_CONFIG_ENC_PI
  if i < 12 then some i else none
/-- HALL_PI is ignored on a stepper (Table 14.9). -/
def axisHall (s : State) (a : Nat) : Option Nat :=
  let i := s.fld (O.AX_CONFIG a) B.AX_CONFIG_HALL_PI
  if i < 12 ∧ 16 ≤ a then some i else none
/-- The step input of a stepper in step-input mode (R402). -/
def stepInput (s : State) (a : Nat) : Option Nat :=
  let c := s.get (O.DS_CONFIG a)
  if a < 16 ∧ bitOf c B.DS_CONFIG_STEP_MODE ∧ fieldOf c B.DS_CONFIG_STEP_PI < 12 then some (fieldOf c B.DS_CONFIG_STEP_PI)
  else none
def axisState (s : State) (a : Nat) : Nat := s.get (O.AX_STATE a)
/-- The interfaces an axis binds (R93, R402). -/
def axisBinds (s : State) (a i : Nat) : Bool :=
  decide (axisEnc s a = some i ∨ axisHall s a = some i) || (decide (stepInput s a = some i) && decide (axisState s a ≠ 0))

def stones : List Nat := List.range 64
def relays : List Nat := List.range 4
def msEnabled (s : State) (m : Nat) : Bool := s.bit (O.MS_CONTROL m) B.MS_CONTROL_ENABLE
def msPi (s : State) (m : Nat) : Nat := s.fld (O.MS_CONTROL m) B.MS_CONTROL_PI
def relayMode (s : State) (a : Nat) : Nat := s.fld (O.RL_CONFIG a) B.RL_CONFIG_MODE
def relaySource (s : State) (a : Nat) : Nat := s.fld (O.RL_CONFIG a) B.RL_CONFIG_SOURCE

/-! ### Milestones -/

def msCompare (s : State) (m : Nat) : Nat := s.get (O.MS_COMPARE_LO m) + 2 ^ 32 * s.get (O.MS_COMPARE_HI m)
def State.setCompare (s : State) (m v : Nat) : State :=
  (s.set (O.MS_COMPARE_LO m) v).set (O.MS_COMPARE_HI m) (v / 2 ^ 32)
def msDown (s : State) (m : Nat) : Bool := s.bit (O.MS_CONTROL m) B.MS_CONTROL_DIR
/-- How far the position is past the compare value in the milestone's direction, in pu (R98). -/
def msPast (s : State) (m : Nat) : Int :=
  let d := posDiff (piPos s (msPi s m)) (msCompare s m)
  if msDown s m then -d else d
/-- The compare value moves on by whole spacings. -/
def State.msMove (s : State) (m n : Nat) : State :=
  let d : Int := (n * s.get (O.MS_SPACING m) : Nat)
  s.setCompare m (posAdd (msCompare s m) (if msDown s m then -d else d))

/-- A claim (R100): refused with another owner or on an interface that is off; else the milestone is enabled, and passed
compares are skipped (R99). -/
def State.msClaim (s : State) (m owner : Nat) : WRes :=
  let held := s.get (O.MS_OWNER m)
  if held ≠ 0 ∧ held ≠ owner then .no (s.raiseAt (O.MS_OWNER m) 541) abLocal
  else if piMode s (msPi s m) = 0 then .no s abState
  else
    let s := ((s.set (O.MS_OWNER m) owner).setB (O.MS_CONTROL m) B.MS_CONTROL_ENABLE true).set (O.MS_STATUS m) 1
    if 0 ≤ msPast s m then
      let n := (msPast s m).toNat / s.get (O.MS_SPACING m) + 1
      .ok ((s.msMove m n).addC (O.MS_MISSED m) n)
    else .ok s

/-- Clearing ENABLE releases the owner (R100). -/
def State.msRelease (s : State) (m : Nat) (done : Bool := false) : State :=
  ((s.setB (O.MS_CONTROL m) B.MS_CONTROL_ENABLE false).set (O.MS_OWNER m) 0).set (O.MS_STATUS m) (2 * done.toNat)

/-! ### Relays -/

/-- The levels of the pairs of a relay that passes its source on (R101); PASS_FILTERED holds or drives idle in fault. -/
def State.relaySync (s : State) (a : Nat) : State :=
  let inv := s.fld (O.RL_CONFIG a) B.RL_CONFIG_INVERT
  let i := relaySource s a
  let lev := xorW (s.fld (O.PI_STATUS i) B.PI_STATUS_INPUT) inv
  match relayMode s a with
  | 0 => s.set (O.RL_STATUS a) 0
  | 1 => s.set (O.RL_STATUS a) lev
  | 2 => if piFault s i then (if s.bit (O.RL_CONFIG a) B.RL_CONFIG_HOLD_ON_FAULT then s else s.set (O.RL_STATUS a) 0)
         else s.set (O.RL_STATUS a) lev
  | _ => s

/-- The relays that pass interface `i` on follow it. -/
def State.relayFollow (s : State) (i : Nat) : State :=
  s.forAll relays (fun s a => if relaySource s a = i then s.relaySync a else s)

/-- A relay pair claimed by a maintenance activity (R361). -/
def relayClaimed (s : State) (a pair : Nat) : Bool := (List.range 8).any (fun k => (s.mt k).relay = some (4 * pair + a))

/-- A level and the end of its pulse after an operation: 1 SET, 2 CLEAR, 3 TOGGLE, 4 PULSE (R102). -/
def relayStep (now : Nat) (p : Bool × Option Nat) (op : Nat × Nat × Nat) : Bool × Option Nat :=
  match op.2.1 with
  | 1 => (true, none)
  | 2 => (false, none)
  | 3 => (!p.1, none)
  | 4 => (true, some (now + 64 * op.2.2))
  | _ => p

/-- An operation put in its place among those of its tick. -/
def relayIns (x : Nat × Nat × Nat) : List (Nat × Nat × Nat) → List (Nat × Nat × Nat)
  | [] => [x]
  | y :: l => if x.1 < y.1 then x :: y :: l else y :: relayIns x l

/-- Drive a pair of a relay in OUTPUT mode: 1 SET, 2 CLEAR, 3 TOGGLE, 4 PULSE of `width` FIRE ticks (R102). Operations of one
FIRE tick apply in the order that `place` gives them: 0 to 255 action entries, 256 on milestones. -/
def State.relayDrive (s : State) (a pair op width : Nat) (place : Nat := 320) : State :=
  let key := 4 * a + pair
  let lev := s.get (O.RL_STATUS a)
  let x := s.relPair key
  let x := if x.tick = some (s.up / 64) then x
    else { x with tick := some (s.up / 64), base := bitOf lev pair, baseEnd := x.pulse, ops := [] }
  let ops := relayIns (place, op, width) x.ops
  let r := ops.foldl (relayStep s.up) (x.base, x.baseEnd)
  (s.setRelPair key { x with pulse := r.2, ops := ops }).set (O.RL_STATUS a) (putBit lev pair r.1)

/-- An operation from a milestone or an action: discarded unless the relay is in OUTPUT mode and unclaimed (R102, R361). -/
def State.relayOp (s : State) (a pair op width place : Nat) : State :=
  if relayMode s a ≠ 3 ∨ relayClaimed s a pair then s.hit (O.RL_EVENTS a) 0 541 else s.relayDrive a pair op width place

/-- RELAY_PULSE_END (R102): the width of a PULSE runs out. -/
def execRelayPulseEnd (a pair t : Nat) (s : State) : Host.Outcome State Fault Refusal :=
  let s := s.adv t
  match (s.relPair (4 * a + pair)).pulse with
  | some e =>
    if s.up < e then .next s
    else
      let s := { s with pulses := tdel s.pulses (4 * a + pair) }
      .next (if relayMode s a = 3 then s.set (O.RL_STATUS a) (putBit (s.get (O.RL_STATUS a)) pair false) else s)
  | none => .next s

/-! ### Motion inhibits (R474) -/

/-- A STOP inhibit of motion or the clock inhibit stands: pushes and enables are refused. -/
def motionStopped (s : State) : Bool := s.bit O.MD_INHIBIT_STATUS B.MD_INHIBIT_STATUS_MOTION_STOP || clockInhibit s
/-- Motion outputs are forced off by an inhibit or by SAFE. -/
def motionOff (s : State) : Bool := s.bit O.MD_INHIBIT_STATUS B.MD_INHIBIT_STATUS_MOTION_OFF || decide (s.mode = mdSafe)

end Sys2Proof.Machine
end

