-- ==== Sys2Proof/Machine/Drive.lean ====
section
/-! DEFINITION. The drive stage of an axis: sine tables, chop codes, the chopper, standstill current, commutation and the
bridges (R394 to R408, R413). A MOT cycle is 10 ns, 256 fu. -/
namespace Sys2Proof.Machine

def fuMot : Nat := 256
def steppers : List Nat := List.range 16
def brushless : List Nat := [16, 17, 18, 19]
def isStepper (a : Nat) : Bool := decide (a < 16)

/-! ### Sine tables (R396, R397) -/

def sineEntry (s : State) (t i : Nat) : Nat := s.mgetLE (domAddr (0x5300 + t) (16 + 2 * i)) 2
def sineNamed (s : State) (a : Nat) : Nat := s.fld (O.DS_CONFIG a) B.DS_CONFIG_SINE
def sineValid (s : State) (t : Nat) : Bool :=
  let b := domAddr (0x5300 + t)
  decide (s.mgetLE (b 0) 2 = 0x5354 ∧ s.mgetLE (b 2) 2 = 256)
    && (List.range 12).all (fun k => decide (s.mget (b (4 + k)) = 0))
    && (List.range 256).all (fun i => decide (sineEntry s t i < 4096))
/-- A table is in use while a stage that names it belongs to a stepper that is not DISABLED (R397). -/
def sineInUse (s : State) (t : Nat) : Bool := steppers.any (fun a => decide (sineNamed s a = t ∧ axisState s a ≠ 0))

/-! ### Configuration (R413) -/

/-- The stage obeys the rules that R413 and R414 set its objects (DEDUCED, log 41). -/
def stageConfigured (s : State) (a : Nat) : Bool :=
  let r := s.get (O.DS_RSENSE a)
  let oc := s.get (O.DS_OC_LIMIT a)
  decide (r ≠ 0 ∧ oc * r ≤ 500000) &&
  (if a < 16 then
    let run := s.get (O.DS_I_RUN a)
    decide (run ≠ 0 ∧ run < oc ∧ s.get (O.DS_I_HOLD a) ≤ run ∧ s.get (O.DS_FAST a) ≤ s.get (O.DS_TOFF a))
      && (!s.bit (O.DS_CONFIG a) B.DS_CONFIG_STEP_MODE ||
        (match stepInput s a with
        | some i => decide (piMode s i ≠ 0)
        | none => false))
      && sineValid s (sineNamed s a)
  else
    let lim := s.get (O.DS_I_LIMIT a)
    decide (lim ≠ 0 ∧ lim < oc ∧ s.get (O.DS_DEAD a) * 4 < s.get (O.DS_PWM_PERIOD a)))

/-- Every output of the stage is forced to logical 0 (R408). -/
def outputsOff (s : State) (a : Nat) : Bool := s.bit (O.DS_STATUS a) B.DS_STATUS_OUTPUTS_OFF

/-! ### Stepper currents (R394, R396, R398, R401) -/

/-- MOT cycles since the last step of the profiles, at most the 1,000 of a step (R370). -/
def stepCycles (s : State) : Nat := min 1000 ((s.up - s.clk.profAt.getD 0) / fuMot)

/-- A stepper's position now in thousandths of 2^-32 au: what a step of the profile adds is spread linearly over the 1,000 MOT
cycles that follow it (R370) (DEDUCED, log 122). -/
def fineP (s : State) (a : Nat) : Int := 1000 * (s.ax a).p - (s.ax a).step * (1000 - stepCycles s : Nat)

/-- The microstep: the position less the axis's own offset, in whole au. -/
def microstep (s : State) (a : Nat) : Int := Int.fdiv (fineP s a - 1000 * (s.ax a).mOff) (1000 * 2 ^ 32)

/-- Target of phase `p` for a microstep: negative sign, and amplitude (Table 15.3). -/
def phaseTarget (s : State) (t : Nat) (m : Int) (p : Nat) : Bool × Nat :=
  let e := (m % 1024).toNat
  let q := e / 256
  let i := e % 256
  let j := if (q + p) % 2 = 0 then i else 255 - i
  (if p = 0 then decide (2 ≤ q) else decide (q = 1 ∨ q = 2), sineEntry s t j)

/-- The code of a target of `amp` of 4,095 of a current in mA (R398). -/
def chopCode (s : State) (a amp : Nat) (mA : Nat × Nat) : Nat :=
  (divRound (amp * mA.1 * s.get (O.DS_RSENSE a) : Nat) (500000 * mA.2)).toNat

/-- The code of a current of `mA / den` (R394). -/
def ampCode (s : State) (a mA den : Nat) : Nat := (divRound (mA * s.get (O.DS_RSENSE a) * 4095 : Nat) (den * 500000)).toNat

/-- A comparator trips: the input of `uv` µV exceeds the output of its DAC, of full scale 500 mV (R394). -/
def trips (code uv : Nat) : Bool := decide (500000 * code < 4095 * uv)

/-- Steps of the ramp to the standstill current: one every 10 µs (R401). -/
def holdSteps (s : State) (a : Nat) : Nat := s.get (O.DS_HOLD_RAMP a) * 100
/-- I_set in mA, as a fraction (R401). -/
def setCurrent (s : State) (a : Nat) : Nat × Nat :=
  let run := s.get (O.DS_I_RUN a)
  if s.bit (O.DS_STATUS a) B.DS_STATUS_HOLD then
    let n := holdSteps s a
    let fall := run - s.get (O.DS_I_HOLD a)
    if n = 0 then (run - fall, 1) else (run * n - fall * min (s.ds a).hold n, n)
  else (run, 1)

def Drive.phase (d : Drive) (p : Nat) : Phase := tget {} d.phases p
def Drive.setPhase (d : Drive) (p : Nat) (x : Phase) : Drive := { d with phases := tput d.phases p x }

/-- A phase after a new target (R398, R399): code 0 holds it in SLOW; from there a code starts an on-time. -/
def Phase.aim (x : Phase) (neg : Bool) (code now : Nat) : Phase :=
  if code = 0 then { x with st := .slow, want := neg, code := 0, at' := now }
  else if x.st = .slow then { x with st := .on, neg := neg, want := neg, code := code, codeOn := code, at' := now, dead := false, trip := now }
  else { x with want := neg, code := code }

/-- The sign and the chop code of each phase of a stepper now (R396, R398). -/
def chopCodes (s : State) (a : Nat) : List (Bool × Nat) :=
  [0, 1].map (fun p => let g := phaseTarget s (sineNamed s a) (microstep s a) p
    (g.1, chopCode s a g.2 (setCurrent s a)))

/-- DS_DAC of a stepper: the codes in force (R398). -/
def dacWord (s : State) (a : Nat) : Nat :=
  if outputsOff s a then 0 else ((chopCodes s a).getD 1 (false, 0)).2 * 65536 + ((chopCodes s a).getD 0 (false, 0)).2

/-- Recompute the chop codes of a stepper (R398); DS_DAC shows them. -/
def State.codes (s : State) (a : Nat) : State :=
  if 16 ≤ a then s
  else if outputsOff s a then (s.setDs a { s.ds a with phases := [] }).set (O.DS_DAC a) 0
  else
    let d := (chopCodes s a).zipIdx.foldl (fun (d : Drive) c => d.setPhase c.2 ((d.phase c.2).aim c.1.1 c.1.2 s.up)) (s.ds a)
    (s.setDs a d).set (O.DS_DAC a) (dacWord s a)

/-- The microstep is at rest from now: a change ends the standstill current (R401). -/
def State.restNow (s : State) (a : Nat) : State :=
  (s.setDs a { s.ds a with restAt := s.up, m := microstep s a, hold := 0 }).setB (O.DS_STATUS a) B.DS_STATUS_HOLD false

/-- Follow the microstep: each change is noted, and the codes are formed anew. -/
def State.microSync (s : State) (a : Nat) : State :=
  if 16 ≤ a then s
  else
    let s := if microstep s a = (s.ds a).m then s else s.restNow a
    s.codes a

/-- One step of the ramp to the standstill current (R401). -/
def State.holdStep (s : State) (a : Nat) : State :=
  let d := s.ds a
  if s.bit (O.DS_STATUS a) B.DS_STATUS_HOLD ∧ d.hold < holdSteps s a then
    let s := s.setDs a { d with hold := d.hold + 1 }
    if d.hold + 1 = holdSteps s a then s.hit (O.DS_EVENTS a) B.DS_EVENTS_HOLD_ENTERED (520 + a) else s
  else s

/-! ### The chopper (R399, R400) -/

/-- Fast cycles of the off-time that follows an on-time (R400). -/
def fastCycles (s : State) (a : Nat) (x : Phase) : Nat :=
  let toff := s.get (O.DS_TOFF a)
  if x.want ≠ x.neg then toff
  else match s.fld (O.DS_CONFIG a) B.DS_CONFIG_DECAY with
    | 0 => 0
    | 1 => min (s.get (O.DS_FAST a)) toff
    | 2 => if x.code < x.codeOn then min (s.get (O.DS_FAST a)) toff else 0
    | _ => toff

/-- The on-time ends and the off-time begins. -/
def State.phaseOff (s : State) (a p : Nat) : State :=
  let x := (s.ds a).phase p
  s.setDs a ((s.ds a).setPhase p { x with st := .off, at' := s.up, fast := fastCycles s a x })

/-- The off-time ends and the next on-time begins with the sign of the target; after a fast decay to its end in the
opposite drive state it passes through OFF. -/
def State.phaseOn (s : State) (a p : Nat) : State :=
  let x := (s.ds a).phase p
  s.setDs a ((s.ds a).setPhase p { x with st := .on, at' := s.up, neg := x.want, codeOn := x.code,
                                          dead := decide (s.get (O.DS_TOFF a) ≤ x.fast) && decide (x.want = x.neg) })

/-- The states of a stepper phase (Table 15.2). -/
inductive Bridge where
  | drivePos | driveNeg | slow | off
  deriving DecidableEq, Repr

def driveOf (neg : Bool) : Bridge := if neg then .driveNeg else .drivePos

/-- The state of phase `p` now (R395, R399, R400). -/
def bridgeState (s : State) (a p : Nat) : Bridge :=
  let x := (s.ds a).phase p
  let dead := s.get (O.DS_DEAD a) * fuMot
  if outputsOff s a then .off
  else match x.st with
    | .slow => .slow
    | .on => if x.dead ∧ s.up < x.at' + dead then .off else driveOf x.neg
    | .off => if s.up < x.at' + x.fast * fuMot then (if s.up < x.at' + dead then .off else driveOf (!x.neg)) else .slow

/-- The levels xH and xL of a stepper phase (Table 15.2). -/
def Bridge.levels : Bridge → Bool × Bool
  | .drivePos => (true, false)
  | .driveNeg => (false, true)
  | .slow => (true, true)
  | .off => (false, false)

/-! ### Brushless commutation (R404 to R407) -/

/-- The step of a valid Hall code in Table 4.2. -/
def hallStep : Nat → Option Nat
  | 1 => some 0
  | 3 => some 1
  | 2 => some 2
  | 6 => some 3
  | 4 => some 4
  | 5 => some 5
  | _ => none

def hallCode (s : State) (i : Nat) : Nat := s.fld (O.PI_STATUS i) B.PI_STATUS_INPUT

/-- The sector of an axis (R404); none while its Hall code is invalid. -/
def sectorOf (s : State) (a : Nat) : Option Nat :=
  match axisHall s a with
  | none => none
  | some i => match hallStep (hallCode s i) with
    | none => none
    | some h => some ((h + s.fld (O.DS_CONFIG a) B.DS_CONFIG_HALL_SHIFT + if (s.ax a).tau < 0 then 3 else 0) % 6)

/-- Source and sink phase of a sector (Table 15.5): 0 U, 1 V, 2 W. -/
def sectorPhases : Nat → Nat × Nat
  | 0 => (0, 1)
  | 1 => (0, 2)
  | 2 => (1, 2)
  | 3 => (1, 0)
  | 4 => (2, 0)
  | _ => (2, 1)

/-- The current threshold code for a torque demand (R406). -/
def pwmCode (s : State) (a : Nat) : Nat := ampCode s a ((s.ax a).tau.natAbs * s.get (O.DS_I_LIMIT a)) 32768

def pwmMode (s : State) (a : Nat) : Nat := s.fld (O.DS_CONFIG a) B.DS_CONFIG_PWM_MODE

/-- The uptime at which the period's on-time ends by itself: in COMPLEMENTARY DS_DEAD cycles before the period does (R406). -/
def onEnd (s : State) (a : Nat) : Nat :=
  let per := s.get (O.DS_PWM_PERIOD a)
  (s.ds a).onAt.getD 0 + (if pwmMode s a = 1 then per - s.get (O.DS_DEAD a) else per) * fuMot

/-- The period's on-time runs now. -/
def onTime (s : State) (a : Nat) : Bool := (s.ds a).on && decide (s.up < onEnd s a)

/-- The stage's record with an on-time that has run out ended where it did: the switch it chops fell there (R406). -/
def ranOut (s : State) (a : Nat) : Drive :=
  let d := s.ds a
  if d.on && decide (onEnd s a ≤ s.up) then
    let hi := andW d.want 0x15
    let lo := andW d.want 0x2A
    let w := match pwmMode s a with
      | 0 => lo
      | 1 => 2 * hi + lo
      | _ => hi
    { d with on := false, want := w, fell := (bitsOf 6 d.want).foldl (fun l b => if bitOf w b then l else tput l b (onEnd s a)) d.fell }
  else d

/-- The outputs asked for (R404 to R406, R410): bits UH, UL, VH, VL, WH, WL from bit 0. -/
def bdWanted (s : State) (a : Nat) : Nat :=
  let d := s.ds a
  if outputsOff s a ∨ d.code = 0 ∨ d.cut then 0
  else match sectorOf s a with
    | none => 0
    | some k =>
      let (src, snk) := sectorPhases k
      let hi := 2 ^ (2 * src)
      let lo := 2 ^ (2 * snk + 1)
      if onTime s a then hi + lo
      else match pwmMode s a with
        | 0 => lo
        | 1 => 2 ^ (2 * src + 1) + lo
        | _ => hi

/-- Take over the outputs asked for, noting which fell (R407), and the threshold codes shown. -/
def State.bdSync (s : State) (a : Nat) : State :=
  if a < 16 then s
  else
    let d := ranOut s a
    let s := s.setDs a d
    let w := bdWanted s a
    let fell := (bitsOf 6 d.want).foldl (fun l b => if bitOf w b then l else tput l b s.up) d.fell
    let s := s.setDs a { d with want := w, fell := fell }
    let snk := match sectorOf s a with
      | some k => (sectorPhases k).2
      | none => 3
    let code := if outputsOff s a then 0 else d.code
    s.set (O.DS_DAC a) ((if snk = 1 then code * 65536 else 0) + if snk = 0 then code else 0)

/-- The logical levels of a brushless stage now: an output rises DS_DEAD cycles after its half-bridge's other output fell
(R407). -/
def bdLevels (s : State) (a : Nat) : Nat :=
  let d := ranOut s a
  maskOf ((bitsOf 6 d.want).filter (fun b => match d.fell.find? (fun x => x.1 = xorW b 1) with
    | some x => decide (x.2 + s.get (O.DS_DEAD a) * fuMot ≤ s.up)
    | none => true))

/-- The levels at the stage's balls, xH and xL of each phase from bit 0: POL_H and POL_L invert the high-side and the low-side
outputs, and while the device is in RESET every ball is low (R408, R544). -/
def stageBalls (s : State) (a : Nat) : Nat :=
  let pair := fun (b : Bool × Bool) => b.1.toNat + 2 * b.2.toNat
  let w := if a < 16 then pair (bridgeState s a 0).levels + 4 * pair (bridgeState s a 1).levels else bdLevels s a
  let mask := if a < 16 then 0xF else 0x3F
  let inv := (if s.bit (O.DS_CONFIG a) B.DS_CONFIG_POL_H then 0x15 else 0) + if s.bit (O.DS_CONFIG a) B.DS_CONFIG_POL_L then 0x2A else 0
  if s.mode = mdReset ∨ s.mode = mdBoot then 0 else xorW w (andW inv mask)

/-- An axis's Hall code became invalid or valid (R405). -/
def State.hallSync (s : State) (a : Nat) : State :=
  match axisHall s a with
  | none => s
  | some i =>
    let bad := decide (piMode s i = 2) && (hallStep (hallCode s i)).isNone && decide (axisState s a ≠ 0)
    let was := (s.ds a).badHall
    let s := s.setDs a { s.ds a with badHall := bad }
    (if bad && !was then s.hit (O.DS_EVENTS a) B.DS_EVENTS_HALL_INVALID (520 + a) else s).bdSync a

/-! ### Forcing off and releasing -/

/-- Every output of the stage off (R408). -/
def State.stageOff (s : State) (a : Nat) : State :=
  let s := s.setB (O.DS_STATUS a) B.DS_STATUS_OUTPUTS_OFF true
  let s := s.setDs a { s.ds a with on := false, onAt := none, code := 0 }
  (s.codes a).bdSync a

/-- The outputs work again. -/
def State.stageOn (s : State) (a : Nat) : State :=
  let s := s.setB (O.DS_STATUS a) B.DS_STATUS_OUTPUTS_OFF false
  ((s.restNow a).codes a).bdSync a

end Sys2Proof.Machine
end

