-- ==== Sys2Proof/Machine/Profile.lean ====
section
/-! DEFINITION. The planner of motion profiles (R369, R370, R373, R374, R380). Positions, velocities and accelerations are
integers in 2^-32 au, au/s and au/s² (R367); elapsed time is in 2^-40 fu. -/
namespace Sys2Proof.Machine

/-- Elapsed units in one second and in the 10 µs of a step (R370). -/
def secU : Nat := fuS * 2 ^ 40
def stepU : Nat := 10 * fuUs * 2 ^ 40

/-- Acceleration, velocity and position `e` units into a stretch. -/
def Seg.accAt (g : Seg) (e : Nat) : Int := g.acc + Int.fdiv (g.jerk * e) secU
def Seg.velAt (g : Seg) (v : Int) (e : Nat) : Int :=
  v + Int.fdiv (2 * g.acc * e * secU + g.jerk * e * e) (2 * secU * secU)
/-- The position `e` into a stretch entered at `p` with velocity `v`, floored (DEDUCED, log 39). -/
def Seg.posAt (g : Seg) (p v : Int) (e : Nat) : Int :=
  p + Int.fdiv (6 * v * e * secU * secU + 3 * g.acc * e * e * secU + g.jerk * e * e * e) (6 * secU * secU * secU)

def totalDur (l : List Seg) : Nat := l.foldl (fun n g => n + g.dur) 0

/-- Position and velocity at the end of a list of stretches. -/
def runSegs : List Seg → Int × Int → Int × Int
  | [], x => x
  | g :: l, x => runSegs l (g.posAt x.1 x.2 g.dur, g.velAt x.2 g.dur)

/-- Position, velocity and acceleration `e` units into a list of stretches; past its end the velocity holds. -/
def evalSegs : List Seg → Int → Int → Nat → Int × Int × Int
  | [], p, v, e => (p + Int.fdiv (v * e) secU, v, 0)
  | g :: l, p, v, e =>
    if e < g.dur then (g.posAt p v e, g.velAt v e, g.accAt e)
    else evalSegs l (g.posAt p v g.dur) (g.velAt v g.dur) (e - g.dur)

def Seg.neg (g : Seg) : Seg := ⟨g.dur, -g.acc, -g.jerk⟩

/-- Elapsed units of `num / den` seconds. -/
def secOf (num den : Int) : Nat := (Int.fdiv (2 * num * secU + den) (2 * den)).toNat

/-- A jerk of 1,000 au/s³ units in 2^-32 au/s³, and a limit of au/s² in 2^-32 au/s². -/
def jerkU (j : Nat) : Int := (j * 1000 * 2 ^ 32 : Nat)
def accU (a : Nat) : Int := (a * 2 ^ 32 : Nat)

/-- The velocity rises from `v0` to `v1` and the acceleration goes from `a0` to `a1`, neither negative, in the least time
under a limit and a jerk (0 for none) (DEDUCED, log 39). -/
def ramp (v0 a0 v1 a1 : Int) (lim jerk : Nat) : List Seg :=
  if v1 ≤ v0 then []
  else if jerk = 0 then [⟨secOf (v1 - v0) (accU lim), accU lim, 0⟩]
  else
    let j := jerkU jerk
    let pk := max (max a0 a1) (min (accU lim) (isqrt (j * (v1 - v0) + (a0 * a0 + a1 * a1) / 2).toNat))
    let rest := (v1 - v0) - (2 * pk * pk - a0 * a0 - a1 * a1) / (2 * j)
    [⟨secOf (pk - a0) j, a0, j⟩, ⟨if rest ≤ 0 then 0 else secOf rest pk, pk, 0⟩, ⟨secOf (pk - a1) j, pk, -j⟩]

/-- The velocity at which the acceleration is brought to rest at once. -/
def settleV (v a : Int) (jerk : Nat) : Int :=
  if jerk = 0 then v else v + Int.tdiv (a * a.natAbs) (2 * jerkU jerk)

/-- The change to a velocity not below the one at which the acceleration comes to rest: `dec` limits the acceleration
while |v| falls and `acc` while it rises. -/
def climb (v0 a0 v1 : Int) (acc dec jerk : Nat) : List Seg :=
  if jerk = 0 then
    if 0 ≤ v0 then ramp v0 0 v1 0 acc 0
    else if v1 ≤ 0 then ramp v0 0 v1 0 dec 0
    else ramp v0 0 0 0 dec 0 ++ ramp 0 0 v1 0 acc 0
  else
    let j := jerkU jerk
    let pre : List Seg := if a0 < 0 then [⟨secOf (-a0) j, a0, j⟩] else []
    let v1' := if a0 < 0 then v0 - a0 * a0 / (2 * j) else v0
    let a1' := max a0 0
    let lim := accU (if v1' < 0 then dec else acc)
    let cut : List Seg := if lim < a1' then [⟨secOf (a1' - lim) j, a1', -j⟩] else []
    let v := if lim < a1' then v1' + (a1' * a1' - lim * lim) / (2 * j) else v1'
    let a := min a1' lim
    pre ++ cut ++
      (if 0 ≤ v then ramp v a v1 0 acc jerk
      else if v1 ≤ 0 then ramp v a v1 0 dec jerk
      else
        let free := min (accU dec) (isqrt (a * a - 2 * j * v).toNat)
        let least : Int := isqrt (a * a + 2 * j * v).toNat
        let az := max least (min free (min (accU acc) (isqrt (2 * j * v1).toNat)))
        ramp v a 0 az dec jerk ++ ramp 0 az v1 0 acc jerk)

/-- The least-time change from a velocity and acceleration to a velocity held (R369). -/
def velTo (v0 a0 v1 : Int) (acc dec jerk : Nat) : List Seg :=
  if settleV v0 a0 jerk ≤ v1 then climb v0 a0 v1 acc dec jerk
  else (climb (-v0) (-a0) (-v1) acc dec jerk).map Seg.neg

/-- The distance a velocity change covers. -/
def velDist (v0 a0 v1 : Int) (acc dec jerk : Nat) : Int := (runSegs (velTo v0 a0 v1 acc dec jerk) (0, v0)).1

/-- The greatest number of a range, to one unit, at which a rising function has not passed a bound
(DEDUCED, log 39). -/
def bisect (f : Int → Int) (d : Int) : Nat → Int → Int → Int
  | 0, lo, _ => lo
  | n + 1, lo, hi => let m := (lo + hi) / 2; if f m ≤ d then bisect f d n m hi else bisect f d n lo m

/-- A move forward over a distance from a velocity and acceleration to an end velocity, under a velocity limit: the peak
is the greatest that the distance allows. Answers the stretches, the elapsed time at which the peak is reached when it
is the limit, that of the last deceleration, and the end velocity reached. -/
def forward (d v0 a0 vj vmax : Int) (acc dec jerk : Nat) : List Seg × Option Nat × Nat × Int :=
  let dist := fun ve => velDist v0 a0 ve acc dec jerk
  let ve := if vj ≤ v0 ∨ dist vj ≤ d then vj else bisect dist d 64 0 vj
  let two := fun vp => dist vp + velDist vp 0 ve acc dec jerk
  let vs := min vmax (max ve (settleV v0 a0 jerk))
  let vp := if two vmax ≤ d then vmax else if two vs ≤ d then bisect two d 64 vs vmax else bisect two d 64 ve vs
  let rest := d - two vp
  let up := velTo v0 a0 vp acc dec jerk
  let hold := if 0 < vp ∧ 256 < rest then secOf rest vp else 0
  (up ++ [⟨hold, 0, 0⟩] ++ velTo vp 0 ve acc dec jerk, if vp = vmax then some (totalDur up) else none, totalDur up + hold, ve)

/-- A position move (R369): the end velocity `vj` and the limit are magnitudes (DEDUCED, log 39). -/
def planTo (p v a target vj vmax : Int) (acc dec jerk : Nat) : Plan :=
  if velDist v a 0 acc dec jerk ≤ target - p then
    let r := forward (target - p) v a vj vmax acc dec jerk
    { p := p, v := v, segs := r.1, goal := some target, endV := r.2.2.2, reached := r.2.1, brake := r.2.2.1 }
  else
    let r := forward (p - target) (-v) (-a) vj vmax acc dec jerk
    { p := p, v := v, segs := r.1.map Seg.neg, goal := some target, endV := -r.2.2.2, reached := r.2.1, brake := r.2.2.1 }

/-- A change to a velocity that then holds (R374), and a decelerating stop (R380). -/
def planVel (p v a target : Int) (acc dec jerk : Nat) : Plan :=
  let l := velTo v a target acc dec jerk
  { p := p, v := v, segs := l, endV := target, reached := some (totalDur l), brake := totalDur l }
def planStop (p v a : Int) (dec jerk : Nat) : Plan := planVel p v a 0 dec dec jerk

/-- The setpoint ramps down to a cap at a deceleration without jerk limit, before the rest of a plan (R387). -/
def slowRamp (v : Int) (cap : Int) (dec : Nat) : List Seg :=
  if cap < v then [⟨secOf (v - cap) (accU dec), -accU dec, 0⟩]
  else if v < -cap then [⟨secOf (-cap - v) (accU dec), accU dec, 0⟩]
  else []

/-- Elapsed units of a plan, and whether it has run out. -/
def Plan.elapsed (x : Plan) : Nat := x.k * stepU
def Plan.beyond (x : Plan) : Bool := decide (totalDur x.segs ≤ x.elapsed)

/-- Position, velocity and acceleration of a plan at its present step: the end point is taken exactly (R370)
(DEDUCED, log 39). -/
def Plan.now (x : Plan) : Int × Int × Int :=
  match x.goal with
  | some g => if x.beyond then (g, x.endV, 0) else evalSegs x.segs x.p x.v x.elapsed
  | none => if x.beyond then
      let r := runSegs x.segs (x.p, x.v)
      (r.1 + Int.fdiv (x.endV * ((x.elapsed - totalDur x.segs : Nat) : Int)) secU, x.endV, 0)
    else evalSegs x.segs x.p x.v x.elapsed

/-- The greatest velocity from which a move of a length still reaches an end velocity under its deceleration (R373). -/
def maxStart (d ve vmax : Int) (dec jerk : Nat) : Int :=
  if vmax ≤ ve ∨ velDist vmax 0 ve dec dec jerk ≤ d then vmax
  else bisect (fun u => velDist u 0 ve dec dec jerk) d 64 ve vmax

end Sys2Proof.Machine
end

