-- ==== Sys2Proof/Machine/Motion.lean ====
section
/-! DEFINITION. Motion axes: positions, stops and halts, the move queue, the running profile, interpolation groups and the
step input (chapter 14, R402, R403). -/
namespace Sys2Proof.Machine

/-! ### Position and velocity (R367, R383, R384) -/

def State.axHit (s : State) (a bit : Nat) (cls : Nat := 0) : State := s.hit (O.AX_EVENTS a) bit (520 + a) cls
def axCfg (s : State) (a i : Nat) : Bool := s.bit (O.AX_CONFIG a) i
def auU : Int := 2 ^ 32

/-- The position source of a brushless axis; a stepper's encoder (Table 14.1). -/
def axisSource (s : State) (a : Nat) : Option Nat :=
  match axisEnc s a with
  | some i => some i
  | none => axisHall s a

/-- The measured position in 2^-32 au (R367, R384). -/
def measured (s : State) (a : Nat) : Option Int :=
  let x := s.ax a
  match axisSource s a with
  | none => none
  | some _ => some (if a < 16 then x.ext * s.getI (O.AX_ENC_RATIO a) * 65536 + x.off else (x.ext + x.off) * auU)

/-- The measured velocity in au/s; 0 without a measured source. -/
def measuredVel (s : State) (a : Nat) : Int :=
  match axisSource s a with
  | none => 0
  | some i => if a < 16 then divRound (s.getI (O.PI_SPEED i) * 1000000 * s.getI (O.AX_ENC_RATIO a)) (2 ^ 32) else piRate s i

/-- AX_POS in whole au. -/
def axisPos (s : State) (a : Nat) : Int :=
  if a < 16 then divRound (s.ax a).p (2 ^ 32) else (s.ax a).ext + (s.ax a).off

def qLen (s : State) (a : Nat) : Nat := (s.ax a).queue.length

/-- Take over an axis's record into its objects. -/
def State.axShow (s : State) (a : Nat) : State :=
  let x := s.ax a
  let s := ((s.setI (O.AX_POS a) (axisPos s a)).setI (O.AX_VEL a) (divRound x.v (2 ^ 32))).setSat (O.AX_VEL_MEAS a) (measuredVel s a)
  let s := s.setSat (O.AX_FOLLOW a) (match measured s a with
    | some m => divRound (x.p - m) (2 ^ 32)
    | none => 0)
  let s := (s.set (O.AX_Q_COUNT a) x.queue.length).setB (O.AX_STATUS a) B.AX_STATUS_QUEUE_FULL (decide (16 ≤ x.queue.length))
  let s := s.setB (O.AX_STATUS a) B.AX_STATUS_IN_GROUP (decide (2 ≤ s.get (O.AX_OWNER a)))
  s.setB (O.AX_STATUS a) B.AX_STATUS_ENABLED (decide (axisState s a ≠ 0))

/-- Put an axis's record back and show it; a stepper's chop codes follow its microstep. -/
def State.putAx (s : State) (a : Nat) (x : Axis) : State := ((s.setAx a x).microSync a).axShow a

/-- The count of the position source is taken over, extended beyond 32 bits. A brushless axis that holds no position
rests where it is. -/
def State.axCount (s : State) (a : Nat) : State :=
  match axisSource s a with
  | none => s
  | some i =>
    let c := s.get (O.PI_COUNT i)
    let x := s.ax a
    let x := { x with ext := x.ext + toSigned 32 (ofSigned 32 ((c : Int) - x.last)), last := c }
    let s := s.setAx a x
    let still := decide (16 ≤ a) && (decide (axisState s a = 0 ∨ axisState s a = 4 ∨ axisState s a = 5)
      || (x.plan.isNone && !axCfg s a B.AX_CONFIG_POS_LOOP))
    (match (if still then measured s a else none) with
      | some m => s.setAx a { s.ax a with p := m }
      | none => s).axShow a

/-! ### Ownership -/

def ownerHost : Nat := 0
def ownerMt : Nat := 1
/-- The interpolation group that owns an axis (R385). -/
def groupOwner (s : State) (a : Nat) : Option Nat :=
  let o := s.get (O.AX_OWNER a)
  if 2 ≤ o then some (o - 2) else none
def members (s : State) (g : Nat) : List Nat := bitsOf 20 (s.get (O.AX_IG_MEMBERS g))
def igFlag (s : State) (g i : Nat) : Bool := s.bit (O.AX_IG_STATUS g) i

/-! ### Disabling, stopping and halting (R368, R380, R381) -/

def State.axState (s : State) (a st : Nat) : State := s.set (O.AX_STATE a) st

/-- Flags that end with the axis's work. -/
def State.axFlagsOff (s : State) (a : Nat) : State :=
  [B.AX_STATUS_SLOWED, B.AX_STATUS_TURN_HOLD, B.AX_STATUS_TRIG_WAIT, B.AX_STATUS_AT_LIMIT, B.AX_STATUS_IN_POSITION].foldl
    (fun s b => s.setB (O.AX_STATUS a) b false) s

/-- The axis at rest with nothing queued. -/
def Axis.rest (x : Axis) : Axis :=
  { x with queue := [], started := false, run := none, plan := none, v := 0, a := 0, trig := false, zSeen := false, cap := none }

/-- The milestone of the axis is released, unless another enabled axis uses it (R378). -/
def State.trigRelease (s : State) (a : Nat) : State :=
  let m := s.get (O.AX_TRIG_MS a)
  if axCfg s a B.AX_CONFIG_TRIG_EN ∧ m < 64 ∧ s.get (O.MS_OWNER m) = 4
      ∧ !axes.any (fun b => decide (b ≠ a ∧ axisState s b ≠ 0 ∧ s.get (O.AX_TRIG_MS b) = m) && axCfg s b B.AX_CONFIG_TRIG_EN) then
    s.msRelease m
  else s

/-- DISABLED: outputs forced off; a stepper without an encoder no longer knows its position (R368, R408). -/
def State.axDisable (s : State) (a : Nat) : State :=
  let s := (s.trigRelease a).axFlagsOff a
  let s := s.setAx a { (s.ax a).rest with step := 0, offAfter := false, i := 0, tau := 0, followAt := none }
  let s := ((s.axState a 0).setB (O.DS_STATUS a) B.DS_STATUS_STEP_FOLLOW false).stageOff a
  (if a < 16 ∧ axisEnc s a = none then s.setB (O.AX_STATUS a) B.AX_STATUS_POS_UNCERTAIN true else s).axShow a

/-- The axis has come to rest after a decelerating stop (R380). -/
def State.axStopped (s : State) (a : Nat) : State :=
  let x := s.ax a
  let s := ((s.setAx a { x.rest with offAfter := false }).axState a 1).axHit a B.AX_EVENTS_STOPPED
  if x.offAfter then s.axDisable a else s.axShow a

/-- The halt of one axis (R381, Table 14.4). -/
def State.axHalt (s : State) (a cause : Nat) : State :=
  let st := axisState s a
  let force := decide (cause ≤ 4)
  if st = 0 ∨ (st = 4 ∧ 6 ≤ cause) then s
  else if st = 5 ∧ cause ≠ 1 then (if force then (s.setB (O.AX_STATUS a) B.AX_STATUS_OUTPUTS_OFF true).stageOff a else s)
  else
    let x := s.ax a
    let moving := decide (x.v ≠ 0) || (decide (16 ≤ a) && decide (measuredVel s a ≠ 0))
    let old := s.get (O.AX_HALT_CAUSE a)
    let s := s.set (O.AX_HALT_CAUSE a) (if st = 4 ∧ old ≠ 0 then min old cause else cause)
    let s := (if moving then s.setB (O.AX_STATUS a) B.AX_STATUS_POS_UNCERTAIN true else s).axFlagsOff a
    let x := if a < 16 then { x with p := Int.fdiv (fineP s a) 1000, step := 0 } else x
    let s := s.setAx a { x.rest with offAfter := false, i := 0, tau := 0, followAt := none }
    let s := s.setB (O.DS_STATUS a) B.DS_STATUS_STEP_FOLLOW false
    let s := if force then (s.setB (O.AX_STATUS a) B.AX_STATUS_OUTPUTS_OFF true).stageOff a
      else if a < 16 then (s.restNow a).codes a
      else (s.setDs a { s.ds a with on := false, onAt := none, code := 0 }).bdSync a
    let s := s.axHit a B.AX_EVENTS_HALTED (if cause = 2 then 1 else 0)
    let fault := decide (3 ≤ cause ∧ cause ≤ 5)
    if cause = 1 then s.axDisable a
    else ((if fault then s.axHit a B.AX_EVENTS_FAULT 1 else s).axState a (if fault then 5 else 4)).axShow a

/-- A group's queue and running move are discarded. -/
def State.igClear (s : State) (g : Nat) (halted : Bool) : State :=
  let s := s.setIg g { s.ig g with queue := [], plan := none, starts := [], v := 0, a := 0 }
  let s := (s.set (O.AX_IG_Q_COUNT g) 0).set (O.AX_IG_LEAD g) 0xFF
  s.set (O.AX_IG_STATUS g) ((igFlag s g 0).toNat + (if halted then 8 else 0))

/-- An immediate halt (R381); the other members of the axis's group halt with cause 6 (R391). -/
def State.haltAxis (s : State) (a cause : Nat) : State :=
  let s := s.axHalt a cause
  match groupOwner s a with
  | some g =>
    let s := s.forAll (members s g) (fun s b => if b = a then s else s.axHalt b 6)
    s.igClear g true
  | none => s

/-- Every axis halts. -/
def State.haltAll (s : State) (cause : Nat) : State := s.forAll axes (fun s a => s.haltAxis a cause)

/-- A group's decelerating stop: every member stays on the line (R391). -/
def State.igStop (s : State) (g : Nat) : State :=
  let x := s.ig g
  let s := s.forAll (members s g) (fun s a => s.axFlagsOff a)
  match x.plan with
  | some pl =>
    let now := pl.now
    let s := s.setIg g { x with queue := [], plan := some (planStop now.1 x.v x.a x.dec x.jerk) }
    let s := (s.set (O.AX_IG_Q_COUNT g) 0).set (O.AX_IG_STATUS g) 7
    s.forAll (members s g) (fun s a => s.axState a 3)
  | none => (s.forAll (members s g) (fun s a => if axisState s a = 1 then s.axStopped a else s)).igClear g (igFlag s g 3)

/-- A decelerating stop of an axis (R380), after which it is disabled when `off`. -/
def State.decelStop (s : State) (a : Nat) (off : Bool) : State :=
  let st := axisState s a
  if st = 0 then s
  else if st = 4 ∨ st = 5 then (if off then s.axDisable a else s)
  else
    let s := s.setAx a { s.ax a with offAfter := (s.ax a).offAfter || off }
    match groupOwner s a with
    | some g => if st = 3 then s else s.igStop g
    | none =>
      let x := s.ax a
      if st = 3 then s
      else
        let s := (s.axFlagsOff a).setB (O.DS_STATUS a) B.DS_STATUS_STEP_FOLLOW false
        if x.v = 0 ∧ x.a = 0 then s.axStopped a
        else
          let stop := planStop x.p x.v x.a (s.get (O.AX_STOP_DEC a)) (s.get (O.AX_STOP_JERK a))
          (s.axState a 3).putAx a { x with queue := [], started := false, run := none, plan := some stop, cap := none }

def State.stopAll (s : State) (off : Bool) : State := s.forAll axes (fun s a => s.decelStop a off)

/-! ### Virtual limits (R379) -/

def limitLo (s : State) (a : Nat) : Int := s.getI (O.AX_LIMIT_LO a)
def limitHi (s : State) (a : Nat) : Int := s.getI (O.AX_LIMIT_HI a)
def limited (s : State) (a : Nat) : Bool := axCfg s a B.AX_CONFIG_LIMIT_EN
def outside (s : State) (a : Nat) : Bool :=
  limited s a && (decide (axisPos s a < limitLo s a) || decide (limitHi s a < axisPos s a))

/-- An axis is found beyond its limits. -/
def State.overLimit (s : State) (a : Nat) : State :=
  let s := s.axHit a B.AX_EVENTS_LIMIT_OVER 1
  if axisState s a = 2 then s.decelStop a false else s

/-- The position came to lie outside the limits: LIMIT_OVER, and a moving axis stops. -/
def State.limitCheck (s : State) (a : Nat) : State :=
  let out := outside s a
  let was := (s.ax a).beyond
  let s := s.setAx a { s.ax a with beyond := out }
  if out && !was then s.overLimit a else s

/-! ### Pushing (R371, R372, R375, R377) -/

/-- Neither halted, faulted, stopping, inhibited nor driven by a step input: the axis takes moves. -/
def takesMoves (s : State) (a : Nat) : Bool :=
  decide (axisState s a = 1 ∨ axisState s a = 2) && !motionStopped s && (stepInput s a).isNone

/-- A stepper with an encoder, no move running, whose rotor turns (R377). -/
def notStill (s : State) (a : Nat) : Bool :=
  decide (a < 16) && (axisEnc s a).isSome && (s.ax a).plan.isNone && decide (s.get (O.AX_STILL_SPEED a) < (measuredVel s a).natAbs)

def Move.has (m : Move) (b : Nat) : Bool := bitOf m.flags b

/-- Base of a RELATIVE move (R372); none when it starts behind a VELOCITY entry. -/
def relBase (s : State) (a : Nat) (m : Move) : Option Int :=
  if m.has B.AX_MV_FLAGS_REPLACE then some (axisPos s a)
  else match (s.ax a).queue.getLast? with
    | none => some (axisPos s a)
    | some l => if l.kind = 3 ∨ l.fromStart then none else some l.target

/-- The move with its target formed. -/
def resolve (s : State) (a : Nat) (m : Move) : Move :=
  if m.kind = 2 then
    match relBase s a m with
    | some b => { m with target := b + m.target }
    | none => { m with fromStart := true }
  else m

/-- A refusal of Table R371 for what the move asks, after state, room and owner: abort code, and whether NOT_STILL. -/
def moveRefusal (s : State) (a : Nat) (m : Move) : Option (Nat × Bool) :=
  let r := resolve s a m
  let vmax := s.get (O.AX_VEL_MAX a)
  let amax := s.get (O.AX_ACC_MAX a)
  let zEn := match axisSource s a with
    | some i => s.bit (O.PI_CONFIG i) B.PI_CONFIG_Z_EN && decide (piMode s i = 1)
    | none => false
  if m.kind < 1 ∨ 3 < m.kind ∨ m.acc = 0 ∨ m.dec = 0 ∨ amax < m.acc ∨ amax < m.dec then some (abRange, false)
  else if m.kind ≠ 3 ∧ (m.vel = 0 ∨ vmax < m.vel) then some (abRange, false)
  else if m.kind = 3 ∧ vmax < m.target.natAbs then some (abRange, false)
  else if m.has B.AX_MV_FLAGS_HOME ∧ (m.kind ≠ 3 ∨ !zEn) then some (abRange, false)
  else if limited s a ∧ m.kind ≠ 3 ∧ !r.fromStart ∧ (r.target < limitLo s a ∨ limitHi s a < r.target) then some (abRange, false)
  else if limited s a ∧ m.kind = 3 ∧ ((axisPos s a < limitLo s a ∧ m.target < 0) ∨ (limitHi s a < axisPos s a ∧ 0 < m.target)) then
    some (abRange, false)
  else if notStill s a then some (abState, true)
  else none

/-- Whether an entry at the head waits, for its milestone or for a turnaround pause (R378). -/
def trigWaits (s : State) (a : Nat) (m : Move) : Bool := m.has B.AX_MV_FLAGS_TRIG && !(s.ax a).trig
def turnWaits (s : State) (a : Nat) (m : Move) : Bool :=
  m.has B.AX_MV_FLAGS_WAIT_TURN && ports.any (fun n => armed s n
    && decide (predOf s n = s.fld (O.AX_CONFIG a) B.AX_CONFIG_PRED) && s.bit (O.HP_HEALTH_STATUS n) B.HP_HEALTH_STATUS_PAUSE)

/-- The velocity limit of a move in 2^-32 au/s: its VEL, or the slow request's cap (R387). -/
def capped32 (cap : Option Nat) (v : Nat) : Int := accU (match cap with
  | some c => min c v
  | none => v)

/-- The junction velocity at the end of a move (R373): the successor blends, runs in the same direction and starts
without waiting; it is bounded by what still stops at the end of the last queued position move (DEDUCED, log 39). -/
def junction (cap : Option Nat) (fwd : Bool) (from' vel : Nat × Int) : List Move → Int
  | [] => 0
  | m :: l =>
    let d := if fwd then m.target - from'.2 else from'.2 - m.target
    if m.kind ≠ 3 ∧ !m.fromStart ∧ m.has B.AX_MV_FLAGS_BLEND ∧ !m.has B.AX_MV_FLAGS_TRIG ∧ !m.has B.AX_MV_FLAGS_WAIT_TURN ∧ 0 < d then
      let v := min (capped32 cap vel.1) (capped32 cap m.vel)
      maxStart (d * auU) (junction cap fwd (0, m.target) (m.vel, 0) l) v m.dec m.jerk
    else 0

/-- The plan of a running position move from position, velocity and acceleration (R369, R373). -/
def planMove (x : Axis) (m : Move) (rest : List Move) (p v a : Int) : Plan :=
  let tgt := m.target * auU
  let vj := junction x.cap (decide (p ≤ tgt)) (0, m.target) (m.vel, 0) rest
  planTo p v a tgt vj (capped32 x.cap m.vel) m.acc m.dec m.jerk

/-- The plan of a VELOCITY move; with limits in force it comes to rest at the limit ahead (R379). -/
def planSpeed (s : State) (a : Nat) (x : Axis) (m : Move) (p v acc : Int) : Plan :=
  let want := (if m.target < 0 then -1 else 1) * capped32 x.cap m.target.natAbs
  if limited s a ∧ m.target ≠ 0 then
    planTo p v acc ((if m.target < 0 then limitLo s a else limitHi s a) * auU) 0 (want.natAbs : Int) m.acc m.dec m.jerk
  else planVel p v acc want m.acc m.dec m.jerk

/-- The planner runs again at a push: a junction not yet reached may rise (R373). -/
def Axis.replan (x : Axis) : Axis :=
  match x.run, x.plan, x.queue with
  | some m, some pl, _ :: rest =>
    if x.started ∧ m.kind ≠ 3 ∧ pl.elapsed < pl.brake then
      let y := planMove x m rest x.p x.v x.a
      if pl.endV.natAbs < y.endV.natAbs then { x with plan := some y } else x
    else x
  | _, _, _ => x

/-- Append a move that has passed its checks (R371, R372, R375). -/
def State.pushMove (s : State) (a : Nat) (m : Move) : State :=
  let x := s.ax a
  let r := resolve s a m
  if m.has B.AX_MV_FLAGS_REPLACE then
    let plan := if x.plan.isSome ∨ x.v ≠ 0 then some (planStop x.p x.v x.a m.dec m.jerk) else none
    s.putAx a { x with queue := [r], started := false, run := none, plan := plan, trig := false }
  else
    let x := { x with queue := x.queue ++ [r], trig := x.trig && !x.queue.isEmpty }
    s.putAx a x.replan

/-- A push (R371): the conditions in the table's order. `owner` is who pushes. -/
def State.tryPush (s : State) (a owner : Nat) (m : Move) : WRes :=
  if !takesMoves s a then .no s abState
  else if 16 ≤ qLen s a then .no (s.axHit a B.AX_EVENTS_QUEUE_FULL) abState
  else if s.get (O.AX_OWNER a) ≠ owner then .no s abLocal
  else match moveRefusal s a m with
    | some (c, still) => .no (if still then s.axHit a B.AX_EVENTS_NOT_STILL else s) c
    | none => .ok (s.pushMove a m)

/-- The staged move. -/
def stagedMove (s : State) (a : Nat) : Move :=
  { kind := s.get (O.AX_MV_KIND a), target := s.getI (O.AX_MV_TARGET a), vel := s.get (O.AX_MV_VEL a),
    acc := s.get (O.AX_MV_ACC a), dec := s.get (O.AX_MV_DEC a), jerk := s.get (O.AX_MV_JERK a),
    flags := s.get (O.AX_MV_FLAGS a) }

/-- A move to a position at the axis's profile limits, as maintenance makes it (R354). -/
def plainMove (s : State) (a : Nat) (pos : Int) : Move :=
  { kind := 1, target := pos, vel := s.get (O.AX_VEL_MAX a), acc := s.get (O.AX_ACC_MAX a), dec := s.get (O.AX_ACC_MAX a) }

/-! ### The slow request (R387) -/

def isWeb (s : State) (a : Nat) : Bool := decide (s.fld (O.AX_CONFIG a) B.AX_CONFIG_ROLE = 1)
def Move.speed (m : Move) : Nat := if m.kind = 3 then m.target.natAbs else m.vel
def slowCap (s : State) (a v : Nat) : Nat := v * s.get (O.AX_SLOW_FACTOR a) / 65536

/-- The running profile under a cap that has just come into force: the setpoint ramps down to it at AX_SLOW_DEC; a profile
that already decelerates to its end keeps to it. -/
def State.slowDown (s : State) (a : Nat) (x : Axis) (m : Move) (pl : Plan) (cap : Nat) : Axis :=
  let x := { x with cap := some cap }
  let pre := slowRamp x.v (accU cap) (s.get (O.AX_SLOW_DEC a))
  let q := runSegs pre (x.p, x.v)
  let acc := if pre = [] then x.a else 0
  let y := if m.kind = 3 then planSpeed s a x m q.1 q.2 acc else planMove x m (x.queue.drop 1) q.1 q.2 acc
  let fits := match pl.goal with
    | some g => decide (pl.elapsed < pl.brake) && (decide (0 ≤ q.2 ∧ q.1 + velDist q.2 acc 0 m.acc m.dec m.jerk ≤ g)
        || decide (q.2 ≤ 0 ∧ g ≤ q.1 + velDist q.2 acc 0 m.acc m.dec m.jerk))
    | none => true
  if fits then
    { x with plan := some { y with p := x.p, v := x.v, segs := pre ++ y.segs, brake := y.brake + totalDur pre,
                                   reached := y.reached.map (· + totalDur pre) } }
  else x

/-- Take over the slow request on a web axis. -/
def State.slowAxis (s : State) (a : Nat) : State :=
  let x := s.ax a
  let st := axisState s a
  if !isWeb s a ∨ (st ≠ 1 ∧ st ≠ 2) then s
  else if slowAsserted s ∧ x.cap = none then
    match x.run, x.plan with
    | some m, some pl => (s.setAx a (s.slowDown a x m pl (slowCap s a m.speed))).setB (O.AX_STATUS a) B.AX_STATUS_SLOWED true
    | _, _ => s
  else if !slowAsserted s ∧ x.cap ≠ none then
    let x := { x with cap := none }
    let s := s.setB (O.AX_STATUS a) B.AX_STATUS_SLOWED false
    match x.run, x.plan with
    | some m, some pl =>
      if m.kind = 3 then s.setAx a { x with plan := some (planSpeed s a x m x.p x.v x.a) }
      else if pl.elapsed < pl.brake then s.setAx a { x with plan := some (planMove x m (x.queue.drop 1) x.p x.v x.a) }
      else s.setAx a x
    | _, _ => s.setAx a x
  else s

/-! ### Running (R370, R374, R376, R378) -/

/-- The head entry starts: on a brushless axis from the measured velocity (R376). -/
def State.startMove (s : State) (a : Nat) (m : Move) (rest : List Move) : State :=
  let x := s.ax a
  let p := if a < 16 ∨ axCfg s a B.AX_CONFIG_POS_LOOP then x.p else (measured s a).getD x.p
  let v := if a < 16 then x.v else accU 1 * measuredVel s a
  let acc := if x.plan.isSome then x.a else 0
  let m := if m.fromStart then { m with target := m.target + axisPos s a, fromStart := false } else m
  let slow := isWeb s a && slowAsserted s
  let cap := if slow then some (x.cap.getD (slowCap s a m.speed)) else none
  let x := { x with cap := cap, p := p, v := v, a := acc, queue := m :: rest, started := true, run := some m, zSeen := false }
  let pl := if m.kind = 3 then planSpeed s a x m p v acc else planMove x m rest p v acc
  let s := (s.setAx a { x with plan := some pl }).axState a 2
  let s := s.setB (O.AX_STATUS a) B.AX_STATUS_SLOWED slow
  [B.AX_STATUS_TRIG_WAIT, B.AX_STATUS_TURN_HOLD, B.AX_STATUS_AT_LIMIT, B.AX_STATUS_IN_POSITION].foldl
    (fun s b => s.setB (O.AX_STATUS a) b false) s

/-- Start the head entry if it does not wait; TRIG_WAIT and TURN_HOLD show what holds it. -/
def State.headStart (s : State) (a : Nat) : State :=
  let x := s.ax a
  match x.queue with
  | [] => s
  | m :: rest =>
    if x.started ∨ (axisState s a ≠ 1 ∧ axisState s a ≠ 2) then s
    else
      let tw := trigWaits s a m
      let uw := turnWaits s a m
      if tw || uw then
        (s.setB (O.AX_STATUS a) B.AX_STATUS_TRIG_WAIT tw).setB (O.AX_STATUS a) B.AX_STATUS_TURN_HOLD uw
      else s.startMove a m rest

/-- The running entry completes and leaves the queue. -/
def State.moveDone (s : State) (a : Nat) : State :=
  let x := s.ax a
  let s := (s.setAx a { x with queue := x.queue.drop 1, started := false, trig := false }).inc (O.AX_MOVES_DONE a)
  let s := s.axHit a B.AX_EVENTS_MOVE_DONE
  if x.queue.length ≤ 1 then s.axHit a B.AX_EVENTS_QUEUE_EMPTY else s

/-- A profile has run out at rest. -/
def State.atRest (s : State) (a : Nat) (inPos : Bool) : State :=
  let x := s.ax a
  let s := s.setAx a { x with plan := none, run := none, v := 0, a := 0 }
  let busy := match x.queue with
    | [] => false
    | m :: _ => !(trigWaits s a m || turnWaits s a m)
  (s.axState a (if busy then 2 else 1)).setB (O.AX_STATUS a) B.AX_STATUS_IN_POSITION (inPos && x.queue.isEmpty)

/-- The running profile after a step: completions (R370, R374, R378, R379, R380). -/
def State.afterStep (s : State) (a : Nat) (pl : Plan) : State :=
  let x := s.ax a
  if axisState s a = 3 then (if pl.beyond then s.axStopped a else s)
  else match x.run with
  | none => if pl.beyond then s.atRest a false else s
  | some m =>
    if m.kind ≠ 3 then
      if pl.beyond then
        let s := s.moveDone a
        if x.v = 0 then s.atRest a true else s.setAx a { s.ax a with plan := none, run := none }
      else s
    else if m.has B.AX_MV_FLAGS_HOME ∧ !x.zSeen then
      if pl.beyond ∧ pl.goal ≠ none then ((s.moveDone a).axHit a B.AX_EVENTS_LIMIT_STOP).setB (O.AX_STATUS a) B.AX_STATUS_AT_LIMIT true |>.atRest a false
      else s
    else
      let hit := pl.beyond && pl.goal.isSome
      let there := match pl.reached with
        | some r => decide (r ≤ pl.elapsed)
        | none => false
      let s := if x.started && (hit || there) then s.moveDone a else s
      if hit then ((s.axHit a B.AX_EVENTS_LIMIT_STOP).atRest a false).setB (O.AX_STATUS a) B.AX_STATUS_AT_LIMIT true
      else if pl.beyond ∧ pl.endV = 0 then s.atRest a false
      else s

/-- One 10 µs step of an axis of its own (R370). -/
def State.axStep (s : State) (a : Nat) : State :=
  let s := (s.headStart a).slowAxis a
  let x := s.ax a
  match x.plan with
  | none => s
  | some pl =>
    let pl := { pl with k := pl.k + 1 }
    let now := pl.now
    let s := s.setAx a { x with plan := some pl, p := now.1, step := now.1 - x.p, v := now.2.1, a := now.2.2 }
    s.afterStep a pl

/-! ### Step-input interpolation (R402, R403) -/

def stepping (s : State) (a : Nat) : Bool := s.bit (O.DS_STATUS a) B.DS_STATUS_STEP_FOLLOW

/-- A step-input lag begins. -/
def State.lagOut (s : State) (a : Nat) : State :=
  let d := s.ds a
  if d.lagAt.isSome then s
  else ((s.setDs a { d with lagAt := some s.up }).inc (O.DS_LAG_EXCURSIONS a)).hit (O.DS_EVENTS a) B.DS_EVENTS_STEP_LAG (520 + a)

/-- The lag P_k less the microstep, and its detector. -/
def State.lagCheck (s : State) (a : Nat) : State :=
  let d := s.ds a
  if !stepping s a then s
  else if s.get (O.DS_STEP_LAG a) * 1000 * 2 ^ 32 < (d.goal * auU * 1000 - fineP s a).natAbs then s.lagOut a
  else s.setDs a { d with lagAt := none }

/-- Counted edge at the step input (R402): the new goal and the speed toward it. -/
def State.stepEdge (s : State) (a : Nat) (up : Bool) (t : Nat) : State :=
  match (if stepping s a then stepInput s a else none) with
  | none => s
  | some i =>
    let d := s.ds a
    let dc := toSigned 32 (ofSigned 32 ((s.get (O.PI_COUNT i) : Int) - d.c0))
    let goal := d.p0 + Int.tdiv (dc * s.getI (O.DS_STEP_RATIO a)) 65536
    let vmax := s.get (O.AX_VEL_MAX a)
    let speed := match d.edge with
      | none => vmax
      | some (t0, u) => if u ≠ up then vmax else 
          min vmax (divRound ((goal - d.goal).natAbs * fuS : Nat) (max 1 ((t + 2 ^ 64 - t0) % 2 ^ 64))).toNat
    (s.setDs a { d with goal := goal, edge := some (t, up), speed := speed }).lagCheck a

/-- One 10 µs step toward the goal; the microstep holds while the interface is in fault. -/
def State.followStep (s : State) (a : Nat) : State :=
  let d := s.ds a
  let x := s.ax a
  let goal := d.goal * auU
  let held := match stepInput s a with
    | some i => piFault s i
    | none => true
  let reach : Int := (d.speed * 2 ^ 32 / 100000 : Nat)
  let p := if held then x.p else if goal < x.p then max goal (x.p - reach) else min goal (x.p + reach)
  let v : Int := if p = x.p then 0 else if p < x.p then -accU d.speed else accU d.speed
  ((s.setAx a { x with p := p, step := p - x.p, v := if p = goal then 0 else v, a := 0 }).axState a (if p = goal then 1 else 2)).lagCheck a

/-! ### Interpolation groups (R389 to R391) -/

/-- The next group move starts: the lead axis, the scaled limits, one profile over its travel (R390)
(DEDUCED, log 40). -/
def State.igStart (s : State) (g : Nat) : State :=
  let x := s.ig g
  match x.queue, x.plan with
  | m :: _, none =>
    let ms := members s g
    let starts := (ms.zip m.targets).map (fun e =>
      let p := if e.1 < 16 then (s.ax e.1).p else axisPos s e.1 * auU
      (e.1, p, e.2 * auU - p))
    let lead := starts.foldl (fun (b : Nat × Nat) e => if b.2 < e.2.2.natAbs then (e.1, e.2.2.natAbs) else b) (ms.headD 0, 0)
    let least := fun (lim : Nat) (f : Nat → Nat) => starts.foldl (fun v e =>
      if e.2.2 = 0 then v else min v (f e.1 * lead.2 / e.2.2.natAbs)) lim
    let vel := least m.vel (fun a => s.get (O.AX_VEL_MAX a))
    let acc := least m.acc (fun a => s.get (O.AX_ACC_MAX a))
    let dec := least m.dec (fun a => s.get (O.AX_ACC_MAX a))
    let pl := planTo 0 0 0 lead.2 0 (accU vel) acc dec m.jerk
    let s := s.setIg g { x with plan := some pl, starts := starts, v := 0, a := 0, dec := dec, jerk := m.jerk }
    let s := (s.set (O.AX_IG_LEAD g) lead.1).set (O.AX_IG_STATUS g) 3
    s.forAll ms (fun s a => (s.axState a 2).setB (O.AX_STATUS a) B.AX_STATUS_IN_POSITION false)
  | _, _ => s

/-- One 10 µs step of a group: each member follows in proportion. -/
def State.igStep (s : State) (g : Nat) : State :=
  let s := s.igStart g
  let x := s.ig g
  match x.plan with
  | none => s
  | some pl =>
    let pl := { pl with k := pl.k + 1 }
    let now := pl.now
    let len := (x.starts.foldl (fun n e => max n e.2.2.natAbs) 0)
    let s := s.setIg g { x with plan := some pl, v := now.2.1, a := now.2.2 }
    let s := x.starts.foldl (fun s e =>
      let at' := fun v => if len = 0 then 0 else divRound (e.2.2 * v) len
      let p := e.2.1 + at' now.1
      s.setAx e.1 { s.ax e.1 with p := p, step := p - (s.ax e.1).p, v := at' now.2.1, a := at' now.2.2 }) s
    if !pl.beyond then s
    else if igFlag s g 2 then ((s.igClear g false).forAll (members s g) (fun s a => s.axStopped a))
    else
      let q := x.queue.drop 1
      let s := s.setIg g { s.ig g with queue := q, plan := none, starts := [], v := 0, a := 0 }
      let s := ((s.set (O.AX_IG_Q_COUNT g) q.length).set (O.AX_IG_LEAD g) 0xFF).set (O.AX_IG_STATUS g) 1
      s.forAll (members s g) (fun s a => ((s.setAx a { s.ax a with v := 0, a := 0 }).axState a 1).setB (O.AX_STATUS a) B.AX_STATUS_IN_POSITION true)

/-! ### Following error (R384) -/

/-- A stepper whose encoder is in fault runs open-loop. -/
def encLost (s : State) (a : Nat) : Bool := match axisEnc s a with
  | some i => decide (a < 16) && piFault s i
  | none => false

/-- A following error begins (Table 20.1, point 49). -/
def State.followOut (s : State) (a : Nat) : State :=
  let x := s.ax a
  if x.followAt.isSome then s
  else ((s.setAx a { x with followAt := some s.up }).inc (O.AX_FOLLOW_EXCURSIONS a)).axHit a B.AX_EVENTS_FOLLOW

/-- The following error beyond AX_FOLLOW_LIMIT: each excursion is counted. -/
def State.followCheck (s : State) (a : Nat) : State :=
  let lim := s.get (O.AX_FOLLOW_LIMIT a)
  let st := axisState s a
  let err := match measured s a with
    | some m => ((s.ax a).p - m).natAbs
    | none => 0
  let x := s.ax a
  if lim ≠ 0 ∧ (st = 1 ∨ st = 2 ∨ st = 3) ∧ !encLost s a ∧ lim * 2 ^ 32 < err then s.followOut a
  else s.setAx a { x with followAt := none }

/-! ### Homing (R378) and the interfaces' faults -/

/-- A Z latch of the position source: a HOME move takes its offset and comes to rest. -/
def State.axHome (s : State) (a : Nat) : State :=
  let x := s.ax a
  match x.run, axisSource s a with
  | some m, some i =>
    if m.kind = 3 ∧ m.has B.AX_MV_FLAGS_HOME ∧ x.started ∧ !x.zSeen ∧ axisState s a = 2 then
      let home := s.getI (O.AX_HOME_POS a)
      let pos := home * auU
      let c := s.get (O.PI_COUNT i)
      let x := if a < 16 then { x with mOff := x.mOff + (pos - x.p), p := pos, off := pos - x.ext * s.getI (O.AX_ENC_RATIO a) * 65536 }
        else { x with off := home - c, ext := c, last := c, p := x.p + pos - (x.ext + x.off) * auU }
      let x := { x with zSeen := true, plan := some { planStop x.p x.v x.a m.dec m.jerk with k := 0 } }
      let s := (s.setB (O.AX_STATUS a) B.AX_STATUS_HOMED true).setB (O.AX_STATUS a) B.AX_STATUS_POS_UNCERTAIN false
      (s.axHit a B.AX_EVENTS_HOMED).putAx a x
    else s
  | _, _ => s

/-- An interface entered fault (Table 14.5, R384): its brushless axes halt with cause 4. -/
def State.axPiFault (s : State) (i : Nat) : State :=
  s.forAll axes (fun s a =>
    if 16 ≤ a ∧ (axisEnc s a = some i ∨ axisHall s a = some i) then s.haltAxis a 4 else s)

/-- A counted edge of interface `i` reaches the axes that name it. -/
def State.axEdge (s : State) (i : Nat) (up : Bool) (t : Nat) : State :=
  s.forAll axes (fun s a =>
    let s := if stepInput s a = some i then s.stepEdge a up t else s
    if axisSource s a = some i then (s.axCount a).limitCheck a else s)

/-- A hit of milestone `m` (R378). -/
def State.axTrigger (s : State) (m : Nat) : State :=
  s.forAll axes (fun s a => if s.get (O.AX_TRIG_MS a) = m ∧ axisState s a ≠ 0 then
    s.setAx a { s.ax a with trig := true } else s)

end Sys2Proof.Machine
end

