-- ==== Sys2Proof/Machine/Maint.lean ====
section
/-! DEFINITION. Maintenance activities: starts, phases, bodies and ends (chapter 13), with the deep test (R306, R307). -/
namespace Sys2Proof.Machine

def mtSlots : List Nat := List.range 8
def State.mtHit (s : State) (bit : Nat) : State := s.hit O.MT_EVENTS bit 566

/-! ### What a slot names -/

def mtKind (s : State) (k : Nat) : Nat := s.get (O.MT_KIND k)

/-- MT_COUNT of a WIPE counts strokes, at most 255 (Table 13.2) (DEDUCED, log 121). -/
def wipesOver (kind count : Nat) : Bool := decide (kind = 2) && decide (255 < count)
def mtState (s : State) (k : Nat) : Nat := s.get (O.MT_STATE k)
def mtPorts (s : State) (k : Nat) : List Nat :=
  ports.filter (fun n => s.bit (O.MT_PORTS k (n / 32)) (n % 32))
def mtConvs (s : State) (k : Nat) : List Nat := bitsOf 16 (s.get (O.MT_CONV k))
def mtStation (s : State) (k : Nat) : Option Nat :=
  let a := s.fld (O.MT_STATION k) B.MT_STATION_AXIS
  if a < 20 then some a else none
def mtAux (s : State) (k : Nat) : Option Nat :=
  let a := s.get (O.MT_AUX_AXIS k)
  if a < 20 then some a else none
def mtAxes (s : State) (k : Nat) : List Nat := ((mtStation s k).toList ++ (mtAux s k).toList).eraseDups
/-- The relay pair named, as 4 × pair + relay (Table 13.8). -/
def mtRelay (s : State) (k : Nat) : Option Nat :=
  let v := s.get (O.MT_RELAY k)
  if bitOf v 7 then some (v % 16) else none
def mtActive (s : State) (k : Nat) : Bool := decide (1 ≤ mtState s k ∧ mtState s k ≤ 4)

/-- Kinds that fire FI, that read heaters, and that use ports (Table 13.1, Table 13.2). -/
def kindFires (k : Nat) : Bool := decide (k = 1 ∨ k = 5 ∨ k = 7)
def kindReads (k : Nat) : Bool := decide (k = 6 ∨ k = 7)
def kindPorts (k : Nat) : Bool := decide (k ≠ 2)

/-- The modes that allow a kind (Table 13.1). -/
def modeAllows (mode kind : Nat) : Bool :=
  if kind = 0 ∨ 7 < kind then decide (mode = mdReady ∨ mode = mdPrint ∨ mode = mdService)
  else if mode = mdReady then decide (kind = 2 ∨ kind = 3 ∨ kind = 4 ∨ kind = 6)
  else if mode = mdPrint then decide (kind = 1)
  else decide (mode = mdService)

/-- Last nozzle of the range on a port; none when the range is empty (R354). -/
def mtLast (s : State) (k n : Nat) : Option Nat :=
  let first := s.get (O.MT_FIRST k)
  let len := s.get (O.MT_NOZZLES k)
  let nz := nozzles s n
  let last := if len = 0 then nz - 1 else min (first + len - 1) (nz - 1)
  if nz = 0 ∨ last < first then none else some last

/-! ### The checks of a start (R354, R356, R358, R359) -/

/-- A resource of the slot is held elsewhere (R358). -/
def mtBusy (s : State) (k : Nat) : Bool :=
  (mtPorts s k).any (fun n => claimed s n)
    || (mtAxes s k).any (fun a => s.bit O.MT_AXES_CLAIMED a || !(s.ax a).queue.isEmpty || (s.ax a).plan.isSome
        || decide (2 ≤ s.get (O.AX_OWNER a))
        || (decide (s.fld (O.AX_CONFIG a) B.AX_CONFIG_ROLE ≠ 0) && ports.any (fun n => armed s n
            && decide (predOf s n = s.fld (O.AX_CONFIG a) B.AX_CONFIG_PRED))))
    || (mtConvs s k).any (fun c => s.bit O.MT_CONV_CLAIMED c)
    || (match mtRelay s k with
      | some r => mtSlots.any (fun j => decide ((s.mt j).relay = some r))
      | none => false)

/-- A port that a SPIT activity may take in PRINT (R356). -/
def spitMay (s : State) (n : Nat) : Bool :=
  armed s n && (servedBy s n).isNone && (s.sched n).lines.isEmpty && (nextLine s n).isNone

/-- Parameters out of rule (Table 13.3, MT_RESULT 4). -/
def mtParamBad (s : State) (k : Nat) : Bool :=
  let kind := mtKind s k
  let ps := mtPorts s k
  let cs := mtConvs s k
  decide (kind = 0 ∨ 7 < kind) || (kindPorts kind && ps.isEmpty)
    || cs.any (fun c => decide (0 < s.get (O.SB_FLOOR c)) || convRetired s c)
    || (kindReads kind && (cs.isEmpty || decide (s.get O.MT_CONV_LIMIT < (bitsOf 16 (s.get O.MT_CONV_CLAIMED)).length + cs.length)))
    || ((decide (kind = 1) || decide (kind = 5)) && (decide (s.get (O.MT_CODE k) = 0)
        || ps.any (fun n => decide ((liveTrain s n).map / 8 ^ s.get (O.MT_CODE k) % 8 = 0))
        || ps.any (fun n => decide (s.get (O.MT_PERIOD k) < liveMinPeriod s n))))
    || ((decide (kind = 2) || decide (kind = 3) || decide (kind = 4)) && (mtAux s k).isNone)
    || wipesOver kind (s.get (O.MT_COUNT k))
    || (decide (kind = 5) && (match mtRelay s k with
      | some r => decide (relayMode s (r % 4) ≠ 3)
      | none => true))

/-- A port, axis or slot whose state does not allow the start (Table 13.3, MT_RESULT 5). -/
def mtStateBad (s : State) (k : Nat) : Bool :=
  let kind := mtKind s k
  let ps := mtPorts s k
  let inh := fun n => thermalInhibited s n || !groupOn s (groupOf n) || clockInhibit s || s.bit O.MD_INHIBIT_STATUS B.MD_INHIBIT_STATUS_FIRE
  (kindFires kind && ps.any (fun n => !linkUp s n || inh n || !liveTrainValid s n))
    || (if kind = 1 ∧ s.mode = mdPrint then ps.any (fun n => !spitMay s n) else ps.any (armed s))
    || (decide (kind = 2) && ps.any (capped s)) || (decide (kind = 5) && ps.any (fun n => !capped s n))
    || (mtAxes s k).any (fun a => decide (axisState s a = 5) || s.bit (O.AX_STATUS a) B.AX_STATUS_POS_UNCERTAIN)
    || mtActive s k

/-- Why a start is refused: MT_RESULT and abort code (DEDUCED, log 38). -/
def mtRefusal (s : State) (k : Nat) : Option (Nat × Nat) :=
  if !modeAllows s.mode (mtKind s k) then some (3, abState)
  else if mtBusy s k then some (2, abLocal)
  else if mtParamBad s k then some (4, abRange)
  else if mtStateBad s k then some (5, abState)
  else none

/-! ### Claims and ends (R358, R361, R362, R364) -/

def State.mtTo (s : State) (k st : Nat) : State :=
  (s.set (O.MT_STATE k) st).setB O.MT_STATUS k (decide (1 ≤ st ∧ st ≤ 4))

/-- The claims of a start are taken. -/
def State.mtClaim (s : State) (k : Nat) : State :=
  let ps := mtPorts s k
  let home := match mtStation s k with
    | some a => axisPos s a
    | none => 0
  let s := s.setMt k { ports := ps, axes := mtAxes s k, convs := mtConvs s k, relay := mtRelay s k, home := home }
  let s := s.forAll ps (fun s n => (s.setB (O.MT_CLAIMED (n / 32)) (n % 32) true).senseWithdraw (ofPort n))
  let s := s.forAll (mtAxes s k) (fun s a => ((s.setB O.MT_AXES_CLAIMED a true).set (O.AX_OWNER a) ownerMt).axShow a)
  (s.set O.MT_CONV_CLAIMED (orW (s.get O.MT_CONV_CLAIMED) (s.get (O.MT_CONV k)))).senseGrant

/-- The claims are released; the relay pair is CLEARed (R361). -/
def State.mtRelease (s : State) (k : Nat) : State :=
  let m := s.mt k
  let s := match m.relay with
    | some r => if relayMode s (r % 4) = 3 then s.relayDrive (r % 4) (r / 4) 2 0 else s
    | none => s
  let s := s.forAll m.ports (fun s n => ((s.maintGone n).setB (O.MT_CLAIMED (n / 32)) (n % 32) false).setB (O.HP_HEALTH_STATUS n) B.HP_HEALTH_STATUS_DEEP_RUNNING false)
  let s := s.forAll m.axes (fun s a => ((s.setB O.MT_AXES_CLAIMED a false).set (O.AX_OWNER a) ownerHost).axShow a)
  let s := s.forAll m.convs (fun s c => s.setB O.MT_CONV_CLAIMED c false)
  ((s.setMt k {}).senseDrop (fun r => decide (r.slot = some k))).set (O.MT_ENDED_AT k) s.pt

/-- A stop (R362): no new rotation, the moving axes stop, the relay pair is CLEARed; the claims go when all rest. -/
def State.mtStop (s : State) (k result : Nat) : State :=
  let m := s.mt k
  let s := (s.mtTo k 4).set (O.MT_RESULT k) result
  let s := match m.relay with
    | some r => if relayMode s (r % 4) = 3 then s.relayDrive (r % 4) (r / 4) 2 0 else s
    | none => s
  let s := (s.senseDrop (fun r => decide (r.slot = some k))).forAll m.ports (fun s n => s.maintGone n)
  s.forAll m.axes (fun s a => if axisState s a = 2 ∨ !(s.ax a).queue.isEmpty then s.decelStop a false else s)

/-! ### Bodies (R355, R306, Table 13.2) -/

/-- Move an axis for the slot; a refused move stops the activity (Table 13.4). -/
def State.mtMove (s : State) (k a : Nat) (pos : Int) : State :=
  match s.tryPush a ownerMt (plainMove s a pos) with
  | .ok s => s.setMt k { s.mt k with moving := some a }
  | .no s _ => s.mtStop k 8

def State.mtWait (s : State) (k part us : Nat) : State :=
  s.setMt k { s.mt k with part := part, until' := s.up + us * fuUs, moving := none }

/-- The frame of a port's next maintenance rotation leaves, ahead of its first edge at `edge`: it takes the next LSEQ (R243, R306,
R355). -/
def State.maintFrame (s : State) (n edge : Nat) (codes : List Nat) : State :=
  let c := s.sched n
  let q := c.lseq
  let k := s.link n
  let s := s.setLink n { k with placed := k.placed + 1, absorb := k.absorb.filter (fun p => p ≠ q), late := k.late.filter (fun p => p ≠ q) }
  let s := s.setSched n { c with lseq := (q + 1) % 65536, maint := some { line := { data := codes }, st := .fixed, edge := some edge, lseq := q, frame := 1 } }
  s.frameOut n q (laneFree s n) codes

/-- The frame of rotation `i` of a SPIT body, when there is one: MT_CODE for the nozzles of the range, in the rotations at the tail 0
for every nozzle (R355). -/
def State.spitFrame (s : State) (k n i : Nat) : State :=
  if s.get (O.MT_COUNT k) + rdMax s n ≤ i then s
  else
    let inRange : Nat → Bool := fun z => match mtLast s k n with
      | some last => decide (s.get (O.MT_FIRST k) ≤ z ∧ z ≤ last)
      | none => false
    let codes := (List.range (nozzles s n)).map (fun z => if i < s.get (O.MT_COUNT k) ∧ inRange z then s.get (O.MT_CODE k) else 0)
    s.maintFrame n (ofSigned 64 ((s.mt k).bodyAt + i * s.get (O.MT_PERIOD k) + staggerDelay s n)) codes

/-- The rotations of a SPIT body begin (R355): t_b, and the first frames. -/
def State.spitBegin (s : State) (k : Nat) : State :=
  let m := s.mt k
  let lead := m.ports.foldl (fun x n => max x (leastLead s n)) 0
  let s := s.setMt k { m with part := 3, bodyAt := (s.pt + lead * 64) % 2 ^ 64, fired := [], moving := none }
  s.forAll m.ports (fun s n => s.spitFrame k n 0)

/-- The next reading of a claimed port (R360): a temperature reading due, REF, a suspect again, else the next nozzle; one
at a time (DEDUCED, log 91). -/
def State.fastAsk (s : State) (k n : Nat) : State :=
  let m := s.mt k
  let h := s.health n
  if !m.ports.contains n ∨ asking s (ofPort n) ∨ !linkUp s n ∨ snsFault s n then s
  else if h.tempDue then s.senseAsk (headReq s n 7 .temp 0 (some k))
  else if h.refDue then s.senseAsk (headReq s n 7 .ref 0 (some k))
  else match h.suspect, mtLast s k n with
    | some z, _ => s.senseAsk (headReq s n 7 .heater z (some k))
    | none, some last =>
      let z := tget (s.get (O.MT_FIRST k)) m.next n
      if z ≤ last then s.senseAsk (headReq s n 7 .heater z (some k)) else s
    | none, none => s

/-- The body begins (Table 13.2). -/
def State.mtBody (s : State) (k : Nat) : State :=
  let s := s.mtTo k 2
  let s := s.setMt k { s.mt k with part := 0, moving := none }
  let m := s.mt k
  match mtKind s k, mtAux s k with
  | 1, _ => s.spitBegin k
  | 2, some a => s.mtMove k a (s.getI (O.MT_AUX_POS_A k))
  | 3, some a => s.mtMove k a (s.getI (O.MT_AUX_POS_A k))
  | 4, some a => s.mtMove k a (s.getI (O.MT_AUX_POS_B k))
  | 5, _ =>
    let s := match m.relay with
      | some r => s.relayDrive (r % 4) (r / 4) 1 0
      | none => s
    s.mtWait k 0 (s.get (O.MT_TIME_A k))
  | 6, _ => (s.setMt k { m with part := 3 }).forAll m.ports (fun s n => s.fastAsk k n)
  | 7, _ => (s.setMt k { m with part := 3 }).forAll m.ports (fun s n => s.setB (O.HP_HEALTH_STATUS n) B.HP_HEALTH_STATUS_DEEP_RUNNING true)
  | _, _ => s

/-- An accepted start (Table 13.4). -/
def State.mtBegin (s : State) (k : Nat) : State :=
  let s := (s.mtClaim k).set (O.MT_RESULT k) 1
  let s := ((s.set (O.MT_STARTED_AT k) s.pt).set (O.MT_PROGRESS k) 0).set (O.MT_LOST k) 0
  match mtStation s k with
  | some a => (s.mtTo k 1).mtMove k a (s.getI (O.MT_STATION_POS k))
  | none => s.mtBody k

/-- A start with its refusal recorded (R354). -/
def State.mtTry (s : State) (k : Nat) : WRes :=
  match mtRefusal s k with
  | some (r, code) => .no ((s.set (O.MT_RESULT k) r).mtHit B.MT_EVENTS_REFUSED) code
  | none => .ok (s.mtBegin k)

/-- The activity completes: DONE, its claims go, and MT_NEXT starts (R363, R364). -/
def State.mtFinish (s : State) (k : Nat) : State :=
  let part := decide (0 < s.get (O.MT_LOST k))
  let s := ((s.mtTo k 5).set (O.MT_RESULT k) (if part then 7 else 0)).mtRelease k
  let s := s.mtHit B.MT_EVENTS_DONE
  let s := if part then s.mtHit B.MT_EVENTS_PARTIAL else s
  let next := s.get (O.MT_NEXT k)
  if next < 8 then (s.mtTry next).state else s

/-- The body is complete: the return phase, or the end (Table 13.4). -/
def State.mtBodyDone (s : State) (k : Nat) : State :=
  match (if s.bit (O.MT_STATION k) B.MT_STATION_RETURN then mtStation s k else none) with
  | some a => (s.mtTo k 3).mtMove k a (s.mt k).home
  | none => s.mtFinish k

/-- A claimed port becomes capped or uncapped (R357). -/
def State.setCapped (s : State) (n : Nat) (on : Bool) : State :=
  if capped s n = on then s
  else (s.setB (O.MT_CAPPED (n / 32)) (n % 32) on).mtHit B.MT_EVENTS_CAP_CHANGED

/-- The next stroke of a WIPE (Table 13.2) (DEDUCED, log 126). -/
def State.stroke (s : State) (k a : Nat) : State :=
  let pos := if s.get (O.MT_PROGRESS k) % 2 = 0 then s.getI (O.MT_AUX_POS_B k) else s.getI (O.MT_AUX_POS_A k)
  (s.setMt k { s.mt k with part := 1 }).mtMove k a pos

/-- The auxiliary axis has arrived (DEDUCED, log 126). -/
def State.auxThere (s : State) (k a : Nat) : State :=
  match mtKind s k, (s.mt k).part with
  | 2, 0 => s.stroke k a
  | 2, _ => (s.inc (O.MT_PROGRESS k)).mtWait k 2 (s.get (O.MT_TIME_A k))
  | _, _ => s.mtWait k 2 (s.get (O.MT_TIME_A k))

/-- A dwell, pump or settle time has run out. -/
def State.dwellOver (s : State) (k : Nat) : State :=
  let m := s.mt k
  match mtKind s k, m.part, mtAux s k with
  | 2, 2, some a => if s.get (O.MT_COUNT k) ≤ s.get (O.MT_PROGRESS k) then s.mtBodyDone k else s.stroke k a
  | 3, 2, _ => (s.forAll m.ports (fun s n => s.setCapped n true)).mtBodyDone k
  | 4, 2, _ => (s.forAll m.ports (fun s n => s.setCapped n false)).mtBodyDone k
  | 5, 0, _ =>
    let s := match m.relay with
      | some r => s.relayDrive (r % 4) (r / 4) 2 0
      | none => s
    s.mtWait k 1 (s.get (O.MT_TIME_B k))
  | 5, 1, _ => s.spitBegin k
  | _, _, _ => s

/-- Rotations, readings or tests of a port's range are done. -/
def portDone (s : State) (k n : Nat) : Bool :=
  let m := s.mt k
  match mtKind s k with
  | 6 => (match mtLast s k n with
      | some last => decide (last < tget (s.get (O.MT_FIRST k)) m.next n)
      | none => true) && (s.health n).suspect.isNone && !asking s (ofPort n) || snsFault s n
  | 7 => (match mtLast s k n with
      | some last => decide (last < tget (s.get (O.MT_FIRST k)) m.next n)
      | none => true) && !asking s (ofPort n)
  | _ => decide (s.get (O.MT_COUNT k) + rdMax s n ≤ tget 0 m.fired n) && decide ((s.fire n).spit ≠ some k)

/-! ### The deep test's result (R307) -/

/-- A number put into a list in rising order. -/
def sortIns : List Nat → Nat → List Nat
  | [], x => [x]
  | a :: l, x => if x ≤ a then x :: a :: l else a :: sortIns l x

/-- Twice the median of a list. -/
def median2 (l : List Nat) : Nat :=
  let m := l.foldl sortIns []
  let n := m.length
  if n % 2 = 1 then 2 * m.getD (n / 2) 0 else m.getD (n / 2 - 1) 0 + m.getD (n / 2) 0

/-- Class of a signature against its group's median: 0 GOOD, 1 DRY, 2 COLD. -/
def deepClass (s : State) (n med2 sig : Nat) : Nat :=
  if med2 * s.get (O.HP_DEEP_DRY n) < sig * 512 then 1 else if sig * 512 < med2 * s.get (O.HP_DEEP_COLD n) then 2 else 0

/-- The range of a port is done: classes within each fire group, counts, and masks. -/
def State.deepFinish (s : State) (k n : Nat) : State :=
  match mtLast s k n with
  | none => s
  | some last =>
    let first := s.get (O.MT_FIRST k)
    let zs := ((List.range (last + 1 - first)).map (first + ·)).filter (fun z => decide (deepWord s n z / 2 ^ 28 % 4 ≠ 3))
    let g := max 1 (rcGroups s n)
    let med := (List.range g).map (fun i => median2 ((zs.filter (fun z => decide (z % g = i))).map (fun z => deepWord s n z % 65536)))
    let cls := zs.map (fun z => (z, deepClass s n (med.getD (z % g) 0) (deepWord s n z % 65536)))
    let s := cls.foldl (fun s e => let w := deepWord s n e.1
      s.deepStore n e.1 e.2 (w / 65536 % 4096) (w % 65536)) s
    let dry := (cls.filter (fun e => decide (e.2 = 1))).length
    let cold := (cls.filter (fun e => decide (e.2 = 2))).length
    let s := s.set (O.HP_DEEP_COUNTS n) (cold * 65536 + dry)
    let s := s.setB (O.HP_HEALTH_EVENTS n) B.HP_HEALTH_EVENTS_DEEP_DONE true
    let s := s.setB (O.HP_HEALTH_STATUS n) B.HP_HEALTH_STATUS_DEEP_RUNNING false
    if s.bit (O.HP_HEALTH_CONTROL n) B.HP_HEALTH_CONTROL_DEEP_MASK then
      cls.foldl (fun s e => if e.2 = 0 then s else
        let s := (s.setHealth n { s.health n with found := tput (s.health n).found e.1 (e.2 - 1) }).maskNozzle n e.1 true
        if s.bit (O.HP_HEALTH_CONTROL n) B.HP_HEALTH_CONTROL_REC_ON_MASK then s.recPend n (s.health n).recCause true else s) s
    else s

/-! ### Going on (Table 13.4) -/

/-- An axis that the slot moves: 0 still moving, 1 arrived, 2 stopped by another cause. -/
def mtArrived (s : State) (a : Nat) : Nat :=
  let x := s.ax a
  if axisState s a = 1 ∧ x.queue.isEmpty ∧ x.plan.isNone then (if s.bit (O.AX_STATUS a) B.AX_STATUS_IN_POSITION then 1 else 2)
  else if axisState s a = 1 ∨ axisState s a = 2 ∨ axisState s a = 3 then 0 else 2

/-- Every axis of the slot rests and no rotation of it fires. -/
def mtResting (s : State) (k : Nat) : Bool :=
  (s.mt k).axes.all (fun a => decide (axisState s a ≠ 2 ∧ axisState s a ≠ 3)) && ports.all (fun n => decide ((s.fire n).spit ≠ some k))

/-- The transitions of Table 13.4 that are due for a slot. -/
def State.mtCheck (s : State) (k : Nat) : State :=
  let m := s.mt k
  let st := mtState s k
  let kind := mtKind s k
  if st = 4 then
    if mtResting s k then
      let r := s.get (O.MT_RESULT k)
      ((s.mtTo k 6).mtRelease k).mtHit (if r = 6 then B.MT_EVENTS_ABORTED else B.MT_EVENTS_FAILED)
    else s
  else if st < 1 ∨ 4 < st then s
  else if !modeAllows s.mode kind then s.mtStop k 6
  else if m.axes.any (fun a => decide (axisState s a = 4 ∨ axisState s a = 5)) then s.mtStop k 8
  else if kindReads kind && m.convs.isEmpty then s.mtStop k 9
  else match m.moving with
    | some a =>
      match mtArrived s a with
      | 0 => s
      | 1 => if st = 1 then s.mtBody k else if st = 3 then s.mtFinish k else s.auxThere k a
      | _ => s.mtStop k 8
    | none =>
      if st = 2 ∧ m.ports.isEmpty ∧ (kind = 1 ∨ kind = 5 ∨ kind = 6 ∨ kind = 7) then s.mtBodyDone k
      else if st = 2 ∧ m.part = 3 ∧ m.ports.all (portDone s k) then s.mtBodyDone k
      else s

/-- Every slot takes the transitions that are due. -/
def State.mtSync (s : State) : State := s.forAll mtSlots (fun s k => s.mtCheck k)

/-! ### Rotations of an activity (R355, R306) -/

/-- The latch of a maintenance rotation whose frame is sent (R280 to R287, R355): its ROT_RESET leaves at uptime `u`, and its edges
follow from press time `start` on. A rotation without its frame, or blanked by the clamp, fires blank; the flag says the latter. -/
def State.maintRotate (s : State) (k n : Nat) (x : TLine) (u start : Nat) (newRun : Bool) : State × Bool :=
  let s := s.ptLatch n none
  let r := s.regulate n
  let s := if x.frame = 4 then r.1.headBlank n else r.1
  let s := s.rotReset n x.lseq u (rotFlags s n (decide (3 ≤ x.frame) || r.2.2) newRun false r.2.2)
  let s := (s.setFire n { s.fire n with spit := some k }).setSched n { s.sched n with maint := none }
  (s.rotate n start r.2.1, r.2.2)

/-- SPIT_ROTATION_DUE (R280, R355): the latch of a port's next rotation, not sooner than 500 ns before its first edge at
t_b + m × MT_PERIOD + φ; the frame of the rotation after it follows. A latch that comes late moves the edge, so that the ROT_RESET
stands 150 ns before it (R250) (DESIGN CHOICE, log 114). -/
def execSpitRotationDue (k n t : Nat) (s : State) : Host.Outcome State Fault Refusal :=
  let s := s.advPort n t
  let m := s.mt k
  let i := tget 0 m.fired n
  match (s.sched n).maint with
  | none => .next s
  | some x =>
    if mtState s k ≠ 2 ∨ m.part ≠ 3 ∨ !(decide (mtKind s k = 1) || decide (mtKind s k = 5)) ∨ !m.ports.contains n
        ∨ ptLt (s.pt + 12800) (firstEdge s n x) ∨ !fiQuiet s n 0 ∨ !groupOn s (groupOf n) ∨ (s.fire n).spit.isSome then .next s
    else
      let s := (s.maintRotate k n x s.up (ptMax (firstEdge s n x) (s.pt + 2 * fuUnit + 3840)) (decide (i = 0))).1
      let s := (s.setMt k { s.mt k with fired := tput m.fired n (i + 1) }).inc (O.MT_PROGRESS k)
      .next (s.spitFrame k n (i + 1))

/-- ROTATION_END (R269): the last pulse has fallen. -/
def execRotationEnd (n t : Nat) (s : State) : Host.Outcome State Fault Refusal :=
  .next (((s.advPort n t).rotationEnd n).mtSync)

/-! ### Readings of an activity (R306, R360) -/

/-- A reading of FAST_ROLL gave nothing and is made again (R301, R360). -/
def State.fastAgain (s : State) (k n : Nat) : State := (s.fastAsk k n).mtSync

/-- A reading of FAST_ROLL has been delivered; a heater reading moves on unless it re-reads a suspect. -/
def State.fastNext (s : State) (k n : Nat) (passed : Option Nat) : State :=
  let m := s.mt k
  let s := match passed with
    | some z => if tget (s.get (O.MT_FIRST k)) m.next n = z then s.setMt k { m with next := tput m.next n (z + 1) } else s
    | none => s
  ((s.inc (O.MT_PROGRESS k)).fastAsk k n).mtSync

/-- The deep test goes on to the next nozzle of a port; with the last of its range the port's result is formed (R307). -/
def State.deepNext (s : State) (k n z : Nat) : State :=
  let m := s.mt k
  let s := (s.setMt k { m with next := tput m.next n (z + 1), deep := tdel m.deep n }).inc (O.MT_PROGRESS k)
  (if (mtLast s k n).any (fun last => decide (last ≤ z)) then s.deepFinish k n else s).mtSync

/-- A nozzle is NOT_MEASURED (R306). -/
def State.deepFail (s : State) (k n z : Nat) : State := (s.deepStore n z 3 0 0).deepNext k n z

/-- S and D of R306 for R_c, R_1 and R_4, R_1 above R_c and R_c not 0. -/
def deepSig (rc r1 : Nat) : Nat := min 65535 ((r1 - rc) * 65536 / rc)
def deepDecay (rc r1 r4 : Nat) : Nat := min 4095 ((r4 - rc) * 4096 / (r1 - rc))

/-- The press time `us` µs after the last FI falling edge of a port. -/
def afterFi (s : State) (n us : Nat) : Nat := ((s.fire n).endAt.getD s.pt + us * fuUs) % 2 ^ 64

/-- A reading of the deep test in 1/16 mV (R306): the cold reading sends the frame and fires the rotation, which is latched with it; the last
stores S and D. Answers
the press time at which the next reading starts, none when the nozzle is done (DESIGN CHOICE, log 114). -/
def State.deepReading (s : State) (k n z u : Nat) : State × Option Nat :=
  let r := s.resistance n u
  let s := r.2
  let m := s.mt k
  let got := tget [] m.deep n ++ [r.1]
  let s := s.setMt k { m with deep := tput m.deep n got }
  match got with
  | [_] =>
    let codes := (List.range (nozzles s n)).map (fun i => if i = z then s.get (O.HP_DEEP_CODE n) else 0)
    if !groupOn s (groupOf n) then (s.deepFail k n z, none)
    else
      let s := s.maintFrame n (pressAt s (laneFree s n + leastLead s n * 64)) codes
      match (s.sched n).maint with
      | none => (s.deepFail k n z, none)
      | some x =>
        let e := firstEdge s n x
        let r := s.maintRotate k n x (upAtPress s e - 12800) e true
        if r.2 then (r.1.deepFail k n z, none) else (r.1, some (afterFi r.1 n 3))
  | [_, _] => (s, some (afterFi s n 6))
  | [_, _, _] => (s, some (afterFi s n 12))
  | [_, _, _, _] => (s, some (afterFi s n 24))
  | [rc, r1, _, _, r4] =>
    if r1 ≤ rc ∨ rc = 0 then (s.deepFail k n z, none)
    else ((s.deepStore n z 0 (deepDecay rc r1 r4) (deepSig rc r1)).deepNext k n z, none)
  | _ => (s.deepFail k n z, none)

/-- DEEP_SPACING_DUE (R306): the deep test of the next nozzle starts with its cold reading, or a temperature reading that
is due takes its place (R360). -/
def execDeepSpacingDue (k n t : Nat) (s : State) : Host.Outcome State Fault Refusal :=
  let s := s.advPort n t
  let m := s.mt k
  let space := s.get (O.HP_DEEP_SPACING n) * (fuUs / 10)
  let early := m.deepAt.any (fun e => decide (e.1 = n ∧ s.up < e.2 + space))
  match mtLast s k n with
  | none => .next s
  | some last =>
    let z := tget (s.get (O.MT_FIRST k)) m.next n
    let idle := decide (mtState s k ≠ 2 ∨ m.part ≠ 3 ∨ mtKind s k ≠ 7 ∨ last < z) || !m.ports.contains n || early || asking s (ofPort n)
    if idle then .next s
    else
      let s := s.setMt k { m with deepAt := tput m.deepAt n s.up, deep := tdel m.deep n }
      if (s.health n).tempDue then .next (s.senseAsk (headReq s n 6 .temp 0 (some k)))
      else
        let r := headReq s n 6 .deep z (some k)
        .next (s.senseAsk { r with count := 5, deadline := some (s.up + space) })

/-- A converter of a running FAST_ROLL or DEEP is retired (R363). -/
def State.mtConvDrop (s : State) (c : Nat) : State :=
  match claimant s c with
  | none => s
  | some k =>
    let m := s.mt k
    ((((s.setMt k { m with convs := setDel m.convs c }).setB O.MT_CONV_CLAIMED c false).inc (O.MT_LOST k)).forAll m.ports (fun s n =>
      if mtKind s k = 6 then s.fastAsk k n else s)).mtSync

/-! ### Commands -/

/-- A write of MT_CMD: 1 starts (R354), 2 aborts a running activity (R362). -/
def wrMtCmd (k v : Nat) (s : State) : WRes :=
  if v = 1 then s.mtTry k
  else if v = 2 then .ok (if 1 ≤ mtState s k ∧ mtState s k ≤ 3 then (s.mtStop k 6).mtSync else s)
  else .no s abRange

/-- MT_START (R354). -/
def execMtStart (p : Path) (k : Nat) (s : State) : Host.Outcome State Fault Refusal := access p (O.MT_CMD k) s (wrMtCmd k 1)

/-- MT_ABORT (R362). -/
def execMtAbort (p : Path) (k : Nat) (s : State) : Host.Outcome State Fault Refusal := access p (O.MT_CMD k) s (wrMtCmd k 2)

/-- MT_DWELL_EXPIRY (R354, R357): a dwell, pump or settle time runs out. -/
def execMtDwellExpiry (k t : Nat) (s : State) : Host.Outcome State Fault Refusal :=
  let s := s.adv t
  let m := s.mt k
  if mtState s k = 2 ∧ m.part ≠ 3 ∧ m.moving.isNone ∧ m.until' ≤ s.up then .next ((s.dwellOver k).mtSync) else .next s

/-- A write of MT_CAPPED_CLR (R357). -/
def wrCappedClr (v : Nat) (s : State) : WRes :=
  need s (decide (v < 96)) abRange (need s (decide (s.mode ≠ mdPrint)) abState (.ok (s.setCapped v false)))

/-- MT_CAPPED_CLR (R357). -/
def execMtCappedClr (p : Path) (v : Nat) (s : State) : Host.Outcome State Fault Refusal :=
  access p O.MT_CAPPED_CLR s (wrCappedClr v)

/-- A SPIT_BURST action starts its slot (R365). -/
def State.spitBurst (s : State) (k : Nat) : State :=
  match s.mtTry k with
  | .ok s => s
  | .no s _ => s.mtHit B.MT_EVENTS_ACTION_REFUSED

end Sys2Proof.Machine
end

