-- ==== Sys2Proof/Machine/Drops.lean ====
section
/-! DEFINITION. Commands that may take a port from a maintenance activity: what they do is followed by the transitions of the
activities that are due (R356, R363). -/

namespace Sys2Proof.Machine

/-- A write that stands is followed by the activities' transitions that are due. -/
def WRes.mtSync : WRes → WRes
  | .ok s => .ok s.mtSync
  | r => r

/-- JOB_ENTER_RUNNING (R120): the next eligible job enters RUNNING. -/
def execJobEnterRunning (s : State) : Host.Outcome State Fault Refusal := .next s.enterNext.mtSync

/-- LINE_RELEASE (R212). -/
def execLineRelease (n t ecc : Nat) (s : State) : Host.Outcome State Fault Refusal :=
  .next ((s.advPort n t).releaseLine n ecc).mtSync

/-- PG_CLAMP_TIMEOUT (R288): CLAMP or V_STALE has stood for HP_PG_CLAMP_TIME. -/
def execPgClampTimeout (g t : Nat) (s : State) : Host.Outcome State Fault Refusal :=
  let s := s.adv t
  let p := s.pg g
  let lim := s.get (O.HP_PG_CLAMP_TIME g)
  let beyond := fun (a : Option Nat) => match a with
    | some x => decide (x + lim * fuUs ≤ s.up)
    | none => false
  if groupState s g = 2 ∧ lim ≠ 0 ∧ (beyond p.clampAt || beyond p.staleAt) then .next (s.pgFault g 1).mtSync else .next s

/-- PG_RAMP_TIMEOUT (Table 10.6). -/
def execPgRampTimeout (g t : Nat) (s : State) : Host.Outcome State Fault Refusal :=
  let s := s.adv t
  if groupState s g = 1 ∧ (s.pg g).rampAt + s.get (O.HP_PG_RAMP_LIMIT g) * fuMs ≤ s.up then .next (s.pgFault g 0).mtSync
  else .next s

/-- PG_ENABLE (R291): a write of HP_PG_CONTROL with the two other bits clear. -/
def execPgEnable (p : Path) (g : Nat) (on : Bool) (s : State) : Host.Outcome State Fault Refusal :=
  access p (O.HP_PG_CONTROL g) s (fun s => (wrPgControl g on.toNat s).mtSync)

/-- PG_CLR_FAULT (R290): a write of HP_PG_CONTROL with CLR_FAULT set. -/
def execPgClrFault (p : Path) (g v : Nat) (s : State) : Host.Outcome State Fault Refusal :=
  access p (O.HP_PG_CONTROL g) s (fun s => (wrPgControl g (putBit v B.HP_PG_CONTROL_CLR_FAULT true) s).mtSync)

/-- PG_CLR_STATS (R297): a write of HP_PG_CONTROL with CLR_STATS set. -/
def execPgClrStats (p : Path) (g v : Nat) (s : State) : Host.Outcome State Fault Refusal :=
  access p (O.HP_PG_CONTROL g) s (fun s => (wrPgControl g (putBit v B.HP_PG_CONTROL_CLR_STATS true) s).mtSync)

/-- TEMP_AGE_EXPIRY (R29, R310): no plausible reading for HP_TEMP_AGE; before the first one the age counts from the link's coming
up (DEDUCED, log 112). -/
def execTempAgeExpiry (n t : Nat) (s : State) : Host.Outcome State Fault Refusal :=
  let s := s.adv t
  let h := s.health n
  let from' := match h.tempAt with
    | some a => some a
    | none => if linkUp s n then some h.upAt else none
  if from'.any (fun a => ptLt (a + s.get (O.HP_TEMP_AGE n) * fuMs) s.pt) then .next (s.tempStale n).mtSync else .next s

/-- CLR_BROKEN (Table 11.3): a write with CLR_BROKEN set; `u` is the reading taken on it, if one could be made. -/
def execClrBroken (p : Path) (n v : Nat) (u : Option Nat) (s : State) : Host.Outcome State Fault Refusal :=
  access p (O.HP_HEALTH_CONTROL n) s
    (fun s =>
      (wrHealthControl n (putBit (putBit v B.HP_HEALTH_CONTROL_CLR_SNS_FAULT false) B.HP_HEALTH_CONTROL_CLR_BROKEN true) none u s).mtSync)

/-- CLR_SNS_FAULT (R305): a write with CLR_SNS_FAULT set; `u` is the REF reading taken on it, if one could be made. -/
def execClrSnsFault (p : Path) (n v : Nat) (u : Option Nat) (s : State) : Host.Outcome State Fault Refusal :=
  access p (O.HP_HEALTH_CONTROL n) s
    (fun s =>
      (wrHealthControl n (putBit (putBit v B.HP_HEALTH_CONTROL_CLR_BROKEN false) B.HP_HEALTH_CONTROL_CLR_SNS_FAULT true) u none s).mtSync)

/-- TWIN_TAKE_OVER (R321, R322). -/
def execTwinTakeOver (p : Path) (n : Nat) (s : State) : Host.Outcome State Fault Refusal :=
  access p (O.HP_TWIN_CMD n) s (fun s => (wrTwinCmd n 1 s).mtSync)

/-- TWIN_HAND_BACK (R322). -/
def execTwinHandBack (p : Path) (n : Nat) (s : State) : Host.Outcome State Fault Refusal :=
  access p (O.HP_TWIN_CMD n) s (fun s => (wrTwinCmd n 2 s).mtSync)

/-- BRINGUP (R261): a write with BRINGUP set. -/
def execBringup (p : Path) (n v : Nat) (s : State) : Host.Outcome State Fault Refusal :=
  access p (O.HP_CONTROL n) s (fun s => (wrHpControl n (putBit v B.HP_CONTROL_BRINGUP true) s).mtSync)

/-- RETIRE (R266): a write with RETIRE set. -/
def execRetire (p : Path) (n v : Nat) (s : State) : Host.Outcome State Fault Refusal :=
  access p (O.HP_CONTROL n) s (fun s => (wrHpControl n (putBit v B.HP_CONTROL_RETIRE true) s).mtSync)

/-- CLR_RETIRE (Table 9.13): a write with CLR_RETIRE set. -/
def execClrRetire (p : Path) (n v : Nat) (s : State) : Host.Outcome State Fault Refusal :=
  access p (O.HP_CONTROL n) s (fun s => (wrHpControl n (putBit v B.HP_CONTROL_CLR_RETIRE true) s).mtSync)

/-- NAK_RX (R265). -/
def execNakRx (n epoch lseq reason t : Nat) (s : State) : Host.Outcome State Fault Refusal :=
  let s := s.advPort n t
  .next (s.message n epoch (answersFrame s n lseq) (fun s =>
    let k := s.link n
    match outstanding s n lseq with
    | some _ => s.refuseFrame n lseq B.HP_LINK_STATUS_NAK
    | none => (s.setLink n { k with absorb := k.absorb.erase lseq }).emit (.note "absorbed" [n, lseq, reason]))).mtSync

/-- ACK_TIMEOUT (R265): no answer HP_ACK_TIMEOUT after LINE_END left. -/
def execAckTimeout (n lseq t : Nat) (s : State) : Host.Outcome State Fault Refusal :=
  let s := s.advPort n t
  match outstanding s n lseq with
  | none => .next s
  | some o =>
    if o.2 + s.get (O.HP_ACK_TIMEOUT n) * 2560 ≤ s.up then
      let s := s.setLink n { s.link n with late := lseq :: (s.link n).late.filter (fun q => q ≠ lseq) }
      .next ((s.inc (O.HP_ACK_TIMEOUTS n)).refuseFrame n lseq B.HP_LINK_STATUS_ACK_TIMEOUT).mtSync
    else .next s

/-- What a STATUS of the head does (R255, R262, R266, R319). -/
def State.headStatus (s : State) (n flags : Nat) : State :=
  let flags := flags % 1024
  let locks := decide (flags % 8 = 7)
  let s := s.set (O.HP_HEAD_FLAGS n) flags
  let s := if bitOf flags 9 then s.spoilSense n else s
  let s := s.setHealth n { s.health n with hot := bitOf flags 6 }
  if linkUp s n then
    let s := if locks then s else s.setB (O.HP_LINK_STATUS n) B.HP_LINK_STATUS_LOCK_LOST true
    let s := s.thermalEval n
    let s := if bitOf flags 8 then
        let k := s.link n
        let at' := (k.rots :: k.rotErrAt).filter (fun a => k.rots < a + 4096)
        let s := ((s.setLink n { k with rotErrAt := at' }).inc (O.HP_ROT_ERRORS n)).setB (O.HP_LINK_STATUS n) B.HP_LINK_STATUS_ROT_ERR true
        if 8 < at'.length then s.retirePort n else s
      else s
    if bitOf flags 4 then (s.setB (O.HP_LINK_STATUS n) B.HP_LINK_STATUS_HEAD_FAULT true).retirePort n else s
  else if linkState s n = 2 ∧ locks ∧ !(s.link n).locked then
    ((s.setLink n { s.link n with locked := true }).setB (O.HP_STATE n) B.HP_STATE_RET_LINK true).trimStep n
  else s

/-- STATUS_RX (R254, Table 9.8, Table 9.15). -/
def execStatusRx (n epoch flags t : Nat) (s : State) : Host.Outcome State Fault Refusal :=
  .next ((s.advPort n t).message n epoch true (fun s => s.headStatus n flags)).mtSync

/-- RET_ERROR (R252): a malformed message is discarded and counted. -/
def execRetError (n t : Nat) (s : State) : Host.Outcome State Fault Refusal :=
  let s := s.advPort n t
  let k := s.link n
  let at' := s.span fuMs k.badAt
  let s := ((s.setLink n { k with badAt := at' }).inc (O.HP_RET_ERRORS n)).setB (O.HP_LINK_STATUS n) B.HP_LINK_STATUS_RET_ERROR true
  .next (if linkUp s n ∧ 32 < at'.length then (s.retirePort n).mtSync else s)

/-- HEAD_SILENT (Table 9.15): no valid message for 2 ms. -/
def execHeadSilent (n t : Nat) (s : State) : Host.Outcome State Fault Refusal :=
  let s := s.adv t
  if (s.link n).lastMsg + 2 * fuMs ≤ s.up then .next (s.headSilent n).mtSync else .next s

end Sys2Proof.Machine
end

