-- ==== Sys2Proof/Machine/Axis.lean ====
section
/-! DEFINITION. The commands and events of motion axes, interpolation groups and drive stages (chapters 14 and 15). -/
namespace Sys2Proof.Machine

/-! ### Stage faults (R409 to R411) -/

/-- A stage fault: FAULT is set, the outputs go off, and the axis halts with cause 3 (R411, Table 15.6). -/
def State.stageFault (s : State) (a bit : Nat) : State :=
  let s := (s.setB (O.DS_STATUS a) B.DS_STATUS_FAULT true).hit (O.DS_EVENTS a) bit (520 + a) 1
  ((s.stageOff a).haltAxis a 3).mtSync

/-- The halt causes that can persist do (R381, R411): `flt` is the level of the stage's fault input, low or not. -/
def haltPersists (s : State) (a : Nat) (flt : Bool) : Bool :=
  let pi := fun o => match o with
    | some i => piFault s i
    | none => false
  motionOff s || clockInhibit s || (flt && s.bit (O.DS_CONFIG a) B.DS_CONFIG_FLT_EN)
    || (decide (16 ≤ a) && (pi (axisHall s a) || pi (axisEnc s a)))

/-! ### AX_CMD (R368, R380, R381, R385) -/

/-- The axis may be enabled, its milestone apart (R368); a stage fault that stands is a halt cause that persists
(DEDUCED, log 123). -/
def mayEnable (s : State) (a : Nat) (flt : Bool) : Bool :=
  let on := fun o => match o with
    | some i => decide (piMode s i ≠ 0)
    | none => true
  let hall := match axisHall s a with
    | some i => decide (piMode s i = 2) && !piFault s i
    | none => false
  decide (s.mode = mdReady ∨ s.mode = mdPrint ∨ s.mode = mdService) && decide (axisState s a = 0)
    && !haltPersists s a flt && !s.bit (O.DS_STATUS a) B.DS_STATUS_FAULT && !motionStopped s && (isStepper a || hall)
    && on (axisEnc s a) && on (axisHall s a) && on (stepInput s a) && stageConfigured s a

/-- The axis becomes IDLE where it stands. -/
def State.axIdle (s : State) (a : Nat) : State :=
  let s := (s.axState a 1).set (O.AX_HALT_CAUSE a) 0
  let s := (s.setB (O.AX_STATUS a) B.AX_STATUS_OUTPUTS_OFF false).setB (O.DS_STATUS a) B.DS_STATUS_FAULT false
  let x := s.ax a
  let p := if 16 ≤ a then (measured s a).getD x.p else x.p
  ((s.setAx a { x.rest with p := p, i := 0, tau := 0 }).stageOn a).axShow a

/-- Enabling (R368, R402): a position source gives the position, and a step input begins to be followed
(DEDUCED, log 127). -/
def State.axEnable (s : State) (a : Nat) : State :=
  let x := s.ax a
  let s := (s.setAx a { x with p := (measured s a).getD x.p }).axIdle a
  let s := s.setB (O.AX_STATUS a) B.AX_STATUS_HOMED false
  let s := match stepInput s a with
    | some i =>
      let p0 := axisPos s a
      (s.setDs a { s.ds a with c0 := s.get (O.PI_COUNT i), p0 := p0, goal := p0, edge := none, speed := 0, lagAt := none }).setB
        (O.DS_STATUS a) B.DS_STATUS_STEP_FOLLOW true
    | none => s
  (s.hallSync a).limitCheck a

/-- A write of AX_CMD: `flt` says that the stage's fault input is low at the write (DEDUCED, log 123). -/
def wrAxCmd (a v : Nat) (flt : Bool) (s : State) : WRes :=
  let s := s.setB (O.DS_STATUS a) B.DS_STATUS_FLT_IN flt
  let st := axisState s a
  let mine := decide (s.get (O.AX_OWNER a) = ownerHost)
  match v with
  | 1 =>
    if !mayEnable s a flt then .no s abState
    else
      let m := s.get (O.AX_TRIG_MS a)
      if axCfg s a B.AX_CONFIG_TRIG_EN ∧ m < 64 then
        match s.msClaim m 4 with
        | .ok s => .ok (s.axEnable a)
        | .no s c => .no (s.axHit a B.AX_EVENTS_RESOURCE_CONFLICT) c
      else .ok (s.axEnable a)
  | 2 => .ok ((s.decelStop a true).mtSync)
  | 3 => need s mine abLocal (.ok (s.decelStop a false))
  | 4 => need s mine abLocal (.ok ((s.haltAxis a 7).mtSync))
  | 5 =>
    if st = 4 ∨ st = 5 then need s (!haltPersists s a flt) abState (.ok (s.axIdle a))
    else if s.bit (O.DS_STATUS a) B.DS_STATUS_FAULT then
      need s (!haltPersists s a flt) abState (.ok (s.setB (O.DS_STATUS a) B.DS_STATUS_FAULT false))
    else .ok s
  | 6 => .ok (s.setB (O.AX_STATUS a) B.AX_STATUS_POS_UNCERTAIN false)
  | _ => .no s abRange

/-- AX_ENABLE (R368). -/
def execAxEnable (p : Path) (a : Nat) (flt : Bool) (s : State) : Host.Outcome State Fault Refusal :=
  access p (O.AX_CMD a) s (wrAxCmd a 1 flt)
/-- AX_STOP_DISABLE (R368, R380). -/
def execAxStopDisable (p : Path) (a : Nat) (s : State) : Host.Outcome State Fault Refusal :=
  access p (O.AX_CMD a) s (wrAxCmd a 2 (s.bit (O.DS_STATUS a) B.DS_STATUS_FLT_IN))
/-- AX_DECEL_STOP (R380). -/
def execAxDecelStop (p : Path) (a : Nat) (s : State) : Host.Outcome State Fault Refusal :=
  access p (O.AX_CMD a) s (wrAxCmd a 3 (s.bit (O.DS_STATUS a) B.DS_STATUS_FLT_IN))
/-- AX_HALT (R381, R382). -/
def execAxHalt (p : Path) (a : Nat) (s : State) : Host.Outcome State Fault Refusal :=
  access p (O.AX_CMD a) s (wrAxCmd a 4 (s.bit (O.DS_STATUS a) B.DS_STATUS_FLT_IN))
/-- AX_CLEAR_HALT (R381, R411). -/
def execAxClearHalt (p : Path) (a : Nat) (flt : Bool) (s : State) : Host.Outcome State Fault Refusal :=
  access p (O.AX_CMD a) s (wrAxCmd a 5 flt)
/-- AX_CLEAR_UNCERTAIN (R393). -/
def execAxClearUncertain (p : Path) (a : Nat) (s : State) : Host.Outcome State Fault Refusal :=
  access p (O.AX_CMD a) s (wrAxCmd a 6 (s.bit (O.DS_STATUS a) B.DS_STATUS_FLT_IN))

/-- A write of AX_MV_PUSH. -/
def wrMvPush (a v : Nat) (s : State) : WRes :=
  need s (decide (v = 1)) abRange (s.tryPush a ownerHost (stagedMove s a))

/-- AX_MV_PUSH (R371). -/
def execAxMvPush (p : Path) (a : Nat) (s : State) : Host.Outcome State Fault Refusal := access p (O.AX_MV_PUSH a) s (wrMvPush a 1)

/-- A write of AX_POS sets the axis's offset and moves nothing (R367, R393). -/
def wrAxPos (a v : Nat) (s : State) : WRes :=
  let st := axisState s a
  need s (decide (st = 0 ∨ st = 1 ∨ st = 4)) abState (
    let x := s.ax a
    let pos := toSigned 64 v
    let x := if a < 16 then { x with mOff := x.mOff + (pos * auU - x.p), p := pos * auU,
                                     off := pos * auU - x.ext * s.getI (O.AX_ENC_RATIO a) * 65536 }
      else { x with off := pos - x.ext, p := x.p + (pos - (x.ext + x.off)) * auU }
    .ok ((s.putAx a x).limitCheck a))

/-- AX_POS_WRITE (R367). -/
def execAxPosWrite (p : Path) (a v : Nat) (s : State) : Host.Outcome State Fault Refusal := access p (O.AX_POS a) s (wrAxPos a v)

/-- A write of AX_CONFIG (R385, R386): `v` is the word stored. -/
def wrAxConfig (a v : Nat) (s : State) : WRes :=
  let hall := fieldOf v B.AX_CONFIG_HALL_PI
  let role := fieldOf v B.AX_CONFIG_ROLE
  let pred := fieldOf v B.AX_CONFIG_PRED
  let others := axes.filter (fun b => b ≠ a)
  let clash := fun (s : State) => WRes.no (s.conflict (O.AX_EVENTS a) B.AX_EVENTS_RESOURCE_CONFLICT |>.raise (520 + a) 0
    (detailOf (O.AX_EVENTS a) B.AX_EVENTS_RESOURCE_CONFLICT)) abLocal
  if axisState s a ≠ 0 then .no s abState
  else if role = 1 ∧ a < 16 then .no s abRange
  else if 16 ≤ a ∧ hall < 12 ∧ others.any (fun b => decide (axisHall s b = some hall)) then clash s
  else if role ≠ 0 ∧ others.any (fun b => decide (s.fld (O.AX_CONFIG b) B.AX_CONFIG_ROLE = role ∧ s.fld (O.AX_CONFIG b) B.AX_CONFIG_PRED = pred)) then
    clash s
  else
    let old := axisSource s a
    let s := s.set (O.AX_CONFIG a) v
    let new := axisSource s a
    let s := match new with
      | some i =>
        let c := s.get (O.PI_COUNT i)
        if new = old then s else s.setAx a { s.ax a with ext := c, last := c }
      | none => s
    .ok (((s.axCount a).limitCheck a).axShow a)

/-! ### Interpolation groups (R389 to R391) -/

def State.igFlagTo (s : State) (g i : Nat) (b : Bool) : State := s.setB (O.AX_IG_STATUS g) i b

/-- A write of AX_IG_CMD. -/
def wrIgCmd (g v : Nat) (s : State) : WRes :=
  let ms := members s g
  let on := igFlag s g 0
  match v with
  | 1 =>
    if ms.length < 2 ∨ 4 < ms.length ∨ ms.any (fun a => decide (16 ≤ a) && !axCfg s a B.AX_CONFIG_POS_LOOP) then .no s abRange
    else if ms.any (fun a => decide (s.get (O.AX_OWNER a) ≠ ownerHost)) then .no s abLocal
    else if ms.any (fun a => decide (axisState s a ≠ 1) || (decide (s.fld (O.AX_CONFIG a) B.AX_CONFIG_ROLE ≠ 0)
        && ports.any (fun n => armed s n && decide (predOf s n = s.fld (O.AX_CONFIG a) B.AX_CONFIG_PRED)))) then .no s abState
    else
      let s := s.forAll ms (fun s a => (s.set (O.AX_OWNER a) (2 + g)).axShow a)
      .ok ((s.setIg g {}).set (O.AX_IG_STATUS g) 1)
  | 2 =>
    if !on then .ok s
    else if (s.ig g).plan.isSome ∨ !(s.ig g).queue.isEmpty then .no s abState
    else .ok ((s.forAll ms (fun s a => (s.set (O.AX_OWNER a) ownerHost).axShow a)).set (O.AX_IG_STATUS g) 0)
  | 3 => .ok (if on ∧ !igFlag s g 2 then s.igStop g else s)
  | 4 => .ok (if on then (s.forAll ms (fun s a => s.axHalt a 7)).igClear g true else s)
  | _ => .no s abRange

/-- AX_IG_ENABLE (R389). -/
def execAxIgEnable (p : Path) (g : Nat) (s : State) : Host.Outcome State Fault Refusal := access p (O.AX_IG_CMD g) s (wrIgCmd g 1)
/-- AX_IG_RELEASE (R389). -/
def execAxIgRelease (p : Path) (g : Nat) (s : State) : Host.Outcome State Fault Refusal := access p (O.AX_IG_CMD g) s (wrIgCmd g 2)
/-- AX_IG_STOP (R391). -/
def execAxIgStop (p : Path) (g : Nat) (s : State) : Host.Outcome State Fault Refusal := access p (O.AX_IG_CMD g) s (wrIgCmd g 3)
/-- AX_IG_HALT (R391). -/
def execAxIgHalt (p : Path) (g : Nat) (s : State) : Host.Outcome State Fault Refusal := access p (O.AX_IG_CMD g) s (wrIgCmd g 4)

/-- A write of AX_IG_PUSH (R390), under the checks of R371 on every member (DEDUCED, log 40). -/
def wrIgPush (g v : Nat) (s : State) : WRes :=
  let ms := members s g
  let x := s.ig g
  let ts := (List.range ms.length).map (fun i => s.getI (O.AX_IG_TARGET g i))
  let m : GMove := ⟨ts, s.get (O.AX_IG_VEL g), s.get (O.AX_IG_ACC g), s.get (O.AX_IG_DEC g), s.get (O.AX_IG_JERK g)⟩
  if v ≠ 1 then .no s abRange
  else if !igFlag s g 0 ∨ ms.any (fun a => !takesMoves s a) then .no s abState
  else if 16 ≤ x.queue.length then .no (s.igFlagTo g 4 true) abState
  else if m.vel = 0 ∨ m.acc = 0 ∨ m.dec = 0 then .no s abRange
  else if (ms.zip ts).any (fun e => limited s e.1 && decide (e.2 < limitLo s e.1 ∨ limitHi s e.1 < e.2)) then .no s abRange
  else match ms.find? (fun a => notStill s a && x.plan.isNone) with
    | some a => .no (s.axHit a B.AX_EVENTS_NOT_STILL) abState
    | none =>
      let q := x.queue ++ [m]
      let s := ((s.setIg g { x with queue := q }).set (O.AX_IG_Q_COUNT g) q.length).igFlagTo g 3 false
      .ok (s.igFlagTo g 4 (decide (16 ≤ q.length)))

/-- AX_IG_PUSH (R390). -/
def execAxIgPush (p : Path) (g : Nat) (s : State) : Host.Outcome State Fault Refusal := access p (O.AX_IG_PUSH g) s (wrIgPush g 1)

/-! ### Time-driven steps (R370, R383, R384) -/

/-- An axis that a running group carries. -/
def carried (s : State) (a : Nat) : Bool := match groupOwner s a with
  | some g => (s.ig g).plan.isSome
  | none => false

/-- One 10 µs step of an enabled axis. -/
def State.stepAxis (s : State) (a : Nat) : State :=
  let st := axisState s a
  if st = 0 then s
  else
    let s := if st = 4 ∨ st = 5 ∨ carried s a then s else if stepping s a then s.followStep a else s.axStep a
    let s := (((s.axCount a).holdStep a).microSync a).axShow a
    let s := s.limitCheck a
    if a < 16 then s.followCheck a else s

/-- PROFILE_STEP (R370): every 10 µs the profile of each axis and group advances by 10 µs, and moves complete. -/
def execProfileStep (t : Nat) (s : State) : Host.Outcome State Fault Refusal :=
  let s := s.adv t
  if tooEarly s s.clk.profAt (10 * fuUs) then .next s
  else
    let s := s.forAll steppers (fun s a => s.microSync a)
    let s := s.forAll axes (fun s a => s.setAx a { s.ax a with step := 0 })
    let s := (s.setClk { s.clk with profAt := some s.up }).forAll slots (fun s g => s.igStep g)
    .next ((s.forAll axes (fun s a => s.stepAxis a)).mtSync)

/-- One loop cycle of a brushless axis (R383). -/
def State.loopCycle (s : State) (a : Nat) : State :=
  let st := axisState s a
  if st ≠ 1 ∧ st ≠ 2 ∧ st ≠ 3 then s
  else
    let x := s.ax a
    let pm := (measured s a).getD x.p
    let vs := divRound (x.v * 256 + if axCfg s a B.AX_CONFIG_POS_LOOP then s.get (O.AX_KPOS a) * (x.p - pm) else 0) (256 * 2 ^ 32)
    let e := vs - measuredVel s a
    let i := clampI (-32767) 32767 (x.i + Int.tdiv (s.get (O.AX_KI a) * e) 16777216)
    let tau := clampI (-32767) 32767 (Int.tdiv (s.get (O.AX_KP a) * e) 65536 + i)
    ((s.setAx a { x with i := i, tau := tau }).axShow a).followCheck a

/-- BD_LOOP_CYCLE (R383, R384): every 50 µs. -/
def execBdLoopCycle (t : Nat) (s : State) : Host.Outcome State Fault Refusal :=
  let s := s.adv t
  if tooEarly s s.clk.loopAt (50 * fuUs) then .next s
  else .next ((s.setClk { s.clk with loopAt := some s.up }).forAll brushless (fun s a => s.loopCycle a))

/-- FOLLOW_ERROR_TIMEOUT (R384): beyond the limit for 1 ms without a break. -/
def execFollowErrorTimeout (a t : Nat) (s : State) : Host.Outcome State Fault Refusal :=
  let s := s.adv t
  match (s.ax a).followAt with
  | some x => if x + fuMs ≤ s.up then .next ((s.haltAxis a 5).mtSync) else .next s
  | none => .next s

/-! ### The chopper and the PWM (R399, R400, R406) -/

/-- CHOP_TRIP (R399, R406): after blanking, an input of `y.uv` µV above the chop DAC ends the on-time; phase `ph` is A, B or
U, V, W. -/
def execChopTrip (a ph : Nat) (y : Tripping) (s : State) : Host.Outcome State Fault Refusal :=
  let s := (s.adv y.t).microSync a
  let blank := s.get (O.DS_BLANK a) * fuMot
  let d := s.ds a
  if a < 16 then
    let x := d.phase ph
    if x.st = .on ∧ x.at' + blank ≤ s.up ∧ trips x.code y.uv ∧ !outputsOff s a then
      .next ((s.setDs a (d.setPhase ph { x with trip := s.up })).phaseOff a ph)
    else .next s
  else match sectorOf s a with
    | some k =>
      if onTime s a ∧ (sectorPhases k).2 = ph ∧ d.onAt.getD 0 + blank ≤ s.up ∧ trips d.code y.uv then
        .next ((s.setDs a { d with on := false }).bdSync a)
      else .next s
    | none => .next s

/-- CHOP_OFFTIME_END (R399, R400): DS_TOFF cycles have passed, and the next on-time starts. -/
def execChopOfftimeEnd (a ph t : Nat) (s : State) : Host.Outcome State Fault Refusal :=
  let s := (s.adv t).microSync a
  let x := (s.ds a).phase ph
  if x.st = .off ∧ x.at' + s.get (O.DS_TOFF a) * fuMot ≤ s.up ∧ !outputsOff s a then .next (s.phaseOn a ph) else .next s

/-- PWM_PERIOD_START (R406): DS_PWM_PERIOD after the last, the threshold is taken, and the on-time starts unless it is 0. -/
def execPwmPeriodStart (a t : Nat) (s : State) : Host.Outcome State Fault Refusal :=
  let s := s.adv t
  if a < 16 ∨ outputsOff s a ∨ tooEarly s (s.ds a).onAt (s.get (O.DS_PWM_PERIOD a) * fuMot) then .next s
  else
    let code := pwmCode s a
    .next ((s.setDs a { ranOut s a with code := code, on := decide (code ≠ 0), onAt := some s.up, cut := false }).bdSync a)

/-- HOLD_DELAY_EXPIRY (R401): the microstep has not changed for DS_HOLD_DELAY. -/
def execHoldDelayExpiry (a t : Nat) (s : State) : Host.Outcome State Fault Refusal :=
  let s := (s.adv t).microSync a
  if 16 ≤ a ∨ outputsOff s a ∨ s.bit (O.DS_STATUS a) B.DS_STATUS_HOLD ∨ s.up < (s.ds a).restAt + s.get (O.DS_HOLD_DELAY a) * fuMs then .next s
  else
    let s := (s.setB (O.DS_STATUS a) B.DS_STATUS_HOLD true).setDs a { s.ds a with hold := 0 }
    let s := if holdSteps s a = 0 then s.hit (O.DS_EVENTS a) B.DS_EVENTS_HOLD_ENTERED (520 + a) else s
    .next (s.codes a)

/-! ### Detectors of the stage (R403, R409 to R411) -/

/-- A fault input that fell at uptime `e` has been low for 20 MOT cycles (R409). -/
def fltHeld (s : State) (e : Nat) : Bool := decide (e + 20 * fuMot ≤ s.up)

/-- BRIDGE_FAULT (R409): the fault input, low since `x.e`, has been so for 20 MOT cycles. -/
def execBridgeFault (a : Nat) (x : Since) (s : State) : Host.Outcome State Fault Refusal :=
  let s := (s.adv x.t).setB (O.DS_STATUS a) B.DS_STATUS_FLT_IN true
  if s.bit (O.DS_CONFIG a) B.DS_CONFIG_FLT_EN && fltHeld s x.e then .next (s.stageFault a B.DS_EVENTS_BRIDGE_FAULT) else .next s

/-- FLT_GLITCH (R409): the fault input, low since `x.e`, rises; a pulse that is shorter than 20 MOT cycles is a glitch. -/
def execFltGlitch (a : Nat) (x : Since) (s : State) : Host.Outcome State Fault Refusal :=
  let s := (s.adv x.t).setB (O.DS_STATUS a) B.DS_STATUS_FLT_IN false
  if s.bit (O.DS_CONFIG a) B.DS_CONFIG_FLT_EN && !fltHeld s x.e then
    .next ((s.inc (O.DS_FLT_GLITCHES a)).hit (O.DS_EVENTS a) B.DS_EVENTS_FLT_GLITCH (520 + a))
  else .next s

/-- The over-current comparator of a phase is past its fixed blanking (R410). -/
def ocArmed (s : State) (a ph : Nat) : Bool :=
  let d := s.ds a
  let blank := 20 * fuMot
  !outputsOff s a && (if a < 16 then decide ((d.phase ph).st ≠ .slow ∧ (d.phase ph).at' + blank ≤ s.up)
    else onTime s a && decide (d.onAt.getD 0 + blank ≤ s.up))

/-- OC_TRIP (R410, R411): an input of `x.uv` µV above the over-current DAC; the on-time or the period ends; too many trips in 1 ms fault the stage. -/
def execOcTrip (a ph : Nat) (x : Tripping) (s : State) : Host.Outcome State Fault Refusal :=
  let s := (s.adv x.t).microSync a
  if !ocArmed s a ph ∨ !trips (ampCode s a (s.get (O.DS_OC_LIMIT a)) 1) x.uv then .next s
  else
    let d := s.ds a
    let l := s.span fuMs d.trips
    let s := s.setDs a { d with trips := l }
    let s := if a < 16 then (if (d.phase ph).st = .on then s.phaseOff a ph else s)
      else (s.setDs a { s.ds a with on := false, cut := true }).bdSync a
    let s := (s.inc (O.DS_OC_TRIPS a)).hit (O.DS_EVENTS a) B.DS_EVENTS_OC_TRIP (520 + a)
    if s.get (O.DS_OC_COUNT a) < l.length then .next (s.stageFault a B.DS_EVENTS_OC_FAULT) else .next s

/-- OPEN_PHASE (R411, Table 15.6): at rest for 10 ms with a code of 410 or more, and no chop trip for 1 ms. -/
def execOpenPhase (a ph t : Nat) (s : State) : Host.Outcome State Fault Refusal :=
  let s := (s.adv t).microSync a
  let x := (s.ds a).phase ph
  if a < 16 ∧ !outputsOff s a ∧ (s.ds a).restAt + 10 * fuMs ≤ s.up ∧ 410 ≤ x.code ∧ x.trip + fuMs ≤ s.up then
    .next (s.stageFault a B.DS_EVENTS_OPEN_PHASE)
  else .next s

/-- STEP_LAG_TIMEOUT (R403): the lag has lasted 1 ms without a break. -/
def execStepLagTimeout (a t : Nat) (s : State) : Host.Outcome State Fault Refusal :=
  let s := s.adv t
  match (if stepping s a then (s.ds a).lagAt else none) with
  | some x => if x + fuMs ≤ s.up then .next (s.stageFault a B.DS_EVENTS_STEP_LAG) else .next s
  | none => .next s

/-! ### Current monitoring (R412) -/

/-- Current inputs of a stage (Table 12.1). -/
def motorInputs (a : Nat) : List Nat := if a < 16 then [0x70 + 2 * a, 0x71 + 2 * a] else [0x90 + 3 * (a - 16), 0x91 + 3 * (a - 16), 0x92 + 3 * (a - 16)]

/-- MON_CONVERSION_DUE (R412): DS_MON_PERIOD after the last, a request not granted since is withdrawn and counted, and new ones enter. -/
def execMonConversionDue (a t : Nat) (s : State) : Host.Outcome State Fault Refusal :=
  let s := s.adv t
  if s.get (O.DS_MON_PERIOD a) = 0 ∨ axisState s a = 0 ∨ tooEarly s (s.ds a).monAt (s.get (O.DS_MON_PERIOD a) * fuUs) then .next s
  else
    let s := s.setDs a { s.ds a with monAt := some s.up }
    let mine := fun (r : Req) => decide (r.what = .motor ∧ r.inst = a)
    let s := s.addC (O.DS_MON_MISSED a) (s.bank.reqs.filter mine).length
    let s := s.senseWithdraw mine
    .next (s.forAll (motorInputs a) (fun s i => s.senseAsk { cls := 2, inst := a, what := .motor, input := i, entered := senseCycle s }))

/-- A motor current result in 1/16 mV (R412) (DESIGN CHOICE, log 34). -/
def State.motorResult (s : State) (a input u : Nat) : State :=
  let ph := input - (motorInputs a).headD 0
  let r := s.get (O.DS_RSENSE a)
  if r = 0 then s else s.setSat (O.DS_I_MEAS a ph) (divRound (u * 1000 : Nat) (16 * r))

end Sys2Proof.Machine
end

