-- ==== Sys2Proof/Machine/Flash.lean ====
section
/-! DEFINITION. The QSPI flash (R510, R511, R480): its command queue, what a command does to it, and host commands. -/
namespace Sys2Proof.Machine

/-- Free bytes: contents that a failed or cut command leaves open (DESIGN CHOICE, log 9; DEDUCED, log 84). -/
def State.openBytes (s : State) (n : Nat) : List Byte × State :=
  ((List.range n).map (fun i => BitVec.ofNat 8 (Config.freeNat (s.free + i))), { s with free := s.free + n })

/-- The flash cells outside a range: the range reads as erased, 0xFF. -/
def State.flashErase (s : State) (a len : Nat) : State :=
  { s with mem := s.mem.filter (fun c => decide (c.1 < flashAddr a ∨ flashAddr a + len ≤ c.1)) }

/-- The first address and length that a program or erase changes. -/
def FlashCmd.range (c : FlashCmd) : Nat × Nat :=
  if c.op = 2 then (c.addr, c.data.length) else if c.op = 3 then (c.addr / 4096 * 4096, 4096) else (c.addr / 65536 * 65536, 65536)

/-- Programming clears bits: a byte becomes its old value and the data (PRESUMED, log 75). -/
def State.flashProgram (s : State) (a : Nat) (data : List Byte) : State :=
  s.mputs (flashAddr a) (((s.mgets (flashAddr a) data.length).zip data).map (fun p => p.1 &&& p.2))

/-- The range of a command is left open. -/
def State.flashOpen (s : State) (c : FlashCmd) : State :=
  let r := s.openBytes c.range.2
  r.2.mputs (flashAddr c.range.1) r.1

/-- The flash carries out a command: `res` is 0 finished, 2 wrongly programmed, 3 not finished in 400 ms (R510). Answers
the result: a program is read back. -/
def State.flashRun (s : State) (c : FlashCmd) (res : Nat) : State × Nat :=
  if c.op = 1 then (s, if res = 0 then 0 else 3)
  else if res ≠ 0 then (s.flashOpen c, if res = 2 ∧ c.op = 2 then 2 else 3)
  else if c.op = 2 then
    let s := s.flashProgram c.addr c.data
    (s, if s.mgets (flashAddr c.addr) c.data.length = c.data then 0 else 2)
  else (s.flashErase c.range.1 c.range.2, 0)

/-- The next waiting command begins; no program or erase begins under curfew (R480). -/
def State.flashGo (s : State) : State :=
  match s.flash.cur, s.flash.waiting with
  | none, c :: rest =>
    if c.op ≠ 1 ∧ curfew s then s
    else (s.setFlash { cur := some c, waiting := rest }).emit (.note "flash" [c.op, c.addr, c.len])
  | _, _ => s

/-- A command arrives at the flash. -/
def State.flashAsk (s : State) (c : FlashCmd) : State :=
  (s.setFlash { s.flash with waiting := s.flash.waiting ++ [c] }).flashGo

/-- RESET takes the commands away; the range of one that the flash had begun is left open, and a store slot is left
without COMMIT (R349). -/
def State.flashCut (s : State) : State :=
  let s' := match s.flash.cur with
    | some c =>
      if c.op = 1 then s
      else
        let s := s.flashOpen c
        if c.host then s else s.flashErase (s.bank.storeBase + 0xFFC) 4
    | none => s
  s'.setFlash {}

/-- A store save waits for the end of curfew (R349) (DEDUCED, log 37). -/
def State.storePend (s : State) : State :=
  ((s.setBank { s.bank with storeStep := none, storeWait := true }).set O.SB_STORE_RESULT 2).deferred

/-- Curfew begins: a step of a save that the flash has not begun is taken back (R349, R480) (DEDUCED, log 37). -/
def State.storeCurfew (s : State) : State :=
  if s.flash.waiting.all (fun c => c.host) then s
  else (s.setFlash { s.flash with waiting := s.flash.waiting.filter (fun c => c.host) }).storePend

/-! ### Host commands (R510, R511) -/

def qspiBusy (s : State) : Bool := s.bit O.BT_STATUS B.BT_STATUS_QSPI_BUSY

/-- Two ranges of addresses meet. -/
def meets (a n b m : Nat) : Bool := decide (a < b + m ∧ b < a + n)

/-- The bytes of BT_QSPI_DATA. -/
def qspiData (s : State) (n : Nat) : List Byte :=
  ((List.range 64).flatMap (fun i => bytesLE 4 (s.get (O.BT_QSPI_DATA i)))).take n

/-- Why a host command is refused (R511), in the rule's order (DEDUCED, log 76). -/
def qspiRefusal (s : State) (c : FlashCmd) : Option Nat :=
  let r := c.range
  let src := s.get O.BT_SOURCE
  if qspiBusy s ∨ s.mode = mdBoot then some abState
  else if c.op ≠ 1 ∧ curfew s then some abState
  else if c.op ≠ 1 ∧ meets r.1 r.2 (s.get O.SB_STORE_ADDR) 8192 then some abLocal
  else if c.op ≠ 1 ∧ (src = 1 ∨ src = 2) ∧ meets r.1 r.2 ((src - 1) * 0x400000) 0x400000 then some abLocal
  else if 0x1000000 ≤ c.addr ∨ (c.op ≤ 2 ∧ (c.len < 1 ∨ 256 < c.len ∨ 0x1000000 < c.addr + c.len))
      ∨ (c.op = 2 ∧ 256 < c.addr % 256 + c.len) then some abRange
  else none

/-- A write of BT_QSPI_CMD (DEDUCED, log 76). -/
def wrQspiCmd (v : Nat) (s : State) : WRes :=
  let len := s.get O.BT_QSPI_LEN
  let c : FlashCmd := { host := true, op := v, addr := s.get O.BT_QSPI_ADDR, len := len, data := if v = 2 then qspiData s len else [] }
  if v < 1 ∨ 4 < v then .no s abRange
  else match qspiRefusal s c with
    | some a =>
      let s := if !qspiBusy s then s.set O.BT_QSPI_RESULT 4 else s
      .no (if !qspiBusy s ∧ s.mode ≠ mdBoot ∧ v ≠ 1 ∧ curfew s then s.deferred else s) a
    | none => .ok (((s.set O.BT_QSPI_RESULT 1).setB O.BT_STATUS B.BT_STATUS_QSPI_BUSY true).flashAsk c)

/-- QSPI_READ (R510): a write of 1 to BT_QSPI_CMD. -/
def execQspiRead (p : Path) (s : State) : Host.Outcome State Fault Refusal := access p O.BT_QSPI_CMD s (wrQspiCmd 1)
/-- QSPI_PROGRAM (R510): a write of 2. -/
def execQspiProgram (p : Path) (s : State) : Host.Outcome State Fault Refusal := access p O.BT_QSPI_CMD s (wrQspiCmd 2)
/-- QSPI_ERASE_4K (R510): a write of 3. -/
def execQspiErase4k (p : Path) (s : State) : Host.Outcome State Fault Refusal := access p O.BT_QSPI_CMD s (wrQspiCmd 3)
/-- QSPI_ERASE_64K (R510): a write of 4. -/
def execQspiErase64k (p : Path) (s : State) : Host.Outcome State Fault Refusal := access p O.BT_QSPI_CMD s (wrQspiCmd 4)

/-- A host command ends: a read fills BT_QSPI_DATA from its first byte on. -/
def State.qspiDone (s : State) (c : FlashCmd) (res : Nat) : State :=
  let s := if c.op = 1 ∧ res = 0 then
      let bs := s.mgets (flashAddr c.addr) c.len ++ (qspiData s 256).drop c.len
      s.forAll (List.range 64) (fun s i => s.set (O.BT_QSPI_DATA i) (ofBytesLE ((bs.drop (4 * i)).take 4)))
    else s
  let s := (s.set O.BT_QSPI_RESULT res).setB O.BT_STATUS B.BT_STATUS_QSPI_BUSY false
  if res = 0 then s.btHit O.BT_EVENTS B.BT_EVENTS_QSPI_DONE
  else s.btHit O.BT_EVENTS B.BT_EVENTS_QSPI_FAIL (if res = 3 then 1 else 0)

end Sys2Proof.Machine
end

