-- ==== Sys2Proof/Machine/Inhibit.lean ====
section
/-! DEFINITION. Inhibits and their reach (R474, R475), firing forced low (R53, R475), and the reset event (R471). -/
namespace Sys2Proof.Machine

/-- FI of a port is forced low: a rotation or a warming pulse in progress is cut short, and a rotation's line counts as
printed (R217). -/
def State.fiLow (s : State) (n : Nat) : State :=
  let f := s.fire n
  let s' := if f.endAt.any (fun e => ptLt s.pt e) then (s.emit (.note "FI low" [n])).setFire n { f with endAt := some s.pt } else s
  if s.bit (O.HP_FIRE_STATUS n) B.HP_FIRE_STATUS_ROTATING then s'.rotationEnd n else s'

/-- FI is forced low on every port (R53, R475). -/
def State.fiOff (s : State) : State := (s.forAll ports (fun s n => s.fiLow n)).mtSync

/-- The bits of MD_INHIBIT_STATUS that name a source; the others follow from them (Table 18.12). -/
def sourceBits : Nat := 0x7B

/-- MD_INHIBIT_STATUS as its sources make it (Tables 18.6 and 18.12). -/
def inhibitWord (s : State) (src : Nat) : Nat :=
  let m := s.modes
  let src := andW src sourceBits
  let has := fun i => bitOf src i
  let clock := clockInhibit s
  let fire := has 0 || has 1 || has 3 || has 4 || has 6 || clock
  let stop := m.hostStop || (has 0 && decide (m.pinKind = 1)) || has 3 || has 5
  let off := m.hostOff || (has 0 && decide (m.pinKind = 2))
  src + 4 * (m.hostStop || m.hostOff).toNat + 128 * clock.toNat + 256 * fire.toNat + 512 * stop.toNat + 1024 * off.toNat

/-- Take over the sources of inhibits (R474): groups, axes and activities follow each change, and EV573 is raised. -/
def State.inhibitWith (s : State) (src : Nat) : State :=
  let old := s.get O.MD_INHIBIT_STATUS
  let w := inhibitWord s src
  if w = old then s
  else
    let s := (s.set O.MD_INHIBIT_STATUS w).hit O.MD_EVENTS 3 573
    let s := s.pgSyncAll
    let rose := fun b => bitOf w b && !bitOf old b
    let s := if rose B.MD_INHIBIT_STATUS_MOTION_OFF then s.haltAll 1
      else if rose B.MD_INHIBIT_STATUS_MOTION_STOP then s.stopAll false else s
    s.mtSync

/-- One source of inhibits changes. -/
def State.inhibitSrc (s : State) (bit : Nat) (on : Bool) : State := s.inhibitWith (putBit (s.get O.MD_INHIBIT_STATUS) bit on)

/-- The inhibits are taken over as they stand. -/
def State.inhibitSync (s : State) : State := s.inhibitWith (s.get O.MD_INHIBIT_STATUS)

/-! ### The reset event (R471) -/

/-- Objects of the backup domain, which keep their values through RESET (R471, R476, R488, R489) (DEDUCED, log 70). -/
def keptObj (o : Obj) : Bool :=
  decide (o = O.MD_RESET_CAUSE) || decide (o.grp = .su ∧ (o.sub ∈ [4, 5, 6, 8, 0x10, 0x18, 0x57] ∨ 0x60 ≤ o.sub))

/-- The device as RESET leaves it: the backup domain, the fuses, the flash and the outside world stand. RTC_LOCK is
lifted (R10) (DEDUCED, log 70). -/
def State.toReset (s : State) : State :=
  let s := s.flashCut
  let objs := s.objs.filter (fun p => keptObj p.1)
  let s' := { State.reset with
    objs := objs
    mem := s.mem.filter (fun c => decide (2 ^ 42 ≤ c.1 ∧ c.1 < 2 ^ 43))
    up := s.up
    ptOff := s.ptOff
    free := s.free
    bk := s.bk
    out := s.out
    pending := s.pending }
  let s' := { s' with
    clk := { inReset := true }
    modes := { causes := s.modes.causes, resetAt := s.up, railAt := s.modes.railAt }
    supply := { warn := s.supply.warn, holdFrom := none, relAt := s.supply.relAt }
    otp := { cells := s.otp.cells } }
  ((s'.set O.MD_MODE mdReset).set O.MD_INHIBIT_STATUS 0).setB O.BK_CONTROL 4 false

/-- A reset event (R471): the RESET entry is written and the device is held in RESET while a cause stands. Of causes that
arise together the lowest is recorded (DEDUCED, log 69). -/
def State.resetEvent (s : State) (cause : Nat) : State :=
  if s.clk.inReset then
    let low := if s.modes.resetAt = s.up then min cause (s.get O.MD_RESET_CAUSE) else s.get O.MD_RESET_CAUSE
    (s.setModes { s.modes with causes := setIns s.modes.causes cause }).set O.MD_RESET_CAUSE low
  else
    let depth := if s.bit O.SU_STATUS B.SU_STATUS_DIP then s.get O.SU_DIP_DEPTH else 0x8000
    let s := s.journal 1 (jdata [(0, cause), (1, s.mode), (2, depth)])
    let s := s.setModes { s.modes with causes := [cause] }
    (s.toReset.set O.MD_RESET_CAUSE cause).emit (.note "reset" [cause])

/-- A rail falls below its threshold: the reset cause POWER_ON (R556). -/
def State.railFall (s : State) : State :=
  let s := s.resetEvent 1
  s.setModes { s.modes with railAt := s.up }

end Sys2Proof.Machine
end

