-- ==== Sys2Proof/Machine/Otp.lean ====
section
/-! DEFINITION. The OTP and the life cycle (R501, R512 to R523): scans, redirection, locks, burns and transitions. Readings
of fuses that differ from what was last read arrive with the command: (cell, normal, high, low). -/
namespace Sys2Proof.Machine

/-- The readings last taken of a cell (DESIGN CHOICE, log 8). -/
def fuse (s : State) (c : Nat) : Fuse := tget {} s.otp.cells c
def State.setFuse (s : State) (c : Nat) (f : Fuse) : State := s.setOtp { s.otp with cells := tput s.otp.cells c f }

/-- Take over readings (DESIGN CHOICE, log 8 and 77). -/
def State.otpReads (s : State) (l : FuseReads) : State :=
  l.foldl (fun s r => if r.1 < 544 then s.setFuse r.1 ⟨r.2.1 % 2 ^ 32, r.2.2.1 % 2 ^ 32, r.2.2.2 % 2 ^ 32⟩ else s) s

def Fuse.weak (f : Fuse) : Bool := decide (f.norm ≠ f.high ∨ f.norm ≠ f.low)
/-- The reading in which a bit counts as burned when any margin sees it (R519). -/
def Fuse.any (f : Fuse) : Nat := orW (orW f.norm f.high) f.low

/-! ### Redirection (R513) -/

def spareNumbers : List Nat := List.range 16
def entry (s : State) (k : Nat) : Nat := (fuse s (528 + k)).norm
/-- VALID counts as 1 when two of its three bits read 1. -/
def entryValid (s : State) (k : Nat) : Bool := let v := entry s k / 2 ^ 29; decide (2 ≤ v % 2 + v / 2 % 2 + v / 4 % 2)
def entryFree (s : State) (k : Nat) : Bool := decide (entry s k / 2 ^ 29 = 0)

/-- The cell that stands for a row. -/
def cellOf (s : State) (row : Nat) : Nat :=
  match spareNumbers.find? (fun k => entryValid s k && decide (entry s k % 512 = row)) with
  | some k => 512 + k
  | none => row

def rowFuse (s : State) (row : Nat) : Fuse := fuse s (cellOf s row)
def rowNorm (s : State) (row : Nat) : Nat := (rowFuse s row).norm
/-- The shadow of a row (R501). -/
def shadowRow (s : State) (row : Nat) : Nat := tget 0 s.otp.shadow row

/-! ### Regions (R512, R514) -/

def regionOf (row : Nat) : Nat :=
  if row < 32 then 0 else if row < 64 then 1 else if row < 128 then 2 else if row < 192 then 3
  else if row < 224 then 4 else if row < 352 then 5 else if row < 480 then 6 else 7

/-- First row and CRC row of the regions that have one. -/
def crcRegion : Nat → Option (Nat × Nat)
  | 0 => some (0, 31)
  | 2 => some (64, 127)
  | 3 => some (128, 191)
  | 4 => some (192, 223)
  | _ => none

/-- The CRC-32 over a region's other rows as bytes in rising row order (R512). -/
def regionCrc (s : State) (first crc : Nat) : Nat :=
  crc32 ((List.range (crc - first)).flatMap (fun i => bytesLE 4 (rowNorm s (first + i))))

def writeLocked (s : State) (region : Nat) : Bool := s.bit O.OT_LOCKS region
def readLocked (s : State) (region : Nat) : Bool := s.bit O.OT_LOCKS (8 + region)

/-- A write-locked region whose CRC does not match (DEDUCED, log 78). -/
def crcBad (s : State) (region : Nat) : Bool :=
  match crcRegion region with
  | some (a, b) => writeLocked s region && decide (regionCrc s a b ≠ rowNorm s b)
  | none => false

/-- The lock bits in force by the majority of rows 480 to 482, bit by bit (R514). -/
def lockBits (s : State) : Nat :=
  let r := fun i b => (bitOf (rowFuse s (480 + i)).any b).toNat
  maskOf ((List.range 16).filter (fun b => decide (2 ≤ r 0 b + r 1 b + r 2 b)))

/-! ### Life cycle (R521) -/

def popcount (w v : Nat) : Nat := (bitsOf w v).length
def lcBurned (s : State) (k : Nat) : Bool := decide (16 ≤ popcount 32 (rowNorm s (32 + k)))
def lcPart (s : State) (k : Nat) : Bool := let n := popcount 32 (rowNorm s (32 + k)); decide (1 ≤ n ∧ n ≤ 15)

/-- The life-cycle state, 6 for an invalid encoding. -/
def lcState (s : State) : Nat :=
  let l := (List.range 5).map (lcBurned s)
  let n := (l.filter id).length
  if l = List.replicate n true ++ List.replicate (5 - n) false then n else 6

/-- The state allows burns of a region (Table 19.6). -/
def stateBurns (lc region : Nat) : Bool := decide ((lc = 1 ∧ region ≤ 6) ∨ (lc = 2 ∧ 1 ≤ region ∧ region ≤ 6))

/-! ### Scans (R501, R518, R520) -/

/-- CRCs: the regions that do not match at this scan (R519, R524). A region found so at the scan before raises no CLASS 1
again (R527) (DEDUCED, log 78). -/
def State.crcScan (s : State) : State :=
  let bad := (List.range 8).filter (crcBad s)
  let old := s.fld O.OT_STATUS B.OT_STATUS_CRC_BAD
  let s := s.setF O.OT_STATUS B.OT_STATUS_CRC_BAD (maskOf bad)
  if bad = [] then s
  else s.btHit O.OT_EVENTS B.OT_EVENTS_CRC_BAD (bad.any (fun g => !bitOf old g)).toNat

/-- Weak rows: the map, the count, the journal, and which of them can no longer be burned (DEDUCED, log 130). -/
def State.weakScan (s : State) : State :=
  let weak := (List.range 512).filter (fun r => (rowFuse s r).weak)
  let s := s.forAll (List.range 16) (fun s w => s.set (O.OT_WEAK_MAP w) (maskOf ((weak.filter (fun r => decide (r / 32 = w))).map (· % 32))))
  let s := (s.set O.OT_WEAK_COUNT weak.length).setB O.OT_STATUS B.OT_STATUS_WEAK (!weak.isEmpty)
  let s := weak.foldl (fun s r => s.journal 0x11 (jdata [(0, r), (2, weak.length)])) s
  let s := if weak.isEmpty then s else s.btHit O.OT_EVENTS B.OT_EVENTS_OTP_WEAK
  let perm := weak.any (fun r => writeLocked s (regionOf r) || !stateBurns (s.get O.OT_LC_STATE) (regionOf r))
  if perm ∧ !s.bit O.OT_STATUS B.OT_STATUS_WEAK_PERM then
    (s.setB O.OT_STATUS B.OT_STATUS_WEAK_PERM true).btHit O.OT_EVENTS B.OT_EVENTS_OTP_WEAK_PERM 1
  else s

def State.sparesSync (s : State) : State := s.set O.OT_SPARES_FREE (spareNumbers.filter (entryFree s)).length

/-- Consecutive 1 bits of rows 41 and 42 from bit 0 on (R512). -/
def secVersion (s : State) : Nat :=
  let v := (rowFuse s 41).any + 2 ^ 32 * (rowFuse s 42).any
  ((List.range 64).takeWhile (fun i => bitOf v i)).length

/-- The scan at boot (R501): shadow, state, locks, identity, CRCs and weak rows (DEDUCED, log 130). -/
def State.bootScan (s : State) : State :=
  let shadow := ((List.range 512).map (fun r => (r, rowNorm s r))).filter (fun p => p.2 ≠ 0)
  let s := s.setOtp { s.otp with shadow := shadow }
  let s := (s.set O.OT_LC_STATE (lcState s)).setB O.OT_STATUS B.OT_STATUS_LC_PARTIAL ((List.range 5).any (lcPart s))
  let s := ((s.set O.OT_LOCKS (lockBits s)).set O.OT_SEC_VERSION (secVersion s)).sparesSync
  let s := s.set O.FJ_UID (shadowRow s 0 + 2 ^ 32 * shadowRow s 1)
  s.crcScan.weakScan.setB O.OT_STATUS B.OT_STATUS_SCAN_DONE true

/-! ### Burns (R516 to R518) -/

/-- Program a cell: the data are burned, bits programmed before stay; readings brought by the command win. Answers
whether all three readings equal the data. -/
def State.burnCell (s : State) (l : FuseReads) (c d : Nat) : State × Bool :=
  let f := fuse s c
  let s := (s.setFuse c ⟨orW f.norm d, orW f.high d, orW f.low d⟩).otpReads (l.filter (fun r => r.1 = c))
  let f := fuse s c
  (s, decide (f.norm = d ∧ f.high = d ∧ f.low = d))

/-- Try the free spare rows in turn; the first good one takes the row over. -/
def State.burnSpare (s : State) (l : FuseReads) (row d : Nat) : List Nat → State × Bool
  | [] => (s, false)
  | k :: ks =>
    let r := s.burnCell l (512 + k) d
    if r.2 then
      let s := (r.1.burnCell l (528 + k) (7 * 2 ^ 29 + row)).1
      (s.sparesSync.btHit O.OT_EVENTS B.OT_EVENTS_SPARE_USED, true)
    else r.1.burnSpare l row d ks

/-- Burn a row, with a spare where it does not take the data (R516): the journal entry carries the result and whether a
spare was used. -/
def State.burnRow (s : State) (l : FuseReads) (row d : Nat) : State × Bool :=
  let r := s.burnCell l (cellOf s row) d
  let q := if r.2 then r else r.1.burnSpare l row d (spareNumbers.filter (entryFree r.1))
  (q.1.journal 0x13 (jdata [(0, row), (2, if q.2 then 0 else 6), (3, (q.2 && !r.2).toNat)]), q.2)

def burnBusy (s : State) : Bool := s.bit O.OT_STATUS B.OT_STATUS_BURN_BUSY
/-- The modes in which fuses may be burned (R517, R523). -/
def burnMode (s : State) : Bool := decide (s.mode = mdBoot ∨ s.mode = mdConfigure ∨ s.mode = mdStandby ∨ s.mode = mdSafe)

def State.burnStart (s : State) (b : Burn) : State :=
  (s.setOtp { s.otp with burn := some b }).setB O.OT_STATUS B.OT_STATUS_BURN_BUSY true

/-- A burn ends: its result goes to OT_ROW_RESULT or, of a transition, to OT_LC_RESULT. -/
def State.burnEnd (s : State) (b : Burn) (row lc : Nat) : State :=
  let s := (s.setOtp { s.otp with burn := none }).setB O.OT_STATUS B.OT_STATUS_BURN_BUSY false
  if b.kind = 5 then s.set O.OT_LC_RESULT lc else s.set O.OT_ROW_RESULT row

/-- OTP_BURN_DONE (R516, R522): a row burn with its checks is over. The next row follows unless curfew stands; a completed
transition resets the device. The readings are operands (DESIGN CHOICE, log 77). -/
def execOtpBurnDone (l : FuseReads) (t : Nat) (s : State) : Host.Outcome State Fault Refusal :=
  let s := s.adv t
  match s.otp.burn with
  | none => .next s
  | some b => match b.todo with
    | [] => .next (s.burnEnd b 0 0)
    | (row, d) :: rest =>
      let r := s.burnRow l row d
      let s := r.1
      if !r.2 then .next ((s.burnEnd b 6 7).btHit O.OT_EVENTS B.OT_EVENTS_BURN_FAIL)
      else if rest ≠ [] then
        if curfew s then .next (s.burnEnd b 4 6).deferred
        else .next (s.setOtp { s.otp with burn := some { b with todo := rest } })
      else
        let s := (s.burnEnd b 0 0).btHit O.OT_EVENTS B.OT_EVENTS_BURN_DONE
        if b.kind = 5 then .next ((s.journal 0x12 (jdata [(0, b.old), (1, b.target)])).resetEvent 8) else .next s

/-- What a burn of a row stores (R515): region 3 rows are masked. -/
def storedValue (row d : Nat) : Nat := if regionOf row = 3 then xorW d (Config.secretMask row % 2 ^ 32) else d

/-- Why a burn is refused (R517): OT_ROW_RESULT and abort. -/
def burnRefusal (s : State) (row d : Nat) : Option (Nat × Nat) :=
  let g := regionOf row
  if !stateBurns (s.get O.OT_LC_STATE) g ∨ (32 ≤ row ∧ row ≤ 36) then some (2, abState)
  else if writeLocked s g then some (3, abState)
  else if curfew s then some (4, abState)
  else if !burnMode s ∨ burnBusy s then some (2, abState)
  else if andW (rowFuse s row).high (notW 32 d) ≠ 0 then some (5, abRange)
  else none

/-- The burns of a lock command (R514): CRC rows of regions about to be write-locked, then the three lock rows. -/
def lockBurns (s : State) (bits : Nat) : List (Nat × Nat) :=
  let crcs := (List.range 8).filterMap (fun g => match crcRegion g with
    | some (a, b) => if bitOf bits g ∧ !writeLocked s g then some (b, regionCrc s a b) else none
    | none => none)
  crcs ++ [480, 481, 482].map (fun r => (r, orW (orW (rowFuse s r).norm (rowFuse s r).high) bits))

/-- A refused row command: its result, and under curfew the deferral is counted (R480). -/
def State.rowRefused (s : State) (r : Nat × Nat) : WRes :=
  let s := if burnBusy s then s else s.set O.OT_ROW_RESULT r.1
  .no (if r.1 = 4 then s.deferred else s) r.2

/-- A write of OT_ROW_CMD (Table 19.14), with the readings that a read or a rescan brings. -/
def wrRowCmd (l : FuseReads) (v : Nat) (s : State) : WRes :=
  let row := s.get O.OT_ROW_ADDR % 512
  let data := s.get O.OT_ROW_DATA
  let done := fun (s : State) r => if burnBusy s then s else s.set O.OT_ROW_RESULT r
  if v = 1 then
    let s := s.otpReads l
    let f : Fuse := if readLocked s (regionOf row) then {} else rowFuse s row
    let s := ((s.set O.OT_MARGIN_NORM f.norm).set O.OT_MARGIN_HIGH f.high).set O.OT_MARGIN_LOW f.low
    .ok (done s (if readLocked s (regionOf row) then 7 else 0))
  else if v = 2 then
    let d := storedValue row data
    match burnRefusal s row d with
    | some r => s.rowRefused r
    | none => .ok ((s.set O.OT_ROW_RESULT 1).burnStart { kind := 2, todo := [(row, d)] })
  else if v = 3 then .ok (done (s.otpReads l).crcScan.weakScan 0)
  else if v = 4 then
    let lc := s.get O.OT_LC_STATE
    if curfew s then s.rowRefused (4, abState)
    else if 5 ≤ lc ∨ !burnMode s ∨ burnBusy s then s.rowRefused (2, abState)
    else .ok ((s.set O.OT_ROW_RESULT 1).burnStart { kind := 4, todo := lockBurns s (data % 65536) })
  else .no s abRange

/-- OT_ROW_READ (R516): a write of 1. -/
def execOtRowRead (p : Path) (l : FuseReads) (s : State) : Host.Outcome State Fault Refusal := access p O.OT_ROW_CMD s (wrRowCmd l 1)
/-- OT_ROW_BURN (R516): a write of 2. -/
def execOtRowBurn (p : Path) (s : State) : Host.Outcome State Fault Refusal := access p O.OT_ROW_CMD s (wrRowCmd [] 2)
/-- OT_RESCAN (R520): a write of 3. -/
def execOtRescan (p : Path) (l : FuseReads) (s : State) : Host.Outcome State Fault Refusal := access p O.OT_ROW_CMD s (wrRowCmd l 3)
/-- OT_LOCK (R514): a write of 4. -/
def execOtLock (p : Path) (s : State) : Host.Outcome State Fault Refusal := access p O.OT_ROW_CMD s (wrRowCmd [] 4)

/-! ### Transitions (R522, R523) -/

def revoked (s : State) (k : Nat) : Bool := bitOf (rowFuse s 40).any k
/-- The digest of key slot `k`, from the shadow. -/
def keyDigest (s : State) (k : Nat) : Nat := (List.range 12).foldl (fun d i => d + shadowRow s (64 + 12 * k + i) * 2 ^ (32 * i)) 0

/-- The token's 32 bytes match the digest of rows 176 to 187 (R522). -/
def tokenMatches (s : State) : Bool :=
  let bytes := (List.range 8).flatMap (fun k => bytesLE 4 (s.get (O.OT_TOKEN k)))
  let want := (List.range 12).foldl (fun d i => d + shadowRow s (176 + i) * 2 ^ (32 * i)) 0
  decide (Config.freeDigest bytes % 2 ^ 384 = want)

/-- The burns of a transition (Table 19.7): rows left partial first, then the locks and the life-cycle row. -/
def lcBurns (s : State) (target : Nat) : List (Nat × Nat) :=
  let own := match target with
    | 1 => [(32, 2 ^ 32 - 1)]
    | 2 => lockBurns s 1 ++ [(33, 2 ^ 32 - 1)]
    | 3 => lockBurns s (4 + 8 + 16 + 2048) ++ [(34, 2 ^ 32 - 1)]
    | 4 => [(35, 2 ^ 32 - 1)]
    | _ => ((List.range 5).filter (fun k => !lcBurned s k)).map (fun k => (32 + k, 2 ^ 32 - 1))
  ((List.range 5).filter (fun k => lcPart s k && !own.any (fun b => decide (b.1 = 32 + k)))).map (fun k => (32 + k, 2 ^ 32 - 1)) ++ own

/-- Why a transition is refused (R523), and whether the token failed (DEDUCED, log 131). -/
def lcRefusal (s : State) (target : Nat) : Option (Nat × Bool) :=
  let lc := s.get O.OT_LC_STATE
  if !(decide (lc < 4 ∧ target = lc + 1) || decide (lc < 5 ∧ target = 5)) then some (2, false)
  else if target = 3 ∧ !(List.range 4).any (fun k => decide (keyDigest s k ≠ 0) && !revoked s k) then some (3, false)
  else if target = 4 ∧ 8 ≤ s.get O.OT_TOKEN_FAILS then some (5, false)
  else if target = 4 ∧ !tokenMatches s then some (4, true)
  else if curfew s ∨ !burnMode s ∨ burnBusy s then some (6, false)
  else none

/-- A write of OT_LC_CMD: a target state from 1 to 5; the token words are cleared after each request. -/
def wrLcCmd (v : Nat) (s : State) : WRes :=
  if v < 1 ∨ 5 < v then .no s abRange
  else
    let ref := lcRefusal s v
    let s := s.forAll (List.range 8) (fun s k => s.set (O.OT_TOKEN k) 0)
    match ref with
    | some (code, tok) =>
      let s := if tok then s.inc O.OT_TOKEN_FAILS else s
      let s := if code = 6 ∧ curfew s then s.deferred else s
      .no ((s.set O.OT_LC_RESULT code).btHit O.OT_EVENTS B.OT_EVENTS_LC_REFUSED) abState
    | none => .ok ((s.set O.OT_LC_RESULT 1).burnStart { kind := 5, todo := lcBurns s v, old := s.get O.OT_LC_STATE, target := v })

/-- LC_TO_VENDOR_TEST (R522): target 1. -/
def execLcToVendorTest (p : Path) (s : State) : Host.Outcome State Fault Refusal := access p O.OT_LC_CMD s (wrLcCmd 1)
/-- LC_TO_PROVISION (R522): target 2. -/
def execLcToProvision (p : Path) (s : State) : Host.Outcome State Fault Refusal := access p O.OT_LC_CMD s (wrLcCmd 2)
/-- LC_TO_FIELD (R522): target 3. -/
def execLcToField (p : Path) (s : State) : Host.Outcome State Fault Refusal := access p O.OT_LC_CMD s (wrLcCmd 3)
/-- LC_TO_RETURN (R522): target 4. -/
def execLcToReturn (p : Path) (s : State) : Host.Outcome State Fault Refusal := access p O.OT_LC_CMD s (wrLcCmd 4)
/-- LC_TO_SCRAPPED (R522): target 5. -/
def execLcToScrapped (p : Path) (s : State) : Host.Outcome State Fault Refusal := access p O.OT_LC_CMD s (wrLcCmd 5)

end Sys2Proof.Machine
end

