-- ==== Sys2Proof/Machine/Boot.lean ====
section
/-! DEFINITION. Boot (R499 to R507): image checks, recovery; the resets that boot owns (R508, R509). -/
namespace Sys2Proof.Machine

/-! ### Headers (Table 19.3, R502, R503) -/

def hdr (h : List Byte) (off n : Nat) : Nat := ofBytesLE ((h.drop off).take n)
def zeros (h : List Byte) (off n : Nat) : Bool := ((h.drop off).take n).all (fun b => decide (b = 0))
def bodyLen (h : List Byte) : Nat := hdr h 0x14 4

/-- A slot is well-formed (R502). -/
def wellFormed (h : List Byte) : Bool :=
  let n := bodyLen h
  decide (hdr h 0 4 = 0x56465759 ∧ hdr h 4 2 = 1 ∧ hdr h 6 2 = 0x200) && zeros h 0x28 24 && zeros h 0x130 208
    && decide (hdr h 0x1C 4 < 2) && decide (n % 64 = 0 ∧ 64 ≤ n ∧ n ≤ 4193792 ∧ hdr h 0x18 4 < n)

/-- Key slot `k` is usable at this boot (R519). -/
def keyUsable (s : State) (k : Nat) : Bool :=
  !revoked s k && (List.range 12).all (fun i => !(rowFuse s (64 + 12 * k + i)).weak) && !crcBad s 2

/-- Images may run unsigned (R503). -/
def unsignedOk (s : State) : Bool :=
  decide (s.get O.OT_LC_STATE ≤ 1) && (List.range 4).all (fun k => decide (keyDigest s k = 0))

/-- The key slot whose digest the header's key has, where its signature verifies. -/
def keyMatch (s : State) (h : List Byte) : Option Nat :=
  let d := Config.freeDigest ((h.drop 0x40).take 96) % 2 ^ 384
  if Config.freeCheck (h.take 0x130) then (List.range 4).find? (fun k => keyUsable s k && decide (keyDigest s k = d)) else none

/-- BIND_REQUIRED and RECOVERY_DIS harden security: any margin counts (R519). -/
def bootBit (s : State) (b : Nat) : Bool := bitOf (rowFuse s 192).any b

/-- The BT_REJECT cause of a header, 0 when it passes (R503) (DEDUCED, log 129). -/
def headerCause (s : State) (h : List Byte) : Nat :=
  let bind := hdr h 0x20 8
  let uid := s.get O.FJ_UID
  if crcBad s 2 ∨ (!unsignedOk s ∧ (keyMatch s h).isNone) then 3
  else if hdr h 0x10 4 < s.get O.OT_SEC_VERSION then 4
  else if bind ≠ uid ∧ (bind ≠ 0 ∨ bootBit s 1) then 5
  else if decide (hdr h 0x1C 4 % 2 = 1) ≠ decide (s.get O.OT_LC_STATE = 4) then 6
  else 0

/-- The cause for which an image does not run, 0 when it runs: its header, then its body's digest
(DEDUCED, log 129). -/
def imageCause (s : State) (h body : List Byte) : Nat :=
  let c := headerCause s h
  if !wellFormed h then 2
  else if c ≠ 0 then c
  else if Config.freeDigest body % 2 ^ 384 ≠ hdr h 0xA0 48 then 7
  else 0

/-! ### The boot sequence (R500) -/

def slotBase (k : Nat) : Nat := k * 0x400000
def slotHeader (s : State) (k : Nat) : List Byte := s.mgets (flashAddr (slotBase k)) 512
def slotBody (s : State) (k : Nat) : List Byte := s.mgets (flashAddr (slotBase k + 512)) (bodyLen (slotHeader s k))

/-- The well-formed slots in the order in which they are tried (R502). -/
def slotOrder (s : State) : List Nat :=
  let a := slotHeader s 0
  let b := slotHeader s 1
  match wellFormed a, wellFormed b with
  | true, true =>
    let d := (hdr b 8 4 + 2 ^ 32 - hdr a 8 4) % 2 ^ 32
    if 0 < d ∧ d < 2 ^ 31 then [1, 0] else [0, 1]
  | true, false => [0]
  | false, true => [1]
  | false, false => []

/-- Try slots in turn: the slot that passes, if any, and the cause of the last rejection. -/
def trySlots (s : State) : List Nat → Nat → Option Nat × Nat
  | [], last => (none, last)
  | k :: ks, last =>
    let c := imageCause s (slotHeader s k) (slotBody s k)
    if c = 0 then (some k, last) else trySlots s ks c

def State.bootJournal (s : State) : State :=
  s.journal 0x10 (jdata [(0, s.get O.BT_RESULT), (1, s.get O.BT_SOURCE), (2, s.get O.BT_REJECT), (4, s.get O.BT_FW_SEQ)])

/-- An image runs (R507). -/
def State.runImage (s : State) (h : List Byte) (source : Nat) : State :=
  let s := (s.set O.BT_KEY_SLOT ((if unsignedOk s then none else keyMatch s h).getD 0xFF)).setB O.BT_STATUS B.BT_STATUS_UNSIGNED (unsignedOk s)
  let s := ((s.set O.BT_RESULT 0).set O.BT_SOURCE source).set O.BT_FW_SEQ (hdr h 8 4)
  let s := (s.set O.BT_FW_VERSION (hdr h 0xC 4)).set O.BT_BOOT_TIME (divRound (s.up - s.modes.relAt : Nat) fuUs).toNat
  ((s.setB O.BT_STATUS B.BT_STATUS_BOOT_DONE true).bootJournal).emit (.note "core start" [hdr h 0x18 4])

/-- An image is rejected (Table 19.8). -/
def State.rejectImage (s : State) (cause cls : Nat) : State :=
  (s.set O.BT_REJECT cause).btHit O.BT_EVENTS B.BT_EVENTS_IMAGE_REJECTED cls

/-- BOOT_SEL as the straps give it: slots are tried unless it is 0, 1; recovery is possible unless it is 1, 0. -/
def bootSel (s : State) : Nat := s.get O.BT_STRAPS % 4

/-- The image loaded into the boot RAM. -/
def State.loadBody (s : State) (body : List Byte) : State := s.mputs (bootAddr 0) body

/-- BOOT_SEQUENCE (R500 to R507): the boot ROM runs steps 2 to 7. `l` holds the fuses' readings, `silent` a flash that does
not answer (DESIGN CHOICE, log 77). -/
def execBootSequence (l : FuseReads) (silent : Bool) (t : Nat) (s : State) : Host.Outcome State Fault Refusal :=
  let s := s.adv t
  if s.clk.inReset ∨ s.mode ≠ mdBoot ∨ s.bit O.OT_STATUS B.OT_STATUS_SCAN_DONE then .next s
  else
    let s := (s.otpReads l).bootScan
    if 5 ≤ s.get O.OT_LC_STATE then .next (s.set O.BT_RESULT 9).bootJournal
    else
      let may := decide (bootSel s ≠ 2) && !bootBit s 0
      let s := s.setB O.BT_STATUS B.BT_STATUS_RECOVERY_ALLOWED may
      let flash := decide (bootSel s ≠ 1)
      let order := if flash ∧ !silent then slotOrder s else []
      let r := trySlots s order (if !flash then 0 else if silent then 8 else if order = [] then 2 else 0)
      match r.1 with
      | some k =>
        let s := if r.2 = 0 then s
          else ((s.rejectImage r.2 0).setB O.BT_STATUS B.BT_STATUS_FALLBACK true).btHit O.BT_EVENTS B.BT_EVENTS_FALLBACK
        .next ((s.loadBody (slotBody s k)).runImage (slotHeader s k) (k + 1))
      | none =>
        let s := if r.2 = 0 then s else s.rejectImage r.2 1
        .next (if may then s.setB O.BT_STATUS B.BT_STATUS_RECOVERY_WAIT true else (s.set O.BT_RESULT 2).bootJournal)

/-! ### Recovery (R505) -/

def recoveryWait (s : State) : Bool := s.bit O.BT_STATUS B.BT_STATUS_RECOVERY_WAIT

/-- A write of BT_RECOVERY_CMD: the length of the image in the boot RAM. -/
def wrRecovery (v : Nat) (s : State) : WRes :=
  let h := s.mgets (bootAddr 0) 512
  need s (recoveryWait s && decide (576 ≤ v ∧ v = 512 + bodyLen h)) abState <|
    let body := s.mgets (bootAddr 512) (bodyLen h)
    let c := imageCause s h body
    if c = 0 then
      let s := (s.setB O.BT_STATUS B.BT_STATUS_RECOVERY_WAIT false).btHit O.BT_EVENTS B.BT_EVENTS_RECOVERY_DONE
      .ok ((s.runImage h 3).journal 0x14 (jdata [(0, 0), (1, s.get O.BT_REJECT)]))
    else .ok ((s.rejectImage c 0).journal 0x14 (jdata [(0, 1), (1, c)]))

/-- BT_RECOVERY_CMD (R505). -/
def execBtRecoveryCmd (p : Path) (v : Nat) (s : State) : Host.Outcome State Fault Refusal :=
  access p O.BT_RECOVERY_CMD s (wrRecovery (v % 2 ^ 32))

/-! ### Resets (R508, R509) -/

/-- A write of BT_CONTROL: bit 0 SOFT_RESET, the others must be 0. -/
def wrBtControl (v : Nat) (s : State) : WRes :=
  need s (decide (v < 2)) abRange (.ok (if v = 1 then s.resetEvent 9 else s))

/-- SOFT_RESET (R508). -/
def execSoftReset (p : Path) (s : State) : Host.Outcome State Fault Refusal := access p O.BT_CONTROL s (wrBtControl 1)

def wrWdtKick (s : State) : WRes := .ok (s.setBoot { s.boot with wdtAt := s.up })

/-- BT_WDT_KICK (R509): any value. -/
def execBtWdtKick (p : Path) (s : State) : Host.Outcome State Fault Refusal := access p O.BT_WDT_KICK s wrWdtKick

/-- WATCHDOG_EXPIRY (R509). -/
def execWatchdogExpiry (t : Nat) (s : State) : Host.Outcome State Fault Refusal :=
  let s := s.adv t
  let per := s.get O.BT_WDT_PERIOD
  .next (if !s.clk.inReset ∧ per ≠ 0 ∧ s.boot.wdtAt + per * fuMs ≤ s.up then s.resetEvent 7 else s)

end Sys2Proof.Machine
end

