-- ==== Sys2Proof/Machine/Canbus.lean ====
section
/-! DEFINITION. The CAN controllers, the node and its EMCY (R426 to R431, R444, R445), and the shared balls (R546). -/
namespace Sys2Proof.Machine

/-- The object of the communication profile at 0x1000 + `i`. -/
abbrev cobj (i sub : Nat) : Obj := ⟨.com, i, sub⟩

/-- The node runs in every mode except RESET and BOOT (R426). -/
def nodeRuns (s : State) : Bool := !s.clk.inReset && decide (2 ≤ s.mode)

def nmt (s : State) : Nat := s.get O.MD_NMT_STATE
def nmtPre : Nat := 127
def nmtOp : Nat := 5
def nmtStopped : Nat := 4

/-- USDO and EMCY run in pre-operational and in operational (R431). -/
def nodeTalks (s : State) : Bool := nodeRuns s && decide (nmt s = nmtPre ∨ nmt s = nmtOp)

def canCfg (s : State) (c i : Nat) : Bool := s.bit (O.MD_CAN_CONFIG c) i
def canOff (s : State) (c : Nat) : Bool := decide (s.fld (O.MD_CAN_STATUS c) B.MD_CAN_STATUS_ERROR_STATE = 2)

/-- A controller that is enabled and not bus-off (R430). -/
def canOn (s : State) (c : Nat) : Bool := nodeRuns s && canCfg s c B.MD_CAN_CONFIG_ENABLE && !canOff s c

/-- A controller is integrated: a change of its timing took it off the bus (R428). -/
def canJoined (s : State) (c : Nat) : Bool := decide (tget 0 s.net.joinAt c ≤ s.up)

/-- One bit at the nominal rate of controller `c`: 40 quanta of 25 ns times the prescaler (Table 16.7). -/
def nomBit (s : State) (c : Nat) : Nat := 25600 * 2 ^ (3 - s.fld (O.MD_CAN_CONFIG c) B.MD_CAN_CONFIG_NOM_RATE)

/-- The active line (R430) (DEDUCED, log 56). -/
def activeLine (s : State) : Option Nat := if canOn s 0 then some 0 else if canOn s 1 then some 1 else none

/-- MD_CAN_STATUS of controller `c` as its sources make it (Table 16.16) (DEDUCED, log 55). -/
def canWord (s : State) (c : Nat) : Nat :=
  let on := canOn s c
  let tdc := on && canCfg s c B.MD_CAN_CONFIG_TDC_EN && canCfg s c B.MD_CAN_CONFIG_BRS_EN && !s.net.classic
    && decide (s.fld (O.MD_CAN_CONFIG c) B.MD_CAN_CONFIG_DATA_RATE ≠ 0)
  (nodeRuns s && canCfg s c B.MD_CAN_CONFIG_ENABLE).toNat + 2 * on.toNat
    + 4 * s.fld (O.MD_CAN_STATUS c) B.MD_CAN_STATUS_ERROR_STATE + 16 * (decide (activeLine s = some c)).toNat
    + 32 * tdc.toNat + 64 * (s.bit (O.MD_CAN_STATUS c) B.MD_CAN_STATUS_LOCKED_OFF).toNat

/-- The line that MD_CAN_STATUS shows as active. -/
def shownLine (s : State) : Option Nat :=
  if s.bit (O.MD_CAN_STATUS 0) B.MD_CAN_STATUS_ACTIVE_LINE then some 0
  else if s.bit (O.MD_CAN_STATUS 1) B.MD_CAN_STATUS_ACTIVE_LINE then some 1 else none

def State.canHit (s : State) (c bit : Nat) (cls : Nat := 0) : State := s.hit (O.MD_CAN_EVENTS c) bit 565 cls

/-- Both controllers' status is taken over; a change of the active line sets LINE_SWITCH on both (R430)
(DEDUCED, log 56). -/
def State.canSync (s : State) : State :=
  let old := shownLine s
  let new := activeLine s
  let w0 := canWord s 0
  let w1 := canWord s 1
  let s := (s.set (O.MD_CAN_STATUS 0) w0).set (O.MD_CAN_STATUS 1) w1
  if old = new then s else (s.canHit 0 B.MD_CAN_EVENTS_LINE_SWITCH).canHit 1 B.MD_CAN_EVENTS_LINE_SWITCH

/-- A frame leaves on every controller that is enabled and not bus-off, as soon as its bus lets it (R430)
(DEDUCED, log 56). -/
def State.canSend (s : State) (id : Nat) (data : List Nat) : State :=
  match activeLine s with
  | none => s
  | some _ =>
    (s.forAll ((List.range 2).filter (fun c => canOn s c)) (fun s c => s.inc (O.MD_CAN_TX_FRAMES c))).emit (.can (id % 2048) data)

/-- A frame arrives on the active line; with none, or while that controller is not integrated, it is not taken (R428, R430)
(DEDUCED, log 56). -/
def State.canHeard (s : State) (f : State → State) : State :=
  match activeLine s with
  | none => s
  | some c => if canJoined s c then f (s.inc (O.MD_CAN_RX_FRAMES c)) else s

/-! ### Process data mappings -/

/-- The objects a PDO maps, in order: entries [31:16] index, [15:8] subindex, [7:0] bits (R438). `base` is 0x600 for an
RPDO, 0xA00 for a TPDO. -/
def pdoMap (s : State) (base p : Nat) : List (Nat × Nat × Nat) :=
  (List.range (s.get (cobj (base + p) 0))).map (fun k =>
    let e := s.get (cobj (base + p) (k + 1))
    (e / 65536, e / 256 % 256, e % 256))

def pdoValid (s : State) (base p : Nat) : Bool := !bitOf (s.get (cobj (base + p) 1)) 31

/-- The objects of valid TPDOs, whose changes are latched at their source (R440). -/
def State.tpdoRemap (s : State) : State :=
  { s with tpdoMap := (List.range 16).flatMap (fun p =>
      if pdoValid s 0x800 p then (pdoMap s 0xA00 p).filterMap (fun e => (objAt e.1 e.2.1).map (fun o => (o, p))) else []) }

/-! ### NMT (R431) -/

/-- Reset communication: every object of 0x1000 to 0x1FFF takes its default, a pending node-ID and protocol apply, every
session ends, the boot-up message is sent and the node is pre-operational (DEDUCED, log 58). -/
def State.resetComm (s : State) : State :=
  let id := s.get O.MD_NODE_ID
  let s := { s with
    objs := s.objs.filter (fun (p : Obj × Nat) => decide (p.1.grp ≠ Grp.com))
    net := { nodeId := id, classic := bitOf (s.get O.MD_NET_CONFIG) 0, emcy := s.net.emcy, emcyAt := s.net.emcyAt, hbSent := s.up, syncAt := s.up, offAt := s.net.offAt, offUp := s.net.offUp, joinAt := s.net.joinAt }
    tpdoMap := []
    tpdoReady := [] }
  let s := ((s.set (cobj 0x14 0) (0x80 + id)).set (cobj 0x200 1) (0x600 + id)).set (cobj 0x200 2) (0x580 + id)
  let s := s.forAll (List.range 4) (fun s p =>
    (s.set (cobj (0x400 + p) 1) (0x80000000 + 0x200 + 0x100 * p + id)).set (cobj (0x800 + p) 1) (0x80000000 + 0x180 + 0x100 * p + id))
  let s := s.forAll (List.range 4) (fun s k => s.set (O.MD_USDO_CLIENT k) 0xFF)
  (((s.set O.MD_USDO_USE 0).set O.MD_NMT_STATE nmtPre).canSync).canSend (0x700 + id) [0]

/-! ### EMCY (R444, R445) -/

/-- Error code of an event (Table 16.10). -/
def emcyCode (ev : Nat) : Nat := if ev < 480 then 0xFF01 + ev % 5 else 0xFF10

/-- Put an entry into the history, newest first (R445) (DEDUCED, log 58). -/
def State.emcyHistory (s : State) (code ev : Nat) : State :=
  let n := min 16 (s.get (cobj 3 0) + 1)
  let s := s.forAll ((List.range 15).reverse) (fun s k => s.set (cobj 3 (k + 2)) (s.get (cobj 3 (k + 1))))
  ((s.set (cobj 3 1) (ev * 65536 + code)).set (cobj 3 0) n).set (cobj 1 0) 0x81

/-- An occurrence routed to EMCY (DEDUCED, log 58). -/
def State.emcyPut (s : State) (x : Occ) : State :=
  if nodeTalks s ∧ s.net.emcy.length < 16 then
    let code := emcyCode x.ev
    let e : Emcy := ⟨code, 0x81, x.ev, x.time / 64 % 2 ^ 24⟩
    (s.setNet { s.net with emcy := s.net.emcy ++ [e] }).emcyHistory code x.ev
  else s.inc O.MD_EMCY_LOST

/-- The eight bytes of Table 16.10. -/
def emcyBytes (x : Emcy) : List Nat :=
  [x.code % 256, x.code / 256, x.reg, x.ev % 256, x.ev / 256, x.time % 256, x.time / 256 % 256, x.time / 65536]

/-- EMCY_SEND: the oldest EMCY leaves once 0x1015 × 100 µs have passed since the one before (DEDUCED, log 58). -/
def execEmcySend (t : Nat) (s : State) : Host.Outcome State Fault Refusal :=
  let s := s.adv t
  match s.net.emcy with
  | [] => .next s
  | x :: rest =>
    let early : Bool := match s.net.emcyAt with
      | none => false
      | some a => decide (s.up < a + s.get (cobj 0x15 0) * 100 * fuUs)
    if !nodeTalks s ∨ activeLine s = none ∨ early ∨ bitOf (s.get (cobj 0x14 0)) 31 then .next s
    else
      let s := s.setNet { s.net with emcy := rest, emcyAt := some s.up }
      .next (s.canSend (s.get (cobj 0x14 0)) (emcyBytes x))

/-- A write of 0x1003 sub 0 (R445). -/
def wrErrHistory (v : Nat) (s : State) : WRes :=
  need s (decide (v % 2 ^ 32 = 0)) abRange <|
    let s := (s.forAll (List.range 17) (fun s k => s.set (cobj 3 k) 0)).set (cobj 1 0) 0
    .ok (if nodeTalks s ∧ s.net.emcy.length < 16 then
        s.setNet { s.net with emcy := s.net.emcy ++ [⟨0, 0, 0, 0⟩] }
      else s)

/-- EMCY_HISTORY_CLEAR. -/
def execEmcyHistoryClear (p : Path) (s : State) : Host.Outcome State Fault Refusal := access p (cobj 3 0) s (wrErrHistory 0)

/-! ### Shared balls (R546) -/

/-- A claim on an owned ball is refused. -/
def State.pinConflict (s : State) : WRes :=
  .no ((s.inc O.MD_PIN_CONFLICTS).hit O.MD_PIN_EVENTS B.MD_PIN_EVENTS_PIN_CONFLICT 541) abLocal

/-- A write of a word of EV_IRQ_VEC: pairs 2 and 3 claim MX0 and MX1. -/
def wrIrqVec (k v : Nat) (s : State) : WRes :=
  let f : Fld := if k / 2 = 2 then B.MD_PIN_OWNER_MX0 else B.MD_PIN_OWNER_MX1
  let claims := decide (trunc 32 v ≠ 0 ∨ s.get (O.EV_IRQ_VEC (if k % 2 = 0 then k + 1 else k - 1)) ≠ 0)
  if k / 2 < 2 then .ok (s.set (O.EV_IRQ_VEC k) v)
  else if claims ∧ s.fld O.MD_PIN_OWNER f = 1 then s.pinConflict
  else
    let s := s.set (O.EV_IRQ_VEC k) v
    .ok (if s.fld O.MD_PIN_OWNER f = 1 then s else s.setF O.MD_PIN_OWNER f (if claims then 2 else 0))

/-- IRQ_VEC_WRITE: word `k` of EV_IRQ_VEC, sub 0x10 + k. -/
def execIrqVecWrite (p : Path) (k v : Nat) (s : State) : Host.Outcome State Fault Refusal :=
  if k < 8 then access p (O.EV_IRQ_VEC k) s (wrIrqVec k v) else .next s

/-- A write of MD_CAN_CONFIG of controller `c`, checked: ENABLE starts or stops the controller, new timing takes an enabled one
off the bus for the 11 bits of bus integration, and CAN1's claims both shared balls (R428 to R430, R546)
(DEDUCED, log 57). -/
def wrCanConfig (c v : Nat) : State → WRes := checked (O.MD_CAN_CONFIG c) v (fun new s =>
  let was := canCfg s c B.MD_CAN_CONFIG_ENABLE
  let on := bitOf new B.MD_CAN_CONFIG_ENABLE
  let owned := decide (s.fld O.MD_PIN_OWNER B.MD_PIN_OWNER_MX0 = 2 ∨ s.fld O.MD_PIN_OWNER B.MD_PIN_OWNER_MX1 = 2)
  if c = 1 ∧ on ∧ !was ∧ owned then s.pinConflict
  else
    let manual := !canCfg s c B.MD_CAN_CONFIG_AUTO_RECOVER
    let timing := fun (w : Nat) => (fieldOf w B.MD_CAN_CONFIG_NOM_RATE, fieldOf w B.MD_CAN_CONFIG_DATA_RATE)
    let moved := was && on && decide (timing (s.get (O.MD_CAN_CONFIG c)) ≠ timing new)
    let s := s.set (O.MD_CAN_CONFIG c) new
    let s := if moved then s.setNet { s.net with joinAt := tput s.net.joinAt c (s.up + 11 * nomBit s c) } else s
    let s := if c ≠ 1 ∨ was = on then s else s.set O.MD_PIN_OWNER (if on then 5 else 0)
    let st := O.MD_CAN_STATUS c
    let clear := fun (s : State) => ((s.setF st B.MD_CAN_STATUS_ERROR_STATE 0).set (O.MD_CAN_TEC c) 0).set (O.MD_CAN_REC c) 0
    let s := if !on then
        ({ (clear s) with net := { s.net with offAt := tdel s.net.offAt c } }).setB st B.MD_CAN_STATUS_LOCKED_OFF false
      else if canOff s c ∧ manual ∧ !s.bit st B.MD_CAN_STATUS_LOCKED_OFF then clear s
      else s
    .ok s.canSync)

/-- CAN_ENABLE_WRITE. -/
def execCanEnableWrite (p : Path) (c v : Nat) (s : State) : Host.Outcome State Fault Refusal :=
  if c < 2 then access p (O.MD_CAN_CONFIG c) s (wrCanConfig c v) else .next s

/-! ### Error states (R429, R446) -/

/-- Entry to bus-off; more than 4 within 10 s hold the controller off (DEDUCED, log 55). -/
def State.busOff (s : State) (c : Nat) : State :=
  let st := O.MD_CAN_STATUS c
  let s := if s.fld st B.MD_CAN_STATUS_ERROR_STATE = 0 then s.canHit c B.MD_CAN_EVENTS_ERROR_PASSIVE else s
  let at' := s.span (10 * fuS) (tget [] s.net.offAt c)
  let s := s.setNet { s.net with offAt := tput s.net.offAt c at', offUp := tput s.net.offUp c s.up }
  let s := ((s.setF st B.MD_CAN_STATUS_ERROR_STATE 2).inc (O.MD_CAN_BUS_OFFS c)).canHit c B.MD_CAN_EVENTS_BUS_OFF
  let s := if 4 < at'.length then (s.setB st B.MD_CAN_STATUS_LOCKED_OFF true).canHit c B.MD_CAN_EVENTS_LOCKED_OFF 1 else s
  s.canSync

/-- CAN_BUS_OFF, with the error counters as they stand (DEDUCED, log 55 and 86). -/
def execCanBusOff (c tec rec' t : Nat) (s : State) : Host.Outcome State Fault Refusal :=
  let s := s.adv t
  if 2 ≤ c ∨ !canOn s c then .next s
  else .next (((s.set (O.MD_CAN_TEC c) tec).set (O.MD_CAN_REC c) rec').busOff c)

/-- CAN_BUS_RECOVERED: the recovery sequence has run: 128 times 11 recessive bits, no fewer (DEDUCED, log 55). -/
def execCanBusRecovered (c t : Nat) (s : State) : Host.Outcome State Fault Refusal :=
  let s := s.adv t
  let st := O.MD_CAN_STATUS c
  if 2 ≤ c ∨ !nodeRuns s ∨ !canCfg s c B.MD_CAN_CONFIG_ENABLE ∨ !canOff s c ∨ !canCfg s c B.MD_CAN_CONFIG_AUTO_RECOVER
      ∨ s.bit st B.MD_CAN_STATUS_LOCKED_OFF ∨ s.up < tget 0 s.net.offUp c + 1408 * nomBit s c then .next s
  else
    let s := ((s.setF st B.MD_CAN_STATUS_ERROR_STATE 0).set (O.MD_CAN_TEC c) 0).set (O.MD_CAN_REC c) 0
    .next (s.canHit c B.MD_CAN_EVENTS_RECOVERED).canSync

/-- A frame is lost from the full receive queue. -/
def State.rxOverrun (s : State) (c : Nat) : State := (s.inc (O.MD_CAN_RX_LOST c)).canHit c B.MD_CAN_EVENTS_RX_OVERRUN

/-- CAN_RX_OVERRUN (DEDUCED, log 86). -/
def execCanRxOverrun (c t : Nat) (s : State) : Host.Outcome State Fault Refusal :=
  let s := s.adv t
  if 2 ≤ c ∨ !canOn s c then .next s else .next (s.rxOverrun c)

/-! ### NMT commands and heartbeats (R431, R432) -/

/-- An NMT command arrives on the active line. -/
def nmtCmd (t : Nat) (s : State) (f : State → State) : Host.Outcome State Fault Refusal :=
  .next ((s.adv t).canHeard f)

/-- NMT_START. -/
def execNmtStart (t : Nat) (s : State) : Host.Outcome State Fault Refusal := nmtCmd t s (fun s => s.set O.MD_NMT_STATE nmtOp)
/-- NMT_STOP. -/
def execNmtStop (t : Nat) (s : State) : Host.Outcome State Fault Refusal := nmtCmd t s (fun s => s.set O.MD_NMT_STATE nmtStopped)
/-- NMT_ENTER_PRE_OPERATIONAL. -/
def execNmtEnterPreOperational (t : Nat) (s : State) : Host.Outcome State Fault Refusal :=
  nmtCmd t s (fun s => s.set O.MD_NMT_STATE nmtPre)
/-- NMT_RESET_NODE: exactly what reset communication does. -/
def execNmtResetNode (t : Nat) (s : State) : Host.Outcome State Fault Refusal := nmtCmd t s State.resetComm
/-- NMT_RESET_COMMUNICATION. -/
def execNmtResetCommunication (t : Nat) (s : State) : Host.Outcome State Fault Refusal := nmtCmd t s State.resetComm

/-- HEARTBEAT_PRODUCE: every 0x1017 ms, 0 for none. -/
def execHeartbeatProduce (t : Nat) (s : State) : Host.Outcome State Fault Refusal :=
  let s := s.adv t
  let ms := s.get (cobj 0x17 0)
  if !nodeRuns s ∨ activeLine s = none ∨ ms = 0 ∨ s.up < s.net.hbSent + ms * fuMs then .next s
  else .next ((s.setNet { s.net with hbSent := s.up }).canSend (0x700 + s.net.nodeId) [nmt s])

/-- Entries of 0x1016 that watch a node: those with a node and a time. -/
def hbEntries (s : State) (node : Nat) : List Nat :=
  (List.range 4).filter (fun k => let e := s.get (cobj 0x16 (k + 1)); decide (e / 65536 % 256 = node ∧ e % 65536 ≠ 0))

/-- HEARTBEAT_RX: it starts the entry's time again and ends a loss (PRESUMED, log 48). -/
def execHeartbeatRx (node t : Nat) (s : State) : Host.Outcome State Fault Refusal :=
  .next ((s.adv t).canHeard (fun s => s.forAll (hbEntries s node) (fun s k =>
    (s.setNet { s.net with hbRx := tput s.net.hbRx k s.up, hbLost := setDel s.net.hbLost k }))))

/-- The heartbeat of an entry is lost (PRESUMED, log 48). -/
def State.hbLoss (s : State) (k : Nat) : State :=
  (s.setNet { s.net with hbLost := setIns s.net.hbLost k }).hit O.MD_DICT_EVENTS B.MD_DICT_EVENTS_HB_LOST 562

/-- HEARTBEAT_LOSS of entry `k`. -/
def execHeartbeatLoss (k t : Nat) (s : State) : Host.Outcome State Fault Refusal :=
  let s := s.adv t
  let e := s.get (cobj 0x16 (k + 1))
  let watched := s.net.hbRx.any (fun p => p.1 = k)
  if 4 ≤ k ∨ !nodeRuns s ∨ !watched ∨ s.net.hbLost.contains k ∨ e % 65536 = 0
      ∨ s.up < tget 0 s.net.hbRx k + e % 65536 * fuMs then .next s
  else .next (s.hbLoss k)

/-- A loss of SYNC (R442), once per absence. -/
def State.syncLoss (s : State) : State :=
  (s.setNet { s.net with syncLost := true }).hit O.MD_DICT_EVENTS B.MD_DICT_EVENTS_SYNC_TIMEOUT 564

/-- SYNC_TIMEOUT: 1.5 × 0x1006 µs without a SYNC. -/
def execSyncTimeout (t : Nat) (s : State) : Host.Outcome State Fault Refusal :=
  let s := s.adv t
  let us := s.get (cobj 6 0)
  if !nodeTalks s ∨ us = 0 ∨ s.net.syncLost ∨ 2 * s.up < 2 * s.net.syncAt + 3 * us * fuUs then .next s
  else .next s.syncLoss

/-- An RPDO's deadline expires (R441) (PRESUMED, log 52). -/
def State.rpdoLate (s : State) (p : Nat) : State :=
  (s.setNet { s.net with rpdoAt := tdel s.net.rpdoAt p }).hit O.MD_DICT_EVENTS B.MD_DICT_EVENTS_RPDO_TIMEOUT 563

/-- RPDO_TIMEOUT. -/
def execRpdoTimeout (p t : Nat) (s : State) : Host.Outcome State Fault Refusal :=
  let s := s.adv t
  let ms := s.get (cobj (0x400 + p) 5)
  if 16 ≤ p ∨ !nodeRuns s ∨ nmt s ≠ nmtOp ∨ !pdoValid s 0x400 p ∨ s.get (cobj (0x400 + p) 2) < 254 ∨ ms = 0
      ∨ !s.net.rpdoAt.any (fun q => q.1 = p) ∨ s.up < tget 0 s.net.rpdoAt p + ms * fuMs then .next s
  else .next (s.rpdoLate p)

/-! ### Sessions (R434) -/

/-- A session is freed. -/
def State.sessFree (s : State) (k : Nat) : State :=
  let s := s.setNet { s.net with sess := tdel s.net.sess k }
  (s.set (O.MD_USDO_CLIENT k) 0xFF).setB O.MD_USDO_USE k false

/-- A USDO answer leaves: it is counted as a frame, and what it says to which client goes out. -/
def State.usdoSend (s : State) (what : String) (args : List Nat) : State :=
  match activeLine s with
  | none => s
  | some _ =>
    (s.forAll ((List.range 2).filter (fun c => canOn s c)) (fun s c => s.inc (O.MD_CAN_TX_FRAMES c))).emit (.note what args)

/-- A transfer is ended with an abort code. -/
def State.usdoAbort (s : State) (client index sub code : Nat) : State :=
  s.usdoSend "usdo abort" [client, index, sub, code]

/-- A session times out. -/
def State.sessTimeout (s : State) (k : Nat) : State :=
  let x : Sess := tget {} s.net.sess k
  ((s.sessFree k).usdoAbort x.client x.index x.sub abTimeout).hit O.MD_DICT_EVENTS B.MD_DICT_EVENTS_USDO_TIMEOUT 565

/-- USDO_TIMEOUT of session `k`. -/
def execUsdoTimeout (k t : Nat) (s : State) : Host.Outcome State Fault Refusal :=
  let s := s.adv t
  let x : Sess := tget {} s.net.sess k
  if !s.net.sess.any (fun p => p.1 = k) ∨ !nodeRuns s ∨ s.up < x.lastAt + s.get O.MD_USDO_TIMEOUT * fuMs then .next s
  else .next (s.sessTimeout k)

end Sys2Proof.Machine
end

