-- ==== Sys2Proof/Machine/Fi.lean ====
section
/-! DEFINITION. Fault injection up to the forcing of an occurrence (R533 to R536): key, arming, refusals, cancelling. -/
namespace Sys2Proof.Machine

def fiBit (s : State) (b : Nat) : Bool := s.bit O.FI_STATUS b
def fiPoint (s : State) : Nat := s.get O.FI_POINT
def fiUnit (s : State) : Nat := s.get O.FI_UNIT
def fiMode (s : State) : Nat := s.get O.FI_MODE

/-- The units FI_UNIT may name at a point of Table 20.1: first and last; none where the point has no unit
(DEDUCED, log 80). -/
def fiUnits (point : Nat) : Option (Nat × Nat) :=
  if point = 6 then some (0, 119)
  else if (12 ≤ point ∧ point ≤ 16) ∨ point = 26 then some (0, 11)
  else if point = 21 then some (0, 15)
  else if (22 ≤ point ∧ point ≤ 25) ∨ (27 ≤ point ∧ point ≤ 31) ∨ (36 ≤ point ∧ point ≤ 42) ∨ point = 79 then some (0, 95)
  else if 32 ≤ point ∧ point ≤ 35 then some (0, 7)
  else if point = 43 ∨ point = 44 then some (0, 15)
  else if point = 45 then some (0, 9)
  else if point = 53 then some (0, 15)
  else if point = 54 then some (16, 19)
  else if 49 ≤ point ∧ point ≤ 55 then some (0, 19)
  else if point = 56 ∨ point = 57 then some (0, 1)
  else if point = 58 ∨ point = 61 ∨ point = 68 then some (0, 3)
  else if point = 59 then some (0, 15)
  else if point = 66 then some (1, 7)
  else if point = 72 then some (0, 511)
  else if point = 73 then some (0, 7)
  else if point = 74 then some (0, 1)
  else if point = 78 then some (0, 31)
  else none

def fiUnitOk (s : State) : Bool :=
  match fiUnits (fiPoint s) with
  | none => true
  | some (a, b) => decide (a ≤ fiUnit s ∧ fiUnit s ≤ b)

/-- Points whose Bound entry names Stop or Band (Table 20.1). -/
def boundStops (point : Nat) : Bool :=
  decide (point ∈ [1, 2, 3, 12, 13, 14, 15, 16, 17, 18, 19, 21, 22, 26, 42, 46, 49, 50, 51, 52, 53, 55, 63, 64, 66, 67, 68, 69, 76])

/-- Points whose Bound entry names Line. -/
def boundLine (point : Nat) : Bool := decide (point ∈ [23, 24, 25, 27, 30, 32, 33, 43, 45, 79])

/-- The ports that the permanent action of the armed point retires or inhibits. -/
def fiPorts (s : State) : List Nat :=
  if fiPoint s ∈ [23, 27, 28, 29, 30, 31, 37, 38, 39, 40] then [fiUnit s]
  else if 32 ≤ fiPoint s ∧ fiPoint s ≤ 35 then groupPorts (fiUnit s)
  else []

/-- A stripe of one of those ports would lack an eligible twin that stays in service. -/
def lacksTwin (s : State) : Bool :=
  let ps := fiPorts s
  ps.any (fun n => slots.any (fun j => decide (jobState s j = 2 ∨ jobState s j = 3) && (match servedStripe s j n with
    | none => false
    | some i =>
      let t := s.get (O.HP_TWIN n)
      !(decide (t < 96) && !ps.contains t && eligible s t j i false))))

/-- PRINT refuses the armed point (R536). -/
def fiNotInPrint (s : State) : Bool :=
  boundStops (fiPoint s) || lacksTwin s || (decide (fiMode s = 3) && boundLine (fiPoint s))

/-- The injection in progress is over. -/
def State.fiOver (s : State) (bit : Nat) : State :=
  let s := (s.setFi {}).set O.FI_STATUS (s.get O.FI_STATUS % 2)
  s.setB O.FI_EVENTS bit true

/-- An injection is cancelled (R535, R536); with none armed nothing happens (DEDUCED, log 81). -/
def State.fiCancel (s : State) : State := if fiBit s B.FI_STATUS_ARMED then s.fiOver B.FI_EVENTS_CANCELLED else s

/-- An armed injection that PRINT would refuse is cancelled at its entry (R536). -/
def State.fiPrint (s : State) : State := if fiNotInPrint s then s.fiCancel else s

/-- A write of FI_KEY (R534). -/
def wrFiKey (v : Nat) (s : State) : WRes := .ok (if v % 2 ^ 32 = 0x46494E4A then s.setB O.FI_STATUS B.FI_STATUS_UNLOCKED true else s)

/-- FI_KEY. -/
def execFiKey (p : Path) (v : Nat) (s : State) : Host.Outcome State Fault Refusal := access p O.FI_KEY s (wrFiKey v)

/-- An arm is refused (R535). -/
def State.fiRefused (s : State) : WRes := .no (s.setB O.FI_EVENTS B.FI_EVENTS_REFUSED true) abState

/-- A write of FI_CMD (R534 to R536). -/
def wrFiCmd (v : Nat) (s : State) : WRes :=
  if v % 256 = 2 then .ok s.fiCancel
  else need s (decide (v % 256 = 1)) abRange <|
    need s (decide (fiPoint s ≤ 79 ∧ fiMode s ≠ 0)) abRange <|
    if !fiBit s B.FI_STATUS_UNLOCKED ∨ fiBit s B.FI_STATUS_ARMED ∨ !fiUnitOk s ∨ s.clk.inReset ∨ s.mode < 2
        ∨ (s.mode = mdPrint ∧ fiNotInPrint s) then s.fiRefused
    else .ok ((s.setFi { forced := 0, lastAt := s.up }).setB O.FI_STATUS B.FI_STATUS_ARMED true)

/-- FI_ARM. -/
def execFiArm (p : Path) (s : State) : Host.Outcome State Fault Refusal := access p O.FI_CMD s (wrFiCmd 1)

/-- FI_CANCEL. -/
def execFiCancel (p : Path) (s : State) : Host.Outcome State Fault Refusal := access p O.FI_CMD s (wrFiCmd 2)

end Sys2Proof.Machine
end

