-- ==== Sys2Proof/Machine/Posif.lean ====
section
/-! DEFINITION. Position interfaces: counting, index, Hall, speed and detectors (R86 to R97), and milestones (R98 to
R100). -/
namespace Sys2Proof.Machine

/-! ### Who reads an interface -/

/-- An entry of the action table that may still execute on a position of interface `i` (R93). -/
def actOn (s : State) (i e : Nat) : Bool :=
  let st := s.get (O.ACT_STATE e)
  let tr := s.get (O.ACT_TRIGGER e)
  decide (st = 4 ∨ st = 5) && bitOf tr 7 && decide (tr % 16 = i)

/-- The interface is bound (R93). -/
def piBound (s : State) (i : Nat) : Bool :=
  ports.any (fun n => armed s n && decide (predOf s n = i ∧ predMode s i = 1))
    || stones.any (fun m => msEnabled s m && decide (msPi s m = i))
    || (List.range 256).any (fun e => actOn s i e)
    || axes.any (fun a => axisBinds s a i)
    || relays.any (fun a => decide ((relayMode s a = 1 ∨ relayMode s a = 2) ∧ relaySource s a = i))

/-- Enabled, in a mode that counts, no clock inhibit (R86, R97). -/
def piRuns (s : State) (i : Nat) : Bool :=
  decide (piMode s i ≠ 0) && decide (s.mode ≠ mdReset ∧ s.mode ≠ mdBoot) && !clockInhibit s
/-- It counts: not in fault either (R96). -/
def piCounts (s : State) (i : Nat) : Bool := piRuns s i && !piFault s i

def State.piHit (s : State) (i bit : Nat) (cls : Nat := 0) : State := s.hit (O.PI_EVENTS i) bit (480 + i) cls

/-- The consumers of interface `i` take over its fault state. -/
def State.piFollow (s : State) (i : Nat) : State :=
  ((s.relayFollow i).predSync i).predUpdate i

/-- The interface enters fault (R96); a condition that comes to stand in fault acts no more (R527). Its axes halt by it,
unless the clock inhibit has already acted on them. -/
def State.piFaultBy (s : State) (i : Nat) (halt : Bool) : State :=
  if piFault s i then s
  else
    let st := O.PI_STATUS i
    let s := ((s.setB st B.PI_STATUS_FAULT true).setB st B.PI_STATUS_POS_UNCERTAIN true).set (O.PI_SPEED i) 0
    let s := s.setPif i { s.pif i with edges := [] }
    let s := s.piHit i B.PI_EVENTS_FAULT 1
    (if halt then s.axPiFault i else s).piFollow i

/-- The clock inhibit puts an enabled interface in fault (R97); one that is in fault already has its position flagged again. Its
axes have been halted by the inhibit itself. -/
def State.piInhibit (s : State) (i : Nat) : State :=
  (s.setB (O.PI_STATUS i) B.PI_STATUS_POS_UNCERTAIN true).piFaultBy i false

def State.piFaultNow (s : State) (i : Nat) : State := s.piFaultBy i true

/-- Occurrences in the last 1 ms with one more (R526). -/
def window (s : State) (l : List Nat) : List Nat := s.span fuMs l

/-! ### Milestones (R98) -/

/-- A hit of milestone `m` by an edge with timestamp `ts`. -/
def State.msHit (s : State) (m ts : Nat) : State :=
  let c := s.get (O.MS_CONTROL m)
  let s := ((s.set (O.MS_HIT_TIME_LO m) ts).set (O.MS_HIT_TIME_HI m) (ts / 2 ^ 32)).inc (O.MS_HITS m)
  let op := fieldOf c B.MS_CONTROL_OP
  let s := if op = 0 then s
    else s.relayOp (fieldOf c B.MS_CONTROL_RELAY) (fieldOf c B.MS_CONTROL_PAIR) op (s.get (O.MS_PULSE m)) (256 + m)
  let s := if bitOf c B.MS_CONTROL_EVENT_EN then s.raiseAt (O.MS_HITS m) (576 + m) else s
  let s := (s.msMove m 1).axTrigger m
  let left := s.get (O.MS_REMAIN m)
  if left = 0 then s
  else
    let s := s.set (O.MS_REMAIN m) (left - 1)
    if left = 1 then s.msRelease m true else s

/-- The milestones of interface `i` at a counted edge. -/
def State.msEdge (s : State) (i : Nat) (up : Bool) (ts : Nat) : State :=
  s.forAll stones (fun s m =>
    if msEnabled s m ∧ msPi s m = i ∧ msDown s m = !up ∧ 0 ≤ msPast s m then s.msHit m ts else s)

/-! ### Counting (R89 to R95) -/

/-- The timestamp of a transition at uptime `e` (R44): press time with the live trim of the interface. -/
def captured (s : State) (i e : Nat) : Nat := ofSigned 64 ((e : Int) + offAt s e + (dline s (96 + 2 * i + (s.pif i).cap)).trim)

/-- A counted edge came sooner than PI_MIN_INTERVAL (Table 20.1, point 13): kept and counted. -/
def State.fastEdge (s : State) (i : Nat) : State :=
  let s := (s.inc (O.PI_FAST_EDGES i)).piHit i B.PI_EVENTS_FAST_EDGE
  let s := s.setPif i { s.pif i with fasts := window s (s.pif i).fasts }
  if 64 < (s.pif i).fasts.length then s.piFaultNow i else s

/-- A counted edge (R89, R91, R92, R94, R95): the counter, its timestamp, and what each consumer makes of it. -/
def State.piEdge (s : State) (i : Nat) (up0 : Bool) (ts : Nat) : State :=
  let up := up0 != s.bit (O.PI_CONFIG i) B.PI_CONFIG_INVERT
  let st := O.PI_STATUS i
  let old := s.get (O.PI_COUNT i)
  let new := if up then (old + 1) % 2 ^ 32 else (old + 2 ^ 32 - 1) % 2 ^ 32
  let p := s.pif i
  let turned := decide (p.edges ≠ []) && (s.bit st B.PI_STATUS_DIR != !up)
  let fast := match p.last with
    | some t => decide ((ts + 2 ^ 64 - t) % 2 ^ 64 < s.get (O.PI_MIN_INTERVAL i) * 64)
    | none => false
  let s := s.setPif i { p with edges := if turned then [ts] else (ts :: p.edges).take 257, last := some ts, lastUp := s.up }
  let s := ((s.set (O.PI_COUNT i) new).set (O.PI_LAST_EDGE_LO i) ts).set (O.PI_LAST_EDGE_HI i) (ts / 2 ^ 32)
  let s := (s.setB st B.PI_STATUS_DIR (!up)).setB st B.PI_STATUS_STOPPED false
  let s := if up ∧ new = 0 ∨ !up ∧ new = 2 ^ 32 - 1 then s.piHit i B.PI_EVENTS_WRAP else s
  let s := ((s.predEdge i up new ts).predUpdate i).axEdge i up ts
  let s := s.msEdge i up ts
  if fast then s.fastEdge i else s

/-- An illegal step (R89, R91). -/
def State.piError (s : State) (i : Nat) : State :=
  let s := (s.inc (O.PI_COUNT_ERRORS i)).setB (O.PI_STATUS i) B.PI_STATUS_POS_UNCERTAIN true
  let s := (s.piHit i B.PI_EVENTS_COUNT_ERROR).setPif i { s.pif i with errors := window s (s.pif i).errors }
  if 4 < (s.pif i).errors.length then s.piFaultNow i else s

/-- The filtered levels of some pairs change (R88): relays follow, and a motor reads its Hall code (R405). -/
def State.piLevels (s : State) (i v : Nat) : State :=
  let s := (s.setF (O.PI_STATUS i) B.PI_STATUS_INPUT v).relayFollow i
  s.forAll axes (fun s a => if axisHall s a = some i then s.hallSync a else s)

/-- Place of (A, B) in the sequence of R89. -/
def quadStep : Nat → Nat
  | 0 => 0
  | 1 => 1
  | 3 => 2
  | _ => 3

/-- FIRE ticks from a transition at uptime `e` until now. -/
def ticksSince (s : State) (e : Nat) : Nat := s.up / 64 - e / 64
/-- The glitch filter has accepted a change whose transition came at uptime `e`: the level has stood at PI_GLITCH + 1 FIRE
ticks (R88). -/
def accepted (s : State) (i e : Nat) : Bool := decide (s.get (O.PI_GLITCH i) + 1 ≤ ticksSince s e)

/-- The accepted state of A and B becomes `ab`, by a transition at uptime `e` (R89). -/
def State.quadChange (s : State) (i ab e : Nat) : State :=
  let v := s.fld (O.PI_STATUS i) B.PI_STATUS_INPUT
  let d := (quadStep (ab % 4) + 4 - quadStep (v % 4)) % 4
  let ts := captured s i e
  let s := s.piLevels i (v / 4 * 4 + ab % 4)
  if piMode s i ≠ 1 ∨ !piCounts s i then s
  else if d = 1 then s.piEdge i true ts
  else if d = 3 then s.piEdge i false ts
  else if d = 2 then s.piError i
  else s

/-- PI_EDGE_COUNTED (R88, R89): the filtered state (A in bit 0, B in bit 1) becomes `ab`; its transition came at uptime `e`.
A level that has not stood long enough is not accepted. -/
def execPiEdgeCounted (i ab e t : Nat) (s : State) : Host.Outcome State Fault Refusal :=
  let s := s.adv t
  .next (if accepted s i e then s.quadChange i ab e else s)

/-- The accepted code H3 H2 H1 becomes `code`, by a transition at uptime `e` (R91). -/
def State.hallChange (s : State) (i code e : Nat) : State :=
  let ts := captured s i e
  let s := s.piLevels i (code % 8)
  if piMode s i ≠ 2 then s
  else
    let p := s.pif i
    match hallStep (code % 8) with
    | none => if p.badAt.isSome then s else s.setPif i { p with badAt := some s.up, badSeen := false }
    | some k =>
      let s := s.setPif i { p with hall := some (code % 8), badAt := none, hallPerm := false }
      match (if piCounts s i then p.hall.bind hallStep else none) with
      | none => s
      | some j =>
        let d := (k + 6 - j) % 6
        if d = 0 then s
        else if d = 1 then s.piEdge i true ts
        else if d = 5 then s.piEdge i false ts
        else s.piError i

/-- PI_HALL_CHANGE (R88, R91): the filtered code H3 H2 H1 becomes `code`; its transition came at uptime `e`. -/
def execPiHallChange (i code e t : Nat) (s : State) : Host.Outcome State Fault Refusal :=
  let s := s.adv t
  .next (if accepted s i e then s.hallChange i code e else s)

/-- A glitch: counted, and a fault when more than 1,024 fall in 1 ms (R88, Table 4.3). In fault it is counted and acts no more
(R527); outside the modes that count nothing is. -/
def State.piGlitch (s : State) (i : Nat) : State :=
  if s.mode = mdReset ∨ s.mode = mdBoot then s
  else
    let s := (s.inc (O.PI_GLITCHES i)).setPif i { s.pif i with glitches := window s (s.pif i).glitches }
    if 1024 < (s.pif i).glitches.length ∧ piRuns s i then s.piFaultNow i else s

/-- PI_GLITCH (R88): a pulse `x` on a pair (0 A, 1 B, 2 Z), which ends now, is shorter than PI_GLITCH + 1
ticks. Relays in PASS_DIRECT on the interface pass it on (R101) (DESIGN CHOICE, log 92). -/
def execPiGlitch (i : Nat) (x : Pulse) (s : State) : Host.Outcome State Fault Refusal :=
  let s := s.adv x.t
  if accepted s i x.e then .next s
  else .next ((s.forAll relays (fun s a => if relayMode s a = 1 ∧ relaySource s a = i then
    s.emit (.note "pulse passed" [a, x.pair, x.e]) else s)).piGlitch i)

/-- The accepted level of Z becomes `level`, by a transition at uptime `e` (R90). -/
def State.zChange (s : State) (i : Nat) (level : Bool) (e : Nat) : State :=
  let v := s.fld (O.PI_STATUS i) B.PI_STATUS_INPUT
  let was := bitOf v 2
  let ts := captured s i e
  let s := s.piLevels i (putBit v 2 level)
  let cfg := s.get (O.PI_CONFIG i)
  if was = level ∨ piMode s i ≠ 1 ∨ !piCounts s i ∨ !bitOf cfg B.PI_CONFIG_Z_EN ∨ level = bitOf cfg B.PI_CONFIG_Z_POL then s
  else
    let st := O.PI_STATUS i
    let s := ((s.set (O.PI_Z_POS i) (s.get (O.PI_COUNT i))).set (O.PI_Z_TIME_LO i) ts).set (O.PI_Z_TIME_HI i) (ts / 2 ^ 32)
    let s := (s.setB st B.PI_STATUS_Z_SEEN true).piHit i B.PI_EVENTS_Z
    let s := if bitOf cfg B.PI_CONFIG_Z_HOME then
        let s := (s.set (O.PI_COUNT i) (s.get (O.PI_Z_LOAD i))).setB (O.PI_CONFIG i) B.PI_CONFIG_Z_HOME false
        (s.setB st B.PI_STATUS_HOMED true).setB st B.PI_STATUS_POS_UNCERTAIN false
      else s
    s.forAll axes (fun s a => if axisSource s a = some i then ((s.axCount a).limitCheck a).axHome a else s)

/-- PI_Z_EDGE (R88, R90): the filtered level of Z becomes `level`, by a transition at `z.e`. `z.ab` is the state of A and B that
reaches the decoder in the same FIRE tick, by a transition at `z.eab`: its step is counted first. -/
def execPiZEdge (i : Nat) (level : Bool) (z : ZChange) (t : Nat) (s : State) : Host.Outcome State Fault Refusal :=
  let s := s.adv t
  let s := if accepted s i z.eab then s.quadChange i z.ab z.eab else s
  .next (if accepted s i z.e then s.zChange i level z.e else s)

/-- An invalid Hall code is counted, once for each time it is held. -/
def State.hallInvalid (s : State) (i : Nat) : State :=
  ((s.setPif i { s.pif i with badSeen := true }).inc (O.PI_INVALID_HALL i)).piHit i B.PI_EVENTS_INVALID_HALL

/-- PI_INVALID_HALL (R91): an invalid code has been held for more than 1 µs; in fault it is counted and acts no more (R527). -/
def execPiInvalidHall (i t : Nat) (s : State) : Host.Outcome State Fault Refusal :=
  let s := s.adv t
  match (s.pif i).badAt with
  | none => .next s
  | some b =>
    if s.up ≤ b + fuUs ∨ (s.pif i).badSeen then .next s
    else .next (s.hallInvalid i)

/-- INVALID_HALL_HELD (R96): an invalid code has been held for 100 µs. -/
def execInvalidHallHeld (i t : Nat) (s : State) : Host.Outcome State Fault Refusal :=
  let s := s.adv t
  match (s.pif i).badAt with
  | none => .next s
  | some b =>
    if s.up < b + 100 * fuUs then .next s
    else
      let s := s.setPif i { s.pif i with hallPerm := true }
      .next (if piRuns s i then s.piFaultNow i else s)

/-! ### Wires (R87) -/

/-- The pair's wires are checked: 0 A, 1 B, 2 Z. An interface with MODE 0 checks none, and shows no WIRE_BAD
(DEDUCED, log 93). -/
def wireChecked (s : State) (i pair : Nat) : Bool :=
  let c := s.get (O.PI_CONFIG i)
  bitOf c B.PI_CONFIG_WIRE_CHECK_EN && !bitOf (fieldOf c B.PI_CONFIG_SE) pair && decide (piMode s i ≠ 0 ∧ pair < 3)

def State.wireBad (s : State) (i pair : Nat) (bad : Bool) : State :=
  s.setF (O.PI_STATUS i) B.PI_STATUS_WIRE_BAD (putBit (s.fld (O.PI_STATUS i) B.PI_STATUS_WIRE_BAD) pair bad)

/-- An episode of wire disagreement is counted. -/
def State.wireEpisode (s : State) (i : Nat) : State :=
  let s := (s.inc (O.PI_WIRE_FAULTS i)).piHit i B.PI_EVENTS_WIRE
  let s := s.setPif i { s.pif i with wires := window s (s.pif i).wires }
  if 16 < (s.pif i).wires.length then s.piFaultNow i else s

/-- The wires of a pair have read as they do since uptime `e`, for PI_WIRE_TIME FIRE ticks (R87). -/
def wiresHeld (s : State) (i e : Nat) : Bool := decide (s.get (O.PI_WIRE_TIME i) ≤ ticksSince s e)

/-- PI_WIRE_DISAGREE (R87): both wires of a pair have read the same level, since `x.e`, for PI_WIRE_TIME. -/
def execPiWireDisagree (i pair : Nat) (x : Since) (s : State) : Host.Outcome State Fault Refusal :=
  let s := s.adv x.t
  if !wiresHeld s i x.e ∨ !wireChecked s i pair ∨ bitOf (s.fld (O.PI_STATUS i) B.PI_STATUS_WIRE_BAD) pair then .next s
  else
    let s := (s.wireBad i pair true).setPif i { s.pif i with wireAt := tput (s.pif i).wireAt pair x.e }
    if !piRuns s i then .next s else .next (s.wireEpisode i)

/-- WIRE_DISAGREEMENT_HELD (R96): the wires have read the same level for 10 µs, counted from when they first did
(DEDUCED, log 93). -/
def execWireDisagreementHeld (i pair t : Nat) (s : State) : Host.Outcome State Fault Refusal :=
  let s := s.adv t
  if !bitOf (s.fld (O.PI_STATUS i) B.PI_STATUS_WIRE_BAD) pair ∨ s.up < tget 0 (s.pif i).wireAt pair + 10 * fuUs then .next s
  else
    let s := s.setPif i { s.pif i with wirePerm := setIns (s.pif i).wirePerm pair }
    .next (if piRuns s i then s.piFaultNow i else s)

/-- The episode of a pair ends. -/
def State.wireOk (s : State) (i pair : Nat) : State :=
  (s.wireBad i pair false).setPif i { s.pif i with
    wireAt := tdel (s.pif i).wireAt pair
    wirePerm := setDel (s.pif i).wirePerm pair }

/-- WIRE_AGREEMENT_RESTORED (R87): the wires have read opposite levels, since `x.e`, for PI_WIRE_TIME. -/
def execWireAgreementRestored (i pair : Nat) (x : Since) (s : State) : Host.Outcome State Fault Refusal :=
  let s := s.adv x.t
  .next (if wiresHeld s i x.e then s.wireOk i pair else s)

/-! ### Speed (R94) -/

/-- PI_SPEED from the present run of edges, in pu per µs (R94). It saturates at the range of its type, and edges with one
timestamp count as 1 fu apart (DEDUCED, log 93). -/
def speedOf (s : State) (i : Nat) : Int :=
  let p := s.pif i
  let n := min (s.get (O.PI_SPEED_EDGES i)) (p.edges.length - 1)
  if n = 0 ∨ piFault s i ∨ s.bit (O.PI_STATUS i) B.PI_STATUS_STOPPED then 0
  else
    let t0 := p.edges.headD 0
    let span : Nat := (t0 + 2 ^ 64 - p.edges.getD n 0) % 2 ^ 64
    let age := toSigned 64 (s.tick + 2 ^ 64 - t0)
    let k : Int := 25600 * 65536
    let v := if age ≤ 0 ∨ age * n ≤ span then divRound (n * k) (max 1 span) else divRound k age.toNat
    let v := clampI 0 (2 ^ 31 - 1) v
    if s.bit (O.PI_STATUS i) B.PI_STATUS_DIR then -v else v

/-- PI_SPEED_UPDATE (R94): every 64 FIRE ticks. -/
def execPiSpeedUpdate (i t : Nat) (s : State) : Host.Outcome State Fault Refusal :=
  let s := s.adv t
  .next (if piMode s i = 0 then s else s.setI (O.PI_SPEED i) (speedOf s i))

/-- PI_STOPPED (R94): no edge for PI_STOP_TIME; an interface in fault or under the clock inhibit counts none either. -/
def execPiStopped (i t : Nat) (s : State) : Host.Outcome State Fault Refusal :=
  let s := s.adv t
  if s.bit (O.PI_STATUS i) B.PI_STATUS_STOPPED ∨ s.up < (s.pif i).lastUp + s.get (O.PI_STOP_TIME i) * fuUs ∨ piMode s i = 0
      ∨ s.mode = mdReset ∨ s.mode = mdBoot then .next s
  else .next (((s.setB (O.PI_STATUS i) B.PI_STATUS_STOPPED true).set (O.PI_SPEED i) 0).piHit i B.PI_EVENTS_STOPPED)

/-! ### Writes (R93, R96) -/

/-- A write of PI_COUNT (R93): loads the counter at the next FIRE tick (DEDUCED, log 17). -/
def wrPiCount (i v : Nat) (s : State) : WRes :=
  need s (!piBound s i) abState <|
    .ok (((s.adv ((s.up / 64 + 1) * 64)).set (O.PI_COUNT i) v).setB (O.PI_STATUS i) B.PI_STATUS_POS_UNCERTAIN false)

def execPiCountWrite (p : Path) (i v : Nat) (s : State) : Host.Outcome State Fault Refusal :=
  access p (O.PI_COUNT i) s (wrPiCount i v)

/-- A permanent condition of Table 4.3 persists (R96). -/
def piPersists (s : State) (i : Nat) : Bool :=
  clockInhibit s || (s.pif i).hallPerm || decide ((s.pif i).wirePerm ≠ [])

/-- CLR_FAULT takes effect: every window is reset (R527), and counting begins afresh. -/
def State.piClear (s : State) (i : Nat) : State :=
  if !piFault s i then s
  else
    let p := s.pif i
    let s := s.setB (O.PI_STATUS i) B.PI_STATUS_FAULT false
    (s.setPif i { p with edges := [], last := none, lastUp := s.up, glitches := [], fasts := [], errors := [], wires := [] }).piFollow i

/-- A write of PI_CONFIG with the stored word `new` (R93) and the bits of CLR_FAULT and CLR_UNCERTAIN as written. -/
def wrPiConfig (i new : Nat) (clrFault clrUncertain : Bool) (s : State) : WRes :=
  let o := O.PI_CONFIG i
  let old := s.get o
  let homes := bitOf new B.PI_CONFIG_Z_HOME && !bitOf old B.PI_CONFIG_Z_HOME
  need s (!((decide (new % 8 ≠ old % 8) || homes) && piBound s i)) abState <|
  need s (!(clrFault && piPersists s i)) abState <|
    let s := s.set o new
    let st := O.PI_STATUS i
    let s := if clrFault then s.piClear i else s
    let s := if clrUncertain then s.setB st B.PI_STATUS_POS_UNCERTAIN false else s
    let s :=
      if new % 4 = old % 4 then s
      else
        let code := s.fld st B.PI_STATUS_INPUT
        let bad := decide (new % 4 = 2) && (hallStep code).isNone
        let s := s.setPif i { s.pif i with
          edges := []
          last := none
          lastUp := s.up
          hall := if new % 4 = 2 ∧ !bad then some code else none
          badAt := if bad then some s.up else none
          badSeen := false
          hallPerm := false }
        let s := (s.set (O.PI_SPEED i) 0).setB st B.PI_STATUS_ENABLED (decide (new % 4 ≠ 0))
        let s := if old % 4 = 0 then s.setB st B.PI_STATUS_Z_SEEN false else s
        let s := s.forAll axes (fun s a => if axisHall s a = some i then s.hallSync a else s)
        if new % 4 ≠ 0 ∧ clockInhibit s then s.piFaultNow i else s.piFollow i
    .ok (s.forAll [0, 1, 2] (fun s q => if wireChecked s i q then s else s.wireOk i q))

/-- A command of its own that writes PI_CONFIG. -/
def cmdPiConfig (p : Path) (i v : Nat) (s : State) : Host.Outcome State Fault Refusal :=
  access p (O.PI_CONFIG i) s (checked (O.PI_CONFIG i) v (fun new =>
    wrPiConfig i new (bitOf v B.PI_CONFIG_CLR_FAULT) (bitOf v B.PI_CONFIG_CLR_UNCERTAIN)))

/-- PI_CONFIG_WRITE (R93). -/
def execPiConfigWrite (p : Path) (i v : Nat) (s : State) : Host.Outcome State Fault Refusal := cmdPiConfig p i v s

/-- CLR_FAULT (R96): the other fields are written at their present values. -/
def execClrFault (p : Path) (i : Nat) (s : State) : Host.Outcome State Fault Refusal :=
  cmdPiConfig p i (putBit (s.get (O.PI_CONFIG i)) B.PI_CONFIG_CLR_FAULT true) s

/-- CLR_UNCERTAIN (R96). -/
def execClrUncertain (p : Path) (i : Nat) (s : State) : Host.Outcome State Fault Refusal :=
  cmdPiConfig p i (putBit (s.get (O.PI_CONFIG i)) B.PI_CONFIG_CLR_UNCERTAIN true) s

/-! ### Milestone writes (R100) -/

/-- A write of MS_CONTROL: setting ENABLE claims the milestone for the host, and is refused with another owner; while it is
enabled nothing else of the word may change; clearing ENABLE releases the owner. -/
def wrMsControl (m new : Nat) (s : State) : WRes :=
  let o := O.MS_CONTROL m
  let old := s.get o
  let on := bitOf new B.MS_CONTROL_ENABLE
  if msEnabled s m then
    if putBit new B.MS_CONTROL_ENABLE true ≠ old then .no s abState
    else if !on then .ok (s.msRelease m)
    else if s.get (O.MS_OWNER m) ≠ 1 then .no (s.raiseAt (O.MS_OWNER m) 541) abLocal
    else .ok s
  else if on then
    match (s.set o (putBit new B.MS_CONTROL_ENABLE false)).msClaim m 1 with
    | .ok s => .ok s
    | .no s c => .no (s.set o old) c
  else .ok (s.set o new)

/-- MS_ENABLE and MS_DISABLE (R100): a write of MS_CONTROL that sets or clears ENABLE. -/
def cmdMs (p : Path) (m v : Nat) (s : State) : Host.Outcome State Fault Refusal :=
  access p (O.MS_CONTROL m) s (checked (O.MS_CONTROL m) v (wrMsControl m))

def execMsEnable (p : Path) (m v : Nat) (s : State) : Host.Outcome State Fault Refusal :=
  cmdMs p m (putBit v B.MS_CONTROL_ENABLE true) s

def execMsDisable (p : Path) (m v : Nat) (s : State) : Host.Outcome State Fault Refusal :=
  cmdMs p m (putBit v B.MS_CONTROL_ENABLE false) s

end Sys2Proof.Machine
end

