-- ==== Sys2Proof/Machine/Clock.lean ====
section
/-! DEFINITION. Clock supervision (R51 to R56), press time (R39, R42), snapshots (R43), and the freeze of the delay lines
(R50). -/
namespace Sys2Proof.Machine

def ckBit (s : State) (b : Nat) : Bool := s.bit O.CK_STATUS b
def State.ckPut (s : State) (b : Nat) (v : Bool) : State := s.setB O.CK_STATUS b v

/-- The clock inhibit applies (R52, R53): FI low, groups off, interfaces in fault (R97); axes halt where they are, or make
decelerating stops when holdover has expired (DEDUCED, log 19). -/
def State.clockInhibitOn (s : State) (bit : Nat) (decel : Bool) : State :=
  let s := s.hit O.CK_EVENTS bit 540 2
  let s := (s.ckPut B.CK_STATUS_CLOCK_INHIBIT true).ckPut B.CK_STATUS_TIME_VALID false
  let s := if decel then s.stopAll false
    else (s.haltAll 2).forAll axes (fun s a => s.setB (O.AX_STATUS a) B.AX_STATUS_POS_UNCERTAIN true)
  let s := s.inhibitSync.fiOff
  s.forAll pis (fun s i => if piMode s i = 0 then (s.predSync i).predUpdate i else s.piInhibit i)

/-- A clock fault of R53, whose 200 µs test runs from the first condition that stands. -/
def State.clockFault (s : State) (bit : Nat) : State :=
  let s := s.setClk { s.clk with lostAt := some (s.clk.lostAt.getD s.up) }
  s.clockInhibitOn bit false

/-- REF_LOSS (R51, R52). -/
def execRefLoss (t : Nat) (s : State) : Host.Outcome State Fault Refusal :=
  let s := s.adv t
  if s.clk.inReset ∨ !ckBit s B.CK_STATUS_REF_OK then .next s
  else
    let s := (s.hit O.CK_EVENTS B.CK_EVENTS_REF_LOSS 540 1).ckPut B.CK_STATUS_REF_OK false
    if s.bit O.CK_CONTROL B.CK_CONTROL_HOLDOVER_EN then
      .next ((s.setClk { s.clk with holdSince := some s.up }).ckPut B.CK_STATUS_HOLDOVER true)
    else .next ((s.ckPut B.CK_STATUS_ROOT_LOCKED false).clockFault B.CK_EVENTS_PLL_UNLOCK)

/-- REF_RETURN (R52): REFCLK has passed two windows and the PLL has re-engaged. -/
def execRefReturn (t : Nat) (s : State) : Host.Outcome State Fault Refusal :=
  let s := s.adv t
  if s.clk.inReset then .next s
  else .next (((s.setClk { s.clk with holdSince := none }).ckPut B.CK_STATUS_HOLDOVER false).ckPut B.CK_STATUS_REF_OK true)

/-- HOLDOVER_EXPIRED (R52) (DEDUCED, log 19). -/
def execHoldoverExpired (t : Nat) (s : State) : Host.Outcome State Fault Refusal :=
  let s := s.adv t
  match s.clk.holdSince with
  | none => .next s
  | some a =>
    if s.up ≤ a + s.get O.CK_HOLDOVER_LIMIT * fuUs then .next s
    else .next ((s.setClk { s.clk with holdSince := none }).clockInhibitOn B.CK_EVENTS_HOLDOVER_EXPIRED true)

/-- PLL_UNLOCK (R53): in holdover the lock monitor does not act (R52). -/
def execPllUnlock (t : Nat) (s : State) : Host.Outcome State Fault Refusal :=
  let s := s.adv t
  if s.clk.inReset ∨ ckBit s B.CK_STATUS_HOLDOVER ∨ !ckBit s B.CK_STATUS_ROOT_LOCKED then .next s
  else .next ((s.ckPut B.CK_STATUS_ROOT_LOCKED false).clockFault B.CK_EVENTS_PLL_UNLOCK)

/-- DIV_FAULT (R53). -/
def execDivFault (t : Nat) (s : State) : Host.Outcome State Fault Refusal :=
  let s := s.adv t
  if s.clk.inReset ∨ s.clk.divBad then .next s
  else .next ((s.setClk { s.clk with divBad := true }).clockFault B.CK_EVENTS_DIV_FAULT)

/-- ROOT_LOCK_REGAINED (R53): the root PLL is locked again, within 200 µs; `divOk`: every divider is in its window. Later the
time-out alone counts. -/
def execRootLockRegained (divOk : Bool) (t : Nat) (s : State) : Host.Outcome State Fault Refusal :=
  let s := s.adv t
  match s.clk.lostAt with
  | none => .next s
  | some a =>
    if a + 200 * fuUs < s.up then .next s
    else
      let s := s.ckPut B.CK_STATUS_ROOT_LOCKED true
      .next (if divOk then (s.setClk { s.clk with lostAt := none, divBad := false }) else s)

/-- LOCK_LOSS_TIMEOUT (R53): 200 µs after a clock fault without lock. -/
def execLockLossTimeout (t : Nat) (s : State) : Host.Outcome State Fault Refusal :=
  let s := s.adv t
  match s.clk.lostAt with
  | none => .next s
  | some a => if s.up < a + 200 * fuUs then .next s else .next (s.resetEvent 4)

/-- RTC_XTAL_LOSS (R56): the RTC runs on at the rate of its RC oscillator, which is within 5 % of 32 kHz and otherwise
open. A crystal that is reported lost already, through a RESET too, is not reported again
(DESIGN CHOICE, log 9 and 16; DEDUCED, log 100). -/
def execRtcXtalLoss (t : Nat) (s : State) : Host.Outcome State Fault Refusal :=
  let s := s.adv t
  if s.bit O.BK_STATUS B.BK_STATUS_RTC_RC then .next s
  else
    let r := s.draw
    let s := r.2.setBk { r.2.bk with rcRate := 9277344 + r.1 % 976563 }
    let s := (s.setB O.BK_STATUS B.BK_STATUS_RTC_RC true).journal 0xE 0
    if s.clk.inReset then .next s
    else
      let s := s.ckPut B.CK_STATUS_RTC_XTAL_OK false
      .next ((s.hit O.CK_EVENTS B.CK_EVENTS_RTC_XTAL_LOSS 540 1).raise 574 1 (detailOf O.BK_STATUS B.BK_STATUS_RTC_RC))

/-- RTC_XTAL_RESTORED (R56). -/
def execRtcXtalRestored (t : Nat) (s : State) : Host.Outcome State Fault Refusal :=
  let s := s.adv t
  if !s.bit O.BK_STATUS B.BK_STATUS_RTC_RC then .next s
  else
    let s := s.setBk { s.bk with rcRate := 0 }
    let s := (s.setB O.BK_STATUS B.BK_STATUS_RTC_RC false).journal 0xE 1
    .next (if s.clk.inReset then s else s.ckPut B.CK_STATUS_RTC_XTAL_OK true)

/-- PCIE_REF_LOSS (R55): the PCIe link goes down. -/
def execPcieRefLoss (t : Nat) (s : State) : Host.Outcome State Fault Refusal :=
  let s := s.adv t
  if s.clk.inReset ∨ !ckBit s B.CK_STATUS_PCIE_REF_OK then .next s
  else
    let s := (s.hit O.CK_EVENTS B.CK_EVENTS_PCIE_REF_LOSS 540 1).ckPut B.CK_STATUS_PCIE_REF_OK false
    .next (s.setEvs { s.evs with linkUp := false })

/-- PLL_LOCK (R37, R39): after the last reset cause has ended the clocks start, press time starts at zero and the straps
are sampled (R499); the device is in BOOT, the interlock inhibit stands (R475), and so does curfew (R479)
(DEDUCED, log 69). -/
def execPllLock (straps t : Nat) (s : State) : Host.Outcome State Fault Refusal :=
  let s := s.adv t
  if !s.clk.inReset ∨ s.modes.causes ≠ [] then .next s
  else
    let s := { s with
      clk := { s.clk with inReset := false, ptLog := [] }
      modes := { s.modes with pinKind := 1, pinAt := s.up, pinWait := false }
      ptOff := ofSigned 64 (-((s.up / 64 * 64 : Nat) : Int)) }
    let s := (s.set O.MD_MODE mdBoot).set O.MD_INHIBIT_STATUS 0x301
    let s := (s.set O.BT_STRAPS (straps % 8)).ckPut B.CK_STATUS_RTC_XTAL_OK (!s.bit O.BK_STATUS B.BK_STATUS_RTC_RC)
    if s.supply.warn then
      let s := s.setSupply { s.supply with holdFrom := none, dipAt := s.up }
      .next (((s.setB O.SU_STATUS 8 true).setB O.SU_STATUS B.SU_STATUS_DIP true).setB O.SU_STATUS B.SU_STATUS_CURFEW_HOLD false)
    else .next (s.setSupply { s.supply with holdFrom := some s.up })

/-! ### Press time and snapshots -/

/-- An entry with a press-time trigger that may still execute (R42). -/
def timedEntry (s : State) : Bool :=
  (List.range 256).any (fun e => decide (2 ≤ s.get (O.ACT_STATE e) ∧ s.get (O.ACT_STATE e) ≤ 5) && !s.bit (O.ACT_TRIGGER e) 7)

/-- A write of CK_PT_LOAD (R42, Table 2.2): the counter is loaded at the next FIRE tick (DEDUCED, log 17). -/
def wrPtLoad (v : Nat) (s : State) : WRes :=
  let val : Nat := s.get O.CK_PT_SET_LO + 2 ^ 32 * s.get O.CK_PT_SET_HI
  if v = 0 then .ok s
  else if v ≠ 1 then .no s abRange
  else if s.mode = mdPrint ∨ timedEntry s then .no s abState
  else if ckBit s B.CK_STATUS_TIME_STEERED then .no s abLocal
  else if 2 ^ 63 ≤ val ∨ val % 64 ≠ 0 then .no s abRange
  else
    let s := s.adv ((s.up / 64 + 1) * 64)
    .ok ((s.ptSet (ofSigned 64 ((val : Int) - s.up))).ckPut B.CK_STATUS_TIME_VALID true)

def execCkPtLoad (p : Path) (v : Nat) (s : State) : Host.Outcome State Fault Refusal := access p O.CK_PT_LOAD s (wrPtLoad v)

/-- Cycles of the real-time clock as they stood `n` RTC edges ago, `c` being the cycles now: loads of the clock are newest first,
each with the cycles at the edge before it and at its own (R43). -/
def rtcBack : List (Nat × Nat) → Nat → Nat → Nat
  | [], c, n => (c + 2 ^ 47 - n) % 2 ^ 47
  | p :: l, c, n =>
    let k := (c + 2 ^ 47 - p.2) % 2 ^ 47
    if n ≤ k then (c + 2 ^ 47 - n) % 2 ^ 47 else rtcBack l p.1 (n - k - 1)

/-- A snapshot (R43): one latch in a FIRE tick. The RTC values are those of the last RTC edge at least two RTC cycles
old (DEDUCED, log 18). -/
def State.snapshot (s : State) : State :=
  if s.clk.snapTick = some (s.up / 64) then s
  else
    let s := s.setClk { s.clk with snapTick := some (s.up / 64) }
    let rtc := rtcBack s.bk.rtcWas (s.get O.BK_RTC_SEC * 32768 + s.bk.rtcSub) 2
    let s := (s.set O.CK_SNAP_LO s.tick).set O.CK_SNAP_HI (s.tick / 2 ^ 32)
    ((s.set O.CK_SNAP_RTC (rtc / 32768)).set O.CK_SNAP_RTC_SUB (rtc % 32768)).inc O.CK_SNAP_SEQ

/-- A write of CK_SNAPSHOT: any value but 1 is refused. -/
def wrSnapshot (v : Nat) (s : State) : WRes := need s (decide (v = 1)) abRange (.ok s.snapshot)

def execCkSnapshot (p : Path) (v : Nat) (s : State) : Host.Outcome State Fault Refusal := access p O.CK_SNAPSHOT s (wrSnapshot v)

/-! ### CK_CONTROL (R50, R54) -/

/-- A write of CK_CONTROL with the stored word and CLR_INHIBIT as written. -/
def wrCkControl (new : Nat) (clr : Bool) (s : State) : WRes :=
  need s (!clr || (ckBit s B.CK_STATUS_ROOT_LOCKED && ckBit s B.CK_STATUS_REF_OK && !s.clk.divBad)) abState <|
    let was := frozen s
    let s := s.set O.CK_CONTROL new
    let s := if clr && clockInhibit s then
        ((s.ckPut B.CK_STATUS_CLOCK_INHIBIT false).inhibitSync).forAll pis (fun s i => (s.predSync i).predUpdate i)
      else s
    .ok (if was && !frozen s then s.dlSettleAll else s)

def cmdCkControl (p : Path) (v : Nat) (s : State) : Host.Outcome State Fault Refusal :=
  access p O.CK_CONTROL s (checked O.CK_CONTROL v (fun new => wrCkControl new (bitOf v B.CK_CONTROL_CLR_INHIBIT)))

/-- CLR_INHIBIT (R54). -/
def execClrInhibit (p : Path) (s : State) : Host.Outcome State Fault Refusal :=
  cmdCkControl p (putBit (s.get O.CK_CONTROL) B.CK_CONTROL_CLR_INHIBIT true) s

/-- DL_FREEZE (R50). -/
def execDlFreeze (p : Path) (on : Bool) (s : State) : Host.Outcome State Fault Refusal :=
  cmdCkControl p (putBit (s.get O.CK_CONTROL) B.CK_CONTROL_DL_FREEZE on) s

end Sys2Proof.Machine
end

