-- ==== Sys2Proof/Machine/Action.lean ====
section
/-! DEFINITION. The action table (R74 to R80, R85): entries, their checks, and what a triggered entry does. -/
namespace Sys2Proof.Machine

def entries : List Nat := List.range 256
def actState (s : State) (e : Nat) : Nat := s.get (O.ACT_STATE e)
def State.actTo (s : State) (e st : Nat) : State := s.set (O.ACT_STATE e) st
/-- FREE, DONE or SUSPENDED. -/
def actFree (s : State) (e : Nat) : Bool := decide (actState s e = 0 ∨ actState s e = 6 ∨ actState s e = 7)
/-- Entries in FREE, DONE or SUSPENDED (FJ_ACT_FREE), and the index of the lowest (FJ_ACT_NEXT_FREE). -/
def freeEntries (s : State) : Nat := (entries.filter (actFree s)).length
def nextFree (s : State) : Option Nat := entries.find? (actFree s)

/-- The fields of an entry (Table 3.18). -/
structure ActFields where
  kind : Nat
  trigger : Nat
  when' : Nat
  arg : Nat
  deriving DecidableEq, Repr

def actFields (s : State) (e : Nat) : ActFields :=
  ⟨s.get (O.ACT_KIND e), s.get (O.ACT_TRIGGER e), s.get (O.ACT_WHEN_LO e) + 2 ^ 32 * s.get (O.ACT_WHEN_HI e),
   s.get (O.ACT_ARG_LO e) + 2 ^ 32 * s.get (O.ACT_ARG_HI e)⟩

def ActFields.byPos (f : ActFields) : Bool := bitOf f.trigger 7
def ActFields.down (f : ActFields) : Bool := bitOf f.trigger 6
def ActFields.pi (f : ActFields) : Nat := f.trigger % 16

/-- The kind check of R75: KIND, the reserved bits, and the ranges of TRIGGER and of ARG by kind (R43, R103, R122,
R365). -/
def kindOk (s : State) (f : ActFields) : Bool :=
  let lo := f.arg % 2 ^ 32
  let hi := f.arg / 2 ^ 32
  decide (f.trigger / 16 % 4 = 0)
    && (!f.byPos || decide (f.pi < 12 ∧ f.when' < 2 ^ 48))
    && (match f.kind with
      | 1 => decide (lo < 65536 ∧ hi = 0)
      | 2 => decide (lo % 65536 ≠ 0 ∧ lo / 65536 ≠ 0 ∧ lo % 65536 ≠ lo / 65536)
      | 3 => decide (lo < 8 ∧ hi = 0 ∧ s.get (O.MT_KIND lo) = 1)
      | 4 =>
        let op := lo / 16 % 8
        decide (hi = 0 ∧ lo / 128 % 512 = 0 ∧ lo / 4 % 4 < 3 ∧ 1 ≤ op ∧ op ≤ 4 ∧ (lo / 65536 = 0 ↔ op ≠ 4)
          ∧ relayMode s (lo % 4) = 3)
      | 5 => decide (f.arg = 0)
      | _ => false)

/-- A position trigger names an interface that is enabled (R75). -/
def trigPiOk (s : State) (f : ActFields) : Bool := !f.byPos || decide (piMode s f.pi ≠ 0)

/-- How far WHEN lies ahead: fu after the press time, or pu ahead of the interface's position in the entry's
direction. -/
def whenAhead (s : State) (f : ActFields) : Int :=
  if f.byPos then
    let d := posDiff f.when' (piPos s f.pi)
    if f.down then -d else d
  else toSigned 64 (f.when' + 2 ^ 64 - s.tick)

/-- The lead tests of R75, local and ring-wide. -/
def leadLocal (s : State) (f : ActFields) : Bool := decide (whenAhead s f ≥ if f.byPos then 65536 else 1)
def leadRing (s : State) (f : ActFields) : Bool :=
  let lead := s.get O.FJ_ACTION_LEAD
  if f.byPos then decide (65536 ≤ whenAhead s f ∧ ((s.getI (O.PI_SPEED f.pi)).natAbs * lead : Nat) ≤ whenAhead s f)
  else decide ((lead * fuUs : Nat) ≤ whenAhead s f)

/-! ### Execution (R78, R79) -/

/-- What an entry does (R43, R103, R122, R365) (DESIGN CHOICE, log 23). -/
def State.actDo (s : State) (e : Nat) (f : ActFields) : State :=
  let lo := f.arg % 2 ^ 32
  match f.kind with
  | 1 => s.jobStart (lo % 65536) (if f.byPos then some (f.pi, f.when') else none)
  | 2 => s.jobSwitch (lo % 65536) (lo / 65536) (f.arg / 2 ^ 32)
  | 3 => s.spitBurst (lo % 8)
  | 4 => s.relayOp (lo % 4) (lo / 4 % 4) (lo / 16 % 8) (lo / 65536) e
  | 5 => s.snapshot
  | _ => s

def State.actSuspend (s : State) (e : Nat) : State :=
  let ring := decide (actState s e = 5)
  let s := s.actTo e 7
  if ring then s.hit O.FJ_EVENTS B.FJ_EVENTS_ACTION_SUSPENDED 544 else s

/-- A ring-wide entry may execute (R79): the ring is intact, and WHEN, or for a position trigger the press time at which
it is reached, is at least 1 ms after FORMED_AT (DEDUCED, log 90). -/
def ringMay (s : State) (f : ActFields) : Bool :=
  let w := if f.byPos then s.tick else f.when'
  s.bit O.FJ_STATUS B.FJ_STATUS_RING_INTACT
    && decide ((fuMs : Int) ≤ toSigned 64 (w + 2 ^ 64 - s.get O.FJ_FORMED_AT))

/-- Entry `e` executes, or is suspended, when it is armed and its press time or position is reached or passed. -/
def State.actTrigger (s : State) (e : Nat) : State :=
  let f := actFields s e
  let st := actState s e
  if (st ≠ 4 ∧ st ≠ 5) ∨ 0 < whenAhead s f then s
  else if st = 5 ∧ !ringMay s f then s.actSuspend e
  else (s.actTo e 6).actDo e f

/-- ACTION_TRIGGER (R78): entry `e` is due; entries of a lower index that are due as well go first
(DESIGN CHOICE, log 23). -/
def execActionTrigger (e t : Nat) (s : State) : Host.Outcome State Fault Refusal :=
  .next ((s.adv t).forAll (List.range (e + 1)) (fun s k => s.actTrigger k)).mtSync

/-! ### Local entries (R74 to R76) -/

/-- A write to subindex 0x02 to 0x07 (R74, R75). -/
def wrActField (e sub v : Nat) (s : State) : WRes :=
  need s (actFree s e || decide (actState s e = 1)) abState <|
    .ok ((s.set ⟨.act, e, sub⟩ v).actTo e 1)

/-- ACTION_FIELD_WRITE. -/
def execActionFieldWrite (p : Path) (e sub v : Nat) (s : State) : Host.Outcome State Fault Refusal :=
  let o : Obj := ⟨.act, e, clampN 2 7 sub⟩
  access p o s (wrActField e o.sub v)

/-- COMMAND 1 (R75). -/
def State.enterLocal (s : State) (e : Nat) : WRes :=
  let f := actFields s e
  need s (decide (actState s e = 1)) abState <|
  need s (kindOk s f) abRange <|
  need s (leadLocal s f && trigPiOk s f) abState <|
    .ok ((s.actTo e 4).set (O.ACT_TICKET e) 0xFFFF)

/-- A ring has formed with a master, and is intact. -/
def ringFormed (s : State) : Bool :=
  s.bit O.FJ_STATUS B.FJ_STATUS_RING_INTACT && !s.bit O.FJ_STATUS B.FJ_STATUS_NO_MASTER

/-- An ACTION cell (Table 3.9) for entry `e`. -/
def State.sendAction (s : State) (phase ticket accept refuse cause : Nat) (f : ActFields) : State :=
  s.sendCell 5 [phase, ticket, accept, refuse, cause, f.kind, f.trigger, f.when', f.arg]

/-- COMMAND 2 (R74, R75): proposals are refused with cause 4 while the ring is broken. -/
def State.enterRing (s : State) (e : Nat) : WRes :=
  let f := actFields s e
  let locked := ringNode s && s.bit O.FJ_STATUS B.FJ_STATUS_TIME_LOCKED
  need s (decide (actState s e = 1)) abState <|
  need s (kindOk s f) abRange <|
  need (if s.ring.broken then s.set (O.ACT_RESULT e) 4 else s) (ringFormed s) abState <|
  need s (leadRing s f && trigPiOk s f && locked) abState <|
    let k := s.get O.FJ_NODE
    let tk := s.ring.ticket
    let s := s.setRing { s.ring with ticket := (tk + 1) % 256, proposed := tput s.ring.proposed e s.up }
    let s := ((s.actTo e 2).set (O.ACT_TICKET e) (k * 256 + tk)).set (O.ACT_RESULT e) 0
    .ok (s.sendAction 0 tk (2 ^ k) 0 0 f)

/-- COMMAND 3 (R76). -/
def State.actCancel (s : State) (e : Nat) : WRes :=
  let st := actState s e
  let f := actFields s e
  if st = 1 ∨ st = 4 then .ok (s.actTo e 0)
  else if st = 2 ∨ st = 3 then .no s abState
  else if st = 5 then
    if s.get (O.ACT_TICKET e) / 256 ≠ s.get O.FJ_NODE then .no s abLocal
    else if !leadRing s f then .no s abState
    else .ok ((s.actTo e 0).sendAction 3 (s.get (O.ACT_TICKET e) % 256) 0 0 0 f)
  else .ok s

/-- A write of COMMAND. -/
def wrActCommand (e v : Nat) (s : State) : WRes :=
  match v with
  | 1 => s.enterLocal e
  | 2 => s.enterRing e
  | 3 => s.actCancel e
  | _ => .no s abRange

/-- ACTION_ENTER_LOCAL. -/
def execActionEnterLocal (p : Path) (e : Nat) (s : State) : Host.Outcome State Fault Refusal :=
  access p (O.ACT_COMMAND e) s (wrActCommand e 1)

/-- ACTION_ENTER_RING. -/
def execActionEnterRing (p : Path) (e : Nat) (s : State) : Host.Outcome State Fault Refusal :=
  access p (O.ACT_COMMAND e) s (wrActCommand e 2)

/-- ACTION_CANCEL. -/
def execActionCancel (p : Path) (e : Nat) (s : State) : Host.Outcome State Fault Refusal :=
  access p (O.ACT_COMMAND e) s (wrActCommand e 3)

end Sys2Proof.Machine
end

