-- ==== Sys2Proof/Machine/Ring.lean ====
section
/-! DEFINITION. Fjozlink (chapter 3): cells, forming the ring, press time over the ring, ring-wide actions, slow requests
and fault broadcasts. -/
namespace Sys2Proof.Machine

def fjBit (s : State) (b : Nat) : Bool := s.bit O.FJ_STATUS b
def State.fjPut (s : State) (b : Nat) (v : Bool) : State := s.setB O.FJ_STATUS b v
def State.fjHit (s : State) (bit ev : Nat) (cls : Nat := 0) : State := s.hit O.FJ_EVENTS bit ev cls

/-- Cells reach the node: out of RESET, with its input up. -/
def hears (s : State) : Bool := !s.clk.inReset && fjBit s B.FJ_STATUS_IN_LINK_UP
/-- The node's own cell comes back (R62). -/
def ownCell (s : State) (src : Nat) : Bool := ringNode s && decide (src = s.get O.FJ_NODE)

/-- Forward a cell (R62, R63): a numbered node counts the hop and removes a cell that has had fifteen; a full forward
queue drops SLOW, ACTION and ELECT cells, and TIME and FAULT cells pass ahead of it (DEDUCED, log 20). -/
def State.forward (s : State) (type src hops seq : Nat) (fields : List Nat) : State :=
  if ringNode s ∧ hops = 15 then s
  else
    let s := s.ringOut s.ring.fq.length
    let waits := (s.ring.fq.filter (fun c => decide (c.prio = 3))).length
    if (type = 2 ∨ type = 5 ∨ type = 6) ∧ 8 ≤ waits then s.inc O.FJ_CELLS_DROPPED
    else s.cellPut ⟨if type = 1 ∨ type = 7 then cellPrio type else 3, s.up, 1, type,
      [src, if ringNode s then hops + 1 else hops, seq] ++ fields⟩

/-! ### Losing the ring (R64, R82, R83) -/

/-- TIME_LOCKED ends. -/
def State.lockLost (s : State) (cls : Nat := 0) : State :=
  let s := s.setRing { s.ring with row := 0, echoes := 0 }
  if fjBit s B.FJ_STATUS_TIME_LOCKED then
    (s.fjPut B.FJ_STATUS_TIME_LOCKED false).fjHit B.FJ_EVENTS_TIME_LOCK_LOST 543 cls
  else s

/-- A proposal of this node fails (Table 3.10): ABORT is sent and the entry is DRAFT again. -/
def State.proposalFails (s : State) (e cause : Nat) : State :=
  let tk := s.get (O.ACT_TICKET e) % 256
  let s := ((s.actTo e 1).set (O.ACT_RESULT e) cause).sendAction 2 tk 0 0 cause (actFields s e)
  (s.setRing { s.ring with proposed := tdel s.ring.proposed e }).fjHit B.FJ_EVENTS_ACTION_REFUSED 544

/-- The break is known (R82): ring-wide actions wait on the ring, and the master is no longer locked. -/
def State.ringBroke (s : State) : State :=
  if !fjBit s B.FJ_STATUS_RING_INTACT then (s.setRing { s.ring with broken := true })
  else
    let s := s.setRing { s.ring with broken := true, timeOut := [] }
    let s := (s.fjPut B.FJ_STATUS_RING_INTACT false).fjHit B.FJ_EVENTS_RING_BREAK 542 3
    let s := if fjBit s B.FJ_STATUS_MASTER then s.lockLost else s
    s.forAll (entries.filter (fun e => actState s e = 2)) (fun s e => s.proposalFails e 4)

/-- A FAULT cell for a ring break (R82) (DEDUCED, log 22). -/
def State.breakCell (s : State) : State :=
  if s.bit O.FJ_CONTROL B.FJ_CONTROL_FAULT_TX_EN ∧ !ringPassive s then
    s.sendCell 7 [542, 3, s.tick, detailOf O.FJ_EVENTS B.FJ_EVENTS_RING_BREAK]
  else s

/-- The input goes down (R64). -/
def State.inputDown (s : State) : State :=
  let s := s.setRing { s.ring with lockedWas := some (fjBit s B.FJ_STATUS_TIME_LOCKED), badAt := [], electing := false, formDue := false }
  let s := (s.fjPut B.FJ_STATUS_IN_LINK_UP false).fjHit B.FJ_EVENTS_LINK_DOWN 542 1
  s.breakCell.ringBroke

/-- RING_INPUT_UP (R64): 1,024 cells without an error. -/
def execRingInputUp (t : Nat) (s : State) : Host.Outcome State Fault Refusal :=
  let s := s.ringAdv t
  if s.clk.inReset ∨ fjBit s B.FJ_STATUS_IN_LINK_UP then .next s
  else
    let s := s.setRing { s.ring with upAt := s.up, badAt := [], electing := false, formDue := true }
    .next ((s.fjPut B.FJ_STATUS_IN_LINK_UP true).fjHit B.FJ_EVENTS_LINK_UP 542)

/-- RING_INPUT_DOWN (R64): no comma for 1 µs, or no clock for 100 ns. -/
def execRingInputDown (t : Nat) (s : State) : Host.Outcome State Fault Refusal :=
  let s := s.ringAdv t
  .next (if hears s then s.inputDown else s)

/-- CELL_RX_ERROR (R61, R64): a discarded cell; more than 16 in 1 ms take the input down (DEDUCED, log 20). -/
def execCellRxError (t : Nat) (s : State) : Host.Outcome State Fault Refusal :=
  let s := s.ringAdv t
  if s.clk.inReset then .next s
  else
    let s := s.inc O.FJ_CRC_ERRORS
    let s := s.setRing { s.ring with badAt := window s s.ring.badAt }
    .next (if decide (16 < s.ring.badAt.length) && hears s then s.inputDown else s)

/-! ### Forming the ring (R64 to R66, R80, R83) -/

/-- A candidate's rank (R65). -/
structure Rank where
  incumbent : Bool
  locked : Bool
  priority : Nat
  uid : Nat
  deriving DecidableEq, Repr

/-- INCUMBENT, LOCKED and priority as one number: the higher wins. -/
def Rank.weight (r : Rank) : Nat := r.incumbent.toNat * 512 + r.locked.toNat * 256 + r.priority % 256
def Rank.beats (a b : Rank) : Bool :=
  decide (b.weight < a.weight) || (decide (a.weight = b.weight) && decide (a.uid < b.uid))

def ownRank (s : State) : Rank :=
  ⟨s.ring.incumbent, s.ring.lockedWas.getD (fjBit s B.FJ_STATUS_TIME_LOCKED), s.get O.FJ_PRIORITY, s.get O.FJ_UID⟩

/-- The node stands in an election (R65). -/
def stands (s : State) : Bool :=
  !ringPassive s && decide (s.get O.FJ_UID ≠ 0) && (decide (s.get O.FJ_PRIORITY ≠ 0) || s.ring.incumbent)

/-- The node follows no master: it is not locked and steers no more (R65, R70). -/
def State.unsteer (s : State) : State :=
  ((s.lockLost.set O.CK_RATE_ADJ 0).setB O.CK_STATUS B.CK_STATUS_TIME_STEERED false).fjPut B.FJ_STATUS_RING_HOLDOVER false

/-- An election starts: the node sends its ELECT cell if it stands. Until the ring has formed with a master no node is locked
(R70) (DEDUCED, log 87). -/
def State.elect (s : State) : State :=
  let r := ownRank s
  let s := s.setRing { s.ring with
    electing := true
    formDue := false
    electAt := s.up
    heardElect := false
    enumOut := false
    lockedWas := some r.locked }
  let s := (s.lockLost.fjPut B.FJ_STATUS_MASTER false).fjPut B.FJ_STATUS_RING_INTACT false
  if stands s then s.sendCell 2 [r.uid, r.priority, r.incumbent.toNat + 2 * r.locked.toNat] else s

/-- What changes when the ring has formed, with a master or without (R66, R83). -/
def State.ringFormed' (s : State) (master size passive formedAt loop : Nat) : State :=
  let r := s.ring
  let newMaster := decide (s.get O.FJ_MASTER_UID ≠ master)
  let newRoster := r.renumbered || decide (s.get O.FJ_RING_SIZE ≠ size ∨ s.get O.FJ_PASSIVE_COUNT ≠ passive)
  let s := s.setRing { r with
    electing := false
    formDue := false
    broken := false
    enumOut := false
    incumbent := fjBit s B.FJ_STATUS_MASTER
    lockedWas := none
    renumbered := false
    formedUp := s.up }
  let s := ((s.set O.FJ_MASTER_UID master).set O.FJ_RING_SIZE size).set O.FJ_PASSIVE_COUNT passive
  let s := (s.set O.FJ_FORMED_AT formedAt).set O.FJ_LOOP_DELAY loop
  let s := s.fjPut B.FJ_STATUS_RING_INTACT true
  let s := if r.broken then s.fjHit B.FJ_EVENTS_RING_HEALED 542 else s
  let s := if newMaster then s.fjHit B.FJ_EVENTS_MASTER_CHANGED 542 else s
  if newRoster then s.fjHit B.FJ_EVENTS_ROSTER_CHANGED 542 else s

/-- The ring forms with no master (R65): no node is numbered or steered (DEDUCED, log 87). -/
def State.formNoMaster (s : State) : State :=
  let s := s.setRing { s.ring with renumbered := s.ring.renumbered || decide (s.get O.FJ_NODE ≠ 0xFF) }
  let s := (s.set O.FJ_NODE 0xFF).unsteer.fjPut B.FJ_STATUS_NO_MASTER true
  s.ringFormed' 0 0 0 (s.get O.FJ_FORMED_AT) 0

/-- ELECTION_START (R64): the input has come up and no TIME cell has arrived for 100 µs; after a break the ring forms again
whether TIME cells arrive or not (R83). In an election in which this node does not stand and for 50 µs no candidate's cell
has come, no node stands, and the ring forms with no master (R65, Table 3.5) (DEDUCED, log 87). -/
def execElectionStart (t : Nat) (s : State) : Host.Outcome State Fault Refusal :=
  let s := s.ringAdv t
  let r := s.ring
  let quiet := match r.timeAt with
    | none => true
    | some a => decide (a + 100 * fuUs ≤ s.up)
  if !hears s ∨ ringPassive s then .next s
  else if r.electing then
    .next (if stands s ∨ r.heardElect ∨ s.up < r.electAt + 50 * fuUs then s else s.formNoMaster)
  else if !r.formDue ∨ s.up < r.upAt + 100 * fuUs ∨ (!quiet ∧ !r.broken) then .next s
  else .next s.elect

/-- The node forwards as a passive node from now on: it holds no ring-wide action and is master no more (R67)
(DESIGN CHOICE, log 97). -/
def State.dropRing (s : State) : State :=
  let s := s.forAll (entries.filter (fun e => decide (actState s e = 3 ∨ actState s e = 5))) (fun s e => s.actTo e 0)
  let s := s.forAll (entries.filter (fun e => actState s e = 2)) (fun s e => (s.actTo e 1).set (O.ACT_RESULT e) 4)
  if fjBit s B.FJ_STATUS_MASTER then (s.lockLost).fjPut B.FJ_STATUS_MASTER false else s

/-- A write of FJ_CONTROL with the stored word and REFORM as written (R84); with ENABLE = 0 the node takes part no more: it
follows no master, and has no number (DESIGN CHOICE, log 97). -/
def wrFjControl (new : Nat) (reform : Bool) (s : State) : WRes :=
  let was := s.bit O.FJ_CONTROL B.FJ_CONTROL_ENABLE
  let s := s.set O.FJ_CONTROL new
  let s := if was ∧ !s.bit O.FJ_CONTROL B.FJ_CONTROL_ENABLE then
      ((s.dropRing.unsteer.set O.FJ_NODE 0xFF).fjPut B.FJ_STATUS_PASSIVE false).fjPut B.FJ_STATUS_NODE_EXCESS false
    else s
  .ok (if reform ∧ !ringPassive s then s.elect else s)

/-- REFORM (R84). -/
def execReform (p : Path) (s : State) : Host.Outcome State Fault Refusal :=
  access p O.FJ_CONTROL s (wrFjControl (s.get O.FJ_CONTROL) true)

/-- The ring has formed with a master (R66, R80, R83). A COMMIT sent again carries the ticket's proposer as its SRC
(DEDUCED, log 98). -/
def State.ringForm (s : State) (master size passive formedAt loop : Nat) : State :=
  let s := (s.ringFormed' master size passive formedAt loop).fjPut B.FJ_STATUS_NO_MASTER false
  if !ringNode s then s
  else
    s.forAll (entries.filter (fun e => decide (actState s e = 5 ∧ 0 < whenAhead s (actFields s e)))) (fun s e =>
      let tk := s.get (O.ACT_TICKET e)
      let f := actFields s e
      s.sendFor (tk / 256) 5 [1, tk % 256, 0, 0, 0, f.kind, f.trigger, f.when', f.arg])

/-- The node's number in the present form. -/
def State.numberTo (s : State) (k : Nat) (passive : Bool) : State :=
  let s := s.setRing { s.ring with electing := false, renumbered := s.ring.renumbered || decide (s.get O.FJ_NODE ≠ k) }
  let s := ((s.set O.FJ_NODE k).fjPut B.FJ_STATUS_PASSIVE passive).fjPut B.FJ_STATUS_NODE_EXCESS passive
  if passive then s.dropRing else s

/-- ELECT_CELL_RX (R65): a cell that outranks the node is forwarded, another removed; the candidate whose own cell
returns is the master and numbers the ring (R66). A node that is not electing begins an election of its own when a
candidate's cell reaches it (DEDUCED, log 87). -/
def execElectCellRx (src hops seq uid priority flags t : Nat) (s : State) : Host.Outcome State Fault Refusal :=
  let s := s.ringAdv t
  if !hears s then .next s
  else if ringPassive s then .next (s.forward 2 src hops seq [uid, priority, flags])
  else if uid = s.get O.FJ_UID ∧ stands s then
    if !s.ring.electing then .next s
    else
      let s := (s.numberTo 0 false).fjPut B.FJ_STATUS_MASTER true
      let s := ((s.fjPut B.FJ_STATUS_NO_MASTER false).fjPut B.FJ_STATUS_RING_HOLDOVER false).set O.CK_RATE_ADJ 0
      let s := s.setB O.CK_STATUS B.CK_STATUS_TIME_STEERED false
      let s := s.setRing { s.ring with enumAt := s.up, enumOut := true, sentTime := false, i := 0, acc := 0, row := 0, timeOut := [] }
      .next (s.sendCell 3 [s.get O.FJ_UID, 1, 0])
  else
    let s := if s.ring.electing then s else s.elect
    let s := s.setRing { s.ring with heardElect := true }
    let cand : Rank := ⟨bitOf flags 0, bitOf flags 1, priority, uid⟩
    .next (if !stands s || cand.beats (ownRank s) then s.forward 2 src hops seq [uid, priority, flags] else s)

/-- ENUM_CELL_RX (R66) (DEDUCED, log 88). -/
def execEnumCellRx (src hops seq master next passive t : Nat) (s : State) : Host.Outcome State Fault Refusal :=
  let s := s.ringAdv t
  if !hears s then .next s
  else if decide (s.mode = mdBoot) || !s.bit O.FJ_CONTROL B.FJ_CONTROL_ENABLE then
    .next (s.forward 3 src hops seq [master, next, passive])
  else if fjBit s B.FJ_STATUS_MASTER then
    let loop := (s.up - s.ring.enumAt) * 256
    let s := s.sendCell 4 [s.get O.FJ_UID, next, passive, s.tick, loop]
    .next (s.ringForm (s.get O.FJ_UID) next passive s.tick loop)
  else if next ≤ 15 then .next ((s.numberTo next false).forward 3 src hops seq [master, next + 1, passive])
  else
    let s := (s.numberTo 0xFF true).fjHit B.FJ_EVENTS_NODE_EXCESS 542
    .next (s.forward 3 src hops seq [master, next, passive + 1])

/-- ROSTER_CELL_RX (R66). -/
def execRosterCellRx (src hops seq master size passive formedAt loop t : Nat) (s : State) : Host.Outcome State Fault Refusal :=
  let s := s.ringAdv t
  if !hears s ∨ fjBit s B.FJ_STATUS_MASTER ∨ ownCell s src then .next s
  else
    let s := if decide (s.mode = mdBoot) || !s.bit O.FJ_CONTROL B.FJ_CONTROL_ENABLE then s
      else s.ringForm master size passive formedAt loop
    .next (s.forward 4 src hops seq [master, size, passive, formedAt, loop])

/-! ### Press time over the ring (R68 to R73) -/

/-- TIME_CELL_LAUNCH (R69): the master's TIME cell, every FJ_TIME_PERIOD once the ring has formed; it is locked from the first
of a form. -/
def execTimeCellLaunch (t : Nat) (s : State) : Host.Outcome State Fault Refusal :=
  let s := s.ringAdv t
  let early := s.ring.sentTime && decide (s.up < s.ring.timeSent + s.get O.FJ_TIME_PERIOD * fuUs)
  if s.clk.inReset ∨ !fjBit s B.FJ_STATUS_MASTER ∨ s.ring.electing ∨ s.ring.enumOut ∨ ringPassive s ∨ early then .next s
  else
    let q := s.ring.timeSeq
    let flags := (fjBit s B.FJ_STATUS_RING_INTACT).toNat + 2 * (s.bit O.CK_STATUS B.CK_STATUS_HOLDOVER).toNat
      + 4 * (s.bit O.FJ_CONTROL B.FJ_CONTROL_NO_STEP).toNat
    let first := !s.ring.sentTime
    let wait := if fjBit s B.FJ_STATUS_RING_INTACT then s.ring.timeOut ++ [(q, s.up)] else s.ring.timeOut
    let s := s.setRing { s.ring with timeSeq := (q + 1) % 65536, sentTime := true, timeSent := s.up, timeOut := wait }
    let s := s.sendCell 1 [s.pt, s.get O.FJ_HOP_DELAY, q, flags, s.get O.FJ_RING_SIZE]
    if first ∧ !fjBit s B.FJ_STATUS_TIME_LOCKED then
      let s := s.setRing { s.ring with echoes := 0 }
      .next ((s.fjPut B.FJ_STATUS_TIME_LOCKED true).fjHit B.FJ_EVENTS_TIME_LOCKED 543)
    else .next s

/-- RING_BREAK_DETECT (R82): a TIME cell has not returned within LOOP_DELAY + 2 µs. -/
def execRingBreakDetect (t : Nat) (s : State) : Host.Outcome State Fault Refusal :=
  let s := s.ringAdv t
  let late := s.ring.timeOut.any (fun p => decide (p.2 + s.get O.FJ_LOOP_DELAY / 256 + 2 * fuUs < s.up))
  if !fjBit s B.FJ_STATUS_MASTER ∨ !late then .next s else .next s.breakCell.ringBroke

/-- Steering from an offset of `e` 1/256 fu (R70). -/
def State.steer (s : State) (e : Int) : State :=
  let i := clampI (-200000) 200000 (Int.tdiv (s.ring.i * 256 + s.get O.FJ_KI * e) 256)
  let rate := clampI (-200000) 200000 (Int.tdiv (-(s.get O.FJ_KP * e + i * 256)) 256)
  (s.setRing { s.ring with i := i }).setI O.CK_RATE_ADJ rate

/-- Entries placed at a press time that a forward step of `d` fu has passed are SUSPENDED (R72). -/
def State.stepSuspend (s : State) (old : Nat) (d : Int) : State :=
  if d ≤ 0 then s
  else s.forAll (entries.filter (fun e => decide (actState s e = 4 ∨ actState s e = 5) && !(actFields s e).byPos
      && decide (0 < toSigned 64 ((actFields s e).when' + 2 ^ 64 - old))
      && decide (toSigned 64 ((actFields s e).when' + 2 ^ 64 - s.tick) < 0))) (fun s e => s.actSuspend e)

/-- At the next FIRE tick the counter steps by an offset of `e` 1/256 fu (R72); the servo starts again from i = 0, with the rate
and the tick accumulator at 0 (DEDUCED, log 99). -/
def State.timeStep (s : State) (e : Int) : State :=
  let s := s.adv ((s.up / 64 + 1) * 64)
  let old := s.tick
  let d := -(divRound e 256)
  let s := ((s.setRing { s.ring with i := 0, acc := 0, row := 0 }).set O.CK_RATE_ADJ 0).ptMove d
  let s := (s.fjPut B.FJ_STATUS_STEP_DEFERRED false).fjHit B.FJ_EVENTS_TIME_STEP 543
  (if 64 * 256 < e.natAbs then s.lockLost else s).stepSuspend old d

/-- A follower takes an offset (R70, R72): where it may not step it slews at the clamp. A clock inhibit leaves TIME_LOCKED as it
is, so TIME_VALID returns with the next lock gained (R54) (DEDUCED, log 21 and 100). -/
def State.follow (s : State) (e : Int) (noStep : Bool) : State :=
  let s := s.setSat O.FJ_OFFSET e
  let s := (s.fjPut B.FJ_STATUS_RING_HOLDOVER false).setB O.CK_STATUS B.CK_STATUS_TIME_STEERED true
  let big := decide (s.get O.FJ_STEP_LIMIT * 256 < e.natAbs)
  let wait := decide (s.mode = mdPrint) || noStep
  if big && !wait then s.timeStep e
  else
    let defer := big && decide (65536 * 256 < e.natAbs)
    let s := if defer then
        let s := s.set O.CK_RATE_ADJ 0
        if fjBit s B.FJ_STATUS_STEP_DEFERRED then s
        else (s.fjPut B.FJ_STATUS_STEP_DEFERRED true).fjHit B.FJ_EVENTS_STEP_DEFERRED 543
      else
        let s := (s.steer e).fjPut B.FJ_STATUS_STEP_DEFERRED false
        if big then s.setI O.CK_RATE_ADJ (if e < 0 then 200000 else -200000) else s
    if 64 * 256 < e.natAbs then s.lockLost
    else if 8 * 256 < e.natAbs then (s.setRing { s.ring with row := 0 })
    else
      let s := s.setRing { s.ring with row := s.ring.row + 1 }
      if 16 ≤ s.ring.row ∧ !fjBit s B.FJ_STATUS_TIME_LOCKED then
        let s := s.setRing { s.ring with echoes := 0 }
        ((s.fjPut B.FJ_STATUS_TIME_LOCKED true).setB O.CK_STATUS B.CK_STATUS_TIME_VALID true).fjHit B.FJ_EVENTS_TIME_LOCKED 543
      else s

/-- TIME_CELL_RX (R69, R70, R72): a TIME cell with T_ORIGIN in fu and CORRECTION in 1/256 fu; `arr` and `launch` are the
press times of its arrival and of its launch onward, in 1/256 fu. A node with ENABLE = 0 forwards it and does not steer
(DESIGN CHOICE, log 97). -/
def execTimeCellRx (src hops seq origin corr tseq flags size arr launch t : Nat) (s : State) : Host.Outcome State Fault Refusal :=
  let s := s.ringAdv t
  if !hears s then .next s
  else if fjBit s B.FJ_STATUS_MASTER ∨ ownCell s src then
    .next (s.setRing { s.ring with timeOut := s.ring.timeOut.filter (fun p => p.1 ≠ tseq) })
  else
    let s := s.setRing { s.ring with timeAt := some s.up }
    let part := decide (s.mode ≠ mdBoot) && s.bit O.FJ_CONTROL B.FJ_CONTROL_ENABLE
    let s := if part then
        let e := toSigned 72 (ofSigned 72 ((arr : Int) - (origin * 256 + toSigned 48 corr)))
        let s := s.follow e (bitOf flags 2)
        if !bitOf flags 0 then s.ringBroke else s
      else s
    let out := ofSigned 48 (toSigned 48 corr + ((launch : Int) - arr) + s.get O.FJ_HOP_DELAY)
    .next (s.forward 1 src hops seq [origin, out, tseq, flags, size])

/-- Ring holdover begins for a node that follows a master (R73); with no master left the node steers no more. -/
def State.holdoverEnter (s : State) : State :=
  if fjBit s B.FJ_STATUS_MASTER ∨ fjBit s B.FJ_STATUS_RING_HOLDOVER ∨ !s.bit O.CK_STATUS B.CK_STATUS_TIME_STEERED then s
  else if fjBit s B.FJ_STATUS_NO_MASTER then
    s.unsteer
  else
    let s := s.setRing { s.ring with holdAt := s.up }
    (s.fjPut B.FJ_STATUS_RING_HOLDOVER true).lockLost 1

/-- RING_HOLDOVER_ENTER (R73): no TIME cell for 2 × FJ_TIME_PERIOD + 10 µs. -/
def execRingHoldoverEnter (t : Nat) (s : State) : Host.Outcome State Fault Refusal :=
  let s := s.ringAdv t
  match s.ring.timeAt with
  | none => .next s
  | some a =>
    if s.up < a + (2 * s.get O.FJ_TIME_PERIOD + 10) * fuUs then .next s else .next s.holdoverEnter

/-- RING_HOLDOVER_EXPIRY (R73): ring holdover has lasted FJ_TIME_HOLDOVER. -/
def execRingHoldoverExpiry (t : Nat) (s : State) : Host.Outcome State Fault Refusal :=
  let s := s.ringAdv t
  if fjBit s B.FJ_STATUS_RING_HOLDOVER ∧ s.ring.holdAt + s.get O.FJ_TIME_HOLDOVER * fuUs ≤ s.up then
    .next (s.setB O.CK_STATUS B.CK_STATUS_TIME_VALID false)
  else .next s

/-! ### Echoes (R68) -/

/-- The echo period in force. -/
def echoPeriod (s : State) : Nat :=
  if fjBit s B.FJ_STATUS_TIME_LOCKED ∧ 256 ≤ s.ring.echoes then s.get O.FJ_ECHO_PERIOD else 10

/-- ECHO_LAUNCH: the output hop is out of service for four cell slots. -/
def execEchoLaunch (t : Nat) (s : State) : Host.Outcome State Fault Refusal :=
  let s := s.ringAdv t
  let due := match s.ring.echoLast with
    | none => true
    | some a => decide (a + echoPeriod s * fuUs ≤ s.up)
  if s.clk.inReset ∨ !s.bit O.FJ_CONTROL B.FJ_CONTROL_ECHO_EN ∨ s.ring.echoAt.isSome ∨ !due then .next s
  else
    let s := s.setRing { s.ring with echoAt := some (s.pt, s.up), echoLast := some s.up }
    .next (s.sendCell 8 [] 4)

/-- ECHO_CELL_RX: the return mark leaves 6,144 fu after the comma. -/
def execEchoCellRx (t : Nat) (s : State) : Host.Outcome State Fault Refusal :=
  let s := s.ringAdv t
  .next (if hears s then s.emit (.note "return mark" [s.up + 6144]) else s)

/-- ECHO_MARK_RX: the mark arrives at press time `t2`; one that comes later than t0 + 800 ns is not counted. Until 256 echoes have
been taken FJ_HOP_DELAY is the mean of those taken (DEDUCED, log 96). -/
def execEchoMarkRx (t2 t : Nat) (s : State) : Host.Outcome State Fault Refusal :=
  let s := s.ringAdv t
  match s.ring.echoAt with
  | none => .next s
  | some (t0, _) =>
    if 20480 < toSigned 64 (t2 + 2 ^ 64 - t0) then .next s
    else
    let d := (128 * (toSigned 64 (t2 + 2 ^ 64 - t0) - 6144 - Config.turn)).toNat
    let r := s.ring
    let hops := (d :: r.hops).take 256
    let s := s.setRing { r with echoAt := none, hops := hops, echoMiss := 0, echoes := r.echoes + 1 }
    if !s.bit O.FJ_CONTROL B.FJ_CONTROL_ECHO_EN then .next s
    else
      let old := s.get O.FJ_HOP_DELAY
      let s := s.set O.FJ_HOP_DELAY (divRound (hops.sum : Nat) hops.length).toNat
      let lim := 1536 * 256
      .next (if old ≤ lim ∧ lim < s.get O.FJ_HOP_DELAY then s.fjHit B.FJ_EVENTS_HOP_DELAY_RANGE 542 1 else s)

/-- The mark of an echo does not come: the eighth in a row takes the downstream input down. -/
def State.echoMissed (s : State) : State :=
  let m := s.ring.echoMiss + 1
  let s := s.setRing { s.ring with echoAt := none, echoMiss := m }
  if m = 8 then s.emit (.note "downstream input down" []) else s

/-- ECHO_TIMEOUT: no mark by 800 ns after the launch; eight in a row take the downstream input down. -/
def execEchoTimeout (t : Nat) (s : State) : Host.Outcome State Fault Refusal :=
  let s := s.ringAdv t
  match s.ring.echoAt with
  | none => .next s
  | some (_, u) =>
    if s.up < u + 20480 then .next s
    else .next s.echoMissed

/-! ### Ring-wide actions (R74 to R80) -/

/-- The entry that holds a ticket in one of some states. -/
def ticketEntry (s : State) (src ticket : Nat) (sts : List Nat) : Option Nat :=
  entries.find? (fun e => decide (actState s e ∈ sts) && decide (s.get (O.ACT_TICKET e) = src * 256 + ticket))

/-- The refusal cause of the node's checks on a proposal (R75, Table 3.11): of several that fail, the first in the order of R75
(DEDUCED, log 98). -/
def proposalCause (s : State) (f : ActFields) : Option Nat :=
  if (nextFree s).isNone then some 1
  else if !leadRing s f then some 2
  else if !kindOk s f || !trigPiOk s f then some 3
  else if !fjBit s B.FJ_STATUS_TIME_LOCKED then some 6
  else none

/-- ACTION_CELL_RX: PHASE 0 PROPOSE, 1 COMMIT, 2 ABORT, 3 WITHDRAW. -/
def execActionCellRx (src hops seq phase ticket accept refuse cause kind trigger when' arg t : Nat) (s : State) :
    Host.Outcome State Fault Refusal :=
  let s := s.ringAdv t
  let f : ActFields := ⟨kind, trigger, when', arg⟩
  let onward := fun (s : State) a r c => s.forward 5 src hops seq [phase, ticket, a, r, c, kind, trigger, when', arg]
  if !hears s then .next s
  else if !ringNode s then .next (onward s accept refuse cause)
  else if ownCell s src then
    match phase, ticketEntry s src ticket [2] with
    | 0, some e =>
      if refuse = 0 then
        let s := s.setRing { s.ring with proposed := tdel s.ring.proposed e }
        .next ((s.actTo e 5).sendAction 1 ticket 0 0 0 f)
      else .next (s.proposalFails e cause)
    | _, _ => .next s
  else
    let me := 2 ^ s.get O.FJ_NODE
    match phase with
    | 0 =>
      match proposalCause s f, nextFree s with
      | none, some e =>
        let s := ((s.set (O.ACT_KIND e) kind).set (O.ACT_TRIGGER e) trigger).set (O.ACT_WHEN_LO e) when'
        let s := ((s.set (O.ACT_WHEN_HI e) (when' / 2 ^ 32)).set (O.ACT_ARG_LO e) arg).set (O.ACT_ARG_HI e) (arg / 2 ^ 32)
        let s := (s.actTo e 3).set (O.ACT_TICKET e) (src * 256 + ticket)
        let s := s.setRing { s.ring with reserved := tput s.ring.reserved e s.up }
        .next (onward s (orW accept me) refuse cause)
      | c, _ => .next (onward s accept (orW refuse me) (if cause = 0 then c.getD 1 else cause))
    | 1 => .next (onward (match ticketEntry s src ticket [3] with
        | some e => s.actTo e 5
        | none => s) accept refuse cause)
    | 2 => .next (onward (match ticketEntry s src ticket [3] with
        | some e => s.actTo e 0
        | none => s) accept refuse cause)
    | 3 => .next (onward (match ticketEntry s src ticket [3, 5] with
        | some e => s.actTo e 0
        | none => s) accept refuse cause)
    | _ => .next (onward s accept refuse cause)

/-- PROPOSE_TIMEOUT (R74): the proposal has not returned in 100 µs. -/
def execProposeTimeout (e t : Nat) (s : State) : Host.Outcome State Fault Refusal :=
  let s := s.ringAdv t
  if actState s e = 2 ∧ tget 0 s.ring.proposed e + 100 * fuUs ≤ s.up then .next (s.proposalFails e 5) else .next s

/-- RESERVED_EXPIRY (R80): 1 ms after a ring forms with no COMMIT, an entry reserved before that form is freed. -/
def execReservedExpiry (e t : Nat) (s : State) : Host.Outcome State Fault Refusal :=
  let s := s.ringAdv t
  if actState s e = 3 ∧ fjBit s B.FJ_STATUS_RING_INTACT ∧ s.ring.formedUp + fuMs ≤ s.up
      ∧ tget 0 s.ring.reserved e < s.ring.formedUp then .next (s.actTo e 0)
  else .next s

/-! ### Slow requests and fault broadcasts (R81, R82) -/

/-- Bit `k` of FJ_SLOW_RX. -/
def State.slowRx (s : State) (k : Nat) (on : Bool) : State :=
  let s := s.set O.FJ_SLOW_RX (putBit (s.get O.FJ_SLOW_RX) k on)
  (s.fjPut B.FJ_STATUS_SLOW_RING (decide (s.get O.FJ_SLOW_RX ≠ 0))).slowSync

/-- SLOW_CELL_RX. -/
def execSlowCellRx (src hops seq : Nat) (assert : Bool) (source unit raised t : Nat) (s : State) : Host.Outcome State Fault Refusal :=
  let s := s.ringAdv t
  let fields := [assert.toNat, source, unit, raised]
  if !hears s ∨ ownCell s src then .next s
  else if !ringNode s then .next (s.forward 6 src hops seq fields)
  else
    let s := s.setRing { s.ring with slowAt := tput s.ring.slowAt (src % 16) s.up }
    .next ((s.slowRx (src % 16) assert).forward 6 src hops seq fields)

/-- SLOW_RX_EXPIRY: 500 µs after the last repeat. -/
def execSlowRxExpiry (k t : Nat) (s : State) : Host.Outcome State Fault Refusal :=
  let s := s.ringAdv t
  if s.bit O.FJ_SLOW_RX k ∧ tget 0 s.ring.slowAt k + 500 * fuUs ≤ s.up then .next (s.slowRx k false) else .next s

/-- SLOW_CELL_REPEAT: every 100 µs while a request of the node's own stands. -/
def execSlowCellRepeat (t : Nat) (s : State) : Host.Outcome State Fault Refusal :=
  let s := s.ringAdv t
  match s.slow.standing with
  | [] => .next s
  | p :: _ => .next (if s.ring.slowSent + 100 * fuUs ≤ s.up then s.slowCell true p else s)

/-- The action FJ_FAULT_ACTION gives a class. -/
def faultAction (s : State) (cls : Nat) : Nat := s.get O.FJ_FAULT_ACTION / 4 ^ cls % 4

/-- FAULT_CELL_RX (R82) (DEDUCED, log 89). -/
def execFaultCellRx (src hops seq ev cls raised detail t : Nat) (s : State) : Host.Outcome State Fault Refusal :=
  let s := s.ringAdv t
  let fields := [ev, cls, raised, detail]
  if !hears s ∨ ownCell s src then .next s
  else if !ringNode s then .next (s.forward 7 src hops seq fields)
  else
    let a := faultAction s (cls % 4)
    let s := if a = 0 then s.setB O.FJ_EVENTS B.FJ_EVENTS_FAULT_RX true else s.fjHit B.FJ_EVENTS_FAULT_RX 545
    let src' := s.get O.MD_INHIBIT_STATUS
    let s := if a = 2 then s.inhibitWith (putBit src' B.MD_INHIBIT_STATUS_RING_FIRE true)
      else if a = 3 then
        s.inhibitWith (putBit (putBit src' B.MD_INHIBIT_STATUS_RING_FIRE true) B.MD_INHIBIT_STATUS_RING_MOTION true)
      else s
    .next ((if cls = 3 then s.ringBroke else s).forward 7 src hops seq fields)

end Sys2Proof.Machine
end

