-- ==== Sys2Proof/Machine/Supply.lean ====
section
/-! DEFINITION. Supply monitors (R476 to R486) and die temperature (R487, R488). -/
namespace Sys2Proof.Machine

def suBit (s : State) (b : Nat) : Bool := s.bit O.SU_STATUS b
def State.suPut (s : State) (b : Nat) (v : Bool) : State := s.setB O.SU_STATUS b v
def State.suHit (s : State) (bit : Nat) (cls : Nat := 0) : State := s.hit O.SU_EVENTS bit 571 cls
/-- The bits of SU_STATUS of input i: LOW and HIGH (Table 18.14). -/
def lowBit (i : Nat) : Nat := 8 + i
def highBit (i : Nat) : Nat := 16 + i

/-- The eight inputs, and the seven that watch other rails. -/
def susInputs : List Nat := List.range 8
def rails : List Nat := [1, 2, 3, 4, 5, 6, 7]
/-- DEDUCED, log 128. -/
def susOn (s : State) (i : Nat) (bit : Nat) : Bool := s.bit (O.SU_CONFIG i) bit

/-! ### Curfew (R479) -/

/-- A condition of curfew stands, the hold apart. -/
def curfewCond (s : State) : Bool := s.supply.warn || rails.any (fun i => susOn s i 1 && suBit s (lowBit i))

/-- Curfew begins: writers stop before their next command (R480, Table 18.7); each host program or erase that the flash has
not begun is deferred. -/
def State.curfewBegin (s : State) : State :=
  let s := ((s.suPut B.SU_STATUS_CURFEW true).suHit B.SU_EVENTS_CURFEW).storeCurfew
  let s := (s.flash.waiting.filter (fun c => c.op ≠ 1)).foldl (fun s _ => s.deferred) s
  s.forAll ports (fun s n =>
    let k := s.link n
    if k.waiting.any (fun c => decide (c.use = 5)) then
      ((s.setLink n { k with waiting := k.waiting.filter (fun c => c.use ≠ 5) }).recStop n).deferred
    else s)

/-- Curfew follows its conditions: it starts with one, and the hold starts when the last has ended. -/
def State.curfewSync (s : State) : State :=
  if curfewCond s then
    let s := (s.setSupply { s.supply with holdFrom := none }).suPut B.SU_STATUS_CURFEW_HOLD false
    if curfew s then s else s.curfewBegin
  else if curfew s ∧ s.supply.holdFrom.isNone then
    (s.setSupply { s.supply with holdFrom := some s.up }).suPut B.SU_STATUS_CURFEW_HOLD true
  else s

/-- The hold runs out (R479). -/
def State.curfewEnd (s : State) : State :=
  let s := (s.setSupply { s.supply with holdFrom := none }).suPut B.SU_STATUS_CURFEW_HOLD false
  (s.suPut B.SU_STATUS_CURFEW false).suHit B.SU_EVENTS_CURFEW_END

/-- The hold has run SU_CURFEW_HOLD ms. -/
def holdOver (s : State) : Bool :=
  match s.supply.holdFrom with
  | some a => !s.clk.inReset && curfew s && decide (a + s.get O.SU_CURFEW_HOLD * fuMs ≤ s.up)
  | none => false

/-! ### The comparators of SUS0 (R477, R481) -/

/-- BUS_WARN_TRIP (R477, R481): a dip begins. In RESET only the comparator itself runs. -/
def execBusWarnTrip (t : Nat) (s : State) : Host.Outcome State Fault Refusal :=
  let s := s.adv t
  if s.supply.warn then .next s
  else
    let s := s.setSupply { s.supply with warn := true, dipAt := s.up }
    if s.clk.inReset then .next s
    else
      let s := (s.suPut (lowBit 0) true).suPut B.SU_STATUS_DIP true
      .next (s.set O.SU_DIP_DEPTH (s.get (O.SU_V 0))).curfewSync

/-- BUS_WARN_RELEASE (R477, R481): the dip ends. -/
def execBusWarnRelease (t : Nat) (s : State) : Host.Outcome State Fault Refusal :=
  let s := s.adv t
  if !s.supply.warn then .next s
  else
    let s := s.setSupply { s.supply with warn := false, relAt := s.up }
    if s.clk.inReset then .next s
    else
      let us := (divRound (s.up - s.supply.dipAt : Nat) fuUs).toNat
      let sag := suBit s B.SU_STATUS_SAG
      let s := (s.set O.SU_DIP_TIME us).suHit B.SU_EVENTS_DIP_END
      let s := if sag then s else s.inc O.SU_DIPS
      let s := s.journal 2 (jdata [(0, s.get O.SU_DIP_DEPTH), (2, us % 2 ^ 32), (6, sag.toNat)])
      let s := (s.suPut (lowBit 0) false).suPut B.SU_STATUS_DIP false
      .next (s.suPut B.SU_STATUS_SAG false).curfewSync

/-- SAG_TIMEOUT (R481): the dip has lasted SU_SAG_TIME ms. -/
def execSagTimeout (t : Nat) (s : State) : Host.Outcome State Fault Refusal :=
  let s := s.adv t
  if suBit s B.SU_STATUS_DIP ∧ !suBit s B.SU_STATUS_SAG ∧ s.supply.dipAt + s.get O.SU_SAG_TIME * fuMs ≤ s.up then
    .next (((s.suPut B.SU_STATUS_SAG true).suHit B.SU_EVENTS_SAG 1).inc O.SU_SAGS)
  else .next s

/-- BUS_RESET_TRIP (R477): a reset event with cause SUPPLY. -/
def execBusResetTrip (t : Nat) (s : State) : Host.Outcome State Fault Refusal := .next ((s.adv t).resetEvent 3)

/-! ### Conversions (R478) -/

/-- SU_PERIOD has passed since the last request of an input (R478). -/
def supplyDue (s : State) (i : Nat) : Bool :=
  !s.supply.dueAt.any (fun p => decide (p.1 = i ∧ s.up < p.2 + s.get O.SU_PERIOD * fuUs))

/-- SUPPLY_CONVERSION_DUE (R478): a request not yet granted makes way for the new one. -/
def execSupplyConversionDue (i t : Nat) (s : State) : Host.Outcome State Fault Refusal :=
  let s := s.adv t
  if s.clk.inReset ∨ s.mode = mdBoot ∨ 8 ≤ i ∨ !susOn s i 0 ∨ !supplyDue s i then .next s
  else
    let s := s.setSupply { s.supply with dueAt := tput s.supply.dueAt i s.up }
    let s := s.senseWithdraw (fun r => decide (r.what = .supply ∧ r.inst = i))
    .next (s.senseAsk { cls := 1, inst := i, what := .supply, input := 0x68 + i, entered := senseCycle s })

/-- The supply-high inhibit (R484) stands while a surge or a HIGH condition stands on an input with HIGH_INHIBIT
(DEDUCED, log 128). -/
def highCond (s : State) : Bool := susInputs.any (fun i => susOn s i 2 && suBit s (highBit i))
/-- DEDUCED, log 128. -/
def State.highSync (s : State) : State :=
  if highCond s then (s.setSupply { s.supply with highEnd := s.up }).inhibitSrc B.MD_INHIBIT_STATUS_SUPPLY_HIGH true else s

/-- SUPPLY_HIGH_RELEASE (R484): 10 ms after the last high condition. -/
def execSupplyHighRelease (t : Nat) (s : State) : Host.Outcome State Fault Refusal :=
  let s := s.adv t
  if s.bit O.MD_INHIBIT_STATUS B.MD_INHIBIT_STATUS_SUPPLY_HIGH ∧ !highCond s ∧ s.supply.highEnd + 10 * fuMs ≤ s.up then
    .next (s.inhibitSrc B.MD_INHIBIT_STATUS_SUPPLY_HIGH false)
  else .next s

/-- The mean of SU_V[0] in 1/65,536 mV with weight 1/65,536 (R486); it starts from the first conversion
(DEDUCED, log 71). -/
def meanNext (m : Option Int) (v : Int) : Int :=
  match m with
  | none => v * 65536
  | some x => x + v - divRound x 65536

/-- Mean and drift (R486) (DEDUCED, log 71). -/
def State.drift (s : State) (v : Int) : State :=
  let m := meanNext s.supply.mean v
  let s := (s.setSupply { s.supply with mean := some m }).setI O.SU_BUS_MEAN (divRound m 65536)
  let d := (s.getI O.SU_BUS_MEAN - s.getI O.SU_BUS_NOM).natAbs
  let lim := s.get O.SU_DRIFT_LIMIT
  let was := suBit s B.SU_STATUS_DRIFT
  let now := if was then decide (3 * lim < 4 * d) else decide (lim < d)
  if now = was then s
  else ((s.suPut B.SU_STATUS_DRIFT now).suHit B.SU_EVENTS_DRIFT (if now then 1 else 0)).journal 4
    (jdata [(0, s.get O.SU_BUS_MEAN), (2, now.toNat)])

/-- Surges (R483, R484) (DEDUCED, log 128). -/
def State.surge (s : State) (v : Int) : State :=
  let x := s.supply
  let high := s.getI (O.SU_HIGH 0)
  let n := if high < v then x.beyond + 1 else 0
  if suBit s (highBit 0) then
    let s := s.setSupply { x with surgeMax := max x.surgeMax v, highEnd := if susOn s 0 2 then s.up else x.highEnd }
    if v < high - s.get O.SU_HYST then
      let us := (divRound (s.up - x.surgeAt : Nat) fuUs).toNat
      let s := s.setSupply { s.supply with beyond := 0 }
      (s.suPut (highBit 0) false).journal 3 (jdata [(0, ofSigned 16 x.surgeMax), (2, us % 2 ^ 32)])
    else s
  else
    let s := s.setSupply { x with beyond := n }
    if 2 ≤ n then
      let s := s.setSupply { s.supply with surgeAt := s.up, surgeMax := v }
      (((s.suPut (highBit 0) true).suHit B.SU_EVENTS_SURGE 1).inc O.SU_SURGES).highSync
    else s

/-- A conversion of the bus input. -/
def State.busResult (s : State) (v : Int) : State :=
  let s := if v < s.getI O.SU_BUS_MIN then s.setI O.SU_BUS_MIN v else s
  let s := if s.getI O.SU_BUS_MAX < v then s.setI O.SU_BUS_MAX v else s
  let s := if suBit s B.SU_STATUS_DIP ∧ (s.get O.SU_DIP_DEPTH = 0x8000 ∨ v < s.getI O.SU_DIP_DEPTH) then s.setI O.SU_DIP_DEPTH v else s
  (s.surge v).drift v

/-- Counts of conversions in a row toward and away from a threshold: 2 are needed. -/
def twice (on : Bool) (toward away nIn nOut : Nat) (isIn isOut : Bool) : Bool × Nat × Nat :=
  if on then
    let n := if isOut then nOut + 1 else 0
    if away ≤ n then (false, 0, 0) else (true, 0, n)
  else
    let n := if isIn then nIn + 1 else 0
    if toward ≤ n then (true, 0, 0) else (false, n, 0)

/-- A change of LOW (0) or HIGH (1) of an input (R486). -/
def State.railChange (s : State) (i kind : Nat) (on : Bool) (v : Int) : State :=
  let bit := if kind = 0 then lowBit i else highBit i
  if suBit s bit = on then s
  else ((s.suPut bit on).suHit B.SU_EVENTS_RAIL (if on then 1 else 0)).journal 5
    (jdata [(0, i), (1, kind), (2, on.toNat), (4, ofSigned 16 v)])

/-- A conversion of another rail (R486). -/
def State.railResult (s : State) (i : Nat) (v : Int) : State :=
  let r := tget {} s.supply.rails i
  let low := s.getI (O.SU_LOW i)
  let high := s.getI (O.SU_HIGH i)
  let hyst : Int := s.get O.SU_HYST
  let a := twice (suBit s (lowBit i)) 2 2 r.low r.lowOff (decide (low ≠ 0 ∧ v < low)) (decide (low + hyst < v))
  let b := twice (suBit s (highBit i)) 2 2 r.high r.highOff (decide (high < v)) (decide (v < high - hyst))
  let r := { low := a.2.1, lowOff := a.2.2, high := b.2.1, highOff := b.2.2 }
  let s := s.setSupply { s.supply with
    rails := tput s.supply.rails i r
    highEnd := if suBit s (highBit i) ∧ susOn s i 2 then s.up else s.supply.highEnd }
  (((s.railChange i 0 a.1 v).railChange i 1 b.1 v).curfewSync).highSync

/-- A valid conversion of an input in 1/16 mV (R478). -/
def State.supplyResult (s : State) (i u : Nat) : State :=
  let v := clampI (-32768) 32767 (divRound ((u * s.get (O.SU_GAIN i) : Nat) : Int) (16 * 65536))
  let s := s.setI (O.SU_V i) v
  if i = 0 then s.busResult v else s.railResult i v

/-! ### SU_CONTROL (R485, R498) -/

/-- A write of SU_CONTROL: bit 0 CLR_STATS, bit 1 CLR_PG_OV; the other bits have no effect. -/
def wrSuControl (v : Nat) (s : State) : WRes :=
  need s (!(bitOf v 1 && decide (s.mode = mdPrint))) abState <|
    let s := if bitOf v 0 then (s.set O.SU_BUS_MIN 32767).setI O.SU_BUS_MAX (-32768) else s
    .ok (if bitOf v 1 then
        ((s.setF O.SU_STATUS B.SU_STATUS_PG_OV 0).forAll groups (fun s g => s.setPg g { s.pg g with beyond := 0 })).pgSyncAll
      else s)

/-- SU_CLR_STATS (R498): a write of SU_CONTROL with CLR_STATS set. -/
def execSuClrStats (p : Path) (v : Nat) (s : State) : Host.Outcome State Fault Refusal :=
  access p O.SU_CONTROL s (wrSuControl (putBit v 0 true))

/-- CLR_PG_OV (R485): a write of SU_CONTROL with CLR_PG_OV set. -/
def execClrPgOv (p : Path) (v : Nat) (s : State) : Host.Outcome State Fault Refusal :=
  access p O.SU_CONTROL s (wrSuControl (putBit v 1 true))

/-! ### Die temperature (R487, R488) -/

/-- The die counts as at or above TH_SHUTDOWN: 0x8000 does so once a valid reading has been taken. -/
def dieOver (s : State) : Bool :=
  let t := s.get O.SB_DIE_TEMP
  if t = 0x8000 then s.bit O.TH_STATUS 2 else decide (s.getI O.TH_SHUTDOWN ≤ s.getI O.SB_DIE_TEMP)

/-- TH_STATUS.ABOVE_THROTTLE. -/
def State.throttleSync (s : State) : State := (s.setB O.TH_STATUS 0 (dieHot s)).pauseSync

/-- Die shutdown (R487): firing and motion are inhibited until CLR_SHUTDOWN. -/
def State.dieShut (s : State) : State :=
  if s.bit O.TH_STATUS 1 then s
  else
    let s := ((s.setB O.TH_STATUS 1 true).hit O.TH_EVENTS 0 572 1).inc O.TH_SHUTDOWNS
    (s.journal 7 (jdata [(0, 0), (2, s.get O.SB_DIE_TEMP)])).inhibitSrc B.MD_INHIBIT_STATUS_THERMAL true

/-- A die reading has been taken into SB_DIE_TEMP; `valid`: some sensor was. -/
def State.dieTaken (s : State) (valid : Bool) : State :=
  let s := if valid then
      let s := s.setB O.TH_STATUS 2 true
      let s := if s.get O.TH_DIE_MAX = 0x8000 ∨ s.getI O.TH_DIE_MAX < s.getI O.SB_DIE_TEMP then s.set O.TH_DIE_MAX (s.get O.SB_DIE_TEMP) else s
      if s.bk.tripped then (s.setBk { s.bk with tripped := false }).hit O.TH_EVENTS 2 572 1 else s
    else s
  let s := s.throttleSync
  if dieOver s then s.dieShut else s

/-- A write of TH_CONTROL: bit 0 CLR_SHUTDOWN, bit 1 CLR_DIE_MAX; the other bits have no effect. -/
def wrThControl (v : Nat) (s : State) : WRes :=
  need s (!bitOf v 0 || dieCool s) abState <|
    let s := if bitOf v 1 then s.set O.TH_DIE_MAX 0x8000 else s
    .ok (if bitOf v 0 ∧ s.bit O.TH_STATUS 1 then
        let s := (s.setB O.TH_STATUS 1 false).hit O.TH_EVENTS 1 572
        (s.journal 7 (jdata [(0, 1), (2, s.get O.SB_DIE_TEMP)])).inhibitSrc B.MD_INHIBIT_STATUS_THERMAL false
      else s)

/-- CLR_SHUTDOWN (R487): a write of TH_CONTROL with CLR_SHUTDOWN set. -/
def execClrShutdown (p : Path) (v : Nat) (s : State) : Host.Outcome State Fault Refusal :=
  access p O.TH_CONTROL s (wrThControl (putBit v 0 true))

/-- CLR_DIE_MAX (R498): a write of TH_CONTROL with CLR_DIE_MAX set. -/
def execClrDieMax (p : Path) (v : Nat) (s : State) : Host.Outcome State Fault Refusal :=
  access p O.TH_CONTROL s (wrThControl (putBit v 1 true))

/-- DIE_TRIP (R488): the reset event THERMAL_TRIP; while it stands no further trip is counted. -/
def execDieTrip (t : Nat) (s : State) : Host.Outcome State Fault Refusal :=
  let s := s.adv t
  if s.clk.inReset ∧ s.modes.causes.contains 6 then .next s
  else
    let temp := s.get O.SB_DIE_TEMP
    let s := ((s.resetEvent 6).journal 7 (jdata [(0, 2), (2, temp)])).inc O.TH_TRIPS
    .next (s.setBk { s.bk with tripped := true })

end Sys2Proof.Machine
end

