-- ==== Sys2Proof/Machine/Backup.lean ====
section
/-! DEFINITION. The backup domain (R489 to R496): its supply, the real-time clock, alarms, the fault journal, the cell,
its charger and its gauge. -/
namespace Sys2Proof.Machine

def bkBit (s : State) (b : Nat) : Bool := s.bit O.BK_STATUS b
def State.bkPut (s : State) (b : Nat) (v : Bool) : State := s.setB O.BK_STATUS b v

/-- An occurrence of an event of the backup domain: while the core has no power or is in RESET, the latched bit alone
records it, and EV574 is raised at the next BOOT exit (R491). -/
def State.bkHit (s : State) (bit : Nat) (cls : Nat := 0) : State :=
  if s.clk.inReset ∨ s.bk.onBattery then
    (s.setB O.BK_EVENTS bit true).setBk { s.bk with latched := tput s.bk.latched bit (max cls (tget 0 s.bk.latched bit)) }
  else s.hit O.BK_EVENTS bit 574 cls

/-- EV574 for each bit latched without power (R491). -/
def State.bkLatched (s : State) : State :=
  (s.bk.latched.foldl (fun s b => s.raise 574 b.2 (detailOf O.BK_EVENTS b.1)) s).setBk { s.bk with latched := [] }

/-- An alarm (R491): 0 RTC_ALARM, 1 LOW, 2 EMPTY; with its WAKE_EN bit set WAKE is driven high. -/
def State.bkAlarm (s : State) (k : Nat) : State :=
  let s := (s.journal 0xB (jdata [(0, k), (2, s.get O.BK_VBAT)])).bkHit k
  if s.bit O.BK_CONTROL (8 + k) then (s.bkPut B.BK_STATUS_WAKE true).emit (.note "WAKE" [1]) else s

/-! ### Cell, charger and gauge (R493 to R496) -/

def chargerState (s : State) : Nat := s.fld O.BK_STATUS B.BK_STATUS_CHARGER
def State.charger (s : State) (st : Nat) : State := s.setF O.BK_STATUS B.BK_STATUS_CHARGER st
def cellType (s : State) : Nat := s.get O.BK_CHG_CONFIG % 4
def State.chgJournal (s : State) (k : Nat) : State := s.journal 0xC (jdata [(0, k), (2, s.get O.BK_VBAT)])

/-- One µAh in nA times fu. -/
def gaugeUnit : Int := 1000 * 3600 * 25600000000

/-- The gauge runs up to now (R496): the charger's measured current in, BK_DRAIN out while on VBAT
(DEDUCED, log 73). -/
def State.gaugeRun (s : State) : State :=
  let dt : Int := s.up - s.bk.gaugeAt
  let na : Int := (if s.bk.onBattery then -(s.get O.BK_DRAIN : Int) else 0) + 1000 * s.bk.chgI
  let sum := s.bk.gaugeRem + na * dt
  let cap : Int := s.get O.BK_CAP
  let s := s.setBk { s.bk with gaugeAt := s.up, gaugeRem := if cap = 0 then 0 else Int.emod sum gaugeUnit }
  if cap = 0 then s
  else
    let g := s.getI O.BK_GAUGE + Int.ediv sum gaugeUnit
    if g < 0 then (s.set O.BK_GAUGE 0).setBk { s.bk with gaugeRem := 0 }
    else if cap ≤ g then (s.setI O.BK_GAUGE cap).setBk { s.bk with gaugeRem := 0 }
    else s.setI O.BK_GAUGE g

/-- Journal entry of kind GAUGE. -/
def State.gaugeJournal (s : State) (learned : Bool) : State :=
  s.journal 0xD (jdata [(0, learned.toNat), (2, s.get O.BK_VBAT), (4, s.get O.BK_GAUGE)])

/-- The gauge is marked unlearned (R496). -/
def State.unlearn (s : State) : State :=
  if bkBit s B.BK_STATUS_UNLEARNED then s
  else ((s.bkPut B.BK_STATUS_UNLEARNED true).gaugeJournal false).bkHit B.BK_EVENTS_GAUGE_UNLEARNED

/-- A charge starts when the cell can be charged, main power is present and no charge runs (R494). -/
def State.chgStart (s : State) : State :=
  if s.bk.onBattery ∨ cellType s = 0 ∨ s.bk.chgStopped ∨ chargerState s ≠ 0 then s
  else
    let hold := decide (s.get O.BK_VBAT ≠ 0x8000 ∧ s.getI O.BK_CHG_V ≤ s.getI O.BK_VBAT)
    ((s.charger (if hold then 2 else 1)).setBk { s.bk with chgStartAt := s.up }).chgJournal 0

/-- The charger follows TYPE and main power (R494). -/
def State.chgSync (s : State) : State :=
  if s.bk.onBattery ∨ cellType s = 0 then (s.charger 0).setBk { s.bk with chgI := 0 } else s.chgStart

/-- The cell has been removed (R495). -/
def State.cellGone (s : State) : State :=
  let s := ((s.charger 0).setBk { s.bk with chgStopped := true, chgI := 0 }).bkPut B.BK_STATUS_CELL_ABSENT true
  ((s.chgJournal 2).bkHit B.BK_EVENTS_CELL_REMOVED 1).unlearn

/-- LOW or EMPTY after a reading (R496): set after two below the threshold, cleared above it by 100 mV. -/
def State.cellAlarm (s : State) (bit k n : Nat) (v lim : Int) : State :=
  if bkBit s bit then (if lim + 100 < v then s.bkPut bit false else s)
  else if 2 ≤ n then (s.bkPut bit true).bkAlarm k else s

/-- A reading of VBAT is due: 10 ms after the last while main power is present, 60 s on VBAT (R493). -/
def vbatDue (s : State) : Bool := s.bk.vbatAt.all (fun a => decide (a + (if s.bk.onBattery then 60 * fuS else 10 * fuMs) ≤ s.up))

/-- The current of the voltage hold stays below a tenth of BK_CHG_I, or no longer does (R494). -/
def State.chargeLow (s : State) : State :=
  let low := decide (chargerState s = 2 ∧ 10 * s.bk.chgI < s.get O.BK_CHG_I)
  s.setBk { s.bk with lowSince := if low then s.bk.lowSince.orElse (fun _ => some s.up) else none }

/-- VBAT_MEASURE (R493, R496): a reading of VBAT in mV, with the charger's measured current in µA since the last. -/
def execVbatMeasure (mv ua t : Nat) (s : State) : Host.Outcome State Fault Refusal :=
  let s := s.adv t
  if !vbatDue s then .next s
  else
  let s := s.setBk { s.bk with vbatAt := some s.up }
  let drives := decide (chargerState s = 1 ∨ chargerState s = 2)
  let s := (s.setBk { s.bk with chgI := if drives then ua else 0 }).gaugeRun
  let s := s.set O.BK_VBAT (min mv 32767)
  let v := s.getI O.BK_VBAT
  let lo := if v < s.getI O.BK_V_LOW then s.bk.belowLow + 1 else 0
  let em := if v < s.getI O.BK_V_EMPTY then s.bk.belowEmpty + 1 else 0
  let s := s.setBk { s.bk with belowLow := lo, belowEmpty := em }
  let s := s.cellAlarm B.BK_STATUS_LOW 1 lo v (s.getI O.BK_V_LOW)
  let s := s.cellAlarm B.BK_STATUS_EMPTY 2 em v (s.getI O.BK_V_EMPTY)
  let st := chargerState s
  let s :=
    if st = 1 ∧ s.getI O.BK_CHG_V ≤ v then s.charger 2
    else if st = 3 ∧ cellType s = 1 ∧ v < s.getI O.BK_CHG_V - 100 then (s.charger 0).chgStart
    else s.chgStart
  let s := s.chargeLow
  let cap := s.get O.BK_CAP
  let high := decide (s.getI O.BK_V_LOW + 100 ≤ v)
  .next (if cap ≠ 0 ∧ ((s.get O.BK_GAUGE = 0 ∧ high) ∨ (cap ≤ 5 * s.get O.BK_GAUGE ∧ bkBit s B.BK_STATUS_LOW)) then s.unlearn else s)

/-- The measured current has stayed low in the voltage hold: of a rechargeable cell for 60 s (R494)
(DEDUCED, log 118). -/
def chargeFull (s : State) : Bool :=
  decide (chargerState s = 2) && s.bk.lowSince.any (fun a => decide (a + (if cellType s = 1 then 60 * fuS else 0) ≤ s.up))

/-- CHARGE_FULL (R494, R496): the current has stayed low in the voltage hold. -/
def execChargeFull (t : Nat) (s : State) : Host.Outcome State Fault Refusal :=
  let s := s.adv t
  if !chargeFull s then .next s
  else
    let s := s.gaugeRun
    let s := (((s.charger 3).setBk { s.bk with chgI := 0 }).chgJournal 1).bkHit B.BK_EVENTS_CHG_FULL
    if s.get O.BK_CAP = 0 then .next s
    else
      let s := (s.set O.BK_GAUGE (s.get O.BK_CAP)).setBk { s.bk with gaugeRem := 0 }
      .next (if bkBit s B.BK_STATUS_UNLEARNED then (s.bkPut B.BK_STATUS_UNLEARNED false).gaugeJournal true else s)

/-- A charge has lasted too long. -/
def State.chargeLate (s : State) : State :=
  let st := chargerState s
  if st = 1 ∨ st = 2 then
    let s := (s.gaugeRun.charger 0).setBk { s.gaugeRun.bk with chgStopped := true, chgI := 0 }
    (s.chgJournal 3).bkHit B.BK_EVENTS_CHG_FAULT 1
  else s

/-- CHARGE_TIMEOUT (R494): no FULL within BK_CHG_TIMEOUT hours. -/
def execChargeTimeout (t : Nat) (s : State) : Host.Outcome State Fault Refusal :=
  let s := s.adv t
  if s.bk.chgStartAt + s.get O.BK_CHG_TIMEOUT * 3600 * fuS ≤ s.up then .next s.chargeLate else .next s

/-- CELL_REMOVED (R495): a voltage step while the charger drives current. -/
def execCellRemoved (t : Nat) (s : State) : Host.Outcome State Fault Refusal :=
  let s := s.adv t
  let st := chargerState s
  .next (if st = 1 ∨ st = 2 then s.gaugeRun.cellGone else s)

/-! ### Main power (R489) -/

/-- MAIN_POWER_LOST (R489, R556): the domain switches to VBAT as the core falls into POWER_ON reset. -/
def execMainPowerLost (t : Nat) (s : State) : Host.Outcome State Fault Refusal :=
  let s := s.adv t
  if s.bk.onBattery then .next s
  else
    let s := s.railFall.gaugeRun
    let s := (s.setBk { s.bk with onBattery := true, batterySec := s.get O.BK_RTC_SEC }).chgSync
    .next ((s.journal 9 0).inc O.BK_MAIN_LOSSES)

/-- MAIN_POWER_BACK (R489). -/
def execMainPowerBack (t : Nat) (s : State) : Host.Outcome State Fault Refusal :=
  let s := s.adv t
  if !s.bk.onBattery then .next s
  else
    let s := s.gaugeRun
    let sec := (s.get O.BK_RTC_SEC + 2 ^ 32 - s.bk.batterySec) % 2 ^ 32
    let s := s.setBk { s.bk with onBattery := false }
    let s := (s.journal 0xA sec).addC O.BK_BATTERY_SEC sec
    .next (s.bkHit B.BK_EVENTS_MAIN_RETURNED).chgSync

/-- BACKUP_POR (R489, R471): the domain starts from no power, and the power-on reset follows (DEDUCED, log 110). -/
def execBackupPor (t : Nat) (s : State) : Host.Outcome State Fault Refusal :=
  let s := s.adv t
  let s := (s.setModes { s.modes with causes := [1], resetAt := s.up }).toReset
  let s := { s with
    objs := s.objs.filter (fun p => !keptObj p.1)
    bk := { latched := [(B.BK_EVENTS_BACKUP_POR, 0)], gaugeAt := s.up }
    modes := { s.modes with causes := [1], railAt := s.up } }
  .next (s.journal 1 (jdata [(0, 1), (2, 0x8000)]))

/-! ### The clock and the alarm (R490, R491) -/

/-- Uptime of the next RTC edge (DEDUCED, log 17). -/
def rtcEdge (s : State) : Nat :=
  let base := if s.bk.rcRate = 0 then 10 ^ 7 else s.bk.rcRate
  let rate := ((base : Int) + s.getI O.BK_RTC_TRIM).toNat
  s.up + (fuRtc * 10 ^ 7 - s.bk.rtcRem + rate - 1) / max 1 rate

/-- The clock is set at an RTC edge (R490, R443); what it read at the edge before stays for a snapshot (R43). -/
def State.rtcSet (s : State) (sec sub : Nat) : State :=
  let was := (s.get O.BK_RTC_SEC * 32768 + s.bk.rtcSub + 2 ^ 47 - 1) % 2 ^ 47
  ((s.set O.BK_RTC_SEC sec).setBk { s.bk with
    rtcSub := sub
    rtcRem := 0
    alarmAt := none
    rtcWas := (was, (trunc 32 sec) * 32768 + sub) :: s.bk.rtcWas.take 2 }).bkPut B.BK_STATUS_RTC_SET true

def rtcLocked (s : State) : Bool := s.bit O.BK_CONTROL 4

/-- A write of BK_CONTROL with the word stored and the word written: bit 0 RTC_LOAD, 1 WAKE_CLR, 2 CHG_RESTART,
3 JNL_CLEAR; RTC_LOCK stays set until RESET (R10) (DEDUCED, log 17). -/
def wrBkControl (new v : Nat) (s : State) : WRes :=
  need s (!(bitOf v 0 && rtcLocked s)) abState <|
    let s := s.set O.BK_CONTROL (putBit new 4 (bitOf new 4 || rtcLocked s))
    let s := if bitOf v 0 then (s.adv (rtcEdge s)).rtcSet (s.get O.BK_RTC_SET) 0 else s
    let s := if bitOf v 1 ∧ bkBit s B.BK_STATUS_WAKE then (s.bkPut B.BK_STATUS_WAKE false).emit (.note "WAKE" [0]) else s
    let s := if bitOf v 2 ∧ s.bk.chgStopped then
        let bad := decide (s.getI O.BK_VBAT < 2000 ∨ 3600 < s.getI O.BK_VBAT)
        if bkBit s B.BK_STATUS_CELL_ABSENT ∧ bad then s.cellGone
        else ((s.setBk { s.bk with chgStopped := false }).bkPut B.BK_STATUS_CELL_ABSENT false).chgSync
      else s
    .ok (if bitOf v 3 then (s.set O.BK_JNL_COUNT 0).setBk { s.bk with journal := [] } else s)

/-- A command of BK_CONTROL: a write that leaves the stored fields as they are. -/
def cmdBk (p : Path) (bit : Nat) (s : State) : Host.Outcome State Fault Refusal :=
  let v := putBit (s.get O.BK_CONTROL) bit true
  access p O.BK_CONTROL s (checked O.BK_CONTROL v (fun new => wrBkControl new v))

/-- RTC_LOAD (R490). -/
def execRtcLoad (p : Path) (s : State) : Host.Outcome State Fault Refusal := cmdBk p 0 s
/-- WAKE_CLR (R491). -/
def execWakeClr (p : Path) (s : State) : Host.Outcome State Fault Refusal := cmdBk p 1 s
/-- CHG_RESTART (R494, R495). -/
def execChgRestart (p : Path) (s : State) : Host.Outcome State Fault Refusal := cmdBk p 2 s
/-- JNL_CLEAR (R492). -/
def execJnlClear (p : Path) (s : State) : Host.Outcome State Fault Refusal := cmdBk p 3 s

/-- A read of BK_RTC_SEC latches the sub-second count (R490). -/
def State.rtcRead (s : State) (p : Path) : State := (s.set O.BK_RTC_SUB s.bk.rtcSub).emit (.read p (s.get O.BK_RTC_SEC))

/-- RTC_SEC_READ (R490). -/
def execRtcSecRead (p : Path) (s : State) : Host.Outcome State Fault Refusal :=
  access p O.BK_RTC_SEC s (fun s => .ok (s.rtcRead p))

/-- RTC_ALARM (R491): BK_RTC_SEC equals a non-zero BK_ALARM_SEC; one alarm for the second that the clock counts. -/
def execRtcAlarm (t : Nat) (s : State) : Host.Outcome State Fault Refusal :=
  let s := s.adv t
  let sec := s.get O.BK_RTC_SEC
  .next (if sec ≠ 0 ∧ sec = s.get O.BK_ALARM_SEC ∧ s.bk.alarmAt ≠ some sec then (s.setBk { s.bk with alarmAt := some sec }).bkAlarm 0 else s)

/-! ### The journal (R492) -/

/-- The four words of a journal entry (Table 18.8). -/
def JEntry.words (e : JEntry) : List Nat :=
  [e.sec, e.sub + e.kind * 65536 + e.flags * 2 ^ 24, e.data % 2 ^ 32, e.data / 2 ^ 32]

/-- A write of BK_JNL_SELECT: a number older than 256 entries, or not yet written, gives zeros. -/
def wrJnlSelect (v : Nat) (s : State) : WRes :=
  let d := (s.get O.BK_JNL_COUNT + 2 ^ 32 - v) % 2 ^ 32
  let e : JEntry := if 1 ≤ d ∧ d ≤ 256 then tget {} s.bk.journal (v % 256) else {}
  .ok ((s.set O.BK_JNL_SELECT v).forAll [0, 1, 2, 3] (fun s k => s.set (O.BK_JNL_WORD k) (e.words.getD k 0)))

/-- BK_JNL_SELECT (R492). -/
def execBkJnlSelect (p : Path) (v : Nat) (s : State) : Host.Outcome State Fault Refusal :=
  access p O.BK_JNL_SELECT s (wrJnlSelect (v % 2 ^ 32))

def wrJnlHost (v : Nat) (s : State) : WRes := .ok (s.journal 0xF v)

/-- BK_JNL_HOST (R492). -/
def execBkJnlHost (p : Path) (v : Nat) (s : State) : Host.Outcome State Fault Refusal := access p O.BK_JNL_HOST s (wrJnlHost v)

/-- A write of BK_GAUGE_SET: 0 to BK_CAP. -/
def wrGaugeSet (v : Nat) (s : State) : WRes :=
  need s (decide (v ≤ s.get O.BK_CAP)) abRange (.ok ((s.gaugeRun.set O.BK_GAUGE v).setBk { s.gaugeRun.bk with gaugeRem := 0 }))

/-- BK_GAUGE_SET (R496). -/
def execBkGaugeSet (p : Path) (v : Nat) (s : State) : Host.Outcome State Fault Refusal :=
  access p O.BK_GAUGE_SET s (wrGaugeSet (v % 2 ^ 32))

end Sys2Proof.Machine
end

