-- ==== Sys2Proof/Machine/Sense.lean ====
section
/-! DEFINITION. The sense bank's conversions and detectors (R331 to R342, R351, R353), calibration (R343 to R347), die
readings (R575) and the calibration store (R348 to R350). -/
namespace Sys2Proof.Machine

def sbBit (s : State) (b : Nat) : Bool := s.bit O.SB_STATUS b
def State.sbPut (s : State) (b : Nat) (v : Bool) : State := s.setB O.SB_STATUS b v
def State.setGrant (s : State) (c : Nat) (g : Option Grant) : State := s.setSconv c { s.sconv c with grant := g }

/-! ### Calibration of converters (R343 to R346) -/

/-- UNCALIBRATED clears once the first full calibration has completed and every converter in service is at its target. -/
def State.calibratedSync (s : State) : State :=
  let there := fun (c : Nat) => decide (s.getI (O.SB_CONV_OFFSET c) = (s.sconv c).offT ∧ s.get (O.SB_CONV_GAIN c) = (s.sconv c).gainT)
  if s.bank.first ∧ converters.all (fun c => convRetired s c || there c) then s.sbPut B.SB_STATUS_UNCALIBRATED false else s

/-- A new target of converter `c` (R346): the ramp starts from the live values. -/
def State.calTarget (s : State) (c : Nat) (off : Int) (gain : Nat) : State :=
  let x := s.sconv c
  (s.setSconv c { x with offT := off, gainT := gain, offOld := s.getI (O.SB_CONV_OFFSET c), gainOld := s.get (O.SB_CONV_GAIN c), m := 0 }).rampSync

/-- Ask for the present point of the converter under calibration (R344). -/
def State.calAsk (s : State) : State :=
  match s.bank.convLeft with
  | [] => s
  | c :: _ =>
    let p := s.bank.point
    if asking s (fun r => decide (r.what = .cal)) then s
    else s.senseAsk { cls := 8, inst := c, what := .cal, input := 0xA0 + p, count := if p = 2 then 80 else 64, entered := senseCycle s, conv := some c }

/-- A full calibration begins (R343), or one further follows the present one. -/
def State.calStart (s : State) : State :=
  if s.mode = mdReset ∨ s.mode = mdBoot then s
  else if sbBit s B.SB_STATUS_CAL_RUNNING then s.sbPut B.SB_STATUS_CAL_AGAIN true
  else
    let t := s.get O.SB_DIE_TEMP
    let s := ((s.set O.SB_CAL_DIE_TEMP t).set O.CK_CAL_DIE_TEMP t).sbPut B.SB_STATUS_CAL_RUNNING true
    let s := s.setBank { s.bank with
      convLeft := converters.filter (fun c => !convRetired s c)
      dlLeft := List.range 120
      point := 0
      calBad := false }
    s.calAsk

/-- The calibration completes when every converter and every delay line has a result (R343). -/
def State.calCheck (s : State) : State :=
  if !sbBit s B.SB_STATUS_CAL_RUNNING ∨ s.bank.convLeft ≠ [] ∨ s.bank.dlLeft ≠ [] then s
  else
    let live := converters.filter (fun c => !convRetired s c)
    let row := if live ≠ [] ∧ live.all (fun c => (s.sconv c).mism) then s.bank.mismRow + 1 else 0
    let s := s.setBank { s.bank with calOk := s.bank.calOk || !s.bank.calBad, first := true, mismRow := row }
    let s := ((s.sbPut B.SB_STATUS_CAL_RUNNING false).hit O.SB_EVENTS B.SB_EVENTS_CAL_DONE 560).inc O.SB_CAL_COUNT
    let s := if 4 ≤ row ∧ !sbBit s B.SB_STATUS_VREF_SUSPECT then
        (s.sbPut B.SB_STATUS_VREF_SUSPECT true).hit O.SB_EVENTS B.SB_EVENTS_VREF_SUSPECT 558 1
      else s
    let s := s.calibratedSync
    if sbBit s B.SB_STATUS_CAL_AGAIN then (s.sbPut B.SB_STATUS_CAL_AGAIN false).calStart else s

/-- The calibration goes on to the next converter. -/
def State.calNext (s : State) (c : Nat) : State :=
  (s.setBank { s.bank with convLeft := s.bank.convLeft.filter (fun x => x ≠ c), point := 0 }).calAsk.calCheck

/-- A converter is retired (Table 12.5): it leaves its activity, and the calibration passes it over. What it was
converting is ended by the caller. -/
def State.retireConv (s : State) (c : Nat) : State :=
  if convRetired s c then s
  else
    let s := (s.setB O.SB_CONV_RETIRED c true).hit O.SB_EVENTS B.SB_EVENTS_CONV_RETIRED 560 1
    let s := (s.senseWithdraw (fun r => decide (r.what = .cal ∧ r.conv = some c))).mtConvDrop c
    let s := if s.bank.convLeft.head? = some c then s.calNext c
      else s.setBank { s.bank with convLeft := s.bank.convLeft.filter (fun x => x ≠ c) }
    s.calibratedSync

/-- A calibration result fails: the target is kept; the second in a row retires the converter (R345)
(DEDUCED, log 35). -/
def State.calFail (s : State) (c : Nat) : State :=
  let x := s.sconv c
  let s := (s.setSconv c { x with failRow := x.failRow + 1 }).hit O.SB_EVENTS B.SB_EVENTS_CAL_FAIL 560
  let s := s.setBank { s.bank with calBad := true }
  if 2 ≤ x.failRow + 1 then s.retireConv c else s

/-- GAIN_t and OFF_t for the means h and f in 1/16 code (R345), and whether they and z are within limits. -/
def calResult (z h f : Nat) : Nat × Int × Bool :=
  if f ≤ h then (0, 0, false)
  else
    let gain := (divRound ((32768 * 28672 * 16 : Nat) : Int) (f - h)).toNat
    let off := divRound ((h : Int) * 28672 - 32768 * ((f : Int) - h)) 28672
    (gain, off, decide (31130 ≤ gain ∧ gain ≤ 34406 ∧ off.natAbs ≤ 8192 ∧ ((z : Int) - off).natAbs ≤ 128))

/-- The bandgap check with the target coefficients (R342, R344): `sum` is 16 raw codes. -/
def State.bandgapCheck (s : State) (c sum : Nat) : State :=
  let x := s.sconv c
  let b := (clampI 0 65535 (Int.fdiv (((sum : Int) - x.offT) * x.gainT + 2 ^ 18) (2 ^ 19))).toNat
  let vref := s.get O.SB_VREF_MV
  let diff := ((b * vref : Nat) : Int) - 1200 * 65536
  let mism := decide (s.get O.SB_VREF_TOL * 1200 * 65536 < 1000 * diff.natAbs)
  let s := s.setSconv c { x with band := b, mism := mism }
  let s := s.set O.SB_BANDGAP_MV (divRound ((b * vref : Nat) : Int) 65536).toNat
  if mism then s.hit O.SB_EVENTS B.SB_EVENTS_VREF_SUSPECT 558 else s

/-- A point of converter `c` is complete (R344) (DEDUCED, log 35). -/
def State.calPoint (s : State) (c : Nat) (g : Grant) : State :=
  let mean := (divRound ((g.sum * 16 : Nat) : Int) 64).toNat
  let b := s.bank
  if g.bad then ((s.calFail c)).calNext c
  else if b.point = 0 then (s.setBank { b with z := mean, point := 1 }).calAsk
  else if b.point = 1 then (s.setBank { b with h := mean, point := 2 }).calAsk
  else
    let r := calResult b.z b.h mean
    let s := if r.2.2 then (s.calTarget c r.2.1 r.1).setSconv c { (s.calTarget c r.2.1 r.1).sconv c with failRow := 0 } else s.calFail c
    (s.bandgapCheck c g.sumB).calNext c

/-! ### What a reading delivers -/

/-- A reading of a head's sense wire that gave no result is passed over (R300, R301). -/
def State.passedOver (s : State) (r : Req) : State :=
  match r.what, r.slot with
  | .deep, some k => s.deepFail k r.inst r.nozzle
  | _, some k => (s.inc (O.HP_ROLL_MISSED r.inst)).fastAgain k r.inst
  | _, none => s.inc (O.HP_ROLL_MISSED r.inst)

/-- A reading of a head's sense wire in 1/16 mV (R301 to R310), its converter released. -/
def State.headResult (s : State) (g : Grant) (u : Nat) : State :=
  let r := g.req
  let n := r.inst
  if spoilt s g ∨ otherEpoch s g then
    let s := s.staleReading n (otherEpoch s g)
    match r.what, r.slot with
    | .deep, some k => s.deepFail k n r.nozzle
    | _, some k => s.fastAgain k n
    | _, none => s
  else
    let s := s.readingNote n g.start none (r.slot.map (fun k => (k, r.nozzle)))
    let s := match r.what with
      | .heater => s.heaterResult n r.nozzle u r.slot.isNone
      | .temp => (s.setHealth n { s.health n with tempDue := false }).tempResult n u
      | _ => s.refResult n u
    match r.slot with
    | none => s
    | some k => if mtKind s k = 6 then s.fastNext k n (if r.what = .heater then some r.nozzle else none) else s.mtSync

/-- The end of a die reading (R575, R343): SB_DIE_TEMP takes the highest valid sensor (DEDUCED, log 124). -/
def State.dieDone (s : State) : State :=
  let best := s.bank.dieBest
  let s := s.setBank { s.bank with dieBest := none }
  let s := match best with
    | some t => s.setI O.SB_DIE_TEMP t
    | none => s.set O.SB_DIE_TEMP 0x8000
  let s := s.dieTaken best.isSome
  let t := s.get O.SB_DIE_TEMP
  let c := s.get O.SB_CAL_DIE_TEMP
  let far := decide (s.get O.SB_CAL_DELTA_T < (s.getI O.SB_DIE_TEMP - s.getI O.SB_CAL_DIE_TEMP).natAbs)
  if s.bit O.SB_CONTROL B.SB_CONTROL_TEMP_CAL_EN ∧ t ≠ 0x8000 ∧ c ≠ 0x8000 ∧ far then s.calStart else s

/-- The temperature of sensor `i` for a corrected code; 0x8000 stands for no temperature and is no reading. -/
def dieOf (i code : Nat) : Int := max (-32767) (toSigned 16 (Config.dieTemp i code))

/-- A sensor of a die reading. -/
def State.dieSensor (s : State) (i code : Nat) : State :=
  let t := dieOf i code
  s.setBank { s.bank with dieBest := some (match s.bank.dieBest with
    | some b => max b t
    | none => t) }

def hostCount (s : State) : Nat := s.get O.SB_HOST_STATUS / 256

/-- Result of a host sequence (R353). -/
def State.hostResult (s : State) (code : Nat) : State :=
  let i := hostCount s
  (s.set (O.SB_HOST_RESULT i) code).set O.SB_HOST_STATUS (s.get O.SB_HOST_STATUS % 256 + 256 * (i + 1))

/-- A host sequence ends: BUSY clears, DONE is set. -/
def State.hostDone (s : State) : State :=
  ((s.setB O.SB_HOST_STATUS 0 false).setB O.SB_HOST_STATUS 1 true).hit O.SB_EVENTS B.SB_EVENTS_HOST_DONE 559

/-- A supply conversion without a valid result (R5, R333): SU_V reads 0x8000, below every threshold
(DEDUCED, log 72). -/
def State.supplyInvalid (s : State) (i : Nat) : State :=
  let s := s.set (O.SU_V i) 0x8000
  if i = 0 then s.surge (-32768) else s.railResult i (-32768)

/-- An invalid result of a request of one conversion (R333); a group takes none (R282). -/
def State.invalidOne (s : State) (r : Req) : State :=
  match r.what with
  | .supply => s.supplyInvalid r.inst
  | .heater | .temp | .ref | .deep => s.passedOver r
  | _ => s

/-- A grant ends without its remaining results (R338, R351): what each holder makes of it. -/
def State.grantLost (s : State) (c : Nat) (g : Grant) (cut : Bool) : State :=
  match g.req.what with
  | .die => s.dieDone
  | .cal => s.calPoint c { g with bad := true }
  | .host => (((s.setB O.SB_HOST_STATUS 3 true).setB O.SB_HOST_STATUS 2 (cut || s.bit O.SB_HOST_STATUS 2))).hostDone
  | _ => s.invalidOne g.req

/-- A converter is retired, and what it was converting has no result (R333, R351); a nozzle of the deep test is visited again
(R363). -/
def State.dropConv (s : State) (c : Nat) : State :=
  match (s.sconv c).grant with
  | none => s.retireConv c
  | some g =>
    let s := (s.setGrant c none).retireConv c
    match g.req.what, g.req.slot with
    | .deep, some k => if (s.mt k).ports.contains g.req.inst then s.setMt k { s.mt k with deep := tdel (s.mt k).deep g.req.inst } else s
    | _, _ => s.grantLost c g false

/-! ### Conversions (R331 to R333) -/

/-- The acquisition in force for a grant's next conversion, and the SENSE time at which that conversion ends. -/
def convEnd (s : State) (g : Grant) : Nat := g.start + convTime (acqOf s g.req)

/-- The grant goes on with its next conversion, or ends. -/
def State.convNext (s : State) (c : Nat) (g : Grant) (start : Nat) : State :=
  if g.made < g.req.count then s.setGrant c (some { g with start := start, begun := some g.start }) else s.setGrant c none

/-- A conversion of converter `c` completes with raw code `code`; `valid` unless it timed out (R351) or the reference is
at fault (R341) (DESIGN CHOICE, log 33). -/
def State.converted (s : State) (c code : Nat) (valid : Bool) : State :=
  match (s.sconv c).grant with
  | none => s
  | some g0 =>
    let s := (s.rampStep c).calibratedSync
    let cc := corrected s c code
    let u := sixteenths s cc
    let g := { g0 with made := g0.made + 1 }
    let last := decide (g.req.count ≤ g.made)
    match g.req.what with
    | .die =>
      let s := if valid then s.dieSensor (g.made - 1) cc else s
      let s := s.convNext c g s.pt
      if last then s.dieDone else s
    | .cal =>
      let g := if g.made ≤ 64 then { g with sum := g.sum + code } else { g with sumB := g.sumB + code }
      let g := { g with bad := g.bad || !valid }
      let s := s.convNext c g s.pt
      if last then s.calPoint c g else s
    | .host =>
      let s := s.convNext c { g with bad := false } s.pt
      let s := s.setBank { s.bank with hostLast := some (g.req.input, g.start) }
      let s := if valid && !g.bad then s.hostResult cc
        else let r := s.draw; (r.2.setB O.SB_HOST_STATUS 3 true).hostResult (r.1 % 65536)
      if last then s.hostDone else s
    | .deep =>
      let s := s.setGrant c none
      if !valid then s.passedOver g.req
      else if spoilt s g ∨ otherEpoch s g then s.headResult g u
      else match g.req.slot with
        | none => s
        | some k =>
          let r := s.deepReading k g.req.inst g.req.nozzle u
          match r.2 with
          | some at' => r.1.setGrant c (some { g with start := at', begun := some g.start })
          | none => r.1.readingNote g.req.inst g.start (some g.req.nozzle) none
    | .group =>
      let s := s.setGrant c none
      if valid then s.pgResult g.req.inst u else s
    | .supply =>
      let s := s.setGrant c none
      if valid then s.supplyResult g.req.inst u else s.supplyInvalid g.req.inst
    | .motor =>
      let s := s.setGrant c none
      if valid then s.motorResult g.req.inst g.req.input u else s
    | .heater | .temp | .ref =>
      let s := s.setGrant c none
      if valid then s.headResult g u else s.passedOver g.req

/-- SENSE_CONVERSION_DONE (R332): the conversion in progress on converter `c` ends with a raw code
(DESIGN CHOICE, log 33). -/
def execSenseConversionDone (c code t : Nat) (s : State) : Host.Outcome State Fault Refusal :=
  let s := s.adv t
  match (s.sconv c).grant with
  | none => .next s
  | some g => if g.waits ∨ ptLt s.pt (convEnd s g) then .next s
    else .next ((s.converted c (min code 65535) (!sbBit s B.SB_STATUS_REF_FAULT)).senseGrant.mtSync)

/-! ### Detectors (R337, R338, R341, R351) -/

/-- SENSE_DEADLINE (R337): timed requests whose deadline lies in an earlier SENSE cycle are withdrawn. -/
def execSenseDeadline (t : Nat) (s : State) : Host.Outcome State Fault Refusal :=
  let s := s.adv t
  let late := fun (r : Req) => match r.deadline with
    | some d => decide (d / 400 < senseCycle s)
    | none => false
  let l := s.bank.reqs.filter late
  let s := s.senseWithdraw late
  .next ((l.foldl (fun s r => s.passedOver r) s).senseGrant)

/-- A grant is cut (R338). -/
def State.holdCut (s : State) (c : Nat) (g : Grant) : State :=
  let k := g.req.cls
  let cuts := s.span (10 * fuMs) (tget [] s.bank.cutsAt k)
  let storm := decide (16 < cuts.length) && !sbBit s B.SB_STATUS_CUT_STORM
  let s := s.setBank { s.bank with cutsAt := tput s.bank.cutsAt k cuts }
  let s := (s.inc O.SB_CUTS).hit O.SB_EVENTS B.SB_EVENTS_HOLD_CUT 557 (if storm then 1 else 0)
  let s := if storm then s.sbPut B.SB_STATUS_CUT_STORM true else s
  ((s.setGrant c none).grantLost c g true).senseGrant

/-- A conversion does not end in time (Table 20.1, point 43). -/
def State.convLate (s : State) (c : Nat) : State :=
  let late := s.span fuMs (s.sconv c).lateAt
  let s := (s.setSconv c { s.sconv c with lateAt := late }).hit O.SB_EVENTS B.SB_EVENTS_CONV_TIMEOUT 560
  (if 3 ≤ late.length then s.dropConv c else s.converted c 0 false).senseGrant

/-- A grant's last conversion ends in the SENSE cycle of its limit, or before: that is a release (R338). -/
def endsFirst (s : State) (g : Grant) (limit : Nat) : Bool :=
  !g.waits && decide (g.req.count ≤ g.made + 1 ∧ upAtPress s (convEnd s g) / 400 ≤ limit / 400)

/-- SENSE_HOLD_CUT (R338): a grant reaches its hold limit. -/
def execSenseHoldCut (c t : Nat) (s : State) : Host.Outcome State Fault Refusal :=
  let s := s.adv t
  match (s.sconv c).grant with
  | none => .next s
  | some g =>
    let limit := g.at' + s.get (O.SB_HOLD_LIMIT g.req.cls) * fuUs
    if s.up < limit ∨ endsFirst s g limit then .next s else .next (s.holdCut c g)

/-- SENSE_CONV_TIMEOUT (R351): a conversion is not done 1 µs after its due end; the third on a converter in 1 ms retires
it. -/
def execSenseConvTimeout (c t : Nat) (s : State) : Host.Outcome State Fault Refusal :=
  let s := s.adv t
  match (s.sconv c).grant with
  | none => .next s
  | some g =>
    if g.waits ∨ ptLt s.pt (convEnd s g + fuUs) then .next s else .next (s.convLate c)

/-- REF_FAULT (R341). -/
def execRefFault (t : Nat) (s : State) : Host.Outcome State Fault Refusal :=
  let s := s.adv t
  if s.mode = mdReset ∨ s.mode = mdBoot ∨ sbBit s B.SB_STATUS_REF_FAULT then .next s
  else .next (((s.setBank { s.bank with refAt := s.up }).sbPut B.SB_STATUS_REF_FAULT true).hit O.SB_EVENTS B.SB_EVENTS_REF_FAULT 558 1)

/-- REF_FAULT_CLEAR (R341): the voltage has stayed within the range for 1 ms, no sooner than 1 ms after the fault. -/
def execRefFaultClear (t : Nat) (s : State) : Host.Outcome State Fault Refusal :=
  let s := s.adv t
  .next (if s.bank.refAt + fuMs ≤ s.up then s.sbPut B.SB_STATUS_REF_FAULT false else s)

/-- DIE_READING_DUE (R575): SB_DIE_PERIOD after the last; a request not yet granted makes way for the new one. -/
def execDieReadingDue (t : Nat) (s : State) : Host.Outcome State Fault Refusal :=
  let s := s.adv t
  if s.mode = mdReset ∨ s.mode = mdBoot ∨ tooEarly s s.bank.dieAt (s.get O.SB_DIE_PERIOD * fuUs) then .next s
  else
    let s := (s.setBank { s.bank with dieAt := some s.up }).senseWithdraw (fun r => decide (r.what = .die))
    if asking s (fun r => decide (r.what = .die)) then .next s
    else .next (s.senseAsk { cls := 5, inst := 0, what := .die, input := 0xA4, count := 4, entered := senseCycle s })

/-! ### Delay-line calibration (R347, R49) -/

/-- Map entry d of R347 for the means n_1 to n_8. -/
def mapEntry (ns : List Nat) (d : Nat) : Nat :=
  let at' := fun i => if i = 0 then 0 else ns.getD (i - 1) 0
  let a := at' (d / 8)
  let b := at' ((d + 7) / 8)
  (divRound (((8 * a + (b - a) * (d % 8)) : Nat) : Int) 8).toNat

def rising : List Nat → Bool
  | a :: b :: l => decide (a < b) && rising (b :: l)
  | _ => true

/-- CK_DL_TAP: the mean over the good lines of 250,000 / n_8, rounded once (R6). -/
def tapMean (s : State) : Nat :=
  let ns := (s.clk.dl.filter (fun p => p.2.good)).map (fun p => p.2.target.getD 64 1)
  let f := ns.foldl (fun (a : Nat × Nat) n => (a.1 * n + 250000 * a.2, a.2 * n)) (0, 1)
  if ns = [] then 0 else (divRound (f.1 : Int) (f.2 * ns.length)).toNat

/-- A capture line is calibrated while the other of its interface serves; a placement line at any time (R347). -/
def calIdle (s : State) (k : Nat) : Bool := decide (k < 96) || decide ((k - 96) % 2 ≠ (s.pif ((k - 96) / 2)).cap)

/-- The idle capture line has its result: it takes over from the one that serves (R347) (DESIGN CHOICE, log 119). -/
def State.capSwap (s : State) (k : Nat) : State :=
  if k < 96 then s else s.setPif ((k - 96) / 2) { s.pif ((k - 96) / 2) with cap := (k - 96) % 2 }

/-- DELAY_LINE_CAL_DONE (R347): for each ROOT phase the taps passed, summed over the 16 launches of a line. -/
def execDelayLineCalDone (k : Nat) (sums : List Nat) (t : Nat) (s : State) : Host.Outcome State Fault Refusal :=
  let s := s.adv t
  if !sbBit s B.SB_STATUS_CAL_RUNNING ∨ !s.bank.dlLeft.contains k ∨ !calIdle s k then .next s
  else
    let ns := sums.map (fun n => (divRound (n : Nat) 16).toNat)
    let s := (s.setBank { s.bank with dlLeft := setDel s.bank.dlLeft k }).capSwap k
    let n8 := ns.getD 7 0
    if ns.length ≠ 8 ∨ !rising ns ∨ 189 < n8 ∨ ns.getD 0 0 = 0 then
      let s := (s.hit O.CK_EVENTS B.CK_EVENTS_DL_CAL_FAIL 540).hit O.SB_EVENTS B.SB_EVENTS_CAL_FAIL 560
      .next s.calCheck
    else
      let s := s.setDline k { dline s k with target := (List.range 65).map (mapEntry ns), good := true }
      .next (((s.dlSettle k).set O.CK_DL_TAP (tapMean s)).calCheck)

/-! ### The calibration store (R348 to R350) -/

def storeBytes (s : State) (base n : Nat) : List Byte := s.mgets (flashAddr base) n
def storeLE (s : State) (base off n : Nat) : Nat := ofBytesLE (storeBytes s (base + off) n)

/-- A slot is valid (R348). -/
def storeValid (s : State) (base : Nat) : Bool :=
  decide (storeLE s base 0 2 = 0x4353 ∧ storeLE s base 2 1 = 1 ∧ storeLE s base 0xFFC 4 = 0xA5C35A3C
    ∧ storeLE s base 0xFF0 4 = crc32 (storeBytes s base 0xFF0))

/-- The base of the slot in force (R348): the valid one with the greater SEQ. -/
def storeInForce (s : State) : Option Nat :=
  let a := s.get O.SB_STORE_ADDR
  let b := a + 4096
  match storeValid s a, storeValid s b with
  | true, true =>
    let d := (storeLE s b 4 4 + 2 ^ 32 - storeLE s a 4 4) % 2 ^ 32
    some (if 0 < d ∧ d < 2 ^ 31 then b else a)
  | true, false => some a
  | false, true => some b
  | false, false => none

/-- The image of a slot but for COMMIT (Table 12.4). -/
def storeImage (s : State) (seq : Nat) : List Byte :=
  let conv := converters.flatMap (fun c => let x := s.sconv c
    bytesLE 2 (ofSigned 16 x.offT) ++ bytesLE 2 x.gainT ++ bytesLE 2 x.band ++ bytesLE 2 (convRetired s c).toNat)
  let body := bytesLE 2 0x4353 ++ bytesLE 2 1 ++ bytesLE 4 seq ++ bytesLE 2 (s.get O.SB_CAL_DIE_TEMP) ++ bytesLE 2 (s.get O.SB_VREF_MV)
    ++ bytesLE 4 0 ++ conv ++ (List.range 12).flatMap (fun i => bytesLE 2 (s.get (O.CK_CAPTURE_SKEW i)))
    ++ ports.flatMap (fun n => bytesLE 2 (s.get (O.CK_FIRE_SKEW n))) ++ List.replicate 3720 0
  body ++ bytesLE 4 (crc32 body) ++ List.replicate 8 0

def storeBusy (s : State) : Bool := sbBit s B.SB_STATUS_STORE_BUSY

/-- The flash command of a step of the save (DEDUCED, log 37). -/
def storeCmd (s : State) (step : Nat) : FlashCmd :=
  let b := s.bank
  if step = 0 then { host := false, op := 3, addr := b.storeBase, len := 4096 }
  else
    let data := if step = 17 then bytesLE 4 0xA5C35A3C else (b.storeImg.drop (256 * (step - 1))).take 256
    { host := false, op := 2, addr := b.storeBase + (if step = 17 then 0xFFC else 256 * (step - 1)), len := data.length, data := data }

/-- The save goes on with a step, unless curfew stands (DEDUCED, log 37). -/
def State.storeGo (s : State) (step : Nat) : State :=
  if curfew s then s.storePend
  else
    let s := s.setBank { s.bank with storeStep := some step }
    s.flashAsk (storeCmd s step)

/-- The save starts at its first step (R349): the slot not in force, with the values of now. -/
def State.storeBegin (s : State) : State :=
  let a := s.get O.SB_STORE_ADDR
  let seq := match storeInForce s with
    | some b => (storeLE s b 4 4 + 1) % 2 ^ 32
    | none => 1
  let base := if storeInForce s = some a then a + 4096 else a
  let s := (s.setBank { s.bank with storeBase := base, storeSeq := seq, storeImg := storeImage s seq, storeWait := false }).set O.SB_STORE_RESULT 1
  s.storeGo 0

/-- The save ends. -/
def State.storeEnd (s : State) (result bit cls : Nat) : State :=
  let s := s.setBank { s.bank with storeStep := none, storeWait := false, storeImg := [] }
  ((s.set O.SB_STORE_RESULT result).sbPut B.SB_STATUS_STORE_BUSY false).hit O.SB_EVENTS bit 560 cls

/-- A step of the save has run: the next, or the end; one failed attempt is retried (R349). -/
def State.storeStepDone (s : State) (res : Nat) : State :=
  match s.bank.storeStep with
  | none => s
  | some step =>
    if res ≠ 0 then
      if s.bank.storeFails = 0 then (s.setBank { s.bank with storeFails := 1 }).storeBegin
      else s.storeEnd 3 B.SB_EVENTS_STORE_FAIL 1
    else if step < 17 then s.storeGo (step + 1)
    else (s.set O.SB_STORE_SEQ s.bank.storeSeq).storeEnd 0 B.SB_EVENTS_STORE_DONE 0

/-- QSPI_OP_DONE (R510): the flash ends its command: 0 finished, 2 wrongly programmed, 3 not finished in 400 ms. -/
def execQspiOpDone (res t : Nat) (s : State) : Host.Outcome State Fault Refusal :=
  let s := s.adv t
  match s.flash.cur with
  | none => .next s
  | some c =>
    let r := s.flashRun c res
    let s := r.1.setFlash { r.1.flash with cur := none }
    .next ((if c.host then s.qspiDone c r.2 else s.storeStepDone r.2).flashGo)

/-- A load of the slot in force (R350). -/
def State.storeLoad (s : State) : State :=
  match storeInForce s with
  | none => s.set O.SB_STORE_RESULT 4
  | some b =>
    let s := converters.foldl (fun s c =>
      let off := toSigned 16 (storeLE s b (0x10 + 8 * c) 2)
      let gain := storeLE s b (0x12 + 8 * c) 2
      let x := s.sconv c
      let s := s.setSconv c { x with offT := off, gainT := gain, offOld := off, gainOld := gain, m := 256, band := storeLE s b (0x14 + 8 * c) 2 }
      (s.setI (O.SB_CONV_OFFSET c) off).set (O.SB_CONV_GAIN c) gain) s
    let s := (converters.filter (fun c => bitOf (storeLE s b (0x16 + 8 * c) 2) 0)).foldl (fun s c => s.dropConv c) s
    let s := s.set O.SB_VREF_MV (storeLE s b 0xA 2)
    let s := s.forAll (List.range 12) (fun s i => s.set (O.CK_CAPTURE_SKEW i) (storeLE s b (0x90 + 2 * i) 2))
    let s := s.forAll ports (fun s n => s.set (O.CK_FIRE_SKEW n) (storeLE s b (0xA8 + 2 * n) 2))
    let s := ((s.dlSettleAll.rampSync).calibratedSync).sbPut B.SB_STATUS_STORE_LOADED true
    (s.set O.SB_STORE_SEQ (storeLE s b 4 4)).set O.SB_STORE_RESULT 0

/-- A write of SB_STORE_CMD: 1 saves, 2 loads (R349, R350) (DEDUCED, log 125). -/
def wrStoreCmd (v : Nat) (s : State) : WRes :=
  if v = 1 then
    if curfew s then .no s.deferred abState
    else if storeBusy s ∨ !s.bank.calOk then .no s abState
    else .ok ((s.sbPut B.SB_STATUS_STORE_BUSY true).setBank { s.bank with storeFails := 0 }).storeBegin
  else if v = 2 then
    if s.mode = mdPrint ∨ storeBusy s then .no s abState else .ok s.storeLoad.senseGrant
  else .no s abRange

/-- SB_STORE_SAVE (R349): a write of 1. -/
def execSbStoreSave (p : Path) (s : State) : Host.Outcome State Fault Refusal := access p O.SB_STORE_CMD s (wrStoreCmd 1)
/-- SB_STORE_LOAD (R350): a write of 2. -/
def execSbStoreLoad (p : Path) (s : State) : Host.Outcome State Fault Refusal := access p O.SB_STORE_CMD s (wrStoreCmd 2)

/-- CURFEW_HOLD_EXPIRY (R479): curfew ends, a pending save starts again (R349), and the flash serves waiting commands. -/
def execCurfewHoldExpiry (t : Nat) (s : State) : Host.Outcome State Fault Refusal :=
  let s := s.adv t
  if holdOver s then
    let s := s.curfewEnd
    .next ((if s.bank.storeWait then s.storeBegin else s).flashGo)
  else .next s

/-! ### Commands of the bank (R343, R351, R353) -/

/-- A write of SB_CONTROL with the word stored and the word written (Table 12.9). -/
def wrSbControl (new v : Nat) (s : State) : WRes :=
  need s (!(bitOf v B.SB_CONTROL_CLR_RETIRED && decide (s.mode = mdPrint))) abState <|
    let s := s.set O.SB_CONTROL new
    let s := if bitOf v B.SB_CONTROL_CLR_STATS then
        ((s.sbPut B.SB_STATUS_CUT_STORM false).setBank { s.bank with cutsAt := [] }).forAll (List.range 10) (fun s k => s.set (O.SB_WAIT_MAX k) 0)
      else s
    let s := if bitOf v B.SB_CONTROL_CLR_RETIRED then
        (s.set O.SB_CONV_RETIRED 0).forAll converters (fun s c => s.setSconv c { s.sconv c with failRow := 0, lateAt := [] })
      else s
    .ok (if bitOf v B.SB_CONTROL_CAL_START ∨ bitOf v B.SB_CONTROL_CLR_RETIRED then s.calStart.senseGrant else s)

/-- A command of SB_CONTROL: a write that leaves the stored fields as they are. -/
def cmdSb (p : Path) (bit : Nat) (s : State) : Host.Outcome State Fault Refusal :=
  let v := putBit (s.get O.SB_CONTROL) bit true
  access p O.SB_CONTROL s (checked O.SB_CONTROL v (fun new => wrSbControl new v))

/-- CAL_START (R343). -/
def execCalStart (p : Path) (s : State) : Host.Outcome State Fault Refusal := cmdSb p B.SB_CONTROL_CAL_START s
/-- CLR_RETIRED (R351). -/
def execClrRetired (p : Path) (s : State) : Host.Outcome State Fault Refusal := cmdSb p B.SB_CONTROL_CLR_RETIRED s
/-- SB_CLR_STATS (R351). -/
def execSbClrStats (p : Path) (s : State) : Host.Outcome State Fault Refusal := cmdSb p B.SB_CONTROL_CLR_STATS s

/-- A write of SB_HOST_CMD (R353). -/
def wrHostCmd (v : Nat) (s : State) : WRes :=
  let input := fieldOf v B.SB_HOST_CMD_INPUT
  let acq := fieldOf v B.SB_HOST_CMD_ACQ
  if s.bit O.SB_HOST_STATUS 0 then .no s abState
  else if andW v 0xFF00C000 ≠ 0 ∨ 0xA7 < input ∨ acq < 4 then .no s abRange
  else .ok ((s.set O.SB_HOST_STATUS 1).senseAsk { cls := 9, what := .host, input := input, count := fieldOf v B.SB_HOST_CMD_COUNT + 1, acq := acq, entered := senseCycle s })

/-- SB_HOST_CMD (R353). -/
def execSbHostCmd (p : Path) (v : Nat) (s : State) : Host.Outcome State Fault Refusal :=
  access p O.SB_HOST_CMD s (wrHostCmd (v % 2 ^ 32))

end Sys2Proof.Machine
end

