-- ==== Sys2Proof/Machine/Modes.lean ====
section
/-! DEFINITION. Operating modes (R468 to R470, R473), reset causes (R471), and the commands of inhibits (R474, R475). -/
namespace Sys2Proof.Machine

/-- A bit of MD_EVENTS is set, with EV570 (DEDUCED, log 68). -/
def State.mdHit (s : State) (bit : Nat) : State := s.hit O.MD_EVENTS bit 570
def modeBusy (s : State) : Bool := s.bit O.MD_STATUS 0

/-- The changes accepted (Table 18.2). -/
def changeOk (old new : Nat) : Bool :=
  decide (new ∈ match old with
    | 1 => [2, 0]
    | 2 => [3, 4, 7, 0]
    | 3 => [2, 7, 0]
    | 4 => [2, 5, 6, 7, 0]
    | 5 => [4, 7, 0]
    | 6 => [2, 4, 7, 0]
    | 7 => [2, 3, 0]
    | _ => ([] : List Nat))

/-! ### Actions of a change (Table 18.3) -/

def State.disarmAll (s : State) : State := s.forAll ports (fun s n => if armed s n then s.disarm n else s)

/-- Bring-up of every link that is OFF (R261). -/
def State.bringUpOff (s : State) : State := s.forAll ports (fun s n => if linkState s n = 0 then s.bringUp n else s)

/-- The memory is trained (R125). -/
def State.train (s : State) : State := (s.setIntake { s.intake with locked := true, training := true })

/-- The first entry to CONFIGURE after RESET: the store is loaded, a full calibration starts, and what the boot and the
backup domain latched is raised, and the node performs reset communication (R125, R350, R343, R491, R507, R431). -/
def State.leaveBoot (s : State) : State :=
  let s := s.train
  let s := if s.bit O.SB_CONTROL B.SB_CONTROL_AUTO_LOAD then s.storeLoad else s
  let s := s.calStart.bkLatched
  let l := s.boot.latched
  let s := s.setBoot { s.boot with latched := [] }
  (l.foldl (fun s d => s.raise 575 d.2 d.1) s).bringUpOff.resetComm

/-- The band store leaves self-refresh, or is trained again after a power-down (R473). -/
def State.wakeStore (s : State) : State :=
  if s.bit O.BS_STATUS B.BS_STATUS_SELF_REFRESH then s.setB O.BS_STATUS B.BS_STATUS_SELF_REFRESH false else s.train

/-- Power-down of the band store: every job slot, band and page is lost (R473) (DEDUCED, log 68). -/
def State.dropStore (s : State) : State :=
  let s := if s.intake.stage = .idle ∨ s.intake.stage = .taken then s else s.refuse 9 0
  let s := s.forAll slots (fun s j => s.jobFree j)
  let s := s.forAll ports (fun s n => s.setLane n {})
  let s := { s with
    intake := { s.intake with used := [], pages := [] }
    mem := s.mem.filter (fun c => decide (2 ^ 40 ≤ c.1)) }
  (s.setB O.BS_STATUS B.BS_STATUS_ONLINE false).pagesSync

/-- Entry to STANDBY: links OFF, RETIRED ones with CK stopped; the band store to self-refresh, or powered down
(DEDUCED, log 68). -/
def State.toStandby (s : State) : State :=
  let s := s.forAll ports (fun s n =>
    if retired s n then s.ckStop n
    else if linkState s n = 0 then s else s.linkOff n true)
  if s.bit O.MD_POWER 0 then s.dropStore else s.setB O.BS_STATUS B.BS_STATUS_SELF_REFRESH true

/-- READY or SERVICE to CONFIGURE: ports disarmed, activities stopped, groups OFF, axes to a stop and DISABLED. -/
def State.toConfigure (s : State) : State := (((s.disarmAll).mtSync).pgSyncAll).stopAll true

/-- Any mode to SAFE: FI low, groups off, axes halted with cause 1, activities stopped, ports disarmed. -/
def State.toSafe (s : State) : State :=
  (((((s.fiOff).pgSyncAll).mtSync).haltAll 1).mtSync).disarmAll

/-- The actions of a change from a mode to the mode now in force. -/
def State.changeActions (s : State) (old new : Nat) : State :=
  let s := match new, old with
    | 2, 1 => s.leaveBoot
    | 2, 3 => s.wakeStore.bringUpOff
    | 2, 7 => (s.emit (.note "outputs released" [])).bringUpOff
    | 2, _ => s.toConfigure.bringUpOff
    | 3, _ => s.toStandby
    | 4, 5 => s.disarmAll.mtSync
    | 4, 6 => s.mtSync
    | 4, _ => s.pgSyncAll
    | 5, _ => s.fiPrint.forAll ports (fun s n => if armed s n then (s.lgSync n).ttSync n else s)
    | 7, _ => s.toSafe.fiCancel
    | _, _ => s
  if old = 5 then s.dlSettleAll.forAll ports (fun s n => s.lgSync n) else s

/-- The actions of the change under way are complete (Table 18.3). -/
def actionsDone (s : State) : Bool :=
  let noStop := axes.all (fun a => decide (axisState s a ≠ 3))
  let mtDone := fun (k : Nat) => decide (mtState s k ≠ 4) || modeAllows s.mode (mtKind s k)
  if s.mode = mdConfigure then
    !s.intake.training && ports.all (fun n => decide (linkState s n ≠ 1 ∧ linkState s n ≠ 2)) && noStop && mtSlots.all mtDone
  else if s.mode = mdReady then
    mtSlots.all mtDone && ports.all (fun n => (s.sched n).lines.all (fun x => x.st ≠ .firing))
  else true

/-! ### Mode commands (R468 to R470) -/

/-- Why a mode command is not accepted (Table 18.18): result and abort (DEDUCED, log 67 and 83). -/
def modeRefusal (s : State) (v : Nat) : Option (Nat × Nat) :=
  if 7 < v then some (5, abRange)
  else if !changeOk s.mode v then some (2, abState)
  else if s.mode = mdBoot ∧ v = mdConfigure ∧ !s.bit O.BT_STATUS B.BT_STATUS_BOOT_DONE then some (2, abState)
  else if modeBusy s ∧ v ≠ mdSafe ∧ v ≠ mdReset then some (3, abState)
  else none

/-- A write of MD_MODE_CMD (DEDUCED, log 68). -/
def wrModeCmd (v : Nat) (s : State) : WRes :=
  if v = s.mode ∧ !modeBusy s then .ok (s.set O.MD_MODE_RESULT 0)
  else match modeRefusal s v with
    | some (r, code) => .no ((s.set O.MD_MODE_RESULT r).mdHit 1) code
    | none =>
      let old := s.mode
      let s := if modeBusy s then (s.set O.MD_MODE_RESULT 4).mdHit 2 else s
      if v = mdReset then .ok (s.resetEvent 5)
      else
        let s := (s.set O.MD_MODE v).set O.MD_STATUS (1 + 256 * v)
        .ok ((s.set O.MD_MODE_RESULT 1).changeActions old v)

def modeCmd (p : Path) (v : Nat) (s : State) : Host.Outcome State Fault Refusal := access p O.MD_MODE_CMD s (wrModeCmd v)

/-- MODE_CMD_BOOT (R469): no change leads to BOOT. -/
def execModeCmdBoot (p : Path) (s : State) : Host.Outcome State Fault Refusal := modeCmd p mdBoot s
/-- MODE_CMD_CONFIGURE (R468). -/
def execModeCmdConfigure (p : Path) (s : State) : Host.Outcome State Fault Refusal := modeCmd p mdConfigure s
/-- MODE_CMD_STANDBY (R468). -/
def execModeCmdStandby (p : Path) (s : State) : Host.Outcome State Fault Refusal := modeCmd p mdStandby s
/-- MODE_CMD_READY (R468). -/
def execModeCmdReady (p : Path) (s : State) : Host.Outcome State Fault Refusal := modeCmd p mdReady s
/-- MODE_CMD_PRINT (R468). -/
def execModeCmdPrint (p : Path) (s : State) : Host.Outcome State Fault Refusal := modeCmd p mdPrint s
/-- MODE_CMD_SERVICE (R468). -/
def execModeCmdService (p : Path) (s : State) : Host.Outcome State Fault Refusal := modeCmd p mdService s
/-- MODE_CMD_SAFE (R470). -/
def execModeCmdSafe (p : Path) (s : State) : Host.Outcome State Fault Refusal := modeCmd p mdSafe s
/-- MODE_CMD_RESET (R470). -/
def execModeCmdReset (p : Path) (s : State) : Host.Outcome State Fault Refusal := modeCmd p mdReset s

/-- MODE_CHANGE_DONE (R468). -/
def execModeChangeDone (t : Nat) (s : State) : Host.Outcome State Fault Refusal :=
  let s := s.adv t
  if modeBusy s ∧ actionsDone s then
    .next ((((s.setB O.MD_STATUS 0 false).set O.MD_MODE_RESULT 0).inc O.MD_CHANGES).mdHit 0)
  else .next s

/-! ### Reset causes (R471, Table 18.4) -/

/-- A cause of the reset in force ends (DEDUCED, log 69). -/
def State.causeEnds (s : State) (cause : Nat) : State :=
  let l := setDel s.modes.causes cause
  s.setModes { s.modes with causes := l, relAt := if l = [] then s.up else s.modes.relAt }

/-- POWER_ON (R556): a rail falls below its threshold, or the 2 ms after the last rail's rise have run, no sooner than 2 ms
after the last fall. -/
def execPowerOn (up : Bool) (t : Nat) (s : State) : Host.Outcome State Fault Refusal :=
  let s := s.adv t
  if !up then .next s.railFall
  else .next (if s.clk.inReset ∧ s.modes.causes.contains 1 ∧ !s.bk.onBattery ∧ s.modes.railAt + 2 * fuMs ≤ s.up then s.causeEnds 1 else s)

/-- RESET_PIN (R567): RESET_N has been low for 1 µs. -/
def execResetPin (t : Nat) (s : State) : Host.Outcome State Fault Refusal := .next ((s.adv t).resetEvent 2)

/-- RESET_RELEASE (R471): a cause's condition has ended; causes 4, 5 and 7 to 9 hold the device 10 µs, cause 3 until the
bus has stood above the release threshold for 10 ms (DEDUCED, log 69). -/
def execResetRelease (cause t : Nat) (s : State) : Host.Outcome State Fault Refusal :=
  let s := s.adv t
  let timed := decide (cause = 4 ∨ cause = 5 ∨ 7 ≤ cause)
  if !s.clk.inReset ∨ !s.modes.causes.contains cause ∨ cause = 1 ∨ (timed ∧ s.up < s.modes.resetAt + 10 * fuUs)
      ∨ (cause = 3 ∧ (s.supply.warn ∨ s.up < max s.supply.relAt s.modes.resetAt + 10 * fuMs)) then .next s
  else .next (s.causeEnds cause)

/-! ### Inhibits (R474, R475) -/

/-- A write of MD_INHIBIT_SET: bit 0 FIRE, 1 MOTION_STOP, 2 MOTION_OFF. -/
def wrInhibitSet (v : Nat) (s : State) : WRes :=
  need s (decide (v % 256 < 8)) abRange <|
    let m := s.modes
    let s := s.setModes { m with hostStop := m.hostStop || bitOf v 1, hostOff := m.hostOff || bitOf v 2 }
    .ok (if bitOf v 0 then s.inhibitSrc B.MD_INHIBIT_STATUS_HOST_FIRE true else s.inhibitSync)

/-- INHIBIT_SET_FIRE (R474). -/
def execInhibitSetFire (p : Path) (s : State) : Host.Outcome State Fault Refusal := access p O.MD_INHIBIT_SET s (wrInhibitSet 1)
/-- INHIBIT_SET_MOTION_STOP (R474). -/
def execInhibitSetMotionStop (p : Path) (s : State) : Host.Outcome State Fault Refusal := access p O.MD_INHIBIT_SET s (wrInhibitSet 2)
/-- INHIBIT_SET_MOTION_OFF (R474). -/
def execInhibitSetMotionOff (p : Path) (s : State) : Host.Outcome State Fault Refusal := access p O.MD_INHIBIT_SET s (wrInhibitSet 4)

def pinStands (s : State) : Bool := s.bit O.MD_INHIBIT_STATUS B.MD_INHIBIT_STATUS_PIN

/-- The interlock inhibit is lifted. -/
def State.pinLift (s : State) : State :=
  let s := (s.setModes { s.modes with pinKind := 0, pinWait := false }).journal 8 1
  s.inhibitSrc B.MD_INHIBIT_STATUS_PIN false

/-- A write of MD_INHIBIT_CLR: bit 0 HOST, 1 PIN, 2 RING. -/
def wrInhibitClr (v : Nat) (s : State) : WRes :=
  need s (decide (v % 256 < 8)) abRange <|
  need s (!(bitOf v 1 && pinStands s && !s.modes.pinWait)) abState <|
    let s := if bitOf v 0 then
        (s.setModes { s.modes with hostStop := false, hostOff := false }).inhibitSrc B.MD_INHIBIT_STATUS_HOST_FIRE false
      else s
    let s := if bitOf v 1 ∧ pinStands s then s.pinLift else s
    .ok (if bitOf v 2 then
        s.inhibitWith (putBit (putBit (s.get O.MD_INHIBIT_STATUS) B.MD_INHIBIT_STATUS_RING_FIRE false) B.MD_INHIBIT_STATUS_RING_MOTION false)
      else s)

/-- INHIBIT_CLR_HOST (R474). -/
def execInhibitClrHost (p : Path) (s : State) : Host.Outcome State Fault Refusal := access p O.MD_INHIBIT_CLR s (wrInhibitClr 1)
/-- INHIBIT_CLR_PIN (R475). -/
def execInhibitClrPin (p : Path) (s : State) : Host.Outcome State Fault Refusal := access p O.MD_INHIBIT_CLR s (wrInhibitClr 2)
/-- INHIBIT_CLR_RING (R474). -/
def execInhibitClrRing (p : Path) (s : State) : Host.Outcome State Fault Refusal := access p O.MD_INHIBIT_CLR s (wrInhibitClr 4)

/-- FIRE_INHIBIT_ASSERT (R475): the ball goes low. -/
def execFireInhibitAssert (t : Nat) (s : State) : Host.Outcome State Fault Refusal :=
  let s := s.adv t
  if s.clk.inReset then .next s
  else
    let kind := s.get O.MD_INHIBIT_CONFIG % 4
    let s := s.fiOff.journal 8 0
    let s := s.setModes { s.modes with pinKind := kind, pinAt := s.up, pinWait := false }
    .next (s.inhibitSrc B.MD_INHIBIT_STATUS_PIN true)

/-- PIN_RELEASE_EXPIRY (R475): the ball, high since `x.e`, has stayed high for MD_PIN_RELEASE ms; after RESET the time
counts from the first lock. -/
def execPinReleaseExpiry (x : Since) (s : State) : Host.Outcome State Fault Refusal :=
  let s := s.adv x.t
  if s.clk.inReset ∨ !pinStands s ∨ s.modes.pinWait ∨ s.up < max x.e s.modes.pinAt + s.get O.MD_PIN_RELEASE * fuMs then .next s
  else if bitOf (s.get O.MD_INHIBIT_CONFIG) 2 then .next (s.setModes { s.modes with pinWait := true })
  else .next s.pinLift

end Sys2Proof.Machine
end

