-- ==== Sys2Proof/Machine/Dict.lean ====
section
/-! DEFINITION. Reads of the dictionary: what a word names (R11, R415 to R418), the objects whose value is formed at the
read, the read of each path and view (R419 to R425), and the domain objects (R170, R178, R397, R435). -/
namespace Sys2Proof.Machine

/-! ### Domain objects (Tables 6.10, 7.3, 7.4, 11.2, 15.4) -/

def isMatrix (i : Nat) : Bool := decide (0x5000 ≤ i ∧ i ≤ 0x500F)
def isTone (i : Nat) : Bool := decide (0x5010 ≤ i ∧ i ≤ 0x501F)
def isDensity (i : Nat) : Bool := decide (0x5100 ≤ i ∧ i ≤ 0x515F)
def isMaskTable (i : Nat) : Bool := decide (0x5180 ≤ i ∧ i ≤ 0x51DF)
def isBlend (i : Nat) : Bool := decide (0x5200 ≤ i ∧ i ≤ 0x5207)
def isPassTile (i : Nat) : Bool := decide (0x5208 ≤ i ∧ i ≤ 0x520F)
def isDeep (i : Nat) : Bool := decide (0x5280 ≤ i ∧ i ≤ 0x52DF)
def isSine (i : Nat) : Bool := decide (0x5300 ≤ i ∧ i ≤ 0x5303)

/-- Size of the domain object at an index in bytes; 0 where the index holds none (DEDUCED, log 30). -/
def domCap (i : Nat) : Nat :=
  if isMatrix i then 131088
  else if isTone i ∨ isMaskTable i then 2048
  else if isDensity i then 32768
  else if isBlend i ∨ isPassTile i then 65552
  else if isDeep i then 65536
  else if isSine i then 528
  else 0

/-- The domain objects that nothing but the device writes. -/
def domRo (i : Nat) : Bool := isMaskTable i || isDeep i

/-- Present size (R435): the span of the layout where W and H hold valid values (DEDUCED, log 30). -/
def domSize (s : State) (i : Nat) : Nat :=
  let a := domAddr i
  let w := s.mgetLE (a 2) 2
  let h := s.mgetLE (a 4) 2
  if (isMatrix i || isBlend i || isPassTile i) && dimOk w && dimOk h then 16 + (if isMatrix i then 2 else 1) * w * h
  else domCap i

/-- The blend and pass tiles in use, as ST_TILE_USE shows them (R178). -/
def tileUse (s : State) : Nat :=
  let blend := fun cfg => if fieldOf cfg B.ST_CONFIG_LEFT_MODE = 2 ∨ fieldOf cfg B.ST_CONFIG_RIGHT_MODE = 2 then
    2 ^ fieldOf cfg B.ST_CONFIG_BLEND else 0
  orW ((ports.filter (armed s)).foldl (fun u n => orW u (orW (blend (s.get (O.ST_CONFIG_LIVE n)))
      (if s.bit (O.ST_STATUS n) B.ST_STATUS_PENDING then blend (s.get (O.ST_CONFIG n)) else 0))) 0)
    (if shuttle s ∧ anyArmed s then 2 ^ (8 + s.fld O.ST_SHUTTLE B.ST_SHUTTLE_PASS_TILE) else 0)

/-- The shadow bank of a lane takes no writes (R168). -/
def bankLocked (s : State) (n : Nat) : Bool :=
  s.bit (O.SCR_STATUS n) B.SCR_STATUS_COMMIT_PENDING || s.bit (O.SCR_STATUS n) B.SCR_STATUS_COPYING

/-- A domain object is in use, or locked, so that a write is refused or discarded (R168, R170, R178, R397). -/
def domInUse (s : State) (i : Nat) : Bool :=
  if isMatrix i ∨ isTone i then bitOf (slotUse s) (i - 0x5000)
  else if isDensity i then bankLocked s (i - 0x5100)
  else if isBlend i ∨ isPassTile i then bitOf (tileUse s) (i - 0x5200)
  else if isSine i then sineInUse s (i - 0x5300)
  else false

/-- A lane names a matrix or tone slot in its live or shadow bank. -/
def laneNames (s : State) (i n : Nat) : Bool :=
  [s.get (O.SCR_CONFIG n), s.get (O.SCR_CONFIG_LIVE n)].any (fun cfg =>
    if isMatrix i then bitOf cfg B.SCR_CONFIG_MATRIX_EN && decide (fieldOf cfg B.SCR_CONFIG_MATRIX = i - 0x5000)
    else bitOf cfg B.SCR_CONFIG_TONE_EN && decide (fieldOf cfg B.SCR_CONFIG_TONE = i - 0x5010))

/-- A BAR2 write that a use rule discards is flagged where the rule says (R168, R170, R178, R397). -/
def State.domFlag (s : State) (i : Nat) : State :=
  let scr := fun (s : State) n => s.setB (O.SCR_EVENTS n) B.SCR_EVENTS_WRITE_DISCARDED true
  if isMatrix i ∨ isTone i then s.forAll (ports.filter (laneNames s i)) scr
  else if isDensity i then scr s (i - 0x5100)
  else if isBlend i ∨ isPassTile i then
    s.forAll (ports.filter (armed s)) (fun s n => s.setB (O.ST_EVENTS n) B.ST_EVENTS_WRITE_DISCARDED true)
  else if isSine i then s.forAll (steppers.filter (fun a => decide (sineNamed s a = i - 0x5300)))
    (fun s a => s.hit (O.DS_EVENTS a) B.DS_EVENTS_WRITE_DISCARDED (520 + a))
  else s

/-- A byte as stored: bits [15:10] of a tone entry are cleared (Table 6.10). -/
def domByte (i a : Nat) (b : Byte) : Byte := if isTone i ∧ a % 2 = 1 then BitVec.ofNat 8 (b.toNat % 4) else b

/-- Bytes are stored in a domain object, as far as it reaches: a matrix slot as far as its W and H make it span (R156). -/
def State.domPut (s : State) (i off : Nat) (bs : List Byte) : State :=
  let bs := (bs.take (domCap i - off)).zipIdx.map (fun p => domByte i (off + p.2) p.1)
  if isMatrix i then
    let s := s.mputs (domAddr i off) (bs.take (16 - off))
    let a := max off 16
    s.mputs (domAddr i a) ((bs.drop (16 - off)).take (domSize s i - a))
  else s.mputs (domAddr i off) bs

/-- Byte `a` of a mask object: the masked nozzles of the port (Table 6.10). -/
def maskByte (s : State) (n a : Nat) : Byte :=
  let all := (s.mask n).all
  BitVec.ofNat 8 ((List.range 8).map (fun b => if all.contains (8 * a + b) then 2 ^ b else 0)).sum

/-- Byte `a` of a deep test result: entries at k ≥ N read as NOT_MEASURED (R307, Table 11.2). -/
def deepByte (s : State) (n a : Nat) : Byte :=
  if a / 4 < nozzles s n then s.mget (domAddr (0x5280 + n) a) else if a % 4 = 3 then 0x30 else 0

/-- Bytes of a domain object; beyond it, and beyond the span of a matrix slot, they read 0 (R156). -/
def domGets (s : State) (i off n : Nat) : List Byte :=
  let cap := if isMatrix i then domSize s i else domCap i
  (List.range n).map (fun k =>
    if cap ≤ off + k then 0
    else if isMaskTable i then maskByte s (i - 0x5180) (off + k)
    else if isDeep i then deepByte s (i - 0x5280) (off + k)
    else s.mget (domAddr i (off + k)))

/-- A write of a domain object over the dictionary (R170, R178, R397, R435, Table 6.10). -/
def wrDomain (i off : Nat) (bs : List Byte) (s : State) : WRes :=
  need s (!domRo i) abWriteRo <|
  need s (!domInUse s i) abState <|
  need s (decide (off + bs.length ≤ domCap i)) abTooLong <|
  need s (bs.zipIdx.all (fun p => domByte i (off + p.2) p.1 == p.1)) abRange <| .ok (s.domPut i off bs)

/-! ### Values formed at the read -/

/-- Total ms with the slow request asserted, the present assertion included (Table 7.17). -/
def slowMs (s : State) : Nat :=
  let fu := s.slow.total + (match s.slow.since with
    | some a => s.up - a
    | none => 0)
  (divRound (fu : Nat) fuMs).toNat

/-- Units of Lodging memory not allocated (Table 7.17). -/
def allocFree (s : State) : Nat := 768 - (ports.map (fun n => s.get (O.LG_ALLOC n))).sum

/-- A port is named as a twin, armed, and serves nothing (Table 11.13). -/
def twinStandby (s : State) (n : Nat) : Bool :=
  ports.any (fun k => decide (s.get (O.HP_TWIN k) = n)) && armed s n && (servedBy s n).isNone

/-- A stage's configuration as DS_STATUS shows it (R397, R413). -/
def stageWord (s : State) (a v : Nat) : Nat :=
  putBit (putBit v B.DS_STATUS_CONFIGURED (stageConfigured s a)) B.DS_STATUS_TABLE_VALID (a < 16 && sineValid s (sineNamed s a))

/-- The value of an object as a read finds it: the stored one, with what follows from other state formed now
(DEDUCED, log 64). -/
def readObj (s : State) (o : Obj) : Nat :=
  let v := s.get o
  let n := o.inst
  match o.grp, o.sub with
  | .com, 1 => if n = 0x18 then trunc 32 (shadowRow s 2) else v
  | .com, 3 => if n = 0x18 then trunc 32 (shadowRow s 3) else v
  | .com, 4 => if n = 0x18 then trunc 32 (s.get O.FJ_UID) else v
  | .ck, 4 => trunc 32 s.tick
  | .ck, 5 => s.tick / 2 ^ 32
  | .ck, 0x13 => slewingLines s
  | .fj, 0x19 => freeEntries s
  | .fj, 0x1A => (match nextFree s with
    | some e => 0x2300 + e
    | none => 0xFFFF)
  | .pi, 1 => putBit v B.PI_STATUS_BOUND (piBound s n)
  | .scrsh, 1 => slotUse s
  | .stsh, 5 => tileUse s
  | .lgsh, 4 => trunc 32 (slowMs s)
  | .lgsh, 5 => allocFree s
  | .link, 1 => putBit v B.HP_STATE_INHIBITED (portInhibited s n)
  | .pt, 0xD => liveMinPeriod s n
  | .pt, 0xE => putBit (putBit v B.HP_PT_STATUS_VALID (liveTrainValid s n)) B.HP_PT_STATUS_SHADOW_VALID
      (trainCause s n (shadowTrain s n) = 0)
  | .fire, 1 => putBit (putBit (putBit v B.HP_FIRE_STATUS_TRAIN_VALID (liveTrainValid s n)) B.HP_FIRE_STATUS_GROUP_ON
      (groupOn s (groupOf n))) B.HP_FIRE_STATUS_WARMING (bitOf v B.HP_FIRE_STATUS_WARMING && warmRuns s n)
  | .health, 1 => putBit v B.HP_HEALTH_STATUS_ROLL_ACTIVE (rollRuns s n)
  | .twin, 1 => putBit (putBit v B.HP_TWIN_STATUS_ELIGIBLE (eligibleAlone s n)) B.HP_TWIN_STATUS_STANDBY (twinStandby s n)
  | .dm, k => if 0x50 ≤ k ∧ k < 0x70 ∧ dmState s (k - 0x50) ≠ dmIdle then (s.dmaCh (k - 0x50)).at' else v
  | .sb, 1 => putBit v B.SB_STATUS_ENABLED (s.mode ≠ mdReset ∧ s.mode ≠ mdBoot)
  | .can, 1 => putBit v B.MD_CAN_STATUS_ON_BUS (bitOf v B.MD_CAN_STATUS_ON_BUS && canJoined s n)
  | .su, 0x60 => putBit v B.BK_STATUS_ALARM (s.bit O.BK_EVENTS 0)
  | .ds, 1 => stageWord s n v
  | .ds, 0x17 => if n < 16 then dacWord s n else v
  | .ax, 1 => putBit v B.AX_STATUS_ENC_LOST (encLost s n)
  | _, _ => v

/-! ### What a word names -/

/-- The strings of the communication profile (Table 16.12). -/
def comString (s : State) (index : Nat) : Option (List Byte) :=
  if index = 0x1008 then some [0x56, 0x58, 0x39, 0x36, 0x32, 0x34]
  else if index = 0x1009 then some ((Config.hwVersion (shadowRow s 3)).take 32)
  else if index = 0x100A then some ((Config.swVersion (s.get O.BT_FW_VERSION)).take 32)
  else none

/-- What an index and subindex name. -/
inductive Named where
  /-- no object -/
  | nothing
  /-- a number, with its row -/
  | num (o : Obj) (r : Row)
  /-- a string or a domain object, of this length or present size -/
  | sized (n : Nat)
  deriving DecidableEq, Repr

/-- Subindices 2 to 7 of index 0x2010 are the path's own (R449). -/
def pathObj (p : Path) (o : Obj) : Obj := if o.grp = .net ∧ 2 ≤ o.sub ∧ o.sub ≤ 7 then ⟨.net, p.slot, o.sub⟩ else o

def named (s : State) (p : Path) (index sub : Nat) : Named :=
  match comString s index with
  | some b => if sub = 0 then .sized b.length else .nothing
  | none =>
    if domCap index ≠ 0 then (if sub = 0 then .sized (domSize s index) else .nothing)
    else match objAt index sub with
      | none => .nothing
      | some o => match o.row with
        | some r => .num (pathObj p o) r
        | none => .nothing

/-- The 32-bit word of an object (R418), and the object's word in the low 32 bits. -/
def Named.word (s : State) : Named → Nat
  | .nothing => 0
  | .sized n => n
  | .num o r => if r.acc = .wo then 0 else r.ty.word (readObj s o)

/-! ### Reads through BAR0 and by a DMA channel -/

/-- Clear the bits of an rc or w1c object that are ones in a mask. -/
def State.clearOnes (s : State) (o : Obj) (mask : Nat) : State := s.set o (andW (s.get o) (notW 64 mask))

/-- What a read does beside returning a value (R419, R420, R422, R425, R490): only a whole primary read has an effect
(DEDUCED, log 44). -/
def State.readEffect (s : State) (p : Path) (o : Obj) (r : Row) : State :=
  let v := readObj s o
  if r.acc = .rc then s.clearOnes o v
  else if r.ty.bits = 64 then s.set (O.MD_DICT_HI p.slot) (if r.acc = .wo then 0 else v / 2 ^ 32)
  else if o = O.BK_RTC_SEC then s.set O.BK_RTC_SUB s.bk.rtcSub
  else s

/-- One read access: the word returned, and what is left. A mode that does not serve the index refuses it (R506). -/
def dictRead (p : Path) (view : View) (full : Bool) (index sub : Nat) (s : State) : Nat × WRes :=
  if !served s index then (0, .no s abState)
  else
    let x := named s p index sub
    (x.word s, .ok (match x with
      | .num o r => if full ∧ view = .primary then s.readEffect p o r else s
      | _ => s))

/-! ### The field network's view of the dictionary (R417, R420, R425) -/

/-- An index of the communication profile that holds an object (Table 16.12). -/
def comIndex (i : Nat) : Bool := (comRow i 0).isSome || (comRow i 1).isSome

def indexExists (s : State) (index : Nat) : Bool :=
  (comString s index).isSome || decide (domCap index ≠ 0)
    || (match grpOfIndex index with
      | some (.com, i) => comIndex i
      | some _ => true
      | none => false)

/-- The highest subindex the network may name: the value of subindex 0, and the room for entries in a PDO mapping
(DEDUCED, log 45). -/
def subCount (s : State) (index : Nat) : Nat :=
  if (comString s index).isSome ∨ domCap index ≠ 0 then 0
  else match grpOfIndex index with
    | some (.com, i) =>
      if (0x600 ≤ i ∧ i < 0x610) ∨ (0xA00 ≤ i ∧ i < 0xA10) then 0x20
      else if (comRow i 1).isSome then s.get ⟨.com, i, 0⟩ else 0
    | some (g, i) => s.get ⟨g, i, 0⟩
    | none => 0

/-- The abort code of an access by the network to an index or subindex that names nothing (R417). -/
def netMissing (s : State) (index sub : Nat) : Option Nat :=
  if !indexExists s index then some abNoObject
  else if subCount s index < sub then some abNoSub
  else none

/-- An object of the path's own that the network reads as 0 and does not write (R449). -/
def netBlind (o : Obj) : Bool := decide (o.grp = .net ∧ 2 ≤ o.sub ∧ o.sub ≤ 7)

/-- The bytes an upload returns (R418, R435), or the abort. Every read over the network is a peek. -/
def netRead (s : State) (index sub : Nat) : Except Nat (List Byte) :=
  match netMissing s index sub with
  | some c => .error c
  | none =>
    match comString s index with
    | some b => .ok b
    | none =>
      if domCap index ≠ 0 then .ok (domGets s index 0 (domSize s index))
      else match named s .net index sub with
        | .num o r =>
          if r.acc = .wo then .error abReadWo
          else .ok (bytesLE (r.ty.bits / 8) (if netBlind o then 0 else readObj s o))
        | _ => .ok [0, 0, 0, 0]

/-- Bits of the object an index and subindex name as a number; 0 for none. -/
def netBits (s : State) (index sub : Nat) : Nat :=
  match named s .net index sub with
  | .num _ r => r.ty.bits
  | _ => 0

/-! ### Rows -/

/-- One read access of a path, as a command of its own (DEDUCED, log 44). -/
def cmdRead (p : Path) (view : View) (full : Bool) (index sub : Nat) (s : State) : Host.Outcome State Fault Refusal :=
  if !reaches s p then .next s
  else match p with
    | .net => .next (match netRead s index sub with
      | .ok b => ((if index = 0x2900 ∧ sub = 0x63 then s.set O.BK_RTC_SUB s.bk.rtcSub else s)).emit (.read .net (ofBytesLE b))
      | .error c => s.abort .net index sub .primary c)
    | p =>
      let r := dictRead p view full index sub s
      match r.2 with
      | .ok s => .next (s.emit (.read p r.1))
      | .no s c => .next ((s.abort p index sub view c).emit (.read p 0))

/-- RC_READ_CLEAR (R425): a read through the primary view; through the SET, CLR or TGL view it is a peek (R9). -/
def execRcReadClear (p : Path) (form : ReadForm) (index sub : Nat) (s : State) : Host.Outcome State Fault Refusal :=
  cmdRead p form.view form.full index sub s

/-- DICT_READ_64 (R419). -/
def execDictRead64 (p : Path) (full : Bool) (index sub : Nat) (s : State) : Host.Outcome State Fault Refusal :=
  cmdRead p .primary full index sub s

/-! ### BAR2 (R128, R506) -/

/-- An access beyond the target sets WINDOW_FAULT. -/
def State.windowFault (s : State) : State := s.hit O.BS_EVENTS B.BS_EVENTS_WINDOW_FAULT 551

/-- Bytes of the installed band store. -/
def bandBytes (s : State) : Nat := s.get O.BS_CAPACITY * 1048576
def windowBase (s : State) : Nat := s.get O.BS_WIN_BASE_LO + 2 ^ 32 * s.get O.BS_WIN_BASE_HI

/-- A write through the window reaches the band store as far as it is installed. -/
def State.bandPut (s : State) (a : Nat) (bs : List Byte) : State := s.mputs (bandAddr a) (bs.take (bandBytes s - a))
def bandGets (s : State) (a n : Nat) : List Byte :=
  (List.range n).map (fun k => if a + k < bandBytes s then s.mget (bandAddr (a + k)) else 0)

/-- A BAR2 write of a domain object: discarded where it is read-only, in use or beyond the object. -/
def State.domWindow (s : State) (i off : Nat) (bs : List Byte) : State :=
  let s := if domCap i < off + bs.length then s.windowFault else s
  if domRo i then s else if domInUse s i then s.domFlag i else s.domPut i off bs

/-- BAR2 in BOOT: the boot RAM while RECOVERY_WAIT is set (R506). -/
def bootWindow (write : Bool) (x : Nat) (bytes : List Byte) (n : Nat) (s : State) : State :=
  let may := recoveryWait s
  let room := 0x400000 - x
  if write then (if may then s.mputs (bootAddr x) (bytes.take room) else s)
  else s.emit (.readBytes ((List.range n).map (fun k => if may ∧ x + k < 0x400000 then s.mget (bootAddr (x + k)) else 0)))

/-- BAR2_ACCESS: a write of `bytes` or a read of `n` bytes at offset `x`; `ecc` is what the band store's code finds in a
read (1 corrected, 2 uncorrectable, R127) (DEDUCED, log 84). -/
def execBar2Access (write : Bool) (x : Nat) (bytes : List Byte) (n ecc : Nat) (s : State) : Host.Outcome State Fault Refusal :=
  if !reaches s .host then .next s
  else if s.mode = mdBoot then .next (bootWindow write x bytes n s)
  else if s.get O.BS_WIN_TARGET = 0 then
    let a := windowBase s + x
    let beyond : Bool := decide (bandBytes s < a + (if write then bytes.length else n))
    let s := if beyond then s.windowFault else s
    if write then .next (s.bandPut a bytes)
    else
      let s := if a < bandBytes s then s.bsEcc ecc a else s
      if ecc = 2 ∧ a < bandBytes s then
        let d := s.openBytes n
        .next (d.2.emit (.readBytes d.1))
      else .next (s.emit (.readBytes (bandGets s a n)))
  else
    let i := s.get O.BS_WIN_OBJECT
    if write then .next (s.domWindow i x bytes)
    else
      let s := if domCap i < x + n then s.windowFault else s
      .next (s.emit (.readBytes (domGets s i x n)))

end Sys2Proof.Machine
end

