-- ==== Sys2Proof/Machine/Events.lean ====
section
/-! DEFINITION. The event router and its outlets (R453 to R458), the IRQ balls, and the PCIe function (R55, R472). -/
namespace Sys2Proof.Machine

def evEnabled (s : State) (ev : Nat) : Bool := s.bit (O.EV_ENABLE (ev / 32)) (ev % 32)

/-- The route byte of an event (Table 17.8). -/
def routeOf (s : State) (ev : Nat) : Nat := s.get (O.EV_ROUTE (ev / 4)) / 256 ^ (ev % 4) % 256

def qOn (s : State) : Bool := s.bit O.EV_CONTROL B.EV_CONTROL_Q_EN

/-- The queue is full (R456). -/
def qFull (s : State) : Bool := decide ((s.get O.EV_Q_TAIL + 1) % s.get O.EV_Q_SIZE = s.get O.EV_Q_HEAD)

/-- EV_STATUS follows the queue (Table 17.9). -/
def State.qSync (s : State) : State :=
  ((s.setB O.EV_STATUS B.EV_STATUS_Q_ACTIVE (qOn s)).setB O.EV_STATUS B.EV_STATUS_Q_FULL (qOn s && qFull s)).setB
    O.EV_STATUS B.EV_STATUS_PHASE s.evs.phase

/-- An entry of the event queue (Table 17.3). -/
def queueEntry (x : Occ) (phase : Bool) : List Byte :=
  bytesLE 2 x.ev ++ bytesLE 1 (128 * phase.toNat + x.cls % 4) ++ bytesLE 1 0 ++ bytesLE 4 x.detail ++ bytesLE 8 x.time

/-- An enabled occurrence reaches the event queue (R456). -/
def State.queuePut (s : State) (x : Occ) : State :=
  if !qOn s then s
  else if qFull s ∨ !s.evs.linkUp then (s.inc O.EV_Q_LOST).setB O.EV_EVENTS B.EV_EVENTS_Q_LOST true
  else
    let tail := s.get O.EV_Q_TAIL
    let next := (tail + 1) % s.get O.EV_Q_SIZE
    let s := s.emit (.hostWrite (s.get O.EV_Q_BASE + 16 * tail) (queueEntry x s.evs.phase))
    let s := s.setEvs { s.evs with phase := if next = 0 then !s.evs.phase else s.evs.phase }
    (s.set O.EV_Q_TAIL next).qSync

/-- An occurrence routed to the ring (R458, R537) (DEDUCED, log 22). -/
def State.faultCell (s : State) (x : Occ) : State :=
  let held := x.inj && (decide (s.mode = mdPrint) || !s.bit O.FI_CONTROL B.FI_CONTROL_TO_RING)
  if held ∨ !ringNode s ∨ !s.bit O.FJ_CONTROL B.FJ_CONTROL_FAULT_TX_EN then s
  else if s.evs.ringAt.any (fun p => decide (p.1 = x.ev ∧ s.up < p.2 + 100 * fuUs)) then s.inc O.EV_RING_MERGED
  else (s.setEvs { s.evs with ringAt := tput s.evs.ringAt x.ev s.up }).sendCell 7 [x.ev, x.cls, x.time, x.detail]

/-- The occurrence that the router takes next: the one with the earliest press time, and of those the lowest event (R20)
(DEDUCED, log 60). -/
def nextOcc : List Occ → Option Occ
  | [] => none
  | x :: l => some (l.foldl (fun a b => if ptLt b.time a.time ∨ (b.time = a.time ∧ b.ev < a.ev) then b else a) x)

/-- An occurrence goes to its outlets (Table 17.2). -/
def State.routeOcc (s : State) (x : Occ) : State :=
  let r := routeOf s x.ev
  let s := if evEnabled s x.ev then
      let s := s.queuePut x
      s.setEvs { s.evs with due := setIns s.evs.due (r % 64) }
    else s
  let s := if bitOf r 6 then s.emcyPut x else s
  if bitOf r 7 then s.faultCell x else s

/-- EVENT_ROUTE (DEDUCED, log 60). -/
def execEventRoute (t : Nat) (s : State) : Host.Outcome State Fault Refusal :=
  let s := s.adv t
  match nextOcc s.evs.buf with
  | none => .next s
  | some x =>
    let buf := s.evs.buf.erase x
    let s := (s.setEvs { s.evs with buf := buf }).setF O.EV_STATUS B.EV_STATUS_BUF_FILL buf.length
    .next (s.routeOcc x)

/-! ### BAR4: the MSI-X table and the pending bit array (R35, R455) -/

/-- A double word of the MSI-X table: message address low and high, data, and control, whose bit 0 is the mask, set at reset. -/
def msixWord (s : State) (a : Nat) : Nat := tget (if a % 16 = 12 then 1 else 0) s.evs.msix a

/-- The vector is masked in the MSI-X table. -/
def msixMasked (s : State) (v : Nat) : Bool := bitOf (msixWord s (16 * v + 12)) 0

/-- The pending bit of a vector: it is due and masked, or the function's enable is off, or the link is down (R455). -/
def msixPending (s : State) (v : Nat) : Bool :=
  s.evs.due.contains v && (msixMasked s v || !s.evs.msixOn || !s.evs.linkUp)

/-- A double word read through BAR4: the table at 0x0000, the pending bit array at 0x8000; the rest reads 0. -/
def bar4Read (s : State) (a : Nat) : Nat :=
  let a := a / 4 * 4
  if a < 1024 then msixWord s a
  else if a = 0x8000 ∨ a = 0x8004 then
    ((List.range 32).map (fun i => (msixPending s ((a - 0x8000) * 8 + i)).toNat * 2 ^ i)).sum
  else 0

/-- A double word written through BAR4: the table alone can be written, and of a control word the mask alone. -/
def State.bar4Write (s : State) (a v : Nat) : State :=
  let a := a / 4 * 4
  if 1024 ≤ a then s
  else s.setEvs { s.evs with msix := tput s.evs.msix a (if a % 16 = 12 then v % 2 else v % 2 ^ 32) }

/-- A due vector may send (R455). -/
def mayMsix (s : State) (v : Nat) : Bool :=
  s.evs.msixOn && s.evs.linkUp && s.evs.due.contains v && !msixMasked s v
    && !s.evs.sentAt.any (fun p => decide (p.1 = v ∧ s.up < p.2 + s.get O.EV_MODERATION * fuUs))

/-- A vector sends its message. -/
def State.msixOut (s : State) (v : Nat) : State :=
  (s.setEvs { s.evs with due := setDel s.evs.due v, sentAt := tput s.evs.sentAt v s.up }).emit
    (.msix v (msixWord s (16 * v) + 2 ^ 32 * msixWord s (16 * v + 4)) (msixWord s (16 * v + 8)))

/-- MSIX_SEND (R455): the host's accesses to BAR4 since the last one, writes and reads by offset, and the function's MSI-X
enable as the host has left it; then the lowest vector that may send does. While the link is down
the host reaches nothing (R55) (DESIGN CHOICE, log 94; PRESUMED, log 6). -/
def execMsixSend (acc : Bar4) (on : Bool) (t : Nat) (s : State) : Host.Outcome State Fault Refusal :=
  let s := s.adv t
  if !s.evs.linkUp then .next s
  else
    let s := acc.writes.foldl (fun s w => s.bar4Write w.1 w.2) (s.setEvs { s.evs with msixOn := on })
    let s := acc.reads.foldl (fun s a => s.emit (.read .host (bar4Read s a))) s
    match s.evs.due.find? (fun v => mayMsix s v) with
    | none => .next s
    | some v => .next (s.msixOut v)

/-- Ball IRQk_N is asserted (R457). -/
def irqLow (s : State) (k : Nat) : Bool :=
  (List.range 640).any (fun ev =>
    let v := routeOf s ev % 64
    evEnabled s ev && s.bit (O.EV_PENDING (ev / 32)) (ev % 32) && s.bit (O.EV_IRQ_VEC (2 * k + v / 32)) (v % 32))

/-- A write of EV_CONTROL: Q_EN from 0 to 1 starts the queue anew (R456). -/
def wrEvControl (v : Nat) : State → WRes := checked O.EV_CONTROL v (fun new s =>
  let s' := s.set O.EV_CONTROL new
  .ok (if qOn s' ∧ !qOn s then
      ((s'.setEvs { s'.evs with phase := true }).set O.EV_Q_TAIL 0 |>.set O.EV_Q_HEAD 0).qSync
    else s'.qSync))

/-- Q_EN_WRITE. -/
def execQEnWrite (p : Path) (v : Nat) (s : State) : Host.Outcome State Fault Refusal := access p O.EV_CONTROL s (wrEvControl v)

/-- PCIE_RESET (R472, R455): the function alone is reset, and the link is down until it trains again. -/
def execPcieReset (t : Nat) (s : State) : Host.Outcome State Fault Refusal :=
  let s := s.adv t
  .next (s.setEvs { s.evs with due := [], msix := [], msixOn := false, linkUp := false })

/-- PCIE_LINK_UP (R55, R455): due vectors send, lowest first. -/
def execPcieLinkUp (t : Nat) (s : State) : Host.Outcome State Fault Refusal :=
  let s := s.adv t
  let s := s.setEvs { s.evs with linkUp := true }
  let s := if s.clk.inReset then s else s.setB O.CK_STATUS B.CK_STATUS_PCIE_REF_OK true
  .next (s.forAll (s.evs.due.filter (fun v => mayMsix s v)) (fun s v => s.msixOut v))

end Sys2Proof.Machine
end

