-- ==== Sys2Proof/Machine/Write.lean ====
section
/-! DEFINITION. Writes of the dictionary: the meaning of a write of each object, group by group, and the write of each
path and view (R417 to R425, R574 and the object rules of the chapters). -/
namespace Sys2Proof.Machine

/-- A write that stores the checked value and does no more than `f`. -/
def plain (o : Obj) (v : Nat) (f : State → State := id) : State → WRes := checked o v (fun new s => .ok (f (s.set o new)))

/-- As `plain`, but refused with `code` unless `c` holds before the write. -/
def plainIf (c : Bool) (code : Nat) (o : Obj) (v : Nat) (s : State) (f : State → State := id) : WRes :=
  need s c code (plain o v f s)

/-- As `plain`, but refused as out of range unless `c` holds after the write. -/
def plainKeep (c : State → Bool) (o : Obj) (v : Nat) (s : State) (f : State → State := id) : WRes :=
  checked o v (fun new s => need s (c (s.set o new)) abRange (.ok (f (s.set o new)))) s

/-! ### Communication profile and PDO parameters (R437 to R442) -/

/-- Bits of a dummy index of CiA 301 that an RPDO may map (R438). -/
def dummyBits (index : Nat) : Nat :=
  if index = 2 ∨ index = 5 then 8 else if index = 3 ∨ index = 6 then 16 else if index = 4 ∨ index = 7 then 32 else 0

/-- A mapping entry maps one whole object that may be mapped (R438); `tx` for a TPDO (DEDUCED, log 46). -/
def mayMap (s : State) (tx : Bool) (e : Nat) : Bool :=
  let index := e / 65536
  if !tx ∧ dummyBits index ≠ 0 then decide (e % 256 = dummyBits index)
  else decide (index < 0x1000 ∨ 0x1FFF < index) && (match named s .net index (e / 256 % 256) with
    | .num _ r => decide (r.ty.bits = e % 256 ∧ r.acc ≠ .const) &&
        (if tx then decide (r.acc ≠ .wo) else decide (r.acc ≠ .ro ∧ r.acc ≠ .rc))
    | _ => false)

/-- Bytes of a PDO's frame (R438). -/
def frameBytes (s : State) : Nat := if s.net.classic then 8 else 64

/-- What TPDO `p` samples now. -/
def tpdoSample (s : State) (p : Nat) : List Nat :=
  (pdoMap s 0xA00 p).map (fun e => match named s .net e.1 e.2.1 with
    | .num o _ => if netBlind o then 0 else readObj s o
    | _ => 0)

/-- A PDO becomes valid or invalid, or changes its COB-ID. -/
def State.pdoChanged (s : State) (tx : Bool) (p : Nat) : State :=
  if tx then
    let s := ({ s with
      net := { s.net with tpdoDue := setDel s.net.tpdoDue p, tpdoCnt := tdel s.net.tpdoCnt p }
      tpdoReady := setDel s.tpdoReady p } : State).tpdoRemap
    s.setNet { s.net with tpdoLast := tput s.net.tpdoLast p (tpdoSample s p) }
  else s.setNet { s.net with rpdoWait := tdel s.net.rpdoWait p, rpdoAt := tdel s.net.rpdoAt p }

/-- A write of a communication parameter of RPDO or TPDO `p` (PRESUMED, log 47). -/
def wrPdoComm (tx : Bool) (p sub v : Nat) (s : State) : WRes :=
  let base := if tx then 0x800 else 0x400
  let o := cobj (base + p) sub
  let valid := pdoValid s base p
  if sub = 1 then need s (!valid || bitOf v 31 || decide (trunc 32 v = s.get o)) abParam (plain o v (fun s => s.pdoChanged tx p) s)
  else if sub = 2 then need s (decide (trunc 8 v ≤ 240 ∨ 254 ≤ trunc 8 v)) abRange (plainIf (!valid) abParam o v s)
  else plainIf (!valid) abParam o v s

/-- A write of a mapping of RPDO or TPDO `p` (DEDUCED, log 46). -/
def wrPdoMap (tx : Bool) (p sub v : Nat) (s : State) : WRes :=
  let base := if tx then 0xA00 else 0x600
  let o := cobj (base + p) sub
  let valid := pdoValid s (if tx then 0x800 else 0x400) p
  need s (!valid) abParam <|
    if sub = 0 then
      let bits := ((List.range v).map (fun k => s.get (cobj (base + p) (k + 1)) % 256)).sum
      need s (decide (v ≤ 32)) abRange (need s (decide (bits ≤ 8 * frameBytes s)) abPdoLength (plain o v id s))
    else need s (mayMap s tx (trunc 32 v)) abNoMap (plain o v id s)

/-- A write of an object of 0x1000 to 0x1FFF (PRESUMED, log 48). -/
def wrCom (i sub v : Nat) (s : State) : WRes :=
  let o := cobj i sub
  if i = 3 then wrErrHistory v s
  else if i = 6 then plain o v (fun s => (s.setNet { s.net with syncAt := s.up, syncLost := false })) s
  else if i = 0x16 then
    plain o v (fun s => (s.setNet { s.net with hbRx := tdel s.net.hbRx (sub - 1), hbLost := setDel s.net.hbLost (sub - 1) })) s
  else if 0x400 ≤ i ∧ i < 0x410 then wrPdoComm false (i - 0x400) sub v s
  else if 0x600 ≤ i ∧ i < 0x610 then wrPdoMap false (i - 0x600) sub v s
  else if 0x800 ≤ i ∧ i < 0x810 then wrPdoComm true (i - 0x800) sub v s
  else if 0xA00 ≤ i ∧ i < 0xA10 then wrPdoMap true (i - 0xA00) sub v s
  else plain o v id s

/-! ### Modes, clocks, ring, actions, position -/

/-- A write of an object of index 0x2000 (Table 18.11). -/
def wrMd (o : Obj) (v : Nat) (s : State) : WRes :=
  match o.sub with
  | 2 => wrModeCmd v s
  | 9 => wrInhibitSet v s
  | 0xA => wrInhibitClr v s
  | 0xB => plain o v State.inhibitSync s
  | _ => plain o v id s

/-- A write of an object of index 0x2100 (Table 2.4). -/
def wrCk (o : Obj) (v : Nat) (s : State) : WRes :=
  let k := o.sub
  if k = 3 then checked o v (fun new => wrCkControl new (bitOf v B.CK_CONTROL_CLR_INHIBIT)) s
  else if k = 8 then wrPtLoad v s
  else if k = 9 then wrSnapshot v s
  else if 0x20 ≤ k ∧ k < 0x2C then plain o v (fun s => (s.dlSettle (96 + 2 * (k - 0x20))).dlSettle (97 + 2 * (k - 0x20))) s
  else if 0x40 ≤ k then plain o v (fun s => s.dlSettle (k - 0x40)) s
  else plain o v id s

/-- A write of an object of index 0x2200 (Table 3.14). -/
def wrFj (o : Obj) (v : Nat) (s : State) : WRes :=
  if o.sub = 3 then checked o v (fun new => wrFjControl new (bitOf v 2)) s else plain o v id s

/-- A write of an entry of the action table (Table 3.18). -/
def wrAct (o : Obj) (v : Nat) (s : State) : WRes :=
  if o.sub = 8 then wrActCommand o.inst v s else wrActField o.inst o.sub v s

/-- A write of an object of a position interface (Table 4.6). -/
def wrPi (o : Obj) (v : Nat) (s : State) : WRes :=
  let i := o.inst
  match o.sub with
  | 3 => checked o v (fun new => wrPiConfig i new (bitOf v B.PI_CONFIG_CLR_FAULT) (bitOf v B.PI_CONFIG_CLR_UNCERTAIN)) s
  | 4 => wrPiCount i v s
  | _ => plain o v id s

/-- A relay's configuration has changed (R101, R102): outside OUTPUT no pulse runs, and a pair that enters OUTPUT keeps the
level it had (DEDUCED, log 42). -/
def State.relayConfigured (s : State) (a : Nat) : State :=
  if relayMode s a = 3 then s
  else ({ s with pulses := s.pulses.filter (fun p => decide (p.1 / 4 ≠ a)) } : State).relaySync a

/-- A write of an object of a relay (Table 4.10). -/
def wrRl (o : Obj) (v : Nat) (s : State) : WRes :=
  if o.sub = 1 then plain o v (fun s => s.relayConfigured o.inst) s else plain o v id s

/-- A write of an object of a milestone (R100, Table 4.12). -/
def wrMs (o : Obj) (v : Nat) (s : State) : WRes :=
  match o.sub with
  | 1 => checked o v (wrMsControl o.inst) s
  | 0xC => plain o v id s
  | _ => plainIf (!msEnabled s o.inst) abState o v s

/-! ### Intake, band store, screener, stitcher, Lodging, Timetable -/

/-- A write of an object of index 0x2500 (R106, Table 5.15). -/
def wrIn (o : Obj) (v : Nat) (s : State) : WRes :=
  let k := o.sub
  if k = 3 then wrInControl v s
  else if k = 8 then wrInTail v s
  else if k = 0xD then wrJobAbort v s
  else if k = 4 ∨ k = 5 ∨ k = 6 then plainIf (!s.bit O.IN_CONTROL B.IN_CONTROL_RUN) abState o v s
  else plain o v id s

/-- A write of an object of index 0x2501 (R125 to R128). -/
def wrBs (o : Obj) (v : Nat) (s : State) : WRes :=
  if o.sub = 6 then
    need s (slots.all (fun j => decide (jobState s j = 0))) abState <|
    need s (decide (2 * trunc 32 v ≤ s.get O.BS_CAPACITY)) abRange (plain o v State.pagesSync s)
  else plain o v id s

/-- A write of an object of a screener lane (R166 to R168, R174). -/
def wrScr (o : Obj) (v : Nat) (s : State) : WRes :=
  let n := o.inst
  match o.sub with
  | 0xF => checked o v (fun new => wrCommit n new) s
  | 0x11 => plain o v id s
  | 0x12 => wrMaskCmd n v s
  | _ => plainIf (!bankLocked s n) abState o v s

/-- A write of an object of index 0x2508 (R183). -/
def wrStsh (o : Obj) (v : Nat) (s : State) : WRes :=
  if o.sub = 4 then plain o v id s else plainIf (!anyArmed s) abState o v s

/-- A write of an object of a stitcher (R179). -/
def wrSt (o : Obj) (v : Nat) (s : State) : WRes :=
  if o.sub = 8 then plainIf (!armed s o.inst) abState o v s else plain o v (fun s => s.stPending o.inst) s

/-- The slow thresholds are in order (R190). -/
def slowOrder (n : Nat) (s : State) : Bool := decide (s.get (O.LG_SLOW_ON n) < s.get (O.LG_SLOW_OFF n))

/-- A write of an object of a Lodging (R190, R196). -/
def wrLg (o : Obj) (v : Nat) (s : State) : WRes :=
  let n := o.inst
  match o.sub with
  | 3 => need s (!armed s n) abState (plainKeep (fun s => decide ((ports.map (fun k => s.get (O.LG_ALLOC k))).sum ≤ 768)) o v s)
  | 4 => plainIf (!armed s n) abState o v s
  | 9 => plainKeep (slowOrder n) o v s (fun s => s.lgSync n)
  | 0xA => plainKeep (slowOrder n) o v s (fun s => s.lgSync n)
  | 0x10 => wrLgControl n v s
  | _ => plain o v id s

/-- A predictor begins afresh in a new mode. -/
def State.predFresh (s : State) (i : Nat) : State :=
  let st := O.TT_PRED_STATUS i
  ((s.setPred i { lastUp := s.up }).setB st B.TT_PRED_STATUS_STALLED false).setB st B.TT_PRED_STATUS_ACC_CLAMPED false

/-- A write of an object of a predictor (R199, R210) (DEDUCED, log 29). -/
def wrPred (o : Obj) (v : Nat) (s : State) : WRes :=
  let i := o.inst
  let free := !predBound s i
  match o.sub with
  | 3 => need s free abState (plain o v (fun t =>
      let t := ((if predMode t i = predMode s i then t else t.predFresh i).predSync i).predUpdate i
      t.forAll (ports.filter (fun n => decide (predOf t n = i))) (fun t n => t.ttSync n)) s)
  | 4 => plainIf free abState o v s
  | 5 => plainIf free abState o v s
  | 0xC => plainIf free abState o v s
  | 0xD => plainIf free abState o v s
  | _ => plain o v id s

/-- A write of an object of a scheduler (R233, R236). -/
def wrTt (o : Obj) (v : Nat) (s : State) : WRes :=
  let n := o.inst
  match o.sub with
  | 4 => wrArm n v s
  | 5 => wrOffset n false v s
  | 6 => wrOffset n true v s
  | 9 => plain o v id s
  | 0x1C => wrTtControl n v s
  | _ => plainIf (!armed s n) abState o v s (fun t => t.ttSync n)

/-! ### Heads and firing -/

/-- A write of an object of a head link (R267). -/
def wrLink (o : Obj) (v : Nat) (s : State) : WRes :=
  match o.sub with
  | 2 => wrHpControl o.inst v s
  | 0x13 => wrRcCmd o.inst v s
  | _ => plain o v id s

/-- A write of an object of a pulse train (R271, R279). -/
def wrPt (o : Obj) (v : Nat) (s : State) : WRes :=
  if o.sub = 0xB then wrPtCommit o.inst v s else plainIf (!trainPending s o.inst) abState o v s

/-- A write of an object of firing (R292, R312). -/
def wrFire (o : Obj) (v : Nat) (s : State) : WRes :=
  let n := o.inst
  if o.sub = 4 then plainIf (!s.bit (O.HP_HEALTH_CONTROL n) B.HP_HEALTH_CONTROL_REG_EN) abState o v s
    (fun s => s.warmPeriod n (s.get o))
  else plain o v id s

/-- A write of an object of head health. -/
def wrHealth (o : Obj) (v : Nat) (s : State) : WRes :=
  match o.sub with
  | 3 => wrHealthControl o.inst v none none s
  | 0x1A => wrRankSet o.inst v s
  | 0x1B => wrRecCmd o.inst v s
  | _ => plain o v id s

/-- A write of an object of a twin state (R319 to R322). -/
def wrTwinObj (o : Obj) (v : Nat) (s : State) : WRes :=
  if o.sub = 2 then wrTwin o.inst v s else wrTwinCmd o.inst v s

/-- A write of an object of a power group (R291). -/
def wrPg (o : Obj) (v : Nat) (s : State) : WRes :=
  let g := o.inst
  match o.sub with
  | 3 => wrPgControl g v s
  | 4 => plainIf (!(groupPorts g).any (armed s)) abState o v s (fun s =>
      (s.forAll (groupPorts g) (fun s n => s.setFire n { s.fire n with old := true })).pgSync g)
  | 8 => plain o v (fun s => s.rhoSync g) s
  | _ => plain o v id s

/-! ### Events, DMA, sense bank -/

/-- A write of an object of index 0x2600 (R456, R458, R546). -/
def wrEv (o : Obj) (v : Nat) (s : State) : WRes :=
  let k := o.sub
  if k = 3 then wrEvControl v s
  else if k = 4 ∨ k = 5 then plainIf (!qOn s) abState o v s
  else if k = 6 then plainKeep (fun s => decide (s.get O.EV_Q_HEAD < s.get O.EV_Q_SIZE)) o v s State.qSync
  else if 0x10 ≤ k ∧ k < 0x18 then wrIrqVec (k - 0x10) v s
  else if k = 0xE8 then need s (!bitOf v 15) abRange (plain o v id s)
  else plain o v id s

/-- A write of an object of index 0x2700 (R467). -/
def wrDm (o : Obj) (v : Nat) (s : State) : WRes :=
  let k := o.sub
  if 0x70 ≤ k ∧ k < 0x90 then wrDmCmd (k - 0x70) v s
  else if 0x10 ≤ k ∧ k < 0x30 then plainIf (decide (dmState s (k - 0x10) = dmIdle)) abState o v s
  else if 0x50 ≤ k ∧ k < 0x70 then plainIf (decide (dmState s (k - 0x50) = dmIdle)) abState o v s
  else plain o v id s

/-- The thresholds of SUS0 are in order and within the converter's range at the ball (R476) (DEDUCED, log 36). -/
def susOk (s : State) : Bool :=
  let reset := s.getI O.SU_VRESET
  let low := s.getI (O.SU_LOW 0)
  let nom := s.getI O.SU_BUS_NOM
  let high := s.getI (O.SU_HIGH 0)
  let gain : Int := (s.get (O.SU_GAIN 0) : Nat)
  let top : Int := (s.get O.SB_VREF_MV : Nat) - 10
  decide (reset < low ∧ low < nom ∧ nom < high)
    && [reset, low, nom, high].all (fun t => decide (100 * gain ≤ t * 65536 ∧ t * 65536 < top * gain))

/-- A write of an object of index 0x2800 (R340, R352) (DEDUCED, log 36). -/
def wrSb (o : Obj) (v : Nat) (s : State) : WRes :=
  let k := o.sub
  if k = 3 then checked o v (fun new => wrSbControl new v) s
  else if k = 4 then need s (decide (s.mode ≠ mdPrint)) abState (plainKeep susOk o v s)
  else if k = 0xB then plainIf (!storeBusy s) abState o v s
  else if k = 0xC then wrStoreCmd v s
  else if k = 0x10 then wrHostCmd v s
  else if (0x20 ≤ k ∧ k ≤ 0x29) ∨ 0x40 ≤ k then plain o v State.senseGrant s
  else plain o v id s

/-! ### Supply, thermal, backup, boot, injection, maintenance -/

/-- TH_SHUTDOWN lies 5 °C or more above TH_THROTTLE (Table 18.13). -/
def thOrder (s : State) : Bool := decide (s.getI O.TH_THROTTLE + 80 ≤ s.getI O.TH_SHUTDOWN)
/-- BK_V_EMPTY lies below BK_V_LOW (Table 18.13). -/
def cellOrder (s : State) : Bool := decide (s.getI O.BK_V_EMPTY < s.getI O.BK_V_LOW)

/-- A write of an object of index 0x2900 (R476, R498) (DEDUCED, log 73). -/
def wrSu (o : Obj) (v : Nat) (s : State) : WRes :=
  let k := o.sub
  if k = 3 then wrSuControl v s
  else if k = 4 ∨ k = 5 ∨ k = 8 ∨ k = 0x10 ∨ k = 0x18 then plainKeep susOk o v s
  else if 0x28 ≤ k ∧ k ≤ 0x2F then plain o v (fun s => s.curfewSync.highSync) s
  else if k = 0x52 then wrThControl v s
  else if k = 0x53 ∨ k = 0x54 then plainKeep thOrder o v s State.throttleSync
  else if k = 0x62 then checked o v (fun new => wrBkControl new v) s
  else if k = 0x69 ∨ k = 0x6A then plainKeep cellOrder o v s
  else if 0x6B ≤ k ∧ k ≤ 0x6E then plain o v State.chgSync s
  else if k = 0x6F then plain o v (fun s => if s.get O.BK_CAP < s.get O.BK_GAUGE then s.set O.BK_GAUGE (s.get O.BK_CAP) else s) s.gaugeRun
  else if k = 0x71 then wrGaugeSet v s
  else if k = 0x72 then plain o v id s.gaugeRun
  else if k = 0x74 then wrJnlSelect v s
  else if k = 0x79 then wrJnlHost v s
  else plain o v id s

/-- A write of an object of index 0x2A00 (R509, R525). -/
def wrBt (o : Obj) (v : Nat) (s : State) : WRes :=
  match o.sub with
  | 3 => wrBtControl v s
  | 0xC => wrRecovery v s
  | 0xD => plain o v (fun s => (s.setBoot { s.boot with wdtAt := s.up })) s
  | 0xE => wrWdtKick s
  | 0x13 => wrLcCmd v s
  | 0x17 => wrRowCmd [] v s
  | 0x42 => wrQspiCmd v s
  | _ => plain o v id s

/-- A write of an object of index 0x2B00 (R534, R539). -/
def wrFi (o : Obj) (v : Nat) (s : State) : WRes :=
  match o.sub with
  | 3 => plain o v id s
  | 4 => wrFiKey v s
  | 0xA => wrFiCmd v s
  | _ => plainIf (!fiBit s B.FI_STATUS_ARMED) abState o v s

/-- A write of an object of a maintenance slot (R366). -/
def wrMt (o : Obj) (v : Nat) (s : State) : WRes :=
  let k := o.inst
  let still := decide (mtState s k = 0 ∨ mtState s k = 5 ∨ mtState s k = 6)
  match o.sub with
  | 4 => wrMtCmd k v s
  | 0x11 => need s still abState (need s (!wipesOver (s.get (O.MT_KIND k)) (trunc 32 v)) abRange (plain o v id s))
  | 0x17 => need s still abState (need s (decide (trunc 8 v ≠ k)) abRange (plain o v id s))
  | _ => plainIf still abState o v s

/-! ### Motion -/

/-- Highest AX_VEL_MAX (Table 14.1). -/
def velLimit (a : Nat) : Nat := if a < 16 then 25600000 else 25000000

/-- A write of an object of an axis (R379, R385, R393). -/
def wrAx (o : Obj) (v : Nat) (s : State) : WRes :=
  let a := o.inst
  match o.sub with
  | 3 => checked o v (fun new => wrAxConfig a new) s
  | 4 => wrAxCmd a v (s.bit (O.DS_STATUS a) B.DS_STATUS_FLT_IN) s
  | 7 => wrAxPos a v s
  | 0xB => plainKeep (fun s => decide (limitLo s a ≤ limitHi s a)) o v s (fun s => s.limitCheck a)
  | 0xC => plainKeep (fun s => decide (limitLo s a ≤ limitHi s a)) o v s (fun s => s.limitCheck a)
  | 0xD => need s (decide (1 ≤ trunc 32 v ∧ trunc 32 v ≤ velLimit a)) abRange (plain o v id s)
  | 0x18 => wrMvPush a v s
  | 0x1B => plain o v (fun s => (s.axCount a).limitCheck a) s
  | 0x21 => plainIf (decide (axisState s a = 0)) abState o v s
  | _ => plain o v id s

/-- A write of an object of an interpolation group (R389, R390). -/
def wrIg (o : Obj) (v : Nat) (s : State) : WRes :=
  match o.sub with
  | 2 => plainIf (!igFlag s o.inst 0) abState o v s
  | 3 => wrIgCmd o.inst v s
  | 0xC => wrIgPush o.inst v s
  | _ => plain o v id s

/-- A write of an object of a drive stage (R402, R413, R414): it may not break a rule while the axis is not DISABLED
(DEDUCED, log 41). -/
def wrDs (o : Obj) (v : Nat) (s : State) : WRes :=
  let a := o.inst
  let keeps := fun (t : State) => decide (axisState s a = 0) || !stageConfigured s a || stageConfigured t a
  if o.sub = 3 then
    need s (decide (axisState s a = 0)) abState <|
    need s (decide (a < 16) || !bitOf v B.DS_CONFIG_STEP_MODE) abRange (plain o v id s)
  else plainKeep keeps o v s (fun s => s.codes a)

/-! ### One write -/

/-- A write of an object of a group. -/
def wrObj (o : Obj) (v : Nat) (s : State) : WRes :=
  match o.grp with
  | .com => wrCom o.inst o.sub v s
  | .md => wrMd o v s
  | .can => wrCanConfig o.inst v s
  | .ck => wrCk o v s
  | .fj => wrFj o v s
  | .act => wrAct o v s
  | .pi => wrPi o v s
  | .rl => wrRl o v s
  | .ms => wrMs o v s
  | .intake => wrIn o v s
  | .bs => wrBs o v s
  | .stsh => wrStsh o v s
  | .lgsh => wrSlowHost v s
  | .pred => wrPred o v s
  | .pg => (wrPg o v s).mtSync
  | .ev => wrEv o v s
  | .dm => wrDm o v s
  | .sb => wrSb o v s
  | .su => wrSu o v s
  | .bt => wrBt o v s
  | .fi => wrFi o v s
  | .mtsh => if o.sub = 0xC then wrCappedClr v s else plain o v id s
  | .mt => wrMt o v s
  | .link => (wrLink o v s).mtSync
  | .pt => wrPt o v s
  | .fire => wrFire o v s
  | .health => (wrHealth o v s).mtSync
  | .twin => (wrTwinObj o v s).mtSync
  | .scr => wrScr o v s
  | .comp => wrComp o.inst (o.sub - 1) v s
  | .comp2 => wrComp o.inst (127 + o.sub) v s
  | .st => wrSt o v s
  | .lg => wrLg o v s
  | .tt => wrTt o v s
  | .ax => wrAx o v s
  | .ig => wrIg o v s
  | .ds => wrDs o v s
  | .net => plain o v id s
  | .pin => .ok s
  | .un => .ok s
  | .scrsh => .ok s
  | .job => .ok s
  | .ttsh => .ok s
  | .hhsh => .ok s
  | .rcard => .ok s

/-- An rwl object is locked (R10, R125, R509). -/
def rwlLocked (s : State) (o : Obj) : Bool :=
  if o = O.BS_CONFIG then s.intake.locked else if o = O.BT_WDT_PERIOD then decide (s.get o ≠ 0) else false

/-- The access code in force: a locked rwl object is ro, an unlocked one rw (Table 16.4). -/
def accNow (s : State) (o : Obj) (r : Row) : Acc :=
  if r.acc = .rwl then (if rwlLocked s o then .ro else .rw) else r.acc

/-- The effect of a write with operand `x` through a view on an object (Table 16.4, R420, R421) (DEDUCED, log 43). -/
def wrView (view : View) (o : Obj) (r : Row) (x : Nat) (s : State) : WRes :=
  let old := andW (readObj s o) (notW 64 r.wo)
  let viaView := fun (new : Nat) => if andW x r.mbz ≠ 0 then WRes.no s abRange else wrObj o new s
  match accNow s o r, view with
  | .rw, .primary => wrObj o x s
  | .rw, .set => viaView (orW old x)
  | .rw, .clr => viaView (andW old (notW 64 x))
  | .rw, .tgl => viaView (xorW old x)
  | .wo, .primary => wrObj o x s
  | .wo, _ => .no s abAccess
  | .rc, .clr => .ok (s.clearOnes o x)
  | .w1c, .primary => .ok (s.clearOnes o x)
  | .w1c, .clr => .ok (s.clearOnes o x)
  | _, _ => .no s abWriteRo

/-- MD_DICT_HI_STAGE of a path returns to 0 whether a write stood or not (R419). -/
def WRes.unstage (p : Path) : WRes → WRes
  | .ok s => .ok (s.set (O.MD_DICT_HI_STAGE p.slot) 0)
  | .no s c => .no (s.set (O.MD_DICT_HI_STAGE p.slot) 0) c

/-- One write access of a word by the host or a DMA channel (R417 to R422, R506) (DEDUCED, log 43). -/
def dictWrite (p : Path) (view : View) (full : Bool) (index sub w : Nat) (s : State) : WRes :=
  if !full then .ok ((s.inc (O.MD_PARTIAL_WRITES p.slot)).hit O.MD_DICT_EVENTS B.MD_DICT_EVENTS_PARTIAL 561)
  else if !served s index then .no s abState
  else match named s p index sub with
    | .nothing => .ok s
    | .sized _ => .no s abWriteRo
    | .num o r =>
      if r.ty.bits = 64 then (wrView view o r (trunc 32 w + 2 ^ 32 * s.get (O.MD_DICT_HI_STAGE p.slot)) s).unstage p
      else if r.ty.wordOk (trunc 32 w) then wrView view o r (trunc r.ty.bits w) s
      else .no s abLength

/-- One write of an object by the network (R417, R420, R425), of a value of the object's size. -/
def netWrite (index sub v : Nat) (s : State) : WRes :=
  match netMissing s index sub with
  | some c => .no s c
  | none => match named s .net index sub with
    | .nothing => .ok s
    | .sized _ => .no s abWriteRo
    | .num o r =>
      if netBlind o then .ok s
      else match accNow s o r with
        | .rw | .wo => wrObj o v s
        | .rc | .w1c => .ok (s.clearOnes o v)
        | _ => .no s abWriteRo

/-- A write of a path as a command of its own. -/
def cmdWrite (p : Path) (view : View) (full : Bool) (index sub w : Nat) (s : State) : Host.Outcome State Fault Refusal :=
  if !reaches s p then .next s
  else
    let r := match p with
      | .net => if netBits s index sub ≠ 0 ∧ 2 ^ netBits s index sub ≤ w then WRes.no s abLength else netWrite index sub w s
      | p => dictWrite p view full index sub w s
    match r with
    | .ok s => .next s
    | .no s c => .next (s.abort p index sub (if p = .net then .primary else view) c)

/-- DICT_WRITE (R420): a write through the primary view; `full` when all four byte enables are set (R422). -/
def execDictWrite (p : Path) (full : Bool) (index sub w : Nat) (s : State) : Host.Outcome State Fault Refusal :=
  cmdWrite p .primary full index sub w s

/-- CLR_VIEW_WRITE (R420): a write through the SET, CLR or TGL view. -/
def execClrViewWrite (p : Path) (view : View) (full : Bool) (index sub w : Nat) (s : State) : Host.Outcome State Fault Refusal :=
  cmdWrite p view full index sub w s

/-- DICT_WRITE_64 (R419). -/
def execDictWrite64 (p : Path) (full : Bool) (index sub w : Nat) (s : State) : Host.Outcome State Fault Refusal :=
  cmdWrite p .primary full index sub w s

end Sys2Proof.Machine
end

