-- ==== Sys2Proof/Machine/Dma.lean ====
section
/-! DEFINITION. DMA channels move their data (R460 to R466, Tables 17.4 and 17.7). -/
namespace Sys2Proof.Machine

/-- SWAP of Table 17.5, unit by unit. -/
def swapBytes (mode : Nat) : List Byte → List Byte
  | a :: b :: c :: d :: l =>
    (if mode = 1 then [b, a, d, c] else if mode = 2 then [d, c, b, a] else if mode = 3 then [c, d, a, b] else [a, b, c, d])
      ++ swapBytes mode l
  | [a, b] => if mode = 1 then [b, a] else [a, b]
  | l => l

/-- The moves of a row, and of a descriptor. -/
def Desc.cols (d : Desc) : Nat := d.rowBytes / d.grain
def Desc.total (d : Desc) : Nat := d.rows * d.cols

/-- Row and column of move `i`, in the order R461 gives the channel. -/
def DmaCh.cell (x : DmaCh) (d : Desc) (i : Nat) : Nat × Nat :=
  let r := i / d.cols
  let c := i % d.cols
  (if x.rowBack then d.rows - 1 - r else r, if x.colBack then d.cols - 1 - c else c)

/-- The 64-bit address of a move on one side (DEDUCED, log 62). -/
def sideAddr (d : Desc) (base : Nat) (pitch : Int) (cell : Nat × Nat) : Nat :=
  ofSigned 64 ((base : Int) + cell.1 * pitch + cell.2 * d.grain)

/-- View, index and subindex of a BAR0 offset (R11, R416). -/
def bar0 (a : Nat) : View × Nat × Nat :=
  let v : View := match a / 2 ^ 25 % 4 with
    | 0 => .primary
    | 1 => .set
    | 2 => .clr
    | _ => .tgl
  (v, 0x1000 + a % 2 ^ 25 / 1024, a % 1024 / 4)

/-- What a move comes to: it is made, with the host's bytes left; the host's bytes have not arrived; or an access fails
with a code of Table 17.7, at an address, reading or writing. -/
inductive Moved where
  | made (s : State) (rest : List Byte)
  | short
  | fail (s : State) (addr code : Nat) (write : Bool)

/-- Read `n` bytes at address `a` of a space (Table 17.4), and pass them on (DEDUCED, log 63). -/
def dmGet (c space a n : Nat) (data : List Byte) (s : State) (k : List Byte → List Byte → State → Moved) : Moved :=
  match space with
  | 0 => if !s.evs.linkUp then .fail s a 3 false else if data.length < n then .short else k (data.take n) (data.drop n) s
  | 1 => if bandBytes s < a + n then .fail s.windowFault a 6 false else k (s.mgets (bandAddr a) n) data s
  | 2 =>
    let w := bar0 a
    let r := dictRead (.dma c) w.1 true w.2.1 w.2.2 s
    match r.2 with
    | .ok s => k (bytesLE 4 r.1) data s
    | .no s code => .fail (s.abort (.dma c) w.2.1 w.2.2 w.1 code) a 7 false
  | _ =>
    let i := a / 2 ^ 32
    let off := a % 2 ^ 32
    if domCap i < off + n then .fail s.windowFault a 8 false else k (domGets s i off n) data s

/-- Write bytes at address `a` of a space (Table 17.4) (DEDUCED, log 63). -/
def dmPut (c space a : Nat) (bs rest : List Byte) (s : State) : Moved :=
  match space with
  | 0 => if s.evs.linkUp then .made (s.emit (.hostWrite a bs)) rest else .fail s a 3 true
  | 1 => if bandBytes s < a + bs.length then .fail s.windowFault a 6 true else .made (s.mputs (bandAddr a) bs) rest
  | 2 =>
    let w := bar0 a
    match dictWrite (.dma c) w.1 true w.2.1 w.2.2 (ofBytesLE bs) s with
    | .ok s => .made s rest
    | .no s code => .fail (s.abort (.dma c) w.2.1 w.2.2 w.1 code) a 7 true
  | _ =>
    let i := a / 2 ^ 32
    let off := a % 2 ^ 32
    if domCap i < off + bs.length ∨ domRo i ∨ domInUse s i then .fail (s.domWindow i off bs) a 8 true
    else .made (s.domWindow i off bs) rest

/-- The next move of a channel. -/
def dmMove (c : Nat) (d : Desc) (data : List Byte) (s : State) : Moved :=
  let x := s.dmaCh c
  let at' := x.cell d x.moved
  dmGet c d.srcSpace (sideAddr d d.src d.srcPitch at') d.grain data s (fun bs rest s =>
    dmPut c d.dstSpace (sideAddr d d.dst d.dstPitch at') (swapBytes d.swap bs) rest s)

/-- A move is counted; a row that is over asks for the credit of the next (R463). A move that stopped its own channel or
reset the device leaves nothing to count (DEDUCED, log 66). -/
def State.dmCount (s : State) (c : Nat) (d : Desc) : State :=
  if dmState s c ≠ dmRunning then s
  else
    let x := s.dmaCh c
    let n := x.moved + 1
    let s := (s.setDmaCh c { x with moved := n }).addC (O.DM_CH_BYTES c) d.grain
    if n % d.cols = 0 ∧ n < d.total ∧ dmPerRow s c then (s.setDmaCh c { s.dmaCh c with paid := false }).dmPay c else s

/-- A burst: a channel makes up to `k` moves while it is RUNNING. The host's bytes not yet taken go on;
`false` when they have run out. -/
def dmBurst (c : Nat) : Nat → List Byte → State → State × List Byte × Bool
  | 0, data, s => (s, data, true)
  | k + 1, data, s =>
    if dmState s c ≠ dmRunning then (s, data, true)
    else match (s.dmaCh c).desc with
      | none => (s, data, true)
      | some d =>
        if d.total ≤ (s.dmaCh c).moved then (s, data, true)
        else match dmMove c d data s with
          | .made s rest => dmBurst c k rest (s.dmCount c d)
          | .short => (s, data, false)
          | .fail s a code write => (s.dmHalt c a code write, data, true)

/-! ### The order of bursts (R465) -/

/-- Moves that a channel still has to make; 0 unless it is RUNNING. -/
def dmLeft (s : State) (c : Nat) : Nat :=
  match (s.dmaCh c).desc with
  | none => 0
  | some d => if dmState s c = dmRunning then d.total - (s.dmaCh c).moved else 0

/-- Two channels move data on a path in common. -/
def dmShare (s : State) (a b : Nat) : Bool :=
  match (s.dmaCh a).desc, (s.dmaCh b).desc with
  | some x, some y => decide (x.srcSpace = y.srcSpace ∨ x.srcSpace = y.dstSpace ∨ x.dstSpace = y.srcSpace ∨ x.dstSpace = y.dstSpace)
  | _, _ => false

/-- The source is host memory, whose bytes come with the channel's own command. -/
def dmFromHost (s : State) (c : Nat) : Bool :=
  match (s.dmaCh c).desc with
  | some d => decide (d.srcSpace = 0)
  | none => false

/-- Channels ready to move on a path of channel `c`, `c` among them; another channel that reads host memory waits for its own
bytes (DESIGN CHOICE, log 95). -/
def dmReady (s : State) (c : Nat) : List Nat :=
  (List.range 32).filter (fun x => decide (0 < dmLeft s x) && dmShare s c x && (decide (x = c) || !dmFromHost s x))

def dmPrio (s : State) (c : Nat) : Nat := fieldOf (dmCfg s c) B.DM_CH_CONFIG_PRIO

/-- The channel served next among some: the highest PRIO; of equal ones, the first after the channel served last. -/
def dmNextOf (s : State) : List Nat → Option Nat
  | [] => none
  | x :: l =>
    let turn := fun c => (c + 31 - s.evs.dmTurn) % 32
    some (l.foldl (fun a b =>
      if dmPrio s a < dmPrio s b ∨ (dmPrio s a = dmPrio s b ∧ turn b < turn a) then b else a) x)

/-- Moves of one burst of up to 256 bytes. -/
def dmBurstMoves (s : State) (c : Nat) : Nat :=
  match (s.dmaCh c).desc with
  | some d => max 1 (256 / d.grain)
  | none => 1

/-- Channels that share a path with `c` move their bursts in the order of R465, until `c` has made `n` more moves or can make
none; `data` are the host's bytes for `c`. -/
def dmServe (c : Nat) : Nat → Nat → List Byte → State → State
  | 0, _, _, s => s
  | fuel + 1, n, data, s =>
    if n = 0 ∨ dmLeft s c = 0 then s
    else match dmNextOf s (dmReady s c) with
      | none => s
      | some x =>
        let was := dmLeft s x
        let s := s.setEvs { s.evs with dmTurn := x }
        if x = c then
          match dmBurst c (min n (dmBurstMoves s c)) data s with
          | (s, rest, true) => dmServe c fuel (n - (was - dmLeft s c)) rest s
          | (s, _, false) => s
        else dmServe c fuel n data (dmBurst x (dmBurstMoves s x) [] s).1

/-- Bursts that the channels can still make. -/
def dmFuel (s : State) : Nat := ((List.range 32).map (fun x => dmLeft s x)).sum + 1

/-- Channel `c` makes up to `n` moves, and those it shares a path with take their turns (R465)
(DESIGN CHOICE, log 61 and 95). -/
def dmRun (c n : Nat) (data : List Byte) (s : State) : State := dmServe c (dmFuel s) n data s

/-- The descriptor in progress has moved its last unit (R460, R464). -/
def State.dmDone (s : State) (c : Nat) (d : Desc) : State :=
  let s := (s.dmResult c 0x80000000).inc (O.DM_CH_DESCS c)
  (if d.irq then s.hit O.DM_DONE c 567 else s).dmNext c

/-- DMA_DESC_DONE: the channel moves what is left of its descriptor, as far as its credits and the host's bytes reach;
`data` are the bytes that host memory returns, in the order they are moved (DESIGN CHOICE, log 61). -/
def execDmaDescDone (c : Nat) (data : List Byte) (t : Nat) (s : State) : Host.Outcome State Fault Refusal :=
  let s := s.adv t
  if 32 ≤ c then .next s
  else match (s.dmaCh c).desc with
    | none => .next s
    | some d =>
      let s := dmRun c (d.total - (s.dmaCh c).moved) data s
      .next (if dmState s c = dmRunning ∧ d.total ≤ (s.dmaCh c).moved then s.dmDone c d else s)

/-- The failure code comes from outside the block: from the host for a HOST side, from the memory for a BAND read. -/
def outerCode (d : Desc) (code : Nat) (write : Bool) : Bool :=
  let space := if write then d.dstSpace else d.srcSpace
  (decide (3 ≤ code ∧ code ≤ 5) && decide (space = 0)) || (decide (code = 6) && decide (space = 1) && !write)

/-- An access of a running channel fails after `n` more moves, `data` being what the host returned before it
(DEDUCED, log 66). -/
def dmFail (c n code : Nat) (write : Bool) (data : List Byte) (d : Desc) (s : State) : State :=
  let s := dmRun c n data s
  let x := s.dmaCh c
  let at' := x.cell d x.moved
  let a := if write then sideAddr d d.dst d.dstPitch at' else sideAddr d d.src d.srcPitch at'
  if dmState s c ≠ dmRunning ∨ d.total ≤ x.moved then s
  else (if code = 6 then s.bsEcc 2 a else s).dmHalt c a code write

/-- DMA_ACCESS_FAIL: the host or the memory fails an access (Table 17.7); with code 10 the fetch of a descriptor fails. -/
def execDmaAccessFail (c n code : Nat) (write : Bool) (data : List Byte) (t : Nat) (s : State) :
    Host.Outcome State Fault Refusal :=
  let s := s.adv t
  let a := (s.dmaCh c).at'
  if 32 ≤ c then .next s
  else if dmState s c = dmLoading ∧ code = 10 then .next ((s.setDmaCh c { at' := a, bad := 10 }).dmHalt c a 10 false)
  else match (s.dmaCh c).desc with
    | none => .next s
    | some d =>
      if dmState s c ≠ dmRunning ∨ !outerCode d code write then .next s else .next (dmFail c n code write data d s)

end Sys2Proof.Machine
end

