-- ==== Sys2Proof/Machine/Network.lean ====
section
/-! DEFINITION. The network's transfers: USDO (R433 to R435), PDOs (R439 to R441), SYNC (R442) and TIME (R443). -/
namespace Sys2Proof.Machine

/-! ### USDO -/

/-- MD_USDO_CLIENT of a client: its node-ID, or 0x80 + channel in classic CANopen (Table 16.13). -/
def clientCode (s : State) (client : Nat) : Nat := if s.net.classic then 0x80 + client else client

/-- A request from this client reaches the server: a node-ID, or a server channel with valid COB-IDs (R433). -/
def clientOk (s : State) (client : Nat) : Bool :=
  if s.net.classic then decide (client < 4)
      && !bitOf (s.get (cobj (0x200 + client) 1)) 31 && !bitOf (s.get (cobj (0x200 + client) 2)) 31
  else decide (1 ≤ client ∧ client ≤ 127)

/-- The session a client holds. -/
def sessOf (s : State) (code : Nat) : Option Nat := (List.range 4).find? (fun k =>
  s.net.sess.any (fun p => decide (p.1 = k ∧ p.2.client = code)))

def freeSess (s : State) : Option Nat := (List.range 4).find? (fun k => !s.net.sess.any (fun p => p.1 = k))

def State.setSess (s : State) (k : Nat) (x : Sess) : State :=
  s.setNet { s.net with sess := tput s.net.sess k x }

/-- Session `k` serves a client. -/
def State.sessOpen (s : State) (k : Nat) (x : Sess) : State :=
  ((s.setSess k x).set (O.MD_USDO_CLIENT k) x.client).setB O.MD_USDO_USE k true

/-- A transfer ends with an abort, and its session is freed. -/
def State.sessAbort (s : State) (k code : Nat) : State :=
  let x : Sess := tget {} s.net.sess k
  (s.sessFree k).usdoAbort x.client x.index x.sub code

/-- A fifth client is refused (R434). -/
def State.usdoRefuse (s : State) (x : Sess) : State :=
  ((s.inc O.MD_USDO_REFUSED).hit O.MD_DICT_EVENTS B.MD_DICT_EVENTS_USDO_REFUSED 565).usdoAbort x.client x.index x.sub abMemory

/-- A request to open a transfer: it takes over the client's session, or a free one, or is refused (R434). -/
def State.usdoOpen (s : State) (x : Sess) (f : Nat → State → State) : State :=
  match (sessOf s x.client).orElse (fun _ => freeSess s) with
  | some k => f k (s.sessOpen k x)
  | none => s.usdoRefuse x

/-- A frame of a client of the server (R431, R433): an NMT state that serves USDO, and a client of the protocol. -/
def usdoFrame (client t : Nat) (s : State) (f : State → State) : Host.Outcome State Fault Refusal :=
  .next ((s.adv t).canHeard (fun s => if nodeTalks s && clientOk s client then f s else s))

/-- What opens a transfer: 0 the request of the row; 1 a service the node does not support, which is refused; 2 the
client's own abort, which ends its transfer (R433, R434) (DESIGN CHOICE, log 51). -/
def usdoRequest (svc : Nat) (x : Sess) (f : State → State) (s : State) : State :=
  if svc = 0 then f s
  else if svc = 2 then (match sessOf s x.client with
    | some k => s.sessFree k
    | none => s)
  else s.usdoAbort x.client x.index x.sub abCommand

/-- The length of a whole download is right (R418): as announced, and the size of the object's type. -/
def lengthOk (s : State) (x : Sess) : Bool :=
  (!x.sized || decide (x.size = x.off)) && (match named s .net x.index x.sub with
    | .num _ r => decide (x.off = r.ty.bits / 8)
    | _ => true)

/-- A download is complete: an object that is not DOMAIN is written now, by one access (R435) (DEDUCED, log 50). -/
def usdoFinish (x : Sess) (s : State) : WRes :=
  need s (lengthOk s x) abLength <|
    if domCap x.index ≠ 0 then .ok s else netWrite x.index x.sub (ofBytesLE x.data) s

/-- Bytes of a download arrive: those of a DOMAIN object are written where they belong, others are collected. -/
def usdoTake (k : Nat) (bs : List Byte) (last : Bool) (s : State) : State :=
  let x : Sess := tget {} s.net.sess k
  let dom := decide (domCap x.index ≠ 0)
  match (if dom then wrDomain x.index x.off bs s else .ok s) with
  | .no s c => s.sessAbort k c
  | .ok s =>
    let x := { x with off := x.off + bs.length, data := if dom then [] else x.data ++ bs, lastAt := s.up }
    if !last then (s.setSess k x).usdoSend "usdo download" [x.client, x.index, x.sub, x.off]
    else match usdoFinish x s with
      | .no s c => (s.sessFree k).usdoAbort x.client x.index x.sub c
      | .ok s => (s.sessFree k).usdoSend "usdo download done" [x.client, x.index, x.sub, x.off]

/-- The checks at the start of a download (R417, R435) (DEDUCED, log 50). -/
def downloadStart (s : State) (x : Sess) : Option Nat :=
  match netMissing s x.index x.sub with
  | some c => some c
  | none => if domCap x.index ≠ 0 ∧ x.sized ∧ domCap x.index < x.size then some abTooLong else none

/-- USDO_DOWNLOAD_INIT: the client, the service (0 this one), the object, the announced length if one is, the bytes the
frame carries, and whether they are all. -/
def execUsdoDownloadInit (client svc index sub : Nat) (sized : Bool) (size : Nat) (data : List Byte) (last : Bool) (t : Nat)
    (s : State) : Host.Outcome State Fault Refusal :=
  usdoFrame client t s (fun s =>
    let x : Sess := { client := clientCode s client, index := index, sub := sub, sized := sized, size := size, lastAt := s.up }
    usdoRequest svc x (fun s => s.usdoOpen x (fun k s => match downloadStart s x with
      | some c => s.sessAbort k c
      | none => usdoTake k data last s)) s)

/-- A further frame of a client's transfer: of a session of the same direction, with its toggle bit in step in classic
CANopen (R436) (PRESUMED, log 49). -/
def usdoNext (upload : Bool) (client : Nat) (toggle : Bool) (s : State) (f : Nat → State → State) : State :=
  match sessOf s (clientCode s client) with
  | none => s.usdoAbort (clientCode s client) 0 0 abCommand
  | some k =>
    let x : Sess := tget {} s.net.sess k
    if x.upload ≠ upload then s.sessAbort k abCommand
    else if s.net.classic ∧ x.toggle ≠ toggle then s.sessAbort k abToggle
    else f k (s.setSess k { x with toggle := !x.toggle, lastAt := s.up })

/-- USDO_DOWNLOAD_SEGMENT. -/
def execUsdoDownloadSegment (client : Nat) (toggle : Bool) (data : List Byte) (last : Bool) (t : Nat) (s : State) :
    Host.Outcome State Fault Refusal :=
  usdoFrame client t s (fun s => usdoNext false client toggle s (fun k s => usdoTake k data last s))

/-- Bytes of an upload in one frame: 4 and 7 in classic CANopen; the CANopen FD protocol's own numbers otherwise
(PRESUMED, log 49). -/
def usdoRoom (s : State) (first : Bool) : Nat :=
  if s.net.classic then (if first then 4 else 7) else if first then 1 + Config.usdoFirst else 1 + Config.usdoNext

/-- The next bytes of an upload leave; the last ones free the session. A memory error of a domain object ends it
(DEDUCED, log 50). -/
def usdoGive (k : Nat) (memErr : Bool) (room : Nat) (s : State) : State :=
  let x : Sess := tget {} s.net.sess k
  let n := min room (x.size - x.off)
  let dom := decide (domCap x.index ≠ 0)
  if dom ∧ memErr then s.sessAbort k abHardware
  else
    let bs := if dom then domGets s x.index x.off n else (x.data.drop x.off).take n
    let s := s.usdoSend "usdo upload" ([x.client, x.index, x.sub, x.off] ++ bs.map (·.toNat))
    if x.off + n < x.size then s.setSess k { x with off := x.off + n } else s.sessFree k

/-- USDO_UPLOAD_INIT: an object that fits goes out at once, a longer one in segments; `memErr` for an uncorrectable memory
error in the bytes read (DEDUCED, log 50). -/
def execUsdoUploadInit (client svc index sub : Nat) (memErr : Bool) (t : Nat) (s : State) : Host.Outcome State Fault Refusal :=
  usdoFrame client t s (fun s =>
    let x : Sess := { client := clientCode s client, index := index, sub := sub, upload := true, lastAt := s.up }
    usdoRequest svc x (fun s => s.usdoOpen x (fun k s => match netRead s index sub with
      | .error c => s.sessAbort k c
      | .ok b =>
        let s := if index = 0x2900 ∧ sub = 0x63 then s.set O.BK_RTC_SUB s.bk.rtcSub else s
        let s := s.setSess k { x with sized := true, size := b.length, data := if domCap index ≠ 0 then [] else b }
        if b.length ≤ usdoRoom s true then usdoGive k memErr b.length s
        else s.usdoSend "usdo upload size" [x.client, index, sub, b.length])) s)

/-- USDO_UPLOAD_SEGMENT. -/
def execUsdoUploadSegment (client : Nat) (toggle memErr : Bool) (t : Nat) (s : State) : Host.Outcome State Fault Refusal :=
  usdoFrame client t s (fun s => usdoNext true client toggle s (fun k s => usdoGive k memErr (usdoRoom s false) s))

/-! ### PDOs -/

/-- PDOs are processed in operational alone (R431). -/
def nodeOperates (s : State) : Bool := nodeRuns s && decide (nmt s = nmtOp)

/-- Bytes of a mapping. -/
def mapBytes (m : List (Nat × Nat × Nat)) : Nat := (m.map (fun e => e.2.2 / 8)).sum

/-- The objects of an RPDO are written in mapping order; a refused one is left alone (R441). -/
def pdoWrite : List (Nat × Nat × Nat) → List Byte → State → State
  | [], _, s => s
  | e :: m, bs, s =>
    let n := e.2.2 / 8
    let s := if dummyBits e.1 ≠ 0 ∨ !nodeRuns s then s
      else match netWrite e.1 e.2.1 (ofBytesLE (bs.take n)) s with
        | .ok s => s
        | .no s _ => (s.inc O.MD_RPDO_REFUSED).hit O.MD_DICT_EVENTS B.MD_DICT_EVENTS_RPDO_REFUSED 565
    pdoWrite m (bs.drop n) s

/-- RPDO `p` is received: written at once, or at the next SYNC (Table 16.9) (PRESUMED, log 52). -/
def State.rpdoTake (s : State) (p : Nat) (bytes : List Byte) : State :=
  let m := pdoMap s 0x600 p
  if bytes.length < mapBytes m then s.hit O.MD_DICT_EVENTS B.MD_DICT_EVENTS_RPDO_LENGTH 565
  else if s.get (cobj (0x400 + p) 2) ≤ 240 then (s.setNet { s.net with rpdoWait := tput s.net.rpdoWait p bytes })
  else pdoWrite m bytes (s.setNet { s.net with rpdoAt := tput s.net.rpdoAt p s.up })

/-- RPDO_RX. -/
def execRpdoRx (p : Nat) (bytes : List Byte) (t : Nat) (s : State) : Host.Outcome State Fault Refusal :=
  .next ((s.adv t).canHeard (fun s =>
    if p < 16 && nodeOperates s && pdoValid s 0x400 p then s.rpdoTake p bytes else s))

/-- A mapped object of TPDO `p` has changed since its last sampling (R440) (DEDUCED, log 54). -/
def tpdoChanged (s : State) (p : Nat) : Bool :=
  s.tpdoReady.contains p || decide (tpdoSample s p ≠ tget [] s.net.tpdoLast p)

def tpdoType (s : State) (p : Nat) : Nat := s.get (cobj (0x800 + p) 2)

/-- TPDO `p` is ready to be sent now (R439, R440) (DEDUCED, log 54; PRESUMED, log 52). -/
def tpdoDueNow (s : State) (p : Nat) : Bool :=
  let due := s.net.tpdoDue.contains p
  let inhibited := s.net.tpdoAt.any (fun q => decide (q.1 = p ∧ s.up < q.2 + s.get (cobj (0x800 + p) 3) * 100 * fuUs))
  p < 16 && nodeOperates s && pdoValid s 0x800 p && (activeLine s).isSome &&
    (if 254 ≤ tpdoType s p then (due || tpdoChanged s p) && !inhibited else due)

/-- The bytes of TPDO `p`. -/
def tpdoBytes (s : State) (p : Nat) : List Byte :=
  ((pdoMap s 0xA00 p).zip (tpdoSample s p)).flatMap (fun q => bytesLE (q.1.2.2 / 8) q.2)

/-- A TPDO's changes and its due mark are used up. -/
def State.tpdoSpent (s : State) (p : Nat) : State :=
  let v := tpdoSample s p
  { s with
    tpdoReady := setDel s.tpdoReady p
    net := { s.net with tpdoDue := setDel s.net.tpdoDue p, tpdoLast := tput s.net.tpdoLast p v } }

/-- A ready TPDO is sampled and sent, or dropped where the transmit queue has no place for it (R440)
(DEDUCED, log 54). -/
def State.tpdoSend (s : State) (p : Nat) (full : Bool) : State :=
  if !tpdoDueNow s p then s
  else if full then
    (s.tpdoSpent p).forAll ((List.range 2).filter (fun c => canOn s c)) (fun s c =>
      (s.inc (O.MD_CAN_TX_DROPPED c)).canHit c B.MD_CAN_EVENTS_TX_DROPPED)
  else
    let bs := tpdoBytes s p
    let s := s.tpdoSpent p
    let s := s.setNet { s.net with tpdoAt := tput s.net.tpdoAt p s.up }
    s.canSend (s.get (cobj (0x800 + p) 1)) (bs.map (·.toNat))

/-- TPDO_TRANSMIT; `full` when the places of the transmit queue that TPDOs may take are all taken (DEDUCED, log 57). -/
def execTpdoTransmit (p : Nat) (full : Bool) (t : Nat) (s : State) : Host.Outcome State Fault Refusal :=
  .next ((s.adv t).tpdoSend p full)

/-- The event timer of TPDO `p` has expired since its last sending (R439) (PRESUMED, log 52). -/
def tpdoExpired (s : State) (p : Nat) : Bool :=
  let ms := s.get (cobj (0x800 + p) 5)
  p < 16 && nodeOperates s && pdoValid s 0x800 p && decide (254 ≤ tpdoType s p ∧ ms ≠ 0)
    && !s.net.tpdoAt.any (fun q => decide (q.1 = p ∧ s.up < q.2 + ms * fuMs))

/-- A TPDO is marked as due. -/
def State.tpdoMark (s : State) (p : Nat) : State := (s.setNet { s.net with tpdoDue := setIns s.net.tpdoDue p })

/-- TPDO_EVENT_TIMER. -/
def execTpdoEventTimer (p : Nat) (full : Bool) (t : Nat) (s : State) : Host.Outcome State Fault Refusal :=
  let s := s.adv t
  if tpdoExpired s p then .next ((s.tpdoMark p).tpdoSend p full) else .next s

/-! ### SYNC and TIME -/

/-- A SYNC counts for a TPDO of type 1 to 240 (Table 16.9): counting begins at the start value where the SYNC carries a
counter, and each n-th one marks the TPDO (PRESUMED, log 53). -/
def State.tpdoSync (s : State) (counter p : Nat) : State :=
  let n := tpdoType s p
  if !pdoValid s 0x800 p ∨ 240 < n then s
  else if n = 0 then (if tpdoChanged s p then s.tpdoMark p else s)
  else
    let start := s.get (cobj (0x800 + p) 6)
    let begun := s.net.tpdoCnt.any (fun q => q.1 = p)
    if !begun ∧ start ≠ 0 ∧ s.get (cobj 0x19 0) ≠ 0 ∧ counter ≠ start then s
    else
      let c := tget 0 s.net.tpdoCnt p + 1
      let hit := decide (n ≤ c)
      let s := s.setNet { s.net with tpdoCnt := tput s.net.tpdoCnt p (if hit then 0 else c) }
      if hit then s.tpdoMark p else s

/-- SYNC drives the synchronous PDOs: RPDOs that wait are written, TPDOs are marked. -/
def State.syncPdos (s : State) (counter : Nat) : State :=
  let w := s.net.rpdoWait
  let s := s.setNet { s.net with rpdoWait := [] }
  let s := w.foldl (fun s q => pdoWrite (pdoMap s 0x600 q.1) q.2 s) s
  if nodeOperates s then s.forAll (List.range 16) (fun s p => s.tpdoSync counter p) else s

/-- SYNC is latched (R442). -/
def State.syncLatch (s : State) : State :=
  let s := s.setNet { s.net with syncAt := s.up, syncLost := false }
  (s.set O.MD_SYNC_AT s.pt).inc O.MD_SYNC_COUNT

/-- SYNC_RX, with its counter byte, 0 where it has none. -/
def execSyncRx (counter t : Nat) (s : State) : Host.Outcome State Fault Refusal :=
  .next ((s.adv t).canHeard (fun s =>
    if !nodeTalks s then s else if nodeOperates s then s.syncLatch.syncPdos counter else s.syncLatch))

/-- TIME sets the real-time clock as RTC_LOAD does, unless it is locked (R443, R490)
(DESIGN CHOICE, log 59; DEDUCED, log 17). -/
def State.timeRtc (s : State) (ms days : Nat) : State :=
  if !bitOf (s.get O.MD_NET_CONFIG) 1 ∨ rtcLocked s then s
  else (s.adv (rtcEdge s)).rtcSet (days * 86400 + ms / 1000) 0

/-- TIME_RX: the ms after midnight and the days of the message (R443). -/
def execTimeRx (ms days t : Nat) (s : State) : Host.Outcome State Fault Refusal :=
  .next ((s.adv t).canHeard (fun s =>
    if !nodeTalks s ∨ !bitOf (s.get (cobj 0x12 0)) 31 then s
    else
      let ms := trunc 28 ms
      (((s.set O.MD_TIME_MS ms).set O.MD_TIME_DAYS days).set O.MD_TIME_AT s.pt).timeRtc ms (trunc 16 days)))

end Sys2Proof.Machine
end

