-- ==== Sys2Proof/Machine/Inject.lean ====
section
/-! DEFINITION. An armed injection forces an occurrence of its detector (R533 to R538, Table 20.1): the detector's own
operation runs on the unit of FI_UNIT, as on a real occurrence. -/
namespace Sys2Proof.Machine

/-- The state a meaning leaves. -/
def leaves (o : Host.Outcome State Fault Refusal) (s : State) : State :=
  match o with
  | .next s => s
  | _ => s

/-- A STATUS of the head of port `n` with its flags as they were but for those named. -/
def State.forceStatus (s : State) (n set clr : Nat) : State :=
  leaves (execStatusRx n (s.get (O.HP_EPOCH n)) (andW (orW (s.get (O.HP_HEAD_FLAGS n)) set) (notW 10 clr)) s.up s) s

/-- Points 0 to 11, 17 to 20: clocks, ring, intake and band store. `a` is an address, a channel set or a port, `b` a cause
or a lane. -/
def forceA (point u a b : Nat) (s : State) : State :=
  match point with
  | 0 => leaves (execRefLoss s.up s) s
  | 1 => if s.clk.holdSince.isSome then (s.setClk { s.clk with holdSince := none }).clockInhibitOn B.CK_EVENTS_HOLDOVER_EXPIRED true else s
  | 2 => leaves (execPllUnlock s.up s) s
  | 3 => leaves (execDivFault s.up s) s
  | 4 => leaves (execPcieRefLoss s.up s) s
  | 5 => leaves (execRtcXtalLoss s.up s) s
  | 6 => leaves (execDelayLineCalDone u [] s.up s) s
  | 7 => leaves (execCellRxError s.up s) s
  | 8 => leaves (execRingInputDown s.up s) s
  | 9 => if s.ring.echoAt.isSome then s.echoMissed else s
  | 10 => if s.ring.timeAt.isSome then s.holdoverEnter else s
  | 11 => if s.bit O.FJ_CONTROL B.FJ_CONTROL_ECHO_EN then s.fjHit B.FJ_EVENTS_HOP_DELAY_RANGE 542 1 else s
  | 17 => leaves (execIntakeReadFail a b s) s
  | 18 => leaves (execSlotFetchError a b s) s
  | 19 => if b < 96 then s.unpackLine b 2 a else if a < bandBytes s then s.bsEcc 2 a else s
  | 20 => leaves (execBsTrainDone false a s) s
  | _ => s

/-- Points 12 to 16: position interfaces; `a` is a pair. -/
def forceB (point u a : Nat) (s : State) : State :=
  match point with
  | 12 => s.piGlitch u
  | 13 => if piCounts s u then s.fastEdge u else s
  | 14 => if piCounts s u then s.piError u else s
  | 15 => if piCounts s u ∧ piMode s u = 2 then s.hallInvalid u else s
  | 16 => if wireChecked s u a && piRuns s u then s.wireEpisode u else s
  | _ => s

/-- A tile of the plane that port `a`'s lane decodes is out of format, with error `b` of Table 5.14. -/
def State.forceFormat (s : State) (plane a b : Nat) : State :=
  let lane := s.lane a
  match lane.serves with
  | none => s
  | some (j, i) => match bandAt s j lane.ord with
    | none => s
    | some bd =>
      let t := stripeAt s j i
      let p := planeAt s j plane
      let row := (if p.res then lane.li / 2 else lane.li) / 16
      if t.plane ≠ plane ∨ laneDone s a j ∨ (s.job j).bad.contains (plane, bd, lane.rep) ∨ planeFailed s j plane then s
      else s.formatError j plane bd lane.rep b (row * ((p.width + 255) / 256) + t.first / 256)

/-- The band of the next line is late at port `n`. -/
def State.forceLate (s : State) (n : Nat) : State :=
  match nextLine s n with
  | none => s
  | some l => if l.gap ∨ (s.lane n).lateDone.contains (l.band, l.rep) then s else s.bandLate n l.job l.stripe l.band l.rep

/-- The next line is absent from the Lodging of port `n`. -/
def State.forceAbsent (s : State) (n : Nat) : State :=
  match nextLine s n with
  | none => s
  | some l =>
    let x := { s.lodge n with lines := (s.lodge n).lines.filter (fun y => decide (y.key ≠ l.key)) }
    let s' := (s.setLodge n x).releaseLine n 0
    if s'.get (O.LG_BLANKS n) = s.get (O.LG_BLANKS n) then s else s'

/-- Points 21 to 31 and 79: planes, lines and links; `a` is a port or an LSEQ, `b` an error or a reason. -/
def forceC (point u a b : Nat) (s : State) : State :=
  match point with
  | 21 => s.forceFormat u a b
  | 22 => s.forceLate u
  | 23 => if (s.lodge u).lines = [] then s else s.releaseLine u 2
  | 24 => s.forceAbsent u
  | 25 => s.releaseLine u 0 true
  | 26 => if predMode s u = 1 ∧ !s.bit (O.TT_PRED_STATUS u) B.TT_PRED_STATUS_STALLED
      then (s.predStallNow u).predUpdate u else s
  | 27 => if (outstanding s u a).isSome then leaves (execNakRx u (s.get (O.HP_EPOCH u)) a b s.up s) s else s
  | 28 => leaves (execRetError u s.up s) s
  | 29 => s.headSilent u
  | 30 => if linkUp s u then s.forceStatus u 256 0 else s
  | 31 => if linkUp s u then s.forceStatus u 16 0 else s
  | 79 => if linkUp s u then s.forceStatus u 0 7 else s
  | _ => s

/-- A group's conversion of `a` in 1/16 mV, which must put k out of range or the voltage too high. -/
def State.forceReading (s : State) (g a : Nat) : State :=
  let s' := s.pgResult g a
  if groupState s g = 2 ∧ !kIn (s'.pg g).k then s' else s

/-- A group stands above SU_PG_VHIGH for its second conversion, of `a` mV. -/
def State.forceOver (s : State) (g a : Nat) : State :=
  let lim := s.get (O.SU_PG_VHIGH g)
  if lim ≠ 0 ∧ lim < a then (s.setPg g { s.pg g with beyond := 1 }).pgOver g a else s

/-- The next heater reading of port `n` is `a` in 1/16 mV, out of range. -/
def State.forceHeater (s : State) (n a : Nat) : State :=
  let k := rollNext s n
  let r := (s.resistance n a).1
  if rollRuns s n ∧ k.1 = .heater ∧ (classify s n a r = .open' ∨ classify s n a r = .short) then
    s.heaterResult n k.2 a true
  else s

/-- Points 32 to 42: groups and head health; `a` is a reading (DEDUCED, log 80). -/
def forceD (point u a : Nat) (s : State) : State :=
  match point with
  | 32 => s.forceReading u a
  | 33 => (s.setPg u { s.pg u with convAt := none }).pgStale u
  | 34 => if groupState s u = 1 then s.pgFault u 0 else s
  | 35 => s.forceOver u a
  | 36 => s.forceHeater u a
  | 37 => if linkUp s u ∧ !snsFault s u then s.refResult u 0 else s
  | 38 => if linkUp s u ∧ !snsFault s u then s.tempResult u 0 else s
  | 39 => s.tempStale u
  | 40 => if linkUp s u then s.forceStatus u 64 0 else s
  | 41 => if s.bit (O.HP_HEALTH_STATUS u) B.HP_HEALTH_STATUS_REC_BUSY then s.recFail u else s
  | 42 => if s.mode = mdPrint then s else s.loseStripes u 0
  | _ => s

/-- The calibration of converter `c` fails. -/
def State.forceCal (s : State) (c : Nat) : State :=
  match (s.sconv c).grant with
  | some g => if g.req.what = .cal then ((s.setGrant c none).calPoint c { g with bad := true }).senseGrant else s
  | none => s

/-- The grant of converter `c`, of class `k`, reaches its limit. -/
def State.forceCut (s : State) (k c : Nat) : State :=
  match (s.sconv c).grant with
  | some g => if g.req.cls = k then s.holdCut c g else s
  | none => s

/-- Points 43 to 48: the sense bank; `a` is a converter, `b` a sum of bandgap codes. -/
def forceE (point u a b : Nat) (s : State) : State :=
  match point with
  | 43 => if (s.sconv u).grant.isSome then s.convLate u else s
  | 44 => s.forceCal u
  | 45 => s.forceCut u a
  | 46 => leaves (execRefFault s.up s) s
  | 47 => let s' := s.bandgapCheck a b; if a < 16 ∧ !convRetired s a ∧ (s'.sconv a).mism then s' else s
  | 48 => (match s.flash.cur with
    | some c => if c.host then s else leaves (execQspiOpDone 1 s.up s) s
    | none => s)
  | _ => s

/-- The Hall code of a brushless stage is invalid (R405). -/
def State.forceHall (s : State) (a : Nat) : State :=
  if (axisHall s a).isNone ∨ axisState s a = 0 ∨ (s.ds a).badHall then s
  else ((s.setDs a { s.ds a with badHall := true }).hit (O.DS_EVENTS a) B.DS_EVENTS_HALL_INVALID (520 + a)).bdSync a

/-- Points 49 to 55: axes and stages; `a` is a phase (DEDUCED, log 80). -/
def forceF (point u a : Nat) (s : State) : State :=
  match point with
  | 49 => if s.get (O.AX_FOLLOW_LIMIT u) ≠ 0 ∧ 1 ≤ axisState s u ∧ axisState s u ≤ 3 then s.followOut u else s
  | 50 => leaves (execFltGlitch u ⟨s.up, s.up⟩ s) s
  | 51 => leaves (execOcTrip u a ⟨500001, s.up⟩ s) s
  | 52 => if u < 16 ∧ !outputsOff s u then s.stageFault u B.DS_EVENTS_OPEN_PHASE else s
  | 53 => if stepping s u then s.lagOut u else s
  | 54 => s.forceHall u
  | 55 => if limited s u then s.overLimit u else s
  | _ => s

/-- Points 56 to 61: the network. -/
def forceG (point u : Nat) (s : State) : State :=
  match point with
  | 56 => if canOn s u then s.busOff u else s
  | 57 => if canOn s u then s.rxOverrun u else s
  | 58 => if nodeRuns s && s.net.hbRx.any (fun p => p.1 = u) && !s.net.hbLost.contains u then s.hbLoss u else s
  | 59 => if nodeRuns s && s.net.rpdoAt.any (fun p => p.1 = u) then s.rpdoLate u else s
  | 60 => if nodeTalks s && !s.net.syncLost && decide (s.get (cobj 6 0) ≠ 0) then s.syncLoss else s
  | 61 => if s.net.sess.any (fun p => p.1 = u) then s.sessTimeout u else s
  | _ => s

/-- The bus is above its limit for its second conversion, of `a` mV. -/
def State.forceSurge (s : State) (a : Nat) : State :=
  let v := toSigned 16 a
  if !suBit s (highBit 0) ∧ s.getI (O.SU_HIGH 0) < v then (s.setSupply { s.supply with beyond := 1 }).surge v else s

/-- Points 62 to 71: supply, die, interlock and cell; `a` is a reading in mV, or LOW 0 or HIGH 1 of a rail, `b` its
reading (DEDUCED, log 80). -/
def forceH (point u a b : Nat) (s : State) : State :=
  match point with
  | 62 => leaves (execBusWarnTrip s.up s) s
  | 63 => s.resetEvent 3
  | 64 => s.forceSurge a
  | 65 => if suBit s B.SU_STATUS_DRIFT then s
      else ((s.suPut B.SU_STATUS_DRIFT true).suHit B.SU_EVENTS_DRIFT 1).journal 4 (jdata [(0, s.get O.SU_BUS_MEAN), (2, 1)])
  | 66 => ((s.railChange u (a % 2) true (toSigned 16 b)).curfewSync).highSync
  | 67 => s.dieShut
  | 68 => leaves (execDieTrip s.up s) s
  | 69 => leaves (execFireInhibitAssert s.up s) s
  | 70 => leaves (execCellRemoved s.up s) s
  | 71 => s.chargeLate
  | _ => s

/-- Row `r` of the OTP is found weak (R518, Table 20.1). -/
def State.forceWeak (s : State) (r : Nat) : State :=
  let o := O.OT_WEAK_MAP (r / 32)
  if s.bit o (r % 32) then s
  else
    let s := ((s.setB o (r % 32) true).inc O.OT_WEAK_COUNT).setB O.OT_STATUS B.OT_STATUS_WEAK true
    let s := (s.journal 0x11 (jdata [(0, r), (2, s.get O.OT_WEAK_COUNT)])).btHit O.OT_EVENTS B.OT_EVENTS_OTP_WEAK
    if (writeLocked s (regionOf r) || !stateBurns (s.get O.OT_LC_STATE) (regionOf r)) && !s.bit O.OT_STATUS B.OT_STATUS_WEAK_PERM then
      (s.setB O.OT_STATUS B.OT_STATUS_WEAK_PERM true).btHit O.OT_EVENTS B.OT_EVENTS_OTP_WEAK_PERM 1
    else s

/-- The CRC of region `k` does not match. -/
def State.forceCrc (s : State) (k : Nat) : State :=
  let bad := s.fld O.OT_STATUS B.OT_STATUS_CRC_BAD
  if bitOf bad k then s
  else (s.setF O.OT_STATUS B.OT_STATUS_CRC_BAD (putBit bad k true)).btHit O.OT_EVENTS B.OT_EVENTS_CRC_BAD 1

/-- Points 72 to 78: OTP, boot, flash, watchdog, event buffer and DMA; `a` is a cause or a code, `b` a direction
(DEDUCED, log 80). -/
def forceI (point u a b : Nat) (s : State) : State :=
  match point with
  | 72 => s.forceWeak u
  | 73 => s.forceCrc u
  | 74 => s.rejectImage a 0
  | 75 => (match s.flash.cur with
    | some c => if c.host && decide (c.op = 2) then leaves (execQspiOpDone 2 s.up s) s else s
    | none => s)
  | 76 => if s.get O.BT_WDT_PERIOD ≠ 0 then s.resetEvent 7 else s
  | 77 => (s.inc O.EV_LOST).setB O.EV_EVENTS B.EV_EVENTS_BUF_OVERFLOW true
  | 78 => leaves (execDmaAccessFail u 0 a (decide (b = 1)) [] s.up s) s
  | _ => s

/-- The input condition of a point is forced once (DESIGN CHOICE, log 79). -/
def State.force (s : State) (point u a b : Nat) : State :=
  if point ≤ 11 ∨ (17 ≤ point ∧ point ≤ 20) then forceA point u a b s
  else if point ≤ 16 then forceB point u a s
  else if point ≤ 31 ∨ point = 79 then forceC point u a b s
  else if point ≤ 42 then forceD point u a s
  else if point ≤ 48 then forceE point u a b s
  else if point ≤ 55 then forceF point u a s
  else if point ≤ 61 then forceG point u s
  else if point ≤ 71 then forceH point u a b s
  else forceI point u a b s

/-- Occurrences in the buffer beyond the first `n` are injected ones (R537). -/
def State.markInjected (s : State) (n : Nat) : State :=
  s.setEvs { s.evs with buf := s.evs.buf.zipIdx.map (fun p => if n ≤ p.2 then { p.1 with inj := true } else p.1) }

/-- Occurrences the injection may still force: one in ONCE, FI_COUNT in COUNT; in HOLD there is no end (R533). -/
def fiLeft (s : State) : Bool :=
  match fiMode s with
  | 1 => decide (s.fi.forced < 1)
  | 2 => decide (s.fi.forced < s.get O.FI_COUNT)
  | _ => true

/-- The injection is armed and its time has come: FI_AT for the first occurrence, FI_SPACING µs for a further one in COUNT. -/
def fiDue (s : State) : Bool :=
  fiBit s B.FI_STATUS_ARMED && fiLeft s && (decide (s.get O.FI_AT = 0) || ptLe (s.get O.FI_AT) s.pt || decide (0 < s.fi.forced))
    && decide (s.fi.forced = 0 ∨ fiMode s ≠ 2 ∨ s.fi.lastAt + s.get O.FI_SPACING * fuUs ≤ s.up)

/-- The first occurrence sets ACTIVE and raises EV569 (R534) (DEDUCED, log 81). -/
def State.fiActive (s : State) : State :=
  if fiBit s B.FI_STATUS_ACTIVE then s
  else
    let s := (s.setB O.FI_STATUS B.FI_STATUS_ACTIVE true).setB O.FI_STATUS B.FI_STATUS_HOLDING (decide (fiMode s = 3))
    s.raise 569 0 (detailOf O.FI_STATUS B.FI_STATUS_ACTIVE)

/-- The end sets DONE and raises EV569 (R534) (DEDUCED, log 81). -/
def State.fiEnd (s : State) : State :=
  if fiBit s B.FI_STATUS_ARMED && !fiLeft s then
    (s.fiOver B.FI_EVENTS_DONE).raise 569 0 (detailOf O.FI_EVENTS B.FI_EVENTS_DONE)
  else s

/-- One occurrence is forced, or coincides with a real one and only counts as that (R538) (DESIGN CHOICE, log 79). -/
def State.fiForce (s : State) (a b : Nat) (real : Bool) : State :=
  let s1 := { s.fiActive with fi := { forced := s.fi.forced + 1, lastAt := s.up } }
  if real then ((s1.inc O.FI_COLLIDED).setB O.FI_EVENTS B.FI_EVENTS_COLLIDED true).fiEnd
  else
    let s1 := s1.inc O.FI_HITS
    ((s1.force (fiPoint s) (fiUnit s) a b).markInjected s1.evs.buf.length).fiEnd

/-- FI_INJECT: at an opportunity of its detector an armed injection forces one occurrence. `a` and `b` say what the
opportunity brings (the frame's LSEQ, the address read, the reading); `real` when a real occurrence falls on the same
detector and unit in the same cycle. Where the detector has no such opportunity nothing is forced
(DESIGN CHOICE, log 79). -/
def execFiInject (a b : Nat) (real : Bool) (t : Nat) (s : State) : Host.Outcome State Fault Refusal :=
  let s := s.adv t
  if !fiDue s then .next s
  else if !real ∧ s.force (fiPoint s) (fiUnit s) a b = s then .next s
  else .next (s.fiForce a b real)

end Sys2Proof.Machine
end

