-- ==== Sys2Proof/Machine/Dispatch.lean ====
section
/-! DEFINITION. The dispatch: one arm for each command, each a direct call of its meaning. -/
namespace Sys2Proof.Machine

def exec (i : Instr) (s : State) : Host.Outcome State Fault Refusal :=
  match i with
  | .dictWrite p full index sub w => Sys2Proof.Machine.execDictWrite p full index sub w s
  | .rcReadClear p form index sub => Sys2Proof.Machine.execRcReadClear p form index sub s
  | .clrViewWrite p view full index sub w => Sys2Proof.Machine.execClrViewWrite p view full index sub w s
  | .dictRead64 p full index sub => Sys2Proof.Machine.execDictRead64 p full index sub s
  | .dictWrite64 p full index sub w => Sys2Proof.Machine.execDictWrite64 p full index sub w s
  | .pllLock straps t => Sys2Proof.Machine.execPllLock straps t s
  | .ckPtLoad p v => Sys2Proof.Machine.execCkPtLoad p v s
  | .ckSnapshot p v => Sys2Proof.Machine.execCkSnapshot p v s
  | .clrInhibit p => Sys2Proof.Machine.execClrInhibit p s
  | .dlFreeze p on => Sys2Proof.Machine.execDlFreeze p on s
  | .refLoss t => Sys2Proof.Machine.execRefLoss t s
  | .refReturn t => Sys2Proof.Machine.execRefReturn t s
  | .holdoverExpired t => Sys2Proof.Machine.execHoldoverExpired t s
  | .pllUnlock t => Sys2Proof.Machine.execPllUnlock t s
  | .divFault t => Sys2Proof.Machine.execDivFault t s
  | .lockLossTimeout t => Sys2Proof.Machine.execLockLossTimeout t s
  | .pcieRefLoss t => Sys2Proof.Machine.execPcieRefLoss t s
  | .rtcXtalLoss t => Sys2Proof.Machine.execRtcXtalLoss t s
  | .ringInputUp t => Sys2Proof.Machine.execRingInputUp t s
  | .ringInputDown t => Sys2Proof.Machine.execRingInputDown t s
  | .electionStart t => Sys2Proof.Machine.execElectionStart t s
  | .reform p => Sys2Proof.Machine.execReform p s
  | .electCellRx src hops seq uid priority flags t => Sys2Proof.Machine.execElectCellRx src hops seq uid priority flags t s
  | .enumCellRx src hops seq master next passive t => Sys2Proof.Machine.execEnumCellRx src hops seq master next passive t s
  | .rosterCellRx src hops seq master size passive formedAt loop t => Sys2Proof.Machine.execRosterCellRx src hops seq master size passive formedAt loop t s
  | .timeCellLaunch t => Sys2Proof.Machine.execTimeCellLaunch t s
  | .timeCellRx src hops seq origin corr tseq flags size arr launch t => Sys2Proof.Machine.execTimeCellRx src hops seq origin corr tseq flags size arr launch t s
  | .ringHoldoverEnter t => Sys2Proof.Machine.execRingHoldoverEnter t s
  | .ringHoldoverExpiry t => Sys2Proof.Machine.execRingHoldoverExpiry t s
  | .ringBreakDetect t => Sys2Proof.Machine.execRingBreakDetect t s
  | .echoLaunch t => Sys2Proof.Machine.execEchoLaunch t s
  | .echoCellRx t => Sys2Proof.Machine.execEchoCellRx t s
  | .echoMarkRx t2 t => Sys2Proof.Machine.execEchoMarkRx t2 t s
  | .echoTimeout t => Sys2Proof.Machine.execEchoTimeout t s
  | .cellRxError t => Sys2Proof.Machine.execCellRxError t s
  | .actionCellRx src hops seq phase ticket accept refuse cause kind trigger when' arg t => Sys2Proof.Machine.execActionCellRx src hops seq phase ticket accept refuse cause kind trigger when' arg t s
  | .slowCellRx src hops seq assert source unit raised t => Sys2Proof.Machine.execSlowCellRx src hops seq assert source unit raised t s
  | .slowCellRepeat t => Sys2Proof.Machine.execSlowCellRepeat t s
  | .slowRxExpiry k t => Sys2Proof.Machine.execSlowRxExpiry k t s
  | .faultCellRx src hops seq ev cls raised detail t => Sys2Proof.Machine.execFaultCellRx src hops seq ev cls raised detail t s
  | .actionFieldWrite p e sub v => Sys2Proof.Machine.execActionFieldWrite p e sub v s
  | .actionEnterLocal p e => Sys2Proof.Machine.execActionEnterLocal p e s
  | .actionEnterRing p e => Sys2Proof.Machine.execActionEnterRing p e s
  | .actionCancel p e => Sys2Proof.Machine.execActionCancel p e s
  | .proposeTimeout e t => Sys2Proof.Machine.execProposeTimeout e t s
  | .reservedExpiry e t => Sys2Proof.Machine.execReservedExpiry e t s
  | .actionTrigger e t => Sys2Proof.Machine.execActionTrigger e t s
  | .piEdgeCounted k ab e t => Sys2Proof.Machine.execPiEdgeCounted k ab e t s
  | .piHallChange k code e t => Sys2Proof.Machine.execPiHallChange k code e t s
  | .piGlitch k x => Sys2Proof.Machine.execPiGlitch k x s
  | .piZEdge k level z t => Sys2Proof.Machine.execPiZEdge k level z t s
  | .piWireDisagree k pair x => Sys2Proof.Machine.execPiWireDisagree k pair x s
  | .piInvalidHall k t => Sys2Proof.Machine.execPiInvalidHall k t s
  | .piSpeedUpdate k t => Sys2Proof.Machine.execPiSpeedUpdate k t s
  | .piStopped k t => Sys2Proof.Machine.execPiStopped k t s
  | .piCountWrite p k v => Sys2Proof.Machine.execPiCountWrite p k v s
  | .piConfigWrite p k v => Sys2Proof.Machine.execPiConfigWrite p k v s
  | .clrFault p k => Sys2Proof.Machine.execClrFault p k s
  | .clrUncertain p k => Sys2Proof.Machine.execClrUncertain p k s
  | .msEnable p m v => Sys2Proof.Machine.execMsEnable p m v s
  | .msDisable p m v => Sys2Proof.Machine.execMsDisable p m v s
  | .relayPulseEnd a pair t => Sys2Proof.Machine.execRelayPulseEnd a pair t s
  | .inTailWrite p v => Sys2Proof.Machine.execInTailWrite p v s
  | .inRun p v => Sys2Proof.Machine.execInRun p v s
  | .waybillSlotRead bytes => Sys2Proof.Machine.execWaybillSlotRead bytes s
  | .slotFetchError addr cause => Sys2Proof.Machine.execSlotFetchError addr cause s
  | .jobOpen => Sys2Proof.Machine.execJobOpen s
  | .jobTableReadDone bytes => Sys2Proof.Machine.execJobTableReadDone bytes s
  | .band => Sys2Proof.Machine.execBand s
  | .bandCopyDone bytes => Sys2Proof.Machine.execBandCopyDone bytes s
  | .intakeReadFail addr cause => Sys2Proof.Machine.execIntakeReadFail addr cause s
  | .jobClose => Sys2Proof.Machine.execJobClose s
  | .repeatJob => Sys2Proof.Machine.execRepeatJob s
  | .nop => Sys2Proof.Machine.execNop s
  | .release => Sys2Proof.Machine.execRelease s
  | .waitJobEnd => Sys2Proof.Machine.execWaitJobEnd s
  | .waitSpaceEnd => Sys2Proof.Machine.execWaitSpaceEnd s
  | .resume p => Sys2Proof.Machine.execResume p s
  | .skip p => Sys2Proof.Machine.execSkip p s
  | .inJobAbort p v => Sys2Proof.Machine.execInJobAbort p v s
  | .jobEnterRunning => Sys2Proof.Machine.execJobEnterRunning s
  | .pauseStep t => Sys2Proof.Machine.execPauseStep t s
  | .bsTrainDone ok channels => Sys2Proof.Machine.execBsTrainDone ok channels s
  | .bar2Access write x bytes n ecc => Sys2Proof.Machine.execBar2Access write x bytes n ecc s
  | .unpackerLine n ecc addr => Sys2Proof.Machine.execUnpackerLine n ecc addr s
  | .screenLine n => Sys2Proof.Machine.execScreenLine n s
  | .scrCommitLine p n => Sys2Proof.Machine.execScrCommitLine p n s
  | .scrCommitBand p n => Sys2Proof.Machine.execScrCommitBand p n s
  | .scrCopyDone n => Sys2Proof.Machine.execScrCopyDone n s
  | .scrMaskCmdMask p n v => Sys2Proof.Machine.execScrMaskCmdMask p n v s
  | .scrMaskCmdUnmask p n v => Sys2Proof.Machine.execScrMaskCmdUnmask p n v s
  | .scrCompWrite p n e v => Sys2Proof.Machine.execScrCompWrite p n e v s
  | .lodgeLine n => Sys2Proof.Machine.execLodgeLine n s
  | .lineRelease n t ecc => Sys2Proof.Machine.execLineRelease n t ecc s
  | .slowHoldExpiry n t => Sys2Proof.Machine.execSlowHoldExpiry n t s
  | .lgSlowHost p v => Sys2Proof.Machine.execLgSlowHost p v s
  | .lgControl p n v => Sys2Proof.Machine.execLgControl p n v s
  | .lineFix n t => Sys2Proof.Machine.execLineFix n t s
  | .predStall k t => Sys2Proof.Machine.execPredStall k t s
  | .rotationStart n t => Sys2Proof.Machine.execRotationStart n t s
  | .rotationEnd n t => Sys2Proof.Machine.execRotationEnd n t s
  | .arm p n => Sys2Proof.Machine.execArm p n s
  | .disarm p n => Sys2Proof.Machine.execDisarm p n s
  | .ttControl p n v => Sys2Proof.Machine.execTtControl p n v s
  | .offsetWrite p n rev v => Sys2Proof.Machine.execOffsetWrite p n rev v s
  | .bringup p n v => Sys2Proof.Machine.execBringup p n v s
  | .retire p n v => Sys2Proof.Machine.execRetire p n v s
  | .clrRetire p n v => Sys2Proof.Machine.execClrRetire p n v s
  | .lineFrameSend n t => Sys2Proof.Machine.execLineFrameSend n t s
  | .ackRx n epoch lseq t => Sys2Proof.Machine.execAckRx n epoch lseq t s
  | .nakRx n epoch lseq reason t => Sys2Proof.Machine.execNakRx n epoch lseq reason t s
  | .ackTimeout n lseq t => Sys2Proof.Machine.execAckTimeout n lseq t s
  | .readDataRx n epoch tag data t => Sys2Proof.Machine.execReadDataRx n epoch tag data t s
  | .writeDoneRx n epoch tag result t => Sys2Proof.Machine.execWriteDoneRx n epoch tag result t s
  | .statusRx n epoch flags t => Sys2Proof.Machine.execStatusRx n epoch flags t s
  | .trainResultRx n epoch tag e0 e1 t => Sys2Proof.Machine.execTrainResultRx n epoch tag e0 e1 t s
  | .cmdDoneRx n epoch tag result t => Sys2Proof.Machine.execCmdDoneRx n epoch tag result t s
  | .retError n t => Sys2Proof.Machine.execRetError n t s
  | .cmdTimeout n t => Sys2Proof.Machine.execCmdTimeout n t s
  | .headSilent n t => Sys2Proof.Machine.execHeadSilent n t s
  | .hpRcRead p n => Sys2Proof.Machine.execHpRcRead p n s
  | .hpRcWrite p n => Sys2Proof.Machine.execHpRcWrite p n s
  | .lineLatch n t => Sys2Proof.Machine.execLineLatch n t s
  | .hpPtCommitLine p n => Sys2Proof.Machine.execHpPtCommitLine p n s
  | .hpPtCommitBand p n => Sys2Proof.Machine.execHpPtCommitBand p n s
  | .pgConversionDue g t => Sys2Proof.Machine.execPgConversionDue g t s
  | .pgVStale g t => Sys2Proof.Machine.execPgVStale g t s
  | .pgClampTimeout g t => Sys2Proof.Machine.execPgClampTimeout g t s
  | .pgRampTimeout g t => Sys2Proof.Machine.execPgRampTimeout g t s
  | .hpenOff g t => Sys2Proof.Machine.execHpenOff g t s
  | .pgEnable p g on => Sys2Proof.Machine.execPgEnable p g on s
  | .pgClrFault p g v => Sys2Proof.Machine.execPgClrFault p g v s
  | .pgClrStats p g v => Sys2Proof.Machine.execPgClrStats p g v s
  | .warmPulseDue n t => Sys2Proof.Machine.execWarmPulseDue n t s
  | .rollIdleDue n t => Sys2Proof.Machine.execRollIdleDue n t s
  | .tempReadingDue n t => Sys2Proof.Machine.execTempReadingDue n t s
  | .tempAgeExpiry n t => Sys2Proof.Machine.execTempAgeExpiry n t s
  | .clrBroken p n v u => Sys2Proof.Machine.execClrBroken p n v u s
  | .clrSnsFault p n v u => Sys2Proof.Machine.execClrSnsFault p n v u s
  | .hpRankSet p n v => Sys2Proof.Machine.execHpRankSet p n v s
  | .recWriteRequest p n => Sys2Proof.Machine.execRecWriteRequest p n s
  | .recWriteCancel p n => Sys2Proof.Machine.execRecWriteCancel p n s
  | .recWriteStart n t => Sys2Proof.Machine.execRecWriteStart n t s
  | .hpTwinWrite p n v => Sys2Proof.Machine.execHpTwinWrite p n v s
  | .twinTakeOver p n => Sys2Proof.Machine.execTwinTakeOver p n s
  | .twinHandBack p n => Sys2Proof.Machine.execTwinHandBack p n s
  | .senseConversionDone c code t => Sys2Proof.Machine.execSenseConversionDone c code t s
  | .senseDeadline t => Sys2Proof.Machine.execSenseDeadline t s
  | .senseHoldCut c t => Sys2Proof.Machine.execSenseHoldCut c t s
  | .senseConvTimeout c t => Sys2Proof.Machine.execSenseConvTimeout c t s
  | .refFault t => Sys2Proof.Machine.execRefFault t s
  | .refFaultClear t => Sys2Proof.Machine.execRefFaultClear t s
  | .dieReadingDue t => Sys2Proof.Machine.execDieReadingDue t s
  | .calStart p => Sys2Proof.Machine.execCalStart p s
  | .delayLineCalDone k sums t => Sys2Proof.Machine.execDelayLineCalDone k sums t s
  | .sbStoreSave p => Sys2Proof.Machine.execSbStoreSave p s
  | .sbStoreLoad p => Sys2Proof.Machine.execSbStoreLoad p s
  | .sbHostCmd p v => Sys2Proof.Machine.execSbHostCmd p v s
  | .clrRetired p => Sys2Proof.Machine.execClrRetired p s
  | .sbClrStats p => Sys2Proof.Machine.execSbClrStats p s
  | .mtStart p k => Sys2Proof.Machine.execMtStart p k s
  | .mtAbort p k => Sys2Proof.Machine.execMtAbort p k s
  | .spitRotationDue k n t => Sys2Proof.Machine.execSpitRotationDue k n t s
  | .mtDwellExpiry k t => Sys2Proof.Machine.execMtDwellExpiry k t s
  | .mtCappedClr p v => Sys2Proof.Machine.execMtCappedClr p v s
  | .axEnable p a flt => Sys2Proof.Machine.execAxEnable p a flt s
  | .axStopDisable p a => Sys2Proof.Machine.execAxStopDisable p a s
  | .axDecelStop p a => Sys2Proof.Machine.execAxDecelStop p a s
  | .axHalt p a => Sys2Proof.Machine.execAxHalt p a s
  | .axClearHalt p a flt => Sys2Proof.Machine.execAxClearHalt p a flt s
  | .axClearUncertain p a => Sys2Proof.Machine.execAxClearUncertain p a s
  | .axMvPush p a => Sys2Proof.Machine.execAxMvPush p a s
  | .axPosWrite p a v => Sys2Proof.Machine.execAxPosWrite p a v s
  | .profileStep t => Sys2Proof.Machine.execProfileStep t s
  | .bdLoopCycle t => Sys2Proof.Machine.execBdLoopCycle t s
  | .followErrorTimeout a t => Sys2Proof.Machine.execFollowErrorTimeout a t s
  | .axIgEnable p g => Sys2Proof.Machine.execAxIgEnable p g s
  | .axIgRelease p g => Sys2Proof.Machine.execAxIgRelease p g s
  | .axIgStop p g => Sys2Proof.Machine.execAxIgStop p g s
  | .axIgHalt p g => Sys2Proof.Machine.execAxIgHalt p g s
  | .axIgPush p g => Sys2Proof.Machine.execAxIgPush p g s
  | .chopTrip a ph x => Sys2Proof.Machine.execChopTrip a ph x s
  | .chopOfftimeEnd a ph t => Sys2Proof.Machine.execChopOfftimeEnd a ph t s
  | .pwmPeriodStart a t => Sys2Proof.Machine.execPwmPeriodStart a t s
  | .holdDelayExpiry a t => Sys2Proof.Machine.execHoldDelayExpiry a t s
  | .bridgeFault a x => Sys2Proof.Machine.execBridgeFault a x s
  | .fltGlitch a x => Sys2Proof.Machine.execFltGlitch a x s
  | .ocTrip a ph x => Sys2Proof.Machine.execOcTrip a ph x s
  | .openPhase a ph t => Sys2Proof.Machine.execOpenPhase a ph t s
  | .stepLagTimeout a t => Sys2Proof.Machine.execStepLagTimeout a t s
  | .monConversionDue a t => Sys2Proof.Machine.execMonConversionDue a t s
  | .nmtStart t => Sys2Proof.Machine.execNmtStart t s
  | .nmtStop t => Sys2Proof.Machine.execNmtStop t s
  | .nmtEnterPreOperational t => Sys2Proof.Machine.execNmtEnterPreOperational t s
  | .nmtResetNode t => Sys2Proof.Machine.execNmtResetNode t s
  | .nmtResetCommunication t => Sys2Proof.Machine.execNmtResetCommunication t s
  | .heartbeatProduce t => Sys2Proof.Machine.execHeartbeatProduce t s
  | .heartbeatRx node t => Sys2Proof.Machine.execHeartbeatRx node t s
  | .heartbeatLoss k t => Sys2Proof.Machine.execHeartbeatLoss k t s
  | .usdoDownloadInit client svc index sub sized size data last t => Sys2Proof.Machine.execUsdoDownloadInit client svc index sub sized size data last t s
  | .usdoDownloadSegment client toggle data last t => Sys2Proof.Machine.execUsdoDownloadSegment client toggle data last t s
  | .usdoUploadInit client svc index sub memErr t => Sys2Proof.Machine.execUsdoUploadInit client svc index sub memErr t s
  | .usdoUploadSegment client toggle memErr t => Sys2Proof.Machine.execUsdoUploadSegment client toggle memErr t s
  | .usdoTimeout k t => Sys2Proof.Machine.execUsdoTimeout k t s
  | .rpdoRx p bytes t => Sys2Proof.Machine.execRpdoRx p bytes t s
  | .rpdoTimeout p t => Sys2Proof.Machine.execRpdoTimeout p t s
  | .tpdoTransmit p full t => Sys2Proof.Machine.execTpdoTransmit p full t s
  | .tpdoEventTimer p full t => Sys2Proof.Machine.execTpdoEventTimer p full t s
  | .syncRx counter t => Sys2Proof.Machine.execSyncRx counter t s
  | .syncTimeout t => Sys2Proof.Machine.execSyncTimeout t s
  | .timeRx ms days t => Sys2Proof.Machine.execTimeRx ms days t s
  | .emcySend t => Sys2Proof.Machine.execEmcySend t s
  | .emcyHistoryClear p => Sys2Proof.Machine.execEmcyHistoryClear p s
  | .canBusOff c tec rec' t => Sys2Proof.Machine.execCanBusOff c tec rec' t s
  | .canBusRecovered c t => Sys2Proof.Machine.execCanBusRecovered c t s
  | .canRxOverrun c t => Sys2Proof.Machine.execCanRxOverrun c t s
  | .canEnableWrite p c v => Sys2Proof.Machine.execCanEnableWrite p c v s
  | .irqVecWrite p k v => Sys2Proof.Machine.execIrqVecWrite p k v s
  | .eventRoute t => Sys2Proof.Machine.execEventRoute t s
  | .msixSend acc on t => Sys2Proof.Machine.execMsixSend acc on t s
  | .qEnWrite p v => Sys2Proof.Machine.execQEnWrite p v s
  | .dmaStart p c => Sys2Proof.Machine.execDmaStart p c s
  | .dmaStop p c => Sys2Proof.Machine.execDmaStop p c s
  | .dmaResume p c => Sys2Proof.Machine.execDmaResume p c s
  | .dmaSkip p c => Sys2Proof.Machine.execDmaSkip p c s
  | .dmaDescLoaded c bytes t => Sys2Proof.Machine.execDmaDescLoaded c bytes t s
  | .dmaDescDone c data t => Sys2Proof.Machine.execDmaDescDone c data t s
  | .dmaAccessFail c n code write data t => Sys2Proof.Machine.execDmaAccessFail c n code write data t s
  | .pcieReset t => Sys2Proof.Machine.execPcieReset t s
  | .pcieLinkUp t => Sys2Proof.Machine.execPcieLinkUp t s
  | .modeCmdBoot p => Sys2Proof.Machine.execModeCmdBoot p s
  | .modeCmdConfigure p => Sys2Proof.Machine.execModeCmdConfigure p s
  | .modeCmdStandby p => Sys2Proof.Machine.execModeCmdStandby p s
  | .modeCmdReady p => Sys2Proof.Machine.execModeCmdReady p s
  | .modeCmdPrint p => Sys2Proof.Machine.execModeCmdPrint p s
  | .modeCmdService p => Sys2Proof.Machine.execModeCmdService p s
  | .modeCmdSafe p => Sys2Proof.Machine.execModeCmdSafe p s
  | .modeCmdReset p => Sys2Proof.Machine.execModeCmdReset p s
  | .modeChangeDone t => Sys2Proof.Machine.execModeChangeDone t s
  | .powerOn up t => Sys2Proof.Machine.execPowerOn up t s
  | .resetPin t => Sys2Proof.Machine.execResetPin t s
  | .resetRelease cause t => Sys2Proof.Machine.execResetRelease cause t s
  | .inhibitSetFire p => Sys2Proof.Machine.execInhibitSetFire p s
  | .inhibitSetMotionStop p => Sys2Proof.Machine.execInhibitSetMotionStop p s
  | .inhibitSetMotionOff p => Sys2Proof.Machine.execInhibitSetMotionOff p s
  | .inhibitClrHost p => Sys2Proof.Machine.execInhibitClrHost p s
  | .inhibitClrPin p => Sys2Proof.Machine.execInhibitClrPin p s
  | .inhibitClrRing p => Sys2Proof.Machine.execInhibitClrRing p s
  | .fireInhibitAssert t => Sys2Proof.Machine.execFireInhibitAssert t s
  | .pinReleaseExpiry x => Sys2Proof.Machine.execPinReleaseExpiry x s
  | .busWarnTrip t => Sys2Proof.Machine.execBusWarnTrip t s
  | .busWarnRelease t => Sys2Proof.Machine.execBusWarnRelease t s
  | .busResetTrip t => Sys2Proof.Machine.execBusResetTrip t s
  | .supplyConversionDue k t => Sys2Proof.Machine.execSupplyConversionDue k t s
  | .curfewHoldExpiry t => Sys2Proof.Machine.execCurfewHoldExpiry t s
  | .sagTimeout t => Sys2Proof.Machine.execSagTimeout t s
  | .supplyHighRelease t => Sys2Proof.Machine.execSupplyHighRelease t s
  | .suClrStats p v => Sys2Proof.Machine.execSuClrStats p v s
  | .clrPgOv p v => Sys2Proof.Machine.execClrPgOv p v s
  | .clrShutdown p v => Sys2Proof.Machine.execClrShutdown p v s
  | .clrDieMax p v => Sys2Proof.Machine.execClrDieMax p v s
  | .dieTrip t => Sys2Proof.Machine.execDieTrip t s
  | .mainPowerLost t => Sys2Proof.Machine.execMainPowerLost t s
  | .mainPowerBack t => Sys2Proof.Machine.execMainPowerBack t s
  | .backupPor t => Sys2Proof.Machine.execBackupPor t s
  | .rtcLoad p => Sys2Proof.Machine.execRtcLoad p s
  | .rtcSecRead p => Sys2Proof.Machine.execRtcSecRead p s
  | .rtcAlarm t => Sys2Proof.Machine.execRtcAlarm t s
  | .wakeClr p => Sys2Proof.Machine.execWakeClr p s
  | .vbatMeasure mv ua t => Sys2Proof.Machine.execVbatMeasure mv ua t s
  | .chargeFull t => Sys2Proof.Machine.execChargeFull t s
  | .chargeTimeout t => Sys2Proof.Machine.execChargeTimeout t s
  | .cellRemoved t => Sys2Proof.Machine.execCellRemoved t s
  | .chgRestart p => Sys2Proof.Machine.execChgRestart p s
  | .jnlClear p => Sys2Proof.Machine.execJnlClear p s
  | .bkJnlSelect p v => Sys2Proof.Machine.execBkJnlSelect p v s
  | .bkJnlHost p v => Sys2Proof.Machine.execBkJnlHost p v s
  | .bkGaugeSet p v => Sys2Proof.Machine.execBkGaugeSet p v s
  | .bootSequence l silent t => Sys2Proof.Machine.execBootSequence l silent t s
  | .btRecoveryCmd p v => Sys2Proof.Machine.execBtRecoveryCmd p v s
  | .softReset p => Sys2Proof.Machine.execSoftReset p s
  | .btWdtKick p => Sys2Proof.Machine.execBtWdtKick p s
  | .watchdogExpiry t => Sys2Proof.Machine.execWatchdogExpiry t s
  | .qspiRead p => Sys2Proof.Machine.execQspiRead p s
  | .qspiProgram p => Sys2Proof.Machine.execQspiProgram p s
  | .qspiErase4k p => Sys2Proof.Machine.execQspiErase4k p s
  | .qspiErase64k p => Sys2Proof.Machine.execQspiErase64k p s
  | .qspiOpDone res t => Sys2Proof.Machine.execQspiOpDone res t s
  | .otRowRead p l => Sys2Proof.Machine.execOtRowRead p l s
  | .otRowBurn p => Sys2Proof.Machine.execOtRowBurn p s
  | .otRescan p l => Sys2Proof.Machine.execOtRescan p l s
  | .otLock p => Sys2Proof.Machine.execOtLock p s
  | .otpBurnDone l t => Sys2Proof.Machine.execOtpBurnDone l t s
  | .lcToVendorTest p => Sys2Proof.Machine.execLcToVendorTest p s
  | .lcToProvision p => Sys2Proof.Machine.execLcToProvision p s
  | .lcToField p => Sys2Proof.Machine.execLcToField p s
  | .lcToReturn p => Sys2Proof.Machine.execLcToReturn p s
  | .lcToScrapped p => Sys2Proof.Machine.execLcToScrapped p s
  | .fiKey p v => Sys2Proof.Machine.execFiKey p v s
  | .fiArm p => Sys2Proof.Machine.execFiArm p s
  | .fiCancel p => Sys2Proof.Machine.execFiCancel p s
  | .fiInject a b real t => Sys2Proof.Machine.execFiInject a b real t s
  | .rootLockRegained divOk t => Sys2Proof.Machine.execRootLockRegained divOk t s
  | .rtcXtalRestored t => Sys2Proof.Machine.execRtcXtalRestored t s
  | .trainingTimeout n t => Sys2Proof.Machine.execTrainingTimeout n t s
  | .wireDisagreementHeld k pair t => Sys2Proof.Machine.execWireDisagreementHeld k pair t s
  | .invalidHallHeld k t => Sys2Proof.Machine.execInvalidHallHeld k t s
  | .wireAgreementRestored k pair x => Sys2Proof.Machine.execWireAgreementRestored k pair x s
  | .deepSpacingDue k n t => Sys2Proof.Machine.execDeepSpacingDue k n t s

end Sys2Proof.Machine
end

