-- ==== Sys2Proof/Machine/Step.lean ====
section
/-! DEFINITION. One step of the block: the command at the front of the queue, or, with none waiting, one FIRE tick of
time. -/
namespace Sys2Proof.Machine

/-- The block with no command waiting: one FIRE tick (64 fu) passes (DESIGN CHOICE, log 2). -/
def State.idle (s : State) : State := s.adv (s.up + 64)

/-- Take the command at the front and run it over the rest of the queue (DESIGN CHOICE, log 1 and 2). -/
def step (s : State) : Host.Outcome State Fault Refusal :=
  match s.pending with
  | [] => .next s.idle
  | c :: rest => exec c { s with pending := rest }

/-- `s` with the command a table word spells put at the front of its queue; `s` where it spells none. -/
def State.withFetchWord (s : State) (nbits w : Nat) : State :=
  match Sys2Proof.decodeTableWord nbits w with
  | some c => { s with pending := c :: s.pending }
  | none => s

end Sys2Proof.Machine
end

