-- ==== Sys2Proof/Machine/Balls.lean ====
section
/-! DEFINITION. The names of the balls, the blocks of the head ports, and what the groups and regions of balls hold (R540 to
R543). -/
namespace Sys2Proof.Machine

/-! ### Names (R540) -/

/-- Letters that name rows. -/
def rowLetters : List Char := ['A', 'B', 'C', 'D', 'E', 'F', 'G', 'H', 'J', 'K', 'L', 'M', 'N', 'P', 'T', 'U', 'V', 'W', 'Y']

/-- The letters of row `r`, 1 at the north edge to 49 (Table 21.1). -/
def rowName (r : Nat) : List Char :=
  let q := (r - 1) / 19
  (if q = 0 then [] else [rowLetters.getD (q - 1) 'A']) ++ [rowLetters.getD ((r - 1) % 19) 'A']

/-- The number of the row whose name is `l`. -/
def rowOf (l : List Char) : Option Nat := ((List.range 49).map (· + 1)).find? (fun r => rowName r == l)

/-- A ball by its row and column, each 1 to 49. -/
structure Ball where
  row : Nat
  col : Nat
  deriving DecidableEq, Repr

/-- A ball's name: the letters of its row followed by the number of its column. -/
def Ball.name (b : Ball) : List Char × Nat := (rowName b.row, b.col)

/-! ### The block of a head port (R542) -/

/-- Signals of a head port and the ground between them (Table 21.3). -/
inductive PortSig where
  | fiP | fiN | vss | d0P | d0N | ckP | ckN | d1P | d1N | ret | sns
  deriving DecidableEq, Repr

/-- What the lower and the higher column of a block hold at an offset from the package edge (Table 21.3). -/
def blockRow : Nat → PortSig × PortSig
  | 0 => (.fiP, .fiN)
  | 2 => (.d0P, .d0N)
  | 3 => (.ckP, .ckN)
  | 4 => (.d1P, .d1N)
  | 6 => (.ret, .sns)
  | _ => (.vss, .vss)

/-- Row of offset `o` in the band of power group `g` (Table 21.3). -/
def bandRow (g o : Nat) : Nat :=
  match g / 2 with
  | 0 => 1 + o
  | 1 => 8 + o
  | 2 => 49 - o
  | _ => 42 - o

/-- Lower column of the block of port `n`: a west half for an even group, an east half for an odd one. -/
def blockCol (n : Nat) : Nat := if groupOf n % 2 = 0 then 2 * (n % 12) + 1 else 26 + 2 * (n % 12)

/-- The balls of port `n` with what they hold. -/
def portBlock (n : Nat) : List (Ball × PortSig) :=
  (List.range 7).flatMap (fun o =>
    [(⟨bandRow (groupOf n) o, blockCol n⟩, (blockRow o).1), (⟨bandRow (groupOf n) o, blockCol n + 1⟩, (blockRow o).2)])

/-- The ball of a signal of port `n`. -/
def portBall (n : Nat) (sig : PortSig) : Option Ball := ((portBlock n).find? (fun b => b.2 == sig)).map (·.1)

/-! ### Groups and regions (R541, R543) -/

/-- Signal groups (Table 21.2). -/
inductive BallGroup where
  | heads | ring | pcie | lpddr | position | relays | motorOut | motorFault | sense | reference | headPower | network | clock
  | boot | test | reserved
  deriving DecidableEq, Repr

def ballGroups : List BallGroup :=
  [.heads, .ring, .pcie, .lpddr, .position, .relays, .motorOut, .motorFault, .sense, .reference, .headPower, .network, .clock,
   .boot, .test, .reserved]

/-- Signal balls of a group (Table 21.2). -/
def BallGroup.balls : BallGroup → Nat
  | .heads => 96 * 10
  | .ring => 8
  | .pcie => 8 * 4 + 2 + 3
  | .lpddr => 4 * (2 * 37 + 3)
  | .position => 12 * 6
  | .relays => 4 * 6
  | .motorOut => 16 * 4 + 4 * 6
  | .motorFault => 20
  | .sense => 64
  | .reference => 2
  | .headPower => 8
  | .network => 6
  | .clock => 6
  | .boot => 9
  | .test => 8
  | .reserved => 14

/-- Regions of rows 15 to 35, and the bands of the heads around them (Table 21.4). -/
inductive Region where
  | headBands | westMemory | positions | centre | motor | eastMemory
  deriving DecidableEq, Repr

/-- First column, columns, and power and ground balls of a region of rows 15 to 35 (Table 21.4). -/
def Region.span : Region → Nat × Nat × Nat
  | .headBands => (1, 0, 0)
  | .westMemory => (1, 10, 56)
  | .positions => (11, 6, 30)
  | .centre => (17, 17, 195)
  | .motor => (34, 6, 18)
  | .eastMemory => (40, 10, 56)

/-- Regions that hold a group, with the signal balls it has there; the memories share the LPDDR5X balls evenly. -/
def BallGroup.regions (g : BallGroup) : List (Region × Nat) :=
  match g with
  | .heads => [(.headBands, g.balls)]
  | .lpddr => [(.westMemory, g.balls / 2), (.eastMemory, g.balls / 2)]
  | .position => [(.positions, g.balls)]
  | .relays => [(.positions, g.balls)]
  | .motorOut => [(.motor, g.balls)]
  | .motorFault => [(.motor, g.balls)]
  | _ => [(.centre, g.balls)]

/-- Signal balls of a region. -/
def Region.signals (r : Region) : Nat :=
  (ballGroups.flatMap (fun g => (g.regions.filter (fun p => p.1 == r)).map (·.2))).sum

/-- The region of a ball (Tables 21.3, 21.4). -/
def Ball.region (b : Ball) : Region :=
  if b.row < 15 ∨ 35 < b.row then .headBands
  else if b.col < 11 then .westMemory
  else if b.col < 17 then .positions
  else if b.col < 34 then .centre
  else if b.col < 40 then .motor
  else .eastMemory

end Sys2Proof.Machine
end

