-- ==== Sys2Proof/Safety.lean ====
section
/-! DEFINITION. What counts as a safe state of the block, in the terms the statements use. -/
namespace Sys2Proof.Machine

/-- Every byte of the addressed memories is held in one way: addresses rise, and no byte is listed at the value an unlisted
address reads as. -/
def State.memCanonical (s : State) : Prop := Memory.wf s.mem = true

/-- Every object that differs from its reset value holds a value of its type (R418): below 2 to the type's width. -/
def State.inType (s : State) : Prop := ∀ p ∈ s.objs, p.2 < 2 ^ p.1.width

/-- Whether an access of a path comes to an object's own rule: the path reaches the dictionary, and the mode in force serves
the object (R55, R426, R506). -/
def State.serves (s : State) (p : Path) (o : Obj) : Bool := reaches s p && served s o.index

/-- Whether a value passes the row of its object (R421, R574), and the word that a write of it leaves (R421). -/
def State.fits (s : State) (o : Obj) (v : Nat) : Bool :=
  match o.row with
  | none => false
  | some r => (r.check (s.get o) v).isNone

def State.merged (s : State) (o : Obj) (v : Nat) : Nat :=
  match o.row with
  | none => v
  | some r => r.merge (s.get o) v

/-- The mode commands, each with the value of MD_MODE_CMD that it writes (Table 18.1). -/
def modeCommands (p : Path) : List (Instr × Nat) :=
  [(.modeCmdReset p, 0), (.modeCmdBoot p, 1), (.modeCmdConfigure p, 2), (.modeCmdStandby p, 3), (.modeCmdReady p, 4), (.modeCmdPrint p, 5), (.modeCmdService p, 6), (.modeCmdSafe p, 7)]

/-- A safe state: its memory is canonical and every object holds a value of its type. -/
def State.safe (s : State) : Prop := s.memCanonical ∧ s.inType

end Sys2Proof.Machine
end

