-- ==== Sys2Proof/Certificates/Slice0/Obligations.lean ====
section
/-! DEFINITION. The statements about the model, for the provers. A statement whose conclusion is an equation names the
whole next state: what it leaves alone is part of it. `s.adv t` is the state at uptime `t`, when the command comes. -/
open Sys2Proof Sys2Proof.Machine

/-- REF_LOSS, REF_RETURN, HOLDOVER_EXPIRED, PLL_UNLOCK, DIV_FAULT, ROOT_LOCK_REGAINED within 200 µs, LOCK_LOSS_TIMEOUT after
them, PCIE_REF_LOSS, RTC_XTAL_LOSS and RTC_XTAL_RESTORED answer the next state that the rules give, in every state that
the conditions stated for the row meet; the next state is named whole, so what it leaves alone is part of the statement.
A reference loss with HOLDOVER_EN clear is a loss of lock. The RC rate after a crystal loss is a free value within 5 per
cent. (R41, R51, R52, R53, R54, R490) -/
def Obligations.ClockConditionsAct : Prop :=
  (∀ (t : Nat) (s1 : State) (s : State),
      (s.adv t).clk.inReset = false →
      ckBit (s.adv t) B.CK_STATUS_REF_OK = true →
      s1 = ((s.adv t).hit O.CK_EVENTS B.CK_EVENTS_REF_LOSS 540 1).ckPut B.CK_STATUS_REF_OK false →
      exec (.refLoss t) s = .next (if s1.bit O.CK_CONTROL B.CK_CONTROL_HOLDOVER_EN then (s1.setClk { s1.clk with holdSince := some s1.up }).ckPut B.CK_STATUS_HOLDOVER true else (s1.ckPut B.CK_STATUS_ROOT_LOCKED false).clockFault B.CK_EVENTS_PLL_UNLOCK)) ∧
  (∀ (t : Nat) (s : State),
      (s.adv t).clk.inReset = false →
      exec (.refReturn t) s = .next ((((s.adv t).setClk { (s.adv t).clk with holdSince := none }).ckPut B.CK_STATUS_HOLDOVER false).ckPut B.CK_STATUS_REF_OK true)) ∧
  (∀ (t : Nat) (a : Nat) (s : State),
      (s.adv t).clk.holdSince = some a →
      a + (s.adv t).get O.CK_HOLDOVER_LIMIT * fuUs < (s.adv t).up →
      exec (.holdoverExpired t) s = .next (((s.adv t).setClk { (s.adv t).clk with holdSince := none }).clockInhibitOn B.CK_EVENTS_HOLDOVER_EXPIRED true)) ∧
  (∀ (t : Nat) (s : State),
      (s.adv t).clk.inReset = false →
      ckBit (s.adv t) B.CK_STATUS_HOLDOVER = false →
      ckBit (s.adv t) B.CK_STATUS_ROOT_LOCKED = true →
      exec (.pllUnlock t) s = .next (((s.adv t).ckPut B.CK_STATUS_ROOT_LOCKED false).clockFault B.CK_EVENTS_PLL_UNLOCK)) ∧
  (∀ (t : Nat) (s : State),
      (s.adv t).clk.inReset = false →
      (s.adv t).clk.divBad = false →
      exec (.divFault t) s = .next (((s.adv t).setClk { (s.adv t).clk with divBad := true }).clockFault B.CK_EVENTS_DIV_FAULT)) ∧
  (∀ (divOk : Bool) (t : Nat) (a : Nat) (s : State),
      (s.adv t).clk.lostAt = some a →
      (s.adv t).up ≤ a + 200 * fuUs →
      exec (.rootLockRegained divOk t) s = .next (if divOk then ((s.adv t).ckPut B.CK_STATUS_ROOT_LOCKED true).setClk { (s.adv t).clk with lostAt := none, divBad := false } else (s.adv t).ckPut B.CK_STATUS_ROOT_LOCKED true)) ∧
  (∀ (t : Nat) (a : Nat) (s : State),
      (s.adv t).clk.lostAt = some a →
      a + 200 * fuUs ≤ (s.adv t).up →
      exec (.lockLossTimeout t) s = .next ((s.adv t).resetEvent 4)) ∧
  (∀ (t : Nat) (s : State),
      (s.adv t).clk.inReset = false →
      ckBit (s.adv t) B.CK_STATUS_PCIE_REF_OK = true →
      exec (.pcieRefLoss t) s = .next (let s1 := ((s.adv t).hit O.CK_EVENTS B.CK_EVENTS_PCIE_REF_LOSS 540 1).ckPut B.CK_STATUS_PCIE_REF_OK false; s1.setEvs { s1.evs with linkUp := false })) ∧
  (∀ (t : Nat) (s : State),
      (s.adv t).bit O.BK_STATUS B.BK_STATUS_RTC_RC = false →
      exec (.rtcXtalLoss t) s = .next (let s1 := (s.adv t).draw.2;
        let s2 := ((s1.setBk { s1.bk with rcRate := 9277344 + (s.adv t).draw.1 % 976563 }).setB O.BK_STATUS B.BK_STATUS_RTC_RC true).journal 0xE 0;
        if s2.clk.inReset then s2 else ((s2.ckPut B.CK_STATUS_RTC_XTAL_OK false).hit O.CK_EVENTS B.CK_EVENTS_RTC_XTAL_LOSS 540 1).raise 574 1 (detailOf O.BK_STATUS B.BK_STATUS_RTC_RC))) ∧
  (∀ (t : Nat) (s1 : State) (s : State),
      (s.adv t).bit O.BK_STATUS B.BK_STATUS_RTC_RC = true →
      s1 = (((s.adv t).setBk { (s.adv t).bk with rcRate := 0 }).setB O.BK_STATUS B.BK_STATUS_RTC_RC false).journal 0xE 1 →
      exec (.rtcXtalRestored t) s = .next (if s1.clk.inReset then s1 else s1.ckPut B.CK_STATUS_RTC_XTAL_OK true))

/-- An accepted write of CK_PT_LOAD loads CK_PT_SET at the next FIRE tick: press time is then the value loaded and
TIME_VALID is set; CK_SNAPSHOT takes the snapshot; CLR_INHIBIT and DL_FREEZE leave what the rule of CK_CONTROL leaves.
The hypotheses are the modes, bits and ranges that the rules name. (R42, R44, R48, R53) -/
def Obligations.ClockWritesAct : Prop :=
  (∀ (p : Path) (s : State),
      s.serves p (O.CK_PT_LOAD) = true →
      s.mode ≠ mdPrint →
      timedEntry s = false →
      ckBit s B.CK_STATUS_TIME_STEERED = false →
      s.get O.CK_PT_SET_LO + 2 ^ 32 * s.get O.CK_PT_SET_HI < 2 ^ 63 →
      s.get O.CK_PT_SET_LO % 64 = 0 →
      ∃ s', exec (.ckPtLoad p 1) s = .next s' ∧ s'.pt = s.get O.CK_PT_SET_LO + 2 ^ 32 * s.get O.CK_PT_SET_HI ∧
        s'.up = (s.up / 64 + 1) * 64 ∧ ckBit s' B.CK_STATUS_TIME_VALID = true) ∧
  (∀ (p : Path) (s : State),
      s.serves p (O.CK_SNAPSHOT) = true →
      exec (.ckSnapshot p 1) s = .next (s.snapshot)) ∧
  (∀ (p : Path) (s : State),
      s.serves p (O.CK_CONTROL) = true →
      ckBit s B.CK_STATUS_ROOT_LOCKED = true →
      ckBit s B.CK_STATUS_REF_OK = true →
      s.clk.divBad = false →
      s.fits O.CK_CONTROL (putBit (s.get O.CK_CONTROL) B.CK_CONTROL_CLR_INHIBIT true) = true →
      clockInhibit s = true →
      frozen s = false →
      exec (.clrInhibit p) s = .next (((((s.set O.CK_CONTROL (s.merged O.CK_CONTROL (putBit (s.get O.CK_CONTROL) B.CK_CONTROL_CLR_INHIBIT true))).ckPut
          B.CK_STATUS_CLOCK_INHIBIT false).inhibitSync).forAll pis (fun s i => (s.predSync i).predUpdate i)))) ∧
  (∀ (p : Path) (on : Bool) (s : State),
      s.serves p (O.CK_CONTROL) = true →
      s.fits O.CK_CONTROL (putBit (s.get O.CK_CONTROL) B.CK_CONTROL_DL_FREEZE on) = true →
      bitOf (s.get O.CK_CONTROL) B.CK_CONTROL_CLR_INHIBIT = false →
      frozen s = false →
      exec (.dlFreeze p on) s = .next (s.set O.CK_CONTROL (s.merged O.CK_CONTROL (putBit (s.get O.CK_CONTROL) B.CK_CONTROL_DL_FREEZE on))))

/-- When the device is in RESET and no cause stands, PLL_LOCK leaves RESET: the mode is BOOT, the counter of press time is
0, the straps are held in BT_STRAPS and RESET is over. (R471, R505, spec/02_clocks_and_press_time.md) -/
def Obligations.PllLockStartsBoot : Prop :=
  ∀ (straps : Nat) (t : Nat) (s : State),
      (s.adv t).clk.inReset = true →
      (s.adv t).modes.causes = [] →
      ∃ s', exec (.pllLock straps t) s = .next s' ∧ s'.get O.MD_MODE = mdBoot ∧ s'.tick = 0 ∧ s'.clk.inReset = false ∧
        s'.get O.BT_STRAPS = straps % 8

/-- DICT_WRITE of a plain rw object of a position interface stores the written value, cut to the type and with the fields
that ignore writes kept, and changes nothing else; CLR_VIEW_WRITE of an rc object through the CLR view clears the bits
written as 1; DICT_WRITE_64 of TT_FIXED_START joins the word with MD_DICT_HI_STAGE and leaves the stage 0; RC_READ_CLEAR
returns an rc object and clears what was returned; DICT_READ_64 returns the low word and leaves the high word in
MD_DICT_HI; BAR2_ACCESS stores the bytes of a write in the band store at the window, and returns those of a read there.
The hypotheses are those of the rules: the path reaches the dictionary, the mode serves the index, all byte enables are
set, the type extension holds and the value is legal. (R418, R419, R420, R421, R422, R425, R128) -/
def Obligations.DictionaryAccessActs : Prop :=
  (∀ (p : Path) (index : Nat) (sub : Nat) (w : Nat) (o : Obj) (r : Row) (s : State),
      p ≠ .net →
      reaches s p = true →
      served s index = true →
      named s p index sub = .num o r →
      o.grp = .pi →
      o.sub ≠ 3 →
      o.sub ≠ 4 →
      r.acc = .rw →
      r.ty.bits ≤ 32 →
      r.ty.wordOk (trunc 32 w) = true →
      r.check (s.get o) (trunc r.ty.bits w) = none →
      exec (.dictWrite p true index sub w) s = .next (s.set o (r.merge (s.get o) (trunc r.ty.bits w)))) ∧
  (∀ (p : Path) (index : Nat) (sub : Nat) (w : Nat) (o : Obj) (r : Row) (s : State),
      p ≠ .net →
      reaches s p = true →
      served s index = true →
      named s p index sub = .num o r →
      r.acc = .rc →
      r.ty.bits ≤ 32 →
      r.ty.wordOk (trunc 32 w) = true →
      exec (.clrViewWrite p .clr true index sub w) s = .next (s.set o (andW (s.get o) (notW 64 (trunc r.ty.bits w))))) ∧
  (∀ (p : Path) (index : Nat) (sub : Nat) (w : Nat) (n : Nat) (r : Row) (s : State),
      p ≠ .net →
      reaches s p = true →
      served s index = true →
      named s p index sub = .num (O.TT_FIXED_START n) r →
      predBound s n = false →
      r.check (s.get (O.TT_FIXED_START n)) (trunc 32 w + 2 ^ 32 * s.get (O.MD_DICT_HI_STAGE p.slot)) = none →
      exec (.dictWrite64 p true index sub w) s = .next ((s.set (O.TT_FIXED_START n) (r.merge (s.get (O.TT_FIXED_START n)) (trunc 32 w + 2 ^ 32 * s.get (O.MD_DICT_HI_STAGE p.slot)))).set
        (O.MD_DICT_HI_STAGE p.slot) 0)) ∧
  (∀ (p : Path) (index : Nat) (sub : Nat) (o : Obj) (r : Row) (s : State),
      p ≠ .net →
      reaches s p = true →
      served s index = true →
      named s p index sub = .num o r →
      r.acc = .rc →
      exec (.rcReadClear p ⟨.primary, true⟩ index sub) s = .next ((s.set o (andW (s.get o) (notW 64 (readObj s o)))).emit (.read p (r.ty.word (readObj s o))))) ∧
  (∀ (p : Path) (index : Nat) (sub : Nat) (o : Obj) (r : Row) (s : State),
      p ≠ .net →
      reaches s p = true →
      served s index = true →
      named s p index sub = .num o r →
      r.ty.bits = 64 →
      r.ty.signed = false →
      r.acc ≠ .rc →
      r.acc ≠ .wo →
      exec (.dictRead64 p true index sub) s = .next ((s.set (O.MD_DICT_HI p.slot) (readObj s o / 2 ^ 32)).emit (.read p (trunc 32 (readObj s o))))) ∧
  (∀ (x : Nat) (bytes : List Byte) (n : Nat) (ecc : Nat) (s : State),
      reaches s .host = true →
      s.mode ≠ mdBoot →
      s.get O.BS_WIN_TARGET = 0 →
      windowBase s + x + n ≤ bandBytes s →
      ecc = 0 →
      exec (.bar2Access false x bytes n ecc) s = .next (s.emit (.readBytes (bandGets s (windowBase s + x) n)))) ∧
  (∀ (x : Nat) (bytes : List Byte) (n : Nat) (ecc : Nat) (s : State),
      reaches s .host = true →
      s.mode ≠ mdBoot →
      s.get O.BS_WIN_TARGET = 0 →
      windowBase s + x + bytes.length ≤ bandBytes s →
      exec (.bar2Access true x bytes n ecc) s = .next (s.mputs (bandAddr (windowBase s + x)) bytes))

/-- RING_INPUT_UP, RING_INPUT_DOWN, CELL_RX_ERROR, ELECTION_START (of a node whose election is due, or that hears no
candidate 50 µs into one in which it does not stand), REFORM, ELECT_CELL_RX (the node's own cell returns, a passive node
forwards, an electing node meets a candidate), ENUM_CELL_RX and ROSTER_CELL_RX of another master, RING_BREAK_DETECT and
FAULT_CELL_RX of a class below 3 whose action is 2 answer the next state that the rules give where the node hears the
ring, takes part in it and the row's condition holds. (R61, R64, R65, R66, R82, R84) -/
def Obligations.RingFormsAndBreaks : Prop :=
  (∀ (t : Nat) (s : State),
      (s.ringAdv t).clk.inReset = false →
      fjBit (s.ringAdv t) B.FJ_STATUS_IN_LINK_UP = false →
      exec (.ringInputUp t) s = .next ((((s.ringAdv t).setRing { (s.ringAdv t).ring with upAt := (s.ringAdv t).up, badAt := [], electing := false, formDue := true }).fjPut B.FJ_STATUS_IN_LINK_UP true).fjHit
        B.FJ_EVENTS_LINK_UP 542)) ∧
  (∀ (t : Nat) (s : State),
      hears (s.ringAdv t) = true →
      exec (.ringInputDown t) s = .next (((((s.ringAdv t).setRing { (s.ringAdv t).ring with lockedWas := some (fjBit (s.ringAdv t) B.FJ_STATUS_TIME_LOCKED), badAt := [], electing := false, formDue := false }).fjPut
        B.FJ_STATUS_IN_LINK_UP false).fjHit B.FJ_EVENTS_LINK_DOWN 542 1).breakCell.ringBroke)) ∧
  (∀ (t : Nat) (s : State),
      (s.ringAdv t).clk.inReset = false →
      (window (s.ringAdv t) (s.ringAdv t).ring.badAt).length ≤ 16 →
      ∃ s', exec (.cellRxError t) s = .next s' ∧ s'.get O.FJ_CRC_ERRORS = ((s.ringAdv t).get O.FJ_CRC_ERRORS + 1) % 2 ^ 32 ∧
        s'.ring.badAt = window (s.ringAdv t) (s.ringAdv t).ring.badAt ∧ ∀ o : Obj, o ≠ O.FJ_CRC_ERRORS → s'.get o = (s.ringAdv t).get o) ∧
  (∀ (t : Nat) (s : State),
      hears (s.ringAdv t) = true →
      ringPassive (s.ringAdv t) = false →
      (s.ringAdv t).ring.electing = false →
      (s.ringAdv t).ring.formDue = true →
      (s.ringAdv t).ring.upAt + 100 * fuUs ≤ (s.ringAdv t).up →
      ((s.ringAdv t).ring.timeAt.all (fun a => decide (a + 100 * fuUs ≤ (s.ringAdv t).up))) →
      exec (.electionStart t) s = .next ((s.ringAdv t).elect)) ∧
  (∀ (t : Nat) (s : State),
      hears (s.ringAdv t) = true →
      ringPassive (s.ringAdv t) = false →
      (s.ringAdv t).ring.electing = true →
      stands (s.ringAdv t) = false →
      (s.ringAdv t).ring.heardElect = false →
      (s.ringAdv t).ring.electAt + 50 * fuUs ≤ (s.ringAdv t).up →
      exec (.electionStart t) s = .next ((s.ringAdv t).formNoMaster)) ∧
  (∀ (p : Path) (s : State),
      s.serves p O.FJ_CONTROL = true →
      ringPassive (s.set O.FJ_CONTROL (s.get O.FJ_CONTROL)) = false →
      exec (.reform p) s = .next ((s.set O.FJ_CONTROL (s.get O.FJ_CONTROL)).elect)) ∧
  (∀ (src : Nat) (hops : Nat) (seq : Nat) (priority : Nat) (flags : Nat) (t : Nat) (s : State),
      hears (s.ringAdv t) = true →
      ringPassive (s.ringAdv t) = false →
      stands (s.ringAdv t) = true →
      (s.ringAdv t).ring.electing = true →
      ∃ s', exec (.electCellRx src hops seq ((s.ringAdv t).get O.FJ_UID) priority flags t) s = .next s' ∧ s'.get O.FJ_NODE = 0 ∧
        fjBit s' B.FJ_STATUS_MASTER = true ∧
        s'.ring.electing = false ∧
        s'.ring.enumOut = true ∧
        s'.ring.sentTime = false) ∧
  (∀ (src : Nat) (hops : Nat) (seq : Nat) (uid : Nat) (priority : Nat) (flags : Nat) (t : Nat) (s : State),
      hears (s.ringAdv t) = true →
      ringPassive (s.ringAdv t) = true →
      exec (.electCellRx src hops seq uid priority flags t) s = .next ((s.ringAdv t).forward 2 src hops seq [uid, priority, flags])) ∧
  (∀ (src : Nat) (hops : Nat) (seq : Nat) (uid : Nat) (priority : Nat) (flags : Nat) (t : Nat) (s1 : State) (s : State),
      hears (s.ringAdv t) = true →
      ringPassive (s.ringAdv t) = false →
      uid ≠ (s.ringAdv t).get O.FJ_UID →
      (s.ringAdv t).ring.electing = true →
      s1 = (s.ringAdv t).setRing { (s.ringAdv t).ring with heardElect := true } →
      exec (.electCellRx src hops seq uid priority flags t) s = .next (if !stands s1 || (⟨bitOf flags 0, bitOf flags 1, priority, uid⟩ : Rank).beats (ownRank s1) then s1.forward 2 src hops seq [uid, priority, flags]
        else s1)) ∧
  (∀ (src : Nat) (hops : Nat) (seq : Nat) (master : Nat) (next : Nat) (passive : Nat) (t : Nat) (s : State),
      hears (s.ringAdv t) = true →
      (s.ringAdv t).mode ≠ mdBoot →
      (s.ringAdv t).bit O.FJ_CONTROL B.FJ_CONTROL_ENABLE = true →
      fjBit (s.ringAdv t) B.FJ_STATUS_MASTER = false →
      next ≤ 15 →
      exec (.enumCellRx src hops seq master next passive t) s = .next (((s.ringAdv t).numberTo next false).forward 3 src hops seq [master, next + 1, passive])) ∧
  (∀ (src : Nat) (hops : Nat) (seq : Nat) (master : Nat) (size : Nat) (passive : Nat) (formedAt : Nat) (loop : Nat) (t : Nat) (s : State),
      hears (s.ringAdv t) = true →
      ownCell (s.ringAdv t) src = false →
      (s.ringAdv t).mode ≠ mdBoot →
      (s.ringAdv t).bit O.FJ_CONTROL B.FJ_CONTROL_ENABLE = true →
      fjBit (s.ringAdv t) B.FJ_STATUS_MASTER = false →
      exec (.rosterCellRx src hops seq master size passive formedAt loop t) s = .next (((s.ringAdv t).ringForm master size passive formedAt loop).forward 4 src hops seq [master, size, passive, formedAt, loop])) ∧
  (∀ (t : Nat) (s : State),
      fjBit (s.ringAdv t) B.FJ_STATUS_MASTER = true →
      (∃ p ∈ (s.ringAdv t).ring.timeOut, p.2 + (s.ringAdv t).get O.FJ_LOOP_DELAY / 256 + 2 * fuUs < (s.ringAdv t).up) →
      exec (.ringBreakDetect t) s = .next ((s.ringAdv t).breakCell.ringBroke)) ∧
  (∀ (src : Nat) (hops : Nat) (seq : Nat) (ev : Nat) (cls : Nat) (raised : Nat) (detail : Nat) (t : Nat) (s : State),
      hears (s.ringAdv t) = true →
      ownCell (s.ringAdv t) src = false →
      ringNode (s.ringAdv t) = true →
      faultAction (s.ringAdv t) (cls % 4) = 2 →
      cls ≠ 3 →
      exec (.faultCellRx src hops seq ev cls raised detail t) s = .next ((((s.ringAdv t).fjHit B.FJ_EVENTS_FAULT_RX 545).inhibitWith
        (putBit ((s.ringAdv t).get O.MD_INHIBIT_STATUS) B.MD_INHIBIT_STATUS_RING_FIRE true)).forward 7 src hops seq [ev, cls, raised, detail]))

/-- TIME_CELL_LAUNCH by a master that has sent a TIME cell in this form, FJ_TIME_PERIOD after it, sends TIME with the press
time and counts its sequence number; TIME_CELL_RX of a follower outside BOOT steers by the offset and forwards the cell
with the residence time added; RING_HOLDOVER_ENTER begins holdover with TIME_LOCKED lost at class 1;
RING_HOLDOVER_EXPIRY ends TIME_VALID; ECHO_LAUNCH sends the first echo, ECHO_CELL_RX answers one, ECHO_MARK_RX within
800 ns measures one, and ECHO_TIMEOUT gives one up after them. (R68, R69, R70, R73) -/
def Obligations.RingTimeActs : Prop :=
  (∀ (t : Nat) (s : State),
      (s.ringAdv t).clk.inReset = false →
      fjBit (s.ringAdv t) B.FJ_STATUS_MASTER = true →
      (s.ringAdv t).ring.electing = false →
      ringPassive (s.ringAdv t) = false →
      fjBit (s.ringAdv t) B.FJ_STATUS_RING_INTACT = true →
      (s.ringAdv t).ring.enumOut = false →
      (s.ringAdv t).ring.sentTime = true →
      (s.ringAdv t).ring.timeSent + (s.ringAdv t).get O.FJ_TIME_PERIOD * fuUs ≤ (s.ringAdv t).up →
      exec (.timeCellLaunch t) s = .next (((s.ringAdv t).setRing { (s.ringAdv t).ring with timeSeq := ((s.ringAdv t).ring.timeSeq + 1) % 65536, sentTime := true, timeSent := (s.ringAdv t).up, timeOut := (s.ringAdv t).ring.timeOut ++ [((s.ringAdv t).ring.timeSeq, (s.ringAdv t).up)] }).sendCell 1
        [(s.ringAdv t).pt, (s.ringAdv t).get O.FJ_HOP_DELAY, (s.ringAdv t).ring.timeSeq, 1 + 2 * ((s.ringAdv t).bit O.CK_STATUS B.CK_STATUS_HOLDOVER).toNat
          + 4 * ((s.ringAdv t).bit O.FJ_CONTROL B.FJ_CONTROL_NO_STEP).toNat, (s.ringAdv t).get O.FJ_RING_SIZE])) ∧
  (∀ (src : Nat) (hops : Nat) (seq : Nat) (origin : Nat) (corr : Nat) (tseq : Nat) (flags : Nat) (size : Nat) (arr : Nat) (launch : Nat) (t : Nat) (s : State),
      hears (s.ringAdv t) = true →
      fjBit (s.ringAdv t) B.FJ_STATUS_MASTER = false →
      ownCell (s.ringAdv t) src = false →
      (s.ringAdv t).mode ≠ mdBoot →
      (s.ringAdv t).bit O.FJ_CONTROL B.FJ_CONTROL_ENABLE = true →
      bitOf flags 0 = true →
      exec (.timeCellRx src hops seq origin corr tseq flags size arr launch t) s = .next ((((s.ringAdv t).setRing { (s.ringAdv t).ring with timeAt := some (s.ringAdv t).up }).follow
          (toSigned 72 (ofSigned 72 ((arr : Int) - (origin * 256 + toSigned 48 corr)))) (bitOf flags 2)).forward 1 src hops seq
        [origin, ofSigned 48 (toSigned 48 corr + ((launch : Int) - arr) + (((s.ringAdv t).setRing { (s.ringAdv t).ring with timeAt := some (s.ringAdv t).up }).follow
          (toSigned 72 (ofSigned 72 ((arr : Int) - (origin * 256 + toSigned 48 corr)))) (bitOf flags 2)).get O.FJ_HOP_DELAY),
          tseq, flags, size])) ∧
  (∀ (t : Nat) (a : Nat) (s : State),
      (s.ringAdv t).ring.timeAt = some a →
      a + (2 * (s.ringAdv t).get O.FJ_TIME_PERIOD + 10) * fuUs ≤ (s.ringAdv t).up →
      fjBit (s.ringAdv t) B.FJ_STATUS_MASTER = false →
      fjBit (s.ringAdv t) B.FJ_STATUS_RING_HOLDOVER = false →
      (s.ringAdv t).bit O.CK_STATUS B.CK_STATUS_TIME_STEERED = true →
      fjBit (s.ringAdv t) B.FJ_STATUS_NO_MASTER = false →
      exec (.ringHoldoverEnter t) s = .next ((((s.ringAdv t).setRing { (s.ringAdv t).ring with holdAt := (s.ringAdv t).up }).fjPut B.FJ_STATUS_RING_HOLDOVER true).lockLost 1)) ∧
  (∀ (t : Nat) (s : State),
      fjBit (s.ringAdv t) B.FJ_STATUS_RING_HOLDOVER = true →
      (s.ringAdv t).ring.holdAt + (s.ringAdv t).get O.FJ_TIME_HOLDOVER * fuUs ≤ (s.ringAdv t).up →
      exec (.ringHoldoverExpiry t) s = .next ((s.ringAdv t).setB O.CK_STATUS B.CK_STATUS_TIME_VALID false)) ∧
  (∀ (t : Nat) (s : State),
      (s.ringAdv t).clk.inReset = false →
      (s.ringAdv t).bit O.FJ_CONTROL B.FJ_CONTROL_ECHO_EN = true →
      (s.ringAdv t).ring.echoAt = none →
      (s.ringAdv t).ring.echoLast = none →
      exec (.echoLaunch t) s = .next (((s.ringAdv t).setRing { (s.ringAdv t).ring with echoAt := some ((s.ringAdv t).pt, (s.ringAdv t).up), echoLast := some (s.ringAdv t).up }).sendCell 8 [] 4)) ∧
  (∀ (t : Nat) (s : State),
      hears (s.ringAdv t) = true →
      exec (.echoCellRx t) s = .next ((s.ringAdv t).emit (.note "return mark" [(s.ringAdv t).up + 6144]))) ∧
  (∀ (t2 : Nat) (t : Nat) (t0 : Nat) (u : Nat) (s : State),
      (s.ringAdv t).ring.echoAt = some (t0, u) →
      toSigned 64 (t2 + 2 ^ 64 - t0) ≤ 20480 →
      (s.ringAdv t).bit O.FJ_CONTROL B.FJ_CONTROL_ECHO_EN = false →
      exec (.echoMarkRx t2 t) s = .next ((s.ringAdv t).setRing { (s.ringAdv t).ring with echoAt := none, hops := ((128 * (toSigned 64 (t2 + 2 ^ 64 - t0) - 6144 - Config.turn)).toNat :: (s.ringAdv t).ring.hops).take 256, echoMiss := 0, echoes := (s.ringAdv t).ring.echoes + 1 })) ∧
  (∀ (t2 : Nat) (t : Nat) (t0 : Nat) (u : Nat) (s : State),
      (s.ringAdv t).ring.echoAt = some (t0, u) →
      toSigned 64 (t2 + 2 ^ 64 - t0) ≤ 20480 →
      (s.ringAdv t).bit O.FJ_CONTROL B.FJ_CONTROL_ECHO_EN = true →
      ∃ s', exec (.echoMarkRx t2 t) s = .next s' ∧ s'.ring.echoAt = none ∧
        s'.ring.echoMiss = 0 ∧
        s'.ring.hops = ((128 * (toSigned 64 (t2 + 2 ^ 64 - t0) - 6144 - Config.turn)).toNat :: (s.ringAdv t).ring.hops).take 256 ∧
        s'.get O.FJ_HOP_DELAY = (divRound (s'.ring.hops.sum : Nat) s'.ring.hops.length).toNat % 2 ^ 32) ∧
  (∀ (t : Nat) (a : Nat) (u : Nat) (s : State),
      (s.ringAdv t).ring.echoAt = some (a, u) →
      u + 20480 ≤ (s.ringAdv t).up →
      exec (.echoTimeout t) s = .next (let s1 := (s.ringAdv t).setRing { (s.ringAdv t).ring with echoAt := none, echoMiss := (s.ringAdv t).ring.echoMiss + 1 }; if (s.ringAdv t).ring.echoMiss + 1 = 8 then s1.emit (.note "downstream input down" []) else s1))

/-- SLOW_CELL_RX at a numbered node of another node's request sets that node's bit in FJ_SLOW_RX where the cell asserts and
clears it where it releases, and forwards the cell, which a node without a number only forwards; SLOW_RX_EXPIRY clears a
bit 500 µs after the last cell that set it; SLOW_CELL_REPEAT, 100 µs after the last SLOW cell, sends the oldest standing
request again. (R81) -/
def Obligations.SlowRequestCellsAct : Prop :=
  (∀ (src : Nat) (hops : Nat) (seq : Nat) (assert : Bool) (source : Nat) (unit : Nat) (raised : Nat) (t : Nat) (s : State),
      hears (s.ringAdv t) = true →
      ownCell (s.ringAdv t) src = false →
      ringNode (s.ringAdv t) = true →
      exec (.slowCellRx src hops seq assert source unit raised t) s = .next ((((s.ringAdv t).setRing { (s.ringAdv t).ring with slowAt := tput (s.ringAdv t).ring.slowAt (src % 16) (s.ringAdv t).up }).slowRx (src % 16) assert).forward 6 src hops seq [assert.toNat, source, unit, raised])) ∧
  (∀ (src : Nat) (hops : Nat) (seq : Nat) (assert : Bool) (source : Nat) (unit : Nat) (raised : Nat) (t : Nat) (s : State),
      hears (s.ringAdv t) = true →
      ringNode (s.ringAdv t) = false →
      exec (.slowCellRx src hops seq assert source unit raised t) s = .next ((s.ringAdv t).forward 6 src hops seq [assert.toNat, source, unit, raised])) ∧
  (∀ (k : Nat) (t : Nat) (s : State),
      (s.ringAdv t).bit O.FJ_SLOW_RX k = true →
      tget 0 (s.ringAdv t).ring.slowAt k + 500 * fuUs ≤ (s.ringAdv t).up →
      exec (.slowRxExpiry k t) s = .next ((s.ringAdv t).slowRx k false)) ∧
  (∀ (t : Nat) (p : (Nat × Nat)) (rest : (List (Nat × Nat))) (s : State),
      (s.ringAdv t).slow.standing = p :: rest →
      (s.ringAdv t).ring.slowSent + 100 * fuUs ≤ (s.ringAdv t).up →
      exec (.slowCellRepeat t) s = .next ((s.ringAdv t).slowCell true p))

/-- ACTION_FIELD_WRITE makes the entry DRAFT with the field's new value; ACTION_ENTER_LOCAL makes a DRAFT that passes the
checks ARMED_LOCAL; ACTION_ENTER_RING proposes it on the ring; ACTION_CANCEL frees an ARMED_LOCAL entry; ACTION_CELL_RX
of a COMMIT makes the reserved entry ARMED_RING and forwards the cell; PROPOSE_TIMEOUT fails a proposal with cause 5;
RESERVED_EXPIRY frees an entry reserved before a form that is 1 ms old; ACTION_TRIGGER of a due ARMED_LOCAL entry, with
none due before it, makes the entry DONE and does what it names. (R74, R75, R76, R78, R80) -/
def Obligations.ActionEntriesAct : Prop :=
  (∀ (p : Path) (e : Nat) (sub : Nat) (v : Nat) (s : State),
      s.serves p ⟨.act, e, clampN 2 7 sub⟩ = true →
      (actFree s e ∨ actState s e = 1) →
      exec (.actionFieldWrite p e sub v) s = .next ((s.set ⟨.act, e, clampN 2 7 sub⟩ v).actTo e 1)) ∧
  (∀ (p : Path) (e : Nat) (s : State),
      s.serves p (O.ACT_COMMAND e) = true →
      actState s e = 1 →
      kindOk s (actFields s e) = true →
      leadLocal s (actFields s e) = true →
      trigPiOk s (actFields s e) = true →
      exec (.actionEnterLocal p e) s = .next ((s.actTo e 4).set (O.ACT_TICKET e) 0xFFFF)) ∧
  (∀ (p : Path) (e : Nat) (s : State),
      s.serves p (O.ACT_COMMAND e) = true →
      actState s e = 1 →
      kindOk s (actFields s e) = true →
      s.ring.broken = false →
      ringFormed s = true →
      leadRing s (actFields s e) = true →
      trigPiOk s (actFields s e) = true →
      ringNode s = true →
      s.bit O.FJ_STATUS B.FJ_STATUS_TIME_LOCKED = true →
      exec (.actionEnterRing p e) s = .next (let s1 := s.setRing { s.ring with ticket := (s.ring.ticket + 1) % 256, proposed := tput s.ring.proposed e s.up };
        let s2 := ((s1.actTo e 2).set (O.ACT_TICKET e) (s.get O.FJ_NODE * 256 + s.ring.ticket)).set (O.ACT_RESULT e) 0;
        s2.sendAction 0 s.ring.ticket (2 ^ s.get O.FJ_NODE) 0 0 (actFields s e))) ∧
  (∀ (p : Path) (e : Nat) (s : State),
      s.serves p (O.ACT_COMMAND e) = true →
      actState s e = 4 →
      exec (.actionCancel p e) s = .next (s.actTo e 0)) ∧
  (∀ (src : Nat) (hops : Nat) (seq : Nat) (ticket : Nat) (accept : Nat) (refuse : Nat) (cause : Nat) (kind : Nat) (trigger : Nat) (when' : Nat) (arg : Nat) (t : Nat) (e : Nat) (s : State),
      hears (s.ringAdv t) = true →
      ringNode (s.ringAdv t) = true →
      ownCell (s.ringAdv t) src = false →
      ticketEntry (s.ringAdv t) src ticket [3] = some e →
      exec (.actionCellRx src hops seq 1 ticket accept refuse cause kind trigger when' arg t) s = .next (((s.ringAdv t).actTo e 5).forward 5 src hops seq [1, ticket, accept, refuse, cause, kind, trigger, when', arg])) ∧
  (∀ (e : Nat) (t : Nat) (s : State),
      actState (s.ringAdv t) e = 2 →
      tget 0 (s.ringAdv t).ring.proposed e + 100 * fuUs ≤ (s.ringAdv t).up →
      exec (.proposeTimeout e t) s = .next ((s.ringAdv t).proposalFails e 5)) ∧
  (∀ (e : Nat) (t : Nat) (s : State),
      actState (s.ringAdv t) e = 3 →
      fjBit (s.ringAdv t) B.FJ_STATUS_RING_INTACT = true →
      (s.ringAdv t).ring.formedUp + fuMs ≤ (s.ringAdv t).up →
      tget 0 (s.ringAdv t).ring.reserved e < (s.ringAdv t).ring.formedUp →
      exec (.reservedExpiry e t) s = .next ((s.ringAdv t).actTo e 0)) ∧
  (∀ (e : Nat) (t : Nat) (s : State),
      actState (s.adv t) e = 4 →
      whenAhead (s.adv t) (actFields (s.adv t) e) ≤ 0 →
      ((List.range e).all (fun k => decide ((actState (s.adv t) k ≠ 4 ∧ actState (s.adv t) k ≠ 5) ∨ 0 < whenAhead (s.adv t) (actFields (s.adv t) k)))) →
      exec (.actionTrigger e t) s = .next ((((s.adv t).actTo e 6).actDo e (actFields (s.adv t) e)).mtSync))

/-- PI_EDGE_COUNTED counts a step up or down of an interface in QUADRATURE that counts, once the level has stood for
PI_GLITCH + 1 ticks; PI_HALL_CHANGE counts a step of the Hall code either way; PI_GLITCH counts a shorter pulse, which a
relay in PASS_DIRECT has passed on; PI_Z_EDGE latches the position and its time; PI_INVALID_HALL counts an invalid code
held over 1 µs, once; PI_WIRE_DISAGREE counts an episode after PI_WIRE_TIME; WIRE_AGREEMENT_RESTORED ends it;
PI_SPEED_UPDATE stores the speed of the present run of edges; PI_STOPPED sets STOPPED and clears the speed. (R87, R88,
R89, R90, R91, R94) -/
def Obligations.PositionInputsAct : Prop :=
  (∀ (i : Nat) (ab : Nat) (e : Nat) (t : Nat) (s1 : State) (s : State),
      accepted (s.adv t) i e = true →
      s1 = (s.adv t).piLevels i ((s.adv t).fld (O.PI_STATUS i) B.PI_STATUS_INPUT / 4 * 4 + ab % 4) →
      piMode s1 i = 1 →
      piCounts s1 i = true →
      (quadStep (ab % 4) + 4 - quadStep ((s.adv t).fld (O.PI_STATUS i) B.PI_STATUS_INPUT % 4)) % 4 = 1 →
      exec (.piEdgeCounted i ab e t) s = .next (s1.piEdge i true (captured (s.adv t) i e))) ∧
  (∀ (i : Nat) (ab : Nat) (e : Nat) (t : Nat) (s1 : State) (s : State),
      accepted (s.adv t) i e = true →
      s1 = (s.adv t).piLevels i ((s.adv t).fld (O.PI_STATUS i) B.PI_STATUS_INPUT / 4 * 4 + ab % 4) →
      piMode s1 i = 1 →
      piCounts s1 i = true →
      (quadStep (ab % 4) + 4 - quadStep ((s.adv t).fld (O.PI_STATUS i) B.PI_STATUS_INPUT % 4)) % 4 = 3 →
      exec (.piEdgeCounted i ab e t) s = .next (s1.piEdge i false (captured (s.adv t) i e))) ∧
  (∀ (i : Nat) (code : Nat) (e : Nat) (t : Nat) (k : Nat) (j : Nat) (s1 : State) (s2 : State) (s : State),
      accepted (s.adv t) i e = true →
      s1 = (s.adv t).piLevels i (code % 8) →
      piMode s1 i = 2 →
      hallStep (code % 8) = some k →
      (s1.pif i).hall.bind hallStep = some j →
      s2 = s1.setPif i { s1.pif i with hall := some (code % 8), badAt := none, hallPerm := false } →
      piCounts s2 i = true →
      (k + 6 - j) % 6 = 1 →
      exec (.piHallChange i code e t) s = .next (s2.piEdge i true (captured (s.adv t) i e))) ∧
  (∀ (i : Nat) (code : Nat) (e : Nat) (t : Nat) (k : Nat) (j : Nat) (s1 : State) (s2 : State) (s : State),
      accepted (s.adv t) i e = true →
      s1 = (s.adv t).piLevels i (code % 8) →
      piMode s1 i = 2 →
      hallStep (code % 8) = some k →
      (s1.pif i).hall.bind hallStep = some j →
      s2 = s1.setPif i { s1.pif i with hall := some (code % 8), badAt := none, hallPerm := false } →
      piCounts s2 i = true →
      (k + 6 - j) % 6 = 5 →
      exec (.piHallChange i code e t) s = .next (s2.piEdge i false (captured (s.adv t) i e))) ∧
  (∀ (i : Nat) (pair : Nat) (e : Nat) (t : Nat) (s1 : State) (s : State),
      accepted (s.adv t) i e = false →
      (s1 = (s.adv t).forAll relays (fun z a => if relayMode z a = 1 ∧ relaySource z a = i then z.emit (.note "pulse passed" [a, pair, e]) else z)) →
      s1.mode ≠ mdReset ∧ s1.mode ≠ mdBoot →
      (window s1 (s1.pif i).glitches).length ≤ 1024 →
      exec (.piGlitch i ⟨pair, e, t⟩) s = .next ((s1.inc (O.PI_GLITCHES i)).setPif i { s1.pif i with glitches := window s1 (s1.pif i).glitches })) ∧
  (∀ (i : Nat) (level : Bool) (e : Nat) (ab : Nat) (eab : Nat) (t : Nat) (s1 : State) (s2 : State) (s : State),
      accepted (s.adv t) i eab = false →
      accepted (s.adv t) i e = true →
      s1 = (s.adv t).piLevels i (putBit ((s.adv t).fld (O.PI_STATUS i) B.PI_STATUS_INPUT) 2 level) →
      bitOf ((s.adv t).fld (O.PI_STATUS i) B.PI_STATUS_INPUT) 2 = !level →
      piMode s1 i = 1 →
      piCounts s1 i = true →
      s1.bit (O.PI_CONFIG i) B.PI_CONFIG_Z_EN = true →
      s1.bit (O.PI_CONFIG i) B.PI_CONFIG_Z_HOME = false →
      s1.bit (O.PI_CONFIG i) B.PI_CONFIG_Z_POL = !level →
      s2 = (((((s1.set (O.PI_Z_POS i) (s1.get (O.PI_COUNT i))).set (O.PI_Z_TIME_LO i) (captured (s.adv t) i e)).set (O.PI_Z_TIME_HI i) (captured (s.adv t) i e / 2 ^ 32)).setB (O.PI_STATUS i) B.PI_STATUS_Z_SEEN true).piHit i B.PI_EVENTS_Z) →
      exec (.piZEdge i level ⟨e, ab, eab⟩ t) s = .next (s2.forAll axes (fun z a => if axisSource z a = some i then ((z.axCount a).limitCheck a).axHome a else z))) ∧
  (∀ (i : Nat) (level : Bool) (e : Nat) (ab : Nat) (eab : Nat) (t : Nat) (s1 : State) (s : State),
      accepted (s.adv t) i eab = false →
      accepted (s.adv t) i e = true →
      s1 = (s.adv t).piLevels i (putBit ((s.adv t).fld (O.PI_STATUS i) B.PI_STATUS_INPUT) 2 level) →
      bitOf ((s.adv t).fld (O.PI_STATUS i) B.PI_STATUS_INPUT) 2 = !level →
      piMode s1 i = 1 →
      piCounts s1 i = true →
      s1.bit (O.PI_CONFIG i) B.PI_CONFIG_Z_EN = true →
      s1.bit (O.PI_CONFIG i) B.PI_CONFIG_Z_HOME = false →
      s1.bit (O.PI_CONFIG i) B.PI_CONFIG_Z_POL = !level →
      (axes.all (fun a => decide (axisSource s1 a ≠ some i))) →
      ∃ s', exec (.piZEdge i level ⟨e, ab, eab⟩ t) s = .next s' ∧ s'.get (O.PI_Z_POS i) = s1.get (O.PI_COUNT i) % 2 ^ 32 ∧
        s'.get (O.PI_Z_TIME_LO i) = captured (s.adv t) i e % 2 ^ 32 ∧
        s'.bit (O.PI_STATUS i) B.PI_STATUS_Z_SEEN = true ∧
        s'.bit (O.PI_EVENTS i) B.PI_EVENTS_Z = true ∧
        s'.get (O.PI_COUNT i) = s1.get (O.PI_COUNT i)) ∧
  (∀ (i : Nat) (t : Nat) (b : Nat) (s : State),
      ((s.adv t).pif i).badAt = some b →
      b + fuUs < (s.adv t).up →
      ((s.adv t).pif i).badSeen = false →
      exec (.piInvalidHall i t) s = .next ((((s.adv t).setPif i { (s.adv t).pif i with badSeen := true }).inc (O.PI_INVALID_HALL i)).piHit i B.PI_EVENTS_INVALID_HALL)) ∧
  (∀ (i : Nat) (pair : Nat) (e : Nat) (t : Nat) (s1 : State) (s : State),
      wiresHeld (s.adv t) i e = true →
      wireChecked (s.adv t) i pair = true →
      bitOf ((s.adv t).fld (O.PI_STATUS i) B.PI_STATUS_WIRE_BAD) pair = false →
      s1 = ((s.adv t).wireBad i pair true).setPif i { (s.adv t).pif i with wireAt := tput ((s.adv t).pif i).wireAt pair e } →
      piRuns s1 i = true →
      (window s1 (s1.pif i).wires).length ≤ 16 →
      exec (.piWireDisagree i pair ⟨e, t⟩) s = .next (((s1.inc (O.PI_WIRE_FAULTS i)).piHit i B.PI_EVENTS_WIRE).setPif i { s1.pif i with wires := window s1 (s1.pif i).wires })) ∧
  (∀ (i : Nat) (pair : Nat) (e : Nat) (t : Nat) (s : State),
      wiresHeld (s.adv t) i e = true →
      exec (.wireAgreementRestored i pair ⟨e, t⟩) s = .next (((s.adv t).wireBad i pair false).setPif i { (s.adv t).pif i with wireAt := tdel ((s.adv t).pif i).wireAt pair, wirePerm := setDel ((s.adv t).pif i).wirePerm pair })) ∧
  (∀ (i : Nat) (t : Nat) (s : State),
      piMode (s.adv t) i ≠ 0 →
      exec (.piSpeedUpdate i t) s = .next ((s.adv t).setI (O.PI_SPEED i) (speedOf (s.adv t) i))) ∧
  (∀ (i : Nat) (t : Nat) (s : State),
      (s.adv t).bit (O.PI_STATUS i) B.PI_STATUS_STOPPED = false →
      ((s.adv t).pif i).lastUp + (s.adv t).get (O.PI_STOP_TIME i) * fuUs ≤ (s.adv t).up →
      piMode (s.adv t) i ≠ 0 →
      (s.adv t).mode ≠ mdReset →
      (s.adv t).mode ≠ mdBoot →
      exec (.piStopped i t) s = .next ((((s.adv t).setB (O.PI_STATUS i) B.PI_STATUS_STOPPED true).set (O.PI_SPEED i) 0).piHit i B.PI_EVENTS_STOPPED))

/-- PI_COUNT_WRITE of an interface that is not bound loads the counter at the next FIRE tick and ends POS_UNCERTAIN;
PI_CONFIG_WRITE that leaves the mode and asks for no clear stores the configuration; CLR_FAULT clears the fault where no
permanent condition persists; CLR_UNCERTAIN clears POS_UNCERTAIN; a disagreement held 10 µs and an invalid Hall code
held 100 µs fault the interface. (R93, R96) -/
def Obligations.PositionWritesAct : Prop :=
  (∀ (p : Path) (i : Nat) (v : Nat) (s : State),
      s.serves p (O.PI_COUNT i) = true →
      piBound s i = false →
      exec (.piCountWrite p i v) s = .next (((s.adv ((s.up / 64 + 1) * 64)).set (O.PI_COUNT i) v).setB (O.PI_STATUS i) B.PI_STATUS_POS_UNCERTAIN false)) ∧
  (∀ (p : Path) (i : Nat) (v : Nat) (new : Nat) (s : State),
      s.serves p (O.PI_CONFIG i) = true →
      bitOf v B.PI_CONFIG_CLR_FAULT = false →
      bitOf v B.PI_CONFIG_CLR_UNCERTAIN = false →
      s.fits (O.PI_CONFIG i) v = true →
      new = s.merged (O.PI_CONFIG i) v →
      new % 8 = s.get (O.PI_CONFIG i) % 8 →
      bitOf new B.PI_CONFIG_Z_HOME = s.bit (O.PI_CONFIG i) B.PI_CONFIG_Z_HOME →
      exec (.piConfigWrite p i v) s = .next ((s.set (O.PI_CONFIG i) new).forAll [0, 1, 2] (fun z q => if wireChecked z i q then z else z.wireOk i q))) ∧
  (∀ (p : Path) (i : Nat) (v : Nat) (new : Nat) (s : State),
      s.serves p (O.PI_CONFIG i) = true →
      i < 12 →
      bitOf v B.PI_CONFIG_CLR_FAULT = false →
      bitOf v B.PI_CONFIG_CLR_UNCERTAIN = false →
      s.fits (O.PI_CONFIG i) v = true →
      new = s.merged (O.PI_CONFIG i) v →
      new < 2 ^ 32 →
      new % 8 = s.get (O.PI_CONFIG i) % 8 →
      bitOf new B.PI_CONFIG_Z_HOME = s.bit (O.PI_CONFIG i) B.PI_CONFIG_Z_HOME →
      ∃ s', exec (.piConfigWrite p i v) s = .next s' ∧ s'.get (O.PI_CONFIG i) = new ∧
        s'.get (O.PI_COUNT i) = s.get (O.PI_COUNT i) ∧
        s'.get (O.PI_SPEED i) = s.get (O.PI_SPEED i)) ∧
  (∀ (p : Path) (i : Nat) (v : Nat) (s1 : State) (s2 : State) (s : State),
      s.serves p (O.PI_CONFIG i) = true →
      v = putBit (s.get (O.PI_CONFIG i)) B.PI_CONFIG_CLR_FAULT true →
      s.fits (O.PI_CONFIG i) v = true →
      s.merged (O.PI_CONFIG i) v = s.get (O.PI_CONFIG i) →
      bitOf v B.PI_CONFIG_CLR_UNCERTAIN = false →
      piPersists s i = false →
      s1 = s.set (O.PI_CONFIG i) (s.get (O.PI_CONFIG i)) →
      s2 = s1.piClear i →
      exec (.clrFault p i) s = .next (s2.forAll [0, 1, 2] (fun s q => if wireChecked s i q then s else s.wireOk i q))) ∧
  (∀ (p : Path) (i : Nat) (v : Nat) (s1 : State) (s2 : State) (s : State),
      s.serves p (O.PI_CONFIG i) = true →
      v = putBit (s.get (O.PI_CONFIG i)) B.PI_CONFIG_CLR_UNCERTAIN true →
      s.fits (O.PI_CONFIG i) v = true →
      s.merged (O.PI_CONFIG i) v = s.get (O.PI_CONFIG i) →
      bitOf v B.PI_CONFIG_CLR_FAULT = false →
      s1 = s.set (O.PI_CONFIG i) (s.get (O.PI_CONFIG i)) →
      s2 = s1.setB (O.PI_STATUS i) B.PI_STATUS_POS_UNCERTAIN false →
      exec (.clrUncertain p i) s = .next (s2.forAll [0, 1, 2] (fun s q => if wireChecked s i q then s else s.wireOk i q))) ∧
  (∀ (i : Nat) (pair : Nat) (t : Nat) (s1 : State) (s : State),
      bitOf ((s.adv t).fld (O.PI_STATUS i) B.PI_STATUS_WIRE_BAD) pair = true →
      tget 0 ((s.adv t).pif i).wireAt pair + 10 * fuUs ≤ (s.adv t).up →
      s1 = (s.adv t).setPif i { (s.adv t).pif i with wirePerm := setIns ((s.adv t).pif i).wirePerm pair } →
      piRuns s1 i = true →
      exec (.wireDisagreementHeld i pair t) s = .next (s1.piFaultNow i)) ∧
  (∀ (i : Nat) (t : Nat) (b : Nat) (s : State),
      ((s.adv t).pif i).badAt = some b →
      b + 100 * fuUs ≤ (s.adv t).up →
      piRuns (s.adv t) i = true →
      exec (.invalidHallHeld i t) s = .next (((s.adv t).setPif i { (s.adv t).pif i with hallPerm := true }).piFaultNow i))

/-- MS_ENABLE of a milestone that the host may claim, on an interface that is on, stores its configuration and claims it for
the host; MS_DISABLE of an enabled milestone releases it; RELAY_PULSE_END turns the pulse off in OUTPUT mode. (R100,
R102) -/
def Obligations.MilestonesAndRelaysAct : Prop :=
  (∀ (p : Path) (m : Nat) (v : Nat) (new : Nat) (s1 : State) (s2 : State) (s : State),
      s.serves p (O.MS_CONTROL m) = true →
      s.fits (O.MS_CONTROL m) (putBit v B.MS_CONTROL_ENABLE true) = true →
      new = s.merged (O.MS_CONTROL m) (putBit v B.MS_CONTROL_ENABLE true) →
      bitOf new B.MS_CONTROL_ENABLE = true →
      msEnabled s m = false →
      s1 = s.set (O.MS_CONTROL m) (putBit new B.MS_CONTROL_ENABLE false) →
      s1.get (O.MS_OWNER m) = 0 →
      piMode s1 (msPi s1 m) ≠ 0 →
      s2 = ((s1.set (O.MS_OWNER m) 1).setB (O.MS_CONTROL m) B.MS_CONTROL_ENABLE true).set (O.MS_STATUS m) 1 →
      msPast s2 m < 0 →
      exec (.msEnable p m v) s = .next (s2)) ∧
  (∀ (p : Path) (m : Nat) (v : Nat) (s : State),
      s.serves p (O.MS_CONTROL m) = true →
      s.fits (O.MS_CONTROL m) (putBit v B.MS_CONTROL_ENABLE false) = true →
      msEnabled s m = true →
      putBit (s.merged (O.MS_CONTROL m) (putBit v B.MS_CONTROL_ENABLE false)) B.MS_CONTROL_ENABLE true = s.get (O.MS_CONTROL m) →
      bitOf (s.merged (O.MS_CONTROL m) (putBit v B.MS_CONTROL_ENABLE false)) B.MS_CONTROL_ENABLE = false →
      exec (.msDisable p m v) s = .next (((s.setB (O.MS_CONTROL m) B.MS_CONTROL_ENABLE false).set (O.MS_OWNER m) 0).set (O.MS_STATUS m) 0)) ∧
  (∀ (a : Nat) (pair : Nat) (t : Nat) (e : Nat) (s1 : State) (s : State),
      ((s.adv t).relPair (4 * a + pair)).pulse = some e →
      e ≤ (s.adv t).up →
      s1 = { (s.adv t) with pulses := tdel (s.adv t).pulses (4 * a + pair) } →
      relayMode s1 a = 3 →
      exec (.relayPulseEnd a pair t) s = .next (s1.set (O.RL_STATUS a) (putBit (s1.get (O.RL_STATUS a)) pair false)))

/-- IN_TAIL_WRITE stores a tail within the queue; IN_RUN stores RUN and HALT_ON_ERROR; RESUME of a halted queue takes its
slot again; SKIP completes the refused waybill with code 10; WAYBILL_SLOT_READ of a well-formed slot takes it;
SLOT_FETCH_ERROR halts the queue with the address; INTAKE_READ_FAIL asks for the read again, twice at most; NOP with
JOB_ID 0 completes with code 0. (R106, R107, R109, R117, R118) -/
def Obligations.QueueCommandsAct : Prop :=
  (∀ (p : Path) (v : Nat) (s : State),
      s.serves p (O.IN_TAIL) = true →
      v % 65536 < s.get O.IN_Q_SLOTS →
      exec (.inTailWrite p v) s = .next ((s.set O.IN_TAIL (v % 65536)).inSync)) ∧
  (∀ (p : Path) (v : Nat) (s : State),
      s.serves p (O.IN_CONTROL) = true →
      exec (.inRun p v) s = .next ((s.set O.IN_CONTROL (v % 4)).inSync)) ∧
  (∀ (p : Path) (s1 : State) (s : State),
      s.serves p (O.IN_CONTROL) = true →
      s1 = s.set O.IN_CONTROL (s.get O.IN_CONTROL % 4) →
      s1.bit O.IN_STATUS B.IN_STATUS_HALTED = true →
      exec (.resume p) s = .next (((s1.setB O.IN_STATUS B.IN_STATUS_HALTED false).setIntake { s1.intake with stage := .idle, refused := none, tries := 0 }).inSync)) ∧
  (∀ (p : Path) (s1 : State) (r : (Nat × Nat)) (s : State),
      s.serves p (O.IN_CONTROL) = true →
      s1 = s.set O.IN_CONTROL (s.get O.IN_CONTROL % 4) →
      s1.bit O.IN_STATUS B.IN_STATUS_HALTED = true →
      s1.intake.refused = some r →
      exec (.skip p) s = .next (((s1.setB O.IN_STATUS B.IN_STATUS_HALTED false).complete 10 r.1).inSync)) ∧
  (∀ (bytes : List Byte) (s1 : State) (s : State),
      s.intake.stage = .idle →
      s.bit O.IN_STATUS B.IN_STATUS_RUNNING = true →
      s.bit O.IN_STATUS B.IN_STATUS_EMPTY = false →
      s.evs.linkUp = true →
      pauseHeld s = false →
      s1 = ((s.setIntake { s.intake with slot := bytes.take 112, tries := 0 }).inBytes 128).setStage .taken →
      bitOf (slotField s1 0 4) 31 = true →
      1 ≤ slotKind s1 →
      slotKind s1 ≤ 6 →
      slotField s1 3 1 % 64 = 0 →
      strayByte s1 ([24, 26, 12, 14, 8, 8].getD (slotKind s1 - 1) 8) = none →
      exec (.waybillSlotRead bytes) s = .next (s1)) ∧
  (∀ (addr : Nat) (cause : Nat) (s : State),
      s.intake.stage = .idle →
      s.bit O.IN_STATUS B.IN_STATUS_RUNNING = true →
      s.bit O.IN_STATUS B.IN_STATUS_EMPTY = false →
      s.evs.linkUp = true →
      exec (.slotFetchError addr cause) s = .next (((((s.set O.IN_ERR_ADDR_LO addr).set O.IN_ERR_ADDR_HI (addr / 2 ^ 32)).hit O.IN_EVENTS B.IN_EVENTS_FETCH_ERROR 547).emit
        (.note "slot read failed" [cause])).halt)) ∧
  (∀ (addr : Nat) (cause : Nat) (s : State),
      (s.intake.stage = .tableRead ∨ s.intake.stage = .copying) →
      s.intake.ask = false →
      s.evs.linkUp = true →
      s.intake.refused = none →
      s.intake.tries < 2 →
      exec (.intakeReadFail addr cause) s = .next ((((s.setIntake { s.intake with tries := s.intake.tries + 1, ask := true }).inc O.IN_RETRIES).hit O.IN_EVENTS B.IN_EVENTS_READ_RETRY 548).issue)) ∧
  (∀ (s : State),
      s.evs.linkUp = true →
      s.intake.stage = .taken →
      s.intake.refused = none →
      slotKind s = 5 →
      slotJob s = 0 →
      exec (.nop) s = .next (s.complete 0 0))

/-- JOB_OPEN of a legal job takes the FREE slot of least number and asks for its table, or sets WAIT_JOB and waits where no
slot is FREE; WAIT_JOB_END goes on with it in the same way, and a JOB_OPEN or BAND command whose read was held back asks
for it again; BAND of an open job goes on to its copy: it takes pages of the band store and asks for its block, waits
for space, or is refused with code 6 where the store could never hold it; WAIT_SPACE_END goes on with it in the same
way; JOB_CLOSE closes the job and completes with code 0; REPEAT sets the repetitions left and the gap of an OPEN job and
completes with code 0; RELEASE sets RELEASED and completes with code 0, and frees a HELD job. (R110, R112, R115, R116,
R120) -/
def Obligations.JobWaybillsAct : Prop :=
  (∀ (j : Nat) (s : State),
      s.evs.linkUp = true →
      s.intake.stage = .taken →
      s.intake.refused = none →
      slotKind s = 1 →
      slotField s 8 8 % 16 = 0 →
      slotField s 20 2 / 8 = 0 →
      1 ≤ slotField s 22 1 →
      slotField s 22 1 ≤ 16 →
      1 ≤ slotField s 23 1 →
      slotField s 23 1 ≤ 96 →
      s.bit O.BS_STATUS B.BS_STATUS_ONLINE = true →
      slotJob s ≠ 0 →
      slotOf s (slotJob s) = none →
      slotField s 16 4 = 16 + 16 * slotField s 22 1 + 8 * slotField s 23 1 →
      (slots.find? (fun j => decide (jobState s j = 0)) = some j) →
      exec (.jobOpen) s = .next (((s.setB O.IN_STATUS B.IN_STATUS_WAIT_JOB false).setIntake { s.intake with jobSlot := j, stage := .tableRead, tries := 0, ask := true }).issue)) ∧
  (∀ (s : State),
      s.evs.linkUp = true →
      s.intake.stage = .taken →
      s.intake.refused = none →
      slotKind s = 1 →
      slotField s 8 8 % 16 = 0 →
      slotField s 20 2 / 8 = 0 →
      1 ≤ slotField s 22 1 →
      slotField s 22 1 ≤ 16 →
      1 ≤ slotField s 23 1 →
      slotField s 23 1 ≤ 96 →
      s.bit O.BS_STATUS B.BS_STATUS_ONLINE = true →
      slotJob s ≠ 0 →
      slotOf s (slotJob s) = none →
      slotField s 16 4 = 16 + 16 * slotField s 22 1 + 8 * slotField s 23 1 →
      (slots.find? (fun j => decide (jobState s j = 0)) = none) →
      exec (.jobOpen) s = .next ((s.setB O.IN_STATUS B.IN_STATUS_WAIT_JOB true).setStage .waitJob)) ∧
  (∀ (s : State),
      s.intake.stage = .tableRead →
      s.intake.ask = true →
      s.evs.linkUp = true →
      pauseHeld s = false →
      exec (.jobOpen) s = .next ((s.setIntake { s.intake with ask := false }).emit (.hostRead (slotField s 8 8) (slotField s 16 4)))) ∧
  (∀ (j : Nat) (s : State),
      s.evs.linkUp = true →
      s.intake.stage = .waitJob →
      (slots.find? (fun j => decide (jobState s j = 0)) = some j) →
      exec (.waitJobEnd) s = .next (((s.setB O.IN_STATUS B.IN_STATUS_WAIT_JOB false).setIntake { s.intake with jobSlot := j, stage := .tableRead, tries := 0, ask := true }).issue)) ∧
  (∀ (s : State),
      s.evs.linkUp = true →
      s.intake.stage = .waitJob →
      (slots.find? (fun j => decide (jobState s j = 0)) = none) →
      exec (.waitJobEnd) s = .next ((s.setB O.IN_STATUS B.IN_STATUS_WAIT_JOB true).setStage .waitJob)) ∧
  (∀ (j : Nat) (s1 : State) (s : State),
      s.evs.linkUp = true →
      s.intake.stage = .taken →
      s.intake.refused = none →
      slotKind s = 2 →
      slotField s 8 8 % 64 = 0 →
      slotField s 16 4 % 64 = 0 →
      64 ≤ slotField s 16 4 →
      slotField s 16 4 ≤ 268435456 →
      1 ≤ slotField s 24 2 →
      slotField s 24 2 ≤ 4096 →
      slotOf s (slotJob s) = some j →
      s.bit O.BS_STATUS B.BS_STATUS_ONLINE = true →
      jobClosed s j = false →
      (s.job j).aborted = false →
      slotField s 20 4 = s.get (O.JOB_BANDS j) →
      s1 = s.setIntake { s.intake with jobSlot := j } →
      areaPages s1 - keptPages s1 < pagesFor (slotField s1 16 4) →
      exec (.band) s = .next ((s1.setB O.IN_STATUS B.IN_STATUS_WAIT_SPACE false).refuse 6 (min 65535 (pagesFor (slotField s1 16 4) / 16)))) ∧
  (∀ (j : Nat) (s1 : State) (s : State),
      s.evs.linkUp = true →
      s.intake.stage = .taken →
      s.intake.refused = none →
      slotKind s = 2 →
      slotField s 8 8 % 64 = 0 →
      slotField s 16 4 % 64 = 0 →
      64 ≤ slotField s 16 4 →
      slotField s 16 4 ≤ 268435456 →
      1 ≤ slotField s 24 2 →
      slotField s 24 2 ≤ 4096 →
      slotOf s (slotJob s) = some j →
      s.bit O.BS_STATUS B.BS_STATUS_ONLINE = true →
      jobClosed s j = false →
      (s.job j).aborted = false →
      slotField s 20 4 = s.get (O.JOB_BANDS j) →
      s1 = s.setIntake { s.intake with jobSlot := j } →
      pagesFor (slotField s1 16 4) ≤ areaPages s1 - keptPages s1 →
      s1.get O.BS_FREE_PAGES < pagesFor (slotField s1 16 4) →
      exec (.band) s = .next ((s1.setB O.IN_STATUS B.IN_STATUS_WAIT_SPACE true).setStage .waitSpace)) ∧
  (∀ (j : Nat) (s1 : State) (pages : List Nat) (s : State),
      s.evs.linkUp = true →
      s.intake.stage = .taken →
      s.intake.refused = none →
      slotKind s = 2 →
      slotField s 8 8 % 64 = 0 →
      slotField s 16 4 % 64 = 0 →
      64 ≤ slotField s 16 4 →
      slotField s 16 4 ≤ 268435456 →
      1 ≤ slotField s 24 2 →
      slotField s 24 2 ≤ 4096 →
      slotOf s (slotJob s) = some j →
      s.bit O.BS_STATUS B.BS_STATUS_ONLINE = true →
      jobClosed s j = false →
      (s.job j).aborted = false →
      slotField s 20 4 = s.get (O.JOB_BANDS j) →
      s1 = s.setIntake { s.intake with jobSlot := j } →
      pagesFor (slotField s1 16 4) ≤ areaPages s1 - keptPages s1 →
      pagesFor (slotField s1 16 4) ≤ s1.get O.BS_FREE_PAGES →
      pages = freePagesFrom s1.intake.used (areaPages s1) 0 (pagesFor (slotField s1 16 4)) →
      exec (.band) s = .next ((((s1.setB O.IN_STATUS B.IN_STATUS_WAIT_SPACE false).setIntake { s1.intake with stage := .copying, tries := 0, ask := true, pages := pages, used := pages.foldl setIns s1.intake.used }).pagesSync).issue)) ∧
  (∀ (s : State),
      s.intake.stage = .copying →
      s.intake.ask = true →
      s.evs.linkUp = true →
      pauseHeld s = false →
      exec (.band) s = .next ((s.setIntake { s.intake with ask := false }).emit (.hostRead (slotField s 8 8) (slotField s 16 4)))) ∧
  (∀ (s1 : State) (s : State),
      s.evs.linkUp = true →
      s.intake.stage = .waitSpace →
      s.intake.refused = none →
      s1 = s →
      areaPages s1 - keptPages s1 < pagesFor (slotField s1 16 4) →
      exec (.waitSpaceEnd) s = .next ((s1.setB O.IN_STATUS B.IN_STATUS_WAIT_SPACE false).refuse 6 (min 65535 (pagesFor (slotField s1 16 4) / 16)))) ∧
  (∀ (s1 : State) (s : State),
      s.evs.linkUp = true →
      s.intake.stage = .waitSpace →
      s.intake.refused = none →
      s1 = s →
      pagesFor (slotField s1 16 4) ≤ areaPages s1 - keptPages s1 →
      s1.get O.BS_FREE_PAGES < pagesFor (slotField s1 16 4) →
      exec (.waitSpaceEnd) s = .next ((s1.setB O.IN_STATUS B.IN_STATUS_WAIT_SPACE true).setStage .waitSpace)) ∧
  (∀ (s1 : State) (pages : List Nat) (s : State),
      s.evs.linkUp = true →
      s.intake.stage = .waitSpace →
      s.intake.refused = none →
      s1 = s →
      pagesFor (slotField s1 16 4) ≤ areaPages s1 - keptPages s1 →
      pagesFor (slotField s1 16 4) ≤ s1.get O.BS_FREE_PAGES →
      pages = freePagesFrom s1.intake.used (areaPages s1) 0 (pagesFor (slotField s1 16 4)) →
      exec (.waitSpaceEnd) s = .next ((((s1.setB O.IN_STATUS B.IN_STATUS_WAIT_SPACE false).setIntake { s1.intake with stage := .copying, tries := 0, ask := true, pages := pages, used := pages.foldl setIns s1.intake.used }).pagesSync).issue)) ∧
  (∀ (j : Nat) (s : State),
      s.evs.linkUp = true →
      s.intake.stage = .taken →
      s.intake.refused = none →
      slotKind s = 3 →
      slotOf s (slotJob s) = some j →
      jobClosed s j = false →
      (s.job j).aborted = false →
      slotField s 8 4 + 1 = s.get (O.JOB_BANDS j) →
      exec (.jobClose) s = .next ((((s.setJobFlag j 8 true).complete 0 0).lanesSync j).jobCheck j)) ∧
  (∀ (j : Nat) (s1 : State) (s2 : State) (s : State),
      s.evs.linkUp = true →
      s.intake.stage = .taken →
      s.intake.refused = none →
      slotKind s = 4 →
      slotOf s (slotJob s) = some j →
      jobKeep s j = true →
      jobClosed s j = true →
      jobReleased s j = false →
      s1 = (s.set (O.JOB_REPEAT_LEFT j) (slotField s 8 4)).setJobFlag j 10 (decide (slotField s 8 4 = 0)) →
      s2 = s1.setJob j { s1.job j with gap := slotField s 12 2 } →
      jobState s2 j = 1 →
      exec (.repeatJob) s = .next (s2.complete 0 0)) ∧
  (∀ (j : Nat) (s1 : State) (s : State),
      s.evs.linkUp = true →
      s.intake.stage = .taken →
      s.intake.refused = none →
      slotKind s = 6 →
      slotOf s (slotJob s) = some j →
      jobKeep s j = true →
      jobState s j ≠ 1 →
      jobReleased s j = false →
      s1 = (s.setJobFlag j 11 true).complete 0 0 →
      exec (.release) s = .next (if jobState s1 j = 4 then s1.jobFree j else (s1.lanesSync j).jobCheck j))

/-- JOB_TABLE_READ_DONE of a valid table makes the job QUEUED, eligible, with its id and flags, and completes;
BAND_COPY_DONE of a valid block stores it, adds the band and its pages to the job and completes; IN_JOB_ABORT of a known
job aborts it: it drains, and its bands that no line was handed on from go; JOB_ENTER_RUNNING, while no job is RUNNING,
puts the earliest eligible job into RUNNING and, where no action starts it, releases it to the Timetable; PAUSE_STEP
raises the pause level after IN_PAUSE_STEP with a hot die and lowers it after as long with a cool one; BS_TRAIN_DONE
brings the band store online with the configured capacity. (R110, R114, R119, R121, R125, R136) -/
def Obligations.JobReadsAndStatesAct : Prop :=
  (∀ (bytes : List Byte) (j : Nat) (s1 : State) (s2 : State) (s : State),
      s.intake.stage = .tableRead →
      s.intake.ask = false →
      s.evs.linkUp = true →
      s.intake.refused = none →
      tableError bytes (slotJob s) (slotField s 22 1) (slotField s 23 1) = none →
      s.intake.jobSlot = j →
      s1 = s.inBytes (slotField s 16 4) →
      s2 = (s1.setIntake { s1.intake with eligNext := s.intake.eligNext + 1 }).setJob j { planes := tablePlanes bytes (slotField s 22 1), stripes := tableStripes bytes (slotField s 22 1) (slotField s 23 1), elig := s.intake.eligNext } →
      exec (.jobTableReadDone bytes) s = .next ((((s2.setJobState j 1 true).set (O.JOB_JOB_ID j) (slotJob s)).set (O.JOB_FLAGS j) (slotField s 20 2 % 8)).complete 0 0)) ∧
  (∀ (bytes : List Byte) (j : Nat) (b : List Byte) (s1 : State) (ents : List BandEnt) (s : State),
      s.intake.stage = .copying →
      s.intake.ask = false →
      s.evs.linkUp = true →
      s.intake.refused = none →
      s.intake.jobSlot = j →
      s1 = s.inBytes (slotField s 16 4) →
      b = bytes.take (slotField s 16 4) →
      jobId s1 j = slotJob s1 →
      jobState s1 j ≠ 0 →
      (s.job j).aborted = false →
      ents = (List.range (s.job j).planes.length).map (dirEntry b) →
      (((s.job j).planes.zip ents).zipIdx.find? (fun q => !planeOk b (slotField s 16 4) (slotField s 24 2) ((8 * (s.job j).planes.length + 63) / 64 * 64) q.1.1 q.1.2) = none) →
      exec (.bandCopyDone bytes) s = .next (let s2 := (s1.addBand j b (slotField s 24 2) ents).complete 0 0; s2.forAll (jobPorts s2 j) (fun s n => s.ttSync n))) ∧
  (∀ (p : Path) (v : Nat) (j : Nat) (s1 : State) (s2 : State) (s3 : State) (s : State),
      s.serves p (O.IN_JOB_ABORT) = true →
      slotOf s (v % 65536) = some j →
      s1 = ((s.setJob j { s.job j with aborted := true, repSet := false }).set (O.JOB_REPEAT_LEFT j) 0).setJobFlag j 10 false →
      (s2 = (if jobState s1 j = 2 then s1.leaveRunning j else s1.setJobState j 3 false)) →
      s3 = s2.abortSweep j →
      exec (.inJobAbort p v) s = .next ((s3.forAll (jobPorts s2 j) (fun s n => s.ttSync n)).jobCheck j)) ∧
  (∀ (j : Nat) (s1 : State) (s : State),
      (slots.all (fun j => decide (jobState s j ≠ 2))) →
      (earliestEligible s (fun _ => true) = some j) →
      s1 = (s.setIntake { s.intake with runNext := s.intake.runNext + 1 }).enterRunning j 0 s.intake.runNext →
      jobByAction s1 j = false →
      exec (.jobEnterRunning) s = .next (((s1.toTimetable j startOrigin).jobCheck j).mtSync)) ∧
  (∀ (t : Nat) (l : Nat) (s1 : State) (stop : Nat) (s : State),
      s1 = (s.adv t).pauseSync →
      s1.intake.pauseDir = 1 →
      stop = s1.intake.pauseAt + s1.get O.IN_PAUSE_STEP * fuMs →
      stop ≤ s1.up →
      l = s1.fld O.IN_STATUS B.IN_STATUS_PAUSE_LEVEL →
      l < 3 →
      exec (.pauseStep t) s = .next (((s1.setIntake { s1.intake with pauseAt := stop }).setF O.IN_STATUS B.IN_STATUS_PAUSE_LEVEL (l + 1)).hit O.IN_EVENTS B.IN_EVENTS_PAUSE_CHANGED 549)) ∧
  (∀ (t : Nat) (l : Nat) (s1 : State) (stop : Nat) (s : State),
      s1 = (s.adv t).pauseSync →
      s1.intake.pauseDir = 2 →
      stop = s1.intake.pauseAt + s1.get O.IN_PAUSE_STEP * fuMs →
      stop ≤ s1.up →
      l = s1.fld O.IN_STATUS B.IN_STATUS_PAUSE_LEVEL →
      0 < l →
      l ≤ 3 →
      exec (.pauseStep t) s = .next (((s1.setIntake { s1.intake with pauseAt := stop }).setF O.IN_STATUS B.IN_STATUS_PAUSE_LEVEL (l - 1)).hit O.IN_EVENTS B.IN_EVENTS_PAUSE_CHANGED 549)) ∧
  (∀ (channels : Nat) (s1 : State) (s : State),
      s.intake.training = true →
      (s1 = (((s.setIntake { s.intake with training := false }).setF O.BS_STATUS B.BS_STATUS_CH_OK (andW channels (if s.bit O.BS_CONFIG B.BS_CONFIG_CHANNELS then 3 else 15))).setB O.BS_STATUS B.BS_STATUS_ONLINE true).setB O.BS_STATUS B.BS_STATUS_TRAIN_FAIL false) →
      exec (.bsTrainDone true channels) s = .next ((s1.set O.BS_CAPACITY (configMib s1)).pagesSync))

/-- UNPACKER_LINE of a lane that serves a stripe takes the next line of the job that it serves; SCREEN_LINE screens the line
the unpacker holds when the stitcher waits for none; LODGE_LINE lodges the screened line while there is room;
SCR_COMMIT_LINE and SCR_COMMIT_BAND of a legal shadow bank, with no commit pending, leave the commit pending, and act at
once on a lane that serves no stripe; SCR_COPY_DONE ends COPYING; SCR_MASK_CMD_MASK of a nozzle of the head marks it as
masked by the host, compensates one not masked before with the entry of least number that is not valid and raises
HP_NOZZLE, and overflows where every entry is valid; SCR_MASK_CMD_UNMASK of a masked nozzle unmasks it, makes its
compensation entry invalid and compensates the nozzles that waited for one; SCR_COMP_WRITE of an entry with VALID clear,
or of one for a nozzle of the head that no other entry names and with a sum of weights up to 24, stores the entry.
(R135, R139, R161, R165, R167, R169, R191) -/
def Obligations.LanesAct : Prop :=
  (∀ (n : Nat) (ecc : Nat) (addr : Nat) (j : Nat) (i : Nat) (s : State),
      (s.lane n).serves = some (j, i) →
      exec (.unpackerLine n ecc addr) s = .next (((s.unpackLine n ecc addr).laneNext n).jobCheck j)) ∧
  (∀ (n : Nat) (x : Line) (rest : List Line) (s : State),
      (s.lane n).raw = x :: rest →
      (s.lane n).coded = [] →
      exec (.screenLine n) s = .next ((s.setLane n { s.lane n with raw := rest }).screenLine n x)) ∧
  (∀ (n : Nat) (x : Line) (rest : List Line) (s : State),
      (s.lane n).coded = x :: rest →
      hasRoom s n = true →
      exec (.lodgeLine n) s = .next ((((s.setLane n { s.lane n with coded := rest }).lodgeLine n x).laneNext n).jobCheck x.job)) ∧
  (∀ (p : Path) (n : Nat) (s1 : State) (s : State),
      s.serves p (O.SCR_COMMIT n) = true →
      s.bit (O.SCR_STATUS n) B.SCR_STATUS_COMMIT_PENDING = false →
      commitCause s n = 0 →
      s1 = ((s.set (O.SCR_COMMIT_RESULT n) 1).setB (O.SCR_STATUS n) B.SCR_STATUS_COMMIT_PENDING true).setLane n { s.lane n with commit := 1 } →
      exec (.scrCommitLine p n) s = .next (if (s.lane n).serves = none then s1.commitApply n else s1)) ∧
  (∀ (p : Path) (n : Nat) (s1 : State) (s : State),
      s.serves p (O.SCR_COMMIT n) = true →
      s.bit (O.SCR_STATUS n) B.SCR_STATUS_COMMIT_PENDING = false →
      commitCause s n = 0 →
      s1 = ((s.set (O.SCR_COMMIT_RESULT n) 1).setB (O.SCR_STATUS n) B.SCR_STATUS_COMMIT_PENDING true).setLane n { s.lane n with commit := 2 } →
      exec (.scrCommitBand p n) s = .next (if (s.lane n).serves = none then s1.commitApply n else s1)) ∧
  (∀ (n : Nat) (s : State),
      exec (.scrCopyDone n) s = .next (s.setB (O.SCR_STATUS n) B.SCR_STATUS_COPYING false)) ∧
  (∀ (p : Path) (n : Nat) (v : Nat) (k : Nat) (e : Nat) (s1 : State) (s : State),
      s.serves p (O.SCR_MASK_CMD n) = true →
      k = v % 2 ^ 14 →
      k < nozzles s n →
      (s.mask n).all.contains k = false →
      s1 = s.setMask n { s.mask n with byHost := setIns (s.mask n).byHost k } →
      compFree s1 n = some e →
      exec (.scrMaskCmdMask p n v) s = .next (((s1.maskRaise n).compTake n e k).maskSync n)) ∧
  (∀ (p : Path) (n : Nat) (v : Nat) (k : Nat) (s1 : State) (s : State),
      s.serves p (O.SCR_MASK_CMD n) = true →
      k = v % 2 ^ 14 →
      k < nozzles s n →
      (s.mask n).all.contains k = false →
      s1 = s.setMask n { s.mask n with byHost := setIns (s.mask n).byHost k } →
      compFree s1 n = none →
      exec (.scrMaskCmdMask p n v) s = .next (((s1.setB (O.SCR_EVENTS n) B.SCR_EVENTS_COMP_OVERFLOW true).raise (evNozzle n) 0 (detailOf (O.SCR_EVENTS n) B.SCR_EVENTS_COMP_OVERFLOW)).maskSync n)) ∧
  (∀ (p : Path) (n : Nat) (v : Nat) (k : Nat) (s : State),
      s.serves p (O.SCR_MASK_CMD n) = true →
      k = v % 2 ^ 14 →
      k < nozzles s n →
      (s.mask n).all.contains k = true →
      exec (.scrMaskCmdMask p n v) s = .next (s.setMask n { s.mask n with byHost := setIns (s.mask n).byHost k })) ∧
  (∀ (p : Path) (n : Nat) (v : Nat) (k : Nat) (e : (Nat × Nat)) (s1 : State) (s : State),
      s.serves p (O.SCR_MASK_CMD n) = true →
      k = v % 2 ^ 14 →
      k < nozzles s n →
      (s.mask n).all.contains k = true →
      s1 = s.setMask n { s.mask n with byRoll := setDel (s.mask n).byRoll k, byHost := setDel (s.mask n).byHost k } →
      compOf s1 n k = some e →
      exec (.scrMaskCmdUnmask p n v) s = .next (((s1.set (compObj n e.1) (e.2 % 2 ^ 31)).promote n 256).maskSync n)) ∧
  (∀ (p : Path) (n : Nat) (v : Nat) (k : Nat) (s1 : State) (s : State),
      s.serves p (O.SCR_MASK_CMD n) = true →
      k = v % 2 ^ 14 →
      k < nozzles s n →
      (s.mask n).all.contains k = true →
      s1 = s.setMask n { s.mask n with byRoll := setDel (s.mask n).byRoll k, byHost := setDel (s.mask n).byHost k } →
      compOf s1 n k = none →
      exec (.scrMaskCmdUnmask p n v) s = .next ((s1.promote n 256).maskSync n)) ∧
  (∀ (p : Path) (n : Nat) (e : Nat) (v : Nat) (s : State),
      s.serves p (compObj n e) = true →
      compValid v = false →
      exec (.scrCompWrite p n e v) s = .next (((s.set (compObj n e) v).promote n 256).maskSync n)) ∧
  (∀ (p : Path) (n : Nat) (e : Nat) (v : Nat) (s1 : State) (s : State),
      s.serves p (compObj n e) = true →
      compValid v = true →
      compNozzle v < nozzles s n →
      fieldOf v ⟨14, 4⟩ + fieldOf v ⟨18, 4⟩ + fieldOf v ⟨22, 4⟩ + fieldOf v ⟨26, 4⟩ ≤ 24 →
      ((compEntries s n).all (fun p => decide (p.1 = e ∨ compNozzle p.2 ≠ compNozzle v))) →
      (s1 = if (s.mask n).all.contains (compNozzle v) then s else s.maskRaise n) →
      exec (.scrCompWrite p n e v) s = .next (((s1.set (compObj n e) v).promote n 256).maskSync n))

/-- SLOW_HOLD_EXPIRY ends the port's slow request once LG_SLOW_HOLD has passed since its hold began; LG_SLOW_HOST asserts
the host's request with 1 and releases it with 0; LG_CONTROL with 1 stores LG_FILL in LG_MIN_FILL and with 0 changes
nothing; PRED_STALL stalls a predictor in TRACKED mode that is not stalled when TT_STALL_TIME has passed since its last
edge; OFFSET_WRITE of either direction stores an offset within -2^47 to 2^47 - 1, with its live copy where the port is
not armed; TT_CONTROL with 1 clears TT_MAX_LAG and with 0 changes nothing. (R196, R197, R198, R205, R233, R236) -/
def Obligations.LodgingAndPredictorAct : Prop :=
  (∀ (n : Nat) (t : Nat) (t0 : Nat) (s : State),
      ((s.adv t).lodge n).holdSince = some t0 →
      (s.adv t).bit (O.LG_STATUS n) B.LG_STATUS_SLOW = true →
      t0 + (s.adv t).get (O.LG_SLOW_HOLD n) * fuUs ≤ (s.adv t).up →
      exec (.slowHoldExpiry n t) s = .next (((((s.adv t).setLodge n { (s.adv t).lodge n with holdSince := none }).setB (O.LG_STATUS n) B.LG_STATUS_SLOW false).setB (O.LG_EVENTS n)
        B.LG_EVENTS_SLOW_RELEASED true).slowOff 0 n)) ∧
  (∀ (p : Path) (v : Nat) (s : State),
      s.serves p (O.LG_SLOW_HOST) = true →
      v % 256 = 1 →
      exec (.lgSlowHost p v) s = .next ((s.set O.LG_SLOW_HOST 1).slowOn 3 0xFF)) ∧
  (∀ (p : Path) (v : Nat) (s : State),
      s.serves p (O.LG_SLOW_HOST) = true →
      v % 256 = 0 →
      exec (.lgSlowHost p v) s = .next ((s.set O.LG_SLOW_HOST 0).slowOff 3 0xFF)) ∧
  (∀ (p : Path) (n : Nat) (v : Nat) (s : State),
      s.serves p (O.LG_CONTROL n) = true →
      v % 256 ≤ 1 →
      exec (.lgControl p n v) s = .next (if v % 256 = 1 then s.set (O.LG_MIN_FILL n) (s.get (O.LG_FILL n)) else s)) ∧
  (∀ (i : Nat) (t : Nat) (s : State),
      predMode (s.adv t) i = 1 →
      (s.adv t).bit (O.TT_PRED_STATUS i) B.TT_PRED_STATUS_STALLED = false →
      ((s.adv t).pred i).lastUp + (s.adv t).get (O.TT_STALL_TIME i) * fuUs ≤ (s.adv t).up →
      exec (.predStall i t) s = .next (((s.adv t).predStallNow i).predUpdate i)) ∧
  (∀ (p : Path) (n : Nat) (rev : Bool) (v : Nat) (s1 : State) (s : State),
      (s.serves p (if rev then O.TT_OFFSET_REV n else O.TT_OFFSET_FWD n) = true) →
      -(2 ^ 47) ≤ toSigned 64 (v % 2 ^ 64) →
      toSigned 64 (v % 2 ^ 64) < 2 ^ 47 →
      (s1 = s.set (if rev then O.TT_OFFSET_REV n else O.TT_OFFSET_FWD n) (v % 2 ^ 64)) →
      exec (.offsetWrite p n rev v) s = .next ((if armed s n then s1 else s1.set (if rev then O.TT_OFFSET_REV_LIVE n else O.TT_OFFSET_FWD_LIVE n) (v % 2 ^ 64)).ttSync n)) ∧
  (∀ (p : Path) (n : Nat) (v : Nat) (s : State),
      s.serves p (O.TT_CONTROL n) = true →
      v % 256 ≤ 1 →
      exec (.ttControl p n v) s = .next (if v % 256 = 1 then s.set (O.TT_MAX_LAG n) 0 else s))

/-- ARM of a port that nothing of Table 8.3 refuses arms it; DISARM disarms it; LINE_RELEASE on an armed port in PRINT,
outside a shuttle, places the next line at the position and time that its predictor gives once that time is within the
send lead, and changes only the time before then; LINE_FIX of the first RELEASED line whose time is within the fix lead,
on a predictor whose time may be used, fixes a line that does not lag beyond the limit at its newest time and stores it
with its lag, and skips a line that lags beyond it: with the link down nothing is sent for it, and where its frame has
been asked for, the frame is dropped. (R212, R214, R227, R232) -/
def Obligations.SchedulersAct : Prop :=
  (∀ (p : Path) (n : Nat) (s : State),
      s.serves p (O.TT_ARM n) = true →
      armed s n = false →
      armRefusal s n = none →
      exec (.arm p n) s = .next (s.arm n)) ∧
  (∀ (p : Path) (n : Nat) (s : State),
      s.serves p (O.TT_ARM n) = true →
      armed s n = true →
      exec (.disarm p n) s = .next (s.disarm n)) ∧
  (∀ (n : Nat) (t : Nat) (ecc : Nat) (x : Line) (v : (Nat × Nat)) (s1 : State) (s : State),
      armed (s.advPort n t) n = true →
      (s.advPort n t).mode = mdPrint →
      nextLine (s.advPort n t) n = some x →
      shuttle (s.advPort n t) = false →
      s1 = (s.advPort n t).slewOffsets n →
      evalLine s1 n (linePos s1 n x (liveOffset s1 n x.rev)) x.rev (lastTime (s1.sched n)) = some v →
      ptLt (s1.pt + s1.get (O.TT_SEND_LEAD n) * 64) v.1 = false →
      exec (.lineRelease n t ecc) s = .next ((s1.placeLine n x (linePos s1 n x (liveOffset s1 n x.rev)) v ecc false).mtSync)) ∧
  (∀ (n : Nat) (t : Nat) (ecc : Nat) (x : Line) (v : (Nat × Nat)) (s1 : State) (s : State),
      armed (s.advPort n t) n = true →
      (s.advPort n t).mode = mdPrint →
      nextLine (s.advPort n t) n = some x →
      shuttle (s.advPort n t) = false →
      s1 = (s.advPort n t).slewOffsets n →
      evalLine s1 n (linePos s1 n x (liveOffset s1 n x.rev)) x.rev (lastTime (s1.sched n)) = some v →
      ptLt (s1.pt + s1.get (O.TT_SEND_LEAD n) * 64) v.1 = true →
      exec (.lineRelease n t ecc) s = .next ((s.advPort n t).mtSync)) ∧
  (∀ (n : Nat) (t : Nat) (prev : (Option Nat)) (x : TLine) (v : (Nat × Nat)) (s1 : State) (s2 : State) (s : State),
      firstReleased ((s.advPort n t).sched n).lastT ((s.advPort n t).sched n).lines = some (prev, x) →
      ptLt ((s.advPort n t).pt + (s.advPort n t).get (O.TT_FIX_LEAD n) * 64) x.time = false →
      evalLine (s.advPort n t) n x.pos x.line.rev prev = some v →
      extrapOk (s.advPort n t) n v.1 x.line.rev = true →
      v.2 ≤ lagLimit (s.advPort n t) n →
      s1 = (s.advPort n t).setSched n { (s.advPort n t).sched n with lines := putLine ((s.advPort n t).sched n).lines x.lseq (some { x with st := .fixed, time := v.1, lag := v.2 }) } →
      s2 = (((s1.set (O.TT_LAST_FIRE n) (v.1 + s1.get (O.TT_STAGGER_DELAY n))).setSat (O.TT_LAST_LAG n) v.2).rise (O.TT_MAX_LAG n) (min v.2 0xFFFFFFFF)).setB (O.TT_STATUS n) B.TT_STATUS_LAGGING (decide (v.2 ≠ 0)) →
      exec (.lineFix n t) s = .next ((if v.2 = 0 then s2 else s2.inc (O.TT_LATE_PLACED n)).ttSync n)) ∧
  (∀ (n : Nat) (t : Nat) (prev : (Option Nat)) (x : TLine) (v : (Nat × Nat)) (ls : (List TLine)) (on : (List TLine × Bool)) (s1 : State) (s2 : State) (s : State),
      firstReleased ((s.advPort n t).sched n).lastT ((s.advPort n t).sched n).lines = some (prev, x) →
      ptLt ((s.advPort n t).pt + (s.advPort n t).get (O.TT_FIX_LEAD n) * 64) x.time = false →
      evalLine (s.advPort n t) n x.pos x.line.rev prev = some v →
      extrapOk (s.advPort n t) n v.1 x.line.rev = true →
      lagLimit (s.advPort n t) n < v.2 →
      ls = putLine ((s.advPort n t).sched n).lines x.lseq none →
      (on = if x.start then startOn ls else (ls, false)) →
      s1 = (s.advPort n t).setSched n { (s.advPort n t).sched n with lines := on.1, start := ((s.advPort n t).sched n).start || on.2 } →
      (s2 = if x.frame = 0 ∨ linkUp s1 n = false then s1 else (s1.setLink n { s1.link n with astray := if x.frame = 1 ∨ x.frame = 2 then (s1.link n).astray ++ [(x.lseq, true)] else (s1.link n).astray }).lanePut n (.drop x.lseq)) →
      exec (.lineFix n t) s = .next (((s2.skipLine n { x.line with skip := true } x.start).ttSync n).jobCheck x.line.job))

/-- A write of HP_CONTROL with BRINGUP alone of a link that is OFF or FAILED, in CONFIGURE, READY or SERVICE, starts its
bring-up; one with RETIRE alone retires the port; one with CLR_RETIRE alone of a RETIRED port, outside PRINT, puts the
link OFF and forgets its errors; each stores RETRY_EN as written. TRAINING_TIMEOUT fails a link that has not locked 2 ms
after CK began; HEAD_SILENT retires a port whose link is UP 2 ms after its last message; RET_ERROR counts a malformed
message, and retires a port whose link is UP at the 33rd within 1 ms. A port that goes down or is retired leaves
maintenance. (R252, R261, R266, spec/09_head_port_link.md) -/
def Obligations.HeadLinkStatesAct : Prop :=
  (∀ (p : Path) (n : Nat) (v : Nat) (v1 : Nat) (s : State),
      s.serves p (O.HP_CONTROL n) = true →
      v1 = putBit v B.HP_CONTROL_BRINGUP true →
      bitOf v1 B.HP_CONTROL_CLR_RETIRE = false →
      bitOf v1 B.HP_CONTROL_RETIRE = false →
      ((s.mode = mdConfigure ∨ s.mode = mdReady ∨ s.mode = mdService) ∧ (linkState s n = 0 ∨ linkState s n = 4)) →
      exec (.bringup p n v) s = .next (((s.set (O.HP_CONTROL n) (andW v1 8)).bringUp n).mtSync)) ∧
  (∀ (p : Path) (n : Nat) (v : Nat) (v1 : Nat) (s : State),
      s.serves p (O.HP_CONTROL n) = true →
      v1 = putBit v B.HP_CONTROL_RETIRE true →
      bitOf v1 B.HP_CONTROL_CLR_RETIRE = false →
      bitOf v1 B.HP_CONTROL_BRINGUP = false →
      exec (.retire p n v) s = .next (((s.set (O.HP_CONTROL n) (andW v1 8)).retirePort n).mtSync)) ∧
  (∀ (p : Path) (n : Nat) (v : Nat) (v1 : Nat) (s1 : State) (s2 : State) (s : State),
      s.serves p (O.HP_CONTROL n) = true →
      v1 = putBit v B.HP_CONTROL_CLR_RETIRE true →
      bitOf v1 B.HP_CONTROL_RETIRE = false →
      bitOf v1 B.HP_CONTROL_BRINGUP = false →
      s.mode ≠ mdPrint →
      s1 = s.set (O.HP_CONTROL n) (andW v1 8) →
      retired s1 n = true →
      s2 = s1.linkOff n false →
      exec (.clrRetire p n v) s = .next ((s2.setLink n { s2.link n with badAt := [], refusedRow := 0, refusedAt := [], rotErrAt := [] }).mtSync)) ∧
  (∀ (n : Nat) (t : Nat) (s : State),
      linkState (s.adv t) n = 2 →
      ((s.adv t).link n).locked = false →
      ((s.adv t).link n).ckAt + 2 * fuMs ≤ (s.adv t).up →
      exec (.trainingTimeout n t) s = .next ((s.adv t).linkFail n B.HP_LINK_STATUS_TRAIN_FAIL)) ∧
  (∀ (n : Nat) (t : Nat) (s : State),
      linkUp (s.adv t) n = true →
      ((s.adv t).link n).lastMsg + 2 * fuMs ≤ (s.adv t).up →
      exec (.headSilent n t) s = .next ((((s.adv t).setB (O.HP_LINK_STATUS n) B.HP_LINK_STATUS_SILENT true).retirePort n).mtSync)) ∧
  (∀ (n : Nat) (t : Nat) (l : List Nat) (s1 : State) (s : State),
      l = (s.advPort n t).span fuMs ((s.advPort n t).link n).badAt →
      s1 = (((s.advPort n t).setLink n { (s.advPort n t).link n with badAt := l }).inc (O.HP_RET_ERRORS n)).setB (O.HP_LINK_STATUS n) B.HP_LINK_STATUS_RET_ERROR true →
      exec (.retError n t) s = .next (if linkUp s1 n ∧ 32 < l.length then (s1.retirePort n).mtSync else s1))

/-- LINE_FRAME_SEND, once the frame before has left, sends the first line that has no frame and fits the head's depth, or
whose frame is stale, and that is in time; ACK_RX of an outstanding frame ends it and marks the line as at the head, and
leaves the answer of a resend to be absorbed where it is under way or the answer came after its time limit; ACK_RX of a
frame whose answer is to be absorbed changes nothing else; NAK_RX of an outstanding frame and ACK_TIMEOUT once
HP_ACK_TIMEOUT has passed refuse it; STATUS_RX without ROT_ERR and UNIT_ERR stores the head's flags, judges its
temperature and retires the port at a head fault; each message is one in the present epoch on a link that is UP. (R241,
R254, R265) -/
def Obligations.HeadFramesAct : Prop :=
  (∀ (n : Nat) (t : Nat) (x : TLine) (s1 : State) (s : State),
      nextFrame (s.advPort n t) n = some x →
      ((s.advPort n t).link n).laneAt ≤ (s.advPort n t).up →
      (s1 = (s.advPort n t).setLink n { (s.advPort n t).link n with absorb := ((s.advPort n t).link n).absorb.filter (fun q => q ≠ x.lseq), late := ((s.advPort n t).link n).late.filter (fun q => q ≠ x.lseq) }) →
      exec (.lineFrameSend n t) s = .next ((s1.frameOut n x.lseq (laneFree s1 n) x.line.data).lineMap n x.lseq (fun y => { y with frame := 1, stale := false }))) ∧
  (∀ (n : Nat) (epoch : Nat) (lseq : Nat) (t : Nat) (o : (Nat × Nat)) (a : Bool) (s1 : State) (s : State),
      linkState (s.advPort n t) n = 3 →
      epoch % 16 = (s.advPort n t).get (O.HP_EPOCH n) % 16 →
      s1 = (s.advPort n t).setLink n { (s.advPort n t).link n with lastMsg := (s.advPort n t).up } →
      outstanding s1 n lseq = some o →
      a = (decide (s1.up < o.2) || (s1.link n).late.contains lseq) →
      exec (.ackRx n epoch lseq t) s = .next ((s1.setLink n { s1.link n with outs := (s1.link n).outs.erase o, refusedRow := 0, late := (s1.link n).late.filter (fun q => q ≠ lseq), absorb := if a then lseq :: (s1.link n).absorb else (s1.link n).absorb }).lineMap n lseq (fun x => { x with frame := 2 }))) ∧
  (∀ (n : Nat) (epoch : Nat) (lseq : Nat) (t : Nat) (s1 : State) (s : State),
      linkState (s.advPort n t) n = 3 →
      epoch % 16 = (s.advPort n t).get (O.HP_EPOCH n) % 16 →
      s1 = (s.advPort n t).setLink n { (s.advPort n t).link n with lastMsg := (s.advPort n t).up } →
      outstanding s1 n lseq = none →
      (s1.link n).absorb.contains lseq = true →
      exec (.ackRx n epoch lseq t) s = .next (s1.setLink n { s1.link n with absorb := (s1.link n).absorb.erase lseq })) ∧
  (∀ (n : Nat) (epoch : Nat) (lseq : Nat) (reason : Nat) (t : Nat) (o : (Nat × Nat)) (s1 : State) (s : State),
      linkState (s.advPort n t) n = 3 →
      epoch % 16 = (s.advPort n t).get (O.HP_EPOCH n) % 16 →
      s1 = (s.advPort n t).setLink n { (s.advPort n t).link n with lastMsg := (s.advPort n t).up } →
      outstanding s1 n lseq = some o →
      exec (.nakRx n epoch lseq reason t) s = .next ((s1.refuseFrame n lseq B.HP_LINK_STATUS_NAK).mtSync)) ∧
  (∀ (n : Nat) (lseq : Nat) (t : Nat) (o : (Nat × Nat)) (s1 : State) (s : State),
      outstanding (s.advPort n t) n lseq = some o →
      o.2 + (s.advPort n t).get (O.HP_ACK_TIMEOUT n) * 2560 ≤ (s.advPort n t).up →
      (s1 = (s.advPort n t).setLink n { (s.advPort n t).link n with late := lseq :: ((s.advPort n t).link n).late.filter (fun q => q ≠ lseq) }) →
      exec (.ackTimeout n lseq t) s = .next (((s1.inc (O.HP_ACK_TIMEOUTS n)).refuseFrame n lseq B.HP_LINK_STATUS_ACK_TIMEOUT).mtSync)) ∧
  (∀ (n : Nat) (epoch : Nat) (flags : Nat) (t : Nat) (f : Nat) (s1 : State) (s2 : State) (s3 : State) (s4 : State) (s : State),
      linkState (s.advPort n t) n = 3 →
      epoch % 16 = (s.advPort n t).get (O.HP_EPOCH n) % 16 →
      s1 = (s.advPort n t).setLink n { (s.advPort n t).link n with lastMsg := (s.advPort n t).up } →
      f = flags % 1024 →
      bitOf f 8 = false →
      bitOf f 9 = false →
      s2 = (s1.set (O.HP_HEAD_FLAGS n) f).setHealth n { s1.health n with hot := bitOf f 6 } →
      (s3 = if flags % 8 = 7 then s2 else s2.setB (O.HP_LINK_STATUS n) B.HP_LINK_STATUS_LOCK_LOST true) →
      s4 = s3.thermalEval n →
      exec (.statusRx n epoch flags t) s = .next ((if bitOf f 4 then (s4.setB (O.HP_LINK_STATUS n) B.HP_LINK_STATUS_HEAD_FAULT true).retirePort n else s4).mtSync))

/-- READ_DATA_RX and WRITE_DONE_RX of the host's outstanding access on a link that is UP give its data and result and end
it; CMD_DONE_RX in answer to a read of the host's gives its result; TRAIN_RESULT_RX of a link in training judges the
trim step that waits for it; CMD_TIMEOUT, once the time limit has passed since the command was sent, asks once more for
any command but the identity read; HP_RC_READ and HP_RC_WRITE start an access on a link that is UP or in identification
with no command outstanding and no record write, a write only outside curfew. (R256, R258, R259, R262, R267) -/
def Obligations.HeadCommandsAct : Prop :=
  (∀ (n : Nat) (epoch : Nat) (tag : Nat) (data : Nat) (t : Nat) (c : Cmd) (s1 : State) (s : State),
      linkState (s.advPort n t) n = 3 →
      epoch % 16 = (s.advPort n t).get (O.HP_EPOCH n) % 16 →
      s1 = (s.advPort n t).setLink n { (s.advPort n t).link n with lastMsg := (s.advPort n t).up } →
      (s1.link n).cmd = some c →
      c.op = 1 →
      c.use = 1 →
      c.tag = tag →
      exec (.readDataRx n epoch tag data t) s = .next (((s1.set (O.HP_RC_DATA n) (data % 2 ^ 32)).set (O.HP_RC_RESULT n) 0).cmdOver n)) ∧
  (∀ (n : Nat) (epoch : Nat) (tag : Nat) (result : Nat) (t : Nat) (c : Cmd) (s1 : State) (s : State),
      linkState (s.advPort n t) n = 3 →
      epoch % 16 = (s.advPort n t).get (O.HP_EPOCH n) % 16 →
      s1 = (s.advPort n t).setLink n { (s.advPort n t).link n with lastMsg := (s.advPort n t).up } →
      (s1.link n).cmd = some c →
      c.op = 2 →
      c.use = 1 →
      c.tag = tag →
      exec (.writeDoneRx n epoch tag result t) s = .next ((s1.set (O.HP_RC_RESULT n) (if result = 0 then 0 else result + 2)).cmdOver n)) ∧
  (∀ (n : Nat) (epoch : Nat) (tag : Nat) (result : Nat) (t : Nat) (c : Cmd) (s1 : State) (s : State),
      linkState (s.advPort n t) n = 3 →
      epoch % 16 = (s.advPort n t).get (O.HP_EPOCH n) % 16 →
      s1 = (s.advPort n t).setLink n { (s.advPort n t).link n with lastMsg := (s.advPort n t).up } →
      (s1.link n).cmd = some c →
      c.op = 1 →
      c.use = 1 →
      c.tag = tag →
      exec (.cmdDoneRx n epoch tag result t) s = .next ((s1.set (O.HP_RC_RESULT n) (if result = 0 then 0 else result + 2)).cmdOver n)) ∧
  (∀ (n : Nat) (epoch : Nat) (tag : Nat) (e0 : Nat) (e1 : Nat) (t : Nat) (c : Cmd) (s1 : State) (s : State),
      linkState (s.advPort n t) n = 2 →
      s1 = (s.advPort n t).setLink n { (s.advPort n t).link n with lastMsg := (s.advPort n t).up } →
      (s1.link n).cmd = some c →
      c.op = 6 →
      c.tag = tag →
      exec (.trainResultRx n epoch tag e0 e1 t) s = .next ((s1.cmdOver n).trimJudge n (decide (e0 = 0)) (decide (e1 = 0)))) ∧
  (∀ (n : Nat) (t : Nat) (c : Cmd) (a : Nat) (s : State),
      ((s.advPort n t).link n).cmd = some c →
      c.sentAt = some a →
      a + cmdLimit c ≤ (s.advPort n t).up →
      (c.use ≠ 0 ∨ ((s.advPort n t).link n).card ≠ []) →
      c.again = false →
      exec (.cmdTimeout n t) s = .next ((s.advPort n t).cmdSend n { c with again := true })) ∧
  (∀ (p : Path) (n : Nat) (s1 : State) (s : State),
      s.serves p (O.HP_RC_CMD n) = true →
      (s.link n).cmd = none →
      (linkState s n = 3 ∨ linkState s n = 1) →
      s.bit (O.HP_HEALTH_STATUS n) B.HP_HEALTH_STATUS_REC_BUSY = false →
      s1 = s.set (O.HP_RC_RESULT n) 1 →
      exec (.hpRcRead p n) s = .next (s1.cmdSend n { op := 1, a0 := s1.get (O.HP_RC_ADDR n), a1 := 0, use := 1 })) ∧
  (∀ (p : Path) (n : Nat) (s1 : State) (s : State),
      s.serves p (O.HP_RC_CMD n) = true →
      (s.link n).cmd = none →
      (linkState s n = 3 ∨ linkState s n = 1) →
      s.bit (O.HP_HEALTH_STATUS n) B.HP_HEALTH_STATUS_REC_BUSY = false →
      curfew s = false →
      s1 = s.set (O.HP_RC_RESULT n) 1 →
      exec (.hpRcWrite p n) s = .next (s1.cmdSend n { op := 2, a0 := s1.get (O.HP_RC_ADDR n), a1 := s1.get (O.HP_RC_DATA n), use := 1 }))

/-- LINE_LATCH of the first line, FIXED and not latched, from 12,800 fu before its first edge and once the port's FI is
over, takes a commit that may be taken, fixes its widths and its blank decision, counts a head blank where its frame is
missing or stale, and sends its ROT_RESET; ROTATION_START of the first line, latched, at its first edge, with the group
ON, drives its rotation, moves the mark, counts the line and contests the reading of its gap; ROTATION_END once FI is
over clears ROTATING and ends the spit rotation or the line that was fired. (R217, R269, R280, R281) -/
def Obligations.FiringLinesAct : Prop :=
  (∀ (n : Nat) (t : Nat) (x : TLine) (rest : List TLine) (s1 : State) (w : (State × List Nat × Bool)) (want : Bool) (nf : Bool) (s2 : State) (fl : Nat) (s3 : State) (s : State),
      ((s.advPort n t).sched n).lines = x :: rest →
      x.st = .fixed →
      x.latched = false →
      ptLt ((s.advPort n t).pt + 12800) (firstEdge (s.advPort n t) n x) = false →
      fiQuiet (s.advPort n t) n 0 = true →
      (s1 = (s.advPort n t).ptLatch n (if x.line.gap then none else some (x.line.jid, x.line.rep, x.line.band))) →
      w = s1.regulate n →
      (want = (!x.line.blank && (decide (x.frame = 0 ∨ x.frame = 4) || x.stale && decide (x.frame ≤ 2)))) →
      nf = (want || !x.line.blank && decide (x.frame = 3)) →
      (s2 = if want then w.1.headBlank n else w.1) →
      fl = rotFlags s2 n (x.line.blank || nf || w.2.2) ((s.advPort n t).sched n).newRun x.line.rev w.2.2 →
      s3 = s2.rotReset n x.lseq s2.up fl →
      exec (.lineLatch n t) s = .next (s3.setSched n { s3.sched n with lines := { x with latched := true, widths := w.2.1, noDrive := w.2.2, flags := fl, frame := if nf then 3 else x.frame } :: rest, newRun := false })) ∧
  (∀ (n : Nat) (t : Nat) (x : TLine) (rest : List TLine) (s1 : State) (s2 : State) (s : State),
      ((s.advPort n t).sched n).lines = x :: rest →
      x.st = .fixed →
      x.latched = true →
      ptLt (s.advPort n t).pt (firstEdge (s.advPort n t) n x) = false →
      groupOn (s.advPort n t) (groupOf n) = true →
      s1 = ((s.advPort n t).setSched n { (s.advPort n t).sched n with lines := { x with st := .firing } :: rest }).rotate n (firstEdge (s.advPort n t) n x) x.widths →
      s2 = ((s1.setMark n x.line.rev x.line.key x.line.num).dlSlew n).countFired n →
      exec (.rotationStart n t) s = .next ((s2.gapReading n (firstEdge (s.advPort n t) n x) (upAtPress s2 ((s2.fire n).endAt.getD s2.pt))).ttSync n)) ∧
  (∀ (n : Nat) (t : Nat) (s1 : State) (s : State),
      (s.advPort n t).bit (O.HP_FIRE_STATUS n) B.HP_FIRE_STATUS_ROTATING = true →
      fiQuiet (s.advPort n t) n 0 = true →
      ((s.advPort n t).fire n).spit = none →
      s1 = (s.advPort n t).setB (O.HP_FIRE_STATUS n) B.HP_FIRE_STATUS_ROTATING false →
      ((s1.sched n).lines.find? (fun x => decide (x.st = .firing)) = none) →
      exec (.rotationEnd n t) s = .next (s1.mtSync)) ∧
  (∀ (n : Nat) (t : Nat) (x : TLine) (s1 : State) (s2 : State) (s : State),
      (s.advPort n t).bit (O.HP_FIRE_STATUS n) B.HP_FIRE_STATUS_ROTATING = true →
      fiQuiet (s.advPort n t) n 0 = true →
      ((s.advPort n t).fire n).spit = none →
      s1 = (s.advPort n t).setB (O.HP_FIRE_STATUS n) B.HP_FIRE_STATUS_ROTATING false →
      ((s1.sched n).lines.find? (fun x => decide (x.st = .firing)) = some x) →
      (s2 = s1.setSched n { s1.sched n with lines := (s1.sched n).lines.filter (fun y => y.st ≠ .firing), lastT := some x.time }) →
      exec (.rotationEnd n t) s = .next (((((s2.lineDone x.line).passDone n x.line).jobCheck x.line.job).ttSync n).mtSync)) ∧
  (∀ (n : Nat) (t : Nat) (q : Nat) (s : State),
      (s.advPort n t).bit (O.HP_FIRE_STATUS n) B.HP_FIRE_STATUS_ROTATING = true →
      fiQuiet (s.advPort n t) n 0 = true →
      ((s.advPort n t).fire n).spit = some q →
      exec (.rotationEnd n t) s = .next ((((s.advPort n t).setB (O.HP_FIRE_STATUS n) B.HP_FIRE_STATUS_ROTATING false).setFire n { (s.advPort n t).fire n with spit := none }).mtSync))

/-- HP_PT_COMMIT_LINE and HP_PT_COMMIT_BAND of a shadow bank that passes its checks, with no commit waiting and, on an armed
port, with the slot, the nominal voltage and the least period kept, set RESULT 1 and PENDING with the value written, ask
a head whose link is UP for a new MAP where map or pulses change, and apply at once when nothing holds the commit back;
a train the checks refuse gives its cause and abort 0609_0030; WARM_PULSE_DUE of a port with a warming period in a
firing mode, not sooner than the period after the last due pulse, fires a pulse of the regulated width when every
condition holds, and otherwise counts it as skipped. (R277, R278, R292, R294, spec/10_firing_and_pulse_energy.md) -/
def Obligations.TrainsAndWarmingAct : Prop :=
  (∀ (p : Path) (n : Nat) (sh : Train) (lv : Train) (nw : Bool) (s1 : State) (s2 : State) (s : State),
      s.serves p (O.HP_PT_COMMIT n) = true →
      trainPending s n = false →
      sh = shadowTrain s n →
      lv = liveTrain s n →
      trainCause s n sh = 0 →
      (armed s n = false ∨ (sh.slot = lv.slot ∧ sh.vnom = lv.vnom ∧ minPeriodOf s n sh ≤ s.get (O.TT_MIN_PERIOD n))) →
      (nw = decide (sh.map ≠ lv.map ∨ sh.pulses ≠ lv.pulses)) →
      s1 = ((s.set (O.HP_PT_RESULT n) 1).setB (O.HP_PT_STATUS n) B.HP_PT_STATUS_PENDING true).setFire n { s.fire n with commit := 1, mapNew := nw } →
      (s2 = if nw ∧ linkUp s1 n then (s1.setB (O.HP_PT_STATUS n) B.HP_PT_STATUS_MAP_WAIT true).cmdQueue n { op := 3, a0 := sh.map, a1 := sh.pulses + 256 * rcGroups s1 n, use := 3 } else s1) →
      exec (.hpPtCommitLine p n) s = .next (s2.ptCheck n)) ∧
  (∀ (p : Path) (n : Nat) (cse : Nat) (s : State),
      s.serves p (O.HP_PT_COMMIT n) = true →
      trainPending s n = false →
      cse = trainCause s n (shadowTrain s n) →
      cse ≠ 0 →
      exec (.hpPtCommitLine p n) s = .next ((s.set (O.HP_PT_RESULT n) cse).abort p (O.HP_PT_COMMIT n).index (O.HP_PT_COMMIT n).sub .primary abRange)) ∧
  (∀ (p : Path) (n : Nat) (sh : Train) (lv : Train) (nw : Bool) (s1 : State) (s2 : State) (s : State),
      s.serves p (O.HP_PT_COMMIT n) = true →
      trainPending s n = false →
      sh = shadowTrain s n →
      lv = liveTrain s n →
      trainCause s n sh = 0 →
      (armed s n = false ∨ (sh.slot = lv.slot ∧ sh.vnom = lv.vnom ∧ minPeriodOf s n sh ≤ s.get (O.TT_MIN_PERIOD n))) →
      (nw = decide (sh.map ≠ lv.map ∨ sh.pulses ≠ lv.pulses)) →
      s1 = ((s.set (O.HP_PT_RESULT n) 1).setB (O.HP_PT_STATUS n) B.HP_PT_STATUS_PENDING true).setFire n { s.fire n with commit := 2, mapNew := nw } →
      (s2 = if nw ∧ linkUp s1 n then (s1.setB (O.HP_PT_STATUS n) B.HP_PT_STATUS_MAP_WAIT true).cmdQueue n { op := 3, a0 := sh.map, a1 := sh.pulses + 256 * rcGroups s1 n, use := 3 } else s1) →
      exec (.hpPtCommitBand p n) s = .next (s2.ptCheck n)) ∧
  (∀ (p : Path) (n : Nat) (cse : Nat) (s : State),
      s.serves p (O.HP_PT_COMMIT n) = true →
      trainPending s n = false →
      cse = trainCause s n (shadowTrain s n) →
      cse ≠ 0 →
      exec (.hpPtCommitBand p n) s = .next ((s.set (O.HP_PT_RESULT n) cse).abort p (O.HP_PT_COMMIT n).index (O.HP_PT_COMMIT n).sub .primary abRange)) ∧
  (∀ (n : Nat) (t : Nat) (s1 : State) (w : Nat) (s2 : State) (s : State),
      (s.advPort n t).get (O.HP_WARM_PERIOD n) ≠ 0 →
      firingMode (s.advPort n t) = true →
      (((s.advPort n t).fire n).warmAt.all (fun a => decide (a + (s.advPort n t).get (O.HP_WARM_PERIOD n) * 64 ≤ (s.advPort n t).up))) →
      s1 = (s.advPort n t).setFire n { (s.advPort n t).fire n with warmAt := some (s.advPort n t).up } →
      w = regulated (liveTrain s1 n).warm (s1.pg (groupOf n)).k →
      warmMay s1 n w = true →
      s2 = (s1.inc (O.HP_WARM_PULSES n)).setB (O.HP_FIRE_STATUS n) B.HP_FIRE_STATUS_WARMING true →
      exec (.warmPulseDue n t) s = .next ((s2.drive n (ofSigned 64 ((s2.pt : Int) + (dline s2 n).trim)) 1 0 [0] [w]).senseGrant)) ∧
  (∀ (n : Nat) (t : Nat) (s1 : State) (w : Nat) (s : State),
      (s.advPort n t).get (O.HP_WARM_PERIOD n) ≠ 0 →
      firingMode (s.advPort n t) = true →
      (((s.advPort n t).fire n).warmAt.all (fun a => decide (a + (s.advPort n t).get (O.HP_WARM_PERIOD n) * 64 ≤ (s.advPort n t).up))) →
      s1 = (s.advPort n t).setFire n { (s.advPort n t).fire n with warmAt := some (s.advPort n t).up } →
      w = regulated (liveTrain s1 n).warm (s1.pg (groupOf n)).k →
      warmMay s1 n w = false →
      exec (.warmPulseDue n t) s = .next (((s1.inc (O.HP_WARM_SKIPPED n)).setB (O.HP_FIRE_STATUS n) B.HP_FIRE_STATUS_WARMING false).senseGrant))

/-- PG_CONVERSION_DUE of a group in RAMP or ON, not sooner than HP_PG_PERIOD after the last, asks the sense bank anew, in
place of a request not yet granted; PG_V_STALE shows a voltage older in press time than HP_PG_V_AGE of a group in RAMP
or ON; PG_CLAMP_TIMEOUT of a group that is ON, HP_PG_CLAMP_TIME after its clamp began or its voltage went stale, and
PG_RAMP_TIMEOUT of a group in RAMP after HP_PG_RAMP_LIMIT put the group in FAULT with causes 1 and 0; HPEN_OFF lowers
HPENg of a group that is going off 1 µs after the last falling edge of its ports; PG_ENABLE, PG_CLR_FAULT and
PG_CLR_STATS store ENABLE, which may not be cleared while a port of the group is armed, and clear the fault, outside
PRINT, and the statistics. (R282, R287, R288, R290, R291, R297) -/
def Obligations.PowerGroupsAct : Prop :=
  (∀ (g : Nat) (t : Nat) (s1 : State) (s2 : State) (s : State),
      (groupState (s.adv t) g = 1 ∨ groupState (s.adv t) g = 2) →
      (((s.adv t).pg g).dueAt.all (fun a => decide (a + (s.adv t).get (O.HP_PG_PERIOD g) * 64 ≤ (s.adv t).up))) →
      s1 = (s.adv t).setPg g { (s.adv t).pg g with dueAt := some (s.adv t).up } →
      (s2 = s1.senseWithdraw (fun r => decide (r.what = Sensed.group ∧ r.inst = g))) →
      exec (.pgConversionDue g t) s = .next (s2.senseAsk { cls := 0, inst := g, what := Sensed.group, input := 0x60 + g, entered := senseCycle s2 })) ∧
  (∀ (g : Nat) (t : Nat) (s : State),
      (groupState (s.adv t) g = 1 ∨ groupState (s.adv t) g = 2) →
      (s.adv t).bit (O.HP_PG_STATUS g) B.HP_PG_STATUS_V_STALE = false →
      voltageStale (s.adv t) g = true →
      exec (.pgVStale g t) s = .next (((s.adv t).setB (O.HP_PG_STATUS g) B.HP_PG_STATUS_V_STALE true).setPg g { (s.adv t).pg g with staleAt := some (s.adv t).up })) ∧
  (∀ (g : Nat) (t : Nat) (a : Nat) (s : State),
      groupState (s.adv t) g = 2 →
      (s.adv t).get (O.HP_PG_CLAMP_TIME g) ≠ 0 →
      (((s.adv t).pg g).clampAt = some a ∨ ((s.adv t).pg g).staleAt = some a) →
      a + (s.adv t).get (O.HP_PG_CLAMP_TIME g) * fuUs ≤ (s.adv t).up →
      exec (.pgClampTimeout g t) s = .next (((s.adv t).pgFault g 1).mtSync)) ∧
  (∀ (g : Nat) (t : Nat) (s : State),
      groupState (s.adv t) g = 1 →
      ((s.adv t).pg g).rampAt + (s.adv t).get (O.HP_PG_RAMP_LIMIT g) * fuMs ≤ (s.adv t).up →
      exec (.pgRampTimeout g t) s = .next (((s.adv t).pgFault g 0).mtSync)) ∧
  (∀ (g : Nat) (t : Nat) (s : State),
      ((s.adv t).pg g).falling = true →
      (∀ k, k < 12 → (s.adv t).bit (O.HP_FIRE_STATUS (12 * g + k)) B.HP_FIRE_STATUS_ROTATING = false ∧ fiQuiet (s.adv t) (12 * g + k) fuUs = true) →
      exec (.hpenOff g t) s = .next (((s.adv t).setB (O.HP_PG_STATUS g) B.HP_PG_STATUS_HPEN false).setPg g { (s.adv t).pg g with falling := false })) ∧
  (∀ (p : Path) (g : Nat) (on : Bool) (s : State),
      s.serves p (O.HP_PG_CONTROL g) = true →
      (on = true ∨ s.bit (O.HP_PG_CONTROL g) B.HP_PG_CONTROL_ENABLE = false ∨ ∀ k, k < 12 → armed s (12 * g + k) = false) →
      exec (.pgEnable p g on) s = .next (((s.setB (O.HP_PG_CONTROL g) B.HP_PG_CONTROL_ENABLE on).pgSync g).mtSync)) ∧
  (∀ (p : Path) (g : Nat) (v : Nat) (en : Bool) (s1 : State) (s2 : State) (s : State),
      s.serves p (O.HP_PG_CONTROL g) = true →
      en = bitOf v B.HP_PG_CONTROL_ENABLE →
      (en = true ∨ s.bit (O.HP_PG_CONTROL g) B.HP_PG_CONTROL_ENABLE = false ∨ ∀ k, k < 12 → armed s (12 * g + k) = false) →
      s1 = s.setB (O.HP_PG_CONTROL g) B.HP_PG_CONTROL_ENABLE en →
      bitOf v B.HP_PG_CONTROL_CLR_STATS = false →
      (groupState s g ≠ 3 ∨ s.mode ≠ mdPrint) →
      (s2 = if groupState s g = 3 then (s1.setF (O.HP_PG_STATUS g) B.HP_PG_STATUS_STATE 0).setB (O.HP_PG_STATUS g) B.HP_PG_STATUS_FAULT_CAUSE false else s1) →
      exec (.pgClrFault p g v) s = .next ((s2.pgSync g).mtSync)) ∧
  (∀ (p : Path) (g : Nat) (v : Nat) (en : Bool) (s1 : State) (s : State),
      s.serves p (O.HP_PG_CONTROL g) = true →
      en = bitOf v B.HP_PG_CONTROL_ENABLE →
      (en = true ∨ s.bit (O.HP_PG_CONTROL g) B.HP_PG_CONTROL_ENABLE = false ∨ ∀ k, k < 12 → armed s (12 * g + k) = false) →
      s1 = s.setB (O.HP_PG_CONTROL g) B.HP_PG_CONTROL_ENABLE en →
      bitOf v B.HP_PG_CONTROL_CLR_FAULT = false →
      exec (.pgClrStats p g v) s = .next (((((s1.set (O.HP_PG_V_MIN g) 32767).set (O.HP_PG_PEAK g) 0).setPg g { s1.pg g with peaked := false }).pgSync g).mtSync))

/-- ROLL_IDLE_DUE, not sooner than HP_ROLL_IDLE_PERIOD after the last, asks for roll call's next reading of a port on which
roll call runs, that prints nothing and asks for nothing else, and otherwise for none; TEMP_READING_DUE, not sooner than
HP_TEMP_PERIOD after the last, of a link that is UP with no sensing fault marks the reading as due and asks for source
TEMP, or leaves the reading to the rotation gap while the port prints; TEMP_AGE_EXPIRY, once the last temperature, or
where there is none the link's coming UP, is older than HP_TEMP_AGE, sets TEMP_STALE and HP_TEMP 0x8000; CLR_SNS_FAULT
with a REF reading that passes, and CLR_BROKEN with a plausible TEMP reading, outside PRINT with the link UP, clear the
fault and store the other bits, and with ROLL_EN clear drop the port's roll call readings. (R300, R305, R308, R310,
spec/11_head_health_and_twinning.md) -/
def Obligations.HeadReadingsAct : Prop :=
  (∀ (n : Nat) (t : Nat) (s1 : State) (s : State),
      tooEarly (s.advPort n t) ((s.advPort n t).health n).idleAt ((s.advPort n t).get (O.HP_ROLL_IDLE_PERIOD n) * 2560) = false →
      s1 = (s.advPort n t).setHealth n { (s.advPort n t).health n with idleAt := some (s.advPort n t).up } →
      rollRuns s1 n = true →
      printing s1 n = false →
      (asking s1 (fun r => ofPort n r && r.what != Sensed.temp) = false) →
      exec (.rollIdleDue n t) s = .next (s1.senseAsk (headReq s1 n 7 (rollNext s1 n).1 (rollNext s1 n).2))) ∧
  (∀ (n : Nat) (t : Nat) (s1 : State) (s : State),
      tooEarly (s.advPort n t) ((s.advPort n t).health n).idleAt ((s.advPort n t).get (O.HP_ROLL_IDLE_PERIOD n) * 2560) = false →
      s1 = (s.advPort n t).setHealth n { (s.advPort n t).health n with idleAt := some (s.advPort n t).up } →
      (rollRuns s1 n = false ∨ printing s1 n = true ∨ asking s1 (fun r => ofPort n r && r.what != Sensed.temp) = true) →
      exec (.rollIdleDue n t) s = .next (s1)) ∧
  (∀ (n : Nat) (t : Nat) (s1 : State) (s2 : State) (s : State),
      tooEarly (s.advPort n t) ((s.advPort n t).health n).tempRdAt ((s.advPort n t).get (O.HP_TEMP_PERIOD n) * fuUs) = false →
      s1 = (s.advPort n t).setHealth n { (s.advPort n t).health n with tempRdAt := some (s.advPort n t).up } →
      linkUp s1 n = true →
      snsFault s1 n = false →
      s2 = s1.setHealth n { s1.health n with tempDue := true } →
      printing s2 n = true →
      exec (.tempReadingDue n t) s = .next (s2.gapTemp n)) ∧
  (∀ (n : Nat) (t : Nat) (s1 : State) (s2 : State) (s : State),
      tooEarly (s.advPort n t) ((s.advPort n t).health n).tempRdAt ((s.advPort n t).get (O.HP_TEMP_PERIOD n) * fuUs) = false →
      s1 = (s.advPort n t).setHealth n { (s.advPort n t).health n with tempRdAt := some (s.advPort n t).up } →
      linkUp s1 n = true →
      snsFault s1 n = false →
      s2 = s1.setHealth n { s1.health n with tempDue := true } →
      printing s2 n = false →
      (asking s2 (fun r => ofPort n r && r.what == Sensed.temp) = false) →
      (∀ k, k < 8 → n ∉ (s2.mt k).ports ∨ s2.get (O.MT_KIND k) < 6) →
      exec (.tempReadingDue n t) s = .next (s2.senseAsk (headReq s2 n 4 Sensed.temp 0))) ∧
  (∀ (n : Nat) (t : Nat) (a : Nat) (s : State),
      (((s.adv t).health n).tempAt = some a ∨ (((s.adv t).health n).tempAt = none ∧ linkUp (s.adv t) n = true ∧ ((s.adv t).health n).upAt = a)) →
      ptLt (a + (s.adv t).get (O.HP_TEMP_AGE n) * fuMs) (s.adv t).pt = true →
      (s.adv t).bit (O.HP_HEALTH_STATUS n) B.HP_HEALTH_STATUS_TEMP_STALE = false →
      exec (.tempAgeExpiry n t) s = .next ((((((s.adv t).setB (O.HP_HEALTH_STATUS n) B.HP_HEALTH_STATUS_TEMP_STALE true).set (O.HP_TEMP n) 0x8000).thermalEval n).regulateTemp n).mtSync)) ∧
  (∀ (p : Path) (n : Nat) (v : Nat) (x : Nat) (v1 : Nat) (s1 : State) (s2 : State) (s3 : State) (s : State),
      s.serves p (O.HP_HEALTH_CONTROL n) = true →
      v1 = putBit (putBit v B.HP_HEALTH_CONTROL_CLR_BROKEN false) B.HP_HEALTH_CONTROL_CLR_SNS_FAULT true →
      s.mode ≠ mdPrint →
      linkUp s n = true →
      refPasses x = true →
      s1 = (s.set (O.HP_HEALTH_CONTROL n) (v1 % 32)).setB (O.HP_HEALTH_STATUS n) B.HP_HEALTH_STATUS_SNS_FAULT false →
      s2 = s1.setHealth n { s1.health n with refFails := 0, sinceRef := 0, confirms := [] } →
      (s3 = if bitOf v1 B.HP_HEALTH_CONTROL_ROLL_EN then s2 else s2.senseDrop (fun r => ofPort n r && r.what != Sensed.temp && r.slot.isNone)) →
      exec (.clrSnsFault p n v (some x)) s = .next ((s3.regulateTemp n).mtSync)) ∧
  (∀ (p : Path) (n : Nat) (v : Nat) (x : Nat) (v1 : Nat) (r : (Int × State)) (s1 : State) (s2 : State) (s3 : State) (s4 : State) (s5 : State) (s : State),
      s.serves p (O.HP_HEALTH_CONTROL n) = true →
      v1 = putBit (putBit v B.HP_HEALTH_CONTROL_CLR_SNS_FAULT false) B.HP_HEALTH_CONTROL_CLR_BROKEN true →
      s.mode ≠ mdPrint →
      linkUp s n = true →
      r = s.tempOf n x →
      plausible s x r.1 = true →
      s1 = r.2.set (O.HP_HEALTH_CONTROL n) (v1 % 32) →
      s2 = (s1.setF (O.HP_HEALTH_STATUS n) B.HP_HEALTH_STATUS_THERMAL 0).setB (O.HP_HEALTH_STATUS n) B.HP_HEALTH_STATUS_INHIBITED false →
      (s3 = if thermalState s1 n = 3 then ((s2.setB (O.HP_HEALTH_STATUS n) B.HP_HEALTH_STATUS_PAUSE false).warnSync n).ttSync n else s1) →
      s4 = s3.tempTake n r.1 →
      (s5 = if bitOf v1 B.HP_HEALTH_CONTROL_ROLL_EN then s4 else s4.senseDrop (fun r => ofPort n r && r.what != Sensed.temp && r.slot.isNone)) →
      exec (.clrBroken p n v (some x)) s = .next ((s5.regulateTemp n).mtSync))

/-- HP_RANK_SET of 0 to 7 outside PRINT sets HP_RANK and, where it changes, raises RANK_CHANGED and makes a record write
pending; a write of 1 to HP_REC_CMD makes a record write pending and 2 cancels it; REC_WRITE_START of a pending write
whose conditions hold begins it with the slot that does not hold the valid record and the next SEQ, with the values of
that moment, and under curfew defers it; HP_TWIN takes a port that no other port names, or 0xFF, while the port serves
no stripe; HP_TWIN_CMD 1 of the primary of an unserved stripe has the stripe assigned, and of another port gives up its
stripes in PRINT; HP_TWIN_CMD 2 in PRINT hands the stripe that the port serves for another primary in a RUNNING or
DRAINING job back, and does nothing outside PRINT. (R314, R316, R319, R321, R322) -/
def Obligations.RecordsAndTwinsAct : Prop :=
  (∀ (p : Path) (n : Nat) (v : Nat) (s : State),
      s.serves p (O.HP_RANK_SET n) = true →
      v ≤ 7 →
      s.mode ≠ mdPrint →
      exec (.hpRankSet p n v) s = .next (if s.get (O.HP_RANK n) = v then s else ((s.set (O.HP_RANK n) v).hit (O.HP_HEALTH_EVENTS n) B.HP_HEALTH_EVENTS_RANK_CHANGED (evNozzle n)).recPend n 3 false)) ∧
  (∀ (p : Path) (n : Nat) (s1 : State) (s : State),
      s.serves p (O.HP_REC_CMD n) = true →
      s1 = s.setHealth n { s.health n with recByMask := false } →
      exec (.recWriteRequest p n) s = .next (s1.setB (O.HP_HEALTH_STATUS n) B.HP_HEALTH_STATUS_REC_PENDING true)) ∧
  (∀ (p : Path) (n : Nat) (s : State),
      s.serves p (O.HP_REC_CMD n) = true →
      exec (.recWriteCancel p n) s = .next (s.setB (O.HP_HEALTH_STATUS n) B.HP_HEALTH_STATUS_REC_PENDING false)) ∧
  (∀ (n : Nat) (t : Nat) (slot : Nat) (seq : Nat) (s1 : State) (s : State),
      (s.adv t).bit (O.HP_HEALTH_STATUS n) B.HP_HEALTH_STATUS_REC_PENDING = true →
      (s.adv t).bit (O.HP_HEALTH_STATUS n) B.HP_HEALTH_STATUS_REC_BUSY = false →
      (s.adv t).bit (O.HP_HEALTH_STATUS n) B.HP_HEALTH_STATUS_REC_DISABLED = false →
      linkUp (s.adv t) n = true →
      (s.adv t).get (O.HP_RC_RESULT n) ≠ 1 →
      (((s.adv t).health n).recAt.all (fun a => !((s.adv t).health n).recByMask || decide (a + (s.adv t).get (O.HP_REC_MIN_GAP n) * fuS ≤ (s.adv t).up))) →
      (((s.adv t).health n).recHold.all (fun a => decide (a ≤ (s.adv t).up))) →
      curfew (s.adv t) = false →
      (slot = if (s.adv t).bit (O.HP_STATE n) B.HP_STATE_CALIB_VALID ∧ (s.adv t).bit (O.HP_STATE n) B.HP_STATE_CALIB_SLOT = false then 1 else 0) →
      (seq = (if (s.adv t).bit (O.HP_STATE n) B.HP_STATE_CALIB_VALID then ((s.adv t).health n).calSeq + 1 else 1) % 2 ^ 32) →
      s1 = (s.adv t).setHealth n { (s.adv t).health n with recAt := some (s.adv t).up, recHold := none, recByMask := false, recWrite := some { slot := slot, seq := seq, pre := recPre (s.adv t) n, post := recPost (s.adv t) n } } →
      exec (.recWriteStart n t) s = .next (((s1.setB (O.HP_HEALTH_STATUS n) B.HP_HEALTH_STATUS_REC_BUSY true).setB (O.HP_HEALTH_STATUS n) B.HP_HEALTH_STATUS_REC_PENDING false).recNext n)) ∧
  (∀ (n : Nat) (t : Nat) (s : State),
      (s.adv t).bit (O.HP_HEALTH_STATUS n) B.HP_HEALTH_STATUS_REC_PENDING = true →
      (s.adv t).bit (O.HP_HEALTH_STATUS n) B.HP_HEALTH_STATUS_REC_BUSY = false →
      (s.adv t).bit (O.HP_HEALTH_STATUS n) B.HP_HEALTH_STATUS_REC_DISABLED = false →
      linkUp (s.adv t) n = true →
      (s.adv t).get (O.HP_RC_RESULT n) ≠ 1 →
      (((s.adv t).health n).recAt.all (fun a => !((s.adv t).health n).recByMask || decide (a + (s.adv t).get (O.HP_REC_MIN_GAP n) * fuS ≤ (s.adv t).up))) →
      (((s.adv t).health n).recHold.all (fun a => decide (a ≤ (s.adv t).up))) →
      curfew (s.adv t) = true →
      exec (.recWriteStart n t) s = .next ((s.adv t).deferred)) ∧
  (∀ (p : Path) (n : Nat) (v : Nat) (s : State),
      s.serves p (O.HP_TWIN n) = true →
      v ≠ n →
      v ≤ 95 →
      (∀ k, k < 96 → k ≠ n → s.get (O.HP_TWIN k) ≠ v) →
      servedBy s n = none →
      exec (.hpTwinWrite p n v) s = .next (s.set (O.HP_TWIN n) v)) ∧
  (∀ (p : Path) (n : Nat) (v : Nat) (s : State),
      s.serves p (O.HP_TWIN n) = true →
      v = 0xFF →
      n < 96 →
      servedBy s n = none →
      exec (.hpTwinWrite p n v) s = .next (s.set (O.HP_TWIN n) 0xFF)) ∧
  (∀ (p : Path) (n : Nat) (s : State),
      s.serves p (O.HP_TWIN_CMD n) = true →
      ((slots.filter (fun j => decide (jobState s j = 2 ∨ jobState s j = 3))).findSome? (fun j => (stripeIdx s j n).bind (fun i => if (tget (0, 0) (s.job j).srv i).1 = 0xFF then some (j, i) else none)) = none) →
      exec (.twinTakeOver p n) s = .next ((if s.mode = mdPrint then s.loseStripes n 4 else s).mtSync)) ∧
  (∀ (p : Path) (n : Nat) (j : Nat) (i : Nat) (s : State),
      s.serves p (O.HP_TWIN_CMD n) = true →
      ((slots.filter (fun j => decide (jobState s j = 2 ∨ jobState s j = 3))).findSome? (fun j => (stripeIdx s j n).bind (fun i => if (tget (0, 0) (s.job j).srv i).1 = 0xFF then some (j, i) else none)) = some (j, i)) →
      exec (.twinTakeOver p n) s = .next ((s.assignUnserved j i n).mtSync)) ∧
  (∀ (p : Path) (n : Nat) (s : State),
      s.serves p (O.HP_TWIN_CMD n) = true →
      s.mode ≠ mdPrint →
      exec (.twinHandBack p n) s = .next (s.mtSync)) ∧
  (∀ (p : Path) (n : Nat) (s : State),
      s.serves p (O.HP_TWIN_CMD n) = true →
      s.mode = mdPrint →
      exec (.twinHandBack p n) s = .next ((s.forAll (slots.filter (fun j => decide (jobState s j = 2 ∨ jobState s j = 3))) (fun s j => match servedStripe s j n with | none => s | some i => if (stripeAt s j i).port = n then s else s.takeover j i n (stripeAt s j i).port 5)).mtSync))

/-- SENSE_CONVERSION_DONE of a conversion that has begun, at its end, steps the coefficients and gives the corrected code to
what asked for it: a host sequence stores it as the next result, or a free value with INVALID where the reference is at
fault or a conversion before was cut off, and goes on or ends, and a power group, a supply input, a motor and a head
take a valid reading; SENSE_DEADLINE withdraws every timed request that can no longer begin in time; SENSE_HOLD_CUT at
the hold limit, where the last conversion does not end in that cycle, counts the cut, raises EV557, frees the converter
and loses its holder's reading, and the 17th cut of a class in 10 ms of press time is a storm; SENSE_CONV_TIMEOUT, 1 µs
after a conversion's end, gives an invalid result, and drops the converter at the third in 1 ms; REF_FAULT outside RESET
and BOOT sets the fault and REF_FAULT_CLEAR clears it 1 ms after; DIE_READING_DUE outside RESET and BOOT, not sooner
than SB_DIE_PERIOD after the last, asks anew in place of a request not yet granted. (R332, R333, R337, R338, R341, R351,
R575) -/
def Obligations.ConversionsAct : Prop :=
  (∀ (c : Nat) (code : Nat) (t : Nat) (g : Grant) (s1 : State) (cc : Nat) (s2 : State) (s3 : State) (s4 : State) (s : State),
      ((s.adv t).sconv c).grant = some g →
      g.waits = false →
      ptLt (s.adv t).pt (convEnd (s.adv t) g) = false →
      g.req.what = Sensed.host →
      s1 = ((s.adv t).rampStep c).calibratedSync →
      cc = corrected s1 c (min code 65535) →
      (s2 = if g.made + 1 < g.req.count then s1.setGrant c (some { g with made := g.made + 1, bad := false, start := s1.pt, begun := some g.start }) else s1.setGrant c none) →
      s3 = s2.setBank { s2.bank with hostLast := some (g.req.input, g.start) } →
      sbBit (s.adv t) B.SB_STATUS_REF_FAULT = false →
      g.bad = false →
      s4 = s3.hostResult cc →
      exec (.senseConversionDone c code t) s = .next ((if g.req.count ≤ g.made + 1 then s4.hostDone else s4).senseGrant.mtSync)) ∧
  (∀ (c : Nat) (code : Nat) (t : Nat) (g : Grant) (s1 : State) (cc : Nat) (s2 : State) (s3 : State) (s4 : State) (s : State),
      ((s.adv t).sconv c).grant = some g →
      g.waits = false →
      ptLt (s.adv t).pt (convEnd (s.adv t) g) = false →
      g.req.what = Sensed.host →
      s1 = ((s.adv t).rampStep c).calibratedSync →
      cc = corrected s1 c (min code 65535) →
      (s2 = if g.made + 1 < g.req.count then s1.setGrant c (some { g with made := g.made + 1, bad := false, start := s1.pt, begun := some g.start }) else s1.setGrant c none) →
      s3 = s2.setBank { s2.bank with hostLast := some (g.req.input, g.start) } →
      (sbBit (s.adv t) B.SB_STATUS_REF_FAULT = true ∨ g.bad = true) →
      s4 = (s3.draw.2.setB O.SB_HOST_STATUS 3 true).hostResult (s3.draw.1 % 65536) →
      exec (.senseConversionDone c code t) s = .next ((if g.req.count ≤ g.made + 1 then s4.hostDone else s4).senseGrant.mtSync)) ∧
  (∀ (c : Nat) (code : Nat) (t : Nat) (g : Grant) (s1 : State) (cc : Nat) (u : Nat) (s : State),
      ((s.adv t).sconv c).grant = some g →
      g.waits = false →
      ptLt (s.adv t).pt (convEnd (s.adv t) g) = false →
      g.req.what = Sensed.group →
      s1 = ((s.adv t).rampStep c).calibratedSync →
      cc = corrected s1 c (min code 65535) →
      u = sixteenths s1 cc →
      sbBit (s.adv t) B.SB_STATUS_REF_FAULT = false →
      exec (.senseConversionDone c code t) s = .next (((s1.setGrant c none).pgResult g.req.inst u).senseGrant.mtSync)) ∧
  (∀ (c : Nat) (code : Nat) (t : Nat) (g : Grant) (s1 : State) (cc : Nat) (u : Nat) (s : State),
      ((s.adv t).sconv c).grant = some g →
      g.waits = false →
      ptLt (s.adv t).pt (convEnd (s.adv t) g) = false →
      g.req.what = Sensed.supply →
      s1 = ((s.adv t).rampStep c).calibratedSync →
      cc = corrected s1 c (min code 65535) →
      u = sixteenths s1 cc →
      sbBit (s.adv t) B.SB_STATUS_REF_FAULT = false →
      exec (.senseConversionDone c code t) s = .next (((s1.setGrant c none).supplyResult g.req.inst u).senseGrant.mtSync)) ∧
  (∀ (c : Nat) (code : Nat) (t : Nat) (g : Grant) (s1 : State) (cc : Nat) (u : Nat) (s : State),
      ((s.adv t).sconv c).grant = some g →
      g.waits = false →
      ptLt (s.adv t).pt (convEnd (s.adv t) g) = false →
      g.req.what = Sensed.motor →
      s1 = ((s.adv t).rampStep c).calibratedSync →
      cc = corrected s1 c (min code 65535) →
      u = sixteenths s1 cc →
      sbBit (s.adv t) B.SB_STATUS_REF_FAULT = false →
      exec (.senseConversionDone c code t) s = .next (((s1.setGrant c none).motorResult g.req.inst g.req.input u).senseGrant.mtSync)) ∧
  (∀ (c : Nat) (code : Nat) (t : Nat) (g : Grant) (s1 : State) (cc : Nat) (u : Nat) (s : State),
      ((s.adv t).sconv c).grant = some g →
      g.waits = false →
      ptLt (s.adv t).pt (convEnd (s.adv t) g) = false →
      g.req.what = Sensed.temp →
      s1 = ((s.adv t).rampStep c).calibratedSync →
      cc = corrected s1 c (min code 65535) →
      u = sixteenths s1 cc →
      sbBit (s.adv t) B.SB_STATUS_REF_FAULT = false →
      exec (.senseConversionDone c code t) s = .next (((s1.setGrant c none).headResult { g with made := g.made + 1 } u).senseGrant.mtSync)) ∧
  (∀ (c : Nat) (code : Nat) (t : Nat) (g : Grant) (s1 : State) (cc : Nat) (u : Nat) (s : State),
      ((s.adv t).sconv c).grant = some g →
      g.waits = false →
      ptLt (s.adv t).pt (convEnd (s.adv t) g) = false →
      g.req.what = Sensed.ref →
      s1 = ((s.adv t).rampStep c).calibratedSync →
      cc = corrected s1 c (min code 65535) →
      u = sixteenths s1 cc →
      sbBit (s.adv t) B.SB_STATUS_REF_FAULT = false →
      exec (.senseConversionDone c code t) s = .next (((s1.setGrant c none).headResult { g with made := g.made + 1 } u).senseGrant.mtSync)) ∧
  (∀ (c : Nat) (code : Nat) (t : Nat) (g : Grant) (s1 : State) (cc : Nat) (u : Nat) (s : State),
      ((s.adv t).sconv c).grant = some g →
      g.waits = false →
      ptLt (s.adv t).pt (convEnd (s.adv t) g) = false →
      g.req.what = Sensed.heater →
      s1 = ((s.adv t).rampStep c).calibratedSync →
      cc = corrected s1 c (min code 65535) →
      u = sixteenths s1 cc →
      sbBit (s.adv t) B.SB_STATUS_REF_FAULT = false →
      exec (.senseConversionDone c code t) s = .next (((s1.setGrant c none).headResult { g with made := g.made + 1 } u).senseGrant.mtSync)) ∧
  (∀ (t : Nat) (l : List Req) (s : State),
      (l = (s.adv t).bank.reqs.filter (fun (r : Req) => r.deadline.any (fun d => decide (d / 400 < senseCycle (s.adv t))))) →
      exec (.senseDeadline t) s = .next ((l.foldl (fun (s : State) (r : Req) => s.passedOver r) ((s.adv t).senseWithdraw (fun (r : Req) => r.deadline.any (fun d => decide (d / 400 < senseCycle (s.adv t)))))).senseGrant)) ∧
  (∀ (c : Nat) (t : Nat) (g : Grant) (lim : Nat) (cuts : List Nat) (storm : Bool) (s1 : State) (s2 : State) (s3 : State) (s : State),
      ((s.adv t).sconv c).grant = some g →
      lim = g.at' + (s.adv t).get (O.SB_HOLD_LIMIT g.req.cls) * fuUs →
      lim ≤ (s.adv t).up →
      endsFirst (s.adv t) g lim = false →
      cuts = (s.adv t).span (10 * fuMs) (tget [] (s.adv t).bank.cutsAt g.req.cls) →
      storm = (decide (16 < cuts.length) && !sbBit (s.adv t) B.SB_STATUS_CUT_STORM) →
      s1 = (s.adv t).setBank { (s.adv t).bank with cutsAt := tput (s.adv t).bank.cutsAt g.req.cls cuts } →
      (s2 = (s1.inc O.SB_CUTS).hit O.SB_EVENTS B.SB_EVENTS_HOLD_CUT 557 (if storm then 1 else 0)) →
      (s3 = if storm then s2.sbPut B.SB_STATUS_CUT_STORM true else s2) →
      exec (.senseHoldCut c t) s = .next (((s3.setGrant c none).grantLost c g true).senseGrant)) ∧
  (∀ (c : Nat) (t : Nat) (g : Grant) (l : List Nat) (s1 : State) (s : State),
      ((s.adv t).sconv c).grant = some g →
      g.waits = false →
      ptLt (s.adv t).pt (convEnd (s.adv t) g + fuUs) = false →
      l = (s.adv t).span fuMs ((s.adv t).sconv c).lateAt →
      s1 = ((s.adv t).setSconv c { (s.adv t).sconv c with lateAt := l }).hit O.SB_EVENTS B.SB_EVENTS_CONV_TIMEOUT 560 →
      exec (.senseConvTimeout c t) s = .next ((if 3 ≤ l.length then s1.dropConv c else s1.converted c 0 false).senseGrant)) ∧
  (∀ (t : Nat) (s : State),
      (s.adv t).mode ≠ mdReset →
      (s.adv t).mode ≠ mdBoot →
      sbBit (s.adv t) B.SB_STATUS_REF_FAULT = false →
      exec (.refFault t) s = .next ((((s.adv t).setBank { (s.adv t).bank with refAt := (s.adv t).up }).sbPut B.SB_STATUS_REF_FAULT true).hit O.SB_EVENTS B.SB_EVENTS_REF_FAULT 558 1)) ∧
  (∀ (t : Nat) (s : State),
      (s.adv t).bank.refAt + fuMs ≤ (s.adv t).up →
      exec (.refFaultClear t) s = .next ((s.adv t).sbPut B.SB_STATUS_REF_FAULT false)) ∧
  (∀ (t : Nat) (s1 : State) (s : State),
      (s.adv t).mode ≠ mdReset →
      (s.adv t).mode ≠ mdBoot →
      tooEarly (s.adv t) (s.adv t).bank.dieAt ((s.adv t).get O.SB_DIE_PERIOD * fuUs) = false →
      (s1 = ((s.adv t).setBank { (s.adv t).bank with dieAt := some (s.adv t).up }).senseWithdraw (fun r => decide (r.what = Sensed.die))) →
      exec (.dieReadingDue t) s = .next (if asking s1 (fun r => decide (r.what = Sensed.die)) then s1 else s1.senseAsk { cls := 5, inst := 0, what := Sensed.die, input := 0xA4, count := 4, entered := senseCycle s1 }))

/-- CAL_START outside RESET and BOOT latches the die temperature, sets CAL_RUNNING and begins with every converter in
service and all 120 delay lines, and while one runs sets CAL_AGAIN; DELAY_LINE_CAL_DONE of a line that waits for its
calibration and is idle, with eight strictly rising means of 16 launches from 1 to 189 taps, swaps the capture line and
gives the line its target map, and else fails; SB_STORE_CMD 1 saves, outside curfew with the store idle and a
calibration that passed, and 2 loads the slot in force, outside PRINT with the store idle, or leaves RESULT 4 when there
is none; CLR_RETIRED outside PRINT clears every retired bit and calibrates, CLR_STATS clears CUT_STORM and every
SB_WAIT_MAX; SB_HOST_CMD of a legal word, with no sequence busy, enters one request of COUNT + 1 conversions. (R343,
R347, R349, R350, R351, R353) -/
def Obligations.CalibrationAct : Prop :=
  (∀ (p : Path) (w : Nat) (s0 : State) (s1 : State) (s : State),
      s.serves p (O.SB_CONTROL) = true →
      w = putBit (s.get O.SB_CONTROL) B.SB_CONTROL_CAL_START true →
      s.fits O.SB_CONTROL w = true →
      s.bit O.SB_CONTROL B.SB_CONTROL_CLR_STATS = false →
      s.bit O.SB_CONTROL B.SB_CONTROL_CLR_RETIRED = false →
      s0 = s.set O.SB_CONTROL (s.merged O.SB_CONTROL w) →
      s0.mode ≠ mdReset →
      s0.mode ≠ mdBoot →
      sbBit s0 B.SB_STATUS_CAL_RUNNING = false →
      s1 = ((s0.set O.SB_CAL_DIE_TEMP (s0.get O.SB_DIE_TEMP)).set O.CK_CAL_DIE_TEMP (s0.get O.SB_DIE_TEMP)).sbPut B.SB_STATUS_CAL_RUNNING true →
      exec (.calStart p) s = .next ((s1.setBank { s1.bank with convLeft := converters.filter (fun c => !convRetired s1 c), dlLeft := List.range 120, point := 0, calBad := false }).calAsk.senseGrant)) ∧
  (∀ (p : Path) (w : Nat) (s0 : State) (s : State),
      s.serves p (O.SB_CONTROL) = true →
      w = putBit (s.get O.SB_CONTROL) B.SB_CONTROL_CAL_START true →
      s.fits O.SB_CONTROL w = true →
      s.bit O.SB_CONTROL B.SB_CONTROL_CLR_STATS = false →
      s.bit O.SB_CONTROL B.SB_CONTROL_CLR_RETIRED = false →
      s0 = s.set O.SB_CONTROL (s.merged O.SB_CONTROL w) →
      s0.mode ≠ mdReset →
      s0.mode ≠ mdBoot →
      sbBit s0 B.SB_STATUS_CAL_RUNNING = true →
      exec (.calStart p) s = .next ((s0.sbPut B.SB_STATUS_CAL_AGAIN true).senseGrant)) ∧
  (∀ (k : Nat) (sums : List Nat) (t : Nat) (ns : List Nat) (s1 : State) (s2 : State) (s : State),
      sbBit (s.adv t) B.SB_STATUS_CAL_RUNNING = true →
      (s.adv t).bank.dlLeft.contains k = true →
      calIdle (s.adv t) k = true →
      (ns = sums.map (fun n => (divRound (n : Nat) 16).toNat)) →
      s1 = ((s.adv t).setBank { (s.adv t).bank with dlLeft := setDel (s.adv t).bank.dlLeft k }).capSwap k →
      ns.length = 8 →
      rising ns = true →
      0 < ns.getD 0 0 →
      ns.getD 7 0 ≤ 189 →
      s2 = s1.setDline k { dline s1 k with target := (List.range 65).map (mapEntry ns), good := true } →
      exec (.delayLineCalDone k sums t) s = .next (((s2.dlSettle k).set O.CK_DL_TAP (tapMean s2)).calCheck)) ∧
  (∀ (k : Nat) (sums : List Nat) (t : Nat) (ns : List Nat) (s1 : State) (s : State),
      sbBit (s.adv t) B.SB_STATUS_CAL_RUNNING = true →
      (s.adv t).bank.dlLeft.contains k = true →
      calIdle (s.adv t) k = true →
      (ns = sums.map (fun n => (divRound (n : Nat) 16).toNat)) →
      s1 = ((s.adv t).setBank { (s.adv t).bank with dlLeft := setDel (s.adv t).bank.dlLeft k }).capSwap k →
      (ns.length ≠ 8 ∨ rising ns = false ∨ 189 < ns.getD 7 0 ∨ ns.getD 0 0 = 0) →
      exec (.delayLineCalDone k sums t) s = .next (((s1.hit O.CK_EVENTS B.CK_EVENTS_DL_CAL_FAIL 540).hit O.SB_EVENTS B.SB_EVENTS_CAL_FAIL 560).calCheck)) ∧
  (∀ (p : Path) (s : State),
      s.serves p (O.SB_STORE_CMD) = true →
      curfew s = false →
      storeBusy s = false →
      s.bank.calOk = true →
      exec (.sbStoreSave p) s = .next (((s.sbPut B.SB_STATUS_STORE_BUSY true).setBank { s.bank with storeFails := 0 }).storeBegin)) ∧
  (∀ (p : Path) (s : State),
      s.serves p (O.SB_STORE_CMD) = true →
      s.mode ≠ mdPrint →
      storeBusy s = false →
      exec (.sbStoreLoad p) s = .next (s.storeLoad.senseGrant)) ∧
  (∀ (p : Path) (s : State),
      s.serves p (O.SB_STORE_CMD) = true →
      s.mode ≠ mdPrint →
      storeBusy s = false →
      storeInForce s = none →
      exec (.sbStoreLoad p) s = .next ((s.set O.SB_STORE_RESULT 4).senseGrant)) ∧
  (∀ (p : Path) (w : Nat) (s1 : State) (s : State),
      s.serves p (O.SB_CONTROL) = true →
      w = putBit (s.get O.SB_CONTROL) B.SB_CONTROL_CLR_RETIRED true →
      s.fits O.SB_CONTROL w = true →
      s.bit O.SB_CONTROL B.SB_CONTROL_CLR_STATS = false →
      s.mode ≠ mdPrint →
      s1 = (s.set O.SB_CONTROL (s.merged O.SB_CONTROL w)).set O.SB_CONV_RETIRED 0 →
      exec (.clrRetired p) s = .next ((s1.forAll converters (fun s c => s.setSconv c { s.sconv c with failRow := 0, lateAt := [] })).calStart.senseGrant)) ∧
  (∀ (p : Path) (w : Nat) (s1 : State) (s : State),
      s.serves p (O.SB_CONTROL) = true →
      w = putBit (s.get O.SB_CONTROL) B.SB_CONTROL_CLR_STATS true →
      s.fits O.SB_CONTROL w = true →
      s.bit O.SB_CONTROL B.SB_CONTROL_CLR_RETIRED = false →
      s.bit O.SB_CONTROL B.SB_CONTROL_CAL_START = false →
      s1 = (s.set O.SB_CONTROL (s.merged O.SB_CONTROL w)).sbPut B.SB_STATUS_CUT_STORM false →
      exec (.sbClrStats p) s = .next ((s1.setBank { s1.bank with cutsAt := [] }).forAll (List.range 10) (fun s k => s.set (O.SB_WAIT_MAX k) 0))) ∧
  (∀ (p : Path) (v : Nat) (s : State),
      s.serves p (O.SB_HOST_CMD) = true →
      v < 2 ^ 32 →
      s.bit O.SB_HOST_STATUS 0 = false →
      andW v 0xFF00C000 = 0 →
      fieldOf v B.SB_HOST_CMD_INPUT ≤ 0xA7 →
      4 ≤ fieldOf v B.SB_HOST_CMD_ACQ →
      exec (.sbHostCmd p v) s = .next ((s.set O.SB_HOST_STATUS 1).senseAsk { cls := 9, what := Sensed.host, input := fieldOf v B.SB_HOST_CMD_INPUT, count := fieldOf v B.SB_HOST_CMD_COUNT + 1, acq := fieldOf v B.SB_HOST_CMD_ACQ, entered := senseCycle s }))

/-- MT_CMD 1 of a slot that every check lets start claims its resources, sets MT_RESULT 1, latches the start and begins the
station phase or the body, and a start the checks refuse sets its cause and REFUSED with its abort; MT_CMD 2 stops an
activity that runs with result 6 and leaves another slot alone; SPIT_ROTATION_DUE, from 12,800 fu before the first edge
of a claimed port's frame in the spit of an activity, with FI over and the group ON, fires that rotation, counts it and
makes the next frame; MT_DWELL_EXPIRY of a CAP caps its ports, of an UNCAP uncaps them, of a WIPE goes on with its
strokes, and of a spit into a station closes the valve and then begins the spit; MT_CAPPED_CLR outside PRINT clears a
port's capped state; DEEP_SPACING_DUE of a port in a DEEP activity that asks for nothing, HP_DEEP_SPACING after the
last, asks for the next nozzle's test of five conversions, or for the temperature where that is due. (R306, R354, R355,
R357, R362) -/
def Obligations.MaintenanceAct : Prop :=
  (∀ (p : Path) (k : Nat) (s1 : State) (s2 : State) (s : State),
      s.serves p (O.MT_CMD k) = true →
      mtRefusal s k = none →
      s1 = (s.mtClaim k).set (O.MT_RESULT k) 1 →
      s2 = ((s1.set (O.MT_STARTED_AT k) s1.pt).set (O.MT_PROGRESS k) 0).set (O.MT_LOST k) 0 →
      mtStation s2 k = none →
      exec (.mtStart p k) s = .next (s2.mtBody k)) ∧
  (∀ (p : Path) (k : Nat) (s1 : State) (s2 : State) (a : Nat) (s : State),
      s.serves p (O.MT_CMD k) = true →
      mtRefusal s k = none →
      s1 = (s.mtClaim k).set (O.MT_RESULT k) 1 →
      s2 = ((s1.set (O.MT_STARTED_AT k) s1.pt).set (O.MT_PROGRESS k) 0).set (O.MT_LOST k) 0 →
      mtStation s2 k = some a →
      exec (.mtStart p k) s = .next ((s2.mtTo k 1).mtMove k a (s2.getI (O.MT_STATION_POS k)))) ∧
  (∀ (p : Path) (k : Nat) (r : Nat) (e : Nat) (s : State),
      s.serves p (O.MT_CMD k) = true →
      mtRefusal s k = some (r, e) →
      exec (.mtStart p k) s = .next (((s.set (O.MT_RESULT k) r).mtHit B.MT_EVENTS_REFUSED).abort p (O.MT_CMD k).index (O.MT_CMD k).sub .primary e)) ∧
  (∀ (p : Path) (k : Nat) (s : State),
      s.serves p (O.MT_CMD k) = true →
      1 ≤ mtState s k →
      mtState s k ≤ 3 →
      exec (.mtAbort p k) s = .next ((s.mtStop k 6).mtSync)) ∧
  (∀ (p : Path) (k : Nat) (s : State),
      s.serves p (O.MT_CMD k) = true →
      (mtState s k = 0 ∨ 4 ≤ mtState s k) →
      exec (.mtAbort p k) s = .next (s)) ∧
  (∀ (k : Nat) (n : Nat) (t : Nat) (x : TLine) (i : Nat) (s1 : State) (s2 : State) (s : State),
      ((s.advPort n t).sched n).maint = some x →
      i = tget 0 ((s.advPort n t).mt k).fired n →
      mtState (s.advPort n t) k = 2 →
      ((s.advPort n t).mt k).part = 3 →
      (mtKind (s.advPort n t) k = 1 ∨ mtKind (s.advPort n t) k = 5) →
      ((s.advPort n t).mt k).ports.contains n = true →
      ptLt ((s.advPort n t).pt + 12800) (firstEdge (s.advPort n t) n x) = false →
      fiQuiet (s.advPort n t) n 0 = true →
      groupOn (s.advPort n t) (groupOf n) = true →
      ((s.advPort n t).fire n).spit = none →
      s1 = ((s.advPort n t).maintRotate k n x (s.advPort n t).up (ptMax (firstEdge (s.advPort n t) n x) ((s.advPort n t).pt + 2 * fuUnit + 3840)) (decide (i = 0))).1 →
      s2 = (s1.setMt k { s1.mt k with fired := tput ((s.advPort n t).mt k).fired n (i + 1) }).inc (O.MT_PROGRESS k) →
      exec (.spitRotationDue k n t) s = .next (s2.spitFrame k n (i + 1))) ∧
  (∀ (k : Nat) (t : Nat) (s : State),
      mtState (s.adv t) k = 2 →
      ((s.adv t).mt k).moving = none →
      ((s.adv t).mt k).until' ≤ (s.adv t).up →
      mtKind (s.adv t) k = 3 →
      ((s.adv t).mt k).part = 2 →
      exec (.mtDwellExpiry k t) s = .next ((((s.adv t).forAll ((s.adv t).mt k).ports (fun s n => s.setCapped n true)).mtBodyDone k).mtSync)) ∧
  (∀ (k : Nat) (t : Nat) (s : State),
      mtState (s.adv t) k = 2 →
      ((s.adv t).mt k).moving = none →
      ((s.adv t).mt k).until' ≤ (s.adv t).up →
      mtKind (s.adv t) k = 4 →
      ((s.adv t).mt k).part = 2 →
      exec (.mtDwellExpiry k t) s = .next ((((s.adv t).forAll ((s.adv t).mt k).ports (fun s n => s.setCapped n false)).mtBodyDone k).mtSync)) ∧
  (∀ (k : Nat) (t : Nat) (a : Nat) (s : State),
      mtState (s.adv t) k = 2 →
      ((s.adv t).mt k).moving = none →
      ((s.adv t).mt k).until' ≤ (s.adv t).up →
      mtKind (s.adv t) k = 2 →
      ((s.adv t).mt k).part = 2 →
      mtAux (s.adv t) k = some a →
      exec (.mtDwellExpiry k t) s = .next ((if (s.adv t).get (O.MT_COUNT k) ≤ (s.adv t).get (O.MT_PROGRESS k) then (s.adv t).mtBodyDone k else (s.adv t).stroke k a).mtSync)) ∧
  (∀ (k : Nat) (t : Nat) (r : Nat) (s1 : State) (s : State),
      mtState (s.adv t) k = 2 →
      ((s.adv t).mt k).moving = none →
      ((s.adv t).mt k).until' ≤ (s.adv t).up →
      mtKind (s.adv t) k = 5 →
      ((s.adv t).mt k).part = 0 →
      ((s.adv t).mt k).relay = some r →
      s1 = (s.adv t).relayDrive (r % 4) (r / 4) 2 0 →
      exec (.mtDwellExpiry k t) s = .next ((s1.mtWait k 1 (s1.get (O.MT_TIME_B k))).mtSync)) ∧
  (∀ (k : Nat) (t : Nat) (s : State),
      mtState (s.adv t) k = 2 →
      ((s.adv t).mt k).moving = none →
      ((s.adv t).mt k).until' ≤ (s.adv t).up →
      mtKind (s.adv t) k = 5 →
      ((s.adv t).mt k).part = 1 →
      exec (.mtDwellExpiry k t) s = .next (((s.adv t).spitBegin k).mtSync)) ∧
  (∀ (p : Path) (v : Nat) (s : State),
      s.serves p (O.MT_CAPPED_CLR) = true →
      v < 96 →
      s.mode ≠ mdPrint →
      capped s v = true →
      exec (.mtCappedClr p v) s = .next ((s.setB (O.MT_CAPPED (v / 32)) (v % 32) false).mtHit B.MT_EVENTS_CAP_CHANGED)) ∧
  (∀ (k : Nat) (n : Nat) (t : Nat) (last : Nat) (z : Nat) (sp : Nat) (s1 : State) (s : State),
      mtLast (s.advPort n t) k n = some last →
      z = tget ((s.advPort n t).get (O.MT_FIRST k)) ((s.advPort n t).mt k).next n →
      sp = (s.advPort n t).get (O.HP_DEEP_SPACING n) * (fuUs / 10) →
      mtState (s.advPort n t) k = 2 →
      ((s.advPort n t).mt k).part = 3 →
      mtKind (s.advPort n t) k = 7 →
      z ≤ last →
      ((s.advPort n t).mt k).ports.contains n = true →
      (((s.advPort n t).mt k).deepAt.any (fun e => decide (e.1 = n ∧ (s.advPort n t).up < e.2 + sp)) = false) →
      asking (s.advPort n t) (ofPort n) = false →
      s1 = (s.advPort n t).setMt k { (s.advPort n t).mt k with deepAt := tput ((s.advPort n t).mt k).deepAt n (s.advPort n t).up, deep := tdel ((s.advPort n t).mt k).deep n } →
      exec (.deepSpacingDue k n t) s = .next (s1.senseAsk (if (s1.health n).tempDue then headReq s1 n 6 Sensed.temp 0 (some k) else { headReq s1 n 6 Sensed.deep z (some k) with count := 5, deadline := some (s1.up + sp) })))

/-- AX_CMD 1 enables an axis that meets every condition, which claims the milestone it is to trigger; 2 stops and disables;
3 stops with deceleration and 4 halts with cause 7, for the owner; 5 returns a HALTED or FAULT axis to IDLE, and clears
a standing stage fault of another axis, when no halt cause persists; 6 clears POS_UNCERTAIN; a push of 1 appends the
staged move when the axis takes moves, has room, belongs to the host and no check refuses it; a full queue refuses it
with QUEUE_FULL, another owner with abort 0800_0021, and a move that a check refuses with that check's abort; AX_POS in
DISABLED, IDLE or HALTED sets the axis's offset and moves nothing. (R367, R368, R371, R380, R381, R385, R393) -/
def Obligations.AxisCommandsAct : Prop :=
  (∀ (p : Path) (a : Nat) (flt : Bool) (s1 : State) (s : State),
      s.serves p (O.AX_CMD a) = true →
      s1 = s.setB (O.DS_STATUS a) B.DS_STATUS_FLT_IN flt →
      mayEnable s1 a flt = true →
      (axCfg s1 a B.AX_CONFIG_TRIG_EN = false ∨ 64 ≤ s1.get (O.AX_TRIG_MS a)) →
      exec (.axEnable p a flt) s = .next (s1.axEnable a)) ∧
  (∀ (p : Path) (a : Nat) (flt : Bool) (s1 : State) (s : State),
      s.serves p (O.AX_CMD a) = true →
      s1 = s.setB (O.DS_STATUS a) B.DS_STATUS_FLT_IN flt →
      mayEnable s1 a flt = true →
      axCfg s1 a B.AX_CONFIG_TRIG_EN = true →
      s1.get (O.AX_TRIG_MS a) < 64 →
      exec (.axEnable p a flt) s = .next (match s1.msClaim (s1.get (O.AX_TRIG_MS a)) 4 with | .ok s2 => s2.axEnable a | .no s2 c => (s2.axHit a B.AX_EVENTS_RESOURCE_CONFLICT).abort p (O.AX_CMD a).index (O.AX_CMD a).sub .primary c)) ∧
  (∀ (p : Path) (a : Nat) (s1 : State) (s : State),
      s.serves p (O.AX_CMD a) = true →
      s1 = s.setB (O.DS_STATUS a) B.DS_STATUS_FLT_IN (s.bit (O.DS_STATUS a) B.DS_STATUS_FLT_IN) →
      exec (.axStopDisable p a) s = .next ((s1.decelStop a true).mtSync)) ∧
  (∀ (p : Path) (a : Nat) (s1 : State) (s : State),
      s.serves p (O.AX_CMD a) = true →
      s1 = s.setB (O.DS_STATUS a) B.DS_STATUS_FLT_IN (s.bit (O.DS_STATUS a) B.DS_STATUS_FLT_IN) →
      s1.get (O.AX_OWNER a) = ownerHost →
      exec (.axDecelStop p a) s = .next (s1.decelStop a false)) ∧
  (∀ (p : Path) (a : Nat) (s1 : State) (s : State),
      s.serves p (O.AX_CMD a) = true →
      s1 = s.setB (O.DS_STATUS a) B.DS_STATUS_FLT_IN (s.bit (O.DS_STATUS a) B.DS_STATUS_FLT_IN) →
      s1.get (O.AX_OWNER a) = ownerHost →
      exec (.axHalt p a) s = .next ((s1.haltAxis a 7).mtSync)) ∧
  (∀ (p : Path) (a : Nat) (flt : Bool) (s1 : State) (s : State),
      s.serves p (O.AX_CMD a) = true →
      s1 = s.setB (O.DS_STATUS a) B.DS_STATUS_FLT_IN flt →
      (axisState s1 a = 4 ∨ axisState s1 a = 5) →
      haltPersists s1 a flt = false →
      exec (.axClearHalt p a flt) s = .next (s1.axIdle a)) ∧
  (∀ (p : Path) (a : Nat) (flt : Bool) (s1 : State) (s : State),
      s.serves p (O.AX_CMD a) = true →
      s1 = s.setB (O.DS_STATUS a) B.DS_STATUS_FLT_IN flt →
      axisState s1 a ≠ 4 →
      axisState s1 a ≠ 5 →
      s1.bit (O.DS_STATUS a) B.DS_STATUS_FAULT = false →
      exec (.axClearHalt p a flt) s = .next (s1)) ∧
  (∀ (p : Path) (a : Nat) (flt : Bool) (s1 : State) (s : State),
      s.serves p (O.AX_CMD a) = true →
      s1 = s.setB (O.DS_STATUS a) B.DS_STATUS_FLT_IN flt →
      axisState s1 a ≠ 4 →
      axisState s1 a ≠ 5 →
      s1.bit (O.DS_STATUS a) B.DS_STATUS_FAULT = true →
      haltPersists s1 a flt = false →
      exec (.axClearHalt p a flt) s = .next (s1.setB (O.DS_STATUS a) B.DS_STATUS_FAULT false)) ∧
  (∀ (p : Path) (a : Nat) (s1 : State) (s : State),
      s.serves p (O.AX_CMD a) = true →
      s1 = s.setB (O.DS_STATUS a) B.DS_STATUS_FLT_IN (s.bit (O.DS_STATUS a) B.DS_STATUS_FLT_IN) →
      exec (.axClearUncertain p a) s = .next (s1.setB (O.AX_STATUS a) B.AX_STATUS_POS_UNCERTAIN false)) ∧
  (∀ (p : Path) (a : Nat) (s : State),
      s.serves p (O.AX_MV_PUSH a) = true →
      takesMoves s a = true →
      qLen s a < 16 →
      s.get (O.AX_OWNER a) = ownerHost →
      moveRefusal s a (stagedMove s a) = none →
      exec (.axMvPush p a) s = .next (s.pushMove a (stagedMove s a))) ∧
  (∀ (p : Path) (a : Nat) (s : State),
      s.serves p (O.AX_MV_PUSH a) = true →
      takesMoves s a = true →
      16 ≤ qLen s a →
      exec (.axMvPush p a) s = .next ((s.axHit a B.AX_EVENTS_QUEUE_FULL).abort p (O.AX_MV_PUSH a).index (O.AX_MV_PUSH a).sub .primary abState)) ∧
  (∀ (p : Path) (a : Nat) (s : State),
      s.serves p (O.AX_MV_PUSH a) = true →
      takesMoves s a = true →
      qLen s a < 16 →
      s.get (O.AX_OWNER a) ≠ ownerHost →
      exec (.axMvPush p a) s = .next (s.abort p (O.AX_MV_PUSH a).index (O.AX_MV_PUSH a).sub .primary abLocal)) ∧
  (∀ (p : Path) (a : Nat) (c : Nat) (still : Bool) (s : State),
      s.serves p (O.AX_MV_PUSH a) = true →
      takesMoves s a = true →
      qLen s a < 16 →
      s.get (O.AX_OWNER a) = ownerHost →
      moveRefusal s a (stagedMove s a) = some (c, still) →
      exec (.axMvPush p a) s = .next ((if still then s.axHit a B.AX_EVENTS_NOT_STILL else s).abort p (O.AX_MV_PUSH a).index (O.AX_MV_PUSH a).sub .primary c)) ∧
  (∀ (p : Path) (a : Nat) (v : Nat) (x : Axis) (pos : Int) (s : State),
      s.serves p (O.AX_POS a) = true →
      (axisState s a = 0 ∨ axisState s a = 1 ∨ axisState s a = 4) →
      a < 16 →
      x = s.ax a →
      pos = toSigned 64 v →
      exec (.axPosWrite p a v) s = .next ((s.putAx a { x with mOff := x.mOff + (pos * auU - x.p), p := pos * auU, off := pos * auU - x.ext * s.getI (O.AX_ENC_RATIO a) * 65536 }).limitCheck a)) ∧
  (∀ (p : Path) (a : Nat) (v : Nat) (x : Axis) (pos : Int) (s : State),
      s.serves p (O.AX_POS a) = true →
      (axisState s a = 0 ∨ axisState s a = 1 ∨ axisState s a = 4) →
      16 ≤ a →
      x = s.ax a →
      pos = toSigned 64 v →
      exec (.axPosWrite p a v) s = .next ((s.putAx a { x with off := pos - x.ext, p := x.p + (pos - (x.ext + x.off)) * auU }).limitCheck a))

/-- PROFILE_STEP, not sooner than 10 µs after the last, shows the microstep of every stepper, then advances every group,
then every axis, then maintenance; BD_LOOP_CYCLE, not sooner than 50 µs after the last, closes the loop of axes 16 to
19; FOLLOW_ERROR_TIMEOUT after 1 ms halts the axis with cause 5; AX_IG_CMD 1 makes the group the owner of two to four
IDLE members of the host, a brushless one with its position loop, none of which an armed port's predictor follows, 2
releases them when the group is at rest, 3 stops and 4 halts every member with cause 7, and each of these three leaves a
group that is not enabled alone; a push of 1 appends the group's move of absolute targets in rising axis order when
every member takes moves and keeps its limits and, where the group is at rest, stands still. (R370, R383, R384, R389,
R390, R391) -/
def Obligations.MotionStepsAct : Prop :=
  (∀ (t : Nat) (s1 : State) (s2 : State) (s : State),
      tooEarly (s.adv t) (s.adv t).clk.profAt (10 * fuUs) = false →
      (s1 = ((s.adv t).forAll steppers (fun s a => s.microSync a)).forAll axes (fun s a => s.setAx a { s.ax a with step := 0 })) →
      s2 = s1.setClk { s1.clk with profAt := some s1.up } →
      exec (.profileStep t) s = .next (((s2.forAll slots (fun s g => s.igStep g)).forAll axes (fun s a => s.stepAxis a)).mtSync)) ∧
  (∀ (t : Nat) (s : State),
      tooEarly (s.adv t) (s.adv t).clk.loopAt (50 * fuUs) = false →
      exec (.bdLoopCycle t) s = .next (((s.adv t).setClk { (s.adv t).clk with loopAt := some (s.adv t).up }).forAll brushless (fun s a => s.loopCycle a))) ∧
  (∀ (a : Nat) (t : Nat) (x : Nat) (s : State),
      ((s.adv t).ax a).followAt = some x →
      x + fuMs ≤ (s.adv t).up →
      exec (.followErrorTimeout a t) s = .next (((s.adv t).haltAxis a 5).mtSync)) ∧
  (∀ (p : Path) (g : Nat) (ms : List Nat) (s : State),
      s.serves p (O.AX_IG_CMD g) = true →
      ms = members s g →
      2 ≤ ms.length →
      ms.length ≤ 4 →
      (∀ a, a ∈ ms → (a < 16 ∨ axCfg s a B.AX_CONFIG_POS_LOOP = true) ∧ s.get (O.AX_OWNER a) = ownerHost ∧ axisState s a = 1 ∧ (s.fld (O.AX_CONFIG a) B.AX_CONFIG_ROLE = 0 ∨ ∀ n, n < 96 → armed s n = true → predOf s n ≠ s.fld (O.AX_CONFIG a) B.AX_CONFIG_PRED)) →
      exec (.axIgEnable p g) s = .next (((s.forAll ms (fun s a => (s.set (O.AX_OWNER a) (2 + g)).axShow a)).setIg g {}).set (O.AX_IG_STATUS g) 1)) ∧
  (∀ (p : Path) (g : Nat) (s : State),
      s.serves p (O.AX_IG_CMD g) = true →
      igFlag s g 0 = true →
      (s.ig g).plan = none →
      (s.ig g).queue = [] →
      exec (.axIgRelease p g) s = .next ((s.forAll (members s g) (fun s a => (s.set (O.AX_OWNER a) ownerHost).axShow a)).set (O.AX_IG_STATUS g) 0)) ∧
  (∀ (p : Path) (g : Nat) (s : State),
      s.serves p (O.AX_IG_CMD g) = true →
      igFlag s g 0 = false →
      exec (.axIgRelease p g) s = .next (s)) ∧
  (∀ (p : Path) (g : Nat) (s : State),
      s.serves p (O.AX_IG_CMD g) = true →
      igFlag s g 0 = true →
      igFlag s g 2 = false →
      exec (.axIgStop p g) s = .next (s.igStop g)) ∧
  (∀ (p : Path) (g : Nat) (s : State),
      s.serves p (O.AX_IG_CMD g) = true →
      (igFlag s g 0 = false ∨ igFlag s g 2 = true) →
      exec (.axIgStop p g) s = .next (s)) ∧
  (∀ (p : Path) (g : Nat) (s : State),
      s.serves p (O.AX_IG_CMD g) = true →
      igFlag s g 0 = true →
      exec (.axIgHalt p g) s = .next ((s.forAll (members s g) (fun s a => s.axHalt a 7)).igClear g true)) ∧
  (∀ (p : Path) (g : Nat) (s : State),
      s.serves p (O.AX_IG_CMD g) = true →
      igFlag s g 0 = false →
      exec (.axIgHalt p g) s = .next (s)) ∧
  (∀ (p : Path) (g : Nat) (m : GMove) (s : State),
      s.serves p (O.AX_IG_PUSH g) = true →
      (m = ⟨(List.range (members s g).length).map (fun i => s.getI (O.AX_IG_TARGET g i)), s.get (O.AX_IG_VEL g), s.get (O.AX_IG_ACC g), s.get (O.AX_IG_DEC g), s.get (O.AX_IG_JERK g)⟩) →
      igFlag s g 0 = true →
      (∀ a, a ∈ members s g → takesMoves s a = true ∧ (notStill s a = false ∨ (s.ig g).plan ≠ none)) →
      (s.ig g).queue.length < 16 →
      m.vel ≠ 0 →
      m.acc ≠ 0 →
      m.dec ≠ 0 →
      (∀ e, e ∈ (members s g).zip m.targets → limited s e.1 = false ∨ (limitLo s e.1 ≤ e.2 ∧ e.2 ≤ limitHi s e.1)) →
      exec (.axIgPush p g) s = .next (((((s.setIg g { s.ig g with queue := (s.ig g).queue ++ [m] }).set (O.AX_IG_Q_COUNT g) ((s.ig g).queue.length + 1)).igFlagTo g 3 false).igFlagTo g 4 (decide (16 ≤ (s.ig g).queue.length + 1)))))

/-- CHOP_TRIP of a stepper phase that is on, DS_BLANK after its start, at a voltage beyond its threshold, ends its on-time;
CHOP_OFFTIME_END after DS_TOFF starts the next; PWM_PERIOD_START of a brushless axis, not sooner than DS_PWM_PERIOD
after the last, takes the threshold, and the on-time starts unless it is 0; CHOP_TRIP of the phase that sinks current,
DS_BLANK after the period's start, at a voltage beyond the threshold, ends the on-time of a brushless axis;
HOLD_DELAY_EXPIRY of a stepper at rest for DS_HOLD_DELAY begins the standstill current, with HOLD_ENTERED where it is
reached at once. (R399, R400, R401, R406) -/
def Obligations.ChopperActs : Prop :=
  (∀ (a : Nat) (ph : Nat) (uv : Nat) (t : Nat) (x : Phase) (s : State),
      a < 16 →
      x = (((s.adv t).microSync a).ds a).phase ph →
      x.st = .on →
      x.at' + ((s.adv t).microSync a).get (O.DS_BLANK a) * fuMot ≤ ((s.adv t).microSync a).up →
      trips x.code uv = true →
      outputsOff ((s.adv t).microSync a) a = false →
      exec (.chopTrip a ph ⟨uv, t⟩) s = .next ((((s.adv t).microSync a).setDs a ((((s.adv t).microSync a).ds a).setPhase ph { x with trip := ((s.adv t).microSync a).up })).phaseOff a ph)) ∧
  (∀ (a : Nat) (ph : Nat) (uv : Nat) (t : Nat) (k : Nat) (s : State),
      16 ≤ a →
      sectorOf ((s.adv t).microSync a) a = some k →
      onTime ((s.adv t).microSync a) a = true →
      (sectorPhases k).2 = ph →
      (((s.adv t).microSync a).ds a).onAt.getD 0 + ((s.adv t).microSync a).get (O.DS_BLANK a) * fuMot ≤ ((s.adv t).microSync a).up →
      trips (((s.adv t).microSync a).ds a).code uv = true →
      exec (.chopTrip a ph ⟨uv, t⟩) s = .next ((((s.adv t).microSync a).setDs a { ((s.adv t).microSync a).ds a with on := false }).bdSync a)) ∧
  (∀ (a : Nat) (ph : Nat) (t : Nat) (s : State),
      ((((s.adv t).microSync a).ds a).phase ph).st = .off →
      ((((s.adv t).microSync a).ds a).phase ph).at' + ((s.adv t).microSync a).get (O.DS_TOFF a) * fuMot ≤ ((s.adv t).microSync a).up →
      outputsOff ((s.adv t).microSync a) a = false →
      exec (.chopOfftimeEnd a ph t) s = .next (((s.adv t).microSync a).phaseOn a ph)) ∧
  (∀ (a : Nat) (t : Nat) (s : State),
      16 ≤ a →
      outputsOff (s.adv t) a = false →
      tooEarly (s.adv t) ((s.adv t).ds a).onAt ((s.adv t).get (O.DS_PWM_PERIOD a) * fuMot) = false →
      exec (.pwmPeriodStart a t) s = .next (((s.adv t).setDs a { ranOut (s.adv t) a with code := pwmCode (s.adv t) a, on := decide (pwmCode (s.adv t) a ≠ 0), onAt := some (s.adv t).up, cut := false }).bdSync a)) ∧
  (∀ (a : Nat) (t : Nat) (s1 : State) (s : State),
      a < 16 →
      outputsOff ((s.adv t).microSync a) a = false →
      ((s.adv t).microSync a).bit (O.DS_STATUS a) B.DS_STATUS_HOLD = false →
      (((s.adv t).microSync a).ds a).restAt + ((s.adv t).microSync a).get (O.DS_HOLD_DELAY a) * fuMs ≤ ((s.adv t).microSync a).up →
      s1 = (((s.adv t).microSync a).setB (O.DS_STATUS a) B.DS_STATUS_HOLD true).setDs a { ((s.adv t).microSync a).ds a with hold := 0 } →
      exec (.holdDelayExpiry a t) s = .next ((if holdSteps s1 a = 0 then s1.hit (O.DS_EVENTS a) B.DS_EVENTS_HOLD_ENTERED (520 + a) else s1).codes a))

/-- BRIDGE_FAULT of an input low for 20 MOT cycles with FLT_EN faults the stage, and FLT_GLITCH of one shorter counts the
pulse; OC_TRIP of an armed comparator at a voltage beyond DS_OC_LIMIT ends the on-time of a stepper phase that is on or
of a brushless axis, counts the trip and, beyond DS_OC_COUNT trips in 1 ms of press time, faults the stage; OPEN_PHASE
of a stepper at rest for 10 ms whose phase has a threshold of 410 or more and no chop trip for 1 ms, and
STEP_LAG_TIMEOUT after 1 ms of lag, fault the stage; a stage fault sets FAULT and its event, turns the outputs off and
halts the axis with cause 3; MON_CONVERSION_DUE of an axis that is not DISABLED, not sooner than DS_MON_PERIOD after the
last, counts each request not granted as missed and asks anew for every current input. (R403, R409, R410, R411, R412) -/
def Obligations.StageFaultsAct : Prop :=
  (∀ (a : Nat) (e : Nat) (t : Nat) (s1 : State) (s : State),
      s1 = (s.adv t).setB (O.DS_STATUS a) B.DS_STATUS_FLT_IN true →
      s1.bit (O.DS_CONFIG a) B.DS_CONFIG_FLT_EN = true →
      fltHeld s1 e = true →
      exec (.bridgeFault a ⟨e, t⟩) s = .next ((((((s1).setB (O.DS_STATUS a) B.DS_STATUS_FAULT true).hit (O.DS_EVENTS a) B.DS_EVENTS_BRIDGE_FAULT (520 + a) 1).stageOff a).haltAxis a 3).mtSync)) ∧
  (∀ (a : Nat) (e : Nat) (t : Nat) (s1 : State) (s : State),
      s1 = (s.adv t).setB (O.DS_STATUS a) B.DS_STATUS_FLT_IN false →
      s1.bit (O.DS_CONFIG a) B.DS_CONFIG_FLT_EN = true →
      fltHeld s1 e = false →
      exec (.fltGlitch a ⟨e, t⟩) s = .next ((s1.inc (O.DS_FLT_GLITCHES a)).hit (O.DS_EVENTS a) B.DS_EVENTS_FLT_GLITCH (520 + a))) ∧
  (∀ (a : Nat) (ph : Nat) (uv : Nat) (t : Nat) (l : List Nat) (s1 : State) (s2 : State) (s3 : State) (s : State),
      ocArmed ((s.adv t).microSync a) a ph = true →
      trips (ampCode ((s.adv t).microSync a) a (((s.adv t).microSync a).get (O.DS_OC_LIMIT a)) 1) uv = true →
      l = ((s.adv t).microSync a).span fuMs (((s.adv t).microSync a).ds a).trips →
      s1 = ((s.adv t).microSync a).setDs a { ((s.adv t).microSync a).ds a with trips := l } →
      (s2 = if a < 16 then (if ((((s.adv t).microSync a).ds a).phase ph).st = .on then s1.phaseOff a ph else s1) else (s1.setDs a { s1.ds a with on := false, cut := true }).bdSync a) →
      s3 = (s2.inc (O.DS_OC_TRIPS a)).hit (O.DS_EVENTS a) B.DS_EVENTS_OC_TRIP (520 + a) →
      l.length ≤ s3.get (O.DS_OC_COUNT a) →
      exec (.ocTrip a ph ⟨uv, t⟩) s = .next (s3)) ∧
  (∀ (a : Nat) (ph : Nat) (uv : Nat) (t : Nat) (l : List Nat) (s1 : State) (s2 : State) (s3 : State) (s : State),
      ocArmed ((s.adv t).microSync a) a ph = true →
      trips (ampCode ((s.adv t).microSync a) a (((s.adv t).microSync a).get (O.DS_OC_LIMIT a)) 1) uv = true →
      l = ((s.adv t).microSync a).span fuMs (((s.adv t).microSync a).ds a).trips →
      s1 = ((s.adv t).microSync a).setDs a { ((s.adv t).microSync a).ds a with trips := l } →
      (s2 = if a < 16 then (if ((((s.adv t).microSync a).ds a).phase ph).st = .on then s1.phaseOff a ph else s1) else (s1.setDs a { s1.ds a with on := false, cut := true }).bdSync a) →
      s3 = (s2.inc (O.DS_OC_TRIPS a)).hit (O.DS_EVENTS a) B.DS_EVENTS_OC_TRIP (520 + a) →
      s3.get (O.DS_OC_COUNT a) < l.length →
      exec (.ocTrip a ph ⟨uv, t⟩) s = .next ((((((s3).setB (O.DS_STATUS a) B.DS_STATUS_FAULT true).hit (O.DS_EVENTS a) B.DS_EVENTS_OC_FAULT (520 + a) 1).stageOff a).haltAxis a 3).mtSync)) ∧
  (∀ (a : Nat) (ph : Nat) (t : Nat) (s : State),
      a < 16 →
      outputsOff ((s.adv t).microSync a) a = false →
      (((s.adv t).microSync a).ds a).restAt + 10 * fuMs ≤ ((s.adv t).microSync a).up →
      410 ≤ ((((s.adv t).microSync a).ds a).phase ph).code →
      ((((s.adv t).microSync a).ds a).phase ph).trip + fuMs ≤ ((s.adv t).microSync a).up →
      exec (.openPhase a ph t) s = .next ((((((((s.adv t).microSync a)).setB (O.DS_STATUS a) B.DS_STATUS_FAULT true).hit (O.DS_EVENTS a) B.DS_EVENTS_OPEN_PHASE (520 + a) 1).stageOff a).haltAxis a 3).mtSync)) ∧
  (∀ (a : Nat) (t : Nat) (x : Nat) (s : State),
      stepping (s.adv t) a = true →
      ((s.adv t).ds a).lagAt = some x →
      x + fuMs ≤ (s.adv t).up →
      exec (.stepLagTimeout a t) s = .next (((((((s.adv t)).setB (O.DS_STATUS a) B.DS_STATUS_FAULT true).hit (O.DS_EVENTS a) B.DS_EVENTS_STEP_LAG (520 + a) 1).stageOff a).haltAxis a 3).mtSync)) ∧
  (∀ (a : Nat) (t : Nat) (s1 : State) (s2 : State) (s : State),
      (s.adv t).get (O.DS_MON_PERIOD a) ≠ 0 →
      axisState (s.adv t) a ≠ 0 →
      tooEarly (s.adv t) ((s.adv t).ds a).monAt ((s.adv t).get (O.DS_MON_PERIOD a) * fuUs) = false →
      s1 = (s.adv t).setDs a { (s.adv t).ds a with monAt := some (s.adv t).up } →
      (s2 = (s1.addC (O.DS_MON_MISSED a) (s1.bank.reqs.filter (fun (r : Req) => decide (r.what = .motor ∧ r.inst = a))).length).senseWithdraw (fun (r : Req) => decide (r.what = .motor ∧ r.inst = a))) →
      exec (.monConversionDue a t) s = .next (s2.forAll (motorInputs a) (fun s i => s.senseAsk { cls := 2, inst := a, what := .motor, input := i, entered := senseCycle s })))

/-- An NMT command that arrives on the active line, of a controller that has joined the bus, is counted and sets
MD_NMT_STATE to 5 (start), 4 (stop) or 127 (enter pre-operational); reset node and reset communication run the
communication reset, which applies the pending node-ID and protocol, ends every session, empties the TPDO samples and
leaves the node pre-operational; with no such line NMT start changes nothing. (R430, R431) -/
def Obligations.NmtCommandsAct : Prop :=
  (∀ (t : Nat) (c : Nat) (s : State),
      activeLine (s.adv t) = some c →
      canJoined (s.adv t) c = true →
      exec (.nmtStart t) s = .next (((s.adv t).inc (O.MD_CAN_RX_FRAMES c)).set O.MD_NMT_STATE 5)) ∧
  (∀ (t : Nat) (c : Nat) (s : State),
      activeLine (s.adv t) = some c →
      canJoined (s.adv t) c = true →
      exec (.nmtStop t) s = .next (((s.adv t).inc (O.MD_CAN_RX_FRAMES c)).set O.MD_NMT_STATE 4)) ∧
  (∀ (t : Nat) (c : Nat) (s : State),
      activeLine (s.adv t) = some c →
      canJoined (s.adv t) c = true →
      exec (.nmtEnterPreOperational t) s = .next (((s.adv t).inc (O.MD_CAN_RX_FRAMES c)).set O.MD_NMT_STATE 127)) ∧
  (∀ (t : Nat) (c : Nat) (s : State),
      activeLine (s.adv t) = some c →
      canJoined (s.adv t) c = true →
      exec (.nmtResetNode t) s = .next (((s.adv t).inc (O.MD_CAN_RX_FRAMES c)).resetComm)) ∧
  (∀ (t : Nat) (c : Nat) (s : State),
      activeLine (s.adv t) = some c →
      canJoined (s.adv t) c = true →
      ∃ s', exec (.nmtResetNode t) s = .next s' ∧ s'.get O.MD_NMT_STATE = 127 ∧
        s'.get O.MD_USDO_USE = 0 ∧
        s'.net.nodeId = (s.adv t).get O.MD_NODE_ID ∧
        s'.net.classic = bitOf ((s.adv t).get O.MD_NET_CONFIG) 0 ∧
        s'.net.sess = [] ∧
        s'.tpdoMap = []) ∧
  (∀ (t : Nat) (c : Nat) (s : State),
      activeLine (s.adv t) = some c →
      canJoined (s.adv t) c = true →
      exec (.nmtResetCommunication t) s = .next (((s.adv t).inc (O.MD_CAN_RX_FRAMES c)).resetComm)) ∧
  (∀ (t : Nat) (c : Nat) (s : State),
      activeLine (s.adv t) = some c →
      canJoined (s.adv t) c = true →
      ∃ s', exec (.nmtResetCommunication t) s = .next s' ∧ s'.get O.MD_NMT_STATE = 127 ∧
        s'.get O.MD_USDO_USE = 0 ∧
        s'.net.nodeId = (s.adv t).get O.MD_NODE_ID ∧
        s'.net.classic = bitOf ((s.adv t).get O.MD_NET_CONFIG) 0 ∧
        s'.net.sess = [] ∧
        s'.tpdoMap = []) ∧
  (∀ (t : Nat) (s : State),
      ((activeLine (s.adv t)).any (fun c => canJoined (s.adv t) c) = false) →
      exec (.nmtStart t) s = .next ((s.adv t)))

/-- HEARTBEAT_PRODUCE of a running node with an active line, 0x1017 ms after the last heartbeat, sends the node's state;
HEARTBEAT_RX heard on the active line is counted, starts the time of every entry that watches the node again and ends
its loss; HEARTBEAT_LOSS of a watched entry that is not lost, past its time, sets HB_LOST and raises EV562; SYNC_TIMEOUT
of a node that is pre-operational or operational, 1.5 × 0x1006 µs after the last SYNC, raises EV564, once until the next
SYNC; RPDO_TIMEOUT of an event-driven RPDO with an event timer, past its time in operational, raises EV563; USDO_TIMEOUT
of a session past MD_USDO_TIMEOUT frees the session, aborts its transfer and raises EV565. (R432, R434, R441, R442) -/
def Obligations.NetworkWatchesAct : Prop :=
  (∀ (t : Nat) (s : State),
      nodeRuns (s.adv t) = true →
      activeLine (s.adv t) ≠ none →
      (s.adv t).get (cobj 0x17 0) ≠ 0 →
      (s.adv t).net.hbSent + (s.adv t).get (cobj 0x17 0) * fuMs ≤ (s.adv t).up →
      exec (.heartbeatProduce t) s = .next (((s.adv t).setNet { (s.adv t).net with hbSent := (s.adv t).up }).canSend (0x700 + (s.adv t).net.nodeId) [nmt (s.adv t)])) ∧
  (∀ (node : Nat) (t : Nat) (c : Nat) (s1 : State) (s : State),
      activeLine (s.adv t) = some c →
      canJoined (s.adv t) c = true →
      s1 = (s.adv t).inc (O.MD_CAN_RX_FRAMES c) →
      exec (.heartbeatRx node t) s = .next (s1.forAll (hbEntries s1 node) (fun s k => s.setNet { s.net with hbRx := tput s.net.hbRx k s.up, hbLost := setDel s.net.hbLost k }))) ∧
  (∀ (k : Nat) (t : Nat) (s : State),
      k < 4 →
      nodeRuns (s.adv t) = true →
      ((s.adv t).net.hbRx.any (fun p => p.1 = k)) →
      (s.adv t).net.hbLost.contains k = false →
      (s.adv t).get (cobj 0x16 (k + 1)) % 65536 ≠ 0 →
      tget 0 (s.adv t).net.hbRx k + (s.adv t).get (cobj 0x16 (k + 1)) % 65536 * fuMs ≤ (s.adv t).up →
      exec (.heartbeatLoss k t) s = .next (((s.adv t).setNet { (s.adv t).net with hbLost := setIns (s.adv t).net.hbLost k }).hit O.MD_DICT_EVENTS B.MD_DICT_EVENTS_HB_LOST 562)) ∧
  (∀ (t : Nat) (s : State),
      nodeTalks (s.adv t) = true →
      (s.adv t).get (cobj 6 0) ≠ 0 →
      (s.adv t).net.syncLost = false →
      2 * (s.adv t).net.syncAt + 3 * (s.adv t).get (cobj 6 0) * fuUs ≤ 2 * (s.adv t).up →
      exec (.syncTimeout t) s = .next (((s.adv t).setNet { (s.adv t).net with syncLost := true }).hit O.MD_DICT_EVENTS B.MD_DICT_EVENTS_SYNC_TIMEOUT 564)) ∧
  (∀ (p : Nat) (t : Nat) (s : State),
      p < 16 →
      nodeRuns (s.adv t) = true →
      nmt (s.adv t) = nmtOp →
      pdoValid (s.adv t) 0x400 p = true →
      254 ≤ (s.adv t).get (cobj (0x400 + p) 2) →
      (s.adv t).get (cobj (0x400 + p) 5) ≠ 0 →
      ((s.adv t).net.rpdoAt.any (fun q => q.1 = p)) →
      tget 0 (s.adv t).net.rpdoAt p + (s.adv t).get (cobj (0x400 + p) 5) * fuMs ≤ (s.adv t).up →
      exec (.rpdoTimeout p t) s = .next (((s.adv t).setNet { (s.adv t).net with rpdoAt := tdel (s.adv t).net.rpdoAt p }).hit O.MD_DICT_EVENTS B.MD_DICT_EVENTS_RPDO_TIMEOUT 563)) ∧
  (∀ (k : Nat) (t : Nat) (x : Sess) (s : State),
      ((s.adv t).net.sess.any (fun p => p.1 = k)) →
      nodeRuns (s.adv t) = true →
      x = tget {} (s.adv t).net.sess k →
      x.lastAt + (s.adv t).get O.MD_USDO_TIMEOUT * fuMs ≤ (s.adv t).up →
      exec (.usdoTimeout k t) s = .next ((((s.adv t).sessFree k).usdoAbort x.client x.index x.sub abTimeout).hit O.MD_DICT_EVENTS B.MD_DICT_EVENTS_USDO_TIMEOUT 565))

/-- CAN_BUS_OFF of a controller on the bus takes the counters and enters bus-off; CAN_BUS_RECOVERED with AUTO_RECOVER set
and not LOCKED_OFF, 1,408 nominal bit times after bus-off, clears the counters and sets RECOVERED; CAN_RX_OVERRUN counts
the lost frame; CAN_ENABLE_WRITE with ENABLE set of CAN0 that is not in bus-off stores the word, leaves the bus for 11
nominal bit times where an enabled controller changes its rates, and takes over the active line, and one that enables
CAN1 claims both shared balls where the event outlets own none, and is refused where they do; IRQ_VEC_WRITE of pairs 0
and 1 stores the word, of pairs 2 and 3 claims or frees a ball that CAN1 does not own, and a claim on a ball that CAN1
owns is refused; EMCY_SEND sends the oldest waiting EMCY once the inhibit time has passed; EMCY_HISTORY_CLEAR empties
0x1003, clears 0x1001 and puts error code 0 in the queue of a node that is pre-operational or operational and has room.
(R429, R430, R444, R445, R446, R546) -/
def Obligations.CanAndEmcyAct : Prop :=
  (∀ (c : Nat) (tec : Nat) (rec' : Nat) (t : Nat) (s : State),
      c < 2 →
      canOn (s.adv t) c = true →
      exec (.canBusOff c tec rec' t) s = .next ((((s.adv t).set (O.MD_CAN_TEC c) tec).set (O.MD_CAN_REC c) rec').busOff c)) ∧
  (∀ (c : Nat) (t : Nat) (s : State),
      c < 2 →
      nodeRuns (s.adv t) = true →
      canCfg (s.adv t) c B.MD_CAN_CONFIG_ENABLE = true →
      canOff (s.adv t) c = true →
      canCfg (s.adv t) c B.MD_CAN_CONFIG_AUTO_RECOVER = true →
      (s.adv t).bit (O.MD_CAN_STATUS c) B.MD_CAN_STATUS_LOCKED_OFF = false →
      tget 0 (s.adv t).net.offUp c + 1408 * nomBit (s.adv t) c ≤ (s.adv t).up →
      exec (.canBusRecovered c t) s = .next ((((((s.adv t).setF (O.MD_CAN_STATUS c) B.MD_CAN_STATUS_ERROR_STATE 0).set (O.MD_CAN_TEC c) 0).set (O.MD_CAN_REC c) 0).canHit c B.MD_CAN_EVENTS_RECOVERED).canSync)) ∧
  (∀ (c : Nat) (t : Nat) (s : State),
      c < 2 →
      canOn (s.adv t) c = true →
      exec (.canRxOverrun c t) s = .next (((s.adv t).inc (O.MD_CAN_RX_LOST c)).hit (O.MD_CAN_EVENTS c) B.MD_CAN_EVENTS_RX_OVERRUN 565)) ∧
  (∀ (p : Path) (v : Nat) (new : Nat) (mv : Bool) (s1 : State) (s : State),
      s.serves p (O.MD_CAN_CONFIG 0) = true →
      s.fits (O.MD_CAN_CONFIG 0) v = true →
      new = s.merged (O.MD_CAN_CONFIG 0) v →
      bitOf new B.MD_CAN_CONFIG_ENABLE = true →
      canOff s 0 = false →
      mv = (canCfg s 0 B.MD_CAN_CONFIG_ENABLE && decide ((fieldOf (s.get (O.MD_CAN_CONFIG 0)) B.MD_CAN_CONFIG_NOM_RATE, fieldOf (s.get (O.MD_CAN_CONFIG 0)) B.MD_CAN_CONFIG_DATA_RATE) ≠ (fieldOf new B.MD_CAN_CONFIG_NOM_RATE, fieldOf new B.MD_CAN_CONFIG_DATA_RATE))) →
      s1 = s.set (O.MD_CAN_CONFIG 0) new →
      canOff s1 0 = false →
      exec (.canEnableWrite p 0 v) s = .next ((if mv then s1.setNet { s1.net with joinAt := tput s1.net.joinAt 0 (s1.up + 11 * nomBit s1 0) } else s1).canSync)) ∧
  (∀ (p : Path) (v : Nat) (s : State),
      s.serves p (O.MD_CAN_CONFIG 1) = true →
      s.fits (O.MD_CAN_CONFIG 1) v = true →
      bitOf (s.merged (O.MD_CAN_CONFIG 1) v) B.MD_CAN_CONFIG_ENABLE = true →
      canCfg s 1 B.MD_CAN_CONFIG_ENABLE = false →
      canOff s 1 = false →
      s.fld O.MD_PIN_OWNER B.MD_PIN_OWNER_MX0 ≠ 2 →
      s.fld O.MD_PIN_OWNER B.MD_PIN_OWNER_MX1 ≠ 2 →
      exec (.canEnableWrite p 1 v) s = .next (((s.set (O.MD_CAN_CONFIG 1) (s.merged (O.MD_CAN_CONFIG 1) v)).set O.MD_PIN_OWNER 5).canSync)) ∧
  (∀ (p : Path) (v : Nat) (s : State),
      s.serves p (O.MD_CAN_CONFIG 1) = true →
      s.fits (O.MD_CAN_CONFIG 1) v = true →
      bitOf (s.merged (O.MD_CAN_CONFIG 1) v) B.MD_CAN_CONFIG_ENABLE = true →
      canCfg s 1 B.MD_CAN_CONFIG_ENABLE = false →
      (s.fld O.MD_PIN_OWNER B.MD_PIN_OWNER_MX0 = 2 ∨ s.fld O.MD_PIN_OWNER B.MD_PIN_OWNER_MX1 = 2) →
      exec (.canEnableWrite p 1 v) s = .next (((s.inc O.MD_PIN_CONFLICTS).hit O.MD_PIN_EVENTS B.MD_PIN_EVENTS_PIN_CONFLICT 541).abort p (O.MD_CAN_CONFIG 1).index (O.MD_CAN_CONFIG 1).sub .primary abLocal)) ∧
  (∀ (p : Path) (k : Nat) (v : Nat) (s : State),
      k < 4 →
      s.serves p (O.EV_IRQ_VEC k) = true →
      exec (.irqVecWrite p k v) s = .next (s.set (O.EV_IRQ_VEC k) v)) ∧
  (∀ (p : Path) (k : Nat) (v : Nat) (f : Fld) (cl : Bool) (s1 : State) (s : State),
      4 ≤ k →
      k < 8 →
      s.serves p (O.EV_IRQ_VEC k) = true →
      (f = (if k / 2 = 2 then B.MD_PIN_OWNER_MX0 else B.MD_PIN_OWNER_MX1)) →
      (cl = decide (trunc 32 v ≠ 0 ∨ s.get (O.EV_IRQ_VEC (if k % 2 = 0 then k + 1 else k - 1)) ≠ 0)) →
      (cl = false ∨ s.fld O.MD_PIN_OWNER f ≠ 1) →
      s1 = s.set (O.EV_IRQ_VEC k) v →
      exec (.irqVecWrite p k v) s = .next (if s1.fld O.MD_PIN_OWNER f = 1 then s1 else s1.setF O.MD_PIN_OWNER f (if cl then 2 else 0))) ∧
  (∀ (p : Path) (k : Nat) (v : Nat) (f : Fld) (cl : Bool) (s : State),
      4 ≤ k →
      k < 8 →
      s.serves p (O.EV_IRQ_VEC k) = true →
      (f = (if k / 2 = 2 then B.MD_PIN_OWNER_MX0 else B.MD_PIN_OWNER_MX1)) →
      (cl = decide (trunc 32 v ≠ 0 ∨ s.get (O.EV_IRQ_VEC (if k % 2 = 0 then k + 1 else k - 1)) ≠ 0)) →
      cl = true →
      s.fld O.MD_PIN_OWNER f = 1 →
      exec (.irqVecWrite p k v) s = .next (((s.inc O.MD_PIN_CONFLICTS).hit O.MD_PIN_EVENTS B.MD_PIN_EVENTS_PIN_CONFLICT 541).abort p (O.EV_IRQ_VEC k).index (O.EV_IRQ_VEC k).sub .primary abLocal)) ∧
  (∀ (t : Nat) (x : Emcy) (rest : List Emcy) (s : State),
      (s.adv t).net.emcy = x :: rest →
      ((s.adv t).net.emcyAt.all (fun a => decide (a + (s.adv t).get (cobj 0x15 0) * 100 * fuUs ≤ (s.adv t).up))) →
      nodeTalks (s.adv t) = true →
      activeLine (s.adv t) ≠ none →
      bitOf ((s.adv t).get (cobj 0x14 0)) 31 = false →
      exec (.emcySend t) s = .next (((s.adv t).setNet { (s.adv t).net with emcy := rest, emcyAt := some (s.adv t).up }).canSend ((s.adv t).get (cobj 0x14 0)) (emcyBytes x))) ∧
  (∀ (p : Path) (s1 : State) (s : State),
      s.serves p (cobj 3 0) = true →
      (s1 = (s.forAll (List.range 17) (fun x k => x.set (cobj 3 k) 0)).set (cobj 1 0) 0) →
      exec (.emcyHistoryClear p) s = .next (if nodeTalks s1 ∧ s1.net.emcy.length < 16 then s1.setNet { s1.net with emcy := s1.net.emcy ++ [({} : Emcy)] } else s1))

/-- RPDO_RX of a valid RPDO in operational writes its objects at once for an event type and keeps its bytes for the next
SYNC for a synchronous type, and a frame shorter than the mapping is not processed and raises EV565; TPDO_TRANSMIT of a
TPDO that is ready sends its sampled objects on its COB-ID, or counts the frame as dropped where the controller has no
room, and uses up its changes, and of one that is not ready changes nothing; TPDO_EVENT_TIMER marks an expired TPDO and
sends it; SYNC_RX of a node that is pre-operational or operational latches press time, counts, ends a loss and in
operational drives the synchronous PDOs; TIME_RX where 0x1012 consumes it stores the message with the press time of its
reception; every frame is one heard on the active line, and counted. (R439, R440, R441, R442, R443) -/
def Obligations.PdosAct : Prop :=
  (∀ (p : Nat) (bytes : List Byte) (t : Nat) (c : Nat) (s0 : State) (s : State),
      activeLine (s.adv t) = some c →
      canJoined (s.adv t) c = true →
      s0 = (s.adv t).inc (O.MD_CAN_RX_FRAMES c) →
      p < 16 →
      nodeOperates s0 = true →
      pdoValid s0 0x400 p = true →
      mapBytes (pdoMap s0 0x600 p) ≤ bytes.length →
      240 < s0.get (cobj (0x400 + p) 2) →
      exec (.rpdoRx p bytes t) s = .next (pdoWrite (pdoMap s0 0x600 p) bytes (s0.setNet { s0.net with rpdoAt := tput s0.net.rpdoAt p s0.up }))) ∧
  (∀ (p : Nat) (bytes : List Byte) (t : Nat) (c : Nat) (s0 : State) (s : State),
      activeLine (s.adv t) = some c →
      canJoined (s.adv t) c = true →
      s0 = (s.adv t).inc (O.MD_CAN_RX_FRAMES c) →
      p < 16 →
      nodeOperates s0 = true →
      pdoValid s0 0x400 p = true →
      mapBytes (pdoMap s0 0x600 p) ≤ bytes.length →
      s0.get (cobj (0x400 + p) 2) ≤ 240 →
      exec (.rpdoRx p bytes t) s = .next (s0.setNet { s0.net with rpdoWait := tput s0.net.rpdoWait p bytes })) ∧
  (∀ (p : Nat) (bytes : List Byte) (t : Nat) (c : Nat) (s0 : State) (s : State),
      activeLine (s.adv t) = some c →
      canJoined (s.adv t) c = true →
      s0 = (s.adv t).inc (O.MD_CAN_RX_FRAMES c) →
      p < 16 →
      nodeOperates s0 = true →
      pdoValid s0 0x400 p = true →
      bytes.length < mapBytes (pdoMap s0 0x600 p) →
      exec (.rpdoRx p bytes t) s = .next (s0.hit O.MD_DICT_EVENTS B.MD_DICT_EVENTS_RPDO_LENGTH 565)) ∧
  (∀ (p : Nat) (t : Nat) (s1 : State) (s : State),
      tpdoDueNow (s.adv t) p = true →
      s1 = (s.adv t).tpdoSpent p →
      exec (.tpdoTransmit p false t) s = .next ((s1.setNet { s1.net with tpdoAt := tput s1.net.tpdoAt p s1.up }).canSend (s1.get (cobj (0x800 + p) 1)) ((tpdoBytes (s.adv t) p).map (fun (b : Byte) => b.toNat)))) ∧
  (∀ (p : Nat) (t : Nat) (s1 : State) (s : State),
      tpdoDueNow (s.adv t) p = true →
      s1 = (s.adv t).tpdoSpent p →
      exec (.tpdoTransmit p true t) s = .next (s1.forAll ((List.range 2).filter (fun c => canOn s1 c)) (fun s c => (s.inc (O.MD_CAN_TX_DROPPED c)).canHit c B.MD_CAN_EVENTS_TX_DROPPED))) ∧
  (∀ (p : Nat) (full : Bool) (t : Nat) (s : State),
      tpdoDueNow (s.adv t) p = false →
      exec (.tpdoTransmit p full t) s = .next ((s.adv t))) ∧
  (∀ (p : Nat) (full : Bool) (t : Nat) (s : State),
      tpdoExpired (s.adv t) p = true →
      exec (.tpdoEventTimer p full t) s = .next (((s.adv t).setNet { (s.adv t).net with tpdoDue := setIns (s.adv t).net.tpdoDue p }).tpdoSend p full)) ∧
  (∀ (counter : Nat) (t : Nat) (c : Nat) (s0 : State) (s1 : State) (s : State),
      activeLine (s.adv t) = some c →
      canJoined (s.adv t) c = true →
      s0 = (s.adv t).inc (O.MD_CAN_RX_FRAMES c) →
      nodeTalks s0 = true →
      s1 = ((s0.setNet { s0.net with syncAt := s0.up, syncLost := false }).set O.MD_SYNC_AT s0.pt).inc O.MD_SYNC_COUNT →
      exec (.syncRx counter t) s = .next (if nodeOperates s0 then s1.syncPdos counter else s1)) ∧
  (∀ (ms : Nat) (days : Nat) (t : Nat) (c : Nat) (s0 : State) (s : State),
      activeLine (s.adv t) = some c →
      canJoined (s.adv t) c = true →
      s0 = (s.adv t).inc (O.MD_CAN_RX_FRAMES c) →
      nodeTalks s0 = true →
      bitOf (s0.get (cobj 0x12 0)) 31 = true →
      ms < 2 ^ 28 →
      days < 2 ^ 16 →
      exec (.timeRx ms days t) s = .next ((((s0.set O.MD_TIME_MS ms).set O.MD_TIME_DAYS days).set O.MD_TIME_AT s0.pt).timeRtc ms days))

/-- USDO_DOWNLOAD_INIT and USDO_UPLOAD_INIT of a client without a session open a free one and check the object, and an
object that is missing, not readable or too long ends the session with its abort; with every session held the client is
refused; an upload's answer that fits one frame goes out at once, and else its size; a further segment of the client's
session, in its direction and in classic protocol with the toggle in step, goes on, one out of step ends the session
with its abort, one in the other direction ends it with abort 0504_0001, and one of a client without a session is
answered with that abort; every frame is one heard on the active line by a node that is pre-operational or operational.
(R433, R434, R435) -/
def Obligations.UsdoTransfersAct : Prop :=
  (∀ (client : Nat) (index : Nat) (sub : Nat) (sized : Bool) (size : Nat) (data : List Byte) (last : Bool) (t : Nat) (c : Nat) (k : Nat) (x : Sess) (s0 : State) (s : State),
      activeLine (s.adv t) = some c →
      canJoined (s.adv t) c = true →
      s0 = (s.adv t).inc (O.MD_CAN_RX_FRAMES c) →
      nodeTalks s0 = true →
      clientOk s0 client = true →
      x = { client := clientCode s0 client, index := index, sub := sub, sized := sized, size := size, lastAt := s0.up } →
      sessOf s0 x.client = none →
      freeSess s0 = some k →
      downloadStart (s0.sessOpen k x) x = none →
      exec (.usdoDownloadInit client 0 index sub sized size data last t) s = .next (usdoTake k data last (s0.sessOpen k x))) ∧
  (∀ (client : Nat) (index : Nat) (sub : Nat) (sized : Bool) (size : Nat) (data : List Byte) (last : Bool) (t : Nat) (c : Nat) (k : Nat) (x : Sess) (s0 : State) (e : Nat) (s : State),
      activeLine (s.adv t) = some c →
      canJoined (s.adv t) c = true →
      s0 = (s.adv t).inc (O.MD_CAN_RX_FRAMES c) →
      nodeTalks s0 = true →
      clientOk s0 client = true →
      x = { client := clientCode s0 client, index := index, sub := sub, sized := sized, size := size, lastAt := s0.up } →
      sessOf s0 x.client = none →
      freeSess s0 = some k →
      downloadStart (s0.sessOpen k x) x = some e →
      exec (.usdoDownloadInit client 0 index sub sized size data last t) s = .next ((s0.sessOpen k x).sessAbort k e)) ∧
  (∀ (client : Nat) (index : Nat) (sub : Nat) (sized : Bool) (size : Nat) (data : List Byte) (last : Bool) (t : Nat) (c : Nat) (x : Sess) (s0 : State) (s : State),
      activeLine (s.adv t) = some c →
      canJoined (s.adv t) c = true →
      s0 = (s.adv t).inc (O.MD_CAN_RX_FRAMES c) →
      nodeTalks s0 = true →
      clientOk s0 client = true →
      x = { client := clientCode s0 client, index := index, sub := sub, sized := sized, size := size, lastAt := s0.up } →
      sessOf s0 x.client = none →
      freeSess s0 = none →
      exec (.usdoDownloadInit client 0 index sub sized size data last t) s = .next (s0.usdoRefuse x)) ∧
  (∀ (client : Nat) (index : Nat) (sub : Nat) (memErr : Bool) (t : Nat) (c : Nat) (k : Nat) (x : Sess) (s0 : State) (s1 : State) (b : List Byte) (s2 : State) (s3 : State) (s : State),
      activeLine (s.adv t) = some c →
      canJoined (s.adv t) c = true →
      s0 = (s.adv t).inc (O.MD_CAN_RX_FRAMES c) →
      nodeTalks s0 = true →
      clientOk s0 client = true →
      x = { client := clientCode s0 client, index := index, sub := sub, upload := true, lastAt := s0.up } →
      sessOf s0 x.client = none →
      freeSess s0 = some k →
      s1 = s0.sessOpen k x →
      (netRead s1 index sub).toOption = some b →
      (s2 = if index = 0x2900 ∧ sub = 0x63 then s1.set O.BK_RTC_SUB s1.bk.rtcSub else s1) →
      (s3 = s2.setSess k { x with sized := true, size := b.length, data := if domCap index ≠ 0 then [] else b }) →
      exec (.usdoUploadInit client 0 index sub memErr t) s = .next (if b.length ≤ usdoRoom s3 true then usdoGive k memErr b.length s3 else s3.usdoSend "usdo upload size" [x.client, index, sub, b.length])) ∧
  (∀ (client : Nat) (index : Nat) (sub : Nat) (memErr : Bool) (t : Nat) (c : Nat) (k : Nat) (x : Sess) (s0 : State) (s1 : State) (e : Nat) (s : State),
      activeLine (s.adv t) = some c →
      canJoined (s.adv t) c = true →
      s0 = (s.adv t).inc (O.MD_CAN_RX_FRAMES c) →
      nodeTalks s0 = true →
      clientOk s0 client = true →
      x = { client := clientCode s0 client, index := index, sub := sub, upload := true, lastAt := s0.up } →
      sessOf s0 x.client = none →
      freeSess s0 = some k →
      s1 = s0.sessOpen k x →
      netRead s1 index sub = .error e →
      exec (.usdoUploadInit client 0 index sub memErr t) s = .next (s1.sessAbort k e)) ∧
  (∀ (client : Nat) (toggle : Bool) (data : List Byte) (last : Bool) (t : Nat) (c : Nat) (k : Nat) (x : Sess) (s0 : State) (s1 : State) (s : State),
      activeLine (s.adv t) = some c →
      canJoined (s.adv t) c = true →
      s0 = (s.adv t).inc (O.MD_CAN_RX_FRAMES c) →
      nodeTalks s0 = true →
      clientOk s0 client = true →
      sessOf s0 (clientCode s0 client) = some k →
      x = tget {} s0.net.sess k →
      x.upload = false →
      (s0.net.classic = false ∨ x.toggle = toggle) →
      s1 = s0.setSess k { x with toggle := !x.toggle, lastAt := s0.up } →
      exec (.usdoDownloadSegment client toggle data last t) s = .next (usdoTake k data last s1)) ∧
  (∀ (client : Nat) (toggle : Bool) (data : List Byte) (last : Bool) (t : Nat) (c : Nat) (k : Nat) (x : Sess) (s0 : State) (s : State),
      activeLine (s.adv t) = some c →
      canJoined (s.adv t) c = true →
      s0 = (s.adv t).inc (O.MD_CAN_RX_FRAMES c) →
      nodeTalks s0 = true →
      clientOk s0 client = true →
      sessOf s0 (clientCode s0 client) = some k →
      x = tget {} s0.net.sess k →
      x.upload ≠ false →
      exec (.usdoDownloadSegment client toggle data last t) s = .next (s0.sessAbort k abCommand)) ∧
  (∀ (client : Nat) (toggle : Bool) (data : List Byte) (last : Bool) (t : Nat) (c : Nat) (k : Nat) (x : Sess) (s0 : State) (s : State),
      activeLine (s.adv t) = some c →
      canJoined (s.adv t) c = true →
      s0 = (s.adv t).inc (O.MD_CAN_RX_FRAMES c) →
      nodeTalks s0 = true →
      clientOk s0 client = true →
      sessOf s0 (clientCode s0 client) = some k →
      x = tget {} s0.net.sess k →
      x.upload = false →
      s0.net.classic = true →
      x.toggle ≠ toggle →
      exec (.usdoDownloadSegment client toggle data last t) s = .next (s0.sessAbort k abToggle)) ∧
  (∀ (client : Nat) (toggle : Bool) (data : List Byte) (last : Bool) (t : Nat) (c : Nat) (s0 : State) (s : State),
      activeLine (s.adv t) = some c →
      canJoined (s.adv t) c = true →
      s0 = (s.adv t).inc (O.MD_CAN_RX_FRAMES c) →
      nodeTalks s0 = true →
      clientOk s0 client = true →
      sessOf s0 (clientCode s0 client) = none →
      exec (.usdoDownloadSegment client toggle data last t) s = .next (s0.usdoAbort (clientCode s0 client) 0 0 abCommand)) ∧
  (∀ (client : Nat) (toggle : Bool) (memErr : Bool) (t : Nat) (c : Nat) (k : Nat) (x : Sess) (s0 : State) (s1 : State) (s : State),
      activeLine (s.adv t) = some c →
      canJoined (s.adv t) c = true →
      s0 = (s.adv t).inc (O.MD_CAN_RX_FRAMES c) →
      nodeTalks s0 = true →
      clientOk s0 client = true →
      sessOf s0 (clientCode s0 client) = some k →
      x = tget {} s0.net.sess k →
      x.upload = true →
      (s0.net.classic = false ∨ x.toggle = toggle) →
      s1 = s0.setSess k { x with toggle := !x.toggle, lastAt := s0.up } →
      exec (.usdoUploadSegment client toggle memErr t) s = .next (usdoGive k memErr (usdoRoom s1 false) s1)) ∧
  (∀ (client : Nat) (toggle : Bool) (memErr : Bool) (t : Nat) (c : Nat) (k : Nat) (x : Sess) (s0 : State) (s : State),
      activeLine (s.adv t) = some c →
      canJoined (s.adv t) c = true →
      s0 = (s.adv t).inc (O.MD_CAN_RX_FRAMES c) →
      nodeTalks s0 = true →
      clientOk s0 client = true →
      sessOf s0 (clientCode s0 client) = some k →
      x = tget {} s0.net.sess k →
      x.upload ≠ true →
      exec (.usdoUploadSegment client toggle memErr t) s = .next (s0.sessAbort k abCommand)) ∧
  (∀ (client : Nat) (toggle : Bool) (memErr : Bool) (t : Nat) (c : Nat) (k : Nat) (x : Sess) (s0 : State) (s : State),
      activeLine (s.adv t) = some c →
      canJoined (s.adv t) c = true →
      s0 = (s.adv t).inc (O.MD_CAN_RX_FRAMES c) →
      nodeTalks s0 = true →
      clientOk s0 client = true →
      sessOf s0 (clientCode s0 client) = some k →
      x = tget {} s0.net.sess k →
      x.upload = true →
      s0.net.classic = true →
      x.toggle ≠ toggle →
      exec (.usdoUploadSegment client toggle memErr t) s = .next (s0.sessAbort k abToggle)) ∧
  (∀ (client : Nat) (toggle : Bool) (memErr : Bool) (t : Nat) (c : Nat) (s0 : State) (s : State),
      activeLine (s.adv t) = some c →
      canJoined (s.adv t) c = true →
      s0 = (s.adv t).inc (O.MD_CAN_RX_FRAMES c) →
      nodeTalks s0 = true →
      clientOk s0 client = true →
      sessOf s0 (clientCode s0 client) = none →
      exec (.usdoUploadSegment client toggle memErr t) s = .next (s0.usdoAbort (clientCode s0 client) 0 0 abCommand))

/-- EVENT_ROUTE takes the occurrence of least press time from the buffer, lowest event first at one press time, and gives it
to its outlets: the queue and its vector when it is enabled, EMCY and the ring as its route says; MSIX_SEND with the
link up makes the writes and reads of BAR4 that it brings and sends the lowest vector that may then send; a write that
sets Q_EN starts the queue anew, and another write stores the word; PCIE_RESET clears what is due and the MSI-X table
and takes the link down; PCIE_LINK_UP brings it up and sends every vector that may send. (R453, R455, R456, R458, R472) -/
def Obligations.EventOutletsAct : Prop :=
  (∀ (t : Nat) (x : Occ) (s1 : State) (s2 : State) (s3 : State) (s : State),
      nextOcc (s.adv t).evs.buf = some x →
      s1 = ((s.adv t).setEvs { (s.adv t).evs with buf := (s.adv t).evs.buf.erase x }).setF O.EV_STATUS B.EV_STATUS_BUF_FILL ((s.adv t).evs.buf.erase x).length →
      (s2 = if evEnabled s1 x.ev then (s1.queuePut x).setEvs { (s1.queuePut x).evs with due := setIns (s1.queuePut x).evs.due (routeOf s1 x.ev % 64) } else s1) →
      (s3 = if bitOf (routeOf s1 x.ev) 6 then s2.emcyPut x else s2) →
      exec (.eventRoute t) s = .next (if bitOf (routeOf s1 x.ev) 7 then s3.faultCell x else s3)) ∧
  (∀ (ws : (List (Nat × Nat))) (rs : List Nat) (on : Bool) (t : Nat) (s1 : State) (s2 : State) (s : State),
      (s.adv t).evs.linkUp = true →
      (s1 = ws.foldl (fun s w => s.bar4Write w.1 w.2) ((s.adv t).setEvs { (s.adv t).evs with msixOn := on })) →
      (s2 = rs.foldl (fun s a => s.emit (.read .host (bar4Read s a))) s1) →
      exec (.msixSend ⟨ws, rs⟩ on t) s = .next (match s2.evs.due.find? (fun v => mayMsix s2 v) with | none => s2 | some v => (s2.setEvs { s2.evs with due := setDel s2.evs.due v, sentAt := tput s2.evs.sentAt v s2.up }).emit (.msix v (msixWord s2 (16 * v) + 2 ^ 32 * msixWord s2 (16 * v + 4)) (msixWord s2 (16 * v + 8))))) ∧
  (∀ (p : Path) (v : Nat) (s1 : State) (s : State),
      s.serves p (O.EV_CONTROL) = true →
      s.fits O.EV_CONTROL v = true →
      s1 = s.set O.EV_CONTROL (s.merged O.EV_CONTROL v) →
      qOn s1 = true →
      qOn s = false →
      exec (.qEnWrite p v) s = .next ((((s1.setEvs { s1.evs with phase := true }).set O.EV_Q_TAIL 0).set O.EV_Q_HEAD 0).qSync)) ∧
  (∀ (p : Path) (v : Nat) (s1 : State) (s : State),
      s.serves p (O.EV_CONTROL) = true →
      s.fits O.EV_CONTROL v = true →
      s1 = s.set O.EV_CONTROL (s.merged O.EV_CONTROL v) →
      (qOn s1 = false ∨ qOn s = true) →
      exec (.qEnWrite p v) s = .next (s1.qSync)) ∧
  (∀ (t : Nat) (s : State),
      exec (.pcieReset t) s = .next ((s.adv t).setEvs { (s.adv t).evs with due := [], msix := [], msixOn := false, linkUp := false })) ∧
  (∀ (t : Nat) (s1 : State) (s2 : State) (s : State),
      s1 = (s.adv t).setEvs { (s.adv t).evs with linkUp := true } →
      (s2 = if s1.clk.inReset then s1 else s1.setB O.CK_STATUS B.CK_STATUS_PCIE_REF_OK true) →
      exec (.pcieLinkUp t) s = .next (s2.forAll (s2.evs.due.filter (fun v => mayMsix s2 v)) (fun s v => s.msixOut v)))

/-- DMA_START of an IDLE channel that does not link to itself and whose trigger no other channel claims clears its flags and
loads at DM_CH_DESC, and a claimed trigger refuses it; DMA_STOP of a channel that is not IDLE puts it IDLE; DMA_RESUME
of a HALTED channel goes on with its descriptor, or loads it anew where it is bad, and DMA_SKIP of one skips its
descriptor; DMA_DESC_LOADED gives a loading channel its 64 bytes, from the host with the link up or from the band store;
DMA_DESC_DONE serves the running channels up to what is left of the channel's descriptor and, with its last unit moved,
writes RESULT, counts the descriptor, raises EV567 where it asks for it and goes on; DMA_ACCESS_FAIL with code 10 of a
descriptor's fetch halts the channel with code 10, and with a code that an access of the data may have serves n units
and halts the channel, unless it has stopped or ended, with that code at the address of the next. (R459, R460, R462,
R464, R466) -/
def Obligations.DmaChannelsAct : Prop :=
  (∀ (p : Path) (c : Nat) (s1 : State) (s : State),
      c < 32 →
      s.serves p (O.DM_CH_CMD c) = true →
      dmState s c = 0 →
      (dmLinks s c = false ∨ dmLink s c ≠ c) →
      dmClaimed s c = false →
      s1 = s.set (O.DM_CH_STATUS c) (s.get (O.DM_CH_STATUS c) / 128 % 512 * 128) →
      exec (.dmaStart p c) s = .next ((s1.setDmaCh c { at' := s1.get (O.DM_CH_DESC c) }).dmTo c 1)) ∧
  (∀ (p : Path) (c : Nat) (s : State),
      c < 32 →
      s.serves p (O.DM_CH_CMD c) = true →
      dmState s c = 0 →
      (dmLinks s c = false ∨ dmLink s c ≠ c) →
      dmClaimed s c = true →
      exec (.dmaStart p c) s = .next ((s.conflict (O.DM_CH_STATUS c) B.DM_CH_STATUS_RESOURCE).abort p (O.DM_CH_CMD c).index (O.DM_CH_CMD c).sub .primary abLocal)) ∧
  (∀ (p : Path) (c : Nat) (s : State),
      c < 32 →
      s.serves p (O.DM_CH_CMD c) = true →
      dmState s c ≠ 0 →
      exec (.dmaStop p c) s = .next ((s.setDmaCh c {}).dmTo c 0)) ∧
  (∀ (p : Path) (c : Nat) (s : State),
      c < 32 →
      s.serves p (O.DM_CH_CMD c) = true →
      dmState s c = 0 →
      exec (.dmaStop p c) s = .next (s)) ∧
  (∀ (p : Path) (c : Nat) (s : State),
      c < 32 →
      s.serves p (O.DM_CH_CMD c) = true →
      dmState s c = 4 →
      (s.dmaCh c).bad = 0 →
      exec (.dmaResume p c) s = .next (s.dmTo c 2)) ∧
  (∀ (p : Path) (c : Nat) (s : State),
      c < 32 →
      s.serves p (O.DM_CH_CMD c) = true →
      dmState s c = 4 →
      (s.dmaCh c).bad ≠ 0 →
      exec (.dmaResume p c) s = .next ((s.setDmaCh c { at' := (s.dmaCh c).at' }).dmTo c 1)) ∧
  (∀ (p : Path) (c : Nat) (s : State),
      c < 32 →
      s.serves p (O.DM_CH_CMD c) = true →
      dmState s c = 4 →
      exec (.dmaSkip p c) s = .next ((s.dmResult c (0x40000000 + s.fld (O.DM_CH_STATUS c) B.DM_CH_STATUS_ERR_CODE)).dmNext c)) ∧
  (∀ (c : Nat) (bytes : List Byte) (t : Nat) (s : State),
      c < 32 →
      dmState (s.adv t) c = 1 →
      dmInBand (s.adv t) c = false →
      (s.adv t).evs.linkUp = true →
      bytes.length = 64 →
      exec (.dmaDescLoaded c bytes t) s = .next ((s.adv t).dmLoaded c bytes)) ∧
  (∀ (c : Nat) (bytes : List Byte) (t : Nat) (s : State),
      c < 32 →
      dmState (s.adv t) c = 1 →
      dmInBand (s.adv t) c = true →
      ((s.adv t).dmaCh c).at' + 64 ≤ (s.adv t).get O.BS_CAPACITY * 1048576 →
      exec (.dmaDescLoaded c bytes t) s = .next ((s.adv t).dmLoaded c ((s.adv t).mgets (bandAddr ((s.adv t).dmaCh c).at') 64))) ∧
  (∀ (c : Nat) (data : List Byte) (t : Nat) (d : Desc) (s1 : State) (s2 : State) (s : State),
      c < 32 →
      ((s.adv t).dmaCh c).desc = some d →
      s1 = dmRun c (d.total - ((s.adv t).dmaCh c).moved) data (s.adv t) →
      dmState s1 c = 2 →
      d.total ≤ (s1.dmaCh c).moved →
      s2 = (s1.dmResult c 0x80000000).inc (O.DM_CH_DESCS c) →
      exec (.dmaDescDone c data t) s = .next ((if d.irq then s2.hit O.DM_DONE c 567 else s2).dmNext c)) ∧
  (∀ (c : Nat) (data : List Byte) (t : Nat) (d : Desc) (s1 : State) (s : State),
      c < 32 →
      ((s.adv t).dmaCh c).desc = some d →
      s1 = dmRun c (d.total - ((s.adv t).dmaCh c).moved) data (s.adv t) →
      (dmState s1 c ≠ 2 ∨ (s1.dmaCh c).moved < d.total) →
      exec (.dmaDescDone c data t) s = .next (s1)) ∧
  (∀ (c : Nat) (n : Nat) (write : Bool) (data : List Byte) (t : Nat) (s : State),
      c < 32 →
      dmState (s.adv t) c = 1 →
      exec (.dmaAccessFail c n 10 write data t) s = .next (((s.adv t).setDmaCh c { at' := ((s.adv t).dmaCh c).at', bad := 10 }).dmHalt c ((s.adv t).dmaCh c).at' 10 false)) ∧
  (∀ (c : Nat) (n : Nat) (code : Nat) (write : Bool) (data : List Byte) (t : Nat) (d : Desc) (a : Nat) (s1 : State) (s : State),
      c < 32 →
      dmState (s.adv t) c = 2 →
      ((s.adv t).dmaCh c).desc = some d →
      outerCode d code write = true →
      s1 = dmRun c n data (s.adv t) →
      dmState s1 c = 2 →
      (s1.dmaCh c).moved < d.total →
      (a = if write then sideAddr d d.dst d.dstPitch ((s1.dmaCh c).cell d (s1.dmaCh c).moved) else sideAddr d d.src d.srcPitch ((s1.dmaCh c).cell d (s1.dmaCh c).moved)) →
      exec (.dmaAccessFail c n code write data t) s = .next ((if code = 6 then s1.bsEcc 2 a else s1).dmHalt c a code write)) ∧
  (∀ (c : Nat) (n : Nat) (code : Nat) (write : Bool) (data : List Byte) (t : Nat) (d : Desc) (s1 : State) (s : State),
      c < 32 →
      dmState (s.adv t) c = 2 →
      ((s.adv t).dmaCh c).desc = some d →
      outerCode d code write = true →
      s1 = dmRun c n data (s.adv t) →
      (dmState s1 c ≠ 2 ∨ d.total ≤ (s1.dmaCh c).moved) →
      exec (.dmaAccessFail c n code write data t) s = .next (s1))

/-- A mode command that Table 18.2 accepts, with no change under way, sets MD_MODE, BUSY with the target and MD_MODE_RESULT
1, and begins the actions that Table 18.3 gives for the change, one clause for each change of the table; MODE_CMD_SAFE
and MODE_CMD_RESET act at once on a change under way too, which is superseded with RESULT 4 and its event before; a
command for the mode in force, with no change under way, leaves RESULT 0 and does nothing else; MODE_CMD_RESET from any
mode but RESET is the reset event MODE_COMMAND; a command that is refused sets its RESULT and event, answers with its
abort and changes no mode; MODE_CHANGE_DONE, once the actions are over, clears BUSY, sets RESULT 0 and counts the
change. (R468, R469, R470, spec/18_modes_supply_and_backup.md) -/
def Obligations.ModeChangesAct : Prop :=
  (∀ (p : Path) (s1 : State) (s : State),
      s.serves p O.MD_MODE_CMD = true →
      modeBusy s = false →
      s.mode = 1 →
      s.bit O.BT_STATUS B.BT_STATUS_BOOT_DONE = true →
      s1 = ((s.set O.MD_MODE 2).set O.MD_STATUS (1 + 256 * 2)).set O.MD_MODE_RESULT 1 →
      exec (.modeCmdConfigure p) s = .next (s1.leaveBoot)) ∧
  (∀ (p : Path) (s1 : State) (s : State),
      s.serves p O.MD_MODE_CMD = true →
      modeBusy s = false →
      s.mode = 3 →
      s1 = ((s.set O.MD_MODE 2).set O.MD_STATUS (1 + 256 * 2)).set O.MD_MODE_RESULT 1 →
      exec (.modeCmdConfigure p) s = .next (s1.wakeStore.bringUpOff)) ∧
  (∀ (p : Path) (s1 : State) (s : State),
      s.serves p O.MD_MODE_CMD = true →
      modeBusy s = false →
      s.mode = 4 →
      s1 = ((s.set O.MD_MODE 2).set O.MD_STATUS (1 + 256 * 2)).set O.MD_MODE_RESULT 1 →
      exec (.modeCmdConfigure p) s = .next (s1.toConfigure.bringUpOff)) ∧
  (∀ (p : Path) (s1 : State) (s : State),
      s.serves p O.MD_MODE_CMD = true →
      modeBusy s = false →
      s.mode = 6 →
      s1 = ((s.set O.MD_MODE 2).set O.MD_STATUS (1 + 256 * 2)).set O.MD_MODE_RESULT 1 →
      exec (.modeCmdConfigure p) s = .next (s1.toConfigure.bringUpOff)) ∧
  (∀ (p : Path) (s1 : State) (s : State),
      s.serves p O.MD_MODE_CMD = true →
      modeBusy s = false →
      s.mode = 7 →
      s1 = ((s.set O.MD_MODE 2).set O.MD_STATUS (1 + 256 * 2)).set O.MD_MODE_RESULT 1 →
      exec (.modeCmdConfigure p) s = .next ((s1.emit (.note "outputs released" [])).bringUpOff)) ∧
  (∀ (p : Path) (s1 : State) (s : State),
      s.serves p O.MD_MODE_CMD = true →
      modeBusy s = false →
      s.mode = 2 →
      s1 = ((s.set O.MD_MODE 3).set O.MD_STATUS (1 + 256 * 3)).set O.MD_MODE_RESULT 1 →
      exec (.modeCmdStandby p) s = .next (s1.toStandby)) ∧
  (∀ (p : Path) (s1 : State) (s : State),
      s.serves p O.MD_MODE_CMD = true →
      modeBusy s = false →
      s.mode = 7 →
      s1 = ((s.set O.MD_MODE 3).set O.MD_STATUS (1 + 256 * 3)).set O.MD_MODE_RESULT 1 →
      exec (.modeCmdStandby p) s = .next (s1.toStandby)) ∧
  (∀ (p : Path) (s1 : State) (s : State),
      s.serves p O.MD_MODE_CMD = true →
      modeBusy s = false →
      s.mode = 2 →
      s1 = ((s.set O.MD_MODE 4).set O.MD_STATUS (1 + 256 * 4)).set O.MD_MODE_RESULT 1 →
      exec (.modeCmdReady p) s = .next (s1.pgSyncAll)) ∧
  (∀ (p : Path) (s1 : State) (s : State),
      s.serves p O.MD_MODE_CMD = true →
      modeBusy s = false →
      s.mode = 5 →
      s1 = ((s.set O.MD_MODE 4).set O.MD_STATUS (1 + 256 * 4)).set O.MD_MODE_RESULT 1 →
      exec (.modeCmdReady p) s = .next ((s1.disarmAll.mtSync.dlSettleAll).forAll ports (fun s n => s.lgSync n))) ∧
  (∀ (p : Path) (s1 : State) (s : State),
      s.serves p O.MD_MODE_CMD = true →
      modeBusy s = false →
      s.mode = 6 →
      s1 = ((s.set O.MD_MODE 4).set O.MD_STATUS (1 + 256 * 4)).set O.MD_MODE_RESULT 1 →
      exec (.modeCmdReady p) s = .next (s1.mtSync)) ∧
  (∀ (p : Path) (s1 : State) (s : State),
      s.serves p O.MD_MODE_CMD = true →
      modeBusy s = false →
      s.mode = 4 →
      s1 = ((s.set O.MD_MODE 5).set O.MD_STATUS (1 + 256 * 5)).set O.MD_MODE_RESULT 1 →
      exec (.modeCmdPrint p) s = .next (s1.fiPrint.forAll ports (fun s n => if armed s n then (s.lgSync n).ttSync n else s))) ∧
  (∀ (p : Path) (s1 : State) (s : State),
      s.serves p O.MD_MODE_CMD = true →
      modeBusy s = false →
      s.mode = 4 →
      s1 = ((s.set O.MD_MODE 6).set O.MD_STATUS (1 + 256 * 6)).set O.MD_MODE_RESULT 1 →
      exec (.modeCmdService p) s = .next (s1)) ∧
  (∀ (p : Path) (s1 : State) (s : State),
      s.serves p O.MD_MODE_CMD = true →
      modeBusy s = false →
      s.mode = 2 →
      s1 = ((s.set O.MD_MODE 7).set O.MD_STATUS (1 + 256 * 7)).set O.MD_MODE_RESULT 1 →
      exec (.modeCmdSafe p) s = .next (s1.toSafe.fiCancel)) ∧
  (∀ (p : Path) (s1 : State) (s : State),
      s.serves p O.MD_MODE_CMD = true →
      modeBusy s = false →
      s.mode = 3 →
      s1 = ((s.set O.MD_MODE 7).set O.MD_STATUS (1 + 256 * 7)).set O.MD_MODE_RESULT 1 →
      exec (.modeCmdSafe p) s = .next (s1.toSafe.fiCancel)) ∧
  (∀ (p : Path) (s1 : State) (s : State),
      s.serves p O.MD_MODE_CMD = true →
      modeBusy s = false →
      s.mode = 4 →
      s1 = ((s.set O.MD_MODE 7).set O.MD_STATUS (1 + 256 * 7)).set O.MD_MODE_RESULT 1 →
      exec (.modeCmdSafe p) s = .next (s1.toSafe.fiCancel)) ∧
  (∀ (p : Path) (s1 : State) (s : State),
      s.serves p O.MD_MODE_CMD = true →
      modeBusy s = false →
      s.mode = 5 →
      s1 = ((s.set O.MD_MODE 7).set O.MD_STATUS (1 + 256 * 7)).set O.MD_MODE_RESULT 1 →
      exec (.modeCmdSafe p) s = .next ((s1.toSafe.fiCancel.dlSettleAll).forAll ports (fun s n => s.lgSync n))) ∧
  (∀ (p : Path) (s1 : State) (s : State),
      s.serves p O.MD_MODE_CMD = true →
      modeBusy s = false →
      s.mode = 6 →
      s1 = ((s.set O.MD_MODE 7).set O.MD_STATUS (1 + 256 * 7)).set O.MD_MODE_RESULT 1 →
      exec (.modeCmdSafe p) s = .next (s1.toSafe.fiCancel)) ∧
  (∀ (p : Path) (s0 : State) (s1 : State) (s : State),
      s.serves p O.MD_MODE_CMD = true →
      modeBusy s = true →
      (s.mode = 2 ∨ s.mode = 3 ∨ s.mode = 4 ∨ s.mode = 6) →
      s0 = (s.set O.MD_MODE_RESULT 4).mdHit 2 →
      s1 = ((s0.set O.MD_MODE 7).set O.MD_STATUS (1 + 256 * 7)).set O.MD_MODE_RESULT 1 →
      exec (.modeCmdSafe p) s = .next (s1.toSafe.fiCancel)) ∧
  (∀ (p : Path) (s : State),
      s.serves p O.MD_MODE_CMD = true →
      s.mode = 1 →
      modeBusy s = false →
      exec (.modeCmdBoot p) s = .next (s.set O.MD_MODE_RESULT 0)) ∧
  (∀ (p : Path) (r : Nat) (code : Nat) (s : State),
      s.serves p O.MD_MODE_CMD = true →
      (s.mode ≠ 1 ∨ modeBusy s = true) →
      modeRefusal s 1 = some (r, code) →
      exec (.modeCmdBoot p) s = .next (((s.set O.MD_MODE_RESULT r).mdHit 1).abort p O.MD_MODE_CMD.index O.MD_MODE_CMD.sub .primary code)) ∧
  (∀ (p : Path) (s : State),
      s.serves p O.MD_MODE_CMD = true →
      s.mode = 2 →
      modeBusy s = false →
      exec (.modeCmdConfigure p) s = .next (s.set O.MD_MODE_RESULT 0)) ∧
  (∀ (p : Path) (r : Nat) (code : Nat) (s : State),
      s.serves p O.MD_MODE_CMD = true →
      (s.mode ≠ 2 ∨ modeBusy s = true) →
      modeRefusal s 2 = some (r, code) →
      exec (.modeCmdConfigure p) s = .next (((s.set O.MD_MODE_RESULT r).mdHit 1).abort p O.MD_MODE_CMD.index O.MD_MODE_CMD.sub .primary code)) ∧
  (∀ (p : Path) (s : State),
      s.serves p O.MD_MODE_CMD = true →
      s.mode = 3 →
      modeBusy s = false →
      exec (.modeCmdStandby p) s = .next (s.set O.MD_MODE_RESULT 0)) ∧
  (∀ (p : Path) (r : Nat) (code : Nat) (s : State),
      s.serves p O.MD_MODE_CMD = true →
      (s.mode ≠ 3 ∨ modeBusy s = true) →
      modeRefusal s 3 = some (r, code) →
      exec (.modeCmdStandby p) s = .next (((s.set O.MD_MODE_RESULT r).mdHit 1).abort p O.MD_MODE_CMD.index O.MD_MODE_CMD.sub .primary code)) ∧
  (∀ (p : Path) (s : State),
      s.serves p O.MD_MODE_CMD = true →
      s.mode = 4 →
      modeBusy s = false →
      exec (.modeCmdReady p) s = .next (s.set O.MD_MODE_RESULT 0)) ∧
  (∀ (p : Path) (r : Nat) (code : Nat) (s : State),
      s.serves p O.MD_MODE_CMD = true →
      (s.mode ≠ 4 ∨ modeBusy s = true) →
      modeRefusal s 4 = some (r, code) →
      exec (.modeCmdReady p) s = .next (((s.set O.MD_MODE_RESULT r).mdHit 1).abort p O.MD_MODE_CMD.index O.MD_MODE_CMD.sub .primary code)) ∧
  (∀ (p : Path) (s : State),
      s.serves p O.MD_MODE_CMD = true →
      s.mode = 5 →
      modeBusy s = false →
      exec (.modeCmdPrint p) s = .next (s.set O.MD_MODE_RESULT 0)) ∧
  (∀ (p : Path) (r : Nat) (code : Nat) (s : State),
      s.serves p O.MD_MODE_CMD = true →
      (s.mode ≠ 5 ∨ modeBusy s = true) →
      modeRefusal s 5 = some (r, code) →
      exec (.modeCmdPrint p) s = .next (((s.set O.MD_MODE_RESULT r).mdHit 1).abort p O.MD_MODE_CMD.index O.MD_MODE_CMD.sub .primary code)) ∧
  (∀ (p : Path) (s : State),
      s.serves p O.MD_MODE_CMD = true →
      s.mode = 6 →
      modeBusy s = false →
      exec (.modeCmdService p) s = .next (s.set O.MD_MODE_RESULT 0)) ∧
  (∀ (p : Path) (r : Nat) (code : Nat) (s : State),
      s.serves p O.MD_MODE_CMD = true →
      (s.mode ≠ 6 ∨ modeBusy s = true) →
      modeRefusal s 6 = some (r, code) →
      exec (.modeCmdService p) s = .next (((s.set O.MD_MODE_RESULT r).mdHit 1).abort p O.MD_MODE_CMD.index O.MD_MODE_CMD.sub .primary code)) ∧
  (∀ (p : Path) (s : State),
      s.serves p O.MD_MODE_CMD = true →
      s.mode = 7 →
      modeBusy s = false →
      exec (.modeCmdSafe p) s = .next (s.set O.MD_MODE_RESULT 0)) ∧
  (∀ (p : Path) (r : Nat) (code : Nat) (s : State),
      s.serves p O.MD_MODE_CMD = true →
      (s.mode ≠ 7 ∨ modeBusy s = true) →
      modeRefusal s 7 = some (r, code) →
      exec (.modeCmdSafe p) s = .next (((s.set O.MD_MODE_RESULT r).mdHit 1).abort p O.MD_MODE_CMD.index O.MD_MODE_CMD.sub .primary code)) ∧
  (∀ (p : Path) (s : State),
      s.serves p O.MD_MODE_CMD = true →
      1 ≤ s.mode →
      s.mode ≤ 7 →
      exec (.modeCmdReset p) s = .next ((if modeBusy s then (s.set O.MD_MODE_RESULT 4).mdHit 2 else s).resetEvent 5)) ∧
  (∀ (t : Nat) (s : State),
      modeBusy (s.adv t) = true →
      actionsDone (s.adv t) = true →
      exec (.modeChangeDone t) s = .next (((((s.adv t).setB O.MD_STATUS 0 false).set O.MD_MODE_RESULT 0).inc O.MD_CHANGES).mdHit 0))

/-- A fall of a rail, RESET_N, the bus comparator, a soft reset, the watchdog past its period outside RESET and a die trip
are the reset events of causes 1, 2, 3, 9, 7 and 6, and a die trip writes its journal entry and is counted; POWER_ON
with the rails up for 2 ms since the last fall ends cause 1 off the battery; RESET_RELEASE of a standing cause ends it
once its time has run: 10 µs of RESET for the causes 4, 5 and from 7 on, 10 ms of a bus that no longer warns for cause
3, none for causes 2 and 6; a kick of the watchdog restarts it; POWER_ON of a fall outside RESET takes the device to
RESET with MD_RESET_CAUSE 1 and leaves the queue as it stands. (R471, R477, R488, R508, R509, R556, R567) -/
def Obligations.ResetsAct : Prop :=
  (∀ (t : Nat) (s1 : State) (s : State),
      s1 = (s.adv t).resetEvent 1 →
      exec (.powerOn false t) s = .next (s1.setModes { s1.modes with railAt := s1.up })) ∧
  (∀ (t : Nat) (s : State),
      (s.adv t).clk.inReset = false →
      ∃ s', exec (.powerOn false t) s = .next s' ∧ s'.get O.MD_RESET_CAUSE = 1 ∧
        s'.clk.inReset = true ∧
        s'.mode = mdReset ∧
        s'.pending = s.pending ∧
        s'.modes.causes = [1]) ∧
  (∀ (t : Nat) (s : State),
      (s.adv t).clk.inReset = true →
      (s.adv t).modes.causes.contains 1 = true →
      (s.adv t).bk.onBattery = false →
      (s.adv t).modes.railAt + 2 * fuMs ≤ (s.adv t).up →
      exec (.powerOn true t) s = .next ((s.adv t).causeEnds 1)) ∧
  (∀ (t : Nat) (s : State),
      exec (.resetPin t) s = .next ((s.adv t).resetEvent 2)) ∧
  (∀ (t : Nat) (s : State),
      exec (.busResetTrip t) s = .next ((s.adv t).resetEvent 3)) ∧
  (∀ (t : Nat) (s1 : State) (s : State),
      ((s.adv t).clk.inReset = false ∨ (s.adv t).modes.causes.contains 6 = false) →
      s1 = (((s.adv t).resetEvent 6).journal 7 (jdata [(0, 2), (2, (s.adv t).get O.SB_DIE_TEMP)])).inc O.TH_TRIPS →
      exec (.dieTrip t) s = .next (s1.setBk { s1.bk with tripped := true })) ∧
  (∀ (cause : Nat) (t : Nat) (s : State),
      (s.adv t).clk.inReset = true →
      (s.adv t).modes.causes.contains cause = true →
      (cause = 4 ∨ cause = 5 ∨ 7 ≤ cause) →
      (s.adv t).modes.resetAt + 10 * fuUs ≤ (s.adv t).up →
      exec (.resetRelease cause t) s = .next ((s.adv t).causeEnds cause)) ∧
  (∀ (cause : Nat) (t : Nat) (s : State),
      (s.adv t).clk.inReset = true →
      (s.adv t).modes.causes.contains cause = true →
      (cause = 2 ∨ cause = 6 ∨ (cause = 3 ∧ (s.adv t).supply.warn = false ∧ max (s.adv t).supply.relAt (s.adv t).modes.resetAt + 10 * fuMs ≤ (s.adv t).up)) →
      exec (.resetRelease cause t) s = .next ((s.adv t).causeEnds cause)) ∧
  (∀ (p : Path) (s : State),
      s.serves p (O.BT_CONTROL) = true →
      exec (.softReset p) s = .next (s.resetEvent 9)) ∧
  (∀ (p : Path) (s : State),
      s.serves p (O.BT_WDT_KICK) = true →
      exec (.btWdtKick p) s = .next (s.setBoot { s.boot with wdtAt := s.up })) ∧
  (∀ (t : Nat) (s : State),
      (s.adv t).clk.inReset = false →
      (s.adv t).get O.BT_WDT_PERIOD ≠ 0 →
      (s.adv t).boot.wdtAt + (s.adv t).get O.BT_WDT_PERIOD * fuMs ≤ (s.adv t).up →
      exec (.watchdogExpiry t) s = .next ((s.adv t).resetEvent 7))

/-- A write of MD_INHIBIT_SET sets the host's firing, motion-stop or motion-off inhibit; MD_INHIBIT_CLR clears the host's,
the ring's, and the interlock's once it waits for the clear, is refused with abort 0800_0022 before, and does nothing
where it does not stand; FIRE_INHIBIT_ASSERT outside RESET forces firing low, writes the journal and sets the interlock
with the kind configured; PIN_RELEASE_EXPIRY of a standing interlock, MD_PIN_RELEASE after the ball rose, or after the
interlock was set where that is later, lifts it, or leaves it to wait for the host. (R474, R475) -/
def Obligations.InhibitsAct : Prop :=
  (∀ (p : Path) (s : State),
      s.serves p (O.MD_INHIBIT_SET) = true →
      exec (.inhibitSetFire p) s = .next (s.inhibitSrc B.MD_INHIBIT_STATUS_HOST_FIRE true)) ∧
  (∀ (p : Path) (s : State),
      s.serves p (O.MD_INHIBIT_SET) = true →
      exec (.inhibitSetMotionStop p) s = .next ((s.setModes { s.modes with hostStop := true }).inhibitSync)) ∧
  (∀ (p : Path) (s : State),
      s.serves p (O.MD_INHIBIT_SET) = true →
      exec (.inhibitSetMotionOff p) s = .next ((s.setModes { s.modes with hostOff := true }).inhibitSync)) ∧
  (∀ (p : Path) (s : State),
      s.serves p (O.MD_INHIBIT_CLR) = true →
      exec (.inhibitClrHost p) s = .next ((s.setModes { s.modes with hostStop := false, hostOff := false }).inhibitSrc B.MD_INHIBIT_STATUS_HOST_FIRE false)) ∧
  (∀ (p : Path) (s : State),
      s.serves p (O.MD_INHIBIT_CLR) = true →
      pinStands s = true →
      s.modes.pinWait = true →
      exec (.inhibitClrPin p) s = .next (((s.setModes { s.modes with pinKind := 0, pinWait := false }).journal 8 1).inhibitSrc B.MD_INHIBIT_STATUS_PIN false)) ∧
  (∀ (p : Path) (s : State),
      s.serves p (O.MD_INHIBIT_CLR) = true →
      pinStands s = false →
      exec (.inhibitClrPin p) s = .next (s)) ∧
  (∀ (p : Path) (s : State),
      s.serves p (O.MD_INHIBIT_CLR) = true →
      pinStands s = true →
      s.modes.pinWait = false →
      exec (.inhibitClrPin p) s = .next (s.abort p O.MD_INHIBIT_CLR.index O.MD_INHIBIT_CLR.sub .primary abState)) ∧
  (∀ (p : Path) (s : State),
      s.serves p (O.MD_INHIBIT_CLR) = true →
      exec (.inhibitClrRing p) s = .next (s.inhibitWith (putBit (putBit (s.get O.MD_INHIBIT_STATUS) B.MD_INHIBIT_STATUS_RING_FIRE false) B.MD_INHIBIT_STATUS_RING_MOTION false))) ∧
  (∀ (t : Nat) (s1 : State) (s : State),
      (s.adv t).clk.inReset = false →
      s1 = (s.adv t).fiOff.journal 8 0 →
      exec (.fireInhibitAssert t) s = .next ((s1.setModes { s1.modes with pinKind := (s.adv t).get O.MD_INHIBIT_CONFIG % 4, pinAt := s1.up, pinWait := false }).inhibitSrc B.MD_INHIBIT_STATUS_PIN true)) ∧
  (∀ (e : Nat) (t : Nat) (s : State),
      (s.adv t).clk.inReset = false →
      pinStands (s.adv t) = true →
      (s.adv t).modes.pinWait = false →
      max e (s.adv t).modes.pinAt + (s.adv t).get O.MD_PIN_RELEASE * fuMs ≤ (s.adv t).up →
      bitOf ((s.adv t).get O.MD_INHIBIT_CONFIG) 2 = true →
      exec (.pinReleaseExpiry ⟨e, t⟩) s = .next ((s.adv t).setModes { (s.adv t).modes with pinWait := true })) ∧
  (∀ (e : Nat) (t : Nat) (s : State),
      (s.adv t).clk.inReset = false →
      pinStands (s.adv t) = true →
      (s.adv t).modes.pinWait = false →
      max e (s.adv t).modes.pinAt + (s.adv t).get O.MD_PIN_RELEASE * fuMs ≤ (s.adv t).up →
      bitOf ((s.adv t).get O.MD_INHIBIT_CONFIG) 2 = false →
      exec (.pinReleaseExpiry ⟨e, t⟩) s = .next ((((s.adv t).setModes { (s.adv t).modes with pinKind := 0, pinWait := false }).journal 8 1).inhibitSrc B.MD_INHIBIT_STATUS_PIN false))

/-- BUS_WARN_TRIP outside RESET begins a dip with LOW, DIP and its depth; BUS_WARN_RELEASE outside RESET ends it, with its
duration, its event, a journal entry and, unless it was a sag, its count; SAG_TIMEOUT of a dip after SU_SAG_TIME sets
SAG and counts it; SUPPLY_CONVERSION_DUE of an enabled input outside RESET and BOOT, not sooner than its period after
the last, asks anew in place of a request not yet granted; CURFEW_HOLD_EXPIRY ends curfew and begins the programs of
flash and store that waited for it; SUPPLY_HIGH_RELEASE, 10 ms after the condition ended, lifts the supply-high inhibit.
(R477, R478, R479, R481, R484) -/
def Obligations.SupplyMonitorsAct : Prop :=
  (∀ (t : Nat) (s1 : State) (s : State),
      (s.adv t).supply.warn = false →
      (s.adv t).clk.inReset = false →
      s1 = (((s.adv t).setSupply { (s.adv t).supply with warn := true, dipAt := (s.adv t).up }).suPut (lowBit 0) true).suPut B.SU_STATUS_DIP true →
      exec (.busWarnTrip t) s = .next ((s1.set O.SU_DIP_DEPTH (s1.get (O.SU_V 0))).curfewSync)) ∧
  (∀ (t : Nat) (s1 : State) (us : Nat) (sag : Bool) (s2 : State) (s3 : State) (s4 : State) (s : State),
      (s.adv t).supply.warn = true →
      (s.adv t).clk.inReset = false →
      s1 = (s.adv t).setSupply { (s.adv t).supply with warn := false, relAt := (s.adv t).up } →
      us = (divRound ((s1.up - s1.supply.dipAt : Nat) : Int) fuUs).toNat →
      sag = suBit s1 B.SU_STATUS_SAG →
      s2 = (s1.set O.SU_DIP_TIME us).suHit B.SU_EVENTS_DIP_END →
      (s3 = if sag then s2 else s2.inc O.SU_DIPS) →
      s4 = s3.journal 2 (jdata [(0, s3.get O.SU_DIP_DEPTH), (2, us % 2 ^ 32), (6, sag.toNat)]) →
      exec (.busWarnRelease t) s = .next ((((s4.suPut (lowBit 0) false).suPut B.SU_STATUS_DIP false).suPut B.SU_STATUS_SAG false).curfewSync)) ∧
  (∀ (t : Nat) (s : State),
      suBit (s.adv t) B.SU_STATUS_DIP = true →
      suBit (s.adv t) B.SU_STATUS_SAG = false →
      (s.adv t).supply.dipAt + (s.adv t).get O.SU_SAG_TIME * fuMs ≤ (s.adv t).up →
      exec (.sagTimeout t) s = .next ((((s.adv t).suPut B.SU_STATUS_SAG true).suHit B.SU_EVENTS_SAG 1).inc O.SU_SAGS)) ∧
  (∀ (i : Nat) (t : Nat) (s1 : State) (s2 : State) (s : State),
      (s.adv t).clk.inReset = false →
      (s.adv t).mode ≠ mdBoot →
      i < 8 →
      susOn (s.adv t) i 0 = true →
      supplyDue (s.adv t) i = true →
      s1 = (s.adv t).setSupply { (s.adv t).supply with dueAt := tput (s.adv t).supply.dueAt i (s.adv t).up } →
      (s2 = s1.senseWithdraw (fun (r : Req) => decide (r.what = .supply ∧ r.inst = i))) →
      exec (.supplyConversionDue i t) s = .next (s2.senseAsk { cls := 1, inst := i, what := .supply, input := 0x68 + i, entered := senseCycle s2 })) ∧
  (∀ (t : Nat) (s1 : State) (s : State),
      holdOver (s.adv t) = true →
      s1 = (s.adv t).curfewEnd →
      exec (.curfewHoldExpiry t) s = .next ((if s1.bank.storeWait then s1.storeBegin else s1).flashGo)) ∧
  (∀ (t : Nat) (s : State),
      (s.adv t).bit O.MD_INHIBIT_STATUS B.MD_INHIBIT_STATUS_SUPPLY_HIGH = true →
      highCond (s.adv t) = false →
      (s.adv t).supply.highEnd + 10 * fuMs ≤ (s.adv t).up →
      exec (.supplyHighRelease t) s = .next ((s.adv t).inhibitSrc B.MD_INHIBIT_STATUS_SUPPLY_HIGH false))

/-- SU_CONTROL.CLR_STATS sets SU_BUS_MIN and SU_BUS_MAX to their ends; CLR_PG_OV outside PRINT clears the over-voltage of
every group; TH_CONTROL.CLR_SHUTDOWN of a die that has cooled ends the shutdown, with its event and a journal entry;
CLR_DIE_MAX sets TH_DIE_MAX to 0x8000. (R485, R487, R498) -/
def Obligations.SupplyClearsAct : Prop :=
  (∀ (p : Path) (v : Nat) (s : State),
      s.serves p (O.SU_CONTROL) = true →
      bitOf v 1 = false →
      exec (.suClrStats p v) s = .next ((s.set O.SU_BUS_MIN 32767).setI O.SU_BUS_MAX (-32768))) ∧
  (∀ (p : Path) (v : Nat) (s : State),
      s.serves p (O.SU_CONTROL) = true →
      bitOf v 0 = false →
      s.mode ≠ mdPrint →
      exec (.clrPgOv p v) s = .next (((s.setF O.SU_STATUS B.SU_STATUS_PG_OV 0).forAll groups (fun s g => s.setPg g { s.pg g with beyond := 0 })).pgSyncAll)) ∧
  (∀ (p : Path) (v : Nat) (s1 : State) (s : State),
      s.serves p (O.TH_CONTROL) = true →
      bitOf v 1 = false →
      dieCool s = true →
      s.bit O.TH_STATUS 1 = true →
      s1 = (s.setB O.TH_STATUS 1 false).hit O.TH_EVENTS 1 572 →
      exec (.clrShutdown p v) s = .next ((s1.journal 7 (jdata [(0, 1), (2, s1.get O.SB_DIE_TEMP)])).inhibitSrc B.MD_INHIBIT_STATUS_THERMAL false)) ∧
  (∀ (p : Path) (v : Nat) (s : State),
      s.serves p (O.TH_CONTROL) = true →
      dieCool s = false →
      exec (.clrShutdown p v) s = .next (s.abort p O.TH_CONTROL.index O.TH_CONTROL.sub .primary abState)) ∧
  (∀ (p : Path) (v : Nat) (s : State),
      s.serves p (O.TH_CONTROL) = true →
      bitOf v 0 = false →
      exec (.clrDieMax p v) s = .next (s.set O.TH_DIE_MAX 0x8000))

/-- MAIN_POWER_LOST takes the core into POWER_ON reset and the domain to VBAT, MAIN_POWER_BACK counts the time on the
battery, and both write the journal; BACKUP_POR starts the domain from no power, with nothing kept but what its event
and its journal entry say; RTC_LOAD sets the clock at the next edge unless it is locked, and is refused where it is;
RTC_SEC_READ latches the sub-second count and answers the seconds; RTC_ALARM of an equal, non-zero alarm raises it, once
for a value; WAKE_CLR lowers WAKE where it stands; JNL_CLEAR empties the journal, BK_JNL_SELECT shows an entry,
BK_JNL_HOST writes one. (R471, R489, R490, R491, R492) -/
def Obligations.BackupPowerAndClockAct : Prop :=
  (∀ (t : Nat) (s0 : State) (s1 : State) (s : State),
      (s.adv t).bk.onBattery = false →
      s0 = (s.adv t).resetEvent 1 →
      s1 = (s0.setModes { s0.modes with railAt := s0.up }).gaugeRun →
      exec (.mainPowerLost t) s = .next ((((s1.setBk { s1.bk with onBattery := true, batterySec := s1.get O.BK_RTC_SEC }).chgSync).journal 9 0).inc O.BK_MAIN_LOSSES)) ∧
  (∀ (t : Nat) (s1 : State) (sec : Nat) (s : State),
      (s.adv t).bk.onBattery = true →
      s1 = (s.adv t).gaugeRun →
      sec = (s1.get O.BK_RTC_SEC + 2 ^ 32 - s1.bk.batterySec) % 2 ^ 32 →
      exec (.mainPowerBack t) s = .next (((((s1.setBk { s1.bk with onBattery := false }).journal 0xA sec).addC O.BK_BATTERY_SEC sec).bkHit B.BK_EVENTS_MAIN_RETURNED).chgSync)) ∧
  (∀ (t : Nat) (s : State),
      ∃ s', exec (.backupPor t) s = .next s' ∧ s'.get O.BK_RTC_SEC = 0 ∧
        s'.get O.BK_JNL_COUNT = 1 ∧
        s'.clk.inReset = true ∧
        s'.mode = mdReset ∧
        s'.modes.causes = [1] ∧
        s'.bk.onBattery = false ∧
        s'.pending = s.pending) ∧
  (∀ (t : Nat) (s1 : State) (s : State),
      s1 = ((s.adv t).setModes { (s.adv t).modes with causes := [1], resetAt := (s.adv t).up }).toReset →
      exec (.backupPor t) s = .next (({ s1 with objs := s1.objs.filter (fun z => !keptObj z.1), bk := { latched := [(B.BK_EVENTS_BACKUP_POR, 0)], gaugeAt := s1.up }, modes := { s1.modes with causes := [1], railAt := s1.up } } : State).journal 1 (jdata [(0, 1), (2, 0x8000)]))) ∧
  (∀ (p : Path) (w : Nat) (s1 : State) (s : State),
      s.serves p (O.BK_CONTROL) = true →
      w = putBit (s.get O.BK_CONTROL) 0 true →
      s.fits O.BK_CONTROL w = true →
      s.bit O.BK_CONTROL 1 = false →
      s.bit O.BK_CONTROL 2 = false →
      s.bit O.BK_CONTROL 3 = false →
      s1 = s.set O.BK_CONTROL (putBit (s.merged O.BK_CONTROL w) 4 (bitOf (s.merged O.BK_CONTROL w) 4 || rtcLocked s)) →
      rtcLocked s = false →
      exec (.rtcLoad p) s = .next ((s1.adv (rtcEdge s1)).rtcSet ((s1.adv (rtcEdge s1)).get O.BK_RTC_SET) 0)) ∧
  (∀ (p : Path) (w : Nat) (s : State),
      s.serves p (O.BK_CONTROL) = true →
      w = putBit (s.get O.BK_CONTROL) 0 true →
      s.fits O.BK_CONTROL w = true →
      rtcLocked s = true →
      exec (.rtcLoad p) s = .next (s.abort p O.BK_CONTROL.index O.BK_CONTROL.sub .primary abState)) ∧
  (∀ (p : Path) (s : State),
      s.serves p (O.BK_RTC_SEC) = true →
      exec (.rtcSecRead p) s = .next ((s.set O.BK_RTC_SUB s.bk.rtcSub).emit (.read p (s.get O.BK_RTC_SEC)))) ∧
  (∀ (t : Nat) (s : State),
      (s.adv t).get O.BK_ALARM_SEC ≠ 0 →
      (s.adv t).get O.BK_RTC_SEC = (s.adv t).get O.BK_ALARM_SEC →
      (s.adv t).bk.alarmAt ≠ some ((s.adv t).get O.BK_RTC_SEC) →
      exec (.rtcAlarm t) s = .next (((s.adv t).setBk { (s.adv t).bk with alarmAt := some ((s.adv t).get O.BK_RTC_SEC) }).bkAlarm 0)) ∧
  (∀ (p : Path) (w : Nat) (s1 : State) (s : State),
      s.serves p (O.BK_CONTROL) = true →
      w = putBit (s.get O.BK_CONTROL) 1 true →
      s.fits O.BK_CONTROL w = true →
      s.bit O.BK_CONTROL 0 = false →
      s.bit O.BK_CONTROL 2 = false →
      s.bit O.BK_CONTROL 3 = false →
      s1 = s.set O.BK_CONTROL (putBit (s.merged O.BK_CONTROL w) 4 (bitOf (s.merged O.BK_CONTROL w) 4 || rtcLocked s)) →
      bkBit s1 B.BK_STATUS_WAKE = true →
      exec (.wakeClr p) s = .next ((s1.bkPut B.BK_STATUS_WAKE false).emit (.note "WAKE" [0]))) ∧
  (∀ (p : Path) (w : Nat) (s1 : State) (s : State),
      s.serves p (O.BK_CONTROL) = true →
      w = putBit (s.get O.BK_CONTROL) 1 true →
      s.fits O.BK_CONTROL w = true →
      s.bit O.BK_CONTROL 0 = false →
      s.bit O.BK_CONTROL 2 = false →
      s.bit O.BK_CONTROL 3 = false →
      s1 = s.set O.BK_CONTROL (putBit (s.merged O.BK_CONTROL w) 4 (bitOf (s.merged O.BK_CONTROL w) 4 || rtcLocked s)) →
      bkBit s1 B.BK_STATUS_WAKE = false →
      exec (.wakeClr p) s = .next (s1)) ∧
  (∀ (p : Path) (w : Nat) (s1 : State) (s : State),
      s.serves p (O.BK_CONTROL) = true →
      w = putBit (s.get O.BK_CONTROL) 3 true →
      s.fits O.BK_CONTROL w = true →
      s.bit O.BK_CONTROL 0 = false →
      s.bit O.BK_CONTROL 1 = false →
      s.bit O.BK_CONTROL 2 = false →
      s1 = s.set O.BK_CONTROL (putBit (s.merged O.BK_CONTROL w) 4 (bitOf (s.merged O.BK_CONTROL w) 4 || rtcLocked s)) →
      exec (.jnlClear p) s = .next ((s1.set O.BK_JNL_COUNT 0).setBk { s1.bk with journal := [] })) ∧
  (∀ (p : Path) (v : Nat) (d : Nat) (e : JEntry) (s : State),
      s.serves p (O.BK_JNL_SELECT) = true →
      v < 2 ^ 32 →
      d = (s.get O.BK_JNL_COUNT + 2 ^ 32 - v) % 2 ^ 32 →
      (e = (if 1 ≤ d ∧ d ≤ 256 then tget {} s.bk.journal (v % 256) else {})) →
      exec (.bkJnlSelect p v) s = .next ((s.set O.BK_JNL_SELECT v).forAll [0, 1, 2, 3] (fun s k => s.set (O.BK_JNL_WORD k) (e.words.getD k 0)))) ∧
  (∀ (p : Path) (v : Nat) (s : State),
      s.serves p (O.BK_JNL_HOST) = true →
      exec (.bkJnlHost p v) s = .next (s.journal 0xF v))

/-- VBAT_MEASURE at its due time runs the gauge with the current that flowed, stores the reading, counts the readings below
BK_V_LOW and BK_V_EMPTY and raises their alarms, goes on to the voltage hold, starts a charge that is due, notes a
charging current that has come down, and drops a gauge that the voltage belies; CHARGE_FULL once the charge is full ends
the voltage hold and sets the gauge to BK_CAP; CHARGE_TIMEOUT after BK_CHG_TIMEOUT and CELL_REMOVED end a charge that
runs, and CELL_REMOVED of an idle or full charger changes nothing; CHG_RESTART of a stopped charger starts again, or
finds the cell still absent, and of another changes nothing else; BK_GAUGE_SET of at most BK_CAP sets the gauge. (R493,
R494, R495, R496) -/
def Obligations.CellAndGaugeAct : Prop :=
  (∀ (mv : Nat) (ua : Nat) (t : Nat) (s1 : State) (s2 : State) (s3 : State) (v : Int) (lo : Nat) (em : Nat) (s4 : State) (s5 : State) (s6 : State) (s7 : State) (s8 : State) (s : State),
      vbatDue (s.adv t) = true →
      s1 = (s.adv t).setBk { (s.adv t).bk with vbatAt := some (s.adv t).up } →
      (s2 = (s1.setBk { s1.bk with chgI := if chargerState s1 = 1 ∨ chargerState s1 = 2 then ua else 0 }).gaugeRun) →
      s3 = s2.set O.BK_VBAT (min mv 32767) →
      v = s3.getI O.BK_VBAT →
      (lo = if v < s3.getI O.BK_V_LOW then s3.bk.belowLow + 1 else 0) →
      (em = if v < s3.getI O.BK_V_EMPTY then s3.bk.belowEmpty + 1 else 0) →
      s4 = s3.setBk { s3.bk with belowLow := lo, belowEmpty := em } →
      s5 = s4.cellAlarm B.BK_STATUS_LOW 1 lo v (s4.getI O.BK_V_LOW) →
      s6 = s5.cellAlarm B.BK_STATUS_EMPTY 2 em v (s5.getI O.BK_V_EMPTY) →
      (s7 = if chargerState s6 = 1 ∧ s6.getI O.BK_CHG_V ≤ v then s6.charger 2 else if chargerState s6 = 3 ∧ cellType s6 = 1 ∧ v < s6.getI O.BK_CHG_V - 100 then (s6.charger 0).chgStart else s6.chgStart) →
      s8 = s7.chargeLow →
      exec (.vbatMeasure mv ua t) s = .next (if s8.get O.BK_CAP ≠ 0 ∧ ((s8.get O.BK_GAUGE = 0 ∧ s8.getI O.BK_V_LOW + 100 ≤ v) ∨ (s8.get O.BK_CAP ≤ 5 * s8.get O.BK_GAUGE ∧ bkBit s8 B.BK_STATUS_LOW = true)) then s8.unlearn else s8)) ∧
  (∀ (t : Nat) (s1 : State) (s2 : State) (s : State),
      chargeFull (s.adv t) = true →
      s1 = (s.adv t).gaugeRun →
      s2 = (((s1.charger 3).setBk { s1.bk with chgI := 0 }).chgJournal 1).bkHit B.BK_EVENTS_CHG_FULL →
      s2.get O.BK_CAP = 0 →
      exec (.chargeFull t) s = .next (s2)) ∧
  (∀ (t : Nat) (s1 : State) (s2 : State) (s3 : State) (s : State),
      chargeFull (s.adv t) = true →
      s1 = (s.adv t).gaugeRun →
      s2 = (((s1.charger 3).setBk { s1.bk with chgI := 0 }).chgJournal 1).bkHit B.BK_EVENTS_CHG_FULL →
      s2.get O.BK_CAP ≠ 0 →
      s3 = (s2.set O.BK_GAUGE (s2.get O.BK_CAP)).setBk { s2.bk with gaugeRem := 0 } →
      exec (.chargeFull t) s = .next (if bkBit s3 B.BK_STATUS_UNLEARNED then (s3.bkPut B.BK_STATUS_UNLEARNED false).gaugeJournal true else s3)) ∧
  (∀ (t : Nat) (s : State),
      chargeFull (s.adv t) = true →
      (s.adv t).get O.BK_CAP ≠ 0 →
      (s.adv t).get O.BK_CAP < 2 ^ 31 →
      ∃ s', exec (.chargeFull t) s = .next s' ∧ s'.get O.BK_GAUGE = (s.adv t).get O.BK_CAP ∧
        chargerState s' = 3 ∧
        bkBit s' B.BK_STATUS_UNLEARNED = false) ∧
  (∀ (t : Nat) (s1 : State) (s : State),
      (s.adv t).bk.chgStartAt + (s.adv t).get O.BK_CHG_TIMEOUT * 3600 * fuS ≤ (s.adv t).up →
      (chargerState (s.adv t) = 1 ∨ chargerState (s.adv t) = 2) →
      s1 = ((s.adv t).gaugeRun.charger 0) →
      exec (.chargeTimeout t) s = .next (((s1.setBk { s1.bk with chgStopped := true, chgI := 0 }).chgJournal 3).bkHit B.BK_EVENTS_CHG_FAULT 1)) ∧
  (∀ (t : Nat) (s : State),
      (chargerState (s.adv t) = 1 ∨ chargerState (s.adv t) = 2) →
      exec (.cellRemoved t) s = .next ((s.adv t).gaugeRun.cellGone)) ∧
  (∀ (t : Nat) (s : State),
      (chargerState (s.adv t) = 0 ∨ chargerState (s.adv t) = 3) →
      exec (.cellRemoved t) s = .next ((s.adv t))) ∧
  (∀ (p : Path) (w : Nat) (s1 : State) (s : State),
      s.serves p (O.BK_CONTROL) = true →
      w = putBit (s.get O.BK_CONTROL) 2 true →
      s.fits O.BK_CONTROL w = true →
      s.bit O.BK_CONTROL 0 = false →
      s.bit O.BK_CONTROL 1 = false →
      s.bit O.BK_CONTROL 3 = false →
      s1 = s.set O.BK_CONTROL (putBit (s.merged O.BK_CONTROL w) 4 (bitOf (s.merged O.BK_CONTROL w) 4 || rtcLocked s)) →
      s1.bk.chgStopped = true →
      (bkBit s1 B.BK_STATUS_CELL_ABSENT = false ∨ (2000 ≤ s1.getI O.BK_VBAT ∧ s1.getI O.BK_VBAT ≤ 3600)) →
      exec (.chgRestart p) s = .next (((s1.setBk { s1.bk with chgStopped := false }).bkPut B.BK_STATUS_CELL_ABSENT false).chgSync)) ∧
  (∀ (p : Path) (w : Nat) (s1 : State) (s : State),
      s.serves p (O.BK_CONTROL) = true →
      w = putBit (s.get O.BK_CONTROL) 2 true →
      s.fits O.BK_CONTROL w = true →
      s.bit O.BK_CONTROL 0 = false →
      s.bit O.BK_CONTROL 1 = false →
      s.bit O.BK_CONTROL 3 = false →
      s1 = s.set O.BK_CONTROL (putBit (s.merged O.BK_CONTROL w) 4 (bitOf (s.merged O.BK_CONTROL w) 4 || rtcLocked s)) →
      s1.bk.chgStopped = true →
      bkBit s1 B.BK_STATUS_CELL_ABSENT = true →
      (s1.getI O.BK_VBAT < 2000 ∨ 3600 < s1.getI O.BK_VBAT) →
      exec (.chgRestart p) s = .next (s1.cellGone)) ∧
  (∀ (p : Path) (w : Nat) (s1 : State) (s : State),
      s.serves p (O.BK_CONTROL) = true →
      w = putBit (s.get O.BK_CONTROL) 2 true →
      s.fits O.BK_CONTROL w = true →
      s.bit O.BK_CONTROL 0 = false →
      s.bit O.BK_CONTROL 1 = false →
      s.bit O.BK_CONTROL 3 = false →
      s1 = s.set O.BK_CONTROL (putBit (s.merged O.BK_CONTROL w) 4 (bitOf (s.merged O.BK_CONTROL w) 4 || rtcLocked s)) →
      s1.bk.chgStopped = false →
      exec (.chgRestart p) s = .next (s1)) ∧
  (∀ (p : Path) (v : Nat) (s1 : State) (s : State),
      s.serves p (O.BK_GAUGE_SET) = true →
      v < 2 ^ 32 →
      v ≤ s.get O.BK_CAP →
      s1 = s.gaugeRun →
      exec (.bkGaugeSet p v) s = .next ((s1.set O.BK_GAUGE v).setBk { s1.bk with gaugeRem := 0 }))

/-- BOOT_SEQUENCE in BOOT, before the OTP is scanned, reads the OTP; from life-cycle state 5 on it stops with BT_RESULT 9;
below, it runs the first slot that passes, with its fall-back noted where another failed before, and with none waits for
recovery where that is allowed and else stops with BT_RESULT 2; BT_RECOVERY_CMD of the image's length in recovery runs
the image or rejects it, with a journal entry, and any other is refused; a QSPI command with no reason for refusal of
R511 sets BT_QSPI_RESULT 1 and QSPI_BUSY and goes to the flash, and one that is refused leaves RESULT 4, unless one is
running, and its abort; QSPI_OP_DONE ends the flash's command and begins the next. (R500, R504, R505, R510, R511) -/
def Obligations.BootAndFlashAct : Prop :=
  (∀ (l : FuseReads) (silent : Bool) (t : Nat) (s1 : State) (s : State),
      (s.adv t).clk.inReset = false →
      (s.adv t).mode = mdBoot →
      (s.adv t).bit O.OT_STATUS B.OT_STATUS_SCAN_DONE = false →
      s1 = ((s.adv t).otpReads l).bootScan →
      5 ≤ s1.get O.OT_LC_STATE →
      exec (.bootSequence l silent t) s = .next ((s1.set O.BT_RESULT 9).bootJournal)) ∧
  (∀ (l : FuseReads) (silent : Bool) (t : Nat) (s1 : State) (may : Bool) (s2 : State) (ord : List Nat) (r : Option Nat × Nat) (s3 : State) (s4 : State) (s : State),
      (s.adv t).clk.inReset = false →
      (s.adv t).mode = mdBoot →
      (s.adv t).bit O.OT_STATUS B.OT_STATUS_SCAN_DONE = false →
      s1 = ((s.adv t).otpReads l).bootScan →
      s1.get O.OT_LC_STATE < 5 →
      may = (decide (bootSel s1 ≠ 2) && !bootBit s1 0) →
      s2 = s1.setB O.BT_STATUS B.BT_STATUS_RECOVERY_ALLOWED may →
      (ord = if bootSel s2 ≠ 1 ∧ silent = false then slotOrder s2 else []) →
      (r = trySlots s2 ord (if bootSel s2 = 1 then 0 else if silent then 8 else if ord = [] then 2 else 0)) →
      (s3 = if r.2 = 0 then s2 else ((s2.rejectImage r.2 0).setB O.BT_STATUS B.BT_STATUS_FALLBACK true).btHit O.BT_EVENTS B.BT_EVENTS_FALLBACK) →
      (s4 = if r.2 = 0 then s2 else s2.rejectImage r.2 1) →
      exec (.bootSequence l silent t) s = .next (match r.1 with | some k => (s3.loadBody (slotBody s3 k)).runImage (slotHeader s3 k) (k + 1) | none => if may then s4.setB O.BT_STATUS B.BT_STATUS_RECOVERY_WAIT true else (s4.set O.BT_RESULT 2).bootJournal)) ∧
  (∀ (p : Path) (v : Nat) (h : List Byte) (body : List Byte) (s1 : State) (s2 : State) (s3 : State) (s : State),
      s.serves p (O.BT_RECOVERY_CMD) = true →
      v < 2 ^ 32 →
      recoveryWait s = true →
      576 ≤ v →
      h = s.mgets (bootAddr 0) 512 →
      v = 512 + bodyLen h →
      body = s.mgets (bootAddr 512) (bodyLen h) →
      s1 = (s.setB O.BT_STATUS B.BT_STATUS_RECOVERY_WAIT false).btHit O.BT_EVENTS B.BT_EVENTS_RECOVERY_DONE →
      s2 = s1.runImage h 3 →
      s3 = s.rejectImage (imageCause s h body) 0 →
      exec (.btRecoveryCmd p v) s = .next (if imageCause s h body = 0 then s2.journal 0x14 (jdata [(0, 0), (1, s2.get O.BT_REJECT)]) else s3.journal 0x14 (jdata [(0, 1), (1, imageCause s h body)]))) ∧
  (∀ (p : Path) (v : Nat) (h : List Byte) (s : State),
      s.serves p (O.BT_RECOVERY_CMD) = true →
      v < 2 ^ 32 →
      recoveryWait s = true →
      h = s.mgets (bootAddr 0) 512 →
      (v < 576 ∨ v ≠ 512 + bodyLen h) →
      exec (.btRecoveryCmd p v) s = .next (s.abort p O.BT_RECOVERY_CMD.index O.BT_RECOVERY_CMD.sub .primary abState)) ∧
  (∀ (p : Path) (v : Nat) (s : State),
      s.serves p (O.BT_RECOVERY_CMD) = true →
      v < 2 ^ 32 →
      recoveryWait s = false →
      exec (.btRecoveryCmd p v) s = .next (s.abort p O.BT_RECOVERY_CMD.index O.BT_RECOVERY_CMD.sub .primary abState)) ∧
  (∀ (p : Path) (c : FlashCmd) (s : State),
      s.serves p (O.BT_QSPI_CMD) = true →
      c = (⟨true, 1, s.get O.BT_QSPI_ADDR, s.get O.BT_QSPI_LEN, []⟩ : FlashCmd) →
      qspiRefusal s c = none →
      exec (.qspiRead p) s = .next (((s.set O.BT_QSPI_RESULT 1).setB O.BT_STATUS B.BT_STATUS_QSPI_BUSY true).flashAsk c)) ∧
  (∀ (p : Path) (c : FlashCmd) (s : State),
      s.serves p (O.BT_QSPI_CMD) = true →
      c = (⟨true, 2, s.get O.BT_QSPI_ADDR, s.get O.BT_QSPI_LEN, qspiData s (s.get O.BT_QSPI_LEN)⟩ : FlashCmd) →
      qspiRefusal s c = none →
      exec (.qspiProgram p) s = .next (((s.set O.BT_QSPI_RESULT 1).setB O.BT_STATUS B.BT_STATUS_QSPI_BUSY true).flashAsk c)) ∧
  (∀ (p : Path) (c : FlashCmd) (s : State),
      s.serves p (O.BT_QSPI_CMD) = true →
      c = (⟨true, 3, s.get O.BT_QSPI_ADDR, s.get O.BT_QSPI_LEN, []⟩ : FlashCmd) →
      qspiRefusal s c = none →
      exec (.qspiErase4k p) s = .next (((s.set O.BT_QSPI_RESULT 1).setB O.BT_STATUS B.BT_STATUS_QSPI_BUSY true).flashAsk c)) ∧
  (∀ (p : Path) (c : FlashCmd) (s : State),
      s.serves p (O.BT_QSPI_CMD) = true →
      c = (⟨true, 4, s.get O.BT_QSPI_ADDR, s.get O.BT_QSPI_LEN, []⟩ : FlashCmd) →
      qspiRefusal s c = none →
      exec (.qspiErase64k p) s = .next (((s.set O.BT_QSPI_RESULT 1).setB O.BT_STATUS B.BT_STATUS_QSPI_BUSY true).flashAsk c)) ∧
  (∀ (p : Path) (c : FlashCmd) (a : Nat) (s1 : State) (s : State),
      s.serves p (O.BT_QSPI_CMD) = true →
      c = (⟨true, 1, s.get O.BT_QSPI_ADDR, s.get O.BT_QSPI_LEN, []⟩ : FlashCmd) →
      qspiRefusal s c = some a →
      (s1 = if qspiBusy s then s else s.set O.BT_QSPI_RESULT 4) →
      exec (.qspiRead p) s = .next (s1.abort p O.BT_QSPI_CMD.index O.BT_QSPI_CMD.sub .primary a)) ∧
  (∀ (p : Path) (c : FlashCmd) (a : Nat) (s1 : State) (s : State),
      s.serves p (O.BT_QSPI_CMD) = true →
      c = (⟨true, 2, s.get O.BT_QSPI_ADDR, s.get O.BT_QSPI_LEN, qspiData s (s.get O.BT_QSPI_LEN)⟩ : FlashCmd) →
      qspiRefusal s c = some a →
      (s1 = if qspiBusy s then s else s.set O.BT_QSPI_RESULT 4) →
      exec (.qspiProgram p) s = .next ((if qspiBusy s1 = false ∧ s1.mode ≠ mdBoot ∧ curfew s1 then s1.deferred else s1).abort p O.BT_QSPI_CMD.index O.BT_QSPI_CMD.sub .primary a)) ∧
  (∀ (p : Path) (c : FlashCmd) (a : Nat) (s1 : State) (s : State),
      s.serves p (O.BT_QSPI_CMD) = true →
      c = (⟨true, 3, s.get O.BT_QSPI_ADDR, s.get O.BT_QSPI_LEN, []⟩ : FlashCmd) →
      qspiRefusal s c = some a →
      (s1 = if qspiBusy s then s else s.set O.BT_QSPI_RESULT 4) →
      exec (.qspiErase4k p) s = .next ((if qspiBusy s1 = false ∧ s1.mode ≠ mdBoot ∧ curfew s1 then s1.deferred else s1).abort p O.BT_QSPI_CMD.index O.BT_QSPI_CMD.sub .primary a)) ∧
  (∀ (p : Path) (c : FlashCmd) (a : Nat) (s1 : State) (s : State),
      s.serves p (O.BT_QSPI_CMD) = true →
      c = (⟨true, 4, s.get O.BT_QSPI_ADDR, s.get O.BT_QSPI_LEN, []⟩ : FlashCmd) →
      qspiRefusal s c = some a →
      (s1 = if qspiBusy s then s else s.set O.BT_QSPI_RESULT 4) →
      exec (.qspiErase64k p) s = .next ((if qspiBusy s1 = false ∧ s1.mode ≠ mdBoot ∧ curfew s1 then s1.deferred else s1).abort p O.BT_QSPI_CMD.index O.BT_QSPI_CMD.sub .primary a)) ∧
  (∀ (res : Nat) (t : Nat) (c : FlashCmd) (r : State × Nat) (s1 : State) (s : State),
      (s.adv t).flash.cur = some c →
      r = (s.adv t).flashRun c res →
      s1 = r.1.setFlash { r.1.flash with cur := none } →
      exec (.qspiOpDone res t) s = .next ((if c.host then s1.qspiDone c r.2 else s1.storeStepDone r.2).flashGo))

/-- OT_ROW_READ puts the row's three readings into the margin objects with result 0, or zeros with result 7 where its region
is read-locked; OT_ROW_BURN and OT_LOCK that nothing refuses set OT_ROW_RESULT 1 and start their burns; one that is
refused gives its code and abort, and under curfew is counted as deferred; OT_RESCAN redoes the checks and the weak-row
scan with result 0; a burn in progress keeps OT_ROW_RESULT from all of these. OTP_BURN_DONE does nothing with no burn; a
row that took goes on to the next row, or ends the burn deferred under curfew, or, as the last, ends it with BURN_DONE,
where a life-cycle transition also enters the journal and resets the device; a row that failed ends it with BURN_FAIL.
(R514, R516, R517, R520) -/
def Obligations.OtpRowsAct : Prop :=
  (∀ (p : Path) (l : FuseReads) (s1 : State) (row : Nat) (f : Fuse) (s2 : State) (s : State),
      s.serves p (O.OT_ROW_CMD) = true →
      s1 = s.otpReads l →
      row = s.get O.OT_ROW_ADDR % 512 →
      readLocked s1 (regionOf row) = false →
      f = rowFuse s1 row →
      s2 = ((s1.set O.OT_MARGIN_NORM f.norm).set O.OT_MARGIN_HIGH f.high).set O.OT_MARGIN_LOW f.low →
      exec (.otRowRead p l) s = .next (if burnBusy s2 then s2 else s2.set O.OT_ROW_RESULT 0)) ∧
  (∀ (p : Path) (l : FuseReads) (s1 : State) (row : Nat) (s2 : State) (s : State),
      s.serves p (O.OT_ROW_CMD) = true →
      s1 = s.otpReads l →
      row = s.get O.OT_ROW_ADDR % 512 →
      readLocked s1 (regionOf row) = true →
      s2 = ((s1.set O.OT_MARGIN_NORM 0).set O.OT_MARGIN_HIGH 0).set O.OT_MARGIN_LOW 0 →
      exec (.otRowRead p l) s = .next (if burnBusy s2 then s2 else s2.set O.OT_ROW_RESULT 7)) ∧
  (∀ (p : Path) (row : Nat) (d : Nat) (s : State),
      s.serves p (O.OT_ROW_CMD) = true →
      row = s.get O.OT_ROW_ADDR % 512 →
      d = storedValue row (s.get O.OT_ROW_DATA) →
      burnRefusal s row d = none →
      exec (.otRowBurn p) s = .next ((s.set O.OT_ROW_RESULT 1).burnStart { kind := 2, todo := [(row, d)] })) ∧
  (∀ (p : Path) (row : Nat) (d : Nat) (c : Nat) (a : Nat) (s1 : State) (s : State),
      s.serves p (O.OT_ROW_CMD) = true →
      row = s.get O.OT_ROW_ADDR % 512 →
      d = storedValue row (s.get O.OT_ROW_DATA) →
      burnRefusal s row d = some (c, a) →
      (s1 = if burnBusy s then s else s.set O.OT_ROW_RESULT c) →
      exec (.otRowBurn p) s = .next ((if c = 4 then s1.deferred else s1).abort p O.OT_ROW_CMD.index O.OT_ROW_CMD.sub .primary a)) ∧
  (∀ (p : Path) (l : FuseReads) (s1 : State) (s : State),
      s.serves p (O.OT_ROW_CMD) = true →
      s1 = (s.otpReads l).crcScan.weakScan →
      exec (.otRescan p l) s = .next (if burnBusy s1 then s1 else s1.set O.OT_ROW_RESULT 0)) ∧
  (∀ (p : Path) (s : State),
      s.serves p (O.OT_ROW_CMD) = true →
      curfew s = false →
      s.get O.OT_LC_STATE < 5 →
      burnMode s = true →
      burnBusy s = false →
      exec (.otLock p) s = .next ((s.set O.OT_ROW_RESULT 1).burnStart { kind := 4, todo := lockBurns s (s.get O.OT_ROW_DATA % 65536) })) ∧
  (∀ (p : Path) (s1 : State) (s : State),
      s.serves p (O.OT_ROW_CMD) = true →
      curfew s = false →
      (5 ≤ s.get O.OT_LC_STATE ∨ burnMode s = false ∨ burnBusy s) →
      (s1 = if burnBusy s then s else s.set O.OT_ROW_RESULT 2) →
      exec (.otLock p) s = .next (s1.abort p O.OT_ROW_CMD.index O.OT_ROW_CMD.sub .primary abState)) ∧
  (∀ (p : Path) (s1 : State) (s : State),
      s.serves p (O.OT_ROW_CMD) = true →
      curfew s = true →
      (s1 = if burnBusy s then s else s.set O.OT_ROW_RESULT 4) →
      exec (.otLock p) s = .next (s1.deferred.abort p O.OT_ROW_CMD.index O.OT_ROW_CMD.sub .primary abState)) ∧
  (∀ (l : FuseReads) (t : Nat) (s : State),
      (s.adv t).otp.burn = none →
      exec (.otpBurnDone l t) s = .next ((s.adv t))) ∧
  (∀ (l : FuseReads) (t : Nat) (b : Burn) (s : State),
      (s.adv t).otp.burn = some b →
      b.todo = [] →
      exec (.otpBurnDone l t) s = .next ((s.adv t).burnEnd b 0 0)) ∧
  (∀ (l : FuseReads) (t : Nat) (b : Burn) (row : Nat) (d : Nat) (s1 : State) (s2 : State) (s : State),
      (s.adv t).otp.burn = some b →
      b.todo = [(row, d)] →
      s1 = ((s.adv t).burnRow l row d).1 →
      ((s.adv t).burnRow l row d).2 = true →
      s2 = (s1.burnEnd b 0 0).btHit O.OT_EVENTS B.OT_EVENTS_BURN_DONE →
      exec (.otpBurnDone l t) s = .next (if b.kind = 5 then (s2.journal 0x12 (jdata [(0, b.old), (1, b.target)])).resetEvent 8 else s2)) ∧
  (∀ (l : FuseReads) (t : Nat) (b : Burn) (row : Nat) (d : Nat) (rest : List (Nat × Nat)) (s1 : State) (s : State),
      (s.adv t).otp.burn = some b →
      b.todo = (row, d) :: rest →
      rest ≠ [] →
      s1 = ((s.adv t).burnRow l row d).1 →
      ((s.adv t).burnRow l row d).2 = true →
      exec (.otpBurnDone l t) s = .next (if curfew s1 then (s1.burnEnd b 4 6).deferred else s1.setOtp { s1.otp with burn := some { b with todo := rest } })) ∧
  (∀ (l : FuseReads) (t : Nat) (b : Burn) (row : Nat) (d : Nat) (rest : List (Nat × Nat)) (s1 : State) (s : State),
      (s.adv t).otp.burn = some b →
      b.todo = (row, d) :: rest →
      s1 = ((s.adv t).burnRow l row d).1 →
      ((s.adv t).burnRow l row d).2 = false →
      exec (.otpBurnDone l t) s = .next ((s1.burnEnd b 6 7).btHit O.OT_EVENTS B.OT_EVENTS_BURN_FAIL))

/-- A request of one of the five life-cycle targets that lcRefusal (R523) does not refuse clears the token words, sets
OT_LC_RESULT 1 and starts the burns of Table 19.7; one that it refuses clears them too, gives its code, sets LC_REFUSED
and aborts; a wrong token is counted, and a refusal under curfew is counted as deferred. (R522, R523) -/
def Obligations.LifeCycleActs : Prop :=
  (∀ (p : Path) (s1 : State) (s : State),
      s.serves p (O.OT_LC_CMD) = true →
      lcRefusal s 1 = none →
      (s1 = s.forAll (List.range 8) (fun z k => z.set (O.OT_TOKEN k) 0)) →
      exec (.lcToVendorTest p) s = .next ((s1.set O.OT_LC_RESULT 1).burnStart { kind := 5, todo := lcBurns s1 1, old := s1.get O.OT_LC_STATE, target := 1 })) ∧
  (∀ (p : Path) (s1 : State) (s : State),
      s.serves p (O.OT_LC_CMD) = true →
      lcRefusal s 2 = none →
      (s1 = s.forAll (List.range 8) (fun z k => z.set (O.OT_TOKEN k) 0)) →
      exec (.lcToProvision p) s = .next ((s1.set O.OT_LC_RESULT 1).burnStart { kind := 5, todo := lcBurns s1 2, old := s1.get O.OT_LC_STATE, target := 2 })) ∧
  (∀ (p : Path) (s1 : State) (s : State),
      s.serves p (O.OT_LC_CMD) = true →
      lcRefusal s 3 = none →
      (s1 = s.forAll (List.range 8) (fun z k => z.set (O.OT_TOKEN k) 0)) →
      exec (.lcToField p) s = .next ((s1.set O.OT_LC_RESULT 1).burnStart { kind := 5, todo := lcBurns s1 3, old := s1.get O.OT_LC_STATE, target := 3 })) ∧
  (∀ (p : Path) (s1 : State) (s : State),
      s.serves p (O.OT_LC_CMD) = true →
      lcRefusal s 4 = none →
      (s1 = s.forAll (List.range 8) (fun z k => z.set (O.OT_TOKEN k) 0)) →
      exec (.lcToReturn p) s = .next ((s1.set O.OT_LC_RESULT 1).burnStart { kind := 5, todo := lcBurns s1 4, old := s1.get O.OT_LC_STATE, target := 4 })) ∧
  (∀ (p : Path) (s1 : State) (s : State),
      s.serves p (O.OT_LC_CMD) = true →
      lcRefusal s 5 = none →
      (s1 = s.forAll (List.range 8) (fun z k => z.set (O.OT_TOKEN k) 0)) →
      exec (.lcToScrapped p) s = .next ((s1.set O.OT_LC_RESULT 1).burnStart { kind := 5, todo := lcBurns s1 5, old := s1.get O.OT_LC_STATE, target := 5 })) ∧
  (∀ (p : Path) (c : Nat) (tok : Bool) (s1 : State) (s2 : State) (s3 : State) (s : State),
      s.serves p (O.OT_LC_CMD) = true →
      lcRefusal s 1 = some (c, tok) →
      (s1 = s.forAll (List.range 8) (fun z k => z.set (O.OT_TOKEN k) 0)) →
      (s2 = if tok then s1.inc O.OT_TOKEN_FAILS else s1) →
      (s3 = if c = 6 ∧ curfew s2 = true then s2.deferred else s2) →
      exec (.lcToVendorTest p) s = .next (((s3.set O.OT_LC_RESULT c).btHit O.OT_EVENTS B.OT_EVENTS_LC_REFUSED).abort p O.OT_LC_CMD.index O.OT_LC_CMD.sub .primary abState)) ∧
  (∀ (p : Path) (c : Nat) (tok : Bool) (s1 : State) (s2 : State) (s3 : State) (s : State),
      s.serves p (O.OT_LC_CMD) = true →
      lcRefusal s 2 = some (c, tok) →
      (s1 = s.forAll (List.range 8) (fun z k => z.set (O.OT_TOKEN k) 0)) →
      (s2 = if tok then s1.inc O.OT_TOKEN_FAILS else s1) →
      (s3 = if c = 6 ∧ curfew s2 = true then s2.deferred else s2) →
      exec (.lcToProvision p) s = .next (((s3.set O.OT_LC_RESULT c).btHit O.OT_EVENTS B.OT_EVENTS_LC_REFUSED).abort p O.OT_LC_CMD.index O.OT_LC_CMD.sub .primary abState)) ∧
  (∀ (p : Path) (c : Nat) (tok : Bool) (s1 : State) (s2 : State) (s3 : State) (s : State),
      s.serves p (O.OT_LC_CMD) = true →
      lcRefusal s 3 = some (c, tok) →
      (s1 = s.forAll (List.range 8) (fun z k => z.set (O.OT_TOKEN k) 0)) →
      (s2 = if tok then s1.inc O.OT_TOKEN_FAILS else s1) →
      (s3 = if c = 6 ∧ curfew s2 = true then s2.deferred else s2) →
      exec (.lcToField p) s = .next (((s3.set O.OT_LC_RESULT c).btHit O.OT_EVENTS B.OT_EVENTS_LC_REFUSED).abort p O.OT_LC_CMD.index O.OT_LC_CMD.sub .primary abState)) ∧
  (∀ (p : Path) (c : Nat) (tok : Bool) (s1 : State) (s2 : State) (s3 : State) (s : State),
      s.serves p (O.OT_LC_CMD) = true →
      lcRefusal s 4 = some (c, tok) →
      (s1 = s.forAll (List.range 8) (fun z k => z.set (O.OT_TOKEN k) 0)) →
      (s2 = if tok then s1.inc O.OT_TOKEN_FAILS else s1) →
      (s3 = if c = 6 ∧ curfew s2 = true then s2.deferred else s2) →
      exec (.lcToReturn p) s = .next (((s3.set O.OT_LC_RESULT c).btHit O.OT_EVENTS B.OT_EVENTS_LC_REFUSED).abort p O.OT_LC_CMD.index O.OT_LC_CMD.sub .primary abState)) ∧
  (∀ (p : Path) (c : Nat) (tok : Bool) (s1 : State) (s2 : State) (s3 : State) (s : State),
      s.serves p (O.OT_LC_CMD) = true →
      lcRefusal s 5 = some (c, tok) →
      (s1 = s.forAll (List.range 8) (fun z k => z.set (O.OT_TOKEN k) 0)) →
      (s2 = if tok then s1.inc O.OT_TOKEN_FAILS else s1) →
      (s3 = if c = 6 ∧ curfew s2 = true then s2.deferred else s2) →
      exec (.lcToScrapped p) s = .next (((s3.set O.OT_LC_RESULT c).btHit O.OT_EVENTS B.OT_EVENTS_LC_REFUSED).abort p O.OT_LC_CMD.index O.OT_LC_CMD.sub .primary abState))

/-- FI_KEY of 0x46494E4A unlocks injection and any other value changes nothing. FI_ARM of a point up to 79 in a mode other
than 0 arms it, or is refused with REFUSED where injection is locked, one is armed, the unit is no unit of the point,
the device is in RESET, the mode is below 2, or the point is not for PRINT; another point or mode 0 is out of range.
FI_CANCEL disarms an armed injection with CANCELLED and is nothing without one. FI_INJECT while the injection is due
sets ACTIVE and counts a real occurrence in FI_COLLIDED, or else forces one, counted in FI_HITS, marks its events and
goes on to the injection's end test; a force that changes nothing, or an injection not due, leaves the state. (R533,
R534, R535, R536) -/
def Obligations.FaultInjectionActs : Prop :=
  (∀ (p : Path) (v : Nat) (s : State),
      s.serves p (O.FI_KEY) = true →
      v % 2 ^ 32 = 0x46494E4A →
      exec (.fiKey p v) s = .next (s.setB O.FI_STATUS B.FI_STATUS_UNLOCKED true)) ∧
  (∀ (p : Path) (v : Nat) (s : State),
      s.serves p (O.FI_KEY) = true →
      v % 2 ^ 32 ≠ 0x46494E4A →
      exec (.fiKey p v) s = .next (s)) ∧
  (∀ (p : Path) (s : State),
      s.serves p (O.FI_CMD) = true →
      fiPoint s ≤ 79 →
      fiMode s ≠ 0 →
      fiBit s B.FI_STATUS_UNLOCKED = true →
      fiBit s B.FI_STATUS_ARMED = false →
      fiUnitOk s = true →
      s.clk.inReset = false →
      2 ≤ s.mode →
      (s.mode ≠ mdPrint ∨ fiNotInPrint s = false) →
      exec (.fiArm p) s = .next ((s.setFi { forced := 0, lastAt := s.up }).setB O.FI_STATUS B.FI_STATUS_ARMED true)) ∧
  (∀ (p : Path) (s : State),
      s.serves p (O.FI_CMD) = true →
      fiPoint s ≤ 79 →
      fiMode s ≠ 0 →
      (fiBit s B.FI_STATUS_UNLOCKED = false ∨ fiBit s B.FI_STATUS_ARMED = true ∨ fiUnitOk s = false ∨ s.clk.inReset = true ∨ s.mode < 2 ∨ (s.mode = mdPrint ∧ fiNotInPrint s = true)) →
      exec (.fiArm p) s = .next ((s.setB O.FI_EVENTS B.FI_EVENTS_REFUSED true).abort p O.FI_CMD.index O.FI_CMD.sub .primary abState)) ∧
  (∀ (p : Path) (s : State),
      s.serves p (O.FI_CMD) = true →
      (79 < fiPoint s ∨ fiMode s = 0) →
      exec (.fiArm p) s = .next (s.abort p O.FI_CMD.index O.FI_CMD.sub .primary abRange)) ∧
  (∀ (p : Path) (s : State),
      s.serves p (O.FI_CMD) = true →
      fiBit s B.FI_STATUS_ARMED = true →
      exec (.fiCancel p) s = .next (((s.setFi {}).set O.FI_STATUS (s.get O.FI_STATUS % 2)).setB O.FI_EVENTS B.FI_EVENTS_CANCELLED true)) ∧
  (∀ (p : Path) (s : State),
      s.serves p (O.FI_CMD) = true →
      fiBit s B.FI_STATUS_ARMED = false →
      exec (.fiCancel p) s = .next (s)) ∧
  (∀ (a : Nat) (b : Nat) (t : Nat) (s1 : State) (s : State),
      fiDue (s.adv t) = true →
      s1 = { (s.adv t).fiActive with fi := { forced := (s.adv t).fi.forced + 1, lastAt := (s.adv t).up } } →
      exec (.fiInject a b true t) s = .next (((s1.inc O.FI_COLLIDED).setB O.FI_EVENTS B.FI_EVENTS_COLLIDED true).fiEnd)) ∧
  (∀ (a : Nat) (b : Nat) (t : Nat) (s1 : State) (s2 : State) (s : State),
      fiDue (s.adv t) = true →
      (s.adv t).force (fiPoint (s.adv t)) (fiUnit (s.adv t)) a b ≠ (s.adv t) →
      s1 = ({ (s.adv t).fiActive with fi := { forced := (s.adv t).fi.forced + 1, lastAt := (s.adv t).up } } : State).inc O.FI_HITS →
      s2 = s1.force (fiPoint (s.adv t)) (fiUnit (s.adv t)) a b →
      exec (.fiInject a b false t) s = .next ((s2.markInjected s1.evs.buf.length).fiEnd)) ∧
  (∀ (a : Nat) (b : Nat) (t : Nat) (s : State),
      (s.adv t).force (fiPoint (s.adv t)) (fiUnit (s.adv t)) a b = (s.adv t) →
      exec (.fiInject a b false t) s = .next ((s.adv t))) ∧
  (∀ (a : Nat) (b : Nat) (real : Bool) (t : Nat) (s : State),
      fiDue (s.adv t) = false →
      exec (.fiInject a b real t) s = .next ((s.adv t)))

/-- A mode command of Table 18.2's missing changes, and BOOT to CONFIGURE before boot has completed, are refused with
MD_MODE_RESULT 2; one while a change runs, to neither SAFE nor RESET, with 3; a value above 7 with 5 and abort
0x06090030; each sets MODE_REFUSED, raises EV570, records its abort and changes nothing else. (R469) -/
def Obligations.ModeRefusalsAct : Prop :=
  (∀ (p : Path) (c : Instr) (v : Nat) (s : State),
      (c, v) ∈ modeCommands p →
      s.serves p O.MD_MODE_CMD = true →
      ¬(v = s.mode ∧ modeBusy s = false) →
      changeOk s.mode v = false →
      exec c s = .next (((s.set O.MD_MODE_RESULT 2).hit O.MD_EVENTS 1 570).abort p 0x2000 2 .primary abState)) ∧
  (∀ (p : Path) (s : State),
      s.serves p O.MD_MODE_CMD = true →
      s.mode = mdBoot →
      s.bit O.BT_STATUS B.BT_STATUS_BOOT_DONE = false →
      exec (.modeCmdConfigure p) s = .next (((s.set O.MD_MODE_RESULT 2).hit O.MD_EVENTS 1 570).abort p 0x2000 2 .primary abState)) ∧
  (∀ (p : Path) (c : Instr) (v : Nat) (s : State),
      (c, v) ∈ modeCommands p →
      s.serves p O.MD_MODE_CMD = true →
      changeOk s.mode v = true →
      (s.mode = mdBoot → v = mdConfigure → s.bit O.BT_STATUS B.BT_STATUS_BOOT_DONE = true) →
      modeBusy s = true →
      v ≠ mdSafe →
      v ≠ mdReset →
      exec c s = .next (((s.set O.MD_MODE_RESULT 3).hit O.MD_EVENTS 1 570).abort p 0x2000 2 .primary abState)) ∧
  (∀ (p : Path) (v : Nat) (s : State),
      p ≠ .net →
      s.serves p O.MD_MODE_CMD = true →
      7 < v →
      v < 256 →
      s.mode ≤ 7 →
      exec (.dictWrite p true 0x2000 2 v) s = .next (((s.set O.MD_MODE_RESULT 5).hit O.MD_EVENTS 1 570).abort p 0x2000 2 .primary abRange))

/-- PCIE_RESET takes the link down, so that the host reaches nothing, and clears the MSI-X table, leaving no vector due and
MSI-X disabled; the mode, every object of the dictionary, every byte of memory and the commands waiting are those before
it, at its uptime. (R472) -/
def Obligations.PcieResetTouchesNoObject : Prop :=
  ∀ (t : Nat) (s : State), ∃ s', exec (.pcieReset t) s = .next s' ∧
      s'.evs = { (s.adv t).evs with due := [], msix := [], msixOn := false, linkUp := false } ∧
      s'.mode = (s.adv t).mode ∧ s'.objs = (s.adv t).objs ∧ (∀ a, s'.mget a = s.mget a) ∧ s'.pending = s.pending ∧
      reaches s' .host = false

/-- DICT_WRITE by the host or a DMA channel: a partial write is only counted and sets PARTIAL; where the mode does not serve
the index, where the word belongs to a string or a domain object, where the upper bits do not carry the extension of a
narrow type, where the object is read-only, and where the value is out of the range of a position interface's object,
the write is refused with its abort code, recorded, and changes nothing else; a word that names no object takes the
write without effect. (R11, R417, R418, R420, R422, R423, R506, R574) -/
def Obligations.RefusedWritesChangeNothing : Prop :=
  (∀ (p : Path) (index : Nat) (sub : Nat) (w : Nat) (s : State),
      p ≠ .net →
      reaches s p = true →
      exec (.dictWrite p false index sub w) s = .next ((s.inc (O.MD_PARTIAL_WRITES p.slot)).hit O.MD_DICT_EVENTS B.MD_DICT_EVENTS_PARTIAL 561)) ∧
  (∀ (p : Path) (index : Nat) (sub : Nat) (w : Nat) (s : State),
      p ≠ .net →
      reaches s p = true →
      served s index = false →
      exec (.dictWrite p true index sub w) s = .next (s.abort p index sub .primary abState)) ∧
  (∀ (p : Path) (index : Nat) (sub : Nat) (w : Nat) (s : State),
      p ≠ .net →
      reaches s p = true →
      served s index = true →
      named s p index sub = .nothing →
      exec (.dictWrite p true index sub w) s = .next (s)) ∧
  (∀ (p : Path) (index : Nat) (sub : Nat) (w : Nat) (n : Nat) (s : State),
      p ≠ .net →
      reaches s p = true →
      served s index = true →
      named s p index sub = .sized n →
      exec (.dictWrite p true index sub w) s = .next (s.abort p index sub .primary abWriteRo)) ∧
  (∀ (p : Path) (index : Nat) (sub : Nat) (w : Nat) (o : Obj) (r : Row) (s : State),
      p ≠ .net →
      reaches s p = true →
      served s index = true →
      named s p index sub = .num o r →
      r.ty.bits ≠ 64 →
      r.ty.wordOk (trunc 32 w) = false →
      exec (.dictWrite p true index sub w) s = .next (s.abort p index sub .primary abLength)) ∧
  (∀ (p : Path) (index : Nat) (sub : Nat) (w : Nat) (o : Obj) (r : Row) (s : State),
      p ≠ .net →
      reaches s p = true →
      served s index = true →
      named s p index sub = .num o r →
      r.ty.bits ≠ 64 →
      r.ty.wordOk (trunc 32 w) = true →
      (r.acc = .ro ∨ r.acc = .rc ∨ r.acc = .const) →
      exec (.dictWrite p true index sub w) s = .next (s.abort p index sub .primary abWriteRo)) ∧
  (∀ (p : Path) (index : Nat) (sub : Nat) (w : Nat) (o : Obj) (r : Row) (c : Nat) (s : State),
      p ≠ .net →
      reaches s p = true →
      served s index = true →
      named s p index sub = .num o r →
      o.grp = .pi →
      o.sub ≠ 3 →
      o.sub ≠ 4 →
      r.acc = .rw →
      r.ty.bits ≤ 32 →
      r.ty.wordOk (trunc 32 w) = true →
      r.check (s.get o) (trunc r.ty.bits w) = some c →
      exec (.dictWrite p true index sub w) s = .next (s.abort p index sub .primary c))

/-- At State.reset the mode is BOOT, MD_RESET_CAUSE 1 and BT_RESULT 1, press time is 0, injection is locked, no command
waits, no byte of memory is listed and nothing has been put out; the journal holds the entry of the power-on reset, so
BK_JNL_COUNT is 1; every other object holds its default (the defaults where the tables give none are those of log
entries 3 and 4). (R39, R471, R498, R500, R525, R534) -/
def Obligations.ResetState : Prop :=
  State.reset.mode = mdBoot ∧ State.reset.get O.MD_RESET_CAUSE = 1 ∧ State.reset.get O.BT_RESULT = 1 ∧ State.reset.pt = 0 ∧
  State.reset.bit O.FI_STATUS B.FI_STATUS_UNLOCKED = false ∧ State.reset.get O.BK_JNL_COUNT = 1 ∧ State.reset.pending = [] ∧
  State.reset.mem = [] ∧ State.reset.out = [] ∧ (∀ o : Obj, o ≠ O.BK_JNL_COUNT → State.reset.get o = o.dflt)

/-- The memory of State.reset is canonical and every object it lists holds a value of its type. (R418, R498) -/
def Obligations.ResetIsSafe : Prop :=
  State.reset.safe

/-- For every safe state s, reachable or not, and whatever command waits first: if a step answers a next state, its memory
is canonical (addresses rise, no byte is listed at its default) and every object it lists holds a value below 2 to the
width of its type. (R418, R435, spec/16_object_dictionary_and_field_network.md) -/
def Obligations.StepKeepsSafety : Prop :=
  ∀ s s' : State, s.safe → step s = .next s' → s'.safe

/-- For every safe state: if a step answers a next state, the queue of the next state is the rest of the queue, and its
uptime is no less. No command enters another, and none changes the commands that wait (the queue and the tick of an idle
step are the model's form: log entries 1 and 2). (spec/95_what_each_step_holds.md, R39) -/
def Obligations.StepTakesOneCommand : Prop :=
  ∀ s s' : State, s.safe → step s = .next s' → s'.pending = s.pending.tail ∧ s.up ≤ s'.up

/-- For every command c and state s, step of s with c at the front of its queue is exec c on s with the queue's rest. With
an empty queue a step is one FIRE tick, 64 fu, of time (DESIGN CHOICE of the model, log entry 2).
(spec/95_what_each_step_holds.md, R39) -/
def Obligations.StepRunsTheFrontCommand : Prop :=
  (∀ (c : Instr) (s : State), step { s with pending := c :: s.pending } = exec c s) ∧
  (∀ s : State, s.pending = [] → step s = .next (s.adv (s.up + 64)))

/-- For every command and every state exec answers a next state: no command ends in a fault or a refusal, whatever its
operands. (spec/95_what_each_step_holds.md) -/
def Obligations.EveryCommandCompletes : Prop :=
  ∀ (c : Instr) (s : State), ∃ s', exec c s = .next s' 

/-- The letters of rows 1 to 49 name one row each; for two different ports below 96 no ball lies in both blocks; every ball
of a port's block lies in the head bands, in rows 1 to 14 or 36 to 49 and columns 1 to 49 but for column 25; rows 15 to
35 of the columns of each region of Table 21.4 hold exactly its signal balls and its power and ground balls; and the
groups of Table 21.2 have 1,634 balls together. (R540, R541, R542, R543) -/
def Obligations.BallsAreNamedAndShared : Prop :=
  (∀ r : Nat, 1 ≤ r → r ≤ 49 → rowOf (rowName r) = some r) ∧
  (∀ (n m : Nat) (b : Ball) (x y : PortSig),
      n < 96 →
      m < 96 →
      n ≠ m →
      (b, x) ∈ portBlock n →
      (b, y) ∉ portBlock m) ∧
  (∀ (n : Nat) (b : Ball) (x : PortSig),
      n < 96 →
      (b, x) ∈ portBlock n →
      b.region = .headBands ∧ (1 ≤ b.row ∧ b.row ≤ 14 ∨ 36 ≤ b.row ∧ b.row ≤ 49) ∧ 1 ≤ b.col ∧ b.col ≤ 49 ∧ b.col ≠ 25) ∧
  (∀ r : Region, r ≠ .headBands → r.signals + r.span.2.2 = 21 * r.span.2.1) ∧
  (ballGroups.map BallGroup.balls).sum = 1634
end

