-- ==== Sys2Proof/Laws/State.lean ====
section
/-! SUPPORT. What each update of the state leaves alone, field by field, and what it puts in its own field. -/
namespace Sys2Proof.Machine

/-! set -/
@[simp] theorem State.set_mem (s : State) (o : Obj) (v : Nat) : (s.set o v).mem = s.mem := rfl
@[simp] theorem State.set_up (s : State) (o : Obj) (v : Nat) : (s.set o v).up = s.up := rfl
@[simp] theorem State.set_ptOff (s : State) (o : Obj) (v : Nat) : (s.set o v).ptOff = s.ptOff := rfl
@[simp] theorem State.set_free (s : State) (o : Obj) (v : Nat) : (s.set o v).free = s.free := rfl
@[simp] theorem State.set_evs (s : State) (o : Obj) (v : Nat) : (s.set o v).evs = s.evs := rfl
@[simp] theorem State.set_dmas (s : State) (o : Obj) (v : Nat) : (s.set o v).dmas = s.dmas := rfl
@[simp] theorem State.set_clk (s : State) (o : Obj) (v : Nat) : (s.set o v).clk = s.clk := rfl
@[simp] theorem State.set_jobs (s : State) (o : Obj) (v : Nat) : (s.set o v).jobs = s.jobs := rfl
@[simp] theorem State.set_intake (s : State) (o : Obj) (v : Nat) : (s.set o v).intake = s.intake := rfl
@[simp] theorem State.set_lanes (s : State) (o : Obj) (v : Nat) : (s.set o v).lanes = s.lanes := rfl
@[simp] theorem State.set_scrLive (s : State) (o : Obj) (v : Nat) : (s.set o v).scrLive = s.scrLive := rfl
@[simp] theorem State.set_masks (s : State) (o : Obj) (v : Nat) : (s.set o v).masks = s.masks := rfl
@[simp] theorem State.set_lodges (s : State) (o : Obj) (v : Nat) : (s.set o v).lodges = s.lodges := rfl
@[simp] theorem State.set_scheds (s : State) (o : Obj) (v : Nat) : (s.set o v).scheds = s.scheds := rfl
@[simp] theorem State.set_preds (s : State) (o : Obj) (v : Nat) : (s.set o v).preds = s.preds := rfl
@[simp] theorem State.set_slow (s : State) (o : Obj) (v : Nat) : (s.set o v).slow = s.slow := rfl
@[simp] theorem State.set_bk (s : State) (o : Obj) (v : Nat) : (s.set o v).bk = s.bk := rfl
@[simp] theorem State.set_tpdoMap (s : State) (o : Obj) (v : Nat) : (s.set o v).tpdoMap = s.tpdoMap := rfl
@[simp] theorem State.set_healths (s : State) (o : Obj) (v : Nat) : (s.set o v).healths = s.healths := rfl
@[simp] theorem State.set_links (s : State) (o : Obj) (v : Nat) : (s.set o v).links = s.links := rfl
@[simp] theorem State.set_mts (s : State) (o : Obj) (v : Nat) : (s.set o v).mts = s.mts := rfl
@[simp] theorem State.set_fires (s : State) (o : Obj) (v : Nat) : (s.set o v).fires = s.fires := rfl
@[simp] theorem State.set_pgs (s : State) (o : Obj) (v : Nat) : (s.set o v).pgs = s.pgs := rfl
@[simp] theorem State.set_convs (s : State) (o : Obj) (v : Nat) : (s.set o v).convs = s.convs := rfl
@[simp] theorem State.set_bank (s : State) (o : Obj) (v : Nat) : (s.set o v).bank = s.bank := rfl
@[simp] theorem State.set_axs (s : State) (o : Obj) (v : Nat) : (s.set o v).axs = s.axs := rfl
@[simp] theorem State.set_igs (s : State) (o : Obj) (v : Nat) : (s.set o v).igs = s.igs := rfl
@[simp] theorem State.set_drives (s : State) (o : Obj) (v : Nat) : (s.set o v).drives = s.drives := rfl
@[simp] theorem State.set_pulses (s : State) (o : Obj) (v : Nat) : (s.set o v).pulses = s.pulses := rfl
@[simp] theorem State.set_modes (s : State) (o : Obj) (v : Nat) : (s.set o v).modes = s.modes := rfl
@[simp] theorem State.set_supply (s : State) (o : Obj) (v : Nat) : (s.set o v).supply = s.supply := rfl
@[simp] theorem State.set_pifs (s : State) (o : Obj) (v : Nat) : (s.set o v).pifs = s.pifs := rfl
@[simp] theorem State.set_ring (s : State) (o : Obj) (v : Nat) : (s.set o v).ring = s.ring := rfl
@[simp] theorem State.set_flash (s : State) (o : Obj) (v : Nat) : (s.set o v).flash = s.flash := rfl
@[simp] theorem State.set_otp (s : State) (o : Obj) (v : Nat) : (s.set o v).otp = s.otp := rfl
@[simp] theorem State.set_boot (s : State) (o : Obj) (v : Nat) : (s.set o v).boot = s.boot := rfl
@[simp] theorem State.set_net (s : State) (o : Obj) (v : Nat) : (s.set o v).net = s.net := rfl
@[simp] theorem State.set_fi (s : State) (o : Obj) (v : Nat) : (s.set o v).fi = s.fi := rfl
@[simp] theorem State.set_out (s : State) (o : Obj) (v : Nat) : (s.set o v).out = s.out := rfl
@[simp] theorem State.set_pending (s : State) (o : Obj) (v : Nat) : (s.set o v).pending = s.pending := rfl

/-! setB -/
@[simp] theorem State.setB_mem (s : State) (o : Obj) (i : Nat) (b : Bool) : (s.setB o i b).mem = s.mem := rfl
@[simp] theorem State.setB_up (s : State) (o : Obj) (i : Nat) (b : Bool) : (s.setB o i b).up = s.up := rfl
@[simp] theorem State.setB_ptOff (s : State) (o : Obj) (i : Nat) (b : Bool) : (s.setB o i b).ptOff = s.ptOff := rfl
@[simp] theorem State.setB_free (s : State) (o : Obj) (i : Nat) (b : Bool) : (s.setB o i b).free = s.free := rfl
@[simp] theorem State.setB_evs (s : State) (o : Obj) (i : Nat) (b : Bool) : (s.setB o i b).evs = s.evs := rfl
@[simp] theorem State.setB_dmas (s : State) (o : Obj) (i : Nat) (b : Bool) : (s.setB o i b).dmas = s.dmas := rfl
@[simp] theorem State.setB_clk (s : State) (o : Obj) (i : Nat) (b : Bool) : (s.setB o i b).clk = s.clk := rfl
@[simp] theorem State.setB_jobs (s : State) (o : Obj) (i : Nat) (b : Bool) : (s.setB o i b).jobs = s.jobs := rfl
@[simp] theorem State.setB_intake (s : State) (o : Obj) (i : Nat) (b : Bool) : (s.setB o i b).intake = s.intake := rfl
@[simp] theorem State.setB_lanes (s : State) (o : Obj) (i : Nat) (b : Bool) : (s.setB o i b).lanes = s.lanes := rfl
@[simp] theorem State.setB_scrLive (s : State) (o : Obj) (i : Nat) (b : Bool) : (s.setB o i b).scrLive = s.scrLive := rfl
@[simp] theorem State.setB_masks (s : State) (o : Obj) (i : Nat) (b : Bool) : (s.setB o i b).masks = s.masks := rfl
@[simp] theorem State.setB_lodges (s : State) (o : Obj) (i : Nat) (b : Bool) : (s.setB o i b).lodges = s.lodges := rfl
@[simp] theorem State.setB_scheds (s : State) (o : Obj) (i : Nat) (b : Bool) : (s.setB o i b).scheds = s.scheds := rfl
@[simp] theorem State.setB_preds (s : State) (o : Obj) (i : Nat) (b : Bool) : (s.setB o i b).preds = s.preds := rfl
@[simp] theorem State.setB_slow (s : State) (o : Obj) (i : Nat) (b : Bool) : (s.setB o i b).slow = s.slow := rfl
@[simp] theorem State.setB_bk (s : State) (o : Obj) (i : Nat) (b : Bool) : (s.setB o i b).bk = s.bk := rfl
@[simp] theorem State.setB_tpdoMap (s : State) (o : Obj) (i : Nat) (b : Bool) : (s.setB o i b).tpdoMap = s.tpdoMap := rfl
@[simp] theorem State.setB_healths (s : State) (o : Obj) (i : Nat) (b : Bool) : (s.setB o i b).healths = s.healths := rfl
@[simp] theorem State.setB_links (s : State) (o : Obj) (i : Nat) (b : Bool) : (s.setB o i b).links = s.links := rfl
@[simp] theorem State.setB_mts (s : State) (o : Obj) (i : Nat) (b : Bool) : (s.setB o i b).mts = s.mts := rfl
@[simp] theorem State.setB_fires (s : State) (o : Obj) (i : Nat) (b : Bool) : (s.setB o i b).fires = s.fires := rfl
@[simp] theorem State.setB_pgs (s : State) (o : Obj) (i : Nat) (b : Bool) : (s.setB o i b).pgs = s.pgs := rfl
@[simp] theorem State.setB_convs (s : State) (o : Obj) (i : Nat) (b : Bool) : (s.setB o i b).convs = s.convs := rfl
@[simp] theorem State.setB_bank (s : State) (o : Obj) (i : Nat) (b : Bool) : (s.setB o i b).bank = s.bank := rfl
@[simp] theorem State.setB_axs (s : State) (o : Obj) (i : Nat) (b : Bool) : (s.setB o i b).axs = s.axs := rfl
@[simp] theorem State.setB_igs (s : State) (o : Obj) (i : Nat) (b : Bool) : (s.setB o i b).igs = s.igs := rfl
@[simp] theorem State.setB_drives (s : State) (o : Obj) (i : Nat) (b : Bool) : (s.setB o i b).drives = s.drives := rfl
@[simp] theorem State.setB_pulses (s : State) (o : Obj) (i : Nat) (b : Bool) : (s.setB o i b).pulses = s.pulses := rfl
@[simp] theorem State.setB_modes (s : State) (o : Obj) (i : Nat) (b : Bool) : (s.setB o i b).modes = s.modes := rfl
@[simp] theorem State.setB_supply (s : State) (o : Obj) (i : Nat) (b : Bool) : (s.setB o i b).supply = s.supply := rfl
@[simp] theorem State.setB_pifs (s : State) (o : Obj) (i : Nat) (b : Bool) : (s.setB o i b).pifs = s.pifs := rfl
@[simp] theorem State.setB_ring (s : State) (o : Obj) (i : Nat) (b : Bool) : (s.setB o i b).ring = s.ring := rfl
@[simp] theorem State.setB_flash (s : State) (o : Obj) (i : Nat) (b : Bool) : (s.setB o i b).flash = s.flash := rfl
@[simp] theorem State.setB_otp (s : State) (o : Obj) (i : Nat) (b : Bool) : (s.setB o i b).otp = s.otp := rfl
@[simp] theorem State.setB_boot (s : State) (o : Obj) (i : Nat) (b : Bool) : (s.setB o i b).boot = s.boot := rfl
@[simp] theorem State.setB_net (s : State) (o : Obj) (i : Nat) (b : Bool) : (s.setB o i b).net = s.net := rfl
@[simp] theorem State.setB_fi (s : State) (o : Obj) (i : Nat) (b : Bool) : (s.setB o i b).fi = s.fi := rfl
@[simp] theorem State.setB_out (s : State) (o : Obj) (i : Nat) (b : Bool) : (s.setB o i b).out = s.out := rfl
@[simp] theorem State.setB_pending (s : State) (o : Obj) (i : Nat) (b : Bool) : (s.setB o i b).pending = s.pending := rfl

/-! setF -/
@[simp] theorem State.setF_mem (s : State) (o : Obj) (f : Fld) (v : Nat) : (s.setF o f v).mem = s.mem := rfl
@[simp] theorem State.setF_up (s : State) (o : Obj) (f : Fld) (v : Nat) : (s.setF o f v).up = s.up := rfl
@[simp] theorem State.setF_ptOff (s : State) (o : Obj) (f : Fld) (v : Nat) : (s.setF o f v).ptOff = s.ptOff := rfl
@[simp] theorem State.setF_free (s : State) (o : Obj) (f : Fld) (v : Nat) : (s.setF o f v).free = s.free := rfl
@[simp] theorem State.setF_evs (s : State) (o : Obj) (f : Fld) (v : Nat) : (s.setF o f v).evs = s.evs := rfl
@[simp] theorem State.setF_dmas (s : State) (o : Obj) (f : Fld) (v : Nat) : (s.setF o f v).dmas = s.dmas := rfl
@[simp] theorem State.setF_clk (s : State) (o : Obj) (f : Fld) (v : Nat) : (s.setF o f v).clk = s.clk := rfl
@[simp] theorem State.setF_jobs (s : State) (o : Obj) (f : Fld) (v : Nat) : (s.setF o f v).jobs = s.jobs := rfl
@[simp] theorem State.setF_intake (s : State) (o : Obj) (f : Fld) (v : Nat) : (s.setF o f v).intake = s.intake := rfl
@[simp] theorem State.setF_lanes (s : State) (o : Obj) (f : Fld) (v : Nat) : (s.setF o f v).lanes = s.lanes := rfl
@[simp] theorem State.setF_scrLive (s : State) (o : Obj) (f : Fld) (v : Nat) : (s.setF o f v).scrLive = s.scrLive := rfl
@[simp] theorem State.setF_masks (s : State) (o : Obj) (f : Fld) (v : Nat) : (s.setF o f v).masks = s.masks := rfl
@[simp] theorem State.setF_lodges (s : State) (o : Obj) (f : Fld) (v : Nat) : (s.setF o f v).lodges = s.lodges := rfl
@[simp] theorem State.setF_scheds (s : State) (o : Obj) (f : Fld) (v : Nat) : (s.setF o f v).scheds = s.scheds := rfl
@[simp] theorem State.setF_preds (s : State) (o : Obj) (f : Fld) (v : Nat) : (s.setF o f v).preds = s.preds := rfl
@[simp] theorem State.setF_slow (s : State) (o : Obj) (f : Fld) (v : Nat) : (s.setF o f v).slow = s.slow := rfl
@[simp] theorem State.setF_bk (s : State) (o : Obj) (f : Fld) (v : Nat) : (s.setF o f v).bk = s.bk := rfl
@[simp] theorem State.setF_tpdoMap (s : State) (o : Obj) (f : Fld) (v : Nat) : (s.setF o f v).tpdoMap = s.tpdoMap := rfl
@[simp] theorem State.setF_healths (s : State) (o : Obj) (f : Fld) (v : Nat) : (s.setF o f v).healths = s.healths := rfl
@[simp] theorem State.setF_links (s : State) (o : Obj) (f : Fld) (v : Nat) : (s.setF o f v).links = s.links := rfl
@[simp] theorem State.setF_mts (s : State) (o : Obj) (f : Fld) (v : Nat) : (s.setF o f v).mts = s.mts := rfl
@[simp] theorem State.setF_fires (s : State) (o : Obj) (f : Fld) (v : Nat) : (s.setF o f v).fires = s.fires := rfl
@[simp] theorem State.setF_pgs (s : State) (o : Obj) (f : Fld) (v : Nat) : (s.setF o f v).pgs = s.pgs := rfl
@[simp] theorem State.setF_convs (s : State) (o : Obj) (f : Fld) (v : Nat) : (s.setF o f v).convs = s.convs := rfl
@[simp] theorem State.setF_bank (s : State) (o : Obj) (f : Fld) (v : Nat) : (s.setF o f v).bank = s.bank := rfl
@[simp] theorem State.setF_axs (s : State) (o : Obj) (f : Fld) (v : Nat) : (s.setF o f v).axs = s.axs := rfl
@[simp] theorem State.setF_igs (s : State) (o : Obj) (f : Fld) (v : Nat) : (s.setF o f v).igs = s.igs := rfl
@[simp] theorem State.setF_drives (s : State) (o : Obj) (f : Fld) (v : Nat) : (s.setF o f v).drives = s.drives := rfl
@[simp] theorem State.setF_pulses (s : State) (o : Obj) (f : Fld) (v : Nat) : (s.setF o f v).pulses = s.pulses := rfl
@[simp] theorem State.setF_modes (s : State) (o : Obj) (f : Fld) (v : Nat) : (s.setF o f v).modes = s.modes := rfl
@[simp] theorem State.setF_supply (s : State) (o : Obj) (f : Fld) (v : Nat) : (s.setF o f v).supply = s.supply := rfl
@[simp] theorem State.setF_pifs (s : State) (o : Obj) (f : Fld) (v : Nat) : (s.setF o f v).pifs = s.pifs := rfl
@[simp] theorem State.setF_ring (s : State) (o : Obj) (f : Fld) (v : Nat) : (s.setF o f v).ring = s.ring := rfl
@[simp] theorem State.setF_flash (s : State) (o : Obj) (f : Fld) (v : Nat) : (s.setF o f v).flash = s.flash := rfl
@[simp] theorem State.setF_otp (s : State) (o : Obj) (f : Fld) (v : Nat) : (s.setF o f v).otp = s.otp := rfl
@[simp] theorem State.setF_boot (s : State) (o : Obj) (f : Fld) (v : Nat) : (s.setF o f v).boot = s.boot := rfl
@[simp] theorem State.setF_net (s : State) (o : Obj) (f : Fld) (v : Nat) : (s.setF o f v).net = s.net := rfl
@[simp] theorem State.setF_fi (s : State) (o : Obj) (f : Fld) (v : Nat) : (s.setF o f v).fi = s.fi := rfl
@[simp] theorem State.setF_out (s : State) (o : Obj) (f : Fld) (v : Nat) : (s.setF o f v).out = s.out := rfl
@[simp] theorem State.setF_pending (s : State) (o : Obj) (f : Fld) (v : Nat) : (s.setF o f v).pending = s.pending := rfl

/-! setI -/
@[simp] theorem State.setI_mem (s : State) (o : Obj) (i : Int) : (s.setI o i).mem = s.mem := rfl
@[simp] theorem State.setI_up (s : State) (o : Obj) (i : Int) : (s.setI o i).up = s.up := rfl
@[simp] theorem State.setI_ptOff (s : State) (o : Obj) (i : Int) : (s.setI o i).ptOff = s.ptOff := rfl
@[simp] theorem State.setI_free (s : State) (o : Obj) (i : Int) : (s.setI o i).free = s.free := rfl
@[simp] theorem State.setI_evs (s : State) (o : Obj) (i : Int) : (s.setI o i).evs = s.evs := rfl
@[simp] theorem State.setI_dmas (s : State) (o : Obj) (i : Int) : (s.setI o i).dmas = s.dmas := rfl
@[simp] theorem State.setI_clk (s : State) (o : Obj) (i : Int) : (s.setI o i).clk = s.clk := rfl
@[simp] theorem State.setI_jobs (s : State) (o : Obj) (i : Int) : (s.setI o i).jobs = s.jobs := rfl
@[simp] theorem State.setI_intake (s : State) (o : Obj) (i : Int) : (s.setI o i).intake = s.intake := rfl
@[simp] theorem State.setI_lanes (s : State) (o : Obj) (i : Int) : (s.setI o i).lanes = s.lanes := rfl
@[simp] theorem State.setI_scrLive (s : State) (o : Obj) (i : Int) : (s.setI o i).scrLive = s.scrLive := rfl
@[simp] theorem State.setI_masks (s : State) (o : Obj) (i : Int) : (s.setI o i).masks = s.masks := rfl
@[simp] theorem State.setI_lodges (s : State) (o : Obj) (i : Int) : (s.setI o i).lodges = s.lodges := rfl
@[simp] theorem State.setI_scheds (s : State) (o : Obj) (i : Int) : (s.setI o i).scheds = s.scheds := rfl
@[simp] theorem State.setI_preds (s : State) (o : Obj) (i : Int) : (s.setI o i).preds = s.preds := rfl
@[simp] theorem State.setI_slow (s : State) (o : Obj) (i : Int) : (s.setI o i).slow = s.slow := rfl
@[simp] theorem State.setI_bk (s : State) (o : Obj) (i : Int) : (s.setI o i).bk = s.bk := rfl
@[simp] theorem State.setI_tpdoMap (s : State) (o : Obj) (i : Int) : (s.setI o i).tpdoMap = s.tpdoMap := rfl
@[simp] theorem State.setI_healths (s : State) (o : Obj) (i : Int) : (s.setI o i).healths = s.healths := rfl
@[simp] theorem State.setI_links (s : State) (o : Obj) (i : Int) : (s.setI o i).links = s.links := rfl
@[simp] theorem State.setI_mts (s : State) (o : Obj) (i : Int) : (s.setI o i).mts = s.mts := rfl
@[simp] theorem State.setI_fires (s : State) (o : Obj) (i : Int) : (s.setI o i).fires = s.fires := rfl
@[simp] theorem State.setI_pgs (s : State) (o : Obj) (i : Int) : (s.setI o i).pgs = s.pgs := rfl
@[simp] theorem State.setI_convs (s : State) (o : Obj) (i : Int) : (s.setI o i).convs = s.convs := rfl
@[simp] theorem State.setI_bank (s : State) (o : Obj) (i : Int) : (s.setI o i).bank = s.bank := rfl
@[simp] theorem State.setI_axs (s : State) (o : Obj) (i : Int) : (s.setI o i).axs = s.axs := rfl
@[simp] theorem State.setI_igs (s : State) (o : Obj) (i : Int) : (s.setI o i).igs = s.igs := rfl
@[simp] theorem State.setI_drives (s : State) (o : Obj) (i : Int) : (s.setI o i).drives = s.drives := rfl
@[simp] theorem State.setI_pulses (s : State) (o : Obj) (i : Int) : (s.setI o i).pulses = s.pulses := rfl
@[simp] theorem State.setI_modes (s : State) (o : Obj) (i : Int) : (s.setI o i).modes = s.modes := rfl
@[simp] theorem State.setI_supply (s : State) (o : Obj) (i : Int) : (s.setI o i).supply = s.supply := rfl
@[simp] theorem State.setI_pifs (s : State) (o : Obj) (i : Int) : (s.setI o i).pifs = s.pifs := rfl
@[simp] theorem State.setI_ring (s : State) (o : Obj) (i : Int) : (s.setI o i).ring = s.ring := rfl
@[simp] theorem State.setI_flash (s : State) (o : Obj) (i : Int) : (s.setI o i).flash = s.flash := rfl
@[simp] theorem State.setI_otp (s : State) (o : Obj) (i : Int) : (s.setI o i).otp = s.otp := rfl
@[simp] theorem State.setI_boot (s : State) (o : Obj) (i : Int) : (s.setI o i).boot = s.boot := rfl
@[simp] theorem State.setI_net (s : State) (o : Obj) (i : Int) : (s.setI o i).net = s.net := rfl
@[simp] theorem State.setI_fi (s : State) (o : Obj) (i : Int) : (s.setI o i).fi = s.fi := rfl
@[simp] theorem State.setI_out (s : State) (o : Obj) (i : Int) : (s.setI o i).out = s.out := rfl
@[simp] theorem State.setI_pending (s : State) (o : Obj) (i : Int) : (s.setI o i).pending = s.pending := rfl

/-! addC -/
@[simp] theorem State.addC_mem (s : State) (o : Obj) (n : Nat) : (s.addC o n).mem = s.mem := rfl
@[simp] theorem State.addC_up (s : State) (o : Obj) (n : Nat) : (s.addC o n).up = s.up := rfl
@[simp] theorem State.addC_ptOff (s : State) (o : Obj) (n : Nat) : (s.addC o n).ptOff = s.ptOff := rfl
@[simp] theorem State.addC_free (s : State) (o : Obj) (n : Nat) : (s.addC o n).free = s.free := rfl
@[simp] theorem State.addC_evs (s : State) (o : Obj) (n : Nat) : (s.addC o n).evs = s.evs := rfl
@[simp] theorem State.addC_dmas (s : State) (o : Obj) (n : Nat) : (s.addC o n).dmas = s.dmas := rfl
@[simp] theorem State.addC_clk (s : State) (o : Obj) (n : Nat) : (s.addC o n).clk = s.clk := rfl
@[simp] theorem State.addC_jobs (s : State) (o : Obj) (n : Nat) : (s.addC o n).jobs = s.jobs := rfl
@[simp] theorem State.addC_intake (s : State) (o : Obj) (n : Nat) : (s.addC o n).intake = s.intake := rfl
@[simp] theorem State.addC_lanes (s : State) (o : Obj) (n : Nat) : (s.addC o n).lanes = s.lanes := rfl
@[simp] theorem State.addC_scrLive (s : State) (o : Obj) (n : Nat) : (s.addC o n).scrLive = s.scrLive := rfl
@[simp] theorem State.addC_masks (s : State) (o : Obj) (n : Nat) : (s.addC o n).masks = s.masks := rfl
@[simp] theorem State.addC_lodges (s : State) (o : Obj) (n : Nat) : (s.addC o n).lodges = s.lodges := rfl
@[simp] theorem State.addC_scheds (s : State) (o : Obj) (n : Nat) : (s.addC o n).scheds = s.scheds := rfl
@[simp] theorem State.addC_preds (s : State) (o : Obj) (n : Nat) : (s.addC o n).preds = s.preds := rfl
@[simp] theorem State.addC_slow (s : State) (o : Obj) (n : Nat) : (s.addC o n).slow = s.slow := rfl
@[simp] theorem State.addC_bk (s : State) (o : Obj) (n : Nat) : (s.addC o n).bk = s.bk := rfl
@[simp] theorem State.addC_tpdoMap (s : State) (o : Obj) (n : Nat) : (s.addC o n).tpdoMap = s.tpdoMap := rfl
@[simp] theorem State.addC_healths (s : State) (o : Obj) (n : Nat) : (s.addC o n).healths = s.healths := rfl
@[simp] theorem State.addC_links (s : State) (o : Obj) (n : Nat) : (s.addC o n).links = s.links := rfl
@[simp] theorem State.addC_mts (s : State) (o : Obj) (n : Nat) : (s.addC o n).mts = s.mts := rfl
@[simp] theorem State.addC_fires (s : State) (o : Obj) (n : Nat) : (s.addC o n).fires = s.fires := rfl
@[simp] theorem State.addC_pgs (s : State) (o : Obj) (n : Nat) : (s.addC o n).pgs = s.pgs := rfl
@[simp] theorem State.addC_convs (s : State) (o : Obj) (n : Nat) : (s.addC o n).convs = s.convs := rfl
@[simp] theorem State.addC_bank (s : State) (o : Obj) (n : Nat) : (s.addC o n).bank = s.bank := rfl
@[simp] theorem State.addC_axs (s : State) (o : Obj) (n : Nat) : (s.addC o n).axs = s.axs := rfl
@[simp] theorem State.addC_igs (s : State) (o : Obj) (n : Nat) : (s.addC o n).igs = s.igs := rfl
@[simp] theorem State.addC_drives (s : State) (o : Obj) (n : Nat) : (s.addC o n).drives = s.drives := rfl
@[simp] theorem State.addC_pulses (s : State) (o : Obj) (n : Nat) : (s.addC o n).pulses = s.pulses := rfl
@[simp] theorem State.addC_modes (s : State) (o : Obj) (n : Nat) : (s.addC o n).modes = s.modes := rfl
@[simp] theorem State.addC_supply (s : State) (o : Obj) (n : Nat) : (s.addC o n).supply = s.supply := rfl
@[simp] theorem State.addC_pifs (s : State) (o : Obj) (n : Nat) : (s.addC o n).pifs = s.pifs := rfl
@[simp] theorem State.addC_ring (s : State) (o : Obj) (n : Nat) : (s.addC o n).ring = s.ring := rfl
@[simp] theorem State.addC_flash (s : State) (o : Obj) (n : Nat) : (s.addC o n).flash = s.flash := rfl
@[simp] theorem State.addC_otp (s : State) (o : Obj) (n : Nat) : (s.addC o n).otp = s.otp := rfl
@[simp] theorem State.addC_boot (s : State) (o : Obj) (n : Nat) : (s.addC o n).boot = s.boot := rfl
@[simp] theorem State.addC_net (s : State) (o : Obj) (n : Nat) : (s.addC o n).net = s.net := rfl
@[simp] theorem State.addC_fi (s : State) (o : Obj) (n : Nat) : (s.addC o n).fi = s.fi := rfl
@[simp] theorem State.addC_out (s : State) (o : Obj) (n : Nat) : (s.addC o n).out = s.out := rfl
@[simp] theorem State.addC_pending (s : State) (o : Obj) (n : Nat) : (s.addC o n).pending = s.pending := rfl

/-! inc -/
@[simp] theorem State.inc_mem (s : State) (o : Obj) : (s.inc o).mem = s.mem := rfl
@[simp] theorem State.inc_up (s : State) (o : Obj) : (s.inc o).up = s.up := rfl
@[simp] theorem State.inc_ptOff (s : State) (o : Obj) : (s.inc o).ptOff = s.ptOff := rfl
@[simp] theorem State.inc_free (s : State) (o : Obj) : (s.inc o).free = s.free := rfl
@[simp] theorem State.inc_evs (s : State) (o : Obj) : (s.inc o).evs = s.evs := rfl
@[simp] theorem State.inc_dmas (s : State) (o : Obj) : (s.inc o).dmas = s.dmas := rfl
@[simp] theorem State.inc_clk (s : State) (o : Obj) : (s.inc o).clk = s.clk := rfl
@[simp] theorem State.inc_jobs (s : State) (o : Obj) : (s.inc o).jobs = s.jobs := rfl
@[simp] theorem State.inc_intake (s : State) (o : Obj) : (s.inc o).intake = s.intake := rfl
@[simp] theorem State.inc_lanes (s : State) (o : Obj) : (s.inc o).lanes = s.lanes := rfl
@[simp] theorem State.inc_scrLive (s : State) (o : Obj) : (s.inc o).scrLive = s.scrLive := rfl
@[simp] theorem State.inc_masks (s : State) (o : Obj) : (s.inc o).masks = s.masks := rfl
@[simp] theorem State.inc_lodges (s : State) (o : Obj) : (s.inc o).lodges = s.lodges := rfl
@[simp] theorem State.inc_scheds (s : State) (o : Obj) : (s.inc o).scheds = s.scheds := rfl
@[simp] theorem State.inc_preds (s : State) (o : Obj) : (s.inc o).preds = s.preds := rfl
@[simp] theorem State.inc_slow (s : State) (o : Obj) : (s.inc o).slow = s.slow := rfl
@[simp] theorem State.inc_bk (s : State) (o : Obj) : (s.inc o).bk = s.bk := rfl
@[simp] theorem State.inc_tpdoMap (s : State) (o : Obj) : (s.inc o).tpdoMap = s.tpdoMap := rfl
@[simp] theorem State.inc_healths (s : State) (o : Obj) : (s.inc o).healths = s.healths := rfl
@[simp] theorem State.inc_links (s : State) (o : Obj) : (s.inc o).links = s.links := rfl
@[simp] theorem State.inc_mts (s : State) (o : Obj) : (s.inc o).mts = s.mts := rfl
@[simp] theorem State.inc_fires (s : State) (o : Obj) : (s.inc o).fires = s.fires := rfl
@[simp] theorem State.inc_pgs (s : State) (o : Obj) : (s.inc o).pgs = s.pgs := rfl
@[simp] theorem State.inc_convs (s : State) (o : Obj) : (s.inc o).convs = s.convs := rfl
@[simp] theorem State.inc_bank (s : State) (o : Obj) : (s.inc o).bank = s.bank := rfl
@[simp] theorem State.inc_axs (s : State) (o : Obj) : (s.inc o).axs = s.axs := rfl
@[simp] theorem State.inc_igs (s : State) (o : Obj) : (s.inc o).igs = s.igs := rfl
@[simp] theorem State.inc_drives (s : State) (o : Obj) : (s.inc o).drives = s.drives := rfl
@[simp] theorem State.inc_pulses (s : State) (o : Obj) : (s.inc o).pulses = s.pulses := rfl
@[simp] theorem State.inc_modes (s : State) (o : Obj) : (s.inc o).modes = s.modes := rfl
@[simp] theorem State.inc_supply (s : State) (o : Obj) : (s.inc o).supply = s.supply := rfl
@[simp] theorem State.inc_pifs (s : State) (o : Obj) : (s.inc o).pifs = s.pifs := rfl
@[simp] theorem State.inc_ring (s : State) (o : Obj) : (s.inc o).ring = s.ring := rfl
@[simp] theorem State.inc_flash (s : State) (o : Obj) : (s.inc o).flash = s.flash := rfl
@[simp] theorem State.inc_otp (s : State) (o : Obj) : (s.inc o).otp = s.otp := rfl
@[simp] theorem State.inc_boot (s : State) (o : Obj) : (s.inc o).boot = s.boot := rfl
@[simp] theorem State.inc_net (s : State) (o : Obj) : (s.inc o).net = s.net := rfl
@[simp] theorem State.inc_fi (s : State) (o : Obj) : (s.inc o).fi = s.fi := rfl
@[simp] theorem State.inc_out (s : State) (o : Obj) : (s.inc o).out = s.out := rfl
@[simp] theorem State.inc_pending (s : State) (o : Obj) : (s.inc o).pending = s.pending := rfl

/-! emit -/
@[simp] theorem State.emit_objs (s : State) (e : Emit) : (s.emit e).objs = s.objs := rfl
@[simp] theorem State.emit_mem (s : State) (e : Emit) : (s.emit e).mem = s.mem := rfl
@[simp] theorem State.emit_up (s : State) (e : Emit) : (s.emit e).up = s.up := rfl
@[simp] theorem State.emit_ptOff (s : State) (e : Emit) : (s.emit e).ptOff = s.ptOff := rfl
@[simp] theorem State.emit_free (s : State) (e : Emit) : (s.emit e).free = s.free := rfl
@[simp] theorem State.emit_evs (s : State) (e : Emit) : (s.emit e).evs = s.evs := rfl
@[simp] theorem State.emit_dmas (s : State) (e : Emit) : (s.emit e).dmas = s.dmas := rfl
@[simp] theorem State.emit_clk (s : State) (e : Emit) : (s.emit e).clk = s.clk := rfl
@[simp] theorem State.emit_jobs (s : State) (e : Emit) : (s.emit e).jobs = s.jobs := rfl
@[simp] theorem State.emit_intake (s : State) (e : Emit) : (s.emit e).intake = s.intake := rfl
@[simp] theorem State.emit_lanes (s : State) (e : Emit) : (s.emit e).lanes = s.lanes := rfl
@[simp] theorem State.emit_scrLive (s : State) (e : Emit) : (s.emit e).scrLive = s.scrLive := rfl
@[simp] theorem State.emit_masks (s : State) (e : Emit) : (s.emit e).masks = s.masks := rfl
@[simp] theorem State.emit_lodges (s : State) (e : Emit) : (s.emit e).lodges = s.lodges := rfl
@[simp] theorem State.emit_scheds (s : State) (e : Emit) : (s.emit e).scheds = s.scheds := rfl
@[simp] theorem State.emit_preds (s : State) (e : Emit) : (s.emit e).preds = s.preds := rfl
@[simp] theorem State.emit_slow (s : State) (e : Emit) : (s.emit e).slow = s.slow := rfl
@[simp] theorem State.emit_bk (s : State) (e : Emit) : (s.emit e).bk = s.bk := rfl
@[simp] theorem State.emit_tpdoMap (s : State) (e : Emit) : (s.emit e).tpdoMap = s.tpdoMap := rfl
@[simp] theorem State.emit_tpdoReady (s : State) (e : Emit) : (s.emit e).tpdoReady = s.tpdoReady := rfl
@[simp] theorem State.emit_healths (s : State) (e : Emit) : (s.emit e).healths = s.healths := rfl
@[simp] theorem State.emit_links (s : State) (e : Emit) : (s.emit e).links = s.links := rfl
@[simp] theorem State.emit_mts (s : State) (e : Emit) : (s.emit e).mts = s.mts := rfl
@[simp] theorem State.emit_fires (s : State) (e : Emit) : (s.emit e).fires = s.fires := rfl
@[simp] theorem State.emit_pgs (s : State) (e : Emit) : (s.emit e).pgs = s.pgs := rfl
@[simp] theorem State.emit_convs (s : State) (e : Emit) : (s.emit e).convs = s.convs := rfl
@[simp] theorem State.emit_bank (s : State) (e : Emit) : (s.emit e).bank = s.bank := rfl
@[simp] theorem State.emit_axs (s : State) (e : Emit) : (s.emit e).axs = s.axs := rfl
@[simp] theorem State.emit_igs (s : State) (e : Emit) : (s.emit e).igs = s.igs := rfl
@[simp] theorem State.emit_drives (s : State) (e : Emit) : (s.emit e).drives = s.drives := rfl
@[simp] theorem State.emit_pulses (s : State) (e : Emit) : (s.emit e).pulses = s.pulses := rfl
@[simp] theorem State.emit_modes (s : State) (e : Emit) : (s.emit e).modes = s.modes := rfl
@[simp] theorem State.emit_supply (s : State) (e : Emit) : (s.emit e).supply = s.supply := rfl
@[simp] theorem State.emit_pifs (s : State) (e : Emit) : (s.emit e).pifs = s.pifs := rfl
@[simp] theorem State.emit_ring (s : State) (e : Emit) : (s.emit e).ring = s.ring := rfl
@[simp] theorem State.emit_flash (s : State) (e : Emit) : (s.emit e).flash = s.flash := rfl
@[simp] theorem State.emit_otp (s : State) (e : Emit) : (s.emit e).otp = s.otp := rfl
@[simp] theorem State.emit_boot (s : State) (e : Emit) : (s.emit e).boot = s.boot := rfl
@[simp] theorem State.emit_net (s : State) (e : Emit) : (s.emit e).net = s.net := rfl
@[simp] theorem State.emit_fi (s : State) (e : Emit) : (s.emit e).fi = s.fi := rfl
@[simp] theorem State.emit_pending (s : State) (e : Emit) : (s.emit e).pending = s.pending := rfl
@[simp] theorem State.emit_get (s : State) (e : Emit) (o : Obj) : (s.emit e).get o = s.get o := rfl

/-! mput -/
@[simp] theorem State.mput_objs (s : State) (a : Nat) (b : Byte) : (s.mput a b).objs = s.objs := rfl
@[simp] theorem State.mput_up (s : State) (a : Nat) (b : Byte) : (s.mput a b).up = s.up := rfl
@[simp] theorem State.mput_ptOff (s : State) (a : Nat) (b : Byte) : (s.mput a b).ptOff = s.ptOff := rfl
@[simp] theorem State.mput_free (s : State) (a : Nat) (b : Byte) : (s.mput a b).free = s.free := rfl
@[simp] theorem State.mput_evs (s : State) (a : Nat) (b : Byte) : (s.mput a b).evs = s.evs := rfl
@[simp] theorem State.mput_dmas (s : State) (a : Nat) (b : Byte) : (s.mput a b).dmas = s.dmas := rfl
@[simp] theorem State.mput_clk (s : State) (a : Nat) (b : Byte) : (s.mput a b).clk = s.clk := rfl
@[simp] theorem State.mput_jobs (s : State) (a : Nat) (b : Byte) : (s.mput a b).jobs = s.jobs := rfl
@[simp] theorem State.mput_intake (s : State) (a : Nat) (b : Byte) : (s.mput a b).intake = s.intake := rfl
@[simp] theorem State.mput_lanes (s : State) (a : Nat) (b : Byte) : (s.mput a b).lanes = s.lanes := rfl
@[simp] theorem State.mput_scrLive (s : State) (a : Nat) (b : Byte) : (s.mput a b).scrLive = s.scrLive := rfl
@[simp] theorem State.mput_masks (s : State) (a : Nat) (b : Byte) : (s.mput a b).masks = s.masks := rfl
@[simp] theorem State.mput_lodges (s : State) (a : Nat) (b : Byte) : (s.mput a b).lodges = s.lodges := rfl
@[simp] theorem State.mput_scheds (s : State) (a : Nat) (b : Byte) : (s.mput a b).scheds = s.scheds := rfl
@[simp] theorem State.mput_preds (s : State) (a : Nat) (b : Byte) : (s.mput a b).preds = s.preds := rfl
@[simp] theorem State.mput_slow (s : State) (a : Nat) (b : Byte) : (s.mput a b).slow = s.slow := rfl
@[simp] theorem State.mput_bk (s : State) (a : Nat) (b : Byte) : (s.mput a b).bk = s.bk := rfl
@[simp] theorem State.mput_tpdoMap (s : State) (a : Nat) (b : Byte) : (s.mput a b).tpdoMap = s.tpdoMap := rfl
@[simp] theorem State.mput_tpdoReady (s : State) (a : Nat) (b : Byte) : (s.mput a b).tpdoReady = s.tpdoReady := rfl
@[simp] theorem State.mput_healths (s : State) (a : Nat) (b : Byte) : (s.mput a b).healths = s.healths := rfl
@[simp] theorem State.mput_links (s : State) (a : Nat) (b : Byte) : (s.mput a b).links = s.links := rfl
@[simp] theorem State.mput_mts (s : State) (a : Nat) (b : Byte) : (s.mput a b).mts = s.mts := rfl
@[simp] theorem State.mput_fires (s : State) (a : Nat) (b : Byte) : (s.mput a b).fires = s.fires := rfl
@[simp] theorem State.mput_pgs (s : State) (a : Nat) (b : Byte) : (s.mput a b).pgs = s.pgs := rfl
@[simp] theorem State.mput_convs (s : State) (a : Nat) (b : Byte) : (s.mput a b).convs = s.convs := rfl
@[simp] theorem State.mput_bank (s : State) (a : Nat) (b : Byte) : (s.mput a b).bank = s.bank := rfl
@[simp] theorem State.mput_axs (s : State) (a : Nat) (b : Byte) : (s.mput a b).axs = s.axs := rfl
@[simp] theorem State.mput_igs (s : State) (a : Nat) (b : Byte) : (s.mput a b).igs = s.igs := rfl
@[simp] theorem State.mput_drives (s : State) (a : Nat) (b : Byte) : (s.mput a b).drives = s.drives := rfl
@[simp] theorem State.mput_pulses (s : State) (a : Nat) (b : Byte) : (s.mput a b).pulses = s.pulses := rfl
@[simp] theorem State.mput_modes (s : State) (a : Nat) (b : Byte) : (s.mput a b).modes = s.modes := rfl
@[simp] theorem State.mput_supply (s : State) (a : Nat) (b : Byte) : (s.mput a b).supply = s.supply := rfl
@[simp] theorem State.mput_pifs (s : State) (a : Nat) (b : Byte) : (s.mput a b).pifs = s.pifs := rfl
@[simp] theorem State.mput_ring (s : State) (a : Nat) (b : Byte) : (s.mput a b).ring = s.ring := rfl
@[simp] theorem State.mput_flash (s : State) (a : Nat) (b : Byte) : (s.mput a b).flash = s.flash := rfl
@[simp] theorem State.mput_otp (s : State) (a : Nat) (b : Byte) : (s.mput a b).otp = s.otp := rfl
@[simp] theorem State.mput_boot (s : State) (a : Nat) (b : Byte) : (s.mput a b).boot = s.boot := rfl
@[simp] theorem State.mput_net (s : State) (a : Nat) (b : Byte) : (s.mput a b).net = s.net := rfl
@[simp] theorem State.mput_fi (s : State) (a : Nat) (b : Byte) : (s.mput a b).fi = s.fi := rfl
@[simp] theorem State.mput_out (s : State) (a : Nat) (b : Byte) : (s.mput a b).out = s.out := rfl
@[simp] theorem State.mput_pending (s : State) (a : Nat) (b : Byte) : (s.mput a b).pending = s.pending := rfl
@[simp] theorem State.mput_get (s : State) (a : Nat) (b : Byte) (o : Obj) : (s.mput a b).get o = s.get o := rfl

/-! ptMove -/
@[simp] theorem State.ptMove_objs (s : State) (d : Int) : (s.ptMove d).objs = s.objs := rfl
@[simp] theorem State.ptMove_mem (s : State) (d : Int) : (s.ptMove d).mem = s.mem := rfl
@[simp] theorem State.ptMove_up (s : State) (d : Int) : (s.ptMove d).up = s.up := rfl
@[simp] theorem State.ptMove_free (s : State) (d : Int) : (s.ptMove d).free = s.free := rfl
@[simp] theorem State.ptMove_evs (s : State) (d : Int) : (s.ptMove d).evs = s.evs := rfl
@[simp] theorem State.ptMove_dmas (s : State) (d : Int) : (s.ptMove d).dmas = s.dmas := rfl
@[simp] theorem State.ptMove_jobs (s : State) (d : Int) : (s.ptMove d).jobs = s.jobs := rfl
@[simp] theorem State.ptMove_intake (s : State) (d : Int) : (s.ptMove d).intake = s.intake := rfl
@[simp] theorem State.ptMove_lanes (s : State) (d : Int) : (s.ptMove d).lanes = s.lanes := rfl
@[simp] theorem State.ptMove_scrLive (s : State) (d : Int) : (s.ptMove d).scrLive = s.scrLive := rfl
@[simp] theorem State.ptMove_masks (s : State) (d : Int) : (s.ptMove d).masks = s.masks := rfl
@[simp] theorem State.ptMove_lodges (s : State) (d : Int) : (s.ptMove d).lodges = s.lodges := rfl
@[simp] theorem State.ptMove_scheds (s : State) (d : Int) : (s.ptMove d).scheds = s.scheds := rfl
@[simp] theorem State.ptMove_preds (s : State) (d : Int) : (s.ptMove d).preds = s.preds := rfl
@[simp] theorem State.ptMove_slow (s : State) (d : Int) : (s.ptMove d).slow = s.slow := rfl
@[simp] theorem State.ptMove_bk (s : State) (d : Int) : (s.ptMove d).bk = s.bk := rfl
@[simp] theorem State.ptMove_tpdoMap (s : State) (d : Int) : (s.ptMove d).tpdoMap = s.tpdoMap := rfl
@[simp] theorem State.ptMove_tpdoReady (s : State) (d : Int) : (s.ptMove d).tpdoReady = s.tpdoReady := rfl
@[simp] theorem State.ptMove_healths (s : State) (d : Int) : (s.ptMove d).healths = s.healths := rfl
@[simp] theorem State.ptMove_links (s : State) (d : Int) : (s.ptMove d).links = s.links := rfl
@[simp] theorem State.ptMove_mts (s : State) (d : Int) : (s.ptMove d).mts = s.mts := rfl
@[simp] theorem State.ptMove_fires (s : State) (d : Int) : (s.ptMove d).fires = s.fires := rfl
@[simp] theorem State.ptMove_pgs (s : State) (d : Int) : (s.ptMove d).pgs = s.pgs := rfl
@[simp] theorem State.ptMove_convs (s : State) (d : Int) : (s.ptMove d).convs = s.convs := rfl
@[simp] theorem State.ptMove_bank (s : State) (d : Int) : (s.ptMove d).bank = s.bank := rfl
@[simp] theorem State.ptMove_axs (s : State) (d : Int) : (s.ptMove d).axs = s.axs := rfl
@[simp] theorem State.ptMove_igs (s : State) (d : Int) : (s.ptMove d).igs = s.igs := rfl
@[simp] theorem State.ptMove_drives (s : State) (d : Int) : (s.ptMove d).drives = s.drives := rfl
@[simp] theorem State.ptMove_pulses (s : State) (d : Int) : (s.ptMove d).pulses = s.pulses := rfl
@[simp] theorem State.ptMove_modes (s : State) (d : Int) : (s.ptMove d).modes = s.modes := rfl
@[simp] theorem State.ptMove_supply (s : State) (d : Int) : (s.ptMove d).supply = s.supply := rfl
@[simp] theorem State.ptMove_pifs (s : State) (d : Int) : (s.ptMove d).pifs = s.pifs := rfl
@[simp] theorem State.ptMove_ring (s : State) (d : Int) : (s.ptMove d).ring = s.ring := rfl
@[simp] theorem State.ptMove_flash (s : State) (d : Int) : (s.ptMove d).flash = s.flash := rfl
@[simp] theorem State.ptMove_otp (s : State) (d : Int) : (s.ptMove d).otp = s.otp := rfl
@[simp] theorem State.ptMove_boot (s : State) (d : Int) : (s.ptMove d).boot = s.boot := rfl
@[simp] theorem State.ptMove_net (s : State) (d : Int) : (s.ptMove d).net = s.net := rfl
@[simp] theorem State.ptMove_fi (s : State) (d : Int) : (s.ptMove d).fi = s.fi := rfl
@[simp] theorem State.ptMove_out (s : State) (d : Int) : (s.ptMove d).out = s.out := rfl
@[simp] theorem State.ptMove_pending (s : State) (d : Int) : (s.ptMove d).pending = s.pending := rfl
@[simp] theorem State.ptMove_get (s : State) (d : Int) (o : Obj) : (s.ptMove d).get o = s.get o := rfl

/-! setRing -/
@[simp] theorem State.setRing_objs (s : State) (x : Ring) : (s.setRing x).objs = s.objs := rfl
@[simp] theorem State.setRing_mem (s : State) (x : Ring) : (s.setRing x).mem = s.mem := rfl
@[simp] theorem State.setRing_up (s : State) (x : Ring) : (s.setRing x).up = s.up := rfl
@[simp] theorem State.setRing_ptOff (s : State) (x : Ring) : (s.setRing x).ptOff = s.ptOff := rfl
@[simp] theorem State.setRing_free (s : State) (x : Ring) : (s.setRing x).free = s.free := rfl
@[simp] theorem State.setRing_evs (s : State) (x : Ring) : (s.setRing x).evs = s.evs := rfl
@[simp] theorem State.setRing_dmas (s : State) (x : Ring) : (s.setRing x).dmas = s.dmas := rfl
@[simp] theorem State.setRing_clk (s : State) (x : Ring) : (s.setRing x).clk = s.clk := rfl
@[simp] theorem State.setRing_jobs (s : State) (x : Ring) : (s.setRing x).jobs = s.jobs := rfl
@[simp] theorem State.setRing_intake (s : State) (x : Ring) : (s.setRing x).intake = s.intake := rfl
@[simp] theorem State.setRing_lanes (s : State) (x : Ring) : (s.setRing x).lanes = s.lanes := rfl
@[simp] theorem State.setRing_scrLive (s : State) (x : Ring) : (s.setRing x).scrLive = s.scrLive := rfl
@[simp] theorem State.setRing_masks (s : State) (x : Ring) : (s.setRing x).masks = s.masks := rfl
@[simp] theorem State.setRing_lodges (s : State) (x : Ring) : (s.setRing x).lodges = s.lodges := rfl
@[simp] theorem State.setRing_scheds (s : State) (x : Ring) : (s.setRing x).scheds = s.scheds := rfl
@[simp] theorem State.setRing_preds (s : State) (x : Ring) : (s.setRing x).preds = s.preds := rfl
@[simp] theorem State.setRing_slow (s : State) (x : Ring) : (s.setRing x).slow = s.slow := rfl
@[simp] theorem State.setRing_bk (s : State) (x : Ring) : (s.setRing x).bk = s.bk := rfl
@[simp] theorem State.setRing_tpdoMap (s : State) (x : Ring) : (s.setRing x).tpdoMap = s.tpdoMap := rfl
@[simp] theorem State.setRing_tpdoReady (s : State) (x : Ring) : (s.setRing x).tpdoReady = s.tpdoReady := rfl
@[simp] theorem State.setRing_healths (s : State) (x : Ring) : (s.setRing x).healths = s.healths := rfl
@[simp] theorem State.setRing_links (s : State) (x : Ring) : (s.setRing x).links = s.links := rfl
@[simp] theorem State.setRing_mts (s : State) (x : Ring) : (s.setRing x).mts = s.mts := rfl
@[simp] theorem State.setRing_fires (s : State) (x : Ring) : (s.setRing x).fires = s.fires := rfl
@[simp] theorem State.setRing_pgs (s : State) (x : Ring) : (s.setRing x).pgs = s.pgs := rfl
@[simp] theorem State.setRing_convs (s : State) (x : Ring) : (s.setRing x).convs = s.convs := rfl
@[simp] theorem State.setRing_bank (s : State) (x : Ring) : (s.setRing x).bank = s.bank := rfl
@[simp] theorem State.setRing_axs (s : State) (x : Ring) : (s.setRing x).axs = s.axs := rfl
@[simp] theorem State.setRing_igs (s : State) (x : Ring) : (s.setRing x).igs = s.igs := rfl
@[simp] theorem State.setRing_drives (s : State) (x : Ring) : (s.setRing x).drives = s.drives := rfl
@[simp] theorem State.setRing_pulses (s : State) (x : Ring) : (s.setRing x).pulses = s.pulses := rfl
@[simp] theorem State.setRing_modes (s : State) (x : Ring) : (s.setRing x).modes = s.modes := rfl
@[simp] theorem State.setRing_supply (s : State) (x : Ring) : (s.setRing x).supply = s.supply := rfl
@[simp] theorem State.setRing_pifs (s : State) (x : Ring) : (s.setRing x).pifs = s.pifs := rfl
@[simp] theorem State.setRing_flash (s : State) (x : Ring) : (s.setRing x).flash = s.flash := rfl
@[simp] theorem State.setRing_otp (s : State) (x : Ring) : (s.setRing x).otp = s.otp := rfl
@[simp] theorem State.setRing_boot (s : State) (x : Ring) : (s.setRing x).boot = s.boot := rfl
@[simp] theorem State.setRing_net (s : State) (x : Ring) : (s.setRing x).net = s.net := rfl
@[simp] theorem State.setRing_fi (s : State) (x : Ring) : (s.setRing x).fi = s.fi := rfl
@[simp] theorem State.setRing_out (s : State) (x : Ring) : (s.setRing x).out = s.out := rfl
@[simp] theorem State.setRing_pending (s : State) (x : Ring) : (s.setRing x).pending = s.pending := rfl
@[simp] theorem State.setRing_self (s : State) (x : Ring) : (s.setRing x).ring = x := rfl
@[simp] theorem State.setRing_get (s : State) (x : Ring) (o : Obj) : (s.setRing x).get o = s.get o := rfl

/-! setNet -/
@[simp] theorem State.setNet_objs (s : State) (x : Net) : (s.setNet x).objs = s.objs := rfl
@[simp] theorem State.setNet_mem (s : State) (x : Net) : (s.setNet x).mem = s.mem := rfl
@[simp] theorem State.setNet_up (s : State) (x : Net) : (s.setNet x).up = s.up := rfl
@[simp] theorem State.setNet_ptOff (s : State) (x : Net) : (s.setNet x).ptOff = s.ptOff := rfl
@[simp] theorem State.setNet_free (s : State) (x : Net) : (s.setNet x).free = s.free := rfl
@[simp] theorem State.setNet_evs (s : State) (x : Net) : (s.setNet x).evs = s.evs := rfl
@[simp] theorem State.setNet_dmas (s : State) (x : Net) : (s.setNet x).dmas = s.dmas := rfl
@[simp] theorem State.setNet_clk (s : State) (x : Net) : (s.setNet x).clk = s.clk := rfl
@[simp] theorem State.setNet_jobs (s : State) (x : Net) : (s.setNet x).jobs = s.jobs := rfl
@[simp] theorem State.setNet_intake (s : State) (x : Net) : (s.setNet x).intake = s.intake := rfl
@[simp] theorem State.setNet_lanes (s : State) (x : Net) : (s.setNet x).lanes = s.lanes := rfl
@[simp] theorem State.setNet_scrLive (s : State) (x : Net) : (s.setNet x).scrLive = s.scrLive := rfl
@[simp] theorem State.setNet_masks (s : State) (x : Net) : (s.setNet x).masks = s.masks := rfl
@[simp] theorem State.setNet_lodges (s : State) (x : Net) : (s.setNet x).lodges = s.lodges := rfl
@[simp] theorem State.setNet_scheds (s : State) (x : Net) : (s.setNet x).scheds = s.scheds := rfl
@[simp] theorem State.setNet_preds (s : State) (x : Net) : (s.setNet x).preds = s.preds := rfl
@[simp] theorem State.setNet_slow (s : State) (x : Net) : (s.setNet x).slow = s.slow := rfl
@[simp] theorem State.setNet_bk (s : State) (x : Net) : (s.setNet x).bk = s.bk := rfl
@[simp] theorem State.setNet_tpdoMap (s : State) (x : Net) : (s.setNet x).tpdoMap = s.tpdoMap := rfl
@[simp] theorem State.setNet_tpdoReady (s : State) (x : Net) : (s.setNet x).tpdoReady = s.tpdoReady := rfl
@[simp] theorem State.setNet_healths (s : State) (x : Net) : (s.setNet x).healths = s.healths := rfl
@[simp] theorem State.setNet_links (s : State) (x : Net) : (s.setNet x).links = s.links := rfl
@[simp] theorem State.setNet_mts (s : State) (x : Net) : (s.setNet x).mts = s.mts := rfl
@[simp] theorem State.setNet_fires (s : State) (x : Net) : (s.setNet x).fires = s.fires := rfl
@[simp] theorem State.setNet_pgs (s : State) (x : Net) : (s.setNet x).pgs = s.pgs := rfl
@[simp] theorem State.setNet_convs (s : State) (x : Net) : (s.setNet x).convs = s.convs := rfl
@[simp] theorem State.setNet_bank (s : State) (x : Net) : (s.setNet x).bank = s.bank := rfl
@[simp] theorem State.setNet_axs (s : State) (x : Net) : (s.setNet x).axs = s.axs := rfl
@[simp] theorem State.setNet_igs (s : State) (x : Net) : (s.setNet x).igs = s.igs := rfl
@[simp] theorem State.setNet_drives (s : State) (x : Net) : (s.setNet x).drives = s.drives := rfl
@[simp] theorem State.setNet_pulses (s : State) (x : Net) : (s.setNet x).pulses = s.pulses := rfl
@[simp] theorem State.setNet_modes (s : State) (x : Net) : (s.setNet x).modes = s.modes := rfl
@[simp] theorem State.setNet_supply (s : State) (x : Net) : (s.setNet x).supply = s.supply := rfl
@[simp] theorem State.setNet_pifs (s : State) (x : Net) : (s.setNet x).pifs = s.pifs := rfl
@[simp] theorem State.setNet_ring (s : State) (x : Net) : (s.setNet x).ring = s.ring := rfl
@[simp] theorem State.setNet_flash (s : State) (x : Net) : (s.setNet x).flash = s.flash := rfl
@[simp] theorem State.setNet_otp (s : State) (x : Net) : (s.setNet x).otp = s.otp := rfl
@[simp] theorem State.setNet_boot (s : State) (x : Net) : (s.setNet x).boot = s.boot := rfl
@[simp] theorem State.setNet_fi (s : State) (x : Net) : (s.setNet x).fi = s.fi := rfl
@[simp] theorem State.setNet_out (s : State) (x : Net) : (s.setNet x).out = s.out := rfl
@[simp] theorem State.setNet_pending (s : State) (x : Net) : (s.setNet x).pending = s.pending := rfl
@[simp] theorem State.setNet_self (s : State) (x : Net) : (s.setNet x).net = x := rfl
@[simp] theorem State.setNet_get (s : State) (x : Net) (o : Obj) : (s.setNet x).get o = s.get o := rfl

/-! setIntake -/
@[simp] theorem State.setIntake_objs (s : State) (x : Intake) : (s.setIntake x).objs = s.objs := rfl
@[simp] theorem State.setIntake_mem (s : State) (x : Intake) : (s.setIntake x).mem = s.mem := rfl
@[simp] theorem State.setIntake_up (s : State) (x : Intake) : (s.setIntake x).up = s.up := rfl
@[simp] theorem State.setIntake_ptOff (s : State) (x : Intake) : (s.setIntake x).ptOff = s.ptOff := rfl
@[simp] theorem State.setIntake_free (s : State) (x : Intake) : (s.setIntake x).free = s.free := rfl
@[simp] theorem State.setIntake_evs (s : State) (x : Intake) : (s.setIntake x).evs = s.evs := rfl
@[simp] theorem State.setIntake_dmas (s : State) (x : Intake) : (s.setIntake x).dmas = s.dmas := rfl
@[simp] theorem State.setIntake_clk (s : State) (x : Intake) : (s.setIntake x).clk = s.clk := rfl
@[simp] theorem State.setIntake_jobs (s : State) (x : Intake) : (s.setIntake x).jobs = s.jobs := rfl
@[simp] theorem State.setIntake_lanes (s : State) (x : Intake) : (s.setIntake x).lanes = s.lanes := rfl
@[simp] theorem State.setIntake_scrLive (s : State) (x : Intake) : (s.setIntake x).scrLive = s.scrLive := rfl
@[simp] theorem State.setIntake_masks (s : State) (x : Intake) : (s.setIntake x).masks = s.masks := rfl
@[simp] theorem State.setIntake_lodges (s : State) (x : Intake) : (s.setIntake x).lodges = s.lodges := rfl
@[simp] theorem State.setIntake_scheds (s : State) (x : Intake) : (s.setIntake x).scheds = s.scheds := rfl
@[simp] theorem State.setIntake_preds (s : State) (x : Intake) : (s.setIntake x).preds = s.preds := rfl
@[simp] theorem State.setIntake_slow (s : State) (x : Intake) : (s.setIntake x).slow = s.slow := rfl
@[simp] theorem State.setIntake_bk (s : State) (x : Intake) : (s.setIntake x).bk = s.bk := rfl
@[simp] theorem State.setIntake_tpdoMap (s : State) (x : Intake) : (s.setIntake x).tpdoMap = s.tpdoMap := rfl
@[simp] theorem State.setIntake_tpdoReady (s : State) (x : Intake) : (s.setIntake x).tpdoReady = s.tpdoReady := rfl
@[simp] theorem State.setIntake_healths (s : State) (x : Intake) : (s.setIntake x).healths = s.healths := rfl
@[simp] theorem State.setIntake_links (s : State) (x : Intake) : (s.setIntake x).links = s.links := rfl
@[simp] theorem State.setIntake_mts (s : State) (x : Intake) : (s.setIntake x).mts = s.mts := rfl
@[simp] theorem State.setIntake_fires (s : State) (x : Intake) : (s.setIntake x).fires = s.fires := rfl
@[simp] theorem State.setIntake_pgs (s : State) (x : Intake) : (s.setIntake x).pgs = s.pgs := rfl
@[simp] theorem State.setIntake_convs (s : State) (x : Intake) : (s.setIntake x).convs = s.convs := rfl
@[simp] theorem State.setIntake_bank (s : State) (x : Intake) : (s.setIntake x).bank = s.bank := rfl
@[simp] theorem State.setIntake_axs (s : State) (x : Intake) : (s.setIntake x).axs = s.axs := rfl
@[simp] theorem State.setIntake_igs (s : State) (x : Intake) : (s.setIntake x).igs = s.igs := rfl
@[simp] theorem State.setIntake_drives (s : State) (x : Intake) : (s.setIntake x).drives = s.drives := rfl
@[simp] theorem State.setIntake_pulses (s : State) (x : Intake) : (s.setIntake x).pulses = s.pulses := rfl
@[simp] theorem State.setIntake_modes (s : State) (x : Intake) : (s.setIntake x).modes = s.modes := rfl
@[simp] theorem State.setIntake_supply (s : State) (x : Intake) : (s.setIntake x).supply = s.supply := rfl
@[simp] theorem State.setIntake_pifs (s : State) (x : Intake) : (s.setIntake x).pifs = s.pifs := rfl
@[simp] theorem State.setIntake_ring (s : State) (x : Intake) : (s.setIntake x).ring = s.ring := rfl
@[simp] theorem State.setIntake_flash (s : State) (x : Intake) : (s.setIntake x).flash = s.flash := rfl
@[simp] theorem State.setIntake_otp (s : State) (x : Intake) : (s.setIntake x).otp = s.otp := rfl
@[simp] theorem State.setIntake_boot (s : State) (x : Intake) : (s.setIntake x).boot = s.boot := rfl
@[simp] theorem State.setIntake_net (s : State) (x : Intake) : (s.setIntake x).net = s.net := rfl
@[simp] theorem State.setIntake_fi (s : State) (x : Intake) : (s.setIntake x).fi = s.fi := rfl
@[simp] theorem State.setIntake_out (s : State) (x : Intake) : (s.setIntake x).out = s.out := rfl
@[simp] theorem State.setIntake_pending (s : State) (x : Intake) : (s.setIntake x).pending = s.pending := rfl
@[simp] theorem State.setIntake_self (s : State) (x : Intake) : (s.setIntake x).intake = x := rfl
@[simp] theorem State.setIntake_get (s : State) (x : Intake) (o : Obj) : (s.setIntake x).get o = s.get o := rfl

/-! setEvs -/
@[simp] theorem State.setEvs_objs (s : State) (x : EvUnit) : (s.setEvs x).objs = s.objs := rfl
@[simp] theorem State.setEvs_mem (s : State) (x : EvUnit) : (s.setEvs x).mem = s.mem := rfl
@[simp] theorem State.setEvs_up (s : State) (x : EvUnit) : (s.setEvs x).up = s.up := rfl
@[simp] theorem State.setEvs_ptOff (s : State) (x : EvUnit) : (s.setEvs x).ptOff = s.ptOff := rfl
@[simp] theorem State.setEvs_free (s : State) (x : EvUnit) : (s.setEvs x).free = s.free := rfl
@[simp] theorem State.setEvs_dmas (s : State) (x : EvUnit) : (s.setEvs x).dmas = s.dmas := rfl
@[simp] theorem State.setEvs_clk (s : State) (x : EvUnit) : (s.setEvs x).clk = s.clk := rfl
@[simp] theorem State.setEvs_jobs (s : State) (x : EvUnit) : (s.setEvs x).jobs = s.jobs := rfl
@[simp] theorem State.setEvs_intake (s : State) (x : EvUnit) : (s.setEvs x).intake = s.intake := rfl
@[simp] theorem State.setEvs_lanes (s : State) (x : EvUnit) : (s.setEvs x).lanes = s.lanes := rfl
@[simp] theorem State.setEvs_scrLive (s : State) (x : EvUnit) : (s.setEvs x).scrLive = s.scrLive := rfl
@[simp] theorem State.setEvs_masks (s : State) (x : EvUnit) : (s.setEvs x).masks = s.masks := rfl
@[simp] theorem State.setEvs_lodges (s : State) (x : EvUnit) : (s.setEvs x).lodges = s.lodges := rfl
@[simp] theorem State.setEvs_scheds (s : State) (x : EvUnit) : (s.setEvs x).scheds = s.scheds := rfl
@[simp] theorem State.setEvs_preds (s : State) (x : EvUnit) : (s.setEvs x).preds = s.preds := rfl
@[simp] theorem State.setEvs_slow (s : State) (x : EvUnit) : (s.setEvs x).slow = s.slow := rfl
@[simp] theorem State.setEvs_bk (s : State) (x : EvUnit) : (s.setEvs x).bk = s.bk := rfl
@[simp] theorem State.setEvs_tpdoMap (s : State) (x : EvUnit) : (s.setEvs x).tpdoMap = s.tpdoMap := rfl
@[simp] theorem State.setEvs_tpdoReady (s : State) (x : EvUnit) : (s.setEvs x).tpdoReady = s.tpdoReady := rfl
@[simp] theorem State.setEvs_healths (s : State) (x : EvUnit) : (s.setEvs x).healths = s.healths := rfl
@[simp] theorem State.setEvs_links (s : State) (x : EvUnit) : (s.setEvs x).links = s.links := rfl
@[simp] theorem State.setEvs_mts (s : State) (x : EvUnit) : (s.setEvs x).mts = s.mts := rfl
@[simp] theorem State.setEvs_fires (s : State) (x : EvUnit) : (s.setEvs x).fires = s.fires := rfl
@[simp] theorem State.setEvs_pgs (s : State) (x : EvUnit) : (s.setEvs x).pgs = s.pgs := rfl
@[simp] theorem State.setEvs_convs (s : State) (x : EvUnit) : (s.setEvs x).convs = s.convs := rfl
@[simp] theorem State.setEvs_bank (s : State) (x : EvUnit) : (s.setEvs x).bank = s.bank := rfl
@[simp] theorem State.setEvs_axs (s : State) (x : EvUnit) : (s.setEvs x).axs = s.axs := rfl
@[simp] theorem State.setEvs_igs (s : State) (x : EvUnit) : (s.setEvs x).igs = s.igs := rfl
@[simp] theorem State.setEvs_drives (s : State) (x : EvUnit) : (s.setEvs x).drives = s.drives := rfl
@[simp] theorem State.setEvs_pulses (s : State) (x : EvUnit) : (s.setEvs x).pulses = s.pulses := rfl
@[simp] theorem State.setEvs_modes (s : State) (x : EvUnit) : (s.setEvs x).modes = s.modes := rfl
@[simp] theorem State.setEvs_supply (s : State) (x : EvUnit) : (s.setEvs x).supply = s.supply := rfl
@[simp] theorem State.setEvs_pifs (s : State) (x : EvUnit) : (s.setEvs x).pifs = s.pifs := rfl
@[simp] theorem State.setEvs_ring (s : State) (x : EvUnit) : (s.setEvs x).ring = s.ring := rfl
@[simp] theorem State.setEvs_flash (s : State) (x : EvUnit) : (s.setEvs x).flash = s.flash := rfl
@[simp] theorem State.setEvs_otp (s : State) (x : EvUnit) : (s.setEvs x).otp = s.otp := rfl
@[simp] theorem State.setEvs_boot (s : State) (x : EvUnit) : (s.setEvs x).boot = s.boot := rfl
@[simp] theorem State.setEvs_net (s : State) (x : EvUnit) : (s.setEvs x).net = s.net := rfl
@[simp] theorem State.setEvs_fi (s : State) (x : EvUnit) : (s.setEvs x).fi = s.fi := rfl
@[simp] theorem State.setEvs_out (s : State) (x : EvUnit) : (s.setEvs x).out = s.out := rfl
@[simp] theorem State.setEvs_pending (s : State) (x : EvUnit) : (s.setEvs x).pending = s.pending := rfl
@[simp] theorem State.setEvs_self (s : State) (x : EvUnit) : (s.setEvs x).evs = x := rfl
@[simp] theorem State.setEvs_get (s : State) (x : EvUnit) (o : Obj) : (s.setEvs x).get o = s.get o := rfl

/-! setClk -/
@[simp] theorem State.setClk_objs (s : State) (x : Clk) : (s.setClk x).objs = s.objs := rfl
@[simp] theorem State.setClk_mem (s : State) (x : Clk) : (s.setClk x).mem = s.mem := rfl
@[simp] theorem State.setClk_up (s : State) (x : Clk) : (s.setClk x).up = s.up := rfl
@[simp] theorem State.setClk_ptOff (s : State) (x : Clk) : (s.setClk x).ptOff = s.ptOff := rfl
@[simp] theorem State.setClk_free (s : State) (x : Clk) : (s.setClk x).free = s.free := rfl
@[simp] theorem State.setClk_evs (s : State) (x : Clk) : (s.setClk x).evs = s.evs := rfl
@[simp] theorem State.setClk_dmas (s : State) (x : Clk) : (s.setClk x).dmas = s.dmas := rfl
@[simp] theorem State.setClk_jobs (s : State) (x : Clk) : (s.setClk x).jobs = s.jobs := rfl
@[simp] theorem State.setClk_intake (s : State) (x : Clk) : (s.setClk x).intake = s.intake := rfl
@[simp] theorem State.setClk_lanes (s : State) (x : Clk) : (s.setClk x).lanes = s.lanes := rfl
@[simp] theorem State.setClk_scrLive (s : State) (x : Clk) : (s.setClk x).scrLive = s.scrLive := rfl
@[simp] theorem State.setClk_masks (s : State) (x : Clk) : (s.setClk x).masks = s.masks := rfl
@[simp] theorem State.setClk_lodges (s : State) (x : Clk) : (s.setClk x).lodges = s.lodges := rfl
@[simp] theorem State.setClk_scheds (s : State) (x : Clk) : (s.setClk x).scheds = s.scheds := rfl
@[simp] theorem State.setClk_preds (s : State) (x : Clk) : (s.setClk x).preds = s.preds := rfl
@[simp] theorem State.setClk_slow (s : State) (x : Clk) : (s.setClk x).slow = s.slow := rfl
@[simp] theorem State.setClk_bk (s : State) (x : Clk) : (s.setClk x).bk = s.bk := rfl
@[simp] theorem State.setClk_tpdoMap (s : State) (x : Clk) : (s.setClk x).tpdoMap = s.tpdoMap := rfl
@[simp] theorem State.setClk_tpdoReady (s : State) (x : Clk) : (s.setClk x).tpdoReady = s.tpdoReady := rfl
@[simp] theorem State.setClk_healths (s : State) (x : Clk) : (s.setClk x).healths = s.healths := rfl
@[simp] theorem State.setClk_links (s : State) (x : Clk) : (s.setClk x).links = s.links := rfl
@[simp] theorem State.setClk_mts (s : State) (x : Clk) : (s.setClk x).mts = s.mts := rfl
@[simp] theorem State.setClk_fires (s : State) (x : Clk) : (s.setClk x).fires = s.fires := rfl
@[simp] theorem State.setClk_pgs (s : State) (x : Clk) : (s.setClk x).pgs = s.pgs := rfl
@[simp] theorem State.setClk_convs (s : State) (x : Clk) : (s.setClk x).convs = s.convs := rfl
@[simp] theorem State.setClk_bank (s : State) (x : Clk) : (s.setClk x).bank = s.bank := rfl
@[simp] theorem State.setClk_axs (s : State) (x : Clk) : (s.setClk x).axs = s.axs := rfl
@[simp] theorem State.setClk_igs (s : State) (x : Clk) : (s.setClk x).igs = s.igs := rfl
@[simp] theorem State.setClk_drives (s : State) (x : Clk) : (s.setClk x).drives = s.drives := rfl
@[simp] theorem State.setClk_pulses (s : State) (x : Clk) : (s.setClk x).pulses = s.pulses := rfl
@[simp] theorem State.setClk_modes (s : State) (x : Clk) : (s.setClk x).modes = s.modes := rfl
@[simp] theorem State.setClk_supply (s : State) (x : Clk) : (s.setClk x).supply = s.supply := rfl
@[simp] theorem State.setClk_pifs (s : State) (x : Clk) : (s.setClk x).pifs = s.pifs := rfl
@[simp] theorem State.setClk_ring (s : State) (x : Clk) : (s.setClk x).ring = s.ring := rfl
@[simp] theorem State.setClk_flash (s : State) (x : Clk) : (s.setClk x).flash = s.flash := rfl
@[simp] theorem State.setClk_otp (s : State) (x : Clk) : (s.setClk x).otp = s.otp := rfl
@[simp] theorem State.setClk_boot (s : State) (x : Clk) : (s.setClk x).boot = s.boot := rfl
@[simp] theorem State.setClk_net (s : State) (x : Clk) : (s.setClk x).net = s.net := rfl
@[simp] theorem State.setClk_fi (s : State) (x : Clk) : (s.setClk x).fi = s.fi := rfl
@[simp] theorem State.setClk_out (s : State) (x : Clk) : (s.setClk x).out = s.out := rfl
@[simp] theorem State.setClk_pending (s : State) (x : Clk) : (s.setClk x).pending = s.pending := rfl
@[simp] theorem State.setClk_self (s : State) (x : Clk) : (s.setClk x).clk = x := rfl
@[simp] theorem State.setClk_get (s : State) (x : Clk) (o : Obj) : (s.setClk x).get o = s.get o := rfl

/-! setBk -/
@[simp] theorem State.setBk_objs (s : State) (x : Backup) : (s.setBk x).objs = s.objs := rfl
@[simp] theorem State.setBk_mem (s : State) (x : Backup) : (s.setBk x).mem = s.mem := rfl
@[simp] theorem State.setBk_up (s : State) (x : Backup) : (s.setBk x).up = s.up := rfl
@[simp] theorem State.setBk_ptOff (s : State) (x : Backup) : (s.setBk x).ptOff = s.ptOff := rfl
@[simp] theorem State.setBk_free (s : State) (x : Backup) : (s.setBk x).free = s.free := rfl
@[simp] theorem State.setBk_evs (s : State) (x : Backup) : (s.setBk x).evs = s.evs := rfl
@[simp] theorem State.setBk_dmas (s : State) (x : Backup) : (s.setBk x).dmas = s.dmas := rfl
@[simp] theorem State.setBk_clk (s : State) (x : Backup) : (s.setBk x).clk = s.clk := rfl
@[simp] theorem State.setBk_jobs (s : State) (x : Backup) : (s.setBk x).jobs = s.jobs := rfl
@[simp] theorem State.setBk_intake (s : State) (x : Backup) : (s.setBk x).intake = s.intake := rfl
@[simp] theorem State.setBk_lanes (s : State) (x : Backup) : (s.setBk x).lanes = s.lanes := rfl
@[simp] theorem State.setBk_scrLive (s : State) (x : Backup) : (s.setBk x).scrLive = s.scrLive := rfl
@[simp] theorem State.setBk_masks (s : State) (x : Backup) : (s.setBk x).masks = s.masks := rfl
@[simp] theorem State.setBk_lodges (s : State) (x : Backup) : (s.setBk x).lodges = s.lodges := rfl
@[simp] theorem State.setBk_scheds (s : State) (x : Backup) : (s.setBk x).scheds = s.scheds := rfl
@[simp] theorem State.setBk_preds (s : State) (x : Backup) : (s.setBk x).preds = s.preds := rfl
@[simp] theorem State.setBk_slow (s : State) (x : Backup) : (s.setBk x).slow = s.slow := rfl
@[simp] theorem State.setBk_tpdoMap (s : State) (x : Backup) : (s.setBk x).tpdoMap = s.tpdoMap := rfl
@[simp] theorem State.setBk_tpdoReady (s : State) (x : Backup) : (s.setBk x).tpdoReady = s.tpdoReady := rfl
@[simp] theorem State.setBk_healths (s : State) (x : Backup) : (s.setBk x).healths = s.healths := rfl
@[simp] theorem State.setBk_links (s : State) (x : Backup) : (s.setBk x).links = s.links := rfl
@[simp] theorem State.setBk_mts (s : State) (x : Backup) : (s.setBk x).mts = s.mts := rfl
@[simp] theorem State.setBk_fires (s : State) (x : Backup) : (s.setBk x).fires = s.fires := rfl
@[simp] theorem State.setBk_pgs (s : State) (x : Backup) : (s.setBk x).pgs = s.pgs := rfl
@[simp] theorem State.setBk_convs (s : State) (x : Backup) : (s.setBk x).convs = s.convs := rfl
@[simp] theorem State.setBk_bank (s : State) (x : Backup) : (s.setBk x).bank = s.bank := rfl
@[simp] theorem State.setBk_axs (s : State) (x : Backup) : (s.setBk x).axs = s.axs := rfl
@[simp] theorem State.setBk_igs (s : State) (x : Backup) : (s.setBk x).igs = s.igs := rfl
@[simp] theorem State.setBk_drives (s : State) (x : Backup) : (s.setBk x).drives = s.drives := rfl
@[simp] theorem State.setBk_pulses (s : State) (x : Backup) : (s.setBk x).pulses = s.pulses := rfl
@[simp] theorem State.setBk_modes (s : State) (x : Backup) : (s.setBk x).modes = s.modes := rfl
@[simp] theorem State.setBk_supply (s : State) (x : Backup) : (s.setBk x).supply = s.supply := rfl
@[simp] theorem State.setBk_pifs (s : State) (x : Backup) : (s.setBk x).pifs = s.pifs := rfl
@[simp] theorem State.setBk_ring (s : State) (x : Backup) : (s.setBk x).ring = s.ring := rfl
@[simp] theorem State.setBk_flash (s : State) (x : Backup) : (s.setBk x).flash = s.flash := rfl
@[simp] theorem State.setBk_otp (s : State) (x : Backup) : (s.setBk x).otp = s.otp := rfl
@[simp] theorem State.setBk_boot (s : State) (x : Backup) : (s.setBk x).boot = s.boot := rfl
@[simp] theorem State.setBk_net (s : State) (x : Backup) : (s.setBk x).net = s.net := rfl
@[simp] theorem State.setBk_fi (s : State) (x : Backup) : (s.setBk x).fi = s.fi := rfl
@[simp] theorem State.setBk_out (s : State) (x : Backup) : (s.setBk x).out = s.out := rfl
@[simp] theorem State.setBk_pending (s : State) (x : Backup) : (s.setBk x).pending = s.pending := rfl
@[simp] theorem State.setBk_self (s : State) (x : Backup) : (s.setBk x).bk = x := rfl
@[simp] theorem State.setBk_get (s : State) (x : Backup) (o : Obj) : (s.setBk x).get o = s.get o := rfl

/-! setModes -/
@[simp] theorem State.setModes_objs (s : State) (x : Modes) : (s.setModes x).objs = s.objs := rfl
@[simp] theorem State.setModes_mem (s : State) (x : Modes) : (s.setModes x).mem = s.mem := rfl
@[simp] theorem State.setModes_up (s : State) (x : Modes) : (s.setModes x).up = s.up := rfl
@[simp] theorem State.setModes_ptOff (s : State) (x : Modes) : (s.setModes x).ptOff = s.ptOff := rfl
@[simp] theorem State.setModes_free (s : State) (x : Modes) : (s.setModes x).free = s.free := rfl
@[simp] theorem State.setModes_evs (s : State) (x : Modes) : (s.setModes x).evs = s.evs := rfl
@[simp] theorem State.setModes_dmas (s : State) (x : Modes) : (s.setModes x).dmas = s.dmas := rfl
@[simp] theorem State.setModes_clk (s : State) (x : Modes) : (s.setModes x).clk = s.clk := rfl
@[simp] theorem State.setModes_jobs (s : State) (x : Modes) : (s.setModes x).jobs = s.jobs := rfl
@[simp] theorem State.setModes_intake (s : State) (x : Modes) : (s.setModes x).intake = s.intake := rfl
@[simp] theorem State.setModes_lanes (s : State) (x : Modes) : (s.setModes x).lanes = s.lanes := rfl
@[simp] theorem State.setModes_scrLive (s : State) (x : Modes) : (s.setModes x).scrLive = s.scrLive := rfl
@[simp] theorem State.setModes_masks (s : State) (x : Modes) : (s.setModes x).masks = s.masks := rfl
@[simp] theorem State.setModes_lodges (s : State) (x : Modes) : (s.setModes x).lodges = s.lodges := rfl
@[simp] theorem State.setModes_scheds (s : State) (x : Modes) : (s.setModes x).scheds = s.scheds := rfl
@[simp] theorem State.setModes_preds (s : State) (x : Modes) : (s.setModes x).preds = s.preds := rfl
@[simp] theorem State.setModes_slow (s : State) (x : Modes) : (s.setModes x).slow = s.slow := rfl
@[simp] theorem State.setModes_bk (s : State) (x : Modes) : (s.setModes x).bk = s.bk := rfl
@[simp] theorem State.setModes_tpdoMap (s : State) (x : Modes) : (s.setModes x).tpdoMap = s.tpdoMap := rfl
@[simp] theorem State.setModes_tpdoReady (s : State) (x : Modes) : (s.setModes x).tpdoReady = s.tpdoReady := rfl
@[simp] theorem State.setModes_healths (s : State) (x : Modes) : (s.setModes x).healths = s.healths := rfl
@[simp] theorem State.setModes_links (s : State) (x : Modes) : (s.setModes x).links = s.links := rfl
@[simp] theorem State.setModes_mts (s : State) (x : Modes) : (s.setModes x).mts = s.mts := rfl
@[simp] theorem State.setModes_fires (s : State) (x : Modes) : (s.setModes x).fires = s.fires := rfl
@[simp] theorem State.setModes_pgs (s : State) (x : Modes) : (s.setModes x).pgs = s.pgs := rfl
@[simp] theorem State.setModes_convs (s : State) (x : Modes) : (s.setModes x).convs = s.convs := rfl
@[simp] theorem State.setModes_bank (s : State) (x : Modes) : (s.setModes x).bank = s.bank := rfl
@[simp] theorem State.setModes_axs (s : State) (x : Modes) : (s.setModes x).axs = s.axs := rfl
@[simp] theorem State.setModes_igs (s : State) (x : Modes) : (s.setModes x).igs = s.igs := rfl
@[simp] theorem State.setModes_drives (s : State) (x : Modes) : (s.setModes x).drives = s.drives := rfl
@[simp] theorem State.setModes_pulses (s : State) (x : Modes) : (s.setModes x).pulses = s.pulses := rfl
@[simp] theorem State.setModes_supply (s : State) (x : Modes) : (s.setModes x).supply = s.supply := rfl
@[simp] theorem State.setModes_pifs (s : State) (x : Modes) : (s.setModes x).pifs = s.pifs := rfl
@[simp] theorem State.setModes_ring (s : State) (x : Modes) : (s.setModes x).ring = s.ring := rfl
@[simp] theorem State.setModes_flash (s : State) (x : Modes) : (s.setModes x).flash = s.flash := rfl
@[simp] theorem State.setModes_otp (s : State) (x : Modes) : (s.setModes x).otp = s.otp := rfl
@[simp] theorem State.setModes_boot (s : State) (x : Modes) : (s.setModes x).boot = s.boot := rfl
@[simp] theorem State.setModes_net (s : State) (x : Modes) : (s.setModes x).net = s.net := rfl
@[simp] theorem State.setModes_fi (s : State) (x : Modes) : (s.setModes x).fi = s.fi := rfl
@[simp] theorem State.setModes_out (s : State) (x : Modes) : (s.setModes x).out = s.out := rfl
@[simp] theorem State.setModes_pending (s : State) (x : Modes) : (s.setModes x).pending = s.pending := rfl
@[simp] theorem State.setModes_self (s : State) (x : Modes) : (s.setModes x).modes = x := rfl
@[simp] theorem State.setModes_get (s : State) (x : Modes) (o : Obj) : (s.setModes x).get o = s.get o := rfl

/-! setBank -/
@[simp] theorem State.setBank_objs (s : State) (x : Bank) : (s.setBank x).objs = s.objs := rfl
@[simp] theorem State.setBank_mem (s : State) (x : Bank) : (s.setBank x).mem = s.mem := rfl
@[simp] theorem State.setBank_up (s : State) (x : Bank) : (s.setBank x).up = s.up := rfl
@[simp] theorem State.setBank_ptOff (s : State) (x : Bank) : (s.setBank x).ptOff = s.ptOff := rfl
@[simp] theorem State.setBank_free (s : State) (x : Bank) : (s.setBank x).free = s.free := rfl
@[simp] theorem State.setBank_evs (s : State) (x : Bank) : (s.setBank x).evs = s.evs := rfl
@[simp] theorem State.setBank_dmas (s : State) (x : Bank) : (s.setBank x).dmas = s.dmas := rfl
@[simp] theorem State.setBank_clk (s : State) (x : Bank) : (s.setBank x).clk = s.clk := rfl
@[simp] theorem State.setBank_jobs (s : State) (x : Bank) : (s.setBank x).jobs = s.jobs := rfl
@[simp] theorem State.setBank_intake (s : State) (x : Bank) : (s.setBank x).intake = s.intake := rfl
@[simp] theorem State.setBank_lanes (s : State) (x : Bank) : (s.setBank x).lanes = s.lanes := rfl
@[simp] theorem State.setBank_scrLive (s : State) (x : Bank) : (s.setBank x).scrLive = s.scrLive := rfl
@[simp] theorem State.setBank_masks (s : State) (x : Bank) : (s.setBank x).masks = s.masks := rfl
@[simp] theorem State.setBank_lodges (s : State) (x : Bank) : (s.setBank x).lodges = s.lodges := rfl
@[simp] theorem State.setBank_scheds (s : State) (x : Bank) : (s.setBank x).scheds = s.scheds := rfl
@[simp] theorem State.setBank_preds (s : State) (x : Bank) : (s.setBank x).preds = s.preds := rfl
@[simp] theorem State.setBank_slow (s : State) (x : Bank) : (s.setBank x).slow = s.slow := rfl
@[simp] theorem State.setBank_bk (s : State) (x : Bank) : (s.setBank x).bk = s.bk := rfl
@[simp] theorem State.setBank_tpdoMap (s : State) (x : Bank) : (s.setBank x).tpdoMap = s.tpdoMap := rfl
@[simp] theorem State.setBank_tpdoReady (s : State) (x : Bank) : (s.setBank x).tpdoReady = s.tpdoReady := rfl
@[simp] theorem State.setBank_healths (s : State) (x : Bank) : (s.setBank x).healths = s.healths := rfl
@[simp] theorem State.setBank_links (s : State) (x : Bank) : (s.setBank x).links = s.links := rfl
@[simp] theorem State.setBank_mts (s : State) (x : Bank) : (s.setBank x).mts = s.mts := rfl
@[simp] theorem State.setBank_fires (s : State) (x : Bank) : (s.setBank x).fires = s.fires := rfl
@[simp] theorem State.setBank_pgs (s : State) (x : Bank) : (s.setBank x).pgs = s.pgs := rfl
@[simp] theorem State.setBank_convs (s : State) (x : Bank) : (s.setBank x).convs = s.convs := rfl
@[simp] theorem State.setBank_axs (s : State) (x : Bank) : (s.setBank x).axs = s.axs := rfl
@[simp] theorem State.setBank_igs (s : State) (x : Bank) : (s.setBank x).igs = s.igs := rfl
@[simp] theorem State.setBank_drives (s : State) (x : Bank) : (s.setBank x).drives = s.drives := rfl
@[simp] theorem State.setBank_pulses (s : State) (x : Bank) : (s.setBank x).pulses = s.pulses := rfl
@[simp] theorem State.setBank_modes (s : State) (x : Bank) : (s.setBank x).modes = s.modes := rfl
@[simp] theorem State.setBank_supply (s : State) (x : Bank) : (s.setBank x).supply = s.supply := rfl
@[simp] theorem State.setBank_pifs (s : State) (x : Bank) : (s.setBank x).pifs = s.pifs := rfl
@[simp] theorem State.setBank_ring (s : State) (x : Bank) : (s.setBank x).ring = s.ring := rfl
@[simp] theorem State.setBank_flash (s : State) (x : Bank) : (s.setBank x).flash = s.flash := rfl
@[simp] theorem State.setBank_otp (s : State) (x : Bank) : (s.setBank x).otp = s.otp := rfl
@[simp] theorem State.setBank_boot (s : State) (x : Bank) : (s.setBank x).boot = s.boot := rfl
@[simp] theorem State.setBank_net (s : State) (x : Bank) : (s.setBank x).net = s.net := rfl
@[simp] theorem State.setBank_fi (s : State) (x : Bank) : (s.setBank x).fi = s.fi := rfl
@[simp] theorem State.setBank_out (s : State) (x : Bank) : (s.setBank x).out = s.out := rfl
@[simp] theorem State.setBank_pending (s : State) (x : Bank) : (s.setBank x).pending = s.pending := rfl
@[simp] theorem State.setBank_self (s : State) (x : Bank) : (s.setBank x).bank = x := rfl
@[simp] theorem State.setBank_get (s : State) (x : Bank) (o : Obj) : (s.setBank x).get o = s.get o := rfl

/-! setSlow -/
@[simp] theorem State.setSlow_objs (s : State) (x : Slow) : (s.setSlow x).objs = s.objs := rfl
@[simp] theorem State.setSlow_mem (s : State) (x : Slow) : (s.setSlow x).mem = s.mem := rfl
@[simp] theorem State.setSlow_up (s : State) (x : Slow) : (s.setSlow x).up = s.up := rfl
@[simp] theorem State.setSlow_ptOff (s : State) (x : Slow) : (s.setSlow x).ptOff = s.ptOff := rfl
@[simp] theorem State.setSlow_free (s : State) (x : Slow) : (s.setSlow x).free = s.free := rfl
@[simp] theorem State.setSlow_evs (s : State) (x : Slow) : (s.setSlow x).evs = s.evs := rfl
@[simp] theorem State.setSlow_dmas (s : State) (x : Slow) : (s.setSlow x).dmas = s.dmas := rfl
@[simp] theorem State.setSlow_clk (s : State) (x : Slow) : (s.setSlow x).clk = s.clk := rfl
@[simp] theorem State.setSlow_jobs (s : State) (x : Slow) : (s.setSlow x).jobs = s.jobs := rfl
@[simp] theorem State.setSlow_intake (s : State) (x : Slow) : (s.setSlow x).intake = s.intake := rfl
@[simp] theorem State.setSlow_lanes (s : State) (x : Slow) : (s.setSlow x).lanes = s.lanes := rfl
@[simp] theorem State.setSlow_scrLive (s : State) (x : Slow) : (s.setSlow x).scrLive = s.scrLive := rfl
@[simp] theorem State.setSlow_masks (s : State) (x : Slow) : (s.setSlow x).masks = s.masks := rfl
@[simp] theorem State.setSlow_lodges (s : State) (x : Slow) : (s.setSlow x).lodges = s.lodges := rfl
@[simp] theorem State.setSlow_scheds (s : State) (x : Slow) : (s.setSlow x).scheds = s.scheds := rfl
@[simp] theorem State.setSlow_preds (s : State) (x : Slow) : (s.setSlow x).preds = s.preds := rfl
@[simp] theorem State.setSlow_bk (s : State) (x : Slow) : (s.setSlow x).bk = s.bk := rfl
@[simp] theorem State.setSlow_tpdoMap (s : State) (x : Slow) : (s.setSlow x).tpdoMap = s.tpdoMap := rfl
@[simp] theorem State.setSlow_tpdoReady (s : State) (x : Slow) : (s.setSlow x).tpdoReady = s.tpdoReady := rfl
@[simp] theorem State.setSlow_healths (s : State) (x : Slow) : (s.setSlow x).healths = s.healths := rfl
@[simp] theorem State.setSlow_links (s : State) (x : Slow) : (s.setSlow x).links = s.links := rfl
@[simp] theorem State.setSlow_mts (s : State) (x : Slow) : (s.setSlow x).mts = s.mts := rfl
@[simp] theorem State.setSlow_fires (s : State) (x : Slow) : (s.setSlow x).fires = s.fires := rfl
@[simp] theorem State.setSlow_pgs (s : State) (x : Slow) : (s.setSlow x).pgs = s.pgs := rfl
@[simp] theorem State.setSlow_convs (s : State) (x : Slow) : (s.setSlow x).convs = s.convs := rfl
@[simp] theorem State.setSlow_bank (s : State) (x : Slow) : (s.setSlow x).bank = s.bank := rfl
@[simp] theorem State.setSlow_axs (s : State) (x : Slow) : (s.setSlow x).axs = s.axs := rfl
@[simp] theorem State.setSlow_igs (s : State) (x : Slow) : (s.setSlow x).igs = s.igs := rfl
@[simp] theorem State.setSlow_drives (s : State) (x : Slow) : (s.setSlow x).drives = s.drives := rfl
@[simp] theorem State.setSlow_pulses (s : State) (x : Slow) : (s.setSlow x).pulses = s.pulses := rfl
@[simp] theorem State.setSlow_modes (s : State) (x : Slow) : (s.setSlow x).modes = s.modes := rfl
@[simp] theorem State.setSlow_supply (s : State) (x : Slow) : (s.setSlow x).supply = s.supply := rfl
@[simp] theorem State.setSlow_pifs (s : State) (x : Slow) : (s.setSlow x).pifs = s.pifs := rfl
@[simp] theorem State.setSlow_ring (s : State) (x : Slow) : (s.setSlow x).ring = s.ring := rfl
@[simp] theorem State.setSlow_flash (s : State) (x : Slow) : (s.setSlow x).flash = s.flash := rfl
@[simp] theorem State.setSlow_otp (s : State) (x : Slow) : (s.setSlow x).otp = s.otp := rfl
@[simp] theorem State.setSlow_boot (s : State) (x : Slow) : (s.setSlow x).boot = s.boot := rfl
@[simp] theorem State.setSlow_net (s : State) (x : Slow) : (s.setSlow x).net = s.net := rfl
@[simp] theorem State.setSlow_fi (s : State) (x : Slow) : (s.setSlow x).fi = s.fi := rfl
@[simp] theorem State.setSlow_out (s : State) (x : Slow) : (s.setSlow x).out = s.out := rfl
@[simp] theorem State.setSlow_pending (s : State) (x : Slow) : (s.setSlow x).pending = s.pending := rfl
@[simp] theorem State.setSlow_self (s : State) (x : Slow) : (s.setSlow x).slow = x := rfl
@[simp] theorem State.setSlow_get (s : State) (x : Slow) (o : Obj) : (s.setSlow x).get o = s.get o := rfl

/-! setBoot -/
@[simp] theorem State.setBoot_objs (s : State) (x : Boot) : (s.setBoot x).objs = s.objs := rfl
@[simp] theorem State.setBoot_mem (s : State) (x : Boot) : (s.setBoot x).mem = s.mem := rfl
@[simp] theorem State.setBoot_up (s : State) (x : Boot) : (s.setBoot x).up = s.up := rfl
@[simp] theorem State.setBoot_ptOff (s : State) (x : Boot) : (s.setBoot x).ptOff = s.ptOff := rfl
@[simp] theorem State.setBoot_free (s : State) (x : Boot) : (s.setBoot x).free = s.free := rfl
@[simp] theorem State.setBoot_evs (s : State) (x : Boot) : (s.setBoot x).evs = s.evs := rfl
@[simp] theorem State.setBoot_dmas (s : State) (x : Boot) : (s.setBoot x).dmas = s.dmas := rfl
@[simp] theorem State.setBoot_clk (s : State) (x : Boot) : (s.setBoot x).clk = s.clk := rfl
@[simp] theorem State.setBoot_jobs (s : State) (x : Boot) : (s.setBoot x).jobs = s.jobs := rfl
@[simp] theorem State.setBoot_intake (s : State) (x : Boot) : (s.setBoot x).intake = s.intake := rfl
@[simp] theorem State.setBoot_lanes (s : State) (x : Boot) : (s.setBoot x).lanes = s.lanes := rfl
@[simp] theorem State.setBoot_scrLive (s : State) (x : Boot) : (s.setBoot x).scrLive = s.scrLive := rfl
@[simp] theorem State.setBoot_masks (s : State) (x : Boot) : (s.setBoot x).masks = s.masks := rfl
@[simp] theorem State.setBoot_lodges (s : State) (x : Boot) : (s.setBoot x).lodges = s.lodges := rfl
@[simp] theorem State.setBoot_scheds (s : State) (x : Boot) : (s.setBoot x).scheds = s.scheds := rfl
@[simp] theorem State.setBoot_preds (s : State) (x : Boot) : (s.setBoot x).preds = s.preds := rfl
@[simp] theorem State.setBoot_slow (s : State) (x : Boot) : (s.setBoot x).slow = s.slow := rfl
@[simp] theorem State.setBoot_bk (s : State) (x : Boot) : (s.setBoot x).bk = s.bk := rfl
@[simp] theorem State.setBoot_tpdoMap (s : State) (x : Boot) : (s.setBoot x).tpdoMap = s.tpdoMap := rfl
@[simp] theorem State.setBoot_tpdoReady (s : State) (x : Boot) : (s.setBoot x).tpdoReady = s.tpdoReady := rfl
@[simp] theorem State.setBoot_healths (s : State) (x : Boot) : (s.setBoot x).healths = s.healths := rfl
@[simp] theorem State.setBoot_links (s : State) (x : Boot) : (s.setBoot x).links = s.links := rfl
@[simp] theorem State.setBoot_mts (s : State) (x : Boot) : (s.setBoot x).mts = s.mts := rfl
@[simp] theorem State.setBoot_fires (s : State) (x : Boot) : (s.setBoot x).fires = s.fires := rfl
@[simp] theorem State.setBoot_pgs (s : State) (x : Boot) : (s.setBoot x).pgs = s.pgs := rfl
@[simp] theorem State.setBoot_convs (s : State) (x : Boot) : (s.setBoot x).convs = s.convs := rfl
@[simp] theorem State.setBoot_bank (s : State) (x : Boot) : (s.setBoot x).bank = s.bank := rfl
@[simp] theorem State.setBoot_axs (s : State) (x : Boot) : (s.setBoot x).axs = s.axs := rfl
@[simp] theorem State.setBoot_igs (s : State) (x : Boot) : (s.setBoot x).igs = s.igs := rfl
@[simp] theorem State.setBoot_drives (s : State) (x : Boot) : (s.setBoot x).drives = s.drives := rfl
@[simp] theorem State.setBoot_pulses (s : State) (x : Boot) : (s.setBoot x).pulses = s.pulses := rfl
@[simp] theorem State.setBoot_modes (s : State) (x : Boot) : (s.setBoot x).modes = s.modes := rfl
@[simp] theorem State.setBoot_supply (s : State) (x : Boot) : (s.setBoot x).supply = s.supply := rfl
@[simp] theorem State.setBoot_pifs (s : State) (x : Boot) : (s.setBoot x).pifs = s.pifs := rfl
@[simp] theorem State.setBoot_ring (s : State) (x : Boot) : (s.setBoot x).ring = s.ring := rfl
@[simp] theorem State.setBoot_flash (s : State) (x : Boot) : (s.setBoot x).flash = s.flash := rfl
@[simp] theorem State.setBoot_otp (s : State) (x : Boot) : (s.setBoot x).otp = s.otp := rfl
@[simp] theorem State.setBoot_net (s : State) (x : Boot) : (s.setBoot x).net = s.net := rfl
@[simp] theorem State.setBoot_fi (s : State) (x : Boot) : (s.setBoot x).fi = s.fi := rfl
@[simp] theorem State.setBoot_out (s : State) (x : Boot) : (s.setBoot x).out = s.out := rfl
@[simp] theorem State.setBoot_pending (s : State) (x : Boot) : (s.setBoot x).pending = s.pending := rfl
@[simp] theorem State.setBoot_self (s : State) (x : Boot) : (s.setBoot x).boot = x := rfl
@[simp] theorem State.setBoot_get (s : State) (x : Boot) (o : Obj) : (s.setBoot x).get o = s.get o := rfl

/-! setSupply -/
@[simp] theorem State.setSupply_objs (s : State) (x : Supply) : (s.setSupply x).objs = s.objs := rfl
@[simp] theorem State.setSupply_mem (s : State) (x : Supply) : (s.setSupply x).mem = s.mem := rfl
@[simp] theorem State.setSupply_up (s : State) (x : Supply) : (s.setSupply x).up = s.up := rfl
@[simp] theorem State.setSupply_ptOff (s : State) (x : Supply) : (s.setSupply x).ptOff = s.ptOff := rfl
@[simp] theorem State.setSupply_free (s : State) (x : Supply) : (s.setSupply x).free = s.free := rfl
@[simp] theorem State.setSupply_evs (s : State) (x : Supply) : (s.setSupply x).evs = s.evs := rfl
@[simp] theorem State.setSupply_dmas (s : State) (x : Supply) : (s.setSupply x).dmas = s.dmas := rfl
@[simp] theorem State.setSupply_clk (s : State) (x : Supply) : (s.setSupply x).clk = s.clk := rfl
@[simp] theorem State.setSupply_jobs (s : State) (x : Supply) : (s.setSupply x).jobs = s.jobs := rfl
@[simp] theorem State.setSupply_intake (s : State) (x : Supply) : (s.setSupply x).intake = s.intake := rfl
@[simp] theorem State.setSupply_lanes (s : State) (x : Supply) : (s.setSupply x).lanes = s.lanes := rfl
@[simp] theorem State.setSupply_scrLive (s : State) (x : Supply) : (s.setSupply x).scrLive = s.scrLive := rfl
@[simp] theorem State.setSupply_masks (s : State) (x : Supply) : (s.setSupply x).masks = s.masks := rfl
@[simp] theorem State.setSupply_lodges (s : State) (x : Supply) : (s.setSupply x).lodges = s.lodges := rfl
@[simp] theorem State.setSupply_scheds (s : State) (x : Supply) : (s.setSupply x).scheds = s.scheds := rfl
@[simp] theorem State.setSupply_preds (s : State) (x : Supply) : (s.setSupply x).preds = s.preds := rfl
@[simp] theorem State.setSupply_slow (s : State) (x : Supply) : (s.setSupply x).slow = s.slow := rfl
@[simp] theorem State.setSupply_bk (s : State) (x : Supply) : (s.setSupply x).bk = s.bk := rfl
@[simp] theorem State.setSupply_tpdoMap (s : State) (x : Supply) : (s.setSupply x).tpdoMap = s.tpdoMap := rfl
@[simp] theorem State.setSupply_tpdoReady (s : State) (x : Supply) : (s.setSupply x).tpdoReady = s.tpdoReady := rfl
@[simp] theorem State.setSupply_healths (s : State) (x : Supply) : (s.setSupply x).healths = s.healths := rfl
@[simp] theorem State.setSupply_links (s : State) (x : Supply) : (s.setSupply x).links = s.links := rfl
@[simp] theorem State.setSupply_mts (s : State) (x : Supply) : (s.setSupply x).mts = s.mts := rfl
@[simp] theorem State.setSupply_fires (s : State) (x : Supply) : (s.setSupply x).fires = s.fires := rfl
@[simp] theorem State.setSupply_pgs (s : State) (x : Supply) : (s.setSupply x).pgs = s.pgs := rfl
@[simp] theorem State.setSupply_convs (s : State) (x : Supply) : (s.setSupply x).convs = s.convs := rfl
@[simp] theorem State.setSupply_bank (s : State) (x : Supply) : (s.setSupply x).bank = s.bank := rfl
@[simp] theorem State.setSupply_axs (s : State) (x : Supply) : (s.setSupply x).axs = s.axs := rfl
@[simp] theorem State.setSupply_igs (s : State) (x : Supply) : (s.setSupply x).igs = s.igs := rfl
@[simp] theorem State.setSupply_drives (s : State) (x : Supply) : (s.setSupply x).drives = s.drives := rfl
@[simp] theorem State.setSupply_pulses (s : State) (x : Supply) : (s.setSupply x).pulses = s.pulses := rfl
@[simp] theorem State.setSupply_modes (s : State) (x : Supply) : (s.setSupply x).modes = s.modes := rfl
@[simp] theorem State.setSupply_pifs (s : State) (x : Supply) : (s.setSupply x).pifs = s.pifs := rfl
@[simp] theorem State.setSupply_ring (s : State) (x : Supply) : (s.setSupply x).ring = s.ring := rfl
@[simp] theorem State.setSupply_flash (s : State) (x : Supply) : (s.setSupply x).flash = s.flash := rfl
@[simp] theorem State.setSupply_otp (s : State) (x : Supply) : (s.setSupply x).otp = s.otp := rfl
@[simp] theorem State.setSupply_boot (s : State) (x : Supply) : (s.setSupply x).boot = s.boot := rfl
@[simp] theorem State.setSupply_net (s : State) (x : Supply) : (s.setSupply x).net = s.net := rfl
@[simp] theorem State.setSupply_fi (s : State) (x : Supply) : (s.setSupply x).fi = s.fi := rfl
@[simp] theorem State.setSupply_out (s : State) (x : Supply) : (s.setSupply x).out = s.out := rfl
@[simp] theorem State.setSupply_pending (s : State) (x : Supply) : (s.setSupply x).pending = s.pending := rfl
@[simp] theorem State.setSupply_self (s : State) (x : Supply) : (s.setSupply x).supply = x := rfl
@[simp] theorem State.setSupply_get (s : State) (x : Supply) (o : Obj) : (s.setSupply x).get o = s.get o := rfl

/-! setFi -/
@[simp] theorem State.setFi_objs (s : State) (x : Inject) : (s.setFi x).objs = s.objs := rfl
@[simp] theorem State.setFi_mem (s : State) (x : Inject) : (s.setFi x).mem = s.mem := rfl
@[simp] theorem State.setFi_up (s : State) (x : Inject) : (s.setFi x).up = s.up := rfl
@[simp] theorem State.setFi_ptOff (s : State) (x : Inject) : (s.setFi x).ptOff = s.ptOff := rfl
@[simp] theorem State.setFi_free (s : State) (x : Inject) : (s.setFi x).free = s.free := rfl
@[simp] theorem State.setFi_evs (s : State) (x : Inject) : (s.setFi x).evs = s.evs := rfl
@[simp] theorem State.setFi_dmas (s : State) (x : Inject) : (s.setFi x).dmas = s.dmas := rfl
@[simp] theorem State.setFi_clk (s : State) (x : Inject) : (s.setFi x).clk = s.clk := rfl
@[simp] theorem State.setFi_jobs (s : State) (x : Inject) : (s.setFi x).jobs = s.jobs := rfl
@[simp] theorem State.setFi_intake (s : State) (x : Inject) : (s.setFi x).intake = s.intake := rfl
@[simp] theorem State.setFi_lanes (s : State) (x : Inject) : (s.setFi x).lanes = s.lanes := rfl
@[simp] theorem State.setFi_scrLive (s : State) (x : Inject) : (s.setFi x).scrLive = s.scrLive := rfl
@[simp] theorem State.setFi_masks (s : State) (x : Inject) : (s.setFi x).masks = s.masks := rfl
@[simp] theorem State.setFi_lodges (s : State) (x : Inject) : (s.setFi x).lodges = s.lodges := rfl
@[simp] theorem State.setFi_scheds (s : State) (x : Inject) : (s.setFi x).scheds = s.scheds := rfl
@[simp] theorem State.setFi_preds (s : State) (x : Inject) : (s.setFi x).preds = s.preds := rfl
@[simp] theorem State.setFi_slow (s : State) (x : Inject) : (s.setFi x).slow = s.slow := rfl
@[simp] theorem State.setFi_bk (s : State) (x : Inject) : (s.setFi x).bk = s.bk := rfl
@[simp] theorem State.setFi_tpdoMap (s : State) (x : Inject) : (s.setFi x).tpdoMap = s.tpdoMap := rfl
@[simp] theorem State.setFi_tpdoReady (s : State) (x : Inject) : (s.setFi x).tpdoReady = s.tpdoReady := rfl
@[simp] theorem State.setFi_healths (s : State) (x : Inject) : (s.setFi x).healths = s.healths := rfl
@[simp] theorem State.setFi_links (s : State) (x : Inject) : (s.setFi x).links = s.links := rfl
@[simp] theorem State.setFi_mts (s : State) (x : Inject) : (s.setFi x).mts = s.mts := rfl
@[simp] theorem State.setFi_fires (s : State) (x : Inject) : (s.setFi x).fires = s.fires := rfl
@[simp] theorem State.setFi_pgs (s : State) (x : Inject) : (s.setFi x).pgs = s.pgs := rfl
@[simp] theorem State.setFi_convs (s : State) (x : Inject) : (s.setFi x).convs = s.convs := rfl
@[simp] theorem State.setFi_bank (s : State) (x : Inject) : (s.setFi x).bank = s.bank := rfl
@[simp] theorem State.setFi_axs (s : State) (x : Inject) : (s.setFi x).axs = s.axs := rfl
@[simp] theorem State.setFi_igs (s : State) (x : Inject) : (s.setFi x).igs = s.igs := rfl
@[simp] theorem State.setFi_drives (s : State) (x : Inject) : (s.setFi x).drives = s.drives := rfl
@[simp] theorem State.setFi_pulses (s : State) (x : Inject) : (s.setFi x).pulses = s.pulses := rfl
@[simp] theorem State.setFi_modes (s : State) (x : Inject) : (s.setFi x).modes = s.modes := rfl
@[simp] theorem State.setFi_supply (s : State) (x : Inject) : (s.setFi x).supply = s.supply := rfl
@[simp] theorem State.setFi_pifs (s : State) (x : Inject) : (s.setFi x).pifs = s.pifs := rfl
@[simp] theorem State.setFi_ring (s : State) (x : Inject) : (s.setFi x).ring = s.ring := rfl
@[simp] theorem State.setFi_flash (s : State) (x : Inject) : (s.setFi x).flash = s.flash := rfl
@[simp] theorem State.setFi_otp (s : State) (x : Inject) : (s.setFi x).otp = s.otp := rfl
@[simp] theorem State.setFi_boot (s : State) (x : Inject) : (s.setFi x).boot = s.boot := rfl
@[simp] theorem State.setFi_net (s : State) (x : Inject) : (s.setFi x).net = s.net := rfl
@[simp] theorem State.setFi_out (s : State) (x : Inject) : (s.setFi x).out = s.out := rfl
@[simp] theorem State.setFi_pending (s : State) (x : Inject) : (s.setFi x).pending = s.pending := rfl
@[simp] theorem State.setFi_self (s : State) (x : Inject) : (s.setFi x).fi = x := rfl
@[simp] theorem State.setFi_get (s : State) (x : Inject) (o : Obj) : (s.setFi x).get o = s.get o := rfl

/-! setFlash -/
@[simp] theorem State.setFlash_objs (s : State) (x : Flash) : (s.setFlash x).objs = s.objs := rfl
@[simp] theorem State.setFlash_mem (s : State) (x : Flash) : (s.setFlash x).mem = s.mem := rfl
@[simp] theorem State.setFlash_up (s : State) (x : Flash) : (s.setFlash x).up = s.up := rfl
@[simp] theorem State.setFlash_ptOff (s : State) (x : Flash) : (s.setFlash x).ptOff = s.ptOff := rfl
@[simp] theorem State.setFlash_free (s : State) (x : Flash) : (s.setFlash x).free = s.free := rfl
@[simp] theorem State.setFlash_evs (s : State) (x : Flash) : (s.setFlash x).evs = s.evs := rfl
@[simp] theorem State.setFlash_dmas (s : State) (x : Flash) : (s.setFlash x).dmas = s.dmas := rfl
@[simp] theorem State.setFlash_clk (s : State) (x : Flash) : (s.setFlash x).clk = s.clk := rfl
@[simp] theorem State.setFlash_jobs (s : State) (x : Flash) : (s.setFlash x).jobs = s.jobs := rfl
@[simp] theorem State.setFlash_intake (s : State) (x : Flash) : (s.setFlash x).intake = s.intake := rfl
@[simp] theorem State.setFlash_lanes (s : State) (x : Flash) : (s.setFlash x).lanes = s.lanes := rfl
@[simp] theorem State.setFlash_scrLive (s : State) (x : Flash) : (s.setFlash x).scrLive = s.scrLive := rfl
@[simp] theorem State.setFlash_masks (s : State) (x : Flash) : (s.setFlash x).masks = s.masks := rfl
@[simp] theorem State.setFlash_lodges (s : State) (x : Flash) : (s.setFlash x).lodges = s.lodges := rfl
@[simp] theorem State.setFlash_scheds (s : State) (x : Flash) : (s.setFlash x).scheds = s.scheds := rfl
@[simp] theorem State.setFlash_preds (s : State) (x : Flash) : (s.setFlash x).preds = s.preds := rfl
@[simp] theorem State.setFlash_slow (s : State) (x : Flash) : (s.setFlash x).slow = s.slow := rfl
@[simp] theorem State.setFlash_bk (s : State) (x : Flash) : (s.setFlash x).bk = s.bk := rfl
@[simp] theorem State.setFlash_tpdoMap (s : State) (x : Flash) : (s.setFlash x).tpdoMap = s.tpdoMap := rfl
@[simp] theorem State.setFlash_tpdoReady (s : State) (x : Flash) : (s.setFlash x).tpdoReady = s.tpdoReady := rfl
@[simp] theorem State.setFlash_healths (s : State) (x : Flash) : (s.setFlash x).healths = s.healths := rfl
@[simp] theorem State.setFlash_links (s : State) (x : Flash) : (s.setFlash x).links = s.links := rfl
@[simp] theorem State.setFlash_mts (s : State) (x : Flash) : (s.setFlash x).mts = s.mts := rfl
@[simp] theorem State.setFlash_fires (s : State) (x : Flash) : (s.setFlash x).fires = s.fires := rfl
@[simp] theorem State.setFlash_pgs (s : State) (x : Flash) : (s.setFlash x).pgs = s.pgs := rfl
@[simp] theorem State.setFlash_convs (s : State) (x : Flash) : (s.setFlash x).convs = s.convs := rfl
@[simp] theorem State.setFlash_bank (s : State) (x : Flash) : (s.setFlash x).bank = s.bank := rfl
@[simp] theorem State.setFlash_axs (s : State) (x : Flash) : (s.setFlash x).axs = s.axs := rfl
@[simp] theorem State.setFlash_igs (s : State) (x : Flash) : (s.setFlash x).igs = s.igs := rfl
@[simp] theorem State.setFlash_drives (s : State) (x : Flash) : (s.setFlash x).drives = s.drives := rfl
@[simp] theorem State.setFlash_pulses (s : State) (x : Flash) : (s.setFlash x).pulses = s.pulses := rfl
@[simp] theorem State.setFlash_modes (s : State) (x : Flash) : (s.setFlash x).modes = s.modes := rfl
@[simp] theorem State.setFlash_supply (s : State) (x : Flash) : (s.setFlash x).supply = s.supply := rfl
@[simp] theorem State.setFlash_pifs (s : State) (x : Flash) : (s.setFlash x).pifs = s.pifs := rfl
@[simp] theorem State.setFlash_ring (s : State) (x : Flash) : (s.setFlash x).ring = s.ring := rfl
@[simp] theorem State.setFlash_otp (s : State) (x : Flash) : (s.setFlash x).otp = s.otp := rfl
@[simp] theorem State.setFlash_boot (s : State) (x : Flash) : (s.setFlash x).boot = s.boot := rfl
@[simp] theorem State.setFlash_net (s : State) (x : Flash) : (s.setFlash x).net = s.net := rfl
@[simp] theorem State.setFlash_fi (s : State) (x : Flash) : (s.setFlash x).fi = s.fi := rfl
@[simp] theorem State.setFlash_out (s : State) (x : Flash) : (s.setFlash x).out = s.out := rfl
@[simp] theorem State.setFlash_pending (s : State) (x : Flash) : (s.setFlash x).pending = s.pending := rfl
@[simp] theorem State.setFlash_self (s : State) (x : Flash) : (s.setFlash x).flash = x := rfl
@[simp] theorem State.setFlash_get (s : State) (x : Flash) (o : Obj) : (s.setFlash x).get o = s.get o := rfl

/-! setOtp -/
@[simp] theorem State.setOtp_objs (s : State) (x : Otp) : (s.setOtp x).objs = s.objs := rfl
@[simp] theorem State.setOtp_mem (s : State) (x : Otp) : (s.setOtp x).mem = s.mem := rfl
@[simp] theorem State.setOtp_up (s : State) (x : Otp) : (s.setOtp x).up = s.up := rfl
@[simp] theorem State.setOtp_ptOff (s : State) (x : Otp) : (s.setOtp x).ptOff = s.ptOff := rfl
@[simp] theorem State.setOtp_free (s : State) (x : Otp) : (s.setOtp x).free = s.free := rfl
@[simp] theorem State.setOtp_evs (s : State) (x : Otp) : (s.setOtp x).evs = s.evs := rfl
@[simp] theorem State.setOtp_dmas (s : State) (x : Otp) : (s.setOtp x).dmas = s.dmas := rfl
@[simp] theorem State.setOtp_clk (s : State) (x : Otp) : (s.setOtp x).clk = s.clk := rfl
@[simp] theorem State.setOtp_jobs (s : State) (x : Otp) : (s.setOtp x).jobs = s.jobs := rfl
@[simp] theorem State.setOtp_intake (s : State) (x : Otp) : (s.setOtp x).intake = s.intake := rfl
@[simp] theorem State.setOtp_lanes (s : State) (x : Otp) : (s.setOtp x).lanes = s.lanes := rfl
@[simp] theorem State.setOtp_scrLive (s : State) (x : Otp) : (s.setOtp x).scrLive = s.scrLive := rfl
@[simp] theorem State.setOtp_masks (s : State) (x : Otp) : (s.setOtp x).masks = s.masks := rfl
@[simp] theorem State.setOtp_lodges (s : State) (x : Otp) : (s.setOtp x).lodges = s.lodges := rfl
@[simp] theorem State.setOtp_scheds (s : State) (x : Otp) : (s.setOtp x).scheds = s.scheds := rfl
@[simp] theorem State.setOtp_preds (s : State) (x : Otp) : (s.setOtp x).preds = s.preds := rfl
@[simp] theorem State.setOtp_slow (s : State) (x : Otp) : (s.setOtp x).slow = s.slow := rfl
@[simp] theorem State.setOtp_bk (s : State) (x : Otp) : (s.setOtp x).bk = s.bk := rfl
@[simp] theorem State.setOtp_tpdoMap (s : State) (x : Otp) : (s.setOtp x).tpdoMap = s.tpdoMap := rfl
@[simp] theorem State.setOtp_tpdoReady (s : State) (x : Otp) : (s.setOtp x).tpdoReady = s.tpdoReady := rfl
@[simp] theorem State.setOtp_healths (s : State) (x : Otp) : (s.setOtp x).healths = s.healths := rfl
@[simp] theorem State.setOtp_links (s : State) (x : Otp) : (s.setOtp x).links = s.links := rfl
@[simp] theorem State.setOtp_mts (s : State) (x : Otp) : (s.setOtp x).mts = s.mts := rfl
@[simp] theorem State.setOtp_fires (s : State) (x : Otp) : (s.setOtp x).fires = s.fires := rfl
@[simp] theorem State.setOtp_pgs (s : State) (x : Otp) : (s.setOtp x).pgs = s.pgs := rfl
@[simp] theorem State.setOtp_convs (s : State) (x : Otp) : (s.setOtp x).convs = s.convs := rfl
@[simp] theorem State.setOtp_bank (s : State) (x : Otp) : (s.setOtp x).bank = s.bank := rfl
@[simp] theorem State.setOtp_axs (s : State) (x : Otp) : (s.setOtp x).axs = s.axs := rfl
@[simp] theorem State.setOtp_igs (s : State) (x : Otp) : (s.setOtp x).igs = s.igs := rfl
@[simp] theorem State.setOtp_drives (s : State) (x : Otp) : (s.setOtp x).drives = s.drives := rfl
@[simp] theorem State.setOtp_pulses (s : State) (x : Otp) : (s.setOtp x).pulses = s.pulses := rfl
@[simp] theorem State.setOtp_modes (s : State) (x : Otp) : (s.setOtp x).modes = s.modes := rfl
@[simp] theorem State.setOtp_supply (s : State) (x : Otp) : (s.setOtp x).supply = s.supply := rfl
@[simp] theorem State.setOtp_pifs (s : State) (x : Otp) : (s.setOtp x).pifs = s.pifs := rfl
@[simp] theorem State.setOtp_ring (s : State) (x : Otp) : (s.setOtp x).ring = s.ring := rfl
@[simp] theorem State.setOtp_flash (s : State) (x : Otp) : (s.setOtp x).flash = s.flash := rfl
@[simp] theorem State.setOtp_boot (s : State) (x : Otp) : (s.setOtp x).boot = s.boot := rfl
@[simp] theorem State.setOtp_net (s : State) (x : Otp) : (s.setOtp x).net = s.net := rfl
@[simp] theorem State.setOtp_fi (s : State) (x : Otp) : (s.setOtp x).fi = s.fi := rfl
@[simp] theorem State.setOtp_out (s : State) (x : Otp) : (s.setOtp x).out = s.out := rfl
@[simp] theorem State.setOtp_pending (s : State) (x : Otp) : (s.setOtp x).pending = s.pending := rfl
@[simp] theorem State.setOtp_self (s : State) (x : Otp) : (s.setOtp x).otp = x := rfl
@[simp] theorem State.setOtp_get (s : State) (x : Otp) (o : Obj) : (s.setOtp x).get o = s.get o := rfl

/-! setJob -/
@[simp] theorem State.setJob_objs (s : State) (k : Nat) (x : Job) : (s.setJob k x).objs = s.objs := rfl
@[simp] theorem State.setJob_mem (s : State) (k : Nat) (x : Job) : (s.setJob k x).mem = s.mem := rfl
@[simp] theorem State.setJob_up (s : State) (k : Nat) (x : Job) : (s.setJob k x).up = s.up := rfl
@[simp] theorem State.setJob_ptOff (s : State) (k : Nat) (x : Job) : (s.setJob k x).ptOff = s.ptOff := rfl
@[simp] theorem State.setJob_free (s : State) (k : Nat) (x : Job) : (s.setJob k x).free = s.free := rfl
@[simp] theorem State.setJob_evs (s : State) (k : Nat) (x : Job) : (s.setJob k x).evs = s.evs := rfl
@[simp] theorem State.setJob_dmas (s : State) (k : Nat) (x : Job) : (s.setJob k x).dmas = s.dmas := rfl
@[simp] theorem State.setJob_clk (s : State) (k : Nat) (x : Job) : (s.setJob k x).clk = s.clk := rfl
@[simp] theorem State.setJob_intake (s : State) (k : Nat) (x : Job) : (s.setJob k x).intake = s.intake := rfl
@[simp] theorem State.setJob_lanes (s : State) (k : Nat) (x : Job) : (s.setJob k x).lanes = s.lanes := rfl
@[simp] theorem State.setJob_scrLive (s : State) (k : Nat) (x : Job) : (s.setJob k x).scrLive = s.scrLive := rfl
@[simp] theorem State.setJob_masks (s : State) (k : Nat) (x : Job) : (s.setJob k x).masks = s.masks := rfl
@[simp] theorem State.setJob_lodges (s : State) (k : Nat) (x : Job) : (s.setJob k x).lodges = s.lodges := rfl
@[simp] theorem State.setJob_scheds (s : State) (k : Nat) (x : Job) : (s.setJob k x).scheds = s.scheds := rfl
@[simp] theorem State.setJob_preds (s : State) (k : Nat) (x : Job) : (s.setJob k x).preds = s.preds := rfl
@[simp] theorem State.setJob_slow (s : State) (k : Nat) (x : Job) : (s.setJob k x).slow = s.slow := rfl
@[simp] theorem State.setJob_bk (s : State) (k : Nat) (x : Job) : (s.setJob k x).bk = s.bk := rfl
@[simp] theorem State.setJob_tpdoMap (s : State) (k : Nat) (x : Job) : (s.setJob k x).tpdoMap = s.tpdoMap := rfl
@[simp] theorem State.setJob_tpdoReady (s : State) (k : Nat) (x : Job) : (s.setJob k x).tpdoReady = s.tpdoReady := rfl
@[simp] theorem State.setJob_healths (s : State) (k : Nat) (x : Job) : (s.setJob k x).healths = s.healths := rfl
@[simp] theorem State.setJob_links (s : State) (k : Nat) (x : Job) : (s.setJob k x).links = s.links := rfl
@[simp] theorem State.setJob_mts (s : State) (k : Nat) (x : Job) : (s.setJob k x).mts = s.mts := rfl
@[simp] theorem State.setJob_fires (s : State) (k : Nat) (x : Job) : (s.setJob k x).fires = s.fires := rfl
@[simp] theorem State.setJob_pgs (s : State) (k : Nat) (x : Job) : (s.setJob k x).pgs = s.pgs := rfl
@[simp] theorem State.setJob_convs (s : State) (k : Nat) (x : Job) : (s.setJob k x).convs = s.convs := rfl
@[simp] theorem State.setJob_bank (s : State) (k : Nat) (x : Job) : (s.setJob k x).bank = s.bank := rfl
@[simp] theorem State.setJob_axs (s : State) (k : Nat) (x : Job) : (s.setJob k x).axs = s.axs := rfl
@[simp] theorem State.setJob_igs (s : State) (k : Nat) (x : Job) : (s.setJob k x).igs = s.igs := rfl
@[simp] theorem State.setJob_drives (s : State) (k : Nat) (x : Job) : (s.setJob k x).drives = s.drives := rfl
@[simp] theorem State.setJob_pulses (s : State) (k : Nat) (x : Job) : (s.setJob k x).pulses = s.pulses := rfl
@[simp] theorem State.setJob_modes (s : State) (k : Nat) (x : Job) : (s.setJob k x).modes = s.modes := rfl
@[simp] theorem State.setJob_supply (s : State) (k : Nat) (x : Job) : (s.setJob k x).supply = s.supply := rfl
@[simp] theorem State.setJob_pifs (s : State) (k : Nat) (x : Job) : (s.setJob k x).pifs = s.pifs := rfl
@[simp] theorem State.setJob_ring (s : State) (k : Nat) (x : Job) : (s.setJob k x).ring = s.ring := rfl
@[simp] theorem State.setJob_flash (s : State) (k : Nat) (x : Job) : (s.setJob k x).flash = s.flash := rfl
@[simp] theorem State.setJob_otp (s : State) (k : Nat) (x : Job) : (s.setJob k x).otp = s.otp := rfl
@[simp] theorem State.setJob_boot (s : State) (k : Nat) (x : Job) : (s.setJob k x).boot = s.boot := rfl
@[simp] theorem State.setJob_net (s : State) (k : Nat) (x : Job) : (s.setJob k x).net = s.net := rfl
@[simp] theorem State.setJob_fi (s : State) (k : Nat) (x : Job) : (s.setJob k x).fi = s.fi := rfl
@[simp] theorem State.setJob_out (s : State) (k : Nat) (x : Job) : (s.setJob k x).out = s.out := rfl
@[simp] theorem State.setJob_pending (s : State) (k : Nat) (x : Job) : (s.setJob k x).pending = s.pending := rfl
@[simp] theorem State.setJob_get (s : State) (k : Nat) (x : Job) (o : Obj) : (s.setJob k x).get o = s.get o := rfl

/-! setLane -/
@[simp] theorem State.setLane_objs (s : State) (k : Nat) (x : Lane) : (s.setLane k x).objs = s.objs := rfl
@[simp] theorem State.setLane_mem (s : State) (k : Nat) (x : Lane) : (s.setLane k x).mem = s.mem := rfl
@[simp] theorem State.setLane_up (s : State) (k : Nat) (x : Lane) : (s.setLane k x).up = s.up := rfl
@[simp] theorem State.setLane_ptOff (s : State) (k : Nat) (x : Lane) : (s.setLane k x).ptOff = s.ptOff := rfl
@[simp] theorem State.setLane_free (s : State) (k : Nat) (x : Lane) : (s.setLane k x).free = s.free := rfl
@[simp] theorem State.setLane_evs (s : State) (k : Nat) (x : Lane) : (s.setLane k x).evs = s.evs := rfl
@[simp] theorem State.setLane_dmas (s : State) (k : Nat) (x : Lane) : (s.setLane k x).dmas = s.dmas := rfl
@[simp] theorem State.setLane_clk (s : State) (k : Nat) (x : Lane) : (s.setLane k x).clk = s.clk := rfl
@[simp] theorem State.setLane_jobs (s : State) (k : Nat) (x : Lane) : (s.setLane k x).jobs = s.jobs := rfl
@[simp] theorem State.setLane_intake (s : State) (k : Nat) (x : Lane) : (s.setLane k x).intake = s.intake := rfl
@[simp] theorem State.setLane_scrLive (s : State) (k : Nat) (x : Lane) : (s.setLane k x).scrLive = s.scrLive := rfl
@[simp] theorem State.setLane_masks (s : State) (k : Nat) (x : Lane) : (s.setLane k x).masks = s.masks := rfl
@[simp] theorem State.setLane_lodges (s : State) (k : Nat) (x : Lane) : (s.setLane k x).lodges = s.lodges := rfl
@[simp] theorem State.setLane_scheds (s : State) (k : Nat) (x : Lane) : (s.setLane k x).scheds = s.scheds := rfl
@[simp] theorem State.setLane_preds (s : State) (k : Nat) (x : Lane) : (s.setLane k x).preds = s.preds := rfl
@[simp] theorem State.setLane_slow (s : State) (k : Nat) (x : Lane) : (s.setLane k x).slow = s.slow := rfl
@[simp] theorem State.setLane_bk (s : State) (k : Nat) (x : Lane) : (s.setLane k x).bk = s.bk := rfl
@[simp] theorem State.setLane_tpdoMap (s : State) (k : Nat) (x : Lane) : (s.setLane k x).tpdoMap = s.tpdoMap := rfl
@[simp] theorem State.setLane_tpdoReady (s : State) (k : Nat) (x : Lane) : (s.setLane k x).tpdoReady = s.tpdoReady := rfl
@[simp] theorem State.setLane_healths (s : State) (k : Nat) (x : Lane) : (s.setLane k x).healths = s.healths := rfl
@[simp] theorem State.setLane_links (s : State) (k : Nat) (x : Lane) : (s.setLane k x).links = s.links := rfl
@[simp] theorem State.setLane_mts (s : State) (k : Nat) (x : Lane) : (s.setLane k x).mts = s.mts := rfl
@[simp] theorem State.setLane_fires (s : State) (k : Nat) (x : Lane) : (s.setLane k x).fires = s.fires := rfl
@[simp] theorem State.setLane_pgs (s : State) (k : Nat) (x : Lane) : (s.setLane k x).pgs = s.pgs := rfl
@[simp] theorem State.setLane_convs (s : State) (k : Nat) (x : Lane) : (s.setLane k x).convs = s.convs := rfl
@[simp] theorem State.setLane_bank (s : State) (k : Nat) (x : Lane) : (s.setLane k x).bank = s.bank := rfl
@[simp] theorem State.setLane_axs (s : State) (k : Nat) (x : Lane) : (s.setLane k x).axs = s.axs := rfl
@[simp] theorem State.setLane_igs (s : State) (k : Nat) (x : Lane) : (s.setLane k x).igs = s.igs := rfl
@[simp] theorem State.setLane_drives (s : State) (k : Nat) (x : Lane) : (s.setLane k x).drives = s.drives := rfl
@[simp] theorem State.setLane_pulses (s : State) (k : Nat) (x : Lane) : (s.setLane k x).pulses = s.pulses := rfl
@[simp] theorem State.setLane_modes (s : State) (k : Nat) (x : Lane) : (s.setLane k x).modes = s.modes := rfl
@[simp] theorem State.setLane_supply (s : State) (k : Nat) (x : Lane) : (s.setLane k x).supply = s.supply := rfl
@[simp] theorem State.setLane_pifs (s : State) (k : Nat) (x : Lane) : (s.setLane k x).pifs = s.pifs := rfl
@[simp] theorem State.setLane_ring (s : State) (k : Nat) (x : Lane) : (s.setLane k x).ring = s.ring := rfl
@[simp] theorem State.setLane_flash (s : State) (k : Nat) (x : Lane) : (s.setLane k x).flash = s.flash := rfl
@[simp] theorem State.setLane_otp (s : State) (k : Nat) (x : Lane) : (s.setLane k x).otp = s.otp := rfl
@[simp] theorem State.setLane_boot (s : State) (k : Nat) (x : Lane) : (s.setLane k x).boot = s.boot := rfl
@[simp] theorem State.setLane_net (s : State) (k : Nat) (x : Lane) : (s.setLane k x).net = s.net := rfl
@[simp] theorem State.setLane_fi (s : State) (k : Nat) (x : Lane) : (s.setLane k x).fi = s.fi := rfl
@[simp] theorem State.setLane_out (s : State) (k : Nat) (x : Lane) : (s.setLane k x).out = s.out := rfl
@[simp] theorem State.setLane_pending (s : State) (k : Nat) (x : Lane) : (s.setLane k x).pending = s.pending := rfl
@[simp] theorem State.setLane_get (s : State) (k : Nat) (x : Lane) (o : Obj) : (s.setLane k x).get o = s.get o := rfl

/-! setLive -/
@[simp] theorem State.setLive_objs (s : State) (k : Nat) (x : ScrLive) : (s.setLive k x).objs = s.objs := rfl
@[simp] theorem State.setLive_mem (s : State) (k : Nat) (x : ScrLive) : (s.setLive k x).mem = s.mem := rfl
@[simp] theorem State.setLive_up (s : State) (k : Nat) (x : ScrLive) : (s.setLive k x).up = s.up := rfl
@[simp] theorem State.setLive_ptOff (s : State) (k : Nat) (x : ScrLive) : (s.setLive k x).ptOff = s.ptOff := rfl
@[simp] theorem State.setLive_free (s : State) (k : Nat) (x : ScrLive) : (s.setLive k x).free = s.free := rfl
@[simp] theorem State.setLive_evs (s : State) (k : Nat) (x : ScrLive) : (s.setLive k x).evs = s.evs := rfl
@[simp] theorem State.setLive_dmas (s : State) (k : Nat) (x : ScrLive) : (s.setLive k x).dmas = s.dmas := rfl
@[simp] theorem State.setLive_clk (s : State) (k : Nat) (x : ScrLive) : (s.setLive k x).clk = s.clk := rfl
@[simp] theorem State.setLive_jobs (s : State) (k : Nat) (x : ScrLive) : (s.setLive k x).jobs = s.jobs := rfl
@[simp] theorem State.setLive_intake (s : State) (k : Nat) (x : ScrLive) : (s.setLive k x).intake = s.intake := rfl
@[simp] theorem State.setLive_lanes (s : State) (k : Nat) (x : ScrLive) : (s.setLive k x).lanes = s.lanes := rfl
@[simp] theorem State.setLive_masks (s : State) (k : Nat) (x : ScrLive) : (s.setLive k x).masks = s.masks := rfl
@[simp] theorem State.setLive_lodges (s : State) (k : Nat) (x : ScrLive) : (s.setLive k x).lodges = s.lodges := rfl
@[simp] theorem State.setLive_scheds (s : State) (k : Nat) (x : ScrLive) : (s.setLive k x).scheds = s.scheds := rfl
@[simp] theorem State.setLive_preds (s : State) (k : Nat) (x : ScrLive) : (s.setLive k x).preds = s.preds := rfl
@[simp] theorem State.setLive_slow (s : State) (k : Nat) (x : ScrLive) : (s.setLive k x).slow = s.slow := rfl
@[simp] theorem State.setLive_bk (s : State) (k : Nat) (x : ScrLive) : (s.setLive k x).bk = s.bk := rfl
@[simp] theorem State.setLive_tpdoMap (s : State) (k : Nat) (x : ScrLive) : (s.setLive k x).tpdoMap = s.tpdoMap := rfl
@[simp] theorem State.setLive_tpdoReady (s : State) (k : Nat) (x : ScrLive) : (s.setLive k x).tpdoReady = s.tpdoReady := rfl
@[simp] theorem State.setLive_healths (s : State) (k : Nat) (x : ScrLive) : (s.setLive k x).healths = s.healths := rfl
@[simp] theorem State.setLive_links (s : State) (k : Nat) (x : ScrLive) : (s.setLive k x).links = s.links := rfl
@[simp] theorem State.setLive_mts (s : State) (k : Nat) (x : ScrLive) : (s.setLive k x).mts = s.mts := rfl
@[simp] theorem State.setLive_fires (s : State) (k : Nat) (x : ScrLive) : (s.setLive k x).fires = s.fires := rfl
@[simp] theorem State.setLive_pgs (s : State) (k : Nat) (x : ScrLive) : (s.setLive k x).pgs = s.pgs := rfl
@[simp] theorem State.setLive_convs (s : State) (k : Nat) (x : ScrLive) : (s.setLive k x).convs = s.convs := rfl
@[simp] theorem State.setLive_bank (s : State) (k : Nat) (x : ScrLive) : (s.setLive k x).bank = s.bank := rfl
@[simp] theorem State.setLive_axs (s : State) (k : Nat) (x : ScrLive) : (s.setLive k x).axs = s.axs := rfl
@[simp] theorem State.setLive_igs (s : State) (k : Nat) (x : ScrLive) : (s.setLive k x).igs = s.igs := rfl
@[simp] theorem State.setLive_drives (s : State) (k : Nat) (x : ScrLive) : (s.setLive k x).drives = s.drives := rfl
@[simp] theorem State.setLive_pulses (s : State) (k : Nat) (x : ScrLive) : (s.setLive k x).pulses = s.pulses := rfl
@[simp] theorem State.setLive_modes (s : State) (k : Nat) (x : ScrLive) : (s.setLive k x).modes = s.modes := rfl
@[simp] theorem State.setLive_supply (s : State) (k : Nat) (x : ScrLive) : (s.setLive k x).supply = s.supply := rfl
@[simp] theorem State.setLive_pifs (s : State) (k : Nat) (x : ScrLive) : (s.setLive k x).pifs = s.pifs := rfl
@[simp] theorem State.setLive_ring (s : State) (k : Nat) (x : ScrLive) : (s.setLive k x).ring = s.ring := rfl
@[simp] theorem State.setLive_flash (s : State) (k : Nat) (x : ScrLive) : (s.setLive k x).flash = s.flash := rfl
@[simp] theorem State.setLive_otp (s : State) (k : Nat) (x : ScrLive) : (s.setLive k x).otp = s.otp := rfl
@[simp] theorem State.setLive_boot (s : State) (k : Nat) (x : ScrLive) : (s.setLive k x).boot = s.boot := rfl
@[simp] theorem State.setLive_net (s : State) (k : Nat) (x : ScrLive) : (s.setLive k x).net = s.net := rfl
@[simp] theorem State.setLive_fi (s : State) (k : Nat) (x : ScrLive) : (s.setLive k x).fi = s.fi := rfl
@[simp] theorem State.setLive_out (s : State) (k : Nat) (x : ScrLive) : (s.setLive k x).out = s.out := rfl
@[simp] theorem State.setLive_pending (s : State) (k : Nat) (x : ScrLive) : (s.setLive k x).pending = s.pending := rfl
@[simp] theorem State.setLive_get (s : State) (k : Nat) (x : ScrLive) (o : Obj) : (s.setLive k x).get o = s.get o := rfl

/-! setMask -/
@[simp] theorem State.setMask_objs (s : State) (k : Nat) (x : Masks) : (s.setMask k x).objs = s.objs := rfl
@[simp] theorem State.setMask_mem (s : State) (k : Nat) (x : Masks) : (s.setMask k x).mem = s.mem := rfl
@[simp] theorem State.setMask_up (s : State) (k : Nat) (x : Masks) : (s.setMask k x).up = s.up := rfl
@[simp] theorem State.setMask_ptOff (s : State) (k : Nat) (x : Masks) : (s.setMask k x).ptOff = s.ptOff := rfl
@[simp] theorem State.setMask_free (s : State) (k : Nat) (x : Masks) : (s.setMask k x).free = s.free := rfl
@[simp] theorem State.setMask_evs (s : State) (k : Nat) (x : Masks) : (s.setMask k x).evs = s.evs := rfl
@[simp] theorem State.setMask_dmas (s : State) (k : Nat) (x : Masks) : (s.setMask k x).dmas = s.dmas := rfl
@[simp] theorem State.setMask_clk (s : State) (k : Nat) (x : Masks) : (s.setMask k x).clk = s.clk := rfl
@[simp] theorem State.setMask_jobs (s : State) (k : Nat) (x : Masks) : (s.setMask k x).jobs = s.jobs := rfl
@[simp] theorem State.setMask_intake (s : State) (k : Nat) (x : Masks) : (s.setMask k x).intake = s.intake := rfl
@[simp] theorem State.setMask_lanes (s : State) (k : Nat) (x : Masks) : (s.setMask k x).lanes = s.lanes := rfl
@[simp] theorem State.setMask_scrLive (s : State) (k : Nat) (x : Masks) : (s.setMask k x).scrLive = s.scrLive := rfl
@[simp] theorem State.setMask_lodges (s : State) (k : Nat) (x : Masks) : (s.setMask k x).lodges = s.lodges := rfl
@[simp] theorem State.setMask_scheds (s : State) (k : Nat) (x : Masks) : (s.setMask k x).scheds = s.scheds := rfl
@[simp] theorem State.setMask_preds (s : State) (k : Nat) (x : Masks) : (s.setMask k x).preds = s.preds := rfl
@[simp] theorem State.setMask_slow (s : State) (k : Nat) (x : Masks) : (s.setMask k x).slow = s.slow := rfl
@[simp] theorem State.setMask_bk (s : State) (k : Nat) (x : Masks) : (s.setMask k x).bk = s.bk := rfl
@[simp] theorem State.setMask_tpdoMap (s : State) (k : Nat) (x : Masks) : (s.setMask k x).tpdoMap = s.tpdoMap := rfl
@[simp] theorem State.setMask_tpdoReady (s : State) (k : Nat) (x : Masks) : (s.setMask k x).tpdoReady = s.tpdoReady := rfl
@[simp] theorem State.setMask_healths (s : State) (k : Nat) (x : Masks) : (s.setMask k x).healths = s.healths := rfl
@[simp] theorem State.setMask_links (s : State) (k : Nat) (x : Masks) : (s.setMask k x).links = s.links := rfl
@[simp] theorem State.setMask_mts (s : State) (k : Nat) (x : Masks) : (s.setMask k x).mts = s.mts := rfl
@[simp] theorem State.setMask_fires (s : State) (k : Nat) (x : Masks) : (s.setMask k x).fires = s.fires := rfl
@[simp] theorem State.setMask_pgs (s : State) (k : Nat) (x : Masks) : (s.setMask k x).pgs = s.pgs := rfl
@[simp] theorem State.setMask_convs (s : State) (k : Nat) (x : Masks) : (s.setMask k x).convs = s.convs := rfl
@[simp] theorem State.setMask_bank (s : State) (k : Nat) (x : Masks) : (s.setMask k x).bank = s.bank := rfl
@[simp] theorem State.setMask_axs (s : State) (k : Nat) (x : Masks) : (s.setMask k x).axs = s.axs := rfl
@[simp] theorem State.setMask_igs (s : State) (k : Nat) (x : Masks) : (s.setMask k x).igs = s.igs := rfl
@[simp] theorem State.setMask_drives (s : State) (k : Nat) (x : Masks) : (s.setMask k x).drives = s.drives := rfl
@[simp] theorem State.setMask_pulses (s : State) (k : Nat) (x : Masks) : (s.setMask k x).pulses = s.pulses := rfl
@[simp] theorem State.setMask_modes (s : State) (k : Nat) (x : Masks) : (s.setMask k x).modes = s.modes := rfl
@[simp] theorem State.setMask_supply (s : State) (k : Nat) (x : Masks) : (s.setMask k x).supply = s.supply := rfl
@[simp] theorem State.setMask_pifs (s : State) (k : Nat) (x : Masks) : (s.setMask k x).pifs = s.pifs := rfl
@[simp] theorem State.setMask_ring (s : State) (k : Nat) (x : Masks) : (s.setMask k x).ring = s.ring := rfl
@[simp] theorem State.setMask_flash (s : State) (k : Nat) (x : Masks) : (s.setMask k x).flash = s.flash := rfl
@[simp] theorem State.setMask_otp (s : State) (k : Nat) (x : Masks) : (s.setMask k x).otp = s.otp := rfl
@[simp] theorem State.setMask_boot (s : State) (k : Nat) (x : Masks) : (s.setMask k x).boot = s.boot := rfl
@[simp] theorem State.setMask_net (s : State) (k : Nat) (x : Masks) : (s.setMask k x).net = s.net := rfl
@[simp] theorem State.setMask_fi (s : State) (k : Nat) (x : Masks) : (s.setMask k x).fi = s.fi := rfl
@[simp] theorem State.setMask_out (s : State) (k : Nat) (x : Masks) : (s.setMask k x).out = s.out := rfl
@[simp] theorem State.setMask_pending (s : State) (k : Nat) (x : Masks) : (s.setMask k x).pending = s.pending := rfl
@[simp] theorem State.setMask_get (s : State) (k : Nat) (x : Masks) (o : Obj) : (s.setMask k x).get o = s.get o := rfl

/-! setLodge -/
@[simp] theorem State.setLodge_objs (s : State) (k : Nat) (x : Lodge) : (s.setLodge k x).objs = s.objs := rfl
@[simp] theorem State.setLodge_mem (s : State) (k : Nat) (x : Lodge) : (s.setLodge k x).mem = s.mem := rfl
@[simp] theorem State.setLodge_up (s : State) (k : Nat) (x : Lodge) : (s.setLodge k x).up = s.up := rfl
@[simp] theorem State.setLodge_ptOff (s : State) (k : Nat) (x : Lodge) : (s.setLodge k x).ptOff = s.ptOff := rfl
@[simp] theorem State.setLodge_free (s : State) (k : Nat) (x : Lodge) : (s.setLodge k x).free = s.free := rfl
@[simp] theorem State.setLodge_evs (s : State) (k : Nat) (x : Lodge) : (s.setLodge k x).evs = s.evs := rfl
@[simp] theorem State.setLodge_dmas (s : State) (k : Nat) (x : Lodge) : (s.setLodge k x).dmas = s.dmas := rfl
@[simp] theorem State.setLodge_clk (s : State) (k : Nat) (x : Lodge) : (s.setLodge k x).clk = s.clk := rfl
@[simp] theorem State.setLodge_jobs (s : State) (k : Nat) (x : Lodge) : (s.setLodge k x).jobs = s.jobs := rfl
@[simp] theorem State.setLodge_intake (s : State) (k : Nat) (x : Lodge) : (s.setLodge k x).intake = s.intake := rfl
@[simp] theorem State.setLodge_lanes (s : State) (k : Nat) (x : Lodge) : (s.setLodge k x).lanes = s.lanes := rfl
@[simp] theorem State.setLodge_scrLive (s : State) (k : Nat) (x : Lodge) : (s.setLodge k x).scrLive = s.scrLive := rfl
@[simp] theorem State.setLodge_masks (s : State) (k : Nat) (x : Lodge) : (s.setLodge k x).masks = s.masks := rfl
@[simp] theorem State.setLodge_scheds (s : State) (k : Nat) (x : Lodge) : (s.setLodge k x).scheds = s.scheds := rfl
@[simp] theorem State.setLodge_preds (s : State) (k : Nat) (x : Lodge) : (s.setLodge k x).preds = s.preds := rfl
@[simp] theorem State.setLodge_slow (s : State) (k : Nat) (x : Lodge) : (s.setLodge k x).slow = s.slow := rfl
@[simp] theorem State.setLodge_bk (s : State) (k : Nat) (x : Lodge) : (s.setLodge k x).bk = s.bk := rfl
@[simp] theorem State.setLodge_tpdoMap (s : State) (k : Nat) (x : Lodge) : (s.setLodge k x).tpdoMap = s.tpdoMap := rfl
@[simp] theorem State.setLodge_tpdoReady (s : State) (k : Nat) (x : Lodge) : (s.setLodge k x).tpdoReady = s.tpdoReady := rfl
@[simp] theorem State.setLodge_healths (s : State) (k : Nat) (x : Lodge) : (s.setLodge k x).healths = s.healths := rfl
@[simp] theorem State.setLodge_links (s : State) (k : Nat) (x : Lodge) : (s.setLodge k x).links = s.links := rfl
@[simp] theorem State.setLodge_mts (s : State) (k : Nat) (x : Lodge) : (s.setLodge k x).mts = s.mts := rfl
@[simp] theorem State.setLodge_fires (s : State) (k : Nat) (x : Lodge) : (s.setLodge k x).fires = s.fires := rfl
@[simp] theorem State.setLodge_pgs (s : State) (k : Nat) (x : Lodge) : (s.setLodge k x).pgs = s.pgs := rfl
@[simp] theorem State.setLodge_convs (s : State) (k : Nat) (x : Lodge) : (s.setLodge k x).convs = s.convs := rfl
@[simp] theorem State.setLodge_bank (s : State) (k : Nat) (x : Lodge) : (s.setLodge k x).bank = s.bank := rfl
@[simp] theorem State.setLodge_axs (s : State) (k : Nat) (x : Lodge) : (s.setLodge k x).axs = s.axs := rfl
@[simp] theorem State.setLodge_igs (s : State) (k : Nat) (x : Lodge) : (s.setLodge k x).igs = s.igs := rfl
@[simp] theorem State.setLodge_drives (s : State) (k : Nat) (x : Lodge) : (s.setLodge k x).drives = s.drives := rfl
@[simp] theorem State.setLodge_pulses (s : State) (k : Nat) (x : Lodge) : (s.setLodge k x).pulses = s.pulses := rfl
@[simp] theorem State.setLodge_modes (s : State) (k : Nat) (x : Lodge) : (s.setLodge k x).modes = s.modes := rfl
@[simp] theorem State.setLodge_supply (s : State) (k : Nat) (x : Lodge) : (s.setLodge k x).supply = s.supply := rfl
@[simp] theorem State.setLodge_pifs (s : State) (k : Nat) (x : Lodge) : (s.setLodge k x).pifs = s.pifs := rfl
@[simp] theorem State.setLodge_ring (s : State) (k : Nat) (x : Lodge) : (s.setLodge k x).ring = s.ring := rfl
@[simp] theorem State.setLodge_flash (s : State) (k : Nat) (x : Lodge) : (s.setLodge k x).flash = s.flash := rfl
@[simp] theorem State.setLodge_otp (s : State) (k : Nat) (x : Lodge) : (s.setLodge k x).otp = s.otp := rfl
@[simp] theorem State.setLodge_boot (s : State) (k : Nat) (x : Lodge) : (s.setLodge k x).boot = s.boot := rfl
@[simp] theorem State.setLodge_net (s : State) (k : Nat) (x : Lodge) : (s.setLodge k x).net = s.net := rfl
@[simp] theorem State.setLodge_fi (s : State) (k : Nat) (x : Lodge) : (s.setLodge k x).fi = s.fi := rfl
@[simp] theorem State.setLodge_out (s : State) (k : Nat) (x : Lodge) : (s.setLodge k x).out = s.out := rfl
@[simp] theorem State.setLodge_pending (s : State) (k : Nat) (x : Lodge) : (s.setLodge k x).pending = s.pending := rfl
@[simp] theorem State.setLodge_get (s : State) (k : Nat) (x : Lodge) (o : Obj) : (s.setLodge k x).get o = s.get o := rfl

/-! setSched -/
@[simp] theorem State.setSched_objs (s : State) (k : Nat) (x : Sched) : (s.setSched k x).objs = s.objs := rfl
@[simp] theorem State.setSched_mem (s : State) (k : Nat) (x : Sched) : (s.setSched k x).mem = s.mem := rfl
@[simp] theorem State.setSched_up (s : State) (k : Nat) (x : Sched) : (s.setSched k x).up = s.up := rfl
@[simp] theorem State.setSched_ptOff (s : State) (k : Nat) (x : Sched) : (s.setSched k x).ptOff = s.ptOff := rfl
@[simp] theorem State.setSched_free (s : State) (k : Nat) (x : Sched) : (s.setSched k x).free = s.free := rfl
@[simp] theorem State.setSched_evs (s : State) (k : Nat) (x : Sched) : (s.setSched k x).evs = s.evs := rfl
@[simp] theorem State.setSched_dmas (s : State) (k : Nat) (x : Sched) : (s.setSched k x).dmas = s.dmas := rfl
@[simp] theorem State.setSched_clk (s : State) (k : Nat) (x : Sched) : (s.setSched k x).clk = s.clk := rfl
@[simp] theorem State.setSched_jobs (s : State) (k : Nat) (x : Sched) : (s.setSched k x).jobs = s.jobs := rfl
@[simp] theorem State.setSched_intake (s : State) (k : Nat) (x : Sched) : (s.setSched k x).intake = s.intake := rfl
@[simp] theorem State.setSched_lanes (s : State) (k : Nat) (x : Sched) : (s.setSched k x).lanes = s.lanes := rfl
@[simp] theorem State.setSched_scrLive (s : State) (k : Nat) (x : Sched) : (s.setSched k x).scrLive = s.scrLive := rfl
@[simp] theorem State.setSched_masks (s : State) (k : Nat) (x : Sched) : (s.setSched k x).masks = s.masks := rfl
@[simp] theorem State.setSched_lodges (s : State) (k : Nat) (x : Sched) : (s.setSched k x).lodges = s.lodges := rfl
@[simp] theorem State.setSched_preds (s : State) (k : Nat) (x : Sched) : (s.setSched k x).preds = s.preds := rfl
@[simp] theorem State.setSched_slow (s : State) (k : Nat) (x : Sched) : (s.setSched k x).slow = s.slow := rfl
@[simp] theorem State.setSched_bk (s : State) (k : Nat) (x : Sched) : (s.setSched k x).bk = s.bk := rfl
@[simp] theorem State.setSched_tpdoMap (s : State) (k : Nat) (x : Sched) : (s.setSched k x).tpdoMap = s.tpdoMap := rfl
@[simp] theorem State.setSched_tpdoReady (s : State) (k : Nat) (x : Sched) : (s.setSched k x).tpdoReady = s.tpdoReady := rfl
@[simp] theorem State.setSched_healths (s : State) (k : Nat) (x : Sched) : (s.setSched k x).healths = s.healths := rfl
@[simp] theorem State.setSched_links (s : State) (k : Nat) (x : Sched) : (s.setSched k x).links = s.links := rfl
@[simp] theorem State.setSched_mts (s : State) (k : Nat) (x : Sched) : (s.setSched k x).mts = s.mts := rfl
@[simp] theorem State.setSched_fires (s : State) (k : Nat) (x : Sched) : (s.setSched k x).fires = s.fires := rfl
@[simp] theorem State.setSched_pgs (s : State) (k : Nat) (x : Sched) : (s.setSched k x).pgs = s.pgs := rfl
@[simp] theorem State.setSched_convs (s : State) (k : Nat) (x : Sched) : (s.setSched k x).convs = s.convs := rfl
@[simp] theorem State.setSched_bank (s : State) (k : Nat) (x : Sched) : (s.setSched k x).bank = s.bank := rfl
@[simp] theorem State.setSched_axs (s : State) (k : Nat) (x : Sched) : (s.setSched k x).axs = s.axs := rfl
@[simp] theorem State.setSched_igs (s : State) (k : Nat) (x : Sched) : (s.setSched k x).igs = s.igs := rfl
@[simp] theorem State.setSched_drives (s : State) (k : Nat) (x : Sched) : (s.setSched k x).drives = s.drives := rfl
@[simp] theorem State.setSched_pulses (s : State) (k : Nat) (x : Sched) : (s.setSched k x).pulses = s.pulses := rfl
@[simp] theorem State.setSched_modes (s : State) (k : Nat) (x : Sched) : (s.setSched k x).modes = s.modes := rfl
@[simp] theorem State.setSched_supply (s : State) (k : Nat) (x : Sched) : (s.setSched k x).supply = s.supply := rfl
@[simp] theorem State.setSched_pifs (s : State) (k : Nat) (x : Sched) : (s.setSched k x).pifs = s.pifs := rfl
@[simp] theorem State.setSched_ring (s : State) (k : Nat) (x : Sched) : (s.setSched k x).ring = s.ring := rfl
@[simp] theorem State.setSched_flash (s : State) (k : Nat) (x : Sched) : (s.setSched k x).flash = s.flash := rfl
@[simp] theorem State.setSched_otp (s : State) (k : Nat) (x : Sched) : (s.setSched k x).otp = s.otp := rfl
@[simp] theorem State.setSched_boot (s : State) (k : Nat) (x : Sched) : (s.setSched k x).boot = s.boot := rfl
@[simp] theorem State.setSched_net (s : State) (k : Nat) (x : Sched) : (s.setSched k x).net = s.net := rfl
@[simp] theorem State.setSched_fi (s : State) (k : Nat) (x : Sched) : (s.setSched k x).fi = s.fi := rfl
@[simp] theorem State.setSched_out (s : State) (k : Nat) (x : Sched) : (s.setSched k x).out = s.out := rfl
@[simp] theorem State.setSched_pending (s : State) (k : Nat) (x : Sched) : (s.setSched k x).pending = s.pending := rfl
@[simp] theorem State.setSched_get (s : State) (k : Nat) (x : Sched) (o : Obj) : (s.setSched k x).get o = s.get o := rfl

/-! setPred -/
@[simp] theorem State.setPred_objs (s : State) (k : Nat) (x : Pred) : (s.setPred k x).objs = s.objs := rfl
@[simp] theorem State.setPred_mem (s : State) (k : Nat) (x : Pred) : (s.setPred k x).mem = s.mem := rfl
@[simp] theorem State.setPred_up (s : State) (k : Nat) (x : Pred) : (s.setPred k x).up = s.up := rfl
@[simp] theorem State.setPred_ptOff (s : State) (k : Nat) (x : Pred) : (s.setPred k x).ptOff = s.ptOff := rfl
@[simp] theorem State.setPred_free (s : State) (k : Nat) (x : Pred) : (s.setPred k x).free = s.free := rfl
@[simp] theorem State.setPred_evs (s : State) (k : Nat) (x : Pred) : (s.setPred k x).evs = s.evs := rfl
@[simp] theorem State.setPred_dmas (s : State) (k : Nat) (x : Pred) : (s.setPred k x).dmas = s.dmas := rfl
@[simp] theorem State.setPred_clk (s : State) (k : Nat) (x : Pred) : (s.setPred k x).clk = s.clk := rfl
@[simp] theorem State.setPred_jobs (s : State) (k : Nat) (x : Pred) : (s.setPred k x).jobs = s.jobs := rfl
@[simp] theorem State.setPred_intake (s : State) (k : Nat) (x : Pred) : (s.setPred k x).intake = s.intake := rfl
@[simp] theorem State.setPred_lanes (s : State) (k : Nat) (x : Pred) : (s.setPred k x).lanes = s.lanes := rfl
@[simp] theorem State.setPred_scrLive (s : State) (k : Nat) (x : Pred) : (s.setPred k x).scrLive = s.scrLive := rfl
@[simp] theorem State.setPred_masks (s : State) (k : Nat) (x : Pred) : (s.setPred k x).masks = s.masks := rfl
@[simp] theorem State.setPred_lodges (s : State) (k : Nat) (x : Pred) : (s.setPred k x).lodges = s.lodges := rfl
@[simp] theorem State.setPred_scheds (s : State) (k : Nat) (x : Pred) : (s.setPred k x).scheds = s.scheds := rfl
@[simp] theorem State.setPred_slow (s : State) (k : Nat) (x : Pred) : (s.setPred k x).slow = s.slow := rfl
@[simp] theorem State.setPred_bk (s : State) (k : Nat) (x : Pred) : (s.setPred k x).bk = s.bk := rfl
@[simp] theorem State.setPred_tpdoMap (s : State) (k : Nat) (x : Pred) : (s.setPred k x).tpdoMap = s.tpdoMap := rfl
@[simp] theorem State.setPred_tpdoReady (s : State) (k : Nat) (x : Pred) : (s.setPred k x).tpdoReady = s.tpdoReady := rfl
@[simp] theorem State.setPred_healths (s : State) (k : Nat) (x : Pred) : (s.setPred k x).healths = s.healths := rfl
@[simp] theorem State.setPred_links (s : State) (k : Nat) (x : Pred) : (s.setPred k x).links = s.links := rfl
@[simp] theorem State.setPred_mts (s : State) (k : Nat) (x : Pred) : (s.setPred k x).mts = s.mts := rfl
@[simp] theorem State.setPred_fires (s : State) (k : Nat) (x : Pred) : (s.setPred k x).fires = s.fires := rfl
@[simp] theorem State.setPred_pgs (s : State) (k : Nat) (x : Pred) : (s.setPred k x).pgs = s.pgs := rfl
@[simp] theorem State.setPred_convs (s : State) (k : Nat) (x : Pred) : (s.setPred k x).convs = s.convs := rfl
@[simp] theorem State.setPred_bank (s : State) (k : Nat) (x : Pred) : (s.setPred k x).bank = s.bank := rfl
@[simp] theorem State.setPred_axs (s : State) (k : Nat) (x : Pred) : (s.setPred k x).axs = s.axs := rfl
@[simp] theorem State.setPred_igs (s : State) (k : Nat) (x : Pred) : (s.setPred k x).igs = s.igs := rfl
@[simp] theorem State.setPred_drives (s : State) (k : Nat) (x : Pred) : (s.setPred k x).drives = s.drives := rfl
@[simp] theorem State.setPred_pulses (s : State) (k : Nat) (x : Pred) : (s.setPred k x).pulses = s.pulses := rfl
@[simp] theorem State.setPred_modes (s : State) (k : Nat) (x : Pred) : (s.setPred k x).modes = s.modes := rfl
@[simp] theorem State.setPred_supply (s : State) (k : Nat) (x : Pred) : (s.setPred k x).supply = s.supply := rfl
@[simp] theorem State.setPred_pifs (s : State) (k : Nat) (x : Pred) : (s.setPred k x).pifs = s.pifs := rfl
@[simp] theorem State.setPred_ring (s : State) (k : Nat) (x : Pred) : (s.setPred k x).ring = s.ring := rfl
@[simp] theorem State.setPred_flash (s : State) (k : Nat) (x : Pred) : (s.setPred k x).flash = s.flash := rfl
@[simp] theorem State.setPred_otp (s : State) (k : Nat) (x : Pred) : (s.setPred k x).otp = s.otp := rfl
@[simp] theorem State.setPred_boot (s : State) (k : Nat) (x : Pred) : (s.setPred k x).boot = s.boot := rfl
@[simp] theorem State.setPred_net (s : State) (k : Nat) (x : Pred) : (s.setPred k x).net = s.net := rfl
@[simp] theorem State.setPred_fi (s : State) (k : Nat) (x : Pred) : (s.setPred k x).fi = s.fi := rfl
@[simp] theorem State.setPred_out (s : State) (k : Nat) (x : Pred) : (s.setPred k x).out = s.out := rfl
@[simp] theorem State.setPred_pending (s : State) (k : Nat) (x : Pred) : (s.setPred k x).pending = s.pending := rfl
@[simp] theorem State.setPred_get (s : State) (k : Nat) (x : Pred) (o : Obj) : (s.setPred k x).get o = s.get o := rfl

/-! setDmaCh -/
@[simp] theorem State.setDmaCh_objs (s : State) (k : Nat) (x : DmaCh) : (s.setDmaCh k x).objs = s.objs := rfl
@[simp] theorem State.setDmaCh_mem (s : State) (k : Nat) (x : DmaCh) : (s.setDmaCh k x).mem = s.mem := rfl
@[simp] theorem State.setDmaCh_up (s : State) (k : Nat) (x : DmaCh) : (s.setDmaCh k x).up = s.up := rfl
@[simp] theorem State.setDmaCh_ptOff (s : State) (k : Nat) (x : DmaCh) : (s.setDmaCh k x).ptOff = s.ptOff := rfl
@[simp] theorem State.setDmaCh_free (s : State) (k : Nat) (x : DmaCh) : (s.setDmaCh k x).free = s.free := rfl
@[simp] theorem State.setDmaCh_evs (s : State) (k : Nat) (x : DmaCh) : (s.setDmaCh k x).evs = s.evs := rfl
@[simp] theorem State.setDmaCh_clk (s : State) (k : Nat) (x : DmaCh) : (s.setDmaCh k x).clk = s.clk := rfl
@[simp] theorem State.setDmaCh_jobs (s : State) (k : Nat) (x : DmaCh) : (s.setDmaCh k x).jobs = s.jobs := rfl
@[simp] theorem State.setDmaCh_intake (s : State) (k : Nat) (x : DmaCh) : (s.setDmaCh k x).intake = s.intake := rfl
@[simp] theorem State.setDmaCh_lanes (s : State) (k : Nat) (x : DmaCh) : (s.setDmaCh k x).lanes = s.lanes := rfl
@[simp] theorem State.setDmaCh_scrLive (s : State) (k : Nat) (x : DmaCh) : (s.setDmaCh k x).scrLive = s.scrLive := rfl
@[simp] theorem State.setDmaCh_masks (s : State) (k : Nat) (x : DmaCh) : (s.setDmaCh k x).masks = s.masks := rfl
@[simp] theorem State.setDmaCh_lodges (s : State) (k : Nat) (x : DmaCh) : (s.setDmaCh k x).lodges = s.lodges := rfl
@[simp] theorem State.setDmaCh_scheds (s : State) (k : Nat) (x : DmaCh) : (s.setDmaCh k x).scheds = s.scheds := rfl
@[simp] theorem State.setDmaCh_preds (s : State) (k : Nat) (x : DmaCh) : (s.setDmaCh k x).preds = s.preds := rfl
@[simp] theorem State.setDmaCh_slow (s : State) (k : Nat) (x : DmaCh) : (s.setDmaCh k x).slow = s.slow := rfl
@[simp] theorem State.setDmaCh_bk (s : State) (k : Nat) (x : DmaCh) : (s.setDmaCh k x).bk = s.bk := rfl
@[simp] theorem State.setDmaCh_tpdoMap (s : State) (k : Nat) (x : DmaCh) : (s.setDmaCh k x).tpdoMap = s.tpdoMap := rfl
@[simp] theorem State.setDmaCh_tpdoReady (s : State) (k : Nat) (x : DmaCh) : (s.setDmaCh k x).tpdoReady = s.tpdoReady := rfl
@[simp] theorem State.setDmaCh_healths (s : State) (k : Nat) (x : DmaCh) : (s.setDmaCh k x).healths = s.healths := rfl
@[simp] theorem State.setDmaCh_links (s : State) (k : Nat) (x : DmaCh) : (s.setDmaCh k x).links = s.links := rfl
@[simp] theorem State.setDmaCh_mts (s : State) (k : Nat) (x : DmaCh) : (s.setDmaCh k x).mts = s.mts := rfl
@[simp] theorem State.setDmaCh_fires (s : State) (k : Nat) (x : DmaCh) : (s.setDmaCh k x).fires = s.fires := rfl
@[simp] theorem State.setDmaCh_pgs (s : State) (k : Nat) (x : DmaCh) : (s.setDmaCh k x).pgs = s.pgs := rfl
@[simp] theorem State.setDmaCh_convs (s : State) (k : Nat) (x : DmaCh) : (s.setDmaCh k x).convs = s.convs := rfl
@[simp] theorem State.setDmaCh_bank (s : State) (k : Nat) (x : DmaCh) : (s.setDmaCh k x).bank = s.bank := rfl
@[simp] theorem State.setDmaCh_axs (s : State) (k : Nat) (x : DmaCh) : (s.setDmaCh k x).axs = s.axs := rfl
@[simp] theorem State.setDmaCh_igs (s : State) (k : Nat) (x : DmaCh) : (s.setDmaCh k x).igs = s.igs := rfl
@[simp] theorem State.setDmaCh_drives (s : State) (k : Nat) (x : DmaCh) : (s.setDmaCh k x).drives = s.drives := rfl
@[simp] theorem State.setDmaCh_pulses (s : State) (k : Nat) (x : DmaCh) : (s.setDmaCh k x).pulses = s.pulses := rfl
@[simp] theorem State.setDmaCh_modes (s : State) (k : Nat) (x : DmaCh) : (s.setDmaCh k x).modes = s.modes := rfl
@[simp] theorem State.setDmaCh_supply (s : State) (k : Nat) (x : DmaCh) : (s.setDmaCh k x).supply = s.supply := rfl
@[simp] theorem State.setDmaCh_pifs (s : State) (k : Nat) (x : DmaCh) : (s.setDmaCh k x).pifs = s.pifs := rfl
@[simp] theorem State.setDmaCh_ring (s : State) (k : Nat) (x : DmaCh) : (s.setDmaCh k x).ring = s.ring := rfl
@[simp] theorem State.setDmaCh_flash (s : State) (k : Nat) (x : DmaCh) : (s.setDmaCh k x).flash = s.flash := rfl
@[simp] theorem State.setDmaCh_otp (s : State) (k : Nat) (x : DmaCh) : (s.setDmaCh k x).otp = s.otp := rfl
@[simp] theorem State.setDmaCh_boot (s : State) (k : Nat) (x : DmaCh) : (s.setDmaCh k x).boot = s.boot := rfl
@[simp] theorem State.setDmaCh_net (s : State) (k : Nat) (x : DmaCh) : (s.setDmaCh k x).net = s.net := rfl
@[simp] theorem State.setDmaCh_fi (s : State) (k : Nat) (x : DmaCh) : (s.setDmaCh k x).fi = s.fi := rfl
@[simp] theorem State.setDmaCh_out (s : State) (k : Nat) (x : DmaCh) : (s.setDmaCh k x).out = s.out := rfl
@[simp] theorem State.setDmaCh_pending (s : State) (k : Nat) (x : DmaCh) : (s.setDmaCh k x).pending = s.pending := rfl
@[simp] theorem State.setDmaCh_get (s : State) (k : Nat) (x : DmaCh) (o : Obj) : (s.setDmaCh k x).get o = s.get o := rfl

/-! setHealth -/
@[simp] theorem State.setHealth_objs (s : State) (k : Nat) (x : Health) : (s.setHealth k x).objs = s.objs := rfl
@[simp] theorem State.setHealth_mem (s : State) (k : Nat) (x : Health) : (s.setHealth k x).mem = s.mem := rfl
@[simp] theorem State.setHealth_up (s : State) (k : Nat) (x : Health) : (s.setHealth k x).up = s.up := rfl
@[simp] theorem State.setHealth_ptOff (s : State) (k : Nat) (x : Health) : (s.setHealth k x).ptOff = s.ptOff := rfl
@[simp] theorem State.setHealth_free (s : State) (k : Nat) (x : Health) : (s.setHealth k x).free = s.free := rfl
@[simp] theorem State.setHealth_evs (s : State) (k : Nat) (x : Health) : (s.setHealth k x).evs = s.evs := rfl
@[simp] theorem State.setHealth_dmas (s : State) (k : Nat) (x : Health) : (s.setHealth k x).dmas = s.dmas := rfl
@[simp] theorem State.setHealth_clk (s : State) (k : Nat) (x : Health) : (s.setHealth k x).clk = s.clk := rfl
@[simp] theorem State.setHealth_jobs (s : State) (k : Nat) (x : Health) : (s.setHealth k x).jobs = s.jobs := rfl
@[simp] theorem State.setHealth_intake (s : State) (k : Nat) (x : Health) : (s.setHealth k x).intake = s.intake := rfl
@[simp] theorem State.setHealth_lanes (s : State) (k : Nat) (x : Health) : (s.setHealth k x).lanes = s.lanes := rfl
@[simp] theorem State.setHealth_scrLive (s : State) (k : Nat) (x : Health) : (s.setHealth k x).scrLive = s.scrLive := rfl
@[simp] theorem State.setHealth_masks (s : State) (k : Nat) (x : Health) : (s.setHealth k x).masks = s.masks := rfl
@[simp] theorem State.setHealth_lodges (s : State) (k : Nat) (x : Health) : (s.setHealth k x).lodges = s.lodges := rfl
@[simp] theorem State.setHealth_scheds (s : State) (k : Nat) (x : Health) : (s.setHealth k x).scheds = s.scheds := rfl
@[simp] theorem State.setHealth_preds (s : State) (k : Nat) (x : Health) : (s.setHealth k x).preds = s.preds := rfl
@[simp] theorem State.setHealth_slow (s : State) (k : Nat) (x : Health) : (s.setHealth k x).slow = s.slow := rfl
@[simp] theorem State.setHealth_bk (s : State) (k : Nat) (x : Health) : (s.setHealth k x).bk = s.bk := rfl
@[simp] theorem State.setHealth_tpdoMap (s : State) (k : Nat) (x : Health) : (s.setHealth k x).tpdoMap = s.tpdoMap := rfl
@[simp] theorem State.setHealth_tpdoReady (s : State) (k : Nat) (x : Health) : (s.setHealth k x).tpdoReady = s.tpdoReady := rfl
@[simp] theorem State.setHealth_links (s : State) (k : Nat) (x : Health) : (s.setHealth k x).links = s.links := rfl
@[simp] theorem State.setHealth_mts (s : State) (k : Nat) (x : Health) : (s.setHealth k x).mts = s.mts := rfl
@[simp] theorem State.setHealth_fires (s : State) (k : Nat) (x : Health) : (s.setHealth k x).fires = s.fires := rfl
@[simp] theorem State.setHealth_pgs (s : State) (k : Nat) (x : Health) : (s.setHealth k x).pgs = s.pgs := rfl
@[simp] theorem State.setHealth_convs (s : State) (k : Nat) (x : Health) : (s.setHealth k x).convs = s.convs := rfl
@[simp] theorem State.setHealth_bank (s : State) (k : Nat) (x : Health) : (s.setHealth k x).bank = s.bank := rfl
@[simp] theorem State.setHealth_axs (s : State) (k : Nat) (x : Health) : (s.setHealth k x).axs = s.axs := rfl
@[simp] theorem State.setHealth_igs (s : State) (k : Nat) (x : Health) : (s.setHealth k x).igs = s.igs := rfl
@[simp] theorem State.setHealth_drives (s : State) (k : Nat) (x : Health) : (s.setHealth k x).drives = s.drives := rfl
@[simp] theorem State.setHealth_pulses (s : State) (k : Nat) (x : Health) : (s.setHealth k x).pulses = s.pulses := rfl
@[simp] theorem State.setHealth_modes (s : State) (k : Nat) (x : Health) : (s.setHealth k x).modes = s.modes := rfl
@[simp] theorem State.setHealth_supply (s : State) (k : Nat) (x : Health) : (s.setHealth k x).supply = s.supply := rfl
@[simp] theorem State.setHealth_pifs (s : State) (k : Nat) (x : Health) : (s.setHealth k x).pifs = s.pifs := rfl
@[simp] theorem State.setHealth_ring (s : State) (k : Nat) (x : Health) : (s.setHealth k x).ring = s.ring := rfl
@[simp] theorem State.setHealth_flash (s : State) (k : Nat) (x : Health) : (s.setHealth k x).flash = s.flash := rfl
@[simp] theorem State.setHealth_otp (s : State) (k : Nat) (x : Health) : (s.setHealth k x).otp = s.otp := rfl
@[simp] theorem State.setHealth_boot (s : State) (k : Nat) (x : Health) : (s.setHealth k x).boot = s.boot := rfl
@[simp] theorem State.setHealth_net (s : State) (k : Nat) (x : Health) : (s.setHealth k x).net = s.net := rfl
@[simp] theorem State.setHealth_fi (s : State) (k : Nat) (x : Health) : (s.setHealth k x).fi = s.fi := rfl
@[simp] theorem State.setHealth_out (s : State) (k : Nat) (x : Health) : (s.setHealth k x).out = s.out := rfl
@[simp] theorem State.setHealth_pending (s : State) (k : Nat) (x : Health) : (s.setHealth k x).pending = s.pending := rfl
@[simp] theorem State.setHealth_get (s : State) (k : Nat) (x : Health) (o : Obj) : (s.setHealth k x).get o = s.get o := rfl

/-! setLink -/
@[simp] theorem State.setLink_objs (s : State) (k : Nat) (x : Link) : (s.setLink k x).objs = s.objs := rfl
@[simp] theorem State.setLink_mem (s : State) (k : Nat) (x : Link) : (s.setLink k x).mem = s.mem := rfl
@[simp] theorem State.setLink_up (s : State) (k : Nat) (x : Link) : (s.setLink k x).up = s.up := rfl
@[simp] theorem State.setLink_ptOff (s : State) (k : Nat) (x : Link) : (s.setLink k x).ptOff = s.ptOff := rfl
@[simp] theorem State.setLink_free (s : State) (k : Nat) (x : Link) : (s.setLink k x).free = s.free := rfl
@[simp] theorem State.setLink_evs (s : State) (k : Nat) (x : Link) : (s.setLink k x).evs = s.evs := rfl
@[simp] theorem State.setLink_dmas (s : State) (k : Nat) (x : Link) : (s.setLink k x).dmas = s.dmas := rfl
@[simp] theorem State.setLink_clk (s : State) (k : Nat) (x : Link) : (s.setLink k x).clk = s.clk := rfl
@[simp] theorem State.setLink_jobs (s : State) (k : Nat) (x : Link) : (s.setLink k x).jobs = s.jobs := rfl
@[simp] theorem State.setLink_intake (s : State) (k : Nat) (x : Link) : (s.setLink k x).intake = s.intake := rfl
@[simp] theorem State.setLink_lanes (s : State) (k : Nat) (x : Link) : (s.setLink k x).lanes = s.lanes := rfl
@[simp] theorem State.setLink_scrLive (s : State) (k : Nat) (x : Link) : (s.setLink k x).scrLive = s.scrLive := rfl
@[simp] theorem State.setLink_masks (s : State) (k : Nat) (x : Link) : (s.setLink k x).masks = s.masks := rfl
@[simp] theorem State.setLink_lodges (s : State) (k : Nat) (x : Link) : (s.setLink k x).lodges = s.lodges := rfl
@[simp] theorem State.setLink_scheds (s : State) (k : Nat) (x : Link) : (s.setLink k x).scheds = s.scheds := rfl
@[simp] theorem State.setLink_preds (s : State) (k : Nat) (x : Link) : (s.setLink k x).preds = s.preds := rfl
@[simp] theorem State.setLink_slow (s : State) (k : Nat) (x : Link) : (s.setLink k x).slow = s.slow := rfl
@[simp] theorem State.setLink_bk (s : State) (k : Nat) (x : Link) : (s.setLink k x).bk = s.bk := rfl
@[simp] theorem State.setLink_tpdoMap (s : State) (k : Nat) (x : Link) : (s.setLink k x).tpdoMap = s.tpdoMap := rfl
@[simp] theorem State.setLink_tpdoReady (s : State) (k : Nat) (x : Link) : (s.setLink k x).tpdoReady = s.tpdoReady := rfl
@[simp] theorem State.setLink_healths (s : State) (k : Nat) (x : Link) : (s.setLink k x).healths = s.healths := rfl
@[simp] theorem State.setLink_mts (s : State) (k : Nat) (x : Link) : (s.setLink k x).mts = s.mts := rfl
@[simp] theorem State.setLink_fires (s : State) (k : Nat) (x : Link) : (s.setLink k x).fires = s.fires := rfl
@[simp] theorem State.setLink_pgs (s : State) (k : Nat) (x : Link) : (s.setLink k x).pgs = s.pgs := rfl
@[simp] theorem State.setLink_convs (s : State) (k : Nat) (x : Link) : (s.setLink k x).convs = s.convs := rfl
@[simp] theorem State.setLink_bank (s : State) (k : Nat) (x : Link) : (s.setLink k x).bank = s.bank := rfl
@[simp] theorem State.setLink_axs (s : State) (k : Nat) (x : Link) : (s.setLink k x).axs = s.axs := rfl
@[simp] theorem State.setLink_igs (s : State) (k : Nat) (x : Link) : (s.setLink k x).igs = s.igs := rfl
@[simp] theorem State.setLink_drives (s : State) (k : Nat) (x : Link) : (s.setLink k x).drives = s.drives := rfl
@[simp] theorem State.setLink_pulses (s : State) (k : Nat) (x : Link) : (s.setLink k x).pulses = s.pulses := rfl
@[simp] theorem State.setLink_modes (s : State) (k : Nat) (x : Link) : (s.setLink k x).modes = s.modes := rfl
@[simp] theorem State.setLink_supply (s : State) (k : Nat) (x : Link) : (s.setLink k x).supply = s.supply := rfl
@[simp] theorem State.setLink_pifs (s : State) (k : Nat) (x : Link) : (s.setLink k x).pifs = s.pifs := rfl
@[simp] theorem State.setLink_ring (s : State) (k : Nat) (x : Link) : (s.setLink k x).ring = s.ring := rfl
@[simp] theorem State.setLink_flash (s : State) (k : Nat) (x : Link) : (s.setLink k x).flash = s.flash := rfl
@[simp] theorem State.setLink_otp (s : State) (k : Nat) (x : Link) : (s.setLink k x).otp = s.otp := rfl
@[simp] theorem State.setLink_boot (s : State) (k : Nat) (x : Link) : (s.setLink k x).boot = s.boot := rfl
@[simp] theorem State.setLink_net (s : State) (k : Nat) (x : Link) : (s.setLink k x).net = s.net := rfl
@[simp] theorem State.setLink_fi (s : State) (k : Nat) (x : Link) : (s.setLink k x).fi = s.fi := rfl
@[simp] theorem State.setLink_out (s : State) (k : Nat) (x : Link) : (s.setLink k x).out = s.out := rfl
@[simp] theorem State.setLink_pending (s : State) (k : Nat) (x : Link) : (s.setLink k x).pending = s.pending := rfl
@[simp] theorem State.setLink_get (s : State) (k : Nat) (x : Link) (o : Obj) : (s.setLink k x).get o = s.get o := rfl

/-! setFire -/
@[simp] theorem State.setFire_objs (s : State) (k : Nat) (x : Fire) : (s.setFire k x).objs = s.objs := rfl
@[simp] theorem State.setFire_mem (s : State) (k : Nat) (x : Fire) : (s.setFire k x).mem = s.mem := rfl
@[simp] theorem State.setFire_up (s : State) (k : Nat) (x : Fire) : (s.setFire k x).up = s.up := rfl
@[simp] theorem State.setFire_ptOff (s : State) (k : Nat) (x : Fire) : (s.setFire k x).ptOff = s.ptOff := rfl
@[simp] theorem State.setFire_free (s : State) (k : Nat) (x : Fire) : (s.setFire k x).free = s.free := rfl
@[simp] theorem State.setFire_evs (s : State) (k : Nat) (x : Fire) : (s.setFire k x).evs = s.evs := rfl
@[simp] theorem State.setFire_dmas (s : State) (k : Nat) (x : Fire) : (s.setFire k x).dmas = s.dmas := rfl
@[simp] theorem State.setFire_clk (s : State) (k : Nat) (x : Fire) : (s.setFire k x).clk = s.clk := rfl
@[simp] theorem State.setFire_jobs (s : State) (k : Nat) (x : Fire) : (s.setFire k x).jobs = s.jobs := rfl
@[simp] theorem State.setFire_intake (s : State) (k : Nat) (x : Fire) : (s.setFire k x).intake = s.intake := rfl
@[simp] theorem State.setFire_lanes (s : State) (k : Nat) (x : Fire) : (s.setFire k x).lanes = s.lanes := rfl
@[simp] theorem State.setFire_scrLive (s : State) (k : Nat) (x : Fire) : (s.setFire k x).scrLive = s.scrLive := rfl
@[simp] theorem State.setFire_masks (s : State) (k : Nat) (x : Fire) : (s.setFire k x).masks = s.masks := rfl
@[simp] theorem State.setFire_lodges (s : State) (k : Nat) (x : Fire) : (s.setFire k x).lodges = s.lodges := rfl
@[simp] theorem State.setFire_scheds (s : State) (k : Nat) (x : Fire) : (s.setFire k x).scheds = s.scheds := rfl
@[simp] theorem State.setFire_preds (s : State) (k : Nat) (x : Fire) : (s.setFire k x).preds = s.preds := rfl
@[simp] theorem State.setFire_slow (s : State) (k : Nat) (x : Fire) : (s.setFire k x).slow = s.slow := rfl
@[simp] theorem State.setFire_bk (s : State) (k : Nat) (x : Fire) : (s.setFire k x).bk = s.bk := rfl
@[simp] theorem State.setFire_tpdoMap (s : State) (k : Nat) (x : Fire) : (s.setFire k x).tpdoMap = s.tpdoMap := rfl
@[simp] theorem State.setFire_tpdoReady (s : State) (k : Nat) (x : Fire) : (s.setFire k x).tpdoReady = s.tpdoReady := rfl
@[simp] theorem State.setFire_healths (s : State) (k : Nat) (x : Fire) : (s.setFire k x).healths = s.healths := rfl
@[simp] theorem State.setFire_links (s : State) (k : Nat) (x : Fire) : (s.setFire k x).links = s.links := rfl
@[simp] theorem State.setFire_mts (s : State) (k : Nat) (x : Fire) : (s.setFire k x).mts = s.mts := rfl
@[simp] theorem State.setFire_pgs (s : State) (k : Nat) (x : Fire) : (s.setFire k x).pgs = s.pgs := rfl
@[simp] theorem State.setFire_convs (s : State) (k : Nat) (x : Fire) : (s.setFire k x).convs = s.convs := rfl
@[simp] theorem State.setFire_bank (s : State) (k : Nat) (x : Fire) : (s.setFire k x).bank = s.bank := rfl
@[simp] theorem State.setFire_axs (s : State) (k : Nat) (x : Fire) : (s.setFire k x).axs = s.axs := rfl
@[simp] theorem State.setFire_igs (s : State) (k : Nat) (x : Fire) : (s.setFire k x).igs = s.igs := rfl
@[simp] theorem State.setFire_drives (s : State) (k : Nat) (x : Fire) : (s.setFire k x).drives = s.drives := rfl
@[simp] theorem State.setFire_pulses (s : State) (k : Nat) (x : Fire) : (s.setFire k x).pulses = s.pulses := rfl
@[simp] theorem State.setFire_modes (s : State) (k : Nat) (x : Fire) : (s.setFire k x).modes = s.modes := rfl
@[simp] theorem State.setFire_supply (s : State) (k : Nat) (x : Fire) : (s.setFire k x).supply = s.supply := rfl
@[simp] theorem State.setFire_pifs (s : State) (k : Nat) (x : Fire) : (s.setFire k x).pifs = s.pifs := rfl
@[simp] theorem State.setFire_ring (s : State) (k : Nat) (x : Fire) : (s.setFire k x).ring = s.ring := rfl
@[simp] theorem State.setFire_flash (s : State) (k : Nat) (x : Fire) : (s.setFire k x).flash = s.flash := rfl
@[simp] theorem State.setFire_otp (s : State) (k : Nat) (x : Fire) : (s.setFire k x).otp = s.otp := rfl
@[simp] theorem State.setFire_boot (s : State) (k : Nat) (x : Fire) : (s.setFire k x).boot = s.boot := rfl
@[simp] theorem State.setFire_net (s : State) (k : Nat) (x : Fire) : (s.setFire k x).net = s.net := rfl
@[simp] theorem State.setFire_fi (s : State) (k : Nat) (x : Fire) : (s.setFire k x).fi = s.fi := rfl
@[simp] theorem State.setFire_out (s : State) (k : Nat) (x : Fire) : (s.setFire k x).out = s.out := rfl
@[simp] theorem State.setFire_pending (s : State) (k : Nat) (x : Fire) : (s.setFire k x).pending = s.pending := rfl
@[simp] theorem State.setFire_get (s : State) (k : Nat) (x : Fire) (o : Obj) : (s.setFire k x).get o = s.get o := rfl

/-! setPg -/
@[simp] theorem State.setPg_objs (s : State) (k : Nat) (x : PGroup) : (s.setPg k x).objs = s.objs := rfl
@[simp] theorem State.setPg_mem (s : State) (k : Nat) (x : PGroup) : (s.setPg k x).mem = s.mem := rfl
@[simp] theorem State.setPg_up (s : State) (k : Nat) (x : PGroup) : (s.setPg k x).up = s.up := rfl
@[simp] theorem State.setPg_ptOff (s : State) (k : Nat) (x : PGroup) : (s.setPg k x).ptOff = s.ptOff := rfl
@[simp] theorem State.setPg_free (s : State) (k : Nat) (x : PGroup) : (s.setPg k x).free = s.free := rfl
@[simp] theorem State.setPg_evs (s : State) (k : Nat) (x : PGroup) : (s.setPg k x).evs = s.evs := rfl
@[simp] theorem State.setPg_dmas (s : State) (k : Nat) (x : PGroup) : (s.setPg k x).dmas = s.dmas := rfl
@[simp] theorem State.setPg_clk (s : State) (k : Nat) (x : PGroup) : (s.setPg k x).clk = s.clk := rfl
@[simp] theorem State.setPg_jobs (s : State) (k : Nat) (x : PGroup) : (s.setPg k x).jobs = s.jobs := rfl
@[simp] theorem State.setPg_intake (s : State) (k : Nat) (x : PGroup) : (s.setPg k x).intake = s.intake := rfl
@[simp] theorem State.setPg_lanes (s : State) (k : Nat) (x : PGroup) : (s.setPg k x).lanes = s.lanes := rfl
@[simp] theorem State.setPg_scrLive (s : State) (k : Nat) (x : PGroup) : (s.setPg k x).scrLive = s.scrLive := rfl
@[simp] theorem State.setPg_masks (s : State) (k : Nat) (x : PGroup) : (s.setPg k x).masks = s.masks := rfl
@[simp] theorem State.setPg_lodges (s : State) (k : Nat) (x : PGroup) : (s.setPg k x).lodges = s.lodges := rfl
@[simp] theorem State.setPg_scheds (s : State) (k : Nat) (x : PGroup) : (s.setPg k x).scheds = s.scheds := rfl
@[simp] theorem State.setPg_preds (s : State) (k : Nat) (x : PGroup) : (s.setPg k x).preds = s.preds := rfl
@[simp] theorem State.setPg_slow (s : State) (k : Nat) (x : PGroup) : (s.setPg k x).slow = s.slow := rfl
@[simp] theorem State.setPg_bk (s : State) (k : Nat) (x : PGroup) : (s.setPg k x).bk = s.bk := rfl
@[simp] theorem State.setPg_tpdoMap (s : State) (k : Nat) (x : PGroup) : (s.setPg k x).tpdoMap = s.tpdoMap := rfl
@[simp] theorem State.setPg_tpdoReady (s : State) (k : Nat) (x : PGroup) : (s.setPg k x).tpdoReady = s.tpdoReady := rfl
@[simp] theorem State.setPg_healths (s : State) (k : Nat) (x : PGroup) : (s.setPg k x).healths = s.healths := rfl
@[simp] theorem State.setPg_links (s : State) (k : Nat) (x : PGroup) : (s.setPg k x).links = s.links := rfl
@[simp] theorem State.setPg_mts (s : State) (k : Nat) (x : PGroup) : (s.setPg k x).mts = s.mts := rfl
@[simp] theorem State.setPg_fires (s : State) (k : Nat) (x : PGroup) : (s.setPg k x).fires = s.fires := rfl
@[simp] theorem State.setPg_convs (s : State) (k : Nat) (x : PGroup) : (s.setPg k x).convs = s.convs := rfl
@[simp] theorem State.setPg_bank (s : State) (k : Nat) (x : PGroup) : (s.setPg k x).bank = s.bank := rfl
@[simp] theorem State.setPg_axs (s : State) (k : Nat) (x : PGroup) : (s.setPg k x).axs = s.axs := rfl
@[simp] theorem State.setPg_igs (s : State) (k : Nat) (x : PGroup) : (s.setPg k x).igs = s.igs := rfl
@[simp] theorem State.setPg_drives (s : State) (k : Nat) (x : PGroup) : (s.setPg k x).drives = s.drives := rfl
@[simp] theorem State.setPg_pulses (s : State) (k : Nat) (x : PGroup) : (s.setPg k x).pulses = s.pulses := rfl
@[simp] theorem State.setPg_modes (s : State) (k : Nat) (x : PGroup) : (s.setPg k x).modes = s.modes := rfl
@[simp] theorem State.setPg_supply (s : State) (k : Nat) (x : PGroup) : (s.setPg k x).supply = s.supply := rfl
@[simp] theorem State.setPg_pifs (s : State) (k : Nat) (x : PGroup) : (s.setPg k x).pifs = s.pifs := rfl
@[simp] theorem State.setPg_ring (s : State) (k : Nat) (x : PGroup) : (s.setPg k x).ring = s.ring := rfl
@[simp] theorem State.setPg_flash (s : State) (k : Nat) (x : PGroup) : (s.setPg k x).flash = s.flash := rfl
@[simp] theorem State.setPg_otp (s : State) (k : Nat) (x : PGroup) : (s.setPg k x).otp = s.otp := rfl
@[simp] theorem State.setPg_boot (s : State) (k : Nat) (x : PGroup) : (s.setPg k x).boot = s.boot := rfl
@[simp] theorem State.setPg_net (s : State) (k : Nat) (x : PGroup) : (s.setPg k x).net = s.net := rfl
@[simp] theorem State.setPg_fi (s : State) (k : Nat) (x : PGroup) : (s.setPg k x).fi = s.fi := rfl
@[simp] theorem State.setPg_out (s : State) (k : Nat) (x : PGroup) : (s.setPg k x).out = s.out := rfl
@[simp] theorem State.setPg_pending (s : State) (k : Nat) (x : PGroup) : (s.setPg k x).pending = s.pending := rfl
@[simp] theorem State.setPg_get (s : State) (k : Nat) (x : PGroup) (o : Obj) : (s.setPg k x).get o = s.get o := rfl

/-! setSconv -/
@[simp] theorem State.setSconv_objs (s : State) (k : Nat) (x : SConv) : (s.setSconv k x).objs = s.objs := rfl
@[simp] theorem State.setSconv_mem (s : State) (k : Nat) (x : SConv) : (s.setSconv k x).mem = s.mem := rfl
@[simp] theorem State.setSconv_up (s : State) (k : Nat) (x : SConv) : (s.setSconv k x).up = s.up := rfl
@[simp] theorem State.setSconv_ptOff (s : State) (k : Nat) (x : SConv) : (s.setSconv k x).ptOff = s.ptOff := rfl
@[simp] theorem State.setSconv_free (s : State) (k : Nat) (x : SConv) : (s.setSconv k x).free = s.free := rfl
@[simp] theorem State.setSconv_evs (s : State) (k : Nat) (x : SConv) : (s.setSconv k x).evs = s.evs := rfl
@[simp] theorem State.setSconv_dmas (s : State) (k : Nat) (x : SConv) : (s.setSconv k x).dmas = s.dmas := rfl
@[simp] theorem State.setSconv_clk (s : State) (k : Nat) (x : SConv) : (s.setSconv k x).clk = s.clk := rfl
@[simp] theorem State.setSconv_jobs (s : State) (k : Nat) (x : SConv) : (s.setSconv k x).jobs = s.jobs := rfl
@[simp] theorem State.setSconv_intake (s : State) (k : Nat) (x : SConv) : (s.setSconv k x).intake = s.intake := rfl
@[simp] theorem State.setSconv_lanes (s : State) (k : Nat) (x : SConv) : (s.setSconv k x).lanes = s.lanes := rfl
@[simp] theorem State.setSconv_scrLive (s : State) (k : Nat) (x : SConv) : (s.setSconv k x).scrLive = s.scrLive := rfl
@[simp] theorem State.setSconv_masks (s : State) (k : Nat) (x : SConv) : (s.setSconv k x).masks = s.masks := rfl
@[simp] theorem State.setSconv_lodges (s : State) (k : Nat) (x : SConv) : (s.setSconv k x).lodges = s.lodges := rfl
@[simp] theorem State.setSconv_scheds (s : State) (k : Nat) (x : SConv) : (s.setSconv k x).scheds = s.scheds := rfl
@[simp] theorem State.setSconv_preds (s : State) (k : Nat) (x : SConv) : (s.setSconv k x).preds = s.preds := rfl
@[simp] theorem State.setSconv_slow (s : State) (k : Nat) (x : SConv) : (s.setSconv k x).slow = s.slow := rfl
@[simp] theorem State.setSconv_bk (s : State) (k : Nat) (x : SConv) : (s.setSconv k x).bk = s.bk := rfl
@[simp] theorem State.setSconv_tpdoMap (s : State) (k : Nat) (x : SConv) : (s.setSconv k x).tpdoMap = s.tpdoMap := rfl
@[simp] theorem State.setSconv_tpdoReady (s : State) (k : Nat) (x : SConv) : (s.setSconv k x).tpdoReady = s.tpdoReady := rfl
@[simp] theorem State.setSconv_healths (s : State) (k : Nat) (x : SConv) : (s.setSconv k x).healths = s.healths := rfl
@[simp] theorem State.setSconv_links (s : State) (k : Nat) (x : SConv) : (s.setSconv k x).links = s.links := rfl
@[simp] theorem State.setSconv_mts (s : State) (k : Nat) (x : SConv) : (s.setSconv k x).mts = s.mts := rfl
@[simp] theorem State.setSconv_fires (s : State) (k : Nat) (x : SConv) : (s.setSconv k x).fires = s.fires := rfl
@[simp] theorem State.setSconv_pgs (s : State) (k : Nat) (x : SConv) : (s.setSconv k x).pgs = s.pgs := rfl
@[simp] theorem State.setSconv_bank (s : State) (k : Nat) (x : SConv) : (s.setSconv k x).bank = s.bank := rfl
@[simp] theorem State.setSconv_axs (s : State) (k : Nat) (x : SConv) : (s.setSconv k x).axs = s.axs := rfl
@[simp] theorem State.setSconv_igs (s : State) (k : Nat) (x : SConv) : (s.setSconv k x).igs = s.igs := rfl
@[simp] theorem State.setSconv_drives (s : State) (k : Nat) (x : SConv) : (s.setSconv k x).drives = s.drives := rfl
@[simp] theorem State.setSconv_pulses (s : State) (k : Nat) (x : SConv) : (s.setSconv k x).pulses = s.pulses := rfl
@[simp] theorem State.setSconv_modes (s : State) (k : Nat) (x : SConv) : (s.setSconv k x).modes = s.modes := rfl
@[simp] theorem State.setSconv_supply (s : State) (k : Nat) (x : SConv) : (s.setSconv k x).supply = s.supply := rfl
@[simp] theorem State.setSconv_pifs (s : State) (k : Nat) (x : SConv) : (s.setSconv k x).pifs = s.pifs := rfl
@[simp] theorem State.setSconv_ring (s : State) (k : Nat) (x : SConv) : (s.setSconv k x).ring = s.ring := rfl
@[simp] theorem State.setSconv_flash (s : State) (k : Nat) (x : SConv) : (s.setSconv k x).flash = s.flash := rfl
@[simp] theorem State.setSconv_otp (s : State) (k : Nat) (x : SConv) : (s.setSconv k x).otp = s.otp := rfl
@[simp] theorem State.setSconv_boot (s : State) (k : Nat) (x : SConv) : (s.setSconv k x).boot = s.boot := rfl
@[simp] theorem State.setSconv_net (s : State) (k : Nat) (x : SConv) : (s.setSconv k x).net = s.net := rfl
@[simp] theorem State.setSconv_fi (s : State) (k : Nat) (x : SConv) : (s.setSconv k x).fi = s.fi := rfl
@[simp] theorem State.setSconv_out (s : State) (k : Nat) (x : SConv) : (s.setSconv k x).out = s.out := rfl
@[simp] theorem State.setSconv_pending (s : State) (k : Nat) (x : SConv) : (s.setSconv k x).pending = s.pending := rfl
@[simp] theorem State.setSconv_get (s : State) (k : Nat) (x : SConv) (o : Obj) : (s.setSconv k x).get o = s.get o := rfl

/-! setMt -/
@[simp] theorem State.setMt_objs (s : State) (k : Nat) (x : Mt) : (s.setMt k x).objs = s.objs := rfl
@[simp] theorem State.setMt_mem (s : State) (k : Nat) (x : Mt) : (s.setMt k x).mem = s.mem := rfl
@[simp] theorem State.setMt_up (s : State) (k : Nat) (x : Mt) : (s.setMt k x).up = s.up := rfl
@[simp] theorem State.setMt_ptOff (s : State) (k : Nat) (x : Mt) : (s.setMt k x).ptOff = s.ptOff := rfl
@[simp] theorem State.setMt_free (s : State) (k : Nat) (x : Mt) : (s.setMt k x).free = s.free := rfl
@[simp] theorem State.setMt_evs (s : State) (k : Nat) (x : Mt) : (s.setMt k x).evs = s.evs := rfl
@[simp] theorem State.setMt_dmas (s : State) (k : Nat) (x : Mt) : (s.setMt k x).dmas = s.dmas := rfl
@[simp] theorem State.setMt_clk (s : State) (k : Nat) (x : Mt) : (s.setMt k x).clk = s.clk := rfl
@[simp] theorem State.setMt_jobs (s : State) (k : Nat) (x : Mt) : (s.setMt k x).jobs = s.jobs := rfl
@[simp] theorem State.setMt_intake (s : State) (k : Nat) (x : Mt) : (s.setMt k x).intake = s.intake := rfl
@[simp] theorem State.setMt_lanes (s : State) (k : Nat) (x : Mt) : (s.setMt k x).lanes = s.lanes := rfl
@[simp] theorem State.setMt_scrLive (s : State) (k : Nat) (x : Mt) : (s.setMt k x).scrLive = s.scrLive := rfl
@[simp] theorem State.setMt_masks (s : State) (k : Nat) (x : Mt) : (s.setMt k x).masks = s.masks := rfl
@[simp] theorem State.setMt_lodges (s : State) (k : Nat) (x : Mt) : (s.setMt k x).lodges = s.lodges := rfl
@[simp] theorem State.setMt_scheds (s : State) (k : Nat) (x : Mt) : (s.setMt k x).scheds = s.scheds := rfl
@[simp] theorem State.setMt_preds (s : State) (k : Nat) (x : Mt) : (s.setMt k x).preds = s.preds := rfl
@[simp] theorem State.setMt_slow (s : State) (k : Nat) (x : Mt) : (s.setMt k x).slow = s.slow := rfl
@[simp] theorem State.setMt_bk (s : State) (k : Nat) (x : Mt) : (s.setMt k x).bk = s.bk := rfl
@[simp] theorem State.setMt_tpdoMap (s : State) (k : Nat) (x : Mt) : (s.setMt k x).tpdoMap = s.tpdoMap := rfl
@[simp] theorem State.setMt_tpdoReady (s : State) (k : Nat) (x : Mt) : (s.setMt k x).tpdoReady = s.tpdoReady := rfl
@[simp] theorem State.setMt_healths (s : State) (k : Nat) (x : Mt) : (s.setMt k x).healths = s.healths := rfl
@[simp] theorem State.setMt_links (s : State) (k : Nat) (x : Mt) : (s.setMt k x).links = s.links := rfl
@[simp] theorem State.setMt_fires (s : State) (k : Nat) (x : Mt) : (s.setMt k x).fires = s.fires := rfl
@[simp] theorem State.setMt_pgs (s : State) (k : Nat) (x : Mt) : (s.setMt k x).pgs = s.pgs := rfl
@[simp] theorem State.setMt_convs (s : State) (k : Nat) (x : Mt) : (s.setMt k x).convs = s.convs := rfl
@[simp] theorem State.setMt_bank (s : State) (k : Nat) (x : Mt) : (s.setMt k x).bank = s.bank := rfl
@[simp] theorem State.setMt_axs (s : State) (k : Nat) (x : Mt) : (s.setMt k x).axs = s.axs := rfl
@[simp] theorem State.setMt_igs (s : State) (k : Nat) (x : Mt) : (s.setMt k x).igs = s.igs := rfl
@[simp] theorem State.setMt_drives (s : State) (k : Nat) (x : Mt) : (s.setMt k x).drives = s.drives := rfl
@[simp] theorem State.setMt_pulses (s : State) (k : Nat) (x : Mt) : (s.setMt k x).pulses = s.pulses := rfl
@[simp] theorem State.setMt_modes (s : State) (k : Nat) (x : Mt) : (s.setMt k x).modes = s.modes := rfl
@[simp] theorem State.setMt_supply (s : State) (k : Nat) (x : Mt) : (s.setMt k x).supply = s.supply := rfl
@[simp] theorem State.setMt_pifs (s : State) (k : Nat) (x : Mt) : (s.setMt k x).pifs = s.pifs := rfl
@[simp] theorem State.setMt_ring (s : State) (k : Nat) (x : Mt) : (s.setMt k x).ring = s.ring := rfl
@[simp] theorem State.setMt_flash (s : State) (k : Nat) (x : Mt) : (s.setMt k x).flash = s.flash := rfl
@[simp] theorem State.setMt_otp (s : State) (k : Nat) (x : Mt) : (s.setMt k x).otp = s.otp := rfl
@[simp] theorem State.setMt_boot (s : State) (k : Nat) (x : Mt) : (s.setMt k x).boot = s.boot := rfl
@[simp] theorem State.setMt_net (s : State) (k : Nat) (x : Mt) : (s.setMt k x).net = s.net := rfl
@[simp] theorem State.setMt_fi (s : State) (k : Nat) (x : Mt) : (s.setMt k x).fi = s.fi := rfl
@[simp] theorem State.setMt_out (s : State) (k : Nat) (x : Mt) : (s.setMt k x).out = s.out := rfl
@[simp] theorem State.setMt_pending (s : State) (k : Nat) (x : Mt) : (s.setMt k x).pending = s.pending := rfl
@[simp] theorem State.setMt_get (s : State) (k : Nat) (x : Mt) (o : Obj) : (s.setMt k x).get o = s.get o := rfl

/-! setAx -/
@[simp] theorem State.setAx_objs (s : State) (k : Nat) (x : Axis) : (s.setAx k x).objs = s.objs := rfl
@[simp] theorem State.setAx_mem (s : State) (k : Nat) (x : Axis) : (s.setAx k x).mem = s.mem := rfl
@[simp] theorem State.setAx_up (s : State) (k : Nat) (x : Axis) : (s.setAx k x).up = s.up := rfl
@[simp] theorem State.setAx_ptOff (s : State) (k : Nat) (x : Axis) : (s.setAx k x).ptOff = s.ptOff := rfl
@[simp] theorem State.setAx_free (s : State) (k : Nat) (x : Axis) : (s.setAx k x).free = s.free := rfl
@[simp] theorem State.setAx_evs (s : State) (k : Nat) (x : Axis) : (s.setAx k x).evs = s.evs := rfl
@[simp] theorem State.setAx_dmas (s : State) (k : Nat) (x : Axis) : (s.setAx k x).dmas = s.dmas := rfl
@[simp] theorem State.setAx_clk (s : State) (k : Nat) (x : Axis) : (s.setAx k x).clk = s.clk := rfl
@[simp] theorem State.setAx_jobs (s : State) (k : Nat) (x : Axis) : (s.setAx k x).jobs = s.jobs := rfl
@[simp] theorem State.setAx_intake (s : State) (k : Nat) (x : Axis) : (s.setAx k x).intake = s.intake := rfl
@[simp] theorem State.setAx_lanes (s : State) (k : Nat) (x : Axis) : (s.setAx k x).lanes = s.lanes := rfl
@[simp] theorem State.setAx_scrLive (s : State) (k : Nat) (x : Axis) : (s.setAx k x).scrLive = s.scrLive := rfl
@[simp] theorem State.setAx_masks (s : State) (k : Nat) (x : Axis) : (s.setAx k x).masks = s.masks := rfl
@[simp] theorem State.setAx_lodges (s : State) (k : Nat) (x : Axis) : (s.setAx k x).lodges = s.lodges := rfl
@[simp] theorem State.setAx_scheds (s : State) (k : Nat) (x : Axis) : (s.setAx k x).scheds = s.scheds := rfl
@[simp] theorem State.setAx_preds (s : State) (k : Nat) (x : Axis) : (s.setAx k x).preds = s.preds := rfl
@[simp] theorem State.setAx_slow (s : State) (k : Nat) (x : Axis) : (s.setAx k x).slow = s.slow := rfl
@[simp] theorem State.setAx_bk (s : State) (k : Nat) (x : Axis) : (s.setAx k x).bk = s.bk := rfl
@[simp] theorem State.setAx_tpdoMap (s : State) (k : Nat) (x : Axis) : (s.setAx k x).tpdoMap = s.tpdoMap := rfl
@[simp] theorem State.setAx_tpdoReady (s : State) (k : Nat) (x : Axis) : (s.setAx k x).tpdoReady = s.tpdoReady := rfl
@[simp] theorem State.setAx_healths (s : State) (k : Nat) (x : Axis) : (s.setAx k x).healths = s.healths := rfl
@[simp] theorem State.setAx_links (s : State) (k : Nat) (x : Axis) : (s.setAx k x).links = s.links := rfl
@[simp] theorem State.setAx_mts (s : State) (k : Nat) (x : Axis) : (s.setAx k x).mts = s.mts := rfl
@[simp] theorem State.setAx_fires (s : State) (k : Nat) (x : Axis) : (s.setAx k x).fires = s.fires := rfl
@[simp] theorem State.setAx_pgs (s : State) (k : Nat) (x : Axis) : (s.setAx k x).pgs = s.pgs := rfl
@[simp] theorem State.setAx_convs (s : State) (k : Nat) (x : Axis) : (s.setAx k x).convs = s.convs := rfl
@[simp] theorem State.setAx_bank (s : State) (k : Nat) (x : Axis) : (s.setAx k x).bank = s.bank := rfl
@[simp] theorem State.setAx_igs (s : State) (k : Nat) (x : Axis) : (s.setAx k x).igs = s.igs := rfl
@[simp] theorem State.setAx_drives (s : State) (k : Nat) (x : Axis) : (s.setAx k x).drives = s.drives := rfl
@[simp] theorem State.setAx_pulses (s : State) (k : Nat) (x : Axis) : (s.setAx k x).pulses = s.pulses := rfl
@[simp] theorem State.setAx_modes (s : State) (k : Nat) (x : Axis) : (s.setAx k x).modes = s.modes := rfl
@[simp] theorem State.setAx_supply (s : State) (k : Nat) (x : Axis) : (s.setAx k x).supply = s.supply := rfl
@[simp] theorem State.setAx_pifs (s : State) (k : Nat) (x : Axis) : (s.setAx k x).pifs = s.pifs := rfl
@[simp] theorem State.setAx_ring (s : State) (k : Nat) (x : Axis) : (s.setAx k x).ring = s.ring := rfl
@[simp] theorem State.setAx_flash (s : State) (k : Nat) (x : Axis) : (s.setAx k x).flash = s.flash := rfl
@[simp] theorem State.setAx_otp (s : State) (k : Nat) (x : Axis) : (s.setAx k x).otp = s.otp := rfl
@[simp] theorem State.setAx_boot (s : State) (k : Nat) (x : Axis) : (s.setAx k x).boot = s.boot := rfl
@[simp] theorem State.setAx_net (s : State) (k : Nat) (x : Axis) : (s.setAx k x).net = s.net := rfl
@[simp] theorem State.setAx_fi (s : State) (k : Nat) (x : Axis) : (s.setAx k x).fi = s.fi := rfl
@[simp] theorem State.setAx_out (s : State) (k : Nat) (x : Axis) : (s.setAx k x).out = s.out := rfl
@[simp] theorem State.setAx_pending (s : State) (k : Nat) (x : Axis) : (s.setAx k x).pending = s.pending := rfl
@[simp] theorem State.setAx_get (s : State) (k : Nat) (x : Axis) (o : Obj) : (s.setAx k x).get o = s.get o := rfl

/-! setIg -/
@[simp] theorem State.setIg_objs (s : State) (k : Nat) (x : Group) : (s.setIg k x).objs = s.objs := rfl
@[simp] theorem State.setIg_mem (s : State) (k : Nat) (x : Group) : (s.setIg k x).mem = s.mem := rfl
@[simp] theorem State.setIg_up (s : State) (k : Nat) (x : Group) : (s.setIg k x).up = s.up := rfl
@[simp] theorem State.setIg_ptOff (s : State) (k : Nat) (x : Group) : (s.setIg k x).ptOff = s.ptOff := rfl
@[simp] theorem State.setIg_free (s : State) (k : Nat) (x : Group) : (s.setIg k x).free = s.free := rfl
@[simp] theorem State.setIg_evs (s : State) (k : Nat) (x : Group) : (s.setIg k x).evs = s.evs := rfl
@[simp] theorem State.setIg_dmas (s : State) (k : Nat) (x : Group) : (s.setIg k x).dmas = s.dmas := rfl
@[simp] theorem State.setIg_clk (s : State) (k : Nat) (x : Group) : (s.setIg k x).clk = s.clk := rfl
@[simp] theorem State.setIg_jobs (s : State) (k : Nat) (x : Group) : (s.setIg k x).jobs = s.jobs := rfl
@[simp] theorem State.setIg_intake (s : State) (k : Nat) (x : Group) : (s.setIg k x).intake = s.intake := rfl
@[simp] theorem State.setIg_lanes (s : State) (k : Nat) (x : Group) : (s.setIg k x).lanes = s.lanes := rfl
@[simp] theorem State.setIg_scrLive (s : State) (k : Nat) (x : Group) : (s.setIg k x).scrLive = s.scrLive := rfl
@[simp] theorem State.setIg_masks (s : State) (k : Nat) (x : Group) : (s.setIg k x).masks = s.masks := rfl
@[simp] theorem State.setIg_lodges (s : State) (k : Nat) (x : Group) : (s.setIg k x).lodges = s.lodges := rfl
@[simp] theorem State.setIg_scheds (s : State) (k : Nat) (x : Group) : (s.setIg k x).scheds = s.scheds := rfl
@[simp] theorem State.setIg_preds (s : State) (k : Nat) (x : Group) : (s.setIg k x).preds = s.preds := rfl
@[simp] theorem State.setIg_slow (s : State) (k : Nat) (x : Group) : (s.setIg k x).slow = s.slow := rfl
@[simp] theorem State.setIg_bk (s : State) (k : Nat) (x : Group) : (s.setIg k x).bk = s.bk := rfl
@[simp] theorem State.setIg_tpdoMap (s : State) (k : Nat) (x : Group) : (s.setIg k x).tpdoMap = s.tpdoMap := rfl
@[simp] theorem State.setIg_tpdoReady (s : State) (k : Nat) (x : Group) : (s.setIg k x).tpdoReady = s.tpdoReady := rfl
@[simp] theorem State.setIg_healths (s : State) (k : Nat) (x : Group) : (s.setIg k x).healths = s.healths := rfl
@[simp] theorem State.setIg_links (s : State) (k : Nat) (x : Group) : (s.setIg k x).links = s.links := rfl
@[simp] theorem State.setIg_mts (s : State) (k : Nat) (x : Group) : (s.setIg k x).mts = s.mts := rfl
@[simp] theorem State.setIg_fires (s : State) (k : Nat) (x : Group) : (s.setIg k x).fires = s.fires := rfl
@[simp] theorem State.setIg_pgs (s : State) (k : Nat) (x : Group) : (s.setIg k x).pgs = s.pgs := rfl
@[simp] theorem State.setIg_convs (s : State) (k : Nat) (x : Group) : (s.setIg k x).convs = s.convs := rfl
@[simp] theorem State.setIg_bank (s : State) (k : Nat) (x : Group) : (s.setIg k x).bank = s.bank := rfl
@[simp] theorem State.setIg_axs (s : State) (k : Nat) (x : Group) : (s.setIg k x).axs = s.axs := rfl
@[simp] theorem State.setIg_drives (s : State) (k : Nat) (x : Group) : (s.setIg k x).drives = s.drives := rfl
@[simp] theorem State.setIg_pulses (s : State) (k : Nat) (x : Group) : (s.setIg k x).pulses = s.pulses := rfl
@[simp] theorem State.setIg_modes (s : State) (k : Nat) (x : Group) : (s.setIg k x).modes = s.modes := rfl
@[simp] theorem State.setIg_supply (s : State) (k : Nat) (x : Group) : (s.setIg k x).supply = s.supply := rfl
@[simp] theorem State.setIg_pifs (s : State) (k : Nat) (x : Group) : (s.setIg k x).pifs = s.pifs := rfl
@[simp] theorem State.setIg_ring (s : State) (k : Nat) (x : Group) : (s.setIg k x).ring = s.ring := rfl
@[simp] theorem State.setIg_flash (s : State) (k : Nat) (x : Group) : (s.setIg k x).flash = s.flash := rfl
@[simp] theorem State.setIg_otp (s : State) (k : Nat) (x : Group) : (s.setIg k x).otp = s.otp := rfl
@[simp] theorem State.setIg_boot (s : State) (k : Nat) (x : Group) : (s.setIg k x).boot = s.boot := rfl
@[simp] theorem State.setIg_net (s : State) (k : Nat) (x : Group) : (s.setIg k x).net = s.net := rfl
@[simp] theorem State.setIg_fi (s : State) (k : Nat) (x : Group) : (s.setIg k x).fi = s.fi := rfl
@[simp] theorem State.setIg_out (s : State) (k : Nat) (x : Group) : (s.setIg k x).out = s.out := rfl
@[simp] theorem State.setIg_pending (s : State) (k : Nat) (x : Group) : (s.setIg k x).pending = s.pending := rfl
@[simp] theorem State.setIg_get (s : State) (k : Nat) (x : Group) (o : Obj) : (s.setIg k x).get o = s.get o := rfl

/-! setDs -/
@[simp] theorem State.setDs_objs (s : State) (k : Nat) (x : Drive) : (s.setDs k x).objs = s.objs := rfl
@[simp] theorem State.setDs_mem (s : State) (k : Nat) (x : Drive) : (s.setDs k x).mem = s.mem := rfl
@[simp] theorem State.setDs_up (s : State) (k : Nat) (x : Drive) : (s.setDs k x).up = s.up := rfl
@[simp] theorem State.setDs_ptOff (s : State) (k : Nat) (x : Drive) : (s.setDs k x).ptOff = s.ptOff := rfl
@[simp] theorem State.setDs_free (s : State) (k : Nat) (x : Drive) : (s.setDs k x).free = s.free := rfl
@[simp] theorem State.setDs_evs (s : State) (k : Nat) (x : Drive) : (s.setDs k x).evs = s.evs := rfl
@[simp] theorem State.setDs_dmas (s : State) (k : Nat) (x : Drive) : (s.setDs k x).dmas = s.dmas := rfl
@[simp] theorem State.setDs_clk (s : State) (k : Nat) (x : Drive) : (s.setDs k x).clk = s.clk := rfl
@[simp] theorem State.setDs_jobs (s : State) (k : Nat) (x : Drive) : (s.setDs k x).jobs = s.jobs := rfl
@[simp] theorem State.setDs_intake (s : State) (k : Nat) (x : Drive) : (s.setDs k x).intake = s.intake := rfl
@[simp] theorem State.setDs_lanes (s : State) (k : Nat) (x : Drive) : (s.setDs k x).lanes = s.lanes := rfl
@[simp] theorem State.setDs_scrLive (s : State) (k : Nat) (x : Drive) : (s.setDs k x).scrLive = s.scrLive := rfl
@[simp] theorem State.setDs_masks (s : State) (k : Nat) (x : Drive) : (s.setDs k x).masks = s.masks := rfl
@[simp] theorem State.setDs_lodges (s : State) (k : Nat) (x : Drive) : (s.setDs k x).lodges = s.lodges := rfl
@[simp] theorem State.setDs_scheds (s : State) (k : Nat) (x : Drive) : (s.setDs k x).scheds = s.scheds := rfl
@[simp] theorem State.setDs_preds (s : State) (k : Nat) (x : Drive) : (s.setDs k x).preds = s.preds := rfl
@[simp] theorem State.setDs_slow (s : State) (k : Nat) (x : Drive) : (s.setDs k x).slow = s.slow := rfl
@[simp] theorem State.setDs_bk (s : State) (k : Nat) (x : Drive) : (s.setDs k x).bk = s.bk := rfl
@[simp] theorem State.setDs_tpdoMap (s : State) (k : Nat) (x : Drive) : (s.setDs k x).tpdoMap = s.tpdoMap := rfl
@[simp] theorem State.setDs_tpdoReady (s : State) (k : Nat) (x : Drive) : (s.setDs k x).tpdoReady = s.tpdoReady := rfl
@[simp] theorem State.setDs_healths (s : State) (k : Nat) (x : Drive) : (s.setDs k x).healths = s.healths := rfl
@[simp] theorem State.setDs_links (s : State) (k : Nat) (x : Drive) : (s.setDs k x).links = s.links := rfl
@[simp] theorem State.setDs_mts (s : State) (k : Nat) (x : Drive) : (s.setDs k x).mts = s.mts := rfl
@[simp] theorem State.setDs_fires (s : State) (k : Nat) (x : Drive) : (s.setDs k x).fires = s.fires := rfl
@[simp] theorem State.setDs_pgs (s : State) (k : Nat) (x : Drive) : (s.setDs k x).pgs = s.pgs := rfl
@[simp] theorem State.setDs_convs (s : State) (k : Nat) (x : Drive) : (s.setDs k x).convs = s.convs := rfl
@[simp] theorem State.setDs_bank (s : State) (k : Nat) (x : Drive) : (s.setDs k x).bank = s.bank := rfl
@[simp] theorem State.setDs_axs (s : State) (k : Nat) (x : Drive) : (s.setDs k x).axs = s.axs := rfl
@[simp] theorem State.setDs_igs (s : State) (k : Nat) (x : Drive) : (s.setDs k x).igs = s.igs := rfl
@[simp] theorem State.setDs_pulses (s : State) (k : Nat) (x : Drive) : (s.setDs k x).pulses = s.pulses := rfl
@[simp] theorem State.setDs_modes (s : State) (k : Nat) (x : Drive) : (s.setDs k x).modes = s.modes := rfl
@[simp] theorem State.setDs_supply (s : State) (k : Nat) (x : Drive) : (s.setDs k x).supply = s.supply := rfl
@[simp] theorem State.setDs_pifs (s : State) (k : Nat) (x : Drive) : (s.setDs k x).pifs = s.pifs := rfl
@[simp] theorem State.setDs_ring (s : State) (k : Nat) (x : Drive) : (s.setDs k x).ring = s.ring := rfl
@[simp] theorem State.setDs_flash (s : State) (k : Nat) (x : Drive) : (s.setDs k x).flash = s.flash := rfl
@[simp] theorem State.setDs_otp (s : State) (k : Nat) (x : Drive) : (s.setDs k x).otp = s.otp := rfl
@[simp] theorem State.setDs_boot (s : State) (k : Nat) (x : Drive) : (s.setDs k x).boot = s.boot := rfl
@[simp] theorem State.setDs_net (s : State) (k : Nat) (x : Drive) : (s.setDs k x).net = s.net := rfl
@[simp] theorem State.setDs_fi (s : State) (k : Nat) (x : Drive) : (s.setDs k x).fi = s.fi := rfl
@[simp] theorem State.setDs_out (s : State) (k : Nat) (x : Drive) : (s.setDs k x).out = s.out := rfl
@[simp] theorem State.setDs_pending (s : State) (k : Nat) (x : Drive) : (s.setDs k x).pending = s.pending := rfl
@[simp] theorem State.setDs_get (s : State) (k : Nat) (x : Drive) (o : Obj) : (s.setDs k x).get o = s.get o := rfl

/-! setPif -/
@[simp] theorem State.setPif_objs (s : State) (k : Nat) (x : PosIf) : (s.setPif k x).objs = s.objs := rfl
@[simp] theorem State.setPif_mem (s : State) (k : Nat) (x : PosIf) : (s.setPif k x).mem = s.mem := rfl
@[simp] theorem State.setPif_up (s : State) (k : Nat) (x : PosIf) : (s.setPif k x).up = s.up := rfl
@[simp] theorem State.setPif_ptOff (s : State) (k : Nat) (x : PosIf) : (s.setPif k x).ptOff = s.ptOff := rfl
@[simp] theorem State.setPif_free (s : State) (k : Nat) (x : PosIf) : (s.setPif k x).free = s.free := rfl
@[simp] theorem State.setPif_evs (s : State) (k : Nat) (x : PosIf) : (s.setPif k x).evs = s.evs := rfl
@[simp] theorem State.setPif_dmas (s : State) (k : Nat) (x : PosIf) : (s.setPif k x).dmas = s.dmas := rfl
@[simp] theorem State.setPif_clk (s : State) (k : Nat) (x : PosIf) : (s.setPif k x).clk = s.clk := rfl
@[simp] theorem State.setPif_jobs (s : State) (k : Nat) (x : PosIf) : (s.setPif k x).jobs = s.jobs := rfl
@[simp] theorem State.setPif_intake (s : State) (k : Nat) (x : PosIf) : (s.setPif k x).intake = s.intake := rfl
@[simp] theorem State.setPif_lanes (s : State) (k : Nat) (x : PosIf) : (s.setPif k x).lanes = s.lanes := rfl
@[simp] theorem State.setPif_scrLive (s : State) (k : Nat) (x : PosIf) : (s.setPif k x).scrLive = s.scrLive := rfl
@[simp] theorem State.setPif_masks (s : State) (k : Nat) (x : PosIf) : (s.setPif k x).masks = s.masks := rfl
@[simp] theorem State.setPif_lodges (s : State) (k : Nat) (x : PosIf) : (s.setPif k x).lodges = s.lodges := rfl
@[simp] theorem State.setPif_scheds (s : State) (k : Nat) (x : PosIf) : (s.setPif k x).scheds = s.scheds := rfl
@[simp] theorem State.setPif_preds (s : State) (k : Nat) (x : PosIf) : (s.setPif k x).preds = s.preds := rfl
@[simp] theorem State.setPif_slow (s : State) (k : Nat) (x : PosIf) : (s.setPif k x).slow = s.slow := rfl
@[simp] theorem State.setPif_bk (s : State) (k : Nat) (x : PosIf) : (s.setPif k x).bk = s.bk := rfl
@[simp] theorem State.setPif_tpdoMap (s : State) (k : Nat) (x : PosIf) : (s.setPif k x).tpdoMap = s.tpdoMap := rfl
@[simp] theorem State.setPif_tpdoReady (s : State) (k : Nat) (x : PosIf) : (s.setPif k x).tpdoReady = s.tpdoReady := rfl
@[simp] theorem State.setPif_healths (s : State) (k : Nat) (x : PosIf) : (s.setPif k x).healths = s.healths := rfl
@[simp] theorem State.setPif_links (s : State) (k : Nat) (x : PosIf) : (s.setPif k x).links = s.links := rfl
@[simp] theorem State.setPif_mts (s : State) (k : Nat) (x : PosIf) : (s.setPif k x).mts = s.mts := rfl
@[simp] theorem State.setPif_fires (s : State) (k : Nat) (x : PosIf) : (s.setPif k x).fires = s.fires := rfl
@[simp] theorem State.setPif_pgs (s : State) (k : Nat) (x : PosIf) : (s.setPif k x).pgs = s.pgs := rfl
@[simp] theorem State.setPif_convs (s : State) (k : Nat) (x : PosIf) : (s.setPif k x).convs = s.convs := rfl
@[simp] theorem State.setPif_bank (s : State) (k : Nat) (x : PosIf) : (s.setPif k x).bank = s.bank := rfl
@[simp] theorem State.setPif_axs (s : State) (k : Nat) (x : PosIf) : (s.setPif k x).axs = s.axs := rfl
@[simp] theorem State.setPif_igs (s : State) (k : Nat) (x : PosIf) : (s.setPif k x).igs = s.igs := rfl
@[simp] theorem State.setPif_drives (s : State) (k : Nat) (x : PosIf) : (s.setPif k x).drives = s.drives := rfl
@[simp] theorem State.setPif_pulses (s : State) (k : Nat) (x : PosIf) : (s.setPif k x).pulses = s.pulses := rfl
@[simp] theorem State.setPif_modes (s : State) (k : Nat) (x : PosIf) : (s.setPif k x).modes = s.modes := rfl
@[simp] theorem State.setPif_supply (s : State) (k : Nat) (x : PosIf) : (s.setPif k x).supply = s.supply := rfl
@[simp] theorem State.setPif_ring (s : State) (k : Nat) (x : PosIf) : (s.setPif k x).ring = s.ring := rfl
@[simp] theorem State.setPif_flash (s : State) (k : Nat) (x : PosIf) : (s.setPif k x).flash = s.flash := rfl
@[simp] theorem State.setPif_otp (s : State) (k : Nat) (x : PosIf) : (s.setPif k x).otp = s.otp := rfl
@[simp] theorem State.setPif_boot (s : State) (k : Nat) (x : PosIf) : (s.setPif k x).boot = s.boot := rfl
@[simp] theorem State.setPif_net (s : State) (k : Nat) (x : PosIf) : (s.setPif k x).net = s.net := rfl
@[simp] theorem State.setPif_fi (s : State) (k : Nat) (x : PosIf) : (s.setPif k x).fi = s.fi := rfl
@[simp] theorem State.setPif_out (s : State) (k : Nat) (x : PosIf) : (s.setPif k x).out = s.out := rfl
@[simp] theorem State.setPif_pending (s : State) (k : Nat) (x : PosIf) : (s.setPif k x).pending = s.pending := rfl
@[simp] theorem State.setPif_get (s : State) (k : Nat) (x : PosIf) (o : Obj) : (s.setPif k x).get o = s.get o := rfl

/-! setRelPair -/
@[simp] theorem State.setRelPair_objs (s : State) (k : Nat) (x : RelPair) : (s.setRelPair k x).objs = s.objs := rfl
@[simp] theorem State.setRelPair_mem (s : State) (k : Nat) (x : RelPair) : (s.setRelPair k x).mem = s.mem := rfl
@[simp] theorem State.setRelPair_up (s : State) (k : Nat) (x : RelPair) : (s.setRelPair k x).up = s.up := rfl
@[simp] theorem State.setRelPair_ptOff (s : State) (k : Nat) (x : RelPair) : (s.setRelPair k x).ptOff = s.ptOff := rfl
@[simp] theorem State.setRelPair_free (s : State) (k : Nat) (x : RelPair) : (s.setRelPair k x).free = s.free := rfl
@[simp] theorem State.setRelPair_evs (s : State) (k : Nat) (x : RelPair) : (s.setRelPair k x).evs = s.evs := rfl
@[simp] theorem State.setRelPair_dmas (s : State) (k : Nat) (x : RelPair) : (s.setRelPair k x).dmas = s.dmas := rfl
@[simp] theorem State.setRelPair_clk (s : State) (k : Nat) (x : RelPair) : (s.setRelPair k x).clk = s.clk := rfl
@[simp] theorem State.setRelPair_jobs (s : State) (k : Nat) (x : RelPair) : (s.setRelPair k x).jobs = s.jobs := rfl
@[simp] theorem State.setRelPair_intake (s : State) (k : Nat) (x : RelPair) : (s.setRelPair k x).intake = s.intake := rfl
@[simp] theorem State.setRelPair_lanes (s : State) (k : Nat) (x : RelPair) : (s.setRelPair k x).lanes = s.lanes := rfl
@[simp] theorem State.setRelPair_scrLive (s : State) (k : Nat) (x : RelPair) : (s.setRelPair k x).scrLive = s.scrLive := rfl
@[simp] theorem State.setRelPair_masks (s : State) (k : Nat) (x : RelPair) : (s.setRelPair k x).masks = s.masks := rfl
@[simp] theorem State.setRelPair_lodges (s : State) (k : Nat) (x : RelPair) : (s.setRelPair k x).lodges = s.lodges := rfl
@[simp] theorem State.setRelPair_scheds (s : State) (k : Nat) (x : RelPair) : (s.setRelPair k x).scheds = s.scheds := rfl
@[simp] theorem State.setRelPair_preds (s : State) (k : Nat) (x : RelPair) : (s.setRelPair k x).preds = s.preds := rfl
@[simp] theorem State.setRelPair_slow (s : State) (k : Nat) (x : RelPair) : (s.setRelPair k x).slow = s.slow := rfl
@[simp] theorem State.setRelPair_bk (s : State) (k : Nat) (x : RelPair) : (s.setRelPair k x).bk = s.bk := rfl
@[simp] theorem State.setRelPair_tpdoMap (s : State) (k : Nat) (x : RelPair) : (s.setRelPair k x).tpdoMap = s.tpdoMap := rfl
@[simp] theorem State.setRelPair_tpdoReady (s : State) (k : Nat) (x : RelPair) : (s.setRelPair k x).tpdoReady = s.tpdoReady := rfl
@[simp] theorem State.setRelPair_healths (s : State) (k : Nat) (x : RelPair) : (s.setRelPair k x).healths = s.healths := rfl
@[simp] theorem State.setRelPair_links (s : State) (k : Nat) (x : RelPair) : (s.setRelPair k x).links = s.links := rfl
@[simp] theorem State.setRelPair_mts (s : State) (k : Nat) (x : RelPair) : (s.setRelPair k x).mts = s.mts := rfl
@[simp] theorem State.setRelPair_fires (s : State) (k : Nat) (x : RelPair) : (s.setRelPair k x).fires = s.fires := rfl
@[simp] theorem State.setRelPair_pgs (s : State) (k : Nat) (x : RelPair) : (s.setRelPair k x).pgs = s.pgs := rfl
@[simp] theorem State.setRelPair_convs (s : State) (k : Nat) (x : RelPair) : (s.setRelPair k x).convs = s.convs := rfl
@[simp] theorem State.setRelPair_bank (s : State) (k : Nat) (x : RelPair) : (s.setRelPair k x).bank = s.bank := rfl
@[simp] theorem State.setRelPair_axs (s : State) (k : Nat) (x : RelPair) : (s.setRelPair k x).axs = s.axs := rfl
@[simp] theorem State.setRelPair_igs (s : State) (k : Nat) (x : RelPair) : (s.setRelPair k x).igs = s.igs := rfl
@[simp] theorem State.setRelPair_drives (s : State) (k : Nat) (x : RelPair) : (s.setRelPair k x).drives = s.drives := rfl
@[simp] theorem State.setRelPair_pifs (s : State) (k : Nat) (x : RelPair) : (s.setRelPair k x).pifs = s.pifs := rfl
@[simp] theorem State.setRelPair_modes (s : State) (k : Nat) (x : RelPair) : (s.setRelPair k x).modes = s.modes := rfl
@[simp] theorem State.setRelPair_supply (s : State) (k : Nat) (x : RelPair) : (s.setRelPair k x).supply = s.supply := rfl
@[simp] theorem State.setRelPair_ring (s : State) (k : Nat) (x : RelPair) : (s.setRelPair k x).ring = s.ring := rfl
@[simp] theorem State.setRelPair_flash (s : State) (k : Nat) (x : RelPair) : (s.setRelPair k x).flash = s.flash := rfl
@[simp] theorem State.setRelPair_otp (s : State) (k : Nat) (x : RelPair) : (s.setRelPair k x).otp = s.otp := rfl
@[simp] theorem State.setRelPair_boot (s : State) (k : Nat) (x : RelPair) : (s.setRelPair k x).boot = s.boot := rfl
@[simp] theorem State.setRelPair_net (s : State) (k : Nat) (x : RelPair) : (s.setRelPair k x).net = s.net := rfl
@[simp] theorem State.setRelPair_fi (s : State) (k : Nat) (x : RelPair) : (s.setRelPair k x).fi = s.fi := rfl
@[simp] theorem State.setRelPair_out (s : State) (k : Nat) (x : RelPair) : (s.setRelPair k x).out = s.out := rfl
@[simp] theorem State.setRelPair_pending (s : State) (k : Nat) (x : RelPair) : (s.setRelPair k x).pending = s.pending := rfl
@[simp] theorem State.setRelPair_get (s : State) (k : Nat) (x : RelPair) (o : Obj) : (s.setRelPair k x).get o = s.get o := rfl

end Sys2Proof.Machine
end

