-- ==== Sys2Proof/Laws/Cells.lean ====
section
/-! SUPPORT. The dictionary cells, the tables of unit records and the memory: what a read after an update gives. -/
namespace Sys2Proof.Machine

/-! ### Dictionary cells -/

theorem cellFind_cellErase_ne {o o' : Obj} (h : o' ≠ o) : ∀ l : List (Obj × Nat),
    cellFind (cellErase l o) o' = cellFind l o'
  | [] => rfl
  | p :: l => by
    simp only [cellErase, cellFind]
    by_cases hp : p.1 = o
    · have hn : p.1 ≠ o' := fun e => h (e ▸ hp ▸ rfl)
      simp only [hp, if_true, cellFind_cellErase_ne h l]
      simp [show ¬ o = o' from fun e => h e.symm]
    · simp only [hp, if_false, cellFind, cellFind_cellErase_ne h l]

theorem cellFind_cellErase_self (o : Obj) : ∀ l : List (Obj × Nat), cellFind (cellErase l o) o = none
  | [] => rfl
  | p :: l => by
    simp only [cellErase]
    split
    · exact cellFind_cellErase_self o l
    · simp only [cellFind, *, if_false, cellFind_cellErase_self o l]

theorem cellFind_cellPut_self (o : Obj) (v : Nat) : ∀ l : List (Obj × Nat), cellFind (cellPut l o v) o = some v
  | [] => by simp [cellPut, cellFind]
  | p :: l => by
    simp only [cellPut]
    split
    · simp [cellFind]
    · split
      · simp [cellFind]
      · simp only [cellFind, *, if_false, cellFind_cellPut_self o v l]

theorem cellFind_cellPut_ne {o o' : Obj} (h : o' ≠ o) (v : Nat) : ∀ l : List (Obj × Nat),
    cellFind (cellPut l o v) o' = cellFind l o'
  | [] => by simp [cellPut, cellFind, Ne.symm h]
  | p :: l => by
    simp only [cellPut]
    split
    · rename_i hp
      simp [cellFind, hp, Ne.symm h]
    · split
      · simp [cellFind, Ne.symm h]
      · simp only [cellFind, cellFind_cellPut_ne h v l]

/-- A store leaves every other object alone. -/
theorem State.get_set_ne {s : State} {o o' : Obj} {v : Nat} (h : o' ≠ o) : (s.set o v).get o' = s.get o' := by
  simp only [State.get, State.set, cellStore]
  split
  · rw [cellFind_cellErase_ne h]
  · rw [cellFind_cellPut_ne h, cellFind_cellErase_ne h]

/-- An object stored reads as the value cut to its type. -/
@[simp] theorem State.get_set_self (s : State) (o : Obj) (v : Nat) : (s.set o v).get o = trunc o.width v := by
  simp only [State.get, State.set, cellStore]
  split
  · rename_i h
    rw [cellFind_cellErase_self, h]; rfl
  · rw [cellFind_cellPut_self]; rfl

theorem State.get_setB_ne {s : State} {o o' : Obj} {i : Nat} {b : Bool} (h : o' ≠ o) :
    (s.setB o i b).get o' = s.get o' := State.get_set_ne h
theorem State.get_setF_ne {s : State} {o o' : Obj} {f : Fld} {v : Nat} (h : o' ≠ o) :
    (s.setF o f v).get o' = s.get o' := State.get_set_ne h
theorem State.get_setI_ne {s : State} {o o' : Obj} {i : Int} (h : o' ≠ o) : (s.setI o i).get o' = s.get o' :=
  State.get_set_ne h
theorem State.get_addC_ne {s : State} {o o' : Obj} {n : Nat} (h : o' ≠ o) : (s.addC o n).get o' = s.get o' :=
  State.get_set_ne h
theorem State.get_inc_ne {s : State} {o o' : Obj} (h : o' ≠ o) : (s.inc o).get o' = s.get o' := State.get_set_ne h
@[simp] theorem State.get_setB_self (s : State) (o : Obj) (i : Nat) (b : Bool) :
    (s.setB o i b).get o = trunc o.width (putBit (s.get o) i b) := State.get_set_self _ _ _
@[simp] theorem State.get_setF_self (s : State) (o : Obj) (f : Fld) (v : Nat) :
    (s.setF o f v).get o = trunc o.width (putField (s.get o) f v) := State.get_set_self _ _ _
@[simp] theorem State.get_setI_self (s : State) (o : Obj) (i : Int) :
    (s.setI o i).get o = trunc o.width (ofSigned o.width i) := State.get_set_self _ _ _
@[simp] theorem State.get_addC_self (s : State) (o : Obj) (n : Nat) :
    (s.addC o n).get o = trunc o.width (s.get o + n) := State.get_set_self _ _ _
@[simp] theorem State.get_inc_self (s : State) (o : Obj) : (s.inc o).get o = trunc o.width (s.get o + 1) :=
  State.get_set_self _ _ _

/-! ### Bits -/

theorem putBit_eq (v i : Nat) (b : Bool) : putBit v i b = v - v / 2 ^ i % 2 * 2 ^ i + b.toNat * 2 ^ i := by
  simp only [putBit, putField, fieldOf, pow_one]
  have : b.toNat % 2 = b.toNat := by cases b <;> rfl
  rw [this]

theorem putBit_split (v i : Nat) (b : Bool) :
    putBit v i b = v / 2 ^ (i + 1) * 2 ^ (i + 1) + b.toNat * 2 ^ i + v % 2 ^ i := by
  rw [putBit_eq]
  have h1 := Nat.div_add_mod v (2 ^ i)
  have h2 := Nat.div_add_mod (v / 2 ^ i) 2
  have h3 : v / 2 ^ (i + 1) = v / 2 ^ i / 2 := by rw [pow_succ, Nat.div_div_eq_div_mul]
  have h4 : v = v / 2 ^ (i + 1) * 2 ^ (i + 1) + v / 2 ^ i % 2 * 2 ^ i + v % 2 ^ i := by
    rw [h3, pow_succ]
    generalize v / 2 ^ i = q at *
    generalize v % 2 ^ i = r at *
    generalize 2 ^ i = p at *
    rw [← h1]
    have : q / 2 * (p * 2) + q % 2 * p = p * q := by
      rw [show q / 2 * (p * 2) = p * (2 * (q / 2)) by ring, show q % 2 * p = p * (q % 2) by ring, ← Nat.mul_add, h2]
    omega
  omega

/-- The bit put in reads as put in. -/
@[simp] theorem bitOf_putBit_self (v i : Nat) (b : Bool) : bitOf (putBit v i b) i = b := by
  rw [putBit_split, bitOf]
  have hp : 0 < 2 ^ i := Nat.two_pow_pos i
  have hr : v % 2 ^ i < 2 ^ i := Nat.mod_lt _ hp
  have : (v / 2 ^ (i + 1) * 2 ^ (i + 1) + b.toNat * 2 ^ i + v % 2 ^ i) / 2 ^ i % 2 = b.toNat := by
    rw [show v / 2 ^ (i + 1) * 2 ^ (i + 1) + b.toNat * 2 ^ i + v % 2 ^ i
        = v % 2 ^ i + 2 ^ i * (v / 2 ^ (i + 1) * 2 + b.toNat) by rw [pow_succ]; ring]
    rw [Nat.add_mul_div_left _ _ hp, Nat.div_eq_of_lt hr]
    cases b <;> simp
  rw [this]
  cases b <;> rfl

theorem bitOf_testBit (x i : Nat) : bitOf x i = Nat.testBit x i := by
  rw [bitOf, Nat.testBit_eq_decide_div_mod_eq]

/-- Every other bit reads as before. -/
theorem bitOf_putBit_ne {v i j : Nat} {b : Bool} (h : j ≠ i) : bitOf (putBit v i b) j = bitOf v j := by
  have key : ∀ b : Bool, Nat.testBit (putBit v i b) j = Nat.testBit v j := by
    intro b
    have hr : v % 2 ^ i < 2 ^ i := Nat.mod_lt _ (Nat.two_pow_pos i)
    have hb : b.toNat * 2 ^ i + v % 2 ^ i < 2 ^ (i + 1) := by
      rw [pow_succ]; cases b <;> simp <;> omega
    rw [putBit_split, Nat.add_assoc, Nat.mul_comm (v / 2 ^ (i + 1)), Nat.testBit_two_pow_mul_add _ hb]
    split
    · rename_i hlt
      have hji : j < i := by omega
      rw [Nat.mul_comm b.toNat, Nat.testBit_two_pow_mul_add _ hr, if_pos hji, Nat.testBit_mod_two_pow]
      simp [hji]
    · rename_i hge
      rw [Nat.testBit_div_two_pow]
      congr 1; omega
  rw [bitOf_testBit, bitOf_testBit, key]

/-- A bit of a value cut to a width reads as before below the width. -/
theorem bitOf_trunc {w v i : Nat} (h : i < w) : bitOf (trunc w v) i = bitOf v i := by
  rw [bitOf_testBit, bitOf_testBit, trunc, Nat.testBit_mod_two_pow]
  simp [h]

theorem State.bit_setB_self {s : State} {o : Obj} {i : Nat} {b : Bool} (h : i < o.width) : (s.setB o i b).bit o i = b := by
  simp [State.bit, bitOf_trunc h]

theorem State.bit_setB_ne {s : State} {o : Obj} {i j : Nat} {b : Bool} (h : j ≠ i) (hj : j < o.width) :
    (s.setB o i b).bit o j = s.bit o j := by
  simp [State.bit, bitOf_trunc hj, bitOf_putBit_ne h]

theorem State.bit_of_get {s s' : State} {o : Obj} {i : Nat} (h : s'.get o = s.get o) : s'.bit o i = s.bit o i := by
  simp [State.bit, h]

/-! ### Tables of unit records -/

@[simp] theorem tget_tput_self {α : Type} (d v : α) (k : Nat) : ∀ l : List (Nat × α), tget d (tput l k v) k = v
  | [] => by simp [tput, tget]
  | p :: l => by
    simp only [tput]
    split
    · simp [tget]
    · split
      · simp [tget]
      · simp only [tget, *, if_false, tget_tput_self d v k l]

theorem tget_tput_ne {α : Type} {d v : α} {k j : Nat} (h : j ≠ k) : ∀ l : List (Nat × α), tget d (tput l k v) j = tget d l j
  | [] => by simp [tput, tget, Ne.symm h]
  | p :: l => by
    simp only [tput]
    split
    · rename_i hp; simp [tget, hp, Ne.symm h]
    · split
      · simp [tget, Ne.symm h]
      · simp only [tget, tget_tput_ne h l]

@[simp] theorem State.job_setJob (s : State) (k : Nat) (x : Job) : (s.setJob k x).job k = x := tget_tput_self _ _ _ _
theorem State.job_setJob_ne {s : State} {k j : Nat} {x : Job} (h : j ≠ k) : (s.setJob k x).job j = s.job j := tget_tput_ne h _
@[simp] theorem State.lane_setLane (s : State) (k : Nat) (x : Lane) : (s.setLane k x).lane k = x := tget_tput_self _ _ _ _
theorem State.lane_setLane_ne {s : State} {k j : Nat} {x : Lane} (h : j ≠ k) : (s.setLane k x).lane j = s.lane j := tget_tput_ne h _
@[simp] theorem State.live_setLive (s : State) (k : Nat) (x : ScrLive) : (s.setLive k x).live k = x := tget_tput_self _ _ _ _
theorem State.live_setLive_ne {s : State} {k j : Nat} {x : ScrLive} (h : j ≠ k) : (s.setLive k x).live j = s.live j := tget_tput_ne h _
@[simp] theorem State.mask_setMask (s : State) (k : Nat) (x : Masks) : (s.setMask k x).mask k = x := tget_tput_self _ _ _ _
theorem State.mask_setMask_ne {s : State} {k j : Nat} {x : Masks} (h : j ≠ k) : (s.setMask k x).mask j = s.mask j := tget_tput_ne h _
@[simp] theorem State.lodge_setLodge (s : State) (k : Nat) (x : Lodge) : (s.setLodge k x).lodge k = x := tget_tput_self _ _ _ _
theorem State.lodge_setLodge_ne {s : State} {k j : Nat} {x : Lodge} (h : j ≠ k) : (s.setLodge k x).lodge j = s.lodge j := tget_tput_ne h _
@[simp] theorem State.sched_setSched (s : State) (k : Nat) (x : Sched) : (s.setSched k x).sched k = x := tget_tput_self _ _ _ _
theorem State.sched_setSched_ne {s : State} {k j : Nat} {x : Sched} (h : j ≠ k) : (s.setSched k x).sched j = s.sched j := tget_tput_ne h _
@[simp] theorem State.pred_setPred (s : State) (k : Nat) (x : Pred) : (s.setPred k x).pred k = x := tget_tput_self _ _ _ _
theorem State.pred_setPred_ne {s : State} {k j : Nat} {x : Pred} (h : j ≠ k) : (s.setPred k x).pred j = s.pred j := tget_tput_ne h _
@[simp] theorem State.dmaCh_setDmaCh (s : State) (k : Nat) (x : DmaCh) : (s.setDmaCh k x).dmaCh k = x := tget_tput_self _ _ _ _
theorem State.dmaCh_setDmaCh_ne {s : State} {k j : Nat} {x : DmaCh} (h : j ≠ k) : (s.setDmaCh k x).dmaCh j = s.dmaCh j := tget_tput_ne h _
@[simp] theorem State.health_setHealth (s : State) (k : Nat) (x : Health) : (s.setHealth k x).health k = x := tget_tput_self _ _ _ _
theorem State.health_setHealth_ne {s : State} {k j : Nat} {x : Health} (h : j ≠ k) : (s.setHealth k x).health j = s.health j := tget_tput_ne h _
@[simp] theorem State.link_setLink (s : State) (k : Nat) (x : Link) : (s.setLink k x).link k = x := tget_tput_self _ _ _ _
theorem State.link_setLink_ne {s : State} {k j : Nat} {x : Link} (h : j ≠ k) : (s.setLink k x).link j = s.link j := tget_tput_ne h _
@[simp] theorem State.fire_setFire (s : State) (k : Nat) (x : Fire) : (s.setFire k x).fire k = x := tget_tput_self _ _ _ _
theorem State.fire_setFire_ne {s : State} {k j : Nat} {x : Fire} (h : j ≠ k) : (s.setFire k x).fire j = s.fire j := tget_tput_ne h _
@[simp] theorem State.pg_setPg (s : State) (k : Nat) (x : PGroup) : (s.setPg k x).pg k = x := tget_tput_self _ _ _ _
theorem State.pg_setPg_ne {s : State} {k j : Nat} {x : PGroup} (h : j ≠ k) : (s.setPg k x).pg j = s.pg j := tget_tput_ne h _
@[simp] theorem State.sconv_setSconv (s : State) (k : Nat) (x : SConv) : (s.setSconv k x).sconv k = x := tget_tput_self _ _ _ _
theorem State.sconv_setSconv_ne {s : State} {k j : Nat} {x : SConv} (h : j ≠ k) : (s.setSconv k x).sconv j = s.sconv j := tget_tput_ne h _
@[simp] theorem State.mt_setMt (s : State) (k : Nat) (x : Mt) : (s.setMt k x).mt k = x := tget_tput_self _ _ _ _
theorem State.mt_setMt_ne {s : State} {k j : Nat} {x : Mt} (h : j ≠ k) : (s.setMt k x).mt j = s.mt j := tget_tput_ne h _
@[simp] theorem State.ax_setAx (s : State) (k : Nat) (x : Axis) : (s.setAx k x).ax k = x := tget_tput_self _ _ _ _
theorem State.ax_setAx_ne {s : State} {k j : Nat} {x : Axis} (h : j ≠ k) : (s.setAx k x).ax j = s.ax j := tget_tput_ne h _
@[simp] theorem State.ig_setIg (s : State) (k : Nat) (x : Group) : (s.setIg k x).ig k = x := tget_tput_self _ _ _ _
theorem State.ig_setIg_ne {s : State} {k j : Nat} {x : Group} (h : j ≠ k) : (s.setIg k x).ig j = s.ig j := tget_tput_ne h _
@[simp] theorem State.ds_setDs (s : State) (k : Nat) (x : Drive) : (s.setDs k x).ds k = x := tget_tput_self _ _ _ _
theorem State.ds_setDs_ne {s : State} {k j : Nat} {x : Drive} (h : j ≠ k) : (s.setDs k x).ds j = s.ds j := tget_tput_ne h _
@[simp] theorem State.pif_setPif (s : State) (k : Nat) (x : PosIf) : (s.setPif k x).pif k = x := tget_tput_self _ _ _ _
theorem State.pif_setPif_ne {s : State} {k j : Nat} {x : PosIf} (h : j ≠ k) : (s.setPif k x).pif j = s.pif j := tget_tput_ne h _

/-! ### The memory -/

theorem memGet_below {a : Nat} : ∀ {lo : Nat} {l : List Host.Cell}, a < lo → memWfFrom lo l = true → memGet l a = memDefault a
  | _, [], _, _ => rfl
  | lo, c :: l, h, hw => by
    simp only [memWfFrom, Bool.and_eq_true, decide_eq_true_eq] at hw
    have h1 : ¬ c.1 = a := by omega
    have h2 : a < c.1 := by omega
    simp [memGet, h1, h2]

/-- A byte stored reads as stored. -/
theorem memGet_memPut_self {a : Nat} {b : Byte} : ∀ {lo : Nat} {l : List Host.Cell}, memWfFrom lo l = true →
    memGet (memPut l a b) a = b
  | _, [], _ => by
    simp only [memPut]
    split
    · rename_i h; simp [memGet, h]
    · simp [memGet]
  | lo, c :: l, hw => by
    simp only [memWfFrom, Bool.and_eq_true, decide_eq_true_eq] at hw
    simp only [memPut]
    split
    · rename_i e
      split
      · rename_i hb; rw [memGet_below (lo := c.1 + 1) (by omega) hw.2, hb]
      · simp [memGet]
    · rename_i e
      split
      · rename_i hlt
        split
        · rename_i hb; simp [memGet, e, hlt, hb]
        · simp [memGet]
      · rename_i hge
        simp [memGet, e, hge, memGet_memPut_self hw.2]

/-- Every other byte reads as before. -/
theorem memGet_memPut_ne {a a' : Nat} {b : Byte} (hne : a' ≠ a) : ∀ {lo : Nat} {l : List Host.Cell},
    memWfFrom lo l = true → memGet (memPut l a b) a' = memGet l a'
  | _, [], _ => by
    simp only [memPut]
    split
    · rfl
    · simp [memGet, Ne.symm hne]
  | lo, c :: l, hw => by
    simp only [memWfFrom, Bool.and_eq_true, decide_eq_true_eq] at hw
    simp only [memPut]
    split
    · rename_i e
      split
      · by_cases hlt : a' < c.1
        · rw [memGet_below (lo := c.1 + 1) (by omega) hw.2]
          simp [memGet, hlt, show ¬ c.1 = a' by omega]
        · simp [memGet, show ¬ c.1 = a' by omega, hlt]
      · simp [memGet, e, Ne.symm hne]
    · rename_i e
      split
      · rename_i hlt
        split
        · rfl
        · simp only [memGet, if_neg (Ne.symm hne)]
          split
          · rename_i h'
            rw [if_neg (by omega), if_pos (by omega)]
          · rfl
      · simp only [memGet, memGet_memPut_ne hne hw.2]

end Sys2Proof.Machine
end

