-- ==== Sys2Proof/Laws/Events.lean ====
section
/-! SUPPORT. Raising an event: what it leaves alone, and what it sets. -/
namespace Sys2Proof.Machine

/-- Two states that differ at most in the cells of chapter 17, the made-ready TPDOs, the event unit and the DMA channels. -/
def State.evSame (s t : State) : Prop :=
  (∃ a b c d, t = { s with objs := a, tpdoReady := b, evs := c, dmas := d }) ∧
  ∀ o : Obj, o.grp ≠ .ev → o.grp ≠ .dm → t.get o = s.get o

theorem State.evSame.refl (s : State) : s.evSame s := ⟨⟨s.objs, s.tpdoReady, s.evs, s.dmas, rfl⟩, fun _ _ _ => rfl⟩

theorem State.evSame.trans {s t r : State} (h : s.evSame t) (h' : t.evSame r) : s.evSame r := by
  obtain ⟨⟨a, b, c, d, rfl⟩, h⟩ := h
  obtain ⟨⟨a', b', c', d', rfl⟩, h'⟩ := h'
  exact ⟨⟨a', b', c', d', rfl⟩, fun o h1 h2 => (h' o h1 h2).trans (h o h1 h2)⟩

theorem State.evSame_set {s : State} {o : Obj} {v : Nat} (h : o.grp = .ev ∨ o.grp = .dm) : s.evSame (s.set o v) :=
  ⟨⟨_, _, s.evs, s.dmas, rfl⟩, fun o' h1 h2 => State.get_set_ne (fun e => by subst e; rcases h with h | h <;> contradiction)⟩

theorem State.evSame_setEvs (s : State) (x : EvUnit) : s.evSame (s.setEvs x) :=
  ⟨⟨s.objs, s.tpdoReady, x, s.dmas, rfl⟩, fun _ _ _ => rfl⟩
theorem State.evSame_setDmaCh (s : State) (c : Nat) (x : DmaCh) : s.evSame (s.setDmaCh c x) :=
  ⟨⟨s.objs, s.tpdoReady, s.evs, _, rfl⟩, fun _ _ _ => rfl⟩

theorem State.credit_evSame (s : State) (ev c : Nat) : s.evSame (s.credit ev c) := by
  simp only [State.credit]
  split
  · split
    · exact (State.evSame_setDmaCh s c _).trans (State.evSame_set (.inr rfl))
    · split
      · exact State.evSame_set (.inr rfl)
      · exact State.evSame_set (.inr rfl)
  · exact State.evSame.refl s

theorem State.forAll_evSame {f : State → Nat → State} (h : ∀ (s : State) (k : Nat), s.evSame (f s k)) : ∀ (l : List Nat) (s : State),
    s.evSame (s.forAll l f)
  | [], s => State.evSame.refl s
  | k :: l, s => (h s k).trans (State.forAll_evSame h l (f s k))

theorem State.buffer_evSame (s : State) (x : Occ) : s.evSame (s.buffer x) := by
  simp only [State.buffer]
  split
  · exact (State.evSame_setEvs s _).trans (State.evSame_set (.inl rfl))
  · exact (State.evSame_set (o := O.EV_LOST) (.inl rfl)).trans (State.evSame_set (.inl rfl))

/-- Raising an event leaves every object outside chapter 17, and every field but the event unit's and the channels', alone. -/
theorem State.raise_evSame (s : State) (ev cls detail : Nat) : s.evSame (s.raise ev cls detail) := by
  simp only [State.raise]
  exact (((State.evSame_set (o := O.EV_PENDING (ev / 32)) (.inl rfl)).trans
    (State.evSame_set (o := O.EV_TOTAL) (.inl rfl))).trans
    (State.forAll_evSame (fun s c => State.credit_evSame s ev c) _ _)).trans (State.buffer_evSame _ _)

theorem State.get_raise {s : State} {ev cls detail : Nat} {o : Obj} (h1 : o.grp ≠ .ev) (h2 : o.grp ≠ .dm) :
    (s.raise ev cls detail).get o = s.get o := (State.raise_evSame s ev cls detail).2 o h1 h2

theorem State.get_hit_ne {s : State} {o o' : Obj} {bit ev cls : Nat} (h : o' ≠ o) (h1 : o'.grp ≠ .ev) (h2 : o'.grp ≠ .dm) :
    (s.hit o bit ev cls).get o' = s.get o' := (State.get_raise h1 h2).trans (State.get_setB_ne h)

theorem State.get_hit_self {s : State} {o : Obj} {bit ev cls : Nat} (h1 : o.grp ≠ .ev) (h2 : o.grp ≠ .dm) :
    (s.hit o bit ev cls).get o = trunc o.width (putBit (s.get o) bit true) :=
  (State.get_raise h1 h2).trans (State.get_setB_self _ _ _ _)

/-- The bit that records an occurrence is set. -/
theorem State.bit_hit_self {s : State} {o : Obj} {bit ev cls : Nat} (h1 : o.grp ≠ .ev) (h2 : o.grp ≠ .dm)
    (h : bit < o.width) : (s.hit o bit ev cls).bit o bit = true :=
  (State.bit_of_get (State.get_raise h1 h2)).trans (State.bit_setB_self h)

@[simp] theorem State.raise_mem (s : State) (ev cls detail : Nat) : (s.raise ev cls detail).mem = s.mem := by
  obtain ⟨⟨_, _, _, _, h⟩, _⟩ := State.raise_evSame s ev cls detail; rw [h]
@[simp] theorem State.raise_up (s : State) (ev cls detail : Nat) : (s.raise ev cls detail).up = s.up := by
  obtain ⟨⟨_, _, _, _, h⟩, _⟩ := State.raise_evSame s ev cls detail; rw [h]
@[simp] theorem State.raise_ptOff (s : State) (ev cls detail : Nat) : (s.raise ev cls detail).ptOff = s.ptOff := by
  obtain ⟨⟨_, _, _, _, h⟩, _⟩ := State.raise_evSame s ev cls detail; rw [h]
@[simp] theorem State.raise_free (s : State) (ev cls detail : Nat) : (s.raise ev cls detail).free = s.free := by
  obtain ⟨⟨_, _, _, _, h⟩, _⟩ := State.raise_evSame s ev cls detail; rw [h]
@[simp] theorem State.raise_clk (s : State) (ev cls detail : Nat) : (s.raise ev cls detail).clk = s.clk := by
  obtain ⟨⟨_, _, _, _, h⟩, _⟩ := State.raise_evSame s ev cls detail; rw [h]
@[simp] theorem State.raise_jobs (s : State) (ev cls detail : Nat) : (s.raise ev cls detail).jobs = s.jobs := by
  obtain ⟨⟨_, _, _, _, h⟩, _⟩ := State.raise_evSame s ev cls detail; rw [h]
@[simp] theorem State.raise_intake (s : State) (ev cls detail : Nat) : (s.raise ev cls detail).intake = s.intake := by
  obtain ⟨⟨_, _, _, _, h⟩, _⟩ := State.raise_evSame s ev cls detail; rw [h]
@[simp] theorem State.raise_lanes (s : State) (ev cls detail : Nat) : (s.raise ev cls detail).lanes = s.lanes := by
  obtain ⟨⟨_, _, _, _, h⟩, _⟩ := State.raise_evSame s ev cls detail; rw [h]
@[simp] theorem State.raise_scrLive (s : State) (ev cls detail : Nat) : (s.raise ev cls detail).scrLive = s.scrLive := by
  obtain ⟨⟨_, _, _, _, h⟩, _⟩ := State.raise_evSame s ev cls detail; rw [h]
@[simp] theorem State.raise_masks (s : State) (ev cls detail : Nat) : (s.raise ev cls detail).masks = s.masks := by
  obtain ⟨⟨_, _, _, _, h⟩, _⟩ := State.raise_evSame s ev cls detail; rw [h]
@[simp] theorem State.raise_lodges (s : State) (ev cls detail : Nat) : (s.raise ev cls detail).lodges = s.lodges := by
  obtain ⟨⟨_, _, _, _, h⟩, _⟩ := State.raise_evSame s ev cls detail; rw [h]
@[simp] theorem State.raise_scheds (s : State) (ev cls detail : Nat) : (s.raise ev cls detail).scheds = s.scheds := by
  obtain ⟨⟨_, _, _, _, h⟩, _⟩ := State.raise_evSame s ev cls detail; rw [h]
@[simp] theorem State.raise_preds (s : State) (ev cls detail : Nat) : (s.raise ev cls detail).preds = s.preds := by
  obtain ⟨⟨_, _, _, _, h⟩, _⟩ := State.raise_evSame s ev cls detail; rw [h]
@[simp] theorem State.raise_slow (s : State) (ev cls detail : Nat) : (s.raise ev cls detail).slow = s.slow := by
  obtain ⟨⟨_, _, _, _, h⟩, _⟩ := State.raise_evSame s ev cls detail; rw [h]
@[simp] theorem State.raise_bk (s : State) (ev cls detail : Nat) : (s.raise ev cls detail).bk = s.bk := by
  obtain ⟨⟨_, _, _, _, h⟩, _⟩ := State.raise_evSame s ev cls detail; rw [h]
@[simp] theorem State.raise_tpdoMap (s : State) (ev cls detail : Nat) : (s.raise ev cls detail).tpdoMap = s.tpdoMap := by
  obtain ⟨⟨_, _, _, _, h⟩, _⟩ := State.raise_evSame s ev cls detail; rw [h]
@[simp] theorem State.raise_healths (s : State) (ev cls detail : Nat) : (s.raise ev cls detail).healths = s.healths := by
  obtain ⟨⟨_, _, _, _, h⟩, _⟩ := State.raise_evSame s ev cls detail; rw [h]
@[simp] theorem State.raise_links (s : State) (ev cls detail : Nat) : (s.raise ev cls detail).links = s.links := by
  obtain ⟨⟨_, _, _, _, h⟩, _⟩ := State.raise_evSame s ev cls detail; rw [h]
@[simp] theorem State.raise_mts (s : State) (ev cls detail : Nat) : (s.raise ev cls detail).mts = s.mts := by
  obtain ⟨⟨_, _, _, _, h⟩, _⟩ := State.raise_evSame s ev cls detail; rw [h]
@[simp] theorem State.raise_fires (s : State) (ev cls detail : Nat) : (s.raise ev cls detail).fires = s.fires := by
  obtain ⟨⟨_, _, _, _, h⟩, _⟩ := State.raise_evSame s ev cls detail; rw [h]
@[simp] theorem State.raise_pgs (s : State) (ev cls detail : Nat) : (s.raise ev cls detail).pgs = s.pgs := by
  obtain ⟨⟨_, _, _, _, h⟩, _⟩ := State.raise_evSame s ev cls detail; rw [h]
@[simp] theorem State.raise_convs (s : State) (ev cls detail : Nat) : (s.raise ev cls detail).convs = s.convs := by
  obtain ⟨⟨_, _, _, _, h⟩, _⟩ := State.raise_evSame s ev cls detail; rw [h]
@[simp] theorem State.raise_bank (s : State) (ev cls detail : Nat) : (s.raise ev cls detail).bank = s.bank := by
  obtain ⟨⟨_, _, _, _, h⟩, _⟩ := State.raise_evSame s ev cls detail; rw [h]
@[simp] theorem State.raise_axs (s : State) (ev cls detail : Nat) : (s.raise ev cls detail).axs = s.axs := by
  obtain ⟨⟨_, _, _, _, h⟩, _⟩ := State.raise_evSame s ev cls detail; rw [h]
@[simp] theorem State.raise_igs (s : State) (ev cls detail : Nat) : (s.raise ev cls detail).igs = s.igs := by
  obtain ⟨⟨_, _, _, _, h⟩, _⟩ := State.raise_evSame s ev cls detail; rw [h]
@[simp] theorem State.raise_drives (s : State) (ev cls detail : Nat) : (s.raise ev cls detail).drives = s.drives := by
  obtain ⟨⟨_, _, _, _, h⟩, _⟩ := State.raise_evSame s ev cls detail; rw [h]
@[simp] theorem State.raise_pulses (s : State) (ev cls detail : Nat) : (s.raise ev cls detail).pulses = s.pulses := by
  obtain ⟨⟨_, _, _, _, h⟩, _⟩ := State.raise_evSame s ev cls detail; rw [h]
@[simp] theorem State.raise_modes (s : State) (ev cls detail : Nat) : (s.raise ev cls detail).modes = s.modes := by
  obtain ⟨⟨_, _, _, _, h⟩, _⟩ := State.raise_evSame s ev cls detail; rw [h]
@[simp] theorem State.raise_supply (s : State) (ev cls detail : Nat) : (s.raise ev cls detail).supply = s.supply := by
  obtain ⟨⟨_, _, _, _, h⟩, _⟩ := State.raise_evSame s ev cls detail; rw [h]
@[simp] theorem State.raise_pifs (s : State) (ev cls detail : Nat) : (s.raise ev cls detail).pifs = s.pifs := by
  obtain ⟨⟨_, _, _, _, h⟩, _⟩ := State.raise_evSame s ev cls detail; rw [h]
@[simp] theorem State.raise_ring (s : State) (ev cls detail : Nat) : (s.raise ev cls detail).ring = s.ring := by
  obtain ⟨⟨_, _, _, _, h⟩, _⟩ := State.raise_evSame s ev cls detail; rw [h]
@[simp] theorem State.raise_flash (s : State) (ev cls detail : Nat) : (s.raise ev cls detail).flash = s.flash := by
  obtain ⟨⟨_, _, _, _, h⟩, _⟩ := State.raise_evSame s ev cls detail; rw [h]
@[simp] theorem State.raise_otp (s : State) (ev cls detail : Nat) : (s.raise ev cls detail).otp = s.otp := by
  obtain ⟨⟨_, _, _, _, h⟩, _⟩ := State.raise_evSame s ev cls detail; rw [h]
@[simp] theorem State.raise_boot (s : State) (ev cls detail : Nat) : (s.raise ev cls detail).boot = s.boot := by
  obtain ⟨⟨_, _, _, _, h⟩, _⟩ := State.raise_evSame s ev cls detail; rw [h]
@[simp] theorem State.raise_net (s : State) (ev cls detail : Nat) : (s.raise ev cls detail).net = s.net := by
  obtain ⟨⟨_, _, _, _, h⟩, _⟩ := State.raise_evSame s ev cls detail; rw [h]
@[simp] theorem State.raise_fi (s : State) (ev cls detail : Nat) : (s.raise ev cls detail).fi = s.fi := by
  obtain ⟨⟨_, _, _, _, h⟩, _⟩ := State.raise_evSame s ev cls detail; rw [h]
@[simp] theorem State.raise_out (s : State) (ev cls detail : Nat) : (s.raise ev cls detail).out = s.out := by
  obtain ⟨⟨_, _, _, _, h⟩, _⟩ := State.raise_evSame s ev cls detail; rw [h]
@[simp] theorem State.raise_pending (s : State) (ev cls detail : Nat) : (s.raise ev cls detail).pending = s.pending := by
  obtain ⟨⟨_, _, _, _, h⟩, _⟩ := State.raise_evSame s ev cls detail; rw [h]

@[simp] theorem State.hit_mem (s : State) (o : Obj) (bit ev cls : Nat) : (s.hit o bit ev cls).mem = s.mem := State.raise_mem _ _ _ _
@[simp] theorem State.hit_up (s : State) (o : Obj) (bit ev cls : Nat) : (s.hit o bit ev cls).up = s.up := State.raise_up _ _ _ _
@[simp] theorem State.hit_ptOff (s : State) (o : Obj) (bit ev cls : Nat) : (s.hit o bit ev cls).ptOff = s.ptOff := State.raise_ptOff _ _ _ _
@[simp] theorem State.hit_free (s : State) (o : Obj) (bit ev cls : Nat) : (s.hit o bit ev cls).free = s.free := State.raise_free _ _ _ _
@[simp] theorem State.hit_clk (s : State) (o : Obj) (bit ev cls : Nat) : (s.hit o bit ev cls).clk = s.clk := State.raise_clk _ _ _ _
@[simp] theorem State.hit_jobs (s : State) (o : Obj) (bit ev cls : Nat) : (s.hit o bit ev cls).jobs = s.jobs := State.raise_jobs _ _ _ _
@[simp] theorem State.hit_intake (s : State) (o : Obj) (bit ev cls : Nat) : (s.hit o bit ev cls).intake = s.intake := State.raise_intake _ _ _ _
@[simp] theorem State.hit_lanes (s : State) (o : Obj) (bit ev cls : Nat) : (s.hit o bit ev cls).lanes = s.lanes := State.raise_lanes _ _ _ _
@[simp] theorem State.hit_scrLive (s : State) (o : Obj) (bit ev cls : Nat) : (s.hit o bit ev cls).scrLive = s.scrLive := State.raise_scrLive _ _ _ _
@[simp] theorem State.hit_masks (s : State) (o : Obj) (bit ev cls : Nat) : (s.hit o bit ev cls).masks = s.masks := State.raise_masks _ _ _ _
@[simp] theorem State.hit_lodges (s : State) (o : Obj) (bit ev cls : Nat) : (s.hit o bit ev cls).lodges = s.lodges := State.raise_lodges _ _ _ _
@[simp] theorem State.hit_scheds (s : State) (o : Obj) (bit ev cls : Nat) : (s.hit o bit ev cls).scheds = s.scheds := State.raise_scheds _ _ _ _
@[simp] theorem State.hit_preds (s : State) (o : Obj) (bit ev cls : Nat) : (s.hit o bit ev cls).preds = s.preds := State.raise_preds _ _ _ _
@[simp] theorem State.hit_slow (s : State) (o : Obj) (bit ev cls : Nat) : (s.hit o bit ev cls).slow = s.slow := State.raise_slow _ _ _ _
@[simp] theorem State.hit_bk (s : State) (o : Obj) (bit ev cls : Nat) : (s.hit o bit ev cls).bk = s.bk := State.raise_bk _ _ _ _
@[simp] theorem State.hit_tpdoMap (s : State) (o : Obj) (bit ev cls : Nat) : (s.hit o bit ev cls).tpdoMap = s.tpdoMap := State.raise_tpdoMap _ _ _ _
@[simp] theorem State.hit_healths (s : State) (o : Obj) (bit ev cls : Nat) : (s.hit o bit ev cls).healths = s.healths := State.raise_healths _ _ _ _
@[simp] theorem State.hit_links (s : State) (o : Obj) (bit ev cls : Nat) : (s.hit o bit ev cls).links = s.links := State.raise_links _ _ _ _
@[simp] theorem State.hit_mts (s : State) (o : Obj) (bit ev cls : Nat) : (s.hit o bit ev cls).mts = s.mts := State.raise_mts _ _ _ _
@[simp] theorem State.hit_fires (s : State) (o : Obj) (bit ev cls : Nat) : (s.hit o bit ev cls).fires = s.fires := State.raise_fires _ _ _ _
@[simp] theorem State.hit_pgs (s : State) (o : Obj) (bit ev cls : Nat) : (s.hit o bit ev cls).pgs = s.pgs := State.raise_pgs _ _ _ _
@[simp] theorem State.hit_convs (s : State) (o : Obj) (bit ev cls : Nat) : (s.hit o bit ev cls).convs = s.convs := State.raise_convs _ _ _ _
@[simp] theorem State.hit_bank (s : State) (o : Obj) (bit ev cls : Nat) : (s.hit o bit ev cls).bank = s.bank := State.raise_bank _ _ _ _
@[simp] theorem State.hit_axs (s : State) (o : Obj) (bit ev cls : Nat) : (s.hit o bit ev cls).axs = s.axs := State.raise_axs _ _ _ _
@[simp] theorem State.hit_igs (s : State) (o : Obj) (bit ev cls : Nat) : (s.hit o bit ev cls).igs = s.igs := State.raise_igs _ _ _ _
@[simp] theorem State.hit_drives (s : State) (o : Obj) (bit ev cls : Nat) : (s.hit o bit ev cls).drives = s.drives := State.raise_drives _ _ _ _
@[simp] theorem State.hit_pulses (s : State) (o : Obj) (bit ev cls : Nat) : (s.hit o bit ev cls).pulses = s.pulses := State.raise_pulses _ _ _ _
@[simp] theorem State.hit_modes (s : State) (o : Obj) (bit ev cls : Nat) : (s.hit o bit ev cls).modes = s.modes := State.raise_modes _ _ _ _
@[simp] theorem State.hit_supply (s : State) (o : Obj) (bit ev cls : Nat) : (s.hit o bit ev cls).supply = s.supply := State.raise_supply _ _ _ _
@[simp] theorem State.hit_pifs (s : State) (o : Obj) (bit ev cls : Nat) : (s.hit o bit ev cls).pifs = s.pifs := State.raise_pifs _ _ _ _
@[simp] theorem State.hit_ring (s : State) (o : Obj) (bit ev cls : Nat) : (s.hit o bit ev cls).ring = s.ring := State.raise_ring _ _ _ _
@[simp] theorem State.hit_flash (s : State) (o : Obj) (bit ev cls : Nat) : (s.hit o bit ev cls).flash = s.flash := State.raise_flash _ _ _ _
@[simp] theorem State.hit_otp (s : State) (o : Obj) (bit ev cls : Nat) : (s.hit o bit ev cls).otp = s.otp := State.raise_otp _ _ _ _
@[simp] theorem State.hit_boot (s : State) (o : Obj) (bit ev cls : Nat) : (s.hit o bit ev cls).boot = s.boot := State.raise_boot _ _ _ _
@[simp] theorem State.hit_net (s : State) (o : Obj) (bit ev cls : Nat) : (s.hit o bit ev cls).net = s.net := State.raise_net _ _ _ _
@[simp] theorem State.hit_fi (s : State) (o : Obj) (bit ev cls : Nat) : (s.hit o bit ev cls).fi = s.fi := State.raise_fi _ _ _ _
@[simp] theorem State.hit_out (s : State) (o : Obj) (bit ev cls : Nat) : (s.hit o bit ev cls).out = s.out := State.raise_out _ _ _ _
@[simp] theorem State.hit_pending (s : State) (o : Obj) (bit ev cls : Nat) : (s.hit o bit ev cls).pending = s.pending := State.raise_pending _ _ _ _

@[simp] theorem State.raiseAt_mem (s : State) (o : Obj) (ev cls : Nat) : (s.raiseAt o ev cls).mem = s.mem := State.raise_mem _ _ _ _
@[simp] theorem State.raiseAt_up (s : State) (o : Obj) (ev cls : Nat) : (s.raiseAt o ev cls).up = s.up := State.raise_up _ _ _ _
@[simp] theorem State.raiseAt_ptOff (s : State) (o : Obj) (ev cls : Nat) : (s.raiseAt o ev cls).ptOff = s.ptOff := State.raise_ptOff _ _ _ _
@[simp] theorem State.raiseAt_free (s : State) (o : Obj) (ev cls : Nat) : (s.raiseAt o ev cls).free = s.free := State.raise_free _ _ _ _
@[simp] theorem State.raiseAt_clk (s : State) (o : Obj) (ev cls : Nat) : (s.raiseAt o ev cls).clk = s.clk := State.raise_clk _ _ _ _
@[simp] theorem State.raiseAt_jobs (s : State) (o : Obj) (ev cls : Nat) : (s.raiseAt o ev cls).jobs = s.jobs := State.raise_jobs _ _ _ _
@[simp] theorem State.raiseAt_intake (s : State) (o : Obj) (ev cls : Nat) : (s.raiseAt o ev cls).intake = s.intake := State.raise_intake _ _ _ _
@[simp] theorem State.raiseAt_lanes (s : State) (o : Obj) (ev cls : Nat) : (s.raiseAt o ev cls).lanes = s.lanes := State.raise_lanes _ _ _ _
@[simp] theorem State.raiseAt_scrLive (s : State) (o : Obj) (ev cls : Nat) : (s.raiseAt o ev cls).scrLive = s.scrLive := State.raise_scrLive _ _ _ _
@[simp] theorem State.raiseAt_masks (s : State) (o : Obj) (ev cls : Nat) : (s.raiseAt o ev cls).masks = s.masks := State.raise_masks _ _ _ _
@[simp] theorem State.raiseAt_lodges (s : State) (o : Obj) (ev cls : Nat) : (s.raiseAt o ev cls).lodges = s.lodges := State.raise_lodges _ _ _ _
@[simp] theorem State.raiseAt_scheds (s : State) (o : Obj) (ev cls : Nat) : (s.raiseAt o ev cls).scheds = s.scheds := State.raise_scheds _ _ _ _
@[simp] theorem State.raiseAt_preds (s : State) (o : Obj) (ev cls : Nat) : (s.raiseAt o ev cls).preds = s.preds := State.raise_preds _ _ _ _
@[simp] theorem State.raiseAt_slow (s : State) (o : Obj) (ev cls : Nat) : (s.raiseAt o ev cls).slow = s.slow := State.raise_slow _ _ _ _
@[simp] theorem State.raiseAt_bk (s : State) (o : Obj) (ev cls : Nat) : (s.raiseAt o ev cls).bk = s.bk := State.raise_bk _ _ _ _
@[simp] theorem State.raiseAt_tpdoMap (s : State) (o : Obj) (ev cls : Nat) : (s.raiseAt o ev cls).tpdoMap = s.tpdoMap := State.raise_tpdoMap _ _ _ _
@[simp] theorem State.raiseAt_healths (s : State) (o : Obj) (ev cls : Nat) : (s.raiseAt o ev cls).healths = s.healths := State.raise_healths _ _ _ _
@[simp] theorem State.raiseAt_links (s : State) (o : Obj) (ev cls : Nat) : (s.raiseAt o ev cls).links = s.links := State.raise_links _ _ _ _
@[simp] theorem State.raiseAt_mts (s : State) (o : Obj) (ev cls : Nat) : (s.raiseAt o ev cls).mts = s.mts := State.raise_mts _ _ _ _
@[simp] theorem State.raiseAt_fires (s : State) (o : Obj) (ev cls : Nat) : (s.raiseAt o ev cls).fires = s.fires := State.raise_fires _ _ _ _
@[simp] theorem State.raiseAt_pgs (s : State) (o : Obj) (ev cls : Nat) : (s.raiseAt o ev cls).pgs = s.pgs := State.raise_pgs _ _ _ _
@[simp] theorem State.raiseAt_convs (s : State) (o : Obj) (ev cls : Nat) : (s.raiseAt o ev cls).convs = s.convs := State.raise_convs _ _ _ _
@[simp] theorem State.raiseAt_bank (s : State) (o : Obj) (ev cls : Nat) : (s.raiseAt o ev cls).bank = s.bank := State.raise_bank _ _ _ _
@[simp] theorem State.raiseAt_axs (s : State) (o : Obj) (ev cls : Nat) : (s.raiseAt o ev cls).axs = s.axs := State.raise_axs _ _ _ _
@[simp] theorem State.raiseAt_igs (s : State) (o : Obj) (ev cls : Nat) : (s.raiseAt o ev cls).igs = s.igs := State.raise_igs _ _ _ _
@[simp] theorem State.raiseAt_drives (s : State) (o : Obj) (ev cls : Nat) : (s.raiseAt o ev cls).drives = s.drives := State.raise_drives _ _ _ _
@[simp] theorem State.raiseAt_pulses (s : State) (o : Obj) (ev cls : Nat) : (s.raiseAt o ev cls).pulses = s.pulses := State.raise_pulses _ _ _ _
@[simp] theorem State.raiseAt_modes (s : State) (o : Obj) (ev cls : Nat) : (s.raiseAt o ev cls).modes = s.modes := State.raise_modes _ _ _ _
@[simp] theorem State.raiseAt_supply (s : State) (o : Obj) (ev cls : Nat) : (s.raiseAt o ev cls).supply = s.supply := State.raise_supply _ _ _ _
@[simp] theorem State.raiseAt_pifs (s : State) (o : Obj) (ev cls : Nat) : (s.raiseAt o ev cls).pifs = s.pifs := State.raise_pifs _ _ _ _
@[simp] theorem State.raiseAt_ring (s : State) (o : Obj) (ev cls : Nat) : (s.raiseAt o ev cls).ring = s.ring := State.raise_ring _ _ _ _
@[simp] theorem State.raiseAt_flash (s : State) (o : Obj) (ev cls : Nat) : (s.raiseAt o ev cls).flash = s.flash := State.raise_flash _ _ _ _
@[simp] theorem State.raiseAt_otp (s : State) (o : Obj) (ev cls : Nat) : (s.raiseAt o ev cls).otp = s.otp := State.raise_otp _ _ _ _
@[simp] theorem State.raiseAt_boot (s : State) (o : Obj) (ev cls : Nat) : (s.raiseAt o ev cls).boot = s.boot := State.raise_boot _ _ _ _
@[simp] theorem State.raiseAt_net (s : State) (o : Obj) (ev cls : Nat) : (s.raiseAt o ev cls).net = s.net := State.raise_net _ _ _ _
@[simp] theorem State.raiseAt_fi (s : State) (o : Obj) (ev cls : Nat) : (s.raiseAt o ev cls).fi = s.fi := State.raise_fi _ _ _ _
@[simp] theorem State.raiseAt_out (s : State) (o : Obj) (ev cls : Nat) : (s.raiseAt o ev cls).out = s.out := State.raise_out _ _ _ _
@[simp] theorem State.raiseAt_pending (s : State) (o : Obj) (ev cls : Nat) : (s.raiseAt o ev cls).pending = s.pending := State.raise_pending _ _ _ _

end Sys2Proof.Machine
end

