-- ==== Sys2Proof/Laws/Keeps.lean ====
section
/-! SUPPORT. What every operation of the model keeps: the memory's canonical form, every listed value within its object's
type, the uptime reached and the queue; and the lemmas from which each operation's own lemma is put together. -/
namespace Sys2Proof.Machine

/-- The memory is canonical, every listed value fits its object's type, uptime is at least `u`, and `q` waits. -/
structure Keeps (q : List Instr) (u : Nat) (s : State) : Prop where
  mem : Memory.wf s.mem = true
  sized : ∀ p ∈ s.objs, p.2 < 2 ^ p.1.width
  up : u ≤ s.up
  queue : s.pending = q

/-- An answer of an access whose state is kept, accepted or refused. -/
structure KeptW (q : List Instr) (u : Nat) (r : WRes) : Prop where
  state : Keeps q u r.state

/-- An outcome whose next state, if it has one, is kept. -/
structure KeptO (q : List Instr) (u : Nat) (r : Host.Outcome State Fault Refusal) : Prop where
  next : ∀ s, r = .next s → Keeps q u s

/-- A move of a DMA channel whose state, if it changes it, is kept. -/
structure KeptM (q : List Instr) (u : Nat) (r : Moved) : Prop where
  made : ∀ s rest, r = .made s rest → Keeps q u s
  fail : ∀ s a c w, r = .fail s a c w → Keeps q u s

theorem cut {p c : Prop} (h : p) (k : p → c) : c := k h

theorem keeps_ite {q : List Instr} {u : Nat} {c : Prop} [Decidable c] {a b : State} (ha : Keeps q u a)
    (hb : Keeps q u b) : Keeps q u (if c then a else b) := by split <;> assumption
theorem keeps_ite_fst {α : Type} {q : List Instr} {u : Nat} {c : Prop} [Decidable c] {a b : State × α}
    (ha : Keeps q u a.1) (hb : Keeps q u b.1) : Keeps q u (if c then a else b).1 := by split <;> assumption
theorem keeps_ite_snd {α : Type} {q : List Instr} {u : Nat} {c : Prop} [Decidable c] {a b : α × State}
    (ha : Keeps q u a.2) (hb : Keeps q u b.2) : Keeps q u (if c then a else b).2 := by split <;> assumption
theorem keeps_foldl {α : Type} {q : List Instr} {u : Nat} {f : State → α → State} : ∀ {l : List α} {s : State},
    Keeps q u s → (∀ s, Keeps q u s → ∀ a, Keeps q u (f s a)) → Keeps q u (l.foldl f s)
  | [], _, h, _ => h
  | a :: l, s, h, hf => keeps_foldl (l := l) (s := f s a) (hf s h a) hf
theorem keptM_made {q : List Instr} {u : Nat} {s : State} {l : List Byte} (h : Keeps q u s) : KeptM q u (.made s l) :=
  ⟨fun _ _ e => (by cases e; exact h), fun _ _ _ _ e => (by cases e)⟩
theorem keptM_fail {q : List Instr} {u : Nat} {s : State} {a c : Nat} {w : Bool} (h : Keeps q u s) :
    KeptM q u (.fail s a c w) := ⟨fun _ _ e => (by cases e), fun _ _ _ _ e => (by cases e; exact h)⟩
theorem keptM_short {q : List Instr} {u : Nat} : KeptM q u .short := ⟨fun _ _ e => (by cases e), fun _ _ _ _ e => (by cases e)⟩
theorem keptM_ite {q : List Instr} {u : Nat} {c : Prop} [Decidable c] {a b : Moved} (ha : KeptM q u a)
    (hb : KeptM q u b) : KeptM q u (if c then a else b) := by split <;> assumption
theorem Keeps.of_made {q : List Instr} {u : Nat} {r : Moved} {s : State} {l : List Byte} (e : r = .made s l)
    (h : KeptM q u r) : Keeps q u s := h.made s l e
theorem Keeps.of_fail {q : List Instr} {u : Nat} {r : Moved} {s : State} {a c : Nat} {w : Bool} (e : r = .fail s a c w)
    (h : KeptM q u r) : Keeps q u s := h.fail s a c w e
theorem keeps_id {q : List Instr} {u : Nat} {s : State} (h : Keeps q u s) : Keeps q u (id s) := h
theorem keptW_ite {q : List Instr} {u : Nat} {c : Prop} [Decidable c] {a b : WRes} (ha : KeptW q u a)
    (hb : KeptW q u b) : KeptW q u (if c then a else b) := by split <;> assumption
theorem keptO_ite {q : List Instr} {u : Nat} {c : Prop} [Decidable c] {a b : Host.Outcome State Fault Refusal}
    (ha : KeptO q u a) (hb : KeptO q u b) : KeptO q u (if c then a else b) := by split <;> assumption
theorem keptW_ok {q : List Instr} {u : Nat} {s : State} (h : Keeps q u s) : KeptW q u (.ok s) := ⟨h⟩
theorem keptW_no {q : List Instr} {u : Nat} {s : State} {c : Nat} (h : Keeps q u s) : KeptW q u (.no s c) := ⟨h⟩
theorem keptO_next {q : List Instr} {u : Nat} {s : State} (h : Keeps q u s) : KeptO q u (.next s) :=
  ⟨fun _ e => by cases e; exact h⟩

/-- A state that differs from a kept one in unit fields alone is kept. -/
theorem keeps_with {q : List Instr} {u : Nat} {s : State} {ptOff : Nat} {free : Nat} {evs : EvUnit} {dmas : List (Nat × DmaCh)} {clk : Clk} {jobs : List (Nat × Job)} {intake : Intake} {lanes : List (Nat × Lane)} {scrLive : List (Nat × ScrLive)} {masks : List (Nat × Masks)} {lodges : List (Nat × Lodge)} {scheds : List (Nat × Sched)} {preds : List (Nat × Pred)} {slow : Slow} {bk : Backup} {tpdoMap : List (Obj × Nat)} {tpdoReady : List Nat} {healths : List (Nat × Health)} {links : List (Nat × Link)} {mts : List (Nat × Mt)} {fires : List (Nat × Fire)} {pgs : List (Nat × PGroup)} {convs : List (Nat × SConv)} {bank : Bank} {axs : List (Nat × Axis)} {igs : List (Nat × Group)} {drives : List (Nat × Drive)} {pulses : List (Nat × RelPair)} {modes : Modes} {supply : Supply} {pifs : List (Nat × PosIf)} {ring : Ring} {flash : Flash} {otp : Otp} {boot : Boot} {net : Net} {fi : Inject} {out : List Emit}
    (h : Keeps q u s) :
    Keeps q u ⟨s.objs, s.mem, s.up, ptOff, free, evs, dmas, clk, jobs, intake, lanes, scrLive, masks, lodges, scheds, preds, slow, bk, tpdoMap, tpdoReady, healths, links, mts, fires, pgs, convs, bank, axs, igs, drives, pulses, modes, supply, pifs, ring, flash, otp, boot, net, fi, out, s.pending⟩ :=
  ⟨h.mem, h.sized, h.up, h.queue⟩

/-- So is one whose dictionary is the kept one's with cells taken out. -/
theorem keeps_filter {f : Obj × Nat → Bool} {q : List Instr} {u : Nat} {s : State} {ptOff : Nat} {free : Nat} {evs : EvUnit} {dmas : List (Nat × DmaCh)} {clk : Clk} {jobs : List (Nat × Job)} {intake : Intake} {lanes : List (Nat × Lane)} {scrLive : List (Nat × ScrLive)} {masks : List (Nat × Masks)} {lodges : List (Nat × Lodge)} {scheds : List (Nat × Sched)} {preds : List (Nat × Pred)} {slow : Slow} {bk : Backup} {tpdoMap : List (Obj × Nat)} {tpdoReady : List Nat} {healths : List (Nat × Health)} {links : List (Nat × Link)} {mts : List (Nat × Mt)} {fires : List (Nat × Fire)} {pgs : List (Nat × PGroup)} {convs : List (Nat × SConv)} {bank : Bank} {axs : List (Nat × Axis)} {igs : List (Nat × Group)} {drives : List (Nat × Drive)} {pulses : List (Nat × RelPair)} {modes : Modes} {supply : Supply} {pifs : List (Nat × PosIf)} {ring : Ring} {flash : Flash} {otp : Otp} {boot : Boot} {net : Net} {fi : Inject} {out : List Emit}
    (h : Keeps q u s) :
    Keeps q u ⟨s.objs.filter f, s.mem, s.up, ptOff, free, evs, dmas, clk, jobs, intake, lanes, scrLive, masks, lodges, scheds, preds, slow, bk, tpdoMap, tpdoReady, healths, links, mts, fires, pgs, convs, bank, axs, igs, drives, pulses, modes, supply, pifs, ring, flash, otp, boot, net, fi, out, s.pending⟩ :=
  ⟨h.mem, fun p hp => h.sized p (List.mem_filter.mp hp).1, h.up, h.queue⟩

/-! ### Cells of the dictionary -/

theorem mem_cellErase {l : List (Obj × Nat)} {o : Obj} {p : Obj × Nat} (h : p ∈ cellErase l o) : p ∈ l := by
  induction l with
  | nil => exact h
  | cons a l ih =>
    simp only [cellErase] at h
    split at h
    · exact List.mem_cons_of_mem _ (ih h)
    · rcases List.mem_cons.mp h with rfl | h
      · exact List.mem_cons_self
      · exact List.mem_cons_of_mem _ (ih h)

theorem mem_cellPut {l : List (Obj × Nat)} {o : Obj} {v : Nat} {p : Obj × Nat} (h : p ∈ cellPut l o v) :
    p = (o, v) ∨ p ∈ l := by
  induction l with
  | nil => exact .inl (List.mem_singleton.mp h)
  | cons a l ih =>
    simp only [cellPut] at h
    split at h
    · rcases List.mem_cons.mp h with rfl | h
      · exact .inl rfl
      · exact .inr (List.mem_cons_of_mem _ h)
    · split at h
      · rcases List.mem_cons.mp h with rfl | h
        · exact .inl rfl
        · exact .inr h
      · rcases List.mem_cons.mp h with rfl | h
        · exact .inr List.mem_cons_self
        · rcases ih h with h | h
          · exact .inl h
          · exact .inr (List.mem_cons_of_mem _ h)

theorem mem_cellStore {l : List (Obj × Nat)} {o : Obj} {v : Nat} {p : Obj × Nat} (h : p ∈ cellStore l o v) :
    p = (o, v) ∨ p ∈ l := by
  simp only [cellStore] at h
  split at h
  · exact .inr (mem_cellErase h)
  · exact (mem_cellPut h).imp id mem_cellErase

theorem trunc_lt (w v : Nat) : trunc w v < 2 ^ w := Nat.mod_lt _ (Nat.two_pow_pos w)

theorem State.set_keeps {q : List Instr} {u : Nat} {s : State} {o : Obj} {v : Nat} (h : Keeps q u s) :
    Keeps q u (s.set o v) where
  mem := h.mem
  up := h.up
  queue := h.queue
  sized := fun p hp => by
    rcases mem_cellStore hp with rfl | hp
    · exact trunc_lt _ _
    · exact h.sized p hp

/-! ### The addressed memories -/

theorem memWfFrom_mono {a b : Nat} (hab : a ≤ b) : ∀ {l : List Host.Cell}, memWfFrom b l = true → memWfFrom a l = true
  | [], _ => rfl
  | c :: l, h => by
    simp only [memWfFrom, Bool.and_eq_true, decide_eq_true_eq] at h ⊢
    exact ⟨⟨Nat.le_trans hab h.1.1, h.1.2⟩, h.2⟩

/-- A canonical memory stays canonical when a byte is stored at or above its lower bound. -/
theorem memPut_wfFrom {a : Nat} {b : Byte} : ∀ {lo : Nat} {l : List Host.Cell}, lo ≤ a → memWfFrom lo l = true →
    memWfFrom lo (memPut l a b) = true
  | lo, [], hl, _ => by
    simp only [memPut]
    split
    · rfl
    · simp [memWfFrom, *]
  | lo, c :: l, hl, h => by
    simp only [memWfFrom, Bool.and_eq_true, decide_eq_true_eq] at h
    obtain ⟨⟨h1, h2⟩, h3⟩ := h
    simp only [memPut]
    split
    · rename_i e
      split
      · exact memWfFrom_mono (by omega) h3
      · simp only [memWfFrom, Bool.and_eq_true, decide_eq_true_eq]
        exact ⟨⟨hl, ‹_›⟩, e ▸ h3⟩
    · rename_i e
      split
      · split
        · simp only [memWfFrom, Bool.and_eq_true, decide_eq_true_eq]
          exact ⟨⟨h1, h2⟩, h3⟩
        · simp only [memWfFrom, Bool.and_eq_true, decide_eq_true_eq]
          exact ⟨⟨hl, ‹_›⟩, ⟨by omega, h2⟩, h3⟩
      · simp only [memWfFrom, Bool.and_eq_true, decide_eq_true_eq]
        exact ⟨⟨h1, h2⟩, memPut_wfFrom (by omega) h3⟩

/-- Storing a byte keeps the memory canonical. -/
theorem memPut_wf {a : Nat} {b : Byte} {l : List Host.Cell} (h : Memory.wf l = true) :
    Memory.wf (memPut l a b) = true := memPut_wfFrom (Nat.zero_le _) h

/-- Dropping listed bytes keeps the memory canonical. -/
theorem filter_wfFrom {f : Host.Cell → Bool} : ∀ {lo : Nat} {l : List Host.Cell}, memWfFrom lo l = true →
    memWfFrom lo (l.filter f) = true
  | _, [], _ => rfl
  | lo, c :: l, h => by
    simp only [memWfFrom, Bool.and_eq_true, decide_eq_true_eq] at h
    obtain ⟨⟨h1, h2⟩, h3⟩ := h
    rw [List.filter_cons]
    split
    · simp only [memWfFrom, Bool.and_eq_true, decide_eq_true_eq]
      exact ⟨⟨h1, h2⟩, filter_wfFrom h3⟩
    · exact memWfFrom_mono (by omega) (filter_wfFrom h3)

theorem filter_wf {f : Host.Cell → Bool} {l : List Host.Cell} (h : Memory.wf l = true) :
    Memory.wf (l.filter f) = true := filter_wfFrom h

/-- A state that differs from a kept one in unit fields and in bytes dropped from the memory is kept. -/
theorem keeps_memFilter {f : Host.Cell → Bool} {q : List Instr} {u : Nat} {s : State} {ptOff : Nat} {free : Nat} {evs : EvUnit} {dmas : List (Nat × DmaCh)} {clk : Clk} {jobs : List (Nat × Job)} {intake : Intake} {lanes : List (Nat × Lane)} {scrLive : List (Nat × ScrLive)} {masks : List (Nat × Masks)} {lodges : List (Nat × Lodge)} {scheds : List (Nat × Sched)} {preds : List (Nat × Pred)} {slow : Slow} {bk : Backup} {tpdoMap : List (Obj × Nat)} {tpdoReady : List Nat} {healths : List (Nat × Health)} {links : List (Nat × Link)} {mts : List (Nat × Mt)} {fires : List (Nat × Fire)} {pgs : List (Nat × PGroup)} {convs : List (Nat × SConv)} {bank : Bank} {axs : List (Nat × Axis)} {igs : List (Nat × Group)} {drives : List (Nat × Drive)} {pulses : List (Nat × RelPair)} {modes : Modes} {supply : Supply} {pifs : List (Nat × PosIf)} {ring : Ring} {flash : Flash} {otp : Otp} {boot : Boot} {net : Net} {fi : Inject} {out : List Emit}
    (h : Keeps q u s) :
    Keeps q u ⟨s.objs, s.mem.filter f, s.up, ptOff, free, evs, dmas, clk, jobs, intake, lanes, scrLive, masks, lodges, scheds, preds, slow, bk, tpdoMap, tpdoReady, healths, links, mts, fires, pgs, convs, bank, axs, igs, drives, pulses, modes, supply, pifs, ring, flash, otp, boot, net, fi, out, s.pending⟩ :=
  ⟨filter_wf h.mem, h.sized, h.up, h.queue⟩

theorem State.mput_keeps {q : List Instr} {u : Nat} {s : State} {a : Nat} {b : Byte} (h : Keeps q u s) :
    Keeps q u (s.mput a b) := ⟨memPut_wf h.mem, h.sized, h.up, h.queue⟩

theorem State.mputs_keeps {q : List Instr} {u : Nat} : ∀ {s : State} {a : Nat} {bs : List Byte}, Keeps q u s →
    Keeps q u (s.mputs a bs)
  | _, _, [], h => h
  | s, a, b :: bs, h => State.mputs_keeps (s := s.mput a b) (a := a + 1) (bs := bs) (State.mput_keeps h)

theorem foldl_memPut_wf {f : Host.Cell → Nat} : ∀ {l m : List Host.Cell}, Memory.wf m = true →
    Memory.wf (l.foldl (fun m c => memPut m (f c) c.2) m) = true
  | [], _, h => h
  | c :: l, m, h => foldl_memPut_wf (l := l) (m := memPut m (f c) c.2) (memPut_wf h)

theorem State.mcopy_keeps {q : List Instr} {u : Nat} {s : State} {src dst len : Nat} (h : Keeps q u s) :
    Keeps q u (s.mcopy src dst len) := ⟨foldl_memPut_wf (filter_wf h.mem), h.sized, h.up, h.queue⟩

/-! ### Lists of numbers, and accesses -/

theorem State.forAll_keeps {q : List Instr} {u : Nat} {f : State → Nat → State} :
    ∀ {l : List Nat} {s : State}, Keeps q u s → (∀ s, Keeps q u s → ∀ k, Keeps q u (f s k)) → Keeps q u (s.forAll l f)
  | [], _, h, _ => h
  | k :: l, s, h, hf => State.forAll_keeps (l := l) (s := f s k) (hf _ h k) hf

theorem need_keeps {q : List Instr} {u : Nat} {s : State} {c : Bool} {code : Nat} {k : WRes} (h : Keeps q u s)
    (hk : KeptW q u k) : KeptW q u (need s c code k) := by
  unfold need; split
  · exact hk
  · exact ⟨h⟩

theorem checked_keeps {q : List Instr} {u : Nat} {o : Obj} {v : Nat} {f : Nat → State → WRes} {s : State}
    (h : Keeps q u s) (hf : ∀ s, Keeps q u s → ∀ k, KeptW q u (f k s)) : KeptW q u (checked o v f s) := by
  unfold checked
  split
  · exact ⟨h⟩
  · split
    · exact ⟨h⟩
    · exact hf _ h _

theorem WRes.bind_keeps {q : List Instr} {u : Nat} {r : WRes} {f : State → WRes} (h : KeptW q u r)
    (hf : ∀ s, Keeps q u s → KeptW q u (f s)) : KeptW q u (r.bind f) := by
  cases r with
  | ok s => exact hf s h.state
  | no s c => exact h

/-- The state of an accepted access is kept when the access is. -/
theorem Keeps.of_ok {q : List Instr} {u : Nat} {r : WRes} {s : State} (e : r = .ok s) (h : KeptW q u r) : Keeps q u s := by
  subst e; exact h.state
theorem Keeps.of_no {q : List Instr} {u : Nat} {r : WRes} {s : State} {c : Nat} (e : r = .no s c) (h : KeptW q u r) :
    Keeps q u s := by
  subst e; exact h.state
theorem Keeps.of_fst {α : Type} {q : List Instr} {u : Nat} {r : State × α} {s : State} {x : α} (e : r = (s, x))
    (h : Keeps q u r.1) : Keeps q u s := by
  subst e; exact h
theorem Keeps.of_snd {α : Type} {q : List Instr} {u : Nat} {r : α × State} {s : State} {x : α} (e : r = (x, s))
    (h : Keeps q u r.2) : Keeps q u s := by
  subst e; exact h

end Sys2Proof.Machine
end

