-- ==== Sys2Proof/Laws/KeepsOps.lean ====
section
/-! SUPPORT. What each operation of Machine/Ops.lean keeps (Laws/Keeps.lean). -/
namespace Sys2Proof.Machine

theorem State.setI_keeps {q : List Instr} {u : Nat} {s : State} {o : Obj} {i : Int} (hs : Keeps q u s) :
    Keeps q u (State.setI s o i) := by
  unfold State.setI
  repeat' first
    | with_reducible assumption
    | with_reducible apply State.set_keeps

theorem State.setSat_keeps {q : List Instr} {u : Nat} {s : State} {o : Obj} {i : Int} (hs : Keeps q u s) :
    Keeps q u (State.setSat s o i) := by
  unfold State.setSat
  repeat' first
    | with_reducible assumption
    | with_reducible apply State.setI_keeps

theorem State.setB_keeps {q : List Instr} {u : Nat} {s : State} {o : Obj} {i : Nat} {b : Bool} (hs : Keeps q u s) :
    Keeps q u (State.setB s o i b) := by
  unfold State.setB
  repeat' first
    | with_reducible assumption
    | with_reducible apply State.set_keeps

theorem State.setF_keeps {q : List Instr} {u : Nat} {s : State} {o : Obj} {f : Fld} {v : Nat} (hs : Keeps q u s) :
    Keeps q u (State.setF s o f v) := by
  unfold State.setF
  repeat' first
    | with_reducible assumption
    | with_reducible apply State.set_keeps

theorem State.addC_keeps {q : List Instr} {u : Nat} {s : State} {o : Obj} {n : Nat} (hs : Keeps q u s) :
    Keeps q u (State.addC s o n) := by
  unfold State.addC
  repeat' first
    | with_reducible assumption
    | with_reducible apply State.set_keeps

theorem State.inc_keeps {q : List Instr} {u : Nat} {s : State} {o : Obj} (hs : Keeps q u s) :
    Keeps q u (State.inc s o) := by
  unfold State.inc
  repeat' first
    | with_reducible assumption
    | with_reducible apply State.addC_keeps

theorem State.rise_keeps {q : List Instr} {u : Nat} {s : State} {o : Obj} {n : Nat} (hs : Keeps q u s) :
    Keeps q u (State.rise s o n) := by
  unfold State.rise
  repeat' first
    | with_reducible assumption
    | with_reducible apply State.set_keeps
    | with_reducible apply keeps_ite

theorem State.setRing_keeps {q : List Instr} {u : Nat} {s : State} {x : Ring} (hs : Keeps q u s) :
    Keeps q u (State.setRing s x) := by
  unfold State.setRing
  repeat' first
    | with_reducible assumption
    | with_reducible apply keeps_ite
    | with_reducible apply keptW_ok
    | with_reducible apply keptW_no
    | with_reducible apply keptO_next
    | with_reducible apply keptW_ite
    | with_reducible apply keptO_ite
    | split
    | (with_reducible apply keeps_with; with_reducible assumption)

theorem State.setNet_keeps {q : List Instr} {u : Nat} {s : State} {x : Net} (hs : Keeps q u s) :
    Keeps q u (State.setNet s x) := by
  unfold State.setNet
  repeat' first
    | with_reducible assumption
    | with_reducible apply keeps_ite
    | with_reducible apply keptW_ok
    | with_reducible apply keptW_no
    | with_reducible apply keptO_next
    | with_reducible apply keptW_ite
    | with_reducible apply keptO_ite
    | split
    | (with_reducible apply keeps_with; with_reducible assumption)

theorem State.setIntake_keeps {q : List Instr} {u : Nat} {s : State} {x : Intake} (hs : Keeps q u s) :
    Keeps q u (State.setIntake s x) := by
  unfold State.setIntake
  repeat' first
    | with_reducible assumption
    | with_reducible apply keeps_ite
    | with_reducible apply keptW_ok
    | with_reducible apply keptW_no
    | with_reducible apply keptO_next
    | with_reducible apply keptW_ite
    | with_reducible apply keptO_ite
    | split
    | (with_reducible apply keeps_with; with_reducible assumption)

theorem State.setEvs_keeps {q : List Instr} {u : Nat} {s : State} {x : EvUnit} (hs : Keeps q u s) :
    Keeps q u (State.setEvs s x) := by
  unfold State.setEvs
  repeat' first
    | with_reducible assumption
    | with_reducible apply keeps_ite
    | with_reducible apply keptW_ok
    | with_reducible apply keptW_no
    | with_reducible apply keptO_next
    | with_reducible apply keptW_ite
    | with_reducible apply keptO_ite
    | split
    | (with_reducible apply keeps_with; with_reducible assumption)

theorem State.setClk_keeps {q : List Instr} {u : Nat} {s : State} {x : Clk} (hs : Keeps q u s) :
    Keeps q u (State.setClk s x) := by
  unfold State.setClk
  repeat' first
    | with_reducible assumption
    | with_reducible apply keeps_ite
    | with_reducible apply keptW_ok
    | with_reducible apply keptW_no
    | with_reducible apply keptO_next
    | with_reducible apply keptW_ite
    | with_reducible apply keptO_ite
    | split
    | (with_reducible apply keeps_with; with_reducible assumption)

theorem State.setBk_keeps {q : List Instr} {u : Nat} {s : State} {x : Backup} (hs : Keeps q u s) :
    Keeps q u (State.setBk s x) := by
  unfold State.setBk
  repeat' first
    | with_reducible assumption
    | with_reducible apply keeps_ite
    | with_reducible apply keptW_ok
    | with_reducible apply keptW_no
    | with_reducible apply keptO_next
    | with_reducible apply keptW_ite
    | with_reducible apply keptO_ite
    | split
    | (with_reducible apply keeps_with; with_reducible assumption)

theorem State.setModes_keeps {q : List Instr} {u : Nat} {s : State} {x : Modes} (hs : Keeps q u s) :
    Keeps q u (State.setModes s x) := by
  unfold State.setModes
  repeat' first
    | with_reducible assumption
    | with_reducible apply keeps_ite
    | with_reducible apply keptW_ok
    | with_reducible apply keptW_no
    | with_reducible apply keptO_next
    | with_reducible apply keptW_ite
    | with_reducible apply keptO_ite
    | split
    | (with_reducible apply keeps_with; with_reducible assumption)

theorem State.setBank_keeps {q : List Instr} {u : Nat} {s : State} {x : Bank} (hs : Keeps q u s) :
    Keeps q u (State.setBank s x) := by
  unfold State.setBank
  repeat' first
    | with_reducible assumption
    | with_reducible apply keeps_ite
    | with_reducible apply keptW_ok
    | with_reducible apply keptW_no
    | with_reducible apply keptO_next
    | with_reducible apply keptW_ite
    | with_reducible apply keptO_ite
    | split
    | (with_reducible apply keeps_with; with_reducible assumption)

theorem State.setSlow_keeps {q : List Instr} {u : Nat} {s : State} {x : Slow} (hs : Keeps q u s) :
    Keeps q u (State.setSlow s x) := by
  unfold State.setSlow
  repeat' first
    | with_reducible assumption
    | with_reducible apply keeps_ite
    | with_reducible apply keptW_ok
    | with_reducible apply keptW_no
    | with_reducible apply keptO_next
    | with_reducible apply keptW_ite
    | with_reducible apply keptO_ite
    | split
    | (with_reducible apply keeps_with; with_reducible assumption)

theorem State.setBoot_keeps {q : List Instr} {u : Nat} {s : State} {x : Boot} (hs : Keeps q u s) :
    Keeps q u (State.setBoot s x) := by
  unfold State.setBoot
  repeat' first
    | with_reducible assumption
    | with_reducible apply keeps_ite
    | with_reducible apply keptW_ok
    | with_reducible apply keptW_no
    | with_reducible apply keptO_next
    | with_reducible apply keptW_ite
    | with_reducible apply keptO_ite
    | split
    | (with_reducible apply keeps_with; with_reducible assumption)

theorem State.setSupply_keeps {q : List Instr} {u : Nat} {s : State} {x : Supply} (hs : Keeps q u s) :
    Keeps q u (State.setSupply s x) := by
  unfold State.setSupply
  repeat' first
    | with_reducible assumption
    | with_reducible apply keeps_ite
    | with_reducible apply keptW_ok
    | with_reducible apply keptW_no
    | with_reducible apply keptO_next
    | with_reducible apply keptW_ite
    | with_reducible apply keptO_ite
    | split
    | (with_reducible apply keeps_with; with_reducible assumption)

theorem State.setFi_keeps {q : List Instr} {u : Nat} {s : State} {x : Inject} (hs : Keeps q u s) :
    Keeps q u (State.setFi s x) := by
  unfold State.setFi
  repeat' first
    | with_reducible assumption
    | with_reducible apply keeps_ite
    | with_reducible apply keptW_ok
    | with_reducible apply keptW_no
    | with_reducible apply keptO_next
    | with_reducible apply keptW_ite
    | with_reducible apply keptO_ite
    | split
    | (with_reducible apply keeps_with; with_reducible assumption)

theorem State.setFlash_keeps {q : List Instr} {u : Nat} {s : State} {x : Flash} (hs : Keeps q u s) :
    Keeps q u (State.setFlash s x) := by
  unfold State.setFlash
  repeat' first
    | with_reducible assumption
    | with_reducible apply keeps_ite
    | with_reducible apply keptW_ok
    | with_reducible apply keptW_no
    | with_reducible apply keptO_next
    | with_reducible apply keptW_ite
    | with_reducible apply keptO_ite
    | split
    | (with_reducible apply keeps_with; with_reducible assumption)

theorem State.setOtp_keeps {q : List Instr} {u : Nat} {s : State} {x : Otp} (hs : Keeps q u s) :
    Keeps q u (State.setOtp s x) := by
  unfold State.setOtp
  repeat' first
    | with_reducible assumption
    | with_reducible apply keeps_ite
    | with_reducible apply keptW_ok
    | with_reducible apply keptW_no
    | with_reducible apply keptO_next
    | with_reducible apply keptW_ite
    | with_reducible apply keptO_ite
    | split
    | (with_reducible apply keeps_with; with_reducible assumption)

theorem State.ptNote_keeps {q : List Instr} {u : Nat} {s : State} {m : PtMark} (hs : Keeps q u s) :
    Keeps q u (State.ptNote s m) := by
  unfold State.ptNote
  repeat' first
    | with_reducible assumption
    | (lift_lets -underBinder; (intro x; clear_value x))
    | with_reducible apply State.setClk_keeps

theorem State.ptSet_keeps {q : List Instr} {u : Nat} {s : State} {off : Nat} (hs : Keeps q u s) :
    Keeps q u (State.ptSet s off) := by
  unfold State.ptSet
  repeat' first
    | with_reducible assumption
    | (lift_lets -underBinder; (intro s; refine cut (p := Keeps q u (s : State)) ?_ ?_; (on_goal 2 => clear_value s; intro _); (on_goal 1 => try subst s)))
    | with_reducible apply State.ptNote_keeps
    | with_reducible apply keeps_ite
    | with_reducible apply keptW_ok
    | with_reducible apply keptW_no
    | with_reducible apply keptO_next
    | with_reducible apply keptW_ite
    | with_reducible apply keptO_ite
    | split
    | (with_reducible apply keeps_with; with_reducible assumption)

theorem State.ptMove_keeps {q : List Instr} {u : Nat} {s : State} {d : Int} (hs : Keeps q u s) :
    Keeps q u (State.ptMove s d) := by
  unfold State.ptMove
  repeat' first
    | with_reducible assumption
    | with_reducible apply State.ptSet_keeps

theorem State.rtcRun_keeps {q : List Instr} {u : Nat} {s : State} {dt : Nat} (hs : Keeps q u s) :
    Keeps q u (State.rtcRun s dt) := by
  unfold State.rtcRun
  repeat' first
    | with_reducible assumption
    | (intro s; refine cut (p := Keeps q u (s : State)) ?_ ?_; (on_goal 2 => clear_value s; intro _); (on_goal 1 => try subst s))
    | (intro x; clear_value x)
    | (lift_lets -underBinder; (intro x; clear_value x))
    | with_reducible apply State.setBk_keeps
    | with_reducible apply State.addC_keeps
    | with_reducible apply keeps_ite

theorem State.steerRun_keeps {q : List Instr} {u : Nat} {s : State} {n : Nat} (hs : Keeps q u s) :
    Keeps q u (State.steerRun s n) := by
  unfold State.steerRun
  repeat' first
    | with_reducible assumption
    | (intro s; refine cut (p := Keeps q u (s : State)) ?_ ?_; (on_goal 2 => clear_value s; intro _); (on_goal 1 => try subst s))
    | (intro x; clear_value x)
    | (lift_lets -underBinder; (intro x; clear_value x))
    | with_reducible apply State.setRing_keeps
    | with_reducible apply keeps_ite
    | with_reducible apply keptW_ok
    | with_reducible apply keptW_no
    | with_reducible apply keptO_next
    | with_reducible apply keptW_ite
    | with_reducible apply keptO_ite
    | split
    | (with_reducible apply keeps_with; with_reducible assumption)

theorem State.peakGroup_keeps {q : List Instr} {u : Nat} {s : State} {g : Nat} {a : Nat} {b : Nat} (hs : Keeps q u s) :
    Keeps q u (State.peakGroup s g a b) := by
  unfold State.peakGroup
  repeat' first
    | with_reducible assumption
    | refine fun (s : State) (h : Keeps q u s) => ?_
    | refine fun _ => ?_
    | (intro s; refine cut (p := Keeps q u (s : State)) ?_ ?_; (on_goal 2 => clear_value s; intro _); (on_goal 1 => try subst s))
    | (intro x; clear_value x)
    | (lift_lets -underBinder; (intro x; clear_value x))
    | with_reducible apply keeps_foldl
    | refine fun (s : State) (h : Keeps q u s) => ?_
    | refine fun _ => ?_
    | with_reducible apply State.rise_keeps
    | with_reducible apply State.setB_keeps
    | with_reducible apply hf
    | with_reducible apply keeps_ite
    | with_reducible apply keptW_ok
    | with_reducible apply keptW_no
    | with_reducible apply keptO_next
    | with_reducible apply keptW_ite
    | with_reducible apply keptO_ite
    | split
    | (with_reducible apply keeps_with; with_reducible assumption)

theorem State.peakRun_keeps {q : List Instr} {u : Nat} {s : State} {a : Nat} {b : Nat} (hs : Keeps q u s) :
    Keeps q u (State.peakRun s a b) := by
  unfold State.peakRun
  repeat' first
    | with_reducible assumption
    | refine fun (s : State) (h : Keeps q u s) => ?_
    | refine fun _ => ?_
    | with_reducible apply State.forAll_keeps
    | with_reducible apply State.peakGroup_keeps
    | with_reducible apply keeps_ite

theorem State.adv_keeps {q : List Instr} {u : Nat} {s : State} {t : Nat} (hs : Keeps q u s) : Keeps q u (s.adv t) := by
  unfold State.adv
  split
  · exact hs
  · rename_i ht
    have hp : Keeps q u (s.peakRun s.up t) := State.peakRun_keeps hs
    revert hp
    generalize s.peakRun s.up t = s1
    intro hp
    have h : Keeps q u (({ s1 with up := t } : State).rtcRun (t - s1.up)) :=
      State.rtcRun_keeps ⟨hp.mem, hp.sized, by have := hs.up; simp only; omega, hp.queue⟩
    simp only
    split
    · exact h
    · exact State.steerRun_keeps (State.ptNote_keeps h)

theorem State.draw_keeps {q : List Instr} {u : Nat} {s : State} (hs : Keeps q u s) :
    Keeps q u (State.draw s).2 := by
  unfold State.draw
  repeat' first
    | with_reducible assumption
    | with_reducible apply keeps_ite
    | with_reducible apply keptW_ok
    | with_reducible apply keptW_no
    | with_reducible apply keptO_next
    | with_reducible apply keptW_ite
    | with_reducible apply keptO_ite
    | split
    | (with_reducible apply keeps_with; with_reducible assumption)

theorem State.emit_keeps {q : List Instr} {u : Nat} {s : State} {e : Emit} (hs : Keeps q u s) :
    Keeps q u (State.emit s e) := by
  unfold State.emit
  repeat' first
    | with_reducible assumption
    | with_reducible apply keeps_ite
    | with_reducible apply keptW_ok
    | with_reducible apply keptW_no
    | with_reducible apply keptO_next
    | with_reducible apply keptW_ite
    | with_reducible apply keptO_ite
    | split
    | (with_reducible apply keeps_with; with_reducible assumption)

theorem State.setJob_keeps {q : List Instr} {u : Nat} {s : State} {j : Nat} {x : Job} (hs : Keeps q u s) :
    Keeps q u (State.setJob s j x) := by
  unfold State.setJob
  repeat' first
    | with_reducible assumption
    | with_reducible apply keeps_ite
    | with_reducible apply keptW_ok
    | with_reducible apply keptW_no
    | with_reducible apply keptO_next
    | with_reducible apply keptW_ite
    | with_reducible apply keptO_ite
    | split
    | (with_reducible apply keeps_with; with_reducible assumption)

theorem State.setLane_keeps {q : List Instr} {u : Nat} {s : State} {n : Nat} {x : Lane} (hs : Keeps q u s) :
    Keeps q u (State.setLane s n x) := by
  unfold State.setLane
  repeat' first
    | with_reducible assumption
    | with_reducible apply keeps_ite
    | with_reducible apply keptW_ok
    | with_reducible apply keptW_no
    | with_reducible apply keptO_next
    | with_reducible apply keptW_ite
    | with_reducible apply keptO_ite
    | split
    | (with_reducible apply keeps_with; with_reducible assumption)

theorem State.setLive_keeps {q : List Instr} {u : Nat} {s : State} {n : Nat} {x : ScrLive} (hs : Keeps q u s) :
    Keeps q u (State.setLive s n x) := by
  unfold State.setLive
  repeat' first
    | with_reducible assumption
    | with_reducible apply keeps_ite
    | with_reducible apply keptW_ok
    | with_reducible apply keptW_no
    | with_reducible apply keptO_next
    | with_reducible apply keptW_ite
    | with_reducible apply keptO_ite
    | split
    | (with_reducible apply keeps_with; with_reducible assumption)

theorem State.setMask_keeps {q : List Instr} {u : Nat} {s : State} {n : Nat} {x : Masks} (hs : Keeps q u s) :
    Keeps q u (State.setMask s n x) := by
  unfold State.setMask
  repeat' first
    | with_reducible assumption
    | with_reducible apply keeps_ite
    | with_reducible apply keptW_ok
    | with_reducible apply keptW_no
    | with_reducible apply keptO_next
    | with_reducible apply keptW_ite
    | with_reducible apply keptO_ite
    | split
    | (with_reducible apply keeps_with; with_reducible assumption)

theorem State.setLodge_keeps {q : List Instr} {u : Nat} {s : State} {n : Nat} {x : Lodge} (hs : Keeps q u s) :
    Keeps q u (State.setLodge s n x) := by
  unfold State.setLodge
  repeat' first
    | with_reducible assumption
    | with_reducible apply keeps_ite
    | with_reducible apply keptW_ok
    | with_reducible apply keptW_no
    | with_reducible apply keptO_next
    | with_reducible apply keptW_ite
    | with_reducible apply keptO_ite
    | split
    | (with_reducible apply keeps_with; with_reducible assumption)

theorem State.setSched_keeps {q : List Instr} {u : Nat} {s : State} {n : Nat} {x : Sched} (hs : Keeps q u s) :
    Keeps q u (State.setSched s n x) := by
  unfold State.setSched
  repeat' first
    | with_reducible assumption
    | with_reducible apply keeps_ite
    | with_reducible apply keptW_ok
    | with_reducible apply keptW_no
    | with_reducible apply keptO_next
    | with_reducible apply keptW_ite
    | with_reducible apply keptO_ite
    | split
    | (with_reducible apply keeps_with; with_reducible assumption)

theorem State.setPred_keeps {q : List Instr} {u : Nat} {s : State} {i : Nat} {x : Pred} (hs : Keeps q u s) :
    Keeps q u (State.setPred s i x) := by
  unfold State.setPred
  repeat' first
    | with_reducible assumption
    | with_reducible apply keeps_ite
    | with_reducible apply keptW_ok
    | with_reducible apply keptW_no
    | with_reducible apply keptO_next
    | with_reducible apply keptW_ite
    | with_reducible apply keptO_ite
    | split
    | (with_reducible apply keeps_with; with_reducible assumption)

theorem State.setDmaCh_keeps {q : List Instr} {u : Nat} {s : State} {c : Nat} {x : DmaCh} (hs : Keeps q u s) :
    Keeps q u (State.setDmaCh s c x) := by
  unfold State.setDmaCh
  repeat' first
    | with_reducible assumption
    | with_reducible apply keeps_ite
    | with_reducible apply keptW_ok
    | with_reducible apply keptW_no
    | with_reducible apply keptO_next
    | with_reducible apply keptW_ite
    | with_reducible apply keptO_ite
    | split
    | (with_reducible apply keeps_with; with_reducible assumption)

theorem State.setHealth_keeps {q : List Instr} {u : Nat} {s : State} {n : Nat} {x : Health} (hs : Keeps q u s) :
    Keeps q u (State.setHealth s n x) := by
  unfold State.setHealth
  repeat' first
    | with_reducible assumption
    | with_reducible apply keeps_ite
    | with_reducible apply keptW_ok
    | with_reducible apply keptW_no
    | with_reducible apply keptO_next
    | with_reducible apply keptW_ite
    | with_reducible apply keptO_ite
    | split
    | (with_reducible apply keeps_with; with_reducible assumption)

theorem State.setLink_keeps {q : List Instr} {u : Nat} {s : State} {n : Nat} {x : Link} (hs : Keeps q u s) :
    Keeps q u (State.setLink s n x) := by
  unfold State.setLink
  repeat' first
    | with_reducible assumption
    | with_reducible apply keeps_ite
    | with_reducible apply keptW_ok
    | with_reducible apply keptW_no
    | with_reducible apply keptO_next
    | with_reducible apply keptW_ite
    | with_reducible apply keptO_ite
    | split
    | (with_reducible apply keeps_with; with_reducible assumption)

theorem State.setFire_keeps {q : List Instr} {u : Nat} {s : State} {n : Nat} {x : Fire} (hs : Keeps q u s) :
    Keeps q u (State.setFire s n x) := by
  unfold State.setFire
  repeat' first
    | with_reducible assumption
    | with_reducible apply keeps_ite
    | with_reducible apply keptW_ok
    | with_reducible apply keptW_no
    | with_reducible apply keptO_next
    | with_reducible apply keptW_ite
    | with_reducible apply keptO_ite
    | split
    | (with_reducible apply keeps_with; with_reducible assumption)

theorem State.setPg_keeps {q : List Instr} {u : Nat} {s : State} {n : Nat} {x : PGroup} (hs : Keeps q u s) :
    Keeps q u (State.setPg s n x) := by
  unfold State.setPg
  repeat' first
    | with_reducible assumption
    | with_reducible apply keeps_ite
    | with_reducible apply keptW_ok
    | with_reducible apply keptW_no
    | with_reducible apply keptO_next
    | with_reducible apply keptW_ite
    | with_reducible apply keptO_ite
    | split
    | (with_reducible apply keeps_with; with_reducible assumption)

theorem State.setSconv_keeps {q : List Instr} {u : Nat} {s : State} {n : Nat} {x : SConv} (hs : Keeps q u s) :
    Keeps q u (State.setSconv s n x) := by
  unfold State.setSconv
  repeat' first
    | with_reducible assumption
    | with_reducible apply keeps_ite
    | with_reducible apply keptW_ok
    | with_reducible apply keptW_no
    | with_reducible apply keptO_next
    | with_reducible apply keptW_ite
    | with_reducible apply keptO_ite
    | split
    | (with_reducible apply keeps_with; with_reducible assumption)

theorem State.setMt_keeps {q : List Instr} {u : Nat} {s : State} {k : Nat} {x : Mt} (hs : Keeps q u s) :
    Keeps q u (State.setMt s k x) := by
  unfold State.setMt
  repeat' first
    | with_reducible assumption
    | with_reducible apply keeps_ite
    | with_reducible apply keptW_ok
    | with_reducible apply keptW_no
    | with_reducible apply keptO_next
    | with_reducible apply keptW_ite
    | with_reducible apply keptO_ite
    | split
    | (with_reducible apply keeps_with; with_reducible assumption)

theorem State.setAx_keeps {q : List Instr} {u : Nat} {s : State} {a : Nat} {x : Axis} (hs : Keeps q u s) :
    Keeps q u (State.setAx s a x) := by
  unfold State.setAx
  repeat' first
    | with_reducible assumption
    | with_reducible apply keeps_ite
    | with_reducible apply keptW_ok
    | with_reducible apply keptW_no
    | with_reducible apply keptO_next
    | with_reducible apply keptW_ite
    | with_reducible apply keptO_ite
    | split
    | (with_reducible apply keeps_with; with_reducible assumption)

theorem State.setIg_keeps {q : List Instr} {u : Nat} {s : State} {g : Nat} {x : Group} (hs : Keeps q u s) :
    Keeps q u (State.setIg s g x) := by
  unfold State.setIg
  repeat' first
    | with_reducible assumption
    | with_reducible apply keeps_ite
    | with_reducible apply keptW_ok
    | with_reducible apply keptW_no
    | with_reducible apply keptO_next
    | with_reducible apply keptW_ite
    | with_reducible apply keptO_ite
    | split
    | (with_reducible apply keeps_with; with_reducible assumption)

theorem State.setDs_keeps {q : List Instr} {u : Nat} {s : State} {a : Nat} {x : Drive} (hs : Keeps q u s) :
    Keeps q u (State.setDs s a x) := by
  unfold State.setDs
  repeat' first
    | with_reducible assumption
    | with_reducible apply keeps_ite
    | with_reducible apply keptW_ok
    | with_reducible apply keptW_no
    | with_reducible apply keptO_next
    | with_reducible apply keptW_ite
    | with_reducible apply keptO_ite
    | split
    | (with_reducible apply keeps_with; with_reducible assumption)

theorem State.setRelPair_keeps {q : List Instr} {u : Nat} {s : State} {k : Nat} {x : RelPair} (hs : Keeps q u s) :
    Keeps q u (State.setRelPair s k x) := by
  unfold State.setRelPair
  repeat' first
    | with_reducible assumption
    | with_reducible apply keeps_ite
    | with_reducible apply keptW_ok
    | with_reducible apply keptW_no
    | with_reducible apply keptO_next
    | with_reducible apply keptW_ite
    | with_reducible apply keptO_ite
    | split
    | (with_reducible apply keeps_with; with_reducible assumption)

theorem State.setPif_keeps {q : List Instr} {u : Nat} {s : State} {i : Nat} {x : PosIf} (hs : Keeps q u s) :
    Keeps q u (State.setPif s i x) := by
  unfold State.setPif
  repeat' first
    | with_reducible assumption
    | with_reducible apply keeps_ite
    | with_reducible apply keptW_ok
    | with_reducible apply keptW_no
    | with_reducible apply keptO_next
    | with_reducible apply keptW_ite
    | with_reducible apply keptO_ite
    | split
    | (with_reducible apply keeps_with; with_reducible assumption)

end Sys2Proof.Machine
end

