-- ==== Sys2Proof/Laws/KeepsFlags.lean ====
section
/-! SUPPORT. What each operation of Machine/Flags.lean keeps (Laws/Keeps.lean). -/
namespace Sys2Proof.Machine

theorem State.credit_keeps {q : List Instr} {u : Nat} {s : State} {ev : Nat} {c : Nat} (hs : Keeps q u s) :
    Keeps q u (State.credit s ev c) := by
  unfold State.credit
  repeat' first
    | with_reducible assumption
    | (intro x; clear_value x)
    | (lift_lets -underBinder; (intro x; clear_value x))
    | with_reducible apply State.setDmaCh_keeps
    | with_reducible apply State.setF_keeps
    | with_reducible apply State.setB_keeps
    | with_reducible apply keeps_ite

theorem State.buffer_keeps {q : List Instr} {u : Nat} {s : State} {x : Occ} (hs : Keeps q u s) :
    Keeps q u (State.buffer s x) := by
  unfold State.buffer
  repeat' first
    | with_reducible assumption
    | (lift_lets -underBinder; (intro x; clear_value x))
    | with_reducible apply State.setEvs_keeps
    | with_reducible apply State.setF_keeps
    | with_reducible apply State.inc_keeps
    | with_reducible apply State.setB_keeps
    | with_reducible apply keeps_ite

theorem State.raise_keeps {q : List Instr} {u : Nat} {s : State} {ev : Nat} {cls : Nat} {detail : Nat} (hs : Keeps q u s) :
    Keeps q u (State.raise s ev cls detail) := by
  unfold State.raise
  repeat' first
    | with_reducible assumption
    | refine fun (s : State) (h : Keeps q u s) => ?_
    | refine fun _ => ?_
    | (intro s; refine cut (p := Keeps q u (s : State)) ?_ ?_; (on_goal 2 => clear_value s; intro _); (on_goal 1 => try subst s))
    | (lift_lets -underBinder; (intro s; refine cut (p := Keeps q u (s : State)) ?_ ?_; (on_goal 2 => clear_value s; intro _); (on_goal 1 => try subst s)))
    | with_reducible apply State.setB_keeps
    | with_reducible apply State.inc_keeps
    | with_reducible apply State.forAll_keeps
    | with_reducible apply State.credit_keeps
    | with_reducible apply State.buffer_keeps

theorem State.hit_keeps {q : List Instr} {u : Nat} {s : State} {o : Obj} {bit : Nat} {ev : Nat} {cls : Nat} (hs : Keeps q u s) :
    Keeps q u (State.hit s o bit ev cls) := by
  unfold State.hit
  repeat' first
    | with_reducible assumption
    | with_reducible apply State.setB_keeps
    | with_reducible apply State.raise_keeps

theorem State.raiseAt_keeps {q : List Instr} {u : Nat} {s : State} {o : Obj} {ev : Nat} {cls : Nat} (hs : Keeps q u s) :
    Keeps q u (State.raiseAt s o ev cls) := by
  unfold State.raiseAt
  repeat' first
    | with_reducible assumption
    | with_reducible apply State.raise_keeps

theorem State.deferred_keeps {q : List Instr} {u : Nat} {s : State} (hs : Keeps q u s) :
    Keeps q u (State.deferred s) := by
  unfold State.deferred
  repeat' first
    | with_reducible assumption
    | with_reducible apply State.inc_keeps
    | with_reducible apply State.hit_keeps

theorem State.journal_keeps {q : List Instr} {u : Nat} {s : State} {kind : Nat} {data : Nat} (hs : Keeps q u s) :
    Keeps q u (State.journal s kind data) := by
  unfold State.journal
  repeat' first
    | with_reducible assumption
    | (intro x; clear_value x)
    | (lift_lets -underBinder; (intro x; clear_value x))
    | with_reducible apply State.setBk_keeps
    | with_reducible apply State.inc_keeps

theorem State.btHit_keeps {q : List Instr} {u : Nat} {s : State} {o : Obj} {bit : Nat} {cls : Nat} (hs : Keeps q u s) :
    Keeps q u (State.btHit s o bit cls) := by
  unfold State.btHit
  repeat' first
    | with_reducible assumption
    | (intro x; clear_value x)
    | (lift_lets -underBinder; (intro x; clear_value x))
    | with_reducible apply State.setBoot_keeps
    | with_reducible apply State.setB_keeps
    | with_reducible apply State.hit_keeps
    | with_reducible apply keeps_ite

end Sys2Proof.Machine
end

