-- ==== Sys2Proof/Laws/KeepsOperands.lean ====
section
/-! SUPPORT. What each operation of Machine/Operands.lean keeps (Laws/Keeps.lean). -/
namespace Sys2Proof.Machine

theorem State.abort_keeps {q : List Instr} {u : Nat} {s : State} {p : Path} {index : Nat} {sub : Nat} {view : View} {code : Nat} (hs : Keeps q u s) :
    Keeps q u (State.abort s p index sub view code) := by
  unfold State.abort
  repeat' first
    | with_reducible assumption
    | (intro s; refine cut (p := Keeps q u (s : State)) ?_ ?_; (on_goal 2 => clear_value s; intro _); (on_goal 1 => try subst s))
    | (lift_lets -underBinder; (intro x; clear_value x))
    | with_reducible apply State.emit_keeps
    | with_reducible apply State.set_keeps
    | with_reducible apply State.inc_keeps
    | with_reducible apply State.hit_keeps
    | with_reducible apply keeps_ite
    | with_reducible apply keptW_ok
    | with_reducible apply keptW_no
    | with_reducible apply keptO_next
    | with_reducible apply keptW_ite
    | with_reducible apply keptO_ite
    | refine Keeps.of_ok (by with_reducible assumption) ?_
    | refine Keeps.of_no (by with_reducible assumption) ?_
    | refine Keeps.of_fst (by with_reducible assumption) ?_
    | refine Keeps.of_snd (by with_reducible assumption) ?_
    | split

theorem WRes.finish_keeps {q : List Instr} {u : Nat} {r : WRes} {p : Path} {o : Obj} {view : View} (hr : KeptW q u r) :
    KeptO q u (WRes.finish r p o view) := by
  unfold WRes.finish
  repeat' first
    | with_reducible assumption
    | exact hr.state
    | with_reducible apply State.abort_keeps
    | with_reducible apply keeps_ite
    | with_reducible apply keptW_ok
    | with_reducible apply keptW_no
    | with_reducible apply keptO_next
    | with_reducible apply keptW_ite
    | with_reducible apply keptO_ite
    | refine Keeps.of_ok (by with_reducible assumption) ?_
    | refine Keeps.of_no (by with_reducible assumption) ?_
    | refine Keeps.of_fst (by with_reducible assumption) ?_
    | refine Keeps.of_snd (by with_reducible assumption) ?_
    | split

theorem access_keeps {q : List Instr} {u : Nat} {p : Path} {o : Obj} {s : State} {f : State → WRes} (hs : Keeps q u s) (hf : ∀ s, Keeps q u s → KeptW q u (f s)) :
    KeptO q u (access p o s f) := by
  unfold access
  repeat' first
    | with_reducible assumption
    | refine fun (s : State) (h : Keeps q u s) => ?_
    | refine fun _ => ?_
    | with_reducible apply hf
    | with_reducible apply WRes.finish_keeps
    | with_reducible apply keeps_ite
    | with_reducible apply keptW_ok
    | with_reducible apply keptW_no
    | with_reducible apply keptO_next
    | with_reducible apply keptW_ite
    | with_reducible apply keptO_ite

theorem State.conflict_keeps {q : List Instr} {u : Nat} {s : State} {o : Obj} {bit : Nat} (hs : Keeps q u s) :
    Keeps q u (State.conflict s o bit) := by
  unfold State.conflict
  repeat' first
    | with_reducible assumption
    | with_reducible apply State.hit_keeps

end Sys2Proof.Machine
end

