-- ==== Sys2Proof/Laws/KeepsFlash.lean ====
section
/-! SUPPORT. What each operation of Machine/Flash.lean keeps (Laws/Keeps.lean). -/
namespace Sys2Proof.Machine

theorem State.openBytes_keeps {q : List Instr} {u : Nat} {s : State} {n : Nat} (hs : Keeps q u s) :
    Keeps q u (State.openBytes s n).2 := by
  unfold State.openBytes
  repeat' first
    | with_reducible assumption
    | with_reducible apply keeps_ite
    | with_reducible apply keptW_ok
    | with_reducible apply keptW_no
    | with_reducible apply keptO_next
    | with_reducible apply keptW_ite
    | with_reducible apply keptO_ite
    | split
    | (with_reducible apply keeps_with; with_reducible assumption)

theorem State.flashErase_keeps {q : List Instr} {u : Nat} {s : State} {a len : Nat} (hs : Keeps q u s) :
    Keeps q u (s.flashErase a len) := ⟨filter_wf hs.mem, hs.sized, hs.up, hs.queue⟩

theorem State.flashProgram_keeps {q : List Instr} {u : Nat} {s : State} {a : Nat} {data : List Byte} (hs : Keeps q u s) :
    Keeps q u (State.flashProgram s a data) := by
  unfold State.flashProgram
  repeat' first
    | with_reducible assumption
    | with_reducible apply State.mputs_keeps

theorem State.flashOpen_keeps {q : List Instr} {u : Nat} {s : State} {c : FlashCmd} (hs : Keeps q u s) :
    Keeps q u (State.flashOpen s c) := by
  unfold State.flashOpen
  repeat' first
    | with_reducible assumption
    | (lift_lets -underBinder; (intro s; refine cut (p := Keeps q u (s.2 : State)) ?_ ?_; (on_goal 2 => clear_value s; intro _); (on_goal 1 => try subst s)))
    | with_reducible apply State.openBytes_keeps
    | with_reducible apply State.mputs_keeps

theorem State.flashRun_keeps {q : List Instr} {u : Nat} {s : State} {c : FlashCmd} {res : Nat} (hs : Keeps q u s) :
    Keeps q u (State.flashRun s c res).1 := by
  unfold State.flashRun
  repeat' first
    | with_reducible assumption
    | (lift_lets -underBinder; (intro s; refine cut (p := Keeps q u (s : State)) ?_ ?_; (on_goal 2 => clear_value s; intro _); (on_goal 1 => try subst s)))
    | with_reducible apply State.flashOpen_keeps
    | with_reducible apply State.flashProgram_keeps
    | with_reducible apply State.flashErase_keeps
    | with_reducible apply keeps_ite
    | with_reducible apply keeps_ite_fst

theorem State.flashGo_keeps {q : List Instr} {u : Nat} {s : State} (hs : Keeps q u s) :
    Keeps q u (State.flashGo s) := by
  unfold State.flashGo
  repeat' first
    | with_reducible assumption
    | with_reducible apply State.setFlash_keeps
    | with_reducible apply State.emit_keeps
    | with_reducible apply keeps_ite
    | with_reducible apply keptW_ok
    | with_reducible apply keptW_no
    | with_reducible apply keptO_next
    | with_reducible apply keptW_ite
    | with_reducible apply keptO_ite
    | refine Keeps.of_ok (by with_reducible assumption) ?_
    | refine Keeps.of_no (by with_reducible assumption) ?_
    | refine Keeps.of_fst (by with_reducible assumption) ?_
    | refine Keeps.of_snd (by with_reducible assumption) ?_
    | split

theorem State.flashAsk_keeps {q : List Instr} {u : Nat} {s : State} {c : FlashCmd} (hs : Keeps q u s) :
    Keeps q u (State.flashAsk s c) := by
  unfold State.flashAsk
  repeat' first
    | with_reducible assumption
    | (lift_lets -underBinder; (intro x; clear_value x))
    | with_reducible apply State.setFlash_keeps
    | with_reducible apply State.flashGo_keeps

theorem State.flashCut_keeps {q : List Instr} {u : Nat} {s : State} (hs : Keeps q u s) :
    Keeps q u (State.flashCut s) := by
  unfold State.flashCut
  repeat' first
    | with_reducible assumption
    | (lift_lets -underBinder; (intro s; refine cut (p := Keeps q u (s : State)) ?_ ?_; (on_goal 2 => clear_value s; intro _); (on_goal 1 => try subst s)))
    | with_reducible apply State.flashOpen_keeps
    | with_reducible apply State.flashErase_keeps
    | with_reducible apply State.setFlash_keeps
    | with_reducible apply keeps_ite
    | with_reducible apply keptW_ok
    | with_reducible apply keptW_no
    | with_reducible apply keptO_next
    | with_reducible apply keptW_ite
    | with_reducible apply keptO_ite
    | refine Keeps.of_ok (by with_reducible assumption) ?_
    | refine Keeps.of_no (by with_reducible assumption) ?_
    | refine Keeps.of_fst (by with_reducible assumption) ?_
    | refine Keeps.of_snd (by with_reducible assumption) ?_
    | split

theorem State.storePend_keeps {q : List Instr} {u : Nat} {s : State} (hs : Keeps q u s) :
    Keeps q u (State.storePend s) := by
  unfold State.storePend
  repeat' first
    | with_reducible assumption
    | (lift_lets -underBinder; (intro x; clear_value x))
    | with_reducible apply State.setBank_keeps
    | with_reducible apply State.set_keeps
    | with_reducible apply State.deferred_keeps

theorem State.storeCurfew_keeps {q : List Instr} {u : Nat} {s : State} (hs : Keeps q u s) :
    Keeps q u (State.storeCurfew s) := by
  unfold State.storeCurfew
  repeat' first
    | with_reducible assumption
    | (lift_lets -underBinder; (intro x; clear_value x))
    | with_reducible apply State.setFlash_keeps
    | with_reducible apply State.storePend_keeps
    | with_reducible apply keeps_ite

theorem wrQspiCmd_keeps {q : List Instr} {u : Nat} {v : Nat} {s : State} (hs : Keeps q u s) :
    KeptW q u (wrQspiCmd v s) := by
  unfold wrQspiCmd
  repeat' first
    | with_reducible assumption
    | (intro x; clear_value x)
    | (lift_lets -underBinder; first | (intro s; refine cut (p := Keeps q u (s : State)) ?_ ?_; (on_goal 2 => clear_value s; intro _); (on_goal 1 => try subst s)) | (intro x; clear_value x))
    | with_reducible apply State.set_keeps
    | with_reducible apply State.deferred_keeps
    | with_reducible apply State.setB_keeps
    | with_reducible apply State.flashAsk_keeps
    | with_reducible apply keeps_ite
    | with_reducible apply keptW_ok
    | with_reducible apply keptW_no
    | with_reducible apply keptO_next
    | with_reducible apply keptW_ite
    | with_reducible apply keptO_ite
    | refine Keeps.of_ok (by with_reducible assumption) ?_
    | refine Keeps.of_no (by with_reducible assumption) ?_
    | refine Keeps.of_fst (by with_reducible assumption) ?_
    | refine Keeps.of_snd (by with_reducible assumption) ?_
    | split

theorem execQspiRead_keeps {q : List Instr} {u : Nat} {p : Path} {s : State} (hs : Keeps q u s) :
    KeptO q u (execQspiRead p s) := by
  unfold execQspiRead
  repeat' first
    | with_reducible assumption
    | refine fun (s : State) (h : Keeps q u s) => ?_
    | refine fun _ => ?_
    | with_reducible apply access_keeps
    | with_reducible apply wrQspiCmd_keeps

theorem execQspiProgram_keeps {q : List Instr} {u : Nat} {p : Path} {s : State} (hs : Keeps q u s) :
    KeptO q u (execQspiProgram p s) := by
  unfold execQspiProgram
  repeat' first
    | with_reducible assumption
    | refine fun (s : State) (h : Keeps q u s) => ?_
    | refine fun _ => ?_
    | with_reducible apply access_keeps
    | with_reducible apply wrQspiCmd_keeps

theorem execQspiErase4k_keeps {q : List Instr} {u : Nat} {p : Path} {s : State} (hs : Keeps q u s) :
    KeptO q u (execQspiErase4k p s) := by
  unfold execQspiErase4k
  repeat' first
    | with_reducible assumption
    | refine fun (s : State) (h : Keeps q u s) => ?_
    | refine fun _ => ?_
    | with_reducible apply access_keeps
    | with_reducible apply wrQspiCmd_keeps

theorem execQspiErase64k_keeps {q : List Instr} {u : Nat} {p : Path} {s : State} (hs : Keeps q u s) :
    KeptO q u (execQspiErase64k p s) := by
  unfold execQspiErase64k
  repeat' first
    | with_reducible assumption
    | refine fun (s : State) (h : Keeps q u s) => ?_
    | refine fun _ => ?_
    | with_reducible apply access_keeps
    | with_reducible apply wrQspiCmd_keeps

theorem State.qspiDone_keeps {q : List Instr} {u : Nat} {s : State} {c : FlashCmd} {res : Nat} (hs : Keeps q u s) :
    Keeps q u (State.qspiDone s c res) := by
  unfold State.qspiDone
  repeat' first
    | with_reducible assumption
    | refine fun (s : State) (h : Keeps q u s) => ?_
    | refine fun _ => ?_
    | (intro s; refine cut (p := Keeps q u (s : State)) ?_ ?_; (on_goal 2 => clear_value s; intro _); (on_goal 1 => try subst s))
    | (lift_lets -underBinder; (intro x; clear_value x))
    | with_reducible apply State.forAll_keeps
    | with_reducible apply State.set_keeps
    | with_reducible apply State.setB_keeps
    | with_reducible apply State.btHit_keeps
    | with_reducible apply keeps_ite

end Sys2Proof.Machine
end

