-- ==== Sys2Proof/Laws/KeepsPort.lean ====
section
/-! SUPPORT. What each operation of Machine/Port.lean keeps (Laws/Keeps.lean). -/
namespace Sys2Proof.Machine

theorem State.ringOut_keeps {q : List Instr} {u : Nat}  : ∀ {k : Nat} {s : State}, Keeps q u s →
    Keeps q u (State.ringOut s k) := by
  intro k
  induction k with
  | zero => intro s hs; exact hs
  | succ k ih =>
    intro s hs
    unfold State.ringOut
    repeat' first
      | with_reducible assumption
      | with_reducible apply ih
      | (lift_lets -underBinder; (intro x; clear_value x))
      | with_reducible apply keeps_foldl
      | refine fun (s : State) (h : Keeps q u s) => ?_
      | refine fun _ => ?_
      | with_reducible apply State.emit_keeps
      | with_reducible apply keeps_ite
      | with_reducible apply keptW_ok
      | with_reducible apply keptW_no
      | with_reducible apply keptO_next
      | with_reducible apply keptW_ite
      | with_reducible apply keptO_ite
      | refine Keeps.of_ok (by with_reducible assumption) ?_
      | refine Keeps.of_no (by with_reducible assumption) ?_
      | refine Keeps.of_fst (by with_reducible assumption) ?_
      | refine Keeps.of_snd (by with_reducible assumption) ?_
      | split
      | (with_reducible apply keeps_with; with_reducible assumption)

theorem State.cellPut_keeps {q : List Instr} {u : Nat} {s : State} {c : RCell} (hs : Keeps q u s) :
    Keeps q u (State.cellPut s c) := by
  unfold State.cellPut
  repeat' first
    | with_reducible assumption
    | (intro s; refine cut (p := Keeps q u (s : State)) ?_ ?_; (on_goal 2 => clear_value s; intro _); (on_goal 1 => try subst s))
    | (lift_lets -underBinder; (intro x; clear_value x))
    | with_reducible apply State.ringOut_keeps
    | with_reducible apply keeps_ite
    | with_reducible apply keptW_ok
    | with_reducible apply keptW_no
    | with_reducible apply keptO_next
    | with_reducible apply keptW_ite
    | with_reducible apply keptO_ite
    | split
    | (with_reducible apply keeps_with; with_reducible assumption)

theorem State.ringAdv_keeps {q : List Instr} {u : Nat} {s : State} {t : Nat} (hs : Keeps q u s) :
    Keeps q u (State.ringAdv s t) := by
  unfold State.ringAdv
  repeat' first
    | with_reducible assumption
    | (lift_lets -underBinder; (intro s; refine cut (p := Keeps q u (s : State)) ?_ ?_; (on_goal 2 => clear_value s; intro _); (on_goal 1 => try subst s)))
    | with_reducible apply State.adv_keeps
    | with_reducible apply State.ringOut_keeps

theorem State.sendFor_keeps {q : List Instr} {u : Nat} {s : State} {src : Nat} {type : Nat} {fields : List Nat} {slots : Nat} (hs : Keeps q u s) :
    Keeps q u (State.sendFor s src type fields slots) := by
  unfold State.sendFor
  repeat' first
    | with_reducible assumption
    | (lift_lets -underBinder; (intro x; clear_value x))
    | with_reducible apply State.cellPut_keeps
    | with_reducible apply keeps_ite
    | with_reducible apply keptW_ok
    | with_reducible apply keptW_no
    | with_reducible apply keptO_next
    | with_reducible apply keptW_ite
    | with_reducible apply keptO_ite
    | split
    | (with_reducible apply keeps_with; with_reducible assumption)

theorem State.sendCell_keeps {q : List Instr} {u : Nat} {s : State} {type : Nat} {fields : List Nat} {slots : Nat} (hs : Keeps q u s) :
    Keeps q u (State.sendCell s type fields slots) := by
  unfold State.sendCell
  repeat' first
    | with_reducible assumption
    | with_reducible apply State.sendFor_keeps

theorem State.slowCell_keeps {q : List Instr} {u : Nat} {s : State} {on : Bool} {src : Nat × Nat} (hs : Keeps q u s) :
    Keeps q u (State.slowCell s on src) := by
  unfold State.slowCell
  repeat' first
    | with_reducible assumption
    | (lift_lets -underBinder; (intro x; clear_value x))
    | with_reducible apply State.setRing_keeps
    | with_reducible apply State.sendCell_keeps
    | with_reducible apply keeps_ite

theorem State.slowSync_keeps {q : List Instr} {u : Nat} {s : State} (hs : Keeps q u s) :
    Keeps q u (State.slowSync s) := by
  unfold State.slowSync
  repeat' first
    | with_reducible assumption
    | (intro s; refine cut (p := Keeps q u (s : State)) ?_ ?_; (on_goal 2 => clear_value s; intro _); (on_goal 1 => try subst s))
    | (intro x; clear_value x)
    | (lift_lets -underBinder; (intro x; clear_value x))
    | with_reducible apply State.set_keeps
    | with_reducible apply State.setSlow_keeps
    | with_reducible apply State.inc_keeps
    | with_reducible apply State.raise_keeps
    | with_reducible apply keeps_ite

theorem State.slowOn_keeps {q : List Instr} {u : Nat} {s : State} {src : Nat} {unit : Nat} (hs : Keeps q u s) :
    Keeps q u (State.slowOn s src unit) := by
  unfold State.slowOn
  repeat' first
    | with_reducible assumption
    | (intro s; refine cut (p := Keeps q u (s : State)) ?_ ?_; (on_goal 2 => clear_value s; intro _); (on_goal 1 => try subst s))
    | (intro x; clear_value x)
    | (lift_lets -underBinder; (intro x; clear_value x))
    | with_reducible apply State.setSlow_keeps
    | with_reducible apply State.slowSync_keeps
    | with_reducible apply State.slowCell_keeps
    | with_reducible apply keeps_ite

theorem State.slowOff_keeps {q : List Instr} {u : Nat} {s : State} {src : Nat} {unit : Nat} (hs : Keeps q u s) :
    Keeps q u (State.slowOff s src unit) := by
  unfold State.slowOff
  repeat' first
    | with_reducible assumption
    | (intro s; refine cut (p := Keeps q u (s : State)) ?_ ?_; (on_goal 2 => clear_value s; intro _); (on_goal 1 => try subst s))
    | (intro x; clear_value x)
    | (lift_lets -underBinder; (intro x; clear_value x))
    | with_reducible apply State.setSlow_keeps
    | with_reducible apply State.slowSync_keeps
    | with_reducible apply State.slowCell_keeps
    | with_reducible apply keeps_ite
    | with_reducible apply keeps_ite_fst
    | with_reducible apply keeps_ite_snd
    | with_reducible apply keptW_ok
    | with_reducible apply keptW_no
    | with_reducible apply keptO_next
    | with_reducible apply keptW_ite
    | with_reducible apply keptO_ite
    | refine Keeps.of_ok (by with_reducible assumption) ?_
    | refine Keeps.of_no (by with_reducible assumption) ?_
    | refine Keeps.of_fst (by with_reducible assumption) ?_
    | refine Keeps.of_snd (by with_reducible assumption) ?_
    | split

end Sys2Proof.Machine
end

