-- ==== Sys2Proof/Laws/KeepsDelay.lean ====
section
/-! SUPPORT. What each operation of Machine/Delay.lean keeps (Laws/Keeps.lean). -/
namespace Sys2Proof.Machine

theorem State.setDline_keeps {q : List Instr} {u : Nat} {s : State} {k : Nat} {x : DMap} (hs : Keeps q u s) :
    Keeps q u (State.setDline s k x) := by
  unfold State.setDline
  repeat' first
    | with_reducible assumption
    | (lift_lets -underBinder; (intro x; clear_value x))
    | with_reducible apply State.setClk_keeps

theorem State.dlSlew_keeps {q : List Instr} {u : Nat} {s : State} {n : Nat} (hs : Keeps q u s) :
    Keeps q u (State.dlSlew s n) := by
  unfold State.dlSlew
  repeat' first
    | with_reducible assumption
    | (lift_lets -underBinder; (intro x; clear_value x))
    | with_reducible apply State.setDline_keeps
    | with_reducible apply keeps_ite

theorem State.dlSettle_keeps {q : List Instr} {u : Nat} {s : State} {k : Nat} (hs : Keeps q u s) :
    Keeps q u (State.dlSettle s k) := by
  unfold State.dlSettle
  repeat' first
    | with_reducible assumption
    | (lift_lets -underBinder; (intro x; clear_value x))
    | with_reducible apply State.setDline_keeps
    | with_reducible apply keeps_ite

theorem State.dlSettleAll_keeps {q : List Instr} {u : Nat} {s : State} (hs : Keeps q u s) :
    Keeps q u (State.dlSettleAll s) := by
  unfold State.dlSettleAll
  repeat' first
    | with_reducible assumption
    | refine fun (s : State) (h : Keeps q u s) => ?_
    | refine fun _ => ?_
    | with_reducible apply State.forAll_keeps
    | with_reducible apply State.dlSettle_keeps

end Sys2Proof.Machine
end

