-- ==== Sys2Proof/Laws/KeepsWire.lean ====
section
/-! SUPPORT. What each operation of Machine/Wire.lean keeps (Laws/Keeps.lean). -/
namespace Sys2Proof.Machine

theorem State.scrSeed_keeps {q : List Instr} {u : Nat} {s : State} {n : Nat} {at' : Nat} (hs : Keeps q u s) :
    Keeps q u (State.scrSeed s n at').2 := by
  unfold State.scrSeed
  repeat' first
    | with_reducible assumption
    | (intro s; refine cut (p := Keeps q u (s.2 : State)) ?_ ?_; (on_goal 2 => clear_value s; intro _); (on_goal 1 => try subst s))
    | (lift_lets -underBinder; (intro x; clear_value x))
    | with_reducible apply State.draw_keeps
    | with_reducible apply keeps_ite
    | with_reducible apply keeps_ite_fst
    | with_reducible apply keeps_ite_snd

theorem State.sendUnits_keeps {q : List Instr} {u : Nat} {s : State} {n : Nat} {at' : Nat} {us : List (Bool × List Nat)} (hs : Keeps q u s) :
    Keeps q u (State.sendUnits s n at' us) := by
  unfold State.sendUnits
  repeat' first
    | with_reducible assumption
    | (intro s; refine cut (p := Keeps q u (s : State)) ?_ ?_; (on_goal 2 => clear_value s; intro _); (on_goal 1 => try subst s))
    | (intro x; clear_value x)
    | (lift_lets -underBinder; (intro s; refine cut (p := Keeps q u (s.2 : State)) ?_ ?_; (on_goal 2 => clear_value s; intro _); (on_goal 1 => try subst s)))
    | with_reducible apply State.scrSeed_keeps
    | with_reducible apply State.setLink_keeps
    | with_reducible apply State.emit_keeps
    | with_reducible apply keeps_ite

theorem State.laneFlush_keeps {q : List Instr} {u : Nat} {s : State} {n : Nat} {t : Nat} (hs : Keeps q u s) :
    Keeps q u (State.laneFlush s n t) := by
  unfold State.laneFlush
  repeat' first
    | with_reducible assumption
    | (intro s; refine cut (p := Keeps q u (s : State)) ?_ ?_; (on_goal 2 => clear_value s; intro _); (on_goal 1 => try subst s))
    | (intro x; clear_value x)
    | (lift_lets -underBinder; (intro x; clear_value x))
    | with_reducible apply State.sendUnits_keeps
    | with_reducible apply State.setLink_keeps
    | with_reducible apply keeps_ite
    | with_reducible apply keptW_ok
    | with_reducible apply keptW_no
    | with_reducible apply keptO_next
    | with_reducible apply keptW_ite
    | with_reducible apply keptO_ite
    | refine Keeps.of_ok (by with_reducible assumption) ?_
    | refine Keeps.of_no (by with_reducible assumption) ?_
    | refine Keeps.of_fst (by with_reducible assumption) ?_
    | refine Keeps.of_snd (by with_reducible assumption) ?_
    | split

theorem State.unitOut_keeps {q_ : List Instr} {u_ : Nat} {s : State} {n : Nat} {at' : Nat} {u : Bool × List Nat} (hs : Keeps q_ u_ s) :
    Keeps q_ u_ (State.unitOut s n at' u) := by
  unfold State.unitOut
  repeat' first
    | with_reducible assumption
    | (intro x; clear_value x)
    | (lift_lets -underBinder; (intro s; refine cut (p := Keeps q_ u_ (s : State)) ?_ ?_; (on_goal 2 => clear_value s; intro _); (on_goal 1 => try subst s)))
    | with_reducible apply State.laneFlush_keeps
    | with_reducible apply State.sendUnits_keeps
    | with_reducible apply State.setLink_keeps

theorem State.rotOut_keeps {q_ : List Instr} {u_ : Nat} {s : State} {n : Nat} {u : Nat} {x : Bool × List Nat} (hs : Keeps q_ u_ s) :
    Keeps q_ u_ (State.rotOut s n u x) := by
  unfold State.rotOut
  repeat' first
    | with_reducible assumption
    | (intro s; refine cut (p := Keeps q_ u_ (s : State)) ?_ ?_; (on_goal 2 => clear_value s; intro _); (on_goal 1 => try subst s))
    | (intro x; clear_value x)
    | (lift_lets -underBinder; first | (intro s; refine cut (p := Keeps q_ u_ (s : State)) ?_ ?_; (on_goal 2 => clear_value s; intro _); (on_goal 1 => try subst s)) | (intro x; clear_value x))
    | with_reducible apply State.laneFlush_keeps
    | with_reducible apply State.unitOut_keeps
    | with_reducible apply State.sendUnits_keeps
    | with_reducible apply State.setLink_keeps
    | with_reducible apply keeps_ite
    | with_reducible apply keeps_ite_fst
    | with_reducible apply keeps_ite_snd
    | with_reducible apply keptW_ok
    | with_reducible apply keptW_no
    | with_reducible apply keptO_next
    | with_reducible apply keptW_ite
    | with_reducible apply keptO_ite
    | refine Keeps.of_ok (by with_reducible assumption) ?_
    | refine Keeps.of_no (by with_reducible assumption) ?_
    | refine Keeps.of_fst (by with_reducible assumption) ?_
    | refine Keeps.of_snd (by with_reducible assumption) ?_
    | split

theorem State.frameOut_keeps {q_ : List Instr} {u_ : Nat} {s : State} {n : Nat} {q : Nat} {at' : Nat} {codes : List Nat} (hs : Keeps q_ u_ s) :
    Keeps q_ u_ (State.frameOut s n q at' codes) := by
  unfold State.frameOut
  repeat' first
    | with_reducible assumption
    | (intro s; refine cut (p := Keeps q_ u_ (s : State)) ?_ ?_; (on_goal 2 => clear_value s; intro _); (on_goal 1 => try subst s))
    | (intro x; clear_value x)
    | (lift_lets -underBinder; (intro x; clear_value x))
    | with_reducible apply State.codes_keeps
    | with_reducible apply State.laneFlush_keeps
    | with_reducible apply State.inc_keeps
    | with_reducible apply State.setLink_keeps

theorem State.drive_keeps {q : List Instr} {u : Nat} {s : State} {n : Nat} {t : Nat} {slots : Nat} {slot : Nat} {starts : List Nat} {widths : List Nat} (hs : Keeps q u s) :
    Keeps q u (State.drive s n t slots slot starts widths) := by
  unfold State.drive
  repeat' first
    | with_reducible assumption
    | (intro s; refine cut (p := Keeps q u (s : State)) ?_ ?_; (on_goal 2 => clear_value s; intro _); (on_goal 1 => try subst s))
    | (intro x; clear_value x)
    | (lift_lets -underBinder; (intro x; clear_value x))
    | with_reducible apply State.setFire_keeps
    | with_reducible apply State.emit_keeps
    | with_reducible apply State.peakRun_keeps

end Sys2Proof.Machine
end

