-- ==== Sys2Proof/Laws/KeepsBank.lean ====
section
/-! SUPPORT. What each operation of Machine/Bank.lean keeps (Laws/Keeps.lean). -/
namespace Sys2Proof.Machine

theorem State.lineMap_keeps {q_ : List Instr} {u_ : Nat} {s : State} {n : Nat} {q : Nat} {f : TLine → TLine} (hs : Keeps q_ u_ s) :
    Keeps q_ u_ (State.lineMap s n q f) := by
  unfold State.lineMap
  repeat' first
    | with_reducible assumption
    | refine fun (s : State) (h : Keeps q_ u_ s) => ?_
    | refine fun _ => ?_
    | (intro x; clear_value x)
    | (lift_lets -underBinder; (intro x; clear_value x))
    | with_reducible apply State.setSched_keeps

theorem State.headBlank_keeps {q : List Instr} {u : Nat} {s : State} {n : Nat} (hs : Keeps q u s) :
    Keeps q u (State.headBlank s n) := by
  unfold State.headBlank
  repeat' first
    | with_reducible assumption
    | with_reducible apply State.inc_keeps
    | with_reducible apply State.hit_keeps

theorem State.senseOut_keeps {q : List Instr} {u : Nat} {s : State} {n : Nat} {c : Nat} {at' : Nat} (hs : Keeps q u s) :
    Keeps q u (State.senseOut s n c at') := by
  unfold State.senseOut
  repeat' first
    | with_reducible assumption
    | (intro s; refine cut (p := Keeps q u (s : State)) ?_ ?_; (on_goal 2 => clear_value s; intro _); (on_goal 1 => try subst s))
    | (intro x; clear_value x)
    | (lift_lets -underBinder; (intro x; clear_value x))
    | with_reducible apply State.setSconv_keeps
    | with_reducible apply State.inc_keeps
    | with_reducible apply State.unitOut_keeps
    | with_reducible apply keeps_ite
    | with_reducible apply keptW_ok
    | with_reducible apply keptW_no
    | with_reducible apply keptO_next
    | with_reducible apply keptW_ite
    | with_reducible apply keptO_ite
    | refine Keeps.of_ok (by with_reducible assumption) ?_
    | refine Keeps.of_no (by with_reducible assumption) ?_
    | refine Keeps.of_fst (by with_reducible assumption) ?_
    | refine Keeps.of_snd (by with_reducible assumption) ?_
    | split

theorem State.laneOut_keeps {q : List Instr} {u : Nat} {s : State} {n : Nat} {w : LWait} (hs : Keeps q u s) :
    Keeps q u (State.laneOut s n w) := by
  unfold State.laneOut
  repeat' first
    | with_reducible assumption
    | (intro s; refine cut (p := Keeps q u (s : State)) ?_ ?_; (on_goal 2 => clear_value s; intro _); (on_goal 1 => try subst s))
    | (intro x; clear_value x)
    | (lift_lets -underBinder; first | (intro s; refine cut (p := Keeps q u (s : State)) ?_ ?_; (on_goal 2 => clear_value s; intro _); (on_goal 1 => try subst s)) | (intro x; clear_value x))
    | with_reducible apply State.setLink_keeps
    | with_reducible apply State.unitOut_keeps
    | with_reducible apply State.senseOut_keeps
    | with_reducible apply State.frameOut_keeps
    | with_reducible apply State.lineMap_keeps
    | with_reducible apply State.headBlank_keeps
    | with_reducible apply keeps_ite
    | with_reducible apply keptW_ok
    | with_reducible apply keptW_no
    | with_reducible apply keptO_next
    | with_reducible apply keptW_ite
    | with_reducible apply keptO_ite
    | refine Keeps.of_ok (by with_reducible assumption) ?_
    | refine Keeps.of_no (by with_reducible assumption) ?_
    | refine Keeps.of_fst (by with_reducible assumption) ?_
    | refine Keeps.of_snd (by with_reducible assumption) ?_
    | split

theorem State.laneRun_keeps {q : List Instr} {u : Nat} {n : Nat} : ∀ {k : Nat} {s : State}, Keeps q u s →
    Keeps q u (State.laneRun s n k) := by
  intro k
  induction k with
  | zero => intro s hs; exact hs
  | succ k ih =>
    intro s hs
    unfold State.laneRun
    repeat' first
      | with_reducible assumption
      | with_reducible apply ih
      | (lift_lets -underBinder; (intro x; clear_value x))
      | with_reducible apply State.setLink_keeps
      | with_reducible apply State.laneOut_keeps
      | with_reducible apply keeps_ite
      | with_reducible apply keptW_ok
      | with_reducible apply keptW_no
      | with_reducible apply keptO_next
      | with_reducible apply keptW_ite
      | with_reducible apply keptO_ite
      | refine Keeps.of_ok (by with_reducible assumption) ?_
      | refine Keeps.of_no (by with_reducible assumption) ?_
      | refine Keeps.of_fst (by with_reducible assumption) ?_
      | refine Keeps.of_snd (by with_reducible assumption) ?_
      | split

theorem State.lanePutAt_keeps {q : List Instr} {u : Nat} {s : State} {n : Nat} {kind : LKind} {from' : Nat} (hs : Keeps q u s) :
    Keeps q u (State.lanePutAt s n kind from') := by
  unfold State.lanePutAt
  repeat' first
    | with_reducible assumption
    | (lift_lets -underBinder; (intro x; clear_value x))
    | with_reducible apply State.setLink_keeps
    | with_reducible apply State.laneRun_keeps

theorem State.lanePut_keeps {q : List Instr} {u : Nat} {s : State} {n : Nat} {kind : LKind} (hs : Keeps q u s) :
    Keeps q u (State.lanePut s n kind) := by
  unfold State.lanePut
  repeat' first
    | with_reducible assumption
    | with_reducible apply State.lanePutAt_keeps

theorem State.grantTo_keeps {q : List Instr} {u : Nat} {s : State} {r : Req} {c : Nat} (hs : Keeps q u s) :
    Keeps q u (State.grantTo s r c) := by
  unfold State.grantTo
  repeat' first
    | with_reducible assumption
    | (intro s; refine cut (p := Keeps q u (s : State)) ?_ ?_; (on_goal 2 => clear_value s; intro _); (on_goal 1 => try subst s))
    | (intro x; clear_value x)
    | (lift_lets -underBinder; (intro x; clear_value x))
    | with_reducible apply State.setBank_keeps
    | with_reducible apply State.rise_keeps
    | with_reducible apply State.setSconv_keeps
    | with_reducible apply State.lanePutAt_keeps
    | with_reducible apply keeps_ite

theorem State.senseGrantN_keeps {q : List Instr} {u : Nat}  : ∀ {k : Nat} {s : State}, Keeps q u s →
    Keeps q u (State.senseGrantN s k) := by
  intro k
  induction k with
  | zero => intro s hs; exact hs
  | succ k ih =>
    intro s hs
    unfold State.senseGrantN
    repeat' first
      | with_reducible assumption
      | with_reducible apply ih
      | with_reducible apply State.grantTo_keeps
      | with_reducible apply keeps_ite
      | with_reducible apply keptW_ok
      | with_reducible apply keptW_no
      | with_reducible apply keptO_next
      | with_reducible apply keptW_ite
      | with_reducible apply keptO_ite
      | refine Keeps.of_ok (by with_reducible assumption) ?_
      | refine Keeps.of_no (by with_reducible assumption) ?_
      | refine Keeps.of_fst (by with_reducible assumption) ?_
      | refine Keeps.of_snd (by with_reducible assumption) ?_
      | split

theorem State.senseGrant_keeps {q : List Instr} {u : Nat} {s : State} (hs : Keeps q u s) :
    Keeps q u (State.senseGrant s) := by
  unfold State.senseGrant
  repeat' first
    | with_reducible assumption
    | with_reducible apply State.senseGrantN_keeps
    | with_reducible apply keeps_ite

theorem State.advPort_keeps {q : List Instr} {u : Nat} {s : State} {n : Nat} {t : Nat} (hs : Keeps q u s) :
    Keeps q u (State.advPort s n t) := by
  unfold State.advPort
  repeat' first
    | with_reducible assumption
    | (lift_lets -underBinder; (intro s; refine cut (p := Keeps q u (s : State)) ?_ ?_; (on_goal 2 => clear_value s; intro _); (on_goal 1 => try subst s)))
    | with_reducible apply State.adv_keeps
    | with_reducible apply State.laneRun_keeps
    | with_reducible apply State.senseGrant_keeps

theorem State.senseAsk_keeps {q : List Instr} {u : Nat} {s : State} {r : Req} (hs : Keeps q u s) :
    Keeps q u (State.senseAsk s r) := by
  unfold State.senseAsk
  repeat' first
    | with_reducible assumption
    | (lift_lets -underBinder; (intro x; clear_value x))
    | with_reducible apply State.setBank_keeps
    | with_reducible apply State.senseGrant_keeps

theorem State.senseWithdraw_keeps {q : List Instr} {u : Nat} {s : State} {f : Req → Bool} (hs : Keeps q u s) :
    Keeps q u (State.senseWithdraw s f) := by
  unfold State.senseWithdraw
  repeat' first
    | with_reducible assumption
    | (lift_lets -underBinder; (intro x; clear_value x))
    | with_reducible apply State.setBank_keeps

theorem State.senseRelease_keeps {q : List Instr} {u : Nat} {s : State} {c : Nat} (hs : Keeps q u s) :
    Keeps q u (State.senseRelease s c) := by
  unfold State.senseRelease
  repeat' first
    | with_reducible assumption
    | (lift_lets -underBinder; (intro x; clear_value x))
    | with_reducible apply State.setSconv_keeps
    | with_reducible apply State.senseGrant_keeps

theorem State.senseDrop_keeps {q : List Instr} {u : Nat} {s : State} {f : Req → Bool} (hs : Keeps q u s) :
    Keeps q u (State.senseDrop s f) := by
  unfold State.senseDrop
  repeat' first
    | with_reducible assumption
    | refine fun (s : State) (h : Keeps q u s) => ?_
    | refine fun _ => ?_
    | (intro s; refine cut (p := Keeps q u (s : State)) ?_ ?_; (on_goal 2 => clear_value s; intro _); (on_goal 1 => try subst s))
    | (lift_lets -underBinder; first | (intro s; refine cut (p := Keeps q u (s : State)) ?_ ?_; (on_goal 2 => clear_value s; intro _); (on_goal 1 => try subst s)) | (intro x; clear_value x))
    | with_reducible apply State.senseWithdraw_keeps
    | with_reducible apply State.forAll_keeps
    | with_reducible apply State.setSconv_keeps
    | with_reducible apply State.senseGrant_keeps
    | with_reducible apply keeps_ite
    | with_reducible apply keptW_ok
    | with_reducible apply keptW_no
    | with_reducible apply keptO_next
    | with_reducible apply keptW_ite
    | with_reducible apply keptO_ite
    | refine Keeps.of_ok (by with_reducible assumption) ?_
    | refine Keeps.of_no (by with_reducible assumption) ?_
    | refine Keeps.of_fst (by with_reducible assumption) ?_
    | refine Keeps.of_snd (by with_reducible assumption) ?_
    | split

theorem State.rampSync_keeps {q : List Instr} {u : Nat} {s : State} (hs : Keeps q u s) :
    Keeps q u (State.rampSync s) := by
  unfold State.rampSync
  repeat' first
    | with_reducible assumption
    | with_reducible apply State.setB_keeps

theorem State.rampStep_keeps {q : List Instr} {u : Nat} {s : State} {c : Nat} (hs : Keeps q u s) :
    Keeps q u (State.rampStep s c) := by
  unfold State.rampStep
  repeat' first
    | with_reducible assumption
    | (intro s; refine cut (p := Keeps q u (s : State)) ?_ ?_; (on_goal 2 => clear_value s; intro _); (on_goal 1 => try subst s))
    | (intro x; clear_value x)
    | (lift_lets -underBinder; (intro x; clear_value x))
    | with_reducible apply State.setSconv_keeps
    | with_reducible apply State.setI_keeps
    | with_reducible apply State.set_keeps
    | with_reducible apply State.rampSync_keeps
    | with_reducible apply keeps_ite

end Sys2Proof.Machine
end

