-- ==== Sys2Proof/Laws/KeepsCanbus.lean ====
section
/-! SUPPORT. What each operation of Machine/Canbus.lean keeps (Laws/Keeps.lean). -/
namespace Sys2Proof.Machine

theorem State.canHit_keeps {q : List Instr} {u : Nat} {s : State} {c : Nat} {bit : Nat} {cls : Nat} (hs : Keeps q u s) :
    Keeps q u (State.canHit s c bit cls) := by
  unfold State.canHit
  repeat' first
    | with_reducible assumption
    | with_reducible apply State.hit_keeps

theorem State.canSync_keeps {q : List Instr} {u : Nat} {s : State} (hs : Keeps q u s) :
    Keeps q u (State.canSync s) := by
  unfold State.canSync
  repeat' first
    | with_reducible assumption
    | (intro s; refine cut (p := Keeps q u (s : State)) ?_ ?_; (on_goal 2 => clear_value s; intro _); (on_goal 1 => try subst s))
    | (intro x; clear_value x)
    | (lift_lets -underBinder; (intro x; clear_value x))
    | with_reducible apply State.set_keeps
    | with_reducible apply State.canHit_keeps
    | with_reducible apply keeps_ite

theorem State.canSend_keeps {q : List Instr} {u : Nat} {s : State} {id : Nat} {data : List Nat} (hs : Keeps q u s) :
    Keeps q u (State.canSend s id data) := by
  unfold State.canSend
  repeat' first
    | with_reducible assumption
    | refine fun (s : State) (h : Keeps q u s) => ?_
    | refine fun _ => ?_
    | with_reducible apply State.forAll_keeps
    | with_reducible apply State.inc_keeps
    | with_reducible apply State.emit_keeps
    | with_reducible apply keeps_ite
    | with_reducible apply keptW_ok
    | with_reducible apply keptW_no
    | with_reducible apply keptO_next
    | with_reducible apply keptW_ite
    | with_reducible apply keptO_ite
    | refine Keeps.of_ok (by with_reducible assumption) ?_
    | refine Keeps.of_no (by with_reducible assumption) ?_
    | refine Keeps.of_fst (by with_reducible assumption) ?_
    | refine Keeps.of_snd (by with_reducible assumption) ?_
    | split

theorem State.canHeard_keeps {q : List Instr} {u : Nat} {s : State} {f : State → State} (hs : Keeps q u s) (hf : ∀ s, Keeps q u s → Keeps q u (f s)) :
    Keeps q u (State.canHeard s f) := by
  unfold State.canHeard
  repeat' first
    | with_reducible assumption
    | refine fun (s : State) (h : Keeps q u s) => ?_
    | refine fun _ => ?_
    | with_reducible apply hf
    | with_reducible apply State.inc_keeps
    | with_reducible apply keeps_ite
    | with_reducible apply keptW_ok
    | with_reducible apply keptW_no
    | with_reducible apply keptO_next
    | with_reducible apply keptW_ite
    | with_reducible apply keptO_ite
    | refine Keeps.of_ok (by with_reducible assumption) ?_
    | refine Keeps.of_no (by with_reducible assumption) ?_
    | refine Keeps.of_fst (by with_reducible assumption) ?_
    | refine Keeps.of_snd (by with_reducible assumption) ?_
    | split

theorem State.tpdoRemap_keeps {q : List Instr} {u : Nat} {s : State} (hs : Keeps q u s) :
    Keeps q u (State.tpdoRemap s) := by
  unfold State.tpdoRemap
  repeat' first
    | with_reducible assumption
    | with_reducible apply keeps_ite
    | with_reducible apply keeps_ite_fst
    | with_reducible apply keeps_ite_snd
    | with_reducible apply keptW_ok
    | with_reducible apply keptW_no
    | with_reducible apply keptO_next
    | with_reducible apply keptW_ite
    | with_reducible apply keptO_ite
    | split
    | (with_reducible apply keeps_with; with_reducible assumption)

theorem State.resetComm_keeps {q : List Instr} {u : Nat} {s : State} (hs : Keeps q u s) :
    Keeps q u (State.resetComm s) := by
  unfold State.resetComm
  repeat' first
    | with_reducible assumption
    | refine fun (s : State) (h : Keeps q u s) => ?_
    | refine fun _ => ?_
    | (intro s; refine cut (p := Keeps q u (s : State)) ?_ ?_; (on_goal 2 => clear_value s; intro _); (on_goal 1 => try subst s))
    | (lift_lets -underBinder; (intro x; clear_value x))
    | with_reducible apply State.set_keeps
    | with_reducible apply State.forAll_keeps
    | with_reducible apply State.canSync_keeps
    | with_reducible apply State.canSend_keeps
    | with_reducible apply keeps_ite
    | with_reducible apply keeps_ite_fst
    | with_reducible apply keptW_ok
    | with_reducible apply keptW_no
    | with_reducible apply keptO_next
    | with_reducible apply keptW_ite
    | with_reducible apply keptO_ite
    | split
    | with_reducible apply keeps_filter

theorem State.emcyHistory_keeps {q : List Instr} {u : Nat} {s : State} {code : Nat} {ev : Nat} (hs : Keeps q u s) :
    Keeps q u (State.emcyHistory s code ev) := by
  unfold State.emcyHistory
  repeat' first
    | with_reducible assumption
    | refine fun (s : State) (h : Keeps q u s) => ?_
    | refine fun _ => ?_
    | (intro s; refine cut (p := Keeps q u (s : State)) ?_ ?_; (on_goal 2 => clear_value s; intro _); (on_goal 1 => try subst s))
    | (lift_lets -underBinder; (intro x; clear_value x))
    | with_reducible apply State.forAll_keeps
    | with_reducible apply State.set_keeps

theorem State.emcyPut_keeps {q : List Instr} {u : Nat} {s : State} {x : Occ} (hs : Keeps q u s) :
    Keeps q u (State.emcyPut s x) := by
  unfold State.emcyPut
  repeat' first
    | with_reducible assumption
    | (intro x; clear_value x)
    | (lift_lets -underBinder; (intro x; clear_value x))
    | with_reducible apply State.setNet_keeps
    | with_reducible apply State.emcyHistory_keeps
    | with_reducible apply State.inc_keeps
    | with_reducible apply keeps_ite

theorem execEmcySend_keeps {q : List Instr} {u : Nat} {t : Nat} {s : State} (hs : Keeps q u s) :
    KeptO q u (execEmcySend t s) := by
  unfold execEmcySend
  repeat' first
    | with_reducible assumption
    | (intro s; refine cut (p := Keeps q u (s : State)) ?_ ?_; (on_goal 2 => clear_value s; intro _); (on_goal 1 => try subst s))
    | (intro x; clear_value x)
    | (lift_lets -underBinder; first | (intro s; refine cut (p := Keeps q u (s : State)) ?_ ?_; (on_goal 2 => clear_value s; intro _); (on_goal 1 => try subst s)) | (intro x; clear_value x))
    | with_reducible apply State.adv_keeps
    | with_reducible apply State.setNet_keeps
    | with_reducible apply State.canSend_keeps
    | with_reducible apply keeps_ite
    | with_reducible apply keptW_ok
    | with_reducible apply keptW_no
    | with_reducible apply keptO_next
    | with_reducible apply keptW_ite
    | with_reducible apply keptO_ite
    | refine Keeps.of_ok (by with_reducible assumption) ?_
    | refine Keeps.of_no (by with_reducible assumption) ?_
    | refine Keeps.of_fst (by with_reducible assumption) ?_
    | refine Keeps.of_snd (by with_reducible assumption) ?_
    | split

theorem wrErrHistory_keeps {q : List Instr} {u : Nat} {v : Nat} {s : State} (hs : Keeps q u s) :
    KeptW q u (wrErrHistory v s) := by
  unfold wrErrHistory
  repeat' first
    | with_reducible assumption
    | refine fun (s : State) (h : Keeps q u s) => ?_
    | refine fun _ => ?_
    | (intro x; clear_value x)
    | (lift_lets -underBinder; (intro s; refine cut (p := Keeps q u (s : State)) ?_ ?_; (on_goal 2 => clear_value s; intro _); (on_goal 1 => try subst s)))
    | with_reducible apply need_keeps
    | with_reducible apply State.forAll_keeps
    | with_reducible apply State.set_keeps
    | with_reducible apply State.setNet_keeps
    | with_reducible apply keeps_ite
    | with_reducible apply keptW_ok

theorem execEmcyHistoryClear_keeps {q : List Instr} {u : Nat} {p : Path} {s : State} (hs : Keeps q u s) :
    KeptO q u (execEmcyHistoryClear p s) := by
  unfold execEmcyHistoryClear
  repeat' first
    | with_reducible assumption
    | refine fun (s : State) (h : Keeps q u s) => ?_
    | refine fun _ => ?_
    | with_reducible apply access_keeps
    | with_reducible apply wrErrHistory_keeps

theorem State.pinConflict_keeps {q : List Instr} {u : Nat} {s : State} (hs : Keeps q u s) :
    KeptW q u (State.pinConflict s) := by
  unfold State.pinConflict
  repeat' first
    | with_reducible assumption
    | with_reducible apply State.inc_keeps
    | with_reducible apply State.hit_keeps
    | with_reducible apply keeps_ite
    | with_reducible apply keptW_ok
    | with_reducible apply keptW_no

theorem wrIrqVec_keeps {q : List Instr} {u : Nat} {k : Nat} {v : Nat} {s : State} (hs : Keeps q u s) :
    KeptW q u (wrIrqVec k v s) := by
  unfold wrIrqVec
  repeat' first
    | with_reducible assumption
    | (intro s; refine cut (p := Keeps q u (s : State)) ?_ ?_; (on_goal 2 => clear_value s; intro _); (on_goal 1 => try subst s))
    | (intro x; clear_value x)
    | (lift_lets -underBinder; (intro x; clear_value x))
    | with_reducible apply State.set_keeps
    | with_reducible apply State.pinConflict_keeps
    | with_reducible apply State.setF_keeps
    | with_reducible apply keeps_ite
    | with_reducible apply keptW_ok
    | with_reducible apply keptW_no
    | with_reducible apply keptO_next
    | with_reducible apply keptW_ite

theorem execIrqVecWrite_keeps {q : List Instr} {u : Nat} {p : Path} {k : Nat} {v : Nat} {s : State} (hs : Keeps q u s) :
    KeptO q u (execIrqVecWrite p k v s) := by
  unfold execIrqVecWrite
  repeat' first
    | with_reducible assumption
    | refine fun (s : State) (h : Keeps q u s) => ?_
    | refine fun _ => ?_
    | with_reducible apply access_keeps
    | with_reducible apply wrIrqVec_keeps
    | with_reducible apply keeps_ite
    | with_reducible apply keptW_ok
    | with_reducible apply keptW_no
    | with_reducible apply keptO_next
    | with_reducible apply keptW_ite
    | with_reducible apply keptO_ite

theorem wrCanConfig_keeps {q : List Instr} {u : Nat} {c : Nat} {v : Nat} {s0 : State} (h0 : Keeps q u s0) :
    KeptW q u (wrCanConfig c v s0) := by
  unfold wrCanConfig
  repeat' first
    | with_reducible assumption
    | refine fun (s : State) (h : Keeps q u s) => ?_
    | refine fun _ => ?_
    | refine fun (s : State) (h : Keeps q u s) => ?_
    | refine fun _ => ?_
    | (intro s; refine cut (p := Keeps q u (s : State)) ?_ ?_; (on_goal 2 => clear_value s; intro _); (on_goal 1 => try subst s))
    | (intro f; refine cut (p := ∀ s : State, Keeps q u s → Keeps q u (f s : State)) ?_ ?_; (on_goal 2 => clear_value f; intro hf); (on_goal 1 => subst f))
    | (intro x; clear_value x)
    | (lift_lets -underBinder; (intro x; clear_value x))
    | with_reducible apply checked_keeps
    | with_reducible apply State.pinConflict_keeps
    | with_reducible apply State.set_keeps
    | with_reducible apply State.setNet_keeps
    | with_reducible apply State.setF_keeps
    | with_reducible apply State.setB_keeps
    | with_reducible apply State.canSync_keeps
    | with_reducible apply hf
    | with_reducible apply keeps_ite
    | with_reducible apply keptW_ok
    | with_reducible apply keptW_no
    | with_reducible apply keptO_next
    | with_reducible apply keptW_ite
    | with_reducible apply keptO_ite
    | split
    | (with_reducible apply keeps_with; with_reducible assumption)

theorem execCanEnableWrite_keeps {q : List Instr} {u : Nat} {p : Path} {c : Nat} {v : Nat} {s : State} (hs : Keeps q u s) :
    KeptO q u (execCanEnableWrite p c v s) := by
  unfold execCanEnableWrite
  repeat' first
    | with_reducible assumption
    | refine fun (s : State) (h : Keeps q u s) => ?_
    | refine fun _ => ?_
    | with_reducible apply access_keeps
    | with_reducible apply wrCanConfig_keeps
    | with_reducible apply keeps_ite
    | with_reducible apply keptW_ok
    | with_reducible apply keptW_no
    | with_reducible apply keptO_next
    | with_reducible apply keptW_ite
    | with_reducible apply keptO_ite

theorem State.busOff_keeps {q : List Instr} {u : Nat} {s : State} {c : Nat} (hs : Keeps q u s) :
    Keeps q u (State.busOff s c) := by
  unfold State.busOff
  repeat' first
    | with_reducible assumption
    | (intro s; refine cut (p := Keeps q u (s : State)) ?_ ?_; (on_goal 2 => clear_value s; intro _); (on_goal 1 => try subst s))
    | (intro x; clear_value x)
    | (lift_lets -underBinder; (intro x; clear_value x))
    | with_reducible apply State.canHit_keeps
    | with_reducible apply State.setNet_keeps
    | with_reducible apply State.setF_keeps
    | with_reducible apply State.inc_keeps
    | with_reducible apply State.setB_keeps
    | with_reducible apply State.canSync_keeps
    | with_reducible apply keeps_ite

theorem execCanBusOff_keeps {q : List Instr} {u : Nat} {c : Nat} {tec : Nat} {rec' : Nat} {t : Nat} {s : State} (hs : Keeps q u s) :
    KeptO q u (execCanBusOff c tec rec' t s) := by
  unfold execCanBusOff
  repeat' first
    | with_reducible assumption
    | (lift_lets -underBinder; (intro s; refine cut (p := Keeps q u (s : State)) ?_ ?_; (on_goal 2 => clear_value s; intro _); (on_goal 1 => try subst s)))
    | with_reducible apply State.adv_keeps
    | with_reducible apply State.set_keeps
    | with_reducible apply State.busOff_keeps
    | with_reducible apply keeps_ite
    | with_reducible apply keptW_ok
    | with_reducible apply keptW_no
    | with_reducible apply keptO_next
    | with_reducible apply keptW_ite
    | with_reducible apply keptO_ite

theorem execCanBusRecovered_keeps {q : List Instr} {u : Nat} {c : Nat} {t : Nat} {s : State} (hs : Keeps q u s) :
    KeptO q u (execCanBusRecovered c t s) := by
  unfold execCanBusRecovered
  repeat' first
    | with_reducible assumption
    | (intro s; refine cut (p := Keeps q u (s : State)) ?_ ?_; (on_goal 2 => clear_value s; intro _); (on_goal 1 => try subst s))
    | (intro x; clear_value x)
    | (lift_lets -underBinder; (intro s; refine cut (p := Keeps q u (s : State)) ?_ ?_; (on_goal 2 => clear_value s; intro _); (on_goal 1 => try subst s)))
    | with_reducible apply State.adv_keeps
    | with_reducible apply State.setF_keeps
    | with_reducible apply State.set_keeps
    | with_reducible apply State.canHit_keeps
    | with_reducible apply State.canSync_keeps
    | with_reducible apply keeps_ite
    | with_reducible apply keptW_ok
    | with_reducible apply keptW_no
    | with_reducible apply keptO_next
    | with_reducible apply keptW_ite
    | with_reducible apply keptO_ite

theorem State.rxOverrun_keeps {q : List Instr} {u : Nat} {s : State} {c : Nat} (hs : Keeps q u s) :
    Keeps q u (State.rxOverrun s c) := by
  unfold State.rxOverrun
  repeat' first
    | with_reducible assumption
    | with_reducible apply State.inc_keeps
    | with_reducible apply State.canHit_keeps

theorem execCanRxOverrun_keeps {q : List Instr} {u : Nat} {c : Nat} {t : Nat} {s : State} (hs : Keeps q u s) :
    KeptO q u (execCanRxOverrun c t s) := by
  unfold execCanRxOverrun
  repeat' first
    | with_reducible assumption
    | (lift_lets -underBinder; (intro s; refine cut (p := Keeps q u (s : State)) ?_ ?_; (on_goal 2 => clear_value s; intro _); (on_goal 1 => try subst s)))
    | with_reducible apply State.adv_keeps
    | with_reducible apply State.rxOverrun_keeps
    | with_reducible apply keeps_ite
    | with_reducible apply keptW_ok
    | with_reducible apply keptW_no
    | with_reducible apply keptO_next
    | with_reducible apply keptW_ite
    | with_reducible apply keptO_ite

theorem nmtCmd_keeps {q : List Instr} {u : Nat} {t : Nat} {s : State} {f : State → State} (hs : Keeps q u s) (hf : ∀ s, Keeps q u s → Keeps q u (f s)) :
    KeptO q u (nmtCmd t s f) := by
  unfold nmtCmd
  repeat' first
    | with_reducible assumption
    | refine fun (s : State) (h : Keeps q u s) => ?_
    | refine fun _ => ?_
    | with_reducible apply hf
    | with_reducible apply State.adv_keeps
    | with_reducible apply State.canHeard_keeps
    | with_reducible apply keeps_ite
    | with_reducible apply keptW_ok
    | with_reducible apply keptW_no
    | with_reducible apply keptO_next

theorem execNmtStart_keeps {q : List Instr} {u : Nat} {t : Nat} {s : State} (hs : Keeps q u s) :
    KeptO q u (execNmtStart t s) := by
  unfold execNmtStart
  repeat' first
    | with_reducible assumption
    | refine fun (s : State) (h : Keeps q u s) => ?_
    | refine fun _ => ?_
    | with_reducible apply nmtCmd_keeps
    | with_reducible apply State.set_keeps

theorem execNmtStop_keeps {q : List Instr} {u : Nat} {t : Nat} {s : State} (hs : Keeps q u s) :
    KeptO q u (execNmtStop t s) := by
  unfold execNmtStop
  repeat' first
    | with_reducible assumption
    | refine fun (s : State) (h : Keeps q u s) => ?_
    | refine fun _ => ?_
    | with_reducible apply nmtCmd_keeps
    | with_reducible apply State.set_keeps

theorem execNmtEnterPreOperational_keeps {q : List Instr} {u : Nat} {t : Nat} {s : State} (hs : Keeps q u s) :
    KeptO q u (execNmtEnterPreOperational t s) := by
  unfold execNmtEnterPreOperational
  repeat' first
    | with_reducible assumption
    | refine fun (s : State) (h : Keeps q u s) => ?_
    | refine fun _ => ?_
    | with_reducible apply nmtCmd_keeps
    | with_reducible apply State.set_keeps

theorem execNmtResetNode_keeps {q : List Instr} {u : Nat} {t : Nat} {s : State} (hs : Keeps q u s) :
    KeptO q u (execNmtResetNode t s) := by
  unfold execNmtResetNode
  repeat' first
    | with_reducible assumption
    | refine fun (s : State) (h : Keeps q u s) => ?_
    | refine fun _ => ?_
    | with_reducible apply nmtCmd_keeps
    | with_reducible apply State.resetComm_keeps

theorem execNmtResetCommunication_keeps {q : List Instr} {u : Nat} {t : Nat} {s : State} (hs : Keeps q u s) :
    KeptO q u (execNmtResetCommunication t s) := by
  unfold execNmtResetCommunication
  repeat' first
    | with_reducible assumption
    | refine fun (s : State) (h : Keeps q u s) => ?_
    | refine fun _ => ?_
    | with_reducible apply nmtCmd_keeps
    | with_reducible apply State.resetComm_keeps

theorem execHeartbeatProduce_keeps {q : List Instr} {u : Nat} {t : Nat} {s : State} (hs : Keeps q u s) :
    KeptO q u (execHeartbeatProduce t s) := by
  unfold execHeartbeatProduce
  repeat' first
    | with_reducible assumption
    | (intro x; clear_value x)
    | (lift_lets -underBinder; (intro s; refine cut (p := Keeps q u (s : State)) ?_ ?_; (on_goal 2 => clear_value s; intro _); (on_goal 1 => try subst s)))
    | with_reducible apply State.adv_keeps
    | with_reducible apply State.setNet_keeps
    | with_reducible apply State.canSend_keeps
    | with_reducible apply keeps_ite
    | with_reducible apply keptW_ok
    | with_reducible apply keptW_no
    | with_reducible apply keptO_next
    | with_reducible apply keptW_ite
    | with_reducible apply keptO_ite

theorem execHeartbeatRx_keeps {q : List Instr} {u : Nat} {node : Nat} {t : Nat} {s : State} (hs : Keeps q u s) :
    KeptO q u (execHeartbeatRx node t s) := by
  unfold execHeartbeatRx
  repeat' first
    | with_reducible assumption
    | refine fun (s : State) (h : Keeps q u s) => ?_
    | refine fun _ => ?_
    | (lift_lets -underBinder; (intro x; clear_value x))
    | with_reducible apply State.adv_keeps
    | with_reducible apply State.canHeard_keeps
    | with_reducible apply State.forAll_keeps
    | with_reducible apply State.setNet_keeps
    | with_reducible apply keeps_ite
    | with_reducible apply keptW_ok
    | with_reducible apply keptW_no
    | with_reducible apply keptO_next

theorem State.hbLoss_keeps {q : List Instr} {u : Nat} {s : State} {k : Nat} (hs : Keeps q u s) :
    Keeps q u (State.hbLoss s k) := by
  unfold State.hbLoss
  repeat' first
    | with_reducible assumption
    | (lift_lets -underBinder; (intro x; clear_value x))
    | with_reducible apply State.setNet_keeps
    | with_reducible apply State.hit_keeps

theorem execHeartbeatLoss_keeps {q : List Instr} {u : Nat} {k : Nat} {t : Nat} {s : State} (hs : Keeps q u s) :
    KeptO q u (execHeartbeatLoss k t s) := by
  unfold execHeartbeatLoss
  repeat' first
    | with_reducible assumption
    | (intro x; clear_value x)
    | (lift_lets -underBinder; (intro s; refine cut (p := Keeps q u (s : State)) ?_ ?_; (on_goal 2 => clear_value s; intro _); (on_goal 1 => try subst s)))
    | with_reducible apply State.adv_keeps
    | with_reducible apply State.hbLoss_keeps
    | with_reducible apply keeps_ite
    | with_reducible apply keeps_ite_fst
    | with_reducible apply keptW_ok
    | with_reducible apply keptW_no
    | with_reducible apply keptO_next
    | with_reducible apply keptW_ite
    | with_reducible apply keptO_ite

theorem State.syncLoss_keeps {q : List Instr} {u : Nat} {s : State} (hs : Keeps q u s) :
    Keeps q u (State.syncLoss s) := by
  unfold State.syncLoss
  repeat' first
    | with_reducible assumption
    | (lift_lets -underBinder; (intro x; clear_value x))
    | with_reducible apply State.setNet_keeps
    | with_reducible apply State.hit_keeps

theorem execSyncTimeout_keeps {q : List Instr} {u : Nat} {t : Nat} {s : State} (hs : Keeps q u s) :
    KeptO q u (execSyncTimeout t s) := by
  unfold execSyncTimeout
  repeat' first
    | with_reducible assumption
    | (intro x; clear_value x)
    | (lift_lets -underBinder; (intro s; refine cut (p := Keeps q u (s : State)) ?_ ?_; (on_goal 2 => clear_value s; intro _); (on_goal 1 => try subst s)))
    | with_reducible apply State.adv_keeps
    | with_reducible apply State.syncLoss_keeps
    | with_reducible apply keeps_ite
    | with_reducible apply keptW_ok
    | with_reducible apply keptW_no
    | with_reducible apply keptO_next
    | with_reducible apply keptW_ite
    | with_reducible apply keptO_ite

theorem State.rpdoLate_keeps {q : List Instr} {u : Nat} {s : State} {p : Nat} (hs : Keeps q u s) :
    Keeps q u (State.rpdoLate s p) := by
  unfold State.rpdoLate
  repeat' first
    | with_reducible assumption
    | (lift_lets -underBinder; (intro x; clear_value x))
    | with_reducible apply State.setNet_keeps
    | with_reducible apply State.hit_keeps

theorem execRpdoTimeout_keeps {q : List Instr} {u : Nat} {p : Nat} {t : Nat} {s : State} (hs : Keeps q u s) :
    KeptO q u (execRpdoTimeout p t s) := by
  unfold execRpdoTimeout
  repeat' first
    | with_reducible assumption
    | (intro x; clear_value x)
    | (lift_lets -underBinder; (intro s; refine cut (p := Keeps q u (s : State)) ?_ ?_; (on_goal 2 => clear_value s; intro _); (on_goal 1 => try subst s)))
    | with_reducible apply State.adv_keeps
    | with_reducible apply State.rpdoLate_keeps
    | with_reducible apply keeps_ite
    | with_reducible apply keeps_ite_fst
    | with_reducible apply keptW_ok
    | with_reducible apply keptW_no
    | with_reducible apply keptO_next
    | with_reducible apply keptW_ite
    | with_reducible apply keptO_ite

theorem State.sessFree_keeps {q : List Instr} {u : Nat} {s : State} {k : Nat} (hs : Keeps q u s) :
    Keeps q u (State.sessFree s k) := by
  unfold State.sessFree
  repeat' first
    | with_reducible assumption
    | (intro s; refine cut (p := Keeps q u (s : State)) ?_ ?_; (on_goal 2 => clear_value s; intro _); (on_goal 1 => try subst s))
    | (lift_lets -underBinder; (intro x; clear_value x))
    | with_reducible apply State.setNet_keeps
    | with_reducible apply State.set_keeps
    | with_reducible apply State.setB_keeps

theorem State.usdoSend_keeps {q : List Instr} {u : Nat} {s : State} {what : String} {args : List Nat} (hs : Keeps q u s) :
    Keeps q u (State.usdoSend s what args) := by
  unfold State.usdoSend
  repeat' first
    | with_reducible assumption
    | refine fun (s : State) (h : Keeps q u s) => ?_
    | refine fun _ => ?_
    | with_reducible apply State.forAll_keeps
    | with_reducible apply State.inc_keeps
    | with_reducible apply State.emit_keeps
    | with_reducible apply keeps_ite
    | with_reducible apply keptW_ok
    | with_reducible apply keptW_no
    | with_reducible apply keptO_next
    | with_reducible apply keptW_ite
    | with_reducible apply keptO_ite
    | refine Keeps.of_ok (by with_reducible assumption) ?_
    | refine Keeps.of_no (by with_reducible assumption) ?_
    | refine Keeps.of_fst (by with_reducible assumption) ?_
    | refine Keeps.of_snd (by with_reducible assumption) ?_
    | split

theorem State.usdoAbort_keeps {q : List Instr} {u : Nat} {s : State} {client : Nat} {index : Nat} {sub : Nat} {code : Nat} (hs : Keeps q u s) :
    Keeps q u (State.usdoAbort s client index sub code) := by
  unfold State.usdoAbort
  repeat' first
    | with_reducible assumption
    | with_reducible apply State.usdoSend_keeps

theorem State.sessTimeout_keeps {q : List Instr} {u : Nat} {s : State} {k : Nat} (hs : Keeps q u s) :
    Keeps q u (State.sessTimeout s k) := by
  unfold State.sessTimeout
  repeat' first
    | with_reducible assumption
    | (lift_lets -underBinder; (intro x; clear_value x))
    | with_reducible apply State.sessFree_keeps
    | with_reducible apply State.usdoAbort_keeps
    | with_reducible apply State.hit_keeps

theorem execUsdoTimeout_keeps {q : List Instr} {u : Nat} {k : Nat} {t : Nat} {s : State} (hs : Keeps q u s) :
    KeptO q u (execUsdoTimeout k t s) := by
  unfold execUsdoTimeout
  repeat' first
    | with_reducible assumption
    | (intro x; clear_value x)
    | (lift_lets -underBinder; (intro s; refine cut (p := Keeps q u (s : State)) ?_ ?_; (on_goal 2 => clear_value s; intro _); (on_goal 1 => try subst s)))
    | with_reducible apply State.adv_keeps
    | with_reducible apply State.sessTimeout_keeps
    | with_reducible apply keeps_ite
    | with_reducible apply keeps_ite_fst
    | with_reducible apply keptW_ok
    | with_reducible apply keptW_no
    | with_reducible apply keptO_next
    | with_reducible apply keptW_ite
    | with_reducible apply keptO_ite

end Sys2Proof.Machine
end

