-- ==== Sys2Proof/Laws/KeepsChain.lean ====
section
/-! SUPPORT. What each operation of Machine/Chain.lean keeps (Laws/Keeps.lean). -/
namespace Sys2Proof.Machine

theorem State.dmTo_keeps {q : List Instr} {u : Nat} {s : State} {c : Nat} {st : Nat} (hs : Keeps q u s) :
    Keeps q u (State.dmTo s c st) := by
  unfold State.dmTo
  repeat' first
    | with_reducible assumption
    | with_reducible apply State.setF_keeps
    | with_reducible apply State.setB_keeps

theorem dmStart_keeps {q : List Instr} {u : Nat} {c : Nat} {s : State} (hs : Keeps q u s) :
    KeptW q u (dmStart c s) := by
  unfold dmStart
  repeat' first
    | with_reducible assumption
    | (lift_lets -underBinder; (intro s; refine cut (p := Keeps q u (s : State)) ?_ ?_; (on_goal 2 => clear_value s; intro _); (on_goal 1 => try subst s)))
    | with_reducible apply need_keeps
    | with_reducible apply State.conflict_keeps
    | with_reducible apply State.set_keeps
    | with_reducible apply State.setDmaCh_keeps
    | with_reducible apply State.dmTo_keeps
    | with_reducible apply keeps_ite
    | with_reducible apply keptW_ok
    | with_reducible apply keptW_no
    | with_reducible apply keptO_next
    | with_reducible apply keptW_ite

theorem State.dmStop_keeps {q : List Instr} {u : Nat} {s : State} {c : Nat} (hs : Keeps q u s) :
    Keeps q u (State.dmStop s c) := by
  unfold State.dmStop
  repeat' first
    | with_reducible assumption
    | with_reducible apply State.setDmaCh_keeps
    | with_reducible apply State.dmTo_keeps

theorem State.dmResult_keeps {q : List Instr} {u : Nat} {s : State} {c : Nat} {v : Nat} (hs : Keeps q u s) :
    Keeps q u (State.dmResult s c v) := by
  unfold State.dmResult
  repeat' first
    | with_reducible assumption
    | (lift_lets -underBinder; (intro x; clear_value x))
    | with_reducible apply State.mputs_keeps
    | with_reducible apply State.emit_keeps
    | with_reducible apply keeps_ite

theorem State.dmNext_keeps {q : List Instr} {u : Nat} {s : State} {c : Nat} (hs : Keeps q u s) :
    Keeps q u (State.dmNext s c) := by
  unfold State.dmNext
  repeat' first
    | with_reducible assumption
    | (lift_lets -underBinder; (intro s; refine cut (p := Keeps q u (s : State)) ?_ ?_; (on_goal 2 => clear_value s; intro _); (on_goal 1 => try subst s)))
    | with_reducible apply State.setDmaCh_keeps
    | with_reducible apply State.dmTo_keeps
    | with_reducible apply State.dmStop_keeps
    | with_reducible apply dmStart_keeps
    | with_reducible apply State.setB_keeps
    | with_reducible apply keeps_ite
    | with_reducible apply keptW_ok
    | with_reducible apply keptW_no
    | with_reducible apply keptO_next
    | with_reducible apply keptW_ite
    | with_reducible apply keptO_ite
    | refine Keeps.of_ok (by with_reducible assumption) ?_
    | refine Keeps.of_no (by with_reducible assumption) ?_
    | refine Keeps.of_fst (by with_reducible assumption) ?_
    | refine Keeps.of_snd (by with_reducible assumption) ?_
    | split

theorem State.dmHalt_keeps {q : List Instr} {u : Nat} {s : State} {c : Nat} {addr : Nat} {code : Nat} {write : Bool} (hs : Keeps q u s) :
    Keeps q u (State.dmHalt s c addr code write) := by
  unfold State.dmHalt
  repeat' first
    | with_reducible assumption
    | (intro s; refine cut (p := Keeps q u (s : State)) ?_ ?_; (on_goal 2 => clear_value s; intro _); (on_goal 1 => try subst s))
    | (lift_lets -underBinder; (intro x; clear_value x))
    | with_reducible apply State.set_keeps
    | with_reducible apply State.setF_keeps
    | with_reducible apply State.setB_keeps
    | with_reducible apply State.dmTo_keeps
    | with_reducible apply State.hit_keeps

theorem State.dmPay_keeps {q : List Instr} {u : Nat} {s : State} {c : Nat} (hs : Keeps q u s) :
    Keeps q u (State.dmPay s c) := by
  unfold State.dmPay
  repeat' first
    | with_reducible assumption
    | (intro x; clear_value x)
    | (lift_lets -underBinder; (intro x; clear_value x))
    | with_reducible apply State.dmTo_keeps
    | with_reducible apply State.setF_keeps
    | with_reducible apply State.setDmaCh_keeps
    | with_reducible apply keeps_ite

theorem wrDmCmd_keeps {q : List Instr} {u : Nat} {c : Nat} {v : Nat} {s : State} (hs : Keeps q u s) :
    KeptW q u (wrDmCmd c v s) := by
  unfold wrDmCmd
  repeat' first
    | with_reducible assumption
    | with_reducible apply dmStart_keeps
    | with_reducible apply State.dmStop_keeps
    | with_reducible apply need_keeps
    | with_reducible apply State.dmTo_keeps
    | with_reducible apply State.setDmaCh_keeps
    | with_reducible apply State.dmResult_keeps
    | with_reducible apply State.dmNext_keeps
    | with_reducible apply keeps_ite
    | with_reducible apply keptW_ok
    | with_reducible apply keptW_no
    | with_reducible apply keptO_next
    | with_reducible apply keptW_ite
    | with_reducible apply keptO_ite
    | refine Keeps.of_ok (by with_reducible assumption) ?_
    | refine Keeps.of_no (by with_reducible assumption) ?_
    | refine Keeps.of_fst (by with_reducible assumption) ?_
    | refine Keeps.of_snd (by with_reducible assumption) ?_
    | split

theorem dmCmd_keeps {q : List Instr} {u : Nat} {p : Path} {c : Nat} {v : Nat} {s : State} (hs : Keeps q u s) :
    KeptO q u (dmCmd p c v s) := by
  unfold dmCmd
  repeat' first
    | with_reducible assumption
    | refine fun (s : State) (h : Keeps q u s) => ?_
    | refine fun _ => ?_
    | with_reducible apply access_keeps
    | with_reducible apply wrDmCmd_keeps
    | with_reducible apply keeps_ite
    | with_reducible apply keptW_ok
    | with_reducible apply keptW_no
    | with_reducible apply keptO_next
    | with_reducible apply keptW_ite
    | with_reducible apply keptO_ite

theorem execDmaStart_keeps {q : List Instr} {u : Nat} {p : Path} {c : Nat} {s : State} (hs : Keeps q u s) :
    KeptO q u (execDmaStart p c s) := by
  unfold execDmaStart
  repeat' first
    | with_reducible assumption
    | with_reducible apply dmCmd_keeps

theorem execDmaStop_keeps {q : List Instr} {u : Nat} {p : Path} {c : Nat} {s : State} (hs : Keeps q u s) :
    KeptO q u (execDmaStop p c s) := by
  unfold execDmaStop
  repeat' first
    | with_reducible assumption
    | with_reducible apply dmCmd_keeps

theorem execDmaResume_keeps {q : List Instr} {u : Nat} {p : Path} {c : Nat} {s : State} (hs : Keeps q u s) :
    KeptO q u (execDmaResume p c s) := by
  unfold execDmaResume
  repeat' first
    | with_reducible assumption
    | with_reducible apply dmCmd_keeps

theorem execDmaSkip_keeps {q : List Instr} {u : Nat} {p : Path} {c : Nat} {s : State} (hs : Keeps q u s) :
    KeptO q u (execDmaSkip p c s) := by
  unfold execDmaSkip
  repeat' first
    | with_reducible assumption
    | with_reducible apply dmCmd_keeps

theorem State.dmLoaded_keeps {q : List Instr} {u : Nat} {s : State} {c : Nat} {b : List Byte} (hs : Keeps q u s) :
    Keeps q u (State.dmLoaded s c b) := by
  unfold State.dmLoaded
  repeat' first
    | with_reducible assumption
    | refine fun (s : State) (h : Keeps q u s) => ?_
    | refine fun _ => ?_
    | (intro s; refine cut (p := Keeps q u (s : State)) ?_ ?_; (on_goal 2 => clear_value s; intro _); (on_goal 1 => try subst s))
    | (intro f; refine cut (p := ∀ k : Nat, Keeps q u (f k : State)) ?_ ?_; (on_goal 2 => clear_value f; intro hf); (on_goal 1 => subst f))
    | (intro x; clear_value x)
    | (lift_lets -underBinder; (intro x; clear_value x))
    | with_reducible apply State.refuse_keeps
    | with_reducible apply State.setDmaCh_keeps
    | with_reducible apply State.dmHalt_keeps
    | with_reducible apply State.dmPay_keeps
    | with_reducible apply hf
    | with_reducible apply keeps_ite

theorem execDmaDescLoaded_keeps {q : List Instr} {u : Nat} {c : Nat} {bytes : List Byte} {t : Nat} {s : State} (hs : Keeps q u s) :
    KeptO q u (execDmaDescLoaded c bytes t s) := by
  unfold execDmaDescLoaded
  repeat' first
    | with_reducible assumption
    | (intro x; clear_value x)
    | (lift_lets -underBinder; (intro s; refine cut (p := Keeps q u (s : State)) ?_ ?_; (on_goal 2 => clear_value s; intro _); (on_goal 1 => try subst s)))
    | with_reducible apply State.adv_keeps
    | with_reducible apply State.setDmaCh_keeps
    | with_reducible apply State.dmHalt_keeps
    | with_reducible apply State.dmLoaded_keeps
    | with_reducible apply keeps_ite
    | with_reducible apply keptW_ok
    | with_reducible apply keptW_no
    | with_reducible apply keptO_next
    | with_reducible apply keptW_ite
    | with_reducible apply keptO_ite

end Sys2Proof.Machine
end

