-- ==== Sys2Proof/Laws/KeepsMask.lean ====
section
/-! SUPPORT. What each operation of Machine/Mask.lean keeps (Laws/Keeps.lean). -/
namespace Sys2Proof.Machine

theorem State.recPend_keeps {q : List Instr} {u : Nat} {s : State} {n : Nat} {cause : Nat} {byMask : Bool} (hs : Keeps q u s) :
    Keeps q u (State.recPend s n cause byMask) := by
  unfold State.recPend
  repeat' first
    | with_reducible assumption
    | (intro x; clear_value x)
    | (lift_lets -underBinder; (intro x; clear_value x))
    | with_reducible apply State.setHealth_keeps
    | with_reducible apply State.setB_keeps

theorem State.rankTo_keeps {q : List Instr} {u : Nat} {s : State} {n : Nat} {r : Nat} {cause : Nat} (hs : Keeps q u s) :
    Keeps q u (State.rankTo s n r cause) := by
  unfold State.rankTo
  repeat' first
    | with_reducible assumption
    | with_reducible apply State.set_keeps
    | with_reducible apply State.hit_keeps
    | with_reducible apply State.recPend_keeps
    | with_reducible apply keeps_ite

theorem State.rankOver_keeps {q : List Instr} {u : Nat} {s : State} {n : Nat} (hs : Keeps q u s) :
    Keeps q u (State.rankOver s n) := by
  unfold State.rankOver
  repeat' first
    | with_reducible assumption
    | with_reducible apply State.setB_keeps

theorem State.rankCount_keeps {q : List Instr} {u : Nat} {s : State} {n : Nat} (hs : Keeps q u s) :
    Keeps q u (State.rankCount s n) := by
  unfold State.rankCount
  repeat' first
    | with_reducible assumption
    | (lift_lets -underBinder; (intro s; refine cut (p := Keeps q u (s : State)) ?_ ?_; (on_goal 2 => clear_value s; intro _); (on_goal 1 => try subst s)))
    | with_reducible apply State.rankOver_keeps
    | with_reducible apply State.rankTo_keeps
    | with_reducible apply keeps_ite

theorem State.compTake_keeps {q : List Instr} {u : Nat} {s : State} {n : Nat} {e : Nat} {k : Nat} (hs : Keeps q u s) :
    Keeps q u (State.compTake s n e k) := by
  unfold State.compTake
  repeat' first
    | with_reducible assumption
    | with_reducible apply State.set_keeps

theorem State.promote_keeps {q : List Instr} {u : Nat} {n : Nat} : ∀ {k : Nat} {s : State}, Keeps q u s →
    Keeps q u (State.promote s n k) := by
  intro k
  induction k with
  | zero => intro s hs; exact hs
  | succ k ih =>
    intro s hs
    unfold State.promote
    repeat' first
      | with_reducible assumption
      | with_reducible apply ih
      | with_reducible apply State.compTake_keeps
      | with_reducible apply State.setB_keeps
      | with_reducible apply keeps_ite
      | with_reducible apply keptW_ok
      | with_reducible apply keptW_no
      | with_reducible apply keptO_next
      | with_reducible apply keptW_ite
      | with_reducible apply keptO_ite
      | refine Keeps.of_ok (by with_reducible assumption) ?_
      | refine Keeps.of_no (by with_reducible assumption) ?_
      | refine Keeps.of_fst (by with_reducible assumption) ?_
      | refine Keeps.of_snd (by with_reducible assumption) ?_
      | split

theorem State.staleFrames_keeps {q : List Instr} {u : Nat} {s : State} {n : Nat} {ks : List Nat} (hs : Keeps q u s) :
    Keeps q u (State.staleFrames s n ks) := by
  unfold State.staleFrames
  repeat' first
    | with_reducible assumption
    | (intro x; clear_value x)
    | (lift_lets -underBinder; (intro x; clear_value x))
    | with_reducible apply State.setSched_keeps

theorem State.maskSync_keeps {q : List Instr} {u : Nat} {s : State} {n : Nat} (hs : Keeps q u s) :
    Keeps q u (State.maskSync s n) := by
  unfold State.maskSync
  repeat' first
    | with_reducible assumption
    | (intro s; refine cut (p := Keeps q u (s : State)) ?_ ?_; (on_goal 2 => clear_value s; intro _); (on_goal 1 => try subst s))
    | (intro x; clear_value x)
    | (lift_lets -underBinder; (intro x; clear_value x))
    | with_reducible apply State.setMask_keeps
    | with_reducible apply State.staleFrames_keeps
    | with_reducible apply State.set_keeps
    | with_reducible apply State.setB_keeps
    | with_reducible apply State.rankCount_keeps
    | with_reducible apply State.rankTo_keeps
    | with_reducible apply keeps_ite

theorem State.maskRaise_keeps {q : List Instr} {u : Nat} {s : State} {n : Nat} (hs : Keeps q u s) :
    Keeps q u (State.maskRaise s n) := by
  unfold State.maskRaise
  repeat' first
    | with_reducible assumption
    | with_reducible apply State.raise_keeps

theorem State.maskNozzle_keeps {q : List Instr} {u : Nat} {s : State} {n : Nat} {k : Nat} {roll : Bool} {quiet : Bool} (hs : Keeps q u s) :
    Keeps q u (State.maskNozzle s n k roll quiet) := by
  unfold State.maskNozzle
  repeat' first
    | with_reducible assumption
    | (intro s; refine cut (p := Keeps q u (s : State)) ?_ ?_; (on_goal 2 => clear_value s; intro _); (on_goal 1 => try subst s))
    | (intro x; clear_value x)
    | (lift_lets -underBinder; first | (intro s; refine cut (p := Keeps q u (s : State)) ?_ ?_; (on_goal 2 => clear_value s; intro _); (on_goal 1 => try subst s)) | (intro x; clear_value x))
    | with_reducible apply State.setMask_keeps
    | with_reducible apply State.maskRaise_keeps
    | with_reducible apply State.compTake_keeps
    | with_reducible apply State.maskSync_keeps
    | with_reducible apply State.setB_keeps
    | with_reducible apply State.raise_keeps
    | with_reducible apply keeps_ite
    | with_reducible apply keptW_ok
    | with_reducible apply keptW_no
    | with_reducible apply keptO_next
    | with_reducible apply keptW_ite
    | with_reducible apply keptO_ite
    | refine Keeps.of_ok (by with_reducible assumption) ?_
    | refine Keeps.of_no (by with_reducible assumption) ?_
    | refine Keeps.of_fst (by with_reducible assumption) ?_
    | refine Keeps.of_snd (by with_reducible assumption) ?_
    | split

theorem wrMaskCmd_keeps {q : List Instr} {u : Nat} {n : Nat} {v : Nat} {s : State} (hs : Keeps q u s) :
    KeptW q u (wrMaskCmd n v s) := by
  unfold wrMaskCmd
  repeat' first
    | with_reducible assumption
    | (intro s; refine cut (p := Keeps q u (s : State)) ?_ ?_; (on_goal 2 => clear_value s; intro _); (on_goal 1 => try subst s))
    | (intro x; clear_value x)
    | (lift_lets -underBinder; (intro x; clear_value x))
    | with_reducible apply State.maskNozzle_keeps
    | with_reducible apply State.setMask_keeps
    | with_reducible apply State.set_keeps
    | with_reducible apply State.promote_keeps
    | with_reducible apply State.maskSync_keeps
    | with_reducible apply keeps_ite
    | with_reducible apply keeps_ite_fst
    | with_reducible apply keeps_ite_snd
    | with_reducible apply keptW_ok
    | with_reducible apply keptW_no
    | with_reducible apply keptO_next
    | with_reducible apply keptW_ite
    | with_reducible apply keptO_ite
    | refine Keeps.of_ok (by with_reducible assumption) ?_
    | refine Keeps.of_no (by with_reducible assumption) ?_
    | refine Keeps.of_fst (by with_reducible assumption) ?_
    | refine Keeps.of_snd (by with_reducible assumption) ?_
    | split

theorem wrComp_keeps {q : List Instr} {u : Nat} {n : Nat} {e : Nat} {v : Nat} {s : State} (hs : Keeps q u s) :
    KeptW q u (wrComp n e v s) := by
  unfold wrComp
  repeat' first
    | with_reducible assumption
    | refine fun (s : State) (h : Keeps q u s) => ?_
    | refine fun _ => ?_
    | (intro s; refine cut (p := Keeps q u (s : State)) ?_ ?_; (on_goal 2 => clear_value s; intro _); (on_goal 1 => try subst s))
    | (intro x; clear_value x)
    | (lift_lets -underBinder; (intro x; clear_value x))
    | with_reducible apply State.maskRaise_keeps
    | with_reducible apply State.set_keeps
    | with_reducible apply State.promote_keeps
    | with_reducible apply State.maskSync_keeps
    | with_reducible apply hf
    | with_reducible apply keeps_ite
    | with_reducible apply keeps_ite_fst
    | with_reducible apply keeps_ite_snd
    | with_reducible apply keptW_ok
    | with_reducible apply keptW_no
    | with_reducible apply keptO_next
    | with_reducible apply keptW_ite

theorem execScrMaskCmdMask_keeps {q : List Instr} {u : Nat} {p : Path} {n : Nat} {v : Nat} {s : State} (hs : Keeps q u s) :
    KeptO q u (execScrMaskCmdMask p n v s) := by
  unfold execScrMaskCmdMask
  repeat' first
    | with_reducible assumption
    | refine fun (s : State) (h : Keeps q u s) => ?_
    | refine fun _ => ?_
    | with_reducible apply access_keeps
    | with_reducible apply wrMaskCmd_keeps

theorem execScrMaskCmdUnmask_keeps {q : List Instr} {u : Nat} {p : Path} {n : Nat} {v : Nat} {s : State} (hs : Keeps q u s) :
    KeptO q u (execScrMaskCmdUnmask p n v s) := by
  unfold execScrMaskCmdUnmask
  repeat' first
    | with_reducible assumption
    | refine fun (s : State) (h : Keeps q u s) => ?_
    | refine fun _ => ?_
    | with_reducible apply access_keeps
    | with_reducible apply wrMaskCmd_keeps

theorem execScrCompWrite_keeps {q : List Instr} {u : Nat} {p : Path} {n : Nat} {e : Nat} {v : Nat} {s : State} (hs : Keeps q u s) :
    KeptO q u (execScrCompWrite p n e v s) := by
  unfold execScrCompWrite
  repeat' first
    | with_reducible assumption
    | refine fun (s : State) (h : Keeps q u s) => ?_
    | refine fun _ => ?_
    | with_reducible apply access_keeps
    | with_reducible apply wrComp_keeps

end Sys2Proof.Machine
end

