-- ==== Sys2Proof/Laws/KeepsScreen.lean ====
section
/-! SUPPORT. What each operation of Machine/Screen.lean keeps (Laws/Keeps.lean). -/
namespace Sys2Proof.Machine

theorem State.commitApply_keeps {q : List Instr} {u : Nat} {s : State} {n : Nat} (hs : Keeps q u s) :
    Keeps q u (State.commitApply s n) := by
  unfold State.commitApply
  repeat' first
    | with_reducible assumption
    | (intro s; refine cut (p := Keeps q u (s : State)) ?_ ?_; (on_goal 2 => clear_value s; intro _); (on_goal 1 => try subst s))
    | (intro x; clear_value x)
    | (lift_lets -underBinder; (intro x; clear_value x))
    | with_reducible apply State.set_keeps
    | with_reducible apply State.setLive_keeps
    | with_reducible apply State.mcopy_keeps
    | with_reducible apply State.setLane_keeps
    | with_reducible apply State.setB_keeps

theorem wrCommit_keeps {q : List Instr} {u : Nat} {n : Nat} {v : Nat} {s : State} (hs : Keeps q u s) :
    KeptW q u (wrCommit n v s) := by
  unfold wrCommit
  repeat' first
    | with_reducible assumption
    | (intro s; refine cut (p := Keeps q u (s : State)) ?_ ?_; (on_goal 2 => clear_value s; intro _); (on_goal 1 => try subst s))
    | (intro x; clear_value x)
    | (lift_lets -underBinder; (intro x; clear_value x))
    | with_reducible apply State.set_keeps
    | with_reducible apply State.setB_keeps
    | with_reducible apply State.setLane_keeps
    | with_reducible apply State.commitApply_keeps
    | with_reducible apply keeps_ite
    | with_reducible apply keptW_ok
    | with_reducible apply keptW_no
    | with_reducible apply keptO_next
    | with_reducible apply keptW_ite

theorem execScrCommitLine_keeps {q : List Instr} {u : Nat} {p : Path} {n : Nat} {s : State} (hs : Keeps q u s) :
    KeptO q u (execScrCommitLine p n s) := by
  unfold execScrCommitLine
  repeat' first
    | with_reducible assumption
    | refine fun (s : State) (h : Keeps q u s) => ?_
    | refine fun _ => ?_
    | with_reducible apply access_keeps
    | with_reducible apply wrCommit_keeps

theorem execScrCommitBand_keeps {q : List Instr} {u : Nat} {p : Path} {n : Nat} {s : State} (hs : Keeps q u s) :
    KeptO q u (execScrCommitBand p n s) := by
  unfold execScrCommitBand
  repeat' first
    | with_reducible assumption
    | refine fun (s : State) (h : Keeps q u s) => ?_
    | refine fun _ => ?_
    | with_reducible apply access_keeps
    | with_reducible apply wrCommit_keeps

theorem execScrCopyDone_keeps {q : List Instr} {u : Nat} {n : Nat} {s : State} (hs : Keeps q u s) :
    KeptO q u (execScrCopyDone n s) := by
  unfold execScrCopyDone
  repeat' first
    | with_reducible assumption
    | with_reducible apply State.setB_keeps
    | with_reducible apply keeps_ite
    | with_reducible apply keptW_ok
    | with_reducible apply keptW_no
    | with_reducible apply keptO_next

theorem State.screenLine_keeps {q : List Instr} {u : Nat} {s : State} {n : Nat} {l : Line} (hs : Keeps q u s) :
    Keeps q u (State.screenLine s n l) := by
  unfold State.screenLine
  repeat' first
    | with_reducible assumption
    | (intro s; refine cut (p := Keeps q u (s : State)) ?_ ?_; (on_goal 2 => clear_value s; intro _); (on_goal 1 => try subst s))
    | (intro x; clear_value x)
    | (lift_lets -underBinder; (intro x; clear_value x))
    | with_reducible apply State.commitApply_keeps
    | with_reducible apply State.inc_keeps
    | with_reducible apply State.setLane_keeps
    | with_reducible apply State.codes_keeps
    | with_reducible apply State.addC_keeps
    | with_reducible apply State.setB_keeps
    | with_reducible apply keeps_ite
    | with_reducible apply keptW_ok
    | with_reducible apply keptW_no
    | with_reducible apply keptO_next
    | with_reducible apply keptW_ite
    | with_reducible apply keptO_ite
    | refine Keeps.of_ok (by with_reducible assumption) ?_
    | refine Keeps.of_no (by with_reducible assumption) ?_
    | refine Keeps.of_fst (by with_reducible assumption) ?_
    | refine Keeps.of_snd (by with_reducible assumption) ?_
    | split

theorem execScreenLine_keeps {q : List Instr} {u : Nat} {n : Nat} {s : State} (hs : Keeps q u s) :
    KeptO q u (execScreenLine n s) := by
  unfold execScreenLine
  repeat' first
    | with_reducible assumption
    | (lift_lets -underBinder; (intro x; clear_value x))
    | with_reducible apply State.setLane_keeps
    | with_reducible apply State.screenLine_keeps
    | with_reducible apply keeps_ite
    | with_reducible apply keptW_ok
    | with_reducible apply keptW_no
    | with_reducible apply keptO_next
    | with_reducible apply keptW_ite
    | with_reducible apply keptO_ite
    | refine Keeps.of_ok (by with_reducible assumption) ?_
    | refine Keeps.of_no (by with_reducible assumption) ?_
    | refine Keeps.of_fst (by with_reducible assumption) ?_
    | refine Keeps.of_snd (by with_reducible assumption) ?_
    | split

end Sys2Proof.Machine
end

