-- ==== Sys2Proof/Laws/KeepsLane.lean ====
section
/-! SUPPORT. What each operation of Machine/Lane.lean keeps (Laws/Keeps.lean). -/
namespace Sys2Proof.Machine

theorem State.upSync_keeps {q : List Instr} {u : Nat} {s : State} (hs : Keeps q u s) :
    Keeps q u (State.upSync s) := by
  unfold State.upSync
  repeat' first
    | with_reducible assumption
    | (lift_lets -underBinder; (intro x; clear_value x))
    | with_reducible apply State.set_keeps

theorem State.bsEcc_keeps {q : List Instr} {u : Nat} {s : State} {ecc : Nat} {addr : Nat} (hs : Keeps q u s) :
    Keeps q u (State.bsEcc s ecc addr) := by
  unfold State.bsEcc
  repeat' first
    | with_reducible assumption
    | with_reducible apply State.inc_keeps
    | with_reducible apply State.hit_keeps
    | with_reducible apply State.set_keeps
    | with_reducible apply keeps_ite

theorem State.formatError_keeps {q : List Instr} {u : Nat} {s : State} {j : Nat} {p : Nat} {b : Nat} {rep : Nat} {err : Nat} {t : Nat} (hs : Keeps q u s) :
    Keeps q u (State.formatError s j p b rep err t) := by
  unfold State.formatError
  repeat' first
    | with_reducible assumption
    | (intro s; refine cut (p := Keeps q u (s : State)) ?_ ?_; (on_goal 2 => clear_value s; intro _); (on_goal 1 => try subst s))
    | (intro x; clear_value x)
    | (lift_lets -underBinder; (intro x; clear_value x))
    | with_reducible apply State.setJob_keeps
    | with_reducible apply State.set_keeps
    | with_reducible apply State.inc_keeps
    | with_reducible apply State.hit_keeps
    | with_reducible apply State.upSync_keeps
    | with_reducible apply keeps_ite

theorem State.decodeLine_keeps {q : List Instr} {u : Nat} {s : State} {j : Nat} {i : Nat} {rep : Nat} {b : Nat} {k : Nat} {ecc : Nat} {addr : Nat} (hs : Keeps q u s) :
    Keeps q u (State.decodeLine s j i rep b k ecc addr).1 := by
  unfold State.decodeLine
  repeat' first
    | with_reducible assumption
    | (intro s; refine cut (p := Keeps q u (s : State)) ?_ ?_; (on_goal 2 => clear_value s; intro _); (on_goal 1 => try subst s))
    | (intro s; refine cut (p := Keeps q u (s.2 : State)) ?_ ?_; (on_goal 2 => clear_value s; intro _); (on_goal 1 => try subst s))
    | (intro x; clear_value x)
    | (lift_lets -underBinder; (intro x; clear_value x))
    | with_reducible apply State.inc_keeps
    | with_reducible apply State.bsEcc_keeps
    | with_reducible apply State.draw_keeps
    | with_reducible apply State.formatError_keeps
    | with_reducible apply keeps_ite
    | with_reducible apply keeps_ite_fst
    | with_reducible apply keeps_ite_snd
    | with_reducible apply keptW_ok
    | with_reducible apply keptW_no
    | with_reducible apply keptO_next
    | with_reducible apply keptW_ite
    | with_reducible apply keptO_ite
    | refine Keeps.of_ok (by with_reducible assumption) ?_
    | refine Keeps.of_no (by with_reducible assumption) ?_
    | refine Keeps.of_fst (by with_reducible assumption) ?_
    | refine Keeps.of_snd (by with_reducible assumption) ?_
    | split

theorem State.nextRep_keeps {q : List Instr} {u : Nat} {s : State} {n : Nat} {j : Nat} (hs : Keeps q u s) :
    Keeps q u (State.nextRep s n j) := by
  unfold State.nextRep
  repeat' first
    | with_reducible assumption
    | refine fun (s : State) (h : Keeps q u s) => ?_
    | refine fun _ => ?_
    | (intro s; refine cut (p := Keeps q u (s : State)) ?_ ?_; (on_goal 2 => clear_value s; intro _); (on_goal 1 => try subst s))
    | (intro f; refine cut (p := ∀ s : State, Keeps q u s → Keeps q u (f s : State)) ?_ ?_; (on_goal 2 => clear_value f; intro hf); (on_goal 1 => subst f))
    | (intro x; clear_value x)
    | (lift_lets -underBinder; (intro x; clear_value x))
    | with_reducible apply State.setLane_keeps
    | with_reducible apply State.setJob_keeps
    | with_reducible apply State.set_keeps
    | with_reducible apply hf
    | with_reducible apply keeps_ite

theorem State.jobLine_keeps {q : List Instr} {u : Nat} {s : State} {j : Nat} {l : Line} (hs : Keeps q u s) :
    Keeps q u (State.jobLine s j l) := by
  unfold State.jobLine
  repeat' first
    | with_reducible assumption
    | (lift_lets -underBinder; (intro x; clear_value x))
    | with_reducible apply State.rise_keeps
    | with_reducible apply keeps_ite

theorem State.unpackLine_keeps {q : List Instr} {u : Nat} {s : State} {n : Nat} {ecc : Nat} {addr : Nat} (hs : Keeps q u s) :
    Keeps q u (State.unpackLine s n ecc addr) := by
  unfold State.unpackLine
  lift_lets -underBinder; intro lane; clear_value lane; rcases lane.serves with _ | ⟨j, i⟩
  repeat' first
    | with_reducible assumption
    | (intro s; refine cut (p := Keeps q u (s : State)) ?_ ?_; (on_goal 2 => clear_value s; intro _); (on_goal 1 => try subst s))
    | (intro s; refine cut (p := Keeps q u (s.1 : State)) ?_ ?_; (on_goal 2 => clear_value s; intro _); (on_goal 1 => try subst s))
    | (intro x; clear_value x)
    | (lift_lets -underBinder; (intro x; clear_value x))
    | with_reducible apply State.setLane_keeps
    | with_reducible apply State.nextRep_keeps
    | with_reducible apply State.decodeLine_keeps
    | with_reducible apply State.jobLine_keeps
    | with_reducible apply keeps_ite
    | with_reducible apply keeps_ite_fst
    | with_reducible apply keeps_ite_snd
    | with_reducible apply keptW_ok
    | with_reducible apply keptW_no
    | with_reducible apply keptO_next
    | with_reducible apply keptW_ite
    | with_reducible apply keptO_ite
    | refine Keeps.of_ok (by with_reducible assumption) ?_
    | refine Keeps.of_no (by with_reducible assumption) ?_
    | refine Keeps.of_fst (by with_reducible assumption) ?_
    | refine Keeps.of_snd (by with_reducible assumption) ?_
    | split

end Sys2Proof.Machine
end

