-- ==== Sys2Proof/Laws/KeepsLodge.lean ====
section
/-! SUPPORT. What each operation of Machine/Lodge.lean keeps (Laws/Keeps.lean). -/
namespace Sys2Proof.Machine

theorem State.zoneCheck1_keeps {q : List Instr} {u : Nat} {s : State} {j : Nat} {i : Nat} (hs : Keeps q u s) :
    Keeps q u (State.zoneCheck1 s j i) := by
  unfold State.zoneCheck1
  repeat' first
    | with_reducible assumption
    | (intro s; refine cut (p := Keeps q u (s : State)) ?_ ?_; (on_goal 2 => clear_value s; intro _); (on_goal 1 => try subst s))
    | (intro x; clear_value x)
    | (lift_lets -underBinder; (intro x; clear_value x))
    | with_reducible apply State.setB_keeps
    | with_reducible apply keeps_ite

theorem State.zoneCheck_keeps {q : List Instr} {u : Nat} {s : State} {j : Nat} (hs : Keeps q u s) :
    Keeps q u (State.zoneCheck s j) := by
  unfold State.zoneCheck
  repeat' first
    | with_reducible assumption
    | refine fun (s : State) (h : Keeps q u s) => ?_
    | refine fun _ => ?_
    | with_reducible apply State.forAll_keeps
    | with_reducible apply State.zoneCheck1_keeps

theorem State.stApply_keeps {q : List Instr} {u : Nat} {s : State} {n : Nat} (hs : Keeps q u s) :
    Keeps q u (State.stApply s n) := by
  unfold State.stApply
  repeat' first
    | with_reducible assumption
    | refine fun (s : State) (h : Keeps q u s) => ?_
    | refine fun _ => ?_
    | (intro s; refine cut (p := Keeps q u (s : State)) ?_ ?_; (on_goal 2 => clear_value s; intro _); (on_goal 1 => try subst s))
    | (lift_lets -underBinder; (intro x; clear_value x))
    | with_reducible apply State.setB_keeps
    | with_reducible apply State.set_keeps
    | with_reducible apply State.forAll_keeps
    | with_reducible apply State.zoneCheck_keeps
    | with_reducible apply keeps_ite

theorem State.stPending_keeps {q : List Instr} {u : Nat} {s : State} {n : Nat} (hs : Keeps q u s) :
    Keeps q u (State.stPending s n) := by
  unfold State.stPending
  repeat' first
    | with_reducible assumption
    | (lift_lets -underBinder; (intro s; refine cut (p := Keeps q u (s : State)) ?_ ?_; (on_goal 2 => clear_value s; intro _); (on_goal 1 => try subst s)))
    | with_reducible apply State.setB_keeps
    | with_reducible apply State.stApply_keeps
    | with_reducible apply keeps_ite

theorem State.slowRaise_keeps {q : List Instr} {u : Nat} {s : State} {n : Nat} (hs : Keeps q u s) :
    Keeps q u (State.slowRaise s n) := by
  unfold State.slowRaise
  repeat' first
    | with_reducible assumption
    | (intro s; refine cut (p := Keeps q u (s : State)) ?_ ?_; (on_goal 2 => clear_value s; intro _); (on_goal 1 => try subst s))
    | (lift_lets -underBinder; (intro x; clear_value x))
    | with_reducible apply State.setLodge_keeps
    | with_reducible apply State.setB_keeps
    | with_reducible apply State.slowOn_keeps

theorem State.slowRelease_keeps {q : List Instr} {u : Nat} {s : State} {n : Nat} (hs : Keeps q u s) :
    Keeps q u (State.slowRelease s n) := by
  unfold State.slowRelease
  repeat' first
    | with_reducible assumption
    | (intro s; refine cut (p := Keeps q u (s : State)) ?_ ?_; (on_goal 2 => clear_value s; intro _); (on_goal 1 => try subst s))
    | (lift_lets -underBinder; (intro x; clear_value x))
    | with_reducible apply State.setLodge_keeps
    | with_reducible apply State.setB_keeps
    | with_reducible apply State.slowOff_keeps

theorem State.lgSync_keeps {q : List Instr} {u : Nat} {s : State} {n : Nat} (hs : Keeps q u s) :
    Keeps q u (State.lgSync s n) := by
  unfold State.lgSync
  repeat' first
    | with_reducible assumption
    | (intro s; refine cut (p := Keeps q u (s : State)) ?_ ?_; (on_goal 2 => clear_value s; intro _); (on_goal 1 => try subst s))
    | (intro x; clear_value x)
    | (lift_lets -underBinder; (intro x; clear_value x))
    | with_reducible apply State.setLodge_keeps
    | with_reducible apply State.set_keeps
    | with_reducible apply State.setB_keeps
    | with_reducible apply State.slowRaise_keeps
    | with_reducible apply State.slowRelease_keeps
    | with_reducible apply keeps_ite

theorem State.lodgeEmpty_keeps {q : List Instr} {u : Nat} {s : State} {n : Nat} (hs : Keeps q u s) :
    Keeps q u (State.lodgeEmpty s n) := by
  unfold State.lodgeEmpty
  repeat' first
    | with_reducible assumption
    | (lift_lets -underBinder; (intro x; clear_value x))
    | with_reducible apply State.addC_keeps
    | with_reducible apply State.setLodge_keeps
    | with_reducible apply State.lgSync_keeps

theorem State.stitchBegin_keeps {q : List Instr} {u : Nat} {s : State} {n : Nat} {l : Line} (hs : Keeps q u s) :
    Keeps q u (State.stitchBegin s n l) := by
  unfold State.stitchBegin
  repeat' first
    | with_reducible assumption
    | (intro s; refine cut (p := Keeps q u (s : State)) ?_ ?_; (on_goal 2 => clear_value s; intro _); (on_goal 1 => try subst s))
    | (lift_lets -underBinder; (intro x; clear_value x))
    | with_reducible apply State.setLane_keeps
    | with_reducible apply State.setB_keeps
    | with_reducible apply State.stApply_keeps
    | with_reducible apply keeps_ite

theorem State.handedOn_keeps {q : List Instr} {u : Nat} {s : State} {l : Line} (hs : Keeps q u s) :
    Keeps q u (State.handedOn s l) := by
  unfold State.handedOn
  repeat' first
    | with_reducible assumption
    | (lift_lets -underBinder; (intro x; clear_value x))
    | with_reducible apply State.setJob_keeps
    | with_reducible apply keeps_ite

theorem State.lodgeLine_keeps {q : List Instr} {u : Nat} {s : State} {n : Nat} {l : Line} (hs : Keeps q u s) :
    Keeps q u (State.lodgeLine s n l) := by
  unfold State.lodgeLine
  repeat' first
    | with_reducible assumption
    | (intro x; clear_value x)
    | (lift_lets -underBinder; (intro s; refine cut (p := Keeps q u (s : State)) ?_ ?_; (on_goal 2 => clear_value s; intro _); (on_goal 1 => try subst s)))
    | with_reducible apply State.stitchBegin_keeps
    | with_reducible apply State.setLodge_keeps
    | with_reducible apply State.handedOn_keeps
    | with_reducible apply State.lgSync_keeps
    | with_reducible apply keeps_ite

theorem State.lateFill_keeps {q : List Instr} {u : Nat} {n b rep : Nat} : ∀ {k : Nat} {s : State}, Keeps q u s →
    Keeps q u (State.lateFill s n b rep k) := by
  intro k
  induction k with
  | zero => intro s hs; exact hs
  | succ k ih =>
    intro s hs
    unfold State.lateFill
    repeat' first
      | with_reducible assumption
      | with_reducible apply ih
      | (lift_lets -underBinder; first | (intro s; refine cut (p := Keeps q u (s : State)) ?_ ?_; (on_goal 2 => clear_value s; intro _); (on_goal 1 => try subst s)) | (intro x; clear_value x))
      | with_reducible apply State.setLane_keeps
      | with_reducible apply State.lodgeLine_keeps
      | with_reducible apply State.screenLine_keeps
      | with_reducible apply State.unpackLine_keeps
      | with_reducible apply keeps_ite
      | with_reducible apply keptW_ok
      | with_reducible apply keptW_no
      | with_reducible apply keptO_next
      | with_reducible apply keptW_ite
      | with_reducible apply keptO_ite
      | refine Keeps.of_ok (by with_reducible assumption) ?_
      | refine Keeps.of_no (by with_reducible assumption) ?_
      | refine Keeps.of_fst (by with_reducible assumption) ?_
      | refine Keeps.of_snd (by with_reducible assumption) ?_
      | split

theorem State.lateBand_keeps {q : List Instr} {u : Nat} {s : State} {n : Nat} {j : Nat} {b : Nat} {rep : Nat} {coupled : Bool} (hs : Keeps q u s) :
    Keeps q u (State.lateBand s n j b rep coupled) := by
  unfold State.lateBand
  repeat' first
    | with_reducible assumption
    | refine fun (s : State) (h : Keeps q u s) => ?_
    | refine fun _ => ?_
    | (intro s; refine cut (p := Keeps q u (s : State)) ?_ ?_; (on_goal 2 => clear_value s; intro _); (on_goal 1 => try subst s))
    | (intro x; clear_value x)
    | (lift_lets -underBinder; (intro x; clear_value x))
    | with_reducible apply State.setLane_keeps
    | with_reducible apply State.addC_keeps
    | with_reducible apply State.setLodge_keeps
    | with_reducible apply State.setB_keeps
    | with_reducible apply State.set_keeps
    | with_reducible apply State.inc_keeps
    | with_reducible apply State.hit_keeps
    | with_reducible apply State.lateFill_keeps
    | with_reducible apply hf
    | with_reducible apply keeps_ite

theorem State.bandLate_keeps {q : List Instr} {u : Nat} {s : State} {n : Nat} {j : Nat} {i : Nat} {b : Nat} {rep : Nat} (hs : Keeps q u s) :
    Keeps q u (State.bandLate s n j i b rep) := by
  unfold State.bandLate
  repeat' first
    | with_reducible assumption
    | refine fun (s : State) (h : Keeps q u s) => ?_
    | refine fun _ => ?_
    | (lift_lets -underBinder; first | (intro s; refine cut (p := Keeps q u (s : State)) ?_ ?_; (on_goal 2 => clear_value s; intro _); (on_goal 1 => try subst s)) | (intro x; clear_value x))
    | with_reducible apply State.lateBand_keeps
    | with_reducible apply State.forAll_keeps
    | with_reducible apply keeps_ite

theorem State.bandCheck_keeps {q : List Instr} {u : Nat} {s : State} {n : Nat} {j : Nat} {i : Nat} {b : Nat} {rep : Nat} (hs : Keeps q u s) :
    Keeps q u (State.bandCheck s n j i b rep) := by
  unfold State.bandCheck
  repeat' first
    | with_reducible assumption
    | with_reducible apply State.bandLate_keeps
    | with_reducible apply keeps_ite

theorem execSlowHoldExpiry_keeps {q : List Instr} {u : Nat} {n : Nat} {t : Nat} {s : State} (hs : Keeps q u s) :
    KeptO q u (execSlowHoldExpiry n t s) := by
  unfold execSlowHoldExpiry
  repeat' first
    | with_reducible assumption
    | (lift_lets -underBinder; (intro s; refine cut (p := Keeps q u (s : State)) ?_ ?_; (on_goal 2 => clear_value s; intro _); (on_goal 1 => try subst s)))
    | with_reducible apply State.adv_keeps
    | with_reducible apply State.slowRelease_keeps
    | with_reducible apply keeps_ite
    | with_reducible apply keptW_ok
    | with_reducible apply keptW_no
    | with_reducible apply keptO_next
    | with_reducible apply keptW_ite
    | with_reducible apply keptO_ite
    | refine Keeps.of_ok (by with_reducible assumption) ?_
    | refine Keeps.of_no (by with_reducible assumption) ?_
    | refine Keeps.of_fst (by with_reducible assumption) ?_
    | refine Keeps.of_snd (by with_reducible assumption) ?_
    | split

theorem wrSlowHost_keeps {q : List Instr} {u : Nat} {v : Nat} {s : State} (hs : Keeps q u s) :
    KeptW q u (wrSlowHost v s) := by
  unfold wrSlowHost
  repeat' first
    | with_reducible assumption
    | (lift_lets -underBinder; (intro s; refine cut (p := Keeps q u (s : State)) ?_ ?_; (on_goal 2 => clear_value s; intro _); (on_goal 1 => try subst s)))
    | with_reducible apply State.set_keeps
    | with_reducible apply State.slowOn_keeps
    | with_reducible apply State.slowOff_keeps
    | with_reducible apply keeps_ite
    | with_reducible apply keptW_ok
    | with_reducible apply keptW_no
    | with_reducible apply keptO_next
    | with_reducible apply keptW_ite

theorem execLgSlowHost_keeps {q : List Instr} {u : Nat} {p : Path} {v : Nat} {s : State} (hs : Keeps q u s) :
    KeptO q u (execLgSlowHost p v s) := by
  unfold execLgSlowHost
  repeat' first
    | with_reducible assumption
    | refine fun (s : State) (h : Keeps q u s) => ?_
    | refine fun _ => ?_
    | with_reducible apply access_keeps
    | with_reducible apply wrSlowHost_keeps

theorem wrLgControl_keeps {q : List Instr} {u : Nat} {n : Nat} {v : Nat} {s : State} (hs : Keeps q u s) :
    KeptW q u (wrLgControl n v s) := by
  unfold wrLgControl
  repeat' first
    | with_reducible assumption
    | with_reducible apply State.set_keeps
    | with_reducible apply keeps_ite
    | with_reducible apply keptW_ok
    | with_reducible apply keptW_no
    | with_reducible apply keptO_next
    | with_reducible apply keptW_ite

theorem execLgControl_keeps {q : List Instr} {u : Nat} {p : Path} {n : Nat} {v : Nat} {s : State} (hs : Keeps q u s) :
    KeptO q u (execLgControl p n v s) := by
  unfold execLgControl
  repeat' first
    | with_reducible assumption
    | refine fun (s : State) (h : Keeps q u s) => ?_
    | refine fun _ => ?_
    | with_reducible apply access_keeps
    | with_reducible apply wrLgControl_keeps

end Sys2Proof.Machine
end

