-- ==== Sys2Proof/Laws/KeepsPlace.lean ====
section
/-! SUPPORT. What each operation of Machine/Place.lean keeps (Laws/Keeps.lean). -/
namespace Sys2Proof.Machine

theorem State.predSync_keeps {q : List Instr} {u : Nat} {s : State} {i : Nat} (hs : Keeps q u s) :
    Keeps q u (State.predSync s i) := by
  unfold State.predSync
  repeat' first
    | with_reducible assumption
    | (intro s; refine cut (p := Keeps q u (s : State)) ?_ ?_; (on_goal 2 => clear_value s; intro _); (on_goal 1 => try subst s))
    | (intro x; clear_value x)
    | (lift_lets -underBinder; (intro x; clear_value x))
    | with_reducible apply State.setB_keeps
    | with_reducible apply State.setPred_keeps
    | with_reducible apply State.hit_keeps
    | with_reducible apply keeps_ite

theorem State.predStallNow_keeps {q : List Instr} {u : Nat} {s : State} {i : Nat} (hs : Keeps q u s) :
    Keeps q u (State.predStallNow s i) := by
  unfold State.predStallNow
  repeat' first
    | with_reducible assumption
    | (intro s; refine cut (p := Keeps q u (s : State)) ?_ ?_; (on_goal 2 => clear_value s; intro _); (on_goal 1 => try subst s))
    | (intro x; clear_value x)
    | (lift_lets -underBinder; (intro x; clear_value x))
    | with_reducible apply State.setPred_keeps
    | with_reducible apply State.setB_keeps
    | with_reducible apply State.inc_keeps
    | with_reducible apply State.hit_keeps

theorem State.predEdge_keeps {q : List Instr} {u : Nat} {s : State} {i : Nat} {up : Bool} {count : Nat} {t : Nat} (hs : Keeps q u s) :
    Keeps q u (State.predEdge s i up count t) := by
  unfold State.predEdge
  repeat' first
    | with_reducible assumption
    | (intro s; refine cut (p := Keeps q u (s : State)) ?_ ?_; (on_goal 2 => clear_value s; intro _); (on_goal 1 => try subst s))
    | (intro x; clear_value x)
    | (lift_lets -underBinder; (intro x; clear_value x))
    | with_reducible apply State.setPred_keeps
    | with_reducible apply State.set_keeps
    | with_reducible apply State.setSat_keeps
    | with_reducible apply State.hit_keeps
    | with_reducible apply State.setB_keeps
    | with_reducible apply State.predStallNow_keeps
    | with_reducible apply State.predSync_keeps
    | with_reducible apply keeps_ite

theorem State.schedPick_keeps {q : List Instr} {u : Nat} {s : State} {n : Nat} (hs : Keeps q u s) :
    Keeps q u (State.schedPick s n) := by
  unfold State.schedPick
  repeat' first
    | with_reducible assumption
    | refine fun (s : State) (h : Keeps q u s) => ?_
    | refine fun _ => ?_
    | refine fun (s : State) (h : Keeps q u s) => ?_
    | refine fun _ => ?_
    | (intro x; clear_value x)
    | (lift_lets -underBinder; (intro x; clear_value x))
    | with_reducible apply keeps_foldl
    | refine fun (s : State) (h : Keeps q u s) => ?_
    | refine fun _ => ?_
    | with_reducible apply State.setSched_keeps
    | with_reducible apply checked_keeps
    | with_reducible apply hf
    | with_reducible apply keeps_ite
    | with_reducible apply keptW_ok
    | with_reducible apply keptW_no
    | with_reducible apply keptO_next
    | with_reducible apply keptW_ite
    | with_reducible apply keptO_ite
    | refine Keeps.of_ok (by with_reducible assumption) ?_
    | refine Keeps.of_no (by with_reducible assumption) ?_
    | refine Keeps.of_fst (by with_reducible assumption) ?_
    | refine Keeps.of_snd (by with_reducible assumption) ?_
    | split

theorem State.offsetSync_keeps {q : List Instr} {u : Nat} {s : State} {n : Nat} (hs : Keeps q u s) :
    Keeps q u (State.offsetSync s n) := by
  unfold State.offsetSync
  repeat' first
    | with_reducible assumption
    | (intro s; refine cut (p := Keeps q u (s : State)) ?_ ?_; (on_goal 2 => clear_value s; intro _); (on_goal 1 => try subst s))
    | (intro x; clear_value x)
    | (lift_lets -underBinder; (intro x; clear_value x))
    | with_reducible apply State.setB_keeps
    | with_reducible apply keeps_ite

theorem State.ttSync_keeps {q : List Instr} {u : Nat} {s : State} {n : Nat} (hs : Keeps q u s) :
    Keeps q u (State.ttSync s n) := by
  unfold State.ttSync
  repeat' first
    | with_reducible assumption
    | (intro s; refine cut (p := Keeps q u (s : State)) ?_ ?_; (on_goal 2 => clear_value s; intro _); (on_goal 1 => try subst s))
    | (intro x; clear_value x)
    | (lift_lets -underBinder; (intro s; refine cut (p := Keeps q u (s : State)) ?_ ?_; (on_goal 2 => clear_value s; intro _); (on_goal 1 => try subst s)))
    | with_reducible apply State.schedPick_keeps
    | with_reducible apply State.setB_keeps
    | with_reducible apply State.offsetSync_keeps
    | with_reducible apply State.set_keeps
    | with_reducible apply keeps_ite
    | with_reducible apply keptW_ok
    | with_reducible apply keptW_no
    | with_reducible apply keptO_next
    | with_reducible apply keptW_ite
    | with_reducible apply keptO_ite
    | refine Keeps.of_ok (by with_reducible assumption) ?_
    | refine Keeps.of_no (by with_reducible assumption) ?_
    | refine Keeps.of_fst (by with_reducible assumption) ?_
    | refine Keeps.of_snd (by with_reducible assumption) ?_
    | split

theorem State.revisePort_keeps {q : List Instr} {u : Nat} {s : State} {n : Nat} (hs : Keeps q u s) :
    Keeps q u (State.revisePort s n) := by
  unfold State.revisePort
  repeat' first
    | with_reducible assumption
    | (intro s; refine cut (p := Keeps q u (s : State)) ?_ ?_; (on_goal 2 => clear_value s; intro _); (on_goal 1 => try subst s))
    | (intro x; clear_value x)
    | (lift_lets -underBinder; (intro x; clear_value x))
    | with_reducible apply State.setSched_keeps
    | with_reducible apply State.setB_keeps
    | with_reducible apply State.ttSync_keeps
    | with_reducible apply keeps_ite

theorem State.gateTry_keeps {q : List Instr} {u : Nat} {s : State} {n : Nat} {pos : Nat} (hs : Keeps q u s) :
    Keeps q u (State.gateTry s n pos) := by
  unfold State.gateTry
  repeat' first
    | with_reducible assumption
    | (intro x; clear_value x)
    | (lift_lets -underBinder; (intro x; clear_value x))
    | with_reducible apply State.setSched_keeps
    | with_reducible apply State.setB_keeps
    | with_reducible apply State.ttSync_keeps
    | with_reducible apply keeps_ite
    | with_reducible apply keptW_ok
    | with_reducible apply keptW_no
    | with_reducible apply keptO_next
    | with_reducible apply keptW_ite
    | with_reducible apply keptO_ite
    | refine Keeps.of_ok (by with_reducible assumption) ?_
    | refine Keeps.of_no (by with_reducible assumption) ?_
    | refine Keeps.of_fst (by with_reducible assumption) ?_
    | refine Keeps.of_snd (by with_reducible assumption) ?_
    | split

theorem State.predUpdate_keeps {q : List Instr} {u : Nat} {s : State} {i : Nat} (hs : Keeps q u s) :
    Keeps q u (State.predUpdate s i) := by
  unfold State.predUpdate
  repeat' first
    | with_reducible assumption
    | refine fun (s : State) (h : Keeps q u s) => ?_
    | refine fun _ => ?_
    | with_reducible apply State.forAll_keeps
    | with_reducible apply State.revisePort_keeps
    | with_reducible apply State.gateTry_keeps

theorem execPredStall_keeps {q : List Instr} {u : Nat} {i : Nat} {t : Nat} {s : State} (hs : Keeps q u s) :
    KeptO q u (execPredStall i t s) := by
  unfold execPredStall
  repeat' first
    | with_reducible assumption
    | (lift_lets -underBinder; (intro s; refine cut (p := Keeps q u (s : State)) ?_ ?_; (on_goal 2 => clear_value s; intro _); (on_goal 1 => try subst s)))
    | with_reducible apply State.adv_keeps
    | with_reducible apply State.predStallNow_keeps
    | with_reducible apply State.predUpdate_keeps
    | with_reducible apply keeps_ite
    | with_reducible apply keptW_ok
    | with_reducible apply keptW_no
    | with_reducible apply keptO_next
    | with_reducible apply keptW_ite
    | with_reducible apply keptO_ite

end Sys2Proof.Machine
end

