-- ==== Sys2Proof/Laws/KeepsHeadCmd.lean ====
section
/-! SUPPORT. What each operation of Machine/HeadCmd.lean keeps (Laws/Keeps.lean). -/
namespace Sys2Proof.Machine

theorem State.cmdSend_keeps {q : List Instr} {u : Nat} {s : State} {n : Nat} {c : Cmd} (hs : Keeps q u s) :
    Keeps q u (State.cmdSend s n c) := by
  unfold State.cmdSend
  repeat' first
    | with_reducible assumption
    | (intro s; refine cut (p := Keeps q u (s : State)) ?_ ?_; (on_goal 2 => clear_value s; intro _); (on_goal 1 => try subst s))
    | (intro x; clear_value x)
    | (lift_lets -underBinder; (intro x; clear_value x))
    | with_reducible apply State.setLink_keeps
    | with_reducible apply State.setB_keeps
    | with_reducible apply State.emit_keeps
    | with_reducible apply State.lanePut_keeps
    | with_reducible apply keeps_ite

theorem State.cmdQueue_keeps {q : List Instr} {u : Nat} {s : State} {n : Nat} {c : Cmd} (hs : Keeps q u s) :
    Keeps q u (State.cmdQueue s n c) := by
  unfold State.cmdQueue
  repeat' first
    | with_reducible assumption
    | (lift_lets -underBinder; (intro x; clear_value x))
    | with_reducible apply State.setLink_keeps
    | with_reducible apply State.cmdSend_keeps
    | with_reducible apply keeps_ite

theorem State.cmdOver_keeps {q : List Instr} {u : Nat} {s : State} {n : Nat} (hs : Keeps q u s) :
    Keeps q u (State.cmdOver s n) := by
  unfold State.cmdOver
  repeat' first
    | with_reducible assumption
    | (lift_lets -underBinder; (intro x; clear_value x))
    | with_reducible apply State.setLink_keeps
    | with_reducible apply State.setB_keeps
    | with_reducible apply State.cmdSend_keeps
    | with_reducible apply keeps_ite
    | with_reducible apply keptW_ok
    | with_reducible apply keptW_no
    | with_reducible apply keptO_next
    | with_reducible apply keptW_ite
    | with_reducible apply keptO_ite
    | refine Keeps.of_ok (by with_reducible assumption) ?_
    | refine Keeps.of_no (by with_reducible assumption) ?_
    | refine Keeps.of_fst (by with_reducible assumption) ?_
    | refine Keeps.of_snd (by with_reducible assumption) ?_
    | split

theorem State.epochTo_keeps {q : List Instr} {u : Nat} {s : State} {n : Nat} {e : Nat} (hs : Keeps q u s) :
    Keeps q u (State.epochTo s n e) := by
  unfold State.epochTo
  repeat' first
    | with_reducible assumption
    | (lift_lets -underBinder; (intro s; refine cut (p := Keeps q u (s : State)) ?_ ?_; (on_goal 2 => clear_value s; intro _); (on_goal 1 => try subst s)))
    | with_reducible apply State.set_keeps
    | with_reducible apply State.cmdQueue_keeps
    | with_reducible apply keeps_ite

theorem State.warnSync_keeps {q : List Instr} {u : Nat} {s : State} {n : Nat} (hs : Keeps q u s) :
    Keeps q u (State.warnSync s n) := by
  unfold State.warnSync
  repeat' first
    | with_reducible assumption
    | (intro s; refine cut (p := Keeps q u (s : State)) ?_ ?_; (on_goal 2 => clear_value s; intro _); (on_goal 1 => try subst s))
    | (intro x; clear_value x)
    | (lift_lets -underBinder; (intro x; clear_value x))
    | with_reducible apply State.setB_keeps
    | with_reducible apply State.slowOn_keeps
    | with_reducible apply State.slowOff_keeps
    | with_reducible apply keeps_ite

theorem State.rhoTarget_keeps {q : List Instr} {u : Nat} {s : State} {g : Nat} (hs : Keeps q u s) :
    Keeps q u (State.rhoTarget s g).2 := by
  unfold State.rhoTarget
  repeat' first
    | with_reducible assumption
    | (intro x; clear_value x)
    | (lift_lets -underBinder; (intro x; clear_value x))
    | with_reducible apply keeps_foldl
    | refine fun (s : State) (h : Keeps q u s) => ?_
    | refine fun _ => ?_
    | with_reducible apply State.draw_keeps
    | with_reducible apply keeps_ite
    | with_reducible apply keeps_ite_fst
    | with_reducible apply keeps_ite_snd

theorem State.pgK_keeps {q : List Instr} {u : Nat} {s : State} {g : Nat} {k : Nat} (hs : Keeps q u s) :
    Keeps q u (State.pgK s g k) := by
  unfold State.pgK
  repeat' first
    | with_reducible assumption
    | (lift_lets -underBinder; (intro x; clear_value x))
    | with_reducible apply State.setPg_keeps
    | with_reducible apply State.set_keeps

theorem State.rhoTo_keeps {q : List Instr} {u : Nat} {s : State} {g : Nat} {rho : Nat} (hs : Keeps q u s) :
    Keeps q u (State.rhoTo s g rho) := by
  unfold State.rhoTo
  repeat' first
    | with_reducible assumption
    | (lift_lets -underBinder; (intro s; refine cut (p := Keeps q u (s : State)) ?_ ?_; (on_goal 2 => clear_value s; intro _); (on_goal 1 => try subst s)))
    | with_reducible apply State.set_keeps
    | with_reducible apply State.pgK_keeps
    | with_reducible apply keeps_ite

theorem State.rhoSync_keeps {q : List Instr} {u : Nat} {s : State} {g : Nat} (hs : Keeps q u s) :
    Keeps q u (State.rhoSync s g) := by
  unfold State.rhoSync
  repeat' first
    | with_reducible assumption
    | (intro s; refine cut (p := Keeps q u (s : State)) ?_ ?_; (on_goal 2 => clear_value s; intro _); (on_goal 1 => try subst s))
    | (lift_lets -underBinder; (intro s; refine cut (p := Keeps q u (s.2 : State)) ?_ ?_; (on_goal 2 => clear_value s; intro _); (on_goal 1 => try subst s)))
    | with_reducible apply State.rhoTarget_keeps
    | with_reducible apply State.set_keeps
    | with_reducible apply State.rhoTo_keeps
    | with_reducible apply keeps_ite

theorem State.ptOver_keeps {q : List Instr} {u : Nat} {s : State} {n : Nat} {result : Nat} (hs : Keeps q u s) :
    Keeps q u (State.ptOver s n result) := by
  unfold State.ptOver
  repeat' first
    | with_reducible assumption
    | (intro s; refine cut (p := Keeps q u (s : State)) ?_ ?_; (on_goal 2 => clear_value s; intro _); (on_goal 1 => try subst s))
    | (lift_lets -underBinder; (intro x; clear_value x))
    | with_reducible apply State.setFire_keeps
    | with_reducible apply State.setB_keeps
    | with_reducible apply State.set_keeps

theorem State.ptApply_keeps {q : List Instr} {u : Nat} {s : State} {n : Nat} (hs : Keeps q u s) :
    Keeps q u (State.ptApply s n) := by
  unfold State.ptApply
  repeat' first
    | with_reducible assumption
    | refine fun (s : State) (h : Keeps q u s) => ?_
    | refine fun _ => ?_
    | (intro s; refine cut (p := Keeps q u (s : State)) ?_ ?_; (on_goal 2 => clear_value s; intro _); (on_goal 1 => try subst s))
    | (intro x; clear_value x)
    | (lift_lets -underBinder; (intro x; clear_value x))
    | with_reducible apply State.set_keeps
    | with_reducible apply State.forAll_keeps
    | with_reducible apply State.setFire_keeps
    | with_reducible apply State.ptOver_keeps
    | with_reducible apply State.setB_keeps

theorem State.ptRefuse_keeps {q : List Instr} {u : Nat} {s : State} {n : Nat} (hs : Keeps q u s) :
    Keeps q u (State.ptRefuse s n) := by
  unfold State.ptRefuse
  repeat' first
    | with_reducible assumption
    | with_reducible apply State.ptOver_keeps
    | with_reducible apply State.setB_keeps

theorem State.ptCheck_keeps {q : List Instr} {u : Nat} {s : State} {n : Nat} (hs : Keeps q u s) :
    Keeps q u (State.ptCheck s n) := by
  unfold State.ptCheck
  repeat' first
    | with_reducible assumption
    | with_reducible apply State.ptApply_keeps
    | with_reducible apply keeps_ite

theorem State.recStop_keeps {q : List Instr} {u : Nat} {s : State} {n : Nat} (hs : Keeps q u s) :
    Keeps q u (State.recStop s n) := by
  unfold State.recStop
  repeat' first
    | with_reducible assumption
    | (intro s; refine cut (p := Keeps q u (s : State)) ?_ ?_; (on_goal 2 => clear_value s; intro _); (on_goal 1 => try subst s))
    | (intro x; clear_value x)
    | (lift_lets -underBinder; (intro x; clear_value x))
    | with_reducible apply State.setHealth_keeps
    | with_reducible apply State.setLink_keeps
    | with_reducible apply State.setB_keeps
    | with_reducible apply keeps_ite

theorem State.linkLost_keeps {q : List Instr} {u : Nat} {s : State} {n : Nat} (hs : Keeps q u s) :
    Keeps q u (State.linkLost s n) := by
  unfold State.linkLost
  repeat' first
    | with_reducible assumption
    | with_reducible apply State.recStop_keeps
    | with_reducible apply State.ptCheck_keeps
    | with_reducible apply State.senseDrop_keeps
    | with_reducible apply State.rhoSync_keeps

end Sys2Proof.Machine
end

