-- ==== Sys2Proof/Laws/KeepsJobs.lean ====
section
/-! SUPPORT. What each operation of Machine/Jobs.lean keeps (Laws/Keeps.lean). -/
namespace Sys2Proof.Machine

theorem State.setJobState_keeps {q : List Instr} {u : Nat} {s : State} {j : Nat} {st : Nat} {elig : Bool} (hs : Keeps q u s) :
    Keeps q u (State.setJobState s j st elig) := by
  unfold State.setJobState
  repeat' first
    | with_reducible assumption
    | with_reducible apply State.set_keeps

theorem State.setJobFlag_keeps {q : List Instr} {u : Nat} {s : State} {j : Nat} {i : Nat} {b : Bool} (hs : Keeps q u s) :
    Keeps q u (State.setJobFlag s j i b) := by
  unfold State.setJobFlag
  repeat' first
    | with_reducible assumption
    | with_reducible apply State.setB_keeps

theorem State.freePages_keeps {q : List Instr} {u : Nat} {s : State} {l : List Nat} (hs : Keeps q u s) :
    Keeps q u (State.freePages s l) := by
  unfold State.freePages
  repeat' first
    | with_reducible assumption
    | (intro s; refine cut (p := Keeps q u (s : State)) ?_ ?_; (on_goal 2 => clear_value s; intro _); (on_goal 1 => try subst s))
    | (lift_lets -underBinder; (intro x; clear_value x))
    | with_reducible apply keeps_foldl
    | refine fun (s : State) (h : Keeps q u s) => ?_
    | refine fun _ => ?_
    | with_reducible apply State.setIntake_keeps
    | with_reducible apply State.addC_keeps

theorem State.freeBand_keeps {q : List Instr} {u : Nat} {s : State} {j : Nat} {b : Nat} (hs : Keeps q u s) :
    Keeps q u (State.freeBand s j b) := by
  unfold State.freeBand
  repeat' first
    | with_reducible assumption
    | (intro s; refine cut (p := Keeps q u (s : State)) ?_ ?_; (on_goal 2 => clear_value s; intro _); (on_goal 1 => try subst s))
    | (intro x; clear_value x)
    | (lift_lets -underBinder; (intro x; clear_value x))
    | with_reducible apply State.setJob_keeps
    | with_reducible apply State.set_keeps
    | with_reducible apply State.freePages_keeps
    | with_reducible apply keeps_ite

theorem State.bandSweep_keeps {q : List Instr} {u : Nat} {s : State} {j : Nat} (hs : Keeps q u s) :
    Keeps q u (State.bandSweep s j) := by
  unfold State.bandSweep
  repeat' first
    | with_reducible assumption
    | refine fun (s : State) (h : Keeps q u s) => ?_
    | refine fun _ => ?_
    | with_reducible apply State.forAll_keeps
    | with_reducible apply State.freeBand_keeps
    | with_reducible apply keeps_ite

theorem State.bandDone_keeps {q : List Instr} {u : Nat} {s : State} {j : Nat} {i : Nat} {b : Nat} (hs : Keeps q u s) :
    Keeps q u (State.bandDone s j i b) := by
  unfold State.bandDone
  repeat' first
    | with_reducible assumption
    | (intro x; clear_value x)
    | (lift_lets -underBinder; (intro x; clear_value x))
    | with_reducible apply State.setJob_keeps
    | with_reducible apply State.bandSweep_keeps

theorem State.abortSweep_keeps {q : List Instr} {u : Nat} {s : State} {j : Nat} (hs : Keeps q u s) :
    Keeps q u (State.abortSweep s j) := by
  unfold State.abortSweep
  repeat' first
    | with_reducible assumption
    | refine fun (s : State) (h : Keeps q u s) => ?_
    | refine fun _ => ?_
    | refine fun (s : State) (h : Keeps q u s) => ?_
    | refine fun _ => ?_
    | (lift_lets -underBinder; (intro x; clear_value x))
    | with_reducible apply State.forAll_keeps
    | with_reducible apply State.freeBand_keeps

theorem State.lineDone_keeps {q : List Instr} {u : Nat} {s : State} {l : Line} (hs : Keeps q u s) :
    Keeps q u (State.lineDone s l) := by
  unfold State.lineDone
  repeat' first
    | with_reducible assumption
    | (lift_lets -underBinder; (intro s; refine cut (p := Keeps q u (s : State)) ?_ ?_; (on_goal 2 => clear_value s; intro _); (on_goal 1 => try subst s)))
    | with_reducible apply State.bandDone_keeps
    | with_reducible apply State.abortSweep_keeps
    | with_reducible apply keeps_ite

theorem State.laneShow_keeps {q : List Instr} {u : Nat} {s : State} {n : Nat} (hs : Keeps q u s) :
    Keeps q u (State.laneShow s n) := by
  unfold State.laneShow
  repeat' first
    | with_reducible assumption
    | (intro s; refine cut (p := Keeps q u (s : State)) ?_ ?_; (on_goal 2 => clear_value s; intro _); (on_goal 1 => try subst s))
    | (lift_lets -underBinder; (intro x; clear_value x))
    | with_reducible apply State.setB_keeps

theorem State.servingSync_keeps {q : List Instr} {u : Nat} {s : State} {n : Nat} (hs : Keeps q u s) :
    Keeps q u (State.servingSync s n) := by
  unfold State.servingSync
  repeat' first
    | with_reducible assumption
    | (intro s; refine cut (p := Keeps q u (s : State)) ?_ ?_; (on_goal 2 => clear_value s; intro _); (on_goal 1 => try subst s))
    | (intro x; clear_value x)
    | (lift_lets -underBinder; (intro x; clear_value x))
    | with_reducible apply State.setB_keeps
    | with_reducible apply State.laneShow_keeps
    | with_reducible apply State.warnSync_keeps

theorem State.linesGone_keeps {q : List Instr} {u : Nat} {s : State} {n : Nat} {gone : List TLine} (hs : Keeps q u s) :
    Keeps q u (State.linesGone s n gone) := by
  unfold State.linesGone
  repeat' first
    | with_reducible assumption
    | (intro s; refine cut (p := Keeps q u (s : State)) ?_ ?_; (on_goal 2 => clear_value s; intro _); (on_goal 1 => try subst s))
    | (intro x; clear_value x)
    | (lift_lets -underBinder; (intro x; clear_value x))
    | with_reducible apply keeps_foldl
    | refine fun (s : State) (h : Keeps q u s) => ?_
    | refine fun _ => ?_
    | with_reducible apply State.setSched_keeps
    | with_reducible apply State.setFire_keeps
    | with_reducible apply State.setLink_keeps

theorem State.maintGone_keeps {q : List Instr} {u : Nat} {s : State} {n : Nat} (hs : Keeps q u s) :
    Keeps q u (State.maintGone s n) := by
  unfold State.maintGone
  repeat' first
    | with_reducible assumption
    | (lift_lets -underBinder; (intro x; clear_value x))
    | with_reducible apply State.setSched_keeps
    | with_reducible apply State.linesGone_keeps
    | with_reducible apply keeps_ite
    | with_reducible apply keptW_ok
    | with_reducible apply keptW_no
    | with_reducible apply keptO_next
    | with_reducible apply keptW_ite
    | with_reducible apply keptO_ite
    | refine Keeps.of_ok (by with_reducible assumption) ?_
    | refine Keeps.of_no (by with_reducible assumption) ?_
    | refine Keeps.of_fst (by with_reducible assumption) ?_
    | refine Keeps.of_snd (by with_reducible assumption) ?_
    | split

theorem State.mtDrop_keeps {q : List Instr} {u : Nat} {s : State} {n : Nat} (hs : Keeps q u s) :
    Keeps q u (State.mtDrop s n) := by
  unfold State.mtDrop
  repeat' first
    | with_reducible assumption
    | refine fun (s : State) (h : Keeps q u s) => ?_
    | refine fun _ => ?_
    | (intro s; refine cut (p := Keeps q u (s : State)) ?_ ?_; (on_goal 2 => clear_value s; intro _); (on_goal 1 => try subst s))
    | (lift_lets -underBinder; (intro x; clear_value x))
    | with_reducible apply State.forAll_keeps
    | with_reducible apply State.setMt_keeps
    | with_reducible apply State.inc_keeps
    | with_reducible apply State.setB_keeps
    | with_reducible apply State.maintGone_keeps
    | with_reducible apply keeps_ite

theorem State.assign_keeps {q : List Instr} {u : Nat} {s : State} {j : Nat} {i : Nat} {n : Nat} (hs : Keeps q u s) :
    Keeps q u (State.assign s j i n) := by
  unfold State.assign
  repeat' first
    | with_reducible assumption
    | (intro s; refine cut (p := Keeps q u (s : State)) ?_ ?_; (on_goal 2 => clear_value s; intro _); (on_goal 1 => try subst s))
    | (intro x; clear_value x)
    | (lift_lets -underBinder; (intro s; refine cut (p := Keeps q u (s : State)) ?_ ?_; (on_goal 2 => clear_value s; intro _); (on_goal 1 => try subst s)))
    | with_reducible apply State.inc_keeps
    | with_reducible apply State.setJob_keeps
    | with_reducible apply State.setF_keeps
    | with_reducible apply State.setB_keeps
    | with_reducible apply State.epochTo_keeps
    | with_reducible apply State.mtDrop_keeps

theorem State.laneStart_keeps {q : List Instr} {u : Nat} {s : State} {n : Nat} {j : Nat} {i : Nat} {rep : Nat} {ord : Nat} {li : Nat} {gap : Nat} {bad : Bool} (hs : Keeps q u s) :
    Keeps q u (State.laneStart s n j i rep ord li gap bad) := by
  unfold State.laneStart
  repeat' first
    | with_reducible assumption
    | (intro s; refine cut (p := Keeps q u (s : State)) ?_ ?_; (on_goal 2 => clear_value s; intro _); (on_goal 1 => try subst s))
    | (intro x; clear_value x)
    | (lift_lets -underBinder; (intro x; clear_value x))
    | with_reducible apply State.setLane_keeps
    | with_reducible apply State.setLodge_keeps
    | with_reducible apply State.laneShow_keeps
    | with_reducible apply State.lgSync_keeps

theorem State.laneStop_keeps {q : List Instr} {u : Nat} {s : State} {n : Nat} (hs : Keeps q u s) :
    Keeps q u (State.laneStop s n) := by
  unfold State.laneStop
  repeat' first
    | with_reducible assumption
    | (intro s; refine cut (p := Keeps q u (s : State)) ?_ ?_; (on_goal 2 => clear_value s; intro _); (on_goal 1 => try subst s))
    | (lift_lets -underBinder; (intro x; clear_value x))
    | with_reducible apply State.setLane_keeps
    | with_reducible apply State.laneShow_keeps
    | with_reducible apply State.setB_keeps
    | with_reducible apply State.commitApply_keeps
    | with_reducible apply keeps_ite

theorem State.laneOn_keeps {q : List Instr} {u : Nat} {s : State} {n : Nat} (hs : Keeps q u s) :
    Keeps q u (State.laneOn s n) := by
  unfold State.laneOn
  repeat' first
    | with_reducible assumption
    | (lift_lets -underBinder; (intro x; clear_value x))
    | with_reducible apply State.laneStart_keeps
    | with_reducible apply State.laneStop_keeps
    | with_reducible apply keeps_ite
    | with_reducible apply keptW_ok
    | with_reducible apply keptW_no
    | with_reducible apply keptO_next
    | with_reducible apply keptW_ite
    | with_reducible apply keptO_ite
    | refine Keeps.of_ok (by with_reducible assumption) ?_
    | refine Keeps.of_no (by with_reducible assumption) ?_
    | refine Keeps.of_fst (by with_reducible assumption) ?_
    | refine Keeps.of_snd (by with_reducible assumption) ?_
    | split

theorem State.laneNext_keeps {q : List Instr} {u : Nat} {s : State} {n : Nat} (hs : Keeps q u s) :
    Keeps q u (State.laneNext s n) := by
  unfold State.laneNext
  repeat' first
    | with_reducible assumption
    | (lift_lets -underBinder; (intro x; clear_value x))
    | with_reducible apply State.laneOn_keeps
    | with_reducible apply keeps_ite
    | with_reducible apply keptW_ok
    | with_reducible apply keptW_no
    | with_reducible apply keptO_next
    | with_reducible apply keptW_ite
    | with_reducible apply keptO_ite
    | refine Keeps.of_ok (by with_reducible assumption) ?_
    | refine Keeps.of_no (by with_reducible assumption) ?_
    | refine Keeps.of_fst (by with_reducible assumption) ?_
    | refine Keeps.of_snd (by with_reducible assumption) ?_
    | split

theorem State.laneLeave_keeps {q : List Instr} {u : Nat} {s : State} {n : Nat} {j : Nat} {f : Nat → Bool} (hs : Keeps q u s) :
    Keeps q u (State.laneLeave s n j f) := by
  unfold State.laneLeave
  repeat' first
    | with_reducible assumption
    | (intro s; refine cut (p := Keeps q u (s : State)) ?_ ?_; (on_goal 2 => clear_value s; intro _); (on_goal 1 => try subst s))
    | (intro x; clear_value x)
    | (lift_lets -underBinder; (intro x; clear_value x))
    | with_reducible apply State.setLane_keeps
    | with_reducible apply State.laneShow_keeps
    | with_reducible apply State.laneOn_keeps
    | with_reducible apply keeps_ite

theorem State.dropLines_keeps {q : List Instr} {u : Nat} {s : State} {n : Nat} (hs : Keeps q u s) :
    Keeps q u (State.dropLines s n) := by
  unfold State.dropLines
  repeat' first
    | with_reducible assumption
    | (intro s; refine cut (p := Keeps q u (s : State)) ?_ ?_; (on_goal 2 => clear_value s; intro _); (on_goal 1 => try subst s))
    | (lift_lets -underBinder; (intro x; clear_value x))
    | with_reducible apply State.setSched_keeps
    | with_reducible apply State.linesGone_keeps
    | with_reducible apply State.lodgeEmpty_keeps

theorem State.leaveRunning_keeps {q : List Instr} {u : Nat} {s : State} {j : Nat} (hs : Keeps q u s) :
    Keeps q u (State.leaveRunning s j) := by
  unfold State.leaveRunning
  repeat' first
    | with_reducible assumption
    | refine fun (s : State) (h : Keeps q u s) => ?_
    | refine fun _ => ?_
    | (intro s; refine cut (p := Keeps q u (s : State)) ?_ ?_; (on_goal 2 => clear_value s; intro _); (on_goal 1 => try subst s))
    | (intro x; clear_value x)
    | (lift_lets -underBinder; (intro x; clear_value x))
    | with_reducible apply State.setJobState_keeps
    | with_reducible apply State.setJob_keeps
    | with_reducible apply State.upSync_keeps
    | with_reducible apply State.forAll_keeps
    | with_reducible apply State.laneLeave_keeps
    | with_reducible apply State.servingSync_keeps
    | with_reducible apply State.lgSync_keeps
    | with_reducible apply State.setB_keeps
    | with_reducible apply keeps_ite

theorem State.jobFree_keeps {q : List Instr} {u : Nat} {s : State} {j : Nat} (hs : Keeps q u s) :
    Keeps q u (State.jobFree s j) := by
  unfold State.jobFree
  repeat' first
    | with_reducible assumption
    | refine fun (s : State) (h : Keeps q u s) => ?_
    | refine fun _ => ?_
    | (intro s; refine cut (p := Keeps q u (s : State)) ?_ ?_; (on_goal 2 => clear_value s; intro _); (on_goal 1 => try subst s))
    | (intro x; clear_value x)
    | (lift_lets -underBinder; (intro x; clear_value x))
    | with_reducible apply keeps_foldl
    | refine fun (s : State) (h : Keeps q u s) => ?_
    | refine fun _ => ?_
    | with_reducible apply State.freePages_keeps
    | with_reducible apply State.setJob_keeps
    | with_reducible apply State.set_keeps
    | with_reducible apply State.forAll_keeps
    | with_reducible apply State.setF_keeps
    | with_reducible apply State.servingSync_keeps

theorem State.drainCheck_keeps {q : List Instr} {u : Nat} {s : State} {j : Nat} (hs : Keeps q u s) :
    Keeps q u (State.drainCheck s j) := by
  unfold State.drainCheck
  repeat' first
    | with_reducible assumption
    | refine fun (s : State) (h : Keeps q u s) => ?_
    | refine fun _ => ?_
    | (intro s; refine cut (p := Keeps q u (s : State)) ?_ ?_; (on_goal 2 => clear_value s; intro _); (on_goal 1 => try subst s))
    | (intro x; clear_value x)
    | (lift_lets -underBinder; first | (intro s; refine cut (p := Keeps q u (s : State)) ?_ ?_; (on_goal 2 => clear_value s; intro _); (on_goal 1 => try subst s)) | (intro x; clear_value x))
    | with_reducible apply State.forAll_keeps
    | with_reducible apply State.setSched_keeps
    | with_reducible apply State.hit_keeps
    | with_reducible apply State.setJobState_keeps
    | with_reducible apply State.setJob_keeps
    | with_reducible apply State.setIntake_keeps
    | with_reducible apply State.servingSync_keeps
    | with_reducible apply State.jobFree_keeps
    | with_reducible apply State.ttSync_keeps
    | with_reducible apply keeps_ite

theorem State.jobCheck_keeps {q : List Instr} {u : Nat} {s : State} {j : Nat} (hs : Keeps q u s) :
    Keeps q u (State.jobCheck s j) := by
  unfold State.jobCheck
  repeat' first
    | with_reducible assumption
    | (intro s; refine cut (p := Keeps q u (s : State)) ?_ ?_; (on_goal 2 => clear_value s; intro _); (on_goal 1 => try subst s))
    | (lift_lets -underBinder; (intro x; clear_value x))
    | with_reducible apply State.leaveRunning_keeps
    | with_reducible apply State.drainCheck_keeps
    | with_reducible apply keeps_ite

theorem State.lanesSync_keeps {q : List Instr} {u : Nat} {s : State} {j : Nat} (hs : Keeps q u s) :
    Keeps q u (State.lanesSync s j) := by
  unfold State.lanesSync
  repeat' first
    | with_reducible assumption
    | refine fun (s : State) (h : Keeps q u s) => ?_
    | refine fun _ => ?_
    | with_reducible apply State.forAll_keeps
    | with_reducible apply State.laneNext_keeps
    | with_reducible apply State.lgSync_keeps

theorem State.clearMarks_keeps {q : List Instr} {u : Nat} {s : State} {n : Nat} (hs : Keeps q u s) :
    Keeps q u (State.clearMarks s n) := by
  unfold State.clearMarks
  repeat' first
    | with_reducible assumption
    | (intro s; refine cut (p := Keeps q u (s : State)) ?_ ?_; (on_goal 2 => clear_value s; intro _); (on_goal 1 => try subst s))
    | (lift_lets -underBinder; (intro x; clear_value x))
    | with_reducible apply State.setSched_keeps
    | with_reducible apply State.set_keeps

theorem State.toTimetable_keeps {q : List Instr} {u : Nat} {s : State} {j : Nat} {origin : State → Nat → Nat} (hs : Keeps q u s) :
    Keeps q u (State.toTimetable s j origin) := by
  unfold State.toTimetable
  repeat' first
    | with_reducible assumption
    | refine fun (s : State) (h : Keeps q u s) => ?_
    | refine fun _ => ?_
    | (intro s; refine cut (p := Keeps q u (s : State)) ?_ ?_; (on_goal 2 => clear_value s; intro _); (on_goal 1 => try subst s))
    | (intro x; clear_value x)
    | (lift_lets -underBinder; first | (intro s; refine cut (p := Keeps q u (s : State)) ?_ ?_; (on_goal 2 => clear_value s; intro _); (on_goal 1 => try subst s)) | (intro x; clear_value x))
    | with_reducible apply State.forAll_keeps
    | with_reducible apply State.set_keeps
    | with_reducible apply State.setJob_keeps
    | with_reducible apply State.setJobFlag_keeps
    | with_reducible apply State.clearMarks_keeps
    | with_reducible apply State.setSched_keeps
    | with_reducible apply State.setB_keeps
    | with_reducible apply State.ttSync_keeps

theorem State.unserve_keeps {q : List Instr} {u : Nat} {s : State} {j : Nat} {i : Nat} (hs : Keeps q u s) :
    Keeps q u (State.unserve s j i) := by
  unfold State.unserve
  repeat' first
    | with_reducible assumption
    | (intro s; refine cut (p := Keeps q u (s : State)) ?_ ?_; (on_goal 2 => clear_value s; intro _); (on_goal 1 => try subst s))
    | (intro x; clear_value x)
    | (lift_lets -underBinder; (intro x; clear_value x))
    | with_reducible apply State.setJob_keeps
    | with_reducible apply State.setF_keeps
    | with_reducible apply State.setB_keeps
    | with_reducible apply State.inc_keeps
    | with_reducible apply State.hit_keeps
    | with_reducible apply State.bandSweep_keeps

theorem State.stopServing_keeps {q : List Instr} {u : Nat} {s : State} {j : Nat} {i : Nat} {n : Nat} (hs : Keeps q u s) :
    Keeps q u (State.stopServing s j i n) := by
  unfold State.stopServing
  repeat' first
    | with_reducible assumption
    | (intro s; refine cut (p := Keeps q u (s : State)) ?_ ?_; (on_goal 2 => clear_value s; intro _); (on_goal 1 => try subst s))
    | (lift_lets -underBinder; (intro x; clear_value x))
    | with_reducible apply State.setJob_keeps
    | with_reducible apply State.laneLeave_keeps
    | with_reducible apply State.dropLines_keeps
    | with_reducible apply State.servingSync_keeps

theorem State.setMark_keeps {q : List Instr} {u : Nat} {s : State} {n : Nat} {rev : Bool} {k : TKey} {num : Nat} (hs : Keeps q u s) :
    Keeps q u (State.setMark s n rev k num) := by
  unfold State.setMark
  repeat' first
    | with_reducible assumption
    | (intro s; refine cut (p := Keeps q u (s : State)) ?_ ?_; (on_goal 2 => clear_value s; intro _); (on_goal 1 => try subst s))
    | (lift_lets -underBinder; (intro x; clear_value x))
    | with_reducible apply State.setSched_keeps
    | with_reducible apply State.set_keeps
    | with_reducible apply keeps_ite

theorem State.passDone_keeps {q : List Instr} {u : Nat} {s : State} {n : Nat} {l : Line} (hs : Keeps q u s) :
    Keeps q u (State.passDone s n l) := by
  unfold State.passDone
  repeat' first
    | with_reducible assumption
    | (lift_lets -underBinder; (intro x; clear_value x))
    | with_reducible apply State.setB_keeps
    | with_reducible apply State.inc_keeps
    | with_reducible apply keeps_ite

theorem State.skipLine_keeps {q : List Instr} {u : Nat} {s : State} {n : Nat} {l : Line} {start : Bool} (hs : Keeps q u s) :
    Keeps q u (State.skipLine s n l start) := by
  unfold State.skipLine
  repeat' first
    | with_reducible assumption
    | (intro s; refine cut (p := Keeps q u (s : State)) ?_ ?_; (on_goal 2 => clear_value s; intro _); (on_goal 1 => try subst s))
    | (intro x; clear_value x)
    | (lift_lets -underBinder; (intro s; refine cut (p := Keeps q u (s : State)) ?_ ?_; (on_goal 2 => clear_value s; intro _); (on_goal 1 => try subst s)))
    | with_reducible apply State.setMark_keeps
    | with_reducible apply State.dlSlew_keeps
    | with_reducible apply State.setSched_keeps
    | with_reducible apply State.inc_keeps
    | with_reducible apply State.hit_keeps
    | with_reducible apply State.setB_keeps
    | with_reducible apply State.slowOn_keeps
    | with_reducible apply State.lineDone_keeps
    | with_reducible apply State.passDone_keeps
    | with_reducible apply keeps_ite

theorem State.takeStripe_keeps {q : List Instr} {u : Nat} {s : State} {j : Nat} {i : Nat} {new : Nat} {c : Sched} {cause : Nat} {t0 : Nat} (hs : Keeps q u s) :
    Keeps q u (State.takeStripe s j i new c cause t0) := by
  unfold State.takeStripe
  repeat' first
    | with_reducible assumption
    | refine fun (s : State) (h : Keeps q u s) => ?_
    | refine fun _ => ?_
    | (intro s; refine cut (p := Keeps q u (s : State)) ?_ ?_; (on_goal 2 => clear_value s; intro _); (on_goal 1 => try subst s))
    | (intro x; clear_value x)
    | (lift_lets -underBinder; first | (intro s; refine cut (p := Keeps q u (s : State)) ?_ ?_; (on_goal 2 => clear_value s; intro _); (on_goal 1 => try subst s)) | (intro x; clear_value x))
    | with_reducible apply keeps_foldl
    | refine fun (s : State) (h : Keeps q u s) => ?_
    | refine fun _ => ?_
    | with_reducible apply State.assign_keeps
    | with_reducible apply State.setLink_keeps
    | with_reducible apply State.clearMarks_keeps
    | with_reducible apply State.setSched_keeps
    | with_reducible apply checked_keeps
    | with_reducible apply State.setMark_keeps
    | with_reducible apply State.skipLine_keeps
    | with_reducible apply State.laneStart_keeps
    | with_reducible apply State.set_keeps
    | with_reducible apply State.inc_keeps
    | with_reducible apply State.addC_keeps
    | with_reducible apply State.hit_keeps
    | with_reducible apply State.servingSync_keeps
    | with_reducible apply State.ttSync_keeps
    | with_reducible apply keeps_ite
    | with_reducible apply keeps_ite_fst
    | with_reducible apply keeps_ite_snd
    | with_reducible apply keptW_ok
    | with_reducible apply keptW_no
    | with_reducible apply keptO_next
    | with_reducible apply keptW_ite
    | with_reducible apply keptO_ite
    | refine Keeps.of_ok (by with_reducible assumption) ?_
    | refine Keeps.of_no (by with_reducible assumption) ?_
    | refine Keeps.of_fst (by with_reducible assumption) ?_
    | refine Keeps.of_snd (by with_reducible assumption) ?_
    | split

theorem State.takeover_keeps {q : List Instr} {u : Nat} {s : State} {j : Nat} {i : Nat} {old : Nat} {new : Nat} {cause : Nat} (hs : Keeps q u s) :
    Keeps q u (State.takeover s j i old new cause) := by
  unfold State.takeover
  repeat' first
    | with_reducible assumption
    | (intro s; refine cut (p := Keeps q u (s : State)) ?_ ?_; (on_goal 2 => clear_value s; intro _); (on_goal 1 => try subst s))
    | (intro x; clear_value x)
    | (lift_lets -underBinder; (intro x; clear_value x))
    | with_reducible apply State.stopServing_keeps
    | with_reducible apply State.takeStripe_keeps
    | with_reducible apply State.inc_keeps
    | with_reducible apply State.epochTo_keeps
    | with_reducible apply State.unserve_keeps
    | with_reducible apply State.jobCheck_keeps
    | with_reducible apply keeps_ite

theorem State.loseStripes_keeps {q : List Instr} {u : Nat} {s : State} {n : Nat} {cause : Nat} (hs : Keeps q u s) :
    Keeps q u (State.loseStripes s n cause) := by
  unfold State.loseStripes
  repeat' first
    | with_reducible assumption
    | refine fun (s : State) (h : Keeps q u s) => ?_
    | refine fun _ => ?_
    | with_reducible apply State.forAll_keeps
    | with_reducible apply State.takeover_keeps
    | with_reducible apply State.stopServing_keeps
    | with_reducible apply State.unserve_keeps
    | with_reducible apply State.jobCheck_keeps
    | with_reducible apply keeps_ite
    | with_reducible apply keptW_ok
    | with_reducible apply keptW_no
    | with_reducible apply keptO_next
    | with_reducible apply keptW_ite
    | with_reducible apply keptO_ite
    | refine Keeps.of_ok (by with_reducible assumption) ?_
    | refine Keeps.of_no (by with_reducible assumption) ?_
    | refine Keeps.of_fst (by with_reducible assumption) ?_
    | refine Keeps.of_snd (by with_reducible assumption) ?_
    | split

theorem State.offsetsNow_keeps {q : List Instr} {u : Nat} {s : State} {n : Nat} (hs : Keeps q u s) :
    Keeps q u (State.offsetsNow s n) := by
  unfold State.offsetsNow
  repeat' first
    | with_reducible assumption
    | with_reducible apply State.set_keeps
    | with_reducible apply State.offsetSync_keeps

theorem State.disarm_keeps {q : List Instr} {u : Nat} {s : State} {n : Nat} (hs : Keeps q u s) :
    Keeps q u (State.disarm s n) := by
  unfold State.disarm
  repeat' first
    | with_reducible assumption
    | refine fun (s : State) (h : Keeps q u s) => ?_
    | refine fun _ => ?_
    | (intro s; refine cut (p := Keeps q u (s : State)) ?_ ?_; (on_goal 2 => clear_value s; intro _); (on_goal 1 => try subst s))
    | (lift_lets -underBinder; first | (intro s; refine cut (p := Keeps q u (s : State)) ?_ ?_; (on_goal 2 => clear_value s; intro _); (on_goal 1 => try subst s)) | (intro x; clear_value x))
    | with_reducible apply State.forAll_keeps
    | with_reducible apply State.stopServing_keeps
    | with_reducible apply State.unserve_keeps
    | with_reducible apply State.jobCheck_keeps
    | with_reducible apply State.setJob_keeps
    | with_reducible apply State.dropLines_keeps
    | with_reducible apply State.set_keeps
    | with_reducible apply State.setB_keeps
    | with_reducible apply State.offsetsNow_keeps
    | with_reducible apply State.stApply_keeps
    | with_reducible apply State.ptCheck_keeps
    | with_reducible apply State.predSync_keeps
    | with_reducible apply State.lgSync_keeps
    | with_reducible apply State.servingSync_keeps
    | with_reducible apply State.ttSync_keeps
    | with_reducible apply keeps_ite
    | with_reducible apply keptW_ok
    | with_reducible apply keptW_no
    | with_reducible apply keptO_next
    | with_reducible apply keptW_ite
    | with_reducible apply keptO_ite
    | refine Keeps.of_ok (by with_reducible assumption) ?_
    | refine Keeps.of_no (by with_reducible assumption) ?_
    | refine Keeps.of_fst (by with_reducible assumption) ?_
    | refine Keeps.of_snd (by with_reducible assumption) ?_
    | split

theorem State.retirePort_keeps {q : List Instr} {u : Nat} {s : State} {n : Nat} (hs : Keeps q u s) :
    Keeps q u (State.retirePort s n) := by
  unfold State.retirePort
  repeat' first
    | with_reducible assumption
    | (intro s; refine cut (p := Keeps q u (s : State)) ?_ ?_; (on_goal 2 => clear_value s; intro _); (on_goal 1 => try subst s))
    | (intro x; clear_value x)
    | (lift_lets -underBinder; (intro x; clear_value x))
    | with_reducible apply State.setLink_keeps
    | with_reducible apply State.setF_keeps
    | with_reducible apply State.setB_keeps
    | with_reducible apply State.emit_keeps
    | with_reducible apply State.set_keeps
    | with_reducible apply State.linkLost_keeps
    | with_reducible apply State.hit_keeps
    | with_reducible apply State.mtDrop_keeps
    | with_reducible apply State.loseStripes_keeps
    | with_reducible apply State.dropLines_keeps
    | with_reducible apply State.ttSync_keeps
    | with_reducible apply keeps_ite

theorem State.serveAll_keeps {q : List Instr} {u : Nat} {s : State} {j : Nat} (hs : Keeps q u s) :
    Keeps q u (State.serveAll s j) := by
  unfold State.serveAll
  repeat' first
    | with_reducible assumption
    | refine fun (s : State) (h : Keeps q u s) => ?_
    | refine fun _ => ?_
    | (intro s; refine cut (p := Keeps q u (s : State)) ?_ ?_; (on_goal 2 => clear_value s; intro _); (on_goal 1 => try subst s))
    | (intro x; clear_value x)
    | (lift_lets -underBinder; (intro x; clear_value x))
    | with_reducible apply State.setJob_keeps
    | with_reducible apply State.forAll_keeps
    | with_reducible apply State.assign_keeps
    | with_reducible apply State.unserve_keeps
    | with_reducible apply keeps_ite

theorem State.startLanes_keeps {q : List Instr} {u : Nat} {s : State} {j : Nat} (hs : Keeps q u s) :
    Keeps q u (State.startLanes s j) := by
  unfold State.startLanes
  repeat' first
    | with_reducible assumption
    | refine fun (s : State) (h : Keeps q u s) => ?_
    | refine fun _ => ?_
    | (intro s; refine cut (p := Keeps q u (s : State)) ?_ ?_; (on_goal 2 => clear_value s; intro _); (on_goal 1 => try subst s))
    | (intro x; clear_value x)
    | (lift_lets -underBinder; (intro x; clear_value x))
    | with_reducible apply State.forAll_keeps
    | with_reducible apply State.setLane_keeps
    | with_reducible apply State.laneStart_keeps
    | with_reducible apply State.hit_keeps
    | with_reducible apply State.servingSync_keeps
    | with_reducible apply keeps_ite

theorem State.enterRunning_keeps {q : List Instr} {u : Nat} {s : State} {j : Nat} {base : Nat} {run : Nat} (hs : Keeps q u s) :
    Keeps q u (State.enterRunning s j base run) := by
  unfold State.enterRunning
  repeat' first
    | with_reducible assumption
    | refine fun (s : State) (h : Keeps q u s) => ?_
    | refine fun _ => ?_
    | (intro s; refine cut (p := Keeps q u (s : State)) ?_ ?_; (on_goal 2 => clear_value s; intro _); (on_goal 1 => try subst s))
    | (intro x; clear_value x)
    | (lift_lets -underBinder; (intro x; clear_value x))
    | with_reducible apply keeps_foldl
    | refine fun (s : State) (h : Keeps q u s) => ?_
    | refine fun _ => ?_
    | with_reducible apply State.setJobState_keeps
    | with_reducible apply State.setJob_keeps
    | with_reducible apply State.set_keeps
    | with_reducible apply State.setJobFlag_keeps
    | with_reducible apply State.forAll_keeps
    | with_reducible apply State.unserve_keeps
    | with_reducible apply State.serveAll_keeps
    | with_reducible apply State.setB_keeps
    | with_reducible apply State.startLanes_keeps
    | with_reducible apply State.upSync_keeps
    | with_reducible apply State.zoneCheck_keeps
    | with_reducible apply keeps_ite

theorem State.enterNext_keeps {q : List Instr} {u : Nat} {s : State} (hs : Keeps q u s) :
    Keeps q u (State.enterNext s) := by
  unfold State.enterNext
  repeat' first
    | with_reducible assumption
    | refine fun (s : State) (h : Keeps q u s) => ?_
    | refine fun _ => ?_
    | (intro s; refine cut (p := Keeps q u (s : State)) ?_ ?_; (on_goal 2 => clear_value s; intro _); (on_goal 1 => try subst s))
    | (intro x; clear_value x)
    | (lift_lets -underBinder; (intro x; clear_value x))
    | with_reducible apply State.setIntake_keeps
    | with_reducible apply State.enterRunning_keeps
    | with_reducible apply State.toTimetable_keeps
    | with_reducible apply State.forAll_keeps
    | with_reducible apply State.setSched_keeps
    | with_reducible apply State.ttSync_keeps
    | with_reducible apply State.jobCheck_keeps
    | with_reducible apply keeps_ite
    | with_reducible apply keptW_ok
    | with_reducible apply keptW_no
    | with_reducible apply keptO_next
    | with_reducible apply keptW_ite
    | with_reducible apply keptO_ite
    | refine Keeps.of_ok (by with_reducible assumption) ?_
    | refine Keeps.of_no (by with_reducible assumption) ?_
    | refine Keeps.of_fst (by with_reducible assumption) ?_
    | refine Keeps.of_snd (by with_reducible assumption) ?_
    | split

theorem State.jobVoid_keeps {q : List Instr} {u : Nat} {s : State} (hs : Keeps q u s) :
    Keeps q u (State.jobVoid s) := by
  unfold State.jobVoid
  repeat' first
    | with_reducible assumption
    | with_reducible apply State.hit_keeps

theorem State.jobStart_keeps {q : List Instr} {u : Nat} {s : State} {id : Nat} {here : Option (Nat × Nat)} (hs : Keeps q u s) :
    Keeps q u (State.jobStart s id here) := by
  unfold State.jobStart
  repeat' first
    | with_reducible assumption
    | refine fun (s : State) (h : Keeps q u s) => ?_
    | refine fun _ => ?_
    | refine fun (s : State) (h : Keeps q u s) => ?_
    | refine fun _ => ?_
    | (lift_lets -underBinder; (intro x; clear_value x))
    | with_reducible apply State.jobVoid_keeps
    | with_reducible apply State.toTimetable_keeps
    | with_reducible apply hf
    | with_reducible apply keeps_ite
    | with_reducible apply keptW_ok
    | with_reducible apply keptW_no
    | with_reducible apply keptO_next
    | with_reducible apply keptW_ite
    | with_reducible apply keptO_ite
    | refine Keeps.of_ok (by with_reducible assumption) ?_
    | refine Keeps.of_no (by with_reducible assumption) ?_
    | refine Keeps.of_fst (by with_reducible assumption) ?_
    | refine Keeps.of_snd (by with_reducible assumption) ?_
    | split

theorem State.jobSwitch_keeps {q : List Instr} {u : Nat} {s : State} {newId : Nat} {oldId : Nat} {lastBand : Nat} (hs : Keeps q u s) :
    Keeps q u (State.jobSwitch s newId oldId lastBand) := by
  unfold State.jobSwitch
  repeat' first
    | with_reducible assumption
    | refine fun (s : State) (h : Keeps q u s) => ?_
    | refine fun _ => ?_
    | (intro s; refine cut (p := Keeps q u (s : State)) ?_ ?_; (on_goal 2 => clear_value s; intro _); (on_goal 1 => try subst s))
    | (intro x; clear_value x)
    | (lift_lets -underBinder; (intro x; clear_value x))
    | with_reducible apply keeps_foldl
    | refine fun (s : State) (h : Keeps q u s) => ?_
    | refine fun _ => ?_
    | with_reducible apply State.jobVoid_keeps
    | with_reducible apply State.hit_keeps
    | with_reducible apply State.emit_keeps
    | with_reducible apply State.setJob_keeps
    | with_reducible apply State.setIntake_keeps
    | with_reducible apply State.enterRunning_keeps
    | with_reducible apply State.setJobFlag_keeps
    | with_reducible apply State.forAll_keeps
    | with_reducible apply State.ttSync_keeps
    | with_reducible apply State.lanesSync_keeps
    | with_reducible apply State.jobCheck_keeps
    | with_reducible apply keeps_ite
    | with_reducible apply keptW_ok
    | with_reducible apply keptW_no
    | with_reducible apply keptO_next
    | with_reducible apply keptW_ite
    | with_reducible apply keptO_ite
    | refine Keeps.of_ok (by with_reducible assumption) ?_
    | refine Keeps.of_no (by with_reducible assumption) ?_
    | refine Keeps.of_fst (by with_reducible assumption) ?_
    | refine Keeps.of_snd (by with_reducible assumption) ?_
    | split

end Sys2Proof.Machine
end

