-- ==== Sys2Proof/Laws/KeepsTimetable.lean ====
section
/-! SUPPORT. What each operation of Machine/Timetable.lean keeps (Laws/Keeps.lean). -/
namespace Sys2Proof.Machine

theorem execUnpackerLine_keeps {q : List Instr} {u : Nat} {n : Nat} {ecc : Nat} {addr : Nat} {s : State} (hs : Keeps q u s) :
    KeptO q u (execUnpackerLine n ecc addr s) := by
  unfold execUnpackerLine
  repeat' first
    | with_reducible assumption
    | with_reducible apply State.unpackLine_keeps
    | with_reducible apply State.laneNext_keeps
    | with_reducible apply State.jobCheck_keeps
    | with_reducible apply keeps_ite
    | with_reducible apply keptW_ok
    | with_reducible apply keptW_no
    | with_reducible apply keptO_next
    | with_reducible apply keptW_ite
    | with_reducible apply keptO_ite
    | refine Keeps.of_ok (by with_reducible assumption) ?_
    | refine Keeps.of_no (by with_reducible assumption) ?_
    | refine Keeps.of_fst (by with_reducible assumption) ?_
    | refine Keeps.of_snd (by with_reducible assumption) ?_
    | split

theorem execLodgeLine_keeps {q : List Instr} {u : Nat} {n : Nat} {s : State} (hs : Keeps q u s) :
    KeptO q u (execLodgeLine n s) := by
  unfold execLodgeLine
  repeat' first
    | with_reducible assumption
    | (lift_lets -underBinder; (intro x; clear_value x))
    | with_reducible apply State.setLane_keeps
    | with_reducible apply State.lodgeLine_keeps
    | with_reducible apply State.laneNext_keeps
    | with_reducible apply State.jobCheck_keeps
    | with_reducible apply keeps_ite
    | with_reducible apply keptW_ok
    | with_reducible apply keptW_no
    | with_reducible apply keptO_next
    | with_reducible apply keptW_ite
    | with_reducible apply keptO_ite
    | refine Keeps.of_ok (by with_reducible assumption) ?_
    | refine Keeps.of_no (by with_reducible assumption) ?_
    | refine Keeps.of_fst (by with_reducible assumption) ?_
    | refine Keeps.of_snd (by with_reducible assumption) ?_
    | split

theorem State.dropStale_keeps {q : List Instr} {u : Nat} {n : Nat} {t : TKey} : ∀ {k : List Line} {s : State}, Keeps q u s →
    Keeps q u (State.dropStale s n t k) := by
  intro k
  induction k with
  | nil => intro s hs; exact hs
  | cons a k ih =>
    intro s hs
    unfold State.dropStale
    repeat' first
      | with_reducible assumption
      | with_reducible apply ih
      | (intro s; refine cut (p := Keeps q u (s : State)) ?_ ?_; (on_goal 2 => clear_value s; intro _); (on_goal 1 => try subst s))
      | (lift_lets -underBinder; (intro x; clear_value x))
      | with_reducible apply State.setLodge_keeps
      | with_reducible apply State.inc_keeps
      | with_reducible apply State.setB_keeps
      | with_reducible apply State.lineDone_keeps
      | with_reducible apply keeps_ite

theorem State.handOn_keeps {q : List Instr} {u : Nat} {s : State} {n : Nat} {l : Line} {ecc : Nat} (hs : Keeps q u s) :
    Keeps q u (State.handOn s n l ecc).1 := by
  unfold State.handOn
  repeat' first
    | with_reducible assumption
    | (intro s; refine cut (p := Keeps q u (s : State)) ?_ ?_; (on_goal 2 => clear_value s; intro _); (on_goal 1 => try subst s))
    | (intro x; clear_value x)
    | (lift_lets -underBinder; first | (intro s; refine cut (p := Keeps q u (s : State)) ?_ ?_; (on_goal 2 => clear_value s; intro _); (on_goal 1 => try subst s)) | (intro x; clear_value x))
    | with_reducible apply State.dropStale_keeps
    | with_reducible apply State.setLodge_keeps
    | with_reducible apply State.inc_keeps
    | with_reducible apply State.setB_keeps
    | with_reducible apply State.lgSync_keeps
    | with_reducible apply State.hit_keeps
    | with_reducible apply keeps_ite
    | with_reducible apply keptW_ok
    | with_reducible apply keptW_no
    | with_reducible apply keptO_next
    | with_reducible apply keptW_ite
    | with_reducible apply keptO_ite
    | refine Keeps.of_ok (by with_reducible assumption) ?_
    | refine Keeps.of_no (by with_reducible assumption) ?_
    | refine Keeps.of_fst (by with_reducible assumption) ?_
    | refine Keeps.of_snd (by with_reducible assumption) ?_
    | split

theorem State.slewOffsets_keeps {q : List Instr} {u : Nat} {s : State} {n : Nat} (hs : Keeps q u s) :
    Keeps q u (State.slewOffsets s n) := by
  unfold State.slewOffsets
  repeat' first
    | with_reducible assumption
    | (intro s; refine cut (p := Keeps q u (s : State)) ?_ ?_; (on_goal 2 => clear_value s; intro _); (on_goal 1 => try subst s))
    | (lift_lets -underBinder; (intro x; clear_value x))
    | with_reducible apply State.setI_keeps
    | with_reducible apply State.offsetSync_keeps

theorem wrOffset_keeps {q : List Instr} {u : Nat} {n : Nat} {rev : Bool} {v : Nat} {s : State} (hs : Keeps q u s) :
    KeptW q u (wrOffset n rev v s) := by
  unfold wrOffset
  repeat' first
    | with_reducible assumption
    | (intro s; refine cut (p := Keeps q u (s : State)) ?_ ?_; (on_goal 2 => clear_value s; intro _); (on_goal 1 => try subst s))
    | (lift_lets -underBinder; (intro x; clear_value x))
    | with_reducible apply State.set_keeps
    | with_reducible apply State.ttSync_keeps
    | with_reducible apply keeps_ite
    | with_reducible apply keptW_ok
    | with_reducible apply keptW_no
    | with_reducible apply keptO_next
    | with_reducible apply keptW_ite

theorem execOffsetWrite_keeps {q : List Instr} {u : Nat} {p : Path} {n : Nat} {rev : Bool} {v : Nat} {s : State} (hs : Keeps q u s) :
    KeptO q u (execOffsetWrite p n rev v s) := by
  unfold execOffsetWrite
  repeat' first
    | with_reducible assumption
    | refine fun (s : State) (h : Keeps q u s) => ?_
    | refine fun _ => ?_
    | with_reducible apply access_keeps
    | with_reducible apply wrOffset_keeps

theorem State.firstCheck_keeps {q : List Instr} {u : Nat} {s : State} {n : Nat} {l : Line} (hs : Keeps q u s) :
    Keeps q u (State.firstCheck s n l) := by
  unfold State.firstCheck
  repeat' first
    | with_reducible assumption
    | refine fun (s : State) (h : Keeps q u s) => ?_
    | refine fun _ => ?_
    | (intro s; refine cut (p := Keeps q u (s : State)) ?_ ?_; (on_goal 2 => clear_value s; intro _); (on_goal 1 => try subst s))
    | (lift_lets -underBinder; (intro x; clear_value x))
    | with_reducible apply State.setSched_keeps
    | with_reducible apply checked_keeps
    | with_reducible apply State.bandCheck_keeps
    | with_reducible apply keeps_ite

theorem State.nextCheck_keeps {q : List Instr} {u : Nat} {s : State} {n : Nat} {l : Line} (hs : Keeps q u s) :
    Keeps q u (State.nextCheck s n l) := by
  unfold State.nextCheck
  repeat' first
    | with_reducible assumption
    | refine fun (s : State) (h : Keeps q u s) => ?_
    | refine fun _ => ?_
    | (lift_lets -underBinder; (intro x; clear_value x))
    | with_reducible apply checked_keeps
    | with_reducible apply State.setSched_keeps
    | with_reducible apply State.bandCheck_keeps
    | with_reducible apply keeps_ite
    | with_reducible apply keptW_ok
    | with_reducible apply keptW_no
    | with_reducible apply keptO_next
    | with_reducible apply keptW_ite
    | with_reducible apply keptO_ite
    | refine Keeps.of_ok (by with_reducible assumption) ?_
    | refine Keeps.of_no (by with_reducible assumption) ?_
    | refine Keeps.of_fst (by with_reducible assumption) ?_
    | refine Keeps.of_snd (by with_reducible assumption) ?_
    | split

theorem State.advanceKey_keeps {q : List Instr} {u : Nat} {s : State} {n : Nat} {l : Line} (hs : Keeps q u s) :
    Keeps q u (State.advanceKey s n l) := by
  unfold State.advanceKey
  repeat' first
    | with_reducible assumption
    | (intro s; refine cut (p := Keeps q u (s : State)) ?_ ?_; (on_goal 2 => clear_value s; intro _); (on_goal 1 => try subst s))
    | (intro x; clear_value x)
    | (lift_lets -underBinder; (intro x; clear_value x))
    | with_reducible apply State.setSched_keeps

theorem State.placeLine_keeps {q : List Instr} {u : Nat} {s : State} {n : Nat} {l0 : Line} {pos : Nat} {v : Nat × Nat} {ecc : Nat} {skip : Bool} (hs : Keeps q u s) :
    Keeps q u (State.placeLine s n l0 pos v ecc skip) := by
  unfold State.placeLine
  repeat' first
    | with_reducible assumption
    | (intro s; refine cut (p := Keeps q u (s : State)) ?_ ?_; (on_goal 2 => clear_value s; intro _); (on_goal 1 => try subst s))
    | (intro s; refine cut (p := Keeps q u (s.1 : State)) ?_ ?_; (on_goal 2 => clear_value s; intro _); (on_goal 1 => try subst s))
    | (intro x; clear_value x)
    | (lift_lets -underBinder; (intro s; refine cut (p := Keeps q u (s : State)) ?_ ?_; (on_goal 2 => clear_value s; intro _); (on_goal 1 => try subst s)))
    | with_reducible apply State.firstCheck_keeps
    | with_reducible apply State.handOn_keeps
    | with_reducible apply State.setLink_keeps
    | with_reducible apply State.setSched_keeps
    | with_reducible apply State.skipLine_keeps
    | with_reducible apply State.advanceKey_keeps
    | with_reducible apply State.nextCheck_keeps
    | with_reducible apply State.setB_keeps
    | with_reducible apply State.hit_keeps
    | with_reducible apply State.retirePort_keeps
    | with_reducible apply State.ttSync_keeps
    | with_reducible apply State.jobCheck_keeps
    | with_reducible apply keeps_ite

theorem State.releaseLine_keeps {q : List Instr} {u : Nat} {s : State} {n : Nat} {ecc : Nat} {skip : Bool} (hs : Keeps q u s) :
    Keeps q u (State.releaseLine s n ecc skip) := by
  unfold State.releaseLine
  repeat' first
    | with_reducible assumption
    | (intro s; refine cut (p := Keeps q u (s : State)) ?_ ?_; (on_goal 2 => clear_value s; intro _); (on_goal 1 => try subst s))
    | (intro x; clear_value x)
    | (lift_lets -underBinder; (intro s; refine cut (p := Keeps q u (s : State)) ?_ ?_; (on_goal 2 => clear_value s; intro _); (on_goal 1 => try subst s)))
    | with_reducible apply State.gateTry_keeps
    | with_reducible apply State.slewOffsets_keeps
    | with_reducible apply State.placeLine_keeps
    | with_reducible apply keeps_ite
    | with_reducible apply keeps_ite_fst
    | with_reducible apply keptW_ok
    | with_reducible apply keptW_no
    | with_reducible apply keptO_next
    | with_reducible apply keptW_ite
    | with_reducible apply keptO_ite
    | refine Keeps.of_ok (by with_reducible assumption) ?_
    | refine Keeps.of_no (by with_reducible assumption) ?_
    | refine Keeps.of_fst (by with_reducible assumption) ?_
    | refine Keeps.of_snd (by with_reducible assumption) ?_
    | split

theorem State.fixLine_keeps {q : List Instr} {u : Nat} {s : State} {n : Nat} (hs : Keeps q u s) :
    Keeps q u (State.fixLine s n) := by
  unfold State.fixLine
  repeat' first
    | with_reducible assumption
    | (intro s; refine cut (p := Keeps q u (s : State)) ?_ ?_; (on_goal 2 => clear_value s; intro _); (on_goal 1 => try subst s))
    | (intro x; clear_value x)
    | (lift_lets -underBinder; (intro x; clear_value x))
    | with_reducible apply State.setSched_keeps
    | with_reducible apply State.setLink_keeps
    | with_reducible apply State.lanePut_keeps
    | with_reducible apply State.skipLine_keeps
    | with_reducible apply State.ttSync_keeps
    | with_reducible apply State.jobCheck_keeps
    | with_reducible apply State.set_keeps
    | with_reducible apply State.setSat_keeps
    | with_reducible apply State.rise_keeps
    | with_reducible apply State.setB_keeps
    | with_reducible apply State.inc_keeps
    | with_reducible apply keeps_ite
    | with_reducible apply keeps_ite_fst
    | with_reducible apply keeps_ite_snd
    | with_reducible apply keptW_ok
    | with_reducible apply keptW_no
    | with_reducible apply keptO_next
    | with_reducible apply keptW_ite
    | with_reducible apply keptO_ite
    | refine Keeps.of_ok (by with_reducible assumption) ?_
    | refine Keeps.of_no (by with_reducible assumption) ?_
    | refine Keeps.of_fst (by with_reducible assumption) ?_
    | refine Keeps.of_snd (by with_reducible assumption) ?_
    | split

theorem execLineFix_keeps {q : List Instr} {u : Nat} {n : Nat} {t : Nat} {s : State} (hs : Keeps q u s) :
    KeptO q u (execLineFix n t s) := by
  unfold execLineFix
  repeat' first
    | with_reducible assumption
    | with_reducible apply State.advPort_keeps
    | with_reducible apply State.fixLine_keeps
    | with_reducible apply keeps_ite
    | with_reducible apply keptW_ok
    | with_reducible apply keptW_no
    | with_reducible apply keptO_next

theorem State.arm_keeps {q : List Instr} {u : Nat} {s : State} {n : Nat} (hs : Keeps q u s) :
    Keeps q u (State.arm s n) := by
  unfold State.arm
  repeat' first
    | with_reducible assumption
    | (intro s; refine cut (p := Keeps q u (s : State)) ?_ ?_; (on_goal 2 => clear_value s; intro _); (on_goal 1 => try subst s))
    | (intro x; clear_value x)
    | (lift_lets -underBinder; (intro s; refine cut (p := Keeps q u (s : State)) ?_ ?_; (on_goal 2 => clear_value s; intro _); (on_goal 1 => try subst s)))
    | with_reducible apply State.set_keeps
    | with_reducible apply State.setSched_keeps
    | with_reducible apply State.setB_keeps
    | with_reducible apply State.predSync_keeps
    | with_reducible apply State.lgSync_keeps
    | with_reducible apply State.ttSync_keeps

theorem wrArm_keeps {q : List Instr} {u : Nat} {n : Nat} {v : Nat} {s : State} (hs : Keeps q u s) :
    KeptW q u (wrArm n v s) := by
  unfold wrArm
  repeat' first
    | with_reducible assumption
    | with_reducible apply State.disarm_keeps
    | with_reducible apply State.arm_keeps
    | with_reducible apply keeps_ite
    | with_reducible apply keptW_ok
    | with_reducible apply keptW_no
    | with_reducible apply keptO_next
    | with_reducible apply keptW_ite
    | with_reducible apply keptO_ite
    | refine Keeps.of_ok (by with_reducible assumption) ?_
    | refine Keeps.of_no (by with_reducible assumption) ?_
    | refine Keeps.of_fst (by with_reducible assumption) ?_
    | refine Keeps.of_snd (by with_reducible assumption) ?_
    | split

theorem execArm_keeps {q : List Instr} {u : Nat} {p : Path} {n : Nat} {s : State} (hs : Keeps q u s) :
    KeptO q u (execArm p n s) := by
  unfold execArm
  repeat' first
    | with_reducible assumption
    | refine fun (s : State) (h : Keeps q u s) => ?_
    | refine fun _ => ?_
    | with_reducible apply access_keeps
    | with_reducible apply wrArm_keeps

theorem execDisarm_keeps {q : List Instr} {u : Nat} {p : Path} {n : Nat} {s : State} (hs : Keeps q u s) :
    KeptO q u (execDisarm p n s) := by
  unfold execDisarm
  repeat' first
    | with_reducible assumption
    | refine fun (s : State) (h : Keeps q u s) => ?_
    | refine fun _ => ?_
    | with_reducible apply access_keeps
    | with_reducible apply wrArm_keeps

theorem wrTtControl_keeps {q : List Instr} {u : Nat} {n : Nat} {v : Nat} {s : State} (hs : Keeps q u s) :
    KeptW q u (wrTtControl n v s) := by
  unfold wrTtControl
  repeat' first
    | with_reducible assumption
    | with_reducible apply State.set_keeps
    | with_reducible apply keeps_ite
    | with_reducible apply keptW_ok
    | with_reducible apply keptW_no
    | with_reducible apply keptO_next
    | with_reducible apply keptW_ite

theorem execTtControl_keeps {q : List Instr} {u : Nat} {p : Path} {n : Nat} {v : Nat} {s : State} (hs : Keeps q u s) :
    KeptO q u (execTtControl p n v s) := by
  unfold execTtControl
  repeat' first
    | with_reducible assumption
    | refine fun (s : State) (h : Keeps q u s) => ?_
    | refine fun _ => ?_
    | with_reducible apply access_keeps
    | with_reducible apply wrTtControl_keeps

end Sys2Proof.Machine
end

