-- ==== Sys2Proof/Laws/KeepsIntake.lean ====
section
/-! SUPPORT. What each operation of Machine/Intake.lean keeps (Laws/Keeps.lean). -/
namespace Sys2Proof.Machine

theorem State.pagesSync_keeps {q : List Instr} {u : Nat} {s : State} (hs : Keeps q u s) :
    Keeps q u (State.pagesSync s) := by
  unfold State.pagesSync
  repeat' first
    | with_reducible assumption
    | with_reducible apply State.set_keeps

theorem State.setStage_keeps {q : List Instr} {u : Nat} {s : State} {g : InStage} (hs : Keeps q u s) :
    Keeps q u (State.setStage s g) := by
  unfold State.setStage
  repeat' first
    | with_reducible assumption
    | (lift_lets -underBinder; (intro x; clear_value x))
    | with_reducible apply State.setIntake_keeps

theorem State.inSync_keeps {q : List Instr} {u : Nat} {s : State} (hs : Keeps q u s) :
    Keeps q u (State.inSync s) := by
  unfold State.inSync
  repeat' first
    | with_reducible assumption
    | (lift_lets -underBinder; (intro s; refine cut (p := Keeps q u (s : State)) ?_ ?_; (on_goal 2 => clear_value s; intro _); (on_goal 1 => try subst s)))
    | with_reducible apply State.setB_keeps

theorem State.inBytes_keeps {q : List Instr} {u : Nat} {s : State} {n : Nat} (hs : Keeps q u s) :
    Keeps q u (State.inBytes s n) := by
  unfold State.inBytes
  repeat' first
    | with_reducible assumption
    | (intro x; clear_value x)
    | (lift_lets -underBinder; (intro x; clear_value x))
    | with_reducible apply State.setIntake_keeps
    | with_reducible apply State.addC_keeps

theorem State.complete_keeps {q : List Instr} {u : Nat} {s : State} {code : Nat} {detail : Nat} (hs : Keeps q u s) :
    Keeps q u (State.complete s code detail) := by
  unfold State.complete
  repeat' first
    | with_reducible assumption
    | (intro s; refine cut (p := Keeps q u (s : State)) ?_ ?_; (on_goal 2 => clear_value s; intro _); (on_goal 1 => try subst s))
    | (intro x; clear_value x)
    | (lift_lets -underBinder; (intro x; clear_value x))
    | with_reducible apply State.emit_keeps
    | with_reducible apply State.set_keeps
    | with_reducible apply State.inc_keeps
    | with_reducible apply State.hit_keeps
    | with_reducible apply State.setIntake_keeps
    | with_reducible apply State.inSync_keeps
    | with_reducible apply keeps_ite

theorem State.halt_keeps {q : List Instr} {u : Nat} {s : State} (hs : Keeps q u s) :
    Keeps q u (State.halt s) := by
  unfold State.halt
  repeat' first
    | with_reducible assumption
    | (lift_lets -underBinder; (intro s; refine cut (p := Keeps q u (s : State)) ?_ ?_; (on_goal 2 => clear_value s; intro _); (on_goal 1 => try subst s)))
    | with_reducible apply State.set_keeps
    | with_reducible apply State.setB_keeps
    | with_reducible apply State.inSync_keeps

theorem State.refuse_keeps {q : List Instr} {u : Nat} {s : State} {code : Nat} {detail : Nat} (hs : Keeps q u s) :
    Keeps q u (State.refuse s code detail) := by
  unfold State.refuse
  repeat' first
    | with_reducible assumption
    | (intro s; refine cut (p := Keeps q u (s : State)) ?_ ?_; (on_goal 2 => clear_value s; intro _); (on_goal 1 => try subst s))
    | (intro x; clear_value x)
    | (lift_lets -underBinder; (intro s; refine cut (p := Keeps q u (s : State)) ?_ ?_; (on_goal 2 => clear_value s; intro _); (on_goal 1 => try subst s)))
    | with_reducible apply State.set_keeps
    | with_reducible apply State.hit_keeps
    | with_reducible apply State.setIntake_keeps
    | with_reducible apply State.halt_keeps
    | with_reducible apply State.complete_keeps
    | with_reducible apply keeps_ite

theorem wrInTail_keeps {q : List Instr} {u : Nat} {v : Nat} {s : State} (hs : Keeps q u s) :
    KeptW q u (wrInTail v s) := by
  unfold wrInTail
  repeat' first
    | with_reducible assumption
    | with_reducible apply State.set_keeps
    | with_reducible apply State.inSync_keeps
    | with_reducible apply keeps_ite
    | with_reducible apply keptW_ok
    | with_reducible apply keptW_no
    | with_reducible apply keptO_next
    | with_reducible apply keptW_ite

theorem execInTailWrite_keeps {q : List Instr} {u : Nat} {p : Path} {v : Nat} {s : State} (hs : Keeps q u s) :
    KeptO q u (execInTailWrite p v s) := by
  unfold execInTailWrite
  repeat' first
    | with_reducible assumption
    | refine fun (s : State) (h : Keeps q u s) => ?_
    | refine fun _ => ?_
    | with_reducible apply access_keeps
    | with_reducible apply wrInTail_keeps

theorem wrInControl_keeps {q : List Instr} {u : Nat} {v : Nat} {s : State} (hs : Keeps q u s) :
    KeptW q u (wrInControl v s) := by
  unfold wrInControl
  repeat' first
    | with_reducible assumption
    | (intro s; refine cut (p := Keeps q u (s : State)) ?_ ?_; (on_goal 2 => clear_value s; intro _); (on_goal 1 => try subst s))
    | (intro x; clear_value x)
    | (lift_lets -underBinder; (intro s; refine cut (p := Keeps q u (s : State)) ?_ ?_; (on_goal 2 => clear_value s; intro _); (on_goal 1 => try subst s)))
    | with_reducible apply State.set_keeps
    | with_reducible apply State.setB_keeps
    | with_reducible apply State.complete_keeps
    | with_reducible apply State.setIntake_keeps
    | with_reducible apply State.inSync_keeps
    | with_reducible apply keeps_ite
    | with_reducible apply keeps_ite_fst
    | with_reducible apply keptW_ok
    | with_reducible apply keptW_no
    | with_reducible apply keptO_next
    | with_reducible apply keptW_ite
    | with_reducible apply keptO_ite
    | refine Keeps.of_ok (by with_reducible assumption) ?_
    | refine Keeps.of_no (by with_reducible assumption) ?_
    | refine Keeps.of_fst (by with_reducible assumption) ?_
    | refine Keeps.of_snd (by with_reducible assumption) ?_
    | split

theorem execInRun_keeps {q : List Instr} {u : Nat} {p : Path} {v : Nat} {s : State} (hs : Keeps q u s) :
    KeptO q u (execInRun p v s) := by
  unfold execInRun
  repeat' first
    | with_reducible assumption
    | refine fun (s : State) (h : Keeps q u s) => ?_
    | refine fun _ => ?_
    | with_reducible apply access_keeps
    | with_reducible apply wrInControl_keeps

theorem execResume_keeps {q : List Instr} {u : Nat} {p : Path} {s : State} (hs : Keeps q u s) :
    KeptO q u (execResume p s) := by
  unfold execResume
  repeat' first
    | with_reducible assumption
    | refine fun (s : State) (h : Keeps q u s) => ?_
    | refine fun _ => ?_
    | with_reducible apply access_keeps
    | with_reducible apply wrInControl_keeps

theorem execSkip_keeps {q : List Instr} {u : Nat} {p : Path} {s : State} (hs : Keeps q u s) :
    KeptO q u (execSkip p s) := by
  unfold execSkip
  repeat' first
    | with_reducible assumption
    | refine fun (s : State) (h : Keeps q u s) => ?_
    | refine fun _ => ?_
    | with_reducible apply access_keeps
    | with_reducible apply wrInControl_keeps

theorem execWaybillSlotRead_keeps {q : List Instr} {u : Nat} {bytes : List Byte} {s : State} (hs : Keeps q u s) :
    KeptO q u (execWaybillSlotRead bytes s) := by
  unfold execWaybillSlotRead
  repeat' first
    | with_reducible assumption
    | (intro s; refine cut (p := Keeps q u (s : State)) ?_ ?_; (on_goal 2 => clear_value s; intro _); (on_goal 1 => try subst s))
    | (intro x; clear_value x)
    | (lift_lets -underBinder; (intro x; clear_value x))
    | with_reducible apply State.setIntake_keeps
    | with_reducible apply State.inBytes_keeps
    | with_reducible apply State.hit_keeps
    | with_reducible apply State.halt_keeps
    | with_reducible apply State.setStage_keeps
    | with_reducible apply State.refuse_keeps
    | with_reducible apply keeps_ite
    | with_reducible apply keptW_ok
    | with_reducible apply keptW_no
    | with_reducible apply keptO_next
    | with_reducible apply keptW_ite
    | with_reducible apply keptO_ite
    | refine Keeps.of_ok (by with_reducible assumption) ?_
    | refine Keeps.of_no (by with_reducible assumption) ?_
    | refine Keeps.of_fst (by with_reducible assumption) ?_
    | refine Keeps.of_snd (by with_reducible assumption) ?_
    | split

theorem execSlotFetchError_keeps {q : List Instr} {u : Nat} {addr : Nat} {cause : Nat} {s : State} (hs : Keeps q u s) :
    KeptO q u (execSlotFetchError addr cause s) := by
  unfold execSlotFetchError
  repeat' first
    | with_reducible assumption
    | (lift_lets -underBinder; (intro s; refine cut (p := Keeps q u (s : State)) ?_ ?_; (on_goal 2 => clear_value s; intro _); (on_goal 1 => try subst s)))
    | with_reducible apply State.set_keeps
    | with_reducible apply State.hit_keeps
    | with_reducible apply State.emit_keeps
    | with_reducible apply State.halt_keeps
    | with_reducible apply keeps_ite
    | with_reducible apply keptW_ok
    | with_reducible apply keptW_no
    | with_reducible apply keptO_next
    | with_reducible apply keptW_ite
    | with_reducible apply keptO_ite

theorem State.issue_keeps {q : List Instr} {u : Nat} {s : State} (hs : Keeps q u s) :
    Keeps q u (State.issue s) := by
  unfold State.issue
  repeat' first
    | with_reducible assumption
    | (lift_lets -underBinder; (intro x; clear_value x))
    | with_reducible apply State.setIntake_keeps
    | with_reducible apply State.emit_keeps
    | with_reducible apply keeps_ite

theorem onKind_keeps {q : List Instr} {u : Nat} {s : State} {k : Nat} {f : State → State} (hs : Keeps q u s) (hf : ∀ s, Keeps q u s → Keeps q u (f s)) :
    KeptO q u (onKind s k f) := by
  unfold onKind
  repeat' first
    | with_reducible assumption
    | refine fun (s : State) (h : Keeps q u s) => ?_
    | refine fun _ => ?_
    | with_reducible apply hf
    | with_reducible apply keeps_ite
    | with_reducible apply keptW_ok
    | with_reducible apply keptW_no
    | with_reducible apply keptO_next
    | with_reducible apply keptW_ite
    | with_reducible apply keptO_ite

theorem State.openJob_keeps {q : List Instr} {u : Nat} {s : State} (hs : Keeps q u s) :
    Keeps q u (State.openJob s) := by
  unfold State.openJob
  repeat' first
    | with_reducible assumption
    | (intro x; clear_value x)
    | (lift_lets -underBinder; (intro s; refine cut (p := Keeps q u (s : State)) ?_ ?_; (on_goal 2 => clear_value s; intro _); (on_goal 1 => try subst s)))
    | with_reducible apply State.setB_keeps
    | with_reducible apply State.setStage_keeps
    | with_reducible apply State.setIntake_keeps
    | with_reducible apply State.issue_keeps
    | with_reducible apply keeps_ite
    | with_reducible apply keptW_ok
    | with_reducible apply keptW_no
    | with_reducible apply keptO_next
    | with_reducible apply keptW_ite
    | with_reducible apply keptO_ite
    | refine Keeps.of_ok (by with_reducible assumption) ?_
    | refine Keeps.of_no (by with_reducible assumption) ?_
    | refine Keeps.of_fst (by with_reducible assumption) ?_
    | refine Keeps.of_snd (by with_reducible assumption) ?_
    | split

theorem execJobOpen_keeps {q : List Instr} {u : Nat} {s : State} (hs : Keeps q u s) :
    KeptO q u (execJobOpen s) := by
  unfold execJobOpen
  repeat' first
    | with_reducible assumption
    | refine fun (s : State) (h : Keeps q u s) => ?_
    | refine fun _ => ?_
    | (intro x; clear_value x)
    | (lift_lets -underBinder; (intro x; clear_value x))
    | with_reducible apply State.issue_keeps
    | with_reducible apply onKind_keeps
    | with_reducible apply State.refuse_keeps
    | with_reducible apply State.openJob_keeps
    | with_reducible apply keeps_ite
    | with_reducible apply keptW_ok
    | with_reducible apply keptW_no
    | with_reducible apply keptO_next
    | with_reducible apply keptW_ite
    | with_reducible apply keptO_ite

theorem execWaitJobEnd_keeps {q : List Instr} {u : Nat} {s : State} (hs : Keeps q u s) :
    KeptO q u (execWaitJobEnd s) := by
  unfold execWaitJobEnd
  repeat' first
    | with_reducible assumption
    | with_reducible apply State.openJob_keeps
    | with_reducible apply keeps_ite
    | with_reducible apply keptW_ok
    | with_reducible apply keptW_no
    | with_reducible apply keptO_next
    | with_reducible apply keptW_ite
    | with_reducible apply keptO_ite

theorem execJobTableReadDone_keeps {q : List Instr} {u : Nat} {bytes : List Byte} {s : State} (hs : Keeps q u s) :
    KeptO q u (execJobTableReadDone bytes s) := by
  unfold execJobTableReadDone
  repeat' first
    | with_reducible assumption
    | (intro s; refine cut (p := Keeps q u (s : State)) ?_ ?_; (on_goal 2 => clear_value s; intro _); (on_goal 1 => try subst s))
    | (intro x; clear_value x)
    | (lift_lets -underBinder; (intro x; clear_value x))
    | with_reducible apply State.inBytes_keeps
    | with_reducible apply State.refuse_keeps
    | with_reducible apply State.setIntake_keeps
    | with_reducible apply State.setJob_keeps
    | with_reducible apply State.setJobState_keeps
    | with_reducible apply State.set_keeps
    | with_reducible apply State.complete_keeps
    | with_reducible apply keeps_ite
    | with_reducible apply keptW_ok
    | with_reducible apply keptW_no
    | with_reducible apply keptO_next
    | with_reducible apply keptW_ite
    | with_reducible apply keptO_ite
    | refine Keeps.of_ok (by with_reducible assumption) ?_
    | refine Keeps.of_no (by with_reducible assumption) ?_
    | refine Keeps.of_fst (by with_reducible assumption) ?_
    | refine Keeps.of_snd (by with_reducible assumption) ?_
    | split

theorem execIntakeReadFail_keeps {q : List Instr} {u : Nat} {addr : Nat} {cause : Nat} {s : State} (hs : Keeps q u s) :
    KeptO q u (execIntakeReadFail addr cause s) := by
  unfold execIntakeReadFail
  repeat' first
    | with_reducible assumption
    | (intro s; refine cut (p := Keeps q u (s : State)) ?_ ?_; (on_goal 2 => clear_value s; intro _); (on_goal 1 => try subst s))
    | (lift_lets -underBinder; (intro x; clear_value x))
    | with_reducible apply State.setIntake_keeps
    | with_reducible apply State.inc_keeps
    | with_reducible apply State.hit_keeps
    | with_reducible apply State.issue_keeps
    | with_reducible apply State.set_keeps
    | with_reducible apply State.freePages_keeps
    | with_reducible apply State.refuse_keeps
    | with_reducible apply keeps_ite
    | with_reducible apply keptW_ok
    | with_reducible apply keptW_no
    | with_reducible apply keptO_next
    | with_reducible apply keptW_ite
    | with_reducible apply keptO_ite

theorem State.startCopy_keeps {q : List Instr} {u : Nat} {s : State} (hs : Keeps q u s) :
    Keeps q u (State.startCopy s) := by
  unfold State.startCopy
  repeat' first
    | with_reducible assumption
    | (intro s; refine cut (p := Keeps q u (s : State)) ?_ ?_; (on_goal 2 => clear_value s; intro _); (on_goal 1 => try subst s))
    | (intro x; clear_value x)
    | (lift_lets -underBinder; (intro x; clear_value x))
    | with_reducible apply keeps_foldl
    | refine fun (s : State) (h : Keeps q u s) => ?_
    | refine fun _ => ?_
    | with_reducible apply need_keeps
    | with_reducible apply State.setB_keeps
    | with_reducible apply State.refuse_keeps
    | with_reducible apply State.setStage_keeps
    | with_reducible apply State.setIntake_keeps
    | with_reducible apply State.pagesSync_keeps
    | with_reducible apply State.issue_keeps
    | with_reducible apply keeps_ite

theorem execBand_keeps {q : List Instr} {u : Nat} {s : State} (hs : Keeps q u s) :
    KeptO q u (execBand s) := by
  unfold execBand
  repeat' first
    | with_reducible assumption
    | refine fun (s : State) (h : Keeps q u s) => ?_
    | refine fun _ => ?_
    | (intro x; clear_value x)
    | (lift_lets -underBinder; (intro x; clear_value x))
    | with_reducible apply State.issue_keeps
    | with_reducible apply onKind_keeps
    | with_reducible apply State.refuse_keeps
    | with_reducible apply State.setIntake_keeps
    | with_reducible apply State.startCopy_keeps
    | with_reducible apply keeps_ite
    | with_reducible apply keptW_ok
    | with_reducible apply keptW_no
    | with_reducible apply keptO_next
    | with_reducible apply keptW_ite
    | with_reducible apply keptO_ite
    | refine Keeps.of_ok (by with_reducible assumption) ?_
    | refine Keeps.of_no (by with_reducible assumption) ?_
    | refine Keeps.of_fst (by with_reducible assumption) ?_
    | refine Keeps.of_snd (by with_reducible assumption) ?_
    | split

theorem execWaitSpaceEnd_keeps {q : List Instr} {u : Nat} {s : State} (hs : Keeps q u s) :
    KeptO q u (execWaitSpaceEnd s) := by
  unfold execWaitSpaceEnd
  repeat' first
    | with_reducible assumption
    | with_reducible apply State.startCopy_keeps
    | with_reducible apply keeps_ite
    | with_reducible apply keptW_ok
    | with_reducible apply keptW_no
    | with_reducible apply keptO_next
    | with_reducible apply keptW_ite
    | with_reducible apply keptO_ite

theorem State.storeBlock_keeps {q : List Instr} {u : Nat}  : ∀ {k : List Nat} {s : State} {b : List Byte}, Keeps q u s →
    Keeps q u (State.storeBlock s k b) := by
  intro k
  induction k with
  | nil => intro s b hs; exact hs
  | cons a k ih =>
    intro s b hs
    unfold State.storeBlock
    repeat' first
      | with_reducible assumption
      | with_reducible apply ih
      | with_reducible apply State.mputs_keeps

theorem State.basesUp_keeps {q : List Instr} {u : Nat} {s : State} {o : Nat} {b : Nat} {lines : Nat} (hs : Keeps q u s) :
    Keeps q u (State.basesUp s o b lines) := by
  unfold State.basesUp
  repeat' first
    | with_reducible assumption
    | (lift_lets -underBinder; (intro x; clear_value x))
    | with_reducible apply State.setJob_keeps
    | with_reducible apply keeps_ite
    | with_reducible apply keeps_ite_fst
    | with_reducible apply keeps_ite_snd
    | with_reducible apply keptW_ok
    | with_reducible apply keptW_no
    | with_reducible apply keptO_next
    | with_reducible apply keptW_ite
    | with_reducible apply keptO_ite
    | refine Keeps.of_ok (by with_reducible assumption) ?_
    | refine Keeps.of_no (by with_reducible assumption) ?_
    | refine Keeps.of_fst (by with_reducible assumption) ?_
    | refine Keeps.of_snd (by with_reducible assumption) ?_
    | split

theorem State.addBand_keeps {q : List Instr} {u : Nat} {s : State} {j : Nat} {b : List Byte} {lines : Nat} {ents : List BandEnt} (hs : Keeps q u s) :
    Keeps q u (State.addBand s j b lines ents) := by
  unfold State.addBand
  repeat' first
    | with_reducible assumption
    | (intro s; refine cut (p := Keeps q u (s : State)) ?_ ?_; (on_goal 2 => clear_value s; intro _); (on_goal 1 => try subst s))
    | (intro x; clear_value x)
    | (lift_lets -underBinder; (intro x; clear_value x))
    | with_reducible apply State.storeBlock_keeps
    | with_reducible apply State.setJob_keeps
    | with_reducible apply State.basesUp_keeps
    | with_reducible apply State.inc_keeps
    | with_reducible apply State.addC_keeps

theorem execBandCopyDone_keeps {q : List Instr} {u : Nat} {bytes : List Byte} {s : State} (hs : Keeps q u s) :
    KeptO q u (execBandCopyDone bytes s) := by
  unfold execBandCopyDone
  repeat' first
    | with_reducible assumption
    | refine fun (s : State) (h : Keeps q u s) => ?_
    | refine fun _ => ?_
    | (intro s; refine cut (p := Keeps q u (s : State)) ?_ ?_; (on_goal 2 => clear_value s; intro _); (on_goal 1 => try subst s))
    | (intro x; clear_value x)
    | (lift_lets -underBinder; first | (intro s; refine cut (p := Keeps q u (s : State)) ?_ ?_; (on_goal 2 => clear_value s; intro _); (on_goal 1 => try subst s)) | (intro x; clear_value x))
    | with_reducible apply State.inBytes_keeps
    | with_reducible apply State.freePages_keeps
    | with_reducible apply State.refuse_keeps
    | with_reducible apply State.addBand_keeps
    | with_reducible apply State.complete_keeps
    | with_reducible apply State.forAll_keeps
    | with_reducible apply State.ttSync_keeps
    | with_reducible apply keeps_ite
    | with_reducible apply keeps_ite_fst
    | with_reducible apply keeps_ite_snd
    | with_reducible apply keptW_ok
    | with_reducible apply keptW_no
    | with_reducible apply keptO_next
    | with_reducible apply keptW_ite
    | with_reducible apply keptO_ite
    | refine Keeps.of_ok (by with_reducible assumption) ?_
    | refine Keeps.of_no (by with_reducible assumption) ?_
    | refine Keeps.of_fst (by with_reducible assumption) ?_
    | refine Keeps.of_snd (by with_reducible assumption) ?_
    | split

theorem execJobClose_keeps {q : List Instr} {u : Nat} {s : State} (hs : Keeps q u s) :
    KeptO q u (execJobClose s) := by
  unfold execJobClose
  repeat' first
    | with_reducible assumption
    | refine fun (s : State) (h : Keeps q u s) => ?_
    | refine fun _ => ?_
    | (lift_lets -underBinder; (intro x; clear_value x))
    | with_reducible apply onKind_keeps
    | with_reducible apply State.refuse_keeps
    | with_reducible apply State.setJobFlag_keeps
    | with_reducible apply State.complete_keeps
    | with_reducible apply State.lanesSync_keeps
    | with_reducible apply State.jobCheck_keeps
    | with_reducible apply keeps_ite
    | with_reducible apply keptW_ok
    | with_reducible apply keptW_no
    | with_reducible apply keptO_next
    | with_reducible apply keptW_ite
    | with_reducible apply keptO_ite
    | refine Keeps.of_ok (by with_reducible assumption) ?_
    | refine Keeps.of_no (by with_reducible assumption) ?_
    | refine Keeps.of_fst (by with_reducible assumption) ?_
    | refine Keeps.of_snd (by with_reducible assumption) ?_
    | split

theorem execRepeatJob_keeps {q : List Instr} {u : Nat} {s : State} (hs : Keeps q u s) :
    KeptO q u (execRepeatJob s) := by
  unfold execRepeatJob
  repeat' first
    | with_reducible assumption
    | refine fun (s : State) (h : Keeps q u s) => ?_
    | refine fun _ => ?_
    | (intro s; refine cut (p := Keeps q u (s : State)) ?_ ?_; (on_goal 2 => clear_value s; intro _); (on_goal 1 => try subst s))
    | (intro x; clear_value x)
    | (lift_lets -underBinder; (intro x; clear_value x))
    | with_reducible apply onKind_keeps
    | with_reducible apply State.refuse_keeps
    | with_reducible apply State.set_keeps
    | with_reducible apply State.setJobFlag_keeps
    | with_reducible apply State.setJob_keeps
    | with_reducible apply State.lanesSync_keeps
    | with_reducible apply State.setIntake_keeps
    | with_reducible apply State.setJobState_keeps
    | with_reducible apply State.complete_keeps
    | with_reducible apply keeps_ite
    | with_reducible apply keptW_ok
    | with_reducible apply keptW_no
    | with_reducible apply keptO_next
    | with_reducible apply keptW_ite
    | with_reducible apply keptO_ite
    | refine Keeps.of_ok (by with_reducible assumption) ?_
    | refine Keeps.of_no (by with_reducible assumption) ?_
    | refine Keeps.of_fst (by with_reducible assumption) ?_
    | refine Keeps.of_snd (by with_reducible assumption) ?_
    | split

theorem execRelease_keeps {q : List Instr} {u : Nat} {s : State} (hs : Keeps q u s) :
    KeptO q u (execRelease s) := by
  unfold execRelease
  repeat' first
    | with_reducible assumption
    | refine fun (s : State) (h : Keeps q u s) => ?_
    | refine fun _ => ?_
    | (lift_lets -underBinder; (intro s; refine cut (p := Keeps q u (s : State)) ?_ ?_; (on_goal 2 => clear_value s; intro _); (on_goal 1 => try subst s)))
    | with_reducible apply onKind_keeps
    | with_reducible apply State.refuse_keeps
    | with_reducible apply State.complete_keeps
    | with_reducible apply State.setJobFlag_keeps
    | with_reducible apply State.jobFree_keeps
    | with_reducible apply State.lanesSync_keeps
    | with_reducible apply State.jobCheck_keeps
    | with_reducible apply keeps_ite
    | with_reducible apply keptW_ok
    | with_reducible apply keptW_no
    | with_reducible apply keptO_next
    | with_reducible apply keptW_ite
    | with_reducible apply keptO_ite
    | refine Keeps.of_ok (by with_reducible assumption) ?_
    | refine Keeps.of_no (by with_reducible assumption) ?_
    | refine Keeps.of_fst (by with_reducible assumption) ?_
    | refine Keeps.of_snd (by with_reducible assumption) ?_
    | split

theorem execNop_keeps {q : List Instr} {u : Nat} {s : State} (hs : Keeps q u s) :
    KeptO q u (execNop s) := by
  unfold execNop
  repeat' first
    | with_reducible assumption
    | refine fun (s : State) (h : Keeps q u s) => ?_
    | refine fun _ => ?_
    | with_reducible apply onKind_keeps
    | with_reducible apply State.refuse_keeps
    | with_reducible apply State.complete_keeps
    | with_reducible apply keeps_ite

theorem wrJobAbort_keeps {q : List Instr} {u : Nat} {v : Nat} {s : State} (hs : Keeps q u s) :
    KeptW q u (wrJobAbort v s) := by
  unfold wrJobAbort
  repeat' first
    | with_reducible assumption
    | refine fun (s : State) (h : Keeps q u s) => ?_
    | refine fun _ => ?_
    | (intro s; refine cut (p := Keeps q u (s : State)) ?_ ?_; (on_goal 2 => clear_value s; intro _); (on_goal 1 => try subst s))
    | (lift_lets -underBinder; (intro x; clear_value x))
    | with_reducible apply State.setJob_keeps
    | with_reducible apply State.set_keeps
    | with_reducible apply State.setJobFlag_keeps
    | with_reducible apply State.leaveRunning_keeps
    | with_reducible apply State.setJobState_keeps
    | with_reducible apply State.abortSweep_keeps
    | with_reducible apply State.forAll_keeps
    | with_reducible apply State.ttSync_keeps
    | with_reducible apply State.jobCheck_keeps
    | with_reducible apply keeps_ite
    | with_reducible apply keptW_ok
    | with_reducible apply keptW_no
    | with_reducible apply keptO_next
    | with_reducible apply keptW_ite
    | with_reducible apply keptO_ite
    | refine Keeps.of_ok (by with_reducible assumption) ?_
    | refine Keeps.of_no (by with_reducible assumption) ?_
    | refine Keeps.of_fst (by with_reducible assumption) ?_
    | refine Keeps.of_snd (by with_reducible assumption) ?_
    | split

theorem execInJobAbort_keeps {q : List Instr} {u : Nat} {p : Path} {v : Nat} {s : State} (hs : Keeps q u s) :
    KeptO q u (execInJobAbort p v s) := by
  unfold execInJobAbort
  repeat' first
    | with_reducible assumption
    | refine fun (s : State) (h : Keeps q u s) => ?_
    | refine fun _ => ?_
    | with_reducible apply access_keeps
    | with_reducible apply wrJobAbort_keeps

theorem State.pauseSync_keeps {q : List Instr} {u : Nat} {s : State} (hs : Keeps q u s) :
    Keeps q u (State.pauseSync s) := by
  unfold State.pauseSync
  repeat' first
    | with_reducible assumption
    | (intro x; clear_value x)
    | (lift_lets -underBinder; (intro x; clear_value x))
    | with_reducible apply State.setIntake_keeps
    | with_reducible apply keeps_ite

theorem execPauseStep_keeps {q : List Instr} {u : Nat} {t : Nat} {s : State} (hs : Keeps q u s) :
    KeptO q u (execPauseStep t s) := by
  unfold execPauseStep
  repeat' first
    | with_reducible assumption
    | (intro s; refine cut (p := Keeps q u (s : State)) ?_ ?_; (on_goal 2 => clear_value s; intro _); (on_goal 1 => try subst s))
    | (intro x; clear_value x)
    | (lift_lets -underBinder; (intro s; refine cut (p := Keeps q u (s : State)) ?_ ?_; (on_goal 2 => clear_value s; intro _); (on_goal 1 => try subst s)))
    | with_reducible apply State.adv_keeps
    | with_reducible apply State.pauseSync_keeps
    | with_reducible apply State.setIntake_keeps
    | with_reducible apply State.setF_keeps
    | with_reducible apply State.hit_keeps
    | with_reducible apply keeps_ite
    | with_reducible apply keptW_ok
    | with_reducible apply keptW_no
    | with_reducible apply keptO_next
    | with_reducible apply keptW_ite
    | with_reducible apply keptO_ite

theorem execBsTrainDone_keeps {q : List Instr} {u : Nat} {ok : Bool} {channels : Nat} {s : State} (hs : Keeps q u s) :
    KeptO q u (execBsTrainDone ok channels s) := by
  unfold execBsTrainDone
  repeat' first
    | with_reducible assumption
    | (intro s; refine cut (p := Keeps q u (s : State)) ?_ ?_; (on_goal 2 => clear_value s; intro _); (on_goal 1 => try subst s))
    | (intro x; clear_value x)
    | (lift_lets -underBinder; (intro x; clear_value x))
    | with_reducible apply State.setIntake_keeps
    | with_reducible apply State.setF_keeps
    | with_reducible apply State.setB_keeps
    | with_reducible apply State.set_keeps
    | with_reducible apply State.pagesSync_keeps
    | with_reducible apply State.hit_keeps
    | with_reducible apply keeps_ite
    | with_reducible apply keptW_ok
    | with_reducible apply keptW_no
    | with_reducible apply keptO_next
    | with_reducible apply keptW_ite
    | with_reducible apply keptO_ite

end Sys2Proof.Machine
end

