-- ==== Sys2Proof/Laws/KeepsFiring.lean ====
section
/-! SUPPORT. What each operation of Machine/Firing.lean keeps (Laws/Keeps.lean). -/
namespace Sys2Proof.Machine

theorem State.pgLeave_keeps {q : List Instr} {u : Nat} {s : State} {g : Nat} {st : Nat} (hs : Keeps q u s) :
    Keeps q u (State.pgLeave s g st) := by
  unfold State.pgLeave
  repeat' first
    | with_reducible assumption
    | refine fun (s : State) (h : Keeps q u s) => ?_
    | refine fun _ => ?_
    | (intro s; refine cut (p := Keeps q u (s : State)) ?_ ?_; (on_goal 2 => clear_value s; intro _); (on_goal 1 => try subst s))
    | (intro x; clear_value x)
    | (lift_lets -underBinder; (intro x; clear_value x))
    | with_reducible apply State.setF_keeps
    | with_reducible apply State.setPg_keeps
    | with_reducible apply State.senseWithdraw_keeps
    | with_reducible apply State.forAll_keeps
    | with_reducible apply State.mtDrop_keeps
    | with_reducible apply State.loseStripes_keeps
    | with_reducible apply keeps_ite

theorem State.pgSync_keeps {q : List Instr} {u : Nat} {s : State} {g : Nat} (hs : Keeps q u s) :
    Keeps q u (State.pgSync s g) := by
  unfold State.pgSync
  repeat' first
    | with_reducible assumption
    | (intro s; refine cut (p := Keeps q u (s : State)) ?_ ?_; (on_goal 2 => clear_value s; intro _); (on_goal 1 => try subst s))
    | (intro x; clear_value x)
    | (lift_lets -underBinder; (intro x; clear_value x))
    | with_reducible apply State.rhoSync_keeps
    | with_reducible apply State.rhoTo_keeps
    | with_reducible apply State.setF_keeps
    | with_reducible apply State.setPg_keeps
    | with_reducible apply State.setB_keeps
    | with_reducible apply State.pgLeave_keeps
    | with_reducible apply keeps_ite

theorem State.pgSyncAll_keeps {q : List Instr} {u : Nat} {s : State} (hs : Keeps q u s) :
    Keeps q u (State.pgSyncAll s) := by
  unfold State.pgSyncAll
  repeat' first
    | with_reducible assumption
    | refine fun (s : State) (h : Keeps q u s) => ?_
    | refine fun _ => ?_
    | with_reducible apply State.forAll_keeps
    | with_reducible apply State.pgSync_keeps

theorem State.pgFault_keeps {q : List Instr} {u : Nat} {s : State} {g : Nat} {cause : Nat} (hs : Keeps q u s) :
    Keeps q u (State.pgFault s g cause) := by
  unfold State.pgFault
  repeat' first
    | with_reducible assumption
    | (intro s; refine cut (p := Keeps q u (s : State)) ?_ ?_; (on_goal 2 => clear_value s; intro _); (on_goal 1 => try subst s))
    | (intro x; clear_value x)
    | (lift_lets -underBinder; (intro x; clear_value x))
    | with_reducible apply State.pgLeave_keeps
    | with_reducible apply State.setB_keeps
    | with_reducible apply State.setPg_keeps
    | with_reducible apply State.hit_keeps
    | with_reducible apply keeps_ite

theorem State.pgOver_keeps {q : List Instr} {u : Nat} {s : State} {g : Nat} {v : Nat} (hs : Keeps q u s) :
    Keeps q u (State.pgOver s g v) := by
  unfold State.pgOver
  repeat' first
    | with_reducible assumption
    | (intro s; refine cut (p := Keeps q u (s : State)) ?_ ?_; (on_goal 2 => clear_value s; intro _); (on_goal 1 => try subst s))
    | (intro x; clear_value x)
    | (lift_lets -underBinder; (intro x; clear_value x))
    | with_reducible apply State.setPg_keeps
    | with_reducible apply State.setB_keeps
    | with_reducible apply State.hit_keeps
    | with_reducible apply State.journal_keeps
    | with_reducible apply State.pgSync_keeps
    | with_reducible apply keeps_ite

theorem State.pgResult_keeps {q_ : List Instr} {u_ : Nat} {s : State} {g : Nat} {u : Nat} (hs : Keeps q_ u_ s) :
    Keeps q_ u_ (State.pgResult s g u) := by
  unfold State.pgResult
  repeat' first
    | with_reducible assumption
    | (intro s; refine cut (p := Keeps q_ u_ (s : State)) ?_ ?_; (on_goal 2 => clear_value s; intro _); (on_goal 1 => try subst s))
    | (intro x; clear_value x)
    | (lift_lets -underBinder; (intro x; clear_value x))
    | with_reducible apply State.set_keeps
    | with_reducible apply State.rhoSync_keeps
    | with_reducible apply State.setPg_keeps
    | with_reducible apply State.pgK_keeps
    | with_reducible apply State.setB_keeps
    | with_reducible apply State.setF_keeps
    | with_reducible apply State.hit_keeps
    | with_reducible apply State.inc_keeps
    | with_reducible apply State.pgOver_keeps
    | with_reducible apply keeps_ite

theorem execPgConversionDue_keeps {q : List Instr} {u : Nat} {g : Nat} {t : Nat} {s : State} (hs : Keeps q u s) :
    KeptO q u (execPgConversionDue g t s) := by
  unfold execPgConversionDue
  repeat' first
    | with_reducible assumption
    | (intro s; refine cut (p := Keeps q u (s : State)) ?_ ?_; (on_goal 2 => clear_value s; intro _); (on_goal 1 => try subst s))
    | (intro x; clear_value x)
    | (lift_lets -underBinder; (intro s; refine cut (p := Keeps q u (s : State)) ?_ ?_; (on_goal 2 => clear_value s; intro _); (on_goal 1 => try subst s)))
    | with_reducible apply State.adv_keeps
    | with_reducible apply State.setPg_keeps
    | with_reducible apply State.senseWithdraw_keeps
    | with_reducible apply State.senseAsk_keeps
    | with_reducible apply keeps_ite
    | with_reducible apply keptW_ok
    | with_reducible apply keptW_no
    | with_reducible apply keptO_next
    | with_reducible apply keptW_ite
    | with_reducible apply keptO_ite

theorem State.pgStale_keeps {q : List Instr} {u : Nat} {s : State} {g : Nat} (hs : Keeps q u s) :
    Keeps q u (State.pgStale s g) := by
  unfold State.pgStale
  repeat' first
    | with_reducible assumption
    | (lift_lets -underBinder; (intro x; clear_value x))
    | with_reducible apply State.setB_keeps
    | with_reducible apply State.setPg_keeps
    | with_reducible apply keeps_ite

theorem execPgVStale_keeps {q : List Instr} {u : Nat} {g : Nat} {t : Nat} {s : State} (hs : Keeps q u s) :
    KeptO q u (execPgVStale g t s) := by
  unfold execPgVStale
  repeat' first
    | with_reducible assumption
    | (lift_lets -underBinder; (intro s; refine cut (p := Keeps q u (s : State)) ?_ ?_; (on_goal 2 => clear_value s; intro _); (on_goal 1 => try subst s)))
    | with_reducible apply State.adv_keeps
    | with_reducible apply State.pgStale_keeps
    | with_reducible apply keeps_ite
    | with_reducible apply keptW_ok
    | with_reducible apply keptW_no
    | with_reducible apply keptO_next
    | with_reducible apply keptW_ite
    | with_reducible apply keptO_ite

theorem execHpenOff_keeps {q : List Instr} {u : Nat} {g : Nat} {t : Nat} {s : State} (hs : Keeps q u s) :
    KeptO q u (execHpenOff g t s) := by
  unfold execHpenOff
  repeat' first
    | with_reducible assumption
    | (intro x; clear_value x)
    | (lift_lets -underBinder; (intro s; refine cut (p := Keeps q u (s : State)) ?_ ?_; (on_goal 2 => clear_value s; intro _); (on_goal 1 => try subst s)))
    | with_reducible apply State.adv_keeps
    | with_reducible apply State.setB_keeps
    | with_reducible apply State.setPg_keeps
    | with_reducible apply keeps_ite
    | with_reducible apply keptW_ok
    | with_reducible apply keptW_no
    | with_reducible apply keptO_next
    | with_reducible apply keptW_ite
    | with_reducible apply keptO_ite

theorem wrPgControl_keeps {q : List Instr} {u : Nat} {g : Nat} {v : Nat} {s : State} (hs : Keeps q u s) :
    KeptW q u (wrPgControl g v s) := by
  unfold wrPgControl
  repeat' first
    | with_reducible assumption
    | (intro s; refine cut (p := Keeps q u (s : State)) ?_ ?_; (on_goal 2 => clear_value s; intro _); (on_goal 1 => try subst s))
    | (intro x; clear_value x)
    | (lift_lets -underBinder; (intro x; clear_value x))
    | with_reducible apply State.setB_keeps
    | with_reducible apply State.setF_keeps
    | with_reducible apply State.set_keeps
    | with_reducible apply State.setPg_keeps
    | with_reducible apply State.pgSync_keeps
    | with_reducible apply keeps_ite
    | with_reducible apply keptW_ok
    | with_reducible apply keptW_no
    | with_reducible apply keptO_next
    | with_reducible apply keptW_ite

theorem wrPtCommit_keeps {q : List Instr} {u : Nat} {n : Nat} {v : Nat} {s : State} (hs : Keeps q u s) :
    KeptW q u (wrPtCommit n v s) := by
  unfold wrPtCommit
  repeat' first
    | with_reducible assumption
    | (intro s; refine cut (p := Keeps q u (s : State)) ?_ ?_; (on_goal 2 => clear_value s; intro _); (on_goal 1 => try subst s))
    | (intro x; clear_value x)
    | (lift_lets -underBinder; (intro x; clear_value x))
    | with_reducible apply State.set_keeps
    | with_reducible apply State.setB_keeps
    | with_reducible apply State.setFire_keeps
    | with_reducible apply State.cmdQueue_keeps
    | with_reducible apply State.ptCheck_keeps
    | with_reducible apply keeps_ite
    | with_reducible apply keptW_ok
    | with_reducible apply keptW_no
    | with_reducible apply keptO_next
    | with_reducible apply keptW_ite

theorem execHpPtCommitLine_keeps {q : List Instr} {u : Nat} {p : Path} {n : Nat} {s : State} (hs : Keeps q u s) :
    KeptO q u (execHpPtCommitLine p n s) := by
  unfold execHpPtCommitLine
  repeat' first
    | with_reducible assumption
    | refine fun (s : State) (h : Keeps q u s) => ?_
    | refine fun _ => ?_
    | with_reducible apply access_keeps
    | with_reducible apply wrPtCommit_keeps

theorem execHpPtCommitBand_keeps {q : List Instr} {u : Nat} {p : Path} {n : Nat} {s : State} (hs : Keeps q u s) :
    KeptO q u (execHpPtCommitBand p n s) := by
  unfold execHpPtCommitBand
  repeat' first
    | with_reducible assumption
    | refine fun (s : State) (h : Keeps q u s) => ?_
    | refine fun _ => ?_
    | with_reducible apply access_keeps
    | with_reducible apply wrPtCommit_keeps

theorem State.regulate_keeps {q : List Instr} {u : Nat} {s : State} {n : Nat} (hs : Keeps q u s) :
    Keeps q u (State.regulate s n).1 := by
  unfold State.regulate
  repeat' first
    | with_reducible assumption
    | (intro s; refine cut (p := Keeps q u (s : State)) ?_ ?_; (on_goal 2 => clear_value s; intro _); (on_goal 1 => try subst s))
    | (intro x; clear_value x)
    | (lift_lets -underBinder; (intro x; clear_value x))
    | with_reducible apply State.set_keeps
    | with_reducible apply State.inc_keeps
    | with_reducible apply State.setB_keeps
    | with_reducible apply State.setPg_keeps
    | with_reducible apply keeps_ite
    | with_reducible apply keptW_ok
    | with_reducible apply keptW_no
    | with_reducible apply keptO_next
    | with_reducible apply keptW_ite
    | with_reducible apply keptO_ite
    | split

theorem State.ptLatch_keeps {q : List Instr} {u : Nat} {s : State} {n : Nat} {band : Option (Nat × Nat × Nat)} (hs : Keeps q u s) :
    Keeps q u (State.ptLatch s n band) := by
  unfold State.ptLatch
  repeat' first
    | with_reducible assumption
    | (intro s; refine cut (p := Keeps q u (s : State)) ?_ ?_; (on_goal 2 => clear_value s; intro _); (on_goal 1 => try subst s))
    | (intro x; clear_value x)
    | (lift_lets -underBinder; (intro x; clear_value x))
    | with_reducible apply State.ptApply_keeps
    | with_reducible apply State.setFire_keeps
    | with_reducible apply keeps_ite

theorem State.rotReset_keeps {q_ : List Instr} {u_ : Nat} {s : State} {n : Nat} {q : Nat} {u : Nat} {flags : Nat} (hs : Keeps q_ u_ s) :
    Keeps q_ u_ (State.rotReset s n q u flags) := by
  unfold State.rotReset
  repeat' first
    | with_reducible assumption
    | (intro s; refine cut (p := Keeps q_ u_ (s : State)) ?_ ?_; (on_goal 2 => clear_value s; intro _); (on_goal 1 => try subst s))
    | (intro x; clear_value x)
    | (lift_lets -underBinder; (intro x; clear_value x))
    | with_reducible apply State.setFire_keeps
    | with_reducible apply State.setLink_keeps
    | with_reducible apply State.rotOut_keeps

theorem execLineLatch_keeps {q : List Instr} {u : Nat} {n : Nat} {t : Nat} {s : State} (hs : Keeps q u s) :
    KeptO q u (execLineLatch n t s) := by
  unfold execLineLatch
  repeat' first
    | with_reducible assumption
    | (intro s; refine cut (p := Keeps q u (s : State)) ?_ ?_; (on_goal 2 => clear_value s; intro _); (on_goal 1 => try subst s))
    | (intro s; refine cut (p := Keeps q u (s.1 : State)) ?_ ?_; (on_goal 2 => clear_value s; intro _); (on_goal 1 => try subst s))
    | (intro x; clear_value x)
    | (lift_lets -underBinder; first | (intro s; refine cut (p := Keeps q u (s : State)) ?_ ?_; (on_goal 2 => clear_value s; intro _); (on_goal 1 => try subst s)) | (intro x; clear_value x))
    | with_reducible apply State.advPort_keeps
    | with_reducible apply State.ptLatch_keeps
    | with_reducible apply State.regulate_keeps
    | with_reducible apply State.headBlank_keeps
    | with_reducible apply State.rotReset_keeps
    | with_reducible apply State.setSched_keeps
    | with_reducible apply keeps_ite
    | with_reducible apply keeps_ite_fst
    | with_reducible apply keeps_ite_snd
    | with_reducible apply keptW_ok
    | with_reducible apply keptW_no
    | with_reducible apply keptO_next
    | with_reducible apply keptW_ite
    | with_reducible apply keptO_ite
    | refine Keeps.of_ok (by with_reducible assumption) ?_
    | refine Keeps.of_no (by with_reducible assumption) ?_
    | refine Keeps.of_fst (by with_reducible assumption) ?_
    | refine Keeps.of_snd (by with_reducible assumption) ?_
    | split

theorem State.rotate_keeps {q : List Instr} {u : Nat} {s : State} {n : Nat} {t : Nat} {widths : List Nat} (hs : Keeps q u s) :
    Keeps q u (State.rotate s n t widths) := by
  unfold State.rotate
  repeat' first
    | with_reducible assumption
    | (intro s; refine cut (p := Keeps q u (s : State)) ?_ ?_; (on_goal 2 => clear_value s; intro _); (on_goal 1 => try subst s))
    | (intro x; clear_value x)
    | (lift_lets -underBinder; (intro x; clear_value x))
    | with_reducible apply State.inc_keeps
    | with_reducible apply State.setB_keeps
    | with_reducible apply State.setLink_keeps
    | with_reducible apply State.drive_keeps

theorem State.countFired_keeps {q : List Instr} {u : Nat} {s : State} {n : Nat} (hs : Keeps q u s) :
    Keeps q u (State.countFired s n) := by
  unfold State.countFired
  repeat' first
    | with_reducible assumption
    | (intro s; refine cut (p := Keeps q u (s : State)) ?_ ?_; (on_goal 2 => clear_value s; intro _); (on_goal 1 => try subst s))
    | (intro x; clear_value x)
    | (lift_lets -underBinder; (intro x; clear_value x))
    | with_reducible apply State.setSched_keeps
    | with_reducible apply State.inc_keeps
    | with_reducible apply State.setB_keeps
    | with_reducible apply State.slowOff_keeps
    | with_reducible apply keeps_ite

theorem execWarmPulseDue_keeps {q : List Instr} {u : Nat} {n : Nat} {t : Nat} {s : State} (hs : Keeps q u s) :
    KeptO q u (execWarmPulseDue n t s) := by
  unfold execWarmPulseDue
  repeat' first
    | with_reducible assumption
    | (intro s; refine cut (p := Keeps q u (s : State)) ?_ ?_; (on_goal 2 => clear_value s; intro _); (on_goal 1 => try subst s))
    | (intro x; clear_value x)
    | (lift_lets -underBinder; (intro s; refine cut (p := Keeps q u (s : State)) ?_ ?_; (on_goal 2 => clear_value s; intro _); (on_goal 1 => try subst s)))
    | with_reducible apply State.advPort_keeps
    | with_reducible apply State.setFire_keeps
    | with_reducible apply State.inc_keeps
    | with_reducible apply State.setB_keeps
    | with_reducible apply State.drive_keeps
    | with_reducible apply State.senseGrant_keeps
    | with_reducible apply keeps_ite
    | with_reducible apply keptW_ok
    | with_reducible apply keptW_no
    | with_reducible apply keptO_next
    | with_reducible apply keptW_ite
    | with_reducible apply keptO_ite

end Sys2Proof.Machine
end

