-- ==== Sys2Proof/Laws/KeepsHealth.lean ====
section
/-! SUPPORT. What each operation of Machine/Health.lean keeps (Laws/Keeps.lean). -/
namespace Sys2Proof.Machine

theorem State.warmPeriod_keeps {q : List Instr} {u : Nat} {s : State} {n : Nat} {v : Nat} (hs : Keeps q u s) :
    Keeps q u (State.warmPeriod s n v) := by
  unfold State.warmPeriod
  repeat' first
    | with_reducible assumption
    | (lift_lets -underBinder; (intro s; refine cut (p := Keeps q u (s : State)) ?_ ?_; (on_goal 2 => clear_value s; intro _); (on_goal 1 => try subst s)))
    | with_reducible apply State.set_keeps
    | with_reducible apply State.setB_keeps
    | with_reducible apply keeps_ite

theorem State.regulateTemp_keeps {q : List Instr} {u : Nat} {s : State} {n : Nat} (hs : Keeps q u s) :
    Keeps q u (State.regulateTemp s n) := by
  unfold State.regulateTemp
  repeat' first
    | with_reducible assumption
    | (lift_lets -underBinder; (intro x; clear_value x))
    | with_reducible apply State.setB_keeps
    | with_reducible apply State.warmPeriod_keeps
    | with_reducible apply keeps_ite

theorem State.thermalTo_keeps {q : List Instr} {u : Nat} {s : State} {n : Nat} {st : Nat} (hs : Keeps q u s) :
    Keeps q u (State.thermalTo s n st) := by
  unfold State.thermalTo
  repeat' first
    | with_reducible assumption
    | (intro s; refine cut (p := Keeps q u (s : State)) ?_ ?_; (on_goal 2 => clear_value s; intro _); (on_goal 1 => try subst s))
    | (lift_lets -underBinder; (intro s; refine cut (p := Keeps q u (s : State)) ?_ ?_; (on_goal 2 => clear_value s; intro _); (on_goal 1 => try subst s)))
    | with_reducible apply State.setF_keeps
    | with_reducible apply State.setB_keeps
    | with_reducible apply State.hit_keeps
    | with_reducible apply State.set_keeps
    | with_reducible apply State.mtDrop_keeps
    | with_reducible apply State.loseStripes_keeps
    | with_reducible apply State.regulateTemp_keeps
    | with_reducible apply State.warnSync_keeps
    | with_reducible apply State.ttSync_keeps
    | with_reducible apply keeps_ite
    | with_reducible apply keptW_ok
    | with_reducible apply keptW_no
    | with_reducible apply keptO_next
    | with_reducible apply keptW_ite
    | with_reducible apply keptO_ite
    | refine Keeps.of_ok (by with_reducible assumption) ?_
    | refine Keeps.of_no (by with_reducible assumption) ?_
    | refine Keeps.of_fst (by with_reducible assumption) ?_
    | refine Keeps.of_snd (by with_reducible assumption) ?_
    | split

theorem State.thermalEval_keeps {q : List Instr} {u : Nat} {s : State} {n : Nat} (hs : Keeps q u s) :
    Keeps q u (State.thermalEval s n) := by
  unfold State.thermalEval
  repeat' first
    | with_reducible assumption
    | refine fun (s : State) (h : Keeps q u s) => ?_
    | refine fun _ => ?_
    | (intro x; clear_value x)
    | (lift_lets -underBinder; (intro x; clear_value x))
    | with_reducible apply State.thermalTo_keeps
    | with_reducible apply hf
    | with_reducible apply keeps_ite
    | with_reducible apply keptW_ok
    | with_reducible apply keptW_no
    | with_reducible apply keptO_next
    | with_reducible apply keptW_ite
    | with_reducible apply keptO_ite
    | refine Keeps.of_ok (by with_reducible assumption) ?_
    | refine Keeps.of_no (by with_reducible assumption) ?_
    | refine Keeps.of_fst (by with_reducible assumption) ?_
    | refine Keeps.of_snd (by with_reducible assumption) ?_
    | split

theorem State.tempOf_keeps {q_ : List Instr} {u_ : Nat} {s : State} {n : Nat} {u : Nat} (hs : Keeps q_ u_ s) :
    Keeps q_ u_ (State.tempOf s n u).2 := by
  unfold State.tempOf
  repeat' first
    | with_reducible assumption
    | (intro s; refine cut (p := Keeps q_ u_ (s.2 : State)) ?_ ?_; (on_goal 2 => clear_value s; intro _); (on_goal 1 => try subst s))
    | (intro x; clear_value x)
    | (lift_lets -underBinder; (intro x; clear_value x))
    | with_reducible apply State.draw_keeps
    | with_reducible apply keeps_ite
    | with_reducible apply keeps_ite_fst
    | with_reducible apply keeps_ite_snd

theorem State.tempTake_keeps {q : List Instr} {u : Nat} {s : State} {n : Nat} {t : Int} (hs : Keeps q u s) :
    Keeps q u (State.tempTake s n t) := by
  unfold State.tempTake
  repeat' first
    | with_reducible assumption
    | (intro s; refine cut (p := Keeps q u (s : State)) ?_ ?_; (on_goal 2 => clear_value s; intro _); (on_goal 1 => try subst s))
    | (lift_lets -underBinder; (intro x; clear_value x))
    | with_reducible apply State.setHealth_keeps
    | with_reducible apply State.setI_keeps
    | with_reducible apply State.setB_keeps
    | with_reducible apply State.thermalEval_keeps
    | with_reducible apply State.regulateTemp_keeps
    | with_reducible apply keeps_ite

theorem State.tempResult_keeps {q_ : List Instr} {u_ : Nat} {s : State} {n : Nat} {u : Nat} (hs : Keeps q_ u_ s) :
    Keeps q_ u_ (State.tempResult s n u) := by
  unfold State.tempResult
  repeat' first
    | with_reducible assumption
    | (intro s; refine cut (p := Keeps q_ u_ (s : State)) ?_ ?_; (on_goal 2 => clear_value s; intro _); (on_goal 1 => try subst s))
    | (intro x; clear_value x)
    | (lift_lets -underBinder; (intro s; refine cut (p := Keeps q_ u_ (s.2 : State)) ?_ ?_; (on_goal 2 => clear_value s; intro _); (on_goal 1 => try subst s)))
    | with_reducible apply State.tempOf_keeps
    | with_reducible apply State.tempTake_keeps
    | with_reducible apply State.setHealth_keeps
    | with_reducible apply State.inc_keeps
    | with_reducible apply State.thermalTo_keeps
    | with_reducible apply keeps_ite

theorem State.tempStale_keeps {q : List Instr} {u : Nat} {s : State} {n : Nat} (hs : Keeps q u s) :
    Keeps q u (State.tempStale s n) := by
  unfold State.tempStale
  repeat' first
    | with_reducible assumption
    | (lift_lets -underBinder; (intro s; refine cut (p := Keeps q u (s : State)) ?_ ?_; (on_goal 2 => clear_value s; intro _); (on_goal 1 => try subst s)))
    | with_reducible apply State.setB_keeps
    | with_reducible apply State.set_keeps
    | with_reducible apply State.thermalEval_keeps
    | with_reducible apply State.regulateTemp_keeps
    | with_reducible apply keeps_ite

theorem execRollIdleDue_keeps {q : List Instr} {u : Nat} {n : Nat} {t : Nat} {s : State} (hs : Keeps q u s) :
    KeptO q u (execRollIdleDue n t s) := by
  unfold execRollIdleDue
  repeat' first
    | with_reducible assumption
    | (intro s; refine cut (p := Keeps q u (s : State)) ?_ ?_; (on_goal 2 => clear_value s; intro _); (on_goal 1 => try subst s))
    | (intro x; clear_value x)
    | (lift_lets -underBinder; (intro s; refine cut (p := Keeps q u (s : State)) ?_ ?_; (on_goal 2 => clear_value s; intro _); (on_goal 1 => try subst s)))
    | with_reducible apply State.advPort_keeps
    | with_reducible apply State.setHealth_keeps
    | with_reducible apply State.senseAsk_keeps
    | with_reducible apply keeps_ite
    | with_reducible apply keeps_ite_fst
    | with_reducible apply keeps_ite_snd
    | with_reducible apply keptW_ok
    | with_reducible apply keptW_no
    | with_reducible apply keptO_next
    | with_reducible apply keptW_ite
    | with_reducible apply keptO_ite

theorem State.gapTemp_keeps {q : List Instr} {u : Nat} {s : State} {n : Nat} (hs : Keeps q u s) :
    Keeps q u (State.gapTemp s n) := by
  unfold State.gapTemp
  repeat' first
    | with_reducible assumption
    | (lift_lets -underBinder; (intro x; clear_value x))
    | with_reducible apply State.setBank_keeps

theorem execTempReadingDue_keeps {q : List Instr} {u : Nat} {n : Nat} {t : Nat} {s : State} (hs : Keeps q u s) :
    KeptO q u (execTempReadingDue n t s) := by
  unfold execTempReadingDue
  repeat' first
    | with_reducible assumption
    | (intro s; refine cut (p := Keeps q u (s : State)) ?_ ?_; (on_goal 2 => clear_value s; intro _); (on_goal 1 => try subst s))
    | (intro x; clear_value x)
    | (lift_lets -underBinder; (intro s; refine cut (p := Keeps q u (s : State)) ?_ ?_; (on_goal 2 => clear_value s; intro _); (on_goal 1 => try subst s)))
    | with_reducible apply State.advPort_keeps
    | with_reducible apply State.setHealth_keeps
    | with_reducible apply State.gapTemp_keeps
    | with_reducible apply State.senseAsk_keeps
    | with_reducible apply keeps_ite
    | with_reducible apply keptW_ok
    | with_reducible apply keptW_no
    | with_reducible apply keptO_next
    | with_reducible apply keptW_ite
    | with_reducible apply keptO_ite

theorem State.gapReading_keeps {q : List Instr} {u : Nat} {s : State} {n : Nat} {tj : Nat} {e : Nat} (hs : Keeps q u s) :
    Keeps q u (State.gapReading s n tj e) := by
  unfold State.gapReading
  repeat' first
    | with_reducible assumption
    | (intro s; refine cut (p := Keeps q u (s : State)) ?_ ?_; (on_goal 2 => clear_value s; intro _); (on_goal 1 => try subst s))
    | (intro x; clear_value x)
    | (lift_lets -underBinder; (intro x; clear_value x))
    | with_reducible apply State.senseWithdraw_keeps
    | with_reducible apply State.addC_keeps
    | with_reducible apply need_keeps
    | with_reducible apply State.inc_keeps
    | with_reducible apply State.senseAsk_keeps
    | with_reducible apply keeps_ite

theorem execRotationStart_keeps {q : List Instr} {u : Nat} {n : Nat} {t : Nat} {s : State} (hs : Keeps q u s) :
    KeptO q u (execRotationStart n t s) := by
  unfold execRotationStart
  repeat' first
    | with_reducible assumption
    | (intro s; refine cut (p := Keeps q u (s : State)) ?_ ?_; (on_goal 2 => clear_value s; intro _); (on_goal 1 => try subst s))
    | (intro x; clear_value x)
    | (lift_lets -underBinder; first | (intro s; refine cut (p := Keeps q u (s : State)) ?_ ?_; (on_goal 2 => clear_value s; intro _); (on_goal 1 => try subst s)) | (intro x; clear_value x))
    | with_reducible apply State.advPort_keeps
    | with_reducible apply State.setSched_keeps
    | with_reducible apply State.rotate_keeps
    | with_reducible apply State.setMark_keeps
    | with_reducible apply State.dlSlew_keeps
    | with_reducible apply State.countFired_keeps
    | with_reducible apply State.gapReading_keeps
    | with_reducible apply State.ttSync_keeps
    | with_reducible apply keeps_ite
    | with_reducible apply keptW_ok
    | with_reducible apply keptW_no
    | with_reducible apply keptO_next
    | with_reducible apply keptW_ite
    | with_reducible apply keptO_ite
    | refine Keeps.of_ok (by with_reducible assumption) ?_
    | refine Keeps.of_no (by with_reducible assumption) ?_
    | refine Keeps.of_fst (by with_reducible assumption) ?_
    | refine Keeps.of_snd (by with_reducible assumption) ?_
    | split

theorem State.rotationEnd_keeps {q : List Instr} {u : Nat} {s : State} {n : Nat} (hs : Keeps q u s) :
    Keeps q u (State.rotationEnd s n) := by
  unfold State.rotationEnd
  repeat' first
    | with_reducible assumption
    | (intro s; refine cut (p := Keeps q u (s : State)) ?_ ?_; (on_goal 2 => clear_value s; intro _); (on_goal 1 => try subst s))
    | (intro x; clear_value x)
    | (lift_lets -underBinder; first | (intro s; refine cut (p := Keeps q u (s : State)) ?_ ?_; (on_goal 2 => clear_value s; intro _); (on_goal 1 => try subst s)) | (intro x; clear_value x))
    | with_reducible apply State.setB_keeps
    | with_reducible apply State.setFire_keeps
    | with_reducible apply State.setSched_keeps
    | with_reducible apply State.lineDone_keeps
    | with_reducible apply State.passDone_keeps
    | with_reducible apply State.jobCheck_keeps
    | with_reducible apply State.ttSync_keeps
    | with_reducible apply keeps_ite
    | with_reducible apply keptW_ok
    | with_reducible apply keptW_no
    | with_reducible apply keptO_next
    | with_reducible apply keptW_ite
    | with_reducible apply keptO_ite
    | refine Keeps.of_ok (by with_reducible assumption) ?_
    | refine Keeps.of_no (by with_reducible assumption) ?_
    | refine Keeps.of_fst (by with_reducible assumption) ?_
    | refine Keeps.of_snd (by with_reducible assumption) ?_
    | split

theorem State.snsFail_keeps {q : List Instr} {u : Nat} {s : State} {n : Nat} (hs : Keeps q u s) :
    Keeps q u (State.snsFail s n) := by
  unfold State.snsFail
  repeat' first
    | with_reducible assumption
    | (intro s; refine cut (p := Keeps q u (s : State)) ?_ ?_; (on_goal 2 => clear_value s; intro _); (on_goal 1 => try subst s))
    | (intro x; clear_value x)
    | (lift_lets -underBinder; (intro s; refine cut (p := Keeps q u (s : State)) ?_ ?_; (on_goal 2 => clear_value s; intro _); (on_goal 1 => try subst s)))
    | with_reducible apply State.setB_keeps
    | with_reducible apply State.setHealth_keeps
    | with_reducible apply State.hit_keeps
    | with_reducible apply State.senseDrop_keeps

theorem State.refResult_keeps {q_ : List Instr} {u_ : Nat} {s : State} {n : Nat} {u : Nat} (hs : Keeps q_ u_ s) :
    Keeps q_ u_ (State.refResult s n u) := by
  unfold State.refResult
  repeat' first
    | with_reducible assumption
    | (intro s; refine cut (p := Keeps q_ u_ (s : State)) ?_ ?_; (on_goal 2 => clear_value s; intro _); (on_goal 1 => try subst s))
    | (intro x; clear_value x)
    | (lift_lets -underBinder; (intro x; clear_value x))
    | with_reducible apply State.setHealth_keeps
    | with_reducible apply State.snsFail_keeps
    | with_reducible apply keeps_ite

theorem State.resistance_keeps {q_ : List Instr} {u_ : Nat} {s : State} {n : Nat} {u : Nat} (hs : Keeps q_ u_ s) :
    Keeps q_ u_ (State.resistance s n u).2 := by
  unfold State.resistance
  repeat' first
    | with_reducible assumption
    | (lift_lets -underBinder; (intro x; clear_value x))
    | with_reducible apply State.draw_keeps
    | with_reducible apply keeps_ite
    | with_reducible apply keptW_ok
    | with_reducible apply keptW_no
    | with_reducible apply keptO_next
    | with_reducible apply keptW_ite
    | with_reducible apply keptO_ite
    | split

theorem State.countReading_keeps {q : List Instr} {u : Nat} {s : State} {n : Nat} {confirmed : Bool} (hs : Keeps q u s) :
    Keeps q u (State.countReading s n confirmed) := by
  unfold State.countReading
  repeat' first
    | with_reducible assumption
    | (intro x; clear_value x)
    | (lift_lets -underBinder; (intro x; clear_value x))
    | with_reducible apply State.setHealth_keeps
    | with_reducible apply State.inc_keeps

theorem State.countMean_keeps {q : List Instr} {u : Nat} {s : State} {n : Nat} {r : Nat} (hs : Keeps q u s) :
    Keeps q u (State.countMean s n r) := by
  unfold State.countMean
  repeat' first
    | with_reducible assumption
    | (intro s; refine cut (p := Keeps q u (s : State)) ?_ ?_; (on_goal 2 => clear_value s; intro _); (on_goal 1 => try subst s))
    | (intro x; clear_value x)
    | (lift_lets -underBinder; (intro x; clear_value x))
    | with_reducible apply keeps_foldl
    | refine fun (s : State) (h : Keeps q u s) => ?_
    | refine fun _ => ?_
    | with_reducible apply State.setHealth_keeps
    | with_reducible apply State.set_keeps
    | with_reducible apply State.setB_keeps
    | with_reducible apply State.rhoSync_keeps
    | with_reducible apply keeps_ite

theorem State.rollPast_keeps {q : List Instr} {u : Nat} {s : State} {n : Nat} {k : Nat} (hs : Keeps q u s) :
    Keeps q u (State.rollPast s n k) := by
  unfold State.rollPast
  repeat' first
    | with_reducible assumption
    | with_reducible apply State.set_keeps

theorem State.confirmFault_keeps {q : List Instr} {u : Nat} {s : State} {n : Nat} {k : Nat} {short : Bool} (hs : Keeps q u s) :
    Keeps q u (State.confirmFault s n k short) := by
  unfold State.confirmFault
  repeat' first
    | with_reducible assumption
    | (intro s; refine cut (p := Keeps q u (s : State)) ?_ ?_; (on_goal 2 => clear_value s; intro _); (on_goal 1 => try subst s))
    | (intro x; clear_value x)
    | (lift_lets -underBinder; (intro s; refine cut (p := Keeps q u (s : State)) ?_ ?_; (on_goal 2 => clear_value s; intro _); (on_goal 1 => try subst s)))
    | with_reducible apply State.countReading_keeps
    | with_reducible apply State.setHealth_keeps
    | with_reducible apply State.maskNozzle_keeps
    | with_reducible apply State.inc_keeps
    | with_reducible apply State.hit_keeps
    | with_reducible apply State.recPend_keeps
    | with_reducible apply State.snsFail_keeps
    | with_reducible apply keeps_ite

theorem State.heaterResult_keeps {q_ : List Instr} {u_ : Nat} {s : State} {n : Nat} {k : Nat} {u : Nat} {visit : Bool} (hs : Keeps q_ u_ s) :
    Keeps q_ u_ (State.heaterResult s n k u visit) := by
  unfold State.heaterResult
  repeat' first
    | with_reducible assumption
    | (intro s; refine cut (p := Keeps q_ u_ (s : State)) ?_ ?_; (on_goal 2 => clear_value s; intro _); (on_goal 1 => try subst s))
    | (intro x; clear_value x)
    | (lift_lets -underBinder; (intro s; refine cut (p := Keeps q_ u_ (s.2 : State)) ?_ ?_; (on_goal 2 => clear_value s; intro _); (on_goal 1 => try subst s)))
    | with_reducible apply State.resistance_keeps
    | with_reducible apply State.rollPast_keeps
    | with_reducible apply State.setHealth_keeps
    | with_reducible apply State.setB_keeps
    | with_reducible apply State.confirmFault_keeps
    | with_reducible apply State.countReading_keeps
    | with_reducible apply State.countMean_keeps
    | with_reducible apply State.drift_keeps
    | with_reducible apply State.inc_keeps
    | with_reducible apply keeps_ite

theorem State.deepStore_keeps {q : List Instr} {u : Nat} {s : State} {n : Nat} {z : Nat} {cls : Nat} {d : Nat} {sig : Nat} (hs : Keeps q u s) :
    Keeps q u (State.deepStore s n z cls d sig) := by
  unfold State.deepStore
  repeat' first
    | with_reducible assumption
    | with_reducible apply State.mputs_keeps

theorem State.readingNote_keeps {q : List Instr} {u : Nat} {s : State} {n : Nat} {began : Nat} {deep : Option Nat} {fast : Option (Nat × Nat)} (hs : Keeps q u s) :
    Keeps q u (State.readingNote s n began deep fast) := by
  unfold State.readingNote
  repeat' first
    | with_reducible assumption
    | (intro x; clear_value x)
    | (lift_lets -underBinder; (intro x; clear_value x))
    | with_reducible apply State.setHealth_keeps

theorem State.readingVoid_keeps {q : List Instr} {u : Nat} {s : State} {n : Nat} {r : Reading} (hs : Keeps q u s) :
    Keeps q u (State.readingVoid s n r) := by
  unfold State.readingVoid
  repeat' first
    | with_reducible assumption
    | (intro s; refine cut (p := Keeps q u (s : State)) ?_ ?_; (on_goal 2 => clear_value s; intro _); (on_goal 1 => try subst s))
    | (lift_lets -underBinder; first | (intro s; refine cut (p := Keeps q u (s : State)) ?_ ?_; (on_goal 2 => clear_value s; intro _); (on_goal 1 => try subst s)) | (intro x; clear_value x))
    | with_reducible apply State.inc_keeps
    | with_reducible apply State.deepStore_keeps
    | with_reducible apply State.setHealth_keeps
    | with_reducible apply State.set_keeps
    | with_reducible apply State.setB_keeps
    | with_reducible apply State.setMt_keeps
    | with_reducible apply State.rhoSync_keeps
    | with_reducible apply keeps_ite
    | with_reducible apply keptW_ok
    | with_reducible apply keptW_no
    | with_reducible apply keptO_next
    | with_reducible apply keptW_ite
    | with_reducible apply keptO_ite
    | refine Keeps.of_ok (by with_reducible assumption) ?_
    | refine Keeps.of_no (by with_reducible assumption) ?_
    | refine Keeps.of_fst (by with_reducible assumption) ?_
    | refine Keeps.of_snd (by with_reducible assumption) ?_
    | split

theorem State.readingsVoid_keeps {q : List Instr} {u : Nat} {s : State} {n : Nat} (hs : Keeps q u s) :
    Keeps q u (State.readingsVoid s n) := by
  unfold State.readingsVoid
  repeat' first
    | with_reducible assumption
    | (intro s; refine cut (p := Keeps q u (s : State)) ?_ ?_; (on_goal 2 => clear_value s; intro _); (on_goal 1 => try subst s))
    | (intro x; clear_value x)
    | (lift_lets -underBinder; first | (intro s; refine cut (p := Keeps q u (s : State)) ?_ ?_; (on_goal 2 => clear_value s; intro _); (on_goal 1 => try subst s)) | (intro x; clear_value x))
    | with_reducible apply keeps_foldl
    | refine fun (s : State) (h : Keeps q u s) => ?_
    | refine fun _ => ?_
    | with_reducible apply State.readingVoid_keeps
    | with_reducible apply State.setHealth_keeps

theorem State.staleReading_keeps {q : List Instr} {u : Nat} {s : State} {n : Nat} {epoch : Bool} (hs : Keeps q u s) :
    Keeps q u (State.staleReading s n epoch) := by
  unfold State.staleReading
  repeat' first
    | with_reducible assumption
    | (lift_lets -underBinder; (intro s; refine cut (p := Keeps q u (s : State)) ?_ ?_; (on_goal 2 => clear_value s; intro _); (on_goal 1 => try subst s)))
    | with_reducible apply State.inc_keeps
    | with_reducible apply State.setB_keeps
    | with_reducible apply keeps_ite

theorem wrHealthControl_keeps {q : List Instr} {u : Nat} {n : Nat} {v : Nat} {ref : Option Nat} {temp : Option Nat} {s : State} (hs : Keeps q u s) :
    KeptW q u (wrHealthControl n v ref temp s) := by
  unfold wrHealthControl
  repeat' first
    | with_reducible assumption
    | (intro s; refine cut (p := Keeps q u (s : State)) ?_ ?_; (on_goal 2 => clear_value s; intro _); (on_goal 1 => try subst s))
    | (intro s; refine cut (p := Keeps q u (s.2 : State)) ?_ ?_; (on_goal 2 => clear_value s; intro _); (on_goal 1 => try subst s))
    | (intro x; clear_value x)
    | (lift_lets -underBinder; (intro x; clear_value x))
    | with_reducible apply State.tempOf_keeps
    | with_reducible apply State.set_keeps
    | with_reducible apply State.setB_keeps
    | with_reducible apply State.setHealth_keeps
    | with_reducible apply State.setF_keeps
    | with_reducible apply State.warnSync_keeps
    | with_reducible apply State.ttSync_keeps
    | with_reducible apply State.tempTake_keeps
    | with_reducible apply State.senseDrop_keeps
    | with_reducible apply State.regulateTemp_keeps
    | with_reducible apply keeps_ite
    | with_reducible apply keeps_ite_fst
    | with_reducible apply keeps_ite_snd
    | with_reducible apply keptW_ok
    | with_reducible apply keptW_no
    | with_reducible apply keptO_next
    | with_reducible apply keptW_ite
    | with_reducible apply keptO_ite
    | refine Keeps.of_ok (by with_reducible assumption) ?_
    | refine Keeps.of_no (by with_reducible assumption) ?_
    | refine Keeps.of_fst (by with_reducible assumption) ?_
    | refine Keeps.of_snd (by with_reducible assumption) ?_
    | split

theorem wrRankSet_keeps {q : List Instr} {u : Nat} {n : Nat} {v : Nat} {s : State} (hs : Keeps q u s) :
    KeptW q u (wrRankSet n v s) := by
  unfold wrRankSet
  repeat' first
    | with_reducible assumption
    | with_reducible apply State.rankTo_keeps
    | with_reducible apply keeps_ite
    | with_reducible apply keptW_ok
    | with_reducible apply keptW_no
    | with_reducible apply keptO_next
    | with_reducible apply keptW_ite

theorem execHpRankSet_keeps {q : List Instr} {u : Nat} {p : Path} {n : Nat} {v : Nat} {s : State} (hs : Keeps q u s) :
    KeptO q u (execHpRankSet p n v s) := by
  unfold execHpRankSet
  repeat' first
    | with_reducible assumption
    | refine fun (s : State) (h : Keeps q u s) => ?_
    | refine fun _ => ?_
    | with_reducible apply access_keeps
    | with_reducible apply wrRankSet_keeps

theorem wrRecCmd_keeps {q : List Instr} {u : Nat} {n : Nat} {v : Nat} {s : State} (hs : Keeps q u s) :
    KeptW q u (wrRecCmd n v s) := by
  unfold wrRecCmd
  repeat' first
    | with_reducible assumption
    | with_reducible apply State.recPend_keeps
    | with_reducible apply State.setB_keeps
    | with_reducible apply keeps_ite
    | with_reducible apply keptW_ok
    | with_reducible apply keptW_no
    | with_reducible apply keptO_next
    | with_reducible apply keptW_ite

theorem execRecWriteRequest_keeps {q : List Instr} {u : Nat} {p : Path} {n : Nat} {s : State} (hs : Keeps q u s) :
    KeptO q u (execRecWriteRequest p n s) := by
  unfold execRecWriteRequest
  repeat' first
    | with_reducible assumption
    | refine fun (s : State) (h : Keeps q u s) => ?_
    | refine fun _ => ?_
    | with_reducible apply access_keeps
    | with_reducible apply wrRecCmd_keeps

theorem execRecWriteCancel_keeps {q : List Instr} {u : Nat} {p : Path} {n : Nat} {s : State} (hs : Keeps q u s) :
    KeptO q u (execRecWriteCancel p n s) := by
  unfold execRecWriteCancel
  repeat' first
    | with_reducible assumption
    | refine fun (s : State) (h : Keeps q u s) => ?_
    | refine fun _ => ?_
    | with_reducible apply access_keeps
    | with_reducible apply wrRecCmd_keeps

theorem State.recNext_keeps {q : List Instr} {u : Nat} {s : State} {n : Nat} (hs : Keeps q u s) :
    Keeps q u (State.recNext s n) := by
  unfold State.recNext
  repeat' first
    | with_reducible assumption
    | (intro s; refine cut (p := Keeps q u (s : State)) ?_ ?_; (on_goal 2 => clear_value s; intro _); (on_goal 1 => try subst s))
    | (lift_lets -underBinder; (intro x; clear_value x))
    | with_reducible apply State.recStop_keeps
    | with_reducible apply State.deferred_keeps
    | with_reducible apply State.cmdQueue_keeps
    | with_reducible apply State.setHealth_keeps
    | with_reducible apply State.setB_keeps
    | with_reducible apply State.inc_keeps
    | with_reducible apply State.set_keeps
    | with_reducible apply keeps_ite
    | with_reducible apply keeps_ite_fst
    | with_reducible apply keeps_ite_snd
    | with_reducible apply keptW_ok
    | with_reducible apply keptW_no
    | with_reducible apply keptO_next
    | with_reducible apply keptW_ite
    | with_reducible apply keptO_ite
    | refine Keeps.of_ok (by with_reducible assumption) ?_
    | refine Keeps.of_no (by with_reducible assumption) ?_
    | refine Keeps.of_fst (by with_reducible assumption) ?_
    | refine Keeps.of_snd (by with_reducible assumption) ?_
    | split

theorem State.recRead_keeps {q : List Instr} {u : Nat} {s : State} {n : Nat} {v : Nat} (hs : Keeps q u s) :
    Keeps q u (State.recRead s n v) := by
  unfold State.recRead
  repeat' first
    | with_reducible assumption
    | (intro x; clear_value x)
    | (lift_lets -underBinder; (intro x; clear_value x))
    | with_reducible apply State.setHealth_keeps
    | with_reducible apply State.recNext_keeps
    | with_reducible apply keeps_ite
    | with_reducible apply keptW_ok
    | with_reducible apply keptW_no
    | with_reducible apply keptO_next
    | with_reducible apply keptW_ite
    | with_reducible apply keptO_ite
    | refine Keeps.of_ok (by with_reducible assumption) ?_
    | refine Keeps.of_no (by with_reducible assumption) ?_
    | refine Keeps.of_fst (by with_reducible assumption) ?_
    | refine Keeps.of_snd (by with_reducible assumption) ?_
    | split

theorem State.recWrote_keeps {q : List Instr} {u : Nat} {s : State} {n : Nat} (hs : Keeps q u s) :
    Keeps q u (State.recWrote s n) := by
  unfold State.recWrote
  repeat' first
    | with_reducible assumption
    | (lift_lets -underBinder; (intro x; clear_value x))
    | with_reducible apply State.setHealth_keeps
    | with_reducible apply State.recNext_keeps
    | with_reducible apply keeps_ite
    | with_reducible apply keptW_ok
    | with_reducible apply keptW_no
    | with_reducible apply keptO_next
    | with_reducible apply keptW_ite
    | with_reducible apply keptO_ite
    | refine Keeps.of_ok (by with_reducible assumption) ?_
    | refine Keeps.of_no (by with_reducible assumption) ?_
    | refine Keeps.of_fst (by with_reducible assumption) ?_
    | refine Keeps.of_snd (by with_reducible assumption) ?_
    | split

theorem State.recFail_keeps {q : List Instr} {u : Nat} {s : State} {n : Nat} (hs : Keeps q u s) :
    Keeps q u (State.recFail s n) := by
  unfold State.recFail
  repeat' first
    | with_reducible assumption
    | (intro s; refine cut (p := Keeps q u (s : State)) ?_ ?_; (on_goal 2 => clear_value s; intro _); (on_goal 1 => try subst s))
    | (intro x; clear_value x)
    | (lift_lets -underBinder; (intro s; refine cut (p := Keeps q u (s : State)) ?_ ?_; (on_goal 2 => clear_value s; intro _); (on_goal 1 => try subst s)))
    | with_reducible apply State.recStop_keeps
    | with_reducible apply State.setHealth_keeps
    | with_reducible apply State.inc_keeps
    | with_reducible apply State.setB_keeps
    | with_reducible apply keeps_ite

theorem execRecWriteStart_keeps {q : List Instr} {u : Nat} {n : Nat} {t : Nat} {s : State} (hs : Keeps q u s) :
    KeptO q u (execRecWriteStart n t s) := by
  unfold execRecWriteStart
  repeat' first
    | with_reducible assumption
    | (intro s; refine cut (p := Keeps q u (s : State)) ?_ ?_; (on_goal 2 => clear_value s; intro _); (on_goal 1 => try subst s))
    | (intro x; clear_value x)
    | (lift_lets -underBinder; (intro s; refine cut (p := Keeps q u (s : State)) ?_ ?_; (on_goal 2 => clear_value s; intro _); (on_goal 1 => try subst s)))
    | with_reducible apply State.adv_keeps
    | with_reducible apply State.deferred_keeps
    | with_reducible apply State.setHealth_keeps
    | with_reducible apply State.setB_keeps
    | with_reducible apply State.recNext_keeps
    | with_reducible apply keeps_ite
    | with_reducible apply keptW_ok
    | with_reducible apply keptW_no
    | with_reducible apply keptO_next
    | with_reducible apply keptW_ite
    | with_reducible apply keptO_ite

theorem wrTwin_keeps {q : List Instr} {u : Nat} {n : Nat} {v : Nat} {s : State} (hs : Keeps q u s) :
    KeptW q u (wrTwin n v s) := by
  unfold wrTwin
  repeat' first
    | with_reducible assumption
    | with_reducible apply State.set_keeps
    | with_reducible apply keeps_ite
    | with_reducible apply keptW_ok
    | with_reducible apply keptW_no
    | with_reducible apply keptO_next
    | with_reducible apply keptW_ite

theorem execHpTwinWrite_keeps {q : List Instr} {u : Nat} {p : Path} {n : Nat} {v : Nat} {s : State} (hs : Keeps q u s) :
    KeptO q u (execHpTwinWrite p n v s) := by
  unfold execHpTwinWrite
  repeat' first
    | with_reducible assumption
    | refine fun (s : State) (h : Keeps q u s) => ?_
    | refine fun _ => ?_
    | with_reducible apply access_keeps
    | with_reducible apply wrTwin_keeps

theorem State.assignUnserved_keeps {q : List Instr} {u : Nat} {s : State} {j : Nat} {i : Nat} {n : Nat} (hs : Keeps q u s) :
    Keeps q u (State.assignUnserved s j i n) := by
  unfold State.assignUnserved
  repeat' first
    | with_reducible assumption
    | refine fun (s : State) (h : Keeps q u s) => ?_
    | refine fun _ => ?_
    | (intro x; clear_value x)
    | (lift_lets -underBinder; (intro x; clear_value x))
    | with_reducible apply State.setJob_keeps
    | with_reducible apply State.takeStripe_keeps
    | with_reducible apply hf
    | with_reducible apply keeps_ite
    | with_reducible apply keeps_ite_fst
    | with_reducible apply keeps_ite_snd
    | with_reducible apply keptW_ok
    | with_reducible apply keptW_no
    | with_reducible apply keptO_next
    | with_reducible apply keptW_ite
    | with_reducible apply keptO_ite
    | refine Keeps.of_ok (by with_reducible assumption) ?_
    | refine Keeps.of_no (by with_reducible assumption) ?_
    | refine Keeps.of_fst (by with_reducible assumption) ?_
    | refine Keeps.of_snd (by with_reducible assumption) ?_
    | split

theorem State.twinTake_keeps {q : List Instr} {u : Nat} {s : State} {n : Nat} (hs : Keeps q u s) :
    Keeps q u (State.twinTake s n) := by
  unfold State.twinTake
  repeat' first
    | with_reducible assumption
    | with_reducible apply State.assignUnserved_keeps
    | with_reducible apply State.loseStripes_keeps
    | with_reducible apply keeps_ite
    | with_reducible apply keeps_ite_fst
    | with_reducible apply keptW_ok
    | with_reducible apply keptW_no
    | with_reducible apply keptO_next
    | with_reducible apply keptW_ite
    | with_reducible apply keptO_ite
    | refine Keeps.of_ok (by with_reducible assumption) ?_
    | refine Keeps.of_no (by with_reducible assumption) ?_
    | refine Keeps.of_fst (by with_reducible assumption) ?_
    | refine Keeps.of_snd (by with_reducible assumption) ?_
    | split

theorem State.twinGive_keeps {q : List Instr} {u : Nat} {s : State} {n : Nat} (hs : Keeps q u s) :
    Keeps q u (State.twinGive s n) := by
  unfold State.twinGive
  repeat' first
    | with_reducible assumption
    | refine fun (s : State) (h : Keeps q u s) => ?_
    | refine fun _ => ?_
    | (lift_lets -underBinder; (intro x; clear_value x))
    | with_reducible apply State.forAll_keeps
    | with_reducible apply State.takeover_keeps
    | with_reducible apply keeps_ite
    | with_reducible apply keptW_ok
    | with_reducible apply keptW_no
    | with_reducible apply keptO_next
    | with_reducible apply keptW_ite
    | with_reducible apply keptO_ite
    | refine Keeps.of_ok (by with_reducible assumption) ?_
    | refine Keeps.of_no (by with_reducible assumption) ?_
    | refine Keeps.of_fst (by with_reducible assumption) ?_
    | refine Keeps.of_snd (by with_reducible assumption) ?_
    | split

theorem wrTwinCmd_keeps {q : List Instr} {u : Nat} {n : Nat} {v : Nat} {s : State} (hs : Keeps q u s) :
    KeptW q u (wrTwinCmd n v s) := by
  unfold wrTwinCmd
  repeat' first
    | with_reducible assumption
    | with_reducible apply State.twinTake_keeps
    | with_reducible apply State.twinGive_keeps
    | with_reducible apply keeps_ite
    | with_reducible apply keptW_ok
    | with_reducible apply keptW_no
    | with_reducible apply keptO_next
    | with_reducible apply keptW_ite

end Sys2Proof.Machine
end

