-- ==== Sys2Proof/Laws/KeepsHead.lean ====
section
/-! SUPPORT. What each operation of Machine/Head.lean keeps (Laws/Keeps.lean). -/
namespace Sys2Proof.Machine

theorem State.linkTo_keeps {q : List Instr} {u : Nat} {s : State} {n : Nat} {st : Nat} (hs : Keeps q u s) :
    Keeps q u (State.linkTo s n st) := by
  unfold State.linkTo
  repeat' first
    | with_reducible assumption
    | with_reducible apply State.setF_keeps

theorem State.linkIdle_keeps {q : List Instr} {u : Nat} {s : State} {n : Nat} (hs : Keeps q u s) :
    Keeps q u (State.linkIdle s n) := by
  unfold State.linkIdle
  repeat' first
    | with_reducible assumption
    | (intro s; refine cut (p := Keeps q u (s : State)) ?_ ?_; (on_goal 2 => clear_value s; intro _); (on_goal 1 => try subst s))
    | (lift_lets -underBinder; (intro x; clear_value x))
    | with_reducible apply State.setLink_keeps
    | with_reducible apply State.setB_keeps
    | with_reducible apply State.set_keeps
    | with_reducible apply keeps_ite

theorem State.linkFail_keeps {q : List Instr} {u : Nat} {s : State} {n : Nat} {bit : Nat} (hs : Keeps q u s) :
    Keeps q u (State.linkFail s n bit) := by
  unfold State.linkFail
  repeat' first
    | with_reducible assumption
    | with_reducible apply State.linkIdle_keeps
    | with_reducible apply State.linkTo_keeps
    | with_reducible apply State.setB_keeps

theorem State.cardClear_keeps {q : List Instr} {u : Nat} {s : State} {n : Nat} (hs : Keeps q u s) :
    Keeps q u (State.cardClear s n) := by
  unfold State.cardClear
  repeat' first
    | with_reducible assumption
    | refine fun (s : State) (h : Keeps q u s) => ?_
    | refine fun _ => ?_
    | with_reducible apply State.setB_keeps
    | with_reducible apply State.forAll_keeps
    | with_reducible apply State.set_keeps

theorem State.ckStop_keeps {q : List Instr} {u : Nat} {s : State} {n : Nat} (hs : Keeps q u s) :
    Keeps q u (State.ckStop s n) := by
  unfold State.ckStop
  repeat' first
    | with_reducible assumption
    | with_reducible apply State.setB_keeps
    | with_reducible apply State.emit_keeps

theorem State.bringUp_keeps {q : List Instr} {u : Nat} {s : State} {n : Nat} (hs : Keeps q u s) :
    Keeps q u (State.bringUp s n) := by
  unfold State.bringUp
  repeat' first
    | with_reducible assumption
    | (intro s; refine cut (p := Keeps q u (s : State)) ?_ ?_; (on_goal 2 => clear_value s; intro _); (on_goal 1 => try subst s))
    | (lift_lets -underBinder; (intro s; refine cut (p := Keeps q u (s : State)) ?_ ?_; (on_goal 2 => clear_value s; intro _); (on_goal 1 => try subst s)))
    | with_reducible apply State.linkIdle_keeps
    | with_reducible apply State.linkTo_keeps
    | with_reducible apply State.ckStop_keeps
    | with_reducible apply State.setB_keeps
    | with_reducible apply State.cardClear_keeps
    | with_reducible apply State.cmdQueue_keeps

theorem State.cardHealth_keeps {q : List Instr} {u : Nat} {s : State} {n : Nat} {ws : List Nat} (hs : Keeps q u s) :
    Keeps q u (State.cardHealth s n ws) := by
  unfold State.cardHealth
  repeat' first
    | with_reducible assumption
    | (intro s; refine cut (p := Keeps q u (s : State)) ?_ ?_; (on_goal 2 => clear_value s; intro _); (on_goal 1 => try subst s))
    | (intro x; clear_value x)
    | (lift_lets -underBinder; first | (intro s; refine cut (p := Keeps q u (s : State)) ?_ ?_; (on_goal 2 => clear_value s; intro _); (on_goal 1 => try subst s)) | (intro x; clear_value x))
    | with_reducible apply keeps_foldl
    | refine fun (s : State) (h : Keeps q u s) => ?_
    | refine fun _ => ?_
    | with_reducible apply State.force_keeps
    | with_reducible apply State.setLink_keeps
    | with_reducible apply State.setB_keeps
    | with_reducible apply State.set_keeps
    | with_reducible apply State.setHealth_keeps
    | with_reducible apply State.rankOver_keeps
    | with_reducible apply State.rankTo_keeps
    | with_reducible apply State.maskNozzle_keeps
    | with_reducible apply keeps_ite

theorem State.cardRead_keeps {q : List Instr} {u : Nat} {s : State} {n : Nat} (hs : Keeps q u s) :
    Keeps q u (State.cardRead s n) := by
  unfold State.cardRead
  repeat' first
    | with_reducible assumption
    | refine fun (s : State) (h : Keeps q u s) => ?_
    | refine fun _ => ?_
    | (intro s; refine cut (p := Keeps q u (s : State)) ?_ ?_; (on_goal 2 => clear_value s; intro _); (on_goal 1 => try subst s))
    | (intro x; clear_value x)
    | (lift_lets -underBinder; (intro x; clear_value x))
    | with_reducible apply State.linkFail_keeps
    | with_reducible apply State.forAll_keeps
    | with_reducible apply State.set_keeps
    | with_reducible apply State.setB_keeps
    | with_reducible apply State.cardHealth_keeps
    | with_reducible apply State.linkTo_keeps
    | with_reducible apply State.setLink_keeps
    | with_reducible apply State.emit_keeps
    | with_reducible apply keeps_ite

theorem State.trimStep_keeps {q : List Instr} {u : Nat} {s : State} {n : Nat} (hs : Keeps q u s) :
    Keeps q u (State.trimStep s n) := by
  unfold State.trimStep
  repeat' first
    | with_reducible assumption
    | (intro s; refine cut (p := Keeps q u (s : State)) ?_ ?_; (on_goal 2 => clear_value s; intro _); (on_goal 1 => try subst s))
    | (intro x; clear_value x)
    | (lift_lets -underBinder; (intro x; clear_value x))
    | with_reducible apply State.sendUnits_keeps
    | with_reducible apply State.setLink_keeps
    | with_reducible apply State.cmdQueue_keeps

theorem State.trimJudge_keeps {q : List Instr} {u : Nat} {s : State} {n : Nat} {ok0 : Bool} {ok1 : Bool} (hs : Keeps q u s) :
    Keeps q u (State.trimJudge s n ok0 ok1) := by
  unfold State.trimJudge
  repeat' first
    | with_reducible assumption
    | refine fun (s : State) (h : Keeps q u s) => ?_
    | refine fun _ => ?_
    | (intro s; refine cut (p := Keeps q u (s : State)) ?_ ?_; (on_goal 2 => clear_value s; intro _); (on_goal 1 => try subst s))
    | (intro x; clear_value x)
    | (lift_lets -underBinder; (intro x; clear_value x))
    | with_reducible apply State.setLink_keeps
    | with_reducible apply State.trimStep_keeps
    | with_reducible apply State.linkFail_keeps
    | with_reducible apply State.set_keeps
    | with_reducible apply State.cmdQueue_keeps
    | with_reducible apply hf
    | with_reducible apply keeps_ite

theorem State.linkUpNow_keeps {q : List Instr} {u : Nat} {s : State} {n : Nat} (hs : Keeps q u s) :
    Keeps q u (State.linkUpNow s n) := by
  unfold State.linkUpNow
  repeat' first
    | with_reducible assumption
    | (intro s; refine cut (p := Keeps q u (s : State)) ?_ ?_; (on_goal 2 => clear_value s; intro _); (on_goal 1 => try subst s))
    | (intro x; clear_value x)
    | (lift_lets -underBinder; (intro s; refine cut (p := Keeps q u (s : State)) ?_ ?_; (on_goal 2 => clear_value s; intro _); (on_goal 1 => try subst s)))
    | with_reducible apply State.linkTo_keeps
    | with_reducible apply State.setB_keeps
    | with_reducible apply State.setLink_keeps
    | with_reducible apply State.setSched_keeps
    | with_reducible apply State.setFire_keeps
    | with_reducible apply State.setHealth_keeps
    | with_reducible apply State.set_keeps
    | with_reducible apply State.rhoSync_keeps

theorem State.linkOff_keeps {q : List Instr} {u : Nat} {s : State} {n : Nat} {down : Bool} (hs : Keeps q u s) :
    Keeps q u (State.linkOff s n down) := by
  unfold State.linkOff
  repeat' first
    | with_reducible assumption
    | (intro s; refine cut (p := Keeps q u (s : State)) ?_ ?_; (on_goal 2 => clear_value s; intro _); (on_goal 1 => try subst s))
    | (intro x; clear_value x)
    | (lift_lets -underBinder; (intro x; clear_value x))
    | with_reducible apply State.linkIdle_keeps
    | with_reducible apply State.linkTo_keeps
    | with_reducible apply State.ckStop_keeps
    | with_reducible apply State.setLink_keeps
    | with_reducible apply State.setB_keeps
    | with_reducible apply State.linkLost_keeps
    | with_reducible apply State.mtDrop_keeps
    | with_reducible apply keeps_ite

theorem wrHpControl_keeps {q : List Instr} {u : Nat} {n : Nat} {v : Nat} {s : State} (hs : Keeps q u s) :
    KeptW q u (wrHpControl n v s) := by
  unfold wrHpControl
  repeat' first
    | with_reducible assumption
    | (intro s; refine cut (p := Keeps q u (s : State)) ?_ ?_; (on_goal 2 => clear_value s; intro _); (on_goal 1 => try subst s))
    | (intro x; clear_value x)
    | (lift_lets -underBinder; (intro x; clear_value x))
    | with_reducible apply State.set_keeps
    | with_reducible apply State.linkOff_keeps
    | with_reducible apply State.setLink_keeps
    | with_reducible apply State.bringUp_keeps
    | with_reducible apply State.retirePort_keeps
    | with_reducible apply keeps_ite
    | with_reducible apply keptW_ok
    | with_reducible apply keptW_no
    | with_reducible apply keptO_next
    | with_reducible apply keptW_ite

theorem execTrainingTimeout_keeps {q : List Instr} {u : Nat} {n : Nat} {t : Nat} {s : State} (hs : Keeps q u s) :
    KeptO q u (execTrainingTimeout n t s) := by
  unfold execTrainingTimeout
  repeat' first
    | with_reducible assumption
    | (intro x; clear_value x)
    | (lift_lets -underBinder; (intro s; refine cut (p := Keeps q u (s : State)) ?_ ?_; (on_goal 2 => clear_value s; intro _); (on_goal 1 => try subst s)))
    | with_reducible apply State.adv_keeps
    | with_reducible apply State.linkFail_keeps
    | with_reducible apply keeps_ite
    | with_reducible apply keptW_ok
    | with_reducible apply keptW_no
    | with_reducible apply keptO_next
    | with_reducible apply keptW_ite
    | with_reducible apply keptO_ite

theorem execLineFrameSend_keeps {q : List Instr} {u : Nat} {n : Nat} {t : Nat} {s : State} (hs : Keeps q u s) :
    KeptO q u (execLineFrameSend n t s) := by
  unfold execLineFrameSend
  repeat' first
    | with_reducible assumption
    | (intro s; refine cut (p := Keeps q u (s : State)) ?_ ?_; (on_goal 2 => clear_value s; intro _); (on_goal 1 => try subst s))
    | (lift_lets -underBinder; first | (intro s; refine cut (p := Keeps q u (s : State)) ?_ ?_; (on_goal 2 => clear_value s; intro _); (on_goal 1 => try subst s)) | (intro x; clear_value x))
    | with_reducible apply State.advPort_keeps
    | with_reducible apply State.setLink_keeps
    | with_reducible apply State.frameOut_keeps
    | with_reducible apply State.lineMap_keeps
    | with_reducible apply keeps_ite
    | with_reducible apply keptW_ok
    | with_reducible apply keptW_no
    | with_reducible apply keptO_next
    | with_reducible apply keptW_ite
    | with_reducible apply keptO_ite
    | refine Keeps.of_ok (by with_reducible assumption) ?_
    | refine Keeps.of_no (by with_reducible assumption) ?_
    | refine Keeps.of_fst (by with_reducible assumption) ?_
    | refine Keeps.of_snd (by with_reducible assumption) ?_
    | split

theorem State.staleMsg_keeps {q : List Instr} {u : Nat} {s : State} {n : Nat} (hs : Keeps q u s) :
    Keeps q u (State.staleMsg s n) := by
  unfold State.staleMsg
  repeat' first
    | with_reducible assumption
    | with_reducible apply State.inc_keeps
    | with_reducible apply State.setB_keeps

theorem State.message_keeps {q : List Instr} {u : Nat} {s : State} {n : Nat} {epoch : Nat} {answers : Bool} {f : State → State} (hs : Keeps q u s) (hf : ∀ s, Keeps q u s → Keeps q u (f s)) :
    Keeps q u (State.message s n epoch answers f) := by
  unfold State.message
  repeat' first
    | with_reducible assumption
    | refine fun (s : State) (h : Keeps q u s) => ?_
    | refine fun _ => ?_
    | (intro x; clear_value x)
    | (lift_lets -underBinder; (intro x; clear_value x))
    | with_reducible apply hf
    | with_reducible apply State.staleMsg_keeps
    | with_reducible apply State.setLink_keeps
    | with_reducible apply keeps_ite

theorem execAckRx_keeps {q : List Instr} {u : Nat} {n : Nat} {epoch : Nat} {lseq : Nat} {t : Nat} {s : State} (hs : Keeps q u s) :
    KeptO q u (execAckRx n epoch lseq t s) := by
  unfold execAckRx
  repeat' first
    | with_reducible assumption
    | refine fun (s : State) (h : Keeps q u s) => ?_
    | refine fun _ => ?_
    | (intro s; refine cut (p := Keeps q u (s : State)) ?_ ?_; (on_goal 2 => clear_value s; intro _); (on_goal 1 => try subst s))
    | (lift_lets -underBinder; first | (intro s; refine cut (p := Keeps q u (s : State)) ?_ ?_; (on_goal 2 => clear_value s; intro _); (on_goal 1 => try subst s)) | (intro x; clear_value x))
    | with_reducible apply State.advPort_keeps
    | with_reducible apply State.message_keeps
    | with_reducible apply State.setLink_keeps
    | with_reducible apply State.lineMap_keeps
    | with_reducible apply keeps_ite
    | with_reducible apply keeps_ite_snd
    | with_reducible apply keptW_ok
    | with_reducible apply keptW_no
    | with_reducible apply keptO_next
    | with_reducible apply keptW_ite
    | with_reducible apply keptO_ite
    | refine Keeps.of_ok (by with_reducible assumption) ?_
    | refine Keeps.of_no (by with_reducible assumption) ?_
    | refine Keeps.of_fst (by with_reducible assumption) ?_
    | refine Keeps.of_snd (by with_reducible assumption) ?_
    | split

theorem State.refuseFrame_keeps {q_ : List Instr} {u_ : Nat} {s : State} {n : Nat} {q : Nat} {bit : Nat} (hs : Keeps q_ u_ s) :
    Keeps q_ u_ (State.refuseFrame s n q bit) := by
  unfold State.refuseFrame
  repeat' first
    | with_reducible assumption
    | refine fun (s : State) (h : Keeps q_ u_ s) => ?_
    | refine fun _ => ?_
    | (intro s; refine cut (p := Keeps q_ u_ (s : State)) ?_ ?_; (on_goal 2 => clear_value s; intro _); (on_goal 1 => try subst s))
    | (intro f; refine cut (p := ∀ s : State, Keeps q_ u_ s → Keeps q_ u_ (f s : State)) ?_ ?_; (on_goal 2 => clear_value f; intro hf); (on_goal 1 => subst f))
    | (intro x; clear_value x)
    | (lift_lets -underBinder; (intro x; clear_value x))
    | with_reducible apply State.setLink_keeps
    | with_reducible apply State.inc_keeps
    | with_reducible apply State.setB_keeps
    | with_reducible apply State.raise_keeps
    | with_reducible apply State.retirePort_keeps
    | with_reducible apply State.lineMap_keeps
    | with_reducible apply State.lanePut_keeps
    | with_reducible apply State.headBlank_keeps
    | with_reducible apply hf
    | with_reducible apply keeps_ite
    | with_reducible apply keeps_ite_fst
    | with_reducible apply keptW_ok
    | with_reducible apply keptW_no
    | with_reducible apply keptO_next
    | with_reducible apply keptW_ite
    | with_reducible apply keptO_ite
    | refine Keeps.of_ok (by with_reducible assumption) ?_
    | refine Keeps.of_no (by with_reducible assumption) ?_
    | refine Keeps.of_fst (by with_reducible assumption) ?_
    | refine Keeps.of_snd (by with_reducible assumption) ?_
    | split

theorem State.cmdFail_keeps {q : List Instr} {u : Nat} {s : State} {n : Nat} {c : Cmd} (hs : Keeps q u s) :
    Keeps q u (State.cmdFail s n c) := by
  unfold State.cmdFail
  repeat' first
    | with_reducible assumption
    | (intro s; refine cut (p := Keeps q u (s : State)) ?_ ?_; (on_goal 2 => clear_value s; intro _); (on_goal 1 => try subst s))
    | (lift_lets -underBinder; (intro x; clear_value x))
    | with_reducible apply State.recFail_keeps
    | with_reducible apply State.linkFail_keeps
    | with_reducible apply State.set_keeps
    | with_reducible apply State.cmdOver_keeps
    | with_reducible apply State.trimJudge_keeps
    | with_reducible apply State.ptRefuse_keeps
    | with_reducible apply keeps_ite
    | with_reducible apply keptW_ok
    | with_reducible apply keptW_no
    | with_reducible apply keptO_next
    | with_reducible apply keptW_ite
    | with_reducible apply keptO_ite
    | refine Keeps.of_ok (by with_reducible assumption) ?_
    | refine Keeps.of_no (by with_reducible assumption) ?_
    | refine Keeps.of_fst (by with_reducible assumption) ?_
    | refine Keeps.of_snd (by with_reducible assumption) ?_
    | split

theorem execCmdTimeout_keeps {q : List Instr} {u : Nat} {n : Nat} {t : Nat} {s : State} (hs : Keeps q u s) :
    KeptO q u (execCmdTimeout n t s) := by
  unfold execCmdTimeout
  repeat' first
    | with_reducible assumption
    | (intro x; clear_value x)
    | (lift_lets -underBinder; (intro s; refine cut (p := Keeps q u (s : State)) ?_ ?_; (on_goal 2 => clear_value s; intro _); (on_goal 1 => try subst s)))
    | with_reducible apply State.advPort_keeps
    | with_reducible apply State.setLink_keeps
    | with_reducible apply State.cmdSend_keeps
    | with_reducible apply State.setB_keeps
    | with_reducible apply State.cmdFail_keeps
    | with_reducible apply keeps_ite
    | with_reducible apply keptW_ok
    | with_reducible apply keptW_no
    | with_reducible apply keptO_next
    | with_reducible apply keptW_ite
    | with_reducible apply keptO_ite
    | refine Keeps.of_ok (by with_reducible assumption) ?_
    | refine Keeps.of_no (by with_reducible assumption) ?_
    | refine Keeps.of_fst (by with_reducible assumption) ?_
    | refine Keeps.of_snd (by with_reducible assumption) ?_
    | split

theorem State.reply_keeps {q : List Instr} {u : Nat} {s : State} {n : Nat} {epoch : Nat} {tag : Nat} {ops : List Nat} {f : State → Cmd → State} (hs : Keeps q u s) (hf : ∀ s, Keeps q u s → ∀ k, Keeps q u (f s k)) :
    Keeps q u (State.reply s n epoch tag ops f) := by
  unfold State.reply
  repeat' first
    | with_reducible assumption
    | refine fun (s : State) (h : Keeps q u s) => ?_
    | refine fun _ => ?_
    | with_reducible apply hf
    | with_reducible apply State.message_keeps
    | with_reducible apply keeps_ite
    | with_reducible apply keptW_ok
    | with_reducible apply keptW_no
    | with_reducible apply keptO_next
    | with_reducible apply keptW_ite
    | with_reducible apply keptO_ite
    | refine Keeps.of_ok (by with_reducible assumption) ?_
    | refine Keeps.of_no (by with_reducible assumption) ?_
    | refine Keeps.of_fst (by with_reducible assumption) ?_
    | refine Keeps.of_snd (by with_reducible assumption) ?_
    | split

theorem execReadDataRx_keeps {q : List Instr} {u : Nat} {n : Nat} {epoch : Nat} {tag : Nat} {data : Nat} {t : Nat} {s : State} (hs : Keeps q u s) :
    KeptO q u (execReadDataRx n epoch tag data t s) := by
  unfold execReadDataRx
  repeat' first
    | with_reducible assumption
    | refine fun (s : State) (h : Keeps q u s) => ?_
    | refine fun _ => ?_
    | (intro s; refine cut (p := Keeps q u (s : State)) ?_ ?_; (on_goal 2 => clear_value s; intro _); (on_goal 1 => try subst s))
    | (lift_lets -underBinder; (intro x; clear_value x))
    | with_reducible apply State.advPort_keeps
    | with_reducible apply State.reply_keeps
    | with_reducible apply State.setLink_keeps
    | with_reducible apply State.setB_keeps
    | with_reducible apply State.cmdOver_keeps
    | with_reducible apply State.cardRead_keeps
    | with_reducible apply State.cmdQueue_keeps
    | with_reducible apply State.set_keeps
    | with_reducible apply State.recRead_keeps
    | with_reducible apply keeps_ite
    | with_reducible apply keptW_ok
    | with_reducible apply keptW_no
    | with_reducible apply keptO_next
    | with_reducible apply keptW_ite
    | with_reducible apply keptO_ite
    | refine Keeps.of_ok (by with_reducible assumption) ?_
    | refine Keeps.of_no (by with_reducible assumption) ?_
    | refine Keeps.of_fst (by with_reducible assumption) ?_
    | refine Keeps.of_snd (by with_reducible assumption) ?_
    | split

theorem execWriteDoneRx_keeps {q : List Instr} {u : Nat} {n : Nat} {epoch : Nat} {tag : Nat} {result : Nat} {t : Nat} {s : State} (hs : Keeps q u s) :
    KeptO q u (execWriteDoneRx n epoch tag result t s) := by
  unfold execWriteDoneRx
  repeat' first
    | with_reducible assumption
    | refine fun (s : State) (h : Keeps q u s) => ?_
    | refine fun _ => ?_
    | with_reducible apply State.advPort_keeps
    | with_reducible apply State.reply_keeps
    | with_reducible apply State.set_keeps
    | with_reducible apply State.cmdOver_keeps
    | with_reducible apply State.recWrote_keeps
    | with_reducible apply State.recFail_keeps
    | with_reducible apply keeps_ite
    | with_reducible apply keptW_ok
    | with_reducible apply keptW_no
    | with_reducible apply keptO_next
    | with_reducible apply keptW_ite
    | with_reducible apply keptO_ite
    | refine Keeps.of_ok (by with_reducible assumption) ?_
    | refine Keeps.of_no (by with_reducible assumption) ?_
    | refine Keeps.of_fst (by with_reducible assumption) ?_
    | refine Keeps.of_snd (by with_reducible assumption) ?_
    | split

theorem execCmdDoneRx_keeps {q : List Instr} {u : Nat} {n : Nat} {epoch : Nat} {tag : Nat} {result : Nat} {t : Nat} {s : State} (hs : Keeps q u s) :
    KeptO q u (execCmdDoneRx n epoch tag result t s) := by
  unfold execCmdDoneRx
  repeat' first
    | with_reducible assumption
    | refine fun (s : State) (h : Keeps q u s) => ?_
    | refine fun _ => ?_
    | (lift_lets -underBinder; (intro s; refine cut (p := Keeps q u (s : State)) ?_ ?_; (on_goal 2 => clear_value s; intro _); (on_goal 1 => try subst s)))
    | with_reducible apply State.advPort_keeps
    | with_reducible apply State.reply_keeps
    | with_reducible apply State.linkFail_keeps
    | with_reducible apply State.set_keeps
    | with_reducible apply State.cmdOver_keeps
    | with_reducible apply State.trimJudge_keeps
    | with_reducible apply State.ptRefuse_keeps
    | with_reducible apply State.setB_keeps
    | with_reducible apply State.ptCheck_keeps
    | with_reducible apply State.cmdQueue_keeps
    | with_reducible apply State.linkUpNow_keeps
    | with_reducible apply State.recFail_keeps
    | with_reducible apply keeps_ite
    | with_reducible apply keptW_ok
    | with_reducible apply keptW_no
    | with_reducible apply keptO_next
    | with_reducible apply keptW_ite
    | with_reducible apply keptO_ite
    | refine Keeps.of_ok (by with_reducible assumption) ?_
    | refine Keeps.of_no (by with_reducible assumption) ?_
    | refine Keeps.of_fst (by with_reducible assumption) ?_
    | refine Keeps.of_snd (by with_reducible assumption) ?_
    | split

theorem execTrainResultRx_keeps {q : List Instr} {u : Nat} {n : Nat} {epoch : Nat} {tag : Nat} {e0 : Nat} {e1 : Nat} {t : Nat} {s : State} (hs : Keeps q u s) :
    KeptO q u (execTrainResultRx n epoch tag e0 e1 t s) := by
  unfold execTrainResultRx
  repeat' first
    | with_reducible assumption
    | refine fun (s : State) (h : Keeps q u s) => ?_
    | refine fun _ => ?_
    | with_reducible apply State.advPort_keeps
    | with_reducible apply State.reply_keeps
    | with_reducible apply State.cmdOver_keeps
    | with_reducible apply State.trimJudge_keeps
    | with_reducible apply keeps_ite
    | with_reducible apply keptW_ok
    | with_reducible apply keptW_no
    | with_reducible apply keptO_next

theorem State.spoilSense_keeps {q : List Instr} {u : Nat} {s : State} {n : Nat} (hs : Keeps q u s) :
    Keeps q u (State.spoilSense s n) := by
  unfold State.spoilSense
  repeat' first
    | with_reducible assumption
    | refine fun (s : State) (h : Keeps q u s) => ?_
    | refine fun _ => ?_
    | refine fun (s : State) (h : Keeps q u s) => ?_
    | refine fun _ => ?_
    | (intro s; refine cut (p := Keeps q u (s : State)) ?_ ?_; (on_goal 2 => clear_value s; intro _); (on_goal 1 => try subst s))
    | (intro x; clear_value x)
    | (lift_lets -underBinder; (intro x; clear_value x))
    | with_reducible apply State.forAll_keeps
    | with_reducible apply State.setSconv_keeps
    | with_reducible apply State.setB_keeps
    | with_reducible apply State.readingsVoid_keeps
    | with_reducible apply hf
    | with_reducible apply keeps_ite
    | with_reducible apply keeps_ite_fst
    | with_reducible apply keeps_ite_snd
    | with_reducible apply keptW_ok
    | with_reducible apply keptW_no
    | with_reducible apply keptO_next
    | with_reducible apply keptW_ite
    | with_reducible apply keptO_ite
    | refine Keeps.of_ok (by with_reducible assumption) ?_
    | refine Keeps.of_no (by with_reducible assumption) ?_
    | refine Keeps.of_fst (by with_reducible assumption) ?_
    | refine Keeps.of_snd (by with_reducible assumption) ?_
    | split

theorem State.headSilent_keeps {q : List Instr} {u : Nat} {s : State} {n : Nat} (hs : Keeps q u s) :
    Keeps q u (State.headSilent s n) := by
  unfold State.headSilent
  repeat' first
    | with_reducible assumption
    | with_reducible apply State.setB_keeps
    | with_reducible apply State.retirePort_keeps
    | with_reducible apply keeps_ite

theorem wrRcCmd_keeps {q : List Instr} {u : Nat} {n : Nat} {v : Nat} {s : State} (hs : Keeps q u s) :
    KeptW q u (wrRcCmd n v s) := by
  unfold wrRcCmd
  repeat' first
    | with_reducible assumption
    | (intro s; refine cut (p := Keeps q u (s : State)) ?_ ?_; (on_goal 2 => clear_value s; intro _); (on_goal 1 => try subst s))
    | (lift_lets -underBinder; (intro x; clear_value x))
    | with_reducible apply State.deferred_keeps
    | with_reducible apply State.set_keeps
    | with_reducible apply State.cmdQueue_keeps
    | with_reducible apply keeps_ite
    | with_reducible apply keptW_ok
    | with_reducible apply keptW_no
    | with_reducible apply keptO_next
    | with_reducible apply keptW_ite

theorem execHpRcRead_keeps {q : List Instr} {u : Nat} {p : Path} {n : Nat} {s : State} (hs : Keeps q u s) :
    KeptO q u (execHpRcRead p n s) := by
  unfold execHpRcRead
  repeat' first
    | with_reducible assumption
    | refine fun (s : State) (h : Keeps q u s) => ?_
    | refine fun _ => ?_
    | with_reducible apply access_keeps
    | with_reducible apply wrRcCmd_keeps

theorem execHpRcWrite_keeps {q : List Instr} {u : Nat} {p : Path} {n : Nat} {s : State} (hs : Keeps q u s) :
    KeptO q u (execHpRcWrite p n s) := by
  unfold execHpRcWrite
  repeat' first
    | with_reducible assumption
    | refine fun (s : State) (h : Keeps q u s) => ?_
    | refine fun _ => ?_
    | with_reducible apply access_keeps
    | with_reducible apply wrRcCmd_keeps

end Sys2Proof.Machine
end

