-- ==== Sys2Proof/Laws/KeepsStone.lean ====
section
/-! SUPPORT. What each operation of Machine/Stone.lean keeps (Laws/Keeps.lean). -/
namespace Sys2Proof.Machine

theorem State.setCompare_keeps {q : List Instr} {u : Nat} {s : State} {m : Nat} {v : Nat} (hs : Keeps q u s) :
    Keeps q u (State.setCompare s m v) := by
  unfold State.setCompare
  repeat' first
    | with_reducible assumption
    | with_reducible apply State.set_keeps

theorem State.msMove_keeps {q : List Instr} {u : Nat} {s : State} {m : Nat} {n : Nat} (hs : Keeps q u s) :
    Keeps q u (State.msMove s m n) := by
  unfold State.msMove
  repeat' first
    | with_reducible assumption
    | (lift_lets -underBinder; (intro x; clear_value x))
    | with_reducible apply State.setCompare_keeps

theorem State.msClaim_keeps {q : List Instr} {u : Nat} {s : State} {m : Nat} {owner : Nat} (hs : Keeps q u s) :
    KeptW q u (State.msClaim s m owner) := by
  unfold State.msClaim
  repeat' first
    | with_reducible assumption
    | (intro s; refine cut (p := Keeps q u (s : State)) ?_ ?_; (on_goal 2 => clear_value s; intro _); (on_goal 1 => try subst s))
    | (intro x; clear_value x)
    | (lift_lets -underBinder; (intro x; clear_value x))
    | with_reducible apply State.raiseAt_keeps
    | with_reducible apply State.set_keeps
    | with_reducible apply State.setB_keeps
    | with_reducible apply State.msMove_keeps
    | with_reducible apply State.addC_keeps
    | with_reducible apply keeps_ite
    | with_reducible apply keptW_ok
    | with_reducible apply keptW_no
    | with_reducible apply keptO_next
    | with_reducible apply keptW_ite

theorem State.msRelease_keeps {q : List Instr} {u : Nat} {s : State} {m : Nat} {done : Bool} (hs : Keeps q u s) :
    Keeps q u (State.msRelease s m done) := by
  unfold State.msRelease
  repeat' first
    | with_reducible assumption
    | with_reducible apply State.setB_keeps
    | with_reducible apply State.set_keeps

theorem State.relaySync_keeps {q : List Instr} {u : Nat} {s : State} {a : Nat} (hs : Keeps q u s) :
    Keeps q u (State.relaySync s a) := by
  unfold State.relaySync
  repeat' first
    | with_reducible assumption
    | (intro x; clear_value x)
    | (lift_lets -underBinder; (intro x; clear_value x))
    | with_reducible apply State.set_keeps
    | with_reducible apply keeps_ite
    | with_reducible apply keptW_ok
    | with_reducible apply keptW_no
    | with_reducible apply keptO_next
    | with_reducible apply keptW_ite
    | with_reducible apply keptO_ite
    | refine Keeps.of_ok (by with_reducible assumption) ?_
    | refine Keeps.of_no (by with_reducible assumption) ?_
    | refine Keeps.of_fst (by with_reducible assumption) ?_
    | refine Keeps.of_snd (by with_reducible assumption) ?_
    | split

theorem State.relayFollow_keeps {q : List Instr} {u : Nat} {s : State} {i : Nat} (hs : Keeps q u s) :
    Keeps q u (State.relayFollow s i) := by
  unfold State.relayFollow
  repeat' first
    | with_reducible assumption
    | refine fun (s : State) (h : Keeps q u s) => ?_
    | refine fun _ => ?_
    | with_reducible apply State.forAll_keeps
    | with_reducible apply State.relaySync_keeps
    | with_reducible apply keeps_ite

theorem State.relayDrive_keeps {q : List Instr} {u : Nat} {s : State} {a : Nat} {pair : Nat} {op : Nat} {width : Nat} {place : Nat} (hs : Keeps q u s) :
    Keeps q u (State.relayDrive s a pair op width place) := by
  unfold State.relayDrive
  repeat' first
    | with_reducible assumption
    | (intro x; clear_value x)
    | (lift_lets -underBinder; (intro x; clear_value x))
    | with_reducible apply keeps_foldl
    | refine fun (s : State) (h : Keeps q u s) => ?_
    | refine fun _ => ?_
    | with_reducible apply State.setRelPair_keeps
    | with_reducible apply State.set_keeps

theorem State.relayOp_keeps {q : List Instr} {u : Nat} {s : State} {a : Nat} {pair : Nat} {op : Nat} {width : Nat} {place : Nat} (hs : Keeps q u s) :
    Keeps q u (State.relayOp s a pair op width place) := by
  unfold State.relayOp
  repeat' first
    | with_reducible assumption
    | with_reducible apply State.hit_keeps
    | with_reducible apply State.relayDrive_keeps
    | with_reducible apply keeps_ite

theorem execRelayPulseEnd_keeps {q : List Instr} {u : Nat} {a : Nat} {pair : Nat} {t : Nat} {s : State} (hs : Keeps q u s) :
    KeptO q u (execRelayPulseEnd a pair t s) := by
  unfold execRelayPulseEnd
  repeat' first
    | with_reducible assumption
    | (lift_lets -underBinder; (intro s; refine cut (p := Keeps q u (s : State)) ?_ ?_; (on_goal 2 => clear_value s; intro _); (on_goal 1 => try subst s)))
    | with_reducible apply State.adv_keeps
    | with_reducible apply State.set_keeps
    | with_reducible apply keeps_ite
    | with_reducible apply keptW_ok
    | with_reducible apply keptW_no
    | with_reducible apply keptO_next
    | with_reducible apply keptW_ite
    | with_reducible apply keptO_ite
    | refine Keeps.of_ok (by with_reducible assumption) ?_
    | refine Keeps.of_no (by with_reducible assumption) ?_
    | refine Keeps.of_fst (by with_reducible assumption) ?_
    | refine Keeps.of_snd (by with_reducible assumption) ?_
    | split
    | (with_reducible apply keeps_with; with_reducible assumption)

end Sys2Proof.Machine
end

