-- ==== Sys2Proof/Laws/KeepsDrive.lean ====
section
/-! SUPPORT. What each operation of Machine/Drive.lean keeps (Laws/Keeps.lean). -/
namespace Sys2Proof.Machine

theorem State.codes_keeps {q : List Instr} {u : Nat} {s : State} {a : Nat} (hs : Keeps q u s) :
    Keeps q u (State.codes s a) := by
  unfold State.codes
  repeat' first
    | with_reducible assumption
    | (intro x; clear_value x)
    | (lift_lets -underBinder; (intro x; clear_value x))
    | with_reducible apply keeps_foldl
    | refine fun (s : State) (h : Keeps q u s) => ?_
    | refine fun _ => ?_
    | with_reducible apply State.setDs_keeps
    | with_reducible apply State.set_keeps
    | with_reducible apply keeps_ite

theorem State.restNow_keeps {q : List Instr} {u : Nat} {s : State} {a : Nat} (hs : Keeps q u s) :
    Keeps q u (State.restNow s a) := by
  unfold State.restNow
  repeat' first
    | with_reducible assumption
    | (lift_lets -underBinder; (intro x; clear_value x))
    | with_reducible apply State.setDs_keeps
    | with_reducible apply State.setB_keeps

theorem State.microSync_keeps {q : List Instr} {u : Nat} {s : State} {a : Nat} (hs : Keeps q u s) :
    Keeps q u (State.microSync s a) := by
  unfold State.microSync
  repeat' first
    | with_reducible assumption
    | (lift_lets -underBinder; (intro s; refine cut (p := Keeps q u (s : State)) ?_ ?_; (on_goal 2 => clear_value s; intro _); (on_goal 1 => try subst s)))
    | with_reducible apply State.restNow_keeps
    | with_reducible apply State.codes_keeps
    | with_reducible apply keeps_ite

theorem State.holdStep_keeps {q : List Instr} {u : Nat} {s : State} {a : Nat} (hs : Keeps q u s) :
    Keeps q u (State.holdStep s a) := by
  unfold State.holdStep
  repeat' first
    | with_reducible assumption
    | (intro s; refine cut (p := Keeps q u (s : State)) ?_ ?_; (on_goal 2 => clear_value s; intro _); (on_goal 1 => try subst s))
    | (lift_lets -underBinder; (intro x; clear_value x))
    | with_reducible apply State.setDs_keeps
    | with_reducible apply State.hit_keeps
    | with_reducible apply keeps_ite

theorem State.phaseOff_keeps {q : List Instr} {u : Nat} {s : State} {a : Nat} {p : Nat} (hs : Keeps q u s) :
    Keeps q u (State.phaseOff s a p) := by
  unfold State.phaseOff
  repeat' first
    | with_reducible assumption
    | (lift_lets -underBinder; (intro x; clear_value x))
    | with_reducible apply State.setDs_keeps

theorem State.phaseOn_keeps {q : List Instr} {u : Nat} {s : State} {a : Nat} {p : Nat} (hs : Keeps q u s) :
    Keeps q u (State.phaseOn s a p) := by
  unfold State.phaseOn
  repeat' first
    | with_reducible assumption
    | (lift_lets -underBinder; (intro x; clear_value x))
    | with_reducible apply State.setDs_keeps

theorem State.bdSync_keeps {q : List Instr} {u : Nat} {s : State} {a : Nat} (hs : Keeps q u s) :
    Keeps q u (State.bdSync s a) := by
  unfold State.bdSync
  repeat' first
    | with_reducible assumption
    | (intro s; refine cut (p := Keeps q u (s : State)) ?_ ?_; (on_goal 2 => clear_value s; intro _); (on_goal 1 => try subst s))
    | (intro x; clear_value x)
    | (lift_lets -underBinder; (intro x; clear_value x))
    | with_reducible apply keeps_foldl
    | refine fun (s : State) (h : Keeps q u s) => ?_
    | refine fun _ => ?_
    | with_reducible apply State.setDs_keeps
    | with_reducible apply State.set_keeps
    | with_reducible apply keeps_ite

theorem State.hallSync_keeps {q : List Instr} {u : Nat} {s : State} {a : Nat} (hs : Keeps q u s) :
    Keeps q u (State.hallSync s a) := by
  unfold State.hallSync
  repeat' first
    | with_reducible assumption
    | (intro s; refine cut (p := Keeps q u (s : State)) ?_ ?_; (on_goal 2 => clear_value s; intro _); (on_goal 1 => try subst s))
    | (intro x; clear_value x)
    | (lift_lets -underBinder; (intro x; clear_value x))
    | with_reducible apply State.setDs_keeps
    | with_reducible apply State.hit_keeps
    | with_reducible apply State.bdSync_keeps
    | with_reducible apply keeps_ite
    | with_reducible apply keptW_ok
    | with_reducible apply keptW_no
    | with_reducible apply keptO_next
    | with_reducible apply keptW_ite
    | with_reducible apply keptO_ite
    | refine Keeps.of_ok (by with_reducible assumption) ?_
    | refine Keeps.of_no (by with_reducible assumption) ?_
    | refine Keeps.of_fst (by with_reducible assumption) ?_
    | refine Keeps.of_snd (by with_reducible assumption) ?_
    | split

theorem State.stageOff_keeps {q : List Instr} {u : Nat} {s : State} {a : Nat} (hs : Keeps q u s) :
    Keeps q u (State.stageOff s a) := by
  unfold State.stageOff
  repeat' first
    | with_reducible assumption
    | (intro s; refine cut (p := Keeps q u (s : State)) ?_ ?_; (on_goal 2 => clear_value s; intro _); (on_goal 1 => try subst s))
    | (intro x; clear_value x)
    | (lift_lets -underBinder; (intro s; refine cut (p := Keeps q u (s : State)) ?_ ?_; (on_goal 2 => clear_value s; intro _); (on_goal 1 => try subst s)))
    | with_reducible apply State.setB_keeps
    | with_reducible apply State.setDs_keeps
    | with_reducible apply State.codes_keeps
    | with_reducible apply State.bdSync_keeps

theorem State.stageOn_keeps {q : List Instr} {u : Nat} {s : State} {a : Nat} (hs : Keeps q u s) :
    Keeps q u (State.stageOn s a) := by
  unfold State.stageOn
  repeat' first
    | with_reducible assumption
    | (lift_lets -underBinder; (intro s; refine cut (p := Keeps q u (s : State)) ?_ ?_; (on_goal 2 => clear_value s; intro _); (on_goal 1 => try subst s)))
    | with_reducible apply State.setB_keeps
    | with_reducible apply State.restNow_keeps
    | with_reducible apply State.codes_keeps
    | with_reducible apply State.bdSync_keeps

end Sys2Proof.Machine
end

