-- ==== Sys2Proof/Laws/KeepsMotion.lean ====
section
/-! SUPPORT. What each operation of Machine/Motion.lean keeps (Laws/Keeps.lean). -/
namespace Sys2Proof.Machine

theorem State.axHit_keeps {q : List Instr} {u : Nat} {s : State} {a : Nat} {bit : Nat} {cls : Nat} (hs : Keeps q u s) :
    Keeps q u (State.axHit s a bit cls) := by
  unfold State.axHit
  repeat' first
    | with_reducible assumption
    | with_reducible apply State.hit_keeps

theorem State.axShow_keeps {q : List Instr} {u : Nat} {s : State} {a : Nat} (hs : Keeps q u s) :
    Keeps q u (State.axShow s a) := by
  unfold State.axShow
  repeat' first
    | with_reducible assumption
    | (intro s; refine cut (p := Keeps q u (s : State)) ?_ ?_; (on_goal 2 => clear_value s; intro _); (on_goal 1 => try subst s))
    | (lift_lets -underBinder; (intro x; clear_value x))
    | with_reducible apply State.setI_keeps
    | with_reducible apply State.setSat_keeps
    | with_reducible apply State.set_keeps
    | with_reducible apply State.setB_keeps

theorem State.putAx_keeps {q : List Instr} {u : Nat} {s : State} {a : Nat} {x : Axis} (hs : Keeps q u s) :
    Keeps q u (State.putAx s a x) := by
  unfold State.putAx
  repeat' first
    | with_reducible assumption
    | with_reducible apply State.setAx_keeps
    | with_reducible apply State.microSync_keeps
    | with_reducible apply State.axShow_keeps

theorem State.axCount_keeps {q : List Instr} {u : Nat} {s : State} {a : Nat} (hs : Keeps q u s) :
    Keeps q u (State.axCount s a) := by
  unfold State.axCount
  repeat' first
    | with_reducible assumption
    | (intro s; refine cut (p := Keeps q u (s : State)) ?_ ?_; (on_goal 2 => clear_value s; intro _); (on_goal 1 => try subst s))
    | (intro x; clear_value x)
    | (lift_lets -underBinder; (intro x; clear_value x))
    | with_reducible apply State.setAx_keeps
    | with_reducible apply State.axShow_keeps
    | with_reducible apply keeps_ite
    | with_reducible apply keptW_ok
    | with_reducible apply keptW_no
    | with_reducible apply keptO_next
    | with_reducible apply keptW_ite
    | with_reducible apply keptO_ite
    | refine Keeps.of_ok (by with_reducible assumption) ?_
    | refine Keeps.of_no (by with_reducible assumption) ?_
    | refine Keeps.of_fst (by with_reducible assumption) ?_
    | refine Keeps.of_snd (by with_reducible assumption) ?_
    | split

theorem State.axState_keeps {q : List Instr} {u : Nat} {s : State} {a : Nat} {st : Nat} (hs : Keeps q u s) :
    Keeps q u (State.axState s a st) := by
  unfold State.axState
  repeat' first
    | with_reducible assumption
    | with_reducible apply State.set_keeps

theorem State.axFlagsOff_keeps {q : List Instr} {u : Nat} {s : State} {a : Nat} (hs : Keeps q u s) :
    Keeps q u (State.axFlagsOff s a) := by
  unfold State.axFlagsOff
  repeat' first
    | with_reducible assumption
    | with_reducible apply keeps_foldl
    | refine fun (s : State) (h : Keeps q u s) => ?_
    | refine fun _ => ?_
    | with_reducible apply State.setB_keeps

theorem State.trigRelease_keeps {q : List Instr} {u : Nat} {s : State} {a : Nat} (hs : Keeps q u s) :
    Keeps q u (State.trigRelease s a) := by
  unfold State.trigRelease
  repeat' first
    | with_reducible assumption
    | (lift_lets -underBinder; (intro x; clear_value x))
    | with_reducible apply State.msRelease_keeps
    | with_reducible apply keeps_ite

theorem State.axDisable_keeps {q : List Instr} {u : Nat} {s : State} {a : Nat} (hs : Keeps q u s) :
    Keeps q u (State.axDisable s a) := by
  unfold State.axDisable
  repeat' first
    | with_reducible assumption
    | (intro s; refine cut (p := Keeps q u (s : State)) ?_ ?_; (on_goal 2 => clear_value s; intro _); (on_goal 1 => try subst s))
    | (intro x; clear_value x)
    | (lift_lets -underBinder; (intro s; refine cut (p := Keeps q u (s : State)) ?_ ?_; (on_goal 2 => clear_value s; intro _); (on_goal 1 => try subst s)))
    | with_reducible apply State.trigRelease_keeps
    | with_reducible apply State.axFlagsOff_keeps
    | with_reducible apply State.setAx_keeps
    | with_reducible apply State.axState_keeps
    | with_reducible apply State.setB_keeps
    | with_reducible apply State.stageOff_keeps
    | with_reducible apply State.axShow_keeps
    | with_reducible apply keeps_ite

theorem State.axStopped_keeps {q : List Instr} {u : Nat} {s : State} {a : Nat} (hs : Keeps q u s) :
    Keeps q u (State.axStopped s a) := by
  unfold State.axStopped
  repeat' first
    | with_reducible assumption
    | (intro s; refine cut (p := Keeps q u (s : State)) ?_ ?_; (on_goal 2 => clear_value s; intro _); (on_goal 1 => try subst s))
    | (intro x; clear_value x)
    | (lift_lets -underBinder; (intro x; clear_value x))
    | with_reducible apply State.setAx_keeps
    | with_reducible apply State.axState_keeps
    | with_reducible apply State.axHit_keeps
    | with_reducible apply State.axDisable_keeps
    | with_reducible apply State.axShow_keeps
    | with_reducible apply keeps_ite

theorem State.axHalt_keeps {q : List Instr} {u : Nat} {s : State} {a : Nat} {cause : Nat} (hs : Keeps q u s) :
    Keeps q u (State.axHalt s a cause) := by
  unfold State.axHalt
  repeat' first
    | with_reducible assumption
    | (intro s; refine cut (p := Keeps q u (s : State)) ?_ ?_; (on_goal 2 => clear_value s; intro _); (on_goal 1 => try subst s))
    | (intro x; clear_value x)
    | (lift_lets -underBinder; (intro x; clear_value x))
    | with_reducible apply State.force_keeps
    | with_reducible apply State.setB_keeps
    | with_reducible apply State.stageOff_keeps
    | with_reducible apply State.set_keeps
    | with_reducible apply State.axFlagsOff_keeps
    | with_reducible apply State.setAx_keeps
    | with_reducible apply State.restNow_keeps
    | with_reducible apply State.codes_keeps
    | with_reducible apply State.setDs_keeps
    | with_reducible apply State.bdSync_keeps
    | with_reducible apply State.axHit_keeps
    | with_reducible apply State.axDisable_keeps
    | with_reducible apply State.axState_keeps
    | with_reducible apply State.axShow_keeps
    | with_reducible apply keeps_ite

theorem State.igClear_keeps {q : List Instr} {u : Nat} {s : State} {g : Nat} {halted : Bool} (hs : Keeps q u s) :
    Keeps q u (State.igClear s g halted) := by
  unfold State.igClear
  repeat' first
    | with_reducible assumption
    | (intro s; refine cut (p := Keeps q u (s : State)) ?_ ?_; (on_goal 2 => clear_value s; intro _); (on_goal 1 => try subst s))
    | (lift_lets -underBinder; (intro x; clear_value x))
    | with_reducible apply State.setIg_keeps
    | with_reducible apply State.set_keeps

theorem State.haltAxis_keeps {q : List Instr} {u : Nat} {s : State} {a : Nat} {cause : Nat} (hs : Keeps q u s) :
    Keeps q u (State.haltAxis s a cause) := by
  unfold State.haltAxis
  repeat' first
    | with_reducible assumption
    | refine fun (s : State) (h : Keeps q u s) => ?_
    | refine fun _ => ?_
    | (lift_lets -underBinder; (intro s; refine cut (p := Keeps q u (s : State)) ?_ ?_; (on_goal 2 => clear_value s; intro _); (on_goal 1 => try subst s)))
    | with_reducible apply State.axHalt_keeps
    | with_reducible apply State.forAll_keeps
    | with_reducible apply State.igClear_keeps
    | with_reducible apply keeps_ite
    | with_reducible apply keptW_ok
    | with_reducible apply keptW_no
    | with_reducible apply keptO_next
    | with_reducible apply keptW_ite
    | with_reducible apply keptO_ite
    | refine Keeps.of_ok (by with_reducible assumption) ?_
    | refine Keeps.of_no (by with_reducible assumption) ?_
    | refine Keeps.of_fst (by with_reducible assumption) ?_
    | refine Keeps.of_snd (by with_reducible assumption) ?_
    | split

theorem State.haltAll_keeps {q : List Instr} {u : Nat} {s : State} {cause : Nat} (hs : Keeps q u s) :
    Keeps q u (State.haltAll s cause) := by
  unfold State.haltAll
  repeat' first
    | with_reducible assumption
    | refine fun (s : State) (h : Keeps q u s) => ?_
    | refine fun _ => ?_
    | with_reducible apply State.forAll_keeps
    | with_reducible apply State.haltAxis_keeps

theorem State.igStop_keeps {q : List Instr} {u : Nat} {s : State} {g : Nat} (hs : Keeps q u s) :
    Keeps q u (State.igStop s g) := by
  unfold State.igStop
  repeat' first
    | with_reducible assumption
    | refine fun (s : State) (h : Keeps q u s) => ?_
    | refine fun _ => ?_
    | (intro s; refine cut (p := Keeps q u (s : State)) ?_ ?_; (on_goal 2 => clear_value s; intro _); (on_goal 1 => try subst s))
    | (lift_lets -underBinder; (intro x; clear_value x))
    | with_reducible apply State.forAll_keeps
    | with_reducible apply State.axFlagsOff_keeps
    | with_reducible apply State.setIg_keeps
    | with_reducible apply State.set_keeps
    | with_reducible apply State.axState_keeps
    | with_reducible apply State.axStopped_keeps
    | with_reducible apply State.igClear_keeps
    | with_reducible apply keeps_ite
    | with_reducible apply keeps_ite_fst
    | with_reducible apply keptW_ok
    | with_reducible apply keptW_no
    | with_reducible apply keptO_next
    | with_reducible apply keptW_ite
    | with_reducible apply keptO_ite
    | refine Keeps.of_ok (by with_reducible assumption) ?_
    | refine Keeps.of_no (by with_reducible assumption) ?_
    | refine Keeps.of_fst (by with_reducible assumption) ?_
    | refine Keeps.of_snd (by with_reducible assumption) ?_
    | split

theorem State.decelStop_keeps {q : List Instr} {u : Nat} {s : State} {a : Nat} {off : Bool} (hs : Keeps q u s) :
    Keeps q u (State.decelStop s a off) := by
  unfold State.decelStop
  repeat' first
    | with_reducible assumption
    | (intro s; refine cut (p := Keeps q u (s : State)) ?_ ?_; (on_goal 2 => clear_value s; intro _); (on_goal 1 => try subst s))
    | (intro x; clear_value x)
    | (lift_lets -underBinder; (intro x; clear_value x))
    | with_reducible apply State.axDisable_keeps
    | with_reducible apply State.setAx_keeps
    | with_reducible apply State.igStop_keeps
    | with_reducible apply State.axFlagsOff_keeps
    | with_reducible apply State.setB_keeps
    | with_reducible apply State.axStopped_keeps
    | with_reducible apply State.axState_keeps
    | with_reducible apply State.putAx_keeps
    | with_reducible apply keeps_ite
    | with_reducible apply keptW_ok
    | with_reducible apply keptW_no
    | with_reducible apply keptO_next
    | with_reducible apply keptW_ite
    | with_reducible apply keptO_ite
    | refine Keeps.of_ok (by with_reducible assumption) ?_
    | refine Keeps.of_no (by with_reducible assumption) ?_
    | refine Keeps.of_fst (by with_reducible assumption) ?_
    | refine Keeps.of_snd (by with_reducible assumption) ?_
    | split

theorem State.stopAll_keeps {q : List Instr} {u : Nat} {s : State} {off : Bool} (hs : Keeps q u s) :
    Keeps q u (State.stopAll s off) := by
  unfold State.stopAll
  repeat' first
    | with_reducible assumption
    | refine fun (s : State) (h : Keeps q u s) => ?_
    | refine fun _ => ?_
    | with_reducible apply State.forAll_keeps
    | with_reducible apply State.decelStop_keeps

theorem State.overLimit_keeps {q : List Instr} {u : Nat} {s : State} {a : Nat} (hs : Keeps q u s) :
    Keeps q u (State.overLimit s a) := by
  unfold State.overLimit
  repeat' first
    | with_reducible assumption
    | (lift_lets -underBinder; (intro s; refine cut (p := Keeps q u (s : State)) ?_ ?_; (on_goal 2 => clear_value s; intro _); (on_goal 1 => try subst s)))
    | with_reducible apply State.axHit_keeps
    | with_reducible apply State.decelStop_keeps
    | with_reducible apply keeps_ite

theorem State.limitCheck_keeps {q : List Instr} {u : Nat} {s : State} {a : Nat} (hs : Keeps q u s) :
    Keeps q u (State.limitCheck s a) := by
  unfold State.limitCheck
  repeat' first
    | with_reducible assumption
    | (intro s; refine cut (p := Keeps q u (s : State)) ?_ ?_; (on_goal 2 => clear_value s; intro _); (on_goal 1 => try subst s))
    | (intro x; clear_value x)
    | (lift_lets -underBinder; (intro x; clear_value x))
    | with_reducible apply State.setAx_keeps
    | with_reducible apply State.overLimit_keeps
    | with_reducible apply keeps_ite

theorem State.pushMove_keeps {q : List Instr} {u : Nat} {s : State} {a : Nat} {m : Move} (hs : Keeps q u s) :
    Keeps q u (State.pushMove s a m) := by
  unfold State.pushMove
  repeat' first
    | with_reducible assumption
    | (intro x; clear_value x)
    | (lift_lets -underBinder; (intro x; clear_value x))
    | with_reducible apply State.putAx_keeps
    | with_reducible apply keeps_ite

theorem State.tryPush_keeps {q : List Instr} {u : Nat} {s : State} {a : Nat} {owner : Nat} {m : Move} (hs : Keeps q u s) :
    KeptW q u (State.tryPush s a owner m) := by
  unfold State.tryPush
  repeat' first
    | with_reducible assumption
    | with_reducible apply State.axHit_keeps
    | with_reducible apply State.pushMove_keeps
    | with_reducible apply keeps_ite
    | with_reducible apply keptW_ok
    | with_reducible apply keptW_no
    | with_reducible apply keptO_next
    | with_reducible apply keptW_ite
    | with_reducible apply keptO_ite
    | refine Keeps.of_ok (by with_reducible assumption) ?_
    | refine Keeps.of_no (by with_reducible assumption) ?_
    | refine Keeps.of_fst (by with_reducible assumption) ?_
    | refine Keeps.of_snd (by with_reducible assumption) ?_
    | split

theorem State.slowAxis_keeps {q : List Instr} {u : Nat} {s : State} {a : Nat} (hs : Keeps q u s) :
    Keeps q u (State.slowAxis s a) := by
  unfold State.slowAxis
  repeat' first
    | with_reducible assumption
    | (intro s; refine cut (p := Keeps q u (s : State)) ?_ ?_; (on_goal 2 => clear_value s; intro _); (on_goal 1 => try subst s))
    | (intro x; clear_value x)
    | (lift_lets -underBinder; (intro x; clear_value x))
    | with_reducible apply State.setAx_keeps
    | with_reducible apply State.setB_keeps
    | with_reducible apply keeps_ite
    | with_reducible apply keptW_ok
    | with_reducible apply keptW_no
    | with_reducible apply keptO_next
    | with_reducible apply keptW_ite
    | with_reducible apply keptO_ite
    | refine Keeps.of_ok (by with_reducible assumption) ?_
    | refine Keeps.of_no (by with_reducible assumption) ?_
    | refine Keeps.of_fst (by with_reducible assumption) ?_
    | refine Keeps.of_snd (by with_reducible assumption) ?_
    | split

theorem State.startMove_keeps {q : List Instr} {u : Nat} {s : State} {a : Nat} {m : Move} {rest : List Move} (hs : Keeps q u s) :
    Keeps q u (State.startMove s a m rest) := by
  unfold State.startMove
  repeat' first
    | with_reducible assumption
    | (intro s; refine cut (p := Keeps q u (s : State)) ?_ ?_; (on_goal 2 => clear_value s; intro _); (on_goal 1 => try subst s))
    | (intro x; clear_value x)
    | (lift_lets -underBinder; first | (intro s; refine cut (p := Keeps q u (s : State)) ?_ ?_; (on_goal 2 => clear_value s; intro _); (on_goal 1 => try subst s)) | (intro x; clear_value x))
    | with_reducible apply keeps_foldl
    | refine fun (s : State) (h : Keeps q u s) => ?_
    | refine fun _ => ?_
    | with_reducible apply State.setAx_keeps
    | with_reducible apply State.axState_keeps
    | with_reducible apply State.setB_keeps

theorem State.headStart_keeps {q : List Instr} {u : Nat} {s : State} {a : Nat} (hs : Keeps q u s) :
    Keeps q u (State.headStart s a) := by
  unfold State.headStart
  repeat' first
    | with_reducible assumption
    | (intro x; clear_value x)
    | (lift_lets -underBinder; (intro x; clear_value x))
    | with_reducible apply State.setB_keeps
    | with_reducible apply State.startMove_keeps
    | with_reducible apply keeps_ite
    | with_reducible apply keptW_ok
    | with_reducible apply keptW_no
    | with_reducible apply keptO_next
    | with_reducible apply keptW_ite
    | with_reducible apply keptO_ite
    | refine Keeps.of_ok (by with_reducible assumption) ?_
    | refine Keeps.of_no (by with_reducible assumption) ?_
    | refine Keeps.of_fst (by with_reducible assumption) ?_
    | refine Keeps.of_snd (by with_reducible assumption) ?_
    | split

theorem State.moveDone_keeps {q : List Instr} {u : Nat} {s : State} {a : Nat} (hs : Keeps q u s) :
    Keeps q u (State.moveDone s a) := by
  unfold State.moveDone
  repeat' first
    | with_reducible assumption
    | (intro s; refine cut (p := Keeps q u (s : State)) ?_ ?_; (on_goal 2 => clear_value s; intro _); (on_goal 1 => try subst s))
    | (lift_lets -underBinder; (intro x; clear_value x))
    | with_reducible apply State.setAx_keeps
    | with_reducible apply State.inc_keeps
    | with_reducible apply State.axHit_keeps
    | with_reducible apply keeps_ite

theorem State.atRest_keeps {q : List Instr} {u : Nat} {s : State} {a : Nat} {inPos : Bool} (hs : Keeps q u s) :
    Keeps q u (State.atRest s a inPos) := by
  unfold State.atRest
  repeat' first
    | with_reducible assumption
    | (intro s; refine cut (p := Keeps q u (s : State)) ?_ ?_; (on_goal 2 => clear_value s; intro _); (on_goal 1 => try subst s))
    | (intro x; clear_value x)
    | (lift_lets -underBinder; (intro x; clear_value x))
    | with_reducible apply State.setAx_keeps
    | with_reducible apply State.axState_keeps
    | with_reducible apply State.setB_keeps

theorem State.afterStep_keeps {q : List Instr} {u : Nat} {s : State} {a : Nat} {pl : Plan} (hs : Keeps q u s) :
    Keeps q u (State.afterStep s a pl) := by
  unfold State.afterStep
  repeat' first
    | with_reducible assumption
    | (intro s; refine cut (p := Keeps q u (s : State)) ?_ ?_; (on_goal 2 => clear_value s; intro _); (on_goal 1 => try subst s))
    | (intro x; clear_value x)
    | (lift_lets -underBinder; first | (intro s; refine cut (p := Keeps q u (s : State)) ?_ ?_; (on_goal 2 => clear_value s; intro _); (on_goal 1 => try subst s)) | (intro x; clear_value x))
    | with_reducible apply State.axStopped_keeps
    | with_reducible apply State.atRest_keeps
    | with_reducible apply State.moveDone_keeps
    | with_reducible apply State.setAx_keeps
    | with_reducible apply State.axHit_keeps
    | with_reducible apply State.setB_keeps
    | with_reducible apply State.hit_keeps
    | with_reducible apply keeps_ite
    | with_reducible apply keptW_ok
    | with_reducible apply keptW_no
    | with_reducible apply keptO_next
    | with_reducible apply keptW_ite
    | with_reducible apply keptO_ite
    | refine Keeps.of_ok (by with_reducible assumption) ?_
    | refine Keeps.of_no (by with_reducible assumption) ?_
    | refine Keeps.of_fst (by with_reducible assumption) ?_
    | refine Keeps.of_snd (by with_reducible assumption) ?_
    | split

theorem State.axStep_keeps {q : List Instr} {u : Nat} {s : State} {a : Nat} (hs : Keeps q u s) :
    Keeps q u (State.axStep s a) := by
  unfold State.axStep
  repeat' first
    | with_reducible assumption
    | (intro s; refine cut (p := Keeps q u (s : State)) ?_ ?_; (on_goal 2 => clear_value s; intro _); (on_goal 1 => try subst s))
    | (intro x; clear_value x)
    | (lift_lets -underBinder; first | (intro s; refine cut (p := Keeps q u (s : State)) ?_ ?_; (on_goal 2 => clear_value s; intro _); (on_goal 1 => try subst s)) | (intro x; clear_value x))
    | with_reducible apply State.headStart_keeps
    | with_reducible apply State.slowAxis_keeps
    | with_reducible apply State.setAx_keeps
    | with_reducible apply State.afterStep_keeps
    | with_reducible apply keeps_ite
    | with_reducible apply keeps_ite_fst
    | with_reducible apply keeps_ite_snd
    | with_reducible apply keptW_ok
    | with_reducible apply keptW_no
    | with_reducible apply keptO_next
    | with_reducible apply keptW_ite
    | with_reducible apply keptO_ite
    | refine Keeps.of_ok (by with_reducible assumption) ?_
    | refine Keeps.of_no (by with_reducible assumption) ?_
    | refine Keeps.of_fst (by with_reducible assumption) ?_
    | refine Keeps.of_snd (by with_reducible assumption) ?_
    | split

theorem State.lagOut_keeps {q : List Instr} {u : Nat} {s : State} {a : Nat} (hs : Keeps q u s) :
    Keeps q u (State.lagOut s a) := by
  unfold State.lagOut
  repeat' first
    | with_reducible assumption
    | (lift_lets -underBinder; (intro x; clear_value x))
    | with_reducible apply State.setDs_keeps
    | with_reducible apply State.inc_keeps
    | with_reducible apply State.hit_keeps
    | with_reducible apply keeps_ite

theorem State.lagCheck_keeps {q : List Instr} {u : Nat} {s : State} {a : Nat} (hs : Keeps q u s) :
    Keeps q u (State.lagCheck s a) := by
  unfold State.lagCheck
  repeat' first
    | with_reducible assumption
    | (lift_lets -underBinder; (intro x; clear_value x))
    | with_reducible apply State.lagOut_keeps
    | with_reducible apply State.setDs_keeps
    | with_reducible apply keeps_ite

theorem State.stepEdge_keeps {q : List Instr} {u : Nat} {s : State} {a : Nat} {up : Bool} {t : Nat} (hs : Keeps q u s) :
    Keeps q u (State.stepEdge s a up t) := by
  unfold State.stepEdge
  repeat' first
    | with_reducible assumption
    | (intro x; clear_value x)
    | (lift_lets -underBinder; (intro x; clear_value x))
    | with_reducible apply State.setDs_keeps
    | with_reducible apply State.lagCheck_keeps
    | with_reducible apply keeps_ite
    | with_reducible apply keptW_ok
    | with_reducible apply keptW_no
    | with_reducible apply keptO_next
    | with_reducible apply keptW_ite
    | with_reducible apply keptO_ite
    | refine Keeps.of_ok (by with_reducible assumption) ?_
    | refine Keeps.of_no (by with_reducible assumption) ?_
    | refine Keeps.of_fst (by with_reducible assumption) ?_
    | refine Keeps.of_snd (by with_reducible assumption) ?_
    | split

theorem State.followStep_keeps {q : List Instr} {u : Nat} {s : State} {a : Nat} (hs : Keeps q u s) :
    Keeps q u (State.followStep s a) := by
  unfold State.followStep
  repeat' first
    | with_reducible assumption
    | (intro x; clear_value x)
    | (lift_lets -underBinder; (intro x; clear_value x))
    | with_reducible apply State.setAx_keeps
    | with_reducible apply State.axState_keeps
    | with_reducible apply State.lagCheck_keeps

theorem State.igStart_keeps {q : List Instr} {u : Nat} {s : State} {g : Nat} (hs : Keeps q u s) :
    Keeps q u (State.igStart s g) := by
  unfold State.igStart
  repeat' first
    | with_reducible assumption
    | refine fun (s : State) (h : Keeps q u s) => ?_
    | refine fun _ => ?_
    | refine fun (s : State) (h : Keeps q u s) => ?_
    | refine fun _ => ?_
    | (intro s; refine cut (p := Keeps q u (s : State)) ?_ ?_; (on_goal 2 => clear_value s; intro _); (on_goal 1 => try subst s))
    | (intro x; clear_value x)
    | (lift_lets -underBinder; (intro x; clear_value x))
    | with_reducible apply keeps_foldl
    | refine fun (s : State) (h : Keeps q u s) => ?_
    | refine fun _ => ?_
    | with_reducible apply State.setIg_keeps
    | with_reducible apply State.set_keeps
    | with_reducible apply State.forAll_keeps
    | with_reducible apply State.axState_keeps
    | with_reducible apply State.setB_keeps
    | with_reducible apply hf
    | with_reducible apply keeps_ite
    | with_reducible apply keeps_ite_fst
    | with_reducible apply keeps_ite_snd
    | with_reducible apply keptW_ok
    | with_reducible apply keptW_no
    | with_reducible apply keptO_next
    | with_reducible apply keptW_ite
    | with_reducible apply keptO_ite
    | refine Keeps.of_ok (by with_reducible assumption) ?_
    | refine Keeps.of_no (by with_reducible assumption) ?_
    | refine Keeps.of_fst (by with_reducible assumption) ?_
    | refine Keeps.of_snd (by with_reducible assumption) ?_
    | split

theorem State.igStep_keeps {q : List Instr} {u : Nat} {s : State} {g : Nat} (hs : Keeps q u s) :
    Keeps q u (State.igStep s g) := by
  unfold State.igStep
  repeat' first
    | with_reducible assumption
    | refine fun (s : State) (h : Keeps q u s) => ?_
    | refine fun _ => ?_
    | (intro s; refine cut (p := Keeps q u (s : State)) ?_ ?_; (on_goal 2 => clear_value s; intro _); (on_goal 1 => try subst s))
    | (intro x; clear_value x)
    | (lift_lets -underBinder; first | (intro s; refine cut (p := Keeps q u (s : State)) ?_ ?_; (on_goal 2 => clear_value s; intro _); (on_goal 1 => try subst s)) | (intro x; clear_value x))
    | with_reducible apply keeps_foldl
    | refine fun (s : State) (h : Keeps q u s) => ?_
    | refine fun _ => ?_
    | with_reducible apply State.igStart_keeps
    | with_reducible apply State.setIg_keeps
    | with_reducible apply State.setAx_keeps
    | with_reducible apply State.igClear_keeps
    | with_reducible apply State.forAll_keeps
    | with_reducible apply State.axStopped_keeps
    | with_reducible apply State.set_keeps
    | with_reducible apply State.axState_keeps
    | with_reducible apply State.setB_keeps
    | with_reducible apply keeps_ite
    | with_reducible apply keeps_ite_fst
    | with_reducible apply keeps_ite_snd
    | with_reducible apply keptW_ok
    | with_reducible apply keptW_no
    | with_reducible apply keptO_next
    | with_reducible apply keptW_ite
    | with_reducible apply keptO_ite
    | refine Keeps.of_ok (by with_reducible assumption) ?_
    | refine Keeps.of_no (by with_reducible assumption) ?_
    | refine Keeps.of_fst (by with_reducible assumption) ?_
    | refine Keeps.of_snd (by with_reducible assumption) ?_
    | split

theorem State.followOut_keeps {q : List Instr} {u : Nat} {s : State} {a : Nat} (hs : Keeps q u s) :
    Keeps q u (State.followOut s a) := by
  unfold State.followOut
  repeat' first
    | with_reducible assumption
    | (lift_lets -underBinder; (intro x; clear_value x))
    | with_reducible apply State.setAx_keeps
    | with_reducible apply State.inc_keeps
    | with_reducible apply State.axHit_keeps
    | with_reducible apply keeps_ite

theorem State.followCheck_keeps {q : List Instr} {u : Nat} {s : State} {a : Nat} (hs : Keeps q u s) :
    Keeps q u (State.followCheck s a) := by
  unfold State.followCheck
  repeat' first
    | with_reducible assumption
    | (intro x; clear_value x)
    | (lift_lets -underBinder; (intro x; clear_value x))
    | with_reducible apply State.followOut_keeps
    | with_reducible apply State.setAx_keeps
    | with_reducible apply keeps_ite

theorem State.axHome_keeps {q : List Instr} {u : Nat} {s : State} {a : Nat} (hs : Keeps q u s) :
    Keeps q u (State.axHome s a) := by
  unfold State.axHome
  repeat' first
    | with_reducible assumption
    | (intro s; refine cut (p := Keeps q u (s : State)) ?_ ?_; (on_goal 2 => clear_value s; intro _); (on_goal 1 => try subst s))
    | (intro x; clear_value x)
    | (lift_lets -underBinder; (intro x; clear_value x))
    | with_reducible apply State.setB_keeps
    | with_reducible apply State.axHit_keeps
    | with_reducible apply State.putAx_keeps
    | with_reducible apply keeps_ite
    | with_reducible apply keptW_ok
    | with_reducible apply keptW_no
    | with_reducible apply keptO_next
    | with_reducible apply keptW_ite
    | with_reducible apply keptO_ite
    | refine Keeps.of_ok (by with_reducible assumption) ?_
    | refine Keeps.of_no (by with_reducible assumption) ?_
    | refine Keeps.of_fst (by with_reducible assumption) ?_
    | refine Keeps.of_snd (by with_reducible assumption) ?_
    | split

theorem State.axPiFault_keeps {q : List Instr} {u : Nat} {s : State} {i : Nat} (hs : Keeps q u s) :
    Keeps q u (State.axPiFault s i) := by
  unfold State.axPiFault
  repeat' first
    | with_reducible assumption
    | refine fun (s : State) (h : Keeps q u s) => ?_
    | refine fun _ => ?_
    | with_reducible apply State.forAll_keeps
    | with_reducible apply State.haltAxis_keeps
    | with_reducible apply keeps_ite

theorem State.axEdge_keeps {q : List Instr} {u : Nat} {s : State} {i : Nat} {up : Bool} {t : Nat} (hs : Keeps q u s) :
    Keeps q u (State.axEdge s i up t) := by
  unfold State.axEdge
  repeat' first
    | with_reducible assumption
    | refine fun (s : State) (h : Keeps q u s) => ?_
    | refine fun _ => ?_
    | (lift_lets -underBinder; (intro s; refine cut (p := Keeps q u (s : State)) ?_ ?_; (on_goal 2 => clear_value s; intro _); (on_goal 1 => try subst s)))
    | with_reducible apply State.forAll_keeps
    | with_reducible apply State.stepEdge_keeps
    | with_reducible apply State.axCount_keeps
    | with_reducible apply State.limitCheck_keeps
    | with_reducible apply keeps_ite

theorem State.axTrigger_keeps {q : List Instr} {u : Nat} {s : State} {m : Nat} (hs : Keeps q u s) :
    Keeps q u (State.axTrigger s m) := by
  unfold State.axTrigger
  repeat' first
    | with_reducible assumption
    | refine fun (s : State) (h : Keeps q u s) => ?_
    | refine fun _ => ?_
    | (lift_lets -underBinder; (intro x; clear_value x))
    | with_reducible apply State.forAll_keeps
    | with_reducible apply State.setAx_keeps
    | with_reducible apply keeps_ite

end Sys2Proof.Machine
end

