-- ==== Sys2Proof/Laws/KeepsMaint.lean ====
section
/-! SUPPORT. What each operation of Machine/Maint.lean keeps (Laws/Keeps.lean). -/
namespace Sys2Proof.Machine

theorem State.mtHit_keeps {q : List Instr} {u : Nat} {s : State} {bit : Nat} (hs : Keeps q u s) :
    Keeps q u (State.mtHit s bit) := by
  unfold State.mtHit
  repeat' first
    | with_reducible assumption
    | with_reducible apply State.hit_keeps

theorem State.mtTo_keeps {q : List Instr} {u : Nat} {s : State} {k : Nat} {st : Nat} (hs : Keeps q u s) :
    Keeps q u (State.mtTo s k st) := by
  unfold State.mtTo
  repeat' first
    | with_reducible assumption
    | with_reducible apply State.set_keeps
    | with_reducible apply State.setB_keeps

theorem State.mtClaim_keeps {q : List Instr} {u : Nat} {s : State} {k : Nat} (hs : Keeps q u s) :
    Keeps q u (State.mtClaim s k) := by
  unfold State.mtClaim
  repeat' first
    | with_reducible assumption
    | refine fun (s : State) (h : Keeps q u s) => ?_
    | refine fun _ => ?_
    | (intro s; refine cut (p := Keeps q u (s : State)) ?_ ?_; (on_goal 2 => clear_value s; intro _); (on_goal 1 => try subst s))
    | (intro x; clear_value x)
    | (lift_lets -underBinder; (intro x; clear_value x))
    | with_reducible apply State.setMt_keeps
    | with_reducible apply State.forAll_keeps
    | with_reducible apply State.setB_keeps
    | with_reducible apply State.senseWithdraw_keeps
    | with_reducible apply State.set_keeps
    | with_reducible apply State.axShow_keeps
    | with_reducible apply State.senseGrant_keeps

theorem State.mtRelease_keeps {q : List Instr} {u : Nat} {s : State} {k : Nat} (hs : Keeps q u s) :
    Keeps q u (State.mtRelease s k) := by
  unfold State.mtRelease
  repeat' first
    | with_reducible assumption
    | refine fun (s : State) (h : Keeps q u s) => ?_
    | refine fun _ => ?_
    | (intro s; refine cut (p := Keeps q u (s : State)) ?_ ?_; (on_goal 2 => clear_value s; intro _); (on_goal 1 => try subst s))
    | (lift_lets -underBinder; (intro x; clear_value x))
    | with_reducible apply State.relayDrive_keeps
    | with_reducible apply State.forAll_keeps
    | with_reducible apply State.maintGone_keeps
    | with_reducible apply State.setB_keeps
    | with_reducible apply State.set_keeps
    | with_reducible apply State.axShow_keeps
    | with_reducible apply State.setMt_keeps
    | with_reducible apply State.senseDrop_keeps
    | with_reducible apply keeps_ite
    | with_reducible apply keptW_ok
    | with_reducible apply keptW_no
    | with_reducible apply keptO_next
    | with_reducible apply keptW_ite
    | with_reducible apply keptO_ite
    | refine Keeps.of_ok (by with_reducible assumption) ?_
    | refine Keeps.of_no (by with_reducible assumption) ?_
    | refine Keeps.of_fst (by with_reducible assumption) ?_
    | refine Keeps.of_snd (by with_reducible assumption) ?_
    | split

theorem State.mtStop_keeps {q : List Instr} {u : Nat} {s : State} {k : Nat} {result : Nat} (hs : Keeps q u s) :
    Keeps q u (State.mtStop s k result) := by
  unfold State.mtStop
  repeat' first
    | with_reducible assumption
    | refine fun (s : State) (h : Keeps q u s) => ?_
    | refine fun _ => ?_
    | (intro s; refine cut (p := Keeps q u (s : State)) ?_ ?_; (on_goal 2 => clear_value s; intro _); (on_goal 1 => try subst s))
    | (lift_lets -underBinder; (intro x; clear_value x))
    | with_reducible apply State.mtTo_keeps
    | with_reducible apply State.set_keeps
    | with_reducible apply State.relayDrive_keeps
    | with_reducible apply State.senseDrop_keeps
    | with_reducible apply State.forAll_keeps
    | with_reducible apply State.maintGone_keeps
    | with_reducible apply State.decelStop_keeps
    | with_reducible apply keeps_ite
    | with_reducible apply keptW_ok
    | with_reducible apply keptW_no
    | with_reducible apply keptO_next
    | with_reducible apply keptW_ite
    | with_reducible apply keptO_ite
    | refine Keeps.of_ok (by with_reducible assumption) ?_
    | refine Keeps.of_no (by with_reducible assumption) ?_
    | refine Keeps.of_fst (by with_reducible assumption) ?_
    | refine Keeps.of_snd (by with_reducible assumption) ?_
    | split

theorem State.mtMove_keeps {q : List Instr} {u : Nat} {s : State} {k : Nat} {a : Nat} {pos : Int} (hs : Keeps q u s) :
    Keeps q u (State.mtMove s k a pos) := by
  unfold State.mtMove
  repeat' first
    | with_reducible assumption
    | (lift_lets -underBinder; (intro x; clear_value x))
    | with_reducible apply State.tryPush_keeps
    | with_reducible apply State.setMt_keeps
    | with_reducible apply State.mtStop_keeps
    | with_reducible apply keeps_ite
    | with_reducible apply keptW_ok
    | with_reducible apply keptW_no
    | with_reducible apply keptO_next
    | with_reducible apply keptW_ite
    | with_reducible apply keptO_ite
    | refine Keeps.of_ok (by with_reducible assumption) ?_
    | refine Keeps.of_no (by with_reducible assumption) ?_
    | refine Keeps.of_fst (by with_reducible assumption) ?_
    | refine Keeps.of_snd (by with_reducible assumption) ?_
    | split

theorem State.mtWait_keeps {q : List Instr} {u : Nat} {s : State} {k : Nat} {part : Nat} {us : Nat} (hs : Keeps q u s) :
    Keeps q u (State.mtWait s k part us) := by
  unfold State.mtWait
  repeat' first
    | with_reducible assumption
    | (lift_lets -underBinder; (intro x; clear_value x))
    | with_reducible apply State.setMt_keeps

theorem State.maintFrame_keeps {q : List Instr} {u : Nat} {s : State} {n : Nat} {edge : Nat} {codes : List Nat} (hs : Keeps q u s) :
    Keeps q u (State.maintFrame s n edge codes) := by
  unfold State.maintFrame
  repeat' first
    | with_reducible assumption
    | (intro s; refine cut (p := Keeps q u (s : State)) ?_ ?_; (on_goal 2 => clear_value s; intro _); (on_goal 1 => try subst s))
    | (intro x; clear_value x)
    | (lift_lets -underBinder; (intro x; clear_value x))
    | with_reducible apply State.setLink_keeps
    | with_reducible apply State.setSched_keeps
    | with_reducible apply State.codes_keeps
    | with_reducible apply State.frameOut_keeps

theorem State.spitFrame_keeps {q : List Instr} {u : Nat} {s : State} {k : Nat} {n : Nat} {i : Nat} (hs : Keeps q u s) :
    Keeps q u (State.spitFrame s k n i) := by
  unfold State.spitFrame
  repeat' first
    | with_reducible assumption
    | (intro x; clear_value x)
    | (lift_lets -underBinder; (intro x; clear_value x))
    | with_reducible apply State.codes_keeps
    | with_reducible apply State.maintFrame_keeps
    | with_reducible apply keeps_ite

theorem State.spitBegin_keeps {q : List Instr} {u : Nat} {s : State} {k : Nat} (hs : Keeps q u s) :
    Keeps q u (State.spitBegin s k) := by
  unfold State.spitBegin
  repeat' first
    | with_reducible assumption
    | refine fun (s : State) (h : Keeps q u s) => ?_
    | refine fun _ => ?_
    | (intro s; refine cut (p := Keeps q u (s : State)) ?_ ?_; (on_goal 2 => clear_value s; intro _); (on_goal 1 => try subst s))
    | (intro x; clear_value x)
    | (lift_lets -underBinder; (intro x; clear_value x))
    | with_reducible apply keeps_foldl
    | refine fun (s : State) (h : Keeps q u s) => ?_
    | refine fun _ => ?_
    | with_reducible apply State.setMt_keeps
    | with_reducible apply State.forAll_keeps
    | with_reducible apply State.spitFrame_keeps

theorem State.fastAsk_keeps {q : List Instr} {u : Nat} {s : State} {k : Nat} {n : Nat} (hs : Keeps q u s) :
    Keeps q u (State.fastAsk s k n) := by
  unfold State.fastAsk
  repeat' first
    | with_reducible assumption
    | (intro x; clear_value x)
    | (lift_lets -underBinder; (intro x; clear_value x))
    | with_reducible apply State.senseAsk_keeps
    | with_reducible apply keeps_ite
    | with_reducible apply keptW_ok
    | with_reducible apply keptW_no
    | with_reducible apply keptO_next
    | with_reducible apply keptW_ite
    | with_reducible apply keptO_ite
    | refine Keeps.of_ok (by with_reducible assumption) ?_
    | refine Keeps.of_no (by with_reducible assumption) ?_
    | refine Keeps.of_fst (by with_reducible assumption) ?_
    | refine Keeps.of_snd (by with_reducible assumption) ?_
    | split

theorem State.mtBody_keeps {q : List Instr} {u : Nat} {s : State} {k : Nat} (hs : Keeps q u s) :
    Keeps q u (State.mtBody s k) := by
  unfold State.mtBody
  repeat' first
    | with_reducible assumption
    | refine fun (s : State) (h : Keeps q u s) => ?_
    | refine fun _ => ?_
    | (intro s; refine cut (p := Keeps q u (s : State)) ?_ ?_; (on_goal 2 => clear_value s; intro _); (on_goal 1 => try subst s))
    | (intro x; clear_value x)
    | (lift_lets -underBinder; (intro s; refine cut (p := Keeps q u (s : State)) ?_ ?_; (on_goal 2 => clear_value s; intro _); (on_goal 1 => try subst s)))
    | with_reducible apply State.mtTo_keeps
    | with_reducible apply State.setMt_keeps
    | with_reducible apply State.spitBegin_keeps
    | with_reducible apply State.mtMove_keeps
    | with_reducible apply State.relayDrive_keeps
    | with_reducible apply State.mtWait_keeps
    | with_reducible apply State.forAll_keeps
    | with_reducible apply State.fastAsk_keeps
    | with_reducible apply State.setB_keeps
    | with_reducible apply keeps_ite
    | with_reducible apply keptW_ok
    | with_reducible apply keptW_no
    | with_reducible apply keptO_next
    | with_reducible apply keptW_ite
    | with_reducible apply keptO_ite
    | refine Keeps.of_ok (by with_reducible assumption) ?_
    | refine Keeps.of_no (by with_reducible assumption) ?_
    | refine Keeps.of_fst (by with_reducible assumption) ?_
    | refine Keeps.of_snd (by with_reducible assumption) ?_
    | split

theorem State.mtBegin_keeps {q : List Instr} {u : Nat} {s : State} {k : Nat} (hs : Keeps q u s) :
    Keeps q u (State.mtBegin s k) := by
  unfold State.mtBegin
  repeat' first
    | with_reducible assumption
    | (intro s; refine cut (p := Keeps q u (s : State)) ?_ ?_; (on_goal 2 => clear_value s; intro _); (on_goal 1 => try subst s))
    | (lift_lets -underBinder; (intro s; refine cut (p := Keeps q u (s : State)) ?_ ?_; (on_goal 2 => clear_value s; intro _); (on_goal 1 => try subst s)))
    | with_reducible apply State.mtClaim_keeps
    | with_reducible apply State.set_keeps
    | with_reducible apply State.mtTo_keeps
    | with_reducible apply State.mtMove_keeps
    | with_reducible apply State.mtBody_keeps
    | with_reducible apply keeps_ite
    | with_reducible apply keptW_ok
    | with_reducible apply keptW_no
    | with_reducible apply keptO_next
    | with_reducible apply keptW_ite
    | with_reducible apply keptO_ite
    | refine Keeps.of_ok (by with_reducible assumption) ?_
    | refine Keeps.of_no (by with_reducible assumption) ?_
    | refine Keeps.of_fst (by with_reducible assumption) ?_
    | refine Keeps.of_snd (by with_reducible assumption) ?_
    | split

theorem State.mtTry_keeps {q : List Instr} {u : Nat} {s : State} {k : Nat} (hs : Keeps q u s) :
    KeptW q u (State.mtTry s k) := by
  unfold State.mtTry
  repeat' first
    | with_reducible assumption
    | with_reducible apply State.set_keeps
    | with_reducible apply State.mtHit_keeps
    | with_reducible apply State.mtBegin_keeps
    | with_reducible apply keeps_ite
    | with_reducible apply keptW_ok
    | with_reducible apply keptW_no
    | with_reducible apply keptO_next
    | with_reducible apply keptW_ite
    | with_reducible apply keptO_ite
    | refine Keeps.of_ok (by with_reducible assumption) ?_
    | refine Keeps.of_no (by with_reducible assumption) ?_
    | refine Keeps.of_fst (by with_reducible assumption) ?_
    | refine Keeps.of_snd (by with_reducible assumption) ?_
    | split

theorem State.mtFinish_keeps {q : List Instr} {u : Nat} {s : State} {k : Nat} (hs : Keeps q u s) :
    Keeps q u (State.mtFinish s k) := by
  unfold State.mtFinish
  repeat' first
    | with_reducible assumption
    | (intro s; refine cut (p := Keeps q u (s : State)) ?_ ?_; (on_goal 2 => clear_value s; intro _); (on_goal 1 => try subst s))
    | (intro x; clear_value x)
    | (lift_lets -underBinder; (intro x; clear_value x))
    | with_reducible apply KeptW.state
    | with_reducible apply State.mtTo_keeps
    | with_reducible apply State.set_keeps
    | with_reducible apply State.mtRelease_keeps
    | with_reducible apply State.mtHit_keeps
    | with_reducible apply State.mtTry_keeps
    | with_reducible apply WRes.state_keeps
    | with_reducible apply keeps_ite

theorem State.mtBodyDone_keeps {q : List Instr} {u : Nat} {s : State} {k : Nat} (hs : Keeps q u s) :
    Keeps q u (State.mtBodyDone s k) := by
  unfold State.mtBodyDone
  repeat' first
    | with_reducible assumption
    | with_reducible apply State.mtTo_keeps
    | with_reducible apply State.mtMove_keeps
    | with_reducible apply State.mtFinish_keeps
    | with_reducible apply keeps_ite
    | with_reducible apply keptW_ok
    | with_reducible apply keptW_no
    | with_reducible apply keptO_next
    | with_reducible apply keptW_ite
    | with_reducible apply keptO_ite
    | refine Keeps.of_ok (by with_reducible assumption) ?_
    | refine Keeps.of_no (by with_reducible assumption) ?_
    | refine Keeps.of_fst (by with_reducible assumption) ?_
    | refine Keeps.of_snd (by with_reducible assumption) ?_
    | split

theorem State.setCapped_keeps {q : List Instr} {u : Nat} {s : State} {n : Nat} {on : Bool} (hs : Keeps q u s) :
    Keeps q u (State.setCapped s n on) := by
  unfold State.setCapped
  repeat' first
    | with_reducible assumption
    | with_reducible apply State.setB_keeps
    | with_reducible apply State.mtHit_keeps
    | with_reducible apply keeps_ite

theorem State.stroke_keeps {q : List Instr} {u : Nat} {s : State} {k : Nat} {a : Nat} (hs : Keeps q u s) :
    Keeps q u (State.stroke s k a) := by
  unfold State.stroke
  repeat' first
    | with_reducible assumption
    | (intro x; clear_value x)
    | (lift_lets -underBinder; (intro x; clear_value x))
    | with_reducible apply State.setMt_keeps
    | with_reducible apply State.mtMove_keeps

theorem State.auxThere_keeps {q : List Instr} {u : Nat} {s : State} {k : Nat} {a : Nat} (hs : Keeps q u s) :
    Keeps q u (State.auxThere s k a) := by
  unfold State.auxThere
  repeat' first
    | with_reducible assumption
    | with_reducible apply State.stroke_keeps
    | with_reducible apply State.inc_keeps
    | with_reducible apply State.mtWait_keeps
    | with_reducible apply keeps_ite
    | with_reducible apply keptW_ok
    | with_reducible apply keptW_no
    | with_reducible apply keptO_next
    | with_reducible apply keptW_ite
    | with_reducible apply keptO_ite
    | refine Keeps.of_ok (by with_reducible assumption) ?_
    | refine Keeps.of_no (by with_reducible assumption) ?_
    | refine Keeps.of_fst (by with_reducible assumption) ?_
    | refine Keeps.of_snd (by with_reducible assumption) ?_
    | split

theorem State.dwellOver_keeps {q : List Instr} {u : Nat} {s : State} {k : Nat} (hs : Keeps q u s) :
    Keeps q u (State.dwellOver s k) := by
  unfold State.dwellOver
  repeat' first
    | with_reducible assumption
    | refine fun (s : State) (h : Keeps q u s) => ?_
    | refine fun _ => ?_
    | (lift_lets -underBinder; first | (intro s; refine cut (p := Keeps q u (s : State)) ?_ ?_; (on_goal 2 => clear_value s; intro _); (on_goal 1 => try subst s)) | (intro x; clear_value x))
    | with_reducible apply State.mtBodyDone_keeps
    | with_reducible apply State.stroke_keeps
    | with_reducible apply State.forAll_keeps
    | with_reducible apply State.setCapped_keeps
    | with_reducible apply State.relayDrive_keeps
    | with_reducible apply State.mtWait_keeps
    | with_reducible apply State.spitBegin_keeps
    | with_reducible apply keeps_ite
    | with_reducible apply keptW_ok
    | with_reducible apply keptW_no
    | with_reducible apply keptO_next
    | with_reducible apply keptW_ite
    | with_reducible apply keptO_ite
    | refine Keeps.of_ok (by with_reducible assumption) ?_
    | refine Keeps.of_no (by with_reducible assumption) ?_
    | refine Keeps.of_fst (by with_reducible assumption) ?_
    | refine Keeps.of_snd (by with_reducible assumption) ?_
    | split

theorem State.deepFinish_keeps {q : List Instr} {u : Nat} {s : State} {k : Nat} {n : Nat} (hs : Keeps q u s) :
    Keeps q u (State.deepFinish s k n) := by
  unfold State.deepFinish
  repeat' first
    | with_reducible assumption
    | (intro s; refine cut (p := Keeps q u (s : State)) ?_ ?_; (on_goal 2 => clear_value s; intro _); (on_goal 1 => try subst s))
    | (intro x; clear_value x)
    | (lift_lets -underBinder; first | (intro s; refine cut (p := Keeps q u (s : State)) ?_ ?_; (on_goal 2 => clear_value s; intro _); (on_goal 1 => try subst s)) | (intro x; clear_value x))
    | with_reducible apply keeps_foldl
    | refine fun (s : State) (h : Keeps q u s) => ?_
    | refine fun _ => ?_
    | with_reducible apply State.deepStore_keeps
    | with_reducible apply State.set_keeps
    | with_reducible apply State.setB_keeps
    | with_reducible apply State.setHealth_keeps
    | with_reducible apply State.maskNozzle_keeps
    | with_reducible apply State.recPend_keeps
    | with_reducible apply keeps_ite
    | with_reducible apply keeps_ite_fst
    | with_reducible apply keeps_ite_snd
    | with_reducible apply keptW_ok
    | with_reducible apply keptW_no
    | with_reducible apply keptO_next
    | with_reducible apply keptW_ite
    | with_reducible apply keptO_ite
    | refine Keeps.of_ok (by with_reducible assumption) ?_
    | refine Keeps.of_no (by with_reducible assumption) ?_
    | refine Keeps.of_fst (by with_reducible assumption) ?_
    | refine Keeps.of_snd (by with_reducible assumption) ?_
    | split

theorem State.mtCheck_keeps {q : List Instr} {u : Nat} {s : State} {k : Nat} (hs : Keeps q u s) :
    Keeps q u (State.mtCheck s k) := by
  unfold State.mtCheck
  repeat' first
    | with_reducible assumption
    | (intro x; clear_value x)
    | (lift_lets -underBinder; (intro x; clear_value x))
    | with_reducible apply State.mtTo_keeps
    | with_reducible apply State.mtRelease_keeps
    | with_reducible apply State.mtHit_keeps
    | with_reducible apply State.mtStop_keeps
    | with_reducible apply State.mtBody_keeps
    | with_reducible apply State.mtFinish_keeps
    | with_reducible apply State.auxThere_keeps
    | with_reducible apply State.mtBodyDone_keeps
    | with_reducible apply keeps_ite
    | with_reducible apply keptW_ok
    | with_reducible apply keptW_no
    | with_reducible apply keptO_next
    | with_reducible apply keptW_ite
    | with_reducible apply keptO_ite
    | refine Keeps.of_ok (by with_reducible assumption) ?_
    | refine Keeps.of_no (by with_reducible assumption) ?_
    | refine Keeps.of_fst (by with_reducible assumption) ?_
    | refine Keeps.of_snd (by with_reducible assumption) ?_
    | split

theorem State.mtSync_keeps {q : List Instr} {u : Nat} {s : State} (hs : Keeps q u s) :
    Keeps q u (State.mtSync s) := by
  unfold State.mtSync
  repeat' first
    | with_reducible assumption
    | refine fun (s : State) (h : Keeps q u s) => ?_
    | refine fun _ => ?_
    | with_reducible apply State.forAll_keeps
    | with_reducible apply State.mtCheck_keeps

theorem State.maintRotate_keeps {q_ : List Instr} {u_ : Nat} {s : State} {k : Nat} {n : Nat} {x : TLine} {u : Nat} {start : Nat} {newRun : Bool} (hs : Keeps q_ u_ s) :
    Keeps q_ u_ (State.maintRotate s k n x u start newRun).1 := by
  unfold State.maintRotate
  repeat' first
    | with_reducible assumption
    | (intro s; refine cut (p := Keeps q_ u_ (s : State)) ?_ ?_; (on_goal 2 => clear_value s; intro _); (on_goal 1 => try subst s))
    | (intro s; refine cut (p := Keeps q_ u_ (s.1 : State)) ?_ ?_; (on_goal 2 => clear_value s; intro _); (on_goal 1 => try subst s))
    | (intro x; clear_value x)
    | (lift_lets -underBinder; (intro s; refine cut (p := Keeps q_ u_ (s : State)) ?_ ?_; (on_goal 2 => clear_value s; intro _); (on_goal 1 => try subst s)))
    | with_reducible apply State.ptLatch_keeps
    | with_reducible apply State.regulate_keeps
    | with_reducible apply State.headBlank_keeps
    | with_reducible apply State.rotReset_keeps
    | with_reducible apply State.setFire_keeps
    | with_reducible apply State.setSched_keeps
    | with_reducible apply State.rotate_keeps
    | with_reducible apply keeps_ite

theorem execSpitRotationDue_keeps {q : List Instr} {u : Nat} {k : Nat} {n : Nat} {t : Nat} {s : State} (hs : Keeps q u s) :
    KeptO q u (execSpitRotationDue k n t s) := by
  unfold execSpitRotationDue
  repeat' first
    | with_reducible assumption
    | (intro s; refine cut (p := Keeps q u (s : State)) ?_ ?_; (on_goal 2 => clear_value s; intro _); (on_goal 1 => try subst s))
    | (intro x; clear_value x)
    | (lift_lets -underBinder; (intro s; refine cut (p := Keeps q u (s : State)) ?_ ?_; (on_goal 2 => clear_value s; intro _); (on_goal 1 => try subst s)))
    | with_reducible apply State.advPort_keeps
    | with_reducible apply State.maintRotate_keeps
    | with_reducible apply State.setMt_keeps
    | with_reducible apply State.inc_keeps
    | with_reducible apply State.spitFrame_keeps
    | with_reducible apply keeps_ite
    | with_reducible apply keeps_ite_fst
    | with_reducible apply keptW_ok
    | with_reducible apply keptW_no
    | with_reducible apply keptO_next
    | with_reducible apply keptW_ite
    | with_reducible apply keptO_ite
    | refine Keeps.of_ok (by with_reducible assumption) ?_
    | refine Keeps.of_no (by with_reducible assumption) ?_
    | refine Keeps.of_fst (by with_reducible assumption) ?_
    | refine Keeps.of_snd (by with_reducible assumption) ?_
    | split

theorem execRotationEnd_keeps {q : List Instr} {u : Nat} {n : Nat} {t : Nat} {s : State} (hs : Keeps q u s) :
    KeptO q u (execRotationEnd n t s) := by
  unfold execRotationEnd
  repeat' first
    | with_reducible assumption
    | with_reducible apply State.advPort_keeps
    | with_reducible apply State.rotationEnd_keeps
    | with_reducible apply State.mtSync_keeps
    | with_reducible apply WRes.mtSync_keeps
    | with_reducible apply keeps_ite
    | with_reducible apply keptW_ok
    | with_reducible apply keptW_no
    | with_reducible apply keptO_next

theorem State.fastAgain_keeps {q : List Instr} {u : Nat} {s : State} {k : Nat} {n : Nat} (hs : Keeps q u s) :
    Keeps q u (State.fastAgain s k n) := by
  unfold State.fastAgain
  repeat' first
    | with_reducible assumption
    | with_reducible apply State.fastAsk_keeps
    | with_reducible apply State.mtSync_keeps

theorem State.fastNext_keeps {q : List Instr} {u : Nat} {s : State} {k : Nat} {n : Nat} {passed : Option Nat} (hs : Keeps q u s) :
    Keeps q u (State.fastNext s k n passed) := by
  unfold State.fastNext
  repeat' first
    | with_reducible assumption
    | (intro s; refine cut (p := Keeps q u (s : State)) ?_ ?_; (on_goal 2 => clear_value s; intro _); (on_goal 1 => try subst s))
    | (lift_lets -underBinder; (intro x; clear_value x))
    | with_reducible apply State.setMt_keeps
    | with_reducible apply State.inc_keeps
    | with_reducible apply State.fastAsk_keeps
    | with_reducible apply State.mtSync_keeps
    | with_reducible apply WRes.mtSync_keeps
    | with_reducible apply keeps_ite
    | with_reducible apply keptW_ok
    | with_reducible apply keptW_no
    | with_reducible apply keptO_next
    | with_reducible apply keptW_ite
    | with_reducible apply keptO_ite
    | refine Keeps.of_ok (by with_reducible assumption) ?_
    | refine Keeps.of_no (by with_reducible assumption) ?_
    | refine Keeps.of_fst (by with_reducible assumption) ?_
    | refine Keeps.of_snd (by with_reducible assumption) ?_
    | split

theorem State.deepNext_keeps {q : List Instr} {u : Nat} {s : State} {k : Nat} {n : Nat} {z : Nat} (hs : Keeps q u s) :
    Keeps q u (State.deepNext s k n z) := by
  unfold State.deepNext
  repeat' first
    | with_reducible assumption
    | (intro s; refine cut (p := Keeps q u (s : State)) ?_ ?_; (on_goal 2 => clear_value s; intro _); (on_goal 1 => try subst s))
    | (lift_lets -underBinder; (intro x; clear_value x))
    | with_reducible apply State.setMt_keeps
    | with_reducible apply State.inc_keeps
    | with_reducible apply State.deepFinish_keeps
    | with_reducible apply State.mtSync_keeps
    | with_reducible apply WRes.mtSync_keeps
    | with_reducible apply keeps_ite

theorem State.deepFail_keeps {q : List Instr} {u : Nat} {s : State} {k : Nat} {n : Nat} {z : Nat} (hs : Keeps q u s) :
    Keeps q u (State.deepFail s k n z) := by
  unfold State.deepFail
  repeat' first
    | with_reducible assumption
    | with_reducible apply State.deepStore_keeps
    | with_reducible apply State.deepNext_keeps

theorem State.deepReading_keeps {q_ : List Instr} {u_ : Nat} {s : State} {k : Nat} {n : Nat} {z : Nat} {u : Nat} (hs : Keeps q_ u_ s) :
    Keeps q_ u_ (State.deepReading s k n z u).1 := by
  unfold State.deepReading
  repeat' first
    | with_reducible assumption
    | (intro s; refine cut (p := Keeps q_ u_ (s : State)) ?_ ?_; (on_goal 2 => clear_value s; intro _); (on_goal 1 => try subst s))
    | (intro s; refine cut (p := Keeps q_ u_ (s.1 : State)) ?_ ?_; (on_goal 2 => clear_value s; intro _); (on_goal 1 => try subst s))
    | (intro x; clear_value x)
    | (lift_lets -underBinder; first | (intro s; refine cut (p := Keeps q_ u_ (s.2 : State)) ?_ ?_; (on_goal 2 => clear_value s; intro _); (on_goal 1 => try subst s)) | (intro x; clear_value x))
    | with_reducible apply State.resistance_keeps
    | with_reducible apply State.setMt_keeps
    | with_reducible apply State.codes_keeps
    | with_reducible apply State.deepFail_keeps
    | with_reducible apply State.maintFrame_keeps
    | with_reducible apply State.maintRotate_keeps
    | with_reducible apply State.deepStore_keeps
    | with_reducible apply State.deepNext_keeps
    | with_reducible apply keeps_ite
    | with_reducible apply keeps_ite_fst
    | with_reducible apply keeps_ite_snd
    | with_reducible apply keptW_ok
    | with_reducible apply keptW_no
    | with_reducible apply keptO_next
    | with_reducible apply keptW_ite
    | with_reducible apply keptO_ite
    | refine Keeps.of_ok (by with_reducible assumption) ?_
    | refine Keeps.of_no (by with_reducible assumption) ?_
    | refine Keeps.of_fst (by with_reducible assumption) ?_
    | refine Keeps.of_snd (by with_reducible assumption) ?_
    | split

theorem execDeepSpacingDue_keeps {q : List Instr} {u : Nat} {k : Nat} {n : Nat} {t : Nat} {s : State} (hs : Keeps q u s) :
    KeptO q u (execDeepSpacingDue k n t s) := by
  unfold execDeepSpacingDue
  repeat' first
    | with_reducible assumption
    | (intro s; refine cut (p := Keeps q u (s : State)) ?_ ?_; (on_goal 2 => clear_value s; intro _); (on_goal 1 => try subst s))
    | (intro x; clear_value x)
    | (lift_lets -underBinder; first | (intro s; refine cut (p := Keeps q u (s : State)) ?_ ?_; (on_goal 2 => clear_value s; intro _); (on_goal 1 => try subst s)) | (intro x; clear_value x))
    | with_reducible apply State.advPort_keeps
    | with_reducible apply State.setMt_keeps
    | with_reducible apply State.senseAsk_keeps
    | with_reducible apply keeps_ite
    | with_reducible apply keeps_ite_fst
    | with_reducible apply keeps_ite_snd
    | with_reducible apply keptW_ok
    | with_reducible apply keptW_no
    | with_reducible apply keptO_next
    | with_reducible apply keptW_ite
    | with_reducible apply keptO_ite
    | refine Keeps.of_ok (by with_reducible assumption) ?_
    | refine Keeps.of_no (by with_reducible assumption) ?_
    | refine Keeps.of_fst (by with_reducible assumption) ?_
    | refine Keeps.of_snd (by with_reducible assumption) ?_
    | split

theorem State.mtConvDrop_keeps {q : List Instr} {u : Nat} {s : State} {c : Nat} (hs : Keeps q u s) :
    Keeps q u (State.mtConvDrop s c) := by
  unfold State.mtConvDrop
  repeat' first
    | with_reducible assumption
    | refine fun (s : State) (h : Keeps q u s) => ?_
    | refine fun _ => ?_
    | (lift_lets -underBinder; (intro x; clear_value x))
    | with_reducible apply State.setMt_keeps
    | with_reducible apply State.setB_keeps
    | with_reducible apply State.inc_keeps
    | with_reducible apply State.forAll_keeps
    | with_reducible apply State.fastAsk_keeps
    | with_reducible apply State.mtSync_keeps
    | with_reducible apply WRes.mtSync_keeps
    | with_reducible apply keeps_ite
    | with_reducible apply keptW_ok
    | with_reducible apply keptW_no
    | with_reducible apply keptO_next
    | with_reducible apply keptW_ite
    | with_reducible apply keptO_ite
    | refine Keeps.of_ok (by with_reducible assumption) ?_
    | refine Keeps.of_no (by with_reducible assumption) ?_
    | refine Keeps.of_fst (by with_reducible assumption) ?_
    | refine Keeps.of_snd (by with_reducible assumption) ?_
    | split

theorem wrMtCmd_keeps {q : List Instr} {u : Nat} {k : Nat} {v : Nat} {s : State} (hs : Keeps q u s) :
    KeptW q u (wrMtCmd k v s) := by
  unfold wrMtCmd
  repeat' first
    | with_reducible assumption
    | with_reducible apply State.mtTry_keeps
    | with_reducible apply State.mtStop_keeps
    | with_reducible apply State.mtSync_keeps
    | with_reducible apply WRes.mtSync_keeps
    | with_reducible apply keeps_ite
    | with_reducible apply keptW_ok
    | with_reducible apply keptW_no
    | with_reducible apply keptO_next
    | with_reducible apply keptW_ite

theorem execMtStart_keeps {q : List Instr} {u : Nat} {p : Path} {k : Nat} {s : State} (hs : Keeps q u s) :
    KeptO q u (execMtStart p k s) := by
  unfold execMtStart
  repeat' first
    | with_reducible assumption
    | refine fun (s : State) (h : Keeps q u s) => ?_
    | refine fun _ => ?_
    | with_reducible apply access_keeps
    | with_reducible apply wrMtCmd_keeps

theorem execMtAbort_keeps {q : List Instr} {u : Nat} {p : Path} {k : Nat} {s : State} (hs : Keeps q u s) :
    KeptO q u (execMtAbort p k s) := by
  unfold execMtAbort
  repeat' first
    | with_reducible assumption
    | refine fun (s : State) (h : Keeps q u s) => ?_
    | refine fun _ => ?_
    | with_reducible apply access_keeps
    | with_reducible apply wrMtCmd_keeps

theorem execMtDwellExpiry_keeps {q : List Instr} {u : Nat} {k : Nat} {t : Nat} {s : State} (hs : Keeps q u s) :
    KeptO q u (execMtDwellExpiry k t s) := by
  unfold execMtDwellExpiry
  repeat' first
    | with_reducible assumption
    | (intro x; clear_value x)
    | (lift_lets -underBinder; (intro s; refine cut (p := Keeps q u (s : State)) ?_ ?_; (on_goal 2 => clear_value s; intro _); (on_goal 1 => try subst s)))
    | with_reducible apply State.adv_keeps
    | with_reducible apply State.dwellOver_keeps
    | with_reducible apply State.mtSync_keeps
    | with_reducible apply WRes.mtSync_keeps
    | with_reducible apply keeps_ite
    | with_reducible apply keptW_ok
    | with_reducible apply keptW_no
    | with_reducible apply keptO_next
    | with_reducible apply keptW_ite
    | with_reducible apply keptO_ite

theorem wrCappedClr_keeps {q : List Instr} {u : Nat} {v : Nat} {s : State} (hs : Keeps q u s) :
    KeptW q u (wrCappedClr v s) := by
  unfold wrCappedClr
  repeat' first
    | with_reducible assumption
    | with_reducible apply need_keeps
    | with_reducible apply State.setCapped_keeps
    | with_reducible apply keeps_ite
    | with_reducible apply keptW_ok

theorem execMtCappedClr_keeps {q : List Instr} {u : Nat} {p : Path} {v : Nat} {s : State} (hs : Keeps q u s) :
    KeptO q u (execMtCappedClr p v s) := by
  unfold execMtCappedClr
  repeat' first
    | with_reducible assumption
    | refine fun (s : State) (h : Keeps q u s) => ?_
    | refine fun _ => ?_
    | with_reducible apply access_keeps
    | with_reducible apply wrCappedClr_keeps

theorem State.spitBurst_keeps {q : List Instr} {u : Nat} {s : State} {k : Nat} (hs : Keeps q u s) :
    Keeps q u (State.spitBurst s k) := by
  unfold State.spitBurst
  repeat' first
    | with_reducible assumption
    | with_reducible apply State.mtTry_keeps
    | with_reducible apply State.mtHit_keeps
    | with_reducible apply keeps_ite
    | with_reducible apply keptW_ok
    | with_reducible apply keptW_no
    | with_reducible apply keptO_next
    | with_reducible apply keptW_ite
    | with_reducible apply keptO_ite
    | refine Keeps.of_ok (by with_reducible assumption) ?_
    | refine Keeps.of_no (by with_reducible assumption) ?_
    | refine Keeps.of_fst (by with_reducible assumption) ?_
    | refine Keeps.of_snd (by with_reducible assumption) ?_
    | split

end Sys2Proof.Machine
end

