-- ==== Sys2Proof/Laws/KeepsDrops.lean ====
section
/-! SUPPORT. What each operation of Machine/Drops.lean keeps (Laws/Keeps.lean). -/
namespace Sys2Proof.Machine

theorem WRes.mtSync_keeps {q : List Instr} {u : Nat} {r : WRes} (h : KeptW q u r) : KeptW q u r.mtSync := by
  cases r with
  | ok s =>
    have h' : Keeps q u s := h.state
    unfold WRes.mtSync
    exact keptW_ok (State.mtSync_keeps h')
  | no s c => exact h

theorem execJobEnterRunning_keeps {q : List Instr} {u : Nat} {s : State} (hs : Keeps q u s) :
    KeptO q u (execJobEnterRunning s) := by
  unfold execJobEnterRunning
  repeat' first
    | with_reducible assumption
    | with_reducible apply State.enterNext_keeps
    | with_reducible apply State.mtSync_keeps
    | with_reducible apply WRes.mtSync_keeps
    | with_reducible apply keeps_ite
    | with_reducible apply keptW_ok
    | with_reducible apply keptW_no
    | with_reducible apply keptO_next

theorem execLineRelease_keeps {q : List Instr} {u : Nat} {n : Nat} {t : Nat} {ecc : Nat} {s : State} (hs : Keeps q u s) :
    KeptO q u (execLineRelease n t ecc s) := by
  unfold execLineRelease
  repeat' first
    | with_reducible assumption
    | with_reducible apply State.advPort_keeps
    | with_reducible apply State.releaseLine_keeps
    | with_reducible apply State.mtSync_keeps
    | with_reducible apply WRes.mtSync_keeps
    | with_reducible apply keeps_ite
    | with_reducible apply keptW_ok
    | with_reducible apply keptW_no
    | with_reducible apply keptO_next

theorem execPgClampTimeout_keeps {q : List Instr} {u : Nat} {g : Nat} {t : Nat} {s : State} (hs : Keeps q u s) :
    KeptO q u (execPgClampTimeout g t s) := by
  unfold execPgClampTimeout
  repeat' first
    | with_reducible assumption
    | refine fun (s : State) (h : Keeps q u s) => ?_
    | refine fun _ => ?_
    | (intro x; clear_value x)
    | (lift_lets -underBinder; (intro s; refine cut (p := Keeps q u (s : State)) ?_ ?_; (on_goal 2 => clear_value s; intro _); (on_goal 1 => try subst s)))
    | with_reducible apply State.adv_keeps
    | with_reducible apply State.pgFault_keeps
    | with_reducible apply State.mtSync_keeps
    | with_reducible apply WRes.mtSync_keeps
    | with_reducible apply hf
    | with_reducible apply keeps_ite
    | with_reducible apply keptW_ok
    | with_reducible apply keptW_no
    | with_reducible apply keptO_next
    | with_reducible apply keptW_ite
    | with_reducible apply keptO_ite

theorem execPgRampTimeout_keeps {q : List Instr} {u : Nat} {g : Nat} {t : Nat} {s : State} (hs : Keeps q u s) :
    KeptO q u (execPgRampTimeout g t s) := by
  unfold execPgRampTimeout
  repeat' first
    | with_reducible assumption
    | (lift_lets -underBinder; (intro s; refine cut (p := Keeps q u (s : State)) ?_ ?_; (on_goal 2 => clear_value s; intro _); (on_goal 1 => try subst s)))
    | with_reducible apply State.adv_keeps
    | with_reducible apply State.pgFault_keeps
    | with_reducible apply State.mtSync_keeps
    | with_reducible apply WRes.mtSync_keeps
    | with_reducible apply keeps_ite
    | with_reducible apply keptW_ok
    | with_reducible apply keptW_no
    | with_reducible apply keptO_next
    | with_reducible apply keptW_ite
    | with_reducible apply keptO_ite

theorem execPgEnable_keeps {q : List Instr} {u : Nat} {p : Path} {g : Nat} {on : Bool} {s : State} (hs : Keeps q u s) :
    KeptO q u (execPgEnable p g on s) := by
  unfold execPgEnable
  repeat' first
    | with_reducible assumption
    | refine fun (s : State) (h : Keeps q u s) => ?_
    | refine fun _ => ?_
    | with_reducible apply access_keeps
    | with_reducible apply wrPgControl_keeps
    | with_reducible apply State.mtSync_keeps
    | with_reducible apply WRes.mtSync_keeps

theorem execPgClrFault_keeps {q : List Instr} {u : Nat} {p : Path} {g : Nat} {v : Nat} {s : State} (hs : Keeps q u s) :
    KeptO q u (execPgClrFault p g v s) := by
  unfold execPgClrFault
  repeat' first
    | with_reducible assumption
    | refine fun (s : State) (h : Keeps q u s) => ?_
    | refine fun _ => ?_
    | with_reducible apply access_keeps
    | with_reducible apply wrPgControl_keeps
    | with_reducible apply State.mtSync_keeps
    | with_reducible apply WRes.mtSync_keeps

theorem execPgClrStats_keeps {q : List Instr} {u : Nat} {p : Path} {g : Nat} {v : Nat} {s : State} (hs : Keeps q u s) :
    KeptO q u (execPgClrStats p g v s) := by
  unfold execPgClrStats
  repeat' first
    | with_reducible assumption
    | refine fun (s : State) (h : Keeps q u s) => ?_
    | refine fun _ => ?_
    | with_reducible apply access_keeps
    | with_reducible apply wrPgControl_keeps
    | with_reducible apply State.mtSync_keeps
    | with_reducible apply WRes.mtSync_keeps

theorem execTempAgeExpiry_keeps {q : List Instr} {u : Nat} {n : Nat} {t : Nat} {s : State} (hs : Keeps q u s) :
    KeptO q u (execTempAgeExpiry n t s) := by
  unfold execTempAgeExpiry
  repeat' first
    | with_reducible assumption
    | (intro x; clear_value x)
    | (lift_lets -underBinder; (intro s; refine cut (p := Keeps q u (s : State)) ?_ ?_; (on_goal 2 => clear_value s; intro _); (on_goal 1 => try subst s)))
    | with_reducible apply State.adv_keeps
    | with_reducible apply State.tempStale_keeps
    | with_reducible apply State.mtSync_keeps
    | with_reducible apply WRes.mtSync_keeps
    | with_reducible apply keeps_ite
    | with_reducible apply keptW_ok
    | with_reducible apply keptW_no
    | with_reducible apply keptO_next
    | with_reducible apply keptW_ite
    | with_reducible apply keptO_ite

theorem execClrBroken_keeps {q_ : List Instr} {u_ : Nat} {p : Path} {n : Nat} {v : Nat} {u : Option Nat} {s : State} (hs : Keeps q_ u_ s) :
    KeptO q_ u_ (execClrBroken p n v u s) := by
  unfold execClrBroken
  repeat' first
    | with_reducible assumption
    | refine fun (s : State) (h : Keeps q_ u_ s) => ?_
    | refine fun _ => ?_
    | with_reducible apply access_keeps
    | with_reducible apply wrHealthControl_keeps
    | with_reducible apply State.mtSync_keeps
    | with_reducible apply WRes.mtSync_keeps

theorem execClrSnsFault_keeps {q_ : List Instr} {u_ : Nat} {p : Path} {n : Nat} {v : Nat} {u : Option Nat} {s : State} (hs : Keeps q_ u_ s) :
    KeptO q_ u_ (execClrSnsFault p n v u s) := by
  unfold execClrSnsFault
  repeat' first
    | with_reducible assumption
    | refine fun (s : State) (h : Keeps q_ u_ s) => ?_
    | refine fun _ => ?_
    | with_reducible apply access_keeps
    | with_reducible apply wrHealthControl_keeps
    | with_reducible apply State.mtSync_keeps
    | with_reducible apply WRes.mtSync_keeps

theorem execTwinTakeOver_keeps {q : List Instr} {u : Nat} {p : Path} {n : Nat} {s : State} (hs : Keeps q u s) :
    KeptO q u (execTwinTakeOver p n s) := by
  unfold execTwinTakeOver
  repeat' first
    | with_reducible assumption
    | refine fun (s : State) (h : Keeps q u s) => ?_
    | refine fun _ => ?_
    | with_reducible apply access_keeps
    | with_reducible apply wrTwinCmd_keeps
    | with_reducible apply State.mtSync_keeps
    | with_reducible apply WRes.mtSync_keeps

theorem execTwinHandBack_keeps {q : List Instr} {u : Nat} {p : Path} {n : Nat} {s : State} (hs : Keeps q u s) :
    KeptO q u (execTwinHandBack p n s) := by
  unfold execTwinHandBack
  repeat' first
    | with_reducible assumption
    | refine fun (s : State) (h : Keeps q u s) => ?_
    | refine fun _ => ?_
    | with_reducible apply access_keeps
    | with_reducible apply wrTwinCmd_keeps
    | with_reducible apply State.mtSync_keeps
    | with_reducible apply WRes.mtSync_keeps

theorem execBringup_keeps {q : List Instr} {u : Nat} {p : Path} {n : Nat} {v : Nat} {s : State} (hs : Keeps q u s) :
    KeptO q u (execBringup p n v s) := by
  unfold execBringup
  repeat' first
    | with_reducible assumption
    | refine fun (s : State) (h : Keeps q u s) => ?_
    | refine fun _ => ?_
    | with_reducible apply access_keeps
    | with_reducible apply wrHpControl_keeps
    | with_reducible apply State.mtSync_keeps
    | with_reducible apply WRes.mtSync_keeps

theorem execRetire_keeps {q : List Instr} {u : Nat} {p : Path} {n : Nat} {v : Nat} {s : State} (hs : Keeps q u s) :
    KeptO q u (execRetire p n v s) := by
  unfold execRetire
  repeat' first
    | with_reducible assumption
    | refine fun (s : State) (h : Keeps q u s) => ?_
    | refine fun _ => ?_
    | with_reducible apply access_keeps
    | with_reducible apply wrHpControl_keeps
    | with_reducible apply State.mtSync_keeps
    | with_reducible apply WRes.mtSync_keeps

theorem execClrRetire_keeps {q : List Instr} {u : Nat} {p : Path} {n : Nat} {v : Nat} {s : State} (hs : Keeps q u s) :
    KeptO q u (execClrRetire p n v s) := by
  unfold execClrRetire
  repeat' first
    | with_reducible assumption
    | refine fun (s : State) (h : Keeps q u s) => ?_
    | refine fun _ => ?_
    | with_reducible apply access_keeps
    | with_reducible apply wrHpControl_keeps
    | with_reducible apply State.mtSync_keeps
    | with_reducible apply WRes.mtSync_keeps

theorem execNakRx_keeps {q : List Instr} {u : Nat} {n : Nat} {epoch : Nat} {lseq : Nat} {reason : Nat} {t : Nat} {s : State} (hs : Keeps q u s) :
    KeptO q u (execNakRx n epoch lseq reason t s) := by
  unfold execNakRx
  repeat' first
    | with_reducible assumption
    | refine fun (s : State) (h : Keeps q u s) => ?_
    | refine fun _ => ?_
    | (lift_lets -underBinder; first | (intro s; refine cut (p := Keeps q u (s : State)) ?_ ?_; (on_goal 2 => clear_value s; intro _); (on_goal 1 => try subst s)) | (intro x; clear_value x))
    | with_reducible apply State.advPort_keeps
    | with_reducible apply State.message_keeps
    | with_reducible apply State.refuseFrame_keeps
    | with_reducible apply State.setLink_keeps
    | with_reducible apply State.emit_keeps
    | with_reducible apply State.mtSync_keeps
    | with_reducible apply WRes.mtSync_keeps
    | with_reducible apply keeps_ite
    | with_reducible apply keptW_ok
    | with_reducible apply keptW_no
    | with_reducible apply keptO_next
    | with_reducible apply keptW_ite
    | with_reducible apply keptO_ite
    | refine Keeps.of_ok (by with_reducible assumption) ?_
    | refine Keeps.of_no (by with_reducible assumption) ?_
    | refine Keeps.of_fst (by with_reducible assumption) ?_
    | refine Keeps.of_snd (by with_reducible assumption) ?_
    | split

theorem execAckTimeout_keeps {q : List Instr} {u : Nat} {n : Nat} {lseq : Nat} {t : Nat} {s : State} (hs : Keeps q u s) :
    KeptO q u (execAckTimeout n lseq t s) := by
  unfold execAckTimeout
  repeat' first
    | with_reducible assumption
    | (intro s; refine cut (p := Keeps q u (s : State)) ?_ ?_; (on_goal 2 => clear_value s; intro _); (on_goal 1 => try subst s))
    | (lift_lets -underBinder; first | (intro s; refine cut (p := Keeps q u (s : State)) ?_ ?_; (on_goal 2 => clear_value s; intro _); (on_goal 1 => try subst s)) | (intro x; clear_value x))
    | with_reducible apply State.advPort_keeps
    | with_reducible apply State.setLink_keeps
    | with_reducible apply State.inc_keeps
    | with_reducible apply State.refuseFrame_keeps
    | with_reducible apply State.mtSync_keeps
    | with_reducible apply WRes.mtSync_keeps
    | with_reducible apply keeps_ite
    | with_reducible apply keeps_ite_snd
    | with_reducible apply keptW_ok
    | with_reducible apply keptW_no
    | with_reducible apply keptO_next
    | with_reducible apply keptW_ite
    | with_reducible apply keptO_ite
    | refine Keeps.of_ok (by with_reducible assumption) ?_
    | refine Keeps.of_no (by with_reducible assumption) ?_
    | refine Keeps.of_fst (by with_reducible assumption) ?_
    | refine Keeps.of_snd (by with_reducible assumption) ?_
    | split

theorem State.headStatus_keeps {q : List Instr} {u : Nat} {s : State} {n : Nat} {flags : Nat} (hs : Keeps q u s) :
    Keeps q u (State.headStatus s n flags) := by
  unfold State.headStatus
  repeat' first
    | with_reducible assumption
    | (intro s; refine cut (p := Keeps q u (s : State)) ?_ ?_; (on_goal 2 => clear_value s; intro _); (on_goal 1 => try subst s))
    | (intro x; clear_value x)
    | (lift_lets -underBinder; (intro x; clear_value x))
    | with_reducible apply State.set_keeps
    | with_reducible apply State.spoilSense_keeps
    | with_reducible apply State.setHealth_keeps
    | with_reducible apply State.setB_keeps
    | with_reducible apply State.thermalEval_keeps
    | with_reducible apply State.setLink_keeps
    | with_reducible apply State.inc_keeps
    | with_reducible apply State.retirePort_keeps
    | with_reducible apply State.trimStep_keeps
    | with_reducible apply keeps_ite

theorem execStatusRx_keeps {q : List Instr} {u : Nat} {n : Nat} {epoch : Nat} {flags : Nat} {t : Nat} {s : State} (hs : Keeps q u s) :
    KeptO q u (execStatusRx n epoch flags t s) := by
  unfold execStatusRx
  repeat' first
    | with_reducible assumption
    | refine fun (s : State) (h : Keeps q u s) => ?_
    | refine fun _ => ?_
    | with_reducible apply State.advPort_keeps
    | with_reducible apply State.message_keeps
    | with_reducible apply State.headStatus_keeps
    | with_reducible apply State.mtSync_keeps
    | with_reducible apply WRes.mtSync_keeps
    | with_reducible apply keeps_ite
    | with_reducible apply keptW_ok
    | with_reducible apply keptW_no
    | with_reducible apply keptO_next

theorem execRetError_keeps {q : List Instr} {u : Nat} {n : Nat} {t : Nat} {s : State} (hs : Keeps q u s) :
    KeptO q u (execRetError n t s) := by
  unfold execRetError
  repeat' first
    | with_reducible assumption
    | (intro s; refine cut (p := Keeps q u (s : State)) ?_ ?_; (on_goal 2 => clear_value s; intro _); (on_goal 1 => try subst s))
    | (intro x; clear_value x)
    | (lift_lets -underBinder; (intro s; refine cut (p := Keeps q u (s : State)) ?_ ?_; (on_goal 2 => clear_value s; intro _); (on_goal 1 => try subst s)))
    | with_reducible apply State.advPort_keeps
    | with_reducible apply State.setLink_keeps
    | with_reducible apply State.inc_keeps
    | with_reducible apply State.setB_keeps
    | with_reducible apply State.retirePort_keeps
    | with_reducible apply State.mtSync_keeps
    | with_reducible apply WRes.mtSync_keeps
    | with_reducible apply keeps_ite
    | with_reducible apply keptW_ok
    | with_reducible apply keptW_no
    | with_reducible apply keptO_next

theorem execHeadSilent_keeps {q : List Instr} {u : Nat} {n : Nat} {t : Nat} {s : State} (hs : Keeps q u s) :
    KeptO q u (execHeadSilent n t s) := by
  unfold execHeadSilent
  repeat' first
    | with_reducible assumption
    | (lift_lets -underBinder; (intro s; refine cut (p := Keeps q u (s : State)) ?_ ?_; (on_goal 2 => clear_value s; intro _); (on_goal 1 => try subst s)))
    | with_reducible apply State.adv_keeps
    | with_reducible apply State.headSilent_keeps
    | with_reducible apply State.mtSync_keeps
    | with_reducible apply WRes.mtSync_keeps
    | with_reducible apply keeps_ite
    | with_reducible apply keptW_ok
    | with_reducible apply keptW_no
    | with_reducible apply keptO_next
    | with_reducible apply keptW_ite
    | with_reducible apply keptO_ite

end Sys2Proof.Machine
end

