-- ==== Sys2Proof/Laws/KeepsAxis.lean ====
section
/-! SUPPORT. What each operation of Machine/Axis.lean keeps (Laws/Keeps.lean). -/
namespace Sys2Proof.Machine

theorem State.stageFault_keeps {q : List Instr} {u : Nat} {s : State} {a : Nat} {bit : Nat} (hs : Keeps q u s) :
    Keeps q u (State.stageFault s a bit) := by
  unfold State.stageFault
  repeat' first
    | with_reducible assumption
    | (lift_lets -underBinder; (intro s; refine cut (p := Keeps q u (s : State)) ?_ ?_; (on_goal 2 => clear_value s; intro _); (on_goal 1 => try subst s)))
    | with_reducible apply State.setB_keeps
    | with_reducible apply State.hit_keeps
    | with_reducible apply State.stageOff_keeps
    | with_reducible apply State.haltAxis_keeps
    | with_reducible apply State.mtSync_keeps

theorem State.axIdle_keeps {q : List Instr} {u : Nat} {s : State} {a : Nat} (hs : Keeps q u s) :
    Keeps q u (State.axIdle s a) := by
  unfold State.axIdle
  repeat' first
    | with_reducible assumption
    | (intro s; refine cut (p := Keeps q u (s : State)) ?_ ?_; (on_goal 2 => clear_value s; intro _); (on_goal 1 => try subst s))
    | (intro x; clear_value x)
    | (lift_lets -underBinder; (intro s; refine cut (p := Keeps q u (s : State)) ?_ ?_; (on_goal 2 => clear_value s; intro _); (on_goal 1 => try subst s)))
    | with_reducible apply State.axState_keeps
    | with_reducible apply State.set_keeps
    | with_reducible apply State.setB_keeps
    | with_reducible apply State.setAx_keeps
    | with_reducible apply State.stageOn_keeps
    | with_reducible apply State.axShow_keeps

theorem State.axEnable_keeps {q : List Instr} {u : Nat} {s : State} {a : Nat} (hs : Keeps q u s) :
    Keeps q u (State.axEnable s a) := by
  unfold State.axEnable
  repeat' first
    | with_reducible assumption
    | (intro s; refine cut (p := Keeps q u (s : State)) ?_ ?_; (on_goal 2 => clear_value s; intro _); (on_goal 1 => try subst s))
    | (intro x; clear_value x)
    | (lift_lets -underBinder; (intro x; clear_value x))
    | with_reducible apply State.setAx_keeps
    | with_reducible apply State.axIdle_keeps
    | with_reducible apply State.setB_keeps
    | with_reducible apply State.setDs_keeps
    | with_reducible apply State.hallSync_keeps
    | with_reducible apply State.limitCheck_keeps
    | with_reducible apply keeps_ite
    | with_reducible apply keptW_ok
    | with_reducible apply keptW_no
    | with_reducible apply keptO_next
    | with_reducible apply keptW_ite
    | with_reducible apply keptO_ite
    | refine Keeps.of_ok (by with_reducible assumption) ?_
    | refine Keeps.of_no (by with_reducible assumption) ?_
    | refine Keeps.of_fst (by with_reducible assumption) ?_
    | refine Keeps.of_snd (by with_reducible assumption) ?_
    | split

theorem wrAxCmd_keeps {q : List Instr} {u : Nat} {a : Nat} {v : Nat} {flt : Bool} {s : State} (hs : Keeps q u s) :
    KeptW q u (wrAxCmd a v flt s) := by
  unfold wrAxCmd
  repeat' first
    | with_reducible assumption
    | (intro x; clear_value x)
    | (lift_lets -underBinder; first | (intro s; refine cut (p := Keeps q u (s : State)) ?_ ?_; (on_goal 2 => clear_value s; intro _); (on_goal 1 => try subst s)) | (intro x; clear_value x))
    | with_reducible apply State.setB_keeps
    | with_reducible apply State.msClaim_keeps
    | with_reducible apply State.axEnable_keeps
    | with_reducible apply State.axHit_keeps
    | with_reducible apply State.decelStop_keeps
    | with_reducible apply State.mtSync_keeps
    | with_reducible apply WRes.mtSync_keeps
    | with_reducible apply need_keeps
    | with_reducible apply State.haltAxis_keeps
    | with_reducible apply State.axIdle_keeps
    | with_reducible apply keeps_ite
    | with_reducible apply keptW_ok
    | with_reducible apply keptW_no
    | with_reducible apply keptO_next
    | with_reducible apply keptW_ite
    | with_reducible apply keptO_ite
    | refine Keeps.of_ok (by with_reducible assumption) ?_
    | refine Keeps.of_no (by with_reducible assumption) ?_
    | refine Keeps.of_fst (by with_reducible assumption) ?_
    | refine Keeps.of_snd (by with_reducible assumption) ?_
    | split

theorem execAxEnable_keeps {q : List Instr} {u : Nat} {p : Path} {a : Nat} {flt : Bool} {s : State} (hs : Keeps q u s) :
    KeptO q u (execAxEnable p a flt s) := by
  unfold execAxEnable
  repeat' first
    | with_reducible assumption
    | refine fun (s : State) (h : Keeps q u s) => ?_
    | refine fun _ => ?_
    | with_reducible apply access_keeps
    | with_reducible apply wrAxCmd_keeps

theorem execAxStopDisable_keeps {q : List Instr} {u : Nat} {p : Path} {a : Nat} {s : State} (hs : Keeps q u s) :
    KeptO q u (execAxStopDisable p a s) := by
  unfold execAxStopDisable
  repeat' first
    | with_reducible assumption
    | refine fun (s : State) (h : Keeps q u s) => ?_
    | refine fun _ => ?_
    | with_reducible apply access_keeps
    | with_reducible apply wrAxCmd_keeps

theorem execAxDecelStop_keeps {q : List Instr} {u : Nat} {p : Path} {a : Nat} {s : State} (hs : Keeps q u s) :
    KeptO q u (execAxDecelStop p a s) := by
  unfold execAxDecelStop
  repeat' first
    | with_reducible assumption
    | refine fun (s : State) (h : Keeps q u s) => ?_
    | refine fun _ => ?_
    | with_reducible apply access_keeps
    | with_reducible apply wrAxCmd_keeps

theorem execAxHalt_keeps {q : List Instr} {u : Nat} {p : Path} {a : Nat} {s : State} (hs : Keeps q u s) :
    KeptO q u (execAxHalt p a s) := by
  unfold execAxHalt
  repeat' first
    | with_reducible assumption
    | refine fun (s : State) (h : Keeps q u s) => ?_
    | refine fun _ => ?_
    | with_reducible apply access_keeps
    | with_reducible apply wrAxCmd_keeps

theorem execAxClearHalt_keeps {q : List Instr} {u : Nat} {p : Path} {a : Nat} {flt : Bool} {s : State} (hs : Keeps q u s) :
    KeptO q u (execAxClearHalt p a flt s) := by
  unfold execAxClearHalt
  repeat' first
    | with_reducible assumption
    | refine fun (s : State) (h : Keeps q u s) => ?_
    | refine fun _ => ?_
    | with_reducible apply access_keeps
    | with_reducible apply wrAxCmd_keeps

theorem execAxClearUncertain_keeps {q : List Instr} {u : Nat} {p : Path} {a : Nat} {s : State} (hs : Keeps q u s) :
    KeptO q u (execAxClearUncertain p a s) := by
  unfold execAxClearUncertain
  repeat' first
    | with_reducible assumption
    | refine fun (s : State) (h : Keeps q u s) => ?_
    | refine fun _ => ?_
    | with_reducible apply access_keeps
    | with_reducible apply wrAxCmd_keeps

theorem wrMvPush_keeps {q : List Instr} {u : Nat} {a : Nat} {v : Nat} {s : State} (hs : Keeps q u s) :
    KeptW q u (wrMvPush a v s) := by
  unfold wrMvPush
  repeat' first
    | with_reducible assumption
    | with_reducible apply need_keeps
    | with_reducible apply State.tryPush_keeps

theorem execAxMvPush_keeps {q : List Instr} {u : Nat} {p : Path} {a : Nat} {s : State} (hs : Keeps q u s) :
    KeptO q u (execAxMvPush p a s) := by
  unfold execAxMvPush
  repeat' first
    | with_reducible assumption
    | refine fun (s : State) (h : Keeps q u s) => ?_
    | refine fun _ => ?_
    | with_reducible apply access_keeps
    | with_reducible apply wrMvPush_keeps

theorem wrAxPos_keeps {q : List Instr} {u : Nat} {a : Nat} {v : Nat} {s : State} (hs : Keeps q u s) :
    KeptW q u (wrAxPos a v s) := by
  unfold wrAxPos
  repeat' first
    | with_reducible assumption
    | (intro x; clear_value x)
    | (lift_lets -underBinder; (intro x; clear_value x))
    | with_reducible apply need_keeps
    | with_reducible apply State.putAx_keeps
    | with_reducible apply State.limitCheck_keeps
    | with_reducible apply keeps_ite
    | with_reducible apply keptW_ok

theorem execAxPosWrite_keeps {q : List Instr} {u : Nat} {p : Path} {a : Nat} {v : Nat} {s : State} (hs : Keeps q u s) :
    KeptO q u (execAxPosWrite p a v s) := by
  unfold execAxPosWrite
  repeat' first
    | with_reducible assumption
    | refine fun (s : State) (h : Keeps q u s) => ?_
    | refine fun _ => ?_
    | with_reducible apply access_keeps
    | with_reducible apply wrAxPos_keeps

theorem wrAxConfig_keeps {q : List Instr} {u : Nat} {a : Nat} {v : Nat} {s : State} (hs : Keeps q u s) :
    KeptW q u (wrAxConfig a v s) := by
  unfold wrAxConfig
  repeat' first
    | with_reducible assumption
    | refine fun (s : State) (h : Keeps q u s) => ?_
    | refine fun _ => ?_
    | (intro s; refine cut (p := Keeps q u (s : State)) ?_ ?_; (on_goal 2 => clear_value s; intro _); (on_goal 1 => try subst s))
    | (intro f; refine cut (p := ∀ s : State, Keeps q u s → KeptW q u (f s : WRes)) ?_ ?_; (on_goal 2 => clear_value f; intro hf); (on_goal 1 => subst f))
    | (intro x; clear_value x)
    | (lift_lets -underBinder; (intro x; clear_value x))
    | with_reducible apply State.conflict_keeps
    | with_reducible apply State.raise_keeps
    | with_reducible apply State.set_keeps
    | with_reducible apply State.setAx_keeps
    | with_reducible apply State.axCount_keeps
    | with_reducible apply State.limitCheck_keeps
    | with_reducible apply State.axShow_keeps
    | with_reducible apply hf
    | with_reducible apply keeps_ite
    | with_reducible apply keptW_ok
    | with_reducible apply keptW_no
    | with_reducible apply keptO_next
    | with_reducible apply keptW_ite
    | with_reducible apply keptO_ite
    | refine Keeps.of_ok (by with_reducible assumption) ?_
    | refine Keeps.of_no (by with_reducible assumption) ?_
    | refine Keeps.of_fst (by with_reducible assumption) ?_
    | refine Keeps.of_snd (by with_reducible assumption) ?_
    | split

theorem State.igFlagTo_keeps {q : List Instr} {u : Nat} {s : State} {g : Nat} {i : Nat} {b : Bool} (hs : Keeps q u s) :
    Keeps q u (State.igFlagTo s g i b) := by
  unfold State.igFlagTo
  repeat' first
    | with_reducible assumption
    | with_reducible apply State.setB_keeps

theorem wrIgCmd_keeps {q : List Instr} {u : Nat} {g : Nat} {v : Nat} {s : State} (hs : Keeps q u s) :
    KeptW q u (wrIgCmd g v s) := by
  unfold wrIgCmd
  repeat' first
    | with_reducible assumption
    | refine fun (s : State) (h : Keeps q u s) => ?_
    | refine fun _ => ?_
    | (intro x; clear_value x)
    | (lift_lets -underBinder; first | (intro s; refine cut (p := Keeps q u (s : State)) ?_ ?_; (on_goal 2 => clear_value s; intro _); (on_goal 1 => try subst s)) | (intro x; clear_value x))
    | with_reducible apply State.forAll_keeps
    | with_reducible apply State.set_keeps
    | with_reducible apply State.axShow_keeps
    | with_reducible apply State.setIg_keeps
    | with_reducible apply State.igStop_keeps
    | with_reducible apply State.axHalt_keeps
    | with_reducible apply State.igClear_keeps
    | with_reducible apply keeps_ite
    | with_reducible apply keptW_ok
    | with_reducible apply keptW_no
    | with_reducible apply keptO_next
    | with_reducible apply keptW_ite
    | with_reducible apply keptO_ite
    | refine Keeps.of_ok (by with_reducible assumption) ?_
    | refine Keeps.of_no (by with_reducible assumption) ?_
    | refine Keeps.of_fst (by with_reducible assumption) ?_
    | refine Keeps.of_snd (by with_reducible assumption) ?_
    | split

theorem execAxIgEnable_keeps {q : List Instr} {u : Nat} {p : Path} {g : Nat} {s : State} (hs : Keeps q u s) :
    KeptO q u (execAxIgEnable p g s) := by
  unfold execAxIgEnable
  repeat' first
    | with_reducible assumption
    | refine fun (s : State) (h : Keeps q u s) => ?_
    | refine fun _ => ?_
    | with_reducible apply access_keeps
    | with_reducible apply wrIgCmd_keeps

theorem execAxIgRelease_keeps {q : List Instr} {u : Nat} {p : Path} {g : Nat} {s : State} (hs : Keeps q u s) :
    KeptO q u (execAxIgRelease p g s) := by
  unfold execAxIgRelease
  repeat' first
    | with_reducible assumption
    | refine fun (s : State) (h : Keeps q u s) => ?_
    | refine fun _ => ?_
    | with_reducible apply access_keeps
    | with_reducible apply wrIgCmd_keeps

theorem execAxIgStop_keeps {q : List Instr} {u : Nat} {p : Path} {g : Nat} {s : State} (hs : Keeps q u s) :
    KeptO q u (execAxIgStop p g s) := by
  unfold execAxIgStop
  repeat' first
    | with_reducible assumption
    | refine fun (s : State) (h : Keeps q u s) => ?_
    | refine fun _ => ?_
    | with_reducible apply access_keeps
    | with_reducible apply wrIgCmd_keeps

theorem execAxIgHalt_keeps {q : List Instr} {u : Nat} {p : Path} {g : Nat} {s : State} (hs : Keeps q u s) :
    KeptO q u (execAxIgHalt p g s) := by
  unfold execAxIgHalt
  repeat' first
    | with_reducible assumption
    | refine fun (s : State) (h : Keeps q u s) => ?_
    | refine fun _ => ?_
    | with_reducible apply access_keeps
    | with_reducible apply wrIgCmd_keeps

theorem wrIgPush_keeps {q : List Instr} {u : Nat} {g : Nat} {v : Nat} {s : State} (hs : Keeps q u s) :
    KeptW q u (wrIgPush g v s) := by
  unfold wrIgPush
  repeat' first
    | with_reducible assumption
    | (intro s; refine cut (p := Keeps q u (s : State)) ?_ ?_; (on_goal 2 => clear_value s; intro _); (on_goal 1 => try subst s))
    | (intro x; clear_value x)
    | (lift_lets -underBinder; (intro x; clear_value x))
    | with_reducible apply State.igFlagTo_keeps
    | with_reducible apply State.axHit_keeps
    | with_reducible apply State.setIg_keeps
    | with_reducible apply State.set_keeps
    | with_reducible apply keeps_ite
    | with_reducible apply keeps_ite_fst
    | with_reducible apply keeps_ite_snd
    | with_reducible apply keptW_ok
    | with_reducible apply keptW_no
    | with_reducible apply keptO_next
    | with_reducible apply keptW_ite
    | with_reducible apply keptO_ite
    | refine Keeps.of_ok (by with_reducible assumption) ?_
    | refine Keeps.of_no (by with_reducible assumption) ?_
    | refine Keeps.of_fst (by with_reducible assumption) ?_
    | refine Keeps.of_snd (by with_reducible assumption) ?_
    | split

theorem execAxIgPush_keeps {q : List Instr} {u : Nat} {p : Path} {g : Nat} {s : State} (hs : Keeps q u s) :
    KeptO q u (execAxIgPush p g s) := by
  unfold execAxIgPush
  repeat' first
    | with_reducible assumption
    | refine fun (s : State) (h : Keeps q u s) => ?_
    | refine fun _ => ?_
    | with_reducible apply access_keeps
    | with_reducible apply wrIgPush_keeps

theorem State.stepAxis_keeps {q : List Instr} {u : Nat} {s : State} {a : Nat} (hs : Keeps q u s) :
    Keeps q u (State.stepAxis s a) := by
  unfold State.stepAxis
  repeat' first
    | with_reducible assumption
    | (intro s; refine cut (p := Keeps q u (s : State)) ?_ ?_; (on_goal 2 => clear_value s; intro _); (on_goal 1 => try subst s))
    | (lift_lets -underBinder; (intro x; clear_value x))
    | with_reducible apply State.followStep_keeps
    | with_reducible apply State.axStep_keeps
    | with_reducible apply State.axCount_keeps
    | with_reducible apply State.holdStep_keeps
    | with_reducible apply State.microSync_keeps
    | with_reducible apply State.axShow_keeps
    | with_reducible apply State.limitCheck_keeps
    | with_reducible apply State.followCheck_keeps
    | with_reducible apply keeps_ite

theorem execProfileStep_keeps {q : List Instr} {u : Nat} {t : Nat} {s : State} (hs : Keeps q u s) :
    KeptO q u (execProfileStep t s) := by
  unfold execProfileStep
  repeat' first
    | with_reducible assumption
    | refine fun (s : State) (h : Keeps q u s) => ?_
    | refine fun _ => ?_
    | (intro s; refine cut (p := Keeps q u (s : State)) ?_ ?_; (on_goal 2 => clear_value s; intro _); (on_goal 1 => try subst s))
    | (intro x; clear_value x)
    | (lift_lets -underBinder; first | (intro s; refine cut (p := Keeps q u (s : State)) ?_ ?_; (on_goal 2 => clear_value s; intro _); (on_goal 1 => try subst s)) | (intro x; clear_value x))
    | with_reducible apply State.adv_keeps
    | with_reducible apply State.forAll_keeps
    | with_reducible apply State.microSync_keeps
    | with_reducible apply State.setAx_keeps
    | with_reducible apply State.setClk_keeps
    | with_reducible apply State.igStep_keeps
    | with_reducible apply State.stepAxis_keeps
    | with_reducible apply State.mtSync_keeps
    | with_reducible apply WRes.mtSync_keeps
    | with_reducible apply keeps_ite
    | with_reducible apply keptW_ok
    | with_reducible apply keptW_no
    | with_reducible apply keptO_next
    | with_reducible apply keptW_ite
    | with_reducible apply keptO_ite

theorem State.loopCycle_keeps {q : List Instr} {u : Nat} {s : State} {a : Nat} (hs : Keeps q u s) :
    Keeps q u (State.loopCycle s a) := by
  unfold State.loopCycle
  repeat' first
    | with_reducible assumption
    | (intro x; clear_value x)
    | (lift_lets -underBinder; (intro x; clear_value x))
    | with_reducible apply State.setAx_keeps
    | with_reducible apply State.axShow_keeps
    | with_reducible apply State.followCheck_keeps
    | with_reducible apply keeps_ite

theorem execBdLoopCycle_keeps {q : List Instr} {u : Nat} {t : Nat} {s : State} (hs : Keeps q u s) :
    KeptO q u (execBdLoopCycle t s) := by
  unfold execBdLoopCycle
  repeat' first
    | with_reducible assumption
    | refine fun (s : State) (h : Keeps q u s) => ?_
    | refine fun _ => ?_
    | (intro x; clear_value x)
    | (lift_lets -underBinder; (intro s; refine cut (p := Keeps q u (s : State)) ?_ ?_; (on_goal 2 => clear_value s; intro _); (on_goal 1 => try subst s)))
    | with_reducible apply State.adv_keeps
    | with_reducible apply State.setClk_keeps
    | with_reducible apply State.forAll_keeps
    | with_reducible apply State.loopCycle_keeps
    | with_reducible apply keeps_ite
    | with_reducible apply keptW_ok
    | with_reducible apply keptW_no
    | with_reducible apply keptO_next
    | with_reducible apply keptW_ite
    | with_reducible apply keptO_ite

theorem execFollowErrorTimeout_keeps {q : List Instr} {u : Nat} {a : Nat} {t : Nat} {s : State} (hs : Keeps q u s) :
    KeptO q u (execFollowErrorTimeout a t s) := by
  unfold execFollowErrorTimeout
  repeat' first
    | with_reducible assumption
    | (lift_lets -underBinder; (intro s; refine cut (p := Keeps q u (s : State)) ?_ ?_; (on_goal 2 => clear_value s; intro _); (on_goal 1 => try subst s)))
    | with_reducible apply State.adv_keeps
    | with_reducible apply State.haltAxis_keeps
    | with_reducible apply State.mtSync_keeps
    | with_reducible apply WRes.mtSync_keeps
    | with_reducible apply keeps_ite
    | with_reducible apply keptW_ok
    | with_reducible apply keptW_no
    | with_reducible apply keptO_next
    | with_reducible apply keptW_ite
    | with_reducible apply keptO_ite
    | refine Keeps.of_ok (by with_reducible assumption) ?_
    | refine Keeps.of_no (by with_reducible assumption) ?_
    | refine Keeps.of_fst (by with_reducible assumption) ?_
    | refine Keeps.of_snd (by with_reducible assumption) ?_
    | split

theorem execChopTrip_keeps {q : List Instr} {u : Nat} {a : Nat} {ph : Nat} {y : Tripping} {s : State} (hs : Keeps q u s) :
    KeptO q u (execChopTrip a ph y s) := by
  unfold execChopTrip
  repeat' first
    | with_reducible assumption
    | (intro x; clear_value x)
    | (lift_lets -underBinder; (intro s; refine cut (p := Keeps q u (s : State)) ?_ ?_; (on_goal 2 => clear_value s; intro _); (on_goal 1 => try subst s)))
    | with_reducible apply State.adv_keeps
    | with_reducible apply State.microSync_keeps
    | with_reducible apply State.setDs_keeps
    | with_reducible apply State.phaseOff_keeps
    | with_reducible apply State.bdSync_keeps
    | with_reducible apply keeps_ite
    | with_reducible apply keeps_ite_snd
    | with_reducible apply keptW_ok
    | with_reducible apply keptW_no
    | with_reducible apply keptO_next
    | with_reducible apply keptW_ite
    | with_reducible apply keptO_ite
    | refine Keeps.of_ok (by with_reducible assumption) ?_
    | refine Keeps.of_no (by with_reducible assumption) ?_
    | refine Keeps.of_fst (by with_reducible assumption) ?_
    | refine Keeps.of_snd (by with_reducible assumption) ?_
    | split

theorem execChopOfftimeEnd_keeps {q : List Instr} {u : Nat} {a : Nat} {ph : Nat} {t : Nat} {s : State} (hs : Keeps q u s) :
    KeptO q u (execChopOfftimeEnd a ph t s) := by
  unfold execChopOfftimeEnd
  repeat' first
    | with_reducible assumption
    | (intro x; clear_value x)
    | (lift_lets -underBinder; (intro s; refine cut (p := Keeps q u (s : State)) ?_ ?_; (on_goal 2 => clear_value s; intro _); (on_goal 1 => try subst s)))
    | with_reducible apply State.adv_keeps
    | with_reducible apply State.microSync_keeps
    | with_reducible apply State.phaseOn_keeps
    | with_reducible apply keeps_ite
    | with_reducible apply keptW_ok
    | with_reducible apply keptW_no
    | with_reducible apply keptO_next
    | with_reducible apply keptW_ite
    | with_reducible apply keptO_ite

theorem execPwmPeriodStart_keeps {q : List Instr} {u : Nat} {a : Nat} {t : Nat} {s : State} (hs : Keeps q u s) :
    KeptO q u (execPwmPeriodStart a t s) := by
  unfold execPwmPeriodStart
  repeat' first
    | with_reducible assumption
    | (intro x; clear_value x)
    | (lift_lets -underBinder; (intro s; refine cut (p := Keeps q u (s : State)) ?_ ?_; (on_goal 2 => clear_value s; intro _); (on_goal 1 => try subst s)))
    | with_reducible apply State.adv_keeps
    | with_reducible apply State.setDs_keeps
    | with_reducible apply State.bdSync_keeps
    | with_reducible apply keeps_ite
    | with_reducible apply keptW_ok
    | with_reducible apply keptW_no
    | with_reducible apply keptO_next
    | with_reducible apply keptW_ite
    | with_reducible apply keptO_ite

theorem execHoldDelayExpiry_keeps {q : List Instr} {u : Nat} {a : Nat} {t : Nat} {s : State} (hs : Keeps q u s) :
    KeptO q u (execHoldDelayExpiry a t s) := by
  unfold execHoldDelayExpiry
  repeat' first
    | with_reducible assumption
    | (intro s; refine cut (p := Keeps q u (s : State)) ?_ ?_; (on_goal 2 => clear_value s; intro _); (on_goal 1 => try subst s))
    | (intro x; clear_value x)
    | (lift_lets -underBinder; (intro s; refine cut (p := Keeps q u (s : State)) ?_ ?_; (on_goal 2 => clear_value s; intro _); (on_goal 1 => try subst s)))
    | with_reducible apply State.adv_keeps
    | with_reducible apply State.microSync_keeps
    | with_reducible apply State.setB_keeps
    | with_reducible apply State.setDs_keeps
    | with_reducible apply State.hit_keeps
    | with_reducible apply State.codes_keeps
    | with_reducible apply keeps_ite
    | with_reducible apply keptW_ok
    | with_reducible apply keptW_no
    | with_reducible apply keptO_next
    | with_reducible apply keptW_ite
    | with_reducible apply keptO_ite

theorem execBridgeFault_keeps {q : List Instr} {u : Nat} {a : Nat} {x : Since} {s : State} (hs : Keeps q u s) :
    KeptO q u (execBridgeFault a x s) := by
  unfold execBridgeFault
  repeat' first
    | with_reducible assumption
    | (lift_lets -underBinder; (intro s; refine cut (p := Keeps q u (s : State)) ?_ ?_; (on_goal 2 => clear_value s; intro _); (on_goal 1 => try subst s)))
    | with_reducible apply State.adv_keeps
    | with_reducible apply State.setB_keeps
    | with_reducible apply State.stageFault_keeps
    | with_reducible apply keeps_ite
    | with_reducible apply keptW_ok
    | with_reducible apply keptW_no
    | with_reducible apply keptO_next
    | with_reducible apply keptW_ite
    | with_reducible apply keptO_ite

theorem execFltGlitch_keeps {q : List Instr} {u : Nat} {a : Nat} {x : Since} {s : State} (hs : Keeps q u s) :
    KeptO q u (execFltGlitch a x s) := by
  unfold execFltGlitch
  repeat' first
    | with_reducible assumption
    | (lift_lets -underBinder; (intro s; refine cut (p := Keeps q u (s : State)) ?_ ?_; (on_goal 2 => clear_value s; intro _); (on_goal 1 => try subst s)))
    | with_reducible apply State.adv_keeps
    | with_reducible apply State.setB_keeps
    | with_reducible apply State.inc_keeps
    | with_reducible apply State.hit_keeps
    | with_reducible apply keeps_ite
    | with_reducible apply keptW_ok
    | with_reducible apply keptW_no
    | with_reducible apply keptO_next
    | with_reducible apply keptW_ite
    | with_reducible apply keptO_ite

theorem execOcTrip_keeps {q : List Instr} {u : Nat} {a : Nat} {ph : Nat} {x : Tripping} {s : State} (hs : Keeps q u s) :
    KeptO q u (execOcTrip a ph x s) := by
  unfold execOcTrip
  repeat' first
    | with_reducible assumption
    | (intro s; refine cut (p := Keeps q u (s : State)) ?_ ?_; (on_goal 2 => clear_value s; intro _); (on_goal 1 => try subst s))
    | (intro x; clear_value x)
    | (lift_lets -underBinder; (intro s; refine cut (p := Keeps q u (s : State)) ?_ ?_; (on_goal 2 => clear_value s; intro _); (on_goal 1 => try subst s)))
    | with_reducible apply State.adv_keeps
    | with_reducible apply State.microSync_keeps
    | with_reducible apply State.setDs_keeps
    | with_reducible apply State.phaseOff_keeps
    | with_reducible apply State.bdSync_keeps
    | with_reducible apply State.inc_keeps
    | with_reducible apply State.hit_keeps
    | with_reducible apply State.stageFault_keeps
    | with_reducible apply keeps_ite
    | with_reducible apply keptW_ok
    | with_reducible apply keptW_no
    | with_reducible apply keptO_next
    | with_reducible apply keptW_ite
    | with_reducible apply keptO_ite

theorem execOpenPhase_keeps {q : List Instr} {u : Nat} {a : Nat} {ph : Nat} {t : Nat} {s : State} (hs : Keeps q u s) :
    KeptO q u (execOpenPhase a ph t s) := by
  unfold execOpenPhase
  repeat' first
    | with_reducible assumption
    | (intro x; clear_value x)
    | (lift_lets -underBinder; (intro s; refine cut (p := Keeps q u (s : State)) ?_ ?_; (on_goal 2 => clear_value s; intro _); (on_goal 1 => try subst s)))
    | with_reducible apply State.adv_keeps
    | with_reducible apply State.microSync_keeps
    | with_reducible apply State.stageFault_keeps
    | with_reducible apply keeps_ite
    | with_reducible apply keptW_ok
    | with_reducible apply keptW_no
    | with_reducible apply keptO_next
    | with_reducible apply keptW_ite
    | with_reducible apply keptO_ite

theorem execStepLagTimeout_keeps {q : List Instr} {u : Nat} {a : Nat} {t : Nat} {s : State} (hs : Keeps q u s) :
    KeptO q u (execStepLagTimeout a t s) := by
  unfold execStepLagTimeout
  repeat' first
    | with_reducible assumption
    | (lift_lets -underBinder; (intro s; refine cut (p := Keeps q u (s : State)) ?_ ?_; (on_goal 2 => clear_value s; intro _); (on_goal 1 => try subst s)))
    | with_reducible apply State.adv_keeps
    | with_reducible apply State.stageFault_keeps
    | with_reducible apply keeps_ite
    | with_reducible apply keptW_ok
    | with_reducible apply keptW_no
    | with_reducible apply keptO_next
    | with_reducible apply keptW_ite
    | with_reducible apply keptO_ite
    | refine Keeps.of_ok (by with_reducible assumption) ?_
    | refine Keeps.of_no (by with_reducible assumption) ?_
    | refine Keeps.of_fst (by with_reducible assumption) ?_
    | refine Keeps.of_snd (by with_reducible assumption) ?_
    | split

theorem execMonConversionDue_keeps {q : List Instr} {u : Nat} {a : Nat} {t : Nat} {s : State} (hs : Keeps q u s) :
    KeptO q u (execMonConversionDue a t s) := by
  unfold execMonConversionDue
  repeat' first
    | with_reducible assumption
    | refine fun (s : State) (h : Keeps q u s) => ?_
    | refine fun _ => ?_
    | refine fun (s : State) (h : Keeps q u s) => ?_
    | refine fun _ => ?_
    | (intro s; refine cut (p := Keeps q u (s : State)) ?_ ?_; (on_goal 2 => clear_value s; intro _); (on_goal 1 => try subst s))
    | (intro x; clear_value x)
    | (lift_lets -underBinder; (intro s; refine cut (p := Keeps q u (s : State)) ?_ ?_; (on_goal 2 => clear_value s; intro _); (on_goal 1 => try subst s)))
    | with_reducible apply State.adv_keeps
    | with_reducible apply State.setDs_keeps
    | with_reducible apply State.addC_keeps
    | with_reducible apply State.senseWithdraw_keeps
    | with_reducible apply State.forAll_keeps
    | with_reducible apply State.senseAsk_keeps
    | with_reducible apply hf
    | with_reducible apply keeps_ite
    | with_reducible apply keptW_ok
    | with_reducible apply keptW_no
    | with_reducible apply keptO_next
    | with_reducible apply keptW_ite
    | with_reducible apply keptO_ite

theorem State.motorResult_keeps {q_ : List Instr} {u_ : Nat} {s : State} {a : Nat} {input : Nat} {u : Nat} (hs : Keeps q_ u_ s) :
    Keeps q_ u_ (State.motorResult s a input u) := by
  unfold State.motorResult
  repeat' first
    | with_reducible assumption
    | (intro x; clear_value x)
    | (lift_lets -underBinder; (intro x; clear_value x))
    | with_reducible apply State.setSat_keeps
    | with_reducible apply keeps_ite

end Sys2Proof.Machine
end

