-- ==== Sys2Proof/Laws/KeepsFi.lean ====
section
/-! SUPPORT. What each operation of Machine/Fi.lean keeps (Laws/Keeps.lean). -/
namespace Sys2Proof.Machine

theorem State.fiOver_keeps {q : List Instr} {u : Nat} {s : State} {bit : Nat} (hs : Keeps q u s) :
    Keeps q u (State.fiOver s bit) := by
  unfold State.fiOver
  repeat' first
    | with_reducible assumption
    | (lift_lets -underBinder; (intro s; refine cut (p := Keeps q u (s : State)) ?_ ?_; (on_goal 2 => clear_value s; intro _); (on_goal 1 => try subst s)))
    | with_reducible apply State.setFi_keeps
    | with_reducible apply State.set_keeps
    | with_reducible apply State.setB_keeps

theorem State.fiCancel_keeps {q : List Instr} {u : Nat} {s : State} (hs : Keeps q u s) :
    Keeps q u (State.fiCancel s) := by
  unfold State.fiCancel
  repeat' first
    | with_reducible assumption
    | with_reducible apply State.fiOver_keeps
    | with_reducible apply keeps_ite

theorem State.fiPrint_keeps {q : List Instr} {u : Nat} {s : State} (hs : Keeps q u s) :
    Keeps q u (State.fiPrint s) := by
  unfold State.fiPrint
  repeat' first
    | with_reducible assumption
    | with_reducible apply State.fiCancel_keeps
    | with_reducible apply keeps_ite

theorem wrFiKey_keeps {q : List Instr} {u : Nat} {v : Nat} {s : State} (hs : Keeps q u s) :
    KeptW q u (wrFiKey v s) := by
  unfold wrFiKey
  repeat' first
    | with_reducible assumption
    | with_reducible apply State.setB_keeps
    | with_reducible apply keeps_ite
    | with_reducible apply keptW_ok

theorem execFiKey_keeps {q : List Instr} {u : Nat} {p : Path} {v : Nat} {s : State} (hs : Keeps q u s) :
    KeptO q u (execFiKey p v s) := by
  unfold execFiKey
  repeat' first
    | with_reducible assumption
    | refine fun (s : State) (h : Keeps q u s) => ?_
    | refine fun _ => ?_
    | with_reducible apply access_keeps
    | with_reducible apply wrFiKey_keeps

theorem State.fiRefused_keeps {q : List Instr} {u : Nat} {s : State} (hs : Keeps q u s) :
    KeptW q u (State.fiRefused s) := by
  unfold State.fiRefused
  repeat' first
    | with_reducible assumption
    | with_reducible apply State.setB_keeps
    | with_reducible apply keeps_ite
    | with_reducible apply keptW_ok
    | with_reducible apply keptW_no

theorem wrFiCmd_keeps {q : List Instr} {u : Nat} {v : Nat} {s : State} (hs : Keeps q u s) :
    KeptW q u (wrFiCmd v s) := by
  unfold wrFiCmd
  repeat' first
    | with_reducible assumption
    | with_reducible apply State.fiCancel_keeps
    | with_reducible apply need_keeps
    | with_reducible apply State.fiRefused_keeps
    | with_reducible apply State.setFi_keeps
    | with_reducible apply State.setB_keeps
    | with_reducible apply keeps_ite
    | with_reducible apply keptW_ok
    | with_reducible apply keptW_no
    | with_reducible apply keptO_next
    | with_reducible apply keptW_ite

theorem execFiArm_keeps {q : List Instr} {u : Nat} {p : Path} {s : State} (hs : Keeps q u s) :
    KeptO q u (execFiArm p s) := by
  unfold execFiArm
  repeat' first
    | with_reducible assumption
    | refine fun (s : State) (h : Keeps q u s) => ?_
    | refine fun _ => ?_
    | with_reducible apply access_keeps
    | with_reducible apply wrFiCmd_keeps

theorem execFiCancel_keeps {q : List Instr} {u : Nat} {p : Path} {s : State} (hs : Keeps q u s) :
    KeptO q u (execFiCancel p s) := by
  unfold execFiCancel
  repeat' first
    | with_reducible assumption
    | refine fun (s : State) (h : Keeps q u s) => ?_
    | refine fun _ => ?_
    | with_reducible apply access_keeps
    | with_reducible apply wrFiCmd_keeps

end Sys2Proof.Machine
end

