-- ==== Sys2Proof/Laws/KeepsInhibit.lean ====
section
/-! SUPPORT. What each operation of Machine/Inhibit.lean keeps (Laws/Keeps.lean). -/
namespace Sys2Proof.Machine

theorem State.fiLow_keeps {q : List Instr} {u : Nat} {s : State} {n : Nat} (hs : Keeps q u s) :
    Keeps q u (State.fiLow s n) := by
  unfold State.fiLow
  repeat' first
    | with_reducible assumption
    | (intro s; refine cut (p := Keeps q u (s : State)) ?_ ?_; (on_goal 2 => clear_value s; intro _); (on_goal 1 => try subst s))
    | (lift_lets -underBinder; (intro x; clear_value x))
    | with_reducible apply State.emit_keeps
    | with_reducible apply State.setFire_keeps
    | with_reducible apply State.rotationEnd_keeps
    | with_reducible apply keeps_ite

theorem State.fiOff_keeps {q : List Instr} {u : Nat} {s : State} (hs : Keeps q u s) :
    Keeps q u (State.fiOff s) := by
  unfold State.fiOff
  repeat' first
    | with_reducible assumption
    | refine fun (s : State) (h : Keeps q u s) => ?_
    | refine fun _ => ?_
    | with_reducible apply State.forAll_keeps
    | with_reducible apply State.fiLow_keeps
    | with_reducible apply State.mtSync_keeps

theorem State.inhibitWith_keeps {q : List Instr} {u : Nat} {s : State} {src : Nat} (hs : Keeps q u s) :
    Keeps q u (State.inhibitWith s src) := by
  unfold State.inhibitWith
  repeat' first
    | with_reducible assumption
    | refine fun (s : State) (h : Keeps q u s) => ?_
    | refine fun _ => ?_
    | (intro s; refine cut (p := Keeps q u (s : State)) ?_ ?_; (on_goal 2 => clear_value s; intro _); (on_goal 1 => try subst s))
    | (intro x; clear_value x)
    | (lift_lets -underBinder; (intro x; clear_value x))
    | with_reducible apply State.set_keeps
    | with_reducible apply State.hit_keeps
    | with_reducible apply State.pgSyncAll_keeps
    | with_reducible apply State.haltAll_keeps
    | with_reducible apply State.stopAll_keeps
    | with_reducible apply State.mtSync_keeps
    | with_reducible apply WRes.mtSync_keeps
    | with_reducible apply hf
    | with_reducible apply keeps_ite

theorem State.inhibitSrc_keeps {q : List Instr} {u : Nat} {s : State} {bit : Nat} {on : Bool} (hs : Keeps q u s) :
    Keeps q u (State.inhibitSrc s bit on) := by
  unfold State.inhibitSrc
  repeat' first
    | with_reducible assumption
    | with_reducible apply State.inhibitWith_keeps

theorem State.inhibitSync_keeps {q : List Instr} {u : Nat} {s : State} (hs : Keeps q u s) :
    Keeps q u (State.inhibitSync s) := by
  unfold State.inhibitSync
  repeat' first
    | with_reducible assumption
    | with_reducible apply State.inhibitWith_keeps

theorem State.toReset_keeps {q : List Instr} {u : Nat} {s : State} (hs : Keeps q u s) : Keeps q u (State.toReset s) := by
  have h := State.flashCut_keeps hs
  exact State.setB_keeps (State.set_keeps (State.set_keeps
    ⟨filter_wf h.mem, fun p hp => h.sized p (List.mem_filter.mp hp).1, h.up, h.queue⟩))

theorem State.resetEvent_keeps {q : List Instr} {u : Nat} {s : State} {cause : Nat} (hs : Keeps q u s) :
    Keeps q u (State.resetEvent s cause) := by
  unfold State.resetEvent
  repeat' first
    | with_reducible assumption
    | (intro s; refine cut (p := Keeps q u (s : State)) ?_ ?_; (on_goal 2 => clear_value s; intro _); (on_goal 1 => try subst s))
    | (intro x; clear_value x)
    | (lift_lets -underBinder; (intro x; clear_value x))
    | with_reducible apply State.setModes_keeps
    | with_reducible apply State.set_keeps
    | with_reducible apply State.journal_keeps
    | with_reducible apply State.toReset_keeps
    | with_reducible apply State.emit_keeps
    | with_reducible apply keeps_ite

theorem State.railFall_keeps {q : List Instr} {u : Nat} {s : State} (hs : Keeps q u s) :
    Keeps q u (State.railFall s) := by
  unfold State.railFall
  repeat' first
    | with_reducible assumption
    | (intro x; clear_value x)
    | (lift_lets -underBinder; (intro s; refine cut (p := Keeps q u (s : State)) ?_ ?_; (on_goal 2 => clear_value s; intro _); (on_goal 1 => try subst s)))
    | with_reducible apply State.resetEvent_keeps
    | with_reducible apply State.setModes_keeps

end Sys2Proof.Machine
end

