-- ==== Sys2Proof/Laws/KeepsPosif.lean ====
section
/-! SUPPORT. What each operation of Machine/Posif.lean keeps (Laws/Keeps.lean). -/
namespace Sys2Proof.Machine

theorem State.piHit_keeps {q : List Instr} {u : Nat} {s : State} {i : Nat} {bit : Nat} {cls : Nat} (hs : Keeps q u s) :
    Keeps q u (State.piHit s i bit cls) := by
  unfold State.piHit
  repeat' first
    | with_reducible assumption
    | with_reducible apply State.hit_keeps

theorem State.piFollow_keeps {q : List Instr} {u : Nat} {s : State} {i : Nat} (hs : Keeps q u s) :
    Keeps q u (State.piFollow s i) := by
  unfold State.piFollow
  repeat' first
    | with_reducible assumption
    | with_reducible apply State.relayFollow_keeps
    | with_reducible apply State.predSync_keeps
    | with_reducible apply State.predUpdate_keeps

theorem State.piFaultBy_keeps {q : List Instr} {u : Nat} {s : State} {i : Nat} {halt : Bool} (hs : Keeps q u s) :
    Keeps q u (State.piFaultBy s i halt) := by
  unfold State.piFaultBy
  repeat' first
    | with_reducible assumption
    | (intro s; refine cut (p := Keeps q u (s : State)) ?_ ?_; (on_goal 2 => clear_value s; intro _); (on_goal 1 => try subst s))
    | (intro x; clear_value x)
    | (lift_lets -underBinder; (intro x; clear_value x))
    | with_reducible apply State.setB_keeps
    | with_reducible apply State.set_keeps
    | with_reducible apply State.setPif_keeps
    | with_reducible apply State.piHit_keeps
    | with_reducible apply State.halt_keeps
    | with_reducible apply State.axPiFault_keeps
    | with_reducible apply State.piFollow_keeps
    | with_reducible apply keeps_ite

theorem State.piInhibit_keeps {q : List Instr} {u : Nat} {s : State} {i : Nat} (hs : Keeps q u s) :
    Keeps q u (State.piInhibit s i) := by
  unfold State.piInhibit
  repeat' first
    | with_reducible assumption
    | with_reducible apply State.setB_keeps
    | with_reducible apply State.piFaultBy_keeps

theorem State.piFaultNow_keeps {q : List Instr} {u : Nat} {s : State} {i : Nat} (hs : Keeps q u s) :
    Keeps q u (State.piFaultNow s i) := by
  unfold State.piFaultNow
  repeat' first
    | with_reducible assumption
    | with_reducible apply State.piFaultBy_keeps

theorem State.msHit_keeps {q : List Instr} {u : Nat} {s : State} {m : Nat} {ts : Nat} (hs : Keeps q u s) :
    Keeps q u (State.msHit s m ts) := by
  unfold State.msHit
  repeat' first
    | with_reducible assumption
    | (intro s; refine cut (p := Keeps q u (s : State)) ?_ ?_; (on_goal 2 => clear_value s; intro _); (on_goal 1 => try subst s))
    | (intro x; clear_value x)
    | (lift_lets -underBinder; (intro x; clear_value x))
    | with_reducible apply State.set_keeps
    | with_reducible apply State.inc_keeps
    | with_reducible apply State.relayOp_keeps
    | with_reducible apply State.raiseAt_keeps
    | with_reducible apply State.msMove_keeps
    | with_reducible apply State.axTrigger_keeps
    | with_reducible apply State.msRelease_keeps
    | with_reducible apply keeps_ite

theorem State.msEdge_keeps {q : List Instr} {u : Nat} {s : State} {i : Nat} {up : Bool} {ts : Nat} (hs : Keeps q u s) :
    Keeps q u (State.msEdge s i up ts) := by
  unfold State.msEdge
  repeat' first
    | with_reducible assumption
    | refine fun (s : State) (h : Keeps q u s) => ?_
    | refine fun _ => ?_
    | with_reducible apply State.forAll_keeps
    | with_reducible apply State.msHit_keeps
    | with_reducible apply keeps_ite

theorem State.fastEdge_keeps {q : List Instr} {u : Nat} {s : State} {i : Nat} (hs : Keeps q u s) :
    Keeps q u (State.fastEdge s i) := by
  unfold State.fastEdge
  repeat' first
    | with_reducible assumption
    | (intro s; refine cut (p := Keeps q u (s : State)) ?_ ?_; (on_goal 2 => clear_value s; intro _); (on_goal 1 => try subst s))
    | (intro x; clear_value x)
    | (lift_lets -underBinder; (intro s; refine cut (p := Keeps q u (s : State)) ?_ ?_; (on_goal 2 => clear_value s; intro _); (on_goal 1 => try subst s)))
    | with_reducible apply State.inc_keeps
    | with_reducible apply State.piHit_keeps
    | with_reducible apply State.setPif_keeps
    | with_reducible apply State.piFaultNow_keeps
    | with_reducible apply keeps_ite

theorem State.piEdge_keeps {q : List Instr} {u : Nat} {s : State} {i : Nat} {up0 : Bool} {ts : Nat} (hs : Keeps q u s) :
    Keeps q u (State.piEdge s i up0 ts) := by
  unfold State.piEdge
  repeat' first
    | with_reducible assumption
    | (intro s; refine cut (p := Keeps q u (s : State)) ?_ ?_; (on_goal 2 => clear_value s; intro _); (on_goal 1 => try subst s))
    | (intro x; clear_value x)
    | (lift_lets -underBinder; (intro x; clear_value x))
    | with_reducible apply State.setPif_keeps
    | with_reducible apply State.set_keeps
    | with_reducible apply State.setB_keeps
    | with_reducible apply State.piHit_keeps
    | with_reducible apply State.predEdge_keeps
    | with_reducible apply State.predUpdate_keeps
    | with_reducible apply State.axEdge_keeps
    | with_reducible apply State.msEdge_keeps
    | with_reducible apply State.fastEdge_keeps
    | with_reducible apply keeps_ite

theorem State.piError_keeps {q : List Instr} {u : Nat} {s : State} {i : Nat} (hs : Keeps q u s) :
    Keeps q u (State.piError s i) := by
  unfold State.piError
  repeat' first
    | with_reducible assumption
    | (intro s; refine cut (p := Keeps q u (s : State)) ?_ ?_; (on_goal 2 => clear_value s; intro _); (on_goal 1 => try subst s))
    | (intro x; clear_value x)
    | (lift_lets -underBinder; (intro s; refine cut (p := Keeps q u (s : State)) ?_ ?_; (on_goal 2 => clear_value s; intro _); (on_goal 1 => try subst s)))
    | with_reducible apply State.inc_keeps
    | with_reducible apply State.setB_keeps
    | with_reducible apply State.piHit_keeps
    | with_reducible apply State.setPif_keeps
    | with_reducible apply State.piFaultNow_keeps
    | with_reducible apply keeps_ite

theorem State.piLevels_keeps {q : List Instr} {u : Nat} {s : State} {i : Nat} {v : Nat} (hs : Keeps q u s) :
    Keeps q u (State.piLevels s i v) := by
  unfold State.piLevels
  repeat' first
    | with_reducible assumption
    | refine fun (s : State) (h : Keeps q u s) => ?_
    | refine fun _ => ?_
    | (lift_lets -underBinder; (intro s; refine cut (p := Keeps q u (s : State)) ?_ ?_; (on_goal 2 => clear_value s; intro _); (on_goal 1 => try subst s)))
    | with_reducible apply State.setF_keeps
    | with_reducible apply State.relayFollow_keeps
    | with_reducible apply State.forAll_keeps
    | with_reducible apply State.hallSync_keeps
    | with_reducible apply keeps_ite

theorem State.quadChange_keeps {q : List Instr} {u : Nat} {s : State} {i : Nat} {ab : Nat} {e : Nat} (hs : Keeps q u s) :
    Keeps q u (State.quadChange s i ab e) := by
  unfold State.quadChange
  repeat' first
    | with_reducible assumption
    | (intro s; refine cut (p := Keeps q u (s : State)) ?_ ?_; (on_goal 2 => clear_value s; intro _); (on_goal 1 => try subst s))
    | (intro x; clear_value x)
    | (lift_lets -underBinder; (intro x; clear_value x))
    | with_reducible apply State.piLevels_keeps
    | with_reducible apply State.piEdge_keeps
    | with_reducible apply State.piError_keeps
    | with_reducible apply keeps_ite

theorem execPiEdgeCounted_keeps {q : List Instr} {u : Nat} {i : Nat} {ab : Nat} {e : Nat} {t : Nat} {s : State} (hs : Keeps q u s) :
    KeptO q u (execPiEdgeCounted i ab e t s) := by
  unfold execPiEdgeCounted
  repeat' first
    | with_reducible assumption
    | (lift_lets -underBinder; (intro s; refine cut (p := Keeps q u (s : State)) ?_ ?_; (on_goal 2 => clear_value s; intro _); (on_goal 1 => try subst s)))
    | with_reducible apply State.adv_keeps
    | with_reducible apply State.quadChange_keeps
    | with_reducible apply keeps_ite
    | with_reducible apply keptW_ok
    | with_reducible apply keptW_no
    | with_reducible apply keptO_next

theorem State.hallChange_keeps {q : List Instr} {u : Nat} {s : State} {i : Nat} {code : Nat} {e : Nat} (hs : Keeps q u s) :
    Keeps q u (State.hallChange s i code e) := by
  unfold State.hallChange
  repeat' first
    | with_reducible assumption
    | (intro s; refine cut (p := Keeps q u (s : State)) ?_ ?_; (on_goal 2 => clear_value s; intro _); (on_goal 1 => try subst s))
    | (intro x; clear_value x)
    | (lift_lets -underBinder; first | (intro s; refine cut (p := Keeps q u (s : State)) ?_ ?_; (on_goal 2 => clear_value s; intro _); (on_goal 1 => try subst s)) | (intro x; clear_value x))
    | with_reducible apply State.piLevels_keeps
    | with_reducible apply State.setPif_keeps
    | with_reducible apply State.piEdge_keeps
    | with_reducible apply State.piError_keeps
    | with_reducible apply keeps_ite
    | with_reducible apply keptW_ok
    | with_reducible apply keptW_no
    | with_reducible apply keptO_next
    | with_reducible apply keptW_ite
    | with_reducible apply keptO_ite
    | refine Keeps.of_ok (by with_reducible assumption) ?_
    | refine Keeps.of_no (by with_reducible assumption) ?_
    | refine Keeps.of_fst (by with_reducible assumption) ?_
    | refine Keeps.of_snd (by with_reducible assumption) ?_
    | split

theorem execPiHallChange_keeps {q : List Instr} {u : Nat} {i : Nat} {code : Nat} {e : Nat} {t : Nat} {s : State} (hs : Keeps q u s) :
    KeptO q u (execPiHallChange i code e t s) := by
  unfold execPiHallChange
  repeat' first
    | with_reducible assumption
    | (lift_lets -underBinder; (intro s; refine cut (p := Keeps q u (s : State)) ?_ ?_; (on_goal 2 => clear_value s; intro _); (on_goal 1 => try subst s)))
    | with_reducible apply State.adv_keeps
    | with_reducible apply State.hallChange_keeps
    | with_reducible apply keeps_ite
    | with_reducible apply keptW_ok
    | with_reducible apply keptW_no
    | with_reducible apply keptO_next

theorem State.piGlitch_keeps {q : List Instr} {u : Nat} {s : State} {i : Nat} (hs : Keeps q u s) :
    Keeps q u (State.piGlitch s i) := by
  unfold State.piGlitch
  repeat' first
    | with_reducible assumption
    | (intro s; refine cut (p := Keeps q u (s : State)) ?_ ?_; (on_goal 2 => clear_value s; intro _); (on_goal 1 => try subst s))
    | (lift_lets -underBinder; (intro x; clear_value x))
    | with_reducible apply State.inc_keeps
    | with_reducible apply State.setPif_keeps
    | with_reducible apply State.piFaultNow_keeps
    | with_reducible apply keeps_ite

theorem execPiGlitch_keeps {q : List Instr} {u : Nat} {i : Nat} {x : Pulse} {s : State} (hs : Keeps q u s) :
    KeptO q u (execPiGlitch i x s) := by
  unfold execPiGlitch
  repeat' first
    | with_reducible assumption
    | refine fun (s : State) (h : Keeps q u s) => ?_
    | refine fun _ => ?_
    | (lift_lets -underBinder; (intro s; refine cut (p := Keeps q u (s : State)) ?_ ?_; (on_goal 2 => clear_value s; intro _); (on_goal 1 => try subst s)))
    | with_reducible apply State.adv_keeps
    | with_reducible apply State.forAll_keeps
    | with_reducible apply State.emit_keeps
    | with_reducible apply State.piGlitch_keeps
    | with_reducible apply keeps_ite
    | with_reducible apply keptW_ok
    | with_reducible apply keptW_no
    | with_reducible apply keptO_next
    | with_reducible apply keptW_ite
    | with_reducible apply keptO_ite

theorem State.zChange_keeps {q : List Instr} {u : Nat} {s : State} {i : Nat} {level : Bool} {e : Nat} (hs : Keeps q u s) :
    Keeps q u (State.zChange s i level e) := by
  unfold State.zChange
  repeat' first
    | with_reducible assumption
    | refine fun (s : State) (h : Keeps q u s) => ?_
    | refine fun _ => ?_
    | (intro s; refine cut (p := Keeps q u (s : State)) ?_ ?_; (on_goal 2 => clear_value s; intro _); (on_goal 1 => try subst s))
    | (intro x; clear_value x)
    | (lift_lets -underBinder; (intro x; clear_value x))
    | with_reducible apply State.piLevels_keeps
    | with_reducible apply State.set_keeps
    | with_reducible apply State.setB_keeps
    | with_reducible apply State.piHit_keeps
    | with_reducible apply State.forAll_keeps
    | with_reducible apply State.axCount_keeps
    | with_reducible apply State.limitCheck_keeps
    | with_reducible apply State.axHome_keeps
    | with_reducible apply keeps_ite

theorem execPiZEdge_keeps {q : List Instr} {u : Nat} {i : Nat} {level : Bool} {z : ZChange} {t : Nat} {s : State} (hs : Keeps q u s) :
    KeptO q u (execPiZEdge i level z t s) := by
  unfold execPiZEdge
  repeat' first
    | with_reducible assumption
    | (intro s; refine cut (p := Keeps q u (s : State)) ?_ ?_; (on_goal 2 => clear_value s; intro _); (on_goal 1 => try subst s))
    | (lift_lets -underBinder; (intro s; refine cut (p := Keeps q u (s : State)) ?_ ?_; (on_goal 2 => clear_value s; intro _); (on_goal 1 => try subst s)))
    | with_reducible apply State.adv_keeps
    | with_reducible apply State.quadChange_keeps
    | with_reducible apply State.zChange_keeps
    | with_reducible apply keeps_ite
    | with_reducible apply keptW_ok
    | with_reducible apply keptW_no
    | with_reducible apply keptO_next

theorem State.hallInvalid_keeps {q : List Instr} {u : Nat} {s : State} {i : Nat} (hs : Keeps q u s) :
    Keeps q u (State.hallInvalid s i) := by
  unfold State.hallInvalid
  repeat' first
    | with_reducible assumption
    | (lift_lets -underBinder; (intro x; clear_value x))
    | with_reducible apply State.setPif_keeps
    | with_reducible apply State.inc_keeps
    | with_reducible apply State.piHit_keeps

theorem execPiInvalidHall_keeps {q : List Instr} {u : Nat} {i : Nat} {t : Nat} {s : State} (hs : Keeps q u s) :
    KeptO q u (execPiInvalidHall i t s) := by
  unfold execPiInvalidHall
  repeat' first
    | with_reducible assumption
    | (lift_lets -underBinder; (intro s; refine cut (p := Keeps q u (s : State)) ?_ ?_; (on_goal 2 => clear_value s; intro _); (on_goal 1 => try subst s)))
    | with_reducible apply State.adv_keeps
    | with_reducible apply State.hallInvalid_keeps
    | with_reducible apply keeps_ite
    | with_reducible apply keptW_ok
    | with_reducible apply keptW_no
    | with_reducible apply keptO_next
    | with_reducible apply keptW_ite
    | with_reducible apply keptO_ite
    | refine Keeps.of_ok (by with_reducible assumption) ?_
    | refine Keeps.of_no (by with_reducible assumption) ?_
    | refine Keeps.of_fst (by with_reducible assumption) ?_
    | refine Keeps.of_snd (by with_reducible assumption) ?_
    | split

theorem execInvalidHallHeld_keeps {q : List Instr} {u : Nat} {i : Nat} {t : Nat} {s : State} (hs : Keeps q u s) :
    KeptO q u (execInvalidHallHeld i t s) := by
  unfold execInvalidHallHeld
  repeat' first
    | with_reducible assumption
    | (intro s; refine cut (p := Keeps q u (s : State)) ?_ ?_; (on_goal 2 => clear_value s; intro _); (on_goal 1 => try subst s))
    | (lift_lets -underBinder; first | (intro s; refine cut (p := Keeps q u (s : State)) ?_ ?_; (on_goal 2 => clear_value s; intro _); (on_goal 1 => try subst s)) | (intro x; clear_value x))
    | with_reducible apply State.adv_keeps
    | with_reducible apply State.setPif_keeps
    | with_reducible apply State.piFaultNow_keeps
    | with_reducible apply keeps_ite
    | with_reducible apply keptW_ok
    | with_reducible apply keptW_no
    | with_reducible apply keptO_next
    | with_reducible apply keptW_ite
    | with_reducible apply keptO_ite
    | refine Keeps.of_ok (by with_reducible assumption) ?_
    | refine Keeps.of_no (by with_reducible assumption) ?_
    | refine Keeps.of_fst (by with_reducible assumption) ?_
    | refine Keeps.of_snd (by with_reducible assumption) ?_
    | split

theorem State.wireBad_keeps {q : List Instr} {u : Nat} {s : State} {i : Nat} {pair : Nat} {bad : Bool} (hs : Keeps q u s) :
    Keeps q u (State.wireBad s i pair bad) := by
  unfold State.wireBad
  repeat' first
    | with_reducible assumption
    | with_reducible apply State.setF_keeps

theorem State.wireEpisode_keeps {q : List Instr} {u : Nat} {s : State} {i : Nat} (hs : Keeps q u s) :
    Keeps q u (State.wireEpisode s i) := by
  unfold State.wireEpisode
  repeat' first
    | with_reducible assumption
    | (intro s; refine cut (p := Keeps q u (s : State)) ?_ ?_; (on_goal 2 => clear_value s; intro _); (on_goal 1 => try subst s))
    | (intro x; clear_value x)
    | (lift_lets -underBinder; (intro s; refine cut (p := Keeps q u (s : State)) ?_ ?_; (on_goal 2 => clear_value s; intro _); (on_goal 1 => try subst s)))
    | with_reducible apply State.inc_keeps
    | with_reducible apply State.piHit_keeps
    | with_reducible apply State.setPif_keeps
    | with_reducible apply State.piFaultNow_keeps
    | with_reducible apply keeps_ite

theorem execPiWireDisagree_keeps {q : List Instr} {u : Nat} {i : Nat} {pair : Nat} {x : Since} {s : State} (hs : Keeps q u s) :
    KeptO q u (execPiWireDisagree i pair x s) := by
  unfold execPiWireDisagree
  repeat' first
    | with_reducible assumption
    | (intro s; refine cut (p := Keeps q u (s : State)) ?_ ?_; (on_goal 2 => clear_value s; intro _); (on_goal 1 => try subst s))
    | (intro x; clear_value x)
    | (lift_lets -underBinder; (intro s; refine cut (p := Keeps q u (s : State)) ?_ ?_; (on_goal 2 => clear_value s; intro _); (on_goal 1 => try subst s)))
    | with_reducible apply State.adv_keeps
    | with_reducible apply State.wireBad_keeps
    | with_reducible apply State.setPif_keeps
    | with_reducible apply State.wireEpisode_keeps
    | with_reducible apply keeps_ite
    | with_reducible apply keptW_ok
    | with_reducible apply keptW_no
    | with_reducible apply keptO_next
    | with_reducible apply keptW_ite
    | with_reducible apply keptO_ite

theorem execWireDisagreementHeld_keeps {q : List Instr} {u : Nat} {i : Nat} {pair : Nat} {t : Nat} {s : State} (hs : Keeps q u s) :
    KeptO q u (execWireDisagreementHeld i pair t s) := by
  unfold execWireDisagreementHeld
  repeat' first
    | with_reducible assumption
    | (intro s; refine cut (p := Keeps q u (s : State)) ?_ ?_; (on_goal 2 => clear_value s; intro _); (on_goal 1 => try subst s))
    | (intro x; clear_value x)
    | (lift_lets -underBinder; (intro s; refine cut (p := Keeps q u (s : State)) ?_ ?_; (on_goal 2 => clear_value s; intro _); (on_goal 1 => try subst s)))
    | with_reducible apply State.adv_keeps
    | with_reducible apply State.setPif_keeps
    | with_reducible apply State.piFaultNow_keeps
    | with_reducible apply keeps_ite
    | with_reducible apply keptW_ok
    | with_reducible apply keptW_no
    | with_reducible apply keptO_next
    | with_reducible apply keptW_ite
    | with_reducible apply keptO_ite

theorem State.wireOk_keeps {q : List Instr} {u : Nat} {s : State} {i : Nat} {pair : Nat} (hs : Keeps q u s) :
    Keeps q u (State.wireOk s i pair) := by
  unfold State.wireOk
  repeat' first
    | with_reducible assumption
    | (lift_lets -underBinder; (intro x; clear_value x))
    | with_reducible apply State.wireBad_keeps
    | with_reducible apply State.setPif_keeps

theorem execWireAgreementRestored_keeps {q : List Instr} {u : Nat} {i : Nat} {pair : Nat} {x : Since} {s : State} (hs : Keeps q u s) :
    KeptO q u (execWireAgreementRestored i pair x s) := by
  unfold execWireAgreementRestored
  repeat' first
    | with_reducible assumption
    | (lift_lets -underBinder; (intro s; refine cut (p := Keeps q u (s : State)) ?_ ?_; (on_goal 2 => clear_value s; intro _); (on_goal 1 => try subst s)))
    | with_reducible apply State.adv_keeps
    | with_reducible apply State.wireOk_keeps
    | with_reducible apply keeps_ite
    | with_reducible apply keptW_ok
    | with_reducible apply keptW_no
    | with_reducible apply keptO_next

theorem execPiSpeedUpdate_keeps {q : List Instr} {u : Nat} {i : Nat} {t : Nat} {s : State} (hs : Keeps q u s) :
    KeptO q u (execPiSpeedUpdate i t s) := by
  unfold execPiSpeedUpdate
  repeat' first
    | with_reducible assumption
    | (lift_lets -underBinder; (intro s; refine cut (p := Keeps q u (s : State)) ?_ ?_; (on_goal 2 => clear_value s; intro _); (on_goal 1 => try subst s)))
    | with_reducible apply State.adv_keeps
    | with_reducible apply State.setI_keeps
    | with_reducible apply keeps_ite
    | with_reducible apply keptW_ok
    | with_reducible apply keptW_no
    | with_reducible apply keptO_next

theorem execPiStopped_keeps {q : List Instr} {u : Nat} {i : Nat} {t : Nat} {s : State} (hs : Keeps q u s) :
    KeptO q u (execPiStopped i t s) := by
  unfold execPiStopped
  repeat' first
    | with_reducible assumption
    | (lift_lets -underBinder; (intro s; refine cut (p := Keeps q u (s : State)) ?_ ?_; (on_goal 2 => clear_value s; intro _); (on_goal 1 => try subst s)))
    | with_reducible apply State.adv_keeps
    | with_reducible apply State.setB_keeps
    | with_reducible apply State.set_keeps
    | with_reducible apply State.piHit_keeps
    | with_reducible apply keeps_ite
    | with_reducible apply keptW_ok
    | with_reducible apply keptW_no
    | with_reducible apply keptO_next
    | with_reducible apply keptW_ite
    | with_reducible apply keptO_ite

theorem wrPiCount_keeps {q : List Instr} {u : Nat} {i : Nat} {v : Nat} {s : State} (hs : Keeps q u s) :
    KeptW q u (wrPiCount i v s) := by
  unfold wrPiCount
  repeat' first
    | with_reducible assumption
    | with_reducible apply need_keeps
    | with_reducible apply State.adv_keeps
    | with_reducible apply State.set_keeps
    | with_reducible apply State.setB_keeps
    | with_reducible apply keeps_ite
    | with_reducible apply keptW_ok

theorem execPiCountWrite_keeps {q : List Instr} {u : Nat} {p : Path} {i : Nat} {v : Nat} {s : State} (hs : Keeps q u s) :
    KeptO q u (execPiCountWrite p i v s) := by
  unfold execPiCountWrite
  repeat' first
    | with_reducible assumption
    | refine fun (s : State) (h : Keeps q u s) => ?_
    | refine fun _ => ?_
    | with_reducible apply access_keeps
    | with_reducible apply wrPiCount_keeps

theorem State.piClear_keeps {q : List Instr} {u : Nat} {s : State} {i : Nat} (hs : Keeps q u s) :
    Keeps q u (State.piClear s i) := by
  unfold State.piClear
  repeat' first
    | with_reducible assumption
    | (intro s; refine cut (p := Keeps q u (s : State)) ?_ ?_; (on_goal 2 => clear_value s; intro _); (on_goal 1 => try subst s))
    | (lift_lets -underBinder; (intro x; clear_value x))
    | with_reducible apply State.setB_keeps
    | with_reducible apply State.setPif_keeps
    | with_reducible apply State.piFollow_keeps
    | with_reducible apply keeps_ite

theorem wrPiConfig_keeps {q : List Instr} {u : Nat} {i : Nat} {new : Nat} {clrFault : Bool} {clrUncertain : Bool} {s : State} (hs : Keeps q u s) :
    KeptW q u (wrPiConfig i new clrFault clrUncertain s) := by
  unfold wrPiConfig
  repeat' first
    | with_reducible assumption
    | refine fun (s : State) (h : Keeps q u s) => ?_
    | refine fun _ => ?_
    | (intro s; refine cut (p := Keeps q u (s : State)) ?_ ?_; (on_goal 2 => clear_value s; intro _); (on_goal 1 => try subst s))
    | (intro x; clear_value x)
    | (lift_lets -underBinder; (intro x; clear_value x))
    | with_reducible apply need_keeps
    | with_reducible apply State.set_keeps
    | with_reducible apply State.piClear_keeps
    | with_reducible apply State.setB_keeps
    | with_reducible apply State.setPif_keeps
    | with_reducible apply State.forAll_keeps
    | with_reducible apply State.hallSync_keeps
    | with_reducible apply State.piFaultNow_keeps
    | with_reducible apply State.piFollow_keeps
    | with_reducible apply State.wireOk_keeps
    | with_reducible apply keeps_ite
    | with_reducible apply keptW_ok

theorem cmdPiConfig_keeps {q : List Instr} {u : Nat} {p : Path} {i : Nat} {v : Nat} {s : State} (hs : Keeps q u s) :
    KeptO q u (cmdPiConfig p i v s) := by
  unfold cmdPiConfig
  repeat' first
    | with_reducible assumption
    | refine fun (s : State) (h : Keeps q u s) => ?_
    | refine fun _ => ?_
    | with_reducible apply access_keeps
    | with_reducible apply checked_keeps
    | with_reducible apply wrPiConfig_keeps

theorem execPiConfigWrite_keeps {q : List Instr} {u : Nat} {p : Path} {i : Nat} {v : Nat} {s : State} (hs : Keeps q u s) :
    KeptO q u (execPiConfigWrite p i v s) := by
  unfold execPiConfigWrite
  repeat' first
    | with_reducible assumption
    | with_reducible apply cmdPiConfig_keeps

theorem execClrFault_keeps {q : List Instr} {u : Nat} {p : Path} {i : Nat} {s : State} (hs : Keeps q u s) :
    KeptO q u (execClrFault p i s) := by
  unfold execClrFault
  repeat' first
    | with_reducible assumption
    | with_reducible apply cmdPiConfig_keeps

theorem execClrUncertain_keeps {q : List Instr} {u : Nat} {p : Path} {i : Nat} {s : State} (hs : Keeps q u s) :
    KeptO q u (execClrUncertain p i s) := by
  unfold execClrUncertain
  repeat' first
    | with_reducible assumption
    | with_reducible apply cmdPiConfig_keeps

theorem wrMsControl_keeps {q : List Instr} {u : Nat} {m : Nat} {new : Nat} {s : State} (hs : Keeps q u s) :
    KeptW q u (wrMsControl m new s) := by
  unfold wrMsControl
  repeat' first
    | with_reducible assumption
    | (intro x; clear_value x)
    | (lift_lets -underBinder; (intro x; clear_value x))
    | with_reducible apply State.msRelease_keeps
    | with_reducible apply State.raiseAt_keeps
    | with_reducible apply State.set_keeps
    | with_reducible apply State.msClaim_keeps
    | with_reducible apply keeps_ite
    | with_reducible apply keptW_ok
    | with_reducible apply keptW_no
    | with_reducible apply keptO_next
    | with_reducible apply keptW_ite
    | with_reducible apply keptO_ite
    | refine Keeps.of_ok (by with_reducible assumption) ?_
    | refine Keeps.of_no (by with_reducible assumption) ?_
    | refine Keeps.of_fst (by with_reducible assumption) ?_
    | refine Keeps.of_snd (by with_reducible assumption) ?_
    | split

theorem cmdMs_keeps {q : List Instr} {u : Nat} {p : Path} {m : Nat} {v : Nat} {s : State} (hs : Keeps q u s) :
    KeptO q u (cmdMs p m v s) := by
  unfold cmdMs
  repeat' first
    | with_reducible assumption
    | refine fun (s : State) (h : Keeps q u s) => ?_
    | refine fun _ => ?_
    | with_reducible apply access_keeps
    | with_reducible apply checked_keeps
    | with_reducible apply wrMsControl_keeps

theorem execMsEnable_keeps {q : List Instr} {u : Nat} {p : Path} {m : Nat} {v : Nat} {s : State} (hs : Keeps q u s) :
    KeptO q u (execMsEnable p m v s) := by
  unfold execMsEnable
  repeat' first
    | with_reducible assumption
    | with_reducible apply cmdMs_keeps

theorem execMsDisable_keeps {q : List Instr} {u : Nat} {p : Path} {m : Nat} {v : Nat} {s : State} (hs : Keeps q u s) :
    KeptO q u (execMsDisable p m v s) := by
  unfold execMsDisable
  repeat' first
    | with_reducible assumption
    | with_reducible apply cmdMs_keeps

end Sys2Proof.Machine
end

