-- ==== Sys2Proof/Laws/KeepsClock.lean ====
section
/-! SUPPORT. What each operation of Machine/Clock.lean keeps (Laws/Keeps.lean). -/
namespace Sys2Proof.Machine

theorem State.ckPut_keeps {q : List Instr} {u : Nat} {s : State} {b : Nat} {v : Bool} (hs : Keeps q u s) :
    Keeps q u (State.ckPut s b v) := by
  unfold State.ckPut
  repeat' first
    | with_reducible assumption
    | with_reducible apply State.setB_keeps

theorem State.clockInhibitOn_keeps {q : List Instr} {u : Nat} {s : State} {bit : Nat} {decel : Bool} (hs : Keeps q u s) :
    Keeps q u (State.clockInhibitOn s bit decel) := by
  unfold State.clockInhibitOn
  repeat' first
    | with_reducible assumption
    | refine fun (s : State) (h : Keeps q u s) => ?_
    | refine fun _ => ?_
    | (intro s; refine cut (p := Keeps q u (s : State)) ?_ ?_; (on_goal 2 => clear_value s; intro _); (on_goal 1 => try subst s))
    | (lift_lets -underBinder; (intro s; refine cut (p := Keeps q u (s : State)) ?_ ?_; (on_goal 2 => clear_value s; intro _); (on_goal 1 => try subst s)))
    | with_reducible apply State.hit_keeps
    | with_reducible apply State.ckPut_keeps
    | with_reducible apply State.stopAll_keeps
    | with_reducible apply State.haltAll_keeps
    | with_reducible apply State.forAll_keeps
    | with_reducible apply State.setB_keeps
    | with_reducible apply State.inhibitSync_keeps
    | with_reducible apply State.fiOff_keeps
    | with_reducible apply State.predSync_keeps
    | with_reducible apply State.predUpdate_keeps
    | with_reducible apply State.piInhibit_keeps
    | with_reducible apply keeps_ite

theorem State.clockFault_keeps {q : List Instr} {u : Nat} {s : State} {bit : Nat} (hs : Keeps q u s) :
    Keeps q u (State.clockFault s bit) := by
  unfold State.clockFault
  repeat' first
    | with_reducible assumption
    | (intro s; refine cut (p := Keeps q u (s : State)) ?_ ?_; (on_goal 2 => clear_value s; intro _); (on_goal 1 => try subst s))
    | (lift_lets -underBinder; (intro x; clear_value x))
    | with_reducible apply State.setClk_keeps
    | with_reducible apply State.clockInhibitOn_keeps

theorem execRefLoss_keeps {q : List Instr} {u : Nat} {t : Nat} {s : State} (hs : Keeps q u s) :
    KeptO q u (execRefLoss t s) := by
  unfold execRefLoss
  repeat' first
    | with_reducible assumption
    | (intro s; refine cut (p := Keeps q u (s : State)) ?_ ?_; (on_goal 2 => clear_value s; intro _); (on_goal 1 => try subst s))
    | (intro x; clear_value x)
    | (lift_lets -underBinder; (intro s; refine cut (p := Keeps q u (s : State)) ?_ ?_; (on_goal 2 => clear_value s; intro _); (on_goal 1 => try subst s)))
    | with_reducible apply State.adv_keeps
    | with_reducible apply State.hit_keeps
    | with_reducible apply State.ckPut_keeps
    | with_reducible apply State.setClk_keeps
    | with_reducible apply State.clockFault_keeps
    | with_reducible apply keeps_ite
    | with_reducible apply keptW_ok
    | with_reducible apply keptW_no
    | with_reducible apply keptO_next
    | with_reducible apply keptW_ite
    | with_reducible apply keptO_ite

theorem execRefReturn_keeps {q : List Instr} {u : Nat} {t : Nat} {s : State} (hs : Keeps q u s) :
    KeptO q u (execRefReturn t s) := by
  unfold execRefReturn
  repeat' first
    | with_reducible assumption
    | (intro x; clear_value x)
    | (lift_lets -underBinder; (intro s; refine cut (p := Keeps q u (s : State)) ?_ ?_; (on_goal 2 => clear_value s; intro _); (on_goal 1 => try subst s)))
    | with_reducible apply State.adv_keeps
    | with_reducible apply State.setClk_keeps
    | with_reducible apply State.ckPut_keeps
    | with_reducible apply keeps_ite
    | with_reducible apply keptW_ok
    | with_reducible apply keptW_no
    | with_reducible apply keptO_next
    | with_reducible apply keptW_ite
    | with_reducible apply keptO_ite

theorem execHoldoverExpired_keeps {q : List Instr} {u : Nat} {t : Nat} {s : State} (hs : Keeps q u s) :
    KeptO q u (execHoldoverExpired t s) := by
  unfold execHoldoverExpired
  repeat' first
    | with_reducible assumption
    | (lift_lets -underBinder; first | (intro s; refine cut (p := Keeps q u (s : State)) ?_ ?_; (on_goal 2 => clear_value s; intro _); (on_goal 1 => try subst s)) | (intro x; clear_value x))
    | with_reducible apply State.adv_keeps
    | with_reducible apply State.setClk_keeps
    | with_reducible apply State.clockInhibitOn_keeps
    | with_reducible apply keeps_ite
    | with_reducible apply keptW_ok
    | with_reducible apply keptW_no
    | with_reducible apply keptO_next
    | with_reducible apply keptW_ite
    | with_reducible apply keptO_ite
    | refine Keeps.of_ok (by with_reducible assumption) ?_
    | refine Keeps.of_no (by with_reducible assumption) ?_
    | refine Keeps.of_fst (by with_reducible assumption) ?_
    | refine Keeps.of_snd (by with_reducible assumption) ?_
    | split

theorem execPllUnlock_keeps {q : List Instr} {u : Nat} {t : Nat} {s : State} (hs : Keeps q u s) :
    KeptO q u (execPllUnlock t s) := by
  unfold execPllUnlock
  repeat' first
    | with_reducible assumption
    | (lift_lets -underBinder; (intro s; refine cut (p := Keeps q u (s : State)) ?_ ?_; (on_goal 2 => clear_value s; intro _); (on_goal 1 => try subst s)))
    | with_reducible apply State.adv_keeps
    | with_reducible apply State.ckPut_keeps
    | with_reducible apply State.clockFault_keeps
    | with_reducible apply keeps_ite
    | with_reducible apply keptW_ok
    | with_reducible apply keptW_no
    | with_reducible apply keptO_next
    | with_reducible apply keptW_ite
    | with_reducible apply keptO_ite

theorem execDivFault_keeps {q : List Instr} {u : Nat} {t : Nat} {s : State} (hs : Keeps q u s) :
    KeptO q u (execDivFault t s) := by
  unfold execDivFault
  repeat' first
    | with_reducible assumption
    | (intro x; clear_value x)
    | (lift_lets -underBinder; (intro s; refine cut (p := Keeps q u (s : State)) ?_ ?_; (on_goal 2 => clear_value s; intro _); (on_goal 1 => try subst s)))
    | with_reducible apply State.adv_keeps
    | with_reducible apply State.setClk_keeps
    | with_reducible apply State.clockFault_keeps
    | with_reducible apply keeps_ite
    | with_reducible apply keptW_ok
    | with_reducible apply keptW_no
    | with_reducible apply keptO_next
    | with_reducible apply keptW_ite
    | with_reducible apply keptO_ite

theorem execRootLockRegained_keeps {q : List Instr} {u : Nat} {divOk : Bool} {t : Nat} {s : State} (hs : Keeps q u s) :
    KeptO q u (execRootLockRegained divOk t s) := by
  unfold execRootLockRegained
  repeat' first
    | with_reducible assumption
    | (intro x; clear_value x)
    | (lift_lets -underBinder; (intro s; refine cut (p := Keeps q u (s : State)) ?_ ?_; (on_goal 2 => clear_value s; intro _); (on_goal 1 => try subst s)))
    | with_reducible apply State.adv_keeps
    | with_reducible apply State.ckPut_keeps
    | with_reducible apply State.setClk_keeps
    | with_reducible apply keeps_ite
    | with_reducible apply keptW_ok
    | with_reducible apply keptW_no
    | with_reducible apply keptO_next
    | with_reducible apply keptW_ite
    | with_reducible apply keptO_ite
    | refine Keeps.of_ok (by with_reducible assumption) ?_
    | refine Keeps.of_no (by with_reducible assumption) ?_
    | refine Keeps.of_fst (by with_reducible assumption) ?_
    | refine Keeps.of_snd (by with_reducible assumption) ?_
    | split

theorem execLockLossTimeout_keeps {q : List Instr} {u : Nat} {t : Nat} {s : State} (hs : Keeps q u s) :
    KeptO q u (execLockLossTimeout t s) := by
  unfold execLockLossTimeout
  repeat' first
    | with_reducible assumption
    | (lift_lets -underBinder; (intro s; refine cut (p := Keeps q u (s : State)) ?_ ?_; (on_goal 2 => clear_value s; intro _); (on_goal 1 => try subst s)))
    | with_reducible apply State.adv_keeps
    | with_reducible apply State.resetEvent_keeps
    | with_reducible apply keeps_ite
    | with_reducible apply keptW_ok
    | with_reducible apply keptW_no
    | with_reducible apply keptO_next
    | with_reducible apply keptW_ite
    | with_reducible apply keptO_ite
    | refine Keeps.of_ok (by with_reducible assumption) ?_
    | refine Keeps.of_no (by with_reducible assumption) ?_
    | refine Keeps.of_fst (by with_reducible assumption) ?_
    | refine Keeps.of_snd (by with_reducible assumption) ?_
    | split

theorem execRtcXtalLoss_keeps {q : List Instr} {u : Nat} {t : Nat} {s : State} (hs : Keeps q u s) :
    KeptO q u (execRtcXtalLoss t s) := by
  unfold execRtcXtalLoss
  repeat' first
    | with_reducible assumption
    | (intro s; refine cut (p := Keeps q u (s : State)) ?_ ?_; (on_goal 2 => clear_value s; intro _); (on_goal 1 => try subst s))
    | (intro s; refine cut (p := Keeps q u (s.2 : State)) ?_ ?_; (on_goal 2 => clear_value s; intro _); (on_goal 1 => try subst s))
    | (intro x; clear_value x)
    | (lift_lets -underBinder; (intro s; refine cut (p := Keeps q u (s : State)) ?_ ?_; (on_goal 2 => clear_value s; intro _); (on_goal 1 => try subst s)))
    | with_reducible apply State.adv_keeps
    | with_reducible apply State.draw_keeps
    | with_reducible apply State.setBk_keeps
    | with_reducible apply State.setB_keeps
    | with_reducible apply State.journal_keeps
    | with_reducible apply State.ckPut_keeps
    | with_reducible apply State.hit_keeps
    | with_reducible apply State.raise_keeps
    | with_reducible apply keeps_ite
    | with_reducible apply keeps_ite_fst
    | with_reducible apply keeps_ite_snd
    | with_reducible apply keptW_ok
    | with_reducible apply keptW_no
    | with_reducible apply keptO_next
    | with_reducible apply keptW_ite
    | with_reducible apply keptO_ite

theorem execRtcXtalRestored_keeps {q : List Instr} {u : Nat} {t : Nat} {s : State} (hs : Keeps q u s) :
    KeptO q u (execRtcXtalRestored t s) := by
  unfold execRtcXtalRestored
  repeat' first
    | with_reducible assumption
    | (intro s; refine cut (p := Keeps q u (s : State)) ?_ ?_; (on_goal 2 => clear_value s; intro _); (on_goal 1 => try subst s))
    | (intro x; clear_value x)
    | (lift_lets -underBinder; (intro s; refine cut (p := Keeps q u (s : State)) ?_ ?_; (on_goal 2 => clear_value s; intro _); (on_goal 1 => try subst s)))
    | with_reducible apply State.adv_keeps
    | with_reducible apply State.setBk_keeps
    | with_reducible apply State.setB_keeps
    | with_reducible apply State.journal_keeps
    | with_reducible apply State.ckPut_keeps
    | with_reducible apply keeps_ite
    | with_reducible apply keptW_ok
    | with_reducible apply keptW_no
    | with_reducible apply keptO_next
    | with_reducible apply keptW_ite
    | with_reducible apply keptO_ite

theorem execPcieRefLoss_keeps {q : List Instr} {u : Nat} {t : Nat} {s : State} (hs : Keeps q u s) :
    KeptO q u (execPcieRefLoss t s) := by
  unfold execPcieRefLoss
  repeat' first
    | with_reducible assumption
    | (intro s; refine cut (p := Keeps q u (s : State)) ?_ ?_; (on_goal 2 => clear_value s; intro _); (on_goal 1 => try subst s))
    | (intro x; clear_value x)
    | (lift_lets -underBinder; (intro s; refine cut (p := Keeps q u (s : State)) ?_ ?_; (on_goal 2 => clear_value s; intro _); (on_goal 1 => try subst s)))
    | with_reducible apply State.adv_keeps
    | with_reducible apply State.hit_keeps
    | with_reducible apply State.ckPut_keeps
    | with_reducible apply State.setEvs_keeps
    | with_reducible apply keeps_ite
    | with_reducible apply keptW_ok
    | with_reducible apply keptW_no
    | with_reducible apply keptO_next
    | with_reducible apply keptW_ite
    | with_reducible apply keptO_ite

theorem execPllLock_keeps {q : List Instr} {u : Nat} {straps : Nat} {t : Nat} {s : State} (hs : Keeps q u s) :
    KeptO q u (execPllLock straps t s) := by
  unfold execPllLock
  repeat' first
    | with_reducible assumption
    | (intro s; refine cut (p := Keeps q u (s : State)) ?_ ?_; (on_goal 2 => clear_value s; intro _); (on_goal 1 => try subst s))
    | (intro x; clear_value x)
    | (lift_lets -underBinder; (intro s; refine cut (p := Keeps q u (s : State)) ?_ ?_; (on_goal 2 => clear_value s; intro _); (on_goal 1 => try subst s)))
    | with_reducible apply State.adv_keeps
    | with_reducible apply State.set_keeps
    | with_reducible apply State.ckPut_keeps
    | with_reducible apply State.setSupply_keeps
    | with_reducible apply State.setB_keeps
    | with_reducible apply keeps_ite
    | with_reducible apply keptW_ok
    | with_reducible apply keptW_no
    | with_reducible apply keptO_next
    | with_reducible apply keptW_ite
    | with_reducible apply keptO_ite
    | split
    | (with_reducible apply keeps_with; with_reducible assumption)

theorem wrPtLoad_keeps {q : List Instr} {u : Nat} {v : Nat} {s : State} (hs : Keeps q u s) :
    KeptW q u (wrPtLoad v s) := by
  unfold wrPtLoad
  repeat' first
    | with_reducible assumption
    | (intro s; refine cut (p := Keeps q u (s : State)) ?_ ?_; (on_goal 2 => clear_value s; intro _); (on_goal 1 => try subst s))
    | (lift_lets -underBinder; (intro x; clear_value x))
    | with_reducible apply State.adv_keeps
    | with_reducible apply State.ptSet_keeps
    | with_reducible apply State.ckPut_keeps
    | with_reducible apply keeps_ite
    | with_reducible apply keptW_ok
    | with_reducible apply keptW_no
    | with_reducible apply keptO_next
    | with_reducible apply keptW_ite

theorem execCkPtLoad_keeps {q : List Instr} {u : Nat} {p : Path} {v : Nat} {s : State} (hs : Keeps q u s) :
    KeptO q u (execCkPtLoad p v s) := by
  unfold execCkPtLoad
  repeat' first
    | with_reducible assumption
    | refine fun (s : State) (h : Keeps q u s) => ?_
    | refine fun _ => ?_
    | with_reducible apply access_keeps
    | with_reducible apply wrPtLoad_keeps

theorem State.snapshot_keeps {q : List Instr} {u : Nat} {s : State} (hs : Keeps q u s) :
    Keeps q u (State.snapshot s) := by
  unfold State.snapshot
  repeat' first
    | with_reducible assumption
    | (intro s; refine cut (p := Keeps q u (s : State)) ?_ ?_; (on_goal 2 => clear_value s; intro _); (on_goal 1 => try subst s))
    | (intro x; clear_value x)
    | (lift_lets -underBinder; (intro x; clear_value x))
    | with_reducible apply State.setClk_keeps
    | with_reducible apply State.set_keeps
    | with_reducible apply State.inc_keeps
    | with_reducible apply keeps_ite

theorem wrSnapshot_keeps {q : List Instr} {u : Nat} {v : Nat} {s : State} (hs : Keeps q u s) :
    KeptW q u (wrSnapshot v s) := by
  unfold wrSnapshot
  repeat' first
    | with_reducible assumption
    | with_reducible apply need_keeps
    | with_reducible apply State.snapshot_keeps
    | with_reducible apply keeps_ite
    | with_reducible apply keptW_ok

theorem execCkSnapshot_keeps {q : List Instr} {u : Nat} {p : Path} {v : Nat} {s : State} (hs : Keeps q u s) :
    KeptO q u (execCkSnapshot p v s) := by
  unfold execCkSnapshot
  repeat' first
    | with_reducible assumption
    | refine fun (s : State) (h : Keeps q u s) => ?_
    | refine fun _ => ?_
    | with_reducible apply access_keeps
    | with_reducible apply wrSnapshot_keeps

theorem wrCkControl_keeps {q : List Instr} {u : Nat} {new : Nat} {clr : Bool} {s : State} (hs : Keeps q u s) :
    KeptW q u (wrCkControl new clr s) := by
  unfold wrCkControl
  repeat' first
    | with_reducible assumption
    | refine fun (s : State) (h : Keeps q u s) => ?_
    | refine fun _ => ?_
    | (intro s; refine cut (p := Keeps q u (s : State)) ?_ ?_; (on_goal 2 => clear_value s; intro _); (on_goal 1 => try subst s))
    | (lift_lets -underBinder; (intro x; clear_value x))
    | with_reducible apply need_keeps
    | with_reducible apply State.set_keeps
    | with_reducible apply State.ckPut_keeps
    | with_reducible apply State.inhibitSync_keeps
    | with_reducible apply State.forAll_keeps
    | with_reducible apply State.predSync_keeps
    | with_reducible apply State.predUpdate_keeps
    | with_reducible apply State.dlSettleAll_keeps
    | with_reducible apply keeps_ite
    | with_reducible apply keptW_ok

theorem cmdCkControl_keeps {q : List Instr} {u : Nat} {p : Path} {v : Nat} {s : State} (hs : Keeps q u s) :
    KeptO q u (cmdCkControl p v s) := by
  unfold cmdCkControl
  repeat' first
    | with_reducible assumption
    | refine fun (s : State) (h : Keeps q u s) => ?_
    | refine fun _ => ?_
    | with_reducible apply access_keeps
    | with_reducible apply checked_keeps
    | with_reducible apply wrCkControl_keeps

theorem execClrInhibit_keeps {q : List Instr} {u : Nat} {p : Path} {s : State} (hs : Keeps q u s) :
    KeptO q u (execClrInhibit p s) := by
  unfold execClrInhibit
  repeat' first
    | with_reducible assumption
    | with_reducible apply cmdCkControl_keeps

theorem execDlFreeze_keeps {q : List Instr} {u : Nat} {p : Path} {on : Bool} {s : State} (hs : Keeps q u s) :
    KeptO q u (execDlFreeze p on s) := by
  unfold execDlFreeze
  repeat' first
    | with_reducible assumption
    | with_reducible apply cmdCkControl_keeps

end Sys2Proof.Machine
end

