-- ==== Sys2Proof/Laws/KeepsAction.lean ====
section
/-! SUPPORT. What each operation of Machine/Action.lean keeps (Laws/Keeps.lean). -/
namespace Sys2Proof.Machine

theorem State.actTo_keeps {q : List Instr} {u : Nat} {s : State} {e : Nat} {st : Nat} (hs : Keeps q u s) :
    Keeps q u (State.actTo s e st) := by
  unfold State.actTo
  repeat' first
    | with_reducible assumption
    | with_reducible apply State.set_keeps

theorem State.actDo_keeps {q : List Instr} {u : Nat} {s : State} {e : Nat} {f : ActFields} (hs : Keeps q u s) :
    Keeps q u (State.actDo s e f) := by
  unfold State.actDo
  repeat' first
    | with_reducible assumption
    | (lift_lets -underBinder; (intro x; clear_value x))
    | with_reducible apply State.jobStart_keeps
    | with_reducible apply State.jobSwitch_keeps
    | with_reducible apply State.spitBurst_keeps
    | with_reducible apply State.relayOp_keeps
    | with_reducible apply State.snapshot_keeps
    | with_reducible apply keeps_ite
    | with_reducible apply keptW_ok
    | with_reducible apply keptW_no
    | with_reducible apply keptO_next
    | with_reducible apply keptW_ite
    | with_reducible apply keptO_ite
    | refine Keeps.of_ok (by with_reducible assumption) ?_
    | refine Keeps.of_no (by with_reducible assumption) ?_
    | refine Keeps.of_fst (by with_reducible assumption) ?_
    | refine Keeps.of_snd (by with_reducible assumption) ?_
    | split

theorem State.actSuspend_keeps {q : List Instr} {u : Nat} {s : State} {e : Nat} (hs : Keeps q u s) :
    Keeps q u (State.actSuspend s e) := by
  unfold State.actSuspend
  repeat' first
    | with_reducible assumption
    | (intro s; refine cut (p := Keeps q u (s : State)) ?_ ?_; (on_goal 2 => clear_value s; intro _); (on_goal 1 => try subst s))
    | (lift_lets -underBinder; (intro x; clear_value x))
    | with_reducible apply State.actTo_keeps
    | with_reducible apply State.hit_keeps
    | with_reducible apply keeps_ite

theorem State.actTrigger_keeps {q : List Instr} {u : Nat} {s : State} {e : Nat} (hs : Keeps q u s) :
    Keeps q u (State.actTrigger s e) := by
  unfold State.actTrigger
  repeat' first
    | with_reducible assumption
    | (intro x; clear_value x)
    | (lift_lets -underBinder; (intro x; clear_value x))
    | with_reducible apply State.actSuspend_keeps
    | with_reducible apply State.actTo_keeps
    | with_reducible apply State.actDo_keeps
    | with_reducible apply keeps_ite

theorem execActionTrigger_keeps {q : List Instr} {u : Nat} {e : Nat} {t : Nat} {s : State} (hs : Keeps q u s) :
    KeptO q u (execActionTrigger e t s) := by
  unfold execActionTrigger
  repeat' first
    | with_reducible assumption
    | refine fun (s : State) (h : Keeps q u s) => ?_
    | refine fun _ => ?_
    | with_reducible apply State.adv_keeps
    | with_reducible apply State.forAll_keeps
    | with_reducible apply State.actTrigger_keeps
    | with_reducible apply State.mtSync_keeps
    | with_reducible apply WRes.mtSync_keeps
    | with_reducible apply keeps_ite
    | with_reducible apply keptW_ok
    | with_reducible apply keptW_no
    | with_reducible apply keptO_next

theorem wrActField_keeps {q : List Instr} {u : Nat} {e : Nat} {sub : Nat} {v : Nat} {s : State} (hs : Keeps q u s) :
    KeptW q u (wrActField e sub v s) := by
  unfold wrActField
  repeat' first
    | with_reducible assumption
    | with_reducible apply need_keeps
    | with_reducible apply State.set_keeps
    | with_reducible apply State.actTo_keeps
    | with_reducible apply keeps_ite
    | with_reducible apply keptW_ok

theorem execActionFieldWrite_keeps {q : List Instr} {u : Nat} {p : Path} {e : Nat} {sub : Nat} {v : Nat} {s : State} (hs : Keeps q u s) :
    KeptO q u (execActionFieldWrite p e sub v s) := by
  unfold execActionFieldWrite
  repeat' first
    | with_reducible assumption
    | refine fun (s : State) (h : Keeps q u s) => ?_
    | refine fun _ => ?_
    | (lift_lets -underBinder; (intro x; clear_value x))
    | with_reducible apply access_keeps
    | with_reducible apply wrActField_keeps

theorem State.enterLocal_keeps {q : List Instr} {u : Nat} {s : State} {e : Nat} (hs : Keeps q u s) :
    KeptW q u (State.enterLocal s e) := by
  unfold State.enterLocal
  repeat' first
    | with_reducible assumption
    | (lift_lets -underBinder; (intro x; clear_value x))
    | with_reducible apply need_keeps
    | with_reducible apply State.actTo_keeps
    | with_reducible apply State.set_keeps
    | with_reducible apply keeps_ite
    | with_reducible apply keptW_ok

theorem State.sendAction_keeps {q : List Instr} {u : Nat} {s : State} {phase : Nat} {ticket : Nat} {accept : Nat} {refuse : Nat} {cause : Nat} {f : ActFields} (hs : Keeps q u s) :
    Keeps q u (State.sendAction s phase ticket accept refuse cause f) := by
  unfold State.sendAction
  repeat' first
    | with_reducible assumption
    | with_reducible apply State.sendCell_keeps

theorem State.enterRing_keeps {q : List Instr} {u : Nat} {s : State} {e : Nat} (hs : Keeps q u s) :
    KeptW q u (State.enterRing s e) := by
  unfold State.enterRing
  repeat' first
    | with_reducible assumption
    | (intro s; refine cut (p := Keeps q u (s : State)) ?_ ?_; (on_goal 2 => clear_value s; intro _); (on_goal 1 => try subst s))
    | (intro x; clear_value x)
    | (lift_lets -underBinder; (intro x; clear_value x))
    | with_reducible apply need_keeps
    | with_reducible apply State.set_keeps
    | with_reducible apply State.setRing_keeps
    | with_reducible apply State.actTo_keeps
    | with_reducible apply State.sendAction_keeps
    | with_reducible apply keeps_ite
    | with_reducible apply keptW_ok

theorem State.actCancel_keeps {q : List Instr} {u : Nat} {s : State} {e : Nat} (hs : Keeps q u s) :
    KeptW q u (State.actCancel s e) := by
  unfold State.actCancel
  repeat' first
    | with_reducible assumption
    | (intro x; clear_value x)
    | (lift_lets -underBinder; (intro x; clear_value x))
    | with_reducible apply State.actTo_keeps
    | with_reducible apply State.sendAction_keeps
    | with_reducible apply keeps_ite
    | with_reducible apply keptW_ok
    | with_reducible apply keptW_no
    | with_reducible apply keptO_next
    | with_reducible apply keptW_ite

theorem wrActCommand_keeps {q : List Instr} {u : Nat} {e : Nat} {v : Nat} {s : State} (hs : Keeps q u s) :
    KeptW q u (wrActCommand e v s) := by
  unfold wrActCommand
  repeat' first
    | with_reducible assumption
    | with_reducible apply State.enterLocal_keeps
    | with_reducible apply State.enterRing_keeps
    | with_reducible apply State.actCancel_keeps
    | with_reducible apply keeps_ite
    | with_reducible apply keptW_ok
    | with_reducible apply keptW_no
    | with_reducible apply keptO_next
    | with_reducible apply keptW_ite
    | with_reducible apply keptO_ite
    | refine Keeps.of_ok (by with_reducible assumption) ?_
    | refine Keeps.of_no (by with_reducible assumption) ?_
    | refine Keeps.of_fst (by with_reducible assumption) ?_
    | refine Keeps.of_snd (by with_reducible assumption) ?_
    | split

theorem execActionEnterLocal_keeps {q : List Instr} {u : Nat} {p : Path} {e : Nat} {s : State} (hs : Keeps q u s) :
    KeptO q u (execActionEnterLocal p e s) := by
  unfold execActionEnterLocal
  repeat' first
    | with_reducible assumption
    | refine fun (s : State) (h : Keeps q u s) => ?_
    | refine fun _ => ?_
    | with_reducible apply access_keeps
    | with_reducible apply wrActCommand_keeps

theorem execActionEnterRing_keeps {q : List Instr} {u : Nat} {p : Path} {e : Nat} {s : State} (hs : Keeps q u s) :
    KeptO q u (execActionEnterRing p e s) := by
  unfold execActionEnterRing
  repeat' first
    | with_reducible assumption
    | refine fun (s : State) (h : Keeps q u s) => ?_
    | refine fun _ => ?_
    | with_reducible apply access_keeps
    | with_reducible apply wrActCommand_keeps

theorem execActionCancel_keeps {q : List Instr} {u : Nat} {p : Path} {e : Nat} {s : State} (hs : Keeps q u s) :
    KeptO q u (execActionCancel p e s) := by
  unfold execActionCancel
  repeat' first
    | with_reducible assumption
    | refine fun (s : State) (h : Keeps q u s) => ?_
    | refine fun _ => ?_
    | with_reducible apply access_keeps
    | with_reducible apply wrActCommand_keeps

end Sys2Proof.Machine
end

