-- ==== Sys2Proof/Laws/KeepsRing.lean ====
section
/-! SUPPORT. What each operation of Machine/Ring.lean keeps (Laws/Keeps.lean). -/
namespace Sys2Proof.Machine

theorem State.fjPut_keeps {q : List Instr} {u : Nat} {s : State} {b : Nat} {v : Bool} (hs : Keeps q u s) :
    Keeps q u (State.fjPut s b v) := by
  unfold State.fjPut
  repeat' first
    | with_reducible assumption
    | with_reducible apply State.setB_keeps

theorem State.fjHit_keeps {q : List Instr} {u : Nat} {s : State} {bit : Nat} {ev : Nat} {cls : Nat} (hs : Keeps q u s) :
    Keeps q u (State.fjHit s bit ev cls) := by
  unfold State.fjHit
  repeat' first
    | with_reducible assumption
    | with_reducible apply State.hit_keeps

theorem State.forward_keeps {q : List Instr} {u : Nat} {s : State} {type : Nat} {src : Nat} {hops : Nat} {seq : Nat} {fields : List Nat} (hs : Keeps q u s) :
    Keeps q u (State.forward s type src hops seq fields) := by
  unfold State.forward
  repeat' first
    | with_reducible assumption
    | (intro x; clear_value x)
    | (lift_lets -underBinder; (intro s; refine cut (p := Keeps q u (s : State)) ?_ ?_; (on_goal 2 => clear_value s; intro _); (on_goal 1 => try subst s)))
    | with_reducible apply State.ringOut_keeps
    | with_reducible apply State.inc_keeps
    | with_reducible apply State.cellPut_keeps
    | with_reducible apply keeps_ite

theorem State.lockLost_keeps {q : List Instr} {u : Nat} {s : State} {cls : Nat} (hs : Keeps q u s) :
    Keeps q u (State.lockLost s cls) := by
  unfold State.lockLost
  repeat' first
    | with_reducible assumption
    | (intro s; refine cut (p := Keeps q u (s : State)) ?_ ?_; (on_goal 2 => clear_value s; intro _); (on_goal 1 => try subst s))
    | (lift_lets -underBinder; (intro x; clear_value x))
    | with_reducible apply State.setRing_keeps
    | with_reducible apply State.fjPut_keeps
    | with_reducible apply State.fjHit_keeps
    | with_reducible apply keeps_ite

theorem State.proposalFails_keeps {q : List Instr} {u : Nat} {s : State} {e : Nat} {cause : Nat} (hs : Keeps q u s) :
    Keeps q u (State.proposalFails s e cause) := by
  unfold State.proposalFails
  repeat' first
    | with_reducible assumption
    | (intro s; refine cut (p := Keeps q u (s : State)) ?_ ?_; (on_goal 2 => clear_value s; intro _); (on_goal 1 => try subst s))
    | (intro x; clear_value x)
    | (lift_lets -underBinder; (intro x; clear_value x))
    | with_reducible apply State.actTo_keeps
    | with_reducible apply State.set_keeps
    | with_reducible apply State.sendAction_keeps
    | with_reducible apply State.setRing_keeps
    | with_reducible apply State.fjHit_keeps

theorem State.ringBroke_keeps {q : List Instr} {u : Nat} {s : State} (hs : Keeps q u s) :
    Keeps q u (State.ringBroke s) := by
  unfold State.ringBroke
  repeat' first
    | with_reducible assumption
    | refine fun (s : State) (h : Keeps q u s) => ?_
    | refine fun _ => ?_
    | (intro s; refine cut (p := Keeps q u (s : State)) ?_ ?_; (on_goal 2 => clear_value s; intro _); (on_goal 1 => try subst s))
    | (lift_lets -underBinder; (intro x; clear_value x))
    | with_reducible apply State.setRing_keeps
    | with_reducible apply State.fjPut_keeps
    | with_reducible apply State.fjHit_keeps
    | with_reducible apply State.lockLost_keeps
    | with_reducible apply State.forAll_keeps
    | with_reducible apply State.proposalFails_keeps
    | with_reducible apply keeps_ite

theorem State.breakCell_keeps {q : List Instr} {u : Nat} {s : State} (hs : Keeps q u s) :
    Keeps q u (State.breakCell s) := by
  unfold State.breakCell
  repeat' first
    | with_reducible assumption
    | with_reducible apply State.sendCell_keeps
    | with_reducible apply keeps_ite

theorem State.inputDown_keeps {q : List Instr} {u : Nat} {s : State} (hs : Keeps q u s) :
    Keeps q u (State.inputDown s) := by
  unfold State.inputDown
  repeat' first
    | with_reducible assumption
    | (intro s; refine cut (p := Keeps q u (s : State)) ?_ ?_; (on_goal 2 => clear_value s; intro _); (on_goal 1 => try subst s))
    | (lift_lets -underBinder; (intro x; clear_value x))
    | with_reducible apply State.setRing_keeps
    | with_reducible apply State.fjPut_keeps
    | with_reducible apply State.fjHit_keeps
    | with_reducible apply State.breakCell_keeps
    | with_reducible apply State.ringBroke_keeps

theorem execRingInputUp_keeps {q : List Instr} {u : Nat} {t : Nat} {s : State} (hs : Keeps q u s) :
    KeptO q u (execRingInputUp t s) := by
  unfold execRingInputUp
  repeat' first
    | with_reducible assumption
    | (intro s; refine cut (p := Keeps q u (s : State)) ?_ ?_; (on_goal 2 => clear_value s; intro _); (on_goal 1 => try subst s))
    | (intro x; clear_value x)
    | (lift_lets -underBinder; (intro s; refine cut (p := Keeps q u (s : State)) ?_ ?_; (on_goal 2 => clear_value s; intro _); (on_goal 1 => try subst s)))
    | with_reducible apply State.ringAdv_keeps
    | with_reducible apply State.setRing_keeps
    | with_reducible apply State.fjPut_keeps
    | with_reducible apply State.fjHit_keeps
    | with_reducible apply keeps_ite
    | with_reducible apply keptW_ok
    | with_reducible apply keptW_no
    | with_reducible apply keptO_next
    | with_reducible apply keptW_ite
    | with_reducible apply keptO_ite

theorem execRingInputDown_keeps {q : List Instr} {u : Nat} {t : Nat} {s : State} (hs : Keeps q u s) :
    KeptO q u (execRingInputDown t s) := by
  unfold execRingInputDown
  repeat' first
    | with_reducible assumption
    | (lift_lets -underBinder; (intro s; refine cut (p := Keeps q u (s : State)) ?_ ?_; (on_goal 2 => clear_value s; intro _); (on_goal 1 => try subst s)))
    | with_reducible apply State.ringAdv_keeps
    | with_reducible apply State.inputDown_keeps
    | with_reducible apply keeps_ite
    | with_reducible apply keptW_ok
    | with_reducible apply keptW_no
    | with_reducible apply keptO_next

theorem execCellRxError_keeps {q : List Instr} {u : Nat} {t : Nat} {s : State} (hs : Keeps q u s) :
    KeptO q u (execCellRxError t s) := by
  unfold execCellRxError
  repeat' first
    | with_reducible assumption
    | (intro s; refine cut (p := Keeps q u (s : State)) ?_ ?_; (on_goal 2 => clear_value s; intro _); (on_goal 1 => try subst s))
    | (intro x; clear_value x)
    | (lift_lets -underBinder; (intro s; refine cut (p := Keeps q u (s : State)) ?_ ?_; (on_goal 2 => clear_value s; intro _); (on_goal 1 => try subst s)))
    | with_reducible apply State.ringAdv_keeps
    | with_reducible apply State.inc_keeps
    | with_reducible apply State.setRing_keeps
    | with_reducible apply State.inputDown_keeps
    | with_reducible apply keeps_ite
    | with_reducible apply keptW_ok
    | with_reducible apply keptW_no
    | with_reducible apply keptO_next
    | with_reducible apply keptW_ite
    | with_reducible apply keptO_ite

theorem State.unsteer_keeps {q : List Instr} {u : Nat} {s : State} (hs : Keeps q u s) :
    Keeps q u (State.unsteer s) := by
  unfold State.unsteer
  repeat' first
    | with_reducible assumption
    | with_reducible apply State.lockLost_keeps
    | with_reducible apply State.set_keeps
    | with_reducible apply State.setB_keeps
    | with_reducible apply State.fjPut_keeps

theorem State.elect_keeps {q : List Instr} {u : Nat} {s : State} (hs : Keeps q u s) :
    Keeps q u (State.elect s) := by
  unfold State.elect
  repeat' first
    | with_reducible assumption
    | (intro s; refine cut (p := Keeps q u (s : State)) ?_ ?_; (on_goal 2 => clear_value s; intro _); (on_goal 1 => try subst s))
    | (intro x; clear_value x)
    | (lift_lets -underBinder; (intro x; clear_value x))
    | with_reducible apply State.setRing_keeps
    | with_reducible apply State.lockLost_keeps
    | with_reducible apply State.fjPut_keeps
    | with_reducible apply State.sendCell_keeps
    | with_reducible apply keeps_ite

theorem State.ringFormed'_keeps {q : List Instr} {u : Nat} {s : State} {master : Nat} {size : Nat} {passive : Nat} {formedAt : Nat} {loop : Nat} (hs : Keeps q u s) :
    Keeps q u (State.ringFormed' s master size passive formedAt loop) := by
  unfold State.ringFormed'
  repeat' first
    | with_reducible assumption
    | (intro s; refine cut (p := Keeps q u (s : State)) ?_ ?_; (on_goal 2 => clear_value s; intro _); (on_goal 1 => try subst s))
    | (intro x; clear_value x)
    | (lift_lets -underBinder; (intro x; clear_value x))
    | with_reducible apply State.setRing_keeps
    | with_reducible apply State.set_keeps
    | with_reducible apply State.fjPut_keeps
    | with_reducible apply State.fjHit_keeps
    | with_reducible apply keeps_ite

theorem State.formNoMaster_keeps {q : List Instr} {u : Nat} {s : State} (hs : Keeps q u s) :
    Keeps q u (State.formNoMaster s) := by
  unfold State.formNoMaster
  repeat' first
    | with_reducible assumption
    | (intro s; refine cut (p := Keeps q u (s : State)) ?_ ?_; (on_goal 2 => clear_value s; intro _); (on_goal 1 => try subst s))
    | (lift_lets -underBinder; (intro x; clear_value x))
    | with_reducible apply State.setRing_keeps
    | with_reducible apply State.set_keeps
    | with_reducible apply State.unsteer_keeps
    | with_reducible apply State.fjPut_keeps
    | with_reducible apply State.ringFormed'_keeps

theorem execElectionStart_keeps {q : List Instr} {u : Nat} {t : Nat} {s : State} (hs : Keeps q u s) :
    KeptO q u (execElectionStart t s) := by
  unfold execElectionStart
  repeat' first
    | with_reducible assumption
    | (intro x; clear_value x)
    | (lift_lets -underBinder; (intro s; refine cut (p := Keeps q u (s : State)) ?_ ?_; (on_goal 2 => clear_value s; intro _); (on_goal 1 => try subst s)))
    | with_reducible apply State.ringAdv_keeps
    | with_reducible apply State.formNoMaster_keeps
    | with_reducible apply State.elect_keeps
    | with_reducible apply keeps_ite
    | with_reducible apply keptW_ok
    | with_reducible apply keptW_no
    | with_reducible apply keptO_next
    | with_reducible apply keptW_ite
    | with_reducible apply keptO_ite

theorem State.dropRing_keeps {q : List Instr} {u : Nat} {s : State} (hs : Keeps q u s) :
    Keeps q u (State.dropRing s) := by
  unfold State.dropRing
  repeat' first
    | with_reducible assumption
    | refine fun (s : State) (h : Keeps q u s) => ?_
    | refine fun _ => ?_
    | (intro s; refine cut (p := Keeps q u (s : State)) ?_ ?_; (on_goal 2 => clear_value s; intro _); (on_goal 1 => try subst s))
    | (lift_lets -underBinder; (intro s; refine cut (p := Keeps q u (s : State)) ?_ ?_; (on_goal 2 => clear_value s; intro _); (on_goal 1 => try subst s)))
    | with_reducible apply State.forAll_keeps
    | with_reducible apply State.actTo_keeps
    | with_reducible apply State.set_keeps
    | with_reducible apply State.lockLost_keeps
    | with_reducible apply State.fjPut_keeps
    | with_reducible apply keeps_ite

theorem wrFjControl_keeps {q : List Instr} {u : Nat} {new : Nat} {reform : Bool} {s : State} (hs : Keeps q u s) :
    KeptW q u (wrFjControl new reform s) := by
  unfold wrFjControl
  repeat' first
    | with_reducible assumption
    | (intro s; refine cut (p := Keeps q u (s : State)) ?_ ?_; (on_goal 2 => clear_value s; intro _); (on_goal 1 => try subst s))
    | (lift_lets -underBinder; (intro x; clear_value x))
    | with_reducible apply State.set_keeps
    | with_reducible apply State.dropRing_keeps
    | with_reducible apply State.unsteer_keeps
    | with_reducible apply State.fjPut_keeps
    | with_reducible apply State.elect_keeps
    | with_reducible apply keeps_ite
    | with_reducible apply keptW_ok

theorem execReform_keeps {q : List Instr} {u : Nat} {p : Path} {s : State} (hs : Keeps q u s) :
    KeptO q u (execReform p s) := by
  unfold execReform
  repeat' first
    | with_reducible assumption
    | refine fun (s : State) (h : Keeps q u s) => ?_
    | refine fun _ => ?_
    | with_reducible apply access_keeps
    | with_reducible apply wrFjControl_keeps

theorem State.ringForm_keeps {q : List Instr} {u : Nat} {s : State} {master : Nat} {size : Nat} {passive : Nat} {formedAt : Nat} {loop : Nat} (hs : Keeps q u s) :
    Keeps q u (State.ringForm s master size passive formedAt loop) := by
  unfold State.ringForm
  repeat' first
    | with_reducible assumption
    | refine fun (s : State) (h : Keeps q u s) => ?_
    | refine fun _ => ?_
    | (intro x; clear_value x)
    | (lift_lets -underBinder; first | (intro s; refine cut (p := Keeps q u (s : State)) ?_ ?_; (on_goal 2 => clear_value s; intro _); (on_goal 1 => try subst s)) | (intro x; clear_value x))
    | with_reducible apply State.ringFormed'_keeps
    | with_reducible apply State.fjPut_keeps
    | with_reducible apply State.forAll_keeps
    | with_reducible apply State.sendFor_keeps
    | with_reducible apply keeps_ite

theorem State.numberTo_keeps {q : List Instr} {u : Nat} {s : State} {k : Nat} {passive : Bool} (hs : Keeps q u s) :
    Keeps q u (State.numberTo s k passive) := by
  unfold State.numberTo
  repeat' first
    | with_reducible assumption
    | (intro s; refine cut (p := Keeps q u (s : State)) ?_ ?_; (on_goal 2 => clear_value s; intro _); (on_goal 1 => try subst s))
    | (lift_lets -underBinder; (intro x; clear_value x))
    | with_reducible apply State.setRing_keeps
    | with_reducible apply State.set_keeps
    | with_reducible apply State.fjPut_keeps
    | with_reducible apply State.dropRing_keeps
    | with_reducible apply keeps_ite

theorem execElectCellRx_keeps {q : List Instr} {u : Nat} {src : Nat} {hops : Nat} {seq : Nat} {uid : Nat} {priority : Nat} {flags : Nat} {t : Nat} {s : State} (hs : Keeps q u s) :
    KeptO q u (execElectCellRx src hops seq uid priority flags t s) := by
  unfold execElectCellRx
  repeat' first
    | with_reducible assumption
    | (intro s; refine cut (p := Keeps q u (s : State)) ?_ ?_; (on_goal 2 => clear_value s; intro _); (on_goal 1 => try subst s))
    | (intro x; clear_value x)
    | (lift_lets -underBinder; (intro s; refine cut (p := Keeps q u (s : State)) ?_ ?_; (on_goal 2 => clear_value s; intro _); (on_goal 1 => try subst s)))
    | with_reducible apply State.ringAdv_keeps
    | with_reducible apply State.forward_keeps
    | with_reducible apply State.numberTo_keeps
    | with_reducible apply State.fjPut_keeps
    | with_reducible apply State.set_keeps
    | with_reducible apply State.setB_keeps
    | with_reducible apply State.setRing_keeps
    | with_reducible apply State.sendCell_keeps
    | with_reducible apply State.elect_keeps
    | with_reducible apply keeps_ite
    | with_reducible apply keptW_ok
    | with_reducible apply keptW_no
    | with_reducible apply keptO_next
    | with_reducible apply keptW_ite
    | with_reducible apply keptO_ite

theorem execEnumCellRx_keeps {q : List Instr} {u : Nat} {src : Nat} {hops : Nat} {seq : Nat} {master : Nat} {next : Nat} {passive : Nat} {t : Nat} {s : State} (hs : Keeps q u s) :
    KeptO q u (execEnumCellRx src hops seq master next passive t s) := by
  unfold execEnumCellRx
  repeat' first
    | with_reducible assumption
    | (intro s; refine cut (p := Keeps q u (s : State)) ?_ ?_; (on_goal 2 => clear_value s; intro _); (on_goal 1 => try subst s))
    | (intro x; clear_value x)
    | (lift_lets -underBinder; (intro s; refine cut (p := Keeps q u (s : State)) ?_ ?_; (on_goal 2 => clear_value s; intro _); (on_goal 1 => try subst s)))
    | with_reducible apply State.ringAdv_keeps
    | with_reducible apply State.forward_keeps
    | with_reducible apply State.sendCell_keeps
    | with_reducible apply State.ringForm_keeps
    | with_reducible apply State.numberTo_keeps
    | with_reducible apply State.fjHit_keeps
    | with_reducible apply keeps_ite
    | with_reducible apply keptW_ok
    | with_reducible apply keptW_no
    | with_reducible apply keptO_next
    | with_reducible apply keptW_ite
    | with_reducible apply keptO_ite

theorem execRosterCellRx_keeps {q : List Instr} {u : Nat} {src : Nat} {hops : Nat} {seq : Nat} {master : Nat} {size : Nat} {passive : Nat} {formedAt : Nat} {loop : Nat} {t : Nat} {s : State} (hs : Keeps q u s) :
    KeptO q u (execRosterCellRx src hops seq master size passive formedAt loop t s) := by
  unfold execRosterCellRx
  repeat' first
    | with_reducible assumption
    | (intro s; refine cut (p := Keeps q u (s : State)) ?_ ?_; (on_goal 2 => clear_value s; intro _); (on_goal 1 => try subst s))
    | (lift_lets -underBinder; (intro s; refine cut (p := Keeps q u (s : State)) ?_ ?_; (on_goal 2 => clear_value s; intro _); (on_goal 1 => try subst s)))
    | with_reducible apply State.ringAdv_keeps
    | with_reducible apply State.ringForm_keeps
    | with_reducible apply State.forward_keeps
    | with_reducible apply keeps_ite
    | with_reducible apply keptW_ok
    | with_reducible apply keptW_no
    | with_reducible apply keptO_next
    | with_reducible apply keptW_ite
    | with_reducible apply keptO_ite

theorem execTimeCellLaunch_keeps {q : List Instr} {u : Nat} {t : Nat} {s : State} (hs : Keeps q u s) :
    KeptO q u (execTimeCellLaunch t s) := by
  unfold execTimeCellLaunch
  repeat' first
    | with_reducible assumption
    | (intro s; refine cut (p := Keeps q u (s : State)) ?_ ?_; (on_goal 2 => clear_value s; intro _); (on_goal 1 => try subst s))
    | (intro x; clear_value x)
    | (lift_lets -underBinder; (intro s; refine cut (p := Keeps q u (s : State)) ?_ ?_; (on_goal 2 => clear_value s; intro _); (on_goal 1 => try subst s)))
    | with_reducible apply State.ringAdv_keeps
    | with_reducible apply State.setRing_keeps
    | with_reducible apply State.sendCell_keeps
    | with_reducible apply State.fjPut_keeps
    | with_reducible apply State.fjHit_keeps
    | with_reducible apply keeps_ite
    | with_reducible apply keptW_ok
    | with_reducible apply keptW_no
    | with_reducible apply keptO_next
    | with_reducible apply keptW_ite
    | with_reducible apply keptO_ite

theorem execRingBreakDetect_keeps {q : List Instr} {u : Nat} {t : Nat} {s : State} (hs : Keeps q u s) :
    KeptO q u (execRingBreakDetect t s) := by
  unfold execRingBreakDetect
  repeat' first
    | with_reducible assumption
    | (intro x; clear_value x)
    | (lift_lets -underBinder; (intro s; refine cut (p := Keeps q u (s : State)) ?_ ?_; (on_goal 2 => clear_value s; intro _); (on_goal 1 => try subst s)))
    | with_reducible apply State.ringAdv_keeps
    | with_reducible apply State.breakCell_keeps
    | with_reducible apply State.ringBroke_keeps
    | with_reducible apply keeps_ite
    | with_reducible apply keeps_ite_snd
    | with_reducible apply keptW_ok
    | with_reducible apply keptW_no
    | with_reducible apply keptO_next
    | with_reducible apply keptW_ite
    | with_reducible apply keptO_ite

theorem State.steer_keeps {q : List Instr} {u : Nat} {s : State} {e : Int} (hs : Keeps q u s) :
    Keeps q u (State.steer s e) := by
  unfold State.steer
  repeat' first
    | with_reducible assumption
    | (intro x; clear_value x)
    | (lift_lets -underBinder; (intro x; clear_value x))
    | with_reducible apply State.setRing_keeps
    | with_reducible apply State.setI_keeps

theorem State.stepSuspend_keeps {q : List Instr} {u : Nat} {s : State} {old : Nat} {d : Int} (hs : Keeps q u s) :
    Keeps q u (State.stepSuspend s old d) := by
  unfold State.stepSuspend
  repeat' first
    | with_reducible assumption
    | refine fun (s : State) (h : Keeps q u s) => ?_
    | refine fun _ => ?_
    | with_reducible apply State.forAll_keeps
    | with_reducible apply State.actSuspend_keeps
    | with_reducible apply keeps_ite

theorem State.timeStep_keeps {q : List Instr} {u : Nat} {s : State} {e : Int} (hs : Keeps q u s) :
    Keeps q u (State.timeStep s e) := by
  unfold State.timeStep
  repeat' first
    | with_reducible assumption
    | (intro s; refine cut (p := Keeps q u (s : State)) ?_ ?_; (on_goal 2 => clear_value s; intro _); (on_goal 1 => try subst s))
    | (intro x; clear_value x)
    | (lift_lets -underBinder; (intro s; refine cut (p := Keeps q u (s : State)) ?_ ?_; (on_goal 2 => clear_value s; intro _); (on_goal 1 => try subst s)))
    | with_reducible apply State.adv_keeps
    | with_reducible apply State.setRing_keeps
    | with_reducible apply State.set_keeps
    | with_reducible apply State.ptMove_keeps
    | with_reducible apply State.fjPut_keeps
    | with_reducible apply State.fjHit_keeps
    | with_reducible apply State.lockLost_keeps
    | with_reducible apply State.stepSuspend_keeps
    | with_reducible apply keeps_ite

theorem State.follow_keeps {q : List Instr} {u : Nat} {s : State} {e : Int} {noStep : Bool} (hs : Keeps q u s) :
    Keeps q u (State.follow s e noStep) := by
  unfold State.follow
  repeat' first
    | with_reducible assumption
    | (intro s; refine cut (p := Keeps q u (s : State)) ?_ ?_; (on_goal 2 => clear_value s; intro _); (on_goal 1 => try subst s))
    | (intro x; clear_value x)
    | (lift_lets -underBinder; (intro s; refine cut (p := Keeps q u (s : State)) ?_ ?_; (on_goal 2 => clear_value s; intro _); (on_goal 1 => try subst s)))
    | with_reducible apply State.setSat_keeps
    | with_reducible apply State.fjPut_keeps
    | with_reducible apply State.setB_keeps
    | with_reducible apply State.timeStep_keeps
    | with_reducible apply State.set_keeps
    | with_reducible apply State.fjHit_keeps
    | with_reducible apply State.steer_keeps
    | with_reducible apply State.setI_keeps
    | with_reducible apply State.lockLost_keeps
    | with_reducible apply State.setRing_keeps
    | with_reducible apply keeps_ite

theorem execTimeCellRx_keeps {q : List Instr} {u : Nat} {src : Nat} {hops : Nat} {seq : Nat} {origin : Nat} {corr : Nat} {tseq : Nat} {flags : Nat} {size : Nat} {arr : Nat} {launch : Nat} {t : Nat} {s : State} (hs : Keeps q u s) :
    KeptO q u (execTimeCellRx src hops seq origin corr tseq flags size arr launch t s) := by
  unfold execTimeCellRx
  repeat' first
    | with_reducible assumption
    | (intro s; refine cut (p := Keeps q u (s : State)) ?_ ?_; (on_goal 2 => clear_value s; intro _); (on_goal 1 => try subst s))
    | (intro x; clear_value x)
    | (lift_lets -underBinder; (intro s; refine cut (p := Keeps q u (s : State)) ?_ ?_; (on_goal 2 => clear_value s; intro _); (on_goal 1 => try subst s)))
    | with_reducible apply State.ringAdv_keeps
    | with_reducible apply State.setRing_keeps
    | with_reducible apply State.follow_keeps
    | with_reducible apply State.ringBroke_keeps
    | with_reducible apply State.forward_keeps
    | with_reducible apply keeps_ite
    | with_reducible apply keeps_ite_fst
    | with_reducible apply keptW_ok
    | with_reducible apply keptW_no
    | with_reducible apply keptO_next
    | with_reducible apply keptW_ite
    | with_reducible apply keptO_ite

theorem State.holdoverEnter_keeps {q : List Instr} {u : Nat} {s : State} (hs : Keeps q u s) :
    Keeps q u (State.holdoverEnter s) := by
  unfold State.holdoverEnter
  repeat' first
    | with_reducible assumption
    | (intro s; refine cut (p := Keeps q u (s : State)) ?_ ?_; (on_goal 2 => clear_value s; intro _); (on_goal 1 => try subst s))
    | (lift_lets -underBinder; (intro x; clear_value x))
    | with_reducible apply State.unsteer_keeps
    | with_reducible apply State.setRing_keeps
    | with_reducible apply State.fjPut_keeps
    | with_reducible apply State.lockLost_keeps
    | with_reducible apply keeps_ite

theorem execRingHoldoverEnter_keeps {q : List Instr} {u : Nat} {t : Nat} {s : State} (hs : Keeps q u s) :
    KeptO q u (execRingHoldoverEnter t s) := by
  unfold execRingHoldoverEnter
  repeat' first
    | with_reducible assumption
    | (lift_lets -underBinder; (intro s; refine cut (p := Keeps q u (s : State)) ?_ ?_; (on_goal 2 => clear_value s; intro _); (on_goal 1 => try subst s)))
    | with_reducible apply State.ringAdv_keeps
    | with_reducible apply State.holdoverEnter_keeps
    | with_reducible apply keeps_ite
    | with_reducible apply keptW_ok
    | with_reducible apply keptW_no
    | with_reducible apply keptO_next
    | with_reducible apply keptW_ite
    | with_reducible apply keptO_ite
    | refine Keeps.of_ok (by with_reducible assumption) ?_
    | refine Keeps.of_no (by with_reducible assumption) ?_
    | refine Keeps.of_fst (by with_reducible assumption) ?_
    | refine Keeps.of_snd (by with_reducible assumption) ?_
    | split

theorem execRingHoldoverExpiry_keeps {q : List Instr} {u : Nat} {t : Nat} {s : State} (hs : Keeps q u s) :
    KeptO q u (execRingHoldoverExpiry t s) := by
  unfold execRingHoldoverExpiry
  repeat' first
    | with_reducible assumption
    | (lift_lets -underBinder; (intro s; refine cut (p := Keeps q u (s : State)) ?_ ?_; (on_goal 2 => clear_value s; intro _); (on_goal 1 => try subst s)))
    | with_reducible apply State.ringAdv_keeps
    | with_reducible apply State.setB_keeps
    | with_reducible apply keeps_ite
    | with_reducible apply keptW_ok
    | with_reducible apply keptW_no
    | with_reducible apply keptO_next
    | with_reducible apply keptW_ite
    | with_reducible apply keptO_ite

theorem execEchoLaunch_keeps {q : List Instr} {u : Nat} {t : Nat} {s : State} (hs : Keeps q u s) :
    KeptO q u (execEchoLaunch t s) := by
  unfold execEchoLaunch
  repeat' first
    | with_reducible assumption
    | (intro s; refine cut (p := Keeps q u (s : State)) ?_ ?_; (on_goal 2 => clear_value s; intro _); (on_goal 1 => try subst s))
    | (intro x; clear_value x)
    | (lift_lets -underBinder; (intro s; refine cut (p := Keeps q u (s : State)) ?_ ?_; (on_goal 2 => clear_value s; intro _); (on_goal 1 => try subst s)))
    | with_reducible apply State.ringAdv_keeps
    | with_reducible apply State.setRing_keeps
    | with_reducible apply State.sendCell_keeps
    | with_reducible apply keeps_ite
    | with_reducible apply keptW_ok
    | with_reducible apply keptW_no
    | with_reducible apply keptO_next
    | with_reducible apply keptW_ite
    | with_reducible apply keptO_ite

theorem execEchoCellRx_keeps {q : List Instr} {u : Nat} {t : Nat} {s : State} (hs : Keeps q u s) :
    KeptO q u (execEchoCellRx t s) := by
  unfold execEchoCellRx
  repeat' first
    | with_reducible assumption
    | (lift_lets -underBinder; (intro s; refine cut (p := Keeps q u (s : State)) ?_ ?_; (on_goal 2 => clear_value s; intro _); (on_goal 1 => try subst s)))
    | with_reducible apply State.ringAdv_keeps
    | with_reducible apply State.emit_keeps
    | with_reducible apply keeps_ite
    | with_reducible apply keptW_ok
    | with_reducible apply keptW_no
    | with_reducible apply keptO_next

theorem execEchoMarkRx_keeps {q : List Instr} {u : Nat} {t2 : Nat} {t : Nat} {s : State} (hs : Keeps q u s) :
    KeptO q u (execEchoMarkRx t2 t s) := by
  unfold execEchoMarkRx
  repeat' first
    | with_reducible assumption
    | (intro s; refine cut (p := Keeps q u (s : State)) ?_ ?_; (on_goal 2 => clear_value s; intro _); (on_goal 1 => try subst s))
    | (intro x; clear_value x)
    | (lift_lets -underBinder; first | (intro s; refine cut (p := Keeps q u (s : State)) ?_ ?_; (on_goal 2 => clear_value s; intro _); (on_goal 1 => try subst s)) | (intro x; clear_value x))
    | with_reducible apply State.ringAdv_keeps
    | with_reducible apply State.setRing_keeps
    | with_reducible apply State.set_keeps
    | with_reducible apply State.fjHit_keeps
    | with_reducible apply keeps_ite
    | with_reducible apply keptW_ok
    | with_reducible apply keptW_no
    | with_reducible apply keptO_next
    | with_reducible apply keptW_ite
    | with_reducible apply keptO_ite
    | refine Keeps.of_ok (by with_reducible assumption) ?_
    | refine Keeps.of_no (by with_reducible assumption) ?_
    | refine Keeps.of_fst (by with_reducible assumption) ?_
    | refine Keeps.of_snd (by with_reducible assumption) ?_
    | split

theorem State.echoMissed_keeps {q : List Instr} {u : Nat} {s : State} (hs : Keeps q u s) :
    Keeps q u (State.echoMissed s) := by
  unfold State.echoMissed
  repeat' first
    | with_reducible assumption
    | (intro s; refine cut (p := Keeps q u (s : State)) ?_ ?_; (on_goal 2 => clear_value s; intro _); (on_goal 1 => try subst s))
    | (intro x; clear_value x)
    | (lift_lets -underBinder; (intro x; clear_value x))
    | with_reducible apply State.setRing_keeps
    | with_reducible apply State.emit_keeps
    | with_reducible apply keeps_ite

theorem execEchoTimeout_keeps {q : List Instr} {u : Nat} {t : Nat} {s : State} (hs : Keeps q u s) :
    KeptO q u (execEchoTimeout t s) := by
  unfold execEchoTimeout
  repeat' first
    | with_reducible assumption
    | (lift_lets -underBinder; (intro s; refine cut (p := Keeps q u (s : State)) ?_ ?_; (on_goal 2 => clear_value s; intro _); (on_goal 1 => try subst s)))
    | with_reducible apply State.ringAdv_keeps
    | with_reducible apply State.echoMissed_keeps
    | with_reducible apply keeps_ite
    | with_reducible apply keptW_ok
    | with_reducible apply keptW_no
    | with_reducible apply keptO_next
    | with_reducible apply keptW_ite
    | with_reducible apply keptO_ite
    | refine Keeps.of_ok (by with_reducible assumption) ?_
    | refine Keeps.of_no (by with_reducible assumption) ?_
    | refine Keeps.of_fst (by with_reducible assumption) ?_
    | refine Keeps.of_snd (by with_reducible assumption) ?_
    | split

theorem execActionCellRx_keeps {q : List Instr} {u : Nat} {src : Nat} {hops : Nat} {seq : Nat} {phase : Nat} {ticket : Nat} {accept : Nat} {refuse : Nat} {cause : Nat} {kind : Nat} {trigger : Nat} {when' : Nat} {arg : Nat} {t : Nat} {s : State} (hs : Keeps q u s) :
    KeptO q u (execActionCellRx src hops seq phase ticket accept refuse cause kind trigger when' arg t s) := by
  unfold execActionCellRx
  repeat' first
    | with_reducible assumption
    | refine fun (s : State) (h : Keeps q u s) => ?_
    | refine fun _ => ?_
    | (intro s; refine cut (p := Keeps q u (s : State)) ?_ ?_; (on_goal 2 => clear_value s; intro _); (on_goal 1 => try subst s))
    | (intro f; refine cut (p := ∀ s : State, Keeps q u s → ∀ a r c, Keeps q u (f s a r c : State)) ?_ ?_; (on_goal 2 => clear_value f; intro hf); (on_goal 1 => subst f))
    | (intro x; clear_value x)
    | (lift_lets -underBinder; first | (intro s; refine cut (p := Keeps q u (s : State)) ?_ ?_; (on_goal 2 => clear_value s; intro _); (on_goal 1 => try subst s)) | (intro x; clear_value x))
    | with_reducible apply State.ringAdv_keeps
    | with_reducible apply State.forward_keeps
    | with_reducible apply State.refuse_keeps
    | with_reducible apply State.setRing_keeps
    | with_reducible apply State.actTo_keeps
    | with_reducible apply State.sendAction_keeps
    | with_reducible apply State.proposalFails_keeps
    | with_reducible apply State.set_keeps
    | with_reducible apply hf
    | with_reducible apply keeps_ite
    | with_reducible apply keptW_ok
    | with_reducible apply keptW_no
    | with_reducible apply keptO_next
    | with_reducible apply keptW_ite
    | with_reducible apply keptO_ite
    | refine Keeps.of_ok (by with_reducible assumption) ?_
    | refine Keeps.of_no (by with_reducible assumption) ?_
    | refine Keeps.of_fst (by with_reducible assumption) ?_
    | refine Keeps.of_snd (by with_reducible assumption) ?_
    | split

theorem execProposeTimeout_keeps {q : List Instr} {u : Nat} {e : Nat} {t : Nat} {s : State} (hs : Keeps q u s) :
    KeptO q u (execProposeTimeout e t s) := by
  unfold execProposeTimeout
  repeat' first
    | with_reducible assumption
    | (lift_lets -underBinder; (intro s; refine cut (p := Keeps q u (s : State)) ?_ ?_; (on_goal 2 => clear_value s; intro _); (on_goal 1 => try subst s)))
    | with_reducible apply State.ringAdv_keeps
    | with_reducible apply State.proposalFails_keeps
    | with_reducible apply keeps_ite
    | with_reducible apply keptW_ok
    | with_reducible apply keptW_no
    | with_reducible apply keptO_next
    | with_reducible apply keptW_ite
    | with_reducible apply keptO_ite

theorem execReservedExpiry_keeps {q : List Instr} {u : Nat} {e : Nat} {t : Nat} {s : State} (hs : Keeps q u s) :
    KeptO q u (execReservedExpiry e t s) := by
  unfold execReservedExpiry
  repeat' first
    | with_reducible assumption
    | (lift_lets -underBinder; (intro s; refine cut (p := Keeps q u (s : State)) ?_ ?_; (on_goal 2 => clear_value s; intro _); (on_goal 1 => try subst s)))
    | with_reducible apply State.ringAdv_keeps
    | with_reducible apply State.actTo_keeps
    | with_reducible apply keeps_ite
    | with_reducible apply keptW_ok
    | with_reducible apply keptW_no
    | with_reducible apply keptO_next
    | with_reducible apply keptW_ite
    | with_reducible apply keptO_ite

theorem State.slowRx_keeps {q : List Instr} {u : Nat} {s : State} {k : Nat} {on : Bool} (hs : Keeps q u s) :
    Keeps q u (State.slowRx s k on) := by
  unfold State.slowRx
  repeat' first
    | with_reducible assumption
    | (lift_lets -underBinder; (intro s; refine cut (p := Keeps q u (s : State)) ?_ ?_; (on_goal 2 => clear_value s; intro _); (on_goal 1 => try subst s)))
    | with_reducible apply State.set_keeps
    | with_reducible apply State.fjPut_keeps
    | with_reducible apply State.slowSync_keeps

theorem execSlowCellRx_keeps {q : List Instr} {u : Nat} {src : Nat} {hops : Nat} {seq : Nat} {assert : Bool} {source : Nat} {unit : Nat} {raised : Nat} {t : Nat} {s : State} (hs : Keeps q u s) :
    KeptO q u (execSlowCellRx src hops seq assert source unit raised t s) := by
  unfold execSlowCellRx
  repeat' first
    | with_reducible assumption
    | (intro s; refine cut (p := Keeps q u (s : State)) ?_ ?_; (on_goal 2 => clear_value s; intro _); (on_goal 1 => try subst s))
    | (intro x; clear_value x)
    | (lift_lets -underBinder; (intro s; refine cut (p := Keeps q u (s : State)) ?_ ?_; (on_goal 2 => clear_value s; intro _); (on_goal 1 => try subst s)))
    | with_reducible apply State.ringAdv_keeps
    | with_reducible apply State.forward_keeps
    | with_reducible apply State.setRing_keeps
    | with_reducible apply State.slowRx_keeps
    | with_reducible apply keeps_ite
    | with_reducible apply keptW_ok
    | with_reducible apply keptW_no
    | with_reducible apply keptO_next
    | with_reducible apply keptW_ite
    | with_reducible apply keptO_ite

theorem execSlowRxExpiry_keeps {q : List Instr} {u : Nat} {k : Nat} {t : Nat} {s : State} (hs : Keeps q u s) :
    KeptO q u (execSlowRxExpiry k t s) := by
  unfold execSlowRxExpiry
  repeat' first
    | with_reducible assumption
    | (lift_lets -underBinder; (intro s; refine cut (p := Keeps q u (s : State)) ?_ ?_; (on_goal 2 => clear_value s; intro _); (on_goal 1 => try subst s)))
    | with_reducible apply State.ringAdv_keeps
    | with_reducible apply State.slowRx_keeps
    | with_reducible apply keeps_ite
    | with_reducible apply keptW_ok
    | with_reducible apply keptW_no
    | with_reducible apply keptO_next
    | with_reducible apply keptW_ite
    | with_reducible apply keptO_ite

theorem execSlowCellRepeat_keeps {q : List Instr} {u : Nat} {t : Nat} {s : State} (hs : Keeps q u s) :
    KeptO q u (execSlowCellRepeat t s) := by
  unfold execSlowCellRepeat
  repeat' first
    | with_reducible assumption
    | (lift_lets -underBinder; (intro s; refine cut (p := Keeps q u (s : State)) ?_ ?_; (on_goal 2 => clear_value s; intro _); (on_goal 1 => try subst s)))
    | with_reducible apply State.ringAdv_keeps
    | with_reducible apply State.slowCell_keeps
    | with_reducible apply keeps_ite
    | with_reducible apply keptW_ok
    | with_reducible apply keptW_no
    | with_reducible apply keptO_next
    | with_reducible apply keptW_ite
    | with_reducible apply keptO_ite
    | refine Keeps.of_ok (by with_reducible assumption) ?_
    | refine Keeps.of_no (by with_reducible assumption) ?_
    | refine Keeps.of_fst (by with_reducible assumption) ?_
    | refine Keeps.of_snd (by with_reducible assumption) ?_
    | split

theorem execFaultCellRx_keeps {q : List Instr} {u : Nat} {src : Nat} {hops : Nat} {seq : Nat} {ev : Nat} {cls : Nat} {raised : Nat} {detail : Nat} {t : Nat} {s : State} (hs : Keeps q u s) :
    KeptO q u (execFaultCellRx src hops seq ev cls raised detail t s) := by
  unfold execFaultCellRx
  repeat' first
    | with_reducible assumption
    | (intro s; refine cut (p := Keeps q u (s : State)) ?_ ?_; (on_goal 2 => clear_value s; intro _); (on_goal 1 => try subst s))
    | (intro x; clear_value x)
    | (lift_lets -underBinder; (intro s; refine cut (p := Keeps q u (s : State)) ?_ ?_; (on_goal 2 => clear_value s; intro _); (on_goal 1 => try subst s)))
    | with_reducible apply State.ringAdv_keeps
    | with_reducible apply State.forward_keeps
    | with_reducible apply State.setB_keeps
    | with_reducible apply State.fjHit_keeps
    | with_reducible apply State.inhibitWith_keeps
    | with_reducible apply State.ringBroke_keeps
    | with_reducible apply keeps_ite
    | with_reducible apply keptW_ok
    | with_reducible apply keptW_no
    | with_reducible apply keptO_next
    | with_reducible apply keptW_ite
    | with_reducible apply keptO_ite

end Sys2Proof.Machine
end

