-- ==== Sys2Proof/Laws/KeepsEvents.lean ====
section
/-! SUPPORT. What each operation of Machine/Events.lean keeps (Laws/Keeps.lean). -/
namespace Sys2Proof.Machine

theorem State.qSync_keeps {q : List Instr} {u : Nat} {s : State} (hs : Keeps q u s) :
    Keeps q u (State.qSync s) := by
  unfold State.qSync
  repeat' first
    | with_reducible assumption
    | with_reducible apply State.setB_keeps

theorem State.queuePut_keeps {q : List Instr} {u : Nat} {s : State} {x : Occ} (hs : Keeps q u s) :
    Keeps q u (State.queuePut s x) := by
  unfold State.queuePut
  repeat' first
    | with_reducible assumption
    | (intro s; refine cut (p := Keeps q u (s : State)) ?_ ?_; (on_goal 2 => clear_value s; intro _); (on_goal 1 => try subst s))
    | (intro x; clear_value x)
    | (lift_lets -underBinder; (intro x; clear_value x))
    | with_reducible apply State.inc_keeps
    | with_reducible apply State.setB_keeps
    | with_reducible apply State.emit_keeps
    | with_reducible apply State.setEvs_keeps
    | with_reducible apply State.set_keeps
    | with_reducible apply State.qSync_keeps
    | with_reducible apply keeps_ite

theorem State.faultCell_keeps {q : List Instr} {u : Nat} {s : State} {x : Occ} (hs : Keeps q u s) :
    Keeps q u (State.faultCell s x) := by
  unfold State.faultCell
  repeat' first
    | with_reducible assumption
    | (intro x; clear_value x)
    | (lift_lets -underBinder; (intro x; clear_value x))
    | with_reducible apply State.inc_keeps
    | with_reducible apply State.setEvs_keeps
    | with_reducible apply State.sendCell_keeps
    | with_reducible apply keeps_ite

theorem State.routeOcc_keeps {q : List Instr} {u : Nat} {s : State} {x : Occ} (hs : Keeps q u s) :
    Keeps q u (State.routeOcc s x) := by
  unfold State.routeOcc
  repeat' first
    | with_reducible assumption
    | (intro s; refine cut (p := Keeps q u (s : State)) ?_ ?_; (on_goal 2 => clear_value s; intro _); (on_goal 1 => try subst s))
    | (intro x; clear_value x)
    | (lift_lets -underBinder; (intro x; clear_value x))
    | with_reducible apply State.queuePut_keeps
    | with_reducible apply State.setEvs_keeps
    | with_reducible apply State.emcyPut_keeps
    | with_reducible apply State.faultCell_keeps
    | with_reducible apply keeps_ite

theorem execEventRoute_keeps {q : List Instr} {u : Nat} {t : Nat} {s : State} (hs : Keeps q u s) :
    KeptO q u (execEventRoute t s) := by
  unfold execEventRoute
  repeat' first
    | with_reducible assumption
    | (intro s; refine cut (p := Keeps q u (s : State)) ?_ ?_; (on_goal 2 => clear_value s; intro _); (on_goal 1 => try subst s))
    | (intro x; clear_value x)
    | (lift_lets -underBinder; first | (intro s; refine cut (p := Keeps q u (s : State)) ?_ ?_; (on_goal 2 => clear_value s; intro _); (on_goal 1 => try subst s)) | (intro x; clear_value x))
    | with_reducible apply State.adv_keeps
    | with_reducible apply State.setEvs_keeps
    | with_reducible apply State.setF_keeps
    | with_reducible apply State.routeOcc_keeps
    | with_reducible apply keeps_ite
    | with_reducible apply keptW_ok
    | with_reducible apply keptW_no
    | with_reducible apply keptO_next
    | with_reducible apply keptW_ite
    | with_reducible apply keptO_ite
    | refine Keeps.of_ok (by with_reducible assumption) ?_
    | refine Keeps.of_no (by with_reducible assumption) ?_
    | refine Keeps.of_fst (by with_reducible assumption) ?_
    | refine Keeps.of_snd (by with_reducible assumption) ?_
    | split

theorem State.bar4Write_keeps {q : List Instr} {u : Nat} {s : State} {a : Nat} {v : Nat} (hs : Keeps q u s) :
    Keeps q u (State.bar4Write s a v) := by
  unfold State.bar4Write
  repeat' first
    | with_reducible assumption
    | (intro x; clear_value x)
    | (lift_lets -underBinder; (intro x; clear_value x))
    | with_reducible apply State.setEvs_keeps
    | with_reducible apply keeps_ite

theorem State.msixOut_keeps {q : List Instr} {u : Nat} {s : State} {v : Nat} (hs : Keeps q u s) :
    Keeps q u (State.msixOut s v) := by
  unfold State.msixOut
  repeat' first
    | with_reducible assumption
    | (lift_lets -underBinder; (intro x; clear_value x))
    | with_reducible apply State.setEvs_keeps
    | with_reducible apply State.emit_keeps

theorem execMsixSend_keeps {q : List Instr} {u : Nat} {acc : Bar4} {on : Bool} {t : Nat} {s : State} (hs : Keeps q u s) :
    KeptO q u (execMsixSend acc on t s) := by
  unfold execMsixSend
  repeat' first
    | with_reducible assumption
    | (intro s; refine cut (p := Keeps q u (s : State)) ?_ ?_; (on_goal 2 => clear_value s; intro _); (on_goal 1 => try subst s))
    | (intro x; clear_value x)
    | (lift_lets -underBinder; (intro s; refine cut (p := Keeps q u (s : State)) ?_ ?_; (on_goal 2 => clear_value s; intro _); (on_goal 1 => try subst s)))
    | with_reducible apply keeps_foldl
    | refine fun (s : State) (h : Keeps q u s) => ?_
    | refine fun _ => ?_
    | with_reducible apply State.adv_keeps
    | with_reducible apply State.bar4Write_keeps
    | with_reducible apply State.setEvs_keeps
    | with_reducible apply State.emit_keeps
    | with_reducible apply State.msixOut_keeps
    | with_reducible apply keeps_ite
    | with_reducible apply keeps_ite_fst
    | with_reducible apply keeps_ite_snd
    | with_reducible apply keptW_ok
    | with_reducible apply keptW_no
    | with_reducible apply keptO_next
    | with_reducible apply keptW_ite
    | with_reducible apply keptO_ite
    | refine Keeps.of_ok (by with_reducible assumption) ?_
    | refine Keeps.of_no (by with_reducible assumption) ?_
    | refine Keeps.of_fst (by with_reducible assumption) ?_
    | refine Keeps.of_snd (by with_reducible assumption) ?_
    | split

theorem wrEvControl_keeps {q : List Instr} {u : Nat} {v : Nat} {s0 : State} (h0 : Keeps q u s0) :
    KeptW q u (wrEvControl v s0) := by
  unfold wrEvControl
  repeat' first
    | with_reducible assumption
    | refine fun (s : State) (h : Keeps q u s) => ?_
    | refine fun _ => ?_
    | (intro x; clear_value x)
    | (lift_lets -underBinder; (intro s; refine cut (p := Keeps q u (s : State)) ?_ ?_; (on_goal 2 => clear_value s; intro _); (on_goal 1 => try subst s)))
    | with_reducible apply checked_keeps
    | with_reducible apply State.set_keeps
    | with_reducible apply State.setEvs_keeps
    | with_reducible apply State.qSync_keeps
    | with_reducible apply keeps_ite
    | with_reducible apply keptW_ok

theorem execQEnWrite_keeps {q : List Instr} {u : Nat} {p : Path} {v : Nat} {s : State} (hs : Keeps q u s) :
    KeptO q u (execQEnWrite p v s) := by
  unfold execQEnWrite
  repeat' first
    | with_reducible assumption
    | refine fun (s : State) (h : Keeps q u s) => ?_
    | refine fun _ => ?_
    | with_reducible apply access_keeps
    | with_reducible apply wrEvControl_keeps

theorem execPcieReset_keeps {q : List Instr} {u : Nat} {t : Nat} {s : State} (hs : Keeps q u s) :
    KeptO q u (execPcieReset t s) := by
  unfold execPcieReset
  repeat' first
    | with_reducible assumption
    | (intro x; clear_value x)
    | (lift_lets -underBinder; (intro s; refine cut (p := Keeps q u (s : State)) ?_ ?_; (on_goal 2 => clear_value s; intro _); (on_goal 1 => try subst s)))
    | with_reducible apply State.adv_keeps
    | with_reducible apply State.setEvs_keeps
    | with_reducible apply keeps_ite
    | with_reducible apply keptW_ok
    | with_reducible apply keptW_no
    | with_reducible apply keptO_next

theorem execPcieLinkUp_keeps {q : List Instr} {u : Nat} {t : Nat} {s : State} (hs : Keeps q u s) :
    KeptO q u (execPcieLinkUp t s) := by
  unfold execPcieLinkUp
  repeat' first
    | with_reducible assumption
    | refine fun (s : State) (h : Keeps q u s) => ?_
    | refine fun _ => ?_
    | (intro s; refine cut (p := Keeps q u (s : State)) ?_ ?_; (on_goal 2 => clear_value s; intro _); (on_goal 1 => try subst s))
    | (intro x; clear_value x)
    | (lift_lets -underBinder; (intro s; refine cut (p := Keeps q u (s : State)) ?_ ?_; (on_goal 2 => clear_value s; intro _); (on_goal 1 => try subst s)))
    | with_reducible apply State.adv_keeps
    | with_reducible apply State.setEvs_keeps
    | with_reducible apply State.setB_keeps
    | with_reducible apply State.forAll_keeps
    | with_reducible apply State.msixOut_keeps
    | with_reducible apply keeps_ite
    | with_reducible apply keptW_ok
    | with_reducible apply keptW_no
    | with_reducible apply keptO_next

end Sys2Proof.Machine
end

