-- ==== Sys2Proof/Laws/KeepsSupply.lean ====
section
/-! SUPPORT. What each operation of Machine/Supply.lean keeps (Laws/Keeps.lean). -/
namespace Sys2Proof.Machine

theorem State.suPut_keeps {q : List Instr} {u : Nat} {s : State} {b : Nat} {v : Bool} (hs : Keeps q u s) :
    Keeps q u (State.suPut s b v) := by
  unfold State.suPut
  repeat' first
    | with_reducible assumption
    | with_reducible apply State.setB_keeps

theorem State.suHit_keeps {q : List Instr} {u : Nat} {s : State} {bit : Nat} {cls : Nat} (hs : Keeps q u s) :
    Keeps q u (State.suHit s bit cls) := by
  unfold State.suHit
  repeat' first
    | with_reducible assumption
    | with_reducible apply State.hit_keeps

theorem State.curfewBegin_keeps {q : List Instr} {u : Nat} {s : State} (hs : Keeps q u s) :
    Keeps q u (State.curfewBegin s) := by
  unfold State.curfewBegin
  repeat' first
    | with_reducible assumption
    | refine fun (s : State) (h : Keeps q u s) => ?_
    | refine fun _ => ?_
    | (intro s; refine cut (p := Keeps q u (s : State)) ?_ ?_; (on_goal 2 => clear_value s; intro _); (on_goal 1 => try subst s))
    | (lift_lets -underBinder; first | (intro s; refine cut (p := Keeps q u (s : State)) ?_ ?_; (on_goal 2 => clear_value s; intro _); (on_goal 1 => try subst s)) | (intro x; clear_value x))
    | with_reducible apply keeps_foldl
    | refine fun (s : State) (h : Keeps q u s) => ?_
    | refine fun _ => ?_
    | with_reducible apply State.suPut_keeps
    | with_reducible apply State.suHit_keeps
    | with_reducible apply State.storeCurfew_keeps
    | with_reducible apply State.deferred_keeps
    | with_reducible apply State.forAll_keeps
    | with_reducible apply State.setLink_keeps
    | with_reducible apply State.recStop_keeps
    | with_reducible apply keeps_ite

theorem State.curfewSync_keeps {q : List Instr} {u : Nat} {s : State} (hs : Keeps q u s) :
    Keeps q u (State.curfewSync s) := by
  unfold State.curfewSync
  repeat' first
    | with_reducible assumption
    | (intro s; refine cut (p := Keeps q u (s : State)) ?_ ?_; (on_goal 2 => clear_value s; intro _); (on_goal 1 => try subst s))
    | (lift_lets -underBinder; (intro x; clear_value x))
    | with_reducible apply State.setSupply_keeps
    | with_reducible apply State.suPut_keeps
    | with_reducible apply State.curfewBegin_keeps
    | with_reducible apply keeps_ite

theorem State.curfewEnd_keeps {q : List Instr} {u : Nat} {s : State} (hs : Keeps q u s) :
    Keeps q u (State.curfewEnd s) := by
  unfold State.curfewEnd
  repeat' first
    | with_reducible assumption
    | (intro s; refine cut (p := Keeps q u (s : State)) ?_ ?_; (on_goal 2 => clear_value s; intro _); (on_goal 1 => try subst s))
    | (lift_lets -underBinder; (intro x; clear_value x))
    | with_reducible apply State.setSupply_keeps
    | with_reducible apply State.suPut_keeps
    | with_reducible apply State.suHit_keeps

theorem execBusWarnTrip_keeps {q : List Instr} {u : Nat} {t : Nat} {s : State} (hs : Keeps q u s) :
    KeptO q u (execBusWarnTrip t s) := by
  unfold execBusWarnTrip
  repeat' first
    | with_reducible assumption
    | (intro s; refine cut (p := Keeps q u (s : State)) ?_ ?_; (on_goal 2 => clear_value s; intro _); (on_goal 1 => try subst s))
    | (intro x; clear_value x)
    | (lift_lets -underBinder; (intro s; refine cut (p := Keeps q u (s : State)) ?_ ?_; (on_goal 2 => clear_value s; intro _); (on_goal 1 => try subst s)))
    | with_reducible apply State.adv_keeps
    | with_reducible apply State.setSupply_keeps
    | with_reducible apply State.suPut_keeps
    | with_reducible apply State.set_keeps
    | with_reducible apply State.curfewSync_keeps
    | with_reducible apply keeps_ite
    | with_reducible apply keptW_ok
    | with_reducible apply keptW_no
    | with_reducible apply keptO_next
    | with_reducible apply keptW_ite
    | with_reducible apply keptO_ite

theorem execBusWarnRelease_keeps {q : List Instr} {u : Nat} {t : Nat} {s : State} (hs : Keeps q u s) :
    KeptO q u (execBusWarnRelease t s) := by
  unfold execBusWarnRelease
  repeat' first
    | with_reducible assumption
    | (intro s; refine cut (p := Keeps q u (s : State)) ?_ ?_; (on_goal 2 => clear_value s; intro _); (on_goal 1 => try subst s))
    | (intro x; clear_value x)
    | (lift_lets -underBinder; (intro s; refine cut (p := Keeps q u (s : State)) ?_ ?_; (on_goal 2 => clear_value s; intro _); (on_goal 1 => try subst s)))
    | with_reducible apply State.adv_keeps
    | with_reducible apply State.setSupply_keeps
    | with_reducible apply State.set_keeps
    | with_reducible apply State.suHit_keeps
    | with_reducible apply State.inc_keeps
    | with_reducible apply State.journal_keeps
    | with_reducible apply State.suPut_keeps
    | with_reducible apply State.curfewSync_keeps
    | with_reducible apply keeps_ite
    | with_reducible apply keptW_ok
    | with_reducible apply keptW_no
    | with_reducible apply keptO_next
    | with_reducible apply keptW_ite
    | with_reducible apply keptO_ite

theorem execSagTimeout_keeps {q : List Instr} {u : Nat} {t : Nat} {s : State} (hs : Keeps q u s) :
    KeptO q u (execSagTimeout t s) := by
  unfold execSagTimeout
  repeat' first
    | with_reducible assumption
    | (lift_lets -underBinder; (intro s; refine cut (p := Keeps q u (s : State)) ?_ ?_; (on_goal 2 => clear_value s; intro _); (on_goal 1 => try subst s)))
    | with_reducible apply State.adv_keeps
    | with_reducible apply State.suPut_keeps
    | with_reducible apply State.suHit_keeps
    | with_reducible apply State.inc_keeps
    | with_reducible apply keeps_ite
    | with_reducible apply keptW_ok
    | with_reducible apply keptW_no
    | with_reducible apply keptO_next
    | with_reducible apply keptW_ite
    | with_reducible apply keptO_ite

theorem execBusResetTrip_keeps {q : List Instr} {u : Nat} {t : Nat} {s : State} (hs : Keeps q u s) :
    KeptO q u (execBusResetTrip t s) := by
  unfold execBusResetTrip
  repeat' first
    | with_reducible assumption
    | with_reducible apply State.adv_keeps
    | with_reducible apply State.resetEvent_keeps
    | with_reducible apply keeps_ite
    | with_reducible apply keptW_ok
    | with_reducible apply keptW_no
    | with_reducible apply keptO_next

theorem execSupplyConversionDue_keeps {q : List Instr} {u : Nat} {i : Nat} {t : Nat} {s : State} (hs : Keeps q u s) :
    KeptO q u (execSupplyConversionDue i t s) := by
  unfold execSupplyConversionDue
  repeat' first
    | with_reducible assumption
    | (intro s; refine cut (p := Keeps q u (s : State)) ?_ ?_; (on_goal 2 => clear_value s; intro _); (on_goal 1 => try subst s))
    | (intro x; clear_value x)
    | (lift_lets -underBinder; (intro s; refine cut (p := Keeps q u (s : State)) ?_ ?_; (on_goal 2 => clear_value s; intro _); (on_goal 1 => try subst s)))
    | with_reducible apply State.adv_keeps
    | with_reducible apply State.setSupply_keeps
    | with_reducible apply State.senseWithdraw_keeps
    | with_reducible apply State.senseAsk_keeps
    | with_reducible apply keeps_ite
    | with_reducible apply keptW_ok
    | with_reducible apply keptW_no
    | with_reducible apply keptO_next
    | with_reducible apply keptW_ite
    | with_reducible apply keptO_ite

theorem State.highSync_keeps {q : List Instr} {u : Nat} {s : State} (hs : Keeps q u s) :
    Keeps q u (State.highSync s) := by
  unfold State.highSync
  repeat' first
    | with_reducible assumption
    | (lift_lets -underBinder; (intro x; clear_value x))
    | with_reducible apply State.setSupply_keeps
    | with_reducible apply State.inhibitSrc_keeps
    | with_reducible apply keeps_ite

theorem execSupplyHighRelease_keeps {q : List Instr} {u : Nat} {t : Nat} {s : State} (hs : Keeps q u s) :
    KeptO q u (execSupplyHighRelease t s) := by
  unfold execSupplyHighRelease
  repeat' first
    | with_reducible assumption
    | (lift_lets -underBinder; (intro s; refine cut (p := Keeps q u (s : State)) ?_ ?_; (on_goal 2 => clear_value s; intro _); (on_goal 1 => try subst s)))
    | with_reducible apply State.adv_keeps
    | with_reducible apply State.inhibitSrc_keeps
    | with_reducible apply keeps_ite
    | with_reducible apply keptW_ok
    | with_reducible apply keptW_no
    | with_reducible apply keptO_next
    | with_reducible apply keptW_ite
    | with_reducible apply keptO_ite

theorem State.drift_keeps {q : List Instr} {u : Nat} {s : State} {v : Int} (hs : Keeps q u s) :
    Keeps q u (State.drift s v) := by
  unfold State.drift
  repeat' first
    | with_reducible assumption
    | (intro s; refine cut (p := Keeps q u (s : State)) ?_ ?_; (on_goal 2 => clear_value s; intro _); (on_goal 1 => try subst s))
    | (intro x; clear_value x)
    | (lift_lets -underBinder; (intro x; clear_value x))
    | with_reducible apply State.setSupply_keeps
    | with_reducible apply State.setI_keeps
    | with_reducible apply State.suPut_keeps
    | with_reducible apply State.suHit_keeps
    | with_reducible apply State.journal_keeps
    | with_reducible apply keeps_ite

theorem State.surge_keeps {q : List Instr} {u : Nat} {s : State} {v : Int} (hs : Keeps q u s) :
    Keeps q u (State.surge s v) := by
  unfold State.surge
  repeat' first
    | with_reducible assumption
    | (intro s; refine cut (p := Keeps q u (s : State)) ?_ ?_; (on_goal 2 => clear_value s; intro _); (on_goal 1 => try subst s))
    | (intro x; clear_value x)
    | (lift_lets -underBinder; (intro x; clear_value x))
    | with_reducible apply State.setSupply_keeps
    | with_reducible apply State.suPut_keeps
    | with_reducible apply State.journal_keeps
    | with_reducible apply State.suHit_keeps
    | with_reducible apply State.inc_keeps
    | with_reducible apply State.highSync_keeps
    | with_reducible apply keeps_ite

theorem State.busResult_keeps {q : List Instr} {u : Nat} {s : State} {v : Int} (hs : Keeps q u s) :
    Keeps q u (State.busResult s v) := by
  unfold State.busResult
  repeat' first
    | with_reducible assumption
    | (intro s; refine cut (p := Keeps q u (s : State)) ?_ ?_; (on_goal 2 => clear_value s; intro _); (on_goal 1 => try subst s))
    | (lift_lets -underBinder; (intro s; refine cut (p := Keeps q u (s : State)) ?_ ?_; (on_goal 2 => clear_value s; intro _); (on_goal 1 => try subst s)))
    | with_reducible apply State.setI_keeps
    | with_reducible apply State.surge_keeps
    | with_reducible apply State.drift_keeps
    | with_reducible apply keeps_ite

theorem State.railChange_keeps {q : List Instr} {u : Nat} {s : State} {i : Nat} {kind : Nat} {on : Bool} {v : Int} (hs : Keeps q u s) :
    Keeps q u (State.railChange s i kind on v) := by
  unfold State.railChange
  repeat' first
    | with_reducible assumption
    | (lift_lets -underBinder; (intro x; clear_value x))
    | with_reducible apply State.suPut_keeps
    | with_reducible apply State.suHit_keeps
    | with_reducible apply State.journal_keeps
    | with_reducible apply keeps_ite

theorem State.railResult_keeps {q : List Instr} {u : Nat} {s : State} {i : Nat} {v : Int} (hs : Keeps q u s) :
    Keeps q u (State.railResult s i v) := by
  unfold State.railResult
  repeat' first
    | with_reducible assumption
    | (intro s; refine cut (p := Keeps q u (s : State)) ?_ ?_; (on_goal 2 => clear_value s; intro _); (on_goal 1 => try subst s))
    | (intro x; clear_value x)
    | (lift_lets -underBinder; (intro x; clear_value x))
    | with_reducible apply State.setSupply_keeps
    | with_reducible apply State.railChange_keeps
    | with_reducible apply State.curfewSync_keeps
    | with_reducible apply State.highSync_keeps

theorem State.supplyResult_keeps {q_ : List Instr} {u_ : Nat} {s : State} {i : Nat} {u : Nat} (hs : Keeps q_ u_ s) :
    Keeps q_ u_ (State.supplyResult s i u) := by
  unfold State.supplyResult
  repeat' first
    | with_reducible assumption
    | (intro s; refine cut (p := Keeps q_ u_ (s : State)) ?_ ?_; (on_goal 2 => clear_value s; intro _); (on_goal 1 => try subst s))
    | (lift_lets -underBinder; (intro x; clear_value x))
    | with_reducible apply State.setI_keeps
    | with_reducible apply State.busResult_keeps
    | with_reducible apply State.railResult_keeps
    | with_reducible apply keeps_ite

theorem wrSuControl_keeps {q : List Instr} {u : Nat} {v : Nat} {s : State} (hs : Keeps q u s) :
    KeptW q u (wrSuControl v s) := by
  unfold wrSuControl
  repeat' first
    | with_reducible assumption
    | refine fun (s : State) (h : Keeps q u s) => ?_
    | refine fun _ => ?_
    | (lift_lets -underBinder; first | (intro s; refine cut (p := Keeps q u (s : State)) ?_ ?_; (on_goal 2 => clear_value s; intro _); (on_goal 1 => try subst s)) | (intro x; clear_value x))
    | with_reducible apply need_keeps
    | with_reducible apply State.set_keeps
    | with_reducible apply State.setI_keeps
    | with_reducible apply State.setF_keeps
    | with_reducible apply State.forAll_keeps
    | with_reducible apply State.setPg_keeps
    | with_reducible apply State.pgSyncAll_keeps
    | with_reducible apply keeps_ite
    | with_reducible apply keptW_ok

theorem execSuClrStats_keeps {q : List Instr} {u : Nat} {p : Path} {v : Nat} {s : State} (hs : Keeps q u s) :
    KeptO q u (execSuClrStats p v s) := by
  unfold execSuClrStats
  repeat' first
    | with_reducible assumption
    | refine fun (s : State) (h : Keeps q u s) => ?_
    | refine fun _ => ?_
    | with_reducible apply access_keeps
    | with_reducible apply wrSuControl_keeps

theorem execClrPgOv_keeps {q : List Instr} {u : Nat} {p : Path} {v : Nat} {s : State} (hs : Keeps q u s) :
    KeptO q u (execClrPgOv p v s) := by
  unfold execClrPgOv
  repeat' first
    | with_reducible assumption
    | refine fun (s : State) (h : Keeps q u s) => ?_
    | refine fun _ => ?_
    | with_reducible apply access_keeps
    | with_reducible apply wrSuControl_keeps

theorem State.throttleSync_keeps {q : List Instr} {u : Nat} {s : State} (hs : Keeps q u s) :
    Keeps q u (State.throttleSync s) := by
  unfold State.throttleSync
  repeat' first
    | with_reducible assumption
    | with_reducible apply State.setB_keeps
    | with_reducible apply State.pauseSync_keeps

theorem State.dieShut_keeps {q : List Instr} {u : Nat} {s : State} (hs : Keeps q u s) :
    Keeps q u (State.dieShut s) := by
  unfold State.dieShut
  repeat' first
    | with_reducible assumption
    | (lift_lets -underBinder; (intro s; refine cut (p := Keeps q u (s : State)) ?_ ?_; (on_goal 2 => clear_value s; intro _); (on_goal 1 => try subst s)))
    | with_reducible apply State.setB_keeps
    | with_reducible apply State.hit_keeps
    | with_reducible apply State.inc_keeps
    | with_reducible apply State.journal_keeps
    | with_reducible apply State.inhibitSrc_keeps
    | with_reducible apply keeps_ite

theorem State.dieTaken_keeps {q : List Instr} {u : Nat} {s : State} {valid : Bool} (hs : Keeps q u s) :
    Keeps q u (State.dieTaken s valid) := by
  unfold State.dieTaken
  repeat' first
    | with_reducible assumption
    | (intro s; refine cut (p := Keeps q u (s : State)) ?_ ?_; (on_goal 2 => clear_value s; intro _); (on_goal 1 => try subst s))
    | (intro x; clear_value x)
    | (lift_lets -underBinder; (intro s; refine cut (p := Keeps q u (s : State)) ?_ ?_; (on_goal 2 => clear_value s; intro _); (on_goal 1 => try subst s)))
    | with_reducible apply State.setB_keeps
    | with_reducible apply State.set_keeps
    | with_reducible apply State.setBk_keeps
    | with_reducible apply State.hit_keeps
    | with_reducible apply State.throttleSync_keeps
    | with_reducible apply State.dieShut_keeps
    | with_reducible apply keeps_ite

theorem wrThControl_keeps {q : List Instr} {u : Nat} {v : Nat} {s : State} (hs : Keeps q u s) :
    KeptW q u (wrThControl v s) := by
  unfold wrThControl
  repeat' first
    | with_reducible assumption
    | (intro s; refine cut (p := Keeps q u (s : State)) ?_ ?_; (on_goal 2 => clear_value s; intro _); (on_goal 1 => try subst s))
    | (lift_lets -underBinder; (intro s; refine cut (p := Keeps q u (s : State)) ?_ ?_; (on_goal 2 => clear_value s; intro _); (on_goal 1 => try subst s)))
    | with_reducible apply need_keeps
    | with_reducible apply State.set_keeps
    | with_reducible apply State.setB_keeps
    | with_reducible apply State.hit_keeps
    | with_reducible apply State.journal_keeps
    | with_reducible apply State.inhibitSrc_keeps
    | with_reducible apply keeps_ite
    | with_reducible apply keptW_ok

theorem execClrShutdown_keeps {q : List Instr} {u : Nat} {p : Path} {v : Nat} {s : State} (hs : Keeps q u s) :
    KeptO q u (execClrShutdown p v s) := by
  unfold execClrShutdown
  repeat' first
    | with_reducible assumption
    | refine fun (s : State) (h : Keeps q u s) => ?_
    | refine fun _ => ?_
    | with_reducible apply access_keeps
    | with_reducible apply wrThControl_keeps

theorem execClrDieMax_keeps {q : List Instr} {u : Nat} {p : Path} {v : Nat} {s : State} (hs : Keeps q u s) :
    KeptO q u (execClrDieMax p v s) := by
  unfold execClrDieMax
  repeat' first
    | with_reducible assumption
    | refine fun (s : State) (h : Keeps q u s) => ?_
    | refine fun _ => ?_
    | with_reducible apply access_keeps
    | with_reducible apply wrThControl_keeps

theorem execDieTrip_keeps {q : List Instr} {u : Nat} {t : Nat} {s : State} (hs : Keeps q u s) :
    KeptO q u (execDieTrip t s) := by
  unfold execDieTrip
  repeat' first
    | with_reducible assumption
    | (intro s; refine cut (p := Keeps q u (s : State)) ?_ ?_; (on_goal 2 => clear_value s; intro _); (on_goal 1 => try subst s))
    | (intro x; clear_value x)
    | (lift_lets -underBinder; (intro s; refine cut (p := Keeps q u (s : State)) ?_ ?_; (on_goal 2 => clear_value s; intro _); (on_goal 1 => try subst s)))
    | with_reducible apply State.adv_keeps
    | with_reducible apply State.resetEvent_keeps
    | with_reducible apply State.journal_keeps
    | with_reducible apply State.inc_keeps
    | with_reducible apply State.setBk_keeps
    | with_reducible apply keeps_ite
    | with_reducible apply keptW_ok
    | with_reducible apply keptW_no
    | with_reducible apply keptO_next
    | with_reducible apply keptW_ite
    | with_reducible apply keptO_ite

end Sys2Proof.Machine
end

