-- ==== Sys2Proof/Laws/KeepsBackup.lean ====
section
/-! SUPPORT. What each operation of Machine/Backup.lean keeps (Laws/Keeps.lean). -/
namespace Sys2Proof.Machine

theorem State.bkPut_keeps {q : List Instr} {u : Nat} {s : State} {b : Nat} {v : Bool} (hs : Keeps q u s) :
    Keeps q u (State.bkPut s b v) := by
  unfold State.bkPut
  repeat' first
    | with_reducible assumption
    | with_reducible apply State.setB_keeps

theorem State.bkHit_keeps {q : List Instr} {u : Nat} {s : State} {bit : Nat} {cls : Nat} (hs : Keeps q u s) :
    Keeps q u (State.bkHit s bit cls) := by
  unfold State.bkHit
  repeat' first
    | with_reducible assumption
    | (lift_lets -underBinder; (intro x; clear_value x))
    | with_reducible apply State.setB_keeps
    | with_reducible apply State.setBk_keeps
    | with_reducible apply State.hit_keeps
    | with_reducible apply keeps_ite

theorem State.bkLatched_keeps {q : List Instr} {u : Nat} {s : State} (hs : Keeps q u s) :
    Keeps q u (State.bkLatched s) := by
  unfold State.bkLatched
  repeat' first
    | with_reducible assumption
    | (intro s; refine cut (p := Keeps q u (s : State)) ?_ ?_; (on_goal 2 => clear_value s; intro _); (on_goal 1 => try subst s))
    | (lift_lets -underBinder; first | (intro s; refine cut (p := Keeps q u (s : State)) ?_ ?_; (on_goal 2 => clear_value s; intro _); (on_goal 1 => try subst s)) | (intro x; clear_value x))
    | with_reducible apply keeps_foldl
    | refine fun (s : State) (h : Keeps q u s) => ?_
    | refine fun _ => ?_
    | with_reducible apply State.raise_keeps
    | with_reducible apply State.setBk_keeps

theorem State.bkAlarm_keeps {q : List Instr} {u : Nat} {s : State} {k : Nat} (hs : Keeps q u s) :
    Keeps q u (State.bkAlarm s k) := by
  unfold State.bkAlarm
  repeat' first
    | with_reducible assumption
    | (lift_lets -underBinder; (intro s; refine cut (p := Keeps q u (s : State)) ?_ ?_; (on_goal 2 => clear_value s; intro _); (on_goal 1 => try subst s)))
    | with_reducible apply State.journal_keeps
    | with_reducible apply State.bkHit_keeps
    | with_reducible apply State.bkPut_keeps
    | with_reducible apply State.emit_keeps
    | with_reducible apply keeps_ite

theorem State.charger_keeps {q : List Instr} {u : Nat} {s : State} {st : Nat} (hs : Keeps q u s) :
    Keeps q u (State.charger s st) := by
  unfold State.charger
  repeat' first
    | with_reducible assumption
    | with_reducible apply State.setF_keeps

theorem State.chgJournal_keeps {q : List Instr} {u : Nat} {s : State} {k : Nat} (hs : Keeps q u s) :
    Keeps q u (State.chgJournal s k) := by
  unfold State.chgJournal
  repeat' first
    | with_reducible assumption
    | with_reducible apply State.journal_keeps

theorem State.gaugeRun_keeps {q : List Instr} {u : Nat} {s : State} (hs : Keeps q u s) :
    Keeps q u (State.gaugeRun s) := by
  unfold State.gaugeRun
  repeat' first
    | with_reducible assumption
    | (intro s; refine cut (p := Keeps q u (s : State)) ?_ ?_; (on_goal 2 => clear_value s; intro _); (on_goal 1 => try subst s))
    | (intro x; clear_value x)
    | (lift_lets -underBinder; (intro x; clear_value x))
    | with_reducible apply State.setBk_keeps
    | with_reducible apply State.set_keeps
    | with_reducible apply State.setI_keeps
    | with_reducible apply keeps_ite

theorem State.gaugeJournal_keeps {q : List Instr} {u : Nat} {s : State} {learned : Bool} (hs : Keeps q u s) :
    Keeps q u (State.gaugeJournal s learned) := by
  unfold State.gaugeJournal
  repeat' first
    | with_reducible assumption
    | with_reducible apply State.journal_keeps

theorem State.unlearn_keeps {q : List Instr} {u : Nat} {s : State} (hs : Keeps q u s) :
    Keeps q u (State.unlearn s) := by
  unfold State.unlearn
  repeat' first
    | with_reducible assumption
    | with_reducible apply State.bkPut_keeps
    | with_reducible apply State.gaugeJournal_keeps
    | with_reducible apply State.bkHit_keeps
    | with_reducible apply keeps_ite

theorem State.chgStart_keeps {q : List Instr} {u : Nat} {s : State} (hs : Keeps q u s) :
    Keeps q u (State.chgStart s) := by
  unfold State.chgStart
  repeat' first
    | with_reducible assumption
    | (intro x; clear_value x)
    | (lift_lets -underBinder; (intro x; clear_value x))
    | with_reducible apply State.charger_keeps
    | with_reducible apply State.setBk_keeps
    | with_reducible apply State.chgJournal_keeps
    | with_reducible apply keeps_ite

theorem State.chgSync_keeps {q : List Instr} {u : Nat} {s : State} (hs : Keeps q u s) :
    Keeps q u (State.chgSync s) := by
  unfold State.chgSync
  repeat' first
    | with_reducible assumption
    | (lift_lets -underBinder; (intro x; clear_value x))
    | with_reducible apply State.charger_keeps
    | with_reducible apply State.setBk_keeps
    | with_reducible apply State.chgStart_keeps
    | with_reducible apply keeps_ite

theorem State.cellGone_keeps {q : List Instr} {u : Nat} {s : State} (hs : Keeps q u s) :
    Keeps q u (State.cellGone s) := by
  unfold State.cellGone
  repeat' first
    | with_reducible assumption
    | (intro s; refine cut (p := Keeps q u (s : State)) ?_ ?_; (on_goal 2 => clear_value s; intro _); (on_goal 1 => try subst s))
    | (lift_lets -underBinder; (intro x; clear_value x))
    | with_reducible apply State.charger_keeps
    | with_reducible apply State.setBk_keeps
    | with_reducible apply State.bkPut_keeps
    | with_reducible apply State.chgJournal_keeps
    | with_reducible apply State.bkHit_keeps
    | with_reducible apply State.unlearn_keeps

theorem State.cellAlarm_keeps {q : List Instr} {u : Nat} {s : State} {bit : Nat} {k : Nat} {n : Nat} {v : Int} {lim : Int} (hs : Keeps q u s) :
    Keeps q u (State.cellAlarm s bit k n v lim) := by
  unfold State.cellAlarm
  repeat' first
    | with_reducible assumption
    | with_reducible apply State.bkPut_keeps
    | with_reducible apply State.bkAlarm_keeps
    | with_reducible apply keeps_ite

theorem State.chargeLow_keeps {q : List Instr} {u : Nat} {s : State} (hs : Keeps q u s) :
    Keeps q u (State.chargeLow s) := by
  unfold State.chargeLow
  repeat' first
    | with_reducible assumption
    | (intro x; clear_value x)
    | (lift_lets -underBinder; (intro x; clear_value x))
    | with_reducible apply State.setBk_keeps

theorem execVbatMeasure_keeps {q : List Instr} {u : Nat} {mv : Nat} {ua : Nat} {t : Nat} {s : State} (hs : Keeps q u s) :
    KeptO q u (execVbatMeasure mv ua t s) := by
  unfold execVbatMeasure
  repeat' first
    | with_reducible assumption
    | (intro s; refine cut (p := Keeps q u (s : State)) ?_ ?_; (on_goal 2 => clear_value s; intro _); (on_goal 1 => try subst s))
    | (intro x; clear_value x)
    | (lift_lets -underBinder; (intro s; refine cut (p := Keeps q u (s : State)) ?_ ?_; (on_goal 2 => clear_value s; intro _); (on_goal 1 => try subst s)))
    | with_reducible apply State.adv_keeps
    | with_reducible apply State.setBk_keeps
    | with_reducible apply State.gaugeRun_keeps
    | with_reducible apply State.set_keeps
    | with_reducible apply State.cellAlarm_keeps
    | with_reducible apply State.charger_keeps
    | with_reducible apply State.chgStart_keeps
    | with_reducible apply State.chargeLow_keeps
    | with_reducible apply State.unlearn_keeps
    | with_reducible apply keeps_ite
    | with_reducible apply keptW_ok
    | with_reducible apply keptW_no
    | with_reducible apply keptO_next
    | with_reducible apply keptW_ite
    | with_reducible apply keptO_ite

theorem execChargeFull_keeps {q : List Instr} {u : Nat} {t : Nat} {s : State} (hs : Keeps q u s) :
    KeptO q u (execChargeFull t s) := by
  unfold execChargeFull
  repeat' first
    | with_reducible assumption
    | (intro s; refine cut (p := Keeps q u (s : State)) ?_ ?_; (on_goal 2 => clear_value s; intro _); (on_goal 1 => try subst s))
    | (intro x; clear_value x)
    | (lift_lets -underBinder; (intro s; refine cut (p := Keeps q u (s : State)) ?_ ?_; (on_goal 2 => clear_value s; intro _); (on_goal 1 => try subst s)))
    | with_reducible apply State.adv_keeps
    | with_reducible apply State.gaugeRun_keeps
    | with_reducible apply State.charger_keeps
    | with_reducible apply State.setBk_keeps
    | with_reducible apply State.chgJournal_keeps
    | with_reducible apply State.bkHit_keeps
    | with_reducible apply State.set_keeps
    | with_reducible apply State.bkPut_keeps
    | with_reducible apply State.gaugeJournal_keeps
    | with_reducible apply keeps_ite
    | with_reducible apply keptW_ok
    | with_reducible apply keptW_no
    | with_reducible apply keptO_next
    | with_reducible apply keptW_ite
    | with_reducible apply keptO_ite

theorem State.chargeLate_keeps {q : List Instr} {u : Nat} {s : State} (hs : Keeps q u s) :
    Keeps q u (State.chargeLate s) := by
  unfold State.chargeLate
  repeat' first
    | with_reducible assumption
    | (intro s; refine cut (p := Keeps q u (s : State)) ?_ ?_; (on_goal 2 => clear_value s; intro _); (on_goal 1 => try subst s))
    | (intro x; clear_value x)
    | (lift_lets -underBinder; (intro x; clear_value x))
    | with_reducible apply State.gaugeRun_keeps
    | with_reducible apply State.charger_keeps
    | with_reducible apply State.setBk_keeps
    | with_reducible apply State.chgJournal_keeps
    | with_reducible apply State.bkHit_keeps
    | with_reducible apply keeps_ite

theorem execChargeTimeout_keeps {q : List Instr} {u : Nat} {t : Nat} {s : State} (hs : Keeps q u s) :
    KeptO q u (execChargeTimeout t s) := by
  unfold execChargeTimeout
  repeat' first
    | with_reducible assumption
    | (lift_lets -underBinder; (intro s; refine cut (p := Keeps q u (s : State)) ?_ ?_; (on_goal 2 => clear_value s; intro _); (on_goal 1 => try subst s)))
    | with_reducible apply State.adv_keeps
    | with_reducible apply State.chargeLate_keeps
    | with_reducible apply keeps_ite
    | with_reducible apply keptW_ok
    | with_reducible apply keptW_no
    | with_reducible apply keptO_next
    | with_reducible apply keptW_ite
    | with_reducible apply keptO_ite

theorem execCellRemoved_keeps {q : List Instr} {u : Nat} {t : Nat} {s : State} (hs : Keeps q u s) :
    KeptO q u (execCellRemoved t s) := by
  unfold execCellRemoved
  repeat' first
    | with_reducible assumption
    | (intro x; clear_value x)
    | (lift_lets -underBinder; (intro s; refine cut (p := Keeps q u (s : State)) ?_ ?_; (on_goal 2 => clear_value s; intro _); (on_goal 1 => try subst s)))
    | with_reducible apply State.adv_keeps
    | with_reducible apply State.gaugeRun_keeps
    | with_reducible apply State.cellGone_keeps
    | with_reducible apply keeps_ite
    | with_reducible apply keptW_ok
    | with_reducible apply keptW_no
    | with_reducible apply keptO_next

theorem execMainPowerLost_keeps {q : List Instr} {u : Nat} {t : Nat} {s : State} (hs : Keeps q u s) :
    KeptO q u (execMainPowerLost t s) := by
  unfold execMainPowerLost
  repeat' first
    | with_reducible assumption
    | (intro s; refine cut (p := Keeps q u (s : State)) ?_ ?_; (on_goal 2 => clear_value s; intro _); (on_goal 1 => try subst s))
    | (intro x; clear_value x)
    | (lift_lets -underBinder; (intro s; refine cut (p := Keeps q u (s : State)) ?_ ?_; (on_goal 2 => clear_value s; intro _); (on_goal 1 => try subst s)))
    | with_reducible apply State.adv_keeps
    | with_reducible apply State.railFall_keeps
    | with_reducible apply State.gaugeRun_keeps
    | with_reducible apply State.setBk_keeps
    | with_reducible apply State.chgSync_keeps
    | with_reducible apply State.journal_keeps
    | with_reducible apply State.inc_keeps
    | with_reducible apply keeps_ite
    | with_reducible apply keptW_ok
    | with_reducible apply keptW_no
    | with_reducible apply keptO_next
    | with_reducible apply keptW_ite
    | with_reducible apply keptO_ite

theorem execMainPowerBack_keeps {q : List Instr} {u : Nat} {t : Nat} {s : State} (hs : Keeps q u s) :
    KeptO q u (execMainPowerBack t s) := by
  unfold execMainPowerBack
  repeat' first
    | with_reducible assumption
    | (intro s; refine cut (p := Keeps q u (s : State)) ?_ ?_; (on_goal 2 => clear_value s; intro _); (on_goal 1 => try subst s))
    | (intro x; clear_value x)
    | (lift_lets -underBinder; (intro s; refine cut (p := Keeps q u (s : State)) ?_ ?_; (on_goal 2 => clear_value s; intro _); (on_goal 1 => try subst s)))
    | with_reducible apply State.adv_keeps
    | with_reducible apply State.gaugeRun_keeps
    | with_reducible apply State.setBk_keeps
    | with_reducible apply State.journal_keeps
    | with_reducible apply State.addC_keeps
    | with_reducible apply State.bkHit_keeps
    | with_reducible apply State.chgSync_keeps
    | with_reducible apply keeps_ite
    | with_reducible apply keptW_ok
    | with_reducible apply keptW_no
    | with_reducible apply keptO_next
    | with_reducible apply keptW_ite
    | with_reducible apply keptO_ite

theorem execBackupPor_keeps {q : List Instr} {u : Nat} {t : Nat} {s : State} (hs : Keeps q u s) :
    KeptO q u (execBackupPor t s) := by
  unfold execBackupPor
  repeat' first
    | with_reducible assumption
    | (intro s; refine cut (p := Keeps q u (s : State)) ?_ ?_; (on_goal 2 => clear_value s; intro _); (on_goal 1 => try subst s))
    | (intro x; clear_value x)
    | (lift_lets -underBinder; (intro s; refine cut (p := Keeps q u (s : State)) ?_ ?_; (on_goal 2 => clear_value s; intro _); (on_goal 1 => try subst s)))
    | with_reducible apply State.adv_keeps
    | with_reducible apply State.setModes_keeps
    | with_reducible apply State.toReset_keeps
    | with_reducible apply State.journal_keeps
    | with_reducible apply keeps_ite
    | with_reducible apply keeps_ite_fst
    | with_reducible apply keptW_ok
    | with_reducible apply keptW_no
    | with_reducible apply keptO_next
    | with_reducible apply keptW_ite
    | with_reducible apply keptO_ite
    | split
    | with_reducible apply keeps_filter

theorem State.rtcSet_keeps {q : List Instr} {u : Nat} {s : State} {sec : Nat} {sub : Nat} (hs : Keeps q u s) :
    Keeps q u (State.rtcSet s sec sub) := by
  unfold State.rtcSet
  repeat' first
    | with_reducible assumption
    | (intro x; clear_value x)
    | (lift_lets -underBinder; (intro x; clear_value x))
    | with_reducible apply State.set_keeps
    | with_reducible apply State.setBk_keeps
    | with_reducible apply State.bkPut_keeps

theorem wrBkControl_keeps {q : List Instr} {u : Nat} {new : Nat} {v : Nat} {s : State} (hs : Keeps q u s) :
    KeptW q u (wrBkControl new v s) := by
  unfold wrBkControl
  repeat' first
    | with_reducible assumption
    | (intro s; refine cut (p := Keeps q u (s : State)) ?_ ?_; (on_goal 2 => clear_value s; intro _); (on_goal 1 => try subst s))
    | (intro x; clear_value x)
    | (lift_lets -underBinder; (intro s; refine cut (p := Keeps q u (s : State)) ?_ ?_; (on_goal 2 => clear_value s; intro _); (on_goal 1 => try subst s)))
    | with_reducible apply need_keeps
    | with_reducible apply State.set_keeps
    | with_reducible apply State.adv_keeps
    | with_reducible apply State.rtcSet_keeps
    | with_reducible apply State.bkPut_keeps
    | with_reducible apply State.emit_keeps
    | with_reducible apply State.cellGone_keeps
    | with_reducible apply State.setBk_keeps
    | with_reducible apply State.chgSync_keeps
    | with_reducible apply State.journal_keeps
    | with_reducible apply keeps_ite
    | with_reducible apply keptW_ok

theorem cmdBk_keeps {q : List Instr} {u : Nat} {p : Path} {bit : Nat} {s : State} (hs : Keeps q u s) :
    KeptO q u (cmdBk p bit s) := by
  unfold cmdBk
  repeat' first
    | with_reducible assumption
    | refine fun (s : State) (h : Keeps q u s) => ?_
    | refine fun _ => ?_
    | (lift_lets -underBinder; (intro x; clear_value x))
    | with_reducible apply access_keeps
    | with_reducible apply checked_keeps
    | with_reducible apply wrBkControl_keeps

theorem execRtcLoad_keeps {q : List Instr} {u : Nat} {p : Path} {s : State} (hs : Keeps q u s) :
    KeptO q u (execRtcLoad p s) := by
  unfold execRtcLoad
  repeat' first
    | with_reducible assumption
    | with_reducible apply cmdBk_keeps

theorem execWakeClr_keeps {q : List Instr} {u : Nat} {p : Path} {s : State} (hs : Keeps q u s) :
    KeptO q u (execWakeClr p s) := by
  unfold execWakeClr
  repeat' first
    | with_reducible assumption
    | with_reducible apply cmdBk_keeps

theorem execChgRestart_keeps {q : List Instr} {u : Nat} {p : Path} {s : State} (hs : Keeps q u s) :
    KeptO q u (execChgRestart p s) := by
  unfold execChgRestart
  repeat' first
    | with_reducible assumption
    | with_reducible apply cmdBk_keeps

theorem execJnlClear_keeps {q : List Instr} {u : Nat} {p : Path} {s : State} (hs : Keeps q u s) :
    KeptO q u (execJnlClear p s) := by
  unfold execJnlClear
  repeat' first
    | with_reducible assumption
    | with_reducible apply cmdBk_keeps

theorem State.rtcRead_keeps {q : List Instr} {u : Nat} {s : State} {p : Path} (hs : Keeps q u s) :
    Keeps q u (State.rtcRead s p) := by
  unfold State.rtcRead
  repeat' first
    | with_reducible assumption
    | with_reducible apply State.set_keeps
    | with_reducible apply State.emit_keeps

theorem execRtcSecRead_keeps {q : List Instr} {u : Nat} {p : Path} {s : State} (hs : Keeps q u s) :
    KeptO q u (execRtcSecRead p s) := by
  unfold execRtcSecRead
  repeat' first
    | with_reducible assumption
    | refine fun (s : State) (h : Keeps q u s) => ?_
    | refine fun _ => ?_
    | with_reducible apply access_keeps
    | with_reducible apply State.rtcRead_keeps
    | with_reducible apply keeps_ite
    | with_reducible apply keptW_ok

theorem execRtcAlarm_keeps {q : List Instr} {u : Nat} {t : Nat} {s : State} (hs : Keeps q u s) :
    KeptO q u (execRtcAlarm t s) := by
  unfold execRtcAlarm
  repeat' first
    | with_reducible assumption
    | (intro x; clear_value x)
    | (lift_lets -underBinder; (intro s; refine cut (p := Keeps q u (s : State)) ?_ ?_; (on_goal 2 => clear_value s; intro _); (on_goal 1 => try subst s)))
    | with_reducible apply State.adv_keeps
    | with_reducible apply State.setBk_keeps
    | with_reducible apply State.bkAlarm_keeps
    | with_reducible apply keeps_ite
    | with_reducible apply keptW_ok
    | with_reducible apply keptW_no
    | with_reducible apply keptO_next

theorem wrJnlSelect_keeps {q : List Instr} {u : Nat} {v : Nat} {s : State} (hs : Keeps q u s) :
    KeptW q u (wrJnlSelect v s) := by
  unfold wrJnlSelect
  repeat' first
    | with_reducible assumption
    | refine fun (s : State) (h : Keeps q u s) => ?_
    | refine fun _ => ?_
    | (lift_lets -underBinder; (intro x; clear_value x))
    | with_reducible apply State.journal_keeps
    | with_reducible apply State.set_keeps
    | with_reducible apply State.forAll_keeps
    | with_reducible apply keeps_ite
    | with_reducible apply keptW_ok

theorem execBkJnlSelect_keeps {q : List Instr} {u : Nat} {p : Path} {v : Nat} {s : State} (hs : Keeps q u s) :
    KeptO q u (execBkJnlSelect p v s) := by
  unfold execBkJnlSelect
  repeat' first
    | with_reducible assumption
    | refine fun (s : State) (h : Keeps q u s) => ?_
    | refine fun _ => ?_
    | with_reducible apply access_keeps
    | with_reducible apply wrJnlSelect_keeps

theorem wrJnlHost_keeps {q : List Instr} {u : Nat} {v : Nat} {s : State} (hs : Keeps q u s) :
    KeptW q u (wrJnlHost v s) := by
  unfold wrJnlHost
  repeat' first
    | with_reducible assumption
    | with_reducible apply State.journal_keeps
    | with_reducible apply keeps_ite
    | with_reducible apply keptW_ok

theorem execBkJnlHost_keeps {q : List Instr} {u : Nat} {p : Path} {v : Nat} {s : State} (hs : Keeps q u s) :
    KeptO q u (execBkJnlHost p v s) := by
  unfold execBkJnlHost
  repeat' first
    | with_reducible assumption
    | refine fun (s : State) (h : Keeps q u s) => ?_
    | refine fun _ => ?_
    | with_reducible apply access_keeps
    | with_reducible apply wrJnlHost_keeps

theorem wrGaugeSet_keeps {q : List Instr} {u : Nat} {v : Nat} {s : State} (hs : Keeps q u s) :
    KeptW q u (wrGaugeSet v s) := by
  unfold wrGaugeSet
  repeat' first
    | with_reducible assumption
    | (lift_lets -underBinder; (intro x; clear_value x))
    | with_reducible apply need_keeps
    | with_reducible apply State.gaugeRun_keeps
    | with_reducible apply State.set_keeps
    | with_reducible apply State.setBk_keeps
    | with_reducible apply keeps_ite
    | with_reducible apply keptW_ok

theorem execBkGaugeSet_keeps {q : List Instr} {u : Nat} {p : Path} {v : Nat} {s : State} (hs : Keeps q u s) :
    KeptO q u (execBkGaugeSet p v s) := by
  unfold execBkGaugeSet
  repeat' first
    | with_reducible assumption
    | refine fun (s : State) (h : Keeps q u s) => ?_
    | refine fun _ => ?_
    | with_reducible apply access_keeps
    | with_reducible apply wrGaugeSet_keeps

end Sys2Proof.Machine
end

