-- ==== Sys2Proof/Laws/KeepsSense.lean ====
section
/-! SUPPORT. What each operation of Machine/Sense.lean keeps (Laws/Keeps.lean). -/
namespace Sys2Proof.Machine

theorem State.sbPut_keeps {q : List Instr} {u : Nat} {s : State} {b : Nat} {v : Bool} (hs : Keeps q u s) :
    Keeps q u (State.sbPut s b v) := by
  unfold State.sbPut
  repeat' first
    | with_reducible assumption
    | with_reducible apply State.setB_keeps

theorem State.setGrant_keeps {q : List Instr} {u : Nat} {s : State} {c : Nat} {g : Option Grant} (hs : Keeps q u s) :
    Keeps q u (State.setGrant s c g) := by
  unfold State.setGrant
  repeat' first
    | with_reducible assumption
    | (lift_lets -underBinder; (intro x; clear_value x))
    | with_reducible apply State.setSconv_keeps

theorem State.calibratedSync_keeps {q : List Instr} {u : Nat} {s : State} (hs : Keeps q u s) :
    Keeps q u (State.calibratedSync s) := by
  unfold State.calibratedSync
  repeat' first
    | with_reducible assumption
    | refine fun (s : State) (h : Keeps q u s) => ?_
    | refine fun _ => ?_
    | (lift_lets -underBinder; (intro x; clear_value x))
    | with_reducible apply State.sbPut_keeps
    | with_reducible apply hf
    | with_reducible apply keeps_ite

theorem State.calTarget_keeps {q : List Instr} {u : Nat} {s : State} {c : Nat} {off : Int} {gain : Nat} (hs : Keeps q u s) :
    Keeps q u (State.calTarget s c off gain) := by
  unfold State.calTarget
  repeat' first
    | with_reducible assumption
    | (lift_lets -underBinder; (intro x; clear_value x))
    | with_reducible apply State.setSconv_keeps
    | with_reducible apply State.rampSync_keeps

theorem State.calAsk_keeps {q : List Instr} {u : Nat} {s : State} (hs : Keeps q u s) :
    Keeps q u (State.calAsk s) := by
  unfold State.calAsk
  repeat' first
    | with_reducible assumption
    | (lift_lets -underBinder; (intro x; clear_value x))
    | with_reducible apply State.senseAsk_keeps
    | with_reducible apply keeps_ite
    | with_reducible apply keptW_ok
    | with_reducible apply keptW_no
    | with_reducible apply keptO_next
    | with_reducible apply keptW_ite
    | with_reducible apply keptO_ite
    | refine Keeps.of_ok (by with_reducible assumption) ?_
    | refine Keeps.of_no (by with_reducible assumption) ?_
    | refine Keeps.of_fst (by with_reducible assumption) ?_
    | refine Keeps.of_snd (by with_reducible assumption) ?_
    | split

theorem State.calStart_keeps {q : List Instr} {u : Nat} {s : State} (hs : Keeps q u s) :
    Keeps q u (State.calStart s) := by
  unfold State.calStart
  repeat' first
    | with_reducible assumption
    | (intro s; refine cut (p := Keeps q u (s : State)) ?_ ?_; (on_goal 2 => clear_value s; intro _); (on_goal 1 => try subst s))
    | (intro x; clear_value x)
    | (lift_lets -underBinder; (intro x; clear_value x))
    | with_reducible apply State.sbPut_keeps
    | with_reducible apply State.set_keeps
    | with_reducible apply State.setBank_keeps
    | with_reducible apply State.calAsk_keeps
    | with_reducible apply keeps_ite

theorem State.calCheck_keeps {q : List Instr} {u : Nat} {s : State} (hs : Keeps q u s) :
    Keeps q u (State.calCheck s) := by
  unfold State.calCheck
  repeat' first
    | with_reducible assumption
    | (intro s; refine cut (p := Keeps q u (s : State)) ?_ ?_; (on_goal 2 => clear_value s; intro _); (on_goal 1 => try subst s))
    | (intro x; clear_value x)
    | (lift_lets -underBinder; (intro x; clear_value x))
    | with_reducible apply State.setBank_keeps
    | with_reducible apply State.sbPut_keeps
    | with_reducible apply State.hit_keeps
    | with_reducible apply State.inc_keeps
    | with_reducible apply State.calibratedSync_keeps
    | with_reducible apply State.calStart_keeps
    | with_reducible apply keeps_ite

theorem State.calNext_keeps {q : List Instr} {u : Nat} {s : State} {c : Nat} (hs : Keeps q u s) :
    Keeps q u (State.calNext s c) := by
  unfold State.calNext
  repeat' first
    | with_reducible assumption
    | (lift_lets -underBinder; (intro x; clear_value x))
    | with_reducible apply State.setBank_keeps
    | with_reducible apply State.calAsk_keeps
    | with_reducible apply State.calCheck_keeps

theorem State.retireConv_keeps {q : List Instr} {u : Nat} {s : State} {c : Nat} (hs : Keeps q u s) :
    Keeps q u (State.retireConv s c) := by
  unfold State.retireConv
  repeat' first
    | with_reducible assumption
    | (intro s; refine cut (p := Keeps q u (s : State)) ?_ ?_; (on_goal 2 => clear_value s; intro _); (on_goal 1 => try subst s))
    | (intro x; clear_value x)
    | (lift_lets -underBinder; (intro s; refine cut (p := Keeps q u (s : State)) ?_ ?_; (on_goal 2 => clear_value s; intro _); (on_goal 1 => try subst s)))
    | with_reducible apply State.setB_keeps
    | with_reducible apply State.hit_keeps
    | with_reducible apply State.senseWithdraw_keeps
    | with_reducible apply State.mtConvDrop_keeps
    | with_reducible apply State.calNext_keeps
    | with_reducible apply State.setBank_keeps
    | with_reducible apply State.calibratedSync_keeps
    | with_reducible apply keeps_ite

theorem State.calFail_keeps {q : List Instr} {u : Nat} {s : State} {c : Nat} (hs : Keeps q u s) :
    Keeps q u (State.calFail s c) := by
  unfold State.calFail
  repeat' first
    | with_reducible assumption
    | (intro s; refine cut (p := Keeps q u (s : State)) ?_ ?_; (on_goal 2 => clear_value s; intro _); (on_goal 1 => try subst s))
    | (intro x; clear_value x)
    | (lift_lets -underBinder; (intro x; clear_value x))
    | with_reducible apply State.setSconv_keeps
    | with_reducible apply State.hit_keeps
    | with_reducible apply State.setBank_keeps
    | with_reducible apply State.retireConv_keeps
    | with_reducible apply keeps_ite

theorem State.bandgapCheck_keeps {q : List Instr} {u : Nat} {s : State} {c : Nat} {sum : Nat} (hs : Keeps q u s) :
    Keeps q u (State.bandgapCheck s c sum) := by
  unfold State.bandgapCheck
  repeat' first
    | with_reducible assumption
    | (intro s; refine cut (p := Keeps q u (s : State)) ?_ ?_; (on_goal 2 => clear_value s; intro _); (on_goal 1 => try subst s))
    | (intro x; clear_value x)
    | (lift_lets -underBinder; (intro x; clear_value x))
    | with_reducible apply State.setSconv_keeps
    | with_reducible apply State.set_keeps
    | with_reducible apply State.hit_keeps
    | with_reducible apply keeps_ite

theorem State.calPoint_keeps {q : List Instr} {u : Nat} {s : State} {c : Nat} {g : Grant} (hs : Keeps q u s) :
    Keeps q u (State.calPoint s c g) := by
  unfold State.calPoint
  repeat' first
    | with_reducible assumption
    | (intro s; refine cut (p := Keeps q u (s : State)) ?_ ?_; (on_goal 2 => clear_value s; intro _); (on_goal 1 => try subst s))
    | (intro x; clear_value x)
    | (lift_lets -underBinder; (intro x; clear_value x))
    | with_reducible apply State.calFail_keeps
    | with_reducible apply State.calNext_keeps
    | with_reducible apply State.setBank_keeps
    | with_reducible apply State.calAsk_keeps
    | with_reducible apply State.calTarget_keeps
    | with_reducible apply State.setSconv_keeps
    | with_reducible apply State.bandgapCheck_keeps
    | with_reducible apply keeps_ite

theorem State.passedOver_keeps {q : List Instr} {u : Nat} {s : State} {r : Req} (hs : Keeps q u s) :
    Keeps q u (State.passedOver s r) := by
  unfold State.passedOver
  repeat' first
    | with_reducible assumption
    | with_reducible apply State.deepFail_keeps
    | with_reducible apply State.inc_keeps
    | with_reducible apply State.fastAgain_keeps
    | with_reducible apply keeps_ite
    | with_reducible apply keptW_ok
    | with_reducible apply keptW_no
    | with_reducible apply keptO_next
    | with_reducible apply keptW_ite
    | with_reducible apply keptO_ite
    | refine Keeps.of_ok (by with_reducible assumption) ?_
    | refine Keeps.of_no (by with_reducible assumption) ?_
    | refine Keeps.of_fst (by with_reducible assumption) ?_
    | refine Keeps.of_snd (by with_reducible assumption) ?_
    | split

theorem State.headResult_keeps {q_ : List Instr} {u_ : Nat} {s : State} {g : Grant} {u : Nat} (hs : Keeps q_ u_ s) :
    Keeps q_ u_ (State.headResult s g u) := by
  unfold State.headResult
  repeat' first
    | with_reducible assumption
    | (intro s; refine cut (p := Keeps q_ u_ (s : State)) ?_ ?_; (on_goal 2 => clear_value s; intro _); (on_goal 1 => try subst s))
    | (intro x; clear_value x)
    | (lift_lets -underBinder; (intro x; clear_value x))
    | with_reducible apply State.staleReading_keeps
    | with_reducible apply State.deepFail_keeps
    | with_reducible apply State.fastAgain_keeps
    | with_reducible apply State.readingNote_keeps
    | with_reducible apply State.heaterResult_keeps
    | with_reducible apply State.setHealth_keeps
    | with_reducible apply State.tempResult_keeps
    | with_reducible apply State.refResult_keeps
    | with_reducible apply State.fastNext_keeps
    | with_reducible apply State.mtSync_keeps
    | with_reducible apply WRes.mtSync_keeps
    | with_reducible apply keeps_ite
    | with_reducible apply keptW_ok
    | with_reducible apply keptW_no
    | with_reducible apply keptO_next
    | with_reducible apply keptW_ite
    | with_reducible apply keptO_ite
    | refine Keeps.of_ok (by with_reducible assumption) ?_
    | refine Keeps.of_no (by with_reducible assumption) ?_
    | refine Keeps.of_fst (by with_reducible assumption) ?_
    | refine Keeps.of_snd (by with_reducible assumption) ?_
    | split

theorem State.dieDone_keeps {q : List Instr} {u : Nat} {s : State} (hs : Keeps q u s) :
    Keeps q u (State.dieDone s) := by
  have h (b : Option Int) : Keeps q u ((match b with
      | some t => (s.setBank { s.bank with dieBest := none }).setI O.SB_DIE_TEMP t
      | none => (s.setBank { s.bank with dieBest := none }).set O.SB_DIE_TEMP 0x8000).dieTaken b.isSome) := by
    cases b with
    | some t => exact State.dieTaken_keeps (State.setI_keeps (State.setBank_keeps hs))
    | none => exact State.dieTaken_keeps (State.set_keeps (State.setBank_keeps hs))
  unfold State.dieDone
  exact keeps_ite (State.calStart_keeps (h _)) (h _)

theorem State.dieSensor_keeps {q : List Instr} {u : Nat} {s : State} {i : Nat} {code : Nat} (hs : Keeps q u s) :
    Keeps q u (State.dieSensor s i code) := by
  unfold State.dieSensor
  repeat' first
    | with_reducible assumption
    | (intro x; clear_value x)
    | (lift_lets -underBinder; (intro x; clear_value x))
    | with_reducible apply State.setBank_keeps

theorem State.hostResult_keeps {q : List Instr} {u : Nat} {s : State} {code : Nat} (hs : Keeps q u s) :
    Keeps q u (State.hostResult s code) := by
  unfold State.hostResult
  repeat' first
    | with_reducible assumption
    | (lift_lets -underBinder; (intro x; clear_value x))
    | with_reducible apply State.set_keeps

theorem State.hostDone_keeps {q : List Instr} {u : Nat} {s : State} (hs : Keeps q u s) :
    Keeps q u (State.hostDone s) := by
  unfold State.hostDone
  repeat' first
    | with_reducible assumption
    | with_reducible apply State.setB_keeps
    | with_reducible apply State.hit_keeps

theorem State.supplyInvalid_keeps {q : List Instr} {u : Nat} {s : State} {i : Nat} (hs : Keeps q u s) :
    Keeps q u (State.supplyInvalid s i) := by
  unfold State.supplyInvalid
  repeat' first
    | with_reducible assumption
    | (lift_lets -underBinder; (intro s; refine cut (p := Keeps q u (s : State)) ?_ ?_; (on_goal 2 => clear_value s; intro _); (on_goal 1 => try subst s)))
    | with_reducible apply State.set_keeps
    | with_reducible apply State.surge_keeps
    | with_reducible apply State.railResult_keeps
    | with_reducible apply keeps_ite

theorem State.invalidOne_keeps {q : List Instr} {u : Nat} {s : State} {r : Req} (hs : Keeps q u s) :
    Keeps q u (State.invalidOne s r) := by
  unfold State.invalidOne
  repeat' first
    | with_reducible assumption
    | with_reducible apply State.supplyInvalid_keeps
    | with_reducible apply State.passedOver_keeps
    | with_reducible apply keeps_ite
    | with_reducible apply keptW_ok
    | with_reducible apply keptW_no
    | with_reducible apply keptO_next
    | with_reducible apply keptW_ite
    | with_reducible apply keptO_ite
    | refine Keeps.of_ok (by with_reducible assumption) ?_
    | refine Keeps.of_no (by with_reducible assumption) ?_
    | refine Keeps.of_fst (by with_reducible assumption) ?_
    | refine Keeps.of_snd (by with_reducible assumption) ?_
    | split

theorem State.grantLost_keeps {q : List Instr} {u : Nat} {s : State} {c : Nat} {g : Grant} {cut : Bool} (hs : Keeps q u s) :
    Keeps q u (State.grantLost s c g cut) := by
  unfold State.grantLost
  repeat' first
    | with_reducible assumption
    | with_reducible apply State.dieDone_keeps
    | with_reducible apply State.calPoint_keeps
    | with_reducible apply State.setB_keeps
    | with_reducible apply State.hostDone_keeps
    | with_reducible apply State.invalidOne_keeps
    | with_reducible apply keeps_ite
    | with_reducible apply keptW_ok
    | with_reducible apply keptW_no
    | with_reducible apply keptO_next
    | with_reducible apply keptW_ite
    | with_reducible apply keptO_ite
    | refine Keeps.of_ok (by with_reducible assumption) ?_
    | refine Keeps.of_no (by with_reducible assumption) ?_
    | refine Keeps.of_fst (by with_reducible assumption) ?_
    | refine Keeps.of_snd (by with_reducible assumption) ?_
    | split

theorem State.dropConv_keeps {q : List Instr} {u : Nat} {s : State} {c : Nat} (hs : Keeps q u s) :
    Keeps q u (State.dropConv s c) := by
  unfold State.dropConv
  repeat' first
    | with_reducible assumption
    | (lift_lets -underBinder; first | (intro s; refine cut (p := Keeps q u (s : State)) ?_ ?_; (on_goal 2 => clear_value s; intro _); (on_goal 1 => try subst s)) | (intro x; clear_value x))
    | with_reducible apply State.retireConv_keeps
    | with_reducible apply State.setGrant_keeps
    | with_reducible apply State.setMt_keeps
    | with_reducible apply State.grantLost_keeps
    | with_reducible apply keeps_ite
    | with_reducible apply keptW_ok
    | with_reducible apply keptW_no
    | with_reducible apply keptO_next
    | with_reducible apply keptW_ite
    | with_reducible apply keptO_ite
    | refine Keeps.of_ok (by with_reducible assumption) ?_
    | refine Keeps.of_no (by with_reducible assumption) ?_
    | refine Keeps.of_fst (by with_reducible assumption) ?_
    | refine Keeps.of_snd (by with_reducible assumption) ?_
    | split

theorem State.convNext_keeps {q : List Instr} {u : Nat} {s : State} {c : Nat} {g : Grant} {start : Nat} (hs : Keeps q u s) :
    Keeps q u (State.convNext s c g start) := by
  unfold State.convNext
  repeat' first
    | with_reducible assumption
    | with_reducible apply State.setGrant_keeps
    | with_reducible apply keeps_ite

theorem State.converted_keeps {q : List Instr} {u : Nat} {s : State} {c : Nat} {code : Nat} {valid : Bool} (hs : Keeps q u s) :
    Keeps q u (State.converted s c code valid) := by
  unfold State.converted
  repeat' first
    | with_reducible assumption
    | (intro s; refine cut (p := Keeps q u (s : State)) ?_ ?_; (on_goal 2 => clear_value s; intro _); (on_goal 1 => try subst s))
    | (intro s; refine cut (p := Keeps q u (s.2 : State)) ?_ ?_; (on_goal 2 => clear_value s; intro _); (on_goal 1 => try subst s))
    | (intro x; clear_value x)
    | intro _
    | (lift_lets -underBinder; first | (intro s; refine cut (p := Keeps q u (s : State)) ?_ ?_; (on_goal 2 => clear_value s; intro _); (on_goal 1 => try subst s)) | (intro s; refine cut (p := Keeps q u (s.1 : State)) ?_ ?_; (on_goal 2 => clear_value s; intro _); (on_goal 1 => try subst s)) | (intro x; clear_value x) | intro _)
    | with_reducible apply State.rampStep_keeps
    | with_reducible apply State.calibratedSync_keeps
    | with_reducible apply State.dieSensor_keeps
    | with_reducible apply State.convNext_keeps
    | with_reducible apply State.dieDone_keeps
    | with_reducible apply State.calPoint_keeps
    | with_reducible apply State.setBank_keeps
    | with_reducible apply State.hostResult_keeps
    | with_reducible apply State.draw_keeps
    | with_reducible apply State.setB_keeps
    | with_reducible apply State.hostDone_keeps
    | with_reducible apply State.setGrant_keeps
    | with_reducible apply State.passedOver_keeps
    | with_reducible apply State.headResult_keeps
    | with_reducible apply State.deepReading_keeps
    | with_reducible apply State.readingNote_keeps
    | with_reducible apply State.pgResult_keeps
    | with_reducible apply State.supplyResult_keeps
    | with_reducible apply State.supplyInvalid_keeps
    | with_reducible apply State.motorResult_keeps
    | with_reducible apply keeps_ite
    | with_reducible apply keeps_ite_fst
    | with_reducible apply keeps_ite_snd
    | with_reducible apply keptW_ok
    | with_reducible apply keptW_no
    | with_reducible apply keptO_next
    | with_reducible apply keptW_ite
    | with_reducible apply keptO_ite
    | refine Keeps.of_ok (by with_reducible assumption) ?_
    | refine Keeps.of_no (by with_reducible assumption) ?_
    | refine Keeps.of_fst (by with_reducible assumption) ?_
    | refine Keeps.of_snd (by with_reducible assumption) ?_
    | split

theorem execSenseConversionDone_keeps {q : List Instr} {u : Nat} {c : Nat} {code : Nat} {t : Nat} {s : State} (hs : Keeps q u s) :
    KeptO q u (execSenseConversionDone c code t s) := by
  unfold execSenseConversionDone
  repeat' first
    | with_reducible assumption
    | (lift_lets -underBinder; (intro s; refine cut (p := Keeps q u (s : State)) ?_ ?_; (on_goal 2 => clear_value s; intro _); (on_goal 1 => try subst s)))
    | with_reducible apply State.adv_keeps
    | with_reducible apply State.converted_keeps
    | with_reducible apply State.senseGrant_keeps
    | with_reducible apply State.mtSync_keeps
    | with_reducible apply WRes.mtSync_keeps
    | with_reducible apply keeps_ite
    | with_reducible apply keptW_ok
    | with_reducible apply keptW_no
    | with_reducible apply keptO_next
    | with_reducible apply keptW_ite
    | with_reducible apply keptO_ite
    | refine Keeps.of_ok (by with_reducible assumption) ?_
    | refine Keeps.of_no (by with_reducible assumption) ?_
    | refine Keeps.of_fst (by with_reducible assumption) ?_
    | refine Keeps.of_snd (by with_reducible assumption) ?_
    | split

theorem execSenseDeadline_keeps {q : List Instr} {u : Nat} {t : Nat} {s : State} (hs : Keeps q u s) :
    KeptO q u (execSenseDeadline t s) := by
  unfold execSenseDeadline
  repeat' first
    | with_reducible assumption
    | refine fun (s : State) (h : Keeps q u s) => ?_
    | refine fun _ => ?_
    | (intro s; refine cut (p := Keeps q u (s : State)) ?_ ?_; (on_goal 2 => clear_value s; intro _); (on_goal 1 => try subst s))
    | (intro x; clear_value x)
    | (lift_lets -underBinder; (intro s; refine cut (p := Keeps q u (s : State)) ?_ ?_; (on_goal 2 => clear_value s; intro _); (on_goal 1 => try subst s)))
    | with_reducible apply keeps_foldl
    | refine fun (s : State) (h : Keeps q u s) => ?_
    | refine fun _ => ?_
    | with_reducible apply State.adv_keeps
    | with_reducible apply State.senseWithdraw_keeps
    | with_reducible apply State.passedOver_keeps
    | with_reducible apply State.senseGrant_keeps
    | with_reducible apply hf
    | with_reducible apply keeps_ite
    | with_reducible apply keptW_ok
    | with_reducible apply keptW_no
    | with_reducible apply keptO_next

theorem State.holdCut_keeps {q : List Instr} {u : Nat} {s : State} {c : Nat} {g : Grant} (hs : Keeps q u s) :
    Keeps q u (State.holdCut s c g) := by
  unfold State.holdCut
  repeat' first
    | with_reducible assumption
    | (intro s; refine cut (p := Keeps q u (s : State)) ?_ ?_; (on_goal 2 => clear_value s; intro _); (on_goal 1 => try subst s))
    | (intro x; clear_value x)
    | (lift_lets -underBinder; (intro x; clear_value x))
    | with_reducible apply State.setBank_keeps
    | with_reducible apply State.inc_keeps
    | with_reducible apply State.hit_keeps
    | with_reducible apply State.sbPut_keeps
    | with_reducible apply State.setGrant_keeps
    | with_reducible apply State.grantLost_keeps
    | with_reducible apply State.senseGrant_keeps
    | with_reducible apply keeps_ite

theorem State.convLate_keeps {q : List Instr} {u : Nat} {s : State} {c : Nat} (hs : Keeps q u s) :
    Keeps q u (State.convLate s c) := by
  unfold State.convLate
  repeat' first
    | with_reducible assumption
    | (intro s; refine cut (p := Keeps q u (s : State)) ?_ ?_; (on_goal 2 => clear_value s; intro _); (on_goal 1 => try subst s))
    | (intro x; clear_value x)
    | (lift_lets -underBinder; (intro x; clear_value x))
    | with_reducible apply State.setSconv_keeps
    | with_reducible apply State.hit_keeps
    | with_reducible apply State.dropConv_keeps
    | with_reducible apply State.converted_keeps
    | with_reducible apply State.senseGrant_keeps
    | with_reducible apply keeps_ite

theorem execSenseHoldCut_keeps {q : List Instr} {u : Nat} {c : Nat} {t : Nat} {s : State} (hs : Keeps q u s) :
    KeptO q u (execSenseHoldCut c t s) := by
  unfold execSenseHoldCut
  repeat' first
    | with_reducible assumption
    | (lift_lets -underBinder; first | (intro s; refine cut (p := Keeps q u (s : State)) ?_ ?_; (on_goal 2 => clear_value s; intro _); (on_goal 1 => try subst s)) | (intro x; clear_value x))
    | with_reducible apply State.adv_keeps
    | with_reducible apply State.holdCut_keeps
    | with_reducible apply keeps_ite
    | with_reducible apply keptW_ok
    | with_reducible apply keptW_no
    | with_reducible apply keptO_next
    | with_reducible apply keptW_ite
    | with_reducible apply keptO_ite
    | refine Keeps.of_ok (by with_reducible assumption) ?_
    | refine Keeps.of_no (by with_reducible assumption) ?_
    | refine Keeps.of_fst (by with_reducible assumption) ?_
    | refine Keeps.of_snd (by with_reducible assumption) ?_
    | split

theorem execSenseConvTimeout_keeps {q : List Instr} {u : Nat} {c : Nat} {t : Nat} {s : State} (hs : Keeps q u s) :
    KeptO q u (execSenseConvTimeout c t s) := by
  unfold execSenseConvTimeout
  repeat' first
    | with_reducible assumption
    | (lift_lets -underBinder; (intro s; refine cut (p := Keeps q u (s : State)) ?_ ?_; (on_goal 2 => clear_value s; intro _); (on_goal 1 => try subst s)))
    | with_reducible apply State.adv_keeps
    | with_reducible apply State.convLate_keeps
    | with_reducible apply keeps_ite
    | with_reducible apply keptW_ok
    | with_reducible apply keptW_no
    | with_reducible apply keptO_next
    | with_reducible apply keptW_ite
    | with_reducible apply keptO_ite
    | refine Keeps.of_ok (by with_reducible assumption) ?_
    | refine Keeps.of_no (by with_reducible assumption) ?_
    | refine Keeps.of_fst (by with_reducible assumption) ?_
    | refine Keeps.of_snd (by with_reducible assumption) ?_
    | split

theorem execRefFault_keeps {q : List Instr} {u : Nat} {t : Nat} {s : State} (hs : Keeps q u s) :
    KeptO q u (execRefFault t s) := by
  unfold execRefFault
  repeat' first
    | with_reducible assumption
    | (intro x; clear_value x)
    | (lift_lets -underBinder; (intro s; refine cut (p := Keeps q u (s : State)) ?_ ?_; (on_goal 2 => clear_value s; intro _); (on_goal 1 => try subst s)))
    | with_reducible apply State.adv_keeps
    | with_reducible apply State.setBank_keeps
    | with_reducible apply State.sbPut_keeps
    | with_reducible apply State.hit_keeps
    | with_reducible apply keeps_ite
    | with_reducible apply keptW_ok
    | with_reducible apply keptW_no
    | with_reducible apply keptO_next
    | with_reducible apply keptW_ite
    | with_reducible apply keptO_ite

theorem execRefFaultClear_keeps {q : List Instr} {u : Nat} {t : Nat} {s : State} (hs : Keeps q u s) :
    KeptO q u (execRefFaultClear t s) := by
  unfold execRefFaultClear
  repeat' first
    | with_reducible assumption
    | (lift_lets -underBinder; (intro s; refine cut (p := Keeps q u (s : State)) ?_ ?_; (on_goal 2 => clear_value s; intro _); (on_goal 1 => try subst s)))
    | with_reducible apply State.adv_keeps
    | with_reducible apply State.sbPut_keeps
    | with_reducible apply keeps_ite
    | with_reducible apply keptW_ok
    | with_reducible apply keptW_no
    | with_reducible apply keptO_next

theorem execDieReadingDue_keeps {q : List Instr} {u : Nat} {t : Nat} {s : State} (hs : Keeps q u s) :
    KeptO q u (execDieReadingDue t s) := by
  unfold execDieReadingDue
  repeat' first
    | with_reducible assumption
    | (intro s; refine cut (p := Keeps q u (s : State)) ?_ ?_; (on_goal 2 => clear_value s; intro _); (on_goal 1 => try subst s))
    | (intro x; clear_value x)
    | (lift_lets -underBinder; (intro s; refine cut (p := Keeps q u (s : State)) ?_ ?_; (on_goal 2 => clear_value s; intro _); (on_goal 1 => try subst s)))
    | with_reducible apply State.adv_keeps
    | with_reducible apply State.setBank_keeps
    | with_reducible apply State.senseWithdraw_keeps
    | with_reducible apply State.senseAsk_keeps
    | with_reducible apply keeps_ite
    | with_reducible apply keptW_ok
    | with_reducible apply keptW_no
    | with_reducible apply keptO_next
    | with_reducible apply keptW_ite
    | with_reducible apply keptO_ite

theorem State.capSwap_keeps {q : List Instr} {u : Nat} {s : State} {k : Nat} (hs : Keeps q u s) :
    Keeps q u (State.capSwap s k) := by
  unfold State.capSwap
  repeat' first
    | with_reducible assumption
    | (lift_lets -underBinder; (intro x; clear_value x))
    | with_reducible apply State.setPif_keeps
    | with_reducible apply keeps_ite

theorem execDelayLineCalDone_keeps {q : List Instr} {u : Nat} {k : Nat} {sums : List Nat} {t : Nat} {s : State} (hs : Keeps q u s) :
    KeptO q u (execDelayLineCalDone k sums t s) := by
  unfold execDelayLineCalDone
  repeat' first
    | with_reducible assumption
    | (intro s; refine cut (p := Keeps q u (s : State)) ?_ ?_; (on_goal 2 => clear_value s; intro _); (on_goal 1 => try subst s))
    | (intro x; clear_value x)
    | (lift_lets -underBinder; (intro s; refine cut (p := Keeps q u (s : State)) ?_ ?_; (on_goal 2 => clear_value s; intro _); (on_goal 1 => try subst s)))
    | with_reducible apply State.adv_keeps
    | with_reducible apply State.setBank_keeps
    | with_reducible apply State.capSwap_keeps
    | with_reducible apply State.hit_keeps
    | with_reducible apply State.calCheck_keeps
    | with_reducible apply State.setDline_keeps
    | with_reducible apply State.dlSettle_keeps
    | with_reducible apply State.set_keeps
    | with_reducible apply keeps_ite
    | with_reducible apply keptW_ok
    | with_reducible apply keptW_no
    | with_reducible apply keptO_next
    | with_reducible apply keptW_ite
    | with_reducible apply keptO_ite

theorem State.storeGo_keeps {q : List Instr} {u : Nat} {s : State} {step : Nat} (hs : Keeps q u s) :
    Keeps q u (State.storeGo s step) := by
  unfold State.storeGo
  repeat' first
    | with_reducible assumption
    | (intro s; refine cut (p := Keeps q u (s : State)) ?_ ?_; (on_goal 2 => clear_value s; intro _); (on_goal 1 => try subst s))
    | (lift_lets -underBinder; (intro x; clear_value x))
    | with_reducible apply State.storePend_keeps
    | with_reducible apply State.setBank_keeps
    | with_reducible apply State.flashAsk_keeps
    | with_reducible apply keeps_ite

theorem State.storeBegin_keeps {q : List Instr} {u : Nat} {s : State} (hs : Keeps q u s) :
    Keeps q u (State.storeBegin s) := by
  unfold State.storeBegin
  repeat' first
    | with_reducible assumption
    | (intro s; refine cut (p := Keeps q u (s : State)) ?_ ?_; (on_goal 2 => clear_value s; intro _); (on_goal 1 => try subst s))
    | (intro x; clear_value x)
    | (lift_lets -underBinder; (intro x; clear_value x))
    | with_reducible apply State.setBank_keeps
    | with_reducible apply State.set_keeps
    | with_reducible apply State.storeGo_keeps

theorem State.storeEnd_keeps {q : List Instr} {u : Nat} {s : State} {result : Nat} {bit : Nat} {cls : Nat} (hs : Keeps q u s) :
    Keeps q u (State.storeEnd s result bit cls) := by
  unfold State.storeEnd
  repeat' first
    | with_reducible assumption
    | (intro s; refine cut (p := Keeps q u (s : State)) ?_ ?_; (on_goal 2 => clear_value s; intro _); (on_goal 1 => try subst s))
    | (lift_lets -underBinder; (intro x; clear_value x))
    | with_reducible apply State.setBank_keeps
    | with_reducible apply State.set_keeps
    | with_reducible apply State.sbPut_keeps
    | with_reducible apply State.hit_keeps

theorem State.storeStepDone_keeps {q : List Instr} {u : Nat} {s : State} {res : Nat} (hs : Keeps q u s) :
    Keeps q u (State.storeStepDone s res) := by
  unfold State.storeStepDone
  repeat' first
    | with_reducible assumption
    | (lift_lets -underBinder; (intro x; clear_value x))
    | with_reducible apply State.setBank_keeps
    | with_reducible apply State.storeBegin_keeps
    | with_reducible apply State.storeEnd_keeps
    | with_reducible apply State.storeGo_keeps
    | with_reducible apply State.set_keeps
    | with_reducible apply keeps_ite
    | with_reducible apply keptW_ok
    | with_reducible apply keptW_no
    | with_reducible apply keptO_next
    | with_reducible apply keptW_ite
    | with_reducible apply keptO_ite
    | refine Keeps.of_ok (by with_reducible assumption) ?_
    | refine Keeps.of_no (by with_reducible assumption) ?_
    | refine Keeps.of_fst (by with_reducible assumption) ?_
    | refine Keeps.of_snd (by with_reducible assumption) ?_
    | split

theorem execQspiOpDone_keeps {q : List Instr} {u : Nat} {res : Nat} {t : Nat} {s : State} (hs : Keeps q u s) :
    KeptO q u (execQspiOpDone res t s) := by
  unfold execQspiOpDone
  repeat' first
    | with_reducible assumption
    | (intro s; refine cut (p := Keeps q u (s : State)) ?_ ?_; (on_goal 2 => clear_value s; intro _); (on_goal 1 => try subst s))
    | (intro x; clear_value x)
    | (lift_lets -underBinder; first | (intro s; refine cut (p := Keeps q u (s : State)) ?_ ?_; (on_goal 2 => clear_value s; intro _); (on_goal 1 => try subst s)) | (intro s; refine cut (p := Keeps q u (s.1 : State)) ?_ ?_; (on_goal 2 => clear_value s; intro _); (on_goal 1 => try subst s)))
    | with_reducible apply State.adv_keeps
    | with_reducible apply State.flashRun_keeps
    | with_reducible apply State.setFlash_keeps
    | with_reducible apply State.qspiDone_keeps
    | with_reducible apply State.storeStepDone_keeps
    | with_reducible apply State.flashGo_keeps
    | with_reducible apply keeps_ite
    | with_reducible apply keeps_ite_fst
    | with_reducible apply keeps_ite_snd
    | with_reducible apply keptW_ok
    | with_reducible apply keptW_no
    | with_reducible apply keptO_next
    | with_reducible apply keptW_ite
    | with_reducible apply keptO_ite
    | refine Keeps.of_ok (by with_reducible assumption) ?_
    | refine Keeps.of_no (by with_reducible assumption) ?_
    | refine Keeps.of_fst (by with_reducible assumption) ?_
    | refine Keeps.of_snd (by with_reducible assumption) ?_
    | split

theorem State.storeLoad_keeps {q : List Instr} {u : Nat} {s : State} (hs : Keeps q u s) :
    Keeps q u (State.storeLoad s) := by
  unfold State.storeLoad
  repeat' first
    | with_reducible assumption
    | refine fun (s : State) (h : Keeps q u s) => ?_
    | refine fun _ => ?_
    | (intro s; refine cut (p := Keeps q u (s : State)) ?_ ?_; (on_goal 2 => clear_value s; intro _); (on_goal 1 => try subst s))
    | (intro x; clear_value x)
    | (lift_lets -underBinder; first | (intro s; refine cut (p := Keeps q u (s : State)) ?_ ?_; (on_goal 2 => clear_value s; intro _); (on_goal 1 => try subst s)) | (intro x; clear_value x))
    | with_reducible apply keeps_foldl
    | refine fun (s : State) (h : Keeps q u s) => ?_
    | refine fun _ => ?_
    | with_reducible apply State.set_keeps
    | with_reducible apply State.setSconv_keeps
    | with_reducible apply State.setI_keeps
    | with_reducible apply State.dropConv_keeps
    | with_reducible apply State.forAll_keeps
    | with_reducible apply State.dlSettleAll_keeps
    | with_reducible apply State.rampSync_keeps
    | with_reducible apply State.calibratedSync_keeps
    | with_reducible apply State.sbPut_keeps
    | with_reducible apply keeps_ite
    | with_reducible apply keptW_ok
    | with_reducible apply keptW_no
    | with_reducible apply keptO_next
    | with_reducible apply keptW_ite
    | with_reducible apply keptO_ite
    | refine Keeps.of_ok (by with_reducible assumption) ?_
    | refine Keeps.of_no (by with_reducible assumption) ?_
    | refine Keeps.of_fst (by with_reducible assumption) ?_
    | refine Keeps.of_snd (by with_reducible assumption) ?_
    | split

theorem wrStoreCmd_keeps {q : List Instr} {u : Nat} {v : Nat} {s : State} (hs : Keeps q u s) :
    KeptW q u (wrStoreCmd v s) := by
  unfold wrStoreCmd
  repeat' first
    | with_reducible assumption
    | (lift_lets -underBinder; (intro x; clear_value x))
    | with_reducible apply State.deferred_keeps
    | with_reducible apply State.sbPut_keeps
    | with_reducible apply State.setBank_keeps
    | with_reducible apply State.storeBegin_keeps
    | with_reducible apply State.storeLoad_keeps
    | with_reducible apply State.senseGrant_keeps
    | with_reducible apply keeps_ite
    | with_reducible apply keptW_ok
    | with_reducible apply keptW_no
    | with_reducible apply keptO_next
    | with_reducible apply keptW_ite

theorem execSbStoreSave_keeps {q : List Instr} {u : Nat} {p : Path} {s : State} (hs : Keeps q u s) :
    KeptO q u (execSbStoreSave p s) := by
  unfold execSbStoreSave
  repeat' first
    | with_reducible assumption
    | refine fun (s : State) (h : Keeps q u s) => ?_
    | refine fun _ => ?_
    | with_reducible apply access_keeps
    | with_reducible apply wrStoreCmd_keeps

theorem execSbStoreLoad_keeps {q : List Instr} {u : Nat} {p : Path} {s : State} (hs : Keeps q u s) :
    KeptO q u (execSbStoreLoad p s) := by
  unfold execSbStoreLoad
  repeat' first
    | with_reducible assumption
    | refine fun (s : State) (h : Keeps q u s) => ?_
    | refine fun _ => ?_
    | with_reducible apply access_keeps
    | with_reducible apply wrStoreCmd_keeps

theorem execCurfewHoldExpiry_keeps {q : List Instr} {u : Nat} {t : Nat} {s : State} (hs : Keeps q u s) :
    KeptO q u (execCurfewHoldExpiry t s) := by
  unfold execCurfewHoldExpiry
  repeat' first
    | with_reducible assumption
    | (intro s; refine cut (p := Keeps q u (s : State)) ?_ ?_; (on_goal 2 => clear_value s; intro _); (on_goal 1 => try subst s))
    | (lift_lets -underBinder; (intro s; refine cut (p := Keeps q u (s : State)) ?_ ?_; (on_goal 2 => clear_value s; intro _); (on_goal 1 => try subst s)))
    | with_reducible apply State.adv_keeps
    | with_reducible apply State.curfewEnd_keeps
    | with_reducible apply State.storeBegin_keeps
    | with_reducible apply State.flashGo_keeps
    | with_reducible apply keeps_ite
    | with_reducible apply keptW_ok
    | with_reducible apply keptW_no
    | with_reducible apply keptO_next
    | with_reducible apply keptW_ite
    | with_reducible apply keptO_ite

theorem wrSbControl_keeps {q : List Instr} {u : Nat} {new : Nat} {v : Nat} {s : State} (hs : Keeps q u s) :
    KeptW q u (wrSbControl new v s) := by
  unfold wrSbControl
  repeat' first
    | with_reducible assumption
    | refine fun (s : State) (h : Keeps q u s) => ?_
    | refine fun _ => ?_
    | (intro s; refine cut (p := Keeps q u (s : State)) ?_ ?_; (on_goal 2 => clear_value s; intro _); (on_goal 1 => try subst s))
    | (intro x; clear_value x)
    | (lift_lets -underBinder; first | (intro s; refine cut (p := Keeps q u (s : State)) ?_ ?_; (on_goal 2 => clear_value s; intro _); (on_goal 1 => try subst s)) | (intro x; clear_value x))
    | with_reducible apply need_keeps
    | with_reducible apply State.set_keeps
    | with_reducible apply State.sbPut_keeps
    | with_reducible apply State.setBank_keeps
    | with_reducible apply State.forAll_keeps
    | with_reducible apply State.setSconv_keeps
    | with_reducible apply State.calStart_keeps
    | with_reducible apply State.senseGrant_keeps
    | with_reducible apply keeps_ite
    | with_reducible apply keptW_ok

theorem cmdSb_keeps {q : List Instr} {u : Nat} {p : Path} {bit : Nat} {s : State} (hs : Keeps q u s) :
    KeptO q u (cmdSb p bit s) := by
  unfold cmdSb
  repeat' first
    | with_reducible assumption
    | refine fun (s : State) (h : Keeps q u s) => ?_
    | refine fun _ => ?_
    | (lift_lets -underBinder; (intro x; clear_value x))
    | with_reducible apply access_keeps
    | with_reducible apply checked_keeps
    | with_reducible apply wrSbControl_keeps

theorem execCalStart_keeps {q : List Instr} {u : Nat} {p : Path} {s : State} (hs : Keeps q u s) :
    KeptO q u (execCalStart p s) := by
  unfold execCalStart
  repeat' first
    | with_reducible assumption
    | with_reducible apply cmdSb_keeps

theorem execClrRetired_keeps {q : List Instr} {u : Nat} {p : Path} {s : State} (hs : Keeps q u s) :
    KeptO q u (execClrRetired p s) := by
  unfold execClrRetired
  repeat' first
    | with_reducible assumption
    | with_reducible apply cmdSb_keeps

theorem execSbClrStats_keeps {q : List Instr} {u : Nat} {p : Path} {s : State} (hs : Keeps q u s) :
    KeptO q u (execSbClrStats p s) := by
  unfold execSbClrStats
  repeat' first
    | with_reducible assumption
    | with_reducible apply cmdSb_keeps

theorem wrHostCmd_keeps {q : List Instr} {u : Nat} {v : Nat} {s : State} (hs : Keeps q u s) :
    KeptW q u (wrHostCmd v s) := by
  unfold wrHostCmd
  repeat' first
    | with_reducible assumption
    | (intro x; clear_value x)
    | (lift_lets -underBinder; (intro x; clear_value x))
    | with_reducible apply State.set_keeps
    | with_reducible apply State.senseAsk_keeps
    | with_reducible apply keeps_ite
    | with_reducible apply keptW_ok
    | with_reducible apply keptW_no
    | with_reducible apply keptO_next
    | with_reducible apply keptW_ite

theorem execSbHostCmd_keeps {q : List Instr} {u : Nat} {p : Path} {v : Nat} {s : State} (hs : Keeps q u s) :
    KeptO q u (execSbHostCmd p v s) := by
  unfold execSbHostCmd
  repeat' first
    | with_reducible assumption
    | refine fun (s : State) (h : Keeps q u s) => ?_
    | refine fun _ => ?_
    | with_reducible apply access_keeps
    | with_reducible apply wrHostCmd_keeps

end Sys2Proof.Machine
end

