-- ==== Sys2Proof/Laws/KeepsOtp.lean ====
section
/-! SUPPORT. What each operation of Machine/Otp.lean keeps (Laws/Keeps.lean). -/
namespace Sys2Proof.Machine

theorem State.setFuse_keeps {q : List Instr} {u : Nat} {s : State} {c : Nat} {f : Fuse} (hs : Keeps q u s) :
    Keeps q u (State.setFuse s c f) := by
  unfold State.setFuse
  repeat' first
    | with_reducible assumption
    | (lift_lets -underBinder; (intro x; clear_value x))
    | with_reducible apply State.setOtp_keeps

theorem State.otpReads_keeps {q : List Instr} {u : Nat} {s : State} {l : FuseReads} (hs : Keeps q u s) :
    Keeps q u (State.otpReads s l) := by
  unfold State.otpReads
  repeat' first
    | with_reducible assumption
    | with_reducible apply keeps_foldl
    | refine fun (s : State) (h : Keeps q u s) => ?_
    | refine fun _ => ?_
    | with_reducible apply State.setFuse_keeps
    | with_reducible apply keeps_ite

theorem State.crcScan_keeps {q : List Instr} {u : Nat} {s : State} (hs : Keeps q u s) :
    Keeps q u (State.crcScan s) := by
  unfold State.crcScan
  repeat' first
    | with_reducible assumption
    | (intro s; refine cut (p := Keeps q u (s : State)) ?_ ?_; (on_goal 2 => clear_value s; intro _); (on_goal 1 => try subst s))
    | (intro x; clear_value x)
    | (lift_lets -underBinder; (intro x; clear_value x))
    | with_reducible apply State.setF_keeps
    | with_reducible apply State.btHit_keeps
    | with_reducible apply keeps_ite

theorem State.weakScan_keeps {q : List Instr} {u : Nat} {s : State} (hs : Keeps q u s) :
    Keeps q u (State.weakScan s) := by
  unfold State.weakScan
  repeat' first
    | with_reducible assumption
    | refine fun (s : State) (h : Keeps q u s) => ?_
    | refine fun _ => ?_
    | (intro s; refine cut (p := Keeps q u (s : State)) ?_ ?_; (on_goal 2 => clear_value s; intro _); (on_goal 1 => try subst s))
    | (intro x; clear_value x)
    | (lift_lets -underBinder; (intro x; clear_value x))
    | with_reducible apply keeps_foldl
    | refine fun (s : State) (h : Keeps q u s) => ?_
    | refine fun _ => ?_
    | with_reducible apply State.forAll_keeps
    | with_reducible apply State.set_keeps
    | with_reducible apply State.setB_keeps
    | with_reducible apply State.journal_keeps
    | with_reducible apply State.btHit_keeps
    | with_reducible apply keeps_ite

theorem State.sparesSync_keeps {q : List Instr} {u : Nat} {s : State} (hs : Keeps q u s) :
    Keeps q u (State.sparesSync s) := by
  unfold State.sparesSync
  repeat' first
    | with_reducible assumption
    | with_reducible apply State.set_keeps

theorem State.bootScan_keeps {q : List Instr} {u : Nat} {s : State} (hs : Keeps q u s) :
    Keeps q u (State.bootScan s) := by
  unfold State.bootScan
  repeat' first
    | with_reducible assumption
    | (intro s; refine cut (p := Keeps q u (s : State)) ?_ ?_; (on_goal 2 => clear_value s; intro _); (on_goal 1 => try subst s))
    | (intro x; clear_value x)
    | (lift_lets -underBinder; (intro x; clear_value x))
    | with_reducible apply State.setOtp_keeps
    | with_reducible apply State.set_keeps
    | with_reducible apply State.setB_keeps
    | with_reducible apply State.sparesSync_keeps
    | with_reducible apply State.crcScan_keeps
    | with_reducible apply State.weakScan_keeps

theorem State.burnCell_keeps {q : List Instr} {u : Nat} {s : State} {l : FuseReads} {c : Nat} {d : Nat} (hs : Keeps q u s) :
    Keeps q u (State.burnCell s l c d).1 := by
  unfold State.burnCell
  repeat' first
    | with_reducible assumption
    | (intro s; refine cut (p := Keeps q u (s : State)) ?_ ?_; (on_goal 2 => clear_value s; intro _); (on_goal 1 => try subst s))
    | (lift_lets -underBinder; (intro x; clear_value x))
    | with_reducible apply State.setFuse_keeps
    | with_reducible apply State.otpReads_keeps

theorem State.burnSpare_keeps {q : List Instr} {u : Nat} {l : FuseReads} {row d : Nat} : ∀ {k : List Nat} {s : State}, Keeps q u s →
    Keeps q u ((State.burnSpare s l row d k).1) := by
  intro k
  induction k with
  | nil => intro s hs; exact hs
  | cons a k ih =>
    intro s hs
    unfold State.burnSpare
    repeat' first
      | with_reducible assumption
      | with_reducible apply ih
      | (intro s; refine cut (p := Keeps q u (s : State)) ?_ ?_; (on_goal 2 => clear_value s; intro _); (on_goal 1 => try subst s))
      | (lift_lets -underBinder; (intro s; refine cut (p := Keeps q u (s.1 : State)) ?_ ?_; (on_goal 2 => clear_value s; intro _); (on_goal 1 => try subst s)))
      | with_reducible apply State.burnCell_keeps
      | with_reducible apply State.sparesSync_keeps
      | with_reducible apply State.btHit_keeps
      | with_reducible apply keeps_ite
      | with_reducible apply keeps_ite_fst

theorem State.burnRow_keeps {q : List Instr} {u : Nat} {s : State} {l : FuseReads} {row : Nat} {d : Nat} (hs : Keeps q u s) :
    Keeps q u (State.burnRow s l row d).1 := by
  unfold State.burnRow
  repeat' first
    | with_reducible assumption
    | (intro s; refine cut (p := Keeps q u (s.1 : State)) ?_ ?_; (on_goal 2 => clear_value s; intro _); (on_goal 1 => try subst s))
    | (lift_lets -underBinder; (intro s; refine cut (p := Keeps q u (s.1 : State)) ?_ ?_; (on_goal 2 => clear_value s; intro _); (on_goal 1 => try subst s)))
    | with_reducible apply State.burnCell_keeps
    | with_reducible apply State.burnSpare_keeps
    | with_reducible apply State.journal_keeps
    | with_reducible apply keeps_ite
    | with_reducible apply keeps_ite_fst

theorem State.burnStart_keeps {q : List Instr} {u : Nat} {s : State} {b : Burn} (hs : Keeps q u s) :
    Keeps q u (State.burnStart s b) := by
  unfold State.burnStart
  repeat' first
    | with_reducible assumption
    | (lift_lets -underBinder; (intro x; clear_value x))
    | with_reducible apply State.setOtp_keeps
    | with_reducible apply State.setB_keeps

theorem State.burnEnd_keeps {q : List Instr} {u : Nat} {s : State} {b : Burn} {row : Nat} {lc : Nat} (hs : Keeps q u s) :
    Keeps q u (State.burnEnd s b row lc) := by
  unfold State.burnEnd
  repeat' first
    | with_reducible assumption
    | (intro s; refine cut (p := Keeps q u (s : State)) ?_ ?_; (on_goal 2 => clear_value s; intro _); (on_goal 1 => try subst s))
    | (lift_lets -underBinder; (intro x; clear_value x))
    | with_reducible apply State.setOtp_keeps
    | with_reducible apply State.setB_keeps
    | with_reducible apply State.set_keeps
    | with_reducible apply keeps_ite

theorem execOtpBurnDone_keeps {q : List Instr} {u : Nat} {l : FuseReads} {t : Nat} {s : State} (hs : Keeps q u s) :
    KeptO q u (execOtpBurnDone l t s) := by
  unfold execOtpBurnDone
  repeat' first
    | with_reducible assumption
    | (intro s; refine cut (p := Keeps q u (s : State)) ?_ ?_; (on_goal 2 => clear_value s; intro _); (on_goal 1 => try subst s))
    | (intro x; clear_value x)
    | (lift_lets -underBinder; first | (intro s; refine cut (p := Keeps q u (s : State)) ?_ ?_; (on_goal 2 => clear_value s; intro _); (on_goal 1 => try subst s)) | (intro s; refine cut (p := Keeps q u (s.1 : State)) ?_ ?_; (on_goal 2 => clear_value s; intro _); (on_goal 1 => try subst s)))
    | with_reducible apply State.adv_keeps
    | with_reducible apply State.burnEnd_keeps
    | with_reducible apply State.burnRow_keeps
    | with_reducible apply State.btHit_keeps
    | with_reducible apply State.deferred_keeps
    | with_reducible apply State.setOtp_keeps
    | with_reducible apply State.journal_keeps
    | with_reducible apply State.resetEvent_keeps
    | with_reducible apply keeps_ite
    | with_reducible apply keeps_ite_fst
    | with_reducible apply keeps_ite_snd
    | with_reducible apply keptW_ok
    | with_reducible apply keptW_no
    | with_reducible apply keptO_next
    | with_reducible apply keptW_ite
    | with_reducible apply keptO_ite
    | refine Keeps.of_ok (by with_reducible assumption) ?_
    | refine Keeps.of_no (by with_reducible assumption) ?_
    | refine Keeps.of_fst (by with_reducible assumption) ?_
    | refine Keeps.of_snd (by with_reducible assumption) ?_
    | split

theorem State.rowRefused_keeps {q : List Instr} {u : Nat} {s : State} {r : Nat × Nat} (hs : Keeps q u s) :
    KeptW q u (State.rowRefused s r) := by
  unfold State.rowRefused
  repeat' first
    | with_reducible assumption
    | (lift_lets -underBinder; (intro s; refine cut (p := Keeps q u (s : State)) ?_ ?_; (on_goal 2 => clear_value s; intro _); (on_goal 1 => try subst s)))
    | with_reducible apply State.set_keeps
    | with_reducible apply State.deferred_keeps
    | with_reducible apply keeps_ite
    | with_reducible apply keeps_ite_fst
    | with_reducible apply keeps_ite_snd
    | with_reducible apply keptW_ok
    | with_reducible apply keptW_no

theorem wrRowCmd_keeps {q : List Instr} {u : Nat} {l : FuseReads} {v : Nat} {s : State} (hs : Keeps q u s) :
    KeptW q u (wrRowCmd l v s) := by
  unfold wrRowCmd
  repeat' first
    | with_reducible assumption
    | refine fun (s : State) (h : Keeps q u s) => ?_
    | refine fun _ => ?_
    | (intro s; refine cut (p := Keeps q u (s : State)) ?_ ?_; (on_goal 2 => clear_value s; intro _); (on_goal 1 => try subst s))
    | (intro f; refine cut (p := ∀ s : State, Keeps q u s → ∀ k, Keeps q u (f s k : State)) ?_ ?_; (on_goal 2 => clear_value f; intro hf); (on_goal 1 => subst f))
    | (intro x; clear_value x)
    | (lift_lets -underBinder; (intro x; clear_value x))
    | with_reducible apply State.set_keeps
    | with_reducible apply State.otpReads_keeps
    | with_reducible apply State.rowRefused_keeps
    | with_reducible apply State.burnStart_keeps
    | with_reducible apply State.crcScan_keeps
    | with_reducible apply State.weakScan_keeps
    | with_reducible apply hf
    | with_reducible apply keeps_ite
    | with_reducible apply keptW_ok
    | with_reducible apply keptW_no
    | with_reducible apply keptO_next
    | with_reducible apply keptW_ite
    | with_reducible apply keptO_ite
    | refine Keeps.of_ok (by with_reducible assumption) ?_
    | refine Keeps.of_no (by with_reducible assumption) ?_
    | refine Keeps.of_fst (by with_reducible assumption) ?_
    | refine Keeps.of_snd (by with_reducible assumption) ?_
    | split

theorem execOtRowRead_keeps {q : List Instr} {u : Nat} {p : Path} {l : FuseReads} {s : State} (hs : Keeps q u s) :
    KeptO q u (execOtRowRead p l s) := by
  unfold execOtRowRead
  repeat' first
    | with_reducible assumption
    | refine fun (s : State) (h : Keeps q u s) => ?_
    | refine fun _ => ?_
    | with_reducible apply access_keeps
    | with_reducible apply wrRowCmd_keeps

theorem execOtRowBurn_keeps {q : List Instr} {u : Nat} {p : Path} {s : State} (hs : Keeps q u s) :
    KeptO q u (execOtRowBurn p s) := by
  unfold execOtRowBurn
  repeat' first
    | with_reducible assumption
    | refine fun (s : State) (h : Keeps q u s) => ?_
    | refine fun _ => ?_
    | with_reducible apply access_keeps
    | with_reducible apply wrRowCmd_keeps

theorem execOtRescan_keeps {q : List Instr} {u : Nat} {p : Path} {l : FuseReads} {s : State} (hs : Keeps q u s) :
    KeptO q u (execOtRescan p l s) := by
  unfold execOtRescan
  repeat' first
    | with_reducible assumption
    | refine fun (s : State) (h : Keeps q u s) => ?_
    | refine fun _ => ?_
    | with_reducible apply access_keeps
    | with_reducible apply wrRowCmd_keeps

theorem execOtLock_keeps {q : List Instr} {u : Nat} {p : Path} {s : State} (hs : Keeps q u s) :
    KeptO q u (execOtLock p s) := by
  unfold execOtLock
  repeat' first
    | with_reducible assumption
    | refine fun (s : State) (h : Keeps q u s) => ?_
    | refine fun _ => ?_
    | with_reducible apply access_keeps
    | with_reducible apply wrRowCmd_keeps

theorem wrLcCmd_keeps {q : List Instr} {u : Nat} {v : Nat} {s : State} (hs : Keeps q u s) :
    KeptW q u (wrLcCmd v s) := by
  unfold wrLcCmd
  repeat' first
    | with_reducible assumption
    | refine fun (s : State) (h : Keeps q u s) => ?_
    | refine fun _ => ?_
    | (intro s; refine cut (p := Keeps q u (s : State)) ?_ ?_; (on_goal 2 => clear_value s; intro _); (on_goal 1 => try subst s))
    | (lift_lets -underBinder; first | (intro s; refine cut (p := Keeps q u (s : State)) ?_ ?_; (on_goal 2 => clear_value s; intro _); (on_goal 1 => try subst s)) | (intro x; clear_value x))
    | with_reducible apply State.forAll_keeps
    | with_reducible apply State.set_keeps
    | with_reducible apply State.inc_keeps
    | with_reducible apply State.deferred_keeps
    | with_reducible apply State.btHit_keeps
    | with_reducible apply State.burnStart_keeps
    | with_reducible apply keeps_ite
    | with_reducible apply keptW_ok
    | with_reducible apply keptW_no
    | with_reducible apply keptO_next
    | with_reducible apply keptW_ite
    | with_reducible apply keptO_ite
    | refine Keeps.of_ok (by with_reducible assumption) ?_
    | refine Keeps.of_no (by with_reducible assumption) ?_
    | refine Keeps.of_fst (by with_reducible assumption) ?_
    | refine Keeps.of_snd (by with_reducible assumption) ?_
    | split

theorem execLcToVendorTest_keeps {q : List Instr} {u : Nat} {p : Path} {s : State} (hs : Keeps q u s) :
    KeptO q u (execLcToVendorTest p s) := by
  unfold execLcToVendorTest
  repeat' first
    | with_reducible assumption
    | refine fun (s : State) (h : Keeps q u s) => ?_
    | refine fun _ => ?_
    | with_reducible apply access_keeps
    | with_reducible apply wrLcCmd_keeps

theorem execLcToProvision_keeps {q : List Instr} {u : Nat} {p : Path} {s : State} (hs : Keeps q u s) :
    KeptO q u (execLcToProvision p s) := by
  unfold execLcToProvision
  repeat' first
    | with_reducible assumption
    | refine fun (s : State) (h : Keeps q u s) => ?_
    | refine fun _ => ?_
    | with_reducible apply access_keeps
    | with_reducible apply wrLcCmd_keeps

theorem execLcToField_keeps {q : List Instr} {u : Nat} {p : Path} {s : State} (hs : Keeps q u s) :
    KeptO q u (execLcToField p s) := by
  unfold execLcToField
  repeat' first
    | with_reducible assumption
    | refine fun (s : State) (h : Keeps q u s) => ?_
    | refine fun _ => ?_
    | with_reducible apply access_keeps
    | with_reducible apply wrLcCmd_keeps

theorem execLcToReturn_keeps {q : List Instr} {u : Nat} {p : Path} {s : State} (hs : Keeps q u s) :
    KeptO q u (execLcToReturn p s) := by
  unfold execLcToReturn
  repeat' first
    | with_reducible assumption
    | refine fun (s : State) (h : Keeps q u s) => ?_
    | refine fun _ => ?_
    | with_reducible apply access_keeps
    | with_reducible apply wrLcCmd_keeps

theorem execLcToScrapped_keeps {q : List Instr} {u : Nat} {p : Path} {s : State} (hs : Keeps q u s) :
    KeptO q u (execLcToScrapped p s) := by
  unfold execLcToScrapped
  repeat' first
    | with_reducible assumption
    | refine fun (s : State) (h : Keeps q u s) => ?_
    | refine fun _ => ?_
    | with_reducible apply access_keeps
    | with_reducible apply wrLcCmd_keeps

end Sys2Proof.Machine
end

