-- ==== Sys2Proof/Laws/KeepsBoot.lean ====
section
/-! SUPPORT. What each operation of Machine/Boot.lean keeps (Laws/Keeps.lean). -/
namespace Sys2Proof.Machine

theorem State.bootJournal_keeps {q : List Instr} {u : Nat} {s : State} (hs : Keeps q u s) :
    Keeps q u (State.bootJournal s) := by
  unfold State.bootJournal
  repeat' first
    | with_reducible assumption
    | with_reducible apply State.journal_keeps

theorem State.runImage_keeps {q : List Instr} {u : Nat} {s : State} {h : List Byte} {source : Nat} (hs : Keeps q u s) :
    Keeps q u (State.runImage s h source) := by
  unfold State.runImage
  repeat' first
    | with_reducible assumption
    | (intro s; refine cut (p := Keeps q u (s : State)) ?_ ?_; (on_goal 2 => clear_value s; intro _); (on_goal 1 => try subst s))
    | (lift_lets -underBinder; (intro s; refine cut (p := Keeps q u (s : State)) ?_ ?_; (on_goal 2 => clear_value s; intro _); (on_goal 1 => try subst s)))
    | with_reducible apply State.set_keeps
    | with_reducible apply State.setB_keeps
    | with_reducible apply State.bootJournal_keeps
    | with_reducible apply State.emit_keeps

theorem State.rejectImage_keeps {q : List Instr} {u : Nat} {s : State} {cause : Nat} {cls : Nat} (hs : Keeps q u s) :
    Keeps q u (State.rejectImage s cause cls) := by
  unfold State.rejectImage
  repeat' first
    | with_reducible assumption
    | with_reducible apply State.set_keeps
    | with_reducible apply State.btHit_keeps

theorem State.loadBody_keeps {q : List Instr} {u : Nat} {s : State} {body : List Byte} (hs : Keeps q u s) :
    Keeps q u (State.loadBody s body) := by
  unfold State.loadBody
  repeat' first
    | with_reducible assumption
    | with_reducible apply State.mputs_keeps

theorem execBootSequence_keeps {q : List Instr} {u : Nat} {l : FuseReads} {silent : Bool} {t : Nat} {s : State} (hs : Keeps q u s) :
    KeptO q u (execBootSequence l silent t s) := by
  unfold execBootSequence
  repeat' first
    | with_reducible assumption
    | (intro s; refine cut (p := Keeps q u (s : State)) ?_ ?_; (on_goal 2 => clear_value s; intro _); (on_goal 1 => try subst s))
    | (intro x; clear_value x)
    | (lift_lets -underBinder; (intro s; refine cut (p := Keeps q u (s : State)) ?_ ?_; (on_goal 2 => clear_value s; intro _); (on_goal 1 => try subst s)))
    | with_reducible apply State.adv_keeps
    | with_reducible apply State.otpReads_keeps
    | with_reducible apply State.bootScan_keeps
    | with_reducible apply State.set_keeps
    | with_reducible apply State.bootJournal_keeps
    | with_reducible apply State.setB_keeps
    | with_reducible apply State.rejectImage_keeps
    | with_reducible apply State.btHit_keeps
    | with_reducible apply State.loadBody_keeps
    | with_reducible apply State.runImage_keeps
    | with_reducible apply keeps_ite
    | with_reducible apply keeps_ite_fst
    | with_reducible apply keeps_ite_snd
    | with_reducible apply keptW_ok
    | with_reducible apply keptW_no
    | with_reducible apply keptO_next
    | with_reducible apply keptW_ite
    | with_reducible apply keptO_ite
    | refine Keeps.of_ok (by with_reducible assumption) ?_
    | refine Keeps.of_no (by with_reducible assumption) ?_
    | refine Keeps.of_fst (by with_reducible assumption) ?_
    | refine Keeps.of_snd (by with_reducible assumption) ?_
    | split

theorem wrRecovery_keeps {q : List Instr} {u : Nat} {v : Nat} {s : State} (hs : Keeps q u s) :
    KeptW q u (wrRecovery v s) := by
  unfold wrRecovery
  repeat' first
    | with_reducible assumption
    | (intro s; refine cut (p := Keeps q u (s : State)) ?_ ?_; (on_goal 2 => clear_value s; intro _); (on_goal 1 => try subst s))
    | (intro x; clear_value x)
    | (lift_lets -underBinder; (intro x; clear_value x))
    | with_reducible apply need_keeps
    | with_reducible apply State.setB_keeps
    | with_reducible apply State.btHit_keeps
    | with_reducible apply State.runImage_keeps
    | with_reducible apply State.journal_keeps
    | with_reducible apply State.rejectImage_keeps
    | with_reducible apply keeps_ite
    | with_reducible apply keptW_ok
    | with_reducible apply keptW_no
    | with_reducible apply keptO_next
    | with_reducible apply keptW_ite

theorem execBtRecoveryCmd_keeps {q : List Instr} {u : Nat} {p : Path} {v : Nat} {s : State} (hs : Keeps q u s) :
    KeptO q u (execBtRecoveryCmd p v s) := by
  unfold execBtRecoveryCmd
  repeat' first
    | with_reducible assumption
    | refine fun (s : State) (h : Keeps q u s) => ?_
    | refine fun _ => ?_
    | with_reducible apply access_keeps
    | with_reducible apply wrRecovery_keeps

theorem wrBtControl_keeps {q : List Instr} {u : Nat} {v : Nat} {s : State} (hs : Keeps q u s) :
    KeptW q u (wrBtControl v s) := by
  unfold wrBtControl
  repeat' first
    | with_reducible assumption
    | with_reducible apply need_keeps
    | with_reducible apply State.resetEvent_keeps
    | with_reducible apply keeps_ite
    | with_reducible apply keptW_ok

theorem execSoftReset_keeps {q : List Instr} {u : Nat} {p : Path} {s : State} (hs : Keeps q u s) :
    KeptO q u (execSoftReset p s) := by
  unfold execSoftReset
  repeat' first
    | with_reducible assumption
    | refine fun (s : State) (h : Keeps q u s) => ?_
    | refine fun _ => ?_
    | with_reducible apply access_keeps
    | with_reducible apply wrBtControl_keeps

theorem wrWdtKick_keeps {q : List Instr} {u : Nat} {s : State} (hs : Keeps q u s) :
    KeptW q u (wrWdtKick s) := by
  unfold wrWdtKick
  repeat' first
    | with_reducible assumption
    | (lift_lets -underBinder; (intro x; clear_value x))
    | with_reducible apply State.setBoot_keeps
    | with_reducible apply keeps_ite
    | with_reducible apply keptW_ok

theorem execBtWdtKick_keeps {q : List Instr} {u : Nat} {p : Path} {s : State} (hs : Keeps q u s) :
    KeptO q u (execBtWdtKick p s) := by
  unfold execBtWdtKick
  repeat' first
    | with_reducible assumption
    | refine fun (s : State) (h : Keeps q u s) => ?_
    | refine fun _ => ?_
    | with_reducible apply access_keeps
    | with_reducible apply wrWdtKick_keeps

theorem execWatchdogExpiry_keeps {q : List Instr} {u : Nat} {t : Nat} {s : State} (hs : Keeps q u s) :
    KeptO q u (execWatchdogExpiry t s) := by
  unfold execWatchdogExpiry
  repeat' first
    | with_reducible assumption
    | (intro x; clear_value x)
    | (lift_lets -underBinder; (intro s; refine cut (p := Keeps q u (s : State)) ?_ ?_; (on_goal 2 => clear_value s; intro _); (on_goal 1 => try subst s)))
    | with_reducible apply State.adv_keeps
    | with_reducible apply State.resetEvent_keeps
    | with_reducible apply keeps_ite
    | with_reducible apply keptW_ok
    | with_reducible apply keptW_no
    | with_reducible apply keptO_next

end Sys2Proof.Machine
end

