-- ==== Sys2Proof/Laws/KeepsModes.lean ====
section
/-! SUPPORT. What each operation of Machine/Modes.lean keeps (Laws/Keeps.lean). -/
namespace Sys2Proof.Machine

theorem State.mdHit_keeps {q : List Instr} {u : Nat} {s : State} {bit : Nat} (hs : Keeps q u s) :
    Keeps q u (State.mdHit s bit) := by
  unfold State.mdHit
  repeat' first
    | with_reducible assumption
    | with_reducible apply State.hit_keeps

theorem State.disarmAll_keeps {q : List Instr} {u : Nat} {s : State} (hs : Keeps q u s) :
    Keeps q u (State.disarmAll s) := by
  unfold State.disarmAll
  repeat' first
    | with_reducible assumption
    | refine fun (s : State) (h : Keeps q u s) => ?_
    | refine fun _ => ?_
    | with_reducible apply State.forAll_keeps
    | with_reducible apply State.disarm_keeps
    | with_reducible apply keeps_ite

theorem State.bringUpOff_keeps {q : List Instr} {u : Nat} {s : State} (hs : Keeps q u s) :
    Keeps q u (State.bringUpOff s) := by
  unfold State.bringUpOff
  repeat' first
    | with_reducible assumption
    | refine fun (s : State) (h : Keeps q u s) => ?_
    | refine fun _ => ?_
    | with_reducible apply State.forAll_keeps
    | with_reducible apply State.bringUp_keeps
    | with_reducible apply keeps_ite

theorem State.train_keeps {q : List Instr} {u : Nat} {s : State} (hs : Keeps q u s) :
    Keeps q u (State.train s) := by
  unfold State.train
  repeat' first
    | with_reducible assumption
    | (lift_lets -underBinder; (intro x; clear_value x))
    | with_reducible apply State.setIntake_keeps

theorem State.leaveBoot_keeps {q : List Instr} {u : Nat} {s : State} (hs : Keeps q u s) :
    Keeps q u (State.leaveBoot s) := by
  unfold State.leaveBoot
  repeat' first
    | with_reducible assumption
    | (intro s; refine cut (p := Keeps q u (s : State)) ?_ ?_; (on_goal 2 => clear_value s; intro _); (on_goal 1 => try subst s))
    | (intro x; clear_value x)
    | (lift_lets -underBinder; (intro s; refine cut (p := Keeps q u (s : State)) ?_ ?_; (on_goal 2 => clear_value s; intro _); (on_goal 1 => try subst s)))
    | with_reducible apply keeps_foldl
    | refine fun (s : State) (h : Keeps q u s) => ?_
    | refine fun _ => ?_
    | with_reducible apply State.train_keeps
    | with_reducible apply State.storeLoad_keeps
    | with_reducible apply State.calStart_keeps
    | with_reducible apply State.bkLatched_keeps
    | with_reducible apply State.setBoot_keeps
    | with_reducible apply State.raise_keeps
    | with_reducible apply State.bringUpOff_keeps
    | with_reducible apply State.resetComm_keeps
    | with_reducible apply keeps_ite

theorem State.wakeStore_keeps {q : List Instr} {u : Nat} {s : State} (hs : Keeps q u s) :
    Keeps q u (State.wakeStore s) := by
  unfold State.wakeStore
  repeat' first
    | with_reducible assumption
    | with_reducible apply State.setB_keeps
    | with_reducible apply State.train_keeps
    | with_reducible apply keeps_ite

theorem State.dropStore_keeps {q : List Instr} {u : Nat} {s : State} (hs : Keeps q u s) :
    Keeps q u (State.dropStore s) := by
  unfold State.dropStore
  repeat' first
    | with_reducible assumption
    | refine fun (s : State) (h : Keeps q u s) => ?_
    | refine fun _ => ?_
    | (intro s; refine cut (p := Keeps q u (s : State)) ?_ ?_; (on_goal 2 => clear_value s; intro _); (on_goal 1 => try subst s))
    | (intro x; clear_value x)
    | (lift_lets -underBinder; (intro s; refine cut (p := Keeps q u (s : State)) ?_ ?_; (on_goal 2 => clear_value s; intro _); (on_goal 1 => try subst s)))
    | with_reducible apply State.refuse_keeps
    | with_reducible apply State.forAll_keeps
    | with_reducible apply State.jobFree_keeps
    | with_reducible apply State.setLane_keeps
    | with_reducible apply State.setB_keeps
    | with_reducible apply State.pagesSync_keeps
    | with_reducible apply keeps_ite
    | with_reducible apply keeps_ite_fst
    | with_reducible apply keptW_ok
    | with_reducible apply keptW_no
    | with_reducible apply keptO_next
    | with_reducible apply keptW_ite
    | with_reducible apply keptO_ite
    | split
    | with_reducible apply keeps_memFilter

theorem State.toStandby_keeps {q : List Instr} {u : Nat} {s : State} (hs : Keeps q u s) :
    Keeps q u (State.toStandby s) := by
  unfold State.toStandby
  repeat' first
    | with_reducible assumption
    | refine fun (s : State) (h : Keeps q u s) => ?_
    | refine fun _ => ?_
    | (lift_lets -underBinder; (intro s; refine cut (p := Keeps q u (s : State)) ?_ ?_; (on_goal 2 => clear_value s; intro _); (on_goal 1 => try subst s)))
    | with_reducible apply State.forAll_keeps
    | with_reducible apply State.ckStop_keeps
    | with_reducible apply State.linkOff_keeps
    | with_reducible apply State.dropStore_keeps
    | with_reducible apply State.setB_keeps
    | with_reducible apply keeps_ite

theorem State.toConfigure_keeps {q : List Instr} {u : Nat} {s : State} (hs : Keeps q u s) :
    Keeps q u (State.toConfigure s) := by
  unfold State.toConfigure
  repeat' first
    | with_reducible assumption
    | with_reducible apply State.disarmAll_keeps
    | with_reducible apply State.mtSync_keeps
    | with_reducible apply WRes.mtSync_keeps
    | with_reducible apply State.pgSyncAll_keeps
    | with_reducible apply State.stopAll_keeps

theorem State.toSafe_keeps {q : List Instr} {u : Nat} {s : State} (hs : Keeps q u s) :
    Keeps q u (State.toSafe s) := by
  unfold State.toSafe
  repeat' first
    | with_reducible assumption
    | with_reducible apply State.fiOff_keeps
    | with_reducible apply State.pgSyncAll_keeps
    | with_reducible apply State.mtSync_keeps
    | with_reducible apply WRes.mtSync_keeps
    | with_reducible apply State.haltAll_keeps
    | with_reducible apply State.disarmAll_keeps

theorem State.changeActions_keeps {q : List Instr} {u : Nat} {s : State} {old : Nat} {new : Nat} (hs : Keeps q u s) :
    Keeps q u (State.changeActions s old new) := by
  unfold State.changeActions
  repeat' first
    | with_reducible assumption
    | refine fun (s : State) (h : Keeps q u s) => ?_
    | refine fun _ => ?_
    | (lift_lets -underBinder; (intro s; refine cut (p := Keeps q u (s : State)) ?_ ?_; (on_goal 2 => clear_value s; intro _); (on_goal 1 => try subst s)))
    | with_reducible apply State.leaveBoot_keeps
    | with_reducible apply State.wakeStore_keeps
    | with_reducible apply State.bringUpOff_keeps
    | with_reducible apply State.emit_keeps
    | with_reducible apply State.toConfigure_keeps
    | with_reducible apply State.toStandby_keeps
    | with_reducible apply State.disarmAll_keeps
    | with_reducible apply State.mtSync_keeps
    | with_reducible apply WRes.mtSync_keeps
    | with_reducible apply State.pgSyncAll_keeps
    | with_reducible apply State.fiPrint_keeps
    | with_reducible apply State.forAll_keeps
    | with_reducible apply State.lgSync_keeps
    | with_reducible apply State.ttSync_keeps
    | with_reducible apply State.toSafe_keeps
    | with_reducible apply State.fiCancel_keeps
    | with_reducible apply State.dlSettleAll_keeps
    | with_reducible apply keeps_ite
    | with_reducible apply keptW_ok
    | with_reducible apply keptW_no
    | with_reducible apply keptO_next
    | with_reducible apply keptW_ite
    | with_reducible apply keptO_ite
    | refine Keeps.of_ok (by with_reducible assumption) ?_
    | refine Keeps.of_no (by with_reducible assumption) ?_
    | refine Keeps.of_fst (by with_reducible assumption) ?_
    | refine Keeps.of_snd (by with_reducible assumption) ?_
    | split

theorem wrModeCmd_keeps {q : List Instr} {u : Nat} {v : Nat} {s : State} (hs : Keeps q u s) :
    KeptW q u (wrModeCmd v s) := by
  unfold wrModeCmd
  repeat' first
    | with_reducible assumption
    | (intro s; refine cut (p := Keeps q u (s : State)) ?_ ?_; (on_goal 2 => clear_value s; intro _); (on_goal 1 => try subst s))
    | (lift_lets -underBinder; (intro x; clear_value x))
    | with_reducible apply State.set_keeps
    | with_reducible apply State.mdHit_keeps
    | with_reducible apply State.resetEvent_keeps
    | with_reducible apply State.changeActions_keeps
    | with_reducible apply keeps_ite
    | with_reducible apply keptW_ok
    | with_reducible apply keptW_no
    | with_reducible apply keptO_next
    | with_reducible apply keptW_ite
    | with_reducible apply keptO_ite
    | refine Keeps.of_ok (by with_reducible assumption) ?_
    | refine Keeps.of_no (by with_reducible assumption) ?_
    | refine Keeps.of_fst (by with_reducible assumption) ?_
    | refine Keeps.of_snd (by with_reducible assumption) ?_
    | split

theorem modeCmd_keeps {q : List Instr} {u : Nat} {p : Path} {v : Nat} {s : State} (hs : Keeps q u s) :
    KeptO q u (modeCmd p v s) := by
  unfold modeCmd
  repeat' first
    | with_reducible assumption
    | refine fun (s : State) (h : Keeps q u s) => ?_
    | refine fun _ => ?_
    | with_reducible apply access_keeps
    | with_reducible apply wrModeCmd_keeps

theorem execModeCmdBoot_keeps {q : List Instr} {u : Nat} {p : Path} {s : State} (hs : Keeps q u s) :
    KeptO q u (execModeCmdBoot p s) := by
  unfold execModeCmdBoot
  repeat' first
    | with_reducible assumption
    | with_reducible apply modeCmd_keeps

theorem execModeCmdConfigure_keeps {q : List Instr} {u : Nat} {p : Path} {s : State} (hs : Keeps q u s) :
    KeptO q u (execModeCmdConfigure p s) := by
  unfold execModeCmdConfigure
  repeat' first
    | with_reducible assumption
    | with_reducible apply modeCmd_keeps

theorem execModeCmdStandby_keeps {q : List Instr} {u : Nat} {p : Path} {s : State} (hs : Keeps q u s) :
    KeptO q u (execModeCmdStandby p s) := by
  unfold execModeCmdStandby
  repeat' first
    | with_reducible assumption
    | with_reducible apply modeCmd_keeps

theorem execModeCmdReady_keeps {q : List Instr} {u : Nat} {p : Path} {s : State} (hs : Keeps q u s) :
    KeptO q u (execModeCmdReady p s) := by
  unfold execModeCmdReady
  repeat' first
    | with_reducible assumption
    | with_reducible apply modeCmd_keeps

theorem execModeCmdPrint_keeps {q : List Instr} {u : Nat} {p : Path} {s : State} (hs : Keeps q u s) :
    KeptO q u (execModeCmdPrint p s) := by
  unfold execModeCmdPrint
  repeat' first
    | with_reducible assumption
    | with_reducible apply modeCmd_keeps

theorem execModeCmdService_keeps {q : List Instr} {u : Nat} {p : Path} {s : State} (hs : Keeps q u s) :
    KeptO q u (execModeCmdService p s) := by
  unfold execModeCmdService
  repeat' first
    | with_reducible assumption
    | with_reducible apply modeCmd_keeps

theorem execModeCmdSafe_keeps {q : List Instr} {u : Nat} {p : Path} {s : State} (hs : Keeps q u s) :
    KeptO q u (execModeCmdSafe p s) := by
  unfold execModeCmdSafe
  repeat' first
    | with_reducible assumption
    | with_reducible apply modeCmd_keeps

theorem execModeCmdReset_keeps {q : List Instr} {u : Nat} {p : Path} {s : State} (hs : Keeps q u s) :
    KeptO q u (execModeCmdReset p s) := by
  unfold execModeCmdReset
  repeat' first
    | with_reducible assumption
    | with_reducible apply modeCmd_keeps

theorem execModeChangeDone_keeps {q : List Instr} {u : Nat} {t : Nat} {s : State} (hs : Keeps q u s) :
    KeptO q u (execModeChangeDone t s) := by
  unfold execModeChangeDone
  repeat' first
    | with_reducible assumption
    | (lift_lets -underBinder; (intro s; refine cut (p := Keeps q u (s : State)) ?_ ?_; (on_goal 2 => clear_value s; intro _); (on_goal 1 => try subst s)))
    | with_reducible apply State.adv_keeps
    | with_reducible apply State.setB_keeps
    | with_reducible apply State.set_keeps
    | with_reducible apply State.inc_keeps
    | with_reducible apply State.mdHit_keeps
    | with_reducible apply keeps_ite
    | with_reducible apply keptW_ok
    | with_reducible apply keptW_no
    | with_reducible apply keptO_next
    | with_reducible apply keptW_ite
    | with_reducible apply keptO_ite

theorem State.causeEnds_keeps {q : List Instr} {u : Nat} {s : State} {cause : Nat} (hs : Keeps q u s) :
    Keeps q u (State.causeEnds s cause) := by
  unfold State.causeEnds
  repeat' first
    | with_reducible assumption
    | (intro x; clear_value x)
    | (lift_lets -underBinder; (intro x; clear_value x))
    | with_reducible apply State.setModes_keeps

theorem execPowerOn_keeps {q : List Instr} {u : Nat} {up : Bool} {t : Nat} {s : State} (hs : Keeps q u s) :
    KeptO q u (execPowerOn up t s) := by
  unfold execPowerOn
  repeat' first
    | with_reducible assumption
    | (lift_lets -underBinder; (intro s; refine cut (p := Keeps q u (s : State)) ?_ ?_; (on_goal 2 => clear_value s; intro _); (on_goal 1 => try subst s)))
    | with_reducible apply State.adv_keeps
    | with_reducible apply State.railFall_keeps
    | with_reducible apply State.causeEnds_keeps
    | with_reducible apply keeps_ite
    | with_reducible apply keptW_ok
    | with_reducible apply keptW_no
    | with_reducible apply keptO_next
    | with_reducible apply keptW_ite
    | with_reducible apply keptO_ite

theorem execResetPin_keeps {q : List Instr} {u : Nat} {t : Nat} {s : State} (hs : Keeps q u s) :
    KeptO q u (execResetPin t s) := by
  unfold execResetPin
  repeat' first
    | with_reducible assumption
    | with_reducible apply State.adv_keeps
    | with_reducible apply State.resetEvent_keeps
    | with_reducible apply keeps_ite
    | with_reducible apply keptW_ok
    | with_reducible apply keptW_no
    | with_reducible apply keptO_next

theorem execResetRelease_keeps {q : List Instr} {u : Nat} {cause : Nat} {t : Nat} {s : State} (hs : Keeps q u s) :
    KeptO q u (execResetRelease cause t s) := by
  unfold execResetRelease
  repeat' first
    | with_reducible assumption
    | (intro x; clear_value x)
    | (lift_lets -underBinder; (intro s; refine cut (p := Keeps q u (s : State)) ?_ ?_; (on_goal 2 => clear_value s; intro _); (on_goal 1 => try subst s)))
    | with_reducible apply State.adv_keeps
    | with_reducible apply State.causeEnds_keeps
    | with_reducible apply keeps_ite
    | with_reducible apply keptW_ok
    | with_reducible apply keptW_no
    | with_reducible apply keptO_next
    | with_reducible apply keptW_ite
    | with_reducible apply keptO_ite

theorem wrInhibitSet_keeps {q : List Instr} {u : Nat} {v : Nat} {s : State} (hs : Keeps q u s) :
    KeptW q u (wrInhibitSet v s) := by
  unfold wrInhibitSet
  repeat' first
    | with_reducible assumption
    | (intro s; refine cut (p := Keeps q u (s : State)) ?_ ?_; (on_goal 2 => clear_value s; intro _); (on_goal 1 => try subst s))
    | (lift_lets -underBinder; (intro x; clear_value x))
    | with_reducible apply need_keeps
    | with_reducible apply State.setModes_keeps
    | with_reducible apply State.inhibitSrc_keeps
    | with_reducible apply State.inhibitSync_keeps
    | with_reducible apply keeps_ite
    | with_reducible apply keptW_ok

theorem execInhibitSetFire_keeps {q : List Instr} {u : Nat} {p : Path} {s : State} (hs : Keeps q u s) :
    KeptO q u (execInhibitSetFire p s) := by
  unfold execInhibitSetFire
  repeat' first
    | with_reducible assumption
    | refine fun (s : State) (h : Keeps q u s) => ?_
    | refine fun _ => ?_
    | with_reducible apply access_keeps
    | with_reducible apply wrInhibitSet_keeps

theorem execInhibitSetMotionStop_keeps {q : List Instr} {u : Nat} {p : Path} {s : State} (hs : Keeps q u s) :
    KeptO q u (execInhibitSetMotionStop p s) := by
  unfold execInhibitSetMotionStop
  repeat' first
    | with_reducible assumption
    | refine fun (s : State) (h : Keeps q u s) => ?_
    | refine fun _ => ?_
    | with_reducible apply access_keeps
    | with_reducible apply wrInhibitSet_keeps

theorem execInhibitSetMotionOff_keeps {q : List Instr} {u : Nat} {p : Path} {s : State} (hs : Keeps q u s) :
    KeptO q u (execInhibitSetMotionOff p s) := by
  unfold execInhibitSetMotionOff
  repeat' first
    | with_reducible assumption
    | refine fun (s : State) (h : Keeps q u s) => ?_
    | refine fun _ => ?_
    | with_reducible apply access_keeps
    | with_reducible apply wrInhibitSet_keeps

theorem State.pinLift_keeps {q : List Instr} {u : Nat} {s : State} (hs : Keeps q u s) :
    Keeps q u (State.pinLift s) := by
  unfold State.pinLift
  repeat' first
    | with_reducible assumption
    | (intro s; refine cut (p := Keeps q u (s : State)) ?_ ?_; (on_goal 2 => clear_value s; intro _); (on_goal 1 => try subst s))
    | (lift_lets -underBinder; (intro x; clear_value x))
    | with_reducible apply State.setModes_keeps
    | with_reducible apply State.journal_keeps
    | with_reducible apply State.inhibitSrc_keeps

theorem wrInhibitClr_keeps {q : List Instr} {u : Nat} {v : Nat} {s : State} (hs : Keeps q u s) :
    KeptW q u (wrInhibitClr v s) := by
  unfold wrInhibitClr
  repeat' first
    | with_reducible assumption
    | (intro s; refine cut (p := Keeps q u (s : State)) ?_ ?_; (on_goal 2 => clear_value s; intro _); (on_goal 1 => try subst s))
    | (lift_lets -underBinder; (intro x; clear_value x))
    | with_reducible apply need_keeps
    | with_reducible apply State.setModes_keeps
    | with_reducible apply State.inhibitSrc_keeps
    | with_reducible apply State.pinLift_keeps
    | with_reducible apply State.inhibitWith_keeps
    | with_reducible apply keeps_ite
    | with_reducible apply keptW_ok

theorem execInhibitClrHost_keeps {q : List Instr} {u : Nat} {p : Path} {s : State} (hs : Keeps q u s) :
    KeptO q u (execInhibitClrHost p s) := by
  unfold execInhibitClrHost
  repeat' first
    | with_reducible assumption
    | refine fun (s : State) (h : Keeps q u s) => ?_
    | refine fun _ => ?_
    | with_reducible apply access_keeps
    | with_reducible apply wrInhibitClr_keeps

theorem execInhibitClrPin_keeps {q : List Instr} {u : Nat} {p : Path} {s : State} (hs : Keeps q u s) :
    KeptO q u (execInhibitClrPin p s) := by
  unfold execInhibitClrPin
  repeat' first
    | with_reducible assumption
    | refine fun (s : State) (h : Keeps q u s) => ?_
    | refine fun _ => ?_
    | with_reducible apply access_keeps
    | with_reducible apply wrInhibitClr_keeps

theorem execInhibitClrRing_keeps {q : List Instr} {u : Nat} {p : Path} {s : State} (hs : Keeps q u s) :
    KeptO q u (execInhibitClrRing p s) := by
  unfold execInhibitClrRing
  repeat' first
    | with_reducible assumption
    | refine fun (s : State) (h : Keeps q u s) => ?_
    | refine fun _ => ?_
    | with_reducible apply access_keeps
    | with_reducible apply wrInhibitClr_keeps

theorem execFireInhibitAssert_keeps {q : List Instr} {u : Nat} {t : Nat} {s : State} (hs : Keeps q u s) :
    KeptO q u (execFireInhibitAssert t s) := by
  unfold execFireInhibitAssert
  repeat' first
    | with_reducible assumption
    | (intro s; refine cut (p := Keeps q u (s : State)) ?_ ?_; (on_goal 2 => clear_value s; intro _); (on_goal 1 => try subst s))
    | (intro x; clear_value x)
    | (lift_lets -underBinder; (intro s; refine cut (p := Keeps q u (s : State)) ?_ ?_; (on_goal 2 => clear_value s; intro _); (on_goal 1 => try subst s)))
    | with_reducible apply State.adv_keeps
    | with_reducible apply State.fiOff_keeps
    | with_reducible apply State.journal_keeps
    | with_reducible apply State.setModes_keeps
    | with_reducible apply State.inhibitSrc_keeps
    | with_reducible apply keeps_ite
    | with_reducible apply keptW_ok
    | with_reducible apply keptW_no
    | with_reducible apply keptO_next
    | with_reducible apply keptW_ite
    | with_reducible apply keptO_ite

theorem execPinReleaseExpiry_keeps {q : List Instr} {u : Nat} {x : Since} {s : State} (hs : Keeps q u s) :
    KeptO q u (execPinReleaseExpiry x s) := by
  unfold execPinReleaseExpiry
  repeat' first
    | with_reducible assumption
    | (intro x; clear_value x)
    | (lift_lets -underBinder; (intro s; refine cut (p := Keeps q u (s : State)) ?_ ?_; (on_goal 2 => clear_value s; intro _); (on_goal 1 => try subst s)))
    | with_reducible apply State.adv_keeps
    | with_reducible apply State.setModes_keeps
    | with_reducible apply State.pinLift_keeps
    | with_reducible apply keeps_ite
    | with_reducible apply keptW_ok
    | with_reducible apply keptW_no
    | with_reducible apply keptO_next
    | with_reducible apply keptW_ite
    | with_reducible apply keptO_ite

end Sys2Proof.Machine
end

