-- ==== Sys2Proof/Laws/KeepsDict.lean ====
section
/-! SUPPORT. What each operation of Machine/Dict.lean keeps (Laws/Keeps.lean). -/
namespace Sys2Proof.Machine

theorem State.domFlag_keeps {q : List Instr} {u : Nat} {s : State} {i : Nat} (hs : Keeps q u s) :
    Keeps q u (State.domFlag s i) := by
  unfold State.domFlag
  repeat' first
    | with_reducible assumption
    | refine fun (s : State) (h : Keeps q u s) => ?_
    | refine fun _ => ?_
    | refine fun (s : State) (h : Keeps q u s) => ?_
    | refine fun _ => ?_
    | (lift_lets -underBinder; (intro f; refine cut (p := ∀ s : State, Keeps q u s → ∀ k, Keeps q u (f s k : State)) ?_ ?_; (on_goal 2 => clear_value f; intro hf); (on_goal 1 => subst f)))
    | exact (‹KeptW q u (WRes.ok _)›).state
    | exact (‹KeptW q u (WRes.no _ _)›).state
    | with_reducible apply State.setB_keeps
    | with_reducible apply State.forAll_keeps
    | with_reducible apply State.hit_keeps
    | with_reducible apply hf
    | with_reducible apply keeps_ite

theorem State.domPut_keeps {q : List Instr} {u : Nat} {s : State} {i : Nat} {off : Nat} {bs : List Byte} (hs : Keeps q u s) :
    Keeps q u (State.domPut s i off bs) := by
  unfold State.domPut
  repeat' first
    | with_reducible assumption
    | (intro s; refine cut (p := Keeps q u (s : State)) ?_ ?_; (on_goal 2 => clear_value s; intro _); (on_goal 1 => try subst s))
    | (intro x; clear_value x)
    | (lift_lets -underBinder; (intro x; clear_value x))
    | exact (‹KeptW q u (WRes.ok _)›).state
    | exact (‹KeptW q u (WRes.no _ _)›).state
    | with_reducible apply State.mputs_keeps
    | with_reducible apply keeps_ite

theorem wrDomain_keeps {q : List Instr} {u : Nat} {i : Nat} {off : Nat} {bs : List Byte} {s : State} (hs : Keeps q u s) :
    KeptW q u (wrDomain i off bs s) := by
  unfold wrDomain
  repeat' first
    | with_reducible assumption
    | exact (‹KeptW q u (WRes.ok _)›).state
    | exact (‹KeptW q u (WRes.no _ _)›).state
    | with_reducible apply need_keeps
    | with_reducible apply State.domPut_keeps
    | with_reducible apply keeps_ite
    | with_reducible apply keeps_ite_fst
    | with_reducible apply keeps_ite_snd
    | with_reducible apply keptW_ok

theorem State.clearOnes_keeps {q : List Instr} {u : Nat} {s : State} {o : Obj} {mask : Nat} (hs : Keeps q u s) :
    Keeps q u (State.clearOnes s o mask) := by
  unfold State.clearOnes
  repeat' first
    | with_reducible assumption
    | exact (‹KeptW q u (WRes.ok _)›).state
    | exact (‹KeptW q u (WRes.no _ _)›).state
    | with_reducible apply State.set_keeps

theorem State.readEffect_keeps {q : List Instr} {u : Nat} {s : State} {p : Path} {o : Obj} {r : Row} (hs : Keeps q u s) :
    Keeps q u (State.readEffect s p o r) := by
  unfold State.readEffect
  repeat' first
    | with_reducible assumption
    | (lift_lets -underBinder; (intro x; clear_value x))
    | exact (‹KeptW q u (WRes.ok _)›).state
    | exact (‹KeptW q u (WRes.no _ _)›).state
    | with_reducible apply State.clearOnes_keeps
    | with_reducible apply State.set_keeps
    | with_reducible apply keeps_ite

theorem dictRead_keeps {q : List Instr} {u : Nat} {p : Path} {view : View} {full : Bool} {index : Nat} {sub : Nat} {s : State} (hs : Keeps q u s) :
    KeptW q u (dictRead p view full index sub s).2 := by
  unfold dictRead
  repeat' first
    | with_reducible assumption
    | (lift_lets -underBinder; (intro x; clear_value x))
    | exact (‹KeptW q u (WRes.ok _)›).state
    | exact (‹KeptW q u (WRes.no _ _)›).state
    | with_reducible apply State.readEffect_keeps
    | with_reducible apply keeps_ite
    | with_reducible apply keptW_ok
    | with_reducible apply keptW_no
    | with_reducible apply keptO_next
    | with_reducible apply keptW_ite
    | with_reducible apply keptO_ite
    | refine Keeps.of_ok (by with_reducible assumption) ?_
    | refine Keeps.of_no (by with_reducible assumption) ?_
    | refine Keeps.of_fst (by with_reducible assumption) ?_
    | refine Keeps.of_snd (by with_reducible assumption) ?_
    | split

theorem cmdRead_keeps {q : List Instr} {u : Nat} {p : Path} {view : View} {full : Bool} {index : Nat} {sub : Nat} {s : State} (hs : Keeps q u s) :
    KeptO q u (cmdRead p view full index sub s) := by
  unfold cmdRead
  repeat' first
    | with_reducible assumption
    | (lift_lets -underBinder; (intro s; refine cut (p := KeptW q u (s.2 : WRes)) ?_ ?_; (on_goal 2 => clear_value s; intro _); (on_goal 1 => try subst s)))
    | exact (‹KeptW q u (WRes.ok _)›).state
    | exact (‹KeptW q u (WRes.no _ _)›).state
    | with_reducible apply State.set_keeps
    | with_reducible apply State.emit_keeps
    | with_reducible apply State.abort_keeps
    | with_reducible apply dictRead_keeps
    | with_reducible apply keeps_ite
    | with_reducible apply keeps_ite_fst
    | with_reducible apply keeps_ite_snd
    | with_reducible apply keptW_ok
    | with_reducible apply keptW_no
    | with_reducible apply keptO_next
    | with_reducible apply keptW_ite
    | with_reducible apply keptO_ite
    | refine Keeps.of_ok (by with_reducible assumption) ?_
    | refine Keeps.of_no (by with_reducible assumption) ?_
    | refine Keeps.of_fst (by with_reducible assumption) ?_
    | refine Keeps.of_snd (by with_reducible assumption) ?_
    | split

theorem execRcReadClear_keeps {q : List Instr} {u : Nat} {p : Path} {form : ReadForm} {index : Nat} {sub : Nat} {s : State} (hs : Keeps q u s) :
    KeptO q u (execRcReadClear p form index sub s) := by
  unfold execRcReadClear
  repeat' first
    | with_reducible assumption
    | exact (‹KeptW q u (WRes.ok _)›).state
    | exact (‹KeptW q u (WRes.no _ _)›).state
    | with_reducible apply cmdRead_keeps

theorem execDictRead64_keeps {q : List Instr} {u : Nat} {p : Path} {full : Bool} {index : Nat} {sub : Nat} {s : State} (hs : Keeps q u s) :
    KeptO q u (execDictRead64 p full index sub s) := by
  unfold execDictRead64
  repeat' first
    | with_reducible assumption
    | exact (‹KeptW q u (WRes.ok _)›).state
    | exact (‹KeptW q u (WRes.no _ _)›).state
    | with_reducible apply cmdRead_keeps

theorem State.windowFault_keeps {q : List Instr} {u : Nat} {s : State} (hs : Keeps q u s) :
    Keeps q u (State.windowFault s) := by
  unfold State.windowFault
  repeat' first
    | with_reducible assumption
    | exact (‹KeptW q u (WRes.ok _)›).state
    | exact (‹KeptW q u (WRes.no _ _)›).state
    | with_reducible apply State.hit_keeps

theorem State.bandPut_keeps {q : List Instr} {u : Nat} {s : State} {a : Nat} {bs : List Byte} (hs : Keeps q u s) :
    Keeps q u (State.bandPut s a bs) := by
  unfold State.bandPut
  repeat' first
    | with_reducible assumption
    | exact (‹KeptW q u (WRes.ok _)›).state
    | exact (‹KeptW q u (WRes.no _ _)›).state
    | with_reducible apply State.mputs_keeps

theorem State.domWindow_keeps {q : List Instr} {u : Nat} {s : State} {i : Nat} {off : Nat} {bs : List Byte} (hs : Keeps q u s) :
    Keeps q u (State.domWindow s i off bs) := by
  unfold State.domWindow
  repeat' first
    | with_reducible assumption
    | (lift_lets -underBinder; (intro s; refine cut (p := Keeps q u (s : State)) ?_ ?_; (on_goal 2 => clear_value s; intro _); (on_goal 1 => try subst s)))
    | exact (‹KeptW q u (WRes.ok _)›).state
    | exact (‹KeptW q u (WRes.no _ _)›).state
    | with_reducible apply State.windowFault_keeps
    | with_reducible apply State.domFlag_keeps
    | with_reducible apply State.domPut_keeps
    | with_reducible apply keeps_ite

theorem bootWindow_keeps {q : List Instr} {u : Nat} {write : Bool} {x : Nat} {bytes : List Byte} {n : Nat} {s : State} (hs : Keeps q u s) :
    Keeps q u (bootWindow write x bytes n s) := by
  unfold bootWindow
  repeat' first
    | with_reducible assumption
    | (intro x; clear_value x)
    | (lift_lets -underBinder; (intro x; clear_value x))
    | exact (‹KeptW q u (WRes.ok _)›).state
    | exact (‹KeptW q u (WRes.no _ _)›).state
    | with_reducible apply State.mputs_keeps
    | with_reducible apply State.emit_keeps
    | with_reducible apply keeps_ite

theorem execBar2Access_keeps {q : List Instr} {u : Nat} {write : Bool} {x : Nat} {bytes : List Byte} {n : Nat} {ecc : Nat} {s : State} (hs : Keeps q u s) :
    KeptO q u (execBar2Access write x bytes n ecc s) := by
  unfold execBar2Access
  repeat' first
    | with_reducible assumption
    | (intro s; refine cut (p := Keeps q u (s : State)) ?_ ?_; (on_goal 2 => clear_value s; intro _); (on_goal 1 => try subst s))
    | (intro s; refine cut (p := Keeps q u (s.2 : State)) ?_ ?_; (on_goal 2 => clear_value s; intro _); (on_goal 1 => try subst s))
    | (intro x; clear_value x)
    | (lift_lets -underBinder; (intro x; clear_value x))
    | exact (‹KeptW q u (WRes.ok _)›).state
    | exact (‹KeptW q u (WRes.no _ _)›).state
    | with_reducible apply bootWindow_keeps
    | with_reducible apply State.windowFault_keeps
    | with_reducible apply State.bandPut_keeps
    | with_reducible apply State.bsEcc_keeps
    | with_reducible apply State.openBytes_keeps
    | with_reducible apply State.emit_keeps
    | with_reducible apply State.domWindow_keeps
    | with_reducible apply keeps_ite
    | with_reducible apply keeps_ite_fst
    | with_reducible apply keeps_ite_snd
    | with_reducible apply keptW_ok
    | with_reducible apply keptW_no
    | with_reducible apply keptO_next
    | with_reducible apply keptW_ite
    | with_reducible apply keptO_ite

end Sys2Proof.Machine
end

