-- ==== Sys2Proof/Laws/KeepsWrite.lean ====
section
/-! SUPPORT. What each operation of Machine/Write.lean keeps (Laws/Keeps.lean). -/
namespace Sys2Proof.Machine

theorem plain_keeps {q : List Instr} {u : Nat} {o : Obj} {v : Nat} {f : State → State} {s0 : State} (h0 : Keeps q u s0) (hf : ∀ s, Keeps q u s → Keeps q u (f s)) :
    KeptW q u (plain o v f s0) := by
  unfold plain
  repeat' first
    | with_reducible assumption
    | refine fun (s : State) (h : Keeps q u s) => ?_
    | refine fun _ => ?_
    | exact (‹KeptW q u (WRes.ok _)›).state
    | exact (‹KeptW q u (WRes.no _ _)›).state
    | with_reducible apply keeps_id
    | with_reducible apply hf
    | with_reducible apply checked_keeps
    | with_reducible apply State.set_keeps
    | with_reducible apply keeps_ite
    | with_reducible apply keptW_ok

theorem plainIf_keeps {q : List Instr} {u : Nat} {c : Bool} {code : Nat} {o : Obj} {v : Nat} {s : State} {f : State → State} (hs : Keeps q u s) (hf : ∀ s, Keeps q u s → Keeps q u (f s)) :
    KeptW q u (plainIf c code o v s f) := by
  unfold plainIf
  repeat' first
    | with_reducible assumption
    | refine fun (s : State) (h : Keeps q u s) => ?_
    | refine fun _ => ?_
    | exact (‹KeptW q u (WRes.ok _)›).state
    | exact (‹KeptW q u (WRes.no _ _)›).state
    | with_reducible apply keeps_id
    | with_reducible apply hf
    | with_reducible apply need_keeps
    | with_reducible apply plain_keeps

theorem plainKeep_keeps {q : List Instr} {u : Nat} {c : State → Bool} {o : Obj} {v : Nat} {s : State} {f : State → State} (hs : Keeps q u s) (hf : ∀ s, Keeps q u s → Keeps q u (f s)) :
    KeptW q u (plainKeep c o v s f) := by
  unfold plainKeep
  repeat' first
    | with_reducible assumption
    | refine fun (s : State) (h : Keeps q u s) => ?_
    | refine fun _ => ?_
    | exact (‹KeptW q u (WRes.ok _)›).state
    | exact (‹KeptW q u (WRes.no _ _)›).state
    | with_reducible apply keeps_id
    | with_reducible apply hf
    | with_reducible apply checked_keeps
    | with_reducible apply need_keeps
    | with_reducible apply State.set_keeps
    | with_reducible apply keeps_ite
    | with_reducible apply keptW_ok

theorem State.pdoChanged_keeps {q : List Instr} {u : Nat} {s : State} {tx : Bool} {p : Nat} (hs : Keeps q u s) :
    Keeps q u (State.pdoChanged s tx p) := by
  unfold State.pdoChanged
  repeat' first
    | with_reducible assumption
    | (intro s; refine cut (p := Keeps q u (s : State)) ?_ ?_; (on_goal 2 => clear_value s; intro _); (on_goal 1 => try subst s))
    | (intro x; clear_value x)
    | (lift_lets -underBinder; (intro x; clear_value x))
    | exact (‹KeptW q u (WRes.ok _)›).state
    | exact (‹KeptW q u (WRes.no _ _)›).state
    | with_reducible apply keeps_id
    | with_reducible apply State.tpdoRemap_keeps
    | with_reducible apply State.setNet_keeps
    | with_reducible apply keeps_ite
    | with_reducible apply keptW_ok
    | with_reducible apply keptW_no
    | with_reducible apply keptO_next
    | with_reducible apply keptW_ite
    | with_reducible apply keptO_ite
    | split
    | (with_reducible apply keeps_with; with_reducible assumption)

theorem wrPdoComm_keeps {q : List Instr} {u : Nat} {tx : Bool} {p : Nat} {sub : Nat} {v : Nat} {s : State} (hs : Keeps q u s) :
    KeptW q u (wrPdoComm tx p sub v s) := by
  unfold wrPdoComm
  repeat' first
    | with_reducible assumption
    | refine fun (s : State) (h : Keeps q u s) => ?_
    | refine fun _ => ?_
    | (intro x; clear_value x)
    | (lift_lets -underBinder; (intro x; clear_value x))
    | exact (‹KeptW q u (WRes.ok _)›).state
    | exact (‹KeptW q u (WRes.no _ _)›).state
    | with_reducible apply keeps_id
    | with_reducible apply need_keeps
    | with_reducible apply plain_keeps
    | with_reducible apply State.pdoChanged_keeps
    | with_reducible apply plainIf_keeps
    | with_reducible apply keeps_ite
    | with_reducible apply keptW_ok
    | with_reducible apply keptW_no
    | with_reducible apply keptO_next
    | with_reducible apply keptW_ite

theorem wrPdoMap_keeps {q : List Instr} {u : Nat} {tx : Bool} {p : Nat} {sub : Nat} {v : Nat} {s : State} (hs : Keeps q u s) :
    KeptW q u (wrPdoMap tx p sub v s) := by
  unfold wrPdoMap
  repeat' first
    | with_reducible assumption
    | refine fun (s : State) (h : Keeps q u s) => ?_
    | refine fun _ => ?_
    | (intro x; clear_value x)
    | (lift_lets -underBinder; (intro x; clear_value x))
    | exact (‹KeptW q u (WRes.ok _)›).state
    | exact (‹KeptW q u (WRes.no _ _)›).state
    | with_reducible apply keeps_id
    | with_reducible apply need_keeps
    | with_reducible apply plain_keeps
    | with_reducible apply keeps_ite
    | with_reducible apply keptW_ok
    | with_reducible apply keptW_no
    | with_reducible apply keptO_next
    | with_reducible apply keptW_ite

theorem wrCom_keeps {q : List Instr} {u : Nat} {i : Nat} {sub : Nat} {v : Nat} {s : State} (hs : Keeps q u s) :
    KeptW q u (wrCom i sub v s) := by
  unfold wrCom
  repeat' first
    | with_reducible assumption
    | refine fun (s : State) (h : Keeps q u s) => ?_
    | refine fun _ => ?_
    | (lift_lets -underBinder; (intro x; clear_value x))
    | exact (‹KeptW q u (WRes.ok _)›).state
    | exact (‹KeptW q u (WRes.no _ _)›).state
    | with_reducible apply keeps_id
    | with_reducible apply wrErrHistory_keeps
    | with_reducible apply plain_keeps
    | with_reducible apply State.setNet_keeps
    | with_reducible apply wrPdoComm_keeps
    | with_reducible apply wrPdoMap_keeps
    | with_reducible apply keeps_ite
    | with_reducible apply keptW_ok
    | with_reducible apply keptW_no
    | with_reducible apply keptO_next
    | with_reducible apply keptW_ite

theorem wrMd_keeps {q : List Instr} {u : Nat} {o : Obj} {v : Nat} {s : State} (hs : Keeps q u s) :
    KeptW q u (wrMd o v s) := by
  unfold wrMd
  repeat' first
    | with_reducible assumption
    | refine fun (s : State) (h : Keeps q u s) => ?_
    | refine fun _ => ?_
    | exact (‹KeptW q u (WRes.ok _)›).state
    | exact (‹KeptW q u (WRes.no _ _)›).state
    | with_reducible apply keeps_id
    | with_reducible apply wrModeCmd_keeps
    | with_reducible apply wrInhibitSet_keeps
    | with_reducible apply wrInhibitClr_keeps
    | with_reducible apply plain_keeps
    | with_reducible apply State.inhibitSync_keeps
    | with_reducible apply keeps_ite
    | with_reducible apply keptW_ok
    | with_reducible apply keptW_no
    | with_reducible apply keptO_next
    | with_reducible apply keptW_ite
    | with_reducible apply keptO_ite
    | refine Keeps.of_ok (by with_reducible assumption) ?_
    | refine Keeps.of_no (by with_reducible assumption) ?_
    | refine Keeps.of_fst (by with_reducible assumption) ?_
    | refine Keeps.of_snd (by with_reducible assumption) ?_
    | split

theorem wrCk_keeps {q : List Instr} {u : Nat} {o : Obj} {v : Nat} {s : State} (hs : Keeps q u s) :
    KeptW q u (wrCk o v s) := by
  unfold wrCk
  repeat' first
    | with_reducible assumption
    | refine fun (s : State) (h : Keeps q u s) => ?_
    | refine fun _ => ?_
    | (lift_lets -underBinder; (intro x; clear_value x))
    | exact (‹KeptW q u (WRes.ok _)›).state
    | exact (‹KeptW q u (WRes.no _ _)›).state
    | with_reducible apply keeps_id
    | with_reducible apply checked_keeps
    | with_reducible apply wrCkControl_keeps
    | with_reducible apply wrPtLoad_keeps
    | with_reducible apply wrSnapshot_keeps
    | with_reducible apply plain_keeps
    | with_reducible apply State.dlSettle_keeps
    | with_reducible apply keeps_ite
    | with_reducible apply keptW_ok
    | with_reducible apply keptW_no
    | with_reducible apply keptO_next
    | with_reducible apply keptW_ite

theorem wrFj_keeps {q : List Instr} {u : Nat} {o : Obj} {v : Nat} {s : State} (hs : Keeps q u s) :
    KeptW q u (wrFj o v s) := by
  unfold wrFj
  repeat' first
    | with_reducible assumption
    | refine fun (s : State) (h : Keeps q u s) => ?_
    | refine fun _ => ?_
    | exact (‹KeptW q u (WRes.ok _)›).state
    | exact (‹KeptW q u (WRes.no _ _)›).state
    | with_reducible apply keeps_id
    | with_reducible apply checked_keeps
    | with_reducible apply wrFjControl_keeps
    | with_reducible apply plain_keeps
    | with_reducible apply keeps_ite
    | with_reducible apply keptW_ok
    | with_reducible apply keptW_no
    | with_reducible apply keptO_next
    | with_reducible apply keptW_ite

theorem wrAct_keeps {q : List Instr} {u : Nat} {o : Obj} {v : Nat} {s : State} (hs : Keeps q u s) :
    KeptW q u (wrAct o v s) := by
  unfold wrAct
  repeat' first
    | with_reducible assumption
    | exact (‹KeptW q u (WRes.ok _)›).state
    | exact (‹KeptW q u (WRes.no _ _)›).state
    | with_reducible apply keeps_id
    | with_reducible apply wrActCommand_keeps
    | with_reducible apply wrActField_keeps
    | with_reducible apply keeps_ite
    | with_reducible apply keptW_ok
    | with_reducible apply keptW_no
    | with_reducible apply keptO_next
    | with_reducible apply keptW_ite

theorem wrPi_keeps {q : List Instr} {u : Nat} {o : Obj} {v : Nat} {s : State} (hs : Keeps q u s) :
    KeptW q u (wrPi o v s) := by
  unfold wrPi
  repeat' first
    | with_reducible assumption
    | refine fun (s : State) (h : Keeps q u s) => ?_
    | refine fun _ => ?_
    | (lift_lets -underBinder; (intro x; clear_value x))
    | exact (‹KeptW q u (WRes.ok _)›).state
    | exact (‹KeptW q u (WRes.no _ _)›).state
    | with_reducible apply keeps_id
    | with_reducible apply checked_keeps
    | with_reducible apply wrPiConfig_keeps
    | with_reducible apply wrPiCount_keeps
    | with_reducible apply plain_keeps
    | with_reducible apply keeps_ite
    | with_reducible apply keptW_ok
    | with_reducible apply keptW_no
    | with_reducible apply keptO_next
    | with_reducible apply keptW_ite
    | with_reducible apply keptO_ite
    | refine Keeps.of_ok (by with_reducible assumption) ?_
    | refine Keeps.of_no (by with_reducible assumption) ?_
    | refine Keeps.of_fst (by with_reducible assumption) ?_
    | refine Keeps.of_snd (by with_reducible assumption) ?_
    | split

theorem State.relayConfigured_keeps {q : List Instr} {u : Nat} {s : State} {a : Nat} (hs : Keeps q u s) :
    Keeps q u (State.relayConfigured s a) := by
  unfold State.relayConfigured
  repeat' first
    | with_reducible assumption
    | exact (‹KeptW q u (WRes.ok _)›).state
    | exact (‹KeptW q u (WRes.no _ _)›).state
    | with_reducible apply keeps_id
    | with_reducible apply State.relaySync_keeps
    | with_reducible apply keeps_ite
    | with_reducible apply keeps_ite_fst
    | with_reducible apply keptW_ok
    | with_reducible apply keptW_no
    | with_reducible apply keptO_next
    | with_reducible apply keptW_ite
    | with_reducible apply keptO_ite
    | split
    | (with_reducible apply keeps_with; with_reducible assumption)

theorem wrRl_keeps {q : List Instr} {u : Nat} {o : Obj} {v : Nat} {s : State} (hs : Keeps q u s) :
    KeptW q u (wrRl o v s) := by
  unfold wrRl
  repeat' first
    | with_reducible assumption
    | refine fun (s : State) (h : Keeps q u s) => ?_
    | refine fun _ => ?_
    | exact (‹KeptW q u (WRes.ok _)›).state
    | exact (‹KeptW q u (WRes.no _ _)›).state
    | with_reducible apply keeps_id
    | with_reducible apply plain_keeps
    | with_reducible apply State.relayConfigured_keeps
    | with_reducible apply keeps_ite
    | with_reducible apply keptW_ok
    | with_reducible apply keptW_no
    | with_reducible apply keptO_next
    | with_reducible apply keptW_ite

theorem wrMs_keeps {q : List Instr} {u : Nat} {o : Obj} {v : Nat} {s : State} (hs : Keeps q u s) :
    KeptW q u (wrMs o v s) := by
  unfold wrMs
  repeat' first
    | with_reducible assumption
    | refine fun (s : State) (h : Keeps q u s) => ?_
    | refine fun _ => ?_
    | exact (‹KeptW q u (WRes.ok _)›).state
    | exact (‹KeptW q u (WRes.no _ _)›).state
    | with_reducible apply keeps_id
    | with_reducible apply checked_keeps
    | with_reducible apply wrMsControl_keeps
    | with_reducible apply plain_keeps
    | with_reducible apply plainIf_keeps
    | with_reducible apply keeps_ite
    | with_reducible apply keptW_ok
    | with_reducible apply keptW_no
    | with_reducible apply keptO_next
    | with_reducible apply keptW_ite
    | with_reducible apply keptO_ite
    | refine Keeps.of_ok (by with_reducible assumption) ?_
    | refine Keeps.of_no (by with_reducible assumption) ?_
    | refine Keeps.of_fst (by with_reducible assumption) ?_
    | refine Keeps.of_snd (by with_reducible assumption) ?_
    | split

theorem wrIn_keeps {q : List Instr} {u : Nat} {o : Obj} {v : Nat} {s : State} (hs : Keeps q u s) :
    KeptW q u (wrIn o v s) := by
  unfold wrIn
  repeat' first
    | with_reducible assumption
    | refine fun (s : State) (h : Keeps q u s) => ?_
    | refine fun _ => ?_
    | (lift_lets -underBinder; (intro x; clear_value x))
    | exact (‹KeptW q u (WRes.ok _)›).state
    | exact (‹KeptW q u (WRes.no _ _)›).state
    | with_reducible apply keeps_id
    | with_reducible apply wrInControl_keeps
    | with_reducible apply wrInTail_keeps
    | with_reducible apply wrJobAbort_keeps
    | with_reducible apply plainIf_keeps
    | with_reducible apply plain_keeps
    | with_reducible apply keeps_ite
    | with_reducible apply keptW_ok
    | with_reducible apply keptW_no
    | with_reducible apply keptO_next
    | with_reducible apply keptW_ite

theorem wrBs_keeps {q : List Instr} {u : Nat} {o : Obj} {v : Nat} {s : State} (hs : Keeps q u s) :
    KeptW q u (wrBs o v s) := by
  unfold wrBs
  repeat' first
    | with_reducible assumption
    | refine fun (s : State) (h : Keeps q u s) => ?_
    | refine fun _ => ?_
    | exact (‹KeptW q u (WRes.ok _)›).state
    | exact (‹KeptW q u (WRes.no _ _)›).state
    | with_reducible apply keeps_id
    | with_reducible apply need_keeps
    | with_reducible apply plain_keeps
    | with_reducible apply State.pagesSync_keeps
    | with_reducible apply keeps_ite
    | with_reducible apply keptW_ok
    | with_reducible apply keptW_no
    | with_reducible apply keptO_next
    | with_reducible apply keptW_ite

theorem wrScr_keeps {q : List Instr} {u : Nat} {o : Obj} {v : Nat} {s : State} (hs : Keeps q u s) :
    KeptW q u (wrScr o v s) := by
  unfold wrScr
  repeat' first
    | with_reducible assumption
    | refine fun (s : State) (h : Keeps q u s) => ?_
    | refine fun _ => ?_
    | (lift_lets -underBinder; (intro x; clear_value x))
    | exact (‹KeptW q u (WRes.ok _)›).state
    | exact (‹KeptW q u (WRes.no _ _)›).state
    | with_reducible apply keeps_id
    | with_reducible apply checked_keeps
    | with_reducible apply wrCommit_keeps
    | with_reducible apply plain_keeps
    | with_reducible apply wrMaskCmd_keeps
    | with_reducible apply plainIf_keeps
    | with_reducible apply keeps_ite
    | with_reducible apply keptW_ok
    | with_reducible apply keptW_no
    | with_reducible apply keptO_next
    | with_reducible apply keptW_ite
    | with_reducible apply keptO_ite
    | refine Keeps.of_ok (by with_reducible assumption) ?_
    | refine Keeps.of_no (by with_reducible assumption) ?_
    | refine Keeps.of_fst (by with_reducible assumption) ?_
    | refine Keeps.of_snd (by with_reducible assumption) ?_
    | split

theorem wrStsh_keeps {q : List Instr} {u : Nat} {o : Obj} {v : Nat} {s : State} (hs : Keeps q u s) :
    KeptW q u (wrStsh o v s) := by
  unfold wrStsh
  repeat' first
    | with_reducible assumption
    | refine fun (s : State) (h : Keeps q u s) => ?_
    | refine fun _ => ?_
    | exact (‹KeptW q u (WRes.ok _)›).state
    | exact (‹KeptW q u (WRes.no _ _)›).state
    | with_reducible apply keeps_id
    | with_reducible apply plain_keeps
    | with_reducible apply plainIf_keeps
    | with_reducible apply keeps_ite
    | with_reducible apply keptW_ok
    | with_reducible apply keptW_no
    | with_reducible apply keptO_next
    | with_reducible apply keptW_ite

theorem wrSt_keeps {q : List Instr} {u : Nat} {o : Obj} {v : Nat} {s : State} (hs : Keeps q u s) :
    KeptW q u (wrSt o v s) := by
  unfold wrSt
  repeat' first
    | with_reducible assumption
    | refine fun (s : State) (h : Keeps q u s) => ?_
    | refine fun _ => ?_
    | exact (‹KeptW q u (WRes.ok _)›).state
    | exact (‹KeptW q u (WRes.no _ _)›).state
    | with_reducible apply keeps_id
    | with_reducible apply plainIf_keeps
    | with_reducible apply plain_keeps
    | with_reducible apply State.stPending_keeps
    | with_reducible apply keeps_ite
    | with_reducible apply keptW_ok
    | with_reducible apply keptW_no
    | with_reducible apply keptO_next
    | with_reducible apply keptW_ite

theorem wrLg_keeps {q : List Instr} {u : Nat} {o : Obj} {v : Nat} {s : State} (hs : Keeps q u s) :
    KeptW q u (wrLg o v s) := by
  unfold wrLg
  repeat' first
    | with_reducible assumption
    | refine fun (s : State) (h : Keeps q u s) => ?_
    | refine fun _ => ?_
    | (lift_lets -underBinder; (intro x; clear_value x))
    | exact (‹KeptW q u (WRes.ok _)›).state
    | exact (‹KeptW q u (WRes.no _ _)›).state
    | with_reducible apply keeps_id
    | with_reducible apply need_keeps
    | with_reducible apply plainKeep_keeps
    | with_reducible apply plainIf_keeps
    | with_reducible apply State.lgSync_keeps
    | with_reducible apply wrLgControl_keeps
    | with_reducible apply plain_keeps
    | with_reducible apply keeps_ite
    | with_reducible apply keptW_ok
    | with_reducible apply keptW_no
    | with_reducible apply keptO_next
    | with_reducible apply keptW_ite
    | with_reducible apply keptO_ite
    | refine Keeps.of_ok (by with_reducible assumption) ?_
    | refine Keeps.of_no (by with_reducible assumption) ?_
    | refine Keeps.of_fst (by with_reducible assumption) ?_
    | refine Keeps.of_snd (by with_reducible assumption) ?_
    | split

theorem State.predFresh_keeps {q : List Instr} {u : Nat} {s : State} {i : Nat} (hs : Keeps q u s) :
    Keeps q u (State.predFresh s i) := by
  unfold State.predFresh
  repeat' first
    | with_reducible assumption
    | (lift_lets -underBinder; (intro x; clear_value x))
    | exact (‹KeptW q u (WRes.ok _)›).state
    | exact (‹KeptW q u (WRes.no _ _)›).state
    | with_reducible apply keeps_id
    | with_reducible apply State.setPred_keeps
    | with_reducible apply State.setB_keeps

theorem wrPred_keeps {q : List Instr} {u : Nat} {o : Obj} {v : Nat} {s : State} (hs : Keeps q u s) :
    KeptW q u (wrPred o v s) := by
  unfold wrPred
  repeat' first
    | with_reducible assumption
    | refine fun (s : State) (h : Keeps q u s) => ?_
    | refine fun _ => ?_
    | (intro x; clear_value x)
    | (lift_lets -underBinder; first | (intro s; refine cut (p := Keeps q u (s : State)) ?_ ?_; (on_goal 2 => clear_value s; intro _); (on_goal 1 => try subst s)) | (intro x; clear_value x))
    | exact (‹KeptW q u (WRes.ok _)›).state
    | exact (‹KeptW q u (WRes.no _ _)›).state
    | with_reducible apply keeps_id
    | with_reducible apply need_keeps
    | with_reducible apply plain_keeps
    | with_reducible apply State.predFresh_keeps
    | with_reducible apply State.predSync_keeps
    | with_reducible apply State.predUpdate_keeps
    | with_reducible apply State.forAll_keeps
    | with_reducible apply State.ttSync_keeps
    | with_reducible apply plainIf_keeps
    | with_reducible apply keeps_ite
    | with_reducible apply keptW_ok
    | with_reducible apply keptW_no
    | with_reducible apply keptO_next
    | with_reducible apply keptW_ite
    | with_reducible apply keptO_ite
    | refine Keeps.of_ok (by with_reducible assumption) ?_
    | refine Keeps.of_no (by with_reducible assumption) ?_
    | refine Keeps.of_fst (by with_reducible assumption) ?_
    | refine Keeps.of_snd (by with_reducible assumption) ?_
    | split

theorem wrTt_keeps {q : List Instr} {u : Nat} {o : Obj} {v : Nat} {s : State} (hs : Keeps q u s) :
    KeptW q u (wrTt o v s) := by
  unfold wrTt
  repeat' first
    | with_reducible assumption
    | refine fun (s : State) (h : Keeps q u s) => ?_
    | refine fun _ => ?_
    | (lift_lets -underBinder; (intro x; clear_value x))
    | exact (‹KeptW q u (WRes.ok _)›).state
    | exact (‹KeptW q u (WRes.no _ _)›).state
    | with_reducible apply keeps_id
    | with_reducible apply wrArm_keeps
    | with_reducible apply wrOffset_keeps
    | with_reducible apply plain_keeps
    | with_reducible apply wrTtControl_keeps
    | with_reducible apply plainIf_keeps
    | with_reducible apply State.ttSync_keeps
    | with_reducible apply keeps_ite
    | with_reducible apply keptW_ok
    | with_reducible apply keptW_no
    | with_reducible apply keptO_next
    | with_reducible apply keptW_ite
    | with_reducible apply keptO_ite
    | refine Keeps.of_ok (by with_reducible assumption) ?_
    | refine Keeps.of_no (by with_reducible assumption) ?_
    | refine Keeps.of_fst (by with_reducible assumption) ?_
    | refine Keeps.of_snd (by with_reducible assumption) ?_
    | split

theorem wrLink_keeps {q : List Instr} {u : Nat} {o : Obj} {v : Nat} {s : State} (hs : Keeps q u s) :
    KeptW q u (wrLink o v s) := by
  unfold wrLink
  repeat' first
    | with_reducible assumption
    | refine fun (s : State) (h : Keeps q u s) => ?_
    | refine fun _ => ?_
    | exact (‹KeptW q u (WRes.ok _)›).state
    | exact (‹KeptW q u (WRes.no _ _)›).state
    | with_reducible apply keeps_id
    | with_reducible apply wrHpControl_keeps
    | with_reducible apply wrRcCmd_keeps
    | with_reducible apply plain_keeps
    | with_reducible apply keeps_ite
    | with_reducible apply keptW_ok
    | with_reducible apply keptW_no
    | with_reducible apply keptO_next
    | with_reducible apply keptW_ite
    | with_reducible apply keptO_ite
    | refine Keeps.of_ok (by with_reducible assumption) ?_
    | refine Keeps.of_no (by with_reducible assumption) ?_
    | refine Keeps.of_fst (by with_reducible assumption) ?_
    | refine Keeps.of_snd (by with_reducible assumption) ?_
    | split

theorem wrPt_keeps {q : List Instr} {u : Nat} {o : Obj} {v : Nat} {s : State} (hs : Keeps q u s) :
    KeptW q u (wrPt o v s) := by
  unfold wrPt
  repeat' first
    | with_reducible assumption
    | refine fun (s : State) (h : Keeps q u s) => ?_
    | refine fun _ => ?_
    | exact (‹KeptW q u (WRes.ok _)›).state
    | exact (‹KeptW q u (WRes.no _ _)›).state
    | with_reducible apply keeps_id
    | with_reducible apply wrPtCommit_keeps
    | with_reducible apply plainIf_keeps
    | with_reducible apply keeps_ite
    | with_reducible apply keptW_ok
    | with_reducible apply keptW_no
    | with_reducible apply keptO_next
    | with_reducible apply keptW_ite

theorem wrFire_keeps {q : List Instr} {u : Nat} {o : Obj} {v : Nat} {s : State} (hs : Keeps q u s) :
    KeptW q u (wrFire o v s) := by
  unfold wrFire
  repeat' first
    | with_reducible assumption
    | refine fun (s : State) (h : Keeps q u s) => ?_
    | refine fun _ => ?_
    | (lift_lets -underBinder; (intro x; clear_value x))
    | exact (‹KeptW q u (WRes.ok _)›).state
    | exact (‹KeptW q u (WRes.no _ _)›).state
    | with_reducible apply keeps_id
    | with_reducible apply plainIf_keeps
    | with_reducible apply State.warmPeriod_keeps
    | with_reducible apply plain_keeps
    | with_reducible apply keeps_ite
    | with_reducible apply keptW_ok
    | with_reducible apply keptW_no
    | with_reducible apply keptO_next
    | with_reducible apply keptW_ite

theorem wrHealth_keeps {q : List Instr} {u : Nat} {o : Obj} {v : Nat} {s : State} (hs : Keeps q u s) :
    KeptW q u (wrHealth o v s) := by
  unfold wrHealth
  repeat' first
    | with_reducible assumption
    | refine fun (s : State) (h : Keeps q u s) => ?_
    | refine fun _ => ?_
    | exact (‹KeptW q u (WRes.ok _)›).state
    | exact (‹KeptW q u (WRes.no _ _)›).state
    | with_reducible apply keeps_id
    | with_reducible apply wrHealthControl_keeps
    | with_reducible apply wrRankSet_keeps
    | with_reducible apply wrRecCmd_keeps
    | with_reducible apply plain_keeps
    | with_reducible apply keeps_ite
    | with_reducible apply keptW_ok
    | with_reducible apply keptW_no
    | with_reducible apply keptO_next
    | with_reducible apply keptW_ite
    | with_reducible apply keptO_ite
    | refine Keeps.of_ok (by with_reducible assumption) ?_
    | refine Keeps.of_no (by with_reducible assumption) ?_
    | refine Keeps.of_fst (by with_reducible assumption) ?_
    | refine Keeps.of_snd (by with_reducible assumption) ?_
    | split

theorem wrTwinObj_keeps {q : List Instr} {u : Nat} {o : Obj} {v : Nat} {s : State} (hs : Keeps q u s) :
    KeptW q u (wrTwinObj o v s) := by
  unfold wrTwinObj
  repeat' first
    | with_reducible assumption
    | exact (‹KeptW q u (WRes.ok _)›).state
    | exact (‹KeptW q u (WRes.no _ _)›).state
    | with_reducible apply keeps_id
    | with_reducible apply wrTwin_keeps
    | with_reducible apply wrTwinCmd_keeps
    | with_reducible apply keeps_ite
    | with_reducible apply keptW_ok
    | with_reducible apply keptW_no
    | with_reducible apply keptO_next
    | with_reducible apply keptW_ite

theorem wrPg_keeps {q : List Instr} {u : Nat} {o : Obj} {v : Nat} {s : State} (hs : Keeps q u s) :
    KeptW q u (wrPg o v s) := by
  unfold wrPg
  repeat' first
    | with_reducible assumption
    | refine fun (s : State) (h : Keeps q u s) => ?_
    | refine fun _ => ?_
    | (lift_lets -underBinder; (intro x; clear_value x))
    | exact (‹KeptW q u (WRes.ok _)›).state
    | exact (‹KeptW q u (WRes.no _ _)›).state
    | with_reducible apply keeps_id
    | with_reducible apply wrPgControl_keeps
    | with_reducible apply plainIf_keeps
    | with_reducible apply State.forAll_keeps
    | with_reducible apply State.setFire_keeps
    | with_reducible apply State.pgSync_keeps
    | with_reducible apply plain_keeps
    | with_reducible apply State.rhoSync_keeps
    | with_reducible apply keeps_ite
    | with_reducible apply keptW_ok
    | with_reducible apply keptW_no
    | with_reducible apply keptO_next
    | with_reducible apply keptW_ite
    | with_reducible apply keptO_ite
    | refine Keeps.of_ok (by with_reducible assumption) ?_
    | refine Keeps.of_no (by with_reducible assumption) ?_
    | refine Keeps.of_fst (by with_reducible assumption) ?_
    | refine Keeps.of_snd (by with_reducible assumption) ?_
    | split

theorem wrEv_keeps {q : List Instr} {u : Nat} {o : Obj} {v : Nat} {s : State} (hs : Keeps q u s) :
    KeptW q u (wrEv o v s) := by
  unfold wrEv
  repeat' first
    | with_reducible assumption
    | refine fun (s : State) (h : Keeps q u s) => ?_
    | refine fun _ => ?_
    | (lift_lets -underBinder; (intro x; clear_value x))
    | exact (‹KeptW q u (WRes.ok _)›).state
    | exact (‹KeptW q u (WRes.no _ _)›).state
    | with_reducible apply keeps_id
    | with_reducible apply wrEvControl_keeps
    | with_reducible apply plainIf_keeps
    | with_reducible apply plainKeep_keeps
    | with_reducible apply State.qSync_keeps
    | with_reducible apply wrIrqVec_keeps
    | with_reducible apply need_keeps
    | with_reducible apply plain_keeps
    | with_reducible apply keeps_ite
    | with_reducible apply keptW_ok
    | with_reducible apply keptW_no
    | with_reducible apply keptO_next
    | with_reducible apply keptW_ite

theorem wrDm_keeps {q : List Instr} {u : Nat} {o : Obj} {v : Nat} {s : State} (hs : Keeps q u s) :
    KeptW q u (wrDm o v s) := by
  unfold wrDm
  repeat' first
    | with_reducible assumption
    | refine fun (s : State) (h : Keeps q u s) => ?_
    | refine fun _ => ?_
    | (lift_lets -underBinder; (intro x; clear_value x))
    | exact (‹KeptW q u (WRes.ok _)›).state
    | exact (‹KeptW q u (WRes.no _ _)›).state
    | with_reducible apply keeps_id
    | with_reducible apply wrDmCmd_keeps
    | with_reducible apply plainIf_keeps
    | with_reducible apply plain_keeps
    | with_reducible apply keeps_ite
    | with_reducible apply keptW_ok
    | with_reducible apply keptW_no
    | with_reducible apply keptO_next
    | with_reducible apply keptW_ite

theorem wrSb_keeps {q : List Instr} {u : Nat} {o : Obj} {v : Nat} {s : State} (hs : Keeps q u s) :
    KeptW q u (wrSb o v s) := by
  unfold wrSb
  repeat' first
    | with_reducible assumption
    | refine fun (s : State) (h : Keeps q u s) => ?_
    | refine fun _ => ?_
    | (lift_lets -underBinder; (intro x; clear_value x))
    | exact (‹KeptW q u (WRes.ok _)›).state
    | exact (‹KeptW q u (WRes.no _ _)›).state
    | with_reducible apply keeps_id
    | with_reducible apply checked_keeps
    | with_reducible apply wrSbControl_keeps
    | with_reducible apply need_keeps
    | with_reducible apply plainKeep_keeps
    | with_reducible apply plainIf_keeps
    | with_reducible apply wrStoreCmd_keeps
    | with_reducible apply wrHostCmd_keeps
    | with_reducible apply plain_keeps
    | with_reducible apply State.senseGrant_keeps
    | with_reducible apply keeps_ite
    | with_reducible apply keptW_ok
    | with_reducible apply keptW_no
    | with_reducible apply keptO_next
    | with_reducible apply keptW_ite

theorem wrSu_keeps {q : List Instr} {u : Nat} {o : Obj} {v : Nat} {s : State} (hs : Keeps q u s) :
    KeptW q u (wrSu o v s) := by
  unfold wrSu
  repeat' first
    | with_reducible assumption
    | refine fun (s : State) (h : Keeps q u s) => ?_
    | refine fun _ => ?_
    | (lift_lets -underBinder; (intro x; clear_value x))
    | exact (‹KeptW q u (WRes.ok _)›).state
    | exact (‹KeptW q u (WRes.no _ _)›).state
    | with_reducible apply keeps_id
    | with_reducible apply wrSuControl_keeps
    | with_reducible apply plainKeep_keeps
    | with_reducible apply plain_keeps
    | with_reducible apply State.curfewSync_keeps
    | with_reducible apply State.highSync_keeps
    | with_reducible apply wrThControl_keeps
    | with_reducible apply State.throttleSync_keeps
    | with_reducible apply checked_keeps
    | with_reducible apply wrBkControl_keeps
    | with_reducible apply State.chgSync_keeps
    | with_reducible apply State.set_keeps
    | with_reducible apply State.gaugeRun_keeps
    | with_reducible apply wrGaugeSet_keeps
    | with_reducible apply wrJnlSelect_keeps
    | with_reducible apply wrJnlHost_keeps
    | with_reducible apply keeps_ite
    | with_reducible apply keptW_ok
    | with_reducible apply keptW_no
    | with_reducible apply keptO_next
    | with_reducible apply keptW_ite

theorem wrBt_keeps {q : List Instr} {u : Nat} {o : Obj} {v : Nat} {s : State} (hs : Keeps q u s) :
    KeptW q u (wrBt o v s) := by
  unfold wrBt
  repeat' first
    | with_reducible assumption
    | refine fun (s : State) (h : Keeps q u s) => ?_
    | refine fun _ => ?_
    | (lift_lets -underBinder; (intro x; clear_value x))
    | exact (‹KeptW q u (WRes.ok _)›).state
    | exact (‹KeptW q u (WRes.no _ _)›).state
    | with_reducible apply keeps_id
    | with_reducible apply wrBtControl_keeps
    | with_reducible apply wrRecovery_keeps
    | with_reducible apply plain_keeps
    | with_reducible apply State.setBoot_keeps
    | with_reducible apply wrWdtKick_keeps
    | with_reducible apply wrLcCmd_keeps
    | with_reducible apply wrRowCmd_keeps
    | with_reducible apply wrQspiCmd_keeps
    | with_reducible apply keeps_ite
    | with_reducible apply keptW_ok
    | with_reducible apply keptW_no
    | with_reducible apply keptO_next
    | with_reducible apply keptW_ite
    | with_reducible apply keptO_ite
    | refine Keeps.of_ok (by with_reducible assumption) ?_
    | refine Keeps.of_no (by with_reducible assumption) ?_
    | refine Keeps.of_fst (by with_reducible assumption) ?_
    | refine Keeps.of_snd (by with_reducible assumption) ?_
    | split

theorem wrFi_keeps {q : List Instr} {u : Nat} {o : Obj} {v : Nat} {s : State} (hs : Keeps q u s) :
    KeptW q u (wrFi o v s) := by
  unfold wrFi
  repeat' first
    | with_reducible assumption
    | refine fun (s : State) (h : Keeps q u s) => ?_
    | refine fun _ => ?_
    | exact (‹KeptW q u (WRes.ok _)›).state
    | exact (‹KeptW q u (WRes.no _ _)›).state
    | with_reducible apply keeps_id
    | with_reducible apply plain_keeps
    | with_reducible apply wrFiKey_keeps
    | with_reducible apply wrFiCmd_keeps
    | with_reducible apply plainIf_keeps
    | with_reducible apply keeps_ite
    | with_reducible apply keptW_ok
    | with_reducible apply keptW_no
    | with_reducible apply keptO_next
    | with_reducible apply keptW_ite
    | with_reducible apply keptO_ite
    | refine Keeps.of_ok (by with_reducible assumption) ?_
    | refine Keeps.of_no (by with_reducible assumption) ?_
    | refine Keeps.of_fst (by with_reducible assumption) ?_
    | refine Keeps.of_snd (by with_reducible assumption) ?_
    | split

theorem wrMt_keeps {q : List Instr} {u : Nat} {o : Obj} {v : Nat} {s : State} (hs : Keeps q u s) :
    KeptW q u (wrMt o v s) := by
  unfold wrMt
  repeat' first
    | with_reducible assumption
    | refine fun (s : State) (h : Keeps q u s) => ?_
    | refine fun _ => ?_
    | (intro x; clear_value x)
    | (lift_lets -underBinder; (intro x; clear_value x))
    | exact (‹KeptW q u (WRes.ok _)›).state
    | exact (‹KeptW q u (WRes.no _ _)›).state
    | with_reducible apply keeps_id
    | with_reducible apply wrMtCmd_keeps
    | with_reducible apply need_keeps
    | with_reducible apply plain_keeps
    | with_reducible apply plainIf_keeps
    | with_reducible apply keeps_ite
    | with_reducible apply keptW_ok
    | with_reducible apply keptW_no
    | with_reducible apply keptO_next
    | with_reducible apply keptW_ite
    | with_reducible apply keptO_ite
    | refine Keeps.of_ok (by with_reducible assumption) ?_
    | refine Keeps.of_no (by with_reducible assumption) ?_
    | refine Keeps.of_fst (by with_reducible assumption) ?_
    | refine Keeps.of_snd (by with_reducible assumption) ?_
    | split

theorem wrAx_keeps {q : List Instr} {u : Nat} {o : Obj} {v : Nat} {s : State} (hs : Keeps q u s) :
    KeptW q u (wrAx o v s) := by
  unfold wrAx
  repeat' first
    | with_reducible assumption
    | refine fun (s : State) (h : Keeps q u s) => ?_
    | refine fun _ => ?_
    | (lift_lets -underBinder; (intro x; clear_value x))
    | exact (‹KeptW q u (WRes.ok _)›).state
    | exact (‹KeptW q u (WRes.no _ _)›).state
    | with_reducible apply keeps_id
    | with_reducible apply checked_keeps
    | with_reducible apply wrAxConfig_keeps
    | with_reducible apply wrAxCmd_keeps
    | with_reducible apply wrAxPos_keeps
    | with_reducible apply plainKeep_keeps
    | with_reducible apply State.limitCheck_keeps
    | with_reducible apply need_keeps
    | with_reducible apply plain_keeps
    | with_reducible apply wrMvPush_keeps
    | with_reducible apply State.axCount_keeps
    | with_reducible apply plainIf_keeps
    | with_reducible apply keeps_ite
    | with_reducible apply keptW_ok
    | with_reducible apply keptW_no
    | with_reducible apply keptO_next
    | with_reducible apply keptW_ite
    | with_reducible apply keptO_ite
    | refine Keeps.of_ok (by with_reducible assumption) ?_
    | refine Keeps.of_no (by with_reducible assumption) ?_
    | refine Keeps.of_fst (by with_reducible assumption) ?_
    | refine Keeps.of_snd (by with_reducible assumption) ?_
    | split

theorem wrIg_keeps {q : List Instr} {u : Nat} {o : Obj} {v : Nat} {s : State} (hs : Keeps q u s) :
    KeptW q u (wrIg o v s) := by
  unfold wrIg
  repeat' first
    | with_reducible assumption
    | refine fun (s : State) (h : Keeps q u s) => ?_
    | refine fun _ => ?_
    | exact (‹KeptW q u (WRes.ok _)›).state
    | exact (‹KeptW q u (WRes.no _ _)›).state
    | with_reducible apply keeps_id
    | with_reducible apply plainIf_keeps
    | with_reducible apply wrIgCmd_keeps
    | with_reducible apply wrIgPush_keeps
    | with_reducible apply plain_keeps
    | with_reducible apply keeps_ite
    | with_reducible apply keptW_ok
    | with_reducible apply keptW_no
    | with_reducible apply keptO_next
    | with_reducible apply keptW_ite
    | with_reducible apply keptO_ite
    | refine Keeps.of_ok (by with_reducible assumption) ?_
    | refine Keeps.of_no (by with_reducible assumption) ?_
    | refine Keeps.of_fst (by with_reducible assumption) ?_
    | refine Keeps.of_snd (by with_reducible assumption) ?_
    | split

theorem wrDs_keeps {q : List Instr} {u : Nat} {o : Obj} {v : Nat} {s : State} (hs : Keeps q u s) :
    KeptW q u (wrDs o v s) := by
  unfold wrDs
  repeat' first
    | with_reducible assumption
    | refine fun (s : State) (h : Keeps q u s) => ?_
    | refine fun _ => ?_
    | refine fun (s : State) (h : Keeps q u s) => ?_
    | refine fun _ => ?_
    | (intro x; clear_value x)
    | (lift_lets -underBinder; (intro x; clear_value x))
    | exact (‹KeptW q u (WRes.ok _)›).state
    | exact (‹KeptW q u (WRes.no _ _)›).state
    | with_reducible apply keeps_id
    | with_reducible apply need_keeps
    | with_reducible apply plain_keeps
    | with_reducible apply plainKeep_keeps
    | with_reducible apply State.codes_keeps
    | with_reducible apply hf
    | with_reducible apply keeps_ite
    | with_reducible apply keptW_ok
    | with_reducible apply keptW_no
    | with_reducible apply keptO_next
    | with_reducible apply keptW_ite

theorem wrObj_keeps {q : List Instr} {u : Nat} {o : Obj} {v : Nat} {s : State} (hs : Keeps q u s) :
    KeptW q u (wrObj o v s) := by
  unfold wrObj
  repeat' first
    | with_reducible assumption
    | refine fun (s : State) (h : Keeps q u s) => ?_
    | refine fun _ => ?_
    | exact (‹KeptW q u (WRes.ok _)›).state
    | exact (‹KeptW q u (WRes.no _ _)›).state
    | with_reducible apply keeps_id
    | with_reducible apply wrCom_keeps
    | with_reducible apply wrMd_keeps
    | with_reducible apply wrCanConfig_keeps
    | with_reducible apply wrCk_keeps
    | with_reducible apply wrFj_keeps
    | with_reducible apply wrAct_keeps
    | with_reducible apply wrPi_keeps
    | with_reducible apply wrRl_keeps
    | with_reducible apply wrMs_keeps
    | with_reducible apply wrIn_keeps
    | with_reducible apply wrBs_keeps
    | with_reducible apply wrStsh_keeps
    | with_reducible apply wrSlowHost_keeps
    | with_reducible apply wrPred_keeps
    | with_reducible apply wrPg_keeps
    | with_reducible apply State.mtSync_keeps
    | with_reducible apply WRes.mtSync_keeps
    | with_reducible apply wrEv_keeps
    | with_reducible apply wrDm_keeps
    | with_reducible apply wrSb_keeps
    | with_reducible apply wrSu_keeps
    | with_reducible apply wrBt_keeps
    | with_reducible apply wrFi_keeps
    | with_reducible apply wrCappedClr_keeps
    | with_reducible apply plain_keeps
    | with_reducible apply wrMt_keeps
    | with_reducible apply wrLink_keeps
    | with_reducible apply wrPt_keeps
    | with_reducible apply wrFire_keeps
    | with_reducible apply wrHealth_keeps
    | with_reducible apply wrTwinObj_keeps
    | with_reducible apply wrScr_keeps
    | with_reducible apply wrComp_keeps
    | with_reducible apply wrSt_keeps
    | with_reducible apply wrLg_keeps
    | with_reducible apply wrTt_keeps
    | with_reducible apply wrAx_keeps
    | with_reducible apply wrIg_keeps
    | with_reducible apply wrDs_keeps
    | with_reducible apply keeps_ite
    | with_reducible apply keptW_ok
    | with_reducible apply keptW_no
    | with_reducible apply keptO_next
    | with_reducible apply keptW_ite
    | with_reducible apply keptO_ite
    | refine Keeps.of_ok (by with_reducible assumption) ?_
    | refine Keeps.of_no (by with_reducible assumption) ?_
    | refine Keeps.of_fst (by with_reducible assumption) ?_
    | refine Keeps.of_snd (by with_reducible assumption) ?_
    | split

theorem wrView_keeps {q : List Instr} {u : Nat} {view : View} {o : Obj} {r : Row} {x : Nat} {s : State} (hs : Keeps q u s) :
    KeptW q u (wrView view o r x s) := by
  unfold wrView
  repeat' first
    | with_reducible assumption
    | refine fun (s : State) (h : Keeps q u s) => ?_
    | refine fun _ => ?_
    | (intro f; refine cut (p := ∀ k : Nat, KeptW q u (f k : WRes)) ?_ ?_; (on_goal 2 => clear_value f; intro hf); (on_goal 1 => subst f))
    | (lift_lets -underBinder; (intro x; clear_value x))
    | exact (‹KeptW q u (WRes.ok _)›).state
    | exact (‹KeptW q u (WRes.no _ _)›).state
    | with_reducible apply keeps_id
    | with_reducible apply wrObj_keeps
    | with_reducible apply State.set_keeps
    | with_reducible apply State.clearOnes_keeps
    | with_reducible apply hf
    | with_reducible apply keeps_ite
    | with_reducible apply keptW_ok
    | with_reducible apply keptW_no
    | with_reducible apply keptO_next
    | with_reducible apply keptW_ite
    | with_reducible apply keptO_ite
    | refine Keeps.of_ok (by with_reducible assumption) ?_
    | refine Keeps.of_no (by with_reducible assumption) ?_
    | refine Keeps.of_fst (by with_reducible assumption) ?_
    | refine Keeps.of_snd (by with_reducible assumption) ?_
    | split

theorem WRes.unstage_keeps {q : List Instr} {u : Nat} {p : Path} {r : WRes} (h : KeptW q u r) :
    KeptW q u (r.unstage p) := by
  cases r <;> exact ⟨State.set_keeps h.state⟩

theorem dictWrite_keeps {q : List Instr} {u : Nat} {p : Path} {view : View} {full : Bool} {index : Nat} {sub : Nat} {w : Nat} {s : State} (hs : Keeps q u s) :
    KeptW q u (dictWrite p view full index sub w s) := by
  unfold dictWrite
  repeat' first
    | with_reducible assumption
    | exact (‹KeptW q u (WRes.ok _)›).state
    | exact (‹KeptW q u (WRes.no _ _)›).state
    | with_reducible apply keeps_id
    | with_reducible apply State.inc_keeps
    | with_reducible apply State.hit_keeps
    | with_reducible apply wrView_keeps
    | with_reducible apply WRes.unstage_keeps
    | with_reducible apply keeps_ite
    | with_reducible apply keptW_ok
    | with_reducible apply keptW_no
    | with_reducible apply keptO_next
    | with_reducible apply keptW_ite
    | with_reducible apply keptO_ite
    | refine Keeps.of_ok (by with_reducible assumption) ?_
    | refine Keeps.of_no (by with_reducible assumption) ?_
    | refine Keeps.of_fst (by with_reducible assumption) ?_
    | refine Keeps.of_snd (by with_reducible assumption) ?_
    | split

theorem netWrite_keeps {q : List Instr} {u : Nat} {index : Nat} {sub : Nat} {v : Nat} {s : State} (hs : Keeps q u s) :
    KeptW q u (netWrite index sub v s) := by
  unfold netWrite
  repeat' first
    | with_reducible assumption
    | exact (‹KeptW q u (WRes.ok _)›).state
    | exact (‹KeptW q u (WRes.no _ _)›).state
    | with_reducible apply keeps_id
    | with_reducible apply wrObj_keeps
    | with_reducible apply State.clearOnes_keeps
    | with_reducible apply keeps_ite
    | with_reducible apply keptW_ok
    | with_reducible apply keptW_no
    | with_reducible apply keptO_next
    | with_reducible apply keptW_ite
    | with_reducible apply keptO_ite
    | refine Keeps.of_ok (by with_reducible assumption) ?_
    | refine Keeps.of_no (by with_reducible assumption) ?_
    | refine Keeps.of_fst (by with_reducible assumption) ?_
    | refine Keeps.of_snd (by with_reducible assumption) ?_
    | split

theorem cmdWrite_keeps {q : List Instr} {u : Nat} {p : Path} {view : View} {full : Bool} {index : Nat} {sub : Nat} {w : Nat} {s : State} (hs : Keeps q u s) :
    KeptO q u (cmdWrite p view full index sub w s) := by
  unfold cmdWrite
  repeat' first
    | with_reducible assumption
    | (lift_lets -underBinder; (intro s; refine cut (p := KeptW q u (s : WRes)) ?_ ?_; (on_goal 2 => clear_value s; intro _); (on_goal 1 => try subst s)))
    | exact (‹KeptW q u (WRes.ok _)›).state
    | exact (‹KeptW q u (WRes.no _ _)›).state
    | with_reducible apply keeps_id
    | with_reducible apply netWrite_keeps
    | with_reducible apply dictWrite_keeps
    | with_reducible apply State.abort_keeps
    | with_reducible apply keeps_ite
    | with_reducible apply keptW_ok
    | with_reducible apply keptW_no
    | with_reducible apply keptO_next
    | with_reducible apply keptW_ite
    | with_reducible apply keptO_ite
    | refine Keeps.of_ok (by with_reducible assumption) ?_
    | refine Keeps.of_no (by with_reducible assumption) ?_
    | refine Keeps.of_fst (by with_reducible assumption) ?_
    | refine Keeps.of_snd (by with_reducible assumption) ?_
    | split

theorem execDictWrite_keeps {q : List Instr} {u : Nat} {p : Path} {full : Bool} {index : Nat} {sub : Nat} {w : Nat} {s : State} (hs : Keeps q u s) :
    KeptO q u (execDictWrite p full index sub w s) := by
  unfold execDictWrite
  repeat' first
    | with_reducible assumption
    | exact (‹KeptW q u (WRes.ok _)›).state
    | exact (‹KeptW q u (WRes.no _ _)›).state
    | with_reducible apply keeps_id
    | with_reducible apply cmdWrite_keeps

theorem execClrViewWrite_keeps {q : List Instr} {u : Nat} {p : Path} {view : View} {full : Bool} {index : Nat} {sub : Nat} {w : Nat} {s : State} (hs : Keeps q u s) :
    KeptO q u (execClrViewWrite p view full index sub w s) := by
  unfold execClrViewWrite
  repeat' first
    | with_reducible assumption
    | exact (‹KeptW q u (WRes.ok _)›).state
    | exact (‹KeptW q u (WRes.no _ _)›).state
    | with_reducible apply keeps_id
    | with_reducible apply cmdWrite_keeps

theorem execDictWrite64_keeps {q : List Instr} {u : Nat} {p : Path} {full : Bool} {index : Nat} {sub : Nat} {w : Nat} {s : State} (hs : Keeps q u s) :
    KeptO q u (execDictWrite64 p full index sub w s) := by
  unfold execDictWrite64
  repeat' first
    | with_reducible assumption
    | exact (‹KeptW q u (WRes.ok _)›).state
    | exact (‹KeptW q u (WRes.no _ _)›).state
    | with_reducible apply keeps_id
    | with_reducible apply cmdWrite_keeps

end Sys2Proof.Machine
end

