-- ==== Sys2Proof/Laws/KeepsDma.lean ====
section
/-! SUPPORT. What each operation of Machine/Dma.lean keeps (Laws/Keeps.lean). -/
namespace Sys2Proof.Machine

theorem dmGet_keeps {q : List Instr} {u : Nat} {c : Nat} {space : Nat} {a : Nat} {n : Nat} {data : List Byte} {s : State} {k : List Byte → List Byte → State → Moved} (hs : Keeps q u s) (hk : ∀ s, Keeps q u s → ∀ a b, KeptM q u (k a b s)) :
    KeptM q u (dmGet c space a n data s k) := by
  unfold dmGet
  repeat' first
    | with_reducible assumption
    | refine fun (s : State) (h : Keeps q u s) => ?_
    | refine fun _ => ?_
    | (intro s; refine cut (p := KeptW q u (s.2 : WRes)) ?_ ?_; (on_goal 2 => clear_value s; intro _); (on_goal 1 => try subst s))
    | (intro x; clear_value x)
    | (lift_lets -underBinder; (intro x; clear_value x))
    | exact (‹KeptW q u (WRes.ok _)›).state
    | exact (‹KeptW q u (WRes.no _ _)›).state
    | with_reducible apply keptM_made
    | with_reducible apply keptM_fail
    | with_reducible apply keptM_short
    | with_reducible apply keptM_ite
    | refine Keeps.of_made (by with_reducible assumption) ?_
    | refine Keeps.of_fail (by with_reducible assumption) ?_
    | refine fun _ _ => ?_
    | with_reducible apply hk
    | with_reducible apply State.windowFault_keeps
    | with_reducible apply dictRead_keeps
    | with_reducible apply State.abort_keeps
    | with_reducible apply keeps_ite
    | with_reducible apply keeps_ite_fst
    | with_reducible apply keeps_ite_snd
    | with_reducible apply keptW_ok
    | with_reducible apply keptW_no
    | with_reducible apply keptO_next
    | with_reducible apply keptW_ite
    | with_reducible apply keptO_ite
    | refine Keeps.of_ok (by with_reducible assumption) ?_
    | refine Keeps.of_no (by with_reducible assumption) ?_
    | refine Keeps.of_fst (by with_reducible assumption) ?_
    | refine Keeps.of_snd (by with_reducible assumption) ?_
    | split

theorem dmPut_keeps {q : List Instr} {u : Nat} {c : Nat} {space : Nat} {a : Nat} {bs : List Byte} {rest : List Byte} {s : State} (hs : Keeps q u s) :
    KeptM q u (dmPut c space a bs rest s) := by
  unfold dmPut
  repeat' first
    | with_reducible assumption
    | (intro x; clear_value x)
    | (lift_lets -underBinder; (intro x; clear_value x))
    | exact (‹KeptW q u (WRes.ok _)›).state
    | exact (‹KeptW q u (WRes.no _ _)›).state
    | with_reducible apply keptM_made
    | with_reducible apply keptM_fail
    | with_reducible apply keptM_short
    | with_reducible apply keptM_ite
    | refine Keeps.of_made (by with_reducible assumption) ?_
    | refine Keeps.of_fail (by with_reducible assumption) ?_
    | refine fun _ _ => ?_
    | with_reducible apply State.emit_keeps
    | with_reducible apply State.windowFault_keeps
    | with_reducible apply State.mputs_keeps
    | with_reducible apply dictWrite_keeps
    | with_reducible apply State.abort_keeps
    | with_reducible apply State.domWindow_keeps
    | with_reducible apply keeps_ite
    | with_reducible apply keeps_ite_fst
    | with_reducible apply keeps_ite_snd
    | with_reducible apply keptW_ok
    | with_reducible apply keptW_no
    | with_reducible apply keptO_next
    | with_reducible apply keptW_ite
    | with_reducible apply keptO_ite
    | refine Keeps.of_ok (by with_reducible assumption) ?_
    | refine Keeps.of_no (by with_reducible assumption) ?_
    | refine Keeps.of_fst (by with_reducible assumption) ?_
    | refine Keeps.of_snd (by with_reducible assumption) ?_
    | split

theorem dmMove_keeps {q : List Instr} {u : Nat} {c : Nat} {d : Desc} {data : List Byte} {s : State} (hs : Keeps q u s) :
    KeptM q u (dmMove c d data s) := by
  unfold dmMove
  repeat' first
    | with_reducible assumption
    | refine fun (s : State) (h : Keeps q u s) => ?_
    | refine fun _ => ?_
    | (intro x; clear_value x)
    | (lift_lets -underBinder; (intro x; clear_value x))
    | exact (‹KeptW q u (WRes.ok _)›).state
    | exact (‹KeptW q u (WRes.no _ _)›).state
    | with_reducible apply keptM_made
    | with_reducible apply keptM_fail
    | with_reducible apply keptM_short
    | with_reducible apply keptM_ite
    | refine Keeps.of_made (by with_reducible assumption) ?_
    | refine Keeps.of_fail (by with_reducible assumption) ?_
    | refine fun _ _ => ?_
    | with_reducible apply dmGet_keeps
    | with_reducible apply dmPut_keeps

theorem State.dmCount_keeps {q : List Instr} {u : Nat} {s : State} {c : Nat} {d : Desc} (hs : Keeps q u s) :
    Keeps q u (State.dmCount s c d) := by
  unfold State.dmCount
  repeat' first
    | with_reducible assumption
    | (intro s; refine cut (p := Keeps q u (s : State)) ?_ ?_; (on_goal 2 => clear_value s; intro _); (on_goal 1 => try subst s))
    | (intro x; clear_value x)
    | (lift_lets -underBinder; (intro x; clear_value x))
    | exact (‹KeptW q u (WRes.ok _)›).state
    | exact (‹KeptW q u (WRes.no _ _)›).state
    | with_reducible apply keptM_made
    | with_reducible apply keptM_fail
    | with_reducible apply keptM_short
    | with_reducible apply keptM_ite
    | refine Keeps.of_made (by with_reducible assumption) ?_
    | refine Keeps.of_fail (by with_reducible assumption) ?_
    | refine fun _ _ => ?_
    | with_reducible apply State.setDmaCh_keeps
    | with_reducible apply State.addC_keeps
    | with_reducible apply State.dmPay_keeps
    | with_reducible apply keeps_ite

theorem dmBurst_keeps {q : List Instr} {u : Nat} {c : Nat} : ∀ {k : Nat} {data : List Byte} {s : State}, Keeps q u s →
    Keeps q u (dmBurst c k data s).1 := by
  intro k
  induction k with
  | zero => intro data s hs; exact hs
  | succ k ih =>
    intro data s hs
    unfold dmBurst
    split
    · exact hs
    · split
      · exact hs
      · rename_i d _
        split
        · exact hs
        · have hm := dmMove_keeps (c := c) (d := d) (data := data) hs
          split
          · rename_i h
            exact ih (State.dmCount_keeps (Keeps.of_made h hm))
          · exact hs
          · rename_i h
            exact State.dmHalt_keeps (Keeps.of_fail h hm)

theorem dmServe_keeps {q : List Instr} {u : Nat} {c : Nat} : ∀ {k n : Nat} {data : List Byte} {s : State}, Keeps q u s →
    Keeps q u (dmServe c k n data s) := by
  intro k
  induction k with
  | zero => intro n data s hs; exact hs
  | succ k ih =>
    intro n data s hs
    unfold dmServe
    split
    · exact hs
    · split
      · exact hs
      · rename_i x _
        have h' : Keeps q u (s.setEvs { s.evs with dmTurn := x }) := State.setEvs_keeps hs
        revert h'
        simp only
        generalize s.setEvs { s.evs with dmTurn := x } = s'
        intro h'
        split
        · have hb := dmBurst_keeps (c := c) (k := min n (dmBurstMoves s' c)) (data := data) h'
          split
          · rename_i h
            rw [h] at hb
            exact ih hb
          · rename_i h
            rw [h] at hb
            exact hb
        · exact ih (dmBurst_keeps h')

theorem dmRun_keeps {q : List Instr} {u : Nat} {c : Nat} {n : Nat} {data : List Byte} {s : State} (hs : Keeps q u s) :
    Keeps q u (dmRun c n data s) := by
  unfold dmRun
  repeat' first
    | with_reducible assumption
    | exact (‹KeptW q u (WRes.ok _)›).state
    | exact (‹KeptW q u (WRes.no _ _)›).state
    | with_reducible apply keptM_made
    | with_reducible apply keptM_fail
    | with_reducible apply keptM_short
    | with_reducible apply keptM_ite
    | refine Keeps.of_made (by with_reducible assumption) ?_
    | refine Keeps.of_fail (by with_reducible assumption) ?_
    | refine fun _ _ => ?_
    | with_reducible apply dmServe_keeps

theorem State.dmDone_keeps {q : List Instr} {u : Nat} {s : State} {c : Nat} {d : Desc} (hs : Keeps q u s) :
    Keeps q u (State.dmDone s c d) := by
  unfold State.dmDone
  repeat' first
    | with_reducible assumption
    | (lift_lets -underBinder; (intro s; refine cut (p := Keeps q u (s : State)) ?_ ?_; (on_goal 2 => clear_value s; intro _); (on_goal 1 => try subst s)))
    | exact (‹KeptW q u (WRes.ok _)›).state
    | exact (‹KeptW q u (WRes.no _ _)›).state
    | with_reducible apply keptM_made
    | with_reducible apply keptM_fail
    | with_reducible apply keptM_short
    | with_reducible apply keptM_ite
    | refine Keeps.of_made (by with_reducible assumption) ?_
    | refine Keeps.of_fail (by with_reducible assumption) ?_
    | refine fun _ _ => ?_
    | with_reducible apply State.dmResult_keeps
    | with_reducible apply State.inc_keeps
    | with_reducible apply State.hit_keeps
    | with_reducible apply State.dmNext_keeps
    | with_reducible apply keeps_ite

theorem execDmaDescDone_keeps {q : List Instr} {u : Nat} {c : Nat} {data : List Byte} {t : Nat} {s : State} (hs : Keeps q u s) :
    KeptO q u (execDmaDescDone c data t s) := by
  unfold execDmaDescDone
  repeat' first
    | with_reducible assumption
    | (lift_lets -underBinder; (intro s; refine cut (p := Keeps q u (s : State)) ?_ ?_; (on_goal 2 => clear_value s; intro _); (on_goal 1 => try subst s)))
    | exact (‹KeptW q u (WRes.ok _)›).state
    | exact (‹KeptW q u (WRes.no _ _)›).state
    | with_reducible apply keptM_made
    | with_reducible apply keptM_fail
    | with_reducible apply keptM_short
    | with_reducible apply keptM_ite
    | refine Keeps.of_made (by with_reducible assumption) ?_
    | refine Keeps.of_fail (by with_reducible assumption) ?_
    | refine fun _ _ => ?_
    | with_reducible apply State.adv_keeps
    | with_reducible apply dmRun_keeps
    | with_reducible apply State.dmDone_keeps
    | with_reducible apply keeps_ite
    | with_reducible apply keptW_ok
    | with_reducible apply keptW_no
    | with_reducible apply keptO_next
    | with_reducible apply keptW_ite
    | with_reducible apply keptO_ite
    | refine Keeps.of_ok (by with_reducible assumption) ?_
    | refine Keeps.of_no (by with_reducible assumption) ?_
    | refine Keeps.of_fst (by with_reducible assumption) ?_
    | refine Keeps.of_snd (by with_reducible assumption) ?_
    | split

theorem dmFail_keeps {q : List Instr} {u : Nat} {c : Nat} {n : Nat} {code : Nat} {write : Bool} {data : List Byte} {d : Desc} {s : State} (hs : Keeps q u s) :
    Keeps q u (dmFail c n code write data d s) := by
  unfold dmFail
  repeat' first
    | with_reducible assumption
    | (intro x; clear_value x)
    | (lift_lets -underBinder; (intro s; refine cut (p := Keeps q u (s : State)) ?_ ?_; (on_goal 2 => clear_value s; intro _); (on_goal 1 => try subst s)))
    | exact (‹KeptW q u (WRes.ok _)›).state
    | exact (‹KeptW q u (WRes.no _ _)›).state
    | with_reducible apply keptM_made
    | with_reducible apply keptM_fail
    | with_reducible apply keptM_short
    | with_reducible apply keptM_ite
    | refine Keeps.of_made (by with_reducible assumption) ?_
    | refine Keeps.of_fail (by with_reducible assumption) ?_
    | refine fun _ _ => ?_
    | with_reducible apply dmRun_keeps
    | with_reducible apply State.bsEcc_keeps
    | with_reducible apply State.dmHalt_keeps
    | with_reducible apply keeps_ite

theorem execDmaAccessFail_keeps {q : List Instr} {u : Nat} {c : Nat} {n : Nat} {code : Nat} {write : Bool} {data : List Byte} {t : Nat} {s : State} (hs : Keeps q u s) :
    KeptO q u (execDmaAccessFail c n code write data t s) := by
  unfold execDmaAccessFail
  repeat' first
    | with_reducible assumption
    | (intro x; clear_value x)
    | (lift_lets -underBinder; (intro s; refine cut (p := Keeps q u (s : State)) ?_ ?_; (on_goal 2 => clear_value s; intro _); (on_goal 1 => try subst s)))
    | exact (‹KeptW q u (WRes.ok _)›).state
    | exact (‹KeptW q u (WRes.no _ _)›).state
    | with_reducible apply keptM_made
    | with_reducible apply keptM_fail
    | with_reducible apply keptM_short
    | with_reducible apply keptM_ite
    | refine Keeps.of_made (by with_reducible assumption) ?_
    | refine Keeps.of_fail (by with_reducible assumption) ?_
    | refine fun _ _ => ?_
    | with_reducible apply State.adv_keeps
    | with_reducible apply State.setDmaCh_keeps
    | with_reducible apply State.dmHalt_keeps
    | with_reducible apply dmFail_keeps
    | with_reducible apply keeps_ite
    | with_reducible apply keptW_ok
    | with_reducible apply keptW_no
    | with_reducible apply keptO_next
    | with_reducible apply keptW_ite
    | with_reducible apply keptO_ite
    | refine Keeps.of_ok (by with_reducible assumption) ?_
    | refine Keeps.of_no (by with_reducible assumption) ?_
    | refine Keeps.of_fst (by with_reducible assumption) ?_
    | refine Keeps.of_snd (by with_reducible assumption) ?_
    | split

end Sys2Proof.Machine
end

