-- ==== Sys2Proof/Laws/KeepsNetwork.lean ====
section
/-! SUPPORT. What each operation of Machine/Network.lean keeps (Laws/Keeps.lean). -/
namespace Sys2Proof.Machine

theorem State.setSess_keeps {q : List Instr} {u : Nat} {s : State} {k : Nat} {x : Sess} (hs : Keeps q u s) :
    Keeps q u (State.setSess s k x) := by
  unfold State.setSess
  repeat' first
    | with_reducible assumption
    | (lift_lets -underBinder; (intro x; clear_value x))
    | exact (‹KeptW q u (WRes.ok _)›).state
    | exact (‹KeptW q u (WRes.no _ _)›).state
    | with_reducible apply State.setNet_keeps

theorem State.sessOpen_keeps {q : List Instr} {u : Nat} {s : State} {k : Nat} {x : Sess} (hs : Keeps q u s) :
    Keeps q u (State.sessOpen s k x) := by
  unfold State.sessOpen
  repeat' first
    | with_reducible assumption
    | exact (‹KeptW q u (WRes.ok _)›).state
    | exact (‹KeptW q u (WRes.no _ _)›).state
    | with_reducible apply State.setSess_keeps
    | with_reducible apply State.set_keeps
    | with_reducible apply State.setB_keeps

theorem State.sessAbort_keeps {q : List Instr} {u : Nat} {s : State} {k : Nat} {code : Nat} (hs : Keeps q u s) :
    Keeps q u (State.sessAbort s k code) := by
  unfold State.sessAbort
  repeat' first
    | with_reducible assumption
    | (lift_lets -underBinder; (intro x; clear_value x))
    | exact (‹KeptW q u (WRes.ok _)›).state
    | exact (‹KeptW q u (WRes.no _ _)›).state
    | with_reducible apply State.sessFree_keeps
    | with_reducible apply State.usdoAbort_keeps

theorem State.usdoRefuse_keeps {q : List Instr} {u : Nat} {s : State} {x : Sess} (hs : Keeps q u s) :
    Keeps q u (State.usdoRefuse s x) := by
  unfold State.usdoRefuse
  repeat' first
    | with_reducible assumption
    | exact (‹KeptW q u (WRes.ok _)›).state
    | exact (‹KeptW q u (WRes.no _ _)›).state
    | with_reducible apply State.inc_keeps
    | with_reducible apply State.hit_keeps
    | with_reducible apply State.usdoAbort_keeps

theorem State.usdoOpen_keeps {q : List Instr} {u : Nat} {s : State} {x : Sess} {f : Nat → State → State} (hs : Keeps q u s) (hf : ∀ s, Keeps q u s → ∀ k, Keeps q u (f k s)) :
    Keeps q u (State.usdoOpen s x f) := by
  unfold State.usdoOpen
  repeat' first
    | with_reducible assumption
    | refine fun (s : State) (h : Keeps q u s) => ?_
    | refine fun _ => ?_
    | exact (‹KeptW q u (WRes.ok _)›).state
    | exact (‹KeptW q u (WRes.no _ _)›).state
    | with_reducible apply hf
    | with_reducible apply State.sessOpen_keeps
    | with_reducible apply State.usdoRefuse_keeps
    | with_reducible apply keeps_ite
    | with_reducible apply keptW_ok
    | with_reducible apply keptW_no
    | with_reducible apply keptO_next
    | with_reducible apply keptW_ite
    | with_reducible apply keptO_ite
    | refine Keeps.of_ok (by with_reducible assumption) ?_
    | refine Keeps.of_no (by with_reducible assumption) ?_
    | refine Keeps.of_fst (by with_reducible assumption) ?_
    | refine Keeps.of_snd (by with_reducible assumption) ?_
    | split

theorem usdoFrame_keeps {q : List Instr} {u : Nat} {client : Nat} {t : Nat} {s : State} {f : State → State} (hs : Keeps q u s) (hf : ∀ s, Keeps q u s → Keeps q u (f s)) :
    KeptO q u (usdoFrame client t s f) := by
  unfold usdoFrame
  repeat' first
    | with_reducible assumption
    | refine fun (s : State) (h : Keeps q u s) => ?_
    | refine fun _ => ?_
    | exact (‹KeptW q u (WRes.ok _)›).state
    | exact (‹KeptW q u (WRes.no _ _)›).state
    | with_reducible apply hf
    | with_reducible apply State.adv_keeps
    | with_reducible apply State.canHeard_keeps
    | with_reducible apply keeps_ite
    | with_reducible apply keptW_ok
    | with_reducible apply keptW_no
    | with_reducible apply keptO_next

theorem usdoRequest_keeps {q : List Instr} {u : Nat} {svc : Nat} {x : Sess} {f : State → State} {s : State} (hs : Keeps q u s) (hf : ∀ s, Keeps q u s → Keeps q u (f s)) :
    Keeps q u (usdoRequest svc x f s) := by
  unfold usdoRequest
  repeat' first
    | with_reducible assumption
    | refine fun (s : State) (h : Keeps q u s) => ?_
    | refine fun _ => ?_
    | exact (‹KeptW q u (WRes.ok _)›).state
    | exact (‹KeptW q u (WRes.no _ _)›).state
    | with_reducible apply hf
    | with_reducible apply State.sessFree_keeps
    | with_reducible apply State.usdoAbort_keeps
    | with_reducible apply keeps_ite
    | with_reducible apply keptW_ok
    | with_reducible apply keptW_no
    | with_reducible apply keptO_next
    | with_reducible apply keptW_ite
    | with_reducible apply keptO_ite
    | refine Keeps.of_ok (by with_reducible assumption) ?_
    | refine Keeps.of_no (by with_reducible assumption) ?_
    | refine Keeps.of_fst (by with_reducible assumption) ?_
    | refine Keeps.of_snd (by with_reducible assumption) ?_
    | split

theorem usdoFinish_keeps {q : List Instr} {u : Nat} {x : Sess} {s : State} (hs : Keeps q u s) :
    KeptW q u (usdoFinish x s) := by
  unfold usdoFinish
  repeat' first
    | with_reducible assumption
    | exact (‹KeptW q u (WRes.ok _)›).state
    | exact (‹KeptW q u (WRes.no _ _)›).state
    | with_reducible apply need_keeps
    | with_reducible apply netWrite_keeps
    | with_reducible apply keeps_ite
    | with_reducible apply keptW_ok
    | with_reducible apply keptW_no
    | with_reducible apply keptO_next
    | with_reducible apply keptW_ite

theorem usdoTake_keeps {q : List Instr} {u : Nat} {k : Nat} {bs : List Byte} {last : Bool} {s : State} (hs : Keeps q u s) :
    Keeps q u (usdoTake k bs last s) := by
  unfold usdoTake
  repeat' first
    | with_reducible assumption
    | (intro x; clear_value x)
    | (lift_lets -underBinder; (intro x; clear_value x))
    | exact (‹KeptW q u (WRes.ok _)›).state
    | exact (‹KeptW q u (WRes.no _ _)›).state
    | with_reducible apply wrDomain_keeps
    | with_reducible apply State.sessAbort_keeps
    | with_reducible apply State.setSess_keeps
    | with_reducible apply State.usdoSend_keeps
    | with_reducible apply usdoFinish_keeps
    | with_reducible apply State.sessFree_keeps
    | with_reducible apply State.usdoAbort_keeps
    | with_reducible apply keeps_ite
    | with_reducible apply keptW_ok
    | with_reducible apply keptW_no
    | with_reducible apply keptO_next
    | with_reducible apply keptW_ite
    | with_reducible apply keptO_ite
    | refine Keeps.of_ok (by with_reducible assumption) ?_
    | refine Keeps.of_no (by with_reducible assumption) ?_
    | refine Keeps.of_fst (by with_reducible assumption) ?_
    | refine Keeps.of_snd (by with_reducible assumption) ?_
    | split

theorem execUsdoDownloadInit_keeps {q : List Instr} {u : Nat} {client : Nat} {svc : Nat} {index : Nat} {sub : Nat} {sized : Bool} {size : Nat} {data : List Byte} {last : Bool} {t : Nat} {s : State} (hs : Keeps q u s) :
    KeptO q u (execUsdoDownloadInit client svc index sub sized size data last t s) := by
  unfold execUsdoDownloadInit
  repeat' first
    | with_reducible assumption
    | refine fun (s : State) (h : Keeps q u s) => ?_
    | refine fun _ => ?_
    | (lift_lets -underBinder; (intro x; clear_value x))
    | exact (‹KeptW q u (WRes.ok _)›).state
    | exact (‹KeptW q u (WRes.no _ _)›).state
    | with_reducible apply usdoFrame_keeps
    | with_reducible apply usdoRequest_keeps
    | with_reducible apply State.usdoOpen_keeps
    | with_reducible apply State.sessAbort_keeps
    | with_reducible apply usdoTake_keeps
    | with_reducible apply keeps_ite
    | with_reducible apply keptW_ok
    | with_reducible apply keptW_no
    | with_reducible apply keptO_next
    | with_reducible apply keptW_ite
    | with_reducible apply keptO_ite
    | refine Keeps.of_ok (by with_reducible assumption) ?_
    | refine Keeps.of_no (by with_reducible assumption) ?_
    | refine Keeps.of_fst (by with_reducible assumption) ?_
    | refine Keeps.of_snd (by with_reducible assumption) ?_
    | split

theorem usdoNext_keeps {q : List Instr} {u : Nat} {upload : Bool} {client : Nat} {toggle : Bool} {s : State} {f : Nat → State → State} (hs : Keeps q u s) (hf : ∀ s, Keeps q u s → ∀ k, Keeps q u (f k s)) :
    Keeps q u (usdoNext upload client toggle s f) := by
  unfold usdoNext
  repeat' first
    | with_reducible assumption
    | refine fun (s : State) (h : Keeps q u s) => ?_
    | refine fun _ => ?_
    | (lift_lets -underBinder; (intro x; clear_value x))
    | exact (‹KeptW q u (WRes.ok _)›).state
    | exact (‹KeptW q u (WRes.no _ _)›).state
    | with_reducible apply hf
    | with_reducible apply State.usdoAbort_keeps
    | with_reducible apply State.sessAbort_keeps
    | with_reducible apply State.setSess_keeps
    | with_reducible apply keeps_ite
    | with_reducible apply keptW_ok
    | with_reducible apply keptW_no
    | with_reducible apply keptO_next
    | with_reducible apply keptW_ite
    | with_reducible apply keptO_ite
    | refine Keeps.of_ok (by with_reducible assumption) ?_
    | refine Keeps.of_no (by with_reducible assumption) ?_
    | refine Keeps.of_fst (by with_reducible assumption) ?_
    | refine Keeps.of_snd (by with_reducible assumption) ?_
    | split

theorem execUsdoDownloadSegment_keeps {q : List Instr} {u : Nat} {client : Nat} {toggle : Bool} {data : List Byte} {last : Bool} {t : Nat} {s : State} (hs : Keeps q u s) :
    KeptO q u (execUsdoDownloadSegment client toggle data last t s) := by
  unfold execUsdoDownloadSegment
  repeat' first
    | with_reducible assumption
    | refine fun (s : State) (h : Keeps q u s) => ?_
    | refine fun _ => ?_
    | exact (‹KeptW q u (WRes.ok _)›).state
    | exact (‹KeptW q u (WRes.no _ _)›).state
    | with_reducible apply usdoFrame_keeps
    | with_reducible apply usdoNext_keeps
    | with_reducible apply usdoTake_keeps

theorem usdoGive_keeps {q : List Instr} {u : Nat} {k : Nat} {memErr : Bool} {room : Nat} {s : State} (hs : Keeps q u s) :
    Keeps q u (usdoGive k memErr room s) := by
  unfold usdoGive
  repeat' first
    | with_reducible assumption
    | (intro s; refine cut (p := Keeps q u (s : State)) ?_ ?_; (on_goal 2 => clear_value s; intro _); (on_goal 1 => try subst s))
    | (intro x; clear_value x)
    | (lift_lets -underBinder; (intro x; clear_value x))
    | exact (‹KeptW q u (WRes.ok _)›).state
    | exact (‹KeptW q u (WRes.no _ _)›).state
    | with_reducible apply State.sessAbort_keeps
    | with_reducible apply State.usdoSend_keeps
    | with_reducible apply State.setSess_keeps
    | with_reducible apply State.sessFree_keeps
    | with_reducible apply keeps_ite

theorem execUsdoUploadInit_keeps {q : List Instr} {u : Nat} {client : Nat} {svc : Nat} {index : Nat} {sub : Nat} {memErr : Bool} {t : Nat} {s : State} (hs : Keeps q u s) :
    KeptO q u (execUsdoUploadInit client svc index sub memErr t s) := by
  unfold execUsdoUploadInit
  repeat' first
    | with_reducible assumption
    | refine fun (s : State) (h : Keeps q u s) => ?_
    | refine fun _ => ?_
    | (intro s; refine cut (p := Keeps q u (s : State)) ?_ ?_; (on_goal 2 => clear_value s; intro _); (on_goal 1 => try subst s))
    | (lift_lets -underBinder; first | (intro s; refine cut (p := Keeps q u (s : State)) ?_ ?_; (on_goal 2 => clear_value s; intro _); (on_goal 1 => try subst s)) | (intro x; clear_value x))
    | exact (‹KeptW q u (WRes.ok _)›).state
    | exact (‹KeptW q u (WRes.no _ _)›).state
    | with_reducible apply usdoFrame_keeps
    | with_reducible apply usdoRequest_keeps
    | with_reducible apply State.usdoOpen_keeps
    | with_reducible apply State.sessAbort_keeps
    | with_reducible apply State.set_keeps
    | with_reducible apply State.setSess_keeps
    | with_reducible apply usdoGive_keeps
    | with_reducible apply State.usdoSend_keeps
    | with_reducible apply keeps_ite
    | with_reducible apply keptW_ok
    | with_reducible apply keptW_no
    | with_reducible apply keptO_next
    | with_reducible apply keptW_ite
    | with_reducible apply keptO_ite
    | refine Keeps.of_ok (by with_reducible assumption) ?_
    | refine Keeps.of_no (by with_reducible assumption) ?_
    | refine Keeps.of_fst (by with_reducible assumption) ?_
    | refine Keeps.of_snd (by with_reducible assumption) ?_
    | split

theorem execUsdoUploadSegment_keeps {q : List Instr} {u : Nat} {client : Nat} {toggle : Bool} {memErr : Bool} {t : Nat} {s : State} (hs : Keeps q u s) :
    KeptO q u (execUsdoUploadSegment client toggle memErr t s) := by
  unfold execUsdoUploadSegment
  repeat' first
    | with_reducible assumption
    | refine fun (s : State) (h : Keeps q u s) => ?_
    | refine fun _ => ?_
    | exact (‹KeptW q u (WRes.ok _)›).state
    | exact (‹KeptW q u (WRes.no _ _)›).state
    | with_reducible apply usdoFrame_keeps
    | with_reducible apply usdoNext_keeps
    | with_reducible apply usdoGive_keeps

theorem pdoWrite_keeps {q : List Instr} {u : Nat}  : ∀ {k : List (Nat × Nat × Nat)} {s : State} {bs : List Byte}, Keeps q u s →
    Keeps q u (pdoWrite k bs s) := by
  intro k
  induction k with
  | nil => intro s bs hs; exact hs
  | cons a k ih =>
    intro s bs hs
    unfold pdoWrite
    repeat' first
      | with_reducible assumption
      | with_reducible apply ih
      | exact (‹KeptW q u (WRes.ok _)›).state
      | exact (‹KeptW q u (WRes.no _ _)›).state
      | with_reducible apply netWrite_keeps
      | with_reducible apply State.inc_keeps
      | with_reducible apply State.hit_keeps
      | with_reducible apply keeps_ite
      | with_reducible apply keeps_ite_fst
      | with_reducible apply keeps_ite_snd
      | with_reducible apply keptW_ok
      | with_reducible apply keptW_no
      | with_reducible apply keptO_next
      | with_reducible apply keptW_ite
      | with_reducible apply keptO_ite
      | refine Keeps.of_ok (by with_reducible assumption) ?_
      | refine Keeps.of_no (by with_reducible assumption) ?_
      | refine Keeps.of_fst (by with_reducible assumption) ?_
      | refine Keeps.of_snd (by with_reducible assumption) ?_
      | split

theorem State.rpdoTake_keeps {q : List Instr} {u : Nat} {s : State} {p : Nat} {bytes : List Byte} (hs : Keeps q u s) :
    Keeps q u (State.rpdoTake s p bytes) := by
  unfold State.rpdoTake
  repeat' first
    | with_reducible assumption
    | (intro x; clear_value x)
    | (lift_lets -underBinder; (intro x; clear_value x))
    | exact (‹KeptW q u (WRes.ok _)›).state
    | exact (‹KeptW q u (WRes.no _ _)›).state
    | with_reducible apply State.hit_keeps
    | with_reducible apply State.setNet_keeps
    | with_reducible apply pdoWrite_keeps
    | with_reducible apply keeps_ite

theorem execRpdoRx_keeps {q : List Instr} {u : Nat} {p : Nat} {bytes : List Byte} {t : Nat} {s : State} (hs : Keeps q u s) :
    KeptO q u (execRpdoRx p bytes t s) := by
  unfold execRpdoRx
  repeat' first
    | with_reducible assumption
    | refine fun (s : State) (h : Keeps q u s) => ?_
    | refine fun _ => ?_
    | exact (‹KeptW q u (WRes.ok _)›).state
    | exact (‹KeptW q u (WRes.no _ _)›).state
    | with_reducible apply State.adv_keeps
    | with_reducible apply State.canHeard_keeps
    | with_reducible apply State.rpdoTake_keeps
    | with_reducible apply keeps_ite
    | with_reducible apply keptW_ok
    | with_reducible apply keptW_no
    | with_reducible apply keptO_next

theorem State.tpdoSpent_keeps {q : List Instr} {u : Nat} {s : State} {p : Nat} (hs : Keeps q u s) :
    Keeps q u (State.tpdoSpent s p) := by
  unfold State.tpdoSpent
  repeat' first
    | with_reducible assumption
    | (intro x; clear_value x)
    | (lift_lets -underBinder; (intro x; clear_value x))
    | exact (‹KeptW q u (WRes.ok _)›).state
    | exact (‹KeptW q u (WRes.no _ _)›).state
    | with_reducible apply keeps_ite
    | with_reducible apply keptW_ok
    | with_reducible apply keptW_no
    | with_reducible apply keptO_next
    | with_reducible apply keptW_ite
    | with_reducible apply keptO_ite
    | split
    | (with_reducible apply keeps_with; with_reducible assumption)

theorem State.tpdoSend_keeps {q : List Instr} {u : Nat} {s : State} {p : Nat} {full : Bool} (hs : Keeps q u s) :
    Keeps q u (State.tpdoSend s p full) := by
  unfold State.tpdoSend
  repeat' first
    | with_reducible assumption
    | refine fun (s : State) (h : Keeps q u s) => ?_
    | refine fun _ => ?_
    | (intro s; refine cut (p := Keeps q u (s : State)) ?_ ?_; (on_goal 2 => clear_value s; intro _); (on_goal 1 => try subst s))
    | (intro x; clear_value x)
    | (lift_lets -underBinder; (intro x; clear_value x))
    | exact (‹KeptW q u (WRes.ok _)›).state
    | exact (‹KeptW q u (WRes.no _ _)›).state
    | with_reducible apply State.tpdoSpent_keeps
    | with_reducible apply State.forAll_keeps
    | with_reducible apply State.inc_keeps
    | with_reducible apply State.canHit_keeps
    | with_reducible apply State.setNet_keeps
    | with_reducible apply State.canSend_keeps
    | with_reducible apply keeps_ite

theorem execTpdoTransmit_keeps {q : List Instr} {u : Nat} {p : Nat} {full : Bool} {t : Nat} {s : State} (hs : Keeps q u s) :
    KeptO q u (execTpdoTransmit p full t s) := by
  unfold execTpdoTransmit
  repeat' first
    | with_reducible assumption
    | exact (‹KeptW q u (WRes.ok _)›).state
    | exact (‹KeptW q u (WRes.no _ _)›).state
    | with_reducible apply State.adv_keeps
    | with_reducible apply State.tpdoSend_keeps
    | with_reducible apply keeps_ite
    | with_reducible apply keptW_ok
    | with_reducible apply keptW_no
    | with_reducible apply keptO_next

theorem State.tpdoMark_keeps {q : List Instr} {u : Nat} {s : State} {p : Nat} (hs : Keeps q u s) :
    Keeps q u (State.tpdoMark s p) := by
  unfold State.tpdoMark
  repeat' first
    | with_reducible assumption
    | (lift_lets -underBinder; (intro x; clear_value x))
    | exact (‹KeptW q u (WRes.ok _)›).state
    | exact (‹KeptW q u (WRes.no _ _)›).state
    | with_reducible apply State.setNet_keeps

theorem execTpdoEventTimer_keeps {q : List Instr} {u : Nat} {p : Nat} {full : Bool} {t : Nat} {s : State} (hs : Keeps q u s) :
    KeptO q u (execTpdoEventTimer p full t s) := by
  unfold execTpdoEventTimer
  repeat' first
    | with_reducible assumption
    | (lift_lets -underBinder; (intro s; refine cut (p := Keeps q u (s : State)) ?_ ?_; (on_goal 2 => clear_value s; intro _); (on_goal 1 => try subst s)))
    | exact (‹KeptW q u (WRes.ok _)›).state
    | exact (‹KeptW q u (WRes.no _ _)›).state
    | with_reducible apply State.adv_keeps
    | with_reducible apply State.tpdoMark_keeps
    | with_reducible apply State.tpdoSend_keeps
    | with_reducible apply keeps_ite
    | with_reducible apply keptW_ok
    | with_reducible apply keptW_no
    | with_reducible apply keptO_next
    | with_reducible apply keptW_ite
    | with_reducible apply keptO_ite

theorem State.tpdoSync_keeps {q : List Instr} {u : Nat} {s : State} {counter : Nat} {p : Nat} (hs : Keeps q u s) :
    Keeps q u (State.tpdoSync s counter p) := by
  unfold State.tpdoSync
  repeat' first
    | with_reducible assumption
    | (intro s; refine cut (p := Keeps q u (s : State)) ?_ ?_; (on_goal 2 => clear_value s; intro _); (on_goal 1 => try subst s))
    | (intro x; clear_value x)
    | (lift_lets -underBinder; (intro x; clear_value x))
    | exact (‹KeptW q u (WRes.ok _)›).state
    | exact (‹KeptW q u (WRes.no _ _)›).state
    | with_reducible apply State.tpdoMark_keeps
    | with_reducible apply State.hit_keeps
    | with_reducible apply State.setNet_keeps
    | with_reducible apply keeps_ite

theorem State.syncPdos_keeps {q : List Instr} {u : Nat} {s : State} {counter : Nat} (hs : Keeps q u s) :
    Keeps q u (State.syncPdos s counter) := by
  unfold State.syncPdos
  repeat' first
    | with_reducible assumption
    | refine fun (s : State) (h : Keeps q u s) => ?_
    | refine fun _ => ?_
    | (intro s; refine cut (p := Keeps q u (s : State)) ?_ ?_; (on_goal 2 => clear_value s; intro _); (on_goal 1 => try subst s))
    | (intro x; clear_value x)
    | (lift_lets -underBinder; (intro x; clear_value x))
    | exact (‹KeptW q u (WRes.ok _)›).state
    | exact (‹KeptW q u (WRes.no _ _)›).state
    | with_reducible apply keeps_foldl
    | refine fun (s : State) (h : Keeps q u s) => ?_
    | refine fun _ => ?_
    | with_reducible apply State.setNet_keeps
    | with_reducible apply pdoWrite_keeps
    | with_reducible apply State.forAll_keeps
    | with_reducible apply State.tpdoSync_keeps
    | with_reducible apply keeps_ite

theorem State.syncLatch_keeps {q : List Instr} {u : Nat} {s : State} (hs : Keeps q u s) :
    Keeps q u (State.syncLatch s) := by
  unfold State.syncLatch
  repeat' first
    | with_reducible assumption
    | (intro s; refine cut (p := Keeps q u (s : State)) ?_ ?_; (on_goal 2 => clear_value s; intro _); (on_goal 1 => try subst s))
    | (lift_lets -underBinder; (intro x; clear_value x))
    | exact (‹KeptW q u (WRes.ok _)›).state
    | exact (‹KeptW q u (WRes.no _ _)›).state
    | with_reducible apply State.setNet_keeps
    | with_reducible apply State.set_keeps
    | with_reducible apply State.inc_keeps

theorem execSyncRx_keeps {q : List Instr} {u : Nat} {counter : Nat} {t : Nat} {s : State} (hs : Keeps q u s) :
    KeptO q u (execSyncRx counter t s) := by
  unfold execSyncRx
  repeat' first
    | with_reducible assumption
    | refine fun (s : State) (h : Keeps q u s) => ?_
    | refine fun _ => ?_
    | exact (‹KeptW q u (WRes.ok _)›).state
    | exact (‹KeptW q u (WRes.no _ _)›).state
    | with_reducible apply State.adv_keeps
    | with_reducible apply State.canHeard_keeps
    | with_reducible apply State.syncLatch_keeps
    | with_reducible apply State.syncPdos_keeps
    | with_reducible apply keeps_ite
    | with_reducible apply keptW_ok
    | with_reducible apply keptW_no
    | with_reducible apply keptO_next

theorem State.timeRtc_keeps {q : List Instr} {u : Nat} {s : State} {ms : Nat} {days : Nat} (hs : Keeps q u s) :
    Keeps q u (State.timeRtc s ms days) := by
  unfold State.timeRtc
  repeat' first
    | with_reducible assumption
    | exact (‹KeptW q u (WRes.ok _)›).state
    | exact (‹KeptW q u (WRes.no _ _)›).state
    | with_reducible apply State.adv_keeps
    | with_reducible apply State.rtcSet_keeps
    | with_reducible apply keeps_ite

theorem execTimeRx_keeps {q : List Instr} {u : Nat} {ms : Nat} {days : Nat} {t : Nat} {s : State} (hs : Keeps q u s) :
    KeptO q u (execTimeRx ms days t s) := by
  unfold execTimeRx
  repeat' first
    | with_reducible assumption
    | refine fun (s : State) (h : Keeps q u s) => ?_
    | refine fun _ => ?_
    | (lift_lets -underBinder; (intro x; clear_value x))
    | exact (‹KeptW q u (WRes.ok _)›).state
    | exact (‹KeptW q u (WRes.no _ _)›).state
    | with_reducible apply State.adv_keeps
    | with_reducible apply State.canHeard_keeps
    | with_reducible apply State.set_keeps
    | with_reducible apply State.timeRtc_keeps
    | with_reducible apply keeps_ite
    | with_reducible apply keptW_ok
    | with_reducible apply keptW_no
    | with_reducible apply keptO_next

end Sys2Proof.Machine
end

