-- ==== Sys2Proof/Laws/KeepsInject.lean ====
section
/-! SUPPORT. What each operation of Machine/Inject.lean keeps (Laws/Keeps.lean). -/
namespace Sys2Proof.Machine

theorem leaves_keeps {q : List Instr} {u : Nat} {o : Host.Outcome State Fault Refusal} {s : State} (hs : Keeps q u s)
    (ho : KeptO q u o) : Keeps q u (leaves o s) := by
  cases o with
  | next s' => exact ho.next _ rfl
  | fault _ => exact hs
  | refused _ => exact hs

theorem State.forceStatus_keeps {q : List Instr} {u : Nat} {s : State} {n : Nat} {set : Nat} {clr : Nat} (hs : Keeps q u s) :
    Keeps q u (State.forceStatus s n set clr) := by
  unfold State.forceStatus
  repeat' first
    | with_reducible assumption
    | with_reducible apply leaves_keeps
    | with_reducible apply execStatusRx_keeps

theorem forceA_keeps {q_ : List Instr} {u_ : Nat} {point : Nat} {u : Nat} {a : Nat} {b : Nat} {s : State} (hs : Keeps q_ u_ s) :
    Keeps q_ u_ (forceA point u a b s) := by
  unfold forceA
  repeat' first
    | with_reducible assumption
    | (lift_lets -underBinder; (intro x; clear_value x))
    | with_reducible apply leaves_keeps
    | with_reducible apply execRefLoss_keeps
    | with_reducible apply State.setClk_keeps
    | with_reducible apply State.clockInhibitOn_keeps
    | with_reducible apply execPllUnlock_keeps
    | with_reducible apply execDivFault_keeps
    | with_reducible apply execPcieRefLoss_keeps
    | with_reducible apply execRtcXtalLoss_keeps
    | with_reducible apply execDelayLineCalDone_keeps
    | with_reducible apply execCellRxError_keeps
    | with_reducible apply execRingInputDown_keeps
    | with_reducible apply State.echoMissed_keeps
    | with_reducible apply State.holdoverEnter_keeps
    | with_reducible apply State.fjHit_keeps
    | with_reducible apply execIntakeReadFail_keeps
    | with_reducible apply execSlotFetchError_keeps
    | with_reducible apply State.unpackLine_keeps
    | with_reducible apply State.bsEcc_keeps
    | with_reducible apply execBsTrainDone_keeps
    | with_reducible apply keeps_ite
    | with_reducible apply keptW_ok
    | with_reducible apply keptW_no
    | with_reducible apply keptO_next
    | with_reducible apply keptW_ite
    | with_reducible apply keptO_ite
    | refine Keeps.of_ok (by with_reducible assumption) ?_
    | refine Keeps.of_no (by with_reducible assumption) ?_
    | refine Keeps.of_fst (by with_reducible assumption) ?_
    | refine Keeps.of_snd (by with_reducible assumption) ?_
    | split

theorem forceB_keeps {q_ : List Instr} {u_ : Nat} {point : Nat} {u : Nat} {a : Nat} {s : State} (hs : Keeps q_ u_ s) :
    Keeps q_ u_ (forceB point u a s) := by
  unfold forceB
  repeat' first
    | with_reducible assumption
    | with_reducible apply State.piGlitch_keeps
    | with_reducible apply State.fastEdge_keeps
    | with_reducible apply State.piError_keeps
    | with_reducible apply State.hallInvalid_keeps
    | with_reducible apply State.wireEpisode_keeps
    | with_reducible apply keeps_ite
    | with_reducible apply keptW_ok
    | with_reducible apply keptW_no
    | with_reducible apply keptO_next
    | with_reducible apply keptW_ite
    | with_reducible apply keptO_ite
    | refine Keeps.of_ok (by with_reducible assumption) ?_
    | refine Keeps.of_no (by with_reducible assumption) ?_
    | refine Keeps.of_fst (by with_reducible assumption) ?_
    | refine Keeps.of_snd (by with_reducible assumption) ?_
    | split

theorem State.forceFormat_keeps {q : List Instr} {u : Nat} {s : State} {plane : Nat} {a : Nat} {b : Nat} (hs : Keeps q u s) :
    Keeps q u (State.forceFormat s plane a b) := by
  unfold State.forceFormat
  repeat' first
    | with_reducible assumption
    | (intro x; clear_value x)
    | (lift_lets -underBinder; (intro x; clear_value x))
    | with_reducible apply State.formatError_keeps
    | with_reducible apply keeps_ite
    | with_reducible apply keptW_ok
    | with_reducible apply keptW_no
    | with_reducible apply keptO_next
    | with_reducible apply keptW_ite
    | with_reducible apply keptO_ite
    | refine Keeps.of_ok (by with_reducible assumption) ?_
    | refine Keeps.of_no (by with_reducible assumption) ?_
    | refine Keeps.of_fst (by with_reducible assumption) ?_
    | refine Keeps.of_snd (by with_reducible assumption) ?_
    | split

theorem State.forceLate_keeps {q : List Instr} {u : Nat} {s : State} {n : Nat} (hs : Keeps q u s) :
    Keeps q u (State.forceLate s n) := by
  unfold State.forceLate
  repeat' first
    | with_reducible assumption
    | with_reducible apply State.bandLate_keeps
    | with_reducible apply keeps_ite
    | with_reducible apply keptW_ok
    | with_reducible apply keptW_no
    | with_reducible apply keptO_next
    | with_reducible apply keptW_ite
    | with_reducible apply keptO_ite
    | refine Keeps.of_ok (by with_reducible assumption) ?_
    | refine Keeps.of_no (by with_reducible assumption) ?_
    | refine Keeps.of_fst (by with_reducible assumption) ?_
    | refine Keeps.of_snd (by with_reducible assumption) ?_
    | split

theorem State.forceAbsent_keeps {q : List Instr} {u : Nat} {s : State} {n : Nat} (hs : Keeps q u s) :
    Keeps q u (State.forceAbsent s n) := by
  unfold State.forceAbsent
  repeat' first
    | with_reducible assumption
    | (intro s; refine cut (p := Keeps q u (s : State)) ?_ ?_; (on_goal 2 => clear_value s; intro _); (on_goal 1 => try subst s))
    | (intro x; clear_value x)
    | (lift_lets -underBinder; (intro x; clear_value x))
    | with_reducible apply State.setLodge_keeps
    | with_reducible apply State.releaseLine_keeps
    | with_reducible apply keeps_ite
    | with_reducible apply keptW_ok
    | with_reducible apply keptW_no
    | with_reducible apply keptO_next
    | with_reducible apply keptW_ite
    | with_reducible apply keptO_ite
    | refine Keeps.of_ok (by with_reducible assumption) ?_
    | refine Keeps.of_no (by with_reducible assumption) ?_
    | refine Keeps.of_fst (by with_reducible assumption) ?_
    | refine Keeps.of_snd (by with_reducible assumption) ?_
    | split

theorem forceC_keeps {q_ : List Instr} {u_ : Nat} {point : Nat} {u : Nat} {a : Nat} {b : Nat} {s : State} (hs : Keeps q_ u_ s) :
    Keeps q_ u_ (forceC point u a b s) := by
  unfold forceC
  repeat' first
    | with_reducible assumption
    | with_reducible apply State.forceFormat_keeps
    | with_reducible apply State.forceLate_keeps
    | with_reducible apply State.releaseLine_keeps
    | with_reducible apply State.forceAbsent_keeps
    | with_reducible apply State.predStallNow_keeps
    | with_reducible apply State.predUpdate_keeps
    | with_reducible apply leaves_keeps
    | with_reducible apply execNakRx_keeps
    | with_reducible apply execRetError_keeps
    | with_reducible apply State.headSilent_keeps
    | with_reducible apply State.forceStatus_keeps
    | with_reducible apply keeps_ite
    | with_reducible apply keptW_ok
    | with_reducible apply keptW_no
    | with_reducible apply keptO_next
    | with_reducible apply keptW_ite
    | with_reducible apply keptO_ite
    | refine Keeps.of_ok (by with_reducible assumption) ?_
    | refine Keeps.of_no (by with_reducible assumption) ?_
    | refine Keeps.of_fst (by with_reducible assumption) ?_
    | refine Keeps.of_snd (by with_reducible assumption) ?_
    | split

theorem State.forceReading_keeps {q : List Instr} {u : Nat} {s : State} {g : Nat} {a : Nat} (hs : Keeps q u s) :
    Keeps q u (State.forceReading s g a) := by
  unfold State.forceReading
  repeat' first
    | with_reducible assumption
    | (lift_lets -underBinder; (intro s; refine cut (p := Keeps q u (s : State)) ?_ ?_; (on_goal 2 => clear_value s; intro _); (on_goal 1 => try subst s)))
    | with_reducible apply State.pgResult_keeps
    | with_reducible apply keeps_ite

theorem State.forceOver_keeps {q : List Instr} {u : Nat} {s : State} {g : Nat} {a : Nat} (hs : Keeps q u s) :
    Keeps q u (State.forceOver s g a) := by
  unfold State.forceOver
  repeat' first
    | with_reducible assumption
    | (intro x; clear_value x)
    | (lift_lets -underBinder; (intro x; clear_value x))
    | with_reducible apply State.setPg_keeps
    | with_reducible apply State.pgOver_keeps
    | with_reducible apply keeps_ite

theorem State.forceHeater_keeps {q : List Instr} {u : Nat} {s : State} {n : Nat} {a : Nat} (hs : Keeps q u s) :
    Keeps q u (State.forceHeater s n a) := by
  unfold State.forceHeater
  repeat' first
    | with_reducible assumption
    | (intro x; clear_value x)
    | (lift_lets -underBinder; (intro x; clear_value x))
    | with_reducible apply State.resistance_keeps
    | with_reducible apply State.heaterResult_keeps
    | with_reducible apply keeps_ite

theorem forceD_keeps {q_ : List Instr} {u_ : Nat} {point : Nat} {u : Nat} {a : Nat} {s : State} (hs : Keeps q_ u_ s) :
    Keeps q_ u_ (forceD point u a s) := by
  unfold forceD
  repeat' first
    | with_reducible assumption
    | (lift_lets -underBinder; (intro x; clear_value x))
    | with_reducible apply State.forceReading_keeps
    | with_reducible apply State.setPg_keeps
    | with_reducible apply State.pgStale_keeps
    | with_reducible apply State.pgFault_keeps
    | with_reducible apply State.forceOver_keeps
    | with_reducible apply State.forceHeater_keeps
    | with_reducible apply State.refResult_keeps
    | with_reducible apply State.tempResult_keeps
    | with_reducible apply State.tempStale_keeps
    | with_reducible apply State.forceStatus_keeps
    | with_reducible apply State.recFail_keeps
    | with_reducible apply State.loseStripes_keeps
    | with_reducible apply keeps_ite
    | with_reducible apply keptW_ok
    | with_reducible apply keptW_no
    | with_reducible apply keptO_next
    | with_reducible apply keptW_ite
    | with_reducible apply keptO_ite
    | refine Keeps.of_ok (by with_reducible assumption) ?_
    | refine Keeps.of_no (by with_reducible assumption) ?_
    | refine Keeps.of_fst (by with_reducible assumption) ?_
    | refine Keeps.of_snd (by with_reducible assumption) ?_
    | split

theorem State.forceCal_keeps {q : List Instr} {u : Nat} {s : State} {c : Nat} (hs : Keeps q u s) :
    Keeps q u (State.forceCal s c) := by
  unfold State.forceCal
  repeat' first
    | with_reducible assumption
    | with_reducible apply State.setGrant_keeps
    | with_reducible apply State.calPoint_keeps
    | with_reducible apply State.senseGrant_keeps
    | with_reducible apply keeps_ite
    | with_reducible apply keptW_ok
    | with_reducible apply keptW_no
    | with_reducible apply keptO_next
    | with_reducible apply keptW_ite
    | with_reducible apply keptO_ite
    | refine Keeps.of_ok (by with_reducible assumption) ?_
    | refine Keeps.of_no (by with_reducible assumption) ?_
    | refine Keeps.of_fst (by with_reducible assumption) ?_
    | refine Keeps.of_snd (by with_reducible assumption) ?_
    | split

theorem State.forceCut_keeps {q : List Instr} {u : Nat} {s : State} {k : Nat} {c : Nat} (hs : Keeps q u s) :
    Keeps q u (State.forceCut s k c) := by
  unfold State.forceCut
  repeat' first
    | with_reducible assumption
    | with_reducible apply State.holdCut_keeps
    | with_reducible apply keeps_ite
    | with_reducible apply keptW_ok
    | with_reducible apply keptW_no
    | with_reducible apply keptO_next
    | with_reducible apply keptW_ite
    | with_reducible apply keptO_ite
    | refine Keeps.of_ok (by with_reducible assumption) ?_
    | refine Keeps.of_no (by with_reducible assumption) ?_
    | refine Keeps.of_fst (by with_reducible assumption) ?_
    | refine Keeps.of_snd (by with_reducible assumption) ?_
    | split

theorem forceE_keeps {q_ : List Instr} {u_ : Nat} {point : Nat} {u : Nat} {a : Nat} {b : Nat} {s : State} (hs : Keeps q_ u_ s) :
    Keeps q_ u_ (forceE point u a b s) := by
  unfold forceE
  repeat' first
    | with_reducible assumption
    | (lift_lets -underBinder; (intro s; refine cut (p := Keeps q_ u_ (s : State)) ?_ ?_; (on_goal 2 => clear_value s; intro _); (on_goal 1 => try subst s)))
    | with_reducible apply State.convLate_keeps
    | with_reducible apply State.forceCal_keeps
    | with_reducible apply State.forceCut_keeps
    | with_reducible apply leaves_keeps
    | with_reducible apply execRefFault_keeps
    | with_reducible apply State.bandgapCheck_keeps
    | with_reducible apply execQspiOpDone_keeps
    | with_reducible apply keeps_ite
    | with_reducible apply keptW_ok
    | with_reducible apply keptW_no
    | with_reducible apply keptO_next
    | with_reducible apply keptW_ite
    | with_reducible apply keptO_ite
    | refine Keeps.of_ok (by with_reducible assumption) ?_
    | refine Keeps.of_no (by with_reducible assumption) ?_
    | refine Keeps.of_fst (by with_reducible assumption) ?_
    | refine Keeps.of_snd (by with_reducible assumption) ?_
    | split

theorem State.forceHall_keeps {q : List Instr} {u : Nat} {s : State} {a : Nat} (hs : Keeps q u s) :
    Keeps q u (State.forceHall s a) := by
  unfold State.forceHall
  repeat' first
    | with_reducible assumption
    | (lift_lets -underBinder; (intro x; clear_value x))
    | with_reducible apply State.setDs_keeps
    | with_reducible apply State.hit_keeps
    | with_reducible apply State.bdSync_keeps
    | with_reducible apply keeps_ite

theorem forceF_keeps {q_ : List Instr} {u_ : Nat} {point : Nat} {u : Nat} {a : Nat} {s : State} (hs : Keeps q_ u_ s) :
    Keeps q_ u_ (forceF point u a s) := by
  unfold forceF
  repeat' first
    | with_reducible assumption
    | with_reducible apply State.followOut_keeps
    | with_reducible apply leaves_keeps
    | with_reducible apply execFltGlitch_keeps
    | with_reducible apply execOcTrip_keeps
    | with_reducible apply State.stageFault_keeps
    | with_reducible apply State.lagOut_keeps
    | with_reducible apply State.forceHall_keeps
    | with_reducible apply State.overLimit_keeps
    | with_reducible apply keeps_ite
    | with_reducible apply keptW_ok
    | with_reducible apply keptW_no
    | with_reducible apply keptO_next
    | with_reducible apply keptW_ite
    | with_reducible apply keptO_ite
    | refine Keeps.of_ok (by with_reducible assumption) ?_
    | refine Keeps.of_no (by with_reducible assumption) ?_
    | refine Keeps.of_fst (by with_reducible assumption) ?_
    | refine Keeps.of_snd (by with_reducible assumption) ?_
    | split

theorem forceG_keeps {q_ : List Instr} {u_ : Nat} {point : Nat} {u : Nat} {s : State} (hs : Keeps q_ u_ s) :
    Keeps q_ u_ (forceG point u s) := by
  unfold forceG
  repeat' first
    | with_reducible assumption
    | with_reducible apply State.busOff_keeps
    | with_reducible apply State.rxOverrun_keeps
    | with_reducible apply State.hbLoss_keeps
    | with_reducible apply State.rpdoLate_keeps
    | with_reducible apply State.syncLoss_keeps
    | with_reducible apply State.sessTimeout_keeps
    | with_reducible apply keeps_ite
    | with_reducible apply keeps_ite_fst
    | with_reducible apply keptW_ok
    | with_reducible apply keptW_no
    | with_reducible apply keptO_next
    | with_reducible apply keptW_ite
    | with_reducible apply keptO_ite
    | refine Keeps.of_ok (by with_reducible assumption) ?_
    | refine Keeps.of_no (by with_reducible assumption) ?_
    | refine Keeps.of_fst (by with_reducible assumption) ?_
    | refine Keeps.of_snd (by with_reducible assumption) ?_
    | split

theorem State.forceSurge_keeps {q : List Instr} {u : Nat} {s : State} {a : Nat} (hs : Keeps q u s) :
    Keeps q u (State.forceSurge s a) := by
  unfold State.forceSurge
  repeat' first
    | with_reducible assumption
    | (intro x; clear_value x)
    | (lift_lets -underBinder; (intro x; clear_value x))
    | with_reducible apply State.setSupply_keeps
    | with_reducible apply State.surge_keeps
    | with_reducible apply keeps_ite

theorem forceH_keeps {q_ : List Instr} {u_ : Nat} {point : Nat} {u : Nat} {a : Nat} {b : Nat} {s : State} (hs : Keeps q_ u_ s) :
    Keeps q_ u_ (forceH point u a b s) := by
  unfold forceH
  repeat' first
    | with_reducible assumption
    | with_reducible apply leaves_keeps
    | with_reducible apply execBusWarnTrip_keeps
    | with_reducible apply State.resetEvent_keeps
    | with_reducible apply State.forceSurge_keeps
    | with_reducible apply State.suPut_keeps
    | with_reducible apply State.suHit_keeps
    | with_reducible apply State.journal_keeps
    | with_reducible apply State.railChange_keeps
    | with_reducible apply State.curfewSync_keeps
    | with_reducible apply State.highSync_keeps
    | with_reducible apply State.dieShut_keeps
    | with_reducible apply execDieTrip_keeps
    | with_reducible apply execFireInhibitAssert_keeps
    | with_reducible apply execCellRemoved_keeps
    | with_reducible apply State.chargeLate_keeps
    | with_reducible apply keeps_ite
    | with_reducible apply keptW_ok
    | with_reducible apply keptW_no
    | with_reducible apply keptO_next
    | with_reducible apply keptW_ite
    | with_reducible apply keptO_ite
    | refine Keeps.of_ok (by with_reducible assumption) ?_
    | refine Keeps.of_no (by with_reducible assumption) ?_
    | refine Keeps.of_fst (by with_reducible assumption) ?_
    | refine Keeps.of_snd (by with_reducible assumption) ?_
    | split

theorem State.forceWeak_keeps {q : List Instr} {u : Nat} {s : State} {r : Nat} (hs : Keeps q u s) :
    Keeps q u (State.forceWeak s r) := by
  unfold State.forceWeak
  repeat' first
    | with_reducible assumption
    | (intro s; refine cut (p := Keeps q u (s : State)) ?_ ?_; (on_goal 2 => clear_value s; intro _); (on_goal 1 => try subst s))
    | (lift_lets -underBinder; (intro x; clear_value x))
    | with_reducible apply State.setB_keeps
    | with_reducible apply State.inc_keeps
    | with_reducible apply State.journal_keeps
    | with_reducible apply State.btHit_keeps
    | with_reducible apply keeps_ite

theorem State.forceCrc_keeps {q : List Instr} {u : Nat} {s : State} {k : Nat} (hs : Keeps q u s) :
    Keeps q u (State.forceCrc s k) := by
  unfold State.forceCrc
  repeat' first
    | with_reducible assumption
    | (lift_lets -underBinder; (intro x; clear_value x))
    | with_reducible apply State.setF_keeps
    | with_reducible apply State.btHit_keeps
    | with_reducible apply keeps_ite

theorem forceI_keeps {q_ : List Instr} {u_ : Nat} {point : Nat} {u : Nat} {a : Nat} {b : Nat} {s : State} (hs : Keeps q_ u_ s) :
    Keeps q_ u_ (forceI point u a b s) := by
  unfold forceI
  repeat' first
    | with_reducible assumption
    | with_reducible apply State.forceWeak_keeps
    | with_reducible apply State.forceCrc_keeps
    | with_reducible apply State.rejectImage_keeps
    | with_reducible apply leaves_keeps
    | with_reducible apply execQspiOpDone_keeps
    | with_reducible apply State.resetEvent_keeps
    | with_reducible apply State.inc_keeps
    | with_reducible apply State.setB_keeps
    | with_reducible apply execDmaAccessFail_keeps
    | with_reducible apply keeps_ite
    | with_reducible apply keptW_ok
    | with_reducible apply keptW_no
    | with_reducible apply keptO_next
    | with_reducible apply keptW_ite
    | with_reducible apply keptO_ite
    | refine Keeps.of_ok (by with_reducible assumption) ?_
    | refine Keeps.of_no (by with_reducible assumption) ?_
    | refine Keeps.of_fst (by with_reducible assumption) ?_
    | refine Keeps.of_snd (by with_reducible assumption) ?_
    | split

theorem State.force_keeps {q_ : List Instr} {u_ : Nat} {s : State} {point : Nat} {u : Nat} {a : Nat} {b : Nat} (hs : Keeps q_ u_ s) :
    Keeps q_ u_ (State.force s point u a b) := by
  unfold State.force
  repeat' first
    | with_reducible assumption
    | with_reducible apply forceA_keeps
    | with_reducible apply forceB_keeps
    | with_reducible apply forceC_keeps
    | with_reducible apply forceD_keeps
    | with_reducible apply forceE_keeps
    | with_reducible apply forceF_keeps
    | with_reducible apply forceG_keeps
    | with_reducible apply forceH_keeps
    | with_reducible apply forceI_keeps
    | with_reducible apply keeps_ite

theorem State.markInjected_keeps {q : List Instr} {u : Nat} {s : State} {n : Nat} (hs : Keeps q u s) :
    Keeps q u (State.markInjected s n) := by
  unfold State.markInjected
  repeat' first
    | with_reducible assumption
    | (lift_lets -underBinder; (intro x; clear_value x))
    | with_reducible apply State.setEvs_keeps

theorem State.fiActive_keeps {q : List Instr} {u : Nat} {s : State} (hs : Keeps q u s) :
    Keeps q u (State.fiActive s) := by
  unfold State.fiActive
  repeat' first
    | with_reducible assumption
    | (lift_lets -underBinder; (intro s; refine cut (p := Keeps q u (s : State)) ?_ ?_; (on_goal 2 => clear_value s; intro _); (on_goal 1 => try subst s)))
    | with_reducible apply State.setB_keeps
    | with_reducible apply State.raise_keeps
    | with_reducible apply keeps_ite

theorem State.fiEnd_keeps {q : List Instr} {u : Nat} {s : State} (hs : Keeps q u s) :
    Keeps q u (State.fiEnd s) := by
  unfold State.fiEnd
  repeat' first
    | with_reducible assumption
    | with_reducible apply State.fiOver_keeps
    | with_reducible apply State.raise_keeps
    | with_reducible apply keeps_ite

theorem State.fiForce_keeps {q : List Instr} {u : Nat} {s : State} {a : Nat} {b : Nat} {real : Bool} (hs : Keeps q u s) :
    Keeps q u (State.fiForce s a b real) := by
  unfold State.fiForce
  repeat' first
    | with_reducible assumption
    | (intro s; refine cut (p := Keeps q u (s : State)) ?_ ?_; (on_goal 2 => clear_value s; intro _); (on_goal 1 => try subst s))
    | (lift_lets -underBinder; (intro s; refine cut (p := Keeps q u (s : State)) ?_ ?_; (on_goal 2 => clear_value s; intro _); (on_goal 1 => try subst s)))
    | with_reducible apply State.fiActive_keeps
    | with_reducible apply State.inc_keeps
    | with_reducible apply State.setB_keeps
    | with_reducible apply State.fiEnd_keeps
    | with_reducible apply State.force_keeps
    | with_reducible apply State.markInjected_keeps
    | with_reducible apply keeps_ite
    | with_reducible apply keptW_ok
    | with_reducible apply keptW_no
    | with_reducible apply keptO_next
    | with_reducible apply keptW_ite
    | with_reducible apply keptO_ite
    | split
    | (with_reducible apply keeps_with; with_reducible assumption)

theorem execFiInject_keeps {q : List Instr} {u : Nat} {a : Nat} {b : Nat} {real : Bool} {t : Nat} {s : State} (hs : Keeps q u s) :
    KeptO q u (execFiInject a b real t s) := by
  unfold execFiInject
  repeat' first
    | with_reducible assumption
    | (lift_lets -underBinder; (intro s; refine cut (p := Keeps q u (s : State)) ?_ ?_; (on_goal 2 => clear_value s; intro _); (on_goal 1 => try subst s)))
    | with_reducible apply State.adv_keeps
    | with_reducible apply State.force_keeps
    | with_reducible apply State.fiForce_keeps
    | with_reducible apply keeps_ite
    | with_reducible apply keptW_ok
    | with_reducible apply keptW_no
    | with_reducible apply keptO_next
    | with_reducible apply keptW_ite
    | with_reducible apply keptO_ite

end Sys2Proof.Machine
end

