-- ==== Sys2Proof/Laws/KeepsDispatch.lean ====
section
/-! SUPPORT. What each operation of Machine/Dispatch.lean keeps (Laws/Keeps.lean). -/
namespace Sys2Proof.Machine

theorem exec_keeps {q : List Instr} {u : Nat} {i : Instr} {s : State} (hs : Keeps q u s) :
    KeptO q u (exec i s) := by
  unfold exec
  repeat' first
    | with_reducible assumption
    | with_reducible apply dictWrite_keeps
    | with_reducible apply execDictWrite_keeps
    | with_reducible apply execRcReadClear_keeps
    | with_reducible apply execClrViewWrite_keeps
    | with_reducible apply execDictRead64_keeps
    | with_reducible apply execDictWrite64_keeps
    | with_reducible apply execPllLock_keeps
    | with_reducible apply execCkPtLoad_keeps
    | with_reducible apply execCkSnapshot_keeps
    | with_reducible apply execClrInhibit_keeps
    | with_reducible apply execDlFreeze_keeps
    | with_reducible apply execRefLoss_keeps
    | with_reducible apply execRefReturn_keeps
    | with_reducible apply execHoldoverExpired_keeps
    | with_reducible apply execPllUnlock_keeps
    | with_reducible apply execDivFault_keeps
    | with_reducible apply execLockLossTimeout_keeps
    | with_reducible apply execPcieRefLoss_keeps
    | with_reducible apply execRtcXtalLoss_keeps
    | with_reducible apply execRingInputUp_keeps
    | with_reducible apply execRingInputDown_keeps
    | with_reducible apply execElectionStart_keeps
    | with_reducible apply execReform_keeps
    | with_reducible apply execElectCellRx_keeps
    | with_reducible apply execEnumCellRx_keeps
    | with_reducible apply execRosterCellRx_keeps
    | with_reducible apply execTimeCellLaunch_keeps
    | with_reducible apply execTimeCellRx_keeps
    | with_reducible apply execRingHoldoverEnter_keeps
    | with_reducible apply execRingHoldoverExpiry_keeps
    | with_reducible apply execRingBreakDetect_keeps
    | with_reducible apply execEchoLaunch_keeps
    | with_reducible apply execEchoCellRx_keeps
    | with_reducible apply execEchoMarkRx_keeps
    | with_reducible apply execEchoTimeout_keeps
    | with_reducible apply execCellRxError_keeps
    | with_reducible apply State.refuse_keeps
    | with_reducible apply execActionCellRx_keeps
    | with_reducible apply execSlowCellRx_keeps
    | with_reducible apply execSlowCellRepeat_keeps
    | with_reducible apply execSlowRxExpiry_keeps
    | with_reducible apply execFaultCellRx_keeps
    | with_reducible apply execActionFieldWrite_keeps
    | with_reducible apply execActionEnterLocal_keeps
    | with_reducible apply execActionEnterRing_keeps
    | with_reducible apply execActionCancel_keeps
    | with_reducible apply execProposeTimeout_keeps
    | with_reducible apply execReservedExpiry_keeps
    | with_reducible apply execActionTrigger_keeps
    | with_reducible apply execPiEdgeCounted_keeps
    | with_reducible apply execPiHallChange_keeps
    | with_reducible apply State.piGlitch_keeps
    | with_reducible apply execPiGlitch_keeps
    | with_reducible apply execPiZEdge_keeps
    | with_reducible apply execPiWireDisagree_keeps
    | with_reducible apply execPiInvalidHall_keeps
    | with_reducible apply execPiSpeedUpdate_keeps
    | with_reducible apply execPiStopped_keeps
    | with_reducible apply execPiCountWrite_keeps
    | with_reducible apply execPiConfigWrite_keeps
    | with_reducible apply execClrFault_keeps
    | with_reducible apply execClrUncertain_keeps
    | with_reducible apply execMsEnable_keeps
    | with_reducible apply execMsDisable_keeps
    | with_reducible apply execRelayPulseEnd_keeps
    | with_reducible apply execInTailWrite_keeps
    | with_reducible apply execInRun_keeps
    | with_reducible apply execWaybillSlotRead_keeps
    | with_reducible apply execSlotFetchError_keeps
    | with_reducible apply execJobOpen_keeps
    | with_reducible apply execJobTableReadDone_keeps
    | with_reducible apply execBand_keeps
    | with_reducible apply execBandCopyDone_keeps
    | with_reducible apply execIntakeReadFail_keeps
    | with_reducible apply execJobClose_keeps
    | with_reducible apply execRepeatJob_keeps
    | with_reducible apply execNop_keeps
    | with_reducible apply execRelease_keeps
    | with_reducible apply execWaitJobEnd_keeps
    | with_reducible apply execWaitSpaceEnd_keeps
    | with_reducible apply execResume_keeps
    | with_reducible apply execSkip_keeps
    | with_reducible apply execInJobAbort_keeps
    | with_reducible apply execJobEnterRunning_keeps
    | with_reducible apply execPauseStep_keeps
    | with_reducible apply execBsTrainDone_keeps
    | with_reducible apply execBar2Access_keeps
    | with_reducible apply execUnpackerLine_keeps
    | with_reducible apply State.screenLine_keeps
    | with_reducible apply execScreenLine_keeps
    | with_reducible apply execScrCommitLine_keeps
    | with_reducible apply execScrCommitBand_keeps
    | with_reducible apply execScrCopyDone_keeps
    | with_reducible apply execScrMaskCmdMask_keeps
    | with_reducible apply execScrMaskCmdUnmask_keeps
    | with_reducible apply execScrCompWrite_keeps
    | with_reducible apply State.lodgeLine_keeps
    | with_reducible apply execLodgeLine_keeps
    | with_reducible apply execLineRelease_keeps
    | with_reducible apply execSlowHoldExpiry_keeps
    | with_reducible apply execLgSlowHost_keeps
    | with_reducible apply execLgControl_keeps
    | with_reducible apply execLineFix_keeps
    | with_reducible apply execPredStall_keeps
    | with_reducible apply execRotationStart_keeps
    | with_reducible apply State.rotationEnd_keeps
    | with_reducible apply execRotationEnd_keeps
    | with_reducible apply State.arm_keeps
    | with_reducible apply execArm_keeps
    | with_reducible apply State.disarm_keeps
    | with_reducible apply execDisarm_keeps
    | with_reducible apply execTtControl_keeps
    | with_reducible apply execOffsetWrite_keeps
    | with_reducible apply execBringup_keeps
    | with_reducible apply execRetire_keeps
    | with_reducible apply execClrRetire_keeps
    | with_reducible apply execLineFrameSend_keeps
    | with_reducible apply execAckRx_keeps
    | with_reducible apply execNakRx_keeps
    | with_reducible apply execAckTimeout_keeps
    | with_reducible apply execReadDataRx_keeps
    | with_reducible apply execWriteDoneRx_keeps
    | with_reducible apply execStatusRx_keeps
    | with_reducible apply execTrainResultRx_keeps
    | with_reducible apply execCmdDoneRx_keeps
    | with_reducible apply execRetError_keeps
    | with_reducible apply execCmdTimeout_keeps
    | with_reducible apply State.headSilent_keeps
    | with_reducible apply execHeadSilent_keeps
    | with_reducible apply execHpRcRead_keeps
    | with_reducible apply execHpRcWrite_keeps
    | with_reducible apply execLineLatch_keeps
    | with_reducible apply execHpPtCommitLine_keeps
    | with_reducible apply execHpPtCommitBand_keeps
    | with_reducible apply execPgConversionDue_keeps
    | with_reducible apply execPgVStale_keeps
    | with_reducible apply execPgClampTimeout_keeps
    | with_reducible apply execPgRampTimeout_keeps
    | with_reducible apply execHpenOff_keeps
    | with_reducible apply execPgEnable_keeps
    | with_reducible apply execPgClrFault_keeps
    | with_reducible apply execPgClrStats_keeps
    | with_reducible apply execWarmPulseDue_keeps
    | with_reducible apply execRollIdleDue_keeps
    | with_reducible apply execTempReadingDue_keeps
    | with_reducible apply execTempAgeExpiry_keeps
    | with_reducible apply execClrBroken_keeps
    | with_reducible apply execClrSnsFault_keeps
    | with_reducible apply execHpRankSet_keeps
    | with_reducible apply execRecWriteRequest_keeps
    | with_reducible apply execRecWriteCancel_keeps
    | with_reducible apply execRecWriteStart_keeps
    | with_reducible apply execHpTwinWrite_keeps
    | with_reducible apply execTwinTakeOver_keeps
    | with_reducible apply execTwinHandBack_keeps
    | with_reducible apply execSenseConversionDone_keeps
    | with_reducible apply execSenseDeadline_keeps
    | with_reducible apply execSenseHoldCut_keeps
    | with_reducible apply execSenseConvTimeout_keeps
    | with_reducible apply execRefFault_keeps
    | with_reducible apply execRefFaultClear_keeps
    | with_reducible apply execDieReadingDue_keeps
    | with_reducible apply State.calStart_keeps
    | with_reducible apply execCalStart_keeps
    | with_reducible apply execDelayLineCalDone_keeps
    | with_reducible apply execSbStoreSave_keeps
    | with_reducible apply execSbStoreLoad_keeps
    | with_reducible apply execSbHostCmd_keeps
    | with_reducible apply execClrRetired_keeps
    | with_reducible apply execSbClrStats_keeps
    | with_reducible apply execMtStart_keeps
    | with_reducible apply execMtAbort_keeps
    | with_reducible apply execSpitRotationDue_keeps
    | with_reducible apply execMtDwellExpiry_keeps
    | with_reducible apply execMtCappedClr_keeps
    | with_reducible apply State.axEnable_keeps
    | with_reducible apply execAxEnable_keeps
    | with_reducible apply execAxStopDisable_keeps
    | with_reducible apply execAxDecelStop_keeps
    | with_reducible apply State.axHalt_keeps
    | with_reducible apply execAxHalt_keeps
    | with_reducible apply execAxClearHalt_keeps
    | with_reducible apply execAxClearUncertain_keeps
    | with_reducible apply execAxMvPush_keeps
    | with_reducible apply execAxPosWrite_keeps
    | with_reducible apply execProfileStep_keeps
    | with_reducible apply execBdLoopCycle_keeps
    | with_reducible apply execFollowErrorTimeout_keeps
    | with_reducible apply execAxIgEnable_keeps
    | with_reducible apply execAxIgRelease_keeps
    | with_reducible apply execAxIgStop_keeps
    | with_reducible apply execAxIgHalt_keeps
    | with_reducible apply execAxIgPush_keeps
    | with_reducible apply execChopTrip_keeps
    | with_reducible apply execChopOfftimeEnd_keeps
    | with_reducible apply execPwmPeriodStart_keeps
    | with_reducible apply execHoldDelayExpiry_keeps
    | with_reducible apply execBridgeFault_keeps
    | with_reducible apply execFltGlitch_keeps
    | with_reducible apply execOcTrip_keeps
    | with_reducible apply execOpenPhase_keeps
    | with_reducible apply execStepLagTimeout_keeps
    | with_reducible apply execMonConversionDue_keeps
    | with_reducible apply execNmtStart_keeps
    | with_reducible apply execNmtStop_keeps
    | with_reducible apply execNmtEnterPreOperational_keeps
    | with_reducible apply execNmtResetNode_keeps
    | with_reducible apply execNmtResetCommunication_keeps
    | with_reducible apply execHeartbeatProduce_keeps
    | with_reducible apply execHeartbeatRx_keeps
    | with_reducible apply execHeartbeatLoss_keeps
    | with_reducible apply execUsdoDownloadInit_keeps
    | with_reducible apply execUsdoDownloadSegment_keeps
    | with_reducible apply execUsdoUploadInit_keeps
    | with_reducible apply execUsdoUploadSegment_keeps
    | with_reducible apply execUsdoTimeout_keeps
    | with_reducible apply execRpdoRx_keeps
    | with_reducible apply execRpdoTimeout_keeps
    | with_reducible apply execTpdoTransmit_keeps
    | with_reducible apply execTpdoEventTimer_keeps
    | with_reducible apply execSyncRx_keeps
    | with_reducible apply execSyncTimeout_keeps
    | with_reducible apply execTimeRx_keeps
    | with_reducible apply execEmcySend_keeps
    | with_reducible apply execEmcyHistoryClear_keeps
    | with_reducible apply execCanBusOff_keeps
    | with_reducible apply execCanBusRecovered_keeps
    | with_reducible apply execCanRxOverrun_keeps
    | with_reducible apply execCanEnableWrite_keeps
    | with_reducible apply execIrqVecWrite_keeps
    | with_reducible apply execEventRoute_keeps
    | with_reducible apply execMsixSend_keeps
    | with_reducible apply execQEnWrite_keeps
    | with_reducible apply execDmaStart_keeps
    | with_reducible apply execDmaStop_keeps
    | with_reducible apply execDmaResume_keeps
    | with_reducible apply execDmaSkip_keeps
    | with_reducible apply execDmaDescLoaded_keeps
    | with_reducible apply execDmaDescDone_keeps
    | with_reducible apply execDmaAccessFail_keeps
    | with_reducible apply execPcieReset_keeps
    | with_reducible apply execPcieLinkUp_keeps
    | with_reducible apply execModeCmdBoot_keeps
    | with_reducible apply execModeCmdConfigure_keeps
    | with_reducible apply execModeCmdStandby_keeps
    | with_reducible apply execModeCmdReady_keeps
    | with_reducible apply execModeCmdPrint_keeps
    | with_reducible apply execModeCmdService_keeps
    | with_reducible apply execModeCmdSafe_keeps
    | with_reducible apply execModeCmdReset_keeps
    | with_reducible apply execModeChangeDone_keeps
    | with_reducible apply execPowerOn_keeps
    | with_reducible apply execResetPin_keeps
    | with_reducible apply execResetRelease_keeps
    | with_reducible apply execInhibitSetFire_keeps
    | with_reducible apply execInhibitSetMotionStop_keeps
    | with_reducible apply execInhibitSetMotionOff_keeps
    | with_reducible apply execInhibitClrHost_keeps
    | with_reducible apply execInhibitClrPin_keeps
    | with_reducible apply execInhibitClrRing_keeps
    | with_reducible apply execFireInhibitAssert_keeps
    | with_reducible apply execPinReleaseExpiry_keeps
    | with_reducible apply execBusWarnTrip_keeps
    | with_reducible apply execBusWarnRelease_keeps
    | with_reducible apply execBusResetTrip_keeps
    | with_reducible apply execSupplyConversionDue_keeps
    | with_reducible apply execCurfewHoldExpiry_keeps
    | with_reducible apply execSagTimeout_keeps
    | with_reducible apply execSupplyHighRelease_keeps
    | with_reducible apply execSuClrStats_keeps
    | with_reducible apply execClrPgOv_keeps
    | with_reducible apply execClrShutdown_keeps
    | with_reducible apply execClrDieMax_keeps
    | with_reducible apply execDieTrip_keeps
    | with_reducible apply execMainPowerLost_keeps
    | with_reducible apply execMainPowerBack_keeps
    | with_reducible apply execBackupPor_keeps
    | with_reducible apply execRtcLoad_keeps
    | with_reducible apply execRtcSecRead_keeps
    | with_reducible apply execRtcAlarm_keeps
    | with_reducible apply execWakeClr_keeps
    | with_reducible apply execVbatMeasure_keeps
    | with_reducible apply execChargeFull_keeps
    | with_reducible apply execChargeTimeout_keeps
    | with_reducible apply execCellRemoved_keeps
    | with_reducible apply execChgRestart_keeps
    | with_reducible apply execJnlClear_keeps
    | with_reducible apply execBkJnlSelect_keeps
    | with_reducible apply execBkJnlHost_keeps
    | with_reducible apply execBkGaugeSet_keeps
    | with_reducible apply execBootSequence_keeps
    | with_reducible apply execBtRecoveryCmd_keeps
    | with_reducible apply execSoftReset_keeps
    | with_reducible apply execBtWdtKick_keeps
    | with_reducible apply execWatchdogExpiry_keeps
    | with_reducible apply execQspiRead_keeps
    | with_reducible apply execQspiProgram_keeps
    | with_reducible apply execQspiErase4k_keeps
    | with_reducible apply execQspiErase64k_keeps
    | with_reducible apply execQspiOpDone_keeps
    | with_reducible apply execOtRowRead_keeps
    | with_reducible apply execOtRowBurn_keeps
    | with_reducible apply execOtRescan_keeps
    | with_reducible apply execOtLock_keeps
    | with_reducible apply execOtpBurnDone_keeps
    | with_reducible apply execLcToVendorTest_keeps
    | with_reducible apply execLcToProvision_keeps
    | with_reducible apply execLcToField_keeps
    | with_reducible apply execLcToReturn_keeps
    | with_reducible apply execLcToScrapped_keeps
    | with_reducible apply execFiKey_keeps
    | with_reducible apply execFiArm_keeps
    | with_reducible apply State.fiCancel_keeps
    | with_reducible apply execFiCancel_keeps
    | with_reducible apply execFiInject_keeps
    | with_reducible apply execRootLockRegained_keeps
    | with_reducible apply execRtcXtalRestored_keeps
    | with_reducible apply execTrainingTimeout_keeps
    | with_reducible apply execWireDisagreementHeld_keeps
    | with_reducible apply execInvalidHallHeld_keeps
    | with_reducible apply execWireAgreementRestored_keeps
    | with_reducible apply execDeepSpacingDue_keeps
    | with_reducible apply keeps_ite
    | with_reducible apply keptW_ok
    | with_reducible apply keptW_no
    | with_reducible apply keptO_next
    | with_reducible apply keptW_ite
    | with_reducible apply keptO_ite
    | refine Keeps.of_ok (by with_reducible assumption) ?_
    | refine Keeps.of_no (by with_reducible assumption) ?_
    | refine Keeps.of_fst (by with_reducible assumption) ?_
    | refine Keeps.of_snd (by with_reducible assumption) ?_
    | split

end Sys2Proof.Machine
end

