-- ==== Sys2Proof/WellFormed.lean ====
section
/-! DEFINITION. Which commands the block can be sent: each operand lies in the range its register, cell, message or unit
number has (R7, R11, Tables 3.2 to 3.4, 3.9, 9.3 and 17.1). -/
namespace Sys2Proof

/-- The path exists: the host, one of 32 DMA channels, the field network. -/
def Path.ok : Path → Bool
  | .dma c => decide (c < 32)
  | _ => true

/-- A command with every operand in range (DESIGN CHOICE, log 82). -/
def Instr.wellFormed (i : Instr) : Bool :=
  match i with
  | .dictWrite p _ index sub w => p.ok && decide (0x1000 ≤ index ∧ index < 0x9000) && decide (sub < 256) && decide (w < 2 ^ 32)
  | .rcReadClear p _ index sub => p.ok && decide (0x1000 ≤ index ∧ index < 0x9000) && decide (sub < 256)
  | .clrViewWrite p _ _ index sub w => p.ok && decide (0x1000 ≤ index ∧ index < 0x9000) && decide (sub < 256) && decide (w < 2 ^ 32)
  | .dictRead64 p _ index sub => p.ok && decide (0x1000 ≤ index ∧ index < 0x9000) && decide (sub < 256)
  | .dictWrite64 p _ index sub w => p.ok && decide (0x1000 ≤ index ∧ index < 0x9000) && decide (sub < 256) && decide (w < 2 ^ 32)
  | .pllLock straps _ => decide (straps < 8)
  | .ckPtLoad p v => p.ok && decide (v < 2 ^ 32)
  | .ckSnapshot p v => p.ok && decide (v < 2 ^ 32)
  | .clrInhibit p => p.ok
  | .dlFreeze p _ => p.ok
  | .refLoss _ => true
  | .refReturn _ => true
  | .holdoverExpired _ => true
  | .pllUnlock _ => true
  | .divFault _ => true
  | .lockLossTimeout _ => true
  | .pcieRefLoss _ => true
  | .rtcXtalLoss _ => true
  | .ringInputUp _ => true
  | .ringInputDown _ => true
  | .electionStart _ => true
  | .reform p => p.ok
  | .electCellRx src hops seq uid priority flags _ => decide (src < 16) && decide (hops < 16) && decide (seq < 16) && decide (uid < 2 ^ 64) && decide (priority < 256) && decide (flags < 256)
  | .enumCellRx src hops seq master next passive _ => decide (src < 16) && decide (hops < 16) && decide (seq < 16) && decide (master < 2 ^ 64) && decide (next < 256) && decide (passive < 256)
  | .rosterCellRx src hops seq master size passive formedAt loop _ => decide (src < 16) && decide (hops < 16) && decide (seq < 16) && decide (master < 2 ^ 64) && decide (size < 256) && decide (passive < 256) && decide (formedAt < 2 ^ 64) && decide (loop < 2 ^ 32)
  | .timeCellLaunch _ => true
  | .timeCellRx src hops seq origin corr tseq flags size _ _ _ => decide (src < 16) && decide (hops < 16) && decide (seq < 16) && decide (origin < 2 ^ 64) && decide (corr < 2 ^ 48) && decide (tseq < 2 ^ 16) && decide (flags < 256) && decide (size < 256)
  | .ringHoldoverEnter _ => true
  | .ringHoldoverExpiry _ => true
  | .ringBreakDetect _ => true
  | .echoLaunch _ => true
  | .echoCellRx _ => true
  | .echoMarkRx t2 _ => decide (t2 < 2 ^ 64)
  | .echoTimeout _ => true
  | .cellRxError _ => true
  | .actionCellRx src hops seq phase ticket accept refuse cause kind trigger when' arg _ => decide (src < 16) && decide (hops < 16) && decide (seq < 16) && decide (phase < 4) && decide (ticket < 256) && decide (accept < 2 ^ 16) && decide (refuse < 2 ^ 16) && decide (cause < 256) && decide (kind < 256) && decide (trigger < 256) && decide (when' < 2 ^ 64) && decide (arg < 2 ^ 64)
  | .slowCellRx src hops seq _ source unit raised _ => decide (src < 16) && decide (hops < 16) && decide (seq < 16) && decide (source < 256) && decide (unit < 2 ^ 16) && decide (raised < 2 ^ 64)
  | .slowCellRepeat _ => true
  | .slowRxExpiry k _ => decide (k < 16)
  | .faultCellRx src hops seq ev cls raised detail _ => decide (src < 16) && decide (hops < 16) && decide (seq < 16) && decide (ev < 640) && decide (cls < 4) && decide (raised < 2 ^ 64) && decide (detail < 2 ^ 32)
  | .actionFieldWrite p e sub v => p.ok && decide (e < 256) && decide (sub < 256) && decide (v < 2 ^ 32)
  | .actionEnterLocal p e => p.ok && decide (e < 256)
  | .actionEnterRing p e => p.ok && decide (e < 256)
  | .actionCancel p e => p.ok && decide (e < 256)
  | .proposeTimeout e _ => decide (e < 256)
  | .reservedExpiry e _ => decide (e < 256)
  | .actionTrigger e _ => decide (e < 256)
  | .piEdgeCounted i ab _ _ => decide (i < 12) && decide (ab < 4)
  | .piHallChange i code _ _ => decide (i < 12) && decide (code < 8)
  | .piGlitch i x => decide (i < 12) && decide (x.pair < 3)
  | .piZEdge i _ z _ => decide (i < 12) && decide (z.ab < 4)
  | .piWireDisagree i pair _ => decide (i < 12) && decide (pair < 3)
  | .piInvalidHall i _ => decide (i < 12)
  | .piSpeedUpdate i _ => decide (i < 12)
  | .piStopped i _ => decide (i < 12)
  | .piCountWrite p i v => p.ok && decide (i < 12) && decide (v < 2 ^ 32)
  | .piConfigWrite p i v => p.ok && decide (i < 12) && decide (v < 2 ^ 32)
  | .clrFault p i => p.ok && decide (i < 12)
  | .clrUncertain p i => p.ok && decide (i < 12)
  | .msEnable p m v => p.ok && decide (m < 64) && decide (v < 2 ^ 32)
  | .msDisable p m v => p.ok && decide (m < 64) && decide (v < 2 ^ 32)
  | .relayPulseEnd a pair _ => decide (a < 4) && decide (pair < 4)
  | .inTailWrite p v => p.ok && decide (v < 2 ^ 32)
  | .inRun p v => p.ok && decide (v < 2 ^ 32)
  | .waybillSlotRead bytes => decide (bytes.length = 128)
  | .slotFetchError addr cause => decide (addr < 2 ^ 64) && decide (cause < 2 ^ 32)
  | .jobOpen => true
  | .jobTableReadDone _ => true
  | .band => true
  | .bandCopyDone _ => true
  | .intakeReadFail addr cause => decide (addr < 2 ^ 64) && decide (cause < 2 ^ 32)
  | .jobClose => true
  | .repeatJob => true
  | .nop => true
  | .release => true
  | .waitJobEnd => true
  | .waitSpaceEnd => true
  | .resume p => p.ok
  | .skip p => p.ok
  | .inJobAbort p v => p.ok && decide (v < 2 ^ 32)
  | .jobEnterRunning => true
  | .pauseStep _ => true
  | .bsTrainDone _ channels => decide (channels < 16)
  | .bar2Access _ x _ _ ecc => decide (x < 2 ^ 28) && decide (ecc < 3)
  | .unpackerLine n ecc addr => decide (n < 96) && decide (ecc < 3) && decide (addr < 2 ^ 40)
  | .screenLine n => decide (n < 96)
  | .scrCommitLine p n => p.ok && decide (n < 96)
  | .scrCommitBand p n => p.ok && decide (n < 96)
  | .scrCopyDone n => decide (n < 96)
  | .scrMaskCmdMask p n v => p.ok && decide (n < 96) && decide (v < 2 ^ 32)
  | .scrMaskCmdUnmask p n v => p.ok && decide (n < 96) && decide (v < 2 ^ 32)
  | .scrCompWrite p n e v => p.ok && decide (n < 96) && decide (e < 256) && decide (v < 2 ^ 32)
  | .lodgeLine n => decide (n < 96)
  | .lineRelease n _ ecc => decide (n < 96) && decide (ecc < 3)
  | .slowHoldExpiry n _ => decide (n < 96)
  | .lgSlowHost p v => p.ok && decide (v < 2 ^ 32)
  | .lgControl p n v => p.ok && decide (n < 96) && decide (v < 2 ^ 32)
  | .lineFix n _ => decide (n < 96)
  | .predStall i _ => decide (i < 12)
  | .rotationStart n _ => decide (n < 96)
  | .rotationEnd n _ => decide (n < 96)
  | .arm p n => p.ok && decide (n < 96)
  | .disarm p n => p.ok && decide (n < 96)
  | .ttControl p n v => p.ok && decide (n < 96) && decide (v < 2 ^ 32)
  | .offsetWrite p n _ v => p.ok && decide (n < 96) && decide (v < 2 ^ 32)
  | .bringup p n v => p.ok && decide (n < 96) && decide (v < 2 ^ 32)
  | .retire p n v => p.ok && decide (n < 96) && decide (v < 2 ^ 32)
  | .clrRetire p n v => p.ok && decide (n < 96) && decide (v < 2 ^ 32)
  | .lineFrameSend n _ => decide (n < 96)
  | .ackRx n epoch lseq _ => decide (n < 96) && decide (epoch < 16) && decide (lseq < 2 ^ 16)
  | .nakRx n epoch lseq reason _ => decide (n < 96) && decide (epoch < 16) && decide (lseq < 2 ^ 16) && decide (reason < 256)
  | .ackTimeout n lseq _ => decide (n < 96) && decide (lseq < 2 ^ 16)
  | .readDataRx n epoch tag data _ => decide (n < 96) && decide (epoch < 16) && decide (tag < 256) && decide (data < 2 ^ 32)
  | .writeDoneRx n epoch tag result _ => decide (n < 96) && decide (epoch < 16) && decide (tag < 256) && decide (result < 256)
  | .statusRx n epoch flags _ => decide (n < 96) && decide (epoch < 16) && decide (flags < 1024)
  | .trainResultRx n epoch tag e0 e1 _ => decide (n < 96) && decide (epoch < 16) && decide (tag < 256) && decide (e0 < 2 ^ 16) && decide (e1 < 2 ^ 16)
  | .cmdDoneRx n epoch tag result _ => decide (n < 96) && decide (epoch < 16) && decide (tag < 256) && decide (result < 256)
  | .retError n _ => decide (n < 96)
  | .cmdTimeout n _ => decide (n < 96)
  | .headSilent n _ => decide (n < 96)
  | .hpRcRead p n => p.ok && decide (n < 96)
  | .hpRcWrite p n => p.ok && decide (n < 96)
  | .lineLatch n _ => decide (n < 96)
  | .hpPtCommitLine p n => p.ok && decide (n < 96)
  | .hpPtCommitBand p n => p.ok && decide (n < 96)
  | .pgConversionDue g _ => decide (g < 8)
  | .pgVStale g _ => decide (g < 8)
  | .pgClampTimeout g _ => decide (g < 8)
  | .pgRampTimeout g _ => decide (g < 8)
  | .hpenOff g _ => decide (g < 8)
  | .pgEnable p g _ => p.ok && decide (g < 8)
  | .pgClrFault p g v => p.ok && decide (g < 8) && decide (v < 2 ^ 32)
  | .pgClrStats p g v => p.ok && decide (g < 8) && decide (v < 2 ^ 32)
  | .warmPulseDue n _ => decide (n < 96)
  | .rollIdleDue n _ => decide (n < 96)
  | .tempReadingDue n _ => decide (n < 96)
  | .tempAgeExpiry n _ => decide (n < 96)
  | .clrBroken p n v _ => p.ok && decide (n < 96) && decide (v < 2 ^ 32)
  | .clrSnsFault p n v _ => p.ok && decide (n < 96) && decide (v < 2 ^ 32)
  | .hpRankSet p n v => p.ok && decide (n < 96) && decide (v < 2 ^ 32)
  | .recWriteRequest p n => p.ok && decide (n < 96)
  | .recWriteCancel p n => p.ok && decide (n < 96)
  | .recWriteStart n _ => decide (n < 96)
  | .hpTwinWrite p n v => p.ok && decide (n < 96) && decide (v < 2 ^ 32)
  | .twinTakeOver p n => p.ok && decide (n < 96)
  | .twinHandBack p n => p.ok && decide (n < 96)
  | .senseConversionDone c code _ => decide (c < 16) && decide (code < 2 ^ 16)
  | .senseDeadline _ => true
  | .senseHoldCut c _ => decide (c < 16)
  | .senseConvTimeout c _ => decide (c < 16)
  | .refFault _ => true
  | .refFaultClear _ => true
  | .dieReadingDue _ => true
  | .calStart p => p.ok
  | .delayLineCalDone k sums _ => decide (k < 120) && decide (sums.length = 8)
  | .sbStoreSave p => p.ok
  | .sbStoreLoad p => p.ok
  | .sbHostCmd p v => p.ok && decide (v < 2 ^ 32)
  | .clrRetired p => p.ok
  | .sbClrStats p => p.ok
  | .mtStart p k => p.ok && decide (k < 8)
  | .mtAbort p k => p.ok && decide (k < 8)
  | .spitRotationDue k n _ => decide (k < 8) && decide (n < 96)
  | .mtDwellExpiry k _ => decide (k < 8)
  | .mtCappedClr p v => p.ok && decide (v < 2 ^ 32)
  | .axEnable p a _ => p.ok && decide (a < 20)
  | .axStopDisable p a => p.ok && decide (a < 20)
  | .axDecelStop p a => p.ok && decide (a < 20)
  | .axHalt p a => p.ok && decide (a < 20)
  | .axClearHalt p a _ => p.ok && decide (a < 20)
  | .axClearUncertain p a => p.ok && decide (a < 20)
  | .axMvPush p a => p.ok && decide (a < 20)
  | .axPosWrite p a v => p.ok && decide (a < 20) && decide (v < 2 ^ 64)
  | .profileStep _ => true
  | .bdLoopCycle _ => true
  | .followErrorTimeout a _ => decide (a < 20)
  | .axIgEnable p g => p.ok && decide (g < 4)
  | .axIgRelease p g => p.ok && decide (g < 4)
  | .axIgStop p g => p.ok && decide (g < 4)
  | .axIgHalt p g => p.ok && decide (g < 4)
  | .axIgPush p g => p.ok && decide (g < 4)
  | .chopTrip a ph _ => decide (a < 20) && decide (ph < 3)
  | .chopOfftimeEnd a ph _ => decide (a < 20) && decide (ph < 3)
  | .pwmPeriodStart a _ => decide (a < 20)
  | .holdDelayExpiry a _ => decide (a < 20)
  | .bridgeFault a _ => decide (a < 20)
  | .fltGlitch a _ => decide (a < 20)
  | .ocTrip a ph _ => decide (a < 20) && decide (ph < 3)
  | .openPhase a ph _ => decide (a < 20) && decide (ph < 3)
  | .stepLagTimeout a _ => decide (a < 20)
  | .monConversionDue a _ => decide (a < 20)
  | .nmtStart _ => true
  | .nmtStop _ => true
  | .nmtEnterPreOperational _ => true
  | .nmtResetNode _ => true
  | .nmtResetCommunication _ => true
  | .heartbeatProduce _ => true
  | .heartbeatRx node _ => decide (1 ≤ node ∧ node < 128)
  | .heartbeatLoss k _ => decide (k < 4)
  | .usdoDownloadInit client svc index sub _ size _ _ _ => decide (client < 128) && decide (svc < 3) && decide (index < 2 ^ 16) && decide (sub < 256) && decide (size < 2 ^ 32)
  | .usdoDownloadSegment client _ _ _ _ => decide (client < 128)
  | .usdoUploadInit client svc index sub _ _ => decide (client < 128) && decide (svc < 3) && decide (index < 2 ^ 16) && decide (sub < 256)
  | .usdoUploadSegment client _ _ _ => decide (client < 128)
  | .usdoTimeout k _ => decide (k < 4)
  | .rpdoRx p bytes _ => decide (p < 16) && decide (bytes.length ≤ 64)
  | .rpdoTimeout p _ => decide (p < 16)
  | .tpdoTransmit p _ _ => decide (p < 16)
  | .tpdoEventTimer p _ _ => decide (p < 16)
  | .syncRx counter _ => decide (counter < 241)
  | .syncTimeout _ => true
  | .timeRx ms days _ => decide (ms < 2 ^ 28) && decide (days < 2 ^ 16)
  | .emcySend _ => true
  | .emcyHistoryClear p => p.ok
  | .canBusOff c tec rec' _ => decide (c < 2) && decide (tec < 256) && decide (rec' < 256)
  | .canBusRecovered c _ => decide (c < 2)
  | .canRxOverrun c _ => decide (c < 2)
  | .canEnableWrite p c v => p.ok && decide (c < 2) && decide (v < 2 ^ 32)
  | .irqVecWrite p k v => p.ok && decide (k < 8) && decide (v < 2 ^ 32)
  | .eventRoute _ => true
  | .msixSend acc _ _ => acc.writes.all (fun w => decide (w.1 < 65536 ∧ w.2 < 2 ^ 32)) && acc.reads.all (fun a => decide (a < 65536))
  | .qEnWrite p v => p.ok && decide (v < 2 ^ 32)
  | .dmaStart p c => p.ok && decide (c < 32)
  | .dmaStop p c => p.ok && decide (c < 32)
  | .dmaResume p c => p.ok && decide (c < 32)
  | .dmaSkip p c => p.ok && decide (c < 32)
  | .dmaDescLoaded c bytes _ => decide (c < 32) && decide (bytes.length = 64)
  | .dmaDescDone c _ _ => decide (c < 32)
  | .dmaAccessFail c _ code _ _ _ => decide (c < 32) && decide (3 ≤ code ∧ code ≤ 10)
  | .pcieReset _ => true
  | .pcieLinkUp _ => true
  | .modeCmdBoot p => p.ok
  | .modeCmdConfigure p => p.ok
  | .modeCmdStandby p => p.ok
  | .modeCmdReady p => p.ok
  | .modeCmdPrint p => p.ok
  | .modeCmdService p => p.ok
  | .modeCmdSafe p => p.ok
  | .modeCmdReset p => p.ok
  | .modeChangeDone _ => true
  | .powerOn _ _ => true
  | .resetPin _ => true
  | .resetRelease cause _ => decide (1 ≤ cause ∧ cause < 16)
  | .inhibitSetFire p => p.ok
  | .inhibitSetMotionStop p => p.ok
  | .inhibitSetMotionOff p => p.ok
  | .inhibitClrHost p => p.ok
  | .inhibitClrPin p => p.ok
  | .inhibitClrRing p => p.ok
  | .fireInhibitAssert _ => true
  | .pinReleaseExpiry _ => true
  | .busWarnTrip _ => true
  | .busWarnRelease _ => true
  | .busResetTrip _ => true
  | .supplyConversionDue i _ => decide (i < 8)
  | .curfewHoldExpiry _ => true
  | .sagTimeout _ => true
  | .supplyHighRelease _ => true
  | .suClrStats p v => p.ok && decide (v < 2 ^ 32)
  | .clrPgOv p v => p.ok && decide (v < 2 ^ 32)
  | .clrShutdown p v => p.ok && decide (v < 2 ^ 32)
  | .clrDieMax p v => p.ok && decide (v < 2 ^ 32)
  | .dieTrip _ => true
  | .mainPowerLost _ => true
  | .mainPowerBack _ => true
  | .backupPor _ => true
  | .rtcLoad p => p.ok
  | .rtcSecRead p => p.ok
  | .rtcAlarm _ => true
  | .wakeClr p => p.ok
  | .vbatMeasure mv _ _ => decide (mv < 2 ^ 16)
  | .chargeFull _ => true
  | .chargeTimeout _ => true
  | .cellRemoved _ => true
  | .chgRestart p => p.ok
  | .jnlClear p => p.ok
  | .bkJnlSelect p v => p.ok && decide (v < 2 ^ 32)
  | .bkJnlHost p v => p.ok && decide (v < 2 ^ 64)
  | .bkGaugeSet p v => p.ok && decide (v < 2 ^ 32)
  | .bootSequence l _ _ => l.all (fun f => decide (f.1 < 544))
  | .btRecoveryCmd p v => p.ok && decide (v < 2 ^ 32)
  | .softReset p => p.ok
  | .btWdtKick p => p.ok
  | .watchdogExpiry _ => true
  | .qspiRead p => p.ok
  | .qspiProgram p => p.ok
  | .qspiErase4k p => p.ok
  | .qspiErase64k p => p.ok
  | .qspiOpDone res _ => decide (res < 4)
  | .otRowRead p l => p.ok && l.all (fun f => decide (f.1 < 544))
  | .otRowBurn p => p.ok
  | .otRescan p l => p.ok && l.all (fun f => decide (f.1 < 544))
  | .otLock p => p.ok
  | .otpBurnDone l _ => l.all (fun f => decide (f.1 < 544))
  | .lcToVendorTest p => p.ok
  | .lcToProvision p => p.ok
  | .lcToField p => p.ok
  | .lcToReturn p => p.ok
  | .lcToScrapped p => p.ok
  | .fiKey p v => p.ok && decide (v < 2 ^ 32)
  | .fiArm p => p.ok
  | .fiCancel p => p.ok
  | .fiInject _ _ _ _ => true
  | .rootLockRegained _ _ => true
  | .rtcXtalRestored _ => true
  | .trainingTimeout n _ => decide (n < 96)
  | .wireDisagreementHeld i pair _ => decide (i < 12) && decide (pair < 3)
  | .invalidHallHeld i _ => decide (i < 12)
  | .wireAgreementRestored i pair _ => decide (i < 12) && decide (pair < 3)
  | .deepSpacingDue k n _ => decide (k < 8) && decide (n < 96)

end Sys2Proof
end

