-- ==== Sys2Proof/Tests/Slice0.lean ====
section
/-! SUPPORT. Tests of the model: the checks of well-formedness, the worked examples of the spec, and for every statement
with hypotheses states and operands that meet them, clause by clause. -/
namespace Sys2Proof.Tests
open Sys2Proof.Machine
set_option Elab.async false

/-! ### Well-formedness -/

/-- Commands of the table with every operand in range, part 0. -/
theorem test_well_formed0 : ([
  .dictWrite .host false 4096 0 0, .rcReadClear .host ⟨.primary, true⟩ 4096 0,
  .clrViewWrite .host .primary false 4096 0 0, .dictRead64 .host false 4096 0, .dictWrite64 .host false 4096 0 0,
  .pllLock 0 0, .ckPtLoad .host 0, .ckSnapshot .host 0, .clrInhibit .host, .dlFreeze .host false, .refLoss 0,
  .refReturn 0, .holdoverExpired 0, .pllUnlock 0, .divFault 0, .lockLossTimeout 0, .pcieRefLoss 0, .rtcXtalLoss 0,
  .ringInputUp 0, .ringInputDown 0, .electionStart 0, .reform .host, .electCellRx 0 0 0 0 0 0 0,
  .enumCellRx 0 0 0 0 0 0 0, .rosterCellRx 0 0 0 0 0 0 0 0 0, .timeCellLaunch 0, .timeCellRx 0 0 0 0 0 0 0 0 0 0 0,
  .ringHoldoverEnter 0, .ringHoldoverExpiry 0, .ringBreakDetect 0, .echoLaunch 0, .echoCellRx 0, .echoMarkRx 0 0,
  .echoTimeout 0, .cellRxError 0, .actionCellRx 0 0 0 0 0 0 0 0 0 0 0 0 0, .slowCellRx 0 0 0 false 0 0 0 0,
  .slowCellRepeat 0, .slowRxExpiry 0 0, .faultCellRx 0 0 0 0 0 0 0 0, .actionFieldWrite .host 0 0 0,
  .actionEnterLocal .host 0, .actionEnterRing .host 0, .actionCancel .host 0, .proposeTimeout 0 0,
  .reservedExpiry 0 0, .actionTrigger 0 0, .piEdgeCounted 0 0 0 0, .piHallChange 0 0 0 0, .piGlitch 0 ⟨0, 0, 0⟩,
  .piZEdge 0 false ⟨0, 0, 0⟩ 0, .piWireDisagree 0 0 ⟨0, 0⟩, .piInvalidHall 0 0, .piSpeedUpdate 0 0, .piStopped 0 0,
  .piCountWrite .host 0 0, .piConfigWrite .host 0 0, .clrFault .host 0, .clrUncertain .host 0, .msEnable .host 0 0,
  .msDisable .host 0 0, .relayPulseEnd 0 0 0, .inTailWrite .host 0, .inRun .host 0,
  .waybillSlotRead (List.replicate 128 0), .slotFetchError 0 0, .jobOpen, .jobTableReadDone [], .band,
  .bandCopyDone [], .intakeReadFail 0 0, .jobClose, .repeatJob, .nop, .release, .waitJobEnd, .waitSpaceEnd,
  .resume .host, .skip .host, .inJobAbort .host 0] : List Instr).all Instr.wellFormed = true := by
  decide +kernel

/-- Commands of the table with every operand in range, part 1. -/
theorem test_well_formed1 : ([
  .jobEnterRunning, .pauseStep 0, .bsTrainDone false 0, .bar2Access false 0 [] 0 0, .unpackerLine 0 0 0,
  .screenLine 0, .scrCommitLine .host 0, .scrCommitBand .host 0, .scrCopyDone 0, .scrMaskCmdMask .host 0 0,
  .scrMaskCmdUnmask .host 0 0, .scrCompWrite .host 0 0 0, .lodgeLine 0, .lineRelease 0 0 0, .slowHoldExpiry 0 0,
  .lgSlowHost .host 0, .lgControl .host 0 0, .lineFix 0 0, .predStall 0 0, .rotationStart 0 0, .rotationEnd 0 0,
  .arm .host 0, .disarm .host 0, .ttControl .host 0 0, .offsetWrite .host 0 false 0, .bringup .host 0 0,
  .retire .host 0 0, .clrRetire .host 0 0, .lineFrameSend 0 0, .ackRx 0 0 0 0, .nakRx 0 0 0 0 0, .ackTimeout 0 0 0,
  .readDataRx 0 0 0 0 0, .writeDoneRx 0 0 0 0 0, .statusRx 0 0 0 0, .trainResultRx 0 0 0 0 0 0, .cmdDoneRx 0 0 0 0 0,
  .retError 0 0, .cmdTimeout 0 0, .headSilent 0 0, .hpRcRead .host 0, .hpRcWrite .host 0, .lineLatch 0 0,
  .hpPtCommitLine .host 0, .hpPtCommitBand .host 0, .pgConversionDue 0 0, .pgVStale 0 0, .pgClampTimeout 0 0,
  .pgRampTimeout 0 0, .hpenOff 0 0, .pgEnable .host 0 false, .pgClrFault .host 0 0, .pgClrStats .host 0 0,
  .warmPulseDue 0 0, .rollIdleDue 0 0, .tempReadingDue 0 0, .tempAgeExpiry 0 0, .clrBroken .host 0 0 none,
  .clrSnsFault .host 0 0 none, .hpRankSet .host 0 0, .recWriteRequest .host 0, .recWriteCancel .host 0,
  .recWriteStart 0 0, .hpTwinWrite .host 0 0, .twinTakeOver .host 0, .twinHandBack .host 0,
  .senseConversionDone 0 0 0, .senseDeadline 0, .senseHoldCut 0 0, .senseConvTimeout 0 0, .refFault 0,
  .refFaultClear 0, .dieReadingDue 0, .calStart .host, .delayLineCalDone 0 (List.replicate 8 0) 0,
  .sbStoreSave .host, .sbStoreLoad .host, .sbHostCmd .host 0, .clrRetired .host, .sbClrStats .host] : List Instr).all Instr.wellFormed = true := by
  decide +kernel

/-- Commands of the table with every operand in range, part 2. -/
theorem test_well_formed2 : ([
  .mtStart .host 0, .mtAbort .host 0, .spitRotationDue 0 0 0, .mtDwellExpiry 0 0, .mtCappedClr .host 0,
  .axEnable .host 0 false, .axStopDisable .host 0, .axDecelStop .host 0, .axHalt .host 0, .axClearHalt .host 0 false,
  .axClearUncertain .host 0, .axMvPush .host 0, .axPosWrite .host 0 0, .profileStep 0, .bdLoopCycle 0,
  .followErrorTimeout 0 0, .axIgEnable .host 0, .axIgRelease .host 0, .axIgStop .host 0, .axIgHalt .host 0,
  .axIgPush .host 0, .chopTrip 0 0 ⟨0, 0⟩, .chopOfftimeEnd 0 0 0, .pwmPeriodStart 0 0, .holdDelayExpiry 0 0,
  .bridgeFault 0 ⟨0, 0⟩, .fltGlitch 0 ⟨0, 0⟩, .ocTrip 0 0 ⟨0, 0⟩, .openPhase 0 0 0, .stepLagTimeout 0 0,
  .monConversionDue 0 0, .nmtStart 0, .nmtStop 0, .nmtEnterPreOperational 0, .nmtResetNode 0,
  .nmtResetCommunication 0, .heartbeatProduce 0, .heartbeatRx 1 0, .heartbeatLoss 0 0,
  .usdoDownloadInit 0 0 0 0 false 0 [] false 0, .usdoDownloadSegment 0 false [] false 0,
  .usdoUploadInit 0 0 0 0 false 0, .usdoUploadSegment 0 false false 0, .usdoTimeout 0 0, .rpdoRx 0 [] 0,
  .rpdoTimeout 0 0, .tpdoTransmit 0 false 0, .tpdoEventTimer 0 false 0, .syncRx 0 0, .syncTimeout 0, .timeRx 0 0 0,
  .emcySend 0, .emcyHistoryClear .host, .canBusOff 0 0 0 0, .canBusRecovered 0 0, .canRxOverrun 0 0,
  .canEnableWrite .host 0 0, .irqVecWrite .host 0 0, .eventRoute 0, .msixSend ⟨[], []⟩ false 0, .qEnWrite .host 0,
  .dmaStart .host 0, .dmaStop .host 0, .dmaResume .host 0, .dmaSkip .host 0,
  .dmaDescLoaded 0 (List.replicate 64 0) 0, .dmaDescDone 0 [] 0, .dmaAccessFail 0 0 3 false [] 0, .pcieReset 0,
  .pcieLinkUp 0, .modeCmdBoot .host, .modeCmdConfigure .host, .modeCmdStandby .host, .modeCmdReady .host,
  .modeCmdPrint .host, .modeCmdService .host, .modeCmdSafe .host, .modeCmdReset .host, .modeChangeDone 0,
  .powerOn false 0] : List Instr).all Instr.wellFormed = true := by
  decide +kernel

/-- Commands of the table with every operand in range, part 3. -/
theorem test_well_formed3 : ([
  .resetPin 0, .resetRelease 1 0, .inhibitSetFire .host, .inhibitSetMotionStop .host, .inhibitSetMotionOff .host,
  .inhibitClrHost .host, .inhibitClrPin .host, .inhibitClrRing .host, .fireInhibitAssert 0, .pinReleaseExpiry ⟨0, 0⟩,
  .busWarnTrip 0, .busWarnRelease 0, .busResetTrip 0, .supplyConversionDue 0 0, .curfewHoldExpiry 0, .sagTimeout 0,
  .supplyHighRelease 0, .suClrStats .host 0, .clrPgOv .host 0, .clrShutdown .host 0, .clrDieMax .host 0, .dieTrip 0,
  .mainPowerLost 0, .mainPowerBack 0, .backupPor 0, .rtcLoad .host, .rtcSecRead .host, .rtcAlarm 0, .wakeClr .host,
  .vbatMeasure 0 0 0, .chargeFull 0, .chargeTimeout 0, .cellRemoved 0, .chgRestart .host, .jnlClear .host,
  .bkJnlSelect .host 0, .bkJnlHost .host 0, .bkGaugeSet .host 0, .bootSequence [] false 0, .btRecoveryCmd .host 0,
  .softReset .host, .btWdtKick .host, .watchdogExpiry 0, .qspiRead .host, .qspiProgram .host, .qspiErase4k .host,
  .qspiErase64k .host, .qspiOpDone 0 0, .otRowRead .host [], .otRowBurn .host, .otRescan .host [], .otLock .host,
  .otpBurnDone [] 0, .lcToVendorTest .host, .lcToProvision .host, .lcToField .host, .lcToReturn .host,
  .lcToScrapped .host, .fiKey .host 0, .fiArm .host, .fiCancel .host, .fiInject 0 0 false 0,
  .rootLockRegained false 0, .rtcXtalRestored 0, .trainingTimeout 0 0, .wireDisagreementHeld 0 0 0,
  .invalidHallHeld 0 0, .wireAgreementRestored 0 0 ⟨0, 0⟩, .deepSpacingDue 0 0 0] : List Instr).all Instr.wellFormed = true := by
  decide +kernel

/-- Each check of `Instr.wellFormed` refuses an operand out of its range, part 0. -/
theorem test_ill_formed0 : ([
  .dictWrite (.dma 32) false 4096 0 0, .dictWrite .host false 4095 0 0, .dictWrite .host false (0x9000) 0 0,
  .dictWrite .host false 4096 256 0, .dictWrite .host false 4096 0 (2 ^ 32),
  .rcReadClear (.dma 32) ⟨.primary, true⟩ 4096 0, .rcReadClear .host ⟨.primary, true⟩ 4095 0,
  .rcReadClear .host ⟨.primary, true⟩ (0x9000) 0, .rcReadClear .host ⟨.primary, true⟩ 4096 256,
  .clrViewWrite (.dma 32) .primary false 4096 0 0, .clrViewWrite .host .primary false 4095 0 0,
  .clrViewWrite .host .primary false (0x9000) 0 0, .clrViewWrite .host .primary false 4096 256 0,
  .clrViewWrite .host .primary false 4096 0 (2 ^ 32), .dictRead64 (.dma 32) false 4096 0,
  .dictRead64 .host false 4095 0, .dictRead64 .host false (0x9000) 0, .dictRead64 .host false 4096 256,
  .dictWrite64 (.dma 32) false 4096 0 0, .dictWrite64 .host false 4095 0 0, .dictWrite64 .host false (0x9000) 0 0,
  .dictWrite64 .host false 4096 256 0, .dictWrite64 .host false 4096 0 (2 ^ 32), .pllLock 8 0, .ckPtLoad (.dma 32) 0,
  .ckPtLoad .host (2 ^ 32), .ckSnapshot (.dma 32) 0, .ckSnapshot .host (2 ^ 32), .clrInhibit (.dma 32),
  .dlFreeze (.dma 32) false, .reform (.dma 32), .electCellRx 16 0 0 0 0 0 0, .electCellRx 0 16 0 0 0 0 0,
  .electCellRx 0 0 16 0 0 0 0, .electCellRx 0 0 0 (2 ^ 64) 0 0 0, .electCellRx 0 0 0 0 256 0 0,
  .electCellRx 0 0 0 0 0 256 0, .enumCellRx 16 0 0 0 0 0 0, .enumCellRx 0 16 0 0 0 0 0, .enumCellRx 0 0 16 0 0 0 0,
  .enumCellRx 0 0 0 (2 ^ 64) 0 0 0, .enumCellRx 0 0 0 0 256 0 0, .enumCellRx 0 0 0 0 0 256 0,
  .rosterCellRx 16 0 0 0 0 0 0 0 0, .rosterCellRx 0 16 0 0 0 0 0 0 0, .rosterCellRx 0 0 16 0 0 0 0 0 0,
  .rosterCellRx 0 0 0 (2 ^ 64) 0 0 0 0 0, .rosterCellRx 0 0 0 0 256 0 0 0 0, .rosterCellRx 0 0 0 0 0 256 0 0 0,
  .rosterCellRx 0 0 0 0 0 0 (2 ^ 64) 0 0, .rosterCellRx 0 0 0 0 0 0 0 (2 ^ 32) 0, .timeCellRx 16 0 0 0 0 0 0 0 0 0 0,
  .timeCellRx 0 16 0 0 0 0 0 0 0 0 0, .timeCellRx 0 0 16 0 0 0 0 0 0 0 0, .timeCellRx 0 0 0 (2 ^ 64) 0 0 0 0 0 0 0,
  .timeCellRx 0 0 0 0 (2 ^ 48) 0 0 0 0 0 0, .timeCellRx 0 0 0 0 0 (2 ^ 16) 0 0 0 0 0,
  .timeCellRx 0 0 0 0 0 0 256 0 0 0 0, .timeCellRx 0 0 0 0 0 0 0 256 0 0 0, .echoMarkRx (2 ^ 64) 0,
  .actionCellRx 16 0 0 0 0 0 0 0 0 0 0 0 0, .actionCellRx 0 16 0 0 0 0 0 0 0 0 0 0 0,
  .actionCellRx 0 0 16 0 0 0 0 0 0 0 0 0 0, .actionCellRx 0 0 0 4 0 0 0 0 0 0 0 0 0,
  .actionCellRx 0 0 0 0 256 0 0 0 0 0 0 0 0, .actionCellRx 0 0 0 0 0 (2 ^ 16) 0 0 0 0 0 0 0,
  .actionCellRx 0 0 0 0 0 0 (2 ^ 16) 0 0 0 0 0 0, .actionCellRx 0 0 0 0 0 0 0 256 0 0 0 0 0,
  .actionCellRx 0 0 0 0 0 0 0 0 256 0 0 0 0, .actionCellRx 0 0 0 0 0 0 0 0 0 256 0 0 0,
  .actionCellRx 0 0 0 0 0 0 0 0 0 0 (2 ^ 64) 0 0, .actionCellRx 0 0 0 0 0 0 0 0 0 0 0 (2 ^ 64) 0,
  .slowCellRx 16 0 0 false 0 0 0 0, .slowCellRx 0 16 0 false 0 0 0 0, .slowCellRx 0 0 16 false 0 0 0 0,
  .slowCellRx 0 0 0 false 256 0 0 0, .slowCellRx 0 0 0 false 0 (2 ^ 16) 0 0, .slowCellRx 0 0 0 false 0 0 (2 ^ 64) 0,
  .slowRxExpiry 16 0, .faultCellRx 16 0 0 0 0 0 0 0] : List Instr).all (fun i => !i.wellFormed) = true := by
  decide +kernel

/-- Each check of `Instr.wellFormed` refuses an operand out of its range, part 1. -/
theorem test_ill_formed1 : ([
  .faultCellRx 0 16 0 0 0 0 0 0, .faultCellRx 0 0 16 0 0 0 0 0, .faultCellRx 0 0 0 640 0 0 0 0,
  .faultCellRx 0 0 0 0 4 0 0 0, .faultCellRx 0 0 0 0 0 (2 ^ 64) 0 0, .faultCellRx 0 0 0 0 0 0 (2 ^ 32) 0,
  .actionFieldWrite (.dma 32) 0 0 0, .actionFieldWrite .host 256 0 0, .actionFieldWrite .host 0 256 0,
  .actionFieldWrite .host 0 0 (2 ^ 32), .actionEnterLocal (.dma 32) 0, .actionEnterLocal .host 256,
  .actionEnterRing (.dma 32) 0, .actionEnterRing .host 256, .actionCancel (.dma 32) 0, .actionCancel .host 256,
  .proposeTimeout 256 0, .reservedExpiry 256 0, .actionTrigger 256 0, .piEdgeCounted 12 0 0 0,
  .piEdgeCounted 0 4 0 0, .piHallChange 12 0 0 0, .piHallChange 0 8 0 0, .piGlitch 12 ⟨0, 0, 0⟩,
  .piGlitch 0 ⟨3, 0, 0⟩, .piZEdge 12 false ⟨0, 0, 0⟩ 0, .piZEdge 0 false ⟨0, 4, 0⟩ 0, .piWireDisagree 12 0 ⟨0, 0⟩,
  .piWireDisagree 0 3 ⟨0, 0⟩, .piInvalidHall 12 0, .piSpeedUpdate 12 0, .piStopped 12 0, .piCountWrite (.dma 32) 0 0,
  .piCountWrite .host 12 0, .piCountWrite .host 0 (2 ^ 32), .piConfigWrite (.dma 32) 0 0, .piConfigWrite .host 12 0,
  .piConfigWrite .host 0 (2 ^ 32), .clrFault (.dma 32) 0, .clrFault .host 12, .clrUncertain (.dma 32) 0,
  .clrUncertain .host 12, .msEnable (.dma 32) 0 0, .msEnable .host 64 0, .msEnable .host 0 (2 ^ 32),
  .msDisable (.dma 32) 0 0, .msDisable .host 64 0, .msDisable .host 0 (2 ^ 32), .relayPulseEnd 4 0 0,
  .relayPulseEnd 0 4 0, .inTailWrite (.dma 32) 0, .inTailWrite .host (2 ^ 32), .inRun (.dma 32) 0,
  .inRun .host (2 ^ 32), .waybillSlotRead [], .slotFetchError (2 ^ 64) 0, .slotFetchError 0 (2 ^ 32),
  .intakeReadFail (2 ^ 64) 0, .intakeReadFail 0 (2 ^ 32), .resume (.dma 32), .skip (.dma 32),
  .inJobAbort (.dma 32) 0, .inJobAbort .host (2 ^ 32), .bsTrainDone false 16, .bar2Access false (2 ^ 28) [] 0 0,
  .bar2Access false 0 [] 0 3, .unpackerLine 96 0 0, .unpackerLine 0 3 0, .unpackerLine 0 0 (2 ^ 40), .screenLine 96,
  .scrCommitLine (.dma 32) 0, .scrCommitLine .host 96, .scrCommitBand (.dma 32) 0, .scrCommitBand .host 96,
  .scrCopyDone 96, .scrMaskCmdMask (.dma 32) 0 0, .scrMaskCmdMask .host 96 0, .scrMaskCmdMask .host 0 (2 ^ 32),
  .scrMaskCmdUnmask (.dma 32) 0 0, .scrMaskCmdUnmask .host 96 0] : List Instr).all (fun i => !i.wellFormed) = true := by
  decide +kernel

/-- Each check of `Instr.wellFormed` refuses an operand out of its range, part 2. -/
theorem test_ill_formed2 : ([
  .scrMaskCmdUnmask .host 0 (2 ^ 32), .scrCompWrite (.dma 32) 0 0 0, .scrCompWrite .host 96 0 0,
  .scrCompWrite .host 0 256 0, .scrCompWrite .host 0 0 (2 ^ 32), .lodgeLine 96, .lineRelease 96 0 0,
  .lineRelease 0 0 3, .slowHoldExpiry 96 0, .lgSlowHost (.dma 32) 0, .lgSlowHost .host (2 ^ 32),
  .lgControl (.dma 32) 0 0, .lgControl .host 96 0, .lgControl .host 0 (2 ^ 32), .lineFix 96 0, .predStall 12 0,
  .rotationStart 96 0, .rotationEnd 96 0, .arm (.dma 32) 0, .arm .host 96, .disarm (.dma 32) 0, .disarm .host 96,
  .ttControl (.dma 32) 0 0, .ttControl .host 96 0, .ttControl .host 0 (2 ^ 32), .offsetWrite (.dma 32) 0 false 0,
  .offsetWrite .host 96 false 0, .offsetWrite .host 0 false (2 ^ 32), .bringup (.dma 32) 0 0, .bringup .host 96 0,
  .bringup .host 0 (2 ^ 32), .retire (.dma 32) 0 0, .retire .host 96 0, .retire .host 0 (2 ^ 32),
  .clrRetire (.dma 32) 0 0, .clrRetire .host 96 0, .clrRetire .host 0 (2 ^ 32), .lineFrameSend 96 0, .ackRx 96 0 0 0,
  .ackRx 0 16 0 0, .ackRx 0 0 (2 ^ 16) 0, .nakRx 96 0 0 0 0, .nakRx 0 16 0 0 0, .nakRx 0 0 (2 ^ 16) 0 0,
  .nakRx 0 0 0 256 0, .ackTimeout 96 0 0, .ackTimeout 0 (2 ^ 16) 0, .readDataRx 96 0 0 0 0, .readDataRx 0 16 0 0 0,
  .readDataRx 0 0 256 0 0, .readDataRx 0 0 0 (2 ^ 32) 0, .writeDoneRx 96 0 0 0 0, .writeDoneRx 0 16 0 0 0,
  .writeDoneRx 0 0 256 0 0, .writeDoneRx 0 0 0 256 0, .statusRx 96 0 0 0, .statusRx 0 16 0 0, .statusRx 0 0 1024 0,
  .trainResultRx 96 0 0 0 0 0, .trainResultRx 0 16 0 0 0 0, .trainResultRx 0 0 256 0 0 0,
  .trainResultRx 0 0 0 (2 ^ 16) 0 0, .trainResultRx 0 0 0 0 (2 ^ 16) 0, .cmdDoneRx 96 0 0 0 0, .cmdDoneRx 0 16 0 0 0,
  .cmdDoneRx 0 0 256 0 0, .cmdDoneRx 0 0 0 256 0, .retError 96 0, .cmdTimeout 96 0, .headSilent 96 0,
  .hpRcRead (.dma 32) 0, .hpRcRead .host 96, .hpRcWrite (.dma 32) 0, .hpRcWrite .host 96, .lineLatch 96 0,
  .hpPtCommitLine (.dma 32) 0, .hpPtCommitLine .host 96, .hpPtCommitBand (.dma 32) 0, .hpPtCommitBand .host 96,
  .pgConversionDue 8 0] : List Instr).all (fun i => !i.wellFormed) = true := by
  decide +kernel

/-- Each check of `Instr.wellFormed` refuses an operand out of its range, part 3. -/
theorem test_ill_formed3 : ([
  .pgVStale 8 0, .pgClampTimeout 8 0, .pgRampTimeout 8 0, .hpenOff 8 0, .pgEnable (.dma 32) 0 false,
  .pgEnable .host 8 false, .pgClrFault (.dma 32) 0 0, .pgClrFault .host 8 0, .pgClrFault .host 0 (2 ^ 32),
  .pgClrStats (.dma 32) 0 0, .pgClrStats .host 8 0, .pgClrStats .host 0 (2 ^ 32), .warmPulseDue 96 0,
  .rollIdleDue 96 0, .tempReadingDue 96 0, .tempAgeExpiry 96 0, .clrBroken (.dma 32) 0 0 none,
  .clrBroken .host 96 0 none, .clrBroken .host 0 (2 ^ 32) none, .clrSnsFault (.dma 32) 0 0 none,
  .clrSnsFault .host 96 0 none, .clrSnsFault .host 0 (2 ^ 32) none, .hpRankSet (.dma 32) 0 0, .hpRankSet .host 96 0,
  .hpRankSet .host 0 (2 ^ 32), .recWriteRequest (.dma 32) 0, .recWriteRequest .host 96, .recWriteCancel (.dma 32) 0,
  .recWriteCancel .host 96, .recWriteStart 96 0, .hpTwinWrite (.dma 32) 0 0, .hpTwinWrite .host 96 0,
  .hpTwinWrite .host 0 (2 ^ 32), .twinTakeOver (.dma 32) 0, .twinTakeOver .host 96, .twinHandBack (.dma 32) 0,
  .twinHandBack .host 96, .senseConversionDone 16 0 0, .senseConversionDone 0 (2 ^ 16) 0, .senseHoldCut 16 0,
  .senseConvTimeout 16 0, .calStart (.dma 32), .delayLineCalDone 120 (List.replicate 8 0) 0,
  .delayLineCalDone 0 [] 0, .sbStoreSave (.dma 32), .sbStoreLoad (.dma 32), .sbHostCmd (.dma 32) 0,
  .sbHostCmd .host (2 ^ 32), .clrRetired (.dma 32), .sbClrStats (.dma 32), .mtStart (.dma 32) 0, .mtStart .host 8,
  .mtAbort (.dma 32) 0, .mtAbort .host 8, .spitRotationDue 8 0 0, .spitRotationDue 0 96 0, .mtDwellExpiry 8 0,
  .mtCappedClr (.dma 32) 0, .mtCappedClr .host (2 ^ 32), .axEnable (.dma 32) 0 false, .axEnable .host 20 false,
  .axStopDisable (.dma 32) 0, .axStopDisable .host 20, .axDecelStop (.dma 32) 0, .axDecelStop .host 20,
  .axHalt (.dma 32) 0, .axHalt .host 20, .axClearHalt (.dma 32) 0 false, .axClearHalt .host 20 false,
  .axClearUncertain (.dma 32) 0, .axClearUncertain .host 20, .axMvPush (.dma 32) 0, .axMvPush .host 20,
  .axPosWrite (.dma 32) 0 0, .axPosWrite .host 20 0, .axPosWrite .host 0 (2 ^ 64), .followErrorTimeout 20 0,
  .axIgEnable (.dma 32) 0, .axIgEnable .host 4, .axIgRelease (.dma 32) 0] : List Instr).all (fun i => !i.wellFormed) = true := by
  decide +kernel

/-- Each check of `Instr.wellFormed` refuses an operand out of its range, part 4. -/
theorem test_ill_formed4 : ([
  .axIgRelease .host 4, .axIgStop (.dma 32) 0, .axIgStop .host 4, .axIgHalt (.dma 32) 0, .axIgHalt .host 4,
  .axIgPush (.dma 32) 0, .axIgPush .host 4, .chopTrip 20 0 ⟨0, 0⟩, .chopTrip 0 3 ⟨0, 0⟩, .chopOfftimeEnd 20 0 0,
  .chopOfftimeEnd 0 3 0, .pwmPeriodStart 20 0, .holdDelayExpiry 20 0, .bridgeFault 20 ⟨0, 0⟩, .fltGlitch 20 ⟨0, 0⟩,
  .ocTrip 20 0 ⟨0, 0⟩, .ocTrip 0 3 ⟨0, 0⟩, .openPhase 20 0 0, .openPhase 0 3 0, .stepLagTimeout 20 0,
  .monConversionDue 20 0, .heartbeatRx 0 0, .heartbeatRx (128) 0, .heartbeatLoss 4 0,
  .usdoDownloadInit 128 0 0 0 false 0 [] false 0, .usdoDownloadInit 0 3 0 0 false 0 [] false 0,
  .usdoDownloadInit 0 0 (2 ^ 16) 0 false 0 [] false 0, .usdoDownloadInit 0 0 0 256 false 0 [] false 0,
  .usdoDownloadInit 0 0 0 0 false (2 ^ 32) [] false 0, .usdoDownloadSegment 128 false [] false 0,
  .usdoUploadInit 128 0 0 0 false 0, .usdoUploadInit 0 3 0 0 false 0, .usdoUploadInit 0 0 (2 ^ 16) 0 false 0,
  .usdoUploadInit 0 0 0 256 false 0, .usdoUploadSegment 128 false false 0, .usdoTimeout 4 0, .rpdoRx 16 [] 0,
  .rpdoRx 0 (List.replicate 65 0) 0, .rpdoTimeout 16 0, .tpdoTransmit 16 false 0, .tpdoEventTimer 16 false 0,
  .syncRx 241 0, .timeRx (2 ^ 28) 0 0, .timeRx 0 (2 ^ 16) 0, .emcyHistoryClear (.dma 32), .canBusOff 2 0 0 0,
  .canBusOff 0 256 0 0, .canBusOff 0 0 256 0, .canBusRecovered 2 0, .canRxOverrun 2 0, .canEnableWrite (.dma 32) 0 0,
  .canEnableWrite .host 2 0, .canEnableWrite .host 0 (2 ^ 32), .irqVecWrite (.dma 32) 0 0, .irqVecWrite .host 8 0,
  .irqVecWrite .host 0 (2 ^ 32), .msixSend ⟨[(65536, 0)], []⟩ false 0, .msixSend ⟨[(0, 2 ^ 32)], []⟩ false 0,
  .msixSend ⟨[], [65536]⟩ false 0, .qEnWrite (.dma 32) 0, .qEnWrite .host (2 ^ 32), .dmaStart (.dma 32) 0,
  .dmaStart .host 32, .dmaStop (.dma 32) 0, .dmaStop .host 32, .dmaResume (.dma 32) 0, .dmaResume .host 32,
  .dmaSkip (.dma 32) 0, .dmaSkip .host 32, .dmaDescLoaded 32 (List.replicate 64 0) 0, .dmaDescLoaded 0 [] 0,
  .dmaDescDone 32 [] 0, .dmaAccessFail 32 0 3 false [] 0, .dmaAccessFail 0 0 2 false [] 0,
  .dmaAccessFail 0 0 (10 + 1) false [] 0, .modeCmdBoot (.dma 32), .modeCmdConfigure (.dma 32),
  .modeCmdStandby (.dma 32), .modeCmdReady (.dma 32), .modeCmdPrint (.dma 32)] : List Instr).all (fun i => !i.wellFormed) = true := by
  decide +kernel

/-- Each check of `Instr.wellFormed` refuses an operand out of its range, part 5. -/
theorem test_ill_formed5 : ([
  .modeCmdService (.dma 32), .modeCmdSafe (.dma 32), .modeCmdReset (.dma 32), .resetRelease 0 0,
  .resetRelease (16) 0, .inhibitSetFire (.dma 32), .inhibitSetMotionStop (.dma 32), .inhibitSetMotionOff (.dma 32),
  .inhibitClrHost (.dma 32), .inhibitClrPin (.dma 32), .inhibitClrRing (.dma 32), .supplyConversionDue 8 0,
  .suClrStats (.dma 32) 0, .suClrStats .host (2 ^ 32), .clrPgOv (.dma 32) 0, .clrPgOv .host (2 ^ 32),
  .clrShutdown (.dma 32) 0, .clrShutdown .host (2 ^ 32), .clrDieMax (.dma 32) 0, .clrDieMax .host (2 ^ 32),
  .rtcLoad (.dma 32), .rtcSecRead (.dma 32), .wakeClr (.dma 32), .vbatMeasure (2 ^ 16) 0 0, .chgRestart (.dma 32),
  .jnlClear (.dma 32), .bkJnlSelect (.dma 32) 0, .bkJnlSelect .host (2 ^ 32), .bkJnlHost (.dma 32) 0,
  .bkJnlHost .host (2 ^ 64), .bkGaugeSet (.dma 32) 0, .bkGaugeSet .host (2 ^ 32),
  .bootSequence [(544, 0, 0, 0)] false 0, .btRecoveryCmd (.dma 32) 0, .btRecoveryCmd .host (2 ^ 32),
  .softReset (.dma 32), .btWdtKick (.dma 32), .qspiRead (.dma 32), .qspiProgram (.dma 32), .qspiErase4k (.dma 32),
  .qspiErase64k (.dma 32), .qspiOpDone 4 0, .otRowRead (.dma 32) [], .otRowRead .host [(544, 0, 0, 0)],
  .otRowBurn (.dma 32), .otRescan (.dma 32) [], .otRescan .host [(544, 0, 0, 0)], .otLock (.dma 32),
  .otpBurnDone [(544, 0, 0, 0)] 0, .lcToVendorTest (.dma 32), .lcToProvision (.dma 32), .lcToField (.dma 32),
  .lcToReturn (.dma 32), .lcToScrapped (.dma 32), .fiKey (.dma 32) 0, .fiKey .host (2 ^ 32), .fiArm (.dma 32),
  .fiCancel (.dma 32), .trainingTimeout 96 0, .wireDisagreementHeld 12 0 0, .wireDisagreementHeld 0 3 0,
  .invalidHallHeld 12 0, .wireAgreementRestored 12 0 ⟨0, 0⟩, .wireAgreementRestored 0 3 ⟨0, 0⟩,
  .deepSpacingDue 8 0 0, .deepSpacingDue 0 96 0] : List Instr).all (fun i => !i.wellFormed) = true := by
  decide +kernel

/-! ### Small states -/

/-- In CONFIGURE. -/
def cf : State := State.reset.set O.MD_MODE 2

def rowOf (o : Obj) : Row := (o.row).getD ⟨0, 0, .u8, .rw, 0, 0, 0, 0, .any⟩

/-- In CONFIGURE with ring participation and the input up. -/
def rn : State := ((cf.setB O.FJ_CONTROL B.FJ_CONTROL_ENABLE true).fjPut B.FJ_STATUS_IN_LINK_UP true).set O.FJ_UID 77

/-- In CONFIGURE; head 0 has 8 nozzles, one row and one group. -/
def rc8 : State := cf.set (O.RC_WORD 0 4) (8 + 2 ^ 16 + 2 ^ 24)

/-- In READY: head 0 and its group are up, its train is valid, a FIXED predictor, and nothing refuses ARM. -/
def armable : State :=
  let s := ((((rc8.set O.MD_MODE 4).set O.MD_INHIBIT_STATUS 0).setB O.CK_STATUS B.CK_STATUS_TIME_VALID true).set (O.MT_CAPPED 0) 0).setF (O.HP_PG_STATUS 0) B.HP_PG_STATUS_STATE 2
  let s := (((s.setF (O.HP_STATE 0) B.HP_STATE_LINK 3).setB (O.HP_STATE 0) B.HP_STATE_RC_VALID true).set (O.RC_WORD 0 5) (3 + 2 ^ 8 * 4 + 2 ^ 16 * 1000)).set (O.RC_WORD 0 7) (2 ^ 16 * 4)
  let s := (((s.set (O.HP_PT_PULSES_LIVE 0) 1).set (O.HP_PT_WIDTH_LIVE 0 0) 10000).set (O.HP_PT_SLOT_LIVE 0) 20000).set (O.HP_PT_V_NOM_LIVE 0) 100
  let s := ((s.set (O.HP_PG_V_NOM 0) 100).set (O.TT_PRED_CONFIG 0) 2).set (O.TT_FIXED_PERIOD 0) 10000000
  (s.set (O.LG_ALLOC 0) 8).set (O.TT_SEND_LEAD 0) 10000

/-- In PRINT, port 0 armed, its scheduler about to place line 0 of the RUNNING job 0. -/
def placing : State :=
  let s := (armable.arm 0).set O.MD_MODE 5
  let s := (s.set (O.JOB_STATE 0) 2).set (O.JOB_FLAGS 0) 0x300
  let s := s.setJob 0 { planes := [{ width := 8 }], stripes := [{ cols := 8 }], bands := [{ lines := 4, ents := [{}], left := [0] }], bases := [(0, 0)], srv := [(0, (0, 0))] }
  s.setSched 0 { s.sched 0 with job := some 0 }

/-- Port 0 has one RELEASED line. -/
def fixing : State := placing.setSched 0 { lines := [{ pos := 65536 }] }

/-- As `armable`, with a shadow pulse train that passes its checks. -/
def trainOk : State :=
  let s := (armable.set (O.HP_PT_PULSES 0) 1).set (O.HP_PT_WIDTH 0 0) 10000
  (s.set (O.HP_PT_SLOT 0) 20000).set (O.HP_PT_V_NOM 0) 100

/-- As `armable`, with head 0 BROKEN and a temperature slope in its report card. -/
def brk : State := ((armable.setF (O.HP_HEALTH_STATUS 0) B.HP_HEALTH_STATUS_THERMAL 3).set (O.RC_WORD 0 14) (2 ^ 16 * 750)).set (O.RC_WORD 0 1) (2 ^ 16 * 10000)

/-- As `armable` in SERVICE; maintenance slot 0 may start an UNCAP of head 0 with axis 0. -/
def mtOk : State :=
  let s := ((armable.set O.MD_MODE 6).set (O.MT_KIND 0) 4).set (O.MT_PORTS 0 0) 1
  let s := (s.setB (O.AX_STATUS 0) B.AX_STATUS_POS_UNCERTAIN false).setB (O.AX_STATUS 1) B.AX_STATUS_POS_UNCERTAIN false
  (s.set (O.MT_AUX_AXIS 0) 0).set (O.MT_STATION 0) 0xFF

/-- As `armable`, with a configured stage on axis 0 and nothing that stops motion. -/
def axOk : State :=
  (((armable.set (O.DS_RSENSE 0) 100).set (O.DS_OC_LIMIT 0) 1000).set (O.DS_I_RUN 0) 100).set O.MD_INHIBIT_STATUS 0

/-- Axis 0 IDLE. -/
def axIdle0 : State := axOk.axState 0 1

def axPush : State := ((((axIdle0.set (O.AX_MV_KIND 0) 1).set (O.AX_MV_VEL 0) 10).set (O.AX_MV_ACC 0) 10).set (O.AX_MV_DEC 0) 10).set (O.AX_MV_TARGET 0) 100

def igOk : State := (axIdle0.axState 1 1).set (O.AX_IG_MEMBERS 0) 3

def igOn : State := ((igOk.set (O.AX_IG_STATUS 0) 1).set (O.AX_OWNER 0) 2).set (O.AX_OWNER 1) 2

/-- Axis 17 with interface 0 as its Hall input, at rest in sector 0, its outputs on. -/
def hallOk : State :=
  let s := (axIdle0.axState 17 1).setB (O.DS_STATUS 17) B.DS_STATUS_OUTPUTS_OFF false
  let s := s.setF (O.AX_CONFIG 17) B.AX_CONFIG_HALL_PI 0
  s.setF (O.PI_STATUS 0) B.PI_STATUS_INPUT 1

/-- In CONFIGURE with CAN0 enabled and the node pre-operational. -/
def can0 : State := ((cf.setB (O.MD_CAN_CONFIG 0) B.MD_CAN_CONFIG_ENABLE true).setB (O.MD_CAN_CONFIG 0) B.MD_CAN_CONFIG_AUTO_RECOVER true).set O.MD_NMT_STATE 127

def can0op : State := can0.set O.MD_NMT_STATE 5

/-- Operational, with RPDO 0 and TPDO 0 valid, event-driven and empty. -/
def pdoOk : State := (((can0op.set (cobj 0x400 1) 0x200).set (cobj 0x400 2) 255).set (cobj 0x800 1) 0x180).set (cobj 0x800 2) 1

/-- A session of client 5. -/
def usdoS (up : Bool) : State := can0.setNet { can0.net with sess := [(0, { client := 5, index := 0x2400, sub := 9, upload := up })] }

def usdoS1 (up : Bool) : State :=
  let s := ((usdoS up).adv 0).inc (O.MD_CAN_RX_FRAMES 0)
  s.setSess 0 { tget {} s.net.sess 0 with toggle := true, lastAt := s.up }

/-- Held in RESET by one cause. -/
def rst (cause : Nat) : State := cf.resetEvent cause

/-- As in CONFIGURE, injection unlocked, point 77 (the event buffer) in ONCE mode. -/
def fiOk : State := ((cf.setB O.FI_STATUS B.FI_STATUS_UNLOCKED true).set O.FI_POINT 77).set O.FI_MODE 1

/-- Held in BOOT's recovery, with a header of body length 64 in the boot RAM. -/
def recov : State := (State.reset.setB O.BT_STATUS B.BT_STATUS_RECOVERY_WAIT true).mput (bootAddr 0x14) 64

/-- In CONFIGURE, with no supply in curfew. -/
def calm : State := cf.set O.SU_STATUS 0

/-- In CONFIGURE in the state VENDOR_TEST. -/
def prov : State := calm.set O.OT_LC_STATE 1

/-- In FIELD, otherwise as `prov`. -/
def fieldSt : State := prov.set O.OT_LC_STATE 3

/-- The words of a digest `d`, as rows 176 to 187 of the shadow. -/
def tokWords (d : Nat) : List (Nat × Nat) := (List.range 12).map (fun i => (176 + i, d / 2 ^ (32 * i) % 2 ^ 32))

/-- A state with the digest `d` in rows 176 to 187 of the shadow. -/
def withTok (s : State) (d : Nat) : State := s.setOtp { s.otp with shadow := tokWords d }
theorem withTok_get (s : State) (d : Nat) (o : Obj) : (withTok s d).get o = s.get o := rfl
theorem withTok_mode (s : State) (d : Nat) : (curfew (withTok s d) = curfew s ∧ burnMode (withTok s d) = burnMode s) ∧ burnBusy (withTok s d) = burnBusy s :=
  ⟨⟨rfl, rfl⟩, rfl⟩
theorem withTok_serves (s : State) (d : Nat) (p : Path) (o : Obj) : (withTok s d).serves p o = s.serves p o := rfl
theorem words_sum (d n : Nat) : (List.range n).foldl (fun a i => a + d / 2 ^ (32 * i) % 2 ^ 32 * 2 ^ (32 * i)) 0 = d % 2 ^ (32 * n) := by
  induction n with
  | zero => simp [Nat.mod_one]
  | succ n ih =>
    rw [List.range_succ, List.foldl_append, ih]
    simp only [List.foldl_cons, List.foldl_nil]
    rw [Nat.mul_succ, Nat.pow_add, Nat.mod_mul, Nat.mul_comm (2 ^ (32 * n)) (_ % _)]
theorem tget_range (f : Nat → Nat) (i : Nat) : ∀ n k, i < n → tget 0 ((List.range' k n).map (fun j => (176 + j, f j))) (176 + (k + i)) = f (k + i) := by
  induction i with
  | zero => intro n k h; cases n with
    | zero => omega
    | succ n => simp [List.range', tget]
  | succ i ih => intro n k h; cases n with
    | zero => omega
    | succ n =>
      have e := ih n (k + 1) (by omega)
      rw [show k + 1 + i = k + (i + 1) by omega] at e
      simp only [List.range'_succ, List.map_cons, tget]
      rw [if_neg (by omega)]; exact e
theorem withTok_row (s : State) (d i : Nat) (h : i < 12) : shadowRow (withTok s d) (176 + i) = d / 2 ^ (32 * i) % 2 ^ 32 := by
  have := tget_range (fun i => d / 2 ^ (32 * i) % 2 ^ 32) i 12 0 h
  rw [Nat.zero_add, ← List.range_eq_range'] at this
  exact this
theorem withTok_sum (s : State) (d : Nat) : (List.range 12).foldl (fun a i => a + shadowRow (withTok s d) (176 + i) * 2 ^ (32 * i)) 0 = d % 2 ^ (32 * 12) := by
  rw [← words_sum d 12]
  exact List.foldl_ext _ _ _ (fun a i hi => by rw [withTok_row s d i (List.mem_range.mp hi)])
theorem withTok_matches (s : State) : ∃ d, tokenMatches (withTok s d) = true :=
  ⟨Config.freeDigest ((List.range 8).flatMap (fun k => bytesLE 4 (s.get (O.OT_TOKEN k)))), by
    simp only [tokenMatches, withTok_sum, withTok_get, decide_eq_true_eq]⟩
theorem fieldSt_ok : (fieldSt.get O.OT_LC_STATE = 3 ∧ fieldSt.get O.OT_TOKEN_FAILS = 0) ∧ (curfew fieldSt = false ∧ burnMode fieldSt = true) ∧ burnBusy fieldSt = false := by
  decide +kernel
theorem fieldTok_passes : ∃ d, lcRefusal (withTok fieldSt d) 4 = none := by
  obtain ⟨d, ht⟩ := withTok_matches fieldSt
  obtain ⟨⟨hc, hm⟩, hb⟩ := withTok_mode fieldSt d
  obtain ⟨⟨h1, h2⟩, ⟨h3, h4⟩, h5⟩ := fieldSt_ok
  exact ⟨d, by simp [lcRefusal, withTok_get, h1, h2, ht, hc, hm, hb, h3, h4, h5]⟩

/-! ### Worked examples of the spec -/

/-- Intake chapter: a run-coded line of 2-bit samples. -/
theorem test_run_line :
    (record 2 [] [3, 0x63, 0, 3, 2, 0x7F, 0, 0x17, 0]).toOption =
      some (List.replicate 100 0 ++ List.replicate 4 2 ++ List.replicate 152 0, []) := by decide +kernel

/-- Intake chapter: the next line, coded as the run-coded exclusive or with it. -/
theorem test_xrun_line :
    (record 2 (List.replicate 100 0 ++ List.replicate 4 2 ++ List.replicate 152 0)
        [4, 0x64, 0, 1, 3, 0x7F, 0, 0x18, 0]).toOption =
      some (List.replicate 100 0 ++ [2, 1, 1, 2] ++ List.replicate 152 0, []) := by decide +kernel

/-- Table 5.14: opcode 5 is error 1, a token past sample 255 error 2. -/
theorem test_tile_errors :
    (match record 2 [] [5] with | .error e => e | .ok _ => 0) = 1 ∧
      (match record 2 [] [3, 0x7F, 0, 0x7F, 0, 0, 0] with | .error e => e | .ok _ => 0) = 0 ∧
      (match record 2 [] [3, 0x7F, 0, 0x7E, 0, 1, 0] with | .error e => e | .ok _ => 0) = 2 := by decide +kernel

/-- The check value of the CRC-32 of IEEE 802.3 (R61): of the nine bytes "123456789". -/
theorem test_crc32 : crc32 [0x31, 0x32, 0x33, 0x34, 0x35, 0x36, 0x37, 0x38, 0x39] = 0xCBF43926 := by decide +kernel

/-- Screening chapter: a contone sample of 128 under the density entry 0x75FD, and its level. -/
theorem test_screen_example :
    let b : ScrLive := { nlev := 4, levels := [0, 300, 620, 1023, 0, 0, 0, 0] }
    (workingValue b 0 3 128).1 = 514 ∧ densityApply 0x75FD 514 = 490 ∧ levelOf b 490 = (1, 608) := by decide +kernel

/-- Stitching chapter: the ramp of a blend zone of 64 columns. -/
theorem test_blend_ramp : rampValue 0 64 = 3 ∧ rampValue 31 64 = 126 ∧ rampValue 63 64 = 252 := by decide

/-- Firing chapter: the stretched and shrunk widths of the label press's train. -/
theorem test_width_bounds : wMax 1536 = 1997 ∧ wMax 4096 = 5325 ∧ wMin 1536 = 1228 ∧ wMin 4096 = 3276 := by decide

/-- Firing chapter: k_q at V_NOM is ρ, and the main pulse it gives (Table 10.4). -/
theorem test_energy : kOf 16589 32000 32000 = 16589 ∧ regulated 4096 16589 = 4147 := by decide +kernel

/-- Sense bank chapter: the calibration of SC5. -/
theorem test_calibration : calResult 56 524644 983656 = (32749, 59, true) := by decide +kernel

/-- Drive chapter: the microstep of ST3 at 300 au and its chop codes. -/
theorem test_sine : sineDefault.getD 211 0 = 3943 ∧ sineDefault.getD 44 0 = 1104 := by decide +kernel
theorem test_chop :
    chopCode (State.reset.set (O.DS_RSENSE 3) 100) 3 3943 (2000, 1) = 1577 ∧
      chopCode (State.reset.set (O.DS_RSENSE 3) 100) 3 1104 (2000, 1) = 442 ∧
      chopCode (State.reset.set (O.DS_RSENSE 3) 100) 3 3943 (1000, 1) = 789 ∧
      chopCode (State.reset.set (O.DS_RSENSE 3) 100) 3 1104 (1000, 1) = 221 := by decide +kernel

/-- Head port chapter: the frame and the least send lead of 3,072 nozzles at 2 bits. -/
theorem test_send_lead :
    let s := (State.reset.set (O.RC_WORD 7 4) 3072).setF (O.SCR_CONFIG_LIVE 7) B.SCR_CONFIG_OUT_BITS 2
    frameUnits s 7 = 48 ∧ leastLead s 7 = 1642 := by decide +kernel

/-- Ring chapter: node 1 is 2.25 fu ahead, and steers by −1,890. -/
theorem test_steering : (State.reset.follow 576 false).getI O.CK_RATE_ADJ = -1890 := by decide +kernel

/-- Motion chapter: the trapezoidal move of ten revolutions takes 2.2 s, the one with JERK 12,800 takes 2.3 s. -/
theorem test_move_time :
    totalDur (planTo 0 0 0 (512000 * 2 ^ 32) 0 (256000 * 2 ^ 32) 1280000 1280000 0).segs / 2 ^ 40 / fuMs = 2200 ∧
      (totalDur (planTo 0 0 0 (512000 * 2 ^ 32) 0 (256000 * 2 ^ 32) 1280000 1280000 12800).segs / 2 ^ 40 + fuUs) / fuMs = 2300 := by
  decide +kernel

/-- Timetable chapter: the web's predictor at an edge every 4 µs, and the time of line 100 of port 12. -/
theorem test_prediction :
    let p : Pred := { edges := (List.range 17).map (fun k => (17179869184 - 102400 * k, 26421 - k)), e := 17 }
    (predFit p 8 0).map (fun r => (r.1, r.2.1)) = some (divRound (8 * 2 ^ 80) 819200, 0) := by decide +kernel

/-- Motion chapter: the cap of the slow request on the web axis. -/
theorem test_slow_cap : slowCap (State.reset.set (O.AX_SLOW_FACTOR 16) 60075) 16 304800 = 279401 := by decide +kernel

/-- R3: position differences are signed modulo 2^48. -/
theorem test_position_wraps : posDiff 5 (2 ^ 48 - 3) = 8 ∧ posDiff (2 ^ 48 - 3) 5 = -8 := by decide +kernel

/-- Position chapter: a count every 102,400 fu over 16 edges is a PI_SPEED of 16,384. -/
theorem test_speed :
    let s := (((State.reset.adv 10000000).setB (O.PI_STATUS 2) B.PI_STATUS_STOPPED false).setPif 2
      { (State.reset.pif 2) with edges := (List.range 17).map (fun k => 9999936 - 102400 * k) })
    speedOf (s.set (O.PI_SPEED_EDGES 2) 16) 2 = 16384 := by decide +kernel

/-- Position chapter: the compare values of MS7 run on by its spacing with their fraction. -/
theorem test_milestone :
    let s := (State.reset.set (O.MS_COMPARE_LO 7) 0x03E80000).set (O.MS_SPACING 7) 0x00043BBC
    msCompare (s.msMove 7 1) 7 = 0x03E80000 + 0x43BBC ∧ msCompare (s.msMove 7 5) 7 / 65536 = 1021 := by decide +kernel

/-- Screening chapter: nozzle 1,500 masked by the host takes entry 0, which reads 0xC899_85DC. -/
theorem test_mask_entry :
    (match execScrMaskCmdMask .host 7 (2 ^ 31 + 1500) (cf.set (O.RC_WORD 7 4) 3072) with
      | .next s => s.get (O.SCR_COMP 7 0)
      | _ => 0) = 0xC89985DC := by decide +kernel

/-- R424: the commands of the queue are taken from its front; with none, a FIRE tick passes. -/
theorem test_queue :
    (match step { cf with pending := [.msDisable .host 0 0, .nop] } with | .next s => s.pending | _ => []) = [.nop] ∧
      (match step cf with | .next s => s.up | _ => 0) = 64 := by decide +kernel

/-- Table 18.18: PRINT from CONFIGURE is no change of Table 18.2, and is refused with 2. -/
theorem test_mode_refused :
    (match execModeCmdPrint .host cf with | .next s => (s.mode, s.get O.MD_MODE_RESULT) | _ => (0, 0)) = (2, 2) := by decide +kernel

/-- The table gives no row bits, so that no word spells a command. -/
theorem test_words : decodeTableWord 32 0 = none ∧ decodeTableWord 8 1 = none := by decide

/-- Balls chapter: the blocks of ports 37 and 90, and the names of their rows. -/
theorem test_port_block :
    portBall 37 .fiP = some ⟨8, 28⟩ ∧ portBall 37 .sns = some ⟨14, 29⟩ ∧ portBall 90 .fiN = some ⟨42, 39⟩ ∧ portBall 90 .ret = some ⟨36, 38⟩ ∧
      rowName 8 = ['H'] ∧ rowName 14 = ['P'] ∧ rowName 42 = ['B', 'D'] ∧ rowName 36 = ['A', 'V'] := by decide

/-! ### What meets the hypotheses of each statement -/

theorem meets_ClockConditionsAct :
    (∃ (t : Nat) (s1 : State) (s : State), ((s.adv t).clk.inReset = false) ∧
      (ckBit (s.adv t) B.CK_STATUS_REF_OK = true) ∧
      (s1 = ((s.adv t).hit O.CK_EVENTS B.CK_EVENTS_REF_LOSS 540 1).ckPut B.CK_STATUS_REF_OK false)) ∧
    (∃ (t : Nat) (s : State), ((s.adv t).clk.inReset = false)) ∧
    (∃ (t : Nat) (a : Nat) (s : State), ((s.adv t).clk.holdSince = some a) ∧
      (a + (s.adv t).get O.CK_HOLDOVER_LIMIT * fuUs < (s.adv t).up)) ∧
    (∃ (t : Nat) (s : State), ((s.adv t).clk.inReset = false) ∧ (ckBit (s.adv t) B.CK_STATUS_HOLDOVER = false) ∧
      (ckBit (s.adv t) B.CK_STATUS_ROOT_LOCKED = true)) ∧
    (∃ (t : Nat) (s : State), ((s.adv t).clk.inReset = false) ∧ ((s.adv t).clk.divBad = false)) ∧
    (∃ (_divOk : Bool) (t : Nat) (a : Nat) (s : State), ((s.adv t).clk.lostAt = some a) ∧
      ((s.adv t).up ≤ a + 200 * fuUs)) ∧
    (∃ (t : Nat) (a : Nat) (s : State), ((s.adv t).clk.lostAt = some a) ∧ (a + 200 * fuUs ≤ (s.adv t).up)) ∧
    (∃ (t : Nat) (s : State), ((s.adv t).clk.inReset = false) ∧ (ckBit (s.adv t) B.CK_STATUS_PCIE_REF_OK = true)) ∧
    (∃ (t : Nat) (s : State), ((s.adv t).bit O.BK_STATUS B.BK_STATUS_RTC_RC = false)) ∧
    (∃ (t : Nat) (s1 : State) (s : State), ((s.adv t).bit O.BK_STATUS B.BK_STATUS_RTC_RC = true) ∧
      (s1 = (((s.adv t).setBk { (s.adv t).bk with rcRate := 0 }).setB O.BK_STATUS B.BK_STATUS_RTC_RC false).journal 0xE 1)) :=
  ⟨⟨0, _, (State.reset.setB O.CK_CONTROL B.CK_CONTROL_HOLDOVER_EN true).ckPut B.CK_STATUS_REF_OK true, by decide +kernel, by decide +kernel, rfl⟩,
    ⟨0, State.reset, by decide +kernel⟩,
    ⟨2^50, 0, State.reset.setClk { holdSince := some 0 }, by decide +kernel⟩,
    ⟨0, State.reset.ckPut B.CK_STATUS_ROOT_LOCKED true, by decide +kernel⟩,
    ⟨0, State.reset, by decide +kernel⟩,
    ⟨false, 0, 0, State.reset.setClk { lostAt := some 0 }, by decide +kernel⟩,
    ⟨200*25600, 0, State.reset.setClk { lostAt := some 0 }, by decide +kernel⟩,
    ⟨0, State.reset.ckPut B.CK_STATUS_PCIE_REF_OK true, by decide +kernel⟩,
    ⟨0, State.reset, by decide +kernel⟩,
    ⟨0, _, State.reset.setB O.BK_STATUS B.BK_STATUS_RTC_RC true, by decide +kernel, rfl⟩⟩

theorem meets_ClockWritesAct :
    (∃ (p : Path) (s : State), (s.serves p (O.CK_PT_LOAD) = true) ∧ (s.mode ≠ mdPrint) ∧ (timedEntry s = false) ∧
      (ckBit s B.CK_STATUS_TIME_STEERED = false) ∧ (s.get O.CK_PT_SET_LO + 2 ^ 32 * s.get O.CK_PT_SET_HI < 2 ^ 63) ∧
      (s.get O.CK_PT_SET_LO % 64 = 0)) ∧
    (∃ (p : Path) (s : State), (s.serves p (O.CK_SNAPSHOT) = true)) ∧
    (∃ (p : Path) (s : State), (s.serves p (O.CK_CONTROL) = true) ∧ (ckBit s B.CK_STATUS_ROOT_LOCKED = true) ∧
      (ckBit s B.CK_STATUS_REF_OK = true) ∧ (s.clk.divBad = false) ∧
      (s.fits O.CK_CONTROL (putBit (s.get O.CK_CONTROL) B.CK_CONTROL_CLR_INHIBIT true) = true) ∧
      (clockInhibit s = true) ∧ (frozen s = false)) ∧
    (∃ (p : Path) (on : Bool) (s : State), (s.serves p (O.CK_CONTROL) = true) ∧
      (s.fits O.CK_CONTROL (putBit (s.get O.CK_CONTROL) B.CK_CONTROL_DL_FREEZE on) = true) ∧
      (bitOf (s.get O.CK_CONTROL) B.CK_CONTROL_CLR_INHIBIT = false) ∧ (frozen s = false)) :=
  ⟨⟨.host, cf, by decide +kernel⟩,
    ⟨.host, cf, by decide +kernel⟩,
    ⟨.host, ((cf.ckPut B.CK_STATUS_ROOT_LOCKED true).ckPut B.CK_STATUS_REF_OK true).ckPut B.CK_STATUS_CLOCK_INHIBIT true, by decide +kernel⟩,
    ⟨.host, false, cf, by decide +kernel⟩⟩

theorem meets_PllLockStartsBoot : ∃ (_straps : Nat) (t : Nat) (s : State), ((s.adv t).clk.inReset = true) ∧ ((s.adv t).modes.causes = []) :=
  ⟨0, 0, State.reset.setClk { inReset := true }, by decide +kernel⟩

theorem meets_DictionaryAccessActs :
    (∃ (p : Path) (index : Nat) (sub : Nat) (w : Nat) (o : Obj) (r : Row) (s : State), (p ≠ .net) ∧
      (reaches s p = true) ∧ (served s index = true) ∧ (named s p index sub = .num o r) ∧ (o.grp = .pi) ∧ (o.sub ≠ 3) ∧
      (o.sub ≠ 4) ∧ (r.acc = .rw) ∧ (r.ty.bits ≤ 32) ∧ (r.ty.wordOk (trunc 32 w) = true) ∧
      (r.check (s.get o) (trunc r.ty.bits w) = none)) ∧
    (∃ (p : Path) (index : Nat) (sub : Nat) (w : Nat) (o : Obj) (r : Row) (s : State), (p ≠ .net) ∧
      (reaches s p = true) ∧ (served s index = true) ∧ (named s p index sub = .num o r) ∧ (r.acc = .rc) ∧
      (r.ty.bits ≤ 32) ∧ (r.ty.wordOk (trunc 32 w) = true)) ∧
    (∃ (p : Path) (index : Nat) (sub : Nat) (w : Nat) (n : Nat) (r : Row) (s : State), (p ≠ .net) ∧
      (reaches s p = true) ∧ (served s index = true) ∧ (named s p index sub = .num (O.TT_FIXED_START n) r) ∧
      (predBound s n = false) ∧
      (r.check (s.get (O.TT_FIXED_START n)) (trunc 32 w + 2 ^ 32 * s.get (O.MD_DICT_HI_STAGE p.slot)) = none)) ∧
    (∃ (p : Path) (index : Nat) (sub : Nat) (o : Obj) (r : Row) (s : State), (p ≠ .net) ∧ (reaches s p = true) ∧
      (served s index = true) ∧ (named s p index sub = .num o r) ∧ (r.acc = .rc)) ∧
    (∃ (p : Path) (index : Nat) (sub : Nat) (o : Obj) (r : Row) (s : State), (p ≠ .net) ∧ (reaches s p = true) ∧
      (served s index = true) ∧ (named s p index sub = .num o r) ∧ (r.ty.bits = 64) ∧ (r.ty.signed = false) ∧
      (r.acc ≠ .rc) ∧ (r.acc ≠ .wo)) ∧
    (∃ (x : Nat) (_bytes : List Byte) (n : Nat) (ecc : Nat) (s : State), (reaches s .host = true) ∧
      (s.mode ≠ mdBoot) ∧ (s.get O.BS_WIN_TARGET = 0) ∧ (windowBase s + x + n ≤ bandBytes s) ∧ (ecc = 0)) ∧
    (∃ (x : Nat) (bytes : List Byte) (_n : Nat) (_ecc : Nat) (s : State), (reaches s .host = true) ∧
      (s.mode ≠ mdBoot) ∧ (s.get O.BS_WIN_TARGET = 0) ∧ (windowBase s + x + bytes.length ≤ bandBytes s)) :=
  ⟨⟨.host, 0x2400, 9, 7, ⟨.pi, 0, 9⟩, rowOf ⟨.pi, 0, 9⟩, cf, by decide +kernel⟩,
    ⟨.host, 0x2000, 4, 1, ⟨.md, 0, 4⟩, rowOf ⟨.md, 0, 4⟩, cf, by decide +kernel⟩,
    ⟨.host, 0x2510, 13, 1, 0, rowOf (O.TT_FIXED_START 0), cf, by decide +kernel⟩,
    ⟨.host, 0x2000, 4, ⟨.md, 0, 4⟩, rowOf ⟨.md, 0, 4⟩, cf, by decide +kernel⟩,
    ⟨.host, 0x2510, 13, ⟨.pred, 0, 13⟩, rowOf (O.TT_FIXED_START 0), cf, by decide +kernel⟩,
    ⟨0, [], 1, _, cf.set O.BS_CAPACITY 1, by decide +kernel, by decide +kernel, by decide +kernel, by decide +kernel, rfl⟩,
    ⟨0, [1, 2], 0, 0, cf.set O.BS_CAPACITY 1, by decide +kernel⟩⟩

theorem meets_RingFormsAndBreaks :
    (∃ (t : Nat) (s : State), ((s.ringAdv t).clk.inReset = false) ∧
      (fjBit (s.ringAdv t) B.FJ_STATUS_IN_LINK_UP = false)) ∧
    (∃ (t : Nat) (s : State), (hears (s.ringAdv t) = true)) ∧
    (∃ (t : Nat) (s : State), ((s.ringAdv t).clk.inReset = false) ∧
      ((window (s.ringAdv t) (s.ringAdv t).ring.badAt).length ≤ 16)) ∧
    (∃ (t : Nat) (s : State), (hears (s.ringAdv t) = true) ∧ (ringPassive (s.ringAdv t) = false) ∧
      ((s.ringAdv t).ring.electing = false) ∧ ((s.ringAdv t).ring.formDue = true) ∧
      ((s.ringAdv t).ring.upAt + 100 * fuUs ≤ (s.ringAdv t).up) ∧
      ((s.ringAdv t).ring.timeAt.all (fun a => decide (a + 100 * fuUs ≤ (s.ringAdv t).up)))) ∧
    (∃ (t : Nat) (s : State), (hears (s.ringAdv t) = true) ∧ (ringPassive (s.ringAdv t) = false) ∧
      ((s.ringAdv t).ring.electing = true) ∧ (stands (s.ringAdv t) = false) ∧ ((s.ringAdv t).ring.heardElect = false) ∧
      ((s.ringAdv t).ring.electAt + 50 * fuUs ≤ (s.ringAdv t).up)) ∧
    (∃ (p : Path) (s : State), (s.serves p O.FJ_CONTROL = true) ∧
      (ringPassive (s.set O.FJ_CONTROL (s.get O.FJ_CONTROL)) = false)) ∧
    (∃ (_src : Nat) (_hops : Nat) (_seq : Nat) (_priority : Nat) (_flags : Nat) (t : Nat) (s : State), (hears (s.ringAdv t) = true) ∧
      (ringPassive (s.ringAdv t) = false) ∧ (stands (s.ringAdv t) = true) ∧ ((s.ringAdv t).ring.electing = true)) ∧
    (∃ (_src : Nat) (_hops : Nat) (_seq : Nat) (_uid : Nat) (_priority : Nat) (_flags : Nat) (t : Nat) (s : State), (hears (s.ringAdv t) = true) ∧
      (ringPassive (s.ringAdv t) = true)) ∧
    (∃ (_src : Nat) (_hops : Nat) (_seq : Nat) (uid : Nat) (_priority : Nat) (_flags : Nat) (t : Nat) (s1 : State) (s : State), (hears (s.ringAdv t) = true) ∧
      (ringPassive (s.ringAdv t) = false) ∧ (uid ≠ (s.ringAdv t).get O.FJ_UID) ∧ ((s.ringAdv t).ring.electing = true) ∧
      (s1 = (s.ringAdv t).setRing { (s.ringAdv t).ring with heardElect := true })) ∧
    (∃ (_src : Nat) (_hops : Nat) (_seq : Nat) (_master : Nat) (next : Nat) (_passive : Nat) (t : Nat) (s : State), (hears (s.ringAdv t) = true) ∧
      ((s.ringAdv t).mode ≠ mdBoot) ∧ ((s.ringAdv t).bit O.FJ_CONTROL B.FJ_CONTROL_ENABLE = true) ∧
      (fjBit (s.ringAdv t) B.FJ_STATUS_MASTER = false) ∧ (next ≤ 15)) ∧
    (∃ (src : Nat) (_hops : Nat) (_seq : Nat) (_master : Nat) (_size : Nat) (_passive : Nat) (_formedAt : Nat) (_loop : Nat) (t : Nat) (s : State), (hears (s.ringAdv t) = true) ∧
      (ownCell (s.ringAdv t) src = false) ∧ ((s.ringAdv t).mode ≠ mdBoot) ∧
      ((s.ringAdv t).bit O.FJ_CONTROL B.FJ_CONTROL_ENABLE = true) ∧ (fjBit (s.ringAdv t) B.FJ_STATUS_MASTER = false)) ∧
    (∃ (t : Nat) (s : State), (fjBit (s.ringAdv t) B.FJ_STATUS_MASTER = true) ∧
      (∃ p ∈ (s.ringAdv t).ring.timeOut, p.2 + (s.ringAdv t).get O.FJ_LOOP_DELAY / 256 + 2 * fuUs < (s.ringAdv t).up)) ∧
    (∃ (src : Nat) (_hops : Nat) (_seq : Nat) (_ev : Nat) (cls : Nat) (_raised : Nat) (_detail : Nat) (t : Nat) (s : State), (hears (s.ringAdv t) = true) ∧
      (ownCell (s.ringAdv t) src = false) ∧ (ringNode (s.ringAdv t) = true) ∧
      (faultAction (s.ringAdv t) (cls % 4) = 2) ∧ (cls ≠ 3)) :=
  ⟨⟨0, State.reset, by decide +kernel⟩,
    ⟨0, State.reset.fjPut B.FJ_STATUS_IN_LINK_UP true, by decide +kernel⟩,
    ⟨0, State.reset, by decide +kernel⟩,
    ⟨2560000, rn.setRing { formDue := true }, by decide +kernel⟩,
    ⟨2560000, (rn.setRing { electing := true }).set O.FJ_PRIORITY 0, by decide +kernel⟩,
    ⟨.host, rn, by decide +kernel⟩,
    ⟨0, 0, 0, 0, 0, 0, (rn.setRing { electing := true }).set O.FJ_PRIORITY 5, by decide +kernel⟩,
    ⟨0, 0, 0, 0, 0, 0, 0, rn.fjPut B.FJ_STATUS_PASSIVE true, by decide +kernel⟩,
    ⟨0, 0, 0, 78, 0, 0, 0, _, rn.setRing { electing := true }, by decide +kernel, by decide +kernel, by decide +kernel, by decide +kernel, rfl⟩,
    ⟨0, 0, 0, 0, 3, 0, 0, rn, by decide +kernel⟩,
    ⟨0, 0, 0, 0, 0, 0, 0, 0, 0, rn, by decide +kernel⟩,
    ⟨100000, (rn.setRing { timeOut := [(0, 0)] }).fjPut B.FJ_STATUS_MASTER true, by decide +kernel⟩,
    ⟨5, 0, 0, 0, 1, 0, 0, 0, (rn.set O.FJ_NODE 2).set O.FJ_FAULT_ACTION 8, by decide +kernel⟩⟩

theorem meets_RingTimeActs :
    (∃ (t : Nat) (s : State), ((s.ringAdv t).clk.inReset = false) ∧ (fjBit (s.ringAdv t) B.FJ_STATUS_MASTER = true) ∧
      ((s.ringAdv t).ring.electing = false) ∧ (ringPassive (s.ringAdv t) = false) ∧
      (fjBit (s.ringAdv t) B.FJ_STATUS_RING_INTACT = true) ∧ ((s.ringAdv t).ring.enumOut = false) ∧
      ((s.ringAdv t).ring.sentTime = true) ∧
      ((s.ringAdv t).ring.timeSent + (s.ringAdv t).get O.FJ_TIME_PERIOD * fuUs ≤ (s.ringAdv t).up)) ∧
    (∃ (src : Nat) (_hops : Nat) (_seq : Nat) (_origin : Nat) (_corr : Nat) (_tseq : Nat) (flags : Nat) (_size : Nat) (_arr : Nat) (_launch : Nat) (t : Nat) (s : State), (hears (s.ringAdv t) = true) ∧
      (fjBit (s.ringAdv t) B.FJ_STATUS_MASTER = false) ∧ (ownCell (s.ringAdv t) src = false) ∧
      ((s.ringAdv t).mode ≠ mdBoot) ∧ ((s.ringAdv t).bit O.FJ_CONTROL B.FJ_CONTROL_ENABLE = true) ∧
      (bitOf flags 0 = true)) ∧
    (∃ (t : Nat) (a : Nat) (s : State), ((s.ringAdv t).ring.timeAt = some a) ∧
      (a + (2 * (s.ringAdv t).get O.FJ_TIME_PERIOD + 10) * fuUs ≤ (s.ringAdv t).up) ∧
      (fjBit (s.ringAdv t) B.FJ_STATUS_MASTER = false) ∧ (fjBit (s.ringAdv t) B.FJ_STATUS_RING_HOLDOVER = false) ∧
      ((s.ringAdv t).bit O.CK_STATUS B.CK_STATUS_TIME_STEERED = true) ∧
      (fjBit (s.ringAdv t) B.FJ_STATUS_NO_MASTER = false)) ∧
    (∃ (t : Nat) (s : State), (fjBit (s.ringAdv t) B.FJ_STATUS_RING_HOLDOVER = true) ∧
      ((s.ringAdv t).ring.holdAt + (s.ringAdv t).get O.FJ_TIME_HOLDOVER * fuUs ≤ (s.ringAdv t).up)) ∧
    (∃ (t : Nat) (s : State), ((s.ringAdv t).clk.inReset = false) ∧
      ((s.ringAdv t).bit O.FJ_CONTROL B.FJ_CONTROL_ECHO_EN = true) ∧ ((s.ringAdv t).ring.echoAt = none) ∧
      ((s.ringAdv t).ring.echoLast = none)) ∧
    (∃ (t : Nat) (s : State), (hears (s.ringAdv t) = true)) ∧
    (∃ (t2 : Nat) (t : Nat) (t0 : Nat) (u : Nat) (s : State), ((s.ringAdv t).ring.echoAt = some (t0, u)) ∧
      (toSigned 64 (t2 + 2 ^ 64 - t0) ≤ 20480) ∧ ((s.ringAdv t).bit O.FJ_CONTROL B.FJ_CONTROL_ECHO_EN = false)) ∧
    (∃ (t2 : Nat) (t : Nat) (t0 : Nat) (u : Nat) (s : State), ((s.ringAdv t).ring.echoAt = some (t0, u)) ∧
      (toSigned 64 (t2 + 2 ^ 64 - t0) ≤ 20480) ∧ ((s.ringAdv t).bit O.FJ_CONTROL B.FJ_CONTROL_ECHO_EN = true)) ∧
    (∃ (t : Nat) (a : Nat) (u : Nat) (s : State), ((s.ringAdv t).ring.echoAt = some (a, u)) ∧
      (u + 20480 ≤ (s.ringAdv t).up)) :=
  ⟨⟨2^30, ((rn.setRing { sentTime := true }).fjPut B.FJ_STATUS_MASTER true).fjPut B.FJ_STATUS_RING_INTACT true, by decide +kernel⟩,
    ⟨0, 0, 0, 0, 0, 0, 1, 0, 0, 0, 0, rn, by decide +kernel⟩,
    ⟨2^40, 0, (rn.setRing { timeAt := some 0 }).setB O.CK_STATUS B.CK_STATUS_TIME_STEERED true, by decide +kernel⟩,
    ⟨2^50, rn.fjPut B.FJ_STATUS_RING_HOLDOVER true, by decide +kernel⟩,
    ⟨0, rn.setB O.FJ_CONTROL B.FJ_CONTROL_ECHO_EN true, by decide +kernel⟩,
    ⟨0, rn, by decide +kernel⟩,
    ⟨9000, 0, 0, 0, (rn.setB O.FJ_CONTROL B.FJ_CONTROL_ECHO_EN false).setRing { echoAt := some (0, 0) }, by decide +kernel⟩,
    ⟨9000, 0, 0, 0, (rn.setB O.FJ_CONTROL B.FJ_CONTROL_ECHO_EN true).setRing { echoAt := some (0, 0) }, by decide +kernel⟩,
    ⟨20480, 0, 0, rn.setRing { echoAt := some (0, 0), echoMiss := 7 }, by decide +kernel⟩⟩

theorem meets_SlowRequestCellsAct :
    (∃ (src : Nat) (_hops : Nat) (_seq : Nat) (_assert : Bool) (_source : Nat) (_unit : Nat) (_raised : Nat) (t : Nat) (s : State), (hears (s.ringAdv t) = true) ∧
      (ownCell (s.ringAdv t) src = false) ∧ (ringNode (s.ringAdv t) = true)) ∧
    (∃ (_src : Nat) (_hops : Nat) (_seq : Nat) (_assert : Bool) (_source : Nat) (_unit : Nat) (_raised : Nat) (t : Nat) (s : State), (hears (s.ringAdv t) = true) ∧
      (ringNode (s.ringAdv t) = false)) ∧
    (∃ (k : Nat) (t : Nat) (s : State), ((s.ringAdv t).bit O.FJ_SLOW_RX k = true) ∧
      (tget 0 (s.ringAdv t).ring.slowAt k + 500 * fuUs ≤ (s.ringAdv t).up)) ∧
    (∃ (t : Nat) (p : (Nat × Nat)) (rest : (List (Nat × Nat))) (s : State), ((s.ringAdv t).slow.standing = p :: rest) ∧
      ((s.ringAdv t).ring.slowSent + 100 * fuUs ≤ (s.ringAdv t).up)) :=
  ⟨⟨5, 0, 0, false, 0, 0, 0, 0, rn.set O.FJ_NODE 2, by decide +kernel⟩,
    ⟨5, 0, 0, false, 0, 0, 0, 0, rn.set O.FJ_NODE 255, by decide +kernel⟩,
    ⟨0, 2^40, rn.set O.FJ_SLOW_RX 1, by decide +kernel⟩,
    ⟨2^40, (1,2), [], rn.setSlow { standing := [(1, 2)] }, by decide +kernel⟩⟩

theorem meets_ActionEntriesAct :
    (∃ (p : Path) (e : Nat) (sub : Nat) (_v : Nat) (s : State), (s.serves p ⟨.act, e, clampN 2 7 sub⟩ = true) ∧
      (actFree s e ∨ actState s e = 1)) ∧
    (∃ (p : Path) (e : Nat) (s : State), (s.serves p (O.ACT_COMMAND e) = true) ∧ (actState s e = 1) ∧
      (kindOk s (actFields s e) = true) ∧ (leadLocal s (actFields s e) = true) ∧ (trigPiOk s (actFields s e) = true)) ∧
    (∃ (p : Path) (e : Nat) (s : State), (s.serves p (O.ACT_COMMAND e) = true) ∧ (actState s e = 1) ∧
      (kindOk s (actFields s e) = true) ∧ (s.ring.broken = false) ∧ (ringFormed s = true) ∧
      (leadRing s (actFields s e) = true) ∧ (trigPiOk s (actFields s e) = true) ∧ (ringNode s = true) ∧
      (s.bit O.FJ_STATUS B.FJ_STATUS_TIME_LOCKED = true)) ∧
    (∃ (p : Path) (e : Nat) (s : State), (s.serves p (O.ACT_COMMAND e) = true) ∧ (actState s e = 4)) ∧
    (∃ (src : Nat) (_hops : Nat) (_seq : Nat) (ticket : Nat) (_accept : Nat) (_refuse : Nat) (_cause : Nat) (_kind : Nat) (_trigger : Nat) (_when' : Nat) (_arg : Nat) (t : Nat) (e : Nat) (s : State), (hears (s.ringAdv t) = true) ∧
      (ringNode (s.ringAdv t) = true) ∧ (ownCell (s.ringAdv t) src = false) ∧
      (ticketEntry (s.ringAdv t) src ticket [3] = some e)) ∧
    (∃ (e : Nat) (t : Nat) (s : State), (actState (s.ringAdv t) e = 2) ∧
      (tget 0 (s.ringAdv t).ring.proposed e + 100 * fuUs ≤ (s.ringAdv t).up)) ∧
    (∃ (e : Nat) (t : Nat) (s : State), (actState (s.ringAdv t) e = 3) ∧
      (fjBit (s.ringAdv t) B.FJ_STATUS_RING_INTACT = true) ∧ ((s.ringAdv t).ring.formedUp + fuMs ≤ (s.ringAdv t).up) ∧
      (tget 0 (s.ringAdv t).ring.reserved e < (s.ringAdv t).ring.formedUp)) ∧
    (∃ (e : Nat) (t : Nat) (s : State), (actState (s.adv t) e = 4) ∧
      (whenAhead (s.adv t) (actFields (s.adv t) e) ≤ 0) ∧
      ((List.range e).all (fun k => decide ((actState (s.adv t) k ≠ 4 ∧ actState (s.adv t) k ≠ 5) ∨ 0 < whenAhead (s.adv t) (actFields (s.adv t) k))))) :=
  ⟨⟨.host, 0, 3, 9, cf, by decide +kernel⟩,
    ⟨.host, 0, ((cf.actTo 0 1).set (O.ACT_KIND 0) 5).set (O.ACT_WHEN_LO 0) 100000, by decide +kernel⟩,
    ⟨.host, 0, (((((rn.set O.FJ_NODE 2).fjPut B.FJ_STATUS_RING_INTACT true).fjPut B.FJ_STATUS_TIME_LOCKED true).actTo 0 1).set (O.ACT_KIND 0) 5).set (O.ACT_WHEN_LO 0) 2000000000, by decide +kernel⟩,
    ⟨.host, 0, cf.actTo 0 4, by decide +kernel⟩,
    ⟨5, 0, 0, 7, 0, 0, 0, 0, 0, 0, 0, 0, 0, ((rn.set O.FJ_NODE 2).actTo 0 3).set (O.ACT_TICKET 0) 1287, by decide +kernel⟩,
    ⟨0, 2^40, rn.actTo 0 2, by decide +kernel⟩,
    ⟨0, 2^40, ((rn.actTo 0 3).fjPut B.FJ_STATUS_RING_INTACT true).setRing { formedUp := 1 }, by decide +kernel⟩,
    ⟨0, 64000, (cf.actTo 0 4).set (O.ACT_WHEN_LO 0) 640, by decide +kernel⟩⟩

theorem meets_PositionInputsAct :
    (∃ (i : Nat) (ab : Nat) (e : Nat) (t : Nat) (s1 : State) (s : State), (accepted (s.adv t) i e = true) ∧
      (s1 = (s.adv t).piLevels i ((s.adv t).fld (O.PI_STATUS i) B.PI_STATUS_INPUT / 4 * 4 + ab % 4)) ∧
      (piMode s1 i = 1) ∧ (piCounts s1 i = true) ∧
      ((quadStep (ab % 4) + 4 - quadStep ((s.adv t).fld (O.PI_STATUS i) B.PI_STATUS_INPUT % 4)) % 4 = 1)) ∧
    (∃ (i : Nat) (ab : Nat) (e : Nat) (t : Nat) (s1 : State) (s : State), (accepted (s.adv t) i e = true) ∧
      (s1 = (s.adv t).piLevels i ((s.adv t).fld (O.PI_STATUS i) B.PI_STATUS_INPUT / 4 * 4 + ab % 4)) ∧
      (piMode s1 i = 1) ∧ (piCounts s1 i = true) ∧
      ((quadStep (ab % 4) + 4 - quadStep ((s.adv t).fld (O.PI_STATUS i) B.PI_STATUS_INPUT % 4)) % 4 = 3)) ∧
    (∃ (i : Nat) (code : Nat) (e : Nat) (t : Nat) (k : Nat) (j : Nat) (s1 : State) (s2 : State) (s : State), (accepted (s.adv t) i e = true) ∧
      (s1 = (s.adv t).piLevels i (code % 8)) ∧ (piMode s1 i = 2) ∧ (hallStep (code % 8) = some k) ∧
      ((s1.pif i).hall.bind hallStep = some j) ∧
      (s2 = s1.setPif i { s1.pif i with hall := some (code % 8), badAt := none, hallPerm := false }) ∧
      (piCounts s2 i = true) ∧ ((k + 6 - j) % 6 = 1)) ∧
    (∃ (i : Nat) (code : Nat) (e : Nat) (t : Nat) (k : Nat) (j : Nat) (s1 : State) (s2 : State) (s : State), (accepted (s.adv t) i e = true) ∧
      (s1 = (s.adv t).piLevels i (code % 8)) ∧ (piMode s1 i = 2) ∧ (hallStep (code % 8) = some k) ∧
      ((s1.pif i).hall.bind hallStep = some j) ∧
      (s2 = s1.setPif i { s1.pif i with hall := some (code % 8), badAt := none, hallPerm := false }) ∧
      (piCounts s2 i = true) ∧ ((k + 6 - j) % 6 = 5)) ∧
    (∃ (i : Nat) (pair : Nat) (e : Nat) (t : Nat) (s1 : State) (s : State), (accepted (s.adv t) i e = false) ∧
      (s1 = (s.adv t).forAll relays (fun z a => if relayMode z a = 1 ∧ relaySource z a = i then z.emit (.note "pulse passed" [a, pair, e]) else z)) ∧
      (s1.mode ≠ mdReset ∧ s1.mode ≠ mdBoot) ∧ ((window s1 (s1.pif i).glitches).length ≤ 1024)) ∧
    (∃ (i : Nat) (level : Bool) (e : Nat) (_ab : Nat) (eab : Nat) (t : Nat) (s1 : State) (s2 : State) (s : State), (accepted (s.adv t) i eab = false) ∧
      (accepted (s.adv t) i e = true) ∧
      (s1 = (s.adv t).piLevels i (putBit ((s.adv t).fld (O.PI_STATUS i) B.PI_STATUS_INPUT) 2 level)) ∧
      (bitOf ((s.adv t).fld (O.PI_STATUS i) B.PI_STATUS_INPUT) 2 = !level) ∧ (piMode s1 i = 1) ∧
      (piCounts s1 i = true) ∧ (s1.bit (O.PI_CONFIG i) B.PI_CONFIG_Z_EN = true) ∧
      (s1.bit (O.PI_CONFIG i) B.PI_CONFIG_Z_HOME = false) ∧ (s1.bit (O.PI_CONFIG i) B.PI_CONFIG_Z_POL = !level) ∧
      (s2 = (((((s1.set (O.PI_Z_POS i) (s1.get (O.PI_COUNT i))).set (O.PI_Z_TIME_LO i) (captured (s.adv t) i e)).set (O.PI_Z_TIME_HI i) (captured (s.adv t) i e / 2 ^ 32)).setB (O.PI_STATUS i) B.PI_STATUS_Z_SEEN true).piHit i B.PI_EVENTS_Z))) ∧
    (∃ (i : Nat) (level : Bool) (e : Nat) (_ab : Nat) (eab : Nat) (t : Nat) (s1 : State) (s : State), (accepted (s.adv t) i eab = false) ∧
      (accepted (s.adv t) i e = true) ∧
      (s1 = (s.adv t).piLevels i (putBit ((s.adv t).fld (O.PI_STATUS i) B.PI_STATUS_INPUT) 2 level)) ∧
      (bitOf ((s.adv t).fld (O.PI_STATUS i) B.PI_STATUS_INPUT) 2 = !level) ∧ (piMode s1 i = 1) ∧
      (piCounts s1 i = true) ∧ (s1.bit (O.PI_CONFIG i) B.PI_CONFIG_Z_EN = true) ∧
      (s1.bit (O.PI_CONFIG i) B.PI_CONFIG_Z_HOME = false) ∧ (s1.bit (O.PI_CONFIG i) B.PI_CONFIG_Z_POL = !level) ∧
      (axes.all (fun a => decide (axisSource s1 a ≠ some i)))) ∧
    (∃ (i : Nat) (t : Nat) (b : Nat) (s : State), (((s.adv t).pif i).badAt = some b) ∧ (b + fuUs < (s.adv t).up) ∧
      (((s.adv t).pif i).badSeen = false)) ∧
    (∃ (i : Nat) (pair : Nat) (e : Nat) (t : Nat) (s1 : State) (s : State), (wiresHeld (s.adv t) i e = true) ∧
      (wireChecked (s.adv t) i pair = true) ∧
      (bitOf ((s.adv t).fld (O.PI_STATUS i) B.PI_STATUS_WIRE_BAD) pair = false) ∧
      (s1 = ((s.adv t).wireBad i pair true).setPif i { (s.adv t).pif i with wireAt := tput ((s.adv t).pif i).wireAt pair e }) ∧
      (piRuns s1 i = true) ∧ ((window s1 (s1.pif i).wires).length ≤ 16)) ∧
    (∃ (i : Nat) (_pair : Nat) (e : Nat) (t : Nat) (s : State), (wiresHeld (s.adv t) i e = true)) ∧
    (∃ (i : Nat) (t : Nat) (s : State), (piMode (s.adv t) i ≠ 0)) ∧
    (∃ (i : Nat) (t : Nat) (s : State), ((s.adv t).bit (O.PI_STATUS i) B.PI_STATUS_STOPPED = false) ∧
      (((s.adv t).pif i).lastUp + (s.adv t).get (O.PI_STOP_TIME i) * fuUs ≤ (s.adv t).up) ∧ (piMode (s.adv t) i ≠ 0) ∧
      ((s.adv t).mode ≠ mdReset) ∧ ((s.adv t).mode ≠ mdBoot)) :=
  ⟨⟨0, 1, 0, 25600, _, cf.set (O.PI_CONFIG 0) 1, by decide +kernel, rfl, by decide +kernel, by decide +kernel, by decide +kernel⟩,
    ⟨0, 2, 0, 25600, _, cf.set (O.PI_CONFIG 0) 1, by decide +kernel, rfl, by decide +kernel, by decide +kernel, by decide +kernel⟩,
    ⟨0, 3, 0, 25600, 1, 0, _, _, (cf.set (O.PI_CONFIG 0) 2).setPif 0 { hall := some 1 }, by decide +kernel, rfl, by decide +kernel, by decide +kernel, by decide +kernel, rfl, by decide +kernel, by decide +kernel⟩,
    ⟨0, 5, 0, 25600, 5, 0, _, _, (cf.set (O.PI_CONFIG 0) 2).setPif 0 { hall := some 1 }, by decide +kernel, rfl, by decide +kernel, by decide +kernel, by decide +kernel, rfl, by decide +kernel, by decide +kernel⟩,
    ⟨0, 0, 0, 0, _, cf.set (O.PI_CONFIG 0) 1, by decide +kernel, rfl, by decide +kernel, by decide +kernel⟩,
    ⟨0, true, 77, 0, 25600, 25600, _, _, (cf.set (O.PI_CONFIG 0) 1).setB (O.PI_CONFIG 0) B.PI_CONFIG_Z_EN true, by decide +kernel, by decide +kernel, rfl, by decide +kernel, by decide +kernel, by decide +kernel, by decide +kernel, by decide +kernel, by decide +kernel, rfl⟩,
    ⟨0, true, 77, 0, 25600, 25600, _, (cf.set (O.PI_CONFIG 0) 1).setB (O.PI_CONFIG 0) B.PI_CONFIG_Z_EN true, by decide +kernel, by decide +kernel, rfl, by decide +kernel, by decide +kernel, by decide +kernel, by decide +kernel, by decide +kernel, by decide +kernel, by decide +kernel⟩,
    ⟨0, 2^20, 0, (cf.set (O.PI_CONFIG 0) 2).setPif 0 { badAt := some 0 }, by decide +kernel⟩,
    ⟨0, 0, 0, 25600000, _, cf.set (O.PI_CONFIG 0) (1 + 2 ^ B.PI_CONFIG_WIRE_CHECK_EN), by decide +kernel, by decide +kernel, by decide +kernel, rfl, by decide +kernel, by decide +kernel⟩,
    ⟨0, 0, 0, 25600000, cf, by decide +kernel⟩,
    ⟨0, 0, cf.set (O.PI_CONFIG 0) 1, by decide +kernel⟩,
    ⟨0, 2^40, (cf.set (O.PI_CONFIG 0) 1).set (O.PI_STATUS 0) 0, by decide +kernel⟩⟩

theorem meets_PositionWritesAct :
    (∃ (p : Path) (i : Nat) (_v : Nat) (s : State), (s.serves p (O.PI_COUNT i) = true) ∧ (piBound s i = false)) ∧
    (∃ (p : Path) (i : Nat) (v : Nat) (new : Nat) (s : State), (s.serves p (O.PI_CONFIG i) = true) ∧
      (bitOf v B.PI_CONFIG_CLR_FAULT = false) ∧ (bitOf v B.PI_CONFIG_CLR_UNCERTAIN = false) ∧
      (s.fits (O.PI_CONFIG i) v = true) ∧ (new = s.merged (O.PI_CONFIG i) v) ∧ (new % 8 = s.get (O.PI_CONFIG i) % 8) ∧
      (bitOf new B.PI_CONFIG_Z_HOME = s.bit (O.PI_CONFIG i) B.PI_CONFIG_Z_HOME)) ∧
    (∃ (p : Path) (i : Nat) (v : Nat) (new : Nat) (s : State), (s.serves p (O.PI_CONFIG i) = true) ∧ (i < 12) ∧
      (bitOf v B.PI_CONFIG_CLR_FAULT = false) ∧ (bitOf v B.PI_CONFIG_CLR_UNCERTAIN = false) ∧
      (s.fits (O.PI_CONFIG i) v = true) ∧ (new = s.merged (O.PI_CONFIG i) v) ∧ (new < 2 ^ 32) ∧
      (new % 8 = s.get (O.PI_CONFIG i) % 8) ∧ (bitOf new B.PI_CONFIG_Z_HOME = s.bit (O.PI_CONFIG i) B.PI_CONFIG_Z_HOME)) ∧
    (∃ (p : Path) (i : Nat) (v : Nat) (s1 : State) (s2 : State) (s : State), (s.serves p (O.PI_CONFIG i) = true) ∧
      (v = putBit (s.get (O.PI_CONFIG i)) B.PI_CONFIG_CLR_FAULT true) ∧ (s.fits (O.PI_CONFIG i) v = true) ∧
      (s.merged (O.PI_CONFIG i) v = s.get (O.PI_CONFIG i)) ∧ (bitOf v B.PI_CONFIG_CLR_UNCERTAIN = false) ∧
      (piPersists s i = false) ∧ (s1 = s.set (O.PI_CONFIG i) (s.get (O.PI_CONFIG i))) ∧ (s2 = s1.piClear i)) ∧
    (∃ (p : Path) (i : Nat) (v : Nat) (s1 : State) (s2 : State) (s : State), (s.serves p (O.PI_CONFIG i) = true) ∧
      (v = putBit (s.get (O.PI_CONFIG i)) B.PI_CONFIG_CLR_UNCERTAIN true) ∧ (s.fits (O.PI_CONFIG i) v = true) ∧
      (s.merged (O.PI_CONFIG i) v = s.get (O.PI_CONFIG i)) ∧ (bitOf v B.PI_CONFIG_CLR_FAULT = false) ∧
      (s1 = s.set (O.PI_CONFIG i) (s.get (O.PI_CONFIG i))) ∧
      (s2 = s1.setB (O.PI_STATUS i) B.PI_STATUS_POS_UNCERTAIN false)) ∧
    (∃ (i : Nat) (pair : Nat) (t : Nat) (s1 : State) (s : State), (bitOf ((s.adv t).fld (O.PI_STATUS i) B.PI_STATUS_WIRE_BAD) pair = true) ∧
      (tget 0 ((s.adv t).pif i).wireAt pair + 10 * fuUs ≤ (s.adv t).up) ∧
      (s1 = (s.adv t).setPif i { (s.adv t).pif i with wirePerm := setIns ((s.adv t).pif i).wirePerm pair }) ∧
      (piRuns s1 i = true)) ∧
    (∃ (i : Nat) (t : Nat) (b : Nat) (s : State), (((s.adv t).pif i).badAt = some b) ∧
      (b + 100 * fuUs ≤ (s.adv t).up) ∧ (piRuns (s.adv t) i = true)) :=
  ⟨⟨.host, 0, 5, cf, by decide +kernel⟩,
    ⟨.host, 0, 0x811, 0x811, cf.set (O.PI_CONFIG 0) 1, by decide +kernel⟩,
    ⟨.host, 0, 0x811, 0x811, cf.set (O.PI_CONFIG 0) 1, by decide +kernel⟩,
    ⟨.host, 0, 0x8801, _, _, (cf.set (O.PI_CONFIG 0) 0x801).setB (O.PI_STATUS 0) B.PI_STATUS_FAULT true, by decide +kernel, by decide +kernel, by decide +kernel, by decide +kernel, by decide +kernel, by decide +kernel, rfl, rfl⟩,
    ⟨.host, 0, 0x10801, _, _, (cf.set (O.PI_CONFIG 0) 0x801).setB (O.PI_STATUS 0) B.PI_STATUS_POS_UNCERTAIN true, by decide +kernel, by decide +kernel, by decide +kernel, by decide +kernel, by decide +kernel, rfl, rfl⟩,
    ⟨0, 0, 2^30, _, (cf.set (O.PI_CONFIG 0) 1).setF (O.PI_STATUS 0) B.PI_STATUS_WIRE_BAD 1, by decide +kernel, by decide +kernel, rfl, by decide +kernel⟩,
    ⟨0, 2^30, 0, (cf.set (O.PI_CONFIG 0) 2).setPif 0 { badAt := some 0 }, by decide +kernel⟩⟩

theorem meets_MilestonesAndRelaysAct :
    (∃ (p : Path) (m : Nat) (v : Nat) (new : Nat) (s1 : State) (s2 : State) (s : State), (s.serves p (O.MS_CONTROL m) = true) ∧
      (s.fits (O.MS_CONTROL m) (putBit v B.MS_CONTROL_ENABLE true) = true) ∧
      (new = s.merged (O.MS_CONTROL m) (putBit v B.MS_CONTROL_ENABLE true)) ∧ (bitOf new B.MS_CONTROL_ENABLE = true) ∧
      (msEnabled s m = false) ∧ (s1 = s.set (O.MS_CONTROL m) (putBit new B.MS_CONTROL_ENABLE false)) ∧
      (s1.get (O.MS_OWNER m) = 0) ∧ (piMode s1 (msPi s1 m) ≠ 0) ∧
      (s2 = ((s1.set (O.MS_OWNER m) 1).setB (O.MS_CONTROL m) B.MS_CONTROL_ENABLE true).set (O.MS_STATUS m) 1) ∧
      (msPast s2 m < 0)) ∧
    (∃ (p : Path) (m : Nat) (v : Nat) (s : State), (s.serves p (O.MS_CONTROL m) = true) ∧
      (s.fits (O.MS_CONTROL m) (putBit v B.MS_CONTROL_ENABLE false) = true) ∧ (msEnabled s m = true) ∧
      (putBit (s.merged (O.MS_CONTROL m) (putBit v B.MS_CONTROL_ENABLE false)) B.MS_CONTROL_ENABLE true = s.get (O.MS_CONTROL m)) ∧
      (bitOf (s.merged (O.MS_CONTROL m) (putBit v B.MS_CONTROL_ENABLE false)) B.MS_CONTROL_ENABLE = false)) ∧
    (∃ (a : Nat) (pair : Nat) (t : Nat) (e : Nat) (s1 : State) (s : State), (((s.adv t).relPair (4 * a + pair)).pulse = some e) ∧
      (e ≤ (s.adv t).up) ∧ (s1 = { (s.adv t) with pulses := tdel (s.adv t).pulses (4 * a + pair) }) ∧
      (relayMode s1 a = 3)) :=
  ⟨⟨.host, 0, 0, 32, _, _, (cf.set (O.PI_CONFIG 0) 1).set (O.MS_COMPARE_LO 0) 65536, by decide +kernel, by decide +kernel, by decide +kernel, by decide +kernel, by decide +kernel, rfl, by decide +kernel, by decide +kernel, rfl, by decide +kernel⟩,
    ⟨.host, 0, 0, (cf.setB (O.MS_CONTROL 0) B.MS_CONTROL_ENABLE true).set (O.MS_OWNER 0) 1, by decide +kernel⟩,
    ⟨0, 0, 0, 0, _, ({ cf with pulses := [(0, { pulse := some 0 })] } : State).set (O.RL_CONFIG 0) 3, by decide +kernel, by decide +kernel, rfl, by decide +kernel⟩⟩

theorem meets_QueueCommandsAct :
    (∃ (p : Path) (v : Nat) (s : State), (s.serves p (O.IN_TAIL) = true) ∧ (v % 65536 < s.get O.IN_Q_SLOTS)) ∧
    (∃ (p : Path) (_v : Nat) (s : State), (s.serves p (O.IN_CONTROL) = true)) ∧
    (∃ (p : Path) (s1 : State) (s : State), (s.serves p (O.IN_CONTROL) = true) ∧
      (s1 = s.set O.IN_CONTROL (s.get O.IN_CONTROL % 4)) ∧ (s1.bit O.IN_STATUS B.IN_STATUS_HALTED = true)) ∧
    (∃ (p : Path) (s1 : State) (r : (Nat × Nat)) (s : State), (s.serves p (O.IN_CONTROL) = true) ∧
      (s1 = s.set O.IN_CONTROL (s.get O.IN_CONTROL % 4)) ∧ (s1.bit O.IN_STATUS B.IN_STATUS_HALTED = true) ∧
      (s1.intake.refused = some r)) ∧
    (∃ (bytes : List Byte) (s1 : State) (s : State), (s.intake.stage = .idle) ∧
      (s.bit O.IN_STATUS B.IN_STATUS_RUNNING = true) ∧ (s.bit O.IN_STATUS B.IN_STATUS_EMPTY = false) ∧
      (s.evs.linkUp = true) ∧ (pauseHeld s = false) ∧
      (s1 = ((s.setIntake { s.intake with slot := bytes.take 112, tries := 0 }).inBytes 128).setStage .taken) ∧
      (bitOf (slotField s1 0 4) 31 = true) ∧ (1 ≤ slotKind s1) ∧ (slotKind s1 ≤ 6) ∧ (slotField s1 3 1 % 64 = 0) ∧
      (strayByte s1 ([24, 26, 12, 14, 8, 8].getD (slotKind s1 - 1) 8) = none)) ∧
    (∃ (_addr : Nat) (_cause : Nat) (s : State), (s.intake.stage = .idle) ∧
      (s.bit O.IN_STATUS B.IN_STATUS_RUNNING = true) ∧ (s.bit O.IN_STATUS B.IN_STATUS_EMPTY = false) ∧
      (s.evs.linkUp = true)) ∧
    (∃ (_addr : Nat) (_cause : Nat) (s : State), (s.intake.stage = .tableRead ∨ s.intake.stage = .copying) ∧
      (s.intake.ask = false) ∧ (s.evs.linkUp = true) ∧ (s.intake.refused = none) ∧ (s.intake.tries < 2)) ∧
    (∃ (s : State), (s.evs.linkUp = true) ∧ (s.intake.stage = .taken) ∧ (s.intake.refused = none) ∧ (slotKind s = 5) ∧
      (slotJob s = 0)) :=
  ⟨⟨.host, 1, cf.set O.IN_Q_SLOTS 16, by decide +kernel⟩,
    ⟨.host, 1, cf, by decide +kernel⟩,
    ⟨.host, _, cf.setB O.IN_STATUS B.IN_STATUS_HALTED true, by decide +kernel, rfl, by decide +kernel⟩,
    ⟨.host, _, (1,0), (cf.setB O.IN_STATUS B.IN_STATUS_HALTED true).setIntake { refused := some (1, 0) }, by decide +kernel, rfl, by decide +kernel, by decide +kernel⟩,
    ⟨[0, 0, 5, 128] ++ List.replicate 108 0, _, ((cf.setB O.IN_STATUS B.IN_STATUS_RUNNING true).setB O.IN_STATUS B.IN_STATUS_EMPTY false), by decide +kernel, by decide +kernel, by decide +kernel, by decide +kernel, by decide +kernel, rfl, by decide +kernel, by decide +kernel, by decide +kernel, by decide +kernel, by decide +kernel⟩,
    ⟨2^33, 0, ((cf.setB O.IN_STATUS B.IN_STATUS_RUNNING true).setB O.IN_STATUS B.IN_STATUS_EMPTY false), by decide +kernel⟩,
    ⟨0, 0, cf.setIntake { stage := .tableRead }, by decide +kernel⟩,
    ⟨cf.setIntake { stage := .taken, slot := [0, 0, 5, 128] ++ List.replicate 108 0 }, by decide +kernel⟩⟩

theorem meets_JobWaybillsAct :
    (∃ (j : Nat) (s : State), (s.evs.linkUp = true) ∧ (s.intake.stage = .taken) ∧ (s.intake.refused = none) ∧
      (slotKind s = 1) ∧ (slotField s 8 8 % 16 = 0) ∧ (slotField s 20 2 / 8 = 0) ∧ (1 ≤ slotField s 22 1) ∧
      (slotField s 22 1 ≤ 16) ∧ (1 ≤ slotField s 23 1) ∧ (slotField s 23 1 ≤ 96) ∧
      (s.bit O.BS_STATUS B.BS_STATUS_ONLINE = true) ∧ (slotJob s ≠ 0) ∧ (slotOf s (slotJob s) = none) ∧
      (slotField s 16 4 = 16 + 16 * slotField s 22 1 + 8 * slotField s 23 1) ∧
      (slots.find? (fun j => decide (jobState s j = 0)) = some j)) ∧
    (∃ (s : State), (s.evs.linkUp = true) ∧ (s.intake.stage = .taken) ∧ (s.intake.refused = none) ∧ (slotKind s = 1) ∧
      (slotField s 8 8 % 16 = 0) ∧ (slotField s 20 2 / 8 = 0) ∧ (1 ≤ slotField s 22 1) ∧ (slotField s 22 1 ≤ 16) ∧
      (1 ≤ slotField s 23 1) ∧ (slotField s 23 1 ≤ 96) ∧ (s.bit O.BS_STATUS B.BS_STATUS_ONLINE = true) ∧
      (slotJob s ≠ 0) ∧ (slotOf s (slotJob s) = none) ∧
      (slotField s 16 4 = 16 + 16 * slotField s 22 1 + 8 * slotField s 23 1) ∧
      (slots.find? (fun j => decide (jobState s j = 0)) = none)) ∧
    (∃ (s : State), (s.intake.stage = .tableRead) ∧ (s.intake.ask = true) ∧ (s.evs.linkUp = true) ∧
      (pauseHeld s = false)) ∧
    (∃ (j : Nat) (s : State), (s.evs.linkUp = true) ∧ (s.intake.stage = .waitJob) ∧
      (slots.find? (fun j => decide (jobState s j = 0)) = some j)) ∧
    (∃ (s : State), (s.evs.linkUp = true) ∧ (s.intake.stage = .waitJob) ∧
      (slots.find? (fun j => decide (jobState s j = 0)) = none)) ∧
    (∃ (j : Nat) (s1 : State) (s : State), (s.evs.linkUp = true) ∧ (s.intake.stage = .taken) ∧
      (s.intake.refused = none) ∧ (slotKind s = 2) ∧ (slotField s 8 8 % 64 = 0) ∧ (slotField s 16 4 % 64 = 0) ∧
      (64 ≤ slotField s 16 4) ∧ (slotField s 16 4 ≤ 268435456) ∧ (1 ≤ slotField s 24 2) ∧ (slotField s 24 2 ≤ 4096) ∧
      (slotOf s (slotJob s) = some j) ∧ (s.bit O.BS_STATUS B.BS_STATUS_ONLINE = true) ∧ (jobClosed s j = false) ∧
      ((s.job j).aborted = false) ∧ (slotField s 20 4 = s.get (O.JOB_BANDS j)) ∧
      (s1 = s.setIntake { s.intake with jobSlot := j }) ∧ (areaPages s1 - keptPages s1 < pagesFor (slotField s1 16 4))) ∧
    (∃ (j : Nat) (s1 : State) (s : State), (s.evs.linkUp = true) ∧ (s.intake.stage = .taken) ∧
      (s.intake.refused = none) ∧ (slotKind s = 2) ∧ (slotField s 8 8 % 64 = 0) ∧ (slotField s 16 4 % 64 = 0) ∧
      (64 ≤ slotField s 16 4) ∧ (slotField s 16 4 ≤ 268435456) ∧ (1 ≤ slotField s 24 2) ∧ (slotField s 24 2 ≤ 4096) ∧
      (slotOf s (slotJob s) = some j) ∧ (s.bit O.BS_STATUS B.BS_STATUS_ONLINE = true) ∧ (jobClosed s j = false) ∧
      ((s.job j).aborted = false) ∧ (slotField s 20 4 = s.get (O.JOB_BANDS j)) ∧
      (s1 = s.setIntake { s.intake with jobSlot := j }) ∧
      (pagesFor (slotField s1 16 4) ≤ areaPages s1 - keptPages s1) ∧
      (s1.get O.BS_FREE_PAGES < pagesFor (slotField s1 16 4))) ∧
    (∃ (j : Nat) (s1 : State) (pages : List Nat) (s : State), (s.evs.linkUp = true) ∧ (s.intake.stage = .taken) ∧
      (s.intake.refused = none) ∧ (slotKind s = 2) ∧ (slotField s 8 8 % 64 = 0) ∧ (slotField s 16 4 % 64 = 0) ∧
      (64 ≤ slotField s 16 4) ∧ (slotField s 16 4 ≤ 268435456) ∧ (1 ≤ slotField s 24 2) ∧ (slotField s 24 2 ≤ 4096) ∧
      (slotOf s (slotJob s) = some j) ∧ (s.bit O.BS_STATUS B.BS_STATUS_ONLINE = true) ∧ (jobClosed s j = false) ∧
      ((s.job j).aborted = false) ∧ (slotField s 20 4 = s.get (O.JOB_BANDS j)) ∧
      (s1 = s.setIntake { s.intake with jobSlot := j }) ∧
      (pagesFor (slotField s1 16 4) ≤ areaPages s1 - keptPages s1) ∧
      (pagesFor (slotField s1 16 4) ≤ s1.get O.BS_FREE_PAGES) ∧
      (pages = freePagesFrom s1.intake.used (areaPages s1) 0 (pagesFor (slotField s1 16 4)))) ∧
    (∃ (s : State), (s.intake.stage = .copying) ∧ (s.intake.ask = true) ∧ (s.evs.linkUp = true) ∧
      (pauseHeld s = false)) ∧
    (∃ (s1 : State) (s : State), (s.evs.linkUp = true) ∧ (s.intake.stage = .waitSpace) ∧ (s.intake.refused = none) ∧
      (s1 = s) ∧ (areaPages s1 - keptPages s1 < pagesFor (slotField s1 16 4))) ∧
    (∃ (s1 : State) (s : State), (s.evs.linkUp = true) ∧ (s.intake.stage = .waitSpace) ∧ (s.intake.refused = none) ∧
      (s1 = s) ∧ (pagesFor (slotField s1 16 4) ≤ areaPages s1 - keptPages s1) ∧
      (s1.get O.BS_FREE_PAGES < pagesFor (slotField s1 16 4))) ∧
    (∃ (s1 : State) (pages : List Nat) (s : State), (s.evs.linkUp = true) ∧ (s.intake.stage = .waitSpace) ∧
      (s.intake.refused = none) ∧ (s1 = s) ∧ (pagesFor (slotField s1 16 4) ≤ areaPages s1 - keptPages s1) ∧
      (pagesFor (slotField s1 16 4) ≤ s1.get O.BS_FREE_PAGES) ∧
      (pages = freePagesFrom s1.intake.used (areaPages s1) 0 (pagesFor (slotField s1 16 4)))) ∧
    (∃ (j : Nat) (s : State), (s.evs.linkUp = true) ∧ (s.intake.stage = .taken) ∧ (s.intake.refused = none) ∧
      (slotKind s = 3) ∧ (slotOf s (slotJob s) = some j) ∧ (jobClosed s j = false) ∧ ((s.job j).aborted = false) ∧
      (slotField s 8 4 + 1 = s.get (O.JOB_BANDS j))) ∧
    (∃ (j : Nat) (s1 : State) (s2 : State) (s : State), (s.evs.linkUp = true) ∧ (s.intake.stage = .taken) ∧
      (s.intake.refused = none) ∧ (slotKind s = 4) ∧ (slotOf s (slotJob s) = some j) ∧ (jobKeep s j = true) ∧
      (jobClosed s j = true) ∧ (jobReleased s j = false) ∧
      (s1 = (s.set (O.JOB_REPEAT_LEFT j) (slotField s 8 4)).setJobFlag j 10 (decide (slotField s 8 4 = 0))) ∧
      (s2 = s1.setJob j { s1.job j with gap := slotField s 12 2 }) ∧ (jobState s2 j = 1)) ∧
    (∃ (j : Nat) (s1 : State) (s : State), (s.evs.linkUp = true) ∧ (s.intake.stage = .taken) ∧
      (s.intake.refused = none) ∧ (slotKind s = 6) ∧ (slotOf s (slotJob s) = some j) ∧ (jobKeep s j = true) ∧
      (jobState s j ≠ 1) ∧ (jobReleased s j = false) ∧ (s1 = (s.setJobFlag j 11 true).complete 0 0)) :=
  ⟨⟨0, (cf.setB O.BS_STATUS B.BS_STATUS_ONLINE true).setIntake { stage := .taken, slot := [7, 0, 1, 128, 0, 0, 0, 0, 16, 0, 0, 0, 0, 0, 0, 0, 40, 0, 0, 0, 0, 0, 1, 1] ++ List.replicate 88 0 }, by decide +kernel⟩,
    ⟨(List.range 8).foldl (fun z k => z.set (O.JOB_STATE k) 1) ((cf.setB O.BS_STATUS B.BS_STATUS_ONLINE true).setIntake { stage := .taken, slot := [7, 0, 1, 128, 0, 0, 0, 0, 16, 0, 0, 0, 0, 0, 0, 0, 40, 0, 0, 0, 0, 0, 1, 1] ++ List.replicate 88 0 }), by decide +kernel⟩,
    ⟨cf.setIntake { stage := .tableRead, ask := true }, by decide +kernel⟩,
    ⟨0, cf.setIntake { stage := .waitJob }, by decide +kernel⟩,
    ⟨(List.range 8).foldl (fun z k => z.set (O.JOB_STATE k) 1) (cf.setIntake { stage := .waitJob }), by decide +kernel⟩,
    ⟨0, _, (((cf.setB O.BS_STATUS B.BS_STATUS_ONLINE true).set (O.JOB_JOB_ID 0) 7).set (O.JOB_STATE 0) 1).setIntake { stage := .taken, slot := [7, 0, 2, 128, 0, 0, 0, 0, 64, 0, 0, 0, 0, 0, 0, 0, 64, 0, 0, 0, 0, 0, 0, 0, 1, 0] ++ List.replicate 86 0 }, by decide +kernel, by decide +kernel, by decide +kernel, by decide +kernel, by decide +kernel, by decide +kernel, by decide +kernel, by decide +kernel, by decide +kernel, by decide +kernel, by decide +kernel, by decide +kernel, by decide +kernel, by decide +kernel, by decide +kernel, rfl, by decide +kernel⟩,
    ⟨0, _, ((((cf.set O.BS_CAPACITY 64).setB O.BS_STATUS B.BS_STATUS_ONLINE true).set (O.JOB_JOB_ID 0) 7).set (O.JOB_STATE 0) 1).setIntake { stage := .taken, slot := [7, 0, 2, 128, 0, 0, 0, 0, 64, 0, 0, 0, 0, 0, 0, 0, 64, 0, 0, 0, 0, 0, 0, 0, 1, 0] ++ List.replicate 86 0 }, by decide +kernel, by decide +kernel, by decide +kernel, by decide +kernel, by decide +kernel, by decide +kernel, by decide +kernel, by decide +kernel, by decide +kernel, by decide +kernel, by decide +kernel, by decide +kernel, by decide +kernel, by decide +kernel, by decide +kernel, rfl, by decide +kernel, by decide +kernel⟩,
    ⟨0, _, [0], (((((cf.set O.BS_CAPACITY 64).set O.BS_FREE_PAGES 8).setB O.BS_STATUS B.BS_STATUS_ONLINE true).set (O.JOB_JOB_ID 0) 7).set (O.JOB_STATE 0) 1).setIntake { stage := .taken, slot := [7, 0, 2, 128, 0, 0, 0, 0, 64, 0, 0, 0, 0, 0, 0, 0, 64, 0, 0, 0, 0, 0, 0, 0, 1, 0] ++ List.replicate 86 0 }, by decide +kernel, by decide +kernel, by decide +kernel, by decide +kernel, by decide +kernel, by decide +kernel, by decide +kernel, by decide +kernel, by decide +kernel, by decide +kernel, by decide +kernel, by decide +kernel, by decide +kernel, by decide +kernel, by decide +kernel, rfl, by decide +kernel, by decide +kernel, by decide +kernel⟩,
    ⟨cf.setIntake { stage := .copying, ask := true }, by decide +kernel⟩,
    ⟨_, cf.setIntake { stage := .waitSpace, slot := [7, 0, 2, 128, 0, 0, 0, 0, 64, 0, 0, 0, 0, 0, 0, 0, 64, 0, 0, 0, 0, 0, 0, 0, 1, 0] ++ List.replicate 86 0 }, by decide +kernel, by decide +kernel, by decide +kernel, rfl, by decide +kernel⟩,
    ⟨_, (cf.set O.BS_CAPACITY 64).setIntake { stage := .waitSpace, slot := [7, 0, 2, 128, 0, 0, 0, 0, 64, 0, 0, 0, 0, 0, 0, 0, 64, 0, 0, 0, 0, 0, 0, 0, 1, 0] ++ List.replicate 86 0 }, by decide +kernel, by decide +kernel, by decide +kernel, rfl, by decide +kernel, by decide +kernel⟩,
    ⟨_, [0], ((cf.set O.BS_CAPACITY 64).set O.BS_FREE_PAGES 8).setIntake { stage := .waitSpace, slot := [7, 0, 2, 128, 0, 0, 0, 0, 64, 0, 0, 0, 0, 0, 0, 0, 64, 0, 0, 0, 0, 0, 0, 0, 1, 0] ++ List.replicate 86 0 }, by decide +kernel, by decide +kernel, by decide +kernel, rfl, by decide +kernel, by decide +kernel, by decide +kernel⟩,
    ⟨0, ((((cf.set (O.JOB_BANDS 0) 1).set (O.JOB_JOB_ID 0) 7).set (O.JOB_STATE 0) 1)).setIntake { stage := .taken, slot := [7, 0, 3, 128] ++ List.replicate 108 0 }, by decide +kernel⟩,
    ⟨0, _, _, (((cf.set (O.JOB_FLAGS 0) 0x101).set (O.JOB_JOB_ID 0) 7).set (O.JOB_STATE 0) 1).setIntake { stage := .taken, slot := [7, 0, 4, 128, 0, 0, 0, 0, 2, 0, 0, 0] ++ List.replicate 100 0 }, by decide +kernel, by decide +kernel, by decide +kernel, by decide +kernel, by decide +kernel, by decide +kernel, by decide +kernel, by decide +kernel, rfl, rfl, by decide +kernel⟩,
    ⟨0, _, (((cf.set (O.JOB_FLAGS 0) 0x101).set (O.JOB_JOB_ID 0) 7).set (O.JOB_STATE 0) 2).setIntake { stage := .taken, slot := [7, 0, 6, 128] ++ List.replicate 108 0 }, by decide +kernel, by decide +kernel, by decide +kernel, by decide +kernel, by decide +kernel, by decide +kernel, by decide +kernel, by decide +kernel, rfl⟩⟩

theorem meets_JobReadsAndStatesAct :
    (∃ (bytes : List Byte) (j : Nat) (s1 : State) (s2 : State) (s : State), (s.intake.stage = .tableRead) ∧
      (s.intake.ask = false) ∧ (s.evs.linkUp = true) ∧ (s.intake.refused = none) ∧
      (tableError bytes (slotJob s) (slotField s 22 1) (slotField s 23 1) = none) ∧ (s.intake.jobSlot = j) ∧
      (s1 = s.inBytes (slotField s 16 4)) ∧
      (s2 = (s1.setIntake { s1.intake with eligNext := s.intake.eligNext + 1 }).setJob j { planes := tablePlanes bytes (slotField s 22 1), stripes := tableStripes bytes (slotField s 22 1) (slotField s 23 1), elig := s.intake.eligNext })) ∧
    (∃ (bytes : List Byte) (j : Nat) (b : List Byte) (s1 : State) (ents : List BandEnt) (s : State), (s.intake.stage = .copying) ∧
      (s.intake.ask = false) ∧ (s.evs.linkUp = true) ∧ (s.intake.refused = none) ∧ (s.intake.jobSlot = j) ∧
      (s1 = s.inBytes (slotField s 16 4)) ∧ (b = bytes.take (slotField s 16 4)) ∧ (jobId s1 j = slotJob s1) ∧
      (jobState s1 j ≠ 0) ∧ ((s.job j).aborted = false) ∧
      (ents = (List.range (s.job j).planes.length).map (dirEntry b)) ∧
      (((s.job j).planes.zip ents).zipIdx.find? (fun q => !planeOk b (slotField s 16 4) (slotField s 24 2) ((8 * (s.job j).planes.length + 63) / 64 * 64) q.1.1 q.1.2) = none)) ∧
    (∃ (p : Path) (v : Nat) (j : Nat) (s1 : State) (s2 : State) (s3 : State) (s : State), (s.serves p (O.IN_JOB_ABORT) = true) ∧
      (slotOf s (v % 65536) = some j) ∧
      (s1 = ((s.setJob j { s.job j with aborted := true, repSet := false }).set (O.JOB_REPEAT_LEFT j) 0).setJobFlag j 10 false) ∧
      (s2 = (if jobState s1 j = 2 then s1.leaveRunning j else s1.setJobState j 3 false)) ∧ (s3 = s2.abortSweep j)) ∧
    (∃ (j : Nat) (s1 : State) (s : State), (slots.all (fun j => decide (jobState s j ≠ 2))) ∧
      (earliestEligible s (fun _ => true) = some j) ∧
      (s1 = (s.setIntake { s.intake with runNext := s.intake.runNext + 1 }).enterRunning j 0 s.intake.runNext) ∧
      (jobByAction s1 j = false)) ∧
    (∃ (t : Nat) (l : Nat) (s1 : State) (stop : Nat) (s : State), (s1 = (s.adv t).pauseSync) ∧
      (s1.intake.pauseDir = 1) ∧ (stop = s1.intake.pauseAt + s1.get O.IN_PAUSE_STEP * fuMs) ∧ (stop ≤ s1.up) ∧
      (l = s1.fld O.IN_STATUS B.IN_STATUS_PAUSE_LEVEL) ∧ (l < 3)) ∧
    (∃ (t : Nat) (l : Nat) (s1 : State) (stop : Nat) (s : State), (s1 = (s.adv t).pauseSync) ∧
      (s1.intake.pauseDir = 2) ∧ (stop = s1.intake.pauseAt + s1.get O.IN_PAUSE_STEP * fuMs) ∧ (stop ≤ s1.up) ∧
      (l = s1.fld O.IN_STATUS B.IN_STATUS_PAUSE_LEVEL) ∧ (0 < l) ∧ (l ≤ 3)) ∧
    (∃ (channels : Nat) (s1 : State) (s : State), (s.intake.training = true) ∧
      (s1 = (((s.setIntake { s.intake with training := false }).setF O.BS_STATUS B.BS_STATUS_CH_OK (andW channels (if s.bit O.BS_CONFIG B.BS_CONFIG_CHANNELS then 3 else 15))).setB O.BS_STATUS B.BS_STATUS_ONLINE true).setB O.BS_STATUS B.BS_STATUS_TRAIN_FAIL false)) :=
  ⟨⟨[7, 0, 1, 1] ++ List.replicate 12 0 ++ [1, 0, 0, 0, 8, 0, 0, 0] ++ List.replicate 8 0 ++ [0, 0, 8, 0, 0, 0, 0, 0], 0, _, _, cf.setIntake { stage := .tableRead, slot := [7, 0, 1, 128, 0, 0, 0, 0, 16, 0, 0, 0, 0, 0, 0, 0, 40, 0, 0, 0, 0, 0, 1, 1] ++ List.replicate 88 0 }, by decide +kernel, by decide +kernel, by decide +kernel, by decide +kernel, by decide +kernel, by decide +kernel, rfl, rfl⟩,
    ⟨[], 0, [], _, [], ((cf.set (O.JOB_JOB_ID 0) 7).set (O.JOB_STATE 0) 1).setIntake { stage := .copying, slot := [7, 0, 2, 128] ++ List.replicate 108 0 }, by decide +kernel, by decide +kernel, by decide +kernel, by decide +kernel, by decide +kernel, rfl, by decide +kernel, by decide +kernel, by decide +kernel, by decide +kernel, by decide +kernel, by decide +kernel⟩,
    ⟨.host, 7, 0, _, _, _, (cf.set (O.JOB_JOB_ID 0) 7).set (O.JOB_STATE 0) 1, by decide +kernel, by decide +kernel, rfl, rfl, rfl⟩,
    ⟨0, _, (cf.set (O.JOB_STATE 0) 129).setJob 0 { elig := 1 }, by decide +kernel, by decide +kernel, rfl, by decide +kernel⟩,
    ⟨2^36, _, _, 1280000000, (cf.set O.SB_DIE_TEMP 2000).setIntake { pauseDir := 1 }, rfl, by decide +kernel, by decide +kernel, by decide +kernel, rfl, by decide +kernel⟩,
    ⟨2^36, 2, _, 1280000000, ((cf.set O.SB_DIE_TEMP 10).setF O.IN_STATUS B.IN_STATUS_PAUSE_LEVEL 2).setIntake { pauseDir := 2 }, rfl, by decide +kernel, by decide +kernel, by decide +kernel, by decide +kernel, by decide +kernel, by decide +kernel⟩,
    ⟨15, _, cf.setIntake { training := true }, by decide +kernel, rfl⟩⟩

theorem meets_LanesAct :
    (∃ (n : Nat) (_ecc : Nat) (_addr : Nat) (j : Nat) (i : Nat) (s : State), ((s.lane n).serves = some (j, i))) ∧
    (∃ (n : Nat) (x : Line) (rest : List Line) (s : State), ((s.lane n).raw = x :: rest) ∧ ((s.lane n).coded = [])) ∧
    (∃ (n : Nat) (x : Line) (rest : List Line) (s : State), ((s.lane n).coded = x :: rest) ∧ (hasRoom s n = true)) ∧
    (∃ (p : Path) (n : Nat) (s1 : State) (s : State), (s.serves p (O.SCR_COMMIT n) = true) ∧
      (s.bit (O.SCR_STATUS n) B.SCR_STATUS_COMMIT_PENDING = false) ∧ (commitCause s n = 0) ∧
      (s1 = ((s.set (O.SCR_COMMIT_RESULT n) 1).setB (O.SCR_STATUS n) B.SCR_STATUS_COMMIT_PENDING true).setLane n { s.lane n with commit := 1 })) ∧
    (∃ (p : Path) (n : Nat) (s1 : State) (s : State), (s.serves p (O.SCR_COMMIT n) = true) ∧
      (s.bit (O.SCR_STATUS n) B.SCR_STATUS_COMMIT_PENDING = false) ∧ (commitCause s n = 0) ∧
      (s1 = ((s.set (O.SCR_COMMIT_RESULT n) 1).setB (O.SCR_STATUS n) B.SCR_STATUS_COMMIT_PENDING true).setLane n { s.lane n with commit := 2 })) ∧
    (∃ (p : Path) (n : Nat) (v : Nat) (k : Nat) (e : Nat) (s1 : State) (s : State), (s.serves p (O.SCR_MASK_CMD n) = true) ∧
      (k = v % 2 ^ 14) ∧ (k < nozzles s n) ∧ ((s.mask n).all.contains k = false) ∧
      (s1 = s.setMask n { s.mask n with byHost := setIns (s.mask n).byHost k }) ∧ (compFree s1 n = some e)) ∧
    (∃ (p : Path) (n : Nat) (v : Nat) (k : Nat) (s1 : State) (s : State), (s.serves p (O.SCR_MASK_CMD n) = true) ∧
      (k = v % 2 ^ 14) ∧ (k < nozzles s n) ∧ ((s.mask n).all.contains k = false) ∧
      (s1 = s.setMask n { s.mask n with byHost := setIns (s.mask n).byHost k }) ∧ (compFree s1 n = none)) ∧
    (∃ (p : Path) (n : Nat) (v : Nat) (k : Nat) (s : State), (s.serves p (O.SCR_MASK_CMD n) = true) ∧
      (k = v % 2 ^ 14) ∧ (k < nozzles s n) ∧ ((s.mask n).all.contains k = true)) ∧
    (∃ (p : Path) (n : Nat) (v : Nat) (k : Nat) (e : (Nat × Nat)) (s1 : State) (s : State), (s.serves p (O.SCR_MASK_CMD n) = true) ∧
      (k = v % 2 ^ 14) ∧ (k < nozzles s n) ∧ ((s.mask n).all.contains k = true) ∧
      (s1 = s.setMask n { s.mask n with byRoll := setDel (s.mask n).byRoll k, byHost := setDel (s.mask n).byHost k }) ∧
      (compOf s1 n k = some e)) ∧
    (∃ (p : Path) (n : Nat) (v : Nat) (k : Nat) (s1 : State) (s : State), (s.serves p (O.SCR_MASK_CMD n) = true) ∧
      (k = v % 2 ^ 14) ∧ (k < nozzles s n) ∧ ((s.mask n).all.contains k = true) ∧
      (s1 = s.setMask n { s.mask n with byRoll := setDel (s.mask n).byRoll k, byHost := setDel (s.mask n).byHost k }) ∧
      (compOf s1 n k = none)) ∧
    (∃ (p : Path) (n : Nat) (e : Nat) (v : Nat) (s : State), (s.serves p (compObj n e) = true) ∧ (compValid v = false)) ∧
    (∃ (p : Path) (n : Nat) (e : Nat) (v : Nat) (s1 : State) (s : State), (s.serves p (compObj n e) = true) ∧
      (compValid v = true) ∧ (compNozzle v < nozzles s n) ∧
      (fieldOf v ⟨14, 4⟩ + fieldOf v ⟨18, 4⟩ + fieldOf v ⟨22, 4⟩ + fieldOf v ⟨26, 4⟩ ≤ 24) ∧
      ((compEntries s n).all (fun p => decide (p.1 = e ∨ compNozzle p.2 ≠ compNozzle v))) ∧
      (s1 = if (s.mask n).all.contains (compNozzle v) then s else s.maskRaise n)) :=
  ⟨⟨0, 0, 0, 0, 0, cf.setLane 0 { serves := some (0, 0) }, by decide +kernel⟩,
    ⟨0, {}, [], cf.setLane 0 { raw := [{}] }, by decide +kernel⟩,
    ⟨0, {}, [], (cf.setLane 0 { coded := [{}] }).set (O.LG_DEPTH_EFF 0) 8, by decide +kernel⟩,
    ⟨.host, 0, _, (cf.setLane 0 { serves := some (0, 0) }), by decide +kernel, by decide +kernel, by decide +kernel, rfl⟩,
    ⟨.host, 0, _, (cf.setLane 0 { serves := some (0, 0) }), by decide +kernel, by decide +kernel, by decide +kernel, rfl⟩,
    ⟨.host, 0, 5, 5, 0, _, rc8, by decide +kernel, by decide +kernel, by decide +kernel, by decide +kernel, rfl, by decide +kernel⟩,
    ⟨.host, 0, 5, 5, _, (List.range 256).foldl (fun z e => z.set (compObj 0 e) (2 ^ 31)) rc8, by decide +kernel, by decide +kernel, by decide +kernel, by decide +kernel, rfl, by decide +kernel⟩,
    ⟨.host, 0, 5, 5, rc8.setMask 0 { byRoll := [5], all := [5] }, by decide +kernel⟩,
    ⟨.host, 0, 5, 5, (0,2^31+5), _, (rc8.setMask 0 { byHost := [5], all := [5] }).set (O.SCR_COMP 0 0) (2^31+5), by decide +kernel, by decide +kernel, by decide +kernel, by decide +kernel, rfl, by decide +kernel⟩,
    ⟨.host, 0, 5, 5, _, rc8.setMask 0 { byHost := [5], all := [5] }, by decide +kernel, by decide +kernel, by decide +kernel, by decide +kernel, rfl, by decide +kernel⟩,
    ⟨.host, 0, 0, 0, cf, by decide +kernel⟩,
    ⟨.host, 0, 0, 2^31+5, _, rc8, by decide +kernel, by decide +kernel, by decide +kernel, by decide +kernel, by decide +kernel, rfl⟩⟩

theorem meets_LodgingAndPredictorAct :
    (∃ (n : Nat) (t : Nat) (t0 : Nat) (s : State), (((s.adv t).lodge n).holdSince = some t0) ∧
      ((s.adv t).bit (O.LG_STATUS n) B.LG_STATUS_SLOW = true) ∧
      (t0 + (s.adv t).get (O.LG_SLOW_HOLD n) * fuUs ≤ (s.adv t).up)) ∧
    (∃ (p : Path) (v : Nat) (s : State), (s.serves p (O.LG_SLOW_HOST) = true) ∧ (v % 256 = 1)) ∧
    (∃ (p : Path) (v : Nat) (s : State), (s.serves p (O.LG_SLOW_HOST) = true) ∧ (v % 256 = 0)) ∧
    (∃ (p : Path) (n : Nat) (v : Nat) (s : State), (s.serves p (O.LG_CONTROL n) = true) ∧ (v % 256 ≤ 1)) ∧
    (∃ (i : Nat) (t : Nat) (s : State), (predMode (s.adv t) i = 1) ∧
      ((s.adv t).bit (O.TT_PRED_STATUS i) B.TT_PRED_STATUS_STALLED = false) ∧
      (((s.adv t).pred i).lastUp + (s.adv t).get (O.TT_STALL_TIME i) * fuUs ≤ (s.adv t).up)) ∧
    (∃ (p : Path) (n : Nat) (rev : Bool) (v : Nat) (s1 : State) (s : State), (s.serves p (if rev then O.TT_OFFSET_REV n else O.TT_OFFSET_FWD n) = true) ∧
      (-(2 ^ 47) ≤ toSigned 64 (v % 2 ^ 64)) ∧ (toSigned 64 (v % 2 ^ 64) < 2 ^ 47) ∧
      (s1 = s.set (if rev then O.TT_OFFSET_REV n else O.TT_OFFSET_FWD n) (v % 2 ^ 64))) ∧
    (∃ (p : Path) (n : Nat) (v : Nat) (s : State), (s.serves p (O.TT_CONTROL n) = true) ∧ (v % 256 ≤ 1)) :=
  ⟨⟨0, 2^40, 0, (cf.setLodge 0 { holdSince := some 0 }).setB (O.LG_STATUS 0) B.LG_STATUS_SLOW true, by decide +kernel⟩,
    ⟨.host, 1, cf, by decide +kernel⟩,
    ⟨.host, 0, cf.set O.LG_SLOW_HOST 1, by decide +kernel⟩,
    ⟨.host, 0, 1, cf, by decide +kernel⟩,
    ⟨0, 2^40, (cf.set (O.TT_PRED_CONFIG 0) 1).set (O.TT_PRED_STATUS 0) 0, by decide +kernel⟩,
    ⟨.host, 0, false, 77, _, cf, by decide +kernel, by decide +kernel, by decide +kernel, rfl⟩,
    ⟨.host, 0, 1, cf, by decide +kernel⟩⟩

theorem meets_SchedulersAct :
    (∃ (p : Path) (n : Nat) (s : State), (s.serves p (O.TT_ARM n) = true) ∧ (armed s n = false) ∧
      (armRefusal s n = none)) ∧
    (∃ (p : Path) (n : Nat) (s : State), (s.serves p (O.TT_ARM n) = true) ∧ (armed s n = true)) ∧
    (∃ (n : Nat) (t : Nat) (_ecc : Nat) (x : Line) (v : (Nat × Nat)) (s1 : State) (s : State), (armed (s.advPort n t) n = true) ∧
      ((s.advPort n t).mode = mdPrint) ∧ (nextLine (s.advPort n t) n = some x) ∧ (shuttle (s.advPort n t) = false) ∧
      (s1 = (s.advPort n t).slewOffsets n) ∧
      (evalLine s1 n (linePos s1 n x (liveOffset s1 n x.rev)) x.rev (lastTime (s1.sched n)) = some v) ∧
      (ptLt (s1.pt + s1.get (O.TT_SEND_LEAD n) * 64) v.1 = false)) ∧
    (∃ (n : Nat) (t : Nat) (_ecc : Nat) (x : Line) (v : (Nat × Nat)) (s1 : State) (s : State), (armed (s.advPort n t) n = true) ∧
      ((s.advPort n t).mode = mdPrint) ∧ (nextLine (s.advPort n t) n = some x) ∧ (shuttle (s.advPort n t) = false) ∧
      (s1 = (s.advPort n t).slewOffsets n) ∧
      (evalLine s1 n (linePos s1 n x (liveOffset s1 n x.rev)) x.rev (lastTime (s1.sched n)) = some v) ∧
      (ptLt (s1.pt + s1.get (O.TT_SEND_LEAD n) * 64) v.1 = true)) ∧
    (∃ (n : Nat) (t : Nat) (prev : (Option Nat)) (x : TLine) (v : (Nat × Nat)) (s1 : State) (s2 : State) (s : State), (firstReleased ((s.advPort n t).sched n).lastT ((s.advPort n t).sched n).lines = some (prev, x)) ∧
      (ptLt ((s.advPort n t).pt + (s.advPort n t).get (O.TT_FIX_LEAD n) * 64) x.time = false) ∧
      (evalLine (s.advPort n t) n x.pos x.line.rev prev = some v) ∧
      (extrapOk (s.advPort n t) n v.1 x.line.rev = true) ∧ (v.2 ≤ lagLimit (s.advPort n t) n) ∧
      (s1 = (s.advPort n t).setSched n { (s.advPort n t).sched n with lines := putLine ((s.advPort n t).sched n).lines x.lseq (some { x with st := .fixed, time := v.1, lag := v.2 }) }) ∧
      (s2 = (((s1.set (O.TT_LAST_FIRE n) (v.1 + s1.get (O.TT_STAGGER_DELAY n))).setSat (O.TT_LAST_LAG n) v.2).rise (O.TT_MAX_LAG n) (min v.2 0xFFFFFFFF)).setB (O.TT_STATUS n) B.TT_STATUS_LAGGING (decide (v.2 ≠ 0)))) ∧
    (∃ (n : Nat) (t : Nat) (prev : (Option Nat)) (x : TLine) (v : (Nat × Nat)) (ls : (List TLine)) (on : (List TLine × Bool)) (s1 : State) (s2 : State) (s : State), (firstReleased ((s.advPort n t).sched n).lastT ((s.advPort n t).sched n).lines = some (prev, x)) ∧
      (ptLt ((s.advPort n t).pt + (s.advPort n t).get (O.TT_FIX_LEAD n) * 64) x.time = false) ∧
      (evalLine (s.advPort n t) n x.pos x.line.rev prev = some v) ∧
      (extrapOk (s.advPort n t) n v.1 x.line.rev = true) ∧ (lagLimit (s.advPort n t) n < v.2) ∧
      (ls = putLine ((s.advPort n t).sched n).lines x.lseq none) ∧ (on = if x.start then startOn ls else (ls, false)) ∧
      (s1 = (s.advPort n t).setSched n { (s.advPort n t).sched n with lines := on.1, start := ((s.advPort n t).sched n).start || on.2 }) ∧
      (s2 = if x.frame = 0 ∨ linkUp s1 n = false then s1 else (s1.setLink n { s1.link n with astray := if x.frame = 1 ∨ x.frame = 2 then (s1.link n).astray ++ [(x.lseq, true)] else (s1.link n).astray }).lanePut n (.drop x.lseq))) :=
  ⟨⟨.host, 0, armable, by decide +kernel⟩,
    ⟨.host, 0, cf.set (O.TT_ARM 0) 1, by decide +kernel⟩,
    ⟨0, 0, 0, (nextLine placing 0).getD {}, (25600, 168), _, placing, by decide +kernel, by decide +kernel, by decide +kernel, by decide +kernel, rfl, by decide +kernel, by decide +kernel⟩,
    ⟨0, 0, 0, (nextLine (placing.set (O.TT_SEND_LEAD 0) 0) 0).getD {}, (25600, 168), _, placing.set (O.TT_SEND_LEAD 0) 0, by decide +kernel, by decide +kernel, by decide +kernel, by decide +kernel, rfl, by decide +kernel, by decide +kernel⟩,
    ⟨0, 0, none, { pos := 65536 }, (evalLine fixing 0 65536 false none).getD (0, 0), _, _, fixing, by decide +kernel, by decide +kernel, by decide +kernel, by decide +kernel, by decide +kernel, rfl, rfl⟩,
    ⟨0, 0, none, {}, (evalLine ((placing.set (O.TT_LAG_LIMIT 0) 0).setSched 0 { lines := [{}] }) 0 0 false none).getD (0, 0), [], (([] : List TLine), false), _, _, ((placing.set (O.TT_LAG_LIMIT 0) 0).setSched 0 { lines := [{}] }), by decide +kernel, by decide +kernel, by decide +kernel, by decide +kernel, by decide +kernel, by decide +kernel, by decide +kernel, rfl, rfl⟩⟩

theorem meets_HeadLinkStatesAct :
    (∃ (p : Path) (n : Nat) (v : Nat) (v1 : Nat) (s : State), (s.serves p (O.HP_CONTROL n) = true) ∧
      (v1 = putBit v B.HP_CONTROL_BRINGUP true) ∧ (bitOf v1 B.HP_CONTROL_CLR_RETIRE = false) ∧
      (bitOf v1 B.HP_CONTROL_RETIRE = false) ∧ ((s.mode = mdConfigure ∨ s.mode = mdReady ∨ s.mode = mdService) ∧
      (linkState s n = 0 ∨ linkState s n = 4))) ∧
    (∃ (p : Path) (n : Nat) (v : Nat) (v1 : Nat) (s : State), (s.serves p (O.HP_CONTROL n) = true) ∧
      (v1 = putBit v B.HP_CONTROL_RETIRE true) ∧ (bitOf v1 B.HP_CONTROL_CLR_RETIRE = false) ∧
      (bitOf v1 B.HP_CONTROL_BRINGUP = false)) ∧
    (∃ (p : Path) (n : Nat) (v : Nat) (v1 : Nat) (s1 : State) (s2 : State) (s : State), (s.serves p (O.HP_CONTROL n) = true) ∧
      (v1 = putBit v B.HP_CONTROL_CLR_RETIRE true) ∧ (bitOf v1 B.HP_CONTROL_RETIRE = false) ∧
      (bitOf v1 B.HP_CONTROL_BRINGUP = false) ∧ (s.mode ≠ mdPrint) ∧ (s1 = s.set (O.HP_CONTROL n) (andW v1 8)) ∧
      (retired s1 n = true) ∧ (s2 = s1.linkOff n false)) ∧
    (∃ (n : Nat) (t : Nat) (s : State), (linkState (s.adv t) n = 2) ∧ (((s.adv t).link n).locked = false) ∧
      (((s.adv t).link n).ckAt + 2 * fuMs ≤ (s.adv t).up)) ∧
    (∃ (n : Nat) (t : Nat) (s : State), (linkUp (s.adv t) n = true) ∧
      (((s.adv t).link n).lastMsg + 2 * fuMs ≤ (s.adv t).up)) ∧
    (∃ (n : Nat) (t : Nat) (l : List Nat) (s1 : State) (s : State), (l = (s.advPort n t).span fuMs ((s.advPort n t).link n).badAt) ∧
      (s1 = (((s.advPort n t).setLink n { (s.advPort n t).link n with badAt := l }).inc (O.HP_RET_ERRORS n)).setB (O.HP_LINK_STATUS n) B.HP_LINK_STATUS_RET_ERROR true)) :=
  ⟨⟨.host, 0, 0, 1, cf, by decide +kernel⟩,
    ⟨.host, 0, 0, 2 ^ B.HP_CONTROL_RETIRE, cf, by decide +kernel⟩,
    ⟨.host, 0, 0, 2 ^ B.HP_CONTROL_CLR_RETIRE, _, _, cf.setF (O.HP_STATE 0) B.HP_STATE_LINK 5, by decide +kernel, by decide +kernel, by decide +kernel, by decide +kernel, by decide +kernel, rfl, by decide +kernel, rfl⟩,
    ⟨0, 2^40, cf.setF (O.HP_STATE 0) B.HP_STATE_LINK 2, by decide +kernel⟩,
    ⟨0, 2^40, armable, by decide +kernel⟩,
    ⟨0, 0, [0], _, cf, by decide +kernel, rfl⟩⟩

theorem meets_HeadFramesAct :
    (∃ (n : Nat) (t : Nat) (x : TLine) (s1 : State) (s : State), (nextFrame (s.advPort n t) n = some x) ∧
      (((s.advPort n t).link n).laneAt ≤ (s.advPort n t).up) ∧
      (s1 = (s.advPort n t).setLink n { (s.advPort n t).link n with absorb := ((s.advPort n t).link n).absorb.filter (fun q => q ≠ x.lseq), late := ((s.advPort n t).link n).late.filter (fun q => q ≠ x.lseq) })) ∧
    (∃ (n : Nat) (epoch : Nat) (lseq : Nat) (t : Nat) (o : (Nat × Nat)) (a : Bool) (s1 : State) (s : State), (linkState (s.advPort n t) n = 3) ∧
      (epoch % 16 = (s.advPort n t).get (O.HP_EPOCH n) % 16) ∧
      (s1 = (s.advPort n t).setLink n { (s.advPort n t).link n with lastMsg := (s.advPort n t).up }) ∧
      (outstanding s1 n lseq = some o) ∧ (a = (decide (s1.up < o.2) || (s1.link n).late.contains lseq))) ∧
    (∃ (n : Nat) (epoch : Nat) (lseq : Nat) (t : Nat) (s1 : State) (s : State), (linkState (s.advPort n t) n = 3) ∧
      (epoch % 16 = (s.advPort n t).get (O.HP_EPOCH n) % 16) ∧
      (s1 = (s.advPort n t).setLink n { (s.advPort n t).link n with lastMsg := (s.advPort n t).up }) ∧
      (outstanding s1 n lseq = none) ∧ ((s1.link n).absorb.contains lseq = true)) ∧
    (∃ (n : Nat) (epoch : Nat) (lseq : Nat) (_reason : Nat) (t : Nat) (o : (Nat × Nat)) (s1 : State) (s : State), (linkState (s.advPort n t) n = 3) ∧
      (epoch % 16 = (s.advPort n t).get (O.HP_EPOCH n) % 16) ∧
      (s1 = (s.advPort n t).setLink n { (s.advPort n t).link n with lastMsg := (s.advPort n t).up }) ∧
      (outstanding s1 n lseq = some o)) ∧
    (∃ (n : Nat) (lseq : Nat) (t : Nat) (o : (Nat × Nat)) (s1 : State) (s : State), (outstanding (s.advPort n t) n lseq = some o) ∧
      (o.2 + (s.advPort n t).get (O.HP_ACK_TIMEOUT n) * 2560 ≤ (s.advPort n t).up) ∧
      (s1 = (s.advPort n t).setLink n { (s.advPort n t).link n with late := lseq :: ((s.advPort n t).link n).late.filter (fun q => q ≠ lseq) })) ∧
    (∃ (n : Nat) (epoch : Nat) (flags : Nat) (t : Nat) (f : Nat) (s1 : State) (s2 : State) (s3 : State) (s4 : State) (s : State), (linkState (s.advPort n t) n = 3) ∧
      (epoch % 16 = (s.advPort n t).get (O.HP_EPOCH n) % 16) ∧
      (s1 = (s.advPort n t).setLink n { (s.advPort n t).link n with lastMsg := (s.advPort n t).up }) ∧
      (f = flags % 1024) ∧ (bitOf f 8 = false) ∧ (bitOf f 9 = false) ∧
      (s2 = (s1.set (O.HP_HEAD_FLAGS n) f).setHealth n { s1.health n with hot := bitOf f 6 }) ∧
      (s3 = if flags % 8 = 7 then s2 else s2.setB (O.HP_LINK_STATUS n) B.HP_LINK_STATUS_LOCK_LOST true) ∧
      (s4 = s3.thermalEval n)) :=
  ⟨⟨0, 0, { pos := 65536, time := 2^30 }, _, (armable.setSched 0 { lines := [{ pos := 65536, time := 2^30 }] }).set (O.RC_WORD 0 5) (3 + 2 ^ 8 * 4), by decide +kernel, by decide +kernel, rfl⟩,
    ⟨0, 0, 5, 0, (5,0), false, _, armable.setLink 0 { outs := [(5, 0)] }, by decide +kernel, by decide +kernel, rfl, by decide +kernel, by decide +kernel⟩,
    ⟨0, 0, 5, 0, _, armable.setLink 0 { absorb := [5] }, by decide +kernel, by decide +kernel, rfl, by decide +kernel, by decide +kernel⟩,
    ⟨0, 0, 5, 0, 0, (5,0), _, armable.setLink 0 { outs := [(5, 0)] }, by decide +kernel, by decide +kernel, rfl, by decide +kernel⟩,
    ⟨0, 5, 2^40, (5,0), _, armable.setLink 0 { outs := [(5, 0)] }, by decide +kernel, by decide +kernel, rfl⟩,
    ⟨0, 0, 7, 0, 7, _, _, _, _, armable, by decide +kernel, by decide +kernel, rfl, by decide +kernel, by decide +kernel, by decide +kernel, rfl, rfl, rfl⟩⟩

theorem meets_HeadCommandsAct :
    (∃ (n : Nat) (epoch : Nat) (tag : Nat) (_data : Nat) (t : Nat) (c : Cmd) (s1 : State) (s : State), (linkState (s.advPort n t) n = 3) ∧
      (epoch % 16 = (s.advPort n t).get (O.HP_EPOCH n) % 16) ∧
      (s1 = (s.advPort n t).setLink n { (s.advPort n t).link n with lastMsg := (s.advPort n t).up }) ∧
      ((s1.link n).cmd = some c) ∧ (c.op = 1) ∧ (c.use = 1) ∧ (c.tag = tag)) ∧
    (∃ (n : Nat) (epoch : Nat) (tag : Nat) (_result : Nat) (t : Nat) (c : Cmd) (s1 : State) (s : State), (linkState (s.advPort n t) n = 3) ∧
      (epoch % 16 = (s.advPort n t).get (O.HP_EPOCH n) % 16) ∧
      (s1 = (s.advPort n t).setLink n { (s.advPort n t).link n with lastMsg := (s.advPort n t).up }) ∧
      ((s1.link n).cmd = some c) ∧ (c.op = 2) ∧ (c.use = 1) ∧ (c.tag = tag)) ∧
    (∃ (n : Nat) (epoch : Nat) (tag : Nat) (_result : Nat) (t : Nat) (c : Cmd) (s1 : State) (s : State), (linkState (s.advPort n t) n = 3) ∧
      (epoch % 16 = (s.advPort n t).get (O.HP_EPOCH n) % 16) ∧
      (s1 = (s.advPort n t).setLink n { (s.advPort n t).link n with lastMsg := (s.advPort n t).up }) ∧
      ((s1.link n).cmd = some c) ∧ (c.op = 1) ∧ (c.use = 1) ∧ (c.tag = tag)) ∧
    (∃ (n : Nat) (_epoch : Nat) (tag : Nat) (_e0 : Nat) (_e1 : Nat) (t : Nat) (c : Cmd) (s1 : State) (s : State), (linkState (s.advPort n t) n = 2) ∧
      (s1 = (s.advPort n t).setLink n { (s.advPort n t).link n with lastMsg := (s.advPort n t).up }) ∧
      ((s1.link n).cmd = some c) ∧ (c.op = 6) ∧ (c.tag = tag)) ∧
    (∃ (n : Nat) (t : Nat) (c : Cmd) (a : Nat) (s : State), (((s.advPort n t).link n).cmd = some c) ∧
      (c.sentAt = some a) ∧ (a + cmdLimit c ≤ (s.advPort n t).up) ∧ (c.use ≠ 0 ∨ ((s.advPort n t).link n).card ≠ []) ∧
      (c.again = false)) ∧
    (∃ (p : Path) (n : Nat) (s1 : State) (s : State), (s.serves p (O.HP_RC_CMD n) = true) ∧ ((s.link n).cmd = none) ∧
      (linkState s n = 3 ∨ linkState s n = 1) ∧ (s.bit (O.HP_HEALTH_STATUS n) B.HP_HEALTH_STATUS_REC_BUSY = false) ∧
      (s1 = s.set (O.HP_RC_RESULT n) 1)) ∧
    (∃ (p : Path) (n : Nat) (s1 : State) (s : State), (s.serves p (O.HP_RC_CMD n) = true) ∧ ((s.link n).cmd = none) ∧
      (linkState s n = 3 ∨ linkState s n = 1) ∧ (s.bit (O.HP_HEALTH_STATUS n) B.HP_HEALTH_STATUS_REC_BUSY = false) ∧
      (curfew s = false) ∧ (s1 = s.set (O.HP_RC_RESULT n) 1)) :=
  ⟨⟨0, 0, 0, 9, 0, { op := 1, use := 1 }, _, ((armable.setB (O.HP_STATE 0) B.HP_STATE_CMD_BUSY true).setLink 0 { cmd := some { op := 1, use := 1 } }), by decide +kernel, by decide +kernel, rfl, by decide +kernel, by decide +kernel, by decide +kernel, by decide +kernel⟩,
    ⟨0, 0, 0, 1, 0, { op := 2, use := 1 }, _, ((armable.setB (O.HP_STATE 0) B.HP_STATE_CMD_BUSY true).setLink 0 { cmd := some { op := 2, use := 1 } }), by decide +kernel, by decide +kernel, rfl, by decide +kernel, by decide +kernel, by decide +kernel, by decide +kernel⟩,
    ⟨0, 0, 0, 1, 0, { op := 1, use := 1 }, _, ((armable.setB (O.HP_STATE 0) B.HP_STATE_CMD_BUSY true).setLink 0 { cmd := some { op := 1, use := 1 } }), by decide +kernel, by decide +kernel, rfl, by decide +kernel, by decide +kernel, by decide +kernel, by decide +kernel⟩,
    ⟨0, 0, 0, 0, 0, 0, { op := 6, use := 2 }, _, (((armable.setB (O.HP_STATE 0) B.HP_STATE_CMD_BUSY true).setLink 0 { cmd := some { op := 6, use := 2 } })).setF (O.HP_STATE 0) B.HP_STATE_LINK 2, by decide +kernel, rfl, by decide +kernel, by decide +kernel, by decide +kernel⟩,
    ⟨0, 2^40, { op := 1, use := 1, sentAt := some 0 }, 0, ((armable.setB (O.HP_STATE 0) B.HP_STATE_CMD_BUSY true).setLink 0 { cmd := some { op := 1, use := 1, sentAt := some 0 } }), by decide +kernel⟩,
    ⟨.host, 0, _, armable, by decide +kernel, by decide +kernel, by decide +kernel, by decide +kernel, rfl⟩,
    ⟨.host, 0, _, armable.set O.SU_STATUS 0, by decide +kernel, by decide +kernel, by decide +kernel, by decide +kernel, by decide +kernel, rfl⟩⟩

theorem meets_FiringLinesAct :
    (∃ (n : Nat) (t : Nat) (x : TLine) (rest : List TLine) (s1 : State) (w : (State × List Nat × Bool)) (want : Bool) (nf : Bool) (s2 : State) (fl : Nat) (s3 : State) (s : State), (((s.advPort n t).sched n).lines = x :: rest) ∧
      (x.st = .fixed) ∧ (x.latched = false) ∧
      (ptLt ((s.advPort n t).pt + 12800) (firstEdge (s.advPort n t) n x) = false) ∧
      (fiQuiet (s.advPort n t) n 0 = true) ∧
      (s1 = (s.advPort n t).ptLatch n (if x.line.gap then none else some (x.line.jid, x.line.rep, x.line.band))) ∧
      (w = s1.regulate n) ∧
      (want = (!x.line.blank && (decide (x.frame = 0 ∨ x.frame = 4) || x.stale && decide (x.frame ≤ 2)))) ∧
      (nf = (want || !x.line.blank && decide (x.frame = 3))) ∧ (s2 = if want then w.1.headBlank n else w.1) ∧
      (fl = rotFlags s2 n (x.line.blank || nf || w.2.2) ((s.advPort n t).sched n).newRun x.line.rev w.2.2) ∧
      (s3 = s2.rotReset n x.lseq s2.up fl)) ∧
    (∃ (n : Nat) (t : Nat) (x : TLine) (rest : List TLine) (s1 : State) (s2 : State) (s : State), (((s.advPort n t).sched n).lines = x :: rest) ∧
      (x.st = .fixed) ∧ (x.latched = true) ∧ (ptLt (s.advPort n t).pt (firstEdge (s.advPort n t) n x) = false) ∧
      (groupOn (s.advPort n t) (groupOf n) = true) ∧
      (s1 = ((s.advPort n t).setSched n { (s.advPort n t).sched n with lines := { x with st := .firing } :: rest }).rotate n (firstEdge (s.advPort n t) n x) x.widths) ∧
      (s2 = ((s1.setMark n x.line.rev x.line.key x.line.num).dlSlew n).countFired n)) ∧
    (∃ (n : Nat) (t : Nat) (s1 : State) (s : State), ((s.advPort n t).bit (O.HP_FIRE_STATUS n) B.HP_FIRE_STATUS_ROTATING = true) ∧
      (fiQuiet (s.advPort n t) n 0 = true) ∧ (((s.advPort n t).fire n).spit = none) ∧
      (s1 = (s.advPort n t).setB (O.HP_FIRE_STATUS n) B.HP_FIRE_STATUS_ROTATING false) ∧
      ((s1.sched n).lines.find? (fun x => decide (x.st = .firing)) = none)) ∧
    (∃ (n : Nat) (t : Nat) (x : TLine) (s1 : State) (s2 : State) (s : State), ((s.advPort n t).bit (O.HP_FIRE_STATUS n) B.HP_FIRE_STATUS_ROTATING = true) ∧
      (fiQuiet (s.advPort n t) n 0 = true) ∧ (((s.advPort n t).fire n).spit = none) ∧
      (s1 = (s.advPort n t).setB (O.HP_FIRE_STATUS n) B.HP_FIRE_STATUS_ROTATING false) ∧
      ((s1.sched n).lines.find? (fun x => decide (x.st = .firing)) = some x) ∧
      (s2 = s1.setSched n { s1.sched n with lines := (s1.sched n).lines.filter (fun y => y.st ≠ .firing), lastT := some x.time })) ∧
    (∃ (n : Nat) (t : Nat) (q : Nat) (s : State), ((s.advPort n t).bit (O.HP_FIRE_STATUS n) B.HP_FIRE_STATUS_ROTATING = true) ∧
      (fiQuiet (s.advPort n t) n 0 = true) ∧ (((s.advPort n t).fire n).spit = some q)) :=
  ⟨⟨0, 0, { st := .fixed, frame := 2 }, [], _, _, _, _, _, _, _, armable.setSched 0 { lines := [{ st := .fixed, frame := 2 }] }, by decide +kernel, by decide +kernel, by decide +kernel, by decide +kernel, by decide +kernel, rfl, rfl, rfl, rfl, rfl, rfl, rfl⟩,
    ⟨0, 2^20, { st := .fixed, latched := true, widths := [10000] }, [], _, _, armable.setSched 0 { lines := [{ st := .fixed, latched := true, widths := [10000] }] }, by decide +kernel, by decide +kernel, by decide +kernel, by decide +kernel, by decide +kernel, rfl, rfl⟩,
    ⟨0, 0, _, (armable.setB (O.HP_FIRE_STATUS 0) B.HP_FIRE_STATUS_ROTATING true), by decide +kernel, by decide +kernel, by decide +kernel, rfl, by decide +kernel⟩,
    ⟨0, 0, { st := .firing }, _, _, (armable.setB (O.HP_FIRE_STATUS 0) B.HP_FIRE_STATUS_ROTATING true).setSched 0 { lines := [{ st := .firing }] }, by decide +kernel, by decide +kernel, by decide +kernel, rfl, by decide +kernel, rfl⟩,
    ⟨0, 0, 3, (armable.setB (O.HP_FIRE_STATUS 0) B.HP_FIRE_STATUS_ROTATING true).setFire 0 { spit := some 3 }, by decide +kernel⟩⟩

theorem meets_TrainsAndWarmingAct :
    (∃ (p : Path) (n : Nat) (sh : Train) (lv : Train) (nw : Bool) (s1 : State) (s2 : State) (s : State), (s.serves p (O.HP_PT_COMMIT n) = true) ∧
      (trainPending s n = false) ∧ (sh = shadowTrain s n) ∧ (lv = liveTrain s n) ∧ (trainCause s n sh = 0) ∧
      (armed s n = false ∨ (sh.slot = lv.slot ∧ sh.vnom = lv.vnom ∧ minPeriodOf s n sh ≤ s.get (O.TT_MIN_PERIOD n))) ∧
      (nw = decide (sh.map ≠ lv.map ∨ sh.pulses ≠ lv.pulses)) ∧
      (s1 = ((s.set (O.HP_PT_RESULT n) 1).setB (O.HP_PT_STATUS n) B.HP_PT_STATUS_PENDING true).setFire n { s.fire n with commit := 1, mapNew := nw }) ∧
      (s2 = if nw ∧ linkUp s1 n then (s1.setB (O.HP_PT_STATUS n) B.HP_PT_STATUS_MAP_WAIT true).cmdQueue n { op := 3, a0 := sh.map, a1 := sh.pulses + 256 * rcGroups s1 n, use := 3 } else s1)) ∧
    (∃ (p : Path) (n : Nat) (cse : Nat) (s : State), (s.serves p (O.HP_PT_COMMIT n) = true) ∧
      (trainPending s n = false) ∧ (cse = trainCause s n (shadowTrain s n)) ∧ (cse ≠ 0)) ∧
    (∃ (p : Path) (n : Nat) (sh : Train) (lv : Train) (nw : Bool) (s1 : State) (s2 : State) (s : State), (s.serves p (O.HP_PT_COMMIT n) = true) ∧
      (trainPending s n = false) ∧ (sh = shadowTrain s n) ∧ (lv = liveTrain s n) ∧ (trainCause s n sh = 0) ∧
      (armed s n = false ∨ (sh.slot = lv.slot ∧ sh.vnom = lv.vnom ∧ minPeriodOf s n sh ≤ s.get (O.TT_MIN_PERIOD n))) ∧
      (nw = decide (sh.map ≠ lv.map ∨ sh.pulses ≠ lv.pulses)) ∧
      (s1 = ((s.set (O.HP_PT_RESULT n) 1).setB (O.HP_PT_STATUS n) B.HP_PT_STATUS_PENDING true).setFire n { s.fire n with commit := 2, mapNew := nw }) ∧
      (s2 = if nw ∧ linkUp s1 n then (s1.setB (O.HP_PT_STATUS n) B.HP_PT_STATUS_MAP_WAIT true).cmdQueue n { op := 3, a0 := sh.map, a1 := sh.pulses + 256 * rcGroups s1 n, use := 3 } else s1)) ∧
    (∃ (p : Path) (n : Nat) (cse : Nat) (s : State), (s.serves p (O.HP_PT_COMMIT n) = true) ∧
      (trainPending s n = false) ∧ (cse = trainCause s n (shadowTrain s n)) ∧ (cse ≠ 0)) ∧
    (∃ (n : Nat) (t : Nat) (s1 : State) (w : Nat) (s2 : State) (s : State), ((s.advPort n t).get (O.HP_WARM_PERIOD n) ≠ 0) ∧
      (firingMode (s.advPort n t) = true) ∧
      (((s.advPort n t).fire n).warmAt.all (fun a => decide (a + (s.advPort n t).get (O.HP_WARM_PERIOD n) * 64 ≤ (s.advPort n t).up))) ∧
      (s1 = (s.advPort n t).setFire n { (s.advPort n t).fire n with warmAt := some (s.advPort n t).up }) ∧
      (w = regulated (liveTrain s1 n).warm (s1.pg (groupOf n)).k) ∧ (warmMay s1 n w = true) ∧
      (s2 = (s1.inc (O.HP_WARM_PULSES n)).setB (O.HP_FIRE_STATUS n) B.HP_FIRE_STATUS_WARMING true)) ∧
    (∃ (n : Nat) (t : Nat) (s1 : State) (w : Nat) (s : State), ((s.advPort n t).get (O.HP_WARM_PERIOD n) ≠ 0) ∧
      (firingMode (s.advPort n t) = true) ∧
      (((s.advPort n t).fire n).warmAt.all (fun a => decide (a + (s.advPort n t).get (O.HP_WARM_PERIOD n) * 64 ≤ (s.advPort n t).up))) ∧
      (s1 = (s.advPort n t).setFire n { (s.advPort n t).fire n with warmAt := some (s.advPort n t).up }) ∧
      (w = regulated (liveTrain s1 n).warm (s1.pg (groupOf n)).k) ∧ (warmMay s1 n w = false)) :=
  ⟨⟨.host, 0, shadowTrain trainOk 0, liveTrain trainOk 0, false, _, _, trainOk, by decide +kernel, by decide +kernel, by decide +kernel, by decide +kernel, by decide +kernel, by decide +kernel, by decide +kernel, rfl, rfl⟩,
    ⟨.host, 0, 7, State.reset.set O.MD_MODE 2, by decide +kernel⟩,
    ⟨.host, 0, shadowTrain trainOk 0, liveTrain trainOk 0, false, _, _, trainOk, by decide +kernel, by decide +kernel, by decide +kernel, by decide +kernel, by decide +kernel, by decide +kernel, by decide +kernel, rfl, rfl⟩,
    ⟨.host, 0, 7, State.reset.set O.MD_MODE 2, by decide +kernel⟩,
    ⟨0, 2^30, _, regulated 1000 16384, _, ((trainOk.set (O.HP_PT_WARM_LIVE 0) 1000).set (O.HP_WARM_PERIOD 0) 200).setPg 0 { k := 16384 }, by decide +kernel, by decide +kernel, by decide +kernel, rfl, by decide +kernel, by decide +kernel, rfl⟩,
    ⟨0, 0, _, regulated 0 16384, armable.set (O.HP_WARM_PERIOD 0) 200, by decide +kernel, by decide +kernel, by decide +kernel, rfl, by decide +kernel, by decide +kernel⟩⟩

theorem meets_PowerGroupsAct :
    (∃ (g : Nat) (t : Nat) (s1 : State) (s2 : State) (s : State), (groupState (s.adv t) g = 1 ∨ groupState (s.adv t) g = 2) ∧
      (((s.adv t).pg g).dueAt.all (fun a => decide (a + (s.adv t).get (O.HP_PG_PERIOD g) * 64 ≤ (s.adv t).up))) ∧
      (s1 = (s.adv t).setPg g { (s.adv t).pg g with dueAt := some (s.adv t).up }) ∧
      (s2 = s1.senseWithdraw (fun r => decide (r.what = Sensed.group ∧ r.inst = g)))) ∧
    (∃ (g : Nat) (t : Nat) (s : State), (groupState (s.adv t) g = 1 ∨ groupState (s.adv t) g = 2) ∧
      ((s.adv t).bit (O.HP_PG_STATUS g) B.HP_PG_STATUS_V_STALE = false) ∧ (voltageStale (s.adv t) g = true)) ∧
    (∃ (g : Nat) (t : Nat) (a : Nat) (s : State), (groupState (s.adv t) g = 2) ∧
      ((s.adv t).get (O.HP_PG_CLAMP_TIME g) ≠ 0) ∧
      (((s.adv t).pg g).clampAt = some a ∨ ((s.adv t).pg g).staleAt = some a) ∧
      (a + (s.adv t).get (O.HP_PG_CLAMP_TIME g) * fuUs ≤ (s.adv t).up)) ∧
    (∃ (g : Nat) (t : Nat) (s : State), (groupState (s.adv t) g = 1) ∧
      (((s.adv t).pg g).rampAt + (s.adv t).get (O.HP_PG_RAMP_LIMIT g) * fuMs ≤ (s.adv t).up)) ∧
    (∃ (g : Nat) (t : Nat) (s : State), (((s.adv t).pg g).falling = true) ∧
      (∀ k, k < 12 → (s.adv t).bit (O.HP_FIRE_STATUS (12 * g + k)) B.HP_FIRE_STATUS_ROTATING = false ∧ fiQuiet (s.adv t) (12 * g + k) fuUs = true)) ∧
    (∃ (p : Path) (g : Nat) (on : Bool) (s : State), (s.serves p (O.HP_PG_CONTROL g) = true) ∧
      (on = true ∨ s.bit (O.HP_PG_CONTROL g) B.HP_PG_CONTROL_ENABLE = false ∨ ∀ k, k < 12 → armed s (12 * g + k) = false)) ∧
    (∃ (p : Path) (g : Nat) (v : Nat) (en : Bool) (s1 : State) (s2 : State) (s : State), (s.serves p (O.HP_PG_CONTROL g) = true) ∧
      (en = bitOf v B.HP_PG_CONTROL_ENABLE) ∧
      (en = true ∨ s.bit (O.HP_PG_CONTROL g) B.HP_PG_CONTROL_ENABLE = false ∨ ∀ k, k < 12 → armed s (12 * g + k) = false) ∧
      (s1 = s.setB (O.HP_PG_CONTROL g) B.HP_PG_CONTROL_ENABLE en) ∧ (bitOf v B.HP_PG_CONTROL_CLR_STATS = false) ∧
      (groupState s g ≠ 3 ∨ s.mode ≠ mdPrint) ∧
      (s2 = if groupState s g = 3 then (s1.setF (O.HP_PG_STATUS g) B.HP_PG_STATUS_STATE 0).setB (O.HP_PG_STATUS g) B.HP_PG_STATUS_FAULT_CAUSE false else s1)) ∧
    (∃ (p : Path) (g : Nat) (v : Nat) (en : Bool) (s1 : State) (s : State), (s.serves p (O.HP_PG_CONTROL g) = true) ∧
      (en = bitOf v B.HP_PG_CONTROL_ENABLE) ∧
      (en = true ∨ s.bit (O.HP_PG_CONTROL g) B.HP_PG_CONTROL_ENABLE = false ∨ ∀ k, k < 12 → armed s (12 * g + k) = false) ∧
      (s1 = s.setB (O.HP_PG_CONTROL g) B.HP_PG_CONTROL_ENABLE en) ∧ (bitOf v B.HP_PG_CONTROL_CLR_FAULT = false)) :=
  ⟨⟨0, 0, _, _, armable, by decide +kernel, by decide +kernel, rfl, rfl⟩,
    ⟨0, 2^40, armable.setPg 0 { convAt := some 5 }, by decide +kernel⟩,
    ⟨0, 2^40, 5, armable.setPg 0 { clampAt := some 5 }, by decide +kernel⟩,
    ⟨0, 2^50, armable.setF (O.HP_PG_STATUS 0) B.HP_PG_STATUS_STATE 1, by decide +kernel⟩,
    ⟨0, 2^40, armable.setPg 0 { falling := true }, by decide +kernel⟩,
    ⟨.host, 0, false, armable, by decide +kernel⟩,
    ⟨.host, 0, 1, true, _, _, armable.setF (O.HP_PG_STATUS 0) B.HP_PG_STATUS_STATE 3, by decide +kernel, by decide +kernel, by decide +kernel, rfl, by decide +kernel, by decide +kernel, rfl⟩,
    ⟨.host, 0, 1, true, _, armable, by decide +kernel, by decide +kernel, by decide +kernel, rfl, by decide +kernel⟩⟩

theorem meets_HeadReadingsAct :
    (∃ (n : Nat) (t : Nat) (s1 : State) (s : State), (tooEarly (s.advPort n t) ((s.advPort n t).health n).idleAt ((s.advPort n t).get (O.HP_ROLL_IDLE_PERIOD n) * 2560) = false) ∧
      (s1 = (s.advPort n t).setHealth n { (s.advPort n t).health n with idleAt := some (s.advPort n t).up }) ∧
      (rollRuns s1 n = true) ∧ (printing s1 n = false) ∧
      (asking s1 (fun r => ofPort n r && r.what != Sensed.temp) = false)) ∧
    (∃ (n : Nat) (t : Nat) (s1 : State) (s : State), (tooEarly (s.advPort n t) ((s.advPort n t).health n).idleAt ((s.advPort n t).get (O.HP_ROLL_IDLE_PERIOD n) * 2560) = false) ∧
      (s1 = (s.advPort n t).setHealth n { (s.advPort n t).health n with idleAt := some (s.advPort n t).up }) ∧
      (rollRuns s1 n = false ∨ printing s1 n = true ∨ asking s1 (fun r => ofPort n r && r.what != Sensed.temp) = true)) ∧
    (∃ (n : Nat) (t : Nat) (s1 : State) (s2 : State) (s : State), (tooEarly (s.advPort n t) ((s.advPort n t).health n).tempRdAt ((s.advPort n t).get (O.HP_TEMP_PERIOD n) * fuUs) = false) ∧
      (s1 = (s.advPort n t).setHealth n { (s.advPort n t).health n with tempRdAt := some (s.advPort n t).up }) ∧
      (linkUp s1 n = true) ∧ (snsFault s1 n = false) ∧ (s2 = s1.setHealth n { s1.health n with tempDue := true }) ∧
      (printing s2 n = true)) ∧
    (∃ (n : Nat) (t : Nat) (s1 : State) (s2 : State) (s : State), (tooEarly (s.advPort n t) ((s.advPort n t).health n).tempRdAt ((s.advPort n t).get (O.HP_TEMP_PERIOD n) * fuUs) = false) ∧
      (s1 = (s.advPort n t).setHealth n { (s.advPort n t).health n with tempRdAt := some (s.advPort n t).up }) ∧
      (linkUp s1 n = true) ∧ (snsFault s1 n = false) ∧ (s2 = s1.setHealth n { s1.health n with tempDue := true }) ∧
      (printing s2 n = false) ∧ (asking s2 (fun r => ofPort n r && r.what == Sensed.temp) = false) ∧
      (∀ k, k < 8 → n ∉ (s2.mt k).ports ∨ s2.get (O.MT_KIND k) < 6)) ∧
    (∃ (n : Nat) (t : Nat) (a : Nat) (s : State), (((s.adv t).health n).tempAt = some a ∨ (((s.adv t).health n).tempAt = none ∧ linkUp (s.adv t) n = true ∧
      ((s.adv t).health n).upAt = a)) ∧ (ptLt (a + (s.adv t).get (O.HP_TEMP_AGE n) * fuMs) (s.adv t).pt = true) ∧
      ((s.adv t).bit (O.HP_HEALTH_STATUS n) B.HP_HEALTH_STATUS_TEMP_STALE = false)) ∧
    (∃ (p : Path) (n : Nat) (v : Nat) (x : Nat) (v1 : Nat) (s1 : State) (s2 : State) (s3 : State) (s : State), (s.serves p (O.HP_HEALTH_CONTROL n) = true) ∧
      (v1 = putBit (putBit v B.HP_HEALTH_CONTROL_CLR_BROKEN false) B.HP_HEALTH_CONTROL_CLR_SNS_FAULT true) ∧
      (s.mode ≠ mdPrint) ∧ (linkUp s n = true) ∧ (refPasses x = true) ∧
      (s1 = (s.set (O.HP_HEALTH_CONTROL n) (v1 % 32)).setB (O.HP_HEALTH_STATUS n) B.HP_HEALTH_STATUS_SNS_FAULT false) ∧
      (s2 = s1.setHealth n { s1.health n with refFails := 0, sinceRef := 0, confirms := [] }) ∧
      (s3 = if bitOf v1 B.HP_HEALTH_CONTROL_ROLL_EN then s2 else s2.senseDrop (fun r => ofPort n r && r.what != Sensed.temp && r.slot.isNone))) ∧
    (∃ (p : Path) (n : Nat) (v : Nat) (x : Nat) (v1 : Nat) (r : (Int × State)) (s1 : State) (s2 : State) (s3 : State) (s4 : State) (s5 : State) (s : State), (s.serves p (O.HP_HEALTH_CONTROL n) = true) ∧
      (v1 = putBit (putBit v B.HP_HEALTH_CONTROL_CLR_SNS_FAULT false) B.HP_HEALTH_CONTROL_CLR_BROKEN true) ∧
      (s.mode ≠ mdPrint) ∧ (linkUp s n = true) ∧ (r = s.tempOf n x) ∧ (plausible s x r.1 = true) ∧
      (s1 = r.2.set (O.HP_HEALTH_CONTROL n) (v1 % 32)) ∧
      (s2 = (s1.setF (O.HP_HEALTH_STATUS n) B.HP_HEALTH_STATUS_THERMAL 0).setB (O.HP_HEALTH_STATUS n) B.HP_HEALTH_STATUS_INHIBITED false) ∧
      (s3 = if thermalState s1 n = 3 then ((s2.setB (O.HP_HEALTH_STATUS n) B.HP_HEALTH_STATUS_PAUSE false).warnSync n).ttSync n else s1) ∧
      (s4 = s3.tempTake n r.1) ∧
      (s5 = if bitOf v1 B.HP_HEALTH_CONTROL_ROLL_EN then s4 else s4.senseDrop (fun r => ofPort n r && r.what != Sensed.temp && r.slot.isNone))) :=
  ⟨⟨0, 0, _, (armable.setB (O.HP_HEALTH_CONTROL 0) B.HP_HEALTH_CONTROL_ROLL_EN true), by decide +kernel, rfl, by decide +kernel, by decide +kernel, by decide +kernel⟩,
    ⟨0, 0, _, cf, by decide +kernel, rfl, by decide +kernel⟩,
    ⟨0, 0, _, _, armable.setSched 0 { lines := [{}] }, by decide +kernel, rfl, by decide +kernel, by decide +kernel, rfl, by decide +kernel⟩,
    ⟨0, 0, _, _, armable, by decide +kernel, rfl, by decide +kernel, by decide +kernel, rfl, by decide +kernel, by decide +kernel, by decide +kernel⟩,
    ⟨0, 2^50, 0, armable.setB (O.HP_HEALTH_STATUS 0) B.HP_HEALTH_STATUS_TEMP_STALE false, by decide +kernel⟩,
    ⟨.host, 0, 0, 16000, _, _, _, _, armable, by decide +kernel, rfl, by decide +kernel, by decide +kernel, by decide +kernel, rfl, rfl, rfl⟩,
    ⟨.host, 0, 0, 12000, _, _, _, _, _, _, _, brk, by decide +kernel, rfl, by decide +kernel, by decide +kernel, rfl, by decide +kernel, rfl, rfl, rfl, rfl, rfl⟩⟩

theorem meets_RecordsAndTwinsAct :
    (∃ (p : Path) (n : Nat) (v : Nat) (s : State), (s.serves p (O.HP_RANK_SET n) = true) ∧ (v ≤ 7) ∧
      (s.mode ≠ mdPrint)) ∧
    (∃ (p : Path) (n : Nat) (s1 : State) (s : State), (s.serves p (O.HP_REC_CMD n) = true) ∧
      (s1 = s.setHealth n { s.health n with recByMask := false })) ∧
    (∃ (p : Path) (n : Nat) (s : State), (s.serves p (O.HP_REC_CMD n) = true)) ∧
    (∃ (n : Nat) (t : Nat) (slot : Nat) (seq : Nat) (s1 : State) (s : State), ((s.adv t).bit (O.HP_HEALTH_STATUS n) B.HP_HEALTH_STATUS_REC_PENDING = true) ∧
      ((s.adv t).bit (O.HP_HEALTH_STATUS n) B.HP_HEALTH_STATUS_REC_BUSY = false) ∧
      ((s.adv t).bit (O.HP_HEALTH_STATUS n) B.HP_HEALTH_STATUS_REC_DISABLED = false) ∧ (linkUp (s.adv t) n = true) ∧
      ((s.adv t).get (O.HP_RC_RESULT n) ≠ 1) ∧
      (((s.adv t).health n).recAt.all (fun a => !((s.adv t).health n).recByMask || decide (a + (s.adv t).get (O.HP_REC_MIN_GAP n) * fuS ≤ (s.adv t).up))) ∧
      (((s.adv t).health n).recHold.all (fun a => decide (a ≤ (s.adv t).up))) ∧ (curfew (s.adv t) = false) ∧
      (slot = if (s.adv t).bit (O.HP_STATE n) B.HP_STATE_CALIB_VALID ∧
      (s.adv t).bit (O.HP_STATE n) B.HP_STATE_CALIB_SLOT = false then 1 else 0) ∧
      (seq = (if (s.adv t).bit (O.HP_STATE n) B.HP_STATE_CALIB_VALID then ((s.adv t).health n).calSeq + 1 else 1) % 2 ^ 32) ∧
      (s1 = (s.adv t).setHealth n { (s.adv t).health n with recAt := some (s.adv t).up, recHold := none, recByMask := false, recWrite := some { slot := slot, seq := seq, pre := recPre (s.adv t) n, post := recPost (s.adv t) n } })) ∧
    (∃ (n : Nat) (t : Nat) (s : State), ((s.adv t).bit (O.HP_HEALTH_STATUS n) B.HP_HEALTH_STATUS_REC_PENDING = true) ∧
      ((s.adv t).bit (O.HP_HEALTH_STATUS n) B.HP_HEALTH_STATUS_REC_BUSY = false) ∧
      ((s.adv t).bit (O.HP_HEALTH_STATUS n) B.HP_HEALTH_STATUS_REC_DISABLED = false) ∧ (linkUp (s.adv t) n = true) ∧
      ((s.adv t).get (O.HP_RC_RESULT n) ≠ 1) ∧
      (((s.adv t).health n).recAt.all (fun a => !((s.adv t).health n).recByMask || decide (a + (s.adv t).get (O.HP_REC_MIN_GAP n) * fuS ≤ (s.adv t).up))) ∧
      (((s.adv t).health n).recHold.all (fun a => decide (a ≤ (s.adv t).up))) ∧ (curfew (s.adv t) = true)) ∧
    (∃ (p : Path) (n : Nat) (v : Nat) (s : State), (s.serves p (O.HP_TWIN n) = true) ∧ (v ≠ n) ∧ (v ≤ 95) ∧
      (∀ k, k < 96 → k ≠ n → s.get (O.HP_TWIN k) ≠ v) ∧ (servedBy s n = none)) ∧
    (∃ (p : Path) (n : Nat) (v : Nat) (s : State), (s.serves p (O.HP_TWIN n) = true) ∧ (v = 0xFF) ∧ (n < 96) ∧
      (servedBy s n = none)) ∧
    (∃ (p : Path) (n : Nat) (s : State), (s.serves p (O.HP_TWIN_CMD n) = true) ∧
      ((slots.filter (fun j => decide (jobState s j = 2 ∨ jobState s j = 3))).findSome? (fun j => (stripeIdx s j n).bind (fun i => if (tget (0, 0) (s.job j).srv i).1 = 0xFF then some (j, i) else none)) = none)) ∧
    (∃ (p : Path) (n : Nat) (j : Nat) (i : Nat) (s : State), (s.serves p (O.HP_TWIN_CMD n) = true) ∧
      ((slots.filter (fun j => decide (jobState s j = 2 ∨ jobState s j = 3))).findSome? (fun j => (stripeIdx s j n).bind (fun i => if (tget (0, 0) (s.job j).srv i).1 = 0xFF then some (j, i) else none)) = some (j, i))) ∧
    (∃ (p : Path) (n : Nat) (s : State), (s.serves p (O.HP_TWIN_CMD n) = true) ∧ (s.mode ≠ mdPrint)) ∧
    (∃ (p : Path) (n : Nat) (s : State), (s.serves p (O.HP_TWIN_CMD n) = true) ∧ (s.mode = mdPrint)) :=
  ⟨⟨.host, 0, 5, cf, by decide +kernel⟩,
    ⟨.host, 0, _, cf, by decide +kernel, rfl⟩,
    ⟨.host, 0, cf, by decide +kernel⟩,
    ⟨0, 0, _, _, _, (armable.set O.SU_STATUS 0).setB (O.HP_HEALTH_STATUS 0) B.HP_HEALTH_STATUS_REC_PENDING true, by decide +kernel, by decide +kernel, by decide +kernel, by decide +kernel, by decide +kernel, by decide +kernel, by decide +kernel, by decide +kernel, rfl, rfl, rfl⟩,
    ⟨0, 0, (armable.setB O.SU_STATUS B.SU_STATUS_CURFEW true).setB (O.HP_HEALTH_STATUS 0) B.HP_HEALTH_STATUS_REC_PENDING true, by decide +kernel⟩,
    ⟨.host, 0, 1, cf, by decide +kernel⟩,
    ⟨.host, 0, 255, cf, by decide +kernel⟩,
    ⟨.host, 0, armable.set O.MD_MODE 5, by decide +kernel⟩,
    ⟨.host, 0, 0, 0, (placing.setJob 0 { planes := [{ width := 8 }], stripes := [{ cols := 8 }], bands := [{ lines := 4, ents := [{}], left := [0] }], bases := [(0, 0)], srv := [(0, (0xFF, 0))] }), by decide +kernel⟩,
    ⟨.host, 0, armable, by decide +kernel⟩,
    ⟨.host, 1, (placing.setJob 0 { planes := [{ width := 8 }], stripes := [{ cols := 8 }], bands := [{ lines := 4, ents := [{}], left := [0] }], bases := [(0, 0)], srv := [(0, (1, 0))] }), by decide +kernel⟩⟩

theorem meets_ConversionsAct :
    (∃ (c : Nat) (code : Nat) (t : Nat) (g : Grant) (s1 : State) (cc : Nat) (s2 : State) (s3 : State) (s4 : State) (s : State), (((s.adv t).sconv c).grant = some g) ∧
      (g.waits = false) ∧ (ptLt (s.adv t).pt (convEnd (s.adv t) g) = false) ∧ (g.req.what = Sensed.host) ∧
      (s1 = ((s.adv t).rampStep c).calibratedSync) ∧ (cc = corrected s1 c (min code 65535)) ∧
      (s2 = if g.made + 1 < g.req.count then s1.setGrant c (some { g with made := g.made + 1, bad := false, start := s1.pt, begun := some g.start }) else s1.setGrant c none) ∧
      (s3 = s2.setBank { s2.bank with hostLast := some (g.req.input, g.start) }) ∧
      (sbBit (s.adv t) B.SB_STATUS_REF_FAULT = false) ∧ (g.bad = false) ∧ (s4 = s3.hostResult cc)) ∧
    (∃ (c : Nat) (code : Nat) (t : Nat) (g : Grant) (s1 : State) (cc : Nat) (s2 : State) (s3 : State) (s4 : State) (s : State), (((s.adv t).sconv c).grant = some g) ∧
      (g.waits = false) ∧ (ptLt (s.adv t).pt (convEnd (s.adv t) g) = false) ∧ (g.req.what = Sensed.host) ∧
      (s1 = ((s.adv t).rampStep c).calibratedSync) ∧ (cc = corrected s1 c (min code 65535)) ∧
      (s2 = if g.made + 1 < g.req.count then s1.setGrant c (some { g with made := g.made + 1, bad := false, start := s1.pt, begun := some g.start }) else s1.setGrant c none) ∧
      (s3 = s2.setBank { s2.bank with hostLast := some (g.req.input, g.start) }) ∧
      (sbBit (s.adv t) B.SB_STATUS_REF_FAULT = true ∨ g.bad = true) ∧
      (s4 = (s3.draw.2.setB O.SB_HOST_STATUS 3 true).hostResult (s3.draw.1 % 65536))) ∧
    (∃ (c : Nat) (code : Nat) (t : Nat) (g : Grant) (s1 : State) (cc : Nat) (u : Nat) (s : State), (((s.adv t).sconv c).grant = some g) ∧
      (g.waits = false) ∧ (ptLt (s.adv t).pt (convEnd (s.adv t) g) = false) ∧ (g.req.what = Sensed.group) ∧
      (s1 = ((s.adv t).rampStep c).calibratedSync) ∧ (cc = corrected s1 c (min code 65535)) ∧ (u = sixteenths s1 cc) ∧
      (sbBit (s.adv t) B.SB_STATUS_REF_FAULT = false)) ∧
    (∃ (c : Nat) (code : Nat) (t : Nat) (g : Grant) (s1 : State) (cc : Nat) (u : Nat) (s : State), (((s.adv t).sconv c).grant = some g) ∧
      (g.waits = false) ∧ (ptLt (s.adv t).pt (convEnd (s.adv t) g) = false) ∧ (g.req.what = Sensed.supply) ∧
      (s1 = ((s.adv t).rampStep c).calibratedSync) ∧ (cc = corrected s1 c (min code 65535)) ∧ (u = sixteenths s1 cc) ∧
      (sbBit (s.adv t) B.SB_STATUS_REF_FAULT = false)) ∧
    (∃ (c : Nat) (code : Nat) (t : Nat) (g : Grant) (s1 : State) (cc : Nat) (u : Nat) (s : State), (((s.adv t).sconv c).grant = some g) ∧
      (g.waits = false) ∧ (ptLt (s.adv t).pt (convEnd (s.adv t) g) = false) ∧ (g.req.what = Sensed.motor) ∧
      (s1 = ((s.adv t).rampStep c).calibratedSync) ∧ (cc = corrected s1 c (min code 65535)) ∧ (u = sixteenths s1 cc) ∧
      (sbBit (s.adv t) B.SB_STATUS_REF_FAULT = false)) ∧
    (∃ (c : Nat) (code : Nat) (t : Nat) (g : Grant) (s1 : State) (cc : Nat) (u : Nat) (s : State), (((s.adv t).sconv c).grant = some g) ∧
      (g.waits = false) ∧ (ptLt (s.adv t).pt (convEnd (s.adv t) g) = false) ∧ (g.req.what = Sensed.temp) ∧
      (s1 = ((s.adv t).rampStep c).calibratedSync) ∧ (cc = corrected s1 c (min code 65535)) ∧ (u = sixteenths s1 cc) ∧
      (sbBit (s.adv t) B.SB_STATUS_REF_FAULT = false)) ∧
    (∃ (c : Nat) (code : Nat) (t : Nat) (g : Grant) (s1 : State) (cc : Nat) (u : Nat) (s : State), (((s.adv t).sconv c).grant = some g) ∧
      (g.waits = false) ∧ (ptLt (s.adv t).pt (convEnd (s.adv t) g) = false) ∧ (g.req.what = Sensed.ref) ∧
      (s1 = ((s.adv t).rampStep c).calibratedSync) ∧ (cc = corrected s1 c (min code 65535)) ∧ (u = sixteenths s1 cc) ∧
      (sbBit (s.adv t) B.SB_STATUS_REF_FAULT = false)) ∧
    (∃ (c : Nat) (code : Nat) (t : Nat) (g : Grant) (s1 : State) (cc : Nat) (u : Nat) (s : State), (((s.adv t).sconv c).grant = some g) ∧
      (g.waits = false) ∧ (ptLt (s.adv t).pt (convEnd (s.adv t) g) = false) ∧ (g.req.what = Sensed.heater) ∧
      (s1 = ((s.adv t).rampStep c).calibratedSync) ∧ (cc = corrected s1 c (min code 65535)) ∧ (u = sixteenths s1 cc) ∧
      (sbBit (s.adv t) B.SB_STATUS_REF_FAULT = false)) ∧
    (∃ (t : Nat) (l : List Req) (s : State), (l = (s.adv t).bank.reqs.filter (fun (r : Req) => r.deadline.any (fun d => decide (d / 400 < senseCycle (s.adv t)))))) ∧
    (∃ (c : Nat) (t : Nat) (g : Grant) (lim : Nat) (cuts : List Nat) (storm : Bool) (s1 : State) (s2 : State) (s3 : State) (s : State), (((s.adv t).sconv c).grant = some g) ∧
      (lim = g.at' + (s.adv t).get (O.SB_HOLD_LIMIT g.req.cls) * fuUs) ∧ (lim ≤ (s.adv t).up) ∧
      (endsFirst (s.adv t) g lim = false) ∧
      (cuts = (s.adv t).span (10 * fuMs) (tget [] (s.adv t).bank.cutsAt g.req.cls)) ∧
      (storm = (decide (16 < cuts.length) && !sbBit (s.adv t) B.SB_STATUS_CUT_STORM)) ∧
      (s1 = (s.adv t).setBank { (s.adv t).bank with cutsAt := tput (s.adv t).bank.cutsAt g.req.cls cuts }) ∧
      (s2 = (s1.inc O.SB_CUTS).hit O.SB_EVENTS B.SB_EVENTS_HOLD_CUT 557 (if storm then 1 else 0)) ∧
      (s3 = if storm then s2.sbPut B.SB_STATUS_CUT_STORM true else s2)) ∧
    (∃ (c : Nat) (t : Nat) (g : Grant) (l : List Nat) (s1 : State) (s : State), (((s.adv t).sconv c).grant = some g) ∧
      (g.waits = false) ∧ (ptLt (s.adv t).pt (convEnd (s.adv t) g + fuUs) = false) ∧
      (l = (s.adv t).span fuMs ((s.adv t).sconv c).lateAt) ∧
      (s1 = ((s.adv t).setSconv c { (s.adv t).sconv c with lateAt := l }).hit O.SB_EVENTS B.SB_EVENTS_CONV_TIMEOUT 560)) ∧
    (∃ (t : Nat) (s : State), ((s.adv t).mode ≠ mdReset) ∧ ((s.adv t).mode ≠ mdBoot) ∧
      (sbBit (s.adv t) B.SB_STATUS_REF_FAULT = false)) ∧
    (∃ (t : Nat) (s : State), ((s.adv t).bank.refAt + fuMs ≤ (s.adv t).up)) ∧
    (∃ (t : Nat) (s1 : State) (s : State), ((s.adv t).mode ≠ mdReset) ∧ ((s.adv t).mode ≠ mdBoot) ∧
      (tooEarly (s.adv t) (s.adv t).bank.dieAt ((s.adv t).get O.SB_DIE_PERIOD * fuUs) = false) ∧
      (s1 = ((s.adv t).setBank { (s.adv t).bank with dieAt := some (s.adv t).up }).senseWithdraw (fun r => decide (r.what = Sensed.die)))) :=
  ⟨⟨0, 500, 2^30, { req := { what := .host, count := 3 } }, _, _, _, _, _, cf.setSconv 0 { grant := some { req := { what := .host, count := 3 } } }, by decide +kernel, by decide +kernel, by decide +kernel, by decide +kernel, rfl, rfl, rfl, rfl, by decide +kernel, by decide +kernel, rfl⟩,
    ⟨0, 500, 2^30, { req := { what := .host, count := 3 } }, _, _, _, _, _, (cf.sbPut B.SB_STATUS_REF_FAULT true).setSconv 0 { grant := some { req := { what := .host, count := 3 } } }, by decide +kernel, by decide +kernel, by decide +kernel, by decide +kernel, rfl, rfl, rfl, rfl, by decide +kernel, rfl⟩,
    ⟨0, 500, 2^30, { req := { what := .group } }, _, _, _, cf.setSconv 0 { grant := some { req := { what := .group } } }, by decide +kernel, by decide +kernel, by decide +kernel, by decide +kernel, rfl, rfl, rfl, by decide +kernel⟩,
    ⟨0, 500, 2^30, { req := { what := .supply } }, _, _, _, cf.setSconv 0 { grant := some { req := { what := .supply } } }, by decide +kernel, by decide +kernel, by decide +kernel, by decide +kernel, rfl, rfl, rfl, by decide +kernel⟩,
    ⟨0, 500, 2^30, { req := { what := .motor } }, _, _, _, cf.setSconv 0 { grant := some { req := { what := .motor } } }, by decide +kernel, by decide +kernel, by decide +kernel, by decide +kernel, rfl, rfl, rfl, by decide +kernel⟩,
    ⟨0, 500, 2^30, { req := { what := .temp } }, _, _, _, cf.setSconv 0 { grant := some { req := { what := .temp } } }, by decide +kernel, by decide +kernel, by decide +kernel, by decide +kernel, rfl, rfl, rfl, by decide +kernel⟩,
    ⟨0, 500, 2^30, { req := { what := .ref } }, _, _, _, cf.setSconv 0 { grant := some { req := { what := .ref } } }, by decide +kernel, by decide +kernel, by decide +kernel, by decide +kernel, rfl, rfl, rfl, by decide +kernel⟩,
    ⟨0, 500, 2^30, { req := { what := .heater } }, _, _, _, cf.setSconv 0 { grant := some { req := { what := .heater } } }, by decide +kernel, by decide +kernel, by decide +kernel, by decide +kernel, rfl, rfl, rfl, by decide +kernel⟩,
    ⟨2^30, _, cf.setBank { cf.bank with reqs := [{ what := .heater, deadline := some 5 }, { what := .host, slot := some 7 }] }, rfl⟩,
    ⟨0, 2^40, { req := { what := .group }, start := 2 ^ 39 }, _, _, _, _, _, _, cf.setSconv 0 { grant := some { req := { what := .group }, start := 2 ^ 39 } }, by decide +kernel, rfl, by decide +kernel, by decide +kernel, rfl, rfl, rfl, rfl, rfl⟩,
    ⟨0, 2^40, { req := { what := .host, count := 3 } }, _, _, cf.setSconv 0 { grant := some { req := { what := .host, count := 3 } } }, by decide +kernel, by decide +kernel, by decide +kernel, rfl, rfl⟩,
    ⟨0, cf, by decide +kernel⟩,
    ⟨2^40, cf.sbPut B.SB_STATUS_REF_FAULT true, by decide +kernel⟩,
    ⟨0, _, cf, by decide +kernel, by decide +kernel, by decide +kernel, rfl⟩⟩

theorem meets_CalibrationAct :
    (∃ (p : Path) (w : Nat) (s0 : State) (s1 : State) (s : State), (s.serves p (O.SB_CONTROL) = true) ∧
      (w = putBit (s.get O.SB_CONTROL) B.SB_CONTROL_CAL_START true) ∧ (s.fits O.SB_CONTROL w = true) ∧
      (s.bit O.SB_CONTROL B.SB_CONTROL_CLR_STATS = false) ∧ (s.bit O.SB_CONTROL B.SB_CONTROL_CLR_RETIRED = false) ∧
      (s0 = s.set O.SB_CONTROL (s.merged O.SB_CONTROL w)) ∧ (s0.mode ≠ mdReset) ∧ (s0.mode ≠ mdBoot) ∧
      (sbBit s0 B.SB_STATUS_CAL_RUNNING = false) ∧
      (s1 = ((s0.set O.SB_CAL_DIE_TEMP (s0.get O.SB_DIE_TEMP)).set O.CK_CAL_DIE_TEMP (s0.get O.SB_DIE_TEMP)).sbPut B.SB_STATUS_CAL_RUNNING true)) ∧
    (∃ (p : Path) (w : Nat) (s0 : State) (s : State), (s.serves p (O.SB_CONTROL) = true) ∧
      (w = putBit (s.get O.SB_CONTROL) B.SB_CONTROL_CAL_START true) ∧ (s.fits O.SB_CONTROL w = true) ∧
      (s.bit O.SB_CONTROL B.SB_CONTROL_CLR_STATS = false) ∧ (s.bit O.SB_CONTROL B.SB_CONTROL_CLR_RETIRED = false) ∧
      (s0 = s.set O.SB_CONTROL (s.merged O.SB_CONTROL w)) ∧ (s0.mode ≠ mdReset) ∧ (s0.mode ≠ mdBoot) ∧
      (sbBit s0 B.SB_STATUS_CAL_RUNNING = true)) ∧
    (∃ (k : Nat) (sums : List Nat) (t : Nat) (ns : List Nat) (s1 : State) (s2 : State) (s : State), (sbBit (s.adv t) B.SB_STATUS_CAL_RUNNING = true) ∧
      ((s.adv t).bank.dlLeft.contains k = true) ∧ (calIdle (s.adv t) k = true) ∧
      (ns = sums.map (fun n => (divRound (n : Nat) 16).toNat)) ∧
      (s1 = ((s.adv t).setBank { (s.adv t).bank with dlLeft := setDel (s.adv t).bank.dlLeft k }).capSwap k) ∧
      (ns.length = 8) ∧ (rising ns = true) ∧ (0 < ns.getD 0 0) ∧ (ns.getD 7 0 ≤ 189) ∧
      (s2 = s1.setDline k { dline s1 k with target := (List.range 65).map (mapEntry ns), good := true })) ∧
    (∃ (k : Nat) (sums : List Nat) (t : Nat) (ns : List Nat) (s1 : State) (s : State), (sbBit (s.adv t) B.SB_STATUS_CAL_RUNNING = true) ∧
      ((s.adv t).bank.dlLeft.contains k = true) ∧ (calIdle (s.adv t) k = true) ∧
      (ns = sums.map (fun n => (divRound (n : Nat) 16).toNat)) ∧
      (s1 = ((s.adv t).setBank { (s.adv t).bank with dlLeft := setDel (s.adv t).bank.dlLeft k }).capSwap k) ∧
      (ns.length ≠ 8 ∨ rising ns = false ∨ 189 < ns.getD 7 0 ∨ ns.getD 0 0 = 0)) ∧
    (∃ (p : Path) (s : State), (s.serves p (O.SB_STORE_CMD) = true) ∧ (curfew s = false) ∧ (storeBusy s = false) ∧
      (s.bank.calOk = true)) ∧
    (∃ (p : Path) (s : State), (s.serves p (O.SB_STORE_CMD) = true) ∧ (s.mode ≠ mdPrint) ∧ (storeBusy s = false)) ∧
    (∃ (p : Path) (s : State), (s.serves p (O.SB_STORE_CMD) = true) ∧ (s.mode ≠ mdPrint) ∧ (storeBusy s = false) ∧
      (storeInForce s = none)) ∧
    (∃ (p : Path) (w : Nat) (s1 : State) (s : State), (s.serves p (O.SB_CONTROL) = true) ∧
      (w = putBit (s.get O.SB_CONTROL) B.SB_CONTROL_CLR_RETIRED true) ∧ (s.fits O.SB_CONTROL w = true) ∧
      (s.bit O.SB_CONTROL B.SB_CONTROL_CLR_STATS = false) ∧ (s.mode ≠ mdPrint) ∧
      (s1 = (s.set O.SB_CONTROL (s.merged O.SB_CONTROL w)).set O.SB_CONV_RETIRED 0)) ∧
    (∃ (p : Path) (w : Nat) (s1 : State) (s : State), (s.serves p (O.SB_CONTROL) = true) ∧
      (w = putBit (s.get O.SB_CONTROL) B.SB_CONTROL_CLR_STATS true) ∧ (s.fits O.SB_CONTROL w = true) ∧
      (s.bit O.SB_CONTROL B.SB_CONTROL_CLR_RETIRED = false) ∧ (s.bit O.SB_CONTROL B.SB_CONTROL_CAL_START = false) ∧
      (s1 = (s.set O.SB_CONTROL (s.merged O.SB_CONTROL w)).sbPut B.SB_STATUS_CUT_STORM false)) ∧
    (∃ (p : Path) (v : Nat) (s : State), (s.serves p (O.SB_HOST_CMD) = true) ∧ (v < 2 ^ 32) ∧
      (s.bit O.SB_HOST_STATUS 0 = false) ∧ (andW v 0xFF00C000 = 0) ∧ (fieldOf v B.SB_HOST_CMD_INPUT ≤ 0xA7) ∧
      (4 ≤ fieldOf v B.SB_HOST_CMD_ACQ)) :=
  ⟨⟨.host, putBit (cf.get O.SB_CONTROL) B.SB_CONTROL_CAL_START true, _, _, cf, by decide +kernel, by decide +kernel, by decide +kernel, by decide +kernel, by decide +kernel, rfl, by decide +kernel, by decide +kernel, by decide +kernel, rfl⟩,
    ⟨.host, _, _, cf.sbPut B.SB_STATUS_CAL_RUNNING true, by decide +kernel, rfl, by decide +kernel, by decide +kernel, by decide +kernel, rfl, by decide +kernel, by decide +kernel, by decide +kernel⟩,
    ⟨0, [160, 320, 480, 640, 800, 960, 1120, 1280], 0, _, _, _, (cf.sbPut B.SB_STATUS_CAL_RUNNING true).setBank { cf.bank with dlLeft := [0, 1] }, by decide +kernel, by decide +kernel, by decide +kernel, rfl, rfl, by decide +kernel, by decide +kernel, by decide +kernel, by decide +kernel, rfl⟩,
    ⟨0, [160, 320, 480, 640, 800, 960, 1120, 4000], 0, _, _, (cf.sbPut B.SB_STATUS_CAL_RUNNING true).setBank { cf.bank with dlLeft := [0, 1] }, by decide +kernel, by decide +kernel, by decide +kernel, rfl, rfl, by decide +kernel⟩,
    ⟨.host, (cf.set O.SU_STATUS 0).setBank { cf.bank with calOk := true }, by decide +kernel⟩,
    ⟨.host, cf, by decide +kernel⟩,
    ⟨.host, cf, by decide +kernel⟩,
    ⟨.host, putBit (cf.get O.SB_CONTROL) B.SB_CONTROL_CLR_RETIRED true, _, cf, by decide +kernel, by decide +kernel, by decide +kernel, by decide +kernel, by decide +kernel, rfl⟩,
    ⟨.host, putBit (cf.get O.SB_CONTROL) B.SB_CONTROL_CLR_STATS true, _, cf, by decide +kernel, by decide +kernel, by decide +kernel, by decide +kernel, by decide +kernel, rfl⟩,
    ⟨.host, putField 0 B.SB_HOST_CMD_ACQ 4, cf, by decide +kernel⟩⟩

theorem meets_MaintenanceAct :
    (∃ (p : Path) (k : Nat) (s1 : State) (s2 : State) (s : State), (s.serves p (O.MT_CMD k) = true) ∧
      (mtRefusal s k = none) ∧ (s1 = (s.mtClaim k).set (O.MT_RESULT k) 1) ∧
      (s2 = ((s1.set (O.MT_STARTED_AT k) s1.pt).set (O.MT_PROGRESS k) 0).set (O.MT_LOST k) 0) ∧ (mtStation s2 k = none)) ∧
    (∃ (p : Path) (k : Nat) (s1 : State) (s2 : State) (a : Nat) (s : State), (s.serves p (O.MT_CMD k) = true) ∧
      (mtRefusal s k = none) ∧ (s1 = (s.mtClaim k).set (O.MT_RESULT k) 1) ∧
      (s2 = ((s1.set (O.MT_STARTED_AT k) s1.pt).set (O.MT_PROGRESS k) 0).set (O.MT_LOST k) 0) ∧
      (mtStation s2 k = some a)) ∧
    (∃ (p : Path) (k : Nat) (r : Nat) (e : Nat) (s : State), (s.serves p (O.MT_CMD k) = true) ∧
      (mtRefusal s k = some (r, e))) ∧
    (∃ (p : Path) (k : Nat) (s : State), (s.serves p (O.MT_CMD k) = true) ∧ (1 ≤ mtState s k) ∧ (mtState s k ≤ 3)) ∧
    (∃ (p : Path) (k : Nat) (s : State), (s.serves p (O.MT_CMD k) = true) ∧ (mtState s k = 0 ∨ 4 ≤ mtState s k)) ∧
    (∃ (k : Nat) (n : Nat) (t : Nat) (x : TLine) (i : Nat) (s1 : State) (s2 : State) (s : State), (((s.advPort n t).sched n).maint = some x) ∧
      (i = tget 0 ((s.advPort n t).mt k).fired n) ∧ (mtState (s.advPort n t) k = 2) ∧
      (((s.advPort n t).mt k).part = 3) ∧ (mtKind (s.advPort n t) k = 1 ∨ mtKind (s.advPort n t) k = 5) ∧
      (((s.advPort n t).mt k).ports.contains n = true) ∧
      (ptLt ((s.advPort n t).pt + 12800) (firstEdge (s.advPort n t) n x) = false) ∧
      (fiQuiet (s.advPort n t) n 0 = true) ∧ (groupOn (s.advPort n t) (groupOf n) = true) ∧
      (((s.advPort n t).fire n).spit = none) ∧
      (s1 = ((s.advPort n t).maintRotate k n x (s.advPort n t).up (ptMax (firstEdge (s.advPort n t) n x) ((s.advPort n t).pt + 2 * fuUnit + 3840)) (decide (i = 0))).1) ∧
      (s2 = (s1.setMt k { s1.mt k with fired := tput ((s.advPort n t).mt k).fired n (i + 1) }).inc (O.MT_PROGRESS k))) ∧
    (∃ (k : Nat) (t : Nat) (s : State), (mtState (s.adv t) k = 2) ∧ (((s.adv t).mt k).moving = none) ∧
      (((s.adv t).mt k).until' ≤ (s.adv t).up) ∧ (mtKind (s.adv t) k = 3) ∧ (((s.adv t).mt k).part = 2)) ∧
    (∃ (k : Nat) (t : Nat) (s : State), (mtState (s.adv t) k = 2) ∧ (((s.adv t).mt k).moving = none) ∧
      (((s.adv t).mt k).until' ≤ (s.adv t).up) ∧ (mtKind (s.adv t) k = 4) ∧ (((s.adv t).mt k).part = 2)) ∧
    (∃ (k : Nat) (t : Nat) (a : Nat) (s : State), (mtState (s.adv t) k = 2) ∧ (((s.adv t).mt k).moving = none) ∧
      (((s.adv t).mt k).until' ≤ (s.adv t).up) ∧ (mtKind (s.adv t) k = 2) ∧ (((s.adv t).mt k).part = 2) ∧
      (mtAux (s.adv t) k = some a)) ∧
    (∃ (k : Nat) (t : Nat) (r : Nat) (s1 : State) (s : State), (mtState (s.adv t) k = 2) ∧
      (((s.adv t).mt k).moving = none) ∧ (((s.adv t).mt k).until' ≤ (s.adv t).up) ∧ (mtKind (s.adv t) k = 5) ∧
      (((s.adv t).mt k).part = 0) ∧ (((s.adv t).mt k).relay = some r) ∧ (s1 = (s.adv t).relayDrive (r % 4) (r / 4) 2 0)) ∧
    (∃ (k : Nat) (t : Nat) (s : State), (mtState (s.adv t) k = 2) ∧ (((s.adv t).mt k).moving = none) ∧
      (((s.adv t).mt k).until' ≤ (s.adv t).up) ∧ (mtKind (s.adv t) k = 5) ∧ (((s.adv t).mt k).part = 1)) ∧
    (∃ (p : Path) (v : Nat) (s : State), (s.serves p (O.MT_CAPPED_CLR) = true) ∧ (v < 96) ∧ (s.mode ≠ mdPrint) ∧
      (capped s v = true)) ∧
    (∃ (k : Nat) (n : Nat) (t : Nat) (last : Nat) (z : Nat) (sp : Nat) (s1 : State) (s : State), (mtLast (s.advPort n t) k n = some last) ∧
      (z = tget ((s.advPort n t).get (O.MT_FIRST k)) ((s.advPort n t).mt k).next n) ∧
      (sp = (s.advPort n t).get (O.HP_DEEP_SPACING n) * (fuUs / 10)) ∧ (mtState (s.advPort n t) k = 2) ∧
      (((s.advPort n t).mt k).part = 3) ∧ (mtKind (s.advPort n t) k = 7) ∧ (z ≤ last) ∧
      (((s.advPort n t).mt k).ports.contains n = true) ∧ (((s.advPort n t).mt k).deepAt.any (fun e => decide (e.1 = n ∧
      (s.advPort n t).up < e.2 + sp)) = false) ∧ (asking (s.advPort n t) (ofPort n) = false) ∧
      (s1 = (s.advPort n t).setMt k { (s.advPort n t).mt k with deepAt := tput ((s.advPort n t).mt k).deepAt n (s.advPort n t).up, deep := tdel ((s.advPort n t).mt k).deep n })) :=
  ⟨⟨.host, 0, _, _, mtOk, by decide +kernel, by decide +kernel, rfl, rfl, by decide +kernel⟩,
    ⟨.host, 0, _, _, 1, mtOk.set (O.MT_STATION 0) 1, by decide +kernel, by decide +kernel, rfl, rfl, by decide +kernel⟩,
    ⟨.host, 0, 3, abState, cf, by decide +kernel⟩,
    ⟨.host, 0, cf.set (O.MT_STATE 0) 2, by decide +kernel⟩,
    ⟨.host, 0, cf, by decide +kernel⟩,
    ⟨0, 0, 0, { time := 1000, frame := 2 }, _, _, _, ((((((armable.set (O.MT_STATE 0) 2).set (O.MT_KIND 0) 1).set (O.MT_COUNT 0) 3).set (O.MT_CODE 0) 1).set (O.MT_PERIOD 0) 10000000).setMt 0 { part := 3, ports := [0], bodyAt := 0 }).setSched 0 { maint := some { time := 1000, frame := 2 } }, by decide +kernel, rfl, by decide +kernel, by decide +kernel, by decide +kernel, by decide +kernel, by decide +kernel, by decide +kernel, by decide +kernel, by decide +kernel, rfl, rfl⟩,
    ⟨0, 9, armable.set (O.MT_STATE 0) 2 |>.set (O.MT_KIND 0) 3 |>.setMt 0 { part := 2, until' := 7, ports := [0] }, by decide +kernel⟩,
    ⟨0, 9, armable.set (O.MT_STATE 0) 2 |>.set (O.MT_KIND 0) 4 |>.setMt 0 { part := 2, until' := 7, ports := [0] }, by decide +kernel⟩,
    ⟨0, 9, 1, armable.set (O.MT_STATE 0) 2 |>.set (O.MT_KIND 0) 2 |>.setMt 0 { part := 2, until' := 7, ports := [0] } |>.set (O.MT_AUX_AXIS 0) 1, by decide +kernel⟩,
    ⟨0, 9, 1, _, armable.set (O.MT_STATE 0) 2 |>.set (O.MT_KIND 0) 5 |>.setMt 0 { until' := 7, ports := [0], relay := some 1 }, by decide +kernel, by decide +kernel, by decide +kernel, by decide +kernel, by decide +kernel, by decide +kernel, rfl⟩,
    ⟨0, 9, armable.set (O.MT_STATE 0) 2 |>.set (O.MT_KIND 0) 5 |>.setMt 0 { part := 1, until' := 7, ports := [0] }, by decide +kernel⟩,
    ⟨.host, 7, cf.set (O.MT_CAPPED 0) 128, by decide +kernel⟩,
    ⟨0, 0, 0, 7, _, _, _, armable.set (O.MT_STATE 0) 2 |>.set (O.MT_KIND 0) 7 |>.setMt 0 { part := 3, ports := [0] }, by decide +kernel, rfl, rfl, by decide +kernel, by decide +kernel, by decide +kernel, by decide +kernel, by decide +kernel, by decide +kernel, by decide +kernel, rfl⟩⟩

theorem meets_AxisCommandsAct :
    (∃ (p : Path) (a : Nat) (flt : Bool) (s1 : State) (s : State), (s.serves p (O.AX_CMD a) = true) ∧
      (s1 = s.setB (O.DS_STATUS a) B.DS_STATUS_FLT_IN flt) ∧ (mayEnable s1 a flt = true) ∧
      (axCfg s1 a B.AX_CONFIG_TRIG_EN = false ∨ 64 ≤ s1.get (O.AX_TRIG_MS a))) ∧
    (∃ (p : Path) (a : Nat) (flt : Bool) (s1 : State) (s : State), (s.serves p (O.AX_CMD a) = true) ∧
      (s1 = s.setB (O.DS_STATUS a) B.DS_STATUS_FLT_IN flt) ∧ (mayEnable s1 a flt = true) ∧
      (axCfg s1 a B.AX_CONFIG_TRIG_EN = true) ∧ (s1.get (O.AX_TRIG_MS a) < 64)) ∧
    (∃ (p : Path) (a : Nat) (s1 : State) (s : State), (s.serves p (O.AX_CMD a) = true) ∧
      (s1 = s.setB (O.DS_STATUS a) B.DS_STATUS_FLT_IN (s.bit (O.DS_STATUS a) B.DS_STATUS_FLT_IN))) ∧
    (∃ (p : Path) (a : Nat) (s1 : State) (s : State), (s.serves p (O.AX_CMD a) = true) ∧
      (s1 = s.setB (O.DS_STATUS a) B.DS_STATUS_FLT_IN (s.bit (O.DS_STATUS a) B.DS_STATUS_FLT_IN)) ∧
      (s1.get (O.AX_OWNER a) = ownerHost)) ∧
    (∃ (p : Path) (a : Nat) (s1 : State) (s : State), (s.serves p (O.AX_CMD a) = true) ∧
      (s1 = s.setB (O.DS_STATUS a) B.DS_STATUS_FLT_IN (s.bit (O.DS_STATUS a) B.DS_STATUS_FLT_IN)) ∧
      (s1.get (O.AX_OWNER a) = ownerHost)) ∧
    (∃ (p : Path) (a : Nat) (flt : Bool) (s1 : State) (s : State), (s.serves p (O.AX_CMD a) = true) ∧
      (s1 = s.setB (O.DS_STATUS a) B.DS_STATUS_FLT_IN flt) ∧ (axisState s1 a = 4 ∨ axisState s1 a = 5) ∧
      (haltPersists s1 a flt = false)) ∧
    (∃ (p : Path) (a : Nat) (flt : Bool) (s1 : State) (s : State), (s.serves p (O.AX_CMD a) = true) ∧
      (s1 = s.setB (O.DS_STATUS a) B.DS_STATUS_FLT_IN flt) ∧ (axisState s1 a ≠ 4) ∧ (axisState s1 a ≠ 5) ∧
      (s1.bit (O.DS_STATUS a) B.DS_STATUS_FAULT = false)) ∧
    (∃ (p : Path) (a : Nat) (flt : Bool) (s1 : State) (s : State), (s.serves p (O.AX_CMD a) = true) ∧
      (s1 = s.setB (O.DS_STATUS a) B.DS_STATUS_FLT_IN flt) ∧ (axisState s1 a ≠ 4) ∧ (axisState s1 a ≠ 5) ∧
      (s1.bit (O.DS_STATUS a) B.DS_STATUS_FAULT = true) ∧ (haltPersists s1 a flt = false)) ∧
    (∃ (p : Path) (a : Nat) (s1 : State) (s : State), (s.serves p (O.AX_CMD a) = true) ∧
      (s1 = s.setB (O.DS_STATUS a) B.DS_STATUS_FLT_IN (s.bit (O.DS_STATUS a) B.DS_STATUS_FLT_IN))) ∧
    (∃ (p : Path) (a : Nat) (s : State), (s.serves p (O.AX_MV_PUSH a) = true) ∧ (takesMoves s a = true) ∧
      (qLen s a < 16) ∧ (s.get (O.AX_OWNER a) = ownerHost) ∧ (moveRefusal s a (stagedMove s a) = none)) ∧
    (∃ (p : Path) (a : Nat) (s : State), (s.serves p (O.AX_MV_PUSH a) = true) ∧ (takesMoves s a = true) ∧
      (16 ≤ qLen s a)) ∧
    (∃ (p : Path) (a : Nat) (s : State), (s.serves p (O.AX_MV_PUSH a) = true) ∧ (takesMoves s a = true) ∧
      (qLen s a < 16) ∧ (s.get (O.AX_OWNER a) ≠ ownerHost)) ∧
    (∃ (p : Path) (a : Nat) (c : Nat) (still : Bool) (s : State), (s.serves p (O.AX_MV_PUSH a) = true) ∧
      (takesMoves s a = true) ∧ (qLen s a < 16) ∧ (s.get (O.AX_OWNER a) = ownerHost) ∧
      (moveRefusal s a (stagedMove s a) = some (c, still))) ∧
    (∃ (p : Path) (a : Nat) (v : Nat) (x : Axis) (pos : Int) (s : State), (s.serves p (O.AX_POS a) = true) ∧
      (axisState s a = 0 ∨ axisState s a = 1 ∨ axisState s a = 4) ∧ (a < 16) ∧ (x = s.ax a) ∧ (pos = toSigned 64 v)) ∧
    (∃ (p : Path) (a : Nat) (v : Nat) (x : Axis) (pos : Int) (s : State), (s.serves p (O.AX_POS a) = true) ∧
      (axisState s a = 0 ∨ axisState s a = 1 ∨ axisState s a = 4) ∧ (16 ≤ a) ∧ (x = s.ax a) ∧ (pos = toSigned 64 v)) :=
  ⟨⟨.host, 0, false, _, axOk, by decide +kernel, rfl, by decide +kernel, by decide +kernel⟩,
    ⟨.host, 0, false, _, (axOk.setB (O.AX_CONFIG 0) B.AX_CONFIG_TRIG_EN true).set (O.AX_TRIG_MS 0) 0, by decide +kernel, rfl, by decide +kernel, by decide +kernel, by decide +kernel⟩,
    ⟨.host, 0, _, axOk, by decide +kernel, rfl⟩,
    ⟨.host, 0, _, axIdle0, by decide +kernel, rfl, by decide +kernel⟩,
    ⟨.host, 0, _, axIdle0, by decide +kernel, rfl, by decide +kernel⟩,
    ⟨.host, 0, false, _, axIdle0.axState 0 4, by decide +kernel, rfl, by decide +kernel, by decide +kernel⟩,
    ⟨.host, 0, false, _, axIdle0, by decide +kernel, rfl, by decide +kernel, by decide +kernel, by decide +kernel⟩,
    ⟨.host, 0, false, _, axOk.setB (O.DS_STATUS 0) B.DS_STATUS_FAULT true, by decide +kernel, rfl, by decide +kernel, by decide +kernel, by decide +kernel, by decide +kernel⟩,
    ⟨.host, 0, _, axOk, by decide +kernel, rfl⟩,
    ⟨.host, 0, axPush, by decide +kernel⟩,
    ⟨.host, 0, axPush.setAx 0 { queue := List.replicate 16 {} }, by decide +kernel⟩,
    ⟨.host, 0, axPush.set (O.AX_OWNER 0) 2, by decide +kernel⟩,
    ⟨.host, 0, abRange, false, axPush.set (O.AX_MV_KIND 0) 0, by decide +kernel⟩,
    ⟨.host, 0, 500, axOk.ax 0, 500, axOk, by decide +kernel⟩,
    ⟨.host, 17, 500, axOk.ax 17, 500, axOk, by decide +kernel⟩⟩

theorem meets_MotionStepsAct :
    (∃ (t : Nat) (s1 : State) (s2 : State) (s : State), (tooEarly (s.adv t) (s.adv t).clk.profAt (10 * fuUs) = false) ∧
      (s1 = ((s.adv t).forAll steppers (fun s a => s.microSync a)).forAll axes (fun s a => s.setAx a { s.ax a with step := 0 })) ∧
      (s2 = s1.setClk { s1.clk with profAt := some s1.up })) ∧
    (∃ (t : Nat) (s : State), (tooEarly (s.adv t) (s.adv t).clk.loopAt (50 * fuUs) = false)) ∧
    (∃ (a : Nat) (t : Nat) (x : Nat) (s : State), (((s.adv t).ax a).followAt = some x) ∧ (x + fuMs ≤ (s.adv t).up)) ∧
    (∃ (p : Path) (g : Nat) (ms : List Nat) (s : State), (s.serves p (O.AX_IG_CMD g) = true) ∧ (ms = members s g) ∧
      (2 ≤ ms.length) ∧ (ms.length ≤ 4) ∧
      (∀ a, a ∈ ms → (a < 16 ∨ axCfg s a B.AX_CONFIG_POS_LOOP = true) ∧ s.get (O.AX_OWNER a) = ownerHost ∧ axisState s a = 1 ∧
      (s.fld (O.AX_CONFIG a) B.AX_CONFIG_ROLE = 0 ∨ ∀ n, n < 96 → armed s n = true → predOf s n ≠ s.fld (O.AX_CONFIG a) B.AX_CONFIG_PRED))) ∧
    (∃ (p : Path) (g : Nat) (s : State), (s.serves p (O.AX_IG_CMD g) = true) ∧ (igFlag s g 0 = true) ∧
      ((s.ig g).plan = none) ∧ ((s.ig g).queue = [])) ∧
    (∃ (p : Path) (g : Nat) (s : State), (s.serves p (O.AX_IG_CMD g) = true) ∧ (igFlag s g 0 = false)) ∧
    (∃ (p : Path) (g : Nat) (s : State), (s.serves p (O.AX_IG_CMD g) = true) ∧ (igFlag s g 0 = true) ∧
      (igFlag s g 2 = false)) ∧
    (∃ (p : Path) (g : Nat) (s : State), (s.serves p (O.AX_IG_CMD g) = true) ∧
      (igFlag s g 0 = false ∨ igFlag s g 2 = true)) ∧
    (∃ (p : Path) (g : Nat) (s : State), (s.serves p (O.AX_IG_CMD g) = true) ∧ (igFlag s g 0 = true)) ∧
    (∃ (p : Path) (g : Nat) (s : State), (s.serves p (O.AX_IG_CMD g) = true) ∧ (igFlag s g 0 = false)) ∧
    (∃ (p : Path) (g : Nat) (m : GMove) (s : State), (s.serves p (O.AX_IG_PUSH g) = true) ∧
      (m = ⟨(List.range (members s g).length).map (fun i => s.getI (O.AX_IG_TARGET g i)), s.get (O.AX_IG_VEL g), s.get (O.AX_IG_ACC g), s.get (O.AX_IG_DEC g), s.get (O.AX_IG_JERK g)⟩) ∧
      (igFlag s g 0 = true) ∧ (∀ a, a ∈ members s g → takesMoves s a = true ∧
      (notStill s a = false ∨ (s.ig g).plan ≠ none)) ∧ ((s.ig g).queue.length < 16) ∧ (m.vel ≠ 0) ∧ (m.acc ≠ 0) ∧
      (m.dec ≠ 0) ∧
      (∀ e, e ∈ (members s g).zip m.targets → limited s e.1 = false ∨ (limitLo s e.1 ≤ e.2 ∧ e.2 ≤ limitHi s e.1))) :=
  ⟨⟨0, _, _, axIdle0, by decide +kernel, rfl, rfl⟩,
    ⟨0, axIdle0, by decide +kernel⟩,
    ⟨0, 2^30, 5, axIdle0.setAx 0 { followAt := some 5 }, by decide +kernel⟩,
    ⟨.host, 0, [0, 1], igOk, by decide +kernel⟩,
    ⟨.host, 0, igOn, by decide +kernel⟩,
    ⟨.host, 0, cf, by decide +kernel⟩,
    ⟨.host, 0, igOn, by decide +kernel⟩,
    ⟨.host, 0, cf, by decide +kernel⟩,
    ⟨.host, 0, igOn, by decide +kernel⟩,
    ⟨.host, 0, cf, by decide +kernel⟩,
    ⟨.host, 0, ⟨[0, 0], 100, 100, 100, 0⟩, ((igOn.set (O.AX_IG_VEL 0) 100).set (O.AX_IG_ACC 0) 100).set (O.AX_IG_DEC 0) 100, by decide +kernel⟩⟩

theorem meets_ChopperActs :
    (∃ (a : Nat) (ph : Nat) (uv : Nat) (t : Nat) (x : Phase) (s : State), (a < 16) ∧
      (x = (((s.adv t).microSync a).ds a).phase ph) ∧ (x.st = .on) ∧
      (x.at' + ((s.adv t).microSync a).get (O.DS_BLANK a) * fuMot ≤ ((s.adv t).microSync a).up) ∧
      (trips x.code uv = true) ∧ (outputsOff ((s.adv t).microSync a) a = false)) ∧
    (∃ (a : Nat) (ph : Nat) (uv : Nat) (t : Nat) (k : Nat) (s : State), (16 ≤ a) ∧
      (sectorOf ((s.adv t).microSync a) a = some k) ∧ (onTime ((s.adv t).microSync a) a = true) ∧
      ((sectorPhases k).2 = ph) ∧
      ((((s.adv t).microSync a).ds a).onAt.getD 0 + ((s.adv t).microSync a).get (O.DS_BLANK a) * fuMot ≤ ((s.adv t).microSync a).up) ∧
      (trips (((s.adv t).microSync a).ds a).code uv = true)) ∧
    (∃ (a : Nat) (ph : Nat) (t : Nat) (s : State), (((((s.adv t).microSync a).ds a).phase ph).st = .off) ∧
      (((((s.adv t).microSync a).ds a).phase ph).at' + ((s.adv t).microSync a).get (O.DS_TOFF a) * fuMot ≤ ((s.adv t).microSync a).up) ∧
      (outputsOff ((s.adv t).microSync a) a = false)) ∧
    (∃ (a : Nat) (t : Nat) (s : State), (16 ≤ a) ∧ (outputsOff (s.adv t) a = false) ∧
      (tooEarly (s.adv t) ((s.adv t).ds a).onAt ((s.adv t).get (O.DS_PWM_PERIOD a) * fuMot) = false)) ∧
    (∃ (a : Nat) (t : Nat) (s1 : State) (s : State), (a < 16) ∧ (outputsOff ((s.adv t).microSync a) a = false) ∧
      (((s.adv t).microSync a).bit (O.DS_STATUS a) B.DS_STATUS_HOLD = false) ∧
      ((((s.adv t).microSync a).ds a).restAt + ((s.adv t).microSync a).get (O.DS_HOLD_DELAY a) * fuMs ≤ ((s.adv t).microSync a).up) ∧
      (s1 = (((s.adv t).microSync a).setB (O.DS_STATUS a) B.DS_STATUS_HOLD true).setDs a { ((s.adv t).microSync a).ds a with hold := 0 })) :=
  ⟨⟨0, 1, 1000000, 2^30, _, ((axIdle0.set (O.DS_I_RUN 0) 2000).setB (O.DS_STATUS 0) B.DS_STATUS_OUTPUTS_OFF false).setDs 0 (((((axIdle0.set (O.DS_I_RUN 0) 2000).setB (O.DS_STATUS 0) B.DS_STATUS_OUTPUTS_OFF false).ds 0)).setPhase 1 { st := .on, at' := 5 }), by decide +kernel, rfl, by decide +kernel, by decide +kernel, by decide +kernel, by decide +kernel⟩,
    ⟨17, 1, 1000000, 2^16, 0, (hallOk.setDs 17 { on := true }).set (O.DS_PWM_PERIOD 17) 60000, by decide +kernel⟩,
    ⟨0, 1, 2^30, ((axIdle0.set (O.DS_I_RUN 0) 2000).setB (O.DS_STATUS 0) B.DS_STATUS_OUTPUTS_OFF false).setDs 0 (((((axIdle0.set (O.DS_I_RUN 0) 2000).setB (O.DS_STATUS 0) B.DS_STATUS_OUTPUTS_OFF false).ds 0)).setPhase 1 { st := .off, at' := 5 }), by decide +kernel⟩,
    ⟨17, 0, (axIdle0.axState 17 1).setB (O.DS_STATUS 17) B.DS_STATUS_OUTPUTS_OFF false, by decide +kernel⟩,
    ⟨0, 2^40, _, (axIdle0.set (O.DS_I_RUN 0) 2000).setB (O.DS_STATUS 0) B.DS_STATUS_OUTPUTS_OFF false, by decide +kernel, by decide +kernel, by decide +kernel, by decide +kernel, rfl⟩⟩

theorem meets_StageFaultsAct :
    (∃ (a : Nat) (e : Nat) (t : Nat) (s1 : State) (s : State), (s1 = (s.adv t).setB (O.DS_STATUS a) B.DS_STATUS_FLT_IN true) ∧
      (s1.bit (O.DS_CONFIG a) B.DS_CONFIG_FLT_EN = true) ∧ (fltHeld s1 e = true)) ∧
    (∃ (a : Nat) (e : Nat) (t : Nat) (s1 : State) (s : State), (s1 = (s.adv t).setB (O.DS_STATUS a) B.DS_STATUS_FLT_IN false) ∧
      (s1.bit (O.DS_CONFIG a) B.DS_CONFIG_FLT_EN = true) ∧ (fltHeld s1 e = false)) ∧
    (∃ (a : Nat) (ph : Nat) (uv : Nat) (t : Nat) (l : List Nat) (s1 : State) (s2 : State) (s3 : State) (s : State), (ocArmed ((s.adv t).microSync a) a ph = true) ∧
      (trips (ampCode ((s.adv t).microSync a) a (((s.adv t).microSync a).get (O.DS_OC_LIMIT a)) 1) uv = true) ∧
      (l = ((s.adv t).microSync a).span fuMs (((s.adv t).microSync a).ds a).trips) ∧
      (s1 = ((s.adv t).microSync a).setDs a { ((s.adv t).microSync a).ds a with trips := l }) ∧
      (s2 = if a < 16 then (if ((((s.adv t).microSync a).ds a).phase ph).st = .on then s1.phaseOff a ph else s1) else (s1.setDs a { s1.ds a with on := false, cut := true }).bdSync a) ∧
      (s3 = (s2.inc (O.DS_OC_TRIPS a)).hit (O.DS_EVENTS a) B.DS_EVENTS_OC_TRIP (520 + a)) ∧
      (l.length ≤ s3.get (O.DS_OC_COUNT a))) ∧
    (∃ (a : Nat) (ph : Nat) (uv : Nat) (t : Nat) (l : List Nat) (s1 : State) (s2 : State) (s3 : State) (s : State), (ocArmed ((s.adv t).microSync a) a ph = true) ∧
      (trips (ampCode ((s.adv t).microSync a) a (((s.adv t).microSync a).get (O.DS_OC_LIMIT a)) 1) uv = true) ∧
      (l = ((s.adv t).microSync a).span fuMs (((s.adv t).microSync a).ds a).trips) ∧
      (s1 = ((s.adv t).microSync a).setDs a { ((s.adv t).microSync a).ds a with trips := l }) ∧
      (s2 = if a < 16 then (if ((((s.adv t).microSync a).ds a).phase ph).st = .on then s1.phaseOff a ph else s1) else (s1.setDs a { s1.ds a with on := false, cut := true }).bdSync a) ∧
      (s3 = (s2.inc (O.DS_OC_TRIPS a)).hit (O.DS_EVENTS a) B.DS_EVENTS_OC_TRIP (520 + a)) ∧
      (s3.get (O.DS_OC_COUNT a) < l.length)) ∧
    (∃ (a : Nat) (ph : Nat) (t : Nat) (s : State), (a < 16) ∧ (outputsOff ((s.adv t).microSync a) a = false) ∧
      ((((s.adv t).microSync a).ds a).restAt + 10 * fuMs ≤ ((s.adv t).microSync a).up) ∧
      (410 ≤ ((((s.adv t).microSync a).ds a).phase ph).code) ∧
      (((((s.adv t).microSync a).ds a).phase ph).trip + fuMs ≤ ((s.adv t).microSync a).up)) ∧
    (∃ (a : Nat) (t : Nat) (x : Nat) (s : State), (stepping (s.adv t) a = true) ∧ (((s.adv t).ds a).lagAt = some x) ∧
      (x + fuMs ≤ (s.adv t).up)) ∧
    (∃ (a : Nat) (t : Nat) (s1 : State) (s2 : State) (s : State), ((s.adv t).get (O.DS_MON_PERIOD a) ≠ 0) ∧
      (axisState (s.adv t) a ≠ 0) ∧
      (tooEarly (s.adv t) ((s.adv t).ds a).monAt ((s.adv t).get (O.DS_MON_PERIOD a) * fuUs) = false) ∧
      (s1 = (s.adv t).setDs a { (s.adv t).ds a with monAt := some (s.adv t).up }) ∧
      (s2 = (s1.addC (O.DS_MON_MISSED a) (s1.bank.reqs.filter (fun (r : Req) => decide (r.what = .motor ∧ r.inst = a))).length).senseWithdraw (fun (r : Req) => decide (r.what = .motor ∧ r.inst = a)))) :=
  ⟨⟨0, 0, 2^30, _, axIdle0.setB (O.DS_CONFIG 0) B.DS_CONFIG_FLT_EN true, rfl, by decide +kernel, by decide +kernel⟩,
    ⟨0, 0, 0, _, axIdle0.setB (O.DS_CONFIG 0) B.DS_CONFIG_FLT_EN true, rfl, by decide +kernel, by decide +kernel⟩,
    ⟨0, 1, 1000000000, 2^30, _, _, _, _, (((axIdle0.set (O.DS_I_RUN 0) 2000).setB (O.DS_STATUS 0) B.DS_STATUS_OUTPUTS_OFF false).set (O.DS_OC_COUNT 0) 3).setDs 0 (((((axIdle0.set (O.DS_I_RUN 0) 2000).setB (O.DS_STATUS 0) B.DS_STATUS_OUTPUTS_OFF false).ds 0)).setPhase 1 { st := .on, at' := 5 }), by decide +kernel, by decide +kernel, rfl, rfl, rfl, rfl, by decide +kernel⟩,
    ⟨17, 0, 1000000000, 2^16, _, _, _, _, ((((axIdle0.axState 17 1).setB (O.DS_STATUS 17) B.DS_STATUS_OUTPUTS_OFF false).set (O.DS_OC_COUNT 17) 3).set (O.DS_PWM_PERIOD 17) 60000).setDs 17 { on := true, trips := [2^16, 2^16, 2^16, 2^16] }, by decide +kernel, by decide +kernel, rfl, rfl, rfl, rfl, by decide +kernel⟩,
    ⟨0, 1, 2^40, ((axIdle0.set (O.DS_I_RUN 0) 2000).setB (O.DS_STATUS 0) B.DS_STATUS_OUTPUTS_OFF false).setDs 0 (((((axIdle0.set (O.DS_I_RUN 0) 2000).setB (O.DS_STATUS 0) B.DS_STATUS_OUTPUTS_OFF false).ds 0)).setPhase 1 { st := .on, code := 500 }), by decide +kernel⟩,
    ⟨0, 2^40, 4, (axIdle0.setB (O.DS_STATUS 0) B.DS_STATUS_STEP_FOLLOW true).setDs 0 { lagAt := some 4 }, by decide +kernel⟩,
    ⟨0, 0, _, _, axIdle0.set (O.DS_MON_PERIOD 0) 100, by decide +kernel, by decide +kernel, by decide +kernel, rfl, rfl⟩⟩

theorem meets_NmtCommandsAct :
    (∃ (t : Nat) (c : Nat) (s : State), (activeLine (s.adv t) = some c) ∧ (canJoined (s.adv t) c = true)) ∧
    (∃ (t : Nat) (c : Nat) (s : State), (activeLine (s.adv t) = some c) ∧ (canJoined (s.adv t) c = true)) ∧
    (∃ (t : Nat) (c : Nat) (s : State), (activeLine (s.adv t) = some c) ∧ (canJoined (s.adv t) c = true)) ∧
    (∃ (t : Nat) (c : Nat) (s : State), (activeLine (s.adv t) = some c) ∧ (canJoined (s.adv t) c = true)) ∧
    (∃ (t : Nat) (c : Nat) (s : State), (activeLine (s.adv t) = some c) ∧ (canJoined (s.adv t) c = true)) ∧
    (∃ (t : Nat) (c : Nat) (s : State), (activeLine (s.adv t) = some c) ∧ (canJoined (s.adv t) c = true)) ∧
    (∃ (t : Nat) (c : Nat) (s : State), (activeLine (s.adv t) = some c) ∧ (canJoined (s.adv t) c = true)) ∧
    (∃ (t : Nat) (s : State), ((activeLine (s.adv t)).any (fun c => canJoined (s.adv t) c) = false)) :=
  ⟨⟨0, 0, can0, by decide +kernel⟩,
    ⟨0, 0, can0, by decide +kernel⟩,
    ⟨0, 0, can0, by decide +kernel⟩,
    ⟨0, 0, can0, by decide +kernel⟩,
    ⟨0, 0, can0, by decide +kernel⟩,
    ⟨0, 0, can0, by decide +kernel⟩,
    ⟨0, 0, can0, by decide +kernel⟩,
    ⟨0, cf.set (O.MD_CAN_CONFIG 0) 0, by decide +kernel⟩⟩

theorem meets_NetworkWatchesAct :
    (∃ (t : Nat) (s : State), (nodeRuns (s.adv t) = true) ∧ (activeLine (s.adv t) ≠ none) ∧
      ((s.adv t).get (cobj 0x17 0) ≠ 0) ∧ ((s.adv t).net.hbSent + (s.adv t).get (cobj 0x17 0) * fuMs ≤ (s.adv t).up)) ∧
    (∃ (_node : Nat) (t : Nat) (c : Nat) (s1 : State) (s : State), (activeLine (s.adv t) = some c) ∧
      (canJoined (s.adv t) c = true) ∧ (s1 = (s.adv t).inc (O.MD_CAN_RX_FRAMES c))) ∧
    (∃ (k : Nat) (t : Nat) (s : State), (k < 4) ∧ (nodeRuns (s.adv t) = true) ∧
      ((s.adv t).net.hbRx.any (fun p => p.1 = k)) ∧ ((s.adv t).net.hbLost.contains k = false) ∧
      ((s.adv t).get (cobj 0x16 (k + 1)) % 65536 ≠ 0) ∧
      (tget 0 (s.adv t).net.hbRx k + (s.adv t).get (cobj 0x16 (k + 1)) % 65536 * fuMs ≤ (s.adv t).up)) ∧
    (∃ (t : Nat) (s : State), (nodeTalks (s.adv t) = true) ∧ ((s.adv t).get (cobj 6 0) ≠ 0) ∧
      ((s.adv t).net.syncLost = false) ∧
      (2 * (s.adv t).net.syncAt + 3 * (s.adv t).get (cobj 6 0) * fuUs ≤ 2 * (s.adv t).up)) ∧
    (∃ (p : Nat) (t : Nat) (s : State), (p < 16) ∧ (nodeRuns (s.adv t) = true) ∧ (nmt (s.adv t) = nmtOp) ∧
      (pdoValid (s.adv t) 0x400 p = true) ∧ (254 ≤ (s.adv t).get (cobj (0x400 + p) 2)) ∧
      ((s.adv t).get (cobj (0x400 + p) 5) ≠ 0) ∧ ((s.adv t).net.rpdoAt.any (fun q => q.1 = p)) ∧
      (tget 0 (s.adv t).net.rpdoAt p + (s.adv t).get (cobj (0x400 + p) 5) * fuMs ≤ (s.adv t).up)) ∧
    (∃ (k : Nat) (t : Nat) (x : Sess) (s : State), ((s.adv t).net.sess.any (fun p => p.1 = k)) ∧
      (nodeRuns (s.adv t) = true) ∧ (x = tget {} (s.adv t).net.sess k) ∧
      (x.lastAt + (s.adv t).get O.MD_USDO_TIMEOUT * fuMs ≤ (s.adv t).up)) :=
  ⟨⟨2^40, can0.set (cobj 0x17 0) 100, by decide +kernel⟩,
    ⟨5, 0, 0, _, can0.set (cobj 0x16 1) (5 * 65536 + 100), by decide +kernel, by decide +kernel, rfl⟩,
    ⟨0, 2^40, (can0.set (cobj 0x16 1) (5 * 65536 + 100)).setNet { can0.net with hbRx := [(0, 5)] }, by decide +kernel⟩,
    ⟨2^40, can0.set (cobj 6 0) 100, by decide +kernel⟩,
    ⟨0, 2^40, (((can0op.set (cobj 0x400 1) 0x200).set (cobj 0x400 2) 255).set (cobj 0x400 5) 10).setNet { can0.net with rpdoAt := [(0, 5)] }, by decide +kernel⟩,
    ⟨0, 2^40, { client := 3 }, can0.setNet { can0.net with sess := [(0, { client := 3 })] }, by decide +kernel⟩⟩

theorem meets_CanAndEmcyAct :
    (∃ (c : Nat) (_tec : Nat) (_rec' : Nat) (t : Nat) (s : State), (c < 2) ∧ (canOn (s.adv t) c = true)) ∧
    (∃ (c : Nat) (t : Nat) (s : State), (c < 2) ∧ (nodeRuns (s.adv t) = true) ∧
      (canCfg (s.adv t) c B.MD_CAN_CONFIG_ENABLE = true) ∧ (canOff (s.adv t) c = true) ∧
      (canCfg (s.adv t) c B.MD_CAN_CONFIG_AUTO_RECOVER = true) ∧
      ((s.adv t).bit (O.MD_CAN_STATUS c) B.MD_CAN_STATUS_LOCKED_OFF = false) ∧
      (tget 0 (s.adv t).net.offUp c + 1408 * nomBit (s.adv t) c ≤ (s.adv t).up)) ∧
    (∃ (c : Nat) (t : Nat) (s : State), (c < 2) ∧ (canOn (s.adv t) c = true)) ∧
    (∃ (p : Path) (v : Nat) (new : Nat) (mv : Bool) (s1 : State) (s : State), (s.serves p (O.MD_CAN_CONFIG 0) = true) ∧
      (s.fits (O.MD_CAN_CONFIG 0) v = true) ∧ (new = s.merged (O.MD_CAN_CONFIG 0) v) ∧
      (bitOf new B.MD_CAN_CONFIG_ENABLE = true) ∧ (canOff s 0 = false) ∧
      (mv = (canCfg s 0 B.MD_CAN_CONFIG_ENABLE && decide ((fieldOf (s.get (O.MD_CAN_CONFIG 0)) B.MD_CAN_CONFIG_NOM_RATE, fieldOf (s.get (O.MD_CAN_CONFIG 0)) B.MD_CAN_CONFIG_DATA_RATE) ≠ (fieldOf new B.MD_CAN_CONFIG_NOM_RATE, fieldOf new B.MD_CAN_CONFIG_DATA_RATE)))) ∧
      (s1 = s.set (O.MD_CAN_CONFIG 0) new) ∧ (canOff s1 0 = false)) ∧
    (∃ (p : Path) (v : Nat) (s : State), (s.serves p (O.MD_CAN_CONFIG 1) = true) ∧
      (s.fits (O.MD_CAN_CONFIG 1) v = true) ∧ (bitOf (s.merged (O.MD_CAN_CONFIG 1) v) B.MD_CAN_CONFIG_ENABLE = true) ∧
      (canCfg s 1 B.MD_CAN_CONFIG_ENABLE = false) ∧ (canOff s 1 = false) ∧
      (s.fld O.MD_PIN_OWNER B.MD_PIN_OWNER_MX0 ≠ 2) ∧ (s.fld O.MD_PIN_OWNER B.MD_PIN_OWNER_MX1 ≠ 2)) ∧
    (∃ (p : Path) (v : Nat) (s : State), (s.serves p (O.MD_CAN_CONFIG 1) = true) ∧
      (s.fits (O.MD_CAN_CONFIG 1) v = true) ∧ (bitOf (s.merged (O.MD_CAN_CONFIG 1) v) B.MD_CAN_CONFIG_ENABLE = true) ∧
      (canCfg s 1 B.MD_CAN_CONFIG_ENABLE = false) ∧
      (s.fld O.MD_PIN_OWNER B.MD_PIN_OWNER_MX0 = 2 ∨ s.fld O.MD_PIN_OWNER B.MD_PIN_OWNER_MX1 = 2)) ∧
    (∃ (p : Path) (k : Nat) (_v : Nat) (s : State), (k < 4) ∧ (s.serves p (O.EV_IRQ_VEC k) = true)) ∧
    (∃ (p : Path) (k : Nat) (v : Nat) (f : Fld) (cl : Bool) (s1 : State) (s : State), (4 ≤ k) ∧ (k < 8) ∧
      (s.serves p (O.EV_IRQ_VEC k) = true) ∧ (f = (if k / 2 = 2 then B.MD_PIN_OWNER_MX0 else B.MD_PIN_OWNER_MX1)) ∧
      (cl = decide (trunc 32 v ≠ 0 ∨ s.get (O.EV_IRQ_VEC (if k % 2 = 0 then k + 1 else k - 1)) ≠ 0)) ∧
      (cl = false ∨ s.fld O.MD_PIN_OWNER f ≠ 1) ∧ (s1 = s.set (O.EV_IRQ_VEC k) v)) ∧
    (∃ (p : Path) (k : Nat) (v : Nat) (f : Fld) (cl : Bool) (s : State), (4 ≤ k) ∧ (k < 8) ∧
      (s.serves p (O.EV_IRQ_VEC k) = true) ∧ (f = (if k / 2 = 2 then B.MD_PIN_OWNER_MX0 else B.MD_PIN_OWNER_MX1)) ∧
      (cl = decide (trunc 32 v ≠ 0 ∨ s.get (O.EV_IRQ_VEC (if k % 2 = 0 then k + 1 else k - 1)) ≠ 0)) ∧ (cl = true) ∧
      (s.fld O.MD_PIN_OWNER f = 1)) ∧
    (∃ (t : Nat) (x : Emcy) (rest : List Emcy) (s : State), ((s.adv t).net.emcy = x :: rest) ∧
      ((s.adv t).net.emcyAt.all (fun a => decide (a + (s.adv t).get (cobj 0x15 0) * 100 * fuUs ≤ (s.adv t).up))) ∧
      (nodeTalks (s.adv t) = true) ∧ (activeLine (s.adv t) ≠ none) ∧ (bitOf ((s.adv t).get (cobj 0x14 0)) 31 = false)) ∧
    (∃ (p : Path) (s1 : State) (s : State), (s.serves p (cobj 3 0) = true) ∧
      (s1 = (s.forAll (List.range 17) (fun x k => x.set (cobj 3 k) 0)).set (cobj 1 0) 0)) :=
  ⟨⟨0, 255, 0, 0, can0, by decide +kernel⟩,
    ⟨0, 2^40, can0.setF (O.MD_CAN_STATUS 0) B.MD_CAN_STATUS_ERROR_STATE 2, by decide +kernel⟩,
    ⟨0, 0, can0, by decide +kernel⟩,
    ⟨.host, 1, _, _, _, cf, by decide +kernel, by decide +kernel, rfl, by decide +kernel, by decide +kernel, rfl, rfl, by decide +kernel⟩,
    ⟨.host, 1, cf, by decide +kernel⟩,
    ⟨.host, 1, cf.setF O.MD_PIN_OWNER B.MD_PIN_OWNER_MX0 2, by decide +kernel⟩,
    ⟨.host, 0, 9, cf, by decide +kernel⟩,
    ⟨.host, 4, 9, B.MD_PIN_OWNER_MX0, _, _, cf, by decide +kernel, by decide +kernel, by decide +kernel, by decide +kernel, rfl, by decide +kernel, rfl⟩,
    ⟨.host, 4, 9, B.MD_PIN_OWNER_MX0, _, cf.setF O.MD_PIN_OWNER B.MD_PIN_OWNER_MX0 1, by decide +kernel, by decide +kernel, by decide +kernel, by decide +kernel, rfl, by decide +kernel, by decide +kernel⟩,
    ⟨0, (⟨1, 2, 3, 4⟩ : Emcy), [], can0.setNet { can0.net with emcy := [(⟨1, 2, 3, 4⟩ : Emcy)] }, by decide +kernel⟩,
    ⟨.host, _, can0, by decide +kernel, rfl⟩⟩

theorem meets_PdosAct :
    (∃ (p : Nat) (bytes : List Byte) (t : Nat) (c : Nat) (s0 : State) (s : State), (activeLine (s.adv t) = some c) ∧
      (canJoined (s.adv t) c = true) ∧ (s0 = (s.adv t).inc (O.MD_CAN_RX_FRAMES c)) ∧ (p < 16) ∧
      (nodeOperates s0 = true) ∧ (pdoValid s0 0x400 p = true) ∧ (mapBytes (pdoMap s0 0x600 p) ≤ bytes.length) ∧
      (240 < s0.get (cobj (0x400 + p) 2))) ∧
    (∃ (p : Nat) (bytes : List Byte) (t : Nat) (c : Nat) (s0 : State) (s : State), (activeLine (s.adv t) = some c) ∧
      (canJoined (s.adv t) c = true) ∧ (s0 = (s.adv t).inc (O.MD_CAN_RX_FRAMES c)) ∧ (p < 16) ∧
      (nodeOperates s0 = true) ∧ (pdoValid s0 0x400 p = true) ∧ (mapBytes (pdoMap s0 0x600 p) ≤ bytes.length) ∧
      (s0.get (cobj (0x400 + p) 2) ≤ 240)) ∧
    (∃ (p : Nat) (bytes : List Byte) (t : Nat) (c : Nat) (s0 : State) (s : State), (activeLine (s.adv t) = some c) ∧
      (canJoined (s.adv t) c = true) ∧ (s0 = (s.adv t).inc (O.MD_CAN_RX_FRAMES c)) ∧ (p < 16) ∧
      (nodeOperates s0 = true) ∧ (pdoValid s0 0x400 p = true) ∧ (bytes.length < mapBytes (pdoMap s0 0x600 p))) ∧
    (∃ (p : Nat) (t : Nat) (s1 : State) (s : State), (tpdoDueNow (s.adv t) p = true) ∧ (s1 = (s.adv t).tpdoSpent p)) ∧
    (∃ (p : Nat) (t : Nat) (s1 : State) (s : State), (tpdoDueNow (s.adv t) p = true) ∧ (s1 = (s.adv t).tpdoSpent p)) ∧
    (∃ (p : Nat) (_full : Bool) (t : Nat) (s : State), (tpdoDueNow (s.adv t) p = false)) ∧
    (∃ (p : Nat) (_full : Bool) (t : Nat) (s : State), (tpdoExpired (s.adv t) p = true)) ∧
    (∃ (_counter : Nat) (t : Nat) (c : Nat) (s0 : State) (s1 : State) (s : State), (activeLine (s.adv t) = some c) ∧
      (canJoined (s.adv t) c = true) ∧ (s0 = (s.adv t).inc (O.MD_CAN_RX_FRAMES c)) ∧ (nodeTalks s0 = true) ∧
      (s1 = ((s0.setNet { s0.net with syncAt := s0.up, syncLost := false }).set O.MD_SYNC_AT s0.pt).inc O.MD_SYNC_COUNT)) ∧
    (∃ (ms : Nat) (days : Nat) (t : Nat) (c : Nat) (s0 : State) (s : State), (activeLine (s.adv t) = some c) ∧
      (canJoined (s.adv t) c = true) ∧ (s0 = (s.adv t).inc (O.MD_CAN_RX_FRAMES c)) ∧ (nodeTalks s0 = true) ∧
      (bitOf (s0.get (cobj 0x12 0)) 31 = true) ∧ (ms < 2 ^ 28) ∧ (days < 2 ^ 16)) :=
  ⟨⟨0, [1], 0, 0, _, pdoOk, by decide +kernel, by decide +kernel, rfl, by decide +kernel, by decide +kernel, by decide +kernel, by decide +kernel, by decide +kernel⟩,
    ⟨0, [1], 0, 0, _, pdoOk.set (cobj 0x400 2) 1, by decide +kernel, by decide +kernel, rfl, by decide +kernel, by decide +kernel, by decide +kernel, by decide +kernel, by decide +kernel⟩,
    ⟨0, [], 0, 0, _, (pdoOk.set (cobj 0x600 0) 1).set (cobj 0x600 1) 0x24000820, by decide +kernel, by decide +kernel, rfl, by decide +kernel, by decide +kernel, by decide +kernel, by decide +kernel⟩,
    ⟨0, 0, _, pdoOk.setNet { pdoOk.net with tpdoDue := [0] }, by decide +kernel, rfl⟩,
    ⟨0, 0, _, pdoOk.setNet { pdoOk.net with tpdoDue := [0] }, by decide +kernel, rfl⟩,
    ⟨0, false, 0, can0, by decide +kernel⟩,
    ⟨0, false, 0, (pdoOk.set (cobj 0x800 2) 255).set (cobj 0x800 5) 10, by decide +kernel⟩,
    ⟨0, 0, 0, _, _, pdoOk, by decide +kernel, by decide +kernel, rfl, by decide +kernel, rfl⟩,
    ⟨7, 9, 0, 0, _, can0.set (cobj 0x12 0) (2 ^ 31), by decide +kernel, by decide +kernel, rfl, by decide +kernel, by decide +kernel, by decide +kernel, by decide +kernel⟩⟩

theorem meets_UsdoTransfersAct :
    (∃ (client : Nat) (index : Nat) (sub : Nat) (sized : Bool) (size : Nat) (_data : List Byte) (_last : Bool) (t : Nat) (c : Nat) (k : Nat) (x : Sess) (s0 : State) (s : State), (activeLine (s.adv t) = some c) ∧
      (canJoined (s.adv t) c = true) ∧ (s0 = (s.adv t).inc (O.MD_CAN_RX_FRAMES c)) ∧ (nodeTalks s0 = true) ∧
      (clientOk s0 client = true) ∧
      (x = { client := clientCode s0 client, index := index, sub := sub, sized := sized, size := size, lastAt := s0.up }) ∧
      (sessOf s0 x.client = none) ∧ (freeSess s0 = some k) ∧ (downloadStart (s0.sessOpen k x) x = none)) ∧
    (∃ (client : Nat) (index : Nat) (sub : Nat) (sized : Bool) (size : Nat) (_data : List Byte) (_last : Bool) (t : Nat) (c : Nat) (k : Nat) (x : Sess) (s0 : State) (e : Nat) (s : State), (activeLine (s.adv t) = some c) ∧
      (canJoined (s.adv t) c = true) ∧ (s0 = (s.adv t).inc (O.MD_CAN_RX_FRAMES c)) ∧ (nodeTalks s0 = true) ∧
      (clientOk s0 client = true) ∧
      (x = { client := clientCode s0 client, index := index, sub := sub, sized := sized, size := size, lastAt := s0.up }) ∧
      (sessOf s0 x.client = none) ∧ (freeSess s0 = some k) ∧ (downloadStart (s0.sessOpen k x) x = some e)) ∧
    (∃ (client : Nat) (index : Nat) (sub : Nat) (sized : Bool) (size : Nat) (_data : List Byte) (_last : Bool) (t : Nat) (c : Nat) (x : Sess) (s0 : State) (s : State), (activeLine (s.adv t) = some c) ∧
      (canJoined (s.adv t) c = true) ∧ (s0 = (s.adv t).inc (O.MD_CAN_RX_FRAMES c)) ∧ (nodeTalks s0 = true) ∧
      (clientOk s0 client = true) ∧
      (x = { client := clientCode s0 client, index := index, sub := sub, sized := sized, size := size, lastAt := s0.up }) ∧
      (sessOf s0 x.client = none) ∧ (freeSess s0 = none)) ∧
    (∃ (client : Nat) (index : Nat) (sub : Nat) (_memErr : Bool) (t : Nat) (c : Nat) (k : Nat) (x : Sess) (s0 : State) (s1 : State) (b : List Byte) (s2 : State) (s3 : State) (s : State), (activeLine (s.adv t) = some c) ∧
      (canJoined (s.adv t) c = true) ∧ (s0 = (s.adv t).inc (O.MD_CAN_RX_FRAMES c)) ∧ (nodeTalks s0 = true) ∧
      (clientOk s0 client = true) ∧
      (x = { client := clientCode s0 client, index := index, sub := sub, upload := true, lastAt := s0.up }) ∧
      (sessOf s0 x.client = none) ∧ (freeSess s0 = some k) ∧ (s1 = s0.sessOpen k x) ∧
      ((netRead s1 index sub).toOption = some b) ∧
      (s2 = if index = 0x2900 ∧ sub = 0x63 then s1.set O.BK_RTC_SUB s1.bk.rtcSub else s1) ∧
      (s3 = s2.setSess k { x with sized := true, size := b.length, data := if domCap index ≠ 0 then [] else b })) ∧
    (∃ (client : Nat) (index : Nat) (sub : Nat) (_memErr : Bool) (t : Nat) (c : Nat) (k : Nat) (x : Sess) (s0 : State) (s1 : State) (e : Nat) (s : State), (activeLine (s.adv t) = some c) ∧
      (canJoined (s.adv t) c = true) ∧ (s0 = (s.adv t).inc (O.MD_CAN_RX_FRAMES c)) ∧ (nodeTalks s0 = true) ∧
      (clientOk s0 client = true) ∧
      (x = { client := clientCode s0 client, index := index, sub := sub, upload := true, lastAt := s0.up }) ∧
      (sessOf s0 x.client = none) ∧ (freeSess s0 = some k) ∧ (s1 = s0.sessOpen k x) ∧ (netRead s1 index sub = .error e)) ∧
    (∃ (client : Nat) (toggle : Bool) (_data : List Byte) (_last : Bool) (t : Nat) (c : Nat) (k : Nat) (x : Sess) (s0 : State) (s1 : State) (s : State), (activeLine (s.adv t) = some c) ∧
      (canJoined (s.adv t) c = true) ∧ (s0 = (s.adv t).inc (O.MD_CAN_RX_FRAMES c)) ∧ (nodeTalks s0 = true) ∧
      (clientOk s0 client = true) ∧ (sessOf s0 (clientCode s0 client) = some k) ∧ (x = tget {} s0.net.sess k) ∧
      (x.upload = false) ∧ (s0.net.classic = false ∨ x.toggle = toggle) ∧
      (s1 = s0.setSess k { x with toggle := !x.toggle, lastAt := s0.up })) ∧
    (∃ (client : Nat) (_toggle : Bool) (_data : List Byte) (_last : Bool) (t : Nat) (c : Nat) (k : Nat) (x : Sess) (s0 : State) (s : State), (activeLine (s.adv t) = some c) ∧
      (canJoined (s.adv t) c = true) ∧ (s0 = (s.adv t).inc (O.MD_CAN_RX_FRAMES c)) ∧ (nodeTalks s0 = true) ∧
      (clientOk s0 client = true) ∧ (sessOf s0 (clientCode s0 client) = some k) ∧ (x = tget {} s0.net.sess k) ∧
      (x.upload ≠ false)) ∧
    (∃ (client : Nat) (toggle : Bool) (_data : List Byte) (_last : Bool) (t : Nat) (c : Nat) (k : Nat) (x : Sess) (s0 : State) (s : State), (activeLine (s.adv t) = some c) ∧
      (canJoined (s.adv t) c = true) ∧ (s0 = (s.adv t).inc (O.MD_CAN_RX_FRAMES c)) ∧ (nodeTalks s0 = true) ∧
      (clientOk s0 client = true) ∧ (sessOf s0 (clientCode s0 client) = some k) ∧ (x = tget {} s0.net.sess k) ∧
      (x.upload = false) ∧ (s0.net.classic = true) ∧ (x.toggle ≠ toggle)) ∧
    (∃ (client : Nat) (_toggle : Bool) (_data : List Byte) (_last : Bool) (t : Nat) (c : Nat) (s0 : State) (s : State), (activeLine (s.adv t) = some c) ∧
      (canJoined (s.adv t) c = true) ∧ (s0 = (s.adv t).inc (O.MD_CAN_RX_FRAMES c)) ∧ (nodeTalks s0 = true) ∧
      (clientOk s0 client = true) ∧ (sessOf s0 (clientCode s0 client) = none)) ∧
    (∃ (client : Nat) (toggle : Bool) (_memErr : Bool) (t : Nat) (c : Nat) (k : Nat) (x : Sess) (s0 : State) (s1 : State) (s : State), (activeLine (s.adv t) = some c) ∧
      (canJoined (s.adv t) c = true) ∧ (s0 = (s.adv t).inc (O.MD_CAN_RX_FRAMES c)) ∧ (nodeTalks s0 = true) ∧
      (clientOk s0 client = true) ∧ (sessOf s0 (clientCode s0 client) = some k) ∧ (x = tget {} s0.net.sess k) ∧
      (x.upload = true) ∧ (s0.net.classic = false ∨ x.toggle = toggle) ∧
      (s1 = s0.setSess k { x with toggle := !x.toggle, lastAt := s0.up })) ∧
    (∃ (client : Nat) (_toggle : Bool) (_memErr : Bool) (t : Nat) (c : Nat) (k : Nat) (x : Sess) (s0 : State) (s : State), (activeLine (s.adv t) = some c) ∧
      (canJoined (s.adv t) c = true) ∧ (s0 = (s.adv t).inc (O.MD_CAN_RX_FRAMES c)) ∧ (nodeTalks s0 = true) ∧
      (clientOk s0 client = true) ∧ (sessOf s0 (clientCode s0 client) = some k) ∧ (x = tget {} s0.net.sess k) ∧
      (x.upload ≠ true)) ∧
    (∃ (client : Nat) (toggle : Bool) (_memErr : Bool) (t : Nat) (c : Nat) (k : Nat) (x : Sess) (s0 : State) (s : State), (activeLine (s.adv t) = some c) ∧
      (canJoined (s.adv t) c = true) ∧ (s0 = (s.adv t).inc (O.MD_CAN_RX_FRAMES c)) ∧ (nodeTalks s0 = true) ∧
      (clientOk s0 client = true) ∧ (sessOf s0 (clientCode s0 client) = some k) ∧ (x = tget {} s0.net.sess k) ∧
      (x.upload = true) ∧ (s0.net.classic = true) ∧ (x.toggle ≠ toggle)) ∧
    (∃ (client : Nat) (_toggle : Bool) (_memErr : Bool) (t : Nat) (c : Nat) (s0 : State) (s : State), (activeLine (s.adv t) = some c) ∧
      (canJoined (s.adv t) c = true) ∧ (s0 = (s.adv t).inc (O.MD_CAN_RX_FRAMES c)) ∧ (nodeTalks s0 = true) ∧
      (clientOk s0 client = true) ∧ (sessOf s0 (clientCode s0 client) = none)) :=
  ⟨⟨5, 0x2400, 9, false, 0, [1, 0, 0, 0], false, 0, 0, 0, { client := 5, index := 0x2400, sub := 9, lastAt := (can0.inc (O.MD_CAN_RX_FRAMES 0)).up }, _, can0, by decide +kernel, by decide +kernel, rfl, by decide +kernel, by decide +kernel, by decide +kernel, by decide +kernel, by decide +kernel, by decide +kernel⟩,
    ⟨5, 0x2FFF, 9, false, 0, [1, 0, 0, 0], false, 0, 0, 0, { client := 5, index := 0x2FFF, sub := 9, lastAt := (can0.inc (O.MD_CAN_RX_FRAMES 0)).up }, _, abNoObject, can0, by decide +kernel, by decide +kernel, rfl, by decide +kernel, by decide +kernel, by decide +kernel, by decide +kernel, by decide +kernel, by decide +kernel⟩,
    ⟨5, 0x2400, 9, false, 0, [], false, 0, 0, { client := 5, index := 0x2400, sub := 9, lastAt := (can0.inc (O.MD_CAN_RX_FRAMES 0)).up }, _, can0.setNet { can0.net with sess := [(0, { client := 1 }), (1, { client := 2 }), (2, { client := 3 }), (3, { client := 4 })] }, by decide +kernel, by decide +kernel, rfl, by decide +kernel, by decide +kernel, by decide +kernel, by decide +kernel, by decide +kernel⟩,
    ⟨0, 0x2400, 9, false, 0, 0, 0, { client := 0x80, index := 0x2400, sub := 9, upload := true, lastAt := (can0.inc (O.MD_CAN_RX_FRAMES 0)).up }, _, _, [2], _, _, can0.setNet { can0.net with classic := true }, by decide +kernel, by decide +kernel, rfl, by decide +kernel, by decide +kernel, by decide +kernel, by decide +kernel, by decide +kernel, rfl, by decide +kernel, rfl, rfl⟩,
    ⟨5, 0x2FFF, 9, false, 0, 0, 0, { client := 5, index := 0x2FFF, sub := 9, upload := true, lastAt := (can0.inc (O.MD_CAN_RX_FRAMES 0)).up }, _, _, abNoObject, can0, by decide +kernel, by decide +kernel, rfl, by decide +kernel, by decide +kernel, by decide +kernel, by decide +kernel, by decide +kernel, rfl, by decide +kernel⟩,
    ⟨5, false, [], false, 0, 0, 0, { client := 5, index := 0x2400, sub := 9, upload := false }, _, usdoS1 false, can0.setNet { can0.net with sess := [(0, { client := 5, index := 0x2400, sub := 9, upload := false })] }, by decide +kernel, by decide +kernel, rfl, by decide +kernel, by decide +kernel, by decide +kernel, by decide +kernel, by decide +kernel, by decide +kernel, by decide +kernel⟩,
    ⟨5, false, [], false, 0, 0, 0, { client := 5, index := 0x2400, sub := 9, upload := true }, _, can0.setNet { can0.net with sess := [(0, { client := 5, index := 0x2400, sub := 9, upload := true })] }, by decide +kernel, by decide +kernel, rfl, by decide +kernel, by decide +kernel, by decide +kernel, by decide +kernel, by decide +kernel⟩,
    ⟨0, true, [], false, 0, 0, 0, { client := 0x80, index := 0x2400, sub := 9, upload := false }, _, can0.setNet { can0.net with classic := true, sess := [(0, { client := 0x80, index := 0x2400, sub := 9, upload := false })] }, by decide +kernel, by decide +kernel, rfl, by decide +kernel, by decide +kernel, by decide +kernel, by decide +kernel, by decide +kernel, by decide +kernel, by decide +kernel⟩,
    ⟨5, false, [], false, 0, 0, _, can0, by decide +kernel, by decide +kernel, rfl, by decide +kernel, by decide +kernel, by decide +kernel⟩,
    ⟨5, false, false, 0, 0, 0, { client := 5, index := 0x2400, sub := 9, upload := true }, _, usdoS1 true, can0.setNet { can0.net with sess := [(0, { client := 5, index := 0x2400, sub := 9, upload := true })] }, by decide +kernel, by decide +kernel, rfl, by decide +kernel, by decide +kernel, by decide +kernel, by decide +kernel, by decide +kernel, by decide +kernel, by decide +kernel⟩,
    ⟨5, false, false, 0, 0, 0, { client := 5, index := 0x2400, sub := 9, upload := false }, _, can0.setNet { can0.net with sess := [(0, { client := 5, index := 0x2400, sub := 9, upload := false })] }, by decide +kernel, by decide +kernel, rfl, by decide +kernel, by decide +kernel, by decide +kernel, by decide +kernel, by decide +kernel⟩,
    ⟨0, true, false, 0, 0, 0, { client := 0x80, index := 0x2400, sub := 9, upload := true }, _, can0.setNet { can0.net with classic := true, sess := [(0, { client := 0x80, index := 0x2400, sub := 9, upload := true })] }, by decide +kernel, by decide +kernel, rfl, by decide +kernel, by decide +kernel, by decide +kernel, by decide +kernel, by decide +kernel, by decide +kernel, by decide +kernel⟩,
    ⟨5, false, false, 0, 0, _, can0, by decide +kernel, by decide +kernel, rfl, by decide +kernel, by decide +kernel, by decide +kernel⟩⟩

theorem meets_EventOutletsAct :
    (∃ (t : Nat) (x : Occ) (s1 : State) (s2 : State) (s3 : State) (s : State), (nextOcc (s.adv t).evs.buf = some x) ∧
      (s1 = ((s.adv t).setEvs { (s.adv t).evs with buf := (s.adv t).evs.buf.erase x }).setF O.EV_STATUS B.EV_STATUS_BUF_FILL ((s.adv t).evs.buf.erase x).length) ∧
      (s2 = if evEnabled s1 x.ev then (s1.queuePut x).setEvs { (s1.queuePut x).evs with due := setIns (s1.queuePut x).evs.due (routeOf s1 x.ev % 64) } else s1) ∧
      (s3 = if bitOf (routeOf s1 x.ev) 6 then s2.emcyPut x else s2)) ∧
    (∃ (ws : (List (Nat × Nat))) (rs : List Nat) (on : Bool) (t : Nat) (s1 : State) (s2 : State) (s : State), ((s.adv t).evs.linkUp = true) ∧
      (s1 = ws.foldl (fun s w => s.bar4Write w.1 w.2) ((s.adv t).setEvs { (s.adv t).evs with msixOn := on })) ∧
      (s2 = rs.foldl (fun s a => s.emit (.read .host (bar4Read s a))) s1)) ∧
    (∃ (p : Path) (v : Nat) (s1 : State) (s : State), (s.serves p (O.EV_CONTROL) = true) ∧
      (s.fits O.EV_CONTROL v = true) ∧ (s1 = s.set O.EV_CONTROL (s.merged O.EV_CONTROL v)) ∧ (qOn s1 = true) ∧
      (qOn s = false)) ∧
    (∃ (p : Path) (v : Nat) (s1 : State) (s : State), (s.serves p (O.EV_CONTROL) = true) ∧
      (s.fits O.EV_CONTROL v = true) ∧ (s1 = s.set O.EV_CONTROL (s.merged O.EV_CONTROL v)) ∧
      (qOn s1 = false ∨ qOn s = true)) ∧
    (∃ (t : Nat) (s1 : State) (s2 : State) (s : State), (s1 = (s.adv t).setEvs { (s.adv t).evs with linkUp := true }) ∧
      (s2 = if s1.clk.inReset then s1 else s1.setB O.CK_STATUS B.CK_STATUS_PCIE_REF_OK true)) :=
  ⟨⟨0, (⟨500, 0, 0, 0, false⟩ : Occ), _, _, _, ((cf.set (O.EV_ROUTE 125) 0xC0).setB (O.EV_ENABLE 15) 20 true).setEvs { cf.evs with buf := [(⟨500, 0, 0, 0, false⟩ : Occ)] }, by decide +kernel, rfl, rfl, rfl⟩,
    ⟨[(60, 0)], [60], true, 0, _, _, cf.setEvs { cf.evs with due := [2, 3], linkUp := true }, by decide +kernel, rfl, rfl⟩,
    ⟨.host, 1, _, cf, by decide +kernel, by decide +kernel, rfl, by decide +kernel, by decide +kernel⟩,
    ⟨.host, 0, _, cf, by decide +kernel, by decide +kernel, rfl, by decide +kernel⟩,
    ⟨0, _, _, cf, rfl, rfl⟩⟩

theorem meets_DmaChannelsAct :
    (∃ (p : Path) (c : Nat) (s1 : State) (s : State), (c < 32) ∧ (s.serves p (O.DM_CH_CMD c) = true) ∧
      (dmState s c = 0) ∧ (dmLinks s c = false ∨ dmLink s c ≠ c) ∧ (dmClaimed s c = false) ∧
      (s1 = s.set (O.DM_CH_STATUS c) (s.get (O.DM_CH_STATUS c) / 128 % 512 * 128))) ∧
    (∃ (p : Path) (c : Nat) (s : State), (c < 32) ∧ (s.serves p (O.DM_CH_CMD c) = true) ∧ (dmState s c = 0) ∧
      (dmLinks s c = false ∨ dmLink s c ≠ c) ∧ (dmClaimed s c = true)) ∧
    (∃ (p : Path) (c : Nat) (s : State), (c < 32) ∧ (s.serves p (O.DM_CH_CMD c) = true) ∧ (dmState s c ≠ 0)) ∧
    (∃ (p : Path) (c : Nat) (s : State), (c < 32) ∧ (s.serves p (O.DM_CH_CMD c) = true) ∧ (dmState s c = 0)) ∧
    (∃ (p : Path) (c : Nat) (s : State), (c < 32) ∧ (s.serves p (O.DM_CH_CMD c) = true) ∧ (dmState s c = 4) ∧
      ((s.dmaCh c).bad = 0)) ∧
    (∃ (p : Path) (c : Nat) (s : State), (c < 32) ∧ (s.serves p (O.DM_CH_CMD c) = true) ∧ (dmState s c = 4) ∧
      ((s.dmaCh c).bad ≠ 0)) ∧
    (∃ (p : Path) (c : Nat) (s : State), (c < 32) ∧ (s.serves p (O.DM_CH_CMD c) = true) ∧ (dmState s c = 4)) ∧
    (∃ (c : Nat) (bytes : List Byte) (t : Nat) (s : State), (c < 32) ∧ (dmState (s.adv t) c = 1) ∧
      (dmInBand (s.adv t) c = false) ∧ ((s.adv t).evs.linkUp = true) ∧ (bytes.length = 64)) ∧
    (∃ (c : Nat) (_bytes : List Byte) (t : Nat) (s : State), (c < 32) ∧ (dmState (s.adv t) c = 1) ∧
      (dmInBand (s.adv t) c = true) ∧ (((s.adv t).dmaCh c).at' + 64 ≤ (s.adv t).get O.BS_CAPACITY * 1048576)) ∧
    (∃ (c : Nat) (data : List Byte) (t : Nat) (d : Desc) (s1 : State) (s2 : State) (s : State), (c < 32) ∧
      (((s.adv t).dmaCh c).desc = some d) ∧ (s1 = dmRun c (d.total - ((s.adv t).dmaCh c).moved) data (s.adv t)) ∧
      (dmState s1 c = 2) ∧ (d.total ≤ (s1.dmaCh c).moved) ∧ (s2 = (s1.dmResult c 0x80000000).inc (O.DM_CH_DESCS c))) ∧
    (∃ (c : Nat) (data : List Byte) (t : Nat) (d : Desc) (s1 : State) (s : State), (c < 32) ∧
      (((s.adv t).dmaCh c).desc = some d) ∧ (s1 = dmRun c (d.total - ((s.adv t).dmaCh c).moved) data (s.adv t)) ∧
      (dmState s1 c ≠ 2 ∨ (s1.dmaCh c).moved < d.total)) ∧
    (∃ (c : Nat) (_n : Nat) (_write : Bool) (_data : List Byte) (t : Nat) (s : State), (c < 32) ∧
      (dmState (s.adv t) c = 1)) ∧
    (∃ (c : Nat) (n : Nat) (code : Nat) (write : Bool) (data : List Byte) (t : Nat) (d : Desc) (a : Nat) (s1 : State) (s : State), (c < 32) ∧
      (dmState (s.adv t) c = 2) ∧ (((s.adv t).dmaCh c).desc = some d) ∧ (outerCode d code write = true) ∧
      (s1 = dmRun c n data (s.adv t)) ∧ (dmState s1 c = 2) ∧ ((s1.dmaCh c).moved < d.total) ∧
      (a = if write then sideAddr d d.dst d.dstPitch ((s1.dmaCh c).cell d (s1.dmaCh c).moved) else sideAddr d d.src d.srcPitch ((s1.dmaCh c).cell d (s1.dmaCh c).moved))) ∧
    (∃ (c : Nat) (n : Nat) (code : Nat) (write : Bool) (data : List Byte) (t : Nat) (d : Desc) (s1 : State) (s : State), (c < 32) ∧
      (dmState (s.adv t) c = 2) ∧ (((s.adv t).dmaCh c).desc = some d) ∧ (outerCode d code write = true) ∧
      (s1 = dmRun c n data (s.adv t)) ∧ (dmState s1 c ≠ 2 ∨ d.total ≤ (s1.dmaCh c).moved)) :=
  ⟨⟨.host, 3, _, cf, by decide +kernel, by decide +kernel, by decide +kernel, by decide +kernel, by decide +kernel, rfl⟩,
    ⟨.host, 3, ((cf.setB (O.DM_CH_CONFIG 3) B.DM_CH_CONFIG_TRIG_EN true).setB (O.DM_CH_CONFIG 4) B.DM_CH_CONFIG_TRIG_EN true).dmTo 4 2, by decide +kernel⟩,
    ⟨.host, 3, cf.dmTo 3 2, by decide +kernel⟩,
    ⟨.host, 3, cf, by decide +kernel⟩,
    ⟨.host, 3, cf.dmTo 3 4, by decide +kernel⟩,
    ⟨.host, 3, (cf.dmTo 3 4).setDmaCh 3 { bad := 2 }, by decide +kernel⟩,
    ⟨.host, 3, cf.dmTo 3 4, by decide +kernel⟩,
    ⟨3, List.replicate 64 0, 0, cf.dmTo 3 1, by decide +kernel⟩,
    ⟨3, [], 0, ((cf.dmTo 3 1).setB (O.DM_CH_CONFIG 3) B.DM_CH_CONFIG_DESC_SPACE true).set O.BS_CAPACITY 256, by decide +kernel⟩,
    ⟨3, [], 0, { src := 0, dst := 64, rowBytes := 4, rows := 1, ctl := 5 }, _, _, ((cf.dmTo 3 2).setDmaCh 3 { desc := some { src := 0, dst := 64, rowBytes := 4, rows := 1, ctl := 5 } }).set O.BS_CAPACITY 256, by decide +kernel, by decide +kernel, rfl, by decide +kernel, by decide +kernel, rfl⟩,
    ⟨3, [], 0, { src := 0, dst := 64, rowBytes := 4, rows := 1, ctl := 5 }, _, ((cf.dmTo 3 2).setDmaCh 3 { desc := some { src := 0, dst := 64, rowBytes := 4, rows := 1, ctl := 5 } }), by decide +kernel, by decide +kernel, rfl, by decide +kernel⟩,
    ⟨3, 0, false, [], 0, cf.dmTo 3 1, by decide +kernel⟩,
    ⟨3, 0, 6, false, [], 0, { src := 0, dst := 64, rowBytes := 4, rows := 1, ctl := 5 }, _, _, ((cf.dmTo 3 2).setDmaCh 3 { desc := some { src := 0, dst := 64, rowBytes := 4, rows := 1, ctl := 5 } }), by decide +kernel, by decide +kernel, by decide +kernel, by decide +kernel, rfl, by decide +kernel, by decide +kernel, rfl⟩,
    ⟨3, 9, 6, false, [], 0, { src := 0, dst := 64, rowBytes := 4, rows := 1, ctl := 5 }, _, ((cf.dmTo 3 2).setDmaCh 3 { desc := some { src := 0, dst := 64, rowBytes := 4, rows := 1, ctl := 5 } }).set O.BS_CAPACITY 256, by decide +kernel, by decide +kernel, by decide +kernel, by decide +kernel, rfl, by decide +kernel⟩⟩

theorem meets_ModeChangesAct :
    (∃ (p : Path) (s1 : State) (s : State), (s.serves p O.MD_MODE_CMD = true) ∧ (modeBusy s = false) ∧ (s.mode = 1) ∧
      (s.bit O.BT_STATUS B.BT_STATUS_BOOT_DONE = true) ∧
      (s1 = ((s.set O.MD_MODE 2).set O.MD_STATUS (1 + 256 * 2)).set O.MD_MODE_RESULT 1)) ∧
    (∃ (p : Path) (s1 : State) (s : State), (s.serves p O.MD_MODE_CMD = true) ∧ (modeBusy s = false) ∧ (s.mode = 3) ∧
      (s1 = ((s.set O.MD_MODE 2).set O.MD_STATUS (1 + 256 * 2)).set O.MD_MODE_RESULT 1)) ∧
    (∃ (p : Path) (s1 : State) (s : State), (s.serves p O.MD_MODE_CMD = true) ∧ (modeBusy s = false) ∧ (s.mode = 4) ∧
      (s1 = ((s.set O.MD_MODE 2).set O.MD_STATUS (1 + 256 * 2)).set O.MD_MODE_RESULT 1)) ∧
    (∃ (p : Path) (s1 : State) (s : State), (s.serves p O.MD_MODE_CMD = true) ∧ (modeBusy s = false) ∧ (s.mode = 6) ∧
      (s1 = ((s.set O.MD_MODE 2).set O.MD_STATUS (1 + 256 * 2)).set O.MD_MODE_RESULT 1)) ∧
    (∃ (p : Path) (s1 : State) (s : State), (s.serves p O.MD_MODE_CMD = true) ∧ (modeBusy s = false) ∧ (s.mode = 7) ∧
      (s1 = ((s.set O.MD_MODE 2).set O.MD_STATUS (1 + 256 * 2)).set O.MD_MODE_RESULT 1)) ∧
    (∃ (p : Path) (s1 : State) (s : State), (s.serves p O.MD_MODE_CMD = true) ∧ (modeBusy s = false) ∧ (s.mode = 2) ∧
      (s1 = ((s.set O.MD_MODE 3).set O.MD_STATUS (1 + 256 * 3)).set O.MD_MODE_RESULT 1)) ∧
    (∃ (p : Path) (s1 : State) (s : State), (s.serves p O.MD_MODE_CMD = true) ∧ (modeBusy s = false) ∧ (s.mode = 7) ∧
      (s1 = ((s.set O.MD_MODE 3).set O.MD_STATUS (1 + 256 * 3)).set O.MD_MODE_RESULT 1)) ∧
    (∃ (p : Path) (s1 : State) (s : State), (s.serves p O.MD_MODE_CMD = true) ∧ (modeBusy s = false) ∧ (s.mode = 2) ∧
      (s1 = ((s.set O.MD_MODE 4).set O.MD_STATUS (1 + 256 * 4)).set O.MD_MODE_RESULT 1)) ∧
    (∃ (p : Path) (s1 : State) (s : State), (s.serves p O.MD_MODE_CMD = true) ∧ (modeBusy s = false) ∧ (s.mode = 5) ∧
      (s1 = ((s.set O.MD_MODE 4).set O.MD_STATUS (1 + 256 * 4)).set O.MD_MODE_RESULT 1)) ∧
    (∃ (p : Path) (s1 : State) (s : State), (s.serves p O.MD_MODE_CMD = true) ∧ (modeBusy s = false) ∧ (s.mode = 6) ∧
      (s1 = ((s.set O.MD_MODE 4).set O.MD_STATUS (1 + 256 * 4)).set O.MD_MODE_RESULT 1)) ∧
    (∃ (p : Path) (s1 : State) (s : State), (s.serves p O.MD_MODE_CMD = true) ∧ (modeBusy s = false) ∧ (s.mode = 4) ∧
      (s1 = ((s.set O.MD_MODE 5).set O.MD_STATUS (1 + 256 * 5)).set O.MD_MODE_RESULT 1)) ∧
    (∃ (p : Path) (s1 : State) (s : State), (s.serves p O.MD_MODE_CMD = true) ∧ (modeBusy s = false) ∧ (s.mode = 4) ∧
      (s1 = ((s.set O.MD_MODE 6).set O.MD_STATUS (1 + 256 * 6)).set O.MD_MODE_RESULT 1)) ∧
    (∃ (p : Path) (s1 : State) (s : State), (s.serves p O.MD_MODE_CMD = true) ∧ (modeBusy s = false) ∧ (s.mode = 2) ∧
      (s1 = ((s.set O.MD_MODE 7).set O.MD_STATUS (1 + 256 * 7)).set O.MD_MODE_RESULT 1)) ∧
    (∃ (p : Path) (s1 : State) (s : State), (s.serves p O.MD_MODE_CMD = true) ∧ (modeBusy s = false) ∧ (s.mode = 3) ∧
      (s1 = ((s.set O.MD_MODE 7).set O.MD_STATUS (1 + 256 * 7)).set O.MD_MODE_RESULT 1)) ∧
    (∃ (p : Path) (s1 : State) (s : State), (s.serves p O.MD_MODE_CMD = true) ∧ (modeBusy s = false) ∧ (s.mode = 4) ∧
      (s1 = ((s.set O.MD_MODE 7).set O.MD_STATUS (1 + 256 * 7)).set O.MD_MODE_RESULT 1)) ∧
    (∃ (p : Path) (s1 : State) (s : State), (s.serves p O.MD_MODE_CMD = true) ∧ (modeBusy s = false) ∧ (s.mode = 5) ∧
      (s1 = ((s.set O.MD_MODE 7).set O.MD_STATUS (1 + 256 * 7)).set O.MD_MODE_RESULT 1)) ∧
    (∃ (p : Path) (s1 : State) (s : State), (s.serves p O.MD_MODE_CMD = true) ∧ (modeBusy s = false) ∧ (s.mode = 6) ∧
      (s1 = ((s.set O.MD_MODE 7).set O.MD_STATUS (1 + 256 * 7)).set O.MD_MODE_RESULT 1)) ∧
    (∃ (p : Path) (s0 : State) (s1 : State) (s : State), (s.serves p O.MD_MODE_CMD = true) ∧ (modeBusy s = true) ∧
      (s.mode = 2 ∨ s.mode = 3 ∨ s.mode = 4 ∨ s.mode = 6) ∧ (s0 = (s.set O.MD_MODE_RESULT 4).mdHit 2) ∧
      (s1 = ((s0.set O.MD_MODE 7).set O.MD_STATUS (1 + 256 * 7)).set O.MD_MODE_RESULT 1)) ∧
    (∃ (p : Path) (s : State), (s.serves p O.MD_MODE_CMD = true) ∧ (s.mode = 1) ∧ (modeBusy s = false)) ∧
    (∃ (p : Path) (r : Nat) (code : Nat) (s : State), (s.serves p O.MD_MODE_CMD = true) ∧
      (s.mode ≠ 1 ∨ modeBusy s = true) ∧ (modeRefusal s 1 = some (r, code))) ∧
    (∃ (p : Path) (s : State), (s.serves p O.MD_MODE_CMD = true) ∧ (s.mode = 2) ∧ (modeBusy s = false)) ∧
    (∃ (p : Path) (r : Nat) (code : Nat) (s : State), (s.serves p O.MD_MODE_CMD = true) ∧
      (s.mode ≠ 2 ∨ modeBusy s = true) ∧ (modeRefusal s 2 = some (r, code))) ∧
    (∃ (p : Path) (s : State), (s.serves p O.MD_MODE_CMD = true) ∧ (s.mode = 3) ∧ (modeBusy s = false)) ∧
    (∃ (p : Path) (r : Nat) (code : Nat) (s : State), (s.serves p O.MD_MODE_CMD = true) ∧
      (s.mode ≠ 3 ∨ modeBusy s = true) ∧ (modeRefusal s 3 = some (r, code))) ∧
    (∃ (p : Path) (s : State), (s.serves p O.MD_MODE_CMD = true) ∧ (s.mode = 4) ∧ (modeBusy s = false)) ∧
    (∃ (p : Path) (r : Nat) (code : Nat) (s : State), (s.serves p O.MD_MODE_CMD = true) ∧
      (s.mode ≠ 4 ∨ modeBusy s = true) ∧ (modeRefusal s 4 = some (r, code))) ∧
    (∃ (p : Path) (s : State), (s.serves p O.MD_MODE_CMD = true) ∧ (s.mode = 5) ∧ (modeBusy s = false)) ∧
    (∃ (p : Path) (r : Nat) (code : Nat) (s : State), (s.serves p O.MD_MODE_CMD = true) ∧
      (s.mode ≠ 5 ∨ modeBusy s = true) ∧ (modeRefusal s 5 = some (r, code))) ∧
    (∃ (p : Path) (s : State), (s.serves p O.MD_MODE_CMD = true) ∧ (s.mode = 6) ∧ (modeBusy s = false)) ∧
    (∃ (p : Path) (r : Nat) (code : Nat) (s : State), (s.serves p O.MD_MODE_CMD = true) ∧
      (s.mode ≠ 6 ∨ modeBusy s = true) ∧ (modeRefusal s 6 = some (r, code))) ∧
    (∃ (p : Path) (s : State), (s.serves p O.MD_MODE_CMD = true) ∧ (s.mode = 7) ∧ (modeBusy s = false)) ∧
    (∃ (p : Path) (r : Nat) (code : Nat) (s : State), (s.serves p O.MD_MODE_CMD = true) ∧
      (s.mode ≠ 7 ∨ modeBusy s = true) ∧ (modeRefusal s 7 = some (r, code))) ∧
    (∃ (p : Path) (s : State), (s.serves p O.MD_MODE_CMD = true) ∧ (1 ≤ s.mode) ∧ (s.mode ≤ 7)) ∧
    (∃ (t : Nat) (s : State), (modeBusy (s.adv t) = true) ∧ (actionsDone (s.adv t) = true)) :=
  ⟨⟨.host, _, State.reset.setB O.BT_STATUS B.BT_STATUS_BOOT_DONE true, by decide +kernel, by decide +kernel, by decide +kernel, by decide +kernel, rfl⟩,
    ⟨.host, _, State.reset.set O.MD_MODE 3, by decide +kernel, by decide +kernel, by decide +kernel, rfl⟩,
    ⟨.host, _, State.reset.set O.MD_MODE 4, by decide +kernel, by decide +kernel, by decide +kernel, rfl⟩,
    ⟨.host, _, State.reset.set O.MD_MODE 6, by decide +kernel, by decide +kernel, by decide +kernel, rfl⟩,
    ⟨.host, _, State.reset.set O.MD_MODE 7, by decide +kernel, by decide +kernel, by decide +kernel, rfl⟩,
    ⟨.host, _, State.reset.set O.MD_MODE 2, by decide +kernel, by decide +kernel, by decide +kernel, rfl⟩,
    ⟨.host, _, State.reset.set O.MD_MODE 7, by decide +kernel, by decide +kernel, by decide +kernel, rfl⟩,
    ⟨.host, _, State.reset.set O.MD_MODE 2, by decide +kernel, by decide +kernel, by decide +kernel, rfl⟩,
    ⟨.host, _, State.reset.set O.MD_MODE 5, by decide +kernel, by decide +kernel, by decide +kernel, rfl⟩,
    ⟨.host, _, State.reset.set O.MD_MODE 6, by decide +kernel, by decide +kernel, by decide +kernel, rfl⟩,
    ⟨.host, _, State.reset.set O.MD_MODE 4, by decide +kernel, by decide +kernel, by decide +kernel, rfl⟩,
    ⟨.host, _, State.reset.set O.MD_MODE 4, by decide +kernel, by decide +kernel, by decide +kernel, rfl⟩,
    ⟨.host, _, State.reset.set O.MD_MODE 2, by decide +kernel, by decide +kernel, by decide +kernel, rfl⟩,
    ⟨.host, _, State.reset.set O.MD_MODE 3, by decide +kernel, by decide +kernel, by decide +kernel, rfl⟩,
    ⟨.host, _, State.reset.set O.MD_MODE 4, by decide +kernel, by decide +kernel, by decide +kernel, rfl⟩,
    ⟨.host, _, State.reset.set O.MD_MODE 5, by decide +kernel, by decide +kernel, by decide +kernel, rfl⟩,
    ⟨.host, _, State.reset.set O.MD_MODE 6, by decide +kernel, by decide +kernel, by decide +kernel, rfl⟩,
    ⟨.host, _, _, (State.reset.set O.MD_MODE 3).set O.MD_STATUS 769, by decide +kernel, by decide +kernel, by decide +kernel, rfl, rfl⟩,
    ⟨.host, State.reset.set O.MD_MODE 1, by decide +kernel⟩,
    ⟨.host, 2, abState, cf, by decide +kernel⟩,
    ⟨.host, State.reset.set O.MD_MODE 2, by decide +kernel⟩,
    ⟨.host, 2, abState, State.reset.set O.MD_MODE 5, by decide +kernel⟩,
    ⟨.host, State.reset.set O.MD_MODE 3, by decide +kernel⟩,
    ⟨.host, 2, abState, State.reset.set O.MD_MODE 4, by decide +kernel⟩,
    ⟨.host, State.reset.set O.MD_MODE 4, by decide +kernel⟩,
    ⟨.host, 2, abState, State.reset.set O.MD_MODE 3, by decide +kernel⟩,
    ⟨.host, State.reset.set O.MD_MODE 5, by decide +kernel⟩,
    ⟨.host, 2, abState, State.reset.set O.MD_MODE 2, by decide +kernel⟩,
    ⟨.host, State.reset.set O.MD_MODE 6, by decide +kernel⟩,
    ⟨.host, 2, abState, State.reset.set O.MD_MODE 5, by decide +kernel⟩,
    ⟨.host, State.reset.set O.MD_MODE 7, by decide +kernel⟩,
    ⟨.host, 2, abState, State.reset.set O.MD_MODE 1, by decide +kernel⟩,
    ⟨.host, cf, by decide +kernel⟩,
    ⟨0, (State.reset.set O.MD_MODE 3).set O.MD_STATUS 769, by decide +kernel⟩⟩

theorem meets_ResetsAct :
    (∃ (t : Nat) (s1 : State) (s : State), (s1 = (s.adv t).resetEvent 1)) ∧
    (∃ (t : Nat) (s : State), ((s.adv t).clk.inReset = false)) ∧
    (∃ (t : Nat) (s : State), ((s.adv t).clk.inReset = true) ∧ ((s.adv t).modes.causes.contains 1 = true) ∧
      ((s.adv t).bk.onBattery = false) ∧ ((s.adv t).modes.railAt + 2 * fuMs ≤ (s.adv t).up)) ∧
    (∃ (t : Nat) (s1 : State) (s : State), ((s.adv t).clk.inReset = false ∨ (s.adv t).modes.causes.contains 6 = false) ∧
      (s1 = (((s.adv t).resetEvent 6).journal 7 (jdata [(0, 2), (2, (s.adv t).get O.SB_DIE_TEMP)])).inc O.TH_TRIPS)) ∧
    (∃ (cause : Nat) (t : Nat) (s : State), ((s.adv t).clk.inReset = true) ∧
      ((s.adv t).modes.causes.contains cause = true) ∧ (cause = 4 ∨ cause = 5 ∨ 7 ≤ cause) ∧
      ((s.adv t).modes.resetAt + 10 * fuUs ≤ (s.adv t).up)) ∧
    (∃ (cause : Nat) (t : Nat) (s : State), ((s.adv t).clk.inReset = true) ∧
      ((s.adv t).modes.causes.contains cause = true) ∧ (cause = 2 ∨ cause = 6 ∨ (cause = 3 ∧
      (s.adv t).supply.warn = false ∧ max (s.adv t).supply.relAt (s.adv t).modes.resetAt + 10 * fuMs ≤ (s.adv t).up))) ∧
    (∃ (p : Path) (s : State), (s.serves p (O.BT_CONTROL) = true)) ∧
    (∃ (p : Path) (s : State), (s.serves p (O.BT_WDT_KICK) = true)) ∧
    (∃ (t : Nat) (s : State), ((s.adv t).clk.inReset = false) ∧ ((s.adv t).get O.BT_WDT_PERIOD ≠ 0) ∧
      ((s.adv t).boot.wdtAt + (s.adv t).get O.BT_WDT_PERIOD * fuMs ≤ (s.adv t).up)) :=
  ⟨⟨0, _, cf, rfl⟩,
    ⟨0, cf, by decide +kernel⟩,
    ⟨2^40, rst 1, by decide +kernel⟩,
    ⟨0, _, cf, by decide +kernel, rfl⟩,
    ⟨5, 2^30, rst 5, by decide +kernel⟩,
    ⟨2, 2^30, rst 2, by decide +kernel⟩,
    ⟨.host, cf, by decide +kernel⟩,
    ⟨.host, cf, by decide +kernel⟩,
    ⟨2^50, cf.set O.BT_WDT_PERIOD 100, by decide +kernel⟩⟩

theorem meets_InhibitsAct :
    (∃ (p : Path) (s : State), (s.serves p (O.MD_INHIBIT_SET) = true)) ∧
    (∃ (p : Path) (s : State), (s.serves p (O.MD_INHIBIT_SET) = true)) ∧
    (∃ (p : Path) (s : State), (s.serves p (O.MD_INHIBIT_SET) = true)) ∧
    (∃ (p : Path) (s : State), (s.serves p (O.MD_INHIBIT_CLR) = true)) ∧
    (∃ (p : Path) (s : State), (s.serves p (O.MD_INHIBIT_CLR) = true) ∧ (pinStands s = true) ∧
      (s.modes.pinWait = true)) ∧
    (∃ (p : Path) (s : State), (s.serves p (O.MD_INHIBIT_CLR) = true) ∧ (pinStands s = false)) ∧
    (∃ (p : Path) (s : State), (s.serves p (O.MD_INHIBIT_CLR) = true) ∧ (pinStands s = true) ∧
      (s.modes.pinWait = false)) ∧
    (∃ (p : Path) (s : State), (s.serves p (O.MD_INHIBIT_CLR) = true)) ∧
    (∃ (t : Nat) (s1 : State) (s : State), ((s.adv t).clk.inReset = false) ∧ (s1 = (s.adv t).fiOff.journal 8 0)) ∧
    (∃ (e : Nat) (t : Nat) (s : State), ((s.adv t).clk.inReset = false) ∧ (pinStands (s.adv t) = true) ∧
      ((s.adv t).modes.pinWait = false) ∧
      (max e (s.adv t).modes.pinAt + (s.adv t).get O.MD_PIN_RELEASE * fuMs ≤ (s.adv t).up) ∧
      (bitOf ((s.adv t).get O.MD_INHIBIT_CONFIG) 2 = true)) ∧
    (∃ (e : Nat) (t : Nat) (s : State), ((s.adv t).clk.inReset = false) ∧ (pinStands (s.adv t) = true) ∧
      ((s.adv t).modes.pinWait = false) ∧
      (max e (s.adv t).modes.pinAt + (s.adv t).get O.MD_PIN_RELEASE * fuMs ≤ (s.adv t).up) ∧
      (bitOf ((s.adv t).get O.MD_INHIBIT_CONFIG) 2 = false)) :=
  ⟨⟨.host, cf, by decide +kernel⟩,
    ⟨.host, cf, by decide +kernel⟩,
    ⟨.host, cf, by decide +kernel⟩,
    ⟨.host, cf, by decide +kernel⟩,
    ⟨.host, ((cf.setB O.MD_INHIBIT_STATUS B.MD_INHIBIT_STATUS_PIN true).setModes { cf.modes with pinWait := true }), by decide +kernel⟩,
    ⟨.host, cf.set O.MD_INHIBIT_STATUS 0, by decide +kernel⟩,
    ⟨.host, ((cf.setB O.MD_INHIBIT_STATUS B.MD_INHIBIT_STATUS_PIN true).setModes { cf.modes with pinWait := false }), by decide +kernel⟩,
    ⟨.host, cf, by decide +kernel⟩,
    ⟨0, _, cf, by decide +kernel, rfl⟩,
    ⟨0, 2^50, (cf.setB O.MD_INHIBIT_STATUS B.MD_INHIBIT_STATUS_PIN true).set O.MD_INHIBIT_CONFIG 4, by decide +kernel⟩,
    ⟨0, 2^50, (cf.setB O.MD_INHIBIT_STATUS B.MD_INHIBIT_STATUS_PIN true).set O.MD_INHIBIT_CONFIG 0, by decide +kernel⟩⟩

theorem meets_SupplyMonitorsAct :
    (∃ (t : Nat) (s1 : State) (s : State), ((s.adv t).supply.warn = false) ∧ ((s.adv t).clk.inReset = false) ∧
      (s1 = (((s.adv t).setSupply { (s.adv t).supply with warn := true, dipAt := (s.adv t).up }).suPut (lowBit 0) true).suPut B.SU_STATUS_DIP true)) ∧
    (∃ (t : Nat) (s1 : State) (us : Nat) (sag : Bool) (s2 : State) (s3 : State) (s4 : State) (s : State), ((s.adv t).supply.warn = true) ∧
      ((s.adv t).clk.inReset = false) ∧
      (s1 = (s.adv t).setSupply { (s.adv t).supply with warn := false, relAt := (s.adv t).up }) ∧
      (us = (divRound ((s1.up - s1.supply.dipAt : Nat) : Int) fuUs).toNat) ∧ (sag = suBit s1 B.SU_STATUS_SAG) ∧
      (s2 = (s1.set O.SU_DIP_TIME us).suHit B.SU_EVENTS_DIP_END) ∧ (s3 = if sag then s2 else s2.inc O.SU_DIPS) ∧
      (s4 = s3.journal 2 (jdata [(0, s3.get O.SU_DIP_DEPTH), (2, us % 2 ^ 32), (6, sag.toNat)]))) ∧
    (∃ (t : Nat) (s : State), (suBit (s.adv t) B.SU_STATUS_DIP = true) ∧ (suBit (s.adv t) B.SU_STATUS_SAG = false) ∧
      ((s.adv t).supply.dipAt + (s.adv t).get O.SU_SAG_TIME * fuMs ≤ (s.adv t).up)) ∧
    (∃ (i : Nat) (t : Nat) (s1 : State) (s2 : State) (s : State), ((s.adv t).clk.inReset = false) ∧
      ((s.adv t).mode ≠ mdBoot) ∧ (i < 8) ∧ (susOn (s.adv t) i 0 = true) ∧ (supplyDue (s.adv t) i = true) ∧
      (s1 = (s.adv t).setSupply { (s.adv t).supply with dueAt := tput (s.adv t).supply.dueAt i (s.adv t).up }) ∧
      (s2 = s1.senseWithdraw (fun (r : Req) => decide (r.what = .supply ∧ r.inst = i)))) ∧
    (∃ (t : Nat) (s1 : State) (s : State), (holdOver (s.adv t) = true) ∧ (s1 = (s.adv t).curfewEnd)) ∧
    (∃ (t : Nat) (s : State), ((s.adv t).bit O.MD_INHIBIT_STATUS B.MD_INHIBIT_STATUS_SUPPLY_HIGH = true) ∧
      (highCond (s.adv t) = false) ∧ ((s.adv t).supply.highEnd + 10 * fuMs ≤ (s.adv t).up)) :=
  ⟨⟨0, _, cf.setSupply { cf.supply with warn := false }, by decide +kernel, by decide +kernel, rfl⟩,
    ⟨2^20, _, _, _, _, _, _, (cf.setSupply { cf.supply with warn := true }).set O.SU_STATUS 0, by decide +kernel, by decide +kernel, rfl, rfl, rfl, rfl, rfl, rfl⟩,
    ⟨2^50, (cf.set O.SU_STATUS 0).suPut B.SU_STATUS_DIP true, by decide +kernel⟩,
    ⟨0, 0, _, _, cf.set (O.SU_CONFIG 0) 1, by decide +kernel, by decide +kernel, by decide +kernel, by decide +kernel, by decide +kernel, rfl, rfl⟩,
    ⟨2^50, _, ((cf.suPut B.SU_STATUS_CURFEW true).setSupply { cf.supply with holdFrom := some 5 }).setBank { cf.bank with storeWait := true }, by decide +kernel, rfl⟩,
    ⟨2^50, cf.setB O.MD_INHIBIT_STATUS B.MD_INHIBIT_STATUS_SUPPLY_HIGH true, by decide +kernel⟩⟩

theorem meets_SupplyClearsAct :
    (∃ (p : Path) (v : Nat) (s : State), (s.serves p (O.SU_CONTROL) = true) ∧ (bitOf v 1 = false)) ∧
    (∃ (p : Path) (v : Nat) (s : State), (s.serves p (O.SU_CONTROL) = true) ∧ (bitOf v 0 = false) ∧ (s.mode ≠ mdPrint)) ∧
    (∃ (p : Path) (v : Nat) (s1 : State) (s : State), (s.serves p (O.TH_CONTROL) = true) ∧ (bitOf v 1 = false) ∧
      (dieCool s = true) ∧ (s.bit O.TH_STATUS 1 = true) ∧ (s1 = (s.setB O.TH_STATUS 1 false).hit O.TH_EVENTS 1 572)) ∧
    (∃ (p : Path) (_v : Nat) (s : State), (s.serves p (O.TH_CONTROL) = true) ∧ (dieCool s = false)) ∧
    (∃ (p : Path) (v : Nat) (s : State), (s.serves p (O.TH_CONTROL) = true) ∧ (bitOf v 0 = false)) :=
  ⟨⟨.host, 0, cf, by decide +kernel⟩,
    ⟨.host, 0, cf, by decide +kernel⟩,
    ⟨.host, 0, _, (cf.setI O.SB_DIE_TEMP 400).setB O.TH_STATUS 1 true, by decide +kernel, by decide +kernel, by decide +kernel, by decide +kernel, rfl⟩,
    ⟨.host, 0, (cf.set O.SB_DIE_TEMP 2000), by decide +kernel⟩,
    ⟨.host, 0, cf, by decide +kernel⟩⟩

theorem meets_BackupPowerAndClockAct :
    (∃ (t : Nat) (s0 : State) (s1 : State) (s : State), ((s.adv t).bk.onBattery = false) ∧
      (s0 = (s.adv t).resetEvent 1) ∧ (s1 = (s0.setModes { s0.modes with railAt := s0.up }).gaugeRun)) ∧
    (∃ (t : Nat) (s1 : State) (sec : Nat) (s : State), ((s.adv t).bk.onBattery = true) ∧ (s1 = (s.adv t).gaugeRun) ∧
      (sec = (s1.get O.BK_RTC_SEC + 2 ^ 32 - s1.bk.batterySec) % 2 ^ 32)) ∧
    (∃ (t : Nat) (s1 : State) (s : State), (s1 = ((s.adv t).setModes { (s.adv t).modes with causes := [1], resetAt := (s.adv t).up }).toReset)) ∧
    (∃ (p : Path) (w : Nat) (s1 : State) (s : State), (s.serves p (O.BK_CONTROL) = true) ∧
      (w = putBit (s.get O.BK_CONTROL) 0 true) ∧ (s.fits O.BK_CONTROL w = true) ∧ (s.bit O.BK_CONTROL 1 = false) ∧
      (s.bit O.BK_CONTROL 2 = false) ∧ (s.bit O.BK_CONTROL 3 = false) ∧
      (s1 = s.set O.BK_CONTROL (putBit (s.merged O.BK_CONTROL w) 4 (bitOf (s.merged O.BK_CONTROL w) 4 || rtcLocked s))) ∧
      (rtcLocked s = false)) ∧
    (∃ (p : Path) (w : Nat) (s : State), (s.serves p (O.BK_CONTROL) = true) ∧
      (w = putBit (s.get O.BK_CONTROL) 0 true) ∧ (s.fits O.BK_CONTROL w = true) ∧ (rtcLocked s = true)) ∧
    (∃ (p : Path) (s : State), (s.serves p (O.BK_RTC_SEC) = true)) ∧
    (∃ (t : Nat) (s : State), ((s.adv t).get O.BK_ALARM_SEC ≠ 0) ∧
      ((s.adv t).get O.BK_RTC_SEC = (s.adv t).get O.BK_ALARM_SEC) ∧
      ((s.adv t).bk.alarmAt ≠ some ((s.adv t).get O.BK_RTC_SEC))) ∧
    (∃ (p : Path) (w : Nat) (s1 : State) (s : State), (s.serves p (O.BK_CONTROL) = true) ∧
      (w = putBit (s.get O.BK_CONTROL) 1 true) ∧ (s.fits O.BK_CONTROL w = true) ∧ (s.bit O.BK_CONTROL 0 = false) ∧
      (s.bit O.BK_CONTROL 2 = false) ∧ (s.bit O.BK_CONTROL 3 = false) ∧
      (s1 = s.set O.BK_CONTROL (putBit (s.merged O.BK_CONTROL w) 4 (bitOf (s.merged O.BK_CONTROL w) 4 || rtcLocked s))) ∧
      (bkBit s1 B.BK_STATUS_WAKE = true)) ∧
    (∃ (p : Path) (w : Nat) (s1 : State) (s : State), (s.serves p (O.BK_CONTROL) = true) ∧
      (w = putBit (s.get O.BK_CONTROL) 1 true) ∧ (s.fits O.BK_CONTROL w = true) ∧ (s.bit O.BK_CONTROL 0 = false) ∧
      (s.bit O.BK_CONTROL 2 = false) ∧ (s.bit O.BK_CONTROL 3 = false) ∧
      (s1 = s.set O.BK_CONTROL (putBit (s.merged O.BK_CONTROL w) 4 (bitOf (s.merged O.BK_CONTROL w) 4 || rtcLocked s))) ∧
      (bkBit s1 B.BK_STATUS_WAKE = false)) ∧
    (∃ (p : Path) (w : Nat) (s1 : State) (s : State), (s.serves p (O.BK_CONTROL) = true) ∧
      (w = putBit (s.get O.BK_CONTROL) 3 true) ∧ (s.fits O.BK_CONTROL w = true) ∧ (s.bit O.BK_CONTROL 0 = false) ∧
      (s.bit O.BK_CONTROL 1 = false) ∧ (s.bit O.BK_CONTROL 2 = false) ∧
      (s1 = s.set O.BK_CONTROL (putBit (s.merged O.BK_CONTROL w) 4 (bitOf (s.merged O.BK_CONTROL w) 4 || rtcLocked s)))) ∧
    (∃ (p : Path) (v : Nat) (d : Nat) (e : JEntry) (s : State), (s.serves p (O.BK_JNL_SELECT) = true) ∧ (v < 2 ^ 32) ∧
      (d = (s.get O.BK_JNL_COUNT + 2 ^ 32 - v) % 2 ^ 32) ∧
      (e = (if 1 ≤ d ∧ d ≤ 256 then tget {} s.bk.journal (v % 256) else {}))) ∧
    (∃ (p : Path) (_v : Nat) (s : State), (s.serves p (O.BK_JNL_HOST) = true)) :=
  ⟨⟨0, _, _, cf, by decide +kernel, rfl, rfl⟩,
    ⟨0, _, _, cf.setBk { cf.bk with onBattery := true }, by decide +kernel, rfl, rfl⟩,
    ⟨0, _, State.reset, rfl⟩,
    ⟨.host, putBit (cf.get O.BK_CONTROL) 0 true, _, cf, by decide +kernel, by decide +kernel, by decide +kernel, by decide +kernel, by decide +kernel, by decide +kernel, rfl, by decide +kernel⟩,
    ⟨.host, 17, cf.set O.BK_CONTROL 16, by decide +kernel⟩,
    ⟨.host, cf, by decide +kernel⟩,
    ⟨0, (cf.set O.BK_RTC_SEC 7).set O.BK_ALARM_SEC 7, by decide +kernel⟩,
    ⟨.host, putBit (cf.get O.BK_CONTROL) 1 true, _, cf.bkPut B.BK_STATUS_WAKE true, by decide +kernel, by decide +kernel, by decide +kernel, by decide +kernel, by decide +kernel, by decide +kernel, rfl, by decide +kernel⟩,
    ⟨.host, putBit (cf.get O.BK_CONTROL) 1 true, _, cf, by decide +kernel, by decide +kernel, by decide +kernel, by decide +kernel, by decide +kernel, by decide +kernel, rfl, by decide +kernel⟩,
    ⟨.host, putBit (cf.get O.BK_CONTROL) 3 true, _, cf, by decide +kernel, by decide +kernel, by decide +kernel, by decide +kernel, by decide +kernel, by decide +kernel, rfl⟩,
    ⟨.host, 0, 1, tget {} cf.bk.journal 0, cf, by decide +kernel⟩,
    ⟨.host, 0, cf, by decide +kernel⟩⟩

theorem meets_CellAndGaugeAct :
    (∃ (mv : Nat) (ua : Nat) (t : Nat) (s1 : State) (s2 : State) (s3 : State) (v : Int) (lo : Nat) (em : Nat) (s4 : State) (s5 : State) (s6 : State) (s7 : State) (s8 : State) (s : State), (vbatDue (s.adv t) = true) ∧
      (s1 = (s.adv t).setBk { (s.adv t).bk with vbatAt := some (s.adv t).up }) ∧
      (s2 = (s1.setBk { s1.bk with chgI := if chargerState s1 = 1 ∨ chargerState s1 = 2 then ua else 0 }).gaugeRun) ∧
      (s3 = s2.set O.BK_VBAT (min mv 32767)) ∧ (v = s3.getI O.BK_VBAT) ∧
      (lo = if v < s3.getI O.BK_V_LOW then s3.bk.belowLow + 1 else 0) ∧
      (em = if v < s3.getI O.BK_V_EMPTY then s3.bk.belowEmpty + 1 else 0) ∧
      (s4 = s3.setBk { s3.bk with belowLow := lo, belowEmpty := em }) ∧
      (s5 = s4.cellAlarm B.BK_STATUS_LOW 1 lo v (s4.getI O.BK_V_LOW)) ∧
      (s6 = s5.cellAlarm B.BK_STATUS_EMPTY 2 em v (s5.getI O.BK_V_EMPTY)) ∧
      (s7 = if chargerState s6 = 1 ∧ s6.getI O.BK_CHG_V ≤ v then s6.charger 2 else if chargerState s6 = 3 ∧ cellType s6 = 1 ∧ v < s6.getI O.BK_CHG_V - 100 then (s6.charger 0).chgStart else s6.chgStart) ∧
      (s8 = s7.chargeLow)) ∧
    (∃ (t : Nat) (s1 : State) (s2 : State) (s : State), (chargeFull (s.adv t) = true) ∧ (s1 = (s.adv t).gaugeRun) ∧
      (s2 = (((s1.charger 3).setBk { s1.bk with chgI := 0 }).chgJournal 1).bkHit B.BK_EVENTS_CHG_FULL) ∧
      (s2.get O.BK_CAP = 0)) ∧
    (∃ (t : Nat) (s1 : State) (s2 : State) (s3 : State) (s : State), (chargeFull (s.adv t) = true) ∧
      (s1 = (s.adv t).gaugeRun) ∧
      (s2 = (((s1.charger 3).setBk { s1.bk with chgI := 0 }).chgJournal 1).bkHit B.BK_EVENTS_CHG_FULL) ∧
      (s2.get O.BK_CAP ≠ 0) ∧ (s3 = (s2.set O.BK_GAUGE (s2.get O.BK_CAP)).setBk { s2.bk with gaugeRem := 0 })) ∧
    (∃ (t : Nat) (s : State), (chargeFull (s.adv t) = true) ∧ ((s.adv t).get O.BK_CAP ≠ 0) ∧
      ((s.adv t).get O.BK_CAP < 2 ^ 31)) ∧
    (∃ (t : Nat) (s1 : State) (s : State), ((s.adv t).bk.chgStartAt + (s.adv t).get O.BK_CHG_TIMEOUT * 3600 * fuS ≤ (s.adv t).up) ∧
      (chargerState (s.adv t) = 1 ∨ chargerState (s.adv t) = 2) ∧ (s1 = ((s.adv t).gaugeRun.charger 0))) ∧
    (∃ (t : Nat) (s : State), (chargerState (s.adv t) = 1 ∨ chargerState (s.adv t) = 2)) ∧
    (∃ (t : Nat) (s : State), (chargerState (s.adv t) = 0 ∨ chargerState (s.adv t) = 3)) ∧
    (∃ (p : Path) (w : Nat) (s1 : State) (s : State), (s.serves p (O.BK_CONTROL) = true) ∧
      (w = putBit (s.get O.BK_CONTROL) 2 true) ∧ (s.fits O.BK_CONTROL w = true) ∧ (s.bit O.BK_CONTROL 0 = false) ∧
      (s.bit O.BK_CONTROL 1 = false) ∧ (s.bit O.BK_CONTROL 3 = false) ∧
      (s1 = s.set O.BK_CONTROL (putBit (s.merged O.BK_CONTROL w) 4 (bitOf (s.merged O.BK_CONTROL w) 4 || rtcLocked s))) ∧
      (s1.bk.chgStopped = true) ∧
      (bkBit s1 B.BK_STATUS_CELL_ABSENT = false ∨ (2000 ≤ s1.getI O.BK_VBAT ∧ s1.getI O.BK_VBAT ≤ 3600))) ∧
    (∃ (p : Path) (w : Nat) (s1 : State) (s : State), (s.serves p (O.BK_CONTROL) = true) ∧
      (w = putBit (s.get O.BK_CONTROL) 2 true) ∧ (s.fits O.BK_CONTROL w = true) ∧ (s.bit O.BK_CONTROL 0 = false) ∧
      (s.bit O.BK_CONTROL 1 = false) ∧ (s.bit O.BK_CONTROL 3 = false) ∧
      (s1 = s.set O.BK_CONTROL (putBit (s.merged O.BK_CONTROL w) 4 (bitOf (s.merged O.BK_CONTROL w) 4 || rtcLocked s))) ∧
      (s1.bk.chgStopped = true) ∧ (bkBit s1 B.BK_STATUS_CELL_ABSENT = true) ∧
      (s1.getI O.BK_VBAT < 2000 ∨ 3600 < s1.getI O.BK_VBAT)) ∧
    (∃ (p : Path) (w : Nat) (s1 : State) (s : State), (s.serves p (O.BK_CONTROL) = true) ∧
      (w = putBit (s.get O.BK_CONTROL) 2 true) ∧ (s.fits O.BK_CONTROL w = true) ∧ (s.bit O.BK_CONTROL 0 = false) ∧
      (s.bit O.BK_CONTROL 1 = false) ∧ (s.bit O.BK_CONTROL 3 = false) ∧
      (s1 = s.set O.BK_CONTROL (putBit (s.merged O.BK_CONTROL w) 4 (bitOf (s.merged O.BK_CONTROL w) 4 || rtcLocked s))) ∧
      (s1.bk.chgStopped = false)) ∧
    (∃ (p : Path) (v : Nat) (s1 : State) (s : State), (s.serves p (O.BK_GAUGE_SET) = true) ∧ (v < 2 ^ 32) ∧
      (v ≤ s.get O.BK_CAP) ∧ (s1 = s.gaugeRun)) :=
  ⟨⟨3000, 0, 2^50, _, _, _, _, _, _, _, _, _, _, _, cf, by decide +kernel, rfl, rfl, rfl, rfl, rfl, rfl, rfl, rfl, rfl, rfl, rfl⟩,
    ⟨2^50, _, _, ((cf.charger 2).setBk { cf.bk with lowSince := some 0 }), by decide +kernel, rfl, rfl, by decide +kernel⟩,
    ⟨2^50, _, _, _, ((cf.charger 2).setBk { cf.bk with lowSince := some 0 }).set O.BK_CAP 100, by decide +kernel, rfl, rfl, by decide +kernel, rfl⟩,
    ⟨2^50, ((cf.charger 2).setBk { cf.bk with lowSince := some 0 }).set O.BK_CAP 100, by decide +kernel⟩,
    ⟨2^60, _, cf.charger 1, by decide +kernel, by decide +kernel, rfl⟩,
    ⟨0, cf.charger 1, by decide +kernel⟩,
    ⟨0, cf, by decide +kernel⟩,
    ⟨.host, putBit (cf.get O.BK_CONTROL) 2 true, _, cf.setBk { cf.bk with chgStopped := true }, by decide +kernel, by decide +kernel, by decide +kernel, by decide +kernel, by decide +kernel, by decide +kernel, rfl, by decide +kernel, by decide +kernel⟩,
    ⟨.host, putBit (cf.get O.BK_CONTROL) 2 true, _, (cf.setBk { cf.bk with chgStopped := true }).bkPut B.BK_STATUS_CELL_ABSENT true, by decide +kernel, by decide +kernel, by decide +kernel, by decide +kernel, by decide +kernel, by decide +kernel, rfl, by decide +kernel, by decide +kernel, by decide +kernel⟩,
    ⟨.host, putBit (cf.get O.BK_CONTROL) 2 true, _, cf, by decide +kernel, by decide +kernel, by decide +kernel, by decide +kernel, by decide +kernel, by decide +kernel, rfl, by decide +kernel⟩,
    ⟨.host, 5, _, cf.set O.BK_CAP 100, by decide +kernel, by decide +kernel, by decide +kernel, rfl⟩⟩

theorem meets_BootAndFlashAct :
    (∃ (l : FuseReads) (_silent : Bool) (t : Nat) (s1 : State) (s : State), ((s.adv t).clk.inReset = false) ∧
      ((s.adv t).mode = mdBoot) ∧ ((s.adv t).bit O.OT_STATUS B.OT_STATUS_SCAN_DONE = false) ∧
      (s1 = ((s.adv t).otpReads l).bootScan) ∧ (5 ≤ s1.get O.OT_LC_STATE)) ∧
    (∃ (l : FuseReads) (silent : Bool) (t : Nat) (s1 : State) (may : Bool) (s2 : State) (ord : List Nat) (r : Option Nat × Nat) (s3 : State) (s4 : State) (s : State), ((s.adv t).clk.inReset = false) ∧
      ((s.adv t).mode = mdBoot) ∧ ((s.adv t).bit O.OT_STATUS B.OT_STATUS_SCAN_DONE = false) ∧
      (s1 = ((s.adv t).otpReads l).bootScan) ∧ (s1.get O.OT_LC_STATE < 5) ∧
      (may = (decide (bootSel s1 ≠ 2) && !bootBit s1 0)) ∧
      (s2 = s1.setB O.BT_STATUS B.BT_STATUS_RECOVERY_ALLOWED may) ∧
      (ord = if bootSel s2 ≠ 1 ∧ silent = false then slotOrder s2 else []) ∧
      (r = trySlots s2 ord (if bootSel s2 = 1 then 0 else if silent then 8 else if ord = [] then 2 else 0)) ∧
      (s3 = if r.2 = 0 then s2 else ((s2.rejectImage r.2 0).setB O.BT_STATUS B.BT_STATUS_FALLBACK true).btHit O.BT_EVENTS B.BT_EVENTS_FALLBACK) ∧
      (s4 = if r.2 = 0 then s2 else s2.rejectImage r.2 1)) ∧
    (∃ (p : Path) (v : Nat) (h : List Byte) (body : List Byte) (s1 : State) (s2 : State) (s3 : State) (s : State), (s.serves p (O.BT_RECOVERY_CMD) = true) ∧
      (v < 2 ^ 32) ∧ (recoveryWait s = true) ∧ (576 ≤ v) ∧ (h = s.mgets (bootAddr 0) 512) ∧ (v = 512 + bodyLen h) ∧
      (body = s.mgets (bootAddr 512) (bodyLen h)) ∧
      (s1 = (s.setB O.BT_STATUS B.BT_STATUS_RECOVERY_WAIT false).btHit O.BT_EVENTS B.BT_EVENTS_RECOVERY_DONE) ∧
      (s2 = s1.runImage h 3) ∧ (s3 = s.rejectImage (imageCause s h body) 0)) ∧
    (∃ (p : Path) (v : Nat) (h : List Byte) (s : State), (s.serves p (O.BT_RECOVERY_CMD) = true) ∧ (v < 2 ^ 32) ∧
      (recoveryWait s = true) ∧ (h = s.mgets (bootAddr 0) 512) ∧ (v < 576 ∨ v ≠ 512 + bodyLen h)) ∧
    (∃ (p : Path) (v : Nat) (s : State), (s.serves p (O.BT_RECOVERY_CMD) = true) ∧ (v < 2 ^ 32) ∧
      (recoveryWait s = false)) ∧
    (∃ (p : Path) (c : FlashCmd) (s : State), (s.serves p (O.BT_QSPI_CMD) = true) ∧
      (c = (⟨true, 1, s.get O.BT_QSPI_ADDR, s.get O.BT_QSPI_LEN, []⟩ : FlashCmd)) ∧ (qspiRefusal s c = none)) ∧
    (∃ (p : Path) (c : FlashCmd) (s : State), (s.serves p (O.BT_QSPI_CMD) = true) ∧
      (c = (⟨true, 2, s.get O.BT_QSPI_ADDR, s.get O.BT_QSPI_LEN, qspiData s (s.get O.BT_QSPI_LEN)⟩ : FlashCmd)) ∧
      (qspiRefusal s c = none)) ∧
    (∃ (p : Path) (c : FlashCmd) (s : State), (s.serves p (O.BT_QSPI_CMD) = true) ∧
      (c = (⟨true, 3, s.get O.BT_QSPI_ADDR, s.get O.BT_QSPI_LEN, []⟩ : FlashCmd)) ∧ (qspiRefusal s c = none)) ∧
    (∃ (p : Path) (c : FlashCmd) (s : State), (s.serves p (O.BT_QSPI_CMD) = true) ∧
      (c = (⟨true, 4, s.get O.BT_QSPI_ADDR, s.get O.BT_QSPI_LEN, []⟩ : FlashCmd)) ∧ (qspiRefusal s c = none)) ∧
    (∃ (p : Path) (c : FlashCmd) (a : Nat) (s1 : State) (s : State), (s.serves p (O.BT_QSPI_CMD) = true) ∧
      (c = (⟨true, 1, s.get O.BT_QSPI_ADDR, s.get O.BT_QSPI_LEN, []⟩ : FlashCmd)) ∧ (qspiRefusal s c = some a) ∧
      (s1 = if qspiBusy s then s else s.set O.BT_QSPI_RESULT 4)) ∧
    (∃ (p : Path) (c : FlashCmd) (a : Nat) (s1 : State) (s : State), (s.serves p (O.BT_QSPI_CMD) = true) ∧
      (c = (⟨true, 2, s.get O.BT_QSPI_ADDR, s.get O.BT_QSPI_LEN, qspiData s (s.get O.BT_QSPI_LEN)⟩ : FlashCmd)) ∧
      (qspiRefusal s c = some a) ∧ (s1 = if qspiBusy s then s else s.set O.BT_QSPI_RESULT 4)) ∧
    (∃ (p : Path) (c : FlashCmd) (a : Nat) (s1 : State) (s : State), (s.serves p (O.BT_QSPI_CMD) = true) ∧
      (c = (⟨true, 3, s.get O.BT_QSPI_ADDR, s.get O.BT_QSPI_LEN, []⟩ : FlashCmd)) ∧ (qspiRefusal s c = some a) ∧
      (s1 = if qspiBusy s then s else s.set O.BT_QSPI_RESULT 4)) ∧
    (∃ (p : Path) (c : FlashCmd) (a : Nat) (s1 : State) (s : State), (s.serves p (O.BT_QSPI_CMD) = true) ∧
      (c = (⟨true, 4, s.get O.BT_QSPI_ADDR, s.get O.BT_QSPI_LEN, []⟩ : FlashCmd)) ∧ (qspiRefusal s c = some a) ∧
      (s1 = if qspiBusy s then s else s.set O.BT_QSPI_RESULT 4)) ∧
    (∃ (res : Nat) (t : Nat) (c : FlashCmd) (r : State × Nat) (s1 : State) (s : State), ((s.adv t).flash.cur = some c) ∧
      (r = (s.adv t).flashRun c res) ∧ (s1 = r.1.setFlash { r.1.flash with cur := none })) :=
  ⟨⟨[(32, 2^32-1, 2^32-1, 2^32-1), (33, 2^32-1, 2^32-1, 2^32-1), (34, 2^32-1, 2^32-1, 2^32-1), (35, 2^32-1, 2^32-1, 2^32-1), (36, 2^32-1, 2^32-1, 2^32-1)], false, 0, _, State.reset, by decide +kernel, by decide +kernel, by decide +kernel, rfl, by decide +kernel⟩,
    ⟨[], false, 0, _, _, _, _, _, _, _, State.reset.set O.BT_STRAPS 1, by decide +kernel, by decide +kernel, by decide +kernel, rfl, by decide +kernel, rfl, rfl, rfl, rfl, rfl, rfl⟩,
    ⟨.host, 576, _, _, _, _, _, recov, by decide +kernel, by decide +kernel, by decide +kernel, by decide +kernel, rfl, by decide +kernel, rfl, rfl, rfl, rfl⟩,
    ⟨.host, 5, _, recov, by decide +kernel, by decide +kernel, by decide +kernel, rfl, by decide +kernel⟩,
    ⟨.host, 5, cf, by decide +kernel⟩,
    ⟨.host, (⟨true, 1, 2097152, 4, []⟩ : FlashCmd), (calm.set O.BT_QSPI_LEN 4).set O.BT_QSPI_ADDR 2097152, by decide +kernel⟩,
    ⟨.host, (⟨true, 2, 2097152, 4, [0, 0, 0, 0]⟩ : FlashCmd), (calm.set O.BT_QSPI_LEN 4).set O.BT_QSPI_ADDR 2097152, by decide +kernel⟩,
    ⟨.host, (⟨true, 3, 2097152, 4, []⟩ : FlashCmd), (calm.set O.BT_QSPI_LEN 4).set O.BT_QSPI_ADDR 2097152, by decide +kernel⟩,
    ⟨.host, (⟨true, 4, 2097152, 4, []⟩ : FlashCmd), (calm.set O.BT_QSPI_LEN 4).set O.BT_QSPI_ADDR 2097152, by decide +kernel⟩,
    ⟨.host, _, abRange, _, calm.set O.BT_QSPI_ADDR 16777216, by decide +kernel, rfl, by decide +kernel, rfl⟩,
    ⟨.host, _, abRange, _, calm.set O.BT_QSPI_ADDR 16777216, by decide +kernel, rfl, by decide +kernel, rfl⟩,
    ⟨.host, _, abRange, _, calm.set O.BT_QSPI_ADDR 16777216, by decide +kernel, rfl, by decide +kernel, rfl⟩,
    ⟨.host, _, abRange, _, calm.set O.BT_QSPI_ADDR 16777216, by decide +kernel, rfl, by decide +kernel, rfl⟩,
    ⟨0, 0, (⟨true, 1, 0, 4, []⟩ : FlashCmd), (((cf.setFlash { cur := some ((⟨true, 1, 0, 4, []⟩ : FlashCmd)), waiting := [] }).adv 0).flashRun (⟨true, 1, 0, 4, []⟩ : FlashCmd) 0), _, cf.setFlash { cur := some ((⟨true, 1, 0, 4, []⟩ : FlashCmd)), waiting := [] }, by decide +kernel, by decide +kernel, rfl⟩⟩

theorem meets_OtpRowsAct :
    (∃ (p : Path) (l : FuseReads) (s1 : State) (row : Nat) (f : Fuse) (s2 : State) (s : State), (s.serves p (O.OT_ROW_CMD) = true) ∧
      (s1 = s.otpReads l) ∧ (row = s.get O.OT_ROW_ADDR % 512) ∧ (readLocked s1 (regionOf row) = false) ∧
      (f = rowFuse s1 row) ∧
      (s2 = ((s1.set O.OT_MARGIN_NORM f.norm).set O.OT_MARGIN_HIGH f.high).set O.OT_MARGIN_LOW f.low)) ∧
    (∃ (p : Path) (l : FuseReads) (s1 : State) (row : Nat) (s2 : State) (s : State), (s.serves p (O.OT_ROW_CMD) = true) ∧
      (s1 = s.otpReads l) ∧ (row = s.get O.OT_ROW_ADDR % 512) ∧ (readLocked s1 (regionOf row) = true) ∧
      (s2 = ((s1.set O.OT_MARGIN_NORM 0).set O.OT_MARGIN_HIGH 0).set O.OT_MARGIN_LOW 0)) ∧
    (∃ (p : Path) (row : Nat) (d : Nat) (s : State), (s.serves p (O.OT_ROW_CMD) = true) ∧
      (row = s.get O.OT_ROW_ADDR % 512) ∧ (d = storedValue row (s.get O.OT_ROW_DATA)) ∧ (burnRefusal s row d = none)) ∧
    (∃ (p : Path) (row : Nat) (d : Nat) (c : Nat) (a : Nat) (s1 : State) (s : State), (s.serves p (O.OT_ROW_CMD) = true) ∧
      (row = s.get O.OT_ROW_ADDR % 512) ∧ (d = storedValue row (s.get O.OT_ROW_DATA)) ∧
      (burnRefusal s row d = some (c, a)) ∧ (s1 = if burnBusy s then s else s.set O.OT_ROW_RESULT c)) ∧
    (∃ (p : Path) (l : FuseReads) (s1 : State) (s : State), (s.serves p (O.OT_ROW_CMD) = true) ∧
      (s1 = (s.otpReads l).crcScan.weakScan)) ∧
    (∃ (p : Path) (s : State), (s.serves p (O.OT_ROW_CMD) = true) ∧ (curfew s = false) ∧ (s.get O.OT_LC_STATE < 5) ∧
      (burnMode s = true) ∧ (burnBusy s = false)) ∧
    (∃ (p : Path) (s1 : State) (s : State), (s.serves p (O.OT_ROW_CMD) = true) ∧ (curfew s = false) ∧
      (5 ≤ s.get O.OT_LC_STATE ∨ burnMode s = false ∨ burnBusy s) ∧
      (s1 = if burnBusy s then s else s.set O.OT_ROW_RESULT 2)) ∧
    (∃ (p : Path) (s1 : State) (s : State), (s.serves p (O.OT_ROW_CMD) = true) ∧ (curfew s = true) ∧
      (s1 = if burnBusy s then s else s.set O.OT_ROW_RESULT 4)) ∧
    (∃ (_l : FuseReads) (t : Nat) (s : State), ((s.adv t).otp.burn = none)) ∧
    (∃ (_l : FuseReads) (t : Nat) (b : Burn) (s : State), ((s.adv t).otp.burn = some b) ∧ (b.todo = [])) ∧
    (∃ (l : FuseReads) (t : Nat) (b : Burn) (row : Nat) (d : Nat) (s1 : State) (s2 : State) (s : State), ((s.adv t).otp.burn = some b) ∧
      (b.todo = [(row, d)]) ∧ (s1 = ((s.adv t).burnRow l row d).1) ∧ (((s.adv t).burnRow l row d).2 = true) ∧
      (s2 = (s1.burnEnd b 0 0).btHit O.OT_EVENTS B.OT_EVENTS_BURN_DONE)) ∧
    (∃ (l : FuseReads) (t : Nat) (b : Burn) (row : Nat) (d : Nat) (rest : List (Nat × Nat)) (s1 : State) (s : State), ((s.adv t).otp.burn = some b) ∧
      (b.todo = (row, d) :: rest) ∧ (rest ≠ []) ∧ (s1 = ((s.adv t).burnRow l row d).1) ∧
      (((s.adv t).burnRow l row d).2 = true)) ∧
    (∃ (l : FuseReads) (t : Nat) (b : Burn) (row : Nat) (d : Nat) (rest : List (Nat × Nat)) (s1 : State) (s : State), ((s.adv t).otp.burn = some b) ∧
      (b.todo = (row, d) :: rest) ∧ (s1 = ((s.adv t).burnRow l row d).1) ∧ (((s.adv t).burnRow l row d).2 = false)) :=
  ⟨⟨.host, [(3, 7, 7, 7)], _, 3, (⟨7, 7, 7⟩ : Fuse), _, cf.set O.OT_ROW_ADDR 3, by decide +kernel, rfl, by decide +kernel, by decide +kernel, by decide +kernel, rfl⟩,
    ⟨.host, [], _, 0, _, cf.set O.OT_LOCKS 256, by decide +kernel, rfl, by decide +kernel, by decide +kernel, rfl⟩,
    ⟨.host, 40, 5, (prov.set O.OT_ROW_ADDR 40).set O.OT_ROW_DATA 5, by decide +kernel⟩,
    ⟨.host, 32, 5, 2, abState, _, (prov.set O.OT_ROW_ADDR 32).set O.OT_ROW_DATA 5, by decide +kernel, by decide +kernel, by decide +kernel, by decide +kernel, rfl⟩,
    ⟨.host, [(3, 7, 1, 7)], _, cf, by decide +kernel, rfl⟩,
    ⟨.host, prov, by decide +kernel⟩,
    ⟨.host, _, prov.set O.MD_MODE 5, by decide +kernel, by decide +kernel, by decide +kernel, rfl⟩,
    ⟨.host, _, prov.setB O.SU_STATUS B.SU_STATUS_CURFEW true, by decide +kernel, by decide +kernel, rfl⟩,
    ⟨[], 0, cf, by decide +kernel⟩,
    ⟨[], 0, (⟨4, [], 0, 0⟩ : Burn), cf.setOtp { cf.otp with burn := some (⟨4, [], 0, 0⟩ : Burn) }, by decide +kernel⟩,
    ⟨[], 0, (⟨2, [(40, 5)], 0, 0⟩ : Burn), 40, 5, _, _, cf.setOtp { cf.otp with burn := some (⟨2, [(40, 5)], 0, 0⟩ : Burn) }, by decide +kernel, by decide +kernel, rfl, by decide +kernel, rfl⟩,
    ⟨[], 0, (⟨2, [(40, 5), (41, 5)], 0, 0⟩ : Burn), 40, 5, [(41, 5)], _, cf.setOtp { cf.otp with burn := some (⟨2, [(40, 5), (41, 5)], 0, 0⟩ : Burn) }, by decide +kernel, by decide +kernel, by decide +kernel, rfl, by decide +kernel⟩,
    ⟨(40, 4, 4, 4) :: (List.range 16).map (fun i => (512 + i, 4, 4, 4)), 0, (⟨2, [(40, 5), (41, 5)], 0, 0⟩ : Burn), 40, 5, [(41, 5)], _, cf.setOtp { cf.otp with burn := some (⟨2, [(40, 5), (41, 5)], 0, 0⟩ : Burn) }, by decide +kernel, by decide +kernel, rfl, by decide +kernel⟩⟩

theorem meets_LifeCycleActs :
    (∃ (p : Path) (s1 : State) (s : State), (s.serves p (O.OT_LC_CMD) = true) ∧ (lcRefusal s 1 = none) ∧
      (s1 = s.forAll (List.range 8) (fun z k => z.set (O.OT_TOKEN k) 0))) ∧
    (∃ (p : Path) (s1 : State) (s : State), (s.serves p (O.OT_LC_CMD) = true) ∧ (lcRefusal s 2 = none) ∧
      (s1 = s.forAll (List.range 8) (fun z k => z.set (O.OT_TOKEN k) 0))) ∧
    (∃ (p : Path) (s1 : State) (s : State), (s.serves p (O.OT_LC_CMD) = true) ∧ (lcRefusal s 3 = none) ∧
      (s1 = s.forAll (List.range 8) (fun z k => z.set (O.OT_TOKEN k) 0))) ∧
    (∃ (p : Path) (s1 : State) (s : State), (s.serves p (O.OT_LC_CMD) = true) ∧ (lcRefusal s 5 = none) ∧
      (s1 = s.forAll (List.range 8) (fun z k => z.set (O.OT_TOKEN k) 0))) ∧
    (∃ (p : Path) (c : Nat) (tok : Bool) (s1 : State) (s2 : State) (s3 : State) (s : State), (s.serves p (O.OT_LC_CMD) = true) ∧
      (lcRefusal s 1 = some (c, tok)) ∧ (s1 = s.forAll (List.range 8) (fun z k => z.set (O.OT_TOKEN k) 0)) ∧
      (s2 = if tok then s1.inc O.OT_TOKEN_FAILS else s1) ∧ (s3 = if c = 6 ∧ curfew s2 = true then s2.deferred else s2)) ∧
    (∃ (p : Path) (c : Nat) (tok : Bool) (s1 : State) (s2 : State) (s3 : State) (s : State), (s.serves p (O.OT_LC_CMD) = true) ∧
      (lcRefusal s 2 = some (c, tok)) ∧ (s1 = s.forAll (List.range 8) (fun z k => z.set (O.OT_TOKEN k) 0)) ∧
      (s2 = if tok then s1.inc O.OT_TOKEN_FAILS else s1) ∧ (s3 = if c = 6 ∧ curfew s2 = true then s2.deferred else s2)) ∧
    (∃ (p : Path) (c : Nat) (tok : Bool) (s1 : State) (s2 : State) (s3 : State) (s : State), (s.serves p (O.OT_LC_CMD) = true) ∧
      (lcRefusal s 3 = some (c, tok)) ∧ (s1 = s.forAll (List.range 8) (fun z k => z.set (O.OT_TOKEN k) 0)) ∧
      (s2 = if tok then s1.inc O.OT_TOKEN_FAILS else s1) ∧ (s3 = if c = 6 ∧ curfew s2 = true then s2.deferred else s2)) ∧
    (∃ (p : Path) (c : Nat) (tok : Bool) (s1 : State) (s2 : State) (s3 : State) (s : State), (s.serves p (O.OT_LC_CMD) = true) ∧
      (lcRefusal s 4 = some (c, tok)) ∧ (s1 = s.forAll (List.range 8) (fun z k => z.set (O.OT_TOKEN k) 0)) ∧
      (s2 = if tok then s1.inc O.OT_TOKEN_FAILS else s1) ∧ (s3 = if c = 6 ∧ curfew s2 = true then s2.deferred else s2)) ∧
    (∃ (p : Path) (c : Nat) (tok : Bool) (s1 : State) (s2 : State) (s3 : State) (s : State), (s.serves p (O.OT_LC_CMD) = true) ∧
      (lcRefusal s 5 = some (c, tok)) ∧ (s1 = s.forAll (List.range 8) (fun z k => z.set (O.OT_TOKEN k) 0)) ∧
      (s2 = if tok then s1.inc O.OT_TOKEN_FAILS else s1) ∧ (s3 = if c = 6 ∧ curfew s2 = true then s2.deferred else s2)) :=
  ⟨⟨.host, _, calm, by decide +kernel, by decide +kernel, rfl⟩,
    ⟨.host, _, prov, by decide +kernel, by decide +kernel, rfl⟩,
    ⟨.host, _, (prov.set O.OT_LC_STATE 2).setOtp { prov.otp with shadow := [(64, 5)] }, by decide +kernel, by decide +kernel, rfl⟩,
    ⟨.host, _, prov, by decide +kernel, by decide +kernel, rfl⟩,
    ⟨.host, 6, false, _, _, _, calm.set O.MD_MODE 5, by decide +kernel, by decide +kernel, rfl, rfl, rfl⟩,
    ⟨.host, 2, false, _, _, _, cf, by decide +kernel, by decide +kernel, rfl, rfl, rfl⟩,
    ⟨.host, 3, false, _, _, _, prov.set O.OT_LC_STATE 2, by decide +kernel, by decide +kernel, rfl, rfl, rfl⟩,
    ⟨.host, 5, false, _, _, _, (prov.set O.OT_LC_STATE 3).set O.OT_TOKEN_FAILS 8, by decide +kernel, by decide +kernel, rfl, rfl, rfl⟩,
    ⟨.host, 2, false, _, _, _, prov.set O.OT_LC_STATE 5, by decide +kernel, by decide +kernel, rfl, rfl, rfl⟩⟩

theorem meets_LifeCycleActs_3 : ∃ (p : Path) (s1 : State) (s : State), (s.serves p (O.OT_LC_CMD) = true) ∧ (lcRefusal s 4 = none) ∧ (s1 = s.forAll (List.range 8) (fun z k => z.set (O.OT_TOKEN k) 0)) := by
  obtain ⟨d, h⟩ := fieldTok_passes
  exact ⟨.host, _, withTok fieldSt d, (withTok_serves fieldSt d .host O.OT_LC_CMD).trans (by decide +kernel), h, rfl⟩

theorem meets_FaultInjectionActs :
    (∃ (p : Path) (v : Nat) (s : State), (s.serves p (O.FI_KEY) = true) ∧ (v % 2 ^ 32 = 0x46494E4A)) ∧
    (∃ (p : Path) (v : Nat) (s : State), (s.serves p (O.FI_KEY) = true) ∧ (v % 2 ^ 32 ≠ 0x46494E4A)) ∧
    (∃ (p : Path) (s : State), (s.serves p (O.FI_CMD) = true) ∧ (fiPoint s ≤ 79) ∧ (fiMode s ≠ 0) ∧
      (fiBit s B.FI_STATUS_UNLOCKED = true) ∧ (fiBit s B.FI_STATUS_ARMED = false) ∧ (fiUnitOk s = true) ∧
      (s.clk.inReset = false) ∧ (2 ≤ s.mode) ∧ (s.mode ≠ mdPrint ∨ fiNotInPrint s = false)) ∧
    (∃ (p : Path) (s : State), (s.serves p (O.FI_CMD) = true) ∧ (fiPoint s ≤ 79) ∧ (fiMode s ≠ 0) ∧
      (fiBit s B.FI_STATUS_UNLOCKED = false ∨ fiBit s B.FI_STATUS_ARMED = true ∨ fiUnitOk s = false ∨ s.clk.inReset = true ∨ s.mode < 2 ∨ (s.mode = mdPrint ∧ fiNotInPrint s = true))) ∧
    (∃ (p : Path) (s : State), (s.serves p (O.FI_CMD) = true) ∧ (79 < fiPoint s ∨ fiMode s = 0)) ∧
    (∃ (p : Path) (s : State), (s.serves p (O.FI_CMD) = true) ∧ (fiBit s B.FI_STATUS_ARMED = true)) ∧
    (∃ (p : Path) (s : State), (s.serves p (O.FI_CMD) = true) ∧ (fiBit s B.FI_STATUS_ARMED = false)) ∧
    (∃ (_a : Nat) (_b : Nat) (t : Nat) (s1 : State) (s : State), (fiDue (s.adv t) = true) ∧
      (s1 = { (s.adv t).fiActive with fi := { forced := (s.adv t).fi.forced + 1, lastAt := (s.adv t).up } })) ∧
    (∃ (a : Nat) (b : Nat) (t : Nat) (s1 : State) (s2 : State) (s : State), (fiDue (s.adv t) = true) ∧
      ((s.adv t).force (fiPoint (s.adv t)) (fiUnit (s.adv t)) a b ≠ (s.adv t)) ∧
      (s1 = ({ (s.adv t).fiActive with fi := { forced := (s.adv t).fi.forced + 1, lastAt := (s.adv t).up } } : State).inc O.FI_HITS) ∧
      (s2 = s1.force (fiPoint (s.adv t)) (fiUnit (s.adv t)) a b)) ∧
    (∃ (a : Nat) (b : Nat) (t : Nat) (s : State), ((s.adv t).force (fiPoint (s.adv t)) (fiUnit (s.adv t)) a b = (s.adv t))) ∧
    (∃ (_a : Nat) (_b : Nat) (_real : Bool) (t : Nat) (s : State), (fiDue (s.adv t) = false)) :=
  ⟨⟨.host, 0x46494E4A, cf, by decide +kernel⟩,
    ⟨.host, 1, cf, by decide +kernel⟩,
    ⟨.host, fiOk, by decide +kernel⟩,
    ⟨.host, ((fiOk.set O.FI_POINT 1).set O.MD_MODE 5), by decide +kernel⟩,
    ⟨.host, cf.set O.FI_POINT 80, by decide +kernel⟩,
    ⟨.host, fiOk.setB O.FI_STATUS B.FI_STATUS_ARMED true, by decide +kernel⟩,
    ⟨.host, fiOk, by decide +kernel⟩,
    ⟨0, 0, 0, _, fiOk.setB O.FI_STATUS B.FI_STATUS_ARMED true, by decide +kernel, rfl⟩,
    ⟨0, 0, 0, _, _, fiOk.setB O.FI_STATUS B.FI_STATUS_ARMED true, by decide +kernel, by decide +kernel, rfl, rfl⟩,
    ⟨0, 0, 0, cf.set O.FI_POINT 80, by decide +kernel⟩,
    ⟨0, 0, false, 0, cf, by decide +kernel⟩⟩

theorem meets_ModeRefusalsAct_0 : ∃ (p : Path) (c : Instr) (v : Nat) (s : State),
    ((c, v) ∈ modeCommands p) ∧ (s.serves p O.MD_MODE_CMD = true) ∧ (¬(v = s.mode ∧ modeBusy s = false)) ∧ (changeOk s.mode v = false) :=
  ⟨.host, .modeCmdPrint .host, 5, cf, by decide +kernel⟩

theorem meets_ModeRefusalsAct_1 : ∃ (p : Path) (s : State),
    (s.serves p O.MD_MODE_CMD = true) ∧ (s.mode = mdBoot) ∧ (s.bit O.BT_STATUS B.BT_STATUS_BOOT_DONE = false) :=
  ⟨.host, State.reset, by decide +kernel⟩

theorem meets_ModeRefusalsAct_2 : ∃ (p : Path) (c : Instr) (v : Nat) (s : State),
    ((c, v) ∈ modeCommands p) ∧ (s.serves p O.MD_MODE_CMD = true) ∧ (changeOk s.mode v = true) ∧
      (s.mode = mdBoot → v = mdConfigure → s.bit O.BT_STATUS B.BT_STATUS_BOOT_DONE = true) ∧ (modeBusy s = true) ∧ (v ≠ mdSafe) ∧ (v ≠ mdReset) :=
  ⟨.host, .modeCmdReady .host, 4, cf.setB O.MD_STATUS 0 true, by decide +kernel⟩

theorem meets_ModeRefusalsAct_3 : ∃ (p : Path) (v : Nat) (s : State),
    (p ≠ .net) ∧ (s.serves p O.MD_MODE_CMD = true) ∧ (7 < v) ∧ (v < 256) ∧ (s.mode ≤ 7) :=
  ⟨.host, 8, cf, by decide +kernel⟩

theorem meets_RefusedWritesChangeNothing :
    (∃ (p : Path) (_index : Nat) (_sub : Nat) (_w : Nat) (s : State), (p ≠ .net) ∧ (reaches s p = true)) ∧
    (∃ (p : Path) (index : Nat) (_sub : Nat) (_w : Nat) (s : State), (p ≠ .net) ∧ (reaches s p = true) ∧
      (served s index = false)) ∧
    (∃ (p : Path) (index : Nat) (sub : Nat) (_w : Nat) (s : State), (p ≠ .net) ∧ (reaches s p = true) ∧
      (served s index = true) ∧ (named s p index sub = .nothing)) ∧
    (∃ (p : Path) (index : Nat) (sub : Nat) (_w : Nat) (n : Nat) (s : State), (p ≠ .net) ∧ (reaches s p = true) ∧
      (served s index = true) ∧ (named s p index sub = .sized n)) ∧
    (∃ (p : Path) (index : Nat) (sub : Nat) (w : Nat) (o : Obj) (r : Row) (s : State), (p ≠ .net) ∧
      (reaches s p = true) ∧ (served s index = true) ∧ (named s p index sub = .num o r) ∧ (r.ty.bits ≠ 64) ∧
      (r.ty.wordOk (trunc 32 w) = false)) ∧
    (∃ (p : Path) (index : Nat) (sub : Nat) (w : Nat) (o : Obj) (r : Row) (s : State), (p ≠ .net) ∧
      (reaches s p = true) ∧ (served s index = true) ∧ (named s p index sub = .num o r) ∧ (r.ty.bits ≠ 64) ∧
      (r.ty.wordOk (trunc 32 w) = true) ∧ (r.acc = .ro ∨ r.acc = .rc ∨ r.acc = .const)) ∧
    (∃ (p : Path) (index : Nat) (sub : Nat) (w : Nat) (o : Obj) (r : Row) (c : Nat) (s : State), (p ≠ .net) ∧
      (reaches s p = true) ∧ (served s index = true) ∧ (named s p index sub = .num o r) ∧ (o.grp = .pi) ∧ (o.sub ≠ 3) ∧
      (o.sub ≠ 4) ∧ (r.acc = .rw) ∧ (r.ty.bits ≤ 32) ∧ (r.ty.wordOk (trunc 32 w) = true) ∧
      (r.check (s.get o) (trunc r.ty.bits w) = some c)) :=
  ⟨⟨.host, 0, 0, 0, cf, by decide +kernel⟩,
    ⟨.host, 0x2400, 9, 0, State.reset, by decide +kernel⟩,
    ⟨.host, 0x2400, 200, 0, cf, by decide +kernel⟩,
    ⟨.host, 0x1008, 0, 0, 6, cf, by decide +kernel⟩,
    ⟨.host, 0x2000, 7, 256, ⟨.md, 0, 7⟩, rowOf ⟨.md, 0, 7⟩, cf, by decide +kernel⟩,
    ⟨.host, 0x2000, 1, 0, ⟨.md, 0, 1⟩, rowOf ⟨.md, 0, 1⟩, cf, by decide +kernel⟩,
    ⟨.host, 0x2400, 9, 16, ⟨.pi, 0, 9⟩, rowOf ⟨.pi, 0, 9⟩, abRange, cf, by decide +kernel⟩⟩

theorem meets_StepKeepsSafety : ∃ s s' : State, s.safe ∧ step s = .next s' :=
  ⟨State.reset, State.reset.idle, ⟨by unfold State.memCanonical; decide +kernel, by unfold State.inType; decide +kernel⟩, rfl⟩

theorem meets_StepTakesOneCommand : ∃ s s' : State, s.safe ∧ step s = .next s' :=
  ⟨State.reset, State.reset.idle, ⟨by unfold State.memCanonical; decide +kernel, by unfold State.inType; decide +kernel⟩, rfl⟩

theorem meets_StepRunsTheFrontCommand : ∃ s : State, s.pending = [] := ⟨State.reset, rfl⟩

theorem meets_BallsAreNamedAndShared_0 : ∃ r : Nat, 1 ≤ r ∧ r ≤ 49 := ⟨49, by decide⟩

theorem meets_BallsAreNamedAndShared_1 : ∃ (n m : Nat) (b : Ball) (x : PortSig), n < 96 ∧ m < 96 ∧ n ≠ m ∧ (b, x) ∈ portBlock n :=
  ⟨95, 94, ⟨42, 48⟩, .fiP, by decide⟩

theorem meets_BallsAreNamedAndShared_2 : ∃ r : Region, r ≠ .headBands := ⟨.centre, by decide⟩

end Sys2Proof.Tests
end

section
/-! The refusals of DICT_WRITE: what one write access of a path answers, case by case of its checks, and O53 from them. -/
namespace Sys2Proof.Machine

/-! ### A write as a command of its own -/

/-- A host or DMA write that is done leaves the state the access leaves. -/
theorem cmdWrite_of_dictWrite_ok {p : Path} {view : View} {full : Bool} {index sub w : Nat} {s t : State}
    (hp : p ≠ .net) (hr : reaches s p = true) (h : dictWrite p view full index sub w s = .ok t) :
    cmdWrite p view full index sub w s = .next t := by
  cases p with
  | net => exact absurd rfl hp
  | host | dma => simp [cmdWrite, hr, h]

/-- A host or DMA write that is refused is recorded with its abort code (R423). -/
theorem cmdWrite_of_dictWrite_no {p : Path} {view : View} {full : Bool} {index sub w c : Nat} {s t : State}
    (hp : p ≠ .net) (hr : reaches s p = true) (h : dictWrite p view full index sub w s = .no t c) :
    cmdWrite p view full index sub w s = .next (t.abort p index sub view c) := by
  cases p with
  | net => exact absurd rfl hp
  | host | dma => simp [cmdWrite, hr, h]

/-! ### The checks of a word write, in their order (log 43) -/

section
variable {p : Path} {view : View} {index sub w : Nat} {s : State}

theorem dictWrite_partial :
    dictWrite p view false index sub w s =
      .ok ((s.inc (O.MD_PARTIAL_WRITES p.slot)).hit O.MD_DICT_EVENTS B.MD_DICT_EVENTS_PARTIAL 561) := rfl

theorem dictWrite_unserved (hs : served s index = false) : dictWrite p view true index sub w s = .no s abState := by
  simp [dictWrite, hs]

theorem dictWrite_nothing (hs : served s index = true) (hn : named s p index sub = .nothing) :
    dictWrite p view true index sub w s = .ok s := by
  simp [dictWrite, hs, hn]

theorem dictWrite_sized {n : Nat} (hs : served s index = true) (hn : named s p index sub = .sized n) :
    dictWrite p view true index sub w s = .no s abWriteRo := by
  simp [dictWrite, hs, hn]

theorem dictWrite_wrongExtension {o : Obj} {r : Row} (hs : served s index = true) (hn : named s p index sub = .num o r)
    (hb : r.ty.bits ≠ 64) (hw : r.ty.wordOk (trunc 32 w) = false) :
    dictWrite p view true index sub w s = .no s abLength := by
  simp [dictWrite, hs, hn, hb, hw]

/-- A whole word that carries its type's extension is written through its view. -/
theorem dictWrite_num {o : Obj} {r : Row} (hs : served s index = true) (hn : named s p index sub = .num o r)
    (hb : r.ty.bits ≠ 64) (hw : r.ty.wordOk (trunc 32 w) = true) :
    dictWrite p view true index sub w s = wrView view o r (trunc r.ty.bits w) s := by
  simp [dictWrite, hs, hn, hb, hw]

end

/-! ### The primary view -/

/-- Only an rwl object's access code depends on the state. -/
theorem accNow_of_ne_rwl {s : State} {o : Obj} {r : Row} (h : r.acc ≠ .rwl) : accNow s o r = r.acc := if_neg h

theorem wrView_primary_readOnly {o : Obj} {r : Row} {x : Nat} {s : State} (h : r.acc = .ro ∨ r.acc = .rc ∨ r.acc = .const) :
    wrView .primary o r x s = .no s abWriteRo := by
  obtain h | h | h := h <;> simp [wrView, accNow_of_ne_rwl, h]

theorem wrView_primary_rw {o : Obj} {r : Row} {x : Nat} {s : State} (h : r.acc = .rw) :
    wrView .primary o r x s = wrObj o x s := by
  simp [wrView, accNow_of_ne_rwl, h]

/-! ### The value's check -/

/-- Only the path's own copies stand for another object than the one named (R449), and they are of group net. -/
theorem pathObj_eq_self {p : Path} {o : Obj} (hg : (pathObj p o).grp ≠ .net) : pathObj p o = o := by
  unfold pathObj at hg ⊢
  split at hg
  · exact absurd rfl hg
  next hown => exact if_neg hown

/-- Outside group net an object is named with its own row. -/
theorem row_of_named_num {s : State} {p : Path} {index sub : Nat} {o : Obj} {r : Row}
    (hn : named s p index sub = .num o r) (hg : o.grp ≠ .net) : o.row = some r := by
  unfold named at hn
  split at hn
  · split at hn <;> cases hn
  · split at hn
    · split at hn <;> cases hn
    · split at hn
      · cases hn
      · split at hn
        next hrow =>
          cases hn
          rwa [pathObj_eq_self hg]
        · cases hn

theorem checked_refuses {o : Obj} {r : Row} {v c : Nat} {f : Nat → State → WRes} {s : State} (hrow : o.row = some r)
    (hc : r.check (s.get o) v = some c) : checked o v f s = .no s c := by
  simp [checked, hrow, hc]

/-- Beside PI_CONFIG and PI_COUNT an object of a position interface is plain (Table 4.6). -/
theorem wrPi_plain {o : Obj} {v : Nat} {s : State} (h3 : o.sub ≠ 3) (h4 : o.sub ≠ 4) : wrPi o v s = plain o v id s := by
  unfold wrPi
  split
  · contradiction
  · contradiction
  · rfl

theorem wrObj_pi {o : Obj} {v : Nat} {s : State} (hg : o.grp = .pi) : wrObj o v s = wrPi o v s := by
  simp only [wrObj, hg]

/-- Settles O53: of each refusal, the check of `dictWrite` that gives it, and the abort it is recorded with. -/
theorem refusedWritesChangeNothing : Obligations.RefusedWritesChangeNothing := by
  refine ⟨?partialWrite, ?unserved, ?nothing, ?sized, ?extension, ?readOnly, ?range⟩
  case partialWrite =>
    intro p index sub w s hp hr
    exact cmdWrite_of_dictWrite_ok hp hr dictWrite_partial
  case unserved =>
    intro p index sub w s hp hr hs
    exact cmdWrite_of_dictWrite_no hp hr (dictWrite_unserved hs)
  case nothing =>
    intro p index sub w s hp hr hs hn
    exact cmdWrite_of_dictWrite_ok hp hr (dictWrite_nothing hs hn)
  case sized =>
    intro p index sub w n s hp hr hs hn
    exact cmdWrite_of_dictWrite_no hp hr (dictWrite_sized hs hn)
  case extension =>
    intro p index sub w o r s hp hr hs hn hb hw
    exact cmdWrite_of_dictWrite_no hp hr (dictWrite_wrongExtension hs hn hb hw)
  case readOnly =>
    intro p index sub w o r s hp hr hs hn hb hw hacc
    exact cmdWrite_of_dictWrite_no hp hr ((dictWrite_num hs hn hb hw).trans (wrView_primary_readOnly hacc))
  case range =>
    intro p index sub w o r c s hp hr hs hn hg h3 h4 hacc hb hw hc
    have hrow : o.row = some r := row_of_named_num hn (by simp [hg])
    refine cmdWrite_of_dictWrite_no hp hr ?_
    calc dictWrite p .primary true index sub w s
        = wrView .primary o r (trunc r.ty.bits w) s := dictWrite_num hs hn (by omega) hw
      _ = wrObj o (trunc r.ty.bits w) s := wrView_primary_rw hacc
      _ = wrPi o (trunc r.ty.bits w) s := wrObj_pi hg
      _ = plain o (trunc r.ty.bits w) id s := wrPi_plain h3 h4
      _ = .no s c := checked_refuses hrow hc

end Sys2Proof.Machine
end

section
/-! How `step` runs the queue, and the state of the first RESET: O57, O58 and O54. -/
namespace Sys2Proof.Machine

/-! ### The queue -/

theorem step_of_pending_nil {s : State} (h : s.pending = []) : step s = .next s.idle := by
  simp only [step, h]

theorem step_of_pending_cons {s : State} {c : Instr} {rest : List Instr} (h : s.pending = c :: rest) :
    step s = exec c { s with pending := rest } := by
  simp only [step, h]

/-- A step keeps what every command keeps (`Keeps`), over the rest of the queue. -/
theorem step_keeps {u : Nat} {s : State} (hs : Keeps s.pending u s) : KeptO s.pending.tail u (step s) := by
  cases hq : s.pending with
  | nil =>
    rw [step_of_pending_nil hq]
    exact keptO_next (State.adv_keeps ⟨hs.mem, hs.sized, hs.up, hq⟩)
  | cons c rest =>
    rw [step_of_pending_cons hq]
    exact exec_keeps ⟨hs.mem, hs.sized, hs.up, rfl⟩

/-- A safe state keeps its own queue and uptime. -/
theorem State.safe.keeps {s : State} (h : s.safe) : Keeps s.pending s.up s := ⟨h.1, h.2, Nat.le_refl _, rfl⟩

/-- Settles O57: an answer of `step` is `Keeps` at the queue's rest and the uptime that was. -/
theorem stepTakesOneCommand : Obligations.StepTakesOneCommand := by
  intro s s' hsafe hstep
  have hkept : Keeps s.pending.tail s.up s' := (step_keeps hsafe.keeps).next s' hstep
  exact ⟨hkept.queue, hkept.up⟩

/-- Settles O58: the two branches of `step`, on the queue's front and on an empty queue. -/
theorem stepRunsTheFrontCommand : Obligations.StepRunsTheFrontCommand :=
  ⟨fun _ _ => step_of_pending_cons rfl, fun _ => step_of_pending_nil⟩

/-! ### The state of the first RESET -/

/-- After the first RESET every object but the journal's count is at its default. -/
theorem State.reset_get_of_ne {o : Obj} (h : o ≠ O.BK_JNL_COUNT) : State.reset.get o = o.dflt := by
  have hfind : cellFind State.reset.objs o = none := if_neg (Ne.symm h)
  rw [State.get, hfind, Option.getD_none]

/-- Settles O54: the objects by `State.reset_get_of_ne`, the rest by the fields that `State.reset` lists. -/
theorem resetState : Obligations.ResetState := by
  refine ⟨?mode, ?cause, ?result, rfl, ?unlocked, ?count, rfl, rfl, rfl, fun _ => State.reset_get_of_ne⟩
  case mode => exact State.reset_get_of_ne (by decide)
  case cause => exact State.reset_get_of_ne (by decide)
  case result => exact State.reset_get_of_ne (by decide)
  case unlocked => exact congrArg (bitOf · B.FI_STATUS_UNLOCKED) (State.reset_get_of_ne (by decide))
  case count => rfl

end Sys2Proof.Machine
end

section
/-! The clock conditions (R51 to R56), case by case of each command's guards, and O1 from them. -/
namespace Sys2Proof.Machine

section
variable {t : Nat} {s : State}

/-- A reference loss is recorded; holdover begins, or with HOLDOVER_EN clear the loss is one of lock (R51, R52). -/
theorem execRefLoss_of_refOk (hr : (s.adv t).clk.inReset = false) (hk : ckBit (s.adv t) B.CK_STATUS_REF_OK = true) :
    execRefLoss t s =
      let s1 := ((s.adv t).hit O.CK_EVENTS B.CK_EVENTS_REF_LOSS 540 1).ckPut B.CK_STATUS_REF_OK false
      .next (if s1.bit O.CK_CONTROL B.CK_CONTROL_HOLDOVER_EN then
          (s1.setClk { s1.clk with holdSince := some s1.up }).ckPut B.CK_STATUS_HOLDOVER true
        else (s1.ckPut B.CK_STATUS_ROOT_LOCKED false).clockFault B.CK_EVENTS_PLL_UNLOCK) := by
  simp only [execRefLoss, hr, hk, Bool.not_true, Bool.false_eq_true, or_self, if_false]
  exact (apply_ite _ _ _ _).symm

theorem execRefReturn_of_running (hr : (s.adv t).clk.inReset = false) :
    execRefReturn t s =
      .next ((((s.adv t).setClk { (s.adv t).clk with holdSince := none }).ckPut B.CK_STATUS_HOLDOVER false).ckPut
        B.CK_STATUS_REF_OK true) := by
  simp only [execRefReturn, hr, Bool.false_eq_true, if_false]

/-- Holdover that has lasted longer than CK_HOLDOVER_LIMIT inhibits, with decelerating stops (R52). -/
theorem execHoldoverExpired_of_late {a : Nat} (ha : (s.adv t).clk.holdSince = some a)
    (hl : a + (s.adv t).get O.CK_HOLDOVER_LIMIT * fuUs < (s.adv t).up) :
    execHoldoverExpired t s =
      .next (((s.adv t).setClk { (s.adv t).clk with holdSince := none }).clockInhibitOn B.CK_EVENTS_HOLDOVER_EXPIRED true) := by
  simp only [execHoldoverExpired, ha, if_neg (Nat.not_le.mpr hl)]

theorem execPllUnlock_of_locked (hr : (s.adv t).clk.inReset = false) (hh : ckBit (s.adv t) B.CK_STATUS_HOLDOVER = false)
    (hl : ckBit (s.adv t) B.CK_STATUS_ROOT_LOCKED = true) :
    execPllUnlock t s = .next (((s.adv t).ckPut B.CK_STATUS_ROOT_LOCKED false).clockFault B.CK_EVENTS_PLL_UNLOCK) := by
  simp [execPllUnlock, hr, hh, hl]

theorem execDivFault_of_divOk (hr : (s.adv t).clk.inReset = false) (hd : (s.adv t).clk.divBad = false) :
    execDivFault t s =
      .next (((s.adv t).setClk { (s.adv t).clk with divBad := true }).clockFault B.CK_EVENTS_DIV_FAULT) := by
  simp [execDivFault, hr, hd]

/-- Lock that returns within 200 µs of the fault ends the fault when the dividers are good (R53). -/
theorem execRootLockRegained_in_time {divOk : Bool} {a : Nat} (ha : (s.adv t).clk.lostAt = some a)
    (hl : (s.adv t).up ≤ a + 200 * fuUs) :
    execRootLockRegained divOk t s =
      .next (if divOk then
          ((s.adv t).ckPut B.CK_STATUS_ROOT_LOCKED true).setClk { (s.adv t).clk with lostAt := none, divBad := false }
        else (s.adv t).ckPut B.CK_STATUS_ROOT_LOCKED true) := by
  simp only [execRootLockRegained, ha, if_neg (Nat.not_lt.mpr hl)]
  rfl

theorem execLockLossTimeout_of_due {a : Nat} (ha : (s.adv t).clk.lostAt = some a) (hl : a + 200 * fuUs ≤ (s.adv t).up) :
    execLockLossTimeout t s = .next ((s.adv t).resetEvent 4) := by
  simp only [execLockLossTimeout, ha, if_neg (Nat.not_lt.mpr hl)]

theorem execPcieRefLoss_of_refOk (hr : (s.adv t).clk.inReset = false)
    (hk : ckBit (s.adv t) B.CK_STATUS_PCIE_REF_OK = true) :
    execPcieRefLoss t s =
      let s1 := ((s.adv t).hit O.CK_EVENTS B.CK_EVENTS_PCIE_REF_LOSS 540 1).ckPut B.CK_STATUS_PCIE_REF_OK false
      .next (s1.setEvs { s1.evs with linkUp := false }) := by
  simp [execPcieRefLoss, hr, hk]

/-- A crystal loss not yet reported moves the RTC to its RC oscillator, at a rate that is a free value (R56). -/
theorem execRtcXtalLoss_of_xtal (hx : (s.adv t).bit O.BK_STATUS B.BK_STATUS_RTC_RC = false) :
    execRtcXtalLoss t s =
      let s1 := (s.adv t).draw.2
      let s2 := ((s1.setBk { s1.bk with rcRate := 9277344 + (s.adv t).draw.1 % 976563 }).setB
        O.BK_STATUS B.BK_STATUS_RTC_RC true).journal 0xE 0
      .next (if s2.clk.inReset then s2
        else ((s2.ckPut B.CK_STATUS_RTC_XTAL_OK false).hit O.CK_EVENTS B.CK_EVENTS_RTC_XTAL_LOSS 540 1).raise 574 1
          (detailOf O.BK_STATUS B.BK_STATUS_RTC_RC)) := by
  simp only [execRtcXtalLoss, hx, Bool.false_eq_true, if_false]
  exact (apply_ite _ _ _ _).symm

theorem execRtcXtalRestored_of_rc (hx : (s.adv t).bit O.BK_STATUS B.BK_STATUS_RTC_RC = true) :
    execRtcXtalRestored t s =
      let s1 := (((s.adv t).setBk { (s.adv t).bk with rcRate := 0 }).setB O.BK_STATUS B.BK_STATUS_RTC_RC false).journal 0xE 1
      .next (if s1.clk.inReset then s1 else s1.ckPut B.CK_STATUS_RTC_XTAL_OK true) := by
  simp only [execRtcXtalRestored, hx, Bool.not_true, Bool.false_eq_true, if_false]

end

/-- Settles O1: each clause is the branch of its command that the guards let through. -/
theorem clockConditionsAct : Obligations.ClockConditionsAct := by
  refine ⟨?refLoss, ?refReturn, ?holdoverExpired, ?pllUnlock, ?divFault, ?rootLockRegained, ?lockLossTimeout,
    ?pcieRefLoss, ?rtcXtalLoss, ?rtcXtalRestored⟩
  case refLoss =>
    rintro t _ s hr hk rfl
    exact execRefLoss_of_refOk hr hk
  case refReturn => exact fun _ _ => execRefReturn_of_running
  case holdoverExpired => exact fun _ _ _ => execHoldoverExpired_of_late
  case pllUnlock => exact fun _ _ => execPllUnlock_of_locked
  case divFault => exact fun _ _ => execDivFault_of_divOk
  case rootLockRegained => exact fun _ _ _ _ => execRootLockRegained_in_time
  case lockLossTimeout => exact fun _ _ _ => execLockLossTimeout_of_due
  case pcieRefLoss => exact fun _ _ => execPcieRefLoss_of_refOk
  case rtcXtalLoss => exact fun _ _ => execRtcXtalLoss_of_xtal
  case rtcXtalRestored =>
    rintro t _ s hx rfl
    exact execRtcXtalRestored_of_rc hx

end Sys2Proof.Machine
end

section
/-! The writes of the clock's objects (R42, R43, R50, R54), and O2 from them. -/
namespace Sys2Proof.Machine

/-! ### Time and press time -/

@[simp] theorem State.rtcRun_up (s : State) (dt : Nat) : (s.rtcRun dt).up = s.up := by
  simp only [State.rtcRun, apply_ite State.up, State.addC_up, State.setBk_up, ite_self]

@[simp] theorem State.steerRun_up (s : State) (n : Nat) : (s.steerRun n).up = s.up := rfl
@[simp] theorem State.ptNote_up (s : State) (m : PtMark) : (s.ptNote m).up = s.up := rfl
@[simp] theorem State.ptSet_up (s : State) (off : Nat) : (s.ptSet off).up = s.up := rfl
@[simp] theorem State.ckPut_up (s : State) (b : Nat) (v : Bool) : (s.ckPut b v).up = s.up := rfl
@[simp] theorem State.ckPut_pt (s : State) (b : Nat) (v : Bool) : (s.ckPut b v).pt = s.pt := rfl

/-- Time that runs on reaches the uptime named. -/
theorem State.adv_up {s : State} {t : Nat} (h : s.up < t) : (s.adv t).up = t := by
  simp only [State.adv, if_neg (Nat.not_le.mpr h)]
  split <;> simp

/-- The offset of a press time `v` at uptime `u` gives `v` back. -/
theorem add_ofSigned_sub {u v : Nat} (h : v < 2 ^ 64) : (u + ofSigned 64 ((v : Int) - u)) % 2 ^ 64 = v := by
  simp only [ofSigned]
  omega

/-- Press time loaded by its offset is the value loaded. -/
theorem State.pt_ptSet_load {s : State} {v : Nat} (h : v < 2 ^ 64) :
    (s.ptSet (ofSigned 64 ((v : Int) - s.up))).pt = v := add_ofSigned_sub h

theorem ckBit_ckPut_self {s : State} {b : Nat} {v : Bool} (h : b < 32) : ckBit (s.ckPut b v) b = v :=
  State.bit_setB_self h

/-! ### Accesses that are served -/

theorem access_of_serves {p : Path} {o : Obj} {s : State} {f : State → WRes} (h : s.serves p o = true) :
    access p o s f = (f s).finish p o := by
  obtain ⟨hreach, hserved⟩ := Bool.and_eq_true_iff.mp h
  simp only [access, hreach, hserved, if_true]

theorem WRes.finish_ok {s : State} {p : Path} {o : Obj} {view : View} : (WRes.ok s).finish p o view = .next s := rfl

/-- A value that passes its row is written as the word the row leaves of it. -/
theorem checked_of_fits {o : Obj} {v : Nat} {f : Nat → State → WRes} {s : State} (h : s.fits o v = true) :
    checked o v f s = f (s.merged o v) s := by
  cases hrow : o.row with
  | none => simp only [State.fits, hrow, Bool.false_eq_true] at h
  | some r =>
    simp only [State.fits, hrow, Option.isNone_iff_eq_none] at h
    simp only [checked, State.merged, hrow, h]

/-! ### CK_PT_LOAD -/

/-- What CK_PT_LOAD leaves: at the next FIRE tick press time takes the offset of CK_PT_SET, and is valid (R42). -/
theorem wrPtLoad_accepted {s : State} (hm : s.mode ≠ mdPrint) (he : timedEntry s = false)
    (hs : ckBit s B.CK_STATUS_TIME_STEERED = false) (hv : s.get O.CK_PT_SET_LO + 2 ^ 32 * s.get O.CK_PT_SET_HI < 2 ^ 63)
    (ha : s.get O.CK_PT_SET_LO % 64 = 0) :
    wrPtLoad 1 s =
      let val : Nat := s.get O.CK_PT_SET_LO + 2 ^ 32 * s.get O.CK_PT_SET_HI
      let u := s.adv ((s.up / 64 + 1) * 64)
      .ok ((u.ptSet (ofSigned 64 ((val : Int) - u.up))).ckPut B.CK_STATUS_TIME_VALID true) := by
  have hrange : s.get O.CK_PT_SET_LO + 2 ^ 32 * s.get O.CK_PT_SET_HI < 2 ^ 63 ∧
      (s.get O.CK_PT_SET_LO + 2 ^ 32 * s.get O.CK_PT_SET_HI) % 64 = 0 := ⟨hv, by omega⟩
  simpa [wrPtLoad, hm, he, hs] using hrange

/-! ### CK_CONTROL -/

theorem ckBit_set_ckControl (s : State) (v b : Nat) : ckBit (s.set O.CK_CONTROL v) b = ckBit s b :=
  State.bit_of_get (State.get_set_ne (by decide))

/-- A write of CK_CONTROL that is served and passes its row stores the word the row leaves of it. -/
theorem cmdCkControl_of_fits {p : Path} {v : Nat} {s : State} (hserve : s.serves p O.CK_CONTROL = true)
    (hfits : s.fits O.CK_CONTROL v = true) :
    cmdCkControl p v s =
      (wrCkControl (s.merged O.CK_CONTROL v) (bitOf v B.CK_CONTROL_CLR_INHIBIT) s).finish p O.CK_CONTROL :=
  (access_of_serves hserve).trans (congrArg (WRes.finish · p _) (checked_of_fits hfits))

/-- While the delay lines are not frozen a write of CK_CONTROL without CLR_INHIBIT stores the word alone. -/
theorem wrCkControl_store {new : Nat} {s : State} (hf : frozen s = false) :
    wrCkControl new false s = .ok (s.set O.CK_CONTROL new) := by
  simp [wrCkControl, need, hf]

/-- With the clocks good, and the lines not frozen, CLR_INHIBIT ends the clock inhibit that stands (R54). -/
theorem wrCkControl_clear {new : Nat} {s : State} (hl : ckBit s B.CK_STATUS_ROOT_LOCKED = true)
    (hr : ckBit s B.CK_STATUS_REF_OK = true) (hd : s.clk.divBad = false) (hi : clockInhibit s = true)
    (hf : frozen s = false) :
    wrCkControl new true s =
      .ok ((((s.set O.CK_CONTROL new).ckPut B.CK_STATUS_CLOCK_INHIBIT false).inhibitSync).forAll pis
        (fun s i => (s.predSync i).predUpdate i)) := by
  have hi' : clockInhibit (s.set O.CK_CONTROL new) = true := (ckBit_set_ckControl s new _).trans hi
  simp [wrCkControl, need, hl, hr, hd, hf, hi']

/-- Settles O2: each write is served and passes its row, and the object's own write gives the rest. -/
theorem clockWritesAct : Obligations.ClockWritesAct := by
  refine ⟨?ptLoad, ?snapshot, ?clrInhibit, ?dlFreeze⟩
  case ptLoad =>
    intro p s hserve hm he hs hv ha
    have hup : (s.adv ((s.up / 64 + 1) * 64)).up = (s.up / 64 + 1) * 64 := State.adv_up (by omega)
    refine ⟨_, (access_of_serves hserve).trans (congrArg (WRes.finish · p _) (wrPtLoad_accepted hm he hs hv ha)), ?pt, hup,
      ?valid⟩
    case pt => exact State.pt_ptSet_load (by omega)
    case valid => exact ckBit_ckPut_self (by decide)
  case snapshot => exact fun p s hserve => access_of_serves hserve
  case clrInhibit =>
    intro p s hserve hl hr hd hfits hi hf
    refine (cmdCkControl_of_fits hserve hfits).trans ?_
    rw [bitOf_putBit_self, wrCkControl_clear hl hr hd hi hf, WRes.finish_ok]
  case dlFreeze =>
    intro p on s hserve hfits hc hf
    refine (cmdCkControl_of_fits hserve hfits).trans ?_
    rw [bitOf_putBit_ne (by decide), hc, wrCkControl_store hf, WRes.finish_ok]

end Sys2Proof.Machine
end

section
/-! What sending a cell leaves alone, and accesses that are accepted. -/
namespace Sys2Proof.Machine

/-- A served access whose write is accepted leaves the state the write leaves. -/
theorem access_of_ok {p : Path} {o : Obj} {s s' : State} {f : State → WRes} (h : s.serves p o = true)
    (hf : f s = .ok s') : access p o s f = .next s' := by
  rw [access_of_serves h, hf, WRes.finish_ok]

/-! ### Sending a cell (R61, R63) -/

/-- Two states that differ at most in SEQ, the output's next slot, the cells that wait, and what has been sent. -/
def State.sendSame (s t : State) : Prop :=
  ∃ n a q l, t = { s with ring := { s.ring with seq := n, slotAt := a, fq := q }, out := l }

theorem State.sendSame.refl (s : State) : s.sendSame s := ⟨s.ring.seq, s.ring.slotAt, s.ring.fq, s.out, rfl⟩

theorem State.sendSame.trans {s t r : State} (h : s.sendSame t) (h' : t.sendSame r) : s.sendSame r := by
  obtain ⟨_, _, _, _, rfl⟩ := h
  obtain ⟨n, a, q, l, rfl⟩ := h'
  exact ⟨n, a, q, l, rfl⟩

theorem State.ringOut_sendSame (k : Nat) : ∀ s : State, s.sendSame (s.ringOut k) := by
  induction k with
  | zero => exact State.sendSame.refl
  | succ k ih =>
    intro s
    simp only [State.ringOut]
    split
    · exact State.sendSame.refl s
    · split
      · exact State.sendSame.refl s
      · split
        · exact State.sendSame.refl s
        · exact State.sendSame.trans ⟨_, _, _, _, rfl⟩ (ih _)

theorem State.cellPut_sendSame (s : State) (c : RCell) : s.sendSame (s.cellPut c) :=
  State.sendSame.trans ⟨_, _, _, _, rfl⟩ (State.ringOut_sendSame _ _)

theorem State.sendFor_sendSame (s : State) (src type : Nat) (fields : List Nat) (slots : Nat) :
    s.sendSame (s.sendFor src type fields slots) := by
  simp only [State.sendFor]
  split
  · exact State.sendSame.refl s
  · exact State.sendSame.trans ⟨_, _, _, _, rfl⟩ (State.cellPut_sendSame _ _)

theorem State.sendCell_sendSame (s : State) (type : Nat) (fields : List Nat) (slots : Nat) :
    s.sendSame (s.sendCell type fields slots) := State.sendFor_sendSame _ _ _ _ _

theorem State.sendSame.get {s t : State} (h : s.sendSame t) (o : Obj) : t.get o = s.get o := by
  obtain ⟨_, _, _, _, rfl⟩ := h
  rfl

theorem State.sendSame.electing {s t : State} (h : s.sendSame t) : t.ring.electing = s.ring.electing := by
  obtain ⟨_, _, _, _, rfl⟩ := h
  rfl

theorem State.sendSame.enumOut {s t : State} (h : s.sendSame t) : t.ring.enumOut = s.ring.enumOut := by
  obtain ⟨_, _, _, _, rfl⟩ := h
  rfl

theorem State.sendSame.sentTime {s t : State} (h : s.sendSame t) : t.ring.sentTime = s.ring.sentTime := by
  obtain ⟨_, _, _, _, rfl⟩ := h
  rfl

end Sys2Proof.Machine
end

section
/-! The forming of the ring, its input and its breaks (R61 to R66, R82 to R84), and O5 from their commands. -/
namespace Sys2Proof.Machine

section
variable {t : Nat} {s : State}

/-! ### The input (R61, R64) -/

theorem execRingInputUp_of_down (hr : (s.ringAdv t).clk.inReset = false)
    (hd : fjBit (s.ringAdv t) B.FJ_STATUS_IN_LINK_UP = false) :
    execRingInputUp t s =
      let s1 := (s.ringAdv t).setRing
        { (s.ringAdv t).ring with upAt := (s.ringAdv t).up, badAt := [], electing := false, formDue := true }
      .next ((s1.fjPut B.FJ_STATUS_IN_LINK_UP true).fjHit B.FJ_EVENTS_LINK_UP 542) := by
  simp only [execRingInputUp, hr, hd, Bool.false_eq_true, or_self, if_false]

theorem execRingInputDown_of_hears (hh : hears (s.ringAdv t) = true) :
    execRingInputDown t s = .next (s.ringAdv t).inputDown := by
  simp only [execRingInputDown, hh, if_true]

theorem window_inc (s : State) (o : Obj) (l : List Nat) : window (s.inc o) l = window s l := rfl

/-- Up to 16 discarded cells in 1 ms are counted, and the input stays up (R64). -/
theorem execCellRxError_of_few (hr : (s.ringAdv t).clk.inReset = false)
    (hf : (window (s.ringAdv t) (s.ringAdv t).ring.badAt).length ≤ 16) :
    execCellRxError t s =
      .next (((s.ringAdv t).inc O.FJ_CRC_ERRORS).setRing
        { (s.ringAdv t).ring with badAt := window (s.ringAdv t) (s.ringAdv t).ring.badAt }) := by
  have hfew : ¬ 16 < (window (s.ringAdv t) (s.ringAdv t).ring.badAt).length := Nat.not_lt.mpr hf
  simp only [execCellRxError, hr, State.inc_ring, State.setRing_self, window_inc, hfew, decide_false, Bool.false_and,
    Bool.false_eq_true, if_false]

/-! ### Elections (R64, R65) -/

/-- An election is due 100 µs after the input came up, where no TIME cell has come in the last 100 µs (R64). -/
theorem execElectionStart_of_due (hh : hears (s.ringAdv t) = true) (hp : ringPassive (s.ringAdv t) = false)
    (he : (s.ringAdv t).ring.electing = false) (hf : (s.ringAdv t).ring.formDue = true)
    (hu : (s.ringAdv t).ring.upAt + 100 * fuUs ≤ (s.ringAdv t).up)
    (hq : (s.ringAdv t).ring.timeAt.all (fun a => decide (a + 100 * fuUs ≤ (s.ringAdv t).up)) = true) :
    execElectionStart t s = .next (s.ringAdv t).elect := by
  have hlate : ¬ (s.ringAdv t).up < (s.ringAdv t).ring.upAt + 100 * fuUs := Nat.not_lt.mpr hu
  cases ha : (s.ringAdv t).ring.timeAt with
  | none =>
    simp only [execElectionStart, hh, hp, he, hf, hlate, ha, Bool.not_true, Bool.false_eq_true, false_and, or_self, if_false]
  | some a =>
    have hquiet : decide (a + 100 * fuUs ≤ (s.ringAdv t).up) = true :=
      (Option.all_eq_true _ _).mp hq a ha
    simp only [execElectionStart, hh, hp, he, hf, hlate, ha, hquiet, Bool.not_true, Bool.false_eq_true, false_and, or_self,
      if_false]

/-- A node that does not stand and hears no candidate for 50 µs forms with no master (R65, log 87). -/
theorem execElectionStart_of_unheard (hh : hears (s.ringAdv t) = true) (hp : ringPassive (s.ringAdv t) = false)
    (he : (s.ringAdv t).ring.electing = true) (hs : stands (s.ringAdv t) = false)
    (hc : (s.ringAdv t).ring.heardElect = false) (hu : (s.ringAdv t).ring.electAt + 50 * fuUs ≤ (s.ringAdv t).up) :
    execElectionStart t s = .next (s.ringAdv t).formNoMaster := by
  have hlate : ¬ (s.ringAdv t).up < (s.ringAdv t).ring.electAt + 50 * fuUs := Nat.not_lt.mpr hu
  simp only [execElectionStart, hh, hp, he, hs, hc, hlate, Bool.not_true, Bool.false_eq_true, or_self, if_false, if_true]

theorem enabled_of_not_ringPassive {s : State} (h : ringPassive s = false) :
    s.bit O.FJ_CONTROL B.FJ_CONTROL_ENABLE = true := by
  simp only [ringPassive, Bool.or_eq_false_iff, Bool.not_eq_false'] at h
  exact h.1.2

/-- A write of FJ_CONTROL with REFORM that leaves the node taking part starts an election (R84). -/
theorem wrFjControl_reform {new : Nat} (hp : ringPassive (s.set O.FJ_CONTROL new) = false) :
    wrFjControl new true s = .ok (s.set O.FJ_CONTROL new).elect := by
  simp [wrFjControl, enabled_of_not_ringPassive hp, hp]

/-! ### ELECT cells (R65) -/

/-- The node is the master: it has number 0, steers itself no more, and its ENUM cell is about to leave (R66). -/
def State.becomeMaster (s : State) : State :=
  let s := (s.numberTo 0 false).fjPut B.FJ_STATUS_MASTER true
  let s := ((s.fjPut B.FJ_STATUS_NO_MASTER false).fjPut B.FJ_STATUS_RING_HOLDOVER false).set O.CK_RATE_ADJ 0
  let s := s.setB O.CK_STATUS B.CK_STATUS_TIME_STEERED false
  s.setRing { s.ring with enumAt := s.up, enumOut := true, sentTime := false, i := 0, acc := 0, row := 0, timeOut := [] }

theorem State.becomeMaster_electing (s : State) : s.becomeMaster.ring.electing = false := rfl
theorem State.becomeMaster_enumOut (s : State) : s.becomeMaster.ring.enumOut = true := rfl
theorem State.becomeMaster_sentTime (s : State) : s.becomeMaster.ring.sentTime = false := rfl

theorem State.get_fjPut_ne {s : State} {o : Obj} {b : Nat} {v : Bool} (h : o ≠ O.FJ_STATUS) :
    (s.fjPut b v).get o = s.get o := State.get_setB_ne h

theorem fjBit_fjPut_self {s : State} {b : Nat} {v : Bool} (h : b < 32) : fjBit (s.fjPut b v) b = v :=
  State.bit_setB_self h

theorem fjBit_fjPut_ne {s : State} {b j : Nat} {v : Bool} (h : j ≠ b) (hj : j < 32) :
    fjBit (s.fjPut b v) j = fjBit s j := State.bit_setB_ne h hj

theorem fjBit_of_get {s s' : State} {b : Nat} (h : s'.get O.FJ_STATUS = s.get O.FJ_STATUS) : fjBit s' b = fjBit s b :=
  State.bit_of_get h

theorem State.numberTo_node (s : State) (k : Nat) : (s.numberTo k false).get O.FJ_NODE = trunc 8 k := by
  simp only [State.numberTo, Bool.false_eq_true, if_false]
  rw [State.get_fjPut_ne (by decide), State.get_fjPut_ne (by decide), State.get_set_self]
  rfl

theorem State.becomeMaster_node (s : State) : s.becomeMaster.get O.FJ_NODE = 0 := by
  simp only [State.becomeMaster, State.setRing_get]
  rw [State.get_setB_ne (by decide), State.get_set_ne (by decide), State.get_fjPut_ne (by decide),
    State.get_fjPut_ne (by decide), State.get_fjPut_ne (by decide), State.numberTo_node]
  rfl

theorem State.becomeMaster_master (s : State) : fjBit s.becomeMaster B.FJ_STATUS_MASTER = true := by
  simp only [State.becomeMaster]
  refine (fjBit_of_get ((State.setRing_get _ _ _).trans
    ((State.get_setB_ne (by decide)).trans (State.get_set_ne (by decide))))).trans ?_
  rw [fjBit_fjPut_ne (by decide) (by decide), fjBit_fjPut_ne (by decide) (by decide), fjBit_fjPut_self (by decide)]

section
variable {src hops seq uid priority flags : Nat}

/-- The node's own ELECT cell has come round: the node is the master, and numbers the ring (R65, R66). -/
theorem execElectCellRx_own (hh : hears (s.ringAdv t) = true) (hp : ringPassive (s.ringAdv t) = false)
    (hs : stands (s.ringAdv t) = true) (he : (s.ringAdv t).ring.electing = true) :
    execElectCellRx src hops seq ((s.ringAdv t).get O.FJ_UID) priority flags t s =
      let s1 := (s.ringAdv t).becomeMaster
      .next (s1.sendCell 3 [s1.get O.FJ_UID, 1, 0]) := by
  simp only [execElectCellRx, hh, hp, hs, he, Bool.not_true, Bool.false_eq_true, true_and, if_false, if_true]
  rfl

theorem execElectCellRx_of_passive (hh : hears (s.ringAdv t) = true) (hp : ringPassive (s.ringAdv t) = true) :
    execElectCellRx src hops seq uid priority flags t s =
      .next ((s.ringAdv t).forward 2 src hops seq [uid, priority, flags]) := by
  simp only [execElectCellRx, hh, hp, Bool.not_true, Bool.false_eq_true, if_false, if_true]

/-- An electing node forwards the candidates that outrank it, and all of them where it does not stand (R65). -/
theorem execElectCellRx_of_candidate (hh : hears (s.ringAdv t) = true) (hp : ringPassive (s.ringAdv t) = false)
    (hu : uid ≠ (s.ringAdv t).get O.FJ_UID) (he : (s.ringAdv t).ring.electing = true) :
    execElectCellRx src hops seq uid priority flags t s =
      let s1 := (s.ringAdv t).setRing { (s.ringAdv t).ring with heardElect := true }
      .next (if !stands s1 || (⟨bitOf flags 0, bitOf flags 1, priority, uid⟩ : Rank).beats (ownRank s1) then
          s1.forward 2 src hops seq [uid, priority, flags]
        else s1) := by
  simp only [execElectCellRx, hh, hp, hu, he, Bool.not_true, Bool.false_eq_true, false_and, if_false, if_true]

end

/-! ### ENUM and ROSTER cells (R66) -/

theorem execEnumCellRx_of_free {src hops seq master next passive : Nat} (hh : hears (s.ringAdv t) = true)
    (hm : (s.ringAdv t).mode ≠ mdBoot) (he : (s.ringAdv t).bit O.FJ_CONTROL B.FJ_CONTROL_ENABLE = true)
    (hf : fjBit (s.ringAdv t) B.FJ_STATUS_MASTER = false) (hn : next ≤ 15) :
    execEnumCellRx src hops seq master next passive t s =
      .next (((s.ringAdv t).numberTo next false).forward 3 src hops seq [master, next + 1, passive]) := by
  simp [execEnumCellRx, hh, hm, he, hf, hn]

theorem execRosterCellRx_of_other {src hops seq master size passive formedAt loop : Nat}
    (hh : hears (s.ringAdv t) = true) (ho : ownCell (s.ringAdv t) src = false) (hm : (s.ringAdv t).mode ≠ mdBoot)
    (he : (s.ringAdv t).bit O.FJ_CONTROL B.FJ_CONTROL_ENABLE = true)
    (hf : fjBit (s.ringAdv t) B.FJ_STATUS_MASTER = false) :
    execRosterCellRx src hops seq master size passive formedAt loop t s =
      .next (((s.ringAdv t).ringForm master size passive formedAt loop).forward 4 src hops seq
        [master, size, passive, formedAt, loop]) := by
  simp [execRosterCellRx, hh, ho, hm, he, hf]

/-! ### Breaks (R82) -/

theorem execRingBreakDetect_of_late (hf : fjBit (s.ringAdv t) B.FJ_STATUS_MASTER = true)
    (hl : ∃ p ∈ (s.ringAdv t).ring.timeOut,
      p.2 + (s.ringAdv t).get O.FJ_LOOP_DELAY / 256 + 2 * fuUs < (s.ringAdv t).up) :
    execRingBreakDetect t s = .next (s.ringAdv t).breakCell.ringBroke := by
  have hlate : (s.ringAdv t).ring.timeOut.any
      (fun p => decide (p.2 + (s.ringAdv t).get O.FJ_LOOP_DELAY / 256 + 2 * fuUs < (s.ringAdv t).up)) = true := by
    simpa only [List.any_eq_true, decide_eq_true_eq] using hl
  simp only [execRingBreakDetect, hf, hlate, Bool.not_true, Bool.false_eq_true, or_self, if_false]

/-- FAULT action 2 inhibits firing from the ring; the inhibits that stood are those of before the event (R82). -/
theorem execFaultCellRx_inhibits {src hops seq ev cls raised detail : Nat} (hh : hears (s.ringAdv t) = true)
    (ho : ownCell (s.ringAdv t) src = false) (hn : ringNode (s.ringAdv t) = true)
    (ha : faultAction (s.ringAdv t) (cls % 4) = 2) (hc : cls ≠ 3) :
    execFaultCellRx src hops seq ev cls raised detail t s =
      let word := putBit ((s.ringAdv t).get O.MD_INHIBIT_STATUS) B.MD_INHIBIT_STATUS_RING_FIRE true
      .next ((((s.ringAdv t).fjHit B.FJ_EVENTS_FAULT_RX 545).inhibitWith word).forward 7 src hops seq
        [ev, cls, raised, detail]) := by
  have hword : ((s.ringAdv t).fjHit B.FJ_EVENTS_FAULT_RX 545).get O.MD_INHIBIT_STATUS =
      (s.ringAdv t).get O.MD_INHIBIT_STATUS := State.get_hit_ne (by decide) (by decide) (by decide)
  simp [execFaultCellRx, hh, ho, hn, ha, hc, hword]

end

/-- Settles O5: each clause is the branch of its command that the guards let through. -/
theorem ringFormsAndBreaks : Obligations.RingFormsAndBreaks := by
  refine ⟨?inputUp, ?inputDown, ?rxError, ?electionStart, ?noMaster, ?reform, ?electOwn, ?electPassive, ?candidate,
    ?enumerate, ?roster, ?breakDetect, ?faultRx⟩
  case inputUp => exact fun _ _ => execRingInputUp_of_down
  case inputDown => exact fun _ _ => execRingInputDown_of_hears
  case rxError =>
    intro t s hr hf
    exact ⟨_, execCellRxError_of_few hr hf, State.get_inc_self _ _, rfl, fun _ => State.get_inc_ne⟩
  case electionStart => exact fun _ _ => execElectionStart_of_due
  case noMaster => exact fun _ _ => execElectionStart_of_unheard
  case reform => exact fun p s hserve hp => access_of_ok hserve (wrFjControl_reform hp)
  case electOwn =>
    intro src hops seq priority flags t s hh hp hs he
    have hsame := (s.ringAdv t).becomeMaster.sendCell_sendSame 3 [(s.ringAdv t).becomeMaster.get O.FJ_UID, 1, 0] 1
    exact ⟨_, execElectCellRx_own hh hp hs he,
      (hsame.get _).trans (State.becomeMaster_node _),
      (fjBit_of_get (hsame.get _)).trans (State.becomeMaster_master _),
      hsame.electing.trans (State.becomeMaster_electing _),
      hsame.enumOut.trans (State.becomeMaster_enumOut _),
      hsame.sentTime.trans (State.becomeMaster_sentTime _)⟩
  case electPassive => exact fun _ _ _ _ _ _ _ _ => execElectCellRx_of_passive
  case candidate =>
    rintro src hops seq uid priority flags t _ s hh hp hu he rfl
    exact execElectCellRx_of_candidate hh hp hu he
  case enumerate => exact fun _ _ _ _ _ _ _ _ => execEnumCellRx_of_free
  case roster => exact fun _ _ _ _ _ _ _ _ _ _ => execRosterCellRx_of_other
  case breakDetect => exact fun _ _ => execRingBreakDetect_of_late
  case faultRx => exact fun _ _ _ _ _ _ _ _ _ => execFaultCellRx_inhibits

end Sys2Proof.Machine
end

section
/-! Press time over the ring: TIME cells, ring holdover and echoes (R68 to R73), and O6 from their commands. -/
namespace Sys2Proof.Machine

section
variable {t : Nat} {s : State}

/-! ### TIME cells (R69, R70) -/

/-- The master's next TIME cell of a form goes out on an intact ring, and is awaited (R69, R82). -/
theorem execTimeCellLaunch_of_due (hr : (s.ringAdv t).clk.inReset = false)
    (hm : fjBit (s.ringAdv t) B.FJ_STATUS_MASTER = true) (he : (s.ringAdv t).ring.electing = false)
    (hp : ringPassive (s.ringAdv t) = false) (hi : fjBit (s.ringAdv t) B.FJ_STATUS_RING_INTACT = true)
    (ho : (s.ringAdv t).ring.enumOut = false) (hs : (s.ringAdv t).ring.sentTime = true)
    (hd : (s.ringAdv t).ring.timeSent + (s.ringAdv t).get O.FJ_TIME_PERIOD * fuUs ≤ (s.ringAdv t).up) :
    execTimeCellLaunch t s =
      let s1 := s.ringAdv t
      .next ((s1.setRing { s1.ring with
          timeSeq := (s1.ring.timeSeq + 1) % 65536
          sentTime := true
          timeSent := s1.up
          timeOut := s1.ring.timeOut ++ [(s1.ring.timeSeq, s1.up)] }).sendCell 1
        [s1.pt, s1.get O.FJ_HOP_DELAY, s1.ring.timeSeq,
          1 + 2 * (s1.bit O.CK_STATUS B.CK_STATUS_HOLDOVER).toNat + 4 * (s1.bit O.FJ_CONTROL B.FJ_CONTROL_NO_STEP).toNat,
          s1.get O.FJ_RING_SIZE]) := by
  have hnotEarly : ¬ (s.ringAdv t).up < (s.ringAdv t).ring.timeSent + (s.ringAdv t).get O.FJ_TIME_PERIOD * fuUs :=
    Nat.not_lt.mpr hd
  simp only [execTimeCellLaunch, hr, hm, he, hp, hi, ho, hs, hnotEarly, decide_false, Bool.and_false, Bool.not_true,
    Bool.false_eq_true, or_self, false_and, if_false, if_true, Bool.toNat_true]
  rfl

/-- A follower steers by the offset of a TIME cell of an intact ring, and forwards the cell with its residence time and the
hop delay added (R69, R70). -/
theorem execTimeCellRx_of_follower {src hops seq origin corr tseq flags size arr launch : Nat}
    (hh : hears (s.ringAdv t) = true) (hm : fjBit (s.ringAdv t) B.FJ_STATUS_MASTER = false)
    (ho : ownCell (s.ringAdv t) src = false) (hb : (s.ringAdv t).mode ≠ mdBoot)
    (he : (s.ringAdv t).bit O.FJ_CONTROL B.FJ_CONTROL_ENABLE = true) (hi : bitOf flags 0 = true) :
    execTimeCellRx src hops seq origin corr tseq flags size arr launch t s =
      let offset := toSigned 72 (ofSigned 72 ((arr : Int) - (origin * 256 + toSigned 48 corr)))
      let s1 := ((s.ringAdv t).setRing { (s.ringAdv t).ring with timeAt := some (s.ringAdv t).up }).follow offset
        (bitOf flags 2)
      .next (s1.forward 1 src hops seq
        [origin, ofSigned 48 (toSigned 48 corr + ((launch : Int) - arr) + (s1.get O.FJ_HOP_DELAY)), tseq, flags, size]) := by
  have hpart (x : Ring) : (decide (((s.ringAdv t).setRing x).mode ≠ mdBoot) &&
      ((s.ringAdv t).setRing x).bit O.FJ_CONTROL B.FJ_CONTROL_ENABLE) = true :=
    Bool.and_eq_true_iff.mpr ⟨decide_eq_true hb, he⟩
  simp only [execTimeCellRx, hh, hm, ho, hi, hpart, Bool.not_true, Bool.false_eq_true, or_self, if_false, if_true]

/-! ### Ring holdover (R73) -/

theorem State.holdoverEnter_of_follower {s : State} (hm : fjBit s B.FJ_STATUS_MASTER = false)
    (hh : fjBit s B.FJ_STATUS_RING_HOLDOVER = false) (hs : s.bit O.CK_STATUS B.CK_STATUS_TIME_STEERED = true)
    (hn : fjBit s B.FJ_STATUS_NO_MASTER = false) :
    s.holdoverEnter =
      ((s.setRing { s.ring with holdAt := s.up }).fjPut B.FJ_STATUS_RING_HOLDOVER true).lockLost 1 := by
  simp only [State.holdoverEnter, hm, hh, hs, hn, Bool.not_true, Bool.false_eq_true, or_self, if_false]

theorem execRingHoldoverEnter_of_late {a : Nat} (ha : (s.ringAdv t).ring.timeAt = some a)
    (hd : a + (2 * (s.ringAdv t).get O.FJ_TIME_PERIOD + 10) * fuUs ≤ (s.ringAdv t).up) :
    execRingHoldoverEnter t s = .next (s.ringAdv t).holdoverEnter := by
  simp only [execRingHoldoverEnter, ha, if_neg (Nat.not_lt.mpr hd)]

theorem execRingHoldoverExpiry_of_due (hh : fjBit (s.ringAdv t) B.FJ_STATUS_RING_HOLDOVER = true)
    (hd : (s.ringAdv t).ring.holdAt + (s.ringAdv t).get O.FJ_TIME_HOLDOVER * fuUs ≤ (s.ringAdv t).up) :
    execRingHoldoverExpiry t s = .next ((s.ringAdv t).setB O.CK_STATUS B.CK_STATUS_TIME_VALID false) :=
  if_pos ⟨hh, hd⟩

/-! ### Echoes (R68) -/

theorem execEchoLaunch_first (hr : (s.ringAdv t).clk.inReset = false)
    (hen : (s.ringAdv t).bit O.FJ_CONTROL B.FJ_CONTROL_ECHO_EN = true) (ha : (s.ringAdv t).ring.echoAt = none)
    (hl : (s.ringAdv t).ring.echoLast = none) :
    execEchoLaunch t s =
      .next (((s.ringAdv t).setRing { (s.ringAdv t).ring with
        echoAt := some ((s.ringAdv t).pt, (s.ringAdv t).up)
        echoLast := some (s.ringAdv t).up }).sendCell 8 [] 4) := by
  simp only [execEchoLaunch, hr, hen, ha, hl, Option.isSome_none, Bool.not_true, Bool.false_eq_true, or_self, if_false]

theorem execEchoCellRx_of_hears (hh : hears (s.ringAdv t) = true) :
    execEchoCellRx t s = .next ((s.ringAdv t).emit (.note "return mark" [(s.ringAdv t).up + 6144])) := by
  simp only [execEchoCellRx, hh, if_true]

/-- The single hop delay that an echo launched at press time `t0` and marked at `t2` measures, in 1/256 fu. -/
def echoDelay (t0 t2 : Nat) : Nat := (128 * (toSigned 64 (t2 + 2 ^ 64 - t0) - 6144 - Config.turn)).toNat

/-- The node takes a measured hop delay in among the last 256. -/
def State.echoTaken (s : State) (d : Nat) : State :=
  s.setRing { s.ring with
    echoAt := none
    hops := (d :: s.ring.hops).take 256
    echoMiss := 0
    echoes := s.ring.echoes + 1 }

/-- FJ_HOP_DELAY takes the mean of the measured hop delays, and a rise out of its range is reported (R68). -/
def State.hopDelayUpdate (s : State) : State :=
  let s1 := s.set O.FJ_HOP_DELAY (divRound (s.ring.hops.sum : Nat) s.ring.hops.length).toNat
  let lim := 1536 * 256
  if s.get O.FJ_HOP_DELAY ≤ lim ∧ lim < s1.get O.FJ_HOP_DELAY then
    s1.fjHit B.FJ_EVENTS_HOP_DELAY_RANGE 542 1
  else s1

theorem State.hopDelayUpdate_ring (s : State) : s.hopDelayUpdate.ring = s.ring := by
  simp only [State.hopDelayUpdate]
  split
  · exact State.hit_ring _ _ _ _ _
  · rfl

theorem State.hopDelayUpdate_hopDelay (s : State) :
    s.hopDelayUpdate.get O.FJ_HOP_DELAY = (divRound (s.ring.hops.sum : Nat) s.ring.hops.length).toNat % 2 ^ 32 := by
  simp only [State.hopDelayUpdate]
  split
  · exact (State.get_hit_ne (by decide) (by decide) (by decide)).trans (State.get_set_self _ _ _)
  · exact State.get_set_self _ _ _

theorem execEchoMarkRx_uncounted {t0 t2 u : Nat} (ha : (s.ringAdv t).ring.echoAt = some (t0, u))
    (hd : toSigned 64 (t2 + 2 ^ 64 - t0) ≤ 20480)
    (hen : (s.ringAdv t).bit O.FJ_CONTROL B.FJ_CONTROL_ECHO_EN = false) :
    execEchoMarkRx t2 t s = .next ((s.ringAdv t).echoTaken (echoDelay t0 t2)) := by
  have hoff (x : Ring) : ((s.ringAdv t).setRing x).bit O.FJ_CONTROL B.FJ_CONTROL_ECHO_EN = false := hen
  simp only [execEchoMarkRx, ha, if_neg (Int.not_lt.mpr hd), hoff, Bool.not_false, if_true]
  rfl

theorem execEchoMarkRx_counted {t0 t2 u : Nat} (ha : (s.ringAdv t).ring.echoAt = some (t0, u))
    (hd : toSigned 64 (t2 + 2 ^ 64 - t0) ≤ 20480)
    (hen : (s.ringAdv t).bit O.FJ_CONTROL B.FJ_CONTROL_ECHO_EN = true) :
    execEchoMarkRx t2 t s = .next ((s.ringAdv t).echoTaken (echoDelay t0 t2)).hopDelayUpdate := by
  have hon (x : Ring) : ((s.ringAdv t).setRing x).bit O.FJ_CONTROL B.FJ_CONTROL_ECHO_EN = true := hen
  simp only [execEchoMarkRx, ha, if_neg (Int.not_lt.mpr hd), hon, Bool.not_true, Bool.false_eq_true, if_false]
  rfl

theorem execEchoTimeout_of_late {a u : Nat} (ha : (s.ringAdv t).ring.echoAt = some (a, u))
    (hd : u + 20480 ≤ (s.ringAdv t).up) : execEchoTimeout t s = .next (s.ringAdv t).echoMissed := by
  simp only [execEchoTimeout, ha, if_neg (Nat.not_lt.mpr hd)]

end

/-- Settles O6: each clause is the branch of its command that the guards let through. -/
theorem ringTimeActs : Obligations.RingTimeActs := by
  refine ⟨?timeLaunch, ?timeRx, ?holdoverEnter, ?holdoverExpiry, ?echoLaunch, ?echoRx, ?markUncounted, ?markCounted,
    ?echoTimeout⟩
  case timeLaunch => exact fun _ _ => execTimeCellLaunch_of_due
  case timeRx => exact fun _ _ _ _ _ _ _ _ _ _ _ _ => execTimeCellRx_of_follower
  case holdoverEnter =>
    intro t a s ha hd hm hh hs hn
    exact (execRingHoldoverEnter_of_late ha hd).trans
      (congrArg Host.Outcome.next (State.holdoverEnter_of_follower hm hh hs hn))
  case holdoverExpiry => exact fun _ _ => execRingHoldoverExpiry_of_due
  case echoLaunch => exact fun _ _ => execEchoLaunch_first
  case echoRx => exact fun _ _ => execEchoCellRx_of_hears
  case markUncounted => exact fun _ _ _ _ _ => execEchoMarkRx_uncounted
  case markCounted =>
    intro t2 t t0 u s ha hd hen
    refine ⟨_, execEchoMarkRx_counted ha hd hen, ?_⟩
    rw [State.hopDelayUpdate_ring]
    exact ⟨rfl, rfl, rfl, State.hopDelayUpdate_hopDelay _⟩
  case echoTimeout => exact fun _ _ _ _ => execEchoTimeout_of_late

end Sys2Proof.Machine
end

section
/-! The slow requests over the ring (R81), and O7 from their commands. -/
namespace Sys2Proof.Machine

section
variable {t : Nat} {s : State}

theorem ownCell_of_not_ringNode {s : State} {src : Nat} (hn : ringNode s = false) : ownCell s src = false := by
  simp [ownCell, hn]

theorem execSlowCellRx_of_numbered {src hops seq source unit raised : Nat} {assert : Bool}
    (hh : hears (s.ringAdv t) = true) (ho : ownCell (s.ringAdv t) src = false) (hn : ringNode (s.ringAdv t) = true) :
    execSlowCellRx src hops seq assert source unit raised t s =
      let s1 := (s.ringAdv t).setRing
        { (s.ringAdv t).ring with slowAt := tput (s.ringAdv t).ring.slowAt (src % 16) (s.ringAdv t).up }
      .next ((s1.slowRx (src % 16) assert).forward 6 src hops seq [assert.toNat, source, unit, raised]) := by
  simp [execSlowCellRx, hh, ho, hn]

theorem execSlowCellRx_of_unnumbered {src hops seq source unit raised : Nat} {assert : Bool}
    (hh : hears (s.ringAdv t) = true) (hn : ringNode (s.ringAdv t) = false) :
    execSlowCellRx src hops seq assert source unit raised t s =
      .next ((s.ringAdv t).forward 6 src hops seq [assert.toNat, source, unit, raised]) := by
  simp [execSlowCellRx, hh, ownCell_of_not_ringNode hn, hn]

theorem execSlowRxExpiry_of_due {k : Nat} (hb : (s.ringAdv t).bit O.FJ_SLOW_RX k = true)
    (hd : tget 0 (s.ringAdv t).ring.slowAt k + 500 * fuUs ≤ (s.ringAdv t).up) :
    execSlowRxExpiry k t s = .next ((s.ringAdv t).slowRx k false) :=
  if_pos ⟨hb, hd⟩

theorem execSlowCellRepeat_of_due {p : Nat × Nat} {rest : List (Nat × Nat)}
    (hp : (s.ringAdv t).slow.standing = p :: rest) (hd : (s.ringAdv t).ring.slowSent + 100 * fuUs ≤ (s.ringAdv t).up) :
    execSlowCellRepeat t s = .next ((s.ringAdv t).slowCell true p) := by
  simp only [execSlowCellRepeat, hp, if_pos hd]

end

/-- Settles O7: each clause is the branch of its command that the guards let through. -/
theorem slowRequestCellsAct : Obligations.SlowRequestCellsAct := by
  refine ⟨?numbered, ?unnumbered, ?expiry, ?again⟩
  case numbered => exact fun _ _ _ _ _ _ _ _ _ => execSlowCellRx_of_numbered
  case unnumbered => exact fun _ _ _ _ _ _ _ _ _ => execSlowCellRx_of_unnumbered
  case expiry => exact fun _ _ _ => execSlowRxExpiry_of_due
  case again => exact fun _ _ _ _ => execSlowCellRepeat_of_due

end Sys2Proof.Machine
end

section
/-! The entries of the action table (R74 to R80), and O8 from their commands. -/
namespace Sys2Proof.Machine

theorem need_of {s : State} {c : Bool} {code : Nat} {k : WRes} (h : c = true) : need s c code k = k := if_pos h

section
variable {e t : Nat} {s : State}

/-! ### Accesses of an entry -/

theorem wrActField_of_open {sub v : Nat} (h : actFree s e ∨ actState s e = 1) :
    wrActField e sub v s = .ok ((s.set ⟨.act, e, sub⟩ v).actTo e 1) :=
  need_of (by simpa using h)

theorem State.enterLocal_of_checked (h1 : actState s e = 1) (hk : kindOk s (actFields s e) = true)
    (hl : leadLocal s (actFields s e) = true) (hp : trigPiOk s (actFields s e) = true) :
    s.enterLocal e = .ok ((s.actTo e 4).set (O.ACT_TICKET e) 0xFFFF) := by
  simp [State.enterLocal, need_of, h1, hk, hl, hp]

/-- A draft that passes the ring-wide checks of R75 is proposed under the node's next ticket (R74). -/
theorem State.enterRing_of_checked (h1 : actState s e = 1) (hk : kindOk s (actFields s e) = true)
    (hb : s.ring.broken = false) (hf : ringFormed s = true) (hl : leadRing s (actFields s e) = true)
    (hp : trigPiOk s (actFields s e) = true) (hn : ringNode s = true)
    (ht : s.bit O.FJ_STATUS B.FJ_STATUS_TIME_LOCKED = true) :
    s.enterRing e =
      let s1 := s.setRing
        { s.ring with ticket := (s.ring.ticket + 1) % 256, proposed := tput s.ring.proposed e s.up }
      let s2 := ((s1.actTo e 2).set (O.ACT_TICKET e) (s.get O.FJ_NODE * 256 + s.ring.ticket)).set (O.ACT_RESULT e) 0
      .ok (s2.sendAction 0 s.ring.ticket (2 ^ s.get O.FJ_NODE) 0 0 (actFields s e)) := by
  simp [State.enterRing, need_of, h1, hk, hb, hf, hl, hp, hn, ht]

theorem State.actCancel_of_armedLocal (h4 : actState s e = 4) : s.actCancel e = .ok (s.actTo e 0) := by
  simp [State.actCancel, h4]

/-! ### Tickets on the ring -/

/-- The COMMIT of another node arms the entry that its ticket reserved, and goes on (R74). -/
theorem execActionCellRx_commit {src hops seq ticket accept refuse cause kind trigger when' arg : Nat}
    (hh : hears (s.ringAdv t) = true) (hn : ringNode (s.ringAdv t) = true) (ho : ownCell (s.ringAdv t) src = false)
    (he : ticketEntry (s.ringAdv t) src ticket [3] = some e) :
    execActionCellRx src hops seq 1 ticket accept refuse cause kind trigger when' arg t s =
      .next (((s.ringAdv t).actTo e 5).forward 5 src hops seq
        [1, ticket, accept, refuse, cause, kind, trigger, when', arg]) := by
  simp [execActionCellRx, hh, hn, ho, he]

theorem execProposeTimeout_of_due (h2 : actState (s.ringAdv t) e = 2)
    (hd : tget 0 (s.ringAdv t).ring.proposed e + 100 * fuUs ≤ (s.ringAdv t).up) :
    execProposeTimeout e t s = .next ((s.ringAdv t).proposalFails e 5) :=
  if_pos ⟨h2, hd⟩

theorem execReservedExpiry_of_due (h3 : actState (s.ringAdv t) e = 3)
    (hi : fjBit (s.ringAdv t) B.FJ_STATUS_RING_INTACT = true)
    (hd : (s.ringAdv t).ring.formedUp + fuMs ≤ (s.ringAdv t).up)
    (hr : tget 0 (s.ringAdv t).ring.reserved e < (s.ringAdv t).ring.formedUp) :
    execReservedExpiry e t s = .next ((s.ringAdv t).actTo e 0) :=
  if_pos ⟨h3, hi, hd, hr⟩

/-! ### Triggers -/

/-- An entry that is not armed, or whose moment lies ahead, stays as it is (R78). -/
theorem State.actTrigger_of_not_due (h : (actState s e ≠ 4 ∧ actState s e ≠ 5) ∨ 0 < whenAhead s (actFields s e)) :
    s.actTrigger e = s := if_pos h

theorem State.actTrigger_of_armedLocal (h4 : actState s e = 4) (hw : whenAhead s (actFields s e) ≤ 0) :
    s.actTrigger e = (s.actTo e 6).actDo e (actFields s e) := by
  simp [State.actTrigger, h4, Int.not_lt.mpr hw]

/-- An operation that leaves the state alone at each number of a list leaves it alone over the list. -/
theorem State.forAll_eq_self {f : State → Nat → State} : ∀ {l : List Nat}, (∀ k ∈ l, f s k = s) → s.forAll l f = s
  | [], _ => rfl
  | k :: l, h => by
    calc s.forAll (k :: l) f = (f s k).forAll l f := rfl
      _ = s.forAll l f := by rw [h k List.mem_cons_self]
      _ = s := State.forAll_eq_self fun j hj => h j (List.mem_cons_of_mem k hj)

theorem State.forAll_range_succ {f : State → Nat → State} {n : Nat} :
    s.forAll (List.range (n + 1)) f = f (s.forAll (List.range n) f) n := by
  simp [State.forAll, List.range_succ]

/-- Where no entry of a lower index is due, a due entry of its own node executes alone (R78). -/
theorem execActionTrigger_of_armedLocal (h4 : actState (s.adv t) e = 4)
    (hw : whenAhead (s.adv t) (actFields (s.adv t) e) ≤ 0)
    (hb : ∀ k < e, (actState (s.adv t) k ≠ 4 ∧ actState (s.adv t) k ≠ 5) ∨
      0 < whenAhead (s.adv t) (actFields (s.adv t) k)) :
    execActionTrigger e t s = .next (((s.adv t).actTo e 6).actDo e (actFields (s.adv t) e)).mtSync := by
  have hbefore : (s.adv t).forAll (List.range e) (fun s k => s.actTrigger k) = s.adv t :=
    State.forAll_eq_self fun k hk => State.actTrigger_of_not_due (hb k (List.mem_range.mp hk))
  rw [execActionTrigger, State.forAll_range_succ, hbefore, State.actTrigger_of_armedLocal h4 hw]

end

/-- Settles O8: the accesses by the checks that they pass, the rest by the guards of their commands. -/
theorem actionEntriesAct : Obligations.ActionEntriesAct := by
  refine ⟨?fieldWrite, ?enterLocal, ?enterRing, ?cancel, ?commit, ?proposeTimeout, ?reservedExpiry, ?trigger⟩
  case fieldWrite =>
    intro p e sub v s hserve hopen
    exact access_of_ok hserve (wrActField_of_open hopen)
  case enterLocal =>
    intro p e s hserve h1 hk hl hp
    exact access_of_ok hserve (State.enterLocal_of_checked h1 hk hl hp)
  case enterRing =>
    intro p e s hserve h1 hk hb hf hl hp hn ht
    exact access_of_ok hserve (State.enterRing_of_checked h1 hk hb hf hl hp hn ht)
  case cancel =>
    intro p e s hserve h4
    exact access_of_ok hserve (State.actCancel_of_armedLocal h4)
  case commit => exact fun _ _ _ _ _ _ _ _ _ _ _ _ _ _ => execActionCellRx_commit
  case proposeTimeout => exact fun _ _ _ => execProposeTimeout_of_due
  case reservedExpiry => exact fun _ _ _ => execReservedExpiry_of_due
  case trigger =>
    intro e t s h4 hw hall
    refine execActionTrigger_of_armedLocal h4 hw fun k hk => ?_
    exact of_decide_eq_true (List.all_eq_true.mp hall k (List.mem_range.mpr hk))

end Sys2Proof.Machine
end

section
/-! What the inputs of a position interface do (R87 to R94), command by command, and O9 from them. -/
namespace Sys2Proof.Machine

/-! ### An event of an interface -/

section
variable {s : State} {i bit cls : Nat}

@[simp] theorem State.piHit_up : (s.piHit i bit cls).up = s.up := State.hit_up _ _ _ _ _
@[simp] theorem State.piHit_ptOff : (s.piHit i bit cls).ptOff = s.ptOff := State.hit_ptOff _ _ _ _ _
@[simp] theorem State.piHit_pif (k : Nat) : (s.piHit i bit cls).pif k = s.pif k := by
  simp only [State.pif, State.piHit, State.hit_pifs]

theorem State.get_piHit_ne {o : Obj} (h : o ≠ O.PI_EVENTS i) (h1 : o.grp ≠ .ev) (h2 : o.grp ≠ .dm) :
    (s.piHit i bit cls).get o = s.get o := State.get_hit_ne h h1 h2

/-- The occurrences of the last millisecond depend on the state through its press time alone (R526). -/
theorem window_congr {s s' : State} (hu : s'.up = s.up) (hp : s'.ptOff = s.ptOff) (l : List Nat) :
    window s' l = window s l := by
  have hpt : s'.pt = s.pt := by simp only [State.pt, hu, hp]
  rw [window, window, State.span, State.span, hpt]

end

section
variable {i e t : Nat} {s s1 : State}

/-! ### Counted steps (R89, R91) -/

theorem execPiEdgeCounted_of_accepted {ab : Nat} (ha : accepted (s.adv t) i e = true) :
    execPiEdgeCounted i ab e t s = .next ((s.adv t).quadChange i ab e) :=
  congrArg Host.Outcome.next (if_pos ha)

/-- In QUADRATURE a step of A and B to the next place counts up, to the place before down. -/
theorem State.quadChange_of_step {ab : Nat} (up : Bool)
    (hs1 : s1 = s.piLevels i (s.fld (O.PI_STATUS i) B.PI_STATUS_INPUT / 4 * 4 + ab % 4))
    (hm : piMode s1 i = 1) (hc : piCounts s1 i = true)
    (hd : (quadStep (ab % 4) + 4 - quadStep (s.fld (O.PI_STATUS i) B.PI_STATUS_INPUT % 4)) % 4 = bif up then 1 else 3) :
    s.quadChange i ab e = s1.piEdge i up (captured s i e) := by
  subst hs1
  cases up <;> simp [State.quadChange, hm, hc, hd]

theorem execPiHallChange_of_accepted {code : Nat} (ha : accepted (s.adv t) i e = true) :
    execPiHallChange i code e t s = .next ((s.adv t).hallChange i code e) :=
  congrArg Host.Outcome.next (if_pos ha)

/-- In HALL a step of the code to the next of Table 4.2 counts up, to the one before down. -/
theorem State.hallChange_of_step {code k j : Nat} {s2 : State} (up : Bool) (hs1 : s1 = s.piLevels i (code % 8))
    (hm : piMode s1 i = 2) (hk : hallStep (code % 8) = some k) (hj : (s1.pif i).hall.bind hallStep = some j)
    (hs2 : s2 = s1.setPif i { s1.pif i with hall := some (code % 8), badAt := none, hallPerm := false })
    (hc : piCounts s2 i = true) (hd : (k + 6 - j) % 6 = bif up then 1 else 5) :
    s.hallChange i code e = s2.piEdge i up (captured s i e) := by
  subst hs1 hs2
  cases up <;> simp [State.hallChange, hm, hk, hj, hc, hd]

/-! ### Glitches (R88) -/

theorem execPiGlitch_of_short {pair : Nat} (ha : accepted (s.adv t) i e = false) :
    execPiGlitch i ⟨pair, e, t⟩ s =
      .next (((s.adv t).forAll relays (fun z a => if relayMode z a = 1 ∧ relaySource z a = i then
        z.emit (.note "pulse passed" [a, pair, e]) else z)).piGlitch i) := by
  simp [execPiGlitch, ha]

/-- Up to 1,024 glitches in 1 ms are counted alone (Table 4.3). -/
theorem State.piGlitch_of_few (hm : s.mode ≠ mdReset ∧ s.mode ≠ mdBoot)
    (hf : (window s (s.pif i).glitches).length ≤ 1024) :
    s.piGlitch i =
      (s.inc (O.PI_GLITCHES i)).setPif i { s.pif i with glitches := window s (s.pif i).glitches } := by
  simp [State.piGlitch, hm, Nat.not_lt.mpr hf]

/-! ### The index (R90) -/

theorem execPiZEdge_of_z {level : Bool} {ab eab : Nat} (hab : accepted (s.adv t) i eab = false)
    (ha : accepted (s.adv t) i e = true) :
    execPiZEdge i level ⟨e, ab, eab⟩ t s = .next ((s.adv t).zChange i level e) := by
  simp [execPiZEdge, hab, ha]

/-- The position and its time `ts` are latched, and reported. -/
def State.zLatch (s : State) (i ts : Nat) : State :=
  ((((s.set (O.PI_Z_POS i) (s.get (O.PI_COUNT i))).set (O.PI_Z_TIME_LO i) ts).set (O.PI_Z_TIME_HI i) (ts / 2 ^ 32)).setB
    (O.PI_STATUS i) B.PI_STATUS_Z_SEEN true).piHit i B.PI_EVENTS_Z

/-- With Z_EN, and without Z_HOME, the active edge of Z latches, and the axes on the interface follow. -/
theorem State.zChange_of_latch {level : Bool}
    (hs1 : s1 = s.piLevels i (putBit (s.fld (O.PI_STATUS i) B.PI_STATUS_INPUT) 2 level))
    (hw : bitOf (s.fld (O.PI_STATUS i) B.PI_STATUS_INPUT) 2 = !level) (hm : piMode s1 i = 1) (hc : piCounts s1 i = true)
    (hen : s1.bit (O.PI_CONFIG i) B.PI_CONFIG_Z_EN = true) (hh : s1.bit (O.PI_CONFIG i) B.PI_CONFIG_Z_HOME = false)
    (hp : s1.bit (O.PI_CONFIG i) B.PI_CONFIG_Z_POL = !level) :
    s.zChange i level e =
      (s1.zLatch i (captured s i e)).forAll axes (fun z a =>
        if axisSource z a = some i then ((z.axCount a).limitCheck a).axHome a else z) := by
  subst hs1
  simp only [State.bit] at hen hh hp
  simp [State.zChange, State.zLatch, hw, hm, hc, hen, hh, hp]

section
variable {ts : Nat}

/-- A latch leaves the objects that are not its own. -/
theorem State.get_zLatch_ne {o : Obj}
    (h : o ∉ [O.PI_Z_POS i, O.PI_Z_TIME_LO i, O.PI_Z_TIME_HI i, O.PI_STATUS i, O.PI_EVENTS i]) (h1 : o.grp ≠ .ev)
    (h2 : o.grp ≠ .dm) : (s.zLatch i ts).get o = s.get o := by
  simp only [List.mem_cons, List.not_mem_nil, or_false, not_or] at h
  obtain ⟨hpos, hlo, hhi, hst, hev⟩ := h
  rw [State.zLatch, State.get_piHit_ne hev h1 h2, State.get_setB_ne hst, State.get_set_ne hhi, State.get_set_ne hlo,
    State.get_set_ne hpos]

theorem State.zLatch_zPos : (s.zLatch i ts).get (O.PI_Z_POS i) = s.get (O.PI_COUNT i) % 2 ^ 32 := by
  rw [State.zLatch, State.get_piHit_ne (by simp) (by simp) (by simp), State.get_setB_ne (by simp),
    State.get_set_ne (by simp), State.get_set_ne (by simp), State.get_set_self]
  rfl

theorem State.zLatch_zTimeLo : (s.zLatch i ts).get (O.PI_Z_TIME_LO i) = ts % 2 ^ 32 := by
  rw [State.zLatch, State.get_piHit_ne (by simp) (by simp) (by simp), State.get_setB_ne (by simp),
    State.get_set_ne (by simp), State.get_set_self]
  rfl

theorem State.zLatch_zSeen : (s.zLatch i ts).bit (O.PI_STATUS i) B.PI_STATUS_Z_SEEN = true :=
  (State.bit_of_get (State.get_piHit_ne (by simp) (by simp) (by simp))).trans (State.bit_setB_self (by decide : 3 < 32))

theorem State.zLatch_event : (s.zLatch i ts).bit (O.PI_EVENTS i) B.PI_EVENTS_Z = true :=
  State.bit_hit_self (by simp) (by simp) (by decide : 2 < 32)

theorem axisSource_of_get {s s' : State} {a : Nat} (h : s'.get (O.AX_CONFIG a) = s.get (O.AX_CONFIG a)) :
    axisSource s' a = axisSource s a := by
  have hfld (f : Fld) : s'.fld (O.AX_CONFIG a) f = s.fld (O.AX_CONFIG a) f := congrArg (fieldOf · f) h
  have henc : axisEnc s' a = axisEnc s a := by rw [axisEnc, axisEnc, hfld]
  have hhall : axisHall s' a = axisHall s a := by rw [axisHall, axisHall, hfld]
  rw [axisSource, axisSource, henc, hhall]

theorem axisSource_zLatch (a : Nat) : axisSource (s.zLatch i ts) a = axisSource s a :=
  axisSource_of_get (State.get_zLatch_ne (by simp) (by simp) (by simp))

end

/-! ### Invalid Hall codes and wires (R87, R91) -/

theorem execPiInvalidHall_of_held {b : Nat} (hb : ((s.adv t).pif i).badAt = some b) (hl : b + fuUs < (s.adv t).up)
    (hn : ((s.adv t).pif i).badSeen = false) : execPiInvalidHall i t s = .next ((s.adv t).hallInvalid i) := by
  simp [execPiInvalidHall, hb, hn, Nat.not_le.mpr hl]

/-- Up to 16 episodes of wire disagreement in 1 ms are counted alone (Table 4.3). -/
theorem State.wireEpisode_of_few (hf : (window s (s.pif i).wires).length ≤ 16) :
    s.wireEpisode i = ((s.inc (O.PI_WIRE_FAULTS i)).piHit i B.PI_EVENTS_WIRE).setPif i
      { s.pif i with wires := window s (s.pif i).wires } := by
  have hw : window ((s.inc (O.PI_WIRE_FAULTS i)).piHit i B.PI_EVENTS_WIRE) = window s :=
    funext (window_congr State.piHit_up State.piHit_ptOff)
  have hp : ((s.inc (O.PI_WIRE_FAULTS i)).piHit i B.PI_EVENTS_WIRE).pif i = s.pif i := State.piHit_pif i
  simp only [State.wireEpisode, hw, hp, State.pif_setPif, if_neg (Nat.not_lt.mpr hf)]

theorem execPiWireDisagree_of_running {pair : Nat} (hh : wiresHeld (s.adv t) i e = true)
    (hc : wireChecked (s.adv t) i pair = true)
    (hb : bitOf ((s.adv t).fld (O.PI_STATUS i) B.PI_STATUS_WIRE_BAD) pair = false)
    (hs1 : s1 = ((s.adv t).wireBad i pair true).setPif i
      { (s.adv t).pif i with wireAt := tput ((s.adv t).pif i).wireAt pair e })
    (hr : piRuns s1 i = true) :
    execPiWireDisagree i pair ⟨e, t⟩ s = .next (s1.wireEpisode i) := by
  subst hs1
  simp only [execPiWireDisagree, hh, hc, hb, hr, Bool.not_true, Bool.false_eq_true, or_self, if_false]

theorem execWireAgreementRestored_of_held {pair : Nat} (hh : wiresHeld (s.adv t) i e = true) :
    execWireAgreementRestored i pair ⟨e, t⟩ s = .next ((s.adv t).wireOk i pair) :=
  congrArg Host.Outcome.next (if_pos hh)

/-! ### Speed (R94) -/

theorem execPiSpeedUpdate_of_on (hm : piMode (s.adv t) i ≠ 0) :
    execPiSpeedUpdate i t s = .next ((s.adv t).setI (O.PI_SPEED i) (speedOf (s.adv t) i)) :=
  congrArg Host.Outcome.next (if_neg hm)

theorem execPiStopped_of_due (hs : (s.adv t).bit (O.PI_STATUS i) B.PI_STATUS_STOPPED = false)
    (hd : ((s.adv t).pif i).lastUp + (s.adv t).get (O.PI_STOP_TIME i) * fuUs ≤ (s.adv t).up)
    (hm : piMode (s.adv t) i ≠ 0) (hr : (s.adv t).mode ≠ mdReset) (hb : (s.adv t).mode ≠ mdBoot) :
    execPiStopped i t s =
      .next ((((s.adv t).setB (O.PI_STATUS i) B.PI_STATUS_STOPPED true).set (O.PI_SPEED i) 0).piHit i
        B.PI_EVENTS_STOPPED) := by
  simp only [execPiStopped, hs, Nat.not_lt.mpr hd, hm, hr, hb, Bool.false_eq_true, or_self, if_false]

end

/-- Settles O9: each clause is the branch of its command that the guards let through. -/
theorem positionInputsAct : Obligations.PositionInputsAct := by
  refine ⟨?edgeUp, ?edgeDown, ?hallUp, ?hallDown, ?glitch, ?zEdge, ?zLatched, ?invalidHall, ?disagree, ?agree, ?speed,
    ?stopped⟩
  case edgeUp =>
    intro i ab e t s1 s ha hs1 hm hc hd
    exact (execPiEdgeCounted_of_accepted ha).trans (congrArg _ (State.quadChange_of_step true hs1 hm hc hd))
  case edgeDown =>
    intro i ab e t s1 s ha hs1 hm hc hd
    exact (execPiEdgeCounted_of_accepted ha).trans (congrArg _ (State.quadChange_of_step false hs1 hm hc hd))
  case hallUp =>
    intro i code e t k j s1 s2 s ha hs1 hm hk hj hs2 hc hd
    exact (execPiHallChange_of_accepted ha).trans
      (congrArg _ (State.hallChange_of_step true hs1 hm hk hj hs2 hc hd))
  case hallDown =>
    intro i code e t k j s1 s2 s ha hs1 hm hk hj hs2 hc hd
    exact (execPiHallChange_of_accepted ha).trans
      (congrArg _ (State.hallChange_of_step false hs1 hm hk hj hs2 hc hd))
  case glitch =>
    rintro i pair e t _ s ha rfl hm hf
    exact (execPiGlitch_of_short ha).trans (congrArg _ (State.piGlitch_of_few hm hf))
  case zEdge =>
    rintro i level e ab eab t s1 _ s hab ha hs1 hw hm hc hen hh hp rfl
    exact (execPiZEdge_of_z hab ha).trans (congrArg _ (State.zChange_of_latch hs1 hw hm hc hen hh hp))
  case zLatched =>
    intro i level e ab eab t s1 s hab ha hs1 hw hm hc hen hh hp hax
    have hnone : ∀ a ∈ axes, axisSource (s1.zLatch i (captured (s.adv t) i e)) a ≠ some i := fun a hmem =>
      (axisSource_zLatch a).symm ▸ of_decide_eq_true (List.all_eq_true.mp hax a hmem)
    have hz : (s.adv t).zChange i level e = s1.zLatch i (captured (s.adv t) i e) :=
      (State.zChange_of_latch hs1 hw hm hc hen hh hp).trans
        (State.forAll_eq_self fun a hmem => if_neg (hnone a hmem))
    exact ⟨_, (execPiZEdge_of_z hab ha).trans (congrArg _ hz), State.zLatch_zPos, State.zLatch_zTimeLo,
      State.zLatch_zSeen, State.zLatch_event,
      State.get_zLatch_ne (by simp) (by simp) (by simp)⟩
  case invalidHall => exact fun _ _ _ _ => execPiInvalidHall_of_held
  case disagree =>
    intro i pair e t s1 s hh hc hb hs1 hr hf
    exact (execPiWireDisagree_of_running hh hc hb hs1 hr).trans (congrArg _ (State.wireEpisode_of_few hf))
  case agree => exact fun _ _ _ _ _ => execWireAgreementRestored_of_held
  case speed => exact fun _ _ _ => execPiSpeedUpdate_of_on
  case stopped => exact fun _ _ _ => execPiStopped_of_due

end Sys2Proof.Machine
end

section
/-! The writes of a position interface and its permanent conditions (R93, R96), and O10 from them. -/
namespace Sys2Proof.Machine

/-- An operation that leaves an object alone at each number leaves it alone over a list. -/
theorem State.get_forAll {f : State → Nat → State} {o : Obj} (h : ∀ s k, (f s k).get o = s.get o) :
    ∀ (l : List Nat) (s : State), (s.forAll l f).get o = s.get o
  | [], _ => rfl
  | k :: l, s => (State.get_forAll h l (f s k)).trans (h s k)

/-- A served write whose word passes its row leaves the state that the object's own write leaves. -/
theorem access_checked_of_ok {p : Path} {o : Obj} {v : Nat} {f : Nat → State → WRes} {s s' : State}
    (hserve : s.serves p o = true) (hfits : s.fits o v = true) (hf : f (s.merged o v) s = .ok s') :
    access p o s (checked o v f) = .next s' :=
  access_of_ok hserve ((checked_of_fits hfits).trans hf)

section
variable {i : Nat} {s : State}

/-! ### Writes (R93, R96) -/

theorem wrPiCount_of_free {v : Nat} (hb : piBound s i = false) :
    wrPiCount i v s = .ok (((s.adv ((s.up / 64 + 1) * 64)).set (O.PI_COUNT i) v).setB (O.PI_STATUS i)
      B.PI_STATUS_POS_UNCERTAIN false) :=
  need_of (by simp [hb])

/-- The pairs whose wires are not checked show no disagreement (log 93). -/
def State.wiresUnchecked (s : State) (i : Nat) : State :=
  s.forAll [0, 1, 2] (fun s q => if wireChecked s i q then s else s.wireOk i q)

/-- A write of PI_CONFIG that leaves the mode and sets no Z_HOME stores the word, and does what its clear bits ask for. -/
theorem wrPiConfig_of_sameMode {new : Nat} {clrFault clrUncertain : Bool} (hm : new % 8 = s.get (O.PI_CONFIG i) % 8)
    (hh : bitOf new B.PI_CONFIG_Z_HOME = s.bit (O.PI_CONFIG i) B.PI_CONFIG_Z_HOME)
    (hp : (clrFault && piPersists s i) = false) :
    wrPiConfig i new clrFault clrUncertain s =
      let s1 := s.set (O.PI_CONFIG i) new
      let s2 := if clrFault then s1.piClear i else s1
      .ok ((if clrUncertain then s2.setB (O.PI_STATUS i) B.PI_STATUS_POS_UNCERTAIN false else s2).wiresUnchecked i) := by
  have hmode : new % 4 = s.get (O.PI_CONFIG i) % 4 := by omega
  have hhome : bitOf new B.PI_CONFIG_Z_HOME = bitOf (s.get (O.PI_CONFIG i)) B.PI_CONFIG_Z_HOME := hh
  simp [wrPiConfig, need, State.wiresUnchecked, hm, hmode, hhome, hp]

theorem State.get_wireOk_ne {o : Obj} {q : Nat} (h : o ≠ O.PI_STATUS i) : (s.wireOk i q).get o = s.get o :=
  (State.setPif_get _ _ _ _).trans (State.get_setF_ne h)

theorem State.get_wiresUnchecked_ne {o : Obj} (h : o ≠ O.PI_STATUS i) : (s.wiresUnchecked i).get o = s.get o :=
  State.get_forAll (fun _ _ => by
    split
    · rfl
    · exact State.get_wireOk_ne h) _ _

theorem cmdPiConfig_of_ok {p : Path} {v : Nat} {s' : State} (hserve : s.serves p (O.PI_CONFIG i) = true)
    (hfits : s.fits (O.PI_CONFIG i) v = true)
    (hw : wrPiConfig i (s.merged (O.PI_CONFIG i) v) (bitOf v B.PI_CONFIG_CLR_FAULT)
      (bitOf v B.PI_CONFIG_CLR_UNCERTAIN) s = .ok s') : cmdPiConfig p i v s = .next s' :=
  access_checked_of_ok hserve hfits hw

/-- PI_CONFIG_WRITE that leaves the mode and asks for no clear stores the word alone. -/
theorem execPiConfigWrite_of_store {p : Path} {v : Nat} (hserve : s.serves p (O.PI_CONFIG i) = true)
    (hf : bitOf v B.PI_CONFIG_CLR_FAULT = false) (hu : bitOf v B.PI_CONFIG_CLR_UNCERTAIN = false)
    (hfits : s.fits (O.PI_CONFIG i) v = true) (hm : s.merged (O.PI_CONFIG i) v % 8 = s.get (O.PI_CONFIG i) % 8)
    (hh : bitOf (s.merged (O.PI_CONFIG i) v) B.PI_CONFIG_Z_HOME = s.bit (O.PI_CONFIG i) B.PI_CONFIG_Z_HOME) :
    execPiConfigWrite p i v s =
      .next ((s.set (O.PI_CONFIG i) (s.merged (O.PI_CONFIG i) v)).wiresUnchecked i) :=
  cmdPiConfig_of_ok hserve hfits (by rw [hf, hu]; exact wrPiConfig_of_sameMode hm hh rfl)

/-! ### Permanent conditions (R96) -/

section
variable {t : Nat}

theorem execWireDisagreementHeld_of_running {pair : Nat} {s1 : State}
    (hb : bitOf ((s.adv t).fld (O.PI_STATUS i) B.PI_STATUS_WIRE_BAD) pair = true)
    (hd : tget 0 ((s.adv t).pif i).wireAt pair + 10 * fuUs ≤ (s.adv t).up)
    (hs1 : s1 = (s.adv t).setPif i { (s.adv t).pif i with wirePerm := setIns ((s.adv t).pif i).wirePerm pair })
    (hr : piRuns s1 i = true) : execWireDisagreementHeld i pair t s = .next (s1.piFaultNow i) := by
  subst hs1
  simp only [execWireDisagreementHeld, hb, Nat.not_lt.mpr hd, hr, Bool.not_true, Bool.false_eq_true, or_self, if_false,
    if_true]

/-- Whether an interface runs does not depend on its record. -/
theorem piRuns_setPif (x : PosIf) : piRuns (s.setPif i x) i = piRuns s i := rfl

theorem execInvalidHallHeld_of_running {b : Nat} (hb : ((s.adv t).pif i).badAt = some b)
    (hd : b + 100 * fuUs ≤ (s.adv t).up) (hr : piRuns (s.adv t) i = true) :
    execInvalidHallHeld i t s =
      .next (((s.adv t).setPif i { (s.adv t).pif i with hallPerm := true }).piFaultNow i) := by
  simp only [execInvalidHallHeld, hb, if_neg (Nat.not_lt.mpr hd), piRuns_setPif, hr, if_true]

end

end

/-- Settles O10: the writes by the checks that they pass, the permanent conditions by the guards of their commands. -/
theorem positionWritesAct : Obligations.PositionWritesAct := by
  refine ⟨?count, ?config, ?configStored, ?clrFault, ?clrUncertain, ?disagreement, ?invalidHall⟩
  case count =>
    intro p i v s hserve hb
    exact access_of_ok hserve (wrPiCount_of_free hb)
  case config =>
    rintro p i v _ s hserve hf hu hfits rfl hm hh
    exact execPiConfigWrite_of_store hserve hf hu hfits hm hh
  case configStored =>
    rintro p i v _ s hserve - hf hu hfits rfl hlt hm hh
    refine ⟨_, execPiConfigWrite_of_store hserve hf hu hfits hm hh, ?stored, ?count, ?speed⟩
    case stored =>
      rw [State.get_wiresUnchecked_ne (by simp), State.get_set_self]
      exact Nat.mod_eq_of_lt hlt
    case count => rw [State.get_wiresUnchecked_ne (by simp), State.get_set_ne (by simp)]
    case speed => rw [State.get_wiresUnchecked_ne (by simp), State.get_set_ne (by simp)]
  case clrFault =>
    rintro p i _ _ _ s hserve rfl hfits hmerged hu hpersists rfl rfl
    refine cmdPiConfig_of_ok hserve hfits ?_
    rw [hmerged, bitOf_putBit_self, hu]
    exact wrPiConfig_of_sameMode rfl rfl hpersists
  case clrUncertain =>
    rintro p i _ _ _ s hserve rfl hfits hmerged hf rfl rfl
    refine cmdPiConfig_of_ok hserve hfits ?_
    rw [hmerged, bitOf_putBit_self, hf]
    exact wrPiConfig_of_sameMode rfl rfl rfl
  case disagreement => exact fun _ _ _ _ _ => execWireDisagreementHeld_of_running
  case invalidHall => exact fun _ _ _ _ => execInvalidHallHeld_of_running

end Sys2Proof.Machine
end

section
/-! Milestones and relay pulses (R100, R102), and O11 from them. -/
namespace Sys2Proof.Machine

section
variable {m : Nat} {s s1 s2 : State}

/-- A claim of a free milestone on an interface that is on, whose compare has not been passed, enables it (R100). -/
theorem State.msClaim_of_free {owner : Nat} (ho : s.get (O.MS_OWNER m) = 0) (hp : piMode s (msPi s m) ≠ 0)
    (hs1 : s1 = ((s.set (O.MS_OWNER m) owner).setB (O.MS_CONTROL m) B.MS_CONTROL_ENABLE true).set (O.MS_STATUS m) 1)
    (hpast : msPast s1 m < 0) : s.msClaim m owner = .ok s1 := by
  subst hs1
  simp only [State.msClaim, ho, hp, Int.not_le.mpr hpast, ne_eq, not_true_eq_false, false_and, if_false]

/-- A write that sets ENABLE of a milestone that is off stores the word and claims the milestone for the host. -/
theorem wrMsControl_enable {new : Nat} (hon : bitOf new B.MS_CONTROL_ENABLE = true) (hoff : msEnabled s m = false)
    (hclaim : (s.set (O.MS_CONTROL m) (putBit new B.MS_CONTROL_ENABLE false)).msClaim m 1 = .ok s2) :
    wrMsControl m new s = .ok s2 := by
  simp only [wrMsControl, hoff, hon, hclaim, Bool.false_eq_true, if_false, if_true]

/-- A write that clears ENABLE, and leaves the rest of the word, releases the milestone. -/
theorem wrMsControl_disable {new : Nat} (hoff : bitOf new B.MS_CONTROL_ENABLE = false) (hon : msEnabled s m = true)
    (hsame : putBit new B.MS_CONTROL_ENABLE true = s.get (O.MS_CONTROL m)) :
    wrMsControl m new s = .ok (s.msRelease m) := by
  simp only [wrMsControl, hoff, hon, hsame, ne_eq, not_true_eq_false, Bool.not_false, if_false, if_true]

theorem execRelayPulseEnd_of_due {a pair t e : Nat} (hp : ((s.adv t).relPair (4 * a + pair)).pulse = some e)
    (hd : e ≤ (s.adv t).up) (hs1 : s1 = { s.adv t with pulses := tdel (s.adv t).pulses (4 * a + pair) })
    (hm : relayMode s1 a = 3) :
    execRelayPulseEnd a pair t s =
      .next (s1.set (O.RL_STATUS a) (putBit (s1.get (O.RL_STATUS a)) pair false)) := by
  subst hs1
  simp only [execRelayPulseEnd, hp, if_neg (Nat.not_lt.mpr hd), hm, if_true]

end

/-- Settles O11: the writes by the checks that they pass, the end of a pulse by the guards of its command. -/
theorem milestonesAndRelaysAct : Obligations.MilestonesAndRelaysAct := by
  refine ⟨?enable, ?disable, ?pulseEnd⟩
  case enable =>
    rintro p m v _ _ s2 s hserve hfits rfl hon hoff rfl ho hp hs2 hpast
    exact access_checked_of_ok hserve hfits (wrMsControl_enable hon hoff (State.msClaim_of_free ho hp hs2 hpast))
  case disable =>
    intro p m v s hserve hfits hon hsame hoff
    exact access_checked_of_ok hserve hfits (wrMsControl_disable hoff hon hsame)
  case pulseEnd => exact fun _ _ _ _ _ _ => execRelayPulseEnd_of_due

end Sys2Proof.Machine
end

section
/-! The waybill queue: its writes, the reads of its slots and NOP (R106 to R109, R117, R118), and O12 from them. -/
namespace Sys2Proof.Machine

/-- The bits above a small word are clear. -/
theorem bitOf_of_lt {v i : Nat} (h : v < 2 ^ i) : bitOf v i = false := by
  rw [bitOf, Nat.div_eq_of_lt h]
  rfl

/-- The waybill taken is of kind `k`, and nothing keeps it from being acted on: what `onKind` asks for. -/
def ActsOn (s : State) (k : Nat) : Prop :=
  s.evs.linkUp ∧ s.intake.stage = .taken ∧ s.intake.refused = none ∧ slotKind s = k

section
variable {s s1 : State}

theorem onKind_of_actsOn {k : Nat} {f : State → State} (h : ActsOn s k) : onKind s k f = .next (f s) := if_pos h

/-! ### IN_TAIL and IN_CONTROL (R106, R107, R117) -/

theorem wrInTail_of_within {v : Nat} (h : v < s.get O.IN_Q_SLOTS) : wrInTail v s = .ok (s.set O.IN_TAIL v).inSync :=
  if_neg (Nat.not_le.mpr h)

/-- A word without RESUME and SKIP is stored alone. -/
theorem wrInControl_store {v : Nat} (hv : v < 4) : wrInControl v s = .ok (s.set O.IN_CONTROL v).inSync := by
  have hresume : bitOf v B.IN_CONTROL_RESUME = false := bitOf_of_lt hv
  have hskip : bitOf v B.IN_CONTROL_SKIP = false := bitOf_of_lt (Nat.lt_trans hv (by decide))
  simp [wrInControl, hresume, hskip, Nat.mod_eq_of_lt hv]

/-- RESUME beside a word `v` of RUN and HALT_ON_ERROR: a halted queue goes on at the slot it halted at. -/
theorem wrInControl_resume {v : Nat} (hv : v < 4) (hs1 : s1 = s.set O.IN_CONTROL v)
    (hh : s1.bit O.IN_STATUS B.IN_STATUS_HALTED = true) :
    wrInControl (v + 4) s =
      .ok ((s1.setB O.IN_STATUS B.IN_STATUS_HALTED false).setIntake
        { s1.intake with stage := .idle, refused := none, tries := 0 }).inSync := by
  have hword : (v + 4) % 4 = v := by omega
  have hskip : bitOf (v + 4) B.IN_CONTROL_SKIP = false := bitOf_of_lt (by show v + 4 < 8; omega)
  have hresume : bitOf (v + 4) B.IN_CONTROL_RESUME = true := by
    have hodd : (v + 4) / 4 % 2 = 1 := by omega
    exact decide_eq_true hodd
  subst hs1
  simp [wrInControl, hword, hskip, hresume, hh]

/-- SKIP beside a word `v` of RUN and HALT_ON_ERROR: the waybill the queue halted at is completed with code 10. -/
theorem wrInControl_skip {v : Nat} {r : Nat × Nat} (hv : v < 4) (hs1 : s1 = s.set O.IN_CONTROL v)
    (hh : s1.bit O.IN_STATUS B.IN_STATUS_HALTED = true) (hr : s1.intake.refused = some r) :
    wrInControl (v + 8) s = .ok ((s1.setB O.IN_STATUS B.IN_STATUS_HALTED false).complete 10 r.1).inSync := by
  have hword : (v + 8) % 4 = v := by omega
  have hskip : bitOf (v + 8) B.IN_CONTROL_SKIP = true := by
    have hodd : (v + 8) / 8 % 2 = 1 := by omega
    exact decide_eq_true hodd
  subst hs1
  simp only [wrInControl, hword, hskip, hh, hr, and_self, if_true]

/-! ### Reads of slots and of data (R107, R109, R118) -/

/-- The queue's next slot can be read, apart from a thermal pause: the queue runs, has a waybill and has taken none. -/
structure SlotDue (s : State) : Prop where
  idle : s.intake.stage = .idle
  link : s.evs.linkUp = true
  running : s.bit O.IN_STATUS B.IN_STATUS_RUNNING = true
  waybill : s.bit O.IN_STATUS B.IN_STATUS_EMPTY = false

/-- The slot's bytes do not depend on what the queue is at. -/
@[simp] theorem slotField_setStage {g : InStage} {a n : Nat} : slotField (s.setStage g) a n = slotField s a n := rfl

/-- A slot whose OWN is set, of a known kind, with no bit set that its kind does not use, is taken (R107, R109). -/
theorem execWaybillSlotRead_of_wellFormed {bytes : List Byte} (h : SlotDue s) (hpause : pauseHeld s = false)
    (hs1 : s1 = ((s.setIntake { s.intake with slot := bytes.take 112, tries := 0 }).inBytes 128).setStage .taken)
    (hown : bitOf (slotField s1 0 4) 31 = true) (hkind : 1 ≤ slotKind s1 ∧ slotKind s1 ≤ 6)
    (hflags : slotField s1 3 1 % 64 = 0)
    (hstray : strayByte s1 ([24, 26, 12, 14, 8, 8].getD (slotKind s1 - 1) 8) = none) :
    execWaybillSlotRead bytes s = .next s1 := by
  obtain ⟨hidle, hlink, hrun, hempty⟩ := h
  have hread : ¬ (s.intake.stage ≠ .idle ∨ !s.evs.linkUp ∨ pauseHeld s ∨ !s.bit O.IN_STATUS B.IN_STATUS_RUNNING ∨
      s.bit O.IN_STATUS B.IN_STATUS_EMPTY) := by
    simp [hidle, hlink, hpause, hrun, hempty]
  have hknown : ¬ (slotKind s1 = 0 ∨ 6 < slotKind s1) := by omega
  subst hs1
  rw [slotField_setStage] at hown
  refine (if_neg hread).trans <| (if_neg (by simp [hown])).trans <| (if_neg hknown).trans <|
    (if_neg (not_not.mpr hflags)).trans ?_
  simp only [hstray]

theorem execSlotFetchError_of_due {addr cause : Nat} (h : SlotDue s) :
    execSlotFetchError addr cause s =
      .next ((((s.set O.IN_ERR_ADDR_LO addr).set O.IN_ERR_ADDR_HI (addr / 2 ^ 32)).hit O.IN_EVENTS
        B.IN_EVENTS_FETCH_ERROR 547).emit (.note "slot read failed" [cause])).halt := by
  obtain ⟨hidle, hlink, hrun, hempty⟩ := h
  simp [execSlotFetchError, hidle, hlink, hrun, hempty]

/-- The first and the second failure of a read of a job table or of a band ask for the read again (R118). -/
theorem execIntakeReadFail_of_retry {addr cause : Nat}
    (hstage : s.intake.stage = .tableRead ∨ s.intake.stage = .copying)
    (hask : s.intake.ask = false) (hlink : s.evs.linkUp = true) (href : s.intake.refused = none)
    (htries : s.intake.tries < 2) :
    execIntakeReadFail addr cause s =
      .next (((s.setIntake { s.intake with tries := s.intake.tries + 1, ask := true }).inc O.IN_RETRIES).hit O.IN_EVENTS
        B.IN_EVENTS_READ_RETRY 548).issue := by
  have hreading : ¬ (s.intake.stage ≠ .tableRead ∧ s.intake.stage ≠ .copying) :=
    fun ⟨htable, hcopy⟩ => hstage.elim htable hcopy
  simp only [execIntakeReadFail, hreading, hask, hlink, href, htries, ne_eq, not_true_eq_false, Bool.not_true,
    Bool.false_eq_true, or_self, if_false, if_true]

theorem execNop_of_noJob (h : ActsOn s 5) (hjob : slotJob s = 0) : execNop s = .next (s.complete 0 0) :=
  (onKind_of_actsOn h).trans (congrArg _ (if_neg (not_not.mpr hjob)))

end

/-- Settles O12: the writes by the words that they carry, the reads and NOP by the guards of their commands. -/
theorem queueCommandsAct : Obligations.QueueCommandsAct := by
  refine ⟨?tail, ?run, ?resume, ?skip, ?slotRead, ?fetchError, ?readFail, ?nop⟩
  case tail =>
    intro p v s hserve hv
    exact access_of_ok hserve (wrInTail_of_within hv)
  case run =>
    intro p v s hserve
    exact access_of_ok hserve (wrInControl_store (Nat.mod_lt v (by decide)))
  case resume =>
    intro p s1 s hserve hs1 hh
    have hword : s.get O.IN_CONTROL % 4 < 4 := Nat.mod_lt _ (by decide)
    exact access_of_ok (f := fun s => wrInControl (s.get O.IN_CONTROL % 4 + 4) s) hserve
      (wrInControl_resume hword hs1 hh)
  case skip =>
    intro p s1 r s hserve hs1 hh hr
    have hword : s.get O.IN_CONTROL % 4 < 4 := Nat.mod_lt _ (by decide)
    exact access_of_ok (f := fun s => wrInControl (s.get O.IN_CONTROL % 4 + 8) s) hserve
      (wrInControl_skip hword hs1 hh hr)
  case slotRead =>
    intro bytes s1 s hidle hrun hempty hlink hpause hs1 hown hlow hhigh
    exact execWaybillSlotRead_of_wellFormed ⟨hidle, hlink, hrun, hempty⟩ hpause hs1 hown ⟨hlow, hhigh⟩
  case fetchError =>
    intro addr cause s hidle hrun hempty hlink
    exact execSlotFetchError_of_due ⟨hidle, hlink, hrun, hempty⟩
  case readFail => exact fun _ _ _ => execIntakeReadFail_of_retry
  case nop =>
    intro s hlink htaken href hkind
    exact execNop_of_noJob ⟨hlink, htaken, href, hkind⟩

end Sys2Proof.Machine
end

section
/-! The waybills of jobs (R110, R112, R115, R116, R120), and O13 from their commands. -/
namespace Sys2Proof.Machine

/-- A JOB_OPEN that nothing refuses (R110). -/
structure OpenLegal (s : State) : Prop where
  acts : ActsOn s 1
  addr : slotField s 8 8 % 16 = 0
  flags : slotField s 20 2 / 8 = 0
  planes : 1 ≤ slotField s 22 1 ∧ slotField s 22 1 ≤ 16
  stripes : 1 ≤ slotField s 23 1 ∧ slotField s 23 1 ≤ 96
  online : s.bit O.BS_STATUS B.BS_STATUS_ONLINE = true
  named : slotJob s ≠ 0
  new : slotOf s (slotJob s) = none
  length : slotField s 16 4 = 16 + 16 * slotField s 22 1 + 8 * slotField s 23 1

/-- A BAND that nothing refuses, of the job in slot `j` (R112, R116). -/
structure BandLegal (s : State) (j : Nat) : Prop where
  acts : ActsOn s 2
  addr : slotField s 8 8 % 64 = 0
  whole : slotField s 16 4 % 64 = 0
  length : 64 ≤ slotField s 16 4 ∧ slotField s 16 4 ≤ 268435456
  lines : 1 ≤ slotField s 24 2 ∧ slotField s 24 2 ≤ 4096
  known : slotOf s (slotJob s) = some j
  online : s.bit O.BS_STATUS B.BS_STATUS_ONLINE = true
  opened : jobClosed s j = false
  kept : (s.job j).aborted = false
  next : slotField s 20 4 = s.get (O.JOB_BANDS j)

section
variable {s : State} {j : Nat}

/-- A waybill that is acted on has been taken, so no read of its own runs yet. -/
theorem ActsOn.stage_ne {k : Nat} {g : InStage} (h : ActsOn s k) (hg : g ≠ .taken) : s.intake.stage ≠ g := by
  obtain ⟨-, htaken, -, -⟩ := h
  exact htaken ▸ hg.symm

/-- A read that is to be issued is, while the link is up and no thermal pause holds it (R55, R136). -/
theorem State.issue_of_due (hask : s.intake.ask = true) (hlink : s.evs.linkUp = true) (hpause : pauseHeld s = false) :
    s.issue = (s.setIntake { s.intake with ask := false }).emit (.hostRead (slotField s 8 8) (slotField s 16 4)) :=
  if_pos ⟨hask, hlink, by simp [hpause]⟩

/-! ### JOB_OPEN (R110) -/

theorem execJobOpen_of_reading (h : s.intake.stage = .tableRead) : execJobOpen s = .next s.issue := if_pos h

theorem execJobOpen_of_legal (h : OpenLegal s) : execJobOpen s = .next s.openJob := by
  obtain ⟨hacts, haddr, hflags, hplanes, hstripes, honline, hnamed, hnew, hlength⟩ := h
  refine (if_neg (hacts.stage_ne (by decide))).trans ((onKind_of_actsOn hacts).trans (congrArg _ ?_))
  have hp : ¬ (slotField s 22 1 < 1 ∨ 16 < slotField s 22 1) := by omega
  have hs : ¬ (slotField s 23 1 < 1 ∨ 96 < slotField s 23 1) := by omega
  simp only [haddr, hflags, hp, hs, honline, hnamed, hnew, hlength, ne_eq, not_true_eq_false, Bool.not_true,
    Bool.false_eq_true, Option.isSome_none, or_self, if_false]

theorem execWaitJobEnd_of_waiting (hlink : s.evs.linkUp = true) (hstage : s.intake.stage = .waitJob) :
    execWaitJobEnd s = .next s.openJob := if_pos ⟨hlink, hstage⟩

/-- The FREE slot of least number is taken, and the job table asked for. -/
theorem State.openJob_of_free (h : slots.find? (fun j => decide (jobState s j = 0)) = some j) :
    s.openJob = ((s.setB O.IN_STATUS B.IN_STATUS_WAIT_JOB false).setIntake
      { s.intake with jobSlot := j, stage := .tableRead, tries := 0, ask := true }).issue := by
  simp only [State.openJob, h]
  rfl

theorem State.openJob_of_full (h : slots.find? (fun j => decide (jobState s j = 0)) = none) :
    s.openJob = (s.setB O.IN_STATUS B.IN_STATUS_WAIT_JOB true).setStage .waitJob := by
  simp only [State.openJob, h]

/-! ### BAND (R112, R115) -/

theorem execBand_of_reading (h : s.intake.stage = .copying) : execBand s = .next s.issue := if_pos h

theorem execBand_of_legal (h : BandLegal s j) :
    execBand s = .next (s.setIntake { s.intake with jobSlot := j }).startCopy := by
  obtain ⟨hacts, haddr, hwhole, hlength, hlines, hknown, honline, hopened, hkept, hnext⟩ := h
  refine (if_neg (hacts.stage_ne (by decide))).trans ((onKind_of_actsOn hacts).trans (congrArg _ ?_))
  have hlen : ¬ (slotField s 16 4 % 64 ≠ 0 ∨ slotField s 16 4 < 64 ∨ 268435456 < slotField s 16 4) := by omega
  have hlin : ¬ (slotField s 24 2 < 1 ∨ 4096 < slotField s 24 2) := by omega
  simp only [haddr, hlen, hlin, hknown, honline, hopened, hkept, hnext, ne_eq, not_true_eq_false, Bool.not_true,
    Bool.false_eq_true, or_self, if_false]

theorem execWaitSpaceEnd_of_waiting (hlink : s.evs.linkUp = true) (hstage : s.intake.stage = .waitSpace)
    (href : s.intake.refused = none) : execWaitSpaceEnd s = .next s.startCopy := if_pos ⟨hlink, hstage, href⟩

/-- A block that the band store could not hold even with every page free but the kept ones is refused (R115). -/
theorem State.startCopy_of_never (h : areaPages s - keptPages s < pagesFor (slotField s 16 4)) :
    s.startCopy = (s.setB O.IN_STATUS B.IN_STATUS_WAIT_SPACE false).refuse 6
      (min 65535 (pagesFor (slotField s 16 4) / 16)) := if_pos h

theorem State.startCopy_of_full (h : pagesFor (slotField s 16 4) ≤ areaPages s - keptPages s)
    (hfree : s.get O.BS_FREE_PAGES < pagesFor (slotField s 16 4)) :
    s.startCopy = (s.setB O.IN_STATUS B.IN_STATUS_WAIT_SPACE true).setStage .waitSpace :=
  (if_neg (Nat.not_lt.mpr h)).trans (if_pos hfree)

/-- With pages enough free, the lowest ones are taken, and the block asked for. -/
theorem State.startCopy_of_room {pages : List Nat} (h : pagesFor (slotField s 16 4) ≤ areaPages s - keptPages s)
    (hfree : pagesFor (slotField s 16 4) ≤ s.get O.BS_FREE_PAGES)
    (hpages : pages = freePagesFrom s.intake.used (areaPages s) 0 (pagesFor (slotField s 16 4))) :
    s.startCopy = ((s.setB O.IN_STATUS B.IN_STATUS_WAIT_SPACE false).setIntake
      { s.intake with
        stage := .copying, tries := 0, ask := true, pages := pages
        used := pages.foldl setIns s.intake.used }).pagesSync.issue := by
  subst hpages
  exact (if_neg (Nat.not_lt.mpr h)).trans (if_neg (Nat.not_lt.mpr hfree))

/-! ### JOB_CLOSE, REPEAT, RELEASE (R116, R120) -/

theorem execJobClose_of_legal (h : ActsOn s 3) (hknown : slotOf s (slotJob s) = some j) (hopen : jobClosed s j = false)
    (hkept : (s.job j).aborted = false) (hlast : slotField s 8 4 + 1 = s.get (O.JOB_BANDS j)) :
    execJobClose s = .next ((((s.setJobFlag j 8 true).complete 0 0).lanesSync j).jobCheck j) := by
  refine (onKind_of_actsOn h).trans (congrArg _ ?_)
  simp only [hknown, hopen, hkept, hlast, ne_eq, not_true_eq_false, Bool.false_eq_true, or_self, if_false]

theorem execRepeatJob_of_open {s1 s2 : State} (h : ActsOn s 4) (hknown : slotOf s (slotJob s) = some j)
    (hkeep : jobKeep s j = true) (hclosed : jobClosed s j = true) (hrel : jobReleased s j = false)
    (hs1 : s1 = (s.set (O.JOB_REPEAT_LEFT j) (slotField s 8 4)).setJobFlag j 10 (decide (slotField s 8 4 = 0)))
    (hs2 : s2 = s1.setJob j { s1.job j with gap := slotField s 12 2 }) (hstate : jobState s2 j = 1) :
    execRepeatJob s = .next (s2.complete 0 0) := by
  have hlegal : ¬ (!jobKeep s j ∨ !jobClosed s j ∨ jobReleased s j) := by simp [hkeep, hclosed, hrel]
  have hrunning : ¬ jobState s2 j = 2 := by omega
  have hdraining : ¬ jobState s2 j = 3 := by omega
  have hheld : ¬ (jobState s2 j = 4 ∧ !jobEligible s2 j) := by omega
  subst hs1 hs2
  refine (onKind_of_actsOn h).trans (congrArg _ ?_)
  rw [hknown]
  exact (if_neg hlegal).trans
    (congrArg (State.complete · 0 0) ((if_neg hrunning).trans ((if_neg hdraining).trans (if_neg hheld))))

theorem execRelease_of_legal {s1 : State} (h : ActsOn s 6) (hknown : slotOf s (slotJob s) = some j)
    (hkeep : jobKeep s j = true) (hstate : jobState s j ≠ 1) (hrel : jobReleased s j = false)
    (hs1 : s1 = (s.setJobFlag j 11 true).complete 0 0) :
    execRelease s = .next (if jobState s1 j = 4 then s1.jobFree j else (s1.lanesSync j).jobCheck j) := by
  subst hs1
  refine (onKind_of_actsOn h).trans (congrArg _ ?_)
  simp only [hknown, hkeep, hstate, hrel, Bool.not_true, Bool.false_eq_true, or_self, if_false]

end

/-- Settles O13: of each waybill the branch that its legality leaves, and the outcomes of taking a slot and pages. -/
theorem jobWaybillsAct : Obligations.JobWaybillsAct := by
  refine ⟨?openFree, ?openFull, ?openRead, ?waitJobFree, ?waitJobFull, ?bandNever, ?bandFull, ?bandRoom, ?bandRead,
    ?spaceNever, ?spaceFull, ?spaceRoom, ?close, ?repeatOpen, ?release⟩
  case openFree =>
    intro j s hlink htaken href hkind haddr hflags hp1 hp2 hs1 hs2 honline hnamed hnew hlength hfree
    exact (execJobOpen_of_legal ⟨⟨hlink, htaken, href, hkind⟩, haddr, hflags, ⟨hp1, hp2⟩, ⟨hs1, hs2⟩, honline, hnamed,
      hnew, hlength⟩).trans (congrArg _ (State.openJob_of_free hfree))
  case openFull =>
    intro s hlink htaken href hkind haddr hflags hp1 hp2 hs1 hs2 honline hnamed hnew hlength hfull
    exact (execJobOpen_of_legal ⟨⟨hlink, htaken, href, hkind⟩, haddr, hflags, ⟨hp1, hp2⟩, ⟨hs1, hs2⟩, honline, hnamed,
      hnew, hlength⟩).trans (congrArg _ (State.openJob_of_full hfull))
  case openRead =>
    intro s hstage hask hlink hpause
    exact (execJobOpen_of_reading hstage).trans (congrArg _ (State.issue_of_due hask hlink hpause))
  case waitJobFree =>
    intro j s hlink hstage hfree
    exact (execWaitJobEnd_of_waiting hlink hstage).trans (congrArg _ (State.openJob_of_free hfree))
  case waitJobFull =>
    intro s hlink hstage hfull
    exact (execWaitJobEnd_of_waiting hlink hstage).trans (congrArg _ (State.openJob_of_full hfull))
  case bandNever =>
    rintro j _ s hlink htaken href hkind haddr hwhole hl1 hl2 hn1 hn2 hknown honline hopened hkept hnext rfl hnever
    exact (execBand_of_legal ⟨⟨hlink, htaken, href, hkind⟩, haddr, hwhole, ⟨hl1, hl2⟩, ⟨hn1, hn2⟩, hknown, honline,
      hopened, hkept, hnext⟩).trans (congrArg _ (State.startCopy_of_never hnever))
  case bandFull =>
    rintro j _ s hlink htaken href hkind haddr hwhole hl1 hl2 hn1 hn2 hknown honline hopened hkept hnext rfl hever hfull
    exact (execBand_of_legal ⟨⟨hlink, htaken, href, hkind⟩, haddr, hwhole, ⟨hl1, hl2⟩, ⟨hn1, hn2⟩, hknown, honline,
      hopened, hkept, hnext⟩).trans (congrArg _ (State.startCopy_of_full hever hfull))
  case bandRoom =>
    rintro j _ pages s hlink htaken href hkind haddr hwhole hl1 hl2 hn1 hn2 hknown honline hopened hkept hnext rfl hever
      hroom hpages
    exact (execBand_of_legal ⟨⟨hlink, htaken, href, hkind⟩, haddr, hwhole, ⟨hl1, hl2⟩, ⟨hn1, hn2⟩, hknown, honline,
      hopened, hkept, hnext⟩).trans (congrArg _ (State.startCopy_of_room hever hroom hpages))
  case bandRead =>
    intro s hstage hask hlink hpause
    exact (execBand_of_reading hstage).trans (congrArg _ (State.issue_of_due hask hlink hpause))
  case spaceNever =>
    rintro _ s hlink hstage href rfl hnever
    exact (execWaitSpaceEnd_of_waiting hlink hstage href).trans (congrArg _ (State.startCopy_of_never hnever))
  case spaceFull =>
    rintro _ s hlink hstage href rfl hever hfull
    exact (execWaitSpaceEnd_of_waiting hlink hstage href).trans (congrArg _ (State.startCopy_of_full hever hfull))
  case spaceRoom =>
    rintro _ pages s hlink hstage href rfl hever hroom hpages
    exact (execWaitSpaceEnd_of_waiting hlink hstage href).trans
      (congrArg _ (State.startCopy_of_room hever hroom hpages))
  case close =>
    intro j s hlink htaken href hkind hknown hopen hkept hlast
    exact execJobClose_of_legal ⟨hlink, htaken, href, hkind⟩ hknown hopen hkept hlast
  case repeatOpen =>
    intro j s1 s2 s hlink htaken href hkind
    exact execRepeatJob_of_open ⟨hlink, htaken, href, hkind⟩
  case release =>
    intro j s1 s hlink htaken href hkind
    exact execRelease_of_legal ⟨hlink, htaken, href, hkind⟩

end Sys2Proof.Machine
end

section
/-! The reads of jobs, their aborts and their entry to RUNNING, pauses and training (R105, R110, R114, R119, R121, R125,
R136), and O14 from their commands. -/
namespace Sys2Proof.Machine

/-- The read of stage `g` runs: it has been issued, and its answer is heard. -/
structure ReadRuns (s : State) (g : InStage) : Prop where
  stage : s.intake.stage = g
  issued : s.intake.ask = false
  link : s.evs.linkUp = true
  goes : s.intake.refused = none

section
variable {s s1 s2 : State} {j : Nat}

theorem ReadRuns.passes {g : InStage} (h : ReadRuns s g) :
    ¬ (s.intake.stage ≠ g ∨ s.intake.ask ∨ !s.evs.linkUp ∨ s.intake.refused ≠ none) := by
  obtain ⟨hstage, hask, hlink, href⟩ := h
  simp [hstage, hask, hlink, href]

/-- Counting bytes read leaves the slot taken. -/
@[simp] theorem slotJob_inBytes (n : Nat) : slotJob (s.inBytes n) = slotJob s := rfl

/-! ### Job tables (R105, R110) -/

/-- A table without an error opens the job in its slot, eligible after every other (R119). -/
theorem execJobTableReadDone_of_valid {bytes : List Byte} (h : ReadRuns s .tableRead)
    (htable : tableError bytes (slotJob s) (slotField s 22 1) (slotField s 23 1) = none) (hj : s.intake.jobSlot = j)
    (hs1 : s1 = s.inBytes (slotField s 16 4))
    (hs2 : s2 = (s1.setIntake { s1.intake with eligNext := s.intake.eligNext + 1 }).setJob j
      { planes := tablePlanes bytes (slotField s 22 1)
        stripes := tableStripes bytes (slotField s 22 1) (slotField s 23 1), elig := s.intake.eligNext }) :
    execJobTableReadDone bytes s =
      .next ((((s2.setJobState j 1 true).set (O.JOB_JOB_ID j) (slotJob s)).set (O.JOB_FLAGS j)
        (slotField s 20 2 % 8)).complete 0 0) := by
  subst hj hs1 hs2
  refine (if_neg h.passes).trans ?_
  dsimp only
  rw [slotJob_inBytes, htable]
  rfl

/-! ### Bands (R114) -/

/-- A block whose planes all pass becomes the last band of its job (R114). -/
theorem execBandCopyDone_of_valid {bytes b : List Byte} {ents : List BandEnt} (h : ReadRuns s .copying)
    (hj : s.intake.jobSlot = j) (hs1 : s1 = s.inBytes (slotField s 16 4)) (hb : b = bytes.take (slotField s 16 4))
    (hid : jobId s1 j = slotJob s1) (hstate : jobState s1 j ≠ 0) (hkept : (s.job j).aborted = false)
    (hents : ents = (List.range (s.job j).planes.length).map (dirEntry b))
    (hplanes : ((s.job j).planes.zip ents).zipIdx.find? (fun q => !planeOk b (slotField s 16 4) (slotField s 24 2)
      ((8 * (s.job j).planes.length + 63) / 64 * 64) q.1.1 q.1.2) = none)
    (hs2 : s2 = (s1.addBand j b (slotField s 24 2) ents).complete 0 0) :
    execBandCopyDone bytes s = .next (s2.forAll (jobPorts s2 j) (fun s n => s.ttSync n)) := by
  have hknown : ¬ (jobId s1 j ≠ slotJob s1 ∨ jobState s1 j = 0 ∨ (s.job j).aborted) := by
    simp [hid, hstate, hkept]
  subst hj hs1 hb hents hs2
  refine (if_neg h.passes).trans ((if_neg hknown).trans ?_)
  dsimp only
  rw [hplanes]

/-! ### IN_JOB_ABORT (R121) -/

theorem wrJobAbort_of_known {v : Nat} (hknown : slotOf s v = some j)
    (hs1 : s1 = ((s.setJob j { s.job j with aborted := true, repSet := false }).set (O.JOB_REPEAT_LEFT j)
      0).setJobFlag j 10 false)
    (hs2 : s2 = if jobState s1 j = 2 then s1.leaveRunning j else s1.setJobState j 3 false) :
    wrJobAbort v s = .ok (((s2.abortSweep j).forAll (jobPorts s2 j) (fun s n => s.ttSync n)).jobCheck j) := by
  subst hs1 hs2
  simp only [wrJobAbort, hknown]

/-! ### Entry to RUNNING (R119, R230) -/

/-- While no job is RUNNING the earliest eligible one enters, and without START_BY_ACTION is released at once. -/
theorem State.enterNext_of_eligible (hnone : ∀ k ∈ slots, jobState s k ≠ 2)
    (hj : earliestEligible s (fun _ => true) = some j)
    (hs1 : s1 = (s.setIntake { s.intake with runNext := s.intake.runNext + 1 }).enterRunning j 0 s.intake.runNext)
    (hact : jobByAction s1 j = false) : s.enterNext = (s1.toTimetable j startOrigin).jobCheck j := by
  rw [hs1] at hact ⊢
  have hfree : ¬ slots.any (fun k => decide (jobState s k = 2)) := by simpa using hnone
  refine (if_neg hfree).trans ?_
  rw [hj]
  exact congrArg (State.jobCheck · j) (if_pos (by simp [hact]))

/-! ### Thermal pauses (R136) -/

@[simp] theorem State.fld_setIntake (x : Intake) (o : Obj) (f : Fld) : (s.setIntake x).fld o f = s.fld o f := rfl

/-- An IN_PAUSE_STEP that is over, and moves the pause level to `l`, is followed by the next one. -/
theorem execPauseStep_of_moved {t l : Nat} (hs1 : s1 = (s.adv t).pauseSync) (hdir : s1.intake.pauseDir ≠ 0)
    (hstop : s1.intake.pauseAt + s1.get O.IN_PAUSE_STEP * fuMs ≤ s1.up)
    (hl : (if s1.intake.pauseDir = 1 then min 3 (s1.fld O.IN_STATUS B.IN_STATUS_PAUSE_LEVEL + 1)
      else s1.fld O.IN_STATUS B.IN_STATUS_PAUSE_LEVEL - 1) = l)
    (hmoved : l ≠ s1.fld O.IN_STATUS B.IN_STATUS_PAUSE_LEVEL) :
    execPauseStep t s =
      .next (((s1.setIntake
        { s1.intake with pauseAt := s1.intake.pauseAt + s1.get O.IN_PAUSE_STEP * fuMs }).setF O.IN_STATUS
          B.IN_STATUS_PAUSE_LEVEL l).hit O.IN_EVENTS B.IN_EVENTS_PAUSE_CHANGED 549) := by
  have hover : ¬ (s1.intake.pauseDir = 0 ∨ s1.up < s1.intake.pauseAt + s1.get O.IN_PAUSE_STEP * fuMs) :=
    not_or.mpr ⟨hdir, Nat.not_lt.mpr hstop⟩
  subst hs1 hl
  dsimp only [execPauseStep]
  rw [if_neg hover, State.fld_setIntake, if_neg hmoved]

/-! ### Channel training (R125) -/

theorem execBsTrainDone_of_trained {channels : Nat} (htrain : s.intake.training = true)
    (hs1 : s1 = (((s.setIntake { s.intake with training := false }).setF O.BS_STATUS B.BS_STATUS_CH_OK
      (andW channels (if s.bit O.BS_CONFIG B.BS_CONFIG_CHANNELS then 3 else 15))).setB O.BS_STATUS B.BS_STATUS_ONLINE
        true).setB O.BS_STATUS B.BS_STATUS_TRAIN_FAIL false) :
    execBsTrainDone true channels s = .next (s1.set O.BS_CAPACITY (configMib s1)).pagesSync := by
  subst hs1
  exact if_neg (by simp [htrain])

end

/-- Settles O14: the reads by the checks that their bytes pass, the rest by the guards of their commands. -/
theorem jobReadsAndStatesAct : Obligations.JobReadsAndStatesAct := by
  refine ⟨?table, ?band, ?abort, ?enterRunning, ?pauseUp, ?pauseDown, ?trained⟩
  case table =>
    intro bytes j s1 s2 s hstage hask hlink href
    exact execJobTableReadDone_of_valid ⟨hstage, hask, hlink, href⟩
  case band =>
    intro bytes j b s1 ents s hstage hask hlink href hj hs1 hb hid hstate hkept hents hplanes
    exact execBandCopyDone_of_valid ⟨hstage, hask, hlink, href⟩ hj hs1 hb hid hstate hkept hents hplanes rfl
  case abort =>
    rintro p v j s1 s2 _ s hserve hknown hs1 hs2 rfl
    exact access_of_ok hserve (wrJobAbort_of_known hknown hs1 hs2)
  case enterRunning =>
    intro j s1 s hnone hj hs1 hact
    have hidle : ∀ k ∈ slots, jobState s k ≠ 2 := fun k hk => of_decide_eq_true (List.all_eq_true.mp hnone k hk)
    exact congrArg (Host.Outcome.next ·.mtSync) (State.enterNext_of_eligible hidle hj hs1 hact)
  case pauseUp =>
    rintro t _ s1 _ s hs1 hdir rfl hstop rfl hl
    refine execPauseStep_of_moved hs1 (by omega) hstop ?_ (Nat.succ_ne_self _)
    rw [if_pos hdir]
    omega
  case pauseDown =>
    rintro t _ s1 _ s hs1 hdir rfl hstop rfl hpos -
    exact execPauseStep_of_moved hs1 (by omega) hstop (if_neg (by omega)) (by omega)
  case trained => exact fun _ _ _ => execBsTrainDone_of_trained

end Sys2Proof.Machine
end

section
/-! The lanes' lines and commits, the nozzle mask and the compensation table (R135, R139, R161, R165 to R169, R191), and
O15 from their commands. -/
namespace Sys2Proof.Machine

section
variable {s s1 : State} {n : Nat}

/-! ### Lines (R135, R139, R191) -/

theorem execUnpackerLine_of_serving {ecc addr j i : Nat} (h : (s.lane n).serves = some (j, i)) :
    execUnpackerLine n ecc addr s = .next (((s.unpackLine n ecc addr).laneNext n).jobCheck j) := by
  simp only [execUnpackerLine, h]

theorem execScreenLine_of_waiting {x : Line} {rest : List Line} (hraw : (s.lane n).raw = x :: rest)
    (hcoded : (s.lane n).coded = []) :
    execScreenLine n s = .next ((s.setLane n { s.lane n with raw := rest }).screenLine n x) := by
  simp only [execScreenLine, hraw, hcoded, ne_eq, not_true_eq_false, if_false]

theorem execLodgeLine_of_room {x : Line} {rest : List Line} (hcoded : (s.lane n).coded = x :: rest)
    (hroom : hasRoom s n = true) :
    execLodgeLine n s =
      .next ((((s.setLane n { s.lane n with coded := rest }).lodgeLine n x).laneNext n).jobCheck x.job) := by
  simp only [execLodgeLine, hcoded, hroom, if_true]

/-! ### Commits (R166 to R168) -/

/-- A commit that nothing refuses is pending; a lane without a stripe applies it at once. -/
theorem wrCommit_of_legal {v : Nat} (hp : s.bit (O.SCR_STATUS n) B.SCR_STATUS_COMMIT_PENDING = false)
    (hc : commitCause s n = 0)
    (hs1 : s1 = ((s.set (O.SCR_COMMIT_RESULT n) 1).setB (O.SCR_STATUS n) B.SCR_STATUS_COMMIT_PENDING true).setLane n
      { s.lane n with commit := v }) :
    wrCommit n v s = .ok (if (s.lane n).serves = none then s1.commitApply n else s1) := by
  have hlane : ((s.set (O.SCR_COMMIT_RESULT n) 1).setB (O.SCR_STATUS n) B.SCR_STATUS_COMMIT_PENDING true).lane n =
      s.lane n := rfl
  subst hs1
  simp only [wrCommit, hp, hc, hlane, State.lane_setLane, Option.isNone_iff_eq_none, ne_eq, not_true_eq_false,
    Bool.false_eq_true, if_false]

/-! ### SCR_MASK_CMD (R165) -/

/-- A nozzle that was masked before is masked by the host too, and nothing more. -/
theorem State.maskNozzle_of_masked {k : Nat} (hall : (s.mask n).all.contains k = true) :
    s.maskNozzle n k false = s.setMask n { s.mask n with byHost := setIns (s.mask n).byHost k } := if_pos hall

/-- A nozzle that was not masked takes the entry of least number that is not valid. -/
theorem State.maskNozzle_of_entry {k e : Nat} (hall : (s.mask n).all.contains k = false)
    (hs1 : s1 = s.setMask n { s.mask n with byHost := setIns (s.mask n).byHost k }) (hfree : compFree s1 n = some e) :
    s.maskNozzle n k false = ((s1.maskRaise n).compTake n e k).maskSync n := by
  subst hs1
  simp only [State.maskNozzle, hall, Bool.false_eq_true, if_false, hfree]

theorem State.maskNozzle_of_full {k : Nat} (hall : (s.mask n).all.contains k = false)
    (hs1 : s1 = s.setMask n { s.mask n with byHost := setIns (s.mask n).byHost k }) (hfree : compFree s1 n = none) :
    s.maskNozzle n k false =
      ((s1.setB (O.SCR_EVENTS n) B.SCR_EVENTS_COMP_OVERFLOW true).raise (evNozzle n) 0
        (detailOf (O.SCR_EVENTS n) B.SCR_EVENTS_COMP_OVERFLOW)).maskSync n := by
  subst hs1
  simp only [State.maskNozzle, hall, Bool.false_eq_true, if_false, hfree]

/-- SCR_MASK_CMD_MASK masks the nozzle that its word names, where the head has it. -/
theorem execScrMaskCmdMask_of_nozzle {p : Path} {v k : Nat} (hserve : s.serves p (O.SCR_MASK_CMD n) = true)
    (hk : k = v % 2 ^ 14) (hn : k < nozzles s n) : execScrMaskCmdMask p n v s = .next (s.maskNozzle n k false) := by
  have hword : (v % 2 ^ 31 + 2 ^ 31) % 2 ^ 14 = k := by omega
  have hset : bitOf (v % 2 ^ 31 + 2 ^ 31) 31 = true := by
    have hodd : (v % 2 ^ 31 + 2 ^ 31) / 2 ^ 31 % 2 = 1 := by omega
    exact decide_eq_true hodd
  refine access_of_ok hserve ?_
  simp only [wrMaskCmd, hword, hset, if_neg (Nat.not_le.mpr hn), if_true]

/-- A nozzle's compensation entry, where it has a valid one, is made invalid. -/
def State.compDrop (s : State) (n k : Nat) : State :=
  match compOf s n k with
  | some q => s.set (compObj n q.1) (q.2 % 2 ^ 31)
  | none => s

theorem State.compDrop_of_entry {k : Nat} {q : Nat × Nat} (h : compOf s n k = some q) :
    s.compDrop n k = s.set (compObj n q.1) (q.2 % 2 ^ 31) := by
  simp only [State.compDrop, h]

theorem State.compDrop_of_none {k : Nat} (h : compOf s n k = none) : s.compDrop n k = s := by
  simp only [State.compDrop, h]

/-- SCR_MASK_CMD_UNMASK of a masked nozzle takes its holders and its entry, and nozzles that wait move up (R164). -/
theorem execScrMaskCmdUnmask_of_masked {p : Path} {v k : Nat} (hserve : s.serves p (O.SCR_MASK_CMD n) = true)
    (hk : k = v % 2 ^ 14) (hn : k < nozzles s n) (hall : (s.mask n).all.contains k = true)
    (hs1 : s1 = s.setMask n
      { s.mask n with byRoll := setDel (s.mask n).byRoll k, byHost := setDel (s.mask n).byHost k }) :
    execScrMaskCmdUnmask p n v s =
      .next (((s1.compDrop n k).promote n 256).maskSync n) := by
  have hword : v % 2 ^ 31 % 2 ^ 14 = k := by omega
  have hclear : bitOf (v % 2 ^ 31) 31 = false := bitOf_of_lt (Nat.mod_lt v (by decide))
  subst hs1
  refine access_of_ok hserve ?_
  simp only [wrMaskCmd, hword, hclear, hall, if_neg (Nat.not_le.mpr hn), Bool.not_true, Bool.false_eq_true, if_false]
  rfl

/-! ### SCR_COMP (R161) -/

theorem wrComp_of_invalid {e v : Nat} (hv : compValid v = false) :
    wrComp n e v s = .ok (((s.set (compObj n e) v).promote n 256).maskSync n) := if_neg (by simp [hv])

/-- A valid entry for a nozzle of the head that no other entry names, with weights up to 24 in all, is stored. -/
theorem wrComp_of_valid {e v : Nat} (hv : compValid v = true) (hn : compNozzle v < nozzles s n)
    (hw : fieldOf v ⟨14, 4⟩ + fieldOf v ⟨18, 4⟩ + fieldOf v ⟨22, 4⟩ + fieldOf v ⟨26, 4⟩ ≤ 24)
    (hother : ∀ q ∈ compEntries s n, q.1 = e ∨ compNozzle q.2 ≠ compNozzle v)
    (hs1 : s1 = if (s.mask n).all.contains (compNozzle v) then s else s.maskRaise n) :
    wrComp n e v s = .ok (((s1.set (compObj n e) v).promote n 256).maskSync n) := by
  have hany : ¬ (compEntries s n).any (fun q => decide (q.1 ≠ e ∧ compNozzle q.2 = compNozzle v)) := by
    simp only [List.any_eq_true, decide_eq_true_eq, not_exists, not_and]
    exact fun q hq hne => (hother q hq).resolve_left hne
  subst hs1
  exact (if_pos hv).trans (if_neg (not_or.mpr ⟨Nat.not_le.mpr hn, not_or.mpr ⟨Nat.not_lt.mpr hw, hany⟩⟩))

end

/-- Settles O15: the lines by what their lanes hold, the writes by the checks that they pass. -/
theorem lanesAct : Obligations.LanesAct := by
  refine ⟨?unpack, ?screen, ?lodge, ?commitLine, ?commitBand, ?copyDone, ?maskEntry, ?maskFull, ?maskAgain,
    ?unmaskEntry, ?unmaskBare, ?compClear, ?compStore⟩
  case unpack => exact fun _ _ _ _ _ _ => execUnpackerLine_of_serving
  case screen => exact fun _ _ _ _ => execScreenLine_of_waiting
  case lodge => exact fun _ _ _ _ => execLodgeLine_of_room
  case commitLine =>
    intro p n s1 s hserve hp hc hs1
    exact access_of_ok hserve (wrCommit_of_legal hp hc hs1)
  case commitBand =>
    intro p n s1 s hserve hp hc hs1
    exact access_of_ok hserve (wrCommit_of_legal hp hc hs1)
  case copyDone => exact fun _ _ => rfl
  case maskEntry =>
    intro p n v k e s1 s hserve hk hn hall hs1 hfree
    exact (execScrMaskCmdMask_of_nozzle hserve hk hn).trans (congrArg _ (State.maskNozzle_of_entry hall hs1 hfree))
  case maskFull =>
    intro p n v k s1 s hserve hk hn hall hs1 hfree
    exact (execScrMaskCmdMask_of_nozzle hserve hk hn).trans (congrArg _ (State.maskNozzle_of_full hall hs1 hfree))
  case maskAgain =>
    intro p n v k s hserve hk hn hall
    exact (execScrMaskCmdMask_of_nozzle hserve hk hn).trans (congrArg _ (State.maskNozzle_of_masked hall))
  case unmaskEntry =>
    intro p n v k e s1 s hserve hk hn hall hs1 hcomp
    refine (execScrMaskCmdUnmask_of_masked hserve hk hn hall hs1).trans ?_
    rw [State.compDrop_of_entry hcomp]
  case unmaskBare =>
    intro p n v k s1 s hserve hk hn hall hs1 hcomp
    refine (execScrMaskCmdUnmask_of_masked hserve hk hn hall hs1).trans ?_
    rw [State.compDrop_of_none hcomp]
  case compClear =>
    intro p n e v s hserve hv
    exact access_of_ok hserve (wrComp_of_invalid hv)
  case compStore =>
    intro p n e v s1 s hserve hv hn hw hother hs1
    exact access_of_ok hserve (wrComp_of_valid hv hn hw
      (fun q hq => of_decide_eq_true (List.all_eq_true.mp hother q hq)) hs1)

end Sys2Proof.Machine
end

section
/-! Lodging's slow request and controls, a stalled predictor, and the offsets (R196 to R198, R205, R233, R236), and O16
from their commands. -/
namespace Sys2Proof.Machine

section
variable {n t v : Nat} {s s1 : State}

/-! ### The slow request (R196, R197) -/

/-- A hold that has lasted LG_SLOW_HOLD while the port asks for slow travel ends its request (R196). -/
theorem execSlowHoldExpiry_of_due {t0 : Nat} (hhold : ((s.adv t).lodge n).holdSince = some t0)
    (hslow : (s.adv t).bit (O.LG_STATUS n) B.LG_STATUS_SLOW = true)
    (hdue : t0 + (s.adv t).get (O.LG_SLOW_HOLD n) * fuUs ≤ (s.adv t).up) :
    execSlowHoldExpiry n t s = .next ((s.adv t).slowRelease n) := by
  simp only [execSlowHoldExpiry, hhold, if_pos (And.intro hslow hdue)]

theorem wrSlowHost_assert : wrSlowHost 1 s = .ok ((s.set O.LG_SLOW_HOST 1).slowOn 3 0xFF) := rfl

theorem wrSlowHost_release : wrSlowHost 0 s = .ok ((s.set O.LG_SLOW_HOST 0).slowOff 3 0xFF) := rfl

/-! ### LG_CONTROL and TT_CONTROL (Tables 7.13 and 8.8) -/

theorem wrLgControl_of_le_one (h : v ≤ 1) :
    wrLgControl n v s = .ok (if v = 1 then s.set (O.LG_MIN_FILL n) (s.get (O.LG_FILL n)) else s) :=
  if_neg (Nat.not_lt.mpr h)

theorem wrTtControl_of_le_one (h : v ≤ 1) :
    wrTtControl n v s = .ok (if v = 1 then s.set (O.TT_MAX_LAG n) 0 else s) :=
  if_neg (Nat.not_lt.mpr h)

/-! ### Predictors (R205) -/

/-- A TRACKED predictor without an edge for TT_STALL_TIME stalls, and its ports revise their lines. -/
theorem execPredStall_of_due {i : Nat} (hmode : predMode (s.adv t) i = 1)
    (hrun : (s.adv t).bit (O.TT_PRED_STATUS i) B.TT_PRED_STATUS_STALLED = false)
    (hdue : ((s.adv t).pred i).lastUp + (s.adv t).get (O.TT_STALL_TIME i) * fuUs ≤ (s.adv t).up) :
    execPredStall i t s = .next (((s.adv t).predStallNow i).predUpdate i) :=
  if_pos ⟨hmode, by rw [hrun]; rfl, hdue⟩

/-! ### Offsets (R233) -/

/-- A write of another object than TT_ARM neither arms nor disarms the port. -/
theorem armed_set_ne {o : Obj} (h : O.TT_ARM n ≠ o) : armed (s.set o v) n = armed s n := by
  rw [armed, State.get_set_ne h, armed]

/-- An offset within 48 signed bits is stored, and is live at once where the port is not armed. -/
theorem wrOffset_of_within {rev : Bool} (hlo : -(2 ^ 47) ≤ toSigned 64 v) (hhi : toSigned 64 v < 2 ^ 47)
    (hs1 : s1 = s.set (if rev then O.TT_OFFSET_REV n else O.TT_OFFSET_FWD n) v) :
    wrOffset n rev v s =
      .ok ((if armed s n then s1
        else s1.set (if rev then O.TT_OFFSET_REV_LIVE n else O.TT_OFFSET_FWD_LIVE n) v).ttSync n) := by
  have hwithin : ¬ (toSigned 64 v < -(2 ^ 47 : Nat) ∨ (2 ^ 47 : Nat) ≤ toSigned 64 v) := by
    push_cast
    exact not_or.mpr ⟨Int.not_lt.mpr hlo, Int.not_le.mpr hhi⟩
  have harmed : armed s1 n = armed s n := by
    rw [hs1]
    exact armed_set_ne (by cases rev <;> simp)
  rw [← harmed, hs1]
  exact if_neg hwithin

end

/-- Settles O16: the writes by the words that they carry, the slow request's end and the stall by the guards of their
commands. -/
theorem lodgingAndPredictorAct : Obligations.LodgingAndPredictorAct := by
  refine ⟨?slowExpiry, ?hostAssert, ?hostRelease, ?lgControl, ?stall, ?offset, ?ttControl⟩
  case slowExpiry => exact fun _ _ _ _ => execSlowHoldExpiry_of_due
  case hostAssert =>
    intro p v s hserve hv
    exact access_of_ok hserve (hv ▸ wrSlowHost_assert)
  case hostRelease =>
    intro p v s hserve hv
    exact access_of_ok hserve (hv ▸ wrSlowHost_release)
  case lgControl =>
    intro p n v s hserve hv
    exact access_of_ok hserve (wrLgControl_of_le_one hv)
  case stall => exact fun _ _ _ => execPredStall_of_due
  case offset =>
    intro p n rev v s1 s hserve hlo hhi hs1
    exact access_of_ok hserve (wrOffset_of_within hlo hhi hs1)
  case ttControl =>
    intro p n v s hserve hv
    exact access_of_ok hserve (wrTtControl_of_le_one hv)

end Sys2Proof.Machine
end

section
/-! Arming, the release and the fix of a port's lines (R212, R214, R218, R227, R232, R249), and O17 from their commands. -/
namespace Sys2Proof.Machine

section
variable {n t : Nat} {s s1 : State}

/-! ### TT_ARM (R227, R232) -/

theorem wrArm_of_accepted (harm : armed s n = false) (hno : armRefusal s n = none) : wrArm n 1 s = .ok (s.arm n) := by
  rw [wrArm, if_neg (Nat.lt_irrefl 1), if_neg Nat.one_ne_zero, harm, if_neg Bool.false_ne_true, hno]

theorem wrArm_of_armed (harm : armed s n = true) : wrArm n 0 s = .ok (s.disarm n) := by
  rw [wrArm, if_neg (Nat.not_lt_zero 1), if_pos rfl, if_pos harm]

/-! ### Release (R212) -/

/-- Outside a shuttle no gate holds the QUEUED line back: its time, at the offsets slewed for it, alone decides. -/
theorem State.releaseLine_of_queued {ecc : Nat} {x : Line} {v : Nat × Nat} (harm : armed s n = true)
    (hprint : s.mode = mdPrint) (hnext : nextLine s n = some x) (hsh : shuttle s = false) (hs1 : s1 = s.slewOffsets n)
    (hv : evalLine s1 n (linePos s1 n x (liveOffset s1 n x.rev)) x.rev (lastTime (s1.sched n)) = some v) :
    s.releaseLine n ecc =
      if ptLt (s1.pt + s1.get (O.TT_SEND_LEAD n) * 64) v.1 then s
      else s1.placeLine n x (linePos s1 n x (liveOffset s1 n x.rev)) v ecc false := by
  subst hs1
  simp only [State.releaseLine, harm, hprint, hnext, hsh, hv, Bool.not_true, Bool.false_eq_true, ne_eq,
    not_true_eq_false, false_and, or_self, if_false]

/-- The activities' transitions that are due follow the release. -/
theorem execLineRelease_eq {ecc : Nat} (h : (s.advPort n t).releaseLine n ecc = s1) :
    execLineRelease n t ecc s = .next s1.mtSync := by
  rw [execLineRelease, h]

/-! ### Fix (R214, R218, R249) -/

section
variable {prev : Option Nat} {x : TLine} {v : Nat × Nat}
  (hfirst : firstReleased (s.sched n).lastT (s.sched n).lines = some (prev, x))
  (hlead : ptLt (s.pt + s.get (O.TT_FIX_LEAD n) * 64) x.time = false)
  (hv : evalLine s n x.pos x.line.rev prev = some v)
  (hextrap : extrapOk s n v.1 x.line.rev = true)

include hfirst hlead hv hextrap

/-- A due line that lags no more than the limit becomes FIXED at its newest time, and its lag is shown. -/
theorem State.fixLine_of_within {s2 : State} (hlag : v.2 ≤ lagLimit s n)
    (hs1 : s1 = s.setSched n { s.sched n with
      lines := putLine (s.sched n).lines x.lseq (some { x with st := .fixed, time := v.1, lag := v.2 }) })
    (hs2 : s2 = (((s1.set (O.TT_LAST_FIRE n) (v.1 + s1.get (O.TT_STAGGER_DELAY n))).setSat (O.TT_LAST_LAG n) v.2).rise
      (O.TT_MAX_LAG n) (min v.2 0xFFFFFFFF)).setB (O.TT_STATUS n) B.TT_STATUS_LAGGING (decide (v.2 ≠ 0))) :
    s.fixLine n = (if v.2 = 0 then s2 else s2.inc (O.TT_LATE_PLACED n)).ttSync n := by
  subst hs1 hs2
  simp only [State.fixLine, hfirst, hlead, hv, hextrap, if_neg (Nat.not_lt.mpr hlag), Bool.not_true,
    Bool.false_eq_true, if_false]

/-- A due line that lags beyond the limit is skipped (R218); the frame asked for over a link that is UP is dropped
(R249, log 108). -/
theorem State.fixLine_of_lagging {ls : List TLine} {on : List TLine × Bool} {s2 : State} (hlag : lagLimit s n < v.2)
    (hls : ls = putLine (s.sched n).lines x.lseq none) (hon : on = if x.start then startOn ls else (ls, false))
    (hs1 : s1 = s.setSched n { s.sched n with lines := on.1, start := (s.sched n).start || on.2 })
    (hs2 : s2 = if x.frame = 0 ∨ linkUp s1 n = false then s1
      else (s1.setLink n { s1.link n with
        astray := if x.frame = 1 ∨ x.frame = 2 then (s1.link n).astray ++ [(x.lseq, true)]
          else (s1.link n).astray }).lanePut n (.drop x.lseq)) :
    s.fixLine n = ((s2.skipLine n { x.line with skip := true } x.start).ttSync n).jobCheck x.line.job := by
  subst hls hon hs1 hs2
  simp only [State.fixLine, hfirst, hlead, hv, hextrap, if_pos hlag, Bool.not_true, Bool.not_eq_true',
    Bool.false_eq_true, if_false]

end

end

/-- Settles O17: TT_ARM by what its write checks, the release by the time of the line's predictor against the send lead,
and the fix by the line's lag against its limit. -/
theorem schedulersAct : Obligations.SchedulersAct := by
  refine ⟨?arm, ?disarm, ?place, ?early, ?fix, ?skip⟩
  case arm =>
    intro p n s hserve harm hno
    exact access_of_ok hserve (wrArm_of_accepted harm hno)
  case disarm =>
    intro p n s hserve harm
    exact access_of_ok hserve (wrArm_of_armed harm)
  case place =>
    intro n t ecc x v s1 s harm hprint hnext hsh hs1 hv hlead
    exact execLineRelease_eq
      ((State.releaseLine_of_queued harm hprint hnext hsh hs1 hv).trans (if_neg (Bool.eq_false_iff.mp hlead)))
  case early =>
    intro n t ecc x v s1 s harm hprint hnext hsh hs1 hv hlead
    exact execLineRelease_eq
      ((State.releaseLine_of_queued harm hprint hnext hsh hs1 hv).trans (if_pos hlead))
  case fix =>
    intro n t prev x v s1 s2 s hfirst hlead hv hextrap hlag hs1 hs2
    exact congrArg _ (State.fixLine_of_within hfirst hlead hv hextrap hlag hs1 hs2)
  case skip =>
    intro n t prev x v ls on s1 s2 s hfirst hlead hv hextrap hlag hls hon hs1 hs2
    exact congrArg _ (State.fixLine_of_lagging hfirst hlead hv hextrap hlag hls hon hs1 hs2)

end Sys2Proof.Machine
end

section
/-! The latch of a line, the start of its rotation and the rotation's end (R217, R269, R280, R281), and O21 from their
commands. -/
namespace Sys2Proof.Machine

section
variable {n t : Nat} {s s1 : State}

/-! ### The latch (R280, R281) -/

/-- The latch of the first line, FIXED, in its window and with FI quiet: the commit, the widths, the blank decision and
the ROT_RESET follow one another. -/
theorem execLineLatch_of_due {x : TLine} {rest : List TLine} {w : State × List Nat × Bool} {want nf : Bool} {s2 : State}
    {fl : Nat} {s3 : State} (hlines : ((s.advPort n t).sched n).lines = x :: rest) (hfixed : x.st = .fixed)
    (hlatch : x.latched = false) (hwin : ptLt ((s.advPort n t).pt + 12800) (firstEdge (s.advPort n t) n x) = false)
    (hquiet : fiQuiet (s.advPort n t) n 0 = true)
    (hs1 : s1 = (s.advPort n t).ptLatch n (if x.line.gap then none else some (x.line.jid, x.line.rep, x.line.band)))
    (hw : w = s1.regulate n)
    (hwant : want = (!x.line.blank && (decide (x.frame = 0 ∨ x.frame = 4) || x.stale && decide (x.frame ≤ 2))))
    (hnf : nf = (want || !x.line.blank && decide (x.frame = 3)))
    (hs2 : s2 = if want then w.1.headBlank n else w.1)
    (hfl : fl = rotFlags s2 n (x.line.blank || nf || w.2.2) ((s.advPort n t).sched n).newRun x.line.rev w.2.2)
    (hs3 : s3 = s2.rotReset n x.lseq s2.up fl) :
    execLineLatch n t s = .next (s3.setSched n { s3.sched n with
      lines := { x with
        latched := true, widths := w.2.1, noDrive := w.2.2, flags := fl, frame := if nf then 3 else x.frame } :: rest,
      newRun := false }) := by
  subst hs3 hfl hs2 hnf hwant hw hs1
  simp only [execLineLatch, hlines, hfixed, hlatch, hwin, hquiet, ne_eq, not_true_eq_false, Bool.not_true,
    Bool.false_eq_true, or_self, if_false]

/-! ### The start of a rotation (R217) -/

/-- A latched line whose first edge has come fires, while its group is ON. -/
theorem execRotationStart_of_due {x : TLine} {rest : List TLine} {s2 : State}
    (hlines : ((s.advPort n t).sched n).lines = x :: rest) (hfixed : x.st = .fixed) (hlatch : x.latched = true)
    (hedge : ptLt (s.advPort n t).pt (firstEdge (s.advPort n t) n x) = false)
    (hon : groupOn (s.advPort n t) (groupOf n) = true)
    (hs1 : s1 = ((s.advPort n t).setSched n { (s.advPort n t).sched n with
      lines := { x with st := .firing } :: rest }).rotate n (firstEdge (s.advPort n t) n x) x.widths)
    (hs2 : s2 = ((s1.setMark n x.line.rev x.line.key x.line.num).dlSlew n).countFired n) :
    execRotationStart n t s = .next ((s2.gapReading n (firstEdge (s.advPort n t) n x)
      (upAtPress s2 ((s2.fire n).endAt.getD s2.pt))).ttSync n) := by
  subst hs2 hs1
  simp only [execRotationStart, hlines, hfixed, hlatch, hedge, hon, ne_eq, not_true_eq_false, Bool.not_true,
    Bool.false_eq_true, or_self, if_false]

/-! ### The end of a rotation (R269) -/

/-- The activities' transitions that are due follow the rotation's end. -/
theorem execRotationEnd_eq (h : (s.advPort n t).rotationEnd n = s1) : execRotationEnd n t s = .next s1.mtSync := by
  rw [execRotationEnd, h]

section
variable (hrot : s.bit (O.HP_FIRE_STATUS n) B.HP_FIRE_STATUS_ROTATING = true) (hquiet : fiQuiet s n 0 = true)

include hrot hquiet

theorem State.rotationEnd_of_spit {q : Nat} (hspit : (s.fire n).spit = some q) :
    s.rotationEnd n =
      (s.setB (O.HP_FIRE_STATUS n) B.HP_FIRE_STATUS_ROTATING false).setFire n { s.fire n with spit := none } := by
  simp only [State.rotationEnd, hrot, hquiet, hspit, Option.isSome_some, Bool.not_true, Bool.false_eq_true, or_self,
    if_false, if_true]

variable (hspit : (s.fire n).spit = none)
  (hs1 : s1 = s.setB (O.HP_FIRE_STATUS n) B.HP_FIRE_STATUS_ROTATING false)

include hspit hs1

theorem State.rotationEnd_of_idle (hnone : (s1.sched n).lines.find? (fun x => decide (x.st = .firing)) = none) :
    s.rotationEnd n = s1 := by
  subst hs1
  simp only [State.rotationEnd, hrot, hquiet, hspit, hnone, Option.isSome_none, Bool.not_true, Bool.false_eq_true,
    or_self, if_false]

/-- The line that was FIRING leaves the scheduler, and its time is the last one fired. -/
theorem State.rotationEnd_of_firing {x : TLine} {s2 : State}
    (hx : (s1.sched n).lines.find? (fun x => decide (x.st = .firing)) = some x)
    (hs2 : s2 = s1.setSched n { s1.sched n with
      lines := (s1.sched n).lines.filter (fun y => y.st ≠ .firing), lastT := some x.time }) :
    s.rotationEnd n = (((s2.lineDone x.line).passDone n x.line).jobCheck x.line.job).ttSync n := by
  subst hs2 hs1
  simp only [State.rotationEnd, hrot, hquiet, hspit, hx, Option.isSome_none, Bool.not_true, Bool.false_eq_true,
    or_self, if_false]

end

end

/-- Settles O21: the latch and the start by the guards of their commands, the end by what was rotating: a line, a
spit rotation, or neither. -/
theorem firingLinesAct : Obligations.FiringLinesAct := by
  refine ⟨?latch, ?start, ?endIdle, ?endLine, ?endSpit⟩
  case latch => exact fun _ _ _ _ _ _ _ _ _ _ _ _ => execLineLatch_of_due
  case start => exact fun _ _ _ _ _ _ _ => execRotationStart_of_due
  case endIdle =>
    intro n t s1 s hrot hquiet hspit hs1 hnone
    exact execRotationEnd_eq (State.rotationEnd_of_idle hrot hquiet hspit hs1 hnone)
  case endLine =>
    intro n t x s1 s2 s hrot hquiet hspit hs1 hx hs2
    exact execRotationEnd_eq (State.rotationEnd_of_firing hrot hquiet hspit hs1 hx hs2)
  case endSpit =>
    intro n t q s hrot hquiet hspit
    exact execRotationEnd_eq (State.rotationEnd_of_spit hrot hquiet hspit)

end Sys2Proof.Machine
end

section
/-! The states of a head link (R252, R261, R266, Table 9.13), and O18 from their commands. -/
namespace Sys2Proof.Machine

section
variable {n t v : Nat} {s s1 : State}

/-! ### HP_CONTROL (Table 9.18) -/

theorem wrHpControl_of_bringup (hup : bitOf v B.HP_CONTROL_BRINGUP = true)
    (hclr : bitOf v B.HP_CONTROL_CLR_RETIRE = false) (hretire : bitOf v B.HP_CONTROL_RETIRE = false)
    (hmode : s.mode = mdConfigure ∨ s.mode = mdReady ∨ s.mode = mdService)
    (hlink : linkState s n = 0 ∨ linkState s n = 4) :
    wrHpControl n v s = .ok ((s.set (O.HP_CONTROL n) (andW v 8)).bringUp n) := by
  simp only [wrHpControl, hup, hclr, hretire, hmode, hlink, decide_true, Bool.and_true, Bool.not_true,
    Bool.false_eq_true, and_false, false_and, or_self, if_false, if_true]

theorem wrHpControl_of_retire (hretire : bitOf v B.HP_CONTROL_RETIRE = true)
    (hclr : bitOf v B.HP_CONTROL_CLR_RETIRE = false) (hup : bitOf v B.HP_CONTROL_BRINGUP = false) :
    wrHpControl n v s = .ok ((s.set (O.HP_CONTROL n) (andW v 8)).retirePort n) := by
  simp only [wrHpControl, hup, hclr, hretire, Bool.false_eq_true, false_and, or_self, if_false, if_true]

/-- A RETIRED port's link goes to OFF, and the errors that count towards retirement are forgotten. -/
theorem wrHpControl_of_clrRetire {s2 : State} (hclr : bitOf v B.HP_CONTROL_CLR_RETIRE = true)
    (hretire : bitOf v B.HP_CONTROL_RETIRE = false) (hup : bitOf v B.HP_CONTROL_BRINGUP = false)
    (hmode : s.mode ≠ mdPrint) (hs1 : s1 = s.set (O.HP_CONTROL n) (andW v 8)) (hretired : retired s1 n = true)
    (hs2 : s2 = s1.linkOff n false) :
    wrHpControl n v s =
      .ok (s2.setLink n { s2.link n with badAt := [], refusedRow := 0, refusedAt := [], rotErrAt := [] }) := by
  subst hs2 hs1
  simp only [wrHpControl, hup, hclr, hretire, hmode, hretired, Bool.false_eq_true, false_and, and_false, and_self,
    or_self, if_false, if_true]

/-- The activities' transitions that are due follow an HP_CONTROL write that stands. -/
theorem access_mtSync_of_ok {p : Path} {o : Obj} {f : State → WRes} (hserve : s.serves p o = true) (hf : f s = .ok s1) :
    access p o s (fun s => (f s).mtSync) = .next s1.mtSync :=
  access_of_ok hserve (congrArg WRes.mtSync hf)

/-! ### Time-outs and errors (R252, R266) -/

theorem execTrainingTimeout_of_due (htrain : linkState (s.adv t) n = 2) (hlock : ((s.adv t).link n).locked = false)
    (hdue : ((s.adv t).link n).ckAt + 2 * fuMs ≤ (s.adv t).up) :
    execTrainingTimeout n t s = .next ((s.adv t).linkFail n B.HP_LINK_STATUS_TRAIN_FAIL) :=
  if_pos ⟨htrain, by rw [hlock]; rfl, hdue⟩

theorem State.headSilent_of_up (hup : linkUp s n = true) :
    s.headSilent n = (s.setB (O.HP_LINK_STATUS n) B.HP_LINK_STATUS_SILENT true).retirePort n := if_pos hup

theorem execHeadSilent_of_due (hup : linkUp (s.adv t) n = true)
    (hdue : ((s.adv t).link n).lastMsg + 2 * fuMs ≤ (s.adv t).up) :
    execHeadSilent n t s =
      .next (((s.adv t).setB (O.HP_LINK_STATUS n) B.HP_LINK_STATUS_SILENT true).retirePort n).mtSync := by
  simp only [execHeadSilent, if_pos hdue, State.headSilent_of_up hup]

/-- A malformed message is counted among those of the last 1 ms, and the 33rd of them retires an UP port. -/
theorem execRetError_eq {l : List Nat} (hl : l = (s.advPort n t).span fuMs ((s.advPort n t).link n).badAt)
    (hs1 : s1 = (((s.advPort n t).setLink n { (s.advPort n t).link n with badAt := l }).inc (O.HP_RET_ERRORS n)).setB
      (O.HP_LINK_STATUS n) B.HP_LINK_STATUS_RET_ERROR true) :
    execRetError n t s = .next (if linkUp s1 n ∧ 32 < l.length then (s1.retirePort n).mtSync else s1) := by
  subst hs1 hl
  rfl

end

/-- Settles O18: the writes by the bit of HP_CONTROL that they carry, the rest by the guards of their commands. -/
theorem headLinkStatesAct : Obligations.HeadLinkStatesAct := by
  refine ⟨?bringup, ?retire, ?clrRetire, ?trainingTimeout, ?silent, ?retError⟩
  case bringup =>
    intro p n v v1 s hserve hv1 hclr hretire hmay
    subst hv1
    exact access_mtSync_of_ok hserve (wrHpControl_of_bringup (bitOf_putBit_self _ _ _) hclr hretire hmay.1 hmay.2)
  case retire =>
    intro p n v v1 s hserve hv1 hclr hup
    subst hv1
    exact access_mtSync_of_ok hserve (wrHpControl_of_retire (bitOf_putBit_self _ _ _) hclr hup)
  case clrRetire =>
    intro p n v v1 s1 s2 s hserve hv1 hretire hup hmode hs1 hretired hs2
    subst hv1
    exact access_mtSync_of_ok hserve
      (wrHpControl_of_clrRetire (bitOf_putBit_self _ _ _) hretire hup hmode hs1 hretired hs2)
  case trainingTimeout => exact fun _ _ _ => execTrainingTimeout_of_due
  case silent => exact fun _ _ _ => execHeadSilent_of_due
  case retError => exact fun _ _ _ _ _ => execRetError_eq

end Sys2Proof.Machine
end

section
/-! Messages of a head that are taken in, and the line frames they answer (R241, R254, R255, R265), and O19 from their
commands. -/
namespace Sys2Proof.Machine

section
variable {n t epoch : Nat} {s s1 : State}

/-! ### Messages (R255) -/

/-- A link in training hears its head, and one that is UP hears it in the port's present epoch. -/
def hearsHead (s : State) (n epoch : Nat) : Prop :=
  linkState s n = 2 ∨ linkState s n = 3 ∧ epoch % 16 = s.get (O.HP_EPOCH n) % 16

/-- A message that is heard, and answers what was asked, is taken in at its time. -/
theorem State.message_of_heard {answers : Bool} {f : State → State} (hhear : hearsHead s n epoch)
    (hans : answers = true) (hs1 : s1 = s.setLink n { s.link n with lastMsg := s.up }) :
    s.message n epoch answers f = f s1 := by
  subst hs1 hans
  obtain hst | ⟨hst, hep⟩ := hhear
  · simp [State.message, hst]
  · simp [State.message, hst, hep]

/-! ### Frames that leave (R241) -/

theorem execLineFrameSend_of_free {x : TLine} (hx : nextFrame (s.advPort n t) n = some x)
    (hfree : ((s.advPort n t).link n).laneAt ≤ (s.advPort n t).up)
    (hs1 : s1 = (s.advPort n t).setLink n { (s.advPort n t).link n with
      absorb := ((s.advPort n t).link n).absorb.filter (fun q => q ≠ x.lseq)
      late := ((s.advPort n t).link n).late.filter (fun q => q ≠ x.lseq) }) :
    execLineFrameSend n t s =
      .next ((s1.frameOut n x.lseq (laneFree s1 n) x.line.data).lineMap n x.lseq
        (fun y => { y with frame := 1, stale := false })) := by
  subst hs1
  simp only [execLineFrameSend, hx, if_neg (Nat.not_lt.mpr hfree)]

/-! ### Answers to frames (R265) -/

/-- Taking a message in leaves the frames outstanding and the answers to be absorbed. -/
theorem answersFrame_of_heard {q : Nat} (hs1 : s1 = s.setLink n { s.link n with lastMsg := s.up }) :
    answersFrame s1 n q = answersFrame s n q := by
  subst hs1
  simp only [answersFrame, outstanding, State.link_setLink]

theorem answersFrame_of_outstanding {q : Nat} {o : Nat × Nat} (ho : outstanding s n q = some o) :
    answersFrame s n q = true := by
  simp only [answersFrame, ho, Option.isSome_some, Bool.true_or]

theorem answersFrame_of_absorb {q : Nat} (habs : (s.link n).absorb.contains q = true) : answersFrame s n q = true := by
  simp only [answersFrame, habs, Bool.or_true]

section
variable {lseq : Nat} (hhear : hearsHead (s.advPort n t) n epoch)
  (hs1 : s1 = (s.advPort n t).setLink n { (s.advPort n t).link n with lastMsg := (s.advPort n t).up })

include hhear hs1

theorem execAckRx_of_outstanding {o : Nat × Nat} {a : Bool} (ho : outstanding s1 n lseq = some o)
    (ha : a = (decide (s1.up < o.2) || (s1.link n).late.contains lseq)) :
    execAckRx n epoch lseq t s =
      .next ((s1.setLink n { s1.link n with
        outs := (s1.link n).outs.erase o, refusedRow := 0, late := (s1.link n).late.filter (fun q => q ≠ lseq),
        absorb := if a then lseq :: (s1.link n).absorb else (s1.link n).absorb }).lineMap n lseq
          (fun x => { x with frame := 2 })) := by
  have hans := (answersFrame_of_heard hs1).symm.trans (answersFrame_of_outstanding ho)
  simp only [execAckRx, State.message_of_heard hhear hans hs1, ho, ha]

theorem execAckRx_of_absorbed (ho : outstanding s1 n lseq = none) (habs : (s1.link n).absorb.contains lseq = true) :
    execAckRx n epoch lseq t s =
      .next (s1.setLink n { s1.link n with absorb := (s1.link n).absorb.erase lseq }) := by
  have hans := (answersFrame_of_heard hs1).symm.trans (answersFrame_of_absorb habs)
  simp only [execAckRx, State.message_of_heard hhear hans hs1, ho]

theorem execNakRx_of_outstanding {reason : Nat} {o : Nat × Nat} (ho : outstanding s1 n lseq = some o) :
    execNakRx n epoch lseq reason t s = .next (s1.refuseFrame n lseq B.HP_LINK_STATUS_NAK).mtSync := by
  have hans := (answersFrame_of_heard hs1).symm.trans (answersFrame_of_outstanding ho)
  simp only [execNakRx, State.message_of_heard hhear hans hs1, ho]

end

theorem execAckTimeout_of_due {lseq : Nat} {o : Nat × Nat} (ho : outstanding (s.advPort n t) n lseq = some o)
    (hdue : o.2 + (s.advPort n t).get (O.HP_ACK_TIMEOUT n) * 2560 ≤ (s.advPort n t).up)
    (hs1 : s1 = (s.advPort n t).setLink n { (s.advPort n t).link n with
      late := lseq :: ((s.advPort n t).link n).late.filter (fun q => q ≠ lseq) }) :
    execAckTimeout n lseq t s =
      .next ((s1.inc (O.HP_ACK_TIMEOUTS n)).refuseFrame n lseq B.HP_LINK_STATUS_ACK_TIMEOUT).mtSync := by
  subst hs1
  simp only [execAckTimeout, ho, if_pos hdue]

/-! ### STATUS (R254, Table 9.15) -/

theorem linkState_set_ne {o : Obj} {v : Nat} (h : O.HP_STATE n ≠ o) : linkState (s.set o v) n = linkState s n := by
  simp only [linkState, State.fld, State.get_set_ne h]

@[simp] theorem linkState_setLink (k : Nat) (x : Link) : linkState (s.setLink k x) n = linkState s n := rfl
@[simp] theorem linkState_setHealth (k : Nat) (x : Health) : linkState (s.setHealth k x) n = linkState s n := rfl

/-- The activities' transitions that are due follow a STATUS. -/
theorem execStatusRx_of_heard {flags : Nat} (hhear : hearsHead (s.advPort n t) n epoch)
    (hs1 : s1 = (s.advPort n t).setLink n { (s.advPort n t).link n with lastMsg := (s.advPort n t).up }) :
    execStatusRx n epoch flags t s = .next (s1.headStatus n flags).mtSync := by
  simp only [execStatusRx, State.message_of_heard hhear rfl hs1]

/-- A STATUS of a link that is UP, without ROT_ERR and UNIT_ERR. -/
theorem State.headStatus_of_up {flags f : Nat} {s2 s3 : State} (hlink : linkState s n = 3) (hf : f = flags % 1024)
    (hrot : bitOf f 8 = false) (hunit : bitOf f 9 = false)
    (hs1 : s1 = (s.set (O.HP_HEAD_FLAGS n) f).setHealth n { s.health n with hot := bitOf f 6 })
    (hs2 : s2 = if flags % 8 = 7 then s1 else s1.setB (O.HP_LINK_STATUS n) B.HP_LINK_STATUS_LOCK_LOST true)
    (hs3 : s3 = s2.thermalEval n) :
    s.headStatus n flags =
      if bitOf f 4 then (s3.setB (O.HP_LINK_STATUS n) B.HP_LINK_STATUS_HEAD_FAULT true).retirePort n else s3 := by
  have hlocks : f % 8 = flags % 8 := by omega
  have hup : linkUp s1 n = true := by
    rw [hs1, linkUp, linkState_setHealth, linkState_set_ne (by simp), hlink]
    rfl
  subst hs3 hs2 hs1
  rw [← hlocks]
  simp only [State.headStatus, ← hf, hrot, hunit, Bool.false_eq_true, if_false, decide_eq_true_eq]
  exact if_pos hup

end

/-- Settles O19: the frames by the guards of their commands, the messages as ones that the link hears. -/
theorem headFramesAct : Obligations.HeadFramesAct := by
  refine ⟨?send, ?ack, ?absorbed, ?nak, ?timeout, ?status⟩
  case send => exact fun _ _ _ _ _ => execLineFrameSend_of_free
  case ack =>
    intro n epoch lseq t o a s1 s hlink hep hs1 ho ha
    exact execAckRx_of_outstanding (.inr ⟨hlink, hep⟩) hs1 ho ha
  case absorbed =>
    intro n epoch lseq t s1 s hlink hep hs1 ho habs
    exact execAckRx_of_absorbed (.inr ⟨hlink, hep⟩) hs1 ho habs
  case nak =>
    intro n epoch lseq reason t o s1 s hlink hep hs1 ho
    exact execNakRx_of_outstanding (.inr ⟨hlink, hep⟩) hs1 ho
  case timeout => exact fun _ _ _ _ _ _ => execAckTimeout_of_due
  case status =>
    intro n epoch flags t f s1 s2 s3 s4 s hlink hep hs1 hf hrot hunit hs2 hs3 hs4
    have hlink1 : linkState s1 n = 3 := by rw [hs1, linkState_setLink, hlink]
    refine (execStatusRx_of_heard (.inr ⟨hlink, hep⟩) hs1).trans ?_
    rw [State.headStatus_of_up hlink1 hf hrot hunit hs2 hs3 hs4]

end Sys2Proof.Machine
end

section
/-! The replies of a head and the host's accesses of its report card (R256, R258, R259, R262, R267), and O20 from their
commands. -/
namespace Sys2Proof.Machine

section
variable {n t epoch tag : Nat} {c : Cmd} {s s1 : State}

/-! ### Replies (R255, R256) -/

/-- A reply that is heard, and that the outstanding command can have by its TAG and its kind, is that command's. -/
theorem State.reply_of_heard {ops : List Nat} {f : State → Cmd → State} (hhear : hearsHead s n epoch)
    (hs1 : s1 = s.setLink n { s.link n with lastMsg := s.up }) (hc : (s1.link n).cmd = some c) (htag : c.tag = tag)
    (hop : ops.contains c.op = true) : s.reply n epoch tag ops f = f s1 c := by
  have hcmd : (s.link n).cmd = some c := by simpa only [hs1, State.link_setLink] using hc
  have hans : (s.link n).cmd.any (fun c => decide (c.tag = tag) && ops.contains c.op) = true := by
    simp only [hcmd, Option.any_some, htag, hop, decide_true, Bool.and_true]
  simp only [State.reply, State.message_of_heard hhear hans hs1, hc]

section
variable (hhear : hearsHead (s.advPort n t) n epoch)
  (hs1 : s1 = (s.advPort n t).setLink n { (s.advPort n t).link n with lastMsg := (s.advPort n t).up })
  (hc : (s1.link n).cmd = some c) (htag : c.tag = tag)

include hhear hs1 hc htag

theorem execReadDataRx_of_host {data : Nat} (hop : c.op = 1) (huse : c.use = 1) :
    execReadDataRx n epoch tag data t s =
      .next (((s1.set (O.HP_RC_DATA n) (data % 2 ^ 32)).set (O.HP_RC_RESULT n) 0).cmdOver n) := by
  have hkind : [1].contains c.op = true := by rw [hop]; rfl
  simp only [execReadDataRx, State.reply_of_heard hhear hs1 hc htag hkind, huse]

theorem execWriteDoneRx_of_host {result : Nat} (hop : c.op = 2) (huse : c.use = 1) :
    execWriteDoneRx n epoch tag result t s =
      .next ((s1.set (O.HP_RC_RESULT n) (if result = 0 then 0 else result + 2)).cmdOver n) := by
  have hkind : [2].contains c.op = true := by rw [hop]; rfl
  simp only [execWriteDoneRx, State.reply_of_heard hhear hs1 hc htag hkind, huse]

theorem execCmdDoneRx_of_host {result : Nat} (hop : c.op = 1) (huse : c.use = 1) :
    execCmdDoneRx n epoch tag result t s =
      .next ((s1.set (O.HP_RC_RESULT n) (if result = 0 then 0 else result + 2)).cmdOver n) := by
  have hkind : [1, 2, 3, 4, 5, 6].contains c.op = true := by rw [hop]; rfl
  simp only [execCmdDoneRx, State.reply_of_heard hhear hs1 hc htag hkind, huse]

theorem execTrainResultRx_of_trim {e0 e1 : Nat} (hop : c.op = 6) :
    execTrainResultRx n epoch tag e0 e1 t s =
      .next ((s1.cmdOver n).trimJudge n (decide (e0 = 0)) (decide (e1 = 0))) := by
  have hkind : [6].contains c.op = true := by rw [hop]; rfl
  simp only [execTrainResultRx, State.reply_of_heard hhear hs1 hc htag hkind]

end

/-! ### Time-outs (R256) -/

/-- A command other than the identity read is asked once more when its time limit has passed. -/
theorem execCmdTimeout_of_due {a : Nat} (hc : ((s.advPort n t).link n).cmd = some c) (hsent : c.sentAt = some a)
    (hdue : a + cmdLimit c ≤ (s.advPort n t).up) (hid : c.use ≠ 0 ∨ ((s.advPort n t).link n).card ≠ [])
    (hagain : c.again = false) :
    execCmdTimeout n t s = .next ((s.advPort n t).cmdSend n { c with again := true }) := by
  have hlate : c.sentAt.any (fun a => decide (a + cmdLimit c ≤ (s.advPort n t).up)) = true := by
    rw [hsent, Option.any_some]
    exact decide_eq_true hdue
  simp only [execCmdTimeout, hc, hlate, if_neg (not_and_or.mpr hid), hagain, Bool.not_true, Bool.not_false,
    Bool.false_eq_true, if_false, if_true]

/-! ### HP_RC_CMD (R267, R316) -/

theorem State.cmdQueue_of_idle (hc : (s.link n).cmd = none) : s.cmdQueue n c = s.cmdSend n c := by
  simp only [State.cmdQueue, hc, Option.isSome_none, Bool.false_eq_true, if_false]

section
variable (hc : (s.link n).cmd = none) (hlink : linkState s n = 3 ∨ linkState s n = 1)
  (hrec : s.bit (O.HP_HEALTH_STATUS n) B.HP_HEALTH_STATUS_REC_BUSY = false) (hs1 : s1 = s.set (O.HP_RC_RESULT n) 1)

include hc hlink hrec

/-- No access and no record write holds HP_RC_CMD back. -/
theorem rcCmd_free : ¬ ((s.link n).cmd.isSome = true ∨ (linkState s n ≠ 3 ∧ linkState s n ≠ 1) ∨
    s.bit (O.HP_HEALTH_STATUS n) B.HP_HEALTH_STATUS_REC_BUSY = true) := by
  simpa [hc, hrec, or_iff_not_imp_left] using hlink

include hs1

theorem wrRcCmd_read :
    wrRcCmd n 1 s = .ok (s1.cmdSend n { op := 1, a0 := s1.get (O.HP_RC_ADDR n), a1 := 0, use := 1 }) := by
  have hidle : (s1.link n).cmd = none := by rw [hs1]; exact hc
  rw [wrRcCmd, if_neg (by decide), if_neg (rcCmd_free hc hlink hrec), if_neg (by simp), ← hs1]
  exact congrArg _ (State.cmdQueue_of_idle hidle)

theorem wrRcCmd_write (hcurfew : curfew s = false) :
    wrRcCmd n 2 s =
      .ok (s1.cmdSend n { op := 2, a0 := s1.get (O.HP_RC_ADDR n), a1 := s1.get (O.HP_RC_DATA n), use := 1 }) := by
  have hidle : (s1.link n).cmd = none := by rw [hs1]; exact hc
  rw [wrRcCmd, if_neg (by decide), if_neg (rcCmd_free hc hlink hrec), if_neg (by simp [hcurfew]), ← hs1]
  exact congrArg _ (State.cmdQueue_of_idle hidle)

end

end

/-- Settles O20: the replies as ones that the link hears and its outstanding command has, the accesses by the checks that
they pass. -/
theorem headCommandsAct : Obligations.HeadCommandsAct := by
  refine ⟨?readData, ?writeDone, ?cmdDone, ?trainResult, ?cmdTimeout, ?read, ?write⟩
  case readData =>
    intro n epoch tag data t c s1 s hlink hep hs1 hc hop huse htag
    exact execReadDataRx_of_host (.inr ⟨hlink, hep⟩) hs1 hc htag hop huse
  case writeDone =>
    intro n epoch tag result t c s1 s hlink hep hs1 hc hop huse htag
    exact execWriteDoneRx_of_host (.inr ⟨hlink, hep⟩) hs1 hc htag hop huse
  case cmdDone =>
    intro n epoch tag result t c s1 s hlink hep hs1 hc hop huse htag
    exact execCmdDoneRx_of_host (.inr ⟨hlink, hep⟩) hs1 hc htag hop huse
  case trainResult =>
    intro n epoch tag e0 e1 t c s1 s hlink hs1 hc hop htag
    exact execTrainResultRx_of_trim (.inl hlink) hs1 hc htag hop
  case cmdTimeout => exact fun _ _ _ _ _ => execCmdTimeout_of_due
  case read =>
    intro p n s1 s hserve hc hlink hrec hs1
    exact access_of_ok hserve (wrRcCmd_read hc hlink hrec hs1)
  case write =>
    intro p n s1 s hserve hc hlink hrec hcurfew hs1
    exact access_of_ok hserve (wrRcCmd_write hc hlink hrec hs1 hcurfew)

end Sys2Proof.Machine
end

section
/-! The commits of a pulse train and the warming pulses of a port (R277, R278, R292, R294), and O22 from their commands. -/
namespace Sys2Proof.Machine

section
variable {n t v : Nat} {s s1 s2 : State}

/-! ### Commits (R277, R278) -/

/-- A served access whose write is refused is recorded with its abort code (R423). -/
theorem access_of_no {p : Path} {o : Obj} {c : Nat} {f : State → WRes} (hserve : s.serves p o = true)
    (hf : f s = .no s1 c) : access p o s f = .next (s1.abort p o.index o.sub .primary c) := by
  rw [access_of_serves hserve, hf]
  rfl

/-- A train that the checks refuse gives its cause, and nothing is pending. -/
theorem wrPtCommit_of_refused {cse : Nat} (hv : v = 1 ∨ v = 2) (hidle : trainPending s n = false)
    (hcse : cse = trainCause s n (shadowTrain s n)) (hbad : cse ≠ 0) :
    wrPtCommit n v s = .no (s.set (O.HP_PT_RESULT n) cse) abRange := by
  have hword : ¬ (v ≠ 1 ∧ v ≠ 2) := by omega
  simp only [wrPtCommit, hidle, ← hcse, if_neg hword, if_pos hbad, Bool.false_eq_true, if_false]

/-- A commit that nothing refuses is pending with the value written, and a head that is UP is asked for a new MAP. -/
theorem wrPtCommit_of_valid {sh lv : Train} {nw : Bool} (hv : v = 1 ∨ v = 2) (hidle : trainPending s n = false)
    (hsh : sh = shadowTrain s n) (hlv : lv = liveTrain s n) (hvalid : trainCause s n sh = 0)
    (hkept : armed s n = false ∨
      (sh.slot = lv.slot ∧ sh.vnom = lv.vnom ∧ minPeriodOf s n sh ≤ s.get (O.TT_MIN_PERIOD n)))
    (hnw : nw = decide (sh.map ≠ lv.map ∨ sh.pulses ≠ lv.pulses))
    (hs1 : s1 = ((s.set (O.HP_PT_RESULT n) 1).setB (O.HP_PT_STATUS n) B.HP_PT_STATUS_PENDING true).setFire n
      { s.fire n with commit := v, mapNew := nw })
    (hs2 : s2 = if nw ∧ linkUp s1 n then
        (s1.setB (O.HP_PT_STATUS n) B.HP_PT_STATUS_MAP_WAIT true).cmdQueue n
          { op := 3, a0 := sh.map, a1 := sh.pulses + 256 * rcGroups s1 n, use := 3 }
      else s1) :
    wrPtCommit n v s = .ok (s2.ptCheck n) := by
  have hword : ¬ (v ≠ 1 ∧ v ≠ 2) := by omega
  have hfree : ¬ (armed s n = true ∧
      (sh.slot ≠ lv.slot ∨ sh.vnom ≠ lv.vnom ∨ s.get (O.TT_MIN_PERIOD n) < minPeriodOf s n sh)) := by
    obtain hdisarmed | ⟨hslot, hvnom, hperiod⟩ := hkept
    · simp [hdisarmed]
    · simp [hslot, hvnom, hperiod]
  have hfire : ((s.set (O.HP_PT_RESULT n) 1).setB (O.HP_PT_STATUS n) B.HP_PT_STATUS_PENDING true).fire n = s.fire n := rfl
  subst hs2 hs1 hnw
  simp only [wrPtCommit, hidle, ← hsh, ← hlv, hvalid, hfire, if_neg hword, if_neg hfree, ne_eq, not_true_eq_false,
    Bool.false_eq_true, if_false]

/-! ### Warming pulses (R292, R294) -/

/-- A period that is over since the last moment, where there is one, is not too early. -/
theorem tooEarly_of_passed {last : Option Nat} {period : Nat}
    (h : last.all (fun a => decide (a + period ≤ s.up)) = true) : tooEarly s last period = false := by
  cases last with
  | none => rfl
  | some a => exact decide_eq_false (Nat.not_lt.mpr (of_decide_eq_true h))

/-- A warming pulse fires, and readings that waited for it go on. -/
def State.warmFire (s : State) (n w : Nat) : State :=
  let s := (s.inc (O.HP_WARM_PULSES n)).setB (O.HP_FIRE_STATUS n) B.HP_FIRE_STATUS_WARMING true
  (s.drive n (ofSigned 64 ((s.pt : Int) + (dline s n).trim)) 1 0 [0] [w]).senseGrant

/-- A warming pulse is skipped and not made up, and readings that waited for it go on. -/
def State.warmSkip (s : State) (n : Nat) : State :=
  ((s.inc (O.HP_WARM_SKIPPED n)).setB (O.HP_FIRE_STATUS n) B.HP_FIRE_STATUS_WARMING false).senseGrant

/-- What WARM_PULSE_DUE does, with the guard of its period as `tooEarly`. -/
theorem execWarmPulseDue_eq :
    execWarmPulseDue n t s =
      let s0 := s.advPort n t
      let per := s0.get (O.HP_WARM_PERIOD n)
      if per = 0 ∨ !firingMode s0 ∨ tooEarly s0 (s0.fire n).warmAt (per * 64) then .next s0
      else
        let s1 := s0.setFire n { s0.fire n with warmAt := some s0.up }
        let w := regulated (liveTrain s1 n).warm (s1.pg (groupOf n)).k
        if warmMay s1 n w then .next (s1.warmFire n w) else .next (s1.warmSkip n) := rfl

section
variable {w : Nat} (hper : (s.advPort n t).get (O.HP_WARM_PERIOD n) ≠ 0) (hmode : firingMode (s.advPort n t) = true)
  (hdue : ((s.advPort n t).fire n).warmAt.all
    (fun a => decide (a + (s.advPort n t).get (O.HP_WARM_PERIOD n) * 64 ≤ (s.advPort n t).up)) = true)
  (hs1 : s1 = (s.advPort n t).setFire n { (s.advPort n t).fire n with warmAt := some (s.advPort n t).up })
  (hw : w = regulated (liveTrain s1 n).warm (s1.pg (groupOf n)).k)

include hper hmode hdue hs1 hw

/-- A due pulse fires when every condition holds (R292, R293), and is otherwise skipped. -/
theorem execWarmPulseDue_of_due :
    execWarmPulseDue n t s = .next (if warmMay s1 n w then s1.warmFire n w else s1.warmSkip n) := by
  simp only [execWarmPulseDue_eq, tooEarly_of_passed hdue, hper, hmode, ← hs1, ← hw, Bool.not_true,
    Bool.false_eq_true, or_self, if_false, apply_ite Host.Outcome.next]

theorem execWarmPulseDue_of_may (hmay : warmMay s1 n w = true) :
    execWarmPulseDue n t s = .next (s1.warmFire n w) := by
  rw [execWarmPulseDue_of_due hper hmode hdue hs1 hw, if_pos hmay]

theorem execWarmPulseDue_of_mayNot (hmay : warmMay s1 n w = false) :
    execWarmPulseDue n t s = .next (s1.warmSkip n) := by
  rw [execWarmPulseDue_of_due hper hmode hdue hs1 hw, hmay, if_neg Bool.false_ne_true]

end

end

/-- Settles O22: the commits by the checks of their write, the warming pulse by the guards of its command. -/
theorem trainsAndWarmingAct : Obligations.TrainsAndWarmingAct := by
  refine ⟨?line, ?lineRefused, ?band, ?bandRefused, ?fires, ?skipped⟩
  case line =>
    intro p n sh lv nw s1 s2 s hserve hidle hsh hlv hvalid hkept hnw hs1 hs2
    exact access_of_ok hserve (wrPtCommit_of_valid (.inl rfl) hidle hsh hlv hvalid hkept hnw hs1 hs2)
  case lineRefused =>
    intro p n cse s hserve hidle hcse hbad
    exact access_of_no hserve (wrPtCommit_of_refused (.inl rfl) hidle hcse hbad)
  case band =>
    intro p n sh lv nw s1 s2 s hserve hidle hsh hlv hvalid hkept hnw hs1 hs2
    exact access_of_ok hserve (wrPtCommit_of_valid (.inr rfl) hidle hsh hlv hvalid hkept hnw hs1 hs2)
  case bandRefused =>
    intro p n cse s hserve hidle hcse hbad
    exact access_of_no hserve (wrPtCommit_of_refused (.inr rfl) hidle hcse hbad)
  case fires =>
    rintro n t s1 w _ s hper hmode hdue hs1 hw hmay rfl
    exact execWarmPulseDue_of_may hper hmode hdue hs1 hw hmay
  case skipped => exact fun _ _ _ _ _ => execWarmPulseDue_of_mayNot

end Sys2Proof.Machine
end

section
/-! The conversions, the limits and the control of a power group (R282, R287, R288, R290, R291, R297), and O23 from their
commands. -/
namespace Sys2Proof.Machine

section
variable {g t v : Nat} {s s1 s2 : State}

/-! ### Conversions and the age of their voltage (R282, R287) -/

/-- What PG_CONVERSION_DUE does, with the guard of its period as `tooEarly`. -/
theorem execPgConversionDue_eq :
    execPgConversionDue g t s =
      let s0 := s.adv t
      if (groupState s0 g = 1 ∨ groupState s0 g = 2) ∧
          !tooEarly s0 (s0.pg g).dueAt (s0.get (O.HP_PG_PERIOD g) * 64) then
        let s1 := s0.setPg g { s0.pg g with dueAt := some s0.up }
        let s2 := s1.senseWithdraw (fun r => decide (r.what = Sensed.group ∧ r.inst = g))
        .next (s2.senseAsk { cls := 0, inst := g, what := Sensed.group, input := 0x60 + g, entered := senseCycle s2 })
      else .next s0 := rfl

theorem execPgConversionDue_of_due (hstate : groupState (s.adv t) g = 1 ∨ groupState (s.adv t) g = 2)
    (hdue : ((s.adv t).pg g).dueAt.all
      (fun a => decide (a + (s.adv t).get (O.HP_PG_PERIOD g) * 64 ≤ (s.adv t).up)) = true)
    (hs1 : s1 = (s.adv t).setPg g { (s.adv t).pg g with dueAt := some (s.adv t).up })
    (hs2 : s2 = s1.senseWithdraw (fun r => decide (r.what = Sensed.group ∧ r.inst = g))) :
    execPgConversionDue g t s =
      .next (s2.senseAsk
        { cls := 0, inst := g, what := Sensed.group, input := 0x60 + g, entered := senseCycle s2 }) := by
  subst hs2 hs1
  exact execPgConversionDue_eq.trans (if_pos ⟨hstate, by rw [tooEarly_of_passed hdue]; rfl⟩)

theorem State.pgStale_of_fresh (hstate : groupState s g = 1 ∨ groupState s g = 2)
    (hfresh : s.bit (O.HP_PG_STATUS g) B.HP_PG_STATUS_V_STALE = false) :
    s.pgStale g =
      (s.setB (O.HP_PG_STATUS g) B.HP_PG_STATUS_V_STALE true).setPg g { s.pg g with staleAt := some s.up } :=
  if_pos ⟨hstate, by rw [hfresh]; rfl⟩

theorem execPgVStale_of_stale (hstale : voltageStale (s.adv t) g = true) :
    execPgVStale g t s = .next ((s.adv t).pgStale g) := if_pos hstale

/-! ### Limits (R288, Table 10.6) -/

/-- A group that is ON goes to FAULT once its clamp, or its stale voltage, has stood for HP_PG_CLAMP_TIME (R288). -/
theorem execPgClampTimeout_of_due {a : Nat} (hon : groupState (s.adv t) g = 2)
    (hlim : (s.adv t).get (O.HP_PG_CLAMP_TIME g) ≠ 0)
    (hsince : ((s.adv t).pg g).clampAt = some a ∨ ((s.adv t).pg g).staleAt = some a)
    (hdue : a + (s.adv t).get (O.HP_PG_CLAMP_TIME g) * fuUs ≤ (s.adv t).up) :
    execPgClampTimeout g t s = .next ((s.adv t).pgFault g 1).mtSync := by
  obtain hclamp | hstale := hsince
  · simp only [execPgClampTimeout, hclamp, hdue, hon, hlim, decide_true, Bool.true_or, ne_eq, not_false_eq_true,
      and_self, if_true]
  · simp only [execPgClampTimeout, hstale, hdue, hon, hlim, decide_true, Bool.or_true, ne_eq, not_false_eq_true,
      and_self, if_true]

theorem execPgRampTimeout_of_due (hramp : groupState (s.adv t) g = 1)
    (hdue : ((s.adv t).pg g).rampAt + (s.adv t).get (O.HP_PG_RAMP_LIMIT g) * fuMs ≤ (s.adv t).up) :
    execPgRampTimeout g t s = .next ((s.adv t).pgFault g 0).mtSync := if_pos ⟨hramp, hdue⟩

/-! ### The ports of a group -/

theorem forall_mem_groupPorts {q : Nat → Prop} : (∀ n ∈ groupPorts g, q n) ↔ ∀ k, k < 12 → q (12 * g + k) := by
  simp only [groupPorts, List.forall_mem_map, List.mem_range]

/-- HPENg falls once every port of the group has had no rotation for 1 µs (R291). -/
theorem execHpenOff_of_quiet (hfalling : ((s.adv t).pg g).falling = true)
    (hquiet : ∀ k, k < 12 → (s.adv t).bit (O.HP_FIRE_STATUS (12 * g + k)) B.HP_FIRE_STATUS_ROTATING = false ∧
      fiQuiet (s.adv t) (12 * g + k) fuUs = true) :
    execHpenOff g t s =
      .next (((s.adv t).setB (O.HP_PG_STATUS g) B.HP_PG_STATUS_HPEN false).setPg g
        { (s.adv t).pg g with falling := false }) := by
  refine if_pos ⟨hfalling, List.all_eq_true.mpr (forall_mem_groupPorts.mpr fun k hk => ?_)⟩
  obtain ⟨hstill, hlow⟩ := hquiet k hk
  rw [hstill, hlow]
  rfl

/-! ### HP_PG_CONTROL (R290, R291, R297, Table 10.15) -/

section
variable {en : Bool} (hen : en = bitOf v B.HP_PG_CONTROL_ENABLE)
  (hmay : en = true ∨ s.bit (O.HP_PG_CONTROL g) B.HP_PG_CONTROL_ENABLE = false ∨
    ∀ k, k < 12 → armed s (12 * g + k) = false)

include hmay

/-- ENABLE is not cleared while a port of the group is armed. -/
theorem pgEnable_free :
    ¬ (s.bit (O.HP_PG_CONTROL g) B.HP_PG_CONTROL_ENABLE = true ∧ (!en) = true ∧ (groupPorts g).any (armed s) = true) := by
  rintro ⟨hset, hclear, hany⟩
  obtain ⟨n, hn, harmed⟩ := List.any_eq_true.mp hany
  obtain hon | hoff | hdisarmed := hmay
  · simp [hon] at hclear
  · simp [hoff] at hset
  · have hidle : armed s n = false := (forall_mem_groupPorts (q := (armed s · = false))).mpr hdisarmed n hn
    simp [hidle] at harmed

include hen

theorem wrPgControl_of_enable (hfault : bitOf v B.HP_PG_CONTROL_CLR_FAULT = false)
    (hstats : bitOf v B.HP_PG_CONTROL_CLR_STATS = false) :
    wrPgControl g v s = .ok ((s.setB (O.HP_PG_CONTROL g) B.HP_PG_CONTROL_ENABLE en).pgSync g) := by
  simp only [wrPgControl, ← hen, if_neg (pgEnable_free hmay), hfault, hstats, Bool.false_eq_true, false_and, if_false]

/-- CLR_FAULT puts a group in FAULT back to OFF, outside PRINT. -/
theorem wrPgControl_of_clrFault (hfault : bitOf v B.HP_PG_CONTROL_CLR_FAULT = true)
    (hstats : bitOf v B.HP_PG_CONTROL_CLR_STATS = false) (hmode : groupState s g ≠ 3 ∨ s.mode ≠ mdPrint)
    (hs1 : s1 = s.setB (O.HP_PG_CONTROL g) B.HP_PG_CONTROL_ENABLE en)
    (hs2 : s2 = if groupState s g = 3 then
        (s1.setF (O.HP_PG_STATUS g) B.HP_PG_STATUS_STATE 0).setB (O.HP_PG_STATUS g) B.HP_PG_STATUS_FAULT_CAUSE false
      else s1) :
    wrPgControl g v s = .ok (s2.pgSync g) := by
  have hprint : ¬ (groupState s g = 3 ∧ s.mode = mdPrint) := not_and_or.mpr hmode
  subst hs2 hs1
  simp only [wrPgControl, ← hen, if_neg (pgEnable_free hmay), hfault, hstats, decide_eq_true_eq, true_and,
    if_neg hprint, Bool.false_eq_true, if_false]

/-- CLR_STATS forgets the least voltage and the peak. -/
theorem wrPgControl_of_clrStats (hfault : bitOf v B.HP_PG_CONTROL_CLR_FAULT = false)
    (hstats : bitOf v B.HP_PG_CONTROL_CLR_STATS = true)
    (hs1 : s1 = s.setB (O.HP_PG_CONTROL g) B.HP_PG_CONTROL_ENABLE en) :
    wrPgControl g v s =
      .ok ((((s1.set (O.HP_PG_V_MIN g) 32767).set (O.HP_PG_PEAK g) 0).setPg g
        { s1.pg g with peaked := false }).pgSync g) := by
  subst hs1
  simp only [wrPgControl, ← hen, if_neg (pgEnable_free hmay), hfault, hstats, Bool.false_eq_true, false_and, if_false,
    if_true]

end

end

/-- Settles O23: the conversions and the limits by the guards of their commands, the control by the bits that its word
carries. -/
theorem powerGroupsAct : Obligations.PowerGroupsAct := by
  refine ⟨?conversion, ?stale, ?clamp, ?ramp, ?hpenOff, ?enable, ?clrFault, ?clrStats⟩
  case conversion => exact fun _ _ _ _ _ => execPgConversionDue_of_due
  case stale =>
    intro g t s hstate hfresh hstale
    exact (execPgVStale_of_stale hstale).trans (congrArg _ (State.pgStale_of_fresh hstate hfresh))
  case clamp => exact fun _ _ _ _ => execPgClampTimeout_of_due
  case ramp => exact fun _ _ _ => execPgRampTimeout_of_due
  case hpenOff => exact fun _ _ _ => execHpenOff_of_quiet
  case enable =>
    intro p g on s hserve hmay
    have hbits : on = bitOf on.toNat B.HP_PG_CONTROL_ENABLE ∧ bitOf on.toNat B.HP_PG_CONTROL_CLR_FAULT = false ∧
        bitOf on.toNat B.HP_PG_CONTROL_CLR_STATS = false := by cases on <;> decide
    obtain ⟨hen, hfault, hstats⟩ := hbits
    exact access_mtSync_of_ok hserve (wrPgControl_of_enable hen hmay hfault hstats)
  case clrFault =>
    intro p g v en s1 s2 s hserve hen hmay hs1 hstats hmode hs2
    rw [← bitOf_putBit_ne (i := B.HP_PG_CONTROL_CLR_FAULT) (b := true) (by decide)] at hen hstats
    exact access_mtSync_of_ok hserve
      (wrPgControl_of_clrFault hen hmay (bitOf_putBit_self _ _ _) hstats hmode hs1 hs2)
  case clrStats =>
    intro p g v en s1 s hserve hen hmay hs1 hfault
    rw [← bitOf_putBit_ne (i := B.HP_PG_CONTROL_CLR_STATS) (b := true) (by decide)] at hen hfault
    exact access_mtSync_of_ok hserve (wrPgControl_of_clrStats hen hmay hfault (bitOf_putBit_self _ _ _) hs1)

end Sys2Proof.Machine
end

section
/-! A head's readings that fall due, the age of its temperature, and the host's clears of its faults (R300, R305, R308,
R310, Table 11.3), and O24 from their commands. -/
namespace Sys2Proof.Machine

section
variable {n t v : Nat} {s s1 s2 s3 s4 s5 : State}

/-! ### Roll call's idle reading (R300) -/

section
variable (hdue : tooEarly (s.advPort n t) ((s.advPort n t).health n).idleAt
    ((s.advPort n t).get (O.HP_ROLL_IDLE_PERIOD n) * 2560) = false)
  (hs1 : s1 = (s.advPort n t).setHealth n { (s.advPort n t).health n with idleAt := some (s.advPort n t).up })

include hdue hs1

theorem execRollIdleDue_of_free (hruns : rollRuns s1 n = true) (hprint : printing s1 n = false)
    (hask : asking s1 (fun r => ofPort n r && r.what != Sensed.temp) = false) :
    execRollIdleDue n t s = .next (s1.senseAsk (headReq s1 n 7 (rollNext s1 n).1 (rollNext s1 n).2)) := by
  simp only [execRollIdleDue, hdue, ← hs1, hruns, hprint, hask, Bool.not_true, Bool.false_eq_true, or_self, if_false]

/-- A port that roll call leaves out, that prints, or that asks for a reading already is not read. -/
theorem execRollIdleDue_of_held (hheld : rollRuns s1 n = false ∨ printing s1 n = true ∨
    asking s1 (fun r => ofPort n r && r.what != Sensed.temp) = true) :
    execRollIdleDue n t s = .next s1 := by
  simp only [execRollIdleDue, hdue, ← hs1, Bool.not_eq_true', if_pos hheld, Bool.false_eq_true, if_false]

end

/-! ### Temperature readings and their age (R308, R310) -/

/-- No activity that reads heaters has the port. -/
theorem readsHeaters_none (hfree : ∀ k, k < 8 → n ∉ (s.mt k).ports ∨ s.get (O.MT_KIND k) < 6) :
    (List.range 8).any (fun k => (s.mt k).ports.contains n && decide (6 ≤ s.get (O.MT_KIND k))) = false := by
  refine List.any_eq_false.mpr fun k hk hreads => ?_
  obtain ⟨hport, hkind⟩ := Bool.and_eq_true_iff.mp hreads
  obtain hnot | hlow := hfree k (List.mem_range.mp hk)
  · exact hnot (List.contains_iff_mem.mp hport)
  · exact absurd (of_decide_eq_true hkind) (Nat.not_le.mpr hlow)

section
variable (hdue : tooEarly (s.advPort n t) ((s.advPort n t).health n).tempRdAt
    ((s.advPort n t).get (O.HP_TEMP_PERIOD n) * fuUs) = false)
  (hs1 : s1 = (s.advPort n t).setHealth n { (s.advPort n t).health n with tempRdAt := some (s.advPort n t).up })
  (hup : linkUp s1 n = true) (hgood : snsFault s1 n = false)
  (hs2 : s2 = s1.setHealth n { s1.health n with tempDue := true })

include hdue hs1 hup hgood hs2

/-- The reading of a port that prints is left to the gap after its rotation. -/
theorem execTempReadingDue_of_printing (hprint : printing s2 n = true) :
    execTempReadingDue n t s = .next (s2.gapTemp n) := by
  simp only [execTempReadingDue, hdue, ← hs1, hup, hgood, ← hs2, hprint, Bool.not_true, Bool.false_eq_true, or_self,
    if_false, if_true]

theorem execTempReadingDue_of_idle (hprint : printing s2 n = false)
    (hask : asking s2 (fun r => ofPort n r && r.what == Sensed.temp) = false)
    (hfree : ∀ k, k < 8 → n ∉ (s2.mt k).ports ∨ s2.get (O.MT_KIND k) < 6) :
    execTempReadingDue n t s = .next (s2.senseAsk (headReq s2 n 4 Sensed.temp 0)) := by
  simp only [execTempReadingDue, hdue, ← hs1, hup, hgood, ← hs2, hprint, hask, readsHeaters_none hfree, Bool.not_true,
    Bool.false_eq_true, or_self, if_false]

end

theorem State.tempStale_of_fresh (hfresh : s.bit (O.HP_HEALTH_STATUS n) B.HP_HEALTH_STATUS_TEMP_STALE = false) :
    s.tempStale n =
      (((s.setB (O.HP_HEALTH_STATUS n) B.HP_HEALTH_STATUS_TEMP_STALE true).set (O.HP_TEMP n) 0x8000).thermalEval
        n).regulateTemp n := if_pos (by rw [hfresh]; rfl)

/-- The press time from which the age of a port's temperature counts: the last temperature, and where there is none the
link's coming UP (R310, log 112). -/
def tempFrom (s : State) (n : Nat) : Option Nat :=
  match (s.health n).tempAt with
  | some a => some a
  | none => if linkUp s n then some (s.health n).upAt else none

theorem tempFrom_of {a : Nat} (hfrom : (s.health n).tempAt = some a ∨
    ((s.health n).tempAt = none ∧ linkUp s n = true ∧ (s.health n).upAt = a)) : tempFrom s n = some a := by
  obtain hread | ⟨hnone, hup, hat⟩ := hfrom
  · simp only [tempFrom, hread]
  · simp only [tempFrom, hnone, hup, hat, if_true]

/-- What TEMP_AGE_EXPIRY does, with the start of the age as `tempFrom`. -/
theorem execTempAgeExpiry_eq :
    execTempAgeExpiry n t s =
      let s0 := s.adv t
      if (tempFrom s0 n).any (fun a => ptLt (a + s0.get (O.HP_TEMP_AGE n) * fuMs) s0.pt) then
        .next (s0.tempStale n).mtSync
      else .next s0 := rfl

theorem execTempAgeExpiry_of_due {a : Nat} (hfrom : tempFrom (s.adv t) n = some a)
    (hdue : ptLt (a + (s.adv t).get (O.HP_TEMP_AGE n) * fuMs) (s.adv t).pt = true) :
    execTempAgeExpiry n t s = .next ((s.adv t).tempStale n).mtSync :=
  execTempAgeExpiry_eq.trans (if_pos (by rw [hfrom, Option.any_some, hdue]))

/-! ### Clears of faults (R305, Table 11.3) -/

section
variable {u : Nat} (hmode : s.mode ≠ mdPrint) (hup : linkUp s n = true)

include hmode hup

/-- CLR_SNS_FAULT with a REF reading that passes clears the fault. -/
theorem wrHealthControl_of_clrSnsFault (hsns : bitOf v B.HP_HEALTH_CONTROL_CLR_SNS_FAULT = true)
    (hbrk : bitOf v B.HP_HEALTH_CONTROL_CLR_BROKEN = false) (hpass : refPasses u = true)
    (hs1 : s1 = (s.set (O.HP_HEALTH_CONTROL n) (v % 32)).setB (O.HP_HEALTH_STATUS n) B.HP_HEALTH_STATUS_SNS_FAULT false)
    (hs2 : s2 = s1.setHealth n { s1.health n with refFails := 0, sinceRef := 0, confirms := [] })
    (hs3 : s3 = if bitOf v B.HP_HEALTH_CONTROL_ROLL_EN then s2
      else s2.senseDrop (fun r => ofPort n r && r.what != Sensed.temp && r.slot.isNone)) :
    wrHealthControl n v (some u) none s = .ok (s3.regulateTemp n) := by
  subst hs3 hs2 hs1
  simp only [wrHealthControl, hsns, hbrk, hpass, hmode, hup, ne_eq, not_false_eq_true, decide_true, Bool.and_self,
    Bool.not_true, Bool.false_eq_true, and_false, false_and, or_self, if_false, if_true]
  rfl

/-- CLR_BROKEN with a plausible TEMP reading takes the temperature, and ends BROKEN where it stands. -/
theorem wrHealthControl_of_clrBroken {r : Int × State} (hbrk : bitOf v B.HP_HEALTH_CONTROL_CLR_BROKEN = true)
    (hsns : bitOf v B.HP_HEALTH_CONTROL_CLR_SNS_FAULT = false) (hr : r = s.tempOf n u) (hplaus : plausible s u r.1 = true)
    (hs1 : s1 = r.2.set (O.HP_HEALTH_CONTROL n) (v % 32))
    (hs2 : s2 = (s1.setF (O.HP_HEALTH_STATUS n) B.HP_HEALTH_STATUS_THERMAL 0).setB (O.HP_HEALTH_STATUS n)
      B.HP_HEALTH_STATUS_INHIBITED false)
    (hs3 : s3 = if thermalState s1 n = 3 then
        ((s2.setB (O.HP_HEALTH_STATUS n) B.HP_HEALTH_STATUS_PAUSE false).warnSync n).ttSync n
      else s1)
    (hs4 : s4 = s3.tempTake n r.1)
    (hs5 : s5 = if bitOf v B.HP_HEALTH_CONTROL_ROLL_EN then s4
      else s4.senseDrop (fun r => ofPort n r && r.what != Sensed.temp && r.slot.isNone)) :
    wrHealthControl n v none (some u) s = .ok (s5.regulateTemp n) := by
  subst hs5 hs4 hs3 hs2 hs1
  simp only [wrHealthControl, ← hr, hsns, hbrk, hplaus, hmode, hup, ne_eq, not_false_eq_true, decide_true, Bool.and_self,
    Bool.not_true, Bool.false_eq_true, and_false, false_and, or_self, if_false, if_true]

end

end

/-- Settles O24: the readings by the guards of their commands, the clears by the bits that their word carries. -/
theorem headReadingsAct : Obligations.HeadReadingsAct := by
  refine ⟨?idle, ?idleHeld, ?tempGap, ?temp, ?age, ?clrSnsFault, ?clrBroken⟩
  case idle => exact fun _ _ _ _ => execRollIdleDue_of_free
  case idleHeld => exact fun _ _ _ _ => execRollIdleDue_of_held
  case tempGap => exact fun _ _ _ _ _ => execTempReadingDue_of_printing
  case temp => exact fun _ _ _ _ _ => execTempReadingDue_of_idle
  case age =>
    intro n t a s hfrom hdue hfresh
    exact (execTempAgeExpiry_of_due (tempFrom_of hfrom) hdue).trans
      (congrArg (fun s : State => Host.Outcome.next s.mtSync) (State.tempStale_of_fresh hfresh))
  case clrSnsFault =>
    intro p n v x v1 s1 s2 s3 s hserve hv1 hmode hup hpass hs1 hs2 hs3
    subst hv1
    have hbrk := (bitOf_putBit_ne (i := B.HP_HEALTH_CONTROL_CLR_SNS_FAULT) (b := true) (by decide)).trans
      (bitOf_putBit_self v B.HP_HEALTH_CONTROL_CLR_BROKEN false)
    exact access_mtSync_of_ok hserve
      (wrHealthControl_of_clrSnsFault hmode hup (bitOf_putBit_self _ _ _) hbrk hpass hs1 hs2 hs3)
  case clrBroken =>
    intro p n v x v1 r s1 s2 s3 s4 s5 s hserve hv1 hmode hup hr hplaus hs1 hs2 hs3 hs4 hs5
    subst hv1
    have hsns := (bitOf_putBit_ne (i := B.HP_HEALTH_CONTROL_CLR_BROKEN) (b := true) (by decide)).trans
      (bitOf_putBit_self v B.HP_HEALTH_CONTROL_CLR_SNS_FAULT false)
    exact access_mtSync_of_ok hserve
      (wrHealthControl_of_clrBroken hmode hup (bitOf_putBit_self _ _ _) hsns hr hplaus hs1 hs2 hs3 hs4 hs5)

end Sys2Proof.Machine
end

section
/-! A head's rank, its record writes and the twins of ports (R314, R316, R319, R321, R322), and O25 from their
commands. -/
namespace Sys2Proof.Machine

section
variable {n t v : Nat} {s s1 : State}

/-! ### Rank and record writes (R314, R316) -/

theorem wrRankSet_of_le (hv : v ≤ 7) (hmode : s.mode ≠ mdPrint) : wrRankSet n v s = .ok (s.rankTo n v 3) := by
  simp only [wrRankSet, if_neg (Nat.not_lt.mpr hv), if_neg hmode]

theorem wrRecCmd_request : wrRecCmd n 1 s = .ok (s.recPend n (s.health n).recCause false) := rfl

theorem wrRecCmd_cancel :
    wrRecCmd n 2 s = .ok (s.setB (O.HP_HEALTH_STATUS n) B.HP_HEALTH_STATUS_REC_PENDING false) := rfl

/-- A record write asked for by the host keeps the cause of the last change, and waits for no gap. -/
theorem State.recPend_byHost (hs1 : s1 = s.setHealth n { s.health n with recByMask := false }) :
    s.recPend n (s.health n).recCause false =
      s1.setB (O.HP_HEALTH_STATUS n) B.HP_HEALTH_STATUS_REC_PENDING true := by
  subst hs1
  rfl

/-- A record write is pending and may begin, curfew apart (R316). -/
structure RecDue (s : State) (n : Nat) : Prop where
  pending : s.bit (O.HP_HEALTH_STATUS n) B.HP_HEALTH_STATUS_REC_PENDING = true
  notBusy : s.bit (O.HP_HEALTH_STATUS n) B.HP_HEALTH_STATUS_REC_BUSY = false
  enabled : s.bit (O.HP_HEALTH_STATUS n) B.HP_HEALTH_STATUS_REC_DISABLED = false
  up : linkUp s n = true
  cardFree : s.get (O.HP_RC_RESULT n) ≠ 1
  gapOver : (s.health n).recAt.all
    (fun a => !(s.health n).recByMask || decide (a + s.get (O.HP_REC_MIN_GAP n) * fuS ≤ s.up)) = true
  holdOver : (s.health n).recHold.all (fun a => decide (a ≤ s.up)) = true

/-- A record write begins: its slot and its SEQ are chosen, and the values of now are its body (R316, R317). -/
def State.recBegin (s : State) (n slot seq : Nat) : State :=
  let s := s.setHealth n { s.health n with
    recAt := some s.up
    recHold := none
    recByMask := false
    recWrite := some { slot := slot, seq := seq, pre := recPre s n, post := recPost s n } }
  ((s.setB (O.HP_HEALTH_STATUS n) B.HP_HEALTH_STATUS_REC_BUSY true).setB (O.HP_HEALTH_STATUS n)
    B.HP_HEALTH_STATUS_REC_PENDING false).recNext n

/-- The slot that does not hold the valid record. -/
def recSlot (s : State) (n : Nat) : Nat :=
  if s.bit (O.HP_STATE n) B.HP_STATE_CALIB_VALID ∧ !s.bit (O.HP_STATE n) B.HP_STATE_CALIB_SLOT then 1 else 0

theorem recSlot_eq : recSlot s n =
    if s.bit (O.HP_STATE n) B.HP_STATE_CALIB_VALID ∧ s.bit (O.HP_STATE n) B.HP_STATE_CALIB_SLOT = false then 1 else 0 := by
  simp only [recSlot, Bool.not_eq_true']

/-- The SEQ after the valid record's. -/
def recSeq (s : State) (n : Nat) : Nat :=
  (if s.bit (O.HP_STATE n) B.HP_STATE_CALIB_VALID then (s.health n).calSeq + 1 else 1) % 2 ^ 32

/-- HP_REC_MIN_GAP after the last record write has not run yet for one that a mask asked for. -/
def recGapRuns (s : State) (n : Nat) : Bool :=
  match (s.health n).recAt with
  | some a => (s.health n).recByMask && decide (s.up < a + s.get (O.HP_REC_MIN_GAP n) * fuS)
  | none => false

/-- The time after a failed record write has not run yet. -/
def recHeld (s : State) (n : Nat) : Bool :=
  match (s.health n).recHold with
  | some a => decide (s.up < a)
  | none => false

theorem RecDue.recGapRuns_eq (h : RecDue s n) : recGapRuns s n = false := by
  have hgap := h.gapOver
  cases hat : (s.health n).recAt with
  | none => simp only [recGapRuns, hat]
  | some a =>
    rw [hat, Option.all_some] at hgap
    simp only [recGapRuns, hat, Bool.and_eq_false_imp, decide_eq_false_iff_not, Nat.not_lt]
    intro hmask
    simpa [hmask] using hgap

theorem RecDue.recHeld_eq (h : RecDue s n) : recHeld s n = false := by
  have hhold := h.holdOver
  cases hat : (s.health n).recHold with
  | none => simp only [recHeld, hat]
  | some a =>
    rw [hat, Option.all_some] at hhold
    simp only [recHeld, hat, decide_eq_false_iff_not, Nat.not_lt]
    exact of_decide_eq_true hhold

/-- What REC_WRITE_START does, with its guards and the start by name. -/
theorem execRecWriteStart_eq :
    execRecWriteStart n t s =
      let s0 := s.adv t
      if !s0.bit (O.HP_HEALTH_STATUS n) B.HP_HEALTH_STATUS_REC_PENDING ∨
          s0.bit (O.HP_HEALTH_STATUS n) B.HP_HEALTH_STATUS_REC_BUSY ∨
          s0.bit (O.HP_HEALTH_STATUS n) B.HP_HEALTH_STATUS_REC_DISABLED ∨ !linkUp s0 n ∨ s0.get (O.HP_RC_RESULT n) = 1 ∨
          recGapRuns s0 n ∨ recHeld s0 n then .next s0
      else if curfew s0 then .next s0.deferred
      else .next (s0.recBegin n (recSlot s0 n) (recSeq s0 n)) := rfl

/-- A record write that is due begins, and under curfew is deferred (R316). -/
theorem execRecWriteStart_of_due (h : RecDue (s.adv t) n) :
    execRecWriteStart n t s =
      if curfew (s.adv t) then .next (s.adv t).deferred
      else .next ((s.adv t).recBegin n (recSlot (s.adv t) n) (recSeq (s.adv t) n)) := by
  simp only [execRecWriteStart_eq, h.pending, h.notBusy, h.enabled, h.up, h.cardFree, h.recGapRuns_eq, h.recHeld_eq,
    Bool.not_true, Bool.false_eq_true, or_self, if_false]

/-! ### Twins (R319) -/

/-- HP_TWIN takes a port that no other port names, or none. -/
theorem wrTwin_of_free (hself : v ≠ n) (hfree : v = 0xFF ∨ v ≤ 95 ∧ ∀ k, k < 96 → k ≠ n → s.get (O.HP_TWIN k) ≠ v)
    (hidle : servedBy s n = none) : wrTwin n v s = .ok (s.set (O.HP_TWIN n) v) := by
  have hrange : ¬ (v = n ∨ (95 < v ∧ v ≠ 0xFF)) := by omega
  have hnamed : ¬ (v ≠ 0xFF ∧ ports.any (fun k => decide (k ≠ n) && decide (s.get (O.HP_TWIN k) = v)) = true) := by
    rintro ⟨hport, hany⟩
    obtain ⟨k, hk, hnames⟩ := List.any_eq_true.mp hany
    simp only [Bool.and_eq_true, decide_eq_true_eq] at hnames
    obtain ⟨-, huniq⟩ := hfree.resolve_left hport
    exact huniq k (List.mem_range.mp hk) hnames.1 hnames.2
  simp only [wrTwin, if_neg hrange, if_neg hnamed, hidle, Option.isSome_none, Bool.false_eq_true, if_false]

/-! ### Takeover and hand-back (R321, R322) -/

/-- The stripe of primary `n` that no port serves, in a job that prints or drains, as job and index. -/
def unservedStripe (s : State) (n : Nat) : Option (Nat × Nat) :=
  (slots.filter (fun j => decide (jobState s j = 2 ∨ jobState s j = 3))).findSome? (fun j =>
    (stripeIdx s j n).bind (fun i => if (tget (0, 0) (s.job j).srv i).1 = 0xFF then some (j, i) else none))

theorem State.twinTake_of_unserved {j i : Nat} (h : unservedStripe s n = some (j, i)) :
    s.twinTake n = s.assignUnserved j i n := by
  rw [unservedStripe] at h
  rw [State.twinTake, h]

theorem State.twinTake_of_served (h : unservedStripe s n = none) :
    s.twinTake n = if s.mode = mdPrint then s.loseStripes n 4 else s := by
  rw [unservedStripe] at h
  rw [State.twinTake, h]

theorem State.twinGive_of_notPrint (hmode : s.mode ≠ mdPrint) : s.twinGive n = s := if_pos hmode

end

/-- Settles O25: the writes by the checks that they pass, the record's start by its guards, the twins' commands by the
stripes that their port has. -/
theorem recordsAndTwinsAct : Obligations.RecordsAndTwinsAct := by
  refine ⟨?rank, ?request, ?cancel, ?start, ?startCurfew, ?twin, ?noTwin, ?takeOver, ?assign, ?giveIdle, ?giveBack⟩
  case rank => exact fun p n v s hserve hv hmode => access_of_ok hserve (wrRankSet_of_le hv hmode)
  case request =>
    intro p n s1 s hserve hs1
    exact access_of_ok hserve (wrRecCmd_request.trans (congrArg _ (State.recPend_byHost hs1)))
  case cancel => exact fun p n s hserve => access_of_ok hserve wrRecCmd_cancel
  case start =>
    rintro n t _ _ _ s hpending hbusy hdis hup hcard hgap hhold hcurfew rfl rfl rfl
    rw [← recSlot_eq]
    exact (execRecWriteStart_of_due ⟨hpending, hbusy, hdis, hup, hcard, hgap, hhold⟩).trans
      (if_neg (Bool.eq_false_iff.mp hcurfew))
  case startCurfew =>
    intro n t s hpending hbusy hdis hup hcard hgap hhold hcurfew
    exact (execRecWriteStart_of_due ⟨hpending, hbusy, hdis, hup, hcard, hgap, hhold⟩).trans (if_pos hcurfew)
  case twin =>
    intro p n v s hserve hself hport huniq hidle
    exact access_of_ok hserve (wrTwin_of_free hself (.inr ⟨hport, huniq⟩) hidle)
  case noTwin =>
    rintro p n _ s hserve rfl hn hidle
    exact access_of_ok hserve (wrTwin_of_free (by omega) (.inl rfl) hidle)
  case takeOver =>
    intro p n s hserve hserved
    exact access_mtSync_of_ok hserve (congrArg WRes.ok (State.twinTake_of_served hserved))
  case assign =>
    intro p n j i s hserve hunserved
    exact access_mtSync_of_ok hserve (congrArg WRes.ok (State.twinTake_of_unserved hunserved))
  case giveIdle =>
    intro p n s hserve hmode
    exact access_mtSync_of_ok hserve (congrArg WRes.ok (State.twinGive_of_notPrint hmode))
  case giveBack =>
    intro p n s hserve hmode
    exact access_mtSync_of_ok hserve (congrArg WRes.ok (if_neg (not_not.mpr hmode)))

end Sys2Proof.Machine
end

section
/-! Maintenance activities: their commands, their rotations, dwells and deep tests (R306, R354, R355, R357, R362), and O28
from their commands. -/
namespace Sys2Proof.Machine

section
variable {k n t : Nat} {s s1 s2 : State}

/-! ### MT_CMD (R354, R362) -/

theorem wrMtCmd_start : wrMtCmd k 1 s = s.mtTry k := rfl

theorem State.mtTry_of_free (hfree : mtRefusal s k = none) : s.mtTry k = .ok (s.mtBegin k) := by
  rw [State.mtTry, hfree]

theorem State.mtTry_of_refused {r e : Nat} (href : mtRefusal s k = some (r, e)) :
    s.mtTry k = .no ((s.set (O.MT_RESULT k) r).mtHit B.MT_EVENTS_REFUSED) e := by
  rw [State.mtTry, href]

section
variable (hs1 : s1 = (s.mtClaim k).set (O.MT_RESULT k) 1)
  (hs2 : s2 = ((s1.set (O.MT_STARTED_AT k) s1.pt).set (O.MT_PROGRESS k) 0).set (O.MT_LOST k) 0)

include hs1 hs2

/-- Without a station the start latches its time and begins the body. -/
theorem State.mtBegin_of_noStation (hstation : mtStation s2 k = none) : s.mtBegin k = s2.mtBody k := by
  subst hs2 hs1
  simp only [State.mtBegin, hstation]

/-- With a station the station phase comes first. -/
theorem State.mtBegin_of_station {a : Nat} (hstation : mtStation s2 k = some a) :
    s.mtBegin k = (s2.mtTo k 1).mtMove k a (s2.getI (O.MT_STATION_POS k)) := by
  subst hs2 hs1
  simp only [State.mtBegin, hstation]

end

theorem wrMtCmd_abort_of_running (hlo : 1 ≤ mtState s k) (hhi : mtState s k ≤ 3) :
    wrMtCmd k 2 s = .ok (s.mtStop k 6).mtSync :=
  congrArg WRes.ok (if_pos ⟨hlo, hhi⟩)

theorem wrMtCmd_abort_of_idle (hidle : mtState s k = 0 ∨ 4 ≤ mtState s k) : wrMtCmd k 2 s = .ok s :=
  congrArg WRes.ok (if_neg (by omega))

/-! ### Rotations of a spit (R355) -/

/-- A spit rotation is latched from 12,800 fu before its first edge, while the port's group is ON and its FI is over. -/
theorem execSpitRotationDue_of_due {x : TLine} {i : Nat} (hframe : ((s.advPort n t).sched n).maint = some x)
    (hi : i = tget 0 ((s.advPort n t).mt k).fired n) (hrun : mtState (s.advPort n t) k = 2)
    (hpart : ((s.advPort n t).mt k).part = 3)
    (hkind : mtKind (s.advPort n t) k = 1 ∨ mtKind (s.advPort n t) k = 5)
    (hport : ((s.advPort n t).mt k).ports.contains n = true)
    (hdue : ptLt ((s.advPort n t).pt + 12800) (firstEdge (s.advPort n t) n x) = false)
    (hquiet : fiQuiet (s.advPort n t) n 0 = true) (hon : groupOn (s.advPort n t) (groupOf n) = true)
    (hspit : ((s.advPort n t).fire n).spit = none)
    (hs1 : s1 = ((s.advPort n t).maintRotate k n x (s.advPort n t).up
      (ptMax (firstEdge (s.advPort n t) n x) ((s.advPort n t).pt + 2 * fuUnit + 3840)) (decide (i = 0))).1)
    (hs2 : s2 = (s1.setMt k { s1.mt k with fired := tput ((s.advPort n t).mt k).fired n (i + 1) }).inc
      (O.MT_PROGRESS k)) :
    execSpitRotationDue k n t s = .next (s2.spitFrame k n (i + 1)) := by
  have hspits : (decide (mtKind (s.advPort n t) k = 1) || decide (mtKind (s.advPort n t) k = 5)) = true := by
    simpa using hkind
  subst hs2 hs1 hi
  simp only [execSpitRotationDue, hframe, hrun, hpart, hspits, hport, hdue, hquiet, hon, hspit, Option.isSome_none,
    ne_eq, not_true_eq_false, Bool.not_true, Bool.false_eq_true, or_self, if_false]

/-! ### Dwells (R354, R357) -/

/-- A wait of the slot's body has run out. -/
structure DwellDue (s : State) (k : Nat) : Prop where
  running : mtState s k = 2
  still : (s.mt k).moving = none
  elapsed : (s.mt k).until' ≤ s.up

theorem execMtDwellExpiry_of_due {s' : State} (h : DwellDue (s.adv t) k) (hpart : ((s.adv t).mt k).part ≠ 3)
    (hover : (s.adv t).dwellOver k = s') : execMtDwellExpiry k t s = .next s'.mtSync := by
  subst hover
  exact if_pos ⟨h.running, hpart, by rw [h.still]; rfl, h.elapsed⟩

theorem State.dwellOver_of_cap (hkind : mtKind s k = 3) (hpart : (s.mt k).part = 2) :
    s.dwellOver k = (s.forAll (s.mt k).ports (fun s n => s.setCapped n true)).mtBodyDone k := by
  simp only [State.dwellOver, hkind, hpart]

theorem State.dwellOver_of_uncap (hkind : mtKind s k = 4) (hpart : (s.mt k).part = 2) :
    s.dwellOver k = (s.forAll (s.mt k).ports (fun s n => s.setCapped n false)).mtBodyDone k := by
  simp only [State.dwellOver, hkind, hpart]

/-- A WIPE goes on with its strokes until MT_COUNT of them are made. -/
theorem State.dwellOver_of_wipe {a : Nat} (hkind : mtKind s k = 2) (hpart : (s.mt k).part = 2)
    (haux : mtAux s k = some a) :
    s.dwellOver k = if s.get (O.MT_COUNT k) ≤ s.get (O.MT_PROGRESS k) then s.mtBodyDone k else s.stroke k a := by
  simp only [State.dwellOver, hkind, hpart, haux]

/-- The pump time of a spit into a station ends with its valve closed, and the settle time follows. -/
theorem State.dwellOver_of_pump {r : Nat} (hkind : mtKind s k = 5) (hpart : (s.mt k).part = 0)
    (hrelay : (s.mt k).relay = some r) (hs1 : s1 = s.relayDrive (r % 4) (r / 4) 2 0) :
    s.dwellOver k = s1.mtWait k 1 (s1.get (O.MT_TIME_B k)) := by
  subst hs1
  simp only [State.dwellOver, hkind, hpart, hrelay]

theorem State.dwellOver_of_settle (hkind : mtKind s k = 5) (hpart : (s.mt k).part = 1) :
    s.dwellOver k = s.spitBegin k := by
  simp only [State.dwellOver, hkind, hpart]

/-! ### MT_CAPPED_CLR (R357) -/

theorem wrCappedClr_of_capped (hport : n < 96) (hmode : s.mode ≠ mdPrint) (hcapped : capped s n = true) :
    wrCappedClr n s = .ok ((s.setB (O.MT_CAPPED (n / 32)) (n % 32) false).mtHit B.MT_EVENTS_CAP_CHANGED) := by
  simp only [wrCappedClr, need_of (decide_eq_true hport), need_of (decide_eq_true hmode), State.setCapped, hcapped,
    Bool.true_eq_false, if_false]

/-! ### The deep test (R306) -/

/-- A port that asks for nothing goes on to its next nozzle, or to the temperature where that is due. -/
theorem execDeepSpacingDue_of_due {last z sp : Nat} (hlast : mtLast (s.advPort n t) k n = some last)
    (hz : z = tget ((s.advPort n t).get (O.MT_FIRST k)) ((s.advPort n t).mt k).next n)
    (hsp : sp = (s.advPort n t).get (O.HP_DEEP_SPACING n) * (fuUs / 10)) (hrun : mtState (s.advPort n t) k = 2)
    (hpart : ((s.advPort n t).mt k).part = 3) (hkind : mtKind (s.advPort n t) k = 7) (hleft : z ≤ last)
    (hport : ((s.advPort n t).mt k).ports.contains n = true)
    (hspaced : ((s.advPort n t).mt k).deepAt.any (fun e => decide (e.1 = n ∧ (s.advPort n t).up < e.2 + sp)) = false)
    (hask : asking (s.advPort n t) (ofPort n) = false)
    (hs1 : s1 = (s.advPort n t).setMt k { (s.advPort n t).mt k with
      deepAt := tput ((s.advPort n t).mt k).deepAt n (s.advPort n t).up
      deep := tdel ((s.advPort n t).mt k).deep n }) :
    execDeepSpacingDue k n t s =
      .next (s1.senseAsk (if (s1.health n).tempDue then headReq s1 n 6 Sensed.temp 0 (some k)
        else { headReq s1 n 6 Sensed.deep z (some k) with count := 5, deadline := some (s1.up + sp) })) := by
  have hgo : ¬ (mtState (s.advPort n t) k ≠ 2 ∨ ((s.advPort n t).mt k).part ≠ 3 ∨ mtKind (s.advPort n t) k ≠ 7 ∨
      last < z) := by omega
  simp only [execDeepSpacingDue, hlast, ← hz, ← hsp, decide_eq_false hgo, hport, hspaced, hask, ← hs1, Bool.not_true,
    Bool.or_self, Bool.false_eq_true, if_false]
  split <;> rfl

end

/-- Settles O28: the writes by the checks that they pass, the rest by the guards of their commands. -/
theorem maintenanceAct : Obligations.MaintenanceAct := by
  refine ⟨?body, ?station, ?refused, ?abort, ?abortIdle, ?spit, ?cap, ?uncap, ?wipe, ?pump, ?settle, ?cappedClr, ?deep⟩
  case body =>
    intro p k s1 s2 s hserve hfree hs1 hs2 hstation
    exact access_of_ok hserve
      ((State.mtTry_of_free hfree).trans (congrArg _ (State.mtBegin_of_noStation hs1 hs2 hstation)))
  case station =>
    intro p k s1 s2 a s hserve hfree hs1 hs2 hstation
    exact access_of_ok hserve
      ((State.mtTry_of_free hfree).trans (congrArg _ (State.mtBegin_of_station hs1 hs2 hstation)))
  case refused => exact fun p k r e s hserve href => access_of_no hserve (State.mtTry_of_refused href)
  case abort => exact fun p k s hserve hlo hhi => access_of_ok hserve (wrMtCmd_abort_of_running hlo hhi)
  case abortIdle => exact fun p k s hserve hidle => access_of_ok hserve (wrMtCmd_abort_of_idle hidle)
  case spit => exact fun _ _ _ _ _ _ _ _ => execSpitRotationDue_of_due
  case cap =>
    intro k t s hrun hstill hover hkind hpart
    exact execMtDwellExpiry_of_due ⟨hrun, hstill, hover⟩ (by omega) (State.dwellOver_of_cap hkind hpart)
  case uncap =>
    intro k t s hrun hstill hover hkind hpart
    exact execMtDwellExpiry_of_due ⟨hrun, hstill, hover⟩ (by omega) (State.dwellOver_of_uncap hkind hpart)
  case wipe =>
    intro k t a s hrun hstill hover hkind hpart haux
    exact execMtDwellExpiry_of_due ⟨hrun, hstill, hover⟩ (by omega) (State.dwellOver_of_wipe hkind hpart haux)
  case pump =>
    intro k t r s1 s hrun hstill hover hkind hpart hrelay hs1
    exact execMtDwellExpiry_of_due ⟨hrun, hstill, hover⟩ (by omega) (State.dwellOver_of_pump hkind hpart hrelay hs1)
  case settle =>
    intro k t s hrun hstill hover hkind hpart
    exact execMtDwellExpiry_of_due ⟨hrun, hstill, hover⟩ (by omega) (State.dwellOver_of_settle hkind hpart)
  case cappedClr =>
    exact fun p v s hserve hport hmode hcapped => access_of_ok hserve (wrCappedClr_of_capped hport hmode hcapped)
  case deep => exact fun _ _ _ _ _ _ _ _ => execDeepSpacingDue_of_due

end Sys2Proof.Machine
end

section
/-! The conversions of the sense bank, their cuts and time-outs, its reference and the die readings (R332, R333, R337,
R338, R341, R351, R575), and O26 from their commands. -/
namespace Sys2Proof.Machine

section
variable {c code t : Nat} {g : Grant} {s s1 s2 s3 : State}

/-! ### Conversions that end (R332, R333) -/

/-- The conversion in progress on converter `c`, under grant `g`, is at its end. -/
structure ConvDue (s : State) (c : Nat) (g : Grant) : Prop where
  granted : (s.sconv c).grant = some g
  begun : g.waits = false
  elapsed : ptLt s.pt (convEnd s g) = false

/-- A conversion at its end (log 33) completes, as a valid one unless the reference is at fault (R341). -/
theorem execSenseConversionDone_of_due {fault : Bool} {s' : State} (h : ConvDue (s.adv t) c g)
    (hfault : sbBit (s.adv t) B.SB_STATUS_REF_FAULT = fault)
    (hdone : (s.adv t).converted c (min code 65535) (!fault) = s') :
    execSenseConversionDone c code t s = .next s'.senseGrant.mtSync := by
  simp only [execSenseConversionDone, h.granted, h.begun, h.elapsed, Bool.false_eq_true, or_self, if_false, hfault,
    hdone]

section
variable {cc u : Nat} (hgrant : (s.sconv c).grant = some g) (hs1 : s1 = (s.rampStep c).calibratedSync)
  (hcc : cc = corrected s1 c code)

include hgrant hs1 hcc

/-- A host conversion stores its corrected code as the next result, or a free value with INVALID, and its sequence
goes on or ends (R353; log 9). -/
theorem State.converted_of_host {valid : Bool} (hwhat : g.req.what = .host)
    (hs2 : s2 = if g.made + 1 < g.req.count then
        s1.setGrant c (some { g with made := g.made + 1, bad := false, start := s1.pt, begun := some g.start })
      else s1.setGrant c none)
    (hs3 : s3 = s2.setBank { s2.bank with hostLast := some (g.req.input, g.start) }) :
    s.converted c code valid =
      let s4 := if valid && !g.bad then s3.hostResult cc
        else (s3.draw.2.setB O.SB_HOST_STATUS 3 true).hostResult (s3.draw.1 % 65536)
      if g.req.count ≤ g.made + 1 then s4.hostDone else s4 := by
  subst hs3 hs2 hcc hs1
  simp only [State.converted, hgrant, hwhat, State.convNext, decide_eq_true_eq]

variable (hu : u = sixteenths s1 cc)

include hu

theorem State.converted_of_group (hwhat : g.req.what = .group) :
    s.converted c code true = (s1.setGrant c none).pgResult g.req.inst u := by
  subst hu hcc hs1
  simp only [State.converted, hgrant, hwhat, if_true]

theorem State.converted_of_supply (hwhat : g.req.what = .supply) :
    s.converted c code true = (s1.setGrant c none).supplyResult g.req.inst u := by
  subst hu hcc hs1
  simp only [State.converted, hgrant, hwhat, if_true]

theorem State.converted_of_motor (hwhat : g.req.what = .motor) :
    s.converted c code true = (s1.setGrant c none).motorResult g.req.inst g.req.input u := by
  subst hu hcc hs1
  simp only [State.converted, hgrant, hwhat, if_true]

/-- The readings of roll call and of a head's temperature go to the head's rules (R301 to R310). -/
theorem State.converted_of_head (hwhat : g.req.what = .heater ∨ g.req.what = .temp ∨ g.req.what = .ref) :
    s.converted c code true = (s1.setGrant c none).headResult { g with made := g.made + 1 } u := by
  subst hu hcc hs1
  obtain hwhat | hwhat | hwhat := hwhat <;> simp only [State.converted, hgrant, hwhat, if_true]

end

/-! ### Deadlines, cuts and time-outs (R337, R338, R351) -/

/-- The deadline of a timed request lies in an earlier SENSE cycle. -/
def reqLate (s : State) (r : Req) : Bool :=
  match r.deadline with
  | some d => decide (d / 400 < senseCycle s)
  | none => false

theorem reqLate_eq : reqLate s = fun r => r.deadline.any (fun d => decide (d / 400 < senseCycle s)) := by
  funext r
  cases hdeadline : r.deadline <;> simp only [reqLate, hdeadline, Option.any_some, Option.any_none]

theorem execSenseDeadline_eq :
    execSenseDeadline t s =
      .next ((((s.adv t).bank.reqs.filter (reqLate (s.adv t))).foldl (fun s r => s.passedOver r)
        ((s.adv t).senseWithdraw (reqLate (s.adv t)))).senseGrant) := rfl

/-- A grant at its hold limit is cut off, where its last conversion does not end in that cycle (R338). -/
theorem execSenseHoldCut_of_limit {lim : Nat} (hgrant : ((s.adv t).sconv c).grant = some g)
    (hlim : lim = g.at' + (s.adv t).get (O.SB_HOLD_LIMIT g.req.cls) * fuUs) (hdue : lim ≤ (s.adv t).up)
    (hlast : endsFirst (s.adv t) g lim = false) :
    execSenseHoldCut c t s = .next ((s.adv t).holdCut c g) := by
  simp only [execSenseHoldCut, hgrant, ← hlim, hlast, Nat.not_lt.mpr hdue, Bool.false_eq_true, or_self, if_false]

/-- A conversion that is not done 1 µs after its end is late (R351). -/
theorem execSenseConvTimeout_of_late (hgrant : ((s.adv t).sconv c).grant = some g) (hbegun : g.waits = false)
    (hlate : ptLt (s.adv t).pt (convEnd (s.adv t) g + fuUs) = false) :
    execSenseConvTimeout c t s = .next ((s.adv t).convLate c) := by
  simp only [execSenseConvTimeout, hgrant, hbegun, hlate, Bool.false_eq_true, or_self, if_false]

/-! ### The reference and the die readings (R341, R575) -/

theorem execRefFault_of_good (hreset : (s.adv t).mode ≠ mdReset) (hboot : (s.adv t).mode ≠ mdBoot)
    (hgood : sbBit (s.adv t) B.SB_STATUS_REF_FAULT = false) :
    execRefFault t s =
      .next ((((s.adv t).setBank { (s.adv t).bank with refAt := (s.adv t).up }).sbPut B.SB_STATUS_REF_FAULT true).hit
        O.SB_EVENTS B.SB_EVENTS_REF_FAULT 558 1) := by
  simp only [execRefFault, hreset, hboot, hgood, Bool.false_eq_true, or_self, if_false]

theorem execRefFaultClear_of_due (hdue : (s.adv t).bank.refAt + fuMs ≤ (s.adv t).up) :
    execRefFaultClear t s = .next ((s.adv t).sbPut B.SB_STATUS_REF_FAULT false) :=
  congrArg _ (if_pos hdue)

/-- A die reading that is due asks anew, unless the last one still holds its converter (R575). -/
theorem execDieReadingDue_of_due (hreset : (s.adv t).mode ≠ mdReset) (hboot : (s.adv t).mode ≠ mdBoot)
    (hdue : tooEarly (s.adv t) (s.adv t).bank.dieAt ((s.adv t).get O.SB_DIE_PERIOD * fuUs) = false)
    (hs1 : s1 = ((s.adv t).setBank { (s.adv t).bank with dieAt := some (s.adv t).up }).senseWithdraw
      (fun r => decide (r.what = Sensed.die))) :
    execDieReadingDue t s =
      .next (if asking s1 (fun r => decide (r.what = Sensed.die)) then s1
        else s1.senseAsk
          { cls := 5, inst := 0, what := Sensed.die, input := 0xA4, count := 4, entered := senseCycle s1 }) := by
  simp only [execDieReadingDue, hreset, hboot, hdue, Bool.false_eq_true, or_self, if_false, ← hs1]
  exact (apply_ite _ _ _ _).symm

end

/-- Settles O26: the conversions by what their grants were asked for, the rest by the guards of their commands. -/
theorem conversionsAct : Obligations.ConversionsAct := by
  refine ⟨?host, ?hostInvalid, ?group, ?supply, ?motor, ?temp, ?ref, ?heater, ?deadline, ?cut, ?late, ?refFault,
    ?refClear, ?die⟩
  case host =>
    intro c code t g s1 cc s2 s3 s4 s hgrant hbegun helapsed hwhat hs1 hcc hs2 hs3 hfault hbad hs4
    refine execSenseConversionDone_of_due ⟨hgrant, hbegun, helapsed⟩ hfault ?_
    rw [State.converted_of_host hgrant hs1 hcc hwhat hs2 hs3, hbad, hs4]
    rfl
  case hostInvalid =>
    intro c code t g s1 cc s2 s3 s4 s hgrant hbegun helapsed hwhat hs1 hcc hs2 hs3 hinvalid hs4
    have hvalid : (!sbBit (s.adv t) B.SB_STATUS_REF_FAULT && !g.bad) = false := by
      rw [← Bool.not_or, Bool.not_eq_false', Bool.or_eq_true]
      exact hinvalid
    refine execSenseConversionDone_of_due ⟨hgrant, hbegun, helapsed⟩ rfl ?_
    rw [State.converted_of_host hgrant hs1 hcc hwhat hs2 hs3, hvalid, hs4]
    rfl
  case group =>
    exact fun c code t g s1 cc u s hgrant hbegun helapsed hwhat hs1 hcc hu hfault =>
      execSenseConversionDone_of_due ⟨hgrant, hbegun, helapsed⟩ hfault
        (State.converted_of_group hgrant hs1 hcc hu hwhat)
  case supply =>
    exact fun c code t g s1 cc u s hgrant hbegun helapsed hwhat hs1 hcc hu hfault =>
      execSenseConversionDone_of_due ⟨hgrant, hbegun, helapsed⟩ hfault
        (State.converted_of_supply hgrant hs1 hcc hu hwhat)
  case motor =>
    exact fun c code t g s1 cc u s hgrant hbegun helapsed hwhat hs1 hcc hu hfault =>
      execSenseConversionDone_of_due ⟨hgrant, hbegun, helapsed⟩ hfault
        (State.converted_of_motor hgrant hs1 hcc hu hwhat)
  case temp =>
    exact fun c code t g s1 cc u s hgrant hbegun helapsed hwhat hs1 hcc hu hfault =>
      execSenseConversionDone_of_due ⟨hgrant, hbegun, helapsed⟩ hfault
        (State.converted_of_head hgrant hs1 hcc hu (.inr (.inl hwhat)))
  case ref =>
    exact fun c code t g s1 cc u s hgrant hbegun helapsed hwhat hs1 hcc hu hfault =>
      execSenseConversionDone_of_due ⟨hgrant, hbegun, helapsed⟩ hfault
        (State.converted_of_head hgrant hs1 hcc hu (.inr (.inr hwhat)))
  case heater =>
    exact fun c code t g s1 cc u s hgrant hbegun helapsed hwhat hs1 hcc hu hfault =>
      execSenseConversionDone_of_due ⟨hgrant, hbegun, helapsed⟩ hfault
        (State.converted_of_head hgrant hs1 hcc hu (.inl hwhat))
  case deadline =>
    rintro t _ s rfl
    rw [← reqLate_eq]
    exact execSenseDeadline_eq
  case cut =>
    rintro c t g lim _ _ _ _ _ s hgrant hlim hdue hlast rfl rfl rfl rfl rfl
    exact execSenseHoldCut_of_limit hgrant hlim hdue hlast
  case late =>
    rintro c t g _ _ s hgrant hbegun hlate rfl rfl
    exact execSenseConvTimeout_of_late hgrant hbegun hlate
  case refFault => exact fun _ _ => execRefFault_of_good
  case refClear => exact fun _ _ => execRefFaultClear_of_due
  case die => exact fun _ _ _ => execDieReadingDue_of_due

end Sys2Proof.Machine
end

section
/-! Calibration, its store and the commands of the sense bank (R343, R347, R349, R350, R351, R353), and O27 from
them. -/
namespace Sys2Proof.Machine

section
variable {k t v w new : Nat} {s s1 : State}

/-! ### SB_CONTROL (R343, R351, Table 12.9) -/

theorem cmdSb_of_ok {p : Path} {bit : Nat} {s' : State} (hserve : s.serves p O.SB_CONTROL = true)
    (hw : w = putBit (s.get O.SB_CONTROL) bit true) (hfits : s.fits O.SB_CONTROL w = true)
    (hdone : wrSbControl (s.merged O.SB_CONTROL w) w s = .ok s') : cmdSb p bit s = .next s' := by
  subst hw
  exact access_checked_of_ok hserve hfits hdone

theorem wrSbControl_of_calStart (hcal : bitOf v B.SB_CONTROL_CAL_START = true)
    (hstats : bitOf v B.SB_CONTROL_CLR_STATS = false) (hretired : bitOf v B.SB_CONTROL_CLR_RETIRED = false) :
    wrSbControl new v s = .ok (s.set O.SB_CONTROL new).calStart.senseGrant := by
  simp [wrSbControl, need, hcal, hstats, hretired]

/-- CAL_START is a start of a calibration, over the word that the row leaves. -/
theorem execCalStart_of_fits {p : Path} (hserve : s.serves p O.SB_CONTROL = true)
    (hw : w = putBit (s.get O.SB_CONTROL) B.SB_CONTROL_CAL_START true) (hfits : s.fits O.SB_CONTROL w = true)
    (hstats : s.bit O.SB_CONTROL B.SB_CONTROL_CLR_STATS = false)
    (hretired : s.bit O.SB_CONTROL B.SB_CONTROL_CLR_RETIRED = false) :
    execCalStart p s = .next (s.set O.SB_CONTROL (s.merged O.SB_CONTROL w)).calStart.senseGrant := by
  have hcal : bitOf w B.SB_CONTROL_CAL_START = true := hw ▸ bitOf_putBit_self _ _ _
  have hstats' : bitOf w B.SB_CONTROL_CLR_STATS = false := hw ▸ (bitOf_putBit_ne (by decide)).trans hstats
  have hretired' : bitOf w B.SB_CONTROL_CLR_RETIRED = false := hw ▸ (bitOf_putBit_ne (by decide)).trans hretired
  exact cmdSb_of_ok hserve hw hfits (wrSbControl_of_calStart hcal hstats' hretired')

/-- CLR_RETIRED outside PRINT returns the retired converters to service and starts a calibration (R351). -/
theorem wrSbControl_of_clrRetired (hretired : bitOf v B.SB_CONTROL_CLR_RETIRED = true)
    (hstats : bitOf v B.SB_CONTROL_CLR_STATS = false) (hmode : s.mode ≠ mdPrint)
    (hs1 : s1 = (s.set O.SB_CONTROL new).set O.SB_CONV_RETIRED 0) :
    wrSbControl new v s =
      .ok (s1.forAll converters
        (fun s c => s.setSconv c { s.sconv c with failRow := 0, lateAt := [] })).calStart.senseGrant := by
  simp [wrSbControl, need, hretired, hstats, hmode, hs1]

/-- CLR_STATS clears CUT_STORM, the cuts counted and the longest waits (R351). -/
theorem wrSbControl_of_clrStats (hstats : bitOf v B.SB_CONTROL_CLR_STATS = true)
    (hretired : bitOf v B.SB_CONTROL_CLR_RETIRED = false) (hcal : bitOf v B.SB_CONTROL_CAL_START = false)
    (hs1 : s1 = (s.set O.SB_CONTROL new).sbPut B.SB_STATUS_CUT_STORM false) :
    wrSbControl new v s =
      .ok ((s1.setBank { s1.bank with cutsAt := [] }).forAll (List.range 10)
        (fun s k => s.set (O.SB_WAIT_MAX k) 0)) := by
  subst hs1
  simp only [wrSbControl, need, hstats, hretired, hcal, Bool.false_and, Bool.not_false, Bool.false_eq_true, or_self,
    if_true, if_false, State.sbPut, State.setB_bank, State.set_bank]

/-! ### The start of a calibration (R343) -/

theorem State.calStart_of_idle (hreset : s.mode ≠ mdReset) (hboot : s.mode ≠ mdBoot)
    (hidle : sbBit s B.SB_STATUS_CAL_RUNNING = false)
    (hs1 : s1 = ((s.set O.SB_CAL_DIE_TEMP (s.get O.SB_DIE_TEMP)).set O.CK_CAL_DIE_TEMP (s.get O.SB_DIE_TEMP)).sbPut
      B.SB_STATUS_CAL_RUNNING true) :
    s.calStart = (s1.setBank { s1.bank with
      convLeft := converters.filter (fun c => !convRetired s1 c)
      dlLeft := List.range 120
      point := 0
      calBad := false }).calAsk := by
  subst hs1
  simp only [State.calStart, hreset, hboot, hidle, Bool.false_eq_true, or_self, if_false]

/-- A trigger while a calibration runs has one further follow. -/
theorem State.calStart_of_running (hreset : s.mode ≠ mdReset) (hboot : s.mode ≠ mdBoot)
    (hrun : sbBit s B.SB_STATUS_CAL_RUNNING = true) : s.calStart = s.sbPut B.SB_STATUS_CAL_AGAIN true := by
  simp only [State.calStart, hreset, hboot, hrun, or_self, if_false, if_true]

/-! ### The result of a delay line (R347) -/

/-- The calibration under way waits for delay line `k`, which is idle. -/
structure LineWaits (s : State) (k : Nat) : Prop where
  running : sbBit s B.SB_STATUS_CAL_RUNNING = true
  left : s.bank.dlLeft.contains k = true
  idle : calIdle s k = true

section
variable {sums ns : List Nat} (h : LineWaits (s.adv t) k)
  (hns : ns = sums.map (fun n => (divRound (n : Nat) 16).toNat))
  (hs1 : s1 = ((s.adv t).setBank { (s.adv t).bank with dlLeft := setDel (s.adv t).bank.dlLeft k }).capSwap k)

include h hns hs1

/-- Eight rising means within the line give it its target map; a capture line is swapped here (log 119). -/
theorem execDelayLineCalDone_of_good {s2 : State} (hlen : ns.length = 8) (hrise : rising ns = true)
    (hfirst : 0 < ns.getD 0 0) (hend : ns.getD 7 0 ≤ 189)
    (hs2 : s2 = s1.setDline k { dline s1 k with target := (List.range 65).map (mapEntry ns), good := true }) :
    execDelayLineCalDone k sums t s = .next (((s2.dlSettle k).set O.CK_DL_TAP (tapMean s2)).calCheck) := by
  subst hs2 hs1
  simp only [execDelayLineCalDone, h.running, h.left, h.idle, ← hns, hlen, hrise, hfirst.ne', Nat.not_lt.mpr hend,
    ne_eq, not_true_eq_false, Bool.not_true, Bool.false_eq_true, or_self, if_false]

/-- Any other result fails, and the line keeps its target. -/
theorem execDelayLineCalDone_of_bad
    (hbad : ns.length ≠ 8 ∨ rising ns = false ∨ 189 < ns.getD 7 0 ∨ ns.getD 0 0 = 0) :
    execDelayLineCalDone k sums t s =
      .next (((s1.hit O.CK_EVENTS B.CK_EVENTS_DL_CAL_FAIL 540).hit O.SB_EVENTS B.SB_EVENTS_CAL_FAIL 560).calCheck) := by
  subst hs1
  rw [← Bool.not_eq_true'] at hbad
  simp only [execDelayLineCalDone, h.running, h.left, h.idle, ← hns, hbad, Bool.not_true, Bool.false_eq_true, or_self,
    if_false, if_true]

end

/-! ### SB_STORE_CMD (R349, R350) -/

theorem wrStoreCmd_save_of_idle (hcurfew : curfew s = false) (hidle : storeBusy s = false)
    (hcal : s.bank.calOk = true) :
    wrStoreCmd 1 s =
      .ok ((s.sbPut B.SB_STATUS_STORE_BUSY true).setBank { s.bank with storeFails := 0 }).storeBegin := by
  simp [wrStoreCmd, hcurfew, hidle, hcal]

/-- A load outside PRINT takes effect while no store command runs (log 125). -/
theorem wrStoreCmd_load_of_idle (hmode : s.mode ≠ mdPrint) (hidle : storeBusy s = false) :
    wrStoreCmd 2 s = .ok s.storeLoad.senseGrant := by
  simp [wrStoreCmd, hmode, hidle]

/-- With no valid slot a load leaves RESULT 4 alone. -/
theorem State.storeLoad_of_none (hnone : storeInForce s = none) : s.storeLoad = s.set O.SB_STORE_RESULT 4 := by
  rw [State.storeLoad, hnone]

/-! ### SB_HOST_CMD (R353) -/

/-- A legal word enters one request for the conversions of the sequence. -/
theorem wrHostCmd_of_legal (hidle : s.bit O.SB_HOST_STATUS 0 = false) (hreserved : andW v 0xFF00C000 = 0)
    (hinput : fieldOf v B.SB_HOST_CMD_INPUT ≤ 0xA7) (hacq : 4 ≤ fieldOf v B.SB_HOST_CMD_ACQ) :
    wrHostCmd v s =
      .ok ((s.set O.SB_HOST_STATUS 1).senseAsk {
        cls := 9
        what := Sensed.host
        input := fieldOf v B.SB_HOST_CMD_INPUT
        count := fieldOf v B.SB_HOST_CMD_COUNT + 1
        acq := fieldOf v B.SB_HOST_CMD_ACQ
        entered := senseCycle s }) := by
  simp only [wrHostCmd, hidle, hreserved, Nat.not_lt.mpr hinput, Nat.not_lt.mpr hacq, ne_eq, not_true_eq_false,
    Bool.false_eq_true, or_self, if_false]

end

/-- Settles O27: the writes by the bits and the words that they carry, the result of a delay line by its means. -/
theorem calibrationAct : Obligations.CalibrationAct := by
  refine ⟨?start, ?again, ?lineGood, ?lineBad, ?save, ?load, ?loadNone, ?clrRetired, ?clrStats, ?hostCmd⟩
  case start =>
    intro p w s0 s1 s hserve hw hfits hstats hretired hs0 hreset hboot hidle hs1
    rw [← State.calStart_of_idle hreset hboot hidle hs1, hs0]
    exact execCalStart_of_fits hserve hw hfits hstats hretired
  case again =>
    intro p w s0 s hserve hw hfits hstats hretired hs0 hreset hboot hrun
    rw [← State.calStart_of_running hreset hboot hrun, hs0]
    exact execCalStart_of_fits hserve hw hfits hstats hretired
  case lineGood =>
    exact fun k sums t ns s1 s2 s hrun hleft hidle hns hs1 hlen hrise hfirst hend hs2 =>
      execDelayLineCalDone_of_good ⟨hrun, hleft, hidle⟩ hns hs1 hlen hrise hfirst hend hs2
  case lineBad =>
    exact fun k sums t ns s1 s hrun hleft hidle hns hs1 hbad =>
      execDelayLineCalDone_of_bad ⟨hrun, hleft, hidle⟩ hns hs1 hbad
  case save =>
    exact fun p s hserve hcurfew hidle hcal => access_of_ok hserve (wrStoreCmd_save_of_idle hcurfew hidle hcal)
  case load => exact fun p s hserve hmode hidle => access_of_ok hserve (wrStoreCmd_load_of_idle hmode hidle)
  case loadNone =>
    intro p s hserve hmode hidle hnone
    rw [← State.storeLoad_of_none hnone]
    exact access_of_ok hserve (wrStoreCmd_load_of_idle hmode hidle)
  case clrRetired =>
    intro p w s1 s hserve hw hfits hstats hmode hs1
    have hretired : bitOf w B.SB_CONTROL_CLR_RETIRED = true := hw ▸ bitOf_putBit_self _ _ _
    have hstats' : bitOf w B.SB_CONTROL_CLR_STATS = false := hw ▸ (bitOf_putBit_ne (by decide)).trans hstats
    exact cmdSb_of_ok hserve hw hfits (wrSbControl_of_clrRetired hretired hstats' hmode hs1)
  case clrStats =>
    intro p w s1 s hserve hw hfits hretired hcal hs1
    have hstats : bitOf w B.SB_CONTROL_CLR_STATS = true := hw ▸ bitOf_putBit_self _ _ _
    have hretired' : bitOf w B.SB_CONTROL_CLR_RETIRED = false := hw ▸ (bitOf_putBit_ne (by decide)).trans hretired
    have hcal' : bitOf w B.SB_CONTROL_CAL_START = false := hw ▸ (bitOf_putBit_ne (by decide)).trans hcal
    exact cmdSb_of_ok hserve hw hfits (wrSbControl_of_clrStats hstats hretired' hcal' hs1)
  case hostCmd =>
    intro p v s hserve hv hidle hreserved hinput hacq
    refine access_of_ok hserve ?_
    rw [Nat.mod_eq_of_lt hv]
    exact wrHostCmd_of_legal hidle hreserved hinput hacq

end Sys2Proof.Machine
end

section
/-! A step keeps a safe state safe, and so is the state of the first RESET: O56 and O55. A reset of the PCIe function
changes the event unit alone (R472): O52. -/
namespace Sys2Proof.Machine

/-- Settles O56: an answer of `step` is `Keeps`, which holds both parts of a safe state. -/
theorem stepKeepsSafety : Obligations.StepKeepsSafety := by
  intro s s' hsafe hstep
  have hkept : Keeps s.pending.tail s.up s' := (step_keeps hsafe.keeps).next s' hstep
  exact ⟨hkept.mem, hkept.sized⟩

/-- Settles O55: no byte is listed, and of the objects the journal's count alone. -/
theorem resetIsSafe : Obligations.ResetIsSafe := by
  refine ⟨rfl, ?_⟩
  intro p hp
  obtain rfl := List.mem_singleton.mp hp
  decide

/-! ### Time that runs on -/

/-- A part of the state that no step of a list changes is left as it was. -/
theorem State.forAll_proj {α : Type} {g : State → α} {f : State → Nat → State} (h : ∀ s k, g (f s k) = g s) :
    ∀ {l : List Nat} {s : State}, g (s.forAll l f) = g s
  | [], _ => rfl
  | k :: l, s => (State.forAll_proj h (l := l) (s := f s k)).trans (h s k)

@[simp] theorem State.rtcRun_mem (s : State) (dt : Nat) : (s.rtcRun dt).mem = s.mem := by
  simp only [State.rtcRun, apply_ite State.mem, State.addC_mem, State.setBk_mem, ite_self]

@[simp] theorem State.rtcRun_pending (s : State) (dt : Nat) : (s.rtcRun dt).pending = s.pending := by
  simp only [State.rtcRun, apply_ite State.pending, State.addC_pending, State.setBk_pending, ite_self]

@[simp] theorem State.peakGroup_mem (s : State) (g a b : Nat) : (s.peakGroup g a b).mem = s.mem := by
  simp only [State.peakGroup, State.rise, apply_ite State.mem, State.setB_mem, State.set_mem, ite_self]

@[simp] theorem State.peakGroup_pending (s : State) (g a b : Nat) : (s.peakGroup g a b).pending = s.pending := by
  simp only [State.peakGroup, State.rise, apply_ite State.pending, State.setB_pending, State.set_pending, ite_self]

@[simp] theorem State.peakRun_mem (s : State) (a b : Nat) : (s.peakRun a b).mem = s.mem := by
  rw [State.peakRun, apply_ite State.mem, State.forAll_proj (g := State.mem) fun s g => s.peakGroup_mem g a b, ite_self]

@[simp] theorem State.peakRun_pending (s : State) (a b : Nat) : (s.peakRun a b).pending = s.pending := by
  rw [State.peakRun, apply_ite State.pending, State.forAll_proj (g := State.pending) fun s g => s.peakGroup_pending g a b, ite_self]

@[simp] theorem State.steerRun_mem (s : State) (n : Nat) : (s.steerRun n).mem = s.mem := rfl
@[simp] theorem State.steerRun_pending (s : State) (n : Nat) : (s.steerRun n).pending = s.pending := rfl
@[simp] theorem State.ptNote_mem (s : State) (m : PtMark) : (s.ptNote m).mem = s.mem := rfl
@[simp] theorem State.ptNote_pending (s : State) (m : PtMark) : (s.ptNote m).pending = s.pending := rfl

/-- Time that runs on moves no byte. -/
@[simp] theorem State.adv_mem (s : State) (t : Nat) : (s.adv t).mem = s.mem := by
  simp only [State.adv, apply_ite State.mem, State.steerRun_mem, State.ptNote_mem, State.rtcRun_mem, State.peakRun_mem,
    ite_self]

/-- Time that runs on leaves the commands that wait. -/
@[simp] theorem State.adv_pending (s : State) (t : Nat) : (s.adv t).pending = s.pending := by
  simp only [State.adv, apply_ite State.pending, State.steerRun_pending, State.ptNote_pending, State.rtcRun_pending,
    State.peakRun_pending, ite_self]

/-! ### The PCIe function -/

/-- With the PCIe link down the host reaches nothing (R55). -/
theorem reaches_host_of_linkDown {s : State} (h : s.evs.linkUp = false) : reaches s .host = false := by
  simp only [reaches, h, Bool.and_false]

/-- Settles O52: PCIE_RESET writes the event unit alone, over time that runs on. -/
theorem pcieResetTouchesNoObject : Obligations.PcieResetTouchesNoObject := fun t s =>
  ⟨_, rfl, rfl, rfl, rfl, fun a => congrArg (memGet · a) (s.adv_mem t), s.adv_pending t, reaches_host_of_linkDown rfl⟩

end Sys2Proof.Machine
end

section
/-! The mode commands that are not accepted (R469, Table 18.18), and O51 from them. -/
namespace Sys2Proof.Machine

/-! ### The refusals of a mode command (Table 18.18) -/

section
variable {s : State} {v : Nat}

/-- The answer to a mode command that is not accepted (R469). -/
theorem wrModeCmd_of_refusal {r code : Nat} (hforce : ¬(v = s.mode ∧ modeBusy s = false))
    (href : modeRefusal s v = some (r, code)) :
    wrModeCmd v s = .no ((s.set O.MD_MODE_RESULT r).hit O.MD_EVENTS 1 570) code := by
  have hforce' : ¬(v = s.mode ∧ (!modeBusy s) = true) := by rwa [Bool.not_eq_true']
  simp only [wrModeCmd, if_neg hforce', href, State.mdHit]

theorem modeRefusal_of_noChange (hv : v ≤ 7) (hno : changeOk s.mode v = false) : modeRefusal s v = some (2, abState) := by
  simp only [modeRefusal, if_neg (Nat.not_lt.mpr hv), hno, Bool.not_false, if_true]

theorem modeRefusal_of_notBooted (hmode : s.mode = mdBoot) (hboot : s.bit O.BT_STATUS B.BT_STATUS_BOOT_DONE = false) :
    modeRefusal s mdConfigure = some (2, abState) := by
  simp [modeRefusal, hmode, hboot, mdConfigure, mdBoot, changeOk]

theorem modeRefusal_of_busy (hv : v ≤ 7) (hok : changeOk s.mode v = true)
    (hboot : s.mode = mdBoot → v = mdConfigure → s.bit O.BT_STATUS B.BT_STATUS_BOOT_DONE = true)
    (hbusy : modeBusy s = true) (hsafe : v ≠ mdSafe) (hreset : v ≠ mdReset) : modeRefusal s v = some (3, abState) := by
  have hbooted : ¬(s.mode = mdBoot ∧ v = mdConfigure ∧ (!s.bit O.BT_STATUS B.BT_STATUS_BOOT_DONE) = true) := by
    rintro ⟨hm, hc, hb⟩
    rw [hboot hm hc] at hb
    exact absurd hb (by decide)
  simp only [modeRefusal, if_neg (Nat.not_lt.mpr hv), hok, Bool.not_true, Bool.false_eq_true, if_false, if_neg hbooted,
    if_pos (show modeBusy s = true ∧ v ≠ mdSafe ∧ v ≠ mdReset from ⟨hbusy, hsafe, hreset⟩)]

theorem modeRefusal_of_large (hv : 7 < v) : modeRefusal s v = some (5, abRange) := if_pos hv

/-- No change leads from a mode to itself (Table 18.2). -/
theorem ne_of_changeOk {old new : Nat} (h : changeOk old new = true) : new ≠ old := by
  rintro rfl
  unfold changeOk at h
  split at h <;> simp at h

end

/-- Each mode command is an access of MD_MODE_CMD with its value (Table 18.1). -/
theorem exec_modeCommand {p : Path} {c : Instr} {v : Nat} {s : State} (h : (c, v) ∈ modeCommands p) :
    v ≤ 7 ∧ exec c s = modeCmd p v s := by
  simp only [modeCommands, List.mem_cons, Prod.mk.injEq, List.not_mem_nil, or_false] at h
  rcases h with ⟨rfl, rfl⟩ | ⟨rfl, rfl⟩ | ⟨rfl, rfl⟩ | ⟨rfl, rfl⟩ | ⟨rfl, rfl⟩ | ⟨rfl, rfl⟩ | ⟨rfl, rfl⟩ | ⟨rfl, rfl⟩ <;>
    exact ⟨by decide, rfl⟩

/-- A mode command that is served and not accepted records its abort. -/
theorem modeCmd_of_refusal {p : Path} {s : State} {v r code : Nat} (hserve : s.serves p O.MD_MODE_CMD = true)
    (hforce : ¬(v = s.mode ∧ modeBusy s = false)) (href : modeRefusal s v = some (r, code)) :
    modeCmd p v s =
      .next (((s.set O.MD_MODE_RESULT r).hit O.MD_EVENTS 1 570).abort p 0x2000 2 .primary code) :=
  access_of_no hserve (wrModeCmd_of_refusal hforce href)

/-- A word of 0x2000:2 is a write of MD_MODE_CMD. -/
theorem dictWrite_modeCmd {p : Path} {s : State} {v : Nat} (hserved : served s 0x2000 = true) (hv : v < 256) :
    dictWrite p .primary true 0x2000 2 v s = wrModeCmd v s := by
  have hn : named s p 0x2000 2 = .num O.MD_MODE_CMD ⟨2, 2, .u8, .wo, 0, 0, 0, 0, .any⟩ := rfl
  have ht : trunc 32 v = v := Nat.mod_eq_of_lt (by omega)
  have ht8 : trunc 8 v = v := Nat.mod_eq_of_lt hv
  have hw : Ty.u8.wordOk (trunc 32 v) = true := by
    rw [ht]
    exact decide_eq_true (show v % 2 ^ 32 < 2 ^ 8 by omega)
  rw [dictWrite_num hserved hn (by decide) hw]
  exact congrArg (wrModeCmd · s) ht8

/-- Settles O51: a served mode command that `modeRefusal` refuses leaves its result, its event and its abort. -/
theorem modeRefusalsAct : Obligations.ModeRefusalsAct := by
  refine ⟨?noChange, ?notBooted, ?busy, ?large⟩
  case noChange =>
    intro p c v s hc hserve hforce hno
    obtain ⟨hv, hexec⟩ := exec_modeCommand hc
    exact hexec.trans (modeCmd_of_refusal hserve hforce (modeRefusal_of_noChange hv hno))
  case notBooted =>
    intro p s hserve hmode hboot
    exact modeCmd_of_refusal hserve (by rw [hmode]; exact fun h => absurd h.1 (by decide)) (modeRefusal_of_notBooted hmode hboot)
  case busy =>
    intro p c v s hc hserve hok hboot hbusy hsafe hreset
    obtain ⟨hv, hexec⟩ := exec_modeCommand hc
    exact hexec.trans (modeCmd_of_refusal hserve (fun h => ne_of_changeOk hok h.1)
      (modeRefusal_of_busy hv hok hboot hbusy hsafe hreset))
  case large =>
    intro p v s hp hserve hlarge hbyte hmode
    obtain ⟨hreach, hserved⟩ := Bool.and_eq_true_iff.mp hserve
    exact cmdWrite_of_dictWrite_no hp hreach
      ((dictWrite_modeCmd hserved hbyte).trans (wrModeCmd_of_refusal (by omega) (modeRefusal_of_large hlarge)))

end Sys2Proof.Machine
end

section
/-! The balls of the package (R540 to R543), and O60 from them. -/
namespace Sys2Proof.Machine

/-! ### The block of a port (R542) -/

/-- What the places of a port's block are: seven rows of its band, two columns. -/
theorem place_of_mem_portBlock {n : Nat} {b : Ball} {x : PortSig} (h : (b, x) ∈ portBlock n) :
    (∃ o < 7, b.row = bandRow (groupOf n) o) ∧ (b.col = blockCol n ∨ b.col = blockCol n + 1) := by
  simp only [portBlock, List.mem_flatMap, List.mem_range, List.mem_cons, Prod.mk.injEq, List.not_mem_nil, or_false] at h
  obtain ⟨o, ho, ⟨rfl, -⟩ | ⟨rfl, -⟩⟩ := h
  · exact ⟨⟨o, ho, rfl⟩, .inl rfl⟩
  · exact ⟨⟨o, ho, rfl⟩, .inr rfl⟩

/-- The four bands of rows, two at each edge (Table 21.3). -/
theorem bandRow_range {g o : Nat} (hg : g < 8) (ho : o < 7) :
    (g / 2 = 0 ∧ 1 ≤ bandRow g o ∧ bandRow g o ≤ 7) ∨ (g / 2 = 1 ∧ 8 ≤ bandRow g o ∧ bandRow g o ≤ 14) ∨
      (g / 2 = 2 ∧ 43 ≤ bandRow g o ∧ bandRow g o ≤ 49) ∨ (g / 2 = 3 ∧ 36 ≤ bandRow g o ∧ bandRow g o ≤ 42) := by
  unfold bandRow
  split
  case h_4 h0 h1 h2 =>
    have hband : g / 2 = 3 := by
      have h0' : g / 2 ≠ 0 := h0
      have h1' : g / 2 ≠ 1 := h1
      have h2' : g / 2 ≠ 2 := h2
      omega
    omega
  all_goals omega

/-- The two halves of columns: west for an even group, east for an odd one. -/
theorem blockCol_range (n : Nat) :
    (groupOf n % 2 = 0 ∧ blockCol n = 2 * (n % 12) + 1) ∨ (groupOf n % 2 = 1 ∧ blockCol n = 26 + 2 * (n % 12)) := by
  rcases Nat.mod_two_eq_zero_or_one (groupOf n) with h | h
  · exact .inl ⟨h, if_pos h⟩
  · exact .inr ⟨h, if_neg (by omega)⟩

/-- The band that a row of the head bands lies in. -/
def bandOfRow (r : Nat) : Nat := if r ≤ 7 then 0 else if r ≤ 14 then 1 else if r ≤ 42 then 3 else 2

/-- The port whose block holds the ball of a row and a column of the head bands. -/
def portAt (b : Ball) : Nat :=
  if b.col < 25 then 12 * (2 * bandOfRow b.row) + (b.col - 1) / 2
  else 12 * (2 * bandOfRow b.row + 1) + (b.col - 26) / 2

theorem bandOfRow_bandRow {g o : Nat} (hg : g < 8) (ho : o < 7) : bandOfRow (bandRow g o) = g / 2 := by
  unfold bandOfRow
  have := bandRow_range hg ho
  split_ifs <;> omega

/-- A ball of a port's block names the port. -/
theorem portAt_of_mem_portBlock {n : Nat} {b : Ball} {x : PortSig} (hn : n < 96) (h : (b, x) ∈ portBlock n) :
    portAt b = n := by
  obtain ⟨⟨o, ho, hrow⟩, hcol⟩ := place_of_mem_portBlock h
  have hgroup : groupOf n = n / 12 := rfl
  have hband : bandOfRow b.row = groupOf n / 2 := hrow ▸ bandOfRow_bandRow (by omega) ho
  have hhalf := blockCol_range n
  unfold portAt
  split_ifs <;> omega

/-- The block of a port lies in the head bands and leaves column 25 free. -/
theorem headBands_of_mem_portBlock {n : Nat} {b : Ball} {x : PortSig} (hn : n < 96) (h : (b, x) ∈ portBlock n) :
    b.region = .headBands ∧ (1 ≤ b.row ∧ b.row ≤ 14 ∨ 36 ≤ b.row ∧ b.row ≤ 49) ∧ 1 ≤ b.col ∧ b.col ≤ 49 ∧ b.col ≠ 25 := by
  obtain ⟨⟨o, ho, hrow⟩, hcol⟩ := place_of_mem_portBlock h
  have hgroup : groupOf n = n / 12 := rfl
  have hrange := bandRow_range (g := groupOf n) (by omega) ho
  have hhalf := blockCol_range n
  rw [← hrow] at hrange
  exact ⟨if_pos (by omega), by omega, by omega, by omega, by omega⟩

/-! ### Names and regions (R540, R541, R543) -/

/-- The letters of a row name that row and no other. -/
theorem rowOf_rowName : ∀ r ≤ 49, 1 ≤ r → rowOf (rowName r) = some r := by decide +kernel

/-- Rows 15 to 35 of a region's columns hold its signal, power and ground balls. -/
theorem Region.balls_of_ne_headBands {r : Region} (h : r ≠ .headBands) : r.signals + r.span.2.2 = 21 * r.span.2.1 := by
  cases r with
  | headBands => exact absurd rfl h
  | westMemory | positions | centre | motor | eastMemory => rfl

/-- Settles O60: a ball in two blocks would name two ports. -/
theorem ballsAreNamedAndShared : Obligations.BallsAreNamedAndShared := by
  refine ⟨fun r hlo hhi => rowOf_rowName r hhi hlo, ?apart, ?inBands, fun r => Region.balls_of_ne_headBands, rfl⟩
  case apart =>
    intro n m b x y hn hm hne hx hy
    exact hne ((portAt_of_mem_portBlock hn hx).symm.trans (portAt_of_mem_portBlock hm hy))
  case inBands => exact fun n b x => headBands_of_mem_portBlock

end Sys2Proof.Machine
end

section
/-! No command ends in a fault or a refusal (R423: a refused access is a next state that records its abort; log 12, 15,
82): the shared forms of a command first, then every meaning, and O59. -/
namespace Sys2Proof.Machine

/-- An outcome that is a next state. -/
def Completes (r : Host.Outcome State Fault Refusal) : Prop := ∃ s, r = .next s

/-! ### The shared forms of a command -/

theorem completes_next (s : State) : Completes (.next s) := ⟨s, rfl⟩

theorem completes_ite {c : Prop} {d : Decidable c} {a b : Host.Outcome State Fault Refusal} (ha : Completes a)
    (hb : Completes b) : Completes (@ite _ c d a b) := by split <;> assumption

/-- A refused write is a next state too: the one that records its abort (R423). -/
theorem WRes.finish_completes (r : WRes) (p : Path) (o : Obj) (view : View) : Completes (r.finish p o view) := by
  cases r with
  | ok s => exact completes_next s
  | no s c => exact completes_next _

theorem access_completes (p : Path) (o : Obj) (s : State) (f : State → WRes) : Completes (access p o s f) :=
  completes_ite (WRes.finish_completes _ _ _ _) (completes_next _)

theorem dmCmd_completes (p : Path) (c v : Nat) (s : State) : Completes (dmCmd p c v s) :=
  completes_ite (access_completes _ _ _ _) (completes_next _)

theorem onKind_completes (s : State) (k : Nat) (f : State → State) : Completes (onKind s k f) :=
  completes_ite (completes_next _) (completes_next _)

theorem cmdRead_completes (p : Path) (view : View) (full : Bool) (index sub : Nat) (s : State) :
    Completes (cmdRead p view full index sub s) := by
  refine completes_ite (completes_next _) ?_
  cases p with
  | net => exact completes_next _
  | host | dma =>
    dsimp only
    split <;> exact completes_next _

theorem cmdWrite_completes (p : Path) (view : View) (full : Bool) (index sub w : Nat) (s : State) :
    Completes (cmdWrite p view full index sub w s) := by
  refine completes_ite (completes_next _) ?_
  dsimp only
  split <;> exact completes_next _

/-! ### Every meaning -/

/-- Each meaning is one of the shared forms, or leads by its conditions and cases to a next state. -/
theorem exec_completes (c : Instr) (s : State) : Completes (exec c s) := by
  unfold exec
  split
  all_goals
    delta
      execDictWrite execRcReadClear execClrViewWrite execDictRead64 execDictWrite64 execPllLock execCkPtLoad
      execCkSnapshot execClrInhibit execDlFreeze execRefLoss execRefReturn execHoldoverExpired execPllUnlock
      execDivFault execLockLossTimeout execPcieRefLoss execRtcXtalLoss execRingInputUp execRingInputDown
      execElectionStart execReform execElectCellRx execEnumCellRx execRosterCellRx execTimeCellLaunch
      execTimeCellRx execRingHoldoverEnter execRingHoldoverExpiry execRingBreakDetect execEchoLaunch
      execEchoCellRx execEchoMarkRx execEchoTimeout execCellRxError execActionCellRx execSlowCellRx
      execSlowCellRepeat execSlowRxExpiry execFaultCellRx execActionFieldWrite execActionEnterLocal
      execActionEnterRing execActionCancel execProposeTimeout execReservedExpiry execActionTrigger
      execPiEdgeCounted execPiHallChange execPiGlitch execPiZEdge execPiWireDisagree execPiInvalidHall
      execPiSpeedUpdate execPiStopped execPiCountWrite execPiConfigWrite execClrFault execClrUncertain
      execMsEnable execMsDisable execRelayPulseEnd execInTailWrite execInRun execWaybillSlotRead
      execSlotFetchError execJobOpen execJobTableReadDone execBand execBandCopyDone execIntakeReadFail
      execJobClose execRepeatJob execNop execRelease execWaitJobEnd execWaitSpaceEnd execResume execSkip
      execInJobAbort execJobEnterRunning execPauseStep execBsTrainDone execBar2Access execUnpackerLine
      execScreenLine execScrCommitLine execScrCommitBand execScrCopyDone execScrMaskCmdMask execScrMaskCmdUnmask
      execScrCompWrite execLodgeLine execLineRelease execSlowHoldExpiry execLgSlowHost execLgControl execLineFix
      execPredStall execRotationStart execRotationEnd execArm execDisarm execTtControl execOffsetWrite
      execBringup execRetire execClrRetire execLineFrameSend execAckRx execNakRx execAckTimeout execReadDataRx
      execWriteDoneRx execStatusRx execTrainResultRx execCmdDoneRx execRetError execCmdTimeout execHeadSilent
      execHpRcRead execHpRcWrite execLineLatch execHpPtCommitLine execHpPtCommitBand execPgConversionDue
      execPgVStale execPgClampTimeout execPgRampTimeout execHpenOff execPgEnable execPgClrFault execPgClrStats
      execWarmPulseDue execRollIdleDue execTempReadingDue execTempAgeExpiry execClrBroken execClrSnsFault
      execHpRankSet execRecWriteRequest execRecWriteCancel execRecWriteStart execHpTwinWrite execTwinTakeOver
      execTwinHandBack execSenseConversionDone execSenseDeadline execSenseHoldCut execSenseConvTimeout
      execRefFault execRefFaultClear execDieReadingDue execCalStart execDelayLineCalDone execSbStoreSave
      execSbStoreLoad execSbHostCmd execClrRetired execSbClrStats execMtStart execMtAbort execSpitRotationDue
      execMtDwellExpiry execMtCappedClr execAxEnable execAxStopDisable execAxDecelStop execAxHalt
      execAxClearHalt execAxClearUncertain execAxMvPush execAxPosWrite execProfileStep execBdLoopCycle
      execFollowErrorTimeout execAxIgEnable execAxIgRelease execAxIgStop execAxIgHalt execAxIgPush execChopTrip
      execChopOfftimeEnd execPwmPeriodStart execHoldDelayExpiry execBridgeFault execFltGlitch execOcTrip
      execOpenPhase execStepLagTimeout execMonConversionDue execNmtStart execNmtStop execNmtEnterPreOperational
      execNmtResetNode execNmtResetCommunication execHeartbeatProduce execHeartbeatRx execHeartbeatLoss
      execUsdoDownloadInit execUsdoDownloadSegment execUsdoUploadInit execUsdoUploadSegment execUsdoTimeout
      execRpdoRx execRpdoTimeout execTpdoTransmit execTpdoEventTimer execSyncRx execSyncTimeout execTimeRx
      execEmcySend execEmcyHistoryClear execCanBusOff execCanBusRecovered execCanRxOverrun execCanEnableWrite
      execIrqVecWrite execEventRoute execMsixSend execQEnWrite execDmaStart execDmaStop execDmaResume
      execDmaSkip execDmaDescLoaded execDmaDescDone execDmaAccessFail execPcieReset execPcieLinkUp
      execModeCmdBoot execModeCmdConfigure execModeCmdStandby execModeCmdReady execModeCmdPrint
      execModeCmdService execModeCmdSafe execModeCmdReset execModeChangeDone execPowerOn execResetPin
      execResetRelease execInhibitSetFire execInhibitSetMotionStop execInhibitSetMotionOff execInhibitClrHost
      execInhibitClrPin execInhibitClrRing execFireInhibitAssert execPinReleaseExpiry execBusWarnTrip
      execBusWarnRelease execBusResetTrip execSupplyConversionDue execCurfewHoldExpiry execSagTimeout
      execSupplyHighRelease execSuClrStats execClrPgOv execClrShutdown execClrDieMax execDieTrip
      execMainPowerLost execMainPowerBack execBackupPor execRtcLoad execRtcSecRead execRtcAlarm execWakeClr
      execVbatMeasure execChargeFull execChargeTimeout execCellRemoved execChgRestart execJnlClear
      execBkJnlSelect execBkJnlHost execBkGaugeSet execBootSequence execBtRecoveryCmd execSoftReset
      execBtWdtKick execWatchdogExpiry execQspiRead execQspiProgram execQspiErase4k execQspiErase64k
      execQspiOpDone execOtRowRead execOtRowBurn execOtRescan execOtLock execOtpBurnDone execLcToVendorTest
      execLcToProvision execLcToField execLcToReturn execLcToScrapped execFiKey execFiArm execFiCancel
      execFiInject execRootLockRegained execRtcXtalRestored execTrainingTimeout execWireDisagreementHeld
      execInvalidHallHeld execWireAgreementRestored execDeepSpacingDue modeCmd cmdPiConfig cmdMs cmdCkControl
      cmdBk cmdSb nmtCmd usdoFrame
  all_goals repeat' first
    | with_reducible exact completes_next _
    | with_reducible exact access_completes _ _ _ _
    | with_reducible exact dmCmd_completes _ _ _ _
    | with_reducible exact onKind_completes _ _ _
    | with_reducible exact cmdRead_completes _ _ _ _ _ _
    | with_reducible exact cmdWrite_completes _ _ _ _ _ _ _
    | with_reducible apply completes_ite
    | split
    | dsimp only

/-- Settles O59: `exec_completes`, for every command. -/
theorem everyCommandCompletes : Obligations.EveryCommandCompletes := exec_completes

end Sys2Proof.Machine
end

section
/-! The writes of AX_CMD, AX_MV_PUSH and AX_POS (R367, R368, R371, R380, R381, R385, R393, log 123), and O29 from them. -/
namespace Sys2Proof.Machine

/-- A served write answers what its object's rule answers. -/
theorem access_of_eq {p : Path} {o : Obj} {s : State} {r : WRes} {f : State → WRes} (hserve : s.serves p o = true)
    (hf : f s = r) : access p o s f = r.finish p o :=
  (access_of_serves hserve).trans (congrArg (WRes.finish · p o) hf)

section
variable {a v : Nat} {flt : Bool} {s s1 : State}

/-! ### AX_CMD (R368, R380, R381, R393) -/

section
variable (hs1 : s1 = s.setB (O.DS_STATUS a) B.DS_STATUS_FLT_IN flt)
include hs1

theorem wrAxCmd_enable (hmay : mayEnable s1 a flt = true)
    (htrig : axCfg s1 a B.AX_CONFIG_TRIG_EN = false ∨ 64 ≤ s1.get (O.AX_TRIG_MS a)) :
    wrAxCmd a 1 flt s = .ok (s1.axEnable a) := by
  have hnone : ¬(axCfg s1 a B.AX_CONFIG_TRIG_EN = true ∧ s1.get (O.AX_TRIG_MS a) < 64) := by
    rintro ⟨hen, hlt⟩
    exact htrig.elim (fun h => absurd (h.symm.trans hen) (by decide)) (fun h => absurd hlt (Nat.not_lt.mpr h))
  simp only [wrAxCmd, ← hs1, hmay, Bool.not_true, Bool.false_eq_true, if_false, if_neg hnone]

/-- An axis that is to trigger a milestone claims it before it is enabled (R385). -/
theorem wrAxCmd_enable_claims (hmay : mayEnable s1 a flt = true) (hen : axCfg s1 a B.AX_CONFIG_TRIG_EN = true)
    (hm : s1.get (O.AX_TRIG_MS a) < 64) :
    wrAxCmd a 1 flt s = match s1.msClaim (s1.get (O.AX_TRIG_MS a)) 4 with
      | .ok s2 => .ok (s2.axEnable a)
      | .no s2 c => .no (s2.axHit a B.AX_EVENTS_RESOURCE_CONFLICT) c := by
  simp only [wrAxCmd, ← hs1, hmay, Bool.not_true, Bool.false_eq_true, if_false,
    if_pos (show axCfg s1 a B.AX_CONFIG_TRIG_EN = true ∧ s1.get (O.AX_TRIG_MS a) < 64 from ⟨hen, hm⟩)] <;> rfl

theorem wrAxCmd_stopDisable : wrAxCmd a 2 flt s = .ok ((s1.decelStop a true).mtSync) := by
  simp only [wrAxCmd, ← hs1]

theorem wrAxCmd_decelStop (hown : s1.get (O.AX_OWNER a) = ownerHost) :
    wrAxCmd a 3 flt s = .ok (s1.decelStop a false) := by
  simp only [wrAxCmd, ← hs1, hown, decide_true, need_of]

theorem wrAxCmd_halt (hown : s1.get (O.AX_OWNER a) = ownerHost) : wrAxCmd a 4 flt s = .ok ((s1.haltAxis a 7).mtSync) := by
  simp only [wrAxCmd, ← hs1, hown, decide_true, need_of]

theorem wrAxCmd_clear_of_stopped (hstate : axisState s1 a = 4 ∨ axisState s1 a = 5)
    (hgone : haltPersists s1 a flt = false) : wrAxCmd a 5 flt s = .ok (s1.axIdle a) := by
  simp only [wrAxCmd, ← hs1, if_pos hstate, hgone, Bool.not_false, need_of]

theorem wrAxCmd_clear_of_noFault (h4 : axisState s1 a ≠ 4) (h5 : axisState s1 a ≠ 5)
    (hfault : s1.bit (O.DS_STATUS a) B.DS_STATUS_FAULT = false) : wrAxCmd a 5 flt s = .ok s1 := by
  simp only [wrAxCmd, ← hs1, if_neg (not_or.mpr ⟨h4, h5⟩), hfault, Bool.false_eq_true, if_false]

theorem wrAxCmd_clear_of_fault (h4 : axisState s1 a ≠ 4) (h5 : axisState s1 a ≠ 5)
    (hfault : s1.bit (O.DS_STATUS a) B.DS_STATUS_FAULT = true) (hgone : haltPersists s1 a flt = false) :
    wrAxCmd a 5 flt s = .ok (s1.setB (O.DS_STATUS a) B.DS_STATUS_FAULT false) := by
  simp only [wrAxCmd, ← hs1, if_neg (not_or.mpr ⟨h4, h5⟩), hfault, if_true, hgone, Bool.not_false, need_of]

theorem wrAxCmd_clearUncertain :
    wrAxCmd a 6 flt s = .ok (s1.setB (O.AX_STATUS a) B.AX_STATUS_POS_UNCERTAIN false) := by
  simp only [wrAxCmd, ← hs1]

end

/-! ### AX_MV_PUSH (R371) -/

section
variable (htakes : takesMoves s a = true)
include htakes

theorem wrMvPush_of_full (hfull : 16 ≤ qLen s a) :
    wrMvPush a 1 s = .no (s.axHit a B.AX_EVENTS_QUEUE_FULL) abState := by
  simp only [wrMvPush, decide_true, need_of, State.tryPush, htakes, Bool.not_true, Bool.false_eq_true, if_false,
    if_pos hfull]

variable (hroom : qLen s a < 16)
include hroom

theorem wrMvPush_of_otherOwner (hown : s.get (O.AX_OWNER a) ≠ ownerHost) : wrMvPush a 1 s = .no s abLocal := by
  simp only [wrMvPush, decide_true, need_of, State.tryPush, htakes, Bool.not_true, Bool.false_eq_true, if_false,
    if_neg (Nat.not_le.mpr hroom), if_pos hown]

variable (hown : s.get (O.AX_OWNER a) = ownerHost)
include hown

/-- With room and the host as owner a push is decided by the move's checks. -/
theorem wrMvPush_of_owner :
    wrMvPush a 1 s = match moveRefusal s a (stagedMove s a) with
      | some (c, still) => .no (if still then s.axHit a B.AX_EVENTS_NOT_STILL else s) c
      | none => .ok (s.pushMove a (stagedMove s a)) := by
  simp only [wrMvPush, decide_true, need_of, State.tryPush, htakes, Bool.not_true, Bool.false_eq_true, if_false,
    if_neg (Nat.not_le.mpr hroom), hown, ne_eq, not_true_eq_false] <;> rfl

theorem wrMvPush_of_legal (hlegal : moveRefusal s a (stagedMove s a) = none) :
    wrMvPush a 1 s = .ok (s.pushMove a (stagedMove s a)) := by
  rw [wrMvPush_of_owner htakes hroom hown, hlegal]

theorem wrMvPush_of_refused {c : Nat} {still : Bool} (href : moveRefusal s a (stagedMove s a) = some (c, still)) :
    wrMvPush a 1 s = .no (if still then s.axHit a B.AX_EVENTS_NOT_STILL else s) c := by
  rw [wrMvPush_of_owner htakes hroom hown, href]

end

/-! ### AX_POS (R367) -/

section
variable (hstate : axisState s a = 0 ∨ axisState s a = 1 ∨ axisState s a = 4)
include hstate

theorem wrAxPos_stepper (ha : a < 16) :
    wrAxPos a v s =
      let x := s.ax a
      let pos := toSigned 64 v
      .ok ((s.putAx a { x with mOff := x.mOff + (pos * auU - x.p), p := pos * auU,
                               off := pos * auU - x.ext * s.getI (O.AX_ENC_RATIO a) * 65536 }).limitCheck a) := by
  simp only [wrAxPos, need_of (decide_eq_true hstate), if_pos ha]

theorem wrAxPos_brushless (ha : 16 ≤ a) :
    wrAxPos a v s =
      let x := s.ax a
      let pos := toSigned 64 v
      .ok ((s.putAx a { x with off := pos - x.ext, p := x.p + (pos - (x.ext + x.off)) * auU }).limitCheck a) := by
  simp only [wrAxPos, need_of (decide_eq_true hstate), if_neg (Nat.not_lt.mpr ha)]

end

end

/-- Settles O29: each write by its value, over the stage's fault input for AX_CMD. -/
theorem axisCommandsAct : Obligations.AxisCommandsAct := by
  refine ⟨?enable, ?enableClaims, ?stopDisable, ?decelStop, ?halt, ?clearStopped, ?clearNothing, ?clearFault,
    ?clearUncertain, ?push, ?pushFull, ?pushOther, ?pushRefused, ?posStepper, ?posBrushless⟩
  case enable => exact fun p a flt s1 s hserve hs1 hmay htrig => access_of_ok hserve (wrAxCmd_enable hs1 hmay htrig)
  case enableClaims =>
    intro p a flt s1 s hserve hs1 hmay hen hm
    refine (access_of_eq hserve (wrAxCmd_enable_claims hs1 hmay hen hm)).trans ?_
    cases s1.msClaim (s1.get (O.AX_TRIG_MS a)) 4 <;> rfl
  case stopDisable => exact fun p a s1 s hserve hs1 => access_of_ok hserve (wrAxCmd_stopDisable hs1)
  case decelStop => exact fun p a s1 s hserve hs1 hown => access_of_ok hserve (wrAxCmd_decelStop hs1 hown)
  case halt => exact fun p a s1 s hserve hs1 hown => access_of_ok hserve (wrAxCmd_halt hs1 hown)
  case clearStopped =>
    exact fun p a flt s1 s hserve hs1 hstate hgone => access_of_ok hserve (wrAxCmd_clear_of_stopped hs1 hstate hgone)
  case clearNothing =>
    exact fun p a flt s1 s hserve hs1 h4 h5 hfault => access_of_ok hserve (wrAxCmd_clear_of_noFault hs1 h4 h5 hfault)
  case clearFault =>
    exact fun p a flt s1 s hserve hs1 h4 h5 hfault hgone =>
      access_of_ok hserve (wrAxCmd_clear_of_fault hs1 h4 h5 hfault hgone)
  case clearUncertain => exact fun p a s1 s hserve hs1 => access_of_ok hserve (wrAxCmd_clearUncertain hs1)
  case push =>
    exact fun p a s hserve htakes hroom hown hlegal => access_of_ok hserve (wrMvPush_of_legal htakes hroom hown hlegal)
  case pushFull => exact fun p a s hserve htakes hfull => access_of_no hserve (wrMvPush_of_full htakes hfull)
  case pushOther =>
    exact fun p a s hserve htakes hroom hown => access_of_no hserve (wrMvPush_of_otherOwner htakes hroom hown)
  case pushRefused =>
    exact fun p a c still s hserve htakes hroom hown href =>
      access_of_no hserve (wrMvPush_of_refused htakes hroom hown href)
  case posStepper =>
    rintro p a v _ _ s hserve hstate ha rfl rfl
    exact access_of_ok hserve (wrAxPos_stepper hstate ha)
  case posBrushless =>
    rintro p a v _ _ s hserve hstate ha rfl rfl
    exact access_of_ok hserve (wrAxPos_brushless hstate ha)

end Sys2Proof.Machine
end

section
/-! Profiles, the brushless loop, the following error and interpolation groups (R370, R383, R384, R389 to R391, log 39,
40, 122), and O30 from their commands. -/
namespace Sys2Proof.Machine

section
variable {a g t : Nat} {s : State}

/-! ### Steps that time brings (R370, R383, R384) -/

theorem execProfileStep_of_due {s1 s2 : State}
    (hdue : tooEarly (s.adv t) (s.adv t).clk.profAt (10 * fuUs) = false)
    (hs1 : s1 = ((s.adv t).forAll steppers (fun s a => s.microSync a)).forAll axes
      (fun s a => s.setAx a { s.ax a with step := 0 }))
    (hs2 : s2 = s1.setClk { s1.clk with profAt := some s1.up }) :
    execProfileStep t s =
      .next (((s2.forAll slots (fun s g => s.igStep g)).forAll axes (fun s a => s.stepAxis a)).mtSync) := by
  simp only [execProfileStep, hdue, Bool.false_eq_true, if_false, hs2, hs1]

theorem execBdLoopCycle_of_due (hdue : tooEarly (s.adv t) (s.adv t).clk.loopAt (50 * fuUs) = false) :
    execBdLoopCycle t s =
      .next (((s.adv t).setClk { (s.adv t).clk with loopAt := some (s.adv t).up }).forAll brushless
        (fun s a => s.loopCycle a)) := by
  simp only [execBdLoopCycle, hdue, Bool.false_eq_true, if_false]

theorem execFollowErrorTimeout_of_due {x : Nat} (hfollow : ((s.adv t).ax a).followAt = some x)
    (hlate : x + fuMs ≤ (s.adv t).up) : execFollowErrorTimeout a t s = .next (((s.adv t).haltAxis a 5).mtSync) := by
  simp only [execFollowErrorTimeout, hfollow, if_pos hlate]

/-! ### AX_IG_CMD (R389, R391) -/

/-- What a group requires of a member that it takes over (R389). -/
def mayJoin (s : State) (a : Nat) : Prop :=
  (a < 16 ∨ axCfg s a B.AX_CONFIG_POS_LOOP = true) ∧ s.get (O.AX_OWNER a) = ownerHost ∧ axisState s a = 1 ∧
    (s.fld (O.AX_CONFIG a) B.AX_CONFIG_ROLE = 0 ∨
      ∀ n, n < 96 → armed s n = true → predOf s n ≠ s.fld (O.AX_CONFIG a) B.AX_CONFIG_PRED)

/-- With two to four members that may join, none of the refusals of the enable applies. -/
theorem wrIgCmd_enable (hlo : 2 ≤ (members s g).length) (hhi : (members s g).length ≤ 4)
    (hjoin : ∀ a ∈ members s g, mayJoin s a) :
    wrIgCmd g 1 s =
      .ok (((s.forAll (members s g) (fun s a => (s.set (O.AX_OWNER a) (2 + g)).axShow a)).setIg g {}).set
        (O.AX_IG_STATUS g) 1) := by
  have hloop : (members s g).any (fun a => decide (16 ≤ a) && !axCfg s a B.AX_CONFIG_POS_LOOP) = false := by
    refine List.any_eq_false.mpr fun a ha => ?_
    obtain h | h := (hjoin a ha).1
    · simp [Nat.not_le.mpr h]
    · simp [h]
  have hown : (members s g).any (fun a => decide (s.get (O.AX_OWNER a) ≠ ownerHost)) = false := by
    refine List.any_eq_false.mpr fun a ha => ?_
    simp [(hjoin a ha).2.1]
  have hfree : (members s g).any (fun a => decide (axisState s a ≠ 1) ||
      (decide (s.fld (O.AX_CONFIG a) B.AX_CONFIG_ROLE ≠ 0) &&
        ports.any (fun n => armed s n && decide (predOf s n = s.fld (O.AX_CONFIG a) B.AX_CONFIG_PRED)))) = false := by
    refine List.any_eq_false.mpr fun a ha => ?_
    obtain ⟨-, -, hidle, hrole | hpred⟩ := hjoin a ha
    · simp [hidle, hrole]
    · have hnone : ports.any (fun n => armed s n && decide (predOf s n = s.fld (O.AX_CONFIG a) B.AX_CONFIG_PRED)) = false := by
        refine List.any_eq_false.mpr fun n hn => ?_
        simpa using hpred n (List.mem_range.mp hn)
      simp [hidle, hnone]
  have hcount : ¬((members s g).length < 2 ∨ 4 < (members s g).length ∨
      (members s g).any (fun a => decide (16 ≤ a) && !axCfg s a B.AX_CONFIG_POS_LOOP) = true) := by
    rw [hloop]
    simp only [Bool.false_eq_true, or_false]
    omega
  simp only [wrIgCmd, if_neg hcount, hown, hfree, Bool.false_eq_true, if_false]

theorem wrIgCmd_release_of_rest (hon : igFlag s g 0 = true) (hplan : (s.ig g).plan = none)
    (hqueue : (s.ig g).queue = []) :
    wrIgCmd g 2 s =
      .ok ((s.forAll (members s g) (fun s a => (s.set (O.AX_OWNER a) ownerHost).axShow a)).set (O.AX_IG_STATUS g) 0) := by
  simp [wrIgCmd, hon, hplan, hqueue]

theorem wrIgCmd_release_of_off (hoff : igFlag s g 0 = false) : wrIgCmd g 2 s = .ok s := by
  simp [wrIgCmd, hoff]

theorem wrIgCmd_stop_of_moving (hon : igFlag s g 0 = true) (hnotStopping : igFlag s g 2 = false) :
    wrIgCmd g 3 s = .ok (s.igStop g) := by
  simp [wrIgCmd, hon, hnotStopping]

theorem wrIgCmd_stop_of_idle (hidle : igFlag s g 0 = false ∨ igFlag s g 2 = true) : wrIgCmd g 3 s = .ok s := by
  obtain h | h := hidle <;> simp [wrIgCmd, h]

theorem wrIgCmd_halt_of_on (hon : igFlag s g 0 = true) :
    wrIgCmd g 4 s = .ok ((s.forAll (members s g) (fun s a => s.axHalt a 7)).igClear g true) := by
  simp only [wrIgCmd, hon, if_true]

theorem wrIgCmd_halt_of_off (hoff : igFlag s g 0 = false) : wrIgCmd g 4 s = .ok s := by
  simp only [wrIgCmd, hoff, Bool.false_eq_true, if_false]

/-! ### AX_IG_PUSH (R390) -/

/-- The group's move as it is staged. -/
def stagedGMove (s : State) (g : Nat) : GMove :=
  ⟨(List.range (members s g).length).map (fun i => s.getI (O.AX_IG_TARGET g i)), s.get (O.AX_IG_VEL g),
    s.get (O.AX_IG_ACC g), s.get (O.AX_IG_DEC g), s.get (O.AX_IG_JERK g)⟩

/-- A move that every member takes, within every limit, is appended. -/
theorem wrIgPush_of_legal {m : GMove} (hm : m = stagedGMove s g) (hon : igFlag s g 0 = true)
    (htake : ∀ a ∈ members s g, takesMoves s a = true ∧ (notStill s a = false ∨ (s.ig g).plan ≠ none))
    (hroom : (s.ig g).queue.length < 16) (hvel : m.vel ≠ 0) (hacc : m.acc ≠ 0) (hdec : m.dec ≠ 0)
    (hlimit : ∀ e ∈ (members s g).zip m.targets,
      limited s e.1 = false ∨ (limitLo s e.1 ≤ e.2 ∧ e.2 ≤ limitHi s e.1)) :
    wrIgPush g 1 s =
      .ok ((((s.setIg g { s.ig g with queue := (s.ig g).queue ++ [m] }).set (O.AX_IG_Q_COUNT g)
        ((s.ig g).queue.length + 1)).igFlagTo g 3 false).igFlagTo g 4 (decide (16 ≤ (s.ig g).queue.length + 1))) := by
  have hready : (members s g).any (fun a => !takesMoves s a) = false :=
    List.any_eq_false.mpr fun a ha => by simp [(htake a ha).1]
  have hrange : ((members s g).zip m.targets).any
      (fun e => limited s e.1 && decide (e.2 < limitLo s e.1 ∨ limitHi s e.1 < e.2)) = false := by
    refine List.any_eq_false.mpr fun e he => ?_
    obtain h | h := hlimit e he
    · simp [h]
    · simp [h]
  have hstill : (members s g).find? (fun a => notStill s a && (s.ig g).plan.isNone) = none := by
    refine List.find?_eq_none.mpr fun a ha => ?_
    obtain h | h := (htake a ha).2
    · simp [h]
    · simp [h]
  subst hm
  simp only [stagedGMove] at hvel hacc hdec hrange
  simp only [wrIgPush, stagedGMove, hon, hready, hrange, hstill, hvel, hacc, hdec, Nat.not_le.mpr hroom,
    List.length_append, List.length_singleton, ne_eq, not_true_eq_false, Bool.not_true, Bool.false_eq_true, or_self, if_false]

end

/-- Settles O30: the steps by the time since the last, the writes of a group by their values. -/
theorem motionStepsAct : Obligations.MotionStepsAct := by
  refine ⟨?profile, ?loop, ?follow, ?enable, ?release, ?releaseOff, ?stop, ?stopIdle, ?halt, ?haltOff, ?push⟩
  case profile => exact fun t s1 s2 s hdue hs1 hs2 => execProfileStep_of_due hdue hs1 hs2
  case loop => exact fun t s hdue => execBdLoopCycle_of_due hdue
  case follow => exact fun a t x s hfollow hlate => execFollowErrorTimeout_of_due hfollow hlate
  case enable =>
    rintro p g _ s hserve rfl hlo hhi hjoin
    exact access_of_ok hserve (wrIgCmd_enable hlo hhi hjoin)
  case release =>
    exact fun p g s hserve hon hplan hqueue => access_of_ok hserve (wrIgCmd_release_of_rest hon hplan hqueue)
  case releaseOff => exact fun p g s hserve hoff => access_of_ok hserve (wrIgCmd_release_of_off hoff)
  case stop => exact fun p g s hserve hon hstop => access_of_ok hserve (wrIgCmd_stop_of_moving hon hstop)
  case stopIdle => exact fun p g s hserve hidle => access_of_ok hserve (wrIgCmd_stop_of_idle hidle)
  case halt => exact fun p g s hserve hon => access_of_ok hserve (wrIgCmd_halt_of_on hon)
  case haltOff => exact fun p g s hserve hoff => access_of_ok hserve (wrIgCmd_halt_of_off hoff)
  case push =>
    exact fun p g m s hserve hm hon htake hroom hvel hacc hdec hlimit =>
      access_of_ok hserve (wrIgPush_of_legal hm hon htake hroom hvel hacc hdec hlimit)

end Sys2Proof.Machine
end

section
/-! The chopper and the PWM (R399 to R401, R406), and O31; the detectors of a drive stage and its monitoring (R403, R409 to
R412), and O32. -/
namespace Sys2Proof.Machine

section
variable {a ph uv e t : Nat} {s s1 s2 : State}

/-! ### On-times and their ends (R399, R400, R406) -/

section
variable (hs1 : s1 = (s.adv t).microSync a)
include hs1

theorem execChopTrip_of_stepper {x : Phase} (ha : a < 16) (hx : x = (s1.ds a).phase ph) (hon : x.st = .on)
    (hblank : x.at' + s1.get (O.DS_BLANK a) * fuMot ≤ s1.up) (htrip : trips x.code uv = true)
    (hout : outputsOff s1 a = false) :
    execChopTrip a ph ⟨uv, t⟩ s =
      .next ((s1.setDs a ((s1.ds a).setPhase ph { x with trip := s1.up })).phaseOff a ph) := by
  subst hx
  simp only [execChopTrip, ← hs1, if_pos ha, hon, hblank, htrip, hout, Bool.not_false, and_self, if_true]

theorem execChopTrip_of_brushless {k : Nat} (ha : 16 ≤ a) (hsector : sectorOf s1 a = some k) (hon : onTime s1 a = true)
    (hphase : (sectorPhases k).2 = ph) (hblank : (s1.ds a).onAt.getD 0 + s1.get (O.DS_BLANK a) * fuMot ≤ s1.up)
    (htrip : trips (s1.ds a).code uv = true) :
    execChopTrip a ph ⟨uv, t⟩ s = .next ((s1.setDs a { s1.ds a with on := false }).bdSync a) := by
  simp only [execChopTrip, ← hs1, if_neg (Nat.not_lt.mpr ha), hsector, hon, hphase, hblank, htrip, and_self, if_true]

theorem execChopOfftimeEnd_of_due (hoff : ((s1.ds a).phase ph).st = .off)
    (hdue : ((s1.ds a).phase ph).at' + s1.get (O.DS_TOFF a) * fuMot ≤ s1.up) (hout : outputsOff s1 a = false) :
    execChopOfftimeEnd a ph t s = .next (s1.phaseOn a ph) := by
  simp only [execChopOfftimeEnd, ← hs1, hoff, hdue, hout, Bool.not_false, and_self, if_true]

/-- A stepper at rest for DS_HOLD_DELAY begins the standstill current (R401). -/
theorem execHoldDelayExpiry_of_rest (ha : a < 16) (hout : outputsOff s1 a = false)
    (hhold : s1.bit (O.DS_STATUS a) B.DS_STATUS_HOLD = false)
    (hrest : (s1.ds a).restAt + s1.get (O.DS_HOLD_DELAY a) * fuMs ≤ s1.up)
    (hs2 : s2 = (s1.setB (O.DS_STATUS a) B.DS_STATUS_HOLD true).setDs a { s1.ds a with hold := 0 }) :
    execHoldDelayExpiry a t s =
      .next ((if holdSteps s2 a = 0 then s2.hit (O.DS_EVENTS a) B.DS_EVENTS_HOLD_ENTERED (520 + a) else s2).codes a) := by
  subst hs2
  simp only [execHoldDelayExpiry, ← hs1, Nat.not_le.mpr ha, hout, hhold, Nat.not_lt.mpr hrest, Bool.false_eq_true,
    or_self, if_false]

/-! ### Comparators and open phases (R410, R411) -/

/-- An over-current trip ends the on-time of a phase that is on, or the period of a brushless axis (R410). -/
def State.ocEnd (s : State) (a ph : Nat) (d : Drive) : State :=
  if a < 16 then (if (d.phase ph).st = .on then s.phaseOff a ph else s)
  else (s.setDs a { s.ds a with on := false, cut := true }).bdSync a

/-- A trip of an armed comparator is counted, and faults the stage when it is one too many in 1 ms. -/
theorem execOcTrip_of_armed {l : List Nat} (harmed : ocArmed s1 a ph = true)
    (htrip : trips (ampCode s1 a (s1.get (O.DS_OC_LIMIT a)) 1) uv = true) (hl : l = s1.span fuMs (s1.ds a).trips)
    (hs2 : s2 = (((s1.setDs a { s1.ds a with trips := l }).ocEnd a ph (s1.ds a)).inc (O.DS_OC_TRIPS a)).hit
      (O.DS_EVENTS a) B.DS_EVENTS_OC_TRIP (520 + a)) :
    execOcTrip a ph ⟨uv, t⟩ s =
      .next (if s2.get (O.DS_OC_COUNT a) < l.length then s2.stageFault a B.DS_EVENTS_OC_FAULT else s2) := by
  subst hs2 hl
  simp only [execOcTrip, ← hs1, harmed, htrip, Bool.not_true, Bool.false_eq_true, or_self, if_false]
  exact (apply_ite _ _ _ _).symm

theorem execOpenPhase_of_rest (ha : a < 16) (hout : outputsOff s1 a = false)
    (hrest : (s1.ds a).restAt + 10 * fuMs ≤ s1.up) (hcode : 410 ≤ ((s1.ds a).phase ph).code)
    (htrip : ((s1.ds a).phase ph).trip + fuMs ≤ s1.up) :
    execOpenPhase a ph t s = .next (s1.stageFault a B.DS_EVENTS_OPEN_PHASE) := by
  simp only [execOpenPhase, ← hs1, ha, hout, hrest, hcode, htrip, Bool.not_false, and_self, if_true]

end

theorem execPwmPeriodStart_of_due (ha : 16 ≤ a) (hout : outputsOff (s.adv t) a = false)
    (hdue : tooEarly (s.adv t) ((s.adv t).ds a).onAt ((s.adv t).get (O.DS_PWM_PERIOD a) * fuMot) = false) :
    execPwmPeriodStart a t s =
      .next (((s.adv t).setDs a { ranOut (s.adv t) a with
        code := pwmCode (s.adv t) a, on := decide (pwmCode (s.adv t) a ≠ 0), onAt := some (s.adv t).up, cut := false }).bdSync a) := by
  simp only [execPwmPeriodStart, Nat.not_lt.mpr ha, hout, hdue, Bool.false_eq_true, or_self, if_false]

/-! ### The fault input (R409) -/

theorem execBridgeFault_of_held (hs1 : s1 = (s.adv t).setB (O.DS_STATUS a) B.DS_STATUS_FLT_IN true)
    (hen : s1.bit (O.DS_CONFIG a) B.DS_CONFIG_FLT_EN = true) (hheld : fltHeld s1 e = true) :
    execBridgeFault a ⟨e, t⟩ s = .next (s1.stageFault a B.DS_EVENTS_BRIDGE_FAULT) := by
  simp only [execBridgeFault, ← hs1, hen, hheld, Bool.and_self, if_true]

theorem execFltGlitch_of_short (hs1 : s1 = (s.adv t).setB (O.DS_STATUS a) B.DS_STATUS_FLT_IN false)
    (hen : s1.bit (O.DS_CONFIG a) B.DS_CONFIG_FLT_EN = true) (hshort : fltHeld s1 e = false) :
    execFltGlitch a ⟨e, t⟩ s =
      .next ((s1.inc (O.DS_FLT_GLITCHES a)).hit (O.DS_EVENTS a) B.DS_EVENTS_FLT_GLITCH (520 + a)) := by
  simp only [execFltGlitch, ← hs1, hen, hshort, Bool.not_false, Bool.and_self, if_true]

/-! ### Lag and monitoring (R403, R412) -/

theorem execStepLagTimeout_of_due {x : Nat} (hstep : stepping (s.adv t) a = true)
    (hlag : ((s.adv t).ds a).lagAt = some x) (hlate : x + fuMs ≤ (s.adv t).up) :
    execStepLagTimeout a t s = .next ((s.adv t).stageFault a B.DS_EVENTS_STEP_LAG) := by
  simp only [execStepLagTimeout, hstep, if_true, hlag, if_pos hlate]

/-- A request of a motor current of an axis. -/
def motorReq (a : Nat) (r : Req) : Bool := decide (r.what = .motor ∧ r.inst = a)

theorem execMonConversionDue_of_due (hperiod : (s.adv t).get (O.DS_MON_PERIOD a) ≠ 0) (hstate : axisState (s.adv t) a ≠ 0)
    (hdue : tooEarly (s.adv t) ((s.adv t).ds a).monAt ((s.adv t).get (O.DS_MON_PERIOD a) * fuUs) = false)
    (hs1 : s1 = (s.adv t).setDs a { (s.adv t).ds a with monAt := some (s.adv t).up })
    (hs2 : s2 = (s1.addC (O.DS_MON_MISSED a) (s1.bank.reqs.filter (motorReq a)).length).senseWithdraw (motorReq a)) :
    execMonConversionDue a t s =
      .next (s2.forAll (motorInputs a)
        (fun s i => s.senseAsk { cls := 2, inst := a, what := .motor, input := i, entered := senseCycle s })) := by
  subst hs2 hs1
  simp only [execMonConversionDue, hperiod, hstate, hdue, Bool.false_eq_true, or_self, if_false]
  rfl

end

/-- Settles O31: the on-times, their ends and the standstill current, each where its time has run. -/
theorem chopperActs : Obligations.ChopperActs := by
  refine ⟨?tripStepper, ?tripBrushless, ?offtime, ?pwm, ?hold⟩
  case tripStepper =>
    exact fun a ph uv t x s ha hx hon hblank htrip hout => execChopTrip_of_stepper rfl ha hx hon hblank htrip hout
  case tripBrushless =>
    exact fun a ph uv t k s ha hsector hon hphase hblank htrip =>
      execChopTrip_of_brushless rfl ha hsector hon hphase hblank htrip
  case offtime => exact fun a ph t s hoff hdue hout => execChopOfftimeEnd_of_due rfl hoff hdue hout
  case pwm => exact fun a t s ha hout hdue => execPwmPeriodStart_of_due ha hout hdue
  case hold => exact fun a t s1 s ha hout hhold hrest hs1 => execHoldDelayExpiry_of_rest rfl ha hout hhold hrest hs1

/-- Settles O32: each detector where its condition holds; a stage fault is `State.stageFault`. -/
theorem stageFaultsAct : Obligations.StageFaultsAct := by
  refine ⟨?bridge, ?glitch, ?ocFew, ?ocMany, ?openPhase, ?lag, ?monitor⟩
  case bridge => exact fun a e t s1 s hs1 hen hheld => execBridgeFault_of_held hs1 hen hheld
  case glitch => exact fun a e t s1 s hs1 hen hshort => execFltGlitch_of_short hs1 hen hshort
  case ocFew =>
    rintro a ph uv t l _ _ s3 s harmed htrip hl rfl rfl hs3 hfew
    exact (execOcTrip_of_armed rfl harmed htrip hl hs3).trans (congrArg _ (if_neg (Nat.not_lt.mpr hfew)))
  case ocMany =>
    rintro a ph uv t l _ _ s3 s harmed htrip hl rfl rfl hs3 hmany
    exact (execOcTrip_of_armed rfl harmed htrip hl hs3).trans (congrArg _ (if_pos hmany))
  case openPhase =>
    exact fun a ph t s ha hout hrest hcode htrip => execOpenPhase_of_rest rfl ha hout hrest hcode htrip
  case lag => exact fun a t x s hstep hlag hlate => execStepLagTimeout_of_due hstep hlag hlate
  case monitor =>
    exact fun a t s1 s2 s hperiod hstate hdue hs1 hs2 => execMonConversionDue_of_due hperiod hstate hdue hs1 hs2

end Sys2Proof.Machine
end

section
/-! NMT commands (R430, R431), and O33; the network's watches and time-outs (R432, R434, R441, R442, log 48), and O34. -/
namespace Sys2Proof.Machine

section
variable {c k node t : Nat} {s : State}

/-! ### Frames heard and sent (R430) -/

/-- A frame on the active line of a controller that has joined the bus is counted and taken. -/
theorem State.canHeard_of_joined {f : State → State} (hline : activeLine s = some c) (hjoin : canJoined s c = true) :
    s.canHeard f = f (s.inc (O.MD_CAN_RX_FRAMES c)) := by
  simp only [State.canHeard, hline, hjoin, if_true]

theorem State.canHeard_of_none {f : State → State} (hnone : (activeLine s).any (fun c => canJoined s c) = false) :
    s.canHeard f = s := by
  unfold State.canHeard
  split
  next => rfl
  next c hline =>
    rw [hline, Option.any_some] at hnone
    simp only [hnone, Bool.false_eq_true, if_false]

theorem State.get_canSend {o : Obj} {id : Nat} {data : List Nat} (h : ∀ c, o ≠ O.MD_CAN_TX_FRAMES c) :
    (s.canSend id data).get o = s.get o := by
  unfold State.canSend
  split
  · rfl
  · exact State.forAll_proj (g := fun s => s.get o) fun s c => State.get_inc_ne (h c)

@[simp] theorem State.canSend_net (id : Nat) (data : List Nat) : (s.canSend id data).net = s.net := by
  unfold State.canSend
  split
  · rfl
  · exact State.forAll_proj (g := State.net) fun s c => State.inc_net s _

@[simp] theorem State.canSend_tpdoMap (id : Nat) (data : List Nat) : (s.canSend id data).tpdoMap = s.tpdoMap := by
  unfold State.canSend
  split
  · rfl
  · exact State.forAll_proj (g := State.tpdoMap) fun s c => State.inc_tpdoMap s _

theorem State.get_canHit_ne {o : Obj} {bit cls : Nat} (h : o ≠ O.MD_CAN_EVENTS c) (h1 : o.grp ≠ .ev) (h2 : o.grp ≠ .dm) :
    (s.canHit c bit cls).get o = s.get o := State.get_hit_ne h h1 h2

theorem State.get_canSync {o : Obj} (hstatus : ∀ c, o ≠ O.MD_CAN_STATUS c) (hevents : ∀ c, o ≠ O.MD_CAN_EVENTS c)
    (h1 : o.grp ≠ .ev) (h2 : o.grp ≠ .dm) : s.canSync.get o = s.get o := by
  simp only [State.canSync, apply_ite (State.get · o), State.get_canHit_ne (hevents _) h1 h2,
    State.get_set_ne (hstatus _), ite_self]

@[simp] theorem State.canSync_net : s.canSync.net = s.net := by
  simp only [State.canSync, State.canHit, apply_ite State.net, State.hit_net, State.set_net, ite_self]

@[simp] theorem State.canSync_tpdoMap : s.canSync.tpdoMap = s.tpdoMap := by
  simp only [State.canSync, State.canHit, apply_ite State.tpdoMap, State.hit_tpdoMap, State.set_tpdoMap, ite_self]

/-! ### Reset communication (R431) -/

/-- What the communication reset does before the node's controllers are taken over and its boot-up message leaves: the
communication objects and the process data. -/
def State.commDefaults (s : State) : State :=
  let id := s.get O.MD_NODE_ID
  let s := { s with
    objs := s.objs.filter (fun (p : Obj × Nat) => decide (p.1.grp ≠ Grp.com))
    net := { nodeId := id, classic := bitOf (s.get O.MD_NET_CONFIG) 0, emcy := s.net.emcy, emcyAt := s.net.emcyAt, hbSent := s.up, syncAt := s.up, offAt := s.net.offAt, offUp := s.net.offUp, joinAt := s.net.joinAt }
    tpdoMap := []
    tpdoReady := [] }
  let s := ((s.set (cobj 0x14 0) (0x80 + id)).set (cobj 0x200 1) (0x600 + id)).set (cobj 0x200 2) (0x580 + id)
  let s := s.forAll (List.range 4) (fun s p =>
    (s.set (cobj (0x400 + p) 1) (0x80000000 + 0x200 + 0x100 * p + id)).set (cobj (0x800 + p) 1) (0x80000000 + 0x180 + 0x100 * p + id))
  s.forAll (List.range 4) (fun s k => s.set (O.MD_USDO_CLIENT k) 0xFF)

theorem State.resetComm_eq :
    s.resetComm =
      (((s.commDefaults.set O.MD_USDO_USE 0).set O.MD_NMT_STATE nmtPre).canSync).canSend (0x700 + s.get O.MD_NODE_ID) [0] :=
  rfl

theorem State.commDefaults_nodeId : s.commDefaults.net.nodeId = s.get O.MD_NODE_ID := rfl
theorem State.commDefaults_classic : s.commDefaults.net.classic = bitOf (s.get O.MD_NET_CONFIG) 0 := rfl
theorem State.commDefaults_sess : s.commDefaults.net.sess = [] := rfl
theorem State.commDefaults_tpdoMap : s.commDefaults.tpdoMap = [] := rfl

@[simp] theorem State.resetComm_net : s.resetComm.net = s.commDefaults.net := by
  simp only [State.resetComm_eq, State.canSend_net, State.canSync_net, State.set_net]

@[simp] theorem State.resetComm_tpdoMap : s.resetComm.tpdoMap = [] := by
  simp only [State.resetComm_eq, State.canSend_tpdoMap, State.canSync_tpdoMap, State.set_tpdoMap, State.commDefaults_tpdoMap]

/-- The node is pre-operational and no session is in use. -/
theorem State.resetComm_nmt : s.resetComm.get O.MD_NMT_STATE = 127 := by
  rw [State.resetComm_eq, State.get_canSend (by simp), State.get_canSync (by simp) (by simp) (by decide) (by decide),
    State.get_set_self]
  rfl

theorem State.resetComm_usdoUse : s.resetComm.get O.MD_USDO_USE = 0 := by
  rw [State.resetComm_eq, State.get_canSend (by simp), State.get_canSync (by simp) (by simp) (by decide) (by decide),
    State.get_set_ne (by decide), State.get_set_self]
  rfl

/-! ### NMT commands (R431) -/

theorem nmtCmd_of_heard {f : State → State} (hline : activeLine (s.adv t) = some c) (hjoin : canJoined (s.adv t) c = true) :
    nmtCmd t s f = .next (f ((s.adv t).inc (O.MD_CAN_RX_FRAMES c))) :=
  congrArg _ (State.canHeard_of_joined hline hjoin)

/-- What a reset command leaves of the node: the pending identity applied, nothing in progress, pre-operational. -/
theorem nmtCmd_resetComm_node (hline : activeLine (s.adv t) = some c) (hjoin : canJoined (s.adv t) c = true) :
    ∃ s', nmtCmd t s State.resetComm = .next s' ∧ s'.get O.MD_NMT_STATE = 127 ∧ s'.get O.MD_USDO_USE = 0 ∧
      s'.net.nodeId = (s.adv t).get O.MD_NODE_ID ∧ s'.net.classic = bitOf ((s.adv t).get O.MD_NET_CONFIG) 0 ∧
      s'.net.sess = [] ∧ s'.tpdoMap = [] := by
  refine ⟨_, nmtCmd_of_heard hline hjoin, State.resetComm_nmt, State.resetComm_usdoUse, ?_, ?_, ?_, State.resetComm_tpdoMap⟩
  · rw [State.resetComm_net, State.commDefaults_nodeId, State.get_inc_ne (by simp)]
  · rw [State.resetComm_net, State.commDefaults_classic, State.get_inc_ne (by simp)]
  · rw [State.resetComm_net, State.commDefaults_sess]

/-! ### Heartbeats (R432) -/

theorem execHeartbeatProduce_of_due (hrun : nodeRuns (s.adv t) = true) (hline : activeLine (s.adv t) ≠ none)
    (hperiod : (s.adv t).get (cobj 0x17 0) ≠ 0)
    (hdue : (s.adv t).net.hbSent + (s.adv t).get (cobj 0x17 0) * fuMs ≤ (s.adv t).up) :
    execHeartbeatProduce t s =
      .next (((s.adv t).setNet { (s.adv t).net with hbSent := (s.adv t).up }).canSend (0x700 + (s.adv t).net.nodeId)
        [nmt (s.adv t)]) := by
  simp only [execHeartbeatProduce, hrun, hline, hperiod, Nat.not_lt.mpr hdue, Bool.not_true, Bool.false_eq_true, or_self,
    if_false]

theorem execHeartbeatLoss_of_late (hk : k < 4) (hrun : nodeRuns (s.adv t) = true)
    (hwatch : (s.adv t).net.hbRx.any (fun p => p.1 = k) = true) (hheld : (s.adv t).net.hbLost.contains k = false)
    (htime : (s.adv t).get (cobj 0x16 (k + 1)) % 65536 ≠ 0)
    (hlate : tget 0 (s.adv t).net.hbRx k + (s.adv t).get (cobj 0x16 (k + 1)) % 65536 * fuMs ≤ (s.adv t).up) :
    execHeartbeatLoss k t s = .next ((s.adv t).hbLoss k) := by
  simp only [execHeartbeatLoss, Nat.not_le.mpr hk, hrun, hwatch, hheld, htime, Nat.not_lt.mpr hlate, Bool.not_true,
    Bool.false_eq_true, or_self, if_false]

/-! ### Losses of SYNC, of an RPDO and of a session (R434, R441, R442) -/

theorem execSyncTimeout_of_late (htalk : nodeTalks (s.adv t) = true) (hperiod : (s.adv t).get (cobj 6 0) ≠ 0)
    (hheld : (s.adv t).net.syncLost = false)
    (hlate : 2 * (s.adv t).net.syncAt + 3 * (s.adv t).get (cobj 6 0) * fuUs ≤ 2 * (s.adv t).up) :
    execSyncTimeout t s = .next (s.adv t).syncLoss := by
  simp only [execSyncTimeout, htalk, hperiod, hheld, Nat.not_lt.mpr hlate, Bool.not_true, Bool.false_eq_true, or_self,
    if_false]

theorem execRpdoTimeout_of_late {p : Nat} (hp : p < 16) (hrun : nodeRuns (s.adv t) = true) (hop : nmt (s.adv t) = nmtOp)
    (hvalid : pdoValid (s.adv t) 0x400 p = true) (htype : 254 ≤ (s.adv t).get (cobj (0x400 + p) 2))
    (htime : (s.adv t).get (cobj (0x400 + p) 5) ≠ 0) (hseen : (s.adv t).net.rpdoAt.any (fun q => q.1 = p) = true)
    (hlate : tget 0 (s.adv t).net.rpdoAt p + (s.adv t).get (cobj (0x400 + p) 5) * fuMs ≤ (s.adv t).up) :
    execRpdoTimeout p t s = .next ((s.adv t).rpdoLate p) := by
  simp only [execRpdoTimeout, Nat.not_le.mpr hp, hrun, hop, hvalid, Nat.not_lt.mpr htype, htime, hseen,
    Nat.not_lt.mpr hlate, ne_eq, not_true_eq_false, Bool.not_true, Bool.false_eq_true, or_self, if_false]

theorem execUsdoTimeout_of_late {x : Sess} (hheld : (s.adv t).net.sess.any (fun p => p.1 = k) = true)
    (hrun : nodeRuns (s.adv t) = true) (hx : x = tget {} (s.adv t).net.sess k)
    (hlate : x.lastAt + (s.adv t).get O.MD_USDO_TIMEOUT * fuMs ≤ (s.adv t).up) :
    execUsdoTimeout k t s = .next ((s.adv t).sessTimeout k) := by
  subst hx
  simp only [execUsdoTimeout, hheld, hrun, Nat.not_lt.mpr hlate, Bool.not_true, Bool.false_eq_true, or_self, if_false]

end

/-- Settles O33: each command is heard on the active line, and a reset is `State.resetComm`. -/
theorem nmtCommandsAct : Obligations.NmtCommandsAct := by
  refine ⟨?start, ?stop, ?preOperational, ?resetNode, ?resetNodeIs, ?resetComm, ?resetCommIs, ?unheard⟩
  case start => exact fun t c s hline hjoin => nmtCmd_of_heard hline hjoin
  case stop => exact fun t c s hline hjoin => nmtCmd_of_heard hline hjoin
  case preOperational => exact fun t c s hline hjoin => nmtCmd_of_heard hline hjoin
  case resetNode => exact fun t c s hline hjoin => nmtCmd_of_heard hline hjoin
  case resetNodeIs => exact fun t c s hline hjoin => nmtCmd_resetComm_node hline hjoin
  case resetComm => exact fun t c s hline hjoin => nmtCmd_of_heard hline hjoin
  case resetCommIs => exact fun t c s hline hjoin => nmtCmd_resetComm_node hline hjoin
  case unheard => exact fun t s hnone => congrArg _ (State.canHeard_of_none hnone)

/-- Settles O34: each watch where its time has run. -/
theorem networkWatchesAct : Obligations.NetworkWatchesAct := by
  refine ⟨?produce, ?heard, ?loss, ?sync, ?rpdo, ?usdo⟩
  case produce => exact fun t s hrun hline hperiod hdue => execHeartbeatProduce_of_due hrun hline hperiod hdue
  case heard =>
    rintro node t c _ s hline hjoin rfl
    exact congrArg _ (State.canHeard_of_joined hline hjoin)
  case loss =>
    exact fun k t s hk hrun hwatch hheld htime hlate => execHeartbeatLoss_of_late hk hrun hwatch hheld htime hlate
  case sync => exact fun t s htalk hperiod hheld hlate => execSyncTimeout_of_late htalk hperiod hheld hlate
  case rpdo =>
    exact fun p t s hp hrun hop hvalid htype htime hseen hlate =>
      execRpdoTimeout_of_late hp hrun hop hvalid htype htime hseen hlate
  case usdo =>
    rintro k t _ s hheld hrun rfl hlate
    exact execUsdoTimeout_of_late hheld hrun rfl hlate

end Sys2Proof.Machine
end

section
/-! The CAN controllers, the shared balls and EMCY (R429, R430, R444 to R446, R546, log 55, 58), and O35 from their
commands. -/
namespace Sys2Proof.Machine

section
variable {c k t v : Nat} {s s1 : State}

/-! ### Error states (R429, R446) -/

theorem execCanBusOff_of_on {tec rec' : Nat} (hc : c < 2) (hon : canOn (s.adv t) c = true) :
    execCanBusOff c tec rec' t s =
      .next ((((s.adv t).set (O.MD_CAN_TEC c) tec).set (O.MD_CAN_REC c) rec').busOff c) := by
  simp only [execCanBusOff, Nat.not_le.mpr hc, hon, Bool.not_true, Bool.false_eq_true, or_self, if_false]

/-- The recovery sequence has run 1,408 nominal bit times after the entry to bus-off (log 55). -/
theorem execCanBusRecovered_of_due (hc : c < 2) (hrun : nodeRuns (s.adv t) = true)
    (hen : canCfg (s.adv t) c B.MD_CAN_CONFIG_ENABLE = true) (hoff : canOff (s.adv t) c = true)
    (hauto : canCfg (s.adv t) c B.MD_CAN_CONFIG_AUTO_RECOVER = true)
    (hfree : (s.adv t).bit (O.MD_CAN_STATUS c) B.MD_CAN_STATUS_LOCKED_OFF = false)
    (hdue : tget 0 (s.adv t).net.offUp c + 1408 * nomBit (s.adv t) c ≤ (s.adv t).up) :
    execCanBusRecovered c t s =
      .next ((((((s.adv t).setF (O.MD_CAN_STATUS c) B.MD_CAN_STATUS_ERROR_STATE 0).set (O.MD_CAN_TEC c) 0).set
        (O.MD_CAN_REC c) 0).canHit c B.MD_CAN_EVENTS_RECOVERED).canSync) := by
  simp only [execCanBusRecovered, Nat.not_le.mpr hc, hrun, hen, hoff, hauto, hfree, Nat.not_lt.mpr hdue, Bool.not_true,
    Bool.false_eq_true, or_self, if_false]

theorem execCanRxOverrun_of_on (hc : c < 2) (hon : canOn (s.adv t) c = true) :
    execCanRxOverrun c t s = .next ((s.adv t).rxOverrun c) := by
  simp only [execCanRxOverrun, Nat.not_le.mpr hc, hon, Bool.not_true, Bool.false_eq_true, or_self, if_false]

/-! ### MD_CAN_CONFIG (R430, R546) -/

theorem canOff_of_get {s s' : State} (h : s'.get (O.MD_CAN_STATUS c) = s.get (O.MD_CAN_STATUS c)) :
    canOff s' c = canOff s c :=
  congrArg (fun w => decide (fieldOf w B.MD_CAN_STATUS_ERROR_STATE = 2)) h

/-- A served word that keeps CAN0 enabled is stored, and moved rates take it off the bus for 11 nominal bit times. -/
theorem wrCanConfig_enable_can0 {new : Nat} {moved : Bool} (hfits : s.fits (O.MD_CAN_CONFIG 0) v = true)
    (hnew : new = s.merged (O.MD_CAN_CONFIG 0) v) (hen : bitOf new B.MD_CAN_CONFIG_ENABLE = true)
    (hmoved : moved = (canCfg s 0 B.MD_CAN_CONFIG_ENABLE &&
      decide ((fieldOf (s.get (O.MD_CAN_CONFIG 0)) B.MD_CAN_CONFIG_NOM_RATE,
        fieldOf (s.get (O.MD_CAN_CONFIG 0)) B.MD_CAN_CONFIG_DATA_RATE) ≠
        (fieldOf new B.MD_CAN_CONFIG_NOM_RATE, fieldOf new B.MD_CAN_CONFIG_DATA_RATE))))
    (hs1 : s1 = s.set (O.MD_CAN_CONFIG 0) new) (hoff : canOff s1 0 = false) :
    wrCanConfig 0 v s =
      .ok ((if moved then s1.setNet { s1.net with joinAt := tput s1.net.joinAt 0 (s1.up + 11 * nomBit s1 0) } else s1).canSync) := by
  have hon : ∀ (b : Bool) (x : Net), canOff (if b then s1.setNet x else s1) 0 = false := fun b _ => by
    cases b <;> exact hoff
  rw [wrCanConfig, checked_of_fits hfits, ← hnew]
  simp only [hen, ← hs1, hon, Nat.zero_ne_one, false_and, if_false, ne_eq, not_false_eq_true, true_or, if_true,
    Bool.not_true, Bool.false_eq_true, Bool.and_true, hmoved]

/-- Enabling CAN1 claims both shared balls where the event outlets own none. -/
theorem wrCanConfig_enable_can1 (hfits : s.fits (O.MD_CAN_CONFIG 1) v = true)
    (hen : bitOf (s.merged (O.MD_CAN_CONFIG 1) v) B.MD_CAN_CONFIG_ENABLE = true)
    (hwas : canCfg s 1 B.MD_CAN_CONFIG_ENABLE = false) (hoff : canOff s 1 = false)
    (h0 : s.fld O.MD_PIN_OWNER B.MD_PIN_OWNER_MX0 ≠ 2) (h1 : s.fld O.MD_PIN_OWNER B.MD_PIN_OWNER_MX1 ≠ 2) :
    wrCanConfig 1 v s =
      .ok (((s.set (O.MD_CAN_CONFIG 1) (s.merged (O.MD_CAN_CONFIG 1) v)).set O.MD_PIN_OWNER 5).canSync) := by
  have hoff' : canOff ((s.set (O.MD_CAN_CONFIG 1) (s.merged (O.MD_CAN_CONFIG 1) v)).set O.MD_PIN_OWNER 5) 1 = false :=
    (canOff_of_get ((State.get_set_ne (by decide)).trans (State.get_set_ne (by decide)))).trans hoff
  rw [wrCanConfig, checked_of_fits hfits]
  simp [hen, hwas, h0, h1, hoff']

theorem wrCanConfig_conflict (hfits : s.fits (O.MD_CAN_CONFIG 1) v = true)
    (hen : bitOf (s.merged (O.MD_CAN_CONFIG 1) v) B.MD_CAN_CONFIG_ENABLE = true)
    (hwas : canCfg s 1 B.MD_CAN_CONFIG_ENABLE = false)
    (howned : s.fld O.MD_PIN_OWNER B.MD_PIN_OWNER_MX0 = 2 ∨ s.fld O.MD_PIN_OWNER B.MD_PIN_OWNER_MX1 = 2) :
    wrCanConfig 1 v s = s.pinConflict := by
  rw [wrCanConfig, checked_of_fits hfits]
  simp only [hen, hwas, howned, Bool.not_false, decide_true, and_self, if_true]

/-! ### EV_IRQ_VEC (R546) -/

/-- The field of MD_PIN_OWNER of the ball that word `k` may claim, and whether the pair's words then claim it. -/
def irqBall (k : Nat) : Fld := if k / 2 = 2 then B.MD_PIN_OWNER_MX0 else B.MD_PIN_OWNER_MX1
def irqClaims (s : State) (k v : Nat) : Bool :=
  decide (trunc 32 v ≠ 0 ∨ s.get (O.EV_IRQ_VEC (if k % 2 = 0 then k + 1 else k - 1)) ≠ 0)

theorem execIrqVecWrite_of_lt {p : Path} (hk : k < 8) :
    execIrqVecWrite p k v s = access p (O.EV_IRQ_VEC k) s (wrIrqVec k v) := if_pos hk

theorem wrIrqVec_of_ownBall (hk : k < 4) : wrIrqVec k v s = .ok (s.set (O.EV_IRQ_VEC k) v) :=
  if_pos (show k / 2 < 2 by omega)

theorem wrIrqVec_of_free (hk : 4 ≤ k) (hfree : irqClaims s k v = false ∨ s.fld O.MD_PIN_OWNER (irqBall k) ≠ 1)
    (hs1 : s1 = s.set (O.EV_IRQ_VEC k) v) :
    wrIrqVec k v s =
      .ok (if s1.fld O.MD_PIN_OWNER (irqBall k) = 1 then s1
        else s1.setF O.MD_PIN_OWNER (irqBall k) (if irqClaims s k v then 2 else 0)) := by
  have hnone : ¬(irqClaims s k v = true ∧ s.fld O.MD_PIN_OWNER (irqBall k) = 1) := by
    rintro ⟨hc, ho⟩
    exact hfree.elim (fun h => absurd (h.symm.trans hc) (by decide)) (· ho)
  subst hs1
  exact (if_neg (show ¬ k / 2 < 2 by omega)).trans (if_neg hnone)

theorem wrIrqVec_of_owned (hk : 4 ≤ k) (hclaim : irqClaims s k v = true)
    (howned : s.fld O.MD_PIN_OWNER (irqBall k) = 1) : wrIrqVec k v s = s.pinConflict :=
  (if_neg (show ¬ k / 2 < 2 by omega)).trans (if_pos ⟨hclaim, howned⟩)

/-! ### EMCY (R444, R445) -/

theorem execEmcySend_of_due {x : Emcy} {rest : List Emcy} (hnext : (s.adv t).net.emcy = x :: rest)
    (hdue : (s.adv t).net.emcyAt.all (fun a => decide (a + (s.adv t).get (cobj 0x15 0) * 100 * fuUs ≤ (s.adv t).up)) = true)
    (htalk : nodeTalks (s.adv t) = true) (hline : activeLine (s.adv t) ≠ none)
    (hvalid : bitOf ((s.adv t).get (cobj 0x14 0)) 31 = false) :
    execEmcySend t s =
      .next (((s.adv t).setNet { (s.adv t).net with emcy := rest, emcyAt := some (s.adv t).up }).canSend
        ((s.adv t).get (cobj 0x14 0)) (emcyBytes x)) := by
  cases hat : (s.adv t).net.emcyAt with
  | none => simp [execEmcySend, hnext, hat, htalk, hline, hvalid]
  | some a =>
    have hpassed : ¬ (s.adv t).up < a + (s.adv t).get (cobj 0x15 0) * 100 * fuUs := by
      rw [hat] at hdue
      exact Nat.not_lt.mpr (of_decide_eq_true hdue)
    simp [execEmcySend, hnext, hat, htalk, hline, hvalid, hpassed]

theorem wrErrHistory_of_clear
    (hs1 : s1 = (s.forAll (List.range 17) (fun x k => x.set (cobj 3 k) 0)).set (cobj 1 0) 0) :
    wrErrHistory 0 s =
      .ok (if nodeTalks s1 ∧ s1.net.emcy.length < 16 then s1.setNet { s1.net with emcy := s1.net.emcy ++ [({} : Emcy)] } else s1) := by
  subst hs1
  rfl

end

/-- Settles O35: the commands of the controllers by their guards, the writes by what they claim. -/
theorem canAndEmcyAct : Obligations.CanAndEmcyAct := by
  refine ⟨?busOff, ?recovered, ?overrun, ?enable0, ?enable1, ?conflict1, ?ownVec, ?freeVec, ?ownedVec, ?emcy, ?history⟩
  case busOff => exact fun c tec rec' t s hc hon => execCanBusOff_of_on hc hon
  case recovered =>
    exact fun c t s hc hrun hen hoff hauto hfree hdue => execCanBusRecovered_of_due hc hrun hen hoff hauto hfree hdue
  case overrun => exact fun c t s hc hon => execCanRxOverrun_of_on hc hon
  case enable0 =>
    exact fun p v new mv s1 s hserve hfits hnew hen _ hmv hs1 hoff =>
      access_of_ok hserve (wrCanConfig_enable_can0 hfits hnew hen hmv hs1 hoff)
  case enable1 =>
    exact fun p v s hserve hfits hen hwas hoff h0 h1 =>
      access_of_ok hserve (wrCanConfig_enable_can1 hfits hen hwas hoff h0 h1)
  case conflict1 =>
    exact fun p v s hserve hfits hen hwas howned => access_of_no hserve (wrCanConfig_conflict hfits hen hwas howned)
  case ownVec =>
    exact fun p k v s hk hserve =>
      (execIrqVecWrite_of_lt (by omega)).trans (access_of_ok hserve (wrIrqVec_of_ownBall hk))
  case freeVec =>
    rintro p k v _ _ s1 s hlo hhi hserve rfl rfl hfree hs1
    exact (execIrqVecWrite_of_lt hhi).trans (access_of_ok hserve (wrIrqVec_of_free hlo hfree hs1))
  case ownedVec =>
    rintro p k v _ _ s hlo hhi hserve rfl rfl hclaim howned
    exact (execIrqVecWrite_of_lt hhi).trans (access_of_no hserve (wrIrqVec_of_owned hlo hclaim howned))
  case emcy => exact fun t x rest s hnext hdue htalk hline hvalid => execEmcySend_of_due hnext hdue htalk hline hvalid
  case history => exact fun p s1 s hserve hs1 => access_of_ok hserve (wrErrHistory_of_clear hs1)

end Sys2Proof.Machine
end

section
/-! PDOs, SYNC and TIME (R439 to R443, log 54), and O36 from their commands. -/
namespace Sys2Proof.Machine

section
variable {c p t : Nat} {s s0 s1 : State}

/-! ### RPDOs (R441) -/

section
variable {bytes : List Byte}

theorem execRpdoRx_of_heard (hline : activeLine (s.adv t) = some c) (hjoin : canJoined (s.adv t) c = true)
    (hs0 : s0 = (s.adv t).inc (O.MD_CAN_RX_FRAMES c)) (hp : p < 16) (hop : nodeOperates s0 = true)
    (hvalid : pdoValid s0 0x400 p = true) : execRpdoRx p bytes t s = .next (s0.rpdoTake p bytes) := by
  simp only [execRpdoRx, State.canHeard_of_joined hline hjoin, ← hs0, hp, hop, hvalid, decide_true, Bool.and_self,
    if_true]

theorem State.rpdoTake_of_short (hshort : bytes.length < mapBytes (pdoMap s 0x600 p)) :
    s.rpdoTake p bytes = s.hit O.MD_DICT_EVENTS B.MD_DICT_EVENTS_RPDO_LENGTH 565 := if_pos hshort

theorem State.rpdoTake_of_sync (hlen : mapBytes (pdoMap s 0x600 p) ≤ bytes.length)
    (htype : s.get (cobj (0x400 + p) 2) ≤ 240) :
    s.rpdoTake p bytes = s.setNet { s.net with rpdoWait := tput s.net.rpdoWait p bytes } :=
  (if_neg (Nat.not_lt.mpr hlen)).trans (if_pos htype)

theorem State.rpdoTake_of_event (hlen : mapBytes (pdoMap s 0x600 p) ≤ bytes.length)
    (htype : 240 < s.get (cobj (0x400 + p) 2)) :
    s.rpdoTake p bytes =
      pdoWrite (pdoMap s 0x600 p) bytes (s.setNet { s.net with rpdoAt := tput s.net.rpdoAt p s.up }) :=
  (if_neg (Nat.not_lt.mpr hlen)).trans (if_neg (Nat.not_le.mpr htype))

end

/-! ### TPDOs (R439, R440) -/

theorem State.tpdoSend_of_notReady {full : Bool} (hidle : tpdoDueNow s p = false) : s.tpdoSend p full = s := by
  simp only [State.tpdoSend, hidle, Bool.not_false, if_true]

theorem State.tpdoSend_of_room (hready : tpdoDueNow s p = true) (hs1 : s1 = s.tpdoSpent p) :
    s.tpdoSend p false =
      (s1.setNet { s1.net with tpdoAt := tput s1.net.tpdoAt p s1.up }).canSend (s1.get (cobj (0x800 + p) 1))
        ((tpdoBytes s p).map (fun (b : Byte) => b.toNat)) := by
  simp only [State.tpdoSend, hready, hs1, Bool.not_true, Bool.false_eq_true, if_false]
  rfl

theorem canOn_tpdoSpent : canOn (s.tpdoSpent p) c = canOn s c := rfl

theorem State.tpdoSend_of_full (hready : tpdoDueNow s p = true) (hs1 : s1 = s.tpdoSpent p) :
    s.tpdoSend p true =
      s1.forAll ((List.range 2).filter (fun c => canOn s1 c))
        (fun s c => (s.inc (O.MD_CAN_TX_DROPPED c)).canHit c B.MD_CAN_EVENTS_TX_DROPPED) := by
  simp only [State.tpdoSend, hready, hs1, canOn_tpdoSpent, Bool.not_true, Bool.false_eq_true, if_false, if_true]

theorem execTpdoEventTimer_of_expired {full : Bool} (hexp : tpdoExpired (s.adv t) p = true) :
    execTpdoEventTimer p full t s = .next (((s.adv t).tpdoMark p).tpdoSend p full) := if_pos hexp

/-! ### SYNC and TIME (R442, R443) -/

theorem execSyncRx_of_heard {counter : Nat} (hline : activeLine (s.adv t) = some c)
    (hjoin : canJoined (s.adv t) c = true) (hs0 : s0 = (s.adv t).inc (O.MD_CAN_RX_FRAMES c))
    (htalk : nodeTalks s0 = true) :
    execSyncRx counter t s = .next (if nodeOperates s0 then s0.syncLatch.syncPdos counter else s0.syncLatch) := by
  simp only [execSyncRx, State.canHeard_of_joined hline hjoin, ← hs0, htalk, Bool.not_true, Bool.false_eq_true, if_false]

theorem execTimeRx_of_consumed {ms days : Nat} (hline : activeLine (s.adv t) = some c)
    (hjoin : canJoined (s.adv t) c = true) (hs0 : s0 = (s.adv t).inc (O.MD_CAN_RX_FRAMES c))
    (htalk : nodeTalks s0 = true) (hconsume : bitOf (s0.get (cobj 0x12 0)) 31 = true) (hms : ms < 2 ^ 28)
    (hdays : days < 2 ^ 16) :
    execTimeRx ms days t s =
      .next ((((s0.set O.MD_TIME_MS ms).set O.MD_TIME_DAYS days).set O.MD_TIME_AT s0.pt).timeRtc ms days) := by
  simp only [execTimeRx, State.canHeard_of_joined hline hjoin, ← hs0, htalk, hconsume, Bool.not_true, Bool.false_eq_true,
    or_self, if_false, trunc, Nat.mod_eq_of_lt hms, Nat.mod_eq_of_lt hdays]

end

/-- Settles O36: what a frame heard brings to a node in its state, and what a TPDO that is ready sends. -/
theorem pdosAct : Obligations.PdosAct := by
  refine ⟨?rpdoEvent, ?rpdoSync, ?rpdoShort, ?tpdoSent, ?tpdoDropped, ?tpdoIdle, ?tpdoTimer, ?sync, ?time⟩
  case rpdoEvent =>
    exact fun p bytes t c s0 s hline hjoin hs0 hp hop hvalid hlen htype =>
      (execRpdoRx_of_heard hline hjoin hs0 hp hop hvalid).trans (congrArg _ (State.rpdoTake_of_event hlen htype))
  case rpdoSync =>
    exact fun p bytes t c s0 s hline hjoin hs0 hp hop hvalid hlen htype =>
      (execRpdoRx_of_heard hline hjoin hs0 hp hop hvalid).trans (congrArg _ (State.rpdoTake_of_sync hlen htype))
  case rpdoShort =>
    exact fun p bytes t c s0 s hline hjoin hs0 hp hop hvalid hshort =>
      (execRpdoRx_of_heard hline hjoin hs0 hp hop hvalid).trans (congrArg _ (State.rpdoTake_of_short hshort))
  case tpdoSent => exact fun p t s1 s hready hs1 => congrArg _ (State.tpdoSend_of_room hready hs1)
  case tpdoDropped => exact fun p t s1 s hready hs1 => congrArg _ (State.tpdoSend_of_full hready hs1)
  case tpdoIdle => exact fun p full t s hidle => congrArg _ (State.tpdoSend_of_notReady hidle)
  case tpdoTimer => exact fun p full t s hexp => execTpdoEventTimer_of_expired hexp
  case sync =>
    rintro counter t c s0 _ s hline hjoin hs0 htalk rfl
    exact execSyncRx_of_heard hline hjoin hs0 htalk
  case time =>
    exact fun ms days t c s0 s hline hjoin hs0 htalk hconsume hms hdays =>
      execTimeRx_of_consumed hline hjoin hs0 htalk hconsume hms hdays

end Sys2Proof.Machine
end

section
/-! USDO transfers (R433 to R435, log 49 to 51), and O37 from their commands. -/
namespace Sys2Proof.Machine

section
variable {client t c k index sub : Nat} {s s0 s1 : State} {x : Sess}

/-! ### Frames and sessions (R433, R434) -/

/-- A USDO frame of client `client` is heard on the active line by a node that serves it, and leaves `s0` counted. -/
structure UsdoHeard (s : State) (t client c : Nat) (s0 : State) : Prop where
  line : activeLine (s.adv t) = some c
  joined : canJoined (s.adv t) c = true
  counted : s0 = (s.adv t).inc (O.MD_CAN_RX_FRAMES c)
  talks : nodeTalks s0 = true
  known : clientOk s0 client = true

theorem usdoFrame_of_heard (h : UsdoHeard s t client c s0) (f : State → State) : usdoFrame client t s f = .next (f s0) := by
  simp only [usdoFrame, State.canHeard_of_joined h.line h.joined, ← h.counted, h.talks, h.known, Bool.and_self, if_true]

/-- A client without a session takes a free one. -/
theorem State.usdoOpen_of_free {f : Nat → State → State} (hnone : sessOf s x.client = none) (hfree : freeSess s = some k) :
    s.usdoOpen x f = f k (s.sessOpen k x) := by
  simp only [State.usdoOpen, hnone, hfree, Option.orElse_eq_or, Option.none_or]

/-- With every session held a client without one is refused. -/
theorem State.usdoOpen_of_held {f : Nat → State → State} (hnone : sessOf s x.client = none) (hheld : freeSess s = none) :
    s.usdoOpen x f = s.usdoRefuse x := by
  simp only [State.usdoOpen, hnone, hheld, Option.orElse_eq_or, Option.none_or]

theorem usdoRequest_of_served {f : State → State} : usdoRequest 0 x f s = f s := if_pos rfl

/-! ### Transfers that begin (R433, R435) -/

section
variable (hheard : UsdoHeard s t client c s0)
include hheard

section
variable {sized last : Bool} {size : Nat} {data : List Byte}
  (hx : x = { client := clientCode s0 client, index := index, sub := sub, sized := sized, size := size, lastAt := s0.up })
include hx

theorem execUsdoDownloadInit_of_heard :
    execUsdoDownloadInit client 0 index sub sized size data last t s =
      .next (s0.usdoOpen x (fun k s => match downloadStart s x with
        | some e => s.sessAbort k e
        | none => usdoTake k data last s)) := by
  subst hx
  exact (usdoFrame_of_heard hheard _).trans (congrArg _ usdoRequest_of_served)

theorem execUsdoDownloadInit_of_legal (hnone : sessOf s0 x.client = none) (hfree : freeSess s0 = some k)
    (hstart : downloadStart (s0.sessOpen k x) x = none) :
    execUsdoDownloadInit client 0 index sub sized size data last t s =
      .next (usdoTake k data last (s0.sessOpen k x)) := by
  rw [execUsdoDownloadInit_of_heard hheard hx, State.usdoOpen_of_free hnone hfree, hstart]

theorem execUsdoDownloadInit_of_illegal {e : Nat} (hnone : sessOf s0 x.client = none) (hfree : freeSess s0 = some k)
    (hstart : downloadStart (s0.sessOpen k x) x = some e) :
    execUsdoDownloadInit client 0 index sub sized size data last t s = .next ((s0.sessOpen k x).sessAbort k e) := by
  rw [execUsdoDownloadInit_of_heard hheard hx, State.usdoOpen_of_free hnone hfree, hstart]

theorem execUsdoDownloadInit_of_held (hnone : sessOf s0 x.client = none) (hheld : freeSess s0 = none) :
    execUsdoDownloadInit client 0 index sub sized size data last t s = .next (s0.usdoRefuse x) := by
  rw [execUsdoDownloadInit_of_heard hheard hx, State.usdoOpen_of_held hnone hheld]

end

section
variable {memErr : Bool} (hx : x = { client := clientCode s0 client, index := index, sub := sub, upload := true, lastAt := s0.up })
  (hnone : sessOf s0 x.client = none) (hfree : freeSess s0 = some k) (hs1 : s1 = s0.sessOpen k x)
include hx hnone hfree hs1

/-- An object that can be read goes out at once where it fits one frame, and else its size. -/
theorem execUsdoUploadInit_of_readable {b : List Byte} {s2 s3 : State} (hread : netRead s1 index sub = .ok b)
    (hs2 : s2 = if index = 0x2900 ∧ sub = 0x63 then s1.set O.BK_RTC_SUB s1.bk.rtcSub else s1)
    (hs3 : s3 = s2.setSess k { x with sized := true, size := b.length, data := if domCap index ≠ 0 then [] else b }) :
    execUsdoUploadInit client 0 index sub memErr t s =
      .next (if b.length ≤ usdoRoom s3 true then usdoGive k memErr b.length s3
        else s3.usdoSend "usdo upload size" [x.client, index, sub, b.length]) := by
  subst hx
  simp only [execUsdoUploadInit, usdoFrame_of_heard hheard, usdoRequest_of_served, State.usdoOpen_of_free hnone hfree,
    ← hs1, hread, ← hs2, ← hs3]

theorem execUsdoUploadInit_of_unreadable {e : Nat} (hread : netRead s1 index sub = .error e) :
    execUsdoUploadInit client 0 index sub memErr t s = .next (s1.sessAbort k e) := by
  subst hx
  simp only [execUsdoUploadInit, usdoFrame_of_heard hheard, usdoRequest_of_served, State.usdoOpen_of_free hnone hfree,
    ← hs1, hread]

end

end

/-! ### Further frames of a transfer (R434, R436) -/

section
variable {upload toggle : Bool} {f : Nat → State → State}

theorem usdoNext_of_none (hnone : sessOf s (clientCode s client) = none) :
    usdoNext upload client toggle s f = s.usdoAbort (clientCode s client) 0 0 abCommand := by
  simp only [usdoNext, hnone]

variable (hsess : sessOf s (clientCode s client) = some k) (hx : x = tget {} s.net.sess k)
include hsess hx

theorem usdoNext_of_inStep (hdir : x.upload = upload) (htoggle : s.net.classic = false ∨ x.toggle = toggle) :
    usdoNext upload client toggle s f = f k (s.setSess k { x with toggle := !x.toggle, lastAt := s.up }) := by
  have hstep : ¬(s.net.classic = true ∧ x.toggle ≠ toggle) := by
    rintro ⟨hclassic, hne⟩
    exact htoggle.elim (fun h => absurd (h.symm.trans hclassic) (by decide)) hne
  simp only [usdoNext, hsess, ← hx, hdir, ne_eq, not_true_eq_false, if_false, if_neg hstep]

theorem usdoNext_of_otherDirection (hdir : x.upload ≠ upload) :
    usdoNext upload client toggle s f = s.sessAbort k abCommand := by
  simp only [usdoNext, hsess, ← hx, if_pos hdir]

theorem usdoNext_of_outOfStep (hdir : x.upload = upload) (hclassic : s.net.classic = true) (hne : x.toggle ≠ toggle) :
    usdoNext upload client toggle s f = s.sessAbort k abToggle := by
  simp only [usdoNext, hsess, ← hx, hdir, ne_eq, not_true_eq_false, if_false,
    if_pos (show s.net.classic = true ∧ x.toggle ≠ toggle from ⟨hclassic, hne⟩)]

end

end

/-- Settles O37: each frame is heard, and what its session and its direction make of it. -/
theorem usdoTransfersAct : Obligations.UsdoTransfersAct := by
  refine ⟨?download, ?downloadIllegal, ?downloadHeld, ?upload, ?uploadIllegal, ?downNext, ?downOther, ?downToggle,
    ?downNone, ?upNext, ?upOther, ?upToggle, ?upNone⟩
  case download =>
    exact fun client index sub sized size data last t c k x s0 s hl hj hs0 ht hc hx hnone hfree hstart =>
      execUsdoDownloadInit_of_legal ⟨hl, hj, hs0, ht, hc⟩ hx hnone hfree hstart
  case downloadIllegal =>
    exact fun client index sub sized size data last t c k x s0 e s hl hj hs0 ht hc hx hnone hfree hstart =>
      execUsdoDownloadInit_of_illegal ⟨hl, hj, hs0, ht, hc⟩ hx hnone hfree hstart
  case downloadHeld =>
    exact fun client index sub sized size data last t c x s0 s hl hj hs0 ht hc hx hnone hheld =>
      execUsdoDownloadInit_of_held ⟨hl, hj, hs0, ht, hc⟩ hx hnone hheld
  case upload =>
    intro client index sub memErr t c k x s0 s1 b s2 s3 s hl hj hs0 ht hc hx hnone hfree hs1 hread hs2 hs3
    cases hres : netRead s1 index sub with
    | error e =>
      rw [hres] at hread
      cases hread
    | ok b' =>
      rw [hres] at hread
      cases hread
      exact execUsdoUploadInit_of_readable ⟨hl, hj, hs0, ht, hc⟩ hx hnone hfree hs1 hres hs2 hs3
  case uploadIllegal =>
    exact fun client index sub memErr t c k x s0 s1 e s hl hj hs0 ht hc hx hnone hfree hs1 hread =>
      execUsdoUploadInit_of_unreadable ⟨hl, hj, hs0, ht, hc⟩ hx hnone hfree hs1 hread
  case downNext =>
    rintro client toggle data last t c k x s0 _ s hl hj hs0 ht hc hsess hx hdir htoggle rfl
    exact (usdoFrame_of_heard ⟨hl, hj, hs0, ht, hc⟩ _).trans (congrArg _ (usdoNext_of_inStep hsess hx hdir htoggle))
  case downOther =>
    exact fun client toggle data last t c k x s0 s hl hj hs0 ht hc hsess hx hdir =>
      (usdoFrame_of_heard ⟨hl, hj, hs0, ht, hc⟩ _).trans (congrArg _ (usdoNext_of_otherDirection hsess hx hdir))
  case downToggle =>
    exact fun client toggle data last t c k x s0 s hl hj hs0 ht hc hsess hx hdir hclassic hne =>
      (usdoFrame_of_heard ⟨hl, hj, hs0, ht, hc⟩ _).trans (congrArg _ (usdoNext_of_outOfStep hsess hx hdir hclassic hne))
  case downNone =>
    exact fun client toggle data last t c s0 s hl hj hs0 ht hc hnone =>
      (usdoFrame_of_heard ⟨hl, hj, hs0, ht, hc⟩ _).trans (congrArg _ (usdoNext_of_none hnone))
  case upNext =>
    rintro client toggle memErr t c k x s0 _ s hl hj hs0 ht hc hsess hx hdir htoggle rfl
    exact (usdoFrame_of_heard ⟨hl, hj, hs0, ht, hc⟩ _).trans (congrArg _ (usdoNext_of_inStep hsess hx hdir htoggle))
  case upOther =>
    exact fun client toggle memErr t c k x s0 s hl hj hs0 ht hc hsess hx hdir =>
      (usdoFrame_of_heard ⟨hl, hj, hs0, ht, hc⟩ _).trans (congrArg _ (usdoNext_of_otherDirection hsess hx hdir))
  case upToggle =>
    exact fun client toggle memErr t c k x s0 s hl hj hs0 ht hc hsess hx hdir hclassic hne =>
      (usdoFrame_of_heard ⟨hl, hj, hs0, ht, hc⟩ _).trans (congrArg _ (usdoNext_of_outOfStep hsess hx hdir hclassic hne))
  case upNone =>
    exact fun client toggle memErr t c s0 s hl hj hs0 ht hc hnone =>
      (usdoFrame_of_heard ⟨hl, hj, hs0, ht, hc⟩ _).trans (congrArg _ (usdoNext_of_none hnone))

end Sys2Proof.Machine
end

section
/-! The event router and its outlets (R453, R455, R456, R458, R472, log 60, 94), and O38 from their commands. -/
namespace Sys2Proof.Machine

section
variable {t v : Nat} {s s1 s2 s3 : State}

/-! ### The router (R453, R458) -/

/-- The occurrence taken leaves the buffer, and BUF_FILL with it, and goes to its outlets. -/
theorem execEventRoute_of_next {x : Occ} (hnext : nextOcc (s.adv t).evs.buf = some x)
    (hs1 : s1 = ((s.adv t).setEvs { (s.adv t).evs with buf := (s.adv t).evs.buf.erase x }).setF O.EV_STATUS
      B.EV_STATUS_BUF_FILL ((s.adv t).evs.buf.erase x).length) :
    execEventRoute t s = .next (s1.routeOcc x) := by
  simp only [execEventRoute, hnext, ← hs1]

theorem State.routeOcc_of {x : Occ}
    (hs2 : s2 = if evEnabled s x.ev then
      (s.queuePut x).setEvs { (s.queuePut x).evs with due := setIns (s.queuePut x).evs.due (routeOf s x.ev % 64) } else s)
    (hs3 : s3 = if bitOf (routeOf s x.ev) 6 then s2.emcyPut x else s2) :
    s.routeOcc x = if bitOf (routeOf s x.ev) 7 then s3.faultCell x else s3 := by
  simp only [State.routeOcc, ← hs2, ← hs3]

/-! ### MSI-X (R455) -/

/-- With the link up the accesses to BAR4 are made, and the lowest vector that may send does. -/
theorem execMsixSend_of_linkUp {ws : List (Nat × Nat)} {rs : List Nat} {on : Bool} (hup : (s.adv t).evs.linkUp = true)
    (hs1 : s1 = ws.foldl (fun s w => s.bar4Write w.1 w.2) ((s.adv t).setEvs { (s.adv t).evs with msixOn := on }))
    (hs2 : s2 = rs.foldl (fun s a => s.emit (.read .host (bar4Read s a))) s1) :
    execMsixSend ⟨ws, rs⟩ on t s =
      .next (((s2.evs.due.find? (fun v => mayMsix s2 v)).map s2.msixOut).getD s2) := by
  have hsend (o : Option Nat) : (match o with | none => .next s2 | some v => .next (s2.msixOut v)) =
      (Host.Outcome.next ((o.map s2.msixOut).getD s2) : Host.Outcome State Fault Refusal) := by
    cases o <;> rfl
  have hreach : ¬((!(s.adv t).evs.linkUp) = true) := by
    rw [hup]
    decide
  subst hs1 hs2
  exact (if_neg hreach).trans (hsend _)

/-! ### EV_CONTROL (R456) -/

section
variable (hfits : s.fits O.EV_CONTROL v = true) (hs1 : s1 = s.set O.EV_CONTROL (s.merged O.EV_CONTROL v))
include hfits hs1

/-- A write that sets Q_EN starts the queue anew. -/
theorem wrEvControl_of_start (hon : qOn s1 = true) (hoff : qOn s = false) :
    wrEvControl v s =
      .ok (((s1.setEvs { s1.evs with phase := true }).set O.EV_Q_TAIL 0).set O.EV_Q_HEAD 0).qSync := by
  rw [wrEvControl, checked_of_fits hfits]
  simp only [← hs1, hon, hoff, Bool.not_false, and_self, if_true]

theorem wrEvControl_of_other (hother : qOn s1 = false ∨ qOn s = true) : wrEvControl v s = .ok s1.qSync := by
  have hstart : ¬(qOn s1 = true ∧ (!qOn s) = true) := by
    rintro ⟨hon, hoff⟩
    obtain h | h := hother
    · exact absurd (h.symm.trans hon) (by decide)
    · rw [h] at hoff
      exact absurd hoff (by decide)
  rw [wrEvControl, checked_of_fits hfits]
  simp only [← hs1]
  exact congrArg WRes.ok (if_neg hstart)

end

end

/-- Settles O38: the router by the occurrence that it takes, the outlets by their commands. -/
theorem eventOutletsAct : Obligations.EventOutletsAct := by
  refine ⟨?route, ?msix, ?queueStart, ?control, fun _ _ => rfl, ?linkUp⟩
  case route =>
    exact fun t x s1 s2 s3 s hnext hs1 hs2 hs3 =>
      (execEventRoute_of_next hnext hs1).trans (congrArg _ (State.routeOcc_of hs2 hs3))
  case msix =>
    intro ws rs on t s1 s2 s hup hs1 hs2
    refine (execMsixSend_of_linkUp hup hs1 hs2).trans ?_
    cases s2.evs.due.find? (fun v => mayMsix s2 v) <;> rfl
  case queueStart =>
    exact fun p v s1 s hserve hfits hs1 hon hoff => access_of_ok hserve (wrEvControl_of_start hfits hs1 hon hoff)
  case control =>
    exact fun p v s1 s hserve hfits hs1 hother => access_of_ok hserve (wrEvControl_of_other hfits hs1 hother)
  case linkUp =>
    rintro t _ _ s rfl rfl
    rfl

end Sys2Proof.Machine
end

section
/-! The DMA channels (R459 to R466, log 61, 64 to 66, 95), and O39 from their commands. -/
namespace Sys2Proof.Machine

section
variable {c n code t : Nat} {s s1 : State} {p : Path}

/-! ### DM_CH_CMD (Table 17.6) -/

theorem dmCmd_of_channel {v : Nat} (hc : c < 32) : dmCmd p c v s = access p (O.DM_CH_CMD c) s (wrDmCmd c v) := if_pos hc

/-- An idle channel that does not link to itself starts unless another claims its trigger (R462). -/
theorem dmStart_of_idle (hidle : dmState s c = 0) (hlink : dmLinks s c = false ∨ dmLink s c ≠ c) :
    dmStart c s =
      if dmClaimed s c then .no (s.conflict (O.DM_CH_STATUS c) B.DM_CH_STATUS_RESOURCE) abLocal
      else
        let s1 := s.set (O.DM_CH_STATUS c) (s.get (O.DM_CH_STATUS c) / 128 % 512 * 128)
        .ok ((s1.setDmaCh c { at' := s1.get (O.DM_CH_DESC c) }).dmTo c dmLoading) := by
  have hmay : (decide (dmState s c = dmIdle) && !(dmLinks s c && decide (dmLink s c = c))) = true := by
    obtain h | h := hlink <;> simp [hidle, dmIdle, h]
  exact need_of hmay

theorem wrDmCmd_start_of_free (hidle : dmState s c = 0) (hlink : dmLinks s c = false ∨ dmLink s c ≠ c)
    (hfree : dmClaimed s c = false)
    (hs1 : s1 = s.set (O.DM_CH_STATUS c) (s.get (O.DM_CH_STATUS c) / 128 % 512 * 128)) :
    wrDmCmd c 1 s = .ok ((s1.setDmaCh c { at' := s1.get (O.DM_CH_DESC c) }).dmTo c 1) := by
  subst hs1
  exact (dmStart_of_idle hidle hlink).trans (if_neg (by rw [hfree]; decide))

theorem wrDmCmd_start_of_claimed (hidle : dmState s c = 0) (hlink : dmLinks s c = false ∨ dmLink s c ≠ c)
    (hclaim : dmClaimed s c = true) :
    wrDmCmd c 1 s = .no (s.conflict (O.DM_CH_STATUS c) B.DM_CH_STATUS_RESOURCE) abLocal :=
  (dmStart_of_idle hidle hlink).trans (if_pos hclaim)

theorem wrDmCmd_stop_of_active (hactive : dmState s c ≠ 0) : wrDmCmd c 2 s = .ok ((s.setDmaCh c {}).dmTo c 0) :=
  congrArg WRes.ok (if_neg hactive)

theorem wrDmCmd_stop_of_idle (hidle : dmState s c = 0) : wrDmCmd c 2 s = .ok s := congrArg WRes.ok (if_pos hidle)

/-- A halted channel goes on with its descriptor, or loads anew one that is bad (R466). -/
theorem wrDmCmd_resume (hhalted : dmState s c = 4) :
    wrDmCmd c 3 s = .ok (if (s.dmaCh c).bad = 0 then s.dmTo c 2
      else (s.setDmaCh c { at' := (s.dmaCh c).at' }).dmTo c 1) := need_of (decide_eq_true hhalted)

theorem wrDmCmd_skip (hhalted : dmState s c = 4) :
    wrDmCmd c 4 s =
      .ok ((s.dmResult c (0x40000000 + s.fld (O.DM_CH_STATUS c) B.DM_CH_STATUS_ERR_CODE)).dmNext c) :=
  need_of (decide_eq_true hhalted)

/-! ### A descriptor is read (R459, R460) -/

section
variable {bytes : List Byte} (hc : c < 32) (hload : dmState (s.adv t) c = 1)
include hc hload

theorem execDmaDescLoaded_of_host (hspace : dmInBand (s.adv t) c = false) (hup : (s.adv t).evs.linkUp = true)
    (hlen : bytes.length = 64) : execDmaDescLoaded c bytes t s = .next ((s.adv t).dmLoaded c bytes) := by
  have htake : (bytes ++ List.replicate 64 0).take 64 = bytes := hlen ▸ List.take_left
  simp only [execDmaDescLoaded, Nat.not_le.mpr hc, hload, hspace, hup, htake, dmLoading, ne_eq, not_true_eq_false,
    Bool.false_eq_true, or_self, if_false, if_true]

theorem execDmaDescLoaded_of_band (hspace : dmInBand (s.adv t) c = true)
    (hfit : ((s.adv t).dmaCh c).at' + 64 ≤ (s.adv t).get O.BS_CAPACITY * 1048576) :
    execDmaDescLoaded c bytes t s =
      .next ((s.adv t).dmLoaded c ((s.adv t).mgets (bandAddr ((s.adv t).dmaCh c).at') 64)) := by
  simp only [execDmaDescLoaded, Nat.not_le.mpr hc, hload, hspace, Nat.not_lt.mpr hfit, dmLoading, ne_eq,
    not_true_eq_false, or_self, if_false, if_true]

end

/-! ### The data moves, and accesses that fail (R460, R464, R466) -/

section
variable {data : List Byte} {d : Desc} (hc : c < 32) (hdesc : ((s.adv t).dmaCh c).desc = some d)
include hc hdesc

theorem execDmaDescDone_of_desc (hs1 : s1 = dmRun c (d.total - ((s.adv t).dmaCh c).moved) data (s.adv t)) :
    execDmaDescDone c data t s =
      .next (if dmState s1 c = 2 ∧ d.total ≤ (s1.dmaCh c).moved then s1.dmDone c d else s1) := by
  simp only [execDmaDescDone, Nat.not_le.mpr hc, if_false, hdesc, ← hs1]
  rfl

/-- A failing access of the data: `n` units are served before it, and the channel is halted if it still runs. -/
theorem execDmaAccessFail_of_outer {write : Bool} (hrun : dmState (s.adv t) c = 2) (houter : outerCode d code write = true) :
    execDmaAccessFail c n code write data t s = .next (dmFail c n code write data d (s.adv t)) := by
  simp [execDmaAccessFail, Nat.not_le.mpr hc, hrun, hdesc, houter, dmLoading, dmRunning]

end

theorem execDmaAccessFail_of_fetch {write : Bool} {data : List Byte} (hc : c < 32) (hload : dmState (s.adv t) c = 1) :
    execDmaAccessFail c n 10 write data t s =
      .next (((s.adv t).setDmaCh c { at' := ((s.adv t).dmaCh c).at', bad := 10 }).dmHalt c ((s.adv t).dmaCh c).at' 10 false) := by
  simp only [execDmaAccessFail, Nat.not_le.mpr hc, if_false, hload, dmLoading, and_self, if_true]

section
variable {data : List Byte} {d : Desc} {write : Bool} (hs1 : s1 = dmRun c n data s)
include hs1

theorem dmFail_of_running {a : Nat} (hrun : dmState s1 c = 2) (hleft : (s1.dmaCh c).moved < d.total)
    (ha : a = if write then sideAddr d d.dst d.dstPitch ((s1.dmaCh c).cell d (s1.dmaCh c).moved)
      else sideAddr d d.src d.srcPitch ((s1.dmaCh c).cell d (s1.dmaCh c).moved)) :
    dmFail c n code write data d s = (if code = 6 then s1.bsEcc 2 a else s1).dmHalt c a code write := by
  simp only [dmFail, ← hs1, ← ha, hrun, dmRunning, Nat.not_le.mpr hleft, ne_eq, not_true_eq_false, or_self, if_false]

theorem dmFail_of_over (hover : dmState s1 c ≠ 2 ∨ d.total ≤ (s1.dmaCh c).moved) :
    dmFail c n code write data d s = s1 := by
  simp only [dmFail, ← hs1]
  exact if_pos hover

end

end

/-- Settles O39: the writes of a channel by its state, its descriptors and its data by what is left of them. -/
theorem dmaChannelsAct : Obligations.DmaChannelsAct := by
  refine ⟨?start, ?claimed, ?stop, ?stopIdle, ?resume, ?reload, ?skip, ?loadHost, ?loadBand, ?done, ?notDone, ?failFetch,
    ?failData, ?failOver⟩
  case start =>
    exact fun p c s1 s hc hserve hidle hlink hfree hs1 =>
      (dmCmd_of_channel hc).trans (access_of_ok hserve (wrDmCmd_start_of_free hidle hlink hfree hs1))
  case claimed =>
    exact fun p c s hc hserve hidle hlink hclaim =>
      (dmCmd_of_channel hc).trans (access_of_no hserve (wrDmCmd_start_of_claimed hidle hlink hclaim))
  case stop =>
    exact fun p c s hc hserve hactive =>
      (dmCmd_of_channel hc).trans (access_of_ok hserve (wrDmCmd_stop_of_active hactive))
  case stopIdle =>
    exact fun p c s hc hserve hidle => (dmCmd_of_channel hc).trans (access_of_ok hserve (wrDmCmd_stop_of_idle hidle))
  case resume =>
    intro p c s hc hserve hhalted hgood
    exact (dmCmd_of_channel hc).trans (access_of_ok hserve ((wrDmCmd_resume hhalted).trans (congrArg _ (if_pos hgood))))
  case reload =>
    intro p c s hc hserve hhalted hbad
    exact (dmCmd_of_channel hc).trans (access_of_ok hserve ((wrDmCmd_resume hhalted).trans (congrArg _ (if_neg hbad))))
  case skip =>
    exact fun p c s hc hserve hhalted => (dmCmd_of_channel hc).trans (access_of_ok hserve (wrDmCmd_skip hhalted))
  case loadHost =>
    exact fun c bytes t s hc hload hspace hup hlen => execDmaDescLoaded_of_host hc hload hspace hup hlen
  case loadBand => exact fun c bytes t s hc hload hspace hfit => execDmaDescLoaded_of_band hc hload hspace hfit
  case done =>
    rintro c data t d s1 _ s hc hdesc hs1 hrun hall rfl
    exact (execDmaDescDone_of_desc hc hdesc hs1).trans (congrArg _ (if_pos ⟨hrun, hall⟩))
  case notDone =>
    intro c data t d s1 s hc hdesc hs1 hleft
    refine (execDmaDescDone_of_desc hc hdesc hs1).trans (congrArg _ (if_neg ?_))
    rintro ⟨hrun, hall⟩
    exact hleft.elim (· hrun) (Nat.not_lt.mpr hall)
  case failFetch => exact fun c n write data t s hc hload => execDmaAccessFail_of_fetch hc hload
  case failData =>
    exact fun c n code write data t d a s1 s hc hrun hdesc houter hs1 hrun1 hleft ha =>
      (execDmaAccessFail_of_outer hc hdesc hrun houter).trans (congrArg _ (dmFail_of_running hs1 hrun1 hleft ha))
  case failOver =>
    exact fun c n code write data t d s1 s hc hrun hdesc houter hs1 hover =>
      (execDmaAccessFail_of_outer hc hdesc hrun houter).trans (congrArg _ (dmFail_of_over hs1 hover))

end Sys2Proof.Machine
end

section
/-! The lock of the root PLL (R37, R39, R471, R499), and O3; the accesses of the dictionary and of BAR2 (R128, R418 to R422,
R425), and O4. -/
namespace Sys2Proof.Machine

/-! ### PLL_LOCK -/

/-- An offset that is the negative of the uptime's FIRE tick sets the counter of press time to 0. -/
theorem add_ofSigned_neg (u : Nat) : (u + ofSigned 64 (-(u : Int))) % 2 ^ 64 = 0 := by
  simp only [ofSigned]
  omega

/-- The clocks start with press time at zero, the interlock inhibit stands, and the straps are sampled (R37, R39, R475). -/
def State.lockStart (s : State) (straps : Nat) : State :=
  let s := { s with
    clk := { s.clk with inReset := false, ptLog := [] }
    modes := { s.modes with pinKind := 1, pinAt := s.up, pinWait := false }
    ptOff := ofSigned 64 (-((s.up / 64 * 64 : Nat) : Int)) }
  let s := (s.set O.MD_MODE mdBoot).set O.MD_INHIBIT_STATUS 0x301
  (s.set O.BT_STRAPS (straps % 8)).ckPut B.CK_STATUS_RTC_XTAL_OK (!s.bit O.BK_STATUS B.BK_STATUS_RTC_RC)

/-- Curfew stands after the lock (R479): held by a dip while the bus warns, and else from now. -/
def State.lockCurfew (s : State) : State :=
  if s.supply.warn then
    let s := s.setSupply { s.supply with holdFrom := none, dipAt := s.up }
    ((s.setB O.SU_STATUS 8 true).setB O.SU_STATUS B.SU_STATUS_DIP true).setB O.SU_STATUS B.SU_STATUS_CURFEW_HOLD false
  else s.setSupply { s.supply with holdFrom := some s.up }

theorem execPllLock_of_noCause {straps t : Nat} {s : State} (hreset : (s.adv t).clk.inReset = true)
    (hcauses : (s.adv t).modes.causes = []) :
    execPllLock straps t s = .next ((s.adv t).lockStart straps).lockCurfew :=
  (if_neg (by simp [hreset, hcauses])).trans (apply_ite Host.Outcome.next _ _ _).symm

theorem State.get_lockCurfew {s : State} {o : Obj} (h : o ≠ O.SU_STATUS) : s.lockCurfew.get o = s.get o := by
  unfold State.lockCurfew
  split
  · exact (State.get_setB_ne h).trans ((State.get_setB_ne h).trans (State.get_setB_ne h))
  · rfl

theorem State.lockCurfew_tick (s : State) : s.lockCurfew.tick = s.tick := by
  unfold State.lockCurfew
  split <;> rfl

theorem State.lockCurfew_clk (s : State) : s.lockCurfew.clk = s.clk := by
  unfold State.lockCurfew
  split <;> rfl

section
variable (s : State) (straps : Nat)

theorem State.lockStart_tick : (s.lockStart straps).tick = 0 := add_ofSigned_neg (s.up / 64 * 64)

theorem State.lockStart_mode : (s.lockStart straps).get O.MD_MODE = mdBoot := by
  rw [State.lockStart, State.ckPut, State.get_setB_ne (by decide), State.get_set_ne (by decide),
    State.get_set_ne (by decide), State.get_set_self]
  rfl

theorem State.lockStart_straps : (s.lockStart straps).get O.BT_STRAPS = straps % 8 := by
  rw [State.lockStart, State.ckPut, State.get_setB_ne (by decide), State.get_set_self]
  exact Nat.mod_eq_of_lt ((Nat.mod_lt _ (by decide)).trans (by decide))

end

/-- Settles O3: the lock sets mode, press time and straps, and the curfew that follows leaves them. -/
theorem pllLockStartsBoot : Obligations.PllLockStartsBoot := by
  intro straps t s hreset hcauses
  refine ⟨_, execPllLock_of_noCause hreset hcauses, ?mode, ?tick, ?reset, ?straps⟩
  case mode => exact (State.get_lockCurfew (by decide)).trans (State.lockStart_mode _ _)
  case tick => exact (State.lockCurfew_tick _).trans (State.lockStart_tick _ _)
  case reset => rw [State.lockCurfew_clk]; rfl
  case straps => exact (State.get_lockCurfew (by decide)).trans (State.lockStart_straps _ _)

/-! ### Writes of an object through a view (R418 to R421) -/

section
variable {p : Path} {index sub w : Nat} {o : Obj} {r : Row} {s : State}

theorem wrView_clr_rc {x : Nat} (hacc : r.acc = .rc) : wrView .clr o r x s = .ok (s.clearOnes o x) := by
  simp [wrView, accNow_of_ne_rwl, hacc]

/-- A 64-bit object is written as the word joined with MD_DICT_HI_STAGE, which a write leaves 0 (R419). -/
theorem dictWrite_64 {view : View} (hs : served s index = true) (hn : named s p index sub = .num o r) (hb : r.ty.bits = 64) :
    dictWrite p view true index sub w s =
      (wrView view o r (trunc 32 w + 2 ^ 32 * s.get (O.MD_DICT_HI_STAGE p.slot)) s).unstage p := by
  simp [dictWrite, hs, hn, hb]

/-- A value that passes its row is stored as the word that the row leaves of it. -/
theorem plain_of_check {v : Nat} (hrow : o.row = some r) (hc : r.check (s.get o) v = none) :
    plain o v id s = .ok (s.set o (r.merge (s.get o) v)) := by
  simp [plain, checked, hrow, hc]

theorem wrObj_fixedStart {n v : Nat} (hfree : predBound s n = false) :
    wrObj (O.TT_FIXED_START n) v s = plain (O.TT_FIXED_START n) v id s :=
  need_of (c := !predBound s n) (by rw [hfree]; rfl)

/-! ### Reads (R419, R425) -/

theorem cmdRead_of_num (hp : p ≠ .net) (hr : reaches s p = true) (hs : served s index = true)
    (hn : named s p index sub = .num o r) :
    cmdRead p .primary true index sub s =
      .next ((s.readEffect p o r).emit (.read p (if r.acc = .wo then 0 else r.ty.word (readObj s o)))) := by
  cases p with
  | net => exact absurd rfl hp
  | host | dma => simp [cmdRead, dictRead, hr, hs, hn, Named.word]

theorem State.readEffect_of_rc (hacc : r.acc = .rc) : s.readEffect p o r = s.clearOnes o (readObj s o) := if_pos hacc

theorem State.readEffect_of_64 (hacc : r.acc ≠ .rc) (hwo : r.acc ≠ .wo) (hb : r.ty.bits = 64) :
    s.readEffect p o r = s.set (O.MD_DICT_HI p.slot) (readObj s o / 2 ^ 32) := by
  simp only [State.readEffect, hacc, hwo, hb, if_false, if_true]

theorem Ty.word_of_unsigned {ty : Ty} {v : Nat} (h : ty.signed = false) : ty.word v = trunc 32 v := by
  simp [Ty.word, h]

end

/-! ### BAR2 (R128) -/

section
variable {x n ecc : Nat} {bytes : List Byte} {s : State} (hr : reaches s .host = true) (hmode : s.mode ≠ mdBoot)
  (htarget : s.get O.BS_WIN_TARGET = 0)
include hr hmode htarget

theorem execBar2Access_read (hfit : windowBase s + x + n ≤ bandBytes s) :
    execBar2Access false x bytes n 0 s = .next (s.emit (.readBytes (bandGets s (windowBase s + x) n))) := by
  simp [execBar2Access, hr, hmode, htarget, Nat.not_lt.mpr hfit, State.bsEcc]

theorem execBar2Access_write (hfit : windowBase s + x + bytes.length ≤ bandBytes s) :
    execBar2Access true x bytes n ecc s = .next (s.mputs (bandAddr (windowBase s + x)) bytes) := by
  have htake : bytes.take (bandBytes s - (windowBase s + x)) = bytes := List.take_of_length_le (by omega)
  simp [execBar2Access, hr, hmode, htarget, Nat.not_lt.mpr hfit, State.bandPut, htake]

end

/-- Settles O4: each access by what it names, and BAR2 by its window. -/
theorem dictionaryAccessActs : Obligations.DictionaryAccessActs := by
  refine ⟨?write, ?clear, ?write64, ?readClear, ?read64, ?bar2Read, ?bar2Write⟩
  case write =>
    intro p index sub w o r s hp hr hs hn hg h3 h4 hacc hb hw hc
    have hrow : o.row = some r := row_of_named_num hn (by simp [hg])
    refine cmdWrite_of_dictWrite_ok hp hr ?_
    calc dictWrite p .primary true index sub w s
        = wrView .primary o r (trunc r.ty.bits w) s := dictWrite_num hs hn (by omega) hw
      _ = wrObj o (trunc r.ty.bits w) s := wrView_primary_rw hacc
      _ = wrPi o (trunc r.ty.bits w) s := wrObj_pi hg
      _ = plain o (trunc r.ty.bits w) id s := wrPi_plain h3 h4
      _ = .ok (s.set o (r.merge (s.get o) (trunc r.ty.bits w))) := plain_of_check hrow hc
  case clear =>
    intro p index sub w o r s hp hr hs hn hacc hb hw
    exact cmdWrite_of_dictWrite_ok hp hr ((dictWrite_num hs hn (by omega) hw).trans (wrView_clr_rc hacc))
  case write64 =>
    intro p index sub w n r s hp hr hs hn hfree hc
    have hrow : (O.TT_FIXED_START n).row = some r := row_of_named_num hn (show Grp.pred ≠ Grp.net by decide)
    have hr' : r = ⟨0xD, 0xD, .u64, .rw, 0, 0, 0, 0, .any⟩ := (Option.some.inj hrow).symm
    refine cmdWrite_of_dictWrite_ok hp hr ?_
    rw [dictWrite_64 hs hn (by rw [hr']; rfl), wrView_primary_rw (by rw [hr']), wrObj_fixedStart hfree,
      plain_of_check hrow hc]
    rfl
  case readClear =>
    intro p index sub o r s hp hr hs hn hacc
    refine (cmdRead_of_num hp hr hs hn).trans ?_
    rw [State.readEffect_of_rc hacc, hacc]
    rfl
  case read64 =>
    intro p index sub o r s hp hr hs hn hb hsigned hacc hwo
    refine (cmdRead_of_num hp hr hs hn).trans ?_
    rw [State.readEffect_of_64 hacc hwo hb, if_neg hwo, Ty.word_of_unsigned hsigned]
  case bar2Read =>
    rintro x bytes n _ s hr hmode htarget hfit rfl
    exact execBar2Access_read hr hmode htarget hfit
  case bar2Write => exact fun x bytes n ecc s hr hmode htarget hfit => execBar2Access_write hr hmode htarget hfit

end Sys2Proof.Machine
end

section
/-! The mode commands that are accepted (R468 to R470, Tables 18.2 and 18.3), and O40. -/
namespace Sys2Proof.Machine

/-! ### The actions of a change (Table 18.3)

`changeActions` is opened here alone, by `delta`: its equation lemmas are too deep to derive. -/

section
variable {s : State} {old : Nat}

theorem State.changeActions_leaveBoot : s.changeActions 1 2 = s.leaveBoot := by
  delta State.changeActions
  exact if_neg (by decide)

theorem State.changeActions_configure_of_standby : s.changeActions 3 2 = s.wakeStore.bringUpOff := by
  delta State.changeActions
  exact if_neg (by decide)

theorem State.changeActions_configure_of_ready : s.changeActions 4 2 = s.toConfigure.bringUpOff := by
  delta State.changeActions
  exact if_neg (by decide)

theorem State.changeActions_configure_of_service : s.changeActions 6 2 = s.toConfigure.bringUpOff := by
  delta State.changeActions
  exact if_neg (by decide)

theorem State.changeActions_configure_of_safe : s.changeActions 7 2 = (s.emit (.note "outputs released" [])).bringUpOff := by
  delta State.changeActions
  exact if_neg (by decide)

theorem State.changeActions_standby (h : old ≠ 5) : s.changeActions old 3 = s.toStandby := by
  delta State.changeActions
  exact if_neg h

theorem State.changeActions_ready_of_configure : s.changeActions 2 4 = s.pgSyncAll := by
  delta State.changeActions
  exact if_neg (by decide)

theorem State.changeActions_ready_of_print : s.changeActions 5 4 = s.disarmAll.mtSync.dlSettleAll.forAll ports (fun s n => s.lgSync n) := by
  delta State.changeActions
  exact if_pos rfl

theorem State.changeActions_ready_of_service : s.changeActions 6 4 = s.mtSync := by
  delta State.changeActions
  exact if_neg (by decide)

theorem State.changeActions_print_of_ready : s.changeActions 4 5 = s.fiPrint.forAll ports (fun s n => if armed s n then (s.lgSync n).ttSync n else s) := by
  delta State.changeActions
  exact if_neg (by decide)

theorem State.changeActions_service_of_ready : s.changeActions 4 6 = s := by
  delta State.changeActions
  exact if_neg (by decide)

theorem State.changeActions_safe (h : old ≠ 5) : s.changeActions old 7 = s.toSafe.fiCancel := by
  delta State.changeActions
  exact if_neg h

theorem State.changeActions_safe_of_print : s.changeActions 5 7 = s.toSafe.fiCancel.dlSettleAll.forAll ports (fun s n => s.lgSync n) := by
  delta State.changeActions
  exact if_pos rfl

end

/-! ### The write of MD_MODE_CMD -/

section
variable {s : State} {v : Nat}

/-- The mode in force, with no change under way, is answered RESULT 0 (R468). -/
theorem wrModeCmd_of_inForce (hv : v = s.mode) (hbusy : modeBusy s = false) :
    wrModeCmd v s = .ok (s.set O.MD_MODE_RESULT 0) :=
  if_pos ⟨hv, by rw [hbusy]; rfl⟩

theorem modeRefusal_eq_none (hv : v ≤ 7) (hok : changeOk s.mode v = true)
    (hboot : s.mode = mdBoot → v = mdConfigure → s.bit O.BT_STATUS B.BT_STATUS_BOOT_DONE = true)
    (hbusy : modeBusy s = true → v = mdSafe ∨ v = mdReset) : modeRefusal s v = none := by
  have hbooted : ¬(s.mode = mdBoot ∧ v = mdConfigure ∧ (!s.bit O.BT_STATUS B.BT_STATUS_BOOT_DONE) = true) := by
    rintro ⟨hm, hc, hb⟩
    rw [hboot hm hc] at hb
    exact absurd hb (by decide)
  have hfree : ¬(modeBusy s = true ∧ v ≠ mdSafe ∧ v ≠ mdReset) := fun h => (hbusy h.1).elim h.2.1 h.2.2
  simp only [modeRefusal, if_neg (Nat.not_lt.mpr hv), hok, Bool.not_true, Bool.false_eq_true, if_false, if_neg hbooted,
    if_neg hfree]

/-- The objects that every accepted change sets (R468). -/
def State.enterMode (s : State) (v : Nat) : State :=
  ((s.set O.MD_MODE v).set O.MD_STATUS (1 + 256 * v)).set O.MD_MODE_RESULT 1

/-- A change under way is superseded with RESULT 4 and its event (R470). -/
def State.supersede (s : State) : State := if modeBusy s then (s.set O.MD_MODE_RESULT 4).mdHit 2 else s

theorem State.supersede_of_idle (h : modeBusy s = false) : s.supersede = s := if_neg (by rw [h]; decide)

theorem State.supersede_of_busy (h : modeBusy s = true) : s.supersede = (s.set O.MD_MODE_RESULT 4).mdHit 2 := if_pos h

theorem not_inForce_of_changeOk (hok : changeOk s.mode v = true) : ¬(v = s.mode ∧ (!modeBusy s) = true) :=
  fun h => ne_of_changeOk hok h.1

/-- An accepted change to another mode than RESET begins its actions (R468). -/
theorem wrModeCmd_of_accepted (hok : changeOk s.mode v = true) (hnone : modeRefusal s v = none) (hreset : v ≠ mdReset) :
    wrModeCmd v s = .ok ((s.supersede.enterMode v).changeActions s.mode v) := by
  simp only [wrModeCmd, if_neg (not_inForce_of_changeOk hok), hnone, if_neg hreset]
  rfl

/-- An accepted MODE_CMD_RESET is the reset event MODE_COMMAND (R470). -/
theorem wrModeCmd_reset (hok : changeOk s.mode mdReset = true) (hnone : modeRefusal s mdReset = none) :
    wrModeCmd mdReset s = .ok (s.supersede.resetEvent 5) := by
  simp only [wrModeCmd, if_neg (not_inForce_of_changeOk hok), hnone, if_true]
  rfl

/-- RESET is reached from every other mode (Table 18.2). -/
theorem changeOk_reset {old : Nat} (hlow : 1 ≤ old) (hhigh : old ≤ 7) : changeOk old mdReset = true := by
  interval_cases old <;> rfl

end

section
variable {p : Path} {s : State} {v : Nat} (hserve : s.serves p O.MD_MODE_CMD = true)
include hserve

/-- A mode command that Table 18.2 accepts with no change under way. -/
theorem modeCmd_of_change {old : Nat} (hbusy : modeBusy s = false) (hmode : s.mode = old) (hv : v ≤ 7)
    (hok : changeOk old v = true) (hreset : v ≠ mdReset)
    (hboot : old = mdBoot → v = mdConfigure → s.bit O.BT_STATUS B.BT_STATUS_BOOT_DONE = true) :
    modeCmd p v s = .next ((s.enterMode v).changeActions old v) := by
  subst hmode
  have hnone := modeRefusal_eq_none hv hok hboot (fun h => absurd (hbusy.symm.trans h) (by decide))
  exact access_of_ok hserve ((wrModeCmd_of_accepted hok hnone hreset).trans (by rw [State.supersede_of_idle hbusy]))

theorem modeCmd_of_inForce (hmode : s.mode = v) (hbusy : modeBusy s = false) :
    modeCmd p v s = .next (s.set O.MD_MODE_RESULT 0) :=
  access_of_ok hserve (wrModeCmd_of_inForce hmode.symm hbusy)

/-- As `modeCmd_of_refusal`, from a mode that is not the one in force or a change under way. -/
theorem modeCmd_of_refused {r code : Nat} (hforce : s.mode ≠ v ∨ modeBusy s = true)
    (href : modeRefusal s v = some (r, code)) :
    modeCmd p v s = .next (((s.set O.MD_MODE_RESULT r).mdHit 1).abort p O.MD_MODE_CMD.index O.MD_MODE_CMD.sub .primary code) := by
  refine modeCmd_of_refusal hserve ?_ href
  rintro ⟨hv, hidle⟩
  exact hforce.elim (absurd hv.symm) (fun hb => absurd (hidle.symm.trans hb) (by decide))

/-- SAFE supersedes a change under way (R470). -/
theorem modeCmdSafe_of_busy (hbusy : modeBusy s = true) (hmode : s.mode = 2 ∨ s.mode = 3 ∨ s.mode = 4 ∨ s.mode = 6) :
    modeCmd p mdSafe s = .next ((((s.set O.MD_MODE_RESULT 4).mdHit 2).enterMode mdSafe).toSafe.fiCancel) := by
  have hok : changeOk s.mode mdSafe = true := by rcases hmode with h | h | h | h <;> rw [h] <;> rfl
  have hnone : modeRefusal s mdSafe = none :=
    modeRefusal_eq_none (by decide) hok (fun _ h => absurd h (by decide)) (fun _ => .inl rfl)
  have hprint : s.mode ≠ 5 := by omega
  refine access_of_ok hserve ((wrModeCmd_of_accepted hok hnone (by decide)).trans ?_)
  rw [State.supersede_of_busy hbusy]
  exact congrArg WRes.ok (State.changeActions_safe hprint)

theorem modeCmdReset_of_mode (hlow : 1 ≤ s.mode) (hhigh : s.mode ≤ 7) :
    modeCmd p mdReset s = .next (s.supersede.resetEvent 5) := by
  have hok := changeOk_reset hlow hhigh
  exact access_of_ok hserve (wrModeCmd_reset hok
    (modeRefusal_eq_none (by decide) hok (fun _ h => absurd h (by decide)) (fun _ => .inr rfl)))

end

/-- As `modeCmd_of_change`, for the changes that do not start in BOOT, by what they begin. -/
theorem modeCmd_of_later {old v : Nat} {f : State → State} (hf : ∀ {s : State}, s.changeActions old v = f s)
    (hok : decide (v ≤ 7 ∧ changeOk old v = true ∧ v ≠ mdReset ∧ old ≠ mdBoot) = true) (p : Path) (s1 s : State)
    (hserve : s.serves p O.MD_MODE_CMD = true) (hbusy : modeBusy s = false) (hmode : s.mode = old)
    (hs1 : s1 = s.enterMode v) : modeCmd p v s = .next (f s1) := by
  obtain ⟨hv, hok, hreset, hboot⟩ := of_decide_eq_true hok
  rw [modeCmd_of_change hserve hbusy hmode hv hok hreset (fun h => absurd h hboot), hf, hs1]

theorem execModeChangeDone_of_done {t : Nat} {s : State} (hbusy : modeBusy (s.adv t) = true)
    (hdone : actionsDone (s.adv t) = true) :
    execModeChangeDone t s =
      .next (((((s.adv t).setB O.MD_STATUS 0 false).set O.MD_MODE_RESULT 0).inc O.MD_CHANGES).mdHit 0) :=
  if_pos ⟨hbusy, hdone⟩

/-- Settles O40: a change that Table 18.2 accepts enters its mode and begins the actions of Table 18.3; the other commands
are answered by the mode in force or by `modeRefusal`. -/
theorem modeChangesAct : Obligations.ModeChangesAct := by
  refine ⟨?boot, ?c32, ?c42, ?c62, ?c72, ?c23, ?c73, ?c24, ?c54, ?c64, ?c45, ?c46, ?c27, ?c37, ?c47, ?c57, ?c67, ?busy,
    ?same1, ?no1, ?same2, ?no2, ?same3, ?no3, ?same4, ?no4, ?same5, ?no5, ?same6, ?no6, ?same7, ?no7, ?reset, ?done⟩
  case boot =>
    rintro p _ s hserve hbusy hmode hboot rfl
    exact (modeCmd_of_change hserve hbusy hmode (by decide) rfl (by decide) (fun _ _ => hboot)).trans
      (congrArg Host.Outcome.next State.changeActions_leaveBoot)
  case c32 => exact modeCmd_of_later State.changeActions_configure_of_standby rfl
  case c42 => exact modeCmd_of_later State.changeActions_configure_of_ready rfl
  case c62 => exact modeCmd_of_later State.changeActions_configure_of_service rfl
  case c72 => exact modeCmd_of_later State.changeActions_configure_of_safe rfl
  case c23 => exact modeCmd_of_later (State.changeActions_standby (old := 2) (by decide)) rfl
  case c73 => exact modeCmd_of_later (State.changeActions_standby (old := 7) (by decide)) rfl
  case c24 => exact modeCmd_of_later State.changeActions_ready_of_configure rfl
  case c54 => exact modeCmd_of_later State.changeActions_ready_of_print rfl
  case c64 => exact modeCmd_of_later State.changeActions_ready_of_service rfl
  case c45 => exact modeCmd_of_later State.changeActions_print_of_ready rfl
  case c46 => exact modeCmd_of_later State.changeActions_service_of_ready rfl
  case c27 => exact modeCmd_of_later (State.changeActions_safe (old := 2) (by decide)) rfl
  case c37 => exact modeCmd_of_later (State.changeActions_safe (old := 3) (by decide)) rfl
  case c47 => exact modeCmd_of_later (State.changeActions_safe (old := 4) (by decide)) rfl
  case c57 => exact modeCmd_of_later State.changeActions_safe_of_print rfl
  case c67 => exact modeCmd_of_later (State.changeActions_safe (old := 6) (by decide)) rfl
  case busy =>
    rintro p _ _ s hserve hbusy hmode rfl rfl
    exact modeCmdSafe_of_busy hserve hbusy hmode
  case same1 | same2 | same3 | same4 | same5 | same6 | same7 =>
    exact fun p s hserve hmode hbusy => modeCmd_of_inForce hserve hmode hbusy
  case no1 | no2 | no3 | no4 | no5 | no6 | no7 =>
    exact fun p r code s hserve hforce href => modeCmd_of_refused hserve hforce href
  case reset => exact fun p s hserve hlow hhigh => modeCmdReset_of_mode hserve hlow hhigh
  case done => exact fun t s hbusy hdone => execModeChangeDone_of_done hbusy hdone

end Sys2Proof.Machine
end

section
/-! Reset events and releases (R471, R477, R488, R508, R509, R556, R567), and O41; inhibits (R474, R475), and O42. -/
namespace Sys2Proof.Machine

/-! ### What RESET leaves -/

/-- A store of bytes changes the memory alone. -/
theorem State.mputs_eq (l : List Byte) : ∀ (s : State) (a : Nat), ∃ m, s.mputs a l = { s with mem := m } := by
  induction l with
  | nil => exact fun s _ => ⟨s.mem, rfl⟩
  | cons b l ih => exact fun s a => ih (s.mput a b) (a + 1)

section
variable (s : State)

/-- RESET takes the flash's commands away, and leaves bytes open in the memory (R349). -/
theorem State.flashCut_eq : ∃ m n, s.flashCut = { s with mem := m, free := n, flash := {} } := by
  unfold State.flashCut
  cases s.flash.cur with
  | none => exact ⟨s.mem, s.free, rfl⟩
  | some c =>
    obtain ⟨m, hopen⟩ : ∃ m, s.flashOpen c = { s with mem := m, free := s.free + c.range.2 } :=
      State.mputs_eq _ { s with free := s.free + c.range.2 } _
    simp only [hopen]
    split
    · exact ⟨s.mem, s.free, rfl⟩
    · split
      · exact ⟨m, s.free + c.range.2, rfl⟩
      · exact ⟨_, s.free + c.range.2, rfl⟩

theorem State.journal_pending (kind data : Nat) : (s.journal kind data).pending = s.pending := by
  rw [State.journal, State.inc_pending, State.setBk_pending]

theorem State.toReset_pending : s.toReset.pending = s.pending := by
  obtain ⟨_, _, hcut⟩ := s.flashCut_eq
  have hpending : s.flashCut.pending = s.pending := by rw [hcut]
  exact hpending

theorem State.toReset_causes : s.toReset.modes.causes = s.modes.causes := by
  obtain ⟨_, _, hcut⟩ := s.flashCut_eq
  have hcauses : s.flashCut.modes.causes = s.modes.causes := by rw [hcut]
  exact hcauses

theorem State.toReset_mode : s.toReset.mode = mdReset := by
  rw [State.mode, State.toReset, State.get_setB_ne (by decide), State.get_set_ne (by decide), State.get_set_self]
  rfl

end

/-- A reset event outside RESET takes the device to RESET with its cause, and leaves the queue (R471). -/
theorem State.resetEvent_of_running {s : State} {cause : Nat} (hreset : s.clk.inReset = false) (hc : cause < 2 ^ 8) :
    (s.resetEvent cause).get O.MD_RESET_CAUSE = cause ∧ (s.resetEvent cause).clk.inReset = true ∧
      (s.resetEvent cause).mode = mdReset ∧ (s.resetEvent cause).pending = s.pending ∧
      (s.resetEvent cause).modes.causes = [cause] := by
  rw [State.resetEvent, if_neg (by rw [hreset]; decide)]
  refine ⟨?held, rfl, ?mode, ?pending, ?causes⟩
  case held => exact (State.get_set_self _ _ _).trans (Nat.mod_eq_of_lt hc)
  case mode => exact (State.get_set_ne (by decide)).trans (State.toReset_mode _)
  case pending => exact (State.toReset_pending _).trans ((State.setModes_pending _ _).trans (State.journal_pending _ _ _))
  case causes => exact State.toReset_causes _

/-! ### Reset events -/

section
variable {t : Nat} {s : State}

theorem execPowerOn_up (hreset : (s.adv t).clk.inReset = true) (hcause : (s.adv t).modes.causes.contains 1 = true)
    (hbattery : (s.adv t).bk.onBattery = false) (htime : (s.adv t).modes.railAt + 2 * fuMs ≤ (s.adv t).up) :
    execPowerOn true t s = .next ((s.adv t).causeEnds 1) := by
  simp only [execPowerOn, hreset, hcause, hbattery, htime, Bool.not_true, Bool.not_false, Bool.false_eq_true, and_self,
    if_false, if_true]

/-- A die trip is entered in the journal with the temperature, counted and kept for its event (R488). -/
def State.tripNote (s : State) (temp : Nat) : State :=
  let s := (s.journal 7 (jdata [(0, 2), (2, temp)])).inc O.TH_TRIPS
  s.setBk { s.bk with tripped := true }

theorem execDieTrip_of_new (hnew : (s.adv t).clk.inReset = false ∨ (s.adv t).modes.causes.contains 6 = false) :
    execDieTrip t s = .next (((s.adv t).resetEvent 6).tripNote ((s.adv t).get O.SB_DIE_TEMP)) := by
  refine if_neg ?_
  rintro ⟨hr, hc⟩
  exact hnew.elim (fun h => absurd (h.symm.trans hr) (by decide)) (fun h => absurd (h.symm.trans hc) (by decide))

section
variable {cause : Nat} (hreset : (s.adv t).clk.inReset = true) (hcause : (s.adv t).modes.causes.contains cause = true)
include hreset hcause

/-- The causes 4, 5 and from 7 on hold the device 10 µs (R471). -/
theorem execResetRelease_timed (hc : cause = 4 ∨ cause = 5 ∨ 7 ≤ cause)
    (htime : (s.adv t).modes.resetAt + 10 * fuUs ≤ (s.adv t).up) :
    execResetRelease cause t s = .next ((s.adv t).causeEnds cause) := by
  have h1 : cause ≠ 1 := by omega
  have h3 : cause ≠ 3 := by omega
  refine if_neg ?_
  simp only [hreset, hcause, Bool.not_true, Bool.false_eq_true, false_or]
  simp [h1, h3, Nat.not_lt.mpr htime]

/-- Causes 2 and 6 end at once, and cause 3 once the bus has not warned for 10 ms (R471). -/
theorem execResetRelease_untimed (hc : cause = 2 ∨ cause = 6 ∨ (cause = 3 ∧ (s.adv t).supply.warn = false ∧
      max (s.adv t).supply.relAt (s.adv t).modes.resetAt + 10 * fuMs ≤ (s.adv t).up)) :
    execResetRelease cause t s = .next ((s.adv t).causeEnds cause) := by
  refine if_neg ?_
  simp only [hreset, hcause, Bool.not_true, Bool.false_eq_true, false_or]
  rcases hc with rfl | rfl | ⟨rfl, hwarn, htime⟩
  · simp
  · simp
  · simp [hwarn, Nat.not_lt.mpr htime]

end

theorem execWatchdogExpiry_of_due (hreset : (s.adv t).clk.inReset = false) (hper : (s.adv t).get O.BT_WDT_PERIOD ≠ 0)
    (htime : (s.adv t).boot.wdtAt + (s.adv t).get O.BT_WDT_PERIOD * fuMs ≤ (s.adv t).up) :
    execWatchdogExpiry t s = .next ((s.adv t).resetEvent 7) :=
  congrArg Host.Outcome.next (if_pos ⟨by rw [hreset]; rfl, hper, htime⟩)

end

/-- Settles O41: the events are `resetEvent` of their cause, and the releases `causeEnds` once their time has run. -/
theorem resetsAct : Obligations.ResetsAct := by
  refine ⟨?fall, ?held, ?rise, ?pin, ?bus, ?die, ?timed, ?untimed, ?soft, ?kick, ?watchdog⟩
  case fall =>
    rintro t _ s rfl
    rfl
  case held =>
    intro t s hreset
    obtain ⟨hcause, hin, hmode, hpending, hcauses⟩ := State.resetEvent_of_running (cause := 1) hreset (by decide)
    exact ⟨_, rfl, hcause, hin, hmode, hpending.trans (s.adv_pending t), hcauses⟩
  case rise => exact fun t s hreset hcause hbattery htime => execPowerOn_up hreset hcause hbattery htime
  case pin => exact fun t s => rfl
  case bus => exact fun t s => rfl
  case die =>
    rintro t _ s hnew rfl
    exact execDieTrip_of_new hnew
  case timed => exact fun cause t s hreset hcause hc htime => execResetRelease_timed hreset hcause hc htime
  case untimed => exact fun cause t s hreset hcause hc => execResetRelease_untimed hreset hcause hc
  case soft => exact fun p s hserve => access_of_ok hserve rfl
  case kick => exact fun p s hserve => access_of_ok hserve rfl
  case watchdog => exact fun t s hreset hper htime => execWatchdogExpiry_of_due hreset hper htime

/-! ### Inhibits (R474, R475) -/

section
variable {s : State}

theorem wrInhibitClr_pin (hstands : pinStands s = true) (hwait : s.modes.pinWait = true) :
    wrInhibitClr 2 s = .ok s.pinLift := by
  simp [wrInhibitClr, need, bitOf, hstands, hwait]

theorem wrInhibitClr_pin_of_none (hstands : pinStands s = false) : wrInhibitClr 2 s = .ok s := by
  simp [wrInhibitClr, need, bitOf, hstands]

theorem wrInhibitClr_pin_of_early (hstands : pinStands s = true) (hwait : s.modes.pinWait = false) :
    wrInhibitClr 2 s = .no s abState := by
  simp [wrInhibitClr, need, bitOf, hstands, hwait]

/-- The interlock inhibit is set with its kind (R475). -/
def State.pinFall (s : State) (kind : Nat) : State :=
  let s := s.fiOff.journal 8 0
  (s.setModes { s.modes with pinKind := kind, pinAt := s.up, pinWait := false }).inhibitSrc B.MD_INHIBIT_STATUS_PIN true

theorem execFireInhibitAssert_of_running {t : Nat} (hreset : (s.adv t).clk.inReset = false) :
    execFireInhibitAssert t s = .next ((s.adv t).pinFall ((s.adv t).get O.MD_INHIBIT_CONFIG % 4)) :=
  if_neg (by rw [hreset]; decide)

/-- The ball has stood high long enough: MD_INHIBIT_CONFIG says whether the host has to clear (R475). -/
theorem execPinReleaseExpiry_of_due {e t : Nat} (hreset : (s.adv t).clk.inReset = false) (hstands : pinStands (s.adv t) = true)
    (hwait : (s.adv t).modes.pinWait = false)
    (htime : max e (s.adv t).modes.pinAt + (s.adv t).get O.MD_PIN_RELEASE * fuMs ≤ (s.adv t).up) :
    execPinReleaseExpiry ⟨e, t⟩ s =
      if bitOf ((s.adv t).get O.MD_INHIBIT_CONFIG) 2 then .next ((s.adv t).setModes { (s.adv t).modes with pinWait := true })
      else .next (s.adv t).pinLift :=
  if_neg (by simp [hreset, hstands, hwait, Nat.not_lt.mpr htime])

end

/-- Settles O42: each bit of the two words alone, and the interlock as its ball goes. -/
theorem inhibitsAct : Obligations.InhibitsAct := by
  refine ⟨?fire, ?stop, ?off, ?host, ?pin, ?none, ?early, ?ring, ?assert, ?wait, ?lift⟩
  case fire => exact fun p s hserve => access_of_ok hserve (by simp [wrInhibitSet, need, bitOf]; rfl)
  case stop => exact fun p s hserve => access_of_ok hserve (by simp [wrInhibitSet, need, bitOf])
  case off => exact fun p s hserve => access_of_ok hserve (by simp [wrInhibitSet, need, bitOf])
  case host => exact fun p s hserve => access_of_ok hserve (by simp [wrInhibitClr, need, bitOf])
  case pin => exact fun p s hserve hstands hwait => access_of_ok hserve (wrInhibitClr_pin hstands hwait)
  case none => exact fun p s hserve hstands => access_of_ok hserve (wrInhibitClr_pin_of_none hstands)
  case early => exact fun p s hserve hstands hwait => access_of_no hserve (wrInhibitClr_pin_of_early hstands hwait)
  case ring => exact fun p s hserve => access_of_ok hserve (by simp [wrInhibitClr, need, bitOf])
  case assert =>
    rintro t _ s hreset rfl
    exact execFireInhibitAssert_of_running hreset
  case wait =>
    exact fun e t s hreset hstands hwait htime hcfg =>
      (execPinReleaseExpiry_of_due hreset hstands hwait htime).trans (if_pos hcfg)
  case lift =>
    exact fun e t s hreset hstands hwait htime hcfg =>
      (execPinReleaseExpiry_of_due hreset hstands hwait htime).trans (if_neg (by rw [hcfg]; decide))

end Sys2Proof.Machine
end

section
/-! The supply monitors (R477 to R484), and O43; the clears of supply and thermal records (R485, R487, R498), and O44. -/
namespace Sys2Proof.Machine

/-! ### The supply monitors -/

section
variable {t : Nat} {s : State}

/-- A dip begins: the warning comparator, LOW and DIP (R477, R481). -/
def State.dipStart (s : State) : State :=
  ((s.setSupply { s.supply with warn := true, dipAt := s.up }).suPut (lowBit 0) true).suPut B.SU_STATUS_DIP true

theorem execBusWarnTrip_of_running (hwarn : (s.adv t).supply.warn = false) (hreset : (s.adv t).clk.inReset = false) :
    execBusWarnTrip t s =
      .next (((s.adv t).dipStart.set O.SU_DIP_DEPTH ((s.adv t).dipStart.get (O.SU_V 0))).curfewSync) :=
  (if_neg (by rw [hwarn]; decide)).trans (if_neg (by simp [hreset]))

/-- The warning has ended (R477). -/
def State.warnOff (s : State) : State := s.setSupply { s.supply with warn := false, relAt := s.up }

/-- The length of the dip in µs (R481). -/
def dipTime (s : State) : Nat := (divRound ((s.up - s.supply.dipAt : Nat) : Int) fuUs).toNat

/-- The end of a dip is recorded (R481). -/
def State.dipNote (s : State) (us : Nat) (sag : Bool) : State :=
  let s := (s.set O.SU_DIP_TIME us).suHit B.SU_EVENTS_DIP_END
  let s := if sag then s else s.inc O.SU_DIPS
  s.journal 2 (jdata [(0, s.get O.SU_DIP_DEPTH), (2, us % 2 ^ 32), (6, sag.toNat)])

theorem execBusWarnRelease_of_running (hwarn : (s.adv t).supply.warn = true) (hreset : (s.adv t).clk.inReset = false) :
    execBusWarnRelease t s =
      .next (((((((s.adv t).warnOff.dipNote (dipTime (s.adv t).warnOff) (suBit (s.adv t).warnOff B.SU_STATUS_SAG)).suPut
        (lowBit 0) false).suPut B.SU_STATUS_DIP false).suPut B.SU_STATUS_SAG false).curfewSync)) :=
  (if_neg (by rw [hwarn]; decide)).trans (if_neg (by simp [hreset]))

theorem execSagTimeout_of_due (hdip : suBit (s.adv t) B.SU_STATUS_DIP = true) (hsag : suBit (s.adv t) B.SU_STATUS_SAG = false)
    (htime : (s.adv t).supply.dipAt + (s.adv t).get O.SU_SAG_TIME * fuMs ≤ (s.adv t).up) :
    execSagTimeout t s = .next ((((s.adv t).suPut B.SU_STATUS_SAG true).suHit B.SU_EVENTS_SAG 1).inc O.SU_SAGS) :=
  if_pos ⟨hdip, by rw [hsag]; rfl, htime⟩

/-- The request of an input is noted, and one not yet granted is withdrawn (R478). -/
def State.supplyRenew (s : State) (i : Nat) : State :=
  (s.setSupply { s.supply with dueAt := tput s.supply.dueAt i s.up }).senseWithdraw
    (fun (r : Req) => decide (r.what = .supply ∧ r.inst = i))

theorem execSupplyConversionDue_of_due {i : Nat} (hreset : (s.adv t).clk.inReset = false) (hmode : (s.adv t).mode ≠ mdBoot)
    (hi : i < 8) (hon : susOn (s.adv t) i 0 = true) (hdue : supplyDue (s.adv t) i = true) :
    execSupplyConversionDue i t s = .next (((s.adv t).supplyRenew i).senseAsk
      { cls := 1, inst := i, what := .supply, input := 0x68 + i, entered := senseCycle ((s.adv t).supplyRenew i) }) :=
  if_neg (by simp [hreset, hmode, Nat.not_le.mpr hi, hon, hdue])

theorem execSupplyHighRelease_of_due (hstands : (s.adv t).bit O.MD_INHIBIT_STATUS B.MD_INHIBIT_STATUS_SUPPLY_HIGH = true)
    (hcond : highCond (s.adv t) = false) (htime : (s.adv t).supply.highEnd + 10 * fuMs ≤ (s.adv t).up) :
    execSupplyHighRelease t s = .next ((s.adv t).inhibitSrc B.MD_INHIBIT_STATUS_SUPPLY_HIGH false) :=
  if_pos ⟨hstands, by rw [hcond]; rfl, htime⟩

end

/-- Settles O43: each monitor acts where its comparator, its input or its time lets it. -/
theorem supplyMonitorsAct : Obligations.SupplyMonitorsAct := by
  refine ⟨?trip, ?release, ?sag, ?conversion, ?hold, ?high⟩
  case trip =>
    rintro t _ s hwarn hreset rfl
    exact execBusWarnTrip_of_running hwarn hreset
  case release =>
    rintro t _ _ _ _ _ _ s hwarn hreset rfl rfl rfl rfl rfl rfl
    exact execBusWarnRelease_of_running hwarn hreset
  case sag => exact fun t s hdip hsag htime => execSagTimeout_of_due hdip hsag htime
  case conversion =>
    rintro i t _ _ s hreset hmode hi hon hdue rfl rfl
    exact execSupplyConversionDue_of_due hreset hmode hi hon hdue
  case hold =>
    rintro t _ s hover rfl
    exact if_pos hover
  case high => exact fun t s hstands hcond htime => execSupplyHighRelease_of_due hstands hcond htime

/-! ### The clears (R485, R487, R498) -/

section
variable {v : Nat} {s : State}

theorem wrSuControl_clrStats (hv : bitOf v 1 = false) :
    wrSuControl (putBit v 0 true) s = .ok ((s.set O.SU_BUS_MIN 32767).setI O.SU_BUS_MAX (-32768)) := by
  have h1 : bitOf (putBit v 0 true) 1 = false := by rw [bitOf_putBit_ne (by decide), hv]
  simp [wrSuControl, need, h1, bitOf_putBit_self]

theorem wrSuControl_clrPgOv (hv : bitOf v 0 = false) (hmode : s.mode ≠ mdPrint) :
    wrSuControl (putBit v 1 true) s =
      .ok (((s.setF O.SU_STATUS B.SU_STATUS_PG_OV 0).forAll groups (fun s g => s.setPg g { s.pg g with beyond := 0 })).pgSyncAll) := by
  have h0 : bitOf (putBit v 1 true) 0 = false := by rw [bitOf_putBit_ne (by decide), hv]
  simp [wrSuControl, need, h0, hmode, bitOf_putBit_self]

/-- The end of a shutdown, with its event, its journal entry and its inhibit (R487). -/
def State.shutEnd (s : State) : State :=
  let s := (s.setB O.TH_STATUS 1 false).hit O.TH_EVENTS 1 572
  (s.journal 7 (jdata [(0, 1), (2, s.get O.SB_DIE_TEMP)])).inhibitSrc B.MD_INHIBIT_STATUS_THERMAL false

theorem wrThControl_clrShutdown (hv : bitOf v 1 = false) (hcool : dieCool s = true) (hshut : s.bit O.TH_STATUS 1 = true) :
    wrThControl (putBit v 0 true) s = .ok s.shutEnd := by
  have h1 : bitOf (putBit v 0 true) 1 = false := by rw [bitOf_putBit_ne (by decide), hv]
  simp [wrThControl, need, h1, hcool, hshut, bitOf_putBit_self, State.shutEnd]

theorem wrThControl_of_hot (hcool : dieCool s = false) : wrThControl (putBit v 0 true) s = .no s abState := by
  simp [wrThControl, need, hcool, bitOf_putBit_self]

theorem wrThControl_clrDieMax (hv : bitOf v 0 = false) :
    wrThControl (putBit v 1 true) s = .ok (s.set O.TH_DIE_MAX 0x8000) := by
  have h0 : bitOf (putBit v 1 true) 0 = false := by rw [bitOf_putBit_ne (by decide), hv]
  simp [wrThControl, need, h0, bitOf_putBit_self]

end

/-- Settles O44: one bit of the control word at a time. -/
theorem supplyClearsAct : Obligations.SupplyClearsAct := by
  refine ⟨?stats, ?pgOv, ?shutdown, ?hot, ?dieMax⟩
  case stats => exact fun p v s hserve hv => access_of_ok hserve (wrSuControl_clrStats hv)
  case pgOv => exact fun p v s hserve hv hmode => access_of_ok hserve (wrSuControl_clrPgOv hv hmode)
  case shutdown =>
    rintro p v _ s hserve hv hcool hshut rfl
    exact access_of_ok hserve (wrThControl_clrShutdown hv hcool hshut)
  case hot => exact fun p v s hserve hcool => access_of_no hserve (wrThControl_of_hot hcool)
  case dieMax => exact fun p v s hserve hv => access_of_ok hserve (wrThControl_clrDieMax hv)

end Sys2Proof.Machine
end

section
/-! The backup domain: its power, clock and journal (R489 to R492), and O45; its cell, charger and gauge (R493 to R496),
and O46. -/
namespace Sys2Proof.Machine

/-! ### Main power and the backup domain's own (R489) -/

section
variable {t : Nat} {s : State}

/-- The domain goes over to VBAT (R489). -/
def State.toBattery (s : State) : State :=
  (((s.setBk { s.bk with onBattery := true, batterySec := s.get O.BK_RTC_SEC }).chgSync).journal 9 0).inc O.BK_MAIN_LOSSES

theorem execMainPowerLost_of_main (hmain : (s.adv t).bk.onBattery = false) :
    execMainPowerLost t s = .next (s.adv t).railFall.gaugeRun.toBattery :=
  if_neg (by rw [hmain]; decide)

/-- The seconds on the battery (R489). -/
def batteryTime (s : State) : Nat := (s.get O.BK_RTC_SEC + 2 ^ 32 - s.bk.batterySec) % 2 ^ 32

/-- The domain goes over to main power (R489). -/
def State.toMain (s : State) (sec : Nat) : State :=
  (((((s.setBk { s.bk with onBattery := false }).journal 0xA sec).addC O.BK_BATTERY_SEC sec).bkHit
    B.BK_EVENTS_MAIN_RETURNED).chgSync)

theorem execMainPowerBack_of_battery (hbattery : (s.adv t).bk.onBattery = true) :
    execMainPowerBack t s = .next ((s.adv t).gaugeRun.toMain (batteryTime (s.adv t).gaugeRun)) :=
  if_neg (by rw [hbattery]; decide)

end

/-- An object whose cell is dropped by a filter reads as after RESET. -/
theorem cellFind_filter_drop {keep : Obj → Bool} {o : Obj} (h : keep o = false) :
    ∀ l : List (Obj × Nat), cellFind (l.filter (fun p => keep p.1)) o = none
  | [] => rfl
  | p :: l => by
    rw [List.filter_cons]
    split
    case isTrue hp =>
      have hne : p.1 ≠ o := fun e => absurd ((e ▸ h).symm.trans hp) (by decide)
      exact (if_neg hne).trans (cellFind_filter_drop h l)
    case isFalse => exact cellFind_filter_drop h l

/-- An object whose cell a filter lets pass reads as before. -/
theorem cellFind_filter_keep {keep : Obj → Bool} {o : Obj} (h : keep o = true) :
    ∀ l : List (Obj × Nat), cellFind (l.filter (fun p => keep p.1)) o = cellFind l o
  | [] => rfl
  | p :: l => by
    rw [List.filter_cons]
    split
    case isTrue =>
      simp only [cellFind, cellFind_filter_keep h l]
    case isFalse hp =>
      have hne : p.1 ≠ o := fun e => hp (e ▸ h)
      exact (cellFind_filter_keep h l).trans (if_neg hne).symm

/-- The backup domain from no power: nothing kept but the event (R489). -/
def State.fromNoPower (s : State) : State :=
  { s with
    objs := s.objs.filter (fun z => !keptObj z.1)
    bk := { latched := [(B.BK_EVENTS_BACKUP_POR, 0)], gaugeAt := s.up }
    modes := { s.modes with causes := [1], railAt := s.up } }

section
variable {s : State} {o : Obj}

theorem State.get_fromNoPower_kept (h : keptObj o = true) : s.fromNoPower.get o = o.dflt :=
  congrArg (Option.getD · o.dflt) (cellFind_filter_drop (keep := fun o => !keptObj o) (by rw [h]; rfl) s.objs)

theorem State.get_fromNoPower_other (h : keptObj o = false) : s.fromNoPower.get o = s.get o :=
  congrArg (Option.getD · o.dflt) (cellFind_filter_keep (keep := fun o => !keptObj o) (by rw [h]; rfl) s.objs)

theorem State.get_journal_ne {kind data : Nat} (h : o ≠ O.BK_JNL_COUNT) : (s.journal kind data).get o = s.get o :=
  State.get_inc_ne h

end

/-- The power-on reset of a domain that had no power (R471, R489). -/
def State.porReset (s : State) : State := (s.setModes { s.modes with causes := [1], resetAt := s.up }).toReset

theorem execBackupPor_eq (t : Nat) (s : State) :
    execBackupPor t s = .next ((s.adv t).porReset.fromNoPower.journal 1 (jdata [(0, 1), (2, 0x8000)])) := rfl

/-! ### Objects that time leaves as they are -/

theorem State.get_ite (c : Prop) [Decidable c] (x y : State) (o : Obj) :
    (if c then x else y).get o = if c then x.get o else y.get o := apply_ite (State.get · o) c x y

section
variable {o : Obj} (hg : o.grp ≠ .pg)
include hg

theorem State.get_peakGroup {s : State} (g a b : Nat) : (s.peakGroup g a b).get o = s.get o := by
  have hpeak : o ≠ O.HP_PG_PEAK g := fun e => hg (congrArg Obj.grp e)
  have hevents : o ≠ O.HP_PG_EVENTS g := fun e => hg (congrArg Obj.grp e)
  have hrise (n : Nat) : (s.rise (O.HP_PG_PEAK g) n).get o = s.get o := by
    rw [State.rise, State.get_ite, State.get_set_ne hpeak, ite_self]
  have hmark (s : State) (x : List (Nat × PGroup)) :
      ({ s.setB (O.HP_PG_EVENTS g) B.HP_PG_EVENTS_PEAK_OVER true with pgs := x } : State).get o = s.get o :=
    State.get_setB_ne hevents
  simp only [State.peakGroup, State.get_ite, hmark, hrise, ite_self]

theorem State.get_peakRun {s : State} (a b : Nat) : (s.peakRun a b).get o = s.get o := by
  rw [State.peakRun, State.get_ite, State.forAll_proj (g := (State.get · o)) (fun s g => State.get_peakGroup hg g a b), ite_self]

/-- Time that runs on moves the clock's seconds, and objects of the power groups (R296, R490). -/
theorem State.get_adv_ne {s : State} {t : Nat} (hsec : o ≠ O.BK_RTC_SEC) : (s.adv t).get o = s.get o := by
  have hrtc (s : State) (u dt : Nat) : ({ s with up := u }.rtcRun dt).get o = s.get o := by
    simp only [State.rtcRun, State.get_ite, State.get_addC_ne hsec]
    exact ite_self _
  have hsteer (s : State) (m : PtMark) (n : Nat) : ((s.ptNote m).steerRun n).get o = s.get o := rfl
  simp only [State.adv, State.get_ite, hsteer, hrtc, State.get_peakRun hg, ite_self]

end

/-! ### Commands of BK_CONTROL (R490 to R492, R494) -/

section
variable {p : Path} {s : State} {w new : Nat}

theorem cmdBk_of_ok {bit : Nat} {s' : State} (hserve : s.serves p O.BK_CONTROL = true)
    (hw : w = putBit (s.get O.BK_CONTROL) bit true) (hfits : s.fits O.BK_CONTROL w = true)
    (hdone : wrBkControl (s.merged O.BK_CONTROL w) w s = .ok s') : cmdBk p bit s = .next s' := by
  subst hw
  exact access_checked_of_ok hserve hfits hdone

/-- BK_CONTROL takes its fields, and RTC_LOCK stays set (R10). -/
def State.bkStore (s : State) (new : Nat) : State := s.set O.BK_CONTROL (putBit new 4 (bitOf new 4 || rtcLocked s))

theorem wrBkControl_rtcLoad (hunlocked : rtcLocked s = false) (h0 : bitOf w 0 = true) (h1 : bitOf w 1 = false)
    (h2 : bitOf w 2 = false) (h3 : bitOf w 3 = false) :
    wrBkControl new w s = .ok (((s.bkStore new).adv (rtcEdge (s.bkStore new))).rtcSet
      (((s.bkStore new).adv (rtcEdge (s.bkStore new))).get O.BK_RTC_SET) 0) := by
  simp only [wrBkControl, need, hunlocked, h0, h1, h2, h3, Bool.and_false, Bool.not_false, Bool.false_eq_true, if_true, if_false,
    false_and, State.bkStore, State.get_adv_ne (o := O.BK_RTC_SET) (by decide) (by decide)]

theorem wrBkControl_locked (hlocked : rtcLocked s = true) (h0 : bitOf w 0 = true) :
    wrBkControl new w s = .no s abState := by
  simp [wrBkControl, need, hlocked, h0]

theorem wrBkControl_wakeClr (h0 : bitOf w 0 = false) (h1 : bitOf w 1 = true) (h2 : bitOf w 2 = false)
    (h3 : bitOf w 3 = false) :
    wrBkControl new w s = .ok (if bkBit (s.bkStore new) B.BK_STATUS_WAKE then
      ((s.bkStore new).bkPut B.BK_STATUS_WAKE false).emit (.note "WAKE" [0]) else s.bkStore new) := by
  simp only [wrBkControl, need, h0, h1, h2, h3, Bool.false_and, Bool.not_false, Bool.false_eq_true, if_true, if_false, true_and,
    false_and]
  rfl

theorem wrBkControl_jnlClear (h0 : bitOf w 0 = false) (h1 : bitOf w 1 = false) (h2 : bitOf w 2 = false)
    (h3 : bitOf w 3 = true) :
    wrBkControl new w s = .ok (((s.bkStore new).set O.BK_JNL_COUNT 0).setBk { (s.bkStore new).bk with journal := [] }) := by
  simp [wrBkControl, need, h0, h1, h2, h3, State.bkStore]

/-- What CHG_RESTART does to a stopped charger (R494, R495). -/
def State.chgRestart (s : State) : State :=
  if bkBit s B.BK_STATUS_CELL_ABSENT ∧ (s.getI O.BK_VBAT < 2000 ∨ 3600 < s.getI O.BK_VBAT) then s.cellGone
  else ((s.setBk { s.bk with chgStopped := false }).bkPut B.BK_STATUS_CELL_ABSENT false).chgSync

theorem wrBkControl_chgRestart (h0 : bitOf w 0 = false) (h1 : bitOf w 1 = false) (h2 : bitOf w 2 = true)
    (h3 : bitOf w 3 = false) :
    wrBkControl new w s = .ok (if (s.bkStore new).bk.chgStopped then (s.bkStore new).chgRestart else s.bkStore new) := by
  simp only [wrBkControl, need, h0, h1, h2, h3, Bool.false_and, Bool.not_false, Bool.false_eq_true, if_true, if_false, true_and,
    false_and, decide_eq_true_eq]
  rfl

/-- A command bit is written as 1, and the other bits as they stand. -/
theorem bitOf_command {i j : Nat} (hw : w = putBit (s.get O.BK_CONTROL) i true) (h : j ≠ i) :
    bitOf w j = s.bit O.BK_CONTROL j := by
  rw [hw, bitOf_putBit_ne h]
  rfl

theorem bitOf_command_self {i : Nat} (hw : w = putBit (s.get O.BK_CONTROL) i true) : bitOf w i = true := by
  rw [hw, bitOf_putBit_self]

end

/-- Settles O45: the writes of BK_CONTROL by the bit they command, and the power changes by the side they leave. -/
theorem backupPowerAndClockAct : Obligations.BackupPowerAndClockAct := by
  refine ⟨?lost, ?back, ?por, ?porState, ?load, ?locked, ?sec, ?alarm, ?wake, ?noWake, ?clear, ?select, ?host⟩
  case lost =>
    rintro t _ _ s hmain rfl rfl
    exact execMainPowerLost_of_main hmain
  case back =>
    rintro t _ _ s hbattery rfl rfl
    exact execMainPowerBack_of_battery hbattery
  case por =>
    intro t s
    refine ⟨_, execBackupPor_eq t s, ?rtc, ?count, rfl, ?mode, rfl, rfl, ?pending⟩
    case rtc => exact (State.get_journal_ne (by decide)).trans (State.get_fromNoPower_kept rfl)
    case count => exact (State.get_inc_self _ _).trans (congrArg (fun n => trunc 32 (n + 1)) (State.get_fromNoPower_kept rfl))
    case mode =>
      exact (State.get_journal_ne (by decide)).trans ((State.get_fromNoPower_other rfl).trans (State.toReset_mode _))
    case pending => exact (State.journal_pending _ _ _).trans ((State.toReset_pending _).trans (s.adv_pending t))
  case porState =>
    rintro t _ s rfl
    rfl
  case load =>
    rintro p w _ s hserve hw hfits h1 h2 h3 rfl hunlocked
    exact cmdBk_of_ok hserve hw hfits (wrBkControl_rtcLoad hunlocked (bitOf_command_self hw)
      ((bitOf_command hw (by decide)).trans h1) ((bitOf_command hw (by decide)).trans h2)
      ((bitOf_command hw (by decide)).trans h3))
  case locked =>
    intro p w s hserve hw hfits hlocked
    subst hw
    exact access_of_no hserve ((checked_of_fits hfits).trans (wrBkControl_locked hlocked (bitOf_command_self rfl)))
  case sec => exact fun p s hserve => access_of_ok (f := fun s => .ok (s.rtcRead p)) hserve rfl
  case alarm => exact fun t s hset heq hnew => congrArg Host.Outcome.next (if_pos ⟨by rwa [heq], heq, hnew⟩)
  case wake =>
    rintro p w _ s hserve hw hfits h0 h2 h3 rfl hwake
    exact cmdBk_of_ok hserve hw hfits ((wrBkControl_wakeClr ((bitOf_command hw (by decide)).trans h0)
      (bitOf_command_self hw) ((bitOf_command hw (by decide)).trans h2) ((bitOf_command hw (by decide)).trans h3)).trans
      (congrArg WRes.ok (if_pos hwake)))
  case noWake =>
    rintro p w _ s hserve hw hfits h0 h2 h3 rfl hwake
    exact cmdBk_of_ok hserve hw hfits ((wrBkControl_wakeClr ((bitOf_command hw (by decide)).trans h0)
      (bitOf_command_self hw) ((bitOf_command hw (by decide)).trans h2) ((bitOf_command hw (by decide)).trans h3)).trans
      (congrArg WRes.ok (if_neg (ne_true_of_eq_false hwake))))
  case clear =>
    rintro p w _ s hserve hw hfits h0 h1 h2 rfl
    exact cmdBk_of_ok hserve hw hfits (wrBkControl_jnlClear ((bitOf_command hw (by decide)).trans h0)
      ((bitOf_command hw (by decide)).trans h1) ((bitOf_command hw (by decide)).trans h2) (bitOf_command_self hw))
  case select =>
    rintro p v _ _ s hserve hv rfl rfl
    exact access_of_ok hserve (by rw [Nat.mod_eq_of_lt hv]; rfl)
  case host => exact fun p v s hserve => access_of_ok hserve rfl

end Sys2Proof.Machine
end

section
/-! The cell, its charger and its gauge (R493 to R496), and O46. -/
namespace Sys2Proof.Machine

/-! ### The charger's field and the gauge's objects -/

section
variable {s s' : State} {o : Obj}

theorem chargerState_of_get (h : s'.get O.BK_STATUS = s.get O.BK_STATUS) : chargerState s' = chargerState s :=
  congrArg (fieldOf · B.BK_STATUS_CHARGER) h

theorem chargerState_charger {st : Nat} (h : st < 4) : chargerState (s.charger st) = st := by
  simp only [chargerState, State.fld, State.charger, State.get_setF_self]
  show (s.get O.BK_STATUS - s.get O.BK_STATUS / 16 % 4 * 16 + st % 4 * 16) % 2 ^ 32 / 16 % 4 = st
  omega

/-- The mark of an unlearned gauge is another bit than the charger's field. -/
theorem chargerState_unlearned {b : Bool} : chargerState (s.bkPut B.BK_STATUS_UNLEARNED b) = chargerState s := by
  simp only [chargerState, State.fld, State.bkPut, State.get_setB_self, putBit_eq]
  show (s.get O.BK_STATUS - s.get O.BK_STATUS / 2 ^ 7 % 2 * 2 ^ 7 + b.toNat * 2 ^ 7) % 2 ^ 32 / 16 % 4 = s.get O.BK_STATUS / 16 % 4
  have := b.toNat_le
  omega

theorem State.get_gaugeRun_ne (h : o ≠ O.BK_GAUGE) : s.gaugeRun.get o = s.get o := by
  simp only [State.gaugeRun, State.get_ite, State.setBk_get, State.get_set_ne h, State.get_setI_ne h, ite_self]

theorem State.get_bkHit_ne {bit cls : Nat} (h : o ≠ O.BK_EVENTS) (hev : o.grp ≠ .ev) (hdm : o.grp ≠ .dm) :
    (s.bkHit bit cls).get o = s.get o := by
  unfold State.bkHit
  split
  · exact State.get_setB_ne h
  · exact State.get_hit_ne h hev hdm

end

/-! ### A charge that is full (R494, R496) -/

/-- The charger stops at full, with its journal entry and its event (R494). -/
def State.chargeDone (s : State) : State :=
  (((s.charger 3).setBk { s.bk with chgI := 0 }).chgJournal 1).bkHit B.BK_EVENTS_CHG_FULL

/-- The gauge is set to the capacity (R496). -/
def State.gaugeFull (s : State) : State := (s.set O.BK_GAUGE (s.get O.BK_CAP)).setBk { s.bk with gaugeRem := 0 }

/-- A full charge teaches the gauge (R496). -/
def State.learn (s : State) : State :=
  if bkBit s B.BK_STATUS_UNLEARNED then (s.bkPut B.BK_STATUS_UNLEARNED false).gaugeJournal true else s

section
variable {t : Nat} {s : State}

theorem State.get_chargeDone {o : Obj} (hst : o ≠ O.BK_STATUS) (hev : o ≠ O.BK_EVENTS) (hjnl : o ≠ O.BK_JNL_COUNT)
    (hg : o.grp ≠ .ev) (hdm : o.grp ≠ .dm) : s.chargeDone.get o = s.get o :=
  (State.get_bkHit_ne hev hg hdm).trans ((State.get_journal_ne hjnl).trans (State.get_setF_ne hst))

theorem chargerState_chargeDone : chargerState s.chargeDone = 3 :=
  (chargerState_of_get ((State.get_bkHit_ne (by decide) (by decide) (by decide)).trans (State.get_journal_ne (by decide)))).trans
    (chargerState_charger (s := s) (by decide))

theorem chargerState_gaugeFull : chargerState s.gaugeFull = chargerState s :=
  chargerState_of_get (State.get_set_ne (o := O.BK_GAUGE) (by decide))

theorem chargerState_learn : chargerState s.learn = chargerState s := by
  unfold State.learn
  split
  · exact (chargerState_of_get (State.get_journal_ne (by decide))).trans chargerState_unlearned
  · rfl

theorem State.get_learn {o : Obj} (hst : o ≠ O.BK_STATUS) (hjnl : o ≠ O.BK_JNL_COUNT) : s.learn.get o = s.get o := by
  unfold State.learn
  split
  · exact (State.get_journal_ne hjnl).trans (State.get_setB_ne hst)
  · rfl

theorem bkBit_learn : bkBit s.learn B.BK_STATUS_UNLEARNED = false := by
  unfold State.learn
  split
  case isTrue => exact (State.bit_of_get (State.get_journal_ne (by decide))).trans (State.bit_setB_self (by decide))
  case isFalse h => exact Bool.not_eq_true _ ▸ h

section
variable (hfull : chargeFull (s.adv t) = true)
include hfull

theorem execChargeFull_eq : execChargeFull t s =
    if (s.adv t).gaugeRun.chargeDone.get O.BK_CAP = 0 then .next (s.adv t).gaugeRun.chargeDone
    else .next (s.adv t).gaugeRun.chargeDone.gaugeFull.learn :=
  if_neg (by rw [hfull]; decide)

theorem execChargeFull_of_cap (hcap : (s.adv t).gaugeRun.chargeDone.get O.BK_CAP ≠ 0) :
    execChargeFull t s = .next (s.adv t).gaugeRun.chargeDone.gaugeFull.learn :=
  (execChargeFull_eq hfull).trans (if_neg hcap)

end

theorem get_cap_chargeDone : s.gaugeRun.chargeDone.get O.BK_CAP = s.get O.BK_CAP :=
  (State.get_chargeDone (by decide) (by decide) (by decide) (by decide) (by decide)).trans (State.get_gaugeRun_ne (by decide))

theorem get_gauge_full {s : State} (hcap : s.get O.BK_CAP < 2 ^ 31) : s.gaugeFull.learn.get O.BK_GAUGE = s.get O.BK_CAP := by
  refine (State.get_learn (by decide) (by decide)).trans ((State.get_set_self s O.BK_GAUGE _).trans (Nat.mod_eq_of_lt ?_))
  exact hcap.trans (by decide)

/-! ### Charges that end (R494, R495) -/

theorem State.chargeLate_of_running (hrun : chargerState s = 1 ∨ chargerState s = 2) :
    s.chargeLate = (((s.gaugeRun.charger 0).setBk { s.gaugeRun.bk with chgStopped := true, chgI := 0 }).chgJournal 3).bkHit
      B.BK_EVENTS_CHG_FAULT 1 :=
  if_pos hrun

end

/-! ### A reading of VBAT (R493, R496) -/

/-- The gauge runs with the current of a charger that drives (R496). -/
def State.vbatGauge (s : State) (ua : Nat) : State :=
  (s.setBk { s.bk with chgI := if chargerState s = 1 ∨ chargerState s = 2 then ua else 0 }).gaugeRun

/-- A reading counts toward LOW and EMPTY, and raises their alarms (R496). -/
def State.vbatAlarms (s : State) (v : Int) : State :=
  let lo := if v < s.getI O.BK_V_LOW then s.bk.belowLow + 1 else 0
  let em := if v < s.getI O.BK_V_EMPTY then s.bk.belowEmpty + 1 else 0
  let s := s.setBk { s.bk with belowLow := lo, belowEmpty := em }
  let s := s.cellAlarm B.BK_STATUS_LOW 1 lo v (s.getI O.BK_V_LOW)
  s.cellAlarm B.BK_STATUS_EMPTY 2 em v (s.getI O.BK_V_EMPTY)

/-- The charger follows a reading (R494). -/
def State.vbatCharger (s : State) (v : Int) : State :=
  if chargerState s = 1 ∧ s.getI O.BK_CHG_V ≤ v then s.charger 2
  else if chargerState s = 3 ∧ cellType s = 1 ∧ v < s.getI O.BK_CHG_V - 100 then (s.charger 0).chgStart
  else s.chgStart

theorem execVbatMeasure_of_due {mv ua t : Nat} {s s3 s8 : State} (hdue : vbatDue (s.adv t) = true)
    (hs3 : s3 = (((s.adv t).setBk { (s.adv t).bk with vbatAt := some (s.adv t).up }).vbatGauge ua).set O.BK_VBAT (min mv 32767))
    (hs8 : s8 = ((s3.vbatAlarms (s3.getI O.BK_VBAT)).vbatCharger (s3.getI O.BK_VBAT)).chargeLow) :
    execVbatMeasure mv ua t s = .next (if s8.get O.BK_CAP ≠ 0 ∧
      ((s8.get O.BK_GAUGE = 0 ∧ s8.getI O.BK_V_LOW + 100 ≤ s3.getI O.BK_VBAT) ∨
        (s8.get O.BK_CAP ≤ 5 * s8.get O.BK_GAUGE ∧ bkBit s8 B.BK_STATUS_LOW = true)) then s8.unlearn else s8) := by
  subst hs8 hs3
  rw [execVbatMeasure, if_neg (by rw [hdue]; decide)]
  simp only [decide_eq_true_eq]
  rfl

/-- CHG_RESTART alone, over the word that BK_CONTROL holds (R494, R495). -/
theorem execChgRestart_of_fits {p : Path} {w : Nat} {s : State} (hserve : s.serves p O.BK_CONTROL = true)
    (hw : w = putBit (s.get O.BK_CONTROL) 2 true) (hfits : s.fits O.BK_CONTROL w = true)
    (h0 : s.bit O.BK_CONTROL 0 = false) (h1 : s.bit O.BK_CONTROL 1 = false) (h3 : s.bit O.BK_CONTROL 3 = false) :
    execChgRestart p s = .next (if (s.bkStore (s.merged O.BK_CONTROL w)).bk.chgStopped then
      (s.bkStore (s.merged O.BK_CONTROL w)).chgRestart else s.bkStore (s.merged O.BK_CONTROL w)) :=
  cmdBk_of_ok hserve hw hfits (wrBkControl_chgRestart ((bitOf_command hw (by decide)).trans h0)
    ((bitOf_command hw (by decide)).trans h1) (bitOf_command_self hw) ((bitOf_command hw (by decide)).trans h3))

/-- Settles O46: a reading of VBAT step by step, and each end of a charge by the charger's state. -/
theorem cellAndGaugeAct : Obligations.CellAndGaugeAct := by
  refine ⟨?measure, ?noCap, ?full, ?learned, ?late, ?removed, ?idle, ?restart, ?absent, ?running, ?gauge⟩
  case measure =>
    rintro mv ua t _ _ _ _ _ _ _ _ _ _ _ s hdue rfl rfl rfl rfl rfl rfl rfl rfl rfl rfl rfl
    exact execVbatMeasure_of_due hdue rfl rfl
  case noCap =>
    rintro t _ _ s hfull rfl rfl hcap
    exact (execChargeFull_eq hfull).trans (if_pos hcap)
  case full =>
    rintro t _ _ _ s hfull rfl rfl hcap rfl
    exact execChargeFull_of_cap hfull hcap
  case learned =>
    intro t s hfull hcap hsmall
    refine ⟨_, execChargeFull_of_cap hfull (by rwa [get_cap_chargeDone]), ?_, ?_, bkBit_learn⟩
    · rw [get_gauge_full (by rwa [get_cap_chargeDone]), get_cap_chargeDone]
    · rw [chargerState_learn, chargerState_gaugeFull, chargerState_chargeDone]
  case late =>
    rintro t _ s htime hrun rfl
    exact (if_pos htime).trans (congrArg Host.Outcome.next (State.chargeLate_of_running hrun))
  case removed => exact fun t s hrun => congrArg Host.Outcome.next (if_pos hrun)
  case idle => exact fun t s hidle => congrArg Host.Outcome.next (if_neg (by omega))
  case restart =>
    rintro p w _ s hserve hw hfits h0 h1 h3 rfl hstopped hcell
    refine (execChgRestart_of_fits hserve hw hfits h0 h1 h3).trans
      (congrArg Host.Outcome.next ((if_pos hstopped).trans (if_neg ?_)))
    rintro ⟨habsent, hbad⟩
    rcases hcell with hpresent | ⟨hlow, hhigh⟩
    · exact absurd (hpresent.symm.trans habsent) (by decide)
    · exact hbad.elim (Int.not_lt.mpr hlow) (Int.not_lt.mpr hhigh)
  case absent =>
    rintro p w _ s hserve hw hfits h0 h1 h3 rfl hstopped habsent hbad
    exact (execChgRestart_of_fits hserve hw hfits h0 h1 h3).trans
      (congrArg Host.Outcome.next ((if_pos hstopped).trans (if_pos ⟨habsent, hbad⟩)))
  case running =>
    rintro p w _ s hserve hw hfits h0 h1 h3 rfl hstopped
    exact (execChgRestart_of_fits hserve hw hfits h0 h1 h3).trans
      (congrArg Host.Outcome.next (if_neg (ne_true_of_eq_false hstopped)))
  case gauge =>
    rintro p v _ s hserve hv hcap rfl
    refine access_of_ok hserve ?_
    rw [Nat.mod_eq_of_lt hv]
    exact need_of (decide_eq_true hcap)

end Sys2Proof.Machine
end

section
/-! Fault injection (R533 to R538), and O50. -/
namespace Sys2Proof.Machine

/-! ### Arming (R534 to R536) -/

section
variable {s : State}

theorem wrFiCmd_arm (hpoint : fiPoint s ≤ 79) (hmode : fiMode s ≠ 0) :
    wrFiCmd 1 s =
      if !fiBit s B.FI_STATUS_UNLOCKED ∨ fiBit s B.FI_STATUS_ARMED ∨ !fiUnitOk s ∨ s.clk.inReset ∨ s.mode < 2
        ∨ (s.mode = mdPrint ∧ fiNotInPrint s) then s.fiRefused
      else .ok ((s.setFi { forced := 0, lastAt := s.up }).setB O.FI_STATUS B.FI_STATUS_ARMED true) :=
  need_of (decide_eq_true ⟨hpoint, hmode⟩)

theorem wrFiCmd_arm_of_range (h : 79 < fiPoint s ∨ fiMode s = 0) : wrFiCmd 1 s = .no s abRange := by
  have hbad : ¬(decide (fiPoint s ≤ 79 ∧ fiMode s ≠ 0) = true) := by
    rw [decide_eq_true_eq]
    omega
  exact if_neg hbad

end

/-! ### An occurrence (R533, R537, R538) -/

section
variable {a b t : Nat} {s : State}

theorem execFiInject_of_due {real : Bool} (hdue : fiDue (s.adv t) = true)
    (hforce : real = true ∨ (s.adv t).force (fiPoint (s.adv t)) (fiUnit (s.adv t)) a b ≠ s.adv t) :
    execFiInject a b real t s = .next ((s.adv t).fiForce a b real) := by
  refine (if_neg (by rw [hdue]; decide)).trans (if_neg ?_)
  rintro ⟨hr, hsame⟩
  exact hforce.elim (fun h => absurd hr (by rw [h]; decide)) (absurd hsame)

theorem execFiInject_of_same (hsame : (s.adv t).force (fiPoint (s.adv t)) (fiUnit (s.adv t)) a b = s.adv t) :
    execFiInject a b false t s = .next (s.adv t) := by
  by_cases hdue : fiDue (s.adv t) = true
  · exact (if_neg (by rw [hdue]; decide)).trans (if_pos ⟨rfl, hsame⟩)
  · exact if_pos (by simpa using hdue)

end

/-- Settles O50: a key, an arm and a cancel by their conditions, an occurrence by what is due. -/
theorem faultInjectionActs : Obligations.FaultInjectionActs := by
  refine ⟨?key, ?noKey, ?arm, ?refused, ?range, ?cancel, ?noCancel, ?collided, ?forced, ?same, ?notDue⟩
  case key => exact fun p v s hserve hv => access_of_ok hserve (congrArg WRes.ok (if_pos hv))
  case noKey => exact fun p v s hserve hv => access_of_ok hserve (congrArg WRes.ok (if_neg hv))
  case arm =>
    intro p s hserve hpoint hmode hunlocked harmed hunit hreset hlow hprint
    refine access_of_ok hserve ((wrFiCmd_arm hpoint hmode).trans (if_neg ?_))
    have hprint' : ¬(s.mode = mdPrint ∧ fiNotInPrint s = true) :=
      fun h => hprint.elim (absurd h.1) (fun hno => absurd (hno.symm.trans h.2) (by decide))
    simp [hunlocked, harmed, hunit, hreset, Nat.not_lt.mpr hlow, -not_and, hprint']
  case refused =>
    intro p s hserve hpoint hmode hwhy
    refine access_of_no hserve ((wrFiCmd_arm hpoint hmode).trans (if_pos ?_))
    rwa [Bool.not_eq_true', Bool.not_eq_true']
  case range => exact fun p s hserve h => access_of_no hserve (wrFiCmd_arm_of_range h)
  case cancel => exact fun p s hserve harmed => access_of_ok hserve (congrArg WRes.ok (if_pos harmed))
  case noCancel =>
    exact fun p s hserve harmed => access_of_ok hserve (congrArg WRes.ok (if_neg (ne_true_of_eq_false harmed)))
  case collided =>
    rintro a b t _ s hdue rfl
    exact execFiInject_of_due hdue (.inl rfl)
  case forced =>
    rintro a b t _ _ s hdue hforce rfl rfl
    exact execFiInject_of_due hdue (.inr hforce)
  case same => exact fun a b t s hsame => execFiInject_of_same hsame
  case notDue => exact fun a b real t s hdue => if_pos (by rw [hdue]; rfl)

end Sys2Proof.Machine
end

section
/-! The OTP: its row commands and burns (R514 to R520), and O48; the life-cycle requests (R522, R523), and O49. -/
namespace Sys2Proof.Machine

/-! ### Row commands (R514, R516, R520) -/

section
variable {l : FuseReads} {s : State} {row d c a : Nat}

/-- The three readings of a row are put into the margin objects (R516). -/
def State.margins (s : State) (f : Fuse) : State :=
  ((s.set O.OT_MARGIN_NORM f.norm).set O.OT_MARGIN_HIGH f.high).set O.OT_MARGIN_LOW f.low

/-- A burn in progress keeps OT_ROW_RESULT. -/
def State.rowDone (s : State) (r : Nat) : State := if burnBusy s then s else s.set O.OT_ROW_RESULT r

/-- A refused row command leaves its code, and one under curfew is counted as deferred (R480, R517). -/
theorem State.rowRefused_eq {s1 : State} (hs1 : s1 = if burnBusy s then s else s.set O.OT_ROW_RESULT c) :
    s.rowRefused (c, a) = .no (if c = 4 then s1.deferred else s1) a := by
  subst hs1
  rfl

theorem readLocked_margins (f : Fuse) (g : Nat) : readLocked (s.margins f) g = readLocked s g :=
  State.bit_of_get ((State.get_set_ne (by decide)).trans ((State.get_set_ne (by decide)).trans (State.get_set_ne (by decide))))

theorem wrRowCmd_read (hrow : row = s.get O.OT_ROW_ADDR % 512) {f : Fuse}
    (hf : f = if readLocked (s.otpReads l) (regionOf row) then {} else rowFuse (s.otpReads l) row) :
    wrRowCmd l 1 s =
      .ok (((s.otpReads l).margins f).rowDone (if readLocked (s.otpReads l) (regionOf row) then 7 else 0)) := by
  rw [← readLocked_margins f]
  subst hrow hf
  rfl

theorem wrRowCmd_burn (hrow : row = s.get O.OT_ROW_ADDR % 512) (hd : d = storedValue row (s.get O.OT_ROW_DATA))
    (hnone : burnRefusal s row d = none) :
    wrRowCmd l 2 s = .ok ((s.set O.OT_ROW_RESULT 1).burnStart { kind := 2, todo := [(row, d)] }) := by
  subst hd hrow
  simp [wrRowCmd, hnone]

theorem wrRowCmd_burn_of_refusal (hrow : row = s.get O.OT_ROW_ADDR % 512) (hd : d = storedValue row (s.get O.OT_ROW_DATA))
    (href : burnRefusal s row d = some (c, a)) : wrRowCmd l 2 s = s.rowRefused (c, a) := by
  subst hd hrow
  simp [wrRowCmd, href]

theorem wrRowCmd_rescan : wrRowCmd l 3 s = .ok ((s.otpReads l).crcScan.weakScan.rowDone 0) := rfl

theorem wrRowCmd_lock_of_curfew (hcurfew : curfew s = true) : wrRowCmd l 4 s = s.rowRefused (4, abState) :=
  if_pos hcurfew

theorem wrRowCmd_lock (hcurfew : curfew s = false) : wrRowCmd l 4 s =
    if 5 ≤ s.get O.OT_LC_STATE ∨ !burnMode s ∨ burnBusy s then s.rowRefused (2, abState)
    else .ok ((s.set O.OT_ROW_RESULT 1).burnStart { kind := 4, todo := lockBurns s (s.get O.OT_ROW_DATA % 65536) }) :=
  if_neg (ne_true_of_eq_false hcurfew)

end

/-! ### The end of a row's burn (R516, R517) -/

section
variable {l : FuseReads} {t row d : Nat} {b : Burn} {rest : List (Nat × Nat)} {s : State}

/-- What a burn does with a row that took its data (R516, R517). -/
def State.rowTaken (s : State) (b : Burn) (rest : List (Nat × Nat)) : State :=
  if rest ≠ [] then
    if curfew s then (s.burnEnd b 4 6).deferred else s.setOtp { s.otp with burn := some { b with todo := rest } }
  else
    let s := (s.burnEnd b 0 0).btHit O.OT_EVENTS B.OT_EVENTS_BURN_DONE
    if b.kind = 5 then (s.journal 0x12 (jdata [(0, b.old), (1, b.target)])).resetEvent 8 else s

variable (hburn : (s.adv t).otp.burn = some b)
include hburn

theorem execOtpBurnDone_of_empty (htodo : b.todo = []) : execOtpBurnDone l t s = .next ((s.adv t).burnEnd b 0 0) := by
  simp only [execOtpBurnDone, hburn, htodo]

variable (htodo : b.todo = (row, d) :: rest)
include htodo

theorem execOtpBurnDone_of_failed (hrow : ((s.adv t).burnRow l row d).2 = false) :
    execOtpBurnDone l t s = .next ((((s.adv t).burnRow l row d).1.burnEnd b 6 7).btHit O.OT_EVENTS B.OT_EVENTS_BURN_FAIL) := by
  simp only [execOtpBurnDone, hburn, htodo, hrow, Bool.not_false, if_true]

theorem execOtpBurnDone_of_taken (hrow : ((s.adv t).burnRow l row d).2 = true) :
    execOtpBurnDone l t s = .next (((s.adv t).burnRow l row d).1.rowTaken b rest) := by
  simp only [execOtpBurnDone, hburn, htodo, hrow, Bool.not_true, Bool.false_eq_true, if_false, State.rowTaken]
  simp only [apply_ite Host.Outcome.next]

end

/-- Settles O48: each row command by its number and its refusal, each end of a burn by its row and what is left. -/
theorem otpRowsAct : Obligations.OtpRowsAct := by
  refine ⟨?read, ?readLocked, ?burn, ?burnRefused, ?rescan, ?lock, ?lockRefused, ?lockCurfew, ?noBurn, ?empty, ?last, ?more,
    ?failed⟩
  case read =>
    rintro p l _ row _ _ s hserve rfl hrow hlocked rfl rfl
    refine access_of_ok hserve ((wrRowCmd_read hrow rfl).trans ?_)
    simp only [hlocked, Bool.false_eq_true, if_false]
    rfl
  case readLocked =>
    rintro p l _ row _ s hserve rfl hrow hlocked rfl
    refine access_of_ok hserve ((wrRowCmd_read hrow rfl).trans ?_)
    simp only [hlocked, if_true]
    rfl
  case burn => exact fun p row d s hserve hrow hd hnone => access_of_ok hserve (wrRowCmd_burn hrow hd hnone)
  case burnRefused =>
    intro p row d c a s1 s hserve hrow hd href hs1
    exact access_of_no hserve ((wrRowCmd_burn_of_refusal hrow hd href).trans (State.rowRefused_eq hs1))
  case rescan =>
    rintro p l s1 s hserve hs1
    exact access_of_ok hserve (wrRowCmd_rescan.trans (congrArg (fun s => WRes.ok (s.rowDone 0)) hs1.symm))
  case lock =>
    intro p s hserve hcurfew hlc hmode hbusy
    refine access_of_ok hserve ((wrRowCmd_lock hcurfew).trans (if_neg ?_))
    simp [Nat.not_le.mpr hlc, hmode, hbusy]
  case lockRefused =>
    intro p s1 s hserve hcurfew hwhy hs1
    refine access_of_no hserve (((wrRowCmd_lock hcurfew).trans (if_pos ?_)).trans ((State.rowRefused_eq hs1).trans
      (congrArg (WRes.no · abState) (if_neg (by decide)))))
    rwa [Bool.not_eq_true']
  case lockCurfew =>
    intro p s1 s hserve hcurfew hs1
    exact access_of_no hserve (((wrRowCmd_lock_of_curfew hcurfew).trans (State.rowRefused_eq hs1)).trans
      (congrArg (WRes.no · abState) (if_pos rfl)))
  case noBurn =>
    intro l t s hburn
    exact (by simp only [execOtpBurnDone, hburn] : execOtpBurnDone l t s = .next (s.adv t))
  case empty => exact fun l t b s hburn htodo => execOtpBurnDone_of_empty hburn htodo
  case last =>
    rintro l t b row d _ _ s hburn htodo rfl hrow rfl
    exact (execOtpBurnDone_of_taken hburn htodo hrow).trans (congrArg Host.Outcome.next (if_neg (fun h => h rfl)))
  case more =>
    rintro l t b row d rest _ s hburn htodo hrest rfl hrow
    exact (execOtpBurnDone_of_taken hburn htodo hrow).trans (congrArg Host.Outcome.next (if_pos hrest))
  case failed =>
    rintro l t b row d rest _ s hburn htodo rfl hrow
    exact execOtpBurnDone_of_failed hburn htodo hrow

/-! ### Life-cycle requests (R522, R523) -/

/-- Each request clears the token words (R522). -/
def State.clearTokens (s : State) : State := s.forAll (List.range 8) (fun z k => z.set (O.OT_TOKEN k) 0)

section
variable {p : Path} {v : Nat} (hv : decide (1 ≤ v ∧ v ≤ 5) = true)
include hv

theorem wrLcCmd_of_refusal {c : Nat} {tok : Bool} {s s2 s3 : State} (href : lcRefusal s v = some (c, tok))
    (hs2 : s2 = if tok then s.clearTokens.inc O.OT_TOKEN_FAILS else s.clearTokens)
    (hs3 : s3 = if c = 6 ∧ curfew s2 = true then s2.deferred else s2) :
    wrLcCmd v s = .no ((s3.set O.OT_LC_RESULT c).btHit O.OT_EVENTS B.OT_EVENTS_LC_REFUSED) abState := by
  have hin : ¬(v < 1 ∨ 5 < v) := by
    have := of_decide_eq_true hv
    omega
  subst hs3 hs2
  simp only [wrLcCmd, if_neg hin, href]
  rfl

theorem wrLcCmd_of_accepted {s : State} (hnone : lcRefusal s v = none) :
    wrLcCmd v s = .ok ((s.clearTokens.set O.OT_LC_RESULT 1).burnStart
      { kind := 5, todo := lcBurns s.clearTokens v, old := s.clearTokens.get O.OT_LC_STATE, target := v }) := by
  have hin : ¬(v < 1 ∨ 5 < v) := by
    have := of_decide_eq_true hv
    omega
  simp only [wrLcCmd, if_neg hin, hnone]
  rfl

end

/-- Settles O49: one write for the five targets, accepted or refused by `lcRefusal`. -/
theorem lifeCycleActs : Obligations.LifeCycleActs := by
  refine ⟨?to1, ?to2, ?to3, ?to4, ?to5, ?no1, ?no2, ?no3, ?no4, ?no5⟩
  case to1 | to2 | to3 | to4 | to5 =>
    rintro p _ s hserve hnone rfl
    exact access_of_ok hserve (wrLcCmd_of_accepted rfl hnone)
  case no1 | no2 | no3 | no4 | no5 =>
    rintro p c tok _ _ _ s hserve href rfl hs2 hs3
    exact access_of_no hserve (wrLcCmd_of_refusal rfl href hs2 hs3)

end Sys2Proof.Machine
end

section
/-! Boot and recovery (R500 to R507), the QSPI flash (R510, R511), and O47. -/
namespace Sys2Proof.Machine

/-! ### The boot sequence (R500, R502) -/

section
variable {l : FuseReads} {silent : Bool} {t : Nat} {s s1 : State} (hreset : (s.adv t).clk.inReset = false)
  (hmode : (s.adv t).mode = mdBoot) (hscan : (s.adv t).bit O.OT_STATUS B.OT_STATUS_SCAN_DONE = false)
  (hs1 : s1 = ((s.adv t).otpReads l).bootScan)
include hreset hmode hscan hs1

theorem execBootSequence_of_scrapped (hlc : 5 ≤ s1.get O.OT_LC_STATE) :
    execBootSequence l silent t s = .next ((s1.set O.BT_RESULT 9).bootJournal) := by
  subst hs1
  exact (if_neg (by simp [hreset, hmode, hscan])).trans (if_pos hlc)

/-- Below life-cycle state 5 the slots are tried in their order (R502). -/
theorem execBootSequence_of_slots {may : Bool} {s2 : State} {ord : List Nat} {r : Option Nat × Nat}
    (hlc : s1.get O.OT_LC_STATE < 5) (hmay : may = (decide (bootSel s1 ≠ 2) && !bootBit s1 0))
    (hs2 : s2 = s1.setB O.BT_STATUS B.BT_STATUS_RECOVERY_ALLOWED may)
    (hord : ord = if bootSel s2 ≠ 1 ∧ silent = false then slotOrder s2 else [])
    (hr : r = trySlots s2 ord (if bootSel s2 = 1 then 0 else if silent then 8 else if ord = [] then 2 else 0)) :
    execBootSequence l silent t s = match r.1 with
      | some k =>
        let s := if r.2 = 0 then s2
          else ((s2.rejectImage r.2 0).setB O.BT_STATUS B.BT_STATUS_FALLBACK true).btHit O.BT_EVENTS B.BT_EVENTS_FALLBACK
        .next ((s.loadBody (slotBody s k)).runImage (slotHeader s k) (k + 1))
      | none =>
        let s := if r.2 = 0 then s2 else s2.rejectImage r.2 1
        .next (if may then s.setB O.BT_STATUS B.BT_STATUS_RECOVERY_WAIT true else (s.set O.BT_RESULT 2).bootJournal) := by
  have hboot : ¬((s.adv t).clk.inReset = true ∨ (s.adv t).mode ≠ mdBoot ∨
      (s.adv t).bit O.OT_STATUS B.OT_STATUS_SCAN_DONE = true) := by simp [hreset, hmode, hscan]
  simp only [execBootSequence, if_neg hboot, ← hs1, if_neg (Nat.not_le.mpr hlc), ← hmay, ← hs2, decide_eq_true_eq, Bool.not_eq_true',
    decide_eq_false_iff_not, not_not, ← hord, ← hr] <;> rfl

end

/-! ### Recovery (R505) -/

section
variable {o : Obj} {s : State}

/-- The reject cause stays as it is while an image runs (R507). -/
theorem get_reject_runImage (h : List Byte) (source : Nat) : (s.runImage h source).get O.BT_REJECT = s.get O.BT_REJECT := by
  have hjournal (s : State) : s.bootJournal.get O.BT_REJECT = s.get O.BT_REJECT := State.get_journal_ne (by decide)
  have hset {s : State} {o : Obj} {v : Nat} (ho : O.BT_REJECT ≠ o) : (s.set o v).get O.BT_REJECT = s.get O.BT_REJECT :=
    State.get_set_ne ho
  have hsetB {s : State} {i : Nat} {b : Bool} : (s.setB O.BT_STATUS i b).get O.BT_REJECT = s.get O.BT_REJECT :=
    State.get_setB_ne (by decide)
  simp only [State.runImage, State.emit_get, hjournal, hsetB]
  rw [hset (by decide), hset (by decide), hset (by decide), hset (by decide), hset (by decide), hsetB, hset (by decide)]

variable {v : Nat} {h body : List Byte} (hh : h = s.mgets (bootAddr 0) 512)
include hh

theorem wrRecovery_of_image {s1 s2 s3 : State} (hwait : recoveryWait s = true) (hmin : 576 ≤ v) (hlen : v = 512 + bodyLen h)
    (hbody : body = s.mgets (bootAddr 512) (bodyLen h))
    (hs1 : s1 = (s.setB O.BT_STATUS B.BT_STATUS_RECOVERY_WAIT false).btHit O.BT_EVENTS B.BT_EVENTS_RECOVERY_DONE)
    (hs2 : s2 = s1.runImage h 3) (hs3 : s3 = s.rejectImage (imageCause s h body) 0) :
    wrRecovery v s = .ok (if imageCause s h body = 0 then s2.journal 0x14 (jdata [(0, 0), (1, s2.get O.BT_REJECT)])
      else s3.journal 0x14 (jdata [(0, 1), (1, imageCause s h body)])) := by
  have hreject : s2.get O.BT_REJECT = s1.get O.BT_REJECT := hs2 ▸ get_reject_runImage h 3
  rw [hreject]
  simp only [wrRecovery, need, ← hh, ← hbody, ← hs1, ← hs2, ← hs3, hwait, hmin, ← hlen, and_self, decide_true, Bool.and_self,
    if_true]
  exact (apply_ite WRes.ok _ _ _).symm

theorem wrRecovery_of_length (hbad : v < 576 ∨ v ≠ 512 + bodyLen h) : wrRecovery v s = .no s abState := by
  have hno : ¬(576 ≤ v ∧ v = 512 + bodyLen h) := by omega
  simp only [wrRecovery, need, ← hh, hno, decide_false, Bool.and_false, Bool.false_eq_true, if_false]

omit hh in
theorem wrRecovery_of_noWait (hwait : recoveryWait s = false) : wrRecovery v s = .no s abState := by
  simp only [wrRecovery, need, hwait, Bool.false_and, Bool.false_eq_true, if_false]

end

/-! ### Host commands of the flash (R510, R511) -/

/-- A host command of the flash, by its number (Table 19.10). -/
def qspiCommand (s : State) (op : Nat) : FlashCmd :=
  ⟨true, op, s.get O.BT_QSPI_ADDR, s.get O.BT_QSPI_LEN, if op = 2 then qspiData s (s.get O.BT_QSPI_LEN) else []⟩

section
variable {s : State} {op : Nat} (hop : decide (1 ≤ op ∧ op ≤ 4) = true)
include hop

theorem wrQspiCmd_of_free (hfree : qspiRefusal s (qspiCommand s op) = none) :
    wrQspiCmd op s = .ok (((s.set O.BT_QSPI_RESULT 1).setB O.BT_STATUS B.BT_STATUS_QSPI_BUSY true).flashAsk (qspiCommand s op)) := by
  have hin : ¬(op < 1 ∨ 4 < op) := by
    have := of_decide_eq_true hop
    omega
  rw [qspiCommand] at hfree ⊢
  simp only [wrQspiCmd, if_neg hin, hfree]

theorem wrQspiCmd_of_refusal {a : Nat} {s1 : State} (href : qspiRefusal s (qspiCommand s op) = some a)
    (hs1 : s1 = if qspiBusy s then s else s.set O.BT_QSPI_RESULT 4) :
    wrQspiCmd op s =
      .no (if qspiBusy s1 = false ∧ s1.mode ≠ mdBoot ∧ op ≠ 1 ∧ curfew s1 then s1.deferred else s1) a := by
  have hin : ¬(op < 1 ∨ 4 < op) := by
    have := of_decide_eq_true hop
    omega
  have hbusy : (if qspiBusy s = false then s.set O.BT_QSPI_RESULT 4 else s) = s1 := by
    rw [hs1]
    cases qspiBusy s <;> rfl
  rw [qspiCommand] at href
  simp only [wrQspiCmd, if_neg hin, href, Bool.not_eq_true', hbusy]

end

/-- A refused read is never counted as deferred. -/
theorem wrQspiCmd_read_of_refusal {s s1 : State} {a : Nat} (href : qspiRefusal s (qspiCommand s 1) = some a)
    (hs1 : s1 = if qspiBusy s then s else s.set O.BT_QSPI_RESULT 4) : wrQspiCmd 1 s = .no s1 a :=
  (wrQspiCmd_of_refusal rfl href hs1).trans (congrArg (WRes.no · a) (if_neg (fun h => h.2.2.1 rfl)))

/-- A refused program or erase under curfew is counted as deferred (R480). -/
theorem wrQspiCmd_change_of_refusal {s s1 : State} {op a : Nat} (hop : decide (2 ≤ op ∧ op ≤ 4) = true)
    (href : qspiRefusal s (qspiCommand s op) = some a) (hs1 : s1 = if qspiBusy s then s else s.set O.BT_QSPI_RESULT 4) :
    wrQspiCmd op s = .no (if qspiBusy s1 = false ∧ s1.mode ≠ mdBoot ∧ curfew s1 then s1.deferred else s1) a := by
  obtain ⟨hlow, hhigh⟩ := of_decide_eq_true hop
  have hread : op ≠ 1 := by omega
  rw [wrQspiCmd_of_refusal (decide_eq_true ⟨by omega, hhigh⟩) href hs1]
  simp only [ne_eq, hread, not_false_eq_true, true_and]

theorem execQspiOpDone_of_running {res t : Nat} {c : FlashCmd} {r : State × Nat} {s s1 : State}
    (hcur : (s.adv t).flash.cur = some c) (hr : r = (s.adv t).flashRun c res)
    (hs1 : s1 = r.1.setFlash { r.1.flash with cur := none }) :
    execQspiOpDone res t s = .next ((if c.host then s1.qspiDone c r.2 else s1.storeStepDone r.2).flashGo) := by
  subst hs1 hr
  simp only [execQspiOpDone, hcur]

/-- Settles O47: the boot sequence by the life-cycle state and the slots, the commands by what refuses them. -/
theorem bootAndFlashAct : Obligations.BootAndFlashAct := by
  refine ⟨?scrapped, ?slots, ?image, ?length, ?noWait, ?read, ?program, ?erase4k, ?erase64k, ?noRead, ?noProgram, ?noErase4k,
    ?noErase64k, ?opDone⟩
  case scrapped =>
    exact fun l silent t s1 s hreset hmode hscan hs1 hlc => execBootSequence_of_scrapped hreset hmode hscan hs1 hlc
  case slots =>
    rintro l silent t s1 may s2 ord r _ _ s hreset hmode hscan hs1 hlc hmay hs2 hord hr rfl rfl
    refine (execBootSequence_of_slots hreset hmode hscan hs1 hlc hmay hs2 hord hr).trans ?_
    cases r.1 <;> rfl
  case image =>
    intro p v h body s1 s2 s3 s hserve hv hwait hmin hh hlen hbody hs1 hs2 hs3
    refine access_of_ok hserve ?_
    rw [Nat.mod_eq_of_lt hv]
    exact wrRecovery_of_image hh hwait hmin hlen hbody hs1 hs2 hs3
  case length =>
    intro p v h s hserve hv _ hh hbad
    refine access_of_no hserve ?_
    rw [Nat.mod_eq_of_lt hv]
    exact wrRecovery_of_length hh hbad
  case noWait => exact fun p v s hserve _ hwait => access_of_no hserve (wrRecovery_of_noWait hwait)
  case read | program | erase4k | erase64k =>
    rintro p _ s hserve rfl hfree
    exact access_of_ok hserve (wrQspiCmd_of_free rfl hfree)
  case noRead =>
    rintro p _ a s1 s hserve rfl href hs1
    exact access_of_no hserve (wrQspiCmd_read_of_refusal href hs1)
  case noProgram | noErase4k | noErase64k =>
    rintro p _ a s1 s hserve rfl href hs1
    exact access_of_no hserve (wrQspiCmd_change_of_refusal rfl href hs1)
  case opDone => exact fun res t c r s1 s hcur hr hs1 => execQspiOpDone_of_running hcur hr hs1

end Sys2Proof.Machine
end
